-- ==== Sys2Proof/Word.lean ====
section
/-! DEFINITION. The plainest words of the model: numbers of tiles, channels, banks and so on as
bounded numbers (R1, R4), and the Byte. -/

namespace Sys2Proof

/-- Tile numbers 0 to 63 (R1, R4). -/
abbrev TileN := Fin 64
/-- Channels of a tile, c = 2 * layer + half (R4). -/
abbrev ChanN := Fin 48
/-- Bank numbers of a channel (R37). -/
abbrev BankN := Fin 16
/-- Nib arrays of a tile (R152). -/
abbrev ArrayN := Fin 4
/-- Engines of a tile (R207). -/
abbrev EngineN := Fin 6
/-- Mover channels of a tile (R208). -/
abbrev MoverN := Fin 12
/-- Host ports of a tile (R407). -/
abbrev PortN := Fin 4
/-- Rails (R305). -/
abbrev RailN := Fin 66
/-- Mailbox pairs of a tile (R353). -/
abbrev PairN := Fin 8
/-- A byte. -/
abbrev Byte := BitVec 8

end Sys2Proof
end

