-- ==== Sys2Proof/Syntax.lean ====
section
/-! DEFINITION. The commands of the block: one constructor per row of spec/opcode_table.json, with
the operands the rule of the row names. Measured quantities (ring counts, sensor readings, training
results, which residue mismatch occurred) are operands: the outside world supplies them. -/

namespace Sys2Proof

/-- Where a request enters a tile: a host port (R407) or the gateway, which holds one assembly
buffer for each source tile (R146). -/
inductive Side where
  | host (p : PortN)
  | gateway (src : TileN)
  deriving DecidableEq, Repr

/-- The commands (spec/opcode_table.json). -/
inductive Instr where
  /-- R22. A tick of the reference distribution tree advances every tile time base by 10 ns. -/
  | timeBaseTick
  /-- R26. A write to TimeBaseSet loads a new value into all tile time bases at the next tick, unless it is refused with BAD_FORMAT or RETRY. -/
  | timeBaseSet (v : BitVec 64)
  /-- R28. No reference edge arrives for 100 ns, so the monitor drives the tree from the holdover ring and the tiles enter holdover behaviour. -/
  | referenceLost
  /-- R30. After 16 consecutive correctly spaced edges, the monitor switches back to the reference and logs the holdover length. -/
  | referenceReturn
  /-- R31. At the end of each 1,000 ns measurement window the tile computes and publishes LogicSpeed, StackSpeed and SpeedIndex. -/
  | speedWindowEnd (t : TileN) (counts : List Nat)
  /-- R31. A write of 1 sets SpeedLowWater to the current SpeedIndex. -/
  | speedLowWaterClear (t : TileN) (v : BitVec 8)
  /-- R35. A write of GuaranteeFloor is range-checked and refused with RETRY while the tile owns or sources a live pass. -/
  | guaranteeFloorWrite (t : TileN) (v : BitVec 16)
  /-- R36. A write of MeshHopCost is refused with RETRY while the tile owns a live far pass. -/
  | meshHopCostWrite (t : TileN) (v : BitVec 16)
  /-- R46. The layer captures a row word alone and activates the named row of the bank. -/
  | act (t : TileN) (c : ChanN) (w : BitVec 20)
  /-- R47. The layer reads a sector or line of the open row and sends its beats up. -/
  | rd (t : TileN) (c : ChanN) (w : BitVec 20)
  /-- R53. The layer takes write beats into the open row, and the write is complete once its last beat is acknowledged. -/
  | wr (t : TileN) (c : ChanN) (w : BitVec 20) (beats : List (BitVec 144))
  /-- R52. The layer precharges a bank after the restore of the open row is complete. -/
  | pre (t : TileN) (c : ChanN) (w : BitVec 20)
  /-- R47. The layer precharges all banks of the channel. -/
  | prea (t : TileN) (c : ChanN) (w : BitVec 20)
  /-- R49. The layer refreshes the next counter row in every bank of the channel. -/
  | ref (t : TileN) (c : ChanN) (w : BitVec 20)
  /-- R55. The layer restores the open source row's data into a destination row of the same subarray and then precharges the bank. -/
  | rcopy (t : TileN) (c : ChanN) (w : BitVec 20) (arg : BitVec 20)
  /-- R58. The layer writes FillData and FillCheck to every word of a destination row. -/
  | rfill (t : TileN) (c : ChanN) (w : BitVec 20) (arg : BitVec 20)
  /-- R47. The layer writes a mode register. -/
  | mrw (t : TileN) (c : ChanN) (w : BitVec 20) (v : BitVec 64)
  /-- R47. The layer returns a mode register, including the column temperature reading. -/
  | mrr (t : TileN) (c : ChanN) (w : BitVec 20)
  /-- R47. The layer writes a layer-side trim. -/
  | trw (t : TileN) (c : ChanN) (w : BitVec 20)
  /-- R47. The layer returns a layer-side trim. -/
  | trr (t : TileN) (c : ChanN) (w : BitVec 20)
  /-- R43. The controller captures a done report from the layer, which completes the bank operation it names. -/
  | doneReport (t : TileN) (c : ChanN) (count : BitVec 8)
  /-- R261. Read beats from the layer are checked, corrected or classed poisoned or uncorrectable, and delivered to the scheduler exit. -/
  | readDataArrival (t : TileN) (c : ChanN)
  /-- R276. The bounce copy of a remap or re-point ends, so the entry is written, held accesses are released and a repair record is queued. -/
  | migrationComplete (t : TileN) (c : ChanN)
  /-- R270. A watch entry whose newest finding falls out of FaultWindow is freed. -/
  | watchEntryExpiry (t : TileN) (slot : Fin 512)
  /-- R278. A RetireRow command retires the named row. -/
  | retireRow (t : TileN) (v : BitVec 64)
  /-- R284. ErrorInject kind 1 inverts one stored bit of a word. -/
  | errorInjectFlipOne (t : TileN) (v : BitVec 128)
  /-- R284. ErrorInject kind 2 inverts two stored bits of a word. -/
  | errorInjectFlipTwo (t : TileN) (v : BitVec 128)
  /-- R263. ErrorInject kind 3 stores the word poisoned. -/
  | errorInjectPoison (t : TileN) (v : BitVec 128)
  /-- R283. A write of RepairMode drops queued migrations on 1, or completes them on 0. -/
  | repairModeWrite (t : TileN) (v : BitVec 8)
  /-- R267. The channel's Blotter slot, idle and spaced by ScrubSpacing, reads the next sector of its lap. -/
  | blotterAccess (t : TileN) (c : ChanN)
  /-- R268. A lap running past ScrubLapLimit sets the channel's ScrubOverdue bit and logs. -/
  | scrubOverdue (t : TileN) (c : ChanN)
  /-- R50. A write of FillPattern makes each channel load FillData and FillCheck at its next Recess window. -/
  | fillPatternWrite (t : TileN) (v : BitVec 64)
  /-- R39. A write of a device address computes TranslateResult. -/
  | translateAddress (t : TileN) (v : BitVec 64)
  /-- R40. A write of channel, bank, row and byte computes the tile offset in TranslateResult. -/
  | untranslateRequest (t : TileN) (v : BitVec 64)
  /-- R60. A write of 1 to ChannelDisable forces the channel disabled and the tile degraded. -/
  | channelDisableWrite (t : TileN) (c : ChanN) (v : BitVec 8)
  /-- R146. A port or the gateway takes one beat of a request into an assembly buffer without accepting it. -/
  | requestBeat (t : TileN) (src : Side) (hdr : Bool) (beat : BitVec 512) (poison : Bool)
  /-- R147. The last beat of a request is taken, so it is accepted, checked at ingress, classified, cut into accesses and queued. -/
  | requestAccept (t : TileN) (src : Side) (hdr : Bool) (beat : BitVec 512) (poison : Bool)
  /-- R70. A request waiting at the head of its FIFO gets all its queue entries, is queued, and the FIFO resumes. -/
  | ingressStallRelease (t : TileN) (q : BitVec 8) (passFifo : Bool)
  /-- R429. A waiting write-back, migration or flush takes the next freed queue entry of its direction. -/
  | deferredWorkEntry (t : TileN) (c : ChanN) (write : Bool)
  /-- R85. A barrier request is released once every earlier request of its requester has its response. -/
  | barrierRelease (t : TileN) (q : BitVec 8)
  /-- R14. The owning tile's gateway receives a far request over the mesh and presents it to the scheduler. -/
  | farRequestArrival (t : TileN) (src : TileN)
  /-- R14. The source gateway receives a far response from the mesh and returns it to the requester. -/
  | farResponseArrival (t : TileN) (owner : TileN)
  /-- R77. When the command path can take a word, the picker chooses the next access by tier and deficit round robin and issues its commands. -/
  | channelPick (t : TileN) (c : ChanN)
  /-- R79. A row idle for OpenRowIdle is precharged. -/
  | openRowIdlePrecharge (t : TileN) (c : ChanN) (b : BankN)
  /-- R90. A merge entry held past MergeHoldLimit is flushed. -/
  | mergeHoldFlush (t : TileN) (slot : Fin 32)
  /-- R67. All accesses of a request are complete, so its single response is offered with its tag and status. -/
  | responseOffer (t : TileN) (id : Nat)
  /-- R92. A write of 0 to MergeEnable flushes every entry. -/
  | mergeEnableWrite (t : TileN) (v : BitVec 8)
  /-- R90. A new MergeHoldLimit applies to held entries from the next tick. -/
  | mergeHoldLimitWrite (t : TileN) (v : BitVec 16)
  /-- R76. A ClassQuantum write is checked against the minimum and refused with RETRY while passes are live. -/
  | classQuantumWrite (t : TileN) (k : Fin 8) (v : BitVec 32)
  /-- R76. A RequestOverhead write is refused if it leaves a quantum too small, or while passes are live. -/
  | requestOverheadWrite (t : TileN) (v : BitVec 16)
  /-- R92. A ReadPassReserve or WritePassReserve write is refused with RETRY while passes are live. -/
  | passReserveWrite (t : TileN) (write : Bool) (v : BitVec 8)
  /-- R110. A contract written to PassRequest runs admission and grants or refuses a pass, with a counter-offer. -/
  | passRequest (t : TileN) (contract : BitVec 512)
  /-- R110. A contract written to PassProbe runs admission and grants nothing. -/
  | passProbe (t : TileN) (contract : BitVec 512)
  /-- R115. PassRelease ends a pass once its conforming requests are answered, or at once when LAPSED. -/
  | passRelease (t : TileN) (v : BitVec 8)
  /-- R115. PassRegrant re-runs admission for a LAPSED pass on its granted terms. -/
  | passRegrant (t : TileN) (v : BitVec 8)
  /-- R114. With no cause and no miss for twice its bound, an AT_RISK or MISSED pass returns to LIVE. -/
  | passReturnLive (t : TileN) (p : BitVec 8)
  /-- R118. A PassBand write is refused with RETRY while passes are live. -/
  | passBandWrite (t : TileN) (v : BitVec 8)
  /-- R122. A RangeRegister write is checked for format and for live passes, then applies from the next acceptance. -/
  | rangeRegisterWrite (t : TileN) (idx : Fin 16) (v : BitVec 128)
  /-- R150. A RangeDefault write of 0 is refused while a partition-0 pass is live. -/
  | rangeDefaultWrite (t : TileN) (v : BitVec 8)
  /-- R129. RegulationMode switches between enforce and monitor, and monitor restores demoted sources. -/
  | regulationModeWrite (t : TileN) (v : BitVec 8)
  /-- R137. At each multiple of SamplePeriod every queue records its depth and delay. -/
  | queueSample (t : TileN)
  /-- R138. A SampleClear write clears the largest values, sums and SampleCount at the next sampling tick. -/
  | sampleClear (t : TileN) (v : BitVec 8)
  /-- R139. A commit checks the admin list and makes it pending, or refuses it. -/
  | timetableCommit (t : TileN) (v : BitVec 8)
  /-- R140. A pending list reaches its start and replaces the running list in all channels. -/
  | timetableStart (t : TileN)
  /-- R140. The running list passes to its next entry, and the gates change. -/
  | gateChange (t : TileN)
  /-- R141. TimetableEnable puts gates in force or opens them all, and is checked against passes. -/
  | timetableEnableWrite (t : TileN) (v : BitVec 8)
  /-- R296. A metered wait after an array step or channel access expires, and the next token is granted. -/
  | tokenGrant (t : TileN) (target : Fin 58)
  /-- R210. A new EngineTail lets the engine fetch descriptors up to it. -/
  | engineTailWrite (t : TileN) (e : EngineN) (v : BitVec 32)
  /-- R210. EngineEnable starts or stops an engine. -/
  | engineEnableWrite (t : TileN) (e : EngineN) (v : BitVec 8)
  /-- R210. EngineQueueBase or EngineQueueSize is written, or refused with RETRY while the engine is enabled. -/
  | engineQueueConfigWrite (t : TileN) (e : EngineN) (size : Bool) (v : BitVec 64)
  /-- R211. A descriptor fetch completes, and the descriptor becomes ready to issue. -/
  | descriptorFetch (t : TileN) (e : EngineN)
  /-- R157. An issued LOADW loads a weight tile into the idle plane of its array. -/
  | loadw (t : TileN) (e : EngineN)
  /-- R159. An issued STREAM opens or accumulates a group, streaming activation rows through the array. -/
  | stream (t : TileN) (e : EngineN)
  /-- R220. A STREAM with init 3 restores a saved group and continues it. -/
  | streamResume (t : TileN) (e : EngineN)
  /-- R160. An issued DRAIN converts the group's accumulators to the Slate and closes the group. -/
  | drain (t : TileN) (e : EngineN) (fault : Option (Fin 128))
  /-- R171. A VOP computes e^x elementwise. -/
  | exp (t : TileN) (e : EngineN) (faults : List (BitVec 8))
  /-- R171. A VOP computes 2^x elementwise. -/
  | exp2 (t : TileN) (e : EngineN) (faults : List (BitVec 8))
  /-- R171. A VOP reduces a vector to its maximum. -/
  | max (t : TileN) (e : EngineN) (faults : List (BitVec 8))
  /-- R171. A VOP takes the elementwise maximum of two vectors. -/
  | max2 (t : TileN) (e : EngineN) (faults : List (BitVec 8))
  /-- R171. A VOP sums a vector. -/
  | sum (t : TileN) (e : EngineN) (faults : List (BitVec 8))
  /-- R171. A VOP computes a times x plus b with one rounding. -/
  | scale (t : TileN) (e : EngineN) (faults : List (BitVec 8))
  /-- R171. A VOP returns the k largest values with their indices. -/
  | topk (t : TileN) (e : EngineN) (faults : List (BitVec 8))
  /-- R172. A VOP runs the SOFTMAX accumulate pass into the running state. -/
  | smacc (t : TileN) (e : EngineN) (faults : List (BitVec 8))
  /-- R172. A VOP runs the SOFTMAX finalise pass. -/
  | smfin (t : TileN) (e : EngineN) (faults : List (BitVec 8))
  /-- R223. A mover copies listed pieces to a strided destination. -/
  | gather (t : TileN) (e : EngineN)
  /-- R223. A mover copies strided rows. -/
  | copy (t : TileN) (e : EngineN)
  /-- R202. A mover converts rows one-to-one between formats. -/
  | convert (t : TileN) (e : EngineN)
  /-- R203. CONVERT splits binary32 into hi and lo bfloat16 rows. -/
  | convertSplit (t : TileN) (e : EngineN)
  /-- R203. CONVERT forms a plus b into the target format. -/
  | convertPairAdd (t : TileN) (e : EngineN)
  /-- R203. CONVERT forms a minus b into the target format. -/
  | convertPairSubtract (t : TileN) (e : EngineN)
  /-- R228. FENCE waits for earlier descriptors and, with flush, sends barrier requests. -/
  | fence (t : TileN) (e : EngineN)
  /-- R228. WAIT blocks issue until its semaphore reaches the value. -/
  | wait (t : TileN) (e : EngineN)
  /-- R228. A WAIT reaches its timeout and completes with TIMEOUT. -/
  | waitTimeout (t : TileN) (e : EngineN)
  /-- R228. SIGNAL adds to a semaphore, saturating, and may ring a doorbell. -/
  | signalAdd (t : TileN) (e : EngineN)
  /-- R228. SIGNAL sets a semaphore and may ring a doorbell. -/
  | signalSet (t : TileN) (e : EngineN)
  /-- R228. A SIGNAL arriving from another tile is applied and acknowledged. -/
  | signalRemoteApply (t : TileN)
  /-- R233. A dictionary write of a semaphore acts as a SIGNAL with op set. -/
  | semaphoreWrite (t : TileN) (idx : Fin 64) (v : BitVec 32)
  /-- R317. HINT reserves hint power for a future heavy phase. -/
  | hint (t : TileN) (e : EngineN)
  /-- R317. One settle time before a hinted phase, a load-step notice is sent to the regulator. -/
  | hintLoadNotice (t : TileN) (idx : Fin 8)
  /-- R228. PREEMPT mode 0 stops the engine if a pre-emption or yield is pending. -/
  | preemptYieldPoint (t : TileN) (e : EngineN)
  /-- R228. PREEMPT mode 1 raises pre-emption requests on masked arrays. -/
  | preemptRequestPoint (t : TileN) (e : EngineN)
  /-- R173. PreemptRequest raises pre-emption requests on the masked arrays. -/
  | preemptRequest (t : TileN) (v : BitVec 8)
  /-- R173. An array reaching its stop point saves its group and header and completes the STREAM PREEMPTED. -/
  | preemptSaveDone (t : TileN) (a : ArrayN)
  /-- R228. EngineYield makes the engine stop at its next yield point. -/
  | engineYield (t : TileN) (e : EngineN) (v : BitVec 8)
  /-- R153. The completion tree acknowledges an array step, and the column sums settle into the foot. -/
  | arrayStep (t : TileN) (a : ArrayN) (fault : Option (BitVec 8 × Fin 128))
  /-- R169. ArrayUnfence clears an array's fence. -/
  | arrayUnfence (t : TileN) (a : ArrayN) (v : BitVec 8)
  /-- R176. A SaveAreaBase write is checked, and refused with RETRY while saving. -/
  | saveAreaBaseWrite (t : TileN) (a : ArrayN) (v : BitVec 32)
  /-- R215. A descriptor completes, and its completion record and any stop follow. -/
  | descriptorComplete (t : TileN) (e : EngineN)
  /-- R230. The host advances CompletionConsumed, freeing ring space for a waiting descriptor. -/
  | completionConsumedWrite (t : TileN) (e : EngineN) (v : BitVec 32)
  /-- R226. A mover request's response arrives and may end or continue its descriptor. The operands are what it
  carries: its status, the offset its request gives in a completion record, and its hint. -/
  | moverRequestResponse (t : TileN) (m : MoverN) (status : BitVec 8) (offset : BitVec 24) (hint : BitVec 32)
  /-- R226. After a RETRY hint or 1 us, the mover resends the request. -/
  | moverRetryResend (t : TileN) (m : MoverN)
  /-- R232. EngineResume action 1 continues after the stop point. -/
  | engineResumeContinue (t : TileN) (e : EngineN)
  /-- R232. EngineResume action 2 re-runs the stop-point descriptor or its abandoned group. -/
  | engineResumeRerun (t : TileN) (e : EngineN)
  /-- R232. EngineResume action 3 resumes the array's save area, then continues. -/
  | engineResumeSaveArea (t : TileN) (e : EngineN)
  /-- R232. EngineResume action 4 abandons the group, empties the queue and goes IDLE. -/
  | engineResumeAbort (t : TileN) (e : EngineN)
  /-- R232. EngineResume action 5 runs EngineReplace in place of the stop-point descriptor. -/
  | engineResumeReplace (t : TileN) (e : EngineN)
  /-- R242. The block map resolves a space-1 request of requester `q` through its entry and issues it, forwards it,
  holds it or refuses it. The operands are the request: its byte of the logical map, length, direction and data. -/
  | resolution (t : TileN) (q : BitVec 8) (addr : BitVec 48) (len : BitVec 12) (write : Bool) (data : List Byte)
  /-- R248. All copies are done, so the entry moves to the private block and held requests resolve again. -/
  | copyOnWriteComplete (t : TileN) (entry : BitVec 16)
  /-- R242. A far tile checks a forwarded request against its pool descriptor. -/
  | forwardedResolution (t : TileN) (src : TileN)
  /-- R251. Home data has arrived, so the entry is NEAR and held requests resolve. -/
  | fillComplete (t : TileN) (entry : BitVec 16) (status : BitVec 8) (data : List Byte)
  /-- R250. A spill's write to home completes, so the entry is SPILLED and its block released. -/
  | spillComplete (t : TileN) (entry : BitVec 16) (status : BitVec 8)
  /-- R252. A spill or fill unanswered within NextLevelTimeout is undone. -/
  | nextLevelTimeout (t : TileN) (entry : BitVec 16)
  /-- R247. A freed block finishes clearing and joins its free list. -/
  | blockClearComplete (t : TileN) (block : BitVec 16)
  /-- R245. MapCommand ALLOC gives FREE entries new blocks. -/
  | alloc (t : TileN) (v : BitVec 256)
  /-- R245. MapCommand SHARE maps another entry's block. -/
  | share (t : TileN) (v : BitVec 256)
  /-- R247. MapCommand RELEASE frees entries and drops their references. -/
  | release (t : TileN) (v : BitVec 256)
  /-- R245. MapCommand PIN makes a NEAR entry PINNED. -/
  | pin (t : TileN) (v : BitVec 256)
  /-- R245. MapCommand UNPIN makes a PINNED entry NEAR. -/
  | unpin (t : TileN) (v : BitVec 256)
  /-- R245. MapCommand FARMAP maps a block of another tile. -/
  | farmap (t : TileN) (v : BitVec 256)
  /-- R245. MapCommand SETHOME sets entries' spill home. -/
  | sethome (t : TileN) (v : BitVec 256)
  /-- R250. MapCommand SPILL spills an entry now. -/
  | spill (t : TileN) (v : BitVec 256)
  /-- R253. MapCommand PUBLISH enters a content key for a block in the directory. -/
  | publish (t : TileN) (v : BitVec 256)
  /-- R253. MapCommand UNPUBLISH removes a key and its reference. -/
  | unpublish (t : TileN) (v : BitVec 256)
  /-- R245. MapCommand LOOKUP finds the block of a key. -/
  | lookup (t : TileN) (v : BitVec 256)
  /-- R254. MapCommand ADOPT maps the block of a key found in a tile's directory. -/
  | adopt (t : TileN) (v : BitVec 256)
  /-- R254. MapCommand ADOPTLIST adopts a Slate list of records until the first miss. -/
  | adoptlist (t : TileN) (v : BitVec 256)
  /-- R245. MapCommand READ copies an entry and its descriptor to the result objects. -/
  | mapRead (t : TileN) (v : BitVec 256)
  /-- R256. MapCommand RELOCATE copies a retired block into a new block and forwards it. -/
  | relocate (t : TileN) (v : BitVec 256)
  /-- R257. MapSwitch pre-empts named arrays and waits for the named engines to quiesce. -/
  | mapSwitch (t : TileN) (v : BitVec 512)
  /-- R257. Once the engines are quiet, the new windows are written, heads moved and tails advanced. -/
  | mapSwitchApply (t : TileN)
  /-- R235. BlockSize, PoolFirstBand or PoolBands is written, or refused while entries are not FREE. -/
  | poolConfigWrite (t : TileN) (which : Fin 3) (v : BitVec 8)
  /-- R286. At each sampling-period multiple the tile reads all its sensors and updates its maxima, band, throttle, ceiling and loss state. -/
  | thermalSample (t : TileN) (readings : List (Option Int))
  /-- R301. After 1 s of cooling every tile restarts automatically. -/
  | tripRestart
  /-- R301. TripRelease restarts after a trip that cannot be judged automatically. -/
  | tripRelease (v : BitVec 8)
  /-- R298. At each 1 ms multiple the rise of each sensor is checked, and RiseActive is set or cleared. -/
  | riseCheck (t : TileN)
  /-- R292. At the channel's offset in its window period, a Recess window opens, sends PREA and its REFs or a calibration run. -/
  | recessWindowOpen (t : TileN) (c : ChanN)
  /-- R294. RecessMinBand is written, or refused if it would lift RefreshBand above PassBand with passes live. -/
  | recessMinBandWrite (t : TileN) (v : BitVec 8)
  /-- R387. An interval, a drift or CalRequest starts a calibration of a channel. -/
  | calibrationStart (t : TileN) (c : ChanN)
  /-- R389. A calibration run ends in its window, and the calibration is accepted, extended to a third run or marked suspect. -/
  | calibrationRunEnd (t : TileN) (c : ChanN) (trims : List (Option Nat)) (edge : Bool)
  /-- R390. In gradual mode each trim moves one LSB every 50 us towards its accepted value. -/
  | gradualTrimStep (t : TileN) (c : ChanN)
  /-- R420. A regulator telemetry report of a rail's voltage and current arrives. -/
  | railReport (w : BitVec 48)
  /-- R312. A rail with no report for 100 us becomes unmonitored. -/
  | railTelemetryLost (rail : RailN)
  /-- R310. Every 1,000 ns each tile forms its raw power estimate from event counts. -/
  | rawEstimate (t : TileN) (counts : List (Nat × Nat)) (parts : List (Nat × Nat)) (queues : List (Nat × Nat))
  /-- R313. At each 10 us slice the controller enforces the peak limit through peak fractions. -/
  | powerSliceEnd
  /-- R314. At each 1 ms window the controller updates the estimator gain and applies the cap by steps and fractions. -/
  | powerWindowEnd
  /-- R306. VoltageStepSettle after a step command, the step is treated as settled. -/
  | voltageStepSettled (t : TileN)
  /-- R419. A regulator acknowledges a voltage-ID command. -/
  | vidCommandAck (rail : RailN)
  /-- R319. A rail below its warning level for 20 ns puts the affected tiles in Hold. -/
  | supplyWarningCrossing (rail : RailN) (mv : Nat)
  /-- R319. Every applicable rail at or above exit for 20 us ends Hold. -/
  | holdExit (t : TileN)
  /-- R318. A rail below its reset level causes a tile shallow reset or a device power-on reset. -/
  | supplyResetCrossing (rail : RailN) (mv : Nat)
  /-- R309. PowerMode or FixedStep is written, or refused if a tile would fall below its floor step. -/
  | powerModeWrite (t : TileN) (fixed : Bool) (v : BitVec 8)
  /-- R323. A new PowerCap is accepted and applied at the next window. -/
  | powerCapWrite (v : BitVec 32)
  /-- R320. A write of p plus 1 opens an energy mark for partition p. -/
  | energyMarkOpen (mk : Fin 8) (v : BitVec 8)
  /-- R320. A write of 0 closes the mark and fills EnergyMarkResult. -/
  | energyMarkClose (mk : Fin 8)
  /-- R321. AttributionMode starts estimated energy counters, clearing them. -/
  | attributionModeWrite (v : BitVec 8)
  /-- R392. A recalibration request starts recording windows for the estimator fit. -/
  | estimatorRecalibrate (v : BitVec 8)
  /-- R392. After EstimatorFitWindows windows, the factors are fitted and stored. -/
  | estimatorFitDone (factors : List (Option Nat))
  /-- R340. A READ transaction returns an object's value. -/
  | gnongeRead (id : BitVec 29) (frame : List Byte)
  /-- R340. A WRITE transaction writes an object, at one unit or all units. -/
  | gnongeWrite (id : BitVec 29) (frame : List Byte)
  /-- R339. A DESCRIBE transaction returns an object's description. -/
  | describe (id : BitVec 29) (frame : List Byte)
  /-- R341. UNLOCK_BEGIN returns a nonce for a rights level and scope. -/
  | unlockBegin (id : BitVec 29) (frame : List Byte)
  /-- R341. UNLOCK_PROVE checks an AES-CMAC proof and grants rights. -/
  | unlockProve (id : BitVec 29) (frame : List Byte)
  /-- R341. LOGOUT drops the node's rights. -/
  | logout (id : BitVec 29) (frame : List Byte)
  /-- R340. A gap over 10 ms between segments abandons the transaction. -/
  | transactionTimeout (node : BitVec 8) (tag : BitVec 8)
  /-- R341. Rights lapse after RightsLease without a request from the node. -/
  | rightsLeaseExpiry (node : BitVec 8)
  /-- R348. Every HeartbeatPeriod the device broadcasts a HEARTBEAT frame. -/
  | heartbeat
  /-- R342. A WindowRequest with op READ reads an object through the dictionary window. -/
  | windowRead (t : TileN) (v : BitVec 64) (rights : BitVec 2)
  /-- R342. A WindowRequest with op WRITE writes an object through the window. -/
  | windowWrite (t : TileN) (v : BitVec 64) (data : List Byte) (rights : BitVec 2)
  /-- R342. A WindowRequest with op DESCRIBE describes an object through the window. -/
  | windowDescribe (t : TileN) (v : BitVec 64) (rights : BitVec 2)
  /-- R344. Roll Call START in fresh mode drops the node address, roll_out and rights. -/
  | startFresh (id : BitVec 29) (frame : List Byte)
  /-- R344. Roll Call START in fill mode changes nothing. -/
  | startFill (id : BitVec 29) (frame : List Byte)
  /-- R344. An eligible unaddressed device answers an OFFER with CLAIM. -/
  | offer (id : BitVec 29) (frame : List Byte) (rollIn : Bool)
  /-- R344. A CONFIRM with the device's serial makes it take the address, assert roll_out and send ACK. -/
  | confirm (id : BitVec 29) (frame : List Byte)
  /-- R344. A claim without CONFIRM for 10 ms returns the device to waiting. -/
  | claimLapse
  /-- R343. Roll Call END closes the Roll Call. -/
  | rollCallEnd (id : BitVec 29) (frame : List Byte)
  /-- R356. SendPost posts the staged message into a slot and rings the receiver. -/
  | sendPost (t : TileN) (p : PairN) (host : Bool) (msg : BitVec 512)
  /-- R354. A read of RecvLatch latches the oldest unread message. -/
  | recvLatch (t : TileN) (p : PairN) (host : Bool)
  /-- R354. A read of AckRead pops the oldest acknowledge entry. -/
  | ackRead (t : TileN) (p : PairN) (host : Bool)
  /-- R356. RecvTake acknowledges the latched message and frees its slot. -/
  | recvTake (t : TileN) (p : PairN) (host : Bool) (v : BitVec 64)
  /-- R357. DoorbellClear clears doorbell bits, which level bits set again. -/
  | doorbellClear (t : TileN) (side : Fin 3) (v : BitVec 32)
  /-- R357. DoorbellSet sets software doorbell bits at the other side. -/
  | doorbellSet (t : TileN) (side : Fin 3) (v : BitVec 64)
  /-- R358. A message unread for MailboxAckTimeout is withdrawn with TIMEOUT. -/
  | mailboxAckTimeout (t : TileN) (p : PairN) (host : Bool)
  /-- R362. MailboxClear treats both sides of a pair as reset senders. -/
  | mailboxClear (t : TileN) (p : PairN) (v : BitVec 8)
  /-- R361. trp_cfg_rst_n resets the host side of its mailboxes, handing back and withdrawing messages. -/
  | configPortReset (t : TileN)
  /-- R352. An unhandled trap resets the management unit or a sequencer and reloads its image. -/
  | processorTrap (proc : Fin 65) (pc : BitVec 32) (cause : BitVec 32)
  /-- R364. SegmentPost submits a firmware segment from the configuration port for checking and staging. -/
  | segmentPost (t : TileN) (bytes : List Byte)
  /-- R364. A piece of a segment arrives over the field network and is assembled. -/
  | firmwareSegmentPiece (bytes : List Byte)
  /-- R365. A new FirmwareExpectImage clears the bitmap, or is refused while an activation is scheduled. -/
  | firmwareExpectImageWrite (v : BitVec 32)
  /-- R366. FirmwareActivate schedules activation of a staged image at a time. -/
  | firmwareActivate (v : BitVec 128)
  /-- R366. At its time, the image is checked and loaded into the management unit and sequencers. -/
  | firmwareActivation
  /-- R367. The flash image write ends with the header programmed. -/
  | flashImageWritten
  /-- R372. A Copybook record program completes or fails, and the next record is appended. -/
  | copybookProgramDone (ok : Bool)
  /-- R373. CopybookCompact starts compaction into the other area. -/
  | copybookCompact (v : BitVec 8)
  /-- R373. The commit record is written, and the new area becomes active. -/
  | compactionComplete
  /-- R377. Release of mgt_por_n starts a cold bring-up with everything cleared. -/
  | powerOnReset
  /-- R383. mgt_wrst_n or DeviceWarmReset resets all tiles deeply and restarts bring-up with stack contents kept. -/
  | deviceWarmReset (v : BitVec 8)
  /-- R377. A bring-up phase ends and the next phase begins. -/
  | bringupPhaseEnd
  /-- R378. A channel finishes finding its trims and writes its baseline. -/
  | channelTrainingDone (t : TileN) (c : ChanN) (ok : Bool) (trims : List Nat)
  /-- R379. A channel's PRBS31 link check reaches its bit count with no error. -/
  | linkCheckDone (t : TileN) (c : ChanN)
  /-- R380. A PRBS error replaces the lane, retrains and restarts the check. -/
  | laneError (t : TileN) (c : ChanN) (lane : Fin 170)
  /-- R381. A channel finishes filling every row and free spare. -/
  | stackInitialisationDone (t : TileN) (c : ChanN)
  /-- R384. PartitionReset resets partition p's requests, passes, regulators and, where it holds tiles alone, its engines. -/
  | partitionReset (v : BitVec 8)
  /-- R384. 30 us after its write, a partition reset ends. -/
  | partitionResetEnd
  /-- R383. TileReset 1 or a VCORE reset crossing clears the tile's queues, engines, groups and pass table. -/
  | tileShallowReset (t : TileN)
  /-- R383. TileReset 2 performs a shallow reset, then retrains and checks the tile's channels. -/
  | tileDeepReset (t : TileN)
  /-- R383. A tile reset completes, and the tile resumes. -/
  | tileResetEnd (t : TileN)
  /-- R233. EngineReset abandons the masked engines' work and disables them. -/
  | engineReset (t : TileN) (v : BitVec 8)
  /-- R383. PortReset or trp_rst_n clears a port's assembly buffers and FIFOs. -/
  | portReset (t : TileN) (v : BitVec 8)
  /-- R383. ManagementReset resets the management unit and its mailbox sides. -/
  | managementReset (v : BitVec 8)
  /-- R396. A CounterSelect write is checked and sets up a counter from the next tick. -/
  | counterSelectWrite (t : TileN) (idx : Fin 8) (v : BitVec 64)
  /-- R405. A counter is loaded, and that tick's events are added after it. -/
  | counterValueWrite (t : TileN) (idx : Fin 8) (v : BitVec 64)
  /-- R395. CounterFixed is loaded at the next tick. -/
  | counterFixedWrite (t : TileN) (v : BitVec 64)
  /-- R399. ReportCard 1 copies all counters into their shadows at tick T. -/
  | reportCardSnapshot
  /-- R399. ReportCard 2 stops counting at tick T. -/
  | reportCardFreeze
  /-- R399. ReportCard 3 resumes counting at tick T. -/
  | reportCardThaw
  /-- R399. ReportCard 4 clears the counters and overflows at tick T. -/
  | reportCardClear
  /-- R399. Tick T arrives, and the pending Report Card action applies in every tile. -/
  | reportCardApply
  /-- R399. An edge on mgt_snap takes the action of ReportCardPinAction. -/
  | snapPinEdge (rising : Bool)
  /-- R400. At each BandwidthWindow multiple, port bandwidths and peaks are updated. -/
  | bandwidthWindowEnd (t : TileN)
  /-- R401. PreciseSampleControl starts, stops or configures precise sampling. -/
  | preciseSampleControlWrite (t : TileN) (v : BitVec 64)
  /-- R403. TroubleLogWrite or DeviceLogWrite adds a software entry to a log. -/
  | troubleLogWrite (unit : BitVec 8) (v : BitVec 128)
  /-- R407. PortGeneration is written, or refused while a live pass names the port. -/
  | portGenerationWrite (t : TileN) (p : PortN) (v : BitVec 8)
  /-- R414. No port clock edge for 1,000 ns marks the port clock lost. -/
  | adapterClockLost (t : TileN) (p : PortN)
  /-- R414. Port clock edges return, and the port resumes. -/
  | adapterClockReturn (t : TileN) (p : PortN)
  /-- R422. The wrapper bypass instruction lets the tile run normally, leaving test. -/
  | wsBypass (t : TileN)
  /-- R422. Boundary cells drive and capture the tile's ports. -/
  | wsExtest (t : TileN)
  /-- R422. Each update releases one handshake token per stage. -/
  | wsIntest (t : TileN)
  /-- R422. March test of the tile's SRAMs runs. -/
  | mbist (t : TileN)
  /-- R422. The ring counts of one measurement window are read. -/
  | pacer (t : TileN) (counts : List Nat)
  /-- R422. The link check runs on chosen channels. -/
  | laneprbs (t : TileN) (mask : BitVec 48)
  /-- R422. Every trim is read or written directly. -/
  | trim (t : TileN) (c : ChanN) (idx : Fin 11) (write : Bool) (v : BitVec 8)
  /-- R327. A write to an object with no row of its own is checked for length, range and rights and stored. -/
  | registerWrite (unit : BitVec 8) (index : BitVec 16) (sub : BitVec 8) (rights : BitVec 8) (scope : BitVec 8) (data : List Byte)
  /-- R30. A reference edge arriving while the monitor is in holdover or returning moves ReferenceState to returning and counts a good edge, or restarts the count on a badly spaced edge. -/
  | referenceEdgeInHoldover (good : Bool)
  /-- R415. An admission or bookkeeping query arriving over the mesh is served at the partner tile: gateway sums for a far pass, a refs change for FARMAP or a far RELEASE, or a remote ADOPT lookup done in one step. -/
  | bookkeepingQuery (t : TileN)
  /-- R254. The partner tile's answer to a bookkeeping query returns, and the waiting FARMAP, ADOPT, ADOPTLIST or far admission completes or goes on. -/
  | bookkeepingAnswer (t : TileN)
  /-- R336. The CAN FD controller's transmit error count drives it bus-off, abandoning held multi-segment transactions and counting BusOffEvents. -/
  | busOff
  /-- R336. After 128 occurrences of 11 recessive bits the controller recovers from bus-off automatically and returns to error-active. -/
  | busOffRecovery
  /-- R345. A frame received from the device's own node address, other than its own transmission, increments NodeConflicts and writes a trouble-log entry. -/
  | nodeConflict
  /-- R410. The requester acknowledges a response beat with trp_sack or trp_sready, and the next beat of the response is sent. -/
  | responseBeatAck (t : TileN) (src : Side)
  /-- R423. An IEEE 1838 instruction on the stack test chain is forwarded to the layers, or held at BYPASS unless every tile is under test or bring-up is running, and StackTestState follows. -/
  | stack1838Instruction (code : BitVec 8)
  /-- R59. During a tile shallow reset, a done report still missing 2 us after the controller stopped sending makes it send PREA, mark the channel link fault and retrain it. -/
  | resetReportTimeout (t : TileN) (c : ChanN)
  deriving DecidableEq, Repr

end Sys2Proof
end

