-- ==== Sys2Proof/Decode.lean ====
section
/-! DEFINITION. The commands that a word of spec/opcode_table.json spells: the table gives none of its
rows any bits, because commands reach the block as bus transactions and events, so there is none. -/

namespace Sys2Proof

/-- The command of a word of the table: no row of the table has bits, so no word spells one. -/
def decodeTableWord (_nbits _w : Nat) : Option Instr := none

end Sys2Proof
end

