-- ==== Sys2Proof/Machine/Basics.lean ====
section
/-! DEFINITION. Sparse maps in one canonical form (every memory and every bank of registers of the
model is one), bit fields of numbers, and little-endian bytes (R5, R6). -/

namespace Sys2Proof.Machine

/-- A sparse map from numbers: entries in rising order of key, none equal to the default of its key. -/
abbrev FMap (α : Type) := List (Nat × α)

/-- The value at `k`: the listed one, else the default `d`. -/
def fget {α : Type} (d : α) : FMap α → Nat → α
  | [], _ => d
  | (k', v) :: r, k => if k' = k then v else fget d r k

/-- Insert `v` at `k`, in rising order. -/
def fins {α : Type} (k : Nat) (v : α) : FMap α → FMap α
  | [] => [(k, v)]
  | (k', v') :: r =>
    if k < k' then (k, v) :: (k', v') :: r
    else if k = k' then (k, v) :: r
    else (k', v') :: fins k v r

/-- Remove the entry at `k`. -/
def fdel {α : Type} (k : Nat) : FMap α → FMap α
  | [] => []
  | (k', v') :: r => if k' = k then fdel k r else (k', v') :: fdel k r

/-- Write `v` at `k`; writing the default `d` removes the entry. -/
def fset {α : Type} [DecidableEq α] (d : α) (m : FMap α) (k : Nat) (v : α) : FMap α :=
  if v = d then fdel k m else fins k v m

/-- Apply `f` to the value at `k`. -/
def fupd {α : Type} [DecidableEq α] (d : α) (m : FMap α) (k : Nat) (f : α → α) : FMap α :=
  fset d m k (f (fget d m k))

/-- Apply `f` to every listed value; entries that become the default go. -/
def fmapVal {α : Type} [DecidableEq α] (d : α) (f : α → α) : FMap α → FMap α
  | [] => []
  | (k, v) :: r => if f v = d then fdel k (fmapVal d f r) else (k, f v) :: fmapVal d f r

/-- Keep only the entries whose key satisfies `p`. -/
def fkeep {α : Type} (p : Nat → Bool) (m : FMap α) : FMap α := m.filter (fun e => p e.1)

/-- The keys rise strictly from one entry to the next. -/
def fsorted {α : Type} : FMap α → Bool
  | [] => true
  | [_] => true
  | (k, _) :: (k', v') :: r => decide (k < k') && fsorted ((k', v') :: r)

/-- The canonical form: rising keys and no entry equal to the default of its key. -/
def fwf {α : Type} [DecidableEq α] (d : Nat → α) (m : FMap α) : Bool :=
  fsorted m && m.all (fun e => decide (e.2 ≠ d e.1))

/-- The field of `len` bits of `n` whose lowest bit is bit `lo` (R5). -/
def bits (n lo len : Nat) : Nat := n / 2 ^ lo % 2 ^ len

/-- Bit `i` of `n` (R5). -/
def bit (n i : Nat) : Bool := n / 2 ^ i % 2 = 1

/-- `n` with bit `i` set. -/
def setBit (n i : Nat) : Nat := if bit n i then n else n + 2 ^ i

/-- `n` with bit `i` clear. -/
def clearBit (n i : Nat) : Nat := if bit n i then n - 2 ^ i else n

/-- `n` with bit `i` equal to `b`. -/
def putBit (n i : Nat) (b : Bool) : Nat := if b then setBit n i else clearBit n i

/-- `n` with the bits of `m` (below 2 ^ 64) cleared. -/
def maskOff (n m : Nat) : Nat := n ^^^ (n &&& m)

/-- 1 for true, 0 for false. -/
def b2n (b : Bool) : Nat := if b then 1 else 0

/-- A bit field placed at `lo`. -/
def fld (lo len v : Nat) : Nat := v % 2 ^ len * 2 ^ lo

/-- The set bits of `n` among bits 0 to `w - 1`, in rising order. -/
def onesOf (w n : Nat) : List Nat := (List.range w).filter (fun i => bit n i)

/-- The little-endian bytes of `n`, `len` of them (R6). -/
def leBytes : Nat → Nat → List Nat
  | 0, _ => []
  | len + 1, n => n % 256 :: leBytes len (n / 256)

/-- The number whose little-endian bytes are given (R6). -/
def leNat : List Nat → Nat
  | [] => 0
  | b :: r => b % 256 + 256 * leNat r

/-- Bytes as numbers. -/
def byteNats (l : List (BitVec 8)) : List Nat := l.map BitVec.toNat

/-- Rounded-up quotient. -/
def ceilDiv (a b : Nat) : Nat := if b = 0 then 0 else (a + b - 1) / b

/-- Two's complement value of the low `w` bits of `n`. -/
def toSigned (w n : Nat) : Int :=
  if n % 2 ^ w < 2 ^ (w - 1) then (n % 2 ^ w : Nat) else ((n % 2 ^ w : Nat) : Int) - (2 ^ w : Nat)

/-- The low `w` bits that stand for `x` in two's complement. -/
def ofSigned (w : Nat) (x : Int) : Nat := (x % (2 ^ w : Nat)).toNat

/-- The first element of a list that satisfies `p`, with its position. -/
def findAt {α : Type} (p : α → Bool) : Nat → List α → Option (Nat × α)
  | _, [] => none
  | i, a :: r => if p a then some (i, a) else findAt p (i + 1) r

/-- Replace element `i` of a list. -/
def setNth {α : Type} : List α → Nat → α → List α
  | [], _, _ => []
  | _ :: r, 0, v => v :: r
  | a :: r, i + 1, v => a :: setNth r i v

/-- Remove the first element that satisfies `p`. -/
def removeFirst {α : Type} (p : α → Bool) : List α → List α
  | [] => []
  | a :: r => if p a then r else a :: removeFirst p r

/-- Insert into a list ordered by `key`, after the elements of equal key. -/
def insertBy {α : Type} (key : α → Nat) (a : α) : List α → List α
  | [] => [a]
  | b :: r => if key a < key b then a :: b :: r else b :: insertBy key a r

/-- Stable sort by `key`. -/
def sortBy {α : Type} (key : α → Nat) (l : List α) : List α := l.foldl (fun acc a => insertBy key a acc) []

/-- Sum of a list of numbers. -/
def sumOf (l : List Nat) : Nat := l.foldl (· + ·) 0

/-- The element of smallest `key`, the first of equals. -/
def minBy {α : Type} (key : α → Nat) : List α → Option α
  | [] => none
  | a :: r =>
    match minBy key r with
    | none => some a
    | some b => if key b < key a then some b else some a

/-- Split a list into pieces of `n`, using at most `fuel` pieces. -/
def chunksOf {α : Type} (n : Nat) : Nat → List α → List (List α)
  | 0, _ => []
  | _ + 1, [] => []
  | fuel + 1, l => l.take n :: chunksOf n fuel (l.drop n)

end Sys2Proof.Machine
end

