-- ==== Sys2Proof/Machine/Crypto.lean ====
section
/-! DEFINITION. CRC-32 of IEEE 802.3 (R363, R369), AES-128 and AES-CMAC (R341), on lists of bytes. -/

namespace Sys2Proof.Machine

/-! ## CRC-32 -/

/-- `n` steps of the reflected CRC-32 shift register. -/
def crcShift : Nat → Nat → Nat
  | 0, c => c
  | n + 1, c => crcShift n (if c % 2 = 1 then (c / 2) ^^^ 0xEDB88320 else c / 2)

/-- CRC-32 of bytes (IEEE 802.3). -/
def crc32 (l : List Nat) : Nat :=
  (l.foldl (fun c b => crcShift 8 (c ^^^ (b % 256))) 0xFFFFFFFF) ^^^ 0xFFFFFFFF

/-! ## AES-128 -/

/-- Product in GF(2^8) modulo x^8 + x^4 + x^3 + x + 1, over the `n` low bits of `b`. -/
def gfMulGo : Nat → Nat → Nat → Nat → Nat
  | 0, _, _, acc => acc
  | n + 1, a, b, acc =>
    gfMulGo n (if a / 128 % 2 = 1 then (a * 2 % 256) ^^^ 0x1B else a * 2 % 256) (b / 2)
      (if b % 2 = 1 then acc ^^^ a else acc)

def gfMul (a b : Nat) : Nat := gfMulGo 8 (a % 256) b 0

/-- The inverse in GF(2^8), 0 for 0: the 254th power. -/
def gfInv (a : Nat) : Nat :=
  let a2 := gfMul a a
  let a4 := gfMul a2 a2
  let a8 := gfMul a4 a4
  let a16 := gfMul a8 a8
  let a32 := gfMul a16 a16
  let a64 := gfMul a32 a32
  let a128 := gfMul a64 a64
  gfMul a128 (gfMul a64 (gfMul a32 (gfMul a16 (gfMul a8 (gfMul a4 a2)))))

/-- A byte rotated left. -/
def rotByte (n b : Nat) : Nat := (b * 2 ^ n % 256) + b / 2 ^ (8 - n)

/-- The AES substitution of a byte. -/
def aesSub (b : Nat) : Nat :=
  let x := gfInv b
  x ^^^ rotByte 1 x ^^^ rotByte 2 x ^^^ rotByte 3 x ^^^ rotByte 4 x ^^^ 0x63

/-- Bytewise exclusive or. -/
def xorBytes (a b : List Nat) : List Nat := List.zipWith (fun x y => x ^^^ y) a b

/-- The next round key from a round key. -/
def nextKey (rcon : Nat) (k : List Nat) : List Nat :=
  let g := [aesSub (k.getD 13 0) ^^^ rcon, aesSub (k.getD 14 0), aesSub (k.getD 15 0), aesSub (k.getD 12 0)]
  let w0 := xorBytes (k.take 4) g
  let w1 := xorBytes ((k.drop 4).take 4) w0
  let w2 := xorBytes ((k.drop 8).take 4) w1
  let w3 := xorBytes ((k.drop 12).take 4) w2
  w0 ++ w1 ++ w2 ++ w3

/-- Bytes moved by ShiftRows. -/
def shiftRows (st : List Nat) : List Nat :=
  (List.range 16).map (fun i => st.getD (i % 4 + 4 * ((i / 4 + i % 4) % 4)) 0)

/-- One byte of MixColumns. -/
def mixByte (st : List Nat) (i : Nat) : Nat :=
  let c := i / 4 * 4
  gfMul 2 (st.getD i 0) ^^^ gfMul 3 (st.getD (c + (i + 1) % 4) 0)
    ^^^ st.getD (c + (i + 2) % 4) 0 ^^^ st.getD (c + (i + 3) % 4) 0

/-- The rounds that remain; the last one, at 0, does not mix columns. -/
def aesRounds : Nat → Nat → List Nat → List Nat → List Nat
  | 0, rcon, k, st => xorBytes (shiftRows (st.map aesSub)) (nextKey rcon k)
  | n + 1, rcon, k, st =>
    let k' := nextKey rcon k
    let x := shiftRows (st.map aesSub)
    aesRounds n (gfMul 2 rcon) k' (xorBytes ((List.range 16).map (mixByte x)) k')

/-- AES-128 encryption of a block of 16 bytes. -/
def aes128 (key block : List Nat) : List Nat := aesRounds 9 1 key (xorBytes block key)

/-! ## AES-CMAC -/

/-- A block read as a big-endian number, doubled in GF(2^128), and given back as bytes. -/
def cmacDouble (b : List Nat) : List Nat :=
  let n := leNat b.reverse
  let d := n * 2 % 2 ^ 128
  (leBytes 16 (if n / 2 ^ 127 % 2 = 1 then d ^^^ 0x87 else d)).reverse

/-- AES-CMAC of a message of at most 16 * `fuel` bytes. -/
def cmacGo (key k1 k2 : List Nat) : Nat → List Nat → List Nat → List Nat
  | 0, x, _ => x
  | fuel + 1, x, m =>
    if m.length > 16 then cmacGo key k1 k2 fuel (aes128 key (xorBytes x (m.take 16))) (m.drop 16)
    else if m.length = 16 then aes128 key (xorBytes x (xorBytes m k1))
    else
      let padded := m ++ 0x80 :: List.replicate (15 - m.length) 0
      aes128 key (xorBytes x (xorBytes padded k2))

def cmac (key m : List Nat) : List Nat :=
  let k1 := cmacDouble (aes128 key (List.replicate 16 0))
  cmacGo key k1 (cmacDouble k1) (m.length / 16 + 1) (List.replicate 16 0) m

end Sys2Proof.Machine
end

