-- ==== Sys2Proof/Config.lean ====
section
/-! DEFINITION. What an implementation fixes and what the spec leaves open: constants with no body, so
that no proof can rest on a value of them. -/

namespace Sys2Proof

/-- Free values drawn one after another (the plain counter `free` of the state numbers them): error of
EXP in units in the last place (R171), the nonce of an UNLOCK (R341), the draw of the sampling LFSR
(R401), the order of an aliased overlap (R224), any value the spec leaves open once. -/
opaque Config.freeValue : Nat → Nat

/-- LayerIdentity's maker code and serial of a layer over a tile (R47, Table 2.5). -/
opaque Config.layerMaker : Nat → Nat
opaque Config.layerSerial : Nat → Nat → Nat

/-- The generation field of LayerIdentity: 3 for SLP-3 layers, 2 for SLP-2 (R60). -/
opaque Config.layerGeneration : Nat

/-- A tile answers the enumeration within 1 µs and its strap agrees with its place on the chain (R346). -/
opaque Config.strapAgrees : Nat → Bool

/-- The strap-coded number of the tile at a place of the chain, where it does not agree (Table 13.11). -/
opaque Config.tileStrap : Nat → Nat

/-- ReplicaReference of a channel (Table 2.5), from layer test. -/
opaque Config.replicaReference : Nat → Nat → Nat

/-- The model's bit patterns of a March test (R422): the contents an MBIST leaves in a tile's SRAM. -/
opaque Config.marchResidue : Nat → Nat → Nat

/-- Reference counts of ring and layer `part` of a tile, if the Copybook's factory record is valid
(R31, R33, kind 0x07): rings 0 to 11, layers 12 to 35. -/
opaque Config.speedReference : Nat → Nat → Option Nat

/-- Estimator coefficient e[i] of a tile in fJ, and its leakage in fJ per 1,000 ns at a voltage step and
a logic temperature in 1/16 °C (R310, kind 0x09). -/
opaque Config.estimatorEnergy : Nat → Nat → Nat
opaque Config.estimatorLeak : Nat → Nat → Int → Nat

/-- Factory offset of a sensor of a tile in 1/16 °C, if its record is valid (R391, kind 0x06). -/
opaque Config.sensorOffset : Nat → Nat → Option Int

/-- The speed table of a tile from test: S in thousandths at a step; its VoltageCeiling and its speed at
the ceiling (R307, R308, kinds 0x05 and 0x08). -/
opaque Config.stepSpeed : Nat → Nat → Nat
opaque Config.voltageCeiling : Nat → Nat
opaque Config.speedCeilingTest : Nat → Nat

/-- Serial number, stepping and boot ROM version of the device (Table 13.11, kind 0x0B). -/
opaque Config.deviceSerial : Nat
opaque Config.siliconStep : Nat
opaque Config.bootRomVersion : Nat

/-- The capacity SFDP reports in MiB; 0 when the flash is absent or lacks a feature (R368). -/
opaque Config.flashCapacity : Nat
/-- A tile has its factory records of kinds 0x08 and 0x0B with valid check words (R370); those of kinds 0x06 and 0x07
are `sensorOffset` and `speedReference`. -/
opaque Config.factoryRest : Nat → Bool

/-- The index a conversion to a codebook writes for a number when the codebook has no entry for one, by its
entry format and entries (R199). -/
opaque Config.freeIndex : Nat → Nat → Nat

/-- The rate of trp_clk at a host port in kHz, as measured (Table 17.8). -/
opaque Config.portClockRate : Nat → Nat → Nat

end Sys2Proof
end

