-- ==== Sys2Proof/Machine/Formats.lean ====
section
/-! DEFINITION. Number formats (R178 to R203): values of codes, rounding, conversion, block scaling and
rows of packed elements. A finite value is a sign and an exact fraction. -/

namespace Sys2Proof.Machine

/-- A value: NaN, an infinity, or a sign with the exact magnitude n / d (d above 0). -/
inductive Num where
  | nan
  | inf (neg : Bool)
  | fin (neg : Bool) (n d : Nat)
  deriving DecidableEq, Repr

/-- Zero, and an integer. -/
def numZero (neg : Bool) : Num := .fin neg 0 1
def numInt (x : Int) : Num := .fin (decide (x < 0)) x.natAbs 1

/-- n times 2 ^ e as a value. -/
def numPow (neg : Bool) (n : Nat) (e : Int) : Num :=
  if e ≥ 0 then .fin neg (n * 2 ^ e.toNat) 1 else .fin neg n (2 ^ e.natAbs)

/-- The value is a NaN, an infinity, zero. -/
def Num.isNan : Num → Bool | .nan => true | _ => false
def Num.isInf : Num → Bool | .inf _ => true | _ => false
def Num.isZero : Num → Bool | .fin _ n _ => n = 0 | _ => false

/-- The negated value. -/
def negNum : Num → Num
  | .nan => .nan
  | .inf s => .inf (!s)
  | .fin s n d => .fin (!s) n d

/-- The exact product; infinity times zero is NaN. -/
def mulNum : Num → Num → Num
  | .nan, _ => .nan
  | _, .nan => .nan
  | .inf a, .inf b => .inf (a != b)
  | .inf a, .fin b n _ => if n = 0 then .nan else .inf (a != b)
  | .fin a n _, .inf b => if n = 0 then .nan else .inf (a != b)
  | .fin a n d, .fin b m e => .fin (a != b) (n * m) (d * e)

/-- The exact sum; infinities of both signs give NaN; an exact zero is +0 unless both are -0. -/
def addNum : Num → Num → Num
  | .nan, _ => .nan
  | _, .nan => .nan
  | .inf a, .inf b => if a = b then .inf a else .nan
  | .inf a, _ => .inf a
  | _, .inf b => .inf b
  | .fin a n d, .fin b m e =>
    let x : Int := (if a then -((n * e : Nat) : Int) else ((n * e : Nat) : Int))
    let y : Int := (if b then -((m * d : Nat) : Int) else ((m * d : Nat) : Int))
    let z := x + y
    if z = 0 then .fin (a && b && decide (n = 0)) 0 1 else .fin (decide (z < 0)) z.natAbs (d * e)

/-- The exact quotient of a value by a finite non-zero value or an infinity. -/
def divNum : Num → Num → Num
  | .nan, _ => .nan
  | _, .nan => .nan
  | .inf _, .inf _ => .nan
  | .inf a, .fin b _ _ => .inf (a != b)
  | .fin a _ _, .inf b => .fin (a != b) 0 1
  | .fin a n d, .fin b m e =>
    if m = 0 then (if n = 0 then .nan else .inf (a != b)) else .fin (a != b) (n * e) (d * m)

/-- a > b for values other than NaN; both zeros equal. -/
def gtNum : Num → Num → Bool
  | .inf a, .inf b => !a && b
  | .inf a, _ => !a
  | _, .inf b => b
  | .fin a n d, .fin b m e =>
    let x : Int := if a then -((n * e : Nat) : Int) else ((n * e : Nat) : Int)
    let y : Int := if b then -((m * d : Nat) : Int) else ((m * d : Nat) : Int)
    decide (x > y)
  | _, _ => false

/-- The floor of log2 of n / d, both above 0. -/
def log2Floor (n d : Nat) : Int :=
  let k : Int := (Nat.log2 n : Int) - (Nat.log2 d : Int)
  let le := if k ≥ 0 then decide (d * 2 ^ k.toNat ≤ n) else decide (d ≤ n * 2 ^ k.natAbs)
  if le then k else k - 1

/-! ## The formats (Tables 7.1 and 7.2) -/

/-- A floating format: exponent and significand bits, bias, largest finite code, code of +infinity (0
where it has none), canonical NaN (0 where it has none). -/
structure FFmt where
  e : Nat
  m : Nat
  bias : Nat
  maxFin : Nat
  infCode : Nat
  nanCode : Nat
  deriving DecidableEq, Repr

/-- The floating formats by code (Table 7.2, R180, R181). -/
def floatFmt (code : Nat) : Option FFmt :=
  match code with
  | 0x1 => some ⟨2, 1, 1, 7, 0, 0⟩
  | 0x2 => some ⟨2, 3, 1, 31, 0, 0⟩
  | 0x3 => some ⟨3, 2, 3, 31, 0, 0⟩
  | 0x4 => some ⟨4, 3, 7, 0x7E, 0, 0x7F⟩
  | 0x5 => some ⟨5, 2, 15, 0x7B, 0x7C, 0x7F⟩
  | 0xA => some ⟨5, 10, 15, 0x7BFF, 0x7C00, 0x7E00⟩
  | 0xB => some ⟨8, 7, 127, 0x7F7F, 0x7F80, 0x7FC0⟩
  | 0xC => some ⟨8, 23, 127, 0x7F7FFFFF, 0x7F800000, 0x7FC00000⟩
  | _ => none

/-- Bits of an element (Table 7.1). -/
def fmtBits (code : Nat) : Nat :=
  match code with
  | 0x1 => 4 | 0x2 => 6 | 0x3 => 6 | 0x4 => 8 | 0x5 => 8 | 0x6 => 4 | 0x7 => 8 | 0x8 => 16 | 0x9 => 32
  | 0xA => 16 | 0xB => 16 | 0xC => 32 | 0xD => 8 | 0xE => 4 | 0xF => 3 | _ => 0

/-- Bits of an integer format (R183); none for the others. -/
def intBits (code : Nat) : Option Nat :=
  match code with
  | 0x6 => some 4 | 0x7 => some 8 | 0x8 => some 16 | 0x9 => some 32 | _ => none

/-- A codebook: entry format and the 16 entries (Table 7.5). -/
structure CodeBook where
  fmt : Nat := 4
  entries : Nat := 0
  deriving DecidableEq, Repr

/-- R179, R180: the value of a floating code. -/
def floatVal (f : FFmt) (c : Nat) : Num :=
  let sign := decide (c / 2 ^ (f.e + f.m) % 2 = 1)
  let mag := c % 2 ^ (f.e + f.m)
  let ex := mag / 2 ^ f.m
  let fr := mag % 2 ^ f.m
  if mag > f.maxFin then (if f.infCode ≠ 0 ∧ mag = f.infCode then .inf sign else .nan)
  else if ex = 0 then numPow sign fr (1 - (f.bias : Int) - (f.m : Int))
  else numPow sign (2 ^ f.m + fr) ((ex : Int) - (f.bias : Int) - (f.m : Int))

/-- R184: the value of an E8M0 code. -/
def e8m0Val (c : Nat) : Num := if c % 256 = 255 then .nan else numPow false 1 ((c % 256 : Nat) - 127)

/-- The value of a code of a format other than a codebook's. -/
def plainVal (fmt c : Nat) : Num :=
  match floatFmt fmt with
  | some f => floatVal f c
  | none => match intBits fmt with
    | some w => numInt (toSigned w c)
    | none => if fmt = 0xD then e8m0Val c else .nan

/-- Entry `i` of a codebook (R185); CB3 uses entries 0 to 7. -/
def bookEntry (b : CodeBook) (i : Nat) : Nat := bits b.entries (8 * i) 8

/-- The value of a code of any format. -/
def codeVal (fmt : Nat) (b : CodeBook) (c : Nat) : Num :=
  if fmt = 0xE ∨ fmt = 0xF then plainVal b.fmt (bookEntry b c) else plainVal fmt c

/-! ## Rounding and conversion (R196 to R202). Flags: bit 0 UNF, bit 1 OVF, bit 2 INV. -/

abbrev flUnf : Nat := 1
abbrev flOvf : Nat := 2
abbrev flInv : Nat := 4

/-- Quotient rounded: towards zero, or nearest with ties to even. -/
def roundDiv (tz : Bool) (a b : Nat) : Nat :=
  let q := a / b
  let r := a % b
  if tz then q else if 2 * r > b ∨ (2 * r = b ∧ q % 2 = 1) then q + 1 else q

/-- The code of a rounded magnitude n / d, as if the exponent had no upper limit (R196, R182). -/
def roundCode (f : FFmt) (tz : Bool) (n d : Nat) : Nat :=
  if n = 0 then 0
  else
    let e := max (log2Floor n d) (1 - (f.bias : Int))
    let q := e - (f.m : Int)
    let u := if q ≥ 0 then roundDiv tz n (d * 2 ^ q.toNat) else roundDiv tz (n * 2 ^ q.natAbs) d
    u + (e + (f.bias : Int) - 1).toNat * 2 ^ f.m

/-- The sign bit of a format. -/
def signOf (f : FFmt) (neg : Bool) : Nat := if neg then 2 ^ (f.e + f.m) else 0

/-- R197: a value in a floating format under a conversion control, with its flags. -/
def toFloat (f : FFmt) (ctrl : Nat) : Num → Nat × Nat
  | .nan => if f.nanCode = 0 then (0, flInv) else (f.nanCode, 0)
  | .inf s =>
    if ctrl / 2 % 2 = 0 then (f.maxFin + signOf f s, flOvf)
    else if f.infCode ≠ 0 then (f.infCode + signOf f s, 0)
    else if f.nanCode ≠ 0 then (f.nanCode, 0)
    else (f.maxFin + signOf f s, flOvf)
  | .fin s n d =>
    let tz := ctrl % 2 = 1
    let c := roundCode f tz n d
    if c > f.maxFin then
      if ctrl / 2 % 2 = 0 ∨ tz then (f.maxFin + signOf f s, flOvf)
      else if f.infCode ≠ 0 then (f.infCode + signOf f s, flOvf)
      else if f.nanCode ≠ 0 then (f.nanCode, flOvf)
      else (f.maxFin + signOf f s, flOvf)
    else (c + signOf f s, if c = 0 ∧ n ≠ 0 then flUnf else 0)

/-- R198: a value in an integer format of `w` bits. -/
def toInteger (w : Nat) (ctrl : Nat) : Num → Nat × Nat
  | .nan => (0, flInv)
  | .inf s => (if s then 2 ^ (w - 1) else 2 ^ (w - 1) - 1, flOvf)
  | .fin s n d =>
    let u := roundDiv (ctrl % 2 = 1) n d
    if s then
      if u > 2 ^ (w - 1) then (2 ^ (w - 1), flOvf)
      else (ofSigned w (-(u : Int)), if u = 0 ∧ n ≠ 0 then flUnf else 0)
    else if u > 2 ^ (w - 1) - 1 then (2 ^ (w - 1) - 1, flOvf)
    else (u, if u = 0 ∧ n ≠ 0 then flUnf else 0)

/-- R200: a value as an E8M0 power of two. -/
def toE8m0 : Num → Nat × Nat
  | .nan => (0xFF, flInv)
  | .inf _ => (0xFF, flInv)
  | .fin _ n d =>
    if n = 0 then (0, flUnf)
    else
      let e := log2Floor n d
      if e < -127 then (0, flUnf) else ((min e 127 + 127).toNat, 0)

/-- The exact distance of two finite values, as a magnitude. -/
def distNum (a b : Num) : Num :=
  match addNum a (negNum b) with
  | .fin _ n d => .fin false n d
  | x => x

/-- The lowest index of the finite entry nearest a finite value. -/
def nearestEntry (b : CodeBook) (v : Num) : List Nat → Option (Nat × Num)
  | [] => none
  | i :: r =>
    let rest := nearestEntry b v r
    match plainVal b.fmt (bookEntry b i) with
    | .fin s n d =>
      let x := distNum (.fin s n d) v
      match rest with
      | some (j, y) => if gtNum x y then some (j, y) else some (i, x)
      | none => some (i, x)
    | _ => rest

/-- R199: the index of a codebook for a value. An infinite input without an Inf entry of its sign takes
the largest or least finite entry; a finite one among infinite entries alone the lowest of them, all being
equally far. Where every entry that a number may take is NaN the index is open. -/
def toBook (b : CodeBook) (count : Nat) (v : Num) : Nat × Nat :=
  let ix := List.range count
  let entry := fun (i : Nat) => plainVal b.fmt (bookEntry b i)
  match v with
  | .nan => match ix.find? (fun i => (entry i).isNan) with
    | some i => (i, 0)
    | none => (0, flInv)
  | .inf s => match ix.find? (fun i => entry i = .inf s) with
    | some i => (i, 0)
    | none => match nearestEntry b (.fin s (2 ^ 200) 1) ix with
      | some (i, _) => (i, flOvf)
      | none => (Config.freeIndex b.fmt b.entries % count, flOvf)
  | .fin _ _ _ => match nearestEntry b v ix with
    | some (i, _) => (i, 0)
    | none => match ix.find? (fun i => (entry i).isInf) with
      | some i => (i, 0)
      | none => (Config.freeIndex b.fmt b.entries % count, 0)

/-- A value in a target format. -/
def toFmt (fmt ctrl : Nat) (b : CodeBook) (v : Num) : Nat × Nat :=
  match floatFmt fmt with
  | some f => toFloat f ctrl v
  | none => match intBits fmt with
    | some w => toInteger w ctrl v
    | none => if fmt = 0xD then toE8m0 v else toBook b (if fmt = 0xF then 8 else 16) v

/-- Table 7.6: the pairs of formats with infinities that convert exactly (X). -/
def exactPair (sf df : Nat) : Bool :=
  (sf = 5 && (df = 0xA || df = 0xB || df = 0xC)) || ((sf = 0xA || sf = 0xB) && df = 0xC)

/-- A code of a format other than a codebook's converted: under X an infinity keeps its value whatever the
control says (R202). -/
def plainConvert (sf df ctrl : Nat) (b : CodeBook) (c : Nat) : Nat × Nat :=
  if sf = df then (c, 0) else toFmt df (if exactPair sf df then ctrl % 2 + 2 else ctrl) b (plainVal sf c)

/-- R202: one element converted; the same format is copied, a codebook source is decoded first. -/
def convertCode (sf df ctrl : Nat) (b : CodeBook) (c : Nat) : Nat × Nat :=
  if sf = df then (c, 0)
  else if sf = 0xE ∨ sf = 0xF then plainConvert b.fmt df ctrl b (bookEntry b c)
  else plainConvert sf df ctrl b c

/-- Table 7.6: the pair has a conversion. -/
def convOk (sf df : Nat) : Bool :=
  let book := fun (f : Nat) => f = 0xE || f = 0xF
  if sf = 0 ∨ df = 0 ∨ sf > 15 ∨ df > 15 then false
  else if sf = df then true
  else if sf = 0xD then df = 0xB || df = 0xC
  else if df = 0xD then sf = 0xB || sf = 0xC
  else if book sf then !book df
  else true

/-! ## Block scaling (R188 to R192) -/

/-- Elements of a block of a scheme. -/
def blockSize (scheme : Nat) : Nat := if scheme = 1 then 32 else 16

/-- The element formats of a scheme (Table 7.3). -/
def schemeOk (scheme fmt : Nat) : Bool :=
  if scheme = 0 then true
  else if scheme = 1 then [1, 2, 3, 4, 5, 7].contains fmt
  else if scheme = 2 then [1, 2, 3, 4, 5, 6, 7, 0xE, 0xF].contains fmt
  else false

/-- The value of a scale (R190). -/
def scaleVal (scheme c : Nat) : Num := if scheme = 1 then e8m0Val c else plainVal 4 c

/-- emax of R191 and maxfin of R192, as a fraction. -/
def emaxOf (fmt : Nat) : Int := match fmt with | 1 => 2 | 2 => 2 | 3 => 4 | 4 => 8 | 5 => 15 | _ => 0
def maxfinOf (fmt : Nat) : Nat × Nat :=
  match fmt with | 1 => (6, 1) | 2 => (15, 2) | 3 => (28, 1) | 4 => (448, 1) | 5 => (57344, 1) | 6 => (7, 1) | _ => (127, 1)

/-- R191, R192: quantise a divided value: one rounding, clamped to the largest element with its sign, without
OVF. An INT8 element of scheme 1 goes down to -128 (R191), an integer element of scheme 2 to -7 or -127. -/
def quantise (scheme fmt ctrl : Nat) (v : Num) : Nat × Nat :=
  let r := toFmt fmt (ctrl % 2) {} v
  match intBits fmt with
  | some w => (if scheme = 2 ∧ r.1 = 2 ^ (w - 1) then r.1 + 1 else r.1, r.2 &&& flUnf)
  | none => (r.1, r.2 &&& flUnf)

/-- The largest magnitude of a list of values. -/
def maxMag (l : List Num) : Nat × Nat :=
  l.foldl (fun (a : Nat × Nat) v => match v with
    | .fin _ n d => if n * a.2 > a.1 * d then (n, d) else a
    | _ => a) (0, 1)

/-- The flags of some elements, as counts of UNF, OVF and INV. -/
structure FlagCount where
  unf : Nat := 0
  ovf : Nat := 0
  inv : Nat := 0
  deriving DecidableEq, Repr

def addFlags (c : FlagCount) (f : Nat) : FlagCount :=
  { unf := c.unf + f % 2, ovf := c.ovf + f / 2 % 2, inv := c.inv + f / 4 % 2 }

def sumFlags (a b : FlagCount) : FlagCount := { unf := a.unf + b.unf, ovf := a.ovf + b.ovf, inv := a.inv + b.inv }

/-- One scaled block: its scale code, element codes and flags. The elements counted for INV are the NaN
and infinite ones; a scale beyond 448 counts one OVF. -/
def scaleBlock (scheme fmt ctrl : Nat) (l : List Num) : Nat × List Nat × FlagCount :=
  let zeros := l.map (fun _ => 0)
  let bad := (l.filter (fun v => v.isNan || v.isInf)).length
  if bad > 0 then (if scheme = 1 then 0xFF else 0x7F, zeros, { inv := bad })
  else
    let (n, d) := maxMag l
    if n = 0 then (if scheme = 1 then 0 else 0x38, zeros, {})
    else if scheme = 1 then
      let e := max (log2Floor n d - emaxOf fmt) (-127)
      let q := l.map (fun v => quantise scheme fmt ctrl (mulNum v (numPow false 1 (if fmt = 7 then 6 - e else -e))))
      ((e + 127).toNat, q.map (·.1), (q.map (·.2)).foldl addFlags {})
    else
      let (mn, md) := maxfinOf fmt
      let big := decide (n * md > 448 * (d * mn))
      let code := if big then 0x7E else
        ((List.range 0x7E).map (· + 1)).find? (fun c => match plainVal 4 c with
          | .fin _ a b => decide (n * md * b ≤ a * (d * mn))
          | _ => false) |>.getD 0x7E
      let q := l.map (fun v => quantise scheme fmt ctrl (divNum v (plainVal 4 code)))
      (code, q.map (·.1), (q.map (·.2)).foldl addFlags { ovf := if big then 1 else 0 })

/-! ## Rows of elements (R193 to R195) -/

/-- Codes packed from bit 0 at a width. -/
def packCodes (w : Nat) (l : List Nat) : Nat := l.foldr (fun c acc => c % 2 ^ w + acc * 2 ^ w) 0

/-- The codes of the first `n` elements of a packed row. -/
def unpackCodes (w n row : Nat) : List Nat := (List.range n).map (fun j => bits row (j * w) w)

/-- Bytes of the element part, and of a whole row of `n` elements (R194); a scale part of more than 32
segments takes whole multiples of 32 bytes. -/
def elemBytes (n w : Nat) : Nat := ceilDiv (n * w) 256 * 32
def rowBytes (n fmt scheme : Nat) : Nat :=
  elemBytes n (fmtBits fmt) + (if scheme = 0 then 0 else ceilDiv (ceilDiv n (blockSize scheme)) 32 * 32)

/-- A block-scaled row of values (R191, R192): its bytes and flags. -/
def scaledRow (df ctrl scheme : Nat) (l : List Num) : Nat × FlagCount :=
  let w := fmtBits df
  let bs := (chunksOf (blockSize scheme) l.length l).map (scaleBlock scheme df ctrl)
  let codes := (bs.map (fun x => x.2.1)).flatten
  (packCodes w codes + packCodes 8 (bs.map (·.1)) * 2 ^ (8 * elemBytes l.length w),
    (bs.map (fun x => x.2.2)).foldl sumFlags {})

/-- A row of results, each with its flags, packed. -/
def packRow (df : Nat) (r : List (Nat × Nat)) : Nat × FlagCount :=
  (packCodes (fmtBits df) (r.map (·.1)), (r.map (·.2)).foldl addFlags {})

/-- A row of output: source codes converted, or block-scaled under a scheme (R195, R202). -/
def outRow (sf df ctrl scheme : Nat) (b : CodeBook) (l : List Nat) : Nat × FlagCount :=
  if scheme = 0 then packRow df (l.map (convertCode sf df ctrl b)) else scaledRow df ctrl scheme (l.map (codeVal sf b))

/-- A row of output from exact values. -/
def outNums (df ctrl scheme : Nat) (l : List Num) : Nat × FlagCount :=
  if scheme = 0 then packRow df (l.map (toFmt df ctrl {})) else scaledRow df ctrl scheme l

/-- Output formats of R202: a target of the source's row other than a codebook; block-scaled, an element
format of the scheme other than a codebook. -/
def outOk (sf df scheme : Nat) : Bool :=
  decide (scheme ≤ 2) && convOk sf df && decide (df ≠ 0xE ∧ df ≠ 0xF) && schemeOk scheme df

/-! ## binary32 arithmetic -/

/-- binary32. -/
def f32 : FFmt := ⟨8, 23, 127, 0x7F7FFFFF, 0x7F800000, 0x7FC00000⟩
/-- The value of a binary32 code, and the code of a value rounded to nearest even, overflow to Inf. -/
def f32Val (c : Nat) : Num := floatVal f32 c
def f32Of (v : Num) : Nat := (toFloat f32 2 v).1
def f32Add (a b : Nat) : Nat := f32Of (addNum (f32Val a) (f32Val b))
def f32Mul (a b : Nat) : Nat := f32Of (mulNum (f32Val a) (f32Val b))
def f32Div (a b : Nat) : Nat := f32Of (divNum (f32Val a) (f32Val b))
def f32Fma (a x b : Nat) : Nat := f32Of (addNum (mulNum (f32Val a) (f32Val x)) (f32Val b))

/-- bfloat16, rounded to nearest even, overflow to Inf. -/
def bf16 : FFmt := ⟨8, 7, 127, 0x7F7F, 0x7F80, 0x7FC0⟩
def bf16Of (v : Num) : Nat × Nat := toFloat bf16 2 v

/-- x - hi, which lo rounds (R203): exact; +0 for an infinite or NaN x. -/
def splitRest (c : Nat) : Num :=
  match f32Val c with
  | .fin s n d => match addNum (.fin s n d) (negNum (floatVal bf16 (bf16Of (.fin s n d)).1)) with
    | .fin z m e => .fin (z && decide (m ≠ 0)) m e
    | v => v
  | _ => numZero false

/-- R203, split: hi and lo of a binary32 code, and the flags of the element (R201). -/
def splitHi (c : Nat) : Nat := (bf16Of (f32Val c)).1
def splitLo (c : Nat) : Nat := (bf16Of (splitRest c)).1
def splitFlags (c : Nat) : Nat := (bf16Of (f32Val c)).2 ||| (bf16Of (splitRest c)).2

/-! ## Products of the arrays (R154 to R156, R186) -/

/-- The class of a format: 0 four bits, 1 six or eight bits, 2 sixteen bits (Table 6.3). -/
def fmtClass (fmt : Nat) : Nat :=
  if fmt = 1 ∨ fmt = 6 then 0 else if fmt = 8 ∨ fmt = 0xA ∨ fmt = 0xB ∨ fmt = 0xC then 2 else 1

/-- Steps per row of a class (Table 6.3). -/
def classSteps (c : Nat) : Nat := if c = 0 then 1 else if c = 1 then 2 else 8

/-- R154: sums of the pair are aligned, not exact. -/
def alignedPair (wf af : Nat) (b : CodeBook) : Bool :=
  let al := fun (f : Nat) => f = 5 || f = 0xA || f = 0xB || f = 0xC || ((f = 0xE || f = 0xF) && b.fmt = 5)
  al wf || al af

/-- The magnitude truncated to a multiple of 2 ^ g. -/
def truncGrid (g : Int) : Num → Num
  | .fin s n d =>
    let k := if g ≥ 0 then n / (d * 2 ^ g.toNat) else n * 2 ^ g.natAbs / d
    numPow s k g
  | x => x

/-- The exact sum of values (R155: NaN, infinities); an exact zero is +0. -/
def sumNums (l : List Num) : Num :=
  if l.any Num.isNan then .nan
  else if l.any (fun v => v = .inf true) ∧ l.any (fun v => v = .inf false) then .nan
  else if l.any (fun v => v = .inf true) then .inf true
  else if l.any (fun v => v = .inf false) then .inf false
  else
    let den := l.foldl (fun m v => match v with | .fin _ _ d => max m d | _ => m) 1
    let tot : Int := l.foldl (fun (a : Int) v => match v with
      | .fin s n d => if s then a - ((n * (den / d) : Nat) : Int) else a + ((n * (den / d) : Nat) : Int)
      | _ => a) 0
    .fin (decide (tot < 0)) tot.natAbs den

/-- The exponent of the largest magnitude. -/
def emaxList (l : List Num) : Option Int :=
  let (n, d) := maxMag l
  if n = 0 then none else some (log2Floor n d)

/-- Values placed on the grid `down` bits below the largest, and summed (R154). -/
def alignedSum (emax : Option Int) (down : Int) (l : List Num) : Num :=
  match emax with
  | some e => sumNums (l.map (truncGrid (e - down)))
  | none => sumNums l

/-- R154, R155: one column sum of products. Each segment of a cut adder has its own grid, so that what it
truncates is below the bound of R164 with the scales included. -/
def columnSum (aligned : Bool) (wide : Bool) (scheme : Nat) (prods : List Num) (scales : List (Num × Num)) : Num :=
  let part := fun (l : List Num) => if aligned then alignedSum (emaxList l) (if wide then 54 else 38) l else sumNums l
  if scheme = 0 then part prods
  else
    let segs := chunksOf (blockSize scheme) prods.length prods
    let scaled := (segs.zip scales).map (fun x =>
      if x.2.1.isNan || x.2.2.isNan then Num.nan else mulNum (part x.1) (mulNum x.2.1 x.2.2))
    alignedSum (emaxList scaled) 54 scaled

/-! ## Exponentials (R171): the exact value to 2 ^ -200 relative, as a fraction -/

/-- ln 2 times 2 ^ 256, rounded down. -/
def ln2Fixed : Nat := 80260960185991308862233904206310070533990667611589946606122867505419956976171

/-- e ^ (r / 2 ^ 256) times 2 ^ 256 for 0 ≤ r < 2 ^ 256, by the series to `k` more terms. -/
def expSeries (r : Nat) : Nat → Nat → Nat → Nat → Nat
  | 0, _, _, acc => acc
  | f + 1, k, term, acc =>
    let t := term * r / (2 ^ 256 * (k + 1))
    expSeries r f (k + 1) t (acc + t)

/-- 2 ^ k times e ^ (r / 2 ^ 256) as a value. -/
def expParts (k : Int) (r : Nat) : Num := numPow false (expSeries r 80 0 (2 ^ 256) (2 ^ 256)) (k - 256)

/-- e ^ x or 2 ^ x of a finite value whose magnitude is below 2,048. -/
def expExact (two : Bool) (s : Bool) (n d : Nat) : Num :=
  let fx : Int := if s then -((n * 2 ^ 256 / d : Nat) : Int) else ((n * 2 ^ 256 / d : Nat) : Int)
  if two then
    let k := fx / (2 ^ 256 : Nat)
    expParts k (((fx % (2 ^ 256 : Nat)).toNat) * ln2Fixed / 2 ^ 256)
  else
    let k := fx / (ln2Fixed : Nat)
    expParts k (fx % (ln2Fixed : Nat)).toNat

/-- A binary32 code moved by `d` units in the last place, within the finite positive codes. -/
def ulpMove (c : Nat) (d : Int) : Nat := (max 0 (min ((c : Int) + d) 0x7F7FFFFF)).toNat

/-- R171: the code lies within 2 ulp of the exact value. -/
def withinUlp (c near : Nat) (v : Num) : Bool :=
  let ulp := addNum (f32Val (near + 1)) (negNum (f32Val near))
  let two := mulNum ulp (numInt 2)
  !gtNum (distNum (f32Val c) v) two

/-- e ^ v or 2 ^ v, to 2 ^ -200; beyond the exponents of binary32 as 0 or +Inf. -/
def expNum (two : Bool) : Num → Num
  | .nan => .nan
  | .inf true => numZero false
  | .inf false => .inf false
  | .fin s n d =>
    if n = 0 then numInt 1
    else if n ≥ 2048 * d then (if s then numZero false else .inf false)
    else expExact two s n d

/-- R171: e ^ x or 2 ^ x; `free` picks among the results within 2 ulp. That of a zero is 1. -/
def expOf (two : Bool) (free : Nat) (x : Num) : Nat :=
  let v := expNum two x
  let near := f32Of v
  if x.isZero ∨ v.isNan ∨ v.isInf ∨ v.isZero ∨ near = f32.infCode ∨ near = 0 then near
  else
    let off : Int := (free % 5 : Nat) - 2
    let c2 := ulpMove near off
    if withinUlp c2 near v then c2 else ulpMove near (if off > 0 then 1 else -1)

/-- R171: EXP and EXP2 of a binary32 code. -/
def expCode (two : Bool) (free : Nat) (c : Nat) : Nat := expOf two free (f32Val c)

end Sys2Proof.Machine
end

