-- ==== Sys2Proof/Machine/Address.lean ====
section
/-! DEFINITION. Device addresses: the tile (R13), the modulo-48 granule hash and its inverse (R39, R40),
and the tables that show them (Table 2.11). -/

namespace Sys2Proof.Machine

/-- The tile that owns a device address (R13). -/
def addrTile (a : Nat) : Nat := bits a 34 6

/-- The offset within the tile's window (R13). -/
def addrOffset (a : Nat) : Nat := a % 2 ^ 34

/-- The end of the populated part of a tile's window, 12 GiB (R13). -/
abbrev populated : Nat := 0x300000000

/-- Where a byte lies: channel, bank, row and byte in the row. -/
structure Place where
  chan : Nat
  bank : Nat
  row : Nat
  byte : Nat
  deriving DecidableEq, Repr

/-- The plain sum s of R39 over a row slot. -/
def slotSum (q : Nat) : Nat := bits q 0 6 + bits q 6 6 + bits q 12 5

/-- R39: channel, bank, row and byte of a populated tile offset. -/
def translate (offset : Nat) : Place :=
  let g := bits offset 11 23
  let q := g / 48
  { chan := (g % 48 + slotSum q) % 48
    bank := bits q 0 4 ^^^ bits q 13 4
    row := bits q 4 13
    byte := offset % 2048 }

/-- The row slot of a bank and row (R40). -/
def rowSlot (b row : Nat) : Nat := row * 16 + (b ^^^ bits row 9 4)

/-- R40: the tile offset of channel, bank, row and byte. -/
def untranslate (c b row byte : Nat) : Nat :=
  let q := rowSlot b row
  (48 * q + (c + 48 * 4 - slotSum q) % 48) * 2048 + byte

/-- Table 2.11 after a write of TranslateAddress. -/
def translateResult (a : Nat) : Nat :=
  if addrOffset a ≥ populated then fld 56 8 0x02
  else
    let p := translate (addrOffset a)
    fld 50 6 (addrTile a) + fld 44 6 p.chan + fld 40 4 p.bank + fld 27 13 p.row + fld 16 11 p.byte

/-- Table 2.11 after a write of UntranslateRequest. -/
def untranslateResult (v : Nat) : Nat :=
  if bits v 44 6 > 47 then fld 56 8 0x0D
  else untranslate (bits v 44 6) (bits v 40 4) (bits v 27 13) (bits v 16 11)

/-- The device address of a byte of a tile. -/
def devAddr (t offset : Nat) : Nat := t * 2 ^ 34 + offset

/-- R235: granules of a block for a BlockSize code. -/
def blockGranules (code : Nat) : Nat := 8 * 2 ^ code

/-- R236: the tile offset of granule `i` of block `p`, with G granules to a block. -/
def blockPlace (firstBand g p i : Nat) : Nat :=
  let j := g * p + i
  let q := 8192 * firstBand + j / 48
  untranslate (j % 48) (bits q 0 4 ^^^ bits q 13 4) (bits q 4 13) 0

/-- R236 read backwards: the block and granule of a row, if it lies at or above the pool's first band. -/
def blockOf (firstBand g c b row : Nat) : Option (Nat × Nat) :=
  let q := rowSlot b row
  if q < 8192 * firstBand then none
  else
    let j := (q - 8192 * firstBand) * 48 + c
    some (j / g, j % g)

end Sys2Proof.Machine
end

