-- ==== Sys2Proof/Machine/Ecc.lean ====
section
/-! DEFINITION. The word code of R260 to R263: 64 data bits and 8 check bits, data in bits 63 to 0. -/

namespace Sys2Proof.Machine

/-- R260: the columns of data bits 0 to 63: the 56 weight-3 values in ascending order, then the 8
smallest weight-5 values. -/
def eccColumns : List Nat :=
  [0x07, 0x0B, 0x0D, 0x0E, 0x13, 0x15, 0x16, 0x19, 0x1A, 0x1C, 0x23, 0x25, 0x26, 0x29, 0x2A, 0x2C] ++
  [0x31, 0x32, 0x34, 0x38, 0x43, 0x45, 0x46, 0x49, 0x4A, 0x4C, 0x51, 0x52, 0x54, 0x58, 0x61, 0x62] ++
  [0x64, 0x68, 0x70, 0x83, 0x85, 0x86, 0x89, 0x8A, 0x8C, 0x91, 0x92, 0x94, 0x98, 0xA1, 0xA2, 0xA4] ++
  [0xA8, 0xB0, 0xC1, 0xC2, 0xC4, 0xC8, 0xD0, 0xE0, 0x1F, 0x2F, 0x37, 0x3B, 0x3D, 0x3E, 0x4F, 0x57]

/-- The columns of all 72 bits of a stored word. -/
def eccAllColumns : List Nat := eccColumns ++ [1, 2, 4, 8, 16, 32, 64, 128]

/-- The XOR of the columns of the set bits of `d`. -/
def eccXor : List Nat → Nat → Nat
  | [], _ => 0
  | h :: r, d => (if d % 2 = 1 then h else 0) ^^^ eccXor r (d / 2)

/-- R260: the check bits of 64 data bits. -/
def eccEncode (d : Nat) : Nat := eccXor eccColumns d

/-- A stored word: data with fresh check bits. -/
def goodWord (d : Nat) : Nat := d + eccEncode d * 2 ^ 64

/-- R263: a word stored poisoned. -/
def poisonWord (d : Nat) : Nat := d + (eccEncode d ^^^ 0x7F) * 2 ^ 64

/-- The syndrome of a stored word (R261). -/
def syndrome (w : Nat) : Nat := eccEncode (w % 2 ^ 64) ^^^ (w / 2 ^ 64)

/-- The classes of R261. -/
inductive WordClass where
  | good
  | corrected (bit : Nat)
  | poisoned
  | uncorrectable
  deriving DecidableEq, Repr

/-- The position of the first element equal to `s`. -/
def columnOf (s : Nat) : List Nat → Nat → Option Nat
  | [], _ => none
  | h :: r, i => if h = s then some i else columnOf s r (i + 1)

/-- R261: the class of a stored word. -/
def classify (w : Nat) : WordClass :=
  let s := syndrome w
  if s = 0 then .good
  else match columnOf s eccAllColumns 0 with
    | some i => .corrected i
    | none => if s = 0x7F then .poisoned else .uncorrectable

/-- Flip bit `i` of a word. -/
def flipBit (w i : Nat) : Nat := putBit w i (!bit w i)

/-- The data a read delivers: corrected where correction is possible (R261, R263). -/
def wordData (w : Nat) : Nat :=
  match classify w with
  | .corrected i => if i < 64 then flipBit (w % 2 ^ 64) i else w % 2 ^ 64
  | _ => w % 2 ^ 64

/-- The word is delivered poisoned (R261). -/
def wordBad (w : Nat) : Bool :=
  match classify w with
  | .poisoned | .uncorrectable => true
  | _ => false

/-- The word written when the data of `w` is written elsewhere after decoding: good if it was good or
corrected, else poisoned (R57, R263). -/
def rewriteWord (w : Nat) : Nat := if wordBad w then poisonWord (wordData w) else goodWord (wordData w)

/-- A word of `d`, poisoned or good. -/
def storeWord (d : Nat) (pois : Bool) : Nat := if pois then poisonWord d else goodWord d

end Sys2Proof.Machine
end

