-- ==== Sys2Proof/Machine/Objects.lean ====
section
/-! DEFINITION. The object dictionary's static properties: the objects of the chapters' tables
(Tables 1.7 to 17.8), their types, access kinds, rights, scope, defaults and ranges (R325 to R331),
and one name per object. An object's key is index * 256 + subindex. -/

namespace Sys2Proof.Machine

/-- The types of Table 13.1 (R327). -/
inductive ObjType where
  | bool | u8 | u16 | u32 | u64 | u128 | i32 | f32 | time64 | str | blob
  deriving DecidableEq, Repr

/-- The code of a type (Table 13.1). -/
def ObjType.code : ObjType → Nat
  | .bool => 1 | .u8 => 2 | .u16 => 3 | .u32 => 4 | .u64 => 5 | .u128 => 6 | .i32 => 7
  | .f32 => 8 | .time64 => 9 | .str => 10 | .blob => 11

/-- The access kinds of R328. -/
inductive Access where
  | ro | rw | wo | rws | cmd
  deriving DecidableEq, Repr

/-- The code of an access kind (R328). -/
def Access.code : Access → Nat
  | .ro => 0 | .rw => 1 | .wo => 2 | .rws => 3 | .cmd => 4

/-- R328: whether a read is allowed. -/
def Access.readable : Access → Bool
  | .ro | .rw | .rws => true
  | .wo | .cmd => false

/-- R328: whether a write is allowed. -/
def Access.writable : Access → Bool
  | .ro => false
  | .rw | .wo | .rws | .cmd => true

/-- One row of an object table (R325): subindices `lo` to `hi` of `index`; the default of subindex
`lo + i` is `dflt + i * step`; a value is in range from `vmin` to `vmax` and a multiple of `vmul`. -/
structure ObjDef where
  index : Nat
  lo : Nat
  hi : Nat
  name : String
  ty : ObjType
  len : Nat
  acc : Access
  dflt : Nat
  step : Nat
  wrights : Nat
  device : Bool
  hw : Bool
  vmin : Nat
  vmax : Nat
  vmul : Nat
  deriving DecidableEq, Repr

/-- Table 1.7 of spec/01_architecture.md. -/
def objs1_7 : List ObjDef :=
  [ ⟨0x2010, 0, 0, "GuaranteeFloor", .u16, 2, .rws, 700, 0, 2, false, false, 500, 950, 1⟩,
    ⟨0x2011, 0, 0, "MeshHopCost", .u16, 2, .rws, 2500, 0, 2, false, false, 500, 20000, 1⟩,
    ⟨0x7810, 1, 1, "SpeedIndex", .u16, 2, .ro, 0, 0, 0, false, false, 0, 256 ^ 2 - 1, 1⟩,
    ⟨0x7810, 2, 2, "LogicSpeed", .u16, 2, .ro, 0, 0, 0, false, false, 0, 256 ^ 2 - 1, 1⟩,
    ⟨0x7810, 3, 3, "StackSpeed", .u16, 2, .ro, 0, 0, 0, false, false, 0, 256 ^ 2 - 1, 1⟩,
    ⟨0x7810, 4, 4, "SpeedLowWater", .u16, 2, .ro, 0, 0, 0, false, false, 0, 256 ^ 2 - 1, 1⟩,
    ⟨0x7810, 5, 5, "SpeedLowWaterClear", .bool, 1, .cmd, 0, 0, 1, false, false, 0, 1, 1⟩,
    ⟨0x7810, 6, 6, "PacerReferenceValid", .bool, 1, .ro, 0, 0, 0, false, false, 0, 1, 1⟩,
    ⟨0xB010, 1, 1, "TimeBaseNow", .time64, 8, .ro, 0, 0, 0, false, false, 0, 256 ^ 8 - 1, 1⟩,
    ⟨0xB010, 2, 2, "TimeBaseSet", .time64, 8, .cmd, 0, 0, 1, true, false, 0, 256 ^ 8 - 1, 1⟩,
    ⟨0xB010, 3, 3, "ReferenceState", .u8, 1, .ro, 0, 0, 0, true, false, 0, 256 ^ 1 - 1, 1⟩,
    ⟨0xB010, 4, 4, "HoldoverEvents", .u32, 4, .ro, 0, 0, 0, true, false, 0, 256 ^ 4 - 1, 1⟩,
    ⟨0xB010, 5, 5, "HoldoverLength", .u64, 8, .ro, 0, 0, 0, true, false, 0, 256 ^ 8 - 1, 1⟩ ]

/-- Table 2.10 of spec/02_stack_and_channels.md. -/
def objs2_10 : List ObjDef :=
  [ ⟨0x3800, 0, 0, "StackInterface", .u8, 1, .rws, 3, 0, 2, true, false, 2, 3, 1⟩,
    ⟨0x3801, 0, 0, "LayerCount", .u8, 1, .ro, 24, 0, 0, true, false, 0, 256 ^ 1 - 1, 1⟩,
    ⟨0x3802, 1, 24, "LayerIdentityCopy", .u64, 8, .ro, 0, 0, 0, true, false, 0, 256 ^ 8 - 1, 1⟩,
    ⟨0x3810, 0, 0, "TileStackState", .u8, 1, .ro, 0, 0, 0, false, false, 0, 256 ^ 1 - 1, 1⟩,
    ⟨0x3820, 1, 48, "ChannelState", .u8, 1, .ro, 0, 0, 0, false, false, 0, 256 ^ 1 - 1, 1⟩,
    ⟨0x3821, 1, 48, "ChannelDisable", .bool, 1, .rws, 0, 0, 2, false, false, 0, 1, 1⟩,
    ⟨0x3822, 1, 48, "LaneSteer", .u64, 8, .rws, 0xffffffffffffffff, 0, 2, false, false, 0, 256 ^ 8 - 1, 1⟩,
    ⟨0x3823, 1, 48, "InBankCopies", .u32, 4, .ro, 0, 0, 0, false, false, 0, 256 ^ 4 - 1, 1⟩,
    ⟨0x3824, 1, 48, "BounceCopies", .u32, 4, .ro, 0, 0, 0, false, false, 0, 256 ^ 4 - 1, 1⟩,
    ⟨0x3825, 1, 48, "ProtocolViolations", .u32, 4, .ro, 0, 0, 0, false, false, 0, 256 ^ 4 - 1, 1⟩,
    ⟨0x3826, 1, 48, "CaParityErrors", .u32, 4, .ro, 0, 0, 0, false, false, 0, 256 ^ 4 - 1, 1⟩,
    ⟨0x3827, 1, 48, "RowFills", .u32, 4, .ro, 0, 0, 0, false, false, 0, 256 ^ 4 - 1, 1⟩,
    ⟨0x3828, 1, 48, "LinkFaults", .u16, 2, .ro, 0, 0, 0, false, false, 0, 256 ^ 2 - 1, 1⟩,
    ⟨0x3830, 0, 0, "FillPattern", .u64, 8, .rw, 0, 0, 1, false, false, 0, 256 ^ 8 - 1, 1⟩,
    ⟨0x3840, 0, 0, "TranslateAddress", .u64, 8, .wo, 0, 0, 1, false, false, 0, 256 ^ 8 - 1, 1⟩,
    ⟨0x3841, 0, 0, "TranslateResult", .u64, 8, .ro, 0, 0, 0, false, false, 0, 256 ^ 8 - 1, 1⟩,
    ⟨0x3842, 0, 0, "UntranslateRequest", .u64, 8, .wo, 0, 0, 1, false, false, 0, 256 ^ 8 - 1, 1⟩ ]

/-- Table 3.3 of spec/03_request_scheduling.md. -/
def objs3_3 : List ObjDef :=
  [ ⟨0x2100, 0, 0, "PagePolicy", .u8, 1, .rw, 2, 0, 1, false, false, 0, 2, 1⟩,
    ⟨0x2101, 0, 0, "OpenRowIdle", .u16, 2, .rw, 200, 0, 1, false, false, 10, 10000, 10⟩,
    ⟨0x2102, 0, 0, "RequestOverhead", .u16, 2, .rws, 16, 0, 2, false, false, 0, 1024, 1⟩,
    ⟨0x2103, 1, 8, "ClassQuantum", .u32, 4, .rws, 1024, 0, 2, false, false, 0, 1048576, 1⟩,
    ⟨0x2104, 1, 1, "WriteDrainHigh", .u8, 1, .rw, 36, 0, 1, false, false, 2, 48, 1⟩,
    ⟨0x2104, 2, 2, "WriteDrainLow", .u8, 1, .rw, 12, 0, 1, false, false, 0, 256 ^ 1 - 1, 1⟩,
    ⟨0x2104, 3, 3, "WriteBatchMin", .u8, 1, .rw, 8, 0, 1, false, false, 1, 48, 1⟩,
    ⟨0x2105, 1, 1, "ReadPassReserve", .u8, 1, .rws, 16, 0, 2, false, false, 0, 48, 1⟩,
    ⟨0x2105, 2, 2, "WritePassReserve", .u8, 1, .rws, 12, 0, 2, false, false, 0, 36, 1⟩,
    ⟨0x2105, 3, 3, "ReadClassLimit", .u8, 1, .rw, 32, 0, 1, false, false, 1, 64, 1⟩,
    ⟨0x2105, 4, 4, "WriteClassLimit", .u8, 1, .rw, 24, 0, 1, false, false, 1, 48, 1⟩,
    ⟨0x2106, 0, 0, "RowHitLimit", .u8, 1, .rw, 8, 0, 1, false, false, 1, 64, 1⟩,
    ⟨0x2107, 0, 0, "MergeEnable", .bool, 1, .rws, 1, 0, 2, false, false, 0, 1, 1⟩,
    ⟨0x2108, 0, 0, "MergeHoldLimit", .u16, 2, .rw, 256, 0, 1, false, false, 20, 256, 1⟩,
    ⟨0x2110, 1, 48, "RowHits", .u64, 8, .ro, 0, 0, 0, false, false, 0, 256 ^ 8 - 1, 1⟩,
    ⟨0x2111, 1, 48, "RowMisses", .u64, 8, .ro, 0, 0, 0, false, false, 0, 256 ^ 8 - 1, 1⟩,
    ⟨0x2112, 1, 48, "RowConflicts", .u64, 8, .ro, 0, 0, 0, false, false, 0, 256 ^ 8 - 1, 1⟩,
    ⟨0x2113, 1, 48, "ReadModifyWrites", .u64, 8, .ro, 0, 0, 0, false, false, 0, 256 ^ 8 - 1, 1⟩,
    ⟨0x2114, 1, 48, "ForwardedReads", .u32, 4, .ro, 0, 0, 0, false, false, 0, 256 ^ 4 - 1, 1⟩,
    ⟨0x2115, 1, 48, "WriteDrains", .u32, 4, .ro, 0, 0, 0, false, false, 0, 256 ^ 4 - 1, 1⟩,
    ⟨0x2116, 1, 48, "QueueDepth", .u16, 2, .ro, 0, 0, 0, false, false, 0, 256 ^ 2 - 1, 1⟩,
    ⟨0x2120, 1, 1, "MergeAllocations", .u64, 8, .ro, 0, 0, 0, false, false, 0, 256 ^ 8 - 1, 1⟩,
    ⟨0x2120, 2, 2, "MergeLineFlushes", .u64, 8, .ro, 0, 0, 0, false, false, 0, 256 ^ 8 - 1, 1⟩,
    ⟨0x2120, 3, 3, "MergeHoldFlushes", .u64, 8, .ro, 0, 0, 0, false, false, 0, 256 ^ 8 - 1, 1⟩,
    ⟨0x2120, 4, 4, "MergeEvictFlushes", .u64, 8, .ro, 0, 0, 0, false, false, 0, 256 ^ 8 - 1, 1⟩,
    ⟨0x2120, 5, 5, "MergeHazardFlushes", .u64, 8, .ro, 0, 0, 0, false, false, 0, 256 ^ 8 - 1, 1⟩,
    ⟨0x2121, 0, 0, "IngressStalls", .u64, 8, .ro, 0, 0, 0, false, false, 0, 256 ^ 8 - 1, 1⟩ ]

/-- Table 4.7 of spec/04_hall_pass_guarantees.md. -/
def objs4_7 : List ObjDef :=
  [ ⟨0x2012, 0, 0, "PassBand", .u8, 1, .rws, 1, 0, 2, false, false, 0, 3, 1⟩,
    ⟨0x2200, 1, 1, "PassRequest", .blob, 64, .cmd, 0, 0, 1, false, false, 0, 256 ^ 64 - 1, 1⟩,
    ⟨0x2200, 2, 2, "PassResult", .blob, 16, .ro, 0, 0, 0, false, false, 0, 256 ^ 16 - 1, 1⟩,
    ⟨0x2200, 3, 3, "PassRelease", .u8, 1, .cmd, 0, 0, 1, false, false, 0, 256 ^ 1 - 1, 1⟩,
    ⟨0x2200, 4, 4, "PassRegrant", .u8, 1, .cmd, 0, 0, 1, false, false, 0, 256 ^ 1 - 1, 1⟩,
    ⟨0x2200, 5, 5, "PassProbe", .blob, 64, .cmd, 0, 0, 1, false, false, 0, 256 ^ 64 - 1, 1⟩,
    ⟨0x2201, 0, 0, "LivePasses", .u16, 2, .ro, 0, 0, 0, false, false, 0, 256 ^ 2 - 1, 1⟩,
    ⟨0x2202, 0, 0, "AdmittedLoad", .u32, 4, .ro, 0, 0, 0, false, false, 0, 256 ^ 4 - 1, 1⟩,
    ⟨0x2203, 0, 0, "AdmissionCeiling", .u32, 4, .ro, 0, 0, 0, false, false, 0, 256 ^ 4 - 1, 1⟩,
    ⟨0x2204, 0, 0, "PassGrants", .u32, 4, .ro, 0, 0, 0, false, false, 0, 256 ^ 4 - 1, 1⟩,
    ⟨0x2205, 0, 0, "PassRefusals", .u32, 4, .ro, 0, 0, 0, false, false, 0, 256 ^ 4 - 1, 1⟩,
    ⟨0x2206, 0, 0, "LastRefusalReason", .u8, 1, .ro, 0, 0, 0, false, false, 0, 256 ^ 1 - 1, 1⟩,
    ⟨0x2207, 0, 0, "TileRiskCause", .u16, 2, .ro, 0, 0, 0, false, false, 0, 256 ^ 2 - 1, 1⟩,
    ⟨0x2208, 0, 0, "MissedEvents", .u32, 4, .ro, 0, 0, 0, false, false, 0, 256 ^ 4 - 1, 1⟩,
    ⟨0x2209, 0, 0, "PassRiskEvents", .u32, 4, .ro, 0, 0, 0, false, false, 0, 256 ^ 4 - 1, 1⟩,
    ⟨0x2210, 0, 255, "PassTerms", .blob, 64, .ro, 0, 0, 0, false, false, 0, 256 ^ 64 - 1, 1⟩,
    ⟨0x2211, 0, 255, "PassState", .u8, 1, .ro, 0, 0, 0, false, false, 0, 256 ^ 1 - 1, 1⟩,
    ⟨0x2212, 0, 255, "PassComputedBound", .u32, 4, .ro, 0, 0, 0, false, false, 0, 256 ^ 4 - 1, 1⟩,
    ⟨0x2213, 0, 255, "PassMissCount", .u32, 4, .ro, 0, 0, 0, false, false, 0, 256 ^ 4 - 1, 1⟩,
    ⟨0x2214, 0, 255, "PassWorstLateness", .u32, 4, .ro, 0, 0, 0, false, false, 0, 256 ^ 4 - 1, 1⟩,
    ⟨0x2215, 0, 255, "PassNonConforming", .u64, 8, .ro, 0, 0, 0, false, false, 0, 256 ^ 8 - 1, 1⟩,
    ⟨0x2216, 0, 255, "PassRiskCause", .u16, 2, .ro, 0, 0, 0, false, false, 0, 256 ^ 2 - 1, 1⟩,
    ⟨0x2217, 0, 255, "PassLongest", .u32, 4, .ro, 0, 0, 0, false, false, 0, 256 ^ 4 - 1, 1⟩,
    ⟨0x2218, 0, 255, "PassBytes", .u64, 8, .ro, 0, 0, 0, false, false, 0, 256 ^ 8 - 1, 1⟩ ]

/-- Table 5.4 of spec/05_regulation_and_timetables.md. -/
def objs5_4 : List ObjDef :=
  [ ⟨0x3000, 0, 0, "RegulationMode", .u8, 1, .rws, 0, 0, 2, false, false, 0, 1, 1⟩,
    ⟨0x3001, 0, 0, "RangeDefault", .u8, 1, .rw, 1, 0, 1, false, false, 0, 1, 1⟩,
    ⟨0x3002, 0, 0, "DefaultOutstandingLimit", .u16, 2, .rw, 256, 0, 1, false, false, 1, 4096, 1⟩,
    ⟨0x3010, 1, 16, "RangeRegister", .blob, 16, .rw, 0, 0, 1, false, false, 0, 256 ^ 16 - 1, 1⟩,
    ⟨0x3011, 0, 0, "AccessDenials", .u32, 4, .ro, 0, 0, 0, false, false, 0, 256 ^ 4 - 1, 1⟩,
    ⟨0x3012, 0, 0, "LastDeniedAddress", .u64, 8, .ro, 0, 0, 0, false, false, 0, 256 ^ 8 - 1, 1⟩,
    ⟨0x3020, 1, 17, "RegulatorOutstanding", .u16, 2, .ro, 0, 0, 0, false, false, 0, 256 ^ 2 - 1, 1⟩,
    ⟨0x3021, 1, 17, "OverBudgetEntries", .u32, 4, .ro, 0, 0, 0, false, false, 0, 256 ^ 4 - 1, 1⟩,
    ⟨0x3022, 1, 17, "OverBudgetTime", .u64, 8, .ro, 0, 0, 0, false, false, 0, 256 ^ 8 - 1, 1⟩,
    ⟨0x3023, 1, 17, "RegulatorPeak", .u16, 2, .ro, 0, 0, 0, false, false, 0, 256 ^ 2 - 1, 1⟩,
    ⟨0x3030, 1, 255, "PartitionTiles", .u64, 8, .rw, 0, 0, 1, true, false, 0, 256 ^ 8 - 1, 1⟩,
    ⟨0x3040, 0, 255, "CommittedLevel", .u32, 4, .ro, 0, 0, 0, false, false, 0, 256 ^ 4 - 1, 1⟩,
    ⟨0x3041, 0, 255, "PeakLevel", .u32, 4, .ro, 0, 0, 0, false, false, 0, 256 ^ 4 - 1, 1⟩,
    ⟨0x3050, 1, 48, "PassTierRound", .u32, 4, .ro, 0, 0, 0, false, false, 0, 256 ^ 4 - 1, 1⟩,
    ⟨0x3051, 1, 48, "BestEffortRound", .u32, 4, .ro, 0, 0, 0, false, false, 0, 256 ^ 4 - 1, 1⟩,
    ⟨0x3100, 0, 0, "TimetableEnable", .bool, 1, .rw, 0, 0, 1, false, false, 0, 1, 1⟩,
    ⟨0x3101, 1, 64, "TimetableEntry", .u64, 8, .rw, 0, 0, 1, false, false, 0, 256 ^ 8 - 1, 1⟩,
    ⟨0x3102, 0, 0, "TimetableLength", .u8, 1, .rw, 1, 0, 1, false, false, 1, 64, 1⟩,
    ⟨0x3103, 0, 0, "TimetableBase", .time64, 8, .rw, 0, 0, 1, false, false, 0, 256 ^ 8 - 1, 1⟩,
    ⟨0x3104, 0, 0, "TimetableCommit", .bool, 1, .cmd, 0, 0, 1, false, false, 0, 1, 1⟩,
    ⟨0x3105, 0, 0, "TimetableCommitResult", .u8, 1, .ro, 0, 0, 0, false, false, 0, 256 ^ 1 - 1, 1⟩,
    ⟨0x3106, 0, 0, "TimetableState", .u8, 1, .ro, 0, 0, 0, false, false, 0, 256 ^ 1 - 1, 1⟩,
    ⟨0x3107, 0, 0, "TimetableStart", .time64, 8, .ro, 0, 0, 0, false, false, 0, 256 ^ 8 - 1, 1⟩,
    ⟨0x3108, 0, 0, "TimetablePendingStart", .time64, 8, .ro, 0, 0, 0, false, false, 0, 256 ^ 8 - 1, 1⟩,
    ⟨0x3109, 1, 64, "OperTimetableEntry", .u64, 8, .ro, 0, 0, 0, false, false, 0, 256 ^ 8 - 1, 1⟩,
    ⟨0x310A, 0, 0, "OperTimetableLength", .u8, 1, .ro, 0, 0, 0, false, false, 0, 256 ^ 1 - 1, 1⟩,
    ⟨0x310B, 0, 0, "TimetableCycle", .u32, 4, .ro, 0, 0, 0, false, false, 0, 256 ^ 4 - 1, 1⟩,
    ⟨0x3110, 1, 8, "ClassClosedLongest", .u32, 4, .ro, 0, 0, 0, false, false, 0, 256 ^ 4 - 1, 1⟩,
    ⟨0x3111, 1, 8, "ClassOpenFraction", .u32, 4, .ro, 0xf4240, 0, 0, false, false, 0, 256 ^ 4 - 1, 1⟩,
    ⟨0x3112, 1, 8, "ClassLongestWindow", .u32, 4, .ro, 0xffffffff, 0, 0, false, false, 0, 256 ^ 4 - 1, 1⟩,
    ⟨0x3113, 1, 8, "TooLongRefusals", .u32, 4, .ro, 0, 0, 0, false, false, 0, 256 ^ 4 - 1, 1⟩,
    ⟨0x3114, 1, 8, "GateWaits", .u64, 8, .ro, 0, 0, 0, false, false, 0, 256 ^ 8 - 1, 1⟩,
    ⟨0x3115, 0, 0, "GateOverruns", .u32, 4, .ro, 0, 0, 0, false, false, 0, 256 ^ 4 - 1, 1⟩,
    ⟨0x3200, 0, 0, "SamplePeriod", .u32, 4, .rw, 1000, 0, 1, false, false, 100, 1000000, 10⟩,
    ⟨0x3201, 1, 48, "ReadDepthLast", .u8, 1, .ro, 0, 0, 0, false, false, 0, 256 ^ 1 - 1, 1⟩,
    ⟨0x3202, 1, 48, "ReadDepthMax", .u8, 1, .ro, 0, 0, 0, false, false, 0, 256 ^ 1 - 1, 1⟩,
    ⟨0x3203, 1, 48, "ReadDepthSum", .u64, 8, .ro, 0, 0, 0, false, false, 0, 256 ^ 8 - 1, 1⟩,
    ⟨0x3204, 1, 48, "ReadDelayLast", .u32, 4, .ro, 0, 0, 0, false, false, 0, 256 ^ 4 - 1, 1⟩,
    ⟨0x3205, 1, 48, "ReadDelayMax", .u32, 4, .ro, 0, 0, 0, false, false, 0, 256 ^ 4 - 1, 1⟩,
    ⟨0x3206, 1, 48, "ReadDelaySum", .u64, 8, .ro, 0, 0, 0, false, false, 0, 256 ^ 8 - 1, 1⟩ ]

/-- Table 5.4 of spec/05_regulation_and_timetables.md (continued). -/
def objs5_4a : List ObjDef :=
  [ ⟨0x3207, 1, 48, "WriteDepthLast", .u8, 1, .ro, 0, 0, 0, false, false, 0, 256 ^ 1 - 1, 1⟩,
    ⟨0x3208, 1, 48, "WriteDepthMax", .u8, 1, .ro, 0, 0, 0, false, false, 0, 256 ^ 1 - 1, 1⟩,
    ⟨0x3209, 1, 48, "WriteDepthSum", .u64, 8, .ro, 0, 0, 0, false, false, 0, 256 ^ 8 - 1, 1⟩,
    ⟨0x320A, 1, 48, "WriteDelayLast", .u32, 4, .ro, 0, 0, 0, false, false, 0, 256 ^ 4 - 1, 1⟩,
    ⟨0x320B, 1, 48, "WriteDelayMax", .u32, 4, .ro, 0, 0, 0, false, false, 0, 256 ^ 4 - 1, 1⟩,
    ⟨0x320C, 1, 48, "WriteDelaySum", .u64, 8, .ro, 0, 0, 0, false, false, 0, 256 ^ 8 - 1, 1⟩,
    ⟨0x320D, 0, 0, "SampleCount", .u64, 8, .ro, 0, 0, 0, false, false, 0, 256 ^ 8 - 1, 1⟩,
    ⟨0x320E, 0, 0, "SampleClear", .bool, 1, .cmd, 0, 0, 1, false, false, 0, 1, 1⟩,
    ⟨0x3300, 0, 0, "StallThreshold", .u32, 4, .rw, 1000, 0, 1, false, false, 100, 1000000000, 10⟩,
    ⟨0x3301, 1, 5, "StallCount", .u32, 4, .ro, 0, 0, 0, false, false, 0, 256 ^ 4 - 1, 1⟩,
    ⟨0x3302, 1, 5, "StallLongest", .u64, 8, .ro, 0, 0, 0, false, false, 0, 256 ^ 8 - 1, 1⟩,
    ⟨0x3303, 1, 5, "StallTotal", .u64, 8, .ro, 0, 0, 0, false, false, 0, 256 ^ 8 - 1, 1⟩,
    ⟨0x3304, 1, 5, "HeldBursts", .u8, 1, .ro, 0, 0, 0, false, false, 0, 256 ^ 1 - 1, 1⟩ ]

/-- Table 6.13 of spec/06_nib_arrays.md. -/
def objs6_13 : List ObjDef :=
  [ ⟨0x4000, 1, 4, "ArrayState", .u8, 1, .ro, 0, 0, 0, false, false, 0, 256 ^ 1 - 1, 1⟩,
    ⟨0x4001, 0, 0, "PreemptEnable", .bool, 1, .rws, 1, 0, 2, false, false, 0, 1, 1⟩,
    ⟨0x4002, 0, 0, "PreemptRequest", .u8, 1, .cmd, 0, 0, 1, false, false, 0, 256 ^ 1 - 1, 1⟩,
    ⟨0x4003, 1, 4, "SaveAreaBase", .u32, 4, .rw, 0x6fc000, 0x41000, 1, false, false, 0, 8122368, 4096⟩,
    ⟨0x4004, 1, 4, "ArraySteps", .u64, 8, .ro, 0, 0, 0, false, false, 0, 256 ^ 8 - 1, 1⟩,
    ⟨0x4005, 1, 4, "ActiveColumnSteps", .u64, 8, .ro, 0, 0, 0, false, false, 0, 256 ^ 8 - 1, 1⟩,
    ⟨0x4006, 1, 4, "ColumnEfficiency", .u16, 2, .ro, 0, 0, 0, false, false, 0, 256 ^ 2 - 1, 1⟩,
    ⟨0x4007, 1, 4, "RowEfficiency", .u16, 2, .ro, 0, 0, 0, false, false, 0, 256 ^ 2 - 1, 1⟩,
    ⟨0x4008, 1, 4, "ResidueFaults", .u32, 4, .ro, 0, 0, 0, false, false, 0, 256 ^ 4 - 1, 1⟩,
    ⟨0x4009, 1, 4, "ResidueRetries", .u32, 4, .ro, 0, 0, 0, false, false, 0, 256 ^ 4 - 1, 1⟩,
    ⟨0x400A, 1, 4, "LastResidueFault", .u64, 8, .ro, 0, 0, 0, false, false, 0, 256 ^ 8 - 1, 1⟩,
    ⟨0x400B, 0, 0, "ResidueWindow", .u32, 4, .rws, 1000, 0, 2, false, false, 1, 86400000, 1⟩,
    ⟨0x400C, 1, 4, "ArrayUnfence", .bool, 1, .cmd, 0, 0, 2, false, false, 0, 1, 1⟩,
    ⟨0x400D, 1, 4, "InkwellUncorrectable", .u32, 4, .ro, 0, 0, 0, false, false, 0, 256 ^ 4 - 1, 1⟩,
    ⟨0x400E, 1, 4, "AbandonedGroups", .u32, 4, .ro, 0, 0, 0, false, false, 0, 256 ^ 4 - 1, 1⟩,
    ⟨0x400F, 1, 4, "IntSaturations", .u32, 4, .ro, 0, 0, 0, false, false, 0, 256 ^ 4 - 1, 1⟩,
    ⟨0x4010, 1, 4, "Preemptions", .u32, 4, .ro, 0, 0, 0, false, false, 0, 256 ^ 4 - 1, 1⟩,
    ⟨0x4011, 1, 4, "LastPreemptLatency", .u32, 4, .ro, 0, 0, 0, false, false, 0, 256 ^ 4 - 1, 1⟩,
    ⟨0x4012, 1, 4, "ThrottleTime", .u64, 8, .ro, 0, 0, 0, false, false, 0, 256 ^ 8 - 1, 1⟩,
    ⟨0x4013, 1, 4, "TripStops", .u32, 4, .ro, 0, 0, 0, false, false, 0, 256 ^ 4 - 1, 1⟩,
    ⟨0x4100, 0, 0, "VectorOps", .u64, 8, .ro, 0, 0, 0, false, false, 0, 256 ^ 8 - 1, 1⟩,
    ⟨0x4101, 0, 0, "VectorResidueFaults", .u32, 4, .ro, 0, 0, 0, false, false, 0, 256 ^ 4 - 1, 1⟩,
    ⟨0x4102, 0, 0, "VectorBusyTime", .u64, 8, .ro, 0, 0, 0, false, false, 0, 256 ^ 8 - 1, 1⟩ ]

/-- Table 7.8 of spec/07_number_formats.md. -/
def objs7_8 : List ObjDef :=
  [ ⟨0x4200, 0, 0, "FormatSupport", .u16, 2, .ro, 0xfffe, 0, 0, false, false, 0, 256 ^ 2 - 1, 1⟩,
    ⟨0x4201, 0, 0, "ConversionInvalid", .u64, 8, .ro, 0, 0, 0, false, false, 0, 256 ^ 8 - 1, 1⟩,
    ⟨0x4202, 0, 0, "ConversionOverflows", .u64, 8, .ro, 0, 0, 0, false, false, 0, 256 ^ 8 - 1, 1⟩,
    ⟨0x4203, 0, 0, "ConversionUnderflows", .u64, 8, .ro, 0, 0, 0, false, false, 0, 256 ^ 8 - 1, 1⟩,
    ⟨0x4204, 0, 0, "CodebookLoads", .u32, 4, .ro, 0, 0, 0, false, false, 0, 256 ^ 4 - 1, 1⟩,
    ⟨0x4205, 0, 0, "BlockScaleNaN", .u32, 4, .ro, 0, 0, 0, false, false, 0, 256 ^ 4 - 1, 1⟩ ]

/-- Table 8.18 of spec/08_engine_programs.md. -/
def objs8_18 : List ObjDef :=
  [ ⟨0x4300, 1, 6, "EngineState", .u8, 1, .ro, 8, 0, 0, false, false, 0, 256 ^ 1 - 1, 1⟩,
    ⟨0x4301, 1, 6, "EngineEnable", .bool, 1, .rw, 0, 0, 1, false, false, 0, 1, 1⟩,
    ⟨0x4302, 1, 6, "EngineQueueBase", .u64, 8, .rw, 0, 0, 1, false, false, 0, 256 ^ 8 - 1, 1⟩,
    ⟨0x4303, 1, 6, "EngineQueueSize", .u32, 4, .rw, 256, 0, 1, false, false, 16, 1048576, 1⟩,
    ⟨0x4304, 1, 6, "EngineHead", .u32, 4, .ro, 0, 0, 0, false, false, 0, 256 ^ 4 - 1, 1⟩,
    ⟨0x4305, 1, 6, "EngineTail", .u32, 4, .rw, 0, 0, 1, false, false, 0, 256 ^ 4 - 1, 1⟩,
    ⟨0x4306, 1, 6, "EngineResume", .u8, 1, .cmd, 0, 0, 1, false, false, 0, 256 ^ 1 - 1, 1⟩,
    ⟨0x4307, 1, 6, "EngineReplace", .blob, 64, .wo, 0, 0, 1, false, false, 0, 256 ^ 64 - 1, 1⟩,
    ⟨0x4308, 1, 6, "EngineStopAddress", .u32, 4, .ro, 0, 0, 0, false, false, 0, 256 ^ 4 - 1, 1⟩,
    ⟨0x4309, 1, 6, "EngineStopStatus", .u8, 1, .ro, 0, 0, 0, false, false, 0, 256 ^ 1 - 1, 1⟩,
    ⟨0x430A, 1, 6, "EngineEventBit", .u8, 1, .rw, 0, 0, 1, false, false, 0, 256 ^ 1 - 1, 1⟩,
    ⟨0x430B, 1, 6, "FetchPass", .u16, 2, .rw, 0, 0, 1, false, false, 0, 256 ^ 2 - 1, 1⟩,
    ⟨0x430C, 1, 6, "CompletionRingBase", .u32, 4, .rw, 0x6b0000, 0x2000, 1, false, false, 0, 256 ^ 4 - 1, 32⟩,
    ⟨0x430D, 1, 6, "CompletionRingSize", .u32, 4, .rw, 256, 0, 1, false, false, 16, 65536, 1⟩,
    ⟨0x430E, 1, 6, "CompletionProduced", .u32, 4, .ro, 0, 0, 0, false, false, 0, 256 ^ 4 - 1, 1⟩,
    ⟨0x430F, 1, 6, "CompletionConsumed", .u32, 4, .rw, 0, 0, 1, false, false, 0, 256 ^ 4 - 1, 1⟩,
    ⟨0x4310, 1, 6, "DescriptorsCompleted", .u64, 8, .ro, 0, 0, 0, false, false, 0, 256 ^ 8 - 1, 1⟩,
    ⟨0x4311, 1, 6, "FetchTraps", .u32, 4, .ro, 0, 0, 0, false, false, 0, 256 ^ 4 - 1, 1⟩,
    ⟨0x4312, 1, 6, "CompletionStalls", .u64, 8, .ro, 0, 0, 0, false, false, 0, 256 ^ 8 - 1, 1⟩,
    ⟨0x4313, 1, 4, "LoadStageBase", .u32, 4, .rw, 0x6bc000, 0x10000, 1, false, false, 0, 256 ^ 4 - 1, 1⟩,
    ⟨0x4313, 5, 6, "LoadStageBase", .u32, 4, .rw, 0, 0, 0, false, false, 0, 256 ^ 4 - 1, 1⟩,
    ⟨0x4314, 1, 6, "EngineYield", .bool, 1, .cmd, 0, 0, 1, false, false, 0, 1, 1⟩,
    ⟨0x4320, 1, 12, "MoverState", .u8, 1, .ro, 0, 0, 0, false, false, 0, 256 ^ 1 - 1, 1⟩,
    ⟨0x4321, 1, 12, "MoverFault", .u64, 8, .ro, 0, 0, 0, false, false, 0, 256 ^ 8 - 1, 1⟩,
    ⟨0x4322, 1, 12, "MoverHalts", .u32, 4, .ro, 0, 0, 0, false, false, 0, 256 ^ 4 - 1, 1⟩,
    ⟨0x4323, 1, 12, "MoverBytes", .u64, 8, .ro, 0, 0, 0, false, false, 0, 256 ^ 8 - 1, 1⟩,
    ⟨0x4324, 0, 0, "MoverRetryLimit", .u16, 2, .rw, 1000, 0, 1, false, false, 1, 256 ^ 2 - 1, 1⟩,
    ⟨0x4340, 1, 64, "Semaphore", .u32, 4, .rw, 0, 0, 1, false, false, 0, 256 ^ 4 - 1, 1⟩,
    ⟨0x4341, 0, 0, "WaitTimeouts", .u32, 4, .ro, 0, 0, 0, false, false, 0, 256 ^ 4 - 1, 1⟩ ]

/-- Table 9.11 of spec/09_block_map_and_prefixes.md. -/
def objs9_11 : List ObjDef :=
  [ ⟨0x5000, 0, 0, "BlockSize", .u8, 1, .rws, 3, 0, 2, false, false, 0, 4, 1⟩,
    ⟨0x5001, 0, 0, "PoolFirstBand", .u8, 1, .rws, 5, 0, 2, false, false, 0, 15, 1⟩,
    ⟨0x5002, 0, 0, "PoolBands", .u8, 1, .rws, 11, 0, 2, false, false, 1, 16, 1⟩,
    ⟨0x5003, 0, 0, "PoolBlocks", .u32, 4, .ro, 0x10000, 0, 0, false, false, 0, 256 ^ 4 - 1, 1⟩,
    ⟨0x5004, 0, 0, "FreeBlocks", .u32, 4, .ro, 0x10000, 0, 0, false, false, 0, 256 ^ 4 - 1, 1⟩,
    ⟨0x5005, 0, 0, "ClearOnFree", .bool, 1, .rws, 1, 0, 2, false, false, 0, 1, 1⟩,
    ⟨0x5006, 0, 0, "NextLevelNode", .u16, 2, .rws, 0, 0, 2, false, false, 0, 256 ^ 2 - 1, 1⟩,
    ⟨0x5007, 0, 0, "SpillEnable", .bool, 1, .rw, 1, 0, 1, false, false, 0, 1, 1⟩,
    ⟨0x5008, 0, 0, "SpillHand", .u16, 2, .ro, 0, 0, 0, false, false, 0, 256 ^ 2 - 1, 1⟩,
    ⟨0x5009, 0, 0, "NextLevelTimeout", .u32, 4, .rw, 10, 0, 1, false, false, 1, 1000, 1⟩,
    ⟨0x5010, 0, 0, "MapCommand", .blob, 32, .cmd, 0, 0, 1, false, false, 0, 256 ^ 32 - 1, 1⟩,
    ⟨0x5011, 0, 0, "MapResult", .blob, 16, .ro, 0, 0, 0, false, false, 0, 256 ^ 16 - 1, 1⟩,
    ⟨0x5012, 0, 0, "MapEntryImage", .blob, 16, .ro, 0, 0, 0, false, false, 0, 256 ^ 16 - 1, 1⟩,
    ⟨0x5020, 1, 12, "MapWindow", .u64, 8, .rw, 0, 0, 1, false, false, 0, 256 ^ 8 - 1, 1⟩,
    ⟨0x5021, 0, 0, "MapSwitch", .blob, 64, .cmd, 0, 0, 1, false, false, 0, 256 ^ 64 - 1, 1⟩,
    ⟨0x5022, 0, 0, "MapSwitchResult", .u8, 1, .ro, 0, 0, 0, false, false, 0, 256 ^ 1 - 1, 1⟩,
    ⟨0x5023, 0, 0, "LastSwitchLatency", .u32, 4, .ro, 0, 0, 0, false, false, 0, 256 ^ 4 - 1, 1⟩,
    ⟨0x5030, 0, 0, "CowBlocks", .u64, 8, .ro, 0, 0, 0, false, false, 0, 256 ^ 8 - 1, 1⟩,
    ⟨0x5031, 0, 0, "CowInBankRows", .u64, 8, .ro, 0, 0, 0, false, false, 0, 256 ^ 8 - 1, 1⟩,
    ⟨0x5032, 0, 0, "CowBounceRows", .u64, 8, .ro, 0, 0, 0, false, false, 0, 256 ^ 8 - 1, 1⟩,
    ⟨0x5033, 0, 0, "Spills", .u64, 8, .ro, 0, 0, 0, false, false, 0, 256 ^ 8 - 1, 1⟩,
    ⟨0x5034, 0, 0, "Fills", .u64, 8, .ro, 0, 0, 0, false, false, 0, 256 ^ 8 - 1, 1⟩,
    ⟨0x5035, 0, 0, "BlocksCleared", .u64, 8, .ro, 0, 0, 0, false, false, 0, 256 ^ 8 - 1, 1⟩,
    ⟨0x5036, 0, 0, "PrefixHits", .u64, 8, .ro, 0, 0, 0, false, false, 0, 256 ^ 8 - 1, 1⟩,
    ⟨0x5037, 0, 0, "PrefixMisses", .u64, 8, .ro, 0, 0, 0, false, false, 0, 256 ^ 8 - 1, 1⟩,
    ⟨0x5038, 0, 0, "PrefixReplacements", .u32, 4, .ro, 0, 0, 0, false, false, 0, 256 ^ 4 - 1, 1⟩,
    ⟨0x5039, 0, 0, "RetiredBlocks", .u32, 4, .ro, 0, 0, 0, false, false, 0, 256 ^ 4 - 1, 1⟩,
    ⟨0x503A, 0, 0, "MapUncorrectable", .u32, 4, .ro, 0, 0, 0, false, false, 0, 256 ^ 4 - 1, 1⟩,
    ⟨0x503B, 0, 0, "PoolExhausted", .u32, 4, .ro, 0, 0, 0, false, false, 0, 256 ^ 4 - 1, 1⟩,
    ⟨0x503C, 0, 0, "HeldRequests", .u16, 2, .ro, 0, 0, 0, false, false, 0, 256 ^ 2 - 1, 1⟩,
    ⟨0x503F, 0, 0, "LastMapEvent", .u64, 8, .ro, 0, 0, 0, false, false, 0, 256 ^ 8 - 1, 1⟩ ]

/-- Table 10.6 of spec/10_data_protection_and_repair.md. -/
def objs10_6 : List ObjDef :=
  [ ⟨0x6000, 0, 0, "ScrubEnable", .bool, 1, .rws, 1, 0, 2, false, false, 0, 1, 1⟩,
    ⟨0x6001, 0, 0, "ScrubSpacing", .u32, 4, .rw, 0x61a80, 0, 1, false, false, 10, 100000000, 10⟩,
    ⟨0x6002, 0, 0, "ScrubLapLimit", .u32, 4, .rw, 0x15180, 0, 1, false, false, 60, 2592000, 1⟩,
    ⟨0x6003, 1, 48, "ScrubLapLast", .u64, 8, .ro, 0, 0, 0, false, false, 0, 256 ^ 8 - 1, 1⟩,
    ⟨0x6004, 1, 48, "ScrubLapProgress", .u32, 4, .ro, 0, 0, 0, false, false, 0, 256 ^ 4 - 1, 1⟩,
    ⟨0x6005, 1, 48, "ScrubLaps", .u32, 4, .ro, 0, 0, 0, false, false, 0, 256 ^ 4 - 1, 1⟩,
    ⟨0x6006, 0, 0, "DeviceScrubLapLast", .u64, 8, .ro, 0, 0, 0, true, false, 0, 256 ^ 8 - 1, 1⟩,
    ⟨0x6007, 0, 0, "ScrubOverdue", .u64, 8, .ro, 0, 0, 0, false, false, 0, 256 ^ 8 - 1, 1⟩,
    ⟨0x6008, 0, 0, "SramScrubLapLast", .u64, 8, .ro, 0, 0, 0, false, false, 0, 256 ^ 8 - 1, 1⟩,
    ⟨0x6010, 1, 48, "CorrectedReads", .u64, 8, .ro, 0, 0, 0, false, false, 0, 256 ^ 8 - 1, 1⟩,
    ⟨0x6011, 1, 48, "CorrectedScrub", .u64, 8, .ro, 0, 0, 0, false, false, 0, 256 ^ 8 - 1, 1⟩,
    ⟨0x6012, 1, 48, "UncorrectableWords", .u32, 4, .ro, 0, 0, 0, false, false, 0, 256 ^ 4 - 1, 1⟩,
    ⟨0x6013, 1, 48, "PoisonedReads", .u64, 8, .ro, 0, 0, 0, false, false, 0, 256 ^ 8 - 1, 1⟩,
    ⟨0x6014, 1, 48, "WriteBacks", .u64, 8, .ro, 0, 0, 0, false, false, 0, 256 ^ 8 - 1, 1⟩,
    ⟨0x6015, 1, 48, "WriteBacksSuperseded", .u32, 4, .ro, 0, 0, 0, false, false, 0, 256 ^ 4 - 1, 1⟩,
    ⟨0x6016, 0, 0, "SramCorrected", .u64, 8, .ro, 0, 0, 0, false, false, 0, 256 ^ 8 - 1, 1⟩,
    ⟨0x6017, 0, 0, "SramUncorrectable", .u32, 4, .ro, 0, 0, 0, false, false, 0, 256 ^ 4 - 1, 1⟩,
    ⟨0x6018, 0, 0, "LastUncorrectable", .u64, 8, .ro, 0, 0, 0, false, false, 0, 256 ^ 8 - 1, 1⟩,
    ⟨0x6019, 0, 0, "LastUncorrectableAddress", .u64, 8, .ro, 0, 0, 0, false, false, 0, 256 ^ 8 - 1, 1⟩,
    ⟨0x6020, 0, 0, "FaultWindow", .u32, 4, .rws, 0x15180, 0, 2, false, false, 3600, 259200, 1⟩,
    ⟨0x6023, 0, 0, "WatchEntries", .u16, 2, .ro, 0, 0, 0, false, false, 0, 256 ^ 2 - 1, 1⟩,
    ⟨0x6024, 0, 0, "WatchEvictions", .u32, 4, .ro, 0, 0, 0, false, false, 0, 256 ^ 4 - 1, 1⟩,
    ⟨0x6025, 0, 0, "WatchSelect", .u16, 2, .rw, 0, 0, 1, false, false, 0, 511, 1⟩,
    ⟨0x6026, 0, 0, "WatchEntry", .blob, 32, .ro, 0, 0, 0, false, false, 0, 256 ^ 32 - 1, 1⟩,
    ⟨0x6027, 0, 0, "CorrectableThreshold", .u32, 4, .rw, 64, 0, 1, false, false, 1, 1000000, 1⟩,
    ⟨0x6028, 0, 0, "CorrectableInterval", .u32, 4, .rw, 3600, 0, 1, false, false, 1, 86400, 1⟩,
    ⟨0x6029, 0, 0, "LaneSuspectLimit", .u16, 2, .rw, 16, 0, 1, false, false, 4, 1024, 1⟩,
    ⟨0x602A, 0, 0, "LaneSuspects", .u32, 4, .ro, 0, 0, 0, false, false, 0, 256 ^ 4 - 1, 1⟩,
    ⟨0x602B, 0, 0, "BankFaultRows", .u8, 1, .rw, 8, 0, 1, false, false, 2, 64, 1⟩,
    ⟨0x602C, 0, 0, "BankFaults", .u16, 2, .ro, 0, 0, 0, false, false, 0, 256 ^ 2 - 1, 1⟩,
    ⟨0x6030, 0, 0, "RepairMode", .u8, 1, .rws, 0, 0, 2, false, false, 0, 1, 1⟩,
    ⟨0x6031, 0, 0, "RemapSelect", .u16, 2, .rw, 0, 0, 1, false, false, 0, 256 ^ 2 - 1, 1⟩,
    ⟨0x6032, 0, 0, "RemapTable", .blob, 24, .ro, 0, 0, 0, false, false, 0, 256 ^ 24 - 1, 1⟩,
    ⟨0x6033, 0, 0, "Remaps", .u32, 4, .ro, 0, 0, 0, false, false, 0, 256 ^ 4 - 1, 1⟩,
    ⟨0x6034, 0, 0, "RePoints", .u32, 4, .ro, 0, 0, 0, false, false, 0, 256 ^ 4 - 1, 1⟩,
    ⟨0x6035, 0, 0, "SparesFree", .u16, 2, .ro, 0x3000, 0, 0, false, false, 0, 256 ^ 2 - 1, 1⟩,
    ⟨0x6036, 0, 0, "SparesBad", .u16, 2, .ro, 0, 0, 0, false, false, 0, 256 ^ 2 - 1, 1⟩,
    ⟨0x6037, 0, 0, "RepairRecordsPending", .u8, 1, .ro, 0, 0, 0, false, false, 0, 256 ^ 1 - 1, 1⟩,
    ⟨0x6038, 0, 0, "MigrationsWaiting", .u8, 1, .ro, 0, 0, 0, false, false, 0, 256 ^ 1 - 1, 1⟩,
    ⟨0x6040, 0, 0, "RetiredRows", .u16, 2, .ro, 0, 0, 0, false, false, 0, 256 ^ 2 - 1, 1⟩ ]

/-- Table 10.6 of spec/10_data_protection_and_repair.md (continued). -/
def objs10_6a : List ObjDef :=
  [ ⟨0x6041, 0, 0, "RetireSelect", .u16, 2, .rw, 0, 0, 1, false, false, 0, 1023, 1⟩,
    ⟨0x6042, 0, 0, "RetireEntry", .u64, 8, .ro, 0, 0, 0, false, false, 0, 256 ^ 8 - 1, 1⟩,
    ⟨0x6043, 0, 0, "RetireListFull", .u32, 4, .ro, 0, 0, 0, false, false, 0, 256 ^ 4 - 1, 1⟩,
    ⟨0x6044, 0, 0, "RetireRow", .u64, 8, .cmd, 0, 0, 2, false, false, 0, 256 ^ 8 - 1, 1⟩,
    ⟨0x6050, 0, 0, "ErrorInject", .blob, 16, .cmd, 0, 0, 2, false, false, 0, 256 ^ 16 - 1, 1⟩,
    ⟨0x6051, 0, 0, "ErrorInjectResult", .u8, 1, .ro, 0, 0, 0, false, false, 0, 256 ^ 1 - 1, 1⟩,
    ⟨0x6060, 0, 0, "LastRepairEvent", .u64, 8, .ro, 0, 0, 0, false, false, 0, 256 ^ 8 - 1, 1⟩,
    ⟨0x6070, 1, 8, "BudgetEvents", .u32, 4, .ro, 0, 0, 0, true, false, 0, 256 ^ 4 - 1, 1⟩ ]

/-- Table 11.5 of spec/11_thermal_and_refresh.md. -/
def objs11_5 : List ObjDef :=
  [ ⟨0x7000, 0, 0, "ThermalState", .u8, 1, .ro, 0, 0, 0, false, false, 0, 256 ^ 1 - 1, 1⟩,
    ⟨0x7001, 1, 6, "LogicTemp", .i32, 4, .ro, 0, 0, 0, false, false, 0, 256 ^ 4 - 1, 1⟩,
    ⟨0x7002, 1, 24, "DramTemp", .i32, 4, .ro, 0, 0, 0, false, false, 0, 256 ^ 4 - 1, 1⟩,
    ⟨0x7003, 0, 0, "LogicMax", .i32, 4, .ro, 0, 0, 0, false, false, 0, 256 ^ 4 - 1, 1⟩,
    ⟨0x7004, 0, 0, "ColumnDramMax", .i32, 4, .ro, 0, 0, 0, false, false, 0, 256 ^ 4 - 1, 1⟩,
    ⟨0x7005, 0, 0, "HottestLayer", .u8, 1, .ro, 0, 0, 0, false, false, 0, 256 ^ 1 - 1, 1⟩,
    ⟨0x7006, 0, 0, "StackMax", .i32, 4, .ro, 0, 0, 0, true, false, 0, 256 ^ 4 - 1, 1⟩,
    ⟨0x7007, 0, 0, "DeviceLogicMax", .i32, 4, .ro, 0, 0, 0, true, false, 0, 256 ^ 4 - 1, 1⟩,
    ⟨0x7008, 0, 0, "HottestTile", .u8, 1, .ro, 0, 0, 0, true, false, 0, 256 ^ 1 - 1, 1⟩,
    ⟨0x7009, 0, 0, "SamplingPeriod", .u32, 4, .ro, 0xf4240, 0, 0, false, false, 0, 256 ^ 4 - 1, 1⟩,
    ⟨0x700A, 0, 0, "ThermalSamples", .u64, 8, .ro, 0, 0, 0, false, false, 0, 256 ^ 8 - 1, 1⟩,
    ⟨0x700B, 0, 0, "SensorLost", .u32, 4, .ro, 0, 0, 0, false, false, 0, 256 ^ 4 - 1, 1⟩,
    ⟨0x700C, 0, 0, "SensorLostEvents", .u32, 4, .ro, 0, 0, 0, false, false, 0, 256 ^ 4 - 1, 1⟩,
    ⟨0x7010, 0, 0, "RefreshBand", .u8, 1, .ro, 0, 0, 0, false, false, 0, 256 ^ 1 - 1, 1⟩,
    ⟨0x7011, 0, 0, "RecessMinBand", .u8, 1, .rws, 0, 0, 2, false, false, 0, 3, 1⟩,
    ⟨0x7012, 0, 0, "BandChanges", .u32, 4, .ro, 0, 0, 0, false, false, 0, 256 ^ 4 - 1, 1⟩,
    ⟨0x7013, 1, 4, "BandTime", .u64, 8, .ro, 0, 0, 0, false, false, 0, 256 ^ 8 - 1, 1⟩,
    ⟨0x7014, 1, 48, "RecessWindows", .u64, 8, .ro, 0, 0, 0, false, false, 0, 256 ^ 8 - 1, 1⟩,
    ⟨0x7015, 1, 48, "RecessLongest", .u32, 4, .ro, 0, 0, 0, false, false, 0, 256 ^ 4 - 1, 1⟩,
    ⟨0x7016, 1, 48, "RecessExtended", .u32, 4, .ro, 0, 0, 0, false, false, 0, 256 ^ 4 - 1, 1⟩,
    ⟨0x7020, 0, 0, "LogicThrottlePoint", .u8, 1, .rws, 100, 0, 2, false, false, 80, 108, 1⟩,
    ⟨0x7021, 0, 0, "DramThrottlePoint", .u8, 1, .rws, 97, 0, 2, false, false, 75, 103, 1⟩,
    ⟨0x7022, 0, 0, "ArrayThrottleFactor", .u16, 2, .ro, 1000, 0, 0, false, false, 0, 256 ^ 2 - 1, 1⟩,
    ⟨0x7023, 0, 0, "ChannelThrottleFactor", .u16, 2, .ro, 1000, 0, 0, false, false, 0, 256 ^ 2 - 1, 1⟩,
    ⟨0x7024, 0, 0, "EffectiveSpeed", .u16, 2, .ro, 0, 0, 0, false, false, 0, 256 ^ 2 - 1, 1⟩,
    ⟨0x7025, 0, 0, "ThermalThrottleTime", .u64, 8, .ro, 0, 0, 0, false, false, 0, 256 ^ 8 - 1, 1⟩,
    ⟨0x7026, 0, 0, "FloorHeldTime", .u64, 8, .ro, 0, 0, 0, false, false, 0, 256 ^ 8 - 1, 1⟩,
    ⟨0x7027, 0, 0, "RiseAdvance", .u8, 1, .rws, 5, 0, 2, false, false, 0, 15, 1⟩,
    ⟨0x7028, 0, 0, "RiseActive", .bool, 1, .ro, 0, 0, 0, false, false, 0, 1, 1⟩,
    ⟨0x7029, 0, 0, "RiseEvents", .u32, 4, .ro, 0, 0, 0, false, false, 0, 256 ^ 4 - 1, 1⟩,
    ⟨0x702A, 0, 0, "CeilingEvents", .u32, 4, .ro, 0, 0, 0, false, false, 0, 256 ^ 4 - 1, 1⟩,
    ⟨0x7030, 0, 0, "TripState", .u8, 1, .ro, 0, 0, 0, true, false, 0, 256 ^ 1 - 1, 1⟩,
    ⟨0x7031, 0, 0, "TripEvents", .u32, 4, .ro, 0, 0, 0, true, false, 0, 256 ^ 4 - 1, 1⟩,
    ⟨0x7032, 0, 0, "LastTrip", .u64, 8, .ro, 0, 0, 0, true, false, 0, 256 ^ 8 - 1, 1⟩,
    ⟨0x7033, 0, 0, "TripCoolStart", .time64, 8, .ro, 0, 0, 0, true, false, 0, 256 ^ 8 - 1, 1⟩,
    ⟨0x7034, 0, 0, "TripRelease", .bool, 1, .cmd, 0, 0, 2, true, false, 0, 1, 1⟩,
    ⟨0x7035, 0, 0, "TripTime", .u64, 8, .ro, 0, 0, 0, true, false, 0, 256 ^ 8 - 1, 1⟩,
    ⟨0x7040, 0, 0, "LastThermalEvent", .u64, 8, .ro, 0, 0, 0, false, false, 0, 256 ^ 8 - 1, 1⟩ ]

/-- Table 12.4 of spec/12_power.md. -/
def objs12_4 : List ObjDef :=
  [ ⟨0x7800, 0, 0, "PowerMode", .u8, 1, .rws, 0, 0, 2, true, false, 0, 1, 1⟩,
    ⟨0x7801, 0, 0, "VoltageStep", .u8, 1, .ro, 16, 0, 0, false, false, 0, 256 ^ 1 - 1, 1⟩,
    ⟨0x7802, 0, 0, "FixedStep", .u8, 1, .rws, 16, 0, 2, false, false, 0, 28, 1⟩,
    ⟨0x7803, 0, 0, "VoltageCeiling", .u8, 1, .ro, 28, 0, 0, false, false, 0, 256 ^ 1 - 1, 1⟩,
    ⟨0x7804, 0, 0, "FloorStep", .u8, 1, .ro, 0, 0, 0, false, false, 0, 256 ^ 1 - 1, 1⟩,
    ⟨0x7805, 0, 0, "FloorGuard", .u16, 2, .rws, 20, 0, 2, false, false, 0, 100, 1⟩,
    ⟨0x7806, 0, 0, "VoltageStepSettle", .u32, 4, .rws, 2000, 0, 2, true, false, 100, 100000, 10⟩,
    ⟨0x7807, 0, 0, "VoltageSteps", .u64, 8, .ro, 0, 0, 0, false, false, 0, 256 ^ 8 - 1, 1⟩,
    ⟨0x7808, 0, 0, "MaxStepsPerWindow", .u8, 1, .rw, 4, 0, 1, true, false, 1, 28, 1⟩,
    ⟨0x7820, 0, 0, "SpeedCeiling", .u16, 2, .ro, 0, 0, 0, false, false, 0, 256 ^ 2 - 1, 1⟩,
    ⟨0x7821, 0, 0, "SpeedCeilingTest", .u16, 2, .ro, 0, 0, 0, false, false, 0, 256 ^ 2 - 1, 1⟩,
    ⟨0x7822, 0, 0, "AgeingSamples", .u32, 4, .ro, 0, 0, 0, false, false, 0, 256 ^ 4 - 1, 1⟩,
    ⟨0x7823, 0, 0, "AgeingLoss", .u16, 2, .ro, 0, 0, 0, false, false, 0, 256 ^ 2 - 1, 1⟩,
    ⟨0x7830, 0, 0, "PowerCap", .u32, 4, .rw, 0x88b80, 0, 1, true, false, 50000, 560000, 1⟩,
    ⟨0x7831, 0, 0, "PeakLimit", .u32, 4, .ro, 0xf4240, 0, 0, true, false, 0, 256 ^ 4 - 1, 1⟩,
    ⟨0x7832, 0, 0, "CapState", .u8, 1, .ro, 0, 0, 0, true, false, 0, 256 ^ 1 - 1, 1⟩,
    ⟨0x7833, 0, 0, "CapShortfall", .u32, 4, .ro, 0, 0, 0, true, false, 0, 256 ^ 4 - 1, 1⟩,
    ⟨0x7834, 0, 255, "CapRank", .u8, 1, .rw, 0, 0, 1, true, false, 0, 7, 1⟩,
    ⟨0x7835, 0, 0, "ComputeFraction", .u16, 2, .ro, 1000, 0, 0, false, false, 0, 256 ^ 2 - 1, 1⟩,
    ⟨0x7836, 0, 0, "LinkFraction", .u16, 2, .ro, 1000, 0, 0, false, false, 0, 256 ^ 2 - 1, 1⟩,
    ⟨0x7837, 0, 0, "MemoryFraction", .u16, 2, .ro, 1000, 0, 0, false, false, 0, 256 ^ 2 - 1, 1⟩,
    ⟨0x7838, 0, 0, "PeakSlicesLimited", .u64, 8, .ro, 0, 0, 0, true, false, 0, 256 ^ 8 - 1, 1⟩,
    ⟨0x7839, 0, 0, "CapUnattainableEvents", .u32, 4, .ro, 0, 0, 0, true, false, 0, 256 ^ 4 - 1, 1⟩,
    ⟨0x783A, 0, 0, "PeakGuard", .u16, 2, .rws, 30, 0, 2, true, false, 0, 200, 1⟩,
    ⟨0x7840, 0, 0, "DevicePowerMeasured", .u32, 4, .ro, 0, 0, 0, true, false, 0, 256 ^ 4 - 1, 1⟩,
    ⟨0x7841, 0, 0, "DevicePowerEstimated", .u32, 4, .ro, 0, 0, 0, true, false, 0, 256 ^ 4 - 1, 1⟩,
    ⟨0x7842, 0, 0, "EstimatorState", .u8, 1, .ro, 0, 0, 0, true, false, 0, 256 ^ 1 - 1, 1⟩,
    ⟨0x7843, 0, 0, "EstimatorStaleEvents", .u32, 4, .ro, 0, 0, 0, true, false, 0, 256 ^ 4 - 1, 1⟩,
    ⟨0x7844, 0, 0, "DisagreeWindows", .u8, 1, .ro, 0, 0, 0, true, false, 0, 256 ^ 1 - 1, 1⟩,
    ⟨0x7845, 0, 0, "TilePowerEstimated", .u32, 4, .ro, 0, 0, 0, false, false, 0, 256 ^ 4 - 1, 1⟩,
    ⟨0x7846, 0, 0, "TilePowerMeasured", .u32, 4, .ro, 0, 0, 0, false, false, 0, 256 ^ 4 - 1, 1⟩,
    ⟨0x7847, 0, 0, "EstimatorGain", .u32, 4, .ro, 0xf4240, 0, 0, false, false, 0, 256 ^ 4 - 1, 1⟩,
    ⟨0x7850, 0, 0, "HoldState", .u8, 1, .ro, 0, 0, 0, false, false, 0, 256 ^ 1 - 1, 1⟩,
    ⟨0x7851, 0, 0, "HoldEvents", .u32, 4, .ro, 0, 0, 0, false, false, 0, 256 ^ 4 - 1, 1⟩,
    ⟨0x7852, 0, 0, "HoldTime", .u64, 8, .ro, 0, 0, 0, false, false, 0, 256 ^ 8 - 1, 1⟩,
    ⟨0x7853, 0, 0, "HoldLongest", .u32, 4, .ro, 0, 0, 0, false, false, 0, 256 ^ 4 - 1, 1⟩,
    ⟨0x7854, 0, 0, "LastSupplyEvent", .u64, 8, .ro, 0, 0, 0, true, false, 0, 256 ^ 8 - 1, 1⟩,
    ⟨0x7855, 0, 0, "SupplyResets", .u32, 4, .ro, 0, 0, 0, true, false, 0, 256 ^ 4 - 1, 1⟩,
    ⟨0x7856, 1, 66, "RailVoltage", .u16, 2, .ro, 0, 0, 0, true, false, 0, 256 ^ 2 - 1, 1⟩,
    ⟨0x7857, 1, 66, "RailCurrent", .u32, 4, .ro, 0, 0, 0, true, false, 0, 256 ^ 4 - 1, 1⟩ ]

/-- Table 12.4 of spec/12_power.md (continued). -/
def objs12_4a : List ObjDef :=
  [ ⟨0x7858, 0, 0, "RailTelemetryLost", .u128, 16, .ro, 0, 0, 0, true, false, 0, 256 ^ 16 - 1, 1⟩,
    ⟨0x7860, 0, 0, "DeviceEnergy", .u64, 8, .ro, 0, 0, 0, true, false, 0, 256 ^ 8 - 1, 1⟩,
    ⟨0x7861, 1, 8, "EnergyMarkControl", .u8, 1, .cmd, 0, 0, 1, true, false, 0, 256 ^ 1 - 1, 1⟩,
    ⟨0x7862, 1, 8, "EnergyMarkResult", .blob, 32, .ro, 0, 0, 0, true, false, 0, 256 ^ 32 - 1, 1⟩,
    ⟨0x7863, 0, 0, "AttributionMode", .bool, 1, .rws, 0, 0, 2, true, false, 0, 1, 1⟩,
    ⟨0x7864, 0, 255, "PartitionEnergy", .u64, 8, .ro, 0, 0, 0, true, false, 0, 256 ^ 8 - 1, 1⟩,
    ⟨0x7865, 1, 96, "QueueEnergy", .u64, 8, .ro, 0, 0, 0, false, false, 0, 256 ^ 8 - 1, 1⟩,
    ⟨0x7870, 0, 0, "HintsAccepted", .u32, 4, .ro, 0, 0, 0, false, false, 0, 256 ^ 4 - 1, 1⟩,
    ⟨0x7871, 0, 0, "HintsLate", .u32, 4, .ro, 0, 0, 0, false, false, 0, 256 ^ 4 - 1, 1⟩,
    ⟨0x7872, 0, 0, "HintReserve", .u32, 4, .ro, 0, 0, 0, false, false, 0, 256 ^ 4 - 1, 1⟩,
    ⟨0x7873, 0, 0, "HintsDropped", .u32, 4, .ro, 0, 0, 0, false, false, 0, 256 ^ 4 - 1, 1⟩,
    ⟨0x7880, 0, 0, "DevicePace", .u64, 8, .ro, 0, 0, 0, true, false, 0, 256 ^ 8 - 1, 1⟩ ]

/-- Table 13.11 of spec/13_object_dictionary.md. -/
def objs13_11 : List ObjDef :=
  [ ⟨0x1000, 0, 0, "VendorName", .str, 6, .ro, 0x747375726150, 0, 0, true, true, 0, 256 ^ 6 - 1, 1⟩,
    ⟨0x1001, 0, 0, "ProductName", .str, 11, .ro, 0x3836374d20697265726153, 0, 0, true, true, 0, 256 ^ 11 - 1, 1⟩,
    ⟨0x1002, 0, 0, "FamilyParameters", .u32, 4, .ro, 0x4021840, 0, 0, true, true, 0, 256 ^ 4 - 1, 1⟩,
    ⟨0x1003, 0, 0, "DeviceSerial", .u64, 8, .ro, 0, 0, 0, true, true, 0, 256 ^ 8 - 1, 1⟩,
    ⟨0x1004, 0, 0, "SiliconStep", .u16, 2, .ro, 0, 0, 0, true, true, 0, 256 ^ 2 - 1, 1⟩,
    ⟨0x1005, 0, 0, "UnitsPresent", .u64, 8, .ro, 0, 0, 0, true, true, 0, 256 ^ 8 - 1, 1⟩,
    ⟨0x1006, 0, 0, "DeviceState", .u8, 1, .ro, 0, 0, 0, true, true, 0, 256 ^ 1 - 1, 1⟩,
    ⟨0x1007, 0, 0, "BootRomVersion", .u32, 4, .ro, 0, 0, 0, true, true, 0, 256 ^ 4 - 1, 1⟩,
    ⟨0x1008, 0, 0, "FirmwareVersion", .u32, 4, .ro, 0, 0, 0, true, true, 0, 256 ^ 4 - 1, 1⟩,
    ⟨0x1009, 0, 0, "DictionaryVersion", .u16, 2, .ro, 256, 0, 0, true, true, 0, 256 ^ 2 - 1, 1⟩,
    ⟨0x100A, 0, 0, "TileIdentity", .u16, 2, .ro, 0, 0, 0, false, true, 0, 256 ^ 2 - 1, 1⟩,
    ⟨0x1100, 0, 0, "NodeAddress", .u8, 1, .ro, 127, 0, 0, true, true, 0, 256 ^ 1 - 1, 1⟩,
    ⟨0x1102, 0, 0, "CoordinatorNode", .u8, 1, .rws, 1, 0, 2, true, false, 1, 126, 1⟩,
    ⟨0x1103, 0, 0, "NodeConflicts", .u32, 4, .ro, 0, 0, 0, true, true, 0, 256 ^ 4 - 1, 1⟩,
    ⟨0x1106, 0, 0, "FieldEventMask", .u32, 4, .rw, 2228, 0, 1, true, false, 0, 256 ^ 4 - 1, 1⟩,
    ⟨0x1107, 0, 0, "EventPriority", .u8, 1, .rw, 2, 0, 1, true, false, 0, 7, 1⟩,
    ⟨0x1108, 0, 0, "EventMinInterval", .u32, 4, .rw, 100, 0, 1, true, false, 1, 60000, 1⟩,
    ⟨0x1109, 0, 0, "EventsMerged", .u32, 4, .ro, 0, 0, 0, true, true, 0, 256 ^ 4 - 1, 1⟩,
    ⟨0x1110, 0, 0, "CanNominalRate", .u16, 2, .rws, 1000, 0, 2, true, false, 0, 256 ^ 2 - 1, 1⟩,
    ⟨0x1111, 0, 0, "CanDataRate", .u16, 2, .rws, 5000, 0, 2, true, false, 0, 256 ^ 2 - 1, 1⟩,
    ⟨0x1112, 0, 0, "CanNominalSample", .u16, 2, .rws, 800, 0, 2, true, false, 500, 900, 1⟩,
    ⟨0x1113, 0, 0, "CanDataSample", .u16, 2, .rws, 750, 0, 2, true, false, 500, 900, 1⟩,
    ⟨0x1114, 0, 0, "CanTdcOffset", .u8, 1, .rws, 0, 0, 2, true, false, 0, 256 ^ 1 - 1, 1⟩,
    ⟨0x1115, 0, 0, "CanErrorCounters", .u32, 4, .ro, 0, 0, 0, true, true, 0, 256 ^ 4 - 1, 1⟩,
    ⟨0x1116, 0, 0, "BusOffEvents", .u32, 4, .ro, 0, 0, 0, true, true, 0, 256 ^ 4 - 1, 1⟩,
    ⟨0x1117, 0, 0, "FramesReceived", .u64, 8, .ro, 0, 0, 0, true, true, 0, 256 ^ 8 - 1, 1⟩,
    ⟨0x1118, 0, 0, "FramesSent", .u64, 8, .ro, 0, 0, 0, true, true, 0, 256 ^ 8 - 1, 1⟩,
    ⟨0x1120, 0, 0, "HeartbeatPeriod", .u32, 4, .rw, 1000, 0, 1, true, false, 0, 256 ^ 4 - 1, 1⟩,
    ⟨0x1121, 0, 0, "RightsLease", .u32, 4, .rw, 600, 0, 1, true, false, 10, 86400, 1⟩,
    ⟨0x1122, 1, 2, "RightsKey", .blob, 16, .wo, 0, 0, 2, true, false, 0, 256 ^ 16 - 1, 1⟩,
    ⟨0x1122, 3, 3, "RightsKey", .blob, 16, .wo, 0, 0, 3, true, false, 0, 256 ^ 16 - 1, 1⟩,
    ⟨0x1123, 0, 0, "UnlockFailures", .u32, 4, .ro, 0, 0, 0, true, true, 0, 256 ^ 4 - 1, 1⟩,
    ⟨0x1124, 0, 0, "DuplicateRequests", .u32, 4, .ro, 0, 0, 0, true, true, 0, 256 ^ 4 - 1, 1⟩,
    ⟨0x1125, 0, 0, "RightsHolders", .u16, 2, .ro, 0, 0, 0, true, true, 0, 256 ^ 2 - 1, 1⟩,
    ⟨0x1130, 0, 0, "WindowRightsLimit", .u8, 1, .rws, 1, 0, 2, false, false, 0, 3, 1⟩,
    ⟨0x1131, 0, 0, "WindowPartition", .u8, 1, .rws, 0, 0, 2, false, false, 0, 256 ^ 1 - 1, 1⟩,
    ⟨0x1132, 0, 0, "WindowTransactions", .u64, 8, .ro, 0, 0, 0, false, true, 0, 256 ^ 8 - 1, 1⟩,
    ⟨0x1134, 0, 0, "WindowBusyWrites", .u32, 4, .ro, 0, 0, 0, false, true, 0, 256 ^ 4 - 1, 1⟩,
    ⟨0x1140, 0, 0, "RollCallState", .u8, 1, .ro, 0, 0, 0, true, true, 0, 256 ^ 1 - 1, 1⟩,
    ⟨0x1141, 0, 0, "RollCallCount", .u32, 4, .ro, 0, 0, 0, true, true, 0, 256 ^ 4 - 1, 1⟩ ]

/-- Table 14.8 of spec/14_mailboxes_firmware_copybook.md. -/
def objs14_8 : List ObjDef :=
  [ ⟨0xA000, 0, 0, "MailboxAckTimeout", .u32, 4, .rw, 100, 0, 1, false, false, 1, 1000, 1⟩,
    ⟨0xA010, 1, 8, "MailboxClear", .bool, 1, .cmd, 0, 0, 1, false, false, 0, 1, 1⟩,
    ⟨0xA011, 1, 8, "MailboxPosted", .u64, 8, .ro, 0, 0, 0, false, false, 0, 256 ^ 8 - 1, 1⟩,
    ⟨0xA012, 1, 8, "MailboxTimeouts", .u32, 4, .ro, 0, 0, 0, false, false, 0, 256 ^ 4 - 1, 1⟩,
    ⟨0xA013, 1, 8, "MailboxWithdrawn", .u32, 4, .ro, 0, 0, 0, false, false, 0, 256 ^ 4 - 1, 1⟩,
    ⟨0xA014, 1, 8, "StaleAcks", .u32, 4, .ro, 0, 0, 0, false, false, 0, 256 ^ 4 - 1, 1⟩,
    ⟨0xA015, 0, 0, "HostEpoch", .u8, 1, .ro, 0, 0, 0, false, false, 0, 256 ^ 1 - 1, 1⟩,
    ⟨0xA016, 0, 0, "SequencerEpoch", .u8, 1, .ro, 0, 0, 0, false, false, 0, 256 ^ 1 - 1, 1⟩,
    ⟨0xA017, 0, 0, "ManagementEpoch", .u8, 1, .ro, 0, 0, 0, true, false, 0, 256 ^ 1 - 1, 1⟩,
    ⟨0xA020, 0, 0, "HostDoorbellStatus", .u32, 4, .ro, 0, 0, 0, false, false, 0, 256 ^ 4 - 1, 1⟩,
    ⟨0xA100, 0, 0, "FirmwareExpectImage", .u32, 4, .rw, 0, 0, 2, true, false, 0, 256 ^ 4 - 1, 1⟩,
    ⟨0xA101, 0, 0, "FirmwareBitmap", .blob, 32, .ro, 0, 0, 0, true, false, 0, 256 ^ 32 - 1, 1⟩,
    ⟨0xA102, 0, 0, "FirmwareSegmentsHeld", .u16, 2, .ro, 0, 0, 0, true, false, 0, 256 ^ 2 - 1, 1⟩,
    ⟨0xA103, 0, 0, "FirmwareSegmentPiece", .blob, 528, .cmd, 0, 0, 2, true, false, 0, 256 ^ 528 - 1, 1⟩,
    ⟨0xA104, 0, 0, "FirmwareActivate", .blob, 16, .cmd, 0, 0, 2, true, false, 0, 256 ^ 16 - 1, 1⟩,
    ⟨0xA105, 0, 0, "FirmwareActivateResult", .u64, 8, .ro, 0, 0, 0, true, false, 0, 256 ^ 8 - 1, 1⟩,
    ⟨0xA106, 0, 0, "FirmwareState", .u8, 1, .ro, 0, 0, 0, true, false, 0, 256 ^ 1 - 1, 1⟩,
    ⟨0xA107, 0, 0, "FlashImageState", .u8, 1, .ro, 0, 0, 0, true, false, 0, 256 ^ 1 - 1, 1⟩,
    ⟨0xA108, 0, 0, "SegmentRejects", .u32, 4, .ro, 0, 0, 0, true, false, 0, 256 ^ 4 - 1, 1⟩,
    ⟨0xA10A, 0, 0, "ManagementTraps", .u32, 4, .ro, 0, 0, 0, true, false, 0, 256 ^ 4 - 1, 1⟩,
    ⟨0xA10B, 0, 0, "SequencerTraps", .u32, 4, .ro, 0, 0, 0, false, false, 0, 256 ^ 4 - 1, 1⟩,
    ⟨0xA200, 0, 0, "CopybookState", .u8, 1, .ro, 0, 0, 0, true, false, 0, 256 ^ 1 - 1, 1⟩,
    ⟨0xA201, 0, 0, "CopybookFill", .u32, 4, .ro, 0, 0, 0, true, false, 0, 256 ^ 4 - 1, 1⟩,
    ⟨0xA202, 0, 0, "CopybookGeneration", .u32, 4, .ro, 0, 0, 0, true, false, 0, 256 ^ 4 - 1, 1⟩,
    ⟨0xA203, 0, 0, "CopybookPending", .u16, 2, .ro, 0, 0, 0, true, false, 0, 256 ^ 2 - 1, 1⟩,
    ⟨0xA204, 0, 0, "CopybookCompactions", .u32, 4, .ro, 0, 0, 0, true, false, 0, 256 ^ 4 - 1, 1⟩,
    ⟨0xA205, 0, 0, "CopybookTornRecords", .u32, 4, .ro, 0, 0, 0, true, false, 0, 256 ^ 4 - 1, 1⟩,
    ⟨0xA206, 0, 0, "FlashErrors", .u32, 4, .ro, 0, 0, 0, true, false, 0, 256 ^ 4 - 1, 1⟩,
    ⟨0xA207, 0, 0, "FlashCapacity", .u32, 4, .ro, 0, 0, 0, true, false, 0, 256 ^ 4 - 1, 1⟩,
    ⟨0xA208, 0, 0, "CopybookCompact", .bool, 1, .cmd, 0, 0, 2, true, false, 0, 1, 1⟩,
    ⟨0xA209, 0, 0, "FactoryRecordsValid", .bool, 1, .ro, 0, 0, 0, true, false, 0, 1, 1⟩ ]

/-- Table 15.6 of spec/15_bringup_reset_calibration.md. -/
def objs15_6 : List ObjDef :=
  [ ⟨0x9000, 0, 0, "CalApplyMode", .u8, 1, .rws, 0, 0, 2, false, false, 0, 1, 1⟩,
    ⟨0x9001, 0, 0, "CalInterval", .u32, 4, .rw, 1000, 0, 1, false, false, 10, 60000, 1⟩,
    ⟨0x9002, 0, 0, "CalDriftTrigger", .u8, 1, .rw, 4, 0, 1, false, false, 1, 20, 1⟩,
    ⟨0x9004, 0, 0, "CalRequest", .u64, 8, .cmd, 0, 0, 1, false, false, 0, 256 ^ 8 - 1, 1⟩,
    ⟨0x9005, 0, 0, "CalEnable", .bool, 1, .rws, 1, 0, 2, false, false, 0, 1, 1⟩,
    ⟨0x9010, 1, 48, "CalTrims", .blob, 24, .ro, 0, 0, 0, false, false, 0, 256 ^ 24 - 1, 1⟩,
    ⟨0x9011, 1, 48, "CalState", .u8, 1, .ro, 0, 0, 0, false, false, 0, 256 ^ 1 - 1, 1⟩,
    ⟨0x9012, 1, 48, "CalCount", .u32, 4, .ro, 0, 0, 0, false, false, 0, 256 ^ 4 - 1, 1⟩,
    ⟨0x9013, 1, 48, "CalLastTime", .time64, 8, .ro, 0, 0, 0, false, false, 0, 256 ^ 8 - 1, 1⟩,
    ⟨0x9014, 1, 48, "CalThirdRuns", .u32, 4, .ro, 0, 0, 0, false, false, 0, 256 ^ 4 - 1, 1⟩,
    ⟨0x9015, 1, 48, "CalSuspectCount", .u32, 4, .ro, 0, 0, 0, false, false, 0, 256 ^ 4 - 1, 1⟩,
    ⟨0x9016, 1, 48, "CalLastRun", .blob, 24, .ro, 0, 0, 0, false, false, 0, 256 ^ 24 - 1, 1⟩,
    ⟨0x9017, 0, 0, "CalSuspectChannels", .u64, 8, .ro, 0, 0, 0, false, false, 0, 256 ^ 8 - 1, 1⟩,
    ⟨0x9020, 1, 30, "SensorOffset", .i32, 4, .ro, 0, 0, 0, false, false, 0, 256 ^ 4 - 1, 1⟩,
    ⟨0x9030, 0, 0, "EstimatorRecalibrate", .bool, 1, .cmd, 0, 0, 1, true, false, 0, 1, 1⟩,
    ⟨0x9031, 0, 0, "EstimatorFitWindows", .u16, 2, .rw, 256, 0, 1, true, false, 64, 4096, 1⟩,
    ⟨0x9032, 0, 0, "LastEstimatorFit", .u64, 8, .ro, 0, 0, 0, true, false, 0, 256 ^ 8 - 1, 1⟩ ]

/-- Table 15.7 of spec/15_bringup_reset_calibration.md. -/
def objs15_7 : List ObjDef :=
  [ ⟨0x9800, 0, 0, "BringupPhase", .u8, 1, .ro, 1, 0, 0, true, true, 0, 256 ^ 1 - 1, 1⟩,
    ⟨0x9801, 0, 0, "BringupPath", .u8, 1, .ro, 0, 0, 0, true, true, 0, 256 ^ 1 - 1, 1⟩,
    ⟨0x9802, 0, 0, "BringupTime", .u64, 8, .ro, 0, 0, 0, true, true, 0, 256 ^ 8 - 1, 1⟩,
    ⟨0x9803, 1, 8, "BringupPhaseTime", .u32, 4, .ro, 0, 0, 0, true, false, 0, 256 ^ 4 - 1, 1⟩,
    ⟨0x9804, 0, 0, "WarmTolerance", .u8, 1, .rws, 10, 0, 2, false, false, 2, 20, 1⟩,
    ⟨0x9810, 1, 48, "ChannelBringupPath", .u8, 1, .ro, 0, 0, 0, false, false, 0, 256 ^ 1 - 1, 1⟩,
    ⟨0x9811, 1, 48, "PrbsBits", .u64, 8, .ro, 0, 0, 0, false, false, 0, 256 ^ 8 - 1, 1⟩,
    ⟨0x9812, 1, 48, "PrbsErrors", .u32, 4, .ro, 0, 0, 0, false, false, 0, 256 ^ 4 - 1, 1⟩,
    ⟨0x9813, 1, 48, "PrbsRestarts", .u8, 1, .ro, 0, 0, 0, false, false, 0, 256 ^ 1 - 1, 1⟩,
    ⟨0x9814, 1, 48, "TrainingTime", .u32, 4, .ro, 0, 0, 0, false, false, 0, 256 ^ 4 - 1, 1⟩,
    ⟨0x9820, 0, 0, "DeviceWarmReset", .bool, 1, .cmd, 0, 0, 2, true, true, 0, 1, 1⟩,
    ⟨0x9821, 0, 0, "PartitionReset", .u8, 1, .cmd, 0, 0, 1, true, false, 0, 256 ^ 1 - 1, 1⟩,
    ⟨0x9822, 0, 0, "PartitionResetState", .u8, 1, .ro, 0, 0, 0, true, false, 0, 256 ^ 1 - 1, 1⟩,
    ⟨0x9823, 0, 0, "TileReset", .u8, 1, .cmd, 0, 0, 2, false, true, 0, 256 ^ 1 - 1, 1⟩,
    ⟨0x9824, 0, 0, "EngineReset", .u8, 1, .cmd, 0, 0, 1, false, false, 0, 256 ^ 1 - 1, 1⟩,
    ⟨0x9825, 0, 0, "PortReset", .u8, 1, .cmd, 0, 0, 1, false, false, 0, 256 ^ 1 - 1, 1⟩,
    ⟨0x9826, 0, 0, "ManagementReset", .bool, 1, .cmd, 0, 0, 2, true, true, 0, 1, 1⟩,
    ⟨0x9827, 0, 0, "ResetCause", .u8, 1, .ro, 1, 0, 0, false, true, 0, 256 ^ 1 - 1, 1⟩,
    ⟨0x9828, 1, 8, "ResetCounts", .u32, 4, .ro, 0, 0, 0, false, true, 0, 256 ^ 4 - 1, 1⟩,
    ⟨0x9829, 0, 0, "ResetInProgress", .u8, 1, .ro, 0, 0, 0, false, true, 0, 256 ^ 1 - 1, 1⟩,
    ⟨0x982A, 0, 0, "LastResetTime", .time64, 8, .ro, 0, 0, 0, false, true, 0, 256 ^ 8 - 1, 1⟩ ]

/-- Table 16.7 of spec/16_counters_and_trouble_log.md. -/
def objs16_7 : List ObjDef :=
  [ ⟨0x8000, 0, 0, "CounterFixed", .u64, 8, .rw, 0, 0, 1, false, false, 0, 256 ^ 8 - 1, 1⟩,
    ⟨0x8001, 1, 8, "CounterSelect", .u64, 8, .rw, 0, 0, 1, false, false, 0, 256 ^ 8 - 1, 1⟩,
    ⟨0x8002, 1, 8, "CounterValue", .u64, 8, .rw, 0, 0, 1, false, false, 0, 256 ^ 8 - 1, 1⟩,
    ⟨0x8003, 0, 0, "CounterOverflow", .u8, 1, .ro, 0, 0, 0, false, false, 0, 256 ^ 1 - 1, 1⟩,
    ⟨0x8004, 0, 0, "CounterOverflowBell", .u8, 1, .rw, 0, 0, 1, false, false, 0, 256 ^ 1 - 1, 1⟩,
    ⟨0x8010, 1, 4, "DeviceCounterSelect", .u128, 16, .rw, 0, 0, 1, true, false, 0, 256 ^ 16 - 1, 1⟩,
    ⟨0x8011, 1, 4, "DeviceCounterValue", .u64, 8, .rw, 0, 0, 1, true, false, 0, 256 ^ 8 - 1, 1⟩,
    ⟨0x8012, 0, 0, "DeviceCounterOverflow", .u8, 1, .ro, 0, 0, 0, true, false, 0, 256 ^ 1 - 1, 1⟩,
    ⟨0x8020, 0, 0, "BandwidthWindow", .u32, 4, .rw, 0xf4240, 0, 1, false, false, 1000, 1000000000, 10⟩,
    ⟨0x8022, 1, 5, "PortBandwidthIn", .u32, 4, .ro, 0, 0, 0, false, false, 0, 256 ^ 4 - 1, 1⟩,
    ⟨0x8023, 1, 5, "PortBandwidthOut", .u32, 4, .ro, 0, 0, 0, false, false, 0, 256 ^ 4 - 1, 1⟩,
    ⟨0x8024, 1, 5, "PortBandwidthPeak", .u32, 4, .ro, 0, 0, 0, false, false, 0, 256 ^ 4 - 1, 1⟩,
    ⟨0x8025, 1, 5, "PortBytesTotal", .u64, 8, .ro, 0, 0, 0, false, false, 0, 256 ^ 8 - 1, 1⟩,
    ⟨0x8030, 0, 0, "PreciseSampleControl", .u64, 8, .rw, 0x4000000ff008400, 0, 1, false, false, 0, 256 ^ 8 - 1, 1⟩,
    ⟨0x8031, 0, 0, "PreciseSampleCount", .u32, 4, .ro, 0, 0, 0, false, false, 0, 256 ^ 4 - 1, 1⟩,
    ⟨0x8032, 0, 0, "PreciseSampleSelect", .u16, 2, .rw, 0, 0, 1, false, false, 0, 4095, 1⟩,
    ⟨0x8033, 0, 0, "PreciseSampleRecord", .blob, 32, .ro, 0, 0, 0, false, false, 0, 256 ^ 32 - 1, 1⟩,
    ⟨0x8034, 0, 0, "PreciseSampleBlock", .blob, 992, .ro, 0, 0, 0, false, false, 0, 256 ^ 992 - 1, 1⟩,
    ⟨0x8035, 0, 0, "PreciseEligible", .u64, 8, .ro, 0, 0, 0, false, false, 0, 256 ^ 8 - 1, 1⟩,
    ⟨0x8040, 0, 0, "ReportCard", .u8, 1, .cmd, 0, 0, 1, true, true, 1, 4, 1⟩,
    ⟨0x8041, 0, 0, "ReportCardSeq", .u32, 4, .ro, 0, 0, 0, true, true, 0, 256 ^ 4 - 1, 1⟩,
    ⟨0x8042, 0, 0, "ReportCardStamp", .time64, 8, .ro, 0, 0, 0, false, false, 0, 256 ^ 8 - 1, 1⟩,
    ⟨0x8043, 0, 0, "ReportCardFrozen", .bool, 1, .ro, 0, 0, 0, true, true, 0, 1, 1⟩,
    ⟨0x8044, 0, 0, "ReportCardPinAction", .u8, 1, .rw, 1, 0, 1, true, false, 0, 2, 1⟩,
    ⟨0x8045, 0, 0, "ShadowFixed", .u64, 8, .ro, 0, 0, 0, false, false, 0, 256 ^ 8 - 1, 1⟩,
    ⟨0x8046, 1, 8, "ShadowCounter", .u64, 8, .ro, 0, 0, 0, false, false, 0, 256 ^ 8 - 1, 1⟩,
    ⟨0x8047, 1, 4, "ShadowDeviceCounter", .u64, 8, .ro, 0, 0, 0, true, false, 0, 256 ^ 8 - 1, 1⟩,
    ⟨0x8048, 1, 5, "ShadowPortBytes", .u64, 8, .ro, 0, 0, 0, false, false, 0, 256 ^ 8 - 1, 1⟩,
    ⟨0x8050, 0, 0, "TroubleLogHead", .u32, 4, .ro, 0, 0, 0, false, true, 0, 256 ^ 4 - 1, 1⟩,
    ⟨0x8051, 0, 0, "TroubleLogConsumed", .u32, 4, .rw, 0, 0, 0, false, true, 0, 256 ^ 4 - 1, 1⟩,
    ⟨0x8052, 0, 0, "TroubleLogLost", .u32, 4, .ro, 0, 0, 0, false, true, 0, 256 ^ 4 - 1, 1⟩,
    ⟨0x8053, 0, 0, "TroubleLogSelect", .u32, 4, .rw, 0, 0, 0, false, true, 0, 256 ^ 4 - 1, 1⟩,
    ⟨0x8054, 0, 0, "TroubleLogEntry", .blob, 32, .ro, 0, 0, 0, false, true, 0, 256 ^ 32 - 1, 1⟩,
    ⟨0x8055, 0, 0, "TroubleLogBlock", .blob, 992, .ro, 0, 0, 0, false, true, 0, 256 ^ 992 - 1, 1⟩,
    ⟨0x8056, 0, 0, "TroubleLogWrite", .blob, 16, .cmd, 0, 0, 1, false, false, 0, 256 ^ 16 - 1, 1⟩,
    ⟨0x8057, 0, 0, "TroubleLogDropped", .u32, 4, .ro, 0, 0, 0, false, true, 0, 256 ^ 4 - 1, 1⟩,
    ⟨0x8058, 0, 0, "TroubleLogBell", .u8, 1, .rw, 0, 0, 1, false, false, 0, 256 ^ 1 - 1, 1⟩,
    ⟨0x8060, 0, 0, "DeviceLogHead", .u32, 4, .ro, 0, 0, 0, true, true, 0, 256 ^ 4 - 1, 1⟩,
    ⟨0x8061, 0, 0, "DeviceLogConsumed", .u32, 4, .rw, 0, 0, 0, true, true, 0, 256 ^ 4 - 1, 1⟩,
    ⟨0x8062, 0, 0, "DeviceLogLost", .u32, 4, .ro, 0, 0, 0, true, true, 0, 256 ^ 4 - 1, 1⟩ ]

/-- Table 16.7 of spec/16_counters_and_trouble_log.md (continued). -/
def objs16_7a : List ObjDef :=
  [ ⟨0x8063, 0, 0, "DeviceLogSelect", .u32, 4, .rw, 0, 0, 0, true, true, 0, 256 ^ 4 - 1, 1⟩,
    ⟨0x8064, 0, 0, "DeviceLogEntry", .blob, 32, .ro, 0, 0, 0, true, true, 0, 256 ^ 32 - 1, 1⟩,
    ⟨0x8065, 0, 0, "DeviceLogBlock", .blob, 992, .ro, 0, 0, 0, true, true, 0, 256 ^ 992 - 1, 1⟩,
    ⟨0x8066, 0, 0, "DeviceLogWrite", .blob, 16, .cmd, 0, 0, 1, true, true, 0, 256 ^ 16 - 1, 1⟩,
    ⟨0x8067, 0, 0, "DeviceLogDropped", .u32, 4, .ro, 0, 0, 0, true, true, 0, 256 ^ 4 - 1, 1⟩,
    ⟨0x8068, 0, 0, "DeviceLogBell", .u8, 1, .rw, 0, 0, 1, true, true, 0, 256 ^ 1 - 1, 1⟩ ]

/-- Table 17.8 of spec/17_ports_modes_integration.md. -/
def objs17_8 : List ObjDef :=
  [ ⟨0xB000, 1, 4, "PortGeneration", .u8, 1, .rws, 3, 0, 2, false, false, 1, 3, 1⟩,
    ⟨0xB001, 1, 4, "PortState", .u8, 1, .ro, 0, 0, 0, false, false, 0, 256 ^ 1 - 1, 1⟩,
    ⟨0xB002, 1, 4, "PortClockRate", .u32, 4, .ro, 0, 0, 0, false, false, 0, 256 ^ 4 - 1, 1⟩,
    ⟨0xB003, 0, 0, "ModeSummary", .u32, 4, .ro, 0, 0, 0, false, false, 0, 256 ^ 4 - 1, 1⟩,
    ⟨0xB004, 1, 4, "ClockStops", .u32, 4, .ro, 0, 0, 0, false, false, 0, 256 ^ 4 - 1, 1⟩,
    ⟨0xB005, 0, 0, "ConfigPortGeneration", .u8, 1, .ro, 3, 0, 0, false, false, 0, 256 ^ 1 - 1, 1⟩,
    ⟨0xB020, 0, 0, "VidCommands", .u64, 8, .ro, 0, 0, 0, true, false, 0, 256 ^ 8 - 1, 1⟩,
    ⟨0xB021, 0, 0, "VidReports", .u64, 8, .ro, 0, 0, 0, true, false, 0, 256 ^ 8 - 1, 1⟩,
    ⟨0xB022, 0, 0, "VidOutstanding", .u8, 1, .ro, 0, 0, 0, true, false, 0, 256 ^ 1 - 1, 1⟩,
    ⟨0xB030, 0, 0, "TestAccessState", .u64, 8, .ro, 0, 0, 0, true, false, 0, 256 ^ 8 - 1, 1⟩,
    ⟨0xB031, 0, 0, "StackTestState", .u8, 1, .ro, 0, 0, 0, true, false, 0, 256 ^ 1 - 1, 1⟩ ]

/-- Every row of the dictionary, chunk by chunk with the span of indices each chunk covers. -/
def objChunks : List (Nat × Nat × List ObjDef) :=
  [ (0x2010, 0xB010, objs1_7),
    (0x3800, 0x3842, objs2_10),
    (0x2100, 0x2121, objs3_3),
    (0x2012, 0x2218, objs4_7),
    (0x3000, 0x3206, objs5_4),
    (0x3207, 0x3304, objs5_4a),
    (0x4000, 0x4102, objs6_13),
    (0x4200, 0x4205, objs7_8),
    (0x4300, 0x4341, objs8_18),
    (0x5000, 0x503F, objs9_11),
    (0x6000, 0x6040, objs10_6),
    (0x6041, 0x6070, objs10_6a),
    (0x7000, 0x7040, objs11_5),
    (0x7800, 0x7857, objs12_4),
    (0x7858, 0x7880, objs12_4a),
    (0x1000, 0x1141, objs13_11),
    (0xA000, 0xA209, objs14_8),
    (0x9000, 0x9032, objs15_6),
    (0x9800, 0x982A, objs15_7),
    (0x8000, 0x8062, objs16_7),
    (0x8063, 0x8068, objs16_7a),
    (0xB000, 0xB031, objs17_8) ]

/-- The row in `l` that holds `index`.`sub`. -/
def findIn (index sub : Nat) : List ObjDef → Option ObjDef
  | [] => none
  | d :: l => if d.index == index && Nat.ble d.lo sub && Nat.ble sub d.hi then some d else findIn index sub l

/-- The first chunk that holds `index`.`sub`. -/
def findChunk (index sub : Nat) : List (Nat × Nat × List ObjDef) → Option ObjDef
  | [] => none
  | (a, b, l) :: cs =>
    if Nat.ble a index && Nat.ble index b then
      match findIn index sub l with
      | some d => some d
      | none => findChunk index sub cs
    else findChunk index sub cs

/-- R331: the dictionary row of an index and subindex, none where no chapter lists it. -/
def objDef (index sub : Nat) : Option ObjDef := findChunk index sub objChunks

/-- The dictionary row of an object key (index * 256 + subindex). -/
def keyDef (k : Nat) : Option ObjDef := objDef (k / 256) (k % 256)

/-- R326: the default of an object key; 0 where there is no such object. -/
def objDefault (k : Nat) : Nat :=
  match keyDef k with
  | some d => d.dflt + (k % 256 - d.lo) * d.step
  | none => 0

/-- The width of an object in bits; 64 where there is no such object. -/
def objBits (k : Nat) : Nat :=
  match keyDef k with
  | some d => 8 * d.len
  | none => 64

/-! ## One name per object: the key of its lowest subindex of the form `.00`, `.cc` (channel 0), and so on. -/

namespace Obj

/-- 2010.00 -/ abbrev guaranteeFloor : Nat := 0x201000
/-- 2011.00 -/ abbrev meshHopCost : Nat := 0x201100
/-- 7810.01 -/ abbrev speedIndex : Nat := 0x781001
/-- 7810.02 -/ abbrev logicSpeed : Nat := 0x781002
/-- 7810.03 -/ abbrev stackSpeed : Nat := 0x781003
/-- 7810.04 -/ abbrev speedLowWater : Nat := 0x781004
/-- 7810.05 -/ abbrev speedLowWaterClear : Nat := 0x781005
/-- 7810.06 -/ abbrev pacerReferenceValid : Nat := 0x781006
/-- B010.01 -/ abbrev timeBaseNow : Nat := 0xB01001
/-- B010.02 -/ abbrev timeBaseSet : Nat := 0xB01002
/-- B010.03 -/ abbrev referenceState : Nat := 0xB01003
/-- B010.04 -/ abbrev holdoverEvents : Nat := 0xB01004
/-- B010.05 -/ abbrev holdoverLength : Nat := 0xB01005
/-- 3800.00 -/ abbrev stackInterface : Nat := 0x380000
/-- 3801.00 -/ abbrev layerCount : Nat := 0x380100
/-- 3802.01 to .18 -/ abbrev layerIdentityCopy : Nat := 0x380201
/-- 3810.00 -/ abbrev tileStackState : Nat := 0x381000
/-- 3820.01 to .30 -/ abbrev channelState : Nat := 0x382001
/-- 3821.01 to .30 -/ abbrev channelDisable : Nat := 0x382101
/-- 3822.01 to .30 -/ abbrev laneSteer : Nat := 0x382201
/-- 3823.01 to .30 -/ abbrev inBankCopies : Nat := 0x382301
/-- 3824.01 to .30 -/ abbrev bounceCopies : Nat := 0x382401
/-- 3825.01 to .30 -/ abbrev protocolViolations : Nat := 0x382501
/-- 3826.01 to .30 -/ abbrev caParityErrors : Nat := 0x382601
/-- 3827.01 to .30 -/ abbrev rowFills : Nat := 0x382701
/-- 3828.01 to .30 -/ abbrev linkFaults : Nat := 0x382801
/-- 3830.00 -/ abbrev fillPattern : Nat := 0x383000
/-- 3840.00 -/ abbrev translateAddress : Nat := 0x384000
/-- 3841.00 -/ abbrev translateResult : Nat := 0x384100
/-- 3842.00 -/ abbrev untranslateRequest : Nat := 0x384200
/-- 2100.00 -/ abbrev pagePolicy : Nat := 0x210000
/-- 2101.00 -/ abbrev openRowIdle : Nat := 0x210100
/-- 2102.00 -/ abbrev requestOverhead : Nat := 0x210200
/-- 2103.01 to .08 -/ abbrev classQuantum : Nat := 0x210301
/-- 2104.01 -/ abbrev writeDrainHigh : Nat := 0x210401
/-- 2104.02 -/ abbrev writeDrainLow : Nat := 0x210402
/-- 2104.03 -/ abbrev writeBatchMin : Nat := 0x210403
/-- 2105.01 -/ abbrev readPassReserve : Nat := 0x210501
/-- 2105.02 -/ abbrev writePassReserve : Nat := 0x210502
/-- 2105.03 -/ abbrev readClassLimit : Nat := 0x210503
/-- 2105.04 -/ abbrev writeClassLimit : Nat := 0x210504
/-- 2106.00 -/ abbrev rowHitLimit : Nat := 0x210600
/-- 2107.00 -/ abbrev mergeEnable : Nat := 0x210700
/-- 2108.00 -/ abbrev mergeHoldLimit : Nat := 0x210800
/-- 2110.01 to .30 -/ abbrev rowHits : Nat := 0x211001
/-- 2111.01 to .30 -/ abbrev rowMisses : Nat := 0x211101
/-- 2112.01 to .30 -/ abbrev rowConflicts : Nat := 0x211201
/-- 2113.01 to .30 -/ abbrev readModifyWrites : Nat := 0x211301
/-- 2114.01 to .30 -/ abbrev forwardedReads : Nat := 0x211401
/-- 2115.01 to .30 -/ abbrev writeDrains : Nat := 0x211501
/-- 2116.01 to .30 -/ abbrev queueDepth : Nat := 0x211601
/-- 2120.01 -/ abbrev mergeAllocations : Nat := 0x212001
/-- 2120.02 -/ abbrev mergeLineFlushes : Nat := 0x212002
/-- 2120.03 -/ abbrev mergeHoldFlushes : Nat := 0x212003
/-- 2120.04 -/ abbrev mergeEvictFlushes : Nat := 0x212004
/-- 2120.05 -/ abbrev mergeHazardFlushes : Nat := 0x212005
/-- 2121.00 -/ abbrev ingressStalls : Nat := 0x212100
/-- 2012.00 -/ abbrev passBand : Nat := 0x201200
/-- 2200.01 -/ abbrev passRequest : Nat := 0x220001
/-- 2200.02 -/ abbrev passResult : Nat := 0x220002
/-- 2200.03 -/ abbrev passRelease : Nat := 0x220003
/-- 2200.04 -/ abbrev passRegrant : Nat := 0x220004
/-- 2200.05 -/ abbrev passProbe : Nat := 0x220005
/-- 2201.00 -/ abbrev livePasses : Nat := 0x220100
/-- 2202.00 -/ abbrev admittedLoad : Nat := 0x220200
/-- 2203.00 -/ abbrev admissionCeiling : Nat := 0x220300
/-- 2204.00 -/ abbrev passGrants : Nat := 0x220400
/-- 2205.00 -/ abbrev passRefusals : Nat := 0x220500
/-- 2206.00 -/ abbrev lastRefusalReason : Nat := 0x220600
/-- 2207.00 -/ abbrev tileRiskCause : Nat := 0x220700
/-- 2208.00 -/ abbrev missedEvents : Nat := 0x220800
/-- 2209.00 -/ abbrev passRiskEvents : Nat := 0x220900
/-- 2210.00 to .FF -/ abbrev passTerms : Nat := 0x221000
/-- 2211.00 to .FF -/ abbrev passState : Nat := 0x221100
/-- 2212.00 to .FF -/ abbrev passComputedBound : Nat := 0x221200
/-- 2213.00 to .FF -/ abbrev passMissCount : Nat := 0x221300
/-- 2214.00 to .FF -/ abbrev passWorstLateness : Nat := 0x221400
/-- 2215.00 to .FF -/ abbrev passNonConforming : Nat := 0x221500
/-- 2216.00 to .FF -/ abbrev passRiskCause : Nat := 0x221600
/-- 2217.00 to .FF -/ abbrev passLongest : Nat := 0x221700
/-- 2218.00 to .FF -/ abbrev passBytes : Nat := 0x221800
/-- 3000.00 -/ abbrev regulationMode : Nat := 0x300000
/-- 3001.00 -/ abbrev rangeDefault : Nat := 0x300100
/-- 3002.00 -/ abbrev defaultOutstandingLimit : Nat := 0x300200
/-- 3010.01 to .10 -/ abbrev rangeRegister : Nat := 0x301001
/-- 3011.00 -/ abbrev accessDenials : Nat := 0x301100
/-- 3012.00 -/ abbrev lastDeniedAddress : Nat := 0x301200
/-- 3020.01 to .11 -/ abbrev regulatorOutstanding : Nat := 0x302001
/-- 3021.01 to .11 -/ abbrev overBudgetEntries : Nat := 0x302101
/-- 3022.01 to .11 -/ abbrev overBudgetTime : Nat := 0x302201
/-- 3023.01 to .11 -/ abbrev regulatorPeak : Nat := 0x302301
/-- 3030.01 to .FF -/ abbrev partitionTiles : Nat := 0x303001
/-- 3040.00 to .FF -/ abbrev committedLevel : Nat := 0x304000
/-- 3041.00 to .FF -/ abbrev peakLevel : Nat := 0x304100
/-- 3050.01 to .30 -/ abbrev passTierRound : Nat := 0x305001
/-- 3051.01 to .30 -/ abbrev bestEffortRound : Nat := 0x305101
/-- 3100.00 -/ abbrev timetableEnable : Nat := 0x310000
/-- 3101.01 to .40 -/ abbrev timetableEntry : Nat := 0x310101
/-- 3102.00 -/ abbrev timetableLength : Nat := 0x310200
/-- 3103.00 -/ abbrev timetableBase : Nat := 0x310300
/-- 3104.00 -/ abbrev timetableCommit : Nat := 0x310400
/-- 3105.00 -/ abbrev timetableCommitResult : Nat := 0x310500
/-- 3106.00 -/ abbrev timetableState : Nat := 0x310600
/-- 3107.00 -/ abbrev timetableStart : Nat := 0x310700
/-- 3108.00 -/ abbrev timetablePendingStart : Nat := 0x310800
/-- 3109.01 to .40 -/ abbrev operTimetableEntry : Nat := 0x310901
/-- 310A.00 -/ abbrev operTimetableLength : Nat := 0x310A00
/-- 310B.00 -/ abbrev timetableCycle : Nat := 0x310B00
/-- 3110.01 to .08 -/ abbrev classClosedLongest : Nat := 0x311001
/-- 3111.01 to .08 -/ abbrev classOpenFraction : Nat := 0x311101
/-- 3112.01 to .08 -/ abbrev classLongestWindow : Nat := 0x311201
/-- 3113.01 to .08 -/ abbrev tooLongRefusals : Nat := 0x311301
/-- 3114.01 to .08 -/ abbrev gateWaits : Nat := 0x311401
/-- 3115.00 -/ abbrev gateOverruns : Nat := 0x311500
/-- 3200.00 -/ abbrev samplePeriod : Nat := 0x320000
/-- 3201.01 to .30 -/ abbrev readDepthLast : Nat := 0x320101
/-- 3202.01 to .30 -/ abbrev readDepthMax : Nat := 0x320201
/-- 3203.01 to .30 -/ abbrev readDepthSum : Nat := 0x320301
/-- 3204.01 to .30 -/ abbrev readDelayLast : Nat := 0x320401
/-- 3205.01 to .30 -/ abbrev readDelayMax : Nat := 0x320501
/-- 3206.01 to .30 -/ abbrev readDelaySum : Nat := 0x320601
/-- 3207.01 to .30 -/ abbrev writeDepthLast : Nat := 0x320701
/-- 3208.01 to .30 -/ abbrev writeDepthMax : Nat := 0x320801
/-- 3209.01 to .30 -/ abbrev writeDepthSum : Nat := 0x320901
/-- 320A.01 to .30 -/ abbrev writeDelayLast : Nat := 0x320A01
/-- 320B.01 to .30 -/ abbrev writeDelayMax : Nat := 0x320B01
/-- 320C.01 to .30 -/ abbrev writeDelaySum : Nat := 0x320C01
/-- 320D.00 -/ abbrev sampleCount : Nat := 0x320D00
/-- 320E.00 -/ abbrev sampleClear : Nat := 0x320E00
/-- 3300.00 -/ abbrev stallThreshold : Nat := 0x330000
/-- 3301.01 to .05 -/ abbrev stallCount : Nat := 0x330101
/-- 3302.01 to .05 -/ abbrev stallLongest : Nat := 0x330201
/-- 3303.01 to .05 -/ abbrev stallTotal : Nat := 0x330301
/-- 3304.01 to .05 -/ abbrev heldBursts : Nat := 0x330401
/-- 4000.01 to .04 -/ abbrev arrayState : Nat := 0x400001
/-- 4001.00 -/ abbrev preemptEnable : Nat := 0x400100
/-- 4002.00 -/ abbrev preemptRequest : Nat := 0x400200
/-- 4003.01 to .04 -/ abbrev saveAreaBase : Nat := 0x400301
/-- 4004.01 to .04 -/ abbrev arraySteps : Nat := 0x400401
/-- 4005.01 to .04 -/ abbrev activeColumnSteps : Nat := 0x400501
/-- 4006.01 to .04 -/ abbrev columnEfficiency : Nat := 0x400601
/-- 4007.01 to .04 -/ abbrev rowEfficiency : Nat := 0x400701
/-- 4008.01 to .04 -/ abbrev residueFaults : Nat := 0x400801
/-- 4009.01 to .04 -/ abbrev residueRetries : Nat := 0x400901
/-- 400A.01 to .04 -/ abbrev lastResidueFault : Nat := 0x400A01
/-- 400B.00 -/ abbrev residueWindow : Nat := 0x400B00
/-- 400C.01 to .04 -/ abbrev arrayUnfence : Nat := 0x400C01
/-- 400D.01 to .04 -/ abbrev inkwellUncorrectable : Nat := 0x400D01
/-- 400E.01 to .04 -/ abbrev abandonedGroups : Nat := 0x400E01
/-- 400F.01 to .04 -/ abbrev intSaturations : Nat := 0x400F01
/-- 4010.01 to .04 -/ abbrev preemptions : Nat := 0x401001
/-- 4011.01 to .04 -/ abbrev lastPreemptLatency : Nat := 0x401101
/-- 4012.01 to .04 -/ abbrev throttleTime : Nat := 0x401201
/-- 4013.01 to .04 -/ abbrev tripStops : Nat := 0x401301
/-- 4100.00 -/ abbrev vectorOps : Nat := 0x410000
/-- 4101.00 -/ abbrev vectorResidueFaults : Nat := 0x410100
/-- 4102.00 -/ abbrev vectorBusyTime : Nat := 0x410200
/-- 4200.00 -/ abbrev formatSupport : Nat := 0x420000
/-- 4201.00 -/ abbrev conversionInvalid : Nat := 0x420100
/-- 4202.00 -/ abbrev conversionOverflows : Nat := 0x420200
/-- 4203.00 -/ abbrev conversionUnderflows : Nat := 0x420300
/-- 4204.00 -/ abbrev codebookLoads : Nat := 0x420400
/-- 4205.00 -/ abbrev blockScaleNaN : Nat := 0x420500
/-- 4300.01 to .06 -/ abbrev engineState : Nat := 0x430001
/-- 4301.01 to .06 -/ abbrev engineEnable : Nat := 0x430101
/-- 4302.01 to .06 -/ abbrev engineQueueBase : Nat := 0x430201
/-- 4303.01 to .06 -/ abbrev engineQueueSize : Nat := 0x430301
/-- 4304.01 to .06 -/ abbrev engineHead : Nat := 0x430401
/-- 4305.01 to .06 -/ abbrev engineTail : Nat := 0x430501
/-- 4306.01 to .06 -/ abbrev engineResume : Nat := 0x430601
/-- 4307.01 to .06 -/ abbrev engineReplace : Nat := 0x430701
/-- 4308.01 to .06 -/ abbrev engineStopAddress : Nat := 0x430801
/-- 4309.01 to .06 -/ abbrev engineStopStatus : Nat := 0x430901
/-- 430A.01 to .06 -/ abbrev engineEventBit : Nat := 0x430A01
/-- 430B.01 to .06 -/ abbrev fetchPass : Nat := 0x430B01
/-- 430C.01 to .06 -/ abbrev completionRingBase : Nat := 0x430C01
/-- 430D.01 to .06 -/ abbrev completionRingSize : Nat := 0x430D01
/-- 430E.01 to .06 -/ abbrev completionProduced : Nat := 0x430E01
/-- 430F.01 to .06 -/ abbrev completionConsumed : Nat := 0x430F01
/-- 4310.01 to .06 -/ abbrev descriptorsCompleted : Nat := 0x431001
/-- 4311.01 to .06 -/ abbrev fetchTraps : Nat := 0x431101
/-- 4312.01 to .06 -/ abbrev completionStalls : Nat := 0x431201
/-- 4313.01 to .04 -/ abbrev loadStageBase : Nat := 0x431301
/-- 4314.01 to .06 -/ abbrev engineYield : Nat := 0x431401
/-- 4320.01 to .0C -/ abbrev moverState : Nat := 0x432001
/-- 4321.01 to .0C -/ abbrev moverFault : Nat := 0x432101
/-- 4322.01 to .0C -/ abbrev moverHalts : Nat := 0x432201
/-- 4323.01 to .0C -/ abbrev moverBytes : Nat := 0x432301
/-- 4324.00 -/ abbrev moverRetryLimit : Nat := 0x432400
/-- 4340.01 to .40 -/ abbrev semaphore : Nat := 0x434001
/-- 4341.00 -/ abbrev waitTimeouts : Nat := 0x434100
/-- 5000.00 -/ abbrev blockSize : Nat := 0x500000
/-- 5001.00 -/ abbrev poolFirstBand : Nat := 0x500100
/-- 5002.00 -/ abbrev poolBands : Nat := 0x500200
/-- 5003.00 -/ abbrev poolBlocks : Nat := 0x500300
/-- 5004.00 -/ abbrev freeBlocks : Nat := 0x500400
/-- 5005.00 -/ abbrev clearOnFree : Nat := 0x500500
/-- 5006.00 -/ abbrev nextLevelNode : Nat := 0x500600
/-- 5007.00 -/ abbrev spillEnable : Nat := 0x500700
/-- 5008.00 -/ abbrev spillHand : Nat := 0x500800
/-- 5009.00 -/ abbrev nextLevelTimeout : Nat := 0x500900
/-- 5010.00 -/ abbrev mapCommand : Nat := 0x501000
/-- 5011.00 -/ abbrev mapResult : Nat := 0x501100
/-- 5012.00 -/ abbrev mapEntryImage : Nat := 0x501200
/-- 5020.01 to .0C -/ abbrev mapWindow : Nat := 0x502001
/-- 5021.00 -/ abbrev mapSwitch : Nat := 0x502100
/-- 5022.00 -/ abbrev mapSwitchResult : Nat := 0x502200
/-- 5023.00 -/ abbrev lastSwitchLatency : Nat := 0x502300
/-- 5030.00 -/ abbrev cowBlocks : Nat := 0x503000
/-- 5031.00 -/ abbrev cowInBankRows : Nat := 0x503100
/-- 5032.00 -/ abbrev cowBounceRows : Nat := 0x503200
/-- 5033.00 -/ abbrev spills : Nat := 0x503300
/-- 5034.00 -/ abbrev fills : Nat := 0x503400
/-- 5035.00 -/ abbrev blocksCleared : Nat := 0x503500
/-- 5036.00 -/ abbrev prefixHits : Nat := 0x503600
/-- 5037.00 -/ abbrev prefixMisses : Nat := 0x503700
/-- 5038.00 -/ abbrev prefixReplacements : Nat := 0x503800
/-- 5039.00 -/ abbrev retiredBlocks : Nat := 0x503900
/-- 503A.00 -/ abbrev mapUncorrectable : Nat := 0x503A00
/-- 503B.00 -/ abbrev poolExhausted : Nat := 0x503B00
/-- 503C.00 -/ abbrev heldRequests : Nat := 0x503C00
/-- 503F.00 -/ abbrev lastMapEvent : Nat := 0x503F00
/-- 6000.00 -/ abbrev scrubEnable : Nat := 0x600000
/-- 6001.00 -/ abbrev scrubSpacing : Nat := 0x600100
/-- 6002.00 -/ abbrev scrubLapLimit : Nat := 0x600200
/-- 6003.01 to .30 -/ abbrev scrubLapLast : Nat := 0x600301
/-- 6004.01 to .30 -/ abbrev scrubLapProgress : Nat := 0x600401
/-- 6005.01 to .30 -/ abbrev scrubLaps : Nat := 0x600501
/-- 6006.00 -/ abbrev deviceScrubLapLast : Nat := 0x600600
/-- 6007.00 -/ abbrev scrubOverdue : Nat := 0x600700
/-- 6008.00 -/ abbrev sramScrubLapLast : Nat := 0x600800
/-- 6010.01 to .30 -/ abbrev correctedReads : Nat := 0x601001
/-- 6011.01 to .30 -/ abbrev correctedScrub : Nat := 0x601101
/-- 6012.01 to .30 -/ abbrev uncorrectableWords : Nat := 0x601201
/-- 6013.01 to .30 -/ abbrev poisonedReads : Nat := 0x601301
/-- 6014.01 to .30 -/ abbrev writeBacks : Nat := 0x601401
/-- 6015.01 to .30 -/ abbrev writeBacksSuperseded : Nat := 0x601501
/-- 6016.00 -/ abbrev sramCorrected : Nat := 0x601600
/-- 6017.00 -/ abbrev sramUncorrectable : Nat := 0x601700
/-- 6018.00 -/ abbrev lastUncorrectable : Nat := 0x601800
/-- 6019.00 -/ abbrev lastUncorrectableAddress : Nat := 0x601900
/-- 6020.00 -/ abbrev faultWindow : Nat := 0x602000
/-- 6023.00 -/ abbrev watchEntries : Nat := 0x602300
/-- 6024.00 -/ abbrev watchEvictions : Nat := 0x602400
/-- 6025.00 -/ abbrev watchSelect : Nat := 0x602500
/-- 6026.00 -/ abbrev watchEntry : Nat := 0x602600
/-- 6027.00 -/ abbrev correctableThreshold : Nat := 0x602700
/-- 6028.00 -/ abbrev correctableInterval : Nat := 0x602800
/-- 6029.00 -/ abbrev laneSuspectLimit : Nat := 0x602900
/-- 602A.00 -/ abbrev laneSuspects : Nat := 0x602A00
/-- 602B.00 -/ abbrev bankFaultRows : Nat := 0x602B00
/-- 602C.00 -/ abbrev bankFaults : Nat := 0x602C00
/-- 6030.00 -/ abbrev repairMode : Nat := 0x603000
/-- 6031.00 -/ abbrev remapSelect : Nat := 0x603100
/-- 6032.00 -/ abbrev remapTable : Nat := 0x603200
/-- 6033.00 -/ abbrev remaps : Nat := 0x603300
/-- 6034.00 -/ abbrev rePoints : Nat := 0x603400
/-- 6035.00 -/ abbrev sparesFree : Nat := 0x603500
/-- 6036.00 -/ abbrev sparesBad : Nat := 0x603600
/-- 6037.00 -/ abbrev repairRecordsPending : Nat := 0x603700
/-- 6038.00 -/ abbrev migrationsWaiting : Nat := 0x603800
/-- 6040.00 -/ abbrev retiredRows : Nat := 0x604000
/-- 6041.00 -/ abbrev retireSelect : Nat := 0x604100
/-- 6042.00 -/ abbrev retireEntry : Nat := 0x604200
/-- 6043.00 -/ abbrev retireListFull : Nat := 0x604300
/-- 6044.00 -/ abbrev retireRow : Nat := 0x604400
/-- 6050.00 -/ abbrev errorInject : Nat := 0x605000
/-- 6051.00 -/ abbrev errorInjectResult : Nat := 0x605100
/-- 6060.00 -/ abbrev lastRepairEvent : Nat := 0x606000
/-- 6070.01 to .08 -/ abbrev budgetEvents : Nat := 0x607001
/-- 7000.00 -/ abbrev thermalState : Nat := 0x700000
/-- 7001.01 to .06 -/ abbrev logicTemp : Nat := 0x700101
/-- 7002.01 to .18 -/ abbrev dramTemp : Nat := 0x700201
/-- 7003.00 -/ abbrev logicMax : Nat := 0x700300
/-- 7004.00 -/ abbrev columnDramMax : Nat := 0x700400
/-- 7005.00 -/ abbrev hottestLayer : Nat := 0x700500
/-- 7006.00 -/ abbrev stackMax : Nat := 0x700600
/-- 7007.00 -/ abbrev deviceLogicMax : Nat := 0x700700
/-- 7008.00 -/ abbrev hottestTile : Nat := 0x700800
/-- 7009.00 -/ abbrev samplingPeriod : Nat := 0x700900
/-- 700A.00 -/ abbrev thermalSamples : Nat := 0x700A00
/-- 700B.00 -/ abbrev sensorLost : Nat := 0x700B00
/-- 700C.00 -/ abbrev sensorLostEvents : Nat := 0x700C00
/-- 7010.00 -/ abbrev refreshBand : Nat := 0x701000
/-- 7011.00 -/ abbrev recessMinBand : Nat := 0x701100
/-- 7012.00 -/ abbrev bandChanges : Nat := 0x701200
/-- 7013.01 to .04 -/ abbrev bandTime : Nat := 0x701301
/-- 7014.01 to .30 -/ abbrev recessWindows : Nat := 0x701401
/-- 7015.01 to .30 -/ abbrev recessLongest : Nat := 0x701501
/-- 7016.01 to .30 -/ abbrev recessExtended : Nat := 0x701601
/-- 7020.00 -/ abbrev logicThrottlePoint : Nat := 0x702000
/-- 7021.00 -/ abbrev dramThrottlePoint : Nat := 0x702100
/-- 7022.00 -/ abbrev arrayThrottleFactor : Nat := 0x702200
/-- 7023.00 -/ abbrev channelThrottleFactor : Nat := 0x702300
/-- 7024.00 -/ abbrev effectiveSpeed : Nat := 0x702400
/-- 7025.00 -/ abbrev thermalThrottleTime : Nat := 0x702500
/-- 7026.00 -/ abbrev floorHeldTime : Nat := 0x702600
/-- 7027.00 -/ abbrev riseAdvance : Nat := 0x702700
/-- 7028.00 -/ abbrev riseActive : Nat := 0x702800
/-- 7029.00 -/ abbrev riseEvents : Nat := 0x702900
/-- 702A.00 -/ abbrev ceilingEvents : Nat := 0x702A00
/-- 7030.00 -/ abbrev tripState : Nat := 0x703000
/-- 7031.00 -/ abbrev tripEvents : Nat := 0x703100
/-- 7032.00 -/ abbrev lastTrip : Nat := 0x703200
/-- 7033.00 -/ abbrev tripCoolStart : Nat := 0x703300
/-- 7034.00 -/ abbrev tripRelease : Nat := 0x703400
/-- 7035.00 -/ abbrev tripTime : Nat := 0x703500
/-- 7040.00 -/ abbrev lastThermalEvent : Nat := 0x704000
/-- 7800.00 -/ abbrev powerMode : Nat := 0x780000
/-- 7801.00 -/ abbrev voltageStep : Nat := 0x780100
/-- 7802.00 -/ abbrev fixedStep : Nat := 0x780200
/-- 7803.00 -/ abbrev voltageCeiling : Nat := 0x780300
/-- 7804.00 -/ abbrev floorStep : Nat := 0x780400
/-- 7805.00 -/ abbrev floorGuard : Nat := 0x780500
/-- 7806.00 -/ abbrev voltageStepSettle : Nat := 0x780600
/-- 7807.00 -/ abbrev voltageSteps : Nat := 0x780700
/-- 7808.00 -/ abbrev maxStepsPerWindow : Nat := 0x780800
/-- 7820.00 -/ abbrev speedCeiling : Nat := 0x782000
/-- 7821.00 -/ abbrev speedCeilingTest : Nat := 0x782100
/-- 7822.00 -/ abbrev ageingSamples : Nat := 0x782200
/-- 7823.00 -/ abbrev ageingLoss : Nat := 0x782300
/-- 7830.00 -/ abbrev powerCap : Nat := 0x783000
/-- 7831.00 -/ abbrev peakLimit : Nat := 0x783100
/-- 7832.00 -/ abbrev capState : Nat := 0x783200
/-- 7833.00 -/ abbrev capShortfall : Nat := 0x783300
/-- 7834.00 to .FF -/ abbrev capRank : Nat := 0x783400
/-- 7835.00 -/ abbrev computeFraction : Nat := 0x783500
/-- 7836.00 -/ abbrev linkFraction : Nat := 0x783600
/-- 7837.00 -/ abbrev memoryFraction : Nat := 0x783700
/-- 7838.00 -/ abbrev peakSlicesLimited : Nat := 0x783800
/-- 7839.00 -/ abbrev capUnattainableEvents : Nat := 0x783900
/-- 783A.00 -/ abbrev peakGuard : Nat := 0x783A00
/-- 7840.00 -/ abbrev devicePowerMeasured : Nat := 0x784000
/-- 7841.00 -/ abbrev devicePowerEstimated : Nat := 0x784100
/-- 7842.00 -/ abbrev estimatorState : Nat := 0x784200
/-- 7843.00 -/ abbrev estimatorStaleEvents : Nat := 0x784300
/-- 7844.00 -/ abbrev disagreeWindows : Nat := 0x784400
/-- 7845.00 -/ abbrev tilePowerEstimated : Nat := 0x784500
/-- 7846.00 -/ abbrev tilePowerMeasured : Nat := 0x784600
/-- 7847.00 -/ abbrev estimatorGain : Nat := 0x784700
/-- 7850.00 -/ abbrev holdState : Nat := 0x785000
/-- 7851.00 -/ abbrev holdEvents : Nat := 0x785100
/-- 7852.00 -/ abbrev holdTime : Nat := 0x785200
/-- 7853.00 -/ abbrev holdLongest : Nat := 0x785300
/-- 7854.00 -/ abbrev lastSupplyEvent : Nat := 0x785400
/-- 7855.00 -/ abbrev supplyResets : Nat := 0x785500
/-- 7856.01 to .42 -/ abbrev railVoltage : Nat := 0x785601
/-- 7857.01 to .42 -/ abbrev railCurrent : Nat := 0x785701
/-- 7858.00 -/ abbrev railTelemetryLost : Nat := 0x785800
/-- 7860.00 -/ abbrev deviceEnergy : Nat := 0x786000
/-- 7861.01 to .08 -/ abbrev energyMarkControl : Nat := 0x786101
/-- 7862.01 to .08 -/ abbrev energyMarkResult : Nat := 0x786201
/-- 7863.00 -/ abbrev attributionMode : Nat := 0x786300
/-- 7864.00 to .FF -/ abbrev partitionEnergy : Nat := 0x786400
/-- 7865.01 to .60 -/ abbrev queueEnergy : Nat := 0x786501
/-- 7870.00 -/ abbrev hintsAccepted : Nat := 0x787000
/-- 7871.00 -/ abbrev hintsLate : Nat := 0x787100
/-- 7872.00 -/ abbrev hintReserve : Nat := 0x787200
/-- 7873.00 -/ abbrev hintsDropped : Nat := 0x787300
/-- 7880.00 -/ abbrev devicePace : Nat := 0x788000
/-- 1000.00 -/ abbrev vendorName : Nat := 0x100000
/-- 1001.00 -/ abbrev productName : Nat := 0x100100
/-- 1002.00 -/ abbrev familyParameters : Nat := 0x100200
/-- 1003.00 -/ abbrev deviceSerial : Nat := 0x100300
/-- 1004.00 -/ abbrev siliconStep : Nat := 0x100400
/-- 1005.00 -/ abbrev unitsPresent : Nat := 0x100500
/-- 1006.00 -/ abbrev deviceState : Nat := 0x100600
/-- 1007.00 -/ abbrev bootRomVersion : Nat := 0x100700
/-- 1008.00 -/ abbrev firmwareVersion : Nat := 0x100800
/-- 1009.00 -/ abbrev dictionaryVersion : Nat := 0x100900
/-- 100A.00 -/ abbrev tileIdentity : Nat := 0x100A00
/-- 1100.00 -/ abbrev nodeAddress : Nat := 0x110000
/-- 1102.00 -/ abbrev coordinatorNode : Nat := 0x110200
/-- 1103.00 -/ abbrev nodeConflicts : Nat := 0x110300
/-- 1106.00 -/ abbrev fieldEventMask : Nat := 0x110600
/-- 1107.00 -/ abbrev eventPriority : Nat := 0x110700
/-- 1108.00 -/ abbrev eventMinInterval : Nat := 0x110800
/-- 1109.00 -/ abbrev eventsMerged : Nat := 0x110900
/-- 1110.00 -/ abbrev canNominalRate : Nat := 0x111000
/-- 1111.00 -/ abbrev canDataRate : Nat := 0x111100
/-- 1112.00 -/ abbrev canNominalSample : Nat := 0x111200
/-- 1113.00 -/ abbrev canDataSample : Nat := 0x111300
/-- 1114.00 -/ abbrev canTdcOffset : Nat := 0x111400
/-- 1115.00 -/ abbrev canErrorCounters : Nat := 0x111500
/-- 1116.00 -/ abbrev busOffEvents : Nat := 0x111600
/-- 1117.00 -/ abbrev framesReceived : Nat := 0x111700
/-- 1118.00 -/ abbrev framesSent : Nat := 0x111800
/-- 1120.00 -/ abbrev heartbeatPeriod : Nat := 0x112000
/-- 1121.00 -/ abbrev rightsLease : Nat := 0x112100
/-- 1122.01 to .02 -/ abbrev rightsKey : Nat := 0x112201
/-- 1123.00 -/ abbrev unlockFailures : Nat := 0x112300
/-- 1124.00 -/ abbrev duplicateRequests : Nat := 0x112400
/-- 1125.00 -/ abbrev rightsHolders : Nat := 0x112500
/-- 1130.00 -/ abbrev windowRightsLimit : Nat := 0x113000
/-- 1131.00 -/ abbrev windowPartition : Nat := 0x113100
/-- 1132.00 -/ abbrev windowTransactions : Nat := 0x113200
/-- 1134.00 -/ abbrev windowBusyWrites : Nat := 0x113400
/-- 1140.00 -/ abbrev rollCallState : Nat := 0x114000
/-- 1141.00 -/ abbrev rollCallCount : Nat := 0x114100
/-- A000.00 -/ abbrev mailboxAckTimeout : Nat := 0xA00000
/-- A010.01 to .08 -/ abbrev mailboxClear : Nat := 0xA01001
/-- A011.01 to .08 -/ abbrev mailboxPosted : Nat := 0xA01101
/-- A012.01 to .08 -/ abbrev mailboxTimeouts : Nat := 0xA01201
/-- A013.01 to .08 -/ abbrev mailboxWithdrawn : Nat := 0xA01301
/-- A014.01 to .08 -/ abbrev staleAcks : Nat := 0xA01401
/-- A015.00 -/ abbrev hostEpoch : Nat := 0xA01500
/-- A016.00 -/ abbrev sequencerEpoch : Nat := 0xA01600
/-- A017.00 -/ abbrev managementEpoch : Nat := 0xA01700
/-- A020.00 -/ abbrev hostDoorbellStatus : Nat := 0xA02000
/-- A100.00 -/ abbrev firmwareExpectImage : Nat := 0xA10000
/-- A101.00 -/ abbrev firmwareBitmap : Nat := 0xA10100
/-- A102.00 -/ abbrev firmwareSegmentsHeld : Nat := 0xA10200
/-- A103.00 -/ abbrev firmwareSegmentPiece : Nat := 0xA10300
/-- A104.00 -/ abbrev firmwareActivate : Nat := 0xA10400
/-- A105.00 -/ abbrev firmwareActivateResult : Nat := 0xA10500
/-- A106.00 -/ abbrev firmwareState : Nat := 0xA10600
/-- A107.00 -/ abbrev flashImageState : Nat := 0xA10700
/-- A108.00 -/ abbrev segmentRejects : Nat := 0xA10800
/-- A10A.00 -/ abbrev managementTraps : Nat := 0xA10A00
/-- A10B.00 -/ abbrev sequencerTraps : Nat := 0xA10B00
/-- A200.00 -/ abbrev copybookState : Nat := 0xA20000
/-- A201.00 -/ abbrev copybookFill : Nat := 0xA20100
/-- A202.00 -/ abbrev copybookGeneration : Nat := 0xA20200
/-- A203.00 -/ abbrev copybookPending : Nat := 0xA20300
/-- A204.00 -/ abbrev copybookCompactions : Nat := 0xA20400
/-- A205.00 -/ abbrev copybookTornRecords : Nat := 0xA20500
/-- A206.00 -/ abbrev flashErrors : Nat := 0xA20600
/-- A207.00 -/ abbrev flashCapacity : Nat := 0xA20700
/-- A208.00 -/ abbrev copybookCompact : Nat := 0xA20800
/-- A209.00 -/ abbrev factoryRecordsValid : Nat := 0xA20900
/-- 9000.00 -/ abbrev calApplyMode : Nat := 0x900000
/-- 9001.00 -/ abbrev calInterval : Nat := 0x900100
/-- 9002.00 -/ abbrev calDriftTrigger : Nat := 0x900200
/-- 9004.00 -/ abbrev calRequest : Nat := 0x900400
/-- 9005.00 -/ abbrev calEnable : Nat := 0x900500
/-- 9010.01 to .30 -/ abbrev calTrims : Nat := 0x901001
/-- 9011.01 to .30 -/ abbrev calState : Nat := 0x901101
/-- 9012.01 to .30 -/ abbrev calCount : Nat := 0x901201
/-- 9013.01 to .30 -/ abbrev calLastTime : Nat := 0x901301
/-- 9014.01 to .30 -/ abbrev calThirdRuns : Nat := 0x901401
/-- 9015.01 to .30 -/ abbrev calSuspectCount : Nat := 0x901501
/-- 9016.01 to .30 -/ abbrev calLastRun : Nat := 0x901601
/-- 9017.00 -/ abbrev calSuspectChannels : Nat := 0x901700
/-- 9020.01 to .1E -/ abbrev sensorOffset : Nat := 0x902001
/-- 9030.00 -/ abbrev estimatorRecalibrate : Nat := 0x903000
/-- 9031.00 -/ abbrev estimatorFitWindows : Nat := 0x903100
/-- 9032.00 -/ abbrev lastEstimatorFit : Nat := 0x903200
/-- 9800.00 -/ abbrev bringupPhase : Nat := 0x980000
/-- 9801.00 -/ abbrev bringupPath : Nat := 0x980100
/-- 9802.00 -/ abbrev bringupTime : Nat := 0x980200
/-- 9803.01 to .08 -/ abbrev bringupPhaseTime : Nat := 0x980301
/-- 9804.00 -/ abbrev warmTolerance : Nat := 0x980400
/-- 9810.01 to .30 -/ abbrev channelBringupPath : Nat := 0x981001
/-- 9811.01 to .30 -/ abbrev prbsBits : Nat := 0x981101
/-- 9812.01 to .30 -/ abbrev prbsErrors : Nat := 0x981201
/-- 9813.01 to .30 -/ abbrev prbsRestarts : Nat := 0x981301
/-- 9814.01 to .30 -/ abbrev trainingTime : Nat := 0x981401
/-- 9820.00 -/ abbrev deviceWarmReset : Nat := 0x982000
/-- 9821.00 -/ abbrev partitionReset : Nat := 0x982100
/-- 9822.00 -/ abbrev partitionResetState : Nat := 0x982200
/-- 9823.00 -/ abbrev tileReset : Nat := 0x982300
/-- 9824.00 -/ abbrev engineReset : Nat := 0x982400
/-- 9825.00 -/ abbrev portReset : Nat := 0x982500
/-- 9826.00 -/ abbrev managementReset : Nat := 0x982600
/-- 9827.00 -/ abbrev resetCause : Nat := 0x982700
/-- 9828.01 to .08 -/ abbrev resetCounts : Nat := 0x982801
/-- 9829.00 -/ abbrev resetInProgress : Nat := 0x982900
/-- 982A.00 -/ abbrev lastResetTime : Nat := 0x982A00
/-- 8000.00 -/ abbrev counterFixed : Nat := 0x800000
/-- 8001.01 to .08 -/ abbrev counterSelect : Nat := 0x800101
/-- 8002.01 to .08 -/ abbrev counterValue : Nat := 0x800201
/-- 8003.00 -/ abbrev counterOverflow : Nat := 0x800300
/-- 8004.00 -/ abbrev counterOverflowBell : Nat := 0x800400
/-- 8010.01 to .04 -/ abbrev deviceCounterSelect : Nat := 0x801001
/-- 8011.01 to .04 -/ abbrev deviceCounterValue : Nat := 0x801101
/-- 8012.00 -/ abbrev deviceCounterOverflow : Nat := 0x801200
/-- 8020.00 -/ abbrev bandwidthWindow : Nat := 0x802000
/-- 8022.01 to .05 -/ abbrev portBandwidthIn : Nat := 0x802201
/-- 8023.01 to .05 -/ abbrev portBandwidthOut : Nat := 0x802301
/-- 8024.01 to .05 -/ abbrev portBandwidthPeak : Nat := 0x802401
/-- 8025.01 to .05 -/ abbrev portBytesTotal : Nat := 0x802501
/-- 8030.00 -/ abbrev preciseSampleControl : Nat := 0x803000
/-- 8031.00 -/ abbrev preciseSampleCount : Nat := 0x803100
/-- 8032.00 -/ abbrev preciseSampleSelect : Nat := 0x803200
/-- 8033.00 -/ abbrev preciseSampleRecord : Nat := 0x803300
/-- 8034.00 -/ abbrev preciseSampleBlock : Nat := 0x803400
/-- 8035.00 -/ abbrev preciseEligible : Nat := 0x803500
/-- 8040.00 -/ abbrev reportCard : Nat := 0x804000
/-- 8041.00 -/ abbrev reportCardSeq : Nat := 0x804100
/-- 8042.00 -/ abbrev reportCardStamp : Nat := 0x804200
/-- 8043.00 -/ abbrev reportCardFrozen : Nat := 0x804300
/-- 8044.00 -/ abbrev reportCardPinAction : Nat := 0x804400
/-- 8045.00 -/ abbrev shadowFixed : Nat := 0x804500
/-- 8046.01 to .08 -/ abbrev shadowCounter : Nat := 0x804601
/-- 8047.01 to .04 -/ abbrev shadowDeviceCounter : Nat := 0x804701
/-- 8048.01 to .05 -/ abbrev shadowPortBytes : Nat := 0x804801
/-- 8050.00 -/ abbrev troubleLogHead : Nat := 0x805000
/-- 8051.00 -/ abbrev troubleLogConsumed : Nat := 0x805100
/-- 8052.00 -/ abbrev troubleLogLost : Nat := 0x805200
/-- 8053.00 -/ abbrev troubleLogSelect : Nat := 0x805300
/-- 8054.00 -/ abbrev troubleLogEntry : Nat := 0x805400
/-- 8055.00 -/ abbrev troubleLogBlock : Nat := 0x805500
/-- 8056.00 -/ abbrev troubleLogWrite : Nat := 0x805600
/-- 8057.00 -/ abbrev troubleLogDropped : Nat := 0x805700
/-- 8058.00 -/ abbrev troubleLogBell : Nat := 0x805800
/-- B000.01 to .04 -/ abbrev portGeneration : Nat := 0xB00001
/-- B001.01 to .04 -/ abbrev portState : Nat := 0xB00101
/-- B002.01 to .04 -/ abbrev portClockRate : Nat := 0xB00201
/-- B003.00 -/ abbrev modeSummary : Nat := 0xB00300
/-- B004.01 to .04 -/ abbrev clockStops : Nat := 0xB00401
/-- B005.00 -/ abbrev configPortGeneration : Nat := 0xB00500
/-- B020.00 -/ abbrev vidCommands : Nat := 0xB02000
/-- B021.00 -/ abbrev vidReports : Nat := 0xB02100
/-- B022.00 -/ abbrev vidOutstanding : Nat := 0xB02200
/-- B030.00 -/ abbrev testAccessState : Nat := 0xB03000
/-- B031.00 -/ abbrev stackTestState : Nat := 0xB03100
/-- 8060.00 -/ abbrev deviceLogHead : Nat := 0x806000
/-- 8061.00 -/ abbrev deviceLogConsumed : Nat := 0x806100
/-- 8062.00 -/ abbrev deviceLogLost : Nat := 0x806200
/-- 8063.00 -/ abbrev deviceLogSelect : Nat := 0x806300
/-- 8064.00 -/ abbrev deviceLogEntry : Nat := 0x806400
/-- 8065.00 -/ abbrev deviceLogBlock : Nat := 0x806500
/-- 8066.00 -/ abbrev deviceLogWrite : Nat := 0x806600
/-- 8067.00 -/ abbrev deviceLogDropped : Nat := 0x806700
/-- 8068.00 -/ abbrev deviceLogBell : Nat := 0x806800

end Obj

end Sys2Proof.Machine
end

