-- ==== Sys2Proof/Machine/StateA.lean ====
section
/-! DEFINITION. The state of the memory side: reference time, layers and channels, the scheduler, the
passes, regulation and Timetables, protection and repair. Quantities kept as values of dictionary
objects are not repeated here (the dictionary is a field of State). Stamps called `elapsed` count the
nanoseconds of ticks that passed and are never loaded (R27). -/

namespace Sys2Proof.Machine

/-- Reference time (R22 to R30): one value for all 64 tile time bases (R23). -/
structure TimeS where
  /-- The time base in ns (R22). -/
  timeBase : Nat := 0
  /-- Nanoseconds of ticks that passed since power-on, untouched by loads (R27). -/
  elapsed : Nat := 0
  /-- A TimeBaseSet value accepted and loaded at the next tick (R26), in ticks of 10 ns. -/
  setPending : Option Nat := none
  /-- Consecutive good edges seen while not locked (R30). -/
  goodEdges : Nat := 0
  /-- `elapsed` at the start of the holdover in progress (R30). -/
  lostAt : Nat := 0
  /-- `elapsed` at the start of the present cooling count (R301). -/
  coolFrom : Nat := 0
  deriving DecidableEq, Repr

/-- The s_layer of one layer above one tile, in its latest window with a sample, as a fraction
(numerator, denominator), and the sums of the window in progress (R31). -/
structure LayerSpeed where
  num : Nat := 0
  den : Nat := 0
  sum : Nat := 0
  count : Nat := 0
  deriving DecidableEq, Repr

/-- The state of a bank as its layer holds it (R46 to R48, R53). Rows are physical: 0 to 8191, and
8192 + i for spare i (R49). -/
inductive BankS where
  /-- Precharged. -/
  | closed
  /-- Activated; the ACT's done report is not yet sent. -/
  | opening (row : Nat)
  /-- Open and sensed. -/
  | opened (row : Nat)
  /-- Held by an operation until the done report of this event (R48). -/
  | busy (event : Nat)
  deriving DecidableEq, Repr

/-- A downward transfer: a command word with its argument word and write beats (R42, R45), for access
`acc` (0: the controller's own). -/
structure Down where
  word : Nat
  arg : Option Nat := none
  beats : List Nat := []
  acc : Nat := 0
  /-- Sends of it that failed by parity (R45). -/
  fails : Nat := 0
  deriving DecidableEq, Repr

/-- An upward transfer (R42): a done report (R43) or the read beats of one command, as 72-bit words. -/
inductive Up where
  | done (bank event : Nat)
  | beats (words : List Nat)
  deriving DecidableEq, Repr

/-- What the controller expects the next read beats for. -/
inductive RdTag where
  | access (id : Nat)
  | rmw (id : Nat)
  | mode (reg : Nat)
  | trim (idx : Nat)
  /-- The beats of an access that returned to its queue meanwhile (R45): they are dropped. -/
  | drop
  deriving DecidableEq, Repr

/-- The Stack Layer Port and the layer side of one channel (R42 to R58). -/
structure LayerS where
  down : List Down := []
  up : List Up := []
  reads : List RdTag := []
  /-- The transfer captured last. -/
  last : Option Down := none
  /-- Transfers captured with odd parity whose reports are on their way, oldest first (R45). -/
  failed : List Down := []
  /-- An RCOPY or RFILL word captured whose argument word has not come yet (R46). -/
  awaits : Option Nat := none
  refreshCounter : Nat := 0
  fillData : Nat := 0
  fillCheck : Nat := 0
  temperature : Nat := 0
  /-- The latest MRR or TRR value the controller received. -/
  modeRead : Nat := 0
  /-- Trims 0 to 5 (Table 2.6), layer side. -/
  trims : List Nat := [0, 0, 0, 0, 0, 0]
  /-- Read-capture strobes 0 to 3 and the done-report strobe, logic side. -/
  logicTrims : List Nat := [0, 0, 0, 0, 0]
  /-- A FillPattern write not yet carried to this channel (R50). -/
  fillPending : Bool := false
  /-- The MRR of temperature of the latest sample has not been sent yet (R286). -/
  tempDue : Bool := false
  /-- The 72-bit word every row holds since the last initialisation (R381). -/
  base : Nat := 0
  deriving DecidableEq, Repr

/-- What a queue entry does. -/
inductive AccKind where
  | read
  | write
  /-- A partial write: one read-modify-write (R87). -/
  | rmw
  /-- An in-bank copy to row `dst` of its bank (R55). -/
  | copy (dst : Nat)
  /-- The read entry of a bounce copy whose write entry lies in channel `wchan`, and the write entry of
  one that reads a row of channel `rchan` (R57, R68). -/
  | bounceRead (wchan : Nat)
  | bounceWrite (rchan rbank rrow : Nat)
  /-- A row fill (R58). -/
  | fill
  /-- A corrected-word write-back (R265). -/
  | writeBack
  deriving DecidableEq, Repr

/-- The work an access belongs to: a copy-on-write or relocation, the clearing of a block, a migration. -/
inductive JobRef where
  | none
  /-- A job of the block map, by its number. -/
  | job (id : Nat)
  | clear (block : Nat)
  /-- A repair migration (R276, R277). -/
  | migrate
  deriving DecidableEq, Repr

/-- One queued access (R64, R68). -/
structure Acc where
  id : Nat
  kind : AccKind
  /-- Requests answered when it completes, with repetition (R67, R90). -/
  reqs : List Nat := []
  /-- Place in acceptance order (R81). -/
  order : Nat := 0
  /-- Fragment it belongs to (R64). -/
  frag : Nat := 0
  bank : Nat := 0
  /-- Logical row number. -/
  row : Nat := 0
  sector : Nat := 0
  /-- 64-byte line access; else one sector. -/
  line : Bool := false
  /-- Offset of the first byte of the access within its request. -/
  off : Nat := 0
  data : Nat := 0
  mask : Nat := 0
  /-- Words written poisoned (R263), one bit per 64-bit word. -/
  pois : Nat := 0
  /-- Carried in the pass tier as conforming (R128), and its pass. -/
  pass : Bool := false
  ofPass : Option Nat := none
  /-- 0 its row was found open, 1 its bank precharged, 2 a PRE was needed first. -/
  page : Nat := 0
  /-- Bytes of its fragment (R143). -/
  flen : Nat := 0
  /-- The tier it is served at by promotion (R72): 0 pass, 1 best-effort; 9 none. -/
  promo : Nat := 9
  /-- A finding of the Blotter: served in the Blotter's tier (R73). -/
  low : Bool := false
  cls : Nat := 0
  /-- The regulator that is its source (R128); none for work without one. -/
  reg : Option Nat := none
  /-- 0 queued. Read, write, fill: 1 issued. Copy: 1 its ACT, 2 its RCOPY issued. Read-modify-write:
  1 its RD issued, 2 its data back, 3 its WR issued. Bounce copy, row clear on SLP-2: 1 running. -/
  stage : Nat := 0
  /-- Lines of a bounce copy or row clear issued, and done. -/
  sent : Nat := 0
  done : Nat := 0
  /-- The sector a read-modify-write is to write, with its poisoned words (R87, R88). -/
  mdata : Nat := 0
  mpois : Nat := 0
  /-- Physical row, where it is not that of the remap table: the spare a migration writes (R276). -/
  prow : Option Nat := none
  /-- It met a merge entry: it waits for the flush and is not forwarded (R83). -/
  noFwd : Bool := false
  /-- Merge slot it waits in for an entry (R429). -/
  slot : Option Nat := none
  /-- Upset bits of its data words in the queue, by word (R260). -/
  err : FMap Nat := []
  /-- First of its fragment: bears the overhead of R75. -/
  first : Bool := false
  /-- Counted in GateWaits already (R144). -/
  waited : Bool := false
  /-- Needs only an open gate (R150). -/
  exempt : Bool := false
  /-- Time base at acceptance (R137). -/
  stamp : Nat := 0
  /-- Partition whose work it is (R247, R321). -/
  part : Nat := 0
  job : JobRef := .none
  deriving DecidableEq, Repr

/-- Deficit round robin of one tier of one channel (R76, R77). -/
structure Drr where
  deficit : List Nat := [0, 0, 0, 0, 0, 0, 0, 0]
  fresh : List Bool := [true, true, true, true, true, true, true, true]
  turn : Nat := 0
  deriving DecidableEq, Repr

/-- The scheduler side of one channel (R68 to R80, R429). -/
structure QueueS where
  rq : List Acc := []
  wq : List Acc := []
  /-- Write-backs, migrations and flushes waiting for an entry (R429). -/
  deferred : List Acc := []
  drrPass : Drr := {}
  drrBest : Drr := {}
  /-- Batch direction: true is write (R80). -/
  writeDir : Bool := false
  /-- Writes served since the turn to write. -/
  served : Nat := 0
  deriving DecidableEq, Repr

/-- Page policy of one bank (R78, R79). -/
structure PageS where
  counter : Nat := 2
  lastRow : Option Nat := none
  hits : Nat := 0
  lastAccess : Nat := 0
  /-- The physical row that gave way when rule 2 of R78 lapsed, until the next ACT. -/
  gave : Option Nat := none
  deriving DecidableEq, Repr

/-- The bounce buffer of a channel (R57): the access whose copy holds it, and the 72-bit words read so far. -/
structure Bounce where
  acc : Nat := 0
  words : List Nat := []
  deriving DecidableEq, Repr

/-- A request accepted at its owning tile and not yet answered (Table 3.1). -/
structure Req where
  id : Nat
  /-- Requester code at this tile (R63). -/
  requester : Nat
  /-- Place in acceptance order (R81); for a far request, also its place at its source tile (R85). -/
  order : Nat := 0
  srcOrder : Nat := 0
  /-- Requester code in its source tile, and that tile (R63, R415). -/
  orig : Nat
  source : Nat
  tag : Nat
  addr : Nat
  len : Nat
  write : Bool
  barrier : Bool := false
  /-- The pass named (R96). -/
  passNo : Option Nat := none
  /-- Conforming under its pass (R96). -/
  conforming : Bool := false
  part : Nat := 0
  cls : Nat := 0
  /-- Regulator that counted it (R127). -/
  counted : Option Nat := none
  /-- `elapsed` at acceptance, at the source tile for a far request (R95). -/
  accepted : Nat := 0
  /-- Time base at acceptance, at the source tile for a far request, and at the owning tile (R137). -/
  stamp : Nat := 0
  here : Nat := 0
  status : Nat := 0
  /-- Read data, byte i at bits 8i, and the mask of bytes from poisoned words. -/
  data : Nat := 0
  pois : Nat := 0
  /-- Accesses outstanding. -/
  left : Nat := 0
  /-- Waiting at the head of its ingress FIFO: 0 no, 1 for queue entries or merge slots, 2 as a barrier, 3
  to merge behind an earlier request that waits (R70, R82, R85). -/
  waiting : Nat := 0
  /-- Sample flags of Table 16.4 and the first access's tier, page and channel. -/
  flags : Nat := 0
  tier : Nat := 0
  page : Nat := 0
  chan : Nat := 0
  /-- Its port was reset since: the response is discarded there (R383 code 7). -/
  dropped : Bool := false
  /-- Offsets of its accesses that met a merge entry while it waited (R83). -/
  met : List Nat := []
  /-- Carried best-effort whatever it names: its copies could not be paid, or it met a SPILLED entry
  (R98, R99, R251). -/
  best : Bool := false
  /-- It met a SPILLED entry and waited for the fill (R225). -/
  fill : Bool := false
  deriving DecidableEq, Repr

/-- One merge-buffer entry (R89). -/
structure Merge where
  valid : Bool := false
  /-- Tile offset of the line. -/
  line : Nat := 0
  data : Nat := 0
  mask : Nat := 0
  pois : Nat := 0
  part : Nat := 0
  cls : Nat := 0
  /-- `elapsed` at allocation. -/
  stamp : Nat := 0
  tb : Nat := 0
  order : Nat := 0
  reg : Option Nat := none
  reqs : List Nat := []
  /-- Flushed, with accesses that still wait in it for queue entries (R429). -/
  flushing : Bool := false
  /-- Upset bits of its data words, by word (R260). -/
  err : FMap Nat := []
  deriving DecidableEq, Repr

/-- An assembly buffer (R146): the header and data beats taken so far. -/
structure Asm where
  active : Bool := false
  header : Nat := 0
  need : Nat := 0
  beats : List (Nat × Bool) := []
  /-- `elapsed` at the acknowledge of its latest beat (R148). -/
  ack : Nat := 0
  /-- Order of beginning among the buffers of its port. -/
  begun : Nat := 0
  /-- The tile has withheld its acknowledge since then: the gap is no stall (R148). -/
  held : Bool := false
  deriving DecidableEq, Repr

/-- A response offered at a port (R410), with the beats not yet acknowledged. -/
structure Resp where
  tag : Nat
  status : Nat
  write : Bool
  /-- Data lanes, poison indication, and bytes of the request in the beat. -/
  beats : List (Nat × Bool × Nat)
  deriving DecidableEq, Repr

/-- What a request over the mesh asks for. -/
inductive FarKind where
  /-- A device address of the destination (R14). -/
  | device
  /-- The resolution of entry `entry` at byte `off` of its block, for partition `part` (R241). -/
  | mapped (entry off part : Nat) (canWrite : Bool)
  /-- Byte `off` of block `block` of the destination, for FAR entry `entry` of tile `src` (R242). -/
  | block (entry block off : Nat)
  deriving DecidableEq, Repr

/-- A request travelling over the mesh from tile `src` to tile `dst` (R14, R415). -/
structure FarReq where
  src : Nat
  dst : Nat
  kind : FarKind := .device
  /-- The tile of its requester. -/
  origin : Nat := 0
  orig : Nat
  tag : Nat
  addr : Nat
  len : Nat
  write : Bool
  barrier : Bool
  passNo : Option Nat
  data : Nat
  pois : Nat
  accepted : Nat
  stamp : Nat
  srcOrder : Nat := 0
  dropped : Bool := false
  best : Bool := false
  /-- Partition and class of the block map's own requests (R12). -/
  part : Nat := 0
  cls : Nat := 0
  deriving DecidableEq, Repr

/-- A response travelling back over the mesh. -/
structure FarResp where
  owner : Nat
  dst : Nat
  req : Req
  hint : Nat := 0
  deriving DecidableEq, Repr

/-- Work of the block map on its way into the queues (R63, R73): a copy or fill with its channel, or a read
or write request. -/
inductive MapItem where
  | acc (chan : Nat) (a : Acc)
  | req (r : Req)
  deriving DecidableEq, Repr

/-- An ingress FIFO of the block map (R70): the copy or fill accepted that waits at its head, and what is
behind it. A request that waits at the head is among the requests of the tile. -/
structure MapFifo where
  head : Option (Nat × Acc) := none
  behind : List MapItem := []
  deriving DecidableEq, Repr

/-- The response of a tile's scheduler or gateway to a mover channel or the block map of the tile (R63). -/
structure Reply where
  tag : Nat
  status : Nat
  write : Bool
  data : Nat := 0
  pois : Nat := 0
  hint : Nat := 0
  /-- It met a SPILLED entry (R225). -/
  fill : Bool := false
  deriving DecidableEq, Repr

/-- The scheduler's parts that belong to a whole tile. -/
structure TileSched where
  nextOrder : Nat := 1
  nextId : Nat := 1
  reqs : List Req := []
  /-- The block map's ingress FIFOs: pass tier, and all others. -/
  mapPass : MapFifo := {}
  mapBest : MapFifo := {}
  /-- MergeHoldLimit before the writes of this tick, and `elapsed` + 1 of the first of them (R90). -/
  holdOld : Nat := 0
  holdSince : Nat := 0
  deriving DecidableEq, Repr

/-- A bucket (R131, R132): its level, uncapped, after the credit of tick `stamp`. -/
structure Bucket where
  level : Nat := 0
  stamp : Nat := 0
  deriving DecidableEq, Repr

/-- A Hall Pass (R94, Table 4.6). -/
structure Pass where
  state : Nat := 0
  /-- The contract as granted (Table 4.1). -/
  terms : Nat := 0
  computed : Nat := 0
  cause : Nat := 0
  /-- Causes in force for this pass alone: Hold, the source tile's speed or gateway (R112). -/
  force : Nat := 0
  /-- PassRelease was written and requests are still unanswered (R115). -/
  released : Bool := false
  /-- `elapsed` at that release (R119). -/
  releasedAt : Nat := 0
  /-- `elapsed` since which no cause was set and no miss occurred (R114). -/
  clear : Nat := 0
  committed : Bucket := {}
  peak : Bucket := {}
  share : List Bucket := []
  deriving DecidableEq, Repr

/-- A write that the admission controller of a tile handles or that waits for it (R110, R119): kind 0
PassRequest, 1 PassProbe, 2 PassRegrant, 3 a PassRelease behind a PassRegrant; contract, pass number, and
the partition scope of the writer (R101). -/
structure AdmJob where
  kind : Nat
  terms : Nat := 0
  pass : Nat := 0
  scope : Nat := 0
  deriving DecidableEq, Repr

/-- A Timetable list (R139, R140). -/
structure TTable where
  entries : List Nat := []
  start : Nat := 0
  deriving DecidableEq, Repr

/-- The Timetables of one tile. -/
structure TTState where
  running : Option TTable := none
  pending : Option TTable := none
  /-- Gates in force; follows TimetableEnable at the next tick (R141). -/
  gates : Bool := false
  /-- The gates that were open when they last changed (R144). -/
  mask : Nat := 0xFF
  deriving DecidableEq, Repr

/-- A watch entry (Table 10.1). -/
structure Watch where
  valid : Bool := false
  chan : Nat := 0
  bank : Nat := 0
  /-- Row number, or 8192 + spare index. -/
  row : Nat := 0
  count : Nat := 0
  word0 : Nat := 0
  bit0 : Nat := 0
  word1 : Nat := 0
  bit1 : Nat := 0
  stamp0 : Nat := 0
  stamp1 : Nat := 0
  first : Nat := 0
  deriving DecidableEq, Repr

/-- The remap table of one bank (Table 10.2): 8 entries (valid, row, spare), 16 spare states. -/
structure Remap where
  entries : List (Option (Nat × Nat)) := [none, none, none, none, none, none, none, none]
  spares : List Nat := [0, 0, 0, 0, 0, 0, 0, 0, 0, 0, 0, 0, 0, 0, 0, 0]
  deriving DecidableEq, Repr

/-- A repair migration (R276, R277): the row it moves; the new spare is chosen at its start. -/
structure Mig where
  chan : Nat
  bank : Nat
  row : Nat
  /-- Entry re-pointed, or none for a fresh remap. -/
  entry : Option Nat := none
  spare : Nat := 0
  /-- Its place in acceptance order, from the declaration of its row (R81). -/
  order : Nat := 0
  deriving DecidableEq, Repr

/-- The Blotter of one channel (R267, R268). -/
structure Blot where
  row : Nat := 0
  bank : Nat := 0
  sector : Nat := 0
  start : Nat := 0
  lastAt : Option Nat := none
  overdueLogged : Bool := false
  deriving DecidableEq, Repr

/-- Protection of one tile: the migration queue and running migrations (R276), lasting rows of the
window as (bank and row key, time) (R273), findings of the interval (R273), lane findings as
(channel, beat position, row key, time) (R272). -/
structure Prot where
  queue : List Mig := []
  running : List Mig := []
  lasting : List (Nat × Nat) := []
  /-- Retirements that wait for a copy's done report: channel, bank, row, cause (R59). -/
  retiring : List (Nat × Nat × Nat × Nat) := []
  interval : Nat := 0
  findings : Nat := 0
  rung : Bool := false
  lanes : List (Nat × Nat × Nat × Nat) := []
  deriving DecidableEq, Repr

end Sys2Proof.Machine
end

