-- ==== Sys2Proof/Machine/StateB.lean ====
section
/-! DEFINITION. The state of the compute side: Nib arrays, Slate, engines and movers, the block map. -/

namespace Sys2Proof.Machine

/-- A weight plane of an array (Table 6.1): the image a LOADW left there (R157, R193). -/
structure Plane where
  valid : Bool := false
  /-- A STREAM has used it since its LOADW. -/
  used : Bool := false
  k : Nat := 0
  n : Nat := 0
  wfmt : Nat := 0
  scheme : Nat := 0
  recipe : Nat := 0
  /-- Address operand of the image (Table 8.4). -/
  src : Nat := 0
  /-- The image bytes (R193), byte i at bits 8i. -/
  image : Nat := 0
  /-- The 2-bit residue stored beside each weight (R157, R264), that of Nib (r, j) at bits 2 (128 r + j). -/
  resid : Nat := 0
  deriving DecidableEq, Repr

/-- A descriptor fetched, in progress, or waiting to complete. -/
structure Desc where
  idx : Nat
  raw : Nat
  /-- Its address (Table 8.4). -/
  qaddr : Nat := 0
  start : Nat := 0
  startTb : Nat := 0
  started : Bool := false
  /-- Its work has ended; only DESCRIPTOR_COMPLETE is due. -/
  ended : Bool := false
  status : Nat := 0
  detail : Nat := 0
  count : Nat := 0
  /-- RETRIED, SAT, INV, OVF, UNF at bits 23 to 19 of Table 8.14. -/
  flags : Nat := 0
  /-- Its group is run again by itself (R168): it gives no record and is not counted. -/
  replay : Bool := false
  /-- Where a mover transfer issues its next request: row or piece, and byte offset in it. -/
  pos : Nat := 0
  off : Nat := 0
  /-- Bytes of a weight image or a codebook section that were taken, and those of bad words (R157, R199). -/
  data : Nat := 0
  bad : Nat := 0
  /-- The array takes the data of this LOADW (R158, R218). -/
  taking : Bool := false
  /-- No further request is issued; `status` and `detail` say why (R226, R227). What was read goes on being
  written while `cut` is 0; at 1 what is read from now on is dropped (R227), at 2 nothing is written (R226). -/
  closing : Bool := false
  cut : Nat := 0
  /-- A fill was met (R225). -/
  filled : Bool := false
  /-- Sends of a SIGNAL, and `elapsed` before which one answered RETRY is not sent again (R226, R233). -/
  sends : Nat := 0
  notBefore : Nat := 0
  /-- Order among waiting WAITs (R228). -/
  order : Nat := 0
  deriving DecidableEq, Repr

/-- The open accumulation group of an array (R159). -/
structure Group where
  a0 : Nat
  m : Nat
  cls : Nat
  /-- Columns of its rows. -/
  n : Nat := 128
  /-- INT32 accumulation; else binary32. -/
  int : Bool
  init : Nat
  fused : Bool
  recipe : Nat
  /-- Sticky saturation (R155). -/
  sat : Bool := false
  /-- Queue index of the opening LOADW (R168, R232). -/
  opening : Nat := 0
  /-- LOADWs and STREAMs of the group so far, for a retry (R168). -/
  descs : List Desc := []
  retried : Bool := false
  /-- Address of its latest STREAM descriptor. -/
  lastStream : Nat := 0
  deriving DecidableEq, Repr

/-- The STREAM in progress on an array: its descriptor bits, queue index and address, the next row to
enter, the array steps done on that row, and the plane it uses (false A, true B). -/
structure StreamRun where
  raw : Nat
  idx : Nat
  qaddr : Nat
  next : Nat := 0
  steps : Nat := 0
  planeB : Bool := false
  deriving DecidableEq, Repr

/-- One Nib array (R152 to R176). -/
structure ArrayS where
  planeA : Plane := {}
  planeB : Plane := {}
  /-- Plane of the most recent completed LOADW. -/
  lastB : Bool := false
  group : Option Group := none
  stream : Option StreamRun := none
  /-- Rows of the most recently closed group that a VOP may read (R221): a0 and count. -/
  closed : Option (Nat × Nat) := none
  /-- `elapsed` of a pre-emption request not yet answered (R173). -/
  preempt : Option Nat := none
  fenced : Bool := false
  /-- Address operands by the 40-bit device address a save header names them with (Table 6.11). -/
  sources : List (Nat × Nat) := []
  /-- `elapsed` of the last residue fault of a column, and under 128 + w of the last uncorrectable error of
  Inkwell word w (R168). -/
  faults : List (Nat × Nat) := []
  /-- Descriptors of the groups saved, by the offset of the save area, for a retry of a resumed one (R168). -/
  kept : List (Nat × List Desc) := []
  /-- The latest LOADW found bad data while a group was open, and no STREAM has shown to which group it
  belongs (R170). -/
  badLoad : Bool := false
  /-- Column-steps and row-steps of the open group: useful and all (R163). -/
  colUse : Nat := 0
  colAll : Nat := 0
  rowUse : Nat := 0
  rowAll : Nat := 0
  /-- LOADWs issued since the group was opened, or before an opening STREAM, with their queue indexes. -/
  loads : List Desc := []
  deriving DecidableEq, Repr

/-- One engine beside its dictionary objects (R207 to R233). -/
structure EngineS where
  ready : List Desc := []
  prog : List Desc := []
  /-- The state 3 to 6 it stopped in, or 0. -/
  halt : Nat := 0
  /-- State 4 or 6 to enter once nothing is in progress (R233), with its queue index and status. -/
  stopSoon : Nat := 0
  soonIdx : Nat := 0
  soonStatus : Nat := 0
  yield : Bool := false
  /-- Queue index of the stop point (R231). -/
  stopIdx : Nat := 0
  /-- The stop point belongs to an abandoned group that opened at this index (R232). -/
  abandoned : Option Nat := none
  /-- `elapsed` since which a record waits for ring space (R230). -/
  stallFrom : Option Nat := none
  /-- Queue indexes to be fetched again, and the descriptors of them fetched so far (R232). -/
  refetch : List Nat := []
  again : List Desc := []
  /-- The tile sequencer's engine-trap interrupt (R212). -/
  trapIrq : Bool := false
  deriving DecidableEq, Repr

/-- What a mover channel does a request for. -/
inductive OpUse where
  /-- Source bytes, second source bytes or codebook section of the descriptor in progress, and its output. -/
  | src | aux | book | dst
  /-- The descriptor at a queue index (R211). -/
  | fetch (idx : Nat)
  /-- The weights and the STREAM descriptor of a resumed group (R174). -/
  | weights | stream
  /-- The group of descriptors that EngineResume action 2 fetches again (R232). -/
  | rerun (idx : Nat)
  /-- The barrier of a FENCE (R228). -/
  | barrier
  deriving DecidableEq, Repr

/-- Where a request of a mover channel stands. -/
inductive OpState where
  | unsent
  | out
  /-- Answered RETRY: sent again from this `elapsed` on (R226). -/
  | retry (from_ : Nat)
  | done (status : Nat)
  deriving DecidableEq, Repr

/-- A request of a mover channel that is not done with (R208, R223). -/
structure MoverOp where
  tag : Nat
  use : OpUse
  /-- Row or piece it belongs to, and byte offset in it. -/
  unit : Nat := 0
  off : Nat := 0
  /-- Address operand (Table 8.4), bytes, direction, pass named. -/
  addr : Nat
  len : Nat
  write : Bool := false
  pass : Option Nat := none
  /-- Bytes to write or read, and those of poisoned or uncorrectable words. -/
  data : Nat := 0
  pois : Nat := 0
  at_ : OpState := .unsent
  sends : Nat := 0
  /-- The offset a completion record gives if it fails (Table 8.14). -/
  detail : Nat := 0
  /-- Place in the staging area that is kept for its data, and whether they lie there (R218). -/
  stage : Option Nat := none
  staged : Bool := false
  deriving DecidableEq, Repr

/-- A mover channel beside its dictionary objects (R208). -/
structure MoverS where
  ops : List MoverOp := []
  nextTag : Nat := 0
  deriving DecidableEq, Repr

/-- A SIGNAL on its way to another tile (R228), from engine `eng` of tile `src`. -/
structure SignalMsg where
  src : Nat
  dst : Nat
  eng : Nat
  idx : Nat
  sem : Nat
  op : Nat
  value : Nat
  bell : Nat
  deriving DecidableEq, Repr

/-- A logical entry (Table 9.2). -/
structure Entry where
  state : Nat := 0
  write : Bool := false
  busy : Bool := false
  accessed : Bool := false
  dirty : Bool := false
  tile : Nat := 0
  part : Nat := 0
  block : Nat := 0
  home : Nat := 0
  /-- Was PINNED, was FAR, before it turned RETIRED (Table 9.8). -/
  wasPinned : Bool := false
  wasFar : Bool := false
  deriving DecidableEq, Repr

/-- A pool descriptor (Table 9.3). The model's own pstate 4 is that of a block untouched since the pool
was rebuilt: clearing, or free when ClearOnFree was 0 then (R258). -/
structure PoolD where
  refs : Nat := 0
  pstate : Nat := 4
  published : Bool := false
  dirindex : Nat := 0
  forward : Bool := false
  next : Nat := 0
  /-- Partition of the release that set it clearing (R73, R247). -/
  part : Nat := 0
  /-- 1 more than the rows still to be filled by queued accesses; 0: cleared as a whole. -/
  left : Nat := 0
  deriving DecidableEq, Repr

/-- A prefix directory way (Table 9.9). -/
structure Way where
  valid : Bool := false
  key : Nat := 0
  lastHit : Nat := 0
  hits : Nat := 0
  part : Nat := 0
  block : Nat := 0
  deriving DecidableEq, Repr

/-- A space-1 request that the block map of a tile has not resolved yet, or holds (R241 to R243): the
request, whose address is given once it is resolved, its entry, byte offset in the block, and the window's
partition and write bit. -/
structure MapReq where
  req : Req
  entry : Nat
  off : Nat
  part : Nat
  canWrite : Bool
  deriving DecidableEq, Repr

/-- How the copies a request causes travel (R73, R99): in the pass tier under a pass of the tile, and the
class. -/
structure Cause where
  pass : Option Nat := none
  cls : Nat := 0
  reg : Option Nat := none
  deriving DecidableEq, Repr

inductive JobKind where
  | cow | reloc | fill | spill
  deriving DecidableEq, Repr

/-- A running copy-on-write, relocation, fill or spill of an entry (R248 to R252, R256). -/
structure MapJob where
  /-- Its number, which its requests and copies carry. -/
  id : Nat := 0
  kind : JobKind
  entry : Nat
  /-- The block read, and the tile it lies in where that is another one. -/
  src : Nat := 0
  far : Option Nat := none
  /-- The block written; none while one is awaited. -/
  dst : Option Nat := none
  /-- Granules not done. -/
  left : Nat := 0
  /-- Granules copied in their bank. -/
  rows : Nat := 0
  /-- `elapsed` at its start. -/
  started : Nat := 0
  /-- A spill for an allocation (R249). -/
  forAlloc : Bool := false
  /-- The next level's data have arrived (R251). -/
  ready : Bool := false
  /-- How its copies travel. -/
  cause : Cause := {}
  deriving DecidableEq, Repr

/-- A bookkeeping query or answer on the mesh (R415, kind 4). -/
structure Book where
  src : Nat
  dst : Nat
  /-- 1 refs + 1 (FARMAP), 2 refs - 1 (RELEASE), 3 ADOPT lookup, 4 gateway sums. -/
  kind : Nat
  /-- Block, or content key. -/
  arg : Nat
  part : Nat := 0
  /-- Answer: hit or done, the block found, the refusal reason. -/
  ok : Bool := false
  block : Nat := 0
  reason : Nat := 0
  deriving DecidableEq, Repr

/-- A MapCommand that waits (R245): the records already done, whether it has asked its partner tile or
started its spill, and the answer. -/
structure MapWait where
  raw : Nat
  done : Nat := 0
  /-- Block and detail of the last record handled (Table 9.7). -/
  block : Nat := 0
  detail : Nat := 0
  asked : Bool := false
  ans : Option Book := none
  deriving DecidableEq, Repr

/-- The block map of one tile beside its tables. -/
structure MapS where
  /-- Requests that came to the block map and are not resolved yet, oldest first. -/
  input : List MapReq := []
  /-- Held requests (R243). -/
  held : List MapReq := []
  jobs : List MapJob := []
  /-- Number of the next job. -/
  nextJob : Nat := 1
  wait : Option MapWait := none
  /-- Commands that wait for the one in progress or for the end of Hold. -/
  queue : List Nat := []
  /-- A MapSwitch accepted (R257): value, start, whether it has begun. -/
  switching : Option (Nat × Nat × Bool) := none
  /-- Blocks untouched since the rebuild are free (ClearOnFree was 0). -/
  unlistedFree : Bool := false
  /-- Next free list for ALLOC and fills (R238). -/
  hand : Nat := 0
  /-- Entries to be released when their job ends (R258). -/
  releases : List Nat := []
  deriving DecidableEq, Repr

end Sys2Proof.Machine
end

