-- ==== Sys2Proof/Machine/StateC.lean ====
section
/-! DEFINITION. The state of the device level and of each tile's management side: heat, power, the
field network, mailboxes, firmware, the Copybook, bring-up, counters, the trouble logs and ports. -/

namespace Sys2Proof.Machine

/-- Sensors of one tile (R286 to R299): 30 values in sixteenths of a degree, logic sensors 0 to 5, then
layers 0 to 23. -/
structure SensorS where
  /-- The value in use: the latest valid reading or the substitute (R287, R288). -/
  value : List Int := []
  /-- The latest valid reading; none before the first. -/
  reading : List (Option Int) := []
  /-- Consecutive samples without a valid reading, and with one. -/
  miss : List Nat := []
  good : List Nat := []
  /-- Readings at the previous rise check, and the rises of the last checks, newest first (R298). -/
  riseBase : List (Option Int) := []
  rises : List (List Int) := []
  /-- The guarantee ceiling latch (R299). -/
  ceiling : Bool := false
  /-- The band that the readings give (R289). -/
  band : Nat := 0
  /-- `elapsed` when the present RefreshBand began. -/
  bandSince : Nat := 0
  /-- u of R295 in thousandths. -/
  u : Nat := 1000
  deriving DecidableEq, Repr

/-- The Recess schedule of one channel (R291 to R294). -/
structure RecessS where
  /-- `elapsed` of the next window, once the channel has taken its offset. -/
  next : Nat := 0
  /-- The window period in force; 0 before the first window. -/
  period : Nat := 0
  /-- The window in progress: `elapsed` at its opening. -/
  openAt : Option Nat := none
  /-- 0 the acknowledged commands run out, 1 PREA sent, 2 REFs or the calibration. -/
  phase : Nat := 0
  /-- It carries a calibration. -/
  cal : Bool := false
  refsLeft : Nat := 0
  /-- Number of the next window in its interval, and REFs carried over from a calibration window. -/
  number : Nat := 0
  carried : Nat := 0
  deriving DecidableEq, Repr

/-- A load announced by a HINT (R317). -/
structure HintS where
  kind : Nat
  level : Nat
  start : Nat
  stop : Nat
  noticed : Bool := false
  deriving DecidableEq, Repr

/-- Supply and voltage of one tile (R306 to R319). Energies of consumers are lists of four: compute,
links, best-effort memory, the rest. -/
structure PowerTile where
  /-- The step the controller moves the tile to. -/
  target : Option Nat := none
  /-- A step command not yet settled: old step, new step, deadline (R306). -/
  settling : Option (Nat × Nat × Nat) := none
  /-- Step commands sent in the window (R306). -/
  stepsInWindow : Nat := 0
  /-- `elapsed` since which the present step stands (R308). -/
  stepSince : Nat := 0
  hold : Bool := false
  holdFrom : Nat := 0
  holdLow : Nat := 0
  holdRail : Nat := 0
  deferredReset : Bool := false
  /-- Cap fractions in thousandths (R315). -/
  capA : Nat := 1000
  capL : Nat := 1000
  capM : Nat := 1000
  /-- Raw estimates in fJ: the slice in progress, the last slice, the window in progress, the last window. -/
  parts : List Nat := [0, 0, 0, 0]
  lastParts : List Nat := [0, 0, 0, 0]
  winParts : List Nat := [0, 0, 0, 0]
  lastWin : List Nat := [0, 0, 0, 0]
  /-- Measured energy in pJ: the last slice, the window in progress. -/
  lastMeasured : Nat := 0
  winMeasured : Nat := 0
  /-- Loads announced (R317). -/
  hints : List HintS := []
  /-- SpeedCeiling in 1/65,536 of a thousandth; 0 before the first sample (R308). -/
  ageing : Nat := 0
  deriving DecidableEq, Repr

/-- One rail (R305, R312, R318, R420). -/
structure RailS where
  /-- `elapsed` of the last report; voltage in mV and current in mA. -/
  last : Nat := 0
  mv : Nat := 0
  ma : Nat := 0
  /-- `elapsed` at which the rail was last known below its exit level. -/
  lowAt : Option Nat := none
  /-- The command word outstanding, and those that wait (R419). -/
  outstanding : Option Nat := none
  queued : List Nat := []
  deriving DecidableEq, Repr

/-- An energy mark (R320). -/
structure Mark where
  opened : Bool := false
  part : Nat := 0
  /-- Time base and `elapsed` at the opening, DeviceEnergy then. -/
  start : Nat := 0
  from_ : Nat := 0
  energy0 : Nat := 0
  stale : Bool := false
  deriving DecidableEq, Repr

/-- The power controller (R305 to R324). -/
structure PowerDev where
  /-- Measured energies in pJ of the last 99 slices, newest first (R313). -/
  slices : List Nat := []
  /-- Energy in pJ of the window in progress, and the part of DeviceEnergy below 1 µJ. -/
  windowEnergy : Nat := 0
  carry : Nat := 0
  /-- Consecutive windows in agreement within 10 % (R311). -/
  agree : Nat := 0
  /-- Peak fractions in thousandths (R313, R315). -/
  peakA : Nat := 1000
  peakL : Nat := 1000
  peakM : Nat := 1000
  /-- A slice was limited in the window in progress, in the last window. -/
  peakNow : Bool := false
  peakLast : Bool := false
  /-- Estimated energies in fJ of partitions, and of channel queues at tile * 128 + number (R321). -/
  partEnergy : FMap Nat := []
  queueEnergy : FMap Nat := []
  /-- `elapsed` + 1 at the latest acceptance of a request of a partition (R320). -/
  partSeen : FMap Nat := []
  /-- Windows still to record for the estimator fit (R392). -/
  fitLeft : Nat := 0
  /-- A fit has been made since the estimator went stale (R311). -/
  fitted : Bool := false
  /-- Fitted factors in thousandths: 0 arrays, 1 channels, 2 SRAM and vector, 3 ports, 4 leakage. -/
  fit : FMap Nat := []
  deriving DecidableEq, Repr

/-- A source node's rights (R341). -/
structure Grant where
  node : Nat
  level : Nat
  scope : Nat
  /-- `elapsed` at the node's latest request. -/
  lease : Nat
  deriving DecidableEq, Repr

/-- A nonce handed out (R341). -/
structure Nonce where
  node : Nat
  level : Nat
  scope : Nat
  value : Nat
  expiry : Nat
  deriving DecidableEq, Repr

/-- A multi-segment transaction being received (R340). -/
structure Trans where
  node : Nat
  tag : Nat
  id : Nat
  header : Nat
  data : List Nat
  nextSeg : Nat
  lastAt : Nat
  deriving DecidableEq, Repr

/-- An answered transaction, kept 100 ms (R340): its request header and data, and the identifier,
header and data of the response. -/
structure Answered where
  node : Nat
  tag : Nat
  header : Nat
  data : List Nat
  id : Nat
  answer : Nat
  response : List Nat
  at_ : Nat
  deriving DecidableEq, Repr

/-- A CAN FD frame: identifier and data bytes. -/
structure Frame where
  id : Nat
  data : List Nat
  deriving DecidableEq, Repr

/-- The field network side of the device (R334 to R350). -/
structure FieldS where
  grants : List Grant := []
  nonces : List Nonce := []
  /-- Wrong proofs (node, elapsed) and lockouts (node, until). -/
  wrong : List (Nat × Nat) := []
  locked : List (Nat × Nat) := []
  trans : List Trans := []
  answered : List Answered := []
  /-- roll_in, asserted for at least 1 µs, as of the latest OFFER, and roll_out (R344). -/
  rollIn : Bool := false
  rollOut : Bool := false
  /-- Unconfirmed claim: address and deadline. -/
  claim : Option (Nat × Nat) := none
  /-- `elapsed` of the last EVENT per unit and bit (R347). -/
  events : List (Nat × Nat) := []
  lastBeat : Nat := 0
  busOff : Bool := false
  /-- The management unit is in reset until this `elapsed` (R349, R383). -/
  mgmtUntil : Nat := 0
  deriving DecidableEq, Repr

/-- A dictionary window (Table 13.9). -/
structure WindowS where
  request : Nat := 0
  status : Nat := 0
  data : List Nat := []
  /-- WindowRights: rights code of the latest access. -/
  rights : Nat := 0
  deriving DecidableEq, Repr

/-- A mailbox message (R353 to R356). -/
structure Msg where
  seq : Nat
  sender : Nat
  data : Nat
  post : Nat
  deriving DecidableEq, Repr

/-- An acknowledge entry (Table 14.1, AckRead). -/
structure AckE where
  seq : Nat
  data : Nat
  status : Nat
  deriving DecidableEq, Repr

/-- One direction of a mailbox pair. -/
structure MDir where
  /-- SendSlot: the staged message. -/
  staging : Nat := 0
  slots : List Msg := []
  latched : Option Msg := none
  acks : List AckE := []
  nextSeq : Nat := 0
  lastStatus : Nat := 0
  /-- RecvSlot and RecvLatch as the receiver reads them, and AckRead's latest value. -/
  recvSlot : Nat := 0
  recvLatch : Nat := 0
  ackRead : Nat := 0
  deriving DecidableEq, Repr

/-- One side's doorbell registers (R357). -/
structure Door where
  status : Nat := 0
  mask : Nat := 0xFFF
  deriving DecidableEq, Repr

/-- The segment port of one tile (R364). -/
structure SegPort where
  buffer : List Nat := []
  status : Nat := 0
  deriving DecidableEq, Repr

/-- Firmware delivery (R363 to R367). -/
structure FirmS where
  /-- Staging SRAM, segment seq at key seq: its 4,096 bytes as one number. -/
  staging : FMap Nat := []
  /-- Header fields of the staged image: count, image_bytes, version, image_crc, seq_offset, mu_bytes. -/
  header : Option Nat := none
  /-- Pieces of the segment being assembled (R364): next piece (0: none), its image and source node, and
  bytes so far. -/
  nextPiece : Nat := 0
  pieceId : Nat := 0
  pieceSrc : Nat := 0
  pieces : List Nat := []
  /-- A scheduled activation: at, image_crc, image_id (R366). -/
  scheduled : Option (Nat × Nat × Nat) := none
  /-- Flash: image header and segments; version running. -/
  flashHeader : Option Nat := none
  flashImage : FMap Nat := []
  flashWriting : Bool := false
  /-- Header of the image the processors run, and whether it was activated (R352, R366). -/
  runningHeader : Option Nat := none
  activated : Bool := false
  deriving DecidableEq, Repr

/-- A Copybook record (Table 14.5). -/
structure Record where
  seq : Nat
  kind : Nat
  key : Nat
  length : Nat
  payload : Nat
  /-- Its check at the end of Table 14.5 holds; a torn record's does not. -/
  good : Bool := true
  deriving DecidableEq, Repr

/-- One Copybook area (Table 14.4): its header generation, records in slot order, and commit. -/
structure Area where
  generation : Option Nat := none
  records : List Record := []
  committed : Bool := false
  deriving DecidableEq, Repr

/-- The Copybook (R368 to R374). -/
structure CopyS where
  areaA : Area := {}
  areaB : Area := {}
  activeB : Bool := false
  nextSeq : Nat := 0
  queue : List Record := []
  failures : Nat := 0
  compacting : Bool := false
  deriving DecidableEq, Repr

/-- Calibration of one channel (R387 to R391). A trim set is a list of 11 values: write groups 0 to 3,
command capture, read groups 0 to 3, done report, sense reference (Table 15.5). -/
structure CalS where
  /-- 0 none, 1 run A due, 2 run B due, 3 a third run due. -/
  step : Nat := 0
  runA : List (Option Nat) := []
  runB : List (Option Nat) := []
  /-- CalRequest named the channel and no calibration has started since. -/
  asked : Bool := false
  /-- Windows to pass before the window of the run. -/
  skip : Nat := 0
  /-- `elapsed` and ColumnDramMax at the last accepted calibration. -/
  lastAt : Nat := 0
  lastTemp : Int := 0
  /-- The last calibration ended suspect at this `elapsed` (R389). -/
  suspectAt : Option Nat := none
  /-- Targets of the gradual application, and `elapsed` of its last step (R390). -/
  target : List Nat := []
  lastStep : Nat := 0
  /-- The layer-side trims have not made their step yet: a bank was open (R390). -/
  layerDue : Bool := false
  deriving DecidableEq, Repr

/-- Bring-up and link check of one channel (R377 to R381). -/
structure TrainS where
  /-- 0 not begun, 1 in training, 2 in link check, 3 initialising or waiting, 4 done. -/
  step : Nat := 0
  errLane : Option Nat := none
  started : Nat := 0
  /-- The group of trims a lane replacement retrains (R380): 0 to 3 data groups, 4 command bonds. -/
  group : Option Nat := none
  /-- The controller sends nothing further since this `elapsed`, until its reports are in (R59). -/
  quiet : Option Nat := none
  /-- After a trip it owes PREA once its acknowledged commands are complete (R59). -/
  prea : Bool := false
  deriving DecidableEq, Repr

/-- Bring-up and resets (R377 to R386). -/
structure ResetS where
  phaseStart : Nat := 0
  bringupStart : Nat := 0
  /-- Path of the bring-up in progress is warm. -/
  warm : Bool := false
  /-- The stack contents are lost and phase 6 is due (R381). -/
  init : Bool := true
  /-- The stack runs SLP-2: StackInterface as in force since the last power-on or warm reset. -/
  slp2 : Bool := false
  partition : Option (Nat × Nat) := none
  deriving DecidableEq, Repr

/-- A tile's reset in progress (R383): 0 none, 1 shallow, 2 deep; its start. -/
structure TileReset where
  kind : Nat := 0
  start : Nat := 0
  deriving DecidableEq, Repr

/-- An event counted since the last tick (R396). -/
structure EvCount where
  tile : Nat
  event : Nat
  qual : Nat
  weight : Nat
  deriving DecidableEq, Repr

/-- A trouble-log entry (Table 16.5). -/
structure LogEntry where
  stamp : Nat := 0
  seq : Nat := 0
  source : Nat := 0
  cause : Nat := 0
  status : Nat := 0
  unit : Nat := 0
  detail1 : Nat := 0
  detail0 : Nat := 0
  deriving DecidableEq, Repr

/-- A pending Report Card action: value, tick, and whether the pin asked for it (R399). -/
structure CardAct where
  action : Nat
  at_ : Nat
  byPin : Bool := false
  deriving DecidableEq, Repr

/-- Counting, sampling and logging (R395 to R405). -/
structure CountS where
  /-- Events since the last tick. -/
  events : List EvCount := []
  /-- CounterFixed of a tile is elapsed / 10 + offset. -/
  fixedOff : FMap Nat := []
  /-- Loads and selections for the next tick: object key with unit, and value. -/
  loads : List (Nat × Nat) := []
  actions : List CardAct := []
  /-- The level of mgt_snap, and rising or falling edges that wait for the end of a warm reset (R427). -/
  pin : Bool := false
  pinEdges : List Bool := []
  /-- Port bytes of the window in progress: key tile * 10 + port * 2 + (0 in, 1 out) (R400). -/
  portBytes : FMap Nat := []
  /-- The window in progress was cut by a write to BandwidthWindow (R400). -/
  cutWindow : FMap Bool := []
  samples : FMap Nat := []
  /-- Countdown of precise sampling per tile (R401). -/
  countdown : FMap Nat := []
  /-- Entries of the logs: key unit * 2048 + seq mod 2048; and the intakes by unit (R403). -/
  logs : FMap LogEntry := []
  intake : FMap (List LogEntry) := []
  deriving DecidableEq, Repr

/-- Test access (R422 to R424). -/
structure TestS where
  /-- Wrapper instruction of each tile that is not WS_BYPASS. -/
  wir : FMap Nat := []
  /-- Handshake tokens released under WS_INTEST; boundary captures; march tests run. -/
  tokens : FMap Nat := []
  captures : FMap Nat := []
  marches : FMap Nat := []
  /-- Ring counts read by PACER. -/
  rings : FMap (List Nat) := []
  stack1838 : Nat := 0
  deriving DecidableEq, Repr

/-- A request to the next memory level for a spill or a fill (R249): tile, entry, node, address there,
direction, bytes, and those of bad words. -/
structure HomeMsg where
  tile : Nat
  entry : Nat
  node : Nat
  addr : Nat
  len : Nat
  write : Bool
  part : Nat
  data : Nat := 0
  pois : Nat := 0
  deriving DecidableEq, Repr

/-- What the latest command answered: the model's own record of the outputs of the block. -/
structure Out where
  status : Nat := 0
  hint : Nat := 0
  data : List Nat := []
  frames : List Frame := []
  /-- Voltage-ID command words sent (R419). -/
  vid : List Nat := []
  /-- Requests sent to the next memory level (R249). -/
  home : List HomeMsg := []
  deriving DecidableEq, Repr

end Sys2Proof.Machine
end

