-- ==== Sys2Proof/Machine/State.lean ====
section
/-! DEFINITION. The state of the block, its faults and refusals, and the state at reset. -/

namespace Sys2Proof.Machine

open Sys2Proof

/-- The whole state. Maps are keyed by numbers: a tile t by t; a channel c of tile t by t * 48 + c; a
bank b of it by (t * 48 + c) * 16 + b; an array by t * 4 + a; an engine by t * 6 + e. A dictionary
object of unit u lies at u * 2 ^ 24 + index * 256 + subindex, u = 64 being the management unit. -/
structure State where
  /-- Commands waiting, first in first out. -/
  pending : List Instr := []
  time : TimeS := {}
  /-- Values of the dictionary objects that differ from their defaults (R325, R326). -/
  dict : FMap Nat := []
  speed : FMap LayerSpeed := []
  layer : FMap LayerS := []
  bank : FMap BankS := []
  /-- 72-bit words of the layers, key ((bank key) * 8208 + row) * 256 + word (R37, R38). -/
  dram : FMap Nat := []
  queue : FMap QueueS := []
  page : FMap PageS := []
  bounce : FMap Bounce := []
  sched : FMap TileSched := []
  merge : FMap Merge := []
  asm : FMap Asm := []
  resp : FMap (List Resp) := []
  farReqs : List FarReq := []
  farResps : List FarResp := []
  /-- Responses that a mover channel or the block map of a tile has not taken yet, key tile * 256 +
  requester code. -/
  replies : FMap (List Reply) := []
  overFrom : FMap Nat := []
  /-- Generation in force of each host port, key tile * 4 + port (R407). -/
  portGen : FMap Nat := []
  /-- Tokens withheld (R21, R296, R315), key tile * 58 + stage: arrays 0 to 3, channels 4 + c, the vector
  unit 52, the best-effort FIFOs of host ports 53 + p, far best-effort requests 57. -/
  withheld : FMap Bool := []
  passes : FMap Pass := []
  adm : FMap (List AdmJob) := []
  tt : FMap TTState := []
  sampleClear : FMap Bool := []
  /-- `elapsed` + 1 of the latest periodic event of a kind, key unit * 16 + kind: the model's own record
  that it was taken at this tick. -/
  last : FMap Nat := []
  watch : FMap Watch := []
  remap : FMap Remap := []
  blot : FMap Blot := []
  prot : FMap Prot := []
  retire : FMap Nat := []
  array : FMap ArrayS := []
  /-- Inkwell accumulators, key ((tile * 4 + array) * 512 + row) * 128 + column (R162). -/
  inkwell : FMap Nat := []
  /-- Slate bytes, key tile * 2 ^ 23 + offset, and poisoned 64-bit words. -/
  slate : FMap Nat := []
  slatePois : FMap Bool := []
  engine : FMap EngineS := []
  /-- Mover channels, key tile * 12 + channel. -/
  mover : FMap MoverS := []
  /-- Bits of the 72-bit words of the SRAMs that differ from what was stored (R260), key
  (tile * 8 + SRAM) * 2 ^ 24 + word; SRAM 2 the Slate, 3 the Inkwells, 4 the block map tables, 6 the other
  tables and slots of the tile. -/
  sramErr : FMap Nat := []
  /-- Bit and time base + 1, as (time base + 1) * 128 + bit, of the latest correction of an SRAM word (R266). -/
  sramSeen : FMap Nat := []
  /-- Words by which the SRAM walk of a tile stands behind the ticks since power-on (R268). -/
  sramOff : FMap Nat := []
  /-- `elapsed` + 1 of the latest residue mismatch of a vector unit (R172). -/
  vfault : FMap Nat := []
  signals : List SignalMsg := []
  entry : FMap Entry := []
  pool : FMap PoolD := []
  way : FMap Way := []
  map : FMap MapS := []
  queries : List Book := []
  answers : List Book := []
  sensor : FMap SensorS := []
  recess : FMap RecessS := []
  ptile : FMap PowerTile := []
  rail : FMap RailS := []
  mark : FMap Mark := []
  power : PowerDev := {}
  field : FieldS := {}
  window : FMap WindowS := []
  mail : FMap MDir := []
  door : FMap Door := []
  seg : FMap SegPort := []
  firm : FirmS := {}
  copy : CopyS := {}
  cal : FMap CalS := []
  train : FMap TrainS := []
  resets : ResetS := {}
  treset : FMap TileReset := []
  count : CountS := {}
  test : TestS := {}
  out : Out := {}
  /-- The model's own counter of free values drawn; no statement rests on it. -/
  free : Nat := 0
  deriving DecidableEq, Repr

/-- Faults: none of the commands of this block ends in one, because the spec gives every event an
outcome; the constructor stands for a stop of the model itself and no command raises it (safe). -/
inductive Fault where
  | stuck
  deriving DecidableEq, Repr

/-- Refusals. -/
inductive Refusal where
  /-- A command that has no meaning yet, by its mnemonic (safe: nothing is claimed of it). -/
  | notModelled (mnemonic : String)
  deriving DecidableEq, Repr

/-- The flash a device leaves its maker with, as the model chooses it: an empty Copybook in area A, its
header and commit records of generation 0 (Table 14.6), and no firmware image. -/
def blankCopybook : CopyS :=
  { areaA := { generation := some 0, committed := true,
               records := [{ seq := 0, kind := 0x0F, key := 0, length := 4, payload := 0 },
                           { seq := 1, kind := 0x10, key := 0, length := 12, payload := 0 }] }
    nextSeq := 2 }

/-- The machine at the release of mgt_por_n (R377): every object at its default (R326), which has
bring-up in phase 1 and cause power-on, and every other part empty. -/
def State.reset : State := { copy := blankCopybook }

end Sys2Proof.Machine
end

