-- ==== Sys2Proof/Machine/Ops.lean ====
section
/-! DEFINITION. The named operations every meaning is built from: dictionary objects, parts of the
state by number, counted events, trouble-log entries, doorbells, frames and answers. -/

namespace Sys2Proof.Machine

open Sys2Proof

/-- The outcome of a command. -/
abbrev Res := Host.Outcome State Fault Refusal

/-- The state with the record of the last command's outputs cleared. -/
def fresh (s : State) : State := { s with out := {} }

/-- What the effect `r` of a command in state `s` leaves alone, said once for them all: the queue of
waiting commands, and the time, which only ticks and resets move (R22). -/
def sameTime (s r : State) : State :=
  { r with pending := s.pending, time := { r.time with timeBase := s.time.timeBase, elapsed := s.time.elapsed } }

/-- A command whose effect is `f`: it always answers a next state. -/
def run (f : State → State) (s : State) : Res := .next (sameTime s (f (fresh s)))

/-- A command that moves the time: a tick, or a reset that clears the time base (R22, R24). -/
def runTime (f : State → State) (s : State) : Res := .next { f (fresh s) with pending := s.pending }

/-! ## Status codes (Table 13.3) -/

abbrev stOk : Nat := 0x00
abbrev stRetry : Nat := 0x01
abbrev stDecodeError : Nat := 0x02
abbrev stUncorrectable : Nat := 0x03
abbrev stPoisoned : Nat := 0x04
abbrev stRefusedAdmission : Nat := 0x05
abbrev stTooLong : Nat := 0x06
abbrev stResidueFault : Nat := 0x07
abbrev stPreempted : Nat := 0x08
abbrev stResetWithdrawn : Nat := 0x09
abbrev stReceiverReset : Nat := 0x0A
abbrev stTimeout : Nat := 0x0B
abbrev stAccessDenied : Nat := 0x0C
abbrev stBadFormat : Nat := 0x0D
abbrev stSpillFill : Nat := 0x0E
abbrev stThermalTrip : Nat := 0x0F
abbrev stAtRisk : Nat := 0x10
abbrev stMissed : Nat := 0x11
abbrev stCapUnattainable : Nat := 0x12
abbrev stCalSuspect : Nat := 0x13
abbrev stBlockRetired : Nat := 0x14
abbrev stHold : Nat := 0x15
abbrev stNoSpare : Nat := 0x16
abbrev stBadImage : Nat := 0x17

/-- The unit of the management unit (R335). -/
abbrev dev : Nat := 64

/-! ## Answers -/

/-- Answer a status. -/
def answer (st : Nat) (s : State) : State := { s with out := { s.out with status := st } }

/-- Answer RETRY with a hint in ns (R430). -/
def answerHint (hint : Nat) (s : State) : State :=
  { s with out := { s.out with status := stRetry, hint := hint } }

/-- Answer OK with data bytes. -/
def answerData (d : List Nat) (s : State) : State := { s with out := { s.out with status := stOk, data := d } }

/-- Draw a free value: nothing constrains it. -/
def draw (s : State) : Nat × State := (Config.freeValue s.free, { s with free := s.free + 1 })

/-! ## Dictionary objects (R325, R326) -/

/-- The key of an object of a unit. -/
def okey (u k : Nat) : Nat := u * 2 ^ 24 + k

/-- The value of an object: its default until it is changed (R326). -/
def getObj (s : State) (u k : Nat) : Nat := fget (objDefault k) s.dict (okey u k)

/-- Set the value of an object, to the width of its type. -/
def setObj (u k v : Nat) (s : State) : State :=
  { s with dict := fset (objDefault k) s.dict (okey u k) (v % 2 ^ objBits k) }

/-- Add to a counting object; it wraps at the width of its type (DESIGN CHOICE where the spec does
not say that it saturates). -/
def bump (u k n : Nat) (s : State) : State := setObj u k (getObj s u k + n) s

/-- Add to a counting object that saturates. -/
def bumpSat (u k n : Nat) (s : State) : State :=
  setObj u k (min (getObj s u k + n) (2 ^ objBits k - 1)) s

/-- An object read as a truth value. -/
def flag (s : State) (u k : Nat) : Bool := getObj s u k ≠ 0

/-! ## Parts of the state by number -/

/-- Key of channel `c` of tile `t`. -/
def chKey (t c : Nat) : Nat := t * 48 + c
/-- Key of bank `b` of channel `c` of tile `t`. -/
def bkKey (t c b : Nat) : Nat := (t * 48 + c) * 16 + b

def getSched (s : State) (t : Nat) : TileSched := fget {} s.sched t
def modSched (t : Nat) (f : TileSched → TileSched) (s : State) : State :=
  { s with sched := fupd {} s.sched t f }
def getLayer (s : State) (t c : Nat) : LayerS := fget {} s.layer (chKey t c)
def modLayer (t c : Nat) (f : LayerS → LayerS) (s : State) : State :=
  { s with layer := fupd {} s.layer (chKey t c) f }
def getBank (s : State) (t c b : Nat) : BankS := fget .closed s.bank (bkKey t c b)
def setBank (t c b : Nat) (v : BankS) (s : State) : State :=
  { s with bank := fset .closed s.bank (bkKey t c b) v }
def getQueue (s : State) (t c : Nat) : QueueS := fget {} s.queue (chKey t c)
def modQueue (t c : Nat) (f : QueueS → QueueS) (s : State) : State :=
  { s with queue := fupd {} s.queue (chKey t c) f }
def getPage (s : State) (t c b : Nat) : PageS := fget {} s.page (bkKey t c b)
def modPage (t c b : Nat) (f : PageS → PageS) (s : State) : State :=
  { s with page := fupd {} s.page (bkKey t c b) f }
def getBounce (s : State) (t c : Nat) : Bounce := fget {} s.bounce (chKey t c)
def modBounce (t c : Nat) (f : Bounce → Bounce) (s : State) : State :=
  { s with bounce := fupd {} s.bounce (chKey t c) f }
def getMerge (s : State) (t i : Nat) : Merge := fget {} s.merge (t * 32 + i)
def setMerge (t i : Nat) (m : Merge) (s : State) : State :=
  { s with merge := fset {} s.merge (t * 32 + i) m }
def getPass (s : State) (t p : Nat) : Pass := fget {} s.passes (t * 256 + p)
def setPass (t p : Nat) (v : Pass) (s : State) : State :=
  { s with passes := fset {} s.passes (t * 256 + p) v }
def getTT (s : State) (t : Nat) : TTState := fget {} s.tt t
def modTT (t : Nat) (f : TTState → TTState) (s : State) : State := { s with tt := fupd {} s.tt t f }
def getRemap (s : State) (t c b : Nat) : Remap := fget {} s.remap (bkKey t c b)
def setRemap (t c b : Nat) (r : Remap) (s : State) : State :=
  { s with remap := fset {} s.remap (bkKey t c b) r }
def getProt (s : State) (t : Nat) : Prot := fget {} s.prot t
def modProt (t : Nat) (f : Prot → Prot) (s : State) : State := { s with prot := fupd {} s.prot t f }
def getArray (s : State) (t a : Nat) : ArrayS := fget {} s.array (t * 4 + a)
def modArray (t a : Nat) (f : ArrayS → ArrayS) (s : State) : State :=
  { s with array := fupd {} s.array (t * 4 + a) f }
def getEngine (s : State) (t e : Nat) : EngineS := fget {} s.engine (t * 6 + e)
def modEngine (t e : Nat) (f : EngineS → EngineS) (s : State) : State :=
  { s with engine := fupd {} s.engine (t * 6 + e) f }
def getMover (s : State) (t m : Nat) : MoverS := fget {} s.mover (t * 12 + m)
def modMover (t m : Nat) (f : MoverS → MoverS) (s : State) : State :=
  { s with mover := fupd {} s.mover (t * 12 + m) f }
def getEntry (s : State) (t e : Nat) : Entry := fget {} s.entry (t * 65536 + e)
def setEntry (t e : Nat) (x : Entry) (s : State) : State :=
  { s with entry := fset {} s.entry (t * 65536 + e) x }
def getPool (s : State) (t p : Nat) : PoolD := fget {} s.pool (t * 65536 + p)
def setPool (t p : Nat) (d : PoolD) (s : State) : State :=
  { s with pool := fset {} s.pool (t * 65536 + p) d }
def getMap (s : State) (t : Nat) : MapS := fget {} s.map t
def modMap (t : Nat) (f : MapS → MapS) (s : State) : State := { s with map := fupd {} s.map t f }
def getSensor (s : State) (t : Nat) : SensorS := fget {} s.sensor t
def modSensor (t : Nat) (f : SensorS → SensorS) (s : State) : State :=
  { s with sensor := fupd {} s.sensor t f }
def getRecess (s : State) (t c : Nat) : RecessS := fget {} s.recess (chKey t c)
def modRecess (t c : Nat) (f : RecessS → RecessS) (s : State) : State :=
  { s with recess := fupd {} s.recess (chKey t c) f }
def getPTile (s : State) (t : Nat) : PowerTile := fget {} s.ptile t
def modPTile (t : Nat) (f : PowerTile → PowerTile) (s : State) : State :=
  { s with ptile := fupd {} s.ptile t f }
def getRail (s : State) (r : Nat) : RailS := fget {} s.rail r
def modRail (r : Nat) (f : RailS → RailS) (s : State) : State := { s with rail := fupd {} s.rail r f }
def getCal (s : State) (t c : Nat) : CalS := fget {} s.cal (chKey t c)
def modCal (t c : Nat) (f : CalS → CalS) (s : State) : State := { s with cal := fupd {} s.cal (chKey t c) f }
def getTrain (s : State) (t c : Nat) : TrainS := fget {} s.train (chKey t c)
def modTrain (t c : Nat) (f : TrainS → TrainS) (s : State) : State :=
  { s with train := fupd {} s.train (chKey t c) f }
def getMail (s : State) (t p d : Nat) : MDir := fget {} s.mail ((t * 8 + p) * 2 + d)
def modMail (t p d : Nat) (f : MDir → MDir) (s : State) : State :=
  { s with mail := fupd {} s.mail ((t * 8 + p) * 2 + d) f }
def getDoor (s : State) (t side : Nat) : Door := fget {} s.door (t * 4 + side)
def modDoor (t side : Nat) (f : Door → Door) (s : State) : State :=
  { s with door := fupd {} s.door (t * 4 + side) f }
def getReset (s : State) (t : Nat) : TileReset := fget {} s.treset t

/-- The whole tile is in supply Hold (R319). -/
def inHold (s : State) (t : Nat) : Bool := (getPTile s t).hold

/-- A thermal trip is in force: tripped or cooling (R300, R301). -/
def tripped (s : State) : Bool := getObj s dev Obj.tripState ≠ 0

/-- The tile is in a shallow or deep reset (R383). -/
def inReset (s : State) (t : Nat) : Bool := (getReset s t).kind ≠ 0

/-- The management unit is in reset (R349, R383). -/
def mgmtDown (s : State) : Bool := decide (s.time.elapsed < s.field.mgmtUntil)

/-- The firmware runs: the management unit is not in reset and an image runs in it (R349, R367). -/
def firmwareRuns (s : State) : Bool := !mgmtDown s && s.firm.runningHeader.isSome

/-- Bit t of TestAccessState: tile t is under test (R424). -/
def underTest (s : State) (t : Nat) : Bool := bit (getObj s dev Obj.testAccessState) t

/-- ChannelState of a channel (Table 2.10): 0 untrained, 1 training, 2 ready, 3 link fault, 4 disabled. -/
def chState (s : State) (t c : Nat) : Nat := getObj s t (Obj.channelState + c)

/-- The tile took its unit address (R346). -/
def present (s : State) (t : Nat) : Bool := bit (getObj s dev Obj.unitsPresent) t

/-- The stack runs SLP-2 (StackInterface in force). -/
def slp2 (s : State) : Bool := s.resets.slp2

/-! ## Counted events and the trouble logs -/

/-- An event of Table 16.2, counted at the next tick (R396). -/
def countEv (t event qual weight : Nat) (s : State) : State :=
  if weight = 0 then s
  else { s with count := { s.count with events := s.count.events ++ [⟨t, event, qual, weight⟩] } }

/-- The dropped-entries object of the log of a unit. -/
def logDropped (u : Nat) : Nat := if u = dev then Obj.deviceLogDropped else Obj.troubleLogDropped

/-- Put an entry into the intake of a unit's trouble log; an entry that finds it full is dropped and
counted (R403). It takes its sequence number when the log takes it, at the next tick. -/
def addLog (u source cause status detail0 detail1 : Nat) (s : State) : State :=
  let q := fget [] s.count.intake u
  if q.length ≥ 64 then bump u (logDropped u) 1 s
  else
    let e : LogEntry :=
      ⟨s.time.timeBase, 0, source, cause, status, u, detail1 % 2 ^ 64, detail0 % 2 ^ 64⟩
    { s with count := { s.count with intake := fset [] s.count.intake u (q ++ [e]) } }

/-! ## Frames of the field network -/

/-- A Gnonge identifier (Table 13.5). -/
def frameId (prio kind dest src tag seg : Nat) : Nat :=
  fld 26 3 prio + fld 24 2 kind + fld 17 7 dest + fld 10 7 src + fld 4 6 tag + fld 0 4 seg

/-- A Gnonge header (Table 13.6). -/
def frameHeader (length status sub index unit op : Nat) : Nat :=
  fld 48 16 length + fld 40 8 status + fld 32 8 sub + fld 16 16 index + fld 8 8 unit + fld 0 8 op

/-- The FD data length the device sends for `n` bytes (Table 13.4). -/
def padLen (n : Nat) : Nat :=
  if n ≤ 8 then 8 else if n ≤ 16 then 16 else if n ≤ 24 then 24 else if n ≤ 32 then 32
  else if n ≤ 48 then 48 else 64

/-- Bytes padded with zeros to a data length the device sends. -/
def padFrame (d : List Nat) : List Nat := d ++ List.replicate (padLen d.length - d.length) 0

/-- Send a frame; nothing is sent while the controller is bus-off (R336). -/
def sendFrame (id : Nat) (d : List Nat) (s : State) : State :=
  if s.field.busOff then s
  else bump dev Obj.framesSent 1 { s with out := { s.out with frames := s.out.frames ++ [⟨id, padFrame d⟩] } }

/-- The node address (R345). -/
def nodeAddr (s : State) : Nat := getObj s dev Obj.nodeAddress

/-- R347: the EVENT frame of a device doorbell bit set at a unit, at most one per bit within
EventMinInterval; an unaddressed device sends none (R345). -/
def sendEvent (unit b : Nat) (s : State) : State :=
  if ¬ bit (getObj s dev Obj.fieldEventMask) b ∨ nodeAddr s = 127 then s
  else
    let last := s.field.events.find? (fun e => e.1 = unit * 16 + b)
    let tooSoon := match last with
      | some e => decide (s.time.elapsed < e.2 + getObj s dev Obj.eventMinInterval * 1000000)
      | none => false
    if tooSoon then bump dev Obj.eventsMerged 1 s
    else
      let s1 := { s with field := { s.field with
        events := (unit * 16 + b, s.time.elapsed) :: s.field.events.filter (fun e => e.1 ≠ unit * 16 + b) } }
      sendFrame (frameId (getObj s dev Obj.eventPriority) 2 (getObj s dev Obj.coordinatorNode) (nodeAddr s) 0 0)
        (leBytes 8 (frameHeader 16 0 0 0 unit 0x10) ++ leBytes 16 (s.time.timeBase * 2 ^ 64 + b)) s1

/-! ## Doorbells (R357) -/

/-- Set a doorbell bit at one side of a tile: 0 host, 1 sequencer; side 2 is the management unit. -/
def ringSide (t side b : Nat) (s : State) : State :=
  let s1 := modDoor t side (fun d => { d with status := setBit d.status b }) s
  if side = 0 then countEv t 0x0062 b 1 s1 else s1

/-- A device event of bits 2 to 11: set at the host tile processor and at the sequencer of the tile,
and sent as an EVENT (R347, R357). -/
def ring (t b : Nat) (s : State) : State := sendEvent t b (ringSide t 1 b (ringSide t 0 b s))

/-- A software bit, 16 to 31, at the host tile processor of the tile. -/
def ringHost (t b : Nat) (s : State) : State := ringSide t 0 b s

/-- Apply an operation for each of the 64 tiles. -/
def forTiles (f : Nat → State → State) (s : State) : State :=
  (List.range 64).foldl (fun s t => f t s) s

/-- Apply an operation for each of the 48 channels of a tile. -/
def forChans (f : Nat → State → State) (s : State) : State :=
  (List.range 48).foldl (fun s c => f c s) s

/-- A device bit that no single tile owns: set at every host tile processor and sequencer, sent as one
EVENT of unit 0x40 (DESIGN CHOICE). -/
def ringAll (b : Nat) (s : State) : State :=
  sendEvent dev b (forTiles (fun t s => ringSide t 1 b (ringSide t 0 b s)) s)

/-! ## Periodic events -/

/-- A periodic event of unit `u` falls at this tick: the time base is a multiple of its period (R10),
a tick has passed, and the event was not taken at this tick yet. Kinds: 0 speed window, 1 queue sample,
2 thermal sample, 3 rise check, 4 raw estimate, 5 power slice, 6 power window, 7 bandwidth window. -/
def due (s : State) (u kind period : Nat) : Bool :=
  decide (s.time.timeBase % max 1 period = 0) && decide (s.time.elapsed ≠ 0)
    && decide (fget 0 s.last (u * 16 + kind) ≠ s.time.elapsed + 1)

/-- Mark a periodic event as taken at this tick. -/
def take (u kind : Nat) (s : State) : State := { s with last := fset 0 s.last (u * 16 + kind) (s.time.elapsed + 1) }

/-! ## Kinds of writes -/

/-- Answer OK and store the value of an object. -/
def storeObj (u k v : Nat) (s : State) : State := answer stOk (setObj u k v s)

/-- Whether a value is in the range of the object's table (R327). -/
def inRange (k v : Nat) : Bool :=
  match keyDef k with
  | some d => decide (d.vmin ≤ v ∧ v ≤ d.vmax ∧ v % d.vmul = 0)
  | none => false

/-- Append an RWS write to the Copybook's queue; a full queue drops it (R328, R372). -/
def pushRecord (kind key length payload : Nat) (s : State) : State :=
  let st := getObj s dev Obj.copybookState
  if st = 2 ∨ st = 3 then s
  else if s.copy.queue.length ≥ 4096 then addLog dev 0x0B 5 stOk 0 0 s
  else { s with copy := { s.copy with
    queue := s.copy.queue ++ [{ seq := 0, kind := kind, key := key, length := length, payload := payload }] } }

/-- Record the new value of an RWS object (kind 0x01 of Table 14.6). -/
def recordObj (u k v : Nat) (s : State) : State :=
  match keyDef k with
  | some d => pushRecord 0x01 (k * 256 + u) d.len v s
  | none => s

/-- Answer OK, store an RWS object and queue its record (R328). -/
def storeRws (u k v : Nat) (s : State) : State := recordObj u k v (storeObj u k v s)

end Sys2Proof.Machine
end

