-- ==== Sys2Proof/Machine/PassWatch.lean ====
section
/-! DEFINITION. The pass watch: contract fields (Table 4.1), live passes, causes of risk (R112) and
misses (R113), and buckets (R131, R132). -/

namespace Sys2Proof.Machine

open Sys2Proof

/-! ## Contract fields (Table 4.1) -/

def cBound (c : Nat) : Nat := bits c 416 32
def cDepth (c : Nat) : Nat := bits c 384 32
def cPeak (c : Nat) : Nat := bits c 352 32
def cCommitted (c : Nat) : Nat := bits c 320 32
def cSize (c : Nat) : Nat := bits c 280 40
def cBase (c : Nat) : Nat := bits c 240 40
def cStream (c : Nat) : Nat := bits c 224 16
def cLargest (c : Nat) : Nat := bits c 212 12
def cSpread (c : Nat) : Nat := bits c 202 6
def cSource (c : Nat) : Nat := bits c 196 6
def cRequester (c : Nat) : Nat := bits c 188 8
def cPartition (c : Nat) : Nat := bits c 180 8
def cClass (c : Nat) : Nat := bits c 177 3
def cPattern (c : Nat) : Nat := bits c 175 2
def cDirection (c : Nat) : Nat := bits c 173 2

/-- The contract with another bound. -/
def withBound (c b : Nat) : Nat := c - fld 416 32 (cBound c) + fld 416 32 b

/-- The pass is a far pass of tile t (R93). -/
def isFar (t : Nat) (c : Nat) : Bool := decide (cSource c ≠ t)

/-- LIVE, AT_RISK or MISSED (Table 4.6). -/
def passLive (p : Pass) : Bool := decide (1 ≤ p.state ∧ p.state ≤ 3)

/-- The passes of a tile that are live, with their numbers. -/
def livePasses (s : State) (t : Nat) : List (Nat × Pass) :=
  (s.passes.filter (fun e => e.1 / 256 = t ∧ passLive e.2)).map (fun e => (e.1 % 256, e.2))

/-- The live far passes whose source is tile t, with owner and number. -/
def sourcedPasses (s : State) (t : Nat) : List (Nat × Nat × Pass) :=
  (s.passes.filter (fun e => e.1 / 256 ≠ t ∧ passLive e.2 ∧ cSource e.2.terms = t)).map
    (fun e => (e.1 / 256, e.1 % 256, e.2))

/-- Any pass of the device is live. -/
def anyLive (s : State) : Bool := s.passes.any (fun e => passLive e.2)

/-- The cause bits in force for a pass: those of its tile and its own (R112). -/
def causesOf (s : State) (t : Nat) (x : Pass) : Nat := getObj s t Obj.tileRiskCause ||| x.force

/-- TileRiskCause as it reads: the bits in force now for the tile and for any of its live passes (R112,
Table 4.7). -/
def tileCauseShown (s : State) (t : Nat) : Nat :=
  (livePasses s t).foldl (fun n e => n ||| e.2.force) (getObj s t Obj.tileRiskCause)

/-- detail0 of a Hall Pass log entry with cause bits `n` (Table 16.6). -/
def passDetail (p n : Nat) (x : Pass) : Nat :=
  fld 0 8 p + fld 8 16 (cStream x.terms) + fld 24 8 n + fld 32 32 (cBound x.terms)

/-- Doorbell bit at the owning tile and, for a far pass, at the source tile (R112, R113). -/
def ringPass (t b : Nat) (x : Pass) (s : State) : State :=
  if isFar t x.terms then ring (cSource x.terms) b (ring t b s) else ring t b s

/-- R112: a cause arises for one pass; from LIVE it enters AT_RISK, else its bit is set only. -/
def riskPass (t p b : Nat) (s : State) : State :=
  let x := getPass s t p
  if ¬ passLive x then s
  else
    let x1 := { x with cause := setBit x.cause b, clear := s.time.elapsed }
    if x.state = 1 then
      let x2 := { x1 with state := 2 }
      let s1 := ringPass t 3 x2 (setPass t p x2 s)
      bump t Obj.passRiskEvents 1 (addLog t 0x02 1 stAtRisk (passDetail p x2.cause x2) 0 s1)
    else setPass t p x1 s

/-- R112: a cause arises for a tile and for every live pass it owns. -/
def raiseCause (t b : Nat) (s : State) : State :=
  let s1 := setObj t Obj.tileRiskCause (setBit (getObj s t Obj.tileRiskCause) b) s
  (livePasses s1 t).foldl (fun s e => riskPass t e.1 b s) s1

/-- A cause ends for a tile: the clear interval of R114 of its passes starts. -/
def dropCause (t b : Nat) (s : State) : State :=
  if bit (getObj s t Obj.tileRiskCause) b then
    let s1 := setObj t Obj.tileRiskCause (clearBit (getObj s t Obj.tileRiskCause) b) s
    (livePasses s1 t).foldl (fun s e => setPass t e.1 { e.2 with clear := s.time.elapsed } s) s1
  else s

/-- Set or end a cause of a tile. -/
def setCause (t b : Nat) (on_ : Bool) (s : State) : State :=
  if on_ then (if bit (getObj s t Obj.tileRiskCause) b then s else raiseCause t b s) else dropCause t b s

/-- A cause in force for one pass alone arises or ends (R112, bits 0, 3 and 7). -/
def setForce (t p b : Nat) (on_ : Bool) (s : State) : State :=
  let x := getPass s t p
  if ¬ passLive x then s
  else if on_ then
    if bit x.force b then s
    else riskPass t p b (setPass t p { x with force := setBit x.force b } s)
  else if bit x.force b then
    setPass t p { x with force := clearBit x.force b, clear := s.time.elapsed } s
  else s

/-- R113: compare the latency of a conforming response with the pass's bound. The log entry carries the
bits in force at the miss, not those kept since the entry to AT_RISK, and cause 3 stands for none of them
in force (DEDUCED from "the cause bits in force"). -/
def checkMiss (t p latency : Nat) (s : State) : State :=
  let x := getPass s t p
  if ¬ passLive x then s
  else
    let s0 := setObj t (Obj.passLongest + p) (max (getObj s t (Obj.passLongest + p)) latency) s
    let bound := cBound x.terms
    if latency ≤ bound then s0
    else
      let s1 := bump t (Obj.passMissCount + p) 1 s0
      let s2 := setObj t (Obj.passWorstLateness + p)
        (max (getObj s t (Obj.passWorstLateness + p)) (latency - bound)) s1
      let x1 := { x with state := 3, clear := s.time.elapsed }
      let s3 := setPass t p x1 s2
      if x.state = 3 then s3
      else
        let s4 := ringPass t 2 x1 (bump t Obj.missedEvents 1 s3)
        let n := causesOf s t x
        addLog t 0x02 (if n = 0 then 3 else 2) stMissed (passDetail p n x1) (latency % 2 ^ 32) s4

/-! ## Buckets (R131, R132) -/

/-- The uncapped level of a bucket after the credit of tick `tick` (Table 5.2). -/
def bucketAt (b : Bucket) (credit depth tick : Nat) : Nat :=
  if tick ≤ b.stamp then b.level
  else min depth (min depth b.level + credit * (tick - b.stamp - 1)) + credit

/-- The level after the cap of R132, as an object shows it. -/
def bucketShown (b : Bucket) (credit depth tick : Nat) : Nat := min depth (bucketAt b credit depth tick)

/-- Charge a bucket at a tick. -/
def bucketCharge (b : Bucket) (credit depth tick cost : Nat) : Bucket :=
  ⟨bucketAt b credit depth tick - cost, max tick b.stamp⟩

/-- Depths of Table 5.2. -/
def commDepth (c : Nat) : Nat := 100 * cDepth c
def peakDepth (c : Nat) : Nat := 100 * cLargest c
def shareDepth (c : Nat) : Nat := 100 * cDepth c + 100 * cSpread c * cLargest c

/-- The full buckets of a pass granted at tick `tick` (R132). -/
def fullBuckets (c tick : Nat) : Bucket × Bucket × List Bucket :=
  (⟨commDepth c, tick⟩, ⟨peakDepth c, tick⟩, List.replicate 48 ⟨shareDepth c, tick⟩)

/-- Whether the committed and peak buckets and the share buckets of the channels touched can pay `b`
bytes, `bc` of them in channel `c` (R96, R97); `peak` false leaves the peak bucket out (R99). -/
def canPay (x : Pass) (tick b : Nat) (bcs : List (Nat × Nat)) (peak : Bool) : Bool :=
  let c := x.terms
  let rho := cCommitted c
  decide (100 * b ≤ bucketAt x.committed rho (commDepth c) tick)
    && (!peak || decide (100 * b ≤ bucketAt x.peak (cPeak c) (peakDepth c) tick))
    && bcs.all (fun e => decide (100 * cSpread c * e.2 ≤
        bucketAt (x.share.getD e.1 {}) rho (shareDepth c) tick))

/-- Charge them (R132). -/
def pay (x : Pass) (tick b : Nat) (bcs : List (Nat × Nat)) (peak : Bool) : Pass :=
  let c := x.terms
  let rho := cCommitted c
  { x with
    committed := bucketCharge x.committed rho (commDepth c) tick (100 * b)
    peak := if peak then bucketCharge x.peak (cPeak c) (peakDepth c) tick (100 * b) else x.peak
    share := bcs.foldl (fun sh e =>
      setNth sh e.1 (bucketCharge (sh.getD e.1 {}) rho (shareDepth c) tick (100 * cSpread c * e.2))) x.share }

/-- Free a pass: its entry is cleared, its buckets discarded (R115, R132). -/
def freePass (t p : Nat) (s : State) : State := setPass t p {} s

end Sys2Proof.Machine
end

