-- ==== Sys2Proof/Machine/Findings.lean ====
section
/-! DEFINITION. Stored words, and what a tile does with what the code finds in them: the watch, lasting
rows, migrations, retirement, lane suspicion, thresholds, write-backs (R261 to R281). -/

namespace Sys2Proof.Machine

open Sys2Proof

/-! ## Stored words -/

/-- The physical row that a row number reaches through the remap table (R274); 8192 + i is spare i. -/
def remapRow (r : Remap) (row : Nat) : Nat :=
  match r.entries.find? (fun e => match e with | some (x, _) => decide (x = row) | none => false) with
  | some (some (_, sp)) => 8192 + sp
  | _ => row

def physRow (s : State) (t c b row : Nat) : Nat := remapRow (getRemap s t c b) row

/-- Key of a word of a physical row. -/
def dramKey (t c b prow word : Nat) : Nat := (bkKey t c b * 8208 + prow) * 256 + word

/-- What an unlisted word reads as: the word every row was filled with last (R381). -/
def dramBase (s : State) (k : Nat) : Nat := (fget ({} : LayerS) s.layer (k / 256 / 8208 / 16)).base

def rawWord (s : State) (t c b prow word : Nat) : Nat :=
  fget (dramBase s (dramKey t c b prow word)) s.dram (dramKey t c b prow word)

def setRawWord (t c b prow word v : Nat) (s : State) : State :=
  { s with dram := fset (dramBase s (dramKey t c b prow word)) s.dram (dramKey t c b prow word) v }

/-- Write `n` raw words of a physical row from word `w0`. -/
def setRawWords (t c b prow : Nat) : Nat → List Nat → State → State
  | _, [], s => s
  | w0, v :: r, s => setRawWords t c b prow (w0 + 1) r (setRawWord t c b prow w0 v s)

/-- Read `n` raw words of a physical row from word `w0`. -/
def rawWords (s : State) (t c b prow w0 n : Nat) : List Nat :=
  (List.range n).map (fun i => rawWord s t c b prow (w0 + i))

/-! ## Link fault and disabling -/

/-- An access whose commands the layer has not all acknowledged (R45). `out` are the accesses of the words
not yet captured or captured with odd parity. -/
def unacknowledged (out : List Nat) (a : Acc) : Bool :=
  match a.kind with
  | .read | .fill => decide (a.stage ≠ 0) && (out.contains a.id || decide (a.sent ≠ a.done))
  | .copy _ => decide (a.stage = 1) || (decide (a.stage = 2) && out.contains a.id)
  | .write | .rmw | .writeBack | .bounceRead _ | .bounceWrite .. => decide (a.stage ≠ 0)

/-- An access back in its queue, as before its first command; its place, tier and data stay (R45). -/
def backToQueue (a : Acc) : Acc := { a with stage := 0, sent := 0, done := 0, mdata := 0, mpois := 0 }

/-- The accesses of a channel whose numbers are given return to their queues: read beats still due to them
are dropped, and a bounce copy among them starts again. -/
def returnAccs (t c : Nat) (ids : List Nat) (s : State) : State :=
  let back := fun (a : Acc) => if ids.contains a.id then backToQueue a else a
  let s1 := modQueue t c (fun q => { q with rq := q.rq.map back, wq := q.wq.map back }) s
  let s2 := modLayer t c (fun l => { l with reads := l.reads.map (fun r => match r with
    | .access i => if ids.contains i then .drop else r
    | .rmw i => if ids.contains i then .drop else r
    | _ => r) }) s1
  if ids.contains (getBounce s2 t c).acc then modBounce t c (fun _ => {}) s2 else s2

/-- The numbers of a channel's accesses that a link fault or a trip sends back to their queues. -/
def returning (s : State) (t c : Nat) : List Nat :=
  let l := getLayer s t c
  let out := (l.down ++ l.failed).map (·.acc)
  let q := getQueue s t c
  ((q.rq ++ q.wq).filter (unacknowledged out)).map (·.id)

/-- The other channels that a bounce copy of a channel touches. -/
def bouncePeers (s : State) (t c : Nat) : List Nat :=
  let q := getQueue s t c
  ((q.rq ++ q.wq).filterMap (fun a => match a.kind with
    | .bounceRead w => some w
    | .bounceWrite r _ _ => some r
    | _ => none)).filter (· ≠ c)

/-- A channel forgets the words it had not had captured, but those of `keep`; a fill pattern among them is due
again (R50). -/
def dropWords (t c : Nat) (keep : Down → Bool) (s : State) : State :=
  modLayer t c (fun l =>
    let fill := (l.down ++ l.failed).any (fun d => bits d.word 15 5 = 8)
    { l with down := l.down.filter keep, failed := l.failed.filter keep, awaits := none
             fillPending := l.fillPending || fill }) s

/-- R45, R59: what is not acknowledged goes back to the queues, with the whole of a bounce copy that also
touches another channel. -/
def unwindChannel (t c : Nat) (keep : Down → Bool) (s : State) : State :=
  let ids := returning s t c
  (c :: bouncePeers s t c).foldl (fun s x => returnAccs t x ids s) (dropWords t c keep s)

/-- The channel enters link fault (R45): counted, logged, its passes at risk (R112). The accesses whose
commands the layer had not all acknowledged return to their queues. -/
def linkFault (t c : Nat) (s : State) : State :=
  if chState s t c = 3 ∨ chState s t c = 4 then s
  else
    let s1 := setObj t (Obj.channelState + c) 3 s
    let s2 := unwindChannel t c (fun _ => false) (bump t (Obj.linkFaults + c) 1 s1)
    raiseCause t 4 (addLog t 0x01 1 stOk c 0 s2)

/-! ## Events of repair -/

/-- LastRepairEvent's value (Table 10.6). -/
def repairEvent (s : State) (cause c b row : Nat) : Nat :=
  fld 56 8 cause + fld 50 6 c + fld 46 4 b + fld 33 13 row + (s.time.timeBase / 1000000) % 2 ^ 33

/-- Record LastRepairEvent and write the trouble-log entry of its cause (Table 16.6). -/
def logRepair (t cause status c b row : Nat) (s : State) : State :=
  let ev := repairEvent s cause c b row
  addLog t 0x06 cause status ev 0 (setObj t Obj.lastRepairEvent ev s)

/-- Count a detected event against a line of the budget, 1 to 8 (R282). -/
def budget (line : Nat) (s : State) : State := bump dev (Obj.budgetEvents + (line - 1)) 1 s

/-- Queue a repair record (kind 0x02 or 0x03); RepairRecordsPending counts it until it is committed. -/
def pushRepair (t kind key len payload : Nat) (s : State) : State :=
  bumpSat t Obj.repairRecordsPending 1 (pushRecord kind key len payload s)

/-! ## Remap tables (Table 10.2) -/

/-- The 24 bytes of RemapTable. -/
def remapBits (r : Remap) : Nat :=
  let ent := (List.range 8).map (fun e => match r.entries.getD e none with
    | some (row, sp) => fld (18 * e + 17) 1 1 + fld (18 * e + 4) 13 row + fld (18 * e) 4 sp
    | none => 0)
  let sps := (List.range 16).map (fun i => fld (144 + 2 * i) 2 (r.spares.getD i 0))
  sumOf ent + sumOf sps

def remapKey (t c b : Nat) : Nat := t * 1024 + c * 16 + b

/-- The lowest free spare of a bank (R275). -/
def freeSpare (r : Remap) : Option Nat := (findAt (fun x => x = 0) 0 r.spares).map (·.1)

/-- The entry of a row. -/
def entryOf (r : Remap) (row : Nat) : Option Nat :=
  (findAt (fun e => match e with | some (x, _) => decide (x = row) | none => false) 0 r.entries).map (·.1)

/-- The lowest invalid entry. -/
def freeEntry (r : Remap) : Option Nat := (findAt (fun (e : Option (Nat × Nat)) => e.isNone) 0 r.entries).map (·.1)

/-! ## The watch (R269 to R271) -/

/-- Slot of the valid watch entry of a row. -/
def watchSlot (s : State) (t c b row : Nat) : Option Nat :=
  (s.watch.find? (fun e => e.1 / 512 = t ∧ e.2.valid ∧ e.2.chan = c ∧ e.2.bank = b ∧ e.2.row = row)).map (·.1 % 512)

def getWatch (s : State) (t i : Nat) : Watch := fget {} s.watch (t * 512 + i)
def setWatch (t i : Nat) (w : Watch) (s : State) : State := { s with watch := fset {} s.watch (t * 512 + i) w }

/-- Free the watch entry of a row. -/
def freeWatch (t c b row : Nat) (s : State) : State :=
  match watchSlot s t c b row with
  | some i => setWatch t i {} s
  | none => s

/-- The entries of a tile. -/
def watchOf (s : State) (t : Nat) : List (Nat × Watch) := s.watch.filter (fun e => e.1 / 512 = t)

/-- The lowest-numbered free slot of a tile. -/
def freeSlotFrom (used : List Nat) : Nat → Nat → Option Nat
  | 0, _ => none
  | n + 1, i => if used.contains i then freeSlotFrom used n (i + 1) else some i

/-- A slot for a new entry; with all 512 in use, the entry with the oldest newest finding is freed first. -/
def watchAlloc (t : Nat) (s : State) : Nat × State :=
  let l := watchOf s t
  match freeSlotFrom (l.map (·.1 % 512)) 512 0 with
  | some i => (i, s)
  | none =>
    match minBy (fun e => e.2.stamp0) l with
    | some e => (e.1 % 512, setWatch t (e.1 % 512) {} (bump t Obj.watchEvictions 1 s))
    | none => (0, s)

/-- WatchEntry's 32 bytes (Table 10.1). -/
def watchBits (w : Watch) : Nat :=
  if w.valid then
    fld 255 1 1 + fld 254 1 (b2n (decide (w.row ≥ 8192))) + fld 248 6 w.chan + fld 244 4 w.bank
      + fld 231 13 (if w.row ≥ 8192 then w.row - 8192 else w.row) + fld 227 4 w.count
      + fld 219 8 w.word0 + fld 212 7 w.bit0 + fld 204 8 w.word1 + fld 197 7 w.bit1
      + fld 128 64 w.stamp0 + fld 64 64 w.stamp1 + fld 0 64 w.first
  else 0

/-- FaultWindow in ns (R270). -/
def faultWindow (s : State) (t : Nat) : Nat := getObj s t Obj.faultWindow * 1000000000

/-! ## Retired rows and blocks (R255, R278) -/

def getRetire (s : State) (t i : Nat) : Nat := fget 0 s.retire (t * 1024 + i)

/-- The row is on the tile's retirement list. -/
def isRetired (s : State) (t c b row : Nat) : Bool :=
  s.retire.any (fun e => e.1 / 1024 = t ∧ bits e.2 54 6 = c ∧ bits e.2 50 4 = b ∧ bits e.2 37 13 = row)

/-- The pool of a tile: granules of a block, first band, bands, number of blocks (R235). -/
def poolG (s : State) (t : Nat) : Nat := blockGranules (getObj s t Obj.blockSize)
def poolFirst (s : State) (t : Nat) : Nat := getObj s t Obj.poolFirstBand
def poolSize (s : State) (t : Nat) : Nat := min 65536 (getObj s t Obj.poolBands * 393216 / poolG s t)

/-- pstate of a block (Table 9.3). -/
def pstateOf (s : State) (t p : Nat) : Nat :=
  let x := (getPool s t p).pstate
  if x = 4 then (if (getMap s t).unlistedFree then 0 else 3) else x

/-- LastMapEvent and its trouble-log entry (Table 9.11). -/
def mapEvent (t cause x status : Nat) (s : State) : State :=
  let ev := fld 56 8 cause + fld 40 16 x + s.time.timeBase % 2 ^ 40
  addLog t 0x05 cause status ev 0 (setObj t Obj.lastMapEvent ev s)

/-- A fresh place in acceptance order, and a fresh access number. -/
def newOrder (t : Nat) (s : State) : Nat × State :=
  ((getSched s t).nextOrder, modSched t (fun x => { x with nextOrder := x.nextOrder + 1 }) s)
def newId (t : Nat) (s : State) : Nat × State :=
  ((getSched s t).nextId, modSched t (fun x => { x with nextId := x.nextId + 1 }) s)

/-- Put work of the block map behind its ingress FIFO of its tier (R70). -/
def mapWork (t : Nat) (pass : Bool) (l : List MapItem) (s : State) : State :=
  modSched t (fun x =>
    if pass then { x with mapPass := { x.mapPass with behind := x.mapPass.behind ++ l } }
    else { x with mapBest := { x.mapBest with behind := x.mapBest.behind ++ l } }) s

/-- The fills that clear a freed block, one for each granule (R247, R73): best-effort, class 0. -/
def queueFills (t p : Nat) (s : State) : State :=
  let g := poolG s t
  mapWork t false ((List.range g).map (fun i =>
    let pl := translate (blockPlace (poolFirst s t) g p i)
    .acc pl.chan { id := 0, kind := .fill, bank := pl.bank, row := pl.row, first := true, flen := 2048
                   part := (getPool s t p).part, job := .clear p })) s

/-- Drop one reference of a block (R247): at 0 an in-use block enters clearing, or goes free at once
when ClearOnFree is 0; a retired one stays. -/
def dropRef (t p part : Nat) (s : State) : State :=
  let d := getPool s t p
  let d1 := { d with refs := d.refs - 1 }
  if d1.refs = 0 ∧ d1.pstate = 1 then
    if flag s t Obj.clearOnFree then queueFills t p (setPool t p { d1 with pstate := 3, part := part, left := poolG s t + 1 } s)
    else bump t Obj.freeBlocks 1 (setPool t p { d1 with pstate := 0, part := part } s)
  else setPool t p d1 s

/-- R255: the block that holds a retired row. -/
def retireBlock (t c b row : Nat) (s : State) : State :=
  match blockOf (poolFirst s t) (poolG s t) c b row with
  | none => s
  | some (p, _) =>
    if p ≥ poolSize s t ∨ (getPool s t p).pstate = 2 then s
    else
      let d := getPool s t p
      let wasFree := pstateOf s t p = 0
      let s1 := setPool t p { d with pstate := 2, published := false, dirindex := 0 } s
      let ways := s1.way.filter (fun e => decide (e.1 / 16384 = t ∧ e.2.block = p) && e.2.valid)
      let s2 := ways.foldl (fun s e => dropRef t p e.2.part { s with way := fset {} s.way e.1 {} }) s1
      let s3 := if wasFree then setObj t Obj.freeBlocks (getObj s2 t Obj.freeBlocks - 1) s2 else s2
      ring t 9 (mapEvent t 3 p stBlockRetired (bump t Obj.retiredBlocks 1 s3))

/-- The row is the source of a copy that is issued and not done (R59). -/
def copySource (s : State) (t c b row : Nat) : Bool :=
  let q := getQueue s t c
  (q.rq ++ q.wq).any (fun a => a.bank = b && decide (a.row = row) &&
    (match a.kind with
     | .copy _ => decide (a.stage = 2)
     | .bounceRead _ => decide (a.stage = 1 ∧ a.job ≠ .migrate)
     | _ => false))

/-- R278: retire a row, with its cause; a full list only logs NO_SPARE. A row already on the list is
not entered again; the source of a running copy is retired after its done report (R59). -/
def retireRowAt (t c b row cause : Nat) (s0 : State) : State :=
  let s := modProt t (fun p => { p with
    queue := p.queue.filter (fun m => ¬ (m.chan = c ∧ m.bank = b ∧ m.row = row)) }) s0
  if isRetired s t c b row then s
  else if copySource s t c b row then
    modProt t (fun p => { p with retiring := p.retiring ++ [(c, b, row, cause)] }) s
  else
    let n := getObj s t Obj.retiredRows
    if n ≥ 1024 then bump t Obj.retireListFull 1 (logRepair t 4 stNoSpare c b row s)
    else
      let e := fld 63 1 1 + fld 60 3 cause + fld 54 6 c + fld 50 4 b + fld 37 13 row
        + (s.time.timeBase / 1000000) % 2 ^ 37
      let s1 := { s with retire := fset 0 s.retire (t * 1024 + n) e }
      let s2 := bump t Obj.retiredRows 1 s1
      let s3 := pushRepair t 0x03 (n * 65536 + t * 1024) 8 e s2
      retireBlock t c b row (ring t 6 (logRepair t 3 stOk c b row s3))

/-- Retirements that waited for a copy in a bank to be done (R59). -/
def retirePending (t c b : Nat) (s : State) : State :=
  let mine := (getProt s t).retiring.filter (fun e => e.1 = c ∧ e.2.1 = b)
  mine.foldl (fun s e => retireRowAt t e.1 e.2.1 e.2.2.1 e.2.2.2 s)
    (modProt t (fun p => { p with retiring := p.retiring.filter (fun e => ¬ (e.1 = c ∧ e.2.1 = b)) }) s)

/-! ## Queue entries (R69, R429) -/

/-- Room for `n` more read entries of a tier and class (R69). -/
def readRoomN (s : State) (t : Nat) (q : QueueS) (pass : Bool) (cls n : Nat) : Bool :=
  let others := (q.rq.filter (fun a => ¬ a.pass)).length
  let mine := (q.rq.filter (fun a => ¬ a.pass ∧ a.cls = cls)).length
  decide (q.rq.length + n ≤ 64) && (pass || decide
    (others + n ≤ 64 - getObj s t Obj.readPassReserve ∧ mine + n ≤ getObj s t Obj.readClassLimit))

/-- Room for `n` more write entries of a tier, with no class limit for work of no class (R429). -/
def writeRoomOf (s : State) (t : Nat) (q : QueueS) (pass : Bool) (cls : Option Nat) (n : Nat) : Bool :=
  let others := (q.wq.filter (fun a => ¬ a.pass)).length
  let mine := (q.wq.filter (fun a => ¬ a.pass ∧ some a.cls = cls ∧ a.kind ≠ .writeBack)).length
  decide (q.wq.length + n ≤ 48) && (pass || (decide (others + n ≤ 48 - getObj s t Obj.writePassReserve)
    && (cls.isNone || decide (mine + n ≤ getObj s t Obj.writeClassLimit))))

def writeRoomN (s : State) (t : Nat) (q : QueueS) (pass : Bool) (cls n : Nat) : Bool :=
  writeRoomOf s t q pass (some cls) n

/-- The read entry of a bounce copy, from its write entry in channel `c`. -/
def bounceTwin (c : Nat) (a : Acc) : Option (Nat × Acc) :=
  match a.kind with
  | .bounceWrite r b row => some (r, { a with kind := .bounceRead c, bank := b, row := row, prow := none })
  | _ => none

/-- An access that enters through no ingress FIFO, or a copy or fill of the block map, can have every entry
it needs: a bounce copy one of each direction (R68). -/
def entryRoom (s : State) (t c : Nat) (a : Acc) : Bool :=
  let pass := a.pass || decide (a.promo = 0)
  let cls := if a.kind == .writeBack || a.job == .migrate then none else some a.cls
  writeRoomOf s t (getQueue s t c) pass cls 1 &&
    (match bounceTwin c a with
     | some (r, _) => if cls.isNone then decide ((getQueue s t r).rq.length < 64)
         else readRoomN s t (getQueue s t r) pass a.cls 1
     | none => true)

/-- Give an access its entries. -/
def takeEntry (t c : Nat) (a : Acc) (s : State) : State :=
  let s1 := modQueue t c (fun q => { q with wq := q.wq ++ [a] }) s
  match bounceTwin c a with
  | some (r, b) => modQueue t r (fun q => { q with rq := q.rq ++ [b] }) s1
  | none => s1

/-- Work that enters without an ingress FIFO (R429): entries if they are free, else it waits outside. -/
def enterDirect (t c : Nat) (a : Acc) (s : State) : State :=
  if entryRoom s t c a then takeEntry t c a s
  else modQueue t c (fun q => { q with deferred := q.deferred ++ [a] }) s

/-! ## Migrations (R276, R277) -/

/-- A migration runs in the channel. -/
def migrating (s : State) (t c : Nat) : Bool := (getProt s t).running.any (fun m => m.chan = c)

/-- The row is under migration (R276). -/
def rowHeld (s : State) (t c b row : Nat) : Bool :=
  (getProt s t).running.any (fun m => m.chan = c ∧ m.bank = b ∧ m.row = row)

/-- An in-bank or bounce copy from the row is issued and not yet done (R59, R283). -/
def copyRuns (s : State) (t c b : Nat) : Bool :=
  match getBank s t c b with
  | .busy 5 => true
  | _ => false

/-- The bounce copy of a migration (R73, R276): pass tier, charged to no class, in the migration's place. -/
def startCopy (t : Nat) (m : Mig) (s : State) : State :=
  let (i, s1) := newId t s
  let a : Acc := { id := i, kind := .bounceWrite m.chan m.bank m.row, order := m.order, bank := m.bank
                   row := m.row, prow := some (8192 + m.spare), frag := i * 2, pass := true
                   stamp := s.time.timeBase, job := .migrate }
  enterDirect t m.chan a (modProt t (fun p => { p with running := p.running ++ [m] }) s1)

/-- Start the oldest waiting migration of each channel that runs none, unless the tile is in Hold or
tripped; a row with no spare or entry left is retired (R276 to R278, R283). -/
def startMigrations : Nat → Nat → State → State
  | 0, _, s => s
  | fuel + 1, t, s =>
    if inHold s t ∨ tripped s ∨ inReset s t then s
    else
      match (getProt s t).queue.find? (fun m => ¬ migrating s t m.chan ∧ ¬ copyRuns s t m.chan m.bank) with
      | none => s
      | some m =>
        let r := getRemap s t m.chan m.bank
        let s1 := modProt t (fun p => { p with queue := removeFirst (fun x => x == m) p.queue }) s
        match freeSpare r, entryOf r m.row, freeEntry r with
        | some sp, some e, _ => startMigrations fuel t (startCopy t { m with entry := some e, spare := sp } s1)
        | some sp, none, some _ => startMigrations fuel t (startCopy t { m with entry := none, spare := sp } s1)
        | none, _, _ => startMigrations fuel t (retireRowAt t m.chan m.bank m.row 1 s1)
        | some _, none, none => startMigrations fuel t (retireRowAt t m.chan m.bank m.row 2 s1)

/-- A row (or free spare) has become lasting (R270): bank fault (R273), report only (R279), a bad spare
(R275), or a migration (R276, R277). -/
def lastingRow (t c b row : Nat) (s : State) : State :=
  let now := s.time.timeBase
  let w := faultWindow s t
  let key := (c * 16 + b) * 16384 + row
  let keep := (getProt s t).lasting.filter (fun e => now ≤ e.2 + w)
  let l := keep.filter (fun e => e.1 ≠ key) ++ [(key, now)]
  let n := (l.filter (fun e => e.1 / 16384 = c * 16 + b)).length
  let s1 := modProt t (fun p => { p with lasting := l }) s
  let s2 := if n = getObj s t Obj.bankFaultRows ∧ ¬ keep.any (fun e => e.1 = key) then
      logRepair t 5 stOk c b (if row ≥ 8192 then row - 8192 else row)
        (ring t 6 (bump t Obj.bankFaults 1 s1))
    else s1
  if row ≥ 8192 then
    let r := getRemap s2 t c b
    if r.spares.getD (row - 8192) 0 = 0 then
      let s3 := setRemap t c b { r with spares := setNth r.spares (row - 8192) 2 } s2
      let s4 := bump t Obj.sparesBad 1 (setObj t Obj.sparesFree (getObj s3 t Obj.sparesFree - 1) s3)
      freeWatch t c b row s4
    else s2
  else if getObj s t Obj.repairMode = 1 then
    let d1 := match watchSlot s2 t c b row with
      | some i => watchBits (getWatch s2 t i) / 2 ^ 192
      | none => 0
    let ev := repairEvent s2 8 c b row
    addLog t 0x06 11 stOk ev d1 (setObj t Obj.lastRepairEvent ev s2)
  else if isRetired s2 t c b row ∨ rowHeld s2 t c b row
      ∨ (getProt s2 t).queue.any (fun m => m.chan = c ∧ m.bank = b ∧ m.row = row) then s2
  else if (getProt s2 t).queue.length ≥ 16
      ∧ (migrating s2 t c ∨ copyRuns s2 t c b ∨ inHold s2 t ∨ tripped s2 ∨ inReset s2 t) then s2
  else
    let (o, s3) := newOrder t s2
    startMigrations 20 t (modProt t (fun p =>
      { p with queue := p.queue ++ [{ chan := c, bank := b, row := row, order := o }] }) s3)

/-! ## Findings -/

/-- The interval count of R273: `n` corrected findings. -/
def countFindings (t n : Nat) (s : State) : State :=
  let len := getObj s t Obj.correctableInterval * 1000000000
  let iv := s.time.timeBase / len
  let p := getProt s t
  let p1 := if p.interval = iv then p else { p with interval := iv, findings := 0, rung := false }
  let p2 := { p1 with findings := p1.findings + n }
  if p2.findings > getObj s t Obj.correctableThreshold ∧ ¬ p2.rung then
    logRepair t 7 stOk 0 0 0 (ring t 6 (modProt t (fun _ => { p2 with rung := true }) s))
  else modProt t (fun _ => p2) s

/-- R272: the lane suspicion test for a finding; true when the finding is attributed to a lane. -/
def laneCheck (t c b row word bitn : Nat) (s : State) : Bool × State :=
  let now := s.time.timeBase
  let pos := (word % 2) * 72 + bitn
  let p := getProt s t
  let l := (p.lanes.filter (fun e => now ≤ e.2.2.2 + 1000000000)) ++ [(c, pos, b * 16384 + row, now)]
  let mine := l.filter (fun e => e.1 = c ∧ e.2.1 = pos)
  let rows := (mine.map (fun e => e.2.2.1)).eraseDups.length
  let s1 := modProt t (fun p => { p with lanes := l }) s
  if mine.length ≥ getObj s t Obj.laneSuspectLimit ∧ rows ≥ 4 then
    let s2 := modProt t (fun p => { p with lanes := l.filter (fun e => ¬ (e.1 = c ∧ e.2.1 = pos)) }) s1
    let s3 := bump t Obj.laneSuspects 1 s2
    let s4 := logRepair t 6 stOk c b row s3
    -- R271: entries of the channel whose findings all lie on the lane are freed
    let onLane := fun (w : Watch) => w.valid ∧ w.chan = c ∧ (w.word0 % 2) * 72 + w.bit0 = pos ∧
      (w.count ≤ 1 ∨ (w.word1 % 2) * 72 + w.bit1 = pos)
    let s5 := { s4 with watch := s4.watch.filter (fun e => ¬ (e.1 / 512 = t ∧ onLane e.2)) }
    let lane := if pos % 72 < 64 then (pos / 72) * 64 + pos % 72 else 128 + (pos / 72) * 8 + (pos % 72 - 64)
    let s6 := modTrain t c (fun x => { x with errLane := some lane }) s5
    (true, if migrating s6 t c then s6 else linkFault t c s6)
  else (false, s1)

/-- A write-back of the sector is queued or waiting and corrects that word. -/
def wbQueued (s : State) (t c b row word : Nat) : Bool :=
  let q := getQueue s t c
  (q.wq ++ q.deferred).any (fun a => a.kind == .writeBack ∧ a.bank = b ∧ a.row = row
    ∧ a.sector = word / 4 ∧ bit a.mask (word % 4))

/-- R269, R270: enter a corrected finding of a word and bit of a row (or free spare) in the watch. -/
def watchFinding (t c b row word bitn : Nat) (queued : Bool) (s : State) : State :=
  let now := s.time.timeBase
  let w := faultWindow s t
  let (lane, s0) := laneCheck t c b row word bitn s
  match watchSlot s0 t c b row with
  | some i =>
    let e := getWatch s0 t i
    if e.word0 = word ∧ e.bit0 = bitn ∧ queued then s0
    else
      let same := (e.word0 = word ∧ e.bit0 = bitn ∧ now ≤ e.stamp0 + w)
        ∨ (e.count ≥ 2 ∧ e.word1 = word ∧ e.bit1 = bitn ∧ now ≤ e.stamp1 + w)
      let three := e.count ≥ 2 ∧ now ≤ e.stamp1 + w
      let e1 : Watch := { e with
        count := min 15 (e.count + 1), word0 := word, bit0 := bitn, word1 := e.word0, bit1 := e.bit0
        stamp0 := now, stamp1 := e.stamp0 }
      let s1 := setWatch t i e1 s0
      if ¬ lane ∧ (same ∨ three) then lastingRow t c b row s1 else s1
  | none =>
    if lane then s0
    else
      let (i, s1) := watchAlloc t s0
      setWatch t i { valid := true, chan := c, bank := b, row := row, count := 1,
                     word0 := word, bit0 := bitn, stamp0 := now, first := now } s1

/-- R281: the first finding of an uncorrectable word of DRAM. -/
def uncorrectableWord (t c b row word : Nat) (s : State) : State :=
  let watched := (watchSlot s t c b row).isSome
  let s1 := bump t (Obj.uncorrectableWords + c) 1 s
  let (fv, s1b) := draw s1
  let addr := if row < 8192 then devAddr t (untranslate c b row (word * 8)) else fv % 2 ^ 40
  let s1c := if row < 8192 then s1 else s1b
  let lu := fld 56 8 1 + s.time.timeBase % 2 ^ 48
  let s2 := setObj t Obj.lastUncorrectable lu (setObj t Obj.lastUncorrectableAddress addr s1c)
  let s3 := budget (if watched then 2 else 1) (addLog t 0x06 8 stUncorrectable lu addr (ring t 7 s2))
  lastingRow t c b row s3

/-! ## Write-backs (R265, R281, R429) -/

/-- Queue the write-back of a sector with the given data words and poison, correcting the words of `mask`,
in the tier of the access `by_` that found it and in its place, so that no write accepted after that read
goes first (R73, R265). A write-back already waiting for the sector takes the words over. -/
def queueWriteBack (t c b row sector data pois mask : Nat) (by_ : Acc) (s : State) : State :=
  let q := getQueue s t c
  let isIt := fun (a : Acc) => a.kind == .writeBack ∧ a.bank = b ∧ a.row = row ∧ a.sector = sector ∧ a.stage = 0
  let more := fun (a : Acc) => if isIt a then
    { a with data := data, pois := pois, mask := a.mask ||| mask, low := a.low && by_.low
             pass := a.pass || by_.pass, ofPass := if by_.pass then by_.ofPass else a.ofPass
             order := min a.order by_.order } else a
  if q.wq.any (fun a => isIt a) ∨ q.deferred.any (fun a => isIt a) then
    modQueue t c (fun q => { q with wq := q.wq.map more, deferred := q.deferred.map more }) s
  else
    let (i, s2) := newId t s
    enterDirect t c { id := i, kind := .writeBack, order := by_.order, bank := b, row := row, sector := sector,
                      frag := i * 2, data := data, pois := pois, mask := mask, pass := by_.pass, ofPass := by_.ofPass
                      promo := by_.promo, low := by_.low, reg := by_.reg, stamp := s.time.timeBase } s2

/-- What a read of stored words by an access found, beside its data. -/
structure Found where
  /-- Data of the words, word i at bits 64 i. -/
  data : Nat := 0
  /-- Bit i: word i is delivered poisoned. -/
  bad : Nat := 0
  /-- Words found uncorrectable for the first time, and corrected words. -/
  first : Nat := 0
  corrected : Nat := 0
  deriving DecidableEq, Repr

/-- Class every word of a list (R261). -/
def findWords : List Nat → Nat → Found → Found
  | [], _, f => f
  | w :: r, i, f =>
    let f1 := { f with data := f.data + wordData w * 2 ^ (64 * i) }
    let f2 := match classify w with
      | .good => f1
      | .corrected _ => { f1 with corrected := setBit f1.corrected i }
      | .poisoned => { f1 with bad := setBit f1.bad i }
      | .uncorrectable => { f1 with bad := setBit f1.bad i, first := setBit f1.first i }
    findWords r (i + 1) f2

/-- The bit a corrected word was corrected at. -/
def correctedBit (w : Nat) : Nat := match classify w with | .corrected i => i | _ => 0

/-- Report every corrected and uncorrectable word of a read of `words` from word `w0` of a row: the
counts of Table 10.6, the watch, lasting rows (PoisonedReads counts reads, in `afterRead`). `queued` says of
each word whether its write-back was queued before this read. Findings in a row under migration are not
counted when the Blotter made them, nor a second finding of a word in one tick (R283). -/
def reportWords (t c b row w0 : Nat) (scrub : Bool) : List Nat → List Bool → Nat → State → State
  | [], _, _, s => s
  | w :: r, queued, i, s =>
    let s1 := match classify w with
      | .good => s
      | .corrected k =>
        let again : Bool := match watchSlot s t c b row with
          | some j =>
            let e := getWatch s t j
            decide (e.word0 = w0 + i ∧ e.bit0 = k ∧ e.stamp0 = s.time.timeBase)
          | none => false
        if (scrub ∧ rowHeld s t c b row) ∨ again then s
        else
          let sA := if scrub then bump t (Obj.correctedScrub + c) 1 s else bump t (Obj.correctedReads + c) 1 s
          watchFinding t c b row (w0 + i) k (queued.headD false) (countFindings t 1 (countEv t 0x000B c 1 sA))
      | .poisoned => s
      | .uncorrectable => uncorrectableWord t c b row (w0 + i) s
    reportWords t c b row w0 scrub r (queued.drop 1) (i + 1) s1

/-- Write-backs of the sectors of a read that found something to correct or poison (R265, R281). -/
def writeBackSectors (t c b row w0 : Nat) (by_ : Acc) (f : Found) : List Nat → State → State
  | [], s => s
  | j :: r, s =>
    let m := (f.corrected ||| f.first) / 2 ^ (4 * j) % 16
    let s1 := if m = 0 then s
      else queueWriteBack t c b row ((w0 + 4 * j) / 4) (f.data / 2 ^ (256 * j) % 2 ^ 256) (f.bad / 2 ^ (4 * j) % 16)
        m by_ s
    writeBackSectors t c b row w0 by_ f r s1

/-- Everything a read of whole sectors by access `by_` causes beside its data: write-backs, then reports;
`wb` false for the read of a read-modify-write, whose own write stores the corrections (R265). -/
def afterRead (t c b row w0 : Nat) (by_ : Acc) (wb : Bool) (words : List Nat) (f : Found) (s : State) : State :=
  let queued := (List.range words.length).map (fun i => wbQueued s t c b row (w0 + i))
  let s1 := if wb then writeBackSectors t c b row w0 by_ f (List.range (words.length / 4)) s else s
  let s2 := if words.any (fun w => classify w == .poisoned) then bump t (Obj.poisonedReads + c) 1 s1 else s1
  reportWords t c b row w0 by_.low words queued 0 s2

/-- A write accepted now that covers whole words `mask` of a sector: write-backs it supersedes are
dropped and counted (R265). -/
def supersede (t c b row sector mask : Nat) (s : State) : State :=
  let cut := fun (a : Acc) =>
    if a.kind == .writeBack ∧ a.bank = b ∧ a.row = row ∧ a.sector = sector ∧ a.stage = 0
    then { a with mask := maskOff a.mask mask } else a
  let dead := fun (a : Acc) => decide (a.kind = .writeBack ∧ a.stage = 0 ∧ a.mask = 0)
  let q := getQueue s t c
  let wq := q.wq.map cut
  let df := q.deferred.map cut
  let n := (wq.filter dead).length + (df.filter dead).length
  if n = 0 then modQueue t c (fun q => { q with wq := wq, deferred := df }) s
  else bump t (Obj.writeBacksSuperseded + c) n
    (modQueue t c (fun q => { q with wq := wq.filter (fun a => !dead a), deferred := df.filter (fun a => !dead a) }) s)

end Sys2Proof.Machine
end

