-- ==== Sys2Proof/Machine/Sample.lean ====
section
/-! DEFINITION. Port byte counts (R400) and precise sampling (R401, R402). -/

namespace Sys2Proof.Machine

open Sys2Proof

/-- The counters are frozen (R399). -/
def frozen (s : State) : Bool := flag s dev Obj.reportCardFrozen

/-- R400: count data bytes of a port, 0 to 3 host and 4 gateway, in or out. -/
def portCount (t p : Nat) (out : Bool) (n : Nat) (s : State) : State :=
  if n = 0 then s
  else
    let s1 := { s with count := { s.count with
      portBytes := fupd 0 s.count.portBytes (t * 10 + p * 2 + b2n out) (· + n) } }
    let s2 := if frozen s then s1 else bump t (Obj.portBytesTotal + p) n s1
    countEv t (if out then 0x0051 else 0x0050) p n s2

/-- Fields of PreciseSampleControl (Table 16.3). -/
def smInterval (v : Nat) : Nat := bits v 48 16
def smStop (v : Nat) : Bool := bit v 9
def smEnable (v : Nat) : Bool := bit v 8

/-- R401: whether an event passes every filter; `kind` 1 request, 2 descriptor. -/
def smEligible (v kind requester part latency : Nat) : Bool :=
  smEnable v && bit (bits v 10 2) (kind - 1)
    && (bits v 24 8 = 0xFF || bits v 24 8 = requester)
    && (bit v 15 || bits v 16 8 = part)
    && decide (bits v 32 16 * 10 ≤ latency)

/-- A sample record (Table 16.4). -/
def smRecord (stamp latency addr tag requester pass part cls tier page : Nat) (write : Bool)
    (len chan source opcode kind status flags : Nat) : Nat :=
  fld 192 64 stamp + fld 160 32 latency + fld 112 48 addr + fld 96 16 tag + fld 88 8 requester
    + fld 80 8 pass + fld 72 8 part + fld 69 3 cls + fld 67 2 tier + fld 65 2 page + fld 64 1 (b2n write)
    + fld 52 12 len + fld 46 6 chan + fld 40 6 source + fld 32 8 opcode + fld 24 8 kind
    + fld 16 8 status + fld 8 8 flags

/-- R401, R402: an event offered to precise sampling. The LFSR's draw is a free value within its
bounds. -/
def smEvent (t kind requester part latency record : Nat) (s : State) : State :=
  let v := getObj s t Obj.preciseSampleControl
  if ¬ smEligible v kind requester part latency then s
  else
    let s1 := bump t Obj.preciseEligible 1 s
    let left := fget 0 s1.count.countdown t
    if left > 1 then { s1 with count := { s1.count with countdown := fset 0 s1.count.countdown t (left - 1) } }
    else
      let (x, s2) := draw s1
      let n := smInterval v
      let k := getObj s2 t Obj.preciseSampleCount
      let s3 := { s2 with count := { s2.count with
        countdown := fset 0 s2.count.countdown t (n - x % (n / 16 + 1))
        samples := fset 0 s2.count.samples (t * 4096 + k % 4096) record } }
      let s4 := bump t Obj.preciseSampleCount 1 s3
      if smStop v ∧ k + 1 ≥ 4096 then setObj t Obj.preciseSampleControl (clearBit v 8) s4 else s4

end Sys2Proof.Machine
end

