-- ==== Sys2Proof/Machine/Gates.lean ====
section
/-! DEFINITION. Timetables: windows of a class and the gates in force (R139 to R145), regulators and
their budgets (R127 to R130). -/

namespace Sys2Proof.Machine

open Sys2Proof

/-! ## Lists (Table 5.3) -/

def ttDuration (e : Nat) : Nat := bits e 8 32
def ttGate (e k : Nat) : Bool := bit e k

/-- R139: the cycle, the sum of the durations. -/
def ttCycle (l : List Nat) : Nat := sumOf (l.map ttDuration)

/-- The longest run of consecutive entries whose gate of class k is `b`: best so far, run in progress. -/
def ttRun (k : Nat) (b : Bool) (l : List Nat) : Nat :=
  (l.foldl (fun (acc : Nat × Nat) e =>
    if ttGate e k = b then (max acc.1 (acc.2 + ttDuration e), acc.2 + ttDuration e) else (acc.1, 0)) (0, 0)).1

/-- R142: the longest run of entries with the gate `b`, across the end of the cycle; the whole cycle
where every entry has it. -/
def ttLongest (l : List Nat) (k : Nat) (b : Bool) : Nat :=
  if l.all (fun e => ttGate e k == b) then ttCycle l else ttRun k b (l ++ l)

/-- R142: ClassLongestWindow; 0xFFFF_FFFF for a class open in every entry. -/
def ttWindow (l : List Nat) (k : Nat) : Nat :=
  if l.all (fun e => ttGate e k) then 0xFFFFFFFF else ttLongest l k true

/-- C_k (R107): the longest interval during which the gate of class k is closed. -/
def ttClosed (l : List Nat) (k : Nat) : Nat :=
  if l.all (fun e => ttGate e k) then 0 else ttLongest l k false

/-- o_k as open time and cycle (R107). -/
def ttOpen (l : List Nat) (k : Nat) : Nat × Nat :=
  (sumOf ((l.filter (fun e => ttGate e k)).map ttDuration), ttCycle l)

/-- R140: the phase of a list at a time-base value. -/
def ttPhase (l : TTable) (now : Nat) : Nat :=
  let c := ttCycle l.entries
  if c = 0 then 0 else (((now : Int) - l.start) % c).toNat

/-- The entry that holds a phase, and the time left in it. -/
def ttEntryAt : List Nat → Nat → Nat × Nat
  | [], _ => (0xFF, 0)
  | e :: r, ph => if ph < ttDuration e then (e, ttDuration e - ph) else ttEntryAt r (ph - ttDuration e)

/-- Time until the gate of class k closes, from an open phase. -/
def ttUntilClose (k : Nat) : List Nat → Nat → Nat
  | [], _ => 0
  | e :: r, ph =>
    if ph ≥ ttDuration e then ttUntilClose k r (ph - ttDuration e)
    else if ttGate e k then ttDuration e - ph + ttUntilClose k r 0
    else 0

/-- The list whose gates are in force: a running list while TimetableEnable holds (R141). -/
def ttInForce (s : State) (t : Nat) : Option TTable :=
  if (getTT s t).gates then (getTT s t).running else none

/-- R140: the mask of open gates now. -/
def gateMask (s : State) (t : Nat) : Nat :=
  match ttInForce s t with
  | some l => (ttEntryAt l.entries (ttPhase l s.time.timeBase)).1 % 256
  | none => 0xFF

/-- R142: the values the objects show for the gates in force. -/
def ttShownClosed (s : State) (t k : Nat) : Nat :=
  match ttInForce s t with | some l => ttClosed l.entries k | none => 0
def ttShownOpen (s : State) (t k : Nat) : Nat :=
  match ttInForce s t with
  | some l => (ttOpen l.entries k).1 * 1000000 / max 1 (ttOpen l.entries k).2
  | none => 1000000
def ttShownWindow (s : State) (t k : Nat) : Nat :=
  match ttInForce s t with | some l => ttWindow l.entries k | none => 0xFFFFFFFF

/-- R143: the occupancy of a fragment of `len` bytes at a floor in thousandths. -/
def occupancy (floor len : Nat) : Nat := ceilDiv ((1536 + len) * 1000) (320 * floor) * 10

/-- R143: a fragment of a class whose gate is open fits at the present time. -/
def ttFits (s : State) (t k len : Nat) : Bool :=
  let need := occupancy (getObj s t Obj.guaranteeFloor) len + 10
  let now := s.time.timeBase
  let closing := match ttInForce s t with
    | none => true
    | some l =>
      if l.entries.all (fun e => ttGate e k) then true
      else decide (need ≤ ttUntilClose k (l.entries ++ l.entries) (ttPhase l now))
  let noStart := match (getTT s t).pending with
    | some p => decide (now + need < p.start) || !(getTT s t).gates
    | none => true
  closing && noStart

/-- R145: a fragment of `len` bytes is longer than every window of its class in the running list; no
request is refused while TimetableEnable is 0. -/
def ttTooLong (s : State) (t k len : Nat) : Bool :=
  match (getTT s t).running with
  | none => false
  | some l =>
    flag s t Obj.timetableEnable && (l.entries.all (fun e => !ttGate e k) ||
      !(l.entries.all (fun e => ttGate e k)) &&
        decide (occupancy (getObj s t Obj.guaranteeFloor) len + 10 > ttLongest l.entries k true))

/-! ## Range registers (Table 5.1) -/

def rrEnable (v : Nat) : Bool := bit v 33
def rrRead (v : Nat) : Bool := bit v 34
def rrWrite (v : Nat) : Bool := bit v 35
def rrNear (v : Nat) : Nat := bits v 36 5
def rrFar (v : Nat) : Nat := bits v 41 2
def rrClass (v : Nat) : Nat := bits v 43 3
def rrPart (v : Nat) : Nat := bits v 46 8
def rrBase (v : Nat) : Nat := bits v 54 23
def rrLimit (v : Nat) : Nat := bits v 77 23
def rrOutstanding (v : Nat) : Nat := bits v 100 16

def rangeReg (s : State) (t i : Nat) : Nat := getObj s t (Obj.rangeRegister + i)

/-- R123: the lowest-numbered enabled register whose span holds a granule. -/
def matchRange (s : State) (t g : Nat) : Option Nat :=
  (List.range 16).find? (fun i =>
    let v := rangeReg s t i
    rrEnable v && decide (rrBase v ≤ g ∧ g ≤ rrLimit v))

/-- The tile belongs to a partition (R121). -/
def inPartition (s : State) (p t : Nat) : Bool :=
  if p = 0 then true else bit (getObj s dev (Obj.partitionTiles + (p - 1))) t

/-- R123: a register permits a requester; `far` names the source tile of a far request. -/
def rrPermits (s : State) (v : Nat) (far : Option Nat) (requester : Nat) : Bool :=
  match far with
  | some src =>
    if rrFar v = 1 then inPartition s (rrPart v) src else rrFar v = 2
  | none => if requester ≥ 0x10 then bit (rrNear v) 4 else bit (rrNear v) requester

/-- The regulator that serves the pair of an enabled register (R127). -/
def pairRegulator (s : State) (t i : Nat) : Nat :=
  let v := rangeReg s t i
  ((List.range 16).find? (fun j =>
    let w := rangeReg s t j
    rrEnable w && rrPart w = rrPart v && rrClass w = rrClass v)).getD i

/-! ## Regulators (R127 to R130) -/

def regBudget (s : State) (t r : Nat) : Nat :=
  if r = 16 then getObj s t Obj.defaultOutstandingLimit else rrOutstanding (rangeReg s t r)

def regCount (s : State) (t r : Nat) : Nat := getObj s t (Obj.regulatorOutstanding + r)

/-- The count exceeds the budget. -/
def overBudget (s : State) (t r : Nat) : Bool := decide (regBudget s t r < regCount s t r)

/-- R129: the source is demoted to the Back Row. -/
def demoted (s : State) (t r : Nat) : Bool := getObj s t Obj.regulationMode = 0 && overBudget s t r

/-- Enter or leave the time above budget (R130). -/
def regCheck (t r : Nat) (s : State) : State :=
  let since := fget 0 s.overFrom (t * 17 + r)
  if overBudget s t r then
    if since ≠ 0 then s
    else bump t (Obj.overBudgetEntries + r) 1
      { s with overFrom := fset 0 s.overFrom (t * 17 + r) (s.time.elapsed + 1) }
  else if since = 0 then s
  else bump t (Obj.overBudgetTime + r) (s.time.elapsed + 1 - since)
    { s with overFrom := fset 0 s.overFrom (t * 17 + r) 0 }

/-- R127: set a regulator's count; RegulatorPeak follows it (R130). -/
def regSet (t r n : Nat) (s : State) : State :=
  let s1 := setObj t (Obj.regulatorOutstanding + r) n s
  regCheck t r (setObj t (Obj.regulatorPeak + r) (max (getObj s1 t (Obj.regulatorPeak + r)) n) s1)

def regEnter (t r : Nat) (s : State) : State := regSet t r (regCount s t r + 1) s
def regLeave (t r : Nat) (s : State) : State := regSet t r (regCount s t r - 1) s

/-! ## Fractions of tokens (R295 to R297, R315) -/

/-- R315: the product of a cap fraction and a peak fraction, in thousandths from 50 to 1,000. -/
def fraction (cap peak : Nat) : Nat := max 50 (cap * peak / 1000)

def computeFraction (s : State) (t : Nat) : Nat := fraction (getPTile s t).capA s.power.peakA
def linkFraction (s : State) (t : Nat) : Nat := fraction (getPTile s t).capL s.power.peakL
def memoryFraction (s : State) (t : Nat) : Nat := fraction (getPTile s t).capM s.power.peakM

/-- Tokens of a tile (R21, R296, R315): arrays 0 to 3, channels 4 + c, the vector unit 52, the best-effort
ingress FIFOs of host ports 53 + p, best-effort far requests at the gateway 57. -/
abbrev vectorToken : Nat := 52
abbrev portToken (p : Nat) : Nat := 53 + p
abbrev gatewayToken : Nat := 57

/-- The token of a stage is withheld. -/
def tokenHeld (s : State) (t k : Nat) : Bool := fget false s.withheld (t * 58 + k)

/-- Withhold the next token of a stage until TOKEN_GRANT when its fraction, in thousandths, is below 1. -/
def meterToken (t k fraction : Nat) (s : State) : State :=
  if fraction < 1000 then { s with withheld := fset false s.withheld (t * 58 + k) true } else s

/-- TOKEN_GRANT (R296, R315): the metered wait of a stage is over. -/
def grantToken (t k : Nat) (s : State) : State :=
  { s with withheld := fset false s.withheld (t * 58 + k) false }

/-- R297: the raise of the channel fraction to S_f / S while passes are live below the guarantee ceiling. -/
def floorRaise (s : State) (t : Nat) : Option Nat :=
  if (livePasses s t).isEmpty ∨ (getSensor s t).ceiling then none
  else
    let v := getObj s t Obj.speedIndex
    if v = 0 then some 1000 else some (min 1000 (ceilDiv (getObj s t Obj.guaranteeFloor * 1000) v))

/-- u_c of R297 in thousandths. -/
def chanU (s : State) (t : Nat) : Nat :=
  match floorRaise s t with
  | some r => max (getSensor s t).u r
  | none => (getSensor s t).u

/-- R297: EffectiveSpeed, S times u_c. -/
def effectiveSpeed (s : State) (t : Nat) : Nat := getObj s t Obj.speedIndex * chanU s t / 1000

/-- Table 11.3: ThermalState. -/
def thermalCode (s : State) (t : Nat) : Nat :=
  if tripped s then 3 else if (getSensor s t).ceiling then 2 else if (getSensor s t).u < 1000 then 1 else 0

end Sys2Proof.Machine
end

