-- ==== Sys2Proof/Machine/Rational.lean ====
section
/-! DEFINITION. Exact rational numbers for the arithmetic of admission, power and number formats. -/

namespace Sys2Proof.Machine

/-- The rational num / den, with den above 0. -/
structure Q where
  num : Int
  den : Nat
  deriving DecidableEq, Repr

/-- A rational in lowest terms; a zero denominator gives 0. -/
def qMk (n : Int) (d : Nat) : Q :=
  if d = 0 then ⟨0, 1⟩
  else
    let g := Nat.gcd n.natAbs d
    if g ≤ 1 then ⟨n, d⟩ else ⟨n / (g : Int), d / g⟩

/-- An integer as a rational. -/
def qInt (n : Int) : Q := ⟨n, 1⟩
def qNat (n : Nat) : Q := ⟨(n : Int), 1⟩
/-- The quotient of two naturals. -/
def qDivNat (a b : Nat) : Q := qMk (a : Int) b
def qAdd (a b : Q) : Q := qMk (a.num * b.den + b.num * a.den) (a.den * b.den)
def qSub (a b : Q) : Q := qMk (a.num * b.den - b.num * a.den) (a.den * b.den)
def qMul (a b : Q) : Q := qMk (a.num * b.num) (a.den * b.den)
/-- Quotient; 0 where the divisor is 0. -/
def qDiv (a b : Q) : Q :=
  if b.num > 0 then qMk (a.num * b.den) (a.den * b.num.toNat)
  else if b.num < 0 then qMk (-(a.num * b.den)) (a.den * b.num.natAbs)
  else ⟨0, 1⟩
def qLe (a b : Q) : Bool := decide (a.num * b.den ≤ b.num * a.den)
def qLt (a b : Q) : Bool := decide (a.num * b.den < b.num * a.den)
def qMin (a b : Q) : Q := if qLe a b then a else b
def qMax (a b : Q) : Q := if qLe a b then b else a
def qSum (l : List Q) : Q := l.foldl qAdd ⟨0, 1⟩
/-- Rounded down. -/
def qFloor (a : Q) : Int := a.num / (a.den : Int)
/-- Rounded up. -/
def qCeil (a : Q) : Int := -((-a.num) / (a.den : Int))
/-- Rounded up to a multiple of 10, as a number of ns. -/
def qCeil10 (a : Q) : Nat := (qCeil (qMul a ⟨1, 10⟩)).toNat * 10
def qFloorNat (a : Q) : Nat := (qFloor a).toNat
def qAbs (a : Q) : Q := ⟨(a.num.natAbs : Int), a.den⟩
def qNeg (a : Q) : Q := ⟨-a.num, a.den⟩

end Sys2Proof.Machine
end

