-- ==== Sys2Proof/Machine/Bound.lean ====
section
/-! DEFINITION. What admission weighs: the contract (R100), the deliverable rate (R102, R103), gateways
(R105), the computed bound (R107) and check(P) (R110). -/

namespace Sys2Proof.Machine

open Sys2Proof

/-! ## The contract (R100) -/

/-- R100: a field value that Table 4.1 does not allow, for a contract written at tile t. -/
def contractBad (t c : Nat) : Bool :=
  let b := cBase c
  decide (bits c 448 64 ≠ 0 ∨ bits c 208 4 ≠ 0 ∨ bits c 0 173 ≠ 0
    ∨ cBound c % 10 ≠ 0 ∨ cDepth c < cLargest c ∨ cDepth c > 16777216
    ∨ cCommitted c = 0 ∨ cCommitted c > 1536000 ∨ cPeak c < cCommitted c ∨ cPeak c > 1536000
    ∨ cSize c = 0 ∨ cSize c % 2048 ≠ 0 ∨ b % 2048 ≠ 0 ∨ addrTile b ≠ t ∨ addrOffset b + cSize c > populated
    ∨ cLargest c = 0 ∨ cLargest c % 32 ≠ 0 ∨ cLargest c > 2048 ∨ cSpread c = 0 ∨ cSpread c > 48
    ∨ ¬ (cRequester c < 4 ∨ (0x10 ≤ cRequester c ∧ cRequester c ≤ 0x1B))
    ∨ cPattern c > 1 ∨ cDirection c = 0)

/-- Granules where the register that matches may change, within a span of granules. -/
def spanPoints (s : State) (t g0 g1 : Nat) : List Nat :=
  g0 :: (((List.range 16).map (fun i =>
    let v := rangeReg s t i
    [rrBase v, rrLimit v + 1])).flatten).filter (fun g => g0 < g ∧ g ≤ g1)

/-- R126: the range of a contract belongs to its partition. -/
def rangeBelongs (s : State) (t c : Nat) : Bool :=
  let g0 := addrOffset (cBase c) / 2048
  let g1 := (addrOffset (cBase c) + cSize c - 1) / 2048
  let far := if isFar t c then some (cSource c) else none
  (spanPoints s t g0 g1).all (fun g =>
    match matchRange s t g with
    | some i =>
      let v := rangeReg s t i
      cPartition c ≠ 0 && decide (rrPart v = cPartition c)
        && (!bit (cDirection c) 0 || rrRead v) && (!bit (cDirection c) 1 || rrWrite v)
        && rrPermits s v far (cRequester c)
    | none => decide (cPartition c = 0 ∧ getObj s t Obj.rangeDefault = 1))

/-! ## Deliverable rate (R102, R103) -/

/-- The Recess fraction of a band in hundredths (R102). -/
def recessPercent (band : Nat) : Nat := if band = 0 then 3 else if band = 1 then 6 else if band = 2 then 12 else 24

/-- S_f of a tile. -/
def floorQ (s : State) (t : Nat) : Q := qDivNat (getObj s t Obj.guaranteeFloor) 1000
/-- R_raw in bytes per ns. -/
def rRaw (s : State) (t : Nat) : Q := qMul (qNat 32) (floorQ s t)
/-- R_d. -/
def rDel (s : State) (t : Nat) : Q := qMul (rRaw s t) (qDivNat (100 - recessPercent (getObj s t Obj.passBand)) 100)
/-- The admission ceiling 0.85 × R_d (R103). -/
def ceilingQ (s : State) (t : Nat) : Q := qMul (qDivNat 85 100) (rDel s t)

/-- Weight, weighted channel rate and weighted channel burst of a pass (R102, R107). -/
def wOf (c : Nat) : Nat := if cPattern c = 0 then 1 else 3
def wRate (c : Nat) : Q := qDivNat (wOf c * cCommitted c) (1000 * cSpread c)
def wBurst (c : Nat) : Q := qMul (qNat (wOf c)) (qAdd (qDivNat (cDepth c) (cSpread c)) (qNat (cLargest c)))

/-- C_k and o_k under a Timetable (R109). -/
def ttC (tt : Option (List Nat)) (k : Nat) : Nat := match tt with | some l => ttClosed l k | none => 0
def ttO (tt : Option (List Nat)) (k : Nat) : Q :=
  match tt with
  | some l => qDivNat (ttOpen l k).1 (ttOpen l k).2
  | none => qNat 1

/-! ## Gateways (R105) -/

/-- The gateway directions a far pass is charged in: tile, and outbound or not. -/
def gatesOf (owner c : Nat) : List (Nat × Bool) :=
  let src := cSource c
  (if bit (cDirection c) 0 then [(owner, true), (src, false)] else []) ++
  (if bit (cDirection c) 1 then [(src, true), (owner, false)] else [])

/-- S_g of a far pass in thousandths. -/
def sgOf (s : State) (owner c : Nat) : Nat :=
  min (getObj s owner Obj.guaranteeFloor) (getObj s (cSource c) Obj.guaranteeFloor)

/-- The live far passes of the device, as owner and contract. -/
def farPasses (s : State) : List (Nat × Nat) :=
  (s.passes.filter (fun e => passLive e.2 && isFar (e.1 / 256) e.2.terms)).map (fun e => (e.1 / 256, e.2.terms))

/-- The far passes charged in a gateway direction. -/
def chargedAt (l : List (Nat × Nat)) (g : Nat × Bool) : List (Nat × Nat) :=
  l.filter (fun e => (gatesOf e.1 e.2).contains g)

/-- The lowest S_g at a gateway direction. -/
def sgAt (s : State) (l : List (Nat × Nat)) : Nat := l.foldl (fun m e => min m (sgOf s e.1 e.2)) 1000

/-- R105: the sums of a direction: 0 within, 3 committed, 4 peak. -/
def gateCheck (s : State) (l : List (Nat × Nat)) : Nat :=
  let sg := sgAt s l
  if sumOf (l.map (fun e => cCommitted e.2)) * 100 > 85 * 128 * sg then 3
  else if sumOf (l.map (fun e => cPeak e.2)) > 128 * sg then 4
  else 0

/-- G_p (Table 4.3). -/
def gTerm (s : State) (far : List (Nat × Nat)) (owner c : Nat) : Q :=
  qSum ((gatesOf owner c).map (fun g =>
    let l := chargedAt far g
    qDivNat (sumOf (l.map (fun e => cLargest e.2)) * 1000) (128 * sgAt s l)))

/-- Hops between two tiles (R16). -/
def hops (a b : Nat) : Nat :=
  let d := fun (x y : Nat) => if x < y then y - x else x - y
  d (a % 8) (b % 8) + d (a / 8) (b / 8)

/-- F_p (Table 4.3). -/
def fTerm (s : State) (owner c : Nat) : Q :=
  qAdd (qDivNat (6 * 1000) (sgOf s owner c)) (qDivNat (hops owner (cSource c) * getObj s owner Obj.meshHopCost) 1000)

/-! ## The bound (R107) -/

/-- Everything a check reads: the tile, its Timetable, the contracts of P, the far passes of the
device with the candidate among them. -/
structure Weigh where
  tile : Nat
  tt : Option (List Nat)
  p : List Nat
  far : List (Nat × Nat)
  deriving DecidableEq, Repr

def loadOf (w : Weigh) (k : Nat) : Q := qSum ((w.p.filter (fun c => cClass c = k)).map wRate)

/-- The quantum of a class. -/
def quantumOf (s : State) (t k : Nat) : Nat := getObj s t (Obj.classQuantum + k)

/-- C_max (R107). -/
def cMax (s : State) (t : Nat) : Nat :=
  let o := getObj s t Obj.requestOverhead
  max (64 + o) (4 * o)

/-- Classes that hold a pass of P. -/
def heldClasses (w : Weigh) : List Nat := (List.range 8).filter (fun k => w.p.any (fun c => cClass c = k))

/-- Remove one occurrence of a contract. -/
def without (l : List Nat) (c : Nat) : List Nat := removeFirst (fun x => x == c) l

/-- Q_p: the smaller of Q_blind and Q_drr; none where both are without bound. -/
def queueTerm (s : State) (w : Weigh) (c : Nat) : Option Q :=
  let k := cClass c
  let rk := qMul (ttO w.tt k) (rDel s w.tile)
  let room := qSub rk (qSum ((without w.p c).map wRate))
  let blind := if qLt ⟨0, 1⟩ room then some (qDiv (qSum (w.p.map wBurst)) room) else none
  let ks := heldClasses w
  let phi := qDivNat (quantumOf s w.tile k) (sumOf (ks.map (quantumOf s w.tile)))
  let share := qMul phi rk
  let drr :=
    if qLe (loadOf w k) share ∧ qLt ⟨0, 1⟩ share then
      let mine := qDiv (qSum ((w.p.filter (fun x => cClass x = k)).map wBurst)) share
      let others := qSum ((ks.filter (fun j => j ≠ k)).map (fun j =>
        qDiv (qNat (quantumOf s w.tile j + cMax s w.tile)) (rRaw s w.tile)))
      some (qAdd mine others)
    else none
  match blind, drr with
  | some a, some b => some (qMin a b)
  | some a, none => some a
  | none, b => b

/-- R107: the computed bound, rounded up to a multiple of 10 ns. -/
def boundOf (s : State) (w : Weigh) (c : Nat) : Option Nat :=
  match queueTerm s w c with
  | none => none
  | some q =>
    let access := qDiv (qAdd (qNat 298) (qDivNat (cLargest c) 32)) (floorQ s w.tile)
    let farT := if isFar w.tile c then qAdd (fTerm s w.tile c) (gTerm s w.far w.tile c) else ⟨0, 1⟩
    some (qCeil10 (qAdd (qAdd (qNat (15010 + ttC w.tt (cClass c))) access) (qAdd farT q)))

/-- R110: check(P); 0 is ok. The gateway directions are visited pass by pass in the order of the pass
numbers, the candidate last, and for each pass those of its reads before those of its writes (DESIGN CHOICE:
the procedure names no order, which decides between reasons 3 and 4 where two directions fail). -/
def checkPasses (s : State) (w : Weigh) : Nat :=
  if qLt (ceilingQ s w.tile) (qSum (w.p.map wRate)) then 1
  else if (List.range 8).any (fun k =>
      qLt (qMul (qMul (qDivNat 85 100) (ttO w.tt k)) (rDel s w.tile)) (loadOf w k)) then 1
  else
    let gates := (((w.p.filter (fun c => isFar w.tile c)).map (gatesOf w.tile)).flatten).eraseDups
    let g := gates.foldl (fun r g => if r ≠ 0 then r else gateCheck s (chargedAt w.far g)) 0
    if g ≠ 0 then g
    else w.p.foldl (fun r c =>
      if r ≠ 0 then r
      else match boundOf s w c with
        | none => 1
        | some d => if cBound c ≠ 0 ∧ d > cBound c then 2 else 0) 0

/-- The Timetable in force for admission (R107, R141). -/
def admTT (s : State) (t : Nat) : Option (List Nat) :=
  if flag s t Obj.timetableEnable then ((getTT s t).running).map (fun l => l.entries) else none

/-- P of the live passes of a tile, with a candidate. -/
def weighWith (s : State) (t : Nat) (tt : Option (List Nat)) (c : Option Nat) : Weigh :=
  let live := (livePasses s t).map (fun e => e.2.terms)
  match c with
  | some x => ⟨t, tt, live ++ [x], farPasses s ++ (if isFar t x then [(t, x)] else [])⟩
  | none => ⟨t, tt, live, farPasses s⟩

/-! ## PassComputedBound (Table 4.7) -/

/-- The live passes among `l` take their computed bounds under a Timetable each. -/
def takeBounds (tt : Nat → Option (List Nat)) (l : List (Nat × Nat × Pass)) (s : State) : State :=
  l.foldl (fun acc e => setPass e.1 e.2.1
    { e.2.2 with computed := (boundOf s (weighWith s e.1 (tt e.1) none) e.2.2.terms).getD e.2.2.computed } acc) s

/-- A grant or release: every live pass of the device takes its computed bound, since far passes charge the
gateways of two tiles (R105). -/
def takeAllBounds (s : State) : State :=
  takeBounds (admTT s) ((s.passes.filter (fun e => passLive e.2)).map (fun e => (e.1 / 256, e.1 % 256, e.2))) s

/-- A Timetable commit or a write of TimetableEnable at a tile: its live passes take their bounds under the
list given (R150). -/
def takeTileBounds (t : Nat) (tt : Option (List Nat)) (s : State) : State :=
  takeBounds (fun _ => tt) ((livePasses s t).map (fun e => (t, e.1, e.2))) s

end Sys2Proof.Machine
end

