-- ==== Sys2Proof/Machine/Complete.lean ====
section
/-! DEFINITION. Completion: accesses give their result to their requests (R66, R67), requests give
their one response (R410, R415). -/

namespace Sys2Proof.Machine

open Sys2Proof

/-- R66: the status of two, in the order UNCORRECTABLE, POISONED, OK. -/
def worse (a b : Nat) : Nat :=
  if a = stRetry ∨ b = stRetry then stRetry
  else if a = stUncorrectable ∨ b = stUncorrectable then stUncorrectable
  else if a = stPoisoned ∨ b = stPoisoned then stPoisoned else stOk

/-- The request of a number. -/
def findReq (s : State) (t id : Nat) : Option Req := (getSched s t).reqs.find? (fun r => r.id = id)

/-- Change a request. -/
def modReq (t id : Nat) (f : Req → Req) (s : State) : State :=
  modSched t (fun x => { x with reqs := x.reqs.map (fun r => if r.id = id then f r else r) }) s

def addReq (t : Nat) (r : Req) (s : State) : State := modSched t (fun x => { x with reqs := x.reqs ++ [r] }) s

/-- Number of bytes of an access. -/
def accBytes (line : Bool) : Nat := if line then 64 else 32

/-- The first requested byte of an access and how many there are (they are consecutive, R64). -/
def byteSpan (mask : Nat) : Nat × Nat :=
  let l := onesOf 64 mask
  (l.headD 0, l.length)

/-- The bytes `lo .. lo + n - 1` that lie in words of `bad`, as a mask from bit 0. -/
def badBytes (bad lo n : Nat) : Nat :=
  sumOf ((List.range n).map (fun i => if bit bad ((lo + i) / 8) then 2 ^ i else 0))

/-- The read data of an access put into its request (R64, R66). -/
def reqTake (a : Acc) (st data bad : Nat) (r : Req) : Req :=
  let (lo, n) := byteSpan a.mask
  { r with
    left := r.left - 1
    status := worse r.status st
    data := if r.write then r.data else r.data ||| (data / 2 ^ (8 * lo) % 2 ^ (8 * n)) * 2 ^ (8 * a.off)
    pois := if r.write then r.pois else r.pois ||| badBytes bad lo n * 2 ^ a.off }

/-- One granule of a job is done; `inBank` where an in-bank copy did it. -/
def jobDone (t id : Nat) (inBank : Bool) (s : State) : State :=
  modMap t (fun m => { m with jobs := m.jobs.map (fun j =>
    if j.id = id then { j with left := j.left - 1, rows := j.rows + b2n inBank } else j) }) s

/-- What a completed access means to the block map's work it belongs to (R247, R248, R256). -/
def jobStep (t : Nat) (a : Acc) (s : State) : State :=
  match a.job with
  | .none | .migrate => s
  | .job id => jobDone t id (match a.kind with | .copy _ => true | _ => false) s
  | .clear p => setPool t p { getPool s t p with left := (getPool s t p).left - 1 } s

/-! ## Tiers and the batch direction (R71, R80) -/

/-- R71, R128: tier of an access: 0 pass, 1 best-effort, 2 Back Row, 3 the Blotter's (its write-backs,
R73). A pass access whose pass has lapsed is served best-effort until it is granted again (R92). A promoted
one is served no lower than the tier that waits for it (R72). -/
def tierOf (s : State) (t : Nat) (a : Acc) : Nat :=
  let isPass := a.pass && (match a.ofPass with
    | some p => passLive (getPass s t p)
    | none => true)
  let own := if a.low then 3
    else if isPass then 0
    else match a.reg with
      | some r => if demoted s t r then 2 else 1
      | none => 1
  min a.promo own

/-- Work of no class, served ahead of the classes of its tier (R73): write-backs and migrations. -/
def classless (a : Acc) : Bool := a.kind == .writeBack || a.job == .migrate

/-- Best-effort and Back Row writes of a channel. Write-backs are left out (DESIGN CHOICE: R80 does not say
whether a best-effort write-back is one of them). -/
def beWrites (s : State) (t : Nat) (q : QueueS) : List Acc :=
  q.wq.filter (fun a => a.kind != .writeBack && decide (tierOf s t a ≠ 0))

/-- The batch direction turns to read (R80). -/
def turnRead (t c : Nat) (s : State) : State := modQueue t c (fun q => { q with writeDir := false, served := 0 }) s

/-- R80: the direction returns to read at once when no best-effort or Back Row write remains. -/
def batchEnds (t c : Nat) (s : State) : State :=
  let q := getQueue s t c
  if q.writeDir ∧ (beWrites s t q).isEmpty then turnRead t c s else s

/-- R67: an access is complete: its requests take its status and data, and its queue entry frees. -/
def completeAcc (t c : Nat) (a : Acc) (st data bad : Nat) (s : State) : State :=
  let s1 := modQueue t c (fun q => { q with
    rq := q.rq.filter (fun x => x.id ≠ a.id), wq := q.wq.filter (fun x => x.id ≠ a.id) }) s
  let s2 := batchEnds t c <| a.reqs.foldl (fun s id => modReq t id (reqTake a st data bad) s) s1
  jobStep t a s2

/-- Generation in force of a host port (R407). -/
def portGeneration (s : State) (t p : Nat) : Nat := fget 3 s.portGen (t * 4 + p)

/-- Bytes of a beat of a port (Table 17.1). -/
def portWidth (s : State) (t p : Nat) : Nat :=
  let g := portGeneration s t p
  if g = 1 then 16 else if g = 2 then 32 else 64

/-- Beats of a request's data on a port of `w` bytes (R410). -/
def beatCount (w addr len : Nat) : Nat := ceilDiv (addr % w + len) w

/-- R410: beat `j` of read data: the lanes, whether a byte of it lies in a bad word, and its bytes. -/
def readBeat (w addr len data pois j : Nat) : Nat × Bool × Nat :=
  let a0 := addr % w
  let first := if j = 0 then 0 else j * w - a0
  let last := min len ((j + 1) * w - a0)
  let n := last - first
  let lane := if j = 0 then a0 else 0
  (data / 2 ^ (8 * first) % 2 ^ (8 * n) * 2 ^ (8 * lane), decide (pois / 2 ^ first % 2 ^ n ≠ 0), n)

/-- The response of a request at a host port (R410, R411). -/
def mkResp (s : State) (t p : Nat) (r : Req) (hint : Nat) : Resp :=
  let w := portWidth s t p
  let beats : List (Nat × Bool × Nat) :=
    if r.write then [(0, false, 0)]
    else if r.status = stOk ∨ r.status = stUncorrectable ∨ r.status = stPoisoned then
      (List.range (beatCount w r.addr r.len)).map (fun j =>
        let b := readBeat w r.addr r.len r.data r.pois j
        (b.1, b.2.1 && decide (portGeneration s t p ≠ 1), b.2.2))
    else [(if r.status = stRetry then hint % 2 ^ 32 else 0, false, 0)]
  { tag := r.tag, status := r.status, write := r.write, beats := beats }

/-- Beats offered at a port and not yet taken: the response FIFO of a clocked port's adapter holds 8 (R413), a TRP-3 port
offers one at a time. -/
def offerDepth (s : State) (t p : Nat) : Nat := if portGeneration s t p = 3 then 1 else 8

/-- R400: the beats of a port's responses from place `lo` up to the depth of its offers are offered: their bytes
count. -/
def countOffer (t p lo : Nat) (s : State) : State :=
  let beats := ((fget [] s.resp (t * 4 + p)).flatMap (·.beats)).take (offerDepth s t p)
  portCount t p true (sumOf ((beats.drop lo).map (fun b => b.2.2))) s

/-- Put a response into the queue of a port; offered as far as the depth of its offers allows. -/
def offerResp (t p : Nat) (x : Resp) (s : State) : State :=
  let old := fget [] s.resp (t * 4 + p)
  countOffer t p (sumOf (old.map (·.beats.length))) { s with resp := fset [] s.resp (t * 4 + p) (old ++ [x]) }

/-- The latency of a request (R95) on the ticks that passed. -/
def latencyOf (s : State) (r : Req) : Nat := s.time.elapsed - r.accepted

/-- A request of pass `p` travels from its source tile to the owner, accepted no later than `by_`. -/
def passTravels (s : State) (t p by_ : Nat) : Bool :=
  let x := getPass s t p
  s.farReqs.any (fun r => decide (r.dst = t ∧ r.passNo = some p ∧ r.origin = cSource x.terms ∧
    r.orig = cRequester x.terms ∧ r.accepted ≤ by_))

/-- A conforming request of pass `p` is accepted by the owner and not answered, or its response travels. -/
def passHeld (s : State) (t p : Nat) : Bool :=
  let under := fun (r : Req) => r.conforming && decide (r.passNo = some p)
  (getSched s t).reqs.any under || s.farResps.any (fun x => x.owner = t && under x.req)

/-- R115: a request of pass `p` that keeps its bound is unanswered: accepted by the owning tile, on its way
back, or accepted by the source tile no later than the release and on its way to the owner. -/
def passBusy (s : State) (t p : Nat) : Bool :=
  passHeld s t p || passTravels s t p (getPass s t p).releasedAt

/-- R115: a released pass becomes FREE when the last request accepted under it is answered, and not before
the tick of its release is over, so that a conforming request of that tick keeps the bound (R119). -/
def finishRelease (t p : Nat) (s : State) : State :=
  let x := getPass s t p
  if x.released ∧ x.releasedAt < s.time.elapsed ∧ ¬ passBusy s t p then takeAllBounds (freePass t p s) else s

/-- Account a response under its pass: longest latency, misses (R113), a release that waits (R115). -/
def passAnswered (t : Nat) (r : Req) (s : State) : State :=
  match r.conforming, r.passNo with
  | true, some p => finishRelease t p (checkMiss t p (latencyOf s r) s)
  | _, _ => s

/-- The sample record of an answered request (Table 16.4). -/
def reqRecord (s : State) (r : Req) : Nat :=
  smRecord r.stamp (latencyOf s r) r.addr r.tag r.requester (r.passNo.getD 0) r.part r.cls r.tier r.page
    r.write r.len r.chan r.source 0 1 r.status (r.flags ||| (if r.passNo.isSome then 128 else 0))

/-- A response handed to a mover channel or to the block map of a tile. -/
def giveReply (t code : Nat) (r : Req) (hint : Nat) (s : State) : State :=
  let x : Reply := { tag := r.tag, status := r.status, write := r.write, data := r.data, pois := r.pois
                     hint := if r.status = stRetry then hint else 0, fill := r.fill }
  { s with replies := fupd [] s.replies (t * 256 + code) (· ++ [x]) }

/-- A response offered to its requester in the tile that sent the request (R67). -/
def deliver (t : Nat) (r : Req) (hint : Nat) (s : State) : State :=
  if r.dropped then s
  else if r.orig < 4 then offerResp t r.orig (mkResp s t r.orig r hint) s
  else giveReply t r.orig r hint s

/-- The one response of a request leaves the scheduler's exit: to its requester, or over the mesh to the
source tile; its regulator's count falls (R67, R127). -/
def respond (t : Nat) (r : Req) (hint : Nat) (s : State) : State :=
  let s1 := modSched t (fun x => { x with reqs := x.reqs.filter (fun q => q.id ≠ r.id) }) s
  let s2 := match r.counted with
    | some g => regLeave t g s1
    | none => s1
  let s3 := smEvent t 1 r.requester r.part (latencyOf s r) (reqRecord s r) s2
  if r.requester ≥ 0x20 ∧ r.requester < 0x60 then
    let n := if r.write then 0 else r.len
    portCount t 4 true n { s3 with farResps := s3.farResps ++ [⟨t, r.source, r, hint⟩] }
  else deliver t r hint (passAnswered t r s3)

/-- The hint of a request answered RETRY: the time left of the reset of its partition, rounded up to 1 µs
(R384), in ns; 0 without one. -/
def retryHint (s : State) (r : Req) : Nat :=
  match s.resets.partition with
  | some (p, start) =>
    if p = r.part ∧ r.status = stRetry then ceilDiv (start + 30000 - s.time.elapsed) 1000 * 1000 else 0
  | none => 0

/-- RESPONSE_OFFER (R67): all accesses of a request are complete, so its single response is offered. -/
def offerResponse (t id : Nat) (s : State) : State :=
  match findReq s t id with
  | some r => if r.left = 0 ∧ r.waiting = 0 then answer r.status (respond t r (retryHint s r) s) else s
  | none => s

/-- RESPONSE_BEAT_ACK (R410): the oldest offered beat is taken; the next one not yet offered, of the response or of the
next response of the port, is offered. -/
def ackBeat (t p : Nat) (s : State) : State :=
  match fget [] s.resp (t * 4 + p) with
  | [] => s
  | r :: rest =>
    let next := match r.beats with
      | _ :: b :: bs => { r with beats := b :: bs } :: rest
      | _ => rest
    countOffer t p (offerDepth s t p - 1) { s with resp := fset [] s.resp (t * 4 + p) next }

/-- RESPONSE_BEAT_ACK (R410); the gateway's own mesh ports hand whole responses over, so an
acknowledge there changes nothing. -/
def execResponseBeatAck (t : TileN) (src : Side) (s : State) : Res :=
  match src with
  | .host p => run (ackBeat t.val p.val) s
  | .gateway _ => run id s

/-- FAR_RESPONSE_ARRIVAL (R14): the source tile takes the oldest response of an owner on its way to it
and offers it to the requester; the owner's pass is judged on the whole latency (R95). -/
def farResponse (t owner : Nat) (s : State) : State :=
  match s.farResps.find? (fun x => x.dst = t ∧ x.owner = owner) with
  | none => s
  | some x =>
    let s1 := { s with farResps := removeFirst (fun y => y.dst = t ∧ y.owner = owner) s.farResps }
    let s2 := portCount t 4 false (if x.req.write then 0 else x.req.len) s1
    deliver t x.req x.hint (passAnswered owner x.req s2)

end Sys2Proof.Machine
end

