-- ==== Sys2Proof/Machine/Sram.lean ====
section
/-! DEFINITION. The words of the SRAMs (R260, R261, R266, R281). A word's data are held where the rest of the
model has them; `sramErr` holds the bits in which the 72-bit word now differs from what was stored, so that
its class is that of the pattern (the code of R260 is linear). -/

namespace Sys2Proof.Machine

open Sys2Proof

/-! ## Numbers of SRAMs and words -/

/-- SRAMs as LastUncorrectable names them (Table 10.6). -/
abbrev sramSlate : Nat := 2
abbrev sramInkwell : Nat := 3
abbrev sramMap : Nat := 4
abbrev sramQueue : Nat := 5
abbrev sramOther : Nat := 6

/-- Key of a word of an SRAM. -/
def sramKey (t kind w : Nat) : Nat := (t * 8 + kind) * 2 ^ 24 + w

/-- Words of the logical map, the pool and the prefix directory (Table 9.1), two, one and four to an element. -/
def entryWord (e i : Nat) : Nat := 2 * e + i
def poolWord (p : Nat) : Nat := 131072 + p
def wayWord (w i : Nat) : Nat := 196608 + 4 * w + i

/-- The word of the Inkwells of a tile that holds a column of a row (R162). -/
def inkWord (a row col : Nat) : Nat := (a * 512 + row) * 64 + col / 2

/-! ## Reading and writing a word -/

/-- The class a read gives a word whose bits `mask` have changed and which was stored poisoned or not. -/
def sramClass (mask : Nat) (pois : Bool) : WordClass :=
  classify (mask ^^^ (if pois then 0x7F * 2 ^ 64 else 0))

/-- The data bits a read delivers otherwise than they were stored: those changed, save the one corrected. -/
def sramDelta (mask : Nat) (pois : Bool) : Nat :=
  match sramClass mask pois with
  | .corrected i => (mask ^^^ 2 ^ i) % 2 ^ 64
  | _ => mask % 2 ^ 64

/-- The word is stored whole, with fresh check bits. -/
def sramStore (t kind w : Nat) (s : State) : State :=
  { s with sramErr := fset 0 s.sramErr (sramKey t kind w) 0 }

/-- R266: a corrected SRAM word: counted with the findings of R273; the same bit twice within FaultWindow is a
lasting SRAM fault. Its log entry gives the SRAM and the byte offset as LastUncorrectable does (DESIGN CHOICE:
LastRepairEvent has no cause for it). -/
def sramCorrected (t kind w i : Nat) (s : State) : State :=
  let now := s.time.timeBase
  let k := sramKey t kind w
  let seen := fget 0 s.sramSeen k
  let again := decide (seen ≠ 0 ∧ seen % 128 = i ∧ now ≤ seen / 128 - 1 + faultWindow s t)
  let s1 := countFindings t 1 (bump t Obj.sramCorrected 1
    { s with sramSeen := fset 0 s.sramSeen k ((now + 1) * 128 + i) })
  if again then ring t 6 (addLog t 0x06 9 stOk (fld 56 8 kind + now % 2 ^ 48) (8 * w) s1) else s1

/-- R281: an SRAM word is found uncorrectable. -/
def sramUncorrectable (t kind w : Nat) (s : State) : State :=
  let lu := fld 56 8 kind + s.time.timeBase % 2 ^ 48
  let s1 := setObj t Obj.lastUncorrectable lu (setObj t Obj.lastUncorrectableAddress (8 * w)
    (bump t Obj.sramUncorrectable 1 s))
  budget 4 (addLog t 0x06 8 stUncorrectable lu (8 * w) (ring t 7 s1))

/-- A word stands poisoned from now on: a word of the Slate by its own mark, another by its check bits. -/
def sramPoison (t kind w : Nat) (s : State) : State :=
  { s with sramErr := fset 0 s.sramErr (sramKey t kind w) (if kind = sramSlate then 0 else 0x7F * 2 ^ 64) }

/-- R261, R266, R281: what a read of an SRAM word does to the tile; the word stands as it was delivered. -/
def sramRead (t kind w : Nat) (pois : Bool) (s : State) : State :=
  let mask := fget 0 s.sramErr (sramKey t kind w)
  if mask = 0 then s
  else match sramClass mask pois with
    | .good => sramStore t kind w s
    | .poisoned => sramPoison t kind w s
    | .corrected i => sramCorrected t kind w i (sramStore t kind w s)
    | .uncorrectable => sramUncorrectable t kind w (sramPoison t kind w s)

/-- The word stands poisoned. -/
def sramPoisoned (s : State) (t kind w : Nat) : Bool :=
  let mask := fget 0 s.sramErr (sramKey t kind w)
  decide (mask ≠ 0) && sramClass mask false == .poisoned

/-- A read would find the word uncorrectable. -/
def sramBad (s : State) (t kind w : Nat) (pois : Bool) : Bool :=
  let mask := fget 0 s.sramErr (sramKey t kind w)
  decide (mask ≠ 0) && sramClass mask pois == .uncorrectable

/-- The words from `lo` to `hi` - 1 of an SRAM whose bits have changed. -/
def sramChanged (s : State) (t kind lo hi : Nat) : List Nat :=
  (s.sramErr.filter (fun e => decide (sramKey t kind lo ≤ e.1 ∧ e.1 < sramKey t kind hi))).map
    (fun e => e.1 % 2 ^ 24)

/-! ## The Slate -/

/-- The Slate is read at word `w`: a word found uncorrectable is left poisoned, with the data as read. -/
def slateReadWord (t w : Nat) (s : State) : State :=
  let pois := fget false s.slatePois (t * 2 ^ 20 + w)
  let mask := fget 0 s.sramErr (sramKey t sramSlate w)
  let s1 := sramRead t sramSlate w pois s
  let d := sramDelta mask pois
  let s2 := if d = 0 then s1
    else { s1 with slate := (List.range 8).foldl (fun m i =>
        fupd 0 m (t * 2 ^ 23 + 8 * w + i) (fun b => b ^^^ d / 2 ^ (8 * i) % 256)) s1.slate }
  match sramClass mask pois with
  | .poisoned | .uncorrectable => { s2 with slatePois := fset false s2.slatePois (t * 2 ^ 20 + w) true }
  | _ => { s2 with slatePois := fset false s2.slatePois (t * 2 ^ 20 + w) false }

/-- The words of `n` bytes of the Slate from `off` are read. -/
def slateScrub (t off n : Nat) (s : State) : State :=
  if n = 0 then s
  else (sramChanged s t sramSlate (off / 8) ((off + n - 1) / 8 + 1)).foldl (fun s w => slateReadWord t w s) s

/-- A read of `n` bytes of the Slate from `off` would be the first to find a word uncorrectable. -/
def slateFresh (s : State) (t off n : Nat) : Bool :=
  n ≠ 0 && (sramChanged s t sramSlate (off / 8) ((off + n - 1) / 8 + 1)).any (fun w =>
    sramBad s t sramSlate w (fget false s.slatePois (t * 2 ^ 20 + w)))

/-- `n` bytes of the Slate as a number, whether a word of them is poisoned, and those of such words. -/
def slateNat (s : State) (t off n : Nat) : Nat :=
  leNat ((List.range n).map (fun i => fget 0 s.slate (t * 2 ^ 23 + off + i)))
def slateBad (s : State) (t off n : Nat) : Bool :=
  (List.range ((off + n + 7) / 8 - off / 8)).any (fun i => fget false s.slatePois (t * 2 ^ 20 + off / 8 + i))
def slatePoisMask (s : State) (t off n : Nat) : Nat :=
  (List.range n).foldl (fun m i => if fget false s.slatePois (t * 2 ^ 20 + (off + i) / 8) then m + 2 ^ i else m) 0

/-- The status of a read of `n` bytes of the Slate from `off`: by its first finder, or poisoned (R281). -/
def slateStatus (s : State) (t off n : Nat) : Nat :=
  if slateFresh s t off n then stUncorrectable
  else if slateBad (slateScrub t off n s) t off n then stPoisoned else stOk

/-! ## The Inkwells -/

/-- An Inkwell word is read (R162): two accumulators. -/
def inkReadWord (t w : Nat) (s : State) : State :=
  let mask := fget 0 s.sramErr (sramKey t sramInkwell w)
  let d := sramDelta mask false
  let s1 := sramRead t sramInkwell w false s
  if d = 0 then s1
  else { s1 with inkwell := (List.range 2).foldl (fun m i =>
      fupd 0 m (t * 4 * 512 * 128 + 2 * w + i) (fun v => v ^^^ d / 2 ^ (32 * i) % 2 ^ 32)) s1.inkwell }

/-- The words of a row of an Inkwell whose bits have changed, and those a read finds uncorrectable. -/
def inkChanged (s : State) (t a row : Nat) : List Nat :=
  sramChanged s t sramInkwell (inkWord a row 0) (inkWord a row 0 + 64)
def inkBadWords (s : State) (t a row : Nat) : List Nat :=
  (inkChanged s t a row).filter (fun w => sramBad s t sramInkwell w false)

/-- A row of an Inkwell is read. -/
def inkScrub (t a row : Nat) (s : State) : State := (inkChanged s t a row).foldl (fun s w => inkReadWord t w s) s

/-! ## The block map tables (R258) -/

/-- Words of the block map tables are read: true when one of them is uncorrectable, or was found so before; at
the first finding bells 7 and 9 ring and MapUncorrectable counts. Such a word stays until a RELEASE or a PUBLISH
rewrites it. -/
def mapWords (t x : Nat) : List Nat → State → Bool × State
  | [], s => (false, s)
  | w :: r, s =>
    if sramBad s t sramMap w false then
      (true, sramRead t sramMap w false
        (ring t 9 (mapEvent t 4 x stUncorrectable (bump t Obj.mapUncorrectable 1 s))))
    else if sramPoisoned s t sramMap w then (true, s)
    else mapWords t x r (sramRead t sramMap w false s)

/-- The words are written anew. -/
def storeWords (t : Nat) (l : List Nat) (s : State) : State := l.foldl (fun s w => sramStore t sramMap w s) s

/-- The words of an entry, of a pool descriptor and of a directory way. -/
def entryWords (e : Nat) : List Nat := [entryWord e 0, entryWord e 1]
def wayWords (w : Nat) : List Nat := (List.range 4).map (wayWord w)

/-! ## Words held in a queue or the merge buffer (R260, Table 10.4) -/

/-- What a read of a held write's data words delivers, of which `err` holds the changed bits: the data, the poisoned
words, and the words found uncorrectable, which are poisoned too. -/
def heldRead : FMap Nat → Nat → Nat → Nat × Nat × Nat
  | [], d, p => (d, p, 0)
  | (i, m) :: r, d, p =>
    let x := heldRead r (d ^^^ sramDelta m (bit p i) * 2 ^ (64 * i)) p
    match sramClass m (bit p i) with
    | .uncorrectable => (x.1, setBit x.2.1 i, setBit x.2.2 i)
    | .poisoned => (x.1, setBit x.2.1 i, x.2.2)
    | _ => x

/-- What that read does to the tile. The place of the word in its SRAM is a free value: the spec gives the queues and
the merge buffer no layout. -/
def heldFound (t : Nat) : FMap Nat → Nat → State → State
  | [], _, s => s
  | (i, m) :: r, p, s =>
    let (x, s1) := draw s
    heldFound t r p (match sramClass m (bit p i) with
      | .corrected k => sramCorrected t sramQueue (x % 2 ^ 24) k s1
      | .uncorrectable => sramUncorrectable t sramQueue (x % 2 ^ 24) s1
      | _ => s)

/-! ## The walk (R268) -/

/-- Words of the SRAMs of a tile that the walk reads in one tick, by place: one of each. A lap is as long as the
largest, the Slate. -/
def walkLap : Nat := 2 ^ 20

/-- An Inkwell row is covered by the open group of its array. -/
def inkOpen (s : State) (t a row : Nat) : Bool :=
  match (getArray s t a).group with
  | some g => !g.fused && decide (g.a0 ≤ row ∧ row < g.a0 + (if g.recipe ≥ 4 then 3 * g.m else g.m))
      || (g.fused && decide ((row + 512 - g.a0) % 512 < g.m))
  | none => false

/-- Read the words at one place of the walk. -/
def walkWord (t w : Nat) (s : State) : State :=
  let s1 := if fget 0 s.sramErr (sramKey t sramSlate w) = 0 then s else slateReadWord t w s
  let s2 := if w < 131072 ∧ inkOpen s1 t (w / 32768) (w / 64 % 512) then
      (if fget 0 s1.sramErr (sramKey t sramInkwell w) = 0 then s1 else inkReadWord t w s1) else s1
  let s3 := if w < 262144 then
      (mapWords t (if w < 131072 then w / 2 else w % 65536) [w] s2).2 else s2
  sramRead t sramOther w false s3

/-- Place of the walk of a tile: it steps at every tick. -/
def walkPlace (s : State) (t : Nat) : Nat := s.time.elapsed / 10 - fget 0 s.sramOff t

/-- One tick of the SRAM walk of a tile: it stands still while ScrubEnable is 0 or the tile is in reset. The rate,
one word of each SRAM in a tick, is a DESIGN CHOICE: the spec gives none. -/
def walkTick (t : Nat) (s : State) : State :=
  if ¬ flag s t Obj.scrubEnable ∨ inReset s t then { s with sramOff := fupd 0 s.sramOff t (· + 1) }
  else
    let n := walkPlace s t
    let s1 := if s.sramErr = [] then s else walkWord t (n % walkLap) s
    if n ≠ 0 ∧ n % walkLap = 0 then setObj t Obj.sramScrubLapLast (10 * walkLap) s1 else s1

end Sys2Proof.Machine
end

