-- ==== Sys2Proof/Machine/Ingress.lean ====
section
/-! DEFINITION. The scheduler's ingress: fragments and accesses (R64), the checks (R125), passes (R96),
queue entries (R69, R70), forwarding (R83) and the merge buffer (R89, R90). -/

namespace Sys2Proof.Machine

open Sys2Proof

/-! ## Fragments and accesses (R64) -/

/-- A fragment: its place, and the offset and number of the request's bytes in it. -/
structure Frag where
  place : Place
  off : Nat
  len : Nat
  deriving DecidableEq, Repr

/-- R64: the fragments of a request that starts at a tile offset. -/
def fragments (offset len : Nat) : List Frag :=
  let n1 := min len (2048 - offset % 2048)
  if n1 < len then [⟨translate offset, 0, n1⟩, ⟨translate (offset + n1), n1, len - n1⟩]
  else [⟨translate offset, 0, len⟩]

/-- R64: the pieces of a fragment: row byte, whether a line, bytes, offset in the request. -/
def cutRow : Nat → Nat → Nat → Nat → List (Nat × Bool × Nat × Nat)
  | 0, _, _, _ => []
  | f + 1, pos, rem, off =>
    if rem = 0 then []
    else if pos % 64 = 0 ∧ rem ≥ 64 then (pos, true, 64, off) :: cutRow f (pos + 64) (rem - 64) (off + 64)
    else
      let n := min rem (32 - pos % 32)
      (pos, false, n, off) :: cutRow f (pos + n) (rem - n) (off + n)

/-- Words of an access that a set of request bytes `pois` (from its first byte on) touches. -/
def poisWords (lo n pois : Nat) : Nat :=
  (List.range n).foldl (fun m i => if bit pois i then setBit m ((lo + i) / 8) else m) 0

/-- An access of a request for a piece of a fragment. -/
def mkAcc (r : Req) (f : Frag) (p : Nat × Bool × Nat × Nat) : Acc :=
  let (pos, line, n, off) := p
  let lo := if line then 0 else pos % 32
  { id := 0, reqs := [r.id], order := r.order, bank := f.place.bank, row := f.place.row,
    kind := if r.write then (if n % 32 = 0 then .write else .rmw) else .read
    sector := pos / 32, line := line, off := off
    data := if r.write then r.data / 2 ^ (8 * off) % 2 ^ (8 * n) * 2 ^ (8 * lo) else 0
    mask := (2 ^ n - 1) * 2 ^ lo
    pois := if r.write then poisWords lo n (r.pois / 2 ^ off) else 0
    pass := r.conforming, ofPass := if r.conforming then r.passNo else none
    flen := f.len, part := r.part, cls := r.cls, reg := if r.conforming then none else r.counted
    first := true, stamp := r.here }

/-- R64: all accesses of a request, with the channel of each; `frag` is the offset of the fragment. -/
def accesses (r : Req) : List (Nat × Acc) :=
  ((fragments (addrOffset r.addr) r.len).map (fun f =>
    (cutRow 70 f.place.byte f.len f.off).map (fun p =>
      (f.place.chan, { mkAcc r f p with frag := r.id * 2 + (if f.off = 0 then 0 else 1) })))).flatten

/-! ## Conflicts (R82) -/

/-- Sectors an access reads or writes: row, first sector, number, write. A copy reads its source row
and writes its destination; a bounce copy does each by an entry of its own. -/
def touched (a : Acc) : List (Nat × Nat × Nat × Bool) :=
  let n := if a.line then 2 else 1
  match a.kind with
  | .read => [(a.row, a.sector, n, false)]
  | .write | .rmw | .writeBack => [(a.row, a.sector, n, true)]
  | .copy d => [(a.row, 0, 64, false), (d, 0, 64, true)]
  | .fill | .bounceWrite .. => [(a.row, 0, 64, true)]
  | .bounceRead _ => [(a.row, 0, 64, false)]

/-- R82: two accesses to one sector, at least one of them a write. -/
def conflict (a b : Acc) : Bool :=
  decide (a.bank = b.bank) && (touched a).any (fun x => (touched b).any (fun y =>
    decide (x.1 = y.1 ∧ x.2.1 < y.2.1 + y.2.2.1 ∧ y.2.1 < x.2.1 + x.2.2.1) && (x.2.2.2 || y.2.2.2)))

/-! ## The checks at ingress (R123 to R125, R145) -/

/-- R62, R409: length 0 or above 2,048 is malformed. -/
def badLength (len : Nat) : Bool := decide (len = 0 ∨ len > 2048)

/-- R96: every condition but the buckets: requester, source, range, direction, alignment, length. A request
accepted no later than the tick of the release keeps the bound (R115, R119). -/
def passFits (t : Nat) (x : Pass) (r : Req) : Bool :=
  let c := x.terms
  passLive x && (!x.released || decide (r.accepted ≤ x.releasedAt)) && !r.best
    && decide (cSource c = r.source ∧ cRequester c = r.orig)
    && decide (cBase c ≤ r.addr ∧ r.addr + r.len ≤ cBase c + cSize c ∧ addrTile r.addr = t)
    && bit (cDirection c) (b2n r.write)
    && decide (r.addr % 32 = 0 ∧ r.len % 32 = 0 ∧ r.len ≤ cLargest c)

/-- Bytes charged in each channel (R97); a streaming request below 128 bytes is charged 128. -/
def chargeParts (x : Pass) (r : Req) : Nat × List (Nat × Nat) :=
  let b := if cPattern x.terms = 0 then max r.len 128 else r.len
  match fragments (addrOffset r.addr) r.len with
  | [f] => (b, [(f.place.chan, f.len + (b - r.len))])
  | f :: g :: _ => (b, [(f.place.chan, f.len + (b - r.len)), (g.place.chan, g.len)])
  | [] => (b, [])

/-- R96: conforming at its acceptance tick, with the pass charged. -/
def conformPass (t : Nat) (r : Req) (s : State) : Option Pass :=
  match r.passNo with
  | none => none
  | some p =>
    let x := getPass s t p
    let (b, bcs) := chargeParts x r
    if passFits t x r && canPay x (r.accepted / 10) b bcs true then some (pay x (r.accepted / 10) b bcs true)
    else none

/-- The partition, class and regulator of a request, or its refusal (R123, R124). -/
inductive RangeTake where
  | denied
  | take (part cls reg : Nat)
  deriving DecidableEq, Repr

/-- R123, R124; `far` is the source tile of a far request. -/
def rangeCheck (s : State) (t : Nat) (far : Option Nat) (requester addr len : Nat) (write : Bool) : RangeTake :=
  let g0 := addrOffset addr / 2048
  let g1 := (addrOffset addr + len - 1) / 2048
  match matchRange s t g0 with
  | some i =>
    let v := rangeReg s t i
    if g1 > rrLimit v then .denied
    else if (if write then !rrWrite v else !rrRead v) then .denied
    else if ¬ rrPermits s v far requester then .denied
    else .take (rrPart v) (rrClass v) (pairRegulator s t i)
  | none => if getObj s t Obj.rangeDefault = 1 then .take 0 0 16 else .denied

/-- The partition is under reset (R384). -/
def partReset (s : State) (p : Nat) : Bool :=
  match s.resets.partition with
  | some (q, _) => decide (q = p)
  | none => false

/-! ## Entering the queues (R69, R70, R429) -/

/-- A write accepted now supersedes the write-backs of the words it covers (R265). -/
def supersedeBy (t c : Nat) (a : Acc) (s : State) : State :=
  match a.kind with
  | .write =>
    let s1 := supersede t c a.bank a.row a.sector 15 s
    if a.line then supersede t c a.bank a.row (a.sector + 1) 15 s1 else s1
  | .rmw =>
    let full := (List.range 4).foldl (fun m i => if a.mask / 2 ^ (8 * i) % 256 = 255 then setBit m i else m) 0
    supersede t c a.bank a.row a.sector full s
  | _ => s

/-- Put an access of a request into its queue. -/
def enqueue (t c : Nat) (a : Acc) (s : State) : State :=
  let (i, s1) := newId t (supersedeBy t c a s)
  modQueue t c (fun q => match a.kind with
    | .read => { q with rq := q.rq ++ [{ a with id := i }] }
    | _ => { q with wq := q.wq ++ [{ a with id := i }] }) s1

/-- An access to a disabled channel completes at ingress with UNCORRECTABLE (R60, R92). -/
def refuseAcc (t c : Nat) (a : Acc) (s : State) : State := completeAcc t c { a with id := 0 } stUncorrectable 0 0xFF s

/-- Accesses of requests of a tile that wait at ingress (R70, R82). -/
def unqueued (s : State) (t c : Nat) : List Acc :=
  let x := getSched s t
  ((x.reqs.filter (fun r => r.waiting ≠ 0 ∧ addrTile r.addr = t)).map (fun r =>
    ((accesses r).filter (fun e => e.1 = c)).map (·.2))).flatten
    ++ ([x.mapPass.head, x.mapBest.head].filterMap (fun h => match h with
        | some (d, a) => if d = c then some a else none
        | none => none))

/-- A merge entry whose last flushed access has its queue entry is free again (R429). -/
def mergeSettle (t c i : Nat) (s : State) : State :=
  if (getMerge s t i).flushing ∧ ¬ (getQueue s t c).deferred.any (fun a => a.slot = some i) then setMerge t i {} s
  else s

/-- Deferred work takes the entries it may, oldest first of those that may (R429). -/
def drainDeferred : Nat → Nat → Nat → State → State
  | 0, _, _, s => s
  | fuel + 1, t, c, s =>
    match minBy (fun a => a.order) ((getQueue s t c).deferred.filter (entryRoom s t c)) with
    | none => s
    | some a =>
      let s1 := takeEntry t c a
        (modQueue t c (fun q => { q with deferred := removeFirst (fun x => x.id = a.id) q.deferred }) s)
      drainDeferred fuel t c (match a.slot with | some i => mergeSettle t c i s1 | none => s1)

/-! ## Forwarding (R83) -/

/-- The latest write before `a` of a sector of its row, queued or still to be queued, if it is a whole write
in the write queue. -/
def forwardSource (s : State) (t c : Nat) (a : Acc) (sector : Nat) : Option Acc :=
  let q := getQueue s t c
  let one := { a with sector := sector, line := false }
  let l := (q.wq ++ q.deferred ++ unqueued s t c).filter (fun w => decide (w.order < a.order) && conflict w one)
  match l.foldl (fun (b : Option Acc) w => match b with
      | some x => if w.order ≥ x.order then some w else b
      | none => some w) none with
  | some w => if w.kind = .write ∧ q.wq.any (fun x => x.id = w.id) then some w else none
  | none => none

/-- The data, poison and words found uncorrectable of one sector of a whole write. -/
def forwardPart (w : Acc) (sector : Nat) : Nat × Nat × Nat :=
  let k := sector - w.sector
  let x := heldRead w.err w.data w.pois
  (x.1 / 2 ^ (256 * k) % 2 ^ 256, x.2.1 / 2 ^ (4 * k) % 16, x.2.2 / 2 ^ (4 * k) % 16)

/-- R83: a read served wholly from queued whole writes: its data, poison and words found uncorrectable. -/
def forwardData (s : State) (t c : Nat) (a : Acc) : Option (Nat × Nat × Nat) :=
  if a.noFwd then none
  else match forwardSource s t c a a.sector with
  | none => none
  | some w0 =>
    if a.line then
      match forwardSource s t c a (a.sector + 1) with
      | none => none
      | some w1 =>
        let (d0, p0, f0) := forwardPart w0 a.sector
        let (d1, p1, f1) := forwardPart w1 (a.sector + 1)
        some (d0 + d1 * 2 ^ 256, p0 + p1 * 16, f0 + f1 * 16)
    else some (forwardPart w0 a.sector)

/-- The queue words of a write access are read: corrected, or poisoned for the write, whose requests then receive
UNCORRECTABLE (Table 10.4). -/
def readHeld (t c : Nat) (a : Acc) (s : State) : Acc × State :=
  if a.err = [] then (a, s)
  else
    let x := heldRead a.err a.data a.pois
    let b := { a with data := x.1, pois := x.2.1, err := [] }
    let swap := fun (y : Acc) => if y.id = a.id then { y with data := x.1, pois := x.2.1, err := [] } else y
    let s1 := modQueue t c (fun q => { q with wq := q.wq.map swap }) (heldFound t a.err a.pois s)
    (b, if x.2.2 = 0 then s1
      else a.reqs.foldl (fun s id => modReq t id (fun r => { r with status := worse r.status stUncorrectable }) s) s1)

/-- The writes that a forwarded read takes its sectors from have their words read. -/
def readSources (t c : Nat) (a : Acc) (s : State) : State :=
  ((List.range (if a.line then 2 else 1)).filterMap (fun k => forwardSource s t c a (a.sector + k))).foldl
    (fun s w => match (getQueue s t c).wq.find? (fun x => x.id = w.id) with
      | some x => (readHeld t c x s).2
      | none => s) s

/-- The words of an access that hold bytes asked for. -/
def askedWords (mask : Nat) : Nat :=
  (List.range 8).foldl (fun m i => if mask / 2 ^ (8 * i) % 256 ≠ 0 then setBit m i else m) 0

/-! ## The merge buffer (R89 to R91) -/

/-- Entries of a tile's merge buffer that are valid and not being flushed, with their slots. -/
def mergeOf (s : State) (t : Nat) : List (Nat × Merge) :=
  (s.merge.filter (fun e => e.1 / 32 = t ∧ e.2.valid ∧ ¬ e.2.flushing)).map (fun e => (e.1 % 32, e.2))

/-- Object of each flush rule (R90). -/
def flushObj (rule : Nat) : Nat :=
  if rule = 1 then Obj.mergeLineFlushes else if rule = 2 then Obj.mergeHoldFlushes
  else if rule = 3 then Obj.mergeEvictFlushes else Obj.mergeHazardFlushes

/-- The accesses of a flush from slot `i`, of fragment `frag`: a line, or a sector or partial access for each
sector with mask bits. -/
def flushAccs (i frag : Nat) (m : Merge) : List Acc :=
  let pl := translate m.line
  let base : Acc := { id := 0, kind := .write, reqs := m.reqs, order := m.order, bank := pl.bank, row := pl.row,
                      cls := m.cls, reg := m.reg, first := true, stamp := m.tb, frag := frag, slot := some i }
  if m.mask = 2 ^ 64 - 1 then
    [{ base with line := true, sector := pl.byte / 32, data := m.data, mask := m.mask, pois := m.pois, flen := 64
                 err := m.err }]
  else
    [0, 1].filterMap (fun k =>
      let mk := m.mask / 2 ^ (32 * k) % 2 ^ 32
      if mk = 0 then none
      else some { base with
        kind := if mk = 2 ^ 32 - 1 then .write else .rmw
        sector := pl.byte / 32 + k, data := m.data / 2 ^ (256 * k) % 2 ^ 256, mask := mk
        pois := m.pois / 2 ^ (4 * k) % 16, flen := 32
        err := (m.err.filter (fun e => e.1 / 4 = k)).map (fun e => (e.1 % 4, e.2)) })

/-- One access of a flush: into the queue, or waiting in its merge entry (R429); on a disabled channel it
completes at once (R92). -/
def flushOne (t c : Nat) (a : Acc) (s : State) : State :=
  if chState s t c = 4 then refuseAcc t c a s
  else
    let (i, s1) := newId t (supersedeBy t c a s)
    enterDirect t c { a with id := i } s1

/-- R90: flush an entry; its requests wait for every access of the flush (R67). -/
def flushMerge (t i rule : Nat) (s : State) : State :=
  let m := getMerge s t i
  if ¬ m.valid ∨ m.flushing then s
  else
    let (n, s0) := newId t s
    let c := (translate m.line).chan
    let l := flushAccs i (n * 2) m
    let s1 := m.reqs.foldl (fun s id => modReq t id (fun r => { r with left := r.left + (l.length - 1) }) s)
      (setMerge t i { m with flushing := true } s0)
    let s2 := countEv t 0x0015 rule 1 (bump t (flushObj rule) 1 s1)
    mergeSettle t c i (l.foldl (fun s a => flushOne t c a s) s2)

/-- Flush every entry that satisfies `p`, in slot order. -/
def flushWhere (t rule : Nat) (p : Merge → Bool) (s : State) : State :=
  ((mergeOf s t).filter (fun e => p e.2)).foldl (fun s e => flushMerge t e.1 rule s) s

/-- The entry has mask bits in a sector of the tile. -/
def mergeInSector (m : Merge) (sectorOff : Nat) : Bool :=
  decide (sectorOff / 64 * 64 = m.line) && decide (m.mask / 2 ^ (sectorOff % 64 / 32 * 32) % 2 ^ 32 ≠ 0)

/-- The tile offset of a sector of an access of a request. -/
def accOffset (r : Req) (a : Acc) : Nat := (addrOffset r.addr + a.off) / 32 * 32

/-- A partial write that enters the merge buffer (R89). -/
def mergeable (s : State) (t : Nat) (a : Acc) : Bool :=
  flag s t Obj.mergeEnable && !a.pass && a.kind == .rmw

/-- R90 rule 4: an access that does not enter the buffer meets an entry. -/
def mergeMeets (r : Req) (a : Acc) (m : Merge) : Bool :=
  let o := accOffset r a
  mergeInSector m o || (a.line && mergeInSector m (o + 32)) || (a.pass && r.write && decide (m.line = o / 64 * 64))

/-- R90 rule 4: flush the entries an access meets that does not enter them. -/
def mergeHazards (t : Nat) (r : Req) (a : Acc) (s : State) : State := flushWhere t 4 (mergeMeets r a) s

/-- The lowest free slot of the merge buffer. -/
def mergeSlot (s : State) (t : Nat) : Option Nat := (List.range 32).find? (fun i => ¬ (getMerge s t i).valid)

/-- Bits of the bytes of a mask. -/
def byteMaskBits (mask : Nat) : Nat := (onesOf 64 mask).foldl (fun m i => m + 0xFF * 2 ^ (8 * i)) 0

/-- R89: copy the bytes of a partial write into an entry of its line. -/
def mergeInto (m : Merge) (a : Acc) (k : Nat) (id : Nat) : Merge :=
  let mask := a.mask * 2 ^ (32 * k)
  let full := (List.range 8).foldl (fun f i => if mask / 2 ^ (8 * i) % 256 = 255 then setBit f i else f) 0
  { m with
    data := maskOffBig m.data (byteMaskBits mask) + a.data * 2 ^ (256 * k)
    mask := m.mask ||| mask
    pois := maskOff m.pois full ||| a.pois * 2 ^ (4 * k)
    reqs := m.reqs ++ [id] }
where
  /-- `n` with the bits of `b` cleared. -/
  maskOffBig (n b : Nat) : Nat := n ^^^ (n &&& b)

/-- The words of an entry whose bytes a partial write changes in part are read first; one wholly written is stored
afresh (R260). -/
def readMerge (t k : Nat) (a : Acc) (m : Merge) (s : State) : Merge × State :=
  if m.err = [] then (m, s)
  else
    let bytes := fun (i : Nat) => a.mask * 2 ^ (32 * k) / 2 ^ (8 * i) % 256
    let part := m.err.filter (fun e => decide (bytes e.1 ≠ 0 ∧ bytes e.1 ≠ 255))
    let x := heldRead part m.data m.pois
    let m1 := { m with data := x.1, pois := x.2.1, err := m.err.filter (fun e => decide (bytes e.1 = 0)) }
    let s1 := heldFound t part m.pois s
    (m1, if x.2.2 = 0 then s1
      else m.reqs.foldl (fun s id => modReq t id (fun r => { r with status := worse r.status stUncorrectable }) s) s1)

/-- The entry that a partial write of a request joins (R89). -/
def mergeMine (r : Req) (a : Acc) (m : Merge) : Bool :=
  decide (m.line = accOffset r a / 64 * 64 ∧ m.part = r.part ∧ m.cls = r.cls)

/-- R89: a partial write enters the merge buffer; a slot is free if it needs one. -/
def enterMerge (t : Nat) (r : Req) (a : Acc) (s : State) : State :=
  let line := accOffset r a / 64 * 64
  let k := accOffset r a % 64 / 32
  let s0 := flushWhere t 4 (fun m => decide (m.line = line) && !mergeMine r a m) s
  let s1 := modReq t r.id (fun r => { r with flags := setBit r.flags 2 }) s0
  match (mergeOf s1 t).find? (fun e => mergeMine r a e.2) with
  | some (i, m0) =>
    let (m, s2) := readMerge t k a m0 s1
    let m1 := mergeInto m a k r.id
    let s2 := setMerge t i m1 s2
    if m1.mask = 2 ^ 64 - 1 then flushMerge t i 1 s2 else s2
  | none =>
    let i := (mergeSlot s1 t).getD 0
    let m0 : Merge := { valid := true, line := line, part := r.part, cls := r.cls, stamp := s.time.elapsed,
                        tb := s.time.timeBase, order := r.order, reg := r.counted }
    bump t Obj.mergeAllocations 1 (setMerge t i (mergeInto m0 a k r.id) s1)

/-- R89: the slots the partial writes of a request need are free, the oldest entries being flushed to make
room; an entry whose flush waits in it frees no slot yet (R429). -/
def mergeRoom (t : Nat) (r : Req) (l : List (Nat × Acc)) : Nat → State → Bool × State
  | 0, s => (true, s)
  | fuel + 1, s =>
    let new := l.filter (fun e => chState s t e.1 ≠ 4 && mergeable s t e.2 && !(mergeOf s t).any (fun m => mergeMine r e.2 m.2))
    let lines := ((new.map (fun e => accOffset r e.2 / 64)).eraseDups).length
    let free := ((List.range 32).filter (fun i => ¬ (getMerge s t i).valid)).length
    if lines ≤ free then (true, s)
    else if s.merge.any (fun e => e.1 / 32 = t ∧ e.2.flushing) then (false, s)
    else match minBy (fun e => e.2.order) (mergeOf s t) with
      | some e => mergeRoom t r l fuel (flushMerge t e.1 3 s)
      | none => (false, s)

/-! ## Queueing a request -/

/-- An access that needs a queue entry: not merged, not forwarded, its channel not disabled (R92). -/
def needsEntry (s : State) (t : Nat) (c : Nat) (a : Acc) : Bool :=
  chState s t c ≠ 4 && !mergeable s t a && !(a.kind == .read && (forwardData s t c a).isSome)

/-- A pass-tier access in the queues must wait for an access of a request (R72, R82). -/
def hotReq (s : State) (t : Nat) (l : List (Nat × Acc)) : Bool :=
  l.any (fun e =>
    let q := getQueue s t e.1
    (q.rq ++ q.wq).any (fun b => b.pass && decide (e.2.order < b.order) && conflict e.2 b))

/-- R70: every access of a request can be given an entry, one channel after the other; a request that a
pass-tier access waits for takes entries as that tier does (R72). -/
def roomForAll (s : State) (t : Nat) (l : List (Nat × Acc)) : Bool :=
  let need := l.filter (fun e => needsEntry s t e.1 e.2)
  let hot := hotReq s t l
  ((need.map (·.1)).eraseDups).all (fun c =>
    let mine := need.filter (fun e => e.1 = c)
    match mine with
    | [] => true
    | e :: _ =>
      if e.2.kind == .read then readRoomN s t (getQueue s t c) (e.2.pass || hot) e.2.cls mine.length
      else writeRoomN s t (getQueue s t c) (e.2.pass || hot) e.2.cls mine.length)

/-- Queue one access of an accepted request. -/
def queueOne (t c : Nat) (r : Req) (a : Acc) (s : State) : State :=
  if chState s t c = 4 then refuseAcc t c a s
  else if mergeable s t a then enterMerge t r a s
  else
    match a.kind, forwardData s t c a with
    | .read, some (d, p, f) =>
      let s1 := modReq t r.id (fun r => { r with flags := setBit r.flags 0 }) (bump t (Obj.forwardedReads + c) 1
        (readSources t c a s))
      completeAcc t c { a with id := 0 } (if f &&& askedWords a.mask ≠ 0 then stUncorrectable
        else if p &&& askedWords a.mask = 0 then stOk else stPoisoned) d p s1
    | _, _ => enqueue t c a s

/-- R70, R82: a partial write that would merge must first let an earlier request go that waits at ingress
and touches a sector of it, or its bytes would be taken for older ones. -/
def mergeBehind (s : State) (t : Nat) (r : Req) (l : List (Nat × Acc)) : Bool :=
  l.any (fun e => mergeable s t e.2 &&
    (unqueued s t e.1).any (fun b => decide (b.order < r.order) && conflict b e.2))

/-- Let a request wait at the head of its FIFO (R70): for entries it is counted once. -/
def waitReq (t : Nat) (r : Req) (why : Nat) (met : List Nat) (s : State) : State :=
  let s1 := if why = 1 ∧ r.waiting ≠ 1 then bump t Obj.ingressStalls 1 s else s
  modReq t r.id (fun r => { r with waiting := why, met := met }) s1

/-- R70: queue all accesses of a request, or let it wait at the head of its FIFO. Work that waits without a
FIFO takes freed entries first (R429). -/
def queueReq (t : Nat) (r : Req) (s : State) : State :=
  let l0 := accesses r
  let met := r.met ++ (l0.filter (fun e => e.2.kind == .read && (mergeOf s t).any (fun m => mergeMeets r e.2 m.2))).map
    (fun e => e.2.off)
  let l := l0.map (fun e => (e.1, { e.2 with noFwd := met.contains e.2.off }))
  let s1 := l.foldl (fun s e => drainDeferred 64 t e.1 (if mergeable s t e.2 then s else mergeHazards t r e.2 s)) s
  if mergeBehind s1 t r l then waitReq t r 3 met s1
  else
    let (slots, s2) := mergeRoom t r l 33 s1
    if slots && roomForAll s2 t l then
      let s3 := modReq t r.id (fun r => { r with
        waiting := 0, left := l.length, chan := (l.headD (0, { id := 0, kind := .read })).1
        data := 0, pois := 0 }) s2
      l.foldl (fun s e => queueOne t e.1 r e.2 s) s3
    else waitReq t r 1 met s2

/-- Earlier requests of a requester without a response (R85): in its tile, and of those it sent to other
tiles or to a block map on their way, before it, at their owner and on their way back. -/
def earlierOpen (s : State) (t : Nat) (r : Req) : Bool :=
  (getSched s t).reqs.any (fun x => x.requester = r.requester ∧ x.order < r.order)
    || (getSched s t).reqs.any (fun x => x.requester = r.requester ∧ x.srcOrder ≠ 0 ∧ x.srcOrder < r.order ∧ x.id ≠ r.id)
    || s.farReqs.any (fun x => x.origin = t ∧ x.orig = r.requester ∧ x.srcOrder < r.order)
    || s.map.any (fun e => (e.2.input ++ e.2.held).any (fun x => x.req.source = t ∧ x.req.orig = r.requester
        ∧ x.req.srcOrder < r.order))
    || s.sched.any (fun e => e.2.reqs.any (fun x => 0x20 ≤ x.requester ∧ x.requester < 0x60 ∧ x.source = t
        ∧ x.orig = r.requester ∧ x.srcOrder < r.order))
    || s.farResps.any (fun x => x.dst = t ∧ x.req.orig = r.requester ∧ x.req.srcOrder < r.order)

/-- Merge entries that hold bytes of a requester. -/
def mergeHolds (s : State) (t requester : Nat) (m : Merge) : Bool :=
  m.reqs.any (fun id => match findReq s t id with
    | some x => decide (x.requester = requester)
    | none => false)

/-- R319: a request accepted while the owner of its pass is in Hold sets cause bit 3. -/
def holdFar (u : Nat) (passNo : Option Nat) (s : State) : State :=
  match passNo with
  | some p => if inHold s u ∧ passTravels s u p s.time.elapsed then setForce u p 3 true s else s
  | none => s

/-- A request leaves its tile for the owner (R14). The gateway meters best-effort ones (R315). -/
def sendFar (t : Nat) (r : Req) (s : State) : State :=
  let s1 := if r.passNo.isNone then meterToken t gatewayToken (linkFraction s t) s else s
  let x : FarReq := { src := t, dst := addrTile r.addr, origin := t, orig := r.orig, tag := r.tag, addr := r.addr, len := r.len,
                      write := r.write, barrier := r.barrier, passNo := r.passNo, data := r.data, pois := r.pois,
                      accepted := r.accepted, stamp := r.stamp, srcOrder := r.order, dropped := r.dropped,
                      best := r.best, part := r.part, cls := r.cls }
  portCount t 4 true (if r.write then r.len else 0)
    (holdFar x.dst r.passNo { s1 with farReqs := s1.farReqs ++ [x] })

/-- A request past its checks goes on: to the queues, or over the mesh. -/
def goOn (t : Nat) (r : Req) (s : State) : State :=
  if addrTile r.addr = t then queueReq t r s
  else sendFar t r (modSched t (fun x => { x with reqs := x.reqs.filter (fun q => q.id ≠ r.id) }) s)

/-- R85, R70: an accepted request past its checks goes on, or waits behind a barrier. -/
def proceed (t : Nat) (r : Req) (s : State) : State :=
  if r.barrier then
    let s1 := flushWhere t 4 (mergeHolds s t r.requester) s
    if earlierOpen s1 t r then waitReq t r 2 [] s1 else goOn t r s1
  else goOn t r s

/-- A request refused at ingress: no access, one response with its status (R66). -/
def rejectReq (t : Nat) (r : Req) (st : Nat) (s : State) : State := addReq t { r with status := st, left := 0 } s

/-- LastDeniedAddress (Table 5.4). -/
def denyReq (t : Nat) (r : Req) (s : State) : State :=
  setObj t Obj.lastDeniedAddress (fld 56 8 r.requester + r.addr % 2 ^ 40) (bump t Obj.accessDenials 1 s)

/-- The partition, class and regulator a request takes at ingress (R123): of the block map's own requests the
first two come with them, and no regulator counts them (R12, R127). -/
def ingressRange (s : State) (t : Nat) (r : Req) : RangeTake :=
  if r.orig = 0x60 then .take r.part r.cls 17
  else
    let far := if r.requester ≥ 0x20 ∧ r.requester < 0x60 then some r.source else none
    rangeCheck s t far r.requester r.addr r.len r.write

/-- Acceptance of a request at its owning tile (R70): its number and place in acceptance order, the
checks of R125 in their order, its pass (R96, R98), its regulator (R127), then the queues. A request
refused TOO_LONG is charged in no bucket and not counted in PassNonConforming (DESIGN CHOICE: R132 does not
say which comes first). -/
def acceptReq (t : Nat) (r0 : Req) (s : State) : State :=
  let (o, sa) := newOrder t s
  let (i, sb) := newId t sa
  let r := { r0 with id := i, order := o, here := s.time.timeBase }
  let s1 := countEv t 0x0010 r.requester 1 sb
  if badLength r.len then rejectReq t r stBadFormat s1
  else if addrOffset r.addr + r.len > populated then rejectReq t r stDecodeError s1
  else
    match ingressRange s1 t r with
    | .denied => rejectReq t r stAccessDenied (denyReq t r s1)
    | .take part cls reg =>
      let r1 := { r with part := part, cls := cls }
      let s1 := { s1 with power := { s1.power with
        partSeen := fset 0 s1.power.partSeen part (s1.time.elapsed + 1) } }
      if r.orig ≠ 0x60 ∧ partReset s1 part then rejectReq t r1 stRetry s1
      else
        let conf := conformPass t r s1
        let cls1 := match conf with | some x => cClass x.terms | none => cls
        let r2 := { r1 with cls := cls1 }
        if r.orig ≠ 0x60 ∧ (fragments (addrOffset r.addr) r.len).any (fun f => ttTooLong s1 t cls1 f.len) then
          rejectReq t r2 stTooLong (bump t (Obj.tooLongRefusals + cls1) 1 s1)
        else
          match conf, r.passNo with
          | some x, some p =>
            let r3 := { r2 with conforming := true }
            proceed t r3 (addReq t r3 (bump t (Obj.passBytes + p) r.len (setPass t p x s1)))
          | _, _ =>
            let s2 := match r.passNo with
              | some p => bump t (Obj.passNonConforming + p) 1 s1
              | none => s1
            if reg = 17 then proceed t r2 (addReq t r2 s2)
            else
              let r3 := { r2 with counted := some reg }
              proceed t r3 (addReq t r3 (regEnter t reg s2))

/-! ## Waiting requests and work -/

/-- The ingress FIFO of a request: of its requester's two, that of requests that name a pass, and for the block
map that of its pass-tier work (R70). -/
def reqFifo (r : Req) : Bool := if r.requester = 0x60 then r.conforming else r.passNo.isSome

/-- A request of a FIFO of a requester waits at its head (R70). -/
def fifoWaits (s : State) (t requester : Nat) (passFifo : Bool) : Bool :=
  (getSched s t).reqs.any (fun r => r.requester = requester ∧ reqFifo r = passFifo ∧ r.waiting ≠ 0)

/-- R57, R60: a row copied out of a disabled channel: every word of the destination is written poisoned. -/
def poisonRow (t c : Nat) (a : Acc) (s : State) : State :=
  setRawWords t c a.bank (a.prow.getD (physRow s t c a.bank a.row)) 0 (List.replicate 256 (poisonWord 0)) s

/-- Put an accepted copy or fill of the block map into the queues. On a disabled channel it is done at once:
its write is dropped, what it reads is poisoned (R60). -/
def mapEnter (t c : Nat) (a : Acc) (s : State) : State :=
  if chState s t c = 4 then refuseAcc t c a s
  else match a.kind with
    | .bounceWrite r _ _ =>
      if chState s t r = 4 then refuseAcc t c a (poisonRow t c a s) else takeEntry t c a s
    | _ => takeEntry t c a s

/-- A copy or fill of the block map can go on. -/
def mapReady (s : State) (t c : Nat) (a : Acc) : Bool :=
  chState s t c = 4 || (match a.kind with | .bounceWrite r _ _ => decide (chState s t r = 4) | _ => false)
    || entryRoom s t c a

/-- A request of the block map to another tile is sent there (R248, R249). -/
def sendMapFar (t : Nat) (r : Req) (s : State) : State :=
  let (o, s1) := newOrder t s
  let (i, s2) := newId t s1
  let r1 := { r with id := i, order := o, accepted := s.time.elapsed, stamp := s.time.timeBase }
  proceed t r1 (addReq t r1 s2)

/-- R70: the block map's work of one tier is accepted one at a time, in order; what needs an entry it cannot
have waits at the head, counted once. -/
def feedFifo (t : Nat) (pass : Bool) (get : TileSched → MapFifo) (put : MapFifo → TileSched → TileSched) : Nat → State → State
  | 0, s => s
  | fuel + 1, s =>
    let f := get (getSched s t)
    match (getSched s t).reqs.find? (fun r => r.requester = 0x60 ∧ reqFifo r = pass ∧ r.waiting ≠ 0), f.head with
    | some r, _ =>
      let s1 := queueReq t r s
      if fifoWaits s1 t 0x60 pass then s1 else feedFifo t pass get put fuel s1
    | none, some (c, a) =>
      let s1 := drainDeferred 64 t c s
      if mapReady s1 t c a then feedFifo t pass get put fuel (mapEnter t c a (modSched t (put { f with head := none }) s1))
      else s1
    | none, none =>
      match f.behind with
      | [] => s
      | .req r :: rest =>
        if addrTile r.addr = t then
          feedFifo t pass get put fuel (acceptReq t { r with accepted := s.time.elapsed, stamp := s.time.timeBase }
            (modSched t (put ⟨none, rest⟩) s))
        else if tokenHeld s t gatewayToken then s
        else feedFifo t pass get put fuel (sendMapFar t r (modSched t (put ⟨none, rest⟩) s))
      | .acc c a :: rest =>
        let (o, s1) := newOrder t s
        let (i, s2) := newId t s1
        let b := { a with id := i, order := o, frag := i * 2, stamp := s.time.timeBase }
        let s3 := drainDeferred 64 t c (countEv t 0x0010 0x60 1 s2)
        if mapReady s3 t c b then feedFifo t pass get put fuel (mapEnter t c b (modSched t (put ⟨none, rest⟩) s3))
        else bump t Obj.ingressStalls 1 (modSched t (put ⟨some (c, b), rest⟩) s3)

/-- Feed both ingress FIFOs of the block map. -/
def feedMap (t : Nat) (s : State) : State :=
  let s1 := feedFifo t true (fun x => x.mapPass) (fun f x => { x with mapPass := f })
    ((getSched s t).mapPass.behind.length + 2) s
  feedFifo t false (fun x => x.mapBest) (fun f x => { x with mapBest := f }) ((getSched s1 t).mapBest.behind.length + 2) s1

/-- INGRESS_STALL_RELEASE (R70): the request waiting at the head of a FIFO is queued once every access
of it can be given an entry; for the block map (0x60), whatever it does. -/
def stallRelease (t requester : Nat) (passFifo : Bool) (s : State) : State :=
  if requester = 0x60 then feedMap t s
  else
    match (getSched s t).reqs.find? (fun r =>
        r.requester = requester ∧ reqFifo r = passFifo ∧ (r.waiting = 1 ∨ r.waiting = 3)) with
    | some r => queueReq t r s
    | none => s

def execIngressStallRelease (t : TileN) (q : BitVec 8) (passFifo : Bool) (s : State) : Res :=
  run (stallRelease t.val q.toNat passFifo) s

/-- DEFERRED_WORK_ENTRY (R429): waiting write-backs, migrations and flushes of a channel take freed entries;
a freed read entry serves only a migration, which takes one of each direction. -/
def deferredEntry (t c : Nat) (write : Bool) (s : State) : State :=
  if write ∨ (getQueue s t c).deferred.any (fun a => a.job == .migrate) then drainDeferred 64 t c s else s

def execDeferredWorkEntry (t : TileN) (c : ChanN) (write : Bool) (s : State) : Res :=
  run (deferredEntry t.val c.val write) s

/-- BARRIER_RELEASE (R85): a barrier request goes on once every earlier request of its requester has
received its response. -/
def barrierRelease (t requester : Nat) (s : State) : State :=
  match (getSched s t).reqs.find? (fun r => r.requester = requester ∧ r.waiting = 2) with
  | some r => if earlierOpen s t r then s else goOn t r s
  | none => s

def execBarrierRelease (t : TileN) (q : BitVec 8) (s : State) : Res := run (barrierRelease t.val q.toNat) s

/-- The MergeHoldLimit in force: a write applies from the next tick (R90 rule 2). -/
def holdLimit (s : State) (t : Nat) : Nat :=
  let x := getSched s t
  if x.holdSince = s.time.elapsed + 1 then x.holdOld else getObj s t Obj.mergeHoldLimit

/-- The limit in force until the next tick is kept when MergeHoldLimit is written. -/
def keepHoldLimit (t : Nat) (s : State) : State :=
  let old := holdLimit s t
  modSched t (fun x => { x with holdOld := old, holdSince := s.time.elapsed + 1 }) s

/-- MERGE_HOLD_FLUSH (R90 rule 2): an entry held for more than MergeHoldLimit - 10 ns is flushed; not
during a trip (R92). -/
def mergeHoldFlush (t i : Nat) (s : State) : State :=
  let m := getMerge s t i
  if m.valid ∧ ¬ tripped s ∧ s.time.elapsed - m.stamp + 10 > holdLimit s t then flushMerge t i 2 s
  else s

def execMergeHoldFlush (t : TileN) (slot : Fin 32) (s : State) : Res := run (mergeHoldFlush t.val slot.val) s

/-! ## Beats (R146, R147, R409 to R411) -/

/-- Fields of a request header (Table 17.3). -/
def hdAddr (h : Nat) : Nat := bits h 0 40
def hdLen (h : Nat) : Nat := bits h 52 12
def hdWrite (h : Nat) : Bool := bit h 69
def hdBarrier (h : Nat) : Bool := bit h 70
def hdPassValid (h : Nat) : Bool := bit h 71
def hdPass (h : Nat) : Nat := bits h 72 8
def hdTag (h : Nat) : Nat := bits h 80 16

/-- A reserved bit of the header is set: on host ports also bits 127 to 96; on the gateway kind 0
carries the requester code in 119 to 112, tiles in 107 to 96, and the rest zero (R409, R415). -/
def hdReserved (h : Nat) (gateway : Bool) : Bool :=
  decide (bits h 64 5 ≠ 0 ∨ bits h 40 12 ≠ 0) ||
    (if gateway then decide (bits h 120 8 ≠ 0 ∨ bits h 108 4 ≠ 0) else decide (bits h 96 32 ≠ 0))

/-- Key of an assembly buffer (R146). -/
def asmKey (t : Nat) (src : Side) (passFifo : Bool) : Nat :=
  match src with
  | .host p => t * 128 + p.val * 2 + b2n passFifo
  | .gateway u => t * 128 + 64 + u.val

/-- Width in bytes of the beats of a side; the gateway is a TRP-3 port (R415). -/
def sideWidth (s : State) (t : Nat) : Side → Nat
  | .host p => portWidth s t p.val
  | .gateway _ => 64

/-- Stall counters: host ports 0 to 3, gateway 4 (R148). -/
def sideIndex : Side → Nat
  | .host p => p.val
  | .gateway _ => 4

/-- The requester code of a side. -/
def sideCode : Side → Nat
  | .host p => p.val
  | .gateway u => 0x20 + u.val

/-- Bring-up phases 1 to 7 run (R382). -/
def starting (s : State) : Bool :=
  let p := getObj s dev Obj.bringupPhase
  decide (1 ≤ p ∧ p ≤ 7)

/-- The side withholds its acknowledge of every beat: bring-up (R382), Hold, a tile reset, a port in
reset or without its clock (R414, R427). -/
def sideCloses (s : State) (t : Nat) (src : Side) : Bool :=
  starting s || inHold s t || inReset s t ||
    (match src with
     | .host p => getObj s t (Obj.portState + p.val) ≠ 1
     | .gateway _ => false)

/-- The buffer a data beat belongs to: the one begun last among those of the side. -/
def dataBuffer (s : State) (t : Nat) (src : Side) : Option Nat :=
  let ks := match src with
    | .host p => [t * 128 + p.val * 2, t * 128 + p.val * 2 + 1]
    | .gateway u => [t * 128 + 64 + u.val]
  let l := ks.filter (fun k => (fget ({} : Asm) s.asm k).active)
  match l with
  | [] => none
  | [k] => some k
  | k :: k2 :: _ =>
    if (fget ({} : Asm) s.asm k).begun < (fget ({} : Asm) s.asm k2).begun then some k2 else some k

/-- R148: a gap before the next beat of a partial request that exceeds StallThreshold, unless the tile
withheld its acknowledge within it. -/
def noteStall (t i gap : Nat) (held : Bool) (s : State) : State :=
  if held ∨ gap ≤ getObj s t Obj.stallThreshold then s
  else
    let s1 := bump t (Obj.stallCount + i) 1 (bump t (Obj.stallTotal + i) gap s)
    setObj t (Obj.stallLongest + i) (max (getObj s1 t (Obj.stallLongest + i)) gap) s1

/-- The data and the poisoned bytes of an assembled write (R410, R411). -/
def asmData (w addr len : Nat) (beats : List (Nat × Bool)) : Nat × Nat :=
  let a0 := addr % w
  let parts := beats.foldl (fun (acc : Nat × Nat × Nat) b =>
    let j := acc.2.2
    let first := if j = 0 then 0 else j * w - a0
    let last := min len ((j + 1) * w - a0)
    let n := last - first
    let lane := if j = 0 then a0 else 0
    (acc.1 + (b.1 / 2 ^ (8 * lane) % 2 ^ (8 * n)) * 2 ^ (8 * first),
     acc.2.1 + (if b.2 then (2 ^ n - 1) * 2 ^ first else 0), j + 1)) (0, 0, 0)
  (parts.1, parts.2.1)

/-- A whole request from a header and its data beats, accepted now (R70, R147). -/
def asmReq (s : State) (t : Nat) (src : Side) (h : Nat) (beats : List (Nat × Bool)) : Req :=
  let (d, p) := asmData (sideWidth s t src) (hdAddr h) (hdLen h) beats
  { id := 0, requester := sideCode src
    orig := match src with | .host q => q.val | .gateway _ => bits h 112 8
    source := match src with | .host _ => t | .gateway u => u.val
    tag := hdTag h, addr := hdAddr h, len := hdLen h, write := hdWrite h, barrier := hdBarrier h
    passNo := if hdPassValid h then some (hdPass h) else none
    accepted := s.time.elapsed, stamp := s.time.timeBase, data := d, pois := p }

/-- The request leaves for another tile, or is accepted here (R14). A malformed header or length is
answered by the tile it entered (R62, R409). -/
def dispatchReq (t : Nat) (src : Side) (bad : Bool) (r : Req) (s : State) : State :=
  if bad then
    let (o, s1) := newOrder t s
    let (i, s2) := newId t s1
    rejectReq t { r with id := i, order := o } stBadFormat (countEv t 0x0010 r.requester 1 s2)
  else
    match src with
    | .host _ =>
      let s0 := if r.passNo.isNone then meterToken t (portToken r.orig) (linkFraction s t) s else s
      if addrTile r.addr = t then acceptReq t r s0
      else
        let (o, s1) := newOrder t s0
        let (i, s2) := newId t s1
        let r1 := { r with id := i, order := o }
        proceed t r1 (addReq t r1 s2)
    | .gateway _ => acceptReq t r s

/-- What a beat does to the buffers of its side: refused (acknowledge withheld), held in a buffer, or
completing a request. -/
inductive BeatKind where
  | closed
  /-- Acknowledge withheld from a beat of the request in a buffer (R148). -/
  | withheld (key : Nat)
  | hold (key : Nat) (a : Asm)
  | complete (key : Nat) (a : Asm)
  deriving DecidableEq, Repr

/-- R315: best-effort requests of a host port, and those to other tiles, are metered: the beat that would
complete one waits for its token. -/
def metered (s : State) (t : Nat) (src : Side) (h : Nat) : Bool :=
  match src with
  | .host p => !hdPassValid h && (tokenHeld s t (portToken p.val)
      || (decide (addrTile (hdAddr h) ≠ t) && tokenHeld s t gatewayToken))
  | .gateway _ => false

/-- R146, R147, R427: the fate of a beat. -/
def beatKind (s : State) (t : Nat) (src : Side) (hdr : Bool) (beat : Nat) (pois : Bool) : BeatKind :=
  if hdr then
    let h := beat % 2 ^ 128
    let pf := match src with | .host _ => hdPassValid h | .gateway _ => false
    let key := asmKey t src pf
    if sideCloses s t src ∨ tripped s ∨ (fget ({} : Asm) s.asm key).active ∨ fifoWaits s t (sideCode src) (hdPassValid h)
    then .closed
    else
      let gw := match src with | .host _ => false | .gateway _ => true
      let n := if hdWrite h ∧ ¬ badLength (hdLen h) ∧ ¬ hdReserved h gw then beatCount (sideWidth s t src) (hdAddr h) (hdLen h) else 0
      let other := fget ({} : Asm) s.asm (asmKey t src (!pf))
      let a : Asm := { active := true, header := h, need := n, ack := s.time.elapsed, begun := other.begun + 1 }
      if n ≠ 0 then .hold key a else if metered s t src h then .closed else .complete key a
  else
    match dataBuffer s t src with
    | none => .closed
    | some key =>
      let a0 := fget ({} : Asm) s.asm key
      let p := pois && decide (sideWidth s t src ≠ 16)
      let a := { a0 with need := a0.need - 1, beats := a0.beats ++ [(beat, p)], ack := s.time.elapsed, held := false }
      if sideCloses s t src ∨ fifoWaits s t (sideCode src) (hdPassValid a0.header) then .withheld key
      else if a.need ≠ 0 then .hold key a
      else if metered s t src a0.header then .withheld key else .complete key a

/-- Bytes and stall of a data beat (R148, R400). -/
def beatCounts (t : Nat) (src : Side) (hdr : Bool) (key : Nat) (a : Asm) (s : State) : State :=
  if hdr then s
  else
    let w := sideWidth s t src
    let j := a.beats.length - 1
    let a0 := hdAddr a.header % w
    let n := min (hdLen a.header) ((j + 1) * w - a0) - (if j = 0 then 0 else j * w - a0)
    portCount t (sideIndex src) false n
      (noteStall t (sideIndex src) (s.time.elapsed - (fget ({} : Asm) s.asm key).ack) (fget ({} : Asm) s.asm key).held s)

/-- R148: the tile withholds its acknowledge from a beat of a request it holds. -/
def withholdBeat (key : Nat) (s : State) : State :=
  { s with asm := fupd {} s.asm key (fun a => { a with held := a.active }) }

/-- REQUEST_BEAT (R146): a beat that does not complete its request goes into the assembly buffer. -/
def requestBeat (t : Nat) (src : Side) (hdr : Bool) (beat : Nat) (pois : Bool) (s : State) : State :=
  match beatKind s t src hdr beat pois with
  | .hold key a =>
    let s1 := beatCounts t src hdr key a s
    { s1 with asm := fset {} s1.asm key a }
  | .withheld key => withholdBeat key s
  | _ => s

/-- REQUEST_ACCEPT (R147): the beat that completes a request; it is accepted. -/
def requestAccept (t : Nat) (src : Side) (hdr : Bool) (beat : Nat) (pois : Bool) (s : State) : State :=
  match beatKind s t src hdr beat pois with
  | .complete key a =>
    let s1 := beatCounts t src hdr key a s
    let s2 := { s1 with asm := fset {} s1.asm key {} }
    let gw := match src with | .host _ => false | .gateway _ => true
    dispatchReq t src (hdReserved a.header gw || badLength (hdLen a.header))
      (asmReq s2 t src a.header a.beats) s2
  | .withheld key => withholdBeat key s
  | _ => s

def execRequestBeat (t : TileN) (src : Side) (hdr : Bool) (beat : BitVec 512) (poison : Bool) (s : State) : Res :=
  run (requestBeat t.val src hdr beat.toNat poison) s

def execRequestAccept (t : TileN) (src : Side) (hdr : Bool) (beat : BitVec 512) (poison : Bool) (s : State) : Res :=
  run (requestAccept t.val src hdr beat.toNat poison) s

/-- The request of a message from another tile, as the tile that takes it sees it: its requester is the gateway
for the tile of the one that asks (R63). -/
def farReqOf (x : FarReq) : Req :=
  { id := 0, order := 0, requester := 0x20 + x.origin, orig := x.orig, source := x.origin, tag := x.tag, addr := x.addr
    len := x.len, write := x.write, barrier := x.barrier, passNo := x.passNo, accepted := x.accepted
    stamp := x.stamp, data := x.data, pois := x.pois, dropped := x.dropped, srcOrder := x.srcOrder
    best := x.best, part := x.part, cls := x.cls }

/-- The oldest message from a source tile on its way to a tile. -/
def farHead (s : State) (t src : Nat) : Option FarReq := s.farReqs.find? (fun x => x.dst = t ∧ x.src = src)

/-- The tile takes that message. -/
def takeFar (t src : Nat) (x : FarReq) (s : State) : State :=
  portCount t 4 false (if x.write then x.len else 0)
    { s with farReqs := removeFirst (fun y => y.dst = t ∧ y.src = src) s.farReqs }

/-- FAR_REQUEST_ARRIVAL (R14, R86): the oldest request from a source tile reaches its owner, in the
order sent, unless the gateway's FIFO for it waits, the tile is in Hold, tripped or in reset. One that names an
entry comes to the block map (R241); one that is forwarded waits for FORWARDED_RESOLUTION. -/
def farRequest (t src : Nat) (s : State) : State :=
  if starting s ∨ inHold s t ∨ tripped s ∨ inReset s t then s
  else
    match farHead s t src with
    | none => s
    | some x =>
      match x.kind with
      | .device =>
        if fifoWaits s t (0x20 + x.origin) x.passNo.isSome then s else acceptReq t (farReqOf x) (takeFar t src x s)
      | .mapped e off part w =>
        modMap t (fun m => { m with input := m.input ++ [⟨farReqOf x, e, off, part, w⟩] }) (takeFar t src x s)
      | .block .. => s

def execFarRequestArrival (t src : TileN) (s : State) : Res := run (farRequest t.val src.val) s

end Sys2Proof.Machine
end

