-- ==== Sys2Proof/Machine/Layer.lean ====
section
/-! DEFINITION. The Stack Layer Port and the layers: command words (R45 to R58), done reports (R43,
Table 2.3) and read beats (R261). -/

namespace Sys2Proof.Machine

open Sys2Proof

/-! ## Command words (R45 to R47) -/

/-- Number of set bits among the low 20. -/
def onesCount (w : Nat) : Nat := (onesOf 20 w).length

/-- R45: a word with its parity bit set for even parity. -/
def evenWord (w : Nat) : Nat := if onesCount w % 2 = 0 then w else w + 1

/-- R46: the row word of a physical row (8192 + i is spare i). -/
def rowWord (b prow : Nat) : Nat :=
  evenWord (fld 19 1 1 + fld 15 4 b +
    (if prow ≥ 8192 then fld 14 1 1 + fld 1 4 (prow - 8192) else fld 1 13 prow))

/-- R47: an operation word. -/
def opWord (op b operand : Nat) : Nat := evenWord (fld 15 4 op + fld 11 4 b + fld 1 10 operand)

def wMarker (w : Nat) : Bool := bit w 19
def wOpcode (w : Nat) : Nat := bits w 15 4
def wBank (w : Nat) : Nat := bits w 11 4
def wRowBank (w : Nat) : Nat := bits w 15 4
/-- The physical row a row word names, or none where a reserved bit is set. -/
def wRow (w : Nat) : Option Nat :=
  if bit w 14 then (if bits w 5 9 = 0 then some (8192 + bits w 1 4) else none) else some (bits w 1 13)
def wSector (w : Nat) : Nat := bits w 5 6
def wLine (w : Nat) : Bool := bit w 4
def wAuto (w : Nat) : Bool := bit w 3

/-- The subarray of a physical row; spares form subarray 16 (R37). -/
def subarray (prow : Nat) : Nat := if prow ≥ 8192 then 16 else prow / 512

/-! ## The two handshakes (R42) -/

/-- Transfers of a downward entry: its word, its argument word, its write beats. -/
def downSize (d : Down) : Nat := 1 + (if d.arg.isSome then 1 else 0) + d.beats.length

/-- Downward transfers of a channel the layer has not acknowledged, or that wait to be sent. -/
def downTransfers (l : LayerS) : Nat := sumOf (l.down.map downSize)

/-- R42: the logic has at most four of them out; what follows waits in the controller. -/
def downOut (l : LayerS) : Nat := min 4 (downTransfers l)

/-- Upward transfers of a channel that the logic has not acknowledged, or that wait in the layer. -/
def upTransfers (l : LayerS) : Nat := sumOf (l.up.map (fun u => match u with | .done .. => 1 | .beats w => (w.length + 1) / 2))

/-- R42: the layer has at most four of them out; what follows waits in the layer. -/
def upOut (l : LayerS) : Nat := min 4 (upTransfers l)

/-- R42: the command path can take another word. -/
def downRoom (s : State) (t c : Nat) : Bool := decide (downTransfers (getLayer s t c) < 4)

/-- Send a command word down. -/
def sendDown (t c : Nat) (d : Down) (s : State) : State := modLayer t c (fun l => { l with down := l.down ++ [d] }) s

/-- Words already sent that change the row of a bank. -/
def bankPending (s : State) (t c b : Nat) : Bool :=
  (getLayer s t c).down.any (fun d =>
    if wMarker d.word then decide (wRowBank d.word = b)
    else
      let op := wOpcode d.word
      decide (op = 4 ∨ op = 5) || (decide (wBank d.word = b) &&
        (decide (op = 3 ∨ op = 6 ∨ op = 7) || (decide (op = 1 ∨ op = 2) && wAuto d.word))))

/-- Change an access in its queue. -/
def modAcc (t c id : Nat) (f : Acc → Acc) (s : State) : State :=
  let g := fun (a : Acc) => if a.id = id then f a else a
  modQueue t c (fun q => { q with rq := q.rq.map g, wq := q.wq.map g }) s

/-! ## The layer's side -/

/-- The layer captures the transfer at the front of the downward path; one of odd parity is discarded, and
kept for the resend its report asks for (R45). -/
def capture (t c : Nat) (odd : Bool) (s : State) : State :=
  modLayer t c (fun l => match l.down with
    | d :: r => { l with down := r, last := some d, failed := if odd then l.failed ++ [d] else l.failed, awaits := none }
    | [] => { l with last := none, awaits := none }) s

/-- Append an upward transfer. -/
def sendUp (t c : Nat) (u : Up) (s : State) : State := modLayer t c (fun l => { l with up := l.up ++ [u] }) s

/-- A done report (R43). The bank field of a report that names no bank (REF, MRW and TRW, PREA) is 0
(DESIGN CHOICE: Table 2.3 leaves it open). -/
def report (t c b ev : Nat) (s : State) : State := sendUp t c (.done b ev) s

/-- The bank a word addresses. -/
def addressed (w : Nat) : Nat := if wMarker w then wRowBank w else wBank w

/-- A captured word of even parity: executed, or refused with a done report of 0x9 (R48). -/
def layerWord (t c w : Nat) (ok : State → Bool) (f : State → State) (s : State) : State :=
  let s1 := capture t c false s
  if ok s1 then f s1 else report t c (addressed w) 9 s1

/-- Start an operation that holds a bank until its done report. -/
def holdBank (t c b ev : Nat) (s : State) : State := report t c b ev (setBank t c b (.busy ev) s)

/-- All banks of a channel satisfy `p`. -/
def allBanks (s : State) (t c : Nat) (p : BankS → Bool) : Bool := (List.range 16).all (fun b => p (getBank s t c b))

def isClosed (b : BankS) : Bool := b == .closed
/-- The open, sensed row of a bank. -/
def openRow (b : BankS) : Option Nat := match b with | .opened r => some r | _ => none

/-- ACT (R46, R48, R51): the bank must be precharged. -/
def layerAct (t c w : Nat) (s : State) : State :=
  layerWord t c w (fun s => isClosed (getBank s t c (wRowBank w)) && (wRow w).isSome) (fun s =>
    let b := wRowBank w
    countEv t 0x0003 c 1 (report t c b 1 (setBank t c b (.opening ((wRow w).getD 0)) s))) s

/-- The 72-bit words an open row gives a RD word. -/
def rdWords (s : State) (t c w prow : Nat) : List Nat :=
  rawWords s t c (wBank w) prow (wSector w * 4) (if wLine w then 8 else 4)

/-- A RD or WR word is well formed: reserved bits clear, an even sector for a line, the row open. -/
def colOk (t c w : Nat) (s : State) : Bool :=
  decide (bits w 1 2 = 0) && (!wLine w || decide (wSector w % 2 = 0)) && (openRow (getBank s t c (wBank w))).isSome

/-- What the read beats of the captured word are for. -/
def readTag (s : State) (t c : Nat) : RdTag :=
  match (getLayer s t c).last with
  | some d =>
    let q := getQueue s t c
    if q.rq.any (fun a => a.id = d.acc) then .access d.acc
    else if q.wq.any (fun a => a.id = d.acc) then .rmw d.acc
    else .drop
  | none => .drop

/-- RD (R47): the beats go up; auto-precharge follows the restore (R52). -/
def layerRd (t c w : Nat) (s : State) : State :=
  layerWord t c w (colOk t c w) (fun s =>
    let b := wBank w
    let prow := (openRow (getBank s t c b)).getD 0
    let s1 := modLayer t c (fun l => { l with reads := l.reads ++ [readTag s t c] })
      (sendUp t c (.beats (rdWords s t c w prow)) s)
    if wAuto w then holdBank t c b 2 s1 else s1) s

/-- The two 72-bit words of a write beat: data in bits 127 to 0, check bits in 143 to 128 (R38). -/
def beatWords (v : Nat) : List Nat :=
  [v % 2 ^ 64 + bits v 128 8 * 2 ^ 64, v / 2 ^ 64 % 2 ^ 64 + bits v 136 8 * 2 ^ 64]

/-- A beat of two words. -/
def mkBeat (w0 w1 : Nat) : Nat :=
  w0 % 2 ^ 64 + (w1 % 2 ^ 64) * 2 ^ 64 + bits w0 64 8 * 2 ^ 128 + bits w1 64 8 * 2 ^ 136

/-- A bounce copy of the block map is done: both its entries and the buffer are free, and a retirement of its
source that waited goes on (R57, R59). -/
def finishBounce (t c : Nat) (a : Acc) (s : State) : State :=
  let s1 := completeAcc t c a stOk 0 0 (modBounce t c (fun _ => {}) (bump t (Obj.bounceCopies + c) 1 s))
  match a.kind with
  | .bounceWrite r b _ => retirePending t r b (modQueue t r (fun q => { q with rq := q.rq.filter (fun x => x.id ≠ a.id) }) s1)
  | _ => s1

/-- R53: the last write beat of an access is acknowledged: it is complete, or its line of several is. The
entry of a migration stays until MIGRATION_COMPLETE. -/
def writeTaken (t c : Nat) (a : Acc) (s : State) : State :=
  let more := modAcc t c a.id (fun x => { x with done := x.done + 1 }) s
  match a.kind with
  | .bounceWrite .. =>
    if a.done + 1 < 32 ∨ a.job == .migrate then more else finishBounce t c a more
  | .fill => if a.done + 1 < 32 then more else completeAcc t c a stOk 0 0 (bump t (Obj.rowFills + c) 1 more)
  | .writeBack => completeAcc t c a stOk 0 0 (bump t (Obj.writeBacks + c) 1 s)
  | .rmw => completeAcc t c a stOk 0 0 (countEv t 0x0007 c 1 (bump t (Obj.readModifyWrites + c) 1 s))
  | _ => completeAcc t c a stOk 0 0 s

/-- R53: the access whose last write beat the layer acknowledged. -/
def writeDone (t c : Nat) (line : Bool) (s : State) : State :=
  match (getLayer s t c).last with
  | none => s
  | some d =>
    match (getQueue s t c).wq.find? (fun a => a.id = d.acc) with
    | none => s
    | some a => writeTaken t c a (countEv t 0x0002 c (accBytes line) s)

/-- WR (R47, R53): the beats are stored in the open row; the write restore report follows, one for each WR
(DESIGN CHOICE: Table 2.3 names it for the last WR to the open row). A word with fewer or more beats than it
needs is not complete, and nothing is captured. -/
def layerWr (t c w : Nat) (beats : List Nat) (s : State) : State :=
  if beats.length ≠ (if wLine w then 4 else 2) then s
  else
    layerWord t c w (colOk t c w) (fun s =>
      let b := wBank w
      let prow := (openRow (getBank s t c b)).getD 0
      let s1 := setRawWords t c b prow (wSector w * 4) ((beats.map beatWords).flatten) s
      let s2 := report t c b 3 (writeDone t c (wLine w) s1)
      if wAuto w then holdBank t c b 2 s2 else s2) s

/-- PRE (R47, R52): open or precharged. -/
def layerPre (t c w : Nat) (s : State) : State :=
  layerWord t c w (fun s => decide (bits w 1 10 = 0) &&
      (isClosed (getBank s t c (wBank w)) || (openRow (getBank s t c (wBank w))).isSome))
    (fun s => holdBank t c (wBank w) 2 s) s

/-- Put every bank of a channel into a state. -/
def setBanks (t c : Nat) (v : BankS) (s : State) : State :=
  (List.range 16).foldl (fun s b => setBank t c b v s) s

/-- PREA (R47): every bank. -/
def layerPrea (t c w : Nat) (s : State) : State :=
  layerWord t c w (fun _ => decide (bits w 1 14 = 0))
    (fun s => report t c 0 0xA (setBanks t c (.busy 0xA) s)) s

/-- REF (R49, R51): all banks precharged; the refresh counter runs through 8,208 rows. -/
def layerRef (t c w : Nat) (s : State) : State :=
  layerWord t c w (fun s => decide (bits w 1 14 = 0) && allBanks s t c isClosed)
    (fun s =>
      let s1 := modLayer t c (fun l => { l with refreshCounter := (l.refreshCounter + 1) % 8208 }) s
      countEv t 0x0003 c 16 (report t c 0 4 (setBanks t c (.busy 4) s1))) s

/-- A word and its argument word (R46). -/
def layerPair (t c w arg : Nat) (ok : State → Bool) (f : State → State) (s : State) : State :=
  layerWord t c w (fun s => wMarker arg && (wRow arg).isSome && decide (bits w 1 10 = 0)
      && decide (wRowBank arg = wBank w) && ok s) f s

/-- RCOPY (R55, R56): the stored bits of the open source row go to another row of its subarray. -/
def layerRcopy (t c w arg : Nat) (s : State) : State :=
  layerPair t c w arg (fun s =>
      match openRow (getBank s t c (wBank w)), wRow arg with
      | some src, some dst => decide (src ≠ dst) && decide (subarray src = subarray dst)
      | _, _ => false)
    (fun s =>
      let b := wBank w
      let src := (openRow (getBank s t c b)).getD 0
      let dst := (wRow arg).getD 0
      countEv t 0x0003 c 1 (holdBank t c b 5 (setRawWords t c b dst 0 (rawWords s t c b src 0 256) s))) s

/-- RFILL (R58): FillData and FillCheck into every word; absent on SLP-2 layers (Table 2.9). -/
def layerRfill (t c w arg : Nat) (s : State) : State :=
  layerPair t c w arg (fun s => isClosed (getBank s t c (wBank w)) && !slp2 s)
    (fun s =>
      let b := wBank w
      let l := getLayer s t c
      countEv t 0x0003 c 1 (holdBank t c b 6
        (setRawWords t c b ((wRow arg).getD 0) 0 (List.replicate 256 (l.fillData + l.fillCheck * 2 ^ 64)) s))) s

/-- The layer's number and generation as LayerIdentity gives them (Table 2.5). -/
def layerIdentity (t c : Nat) : Nat :=
  fld 48 16 (Config.layerMaker (c / 2)) + fld 40 8 Config.layerGeneration + fld 32 8 (c / 2)
    + fld 0 32 (Config.layerSerial t (c / 2))

/-- The value of a mode register (Table 2.5). -/
def modeReg (s : State) (t c r : Nat) : Option Nat :=
  let l := getLayer s t c
  if r = 0 then some (layerIdentity t c)
  else if r = 1 then some l.refreshCounter
  else if r = 2 then some (if c % 2 = 0 then l.temperature else 0)
  else if r = 4 then some l.fillData
  else if r = 5 then some l.fillCheck
  else if r = 8 then some (Config.replicaReference t c % 2 ^ 16)
  else none

/-- R47, Table 2.5: the register a mode word names; reserved fields must be clear. -/
def modeWordOk (w : Nat) : Bool := decide (bits w 1 4 = 0) && decide (wBank w = 0)

/-- MRW: RefreshCounter, FillData and FillCheck are writable (Table 2.5). -/
def layerMrw (t c w v : Nat) (s : State) : State :=
  let r := wSector w
  layerWord t c w (fun _ => modeWordOk w && (r = 1 || r = 4 || r = 5))
    (fun s =>
      let (x, s1) := if r = 1 ∧ v % 2 ^ 14 ≥ 8208 then draw s else (0, s)
      report t c 0 7 (modLayer t c (fun l =>
        if r = 1 then { l with refreshCounter := if v % 2 ^ 14 < 8208 then v % 2 ^ 14 else x % 8208 }
        else if r = 4 then { l with fillData := v % 2 ^ 64 }
        else { l with fillCheck := v % 2 ^ 8 }) s1)) s

/-- MRR: one read beat with the value in slp_dq[63:0]. -/
def layerMrr (t c w : Nat) (s : State) : State :=
  let r := wSector w
  layerWord t c w (fun s => modeWordOk w && (modeReg s t c r).isSome)
    (fun s => modLayer t c (fun l => { l with reads := l.reads ++ [.mode r] })
      (sendUp t c (.beats [(modeReg s t c r).getD 0]) s)) s

/-- TRW (Table 2.6): a layer-side trim, all banks precharged; an SLP-2 layer takes it in any bank state
(R390). -/
def layerTrw (t c w : Nat) (s : State) : State :=
  let i := bits w 7 4
  let v := bits w 1 6
  layerWord t c w (fun s => decide (i ≤ 5) && (i ≠ 5 || decide (v < 32)) && decide (wBank w = 0)
      && (slp2 s || allBanks s t c isClosed))
    (fun s => report t c 0 7 (modLayer t c (fun l => { l with trims := setNth l.trims i v }) s)) s

/-- TRR (Table 2.6): the trim in slp_dq[5:0]. -/
def layerTrr (t c w : Nat) (s : State) : State :=
  let i := bits w 7 4
  layerWord t c w (fun _ => decide (i ≤ 5) && decide (bits w 1 6 = 0) && decide (wBank w = 0))
    (fun s => modLayer t c (fun l => { l with reads := l.reads ++ [.trim i] })
      (sendUp t c (.beats [(getLayer s t c).trims.getD i 0]) s)) s

/-- A word of even parity that needs no more transfers goes to the operation it names (R46, R47); a reserved
opcode is a violation (R48). MRW takes the data of its one beat. -/
def layerDo (t c w : Nat) (arg : Option Nat) (beats : List Nat) (s : State) : State :=
  if wMarker w then layerAct t c w s
  else match wOpcode w with
    | 1 => layerRd t c w s
    | 2 => layerWr t c w beats s
    | 3 => layerPre t c w s
    | 4 => layerPrea t c w s
    | 5 => layerRef t c w s
    | 6 => layerRcopy t c w (arg.getD 0) s
    | 7 => layerRfill t c w (arg.getD 0) s
    | 8 => match beats with
      | [v] => layerMrw t c w (v % 2 ^ 64) s
      | _ => s
    | 9 => layerMrr t c w s
    | 0xA => layerTrw t c w s
    | 0xB => layerTrr t c w s
    | _ => layerWord t c w (fun _ => false) id s

/-- The word needs an argument word after it (R46). -/
def takesArg (w : Nat) : Bool := !wMarker w && (wOpcode w = 6 || wOpcode w = 7)

/-- The layer captures a command transfer: a word, the argument word sent with it, its beats. The idle slot
of SLP-2 is no command (R61). A word of odd parity, or whose argument has it, is discarded with a report of
0x8 (R45, R59). An RCOPY or RFILL word on its own waits for its argument, and a row word directly after it is
that argument and no ACT (R46); a word of another kind there leaves it without one, a violation (DEDUCED). -/
def layerTake (t c w : Nat) (arg : Option Nat) (beats : List Nat) (s : State) : State :=
  let odd := decide (onesCount w % 2 = 1) || (match arg with | some a => decide (onesCount a % 2 = 1) | none => false)
  if slp2 s ∧ w = 0 then s
  else if odd then report t c 0 8 (capture t c true s)
  else match (getLayer s t c).awaits with
    | some w0 =>
      if wMarker w then layerDo t c w0 (some w) [] s
      else layerDo t c w arg beats (report t c (wBank w0) 9 (modLayer t c (fun l => { l with awaits := none }) s))
    | none =>
      if takesArg w ∧ arg.isNone then modLayer t c (fun l => { l with awaits := some w }) s
      else layerDo t c w arg beats s

/-! ## The controller's side -/

/-- A timed completion of an ACT or REF: a sample of its layer's speed (R31). -/
def speedSample (t c count : Nat) (s : State) : State :=
  { s with speed := fupd {} s.speed (t * 24 + c / 2) (fun x => { x with sum := x.sum + count, count := x.count + 1 }) }

/-- A failed word still meets the bank state it needs, with every word sent after it (R48), and may be sent
at all: after a trip only REF, MRR and PREA are (R59). -/
def resendOk (s : State) (t c : Nat) (d : Down) : Bool :=
  let w := d.word
  let op := wOpcode w
  if tripped s then !wMarker w && (op = 4 || op = 5 || op = 9)
  else if wMarker w then isClosed (getBank s t c (wRowBank w)) && !bankPending s t c (wRowBank w)
  else if op = 1 ∨ op = 2 ∨ op = 6 then (openRow (getBank s t c (wBank w))).isSome && !bankPending s t c (wBank w)
  else if op = 7 then isClosed (getBank s t c (wBank w)) && !bankPending s t c (wBank w)
  else if op = 0xA then slp2 s || (List.range 16).all (fun b => isClosed (getBank s t c b) && !bankPending s t c b)
  else true

/-- R45: the controller sends the oldest failed word again; a third failure is a link fault. A word that its
bank can no longer take, because another closed the row meanwhile, is not sent: its access returns to its
queue and is chosen afresh, so that no violation arises (R48; DEDUCED). -/
def resend (t c : Nat) (s : State) : State :=
  match (getLayer s t c).failed with
  | [] => s
  | d :: r =>
    if d.fails + 1 ≥ 3 then linkFault t c s
    else
      let s1 := modLayer t c (fun l => { l with failed := r }) s
      if resendOk s1 t c d then modLayer t c (fun l => { l with down := { d with fails := d.fails + 1 } :: l.down }) s1
      else (c :: bouncePeers s1 t c).foldl (fun s x => returnAccs t x [d.acc] s) s1

/-- Complete the access of a kind that holds a bank (RCOPY, RFILL). -/
def finishBankWork (t c b : Nat) (p : Acc → Bool) (s : State) : State :=
  match (getQueue s t c).wq.find? (fun a => decide (a.bank = b ∧ a.stage ≠ 0) && p a) with
  | some a => completeAcc t c a stOk 0 0 s
  | none => s

/-- Close the banks held by an operation that covers the whole channel. -/
def closeBusy (t c ev : Nat) (s : State) : State :=
  (List.range 16).foldl (fun s b => if getBank s t c b = .busy ev then setBank t c b .closed s else s) s

/-- What a done report does (Table 2.3). On SLP-2 layers, which have no done strobe, the same reports stand for
the ends of the intervals that the controller times itself (R61; DESIGN CHOICE: the model has one event for
the end of a bank operation). -/
def doneEffect (t c b ev count : Nat) (s : State) : State :=
  match ev with
  | 1 => match getBank s t c b with
    | .opening r => speedSample t c count (setBank t c b (.opened r) s)
    | _ => s
  | 2 => if getBank s t c b = .busy 2 then setBank t c b .closed s else s
  | 4 => speedSample t c count (closeBusy t c 4 s)
  | 5 =>
    let s1 := bump t (Obj.inBankCopies + c) 1 (setBank t c b .closed s)
    startMigrations 4 t (retirePending t c b
      (finishBankWork t c b (fun a => match a.kind with | .copy _ => true | _ => false) s1))
  | 6 =>
    let s1 := bump t (Obj.rowFills + c) 1 (setBank t c b .closed s)
    finishBankWork t c b (fun a => a.kind == .fill) s1
  | 8 => resend t c (bump t (Obj.caParityErrors + c) 1 s)
  | 9 => addLog t 0x01 2 stOk (c + fld 8 4 9) 0 (bump t (Obj.protocolViolations + c) 1 s)
  | 0xA => closeBusy t c 0xA s
  | _ => s

/-- DONE_REPORT (R43): the oldest upward transfer, when it is a done report. -/
def doneReport (t c count : Nat) (s : State) : State :=
  match (getLayer s t c).up with
  | .done b ev :: r => doneEffect t c b ev count (modLayer t c (fun l => { l with up := r }) s)
  | _ => s

/-- R261, R281: the status of a read of words: UNCORRECTABLE for any first finding, POISONED for a
poisoned word among those asked for. -/
def readStatus (f : Found) (mask : Nat) : Nat :=
  if f.first ≠ 0 then stUncorrectable else if f.bad &&& askedWords mask ≠ 0 then stPoisoned else stOk

/-- R88: one word of a read-modify-write: word stored, whether it is poisoned, its status. -/
def rmwWord (old new mask : Nat) (pois : Bool) : Nat × Bool × Nat :=
  let d := wordData old
  if mask = 255 then (new, pois, stOk)
  else if mask = 0 then
    (d, wordBad old, if classify old = .uncorrectable then stUncorrectable else stOk)
  else if wordBad old then
    (d, true, if classify old = .uncorrectable then stUncorrectable else stPoisoned)
  else
    let keep := byteMaskBits mask
    ((d ^^^ (d &&& keep)) + (new &&& keep), pois, stOk)

/-- R87, R88: the sector of a read-modify-write merged with its bytes: data, poisoned words, status. -/
def rmwMerge (a : Acc) : List Nat → Nat → Nat × Nat × Nat
  | [], _ => (0, 0, stOk)
  | w :: r, i =>
    let (d, p, st) := rmwWord w (a.data / 2 ^ (64 * i) % 2 ^ 64) (a.mask / 2 ^ (8 * i) % 256) (bit a.pois i)
    let (ds, ps, sts) := rmwMerge a r (i + 1)
    (d * 2 ^ (64 * i) + ds, (if p then 2 ^ i else 0) + ps, worse st sts)

/-- A line read by a bounce copy goes into the bounce buffer, corrected, its poison kept (R57). -/
def deliverBounce (t c w : Nat) (a : Acc) (words : List Nat) (f : Found) (s : State) : State :=
  let s1 := afterRead t c a.bank a.row (a.done * 8) a true words f s
  modAcc t c a.id (fun x => match x.kind with
    | .bounceRead _ => { x with done := x.done + 1 }
    | _ => x) (modBounce t w (fun b => { b with words := b.words ++ words.map rewriteWord }) s1)

/-- The read beats of an access: checked, delivered, and what they found (R261, R265, R281). -/
def deliverRead (t c id : Nat) (words : List Nat) (s : State) : State :=
  match (getQueue s t c).rq.find? (fun a => a.id = id) with
  | none => s
  | some a =>
    let f := findWords words 0 {}
    match a.kind with
    | .bounceRead w => deliverBounce t c w a words f (countEv t 0x0001 c 64 s)
    | _ =>
      let s1 := afterRead t c a.bank a.row (a.sector * 4) a true words f s
      completeAcc t c a (readStatus f a.mask) f.data f.bad (countEv t 0x0001 c (byteSpan a.mask).2 s1)

/-- The read of a read-modify-write: the sector to be written is formed (R87, R88). -/
def deliverRmw (t c id : Nat) (words : List Nat) (s : State) : State :=
  match (getQueue s t c).wq.find? (fun a => a.id = id) with
  | none => s
  | some a =>
    let f := findWords words 0 {}
    let (d, p, st) := rmwMerge a words 0
    let s1 := afterRead t c a.bank a.row (a.sector * 4) a false words f s
    let s2 := a.reqs.foldl (fun s i => modReq t i (fun r => { r with
      status := worse r.status st, flags := setBit r.flags 1 }) s) s1
    modAcc t c id (fun x => { x with stage := 2, mdata := d, mpois := p }) s2

/-- READ_DATA_ARRIVAL (R261): the oldest upward transfer, when it is read beats. -/
def readArrival (t c : Nat) (s : State) : State :=
  match (getLayer s t c).up with
  | .beats words :: r =>
    let tag := (getLayer s t c).reads.headD (.mode 0)
    let s1 := modLayer t c (fun l => { l with up := r, reads := l.reads.drop 1 }) s
    match tag with
    | .access id => deliverRead t c id words s1
    | .rmw id => deliverRmw t c id words s1
    | .mode _ | .trim _ => modLayer t c (fun l => { l with modeRead := words.headD 0 }) s1
    | .drop => s1
  | _ => s

/-! ## The commands -/

def execAct (t : TileN) (c : ChanN) (w : BitVec 20) (s : State) : Res :=
  run (layerTake t.val c.val w.toNat none []) s
def execRd (t : TileN) (c : ChanN) (w : BitVec 20) (s : State) : Res :=
  run (layerTake t.val c.val w.toNat none []) s
def execPre (t : TileN) (c : ChanN) (w : BitVec 20) (s : State) : Res :=
  run (layerTake t.val c.val w.toNat none []) s
def execPrea (t : TileN) (c : ChanN) (w : BitVec 20) (s : State) : Res :=
  run (layerTake t.val c.val w.toNat none []) s
def execRef (t : TileN) (c : ChanN) (w : BitVec 20) (s : State) : Res :=
  run (layerTake t.val c.val w.toNat none []) s
def execMrr (t : TileN) (c : ChanN) (w : BitVec 20) (s : State) : Res :=
  run (layerTake t.val c.val w.toNat none []) s
def execTrw (t : TileN) (c : ChanN) (w : BitVec 20) (s : State) : Res :=
  run (layerTake t.val c.val w.toNat none []) s
def execTrr (t : TileN) (c : ChanN) (w : BitVec 20) (s : State) : Res :=
  run (layerTake t.val c.val w.toNat none []) s
def execWr (t : TileN) (c : ChanN) (w : BitVec 20) (beats : List (BitVec 144)) (s : State) : Res :=
  run (layerTake t.val c.val w.toNat none (beats.map BitVec.toNat)) s
def execMrw (t : TileN) (c : ChanN) (w : BitVec 20) (v : BitVec 64) (s : State) : Res :=
  run (layerTake t.val c.val w.toNat none [v.toNat]) s
def execRcopy (t : TileN) (c : ChanN) (w arg : BitVec 20) (s : State) : Res :=
  run (layerTake t.val c.val w.toNat (some arg.toNat) []) s
def execRfill (t : TileN) (c : ChanN) (w arg : BitVec 20) (s : State) : Res :=
  run (layerTake t.val c.val w.toNat (some arg.toNat) []) s

end Sys2Proof.Machine
end

