-- ==== Sys2Proof/Machine/Sched.lean ====
section
/-! DEFINITION. The channel picker: tiers (R71 to R73), deficit round robin (R75 to R77, R135), banks
and page policy (R78, R79), batches (R80), ordering (R82), bounce copies (R57), gates (R141 to R144). -/

namespace Sys2Proof.Machine

open Sys2Proof

/-! ## What an access waits for -/

/-- R82: every earlier access to a sector of it is complete. -/
def ordered (s : State) (t c : Nat) (a : Acc) : Bool :=
  let q := getQueue s t c
  !((q.rq ++ q.wq ++ q.deferred ++ unqueued s t c).any (fun b => decide (b.order < a.order) && conflict a b))

/-- R72: from the youngest access down, what an access of a higher tier must wait for is promoted to it. -/
def promote (s : State) (t : Nat) (l : List Acc) : List Acc :=
  (sortBy (fun a => a.order) l).foldr (fun a acc =>
    let up := (acc.filter (fun b => decide (a.order < b.order) && conflict a b)).foldl
      (fun m b => min m (tierOf s t b)) 9
    (if up < tierOf s t a then { a with promo := up } else a) :: acc) []

/-- The promotions of a channel's queues and of the work deferred at them. -/
def promoteQueues (t c : Nat) (s : State) : State :=
  let q := getQueue s t c
  let l := promote s t (q.rq ++ q.wq ++ q.deferred)
  let set := fun (a : Acc) => match l.find? (fun x => x.id = a.id) with
    | some x => { a with promo := x.promo }
    | none => a
  modQueue t c (fun q => { q with rq := q.rq.map set, wq := q.wq.map set, deferred := q.deferred.map set }) s

/-- The access that holds a bank (R59, R87): a read-modify-write, copy, fill or bounce copy under way. -/
def bankHolder (s : State) (t c b : Nat) : Option Nat :=
  let q := getQueue s t c
  ((q.rq ++ q.wq).find? (fun a => a.bank = b && a.stage ≠ 0 &&
    (match a.kind with
     | .rmw | .copy _ | .fill | .bounceRead _ | .bounceWrite .. => true
     | _ => false))).map (·.id)

/-- No other access holds the bank. -/
def bankFree (s : State) (t c b id : Nat) : Bool :=
  match bankHolder s t c b with
  | some i => i = id
  | none => true

/-- R55: the pair of rows can be copied in the bank. -/
def inBankOk (s : State) (t c b src dst : Nat) : Bool :=
  let p := physRow s t c b src
  let d := physRow s t c b dst
  decide (src ≠ dst) && decide (p < 8192 ∧ d < 8192) && decide (subarray p = subarray d)

/-- The physical row an access works on. -/
def targetRow (s : State) (t c : Nat) (a : Acc) : Nat := a.prow.getD (physRow s t c a.bank a.row)

/-- The access goes line by line: a bounce copy's entry, or the clearing of a row by WR on SLP-2 (Table 2.9). -/
def byLines (s : State) (a : Acc) : Bool :=
  match a.kind with
  | .bounceRead _ | .bounceWrite .. => true
  | .fill => slp2 s
  | _ => false

/-- It has commands still to be issued. -/
def unissuedPart (s : State) (a : Acc) : Bool := if byLines s a then decide (a.sent < 32) else decide (a.stage = 0)

/-- The other entry of a bounce copy, with its channel. -/
def bounceOther (s : State) (t : Nat) (a : Acc) : Option (Nat × Acc) :=
  match a.kind with
  | .bounceRead w => ((getQueue s t w).wq.find? (fun x => x.id = a.id)).map (fun x => (w, x))
  | .bounceWrite r _ _ => ((getQueue s t r).rq.find? (fun x => x.id = a.id)).map (fun x => (r, x))
  | _ => none

/-- A bounce copy may start or go on with the lines of this entry: to start, its buffer is free and nothing
earlier or under way stands in the way of its write (R57, R59); it writes when the whole row is read. -/
def bounceReady (s : State) (t c : Nat) (a : Acc) : Bool :=
  match a.kind with
  | .bounceRead w =>
    decide ((getBounce s t w).acc = a.id) || (decide ((getBounce s t w).acc = 0) &&
      (match bounceOther s t a with
       | some (_, x) => bankFree s t w x.bank x.id && ordered s t w x
       | none => false))
  | .bounceWrite .. => decide ((getBounce s t c).acc = a.id ∧ (getBounce s t c).words.length = 256)
  | _ => true

/-- It can act on an open row; a copy, and a fill by RFILL, need a precharged bank (R55, R58). -/
def asksRow (s : State) (a : Acc) : Bool :=
  match a.kind with
  | .copy _ => false
  | .fill => slp2 s
  | _ => true

/-- Its row is open and sensed, or its bank as the operation requires (R77). -/
def bankReady (s : State) (t c : Nat) (a : Acc) : Bool :=
  let st := getBank s t c a.bank
  !bankPending s t c a.bank && bankFree s t c a.bank a.id &&
    (if asksRow s a then decide (openRow st = some (targetRow s t c a)) else isClosed st) &&
    (match a.kind with | .copy d => inBankOk s t c a.bank a.row d | _ => true)

/-- R80: the access is a write for the batch direction. -/
def isWrite (a : Acc) : Bool :=
  match a.kind with
  | .read | .bounceRead _ => false
  | _ => true

/-- R143, R144, R150: gates let the access go; none applies to write-backs and migrations (R73). -/
def gateOk (s : State) (t : Nat) (a : Acc) : Bool :=
  if classless a then true
  else if ¬ a.first then true
  else bit (gateMask s t) a.cls && (a.exempt || ttFits s t a.cls a.flen)

/-- Eligible but for its gate. -/
def nearEligible (s : State) (t c : Nat) (a : Acc) : Bool :=
  unissuedPart s a && bounceReady s t c a && bankReady s t c a && ordered s t c a

/-- R265, R429: a channel whose write-back list of 16 is full issues no further read. -/
def readsBlocked (q : QueueS) (a : Acc) : Bool :=
  !isWrite a && decide ((q.deferred.filter (fun x => x.kind == .writeBack)).length ≥ 16)

/-- R78: the accesses of a bank that still wait for commands and may have them. -/
def bankQueue (s : State) (t c b : Nat) : List Acc :=
  let q := getQueue s t c
  (q.rq ++ q.wq).filter (fun a => a.bank = b && unissuedPart s a && bounceReady s t c a && bankFree s t c b a.id)

/-- Every best-effort and Back Row write of the channel waits for something that comes before it: an earlier
access to its sector (R82), or the reads of its own bounce copy (R57). -/
def batchStuck (s : State) (t c : Nat) : Bool :=
  (beWrites s t (getQueue s t c)).all (fun w => w.stage = 0 && !(ordered s t c w && bounceReady s t c w))

/-- R80: the batch direction lets the access go. The pass tier takes no part in it, nor does a promoted access;
an access under way goes on; while every write of a write batch waits for an access before it, reads are
served, since the batch could not end otherwise (DEDUCED, from R80 and R82). -/
def dirOk (s : State) (t c tier : Nat) (a : Acc) : Bool :=
  tier = 0 || decide (a.promo ≠ 9) || decide (a.stage ≠ 0) || decide (isWrite a = (getQueue s t c).writeDir) ||
    (!isWrite a && batchStuck s t c)

/-- R78, R80: the accesses for which rows of a bank are chosen: those that the batch direction lets go
(DEDUCED: a row kept open for an access that is not served would hold the bank for ever). -/
def bankWants (s : State) (t c b : Nat) : List Acc :=
  (bankQueue s t c b).filter (fun a => dirOk s t c (tierOf s t a) a)

/-- R78: RowHitLimit accesses of the open row were served while an access in the tier waits for
another row of the bank: rule 2 has lapsed, and the row gives way. A copy under way keeps its row. -/
def rowLapsed (s : State) (t c : Nat) (a : Acc) : Bool :=
  a.stage = 0 && decide ((getPage s t c a.bank).hits ≥ getObj s t Obj.rowHitLimit) &&
    (bankWants s t c a.bank).any (fun x => targetRow s t c x ≠ targetRow s t c a
      && decide (tierOf s t x ≤ tierOf s t a))

/-- R77: eligible, direction apart. -/
def eligible (s : State) (t c : Nat) (a : Acc) : Bool :=
  nearEligible s t c a && !rowLapsed s t c a && gateOk s t a && !readsBlocked (getQueue s t c) a

/-! ## Cost and rounds (R75 to R77, R135) -/

/-- R75. A bounce copy is charged line by line, as its 32 line reads and 32 line writes; the clearing of a
row on SLP-2 as one fill. -/
def accCost (s : State) (t : Nat) (a : Acc) : Nat :=
  let o := getObj s t Obj.requestOverhead
  match a.kind with
  | .copy _ => 4 * o
  | .fill => if a.sent = 0 then 4 * o else 0
  | .rmw => 32 + o + (if a.first then o else 0)
  | .bounceRead _ | .bounceWrite .. => 64 + (if a.sent = 0 then o else 0)
  | _ => accBytes a.line + (if a.first then o else 0)

/-- The oldest of a list in acceptance order. -/
def oldest (l : List Acc) : Option Acc := minBy (fun a => a.order) l

/-- R77: visits of next_access from visit `i`: the access chosen, the counters, passages from class 7
to class 0 (R135). -/
def drrVisits (s : State) (t : Nat) (has : Nat → Bool) (pick : Nat → Option Acc) :
    Nat → Nat → Drr → Nat → Option Acc × Drr × Nat
  | 0, _, d, r => (none, d, r)
  | fuel + 1, i, d, r =>
    let k := (d.turn + i) % 8
    let r1 := if i ≠ 0 ∧ k = 0 then r + 1 else r
    if ¬ has k then
      drrVisits s t has pick fuel (i + 1)
        { d with deficit := setNth d.deficit k 0, fresh := setNth d.fresh k true } r1
    else
      match pick k with
      | none => drrVisits s t has pick fuel (i + 1) d r1
      | some e =>
        let d1 := if d.fresh.getD k true then
            { d with deficit := setNth d.deficit k (d.deficit.getD k 0 + getObj s t (Obj.classQuantum + k))
                     fresh := setNth d.fresh k false }
          else d
        let cost := accCost s t e
        if cost ≤ d1.deficit.getD k 0 then
          (some e, { d1 with deficit := setNth d1.deficit k (d1.deficit.getD k 0 - cost), turn := k }, r1)
        else drrVisits s t has pick fuel (i + 1) { d1 with fresh := setNth d1.fresh k true } r1

/-! ## Batch direction (R80) -/

/-- R80: turn the batch direction. -/
def turnBatch (t c : Nat) (s : State) : State :=
  let q := getQueue s t c
  let n := (beWrites s t q).length
  if q.writeDir then
    if n = 0 ∨ (n ≤ getObj s t Obj.writeDrainLow ∧ q.served ≥ getObj s t Obj.writeBatchMin) then turnRead t c s
    else s
  else if n ≥ getObj s t Obj.writeDrainHigh ∨
      (n ≠ 0 ∧ ¬ q.rq.any (fun a => tierOf s t a ≠ 0 ∧ eligible s t c a)) then
    bump t (Obj.writeDrains + c) 1 (modQueue t c (fun q => { q with writeDir := true, served := 0 }) s)
  else s

/-! ## Issuing -/

/-- R79: an access is chosen for a bank: the counter steps once; the policy says whether the last queued
access to the row leaves it open. `waiting`: an access of the tier waits for another row of the bank. -/
def pageStep (t c : Nat) (a : Acc) (prow : Nat) (waiting : Bool) (s : State) : State :=
  let pg := getPage s t c a.bank
  let counter := if pg.lastRow = some prow then min 3 (pg.counter + 1) else pg.counter - 1
  modPage t c a.bank (fun p => { p with
    counter := counter, lastRow := some prow, hits := if waiting then p.hits + 1 else 0
    lastAccess := s.time.elapsed }) s

/-- R79: the policy closes the row after the last queued access to it. -/
def pageCloses (s : State) (t c b : Nat) : Bool :=
  let pol := getObj s t Obj.pagePolicy
  pol = 1 || (pol = 2 && decide ((getPage s t c b).counter < 2))

/-- The beats of words, two to a beat. -/
def wordBeats (l : List Nat) : List Nat :=
  (List.range (l.length / 2)).map (fun i => mkBeat (l.getD (2 * i) 0) (l.getD (2 * i + 1) 0))

/-- The words a write access stores, good or poisoned (R263); a read-modify-write its merged sector. -/
def writeWords (a : Acc) : List Nat :=
  let rmw := a.kind == .rmw
  let d := if rmw then a.mdata else a.data
  let p := if rmw then a.mpois else a.pois
  (List.range (if a.line then 8 else 4)).map (fun j => storeWord (d / 2 ^ (64 * j) % 2 ^ 64) (bit p j))

/-- Counters and sample marks of an access served (Table 3.3, Table 16.2, Table 16.4). -/
def countServed (t c tier : Nat) (a : Acc) (s : State) : State :=
  let s1 := match a.page with
    | 0 => countEv t 0x0004 c 1 (bump t (Obj.rowHits + c) 1 s)
    | 1 => countEv t 0x0005 c 1 (bump t (Obj.rowMisses + c) 1 s)
    | _ => countEv t 0x0006 c 1 (bump t (Obj.rowConflicts + c) 1 s)
  let s2 := if tier = 0 then countEv t 0x0011 a.cls 1 s1 else if tier = 2 then countEv t 0x0012 a.cls 1 s1 else s1
  a.reqs.foldl (fun s id => modReq t id (fun r =>
    let r1 := if bit r.flags 8 then r else { r with tier := tier, page := a.page, flags := setBit r.flags 8 }
    if tier = 2 then { r1 with flags := setBit r1.flags 6 } else r1) s) s2

/-- Mark that the first access of a fragment is served: the others pay no overhead and need no fit. -/
def markFragment (t c frag : Nat) (s : State) : State :=
  let g := fun (a : Acc) => if a.frag = frag then { a with first := false } else a
  modQueue t c (fun q => { q with rq := q.rq.map g, wq := q.wq.map g, deferred := q.deferred.map g }) s

/-- Other queued accesses to the same row of a bank. -/
def moreOfRow (s : State) (t c : Nat) (a : Acc) : Bool :=
  let q := getQueue s t c
  (q.rq ++ q.wq).any (fun x => x.id ≠ a.id && x.bank = a.bank && unissuedPart s x
    && decide (targetRow s t c x = targetRow s t c a))

/-- An access of the tier waits for another row of the bank (R78). -/
def othersWait (s : State) (t c tier : Nat) (a : Acc) : Bool :=
  (bankWants s t c a.bank).any (fun x => targetRow s t c x ≠ targetRow s t c a && decide (tierOf s t x = tier))

/-- R296, R315: the next pick of a metered channel is withheld; a pass-tier pick is metered by u_c
alone, another by u_c times p_m. -/
def meterChannel (t c tier : Nat) (s : State) : State :=
  meterToken t (4 + c) (if tier = 0 then chanU s t else chanU s t * memoryFraction s t / 1000) s

/-- A RD or WR word for an access: sector, line, auto-precharge. -/
def colWord (write : Bool) (b sector : Nat) (line auto : Bool) : Nat :=
  opWord (if write then 2 else 1) b (fld 4 6 sector + fld 3 1 (b2n line) + fld 2 1 (b2n auto))

/-- A line of a bounce copy, or of a row cleared by WR (R57, Table 2.9). The first line of a copy takes the
bounce buffer and holds both banks. -/
def issueLine (t c : Nat) (a : Acc) (s : State) : State :=
  let own := fun (x : Acc) => { x with stage := 1, sent := x.sent + 1, page := 0 }
  let w := fun (beats : List Nat) (s : State) => sendDown t c
    { word := colWord true a.bank (2 * a.sent) true false, acc := a.id, beats := beats }
    (modAcc t c a.id (fun x => match x.kind with | .bounceRead _ => x | _ => own x) s)
  match a.kind with
  | .bounceRead wc =>
    let s1 := if a.stage = 0 then modAcc t wc a.id (fun x => { x with stage := 1 }) (modBounce t wc (fun _ => ⟨a.id, []⟩) s)
      else s
    sendDown t c { word := colWord false a.bank (2 * a.sent) true false, acc := a.id }
      (modAcc t c a.id (fun x => match x.kind with | .bounceRead _ => own x | _ => x) s1)
  | .bounceWrite .. => w (wordBeats ((((getBounce s t c).words.drop (8 * a.sent)).take 8).map rewriteWord)) s
  | _ => w (wordBeats (List.replicate 8 (goodWord (getObj s t Obj.fillPattern)))) s

/-- Issue the commands of a chosen access; the words of a write are read from its queue entry (R260). -/
def issue (t c tier : Nat) (a0 : Acc) (s0 : State) : State :=
  let (a, s) := readHeld t c a0 s0
  let s1 := markFragment t c a.frag (countServed t c tier a s)
  let s2 := if isWrite a ∧ tier ≠ 0 ∧ ¬ classless a then
      modQueue t c (fun q => { q with served := q.served + 1 }) s1 else s1
  let prow := targetRow s t c a
  let s3 := if a.sent = 0 then pageStep t c a prow (othersWait s t c tier a) s2 else s2
  meterChannel t c tier <|
    if byLines s a then issueLine t c a s3
    else match a.kind with
      | .copy _ => sendDown t c { word := rowWord a.bank prow, acc := a.id } (modAcc t c a.id (fun x => { x with stage := 1 }) s3)
      | .fill => sendDown t c { word := opWord 7 a.bank 0, arg := some (rowWord a.bank prow), acc := a.id }
          (modAcc t c a.id (fun x => { x with stage := 1 }) s3)
      | _ =>
        let rd := a.kind == .read || a.kind == .rmw
        let auto := pageCloses s3 t c a.bank && !moreOfRow s t c a && a.kind != .rmw
        sendDown t c { word := colWord (!rd) a.bank a.sector a.line auto, acc := a.id
                       beats := if rd then [] else wordBeats (writeWords a) }
          (modAcc t c a.id (fun x => { x with stage := 1 }) s3)

/-- What follows at once in the bank an access holds: the write of a read-modify-write whose read is back
(R87), the RCOPY of a copy whose source is sensed (R55). -/
def follows (s : State) (t c : Nat) (a : Acc) : Bool :=
  match a.kind with
  | .rmw => decide (a.stage = 2) && !bankPending s t c a.bank
  | .copy _ => decide (a.stage = 1) && !bankPending s t c a.bank && (openRow (getBank s t c a.bank)).isSome
  | _ => false

/-- Issue it. -/
def issueFollow (t c : Nat) (a : Acc) (s : State) : State :=
  match a.kind with
  | .copy d => sendDown t c { word := opWord 6 a.bank 0, arg := some (rowWord a.bank (physRow s t c a.bank d)), acc := a.id }
      (modAcc t c a.id (fun x => { x with stage := 2 }) s)
  | _ =>
    let auto := pageCloses s t c a.bank && !moreOfRow s t c a
    sendDown t c { word := colWord true a.bank a.sector false auto, acc := a.id, beats := wordBeats (writeWords a) }
      (modAcc t c a.id (fun x => { x with stage := 3 }) s)

/-- An access with commands issued and others still to follow: no window opens before it is done (R59, R92). -/
def underWay (s : State) (a : Acc) : Bool :=
  match a.kind with
  | .rmw => decide (a.stage = 1 ∨ a.stage = 2)
  | .copy _ => decide (a.stage = 1)
  | _ => byLines s a && decide (a.stage = 1)

/-! ## Choosing -/

/-- The oldest write-back or migration of a tier whose bank can take it (R73). -/
def pickClassless (s : State) (t c tier : Nat) : Option Acc :=
  let q := getQueue s t c
  oldest ((q.rq ++ q.wq).filter (fun a => classless a && decide (tierOf s t a = tier) && eligible s t c a))

/-- R77 for the pass and best-effort tiers: classes that have work, and their oldest eligible access. -/
def tierQueue (s : State) (t c tier : Nat) : List Acc :=
  let q := getQueue s t c
  (q.rq ++ q.wq).filter (fun a => !classless a && decide (tierOf s t a = tier))

/-- The classes of an empty tier: R136. -/
def drrEmpty (d : Drr) : Drr := { turn := d.turn }

/-- R77. A tier with no queued access makes no visits: its classes are found empty and its virtual time
stands (R135, R136; DEDUCED). -/
def pickDrr (t c tier : Nat) (s : State) : Option Acc × State :=
  let q := getQueue s t c
  let l := tierQueue s t c tier
  let put := fun (d : Drr) (q : QueueS) => if tier = 0 then { q with drrPass := d } else { q with drrBest := d }
  let d0 := if tier = 0 then q.drrPass else q.drrBest
  let has := fun k => l.any (fun a => a.cls = k ∧ unissuedPart s a)
  if ¬ (List.range 8).any has then (none, modQueue t c (put (drrEmpty d0)) s)
  else
    let pick := fun k => oldest (l.filter (fun a => a.cls = k && dirOk s t c tier a && eligible s t c a))
    let (e, d, r) := drrVisits s t has pick 9 0 d0 0
    (e, bump t ((if tier = 0 then Obj.passTierRound else Obj.bestEffortRound) + c) r (modQueue t c (put d) s))

/-- The Back Row: oldest first, whatever the class (R71). -/
def pickBack (s : State) (t c : Nat) : Option Acc :=
  oldest ((tierQueue s t c 2).filter (fun a => dirOk s t c 2 a && eligible s t c a))

/-- What the picker sends ahead for a bank. -/
inductive Prep where
  | none
  | pre (acc : Nat) (gave : Option Nat)
  | act (acc row : Nat)
  deriving DecidableEq, Repr

/-- R78: the preparatory command of a bank for a tier, if one is due. After rule 2 lapses the row that gave
way is not opened again before another row of the bank. -/
def bankPrep (s : State) (t c tier b : Nat) : Prep :=
  let l := bankWants s t c b
  let mine := l.filter (fun a => tierOf s t a = tier)
  if l.any (fun a => tierOf s t a < tier) ∨ bankPending s t c b then .none
  else
    match getBank s t c b with
    | .opened r =>
      let fits := fun (a : Acc) => asksRow s a && decide (targetRow s t c a = r)
      let onRow := mine.filter fits
      let off := mine.filter (fun a => !fits a)
      let lapsed := onRow.all (fun a => a.stage = 0) && decide ((getPage s t c b).hits ≥ getObj s t Obj.rowHitLimit)
      if ¬ onRow.isEmpty ∧ ¬ (lapsed ∧ ¬ off.isEmpty) then .none
      else match oldest off with
        | some a => .pre a.id (if onRow.isEmpty then none else some r)
        | none => .none
    | .closed =>
      let others := mine.filter (fun a => (getPage s t c b).gave ≠ some (targetRow s t c a))
      match oldest (if others.isEmpty then mine else others) with
      | some a => if asksRow s a then .act a.id (targetRow s t c a) else .none
      | none => .none
    | _ => .none

/-- The first bank with a preparatory command for a tier, among those that satisfy `p`. -/
def firstPrep (s : State) (t c tier : Nat) (p : Nat → Bool) : List Nat → Option (Nat × Prep)
  | [] => none
  | b :: r => if ¬ p b then firstPrep s t c tier p r
    else match bankPrep s t c tier b with
      | .none => firstPrep s t c tier p r
      | x => some (b, x)

/-- Send a preparatory command: a PRE makes its access a conflict, an ACT a miss. -/
def sendPrep (t c b : Nat) (p : Prep) (s : State) : State :=
  match p with
  | .none => s
  | .pre id gave => sendDown t c { word := opWord 3 b 0 }
      (modPage t c b (fun p => { p with gave := gave }) (modAcc t c id (fun a => { a with page := 2 }) s))
  | .act id row =>
    sendDown t c { word := rowWord b row, acc := id }
      (modPage t c b (fun p => { p with hits := 0, gave := none }) (modAcc t c id (fun a => { a with page := max a.page 1 }) s))

/-- One tier of a pick (R71, R73, R77, R78): write-backs and migrations, then data, then preparation. -/
def pickTier (t c tier : Nat) (s : State) : Bool × State :=
  match pickClassless s t c tier with
  | some a => (true, issue t c tier a s)
  | none =>
    let (e, s1) := if tier ≥ 2 then (if tier = 2 then pickBack s t c else none, s) else pickDrr t c tier s
    match e with
    | some a => (true, issue t c tier a s1)
    | none =>
      match firstPrep s1 t c tier (fun _ => true) (List.range 16) with
      | some (b, p) => (true, sendPrep t c b p s1)
      | none => (false, s1)

/-- The tiers in strict order (R71). -/
def pickTiers (t c : Nat) : List Nat → State → State
  | [], s => s
  | k :: r, s => match pickTier t c k s with
    | (true, s1) => s1
    | (false, s1) => pickTiers t c r s1

/-- R144: fragments that only their gate holds back (R77, R80) are counted once. -/
def noteGateWaits (t c : Nat) (s : State) : State :=
  let q := getQueue s t c
  let held := (q.rq ++ q.wq).filter (fun a => a.first && !a.waited && dirOk s t c (tierOf s t a) a && nearEligible s t c a && !gateOk s t a)
  held.foldl (fun s a =>
    let q := getQueue s t c
    if (q.rq ++ q.wq).any (fun x => x.frag = a.frag ∧ x.waited) then s
    else
      let g := fun (x : Acc) => if x.frag = a.frag then { x with waited := true } else x
      let s1 := modQueue t c (fun q => { q with rq := q.rq.map g, wq := q.wq.map g }) s
      let s2 := a.reqs.foldl (fun s id => modReq t id (fun r => { r with flags := setBit r.flags 5 }) s) s1
      countEv t 0x0014 a.cls 1 (bump t (Obj.gateWaits + a.cls) 1 s2)) s

/-- A queued copy whose rows fail R55, since one of them was remapped, is a bounce copy (R57): it takes its
read entry when one is free. -/
def turnCopies (t c : Nat) (s : State) : State :=
  let q := getQueue s t c
  (q.wq.filter (fun a => a.stage = 0)).foldl (fun s a => match a.kind with
    | .copy d =>
      if inBankOk s t c a.bank a.row d ∨ ¬ readRoomN s t (getQueue s t c) a.pass a.cls 1 then s
      else
        let b := { a with kind := .bounceWrite c a.bank a.row, row := d, flen := 4096 }
        let s1 := modAcc t c a.id (fun _ => b) s
        (match bounceTwin c b with
         | some (r, x) => modQueue t r (fun q => { q with rq := q.rq ++ [x] }) s1
         | none => s1)
    | _ => s) s

/-- A Recess or calibration window of the channel is open or opening; in its first phase what is under way
runs out (R92). -/
def windowOpen (s : State) (t c : Nat) : Bool := (getRecess s t c).openAt.isSome

/-- The picker of a channel may act: the channel is ready, the command path has room, the tile is neither
tripped nor in reset, its token is granted. -/
def pickerRuns (s : State) (t c : Nat) : Bool :=
  chState s t c = 2 && downRoom s t c && !tripped s && !inReset s t && !tokenHeld s t (4 + c)

/-- The picker while a window opens: only accesses under way go on, with the rows they need. -/
def pickUnderWay (t c : Nat) (s : State) : State :=
  let q := getQueue s t c
  let l := (q.rq ++ q.wq).filter (fun a => underWay s a)
  match oldest (l.filter (fun a => nearEligible s t c a)) with
  | some a => issue t c (tierOf s t a) a s
  | none =>
    match l.findSome? (fun a => firstPrep s t c (tierOf s t a) (fun b => decide (bankHolder s t c b = some a.id)) (List.range 16)) with
    | some (b, p) => sendPrep t c b p s
    | none => s

/-- R286: the channel owes the MRR of a temperature sample and may send it: at a pick, before every tier, under a
trip too (R300), and never in a window (R292) or a tile reset (R59). No token is asked (R296). -/
def tempReady (s : State) (t c : Nat) : Bool :=
  (getLayer s t c).tempDue && chState s t c = 2 && downRoom s t c && !inReset s t && !windowOpen s t c

/-- The MRR of register 0x02, Temperature (Table 2.5). -/
def sendTemp (t c : Nat) (s : State) : State :=
  sendDown t c { word := opWord 9 0 (fld 4 6 2) } (modLayer t c (fun l => { l with tempDue := false }) s)

/-- CHANNEL_PICK (R77): one decision of the picker of a channel. -/
def channelPick (t c : Nat) (s : State) : State :=
  if tempReady s t c then sendTemp t c s
  else if ¬ pickerRuns s t c then s
  else
    let q := getQueue s t c
    match (q.rq ++ q.wq).find? (follows s t c) with
    | some a => issueFollow t c a s
    | none =>
      if windowOpen s t c then (if (getRecess s t c).phase = 0 then pickUnderWay t c s else s)
      else
        let s1 := turnCopies t c (feedMap t s)
        pickTiers t c [0, 1, 2, 3] (noteGateWaits t c (turnBatch t c (promoteQueues t c s1)))

def execChannelPick (t : TileN) (c : ChanN) (s : State) : Res := run (channelPick t.val c.val) s

/-- OPEN_ROW_IDLE_PRECHARGE (R79): a row left open without an access for OpenRowIdle is precharged. -/
def idlePrecharge (t c b : Nat) (s : State) : State :=
  match getBank s t c b with
  | .opened r =>
    if ¬ pickerRuns s t c ∨ windowOpen s t c ∨ bankPending s t c b ∨ (bankHolder s t c b).isSome
        ∨ s.time.elapsed < (getPage s t c b).lastAccess + getObj s t Obj.openRowIdle
        ∨ (bankQueue s t c b).any (fun a => targetRow s t c a = r) then s
    else sendDown t c { word := opWord 3 b 0 } s
  | _ => s

def execOpenRowIdlePrecharge (t : TileN) (c : ChanN) (b : BankN) (s : State) : Res :=
  run (idlePrecharge t.val c.val b.val) s

end Sys2Proof.Machine
end

