-- ==== Sys2Proof/Machine/Passes.lean ====
section
/-! DEFINITION. Hall Passes: counter-offers (R111), admission (R110), and the life of a pass (R114 to
R118). -/

namespace Sys2Proof.Machine

open Sys2Proof

/-! ## The counter-offer (R111) -/

/-- The contract with another committed rate. -/
def withRate (c r : Nat) : Nat := c - fld 320 32 (cCommitted c) + fld 320 32 r

/-- R111: the check at a committed rate, with the candidate's own bound 0. -/
def rateOk (s : State) (t c r : Nat) : Bool :=
  decide (checkPasses s (weighWith s t (admTT s t) (some (withRate (withBound c 0) r))) = 0)

/-- R111: bisection on whole MB/s between a rate that holds (or 0) and one that does not. -/
def bisectRate (s : State) (t c : Nat) : Nat → Nat → Nat → Nat
  | 0, lo, _ => lo
  | fuel + 1, lo, hi =>
    if hi ≤ lo + 1 then lo
    else if rateOk s t c ((lo + hi) / 2) then bisectRate s t c fuel ((lo + hi) / 2) hi
    else bisectRate s t c fuel lo ((lo + hi) / 2)

/-- R111: the counter-offer, rate and bound. -/
def counterOffer (s : State) (t c : Nat) : Nat × Nat :=
  let r := if rateOk s t c (cCommitted c) then cCommitted c else bisectRate s t c 21 0 (cCommitted c)
  if r = 0 then (0, 0)
  else
    let x := withRate (withBound c 0) r
    (r, (boundOf s (weighWith s t (admTT s t) (some x)) x).getD 0)

/-! ## Admission (R110) -/

/-- A channel of the tile is in link fault or training. -/
def linkTrouble (s : State) (t : Nat) : Bool :=
  (List.range 48).any (fun c => chState s t c = 1 ∨ chState s t c = 3)

/-- The checks of reasons 8 to 14 at a tile whose speed must reach `need` thousandths. -/
def tileReason (s : State) (t need : Nat) : Nat :=
  if getObj s dev Obj.referenceState ≠ 0 then 8
  else if getObj s t Obj.tileStackState = 2 then 9
  else if underTest s t then 13
  else if getObj s t Obj.refreshBand > getObj s t Obj.passBand then 10
  else if linkTrouble s t then 11
  else if (getSensor s t).ceiling then 12
  else if getObj s t Obj.speedIndex < need then 14
  else 0

/-- R106: the reserve a contract needs. -/
def reserveLacks (s : State) (t c : Nat) : Bool :=
  let n := ceilDiv (cLargest c) 64 + 1
  (bit (cDirection c) 0 && decide (n > getObj s t Obj.readPassReserve))
    || (bit (cDirection c) 1 && decide (n > getObj s t Obj.writePassReserve))

/-- What admission decides. -/
inductive Verdict where
  | status (st : Nat)
  | refuse (reason rate bound : Nat)
  | ok (computed : Nat)
  deriving DecidableEq, Repr

/-- Passes of a tile that hold a number. -/
def usedNumbers (s : State) (t : Nat) : List Nat :=
  (s.passes.filter (fun e => e.1 / 256 = t ∧ e.2.state ≠ 0)).map (fun e => e.1 % 256)

/-- R110: admit; `needNumber` says whether 256 numbers in use refuse it; `src` is the reason the source tile
of a far contract answered, 0 for none; `gone` that its gateway is in reset, which R119 refuses with reason 3
or 4: reason 3 here (DESIGN CHOICE). -/
def decideAdmission (s : State) (t c : Nat) (needNumber : Bool) (src : Nat) (gone : Bool) : Verdict :=
  let own := tileReason s t (getObj s t Obj.guaranteeFloor)
  if inHold s t ∨ starting s then .status stHold
  else if ¬ flag s t Obj.pacerReferenceValid then .refuse 7 0 0
  else if own ≠ 0 then .refuse own 0 0
  else if gone then .refuse 3 0 0
  else if src ≠ 0 then .refuse src 0 0
  else if needNumber ∧ (usedNumbers s t).length ≥ 256 then .refuse 6 0 0
  else if reserveLacks s t c then .refuse 5 0 0
  else
    let w := weighWith s t (admTT s t) (some c)
    let r := checkPasses s w
    if r ≠ 0 then
      let o := counterOffer s t c
      .refuse r o.1 o.2
    else .ok ((boundOf s w c).getD 0)

/-- PassResult (Table 4.4). -/
def passResult (st reason pass computed rate bound : Nat) : Nat :=
  fld 0 8 st + fld 8 8 reason + fld 16 8 pass + fld 32 32 computed + fld 64 32 rate + fld 96 32 bound

def setResult (t v : Nat) (s : State) : State := setObj t Obj.passResult v s

/-- A refusal with REFUSED_ADMISSION: counted, its reason kept (Table 4.7). -/
def refuseAdm (t reason rate bound : Nat) (s : State) : State :=
  setResult t (passResult stRefusedAdmission reason 0 0 rate bound)
    (setObj t Obj.lastRefusalReason reason (bump t Obj.passRefusals 1 s))

/-- A granted pass: LIVE, buckets full (R132). -/
def livePass (s : State) (c computed : Nat) : Pass :=
  let tick := s.time.elapsed / 10
  let b := fullBuckets c tick
  { state := 1, terms := c, computed := computed, clear := s.time.elapsed
    committed := b.1, peak := b.2.1, share := b.2.2 }

/-- Write a pass to the table and answer its number. -/
def grantPass (t p c computed : Nat) (s : State) : State :=
  let c1 := if cBound c = 0 then withBound c computed else c
  setResult t (passResult stOk 0 p computed 0 0)
    (bump t Obj.passGrants 1 (takeAllBounds (setPass t p (livePass s c1 computed) s)))

/-- R120: the counts of a number cleared when PassRequest grants it. -/
def clearPassCounts (t p : Nat) (s : State) : State :=
  setObj t (Obj.passMissCount + p) 0 (setObj t (Obj.passWorstLateness + p) 0 (setObj t (Obj.passNonConforming + p) 0
    (setObj t (Obj.passLongest + p) 0 (setObj t (Obj.passBytes + p) 0 s))))

/-- R115, R116: apply a release: a LAPSED pass is FREE at once, another when the tick is over and the last
request accepted under it is answered (R119). -/
def applyRelease (t p : Nat) (s : State) : State :=
  let x := getPass s t p
  if x.state = 4 then freePass t p s
  else if x.released then s
  else takeAllBounds (setPass t p { x with released := true, releasedAt := s.time.elapsed } s)

/-- The contract of a PassRequest or PassProbe is no contract this tile may grant to its writer: its status
(R100, R101); a regrant's contract was granted once. -/
def jobStatus (s : State) (t : Nat) (j : AdmJob) : Option Nat :=
  if j.kind ≥ 2 then none
  else if contractBad t j.terms then some stBadFormat
  else if j.scope ≠ 0 ∧ (cPartition j.terms ≠ j.scope ∨ ¬ inPartition s j.scope (cSource j.terms)) then some stAccessDenied
  else if ¬ rangeBelongs s t j.terms then some stAccessDenied
  else none

/-- Decide a job of the admission controller, with the source tile's answer for a far contract. -/
def decideJob (t : Nat) (j : AdmJob) (src : Nat) (gone : Bool) (s : State) : State :=
  if j.kind = 3 then applyRelease t j.pass s
  else if j.kind = 2 ∧ (getPass s t j.pass).state ≠ 4 then s
  else match jobStatus s t j with
  | some st => setResult t (passResult st 0 0 0 0 0) s
  | none =>
    match decideAdmission s t j.terms (j.kind = 0) src gone with
    | .status st => setResult t (passResult st 0 0 0 0 0) s
    | .refuse r a b => refuseAdm t r a b s
    | .ok d =>
      if j.kind = 1 then setResult t (passResult stOk 0 0 d 0 0) s
      else if j.kind = 2 then grantPass t j.pass j.terms d s
      else
        let used := usedNumbers s t
        let free := (List.range 256).filter (fun p => ¬ used.contains p)
        let (x, s1) := draw s
        let p := free.getD (x % max 1 free.length) 0
        grantPass t p j.terms d (clearPassCounts t p s1)

def getAdm (s : State) (t : Nat) : List AdmJob := fget [] s.adm t
def setAdm (t : Nat) (l : List AdmJob) (s : State) : State := { s with adm := fset [] s.adm t l }

/-- A far contract asks its source tile first (R105, R110). -/
def asksSource (s : State) (t : Nat) (j : AdmJob) : Bool := j.kind ≠ 3 && (jobStatus s t j).isNone && isFar t j.terms

/-- The controller takes the writes in their order; a far contract stops it until the answer (R110). -/
def runAdm : Nat → Nat → State → State
  | 0, _, s => s
  | fuel + 1, t, s =>
    match getAdm s t with
    | [] => s
    | j :: r =>
      if asksSource s t j then
        { s with queries := s.queries ++ [{ src := t, dst := cSource j.terms, kind := 4, arg := j.terms }] }
      else runAdm fuel t (decideJob t j 0 false (setAdm t r s))

/-- A write joins the controller's queue (R110, R119). -/
def submitAdm (t : Nat) (j : AdmJob) (s : State) : State :=
  let l := getAdm s t
  let s1 := setAdm t (l ++ [j]) s
  if l.isEmpty then runAdm 4 t s1 else s1

/-- The answer of the source tile's gateway for the contract being handled. -/
def admAnswer (t src : Nat) (gone : Bool) (s : State) : State :=
  match getAdm s t with
  | [] => s
  | j :: r => runAdm (r.length + 1) t (decideJob t j src gone (setAdm t r s))

/-- PassRequest and PassProbe by a writer of a partition scope: the contract goes to the controller, whose
answer in PassResult comes in the order of the writes, a refusal by R100 or R101 too (R110). -/
def requestPass (t kind c scope : Nat) (s : State) : State :=
  answer stOk (submitAdm t { kind := kind, terms := c, scope := scope } s)

def execPassRequest (t : TileN) (contract : BitVec 512) (s : State) : Res := run (requestPass t.val 0 contract.toNat 0) s
def execPassProbe (t : TileN) (contract : BitVec 512) (s : State) : Res := run (requestPass t.val 1 contract.toNat 0) s

/-- PassRelease (R115, R119); a FREE number gives BAD_FORMAT. -/
def releasePass (t p : Nat) (s : State) : State :=
  if (getPass s t p).state = 0 then answer stBadFormat s
  else if (getAdm s t).any (fun j => j.kind = 2 ∧ j.pass = p) then
    answer stOk (setAdm t (getAdm s t ++ [{ kind := 3, pass := p }]) s)
  else answer stOk (applyRelease t p s)

def execPassRelease (t : TileN) (v : BitVec 8) (s : State) : Res := run (releasePass t.val v.toNat) s

/-- PassRegrant (R115): a LAPSED pass on its granted terms; another state gives BAD_FORMAT. -/
def regrantPass (t p : Nat) (s : State) : State :=
  if (getPass s t p).state ≠ 4 then answer stBadFormat s
  else answer stOk (submitAdm t { kind := 2, terms := (getPass s t p).terms, pass := p } s)

def execPassRegrant (t : TileN) (v : BitVec 8) (s : State) : Res := run (regrantPass t.val v.toNat) s

/-- PASS_RETURN_LIVE (R114): no cause in force and no miss for twice the bound. -/
def returnLive (t p : Nat) (s : State) : State :=
  let x := getPass s t p
  if (x.state = 2 ∨ x.state = 3) ∧ x.force = 0 ∧ getObj s t Obj.tileRiskCause = 0
      ∧ s.time.elapsed ≥ x.clear + 2 * cBound x.terms then
    setPass t p { x with state := 1, cause := 0 } s
  else s

def execPassReturnLive (t : TileN) (p : BitVec 8) (s : State) : Res := run (returnLive t.val p.toNat) s

/-- R115, R300: a trip lapses every live pass; a released one ends. -/
def lapseAll (s : State) : State :=
  s.passes.foldl (fun s e =>
    if passLive e.2 then
      if e.2.released then setPass (e.1 / 256) (e.1 % 256) {} s
      else
        let t := e.1 / 256
        let d := (boundOf s (weighWith s t (admTT s t) none) e.2.terms).getD e.2.computed
        setPass t (e.1 % 256) { e.2 with state := 4, computed := d, force := 0, committed := {}, peak := {}, share := [] } s
    else s) s

/-- R115: the pass table of a tile is cleared; admission under way ends. -/
def clearPasses (t : Nat) (s : State) : State :=
  { s with passes := fkeep (fun k => k / 256 ≠ t) s.passes, adm := fset [] s.adm t []
           queries := s.queries.filter (fun b => ¬ (b.kind = 4 ∧ b.src = t))
           answers := s.answers.filter (fun b => ¬ (b.kind = 4 ∧ b.dst = t)) }

/-! ## Values that passes lock (R35, R36, R118) -/

/-- A live pass of the tile, or a live far pass whose source the tile is. -/
def ownsOrSources (s : State) (t : Nat) : Bool := !(livePasses s t).isEmpty || !(sourcedPasses s t).isEmpty

/-- GuaranteeFloor (R35, R417). -/
def writeFloor (t v : Nat) (s : State) : State :=
  if ¬ inRange Obj.guaranteeFloor v ∨ (getObj s dev Obj.stackInterface = 2 ∧ v > 750) then answer stBadFormat s
  else if ownsOrSources s t then answer stRetry s
  else storeRws t Obj.guaranteeFloor v s

def execGuaranteeFloorWrite (t : TileN) (v : BitVec 16) (s : State) : Res := run (writeFloor t.val v.toNat) s

/-- MeshHopCost (R36). -/
def writeHopCost (t v : Nat) (s : State) : State :=
  if ¬ inRange Obj.meshHopCost v then answer stBadFormat s
  else if (livePasses s t).any (fun e => isFar t e.2.terms) then answer stRetry s
  else storeRws t Obj.meshHopCost v s

def execMeshHopCostWrite (t : TileN) (v : BitVec 16) (s : State) : Res := run (writeHopCost t.val v.toNat) s

/-- PassBand (R118). -/
def writePassBand (t v : Nat) (s : State) : State :=
  if v > 3 then answer stBadFormat s
  else if ¬ (livePasses s t).isEmpty then answer stRetry s
  else
    let s1 := storeRws t Obj.passBand v s
    setCause t 1 (decide (getObj s1 t Obj.refreshBand > v)) s1

def execPassBandWrite (t : TileN) (v : BitVec 8) (s : State) : Res := run (writePassBand t.val v.toNat) s

end Sys2Proof.Machine
end

