-- ==== Sys2Proof/Machine/Regulation.lean ====
section
/-! DEFINITION. Scheduler and regulation objects (Tables 3.3 and 5.4), sampling (R137, R138) and
Timetables (R139 to R145). -/

namespace Sys2Proof.Machine

open Sys2Proof

/-! ## Scheduler objects -/

/-- MergeEnable (R92): a write of 0 flushes every entry by rule 4. -/
def writeMergeEnable (t v : Nat) (s : State) : State :=
  if v > 1 then answer stBadFormat s
  else
    let s1 := storeRws t Obj.mergeEnable v s
    if v = 0 then flushWhere t 4 (fun _ => true) s1 else s1

def execMergeEnableWrite (t : TileN) (v : BitVec 8) (s : State) : Res := run (writeMergeEnable t.val v.toNat) s

/-- An RW object that is only range-checked. -/
def writePlain (u k v : Nat) (s : State) : State :=
  if inRange k v then storeObj u k v s else answer stBadFormat s

/-- An RWS object that is only range-checked. -/
def writePlainRws (u k v : Nat) (s : State) : State :=
  if inRange k v then storeRws u k v s else answer stBadFormat s

/-- MergeHoldLimit (R90, R92): the limit in force stays until the next tick. -/
def writeHoldLimit (t v : Nat) (s : State) : State :=
  if inRange Obj.mergeHoldLimit v then storeObj t Obj.mergeHoldLimit v (keepHoldLimit t s) else answer stBadFormat s

def execMergeHoldLimitWrite (t : TileN) (v : BitVec 16) (s : State) : Res := run (writeHoldLimit t.val v.toNat) s

/-- Any live pass in the tile. -/
def hasLive (s : State) (t : Nat) : Bool := !(livePasses s t).isEmpty

/-- ClassQuantum (R76, R92). -/
def writeQuantum (t k v : Nat) (s : State) : State :=
  if v < cMax s t ∨ v > 1048576 then answer stBadFormat s
  else if hasLive s t then answer stRetry s
  else storeRws t (Obj.classQuantum + k) v s

def execClassQuantumWrite (t : TileN) (k : Fin 8) (v : BitVec 32) (s : State) : Res :=
  run (writeQuantum t.val k.val v.toNat) s

/-- RequestOverhead (R76, R92): refused if a quantum would fall below its minimum. -/
def writeOverhead (t v : Nat) (s : State) : State :=
  if v > 1024 ∨ (List.range 8).any (fun k => quantumOf s t k < max (64 + v) (4 * v)) then answer stBadFormat s
  else if hasLive s t then answer stRetry s
  else storeRws t Obj.requestOverhead v s

def execRequestOverheadWrite (t : TileN) (v : BitVec 16) (s : State) : Res := run (writeOverhead t.val v.toNat) s

/-- ReadPassReserve and WritePassReserve (R92). -/
def writeReserve (t : Nat) (write : Bool) (v : Nat) (s : State) : State :=
  let k := if write then Obj.writePassReserve else Obj.readPassReserve
  if ¬ inRange k v then answer stBadFormat s
  else if hasLive s t then answer stRetry s
  else storeRws t k v s

def execPassReserveWrite (t : TileN) (write : Bool) (v : BitVec 8) (s : State) : Res :=
  run (writeReserve t.val write v.toNat) s

/-- WriteDrainHigh is 2 to 48; WriteDrainLow is below the WriteDrainHigh in force (Table 3.3, which gives
WriteDrainHigh no check against WriteDrainLow). -/
def writeDrain (t : Nat) (low : Bool) (v : Nat) (s : State) : State :=
  if low then
    if v < getObj s t Obj.writeDrainHigh then storeObj t Obj.writeDrainLow v s else answer stBadFormat s
  else if inRange Obj.writeDrainHigh v then storeObj t Obj.writeDrainHigh v s
  else answer stBadFormat s

/-! ## Range registers and modes -/

/-- R122: a value RangeRegister refuses; reserved bits are ignored (R7). -/
def rangeBad (v : Nat) : Bool :=
  decide (rrBase v > rrLimit v ∨ rrLimit v > 6291455 ∨ rrPart v = 0 ∨ rrFar v = 3) ||
    (rrEnable v && decide (rrOutstanding v = 0 ∨ rrOutstanding v > 4096))

/-- The stored value: reserved bits [127:116] and [32:0] read zero. -/
def rangeStored (v : Nat) : Nat := bits v 33 83 * 2 ^ 33

/-- Every live pass whose range belongs to its partition in `s` has it there still in `s1` (R126, R150). -/
def rangesHold (s s1 : State) (t : Nat) : Bool :=
  (livePasses s t).all (fun e => !rangeBelongs s t e.2.terms || rangeBelongs s1 t e.2.terms)

/-- Recheck every regulator of a tile against its budget (R130). -/
def regCheckAll (t : Nat) (s : State) : State := (List.range 17).foldl (fun s r => regCheck t r s) s

/-- RangeRegister (R122, R150). -/
def writeRange16 (t i v : Nat) (s : State) : State :=
  if rangeBad v then answer stBadFormat s
  else
    let s1 := setObj t (Obj.rangeRegister + i) (rangeStored v) s
    if ¬ rangesHold s s1 t then answer stRetry s else answer stOk (regCheckAll t s1)

def execRangeRegisterWrite (t : TileN) (i : Fin 16) (v : BitVec 128) (s : State) : Res :=
  run (writeRange16 t.val i.val v.toNat) s

/-- RangeDefault (R150). -/
def writeRangeDefault (t v : Nat) (s : State) : State :=
  if v > 1 then answer stBadFormat s
  else if v = 0 ∧ (livePasses s t).any (fun e => cPartition e.2.terms = 0) then answer stRetry s
  else storeObj t Obj.rangeDefault v s

def execRangeDefaultWrite (t : TileN) (v : BitVec 8) (s : State) : Res := run (writeRangeDefault t.val v.toNat) s

/-- DefaultOutstandingLimit: the budget of regulator 16 (R127). -/
def writeOutstandingLimit (t v : Nat) (s : State) : State :=
  if inRange Obj.defaultOutstandingLimit v then
    answer stOk (regCheckAll t (setObj t Obj.defaultOutstandingLimit v s))
  else answer stBadFormat s

/-- RegulationMode (R129). -/
def execRegulationModeWrite (t : TileN) (v : BitVec 8) (s : State) : Res :=
  run (writePlainRws t.val Obj.regulationMode v.toNat) s

/-! ## Queue sampling (R137, R138) -/

/-- Depth and delay of a queue: entries in use, age of the oldest since it was accepted in this tile. -/
def queueSample (s : State) (l : List Acc) : Nat × Nat :=
  (l.length, match oldest l with
    | some a => s.time.timeBase - a.stamp
    | none => 0)

/-- Record one value into last, largest and sum. -/
def recordSample (t last mx sm v : Nat) (clear : Bool) (s : State) : State :=
  let s1 := setObj t last v s
  if clear then setObj t mx 0 (setObj t sm 0 s1)
  else bump t sm v (setObj t mx (max (getObj s1 t mx) v) s1)

/-- One channel's four samples. -/
def sampleChannel (t c : Nat) (clear : Bool) (s : State) : State :=
  let q := getQueue s t c
  let r := queueSample s q.rq
  let w := queueSample s q.wq
  recordSample t (Obj.readDepthLast + c) (Obj.readDepthMax + c) (Obj.readDepthSum + c) r.1 clear
    (recordSample t (Obj.readDelayLast + c) (Obj.readDelayMax + c) (Obj.readDelaySum + c) r.2 clear
      (recordSample t (Obj.writeDepthLast + c) (Obj.writeDepthMax + c) (Obj.writeDepthSum + c) w.1 clear
        (recordSample t (Obj.writeDelayLast + c) (Obj.writeDelayMax + c) (Obj.writeDelaySum + c) w.2 clear s)))

/-- QUEUE_SAMPLE (R137): at a multiple of SamplePeriod; a clear that is due zeroes largest values,
sums and the count at this tick (R138). -/
def sampleQueues (t : Nat) (s : State) : State :=
  if ¬ due s t 1 (getObj s t Obj.samplePeriod) then s
  else
    let clear := fget false s.sampleClear t
    let s1 := forChans (fun c s => sampleChannel t c clear s) (take t 1 s)
    let s2 := { s1 with sampleClear := fset false s1.sampleClear t false }
    if clear then setObj t Obj.sampleCount 0 s2 else bump t Obj.sampleCount 1 s2

def execQueueSample (t : TileN) (s : State) : Res := run (sampleQueues t.val) s

/-- A command of type BOOL: 1 acts, 0 does nothing, any other byte gives BAD_FORMAT (R327). -/
def boolCommand (v : Nat) (f : State → State) (s : State) : State :=
  if v = 0 then answer stOk s else if v = 1 then answer stOk (f s) else answer stBadFormat s

/-- SAMPLE_CLEAR (R138). -/
def execSampleClear (t : TileN) (v : BitVec 8) (s : State) : Res :=
  run (boolCommand v.toNat (fun s => { s with sampleClear := fset false s.sampleClear t.val true })) s

/-! ## Timetables -/

/-- R139: an entry within the length with a duration out of range. -/
def ttEntryBad (e : Nat) : Bool :=
  decide (ttDuration e < 10 ∨ ttDuration e > 10000000 ∨ ttDuration e % 10 ≠ 0)

/-- The admin list. -/
def adminList (s : State) (t : Nat) : List Nat :=
  (List.range (getObj s t Obj.timetableLength)).map (fun i => getObj s t (Obj.timetableEntry + i))

/-- R140: the start of a list committed at `now` with base `b` and cycle `c`. -/
def ttStartAt (now b c : Nat) : Nat :=
  if b ≥ now + 1000 then b else b + ceilDiv (now + 1000 - b) c * c

/-- R109: the live passes of the tile stand a list. -/
def ttPassesOk (s : State) (t : Nat) (l : List Nat) : Bool :=
  decide (checkPasses s (weighWith s t (some l) none) = 0)

/-- TIMETABLE_COMMIT (R139, R140, R150). PassComputedBound takes the bounds under the committed list
(DEDUCED from its update at every Timetable commit). -/
def commitTT (t : Nat) (s : State) : State :=
  let l := adminList s t
  let n := getObj s t Obj.timetableLength
  if n < 1 ∨ n > 64 ∨ l.any ttEntryBad ∨ ttCycle l > 1000000000 then setObj t Obj.timetableCommitResult stBadFormat s
  else if flag s t Obj.timetableEnable ∧ hasLive s t ∧ ¬ ttPassesOk s t l then
    setObj t Obj.timetableCommitResult stRefusedAdmission s
  else
    setObj t Obj.timetableCommitResult stOk
      (takeTileBounds t (if flag s t Obj.timetableEnable then some l else none) (modTT t (fun x => { x with
        pending := some ⟨l, ttStartAt s.time.timeBase (getObj s t Obj.timetableBase) (ttCycle l)⟩ }) s))

def execTimetableCommit (t : TileN) (v : BitVec 8) (s : State) : Res := run (boolCommand v.toNat (commitTT t.val)) s

/-- R150: fragments queued when a list starts need only an open gate. -/
def exemptQueued (t : Nat) (s : State) : State :=
  forChans (fun c s => modQueue t c (fun q => { q with
    rq := q.rq.map (fun a => { a with exempt := true }), wq := q.wq.map (fun a => { a with exempt := true }) }) s) s

/-- Fragments of class k still running: an access issued and not complete, or a later access of a
fragment whose first one was picked. -/
def runningFrags (s : State) (t k : Nat) : Nat :=
  sumOf ((List.range 48).map (fun c =>
    let q := getQueue s t c
    (((q.rq ++ q.wq).filter (fun a => a.cls = k ∧ ¬ classless a ∧ (a.stage ≠ 0 ∨ ¬ a.first))).map
      (fun a => a.frag)).eraseDups.length))

/-- R144: the gates in force become those of the present entry; fragments still running of a class whose gate
was open until now and closes are overruns. -/
def noteGates (t : Nat) (s : State) : State :=
  let now := gateMask s t
  let closes := (List.range 8).filter (fun k => bit (getTT s t).mask k && !bit now k)
  bump t Obj.gateOverruns (sumOf (closes.map (runningFrags s t))) (modTT t (fun x => { x with mask := now }) s)

/-- TIMETABLE_START (R140): a pending list whose start is reached replaces the running one. -/
def startTT (t : Nat) (s : State) : State :=
  match (getTT s t).pending with
  | none => s
  | some p =>
    if s.time.timeBase < p.start then s
    else
      noteGates t (exemptQueued t (modTT t (fun x => { x with
        running := some p
        pending := none
        gates := flag s t Obj.timetableEnable }) s))

def execTimetableStart (t : TileN) (s : State) : Res := run (startTT t.val) s

/-- GATE_CHANGE (R140, R144): the time base enters the next entry of the running list. -/
def gateChange (t : Nat) (s : State) : State := if (ttInForce s t).isNone then s else noteGates t s

def execGateChange (t : TileN) (s : State) : Res := run (gateChange t.val) s

/-- TimetableEnable (R141, R150): a write of 1 with passes live is checked against the running and the
pending list; the gates follow at the next tick, and PassComputedBound follows the running list. -/
def writeTTEnable (t v : Nat) (s : State) : State :=
  if v > 1 then answer stBadFormat s
  else
    let lists := (match (getTT s t).running with | some l => [l.entries] | none => []) ++
      (match (getTT s t).pending with | some l => [l.entries] | none => [])
    if v = 1 ∧ hasLive s t ∧ ¬ lists.all (ttPassesOk s t) then answer stRefusedAdmission s
    else
      let s1 := storeObj t Obj.timetableEnable v s
      takeTileBounds t (admTT s1 t) s1

def execTimetableEnableWrite (t : TileN) (v : BitVec 8) (s : State) : Res := run (writeTTEnable t.val v.toNat) s

/-- TOKEN_GRANT (R296, R315): the metered wait of a stage is over. -/
def execTokenGrant (t : TileN) (target : Fin 58) (s : State) : Res := run (grantToken t.val target.val) s

end Sys2Proof.Machine
end

