-- ==== Sys2Proof/Machine/Protection.lean ====
section
/-! DEFINITION. Protection and repair (R265 to R283), the Blotter (R267, R268), the address converters
of Table 2.10, the fill pattern (R50) and disabled channels (R60). -/

namespace Sys2Proof.Machine

open Sys2Proof

/-! ## Migrations -/

/-- The entry a finished migration writes (R276 step 4, R277 step 3), with its record, counts and log. -/
def writeRepair (t c : Nat) (m : Mig) (s : State) : State :=
  let r := getRemap s t c m.bank
  let s0 := setObj t Obj.sparesFree (getObj s t Obj.sparesFree - 1) s
  let (r1, cause, s1) := match m.entry with
    | some e =>
      let old := match r.entries.getD e none with | some (_, sp) => sp | none => 0
      ({ r with entries := setNth r.entries e (some (m.row, m.spare)),
                spares := setNth (setNth r.spares old 2) m.spare 1 }, 2,
        bump t Obj.rePoints 1 (bump t Obj.sparesBad 1 s0))
    | none =>
      ({ r with entries := setNth r.entries ((freeEntry r).getD 0) (some (m.row, m.spare)),
                spares := setNth r.spares m.spare 1 }, 1, bump t Obj.remaps 1 s0)
  logRepair t cause stOk c m.bank m.row
    (pushRepair t 0x02 (remapKey t c m.bank) 24 (remapBits r1)
      (freeWatch t c m.bank m.row (setRemap t c m.bank r1 s1)))

/-- The write entry of a channel's migration whose bounce copy is done: 32 lines read and written (R57). -/
def copiedMig (s : State) (t c : Nat) : Option Acc :=
  (getQueue s t c).wq.find? (fun a => a.job == .migrate && decide (a.done = 32) &&
    (match a.kind with | .bounceWrite .. => true | _ => false))

/-- MIGRATION_COMPLETE (R276, R277): the bounce copy is done, both its entries are free, the remap entry is
written, the held accesses go to the new spare, the next migration starts. Under a trip the entry is not
written, and a tile reset abandons the migration (R283). -/
def migrationComplete (t c : Nat) (s : State) : State :=
  if tripped s ∨ inReset s t then s
  else
    match copiedMig s t c, (getProt s t).running.find? (fun m => m.chan = c) with
    | some a, some m =>
      let s1 := batchEnds t c <| bump t (Obj.bounceCopies + c) 1 (modBounce t c (fun _ => {}) (modQueue t c (fun q => { q with
        rq := q.rq.filter (fun x => x.id ≠ a.id), wq := q.wq.filter (fun x => x.id ≠ a.id) }) s))
      let s2 := modProt t (fun p => { p with running := p.running.filter (fun x => x.chan ≠ c) }) s1
      let s3 := writeRepair t c m s2
      -- R283: a lane suspicion raised during the migration takes the channel down now
      let s4 := if (getTrain s3 t c).errLane.isSome then linkFault t c s3 else s3
      startMigrations 64 t s4
    | _, _ => s

def execMigrationComplete (t : TileN) (c : ChanN) (s : State) : Res := run (migrationComplete t.val c.val) s

/-! ## The watch -/

/-- WATCH_ENTRY_EXPIRY (R270): an entry whose newest finding is older than the window is freed. -/
def watchExpiry (t i : Nat) (s : State) : State :=
  let w := getWatch s t i
  if w.valid ∧ w.stamp0 + faultWindow s t < s.time.timeBase then setWatch t i {} s else s

def execWatchEntryExpiry (t : TileN) (slot : Fin 512) (s : State) : Res := run (watchExpiry t.val slot.val) s

/-! ## Retirement by command -/

/-- RETIRE_ROW (R278): the row named in Table 10.3's layout. -/
def retireCommand (t v : Nat) (s : State) : State :=
  if bits v 54 6 > 47 then answer stBadFormat s
  else answer stOk (retireRowAt t (bits v 54 6) (bits v 50 4) (bits v 37 13) 3 s)

def execRetireRow (t : TileN) (v : BitVec 64) (s : State) : Res := run (retireCommand t.val v.toNat) s

/-! ## Error injection (Table 10.6) -/

/-- Bits of an ErrorInject value that are no field: [127:88] and [67:40]. -/
def injectReserved (v : Nat) : Bool := bits v 88 40 ≠ 0 || bits v 40 28 ≠ 0

/-- What an ErrorInject answers, and the state after it. -/
def injectAt (t v : Nat) (s : State) : Nat × State :=
  let b1 := bits v 72 8
  let b2 := bits v 80 8
  let kind := bits v 68 4
  let a := bits v 0 40
  if injectReserved v ∨ kind = 0 ∨ kind > 3 ∨ b1 > 71 ∨ b2 > 71 ∨ a % 8 ≠ 0 ∨ (kind = 2 ∧ b1 = b2)
      ∨ addrTile a ≠ t then (stBadFormat, s)
  else if addrOffset a ≥ populated then (stDecodeError, s)
  else
    let p := translate (addrOffset a)
    if rowHeld s t p.chan p.bank p.row then (stRetry, s)
    else
      let prow := physRow s t p.chan p.bank p.row
      let w := rawWord s t p.chan p.bank prow (p.byte / 8)
      let w1 := if kind = 1 then flipBit w b1
        else if kind = 2 then flipBit (flipBit w b1) b2
        else poisonWord (wordData w)
      (stOk, setRawWord t p.chan p.bank prow (p.byte / 8) w1 s)

/-- ErrorInject: the result is kept in ErrorInjectResult and answered. -/
def injectWrite (t v : Nat) (s : State) : State :=
  let (st, s1) := injectAt t v s
  answer st (setObj t Obj.errorInjectResult st s1)

/-- An ErrorInject value with its kind field set. -/
def withKind (v k : Nat) : Nat := v - fld 68 4 (bits v 68 4) + fld 68 4 k

def execErrorInjectFlipOne (t : TileN) (v : BitVec 128) (s : State) : Res :=
  run (injectWrite t.val (withKind v.toNat 1)) s
def execErrorInjectFlipTwo (t : TileN) (v : BitVec 128) (s : State) : Res :=
  run (injectWrite t.val (withKind v.toNat 2)) s
def execErrorInjectPoison (t : TileN) (v : BitVec 128) (s : State) : Res :=
  run (injectWrite t.val (withKind v.toNat 3)) s

/-! ## RepairMode (R279, R283) -/

/-- A write of 1 drops the queued migrations; a write of 0 lets them go on. -/
def writeRepairMode (t v : Nat) (s : State) : State :=
  if v > 1 then answer stBadFormat s
  else
    let s1 := storeRws t Obj.repairMode v s
    if v = 1 then modProt t (fun p => { p with queue := [] }) s1 else startMigrations 64 t s1

def execRepairModeWrite (t : TileN) (v : BitVec 8) (s : State) : Res := run (writeRepairMode t.val v.toNat) s

/-! ## The Blotter (R74, R267, R268) -/

def getBlot (s : State) (t c : Nat) : Blot := fget {} s.blot (chKey t c)
def setBlot (t c : Nat) (b : Blot) (s : State) : State := { s with blot := fset {} s.blot (chKey t c) b }

/-- The position is read in a lap: a row number, or a free spare. -/
def lapReads (s : State) (t c : Nat) (b : Blot) : Bool :=
  b.row < 8192 || (getRemap s t c b.bank).spares.getD (b.row - 8192) 0 = 0

/-- The next bank and row of a lap from a bank start; none at the end of the lap. -/
def lapBank (s : State) (t c : Nat) : Nat → Blot → Option Blot
  | 0, _ => none
  | fuel + 1, b =>
    if b.row ≥ 8208 then none
    else if lapReads s t c b then some b
    else lapBank s t c fuel (if b.bank = 15 then { b with row := b.row + 1, bank := 0, sector := 0 }
      else { b with bank := b.bank + 1, sector := 0 })

/-- The position after one sector: the next of the row while the lap still reads it, else the next row. -/
def lapNext (s : State) (t c : Nat) (b : Blot) : Option Blot :=
  if b.sector < 63 ∧ lapReads s t c b then some { b with sector := b.sector + 1 }
  else if b.bank < 15 then lapBank s t c 300 { b with bank := b.bank + 1, sector := 0 }
  else lapBank s t c 300 { b with row := b.row + 1, bank := 0, sector := 0 }

/-- The end of a lap (R268). -/
def lapEnd (t c : Nat) (b : Blot) (s : State) : State :=
  let s1 := setObj t (Obj.scrubLapLast + c) (s.time.elapsed - b.start) s
  let s2 := bump t (Obj.scrubLaps + c) 1 s1
  let s3 := setObj t (Obj.scrubLapProgress + c) 0 s2
  let s4 := setObj t Obj.scrubOverdue (clearBit (getObj s3 t Obj.scrubOverdue) c) s3
  setBlot t c { lastAt := b.lastAt, start := s.time.elapsed } s4

/-- The Blotter of a channel may issue: enabled, its spacing past, both queues empty, the bank free,
the channel ready and not withheld, no window open, no trip and no reset (R18, R74, R267). -/
def blotterDue (s : State) (t c : Nat) (b : Blot) : Bool :=
  flag s t Obj.scrubEnable && pickerRuns s t c && !windowOpen s t c
    && (match b.lastAt with
        | some x => decide (x + getObj s t Obj.scrubSpacing ≤ s.time.elapsed)
        | none => true)
    && (getQueue s t c).rq.isEmpty && (getQueue s t c).wq.isEmpty
    && !bankPending s t c b.bank
    && (match getBank s t c b.bank with | .opening _ | .busy _ => false | _ => true)

/-- The access of the Blotter that a finding of it names: in its own tier, before everything (R73). -/
def blotterAcc (b : Blot) : Acc := { id := 0, kind := .read, bank := b.bank, row := b.row, sector := b.sector, low := true }

/-- BLOTTER_ACCESS (R267): one sector is read, whole in one act; its bank ends precharged (R74), and its
data path is metered like any other (R296). A spare taken in use or marked bad meanwhile is passed over. -/
def blotterAccess (t c : Nat) (s : State) : State :=
  let b0 := getBlot s t c
  match lapBank s t c 300 b0 with
  | none => lapEnd t c b0 s
  | some b =>
    if ¬ blotterDue s t c b then s
    else
      let b1 := { b with lastAt := some s.time.elapsed }
      let words := rawWords s t c b.bank (physRow s t c b.bank b.row) (b.sector * 4) 4
      let f := findWords words 0 {}
      let s1 := countEv t 0x000C c 1 (bump t (Obj.scrubLapProgress + c) 1
        (setBank t c b.bank .closed (meterChannel t c 3 s)))
      let s2 := afterRead t c b.bank b.row (b.sector * 4) (blotterAcc b) true words f s1
      match lapNext s2 t c b1 with
      | some b2 => setBlot t c b2 s2
      | none => lapEnd t c b1 s2

def execBlotterAccess (t : TileN) (c : ChanN) (s : State) : Res := run (blotterAccess t.val c.val) s

/-- SCRUB_OVERDUE (R268): the lap in progress has run longer than ScrubLapLimit; logged once per lap. A lap
starts when the one before ends, the first at power-on, so that a channel that is never idle is overdue too
(DEDUCED). -/
def scrubOverdue (t c : Nat) (s : State) : State :=
  let b := getBlot s t c
  if s.time.elapsed - b.start ≤ getObj s t Obj.scrubLapLimit * 1000000000 then s
  else
    let s1 := setObj t Obj.scrubOverdue (setBit (getObj s t Obj.scrubOverdue) c) s
    if b.overdueLogged then s1
    else addLog t 0x06 10 stOk (getObj s t Obj.lastRepairEvent) c (setBlot t c { b with overdueLogged := true } s1)

def execScrubOverdue (t : TileN) (c : ChanN) (s : State) : Res := run (scrubOverdue t.val c.val) s

/-! ## Fill pattern and address converters (Table 2.10) -/

/-- FILL_PATTERN_WRITE (R50): carried to every channel at its next Recess window. -/
def writeFillPattern (t v : Nat) (s : State) : State :=
  forChans (fun c s => modLayer t c (fun l => { l with fillPending := true }) s) (storeObj t Obj.fillPattern v s)

def execFillPatternWrite (t : TileN) (v : BitVec 64) (s : State) : Res := run (writeFillPattern t.val v.toNat) s

/-- TRANSLATE_ADDRESS (R13, R39). -/
def writeTranslate (t v : Nat) (s : State) : State :=
  setObj t Obj.translateResult (translateResult v) (storeObj t Obj.translateAddress v s)

def execTranslateAddress (t : TileN) (v : BitVec 64) (s : State) : Res := run (writeTranslate t.val v.toNat) s

/-- UNTRANSLATE_REQUEST (R40). -/
def writeUntranslate (t v : Nat) (s : State) : State :=
  setObj t Obj.translateResult (untranslateResult v) (storeObj t Obj.untranslateRequest v s)

def execUntranslateRequest (t : TileN) (v : BitVec 64) (s : State) : Res := run (writeUntranslate t.val v.toNat) s

/-! ## Disabled channels (R60) -/

/-- One queued access of a channel that becomes disabled is done: a read gives UNCORRECTABLE and poisoned data,
a write is dropped. A bounce copy from the channel writes poisoned words; one into it loses them, and its
other entry goes too (R57, R60). -/
def failAcc (t c : Nat) (a : Acc) (s : State) : State :=
  let done := fun (d : Nat) (x : Acc) (s : State) => completeAcc t d x stUncorrectable 0 (2 ^ 8 - 1) s
  match a.kind with
  | .bounceRead w =>
    match (getQueue s t w).wq.find? (fun x => x.id = a.id) with
    | some x =>
      let s1 := if (getBounce s t w).acc = a.id then modBounce t w (fun _ => {}) s else s
      done w x (modQueue t c (fun q => { q with rq := q.rq.filter (fun y => y.id ≠ a.id) })
        (if chState s t w = 4 then s1 else poisonRow t w x s1))
    | none => modQueue t c (fun q => { q with rq := q.rq.filter (fun y => y.id ≠ a.id) }) s
  | .bounceWrite r _ _ =>
    done c a (modBounce t c (fun _ => {}) (modQueue t r (fun q => { q with rq := q.rq.filter (fun y => y.id ≠ a.id) })
      (returnAccs t r [a.id] s)))
  | _ => done c a s

/-- Every queued or deferred access of a channel that becomes disabled. -/
def failQueued (t c : Nat) (s : State) : State :=
  let q := getQueue s t c
  let still := fun (s : State) (a : Acc) => ((getQueue s t c).rq ++ (getQueue s t c).wq).any (fun x => x.id = a.id)
  let s1 := (q.rq ++ q.wq).foldl (fun s a => if still s a then failAcc t c a s else s) s
  let s2 := q.deferred.foldl (fun s a => failAcc t c a s) (modQueue t c (fun q => { q with deferred := [] }) s1)
  (List.range 32).foldl (fun s i => if (translate (getMerge s t i).line).chan = c then mergeSettle t c i s else s) s2

/-- Cause 4 of R112 stands while a channel of the tile is in link fault or retraining after bring-up. -/
def linkCause (t : Nat) (s : State) : State :=
  setCause t 4 ((List.range 48).any (fun c => chState s t c = 3)) s

/-- R60: a channel becomes disabled: accesses queued for it complete with UNCORRECTABLE, the tile is
degraded, its passes are at risk (R112), line 3 of the budget counts (Table 10.5). -/
def disableChannel (t c : Nat) (s : State) : State :=
  if chState s t c = 4 then s
  else
    let s1 := setObj t Obj.tileStackState 2 (setObj t (Obj.channelState + c) 4 s)
    let s2 := modProt t (fun p => { p with
      running := p.running.filter (fun m => m.chan ≠ c), queue := p.queue.filter (fun m => m.chan ≠ c) }) s1
    let s3 := modLayer t c (fun l => { l with
      down := [], failed := [], awaits := none, up := [], reads := [], last := none }) s2
    let s4 := feedMap t (failQueued t c s3)
    budget 3 (addLog t 0x01 3 stOk c 0 (linkCause t (raiseCause t 6 s4)))

/-- CHANNEL_DISABLE_WRITE (Table 2.10): 1 forces the channel disabled at once; 0 lets it train again at
the next bring-up. -/
def writeChannelDisable (t c v : Nat) (s : State) : State :=
  if v > 1 then answer stBadFormat s
  else
    let s1 := storeRws t (Obj.channelDisable + c) v s
    if v = 1 then disableChannel t c s1 else s1

def execChannelDisableWrite (t : TileN) (c : ChanN) (v : BitVec 8) (s : State) : Res :=
  run (writeChannelDisable t.val c.val v.toNat) s

end Sys2Proof.Machine
end

