-- ==== Sys2Proof/Machine/Thermal.lean ====
section
/-! DEFINITION. Recess windows (R289 to R294), sensors, throttling, the guarantee ceiling and the trip
(R285 to R303). -/

namespace Sys2Proof.Machine

open Sys2Proof

/-! ## Recess windows -/

/-- R104, Table 11.2: the window period of a band in ns. -/
def bandPeriod (b : Nat) : Nat := if b = 0 then 500000 else if b = 1 then 250000 else if b = 2 then 125000 else 62500

/-- R29, R291: the window period due now: the next hotter band's in holdover. -/
def recessPeriod (s : State) (t : Nat) : Nat :=
  let b := getObj s t Obj.refreshBand
  bandPeriod (if getObj s dev Obj.referenceState = 0 then b else min 3 (b + 1))

/-- R104: the first tick at or after offset c / 48 of a period. -/
def recessOffset (p c : Nat) : Nat := ceilDiv (ceilDiv (p * c) 48) 10 * 10

/-- R292: the REFs of window w of an interval. -/
def recessRefs (w : Nat) : Nat := ceilDiv (8208 * (w + 1)) 128 - ceilDiv (8208 * w) 128

/-- R59, R92: every command of the channel is acknowledged and complete, its reports and read beats are in, and
no access is under way whose next command is still to come. -/
def channelQuiet (s : State) (t c : Nat) : Bool :=
  let l := getLayer s t c
  let q := getQueue s t c
  l.down.isEmpty && l.failed.isEmpty && l.up.isEmpty && l.reads.isEmpty && !(q.rq ++ q.wq).any (underWay s) &&
    allBanks s t c (fun b => match b with | .opening _ | .busy _ => false | _ => true)

/-- The end of a window (R292, R293). -/
def closeWindow (t c : Nat) (s : State) : State :=
  let x := getRecess s t c
  let len := s.time.elapsed - x.openAt.getD 0
  let s1 := modRecess t c (fun r => { r with
    openAt := none, phase := 0, cal := false, number := (r.number + 1) % 128 }) s
  let s2 := bump t (Obj.recessWindows + c) 1 s1
  let s3 := setObj t (Obj.recessLongest + c) (max (getObj s2 t (Obj.recessLongest + c)) len) s2
  if len > 15000 then bump t (Obj.recessExtended + c) 1 s3 else s3

/-- R50: the fill registers are written in a window, before its REFs or its calibration. -/
def sendFill (t c : Nat) (s : State) : State :=
  let v := getObj s t Obj.fillPattern
  modLayer t c (fun l => { l with fillPending := false })
    (sendDown t c { word := opWord 8 0 (fld 4 6 5), beats := [eccEncode v] }
      (sendDown t c { word := opWord 8 0 (fld 4 6 4), beats := [v] } s))

/-- What the controller sends next in an open window (R292): PREA once the acknowledged commands are
done, a fill pattern that is due, then the REFs one after another; a calibration window carries none. Under a
trip no fill pattern is sent (R59). -/
def recessStep (t c : Nat) (s : State) : State :=
  let x := getRecess s t c
  if x.openAt.isNone ∨ ¬ channelQuiet s t c then s
  else if x.phase = 0 then
    modRecess t c (fun r => { r with phase := 1 })
      (modTrain t c (fun k => { k with prea := false }) (sendDown t c { word := opWord 4 0 0 } s))
  else if (getLayer s t c).fillPending ∧ ¬ tripped s then sendFill t c s
  else if x.cal then modRecess t c (fun r => { r with phase := 2 }) s
  else if x.refsLeft = 0 then closeWindow t c s
  else
    modRecess t c (fun r => { r with phase := 2, refsLeft := r.refsLeft - 1 })
      (sendDown t c { word := opWord 5 0 0 } s)

/-- R59: after a trip or a tile reset the controller sends PREA once every outstanding report is in. -/
def quietStep (t c : Nat) (s : State) : State :=
  let x := getTrain s t c
  if (x.quiet.isSome ∨ x.prea) ∧ channelQuiet s t c ∧ (getRecess s t c).openAt.isNone then
    sendDown t c { word := opWord 4 0 0 } (modTrain t c (fun x => { x with quiet := none, prea := false }) s)
  else s

/-- DONE_REPORT (R43): the oldest upward transfer, when it is a done report; an open Recess window, or
the wait of a tile reset, goes on with it. -/
def execDoneReport (t : TileN) (c : ChanN) (count : BitVec 8) (s : State) : Res :=
  run (fun s => quietStep t.val c.val <| recessStep t.val c.val (doneReport t.val c.val count.toNat s)) s

/-- READ_DATA_ARRIVAL (R261). -/
def execReadDataArrival (t : TileN) (c : ChanN) (s : State) : Res :=
  run (fun s => quietStep t.val c.val <| recessStep t.val c.val (readArrival t.val c.val s)) s

/-- A calibration run takes the window that opens (R387), but never two windows in a row (R292). -/
def windowCal (s : State) (t c : Nat) : Bool :=
  decide ((getCal s t c).step ≠ 0 ∧ (getCal s t c).skip = 0 ∧ (getRecess s t c).carried = 0 ∧ chState s t c = 2)
    && !inHold s t && !tripped s

/-- Open a window of the period in force; `period` 0 keeps the schedule. -/
def openWindow (t c period : Nat) (s : State) : State :=
  let x := getRecess s t c
  let cal := windowCal s t c
  let n := if period = 0 then x.number else 0
  let p := if period = 0 then x.period else period
  let refs := recessRefs n + x.carried
  let s1 := modRecess t c (fun r => { r with
    next := s.time.elapsed + p, period := p, number := n, openAt := some s.time.elapsed, phase := 0, cal := cal
    refsLeft := if cal then 0 else refs, carried := if cal then refs else 0 }) s
  let s2 := if cal then s1 else modCal t c (fun k => { k with skip := k.skip - 1 }) s1
  recessStep t c s2

/-- RECESS_WINDOW_OPEN (R291, R292): a window of the period in force, or the first of a changed period
at the channel's offset on the time base. -/
def recessOpen (t c : Nat) (s : State) : State :=
  let x := getRecess s t c
  let p := recessPeriod s t
  let ph := getObj s dev Obj.bringupPhase
  if x.openAt.isSome ∨ chState s t c = 4 ∨ ph = 1 ∨ ph = 2 then s
  else if x.period ≠ p ∧ s.time.timeBase % p = recessOffset p c then openWindow t c p s
  else if x.period ≠ 0 ∧ x.next ≤ s.time.elapsed then openWindow t c 0 s
  else s

def execRecessWindowOpen (t : TileN) (c : ChanN) (s : State) : Res := run (recessOpen t.val c.val) s

/-! ## Thermal events (R302) -/

/-- LastThermalEvent's value. -/
def thermalEvent (s : State) (cause v : Nat) : Nat := fld 56 8 cause + fld 48 8 v + s.time.timeBase % 2 ^ 48

/-- Record an event, write its log entry, set doorbell bit 4. -/
def thermalNote (t cause v : Nat) (s : State) : State :=
  let e := thermalEvent s cause v
  ring t 4 (addLog t 0x07 cause stOk e 0 (setObj t Obj.lastThermalEvent e s))

/-! ## The refresh band (R289, R294) -/

/-- RefreshBand takes a value: BandTime, the count, the event, and cause bit 1 of the passes (R112). -/
def setBand (t v : Nat) (s : State) : State :=
  let old := getObj s t Obj.refreshBand
  if v = old then s
  else
    let x := getSensor s t
    let s1 := bump t (Obj.bandTime + old) (s.time.elapsed - x.bandSince) s
    let s2 := modSensor t (fun x => { x with bandSince := s.time.elapsed }) s1
    let s3 := thermalNote t 1 v (bump t Obj.bandChanges 1 (setObj t Obj.refreshBand v s2))
    setCause t 1 (decide (v > getObj s3 t Obj.passBand)) s3

/-- Upper limits and fall limits of Table 11.2 in 1/16 °C. -/
def bandUp (b : Nat) : Int := if b = 0 then 1120 else if b = 1 then 1360 else 1520
def bandDown (b : Nat) : Int := if b = 1 then 1088 else if b = 2 then 1328 else 1488

/-- R289: the band after a reading, from the band before it. -/
def bandFor (b : Nat) (v : Int) : Nat :=
  let up := fun (b : Nat) => if b < 3 ∧ v > bandUp b then b + 1 else b
  let down := fun (b : Nat) => if b > 0 ∧ v ≤ bandDown b then b - 1 else b
  down (down (down (up (up (up b)))))

/-- RECESS_MIN_BAND_WRITE (R294). -/
def writeMinBand (t v : Nat) (s : State) : State :=
  if v > 3 then answer stBadFormat s
  else
    let nb := max (getSensor s t).band v
    if hasLive s t ∧ nb > getObj s t Obj.refreshBand ∧ nb > getObj s t Obj.passBand then answer stRetry s
    else setBand t nb (storeRws t Obj.recessMinBand v s)

def execRecessMinBandWrite (t : TileN) (v : BitVec 8) (s : State) : Res := run (writeMinBand t.val v.toNat) s

/-! ## Readings (R285, R288) -/

/-- R285: a reading in range; the sensor of a layer is read through its half 0 channel (R288). A sensor
without a valid factory offset gives no valid reading (R391). -/
def validReading (s : State) (t i : Nat) (r : Option Int) : Option Int :=
  match r with
  | none => none
  | some v =>
    if v < -640 ∨ v > 2400 ∨ (i ≥ 6 ∧ chState s t (2 * (i - 6)) = 4) ∨ (Config.sensorOffset t i).isNone then none
    else some v

/-- The higher of two optional readings. -/
def maxReading (a b : Option Int) : Option Int :=
  match a, b with
  | some x, some y => some (max x y)
  | some x, none => some x
  | none, y => y

/-- The highest of a list of readings. -/
def topReading (l : List (Option Int)) : Option Int := l.foldl maxReading none

/-- SensorLost after a sample: bits set at the third miss, cleared at the third valid reading in a row. -/
def lostAfter (lost : Nat) (miss good : List Nat) : Nat :=
  (List.range 30).foldl (fun m i =>
    if miss.getD i 0 = 3 then setBit m i else if bit m i && decide (good.getD i 0 = 3) then clearBit m i else m) lost

/-- R288: the substitute of sensor `i` from the readings of the sensors that are neither lost nor new. -/
def substitute (sound : List (Option Int)) (i : Nat) : Int :=
  if i < 6 then
    match topReading (sound.take 6) with
    | some v => v + 80
    | none => 1760
  else
    match maxReading (if i = 6 then none else sound.getD (i - 1) none) (if i = 29 then none else sound.getD (i + 1) none) with
    | some v => v + 80
    | none => 1680

/-- The values in use after a sample (R287, R288). -/
def valuesInUse (lost : Nat) (reading now : List (Option Int)) : List Int :=
  let sound := (List.range 30).map (fun i => if bit lost i then none else reading.getD i none)
  (List.range 30).map (fun i =>
    match bit lost i, now.getD i none, reading.getD i none with
    | false, some v, _ => v
    | false, none, some v => v
    | _, _, _ => substitute sound i)

/-- The maximum of a list of values, below every reading where it is empty. -/
def maxOf (l : List Int) : Int := l.foldl max (-100000)

/-- The readings of a tile after a sample, with the losses and restorations it finds (R288). -/
def takeReadings (t : Nat) (readings : List (Option Int)) (s : State) : State :=
  let x := getSensor s t
  let now := (List.range 30).map (fun i => validReading s t i (readings.getD i none))
  let reading := (List.range 30).map (fun i => match now.getD i none with
    | some v => some v
    | none => x.reading.getD i none)
  let miss := (List.range 30).map (fun i => if (now.getD i none).isSome then 0 else x.miss.getD i 0 + 1)
  let good := (List.range 30).map (fun i => if (now.getD i none).isSome then x.good.getD i 0 + 1 else 0)
  let old := getObj s t Obj.sensorLost
  let lost := lostAfter old miss good
  let s1 := modSensor t (fun x => { x with
    value := valuesInUse lost reading now, reading := reading, miss := miss, good := good }) s
  let s2 := (List.range 30).foldl (fun s i =>
    match now.getD i none with
    | none => s
    | some v =>
      if i < 6 then setObj t (Obj.logicTemp + i) (ofSigned 32 v) s
      else modLayer t (2 * (i - 6)) (fun l => { l with temperature := ofSigned 16 v })
        (setObj t (Obj.dramTemp + (i - 6)) (ofSigned 32 v) s)) s1
  let s3 := setObj t Obj.sensorLost lost s2
  (List.range 30).foldl (fun s i =>
    if bit lost i && !bit old i then thermalNote t 7 i (bump t Obj.sensorLostEvents 1 s)
    else if bit old i && !bit lost i then thermalNote t 8 i s
    else s) s3

/-- Maxima (R287) of a tile and of the device. -/
def takeMaxima (t : Nat) (s : State) : State :=
  let v := (getSensor s t).value
  let lm := maxOf (v.take 6)
  let dm := maxOf (v.drop 6)
  let layer := (findAt (fun x => decide (x = dm)) 0 (v.drop 6)).map (·.1)
  let s1 := setObj t Obj.logicMax (ofSigned 32 lm)
    (setObj t Obj.columnDramMax (ofSigned 32 dm) (setObj t Obj.hottestLayer (layer.getD 0) s))
  let tiles := s1.sensor.filter (fun e => !e.2.value.isEmpty)
  let stack := maxOf (tiles.map (fun e => maxOf (e.2.value.drop 6)))
  let hot := (tiles.find? (fun e => maxOf (e.2.value.drop 6) = stack)).map (·.1)
  setObj dev Obj.stackMax (ofSigned 32 stack)
    (setObj dev Obj.deviceLogicMax (ofSigned 32 (maxOf (tiles.map (fun e => maxOf (e.2.value.take 6)))))
      (setObj dev Obj.hottestTile (hot.getD 0) s1))

/-- An I32 object as a number. -/
def getInt (s : State) (u k : Nat) : Int := toSigned 32 (getObj s u k)

/-- R295: the throttle points in force in 1/16 °C. -/
def throttlePoint (s : State) (t k : Nat) : Int :=
  16 * ((getObj s t k : Int) - (if flag s t Obj.riseActive then (getObj s t Obj.riseAdvance : Int) else 0))

/-- R295: u in thousandths for an excess in 1/16 °C: 0.08 per °C is 5 thousandths per 1/16 °C. -/
def throttleU (e : Int) : Nat := max 100 (1000 - 5 * e.toNat)

/-- Throttling and the guarantee ceiling after a sample (R295, R299, R302). -/
def takeThrottle (t : Nat) (s : State) : State :=
  let x := getSensor s t
  let lm := getInt s t Obj.logicMax
  let dm := getInt s t Obj.columnDramMax
  let e := max (max (lm - throttlePoint s t Obj.logicThrottlePoint) (dm - throttlePoint s t Obj.dramThrottlePoint)) 0
  let u := throttleU e
  let c := if x.ceiling then !(decide (lm < 1728 ∧ dm < 1648)) else decide (lm ≥ 1760 ∨ dm ≥ 1680)
  let s1 := modSensor t (fun x => { x with u := u, ceiling := c }) s
  let s2 := if u < 1000 ∧ x.u = 1000 then thermalNote t 2 (thermalCode s1 t) s1
    else if u = 1000 ∧ x.u < 1000 then thermalNote t 3 (thermalCode s1 t) s1 else s1
  let s3 := if c && !x.ceiling then thermalNote t 4 (thermalCode s2 t) (bump t Obj.ceilingEvents 1 s2)
    else if x.ceiling && !c then thermalNote t 5 (thermalCode s2 t) s2 else s2
  setCause t 5 c s3

/-- R286: the distance from a value to the nearest limit of its kind. -/
def nearest (v : Int) (limits : List Int) : Nat :=
  match minBy (fun l => (v - l).natAbs) limits with
  | some l => (v - l).natAbs
  | none => 0

/-- R286: the sampling period by the smallest distance. -/
def samplingFor (s : State) (t : Nat) : Nat :=
  let v := (getSensor s t).value
  let ll := [throttlePoint s t Obj.logicThrottlePoint, 1760, 1840]
  let dl := [1120, 1360, 1520, throttlePoint s t Obj.dramThrottlePoint, 1680, 1760]
  let ds := (v.take 6).map (fun x => nearest x ll) ++ (v.drop 6).map (fun x => nearest x dl)
  let d := (minBy (fun x => x) ds).getD 0
  if tripped s then 20000 else if d ≥ 160 then 1000000 else if d ≥ 48 then 100000 else 20000

/-! ## The trip (R300, R301) -/

/-- The sensor that trips, if a valid reading reaches its trip level (R300). -/
def tripSensor (s : State) (t : Nat) (readings : List (Option Int)) : Option Nat :=
  (findAt (fun i => match validReading s t i (readings.getD i none) with
    | some v => decide (v ≥ if i < 6 then 1840 else 1760)
    | none => false) 0 (List.range 30)).map (·.1)

/-- A word that a channel may send under a trip: PREA, REF and the MRR of temperature (R59). -/
def refreshWord (d : Down) : Bool :=
  !wMarker d.word && (wOpcode d.word = 4 || wOpcode d.word = 5 || wOpcode d.word = 9)

/-- R59, R300: a channel's acknowledged commands complete, what the layer had not acknowledged goes back to the
queues, and PREA follows, in the window where one is open. A channel whose path is empty and whose banks are
precharged needs none. -/
def tripChannel (t c : Nat) (s : State) : State :=
  let s1 := unwindChannel t c refreshWord s
  if (getRecess s1 t c).openAt.isSome ∨ (allBanks s1 t c isClosed && channelQuiet s1 t c) then recessStep t c s1
  else quietStep t c (modTrain t c (fun x => { x with prea := true }) s1)

/-- The channels that hold anything. -/
def busyChannels (s : State) : List Nat :=
  let a : List Nat := s.layer.map (fun e => e.1)
  let b : List Nat := s.bank.map (fun e => e.1 / 16)
  let q : List Nat := s.queue.map (fun e => e.1)
  (a ++ b ++ q).eraseDups

/-- A trip (R300): passes lapse, channels keep refresh only, every tile and the device log it. -/
def trip (t sensor : Nat) (s : State) : State :=
  let lt := fld 58 6 t + fld 53 5 (if sensor < 6 then sensor else sensor + 2) + s.time.timeBase % 2 ^ 48
  let s1 := setObj dev Obj.tripState 1 (bump dev Obj.tripEvents 1 (setObj dev Obj.lastTrip lt s))
  let s1 := (s1.array.filter (fun e => e.2.stream.isSome)).foldl (fun s e => bump (e.1 / 4) (Obj.tripStops + e.1 % 4) 1 s) s1
  let s2 := (busyChannels s1).foldl (fun s k => tripChannel (k / 48) (k % 48) s) s1
  let e := thermalEvent s2 9 1
  let s3 := forTiles (fun u s => addLog u 0x07 9 stThermalTrip e lt (setObj u Obj.lastThermalEvent e s)) (lapseAll s2)
  budget 8 (ringAll 4 (addLog dev 0x07 9 stThermalTrip e lt s3))

/-- A tile has a valid logic sensor and a valid DRAM sensor (R301). -/
def judgeable (s : State) (t : Nat) : Bool :=
  let x := getSensor s t
  let lost := getObj s t Obj.sensorLost
  let ok := fun (i : Nat) => !bit lost i && (x.reading.getD i none).isSome
  (List.range 6).any ok && (List.range 24).any (fun j => ok (j + 6))

/-- R301 can judge the restart. -/
def allJudged (s : State) : Bool := (List.range 64).all (judgeable s)

/-- Every sensor of the device reads below 85 °C, substitutes included. -/
def allCool (s : State) : Bool := (List.range 64).all (fun t => (getSensor s t).value.all (fun v => decide (v < 1360)))

/-- TripState between trip and restart after a sample (R301). -/
def takeCooling (s : State) : State :=
  let st := getObj s dev Obj.tripState
  let cool := allJudged s && allCool s
  if st = 1 ∧ cool then
    setObj dev Obj.tripState 2 (setObj dev Obj.tripCoolStart s.time.timeBase
      { s with time := { s.time with coolFrom := s.time.elapsed } })
  else if st = 2 ∧ ¬ cool then setObj dev Obj.tripState 1 s
  else s

/-- R286: each half 0 channel that is ready owes the MRR of its layer's temperature. -/
def askTemps (t : Nat) (s : State) : State :=
  (List.range 24).foldl (fun s l => if chState s t (2 * l) = 2 then modLayer t (2 * l) (fun x => { x with tempDue := true }) s
    else s) s

/-- THERMAL_SAMPLE (R286): all 30 sensors of a tile at a multiple of its sampling period. -/
def thermalSample (t : Nat) (readings : List (Option Int)) (s : State) : State :=
  let period := if tripped s then 20000 else getObj s t Obj.samplingPeriod
  if ¬ due s t 2 period then s
  else
    let s1 := askTemps t (bump t Obj.thermalSamples 1 (take t 2 s))
    let s2 := takeMaxima t (takeReadings t readings s1)
    let b := bandFor (getSensor s2 t).band (getInt s2 t Obj.columnDramMax)
    let s3 := setBand t (max b (getObj s2 t Obj.recessMinBand)) (modSensor t (fun x => { x with band := b }) s2)
    let s4 := takeThrottle t s3
    let s5 := match tripSensor s4 t readings with
      | some i => if getObj s4 dev Obj.tripState = 0 then trip t i s4 else takeCooling s4
      | none => takeCooling s4
    setObj t Obj.samplingPeriod (samplingFor s5 t) s5

def execThermalSample (t : TileN) (readings : List (Option Int)) (s : State) : Res := run (thermalSample t.val readings) s

/-- Restart after a trip (R301): LastThermalEvent and a log entry of every tile, doorbell bit 11, the
waiting migrations. -/
def restart (s : State) : State :=
  let e := thermalEvent s 10 0
  let s1 := forTiles (fun u s => addLog u 0x07 10 stOk e 0 (setObj u Obj.lastThermalEvent e s)) (setObj dev Obj.tripState 0 s)
  forTiles (fun u s => startMigrations 64 u s) (ringAll 11 (addLog dev 0x07 10 stOk e 0 s1))

/-- TRIP_RESTART (R301): cooling has lasted 1 s of ticks, at a sampling instant. -/
def tripRestart (s : State) : State :=
  if getObj s dev Obj.tripState = 2 ∧ s.time.elapsed ≥ s.time.coolFrom + 1000000000 ∧ s.time.timeBase % 20000 = 0 then
    restart s
  else s

/-- TRIP_RELEASE (R301, Table 11.5): only after a trip that cannot be judged. -/
def writeTripRelease (v : Nat) (s : State) : State :=
  if v > 1 then answer stBadFormat s
  else if getObj s dev Obj.tripState = 0 ∨ allJudged s then answer stBadFormat s
  else if v = 0 then answer stOk s
  else
    let hot := (List.range 64).any (fun t =>
      let lost := getObj s t Obj.sensorLost
      (List.range 30).any (fun i => !bit lost i && (match (getSensor s t).reading.getD i none with
        | some v => decide (v ≥ 1360)
        | none => false)))
    if hot then answer stRetry s else answer stOk (restart s)

/-! ## Rise checks (R298) -/

/-- The rise of each sensor since the previous check. -/
def rises (base now : List (Option Int)) : List Int :=
  (List.range 30).map (fun i => match base.getD i none, now.getD i none with
    | some a, some b => b - a
    | _, _ => 0)

/-- RISE_CHECK (R298): at each multiple of 1 ms of the time base. -/
def riseCheck (t : Nat) (s : State) : State :=
  if ¬ due s t 3 1000000 then s
  else
    let x := getSensor s t
    let l := (rises x.riseBase x.reading :: x.rises).take 5
    let s1 := modSensor t (fun x => { x with riseBase := x.reading, rises := l }) (take t 3 s)
    if flag s t Obj.riseActive then
      let sums := (List.range 30).map (fun i => (l.map (fun r => r.getD i 0)).foldl (· + ·) 0)
      if maxOf sums ≤ 80 then setObj t Obj.riseActive 0 s1 else s1
    else if l.length = 5 ∧ l.all (fun r => r.any (fun v => decide (v > 32))) then
      thermalNote t 6 1 (bump t Obj.riseEvents 1 (setObj t Obj.riseActive 1 s1))
    else s1

def execRiseCheck (t : TileN) (s : State) : Res := run (riseCheck t.val) s

end Sys2Proof.Machine
end

