-- ==== Sys2Proof/Machine/Calibration.lean ====
section
/-! DEFINITION. Calibration of the channel trims (R387 to R390). -/

namespace Sys2Proof.Machine

open Sys2Proof

/-- The trims in use, in the order of Table 15.5: write groups 0 to 3, command capture, read groups 0 to
3, done report, sense reference. -/
def trimsInUse (s : State) (t c : Nat) : List Nat :=
  let l := getLayer s t c
  l.trims.take 5 ++ l.logicTrims ++ l.trims.drop 5

/-- Put a trim set in use. -/
def applyTrims (t c : Nat) (v : List Nat) (s : State) : State :=
  modLayer t c (fun l => { l with trims := v.take 5 ++ v.drop 10, logicTrims := (v.drop 5).take 5 }) s

/-- Table 15.5: a trim set with its time, temperature and flags. -/
def trimSet (s : State) (t : Nat) (v : List Nat) (edge prbs : Bool) : Nat :=
  fld 128 64 s.time.timeBase + fld 112 16 (ofSigned 16 (getInt s t Obj.columnDramMax)) + fld 66 1 (b2n edge)
    + fld 65 1 (b2n prbs) + fld 60 5 (v.getD 10 0)
    + sumOf ((List.range 10).map (fun i => fld (6 * i) 6 (v.getD i 0)))

/-- The key of a channel in Copybook records (Table 14.6). -/
def chanRecord (t c : Nat) : Nat := t * 1024 + c * 16

/-- R387: a calibration of the channel is due. -/
def calDue (s : State) (t c : Nat) : Bool :=
  let x := getCal s t c
  let iv := getObj s t Obj.calInterval * 1000000
  let timed := match x.suspectAt with
    | some a => decide (s.time.elapsed ≥ a + iv / 8)
    | none => decide (s.time.elapsed ≥ x.lastAt + iv)
  let drift := decide ((getInt s t Obj.columnDramMax - x.lastTemp).natAbs ≥ 16 * getObj s t Obj.calDriftTrigger)
  x.asked || (flag s t Obj.calEnable && (timed || drift))

/-- CALIBRATION_START (R387): run A takes the next Recess window; a channel in link fault defers it (R393). -/
def calStart (t c : Nat) (s : State) : State :=
  if chState s t c ≠ 2 ∨ (getCal s t c).step ≠ 0 ∨ ¬ calDue s t c then s
  else
    setObj t (Obj.calState + c) 1
      (modCal t c (fun x => { x with step := 1, skip := 0, asked := false, runA := [], runB := [] }) s)

def execCalibrationStart (t : TileN) (c : ChanN) (s : State) : Res := run (calStart t.val c.val) s

/-- CalRequest (R387): a channel that calibrates already is satisfied by it (R393). -/
def writeCalRequest (t v : Nat) (s : State) : State :=
  if v ≥ 2 ^ 48 then answer stBadFormat s
  else answer stOk (forChans (fun c s =>
    if bit v c ∧ (getCal s t c).step = 0 then modCal t c (fun x => { x with asked := true }) s else s) s)

/-- R389: two results within 2 LSB. -/
def within2 (a b : Nat) : Bool := decide (a ≤ b + 2 ∧ b ≤ a + 2)

/-- R389: half the sum, rounded towards the value in use. -/
def meanTowards (a b use : Nat) : Nat :=
  if (a + b) % 2 = 0 then (a + b) / 2 else if 2 * use > a + b then (a + b) / 2 + 1 else (a + b) / 2

/-- R389: the median of three. -/
def median3 (a b c : Nat) : Nat := max (min a b) (min (max a b) c)

/-- The outcome of a run (R389). -/
inductive CalOut where
  | accept (v : List Nat)
  | again
  | fail
  deriving DecidableEq, Repr

/-- The results of a run, when every trim gave one. -/
def allResults : List (Option Nat) → Option (List Nat)
  | [] => some []
  | none :: _ => none
  | some v :: r => (allResults r).map (v :: ·)

/-- R389: judge a run of step 1, 2 or 3. -/
def judgeRun (x : CalS) (use : List Nat) (run : List (Option Nat)) : CalOut :=
  match allResults run, allResults x.runA, allResults x.runB with
  | some c, some a, some b =>
    let idx := List.range 11
    let g := fun (l : List Nat) (i : Nat) => l.getD i 0
    if x.step = 1 then .again
    else if x.step = 2 then
      if idx.all (fun i => within2 (g a i) (g c i)) then
        .accept (idx.map (fun i => meanTowards (g a i) (g c i) (g use i)))
      else .again
    else if idx.all (fun i => within2 (g a i) (g c i) || within2 (g b i) (g c i)) then
      .accept (idx.map (fun i => median3 (g a i) (g b i) (g c i)))
    else .fail
  | _, _, _ => .fail

/-- R390: trims take effect at once, or one LSB at a time. -/
def stepMode (s : State) (t : Nat) : Bool := decide (getObj s t Obj.calApplyMode = 0) && !slp2 s

/-- An accepted calibration (R389). -/
def acceptCal (t c : Nat) (v : List Nat) (edge : Bool) (s : State) : State :=
  let prbs := bit (getObj s t (Obj.calTrims + c)) 65
  let b := trimSet s t v edge prbs
  let s1 := setObj t (Obj.calTrims + c) b (bump t (Obj.calCount + c) 1
    (setObj t (Obj.calLastTime + c) s.time.timeBase (setObj t (Obj.calState + c) 0 s)))
  let s2 := setObj t Obj.calSuspectChannels (clearBit (getObj s1 t Obj.calSuspectChannels) c) s1
  let s3 := pushRecord 0x04 (chanRecord t c) 24 b s2
  let s4 := modCal t c (fun x => { x with
    step := 0, lastAt := s.time.elapsed, lastTemp := getInt s t Obj.columnDramMax, suspectAt := none
    target := if stepMode s t then [] else v, lastStep := s.time.elapsed }) s3
  if stepMode s t then applyTrims t c v s4 else s4

/-- A failed calibration (R389). -/
def failCal (t c : Nat) (s : State) : State :=
  let s1 := setObj t (Obj.calState + c) 2
    (setObj t Obj.calSuspectChannels (setBit (getObj s t Obj.calSuspectChannels) c) s)
  let s2 := addLog t 0x0C 1 stCalSuspect c 0 (bump t (Obj.calSuspectCount + c) 1 s1)
  ring t 10 (modCal t c (fun x => { x with step := 0, suspectAt := some s.time.elapsed }) s2)

/-- The decision on a run that ended (R389). -/
def decideRun (t c : Nat) (run : List (Option Nat)) (edge : Bool) (s : State) : State :=
  let x := getCal s t c
  match judgeRun x (trimsInUse s t c) run with
  | .accept v =>
    acceptCal t c v edge (if x.step = 3 then bump t (Obj.calThirdRuns + c) 1 s else s)
  | .again =>
    modCal t c (fun x => { x with
      step := x.step + 1, skip := 1
      runA := if x.step = 1 then run else x.runA, runB := if x.step = 2 then run else x.runB }) s
  | .fail => failCal t c (if x.step = 3 then bump t (Obj.calThirdRuns + c) 1 s else s)

/-- A calibration of a channel that went into link fault is abandoned; retraining writes its own baseline
(R393). -/
def abandonCal (t c : Nat) (s : State) : State :=
  setObj t (Obj.calState + c) (if (getCal s t c).suspectAt.isSome then 2 else 0)
    (modCal t c (fun x => { x with step := 0, skip := 0, runA := [], runB := [] }) s)

/-- CALIBRATION_RUN_END (R388): the window of a run ends with its measured results. A trip or Hold
abandons the run, and the calibration starts again; a link fault abandons the calibration (R393). -/
def calRunEnd (t c : Nat) (run : List (Option Nat)) (edge : Bool) (s : State) : State :=
  let w := getRecess s t c
  if w.openAt.isNone ∨ ¬ w.cal ∨ w.phase ≠ 2 then s
  else if (getCal s t c).step = 0 then closeWindow t c s
  else if chState s t c ≠ 2 then closeWindow t c (abandonCal t c s)
  else if inHold s t ∨ tripped s then
    closeWindow t c (modCal t c (fun x => { x with step := 1, skip := 0, runA := [], runB := [] }) s)
  else
    let use := trimsInUse s t c
    let r := (List.range 11).map (fun i => run.getD i none)
    let shown := (List.range 11).map (fun i => (r.getD i none).getD (use.getD i 0))
    let s1 := setObj t (Obj.calLastRun + c)
      (trimSet s t shown edge (bit (getObj s t (Obj.calTrims + c)) 65)) s
    closeWindow t c (decideRun t c r edge s1)

def execCalibrationRunEnd (t : TileN) (c : ChanN) (trims : List (Option Nat)) (edge : Bool) (s : State) : Res :=
  run (calRunEnd t.val c.val trims edge) s

/-- One LSB towards a target. -/
def towards (v target : Nat) : Nat := if v < target then v + 1 else v - (if v > target then 1 else 0)

/-- R390: TRW words may go: every bank of the channel is precharged and no word is on its way; an SLP-2 layer takes
them in any bank state. -/
def trimsFree (s : State) (t c : Nat) : Bool :=
  let l := getLayer s t c
  slp2 s || (l.down.isEmpty && l.failed.isEmpty && allBanks s t c isClosed)

/-- The TRW words (Table 2.4) that bring the layer-side trims of `use` one LSB towards their targets. -/
def trimWords (use target : List Nat) : List Down :=
  let at_ := fun (i : Nat) => if i = 5 then 10 else i
  ((List.range 6).filter (fun i => use.getD (at_ i) 0 ≠ target.getD (at_ i) 0)).map (fun i =>
    { word := opWord 0xA 0 (fld 6 4 i + fld 0 6 (towards (use.getD (at_ i) 0) (target.getD (at_ i) 0))) })

/-- GRADUAL_TRIM_STEP (R390): every 50,000 ns one LSB: of the logic-side trims at once, of the layer-side ones by TRW
at the first instant when every bank is precharged. The application ends when the values in force reach the
accepted ones. After a change to step mode the rest follows in the next window (R393). -/
def gradualStep (t c : Nat) (s : State) : State :=
  let x := getCal s t c
  let use := trimsInUse s t c
  if x.target.isEmpty then s
  else if stepMode s t then
    if (getRecess s t c).openAt.isSome then
      modCal t c (fun x => { x with target := [], layerDue := false }) (applyTrims t c x.target s)
    else s
  else if use = x.target then modCal t c (fun x => { x with target := [], layerDue := false }) s
  else
    let due := decide (x.lastStep + 50000 ≤ s.time.elapsed)
    let s1 := if due then modCal t c (fun x => { x with lastStep := s.time.elapsed, layerDue := true })
        (modLayer t c (fun l => { l with
          logicTrims := (List.range 5).map (fun j => towards (use.getD (5 + j) 0) (x.target.getD (5 + j) 0)) }) s)
      else s
    if (due || x.layerDue) && trimsFree s t c then
      (trimWords use x.target).foldl (fun s d => sendDown t c d s) (modCal t c (fun x => { x with layerDue := false }) s1)
    else s1

def execGradualTrimStep (t : TileN) (c : ChanN) (s : State) : Res := run (gradualStep t.val c.val) s

end Sys2Proof.Machine
end

