-- ==== Sys2Proof/Machine/Power.lean ====
section
/-! DEFINITION. Rails, voltage steps, estimates, the peak limit, the cap, hints, Hold and energy (R305 to
R323), and the voltage-ID interface (R419, R420). Energies are in fJ (estimates) and pJ (measured). -/

namespace Sys2Proof.Machine

open Sys2Proof

/-! ## The voltage-ID interface -/

/-- R419: a command word. -/
def vidWord (rail kind value : Nat) : Nat := fld 17 7 rail + fld 12 5 kind + fld 0 12 value

/-- Put a command word on the interface; a step settles VoltageStepSettle after it is sent (R306). -/
def vidEmit (rail w : Nat) (s : State) : State :=
  let s1 := modRail rail (fun r => { r with outstanding := some w })
    { s with out := { s.out with vid := s.out.vid ++ [w] } }
  if bits w 12 5 = 1 then
    modPTile rail (fun p => { p with settling := p.settling.map (fun x =>
      (x.1, x.2.1, s.time.elapsed + getObj s dev Obj.voltageStepSettle)) }) s1
  else s1

/-- Send a command: at most one is outstanding per rail. -/
def vidSend (rail w : Nat) (s : State) : State :=
  if (getRail s rail).outstanding.isSome then modRail rail (fun r => { r with queued := r.queued ++ [w] }) s
  else vidEmit rail w s

/-- VID_COMMAND_ACK (R419): the regulator has taken the command. -/
def vidAck (rail : Nat) (s : State) : State :=
  match (getRail s rail).outstanding with
  | none => s
  | some _ =>
    let s1 := bump dev Obj.vidCommands 1
      (modRail rail (fun r => { r with outstanding := none, queued := r.queued.drop 1 }) s)
    match (getRail s rail).queued with
    | w :: _ => vidEmit rail w s1
    | [] => s1

def execVidCommandAck (rail : RailN) (s : State) : Res := run (vidAck rail.val) s

/-! ## Voltage steps (R306, R307) -/

/-- The step a tile stands at. -/
def stepOf (s : State) (t : Nat) : Nat := getObj s t Obj.voltageStep

/-- The highest step of a tile (R308). -/
def ceilingOf (s : State) (t : Nat) : Nat := getObj s t Obj.voltageCeiling

/-- VCORE of a step in tenths of a mV (R306). -/
def stepVolt (n : Nat) : Nat := 5500 + 125 * n

/-- Send the next step towards the target: one at a time, at most MaxStepsPerWindow, none in Hold. -/
def advanceStep (t : Nat) (s : State) : State :=
  let x := getPTile s t
  match x.target with
  | none => s
  | some n =>
    let cur := stepOf s t
    if n = cur then modPTile t (fun p => { p with target := none }) s
    else if x.settling.isSome ∨ x.hold ∨ x.stepsInWindow ≥ getObj s dev Obj.maxStepsPerWindow then s
    else
      let nx := if n > cur then cur + 1 else cur - 1
      vidSend t (vidWord t 1 nx)
        (bump t Obj.voltageSteps 1 (modPTile t (fun p => { p with
          settling := some (cur, nx, s.time.elapsed + getObj s dev Obj.voltageStepSettle)
          stepsInWindow := p.stepsInWindow + 1 }) s))

/-- Aim a tile at a step, within its ceiling (R308). -/
def aimStep (t n : Nat) (s : State) : State :=
  advanceStep t (modPTile t (fun p => { p with target := some (min n (ceilingOf s t)) }) s)

/-- VOLTAGE_STEP_SETTLED (R306): the settling time of the step sent is over. -/
def stepSettled (t : Nat) (s : State) : State :=
  match (getPTile s t).settling with
  | none => s
  | some (_, n, d) =>
    if s.time.elapsed < d ∨ (getRail s t).queued.any (fun w => bits w 12 5 = 1) then s
    else
      advanceStep t (modPTile t (fun p => { p with settling := none, stepSince := s.time.elapsed })
        (setObj t Obj.voltageStep n s))

def execVoltageStepSettled (t : TileN) (s : State) : Res := run (stepSettled t.val) s

/-- R307: the floor step while a pass is live: the lowest whose predicted speed holds S_f + FloorGuard. -/
def floorStepFor (s : State) (t : Nat) : Nat :=
  if (livePasses s t).isEmpty then 0
  else
    let need := getObj s t Obj.guaranteeFloor + getObj s t Obj.floorGuard
    let sp := getObj s t Obj.speedIndex
    let cur := Config.stepSpeed t (stepOf s t)
    ((List.range 29).find? (fun n => decide (need * cur ≤ sp * Config.stepSpeed t n))).getD 28

/-- R307 at the end of a speed window: FloorStep, and a step up where the tile is too slow. -/
def floorStepRaise (t : Nat) (s : State) : State :=
  let f := floorStepFor s t
  let s1 := setObj t Obj.floorStep f s
  if (livePasses s1 t).isEmpty ∨ getObj s dev Obj.powerMode = 1 then s1
  else
    let need := getObj s t Obj.guaranteeFloor + getObj s t Obj.floorGuard
    let aim := (getPTile s1 t).target.getD (stepOf s1 t)
    if getObj s1 t Obj.speedIndex < need ∧ aim < ceilingOf s1 t then aimStep t (max (stepOf s1 t + 1) aim) s1
    else if aim < f then aimStep t f s1
    else s1

/-- R308: an ageing sample at the end of a speed window spent wholly at the ceiling step near 60 °C. -/
def ageingSample (t : Nat) (s : State) : State :=
  let x := getPTile s t
  let warm := ((getSensor s t).value.take 6).all (fun v => decide (928 ≤ v ∧ v ≤ 992)) && !(getSensor s t).value.isEmpty
  if stepOf s t ≠ ceilingOf s t ∨ x.settling.isSome ∨ s.time.elapsed < x.stepSince + 1000 ∨ ¬ warm then s
  else
    let cur := if x.ageing = 0 then getObj s t Obj.speedCeiling * 65536 else x.ageing
    let sample := getObj s t Obj.speedIndex * 65536
    let nx := ((cur : Int) + ((sample : Int) - cur) / 64).toNat
    let v := nx / 65536
    let s1 := bump t Obj.ageingSamples 1 (setObj t Obj.speedCeiling v (modPTile t (fun p => { p with ageing := nx }) s))
    let s2 := setObj t Obj.ageingLoss (getObj s1 t Obj.speedCeilingTest - v) s1
    let stored := match s2.copy.queue.reverse.find? (fun r => r.kind = 5 ∧ r.key = t * 1024) with
      | some r => r.payload
      | none => match ((if s2.copy.activeB then s2.copy.areaB else s2.copy.areaA).records.reverse.find? (fun r => r.good ∧ r.kind = 5 ∧ r.key = t * 1024)) with
        | some r => r.payload
        | none => getObj s2 t Obj.speedCeilingTest
    if v + 5 ≤ stored then pushRecord 0x05 (t * 1024) 2 v s2 else s2

/-- Tiles stand below their floor step at the steps `f` (R309). -/
def belowFloor (s : State) (f : Nat → Nat) : Bool :=
  (List.range 64).any (fun t => decide (min (f t) (ceilingOf s t) < getObj s t Obj.floorStep))

/-- Hold every tile at its FixedStep (R309). -/
def holdFixed (s : State) : State := forTiles (fun t s => aimStep t (getObj s t Obj.fixedStep) s) s

/-- POWER_MODE_WRITE (R309): PowerMode, or the FixedStep of a tile. -/
def writePowerMode (v : Nat) (s : State) : State :=
  if v > 1 then answer stBadFormat s
  else if v = 1 ∧ belowFloor s (fun t => getObj s t Obj.fixedStep) then answer stRetry s
  else
    let s1 := storeRws dev Obj.powerMode v s
    if v = 1 then holdFixed s1 else s1

def writeFixedStep (t v : Nat) (s : State) : State :=
  if v > 28 then answer stBadFormat s
  else if getObj s dev Obj.powerMode = 1 ∧ belowFloor s (fun u => if u = t then v else getObj s u Obj.fixedStep) then
    answer stRetry s
  else
    let s1 := storeRws t Obj.fixedStep v s
    if getObj s dev Obj.powerMode = 1 then aimStep t v s1 else s1

def execPowerModeWrite (t : TileN) (fixed : Bool) (v : BitVec 8) (s : State) : Res :=
  run (if fixed then writeFixedStep t.val v.toNat else writePowerMode v.toNat) s

/-! ## Rails (R305, R312, R420) -/

/-- LastSupplyEvent's value. -/
def supplyEvent (s : State) (cause rail mv : Nat) : Nat :=
  fld 56 8 cause + fld 48 8 rail + fld 32 16 mv + s.time.timeBase / 1000 % 2 ^ 32

/-- A rail is unmonitored (R312). -/
def railLost (s : State) (r : Nat) : Bool := bit (getObj s dev Obj.railTelemetryLost) r

/-- Open marks take the stale bit (R320, R323). -/
def staleMarks (s : State) : State :=
  { s with mark := s.mark.map (fun e => (e.1, if e.2.opened then { e.2 with stale := true } else e.2)) }

/-- RAIL_REPORT (R305, R420): voltage and current of a rail; its telemetry is back. -/
def railReport (w : Nat) (s : State) : State :=
  let r := bits w 41 7
  if r ≥ 66 then s
  else
    let mv := bits w 29 12
    let ma := bits w 5 24
    let s1 := bump dev Obj.vidReports 1 (setObj dev (Obj.railVoltage + r) mv (setObj dev (Obj.railCurrent + r) ma s))
    setObj dev Obj.railTelemetryLost (clearBit (getObj s1 dev Obj.railTelemetryLost) r)
      (modRail r (fun x => { x with last := s.time.elapsed, mv := mv, ma := ma }) s1)

def execRailReport (w : BitVec 48) (s : State) : Res := run (railReport w.toNat) s

/-- RAIL_TELEMETRY_LOST (R312): no report for 100,000 ns. -/
def telemetryLost (r : Nat) (s : State) : State :=
  if railLost s r ∨ s.time.elapsed < (getRail s r).last + 100000 then s
  else
    let e := supplyEvent s 3 r (getRail s r).mv
    let s1 := setObj dev Obj.lastSupplyEvent e
      (setObj dev Obj.railTelemetryLost (setBit (getObj s dev Obj.railTelemetryLost) r) s)
    staleMarks (ringAll 5 (addLog dev 0x08 3 stOk e 0 s1))

def execRailTelemetryLost (rail : RailN) (s : State) : Res := run (telemetryLost rail.val) s

/-! ## Estimates (R310) -/

/-- The consumer of an event kind: 0 to 7 array steps by class and 13 vector elements: compute; 14
gateway and 15 host port bytes: links; 8 channel beats and 10 activations below the pass tier:
best-effort memory; 9 and 16 those of the pass tier, 11 REFs and 12 SRAM words: the rest. -/
def consumerOf (i : Nat) : Nat :=
  if i < 8 ∨ i = 13 then 0 else if i = 14 ∨ i = 15 then 1 else if i = 8 ∨ i = 10 then 2 else 3

/-- Add lists of four. -/
def addParts (a b : List Nat) : List Nat := (List.range 4).map (fun i => a.getD i 0 + b.getD i 0)

/-- Scale a list of four. -/
def scaleParts (l : List Nat) (num den : Nat) : List Nat := l.map (fun x => x * num / max 1 den)

/-- R392: the group of an event kind whose factor the fit scales. -/
def fitGroup (i : Nat) : Nat :=
  if i < 8 then 0 else if i = 12 ∨ i = 13 then 2 else if i = 14 ∨ i = 15 then 3 else 1

/-- The factor of a group in thousandths of the design value (R392). -/
def fitFactor (s : State) (g : Nat) : Nat := fget 1000 s.power.fit g

/-- R310: the raw estimate of 1,000 ns by consumer, in fJ. -/
def rawParts (s : State) (t : Nat) (counts : List (Nat × Nat)) : List Nat :=
  let n := stepOf s t
  let dyn := fun k => sumOf ((counts.filter (fun e => consumerOf e.1 = k)).map (fun e =>
    Config.estimatorEnergy t e.1 * fitFactor s (fitGroup e.1) * e.2)) * stepVolt n ^ 2 / (1000 * 7500 ^ 2)
  [dyn 0, dyn 1, dyn 2,
   dyn 3 + Config.estimatorLeak t n (getInt s t Obj.logicMax) * fitFactor s 4 / 1000]

/-- R315: the cap partition of a tile: the lowest-numbered partition other than 0 that holds it, else 0. -/
def capPartition (s : State) (t : Nat) : Nat :=
  match (List.range 255).find? (fun i => bit (getObj s dev (Obj.partitionTiles + i)) t) with
  | some i => i + 1
  | none => 0

/-- EstimatorGain k in millionths. -/
def gainOf (s : State) (t : Nat) : Nat := getObj s t Obj.estimatorGain

/-- R321: charge estimated energies to partitions and queues. -/
def chargeShares (t : Nat) (raw : List Nat) (parts queues : List (Nat × Nat)) (s : State) : State :=
  if ¬ flag s dev Obj.attributionMode then s
  else
    let k := gainOf s t
    let cal := fun (x : Nat) => x * k / 1000000
    let p1 := parts.foldl (fun m e => fupd 0 m (e.1 % 256) (· + cal e.2)) s.power.partEnergy
    let p2 := fupd 0 p1 (capPartition s t) (· + cal (raw.getD 0 0))
    let q := (queues.filter (fun e => 1 ≤ e.1 ∧ e.1 ≤ 96)).foldl (fun m e =>
      fupd 0 m (t * 128 + e.1) (· + cal e.2)) s.power.queueEnergy
    { s with power := { s.power with partEnergy := p2, queueEnergy := q } }

/-- RAW_ESTIMATE (R310): every 1,000 ns, from the tile's event counts; `parts` and `queues` are the shares
of partitions and channel queues (R321). -/
def rawEstimate (t : Nat) (counts parts queues : List (Nat × Nat)) (s : State) : State :=
  if ¬ due s t 4 1000 then s
  else
    let raw := rawParts s t counts
    chargeShares t raw parts queues (modPTile t (fun p => { p with parts := addParts p.parts raw }) (take t 4 s))

def execRawEstimate (t : TileN) (counts parts queues : List (Nat × Nat)) (s : State) : Res :=
  run (rawEstimate t.val counts parts queues) s

/-! ## Hints (R317) -/

/-- The hints of a tile for consumer kind `k` (1 arrays, 2 memory) that overlap an interval, in percent. -/
def hintLevel (s : State) (t k a b : Nat) : Nat :=
  min 100 (sumOf (((getPTile s t).hints.filter (fun h =>
    (h.kind = k ∨ h.kind = 3) ∧ h.start < b ∧ a < h.stop)).map (fun h => h.level)))

/-- The hint power in mW of a percentage of a kind at the tile's present step and speed. -/
def hintPower (s : State) (t k level : Nat) : Nat :=
  (if k = 1 then 8500 else 5530) * level * stepVolt (stepOf s t) ^ 2 * getObj s t Obj.speedIndex
    / (100 * 7500 ^ 2 * 1000)

/-- HintReserve: the hint power reserved now. -/
def hintReserve (s : State) (t : Nat) : Nat :=
  let now := s.time.elapsed
  hintPower s t 1 (hintLevel s t 1 now (now + 1)) + hintPower s t 2 (hintLevel s t 2 now (now + 1))

/-- A HINT taken by the controller: a ninth replaces the one that ends soonest. -/
def addHint (t kind level lead len : Nat) (s : State) : State :=
  let now := s.time.elapsed
  let h : HintS := { kind := kind, level := level, start := now + lead, stop := now + lead + len }
  let live := (getPTile s t).hints.filter (fun x => x.stop > now)
  let (l, drop) := if live.length < 8 then (live ++ [h], 0)
    else match minBy (fun x => x.stop) live with
      | some e => (removeFirst (fun x => x == e) live ++ [h], 1)
      | none => (live ++ [h], 0)
  let s1 := bump t Obj.hintsDropped drop (bump t Obj.hintsAccepted 1 (modPTile t (fun p => { p with hints := l }) s))
  if lead < getObj s dev Obj.voltageStepSettle then bump t Obj.hintsLate 1 s1 else s1

/-- HINT_LOAD_NOTICE (R317): one VoltageStepSettle before the interval the regulator is told of the
added current (R419). -/
def hintNotice (t i : Nat) (s : State) : State :=
  match (getPTile s t).hints[i]? with
  | none => s
  | some h =>
    if h.noticed ∨ s.time.elapsed + getObj s dev Obj.voltageStepSettle < h.start then s
    else
      let mw := (if h.kind = 1 ∨ h.kind = 3 then hintPower s t 1 (min 100 h.level) else 0)
        + (if h.kind = 2 ∨ h.kind = 3 then hintPower s t 2 (min 100 h.level) else 0)
      let units := mw * 10000 / (stepVolt (stepOf s t) * 10)
      vidSend t (vidWord t 2 (min 4095 units))
        (modPTile t (fun p => { p with hints := setNth p.hints i { h with noticed := true } }) s)

def execHintLoadNotice (t : TileN) (i : Fin 8) (s : State) : Res := run (hintNotice t.val i.val) s

/-! ## Slices: energy and the peak limit (R313, R320) -/

/-- The estimator is out of service (R311). -/
def estimatorStale (s : State) : Bool := flag s dev Obj.estimatorState

/-- Measured energy of a rail in a slice in pJ, or its substitute (R312, R320). -/
def railSlice (s : State) (r : Nat) : Nat :=
  let x := getRail s r
  if ¬ railLost s r then x.mv * x.ma * 10
  else if r < 64 then sumOf (getPTile s r).parts * gainOf s r * 125 / (1000000 * 1000 * 100)
  else x.mv * x.ma * 10 * 125 / 100

/-- Divide a total among consumers in proportion to their estimates. -/
def divideTotal (total : Nat) (parts : List Nat) : List Nat :=
  if sumOf parts = 0 then [0, 0, 0, total] else scaleParts parts total (sumOf parts)

/-- The larger of the hint energy and the present energy of a consumer (R317). -/
def withHints (s : State) (t a b : Nat) (p : List Nat) : List Nat :=
  let e := fun k => hintPower s t k (hintLevel s t k a b) * (b - a)
  [max (p.getD 0 0) (e 1), p.getD 1 0, max (p.getD 2 0) (e 2), p.getD 3 0]

/-- The prediction for a tile over an interval of `len` ns by consumer, in pJ, at present fractions, from
its last raw estimate and its last measured energy (R310, R311, R312). -/
def predictTile (s : State) (t len : Nat) (raw : List Nat) (measured : Nat) : List Nat :=
  let cal := scaleParts raw (gainOf s t) (1000000 * 1000)
  let p := if railLost s t then scaleParts cal 125 100
    else if estimatorStale s then divideTotal (measured * 110 / 100) cal else cal
  withHints s t s.time.elapsed (s.time.elapsed + len) p

/-- The prediction for VAON and VSTK over `len` ns in pJ. -/
def predictFixed (s : State) (len : Nat) : Nat :=
  let one := fun r =>
    let x := getRail s r
    let e := x.mv * x.ma * len / 1000
    if railLost s r then e * 125 / 100 else if estimatorStale s then e * 110 / 100 else e
  one 64 + one 65

/-- The largest fraction from 50 to 1,000 with `other + f / 1000 * full` within a limit. -/
def fitFraction (limit other : Int) (full : Nat) : Nat :=
  if full = 0 then (if other ≤ limit then 1000 else 50)
  else min 1000 (max 50 (((limit - other) * 1000 / (full : Int)).toNat))

/-- R313: peak fractions for a budget: compute first, then links, then best-effort memory. The arguments
are the energies at full peak fraction. -/
def peakFractions (budget : Int) (c l m r : Nat) : Nat × Nat × Nat :=
  let a := fitFraction budget ((l + m + r : Nat) : Int) c
  if a > 50 ∨ c * 50 / 1000 + l + m + r ≤ budget then (a, 1000, 1000)
  else
    let b := fitFraction budget ((c * 50 / 1000 + m + r : Nat) : Int) l
    if b > 50 ∨ c * 50 / 1000 + l * 50 / 1000 + m + r ≤ budget then (50, b, 1000)
    else (50, 50, fitFraction budget ((c * 50 / 1000 + l * 50 / 1000 + r : Nat) : Int) m)

/-- Close the accounts of a slice: energy of every rail, DeviceEnergy, the tiles' estimates. -/
def accountSlice (s : State) : Nat × State :=
  let e := sumOf ((List.range 66).map (railSlice s))
  let tot := s.power.carry + e
  let s1 := (List.range 64).foldl (fun s t =>
    let m := railSlice s t
    if m = 0 ∧ (getPTile s t).parts = [0, 0, 0, 0] ∧ (getPTile s t).lastParts = [0, 0, 0, 0]
        ∧ (getPTile s t).lastMeasured = 0 then s
    else modPTile t (fun p => { p with
      lastParts := p.parts, winParts := addParts p.winParts p.parts, parts := [0, 0, 0, 0]
      lastMeasured := m, winMeasured := p.winMeasured + m }) s) s
  (e, bump dev Obj.deviceEnergy (tot / 1000000) { s1 with power := { s1.power with
    carry := tot % 1000000, windowEnergy := s1.power.windowEnergy + e } })

/-- POWER_SLICE_END (R313): at each multiple of 10,000 ns. -/
def powerSlice (s : State) : State :=
  if ¬ due s dev 5 10000 then s
  else
    let (e, s1) := accountSlice (take dev 5 s)
    let last := (e :: s1.power.slices).take 99
    let lim : Int := (getObj s1 dev Obj.peakLimit * 10000 : Nat)
    let budget := (1000 - (getObj s1 dev Obj.peakGuard : Int)) * lim / 1000 - ((sumOf last : Nat) - 99 * lim)
    let tiles := (List.range 64).map (fun t => predictTile s1 t 10000 (getPTile s1 t).lastParts (getPTile s1 t).lastMeasured)
    let at_ := fun k => sumOf (tiles.map (fun p => p.getD k 0))
    let c := at_ 0 * 1000 / max 1 s1.power.peakA
    let l := at_ 1 * 1000 / max 1 s1.power.peakL
    let m := at_ 2 * 1000 / max 1 s1.power.peakM
    let r := at_ 3 + predictFixed s1 10000
    let passed := decide (((c + l + m + r : Nat) : Int) > budget)
    let f := if passed then peakFractions budget c l m r else (1000, 1000, 1000)
    let s2 := { s1 with power := { s1.power with
      slices := last, peakA := f.1, peakL := f.2.1, peakM := f.2.2, peakNow := s1.power.peakNow || passed } }
    if passed then countEv dev 0x0101 0 1 (bump dev Obj.peakSlicesLimited 1 s2) else s2

def execPowerSliceEnd (s : State) : Res := run powerSlice s

/-! ## Windows: the estimator (R310, R311) -/

/-- R310: the gain after a window, from measured and raw energy. -/
def nextGain (k measured rawfJ : Nat) : Nat :=
  if rawfJ = 0 then k
  else
    let r := measured * 1000 * 1000000 / rawfJ
    let d : Int := (r : Int) - k
    if d.natAbs * 4 ≤ k then ((k : Int) + d / 16).toNat else k

/-- Power of a window in mW from an energy in pJ. -/
def winMw (pj : Nat) : Nat := pj / 1000000

/-- Close the accounts of a window of every tile: TilePowerEstimated, TilePowerMeasured, the gain. A rail
without reports has no measured energy to take the gain from (R310, R312). -/
def accountTile (t : Nat) (s : State) : State :=
  let x := getPTile s t
  let raw := sumOf x.winParts
  let s1 := setObj t Obj.tilePowerEstimated (winMw (raw * gainOf s t / (1000000 * 1000))) s
  let s2 := setObj t Obj.tilePowerMeasured (winMw x.winMeasured) s1
  let s3 := if railLost s t then s2 else setObj t Obj.estimatorGain (nextGain (gainOf s t) x.winMeasured raw) s2
  modPTile t (fun p => { p with lastWin := p.winParts, winParts := [0, 0, 0, 0], winMeasured := 0, stepsInWindow := 0 }) s3

/-- R311: agreement of a window, staleness, the return to service. -/
def judgeEstimator (m e : Nat) (s : State) : State :=
  let d := ((m : Int) - e).natAbs
  let bad := decide (4 * d > m)
  let s1 := if bad then bumpSat dev Obj.disagreeWindows 1 s else setObj dev Obj.disagreeWindows 0 s
  let st := getObj s dev Obj.estimatorState
  if st = 0 then
    if getObj s1 dev Obj.disagreeWindows ≥ 8 then
      let s2 := bump dev Obj.estimatorStaleEvents 1 (setObj dev Obj.estimatorState 1 s1)
      staleMarks (ringAll 5 (addLog dev 0x08 4 stOk (fld 0 32 m + fld 32 32 e) 0
        { s2 with power := { s2.power with agree := 0, fitted := false } }))
    else s1
  else
    let agree := if 10 * d ≤ m then s1.power.agree + 1 else 0
    if st = 1 ∧ agree ≥ 8 ∧ s.power.fitted then
      ringAll 10 (setObj dev Obj.estimatorState 0 (setObj dev Obj.disagreeWindows 0
        { s1 with power := { s1.power with agree := 0 } }))
    else { s1 with power := { s1.power with agree := agree } }

/-! ## Windows: the cap (R314 to R316) -/

/-- A tile as the cap sees it: present step and fractions, those being tried, and its predicted energy of
a window by consumer at the present ones. -/
structure CapT where
  tile : Nat
  n0 : Nat
  n : Nat
  floor : Nat
  top : Nat
  rank : Nat
  /-- Held: in Hold no step is sent and the fractions stay (R319). -/
  fixed : Bool
  f0 : List Nat
  f : List Nat
  parts : List Nat
  deriving DecidableEq, Repr

/-- Consumer `k` of a tile with fraction `f` at the step being tried: with V squared times S; the rest
with V squared. -/
def capPart (x : CapT) (k f : Nat) : Nat :=
  if k = 3 then x.parts.getD 3 0 * stepVolt x.n ^ 2 / stepVolt x.n0 ^ 2
  else
    x.parts.getD k 0 * f * stepVolt x.n ^ 2 * Config.stepSpeed x.tile x.n
      / max 1 (x.f0.getD k 1 * stepVolt x.n0 ^ 2 * Config.stepSpeed x.tile x.n0)

/-- The predicted energy of a tile. -/
def capTile (x : CapT) : Nat :=
  capPart x 0 (x.f.getD 0 0) + capPart x 1 (x.f.getD 1 0) + capPart x 2 (x.f.getD 2 0) + capPart x 3 0

def capTotal (other : Nat) (l : List CapT) : Nat := other + sumOf (l.map capTile)

/-- R314 rule 1: lower the highest step above its floor until the prediction meets the cap. -/
def lowerSteps (cap other maxSteps : Nat) : Nat → List CapT → List CapT
  | 0, l => l
  | fuel + 1, l =>
    if capTotal other l ≤ cap then l
    else
      match minBy (fun x => 28 - x.n) (l.filter (fun x => !x.fixed && decide (x.n > x.floor ∧ x.n0 < x.n + maxSteps))) with
      | none => l
      | some x => lowerSteps cap other maxSteps fuel
          (l.map (fun y => if y.tile = x.tile then { y with n := y.n - 1 } else y))

/-- One group of R315: the tiles of a rank, consumer `k`; `up` raises, else lowers. -/
def moveGroup (cap other k rank : Nat) (up : Bool) (l : List CapT) : List CapT :=
  let mine := fun (x : CapT) => decide (x.rank = rank) && !x.fixed
  let full := sumOf ((l.filter mine).map (fun x => capPart x k 1000))
  let now := sumOf ((l.filter mine).map (fun x => capPart x k (x.f.getD k 0)))
  let f := fitFraction (cap : Int) ((capTotal other l : Int) - now) full
  l.map (fun x => if mine x then
    { x with f := setNth x.f k (if up then max (x.f.getD k 0) f else min (x.f.getD k 0) f) } else x)

/-- The stages of R315 in order, rank by rank. -/
def lowerFractions (cap other : Nat) (l : List CapT) : List CapT :=
  [0, 1, 2].foldl (fun l k => (List.range 8).foldl (fun l r =>
    if capTotal other l ≤ cap then l else moveGroup cap other k r false l) l) l

/-- The same in the reverse order, upwards. -/
def raiseFractions (cap other : Nat) (l : List CapT) : List CapT :=
  [2, 1, 0].foldl (fun l k => (List.range 8).foldl (fun l r =>
    if capTotal other l > cap then l else moveGroup cap other k (7 - r) true l) l) l

/-- R314: raise steps, lowest first, one per tile, within the ceiling and the cap. -/
def raiseSteps (cap other : Nat) (l : List CapT) : List CapT :=
  (sortBy (fun x => x.n) l).foldl (fun l x =>
    let up := l.map (fun y => if y.tile = x.tile then { y with n := y.n + 1 } else y)
    if x.fixed ∨ x.n ≥ x.top ∨ capTotal other up > cap then l else up) l

/-- The tiles as the cap sees them at the end of a window. -/
def capTiles (s : State) : List CapT :=
  (List.range 64).map (fun t =>
    let x := getPTile s t
    let f := [x.capA, x.capL, x.capM]
    let n := stepOf s t
    { tile := t, n0 := n, n := n, floor := getObj s t Obj.floorStep, top := ceilingOf s t
      rank := getObj s dev (Obj.capRank + capPartition s t), fixed := x.hold, f0 := f, f := f
      parts := predictTile s t 1000000 x.lastWin (getObj s t Obj.tilePowerMeasured * 1000000) })

/-- Put the decision in force. -/
def applyCap (l : List CapT) (s : State) : State :=
  l.foldl (fun s x =>
    let s1 := if x.f = x.f0 then s
      else modPTile x.tile (fun p => { p with capA := x.f.getD 0 0, capL := x.f.getD 1 0, capM := x.f.getD 2 0 }) s
    if x.n = x.n0 then s1 else aimStep x.tile x.n s1) s

/-- CapState, CapShortfall and what entering state 3 does (R314, R316). -/
def noteCap (l : List CapT) (total cap : Nat) (limited : Bool) (s : State) : State :=
  let atMin := l.all (fun x => x.f.all (fun f => decide (f ≤ 50)))
  let atFloor := l.all (fun x => decide (x.n0 ≤ x.floor)) || getObj s dev Obj.powerMode = 1
  let old := getObj s dev Obj.capState
  if atMin ∧ atFloor ∧ total > cap then
    let short := (total - cap) / 1000000
    let s1 := setObj dev Obj.capShortfall short (setObj dev Obj.capState 3 s)
    if old = 3 then s1
    else ringAll 5 (addLog dev 0x08 5 stCapUnattainable (fld 0 32 short) 0 (bump dev Obj.capUnattainableEvents 1 s1))
  else
    let st := if l.any (fun x => x.f.any (fun f => decide (f < 1000))) then 2 else if limited then 1 else 0
    setObj dev Obj.capShortfall 0 (setObj dev Obj.capState st s)

/-- R314: the cap at the end of a window. Tokens are withheld once every tile stands at its floor step
(worked example of R316: steps at 6 and 7 ms, the fraction at 8 ms). -/
def enforceCap (s : State) : State :=
  let cap := getObj s dev Obj.powerCap * 1000000
  let other := predictFixed s 1000000
  let l := capTiles s
  let managed := getObj s dev Obj.powerMode = 0
  let total := capTotal other l
  let l1 :=
    if total > cap then
      let l1 := if managed then lowerSteps cap other (getObj s dev Obj.maxStepsPerWindow) 1800 l else l
      if ¬ managed ∨ l.all (fun x => decide (x.n0 ≤ x.floor)) then lowerFractions cap other l1 else l1
    else if total * 100 < cap * 97 then
      let l1 := raiseFractions cap other l
      if managed ∧ l1.all (fun x => x.f.all (fun f => decide (f = 1000))) then raiseSteps cap other l1 else l1
    else l
  let limited := decide (total > cap) || (decide (total * 100 ≥ cap * 97) && l1.any (fun x => decide (x.n < x.top)))
  noteCap l1 (capTotal other l1) cap limited (applyCap l1 s)

/-- POWER_WINDOW_END (R310, R311, R314): at each multiple of 1,000,000 ns. -/
def powerWindow (s : State) : State :=
  if ¬ due s dev 6 1000000 then s
  else
    let m := winMw s.power.windowEnergy
    let fixedMw := winMw (predictFixed { s with dict := fset 0 s.dict (okey dev Obj.estimatorState) 0 } 1000000)
    let s1 := forTiles accountTile (take dev 6 s)
    let e := sumOf ((List.range 64).map (fun t => getObj s1 t Obj.tilePowerEstimated)) + fixedMw
    let s2 := setObj dev Obj.devicePowerMeasured m (setObj dev Obj.devicePowerEstimated e s1)
    let s3 := { s2 with power := { s2.power with
      windowEnergy := 0, peakLast := s2.power.peakNow, peakNow := false
      fitLeft := s2.power.fitLeft - b2n (firmwareRuns s) } }
    enforceCap (judgeEstimator m e s3)

def execPowerWindowEnd (s : State) : Res := run powerWindow s

/-- POWER_CAP_WRITE (R314). -/
def execPowerCapWrite (v : BitVec 32) (s : State) : Res := run (writePlain dev Obj.powerCap v.toNat) s

/-! ## Estimator recalibration (R392) -/

/-- ESTIMATOR_RECALIBRATE: the next EstimatorFitWindows windows are recorded. -/
def startFit (s : State) : State :=
  setObj dev Obj.estimatorState 2
    { s with power := { s.power with fitLeft := getObj s dev Obj.estimatorFitWindows } }

def execEstimatorRecalibrate (v : BitVec 8) (s : State) : Res := run (boolCommand v.toNat startFit) s

/-- ESTIMATOR_FIT_DONE (R392): the management unit stores the factors of the groups it could fit (none: the
group keeps its factor), in thousandths of the design value and within 500 to 2,000; the gain returns to 1. It waits while the
firmware does not run (R323). -/
def fitDone (factors : List (Option Nat)) (s : State) : State :=
  if getObj s dev Obj.estimatorState ≠ 2 ∨ s.power.fitLeft ≠ 0 ∨ ¬ firmwareRuns s then s
  else
    let f := (List.range 5).map (fun i => (factors.getD i none).map (fun v => max 500 (min 2000 v)))
    let kept := (f.filter (fun x => x.isNone)).length
    let s1 := (List.range 5).foldl (fun s i => match f.getD i none with
      | some v => forTiles (fun t s => pushRecord 0x09 (t * 1024 + i) 4 v s)
          { s with power := { s.power with fit := fset 1000 s.power.fit i v } }
      | none => s) s
    let s2 := forTiles (fun t s => setObj t Obj.estimatorGain 1000000 s) s1
    setObj dev Obj.lastEstimatorFit (fld 56 8 stOk + fld 48 8 kept + s.time.timeBase % 2 ^ 48)
      (setObj dev Obj.estimatorState 1 { s2 with power := { s2.power with agree := 0, fitted := true } })

def execEstimatorFitDone (factors : List (Option Nat)) (s : State) : Res := run (fitDone factors) s

/-! ## Hold (R318, R319) -/

/-- The setpoint of a rail in tenths of a mV; the lower one while a step settles (R318). -/
def setpoint (s : State) (r : Nat) : Nat :=
  if r = 64 then 8000 else if r = 65 then 11000
  else match (getPTile s r).settling with
    | some (a, b, _) => stepVolt (min a b)
    | none => stepVolt (stepOf s r)

/-- A rail at `mv` lies below a level in thousandths of its setpoint. -/
def belowLevel (s : State) (r mv level : Nat) : Bool := decide (mv * 10000 < setpoint s r * level)

/-- The rails that apply to a tile. -/
def railsOf (t : Nat) : List Nat := [t, 64, 65]

/-- A tile that accepts, carries or answers the requests of a pass is in Hold: its owner, or its source. -/
def passInHold (s : State) (u p : Nat) : Bool :=
  let x := getPass s u p
  inHold s u || (isFar u x.terms && inHold s (cSource x.terms))

/-- R112 bit 3 of one pass: set while a request of it that one of its tiles accepted is not answered; it
stays until no tile of the pass is in Hold (DEDUCED: R112 names no tile, so the source tile's Hold counts
as well as the owner's). -/
def holdPass (u p : Nat) (s : State) : State :=
  if ¬ passInHold s u p then setForce u p 3 false s
  else if passHeld s u p ∨ passTravels s u p s.time.elapsed then setForce u p 3 true s
  else s

/-- Cause bit 3 of the passes a tile owns or sources. -/
def holdPasses (t : Nat) (s : State) : State :=
  (sourcedPasses s t).foldl (fun s e => holdPass e.1 e.2.1 s)
    ((livePasses s t).foldl (fun s e => holdPass t e.1 s) s)

/-- R148: the tile withholds its acknowledge from the requests it holds in part. -/
def withholdTile (t : Nat) (s : State) : State :=
  { s with asm := s.asm.map (fun e =>
      if e.1 / 128 = t ∧ e.2.active then (e.1, { e.2 with held := true }) else e) }

/-- A tile enters Hold, or its dip deepens (R319). -/
def enterHold (t rail mv : Nat) (s : State) : State :=
  if (getPTile s t).hold then
    holdPasses t (modPTile t (fun p => { p with holdLow := min p.holdLow mv }) s)
  else
    let s1 := modPTile t (fun p => { p with hold := true, holdFrom := s.time.elapsed, holdLow := mv, holdRail := rail }) s
    let s2 := bump t Obj.holdEvents 1 (setObj t Obj.holdState 1 s1)
    let e := supplyEvent s2 1 rail mv
    let s3 := ring t 5 (addLog t 0x08 1 stHold e 0 (setObj dev Obj.lastSupplyEvent e s2))
    holdPasses t (flushWhere t 4 (fun _ => true) (withholdTile t s3))

/-- SUPPLY_WARNING_CROSSING (R318): the rail stood at `mv`, below its warning level, for 20 ns. -/
def warningCrossing (r mv : Nat) (s : State) : State :=
  if ¬ belowLevel s r mv 940 then s
  else
    let s1 := modRail r (fun x => { x with lowAt := some s.time.elapsed }) s
    if r < 64 then enterHold r r mv s1 else forTiles (fun t s => enterHold t r mv s) s1

def execSupplyWarningCrossing (rail : RailN) (mv : Nat) (s : State) : Res := run (warningCrossing rail.val mv) s

/-- A rail has stood at or above its exit level for 20,000 ns, as far as crossings were seen. -/
def railClear (s : State) (r : Nat) : Bool :=
  match (getRail s r).lowAt with
  | some a => decide (s.time.elapsed ≥ a + 20000)
  | none => true

/-- The tile leaves Hold (R319). -/
def leaveHold (t : Nat) (s : State) : State :=
  let x := getPTile s t
  let len := s.time.elapsed - x.holdFrom
  let s1 := modPTile t (fun p => { p with hold := false, holdLow := 0, holdRail := 0 }) s
  let s2 := bump t Obj.holdTime len (setObj t Obj.holdLongest (max (getObj s1 t Obj.holdLongest) len)
    (setObj t Obj.holdState 0 s1))
  advanceStep t (startMigrations 64 t (holdPasses t s2))

/-! ## Energy marks and attribution (R320, R321) -/

/-- ENERGY_MARK_OPEN (R320): write p + 1; an open mark gives RETRY. A value above 255 cannot be written:
p + 1 runs from 1 to 255. -/
def openMark (m p : Nat) (s : State) : State :=
  let x := fget ({} : Mark) s.mark m
  if x.opened then answer stRetry s
  else
    let stale := estimatorStale s || getObj s dev Obj.railTelemetryLost ≠ 0
    let x1 : Mark := { opened := true, part := p, start := s.time.timeBase, from_ := s.time.elapsed,
                       energy0 := getObj s dev Obj.deviceEnergy, stale := stale }
    answer stOk { s with mark := fset {} s.mark m x1 }

/-- Table 12.3: the result of a closed mark. -/
def markResult (s : State) (x : Mark) : Nat :=
  let shared := s.power.partSeen.any (fun e => e.1 ≠ x.part ∧ e.2 > x.from_)
  fld 192 64 x.start + fld 128 64 s.time.timeBase + fld 64 64 (getObj s dev Obj.deviceEnergy - x.energy0)
    + fld 8 8 x.part + fld 2 1 (b2n x.stale) + fld 1 1 (b2n shared) + 1

/-- ENERGY_MARK_CLOSE (R320). -/
def closeMark (m : Nat) (s : State) : State :=
  let x := fget ({} : Mark) s.mark m
  if ¬ x.opened then answer stOk s
  else answer stOk (setObj dev (Obj.energyMarkResult + m) (markResult s x) { s with mark := fset ({} : Mark) s.mark m ({} : Mark) })

/-- EnergyMarkControl: a value of 0 closes, p + 1 opens. -/
def writeMark (m v : Nat) (s : State) : State := if v = 0 then closeMark m s else openMark m (v - 1) s

def execEnergyMarkOpen (mk : Fin 8) (v : BitVec 8) (s : State) : Res := run (writeMark mk.val v.toNat) s
def execEnergyMarkClose (mk : Fin 8) (s : State) : Res := run (closeMark mk.val) s

/-- ATTRIBUTION_MODE_WRITE (R321): the counters are cleared when the mode is set to 1. -/
def writeAttribution (v : Nat) (s : State) : State :=
  if v > 1 then answer stBadFormat s
  else
    let s1 := storeRws dev Obj.attributionMode v s
    { s1 with power := { s1.power with partEnergy := [], queueEnergy := [] } }

def execAttributionModeWrite (v : BitVec 8) (s : State) : Res := run (writeAttribution v.toNat) s

/-! ## DevicePace (R322) -/

/-- The causes that limit a tile now, apart from those of the whole device. -/
def paceCauses (s : State) (t : Nat) : Nat :=
  let x := getPTile s t
  b2n (decide ((getSensor s t).u < 1000)) + 2 * b2n (getSensor s t).ceiling + 32 * b2n x.hold
    + 128 * b2n (decide (stepOf s t = ceilingOf s t
        ∧ getObj s t Obj.speedIndex < getObj s t Obj.guaranteeFloor + getObj s t Obj.floorGuard))

/-- DevicePace's value. -/
def devicePace (s : State) : Nat :=
  let tiles := List.range 64
  let t := (minBy (effectiveSpeed s) tiles).getD 0
  let cs := getObj s dev Obj.capState
  let all := tiles.foldl (fun m t => m ||| paceCauses s t) 0
  let devc := 4 * b2n (decide (cs = 1)) + 8 * b2n (decide (cs ≥ 2)) + 16 * b2n s.power.peakLast + 64 * b2n (tripped s)
  fld 48 16 (effectiveSpeed s t) + fld 42 6 t + (all ||| devc)

end Sys2Proof.Machine
end

