-- ==== Sys2Proof/Machine/BlockMap.lean ====
section
/-! DEFINITION. The block map (R235 to R259): the pool and its free lists, jobs (copy-on-write, relocation,
fill, spill), resolution. The free block taken from a list is a free value. -/

namespace Sys2Proof.Machine

open Sys2Proof

/-! ## The pool and its free lists (R235 to R238) -/

/-- Bytes of a block. -/
def blockBytes (s : State) (t : Nat) : Nat := 2048 * poolG s t

/-- Copy classes of the pool, and the blocks of a band (R237). -/
def poolClasses (s : State) (t : Nat) : Nat := 768 / poolG s t
def bandBlocks (s : State) (t : Nat) : Nat := 393216 / poolG s t

/-- Band and copy class of a block (R237). -/
def blockBand (s : State) (t p : Nat) : Nat := p / bandBlocks s t
def blockClass (s : State) (t p : Nat) : Nat := p % poolClasses s t

/-- R237: two blocks are copy partners. -/
def partners (s : State) (t p q : Nat) : Bool :=
  decide (blockBand s t p = blockBand s t q ∧ blockClass s t p = blockClass s t q)

/-- The place of granule `i` of a block (R236), and the tile offset of byte `o` of a block. -/
def granule (s : State) (t p i : Nat) : Place := translate (blockPlace (poolFirst s t) (poolG s t) p i)
def blockByte (s : State) (t p o : Nat) : Nat := blockPlace (poolFirst s t) (poolG s t) p (o / 2048) + o % 2048

/-- The free list of a band and class (R238), in the order of block numbers. -/
def freeList (s : State) (t band cls : Nat) : List Nat :=
  ((List.range 512).map (fun i => band * bandBlocks s t + cls + poolClasses s t * i)).filter (fun p =>
    decide (p < poolSize s t) && decide (pstateOf s t p = 0))

/-- The number of free lists: one for each band and class. -/
def listCount (s : State) (t : Nat) : Nat := getObj s t Obj.poolBands * poolClasses s t

/-- Free list number `i`. -/
def listNo (s : State) (t i : Nat) : List Nat := freeList s t (i / poolClasses s t) (i % poolClasses s t)

/-- The first of some free lists that is not empty. -/
def firstList (s : State) (t : Nat) : List Nat → Option (Nat × List Nat)
  | [] => none
  | i :: r => match listNo s t i with
    | [] => firstList s t r
    | l => some (i, l)

/-- Numbers `n` to `m - 1`, then 0 to `n - 1`. -/
def rotated (n m : Nat) : List Nat := (List.range m).map (fun i => (n + i) % m)

/-- Take a block of a list: which of them is a free value. It is in use without a reference yet. -/
def takeOf (t : Nat) (l : List Nat) (s : State) : Option Nat × State :=
  let (x, s1) := draw s
  match l[x % l.length]? with
  | none => (none, s1)
  | some p =>
    (some p, setObj t Obj.freeBlocks (getObj s1 t Obj.freeBlocks - 1) (setPool t p { pstate := 1 } s1))

/-- R238, ALLOC and fills: the lists in turn. -/
def takeTurn (t : Nat) (s : State) : Option Nat × State :=
  let n := listCount s t
  match firstList s t (rotated ((getMap s t).hand % max 1 n) n) with
  | none => (none, s)
  | some (i, l) => takeOf t l (modMap t (fun m => { m with hand := (i + 1) % max 1 n }) s)

/-- R238, the destination of a copy-on-write of block `p`: its band and class, its band, any list. -/
def takePartner (t p : Nat) (s : State) : Option Nat × State :=
  let k := poolClasses s t
  let own := blockBand s t p * k + blockClass s t p
  let band := (List.range k).map (fun i => blockBand s t p * k + i)
  match firstList s t (own :: (band ++ List.range (listCount s t))) with
  | none => (none, s)
  | some (_, l) => takeOf t l s

/-- Blocks that clear now and will join a free list (R247). -/
def clearingBlocks (s : State) (t : Nat) : Nat :=
  let listed := s.pool.filter (fun e => decide (e.1 / 65536 = t ∧ e.1 % 65536 < poolSize s t))
  (listed.filter (fun e => e.2.pstate = 3)).length
    + (if (getMap s t).unlistedFree then 0 else poolSize s t - listed.length)

/-- R258: the pool rebuilt from BlockSize and the bands; blocks of retired rows stay retired (R255). -/
def rebuildPool (t : Nat) (s : State) : State :=
  let s1 : State := { s with
    pool := s.pool.filter (fun e => e.1 / 65536 ≠ t)
    way := s.way.filter (fun e => e.1 / 16384 ≠ t) }
  let free := !flag s t Obj.clearOnFree
  let s2 := modMap t (fun m => { m with hand := 0, unlistedFree := free }) s1
  let retired := (s2.retire.filter (fun e => e.1 / 1024 = t)).filterMap (fun e =>
    (blockOf (poolFirst s2 t) (poolG s2 t) (bits e.2 54 6) (bits e.2 50 4) (bits e.2 37 13)).map (·.1))
  let bad := (retired.filter (fun p => decide (p < poolSize s2 t))).eraseDups
  let s3 := bad.foldl (fun s p => setPool t p { pstate := 2 } s) s2
  setObj t Obj.freeBlocks (if free then poolSize s3 t - bad.length else 0)
    (setObj t Obj.poolBlocks (poolSize s3 t) s3)

/-! ## Entries and their references (R247) -/

/-- The image of an entry (Table 9.2). -/
def entryBits (x : Entry) : Nat :=
  fld 125 3 x.state + fld 124 1 (b2n x.write) + fld 123 1 (b2n x.busy) + fld 122 1 (b2n x.accessed)
    + fld 121 1 (b2n x.dirty) + fld 115 6 x.tile + fld 107 8 x.part + fld 91 16 x.block + fld 0 64 x.home

/-- The block that follows a free one on its list, 0 behind the last. -/
def nextFree (s : State) (t p : Nat) : Nat :=
  ((freeList s t (blockBand s t p) (blockClass s t p)).find? (fun q => decide (p < q))).getD 0

/-- The image of a pool descriptor (Table 9.3). -/
def poolBits (s : State) (t p : Nat) : Nat :=
  let d := getPool s t p
  fld 48 16 d.refs + fld 46 2 (pstateOf s t p) + fld 45 1 (b2n d.published) + fld 31 14 d.dirindex
    + fld 16 1 (b2n d.forward) + fld 0 16 (if pstateOf s t p = 0 then nextFree s t p else d.next)

/-- Ask another tile to change or look up a block (R415, kind 4). -/
def ask (b : Book) (s : State) : State := { s with queries := s.queries ++ [b] }

/-- Blocks of a pool that a chain of relocations can pass through, and one more. -/
abbrev mapFuel : Nat := 65537

/-- The block that a relocated block has become (R256). -/
def finalBlock (s : State) (t : Nat) : Nat → Nat → Nat
  | 0, p => p
  | n + 1, p =>
    let d := getPool s t p
    if d.pstate = 2 ∧ d.forward then finalBlock s t n d.next else p

/-- Drop the reference an entry holds (R247): that of a relocated block is held of the new one (R256). -/
def dropEntry (t : Nat) (x : Entry) (s : State) : State :=
  if x.state = 1 ∨ x.state = 4 ∨ (x.state = 5 ∧ ¬ x.wasFar) then dropRef t (finalBlock s t mapFuel x.block) x.part s
  else if x.state = 2 ∨ x.state = 5 then ask { src := t, dst := x.tile, kind := 2, arg := x.block, part := x.part } s
  else s

/-- RELEASE of an entry: FREE, which holds nothing. -/
def freeEntryOf (t e : Nat) (s : State) : State := dropEntry t (getEntry s t e) (setEntry t e {} s)

/-- R258: the releases that waited for an entry's job. -/
def releasePending (t e : Nat) (s : State) : State :=
  if (getMap s t).releases.contains e then
    freeEntryOf t e (modMap t (fun m => { m with releases := m.releases.filter (fun x => x ≠ e) }) s)
  else s

/-- The entry returns from RETIRED, or moves, to the block that its old one forwards to (R256). -/
def moveForward (t e : Nat) (x : Entry) (s : State) : State :=
  let d := getPool s (if x.state = 5 ∧ x.wasFar then x.tile else t) x.block
  setEntry t e { x with
    state := if x.state = 5 then (if x.wasFar then 2 else if x.wasPinned then 4 else 1) else x.state
    block := d.next, wasPinned := false, wasFar := false } s

/-- The block of an entry that is NEAR or PINNED, or was, is one relocated. -/
def mustMove (s : State) (t : Nat) (x : Entry) : Bool :=
  let d := getPool s (if x.state = 5 ∧ x.wasFar then x.tile else t) x.block
  decide (x.state = 1 ∨ x.state = 4 ∨ x.state = 5) && decide (d.pstate = 2) && d.forward

/-- The entry moves to the block that its own has become. -/
def moveAll (t e : Nat) : Nat → State → State
  | 0, s => s
  | n + 1, s =>
    let x := getEntry s t e
    if (x.state = 1 ∨ x.state = 4) ∧ mustMove s t x then moveAll t e n (moveForward t e x s) else s

/-! ## Jobs -/

/-- The job that runs for an entry. -/
def jobOf (s : State) (t e : Nat) : Option MapJob := (getMap s t).jobs.find? (fun j => j.entry = e)

/-- Change it. -/
def modJob (t e : Nat) (f : MapJob → MapJob) (s : State) : State :=
  modMap t (fun m => { m with jobs := m.jobs.map (fun j => if j.entry = e then f j else j) }) s

/-- A job begins: the entry is busy. -/
def beginJob (t : Nat) (j : MapJob) (s : State) : State :=
  let s1 := setEntry t j.entry { getEntry s t j.entry with busy := true } s
  modMap t (fun m => { m with jobs := m.jobs ++ [{ j with id := m.nextJob }], nextJob := m.nextJob + 1 }) s1

/-- The job of an entry ends: busy clears. -/
def endJob (t e : Nat) (s : State) : State :=
  let s1 := modMap t (fun m => { m with jobs := m.jobs.filter (fun j => j.entry ≠ e) }) s
  setEntry t e { getEntry s1 t e with busy := false } s1

/-- Nothing of the block map is started in Hold or in a trip (R258). -/
def mapHalted (s : State) (t : Nat) : Bool := inHold s t || tripped s || starting s || inReset s t

/-- The class of best-effort work at a tile offset: that of the range register that covers it (R12). -/
def rangeClass (s : State) (t off : Nat) : Nat :=
  match matchRange s t (off / 2048) with
  | some i => rrClass (rangeReg s t i)
  | none => 0

/-- A request of the block map for granule `i` of job `id` (R63); its tag says which. -/
def mapRequest (t id i addr : Nat) (write : Bool) (part cls : Nat) (pass : Bool) : Req :=
  { id := 0, requester := 0x60, order := 0, orig := 0x60, source := t, tag := id * 256 + i, addr := addr, len := 2048
    write := write, conforming := pass, part := part, cls := cls }

/-- A request to the next level for granule `i` (R249); it leaves through the gateway. -/
def sendHome (t e i : Nat) (write : Bool) (data pois : Nat) (s : State) : State :=
  let x := getEntry s t e
  let h : HomeMsg := { tile := t, entry := e, node := getObj s t Obj.nextLevelNode, addr := x.home + 2048 * i, len := 2048
                       write := write, part := x.part, data := data, pois := pois }
  portCount t 4 true (if write then 2048 else 0) { s with out := { s.out with home := s.out.home ++ [h] } }

/-! ## Spills (R249, R250) -/

/-- R250 step 3: the entry is SPILLED and its block released. -/
def finishSpill (t e : Nat) (s : State) : State :=
  let s1 := endJob t e s
  let x := getEntry s1 t e
  releasePending t e (dropRef t (finalBlock s1 t mapFuel x.block) x.part
    (bump t Obj.spills 1 (setEntry t e { x with state := 3, dirty := false, block := 0 } s1)))

/-- R250: a spill: its reads are queued behind the requests accepted before; a clean entry needs none. -/
def startSpill (t e : Nat) (forAlloc : Bool) (s0 : State) : State :=
  let s := moveAll t e mapFuel s0
  let x := getEntry s t e
  let g := poolG s t
  let s1 := beginJob t { kind := .spill, entry := e, src := x.block, left := g, started := s.time.elapsed
                         forAlloc := forAlloc } s
  if x.dirty then
    mapWork t false ((List.range g).map (fun i =>
      let o := blockByte s t x.block (2048 * i)
      .req (mapRequest t (getMap s t).nextJob i (devAddr t o) false x.part (rangeClass s t o) false))) s1
  else finishSpill t e s1

/-- R249: the entry qualifies as a victim. -/
def spillable (s : State) (t : Nat) (x : Entry) : Bool :=
  decide (x.state = 1 ∧ x.home ≠ 0) && !x.busy && decide ((getPool s t x.block).refs = 1)
    && !(getPool s t x.block).published

/-- The listed entries of a tile in the order the sweep meets them. -/
def sweepOrder (s : State) (t : Nat) : List Nat :=
  let l := (s.entry.filter (fun e => e.1 / 65536 = t)).map (fun e => e.1 % 65536)
  let h := getObj s t Obj.spillHand
  l.filter (fun e => decide (h ≤ e)) ++ l.filter (fun e => decide (e < h))

/-- R249: one sweep over entries: the accessed bits of those passed over clear. -/
def sweep (t : Nat) : List Nat → State → Option Nat × State
  | [], s => (none, s)
  | e :: r, s =>
    let x := getEntry s t e
    if ¬ spillable s t x then sweep t r s
    else if x.accessed then sweep t r (setEntry t e { x with accessed := false } s)
    else (some e, setObj t Obj.spillHand ((e + 1) % 65536) s)

/-- R249: the sweep of at most 131,072 entries, twice around, and the spill of its victim. -/
def spillSweep (t : Nat) (s : State) : Bool × State :=
  if ¬ flag s t Obj.spillEnable ∨ mapHalted s t then (false, s)
  else match sweep t (sweepOrder s t ++ sweepOrder s t) s with
    | (some e, s1) => (true, startSpill t e true s1)
    | (none, s1) => (false, s1)

/-- Spills that run for an allocation. -/
def spillsRunning (s : State) (t : Nat) : Nat :=
  ((getMap s t).jobs.filter (fun j => decide (j.kind = .spill) && j.forAlloc)).length

/-- Blocks that a sweep could still spill. -/
def spillableCount (s : State) (t : Nat) : Nat :=
  if flag s t Obj.spillEnable then
    (s.entry.filter (fun e => e.1 / 65536 = t && spillable s t e.2)).length
  else 0

/-- An allocation that failed (R249). -/
def allocFailed (t e : Nat) (s : State) : State :=
  ring t 9 (mapEvent t 1 e stRetry (bump t Obj.poolExhausted 1 s))

/-- What an attempt to take a block came to. -/
inductive Taken where
  | block (p : Nat)
  /-- Blocks are being cleared or spilled: wait. -/
  | wait
  | none
  deriving DecidableEq, Repr

/-- Take a block by `f` (R249). With every list empty the sweep runs, at the first attempt of an allocation; one
that waits sweeps again only when nothing is being cleared or spilled. -/
def takeBlock (t : Nat) (first : Bool) (f : State → Option Nat × State) (s : State) : Taken × State :=
  match f s with
  | (some p, s1) => (.block p, s1)
  | (none, s1) =>
    let coming := clearingBlocks s1 t + spillsRunning s1 t
    if (coming > 0 ∧ ¬ first) ∨ mapHalted s1 t then (.wait, s1)
    else
      let (ok, s2) := spillSweep t s1
      if ¬ ok then (if coming > 0 then .wait else .none, s2)
      else match f s2 with
        | (some p, s3) => (.block p, s3)
        | (none, s3) => (.wait, s3)

/-! ## Held requests (R243) -/

/-- HeldRequests follows the list. -/
def setHeld (t : Nat) (l : List MapReq) (s : State) : State :=
  setObj t Obj.heldRequests l.length (modMap t (fun m => { m with held := l }) s)

/-- Hold a request. One that waits on a fill is carried best-effort and says so in its response (R225, R251). -/
def holdReq (t : Nat) (r : MapReq) (s : State) : State :=
  let fill := decide ((getEntry s t r.entry).state = 3)
  let q := { r.req with fill := r.req.fill || fill, best := r.req.best || fill }
  setHeld t ((getMap s t).held ++ [{ r with req := q }]) s

/-- The request came over the mesh. -/
def viaGateway (r : Req) : Bool := decide (0x20 ≤ r.requester ∧ r.requester < 0x60)

/-- A request that the block map refuses gets its response (R242). -/
def mapRefuse (t : Nat) (r : Req) (st hint : Nat) (s : State) : State :=
  let q := { r with status := st }
  if viaGateway r then portCount t 4 true 0 { s with farResps := s.farResps ++ [⟨t, r.source, q, hint⟩] }
  else giveReply t r.orig q hint s

/-- The held requests that satisfy `p` complete with a status (R252, R258). -/
def failHeld (t : Nat) (p : MapReq → Bool) (st hint : Nat) (s : State) : State :=
  let l := (getMap s t).held
  (l.filter p).foldl (fun s r => mapRefuse t r.req st hint s) (setHeld t (l.filter (fun r => !p r)) s)

/-- The write that caused the copy-on-write of an entry: the oldest held one. -/
def causing (s : State) (t e : Nat) : Option MapReq :=
  (getMap s t).held.find? (fun r => decide (r.entry = e) && r.req.write)

/-- Change it. -/
def modCausing (t e : Nat) (f : MapReq → MapReq) (s : State) : State :=
  let rec go : List MapReq → List MapReq
    | [] => []
    | r :: l => if r.entry = e ∧ r.req.write then f r :: l else r :: go l
  modMap t (fun m => { m with held := go m.held }) s

/-! ## Copies (R248, R256) -/

/-- The tier, class and source of a write at a place of tile `t`, which its copies take (R73, R99). -/
def causeOf (s : State) (t : Nat) (r : Req) : Cause :=
  match conformPass t r s with
  | some x => { pass := r.passNo, cls := cClass x.terms }
  | none =>
    match rangeCheck s t (if viaGateway r then some r.source else none) r.requester r.addr r.len true with
    | .take _ c reg => { cls := c, reg := some reg }
    | .denied => {}

/-- R99: 4,096 bytes for each granule, in its channel of block `p`, charged to the pass of the cause; none where
it cannot pay. -/
def chargeCopies (t p pass : Nat) (s : State) : Option State :=
  let g := poolG s t
  let x := getPass s t pass
  let bcs := (List.range g).map (fun i => ((granule s t p i).chan, 4096))
  let tick := s.time.elapsed / 10
  if canPay x tick (4096 * g) bcs false then some (setPass t pass (pay x tick (4096 * g) bcs false) s) else none

/-- The cause of the copies of an entry, charged. Where the pass cannot pay, the causing write goes best-effort,
and its copies with it. `p` is the block of this tile whose channels the copies use: the source, or the
destination of a FAR one. -/
def takeCause (t e p : Nat) (s : State) : Cause × State :=
  match causing s t e with
  | none => ({}, s)
  | some r =>
    let q := { r.req with addr := devAddr t (blockByte s t p r.off), accepted := s.time.elapsed }
    let c := causeOf s t q
    match c.pass with
    | none => (c, s)
    | some n => match chargeCopies t p n s with
      | some s1 => (c, s1)
      | none => (causeOf s t { q with best := true },
          modCausing t e (fun r => { r with req := { r.req with best := true } }) s)

/-- The copy of granule `i` of a block to another block of the tile: in its bank where R55 holds and `bounce` is
false, else a bounce copy (R57). -/
def copyItem (s : State) (t src dst i part : Nat) (bounce : Bool) (c : Cause) (job : JobRef) : MapItem :=
  let a := granule s t src i
  let d := granule s t dst i
  let x : Acc := { id := 0, kind := .copy d.row, bank := a.bank, row := a.row, first := true, cls := c.cls
                   pass := c.pass.isSome, ofPass := c.pass, reg := if c.pass.isSome then none else c.reg
                   flen := 2048, part := part, job := job }
  if !bounce && decide (a.chan = d.chan ∧ a.bank = d.bank) && inBankOk s t a.chan a.bank a.row d.row then .acc a.chan x
  else .acc d.chan { x with kind := .bounceWrite a.chan a.bank a.row, bank := d.bank, row := d.row, flen := 4096 }

/-- R248 step 3: the copies of a copy-on-write into block `p`; a FAR source is read over the mesh. -/
def startCopies (t e p : Nat) (j : MapJob) (s : State) : State :=
  let g := poolG s t
  let part := (getEntry s t e).part
  let (c, s1) := takeCause t e (if j.far.isSome then p else j.src) s
  let s2 := modJob t e (fun j => { j with dst := some p, left := g, cause := c }) s1
  match j.far with
  | none => mapWork t c.pass.isSome ((List.range g).map (fun i => copyItem s1 t j.src p i part false c (.job j.id))) s2
  | some u => mapWork t false ((List.range g).map (fun i =>
      .req (mapRequest t j.id i (devAddr u (blockByte s u j.src (2048 * i))) false part c.cls false))) s2

/-- R256: the bounce copies of a relocation into block `p`. -/
def startReloc (t e p : Nat) (j : MapJob) (s : State) : State :=
  let g := poolG s t
  let part := (getEntry s t e).part
  let c : Cause := { cls := rangeClass s t (blockByte s t p 0) }
  mapWork t false ((List.range g).map (fun i => copyItem s t j.src p i part true c (.job j.id)))
    (modJob t e (fun j => { j with dst := some p, left := g }) s)

/-- R251 step 3: the reads of a fill into block `p` go out. -/
def startReads (t e p : Nat) (s : State) : State :=
  let g := poolG s t
  (List.range g).foldl (fun s i => sendHome t e i false 0 0 s)
    (modJob t e (fun j => { j with dst := some p, left := g, started := s.time.elapsed }) s)

/-- No block can be had for a job: the causing write, or every request that waits on a fill, is answered RETRY
with a hint of 10 µs (R248; for a fill a DESIGN CHOICE). -/
def jobFails (t e : Nat) (kind : JobKind) (s : State) : State :=
  let s1 := endJob t e (allocFailed t e s)
  let s2 := match kind, causing s1 t e with
    | .cow, some r => mapRefuse t r.req stRetry 10000
        (setHeld t (removeFirst (fun r => decide (r.entry = e) && r.req.write) (getMap s1 t).held) s1)
    | .cow, none => s1
    | _, _ => failHeld t (fun r => decide (r.entry = e)) stRetry 10000 s1
  releasePending t e s2

/-- A job that awaits its block tries to take one (R238). -/
def jobTake (t e : Nat) (first : Bool) (s : State) : State :=
  match jobOf s t e with
  | none => s
  | some j =>
    if j.dst.isSome ∨ j.kind = .spill ∨ mapHalted s t then s
    else
      match takeBlock t first (if j.kind = .cow ∧ j.far.isNone then takePartner t j.src else takeTurn t) s with
      | (.block p, s1) => match j.kind with
        | .cow => startCopies t e p j s1
        | .reloc => startReloc t e p j s1
        | _ => startReads t e p s1
      | (.wait, s1) => s1
      | (.none, s1) => jobFails t e j.kind s1

/-- The jobs of a tile that await a block, oldest first. -/
def jobsTake (t : Nat) (s : State) : State :=
  (((getMap s t).jobs.filter (fun j => j.dst.isNone)).map (·.entry)).foldl (fun s e => jobTake t e false s) s

/-- A copy of the same source block runs (R248: one block at a time). -/
def sourceBusy (s : State) (t src : Nat) (far : Option Nat) : Bool :=
  (getMap s t).jobs.any (fun j => decide (j.kind = .cow ∧ j.src = src ∧ j.far = far))

/-- R248: a copy-on-write for a write that is held. One that meets the source of another waits for that one. -/
def startCow (t e : Nat) (s : State) : State :=
  let x := getEntry s t e
  let far := if x.state = 2 then some x.tile else none
  if mapHalted s t ∨ sourceBusy s t x.block far then s
  else jobTake t e true (beginJob t { kind := .cow, entry := e, src := x.block, far := far, started := s.time.elapsed } s)

/-- R251: a fill for a request that is held. -/
def startFill (t e : Nat) (s : State) : State :=
  if mapHalted s t then s
  else jobTake t e true (beginJob t { kind := .fill, entry := e, started := s.time.elapsed } s)

/-! ## Resolution (R241, R242) -/

/-- What resolution comes to (R242). -/
inductive Resolved where
  | refuse (st : Nat)
  /-- Held: a job of the entry runs. -/
  | hold
  /-- Held until the block is private, or filled. -/
  | cow
  | fill
  | place (off : Nat)
  | forward (tile block : Nat)
  deriving DecidableEq, Repr

/-- The block of an entry of this tile is resolved. -/
def resolveNear (t : Nat) (r : MapReq) (s : State) : Resolved × State :=
  let x := getEntry s t r.entry
  let d := getPool s t x.block
  if d.pstate = 2 then
    (.refuse stBlockRetired, setEntry t r.entry { x with state := 5, wasPinned := x.state = 4, wasFar := false } s)
  else if r.req.write ∧ d.refs > 1 then (.cow, s)
  else
    (.place (blockByte s t x.block r.off),
      setEntry t r.entry { x with accessed := true, dirty := x.dirty || r.req.write } s)

/-- R242, with `fuel` resolutions: a forwarded block makes it resolve again. An uncorrectable word of the entry or
of its pool descriptor ends it (R258). -/
def resolve (t : Nat) (r : MapReq) : Nat → State → Resolved × State
  | 0, s => (.refuse stBlockRetired, s)
  | fuel + 1, s0 =>
    let (bad, s) := mapWords t r.entry (entryWords r.entry) s0
    let x := getEntry s t r.entry
    if bad then (.refuse stUncorrectable, s)
    else if x.state = 0 then (.refuse stDecodeError, s)
    else if x.part ≠ r.part then (.refuse stAccessDenied, s)
    else if r.req.write ∧ (¬ x.write ∨ ¬ r.canWrite) then (.refuse stAccessDenied, s)
    else if x.busy then (.hold, s)
    else if x.state = 3 then (.fill, s)
    else if x.state = 2 then
      if r.req.write then (.cow, s)
      else (.forward x.tile x.block, setEntry t r.entry { x with accessed := true } s)
    else
      let (lost, s1) := if x.state = 5 ∧ x.wasFar then (false, s) else mapWords t x.block [poolWord x.block] s
      if lost then (.refuse stUncorrectable, s1)
      else if mustMove s1 t x then resolve t r fuel (moveForward t r.entry x s1)
      else if x.state = 5 then (.refuse stBlockRetired, s1)
      else resolveNear t r s1

/-- One resolution of a request, counted (event 0x0040). -/
def resolveOne (t : Nat) (r : MapReq) (s : State) : Resolved × State :=
  resolve t r mapFuel (countEv t 0x0040 0 1 s)

/-- Fields of MapWindow (Table 9.4). -/
def mwPart (v : Nat) : Nat := bits v 35 8
def mwWrite (v : Nat) : Bool := bit v 34
def mwCount (v : Nat) : Nat := bits v 17 17
def mwFirst (v : Nat) : Nat := bits v 1 16
def mwEnable (v : Nat) : Bool := bit v 0

/-- R241: the entry and byte offset a mover's window gives for a space-1 address; the block size is that
of the tile the address names. -/
def windowEntry (s : State) (v addr : Nat) : Option (Nat × Nat) :=
  let b := blockBytes s (addrTile addr)
  let o := addrOffset addr
  if mwEnable v ∧ o / b < mwCount v then some (mwFirst v + o / b, o % b) else none

/-- R241: a window value is well formed. -/
def windowOk (v : Nat) : Bool :=
  decide (bits v 43 21 = 0) && (!mwEnable v || decide (1 ≤ mwCount v ∧ mwCount v ≤ 65536))
    && decide (mwFirst v + mwCount v ≤ 65536)

/-- A resolved request goes to the scheduler as a space-0 request of its mover (R217); one of this tile is
accepted only now (R95). -/
def issueMapped (t : Nat) (r : Req) (off : Nat) (s : State) : State :=
  let q := { r with addr := devAddr t off }
  acceptReq t (if viaGateway r then q else { q with accepted := s.time.elapsed, stamp := s.time.timeBase }) s

/-- A forwarded request leaves for the tile of its block (R242, R243). -/
def forwardReq (t u block : Nat) (r : MapReq) (s : State) : State :=
  let q := r.req
  let x : FarReq := { src := t, dst := u, kind := .block r.entry block r.off, origin := q.source, orig := q.orig, tag := q.tag
                      addr := q.addr, len := q.len, write := q.write, barrier := q.barrier, passNo := q.passNo, data := q.data
                      pois := q.pois, accepted := q.accepted, stamp := q.stamp, srcOrder := q.srcOrder
                      dropped := q.dropped, best := q.best }
  portCount t 4 true 0 { s with farReqs := s.farReqs ++ [x] }

/-- Resolve a request at tile `t` and issue, forward, hold or refuse it (R242). -/
def mapReq (t : Nat) (r : MapReq) (s : State) : State :=
  match resolveOne t r s with
  | (.refuse st, s1) => mapRefuse t r.req st 0 s1
  | (.hold, s1) => holdReq t r s1
  | (.cow, s1) => startCow t r.entry (holdReq t r s1)
  | (.fill, s1) => startFill t r.entry (holdReq t r s1)
  | (.place off, s1) => issueMapped t r.req off s1
  | (.forward u b, s1) => forwardReq t u b r s1

/-- A held request can resolve again: its entry is not busy, and its ingress FIFO does not wait. -/
def canWake (s : State) (t : Nat) (r : MapReq) : Bool :=
  !(getEntry s t r.entry).busy && !fifoWaits s t r.req.requester r.req.passNo.isSome

/-- The held requests of a tile resolve again, the causing write of entry `e` first (R248). -/
def wakeHeld (t : Nat) (e : Option Nat) (s : State) : State :=
  if mapHalted s t then s
  else
    let l := (getMap s t).held
    let mine := fun (r : MapReq) => decide (some r.entry = e) && r.req.write
    ((l.filter mine).take 1 ++ removeFirst mine l).foldl (fun s r =>
      if canWake s t r then mapReq t r s else setHeld t ((getMap s t).held ++ [r]) s) (setHeld t [] s)

/-- RESOLUTION (R241, R242): the block map of a tile takes the oldest request of a requester code that can
resolve: one held, else one that came to it. With 256 held it takes none (R243). -/
def resolution (t q : Nat) (named : MapReq → Bool) (s : State) : State :=
  if mapHalted s t then s
  else
    let mine := fun (r : MapReq) => decide (r.req.requester = q)
    let m := getMap s t
    match m.held.find? (fun r => mine r && canWake s t r) with
    | some r =>
      if ¬ named r then s
      else feedMap t (mapReq t r (setHeld t (removeFirst (fun x => mine x && canWake s t x) m.held) s))
    | none => match m.input.find? mine with
      | none => s
      | some r =>
        if m.held.length ≥ 256 ∨ fifoWaits s t q r.req.passNo.isSome ∨ ¬ named r then s
        else feedMap t (mapReq t r (modMap t (fun m => { m with input := removeFirst mine m.input }) s))

/-- A request at the block map is the one a command names: its byte of the logical map (entry and offset), its
length and direction, and the data of a write. -/
def mapNamed (s : State) (t addr len : Nat) (write : Bool) (data : List Nat) (r : MapReq) : Bool :=
  decide ((r.entry * blockBytes s t + r.off) % 2 ^ 48 = addr ∧ r.req.len % 2 ^ 12 = len ∧ r.req.write = write ∧
    (write → r.req.data = leNat data))

def execResolution (t : TileN) (q : BitVec 8) (addr : BitVec 48) (len : BitVec 12) (write : Bool) (data : List Byte)
    (s : State) : Res :=
  run (resolution t.val q.toNat (mapNamed s t.val addr.toNat len.toNat write (byteNats data))) s

/-- A FAR entry follows its block, or turns RETIRED, unless it has changed since (R242, R256). -/
def farEntry (u e t block : Nat) (f : Entry → Entry) (s : State) : State :=
  let x := getEntry s u e
  if x.state = 2 ∧ x.tile = t ∧ x.block = block then setEntry u e (f x) s else s

/-- FORWARDED_RESOLUTION (R242): the oldest message from a tile, if it is a forwarded request, is checked against
this tile's pool descriptor. -/
def forwardedResolution (t src : Nat) (s : State) : State :=
  match farHead s t src with
  | none => s
  | some x =>
    match x.kind with
    | .block e p off =>
      if mapHalted s t ∨ fifoWaits s t (0x20 + x.origin) x.passNo.isSome then s
      else
        let (bad, s1) := mapWords t p [poolWord p] (takeFar t src x s)
        let r := farReqOf x
        let b := finalBlock s1 t mapFuel p
        if bad then mapRefuse t r stUncorrectable 0 s1
        else if (getPool s1 t b).pstate = 2 then
          mapRefuse t r stBlockRetired 0
            (farEntry src e t p (fun x => { x with state := 5, wasFar := true, wasPinned := false }) s1)
        else issueMapped t r (blockByte s1 t b off) (farEntry src e t p (fun x => { x with block := b }) s1)
    | _ => s

def execForwardedResolution (t src : TileN) (s : State) : Res := run (forwardedResolution t.val src.val) s

end Sys2Proof.Machine
end

