-- ==== Sys2Proof/Machine/MapCommand.lean ====
section
/-! DEFINITION. Block map commands (R245, R246, R253, R254, R256), the responses to the block map's own requests,
and the events that end copies, fills, spills and clearings (R247 to R252). -/

namespace Sys2Proof.Machine

open Sys2Proof

/-! ## Fields (Table 9.5) -/

def mcArg (v : Nat) : Nat := bits v 192 64
def mcOther (v : Nat) : Nat := bits v 176 16
def mcBlock (v : Nat) : Nat := bits v 160 16
def mcTile (v : Nat) : Nat := bits v 154 6
def mcCount (v : Nat) : Nat := bits v 141 13
def mcPart (v : Nat) : Nat := bits v 133 8
def mcWrite (v : Nat) : Bool := bit v 132
def mcEntry (v : Nat) : Nat := bits v 116 16
def mcOp (v : Nat) : Nat := bits v 0 8

/-- Operations that use arg, tile, write, entry; that need count 1; that use no entry (Table 9.6). -/
def mcUsesArg (op : Nat) : Bool := [0x07, 0x09, 0x0A, 0x0B, 0x0C, 0x0D].contains op
def mcUsesTile (op : Nat) : Bool := op = 0x06 || op = 0x0C
def mcUsesWrite (op : Nat) : Bool := [0x01, 0x02, 0x06, 0x0C, 0x0D].contains op
def mcUsesEntry (op : Nat) : Bool := !([0x0A, 0x0B, 0x0D].contains op)
def mcSingle (op : Nat) : Bool := [0x02, 0x06, 0x09, 0x0C, 0x0F].contains op
def mcNoCount (op : Nat) : Bool := op = 0x0A || op = 0x0B
def mcNamesKey (op : Nat) : Bool := [0x09, 0x0A, 0x0B, 0x0C].contains op

/-- R245: the command is well formed: no reserved bit, unused fields zero, count and range as its
operation needs, key not 0 (R253), a home that is a multiple of the block size. -/
def mcOk (s : State) (t v : Nat) : Bool :=
  let op := mcOp v
  decide (1 ≤ op ∧ op ≤ 15) && decide (bits v 8 108 = 0)
    && (mcUsesArg op || decide (mcArg v = 0))
    && (decide (op = 2) || decide (mcOther v = 0))
    && (decide (op = 6) || decide (mcBlock v = 0))
    && (mcUsesTile op || decide (mcTile v = 0))
    && (mcUsesWrite op || !mcWrite v)
    && (mcUsesEntry op || decide (mcEntry v = 0))
    && (if mcNoCount op then decide (mcCount v ≤ 1) else decide (1 ≤ mcCount v ∧ mcCount v ≤ 4096))
    && (!mcSingle op || decide (mcCount v = 1))
    && decide (mcEntry v + mcCount v ≤ 65536)
    && (!mcNamesKey op || decide (mcArg v ≠ 0))
    && (decide (op ≠ 7) || decide (mcArg v % blockBytes s t = 0))
    && (decide (op ≠ 0xD) || decide (mcArg v + 16 * mcCount v ≤ 0x800000))

/-! ## The prefix directory (R253, R254) -/

def getWay (s : State) (t i : Nat) : Way := fget {} s.way (t * 16384 + i)
def setWay (t i : Nat) (w : Way) (s : State) : State := { s with way := fset {} s.way (t * 16384 + i) w }

/-- The slots of a key's set. -/
def setSlots (key : Nat) : List Nat := (List.range 4).map (fun w => key % 4096 * 4 + w)

/-- The slot that matches a key and a partition. -/
def findKey (s : State) (t key part : Nat) : Option Nat :=
  (setSlots key).find? (fun i =>
    let w := getWay s t i
    w.valid && decide (w.key = key ∧ w.part = part))

/-- A hit of ADOPT or LOOKUP: last_hit, hits and PrefixHits. -/
def hitWay (t i : Nat) (s : State) : State :=
  let w := getWay s t i
  setWay t i { w with lastHit := s.time.timeBase, hits := min (w.hits + 1) (2 ^ 32 - 1) } (countEv t 0x0043 0 1 (bump t Obj.prefixHits 1 s))

/-- Another way of the directory that holds a block. -/
def otherWay (s : State) (t block : Nat) : Option Nat :=
  (s.way.find? (fun e => decide (e.1 / 16384 = t ∧ e.2.block = block) && e.2.valid)).map (fun e => e.1 % 16384)

/-- Clear a way and release its reference. The block stays published while another way holds it. -/
def clearWay (t i : Nat) (s : State) : State :=
  let w := getWay s t i
  let s1 := setWay t i {} s
  let d := getPool s1 t w.block
  let other := otherWay s1 t w.block
  dropRef t w.block w.part
    (setPool t w.block { d with published := other.isSome, dirindex := other.getD 0 } s1)

/-- The words of a key's set are read. -/
def readSet (t key : Nat) (s : State) : Bool × State :=
  mapWords t (key % 4096) (((setSlots key).map wayWords).flatten) s

/-- PUBLISH of a key for a block: the matching way, a free one, or the one hit longest ago; its words are written
anew (R258). -/
def publish (t key part block : Nat) (s : State) : State :=
  let put := fun (i : Nat) (s : State) =>
    let d := getPool s t block
    setPool t block { d with refs := d.refs + 1, published := true, dirindex := i }
      (setWay t i { valid := true, key := key, lastHit := s.time.timeBase, part := part, block := block }
        (storeWords t (wayWords i) s))
  -- the block's own reference is added before the old holder's is dropped
  let guard := fun (f : State → State) (s : State) =>
    let s1 := f (setPool t block { getPool s t block with refs := (getPool s t block).refs + 1 } s)
    setPool t block { getPool s1 t block with refs := (getPool s1 t block).refs - 1 } s1
  match findKey s t key part with
  | some i => put i (guard (clearWay t i) s)
  | none =>
    match (setSlots key).find? (fun i => !(getWay s t i).valid) with
    | some i => put i s
    | none => match minBy (fun i => (getWay s t i).lastHit) (setSlots key) with
      | some i => put i (guard (fun s => bump t Obj.prefixReplacements 1 (clearWay t i s)) s)
      | none => s

/-- Reasons of a refusal that Table 9.7 gives another status: a block retired, a word uncorrectable. -/
abbrev bookRetired : Nat := 8
abbrev bookLost : Nat := 9

/-- R254 at the directory's tile: a hit adds a reference in the same step; none is a miss, a full count
answers reason 3. -/
def adoptHere (u key part : Nat) (s0 : State) : Book × State :=
  let b : Book := { src := u, dst := u, kind := 3, arg := key, part := part }
  let (lost, s) := readSet u key s0
  if lost then ({ b with reason := bookLost }, s)
  else match findKey s u key part with
  | none => ({ b with reason := 5 }, bump u Obj.prefixMisses 1 s)
  | some i =>
    let p := (getWay s u i).block
    let (bad, s1) := mapWords u p [poolWord p] s
    let d := getPool s1 u p
    if bad then ({ b with reason := bookLost }, s1)
    else if d.refs ≥ 65535 then ({ b with reason := 3 }, s1)
    else ({ b with ok := true, block := p }, hitWay u i (setPool u p { d with refs := d.refs + 1 } s1))

/-- A far tile's answer to FARMAP: one more reference of a block in use. -/
def farMapHere (u block : Nat) (s0 : State) : Book × State :=
  let b : Book := { src := u, dst := u, kind := 1, arg := block, block := block }
  let (bad, s) := mapWords u block [poolWord block] s0
  let d := getPool s u block
  if bad then ({ b with reason := bookLost }, s)
  else if block ≥ poolSize s u ∨ d.pstate = 4 ∨ d.pstate = 0 ∨ d.pstate = 3 then ({ b with reason := 2 }, s)
  else if d.pstate = 2 then ({ b with reason := bookRetired }, s)
  else if d.refs ≥ 65535 then ({ b with reason := 3 }, s)
  else ({ b with ok := true }, setPool u block { d with refs := d.refs + 1 } s)

/-! ## One entry or record of a command -/

/-- What handling one entry or record came to. -/
inductive Step1 where
  | ok (block detail : Nat)
  | stop (st reason : Nat)
  /-- Waits; whether its partner was asked or its spill started. -/
  | wait (asked : Bool)
  deriving DecidableEq, Repr

/-- A block maps into a FREE entry. -/
def mapEntry (t e state tile block : Nat) (v : Nat) (dirty : Bool) (s : State) : State :=
  setEntry t e { getEntry s t e with
    state := state, write := mcWrite v, busy := false, accessed := false, dirty := dirty, tile := tile
    part := mcPart v, block := block, wasPinned := false, wasFar := false } s

/-- The reply of a partner tile to FARMAP, SHARE of a far block or ADOPT. -/
def mapReply (t e tile v : Nat) (b : Book) (s : State) : Step1 × State :=
  if b.ok then (.ok b.block 0, mapEntry t e 2 tile b.block v false s)
  else if b.reason = bookRetired then (.stop stBlockRetired 0, s)
  else if b.reason = bookLost then (.stop stUncorrectable 0, s)
  else if b.reason = 5 then (.stop stOk 5, s)
  else if b.reason = 6 then (.stop stRetry 6, s)
  else (.stop stBadFormat b.reason, s)

/-- Adopt a key of a tile's directory into an entry (R254). -/
def adoptOne (t e tile key v : Nat) (w : MapWait) (s : State) : Step1 × State :=
  if key = 0 then (.stop stBadFormat 0, s)
  else if (getEntry s t e).state ≠ 0 then (.stop stBadFormat 2, s)
  else if tile = t then
    let (b, s1) := adoptHere t key (mcPart v) s
    if b.ok then (.ok b.block 0, mapEntry t e 1 0 b.block v false s1) else mapReply t e t v b s1
  else match w.ans with
    | some b => mapReply t e tile v b s
    | none =>
      if w.asked then (.wait true, s)
      else (.wait true, ask { src := t, dst := tile, kind := 3, arg := key, part := mcPart v } s)

/-- A far block mapped or shared: ask its tile for one more reference. -/
def farRef (t e tile block v : Nat) (w : MapWait) (s : State) : Step1 × State :=
  match w.ans with
  | some b => mapReply t e tile v b s
  | none =>
    if w.asked then (.wait true, s)
    else (.wait true, ask { src := t, dst := tile, kind := 1, arg := block, part := mcPart v } s)

/-- The words of an entry, and of the descriptor of its block, are read: whether one is uncorrectable (R258). -/
def entryLost (t e : Nat) (s : State) : Bool × State :=
  let (bad, s1) := mapWords t e (entryWords e) s
  let x := getEntry s1 t e
  if bad then (true, s1)
  else if x.state = 1 ∨ x.state = 4 ∨ (x.state = 5 ∧ ¬ x.wasFar) then mapWords t x.block [poolWord x.block] s1
  else (false, s1)

/-- RELEASE writes the words of an entry, and of its block's descriptor, anew, so that it acts as if they were
good (DEDUCED from R258: it "rewrites the word"). -/
def releaseWords (t e : Nat) (s : State) : State :=
  storeWords t (poolWord (getEntry s t e).block :: entryWords e) s

/-- R256: the copies of a relocation are done: the new block takes the references of the old one. -/
def finishReloc (t e : Nat) (j : MapJob) (p : Nat) (s : State) : State :=
  let d := getPool s t j.src
  let s1 := setPool t j.src { d with refs := 0, forward := true, next := p }
    (setPool t p { getPool s t p with refs := d.refs + 1 } s)
  releasePending t e (dropRef t p (getEntry s t e).part (endJob t e s1))

/-- A relocation whose copies are all done ends. -/
def relocEnds (t e : Nat) (s : State) : State :=
  match jobOf s t e with
  | some j => match j.kind, j.dst with
    | .reloc, some p => if j.left = 0 then finishReloc t e j p s else s
    | _, _ => s
  | none => s

/-- RELOCATE (R256): it waits for the copies, and for a block. An entry of another tile's block is not relocated
from here (DESIGN CHOICE: reason 2). -/
def relocate (t e : Nat) (w : MapWait) (s0 : State) : Step1 × State :=
  let s := relocEnds t e s0
  let x := getEntry s t e
  let d := getPool s t x.block
  if w.asked then
    if (jobOf s t e).isSome then (.wait true, s)
    else if d.forward then (.ok d.next 0, s)
    else (.stop stRetry (if flag s t Obj.spillEnable then 1 else 7), s)
  else if x.state ≠ 5 ∨ x.wasFar ∨ d.pstate ≠ 2 ∨ d.forward then (.stop stBadFormat 2, s)
  else if mapHalted s t ∨ x.busy then (.wait false, s)
  else (.wait true, feedMap t (jobTake t e true
    (beginJob t { kind := .reloc, entry := e, src := x.block, started := s.time.elapsed } s)))

/-- An ADOPT of the key is on its way here: it is decided before an UNPUBLISH (R258). -/
def adoptComing (s : State) (t key part : Nat) : Bool :=
  s.queries.any (fun q => decide (q.dst = t ∧ q.kind = 3 ∧ q.arg = key ∧ q.part = part))

/-- Handle entry or record `i` of a command (Table 9.6), once the words it goes through are read. -/
def mapOp (t v i : Nat) (w : MapWait) (s : State) : Step1 × State :=
  let e := mcEntry v + i
  let x := getEntry s t e
  let wrong : Step1 × State := (.stop stBadFormat 2, s)
  match mcOp v with
  | 0x01 =>
    if x.state ≠ 0 then wrong
    else match takeTurn t s with
      | (some p, s1) => (.ok p 0, mapEntry t e 1 0 p v true (setPool t p { getPool s1 t p with refs := 1 } s1))
      | (none, s1) => (.wait false, s1)
  | 0x02 =>
    let (lost, s1) := entryLost t (mcOther v) (moveAll t (mcOther v) mapFuel s)
    let y := getEntry s1 t (mcOther v)
    if x.state ≠ 0 then wrong
    else if lost then (.stop stUncorrectable 0, s1)
    else if y.state = 2 then farRef t e y.tile y.block v w s1
    else if y.state ≠ 1 ∧ y.state ≠ 4 then (.stop stBadFormat 2, s1)
    else
      let d := getPool s1 t y.block
      if d.refs ≥ 65535 then (.stop stBadFormat 3, s1)
      else (.ok y.block 0, mapEntry t e 1 0 y.block v false (setPool t y.block { d with refs := d.refs + 1 } s1))
  | 0x03 =>
    if x.state = 0 then wrong
    else if x.busy then (.ok x.block 0, modMap t (fun m => { m with releases := m.releases ++ [e] }) s)
    else (.ok x.block 0, freeEntryOf t e s)
  | 0x04 => if x.state ≠ 1 then wrong else (.ok x.block 0, setEntry t e { x with state := 4 } s)
  | 0x05 => if x.state ≠ 4 then wrong else (.ok x.block 0, setEntry t e { x with state := 1 } s)
  | 0x06 => if x.state ≠ 0 then wrong else farRef t e (mcTile v) (mcBlock v) v w s
  | 0x07 => (.ok x.block 0, setEntry t e { x with home := mcArg v } s)
  | 0x08 =>
    if w.asked ∧ x.state = 3 then (.ok 0 0, s)
    else match w.ans with
      | some b => (.stop b.reason 0, s)
      | none =>
        if x.busy then (.wait w.asked, s)
        else if x.state ≠ 1 then wrong
        else if mapHalted s t then (.wait false, s)
        else if x.home = 0 then (.stop stBadFormat 4, s)
        else
          let s1 := feedMap t (startSpill t e false s)
          if (getEntry s1 t e).state = 3 then (.ok 0 0, s1) else (.wait true, s1)
  | 0x09 =>
    if x.state ≠ 1 ∧ x.state ≠ 4 then wrong
    else if (getPool s t x.block).refs ≥ 65535 then (.stop stBadFormat 3, s)
    else (.ok x.block 0, publish t (mcArg v) (mcPart v) x.block s)
  | 0x0A =>
    if adoptComing s t (mcArg v) (mcPart v) then (.wait false, s)
    else match findKey s t (mcArg v) (mcPart v) with
    | some k => (.ok (getWay s t k).block 0, clearWay t k s)
    | none => (.stop stOk 5, s)
  | 0x0B =>
    match findKey s t (mcArg v) (mcPart v) with
    | some k =>
      let p := (getWay s t k).block
      (.ok p (fld 16 6 t + p), hitWay t k s)
    | none => (.stop stOk 5, bump t Obj.prefixMisses 1 s)
  | 0x0C => adoptOne t e (mcTile v) (mcArg v) v w s
  | 0x0D =>
    let off := mcArg v + 16 * i
    let st := slateStatus s t off 16
    let s := slateScrub t off 16 s
    let r := slateNat s t off 16
    if st ≠ stOk then (.stop stUncorrectable 0, s)
    else if bits r 38 10 ≠ 0 ∨ bits r 0 32 ≠ 0 then (.stop stBadFormat 0, s)
    else adoptOne t (bits r 48 16) (bits r 32 6) (bits r 64 64) v w s
  | 0x0E =>
    (.ok x.block (if x.state = 1 ∨ x.state = 4 ∨ (x.state = 5 ∧ ¬ x.wasFar) then poolBits s t x.block else 0),
      setObj t Obj.mapEntryImage (entryBits x) s)
  | _ => relocate t e w s

/-- The words an operation goes through are read: those of its entry, save by RELEASE, which writes them, and of
the set of its key, save by PUBLISH (R258). -/
def opLost (t v i : Nat) (s : State) : Bool × State :=
  let op := mcOp v
  let e := mcEntry v + i
  let (bad, s1) := if mcUsesEntry op ∧ op ≠ 3 then entryLost t e s else (false, s)
  let (bad2, s2) := if op = 0x0A ∨ op = 0x0B then readSet t (mcArg v) s1 else (false, s1)
  (bad || bad2, s2)

/-- Handle entry or record `i` of a command. Its entry first follows its block (R256). -/
def mapOne (t v i : Nat) (w : MapWait) (s : State) : Step1 × State :=
  let e := mcEntry v + i
  let (bad, s1) := opLost t v i s
  if bad then (.stop stUncorrectable 0, s1)
  else
    let s2 := if mcOp v = 3 then releaseWords t e s1 else s1
    mapOp t v i w (if mcOp v = 9 then moveAll t e mapFuel s2 else s2)

/-! ## The whole command -/

/-- What a command came to: done, or waiting with the records handled. -/
inductive CmdOut where
  | finish (st reason done block detail : Nat)
  | wait (done : Nat) (asked : Bool) (block detail : Nat)
  deriving DecidableEq, Repr

/-- The entry of record `i` of an ADOPTLIST. -/
def listEntry (s : State) (t v i : Nat) : Nat := bits (slateNat s t (mcArg v + 16 * i) 16) 48 16

/-- A command stops. An ADOPTLIST that would take a reference count too far fails as a whole (R246): what it has
adopted is released again. -/
def mapStop (t v i st reason blk det : Nat) (s : State) : CmdOut × State :=
  if mcOp v = 0x0D ∧ reason = 3 then
    (.finish st reason 0 0 0, (List.range i).foldl (fun s k => freeEntryOf t (listEntry s t v k) s) s)
  else (.finish st reason i blk det, s)

/-- Entries from `i` on, in order; `n` of them are left. -/
def mapLoop (t v : Nat) : Nat → Nat → Nat → Nat → MapWait → State → CmdOut × State
  | 0, i, blk, det, _, s => (.finish stOk 0 i blk det, s)
  | n + 1, i, blk, det, w, s =>
    match mapOne t v i w s with
    | (.ok b d, s1) => mapLoop t v n (i + 1) b d { raw := v } s1
    | (.stop st r, s1) => mapStop t v i st r blk det s1
    | (.wait a, s1) => (.wait i a blk det, s1)

/-- Free blocks on all lists. -/
def freeCount (s : State) (t : Nat) : Nat := getObj s t Obj.freeBlocks

/-- R246: whether an ALLOC of `n` blocks goes on (some true), waits (some false), or fails. -/
def allocReady (s : State) (t n : Nat) : Option Bool :=
  let now := freeCount s t
  let soon := now + clearingBlocks s t + spillsRunning s t
  if n ≤ now then some true
  else if n ≤ soon + spillableCount s t then some false
  else none

/-- Victims are spilled until `n` blocks are free or will be (R249). -/
def allocSweep (t n : Nat) : Nat → State → State
  | 0, s => s
  | fuel + 1, s =>
    if n ≤ freeCount s t + clearingBlocks s t + spillsRunning s t then s
    else match spillSweep t s with
      | (true, s1) => allocSweep t n fuel s1
      | (false, s1) => s1

/-- Run a command from its record `w.done` on. -/
def mapRun (t : Nat) (w : MapWait) (s : State) : CmdOut × State :=
  let v := w.raw
  if ¬ mcOk s t v then (.finish stBadFormat 0 0 0 0, s)
  else
    let n := (if mcNoCount (mcOp v) then 1 else mcCount v) - w.done
    if mcOp v = 1 ∧ w.done = 0 then
      match allocReady s t n with
      | some true => mapLoop t v n 0 0 0 w s
      | some false =>
        let s1 := allocSweep t n n s
        if n ≤ freeCount s1 t then mapLoop t v n 0 0 0 w s1 else (.wait 0 false 0 0, feedMap t s1)
      | none => (.finish stRetry (if flag s t Obj.spillEnable then 1 else 7) 0 0 0, allocFailed t (mcEntry v) s)
    else mapLoop t v n w.done w.block w.detail w s

/-- MapResult (Table 9.7). -/
def setMapResult (t st reason done block detail : Nat) (s : State) : State :=
  setObj t Obj.mapResult (fld 64 64 detail + fld 48 16 done + fld 32 16 block + fld 8 8 reason + fld 0 8 st) s

/-- Run a command and keep it waiting or write its result. -/
def mapTry (t : Nat) (w : MapWait) (s : State) : State :=
  match mapRun t w (modMap t (fun m => { m with wait := none }) s) with
  | (.finish st r n b d, s1) => setMapResult t st r n b d s1
  | (.wait i a b d, s1) =>
    let w1 : MapWait := { raw := w.raw, done := i, asked := a, block := b, detail := d }
    modMap t (fun m => { m with wait := some w1 }) s1

/-- The command in progress looks again, and those behind it follow, outside Hold (R258). -/
def mapPump (t : Nat) : Nat → State → State
  | 0, s => s
  | fuel + 1, s =>
    if inHold s t then s
    else match (getMap s t).wait with
      | some w =>
        let s1 := mapTry t w s
        if (getMap s1 t).wait.isSome then s1 else mapPump t fuel s1
      | none => match (getMap s t).queue with
        | [] => s
        | v :: r => mapPump t fuel (mapTry t { raw := v } (modMap t (fun m => { m with queue := r }) s))

/-- After a job of the block map ends, that of entry `e` where one did: jobs that await a block try to take one,
held requests resolve, then the waiting commands look again (R248, R258). -/
def mapWakeFor (t : Nat) (e : Option Nat) (s : State) : State := feedMap t (mapPump t 64 (wakeHeld t e (jobsTake t s)))
def mapWake (t : Nat) (s : State) : State := mapWakeFor t none s

/-- A write of MapCommand: commands are handled one at a time in the order written. -/
def writeMapCommand (t v : Nat) (s : State) : State :=
  answer stOk (feedMap t (mapPump t 64 (modMap t (fun m => { m with queue := m.queue ++ [v] }) s)))

/-- The command word with an operation code. -/
def withMapOp (v : BitVec 256) (op : Nat) : Nat := v.toNat / 256 * 256 + op

def execAlloc (t : TileN) (v : BitVec 256) (s : State) : Res := run (writeMapCommand t.val (withMapOp v 0x01)) s
def execShare (t : TileN) (v : BitVec 256) (s : State) : Res := run (writeMapCommand t.val (withMapOp v 0x02)) s
def execRelease (t : TileN) (v : BitVec 256) (s : State) : Res := run (writeMapCommand t.val (withMapOp v 0x03)) s
def execPin (t : TileN) (v : BitVec 256) (s : State) : Res := run (writeMapCommand t.val (withMapOp v 0x04)) s
def execUnpin (t : TileN) (v : BitVec 256) (s : State) : Res := run (writeMapCommand t.val (withMapOp v 0x05)) s
def execFarmap (t : TileN) (v : BitVec 256) (s : State) : Res := run (writeMapCommand t.val (withMapOp v 0x06)) s
def execSethome (t : TileN) (v : BitVec 256) (s : State) : Res := run (writeMapCommand t.val (withMapOp v 0x07)) s
def execSpill (t : TileN) (v : BitVec 256) (s : State) : Res := run (writeMapCommand t.val (withMapOp v 0x08)) s
def execPublish (t : TileN) (v : BitVec 256) (s : State) : Res := run (writeMapCommand t.val (withMapOp v 0x09)) s
def execUnpublish (t : TileN) (v : BitVec 256) (s : State) : Res := run (writeMapCommand t.val (withMapOp v 0x0A)) s
def execLookup (t : TileN) (v : BitVec 256) (s : State) : Res := run (writeMapCommand t.val (withMapOp v 0x0B)) s
def execAdopt (t : TileN) (v : BitVec 256) (s : State) : Res := run (writeMapCommand t.val (withMapOp v 0x0C)) s
def execAdoptlist (t : TileN) (v : BitVec 256) (s : State) : Res := run (writeMapCommand t.val (withMapOp v 0x0D)) s
def execMapRead (t : TileN) (v : BitVec 256) (s : State) : Res := run (writeMapCommand t.val (withMapOp v 0x0E)) s
def execRelocate (t : TileN) (v : BitVec 256) (s : State) : Res := run (writeMapCommand t.val (withMapOp v 0x0F)) s

/-! ## The ends of jobs -/

/-- R248 step 4: the copies are done and the entry goes private. -/
def finishCow (t e : Nat) (j : MapJob) (p : Nat) (s : State) : State :=
  let g := poolG s t
  let s1 := bump t Obj.cowBlocks 1 (bump t Obj.cowInBankRows j.rows (bump t Obj.cowBounceRows (g - j.rows)
    (countEv t 0x0041 0 g s)))
  let s2 := endJob t e s1
  let x := getEntry s2 t e
  let s3 := setPool t p { getPool s2 t p with refs := 1 } s2
  let s4 := match j.far with
    | some u => ask { src := t, dst := u, kind := 2, arg := j.src, part := x.part } s3
    | none => dropRef t (finalBlock s3 t mapFuel j.src) x.part s3
  let s5 := setEntry t e { getEntry s4 t e with
    block := p, dirty := true, tile := 0, state := if x.state = 4 then 4 else 1 } s4
  mapWakeFor t (some e) (releasePending t e s5)

/-- COPY_ON_WRITE_COMPLETE (R248, R256): every copy of an entry's job is done. -/
def cowComplete (t e : Nat) (s : State) : State :=
  match jobOf s t e with
  | none => s
  | some j =>
    match j.kind, j.dst with
    | .cow, some p => if j.left ≠ 0 then s else finishCow t e j p s
    | .reloc, some _ => if j.left ≠ 0 then s else mapWakeFor t (some e) (relocEnds t e s)
    | _, _ => s

def execCopyOnWriteComplete (t : TileN) (entry : BitVec 16) (s : State) : Res := run (cowComplete t.val entry.toNat) s

/-! ## The responses to the block map's requests -/

/-- The bytes that a response delivers bad: all of them where it delivers none (R57). -/
def replyBad (x : Reply) : Nat :=
  if x.status = stOk ∨ x.status = stUncorrectable ∨ x.status = stPoisoned then x.pois else 2 ^ 2048 - 1

/-- One response: a granule read over the mesh is written here (R248), one of a spill goes to the next level
(R250), a write ends its granule. One answered RETRY is sent again at once (DESIGN CHOICE: the spec gives the block
map no wait). -/
def mapReply1 (t : Nat) (x : Reply) (s : State) : State :=
  match (getMap s t).jobs.find? (fun j => j.id = x.tag / 256) with
  | none => s
  | some j =>
    let i := x.tag % 256
    let part := (getEntry s t j.entry).part
    let again := decide (x.status = stRetry)
    let pass := j.cause.pass.isSome
    let write := fun (p data pois : Nat) (s : State) => mapWork t pass
      [.req { mapRequest t j.id i (devAddr t (blockByte s t p (2048 * i))) true part j.cause.cls pass with
        data := data, pois := pois }] s
    let read := fun (u cls : Nat) (s : State) => mapWork t false
      [.req (mapRequest t j.id i (devAddr u (blockByte s u j.src (2048 * i))) false part cls false)] s
    match x.write, j.kind, j.dst with
    | true, _, some p => if again then write p x.data x.pois s else jobDone t j.id false s
    | false, .cow, some p => match j.far with
      | some u => if again then read u j.cause.cls s else write p x.data (replyBad x) s
      | none => s
    | false, .spill, _ =>
      if again then read t (rangeClass s t (blockByte s t j.src (2048 * i))) s
      else jobDone t j.id false (modJob t j.entry (fun j => { j with started := s.time.elapsed })
        (sendHome t j.entry i true x.data (replyBad x) s))
    | _, _, _ => s

/-- The block map of a tile takes the responses to its requests. -/
def mapReplies (t : Nat) (s : State) : State :=
  match fget [] s.replies (t * 256 + 0x60) with
  | [] => s
  | l => feedMap t (l.foldl (fun s x => mapReply1 t x s) { s with replies := fset [] s.replies (t * 256 + 0x60) [] })

/-- RESPONSE_OFFER (R67). -/
def execResponseOffer (t : TileN) (id : Nat) (s : State) : Res :=
  run (fun s => mapReplies t.val (offerResponse t.val id s)) s

/-- FAR_RESPONSE_ARRIVAL (R14). -/
def execFarResponseArrival (t owner : TileN) (s : State) : Res :=
  run (fun s => mapReplies t.val (farResponse t.val owner.val s)) s

/-! ## Fills and spills -/

/-- A block that a job took and did not use returns to clearing (R252); a retired one stays retired. -/
def toClearing (t p part : Nat) (s : State) : State :=
  let d := getPool s t p
  if d.pstate = 2 then setPool t p { d with refs := 0 } s
  else dropRef t p part (setPool t p { d with refs := 1, pstate := 1 } s)

/-- The failure of a fill or a spill (R252): bell 9 and LastMapEvent. -/
def mapFailed (t e st : Nat) (s : State) : State := ring t 9 (mapEvent t 2 e st s)

/-- R252: a fill is undone; its held requests complete with the status. -/
def undoFill (t e : Nat) (dst : Option Nat) (st : Nat) (s : State) : State :=
  let s0 := endJob t e s
  let s1 := match dst with
    | some p => toClearing t p (getEntry s t e).part s0
    | none => s0
  mapWake t (releasePending t e (mapFailed t e st (failHeld t (fun r => decide (r.entry = e)) st 0 s1)))

/-- A spill ends with its entry NEAR and dirty; a SPILL command that waits for it has its answer. -/
def spillBack (t e st : Nat) (s : State) : State :=
  let s1 := endJob t e s
  let s2 := setEntry t e { getEntry s1 t e with state := 1, dirty := true } s1
  let b : Book := { src := t, dst := t, kind := 0, arg := e, reason := st }
  modMap t (fun m => { m with wait := m.wait.map (fun w =>
    if mcOp w.raw = 8 ∧ w.asked ∧ mcEntry w.raw + w.done = e then { w with ans := some b } else w) }) s2

/-- R252: a spill is undone. -/
def undoSpill (t e st : Nat) (s : State) : State :=
  mapWake t (releasePending t e (mapFailed t e st (spillBack t e st s)))

/-- R251: the home's data have arrived, and are written into the block as requests of the block map. -/
def writeFill (t e : Nat) (j : MapJob) (p : Nat) (data : List Nat) (s : State) : State :=
  let part := (getEntry s t e).part
  let items := (chunksOf 2048 (poolG s t) data).foldl (fun (acc : Nat × List MapItem) c =>
    let o := blockByte s t p (2048 * acc.1)
    (acc.1 + 1, acc.2 ++ [.req { mapRequest t j.id acc.1 (devAddr t o) true part (rangeClass s t o) false with
      data := leNat c }])) (0, [])
  feedMap t (mapWork t false items.2 (modJob t e (fun j => { j with ready := true })
    (portCount t 4 false data.length s)))

/-- R251 step 4: the block is filled. -/
def finishFill (t e p : Nat) (s : State) : State :=
  let s1 := endJob t e s
  let s2 := setPool t p { getPool s1 t p with refs := 1 } s1
  let s3 := countEv t 0x0042 0 1 <| bump t Obj.fills 1 (setEntry t e { getEntry s2 t e with
    state := 1, dirty := false, block := p, tile := 0 } s2)
  mapWakeFor t (some e) (releasePending t e s3)

/-- FILL_COMPLETE (R251, R252): the next level's answer, with all of the home's bytes, which are written into the
block; then, once they are written, the end of the fill. -/
def fillComplete (t e st : Nat) (data : List Nat) (s : State) : State :=
  match jobOf s t e with
  | none => s
  | some j =>
    match j.kind, j.dst with
    | .fill, some p =>
      if j.ready then (if j.left = 0 then finishFill t e p s else s)
      else if st ≠ stOk then undoFill t e (some p) st s
      else if data.length = blockBytes s t then writeFill t e j p data s
      else s
    | _, _ => s

def execFillComplete (t : TileN) (entry : BitVec 16) (status : BitVec 8) (data : List Byte) (s : State) : Res :=
  run (fillComplete t.val entry.toNat status.toNat (byteNats data)) s

/-- SPILL_COMPLETE (R250, R252): the next level has answered every write of a spill, or one with another status. -/
def spillComplete (t e st : Nat) (s : State) : State :=
  match jobOf s t e with
  | none => s
  | some j =>
    if j.kind ≠ .spill then s
    else if st ≠ stOk then undoSpill t e st s
    else if j.left = 0 then mapWake t (finishSpill t e s) else s

def execSpillComplete (t : TileN) (entry : BitVec 16) (status : BitVec 8) (s : State) : Res :=
  run (spillComplete t.val entry.toNat status.toNat) s

/-- NEXT_LEVEL_TIMEOUT (R252): what was sent last is unanswered within NextLevelTimeout. -/
def nextLevelTimeout (t e : Nat) (s : State) : State :=
  match jobOf s t e with
  | none => s
  | some j =>
    if s.time.elapsed - j.started < getObj s t Obj.nextLevelTimeout * 1000000 then s
    else match j.kind with
      | .fill => if j.dst.isSome ∧ ¬ j.ready then undoFill t e j.dst stRetry s else s
      | .spill => if j.left < poolG s t then undoSpill t e stRetry s else s
      | _ => s

def execNextLevelTimeout (t : TileN) (entry : BitVec 16) (s : State) : Res := run (nextLevelTimeout t.val entry.toNat) s

/-- BLOCK_CLEAR_COMPLETE (R247, R258): a clearing block has every granule filled and joins its free list; of one
not touched since the pool was rebuilt, the clearing begins. -/
def clearComplete (t p : Nat) (s : State) : State :=
  let d := getPool s t p
  if p ≥ poolSize s t ∨ pstateOf s t p ≠ 3 ∨ d.left > 1 then s
  else if d.left = 0 then
    if mapHalted s t then s
    else feedMap t (queueFills t p (setPool t p { d with pstate := 3, left := poolG s t + 1 } s))
  else mapWake t (bump t Obj.freeBlocks 1 (bump t Obj.blocksCleared 1 (setPool t p { pstate := 0 } s)))

def execBlockClearComplete (t : TileN) (block : BitVec 16) (s : State) : Res := run (clearComplete t.val block.toNat) s

/-! ## Pool configuration (R235) -/

/-- The three objects: 0 BlockSize, 1 PoolFirstBand, 2 PoolBands. -/
def poolObj (which : Nat) : Nat :=
  if which = 0 then Obj.blockSize else if which = 1 then Obj.poolFirstBand else Obj.poolBands

/-- Fills under way clear no block of the new pool. -/
def forgetClears (t : Nat) (s : State) : State :=
  let drop := fun (a : Acc) => match a.job with | .clear _ => { a with job := .none } | _ => a
  let s1 := forChans (fun c s => modQueue t c (fun q => { q with wq := q.wq.map drop }) s) s
  modSched t (fun x => { x with mapBest := { x.mapBest with
    head := x.mapBest.head.map (fun h => (h.1, drop h.2))
    behind := x.mapBest.behind.map (fun i => match i with | .acc c a => .acc c (drop a) | i => i) } }) s1

/-- POOL_CONFIG_WRITE (R235): refused while an entry is not FREE, or outside the bands. -/
def writePoolConfig (t which v : Nat) (s : State) : State :=
  let k := poolObj which
  if ¬ inRange k v then answer stBadFormat s
  else if s.entry.any (fun e => e.1 / 65536 = t ∧ e.2.state ≠ 0) then answer stRetry s
  else
    let s1 := setObj t k v s
    if getObj s1 t Obj.poolFirstBand + getObj s1 t Obj.poolBands > 16 then answer stBadFormat s
    else rebuildPool t (forgetClears t (storeRws t k v s))

def execPoolConfigWrite (t : TileN) (which : Fin 3) (v : BitVec 8) (s : State) : Res :=
  run (writePoolConfig t.val which.val v.toNat) s

/-! ## Queries from other tiles (R415, kind 4) -/

/-- What tile `q.dst` makes of a block map query: 1 one more reference, 2 one less, 3 a lookup to adopt. -/
def mapQuery (q : Book) (s : State) : Option Book × State :=
  let u := q.dst
  let reply := fun (b : Book) (s : State) => (some { b with src := u, dst := q.src, part := q.part }, mapWake u s)
  if q.kind = 1 then
    let (b, s1) := farMapHere u q.arg s
    reply b s1
  else if q.kind = 2 then (none, mapWake u (dropRef u (finalBlock s u mapFuel q.arg) q.part s))
  else
    let (b, s1) := adoptHere u q.arg q.part s
    reply b s1

/-- The answer reaches the command that waits for it. -/
def mapAnswer (b : Book) (s : State) : State :=
  mapPump b.dst 64 (modMap b.dst (fun m => { m with wait := m.wait.map (fun w =>
    if w.asked then { w with ans := some b } else w) }) s)

end Sys2Proof.Machine
end

