-- ==== Sys2Proof/Machine/Mover.lean ====
section
/-! DEFINITION. Writing the Slate, and the requests of mover channels (R208, R217, R223, R241): each goes to its
scheduler, its gateway, its block map or the Slate, and its response comes back by a tag. -/

namespace Sys2Proof.Machine

open Sys2Proof

/-! ## The Slate (R152) -/

/-- Bytes of the Slate. -/
abbrev slateSize : Nat := 0x800000

/-- Write the bytes of a range of the Slate. -/
def slateBytes (t off : Nat) : Nat → Nat → State → State
  | 0, _, s => s
  | n + 1, data, s =>
    slateBytes t (off + 1) n (data / 256) { s with slate := fset 0 s.slate (t * 2 ^ 23 + off) (data % 256) }

/-- The words of a range that is to be written: one wholly written is stored afresh, one partly written is read
first (R260). -/
def slateTouch (t off n : Nat) (s : State) : State :=
  if n = 0 ∨ s.sramErr = [] then s
  else (sramChanged s t sramSlate (off / 8) ((off + n - 1) / 8 + 1)).foldl (fun s w =>
    if off ≤ 8 * w ∧ 8 * w + 8 ≤ off + n then sramStore t sramSlate w s else slateReadWord t w s) s

/-- Mark the words of a written range: one wholly written takes the poison of its new bytes `bad`, one partly
written keeps its own (R88). -/
def slateMark (t off n bad : Nat) (s : State) : State :=
  (List.range (if n = 0 then 0 else (off + n - 1) / 8 - off / 8 + 1)).foldl (fun s i =>
    let w := off / 8 + i
    let lo := max off (w * 8) - off
    let hi := min (off + n) (w * 8 + 8) - off
    let newBad := decide (bad / 2 ^ lo % 2 ^ (hi - lo) ≠ 0)
    let old := fget false s.slatePois (t * 2 ^ 20 + w)
    let v := newBad || (old && decide (hi - lo < 8))
    { s with slatePois := fset false s.slatePois (t * 2 ^ 20 + w) v }) s

/-- Write a range of the Slate; `bad` marks the bytes of poisoned words. -/
def slateWrite (t off n data bad : Nat) (s : State) : State :=
  slateMark t off n bad (slateBytes t off n data (slateTouch t off n s))

/-! ## Address operands (Table 8.4) -/

def adSpace (a : Nat) : Nat := bits a 46 2
def adLow (a : Nat) : Nat := a % 2 ^ 40

/-- The address is well formed. -/
def adOk (a : Nat) : Bool :=
  decide (adSpace a < 3) && decide (bits a 40 6 = 0) && (decide (adSpace a ≠ 2) || decide (adLow a < slateSize))

/-- The address and `n` bytes from it stay in their space. -/
def adRange (a n : Nat) : Bool :=
  adOk a && decide (adLow a + n ≤ (if adSpace a = 2 then slateSize else 2 ^ 40))

/-- The address `n` bytes further on. -/
def adPlus (a n : Nat) : Nat := a / 2 ^ 40 * 2 ^ 40 + (adLow a + n) % 2 ^ 40

/-! ## Cutting a transfer (R223) -/

/-- The largest request of a pass at the tile an address names, or 2,048. -/
def requestMax (s : State) (po : Option Nat) (addr : Nat) : Nat :=
  match po with
  | some p =>
    let c := cLargest (getPass s (addrTile addr) p).terms
    if adSpace addr = 2 ∨ c = 0 then 2048 else min 2048 c
  | none => 2048

/-- Bytes of the next request from an address of which `n` are left: none crosses a 2,048-byte boundary. -/
def requestLen (s : State) (po : Option Nat) (addr n : Nat) : Nat :=
  max 1 (min n (min (requestMax s po addr) (2048 - adLow addr % 2048)))

/-- The requests that cover `n` bytes from an address: (address, offset in the range, bytes). -/
def cutRange (s : State) (po : Option Nat) : Nat → Nat → Nat → Nat → List (Nat × Nat × Nat)
  | 0, _, _, _ => []
  | fuel + 1, a, off, n =>
    if n = 0 then []
    else
      let k := requestLen s po a n
      (a, off, k) :: cutRange s po fuel (adPlus a k) (off + k) (n - k)

/-! ## Operations of a channel -/

/-- Put an operation at the end of a channel's list. -/
def addOp (t m : Nat) (o : MoverOp) (s : State) : State :=
  modMover t m (fun x => { ops := x.ops ++ [{ o with tag := x.nextTag }], nextTag := x.nextTag + 1 }) s

/-- Change the operation with a tag; drop those that satisfy `p`. -/
def modOp (t m tag : Nat) (f : MoverOp → MoverOp) (s : State) : State :=
  modMover t m (fun x => { x with ops := x.ops.map (fun o => if o.tag = tag then f o else o) }) s
def dropOps (t m : Nat) (p : MoverOp → Bool) (s : State) : State :=
  modMover t m (fun x => { x with ops := x.ops.filter (fun o => !p o) }) s

/-- It waits for its response, is sent again later, has its response. -/
def opOut (o : MoverOp) : Bool := match o.at_ with | .out => true | _ => false
def opRetry (o : MoverOp) : Bool := match o.at_ with | .retry _ => true | _ => false
def opDone (o : MoverOp) : Bool := match o.at_ with | .done _ => true | _ => false
def opUnsent (o : MoverOp) : Bool := o.at_ == .unsent

/-- The status of a response; OK for an operation without one. -/
def opStatus (o : MoverOp) : Nat := match o.at_ with | .done st => st | _ => stOk

/-- Requests outstanding of a channel, at most 64 (R208). -/
def outstanding (x : MoverS) : Nat := (x.ops.filter (fun o => opOut o || opRetry o)).length

/-- It belongs to the mover descriptor in progress. -/
def opTransfer (o : MoverOp) : Bool :=
  match o.use with
  | .src | .aux | .book | .dst => true
  | _ => false

/-! ## Sending (R217, R241) -/

/-- The request of an operation, for a device address. -/
def opReq (s : State) (t m addr : Nat) (o : MoverOp) : Req :=
  { id := 0, requester := 0x10 + m, orig := 0x10 + m, source := t, tag := o.tag, addr := addr, len := o.len, write := o.write
    passNo := o.pass, barrier := o.use == .barrier, accepted := s.time.elapsed, stamp := s.time.timeBase
    data := o.data, pois := o.pois }

/-- A request that is numbered in its own tile and goes on from there: to another tile, or as the barrier of a
FENCE, which has no bytes (DESIGN CHOICE: R228 gives it none). -/
def sendNumbered (t : Nat) (r : Req) (s : State) : State :=
  let (o, s1) := newOrder t s
  let (i, s2) := newId t s1
  let r1 := { r with id := i, order := o }
  proceed t r1 (addReq t r1 s2)

/-- A space-1 request goes to the block map of tile `u` (R241). -/
def sendMapped (t u e off part : Nat) (canWrite : Bool) (r : Req) (s : State) : State :=
  let (o, s1) := newOrder t s
  let r1 := { r with srcOrder := o }
  if u = t then modMap t (fun x => { x with input := x.input ++ [⟨r1, e, off, part, canWrite⟩] }) s1
  else
    let s2 := if r.passNo.isNone then meterToken t gatewayToken (linkFraction s1 t) s1 else s1
    let x : FarReq :=
      { src := t, dst := u, kind := .mapped e off part canWrite, origin := t, orig := r.orig, tag := r.tag, addr := 0
        len := r.len, write := r.write, barrier := false, passNo := r.passNo, data := r.data, pois := r.pois
        accepted := r.accepted, stamp := r.stamp, srcOrder := o }
    portCount t 4 true (if r.write then r.len else 0) (holdFar u r.passNo { s2 with farReqs := s2.farReqs ++ [x] })

/-- What a request of the Slate does, at once: its response. -/
def slateOp (t : Nat) (o : MoverOp) (s : State) : Reply × State :=
  let off := adLow o.addr
  if o.write then
    ({ tag := o.tag, status := stOk, write := true }, slateWrite t off o.len o.data o.pois s)
  else
    let s1 := slateScrub t off o.len s
    ({ tag := o.tag, status := slateStatus s t off o.len, write := false, data := slateNat s1 t off o.len
       pois := slatePoisMask s1 t off o.len }, s1)

/-- A mover issues no request in Hold, in a trip, in bring-up or in a reset of its tile (R92, R233, R382). -/
def moverShut (s : State) (t : Nat) : Bool := inHold s t || tripped s || starting s || inReset s t

/-- The operation can leave: the ingress FIFO of its requester does not wait (R70), and a best-effort request to
another tile has its token (R315). -/
def canSend (s : State) (t m : Nat) (o : MoverOp) : Bool :=
  !moverShut s t && (decide (adSpace o.addr = 2) ||
    (!fifoWaits s t (0x10 + m) o.pass.isSome
      && (o.pass.isSome || decide (addrTile o.addr = t) || !tokenHeld s t gatewayToken)))

/-- An operation is sent; one that needs no other part of the tile is answered at once. -/
def sendOp (t m : Nat) (o : MoverOp) (s0 : State) : Option Reply × State :=
  let s := modOp t m o.tag (fun o => { o with at_ := .out, sends := o.sends + 1 }) s0
  if o.use = .barrier then (none, sendNumbered t { opReq s t m (devAddr t 0) o with len := 0 } s)
  else if adSpace o.addr = 2 then
    let (x, s1) := slateOp t o s
    (some x, s1)
  else
    let u := addrTile o.addr
    if adSpace o.addr = 0 then
      let r := opReq s t m (adLow o.addr) o
      (none, if u = t then acceptReq t r s else sendNumbered t r s)
    else
      let v := getObj s t (Obj.mapWindow + m)
      match windowEntry s v o.addr with
      | none => (some { tag := o.tag, status := stDecodeError, write := o.write }, s)
      | some (e, off) => (none, sendMapped t u e off (mwPart v) (mwWrite v) (opReq s t m 0 o) s)

/-- The oldest response to a mover channel that satisfies `p`. -/
def takeReply (t m : Nat) (p : Reply → Bool) (s : State) : Option Reply × State :=
  let l := fget [] s.replies (t * 256 + (0x10 + m))
  match l.find? p with
  | none => (none, s)
  | some x => (some x, { s with replies := fset [] s.replies (t * 256 + (0x10 + m)) (removeFirst p l) })

end Sys2Proof.Machine
end

