-- ==== Sys2Proof/Machine/Descriptor.lean ====
section
/-! DEFINITION. Descriptors: the fields of Tables 8.3 and 8.5 to 8.13, and the checks made before one
starts (R216, R219, R220, R222, R224). -/

namespace Sys2Proof.Machine

open Sys2Proof

/-! ## Header (Table 8.3) -/

def dOp (r : Nat) : Nat := bits r 0 8
def dRecord (r : Nat) : Bool := bit r 8
def dStop (r : Nat) : Bool := bit r 9
def dSerial (r : Nat) : Bool := bit r 10
def dPassValid (r : Nat) : Bool := bit r 31
def dPass (r : Nat) : Option Nat := if bit r 31 then some (bits r 32 8) else none
def dMoverB (r : Nat) : Bool := bit r 40
def dTag (r : Nat) : Nat := bits r 48 16

/-- The opcode uses a mover channel (Table 8.2). -/
def usesMover (op : Nat) : Bool := op = 1 || (decide (5 ≤ op) && decide (op ≤ 7))

/-- The mover channel of a descriptor of engine `e` (R208). -/
def moverOf (e r : Nat) : Nat := 2 * e + b2n (dMoverB r)

def headerOk (r : Nat) : Bool :=
  decide (bits r 41 7 = 0 ∧ bits r 11 20 = 0) && (usesMover (dOp r) || decide (bits r 31 9 = 0))

/-- Bits from `lo` on are zero. -/
def restZero (r lo : Nat) : Bool := decide (r % 2 ^ 512 / 2 ^ lo = 0)

/-! ## LOADW (Table 8.5) -/

def lwSrc (r : Nat) : Nat := bits r 64 48
def lwK (r : Nat) : Nat := bits r 112 9
def lwN (r : Nat) : Nat := bits r 121 8
def lwFmt (r : Nat) : Nat := bits r 129 4
def lwScheme (r : Nat) : Nat := bits r 133 2
def lwRecipe (r : Nat) : Nat := bits r 135 3

/-- The element format of a plane: a plane of the binary32 recipe holds bfloat16 (R165). -/
def planeFmt (wfmt : Nat) : Nat := if wfmt = 0xC then 0xB else wfmt

/-- The format is a codebook format. -/
def isBook (fmt : Nat) : Bool := fmt = 0xE || fmt = 0xF

/-- R193: row stride, offset of the scales, offset of the codebook, size of an image. -/
def imgStride (n wfmt : Nat) : Nat := ceilDiv (n * fmtBits (planeFmt wfmt)) 128 * 16
def imgScales (k n wfmt : Nat) : Nat := ceilDiv (k * imgStride n wfmt) 32 * 32
def imgBook (k n wfmt scheme : Nat) : Nat :=
  imgScales k n wfmt + (if scheme = 0 then 0 else ceilDiv k (blockSize scheme) * 128)
def imgBytes (k n wfmt scheme : Nat) : Nat := imgBook k n wfmt scheme + (if isBook wfmt then 32 else 0)

/-- Formats that may be weights, activations (Table 7.1); binary32 only in its recipe. -/
def weightOk (fmt recipe : Nat) : Bool :=
  if 1 ≤ recipe ∧ recipe ≤ 3 then fmt = 0xB || fmt = 0xC
  else [1, 2, 3, 4, 5, 6, 7, 8, 0xA, 0xB, 0xE, 0xF].contains fmt
def actOk (fmt recipe : Nat) : Bool :=
  if 1 ≤ recipe ∧ recipe ≤ 3 then fmt = 0xC else [1, 2, 3, 4, 5, 6, 7, 8, 0xA, 0xB].contains fmt

def loadwOk (e r : Nat) : Bool :=
  decide (e < 4) && restZero r 138 && decide (lwRecipe r ≠ 7 ∧ lwScheme r ≠ 3)
    && weightOk (lwFmt r) (lwRecipe r) && decide (1 ≤ lwN r ∧ lwN r ≤ 128 ∧ lwK r ≤ 256)
    && decide (adLow (lwSrc r) % 32 = 0) && adRange (lwSrc r) (imgBytes (lwK r) (lwN r) (lwFmt r) (lwScheme r))

/-! ## STREAM (Table 8.6) -/

def stSrc (r : Nat) : Nat := bits r 64 23
def stStride (r : Nat) : Nat := bits r 87 16
def stM (r : Nat) : Nat := bits r 103 32
def stA0 (r : Nat) : Nat := bits r 135 9
def stFmt (r : Nat) : Nat := bits r 144 4
def stScheme (r : Nat) : Nat := bits r 148 2
def stInit (r : Nat) : Nat := bits r 150 2
def stFused (r : Nat) : Bool := bit r 152
def stRecipe (r : Nat) : Nat := bits r 153 3
def stBias (r : Nat) : Nat := bits r 156 23
def stSrc2 (r : Nat) : Nat := bits r 179 23
def stDst (r : Nat) : Nat := bits r 202 23
def stDstStride (r : Nat) : Nat := bits r 225 16
def stOfmt (r : Nat) : Nat := bits r 241 4
def stCtrl (r : Nat) : Nat := bits r 245 2
def stOscheme (r : Nat) : Nat := bits r 247 2

/-- Rows of the Inkwell a group of M rows uses; a complex group has three ranges (R166). -/
def groupRows (recipe m : Nat) : Nat := if recipe ≥ 4 then 3 * m else m

/-- The checks of a STREAM alone (R219). A fused one runs no recipe (DESIGN CHOICE: the passes of a recipe are
several STREAMs into one group, R165 and R166, and a fused group has one, R159). -/
def streamOk (e r : Nat) : Bool :=
  if e ≥ 4 then false
  else if stInit r = 3 then decide (r % 2 ^ 512 / 2 ^ 64 = 3 * 2 ^ 86)
  else
    restZero r 249 && (stFused r || decide (bits r 202 47 = 0))
      && (decide (stRecipe r = 4) || decide (stSrc2 r = 0)) && (decide (stInit r = 2) || decide (stBias r = 0))
      && decide (stRecipe r ≠ 7 ∧ stScheme r ≠ 3) && actOk (stFmt r) (stRecipe r)
      && (stFused r || decide (stA0 r + groupRows (stRecipe r) (stM r) ≤ 512))
      && (!stFused r || decide (stInit r ≠ 0 ∧ stRecipe r = 0 ∧ stOscheme r ≠ 3))
      && decide (stStride r % 32 = 0 ∧ stSrc r % 32 = 0 ∧ stSrc2 r % 32 = 0 ∧ stBias r % 32 = 0)
      && decide (stDst r % 32 = 0 ∧ stDstStride r % 32 = 0)
      && (decide (stInit r ≠ 2) || decide (stBias r + 512 ≤ slateSize))

/-! ## DRAIN (Table 8.7) -/

def drA0 (r : Nat) : Nat := bits r 64 9
def drRows (r : Nat) : Nat := bits r 73 10
def drDst (r : Nat) : Nat := bits r 83 23
def drStride (r : Nat) : Nat := bits r 106 23
def drOfmt (r : Nat) : Nat := bits r 129 4
def drCtrl (r : Nat) : Nat := bits r 133 2
def drOscheme (r : Nat) : Nat := bits r 135 2
def drComplex (r : Nat) : Bool := bit r 137
def drDst2 (r : Nat) : Nat := bits r 138 23
def drKeep (r : Nat) : Bool := bit r 161

def drainOk (e r : Nat) : Bool :=
  decide (e < 4) && restZero r 162 && decide (1 ≤ drRows r ∧ drRows r ≤ 512)
    && (if drKeep r then decide (bits r 83 78 = 0)
        else decide (drDst r % 32 = 0 ∧ drStride r % 32 = 0 ∧ drDst2 r % 32 = 0 ∧ drOscheme r ≠ 3)
          && (drComplex r || decide (drDst2 r = 0)))

/-! ## VOP (Table 8.8) -/

def voCode (r : Nat) : Nat := bits r 64 4
def voKind (r : Nat) : Nat := bits r 68 2
def voSrc (r : Nat) : Nat := bits r 70 23
def voSrc2 (r : Nat) : Nat := bits r 93 23
def voSrc3 (r : Nat) : Nat := bits r 116 23
def voDst (r : Nat) : Nat := bits r 139 23
def voState (r : Nat) : Nat := bits r 162 23
def voRows (r : Nat) : Nat := bits r 185 12
def voLen (r : Nat) : Nat := bits r 197 20
def voSstride (r : Nat) : Nat := bits r 217 23
def voDstride (r : Nat) : Nat := bits r 240 23
def voIfmt (r : Nat) : Nat := bits r 263 4
def voOfmt (r : Nat) : Nat := bits r 267 4
def voCtrl (r : Nat) : Nat := bits r 271 2
def voOscheme (r : Nat) : Nat := bits r 273 2
def voK (r : Nat) : Nat := bits r 275 7
def voAvec (r : Nat) : Bool := bit r 282
def voBvec (r : Nat) : Bool := bit r 283
def voImmA (r : Nat) : Nat := bits r 284 32
def voImmB (r : Nat) : Nat := bits r 316 32

/-- Elements of an output row (Table 8.9). -/
def voOutLen (r : Nat) : Nat :=
  if voCode r = 3 ∨ voCode r = 5 then 1 else if voCode r = 8 then 0 else voLen r

/-- Rows at a stride lie in the Slate. -/
def rowsFit (base rows stride n : Nat) : Bool :=
  decide (rows = 0 ∨ base + (rows - 1) * stride + n ≤ slateSize)

/-- R222: an Inkwell source is among the rows of the most recently closed group (R221), which for a fused one
run on modulo 512 (R159). -/
def inkSourceOk (s : State) (t r : Nat) : Bool :=
  let a := bits (voSrc r) 21 2
  let first := bits (voSrc r) 0 9
  match (getArray s t a).closed with
  | some (lo, n) => decide (first + voRows r ≤ 512 ∧ (n = 512 ∨ (first + 512 - lo) % 512 + voRows r ≤ n))
  | none => false

def vopOk (s : State) (t r : Nat) : Bool :=
  let c := voCode r
  let inRow := rowBytes (voLen r) (if voKind r = 1 then 0xC else voIfmt r) 0
  decide (1 ≤ c ∧ c ≤ 9) && restZero r 348 && decide (voKind r ≤ 1) && decide (1 ≤ voRows r ∧ 1 ≤ voLen r)
    && decide (voDstride r % 32 = 0 ∧ voSstride r % 32 = 0 ∧ voDst r % 32 = 0 ∧ voOscheme r ≠ 3)
    && (if voKind r = 1 then
          decide (voLen r ≤ 128 ∧ voIfmt r = 0 ∧ bits (voSrc r) 9 12 = 0) && inkSourceOk s t r
        else convOk (voIfmt r) 0xC && !isBook (voIfmt r) && rowsFit (voSrc r) (voRows r) (voSstride r) inRow)
    && (if c = 7 then decide (1 ≤ voK r ∧ voK r ≤ 64 ∧ voOfmt r = 0xC ∧ voOscheme r = 0)
          && rowsFit (voDst r) (voRows r) (voDstride r) (8 * voK r)
        else decide (voK r = 0))
    && (if c = 8 then decide (voDst r = 0 ∧ voOfmt r = 0 ∧ voOscheme r = 0)
        else if c = 7 then true
        else outOk 0xC (voOfmt r) (voOscheme r)
          && rowsFit (voDst r) (voRows r) (voDstride r) (rowBytes (voOutLen r) (voOfmt r) (voOscheme r)))
    && (if c = 8 ∨ c = 9 then decide (voState r % 8 = 0 ∧ voState r + 8 * voRows r ≤ slateSize) else true)
    && (if c = 4 ∨ (c = 6 ∧ voAvec r) then
          rowsFit (voSrc2 r) (voRows r) (voSstride r) inRow else true)
    && (if c = 6 ∧ voBvec r then
          rowsFit (voSrc3 r) (voRows r) (voSstride r) inRow else true)

/-! ## GATHER, COPY, CONVERT (Tables 8.10 to 8.12) -/

def gaList (r : Nat) : Nat := bits r 64 23
def gaCount (r : Nat) : Nat := bits r 87 20
def gaLen (r : Nat) : Nat := bits r 107 24
def gaDst (r : Nat) : Nat := bits r 131 48
def gaStride (r : Nat) : Nat := bits r 179 32

/-- Piece `i` of a GATHER's list. -/
def gaPiece (s : State) (t r i : Nat) : Nat := slateNat s t (gaList r + 8 * i) 8

def gatherOk (s : State) (t r : Nat) : Bool :=
  restZero r 211 && decide (gaStride r % 32 = 0 ∧ gaLen r ≤ gaStride r ∧ gaLen r % 32 = 0 ∧ 32 ≤ gaLen r ∧ 1 ≤ gaCount r)
    && decide (gaList r % 8 = 0 ∧ gaList r + 8 * gaCount r ≤ slateSize) && decide (adLow (gaDst r) % 32 = 0)
    && adRange (gaDst r) ((gaCount r - 1) * gaStride r + gaLen r)
    && (List.range (gaCount r)).all (fun i =>
        let a := gaPiece s t r i
        decide (a < 2 ^ 48 ∧ adSpace a ≤ 1 ∧ a % 32 = 0) && adRange a (gaLen r))

def cpSrc (r : Nat) : Nat := bits r 64 48
def cpDst (r : Nat) : Nat := bits r 112 48
def cpLen (r : Nat) : Nat := bits r 160 24
def cpRows (r : Nat) : Nat := bits r 184 16
def cpSstride (r : Nat) : Nat := bits r 200 32
def cpDstride (r : Nat) : Nat := bits r 232 32

/-- R224: some row of the destination overlaps a row of the source in the same space. -/
def overlaps (src sstride slen dst dstride dlen rows : Nat) : Bool :=
  decide (adSpace src = adSpace dst) && decide (0 < slen ∧ 0 < dlen) && (List.range rows).any (fun i =>
    let a := adLow src + i * sstride
    let b := adLow dst
    -- destination rows j with b + j * dstride < a + slen and a < b + j * dstride + dlen
    if b ≥ a + slen then false
    else
      let top := if dstride = 0 then 0 else min (rows - 1) ((a + slen - 1 - b) / dstride)
      decide (a < b + top * dstride + dlen))

def copyOk (r : Nat) : Bool :=
  restZero r 264 && decide (1 ≤ cpRows r ∧ 1 ≤ cpLen r)
    && adRange (cpSrc r) ((cpRows r - 1) * cpSstride r + cpLen r)
    && adRange (cpDst r) ((cpRows r - 1) * cpDstride r + cpLen r)
    && !overlaps (cpSrc r) (cpSstride r) (cpLen r) (cpDst r) (cpDstride r) (cpLen r) (cpRows r)

def cvSrc (r : Nat) : Nat := bits r 64 48
def cvDst (r : Nat) : Nat := bits r 112 48
def cvAux (r : Nat) : Nat := bits r 160 48
def cvCount (r : Nat) : Nat := bits r 208 24
def cvRows (r : Nat) : Nat := bits r 232 16
def cvSstride (r : Nat) : Nat := bits r 248 32
def cvDstride (r : Nat) : Nat := bits r 280 32
def cvIfmt (r : Nat) : Nat := bits r 312 4
def cvOfmt (r : Nat) : Nat := bits r 316 4
def cvCtrl (r : Nat) : Nat := bits r 320 2
def cvOscheme (r : Nat) : Nat := bits r 322 2
def cvVariant (r : Nat) : Nat := bits r 324 2

/-- The CONVERT reads a codebook section at aux. -/
def cvBook (r : Nat) : Bool := cvVariant r = 0 && (isBook (cvIfmt r) || isBook (cvOfmt r))

/-- Bytes of a source and of an output row of a CONVERT. -/
def cvInBytes (r : Nat) : Nat := rowBytes (cvCount r) (cvIfmt r) 0
def cvOutBytes (r : Nat) : Nat := rowBytes (cvCount r) (cvOfmt r) (cvOscheme r)

/-- R203: the formats of a variant. -/
def cvFormatsOk (r : Nat) : Bool :=
  let sf := cvIfmt r
  let df := cvOfmt r
  if cvVariant r = 1 then decide (sf = 0xC ∧ df = 0xB ∧ cvOscheme r = 0)
  else if cvVariant r ≥ 2 then
    [6, 7, 0xA, 0xB].contains sf && outOk sf df (cvOscheme r) && decide (df ≠ 0xD)
  else if isBook df then convOk sf df && decide (cvOscheme r = 0)
  else outOk sf df (cvOscheme r)

def convertOk (r : Nat) : Bool :=
  let v := cvVariant r
  let span := fun (base stride n : Nat) => adRange base ((cvRows r - 1) * stride + n)
  let ov := fun (src dst : Nat) =>
    overlaps src (cvSstride r) (cvInBytes r) dst (cvDstride r) (cvOutBytes r) (cvRows r)
  restZero r 326 && cvFormatsOk r && decide (1 ≤ cvRows r ∧ 1 ≤ cvCount r)
    && decide (cvDstride r % 32 = 0 ∧ cvSstride r % 32 = 0 ∧ adLow (cvSrc r) % 32 = 0 ∧ adLow (cvDst r) % 32 = 0)
    && span (cvSrc r) (cvSstride r) (cvInBytes r) && span (cvDst r) (cvDstride r) (cvOutBytes r)
    && (if v = 1 then span (cvAux r) (cvDstride r) (cvOutBytes r)
        else if v ≥ 2 then span (cvAux r) (cvSstride r) (cvInBytes r)
        else if cvBook r then adRange (cvAux r) 32
        else decide (cvAux r = 0))
    && !ov (cvSrc r) (cvDst r) && !(decide (v = 1) && ov (cvSrc r) (cvAux r)) && !(decide (v ≥ 2) && ov (cvAux r) (cvDst r))

/-! ## FENCE, WAIT, SIGNAL, HINT, PREEMPT (Table 8.13) -/

def waSem (r : Nat) : Nat := bits r 64 6
def waValue (r : Nat) : Nat := bits r 70 32
def waConsume (r : Nat) : Bool := bit r 102
def waTimeout (r : Nat) : Nat := bits r 103 32
def siSem (r : Nat) : Nat := bits r 64 6
def siTile (r : Nat) : Nat := bits r 70 6
def siOp (r : Nat) : Nat := bits r 76 2
def siValue (r : Nat) : Nat := bits r 78 32
def siBell (r : Nat) : Nat := bits r 110 5
def hiLead (r : Nat) : Nat := bits r 64 16
def hiLength (r : Nat) : Nat := bits r 80 32
def hiKind (r : Nat) : Nat := bits r 112 2
def hiLevel (r : Nat) : Nat := bits r 114 7
def peMode (r : Nat) : Bool := bit r 64
def peMask (r : Nat) : Nat := bits r 65 4

/-- R216: the descriptor passes every check made before it starts. -/
def descOk (s : State) (t e r : Nat) : Bool :=
  headerOk r &&
  (match dOp r with
   | 0x01 => loadwOk e r
   | 0x02 => streamOk e r
   | 0x03 => drainOk e r
   | 0x04 => vopOk s t r
   | 0x05 => gatherOk s t r
   | 0x06 => copyOk r
   | 0x07 => convertOk r
   | 0x08 => restZero r 65
   | 0x09 => restZero r 135 && decide (waTimeout r % 10 = 0)
   | 0x0A => restZero r 115 && decide (siOp r ≤ 1) && decide (siBell r = 0 ∨ siBell r ≥ 16)
   | 0x0B => restZero r 121 && decide (1 ≤ hiLevel r ∧ hiLevel r ≤ 100 ∧ hiKind r ≠ 0)
      && decide (1 ≤ hiLength r ∧ hiLength r ≤ 10000000 ∧ 1 ≤ hiLead r ∧ hiLead r ≤ 10000)
   | 0x0C => restZero r 69 && (peMode r || decide (peMask r = 0))
   | _ => false)

end Sys2Proof.Machine
end

