-- ==== Sys2Proof/Machine/Engine.lean ====
section
/-! DEFINITION. Engines (R207 to R233): the queue and fetching, issue, completion and its records, stops,
and the synchronisation descriptors. -/

namespace Sys2Proof.Machine

open Sys2Proof

/-! ## States (Table 8.15) -/

/-- A WAIT of the engine has begun and is not complete. -/
def waiting (g : EngineS) : Bool := g.prog.any (fun d => dOp d.raw = 9)

/-- EngineState (Table 8.15). -/
def engineState (s : State) (t e : Nat) : Nat :=
  let g := getEngine s t e
  if g.halt ≠ 0 then g.halt
  else if ¬ flag s t (Obj.engineEnable + e) then 8
  else if inHold s t then 7
  else if g.prog.any (fun d => dOp d.raw = 9 ∧ ¬ d.ended) then 2
  else if g.ready.isEmpty ∧ g.prog.isEmpty ∧ g.refetch.isEmpty
      ∧ getObj s t (Obj.engineHead + e) = getObj s t (Obj.engineTail + e) then 0
  else 1

/-- R213: the engine may issue a descriptor now. -/
def canIssue (s : State) (t e : Nat) (d : Desc) : Bool :=
  let g := getEngine s t e
  let op := dOp d.raw
  flag s t (Obj.engineEnable + e) && decide (g.halt = 0 ∧ g.stopSoon = 0) && !inHold s t && !inReset s t && !starting s
    && decide (g.prog.length < 4 ∧ g.refetch = []) && !waiting g
    && (decide (g.prog = []) || !(dSerial d.raw || op = 8 || op = 0xA || op = 0xC))
    && (!usesMover op || decide (getObj s t (Obj.moverState + moverOf e d.raw) ≠ 2))
    && (!usesMover op || !(g.prog.any (fun x => usesMover (dOp x.raw) && dMoverB x.raw == dMoverB d.raw && !x.ended)))

/-- Append a descriptor to those in progress. -/
def pushProg (t e : Nat) (d : Desc) (s : State) : State :=
  modEngine t e (fun g => { g with prog := g.prog ++ [d] }) s

/-- Replace the first descriptor in progress that satisfies `p`. -/
def updFirst (p : Desc → Bool) (f : Desc → Desc) : List Desc → List Desc
  | [] => []
  | d :: r => if p d then f d :: r else d :: updFirst p f r

def updProg (t e : Nat) (p : Desc → Bool) (f : Desc → Desc) (s : State) : State :=
  modEngine t e (fun g => { g with prog := updFirst p f g.prog }) s

/-- Issue the oldest fetched descriptor when `p` holds of it: one that fails a check ends with BAD_FORMAT
and does nothing (R216); else `f` starts it and answers what is then in progress, if anything, or leaves it
fetched (none). One that is issued again keeps its start. -/
def issueCore (t e : Nat) (p : Nat → Bool) (f : Desc → State → Option (Option Desc × State)) (s : State) : State :=
  match (getEngine s t e).ready with
  | [] => s
  | d :: rest =>
    if ¬ p d.raw ∨ ¬ canIssue s t e d then s
    else
      let d1 := if d.started then d else { d with start := s.time.elapsed, startTb := s.time.timeBase, started := true }
      let s1 := modEngine t e (fun g => { g with ready := rest }) s
      if ¬ descOk s t e d.raw then pushProg t e { d1 with ended := true, status := stBadFormat } s1
      else match f d1 s1 with
        | some (some d2, s2) => pushProg t e d2 s2
        | some (none, s2) => s2
        | none => s

/-- The same for a descriptor that is in progress once it has started. -/
def issueDesc (t e : Nat) (p : Nat → Bool) (f : Desc → State → Option (Desc × State)) (s : State) : State :=
  issueCore t e p (fun d s => (f d s).map (fun x => (some x.1, x.2))) s

/-- A descriptor that ends at once with a status. -/
def ends (st : Nat) (d : Desc) : Desc := { d with ended := true, status := st }

/-! ## Stops (R229, R231) -/

/-- R231: the engine enters state 3 to 6 at a queue index. One that is TRAPPED or HALTED stays so, and a mover halt
prevails over STOPPED and PRE-EMPTED (R233). -/
def haltEngine (t e st idx status : Nat) (s : State) : State :=
  let g := getEngine s t e
  if g.halt ≠ 0 ∧ ¬ (st = 4 ∧ (g.halt = 3 ∨ g.halt = 6)) then s
  else
    let s1 := modEngine t e (fun g => { g with halt := st, stopSoon := 0, stopIdx := idx }) s
    let s2 := setObj t (Obj.engineStopAddress + e) idx (setObj t (Obj.engineStopStatus + e) status s1)
    let b := getObj s t (Obj.engineEventBit + e)
    if b = 0 then s2 else ringHost t b s2

/-- A state to be entered once nothing of the engine is in progress: the first mover halt prevails. -/
def stopLater (t e st idx status : Nat) (s : State) : State :=
  modEngine t e (fun g =>
    if g.stopSoon = 4 then { g with soonStatus := if g.soonIdx = idx then status else g.soonStatus }
    else { g with stopSoon := st, soonIdx := idx, soonStatus := status }) s

/-- Enter the state that waited for the descriptors in progress. -/
def settle (t e : Nat) (s : State) : State :=
  let g := getEngine s t e
  if g.stopSoon ≠ 0 ∧ g.prog = [] then haltEngine t e g.stopSoon g.soonIdx g.soonStatus s else s

/-! ## Fetching (R211, R212) -/

/-- A pass carried by an engine's fetches (R211). -/
def fetchPass (s : State) (t e : Nat) : Option Nat :=
  let v := getObj s t (Obj.fetchPass + e)
  if bit v 8 then some (v % 256) else none

/-- Address of the descriptor at a queue index. -/
def queueAddr (s : State) (t e idx : Nat) : Nat := adPlus (getObj s t (Obj.engineQueueBase + e)) (64 * idx)

/-- R212: a fetch with a status other than OK traps the engine. The interrupt stays raised until the engine leaves
the stop (DESIGN CHOICE). -/
def trapEngine (t e idx st : Nat) (s : State) : State :=
  let s1 := if st = stUncorrectable ∨ st = stPoisoned then ring t 7 s else s
  let s2 := bump t (Obj.fetchTraps + e) 1 (addLog t 0x04 1 st (idx % 2 ^ 32 + fld 32 8 st) e s1)
  haltEngine t e 5 idx st (modEngine t e (fun g => { g with trapIrq := true }) s2)

/-- A fetched descriptor. -/
def mkDesc (s : State) (t e idx raw : Nat) : Desc := { idx := idx, raw := raw, qaddr := queueAddr s t e idx }

/-- Operations that fetch descriptors of the queue, and again (R232). -/
def opFetch (o : MoverOp) : Bool := match o.use with | .fetch _ => true | _ => false
def opRerun (o : MoverOp) : Bool := match o.use with | .rerun _ => true | _ => false

/-- A response reaches its operation. One of RETRY is waited for, by its hint or 1 µs, and sent again, until
MoverRetryLimit sends (R226; of a fetch DEDUCED: it is a request of the mover channel). -/
def takeOp (t m : Nat) (x : Reply) (s : State) : State :=
  modOp t m x.tag (fun o =>
    if x.status = stRetry ∧ o.sends < getObj s t Obj.moverRetryLimit then
      { o with at_ := .retry (s.time.elapsed + (if x.hint = 0 then 1000 else x.hint)) }
    else { o with at_ := .done x.status, data := if o.write then o.data else x.data
                  pois := if o.write then o.pois else x.pois }) s

/-- A retry whose time has come. -/
def opReady (s : State) (o : MoverOp) : Bool := match o.at_ with | .retry w => decide (w ≤ s.time.elapsed) | _ => false

/-- Send an operation and take what is answered at once. -/
def sendTake (t m : Nat) (o : MoverOp) (s : State) : State :=
  match sendOp t m o s with
  | (some x, s1) => takeOp t m x s1
  | (none, s1) => s1

/-- Responses to the fetches of a channel that have come. -/
def fetchReplies (t m : Nat) : Nat → State → State
  | 0, s => s
  | fuel + 1, s =>
    let mine := fun (x : Reply) =>
      (getMover s t m).ops.any (fun o => decide (o.tag = x.tag) && (opFetch o || opRerun o))
    match takeReply t m mine s with
    | (some x, s1) => fetchReplies t m fuel (takeOp t m x s1)
    | (none, s1) => s1

/-- The next descriptor to fetch, if any: first those to be fetched again (R232), then up to eight of the queue
ahead of the one issued, as far as the tail (R210, R211). -/
def fetchNext (s : State) (t e : Nat) : Option OpUse :=
  let g := getEngine s t e
  let ops := (getMover s t (2 * e + 1)).ops
  let k := (ops.filter opRerun).length
  let f := (ops.filter opFetch).length
  let size := max 1 (getObj s t (Obj.engineQueueSize + e))
  let head := getObj s t (Obj.engineHead + e)
  match g.refetch.drop k with
  | i :: _ => if k < 8 then some (.rerun i) else none
  | [] =>
    if g.refetch = [] ∧ g.ready.length + f < 8
        ∧ (List.range (f + 1)).all (fun j => (head + j) % size ≠ getObj s t (Obj.engineTail + e)) then
      some (.fetch ((head + f) % size))
    else none

/-- The index of a fetch. -/
def useIdx : OpUse → Nat
  | .fetch i | .rerun i => i
  | _ => 0

/-- Issue fetches on mover channel B (R211). -/
def fetchIssue (t e : Nat) : Nat → State → State
  | 0, s => s
  | fuel + 1, s =>
    let m := 2 * e + 1
    match fetchNext s t e with
    | none => s
    | some u =>
      let x := getMover s t m
      let o : MoverOp := { tag := x.nextTag, use := u, addr := queueAddr s t e (useIdx u), len := 64, pass := fetchPass s t e }
      if outstanding x ≥ 64 ∨ ¬ canSend s t m o then s else fetchIssue t e fuel (sendTake t m o (addOp t m o s))

/-- A fetch in queue order that has its response: taken out of the channel's list. -/
def fetchTake (t m : Nat) (u : OpUse) (s : State) : Option (MoverOp × State) :=
  match (getMover s t m).ops.find? (fun o => o.use == u && opDone o) with
  | some o => some (o, dropOps t m (fun x => decide (x.tag = o.tag)) s)
  | none => none

/-- The descriptors fetched again are all there: they go before those already fetched, and of an abandoned group
only its LOADWs, STREAMs and DRAIN (R232). -/
def againDone (t e : Nat) (s : State) : State :=
  let g := getEngine s t e
  if g.refetch ≠ [] ∨ g.again = [] then s
  else
    let array := fun (d : Desc) => decide (1 ≤ dOp d.raw ∧ dOp d.raw ≤ 3)
    let l := if (g.again.getLast?.map array).getD false then g.again.filter array else g.again.reverse.take 1
    modEngine t e (fun g => { g with again := [], ready := l ++ g.ready }) s

/-- Take the next descriptor whose fetch is answered (R211, R212). -/
def fetchConsume (t e : Nat) (s : State) : State :=
  let m := 2 * e + 1
  let head := getObj s t (Obj.engineHead + e) % max 1 (getObj s t (Obj.engineQueueSize + e))
  match (getEngine s t e).refetch with
  | i :: rest => match fetchTake t m (.rerun i) s with
    | none => s
    | some (o, s1) =>
      if opStatus o ≠ stOk then trapEngine t e i (opStatus o) (dropOps t m opRerun s1)
      else againDone t e (modEngine t e (fun g => { g with
        refetch := rest, again := g.again ++ [mkDesc s1 t e i o.data] }) s1)
  | [] =>
    if head = getObj s t (Obj.engineTail + e) ∨ (getEngine s t e).ready.length ≥ 8 then s
    else match fetchTake t m (.fetch head) s with
      | none => s
      | some (o, s1) =>
        if opStatus o ≠ stOk then trapEngine t e head (opStatus o) (dropOps t m opFetch s1)
        else setObj t (Obj.engineHead + e) ((head + 1) % max 1 (getObj s1 t (Obj.engineQueueSize + e)))
          (modEngine t e (fun g => { g with ready := g.ready ++ [mkDesc s1 t e head o.data] }) s1)

/-- DESCRIPTOR_FETCH (R210, R211): further fetches are issued, and the next one that is answered gives its
descriptor. The head moves past a descriptor when that has come (DEDUCED: a trapped one is still at the head). -/
def descriptorFetch (t e : Nat) (s : State) : State :=
  let s1 := fetchReplies t (2 * e + 1) 64 s
  let g := getEngine s1 t e
  if ¬ flag s1 t (Obj.engineEnable + e) ∨ g.halt ≠ 0 then s1
  else fetchConsume t e (if g.stopSoon = 0 then fetchIssue t e 8 s1 else s1)

def execDescriptorFetch (t : TileN) (e : EngineN) (s : State) : Res := run (descriptorFetch t.val e.val) s

/-! ## Queue registers (R210) -/

/-- ENGINE_TAIL_WRITE (R210). -/
def writeTail (t e v : Nat) (s : State) : State := storeObj t (Obj.engineTail + e) v s

def execEngineTailWrite (t : TileN) (e : EngineN) (v : BitVec 32) (s : State) : Res := run (writeTail t.val e.val v.toNat) s

/-- ENGINE_ENABLE_WRITE (R210). -/
def writeEnable (t e v : Nat) (s : State) : State :=
  if v > 1 then answer stBadFormat s else storeObj t (Obj.engineEnable + e) v s

def execEngineEnableWrite (t : TileN) (e : EngineN) (v : BitVec 8) (s : State) : Res :=
  run (writeEnable t.val e.val v.toNat) s

/-- A power of two from `lo` to `hi`. -/
def isPow2 (v lo hi : Nat) : Bool := decide (lo ≤ v ∧ v ≤ hi) && decide (2 ^ Nat.log2 v = v)

/-- ENGINE_QUEUE_CONFIG_WRITE (R210): base or size, refused with RETRY while the engine is enabled. The reserved
bits above the base are ignored and read 0 (R7). -/
def writeQueueConfig (t e : Nat) (size : Bool) (v : Nat) (s : State) : State :=
  let ok := if size then isPow2 v 16 1048576 else adOk (v % 2 ^ 48) && decide (v % 64 = 0)
  if ¬ ok then answer stBadFormat s
  else if flag s t (Obj.engineEnable + e) then answer stRetry s
  else if size then storeObj t (Obj.engineQueueSize + e) v s
  else storeObj t (Obj.engineQueueBase + e) (v % 2 ^ 48) s

def execEngineQueueConfigWrite (t : TileN) (e : EngineN) (size : Bool) (v : BitVec 64) (s : State) : Res :=
  run (writeQueueConfig t.val e.val size v.toNat) s

/-! ## Completion (R215, R229, R230) -/

/-- The completion ring has no space (R230). -/
def ringFull (s : State) (t e : Nat) : Bool :=
  let p := getObj s t (Obj.completionProduced + e)
  let c := getObj s t (Obj.completionConsumed + e)
  decide (getObj s t (Obj.completionRingSize + e) ≤ (p + 2 ^ 32 - c) % 2 ^ 32)

/-- A completion record (Table 8.14). -/
def recordBits (s : State) (d : Desc) (status seq : Nat) : Nat :=
  fld 192 64 s.time.timeBase + fld 160 32 d.idx + fld 128 24 d.detail + fld 96 32 (min d.count (2 ^ 32 - 1))
    + fld 64 32 (s.time.elapsed - d.start) + fld 48 16 (dTag d.raw) + fld 32 16 seq + fld 19 5 d.flags
    + fld 8 8 (dOp d.raw) + fld 0 8 status

/-- Write a record to the ring. -/
def writeRecord (t e r : Nat) (s : State) : State :=
  let p := getObj s t (Obj.completionProduced + e)
  let n := max 1 (getObj s t (Obj.completionRingSize + e))
  let off := (getObj s t (Obj.completionRingBase + e) + 32 * (p % n)) % slateSize
  setObj t (Obj.completionProduced + e) (p + 1) (slateWrite t off 32 r 0 s)

/-- A descriptor's status at completion: SPILL_FILL in place of OK where a fill was met (R225). -/
def finalStatus (d : Desc) : Nat := if d.status = stOk ∧ d.filled then stSpillFill else d.status

/-- R229: what a completed descriptor's status does to its engine. A resuming STREAM that found its save header
poisoned stopped it when it did (R174). -/
def afterStatus (t e : Nat) (d : Desc) (st : Nat) (s : State) : State :=
  if usesMover (dOp d.raw) ∧ getObj s t (Obj.moverState + moverOf e d.raw) = 2 then stopLater t e 4 d.idx st s
  else if st = stPreempted then stopLater t e 6 d.idx st s
  else if dStop d.raw ∧ st ≠ stOk ∧ st ≠ stSpillFill ∧ (getEngine s t e).stopSoon = 0 then haltEngine t e 3 d.idx st s
  else s

/-- Counts of a completed descriptor. -/
def countDesc (t e : Nat) (d : Desc) (s : State) : State :=
  let s1 := countEv t 0x0030 e 1 (bump t (Obj.descriptorsCompleted + e) 1 s)
  let s2 := if dOp d.raw = 4 then
      bump t Obj.vectorBusyTime (s.time.elapsed - d.start) (bump t Obj.vectorOps 1 s1) else s1
  let rec_ := smRecord d.startTb (s.time.elapsed - d.start) (d.qaddr % 2 ^ 48) (dTag d.raw) (0x10 + 2 * e) 0 0 0 3 3
    false 0 0 t (dOp d.raw) 2 (finalStatus d) 0
  smEvent t 2 (0x10 + 2 * e) 0 (s.time.elapsed - d.start) rec_ s2

/-- Complete an ended descriptor: its record, its counts, the stop it causes. It waits uncompleted while
its record finds the ring full (R230). -/
def completeDesc (t e : Nat) (d : Desc) (s : State) : State :=
  let st := finalStatus d
  let due := !d.replay && (dRecord d.raw || decide (st ≠ stOk))
  if due ∧ ringFull s t e then
    if (getEngine s t e).stallFrom.isSome then s
    else modEngine t e (fun g => { g with stallFrom := some s.time.elapsed }) s
  else
    let wait := match (getEngine s t e).stallFrom with
      | some x => s.time.elapsed - x
      | none => 0
    let s1 := bump t (Obj.completionStalls + e) wait
      (modEngine t e (fun g => { g with prog := removeFirst (fun x => x == d) g.prog, stallFrom := none }) s)
    let s2 := if d.replay then s1 else countDesc t e d s1
    let s3 := if due then writeRecord t e (recordBits s2 d st (getObj s2 t (Obj.descriptorsCompleted + e))) s2 else s2
    settle t e (answer st (afterStatus t e d st s3))

/-- The oldest fetched descriptor fails its checks: it is issued only to complete with BAD_FORMAT. -/
def issueBad (t e : Nat) (s : State) : State :=
  issueDesc t e (fun r => !descOk s t e r) (fun _ _ => none) s

/-- DESCRIPTOR_COMPLETE (R215): the first ended descriptor of the engine completes. -/
def descriptorComplete (t e : Nat) (s : State) : State :=
  match (getEngine s t e).prog.find? (fun d => d.ended) with
  | some d => completeDesc t e d s
  | none =>
    let s1 := issueBad t e s
    match (getEngine s1 t e).prog.find? (fun d => d.ended) with
    | some d => completeDesc t e d s1
    | none => settle t e s1

def execDescriptorComplete (t : TileN) (e : EngineN) (s : State) : Res := run (descriptorComplete t.val e.val) s

/-- COMPLETION_CONSUMED_WRITE (R230): the host frees ring space; a waiting descriptor completes. -/
def writeConsumed (t e v : Nat) (s : State) : State :=
  let s1 := setObj t (Obj.completionConsumed + e) v s
  let s2 := if (getEngine s1 t e).stallFrom.isSome then
      (match (getEngine s1 t e).prog.find? (fun d => d.ended) with
       | some d => completeDesc t e d s1
       | none => s1) else s1
  answer stOk s2

def execCompletionConsumedWrite (t : TileN) (e : EngineN) (v : BitVec 32) (s : State) : Res :=
  run (writeConsumed t.val e.val v.toNat) s

/-! ## Semaphores, WAIT and SIGNAL (R209, R228) -/

def semaphore (s : State) (t i : Nat) : Nat := getObj s t (Obj.semaphore + i)

/-- The WAITs of a tile that wait, as (engine, descriptor), in the order they began. -/
def waitsOf (s : State) (t : Nat) : List (Nat × Desc) :=
  sortBy (fun x => x.2.order) (((List.range 6).map (fun e =>
    ((getEngine s t e).prog.filter (fun d => dOp d.raw = 9 ∧ ¬ d.ended)).map (fun d => (e, d)))).flatten)

/-- R228: each waiting WAIT in order is satisfied, consuming before the next is examined. -/
def examineWaits (t : Nat) (s : State) : State :=
  (waitsOf s t).foldl (fun s x =>
    let r := x.2.raw
    if semaphore s t (waSem r) < waValue r then s
    else
      let s1 := if waConsume r then setObj t (Obj.semaphore + waSem r) (semaphore s t (waSem r) - waValue r) s else s
      updProg t x.1 (fun d => d == x.2) (ends stOk) s1) s

/-- An operation of SIGNAL on a semaphore, and its bell (R228). -/
def applySignal (t sem op value bell : Nat) (s : State) : State :=
  let v := if op = 0 then min (semaphore s t sem + value) (2 ^ 32 - 1) else value
  let s1 := examineWaits t (setObj t (Obj.semaphore + sem) v s)
  if bell = 0 then s1 else ringHost t bell s1

/-- SEMAPHORE_WRITE (R233): acts as a SIGNAL with op set. -/
def writeSemaphore (t i v : Nat) (s : State) : State := answer stOk (applySignal t i 1 v 0 s)

def execSemaphoreWrite (t : TileN) (i : Fin 64) (v : BitVec 32) (s : State) : Res :=
  run (writeSemaphore t.val i.val v.toNat) s

/-- WAIT (R228). -/
def waitIssue (t e : Nat) (s : State) : State :=
  let order := ((waitsOf s t).foldl (fun m x => max m x.2.order) 0) + 1
  examineWaits t (issueDesc t e (fun r => dOp r = 9) (fun d s => some ({ d with order := order }, s)) s)

def execWait (t : TileN) (e : EngineN) (s : State) : Res := run (waitIssue t.val e.val) s

/-- WAIT_TIMEOUT (R228): a WAIT reaches its timeout and changes nothing. -/
def waitTimeout (t e : Nat) (s : State) : State :=
  match (getEngine s t e).prog.find? (fun d => dOp d.raw = 9 ∧ ¬ d.ended) with
  | none => s
  | some d =>
    if waTimeout d.raw = 0 ∨ s.time.elapsed - d.start < waTimeout d.raw then s
    else bump t Obj.waitTimeouts 1 (updProg t e (fun x => x == d) (ends stTimeout) s)

def execWaitTimeout (t : TileN) (e : EngineN) (s : State) : Res := run (waitTimeout t.val e.val) s

/-- SIGNAL with an operation (R228): at its own tile it applies at once; to another it is on its way
until that tile acknowledges. -/
def signalIssue (t e op : Nat) (s : State) : State :=
  issueDesc t e (fun r => dOp r = 0xA ∧ siOp r = op) (fun d s =>
    let r := d.raw
    if siTile r = t then some (ends stOk d, applySignal t (siSem r) op (siValue r) (siBell r) s)
    else
      let m : SignalMsg := ⟨t, siTile r, e, d.idx, siSem r, op, siValue r, siBell r⟩
      some ({ d with sends := 1 }, { s with signals := s.signals ++ [m] })) s

def execSignalAdd (t : TileN) (e : EngineN) (s : State) : Res := run (signalIssue t.val e.val 0) s
def execSignalSet (t : TileN) (e : EngineN) (s : State) : Res := run (signalIssue t.val e.val 1) s

/-- The SIGNAL descriptor a message belongs to. -/
def signalDesc (m : SignalMsg) (d : Desc) : Bool := decide (dOp d.raw = 0xA ∧ d.idx = m.idx) && !d.ended

/-- The SIGNAL of a message waits for its time after a RETRY (R226). -/
def signalWaits (s : State) (m : SignalMsg) : Bool :=
  (getEngine s m.src m.eng).prog.any (fun d => signalDesc m d && decide (s.time.elapsed < d.notBefore))

/-- SIGNAL_REMOTE_APPLY (R228, R233): the oldest SIGNAL on its way to a tile is applied and acknowledged. A tile in
reset or in Hold answers RETRY: the SIGNAL is sent again 1 µs later, and after the retry limit completes with
RETRY. -/
def signalApply (t : Nat) (s : State) : State :=
  match s.signals.find? (fun m => m.dst = t ∧ ¬ signalWaits s m) with
  | none => s
  | some m =>
    let s0 := { s with signals := removeFirst (fun x => x == m) s.signals }
    if inReset s t ∨ inHold s t ∨ starting s then
      let d := (getEngine s m.src m.eng).prog.find? (signalDesc m)
      let n := match d with | some x => x.sends | none => 0
      if n ≥ getObj s m.src Obj.moverRetryLimit then updProg m.src m.eng (signalDesc m) (ends stRetry) s0
      else updProg m.src m.eng (signalDesc m) (fun x => { x with sends := x.sends + 1, notBefore := s.time.elapsed + 1000 }) s
    else updProg m.src m.eng (signalDesc m) (ends stOk) (applySignal t m.sem m.op m.value m.bell s0)

def execSignalRemoteApply (t : TileN) (s : State) : Res := run (signalApply t.val) s

/-- Barrier operations of both mover channels of an engine. -/
def barriers (s : State) (t e : Nat) : List MoverOp :=
  ((getMover s t (2 * e)).ops ++ (getMover s t (2 * e + 1)).ops).filter (fun o => o.use == .barrier)

/-- The barrier requests of a FENCE that can leave do so. -/
def fenceSend (t m : Nat) (s : State) : State :=
  match (getMover s t m).ops.find? (fun o => o.use == .barrier && (opUnsent o || opReady s o)) with
  | some o => if canSend s t m o ∧ (opReady s o ∨ outstanding (getMover s t m) < 64) then sendTake t m o s else s
  | none => s

/-- A FENCE ends when both barrier requests are answered. -/
def fenceEnd (t e : Nat) (s : State) : State :=
  if (barriers s t e).any (fun o => !opDone o) then s
  else
    let st := if (barriers s t e).any (fun o => opStatus o = stRetry) then stRetry else stOk
    let mine := fun (o : MoverOp) => o.use == .barrier
    updProg t e (fun d => dOp d.raw = 8 ∧ ¬ d.ended) (ends st) (dropOps t (2 * e) mine (dropOps t (2 * e + 1) mine s))

/-- FENCE (R228): it is issued when every earlier descriptor has completed; with flush, it sends a barrier request
on both mover channels and ends when they are answered. -/
def fence (t e : Nat) (s : State) : State :=
  let s1 := issueDesc t e (fun r => dOp r = 8) (fun d s =>
    if ¬ bit d.raw 64 then some (ends stOk d, s)
    else
      let o : MoverOp := { tag := 0, use := .barrier, addr := devAddr t 0, len := 0 }
      some (d, addOp t (2 * e) o (addOp t (2 * e + 1) o s))) s
  if (getEngine s1 t e).prog.any (fun d => dOp d.raw = 8 ∧ ¬ d.ended) then
    fenceEnd t e (fenceSend t (2 * e) (fenceSend t (2 * e + 1) s1))
  else s1

def execFence (t : TileN) (e : EngineN) (s : State) : Res := run (fence t.val e.val) s

/-- HINT (R228, R317): completes at issue. -/
def execHint (t : TileN) (e : EngineN) (s : State) : Res :=
  run (issueDesc t.val e.val (fun r => dOp r = 0xB) (fun d s =>
    some (ends stOk d, addHint t.val (hiKind d.raw) (hiLevel d.raw) (hiLead d.raw * 1000) (hiLength d.raw * 1000) s))) s

/-! ## Outcomes of mover requests (R226, R227) -/

/-- R227: the mover channel halts. -/
def haltMover (t m st addr : Nat) (s : State) : State :=
  let f := fld 56 8 st + addr % 2 ^ 48
  let s1 := setObj t (Obj.moverState + m) 2 (setObj t (Obj.moverFault + m) f (bump t (Obj.moverHalts + m) 1 s))
  ring t 7 (addLog t 0x04 2 st f (m / 2 + fld 8 4 m) s1)

/-- The descriptor in progress on a mover channel whose transfer is not done. -/
def onChannel (m : Nat) (d : Desc) : Bool :=
  usesMover (dOp d.raw) && !d.ended && decide (b2n (dMoverB d.raw) = m % 2)
def transferOf (s : State) (t m : Nat) : Option Desc := (getEngine s t (m / 2)).prog.find? (onChannel m)

/-- The place of a status in the order of R229. -/
def statusRank (st : Nat) : Nat :=
  if st = stBadFormat then 13 else if st = stUncorrectable then 12 else if st = stPoisoned then 11
  else if st = stResidueFault then 10 else if st = stBlockRetired then 9 else if st = stDecodeError then 8
  else if st = stAccessDenied then 7 else if st = stTooLong then 6 else if st = stTimeout then 5
  else if st = stRetry then 4 else if st = stPreempted then 3 else if st = stSpillFill then 2
  else if st = stOk then 0 else 1

/-- A cause of a descriptor: no further request is issued, and its status is the highest (R229). -/
def closeWith (st detail : Nat) (d : Desc) : Desc :=
  if statusRank st > statusRank d.status then { d with closing := true, status := st, detail := detail }
  else { d with closing := true }

/-- The status is that of bad data (R227). -/
def badData (st : Nat) : Bool := decide (st = stUncorrectable ∨ st = stPoisoned)

/-- R226: a request of a transfer is refused: no further one is issued. -/
def refuseOp (t m st detail : Nat) (s : State) : State :=
  dropOps t m (fun o => opTransfer o && (opUnsent o || opRetry o))
    (updProg t (m / 2) (onChannel m) (fun d => { closeWith st detail d with cut := 2 }) s)

/-- R227: a request of a transfer meets bad data: its channel halts, once, no further read is issued, and its engine
is to stop. What was read before goes on being written. -/
def badOp (t m st addr detail : Nat) (s : State) : State :=
  let s1 := dropOps t m (fun o => opTransfer o && !(o.use == .dst) && opUnsent o)
    (updProg t (m / 2) (onChannel m) (closeWith st detail) s)
  let s2 := if getObj s t (Obj.moverState + m) = 2 then s1 else haltMover t m st addr s1
  match transferOf s2 t m with
  | some d => stopLater t (m / 2) 4 d.idx d.status s2
  | none => s2

/-- A response to a request of a transfer. -/
def arriveTransfer (t m : Nat) (o : MoverOp) (x : Reply) (s : State) : State :=
  let s1 := updProg t (m / 2) (onChannel m) (fun d => { d with filled := d.filled || x.fill }) (takeOp t m x s)
  match (getMover s1 t m).ops.find? (fun y => y.tag = x.tag) with
  | none => s1
  | some y =>
    if ¬ opDone y ∨ opStatus y = stOk then s1
    else if badData (opStatus y) then badOp t m (opStatus y) o.addr o.detail s1
    else refuseOp t m (opStatus y) o.detail s1

/-- Run steps until none is possible. -/
def pumpLoop (step : State → Option State) : Nat → State → State
  | 0, s => s
  | fuel + 1, s =>
    match step s with
    | some s1 => pumpLoop step fuel s1
    | none => s

/-- Send an operation of a transfer and take what is answered at once. -/
def sendTransfer (t m : Nat) (o : MoverOp) (s : State) : State :=
  match sendOp t m o s with
  | (some x, s1) => arriveTransfer t m o x s1
  | (none, s1) => s1

/-- The oldest unsent reads and the oldest unsent write of a transfer leave as they can, in the order issued. -/
def sendStep (t m : Nat) (s : State) : Option State :=
  let x := getMover s t m
  if outstanding x ≥ 64 then none
  else
    let first := fun (w : Bool) => (x.ops.find? (fun o => opTransfer o && opUnsent o && (o.use == .dst) == w)).filter
      (canSend s t m)
    match first true, first false with
    | some o, _ => some (sendTransfer t m o s)
    | none, some o => some (sendTransfer t m o s)
    | none, none => none

/-- Operations of the mover descriptor in progress. -/
def transferOps (s : State) (t m : Nat) : List MoverOp := (getMover s t m).ops.filter opTransfer

/-- End the mover descriptor in progress. -/
def endTransfer (t m : Nat) (f : Desc → Desc) (s : State) : State :=
  updProg t (m / 2) (onChannel m) (fun d => { f d with ended := true, data := 0, bad := 0 }) s

end Sys2Proof.Machine
end

