-- ==== Sys2Proof/Machine/Arrays.lean ====
section
/-! DEFINITION. The Nib arrays (R152 to R176, R186 to R190): LOADW, STREAM, array steps, DRAIN, residue
faults, pre-emption and resume. The engine of an array has its number (R207). -/

namespace Sys2Proof.Machine

open Sys2Proof

/-! ## Planes and their images (R157, R193) -/

/-- The plane B or A of an array. -/
def planeOf (x : ArrayS) (b : Bool) : Plane := if b then x.planeB else x.planeA
def putPlane (b : Bool) (p : Plane) (x : ArrayS) : ArrayS := if b then { x with planeB := p } else { x with planeA := p }

/-- R157, R158: the plane a LOADW fills: the one no running STREAM uses; plane A first. -/
def idlePlane (x : ArrayS) : Bool :=
  match x.stream with
  | some st => !st.planeB
  | none => if x.planeA.valid ∨ x.planeB.valid then !x.lastB else false

/-- R158: both planes are in use. -/
def planesBusy (x : ArrayS) : Bool :=
  match x.stream with
  | some st => (planeOf x (!st.planeB)).valid && !(planeOf x (!st.planeB)).used
  | none => false

/-- The codebook of an image (Table 7.5). -/
def bookSection (im k n wfmt scheme : Nat) : Nat := bits im (8 * imgBook k n wfmt scheme) 256
def bookOk (sec : Nat) : Bool := decide (bits sec 136 120 = 0 ∧ (bits sec 128 8 = 4 ∨ bits sec 128 8 = 5))
def bookOf (sec : Nat) : CodeBook := { fmt := bits sec 128 8, entries := bits sec 0 128 }
def planeBook (p : Plane) : CodeBook :=
  if isBook p.wfmt then bookOf (bookSection p.image p.k p.n p.wfmt p.scheme) else {}

/-- The code of weight (r, j), and the scale of segment s of column j (Table 7.4). -/
def weightCode (p : Plane) (r j : Nat) : Nat :=
  bits p.image (8 * r * imgStride p.n p.wfmt + j * fmtBits (planeFmt p.wfmt)) (fmtBits (planeFmt p.wfmt))
def weightScale (p : Plane) (sg j : Nat) : Nat := bits p.image (8 * (imgScales p.k p.n p.wfmt + sg * 128 + j)) 8

/-- R189: an INT8 element of scheme 1 counts 2 ^ -6. -/
def elemVal (fmt scheme : Nat) (b : CodeBook) (c : Nat) : Num :=
  if scheme = 1 ∧ fmt = 7 then mulNum (codeVal fmt b c) (numPow false 1 (-6)) else codeVal fmt b c

/-- Segments of k rows. -/
def segments (k scheme : Nat) : Nat := if scheme = 0 then 0 else ceilDiv k (blockSize scheme)

/-- The signed integer significand of a code (R264). -/
def sigOf (fmt : Nat) (b : CodeBook) (c : Nat) : Int :=
  let f := if isBook fmt then b.fmt else fmt
  let x := if isBook fmt then bookEntry b c else c
  match floatFmt f, intBits f with
  | some g, _ =>
    let m := x % 2 ^ g.m + (if x / 2 ^ g.m % 2 ^ g.e = 0 then 0 else 2 ^ g.m)
    if x / 2 ^ (g.e + g.m) % 2 = 1 then -(m : Int) else m
  | none, some w => toSigned w x
  | none, none => 0

/-- The residue of an integer (R264). -/
def residue (v : Int) : Nat := (v % 3).toNat

/-- The significand of the weight that Nib (r, j) holds: 0 outside the k rows and n columns (R157). -/
def weightSig (p : Plane) (r j : Nat) : Int :=
  if r < p.k ∧ j < p.n then sigOf (planeFmt p.wfmt) (planeBook p) (weightCode p r j) else 0

/-- R157: the residues stored beside the weights of a plane. -/
def planeResid (p : Plane) : Nat :=
  (List.range p.k).foldl (fun acc r => (List.range p.n).foldl (fun acc j =>
    acc + residue (weightSig p r j) * 2 ^ (2 * (128 * r + j))) acc) 0

/-- Scales of an image that are NaN (R190). -/
def nanScales (p : Plane) : Nat :=
  sumOf ((List.range (segments p.k p.scheme)).map (fun sg =>
    ((List.range p.n).filter (fun j => (scaleVal p.scheme (weightScale p sg j)).isNan)).length))

/-! ## The Inkwell (R162) -/

def inkKey (t a row col : Nat) : Nat := ((t * 4 + a) * 512 + row) * 128 + col
def getInk (s : State) (t a row col : Nat) : Nat := fget 0 s.inkwell (inkKey t a row col)
def setInk (t a row col v : Nat) (s : State) : State := { s with inkwell := fset 0 s.inkwell (inkKey t a row col) v }

/-- The 128 accumulators of a row. -/
def inkRow (s : State) (t a row : Nat) : List Nat := (List.range 128).map (getInk s t a row)
def setInkRow (t a row : Nat) (l : List Nat) (s : State) : State :=
  (l.foldl (fun (acc : Nat × State) v => (acc.1 + 1, setInk t a row acc.1 v acc.2)) (0, s)).2

/-- The words of a row are stored afresh (R260). -/
def storeInk (t a row : Nat) (s : State) : State :=
  (inkChanged s t a row).foldl (fun s w => sramStore t sramInkwell w s) s

/-! ## Abandoned groups (R168 to R170) -/

/-- The open group is abandoned: nothing more is drained from it. -/
def abandonGroup (t a : Nat) (s : State) : State :=
  let x := getArray s t a
  match x.group with
  | none => s
  | some g =>
    let s1 := modArray t a (fun x => { x with group := none, stream := none, loads := [] }) s
    bump t (Obj.abandonedGroups + a) 1 (modEngine t a (fun en => { en with abandoned := some g.opening }) s1)

/-- End the STREAM descriptor in progress. -/
def endStream (t a st detail : Nat) (s : State) : State :=
  updProg t a (fun d => dOp d.raw = 2 ∧ ¬ d.ended) (fun d => { d with ended := true, status := st, detail := detail }) s

/-- LastResidueFault (Table 6.13). -/
def residueBits (s : State) (point col : Nat) : Nat := fld 56 8 point + fld 48 8 col + s.time.timeBase % 2 ^ 48

/-- A fault that abandons a group (R168): what its window is kept by, the status and detail of its descriptor,
and its check point and column. -/
structure ArrayFault where
  key : Nat
  status : Nat
  detail : Nat
  point : Nat
  col : Nat
  deriving DecidableEq, Repr

/-- A residue mismatch at a check point and column. -/
def mismatch (point col : Nat) : ArrayFault := ⟨col, stResidueFault, fld 16 8 point + fld 8 8 col, point, col⟩

/-- An uncorrectable Inkwell word. It has no check point: LastResidueFault gives 0, and the column of its even
accumulator (DESIGN CHOICE). -/
def badWord (w : Nat) : ArrayFault := ⟨128 + w % 32768, stUncorrectable, 0, 0, 2 * (w % 64)⟩

/-- R168: the fault is transient: its column had no residue fault, its word no uncorrectable error, within
ResidueWindow. -/
def isTransient (s : State) (t : Nat) (faults : List (Nat × Nat)) (key : Nat) : Bool :=
  !(faults.any (fun f => decide (f.1 = key ∧ s.time.elapsed < f.2 + getObj s t Obj.residueWindow * 1000000)))

/-- Descriptors run again from their beginning. -/
def afresh (d : Desc) : Desc :=
  { idx := d.idx, raw := d.raw, qaddr := d.qaddr, start := d.start, startTb := d.startTb, started := d.started }

/-- Descriptors run again, marked; those that completed before give no record (R168). -/
def replays (l : List Desc) : List Desc :=
  l.map (fun d => { idx := d.idx, raw := d.raw, qaddr := d.qaddr, flags := 16, replay := true })

/-- Fault of the open group noted: counted, logged and recorded (R168). -/
def noteFault (t a : Nat) (f : ArrayFault) (s : State) : State :=
  let ev := residueBits s f.point f.col
  let s1 := if f.status = stResidueFault then bump t (Obj.residueFaults + a) 1 s else s
  addLog t 0x03 (if f.status = stResidueFault then 1 else 2) f.status ev a (setObj t (Obj.lastResidueFault + a) ev
    (modArray t a (fun x => { x with
      faults := (f.key, s.time.elapsed) :: x.faults.filter (fun e => e.1 ≠ f.key) }) s1))

/-- R168: the group runs again from its opening LOADW: its descriptors so far, then `cur`, then the LOADWs that
were loaded, or loading, for what follows. A fused group goes on at its row boundary, with its weights loaded
again (R161, R175). -/
def retryGroup (t a : Nat) (g : Group) (cur : Desc) (s : State) : State :=
  let x := getArray s t a
  let loading := (getEngine s t a).prog.filter (fun d => dOp d.raw = 1 ∧ ¬ d.ended)
  let from_ := match x.stream with | some st => st.next / 16 * 16 | none => 0
  let again := { afresh cur with flags := 16, pos := if g.fused then from_ else 0 }
  let before := g.descs.filter (fun d => ¬ (d.idx = cur.idx ∧ dOp d.raw = dOp cur.raw))
  let q := replays before ++ again :: (replays x.loads ++ loading.map afresh)
  let gone := fun (d : Desc) => !d.ended && (decide (dOp d.raw = 1) || decide (d.idx = cur.idx ∧ dOp d.raw = dOp cur.raw))
  let forget := fun (b : Bool) (s : State) =>
    if loading.any (fun d => dMoverB d.raw == b) then dropOps t (2 * a + b2n b) opTransfer s else s
  forget true (forget false (bump t (Obj.residueRetries + a) 1
    (modEngine t a (fun en => { en with ready := q ++ en.ready, prog := en.prog.filter (fun d => !gone d) })
      (modArray t a (fun x => { x with group := none, stream := none, loads := [] }) s))))

/-- R169: a fault that is not transient fences the array. -/
def fenceArray (t a : Nat) (f : ArrayFault) (s : State) : State :=
  ring t 7 (addLog t 0x03 3 f.status (residueBits s f.point f.col) a (modArray t a (fun x => { x with fenced := true }) s))

/-- The fault is retried: it is transient, and its group was not retried before (R168). -/
def faultRetries (s : State) (t a : Nat) (g : Group) (f : ArrayFault) : Bool :=
  isTransient s t (getArray s t a).faults f.key && !g.retried

/-- R168, R169: a fault of the open group in the descriptor `cur`, which runs again with it or ends with its
status. AbandonedGroups counts a group that is not retried, and one abandoned by an Inkwell word. -/
def arrayFault (t a : Nat) (f : ArrayFault) (cur : Desc) (s : State) : State :=
  let x := getArray s t a
  match x.group with
  | none => s
  | some g =>
    let s1 := noteFault t a f s
    if faultRetries s t a g f then
      retryGroup t a g cur (if f.status = stUncorrectable then bump t (Obj.abandonedGroups + a) 1 s1 else s1)
    else
      let s2 := updProg t a (fun d => d.idx = cur.idx ∧ dOp d.raw = dOp cur.raw ∧ ¬ d.ended) (fun d =>
        { d with ended := true, status := f.status, detail := f.detail }) (abandonGroup t a s1)
      if isTransient s t x.faults f.key then s2 else fenceArray t a f s2

/-- The words of a row of the Inkwell are read: those found uncorrectable count, and the first of them is a
fault of the group (R162, R168). -/
def readInk (t a row : Nat) (s : State) : Option ArrayFault × State :=
  let bad := inkBadWords s t a row
  let s1 := inkScrub t a row s
  (bad.head?.map badWord, if bad = [] then s1 else bump t (Obj.inkwellUncorrectable + a) bad.length s1)

/-! ## LOADW (R157, R158, R218) -/

/-- Bytes of the image of a LOADW. -/
def loadBytes (r : Nat) : Nat := imgBytes (lwK r) (lwN r) (lwFmt r) (lwScheme r)

/-- What the next STREAM fetched shows of the open group: a LOADW now belongs to it (R170); none while it is not
fetched. A DRAIN before it ends the group. -/
def feedsOpen (s : State) (t a : Nat) : Option Bool :=
  ((getEngine s t a).ready.find? (fun d => dOp d.raw = 2 ∨ dOp d.raw = 3)).map (fun d =>
    decide (dOp d.raw = 2 ∧ stInit d.raw = 0))

/-- R170: a LOADW found bad data: its plane is invalid, and the group that it belongs to is abandoned. Where no
STREAM fetched shows that yet, the one that would use the plane does. -/
def spoilPlane (t a : Nat) (s : State) : State :=
  let x := getArray s t a
  let b := idlePlane x
  let s1 := modArray t a (fun x => putPlane b {} { x with lastB := b, badLoad := x.group.isSome }) s
  match feedsOpen s t a with
  | some true => abandonGroup t a s1
  | some false => modArray t a (fun x => { x with badLoad := false }) s1
  | none => s1

/-- The plane of an image, with the residues of its weights (R157). -/
def planeFrom (r image : Nat) : Plane :=
  let p : Plane :=
    { valid := true, k := lwK r, n := lwN r, wfmt := lwFmt r, scheme := lwScheme r, recipe := lwRecipe r
      src := lwSrc r, image := image }
  { p with resid := planeResid p }

/-- The image of a LOADW is whole: the idle plane takes it (R157), or its codebook is bad (R205). -/
def fillPlane (t m : Nat) (d : Desc) (s : State) : State :=
  let r := d.raw
  let a := m / 2
  let b := idlePlane (getArray s t a)
  let sec := bookSection d.data (lwK r) (lwN r) (lwFmt r) (lwScheme r)
  if isBook (lwFmt r) ∧ ¬ bookOk sec then
    endTransfer t m (fun d => { d with status := stBadFormat })
      (modArray t a (fun x => putPlane b {} { x with lastB := b }) s)
  else
    let p := planeFrom r d.data
    let s2 := modArray t a (fun x => putPlane b p { x with lastB := b, badLoad := false, loads := x.loads ++ [afresh d] }) s
    let s3 := if isBook (lwFmt r) then bump t Obj.codebookLoads 1 s2 else s2
    bump t Obj.blockScaleNaN (nanScales p)
      (countEv t 0x0031 m (loadBytes r) (bump t (Obj.moverBytes + m) (loadBytes r)
        (endTransfer t m (fun d => { d with count := loadBytes r }) s3)))

/-- A LOADW ends: with its plane, or refused, or with bad data. One refused leaves the planes as they were, so that
a STREAM uses that of the LOADW before it (DESIGN CHOICE: R158 speaks of LOADWs that completed). -/
def endLoad (t m : Nat) (d : Desc) (s : State) : State :=
  if d.cut = 2 then endTransfer t m id s
  else if badData d.status then endTransfer t m id (spoilPlane t (m / 2) s)
  else fillPlane t m d s

/-- The LOADW of an array that began first of those in progress: the array takes the data of no other (R158). -/
def firstLoad (s : State) (t a : Nat) : Option Desc :=
  (getEngine s t a).prog.find? (fun d => dOp d.raw = 1 ∧ ¬ d.ended)

/-- Places of the staging area of an engine in use: (start, end). -/
def staged (s : State) (t a : Nat) : List (Nat × Nat) :=
  ((getMover s t (2 * a)).ops ++ (getMover s t (2 * a + 1)).ops).filterMap (fun o => o.stage.map (fun p => (p, p + o.len)))

/-- The lowest place of the staging area that is free for `n` bytes (R218; its layout is a DESIGN CHOICE). -/
def stageRoom (s : State) (t a n : Nat) : Option Nat :=
  let l := staged s t a
  (sortBy (fun p => p) (0 :: l.map (·.2))).find? (fun p =>
    decide (p + n ≤ 0x10000) && !l.any (fun e => decide (e.1 < p + n ∧ p < e.2)))

/-- Slate offset of a place of the staging area. -/
def stageAt (s : State) (t a p : Nat) : Nat := getObj s t (Obj.loadStageBase + a) + p

/-- The array takes the data of a request of its LOADW, from the staging area where they lie there. -/
def takeLoad (t m : Nat) (o : MoverOp) (s : State) : State :=
  let a := m / 2
  let gone := dropOps t m (fun x => decide (x.tag = o.tag))
  let put := fun (data : Nat) (s : State) => gone (updProg t a (onChannel m) (fun d => { d with
    data := d.data + data * 2 ^ (8 * o.off), cut := if badData (opStatus o) then max 1 d.cut else d.cut }) s)
  match o.staged, o.stage with
  | true, some p =>
    let at_ := stageAt s t a p
    let st := slateStatus s t at_ o.len
    let s1 := slateScrub t at_ o.len s
    let s2 := put (slateNat s1 t at_ o.len) s1
    if badData st ∧ ¬ badData (opStatus o) then badOp t m st o.addr o.detail s2 else s2
  | _, _ => put o.data s

/-- Data that come before the array can take them go to the staging area (R218). -/
def stageLoad (t m : Nat) (o : MoverOp) (s : State) : State :=
  match o.stage with
  | some p => modOp t m o.tag (fun o => { o with staged := true, data := 0 })
      (slateWrite t (stageAt s t (m / 2) p) o.len o.data o.pois s)
  | none => s

/-- The next request of a LOADW; while the array takes its data no room in the staging area is needed. -/
def nextLoad (s : State) (t m : Nat) (d : Desc) : Option (MoverOp × Nat) :=
  let r := d.raw
  let addr := adPlus (lwSrc r) d.off
  let n := requestLen s (dPass r) addr (loadBytes r - d.off)
  if d.closing ∨ d.off ≥ loadBytes r ∨ outstanding (getMover s t m) ≥ 64 then none
  else
    let o : MoverOp := { tag := 0, use := .src, off := d.off, addr := addr, len := n, pass := dPass r, detail := d.off }
    if d.taking then some (o, n)
    else (stageRoom s t (m / 2) n).map (fun p => ({ o with stage := some p }, n))

/-- The array can take the data of a LOADW now. -/
def takesLoad (s : State) (t a : Nat) (d : Desc) : Bool :=
  decide ((firstLoad s t a).map (fun x => (x.idx, x.qaddr)) = some (d.idx, d.qaddr)) && !planesBusy (getArray s t a)

/-- One step of the LOADW in progress on a channel: the array begins to take it, takes data, puts them aside, sends
a request or makes the next one, or ends it. -/
def loadStep (t m : Nat) (s : State) : Option State :=
  match transferOf s t m with
  | none => none
  | some d =>
    if dOp d.raw ≠ 1 then none
    else if ¬ d.taking ∧ takesLoad s t (m / 2) d then
      some (updProg t (m / 2) (onChannel m) (fun d => { d with taking := true }) s)
    else
      let ops := transferOps s t m
      match (if d.taking then ops.head?.filter opDone else none), ops.find? (fun o => opDone o && !o.staged && o.stage.isSome) with
      | some o, _ => some (if d.cut = 0 then takeLoad t m o s else dropOps t m (fun x => decide (x.tag = o.tag)) s)
      | none, some o =>
        if d.taking then loadSend d ops else if d.cut = 2 then some (dropOps t m (fun x => decide (x.tag = o.tag)) s)
        else some (stageLoad t m o s)
      | none, none => loadSend d ops
where
  /-- A request is sent or made, or the LOADW ends. -/
  loadSend (d : Desc) (ops : List MoverOp) : Option State :=
    match sendStep t m s with
    | some s1 => some s1
    | none => match nextLoad s t m d with
      | some (o, n) => some (addOp t m o (updProg t (m / 2) (onChannel m) (fun d => { d with off := d.off + n }) s))
      | none =>
        if ops = [] ∧ (d.closing ∨ d.off ≥ loadBytes d.raw) ∧ (d.taking ∨ d.cut = 2) then some (endLoad t m d s) else none

/-- The LOADWs of an array go on. -/
def loadPump (t a : Nat) (s : State) : State :=
  let go := fun (m : Nat) (s : State) => pumpLoop (loadStep t m) 4096 s
  let s1 := go (2 * a + 1) (go (2 * a) s)
  go (2 * a) s1

/-- LOADW: the next one is issued where it can be, and those in progress go on. -/
def loadw (t e : Nat) (s : State) : State :=
  let s1 := issueDesc t e (fun r => dOp r = 1) (fun d s =>
    if (getArray s t e).fenced then some (ends stResidueFault d, s) else some (d, s)) s
  if e < 4 then loadPump t e s1 else s1

def execLoadw (t : TileN) (e : EngineN) (s : State) : Res := run (loadw t.val e.val) s

/-! ## STREAM (R159, R163, R186 to R188, R219) -/

/-- The activation format the array sees: x_hi and x_lo are bfloat16, a + b of recipe 4 is widened. -/
def actFmt (r : Nat) : Nat :=
  let f := stFmt r
  if f = 0xC then 0xB
  else if stRecipe r = 4 ∧ f = 6 then 7
  else if stRecipe r = 4 ∧ f = 7 then 8
  else f

/-- An integer format. -/
def isInt (f : Nat) : Bool := f = 6 || f = 7 || f = 8 || f = 9

/-- R186: the pair is accepted. -/
def pairOk (wf af scheme : Nat) : Bool :=
  let w16 := [6, 7, 8, 0xA, 0xB]
  (decide (wf ≠ 8) || w16.contains af) && (decide (af ≠ 8) || w16.contains wf)
    && (decide (scheme = 0) || (schemeOk scheme wf && schemeOk scheme af && decide (max (fmtClass wf) (fmtClass af) < 2)))

/-- Class and mode of a stream on a plane (R156, R187). -/
def streamClass (p : Plane) (r : Nat) : Nat := max (fmtClass (planeFmt p.wfmt)) (fmtClass (actFmt r))
def streamInt (p : Plane) (r : Nat) : Bool := isInt p.wfmt && isInt (actFmt r) && decide (stScheme r = 0)

/-- The recipe of a STREAM fits the plane's LOADW; pass 2 of the binary32 recipe streams against the
plane of pass 1 (R165). -/
def recipeOk (p : Plane) (r : Nat) : Bool :=
  decide (stRecipe r = p.recipe) || decide (stRecipe r = 2 ∧ p.recipe = 1)

/-- Bytes of an activation row of a stream on a plane. -/
def actBytes (p : Plane) (r : Nat) : Nat := rowBytes p.k (stFmt r) (stScheme r)

/-- The checks of a STREAM against its plane and the Slate. -/
def streamFits (p : Plane) (r : Nat) : Bool :=
  p.valid && decide (stScheme r = p.scheme) && recipeOk p r && pairOk (planeFmt p.wfmt) (actFmt r) (stScheme r)
    && decide (actBytes p r ≤ stStride r ∨ stM r = 0)
    && rowsFit (stSrc r) (stM r) (stStride r) (actBytes p r)
    && (decide (stRecipe r ≠ 4) || rowsFit (stSrc2 r) (stM r) (stStride r) (actBytes p r))
    && (!stFused r || (outOk (if streamInt p r then 9 else 0xC) (stOfmt r) (stOscheme r)
      && rowsFit (stDst r) (stM r) (stDstStride r) (rowBytes p.n (stOfmt r) (stOscheme r))))

/-- R159: the STREAM may open or join a group. -/
def groupFits (x : ArrayS) (p : Plane) (r : Nat) : Bool :=
  match x.group with
  | none => decide (stInit r ≠ 0)
  | some g =>
    decide (stInit r = 0) && !g.fused && decide (g.a0 = stA0 r ∧ g.m = stM r ∧ g.cls = streamClass p r)
      && (g.int == streamInt p r) && (decide (g.recipe ≥ 4) == decide (stRecipe r ≥ 4))

/-- Range of an accumulator row a stream's row m adds into (R166, R159). -/
def accRow (r m : Nat) : Nat :=
  let off := if stRecipe r = 5 then stM r else if stRecipe r = 6 then 2 * stM r else 0
  if stFused r then (stA0 r + m) % 512 else stA0 r + off + m

/-- The initial values of an accumulator row (R159): zero or the bias vector. -/
def initRow (s : State) (t r : Nat) : List Nat :=
  (List.range 128).map (fun j => if stInit r = 2 then slateNat s t (stBias r + 4 * j) 4 else 0)

/-- Write a row of the Inkwell, its words afresh. -/
def putInkRow (t a row : Nat) (l : List Nat) (s : State) : State := setInkRow t a row l (storeInk t a row s)

/-- Set the initial values of row m; of all three ranges of a complex group. -/
def openRowInit (t a r m : Nat) (s : State) : State :=
  if stInit r = 0 then s
  else
    let v := initRow s t r
    if stRecipe r ≥ 4 then
      putInkRow t a (stA0 r + m) v (putInkRow t a (stA0 r + stM r + m) v (putInkRow t a (stA0 r + 2 * stM r + m) v s))
    else putInkRow t a (accRow r m) v s

/-- Conversion flags counted in Table 7.8. -/
def countFlags (t : Nat) (c : FlagCount) (s : State) : State :=
  bump t Obj.conversionInvalid c.inv (bump t Obj.conversionOverflows c.ovf (bump t Obj.conversionUnderflows c.unf s))

/-- INV, OVF and UNF of a completion record from counts (R201). -/
def flagBits (c : FlagCount) : Nat :=
  (if c.inv > 0 then 4 else 0) + (if c.ovf > 0 then 2 else 0) + (if c.unf > 0 then 1 else 0)

/-- Row m of a fused group converted and written to the Slate (R159), with the flags of its elements. -/
def fusedRow (t a m : Nat) (g : Group) (r : Nat) (s : State) : FlagCount × State :=
  let (d, c) := outRow (if g.int then 9 else 0xC) (stOfmt r) (stCtrl r) (stOscheme r) {} ((inkRow s t a (accRow r m)).take g.n)
  (c, slateWrite t (stDst r + m * stDstStride r) (rowBytes g.n (stOfmt r) (stOscheme r)) d 0 (countFlags t c s))

/-- A fused group drains row m as soon as it is written (R159). -/
def fusedDrain (t a m : Nat) (g : Group) (r : Nat) (s : State) : State :=
  let (c, s1) := fusedRow t a m g r s
  updProg t a (fun x => dOp x.raw = 2 ∧ ¬ x.ended) (fun x => { x with flags := x.flags ||| flagBits c }) s1

/-- R163: the efficiencies of a closed group; its rows may be read by a VOP (R221). -/
def closeGroup (t a : Nat) (s : State) : State :=
  let x := getArray s t a
  match x.group with
  | none => s
  | some g =>
    let ce := if x.colAll = 0 then 0 else x.colUse * 1000 / x.colAll
    let re := if x.rowAll = 0 then 0 else x.rowUse * 1000 / x.rowAll
    setObj t (Obj.columnEfficiency + a) ce (setObj t (Obj.rowEfficiency + a) re
      (modArray t a (fun x => { x with group := none, closed := some (g.a0, min 512 (groupRows g.recipe g.m)) }) s))

/-- The last row of the STREAM in progress has entered. -/
def finishStream (t a : Nat) (m : Nat) (s : State) : State :=
  let s1 := updProg t a (fun d => dOp d.raw = 2 ∧ ¬ d.ended) (fun d => { d with ended := true, status := stOk, count := m })
    (modArray t a (fun x => { x with stream := none }) s)
  match (getArray s1 t a).group with
  | some g => if g.fused then closeGroup t a s1 else s1
  | none => s1

/-- An opened or joined group, with the STREAM and the LOADWs before it. -/
def joinGroup (x : ArrayS) (p : Plane) (d : Desc) : Group :=
  let r := d.raw
  match x.group with
  | some g => { g with descs := g.descs ++ x.loads ++ [d], lastStream := d.qaddr, n := max g.n p.n }
  | none =>
    { a0 := stA0 r, m := stM r, cls := streamClass p r, n := p.n, int := streamInt p r, init := stInit r
      fused := stFused r, recipe := stRecipe r, opening := (x.loads.headD d).idx, descs := x.loads ++ [d]
      retried := bit d.flags 4, lastStream := d.qaddr }

/-- Two ranges of rows, each from a first row on around the 512, have a row in common. -/
def rowsMeet (lo n a k : Nat) : Bool := decide (0 < n ∧ 0 < k ∧ ((a + 512 - lo) % 512 < n ∨ (lo + 512 - a) % 512 < k))

/-- The rows a VOP may read end where a new group writes them (R221). -/
def closedAfter (x : ArrayS) (r : Nat) : Option (Nat × Nat) :=
  match x.closed with
  | some (lo, n) =>
    if stInit r ≠ 0 ∧ rowsMeet lo n (stA0 r) (min 512 (groupRows (stRecipe r) (stM r))) then none else some (lo, n)
  | none => none

/-- The inputs of the rows of a group with k = 0 that the STREAM reads are bad (R170). -/
def biasBad (s : State) (t r : Nat) : Bool := decide (stInit r = 2) && slateBad s t (stBias r) 512

/-- Start a STREAM that passes its checks: it joins or opens its group. One of a fused group that runs again goes on
at its row boundary (R168). -/
def streamBegin (t a : Nat) (d : Desc) (p : Plane) (s : State) : Desc × State :=
  let x := getArray s t a
  let r := d.raw
  let fresh := x.group.isNone
  let g := joinGroup x p d
  let d1 := if g.retried then { d with flags := d.flags ||| 16 } else d
  let run : StreamRun := { raw := r, idx := d.idx, qaddr := d.qaddr, next := d.pos, planeB := x.lastB }
  let s1 := modArray t a (fun x => putPlane x.lastB { p with used := true } { x with
    group := some g, loads := [], closed := closedAfter x r, stream := if p.k = 0 then none else some run
    colUse := if fresh then 0 else x.colUse, colAll := if fresh then 0 else x.colAll
    rowUse := if fresh then 0 else x.rowUse, rowAll := if fresh then 0 else x.rowAll })
    (modEngine t a (fun en => if fresh then { en with abandoned := none } else en) s)
  if p.k ≠ 0 then (d1, s1)
  else
    let s2 := if stInit r = 2 then slateScrub t (stBias r) 512 s1 else s1
    if biasBad s2 t r then (ends stUncorrectable d1, abandonGroup t a s2)
    else
      let (c, s3) := ((List.range (stM r)).drop d.pos).foldl (fun (acc : FlagCount × State) m =>
        let s' := openRowInit t a r m acc.2
        if stFused r then
          let (c, s'') := fusedRow t a m g r s'
          (sumFlags acc.1 c, s'')
        else (acc.1, s')) ({}, s2)
      ({ ends stOk d1 with flags := d1.flags ||| flagBits c }, if stFused r then closeGroup t a s3 else s3)

/-- Start a STREAM (R159): none while it waits for a LOADW or another STREAM. One that would accumulate from a
plane whose LOADW found bad data belongs to the group that LOADW belonged to, which is abandoned (R170). -/
def streamStart (t a : Nat) (d : Desc) (s0 : State) : Option (Desc × State) :=
  let x0 := getArray s0 t a
  let r := d.raw
  if x0.fenced then some (ends stResidueFault d, s0)
  else if x0.stream.isSome ∨ tripped s0 ∨ (firstLoad s0 t a).isSome then none
  else
    let s := if x0.badLoad ∧ stInit r = 0 then abandonGroup t a s0 else s0
    let x := getArray s t a
    let p := planeOf x x.lastB
    if ¬ streamFits p r then some (ends stBadFormat d, s)
    else if stM r = 0 then some (ends stOk d, s)
    else if ¬ groupFits x p r then some (ends stBadFormat d, s)
    else some (streamBegin t a d p s)

def execStream (t : TileN) (e : EngineN) (s : State) : Res :=
  run (issueDesc t.val e.val (fun r => dOp r = 2 ∧ stInit r ≠ 3) (streamStart t.val e.val)) s

/-! ## Array steps (R153 to R155) -/

/-- The activation codes of a row as the array sees them: split or summed by its feeder (R165, R166). -/
def actCodes (s : State) (t r m k : Nat) : List Nat :=
  let w := fmtBits (stFmt r)
  let row := unpackCodes w k (slateNat s t (stSrc r + m * stStride r) (elemBytes k w))
  if stFmt r = 0xC then row.map (if stRecipe r = 2 then splitLo else splitHi)
  else if stRecipe r = 4 then
    let row2 := unpackCodes w k (slateNat s t (stSrc2 r + m * stStride r) (elemBytes k w))
    (row.zip row2).map (fun x => (toFmt (actFmt r) 2 {} (addNum (plainVal (stFmt r) x.1) (plainVal (stFmt r) x.2))).1)
  else row

/-- Activation scales of a row (R194). -/
def actScale (s : State) (t r m k sg : Nat) : Nat :=
  slateNat s t (stSrc r + m * stStride r + elemBytes k (fmtBits (stFmt r)) + sg) 1

/-- The column sum of column j for a row of activation values (R154, R155). Columns from n on hold zero weights, and
no scale (R157). -/
def colSumOf (p : Plane) (af : Nat) (xs : List Num) (scales : List Num) (j : Nat) : Num :=
  let b := planeBook p
  let wf := planeFmt p.wfmt
  let used := decide (j < p.n)
  let ws := (List.range p.k).map (fun i => if used then elemVal wf p.scheme b (weightCode p i j) else numZero false)
  let prods := (xs.zip ws).map (fun x => mulNum x.1 x.2)
  let sc := (scales.zip ((List.range scales.length).map (fun sg =>
    if used then scaleVal p.scheme (weightScale p sg j) else numInt 1)))
  columnSum (alignedPair wf af b) (decide (max (fmtClass wf) (fmtClass af) = 2)) p.scheme prods sc

/-- R155: one accumulator after a column sum: its value and whether it saturated. -/
def accumulate (int : Bool) (acc : Nat) (v : Num) : Nat × Bool :=
  if int then
    match addNum (numInt (toSigned 32 acc)) v with
    | .fin s n d =>
      let r := toInteger 32 0 (.fin s n d)
      (r.1, r.2 / 2 % 2 = 1)
    | _ => (acc, false)
  else (f32Add acc (f32Of v), false)

/-- The 128 column sums of a row: those of the idle columns are alike. -/
def colSums (p : Plane) (af : Nat) (xs scales : List Num) : List Num :=
  let idle := colSumOf p af xs scales p.n
  (List.range 128).map (fun j => if j < p.n then colSumOf p af xs scales j else idle)

/-- The row m enters: its 128 column sums reach the Inkwell. -/
def enterRow (t a m : Nat) (p : Plane) (g : Group) (r : Nat) (s : State) : State :=
  let af := actFmt r
  let xs := (actCodes s t r m p.k).map (elemVal af (stScheme r) {})
  let sc := (List.range (segments p.k p.scheme)).map (fun sg => scaleVal p.scheme (actScale s t r m p.k sg))
  let s1 := bump t Obj.blockScaleNaN (sc.filter Num.isNan).length (openRowInit t a r m s)
  let row := accRow r m
  let old := inkRow s1 t a row
  let new := (old.zip (colSums p af xs sc)).map (fun e => accumulate g.int e.1 e.2)
  let sats := (new.filter (·.2)).length
  let s2 := putInkRow t a row (new.map (·.1)) s1
  let s3 := if sats = 0 then s2 else
    bump t (Obj.intSaturations + a) sats (modArray t a (fun x => { x with group := x.group.map (fun g => { g with sat := true }) }) s2)
  let s4 := countEv t 0x0021 a 1 s3
  if g.fused then fusedDrain t a m g r s4 else s4

/-- The Slate inputs of a row: (offset, bytes). -/
def rowInputs (r m : Nat) (p : Plane) : List (Nat × Nat) :=
  let n := actBytes p r
  (stSrc r + m * stStride r, n) :: ((if stRecipe r = 4 then [(stSrc2 r + m * stStride r, n)] else [])
    ++ (if stInit r = 2 then [(stBias r, 512)] else []))

/-- They are read; one of them holds an uncorrectable word (R170). -/
def rowRead (t r m : Nat) (p : Plane) (s : State) : State :=
  (rowInputs r m p).foldl (fun s e => slateScrub t e.1 e.2 s) s
def rowBad (s : State) (t r m : Nat) (p : Plane) : Bool := (rowInputs r m p).any (fun e => slateBad s t e.1 e.2)

/-- The signed 4-bit digits of an integer, lowest first (Table 6.1). -/
def digits : Nat → Int → List Int
  | 0, _ => []
  | n + 1, v =>
    let d := (v + 8) % 16 - 8
    d :: digits n ((v - d) / 16)

/-- The activation digit a row feeder presents in a step of its row (Table 6.3); none in a step of exponents. -/
def stepDigit (cls af : Nat) (steps : Nat) (code : Nat) : Option Int :=
  let v := sigOf af {} code
  if cls = 0 then some v
  else if cls = 1 then (if isInt af then (digits 2 v)[steps]? else if steps = 1 then some v else none)
  else (digits 4 v)[steps / 2]?

/-- Check point 0x01 (R167, R264): the column of a Nib whose stored residue does not fit its weight, found by the
product of this step; a stored 0b11 is found by any. -/
def nibFault (s : State) (t : Nat) (p : Plane) (st : StreamRun) : Option Nat :=
  if p.resid = planeResid p then none
  else
    let af := actFmt st.raw
    let xs := (actCodes s t st.raw st.next p.k).map (stepDigit (streamClass p st.raw) af st.steps)
    (List.range 128).find? (fun j => (List.range 256).any (fun i =>
      let r := bits p.resid (2 * (128 * i + j)) 2
      match (xs[i]?).getD (some 0) with
      | some d => r = 3 || residue ((r : Int) * d) ≠ residue (weightSig p i j * d)
      | none => false))

/-- R173: the STREAM stands at a 16-row boundary with a pre-emption pending. -/
def atStop (s : State) (t : Nat) (x : ArrayS) (st : StreamRun) : Bool :=
  x.preempt.isSome && flag s t Obj.preemptEnable && decide (st.steps = 0 ∧ st.next % 16 = 0)

/-- Tokens of an array: u_a times the compute fraction (R295, R296, R315). -/
def arrayFraction (s : State) (t : Nat) : Nat := (getSensor s t).u * computeFraction s t / 1000

/-- The counts of a step (R163, Table 6.13). -/
def countStep (t a : Nat) (p : Plane) (s : State) : State :=
  let s1 := countEv t 0x0020 a 1 (bump t (Obj.arraySteps + a) 1 (bump t (Obj.activeColumnSteps + a) p.n s))
  meterToken t a (arrayFraction s t) (modArray t a (fun x => { x with
    colUse := x.colUse + p.n, colAll := x.colAll + 128, rowUse := x.rowUse + p.k, rowAll := x.rowAll + 256 }) s1)

/-- The last step of a row: its inputs and its accumulators are read, and it enters, or the group ends. -/
def enterStep (t a : Nat) (st : StreamRun) (g : Group) (p : Plane) (cur : Desc) (s : State) : State :=
  let r := st.raw
  let s1 := rowRead t r st.next p s
  if rowBad s1 t r st.next p then endStream t a stUncorrectable 0 (abandonGroup t a s1)
  else
    match (if stInit r = 0 then readInk t a (accRow r st.next) s1 else (none, s1)) with
    | (some f, s2) => arrayFault t a f cur s2
    | (none, s2) =>
      let s3 := modArray t a (fun x => { x with stream := some { st with next := st.next + 1, steps := 0 } })
        (enterRow t a st.next p g r s2)
      if st.next + 1 ≥ stM r then finishStream t a (stM r) s3 else s3

/-- The mismatch of a step: one given, at a check point that the step passes (5 for a row that a fused group
converts), or that of a weight whose residue is wrong (R167, R264). -/
def stepFault (s : State) (t : Nat) (p : Plane) (g : Group) (st : StreamRun) (last : Bool) (fault : Option (Nat × Nat)) :
    Option ArrayFault :=
  match fault.filter (fun f => (1 ≤ f.1 && f.1 ≤ 4) || (decide (f.1 = 5) && g.fused && last)) with
  | some f => some (mismatch f.1 f.2)
  | none => (nibFault s t p st).map (mismatch 1)

/-- The STREAM descriptor in progress on an array. -/
def streamDesc (s : State) (t a : Nat) (st : StreamRun) : Desc :=
  ((getEngine s t a).prog.find? (fun d => dOp d.raw = 2 ∧ ¬ d.ended)).getD { idx := st.idx, raw := st.raw, qaddr := st.qaddr }

/-- ARRAY_STEP (R153): one step of the STREAM in progress; the last of a row enters it. `fault` is a residue
mismatch of this step: check point and column (R167). -/
def arrayStep (t a : Nat) (fault : Option (Nat × Nat)) (s : State) : State :=
  let x := getArray s t a
  match x.stream, x.group with
  | some st, some g =>
    if tripped s ∨ inReset s t ∨ tokenHeld s t a ∨ atStop s t x st then s
    else
      let p := planeOf x st.planeB
      let last := decide (st.steps + 1 ≥ classSteps (streamClass p st.raw))
      let s1 := countStep t a p s
      match stepFault s t p g st last fault with
      | some f => arrayFault t a f (streamDesc s t a st) s1
      | none =>
        if last then enterStep t a st g p (streamDesc s t a st) s1
        else modArray t a (fun x => { x with stream := some { st with steps := st.steps + 1 } }) s1
  | _, _ => s

def execArrayStep (t : TileN) (a : ArrayN) (fault : Option (BitVec 8 × Fin 128)) (s : State) : Res :=
  run (arrayStep t.val a.val (fault.map (fun f => (f.1.toNat, f.2.val)))) s

/-- ARRAY_UNFENCE (R169). -/
def writeUnfence (t a v : Nat) (s : State) : State :=
  if v > 1 then answer stBadFormat s
  else if v = 1 then answer stOk (modArray t a (fun x => { x with fenced := false }) s) else answer stOk s

def execArrayUnfence (t : TileN) (a : ArrayN) (v : BitVec 8) (s : State) : Res := run (writeUnfence t.val a.val v.toNat) s

/-! ## DRAIN (R160, R166, R221) -/

/-- Rows of results of a DRAIN: real rows, or the imaginary rows of a complex group. -/
def drainRow (s : State) (t a : Nat) (g : Group) (r i : Nat) (imag : Bool) : Nat × FlagCount :=
  let k1 := (inkRow s t a (g.a0 + i)).take g.n
  if ¬ drComplex r then outRow (if g.int then 9 else 0xC) (drOfmt r) (drCtrl r) (drOscheme r) {} k1
  else
    let k := (inkRow s t a (g.a0 + (if imag then g.m else 2 * g.m) + i)).take g.n
    if g.int then
      outNums (drOfmt r) (drCtrl r) (drOscheme r) ((k1.zip k).map (fun x =>
        let b := numInt (toSigned 32 x.2)
        addNum (numInt (toSigned 32 x.1)) (if imag then b else negNum b)))
    else
      outRow 0xC (drOfmt r) (drCtrl r) (drOscheme r) {} ((k1.zip k).map (fun x =>
        f32Of (addNum (f32Val x.1) (if imag then f32Val x.2 else negNum (f32Val x.2)))))

/-- R221: the DRAIN fits the open group and its output format. -/
def drainFits (g : Group) (r : Nat) : Bool :=
  decide (g.a0 = drA0 r ∧ g.m = drRows r) && (!drComplex r || decide (g.recipe ≥ 4)) && !g.fused
    && (drKeep r || (outOk (if g.int then 9 else 0xC) (drOfmt r) (drOscheme r)
      && rowsFit (drDst r) (drRows r) (drStride r) (rowBytes g.n (drOfmt r) (drOscheme r))
      && (!drComplex r || rowsFit (drDst2 r) (drRows r) (drStride r) (rowBytes g.n (drOfmt r) (drOscheme r)))))

/-- Write every row of a DRAIN; the flags of all elements. -/
def drainRows (t a : Nat) (g : Group) (r : Nat) (s : State) : FlagCount × State :=
  let n := rowBytes g.n (drOfmt r) (drOscheme r)
  (List.range g.m).foldl (fun (acc : FlagCount × State) i =>
    let (d, c) := drainRow acc.2 t a g r i false
    let s1 := slateWrite t (drDst r + i * drStride r) n d 0 acc.2
    if drComplex r then
      let (d2, c2) := drainRow acc.2 t a g r i true
      (sumFlags acc.1 (sumFlags c c2), slateWrite t (drDst2 r + i * drStride r) n d2 0 s1)
    else (sumFlags acc.1 c, s1)) ({}, s)

/-- The Inkwell rows of a DRAIN are read: those of all its ranges. -/
def drainRead (t a : Nat) (g : Group) (r : Nat) (s : State) : Option ArrayFault × State :=
  (List.range (if drComplex r then 3 * g.m else g.m)).foldl (fun (acc : Option ArrayFault × State) i =>
    let (f, s1) := readInk t a (g.a0 + i) acc.2
    (acc.1.or f, s1)) (none, s)

/-- A DRAIN of its group: its results are written, and the group closes. -/
def drainRun (t a : Nat) (g : Group) (d : Desc) (s : State) : Desc × State :=
  let r := d.raw
  let fl := d.flags ||| (if g.retried then 16 else 0) ||| (if g.sat then 8 else 0)
  if drKeep r then ({ ends stOk d with flags := fl }, closeGroup t a s)
  else
    let (c, s1) := drainRows t a g r s
    ({ ends stOk d with flags := fl ||| flagBits c, count := g.m * g.n * (if drComplex r then 2 else 1) },
      closeGroup t a (countFlags t c s1))

/-- A DRAIN that meets a fault: it runs again after its group, or ends with it (R168). -/
def drainFault (t a : Nat) (f : ArrayFault) (g : Group) (d : Desc) (s : State) : Option Desc × State :=
  let s1 := arrayFault t a f d s
  if faultRetries s t a g f then (none, s1) else (some { d with ended := true, status := f.status, detail := f.detail }, s1)

/-- Start and end a DRAIN: none while a STREAM of the group runs. `fault` is a residue mismatch of its conversion in
a column (check point 5). -/
def drainStart (t a : Nat) (fault : Option Nat) (d : Desc) (s : State) : Option (Option Desc × State) :=
  let x := getArray s t a
  let r := d.raw
  if x.fenced then some (some (ends stResidueFault d), s)
  else if x.stream.isSome ∨ tripped s ∨ (getEngine s t a).prog.any (fun d => dOp d.raw = 2 ∧ ¬ d.ended) then none
  else match x.group with
    | none => some (some (ends stBadFormat d), s)
    | some g =>
      if ¬ drainFits g r then some (some (ends stBadFormat d), s)
      else
        match fault, (if drKeep r then (none, s) else drainRead t a g r s) with
        | _, (some f, s1) => some (drainFault t a f g d s1)
        | some col, (none, s1) => some (drainFault t a (mismatch 5 col) g d s1)
        | none, (none, s1) =>
          let (d1, s2) := drainRun t a g d s1
          some (some d1, s2)

/-- DRAIN (R160). -/
def drain (t a : Nat) (fault : Option Nat) (s : State) : State :=
  issueCore t a (fun r => dOp r = 3) (drainStart t a fault) s

def execDrain (t : TileN) (e : EngineN) (fault : Option (Fin 128)) (s : State) : Res :=
  run (drain t.val e.val (fault.map Fin.val)) s

/-! ## Pre-emption and save areas (R173 to R176) -/

/-- A request of pre-emption: a fenced array ignores it, a second one is satisfied by the first save. -/
def requestPreempt (t a : Nat) (s : State) : State :=
  modArray t a (fun x => if x.fenced ∨ x.preempt.isSome then x else { x with preempt := some s.time.elapsed }) s

/-- Raise requests for the arrays of a mask. -/
def preemptMask (t mask : Nat) (s : State) : State :=
  (onesOf 4 mask).foldl (fun s a => requestPreempt t a s) s

/-- PREEMPT_REQUEST (R173). -/
def writePreempt (t v : Nat) (s : State) : State :=
  if v ≥ 16 then answer stBadFormat s else answer stOk (preemptMask t v s)

def execPreemptRequest (t : TileN) (v : BitVec 8) (s : State) : Res := run (writePreempt t.val v.toNat) s

/-- The device address of an operand of engine `e`'s mover channel, as a save header names it. -/
def addr40 (s : State) (t m addr : Nat) : Nat :=
  if adSpace addr ≠ 1 then adLow addr
  else
    let u := addrTile addr
    match windowEntry s (getObj s t (Obj.mapWindow + m)) addr with
    | none => adLow addr
    | some (e, off) =>
      let x := getEntry s u e
      let w := if x.state = 2 then x.tile else u
      devAddr w (blockPlace (poolFirst s w) (poolG s w) x.block (off / 2048) + off % 2048)

/-- Remember which operand a header's address stands for. -/
def noteSource (t a a40 addr : Nat) (s : State) : State :=
  modArray t a (fun x => { x with sources := (a40, addr) :: x.sources.filter (fun e => e.1 ≠ a40) }) s

/-- The operand a header's address stands for: a remembered one, else the device address. -/
def sourceOf (s : State) (t a a40 : Nat) : Nat :=
  match (getArray s t a).sources.find? (fun e => e.1 = a40) with
  | some e => e.2
  | none => a40

/-- The save header (Table 6.11). -/
def headerBits (s : State) (wsrc sdesc total next a0 saved : Nat) (p : Plane) (r init : Nat) (book state : Nat) : Nat :=
  fld 448 40 wsrc + fld 408 40 sdesc + fld 376 32 total + fld 344 32 next + fld 335 9 a0 + fld 325 10 saved
    + fld 316 9 p.k + fld 308 8 p.n + fld 304 4 p.wfmt + fld 300 4 (stFmt r) + fld 298 2 init + fld 297 1 (b2n (stFused r))
    + fld 295 2 (stScheme r) + fld 292 3 (stRecipe r) + fld 128 128 book + fld 64 64 s.time.timeBase + fld 0 8 state

/-- Bytes of a row that lie in the bad ones of its Inkwell words. -/
def badRowBytes (bad : List Nat) : Nat := bad.foldl (fun m w => m + 0xFF * 2 ^ (8 * (w % 64))) 0

/-- Write accumulator rows to a save area; words found uncorrectable are written poisoned (R176). Whether one was. -/
def saveRows (t a base a0 n : Nat) (s : State) : Bool × State :=
  (List.range n).foldl (fun (acc : Bool × State) i =>
    let bad := inkBadWords acc.2 t a (a0 + i)
    let (f, s1) := readInk t a (a0 + i) acc.2
    (acc.1 || f.isSome,
      slateWrite t (base + 0x1000 + i * 512) 512 (packCodes 32 (inkRow s1 t a (a0 + i))) (badRowBytes bad) s1)) (false, s)

/-- The STREAM of a group, stopped or its latest: descriptor address, words, next row (R173, R228). -/
def streamOf (x : ArrayS) (g : Group) : Nat × Nat × Nat :=
  match x.stream with
  | some st => (st.qaddr, st.raw, st.next)
  | none => (g.lastStream, ((g.descs.filter (fun d => dOp d.raw = 2)).getLast?.map (fun d => d.raw)).getD 0, g.m)

/-- Steps 4 and 5 of R173: the rows and the header of the open group go to the save area. What the group's
descriptors were is kept beside it. -/
def saveGroup (t a base : Nat) (g : Group) (s : State) : State :=
  let x := getArray s t a
  let (qaddr, r, next) := streamOf x g
  let p := match x.stream with | some st => planeOf x st.planeB | none => planeOf x x.lastB
  let rows := if g.fused then 0 else min 512 (groupRows g.recipe g.m)
  let w40 := addr40 s t (2 * a) p.src
  let d40 := addr40 s t (2 * a + 1) qaddr
  let (bad, s1) := saveRows t a base g.a0 rows s
  let h := headerBits s1 w40 d40 g.m next g.a0 rows p r g.init
    (if isBook p.wfmt then (planeBook p).entries else 0) (if bad then 2 else 1)
  modArray t a (fun x => { x with kept := (base, g.descs) :: x.kept.filter (fun e => e.1 ≠ base) })
    (noteSource t a w40 p.src (noteSource t a d40 qaddr (slateWrite t base 64 h 0 s1)))

/-- Steps 4 to 6 of R173: rows and header to the save area, planes discarded. -/
def saveArray (t a : Nat) (s : State) : State :=
  let x := getArray s t a
  let base := getObj s t (Obj.saveAreaBase + a)
  let since := x.preempt.getD s.time.elapsed
  let s1 := match x.group with
    | none => slateWrite t base 64 (headerBits s 0 0 0 0 0 0 {} 0 0 0 1) 0 s
    | some g => saveGroup t a base g s
  let next := match x.stream with | some st => st.next | none => 0
  let s2 := updProg t a (fun d => x.stream.isSome ∧ dOp d.raw = 2 ∧ ¬ d.ended) (fun d =>
    { d with ended := true, status := stPreempted, count := next }) s1
  let s3 := modArray t a (fun x => { x with
    group := none, stream := none, planeA := {}, planeB := {}, lastB := false, preempt := none, loads := [], badLoad := false }) s2
  setObj t (Obj.lastPreemptLatency + a) (ceilDiv (s.time.elapsed - since) 10 * 10) (bump t (Obj.preemptions + a) 1 s3)

/-- A group waits to run again (R168): a pre-emption then applies to the retry (R176). -/
def retryDue (s : State) (t a : Nat) : Bool :=
  (getEngine s t a).ready.any (fun d => d.replay || (bit d.flags 4 && decide (1 ≤ dOp d.raw ∧ dOp d.raw ≤ 3)))

/-- The array can stop and save now (R173). A LOADW that the array is taking completes first (R176). -/
def canSave (s : State) (t a : Nat) : Bool :=
  let x := getArray s t a
  x.preempt.isSome && !x.fenced && !tripped s && !retryDue s t a && !(getEngine s t a).prog.any (fun d => d.taking && !d.ended) &&
    (match x.group, x.stream with
     | none, _ => true
     | some _, some st => atStop s t x st
     | some _, none => flag s t Obj.preemptEnable)

/-- The array is saving: stopped, and its save not done (ArrayState 2). -/
def saving (s : State) (t a : Nat) : Bool := canSave s t a && (getArray s t a).group.isSome

/-- The queue index before the next descriptor to be issued: where an engine with nothing to complete stops (R231). -/
def stopPoint (s : State) (t e : Nat) : Nat :=
  let size := max 1 (getObj s t (Obj.engineQueueSize + e))
  (match (getEngine s t e).ready with
   | d :: _ => d.idx + size - 1
   | [] => getObj s t (Obj.engineHead + e) + size - 1) % size

/-- PREEMPT_SAVE_DONE (R173): the save of an array is done, and its engine is to stop PRE-EMPTED. -/
def preemptSaveDone (t a : Nat) (s : State) : State :=
  if ¬ canSave s t a then s
  else
    let had := (getArray s t a).stream.isSome
    let s1 := saveArray t a s
    if had ∨ (getEngine s1 t a).halt ≠ 0 then s1
    else settle t a (stopLater t a 6 (stopPoint s1 t a) stPreempted s1)

def execPreemptSaveDone (t : TileN) (a : ArrayN) (s : State) : Res := run (preemptSaveDone t.val a.val) s

/-- SAVE_AREA_BASE_WRITE (R176): refused with RETRY while the array is saving. -/
def writeSaveBase (t a v : Nat) (s : State) : State :=
  if ¬ inRange (Obj.saveAreaBase + a) v then answer stBadFormat s
  else if saving s t a then answer stRetry s
  else storeObj t (Obj.saveAreaBase + a) v s

def execSaveAreaBaseWrite (t : TileN) (a : ArrayN) (v : BitVec 32) (s : State) : Res :=
  run (writeSaveBase t.val a.val v.toNat) s

/-- The state byte of a save header becomes 0x00. -/
def clearHeader (t base : Nat) (s : State) : State := slateWrite t base 1 0 0 s

/-- Restore saved rows into the Inkwell. -/
def restoreRows (t a base a0 n : Nat) (s : State) : State :=
  (List.range n).foldl (fun s i =>
    putInkRow t a (a0 + i) (unpackCodes 32 128 (slateNat s t (base + 0x1000 + i * 512) 512)) s) s

/-- The STREAM a resuming descriptor stands for: the body of the one stopped under its own header. -/
def resumedRaw (d : Desc) (raw : Nat) : Nat := raw / 2 ^ 64 * 2 ^ 64 + d.raw % 2 ^ 64

/-- R174: the resumed group and STREAM of a valid header; `raw` is the STREAM stopped, `image` its weights. A retry
runs the descriptors kept from the save again, where there are any. -/
def resumeRun (t a base h raw image wsrc sdesc : Nat) (d : Desc) (s : State) : Desc × State :=
  let p0 : Plane :=
    { valid := true, used := true, k := bits h 316 9, n := bits h 308 8, wfmt := bits h 304 4, scheme := bits h 295 2
      recipe := stRecipe raw, src := wsrc, image := image }
  let p := { p0 with resid := planeResid p0 }
  let total := bits h 376 32
  let next := bits h 344 32
  let me : Desc := { idx := d.idx, raw := resumedRaw d raw, qaddr := d.qaddr }
  let before := (((getArray s t a).kept.find? (fun e => e.1 = base)).map (fun e => e.2.dropLast)).getD []
  let g : Group :=
    { a0 := bits h 335 9, m := total, cls := streamClass p raw, n := p.n, int := streamInt p raw, init := bits h 298 2
      fused := bit h 297, recipe := stRecipe raw, opening := (before.headD d).idx, retried := before.isEmpty, lastStream := sdesc
      descs := before ++ [me] }
  let run : StreamRun := { raw := raw, idx := d.idx, qaddr := sdesc, next := next }
  let s1 := clearHeader t base (restoreRows t a base g.a0 (bits h 325 10) s)
  let s2 := modArray t a (fun x => { x with
    planeA := p, planeB := {}, lastB := false, group := some g, closed := none, loads := []
    stream := if next < total then some run else none, colUse := 0, colAll := 0, rowUse := 0, rowAll := 0 }) s1
  let d1 := { d with raw := me.raw }
  if next < total then (d1, s2) else ({ ends stOk d1 with count := 0 }, s2)

/-- Operations that reload the weights and the STREAM descriptor of a resumed group. -/
def opReload (o : MoverOp) : Bool := match o.use with | .weights | .stream => true | _ => false

/-- R229, R174: a resuming STREAM that finds its save poisoned ends, and its engine is to stop. -/
def resumeBad (t a base : Nat) (d : Desc) (s : State) : Desc × State :=
  (ends stUncorrectable d, stopLater t a 3 d.idx stUncorrectable (clearHeader t base s))

/-- R220, R174: a STREAM with init 3; none while it waits. A valid header makes the mover channels of the engine
read the STREAM stopped and its weight image. -/
def resumeStart (t a : Nat) (d : Desc) (s0 : State) : Option (Desc × State) :=
  let x := getArray s0 t a
  let base := getObj s0 t (Obj.saveAreaBase + a)
  if x.fenced then some (ends stResidueFault d, s0)
  else if x.stream.isSome ∨ tripped s0 ∨ (firstLoad s0 t a).isSome then none
  else if x.group.isSome then some (ends stBadFormat d, s0)
  else
    let s1 := slateScrub t base 64 s0
    let h := slateNat s1 t base 64
    let st := bits h 0 8
    let s := slateScrub t (base + 0x1000) (512 * bits h 325 10) s1
    if slateBad s t base 64 then some (resumeBad t a base d s)
    else if st = 0 ∨ st > 2 then some (ends stBadFormat d, s1)
    else if st = 2 ∨ slateBad s t (base + 0x1000) (512 * bits h 325 10) then some (resumeBad t a base d s)
    else if bits h 376 32 = 0 then some (ends stOk d, clearHeader t base s)
    else
      let wsrc := sourceOf s t a (bits h 448 40)
      let q : MoverOp := { tag := 0, use := .stream, addr := sourceOf s t a (bits h 408 40), len := 64 }
      let l := cutRange s none 1024 wsrc 0 (imgBytes (bits h 316 9) (bits h 308 8) (bits h 304 4) (bits h 295 2))
      let s2 := l.foldl (fun s e =>
        addOp t (2 * a) { tag := 0, use := .weights, addr := e.1, off := e.2.1, len := e.2.2, detail := e.2.1 } s)
        (addOp t (2 * a + 1) q s)
      some (d, s2)

/-- The operations of a reload. -/
def reloads (s : State) (t a : Nat) : List MoverOp :=
  ((getMover s t (2 * a + 1)).ops ++ (getMover s t (2 * a)).ops).filter opReload

/-- A resuming STREAM that has not got its group yet. -/
def resuming (d : Desc) : Bool := dOp d.raw = 2 && decide (stInit d.raw = 3) && !d.ended

/-- A reload ends: with the resumed group, or with the highest status of its requests. One that returns bad data
halts its channel (R227). -/
def reloadEnd (t a : Nat) (s : State) : State :=
  let l := reloads s t a
  if l = [] ∨ l.any (fun o => !opDone o) then s
  else
    match (getEngine s t a).prog.find? resuming with
    | none => s
    | some d =>
      let base := getObj s t (Obj.saveAreaBase + a)
      let st := l.foldl (fun m o => if statusRank (opStatus o) > statusRank m then opStatus o else m) stOk
      let s1 := dropOps t (2 * a) opReload (dropOps t (2 * a + 1) opReload s)
      let (d1, s2) :=
        if st ≠ stOk then
          let s2 := clearHeader t base s1
          (ends st d, match l.find? (fun o => badData (opStatus o)) with
            | some o => stopLater t a 4 d.idx st (haltMover t (if o.use == .stream then 2 * a + 1 else 2 * a) (opStatus o) o.addr s2)
            | none => s2)
        else
          let h := slateNat s1 t base 64
          let image := ((l.filter (fun o => o.use == .weights)).foldl (fun n o => n + o.data * 2 ^ (8 * o.off)) 0)
          let q := ((l.find? (fun o => o.use == .stream)).map (fun o => (o.data, o.addr))).getD (0, 0)
          resumeRun t a base h q.1 image (sourceOf s1 t a (bits h 448 40)) q.2 d s1
      updProg t a resuming (fun _ => d1) s2

/-- The next request of a reload that can leave. -/
def reloadStep (t m : Nat) (s : State) : Option State :=
  let x := getMover s t m
  if outstanding x ≥ 64 then none
  else ((x.ops.find? (fun o => opReload o && opUnsent o)).filter (canSend s t m)).map (fun o => sendTake t m o s)

/-- The reload of an array goes on. -/
def reloadPump (t a : Nat) (s : State) : State :=
  reloadEnd t a (pumpLoop (reloadStep t (2 * a + 1)) 1024 (pumpLoop (reloadStep t (2 * a)) 1024 s))

/-- STREAM_RESUME (R220). -/
def streamResume (t e : Nat) (s : State) : State :=
  reloadPump t e (issueDesc t e (fun r => dOp r = 2 ∧ stInit r = 3) (resumeStart t e) s)

def execStreamResume (t : TileN) (e : EngineN) (s : State) : Res := run (streamResume t.val e.val) s

/-- ArrayState (Table 6.13). -/
def arrayState (s : State) (t a : Nat) : Nat :=
  let x := getArray s t a
  if x.fenced then 4
  else if tripped s ∧ x.stream.isSome then 3
  else if saving s t a then 2
  else if x.group.isSome then 1 else 0

/-- R175: an array after an engine or tile reset; a fence stays. -/
def resetArray (t a : Nat) (s : State) : State :=
  let s1 := abandonGroup t a s
  modArray t a (fun x => { x with
    planeA := {}, planeB := {}, lastB := false, stream := none, group := none, preempt := none, loads := [], closed := none, badLoad := false }) s1

end Sys2Proof.Machine
end

