-- ==== Sys2Proof/Machine/Vector.lean ====
section
/-! DEFINITION. The vector unit (R171, R172, R222): one VOP at a time, row by row. Every result is
binary32, rounded once for each operation, and converted on output (R203). -/

namespace Sys2Proof.Machine

open Sys2Proof

/-! ## Operations on binary32 codes -/

/-- MAX of two codes: a NaN gives the canonical NaN, +0 ranks above -0 (Table 6.9). -/
def maxCode (a b : Nat) : Nat :=
  let x := f32Val a
  let y := f32Val b
  if x.isNan || y.isNan then f32.nanCode
  else if gtNum x y then a
  else if gtNum y x then b
  else if x.isZero && decide (a = 2 ^ 31) then b else a

/-- MAX of a row. -/
def maxRow : List Nat → Nat
  | [] => 0
  | a :: r => r.foldl maxCode (maxCode a a)

/-- A sum rounded to binary32. -/
def roundSum (a b : Num) : Num := f32Val (f32Of (addNum a b))

/-- One level of a pairwise sum. -/
def pairUp : List Num → List Num
  | a :: b :: r => roundSum a b :: pairUp r
  | l => l

/-- The pairwise sum of 128 lanes; lanes without an element hold +0. -/
def sumLanes (l : List Num) : Num :=
  let full := l ++ List.replicate (128 - l.length) (numZero false)
  ((pairUp (pairUp (pairUp (pairUp (pairUp (pairUp (pairUp full))))))).head?).getD (numZero false)

/-- SUM of a row: pairwise in each vector of 128, then in order across vectors. -/
def sumNumbers (l : List Num) : Num :=
  match (chunksOf 128 l.length l).map sumLanes with
  | [] => numZero false
  | a :: r => r.foldl roundSum a
def sumRow (l : List Nat) : Nat := f32Of (sumNumbers (l.map f32Val))

/-- TOPK ranks a before b: a NaN above everything (Table 6.9). -/
def ranks (a b : Nat) : Bool :=
  let x := f32Val a
  let y := f32Val b
  !y.isNan && (x.isNan || gtNum x y)

/-- Insert (value, index) behind every entry that it does not rank above. -/
def topInsert (p : Nat × Nat) : List (Nat × Nat) → List (Nat × Nat)
  | [] => [p]
  | q :: r => if ranks p.1 q.1 then p :: q :: r else q :: topInsert p r

/-- The k largest elements of a row with their indices; ties go to the lower index. -/
def topRow (k : Nat) (l : List Nat) : List (Nat × Nat) :=
  (l.foldl (fun (acc : List (Nat × Nat) × Nat) v => ((topInsert (v, acc.2) acc.1).take k, acc.2 + 1)) ([], 0)).1

/-- e ^ x or 2 ^ x of each code; a free value picks each result among those within 2 ulp (R171). -/
def expRow (two : Bool) (l : List Nat) (s : State) : List Nat × State :=
  l.foldl (fun (acc : List Nat × State) c =>
    let (v, s1) := draw acc.2
    (acc.1 ++ [expCode two v c], s1)) ([], s)

/-- The code of -Inf. -/
abbrev negInf : Nat := 0xFF800000

/-- The difference of two codes, exact. -/
def f32Diff (a b : Nat) : Num := addNum (f32Val a) (negNum (f32Val b))

/-- SMACC: the running state (sum in the high word) after a row (R172). To keep the error bound of Table 6.9 over any
number of calls, differences and exponentials enter the sums unrounded, and the old sum is scaled and added with one
rounding (DEDUCED from the bound, whose γ leaves 7 + V roundings and none for a term). -/
def softAcc (st : Nat) (l : List Nat) : Nat :=
  let m := bits st 0 32
  let new := maxCode m (maxRow l)
  if new = negInf then st
  else
    let sum := sumNumbers (l.map (fun x => expNum false (f32Diff x new)))
    fld 32 32 (f32Of (addNum (mulNum (f32Val (bits st 32 32)) (expNum false (f32Diff m new))) sum)) + new

/-- SMFIN of a row under a running state (R172). -/
def softFin (st : Nat) (l : List Nat) (s : State) : List Nat × State :=
  if bits st 32 32 = 0 then (l.map (fun _ => 0), s)
  else l.foldl (fun (acc : List Nat × State) x =>
    let (v, s1) := draw acc.2
    (acc.1 ++ [f32Div (expOf false v (f32Diff x (bits st 0 32))) (bits st 32 32)], s1)) ([], s)

/-! ## Rows of a VOP -/

/-- Row i of a Slate operand, as binary32 codes. -/
def slateRow (s : State) (t base stride fmt n i : Nat) : List Nat :=
  let w := fmtBits fmt
  (unpackCodes w n (slateNat s t (base + i * stride) (elemBytes n w))).map (fun c => (convertCode fmt 0xC 2 {} c).1)

/-- Row i of the first operand of a VOP: from the Inkwell as binary32, or from the Slate. -/
def vopRow (s : State) (t r i : Nat) : List Nat :=
  if voKind r = 1 then (inkRow s t (bits (voSrc r) 21 2) (bits (voSrc r) 0 9 + i)).take (voLen r)
  else slateRow s t (voSrc r) (voSstride r) (voIfmt r) (voLen r) i

/-- The format of the second and third operands: that of the first, binary32 beside an Inkwell source. -/
def vopFmt (r : Nat) : Nat := if voKind r = 1 then 0xC else voIfmt r
def vopRow2 (s : State) (t r i : Nat) : List Nat := slateRow s t (voSrc2 r) (voSstride r) (vopFmt r) (voLen r) i
def vopRow3 (s : State) (t r i : Nat) : List Nat := slateRow s t (voSrc3 r) (voSstride r) (vopFmt r) (voLen r) i

/-- The operation uses src2, src3, the running state. -/
def vopUses2 (r : Nat) : Bool := voCode r = 4 || (voCode r = 6 && voAvec r)
def vopUses3 (r : Nat) : Bool := voCode r = 6 && voBvec r
def vopUsesState (r : Nat) : Bool := voCode r = 8 || voCode r = 9

/-- The Slate operands of row i: (offset, bytes). -/
def vopInputs (r i : Nat) : List (Nat × Nat) :=
  let n := elemBytes (voLen r) (fmtBits (vopFmt r))
  (if voKind r = 0 then [(voSrc r + i * voSstride r, n)] else [])
    ++ (if vopUses2 r then [(voSrc2 r + i * voSstride r, n)] else [])
    ++ (if vopUses3 r then [(voSrc3 r + i * voSstride r, n)] else [])
    ++ (if vopUsesState r then [(voState r + 8 * i, 8)] else [])

/-- The operands of row i are read. -/
def vopRead (t r i : Nat) (s : State) : State :=
  let s1 := (vopInputs r i).foldl (fun s e => slateScrub t e.1 e.2 s) s
  if voKind r = 1 then (readInk t (bits (voSrc r) 21 2) (bits (voSrc r) 0 9 + i) s1).2 else s1

/-- Element j of an Inkwell source lies in a poisoned word. -/
def vopInkBad (s : State) (t r i j : Nat) : Bool :=
  voKind r = 1 && sramPoisoned s t sramInkwell (inkWord (bits (voSrc r) 21 2) (bits (voSrc r) 0 9 + i) j)

/-- Row i reads a poisoned word. -/
def vopBad (s : State) (t r i : Nat) : Bool :=
  (vopInputs r i).any (fun e => slateBad s t e.1 e.2) || (List.range (voLen r)).any (vopInkBad s t r i)

/-- Element j of an operand of row i is poisoned. -/
def vopElemBad (s : State) (t r i j : Nat) : Bool :=
  let w := fmtBits (vopFmt r)
  let at_ := fun (base : Nat) =>
    slateBad s t (base + i * voSstride r + j * w / 8) ((j * w + w + 7) / 8 - j * w / 8)
  (decide (voKind r = 0) && at_ (voSrc r)) || vopInkBad s t r i j || (vopUses2 r && at_ (voSrc2 r))
    || (vopUses3 r && at_ (voSrc3 r))

/-- Output element j of row i depends on a poisoned word: on any of the row, save in an elementwise operation. -/
def vopOutBad (s : State) (t r i j : Nat) : Bool :=
  (vopUsesState r && slateBad s t (voState r + 8 * i) 8)
    || (if [3, 5, 7, 8].contains (voCode r) then (List.range (voLen r)).any (vopElemBad s t r i) else vopElemBad s t r i j)

/-- The bytes of a mask that cover an element of `w` bits at bit `lo`. -/
def coverMask (lo w : Nat) : Nat := (2 ^ ((lo + w + 7) / 8 - lo / 8) - 1) * 2 ^ (lo / 8)

/-- The bytes of an output row of `n` elements that depend on a bad one: with a scaling, all of its block and the scale,
whose place is that of a row of `full` elements. -/
def outMask (fmt scheme full n : Nat) (bad : Nat → Bool) : Nat :=
  let w := fmtBits fmt
  let k := blockSize scheme
  (List.range n).foldl (fun m j =>
    if scheme = 0 then (if bad j then m ||| coverMask (j * w) w else m)
    else if (List.range k).any (fun i => decide (j / k * k + i < n) && bad (j / k * k + i)) then
      m ||| coverMask (j * w) w ||| 2 ^ (elemBytes full w + j / k)
    else m) 0

/-- The elements row i gives, for the operations that write elements. -/
def vopResults (t r i : Nat) (s : State) : List Nat × State :=
  let x := vopRow s t r i
  match voCode r with
  | 1 => expRow false x s
  | 2 => expRow true x s
  | 3 => ([maxRow x], s)
  | 4 => ((x.zip (vopRow2 s t r i)).map (fun p => maxCode p.1 p.2), s)
  | 5 => ([sumRow x], s)
  | 6 =>
    let a := if voAvec r then vopRow2 s t r i else x.map (fun _ => voImmA r)
    let b := if voBvec r then vopRow3 s t r i else x.map (fun _ => voImmB r)
    ((x.zip (a.zip b)).map (fun p => f32Fma p.2.1 p.1 p.2.2), s)
  | _ => softFin (slateNat s t (voState r + 8 * i) 8) x s

/-- A NaN is written canonically (R181). -/
def canonical (c : Nat) : Nat := if (f32Val c).isNan then f32.nanCode else c

/-- The bytes of row i of a TOPK; a pair beyond the row's elements is a free value. -/
def topBytes (t r i : Nat) (s : State) : Nat × State :=
  let l := topRow (voK r) (vopRow s t r i)
  let (more, s1) := (List.range (voK r - l.length)).foldl (fun (acc : List Nat × State) _ =>
    let (v, s1) := draw acc.2
    (acc.1 ++ [v % 2 ^ 64], s1)) ([], s)
  (packCodes 64 (l.map (fun p => fld 32 32 p.2 + canonical p.1) ++ more), s1)

/-- Row i of a VOP, read already: its elements written and its flags. What depends on a poisoned word is written
poisoned (R280). -/
def vopStep (t r i : Nat) (s : State) : Nat × FlagCount × State :=
  let bad := fun (j : Nat) => vopOutBad s t r i j
  if voCode r = 7 then
    let (d, s1) := topBytes t r i s
    (voK r, {}, slateWrite t (voDst r + i * voDstride r) (8 * voK r) d (if bad 0 then 2 ^ (8 * voK r) - 1 else 0) s1)
  else if voCode r = 8 then
    (0, {}, slateWrite t (voState r + 8 * i) 8 (softAcc (slateNat s t (voState r + 8 * i) 8) (vopRow s t r i))
      (if bad 0 then 0xFF else 0) s)
  else
    let (l, s1) := vopResults t r i s
    let (d, c) := outRow 0xC (voOfmt r) (voCtrl r) (voOscheme r) {} l
    (l.length, c, slateWrite t (voDst r + i * voDstride r) (rowBytes l.length (voOfmt r) (voOscheme r)) d
      (if vopBad s t r i then outMask (voOfmt r) (voOscheme r) l.length l.length bad else 0) s1)

/-- The rows of a VOP in order: elements, flags, and whether a poisoned word was met. -/
def vopRows (t r : Nat) : List Nat → Nat → FlagCount → Bool → State → Nat × FlagCount × Bool × State
  | [], n, c, bad, s => (n, c, bad, s)
  | i :: rest, n, c, bad, s =>
    let s1 := vopRead t r i s
    let (k, c1, s2) := vopStep t r i s1
    vopRows t r rest (n + k) (sumFlags c c1) (bad || vopBad s1 t r i) s2

/-- A VOP run to its end: it completes POISONED where it met a poisoned word (R280). -/
def vopRun (t : Nat) (d : Desc) (s : State) : Desc × State :=
  let (n, c, bad, s1) := vopRows t d.raw (List.range (voRows d.raw)) 0 {} false s
  ({ d with ended := true, status := if bad then stPoisoned else stOk, count := n, flags := d.flags ||| flagBits c },
    countEv t 0x0023 0 n (countFlags t c s1))

/-- A residue mismatch of the vector unit: counted and logged. -/
def vopFault (t point : Nat) (s : State) : State :=
  addLog t 0x03 1 stResidueFault (residueBits s point 0) 3
    (bump t Obj.vectorResidueFaults 1 { s with vfault := fset 0 s.vfault t (s.time.elapsed + 1) })

/-- The latest mismatch of the tile lies further back than ResidueWindow (R168, R172). -/
def vopTransient (s : State) (t : Nat) : Bool :=
  let f := fget 0 s.vfault t
  decide (f = 0 ∨ f - 1 + getObj s t Obj.residueWindow * 1000000 ≤ s.time.elapsed)

/-- A VOP ended by a residue fault. -/
def vopFailed (point : Nat) (d : Desc) : Desc :=
  { d with ended := true, status := stResidueFault, detail := fld 16 8 point }

/-- A VOP whose first run and retry meet the mismatches `faults`, check point 0x10 or 0x11 each (R172). -/
def vopStart (t : Nat) (faults : List Nat) (d : Desc) (s : State) : Desc × State :=
  match faults.filter (fun p => p = 0x10 ∨ p = 0x11) with
  | [] => vopRun t d s
  | p :: rest =>
    let s1 := vopFault t p s
    if vopTransient s t then
      match rest with
      | [] => vopRun t { d with flags := d.flags ||| 16 } s1
      | q :: _ => (vopFailed q { d with flags := d.flags ||| 16 }, vopFault t q s1)
    else (vopFailed p d, s1)

/-- Issue a VOP of one operation code; while the token of the vector unit is withheld none starts (R315). -/
def vop (t e code : Nat) (faults : List (BitVec 8)) (s : State) : State :=
  issueDesc t e (fun r => dOp r = 4 ∧ voCode r = code) (fun d s =>
    if tokenHeld s t vectorToken then none
    else
      let (d1, s1) := vopStart t (byteNats faults) d s
      some (d1, meterToken t vectorToken (computeFraction s t) s1)) s

def execExp (t : TileN) (e : EngineN) (faults : List (BitVec 8)) (s : State) : Res := run (vop t.val e.val 1 faults) s
def execExp2 (t : TileN) (e : EngineN) (faults : List (BitVec 8)) (s : State) : Res := run (vop t.val e.val 2 faults) s
def execMax (t : TileN) (e : EngineN) (faults : List (BitVec 8)) (s : State) : Res := run (vop t.val e.val 3 faults) s
def execMax2 (t : TileN) (e : EngineN) (faults : List (BitVec 8)) (s : State) : Res := run (vop t.val e.val 4 faults) s
def execSum (t : TileN) (e : EngineN) (faults : List (BitVec 8)) (s : State) : Res := run (vop t.val e.val 5 faults) s
def execScale (t : TileN) (e : EngineN) (faults : List (BitVec 8)) (s : State) : Res := run (vop t.val e.val 6 faults) s
def execTopk (t : TileN) (e : EngineN) (faults : List (BitVec 8)) (s : State) : Res := run (vop t.val e.val 7 faults) s
def execSmacc (t : TileN) (e : EngineN) (faults : List (BitVec 8)) (s : State) : Res := run (vop t.val e.val 8 faults) s
def execSmfin (t : TileN) (e : EngineN) (faults : List (BitVec 8)) (s : State) : Res := run (vop t.val e.val 9 faults) s

end Sys2Proof.Machine
end

