-- ==== Sys2Proof/Machine/Transfers.lean ====
section
/-! DEFINITION. The transfers of mover channels (R223 to R227): reads go out in order, what they give is written in
order, each by requests of its own. Then the PREEMPT points (R228), resuming a stopped engine (R232) and resetting
one (R233). -/

namespace Sys2Proof.Machine

open Sys2Proof

/-! ## Reads -/

/-- Bytes moved by a mover channel. -/
def countMoved (t m n : Nat) (s : State) : State := countEv t 0x0031 m n (bump t (Obj.moverBytes + m) n s)

/-- Change the descriptor in progress on a channel. -/
def updTransfer (t m : Nat) (f : Desc → Desc) (s : State) : State := updProg t (m / 2) (onChannel m) f s

/-- A read is made, and the descriptor's place moves past it; at the end of its `n` bytes to the next piece or row. -/
def makeRead (t m n : Nat) (o : MoverOp) (s : State) : State :=
  addOp t m o (updTransfer t m (fun d =>
    if d.off + o.len ≥ n then { d with pos := d.pos + 1, off := 0 } else { d with off := d.off + o.len }) s)

/-- The next read of a GATHER, in list order. A piece whose list entry is in a poisoned word is read as bad data
(DESIGN CHOICE: Table 10.4 has no row for the list). -/
def gatherNext (t m : Nat) (d : Desc) (s : State) : Option State :=
  let r := d.raw
  let entry := gaList r + 8 * d.pos
  if d.pos ≥ gaCount r then none
  else if slateBad s t entry 8 then some (badOp t m stPoisoned (2 * 2 ^ 46 + entry) d.pos s)
  else
    let a := adPlus (gaPiece s t r d.pos) d.off
    some (makeRead t m (gaLen r) { tag := 0, use := .src, unit := d.pos, off := d.off, addr := a
                                   len := requestLen s (dPass r) a (gaLen r - d.off), pass := dPass r, detail := d.pos } s)

/-- The next read of a COPY, row by row in address order. -/
def copyNext (t m : Nat) (d : Desc) (s : State) : Option State :=
  let r := d.raw
  let a := adPlus (cpSrc r) (d.pos * cpSstride r + d.off)
  if d.pos ≥ cpRows r then none
  else some (makeRead t m (cpLen r) { tag := 0, use := .src, unit := d.pos, off := d.off, addr := a
                                      len := requestLen s (dPass r) a (cpLen r - d.off), pass := dPass r
                                      detail := d.pos * cpLen r + d.off } s)

/-- Sources of a CONVERT: rows of a, and of b for a pair (R203). -/
def cvSources (r : Nat) : Nat := if cvVariant r ≥ 2 then 2 else 1

/-- The section of the codebook is there, or none is needed. -/
def cvBooked (d : Desc) : Bool := d.taking || !cvBook d.raw

/-- A read or a codebook read that is not consumed. -/
def opSource (o : MoverOp) : Bool := match o.use with | .src | .aux | .book => true | _ => false

/-- The next read of a CONVERT: its codebook section (R199), then row after row, one ahead of the row that is
converted; a row's sources one after the other. -/
def convertNext (t m : Nat) (d : Desc) (s : State) : Option State :=
  let r := d.raw
  let n := cvInBytes r
  if ¬ cvBooked d then
    let a := adPlus (cvAux r) d.off
    if d.off ≥ 32 then none
    else
      let k := requestLen s (dPass r) a (32 - d.off)
      some (addOp t m { tag := 0, use := .book, off := d.off, addr := a, len := k, pass := dPass r, detail := d.off }
        (updTransfer t m (fun d => { d with off := d.off + k }) s))
  else
    let first := ((transferOps s t m).find? opSource).map (·.unit)
    if d.pos ≥ cvRows r ∨ (first.getD d.pos) + 1 < d.pos then none
    else
      let second := n ≤ d.off
      let off := if second then d.off - n else d.off
      let a := adPlus (if second then cvAux r else cvSrc r) (d.pos * cvSstride r + off)
      some (makeRead t m (n * cvSources r)
        { tag := 0, use := if second then .aux else .src, unit := d.pos, off := off, addr := a
          len := requestLen s (dPass r) a (n - off), pass := dPass r, detail := d.pos * n + off } s)

/-- The next read of the descriptor in progress, while 64 are not outstanding. -/
def nextRead (t m : Nat) (d : Desc) (s : State) : Option State :=
  if d.closing ∨ ((transferOps s t m).filter (fun o => !opDone o)).length ≥ 64 then none
  else if dOp d.raw = 5 then gatherNext t m d s
  else if dOp d.raw = 6 then copyNext t m d s
  else convertNext t m d s

/-! ## Writes -/

/-- The requests that write `n` bytes of data at an address; `detail` is that of the first, or of each piece. -/
def makeWrites (t m : Nat) (d : Desc) (addr n data bad detail : Nat) (s : State) : State :=
  (cutRange s (dPass d.raw) (n + 1) addr 0 n).foldl (fun s e =>
    addOp t m { tag := 0, use := .dst, addr := e.1, len := e.2.2, write := true, pass := dPass d.raw
                data := bits data (8 * e.2.1) (8 * e.2.2), pois := bits bad e.2.1 e.2.2
                detail := if dOp d.raw = 5 then detail else detail + e.2.1 } s) s

/-- Where a read of a GATHER or a COPY is written. -/
def copyDst (r : Nat) (o : MoverOp) : Nat :=
  if dOp r = 5 then adPlus (gaDst r) (o.unit * gaStride r + o.off) else adPlus (cpDst r) (o.unit * cpDstride r + o.off)

/-- What was read by a GATHER or a COPY is written, until bad data was met; its poisoned words are written
poisoned (R227). -/
def copyTake (t m : Nat) (d : Desc) (s : State) : Option State :=
  match (transferOps s t m).find? opSource with
  | none => none
  | some o =>
    if ¬ opDone o then none
    else
      let s1 := dropOps t m (fun x => decide (x.tag = o.tag)) s
      if d.cut ≠ 0 then some s1
      else
        let s2 := makeWrites t m d (copyDst d.raw o) o.len o.data o.pois o.detail s1
        some (if badData (opStatus o) then updTransfer t m (fun d => { d with cut := max 1 d.cut }) s2 else s2)

/-! ## CONVERT (R199, R202, R203) -/

/-- The element at bit `lo` of a row lies in a bad byte. -/
def elemBad (bad lo w : Nat) : Bool := decide (bad &&& coverMask lo w ≠ 0)

/-- An output row of `n` values, its scales placed for the row's full count. -/
def placeRow (r n data : Nat) : Nat :=
  let wo := fmtBits (cvOfmt r)
  if cvOscheme r = 0 then data
  else bits data 0 (8 * elemBytes n wo) + data / 2 ^ (8 * elemBytes n wo) * 2 ^ (8 * elemBytes (cvCount r) wo)

/-- Elements to convert of `len` source bytes read: whole blocks only, before the end of a row. -/
def wholeElems (r len : Nat) : Nat :=
  let n := min (cvCount r) (8 * len / max 1 (fmtBits (cvIfmt r)))
  if n = cvCount r ∨ cvOscheme r = 0 then n else n / blockSize (cvOscheme r) * blockSize (cvOscheme r)

/-- The output of `n` elements of a row: data for dst, data for the lo output, flags. -/
def cvOutput (r : Nat) (b : CodeBook) (n src aux : Nat) : Nat × Nat × FlagCount :=
  let w := fmtBits (cvIfmt r)
  let x := unpackCodes w n src
  if cvVariant r = 1 then
    (packCodes 16 (x.map splitHi), packCodes 16 (x.map splitLo), x.foldl (fun c e => addFlags c (splitFlags e)) {})
  else if cvVariant r ≥ 2 then
    let y := unpackCodes w n aux
    let (d, c) := outNums (cvOfmt r) (cvCtrl r) (cvOscheme r) ((x.zip y).map (fun p =>
      let v := plainVal (cvIfmt r) p.2
      addNum (plainVal (cvIfmt r) p.1) (if cvVariant r = 2 then v else negNum v)))
    (placeRow r n d, 0, c)
  else
    let (d, c) := outRow (cvIfmt r) (cvOfmt r) (cvCtrl r) (cvOscheme r) b x
    (placeRow r n d, 0, c)

/-- What a source of a row gives before its first gap or bad request, that one with it. -/
structure Gathered where
  len : Nat := 0
  data : Nat := 0
  bad : Nat := 0
  halted : Bool := false
  deriving DecidableEq, Repr

/-- Gather the requests of one source of a row, in order. -/
def gatherRow (l : List MoverOp) : Gathered :=
  l.foldl (fun g o =>
    if g.halted ∨ o.off ≠ g.len ∨ ¬ opDone o then g
    else { len := g.len + o.len, data := g.data + o.data * 2 ^ (8 * o.off), bad := g.bad + o.pois * 2 ^ o.off
           halted := badData (opStatus o) }) {}

/-- The requests that write an output row of `n` elements: the elements, and their scales at the row's end. -/
def cvWrites (t m i n : Nat) (d : Desc) (base data bad : Nat) (s : State) : State :=
  let r := d.raw
  let wo := fmtBits (cvOfmt r)
  let addr := adPlus base (i * cvDstride r)
  let at_ := i * cvOutBytes r
  if n = cvCount r then makeWrites t m d addr (cvOutBytes r) data bad at_ s
  else
    let s1 := makeWrites t m d addr (n * wo / 8) data bad at_ s
    let o := elemBytes (cvCount r) wo
    if cvOscheme r = 0 then s1
    else makeWrites t m d (adPlus addr o) (n / blockSize (cvOscheme r)) (data / 2 ^ (8 * o)) (bad / 2 ^ o) (at_ + o) s1

/-- A row of a CONVERT is converted, as far as it was read. -/
def cvRow (t m i : Nat) (ops : List MoverOp) (d : Desc) (s : State) : State :=
  let r := d.raw
  let w := fmtBits (cvIfmt r)
  let x := gatherRow (ops.filter (fun o => o.use == .src))
  let y := gatherRow (ops.filter (fun o => o.use == .aux))
  let two := decide (cvSources r = 2)
  let n := wholeElems r (if two then min x.len y.len else x.len)
  let b : CodeBook := if cvBook r then bookOf d.data else {}
  let (o, lo, c) := cvOutput r b n x.data y.data
  let mask := if x.bad ||| y.bad = 0 then 0
    else outMask (cvOfmt r) (cvOscheme r) (cvCount r) n (fun j => elemBad (x.bad ||| y.bad) (j * w) w)
  let s1 := updTransfer t m (fun d => { d with
    count := d.count + n, flags := d.flags ||| flagBits c, cut := if x.halted || y.halted then max 1 d.cut else d.cut })
    (countFlags t c (countMoved t m (x.len + y.len) s))
  let s2 := if n = 0 then s1 else cvWrites t m i n d (cvDst r) o mask s1
  if n = 0 ∨ cvVariant r ≠ 1 then s2 else cvWrites t m i n d (cvAux r) lo mask s2

/-- The codebook section is whole: rows are read from now on, or it is bad (R205). -/
def cvBookDone (t m : Nat) (l : List MoverOp) (s : State) : State :=
  let sec := l.foldl (fun n o => n + o.data * 2 ^ (8 * o.off)) 0
  let s1 := dropOps t m (fun o => o.use == .book) s
  if bookOk sec then updTransfer t m (fun d => { d with data := sec, taking := true, off := 0 }) s1
  else updTransfer t m (fun d => { closeWith stBadFormat 0 d with cut := 2 }) s1

/-- What was read by a CONVERT is used: the codebook section, or the oldest row. -/
def convertTake (t m : Nat) (d : Desc) (s : State) : Option State :=
  match (transferOps s t m).find? opSource with
  | none => none
  | some h =>
    let mine := (transferOps s t m).filter (fun o => opSource o && decide (o.unit = h.unit))
    if mine.any (fun o => !opDone o) then none
    else
      let s1 := dropOps t m (fun o => opSource o && decide (o.unit = h.unit)) s
      if d.cut ≠ 0 then some s1
      else if h.use == .book then
        if d.closing then some s1 else if d.off < 32 then none else some (cvBookDone t m mine s)
      else if d.closing ∨ h.unit < d.pos then some (cvRow t m h.unit mine d s1)
      else none

/-! ## The pump -/

/-- A write is done: of a GATHER or a COPY its bytes count. -/
def wroteOp (t m : Nat) (d : Desc) (o : MoverOp) (s : State) : State :=
  let s1 := dropOps t m (fun x => decide (x.tag = o.tag)) s
  if dOp d.raw = 7 ∨ ¬ (opStatus o = stOk ∨ badData (opStatus o)) then s1
  else countMoved t m o.len (updTransfer t m (fun d => { d with count := d.count + o.len }) s1)

/-- One step of the GATHER, COPY or CONVERT in progress on a channel: a write that is done, data that came, a request
that leaves, the next read, or the end. -/
def moverStep (t m : Nat) (s : State) : Option State :=
  match transferOf s t m with
  | none => none
  | some d =>
    if dOp d.raw = 1 then none
    else
      match (transferOps s t m).find? (fun o => o.use == .dst && opDone o) with
      | some o => some (wroteOp t m d o s)
      | none => match (if dOp d.raw = 7 then convertTake t m d s else copyTake t m d s) with
        | some s1 => some s1
        | none => match sendStep t m s with
          | some s1 => some s1
          | none => match nextRead t m d s with
            | some s1 => some s1
            | none => if transferOps s t m = [] then some (endTransfer t m id s) else none

/-- The descriptor in progress on a channel goes on. One command runs at most so many steps; the next goes on. -/
def moverPump (t m : Nat) (s : State) : State := pumpLoop (moverStep t m) 1048576 s

/-- A transfer of a kind: the next one is issued where it can be (R213), and those in progress go on. -/
def transfer (t e : Nat) (p : Nat → Bool) (s : State) : State :=
  let s1 := issueDesc t e p (fun d s =>
    some (d, if dOp d.raw = 5 then slateScrub t (gaList d.raw) (8 * gaCount d.raw) s else s)) s
  let go := fun (m : Nat) (s : State) =>
    match transferOf s t m with
    | some d => if p d.raw then moverPump t m s else s
    | none => s
  go (2 * e + 1) (go (2 * e) s1)

def execGather (t : TileN) (e : EngineN) (s : State) : Res := run (transfer t.val e.val (fun r => dOp r = 5)) s

def execCopy (t : TileN) (e : EngineN) (s : State) : Res := run (transfer t.val e.val (fun r => dOp r = 6)) s

/-- A CONVERT of one variant. -/
def convert (t e v : Nat) (s : State) : State := transfer t e (fun r => dOp r = 7 ∧ cvVariant r = v) s

def execConvert (t : TileN) (e : EngineN) (s : State) : Res := run (convert t.val e.val 0) s
def execConvertSplit (t : TileN) (e : EngineN) (s : State) : Res := run (convert t.val e.val 1) s
def execConvertPairAdd (t : TileN) (e : EngineN) (s : State) : Res := run (convert t.val e.val 2) s
def execConvertPairSubtract (t : TileN) (e : EngineN) (s : State) : Res := run (convert t.val e.val 3) s

/-! ## Responses to mover requests, and what is sent again (R208, R226, R227) -/

/-- The transfer of a channel goes on, whatever it is. -/
def channelPump (t m : Nat) (s : State) : State :=
  match transferOf s t m with
  | some d => if dOp d.raw = 1 then loadPump t (m / 2) s else moverPump t m s
  | none => s

/-- What follows a response to an operation that is no part of a transfer. -/
def afterOp (t m : Nat) (o : MoverOp) (s : State) : State :=
  match o.use with
  | .weights | .stream => reloadPump t (m / 2) s
  | .barrier => fenceEnd t (m / 2) s
  | _ => s

/-- A response is the one a command names: its status, its hint, the offset its request gives in a completion
record. -/
def replyNamed (s : State) (t m st off hint : Nat) (x : Reply) : Bool :=
  decide (x.status = st ∧ x.hint % 2 ^ 32 = hint) &&
    ((getMover s t m).ops.find? (fun o => o.tag = x.tag)).all (fun o => decide (o.detail % 2 ^ 24 = off))

/-- MOVER_REQUEST_RESPONSE: the oldest response to a mover channel reaches its operation, by its tag (R208). One to
an operation that an engine reset abandoned is dropped (R233). -/
def moverResponse (t m : Nat) (named : Reply → Bool) (s : State) : State :=
  match takeReply t m (fun _ => true) s with
  | (none, _) => s
  | (some x, s1) =>
    if ¬ named x then s
    else match (getMover s1 t m).ops.find? (fun o => o.tag = x.tag) with
    | none => s1
    | some o =>
      if opTransfer o then channelPump t m (arriveTransfer t m o x s1) else afterOp t m o (takeOp t m x s1)

def execMoverRequestResponse (t : TileN) (m : MoverN) (status : BitVec 8) (offset : BitVec 24) (hint : BitVec 32)
    (s : State) : Res :=
  run (moverResponse t.val m.val (replyNamed s t.val m.val status.toNat offset.toNat hint.toNat)) s

/-- MOVER_RETRY_RESEND (R226): the oldest request answered RETRY whose time has come is sent again. -/
def retryResend (t m : Nat) (s : State) : State :=
  match (getMover s t m).ops.find? (opReady s) with
  | none => s
  | some o =>
    if ¬ canSend s t m o then s
    else if opTransfer o then channelPump t m (sendTransfer t m o s)
    else afterOp t m o (sendTake t m o s)

def execMoverRetryResend (t : TileN) (m : MoverN) (s : State) : Res := run (retryResend t.val m.val) s

/-! ## PREEMPT points (R228) -/

/-- A pre-emption is pending for an engine: a request for its array, or a write to EngineYield. -/
def yieldPending (s : State) (t e : Nat) : Bool :=
  (getEngine s t e).yield || (decide (e < 4) && (getArray s t e).preempt.isSome)

/-- PREEMPT, mode 0: a no-op, or the save of the open group and the stop of the engine. -/
def yieldPoint (t e : Nat) (s : State) : State :=
  issueDesc t e (fun r => dOp r = 12 ∧ ¬ peMode r) (fun d s =>
    if ¬ yieldPending s t e then some (ends stOk d, s)
    else
      let s1 := modEngine t e (fun g => { g with yield := false }) s
      let x := getArray s1 t e
      let s2 := if e < 4 ∧ (x.group.isSome ∨ x.preempt.isSome) then saveArray t e s1 else s1
      some (ends stPreempted d, s2)) s

def execPreemptYieldPoint (t : TileN) (e : EngineN) (s : State) : Res := run (yieldPoint t.val e.val) s

/-- PREEMPT, mode 1: requests for the arrays of its mask. -/
def requestPoint (t e : Nat) (s : State) : State :=
  issueDesc t e (fun r => dOp r = 12 ∧ peMode r) (fun d s => some (ends stOk d, preemptMask t (peMask d.raw) s)) s

def execPreemptRequestPoint (t : TileN) (e : EngineN) (s : State) : Res := run (requestPoint t.val e.val) s

/-- ENGINE_YIELD: 1 stops the engine at its next yield point. -/
def writeYield (t e v : Nat) (s : State) : State :=
  if v > 1 then answer stBadFormat s
  else if v = 1 then answer stOk (modEngine t e (fun g => { g with yield := true }) s) else answer stOk s

def execEngineYield (t : TileN) (e : EngineN) (v : BitVec 8) (s : State) : Res := run (writeYield t.val e.val v.toNat) s

/-! ## Resuming a stopped engine (R232) -/

/-- An action of Table 8.16 is allowed in a state. -/
def resumeOk (act st : Nat) : Bool :=
  match act with
  | 1 => 3 ≤ st && st ≤ 6
  | 2 => 3 ≤ st && st ≤ 5
  | 3 => st = 6
  | 4 => 3 ≤ st && st ≤ 6
  | 5 => 3 ≤ st && st ≤ 5
  | _ => false

/-- Leave the stop: the halts of both mover channels clear, and the engine-trap interrupt. -/
def leaveStop (t e : Nat) (s : State) : State :=
  setObj t (Obj.moverState + 2 * e) 0 (setObj t (Obj.moverState + (2 * e + 1)) 0
    (modEngine t e (fun g => { g with halt := 0, stopSoon := 0, trapIrq := false }) s))

/-- The head moves past a trapped descriptor. -/
def skipHead (t e : Nat) (s : State) : State :=
  setObj t (Obj.engineHead + e)
    ((getObj s t (Obj.engineHead + e) + 1) % max 1 (getObj s t (Obj.engineQueueSize + e))) s

/-- Put descriptors before those already fetched. -/
def pushReady (t e : Nat) (l : List Desc) (s : State) : State :=
  modEngine t e (fun g => { g with ready := l ++ g.ready }) s

/-- Queue indexes from `a` to `b` around a ring of `n`. -/
def ringSpan (a b n : Nat) : List Nat :=
  let m := max 1 n
  (List.range ((b + m - a) % m + 1)).map (fun i => (a + i) % m)

/-- Action 2: the stop-point descriptor is to be fetched again, or, where a group was abandoned, all from its opening
LOADW on. DESCRIPTOR_FETCH does so, and of the descriptors of a group puts back only its own (R232). A trapped
descriptor is still to be fetched as it is. -/
def resumeRerun (t e : Nat) (s : State) : State :=
  let g := getEngine s t e
  let size := getObj s t (Obj.engineQueueSize + e)
  let l := match g.abandoned with
    | some first => ringSpan first g.stopIdx size
    | none => [g.stopIdx]
  leaveStop t e (if g.halt = 5 then s else modEngine t e (fun g => { g with refetch := l ++ g.refetch, again := [] }) s)

/-- Past a trapped descriptor: the next to be fetched again, or the next of the queue; `d` takes its place. -/
def passTrap (t e : Nat) (d : List Desc) (s : State) : State :=
  match (getEngine s t e).refetch with
  | _ :: rest => againDone t e (modEngine t e (fun g => { g with refetch := rest, again := g.again ++ d }) s)
  | [] => skipHead t e (modEngine t e (fun g => { g with ready := g.ready ++ d }) s)

/-- Everything fetched is dropped, and the head set to the tail. -/
def dropFetched (t e : Nat) (s : State) : State :=
  setObj t (Obj.engineHead + e) (getObj s t (Obj.engineTail + e))
    (dropOps t (2 * e + 1) (fun o => opFetch o || opRerun o)
      (modEngine t e (fun g => { g with ready := [], refetch := [], again := [] }) s))

/-- Action 4: the open group and everything fetched are dropped, and the head set to the tail. -/
def resumeAbort (t e : Nat) (s : State) : State :=
  let s1 := if e < 4 then abandonGroup t e s else s
  let s2 := dropOps t (2 * e) opReload (dropOps t (2 * e + 1) opReload (modEngine t e (fun g => { g with
    prog := g.prog.filter (fun d => d.ended ∨ dOp d.raw ≠ 2), abandoned := none }) s1))
  leaveStop t e (dropFetched t e s2)

/-- A STREAM with init 3 and nothing else (R220). -/
def resumeRaw : Nat := 2 + 3 * 2 ^ 150

/-- EngineResume with an action (R232). -/
def writeResume (t e act : Nat) (s : State) : State :=
  let g := getEngine s t e
  if ¬ resumeOk act (engineState s t e) then answer stBadFormat s
  else
    let trapped := decide (g.halt = 5)
    let s1 := leaveStop t e s
    answer stOk (match act with
      | 1 => if trapped then passTrap t e [] s1 else s1
      | 2 => resumeRerun t e s
      | 3 => pushReady t e [mkDesc s t e g.stopIdx resumeRaw] s1
      | 4 => resumeAbort t e s
      | _ =>
        let d := mkDesc s t e g.stopIdx (getObj s t (Obj.engineReplace + e))
        if trapped then passTrap t e [d] s1 else pushReady t e [d] s1)

def execEngineResumeContinue (t : TileN) (e : EngineN) (s : State) : Res := run (writeResume t.val e.val 1) s
def execEngineResumeRerun (t : TileN) (e : EngineN) (s : State) : Res := run (writeResume t.val e.val 2) s
def execEngineResumeSaveArea (t : TileN) (e : EngineN) (s : State) : Res := run (writeResume t.val e.val 3) s
def execEngineResumeAbort (t : TileN) (e : EngineN) (s : State) : Res := run (writeResume t.val e.val 4) s
def execEngineResumeReplace (t : TileN) (e : EngineN) (s : State) : Res := run (writeResume t.val e.val 5) s

/-! ## Engine reset (R233, R175) -/

/-- An engine after a reset: its array's group and its mover operations are abandoned, so that responses still to come
find none; queue base, size, staging area, semaphores and save areas are kept. -/
def resetEngine (t e : Nat) (s : State) : State :=
  let s1 := if e < 4 then resetArray t e s else s
  let forget := fun (m : Nat) => modMover t m (fun x => { x with ops := [] })
  let s2 := forget (2 * e) (forget (2 * e + 1) { s1 with engine := fset {} s1.engine (t * 6 + e) {} })
  let z := fun (k : Nat) (s : State) => setObj t (k + e) 0 s
  let s3 := z Obj.engineHead (z Obj.engineTail (z Obj.completionProduced (z Obj.completionConsumed (z Obj.engineEnable s2))))
  setObj t (Obj.moverState + 2 * e) 0 (setObj t (Obj.moverState + (2 * e + 1)) 0 s3)

end Sys2Proof.Machine
end

