-- ==== Sys2Proof/Machine/Switch.lean ====
section
/-! DEFINITION. Model switches (R257), and what the block map does again after a trip or Hold (R258). -/

namespace Sys2Proof.Machine

open Sys2Proof

/-! ## MapSwitch (Table 9.10) -/

def msTail (v e : Nat) : Nat := bits v (272 + 20 * e) 20
def msAdvance (v : Nat) : Nat := bits v 266 6
def msPreempt (v : Nat) : Nat := bits v 260 6
def msChannels (v : Nat) : Nat := bits v 248 12
def msWindow (v : Nat) : Nat := bits v 0 43

/-- No reserved bit, at least one channel, no pre-emption of an engine without an array, a good window. -/
def switchOk (v : Nat) : Bool :=
  decide (bits v 392 120 = 0 ∧ bits v 43 205 = 0 ∧ msChannels v ≠ 0 ∧ msPreempt v < 16) && windowOk (msWindow v)

/-- The save header of an array to be pre-empted is in state 0x00. -/
def headersFree (s : State) (t v : Nat) : Bool :=
  (onesOf 4 (msPreempt v)).all (fun a => decide (slateNat s t (getObj s t (Obj.saveAreaBase + a)) 1 = 0))

/-- The result of a switch. -/
def switchResult (t st : Nat) (s : State) : State := setObj t Obj.mapSwitchResult st s

/-- Raise the pre-emption requests, or refuse the whole switch with RETRY. -/
def switchBegin (t v start : Nat) (s : State) : State :=
  if ¬ headersFree s t v then answer stRetry (switchResult t stRetry (modMap t (fun m => { m with switching := none }) s))
  else answer stOk (preemptMask t (msPreempt v) (modMap t (fun m => { m with switching := some (v, start, true) }) s))

/-- MAP_SWITCH: in Hold it waits (R258); one switch at a time. -/
def writeMapSwitch (t v : Nat) (s : State) : State :=
  if ¬ switchOk v then answer stBadFormat (switchResult t stBadFormat s)
  else if (getMap s t).switching.isSome then answer stRetry s
  else if inHold s t then
    answer stOk (modMap t (fun m => { m with switching := some (v, s.time.elapsed, false) }) s)
  else switchBegin t v s.time.elapsed s

def execMapSwitch (t : TileN) (v : BitVec 512) (s : State) : Res := run (writeMapSwitch t.val v.toNat) s

/-- Every engine that owns a named channel has nothing in progress, being IDLE or stopped, and every
pre-emption asked for is answered. -/
def switchReady (s : State) (t v : Nat) : Bool :=
  (List.range 6).all (fun e =>
    let named := bit (msChannels v) (2 * e) || bit (msChannels v) (2 * e + 1)
    let st := engineState s t e
    !named || ((getEngine s t e).prog.isEmpty && decide (st = 0 ∨ 3 ≤ st)))
    && (onesOf 4 (msPreempt v)).all (fun a => (getArray s t a).preempt.isNone)

/-- The windows, heads and tails of a switch. -/
def switchNow (t v start : Nat) (s : State) : State :=
  let s1 := (onesOf 12 (msChannels v)).foldl (fun s m => setObj t (Obj.mapWindow + m) (msWindow v) s) s
  let s2 := (onesOf 6 (msPreempt v)).foldl (fun s e => dropFetched t e s) s1
  let s3 := (onesOf 6 (msAdvance v)).foldl (fun s e =>
    let s' := setObj t (Obj.engineTail + e) (msTail v e) s
    if (getEngine s' t e).halt = 6 then leaveStop t e s' else s') s2
  setObj t Obj.lastSwitchLatency (s.time.elapsed - start)
    (switchResult t stOk (modMap t (fun m => { m with switching := none }) s3))

/-- MAP_SWITCH_APPLY (R257): the switch begins after Hold, and takes effect once its engines stand. -/
def switchApply (t : Nat) (s : State) : State :=
  if inHold s t then s
  else match (getMap s t).switching with
    | none => s
    | some (v, start, false) => switchBegin t v start s
    | some (v, start, true) => if switchReady s t v then switchNow t v start s else s

def execMapSwitchApply (t : TileN) (s : State) : Res := run (switchApply t.val) s

/-! ## After a trip (R258, R301) -/

/-- Every tile's block map goes on. -/
def wakeAll (s : State) : State := forTiles mapWake s

/-- A restart of the device, if `f` made one, wakes the block maps. -/
def wakeAfter (f : State → State) (s : State) : State :=
  let s1 := f s
  if tripped s ∧ ¬ tripped s1 then
    let o := s1.out
    { wakeAll s1 with out := o }
  else s1

def execTripRestart (s : State) : Res := run (wakeAfter tripRestart) s

def execTripRelease (v : BitVec 8) (s : State) : Res := run (wakeAfter (writeTripRelease v.toNat)) s

end Sys2Proof.Machine
end

