-- ==== Sys2Proof/Machine/Counters.lean ====
section
/-! DEFINITION. Counting, the Report Card, port bandwidth, precise sampling and the trouble logs (R395 to
R405). -/

namespace Sys2Proof.Machine

open Sys2Proof

/-! ## Events (Table 16.2) -/

/-- Mode of an event: 0 edge, 1 level; none where the table lacks it. -/
def evMode (e : Nat) : Option Nat :=
  if [0x0008, 0x0009, 0x000A, 0x0013, 0x0022, 0x0032, 0x0052, 0x0060, 0x0061].contains e then some 1
  else if (1 ≤ e ∧ e ≤ 0x000C) ∨ (0x0010 ≤ e ∧ e ≤ 0x0015) ∨ (0x0020 ≤ e ∧ e ≤ 0x0023) ∨ e = 0x0030 ∨ e = 0x0031
      ∨ (0x0040 ≤ e ∧ e ≤ 0x0043) ∨ e = 0x0050 ∨ e = 0x0051 ∨ e = 0x0062 ∨ (0x0100 ≤ e ∧ e ≤ 0x0102) then some 0
  else none

/-- The event belongs to the device level only. -/
def evDevice (e : Nat) : Bool := e ≥ 0x0100

/-- A requester code of Table 3.4. -/
def codeOk (q : Nat) : Bool := q ≤ 3 || (0x10 ≤ q && q ≤ 0x1B) || (0x20 ≤ q && q ≤ 0x62)

/-- A qualifier in range; an event without one takes 0. -/
def qualOk (e q : Nat) : Bool :=
  if e ≤ 0x000C then q < 48
  else if e = 0x0010 then codeOk q
  else if e = 0x0011 ∨ e = 0x0012 ∨ e = 0x0014 then q < 8
  else if e = 0x0013 then q ≤ 16
  else if e = 0x0015 then 1 ≤ q && q ≤ 4
  else if 0x0020 ≤ e ∧ e ≤ 0x0022 then q < 4
  else if e = 0x0023 then false
  else if e = 0x0030 ∨ e = 0x0032 then q < 6
  else if e = 0x0031 then q < 12
  else if 0x0050 ≤ e ∧ e ≤ 0x0052 then q < 5
  else if e = 0x0062 then q < 32
  else if e = 0x0102 then q < 256
  else q = 0

/-! ## CounterSelect (Table 16.1) -/

def csEvent (v : Nat) : Nat := bits v 0 16
def csEnable (v : Nat) : Bool := bit v 32
def csChain (v : Nat) : Bool := bit v 33
def csMode (v : Nat) : Nat := bits v 34 2
def csAll (v : Nat) : Bool := bit v 47
def csQual (v : Nat) : Nat := bits v 48 8

/-- The value without its reserved bits (R7). -/
def csStored (v : Nat) : Nat := fld 48 8 (csQual v) + fld 47 1 (v / 2 ^ 47) + fld 32 4 (v / 2 ^ 32) + csEvent v

/-- R396, R397: a setting of counter `i` that is refused. -/
def csBad (i v : Nat) (device : Bool) : Bool :=
  if csChain v then decide (i = 0 ∨ csEvent v ≠ 0 ∨ csMode v ≠ 0 ∨ csQual v ≠ 0) || csAll v
  else decide (evMode (csEvent v) ≠ some (csMode v)) || (evDevice (csEvent v) && !device)
    || (!csAll v && !qualOk (csEvent v) (csQual v))

/-- A load or a selection takes effect at the next tick. -/
def loadLater (u k v : Nat) (s : State) : State :=
  { s with count := { s.count with loads := s.count.loads ++ [(okey u k, v)] } }

/-- COUNTER_SELECT_WRITE (R396). -/
def writeSelect (t i v : Nat) (s : State) : State :=
  if csBad i v false then answer stBadFormat s
  else answer stOk (loadLater t (Obj.counterSelect + i) (csStored v) s)

def execCounterSelectWrite (t : TileN) (i : Fin 8) (v : BitVec 64) (s : State) : Res :=
  run (writeSelect t.val i.val v.toNat) s

/-- DeviceCounterSelect (R398): a device-only event goes with an empty tile mask. The mask of a counter that counts
carries chooses the ticks alone. -/
def writeDevSelect (i v : Nat) (s : State) : State :=
  let w := v % 2 ^ 64
  if csBad i w true ∨ (evDevice (csEvent w) ∧ v / 2 ^ 64 ≠ 0) then answer stBadFormat s
  else answer stOk (loadLater dev (Obj.deviceCounterSelect + i) (fld 64 64 (v / 2 ^ 64) + csStored w) s)

/-- COUNTER_VALUE_WRITE (R396, R405): reserved bits are ignored (R7). -/
def writeCounter (u k v : Nat) (s : State) : State := answer stOk (loadLater u k (v % 2 ^ 48) s)

def execCounterValueWrite (t : TileN) (i : Fin 8) (v : BitVec 64) (s : State) : Res :=
  run (writeCounter t.val (Obj.counterValue + i.val) v.toNat) s

/-- COUNTER_FIXED_WRITE (R395). -/
def writeFixed (t v : Nat) (s : State) : State := answer stOk (loadLater t Obj.counterFixed v s)

def execCounterFixedWrite (t : TileN) (v : BitVec 64) (s : State) : Res := run (writeFixed t.val v.toNat) s

/-- CounterFixed (R395). -/
def fixedValue (s : State) (t : Nat) : Nat := (s.time.elapsed / 10 + fget 0 s.count.fixedOff t) % 2 ^ 64

/-- Apply one load at a tick. -/
def applyLoad (s : State) (x : Nat × Nat) : State :=
  let u := x.1 / 2 ^ 24
  let k := x.1 % 2 ^ 24
  if k = Obj.counterFixed then
    { s with count := { s.count with
      fixedOff := fset 0 s.count.fixedOff u ((x.2 + 2 ^ 64 - s.time.elapsed / 10 % 2 ^ 64) % 2 ^ 64) } }
  else setObj u k x.2 s

/-! ## Levels and sums at a tick -/

/-- A stall of a port is in progress (R148). -/
def portStalled (s : State) (t p : Nat) : Bool :=
  let slow := fun (k : Nat) =>
    let a := fget {} s.asm k
    a.active && !a.held && decide (s.time.elapsed > a.ack + getObj s t Obj.stallThreshold)
  if p < 4 then slow (asmKey t (.host (Fin.ofNat 4 p)) false) || slow (asmKey t (.host (Fin.ofNat 4 p)) true)
  else (List.range 64).any (fun u =>
    slow (asmKey t (.gateway (Fin.ofNat 64 u)) false) || slow (asmKey t (.gateway (Fin.ofNat 64 u)) true))

/-- The level of an instance of a level event. -/
def levelOf (s : State) (t e q : Nat) : Nat :=
  match e with
  | 0x0008 => (getQueue s t q).rq.length
  | 0x0009 => (getQueue s t q).wq.length
  | 0x000A => b2n (getRecess s t q).openAt.isSome
  | 0x0013 => b2n (demoted s t q)
  | 0x0022 => b2n (tokenHeld s t q)
  | 0x0032 => b2n (engineState s t q = 2)
  | 0x0052 => b2n (portStalled s t q)
  | 0x0060 => b2n (inHold s t)
  | _ => b2n ((getSensor s t).u < 1000)

/-- Instances of a level event. -/
def instances (e : Nat) : Nat :=
  match e with
  | 0x0008 => 48 | 0x0009 => 48 | 0x000A => 48 | 0x0013 => 17 | 0x0022 => 4 | 0x0032 => 6 | 0x0052 => 5 | _ => 1

/-- What a tile's event adds under a selection at this tick. -/
def selAdd (s : State) (evs : List EvCount) (t v : Nat) : Nat :=
  let e := csEvent v
  if csMode v = 0 then
    sumOf ((evs.filter (fun x => decide (x.tile = t ∧ x.event = e) && (csAll v || decide (x.qual = csQual v)))).map (·.weight))
  else if csAll v then sumOf ((List.range (instances e)).map (levelOf s t e))
  else levelOf s t e (csQual v)

/-- R398: every tile of a device counter's mask is present. -/
def maskPresent (s : State) (v : Nat) : Bool := (onesOf 64 (v / 2 ^ 64)).all (present s)

/-- R398: what a device counter's selection adds. -/
def devAdd (s : State) (evs : List EvCount) (v : Nat) : Nat :=
  if evDevice (csEvent v) then selAdd s evs dev v
  else if maskPresent s v then sumOf ((onesOf 64 (v / 2 ^ 64)).map (fun t => selAdd s evs t v))
  else 0

/-- A counter wraps without a chained successor (R397). -/
def overflowed (u i : Nat) (s : State) : State :=
  if u = dev then setObj dev Obj.deviceCounterOverflow (setBit (getObj s dev Obj.deviceCounterOverflow) i) s
  else
    let s1 := setObj u Obj.counterOverflow (setBit (getObj s u Obj.counterOverflow) i) s
    let b := getObj s u Obj.counterOverflowBell
    if b = 0 then s1 else ringHost u b s1

/-- One counter at a tick: the carry it takes, the carry it gives. -/
def tickCounter (u n i : Nat) (evs : List EvCount) (carry : Nat) (s : State) : Nat × State :=
  let sel := if u = dev then Obj.deviceCounterSelect else Obj.counterSelect
  let val := (if u = dev then Obj.deviceCounterValue else Obj.counterValue) + i
  let v := getObj s u (sel + i)
  let add := if ¬ csEnable v then 0
    else if csChain v then (if u = dev ∧ ¬ maskPresent s v then 0 else carry) else if u = dev then devAdd s evs v else selAdd s evs u v
  if add = 0 then (0, s)
  else
    let x := getObj s u val + add
    let s1 := setObj u val (x % 2 ^ 48) s
    let c := x / 2 ^ 48
    if c = 0 then (0, s1)
    else if i + 1 < n ∧ csChain (getObj s1 u (sel + (i + 1))) then (c, s1)
    else (0, overflowed u i s1)

/-- The counters of a unit at a tick. -/
def tickUnit (u n : Nat) (evs : List EvCount) (s : State) : State :=
  ((List.range n).foldl (fun (acc : Nat × State) i => tickCounter u n i evs acc.1 acc.2) (0, s)).2

/-- R396, R405: loads, then the events since the last tick; a freeze lets none count (R399). -/
def tickCounters (s : State) : State :=
  let s1 := s.count.loads.foldl applyLoad { s with count := { s.count with loads := [] } }
  let evs := s1.count.events
  let s2 := { s1 with count := { s1.count with events := [] } }
  if frozen s2 then s2 else tickUnit dev 4 evs (forTiles (fun t s => tickUnit t 8 evs s) s2)

/-! ## The Report Card (R399) -/

/-- A pending action; a pin edge and a command of one tick and action give one. -/
def addCard (a : CardAct) (s : State) : State :=
  if s.count.actions.any (fun x => decide (x.action = a.action ∧ x.at_ = a.at_ ∧ x.byPin ≠ a.byPin)) then s
  else { s with count := { s.count with actions := s.count.actions ++ [a] } }

/-- A write of ReportCard; T is the first tick at or after 100 ns. -/
def writeCard (v : Nat) (s : State) : State :=
  if v = 0 ∨ v > 4 then answer stBadFormat s
  else answer stOk (addCard { action := v, at_ := s.time.elapsed + 100 } s)

def execReportCardSnapshot (s : State) : Res := run (writeCard 1) s
def execReportCardFreeze (s : State) : Res := run (writeCard 2) s
def execReportCardThaw (s : State) : Res := run (writeCard 3) s
def execReportCardClear (s : State) : Res := run (writeCard 4) s

/-- The effect of an edge of mgt_snap. -/
def snapEdge (rising : Bool) (s : State) : State :=
  let at_ := s.time.elapsed + 100
  match getObj s dev Obj.reportCardPinAction, rising with
  | 1, true => addCard { action := 1, at_ := at_, byPin := true } s
  | 2, true => addCard { action := 2, at_ := at_, byPin := true } s
  | 2, false => addCard { action := 3, at_ := at_, byPin := true } s
  | _, _ => s

/-- R399: an edge that was not held high for 20 ns is none: its action, not yet applied, is dropped. -/
def shortPulse (s : State) (a : CardAct) : Bool :=
  a.byPin && decide (a.action ≠ 3 ∧ s.time.elapsed + 80 < a.at_)

/-- The falling edge of mgt_snap. -/
def snapFall (s : State) : State :=
  if s.count.actions.any (shortPulse s) then
    { s with count := { s.count with actions := s.count.actions.filter (fun a => !shortPulse s a) } }
  else snapEdge false s

/-- SNAP_PIN_EDGE (R399, R427): during a device warm reset the edge is taken after the reset. -/
def snapPin (rising : Bool) (s : State) : State :=
  if s.count.pin = rising then s
  else
    let s1 := { s with count := { s.count with pin := rising } }
    if starting s ∧ s.resets.warm then { s1 with count := { s1.count with pinEdges := s1.count.pinEdges ++ [rising] } }
    else if rising then snapEdge true s1 else snapFall s1

def execSnapPinEdge (rising : Bool) (s : State) : Res := run (snapPin rising) s

/-- Snapshot: the shadows, sequence and stamp. -/
def snapshot (s : State) : State :=
  let s1 := forTiles (fun t s =>
    let a := setObj t Obj.shadowFixed (fixedValue s t) (setObj t Obj.reportCardStamp s.time.timeBase s)
    let b := (List.range 8).foldl (fun s i => setObj t (Obj.shadowCounter + i) (getObj s t (Obj.counterValue + i)) s) a
    (List.range 5).foldl (fun s p => setObj t (Obj.shadowPortBytes + p) (getObj s t (Obj.portBytesTotal + p)) s) b) s
  bump dev Obj.reportCardSeq 1 ((List.range 4).foldl (fun s i =>
    setObj dev (Obj.shadowDeviceCounter + i) (getObj s dev (Obj.deviceCounterValue + i)) s) s1)

/-- Clear: counters, overflows, port totals and peaks. -/
def clearCounters (s : State) : State :=
  let s1 := forTiles (fun t s =>
    let a := setObj t Obj.counterOverflow 0 ((List.range 8).foldl (fun s i => setObj t (Obj.counterValue + i) 0 s) s)
    (List.range 5).foldl (fun s p => setObj t (Obj.portBytesTotal + p) 0 (setObj t (Obj.portBandwidthPeak + p) 0 s)) a) s
  setObj dev Obj.deviceCounterOverflow 0 ((List.range 4).foldl (fun s i => setObj dev (Obj.deviceCounterValue + i) 0 s) s1)

/-- An action applied. -/
def applyCard (a : Nat) (s : State) : State :=
  match a with
  | 1 => snapshot s
  | 2 => setObj dev Obj.reportCardFrozen 1 s
  | 3 => setObj dev Obj.reportCardFrozen 0 s
  | _ => clearCounters s

/-- REPORT_CARD_APPLY (R399): the actions whose tick has come, in order of arrival. -/
def cardApply (s : State) : State :=
  let due := s.count.actions.filter (fun a => decide (a.at_ ≤ s.time.elapsed))
  due.foldl (fun s a => applyCard a.action s)
    { s with count := { s.count with actions := s.count.actions.filter (fun a => decide (s.time.elapsed < a.at_)) } }

def execReportCardApply (s : State) : Res := run cardApply s

/-! ## Port bandwidth (R400) -/

/-- BANDWIDTH_WINDOW_END: at each multiple of BandwidthWindow; a window cut by a write is discarded. -/
def bandwidthEnd (t : Nat) (s : State) : State :=
  let w := getObj s t Obj.bandwidthWindow
  if ¬ due s t 7 w then s
  else
    let cut := fget false s.count.cutWindow t
    let s1 := if cut then s else (List.range 5).foldl (fun s p =>
      let i := fget 0 s.count.portBytes (t * 10 + p * 2)
      let o := fget 0 s.count.portBytes (t * 10 + p * 2 + 1)
      let s' := setObj t (Obj.portBandwidthIn + p) (i * 1000 / w) (setObj t (Obj.portBandwidthOut + p) (o * 1000 / w) s)
      setObj t (Obj.portBandwidthPeak + p) (max (getObj s t (Obj.portBandwidthPeak + p)) ((i + o) * 1000 / w)) s') s
    take t 7 { s1 with count := { s1.count with
      portBytes := s1.count.portBytes.filter (fun e => e.1 / 10 ≠ t)
      cutWindow := fset false s1.count.cutWindow t false } }

def execBandwidthWindowEnd (t : TileN) (s : State) : Res := run (bandwidthEnd t.val) s

/-- BandwidthWindow: the window in progress is discarded. -/
def writeBandwidth (t v : Nat) (s : State) : State :=
  if ¬ inRange Obj.bandwidthWindow v then answer stBadFormat s
  else
    let s1 := storeObj t Obj.bandwidthWindow v s
    { s1 with count := { s1.count with cutWindow := fset false s1.count.cutWindow t true } }

/-! ## Precise sampling (R401, R402) -/

/-- PRECISE_SAMPLE_CONTROL_WRITE: interval 0 and source 0 are refused; reserved bits are ignored. -/
def writeSampling (t v : Nat) (s : State) : State :=
  if bits v 48 16 = 0 ∨ bits v 10 2 = 0 then answer stBadFormat s
  else
    let w := fld 15 49 (v / 2 ^ 15) + fld 8 4 (v / 2 ^ 8)
    let s1 := storeObj t Obj.preciseSampleControl w s
    if smEnable v ∧ ¬ smEnable (getObj s t Obj.preciseSampleControl) then
      setObj t Obj.preciseSampleCount 0
        { s1 with count := { s1.count with countdown := fset 0 s1.count.countdown t (smInterval v) } }
    else s1

def execPreciseSampleControlWrite (t : TileN) (v : BitVec 64) (s : State) : Res := run (writeSampling t.val v.toNat) s

/-- The sample record at an index. -/
def sampleAt (s : State) (t i : Nat) : Nat := fget 0 s.count.samples (t * 4096 + i % 4096)

/-- PreciseSampleBlock: 31 records from the selected index. -/
def sampleBlock (s : State) (t : Nat) : Nat :=
  let i := getObj s t Obj.preciseSampleSelect
  (List.range 31).foldl (fun acc j => acc + sampleAt s t (i + j) * 2 ^ (256 * j)) 0

/-! ## The trouble logs (R403, R404) -/

/-- The objects of the log of a unit: the device log's lie 0x10 indexes further on. -/
def logObj (u k : Nat) : Nat := if u = dev then k + 0x1000 else k

/-- The entry of a sequence number, if it is held. -/
def logEntry (s : State) (u seq : Nat) : Option LogEntry :=
  let head := getObj s u (logObj u Obj.troubleLogHead)
  let back := (head + 2 ^ 32 - seq) % 2 ^ 32
  let e := fget {} s.count.logs (u * 2048 + seq % 2048)
  if back = 0 ∨ back > 2048 ∨ e.seq ≠ seq ∨ e = {} then none else some e

/-- Its 32 bytes (Table 16.5). -/
def logBits (e : LogEntry) : Nat :=
  fld 192 64 e.stamp + fld 160 32 e.seq + fld 152 8 e.source + fld 144 8 e.cause + fld 136 8 e.status + fld 128 8 e.unit
    + fld 64 64 e.detail1 + fld 0 64 e.detail0

/-- TroubleLogBlock: 31 entries from the selected one, zero where none is held. -/
def logBlock (s : State) (u : Nat) : Nat :=
  let q := getObj s u (logObj u Obj.troubleLogSelect)
  (List.range 31).foldl (fun acc j =>
    acc + ((logEntry s u ((q + j) % 2 ^ 32)).map logBits).getD 0 * 2 ^ (256 * j)) 0

/-- One entry is written to its log; the oldest is overwritten, and an unread one counted as lost. -/
def takeLog (u : Nat) (s : State) (e : LogEntry) : State :=
  let head := getObj s u (logObj u Obj.troubleLogHead)
  let used := getObj s u (logObj u Obj.troubleLogConsumed)
  let behind := (head + 2 ^ 32 - used) % 2 ^ 32
  let s1 := { s with count := { s.count with
    logs := fset {} s.count.logs (u * 2048 + head % 2048) { e with seq := head } } }
  let s2 := setObj u (logObj u Obj.troubleLogHead) (head + 1) s1
  let s3 := if 2048 ≤ behind ∧ behind < 2 ^ 31 then
      setObj u (logObj u Obj.troubleLogConsumed) ((head + 1 + 2 ^ 32 - 2048) % 2 ^ 32)
        (bump u (logObj u Obj.troubleLogLost) 1 s2) else s2
  let b := getObj s3 u (logObj u Obj.troubleLogBell)
  if behind + 1 = 1536 ∧ b ≠ 0 then ringHost (if u = dev then 0 else u) b s3 else s3

/-- At a tick the logs take what arose, in order of source, then cause (R403). -/
def flushLogs (s : State) : State :=
  s.count.intake.foldl (fun s x =>
    (sortBy (fun e => e.source * 256 + e.cause) x.2).foldl (takeLog x.1) s) { s with count := { s.count with intake := [] } }

/-- TROUBLE_LOG_WRITE (R403): detail1, then detail0; source 0x80, cause 0. -/
def writeLog (u v : Nat) (s : State) : State :=
  if u > 64 ∨ (u < 64 ∧ ¬ present s u) then answer stDecodeError s
  else answer stOk (addLog u 0x80 0 stOk (v / 2 ^ 64) (v % 2 ^ 64) s)

def execTroubleLogWrite (unit : BitVec 8) (v : BitVec 128) (s : State) : Res := run (writeLog unit.toNat v.toNat) s

end Sys2Proof.Machine
end

