-- ==== Sys2Proof/Machine/Time.lean ====
section
/-! DEFINITION. Reference time (R22 to R30) and the speed index (R31 to R33). -/

namespace Sys2Proof.Machine

open Sys2Proof

/-! ## The tick (R22 to R27) -/

/-- The largest multiple of 10 a time base holds; the next tick wraps it to 0 (DESIGN CHOICE). -/
abbrev lastTick : Nat := 2 ^ 64 - 6

/-- Times counted while a tile throttles, and while the floor holds it up. -/
def tickThermal (t : Nat) (s : State) : State :=
  let u := (getSensor s t).u
  let s1 := if u < 1000 then bump t Obj.thermalThrottleTime 10 s else s
  match floorRaise s t with
  | some r => if u < r then bump t Obj.floorHeldTime 10 s1 else s1
  | none => s1

/-- ThrottleTime of an array whose STREAM waits for a token. -/
def tickArray (k : Nat) (s : State) : State :=
  if (fget {} s.array k).stream.isSome ∧ tokenHeld s (k / 4) (k % 4) then
    bump (k / 4) (Obj.throttleTime + k % 4) 10 s
  else s

/-- The times that pass with a tick. -/
def tickTimes (s : State) : State :=
  let s1 := s.sensor.foldl (fun s e => tickThermal e.1 s) s
  let s2 := s1.array.foldl (fun s e => tickArray e.1 s) s1
  if tripped s2 then bump dev Obj.tripTime 10 s2 else s2

/-- The gates of a tile follow TimetableEnable at a tick (R141). Gates that it puts in force close no window:
R144 names only two cases of an overrun (DEDUCED). -/
def tickGate (t : Nat) (s : State) : State :=
  let on_ := flag s t Obj.timetableEnable
  if on_ = (getTT s t).gates then s
  else
    let s1 := modTT t (fun x => { x with gates := on_ }) s
    modTT t (fun x => { x with mask := gateMask s1 t }) s1

def tickGates (s : State) : State := s.tt.foldl (fun s e => tickGate e.1 s) s

/-- A pass released before this tick ends once its last request is answered (R115, R119). -/
def tickPasses (s : State) : State :=
  (s.passes.filter (fun e => e.2.released)).foldl (fun s e => finishRelease (e.1 / 256) (e.1 % 256) s) s

/-- R150: a pending start that a load of the time base put in the past moves to the first start + n T at or
after the new value. -/
def movePending (now : Nat) (x : TTState) : TTState :=
  match x.pending with
  | some p =>
    if p.start < now then
      { x with pending := some { p with start := p.start + ceilDiv (now - p.start) (ttCycle p.entries) * ttCycle p.entries } }
    else x
  | none => x

/-- A reset of a tile ends: LastResetTime (R383). -/
def resetEnds (t : Nat) (s : State) : State := setObj t Obj.lastResetTime s.time.timeBase s

/-- The reset of the management unit ends at this tick, for every tile (R383 code 8). -/
def tickManagement (before : Nat) (s : State) : State :=
  if before < s.field.mgmtUntil ∧ s.field.mgmtUntil ≤ s.time.elapsed then forTiles resetEnds s else s

/-- TIME_BASE_TICK (R22): 10 ns pass; a loaded value comes into force (R26); the SRAM walks step (R268); events and
log entries of the tick are taken. -/
def timeTick (s : State) : State :=
  let next := match s.time.setPending with
    | some n => 10 * n
    | none => if s.time.timeBase ≥ lastTick then 0 else s.time.timeBase + 10
  let s1 := { s with time := { s.time with timeBase := next, elapsed := s.time.elapsed + 10, setPending := none } }
  let s2 := if s.time.setPending.isSome then { s1 with tt := fmapVal {} (movePending next) s1.tt } else s1
  flushLogs (tickCounters (forTiles walkTick (tickTimes (tickPasses (tickGates
    (tickManagement s.time.elapsed s2))))))

def execTimeBaseTick (s : State) : Res := runTime timeTick s

/-- A tile has a running Timetable with TimetableEnable 1. -/
def ttRuns (s : State) : Bool := s.tt.any (fun e => e.2.running.isSome && flag s e.1 Obj.timetableEnable)

/-- TIME_BASE_SET (R26). -/
def writeTimeBase (v : Nat) (s : State) : State :=
  if v % 10 ≠ 0 then answer stBadFormat s
  else if (anyLive s ∨ ttRuns s) ∧ (v < s.time.timeBase ∨ s.time.timeBase + 1000000 < v) then answer stRetry s
  else answer stOk { s with time := { s.time with setPending := some (v / 10) } }

def execTimeBaseSet (v : BitVec 64) (s : State) : Res := run (writeTimeBase v.toNat) s

/-! ## Loss and return of the reference (R28 to R30) -/

/-- ReferenceState: 0 locked, 1 holdover, 2 returning. -/
def refState (s : State) : Nat := getObj s dev Obj.referenceState

/-- REFERENCE_LOST (R28, R29): holdover; every live pass is at risk. -/
def referenceLost (s : State) : State :=
  if refState s = 1 then { s with time := { s.time with goodEdges := 0 } }
  else if refState s = 2 then
    setObj dev Obj.referenceState 1 { s with time := { s.time with goodEdges := 0 } }
  else
    let s1 := setObj dev Obj.referenceState 1 { s with time := { s.time with goodEdges := 0, lostAt := s.time.elapsed } }
    forTiles (fun t s => setCause t 2 true s) (addLog dev 0x09 1 stOk 0 0 s1)

def execReferenceLost (s : State) : Res := run referenceLost s

/-- REFERENCE_EDGE_IN_HOLDOVER (R30): a good edge counts, a badly spaced one starts the count again.
ReferenceState reads returning from the first edge on, after a badly spaced one too, and holdover again when
the edges stop again (DESIGN CHOICE: R30 does not say what it reads in between). -/
def holdoverEdge (good : Bool) (s : State) : State :=
  if refState s = 0 then s
  else
    let n := if good then min 16 (s.time.goodEdges + 1) else 0
    setObj dev Obj.referenceState 2 { s with time := { s.time with goodEdges := n } }

def execReferenceEdgeInHoldover (good : Bool) (s : State) : Res := run (holdoverEdge good) s

/-- REFERENCE_RETURN (R30): after 16 good edges the reference drives the tree again. HoldoverEvents rises here,
as R30 has it, so that it counts the holdovers that have ended, not the entries of Table 1.7 (DESIGN CHOICE). -/
def referenceReturn (s : State) : State :=
  if refState s = 0 ∨ s.time.goodEdges < 16 then s
  else
    let len := s.time.elapsed - s.time.lostAt
    let s1 := setObj dev Obj.referenceState 0 { s with time := { s.time with goodEdges := 0 } }
    let s2 := setObj dev Obj.holdoverLength len (bump dev Obj.holdoverEvents 1 s1)
    forTiles (fun t s => setCause t 2 false s) (addLog dev 0x09 2 stOk len 0 s2)

def execReferenceReturn (s : State) : Res := run referenceReturn s

/-! ## The speed index (R31 to R33) -/

/-- The least of some fractions (numerator, denominator). -/
def minFrac (l : List (Nat × Nat)) : Option (Nat × Nat) :=
  l.foldl (fun m x => match m with
    | none => some x
    | some y => if x.1 * y.2 < y.1 * x.2 then some x else some y) none

/-- A fraction in thousandths, rounded down (R32), within 16 bits. -/
def perMille (x : Option (Nat × Nat)) : Nat :=
  match x with
  | some (n, d) => min 65535 (1000 * n / max 1 d)
  | none => 0

/-- Every reference of some parts of a tile is valid. -/
def refsValid (t lo n : Nat) : Bool := (List.range n).all (fun i => (Config.speedReference t (lo + i)).isSome)

/-- The s_layer of every layer of a tile at the end of a window (R31). -/
def layerWindow (t : Nat) (s : State) : State :=
  (List.range 24).foldl (fun s j =>
    let k := t * 24 + j
    let x := fget {} s.speed k
    if x.count = 0 then s
    else
      match Config.speedReference t (12 + j) with
      | some r => { s with speed := fset {} s.speed k { num := r * x.count, den := x.sum } }
      | none => { s with speed := fset {} s.speed k { num := x.num, den := x.den } }) s

/-- The pacer references of a tile are valid and every ring was counted (R31, R33). -/
def ringsValid (t : Nat) (counts : List Nat) : Bool := refsValid t 0 12 && decide (counts.length = 12)

/-- logic_speed of R31: the least ring count over its reference. -/
def logicSpeedOf (t : Nat) (counts : List Nat) : Option (Nat × Nat) :=
  if ringsValid t counts then
    minFrac ((List.range 12).map (fun i => (counts.getD i 0, (Config.speedReference t i).getD 1))) else none

/-- stack_speed of R31: the least s_layer of the layers that have yielded a sample; 1 on an SLP-2 stack; none
where a layer reference is not valid (R33). -/
def stackSpeedOf (t : Nat) (s : State) : Option (Nat × Nat) :=
  if ¬ refsValid t 12 24 then none
  else if slp2 s then some (1, 1)
  else minFrac ((List.range 24).filterMap (fun j =>
    let x := fget ({} : LayerSpeed) s.speed (t * 24 + j)
    if x.den = 0 then none else some (x.num, x.den)))

/-- S of R31: the lesser of the two, the logic's alone while no layer has yielded a sample; none without
valid references (R33). -/
def speedOf (t : Nat) (counts : List Nat) (s : State) : Option (Nat × Nat) :=
  if ringsValid t counts ∧ refsValid t 12 24 then
    match logicSpeedOf t counts, stackSpeedOf t s with
    | some a, some b => minFrac [a, b]
    | x, none => x
    | none, _ => none
  else none

/-- Publish the speeds of a window in thousandths, with what hangs on them: SpeedLowWater, causes of R112,
the floor step (R307) and the ageing sample (R308). -/
def publishSpeed (t logic stack si : Nat) (s : State) : State :=
  let first := getObj s t Obj.speedIndex = 0 ∧ getObj s t Obj.speedLowWater = 0
  let low := if first then si else min (getObj s t Obj.speedLowWater) si
  let s1 := setObj t Obj.logicSpeed logic (setObj t Obj.stackSpeed stack
    (setObj t Obj.speedIndex si (setObj t Obj.speedLowWater low s)))
  let s2 := setCause t 0 (decide (si < getObj s1 t Obj.guaranteeFloor)) s1
  let s3 := (sourcedPasses s2 t).foldl (fun s p =>
    setForce p.1 p.2.1 0 (decide (si < sgOf s p.1 p.2.2.terms)) s) s2
  ageingSample t (floorStepRaise t s3)

/-- SPEED_WINDOW_END (R31). -/
def speedWindow (t : Nat) (counts : List Nat) (s : State) : State :=
  if ¬ due s t 0 1000 then s
  else
    let s0 := layerWindow t (take t 0 s)
    publishSpeed t (perMille (logicSpeedOf t counts)) (perMille (stackSpeedOf t s0)) (perMille (speedOf t counts s0)) s0

def execSpeedWindowEnd (t : TileN) (counts : List Nat) (s : State) : Res := run (speedWindow t.val counts) s

/-- SPEED_LOW_WATER_CLEAR (R31): 1 sets SpeedLowWater to the present SpeedIndex. -/
def execSpeedLowWaterClear (t : TileN) (v : BitVec 8) (s : State) : Res :=
  run (boolCommand v.toNat (fun s => setObj t.val Obj.speedLowWater (getObj s t.val Obj.speedIndex) s)) s

end Sys2Proof.Machine
end

