-- ==== Sys2Proof/Machine/Mailbox.lean ====
section
/-! DEFINITION. Mailboxes and doorbells (R353 to R362, R375): posting, latching, taking, acknowledges,
time limits, and what the reset of a side does to its pairs. Direction 0 is down, 1 is up; side 0 is
the host tile processor, 1 the sequencer, 2 the management unit. -/

namespace Sys2Proof.Machine

open Sys2Proof

/-- The firmware side of a pair (R353). -/
def fwSide (p : Nat) : Nat := if p < 6 then 1 else 2

/-- The sending and the receiving side of a direction of a pair. -/
def senderSide (p d : Nat) : Nat := if d = 0 then 0 else fwSide p
def receiverSide (p d : Nat) : Nat := if d = 0 then fwSide p else 0

/-- The tile under which the doorbell registers of a side lie: the management unit has one set. -/
def doorTile (t side : Nat) : Nat := if side = 2 then 0 else t

/-- Set a doorbell bit of a side of a tile's pairs. -/
def ringDoor (t side b : Nat) (s : State) : State := ringSide (doorTile t side) side b s

/-- The reset epoch of a side (R355). -/
def epochOf (s : State) (t side : Nat) : Nat :=
  if side = 0 then getObj s t Obj.hostEpoch
  else if side = 1 then getObj s t Obj.sequencerEpoch
  else getObj s dev Obj.managementEpoch

/-- The sender identity of Table 14.2. -/
def senderId (s : State) (t side : Nat) : Nat := fld 10 6 t + fld 6 4 side + fld 0 6 (epochOf s t side)

/-- Outstanding of SendState: messages not acknowledged and acknowledges unread (Table 14.1). -/
def outstandingOf (m : MDir) : Nat := m.slots.length + (if m.latched.isSome then 1 else 0) + m.acks.length

/-- SendState as the sender reads it. -/
def sendState (m : MDir) : Nat := fld 48 16 m.nextSeq + fld 8 8 m.lastStatus + fld 0 3 (outstandingOf m)

/-- The reset of a receiver is asserted: the tile's reset, the management unit's reset (R360). -/
def receiverInReset (s : State) (t side : Nat) : Bool :=
  if side = 1 then inReset s t else if side = 2 then mgmtDown s else false

/-- R356: post a message in one instant. -/
def post (t p d msg : Nat) (s : State) : State :=
  let m0 := getMail s t p d
  if outstandingOf m0 ≥ 4 then
    answer stRetry (modMail t p d (fun m => { m with staging := msg, lastStatus := stRetry }) s)
  else
    let x : Msg := { seq := m0.nextSeq, sender := senderId s t (senderSide p d), data := msg,
                     post := s.time.elapsed }
    let s1 := bump t (Obj.mailboxPosted + p) 1 s
    if receiverInReset s t (receiverSide p d) then
      let s2 := modMail t p d (fun m => { m with
        staging := msg, lastStatus := stOk, nextSeq := (m.nextSeq + 1) % 65536,
        acks := m.acks ++ [⟨x.seq, 0, stReceiverReset⟩] }) s1
      answer stOk (ringDoor t (senderSide p d) 1 (bump t (Obj.mailboxWithdrawn + p) 1 s2))
    else
      let s2 := modMail t p d (fun m => { m with
        staging := msg, lastStatus := stOk, nextSeq := (m.nextSeq + 1) % 65536,
        slots := m.slots ++ [x] }) s1
      answer stOk (ringDoor t (receiverSide p d) 0 s2)

/-- SEND_POST (R356), by the host or by the firmware side. -/
def execSendPost (t : TileN) (p : PairN) (host : Bool) (msg : BitVec 512) (s : State) : Res :=
  run (post t p (if host then 0 else 1) msg.toNat) s

/-- The RecvLatch value of a latched message (Table 14.1). -/
def latchValue (m : Msg) : Nat := 2 ^ 63 + fld 32 16 m.seq + fld 0 16 m.sender

/-- R354: a read of RecvLatch latches the oldest unread message, unless one is latched already. -/
def latchMsg (t p d : Nat) (s : State) : State :=
  let m := getMail s t p d
  match m.latched, m.slots with
  | some x, _ => answerData (leBytes 8 (latchValue x)) s
  | none, [] => answerData (leBytes 8 0) (modMail t p d (fun m => { m with recvLatch := 0 }) s)
  | none, x :: r =>
    answerData (leBytes 8 (latchValue x)) (modMail t p d (fun m => { m with
      slots := r, latched := some x, recvSlot := x.data, recvLatch := latchValue x }) s)

/-- RECV_LATCH (R354), by the host (direction up) or by the firmware side (direction down). -/
def execRecvLatch (t : TileN) (p : PairN) (host : Bool) (s : State) : Res :=
  run (latchMsg t p (if host then 1 else 0)) s

/-- The AckRead value of an entry (Table 14.1). -/
def ackValue (a : AckE) : Nat := 2 ^ 63 + fld 32 16 a.seq + fld 8 24 a.data + fld 0 8 a.status

/-- R354: a read of AckRead pops the oldest entry, and reads 0 when the FIFO is empty. -/
def popAck (t p d : Nat) (s : State) : State :=
  match (getMail s t p d).acks with
  | [] => answerData (leBytes 8 0) (modMail t p d (fun m => { m with ackRead := 0 }) s)
  | a :: r =>
    answerData (leBytes 8 (ackValue a)) (modMail t p d (fun m => { m with acks := r, ackRead := ackValue a }) s)

/-- ACK_READ (R354), by the host or by the firmware side. -/
def execAckRead (t : TileN) (p : PairN) (host : Bool) (s : State) : Res :=
  run (popAck t p (if host then 0 else 1)) s

/-- R356, R361: a write to RecvTake acknowledges the latched message; the acknowledge of a sender reset
since is discarded and counted. RecvSlot's later contents are a free value. -/
def takeMsg (t p d v : Nat) (s : State) : State :=
  match (getMail s t p d).latched with
  | none => answer stOk s
  | some x =>
    let (fv, s0) := draw s
    let s1 := modMail t p d (fun m => { m with latched := none, recvLatch := 0, recvSlot := fv % 2 ^ 512 }) s0
    if x.sender % 64 ≠ epochOf s t (senderSide p d) then answer stOk (bump t (Obj.staleAcks + p) 1 s1)
    else
      answer stOk (ringDoor t (senderSide p d) 1
        (modMail t p d (fun m => { m with acks := m.acks ++ [⟨x.seq, bits v 8 24, bits v 0 8⟩] }) s1))

/-- RECV_TAKE (R356), by the host (direction up) or by the firmware side (direction down). -/
def execRecvTake (t : TileN) (p : PairN) (host : Bool) (v : BitVec 64) (s : State) : Res :=
  run (takeMsg t p (if host then 1 else 0) v.toNat) s

/-- Whether an unread message, or an unread acknowledge, remains for a side at a tile (R356). -/
def unreadAt (s : State) (t side : Nat) : Bool :=
  (List.range 8).any (fun p =>
    (decide (receiverSide p 0 = side) && !(getMail s t p 0).slots.isEmpty)
    || (decide (receiverSide p 1 = side) && !(getMail s t p 1).slots.isEmpty))
def unackedAt (s : State) (t side : Nat) : Bool :=
  (List.range 8).any (fun p =>
    (decide (senderSide p 0 = side) && !(getMail s t p 0).acks.isEmpty)
    || (decide (senderSide p 1 = side) && !(getMail s t p 1).acks.isEmpty))

/-- The same over the tiles a side's doorbell stands for. -/
def unreadFor (s : State) (t side : Nat) : Bool :=
  if side = 2 then (List.range 64).any (fun t => unreadAt s t 2) else unreadAt s t side
def unackedFor (s : State) (t side : Nat) : Bool :=
  if side = 2 then (List.range 64).any (fun t => unackedAt s t 2) else unackedAt s t side

/-- R356: bits 0 and 1 are set again at once while an unread message or acknowledge remains. -/
def levelBits (t side : Nat) (s : State) : State :=
  let s1 := if unreadFor s t side then ringDoor t side 0 s else s
  if unackedFor s t side then ringDoor t side 1 s1 else s1

/-- DOORBELL_CLEAR (R357): write 1 to clear. -/
def execDoorbellClear (t : TileN) (side : Fin 3) (v : BitVec 32) (s : State) : Res :=
  run (fun s => answer stOk (levelBits t side
    (modDoor (doorTile t side) side (fun d => { d with status := maskOff d.status v.toNat }) s))) s

/-- Set software bits 16 to 31 at a side. -/
def ringBits (t side v : Nat) (s : State) : State :=
  (List.range 16).foldl (fun s i => if bit v (16 + i) then ringDoor t side (16 + i) s else s) s

/-- DOORBELL_SET (R357): bits 16 to 31 at the other side of the pairs; the management unit names the
tile in bits 5 to 0. -/
def execDoorbellSet (t : TileN) (side : Fin 3) (v : BitVec 64) (s : State) : Res :=
  run (fun s => answer stOk (
    if side.val = 0 then ringBits t 2 v.toNat (ringBits t 1 v.toNat s)
    else if side.val = 1 then ringBits t 0 v.toNat s
    else ringBits (bits v.toNat 0 6) 0 v.toNat s)) s

/-- R357: a set bit whose mask bit is 1 asserts the side's doorbell interrupt. -/
def doorIrq (s : State) (t side : Nat) : Bool :=
  let d := getDoor s (doorTile t side) side
  decide (d.status &&& d.mask ≠ 0)

/-- R358: the oldest unread message of a direction, if it has waited MailboxAckTimeout, is withdrawn
and its sender receives TIMEOUT. -/
def ackTimeout (t p d : Nat) (s : State) : State :=
  match (getMail s t p d).slots with
  | [] => s
  | x :: r =>
    if s.time.elapsed < x.post + getObj s t Obj.mailboxAckTimeout * 1000000 then s
    else ringDoor t (senderSide p d) 1 (bump t (Obj.mailboxTimeouts + p) 1
      (modMail t p d (fun m => { m with slots := r, acks := m.acks ++ [⟨x.seq, 0, stTimeout⟩] }) s))

/-- MAILBOX_ACK_TIMEOUT (R358); `host`: the direction whose sender is the host. -/
def execMailboxAckTimeout (t : TileN) (p : PairN) (host : Bool) (s : State) : Res :=
  run (ackTimeout t p (if host then 0 else 1)) s

/-- R361: steps 2 to 5 of a sender's reset, for one direction. -/
def senderReset (t p d : Nat) (s : State) : State :=
  let n := (getMail s t p d).slots.length
  ringDoor t (senderSide p d) 1 (bump t (Obj.mailboxWithdrawn + p) n
    (modMail t p d (fun m => { m with
      slots := [], acks := m.slots.map (fun x => ⟨x.seq, 0, stResetWithdrawn⟩) }) s))

/-- R360: a receiver's reset hands every unread message of a direction back. -/
def receiverReset (t p d : Nat) (s : State) : State :=
  match (getMail s t p d).slots with
  | [] => s
  | l =>
    ringDoor t (senderSide p d) 1 (bump t (Obj.mailboxWithdrawn + p) l.length
      (modMail t p d (fun m => { m with
        slots := [], acks := m.acks ++ l.map (fun x => ⟨x.seq, 0, stReceiverReset⟩) }) s))

/-- One direction of a pair when the sides of `gone` are reset together: a sender's reset decides over
the receiver's (R375). -/
def dirReset (gone : Nat → Bool) (t p d : Nat) (s : State) : State :=
  if gone (senderSide p d) then senderReset t p d s
  else if gone (receiverSide p d) then receiverReset t p d s
  else s

/-- Every pair of a tile when sides are reset. -/
def pairsReset (gone : Nat → Bool) (t : Nat) (s : State) : State :=
  (List.range 8).foldl (fun s p => dirReset gone t p 1 (dirReset gone t p 0 s)) s

/-- R360: the doorbell of a reset side is cleared and its mask returns to its reset value. -/
def clearDoor (t side : Nat) (s : State) : State := modDoor (doorTile t side) side (fun _ => {}) s

/-- The reset of the host side of a tile (R360, R361). -/
def hostSideReset (t : Nat) (s : State) : State :=
  let s1 := setObj t Obj.hostEpoch ((getObj s t Obj.hostEpoch + 1) % 64) s
  pairsReset (fun x => x = 0) t (clearDoor t 0 s1)

/-- The reset of the sequencer side of a tile (R360, R361). -/
def sequencerSideReset (t : Nat) (s : State) : State :=
  let s1 := setObj t Obj.sequencerEpoch ((getObj s t Obj.sequencerEpoch + 1) % 64) s
  pairsReset (fun x => x = 1) t (clearDoor t 1 s1)

/-- The reset of the management unit's side: pairs 6 and 7 of every tile (R360, R361). -/
def managementSideReset (s : State) : State :=
  let s1 := setObj dev Obj.managementEpoch ((getObj s dev Obj.managementEpoch + 1) % 64) s
  forTiles (pairsReset (fun x => x = 2)) (clearDoor 0 2 s1)

/-- R362: MailboxClear treats both sides of the pair as senders being reset, epochs unchanged. -/
def writeMailboxClear (t p v : Nat) (s : State) : State :=
  if v > 1 then answer stBadFormat s
  else if v = 0 then answer stOk s
  else answer stOk (senderReset t p 1 (senderReset t p 0 s))

/-- MAILBOX_CLEAR (R362). -/
def execMailboxClear (t : TileN) (p : PairN) (v : BitVec 8) (s : State) : Res :=
  run (writeMailboxClear t p v.toNat) s

/-- CONFIG_PORT_RESET (R361): trp_cfg_rst_n resets the host side of the tile's mailboxes. -/
def execConfigPortReset (t : TileN) (s : State) : Res := run (hostSideReset t) s

end Sys2Proof.Machine
end

