-- ==== Sys2Proof/Machine/Copybook.lean ====
section
/-! DEFINITION. The Copybook (R368 to R374): records and their bits, appends, compaction, and the scan
at power-on. -/

namespace Sys2Proof.Machine

open Sys2Proof

/-! ## Records (Table 14.5) -/

/-- Bytes 0 to 59 of a record, as one number. -/
def bookBody (r : Record) : Nat :=
  fld 0 384 r.payload + fld 384 32 r.key + fld 416 8 r.length + fld 424 8 r.kind + fld 448 32 r.seq

/-- The 64 bytes of a record; those of a torn one are not modelled. -/
def bookBits (r : Record) : Nat := bookBody r + fld 480 32 (crc32 (leBytes 60 (bookBody r)))

/-- Slots of an area, and the records that start a compaction (R373). -/
abbrev areaSlots : Nat := 131072
abbrev compactAt : Nat := 98304

/-- The active area, and the other one. -/
def activeArea (s : State) : Area := if s.copy.activeB then s.copy.areaB else s.copy.areaA
def otherArea (s : State) : Area := if s.copy.activeB then s.copy.areaA else s.copy.areaB

/-- Change the active area, or the other one. -/
def setActive (a : Area) (s : State) : State :=
  if s.copy.activeB then { s with copy := { s.copy with areaB := a } }
  else { s with copy := { s.copy with areaA := a } }
def setOther (a : Area) (s : State) : State :=
  if s.copy.activeB then { s with copy := { s.copy with areaA := a } }
  else { s with copy := { s.copy with areaB := a } }

/-- The kinds the journal keeps (Table 14.6); the others are ignored. -/
def keptKind (k : Nat) : Bool := decide (1 ≤ k ∧ k ≤ 0x0B)

/-- The newest valid record of a kind and key: the highest seq (R371). -/
def newestIn (l : List Record) (kind key : Nat) : Option Record :=
  l.foldl (fun (best : Option Record) r =>
    if r.good ∧ r.kind = kind ∧ r.key = key then
      match best with
      | none => some r
      | some b => if b.seq < r.seq then some r else best
    else best) none

/-- The newest records of every kind and key, in the order of their slots. -/
def liveRecords (l : List Record) : List Record :=
  l.filter (fun r => r.good && keptKind r.kind && decide (newestIn l r.kind r.key = some r))

/-! ## Appends (R372) -/

/-- R373: compaction erases the other area and writes its header with generation + 1. -/
def startCompaction (s : State) : State :=
  let g := (getObj s dev Obj.copybookGeneration + 1) % 2 ^ 32
  let h : Record := { seq := s.copy.nextSeq, kind := 0x0F, key := 0, length := 4, payload := g }
  let a : Area := { generation := some g, records := [h], committed := false }
  let s1 := setOther a s
  setObj dev Obj.copybookState 1
    { s1 with copy := { s1.copy with compacting := true, nextSeq := s1.copy.nextSeq + 1 } }

/-- Repair records pending of a tile (kinds 2 and 3) fall as they are committed. -/
def repairCommitted (r : Record) (s : State) : State :=
  if r.kind = 2 ∨ r.kind = 3 then
    let t := bits r.key 10 6
    setObj t Obj.repairRecordsPending (getObj s t Obj.repairRecordsPending - 1) s
  else s

/-- Append a record to the active area. -/
def appendRecord (r : Record) (s : State) : State :=
  let a := activeArea s
  let s1 := setActive { a with records := a.records ++ [r] } s
  bump dev Obj.copybookFill 1 { s1 with copy := { s1.copy with nextSeq := s1.copy.nextSeq + 1 } }

/-- Start compaction when the active area holds 98,304 records. -/
def compactIfFull (s : State) : State :=
  if getObj s dev Obj.copybookState = 0 ∧ getObj s dev Obj.copybookFill ≥ compactAt then startCompaction s else s

/-- R372: the program of the record at the head of the queue completes; or it fails and moves on to the
next slot, and after 16 failures in a row the Copybook is read-only. Appends stop while the management
unit is in reset (R375) and during compaction. -/
def programDone (ok : Bool) (s : State) : State :=
  match s.copy.queue with
  | [] => s
  | q :: rest =>
    if getObj s dev Obj.copybookState ≠ 0 ∨ mgmtDown s then s
    else
      let r := { q with seq := s.copy.nextSeq }
      if ok then
        let s1 := countEv dev 0x0102 r.kind 1 (appendRecord { r with good := true }
          { s with copy := { s.copy with queue := rest, failures := 0 } })
        compactIfFull (repairCommitted r s1)
      else
        let s1 := appendRecord { r with good := false } (bump dev Obj.flashErrors 1 s)
        let n := s1.copy.failures + 1
        let s2 := { s1 with copy := { s1.copy with failures := n } }
        if n ≥ 16 then ringAll 8 (addLog dev 0x0B 4 stOk 0 0 (setObj dev Obj.copybookState 2 s2))
        else compactIfFull s2

/-- COPYBOOK_PROGRAM_DONE (R372). -/
def execCopybookProgramDone (ok : Bool) (s : State) : Res := run (programDone ok) s

/-! ## Compaction (R373) -/

/-- A write of CopybookCompact; a Copybook that is not ready answers RETRY (DESIGN CHOICE). -/
def writeCompact (v : Nat) (s : State) : State :=
  if v > 1 then answer stBadFormat s
  else if v = 0 then answer stOk s
  else if getObj s dev Obj.copybookState ≠ 0 then answer stRetry s
  else answer stOk (startCompaction s)

/-- COPYBOOK_COMPACT (R373). -/
def execCopybookCompact (v : BitVec 8) (s : State) : Res := run (writeCompact v.toNat) s

/-- The commit record of a compaction (Table 14.6, kind 0x10). -/
def commitRecord (gen seq : Nat) (copied : List Record) : Record :=
  let c := crc32 ((copied.map (fun r => leBytes 64 (bookBits r))).flatten)
  { seq := seq, kind := 0x10, key := 0, length := 12, payload := gen + copied.length * 2 ^ 32 + c * 2 ^ 64 }

/-- R373: the copies and the commit record are written and the new area becomes active. -/
def compactionComplete (s : State) : State :=
  if getObj s dev Obj.copybookState ≠ 1 ∨ mgmtDown s then s
  else
    let o := otherArea s
    let copied := liveRecords (activeArea s).records
    let gen := o.generation.getD 0
    let recs := o.records.take 1 ++ copied ++ [commitRecord gen s.copy.nextSeq copied]
    let s1 := setOther { generation := some gen, records := recs, committed := true } s
    let s2 := { s1 with copy := { s1.copy with
      activeB := !s1.copy.activeB, compacting := false, nextSeq := s1.copy.nextSeq + 1 } }
    let s3 := setObj dev Obj.copybookState 0 (setObj dev Obj.copybookGeneration gen
      (setObj dev Obj.copybookFill recs.length (bump dev Obj.copybookCompactions 1 s2)))
    if recs.length > 65536 then ringAll 8 s3 else s3

/-- COMPACTION_COMPLETE (R373). -/
def execCompactionComplete (s : State) : Res := run compactionComplete s

/-! ## The scan at power-on (R368, R370, R371) -/

/-- An area qualifies: a valid header and a valid commit. -/
def qualifies (a : Area) : Bool := a.generation.isSome && a.committed

/-- Whether area B is the active one; none if neither qualifies. -/
def chooseArea (a b : Area) : Option Bool :=
  if qualifies a then
    if qualifies b ∧ a.generation.getD 0 < b.generation.getD 0 then some true else some false
  else if qualifies b then some true else none

/-- The remap table that a record's 24 bytes give (Table 10.2). -/
def remapOfBits (n : Nat) : Remap :=
  { entries := (List.range 8).map (fun e =>
      if bit n (18 * e + 17) then some (bits n (18 * e + 4) 13, bits n (18 * e) 4) else none)
    spares := (List.range 16).map (fun i => bits n (144 + 2 * i) 2) }

/-- Restore what one record holds: object values, remap tables, retirement entries, speed ceilings,
rights keys and estimator factors. A device warm reset has kept the tables and lists (R383).
Calibration baselines are read from the records in phase 4; the factory kinds are constants of the
configuration. -/
def restoreRecord (warm : Bool) (r : Record) (s : State) : State :=
  if warm ∧ (r.kind = 0x02 ∨ r.kind = 0x03) then s
  else if r.kind = 0x01 then
    match keyDef (r.key / 256) with
    | some d => if d.acc = .rws then setObj (r.key % 256) (r.key / 256) r.payload s else s
    | none => s
  else if r.kind = 0x02 then
    setRemap (bits r.key 10 6) (bits r.key 4 6) (bits r.key 0 4) (remapOfBits r.payload) s
  else if r.kind = 0x03 then
    let t := bits r.key 10 6
    { s with retire := fset 0 s.retire (t * 1024 + bits r.key 16 10) r.payload }
  else if r.kind = 0x05 then setObj (bits r.key 10 6) Obj.speedCeiling r.payload s
  else if r.kind = 0x09 then
    { s with power := { s.power with fit := fset 1000 s.power.fit (bits r.key 0 10) r.payload } }
  else if r.kind = 0x0A then setObj dev (Obj.rightsKey + (r.key % 256 - 1)) r.payload s
  else s

/-- SparesFree, SparesBad and RetiredRows of the tiles from the restored tables (R275, R278). -/
def countSpares (s : State) : State :=
  let tiles : List Nat := (s.remap.map (fun (e : Nat × Remap) => e.1 / 768) ++ s.retire.map (fun (e : Nat × Nat) => e.1 / 1024)).eraseDups
  tiles.foldl (fun s t =>
    let sp : List Nat := ((s.remap.filter (fun (e : Nat × Remap) => e.1 / 768 = t)).map (fun e => e.2.spares)).flatten
    setObj t Obj.retiredRows (s.retire.filter (fun (e : Nat × Nat) => e.1 / 1024 = t)).length
      (setObj t Obj.sparesBad (sp.filter (fun x => x = 2)).length
        (setObj t Obj.sparesFree (12288 - (sp.filter (fun x => x ≠ 0)).length) s))) s

/-- R368, R371: the flash is identified and the active area is read, with the records still queued after
a warm reset; a compaction that a warm reset cut starts again (R375). -/
def scanCopybook (warm : Bool) (s : State) : State :=
  let s0 := setObj dev Obj.flashCapacity Config.flashCapacity s
  if Config.flashCapacity < 64 then setObj dev Obj.copybookState 3 s0
  else
    match chooseArea s.copy.areaA s.copy.areaB with
    | none => ringAll 8 (setObj dev Obj.copybookState 2 s0)
    | some b =>
      let s1 := { s0 with copy := { s0.copy with activeB := b, failures := 0, compacting := false } }
      let l := (activeArea s1).records
      let s2 := { s1 with copy := { s1.copy with nextSeq := l.foldl (fun m r => max m (r.seq + 1)) 0 } }
      let s3 := setObj dev Obj.copybookGeneration ((activeArea s2).generation.getD 0)
        (setObj dev Obj.copybookFill l.length
          (setObj dev Obj.copybookTornRecords (l.filter (fun r => !r.good)).length
            (setObj dev Obj.copybookState 0 s2)))
      let s4 := countSpares ((liveRecords l ++ s3.copy.queue).foldl (fun s r => restoreRecord warm r s) s3)
      if s.copy.compacting then startCompaction s4 else compactIfFull s4

/-- The payload of the newest record of a kind and key, queued records first (R371, R378). -/
def copyValue (s : State) (kind key : Nat) : Option Nat :=
  match s.copy.queue.reverse.find? (fun r => r.kind = kind ∧ r.key = key) with
  | some r => some r.payload
  | none => (newestIn (activeArea s).records kind key).map (fun r => r.payload)

end Sys2Proof.Machine
end

