-- ==== Sys2Proof/Machine/Firmware.lean ====
section
/-! DEFINITION. Processors and firmware delivery (R352, R363 to R367): segments, pieces, activation,
traps, and the reset of the management unit (R383 code 8). -/

namespace Sys2Proof.Machine

open Sys2Proof

/-! ## The reset of the management unit -/

/-- A reset of a code reaches a tile (R383): ResetCause, ResetCounts, and a trouble-log entry. -/
def noteReset (t code : Nat) (s : State) : State := setObj t Obj.resetCause code (bump t (Obj.resetCounts + (code - 1)) 1 s)
def resetReaches (t code : Nat) (s : State) : State := addLog t 0x0C 3 stOk code 0 (noteReset t code s)

/-- The management unit is reset (R383 code 8): its firmware is away for 5 ms (it ends at a tick, `tickManagement`),
its state, a scheduled activation with it, is lost, and its mailbox sides are reset. Every tile records it, and the
device log, which is that of the management unit (R403). -/
def resetManagement (s : State) : State :=
  let s1 := managementSideReset (addLog dev 0x0C 3 stOk 8 0 (forTiles (fun t s => noteReset t 8 s) s))
  { s1 with
    field := { s1.field with mgmtUntil := s1.time.elapsed + 5000000 }
    firm := { s1.firm with scheduled := none, nextPiece := 0, pieces := [] } }

/-! ## The segment header (Table 14.3) -/

def shMuBytes (h : Nat) : Nat := bits h 0 32
def shSeqOffset (h : Nat) : Nat := bits h 32 32
def shCount (h : Nat) : Nat := bits h 64 16
def shSeq (h : Nat) : Nat := bits h 80 16
def shImageId (h : Nat) : Nat := bits h 96 32
def shVersion (h : Nat) : Nat := bits h 128 32
def shImageBytes (h : Nat) : Nat := bits h 160 32
def shImageCrc (h : Nat) : Nat := bits h 192 32
def shReserved (h : Nat) : Nat := bits h 224 256
def shSegCrc (h : Nat) : Nat := bits h 480 32

/-- R363: the fields of a header agree with the limits of an image. -/
def segHeaderOk (h : Nat) : Bool :=
  decide (shImageId h ≠ 0 ∧ 1 ≤ shCount h ∧ shCount h ≤ 256 ∧ shSeq h < shCount h
    ∧ 1 ≤ shImageBytes h ∧ shImageBytes h ≤ 1048576 ∧ shCount h = ceilDiv (shImageBytes h) 4096
    ∧ shSeqOffset h % 4096 = 0 ∧ shMuBytes h ≤ 917504 ∧ shMuBytes h ≤ shSeqOffset h
    ∧ shSeqOffset h ≤ shImageBytes h ∧ shImageBytes h ≤ shSeqOffset h + 131072 ∧ shReserved h = 0)

/-- A segment as 4,160 bytes: what is missing reads as zero. -/
def segBytes (l : List Nat) : List Nat := (l ++ List.replicate (4160 - l.length) 0).take 4160

/-- Bit seq of FirmwareBitmap (R365). -/
def segHeld (s : State) (i : Nat) : Bool := bit (getObj s dev Obj.firmwareBitmap) i

/-- R365: one segment is checked. -/
def checkSegment (l : List Nat) (s : State) : State :=
  let b := segBytes l
  let h := leNat (b.take 64)
  let good := decide (shImageId h = getObj s dev Obj.firmwareExpectImage) && segHeaderOk h
    && decide (crc32 (b.take 60 ++ b.drop 64) = shSegCrc h)
  if !good then answer stBadImage (bump dev Obj.segmentRejects 1 s)
  else if segHeld s (shSeq h) then answer stOk s
  else
    let first := decide (getObj s dev Obj.firmwareBitmap = 0)
    let f := { s.firm with
      staging := fset 0 s.firm.staging (shSeq h) (leNat (b.drop 64))
      header := if first then some h else s.firm.header }
    answer stOk (bump dev Obj.firmwareSegmentsHeld 1
      (setObj dev Obj.firmwareBitmap (setBit (getObj s dev Obj.firmwareBitmap) (shSeq h)) { s with firm := f }))

/-- SEGMENT_POST (R364): SegmentPost of the tile's configuration port; the management unit in reset
answers RETRY (R349). -/
def segmentPost (t : Nat) (l : List Nat) (s : State) : State :=
  let s1 := if mgmtDown s then answerHint 100000000 s else checkSegment l s
  { s1 with seg := fset {} s1.seg t { buffer := segBytes l, status := s1.out.status } }

def execSegmentPost (t : TileN) (bytes : List Byte) (s : State) : Res := run (segmentPost t (byteNats bytes)) s

/-- SegmentStatus (R364): status at bits 15 to 8, busy at bit 0. -/
def segmentStatus (s : State) (t : Nat) : Nat := fld 8 8 (fget ({} : SegPort) s.seg t).status

/-- R364: a piece from a source; pieces come in order from one source and piece 0 discards any
incomplete assembly. A piece out of order answers BAD_FORMAT (DESIGN CHOICE). -/
def takePiece (src : Nat) (l : List Nat) (s : State) : State :=
  let w := leNat (l.take 8)
  let n := bits w 32 16
  let id := bits w 0 32
  if l.length ≠ 528 ∨ bits w 48 16 ≠ 0 ∨ n > 7 then answer stBadFormat s
  else if n = 0 then
    answer stOk { s with firm := { s.firm with
      nextPiece := 1, pieceId := id, pieceSrc := src, pieces := l.drop 8 } }
  else if s.firm.nextPiece ≠ n ∨ s.firm.pieceId ≠ id ∨ s.firm.pieceSrc ≠ src then answer stBadFormat s
  else if n < 7 then
    answer stOk { s with firm := { s.firm with nextPiece := n + 1, pieces := s.firm.pieces ++ l.drop 8 } }
  else
    checkSegment (s.firm.pieces ++ l.drop 8) { s with firm := { s.firm with nextPiece := 0, pieces := [] } }

/-- FIRMWARE_SEGMENT_PIECE (R364). -/
def execFirmwareSegmentPiece (bytes : List Byte) (s : State) : Res := run (takePiece 0 (byteNats bytes)) s

/-- R365, R375: a write of FirmwareExpectImage; a new value clears the bitmap, and it is refused while
an activation is scheduled. -/
def writeExpect (v : Nat) (s : State) : State :=
  if s.firm.scheduled.isSome then answer stRetry s
  else if v = getObj s dev Obj.firmwareExpectImage then answer stOk s
  else
    storeObj dev Obj.firmwareExpectImage v (setObj dev Obj.firmwareBitmap 0
      (setObj dev Obj.firmwareSegmentsHeld 0
        { s with firm := { s.firm with staging := [], header := none } }))

/-- FIRMWARE_EXPECT_IMAGE_WRITE (R365). -/
def execFirmwareExpectImageWrite (v : BitVec 32) (s : State) : Res := run (writeExpect v.toNat) s

/-! ## Activation (R366) -/

/-- FirmwareState when no activation is scheduled (Table 14.8). -/
def restState (s : State) : Nat :=
  if s.firm.runningHeader.isNone then 2 else if s.firm.activated then 1 else 0

/-- A write of FirmwareActivate; one more while an activation is scheduled answers RETRY (DESIGN
CHOICE). -/
def writeActivate (v : Nat) (s : State) : State :=
  if s.firm.scheduled.isSome then answer stRetry s
  else
    answer stOk (setObj dev Obj.firmwareState 3
      { s with firm := { s.firm with scheduled := some (bits v 64 64, bits v 32 32, bits v 0 32) } })

/-- FIRMWARE_ACTIVATE (R366). -/
def execFirmwareActivate (v : BitVec 128) (s : State) : Res := run (writeActivate v.toNat) s

/-- The staged image's bytes 0 to image_bytes - 1. -/
def imageBytes (segs : FMap Nat) (h : Nat) : List Nat :=
  ((List.range (shCount h)).map (fun i => leBytes 4096 (fget 0 segs i))).flatten.take (shImageBytes h)

/-- Segments 0 to count - 1 are held and the staged image's CRC-32 is `crc` (R366). -/
def stagedOk (s : State) (h crc : Nat) : Bool :=
  (List.range (shCount h)).all (segHeld s) && decide (crc32 (imageBytes s.firm.staging h) = crc)

/-- FirmwareActivateResult (Table 14.8). -/
def setActivateResult (st : Nat) (s : State) : State :=
  setObj dev Obj.firmwareActivateResult (s.time.timeBase % 2 ^ 56 * 256 + st) s

/-- R367: the image is being written to flash; a device without a flash writes nothing. -/
def startFlash (h : Nat) (s : State) : State :=
  if getObj s dev Obj.copybookState = 3 then setObj dev Obj.flashImageState 2 s
  else setObj dev Obj.flashImageState 1 { s with firm := { s.firm with
    flashHeader := none, flashImage := s.firm.staging, flashWriting := true, runningHeader := some h } }

/-- The header with seq and seg_crc 0 (R367). -/
def flashForm (h : Nat) : Nat := h - fld 80 16 (shSeq h) - fld 480 32 (shSegCrc h)

/-- R366: the scheduled activation, at its time and outside Hold (R375). -/
def activation (s : State) : State :=
  match s.firm.scheduled with
  | none => s
  | some (at_, crc, id) =>
    if s.time.timeBase < at_ ∨ mgmtDown s ∨ (List.range 64).any (inHold s) then s
    else
      let s1 := { s with firm := { s.firm with scheduled := none } }
      let good := match s.firm.header with
        | some h => decide (shImageId h = id) && stagedOk s h crc
        | none => false
      if !good then
        ringAll 8 (addLog dev 0x0B 3 stBadImage id 0
          (setActivateResult stBadImage (setObj dev Obj.firmwareState (restState s1) s1)))
      else
        let h := s.firm.header.getD 0
        let s2 := forTiles sequencerSideReset (resetManagement s1)
        let s3 := { s2 with firm := { s2.firm with runningHeader := some h, activated := true } }
        let s4 := setObj dev Obj.firmwareVersion (shVersion h) (setObj dev Obj.firmwareState 1 s3)
        startFlash h (ringAll 8 (setActivateResult stOk s4))

/-- FIRMWARE_ACTIVATION (R366). -/
def execFirmwareActivation (s : State) : Res := run activation s

/-- FLASH_IMAGE_WRITTEN (R367): the header is programmed last. -/
def flashWritten (s : State) : State :=
  if !s.firm.flashWriting then s
  else
    setObj dev Obj.flashImageState 0 { s with firm := { s.firm with
      flashWriting := false, flashHeader := s.firm.runningHeader.map flashForm } }

def execFlashImageWritten (s : State) : Res := run flashWritten s

/-! ## Boot and traps (R352, R367) -/

/-- The stored image is complete: its header is there and the image meets image_crc. -/
def flashOk (s : State) : Bool :=
  match s.firm.flashHeader with
  | some h => decide (crc32 (imageBytes s.firm.flashImage h) = shImageCrc h)
  | none => false

/-- R367: the boot ROM runs the flash image, or waits for one from the network. -/
def bootFlash (s : State) : State :=
  if flashOk s then
    let h := s.firm.flashHeader.getD 0
    setObj dev Obj.firmwareVersion (shVersion h) (setObj dev Obj.firmwareState 0
      (setObj dev Obj.flashImageState 0
        { s with firm := { s.firm with runningHeader := some h, activated := false } }))
  else
    setObj dev Obj.firmwareState 2 (setObj dev Obj.flashImageState 2
      { s with firm := { s.firm with runningHeader := none, activated := false } })

/-- R352: the management unit restarts from staging if that holds a verified image of the running
version, else from flash, else it waits. -/
def restartManagement (s : State) : State :=
  let staged := match s.firm.header, s.firm.runningHeader with
    | some h, some r => decide (shVersion h = shVersion r) && stagedOk s h (shImageCrc h)
    | _, _ => false
  if staged then setObj dev Obj.firmwareState (restState s) s
  else bootFlash { s with firm := { s.firm with flashWriting := false } }

/-- PROCESSOR_TRAP (R352): an unhandled trap of sequencer `p`, or of the management unit at 64. -/
def processorTrap (p pc cause : Nat) (s : State) : State :=
  if p = 64 then
    if mgmtDown s ∨ s.firm.runningHeader.isNone then s
    else
      let s1 := budget 7 (addLog dev 0x0B 2 stOk pc cause (bump dev Obj.managementTraps 1 s))
      ringAll 8 (restartManagement (resetManagement s1))
  else if inReset s p ∨ s.firm.runningHeader.isNone then s
  else
    let s1 := budget 7 (addLog p 0x0B 1 stOk pc cause (bump p Obj.sequencerTraps 1 s))
    ring p 8 (sequencerSideReset p s1)

def execProcessorTrap (proc : Fin 65) (pc : BitVec 32) (cause : BitVec 32) (s : State) : Res :=
  run (processorTrap proc.val pc.toNat cause.toNat) s

end Sys2Proof.Machine
end

