-- ==== Sys2Proof/Machine/TileResets.lean ====
section
/-! DEFINITION. Resets within a tile (R383 to R385, codes 3 to 8): what a tile shallow or deep reset, a
partition reset, an engine reset, a port reset and a management unit reset clear. -/

namespace Sys2Proof.Machine

open Sys2Proof

/-! ## Records of resets (R383) -/

/-- R385: a smaller reset is absorbed and counted as done. -/
def resetAbsorbed (t code : Nat) (s : State) : State := bump t (Obj.resetCounts + (code - 1)) 1 s

/-! ## Queued work (R92, R384) -/

/-- An access that a tile reset finds not issued, or not wholly: what it lacks will not be sent (R59). -/
def unissued (s : State) (a : Acc) : Bool :=
  decide (a.stage = 0) || (a.kind == .rmw && decide (a.stage < 3))
    || (match a.kind with | .copy _ => decide (a.stage = 1) | _ => false) || (byLines s a && decide (a.sent < 32))

/-- A request loses one access to a reset: RETRY. -/
def reqRetry (r : Req) : Req := { r with status := stRetry, left := r.left - 1 }

/-- A request that waits at its ingress FIFO is answered RETRY. -/
def reqDiscard (r : Req) : Req := { r with status := stRetry, left := 0, waiting := 0 }

/-- Discard the accesses of a channel that satisfy `p`: their requests lose them to RETRY, and a merge entry whose
flush waited for them is free. -/
def discardQueue (t c : Nat) (p : Acc → Bool) (s : State) : State :=
  let q := getQueue s t c
  let keep := fun (l : List Acc) => l.filter (fun a => !p a)
  let s1 := batchEnds t c (modQueue t c (fun q => { q with rq := keep q.rq, wq := keep q.wq, deferred := keep q.deferred }) s)
  let s2 := ((q.rq ++ q.wq ++ q.deferred).filter p).foldl (fun s a =>
    a.reqs.foldl (fun s id => modReq t id reqRetry s) s) s1
  (List.range 32).foldl (fun s i => if (translate (getMerge s t i).line).chan = c then mergeSettle t c i s else s) s2

/-- An access is an entry of a bounce copy. -/
def ofBounce (a : Acc) : Bool := match a.kind with | .bounceRead _ | .bounceWrite .. => true | _ => false

/-- The bounce copies of a channel end where they stand: their entries and the bounce buffer are free, and a
retirement that waited for one goes on (R59). -/
def dropBounces (t c : Nat) (s : State) : State :=
  let q := getQueue s t c
  let s1 := modBounce t c (fun _ => {}) (discardQueue t c ofBounce s)
  (q.rq.filter ofBounce).foldl (fun s a => retirePending t c a.bank s) s1

/-- Discard the merge entries that satisfy `p`. -/
def discardMerges (t : Nat) (p : Merge → Bool) (s : State) : State :=
  (List.range 32).foldl (fun s i =>
    let m := getMerge s t i
    if m.valid ∧ ¬ m.flushing ∧ p m then m.reqs.foldl (fun s id => modReq t id reqRetry s) (setMerge t i {} s) else s) s

/-- Discard the requests waiting for queue entries that satisfy `p`. -/
def discardWaiting (t : Nat) (p : Req → Bool) (s : State) : State :=
  modSched t (fun x => { x with reqs := x.reqs.map (fun r => if r.waiting ≠ 0 ∧ p r then reqDiscard r else r) }) s

/-- The row fills of clearing blocks under way belong to them no more: their clearing begins anew
(BLOCK_CLEAR_COMPLETE). -/
def restartClears (t : Nat) (s : State) : State :=
  let l := s.pool.filter (fun e => decide (e.1 / 65536 = t ∧ e.2.pstate = 3 ∧ e.2.left > 0))
  l.foldl (fun s e => setPool t (e.1 % 65536) { e.2 with left := 0 } s) (forgetClears t s)

/-- R92, R150: what a tile reset does to the scheduler of a tile. -/
def clearScheduler (t : Nat) (s : State) : State :=
  let s1 := forChans (fun c s => discardQueue t c (unissued s) s) (forChans (dropBounces t) s)
  let s2 := discardWaiting t (fun _ => true) (discardMerges t (fun _ => true) s1)
  let s3 := forChans (fun c s => setObj t (Obj.passTierRound + c) 0 (setObj t (Obj.bestEffortRound + c) 0
    (modQueue t c (fun q => { q with drrPass := {}, drrBest := {}, writeDir := false, served := 0 }) s))) s2
  restartClears t (modSched t (fun x => { x with mapPass := {}, mapBest := {} })
    { s3 with page := fkeep (fun k => decide (k / 768 ≠ t)) s3.page })

/-- R149: the assembly buffers of a tile: a write whose header was complete receives RETRY. -/
def clearAssembly (t : Nat) (side : Nat → Option Side) (s : State) : State :=
  let mine := s.asm.filter (fun e => decide (e.1 / 128 = t) && (side (e.1 % 128)).isSome)
  mine.foldl (fun s e =>
    match side (e.1 % 128) with
    | none => s
    | some src =>
      let s0 := { s with asm := fset {} s.asm e.1 {} }
      let (o, s1) := newOrder t s0
      let (i, s2) := newId t s1
      addReq t { asmReq s2 t src e.2.header e.2.beats with id := i, order := o, status := stRetry, left := 0 } s2) s

/-- The side of an assembly buffer by its place in the tile's keys. -/
def sideOf (k : Nat) : Option Side :=
  if k < 8 then some (.host (Fin.ofNat 4 (k / 2)))
  else if 64 ≤ k then some (.gateway (Fin.ofNat 64 (k - 64)))
  else none

/-- R127: the requests of `p`, accepted and unanswered, count no more, and each regulator's count follows. -/
def uncount (t : Nat) (p : Req → Bool) (s : State) : State :=
  let s1 := modSched t (fun x => { x with reqs := x.reqs.map (fun r => if p r then { r with counted := none } else r) }) s
  (List.range 17).foldl (fun s r =>
    regSet t r ((getSched s t).reqs.filter (fun q => q.counted = some r)).length s) s1

/-- A job of the block map is abandoned: what it was to fill is cleared and freed, and the entry keeps what it had; a
spilled one is NEAR and dirty (R258). -/
def dropJob (t : Nat) (s : State) (j : MapJob) : State :=
  let part := (getEntry s t j.entry).part
  releasePending t j.entry (match j.kind, j.dst with
    | .spill, _ => spillBack t j.entry stRetry s
    | _, some p => toClearing t p part (endJob t j.entry s)
    | _, none => endJob t j.entry s)

/-- R258: running copies, fills and spills are abandoned, and requests held, or not yet resolved, receive RETRY. -/
def clearMapJobs (t : Nat) (s : State) : State :=
  let s1 := failHeld t (fun _ => true) stRetry 0 ((getMap s t).jobs.foldl (dropJob t) s)
  (getMap s1 t).input.foldl (fun s r => mapRefuse t r.req stRetry 0 s) (modMap t (fun m => { m with input := [] }) s1)

/-- R283: the running migrations of a tile return to the head of its queue. -/
def clearMigrations (t : Nat) (s : State) : State :=
  modProt t (fun p => { p with
    queue := p.running.map (fun m => { m with entry := none, spare := 0 }) ++ p.queue, running := [] }) s

/-- R115: passes sourced in a tile whose gateway is away carry cause bit 7. -/
def sourceAway (t : Nat) (away : Bool) (s : State) : State :=
  (sourcedPasses s t).foldl (fun s e => setForce e.1 e.2.1 7 away s) s

/-- R59: a channel waits for its outstanding reports, or sends PREA at once. -/
def quietChannel (t c : Nat) (s : State) : State :=
  if chState s t c = 4 then s
  else quietStep t c (modTrain t c (fun x => { x with quiet := some s.time.elapsed }) s)

/-- The six engines and the semaphores of a tile (R233, R175). -/
def clearEngines (t : Nat) (s : State) : State :=
  let s1 := (List.range 6).foldl (fun s e => resetEngine t e s) s
  (List.range 64).foldl (fun s i => setObj t (Obj.semaphore + i) 0 s) s1

/-- What a tile shallow reset clears (Table 15.2). -/
def clearTile (t : Nat) (s : State) : State :=
  let s1 := clearAssembly t sideOf (clearScheduler t s)
  let s2 := uncount t (fun _ => true) (clearPasses t (clearEngines t s1))
  sequencerSideReset t (clearMigrations t (clearMapJobs t s2))

/-! ## Tile resets (codes 4 and 5) -/

/-- R378: LaneSteer of the channel was recorded after its newest baseline. -/
def steerChanged (s : State) (t c : Nat) : Bool :=
  let l := (activeArea s).records ++ s.copy.queue
  let base := fun (r : Record) => decide (r.kind = 0x04 ∧ r.key = chanRecord t c)
  let steer := fun (r : Record) => decide (r.kind = 0x01 ∧ r.key = (Obj.laneSteer + c) * 256 + t)
  match l.reverse.find? (fun r => r.good && (base r || steer r)) with
  | some r => steer r
  | none => false

/-- R378: the channel takes the warm path in phases 4 and 5. -/
def warmPath (s : State) (t c : Nat) : Bool :=
  match copyValue s 0x04 (chanRecord t c) with
  | none => false
  | some b =>
    bit b 65 && !steerChanged s t c && decide (getObj s dev Obj.copybookState ≠ 3)
      && decide ((toSigned 16 (bits b 112 16) - getInt s t Obj.columnDramMax).natAbs
          ≤ 16 * getObj s t Obj.warmTolerance)

/-- Phase 4 begins for a channel (R377, R383). -/
def beginTraining (t c : Nat) (s : State) : State :=
  if chState s t c = 4 then s
  else
    let s1 := setObj t (Obj.channelBringupPath + c) (b2n (warmPath s t c)) (setObj t (Obj.channelState + c) 1 s)
    setObj t (Obj.prbsRestarts + c) 0
      (modTrain t c (fun x => { x with step := 1, started := s.time.elapsed, group := none }) s1)

/-- A tile shallow (1) or deep (2) reset begins. -/
def startTileReset (t kind : Nat) (s : State) : State :=
  let s1 := takeAllBounds (resetReaches t (3 + kind) (clearTile t s))
  let s2 := { s1 with treset := fset {} s1.treset t { kind := kind, start := s.time.elapsed } }
  let s3 := sourceAway t true (setObj t Obj.resetInProgress (3 + kind) s2)
  let s4 := forChans (fun c s => quietChannel t c s) s3
  if kind = 2 then forChans (fun c s => beginTraining t c s) s4 else s4

/-- R385: a tile reset asked for: absorbed by a bring-up or by a reset of the tile as large. -/
def tileReset (t kind : Nat) (s : State) : State :=
  if getObj s dev Obj.bringupPhase ≠ 0 ∨ (getReset s t).kind ≥ kind then resetAbsorbed t (3 + kind) s
  else startTileReset t kind s

/-- A write of TileReset: 1 shallow, 2 deep; 0 has no effect. -/
def writeTileReset (t v : Nat) (s : State) : State :=
  if v > 2 then answer stBadFormat s
  else if v = 0 then answer stOk s
  else answer stOk (tileReset t v s)

/-- TILE_SHALLOW_RESET (R383). -/
def execTileShallowReset (t : TileN) (s : State) : Res := run (writeTileReset t.val 1) s

/-- TILE_DEEP_RESET (R383). -/
def execTileDeepReset (t : TileN) (s : State) : Res := run (writeTileReset t.val 2) s

/-- R59: reports still missing 2 µs after the controller fell silent: PREA, link fault, retraining. Everything issued
and not complete returns to its queue. -/
def reportTimeout (t c : Nat) (s : State) : State :=
  match (getTrain s t c).quiet with
  | none => s
  | some since =>
    if ¬ inReset s t ∨ s.time.elapsed < since + 2000 then s
    else
      let q := getQueue s t c
      let ids := ((q.rq ++ q.wq).filter (fun a => decide (a.stage ≠ 0))).map (·.id)
      let s1 := dropWords t c (fun _ => false) (linkFault t c (modTrain t c (fun x => { x with quiet := none }) s))
      let s2 := (c :: bouncePeers s1 t c).foldl (fun s x => returnAccs t x ids s) s1
      let s3 := setBanks t c .closed (modLayer t c (fun l => { l with up := [], reads := [], last := none }) s2)
      sendDown t c { word := opWord 4 0 0 } (if (getReset s t).kind = 2 then beginTraining t c s3 else s3)

/-- RESET_REPORT_TIMEOUT (R59). -/
def execResetReportTimeout (t : TileN) (c : ChanN) (s : State) : Res := run (reportTimeout t c) s

/-- TileStackState (Table 2.10): 2 when a channel is disabled, 1 when every channel is ready. -/
def setStackState (t : Nat) (s : State) : State :=
  if (List.range 48).any (fun c => chState s t c = 4) then setObj t Obj.tileStackState 2 s
  else if (List.range 48).all (fun c => chState s t c = 2) then setObj t Obj.tileStackState 1 s
  else s

/-- R346: a tile deep reset repeats the check of the tile's address for that tile alone. -/
def checkAddress (t : Nat) (s : State) : State :=
  if Config.strapAgrees t then setObj dev Obj.unitsPresent (setBit (getObj s dev Obj.unitsPresent) t) s
  else addLog dev 0x0A 2 stOk t 0 (setObj dev Obj.unitsPresent (clearBit (getObj s dev Obj.unitsPresent) t) s)

/-- TILE_RESET_END (R383): a shallow reset lasts 30 µs; a deep one also until the tile's channels have
been retrained and checked. -/
def tileResetEnd (t : Nat) (s : State) : State :=
  let x := getReset s t
  let quiet := (List.range 48).all (fun c => (getTrain s t c).quiet.isNone)
  let trained := (List.range 48).all (fun c => decide (chState s t c = 2 ∨ chState s t c = 4))
  if x.kind = 0 ∨ s.time.elapsed < x.start + 30000 ∨ ¬ quiet ∨ (x.kind = 2 ∧ ¬ trained) then s
  else
    let s1 := setObj t Obj.resetInProgress 0 { s with treset := fset {} s.treset t {} }
    let s2 := sourceAway t false (resetEnds t s1)
    let s3 := if x.kind = 2 then checkAddress t (setStackState t s2) else s2
    mapWake t (startMigrations 64 t s3)

/-- TILE_RESET_END. -/
def execTileResetEnd (t : TileN) (s : State) : Res := run (tileResetEnd t) s

/-! ## Engine, port and management unit resets (codes 6 to 8) -/

/-- A larger reset runs at the tile. -/
def largerRuns (s : State) (t : Nat) : Bool := decide (getObj s dev Obj.bringupPhase ≠ 0) || inReset s t

/-- The partition holds the tile and no other partition from 1 to 255 names it. -/
def holdsAlone (s : State) (p t : Nat) : Bool :=
  inPartition s p t && (List.range 255).all (fun i => decide (i + 1 = p) || !inPartition s (i + 1) t)

/-- The partition reset that runs resets the engines of the tile (R384). -/
def partitionCovers (s : State) (t : Nat) : Bool :=
  match s.resets.partition with
  | some (p, _) => holdsAlone s p t
  | none => false

/-- A write of EngineReset (R233). -/
def writeEngineReset (t v : Nat) (s : State) : State :=
  if v ≥ 64 then answer stBadFormat s
  else if v = 0 then answer stOk s
  else if largerRuns s t ∨ partitionCovers s t then answer stOk (resetAbsorbed t 6 s)
  else answer stOk (resetEnds t (resetReaches t 6 ((onesOf 6 v).foldl (fun s e => resetEngine t e s) s)))

/-- ENGINE_RESET. -/
def execEngineReset (t : TileN) (v : BitVec 8) (s : State) : Res := run (writeEngineReset t.val v.toNat) s

/-- The requests of host port `p` of tile `t` on their way, and those accepted at an owner: their
responses are discarded at the port; those that wait in its ingress FIFOs go. -/
def dropPort (t p : Nat) (s : State) : State :=
  let mine := fun (u : Nat) (r : Req) =>
    (decide (u = t) && decide (r.requester = p)) || (viaGateway r && decide (r.source = t) && decide (r.orig = p))
  let s1 := discardWaiting t (fun r => decide (r.requester = p)) s
  let s2 := forTiles (fun u s => modSched u (fun x => { x with
    reqs := x.reqs.map (fun r => if mine u r then { r with dropped := true } else r) }) s) s1
  { s2 with
    farReqs := s2.farReqs.map (fun x => if x.origin = t ∧ x.orig = p then { x with dropped := true } else x)
    farResps := s2.farResps.map (fun x => if x.dst = t ∧ x.req.orig = p then { x with req := { x.req with dropped := true } } else x)
    resp := fset [] s2.resp (t * 4 + p) [] }

/-- R383 code 7: one host port; its generation takes effect (R407). A write whose header was complete receives RETRY
(R149), which is no response to an accepted request. -/
def resetPort (t p : Nat) (s : State) : State :=
  let s2 := clearAssembly t (fun k => if k / 2 = p then sideOf k else none) (dropPort t p s)
  setObj t (Obj.portState + p) 1
    { s2 with portGen := fset 3 s2.portGen (t * 4 + p) (getObj s2 t (Obj.portGeneration + p)) }

/-- A write of PortReset. -/
def writePortReset (t v : Nat) (s : State) : State :=
  if v ≥ 16 then answer stBadFormat s
  else if v = 0 then answer stOk s
  else if largerRuns s t then answer stOk (resetAbsorbed t 7 s)
  else answer stOk (resetEnds t (resetReaches t 7 ((onesOf 4 v).foldl (fun s p => resetPort t p s) s)))

/-- PORT_RESET. -/
def execPortReset (t : TileN) (v : BitVec 8) (s : State) : Res := run (writePortReset t.val v.toNat) s

/-- A write of ManagementReset. -/
def writeManagementReset (v : Nat) (s : State) : State :=
  if v > 1 then answer stBadFormat s
  else if v = 0 then answer stOk s
  else if getObj s dev Obj.bringupPhase ≠ 0 then answer stOk (forTiles (fun t s => resetAbsorbed t 8 s) s)
  else answer stOk (restartManagement (resetManagement s))

/-- MANAGEMENT_RESET. -/
def execManagementReset (v : BitVec 8) (s : State) : Res := run (writeManagementReset v.toNat) s

/-! ## The partition reset (code 3, R384) -/

/-- R384: a request carries, or counts in a regulator of, partition `p`. -/
def countsIn (s : State) (t p : Nat) (r : Req) : Bool :=
  decide (r.part = p) || (match r.counted with
    | some i => decide (i < 16 ∧ rrPart (rangeReg s t i) = p)
    | none => false)

/-- The passes of partition `p` at a tile are FREE, lapsed ones too (R115). -/
def freePartition (t p : Nat) (s : State) : State :=
  let l := s.passes.filter (fun e => decide (e.1 / 256 = t ∧ e.2.state ≠ 0 ∧ cPartition e.2.terms = p))
  takeAllBounds (l.foldl (fun s e => freePass t (e.1 % 256) s) s)

/-- What a partition reset does in one tile. The block map's own work goes on (DEDUCED from R384: "Copies already
issued complete", and no entry is left half copied). -/
def partitionTile (p t : Nat) (s : State) : State :=
  let mine := fun (r : Req) => decide (r.part = p ∧ r.orig ≠ 0x60)
  let ids := ((getSched s t).reqs.filter mine).map (fun r => r.id)
  let own := fun (a : Acc) => decide (a.stage = 0) && a.reqs.any (fun i => ids.contains i)
  let s1 := discardMerges t (fun m => decide (m.part = p)) (forChans (fun c s => discardQueue t c own s) s)
  let s2 := freePartition t p (discardWaiting t mine s1)
  let s3 := uncount t (countsIn s2 t p) s2
  let s4 := failHeld t (fun r => decide ((getEntry s3 t r.entry).part = p)) stRetry 30000 s3
  resetReaches t 3 (if holdsAlone s p t then sequencerSideReset t ((List.range 6).foldl (fun s e => resetEngine t e s) s4) else s4)

/-- A write of PartitionReset (R384, R393). -/
def writePartitionReset (p : Nat) (s : State) : State :=
  if p = 0 ∨ p > 255 then answer stBadFormat s
  else if s.resets.partition.isSome then answer stRetry s
  else if getObj s dev Obj.bringupPhase ≠ 0 then answer stOk (forTiles (fun t s => resetAbsorbed t 3 s) s)
  else
    let s1 := forTiles (fun t s => if inReset s t then resetAbsorbed t 3 s else partitionTile p t s) s
    answer stOk (setObj dev Obj.partitionResetState p
      { s1 with resets := { s1.resets with partition := some (p, s.time.elapsed) } })

/-- PARTITION_RESET. -/
def execPartitionReset (v : BitVec 8) (s : State) : Res := run (writePartitionReset v.toNat) s

/-- PARTITION_RESET_END (R384): 30 µs after the write. -/
def partitionResetEnd (s : State) : State :=
  match s.resets.partition with
  | none => s
  | some (_, start) =>
    if s.time.elapsed < start + 30000 then s
    else
      forTiles resetEnds (setObj dev Obj.partitionResetState 0
        { s with resets := { s.resets with partition := none } })

/-- PARTITION_RESET_END. -/
def execPartitionResetEnd (s : State) : Res := run partitionResetEnd s

end Sys2Proof.Machine
end

