-- ==== Sys2Proof/Machine/Bringup.lean ====
section
/-! DEFINITION. Bring-up (R377 to R382), the device warm reset and power-on (R383 codes 1 and 2), and the
supply's exit and reset crossings (R318, R319). -/

namespace Sys2Proof.Machine

open Sys2Proof

/-! ## Channels: training, link check, initialisation (R378 to R381) -/

/-- R393: a trip or Hold pauses the channel's phases. -/
def channelPaused (s : State) (t : Nat) : Bool := tripped s || inHold s t

/-- Write the channel's baseline (R390, record kind 0x04). -/
def writeBaseline (t c b : Nat) (s : State) : State :=
  pushRecord 0x04 (chanRecord t c) 24 b (setObj t (Obj.calTrims + c) b s)

/-- The trims a lane replacement retrains: those of its data group, or those of the command bonds (R380,
Table 2.6). -/
def groupTrims (g : Nat) : List Nat := if g < 4 then [g, 5 + g] else [4, 9]

/-- The group a lane belongs to (R44, Table 2.6). -/
def laneGroup (lane : Nat) : Nat :=
  if lane < 128 then lane / 32 else if lane < 144 then (lane - 128) / 4 else 4

/-- R44: the lowest unused spare takes a lane; none if all eight are taken. -/
def steerTo (v lane : Nat) : Option Nat :=
  match (List.range 8).find? (fun k => bits v (8 * k) 8 = 255) with
  | some k => some (v - fld (8 * k) 8 255 + fld (8 * k) 8 lane)
  | none => none

/-- Replace a lane by a spare and record LaneSteer; none where a ninth would be needed. -/
def replaceLane (t c lane : Nat) (s : State) : Option State :=
  (steerTo (getObj s t (Obj.laneSteer + c)) lane).map (fun v =>
    recordObj t (Obj.laneSteer + c) v (setObj t (Obj.laneSteer + c) v
      (addLog t 0x0C 2 stOk (fld 0 6 c + fld 8 8 lane) 0 s)))

/-- The trims a training leaves: the measured ones, or those of one group beside the ones in use. -/
def trainedTrims (s : State) (t c : Nat) (group : Option Nat) (trims : List Nat) : List Nat :=
  let m := (List.range 11).map (fun i => trims.getD i 0 % (if i = 10 then 32 else 64))
  match group with
  | none => m
  | some g =>
    let use := trimsInUse s t c
    (List.range 11).map (fun i => if (groupTrims g).contains i then m.getD i 0 else use.getD i 0)

/-- Training ends with trims: the baseline is written with prbs_ok 0 and the link check begins. -/
def trained (t c : Nat) (trims : List Nat) (s : State) : State :=
  let x := getTrain s t c
  let v := trainedTrims s t c x.group trims
  let s1 := writeBaseline t c (trimSet s t v false false) (applyTrims t c v s)
  let s2 := modCal t c (fun _ => { lastAt := s.time.elapsed, lastTemp := getInt s t Obj.columnDramMax }) s1
  let s3 := setObj t (Obj.trainingTime + c) ((s.time.elapsed - x.started) / 1000) (setObj t (Obj.prbsBits + c) 0 s2)
  modTrain t c (fun x => { x with step := 2, group := none, errLane := none, started := s.time.elapsed }) s3

/-- CHANNEL_TRAINING_DONE (R377, R45, R383): a channel in phase 4, in retraining after a lane replacement,
or in link fault; a channel whose training fails is disabled (R60). -/
def trainingDone (t c : Nat) (ok : Bool) (trims : List Nat) (s : State) : State :=
  let x := getTrain s t c
  let fault := decide (chState s t c = 3)
  if chState s t c = 4 ∨ ¬ (x.step = 1 ∨ fault) ∨ channelPaused s t ∨ x.quiet.isSome then s
  else if ¬ ok then disableChannel t c (modTrain t c (fun _ => {}) s)
  else
    let s1 := if fault then beginTraining t c s else s
    match x.errLane with
    | none => trained t c trims s1
    | some lane =>
      match replaceLane t c lane s1 with
      | some s2 => trained t c trims s2
      | none => disableChannel t c (modTrain t c (fun _ => {}) s1)

def execChannelTrainingDone (t : TileN) (c : ChanN) (ok : Bool) (trims : List Nat) (s : State) : Res :=
  run (trainingDone t.val c.val ok trims) s

/-- R45: a channel is ready: its banks are precharged and its queues are served again. -/
def channelReady (t c : Nat) (s : State) : State :=
  let s1 := setBanks t c .closed (setObj t (Obj.channelState + c) 2 s)
  setStackState t (linkCause t (modTrain t c (fun _ => { step := 4 }) s1))

/-- Bits of the link check of the channel's path (R379). -/
def checkBits (s : State) (t c : Nat) : Nat :=
  if getObj s t (Obj.channelBringupPath + c) = 1 then 100000000000 else 3000000000000

/-- LINK_CHECK_DONE (R379): the check passes; the baseline is written again with prbs_ok 1, and a suspect
state clears (R393). -/
def linkCheckDone (t c : Nat) (s : State) : State :=
  if chState s t c = 4 ∨ (getTrain s t c).step ≠ 2 ∨ channelPaused s t then s
  else
    let b := trimSet s t (trimsInUse s t c) false true
    let s1 := setObj t (Obj.prbsBits + c) (checkBits s t c) (writeBaseline t c b s)
    let s2 := setObj t (Obj.calState + c) 0
      (setObj t Obj.calSuspectChannels (clearBit (getObj s1 t Obj.calSuspectChannels) c) s1)
    if getObj s dev Obj.bringupPhase ≠ 0 ∧ s.resets.init then modTrain t c (fun x => { x with step := 3 }) s2
    else channelReady t c s2

def execLinkCheckDone (t : TileN) (c : ChanN) (s : State) : Res := run (linkCheckDone t c) s

/-- LANE_ERROR (R380): one error on a lane in the link check. -/
def laneError (t c lane : Nat) (s : State) : State :=
  if chState s t c = 4 ∨ (getTrain s t c).step ≠ 2 ∨ channelPaused s t then s
  else
    let s1 := bump t (Obj.prbsErrors + c) 1 s
    match replaceLane t c lane s1 with
    | none => disableChannel t c (modTrain t c (fun _ => {}) s1)
    | some s2 =>
      bumpSat t (Obj.prbsRestarts + c) 1 (setObj t (Obj.prbsBits + c) 0
        (modTrain t c (fun x => { x with step := 1, group := some (laneGroup lane), started := s.time.elapsed }) s2))

def execLaneError (t : TileN) (c : ChanN) (lane : Fin 170) (s : State) : Res := run (laneError t c lane.val) s

/-- R381: every row number through the remap table and every free spare reads as the fill pattern; bad
spares are not written. -/
def fillChannel (t c : Nat) (s : State) : State :=
  let bad := (List.range 256).filter (fun i => (getRemap s t c (i / 16)).spares.getD (i % 16) 0 = 2)
  let rows := sumOf ((List.range 16).map (fun b =>
    8192 + ((getRemap s t c b).spares.filter (fun x => x = 0)).length))
  let s1 := modLayer t c (fun l => { l with base := goodWord (getObj s t Obj.fillPattern) })
    { s with dram := fkeep (fun k => decide (k / 256 / 8208 / 16 ≠ chKey t c)) s.dram }
  let s2 := bad.foldl (fun x i =>
    setRawWords t c (i / 16) (8192 + i % 16) 0 (rawWords s t c (i / 16) (8192 + i % 16) 0 256) x) s1
  if slp2 s then s2 else bump t (Obj.rowFills + c) rows s2

/-- STACK_INITIALISATION_DONE (R381). -/
def stackInitDone (t c : Nat) (s : State) : State :=
  if chState s t c = 4 ∨ (getTrain s t c).step ≠ 3 ∨ channelPaused s t then s
  else channelReady t c (fillChannel t c s)

def execStackInitialisationDone (t : TileN) (c : ChanN) (s : State) : Res := run (stackInitDone t c) s

/-! ## The phases (Table 15.1) -/

/-- Factory records of a tile applied (R370, R391, R308, R33). -/
def applyFactory (t : Nat) (s : State) : State :=
  let s1 := (List.range 30).foldl (fun s i => match Config.sensorOffset t i with
    | some v => setObj t (Obj.sensorOffset + i) (ofSigned 32 v) s
    | none => s) s
  let valid := refsValid t 0 36
  let test := Config.speedCeilingTest t
  let s2 := setObj t Obj.pacerReferenceValid (b2n valid) (setObj t Obj.voltageCeiling (Config.voltageCeiling t)
    (setObj t Obj.speedCeilingTest test s1))
  let cur := (copyValue s2 0x05 (t * 1024)).getD test
  setObj t Obj.speedCeiling cur (setObj t Obj.ageingLoss (test - cur) s2)

/-- R370: every tile has every factory kind. -/
def factoryValid : Bool :=
  (List.range 64).all (fun t => refsValid t 0 36 && Config.factoryRest t && (List.range 30).all (fun i => (Config.sensorOffset t i).isSome))

/-- What StackInterface, PortGeneration and the pool objects say comes into force (R60, R407, R258), and
R417's limit on GuaranteeFloor under SLP-2. -/
def takeEffect (s : State) : State :=
  let s1 := { s with resets := { s.resets with slp2 := decide (getObj s dev Obj.stackInterface = 2) } }
  forTiles (fun t s =>
    let s2 := (List.range 4).foldl (fun s p =>
      { s with portGen := fset 3 s.portGen (t * 4 + p) (getObj s t (Obj.portGeneration + p)) }) s
    let s3 := if slp2 s2 ∧ getObj s2 t Obj.guaranteeFloor > 750 then
        addLog t 0x0C 0 stOk 750 0 (setObj t Obj.guaranteeFloor 750 s2)
      else s2
    rebuildPool t s3) s1

/-- Phase 1, boot: the Copybook scan, enumeration, factory records. -/
def bootPhase (s : State) : State :=
  let s1 := scanCopybook s.resets.warm s
  let s2 := setObj dev Obj.factoryRecordsValid (b2n factoryValid) (forTiles checkAddress s1)
  takeEffect (forTiles applyFactory s2)

/-- Phase 2, firmware: the flash image at power-on; at a warm reset the management unit restarts. -/
def firmwarePhase (s : State) : State := if s.resets.warm then restartManagement s else bootFlash s

/-- Phase 3, layer wake: identities copied, fill registers loaded, disabled channels set aside. -/
def layerWake (s : State) : State :=
  let s1 := (List.range 24).foldl (fun s l => setObj dev (Obj.layerIdentityCopy + l) (layerIdentity 0 (2 * l)) s) s
  forTiles (fun t s =>
    let p := getObj s t Obj.fillPattern
    forChans (fun c s =>
      let s2 := modLayer t c (fun l => { l with fillData := p, fillCheck := eccEncode p, fillPending := false }) s
      if flag s2 t (Obj.channelDisable + c) then setObj t (Obj.channelState + c) 4 s2 else beginTraining t c s2) s) s1

/-- Every channel that is not disabled is at a training step of at least `n`. -/
def allAt (s : State) (n : Nat) : Bool :=
  (List.range 64).all (fun t => (List.range 48).all (fun c =>
    decide (chState s t c = 4) || decide (n ≤ (getTrain s t c).step)
      || (decide (n = 2) && (getTrain s t c).group.isSome)))

/-- Phase 7 ends: the device is up (R382). -/
def bringupDone (s : State) : State :=
  let warm := (List.range 64).all (fun t => (List.range 48).all (fun c =>
    decide (chState s t c = 4) || decide (getObj s t (Obj.channelBringupPath + c) = 1)))
  let s1 := setObj dev Obj.bringupPath (b2n warm)
    (setObj dev Obj.bringupTime (s.time.elapsed - s.resets.bringupStart) (setObj dev Obj.bringupPhase 0 s))
  let s2 := forTiles (fun t s =>
    setStackState t (resetEnds t ((List.range 4).foldl (fun s p => setObj t (Obj.portState + p) 1 s) s))) s1
  let edges := s2.count.pinEdges
  let s3 := { s2 with count := { s2.count with pinEdges := [] }, resets := { s2.resets with init := false } }
  let s3 := if (List.range 64).all (underTest s3) then s3
    else setObj dev Obj.stackTestState 0 { s3 with test := { s3.test with stack1838 := 0 } }
  wakeAll (forTiles (startMigrations 64) (edges.foldl (fun s e => snapEdge e s) s3))

/-- The phase ends and the next begins. -/
def nextPhase (ph next : Nat) (s : State) : State :=
  { setObj dev Obj.bringupPhase next
      (setObj dev (Obj.bringupPhaseTime + (ph - 1)) ((s.time.elapsed - s.resets.phaseStart) / 1000) s) with
    resets := { s.resets with phaseStart := s.time.elapsed } }

/-- BRINGUP_PHASE_END (R377): phases end in order; 4 to 6 when the last channel has passed them. A stack
whose generation differs from StackInterface stops bring-up with BAD_FORMAT (R60). -/
def phaseEnd (s : State) : State :=
  let ph := getObj s dev Obj.bringupPhase
  if (List.range 64).any (inHold s) ∨ (tripped s ∧ 4 ≤ ph ∧ ph ≤ 6) then s
  else match ph with
    | 1 => bootPhase (nextPhase 1 2 s)
    | 2 => firmwarePhase (nextPhase 2 3 s)
    | 3 =>
      if Config.layerGeneration = (if slp2 s then 2 else 3) then layerWake (nextPhase 3 4 s)
      else answer stBadFormat s
    | 4 => if allAt s 2 then nextPhase 4 5 s else s
    | 5 => if allAt s 3 then nextPhase 5 (if s.resets.init then 6 else 7) s else s
    | 6 => if allAt s 4 then nextPhase 6 7 s else s
    | 7 => bringupDone (nextPhase 7 0 s)
    | _ => s

def execBringupPhaseEnd (s : State) : Res := run phaseEnd s

/-! ## Power-on (code 1) -/

/-- Power-on: everything clears but the flash. What the outside world holds at the pins stays; a firmware
write that was under way left no header. -/
def powerOn (s : State) : State :=
  { (State.reset) with
    pending := s.pending
    copy := { areaA := s.copy.areaA, areaB := s.copy.areaB }
    firm := { flashHeader := s.firm.flashHeader, flashImage := s.firm.flashImage }
    count := { pin := s.count.pin }
    field := { rollIn := s.field.rollIn }
    out := s.out
    free := s.free }

/-- POWER_ON_RESET (R377, R383). -/
def execPowerOnReset (s : State) : Res := runTime powerOn s

/-! ## Device warm reset (code 2) -/

/-- The objects a device warm reset keeps: those that show what the reset keeps (R303, R283, R323, R345,
R365, R374, R405), and the record of resets. The others return to their defaults (R326). -/
def keptAtWarm (k : Nat) : Bool :=
  let i := k / 256
  let ro := match keyDef k with | some d => d.acc == .ro | none => false
  ro && (decide (0x6000 ≤ i ∧ i < 0x7800) || [0x1008, 0x1100, 0x1140, 0x1141, 0x7850, 0x7856, 0x7857, 0x7858, 0x7860,
      0x8050, 0x8052, 0x8057, 0x8060, 0x8062, 0x8067, 0x9812, 0x9827, 0x9828, 0x982A,
      0xA015, 0xA016, 0xA017, 0xA101, 0xA102, 0xA106, 0xA107].contains i
    || decide (0xA200 ≤ i ∧ i ≤ 0xA209) || decide (k = Obj.referenceState))

/-- A Recess window cut by the reset gives its REFs to the next one. -/
def cutRecess (x : RecessS) : RecessS :=
  if x.openAt.isSome then { x with openAt := none, phase := 0, carried := x.carried + x.refsLeft, refsLeft := 0, cal := false }
  else x

/-- The layer side of a channel keeps its rows, trims and registers; transfers under way are over. -/
def cutTransfers (l : LayerS) : LayerS := { l with down := [], up := [], reads := [], last := none, failed := [], awaits := none }

/-- Steps return to 16, fractions to 1, hints are discarded (R323); Hold stands. -/
def warmPower (x : PowerTile) : PowerTile :=
  { x with target := none, settling := none, stepsInWindow := 0, capA := 1000, capL := 1000, capM := 1000
           hints := [], deferredReset := false, ageing := 0 }

/-- CounterFixed reads 0 in every tile (R405). -/
def zeroFixed (s : State) : FMap Nat :=
  (List.range 64).foldl (fun m t => fset 0 m t ((2 ^ 64 - s.time.elapsed / 10 % 2 ^ 64) % 2 ^ 64)) []

/-- What a warm reset leaves of a tile's accesses: those issued to the layers receive RETRY too, since the transfers
that would end them are over (DESIGN CHOICE: the spec says of a tile reset alone that they complete), and
retirements that waited for a copy take place (R59). -/
def cutAccesses (t : Nat) (s : State) : State :=
  let s0 := modSched t (fun x => { x with mapPass := {}, mapBest := {} }) s
  let s1 := forChans (fun c s => discardQueue t c (fun _ => true) s) s0
  (getProt s1 t).retiring.foldl (fun s e => retirePending t e.1 e.2.1 s) s1

/-- The warm reset: every tile as tile deep, every mailbox side of firmware reset, and the objects; then
bring-up from phase 1. -/
def warmReset (s : State) : State :=
  let s1 := managementSideReset (forTiles (fun t s => cutAccesses t (clearTile t s)) s)
  let s2 := forTiles (fun t s => setObj t Obj.resetCause 2 (bump t (Obj.resetCounts + 1) 1 s)) s1
  let s3 := (List.range 64).foldl (fun s t =>
    if stepOf s t = 16 then s else vidSend t (vidWord t 1 16) s) s2
  let ini := s.resets.init
  addLog dev 0x0C 3 stOk 2 0 { s3 with
    dict := s3.dict.filter (fun e => keptAtWarm (e.1 % 2 ^ 24)), speed := []
    layer := fmapVal {} cutTransfers s3.layer
    bank := [], bounce := [], replies := [], overFrom := [], withheld := [], tt := [], sampleClear := [], entry := [], pool := [], way := [], map := []
    sramErr := fkeep (fun k => decide (k / 2 ^ 24 % 8 ≠ sramMap)) s3.sramErr, queries := [], answers := [], mark := [], cal := [], train := [], treset := []
    recess := fmapVal {} cutRecess s3.recess
    ptile := fmapVal {} warmPower s3.ptile
    power := { windowEnergy := s3.power.windowEnergy, carry := s3.power.carry, slices := s3.power.slices,
               partSeen := s3.power.partSeen, fit := s3.power.fit }
    field := { s3.field with grants := [], nonces := [], trans := [], mgmtUntil := 0 }
    firm := { s3.firm with scheduled := none, nextPiece := 0, pieces := [] }
    count := { pin := s3.count.pin, fixedOff := zeroFixed s3, logs := s3.count.logs, intake := s3.count.intake,
               pinEdges := s3.count.pinEdges, actions := s3.count.actions }
    test := {}
    resets := { warm := true, init := ini, phaseStart := s3.time.elapsed, bringupStart := s3.time.elapsed } }

/-- A write of DeviceWarmReset, or mgt_wrst_n. -/
def writeWarmReset (v : Nat) (s : State) : State :=
  if v > 1 then answer stBadFormat s
  else if v = 0 then answer stOk s
  else answer stOk (warmReset s)

/-- DEVICE_WARM_RESET (R383). -/
def execDeviceWarmReset (v : BitVec 8) (s : State) : Res := run (writeWarmReset v.toNat) s

/-! ## Supply (R318, R319) -/

/-- HOLD_EXIT: a deferred shallow reset is taken once the tile's own rail is clear, and Hold ends once
every rail that applies is. -/
def holdExit (t : Nat) (s : State) : State :=
  if ¬ inHold s t then s
  else
    let s1 := if (getPTile s t).deferredReset ∧ railClear s t then
        tileReset t 1 (modPTile t (fun p => { p with deferredReset := false }) s)
      else s
    if (railsOf t).all (railClear s1) ∧ ¬ (getPTile s1 t).deferredReset then
      switchApply t (mapWake t (leaveHold t s1))
    else s1

/-- HOLD_EXIT (R319). -/
def execHoldExit (t : TileN) (s : State) : Res := run (holdExit t.val) s

/-- SUPPLY_RESET_CROSSING (R318): VCORE of a tile defers a shallow reset; VAON and VSTK reset the device. -/
def resetCrossing (r mv : Nat) (s : State) : State :=
  if ¬ belowLevel s r mv 880 then s
  else if r ≥ 64 then powerOn s
  else
    let s1 := modRail r (fun x => { x with lowAt := some s.time.elapsed }) s
    let s2 := modPTile r (fun p => { p with deferredReset := true }) (enterHold r r mv s1)
    let e := supplyEvent s2 2 r mv
    budget 8 (addLog r 0x08 2 stOk e 0 (setObj dev Obj.lastSupplyEvent e (bump dev Obj.supplyResets 1 s2)))

/-- SUPPLY_RESET_CROSSING. -/
def execSupplyResetCrossing (rail : RailN) (mv : Nat) (s : State) : Res :=
  if rail.val < 64 then run (resetCrossing rail.val mv) s else runTime (resetCrossing rail.val mv) s

end Sys2Proof.Machine
end

