-- ==== Sys2Proof/Machine/Ports.lean ====
section
/-! DEFINITION. Port generations and adapter clocks (R407, R414), and test access (R422 to R424). -/

namespace Sys2Proof.Machine

open Sys2Proof

/-! ## Ports -/

/-- R407: a live pass of any tile names the port as its requester. -/
def portNamed (s : State) (t p : Nat) : Bool :=
  s.passes.any (fun e => passLive e.2 && decide (cSource e.2.terms = t ∧ cRequester e.2.terms = p))

/-- A write of PortGeneration: in force from the next port reset or device warm reset (R407). -/
def writePortGeneration (t p v : Nat) (s : State) : State :=
  if v = 0 ∨ v > 3 then answer stBadFormat s
  else if portNamed s t p then answer stRetry s
  else storeRws t (Obj.portGeneration + p) v s

/-- PORT_GENERATION_WRITE. -/
def execPortGenerationWrite (t : TileN) (p : PortN) (v : BitVec 8) (s : State) : Res :=
  run (writePortGeneration t.val p.val v.toNat) s

/-- R412: the configuration port follows host port 0 while that port is clocked. -/
def configGeneration (s : State) (t : Nat) : Nat := portGeneration s t 0

/-- ADAPTER_CLOCK_LOST (R414): a clocked port that was ready. -/
def clockLost (t p : Nat) (s : State) : State :=
  if portGeneration s t p = 3 ∨ getObj s t (Obj.portState + p) ≠ 1 then s
  else bump t (Obj.clockStops + p) 1 (setObj t (Obj.portState + p) 2 s)

def execAdapterClockLost (t : TileN) (p : PortN) (s : State) : Res := run (clockLost t.val p.val) s

/-- ADAPTER_CLOCK_RETURN (R414). -/
def clockReturn (t p : Nat) (s : State) : State :=
  if getObj s t (Obj.portState + p) = 2 then setObj t (Obj.portState + p) 1 s else s

def execAdapterClockReturn (t : TileN) (p : PortN) (s : State) : Res := run (clockReturn t.val p.val) s

/-! ## Output pins (R357, R412, R418, R421) -/

/-- trp_irq of a tile: high while a host doorbell bit with its mask bit is set. -/
def trpIrq (s : State) (t : Nat) : Bool := doorIrq s t 0

/-- ref_hold: high while ReferenceState is not locked. -/
def refHold (s : State) : Bool := decide (refState s ≠ 0)

/-- mgt_trip_n is low while TripState is 1. -/
def tripPinLow (s : State) : Bool := decide (getObj s dev Obj.tripState = 1)

/-- mgt_can_stb: high until bring-up phase 1 ends. -/
def canStandby (s : State) : Bool := decide (getObj s dev Obj.bringupPhase = 1)

/-! ## Wrapper instructions (Table 17.7) -/

/-- An instruction other than WS_BYPASS and PACER puts the tile under test (R424). -/
def isTest (code : Nat) : Bool := decide (1 ≤ code ∧ code ≤ 6 ∧ code ≠ 4)

/-- The layers hold BYPASS again (R424). -/
def bypassStack (s : State) : State :=
  setObj dev Obj.stackTestState 0 { s with test := { s.test with stack1838 := 0 } }

/-- R422, R424: a wrapper takes an instruction: entering test is a tile shallow reset, leaving it a tile
deep reset. -/
def setWir (t code : Nat) (s : State) : State :=
  let was := isTest (fget 0 s.test.wir t)
  let s1 := { s with test := { s.test with wir := fset 0 s.test.wir t code } }
  let v := getObj s1 dev Obj.testAccessState
  if isTest code ∧ ¬ was then tileReset t 1 (setObj dev Obj.testAccessState (setBit v t) s1)
  else if ¬ isTest code ∧ was then
    tileReset t 2 (setObj dev Obj.testAccessState (clearBit v t)
      (if getObj s1 dev Obj.bringupPhase = 0 then bypassStack s1 else s1))
  else s1

/-- WS_BYPASS. -/
def execWsBypass (t : TileN) (s : State) : Res := run (setWir t.val 0) s

/-- WS_EXTEST: the boundary cells drive and capture the tile's ports. -/
def execWsExtest (t : TileN) (s : State) : Res :=
  run (fun s =>
    let s1 := setWir t.val 1 s
    { s1 with test := { s1.test with captures := fset 0 s1.test.captures t.val (fget 0 s1.test.captures t.val + 1) } }) s

/-- WS_INTEST: each update releases one handshake token per stage. -/
def execWsIntest (t : TileN) (s : State) : Res :=
  run (fun s =>
    let s1 := setWir t.val 2 s
    { s1 with test := { s1.test with tokens := fset 0 s1.test.tokens t.val (fget 0 s1.test.tokens t.val + 1) } }) s

/-- The `n` keys from `lo` take the values `f`; the others are kept. -/
def overwrite {α : Type} [DecidableEq α] (d : α) (lo n : Nat) (f : Nat → α) (m : FMap α) : FMap α :=
  let new := ((List.range n).map (fun i => (lo + i, f i))).filter (fun e => decide (e.2 ≠ d))
  m.filter (fun e => decide (e.1 < lo)) ++ new ++ m.filter (fun e => decide (lo + n ≤ e.1))

/-- An entry, a pool descriptor and a directory way as free bits leave them. -/
def freeEntryBits (n : Nat) : Entry :=
  { state := bits n 0 3 % 6, write := bit n 3, accessed := bit n 4, dirty := bit n 5, tile := bits n 6 6
    part := bits n 12 8, block := bits n 20 16, home := bits n 36 64, wasPinned := bit n 100, wasFar := bit n 101 }
def freePoolBits (n : Nat) : PoolD :=
  { refs := bits n 0 16, pstate := bits n 16 2, published := bit n 18, dirindex := bits n 19 14, forward := bit n 33
    next := bits n 34 16, part := bits n 50 8 }
def freeWayBits (n : Nat) : Way :=
  { valid := bit n 0, key := bits n 1 64, lastHit := bits n 65 32, hits := bits n 97 32, part := bits n 129 8
    block := bits n 137 16 }

/-- MBIST (R422): a March test of the Slate, Inkwell and block map SRAM. The spec does not say what it
leaves there: every byte, accumulator, entry, descriptor and way, and the fit of each word with its check bits, is a
free value. -/
def marchTest (t : Nat) (s : State) : State :=
  let (r, s1) := draw s
  let v := Config.marchResidue r
  let fit := fun (kind n from_ : Nat) (m : FMap Nat) => overwrite 0 (sramKey t kind 0) n (fun i => v (from_ + i) % 2 ^ 72) m
  { s1 with
    sramErr := fit sramSlate (2 ^ 20) (2 ^ 28) (fit sramInkwell (2 ^ 17) (2 ^ 29) (fit sramMap (2 ^ 18) (2 ^ 30) s1.sramErr))
    slate := overwrite 0 (t * 2 ^ 23) (2 ^ 23) (fun i => v i % 256) s1.slate
    slatePois := overwrite false (t * 2 ^ 20) (2 ^ 20) (fun i => decide (v (2 ^ 23 + i) % 2 = 1)) s1.slatePois
    inkwell := overwrite 0 (t * 4 * 512 * 128) (4 * 512 * 128) (fun i => v (2 ^ 24 + i) % 2 ^ 32) s1.inkwell
    entry := overwrite {} (t * 65536) 65536 (fun i => freeEntryBits (v (2 ^ 25 + i))) s1.entry
    pool := overwrite {} (t * 65536) 65536 (fun i => freePoolBits (v (2 ^ 26 + i))) s1.pool
    way := overwrite {} (t * 16384) 16384 (fun i => freeWayBits (v (2 ^ 27 + i))) s1.way
    test := { s1.test with marches := fset 0 s1.test.marches t (fget 0 s1.test.marches t + 1) } }

def execMbist (t : TileN) (s : State) : Res := run (fun s => marchTest t.val (setWir t.val 3 s)) s

/-- PACER: the ring counts of one measurement window are read (R31); the tile runs normally. -/
def execPacer (t : TileN) (counts : List Nat) (s : State) : Res :=
  run (fun s =>
    let s1 := setWir t.val 4 s
    answerData (counts.flatMap (leBytes 4))
      { s1 with test := { s1.test with rings := fset [] s1.test.rings t.val counts } }) s

/-- LANEPRBS: the link check of R379 runs on the chosen channels. -/
def execLaneprbs (t : TileN) (mask : BitVec 48) (s : State) : Res :=
  run (fun s => (onesOf 48 mask.toNat).foldl (fun s c =>
    if chState s t.val c = 4 then s
    else setObj t.val (Obj.prbsBits + c) 0 (setObj t.val (Obj.prbsRestarts + c) 0 (setObj t.val (Obj.channelState + c) 1
      (modTrain t.val c (fun x => { x with step := 2, started := s.time.elapsed, group := none }) s))))
    (setWir t.val 5 s)) s

/-- TRIM: direct read and write of a trim of Table 2.6, in the order of `trimsInUse`. -/
def trimAccess (t c i : Nat) (write : Bool) (v : Nat) (s : State) : State :=
  let use := trimsInUse s t c
  if write then answer stOk (applyTrims t c (setNth use i (v % (if i = 10 then 32 else 64))) s)
  else answerData [use.getD i 0] s

def execTrim (t : TileN) (c : ChanN) (i : Fin 11) (write : Bool) (v : BitVec 8) (s : State) : Res :=
  run (fun s => trimAccess t.val c.val i.val write v.toNat (setWir t.val 6 s)) s

/-! ## The stack's test chain (R423, R424) -/

/-- The code of BYPASS on the 1838 chain, all ones (PRESUMED: the spec names it and gives no code). -/
abbrev bypass1838 : Nat := 0xFF

/-- STACK_1838_INSTRUCTION: forwarded only while every tile is under test or bring-up runs. -/
def stackInstruction (code : Nat) (s : State) : State :=
  if code ≠ bypass1838 ∧ ((List.range 64).all (underTest s) ∨ getObj s dev Obj.bringupPhase ≠ 0) then
    setObj dev Obj.stackTestState 1 { s with test := { s.test with stack1838 := code + 1 } }
  else bypassStack s

def execStack1838Instruction (code : BitVec 8) (s : State) : Res := run (stackInstruction code.toNat) s

end Sys2Proof.Machine
end

