-- ==== Sys2Proof/Machine/ReadObj.lean ====
section
/-! DEFINITION. What a read of a dictionary object returns: the stored value, or for an object that shows
another part of the state, the value computed from it (R332). -/

namespace Sys2Proof.Machine

open Sys2Proof

/-! ## The device -/

/-- Degraded (R382): a channel disabled, a tile without its address or pacer reference, or no Copybook. -/
def degraded (s : State) : Bool :=
  decide (getObj s dev Obj.copybookState = 3)
    || (List.range 64).any (fun t => !present s t || !flag s t Obj.pacerReferenceValid
        || (List.range 48).any (fun c => decide (chState s t c = 4)))

/-- DeviceState (Table 13.11). -/
def deviceStateOf (s : State) : Nat :=
  if getObj s dev Obj.firmwareState = 2 then 5
  else if getObj s dev Obj.bringupPhase ≠ 0 then 0
  else if mgmtDown s then 5
  else if tripped s then 3
  else if (List.range 64).any (inHold s) then 4
  else if degraded s then 2 else 1

/-- BringupPhase reads 8 while bring-up is paused by Hold or a trip (R377). -/
def phaseShown (s : State) : Nat :=
  let ph := getObj s dev Obj.bringupPhase
  if 4 ≤ ph ∧ ph ≤ 6 ∧ (tripped s ∨ (List.range 64).any (inHold s)) then 8 else ph

/-- ResetInProgress of a tile: the code of Table 15.2 of the largest reset that runs (R385). -/
def resetShown (s : State) (t : Nat) : Nat :=
  if getObj s dev Obj.bringupPhase ≠ 0 then (if s.resets.warm then 2 else 1)
  else if getObj s t Obj.resetInProgress ≠ 0 then getObj s t Obj.resetInProgress
  else if s.resets.partition.isSome then 3
  else if s.time.elapsed < s.field.mgmtUntil then 8 else 0

/-- A grant still in force (R341). -/
def grantLive (s : State) (g : Grant) : Bool :=
  decide (s.time.elapsed < g.lease + getObj s dev Obj.rightsLease * 1000000000)

/-- A claim made and neither confirmed nor lapsed (R344). -/
def claimHeld (s : State) : Option Nat :=
  match s.field.claim with
  | some (a, until_) => if s.time.elapsed < until_ then some a else none
  | none => none

/-- RollCallState. -/
def rollCallShown (s : State) : Nat :=
  if nodeAddr s ≠ 127 then 2 else if (claimHeld s).isSome then 1 else 0

/-- VidOutstanding: rails with a command outstanding (R419). -/
def vidOutstandingOf (s : State) : Nat := (s.rail.filter (fun (e : Nat × RailS) => e.2.outstanding.isSome)).length

/-- DeviceScrubLapLast. -/
def scrubLapMax (s : State) : Nat :=
  (List.range 64).foldl (fun m t => (List.range 48).foldl (fun m c => max m (getObj s t (Obj.scrubLapLast + c))) m) 0

/-- Computed device objects, by index and subindex. -/
def deviceShown (s : State) (i b : Nat) : Option Nat :=
  if i = 0x1003 then some Config.deviceSerial
  else if i = 0x1004 then some Config.siliconStep
  else if i = 0x1006 then some (deviceStateOf s)
  else if i = 0x1007 then some Config.bootRomVersion
  else if i = 0x1125 then some (s.field.grants.filter (grantLive s)).length
  else if i = 0x1140 then some (rollCallShown s)
  else if i = 0x6006 then some (scrubLapMax s)
  else if i = 0x7864 then some (fget 0 s.power.partEnergy b / 1000000)
  else if i = 0x7880 then some (devicePace s)
  else if i = 0x9800 then some (phaseShown s)
  else if i = 0xA203 then some s.copy.queue.length
  else if i = 0xB022 then some (vidOutstandingOf s)
  else none

/-! ## Tiles -/

/-- ModeSummary (Table 17.9). -/
def modeSummary (s : State) (t : Nat) : Nat :=
  fld 17 1 (b2n (underTest s t)) + fld 16 1 (getObj s t Obj.mergeEnable) + fld 15 1 (getObj s t Obj.preemptEnable)
    + fld 14 1 (getObj s t Obj.timetableEnable) + fld 13 1 (getObj s dev Obj.attributionMode)
    + fld 12 1 (getObj s t Obj.regulationMode) + fld 10 2 (getObj s t Obj.pagePolicy)
    + fld 9 1 (b2n (!stepMode s t)) + fld 8 1 (b2n (slp2 s))
    + sumOf ((List.range 4).map (fun p => fld (2 * p) 2 (portGeneration s t p)))

/-- HeldBursts: host ports 0 to 3, then the gateway (R148). -/
def heldBurstsOf (s : State) (t p : Nat) : Nat :=
  let ks := if p < 4 then [t * 128 + 2 * p, t * 128 + 2 * p + 1] else (List.range 64).map (fun u => t * 128 + 64 + u)
  (ks.filter (fun k => (fget ({} : Asm) s.asm k).active)).length

/-- OverBudgetTime of a regulator, the time in progress included (R130). -/
def overTime (s : State) (t r : Nat) : Nat :=
  let since := fget 0 s.overFrom (t * 17 + r)
  getObj s t (Obj.overBudgetTime + r) + (if since = 0 then 0 else s.time.elapsed + 1 - since)

/-- BandTime of a band, the present stay included (R290). -/
def bandTimeOf (s : State) (t b : Nat) : Nat :=
  getObj s t (Obj.bandTime + b)
    + (if getObj s t Obj.refreshBand = b then s.time.elapsed - (getSensor s t).bandSince else 0)

/-- Computed objects of the scheduler and the passes. -/
def passShown (s : State) (t i b : Nat) : Option Nat :=
  let x := getPass s t b
  let tick := s.time.elapsed / 10
  if i = 0x2116 then
    let q := getQueue s t (b - 1)
    some (fld 8 8 q.wq.length + fld 0 8 q.rq.length)
  else if i = 0x2201 then some (livePasses s t).length
  else if i = 0x2202 then
    some (qFloorNat (qMul (qNat 1000) (qSum ((livePasses s t).map (fun e => wRate e.2.terms)))))
  else if i = 0x2203 then
    some (if flag s t Obj.pacerReferenceValid then qFloorNat (qMul (qNat 1000) (ceilingQ s t)) else 0)
  else if i = 0x2207 then some (tileCauseShown s t)
  else if i = 0x2210 then some x.terms
  else if i = 0x2211 then some x.state
  else if i = 0x2212 then some x.computed
  else if i = 0x2216 then some x.cause
  else if i = 0x3022 then some (overTime s t (b - 1))
  else if i = 0x3040 then some (bucketShown x.committed (cCommitted x.terms) (commDepth x.terms) tick / 100)
  else if i = 0x3041 then some (bucketShown x.peak (cPeak x.terms) (peakDepth x.terms) tick / 100)
  else if i = 0x3304 then some (heldBurstsOf s t (b - 1))
  else none

/-- Computed objects of the Timetables. -/
def ttShown (s : State) (t i b : Nat) : Option Nat :=
  let x := getTT s t
  let run := (x.running.getD {}).entries
  if i = 0x3106 then some (2 * b2n x.running.isSome + b2n x.pending.isSome)
  else if i = 0x3107 then some (x.running.getD {}).start
  else if i = 0x3108 then some (x.pending.getD {}).start
  else if i = 0x3109 then some (run.getD (b - 1) 0)
  else if i = 0x310A then some run.length
  else if i = 0x310B then some (ttCycle run)
  else if i = 0x3110 then some (ttShownClosed s t (b - 1))
  else if i = 0x3111 then some (ttShownOpen s t (b - 1))
  else if i = 0x3112 then some (ttShownWindow s t (b - 1))
  else none

/-- Computed objects of the compute side, the block map and protection. -/
def workShown (s : State) (t i b : Nat) : Option Nat :=
  if i = 0x4000 then some (arrayState s t (b - 1))
  else if i = 0x4300 then some (engineState s t (b - 1))
  else if i = 0x4313 then some (if b ≤ 4 then getObj s t (Obj.loadStageBase + (b - 1)) else 0)
  else if i = 0x4320 then
    some (if getObj s t (Obj.moverState + (b - 1)) = 2 then 2 else b2n (transferOf s t (b - 1)).isSome)
  else if i = 0x503C then some (getMap s t).held.length
  else if i = 0x6023 then some (watchOf s t).length
  else if i = 0x6026 then some (watchBits (getWatch s t (getObj s t Obj.watchSelect)))
  else if i = 0x6032 then
    let v := getObj s t Obj.remapSelect
    some (remapBits (getRemap s t (v / 16) (v % 16)))
  else if i = 0x6038 then some (getProt s t).queue.length
  else if i = 0x6042 then some (getRetire s t (getObj s t Obj.retireSelect))
  else none

/-- Computed objects of heat and power. -/
def heatShown (s : State) (t i b : Nat) : Option Nat :=
  if i = 0x7000 then some (thermalCode s t)
  else if i = 0x7013 then some (bandTimeOf s t (b - 1))
  else if i = 0x7022 then some (if tripped s then 0 else (getSensor s t).u)
  else if i = 0x7023 then some (if tripped s then 0 else chanU s t)
  else if i = 0x7024 then some (effectiveSpeed s t)
  else if i = 0x7835 then some (computeFraction s t)
  else if i = 0x7836 then some (linkFraction s t)
  else if i = 0x7837 then some (memoryFraction s t)
  else if i = 0x7865 then some (fget 0 s.power.queueEnergy (t * 128 + (b - 1)) / 1000000)
  else if i = 0x7872 then some (hintReserve s t)
  else none

/-- Computed objects of the rest of a tile. -/
def restShown (s : State) (t i b : Nat) : Option Nat :=
  if i = 0x100A then some (fld 8 8 (if Config.strapAgrees t then t else Config.tileStrap t) + t)
  else if i = 0x8000 then some (fixedValue s t)
  else if i = 0x8033 then some (sampleAt s t (getObj s t Obj.preciseSampleSelect))
  else if i = 0x8034 then some (sampleBlock s t)
  else if i = 0x9829 then some (resetShown s t)
  else if i = 0xA020 then some (getDoor s t 0).status
  else if i = 0xB002 then some (if portGeneration s t (b - 1) = 3 then 0 else Config.portClockRate t (b - 1))
  else if i = 0xB003 then some (modeSummary s t)
  else if i = 0xB005 then some (configGeneration s t)
  else if i = 0xB010 ∧ b = 1 then some s.time.timeBase
  else none

/-- A computed object of a unit. -/
def shown (s : State) (u i b : Nat) : Option Nat :=
  if u = dev then deviceShown s i b
  else if i < 0x4000 ∧ (i < 0x3100 ∨ 0x3200 ≤ i) then
    (if i = 0x100A then restShown s u i b else passShown s u i b)
  else if i < 0x4000 then ttShown s u i b
  else if i < 0x7000 then workShown s u i b
  else if i < 0x8000 then heatShown s u i b
  else restShown s u i b

/-- What a read of object `k` of unit `u` returns; none for a trouble-log entry that is not held (R404). -/
def readObj (s : State) (u k : Nat) : Option Nat :=
  if k = logObj u Obj.troubleLogEntry then (logEntry s u (getObj s u (logObj u Obj.troubleLogSelect))).map logBits
  else if k = logObj u Obj.troubleLogBlock then some (logBlock s u)
  else some ((shown s u (k / 256) (k % 256)).getD (getObj s u k))

end Sys2Proof.Machine
end

