-- ==== Sys2Proof/Machine/WriteObj.lean ====
section
/-! DEFINITION. The write of a dictionary object at one unit: the checks that a plain object's table asks
for, and the action of the objects that have one (R327, R328, R331). -/

namespace Sys2Proof.Machine

open Sys2Proof

/-! ## Objects that are stored -/

/-- 0 or a software doorbell bit, 16 to 31. -/
def bellOk (v : Nat) : Bool := decide (v = 0 ∨ (16 ≤ v ∧ v ≤ 31))

/-- LaneSteer: every byte names a lane or is 0xFF (R44). -/
def steerOk (v : Nat) : Bool := (leBytes 8 v).all (fun b => decide (b ≤ 169 ∨ b = 0xFF))

/-- The value without its reserved bits (R7). -/
def plainStored (i v : Nat) : Nat :=
  if i = 0x3101 then v % 2 ^ 40
  else if i = 0x430B then v % 2 ^ 9
  else if i = 0x5020 then v % 2 ^ 43
  else if i = 0x6031 then v % 2 ^ 10
  else if i = 0x1106 then v &&& 0xFFC
  else v

/-- What an object's table asks beyond a range. -/
def plainOk (s : State) (i v : Nat) : Bool :=
  if i = 0x430A ∨ i = 0x8004 ∨ i = 0x8058 ∨ i = 0x8068 then bellOk v
  else if i = 0x430D then isPow2 v 16 65536
  else if i = 0x3822 then steerOk v
  else if i = 0x5020 then windowOk v
  else if i = 0x6031 then decide (v / 16 ≤ 47)
  else if i = 0x1120 then decide (v = 0 ∨ (10 ≤ v ∧ v ≤ 60000))
  else if i = 0x1110 then [125, 250, 500, 1000].contains v && decide (v ≤ getObj s dev Obj.canDataRate)
  else if i = 0x1111 then
    [1000, 2000, 4000, 5000, 8000].contains v && decide (getObj s dev Obj.canNominalRate ≤ v)
  else true

/-- Store an object that only holds its value (R327); an RWS object is also recorded (R328). -/
def storePlain (u k : Nat) (acc : Access) (v : Nat) (s : State) : State :=
  let w := plainStored (k / 256) v
  if ¬ inRange k w ∨ ¬ plainOk s (k / 256) w then answer stBadFormat s
  else if acc = .rws then storeRws u k w s else storeObj u k w s

/-- RightsKey: the key is kept and stored in the Copybook (Table 13.11, kind 0x0A of Table 14.6). -/
def writeKey (level v : Nat) (s : State) : State :=
  answer stOk (pushRecord 0x0A level 16 v (setObj dev (Obj.rightsKey + (level - 1)) v s))

/-! ## Objects with an action -/

/-- Scheduling, passes, regulation and Timetables; `scope` is the writer's (R101). -/
def writeGate (scope t i b v : Nat) (s : State) : Option State :=
  if i = 0x2010 then some (writeFloor t v s)
  else if i = 0x2011 then some (writeHopCost t v s)
  else if i = 0x2012 then some (writePassBand t v s)
  else if i = 0x2102 then some (writeOverhead t v s)
  else if i = 0x2103 then some (writeQuantum t (b - 1) v s)
  else if i = 0x2104 ∧ b ≤ 2 then some (writeDrain t (b = 2) v s)
  else if i = 0x2105 ∧ b ≤ 2 then some (writeReserve t (b = 2) v s)
  else if i = 0x2107 then some (writeMergeEnable t v s)
  else if i = 0x2108 then some (writeHoldLimit t v s)
  else if i = 0x2200 then
    (if b = 1 then some (requestPass t 0 v scope s) else if b = 3 then some (releasePass t v s)
     else if b = 4 then some (regrantPass t v s) else some (requestPass t 1 v scope s))
  else if i = 0x3001 then some (writeRangeDefault t v s)
  else if i = 0x3002 then some (writeOutstandingLimit t v s)
  else if i = 0x3010 then some (writeRange16 t (b - 1) v s)
  else if i = 0x3100 then some (writeTTEnable t v s)
  else if i = 0x3104 then some (boolCommand v (commitTT t) s)
  else if i = 0x320E then
    some (boolCommand v (fun s => { s with sampleClear := fset false s.sampleClear t true }) s)
  else none

/-- Channels, arrays, engines. -/
def writeWork (t i b v : Nat) (s : State) : Option State :=
  if i = 0x3821 then some (writeChannelDisable t (b - 1) v s)
  else if i = 0x3830 then some (writeFillPattern t v s)
  else if i = 0x3840 then some (writeTranslate t v s)
  else if i = 0x3842 then some (writeUntranslate t v s)
  else if i = 0x4002 then some (writePreempt t v s)
  else if i = 0x4003 then some (writeSaveBase t (b - 1) v s)
  else if i = 0x400C then some (writeUnfence t (b - 1) v s)
  else if i = 0x4301 then some (writeEnable t (b - 1) v s)
  else if i = 0x4302 then some (writeQueueConfig t (b - 1) false v s)
  else if i = 0x4303 then some (writeQueueConfig t (b - 1) true v s)
  else if i = 0x4305 then some (writeTail t (b - 1) v s)
  else if i = 0x4306 then some (writeResume t (b - 1) v s)
  else if i = 0x430F then some (writeConsumed t (b - 1) v s)
  else if i = 0x4314 then some (writeYield t (b - 1) v s)
  else if i = 0x4340 then some (writeSemaphore t (b - 1) v s)
  else none

/-- Block map, protection, heat, power of a tile. -/
def writeStore (t i v : Nat) (s : State) : Option State :=
  if i = 0x5000 then some (writePoolConfig t 0 v s)
  else if i = 0x5001 then some (writePoolConfig t 1 v s)
  else if i = 0x5002 then some (writePoolConfig t 2 v s)
  else if i = 0x5010 then some (writeMapCommand t v s)
  else if i = 0x5021 then some (writeMapSwitch t v s)
  else if i = 0x6030 then some (writeRepairMode t v s)
  else if i = 0x6044 then some (retireCommand t v s)
  else if i = 0x6050 then some (injectWrite t v s)
  else if i = 0x7011 then some (writeMinBand t v s)
  else if i = 0x7802 then some (writeFixedStep t v s)
  else if i = 0x7810 then
    some (boolCommand v (fun s => setObj t Obj.speedLowWater (getObj s t Obj.speedIndex) s) s)
  else none

/-- Counters, calibration, resets, mailboxes, ports of a tile. -/
def writeRest (t i b v : Nat) (s : State) : Option State :=
  if i = 0x8000 then some (writeFixed t v s)
  else if i = 0x8001 then some (writeSelect t (b - 1) v s)
  else if i = 0x8002 then some (writeCounter t (Obj.counterValue + (b - 1)) v s)
  else if i = 0x8020 then some (writeBandwidth t v s)
  else if i = 0x8030 then some (writeSampling t v s)
  else if i = 0x8056 then some (writeLog t v s)
  else if i = 0x9004 then some (writeCalRequest t v s)
  else if i = 0x9823 then some (writeTileReset t v s)
  else if i = 0x9824 then some (writeEngineReset t v s)
  else if i = 0x9825 then some (writePortReset t v s)
  else if i = 0xA010 then some (writeMailboxClear t (b - 1) v s)
  else if i = 0xB000 then some (writePortGeneration t (b - 1) v s)
  else none

/-- Device objects; `src` names where a firmware piece comes from (R364), `l` its bytes. -/
def writeDevice (src i b v : Nat) (l : List Nat) (s : State) : Option State :=
  if i = 0x1122 then some (writeKey b v s)
  else if i = 0x7034 then some (wakeAfter (writeTripRelease v) s)
  else if i = 0x7800 then some (writePowerMode v s)
  else if i = 0x7861 then some (writeMark (b - 1) v s)
  else if i = 0x7863 then some (writeAttribution v s)
  else if i = 0x8010 then some (writeDevSelect (b - 1) v s)
  else if i = 0x8011 then some (writeCounter dev (Obj.deviceCounterValue + (b - 1)) v s)
  else if i = 0x8040 then some (writeCard v s)
  else if i = 0x8066 then some (writeLog dev v s)
  else if i = 0x9030 then some (boolCommand v startFit s)
  else if i = 0x9820 then some (writeWarmReset v s)
  else if i = 0x9821 then some (writePartitionReset v s)
  else if i = 0x9826 then some (writeManagementReset v s)
  else if i = 0xA100 then some (writeExpect v s)
  else if i = 0xA103 then some (takePiece src l s)
  else if i = 0xA104 then some (writeActivate v s)
  else if i = 0xA208 then some (writeCompact v s)
  else if i = 0xB010 then some (writeTimeBase v s)
  else none

/-- The action of an object of a unit, written by a holder of partition scope `scope`. -/
def writeAction (src scope u i b v : Nat) (l : List Nat) (s : State) : Option State :=
  if u = dev then writeDevice src i b v l s
  else if i < 0x3800 then writeGate scope u i b v s
  else if i < 0x5000 then writeWork u i b v s
  else if i < 0x8000 then writeStore u i v s
  else writeRest u i b v s

/-- R327: the write of a listed, writable object that the writer may write: a wrong length is BAD_FORMAT;
a CMD value has its checks in its action, and a stored one its range here. -/
def writeObj (src scope u : Nat) (d : ObjDef) (b : Nat) (l : List Nat) (s : State) : State :=
  let k := d.index * 256 + b
  let v := leNat l
  if l.length ≠ d.len then answer stBadFormat s
  else match writeAction src scope u d.index b v l s with
    | some s1 => s1
    | none => storePlain u k d.acc v s

end Sys2Proof.Machine
end

