-- ==== Sys2Proof/Machine/Access.lean ====
section
/-! DEFINITION. An access to the dictionary from any path: which unit and object it reaches, the rights
and the partition scope it needs, and what it answers (R325 to R335, R349, R430). -/

namespace Sys2Proof.Machine

open Sys2Proof

/-- Who makes an access: rights level, partition scope (0 for all), and the path it comes on (a node of
the field network, or 256 + t for the window of tile t). -/
structure Who where
  level : Nat
  scope : Nat
  src : Nat := 0
  deriving DecidableEq, Repr

/-- What an access answers: a status, the hint of a RETRY, and data bytes. -/
structure Ans where
  status : Nat
  hint : Nat := 0
  data : List Nat := []
  deriving DecidableEq, Repr

/-- R430: the data an answer carries: a RETRY without data carries its hint. -/
def ansData (a : Ans) : List Nat := if a.status = stRetry ∧ a.data = [] then leBytes 4 a.hint else a.data

/-! ## Units and objects (R325, R331, R335) -/

/-- What an index and subindex of a unit name. -/
inductive Look where
  | missing
  | reserved
  | obj (d : ObjDef)
  deriving DecidableEq, Repr

/-- R331: reserved indices. -/
def reservedIndex (i : Nat) : Bool := decide (i < 0x1000 ∨ 0xC000 ≤ i)

/-- The object an access reaches at a unit: a tile that took its address, or the management unit. -/
def lookObj (s : State) (u i b : Nat) : Look :=
  if u > 64 ∨ (u < 64 ∧ ¬ present s u) then .missing
  else if reservedIndex i then .reserved
  else match objDef i b with
    | some d => if d.device = decide (u = dev) then .obj d else .missing
    | none => .missing

/-! ## Objects that cannot be served now (R349) -/

/-- Time left in ns of the reset of a tile, by the bounds of Table 15.2, rounded up to 1 µs. -/
def resetLeft (s : State) (t : Nat) : Nat :=
  let x := getReset s t
  let bound := if x.kind = 1 then 30000
    else if (List.range 48).all (warmPath s t) then 180000000 else 2000000000
  ceilDiv (max 1 (x.start + bound - s.time.elapsed)) 1000 * 1000

/-- The hint of the RETRY that an object answers while its server is away: the firmware (the boot ROM
takes the firmware objects without an image), or the tile in reset. -/
def awayHint (s : State) (u : Nat) (d : ObjDef) : Option Nat :=
  if d.hw then none
  else if mgmtDown s ∨ (s.firm.runningHeader.isNone ∧ d.index / 256 ≠ 0xA1) then some 100000000
  else if u < 64 ∧ inReset s u then some (resetLeft s u)
  else none

/-! ## Partition scope (R330, R101, R246) -/

/-- A pass number of a tile that belongs to another partition. -/
def alienPass (s : State) (scope t p : Nat) : Bool :=
  decide ((getPass s t p).state ≠ 0 ∧ cPartition (getPass s t p).terms ≠ scope)

/-- A read names a pass, range or mark of another partition. -/
def alienRead (s : State) (scope u i b : Nat) : Bool :=
  if scope = 0 then false
  else if (0x2210 ≤ i ∧ i ≤ 0x2218) ∨ i = 0x3040 ∨ i = 0x3041 then alienPass s scope u b
  else if i = 0x3010 then
    let v := rangeReg s u (b - 1)
    rrEnable v && decide (rrPart v ≠ scope)
  else if i = 0x7862 then
    let m := fget ({} : Mark) s.mark (b - 1)
    m.opened && decide (m.part ≠ scope)
  else false

/-- A written value names a pass, range, entry or mark of another partition. A contract is judged by the admission
controller, and nothing is examined of a command value whose reserved bits are not zero (R7, R100). -/
def alienValue (s : State) (scope u i b v : Nat) : Bool :=
  if i = 0x2200 then
    (decide (b = 3 ∨ b = 4) && alienPass s scope u v)
  else if i = 0x3010 then
    let old := rangeReg s u (b - 1)
    decide (rrPart v ≠ scope) || (rrEnable old && decide (rrPart old ≠ scope))
  else if i = 0x430B then bit v 8 && alienPass s scope u (v % 256)
  else if i = 0x5010 then decide (bits v 8 108 = 0 ∧ mcPart v ≠ scope)
  else if i = 0x5020 then mwEnable v && decide (mwPart v ≠ scope)
  else if i = 0x5021 then decide (bits v 392 120 = 0 ∧ bits v 43 205 = 0) && mwEnable (msWindow v) && decide (mwPart (msWindow v) ≠ scope)
  else false

/-- R330: a holder with a scope of one partition may not make this write. -/
def scopeBars (s : State) (scope u : Nat) (d : ObjDef) (b v : Nat) : Bool :=
  if scope = 0 then false
  else if u = dev then
    if d.index = 0x7861 then
      let m := fget ({} : Mark) s.mark (b - 1)
      decide (if v = 0 then m.opened ∧ m.part ≠ scope else v ≠ scope + 1)
    else if d.index = 0x9821 then decide (v ≠ scope)
    else true
  else !inPartition s scope u || alienValue s scope u d.index b v

/-- R330: Service and Vendor rights have scope 0. -/
def scopeOf (w : Who) : Nat := if w.level ≥ 2 then 0 else w.scope

/-! ## One access at one unit -/

/-- A read. -/
def readAt (s : State) (w : Who) (u i b : Nat) : Ans :=
  match lookObj s u i b with
  | .missing => ⟨stDecodeError, 0, []⟩
  | .reserved => ⟨stOk, 0, [0]⟩
  | .obj d =>
    match awayHint s u d with
    | some h => ⟨stRetry, h, []⟩
    | none =>
      if ¬ d.acc.readable ∨ alienRead s (scopeOf w) u i b then ⟨stAccessDenied, 0, []⟩
      else match readObj s u (i * 256 + b) with
        | some v => ⟨stOk, 0, leBytes d.len v⟩
        | none => ⟨stDecodeError, 0, []⟩

/-- Table 13.8: the 8 bytes of a description. -/
def descBits (d : ObjDef) : Nat :=
  fld 48 16 d.len + fld 40 8 (if d.acc.writable then d.wrights else 0xFF)
    + fld 32 8 (if d.acc.readable then 0 else 0xFF) + fld 24 8 d.acc.code + fld 16 8 d.ty.code + b2n d.device

/-- A description (R331, Table 13.8); the default of a BLOB is left out. -/
def describeAt (s : State) (u i b : Nat) : Ans :=
  match lookObj s u i b with
  | .missing => ⟨stDecodeError, 0, []⟩
  | .reserved => ⟨stOk, 0, leBytes 8 (fld 48 16 1 + fld 24 8 1 + fld 16 8 2 + b2n (decide (u = dev))) ++ [0]⟩
  | .obj d =>
    match awayHint s u d with
    | some h => ⟨stRetry, h, []⟩
    | none =>
      ⟨stOk, 0, leBytes 8 (descBits d) ++ (if d.ty = .blob then [] else leBytes d.len (objDefault (i * 256 + b)))⟩

/-- What the last write answered. -/
def ansOf (s : State) : Ans := ⟨s.out.status, s.out.hint, []⟩

/-- The record of a write's answer is cleared before the next one. -/
def freshAns (s : State) : State := { s with out := { s.out with status := stOk, hint := 0, data := [] } }

/-- A write at one unit. -/
def writeAt (w : Who) (u i b : Nat) (l : List Nat) (s0 : State) : Ans × State :=
  let s := freshAns s0
  match lookObj s u i b with
  | .missing => (⟨stDecodeError, 0, []⟩, s)
  | .reserved => (⟨stOk, 0, []⟩, s)
  | .obj d =>
    match awayHint s u d with
    | some h => (⟨stRetry, h, []⟩, s)
    | none =>
      if ¬ d.acc.writable ∨ w.level < d.wrights ∨ scopeBars s (scopeOf w) u d b (leNat l) then
        (⟨stAccessDenied, 0, []⟩, s)
      else
        let s1 := writeObj w.src (scopeOf w) u d b l s
        (ansOf s1, s1)

/-! ## Unit 0x7F (R335) -/

/-- The status of the failing unit of lowest number, with the mask of those that failed. -/
def failAns (l : List (Nat × Nat)) : Ans :=
  match l.filter (fun e => e.2 ≠ stOk) with
  | [] => ⟨stOk, 0, []⟩
  | e :: r => ⟨e.2, 0, leBytes 8 ((e :: r).foldl (fun m x => setBit m (min 63 x.1)) 0)⟩

/-- A write applied to units one after another. -/
def writeEach (w : Who) (i b : Nat) (l : List Nat) : List Nat → State → List (Nat × Nat) × State
  | [], s => ([], s)
  | u :: r, s =>
    let (a, s1) := writeAt w u i b l s
    let (rest, s2) := writeEach w i b l r s1
    ((u, a.status) :: rest, s2)

/-- A write at unit 0x7F: every present tile, or the management unit. -/
def writeBroadcast (w : Who) (i b : Nat) (l : List Nat) (s : State) : Ans × State :=
  if reservedIndex i then (⟨stOk, 0, []⟩, freshAns s)
  else match objDef i b with
    | none => (⟨stDecodeError, 0, []⟩, freshAns s)
    | some d =>
      let units := if d.device then [dev] else (List.range 64).filter (present s)
      let (r, s1) := writeEach w i b l units (freshAns s)
      (failAns r, s1)

/-- A write at any unit address. -/
def writeAccess (w : Who) (u i b : Nat) (l : List Nat) (s : State) : Ans × State :=
  if u = 0x7F then writeBroadcast w i b l s else writeAt w u i b l s

/-- Reads and descriptions at 0x7F complete with BAD_FORMAT. -/
def readAccess (s : State) (w : Who) (u i b : Nat) : Ans :=
  if u = 0x7F then ⟨stBadFormat, 0, []⟩ else readAt s w u i b
/-- What a read that is answered does: RegulatorPeak restarts from the present count (R130). -/
def readEffect (s : State) (u i b st : Nat) : State :=
  if st = stOk ∧ i = 0x3023 then setObj u (Obj.regulatorPeak + (b - 1)) (regCount s u (b - 1)) s else s

/-- A read with its effect. -/
def readDo (w : Who) (u i b : Nat) (s : State) : Ans × State :=
  let a := readAccess s w u i b
  (a, readEffect s u i b a.status)
def describeAccess (s : State) (u i b : Nat) : Ans :=
  if u = 0x7F then ⟨stBadFormat, 0, []⟩ else describeAt s u i b

/-- The record of an answer. -/
def giveAns (a : Ans) (s : State) : State :=
  { s with out := { s.out with status := a.status, hint := a.hint, data := ansData a } }

/-- REGISTER_WRITE (R327): a write by a holder of rights at a unit. -/
def registerWrite (w : Who) (u i b : Nat) (l : List Nat) (s : State) : State :=
  let (a, s1) := writeAccess w u i b l s
  giveAns a s1

def execRegisterWrite (unit : BitVec 8) (index : BitVec 16) (sub rights scope : BitVec 8) (data : List Byte)
    (s : State) : Res :=
  run (registerWrite { level := rights.toNat % 4, scope := scope.toNat } unit.toNat index.toNat sub.toNat (byteNats data)) s

/-! ## The dictionary window (R342) -/

def wqIndex (v : Nat) : Nat := bits v 48 16
def wqSub (v : Nat) : Nat := bits v 40 8
def wqUnit (v : Nat) : Nat := bits v 32 8
def wqLength (v : Nat) : Nat := bits v 21 11
def wqReserved (v : Nat) : Nat := bits v 4 17
def wqOp (v : Nat) : Nat := bits v 0 4

def getWindow (s : State) (t : Nat) : WindowS := fget {} s.window t

/-- The rights and scope of a window access: the lower of its rights code and WindowRightsLimit, and
WindowPartition. -/
def windowWho (s : State) (t rights : Nat) : Who :=
  { level := min rights (getObj s t Obj.windowRightsLimit), scope := getObj s t Obj.windowPartition, src := 256 + t }

/-- WindowRights as read (Table 13.9). -/
def windowRights (s : State) (t : Nat) : Nat :=
  let w := windowWho s t (getWindow s t).rights
  fld 8 8 (scopeOf w) + w.level

/-- What a window request does; BAD_FORMAT for a reserved field or op. -/
def windowDo (w : Who) (v : Nat) (data : List Nat) (s : State) : Ans × State :=
  if wqReserved v ≠ 0 ∨ wqLength v > 1016 then (⟨stBadFormat, 0, []⟩, s)
  else if wqOp v = 1 then readDo w (wqUnit v) (wqIndex v) (wqSub v) s
  else if wqOp v = 2 then writeAccess w (wqUnit v) (wqIndex v) (wqSub v) (data.take (wqLength v)) s
  else if wqOp v = 3 then (describeAccess s (wqUnit v) (wqIndex v) (wqSub v), s)
  else (⟨stBadFormat, 0, []⟩, s)

/-- The 1,024 bytes of WindowData with bytes written from its start. -/
def windowFill (old new : List Nat) : List Nat :=
  new ++ ((old ++ List.replicate (1024 - old.length) 0).take 1024).drop new.length

/-- A write of WindowRequest with WindowData as it stands. -/
def windowRequest (t v rights : Nat) (s : State) : State :=
  let s0 := { s with window := fupd {} s.window t (fun x => { x with request := v, status := 0, rights := rights }) }
  let (a, s1) := windowDo (windowWho s0 t rights) v (windowFill (getWindow s0 t).data []) s0
  let d := ansData a
  giveAns a (bump t Obj.windowTransactions 1 { s1 with window := fupd {} s1.window t (fun x => { x with
    request := v, rights := rights, status := fld 16 11 d.length + fld 8 8 a.status + 1, data := windowFill x.data d }) })

/-- A window write comes after the bytes are put in WindowData. -/
def windowPut (t : Nat) (data : List Nat) (s : State) : State :=
  { s with window := fupd {} s.window t (fun x => { x with data := windowFill x.data (data.take 1024) }) }

/-- The row of an op: its own op, or a reserved one. -/
def opOf (n v : Nat) : Bool := decide (wqOp v = n ∨ wqOp v = 0 ∨ wqOp v > 3)

/-- WINDOW_READ. -/
def execWindowRead (t : TileN) (v : BitVec 64) (rights : BitVec 2) (s : State) : Res :=
  run (fun s => if opOf 1 v.toNat then windowRequest t.val v.toNat rights.toNat s else s) s
/-- WINDOW_WRITE. -/
def execWindowWrite (t : TileN) (v : BitVec 64) (data : List Byte) (rights : BitVec 2) (s : State) : Res :=
  run (fun s => if opOf 2 v.toNat then windowRequest t.val v.toNat rights.toNat (windowPut t.val (byteNats data) s) else s) s
/-- WINDOW_DESCRIBE. -/
def execWindowDescribe (t : TileN) (v : BitVec 64) (rights : BitVec 2) (s : State) : Res :=
  run (fun s => if opOf 3 v.toNat then windowRequest t.val v.toNat rights.toNat s else s) s

/-! ## Bookkeeping between tiles (R105, R242, R254, R415) -/

/-- The tile cannot serve the mesh. -/
def tileGone (s : State) (t : Nat) : Bool := inReset s t || !present s t

/-- BOOKKEEPING_QUERY: the oldest query at the tile. Map queries wait while its block map stands still;
one to a tile that is away is answered with reason 6, and a release waits. -/
def bookkeepingQuery (t : Nat) (s : State) : State :=
  match s.queries.find? (fun q => q.dst = t) with
  | none => s
  | some q =>
    let s1 := { s with queries := removeFirst (fun x => x.dst = t) s.queries }
    let reply := fun (b : Book) (s : State) => { s with answers := s.answers ++ [b] }
    let back : Book := { src := t, dst := q.src, kind := q.kind, arg := q.arg, part := q.part }
    if q.kind = 4 then
      reply { back with ok := !tileGone s t, reason := tileReason s t (sgOf s q.src q.arg) } s1
    else if tileGone s t then (if q.kind = 2 then s else reply { back with reason := 6 } s1)
    else if mapHalted s t then s
    else match mapQuery q s1 with
      | (some b, s2) => reply { b with kind := q.kind, arg := q.arg } s2
      | (none, s2) => s2

def execBookkeepingQuery (t : TileN) (s : State) : Res := run (bookkeepingQuery t.val) s

/-- BOOKKEEPING_ANSWER: the oldest answer for the tile. -/
def bookkeepingAnswer (t : Nat) (s : State) : State :=
  match s.answers.find? (fun b => b.dst = t) with
  | none => s
  | some b =>
    let s1 := { s with answers := removeFirst (fun x => x.dst = t) s.answers }
    if b.kind = 4 then
      match getAdm s1 t with
      | j :: _ => if j.terms = b.arg then admAnswer t b.reason (!b.ok) s1 else s1
      | [] => s1
    else mapAnswer b s1

def execBookkeepingAnswer (t : TileN) (s : State) : Res := run (bookkeepingAnswer t.val) s

end Sys2Proof.Machine
end

