-- ==== Sys2Proof/Machine/Gnonge.lean ====
section
/-! DEFINITION. Gnonge on the field network: frames and segments, requests and answers, rights, the
heartbeat, and the protocol controller's bus-off (R334 to R341, R347, R348, R350). -/

namespace Sys2Proof.Machine

open Sys2Proof

/-! ## Identifiers and headers (Tables 13.5, 13.6) -/

def idPrio (id : Nat) : Nat := bits id 26 3
def idKind (id : Nat) : Nat := bits id 24 2
def idDest (id : Nat) : Nat := bits id 17 7
def idSrc (id : Nat) : Nat := bits id 10 7
def idTag (id : Nat) : Nat := bits id 4 6
def idSeg (id : Nat) : Nat := bits id 0 4

def hdLength (h : Nat) : Nat := bits h 48 16
def hdStatus (h : Nat) : Nat := bits h 40 8
def hdSub (h : Nat) : Nat := bits h 32 8
def hdIndex (h : Nat) : Nat := bits h 16 16
def hdUnit (h : Nat) : Nat := bits h 8 8
def hdOp (h : Nat) : Nat := bits h 0 8

/-- The header of a frame's bytes. -/
def headerOf (l : List Nat) : Nat := leNat (l.take 8)

/-- Index, sub and unit are 0 and so is the status (R339). -/
def plainHeader (h : Nat) : Bool := decide (bits h 8 40 = 0)

/-! ## Rights (R341) -/

/-- The rights of a node: Observer with scope 0 unless it holds a grant in force. -/
def nodeWho (s : State) (node : Nat) : Who :=
  match s.field.grants.find? (fun g => g.node = node && grantLive s g) with
  | some g => { level := g.level, scope := g.scope, src := node }
  | none => { level := 0, scope := 0, src := node }

/-- A request of the node renews its lease. -/
def renewLease (node : Nat) (s : State) : State :=
  { s with field := { s.field with grants := s.field.grants.map (fun g =>
    if g.node = node ∧ grantLive s g then { g with lease := s.time.elapsed } else g) } }

/-- Unlocking is barred for the node (R341). -/
def lockedOut (s : State) (node : Nat) : Bool :=
  s.field.locked.any (fun e => e.1 = node && decide (s.time.elapsed < e.2))

/-- UNLOCK_BEGIN: a nonce for a level and scope, valid once within 1 s. -/
def unlockBegin (node level scope : Nat) (s : State) : Ans × State :=
  if lockedOut s node then (⟨stAccessDenied, 0, []⟩, s)
  else if level = 0 ∨ level > 3 then (⟨stBadFormat, 0, []⟩, s)
  else
    let (x, s1) := draw s
    let n : Nonce := { node := node, level := level, scope := scope, value := x % 2 ^ 64,
                       expiry := s.time.elapsed + 1000000000 }
    (⟨stOk, 0, leBytes 8 n.value⟩,
      { s1 with field := { s1.field with nonces := n :: s1.field.nonces.filter (fun m => m.node ≠ node) } })

/-- The 20-byte message of R341. -/
def proofMessage (n : Nonce) : List Nat :=
  leBytes 8 n.value ++ [n.node, n.level, n.scope, 0] ++ leBytes 8 Config.deviceSerial

/-- The proof the device expects: the first 8 bytes of the AES-CMAC. -/
def proofOf (s : State) (n : Nonce) : List Nat :=
  (cmac (leBytes 16 (getObj s dev (Obj.rightsKey + (n.level - 1)))) (proofMessage n)).take 8

/-- A wrong proof is counted; the fourth within 60 s bars the node for 60 s. -/
def wrongProof (node : Nat) (s : State) : State :=
  let s1 := bump dev Obj.unlockFailures 1 s
  let now := s.time.elapsed
  let l := (node, now) :: s.field.wrong.filter (fun e => decide (now ≤ e.2 + 60000000000))
  if (l.filter (fun e => e.1 = node)).length ≥ 4 then
    addLog dev 0x0A 3 stOk node 0 { s1 with field := { s1.field with
      wrong := l.filter (fun e => e.1 ≠ node)
      locked := (node, now + 60000000000) :: s1.field.locked.filter (fun e => e.1 ≠ node) } }
  else { s1 with field := { s1.field with wrong := l } }

/-- Grant a level and scope to a node; scope 0 for Service and Vendor (R330). -/
def grantRights (n : Nonce) (s : State) : State :=
  let g : Grant := { node := n.node, level := n.level, scope := if n.level ≥ 2 then 0 else n.scope,
                     lease := s.time.elapsed }
  { s with field := { s.field with
    grants := g :: s.field.grants.filter (fun x => decide (x.node ≠ n.node) && grantLive s x) } }

/-- UNLOCK_PROVE: the nonce is used up; a 17th holder is answered RETRY. -/
def unlockProve (node : Nat) (proof : List Nat) (s : State) : Ans × State :=
  if lockedOut s node then (⟨stAccessDenied, 0, []⟩, s)
  else
    let s1 := { s with field := { s.field with nonces := s.field.nonces.filter (fun m => m.node ≠ node) } }
    match s.field.nonces.find? (fun m => m.node = node && decide (s.time.elapsed ≤ m.expiry)) with
    | none => (⟨stAccessDenied, 0, []⟩, wrongProof node s1)
    | some n =>
      if proof ≠ proofOf s n then (⟨stAccessDenied, 0, []⟩, wrongProof node s1)
      else if (s.field.grants.filter (fun g => decide (g.node ≠ node) && grantLive s g)).length ≥ 16 then
        (⟨stRetry, 0, []⟩, s1)
      else (⟨stOk, 0, []⟩, grantRights n s1)

/-- The rights of a node lapse. -/
def dropGrant (node : Nat) (s : State) : State :=
  { s with field := { s.field with grants := s.field.grants.filter (fun g => g.node ≠ node) } }

/-! ## A whole request (R339, R340) -/

/-- The length an op's request data has; none for WRITE, whose object decides. -/
def opLength (op : Nat) : Option Nat :=
  if op = 2 then none else if op = 8 then some 2 else if op = 9 then some 8 else some 0

/-- The header is malformed: a status, or a field that the op leaves at 0. -/
def badHeader (h : Nat) : Bool :=
  decide (hdStatus h ≠ 0 ∨ hdLength h > 1016) || (decide (hdOp h ≥ 8) && !plainHeader h)
    || (match opLength (hdOp h) with | some n => decide (hdLength h ≠ n) | none => false)

/-- Execute a request of a node. -/
def runRequest (node h : Nat) (data : List Nat) (s : State) : Ans × State :=
  let w := nodeWho s node
  match hdOp h with
  | 1 => readDo w (hdUnit h) (hdIndex h) (hdSub h) s
  | 2 => writeAccess w (hdUnit h) (hdIndex h) (hdSub h) data s
  | 3 => (describeAccess s (hdUnit h) (hdIndex h) (hdSub h), s)
  | 8 => unlockBegin node (data.getD 0 0) (data.getD 1 0) s
  | 9 => unlockProve node data s
  | _ => (⟨stOk, 0, []⟩, dropGrant node s)

/-- The segments of a value: 56 bytes beside the header, then 64 each. -/
def segmentsOf (d : List Nat) : List (List Nat) := d.take 56 :: chunksOf 64 15 (d.drop 56)

/-- Send a transaction: the header in segment 0, the identifier's segment number counting up. -/
def sendSegments (id h : Nat) (d : List Nat) (s : State) : State :=
  let l := (leBytes 8 h ++ d.take 56) :: (segmentsOf d).drop 1
  (l.foldl (fun (x : Nat × State) seg => (x.1 + 1, sendFrame (id + x.1) seg x.2)) (0, s)).2

/-- The identifier of the response to a request. -/
def responseId (s : State) (id : Nat) : Nat := frameId (idPrio id) 1 (idSrc id) (nodeAddr s) (idTag id) 0

/-- The header of a response. -/
def responseHeader (h st len : Nat) : Nat :=
  frameHeader len st (hdSub h) (hdIndex h) (hdUnit h) ((hdOp h + 0x80) % 256)

/-- Answer a request; one to node 0 is answered by none. -/
def sendAnswer (id h : Nat) (a : Ans) (s : State) : State :=
  let s1 := giveAns a s
  if idDest id = 0 then s1
  else sendSegments (responseId s1 id) (responseHeader h a.status (ansData a).length) (ansData a) s1

/-- Keep the answer for 100 ms (R340 rule 3). -/
def keepAnswer (id h : Nat) (data : List Nat) (a : Ans) (s : State) : State :=
  let r : Answered := { node := idSrc id, tag := idTag id, header := h, data := data, id := responseId s id
                        answer := responseHeader h a.status (ansData a).length, response := ansData a
                        at_ := s.time.elapsed }
  { s with field := { s.field with
    answered := r :: s.field.answered.filter (fun x => decide (s.time.elapsed ≤ x.at_ + 100000000)) } }

/-- A transaction has arrived whole: a repetition is answered again, else it is executed. -/
def completeRequest (id h : Nat) (data : List Nat) (s : State) : State :=
  if idDest id = 0 then
    (if hdOp h = 2 then giveAns (runRequest (idSrc id) h data s).1 (runRequest (idSrc id) h data s).2 else s)
  else match s.field.answered.find? (fun x => decide (x.node = idSrc id ∧ x.tag = idTag id ∧ x.header = h ∧ x.data = data
      ∧ s.time.elapsed ≤ x.at_ + 100000000)) with
    | some x => sendSegments x.id x.answer x.response (bump dev Obj.duplicateRequests 1 s)
    | none =>
      let (a, s1) := runRequest (idSrc id) h data s
      keepAnswer id h data a (sendAnswer id h a s1)

/-! ## Segments (R340) -/

/-- The held transaction of a source and tag. -/
def heldTrans (s : State) (node tag : Nat) : Option Trans :=
  s.field.trans.find? (fun x => x.node = node && x.tag = tag)
def dropTrans (node tag : Nat) (s : State) : State :=
  { s with field := { s.field with trans := s.field.trans.filter (fun x => decide (x.node ≠ node ∨ x.tag ≠ tag)) } }

/-- A held transaction is abandoned. -/
def abandon (x : Trans) (st : Nat) (s : State) : State :=
  sendAnswer x.id x.header ⟨st, 0, []⟩ (dropTrans x.node x.tag s)

/-- Segment 0 of a request. -/
def firstSegment (id : Nat) (l : List Nat) (s : State) : State :=
  let h := headerOf l
  let d := l.drop 8
  match heldTrans s (idSrc id) (idTag id) with
  | some x => abandon x stBadFormat s
  | none =>
    if (s.field.trans.filter (fun x => x.node = idSrc id)).length ≥ 8 then sendAnswer id h ⟨stRetry, 0, []⟩ s
    else if badHeader h then sendAnswer id h ⟨stBadFormat, 0, []⟩ s
    else if hdLength h ≤ 56 then
      (if d.length < hdLength h then sendAnswer id h ⟨stBadFormat, 0, []⟩ s
       else completeRequest id h (d.take (hdLength h)) s)
    else if l.length ≠ 64 then sendAnswer id h ⟨stBadFormat, 0, []⟩ s
    else
      let x : Trans := { node := idSrc id, tag := idTag id, id := id, header := h, data := d, nextSeg := 1,
                         lastAt := s.time.elapsed }
      { s with field := { s.field with trans := s.field.trans ++ [x] } }

/-- A later segment. -/
def nextSegment (id : Nat) (l : List Nat) (x : Trans) (s : State) : State :=
  let rest := hdLength x.header - x.data.length
  if s.time.elapsed > x.lastAt + 10000000 then abandon x stTimeout s
  else if idSeg id ≠ x.nextSeg ∨ l.length < min 64 rest then abandon x stBadFormat s
  else if rest ≤ 64 then completeRequest x.id x.header (x.data ++ l.take rest) (dropTrans x.node x.tag s)
  else
    { s with field := { s.field with trans := s.field.trans.map (fun y =>
      if y.node = x.node ∧ y.tag = x.tag then
        { y with data := y.data ++ l, nextSeg := y.nextSeg + 1, lastAt := s.time.elapsed } else y) } }

/-- A frame is accepted: it is counted, as event 0x0100 too (Table 16.2), and its source's lease renewed. -/
def accepted (id : Nat) (s : State) : State := renewLease (idSrc id) (countEv dev 0x0100 0 1 (bump dev Obj.framesReceived 1 s))

/-- A request frame of a given op reaches the device: it is addressed and the frame names it, or node 0,
or it goes on with a transaction held here. -/
def requestFrame (op id : Nat) (l : List Nat) (s : State) : State :=
  if s.field.busOff ∨ l.length > 64 ∨ idKind id ≠ 0 then s
  else if idSeg id = 0 then
    (if l.length < 8 ∨ hdOp (headerOf l) ≠ op ∨ nodeAddr s = 127 ∨ (idDest id ≠ nodeAddr s ∧ idDest id ≠ 0) then s
     else firstSegment id l (accepted id s))
  else match heldTrans s (idSrc id) (idTag id) with
    | some x => if hdOp x.header = op ∧ idDest x.id = idDest id then nextSegment id l x (accepted id s) else s
    | none => s

/-- GNONGE_READ. -/
def execGnongeRead (id : BitVec 29) (frame : List Byte) (s : State) : Res :=
  run (requestFrame 1 id.toNat (byteNats frame)) s
/-- GNONGE_WRITE. -/
def execGnongeWrite (id : BitVec 29) (frame : List Byte) (s : State) : Res :=
  run (requestFrame 2 id.toNat (byteNats frame)) s
/-- DESCRIBE. -/
def execDescribe (id : BitVec 29) (frame : List Byte) (s : State) : Res :=
  run (requestFrame 3 id.toNat (byteNats frame)) s
/-- UNLOCK_BEGIN. -/
def execUnlockBegin (id : BitVec 29) (frame : List Byte) (s : State) : Res :=
  run (requestFrame 8 id.toNat (byteNats frame)) s
/-- UNLOCK_PROVE. -/
def execUnlockProve (id : BitVec 29) (frame : List Byte) (s : State) : Res :=
  run (requestFrame 9 id.toNat (byteNats frame)) s
/-- LOGOUT. -/
def execLogout (id : BitVec 29) (frame : List Byte) (s : State) : Res :=
  run (requestFrame 10 id.toNat (byteNats frame)) s

/-- TRANSACTION_TIMEOUT (R340 rule 1): more than 10 ms since the latest segment. -/
def transactionTimeout (node tag : Nat) (s : State) : State :=
  match heldTrans s node tag with
  | none => s
  | some x => if s.time.elapsed > x.lastAt + 10000000 then abandon x stTimeout s else s

def execTransactionTimeout (node tag : BitVec 8) (s : State) : Res :=
  run (transactionTimeout node.toNat tag.toNat) s

/-- RIGHTS_LEASE_EXPIRY (R341): the node's lease has run out. -/
def leaseExpiry (node : Nat) (s : State) : State :=
  if s.field.grants.any (fun g => g.node = node && !grantLive s g) then dropGrant node s else s

def execRightsLeaseExpiry (node : BitVec 8) (s : State) : Res := run (leaseExpiry node.toNat) s

/-! ## Heartbeat (R348) -/

/-- The 16 data bytes of a HEARTBEAT. -/
def beatData (s : State) : List Nat :=
  let p := devicePace s
  leBytes 16 (fld 64 64 s.time.timeBase + fld 32 32 p + fld 16 16 (p / 2 ^ 48) + fld 8 8 (deviceStateOf s)
    + fld 0 8 (getObj s dev Obj.tripState))

/-- HEARTBEAT: HeartbeatPeriod has passed; none with a period of 0, or from an unaddressed device. -/
def heartbeat (s : State) : State :=
  let p := getObj s dev Obj.heartbeatPeriod * 1000000
  if p = 0 ∨ nodeAddr s = 127 ∨ s.time.elapsed < s.field.lastBeat + p then s
  else
    sendFrame (frameId (getObj s dev Obj.eventPriority) 2 0 (nodeAddr s) 0 0)
      (leBytes 8 (frameHeader 16 0 0 0 0 0x11) ++ beatData s)
      { s with field := { s.field with lastBeat := s.time.elapsed } }

def execHeartbeat (s : State) : Res := run heartbeat s

/-! ## The protocol controller (R336) and address conflicts (R345) -/

/-- BUS_OFF: held multi-segment transactions are abandoned, and nothing can be sent. -/
def goBusOff (s : State) : State :=
  if s.field.busOff then s
  else
    setObj dev Obj.canErrorCounters (fld 16 2 2 + getObj s dev Obj.canErrorCounters % 2 ^ 16)
      (bump dev Obj.busOffEvents 1 { s with field := { s.field with busOff := true, trans := [] } })

def execBusOff (s : State) : Res := run goBusOff s

/-- BUS_OFF_RECOVERY: error-active, with both counts at zero. -/
def busOffRecovery (s : State) : State :=
  if s.field.busOff then
    setObj dev Obj.canErrorCounters 0 { s with field := { s.field with busOff := false } }
  else s

def execBusOffRecovery (s : State) : Res := run busOffRecovery s

/-- NODE_CONFLICT. -/
def nodeConflict (s : State) : State :=
  addLog dev 0x0A 1 stOk (nodeAddr s) 0 (bump dev Obj.nodeConflicts 1 s)

def execNodeConflict (s : State) : Res := run nodeConflict s

end Sys2Proof.Machine
end

