-- ==== Sys2Proof/Machine/RollCall.lean ====
section
/-! DEFINITION. Roll Call: how the device takes its node address from the coordinator (R343 to R345). -/

namespace Sys2Proof.Machine

open Sys2Proof

/-- Data bytes of a Roll Call op from the coordinator (R343). -/
def rollLength (op : Nat) : Nat := if op = 0x23 then 9 else if op = 0x25 then 0 else 1

/-- A Roll Call frame of the device: kind 3 to the coordinator, with the tag and priority of the frame
it answers. -/
def sendRoll (id op : Nat) (d : List Nat) (s : State) : State :=
  sendFrame (frameId (idPrio id) 3 (getObj s dev Obj.coordinatorNode) (nodeAddr s) (idTag id) 0)
    (leBytes 8 (frameHeader d.length 0 0 0 0 op) ++ d) s

/-- ACK, with the address taken, or 0 for a refusal. -/
def sendAck (id addr : Nat) (s : State) : State := sendRoll id 0x24 [addr] s

/-- A Roll Call frame of a given op: accepted from CoordinatorNode to node 0; one of kind 0 is a request
whose kind does not agree with its op, answered by an addressed device with BAD_FORMAT (R339). -/
def rollFrame (op id : Nat) (l : List Nat) (f : List Nat → State → State) (s : State) : State :=
  let h := headerOf l
  if s.field.busOff ∨ l.length > 64 ∨ l.length < 8 ∨ hdOp h ≠ op ∨ idSeg id ≠ 0 then s
  else if idKind id = 0 then
    (if nodeAddr s ≠ 127 ∧ idDest id = nodeAddr s then sendAnswer id h ⟨stBadFormat, 0, []⟩ (accepted id s) else s)
  else if idKind id ≠ 3 ∨ idSrc id ≠ getObj s dev Obj.coordinatorNode ∨ idDest id ≠ 0 ∨ ¬ plainHeader h
      ∨ hdLength h ≠ rollLength op ∨ l.length < 8 + rollLength op then s
  else f ((l.drop 8).take (rollLength op)) (countEv dev 0x0100 0 1 (bump dev Obj.framesReceived 1 s))

/-- START, fresh mode: address, claim, roll_out and rights go. -/
def startFresh (s : State) : State :=
  setObj dev Obj.nodeAddress 127
    { s with field := { s.field with rollOut := false, claim := none, grants := [], nonces := [] } }

/-- START_FRESH. -/
def execStartFresh (id : BitVec 29) (frame : List Byte) (s : State) : Res :=
  run (rollFrame 0x20 id.toNat (byteNats frame) (fun d s => if d = [0] then startFresh s else s)) s
/-- START_FILL. -/
def execStartFill (id : BitVec 29) (frame : List Byte) (s : State) : Res :=
  run (rollFrame 0x20 id.toNat (byteNats frame) (fun _ s => s)) s

/-- R344 rule 5: an address that no device may take here. -/
def addressTaken (s : State) (a : Nat) : Bool :=
  decide (a = getObj s dev Obj.coordinatorNode ∨ (nodeAddr s ≠ 127 ∧ a = nodeAddr s))

/-- R344 rule 2: the device may claim. -/
def mayClaim (s : State) : Bool :=
  decide (nodeAddr s = 127) && s.field.rollIn && !s.field.rollOut && (claimHeld s).isNone

/-- OFFER of an address. -/
def offered (id a : Nat) (s : State) : State :=
  if a = 0 ∨ a > 126 then s
  else if nodeAddr s ≠ 127 then (if a = nodeAddr s then sendAck id 0 s else s)
  else if ¬ mayClaim s then s
  else if addressTaken s a then sendAck id 0 s
  else
    sendRoll id 0x22 (leBytes 8 Config.deviceSerial ++ [a])
      { s with field := { s.field with claim := some (a, s.time.elapsed + 10000000) } }

/-- OFFER; the operand `rollIn` says whether roll_in has been asserted for at least 1 µs. -/
def execOffer (id : BitVec 29) (frame : List Byte) (rollIn : Bool) (s : State) : Res :=
  run (fun s => rollFrame 0x21 id.toNat (byteNats frame) (fun d s => offered id.toNat (d.getD 0 0) s)
    { s with field := { s.field with rollIn := rollIn } }) s

/-- The device takes an address: roll_out is asserted before the ACK (R344 rule 3). -/
def takeAddress (id a : Nat) (s : State) : State :=
  sendAck id a (bump dev Obj.rollCallCount 1 (setObj dev Obj.nodeAddress a
    { s with field := { s.field with rollOut := true, claim := none } }))

/-- CONFIRM of an address for the device of a serial number. -/
def confirmed (id serial a : Nat) (s : State) : State :=
  if a = 0 ∨ a > 126 then s
  else if serial = Config.deviceSerial % 2 ^ 64 then
    (if addressTaken s a then sendAck id 0 { s with field := { s.field with claim := none } } else takeAddress id a s)
  else if nodeAddr s = a then sendAck id 0 s
  else s

/-- CONFIRM. -/
def execConfirm (id : BitVec 29) (frame : List Byte) (s : State) : Res :=
  run (rollFrame 0x23 id.toNat (byteNats frame) (fun d s => confirmed id.toNat (leNat (d.take 8)) (d.getD 8 0) s)) s

/-- CLAIM_LAPSE (R344 rule 4): no CONFIRM within 10 ms. -/
def claimLapse (s : State) : State :=
  if s.field.claim.isSome ∧ (claimHeld s).isNone then { s with field := { s.field with claim := none } } else s

def execClaimLapse (s : State) : Res := run claimLapse s

/-- END: the rules give it no effect on a device. -/
def execRollCallEnd (id : BitVec 29) (frame : List Byte) (s : State) : Res :=
  run (rollFrame 0x25 id.toNat (byteNats frame) (fun _ s => s)) s

end Sys2Proof.Machine
end

