-- ==== Sys2Proof/Machine/Dispatch.lean ====
section
/-! DEFINITION. One arm per command: its meaning. -/

namespace Sys2Proof.Machine

open Sys2Proof

/-- The effect of a command on everything but the queue of waiting commands. -/
def exec (i : Instr) (s : State) : Host.Outcome State Fault Refusal :=
  match i with
  -- Time
  | .timeBaseTick => Sys2Proof.Machine.execTimeBaseTick s
  | .timeBaseSet v => Sys2Proof.Machine.execTimeBaseSet v s
  | .referenceLost => Sys2Proof.Machine.execReferenceLost s
  | .referenceReturn => Sys2Proof.Machine.execReferenceReturn s
  | .speedWindowEnd t counts => Sys2Proof.Machine.execSpeedWindowEnd t counts s
  | .speedLowWaterClear t v => Sys2Proof.Machine.execSpeedLowWaterClear t v s
  | .guaranteeFloorWrite t v => Sys2Proof.Machine.execGuaranteeFloorWrite t v s
  | .meshHopCostWrite t v => Sys2Proof.Machine.execMeshHopCostWrite t v s
  -- Layer
  | .act t c w => Sys2Proof.Machine.execAct t c w s
  | .rd t c w => Sys2Proof.Machine.execRd t c w s
  | .wr t c w beats => Sys2Proof.Machine.execWr t c w beats s
  | .pre t c w => Sys2Proof.Machine.execPre t c w s
  | .prea t c w => Sys2Proof.Machine.execPrea t c w s
  | .ref t c w => Sys2Proof.Machine.execRef t c w s
  | .rcopy t c w arg => Sys2Proof.Machine.execRcopy t c w arg s
  | .rfill t c w arg => Sys2Proof.Machine.execRfill t c w arg s
  | .mrw t c w v => Sys2Proof.Machine.execMrw t c w v s
  | .mrr t c w => Sys2Proof.Machine.execMrr t c w s
  | .trw t c w => Sys2Proof.Machine.execTrw t c w s
  | .trr t c w => Sys2Proof.Machine.execTrr t c w s
  | .doneReport t c count => Sys2Proof.Machine.execDoneReport t c count s
  | .readDataArrival t c => Sys2Proof.Machine.execReadDataArrival t c s
  -- Protection
  | .migrationComplete t c => Sys2Proof.Machine.execMigrationComplete t c s
  | .watchEntryExpiry t slot => Sys2Proof.Machine.execWatchEntryExpiry t slot s
  | .retireRow t v => Sys2Proof.Machine.execRetireRow t v s
  | .errorInjectFlipOne t v => Sys2Proof.Machine.execErrorInjectFlipOne t v s
  | .errorInjectFlipTwo t v => Sys2Proof.Machine.execErrorInjectFlipTwo t v s
  | .errorInjectPoison t v => Sys2Proof.Machine.execErrorInjectPoison t v s
  | .repairModeWrite t v => Sys2Proof.Machine.execRepairModeWrite t v s
  | .blotterAccess t c => Sys2Proof.Machine.execBlotterAccess t c s
  | .scrubOverdue t c => Sys2Proof.Machine.execScrubOverdue t c s
  | .fillPatternWrite t v => Sys2Proof.Machine.execFillPatternWrite t v s
  | .translateAddress t v => Sys2Proof.Machine.execTranslateAddress t v s
  | .untranslateRequest t v => Sys2Proof.Machine.execUntranslateRequest t v s
  | .channelDisableWrite t c v => Sys2Proof.Machine.execChannelDisableWrite t c v s
  -- Requests
  | .requestBeat t src hdr beat poison => Sys2Proof.Machine.execRequestBeat t src hdr beat poison s
  | .requestAccept t src hdr beat poison => Sys2Proof.Machine.execRequestAccept t src hdr beat poison s
  | .ingressStallRelease t q passFifo => Sys2Proof.Machine.execIngressStallRelease t q passFifo s
  | .deferredWorkEntry t c write => Sys2Proof.Machine.execDeferredWorkEntry t c write s
  | .barrierRelease t q => Sys2Proof.Machine.execBarrierRelease t q s
  | .farRequestArrival t src => Sys2Proof.Machine.execFarRequestArrival t src s
  | .farResponseArrival t owner => Sys2Proof.Machine.execFarResponseArrival t owner s
  | .channelPick t c => Sys2Proof.Machine.execChannelPick t c s
  | .openRowIdlePrecharge t c b => Sys2Proof.Machine.execOpenRowIdlePrecharge t c b s
  | .mergeHoldFlush t slot => Sys2Proof.Machine.execMergeHoldFlush t slot s
  | .responseOffer t id => Sys2Proof.Machine.execResponseOffer t id s
  | .mergeEnableWrite t v => Sys2Proof.Machine.execMergeEnableWrite t v s
  | .mergeHoldLimitWrite t v => Sys2Proof.Machine.execMergeHoldLimitWrite t v s
  | .classQuantumWrite t k v => Sys2Proof.Machine.execClassQuantumWrite t k v s
  | .requestOverheadWrite t v => Sys2Proof.Machine.execRequestOverheadWrite t v s
  | .passReserveWrite t write v => Sys2Proof.Machine.execPassReserveWrite t write v s
  -- Passes
  | .passRequest t contract => Sys2Proof.Machine.execPassRequest t contract s
  | .passProbe t contract => Sys2Proof.Machine.execPassProbe t contract s
  | .passRelease t v => Sys2Proof.Machine.execPassRelease t v s
  | .passRegrant t v => Sys2Proof.Machine.execPassRegrant t v s
  | .passReturnLive t p => Sys2Proof.Machine.execPassReturnLive t p s
  | .passBandWrite t v => Sys2Proof.Machine.execPassBandWrite t v s
  -- Regulation
  | .rangeRegisterWrite t idx v => Sys2Proof.Machine.execRangeRegisterWrite t idx v s
  | .rangeDefaultWrite t v => Sys2Proof.Machine.execRangeDefaultWrite t v s
  | .regulationModeWrite t v => Sys2Proof.Machine.execRegulationModeWrite t v s
  | .queueSample t => Sys2Proof.Machine.execQueueSample t s
  | .sampleClear t v => Sys2Proof.Machine.execSampleClear t v s
  | .timetableCommit t v => Sys2Proof.Machine.execTimetableCommit t v s
  | .timetableStart t => Sys2Proof.Machine.execTimetableStart t s
  | .gateChange t => Sys2Proof.Machine.execGateChange t s
  | .timetableEnableWrite t v => Sys2Proof.Machine.execTimetableEnableWrite t v s
  | .tokenGrant t target => Sys2Proof.Machine.execTokenGrant t target s
  -- Engines
  | .engineTailWrite t e v => Sys2Proof.Machine.execEngineTailWrite t e v s
  | .engineEnableWrite t e v => Sys2Proof.Machine.execEngineEnableWrite t e v s
  | .engineQueueConfigWrite t e size v => Sys2Proof.Machine.execEngineQueueConfigWrite t e size v s
  | .descriptorFetch t e => Sys2Proof.Machine.execDescriptorFetch t e s
  | .loadw t e => Sys2Proof.Machine.execLoadw t e s
  | .stream t e => Sys2Proof.Machine.execStream t e s
  | .streamResume t e => Sys2Proof.Machine.execStreamResume t e s
  | .drain t e fault => Sys2Proof.Machine.execDrain t e fault s
  | .exp t e faults => Sys2Proof.Machine.execExp t e faults s
  | .exp2 t e faults => Sys2Proof.Machine.execExp2 t e faults s
  | .max t e faults => Sys2Proof.Machine.execMax t e faults s
  | .max2 t e faults => Sys2Proof.Machine.execMax2 t e faults s
  | .sum t e faults => Sys2Proof.Machine.execSum t e faults s
  | .scale t e faults => Sys2Proof.Machine.execScale t e faults s
  | .topk t e faults => Sys2Proof.Machine.execTopk t e faults s
  | .smacc t e faults => Sys2Proof.Machine.execSmacc t e faults s
  | .smfin t e faults => Sys2Proof.Machine.execSmfin t e faults s
  | .gather t e => Sys2Proof.Machine.execGather t e s
  | .copy t e => Sys2Proof.Machine.execCopy t e s
  | .convert t e => Sys2Proof.Machine.execConvert t e s
  | .convertSplit t e => Sys2Proof.Machine.execConvertSplit t e s
  | .convertPairAdd t e => Sys2Proof.Machine.execConvertPairAdd t e s
  | .convertPairSubtract t e => Sys2Proof.Machine.execConvertPairSubtract t e s
  | .fence t e => Sys2Proof.Machine.execFence t e s
  | .wait t e => Sys2Proof.Machine.execWait t e s
  | .waitTimeout t e => Sys2Proof.Machine.execWaitTimeout t e s
  | .signalAdd t e => Sys2Proof.Machine.execSignalAdd t e s
  | .signalSet t e => Sys2Proof.Machine.execSignalSet t e s
  | .signalRemoteApply t => Sys2Proof.Machine.execSignalRemoteApply t s
  | .semaphoreWrite t idx v => Sys2Proof.Machine.execSemaphoreWrite t idx v s
  | .hint t e => Sys2Proof.Machine.execHint t e s
  | .hintLoadNotice t idx => Sys2Proof.Machine.execHintLoadNotice t idx s
  | .preemptYieldPoint t e => Sys2Proof.Machine.execPreemptYieldPoint t e s
  | .preemptRequestPoint t e => Sys2Proof.Machine.execPreemptRequestPoint t e s
  | .preemptRequest t v => Sys2Proof.Machine.execPreemptRequest t v s
  | .preemptSaveDone t a => Sys2Proof.Machine.execPreemptSaveDone t a s
  | .engineYield t e v => Sys2Proof.Machine.execEngineYield t e v s
  | .arrayStep t a fault => Sys2Proof.Machine.execArrayStep t a fault s
  | .arrayUnfence t a v => Sys2Proof.Machine.execArrayUnfence t a v s
  | .saveAreaBaseWrite t a v => Sys2Proof.Machine.execSaveAreaBaseWrite t a v s
  | .descriptorComplete t e => Sys2Proof.Machine.execDescriptorComplete t e s
  | .completionConsumedWrite t e v => Sys2Proof.Machine.execCompletionConsumedWrite t e v s
  | .moverRequestResponse t m status offset hint => Sys2Proof.Machine.execMoverRequestResponse t m status offset hint s
  | .moverRetryResend t m => Sys2Proof.Machine.execMoverRetryResend t m s
  | .engineResumeContinue t e => Sys2Proof.Machine.execEngineResumeContinue t e s
  | .engineResumeRerun t e => Sys2Proof.Machine.execEngineResumeRerun t e s
  | .engineResumeSaveArea t e => Sys2Proof.Machine.execEngineResumeSaveArea t e s
  | .engineResumeAbort t e => Sys2Proof.Machine.execEngineResumeAbort t e s
  | .engineResumeReplace t e => Sys2Proof.Machine.execEngineResumeReplace t e s
  -- BlockMap
  | .resolution t q addr len write data => Sys2Proof.Machine.execResolution t q addr len write data s
  | .copyOnWriteComplete t entry => Sys2Proof.Machine.execCopyOnWriteComplete t entry s
  | .forwardedResolution t src => Sys2Proof.Machine.execForwardedResolution t src s
  | .fillComplete t entry status data => Sys2Proof.Machine.execFillComplete t entry status data s
  | .spillComplete t entry status => Sys2Proof.Machine.execSpillComplete t entry status s
  | .nextLevelTimeout t entry => Sys2Proof.Machine.execNextLevelTimeout t entry s
  | .blockClearComplete t block => Sys2Proof.Machine.execBlockClearComplete t block s
  | .alloc t v => Sys2Proof.Machine.execAlloc t v s
  | .share t v => Sys2Proof.Machine.execShare t v s
  | .release t v => Sys2Proof.Machine.execRelease t v s
  | .pin t v => Sys2Proof.Machine.execPin t v s
  | .unpin t v => Sys2Proof.Machine.execUnpin t v s
  | .farmap t v => Sys2Proof.Machine.execFarmap t v s
  | .sethome t v => Sys2Proof.Machine.execSethome t v s
  | .spill t v => Sys2Proof.Machine.execSpill t v s
  | .publish t v => Sys2Proof.Machine.execPublish t v s
  | .unpublish t v => Sys2Proof.Machine.execUnpublish t v s
  | .lookup t v => Sys2Proof.Machine.execLookup t v s
  | .adopt t v => Sys2Proof.Machine.execAdopt t v s
  | .adoptlist t v => Sys2Proof.Machine.execAdoptlist t v s
  | .mapRead t v => Sys2Proof.Machine.execMapRead t v s
  | .relocate t v => Sys2Proof.Machine.execRelocate t v s
  | .mapSwitch t v => Sys2Proof.Machine.execMapSwitch t v s
  | .mapSwitchApply t => Sys2Proof.Machine.execMapSwitchApply t s
  | .poolConfigWrite t which v => Sys2Proof.Machine.execPoolConfigWrite t which v s
  -- Thermal
  | .thermalSample t readings => Sys2Proof.Machine.execThermalSample t readings s
  | .tripRestart => Sys2Proof.Machine.execTripRestart s
  | .tripRelease v => Sys2Proof.Machine.execTripRelease v s
  | .riseCheck t => Sys2Proof.Machine.execRiseCheck t s
  | .recessWindowOpen t c => Sys2Proof.Machine.execRecessWindowOpen t c s
  | .recessMinBandWrite t v => Sys2Proof.Machine.execRecessMinBandWrite t v s
  | .calibrationStart t c => Sys2Proof.Machine.execCalibrationStart t c s
  | .calibrationRunEnd t c trims edge => Sys2Proof.Machine.execCalibrationRunEnd t c trims edge s
  | .gradualTrimStep t c => Sys2Proof.Machine.execGradualTrimStep t c s
  -- Power
  | .railReport w => Sys2Proof.Machine.execRailReport w s
  | .railTelemetryLost rail => Sys2Proof.Machine.execRailTelemetryLost rail s
  | .rawEstimate t counts parts queues => Sys2Proof.Machine.execRawEstimate t counts parts queues s
  | .powerSliceEnd => Sys2Proof.Machine.execPowerSliceEnd s
  | .powerWindowEnd => Sys2Proof.Machine.execPowerWindowEnd s
  | .voltageStepSettled t => Sys2Proof.Machine.execVoltageStepSettled t s
  | .vidCommandAck rail => Sys2Proof.Machine.execVidCommandAck rail s
  | .supplyWarningCrossing rail mv => Sys2Proof.Machine.execSupplyWarningCrossing rail mv s
  | .holdExit t => Sys2Proof.Machine.execHoldExit t s
  | .supplyResetCrossing rail mv => Sys2Proof.Machine.execSupplyResetCrossing rail mv s
  | .powerModeWrite t fixed v => Sys2Proof.Machine.execPowerModeWrite t fixed v s
  | .powerCapWrite v => Sys2Proof.Machine.execPowerCapWrite v s
  | .energyMarkOpen mk v => Sys2Proof.Machine.execEnergyMarkOpen mk v s
  | .energyMarkClose mk => Sys2Proof.Machine.execEnergyMarkClose mk s
  | .attributionModeWrite v => Sys2Proof.Machine.execAttributionModeWrite v s
  | .estimatorRecalibrate v => Sys2Proof.Machine.execEstimatorRecalibrate v s
  | .estimatorFitDone factors => Sys2Proof.Machine.execEstimatorFitDone factors s
  -- Dictionary
  | .gnongeRead id frame => Sys2Proof.Machine.execGnongeRead id frame s
  | .gnongeWrite id frame => Sys2Proof.Machine.execGnongeWrite id frame s
  | .describe id frame => Sys2Proof.Machine.execDescribe id frame s
  | .unlockBegin id frame => Sys2Proof.Machine.execUnlockBegin id frame s
  | .unlockProve id frame => Sys2Proof.Machine.execUnlockProve id frame s
  | .logout id frame => Sys2Proof.Machine.execLogout id frame s
  | .transactionTimeout node tag => Sys2Proof.Machine.execTransactionTimeout node tag s
  | .rightsLeaseExpiry node => Sys2Proof.Machine.execRightsLeaseExpiry node s
  | .heartbeat => Sys2Proof.Machine.execHeartbeat s
  | .windowRead t v rights => Sys2Proof.Machine.execWindowRead t v rights s
  | .windowWrite t v data rights => Sys2Proof.Machine.execWindowWrite t v data rights s
  | .windowDescribe t v rights => Sys2Proof.Machine.execWindowDescribe t v rights s
  | .startFresh id frame => Sys2Proof.Machine.execStartFresh id frame s
  | .startFill id frame => Sys2Proof.Machine.execStartFill id frame s
  | .offer id frame rollIn => Sys2Proof.Machine.execOffer id frame rollIn s
  | .confirm id frame => Sys2Proof.Machine.execConfirm id frame s
  | .claimLapse => Sys2Proof.Machine.execClaimLapse s
  | .rollCallEnd id frame => Sys2Proof.Machine.execRollCallEnd id frame s
  -- Mailbox
  | .sendPost t p host msg => Sys2Proof.Machine.execSendPost t p host msg s
  | .recvLatch t p host => Sys2Proof.Machine.execRecvLatch t p host s
  | .ackRead t p host => Sys2Proof.Machine.execAckRead t p host s
  | .recvTake t p host v => Sys2Proof.Machine.execRecvTake t p host v s
  | .doorbellClear t side v => Sys2Proof.Machine.execDoorbellClear t side v s
  | .doorbellSet t side v => Sys2Proof.Machine.execDoorbellSet t side v s
  | .mailboxAckTimeout t p host => Sys2Proof.Machine.execMailboxAckTimeout t p host s
  | .mailboxClear t p v => Sys2Proof.Machine.execMailboxClear t p v s
  | .configPortReset t => Sys2Proof.Machine.execConfigPortReset t s
  | .processorTrap proc pc cause => Sys2Proof.Machine.execProcessorTrap proc pc cause s
  | .segmentPost t bytes => Sys2Proof.Machine.execSegmentPost t bytes s
  | .firmwareSegmentPiece bytes => Sys2Proof.Machine.execFirmwareSegmentPiece bytes s
  | .firmwareExpectImageWrite v => Sys2Proof.Machine.execFirmwareExpectImageWrite v s
  | .firmwareActivate v => Sys2Proof.Machine.execFirmwareActivate v s
  | .firmwareActivation => Sys2Proof.Machine.execFirmwareActivation s
  | .flashImageWritten => Sys2Proof.Machine.execFlashImageWritten s
  | .copybookProgramDone ok => Sys2Proof.Machine.execCopybookProgramDone ok s
  | .copybookCompact v => Sys2Proof.Machine.execCopybookCompact v s
  | .compactionComplete => Sys2Proof.Machine.execCompactionComplete s
  -- Resets
  | .powerOnReset => Sys2Proof.Machine.execPowerOnReset s
  | .deviceWarmReset v => Sys2Proof.Machine.execDeviceWarmReset v s
  | .bringupPhaseEnd => Sys2Proof.Machine.execBringupPhaseEnd s
  | .channelTrainingDone t c ok trims => Sys2Proof.Machine.execChannelTrainingDone t c ok trims s
  | .linkCheckDone t c => Sys2Proof.Machine.execLinkCheckDone t c s
  | .laneError t c lane => Sys2Proof.Machine.execLaneError t c lane s
  | .stackInitialisationDone t c => Sys2Proof.Machine.execStackInitialisationDone t c s
  | .partitionReset v => Sys2Proof.Machine.execPartitionReset v s
  | .partitionResetEnd => Sys2Proof.Machine.execPartitionResetEnd s
  | .tileShallowReset t => Sys2Proof.Machine.execTileShallowReset t s
  | .tileDeepReset t => Sys2Proof.Machine.execTileDeepReset t s
  | .tileResetEnd t => Sys2Proof.Machine.execTileResetEnd t s
  | .engineReset t v => Sys2Proof.Machine.execEngineReset t v s
  | .portReset t v => Sys2Proof.Machine.execPortReset t v s
  | .managementReset v => Sys2Proof.Machine.execManagementReset v s
  -- Counters
  | .counterSelectWrite t idx v => Sys2Proof.Machine.execCounterSelectWrite t idx v s
  | .counterValueWrite t idx v => Sys2Proof.Machine.execCounterValueWrite t idx v s
  | .counterFixedWrite t v => Sys2Proof.Machine.execCounterFixedWrite t v s
  | .reportCardSnapshot => Sys2Proof.Machine.execReportCardSnapshot s
  | .reportCardFreeze => Sys2Proof.Machine.execReportCardFreeze s
  | .reportCardThaw => Sys2Proof.Machine.execReportCardThaw s
  | .reportCardClear => Sys2Proof.Machine.execReportCardClear s
  | .reportCardApply => Sys2Proof.Machine.execReportCardApply s
  | .snapPinEdge rising => Sys2Proof.Machine.execSnapPinEdge rising s
  | .bandwidthWindowEnd t => Sys2Proof.Machine.execBandwidthWindowEnd t s
  | .preciseSampleControlWrite t v => Sys2Proof.Machine.execPreciseSampleControlWrite t v s
  | .troubleLogWrite unit v => Sys2Proof.Machine.execTroubleLogWrite unit v s
  -- Ports
  | .portGenerationWrite t p v => Sys2Proof.Machine.execPortGenerationWrite t p v s
  | .adapterClockLost t p => Sys2Proof.Machine.execAdapterClockLost t p s
  | .adapterClockReturn t p => Sys2Proof.Machine.execAdapterClockReturn t p s
  | .wsBypass t => Sys2Proof.Machine.execWsBypass t s
  | .wsExtest t => Sys2Proof.Machine.execWsExtest t s
  | .wsIntest t => Sys2Proof.Machine.execWsIntest t s
  | .mbist t => Sys2Proof.Machine.execMbist t s
  | .pacer t counts => Sys2Proof.Machine.execPacer t counts s
  | .laneprbs t mask => Sys2Proof.Machine.execLaneprbs t mask s
  | .trim t c idx write v => Sys2Proof.Machine.execTrim t c idx write v s
  | .registerWrite unit index sub rights scope data => Sys2Proof.Machine.execRegisterWrite unit index sub rights scope data s
  | .referenceEdgeInHoldover good => Sys2Proof.Machine.execReferenceEdgeInHoldover good s
  | .bookkeepingQuery t => Sys2Proof.Machine.execBookkeepingQuery t s
  | .bookkeepingAnswer t => Sys2Proof.Machine.execBookkeepingAnswer t s
  | .busOff => Sys2Proof.Machine.execBusOff s
  | .busOffRecovery => Sys2Proof.Machine.execBusOffRecovery s
  | .nodeConflict => Sys2Proof.Machine.execNodeConflict s
  | .responseBeatAck t src => Sys2Proof.Machine.execResponseBeatAck t src s
  | .stack1838Instruction code => Sys2Proof.Machine.execStack1838Instruction code s
  | .resetReportTimeout t c => Sys2Proof.Machine.execResetReportTimeout t c s

end Sys2Proof.Machine
end

