-- ==== Sys2Proof/Safety.lean ====
section
/-! DEFINITION. The words that statements are made of: what it is for a command to answer, to be turned
away, to write a register, and to leave parts of the block alone; and the invariants of the state. -/

namespace Sys2Proof.Machine

open Sys2Proof

/-- The command answers a next state, of which `P` holds. -/
def Answers (c : Instr) (s : State) (P : State → Prop) : Prop := ∃ s', exec c s = .next s' ∧ P s'

/-- The command is turned away with a status: its answer is all that changes. -/
def Refuses (c : Instr) (s : State) (st : Nat) : Prop := exec c s = .next { s with out := { status := st } }

/-- The command has no effect at this time: nothing changes but that the record of outputs is empty. -/
def NoEffect (c : Instr) (s : State) : Prop := exec c s = .next { s with out := {} }

/-- Every object but those of `K` (unit and key) reads as before. -/
def OtherObjects (s s' : State) (K : List (Nat × Nat)) : Prop :=
  ∀ u k, k < 2 ^ 24 → (u, k) ∉ K → getObj s' u k = getObj s u k

/-- Every word of the stack, and every Slate and Inkwell cell, reads as before. -/
def SameMemory (s s' : State) : Prop :=
  (∀ t c b row w, rawWord s' t c b row w = rawWord s t c b row w) ∧
  (∀ k, fget 0 s'.slate k = fget 0 s.slate k) ∧ (∀ k, fget 0 s'.inkwell k = fget 0 s.inkwell k)

/-- The command writes `v` to an object and answers OK: nothing but that object and the answer changes. -/
def WritesObj (c : Instr) (s : State) (u k v : Nat) : Prop :=
  Answers c s (fun s' => s'.out = { status := stOk } ∧ getObj s' u k = v ∧ OtherObjects s s' [(u, k)] ∧
    s' = { s with dict := s'.dict, out := s'.out })

/-- The command writes `v` to an object kept in the Copybook and answers OK: nothing changes but that
object, the answer, and the Copybook's queue or, when that is full, the device's trouble log. -/
def WritesRws (c : Instr) (s : State) (u k v : Nat) : Prop :=
  Answers c s (fun s' => s'.out = { status := stOk } ∧ getObj s' u k = v ∧
    OtherObjects s s' [(u, k), (dev, Obj.deviceLogDropped)] ∧
    s' = { s with
      dict := s'.dict, out := s'.out
      copy := { s.copy with queue := s'.copy.queue }
      count := { s.count with intake := s'.count.intake } })

/-- The layer of a channel sends one transfer up; the layers of the other channels are as before. -/
def SendsUp (s s' : State) (t c : Nat) (l : List Up) : Prop :=
  (getLayer s' t c).up = (getLayer s t c).up ++ l ∧
  ∀ k, k ≠ chKey t c → fget ({} : LayerS) s'.layer k = fget {} s.layer k

/-- Every bank but bank `b` of channel `c` of tile `t` is as before. -/
def OtherBanks (s s' : State) (t c b : Nat) : Prop :=
  ∀ k, k ≠ bkKey t c b → fget .closed s'.bank k = fget .closed s.bank k

/-- An operation word that its layer takes: even parity, the marker clear, the opcode given (R45, R47). -/
def opWordOk (w op : Nat) : Prop := onesCount w % 2 = 0 ∧ wMarker w = false ∧ wOpcode w = op

/-- A row word that its layer takes, of bank `b` and physical row `r` (R45, R46). -/
def rowWordOk (w b r : Nat) : Prop :=
  onesCount w % 2 = 0 ∧ wMarker w = true ∧ wRowBank w = b ∧ wRow w = some r

/-- What names a request: its number, requester, source, tag, address, length and direction. -/
def reqKey (r : Req) : Nat × Nat × Nat × Nat × Nat × Nat × Nat × Bool :=
  (r.id, r.requester, r.orig, r.source, r.tag, r.addr, r.len, r.write)

/-- The requests of a tile accepted and not yet answered. -/
def openReqs (s : State) (t : Nat) : List Req := (getSched s t).reqs

/-- The block map of a tile has no work at its ingress (R70). -/
def mapQuiet (s : State) (t : Nat) : Prop :=
  (getSched s t).mapPass = {} ∧ (getSched s t).mapBest = {} ∧ ∀ r ∈ openReqs s t, r.requester ≠ 0x60

/-- The engine may issue the descriptor at the front of those it fetched, and it passes every check (R213, R216). -/
def Issuable (s : State) (t e : Nat) (d : Desc) (rest : List Desc) : Prop :=
  (getEngine s t e).ready = d :: rest ∧ canIssue s t e d = true ∧ descOk s t e d.raw = true

/-- A descriptor as it starts (R213). -/
def begun (s : State) (d : Desc) : Desc := { d with start := s.time.elapsed, startTb := s.time.timeBase, started := true }

/-- The state in which an issued descriptor runs: it is taken from those fetched. -/
def taken (s : State) (t e : Nat) (rest : List Desc) : State :=
  modEngine t e (fun g => { g with ready := rest }) { s with out := {} }

/-- The engine took its front descriptor and holds it in progress as `d`; the other engines are as before. -/
def Ran (s s' : State) (t e : Nat) (rest : List Desc) (d : Desc) : Prop :=
  getEngine s' t e = { getEngine s t e with ready := rest, prog := (getEngine s t e).prog ++ [d] } ∧
  ∀ k, k ≠ t * 6 + e → fget ({} : EngineS) s'.engine k = fget {} s.engine k

/-- Every Slate byte but those of tile `t` whose offset is in `K` is as before. -/
def OtherSlate (s s' : State) (t : Nat) (K : Nat → Prop) : Prop :=
  ∀ t' o, o < slateSize → (t' ≠ t ∨ ¬ K o) → fget 0 s'.slate (t' * 2 ^ 23 + o) = fget 0 s.slate (t' * 2 ^ 23 + o)

/-- Every direction of a mailbox pair but direction `d` of pair `p` of tile `t` is as before. -/
def OtherMail (s s' : State) (t p d : Nat) : Prop :=
  ∀ k, k ≠ (t * 8 + p) * 2 + d → fget ({} : MDir) s'.mail k = fget {} s.mail k

/-- A doorbell bit of a side of a tile's pairs is set. -/
def rung (s : State) (t side b : Nat) : Bool := bit (getDoor s (doorTile t side) side).status b

/-- What the unread messages of a direction leave at its sender: an acknowledge of that status for each. -/
def handedBack (m : MDir) (st : Nat) : List AckE := m.slots.map (fun x => ⟨x.seq, 0, st⟩)

/-- Both directions of a pair after the reset of one of its sides, of which `snd` is the direction it sends in:
the messages it sent are withdrawn, those sent to it are handed back (R360, R361). -/
def SideWasReset (s s' : State) (t p snd : Nat) : Prop :=
  getMail s' t p snd = { getMail s t p snd with slots := [], acks := handedBack (getMail s t p snd) stResetWithdrawn } ∧
  getMail s' t p (1 - snd) = { getMail s t p (1 - snd) with
    slots := [], acks := (getMail s t p (1 - snd)).acks ++ handedBack (getMail s t p (1 - snd)) stReceiverReset }

/-- The staging SRAM holds a verified image of the version that runs (R352). -/
def stagedRuns (s : State) : Bool :=
  match s.firm.header, s.firm.runningHeader with
  | some h, some r => decide (shVersion h = shVersion r) && stagedOk s h (shImageCrc h)
  | _, _ => false

/-- The management unit was reset: away for 5 ms, nothing scheduled, its mailbox sides reset at every tile (R383). -/
def ManagementWasReset (s s' : State) : Prop :=
  s'.field.mgmtUntil = s.time.elapsed + 5000000 ∧ s'.firm.scheduled = none ∧ s'.firm.nextPiece = 0 ∧
  getObj s' dev Obj.managementEpoch = (getObj s dev Obj.managementEpoch + 1) % 64 ∧
  ∀ t < 64, ∀ p, 6 ≤ p → p < 8 → SideWasReset s s' t p 1

/-- It restarted from staging, else from flash, else it waits for an image (R352, R367). -/
def ManagementRestarted (s s' : State) : Prop :=
  (stagedRuns s = true → s'.firm.runningHeader = s.firm.runningHeader ∧
    getObj s' dev Obj.firmwareState = if s.firm.activated then 1 else 0) ∧
  (stagedRuns s = false → flashOk s = true → s'.firm.runningHeader = s.firm.flashHeader ∧
    s'.firm.activated = false ∧ getObj s' dev Obj.firmwareState = 0) ∧
  (stagedRuns s = false → flashOk s = false → s'.firm.runningHeader = none ∧ getObj s' dev Obj.firmwareState = 2)

/-- The commands that move the time: ticks, and the resets of the whole device by power or supply. -/
def movesTime (c : Instr) : Prop :=
  c = .timeBaseTick ∨ c = .powerOnReset ∨ ∃ r mv, 64 ≤ (r : RailN).val ∧ c = .supplyResetCrossing r mv

/-! ## Invariants -/

/-- The stack's memory is in its canonical form: rising keys, no word equal to what an unlisted one reads as. -/
def memoryWf (s : State) : Bool := fwf (dramBase s) s.dram

/-- The time base and the time passed are whole ticks of 10 ns (R22). -/
def timeWf (s : State) : Bool := decide (s.time.timeBase % 10 = 0 ∧ s.time.elapsed % 10 = 0)

end Sys2Proof.Machine
end

