-- ==== Sys2Proof/WellFormed.lean ====
section
/-! DEFINITION. Well-formed commands: where the type of an operand is wider than what the interface can
carry, the lengths and values it can carry. A meaning is total; these are the forms a sender can send. -/

namespace Sys2Proof

/-- The FD data lengths of ISO 11898-1 (Table 13.4): every one from 0 to 64 bytes is accepted. -/
def fdLength (n : Nat) : Bool := decide (n ≤ 8) || [12, 16, 20, 24, 32, 48, 64].contains n

/-- At most two runs of a VOP meet a residue mismatch, each at check point 0x10 or 0x11 (R172). -/
def vopFaults (l : List (BitVec 8)) : Bool :=
  decide (l.length ≤ 2) && l.all (fun p => p == 0x10 || p == 0x11)

/-- Whether a command is well formed. -/
def Instr.wf : Instr → Bool
  | .timeBaseTick => true
  | .timeBaseSet _ => true
  | .referenceLost => true
  | .referenceReturn => true
  | .speedWindowEnd _ counts => decide (counts.length = 12)
  | .speedLowWaterClear _ _ => true
  | .guaranteeFloorWrite _ _ => true
  | .meshHopCostWrite _ _ => true
  | .act _ _ _ => true
  | .rd _ _ _ => true
  | .wr _ _ w beats => decide (beats.length = if w.getLsbD 4 then 4 else 2)
  | .pre _ _ _ => true
  | .prea _ _ _ => true
  | .ref _ _ _ => true
  | .rcopy _ _ _ _ => true
  | .rfill _ _ _ _ => true
  | .mrw _ _ _ _ => true
  | .mrr _ _ _ => true
  | .trw _ _ _ => true
  | .trr _ _ _ => true
  | .doneReport _ _ _ => true
  | .readDataArrival _ _ => true
  | .migrationComplete _ _ => true
  | .watchEntryExpiry _ _ => true
  | .retireRow _ _ => true
  | .errorInjectFlipOne _ _ => true
  | .errorInjectFlipTwo _ _ => true
  | .errorInjectPoison _ _ => true
  | .repairModeWrite _ _ => true
  | .blotterAccess _ _ => true
  | .scrubOverdue _ _ => true
  | .fillPatternWrite _ _ => true
  | .translateAddress _ _ => true
  | .untranslateRequest _ _ => true
  | .channelDisableWrite _ _ _ => true
  | .requestBeat _ _ _ _ _ => true
  | .requestAccept _ _ _ _ _ => true
  | .ingressStallRelease _ _ _ => true
  | .deferredWorkEntry _ _ _ => true
  | .barrierRelease _ _ => true
  | .farRequestArrival _ _ => true
  | .farResponseArrival _ _ => true
  | .channelPick _ _ => true
  | .openRowIdlePrecharge _ _ _ => true
  | .mergeHoldFlush _ _ => true
  | .responseOffer _ _ => true
  | .mergeEnableWrite _ _ => true
  | .mergeHoldLimitWrite _ _ => true
  | .classQuantumWrite _ _ _ => true
  | .requestOverheadWrite _ _ => true
  | .passReserveWrite _ _ _ => true
  | .passRequest _ _ => true
  | .passProbe _ _ => true
  | .passRelease _ _ => true
  | .passRegrant _ _ => true
  | .passReturnLive _ _ => true
  | .passBandWrite _ _ => true
  | .rangeRegisterWrite _ _ _ => true
  | .rangeDefaultWrite _ _ => true
  | .regulationModeWrite _ _ => true
  | .queueSample _ => true
  | .sampleClear _ _ => true
  | .timetableCommit _ _ => true
  | .timetableStart _ => true
  | .gateChange _ => true
  | .timetableEnableWrite _ _ => true
  | .tokenGrant _ _ => true
  | .engineTailWrite _ _ _ => true
  | .engineEnableWrite _ _ _ => true
  | .engineQueueConfigWrite _ _ _ _ => true
  | .descriptorFetch _ _ => true
  | .loadw _ _ => true
  | .stream _ _ => true
  | .streamResume _ _ => true
  | .drain _ _ _ => true
  | .exp _ _ faults => vopFaults faults
  | .exp2 _ _ faults => vopFaults faults
  | .max _ _ faults => vopFaults faults
  | .max2 _ _ faults => vopFaults faults
  | .sum _ _ faults => vopFaults faults
  | .scale _ _ faults => vopFaults faults
  | .topk _ _ faults => vopFaults faults
  | .smacc _ _ faults => vopFaults faults
  | .smfin _ _ faults => vopFaults faults
  | .gather _ _ => true
  | .copy _ _ => true
  | .convert _ _ => true
  | .convertSplit _ _ => true
  | .convertPairAdd _ _ => true
  | .convertPairSubtract _ _ => true
  | .fence _ _ => true
  | .wait _ _ => true
  | .waitTimeout _ _ => true
  | .signalAdd _ _ => true
  | .signalSet _ _ => true
  | .signalRemoteApply _ => true
  | .semaphoreWrite _ _ _ => true
  | .hint _ _ => true
  | .hintLoadNotice _ _ => true
  | .preemptYieldPoint _ _ => true
  | .preemptRequestPoint _ _ => true
  | .preemptRequest _ _ => true
  | .preemptSaveDone _ _ => true
  | .engineYield _ _ _ => true
  | .arrayStep _ _ _ => true
  | .arrayUnfence _ _ _ => true
  | .saveAreaBaseWrite _ _ _ => true
  | .descriptorComplete _ _ => true
  | .completionConsumedWrite _ _ _ => true
  | .moverRequestResponse _ _ _ _ _ => true
  | .moverRetryResend _ _ => true
  | .engineResumeContinue _ _ => true
  | .engineResumeRerun _ _ => true
  | .engineResumeSaveArea _ _ => true
  | .engineResumeAbort _ _ => true
  | .engineResumeReplace _ _ => true
  | .resolution _ _ _ len write data => decide (data.length = if write then len.toNat else 0)
  | .copyOnWriteComplete _ _ => true
  | .forwardedResolution _ _ => true
  | .fillComplete _ _ _ data => decide (data.length ≤ 262144)
  | .spillComplete _ _ _ => true
  | .nextLevelTimeout _ _ => true
  | .blockClearComplete _ _ => true
  | .alloc _ _ => true
  | .share _ _ => true
  | .release _ _ => true
  | .pin _ _ => true
  | .unpin _ _ => true
  | .farmap _ _ => true
  | .sethome _ _ => true
  | .spill _ _ => true
  | .publish _ _ => true
  | .unpublish _ _ => true
  | .lookup _ _ => true
  | .adopt _ _ => true
  | .adoptlist _ _ => true
  | .mapRead _ _ => true
  | .relocate _ _ => true
  | .mapSwitch _ _ => true
  | .mapSwitchApply _ => true
  | .poolConfigWrite _ _ _ => true
  | .thermalSample _ readings => decide (readings.length = 30)
  | .tripRestart => true
  | .tripRelease _ => true
  | .riseCheck _ => true
  | .recessWindowOpen _ _ => true
  | .recessMinBandWrite _ _ => true
  | .calibrationStart _ _ => true
  | .calibrationRunEnd _ _ trims _ => decide (trims.length = 11)
  | .gradualTrimStep _ _ => true
  | .railReport _ => true
  | .railTelemetryLost _ => true
  | .rawEstimate _ _ _ _ => true
  | .powerSliceEnd => true
  | .powerWindowEnd => true
  | .voltageStepSettled _ => true
  | .vidCommandAck _ => true
  | .supplyWarningCrossing _ mv => decide (mv < 4096)
  | .holdExit _ => true
  | .supplyResetCrossing _ mv => decide (mv < 4096)
  | .powerModeWrite _ _ _ => true
  | .powerCapWrite _ => true
  | .energyMarkOpen _ _ => true
  | .energyMarkClose _ => true
  | .attributionModeWrite _ => true
  | .estimatorRecalibrate _ => true
  | .estimatorFitDone factors => decide (factors.length = 5)
  | .gnongeRead _ frame => fdLength frame.length
  | .gnongeWrite _ frame => fdLength frame.length
  | .describe _ frame => fdLength frame.length
  | .unlockBegin _ frame => fdLength frame.length
  | .unlockProve _ frame => fdLength frame.length
  | .logout _ frame => fdLength frame.length
  | .transactionTimeout _ _ => true
  | .rightsLeaseExpiry _ => true
  | .heartbeat => true
  | .windowRead _ _ _ => true
  | .windowWrite _ v data _ => decide (data.length = (v.extractLsb' 21 11).toNat)
  | .windowDescribe _ _ _ => true
  | .startFresh _ frame => fdLength frame.length
  | .startFill _ frame => fdLength frame.length
  | .offer _ frame _ => fdLength frame.length
  | .confirm _ frame => fdLength frame.length
  | .claimLapse => true
  | .rollCallEnd _ frame => fdLength frame.length
  | .sendPost _ _ _ _ => true
  | .recvLatch _ _ _ => true
  | .ackRead _ _ _ => true
  | .recvTake _ _ _ _ => true
  | .doorbellClear _ _ _ => true
  | .doorbellSet _ _ _ => true
  | .mailboxAckTimeout _ _ _ => true
  | .mailboxClear _ _ _ => true
  | .configPortReset _ => true
  | .processorTrap _ _ _ => true
  | .segmentPost _ bytes => decide (64 < bytes.length ∧ bytes.length ≤ 4160)
  | .firmwareSegmentPiece bytes => decide (bytes.length = 528)
  | .firmwareExpectImageWrite _ => true
  | .firmwareActivate _ => true
  | .firmwareActivation => true
  | .flashImageWritten => true
  | .copybookProgramDone _ => true
  | .copybookCompact _ => true
  | .compactionComplete => true
  | .powerOnReset => true
  | .deviceWarmReset _ => true
  | .bringupPhaseEnd => true
  | .channelTrainingDone _ _ _ trims => decide (trims.length = 11) && trims.all (fun x => decide (x < 256))
  | .linkCheckDone _ _ => true
  | .laneError _ _ _ => true
  | .stackInitialisationDone _ _ => true
  | .partitionReset _ => true
  | .partitionResetEnd => true
  | .tileShallowReset _ => true
  | .tileDeepReset _ => true
  | .tileResetEnd _ => true
  | .engineReset _ _ => true
  | .portReset _ _ => true
  | .managementReset _ => true
  | .counterSelectWrite _ _ _ => true
  | .counterValueWrite _ _ _ => true
  | .counterFixedWrite _ _ => true
  | .reportCardSnapshot => true
  | .reportCardFreeze => true
  | .reportCardThaw => true
  | .reportCardClear => true
  | .reportCardApply => true
  | .snapPinEdge _ => true
  | .bandwidthWindowEnd _ => true
  | .preciseSampleControlWrite _ _ => true
  | .troubleLogWrite _ _ => true
  | .portGenerationWrite _ _ _ => true
  | .adapterClockLost _ _ => true
  | .adapterClockReturn _ _ => true
  | .wsBypass _ => true
  | .wsExtest _ => true
  | .wsIntest _ => true
  | .mbist _ => true
  | .pacer _ counts => decide (counts.length = 12)
  | .laneprbs _ _ => true
  | .trim _ _ _ _ _ => true
  | .registerWrite _ _ _ _ _ data => decide (data.length ≤ 1016)
  | .referenceEdgeInHoldover _ => true
  | .bookkeepingQuery _ => true
  | .bookkeepingAnswer _ => true
  | .busOff => true
  | .busOffRecovery => true
  | .nodeConflict => true
  | .responseBeatAck _ _ => true
  | .stack1838Instruction _ => true
  | .resetReportTimeout _ _ => true

end Sys2Proof
end

