-- ==== Sys2Proof/Certificates/Slice0/Obligations.lean ====
section
/-! DEFINITION. The statements for the provers, group by group of the commands. -/

open Sys2Proof Sys2Proof.Machine

/-! ## The queue, the time, the whole block -/

/-- The block takes the command at the front of its queue, and its effect leaves the rest of the queue.
What it takes from the model's readings and choices: assumption 1. -/
def Obligations.StepTakesTheFrontCommand : Prop :=
  ∀ (c : Instr) (s : State) (rest : List Instr), s.pending = c :: rest →
    step s = exec c { s with pending := rest }

/-- With no command waiting the block idles: a convention of the model (DESIGN CHOICE, assumption 3).
What it takes from the model's readings and choices: assumption 3. -/
def Obligations.StepIdlesOnAnEmptyQueue : Prop :=
  ∀ s : State, s.pending = [] → step s = .next s

/-- No command stops the block: each answers a next state, and leaves the queue of waiting commands alone.
The time passed goes on by 10 ns at a tick, and at no other command but a power-on.
What it takes from the model's readings and choices: assumptions 1, 4, 7, 8. -/
def Obligations.EveryCommandAnswers : Prop :=
  ∀ (c : Instr) (s : State), ∃ s', exec c s = .next s' ∧ s'.pending = s.pending ∧
    (¬ movesTime c → s'.time.elapsed = s.time.elapsed) ∧ (c = .timeBaseTick → s'.time.elapsed = s.time.elapsed + 10)

/-- R24: the time base resets to zero at power-on (a supply reset of the device is one, R318). No other command but a
tick changes it: no warm, partition, tile or lesser reset, and no TimeBaseSet before its tick. -/
def Obligations.OnlyTicksAndPowerOnMoveTheTime : Prop :=
  (∀ (c : Instr) (s s' : State), exec c s = .next s' → ¬ movesTime c →
    s'.time.timeBase = s.time.timeBase) ∧
  (∀ s : State, Answers .powerOnReset s (fun s' => s'.time.timeBase = 0))

/-- The time base and the time passed stay whole ticks of 10 ns in every step (R22, R24, R26).
What it takes from the model's readings and choices: assumptions 8, 9. -/
def Obligations.StepKeepsWholeTicks : Prop :=
  ∀ s s' : State, timeWf s = true → step s = .next s' → timeWf s' = true

/-- R24, R326, R377: at the release of mgt_por_n the time base is 0, every object reads its default, no
command waits, and bring-up is in phase 1.
At reset the time is a whole number of ticks, and the stack's memory is canonical.
What it takes from the model's readings and choices: assumptions 12, 13, 14, 39. -/
def Obligations.ResetState : Prop :=
  (State.reset.pending = [] ∧ State.reset.time.timeBase = 0 ∧
   (∀ u k, getObj State.reset u k = objDefault k) ∧
   getObj State.reset dev Obj.bringupPhase = 1 ∧ State.reset.passes = [] ∧ State.reset.dram = []) ∧
  (timeWf State.reset = true ∧ memoryWf State.reset = true)

/-- R22, R26: a tick advances the time base by 10 ns, or loads the value written to TimeBaseSet, and the
stack's memory stays as it is; so do the Slate and the Inkwells where every SRAM word stands as it was stored.
R26: TimeBaseSet holds its value for the next tick; a value that is no multiple of 10 ns is refused with
BAD_FORMAT, and one that would move live passes or a running Timetable back, or ahead by over 1 ms, with
RETRY; nothing else changes. -/
def Obligations.ReferenceTime : Prop :=
  (∀ s : State,
     (s.time.setPending = none → s.time.timeBase + 16 < 2 ^ 64 →
       Answers .timeBaseTick s (fun s' => s'.time.timeBase = s.time.timeBase + 10 ∧
         s'.time.setPending = none ∧ (∀ t c b row w, rawWord s' t c b row w = rawWord s t c b row w) ∧
         (s.sramErr = [] → SameMemory s s'))) ∧
     (∀ n, s.time.setPending = some n →
       Answers .timeBaseTick s (fun s' => s'.time.timeBase = 10 * n ∧
         s'.time.setPending = none ∧ (∀ t c b row w, rawWord s' t c b row w = rawWord s t c b row w) ∧
         (s.sramErr = [] → SameMemory s s')))) ∧
  (∀ (v : BitVec 64) (s : State),
     (v.toNat % 10 ≠ 0 → Refuses (.timeBaseSet v) s stBadFormat) ∧
     (v.toNat % 10 = 0 → (anyLive s = true ∨ ttRuns s = true) →
       (v.toNat < s.time.timeBase ∨ s.time.timeBase + 1000000 < v.toNat) → Refuses (.timeBaseSet v) s stRetry) ∧
     (v.toNat % 10 = 0 →
       ((anyLive s = false ∧ ttRuns s = false) ∨ (s.time.timeBase ≤ v.toNat ∧ v.toNat ≤ s.time.timeBase + 1000000)) →
       exec (.timeBaseSet v) s = .next { s with
         time := { s.time with setPending := some (v.toNat / 10) }, out := { status := stOk } }))

/-! ## Registers of the memory side -/

/-- R35, R36: GuaranteeFloor takes 500 to 950 thousandths (at most 750 on an SLP-2 stack, R417) and
MeshHopCost 500 to 20,000 ps; a value outside is refused with BAD_FORMAT, and a write that a live pass of
the tile stands against with RETRY. R118: PassBand, 0 to 3, stays as it is in the same way while a pass of the tile is live.
R76, R92: ClassQuantum and RequestOverhead keep every quantum at or above max(64 + RequestOverhead,
4 × RequestOverhead), and with ReadPassReserve and WritePassReserve they stay as they are while a pass is live
in the tile.
Registers that are only checked for range, refused with BAD_FORMAT outside it: MergeHoldLimit (R90), whose new
value is in force from the next tick, RegulationMode (R129), PowerCap (R315). -/
def Obligations.RangedRegisterWrites : Prop :=
  ((∀ (t : TileN) (v : BitVec 16) (s : State),
     (¬ (500 ≤ v.toNat ∧ v.toNat ≤ 950) → Refuses (.guaranteeFloorWrite t v) s stBadFormat) ∧
     (750 < v.toNat → getObj s dev Obj.stackInterface = 2 → Refuses (.guaranteeFloorWrite t v) s stBadFormat) ∧
     (500 ≤ v.toNat → v.toNat ≤ 950 → (getObj s dev Obj.stackInterface ≠ 2 ∨ v.toNat ≤ 750) →
       (ownsOrSources s t.val = true → Refuses (.guaranteeFloorWrite t v) s stRetry) ∧
       (ownsOrSources s t.val = false → WritesRws (.guaranteeFloorWrite t v) s t.val Obj.guaranteeFloor v.toNat))) ∧
   (∀ (t : TileN) (v : BitVec 16) (s : State),
     (¬ (500 ≤ v.toNat ∧ v.toNat ≤ 20000) → Refuses (.meshHopCostWrite t v) s stBadFormat) ∧
     (500 ≤ v.toNat → v.toNat ≤ 20000 → (livePasses s t.val).any (fun e => isFar t.val e.2.terms) = true →
       Refuses (.meshHopCostWrite t v) s stRetry) ∧
     (500 ≤ v.toNat → v.toNat ≤ 20000 → (livePasses s t.val).any (fun e => isFar t.val e.2.terms) = false →
       WritesRws (.meshHopCostWrite t v) s t.val Obj.meshHopCost v.toNat)) ∧
   (∀ (t : TileN) (v : BitVec 8) (s : State),
     (3 < v.toNat → Refuses (.passBandWrite t v) s stBadFormat) ∧
     (v.toNat ≤ 3 → livePasses s t.val ≠ [] → Refuses (.passBandWrite t v) s stRetry) ∧
     (v.toNat ≤ 3 → livePasses s t.val = [] → Answers (.passBandWrite t v) s (fun s' => s'.out.status = stOk ∧
       getObj s' t.val Obj.passBand = v.toNat ∧ s'.passes = s.passes ∧
       bit (getObj s' t.val Obj.tileRiskCause) 1 = decide (v.toNat < getObj s t.val Obj.refreshBand) ∧
       OtherObjects s s' [(t.val, Obj.passBand), (t.val, Obj.tileRiskCause), (dev, Obj.deviceLogDropped)] ∧
       SameMemory s s')))) ∧
  ((∀ (t : TileN) (k : Fin 8) (v : BitVec 32) (s : State),
     (v.toNat < max (64 + getObj s t.val Obj.requestOverhead) (4 * getObj s t.val Obj.requestOverhead) →
       Refuses (.classQuantumWrite t k v) s stBadFormat) ∧
     (1048576 < v.toNat → Refuses (.classQuantumWrite t k v) s stBadFormat) ∧
     (max (64 + getObj s t.val Obj.requestOverhead) (4 * getObj s t.val Obj.requestOverhead) ≤ v.toNat →
       v.toNat ≤ 1048576 →
       (hasLive s t.val = true → Refuses (.classQuantumWrite t k v) s stRetry) ∧
       (hasLive s t.val = false → WritesRws (.classQuantumWrite t k v) s t.val (Obj.classQuantum + k.val) v.toNat))) ∧
   (∀ (t : TileN) (v : BitVec 16) (s : State),
     ((∃ k < 8, getObj s t.val (Obj.classQuantum + k) < max (64 + v.toNat) (4 * v.toNat)) →
       Refuses (.requestOverheadWrite t v) s stBadFormat) ∧
     (1024 < v.toNat → Refuses (.requestOverheadWrite t v) s stBadFormat) ∧
     (v.toNat ≤ 1024 → (∀ k < 8, max (64 + v.toNat) (4 * v.toNat) ≤ getObj s t.val (Obj.classQuantum + k)) →
       (hasLive s t.val = true → Refuses (.requestOverheadWrite t v) s stRetry) ∧
       (hasLive s t.val = false → WritesRws (.requestOverheadWrite t v) s t.val Obj.requestOverhead v.toNat))) ∧
   (∀ (t : TileN) (write : Bool) (v : BitVec 8) (s : State),
     let most := if write then 36 else 48
     (most < v.toNat → Refuses (.passReserveWrite t write v) s stBadFormat) ∧
     (v.toNat ≤ most → hasLive s t.val = true → Refuses (.passReserveWrite t write v) s stRetry) ∧
     (v.toNat ≤ most → hasLive s t.val = false → WritesRws (.passReserveWrite t write v) s t.val
       (if write then Obj.writePassReserve else Obj.readPassReserve) v.toNat))) ∧
  ((∀ (t : TileN) (v : BitVec 16) (s : State),
     (20 ≤ v.toNat ∧ v.toNat ≤ 256 → Answers (.mergeHoldLimitWrite t v) s (fun s' => s'.out = { status := stOk } ∧
       getObj s' t.val Obj.mergeHoldLimit = v.toNat ∧ OtherObjects s s' [(t.val, Obj.mergeHoldLimit)] ∧
       holdLimit s' t.val = holdLimit s t.val ∧
       (∀ n, s.time.elapsed < n → holdLimit { s' with time := { s'.time with elapsed := n } } t.val = v.toNat) ∧
       s' = { s with dict := s'.dict, out := s'.out, sched := fupd {} s.sched t.val (fun x => { x with
         holdOld := holdLimit s t.val, holdSince := s.time.elapsed + 1 }) })) ∧
     (¬ (20 ≤ v.toNat ∧ v.toNat ≤ 256) → Refuses (.mergeHoldLimitWrite t v) s stBadFormat)) ∧
   (∀ (t : TileN) (v : BitVec 8) (s : State),
     (v.toNat ≤ 1 → WritesRws (.regulationModeWrite t v) s t.val Obj.regulationMode v.toNat) ∧
     (1 < v.toNat → Refuses (.regulationModeWrite t v) s stBadFormat)) ∧
   (∀ (v : BitVec 32) (s : State),
     (50000 ≤ v.toNat ∧ v.toNat ≤ 560000 → WritesObj (.powerCapWrite v) s dev Obj.powerCap v.toNat) ∧
     (¬ (50000 ≤ v.toNat ∧ v.toNat ≤ 560000) → Refuses (.powerCapWrite v) s stBadFormat)))

/-- R122, R141, R150: RangeDefault 0 is refused while a partition-0 pass is live in the tile, TimetableEnable 1
with REFUSED_ADMISSION while a live pass could
not meet its bound under a list; a BOOL byte over 1 is refused with BAD_FORMAT. Of its passes a write of
TimetableEnable changes the computed bounds only.
R210, R176, R169, R50: writes of the engine registers and of an array's save area.
What it takes from the model's readings and choices: assumptions 28, 30. -/
def Obligations.LockedRegisterWrites : Prop :=
  ((∀ (t : TileN) (v : BitVec 8) (s : State),
     (1 < v.toNat → Refuses (.rangeDefaultWrite t v) s stBadFormat ∧ Refuses (.timetableEnableWrite t v) s stBadFormat) ∧
     (v.toNat = 0 → (livePasses s t.val).any (fun e => cPartition e.2.terms = 0) = true →
       Refuses (.rangeDefaultWrite t v) s stRetry) ∧
     (v.toNat ≤ 1 → (v.toNat = 0 → (livePasses s t.val).any (fun e => cPartition e.2.terms = 0) = false) →
       WritesObj (.rangeDefaultWrite t v) s t.val Obj.rangeDefault v.toNat) ∧
     (let lists := (getTT s t.val).running.toList ++ (getTT s t.val).pending.toList
      let fails := hasLive s t.val = true ∧ ∃ l ∈ lists, ttPassesOk s t.val l.entries = false
      (v.toNat = 1 → fails → Refuses (.timetableEnableWrite t v) s stRefusedAdmission) ∧
      (v.toNat = 0 ∨ (v.toNat = 1 ∧ ¬ fails) →
        Answers (.timetableEnableWrite t v) s (fun s' => s'.out = { status := stOk } ∧
          getObj s' t.val Obj.timetableEnable = v.toNat ∧ OtherObjects s s' [(t.val, Obj.timetableEnable)] ∧
          s' = { s with dict := s'.dict, out := s'.out, passes := s'.passes } ∧
          (hasLive s t.val = false → s'.passes = s.passes) ∧
          (fwf (fun _ => {}) s.passes = true → ∀ k, ∃ n,
            fget {} s'.passes k = { fget {} s.passes k with computed := n })))))) ∧
  ((∀ (t : TileN) (e : EngineN) (v : BitVec 32) (s : State),
     WritesObj (.engineTailWrite t e v) s t.val (Obj.engineTail + e.val) v.toNat) ∧
   (∀ (t : TileN) (e : EngineN) (v : BitVec 8) (s : State),
     (v.toNat ≤ 1 → WritesObj (.engineEnableWrite t e v) s t.val (Obj.engineEnable + e.val) v.toNat) ∧
     (1 < v.toNat → Refuses (.engineEnableWrite t e v) s stBadFormat)) ∧
   (∀ (t : TileN) (e : EngineN) (v : BitVec 64) (s : State),
     (isPow2 v.toNat 16 1048576 = true →
       (getObj s t.val (Obj.engineEnable + e.val) ≠ 0 → Refuses (.engineQueueConfigWrite t e true v) s stRetry) ∧
       (getObj s t.val (Obj.engineEnable + e.val) = 0 →
         WritesObj (.engineQueueConfigWrite t e true v) s t.val (Obj.engineQueueSize + e.val) v.toNat)) ∧
     (isPow2 v.toNat 16 1048576 = false → Refuses (.engineQueueConfigWrite t e true v) s stBadFormat) ∧
     (let good := v.toNat % 64 = 0 ∧ adOk (v.toNat % 2 ^ 48) = true
      (¬ good → Refuses (.engineQueueConfigWrite t e false v) s stBadFormat) ∧
      (good → getObj s t.val (Obj.engineEnable + e.val) ≠ 0 → Refuses (.engineQueueConfigWrite t e false v) s stRetry) ∧
      (good → getObj s t.val (Obj.engineEnable + e.val) = 0 →
        WritesObj (.engineQueueConfigWrite t e false v) s t.val (Obj.engineQueueBase + e.val) (v.toNat % 2 ^ 48)))) ∧
   (∀ (t : TileN) (a : ArrayN) (v : BitVec 32) (s : State),
     let good := v.toNat ≤ 8122368 ∧ v.toNat % 4096 = 0
     (¬ good → Refuses (.saveAreaBaseWrite t a v) s stBadFormat) ∧
     (good → saving s t.val a.val = true → Refuses (.saveAreaBaseWrite t a v) s stRetry) ∧
     (good → saving s t.val a.val = false →
       WritesObj (.saveAreaBaseWrite t a v) s t.val (Obj.saveAreaBase + a.val) v.toNat)) ∧
   (∀ (t : TileN) (a : ArrayN) (v : BitVec 8) (s : State),
     (1 < v.toNat → Refuses (.arrayUnfence t a v) s stBadFormat) ∧ (v.toNat = 0 → NoEffect (.arrayUnfence t a v) s) ∧
     (v.toNat = 1 → exec (.arrayUnfence t a v) s = .next { s with
       array := fupd {} s.array (t.val * 4 + a.val) (fun x => { x with fenced := false })
       out := { status := stOk } })))

/-! ## The reference and the speed index -/

/-- R28, R29, R30: losing the reference moves ReferenceState from locked to holdover and starts its length and
the count of good edges; an edge then moves it to returning and counts, or starts the count again; after 16
good edges the reference is back: ReferenceState is locked and HoldoverLength is the time it lasted.
R31, R32, R33: at the end of a measurement window LogicSpeed is the least ring count over its reference in
thousandths rounded down, or 0 where a ring has no valid reference; SpeedLowWater never rises; a write of 1 to
SpeedLowWaterClear sets it to the present SpeedIndex.
What it takes from the model's readings and choices: assumptions 4, 11, 15, 17, 18, 119, 120. -/
def Obligations.ReferenceAndSpeedIndex : Prop :=
  ((∀ s : State, getObj s dev Obj.referenceState = 0 →
     Answers .referenceLost s (fun s' => getObj s' dev Obj.referenceState = 1 ∧ s'.time.goodEdges = 0 ∧
       s'.time.lostAt = s.time.elapsed ∧ SameMemory s s')) ∧
   (∀ (good : Bool) (s : State), getObj s dev Obj.referenceState ≠ 0 →
     Answers (.referenceEdgeInHoldover good) s (fun s' => getObj s' dev Obj.referenceState = 2 ∧
       s'.time.goodEdges = (if good then min 16 (s.time.goodEdges + 1) else 0) ∧ SameMemory s s' ∧
       OtherObjects s s' [(dev, Obj.referenceState)])) ∧
   (∀ s : State, getObj s dev Obj.referenceState ≠ 0 → 16 ≤ s.time.goodEdges →
     s.time.elapsed < 2 ^ 64 →
     Answers .referenceReturn s (fun s' => getObj s' dev Obj.referenceState = 0 ∧
       getObj s' dev Obj.holdoverLength = s.time.elapsed - s.time.lostAt ∧ SameMemory s s')) ∧
   (∀ s : State, s.time.goodEdges < 16 → NoEffect .referenceReturn s)) ∧
  ((∀ (t : TileN) (counts : List Nat) (s : State), due s t.val 0 1000 = true →
     Answers (.speedWindowEnd t counts) s (fun s' =>
       (ringsValid t.val counts = true → getObj s' t.val Obj.logicSpeed =
         perMille (minFrac ((List.range 12).map (fun i => (counts.getD i 0, (Config.speedReference t.val i).getD 1))))) ∧
       (ringsValid t.val counts = false → getObj s' t.val Obj.logicSpeed = 0 ∧ getObj s' t.val Obj.speedIndex = 0) ∧
       (getObj s t.val Obj.speedIndex ≠ 0 →
         getObj s' t.val Obj.speedLowWater ≤ getObj s t.val Obj.speedLowWater ∧
         getObj s' t.val Obj.speedLowWater ≤ getObj s' t.val Obj.speedIndex) ∧
       SameMemory s s')) ∧
   (∀ (t : TileN) (counts : List Nat) (s : State), due s t.val 0 1000 = false → NoEffect (.speedWindowEnd t counts) s) ∧
   (∀ (t : TileN) (v : BitVec 8) (s : State),
     (1 < v.toNat → Refuses (.speedLowWaterClear t v) s stBadFormat) ∧ (v.toNat = 0 → NoEffect (.speedLowWaterClear t v) s) ∧
     (v.toNat = 1 →
       WritesObj (.speedLowWaterClear t v) s t.val Obj.speedLowWater (getObj s t.val Obj.speedIndex % 2 ^ 16))))

/-! ## The layers -/

/-- R45: a layer that captures a word of odd parity does not execute it and sends a done report with
event 0x8; so with an argument word of odd parity.
R46 to R48: the bits of a word, and not the command that carries it, say what is executed; a reserved opcode is a
violation, reported with 0x9. An RCOPY or RFILL word that comes alone waits for its argument, and the row word
directly after it is that argument. R61: an all-zero word of an SLP-2 channel is its idle slot, which has no effect.
Tables 2.4 to 2.6: MRW writes RefreshCounter, FillData or FillCheck and TRW a trim, each applied with
a done report 0x7; MRR and TRR send the value of a register or trim up.
What it takes from the model's readings and choices: assumptions 4, 15, 21, 121. -/
def Obligations.LayerWordsAndModeRegisters : Prop :=
  (∀ (t : TileN) (c : ChanN) (w : BitVec 20) (s : State),
     (onesCount w.toNat % 2 = 1 →
       ∀ cmd ∈ ([.act t c w, .rd t c w, .pre t c w, .prea t c w, .ref t c w, .mrr t c w, .trw t c w, .trr t c w] : List Instr),
         exec cmd s = .next (report t.val c.val 0 8 (capture t.val c.val true { s with out := {} }))) ∧
     (∀ v, onesCount w.toNat % 2 = 1 →
       exec (.mrw t c w v) s = .next (report t.val c.val 0 8 (capture t.val c.val true { s with out := {} }))) ∧
     (∀ beats : List (BitVec 144), onesCount w.toNat % 2 = 1 →
       exec (.wr t c w beats) s = .next (report t.val c.val 0 8 (capture t.val c.val true { s with out := {} }))) ∧
     (∀ arg : BitVec 20, onesCount w.toNat % 2 = 1 ∨ (onesCount arg.toNat % 2 = 1 ∧ (slp2 s = false ∨ w.toNat ≠ 0)) →
       exec (.rcopy t c w arg) s = .next (report t.val c.val 0 8 (capture t.val c.val true { s with out := {} })) ∧
       exec (.rfill t c w arg) s = .next (report t.val c.val 0 8 (capture t.val c.val true { s with out := {} }))) ∧
     (∀ cmd ∈ ([.rd t c w, .pre t c w, .prea t c w, .ref t c w, .mrr t c w, .trw t c w, .trr t c w] : List Instr),
       exec cmd s = exec (.act t c w) s) ∧
     (onesCount w.toNat % 2 = 0 → wMarker w.toNat = false → wOpcode w.toNat = 0 ∨ 0xC ≤ wOpcode w.toNat →
       slp2 s = false → (getLayer s t.val c.val).awaits = none →
       exec (.act t c w) s = .next (report t.val c.val (wBank w.toNat) 9 (capture t.val c.val false { s with out := {} }))) ∧
     (∀ op, op = 6 ∨ op = 7 → opWordOk w.toNat op → (getLayer s t.val c.val).awaits = none →
       Answers (.act t c w) s (fun s' => getLayer s' t.val c.val =
           { getLayer s t.val c.val with awaits := some w.toNat } ∧
         (∀ k, k ≠ chKey t.val c.val → fget ({} : LayerS) s'.layer k = fget {} s.layer k) ∧ SameMemory s s' ∧
         s' = { s with layer := s'.layer, out := {} })) ∧
     (∀ w0 : BitVec 20, onesCount w.toNat % 2 = 0 → wMarker w.toNat = true →
       (getLayer s t.val c.val).awaits = some w0.toNat →
       (opWordOk w0.toNat 6 → exec (.act t c w) s = .next (layerRcopy t.val c.val w0.toNat w.toNat { s with out := {} })) ∧
       (opWordOk w0.toNat 7 → exec (.act t c w) s = .next (layerRfill t.val c.val w0.toNat w.toNat { s with out := {} }))) ∧
     (slp2 s = true → w.toNat = 0 → NoEffect (.act t c w) s)) ∧
  (∀ (t : TileN) (c : ChanN) (w : BitVec 20) (s : State), (getLayer s t.val c.val).awaits = none →
     (∀ v : BitVec 64, opWordOk w.toNat 8 → modeWordOk w.toNat = true →
       (wSector w.toNat = 4 ∨ wSector w.toNat = 5 ∨ (wSector w.toNat = 1 ∧ v.toNat % 2 ^ 14 < 8208)) →
       Answers (.mrw t c w v) s (fun s' =>
         (getLayer s' t.val c.val).fillData =
           (if wSector w.toNat = 4 then v.toNat else (getLayer s t.val c.val).fillData) ∧
         (getLayer s' t.val c.val).fillCheck =
           (if wSector w.toNat = 5 then v.toNat % 256 else (getLayer s t.val c.val).fillCheck) ∧
         (getLayer s' t.val c.val).refreshCounter =
           (if wSector w.toNat = 1 then v.toNat % 2 ^ 14 else (getLayer s t.val c.val).refreshCounter) ∧
         SendsUp s s' t.val c.val [.done 0 7] ∧ SameMemory s s' ∧ s' = { s with layer := s'.layer, out := {} })) ∧
     (∀ v, opWordOk w.toNat 9 → modeWordOk w.toNat = true → modeReg s t.val c.val (wSector w.toNat) = some v →
       Answers (.mrr t c w) s (fun s' => SendsUp s s' t.val c.val [.beats [v]] ∧ SameMemory s s' ∧
         s' = { s with layer := s'.layer, out := {} })) ∧
     (opWordOk w.toNat 0xA → bits w.toNat 7 4 ≤ 5 → (bits w.toNat 7 4 = 5 → bits w.toNat 1 6 < 32) →
       wBank w.toNat = 0 → (slp2 s = true ∨ ∀ b < 16, getBank s t.val c.val b = .closed) →
       Answers (.trw t c w) s (fun s' =>
         (getLayer s' t.val c.val).trims = setNth (getLayer s t.val c.val).trims (bits w.toNat 7 4) (bits w.toNat 1 6) ∧
         SendsUp s s' t.val c.val [.done 0 7] ∧ SameMemory s s' ∧ s' = { s with layer := s'.layer, out := {} })) ∧
     (opWordOk w.toNat 0xB → bits w.toNat 7 4 ≤ 5 → bits w.toNat 1 6 = 0 → wBank w.toNat = 0 →
       Answers (.trr t c w) s (fun s' =>
         SendsUp s s' t.val c.val [.beats [(getLayer s t.val c.val).trims.getD (bits w.toNat 7 4) 0]] ∧
         SameMemory s s' ∧ s' = { s with layer := s'.layer, out := {} })))

/-- R46 to R49, R51, Table 2.3: of the words that follow no other word waiting for its argument, ACT opens a row of a precharged bank, PRE closes an open bank and PREA every
bank, REF refreshes the next row of a channel whose banks are all precharged; each sends its done report
up, and no word of memory and no object changes. A row word that finds its bank not precharged is not
executed and reports 0x9.
R47, R53, R55, R56, R58: RD sends the stored words of its sector or line of the open row; WR stores its
beats there; RCOPY stores the words of the open row, check bits included, into another row of its subarray;
RFILL stores FillData and FillCheck into every word of a row. Every other word of memory stays.
What it takes from the model's readings and choices: assumptions 4, 121, 122, 125. -/
def Obligations.RowCommandsAndData : Prop :=
  (∀ (t : TileN) (c : ChanN) (w : BitVec 20) (s : State), (getLayer s t.val c.val).awaits = none →
     (∀ b r, rowWordOk w.toNat b r → getBank s t.val c.val b = .closed →
       Answers (.act t c w) s (fun s' => getBank s' t.val c.val b = .opening r ∧
         SendsUp s s' t.val c.val [.done b 1] ∧ OtherBanks s s' t.val c.val b ∧ SameMemory s s' ∧
         s' = { s with bank := s'.bank, layer := s'.layer, count := s'.count, out := {} })) ∧
     (∀ b r, rowWordOk w.toNat b r → getBank s t.val c.val b ≠ .closed →
       exec (.act t c w) s = .next (report t.val c.val b 9 (capture t.val c.val false { s with out := {} }))) ∧
     (opWordOk w.toNat 3 → bits w.toNat 1 10 = 0 → (∃ r, getBank s t.val c.val (wBank w.toNat) = .opened r) →
       Answers (.pre t c w) s (fun s' => getBank s' t.val c.val (wBank w.toNat) = .busy 2 ∧
         SendsUp s s' t.val c.val [.done (wBank w.toNat) 2] ∧ OtherBanks s s' t.val c.val (wBank w.toNat) ∧
         SameMemory s s' ∧ s' = { s with bank := s'.bank, layer := s'.layer, out := {} })) ∧
     (opWordOk w.toNat 4 → bits w.toNat 1 14 = 0 →
       Answers (.prea t c w) s (fun s' => (∀ b < 16, getBank s' t.val c.val b = .busy 0xA) ∧
         SendsUp s s' t.val c.val [.done 0 0xA] ∧
         SameMemory s s' ∧ s' = { s with bank := s'.bank, layer := s'.layer, out := {} })) ∧
     (opWordOk w.toNat 5 → bits w.toNat 1 14 = 0 → (∀ b < 16, getBank s t.val c.val b = .closed) →
       Answers (.ref t c w) s (fun s' => (∀ b < 16, getBank s' t.val c.val b = .busy 4) ∧
         (getLayer s' t.val c.val).refreshCounter = ((getLayer s t.val c.val).refreshCounter + 1) % 8208 ∧
         SendsUp s s' t.val c.val [.done 0 4] ∧ SameMemory s s' ∧
         s' = { s with bank := s'.bank, layer := s'.layer, count := s'.count, out := {} }))) ∧
  (∀ (t : TileN) (c : ChanN) (w : BitVec 20) (r : Nat) (s : State), (getLayer s t.val c.val).awaits = none →
     (opWordOk w.toNat 1 → colOk t.val c.val w.toNat s = true → getBank s t.val c.val (wBank w.toNat) = .opened r →
       Answers (.rd t c w) s (fun s' => SameMemory s s' ∧
         SendsUp s s' t.val c.val (.beats (rawWords s t.val c.val (wBank w.toNat) r (wSector w.toNat * 4)
           (if wLine w.toNat then 8 else 4)) :: (if wAuto w.toNat then [.done (wBank w.toNat) 2] else [])) ∧
         getBank s' t.val c.val (wBank w.toNat) = (if wAuto w.toNat then .busy 2 else .opened r) ∧
         OtherBanks s s' t.val c.val (wBank w.toNat) ∧
         s' = { s with bank := s'.bank, layer := s'.layer, out := {} })) ∧
     (∀ beats : List (BitVec 144), opWordOk w.toNat 2 → colOk t.val c.val w.toNat s = true →
       getBank s t.val c.val (wBank w.toNat) = .opened r → beats.length = (if wLine w.toNat then 4 else 2) →
       Answers (.wr t c w beats) s (fun s' =>
         (∀ i < beats.length, rawWord s' t.val c.val (wBank w.toNat) r (wSector w.toNat * 4 + 2 * i) =
             (beats.getD i 0).toNat % 2 ^ 64 + bits (beats.getD i 0).toNat 128 8 * 2 ^ 64 ∧
           rawWord s' t.val c.val (wBank w.toNat) r (wSector w.toNat * 4 + 2 * i + 1) =
             bits (beats.getD i 0).toNat 64 64 + bits (beats.getD i 0).toNat 136 8 * 2 ^ 64) ∧
         (∀ t' c' b' r' i', (∀ i < 2 * beats.length, dramKey t' c' b' r' i' ≠
             dramKey t.val c.val (wBank w.toNat) r (wSector w.toNat * 4 + i)) →
           rawWord s' t' c' b' r' i' = rawWord s t' c' b' r' i'))) ∧
     (∀ (arg : BitVec 20) (dst : Nat), opWordOk w.toNat 6 → bits w.toNat 1 10 = 0 →
       rowWordOk arg.toNat (wBank w.toNat) dst → getBank s t.val c.val (wBank w.toNat) = .opened r → r ≠ dst →
       (subarray r = subarray dst →
         Answers (.rcopy t c w arg) s (fun s' =>
           (∀ i < 256, rawWord s' t.val c.val (wBank w.toNat) dst i = rawWord s t.val c.val (wBank w.toNat) r i) ∧
           (∀ t' c' b' r' i', (∀ i < 256, dramKey t' c' b' r' i' ≠ dramKey t.val c.val (wBank w.toNat) dst i) →
             rawWord s' t' c' b' r' i' = rawWord s t' c' b' r' i') ∧
           getBank s' t.val c.val (wBank w.toNat) = .busy 5 ∧ OtherBanks s s' t.val c.val (wBank w.toNat) ∧
           SendsUp s s' t.val c.val [.done (wBank w.toNat) 5] ∧
           s' = { s with dram := s'.dram, bank := s'.bank, layer := s'.layer, count := s'.count, out := {} })) ∧
       (subarray r ≠ subarray dst → exec (.rcopy t c w arg) s =
         .next (report t.val c.val (wBank w.toNat) 9 (capture t.val c.val false { s with out := {} })))) ∧
     (∀ (arg : BitVec 20) (dst : Nat), opWordOk w.toNat 7 → bits w.toNat 1 10 = 0 →
       rowWordOk arg.toNat (wBank w.toNat) dst → getBank s t.val c.val (wBank w.toNat) = .closed →
       slp2 s = false →
       Answers (.rfill t c w arg) s (fun s' =>
         (∀ i < 256, rawWord s' t.val c.val (wBank w.toNat) dst i =
           (getLayer s t.val c.val).fillData + (getLayer s t.val c.val).fillCheck * 2 ^ 64) ∧
         (∀ t' c' b' r' i', (∀ i < 256, dramKey t' c' b' r' i' ≠ dramKey t.val c.val (wBank w.toNat) dst i) →
           rawWord s' t' c' b' r' i' = rawWord s t' c' b' r' i') ∧
         getBank s' t.val c.val (wBank w.toNat) = .busy 6 ∧ OtherBanks s s' t.val c.val (wBank w.toNat) ∧
         SendsUp s s' t.val c.val [.done (wBank w.toNat) 6] ∧
         s' = { s with dram := s'.dram, bank := s'.bank, layer := s'.layer, count := s'.count, out := {} })))

/-! ## Done reports and read beats -/

/-- R43, R45, R48, Table 2.3: a done report is taken from the front of the upward path: it opens the row an
ACT named, closes the bank of a PRE and the banks of a REF or PREA, and counts the words a layer reports
as of odd parity or as violations. An open Recess window goes on with it (R292); without a done report at
the front, and without a window or a wait for quiet, the command has no effect.
R261, Table 2.5: read beats are taken from the front of the upward path: those of a mode register or
trim give their value; those of an access whose words are all good complete it, and its request takes
their data with status OK. R57: a line read by a bounce copy goes into the bounce buffer of the channel it is written to.
What it takes from the model's readings and choices: assumptions 4, 123. -/
def Obligations.ReportsAndReadDataArrive : Prop :=
  (∀ (t : TileN) (c : ChanN) (n : BitVec 8) (b : Nat) (rest : List Up) (s : State),
     let windowObjs := [(t.val, Obj.recessWindows + c.val), (t.val, Obj.recessLongest + c.val),
       (t.val, Obj.recessExtended + c.val)]
     let Rest (s' : State) := s' = { s with
         bank := s'.bank, layer := s'.layer, speed := s'.speed
         recess := s'.recess, train := s'.train, dict := s'.dict, out := {} } ∧ OtherObjects s s' windowObjs ∧ SameMemory s s' ∧
       (getLayer s' t.val c.val).up = rest
     (∀ r, (getLayer s t.val c.val).up = .done b 1 :: rest → getBank s t.val c.val b = .opening r →
       Answers (.doneReport t c n) s (fun s' => getBank s' t.val c.val b = .opened r ∧
         OtherBanks s s' t.val c.val b ∧ Rest s')) ∧
     ((getLayer s t.val c.val).up = .done b 2 :: rest → getBank s t.val c.val b = .busy 2 →
       Answers (.doneReport t c n) s (fun s' => getBank s' t.val c.val b = .closed ∧
         OtherBanks s s' t.val c.val b ∧ Rest s')) ∧
     (∀ ev, ev = 4 ∨ ev = 0xA → (getLayer s t.val c.val).up = .done b ev :: rest →
       Answers (.doneReport t c n) s (fun s' =>
         (∀ b' < 16, getBank s' t.val c.val b' =
           if getBank s t.val c.val b' = .busy ev then .closed else getBank s t.val c.val b') ∧ Rest s')) ∧
     ((getLayer s t.val c.val).up = .done b 8 :: rest →
       Answers (.doneReport t c n) s (fun s' =>
         getObj s' t.val (Obj.caParityErrors + c.val) = (getObj s t.val (Obj.caParityErrors + c.val) + 1) % 2 ^ 32 ∧
         SameMemory s s')) ∧
     ((getLayer s t.val c.val).up = .done b 9 :: rest →
       Answers (.doneReport t c n) s (fun s' =>
         getObj s' t.val (Obj.protocolViolations + c.val) =
           (getObj s t.val (Obj.protocolViolations + c.val) + 1) % 2 ^ 32 ∧
         (getLayer s' t.val c.val).up = rest ∧ SameMemory s s' ∧
         OtherObjects s s' ((t.val, Obj.protocolViolations + c.val) :: (t.val, Obj.troubleLogDropped) :: windowObjs))) ∧
     ((∀ b' ev r, (getLayer s t.val c.val).up ≠ .done b' ev :: r) → (getRecess s t.val c.val).openAt = none →
       (getTrain s t.val c.val).quiet = none → (getTrain s t.val c.val).prea = false → NoEffect (.doneReport t c n) s)) ∧
  (∀ (t : TileN) (c : ChanN) (words : List Nat) (rest : List Up) (s : State),
     (getLayer s t.val c.val).up = .beats words :: rest →
     let windowObjs := [(t.val, Obj.recessWindows + c.val), (t.val, Obj.recessLongest + c.val),
       (t.val, Obj.recessExtended + c.val)]
     ((∃ r, (getLayer s t.val c.val).reads.headD (.mode 0) = .mode r ∨
         (getLayer s t.val c.val).reads.headD (.mode 0) = .trim r) →
       Answers (.readDataArrival t c) s (fun s' => (getLayer s' t.val c.val).modeRead = words.headD 0 ∧
         (getLayer s' t.val c.val).up = rest ∧ SameMemory s s' ∧ OtherObjects s s' windowObjs ∧
         s' = { s with layer := s'.layer, recess := s'.recess, train := s'.train, dict := s'.dict, out := {} })) ∧
     (∀ (a : Acc) (i : Nat) (r : Req), (getLayer s t.val c.val).reads.headD (.mode 0) = .access a.id →
       (getQueue s t.val c.val).rq.find? (fun x => x.id = a.id) = some a → a.kind = .read → a.job = .none →
       a.reqs = [i] → findReq s t.val i = some r →
       (∀ w ∈ words, classify w = .good) →
       Answers (.readDataArrival t c) s (fun s' =>
         findReq s' t.val i = some (reqTake a stOk
           (sumOf ((List.range words.length).map (fun j => wordData (words.getD j 0) * 2 ^ (64 * j)))) 0 r) ∧
         (∀ x ∈ (getQueue s' t.val c.val).rq, x.id ≠ a.id) ∧ SameMemory s s' ∧ OtherObjects s s' windowObjs)) ∧
     (∀ (a : Acc) (w : Nat), (getLayer s t.val c.val).reads.headD (.mode 0) = .access a.id →
       (getQueue s t.val c.val).rq.find? (fun x => x.id = a.id) = some a → a.kind = .bounceRead w →
       (∀ x ∈ words, classify x = .good) →
       Answers (.readDataArrival t c) s (fun s' =>
         getBounce s' t.val w = { getBounce s t.val w with words := (getBounce s t.val w).words ++ words.map rewriteWord } ∧
         (∀ x ∈ (getQueue s' t.val c.val).rq, x.id = a.id → ∃ y ∈ (getQueue s t.val c.val).rq, y.id = a.id ∧
           x.done = (match y.kind with | .bounceRead _ => y.done + 1 | _ => y.done)) ∧
         SameMemory s s' ∧ OtherObjects s s' windowObjs)))

/-! ## Protection and repair -/

/-- R261, R262: the word code corrects every flip of one stored bit of a good word and tells every flip of
two bits as uncorrectable; a poisoned word is delivered poisoned. -/
def Obligations.WordCodeCorrectsOneAndDetectsTwo : Prop :=
  ∀ d : Nat, d < 2 ^ 64 →
    (classify (goodWord d) = .good ∧ wordData (goodWord d) = d) ∧
    (∀ i < 72, classify (flipBit (goodWord d) i) = .corrected i ∧ wordData (flipBit (goodWord d) i) = d) ∧
    (∀ i j, i < j → j < 72 → classify (flipBit (flipBit (goodWord d) i) j) = .uncorrectable) ∧
    (classify (poisonWord d) = .poisoned ∧ wordData (poisonWord d) = d)

/-- ErrorInject (0x6050, Table 10.6) flips one stored bit of the word at an address, flips two, or stores the
word poisoned; no other word changes, and ErrorInjectResult holds the status answered. A value with a
reserved bit set or a bit number above 71 is refused with BAD_FORMAT.
R50: a write of FillPattern is kept, and every channel of the tile is to take it at its next window.
What it takes from the model's readings and choices: assumption 29. -/
def Obligations.InjectionAndFillPattern : Prop :=
  (∀ (t : TileN) (v : BitVec 128) (s : State),
     (∀ p : Place, injectReserved v.toNat = false → bits v.toNat 72 8 ≤ 71 → bits v.toNat 80 8 ≤ 71 →
       bits v.toNat 0 40 % 8 = 0 → addrTile (bits v.toNat 0 40) = t.val →
       addrOffset (bits v.toNat 0 40) < populated → p = translate (addrOffset (bits v.toNat 0 40)) →
       rowHeld s t.val p.chan p.bank p.row = false →
       let old := rawWord s t.val p.chan p.bank (physRow s t.val p.chan p.bank p.row) (p.byte / 8)
       let Injects (c : Instr) (new : Nat) := Answers c s (fun s' => s'.out = { status := stOk } ∧
         rawWord s' t.val p.chan p.bank (physRow s t.val p.chan p.bank p.row) (p.byte / 8) = new ∧
         (∀ t' c' b' r' i', dramKey t' c' b' r' i' ≠
             dramKey t.val p.chan p.bank (physRow s t.val p.chan p.bank p.row) (p.byte / 8) →
           rawWord s' t' c' b' r' i' = rawWord s t' c' b' r' i') ∧
         getObj s' t.val Obj.errorInjectResult = stOk ∧ OtherObjects s s' [(t.val, Obj.errorInjectResult)] ∧
         s' = { s with dram := s'.dram, dict := s'.dict, out := s'.out })
       Injects (.errorInjectFlipOne t v) (flipBit old (bits v.toNat 72 8)) ∧
       (bits v.toNat 72 8 ≠ bits v.toNat 80 8 →
         Injects (.errorInjectFlipTwo t v) (flipBit (flipBit old (bits v.toNat 72 8)) (bits v.toNat 80 8))) ∧
       Injects (.errorInjectPoison t v) (poisonWord (wordData old))) ∧
     (injectReserved v.toNat = true ∨ 71 < bits v.toNat 72 8 ∨ 71 < bits v.toNat 80 8 →
       ∀ cmd ∈ ([.errorInjectFlipOne t v, .errorInjectFlipTwo t v, .errorInjectPoison t v] : List Instr),
         Answers cmd s (fun s' => s'.out = { status := stBadFormat } ∧
           getObj s' t.val Obj.errorInjectResult = stBadFormat ∧
           OtherObjects s s' [(t.val, Obj.errorInjectResult)] ∧ s' = { s with dict := s'.dict, out := s'.out }))) ∧
  (∀ (t : TileN) (v : BitVec 64) (s : State),
     Answers (.fillPatternWrite t v) s (fun s' => s'.out = { status := stOk } ∧
       getObj s' t.val Obj.fillPattern = v.toNat ∧ (∀ c < 48, (getLayer s' t.val c).fillPending = true) ∧
       OtherObjects s s' [(t.val, Obj.fillPattern)] ∧ SameMemory s s' ∧
       s' = { s with dict := s'.dict, layer := s'.layer, out := s'.out }))

/-- R270, R278, R279, R60, Table 2.10: an old watch entry is freed; RetireRow puts a row on the list; RepairMode
and ChannelDisable take 0 or 1, and a channel forced disabled is in state 4 at once; with nothing queued for it and no
work of the block map waiting, no word of memory changes.
R276, R277: a migration completes when its bounce copy into the new spare has written its 32 lines: the remap entry
of the row then names the spare, and the spare is in use; a re-pointed entry's former spare is bad. Under a trip, in a
reset, or with its copy not done, nothing happens.
What it takes from the model's readings and choices: assumptions 4, 19, 114. -/
def Obligations.RepairAndMigration : Prop :=
  ((∀ (t : TileN) (slot : Fin 512) (s : State),
     ((getWatch s t.val slot.val).valid = true →
       (getWatch s t.val slot.val).stamp0 + getObj s t.val Obj.faultWindow * 1000000000 < s.time.timeBase →
       exec (.watchEntryExpiry t slot) s =
         .next { s with watch := fset {} s.watch (t.val * 512 + slot.val) {}, out := {} }) ∧
     ((getWatch s t.val slot.val).valid = false ∨
         s.time.timeBase ≤ (getWatch s t.val slot.val).stamp0 + getObj s t.val Obj.faultWindow * 1000000000 →
       NoEffect (.watchEntryExpiry t slot) s)) ∧
   (∀ (t : TileN) (v : BitVec 64) (s : State),
     (47 < bits v.toNat 54 6 → Refuses (.retireRow t v) s stBadFormat) ∧
     (bits v.toNat 54 6 ≤ 47 →
       isRetired s t.val (bits v.toNat 54 6) (bits v.toNat 50 4) (bits v.toNat 37 13) = false →
       copySource s t.val (bits v.toNat 54 6) (bits v.toNat 50 4) (bits v.toNat 37 13) = false →
       (getObj s t.val Obj.retiredRows < 1024 →
         Answers (.retireRow t v) s (fun s' => s'.out.status = stOk ∧
           getObj s' t.val Obj.retiredRows = getObj s t.val Obj.retiredRows + 1 ∧
           isRetired s' t.val (bits v.toNat 54 6) (bits v.toNat 50 4) (bits v.toNat 37 13) = true ∧ SameMemory s s')) ∧
       (1024 ≤ getObj s t.val Obj.retiredRows →
         Answers (.retireRow t v) s (fun s' => s'.out.status = stOk ∧ s'.retire = s.retire ∧
           getObj s' t.val Obj.retireListFull = (getObj s t.val Obj.retireListFull + 1) % 2 ^ 32 ∧
           getObj s' t.val Obj.retiredRows = getObj s t.val Obj.retiredRows ∧ SameMemory s s')))) ∧
   (∀ (t : TileN) (v : BitVec 8) (s : State),
     (1 < v.toNat → Refuses (.repairModeWrite t v) s stBadFormat) ∧
     (v.toNat ≤ 1 → Answers (.repairModeWrite t v) s (fun s' => s'.out.status = stOk ∧
       getObj s' t.val Obj.repairMode = v.toNat ∧ (v.toNat = 1 → (getProt s' t.val).queue = []) ∧ SameMemory s s'))) ∧
   (∀ (t : TileN) (c : ChanN) (v : BitVec 8) (s : State),
     (1 < v.toNat → Refuses (.channelDisableWrite t c v) s stBadFormat) ∧
     (v.toNat = 0 → WritesRws (.channelDisableWrite t c v) s t.val (Obj.channelDisable + c.val) 0) ∧
     (v.toNat = 1 → Answers (.channelDisableWrite t c v) s (fun s' => s'.out.status = stOk ∧
       getObj s' t.val (Obj.channelDisable + c.val) = 1 ∧ getObj s' t.val (Obj.channelState + c.val) = 4 ∧
       ((getQueue s t.val c.val).rq = [] → (getQueue s t.val c.val).wq = [] → (getQueue s t.val c.val).deferred = [] →
         (∀ r ∈ openReqs s t.val, r.requester ≠ 0x60) →
         (getSched s t.val).mapPass = {} → (getSched s t.val).mapBest = {} → SameMemory s s'))))) ∧
  (∀ (t : TileN) (c : ChanN) (s : State),
     (∀ (a : Acc) (m : Mig), tripped s = false → inReset s t.val = false → copiedMig s t.val c.val = some a →
       (getProt s t.val).running.find? (fun x => x.chan = c.val) = some m →
       Answers (.migrationComplete t c) s (fun s' => SameMemory s s' ∧
         (∀ e, m.entry = some e → getRemap s' t.val c.val m.bank =
           { entries := setNth (getRemap s t.val c.val m.bank).entries e (some (m.row, m.spare)),
             spares := setNth (setNth (getRemap s t.val c.val m.bank).spares
               (match (getRemap s t.val c.val m.bank).entries.getD e none with | some (_, sp) => sp | none => 0) 2)
               m.spare 1 }) ∧
         (∀ e, m.entry = none → freeEntry (getRemap s t.val c.val m.bank) = some e →
           getRemap s' t.val c.val m.bank =
           { entries := setNth (getRemap s t.val c.val m.bank).entries e (some (m.row, m.spare)),
             spares := setNth (getRemap s t.val c.val m.bank).spares m.spare 1 }) ∧
         (∀ k, k ≠ bkKey t.val c.val m.bank → fget {} s'.remap k = fget {} s.remap k))) ∧
     (tripped s = true ∨ inReset s t.val = true ∨ copiedMig s t.val c.val = none ∨
       (getProt s t.val).running.find? (fun x => x.chan = c.val) = none → NoEffect (.migrationComplete t c) s))

/-- R267, R268: the Blotter reads one sector of its lap when it is due and moves on, past the spares its lap does not
read, ending the lap after the last; a lap longer than ScrubLapLimit sets the channel's bit of ScrubOverdue.
What it takes from the model's readings and choices: assumptions 4, 19, 159. -/
def Obligations.BlotterLaps : Prop :=
  ∀ (t : TileN) (c : ChanN) (s : State),
    let LapEnds (s' : State) := (getBlot s' t.val c.val).sector = 0 ∧ (getBlot s' t.val c.val).bank = 0 ∧
      (getBlot s' t.val c.val).row = 0 ∧
      getObj s' t.val (Obj.scrubLaps + c.val) = (getObj s t.val (Obj.scrubLaps + c.val) + 1) % 2 ^ 32 ∧
      getObj s' t.val (Obj.scrubLapProgress + c.val) = 0 ∧
      bit (getObj s' t.val Obj.scrubOverdue) c.val = false ∧ SameMemory s s'
    (lapBank s t.val c.val 300 (getBlot s t.val c.val) = none → Answers (.blotterAccess t c) s LapEnds) ∧
    (∀ b, lapBank s t.val c.val 300 (getBlot s t.val c.val) = some b →
      (blotterDue s t.val c.val b = false → NoEffect (.blotterAccess t c) s) ∧
      (blotterDue s t.val c.val b = true →
        (∀ w ∈ rawWords s t.val c.val b.bank (physRow s t.val c.val b.bank b.row) (b.sector * 4) 4, classify w = .good) →
        (b.sector < 63 →
          Answers (.blotterAccess t c) s (fun s' =>
            (getBlot s' t.val c.val).sector = b.sector + 1 ∧
            (getBlot s' t.val c.val).bank = b.bank ∧ (getBlot s' t.val c.val).row = b.row ∧
            getObj s' t.val (Obj.scrubLapProgress + c.val) =
              (getObj s t.val (Obj.scrubLapProgress + c.val) + 1) % 2 ^ 32 ∧
            OtherObjects s s' [(t.val, Obj.scrubLapProgress + c.val)] ∧ SameMemory s s')) ∧
        (∀ b2, lapNext s t.val c.val b = some b2 →
          Answers (.blotterAccess t c) s (fun s' => (getBlot s' t.val c.val).sector = b2.sector ∧
            (getBlot s' t.val c.val).bank = b2.bank ∧ (getBlot s' t.val c.val).row = b2.row)) ∧
        (lapNext s t.val c.val b = none → Answers (.blotterAccess t c) s LapEnds))) ∧
    (getObj s t.val Obj.scrubLapLimit * 1000000000 < s.time.elapsed - (getBlot s t.val c.val).start →
      Answers (.scrubOverdue t c) s (fun s' => bit (getObj s' t.val Obj.scrubOverdue) c.val = true ∧
        OtherObjects s s' [(t.val, Obj.scrubOverdue), (t.val, Obj.troubleLogDropped)] ∧ SameMemory s s')) ∧
    (s.time.elapsed - (getBlot s t.val c.val).start ≤ getObj s t.val Obj.scrubLapLimit * 1000000000 →
      NoEffect (.scrubOverdue t c) s)

/-- R39, R40: a populated offset is translated, and translated back, by the procedures of the rules. TranslateAddress and UntranslateRequest put their result into TranslateResult, and each undoes the
other: the offset of the place of a populated address is the address's offset again. -/
def Obligations.AddressTranslationRoundTrip : Prop :=
  (∀ (t : TileN) (v : BitVec 64) (s : State),
    Answers (.translateAddress t v) s (fun s' => s'.out = { status := stOk } ∧
      getObj s' t.val Obj.translateResult = translateResult v.toNat ∧
      OtherObjects s s' [(t.val, Obj.translateAddress), (t.val, Obj.translateResult)] ∧
      s' = { s with dict := s'.dict, out := s'.out }) ∧
    Answers (.untranslateRequest t v) s (fun s' => s'.out = { status := stOk } ∧
      getObj s' t.val Obj.translateResult = untranslateResult v.toNat ∧
      OtherObjects s s' [(t.val, Obj.untranslateRequest), (t.val, Obj.translateResult)] ∧
      s' = { s with dict := s'.dict, out := s'.out })) ∧
  (∀ offset, offset < populated →
    let g := offset / 2048
    let q := g / 48
    let sum := q % 64 + q / 64 % 64 + q / 4096 % 32
    translate offset = { chan := (g % 48 + sum) % 48, bank := (q % 16) ^^^ (q / 8192 % 16), row := q / 16 % 8192
                         byte := offset % 2048 }) ∧
  (∀ c b row byte : Nat, c < 48 → b < 16 → row < 8192 → byte < 2048 →
    let q := row * 16 + (b ^^^ (row / 512 % 16))
    let sum := q % 64 + q / 64 % 64 + q / 4096 % 32
    untranslate c b row byte = (48 * q + (((c : Int) - (sum : Int)) % 48).toNat) * 2048 + byte ∧
      untranslate c b row byte < populated) ∧
  (∀ a, addrOffset a < populated → untranslateResult (translateResult a) = addrOffset a) ∧
  (∀ c b row byte, c < 48 → b < 16 → row < 8192 → byte < 2048 →
    translate (untranslate c b row byte) = { chan := c, bank := b, row := row, byte := byte })

/-- The stack's memory keeps its canonical form through every command of a layer's interface, an error injection, the
filling of a channel and power-on.
What it takes from the model's readings and choices: assumption 13. -/
def Obligations.MemoryStaysCanonical : Prop :=
  ∀ (t : TileN) (c : ChanN) (w arg : BitVec 20) (v : BitVec 64) (x : BitVec 128) (beats : List (BitVec 144)) (s s' : State),
    memoryWf s = true →
    ∀ cmd ∈ ([.act t c w, .rd t c w, .wr t c w beats, .pre t c w, .prea t c w, .ref t c w, .rcopy t c w arg, .rfill t c w arg,
      .mrw t c w v, .mrr t c w, .trw t c w, .trr t c w, .errorInjectFlipOne t x, .errorInjectFlipTwo t x,
      .errorInjectPoison t x, .stackInitialisationDone t c, .powerOnReset] : List Instr),
      exec cmd s = .next s' → memoryWf s' = true

/-! ## Requests -/

/-- R62, R125, R146 to R148, R409: a beat that its side does not take changes nothing, but that the buffer of a request
begun notes that the tile withheld its acknowledge. One that leaves its request
incomplete is kept in its assembly buffer. The beat that completes a request empties the buffer, and the
request is accepted, after those accepted before, each as it was; or, addressed to another tile, it is on its
way there. A malformed one, one that leaves the populated window, and one that no range register permits
are answered BAD_FORMAT, DECODE_ERROR and ACCESS_DENIED.
R14, R63, R86: the oldest request from a source tile is accepted at its owner, in the order sent, with the
requester code of the tile of the one that asks, unless the gateway's FIFO for it waits or the tile takes no request.
R241: one that names an entry of the tile's map comes to its block map; a forwarded one is not taken here.
What it takes from the model's readings and choices: assumptions 4, 29. -/
def Obligations.RequestsArrive : Prop :=
  (∀ (t : TileN) (src : Side) (hdr : Bool) (beat : BitVec 512) (poison : Bool) (s : State),
     (beatKind s t.val src hdr beat.toNat poison = .closed →
       NoEffect (.requestBeat t src hdr beat poison) s ∧ NoEffect (.requestAccept t src hdr beat poison) s) ∧
     (∀ key, beatKind s t.val src hdr beat.toNat poison = .withheld key →
       ∀ cmd ∈ ([.requestBeat t src hdr beat poison, .requestAccept t src hdr beat poison] : List Instr),
         exec cmd s = .next { s with asm := fupd {} s.asm key (fun a => { a with held := a.active }), out := {} }) ∧
     (∀ key a, beatKind s t.val src hdr beat.toNat poison = .hold key a →
       NoEffect (.requestAccept t src hdr beat poison) s ∧
       Answers (.requestBeat t src hdr beat poison) s (fun s' => fget {} s'.asm key = a ∧
         (∀ k, k ≠ key → fget ({} : Asm) s'.asm k = fget {} s.asm k) ∧ SameMemory s s' ∧
         s' = { s with asm := s'.asm, dict := s'.dict, count := s'.count, out := {} })) ∧
     (∀ key a, beatKind s t.val src hdr beat.toNat poison = .complete key a →
       let r := asmReq s t.val src a.header a.beats
       let gateway := match src with | .host _ => false | .gateway _ => true
       let bad := hdReserved a.header gateway || badLength r.len
       let isFar := !gateway && !bad && decide (addrTile r.addr ≠ t.val)
       NoEffect (.requestBeat t src hdr beat poison) s ∧
       Answers (.requestAccept t src hdr beat poison) s (fun s' => fget ({} : Asm) s'.asm key = {} ∧ SameMemory s s' ∧
         (isFar = true → hdBarrier a.header = false →
           openReqs s' t.val = (openReqs s t.val).filter (fun q => q.id ≠ (getSched s t.val).nextId) ∧
           ∃ x, s'.farReqs = s.farReqs ++ [x] ∧ x.src = t.val ∧ x.origin = t.val ∧ x.orig = r.orig ∧
             x.dst = addrTile r.addr ∧ x.tag = r.tag ∧ x.addr = r.addr ∧ x.len = r.len ∧ x.write = r.write ∧
             x.data = r.data ∧ x.passNo = r.passNo) ∧
         (isFar = true → hdBarrier a.header = true →
           (s'.farReqs = s.farReqs ∧ ∃ x ∈ openReqs s' t.val, x.tag = r.tag ∧ x.waiting = 2) ∨
           ∃ x, s'.farReqs = s.farReqs ++ [x] ∧ x.dst = addrTile r.addr ∧ x.tag = r.tag ∧ x.barrier = true) ∧
         (isFar = false → (bad = true ∨ addrTile r.addr = t.val) → s'.farReqs = s.farReqs ∧ (openReqs s' t.val).map reqKey =
           (openReqs s t.val).map reqKey ++ [reqKey { r with id := (getSched s t.val).nextId }]) ∧
         (bad = true → ∃ x, (openReqs s' t.val).getLast? = some x ∧ x.status = stBadFormat ∧ x.left = 0) ∧
         (bad = false → isFar = false → populated < addrOffset r.addr + r.len →
           ∃ x, (openReqs s' t.val).getLast? = some x ∧ x.status = stDecodeError ∧ x.left = 0) ∧
         (bad = false → isFar = false → addrOffset r.addr + r.len ≤ populated → r.orig ≠ 0x60 →
           rangeCheck s t.val (if gateway then some r.source else none) r.requester r.addr r.len r.write = .denied →
           ∃ x, (openReqs s' t.val).getLast? = some x ∧ x.status = stAccessDenied ∧ x.left = 0 ∧
             getObj s' t.val Obj.accessDenials = (getObj s t.val Obj.accessDenials + 1) % 2 ^ 32 ∧
             getObj s' t.val Obj.lastDeniedAddress = fld 56 8 r.requester + r.addr % 2 ^ 40)))) ∧
  (∀ (t src : TileN) (s : State),
     (starting s = true ∨ inHold s t.val = true ∨ tripped s = true ∨ inReset s t.val = true ∨
       farHead s t.val src.val = none → NoEffect (.farRequestArrival t src) s) ∧
     (∀ x, starting s = false → inHold s t.val = false → tripped s = false → inReset s t.val = false →
       farHead s t.val src.val = some x →
       (x.kind = .device → fifoWaits s t.val (0x20 + x.origin) x.passNo.isSome = true →
         NoEffect (.farRequestArrival t src) s) ∧
       (x.kind = .device → fifoWaits s t.val (0x20 + x.origin) x.passNo.isSome = false → addrTile x.addr = t.val →
         Answers (.farRequestArrival t src) s (fun s' =>
           s'.farReqs = removeFirst (fun y => y.dst = t.val ∧ y.src = src.val) s.farReqs ∧
           (openReqs s' t.val).map reqKey = (openReqs s t.val).map reqKey ++
             [((getSched s t.val).nextId, 0x20 + x.origin, x.orig, x.origin, x.tag, x.addr, x.len, x.write)] ∧
           SameMemory s s')) ∧
       (∀ e off p w, x.kind = .mapped e off p w →
         Answers (.farRequestArrival t src) s (fun s' =>
           s'.farReqs = removeFirst (fun y => y.dst = t.val ∧ y.src = src.val) s.farReqs ∧
           (getMap s' t.val).input = (getMap s t.val).input ++ [⟨farReqOf x, e, off, p, w⟩] ∧
           openReqs s' t.val = openReqs s t.val ∧ SameMemory s s')) ∧
       ((∀ e off p w, x.kind ≠ .mapped e off p w) → x.kind ≠ .device → NoEffect (.farRequestArrival t src) s)))

/-- R67, R410, R415: a request with no access outstanding leaves with its one response, offered at its host
port behind those that wait there or handed to the engine that asked, or sent to its source tile, where the same
happens; an acknowledged beat gives way to the next one.
What it takes from the model's readings and choices: assumptions 4, 16, 108. -/
def Obligations.OneResponseForEachRequest : Prop :=
  (∀ (t : TileN) (id : Nat) (s : State), fget [] s.replies (t.val * 256 + 0x60) = [] →
    (∀ r, findReq s t.val id = some r → r.left = 0 → r.waiting = 0 → r.orig ≠ 0x60 →
      let gateway := 0x20 ≤ r.requester ∧ r.requester < 0x60
      Answers (.responseOffer t id) s (fun s' => s'.out.status = r.status ∧
        openReqs s' t.val = (openReqs s t.val).filter (fun q => q.id ≠ id) ∧ SameMemory s s' ∧
        (∀ p : PortN, ¬ gateway → r.orig = p.val → r.dropped = false →
          fget [] s'.resp (t.val * 4 + p.val) =
            fget [] s.resp (t.val * 4 + p.val) ++ [mkResp s t.val p.val r (retryHint s r)] ∧
          s'.farResps = s.farResps ∧ s'.replies = s.replies) ∧
        (¬ gateway → 4 ≤ r.orig → r.dropped = false → s'.resp = s.resp ∧ s'.farResps = s.farResps ∧
          ∃ x, fget [] s'.replies (t.val * 256 + r.orig) = fget [] s.replies (t.val * 256 + r.orig) ++ [x] ∧
            x.tag = r.tag ∧ x.status = r.status ∧ x.write = r.write ∧ x.data = r.data ∧ x.pois = r.pois) ∧
        (gateway → s'.resp = s.resp ∧ s'.replies = s.replies ∧
          s'.farResps = s.farResps ++ [⟨t.val, r.source, r, retryHint s r⟩]))) ∧
    (findReq s t.val id = none ∨ (∃ r, findReq s t.val id = some r ∧ (r.left ≠ 0 ∨ r.waiting ≠ 0)) →
      NoEffect (.responseOffer t id) s)) ∧
  (∀ (t : TileN) (p : PortN) (s : State),
    (fget [] s.resp (t.val * 4 + p.val) = [] → NoEffect (.responseBeatAck t (.host p)) s) ∧
    (∀ r rest, fget [] s.resp (t.val * 4 + p.val) = r :: rest →
      Answers (.responseBeatAck t (.host p)) s (fun s' =>
        (∀ b b' bs, r.beats = b :: b' :: bs →
          fget [] s'.resp (t.val * 4 + p.val) = { r with beats := b' :: bs } :: rest) ∧
        (r.beats.length ≤ 1 → fget [] s'.resp (t.val * 4 + p.val) = rest) ∧ SameMemory s s' ∧
        s' = { s with resp := s'.resp, dict := s'.dict, count := s'.count, out := {} }))) ∧
  (∀ (t u : TileN) (s : State), NoEffect (.responseBeatAck t (.gateway u)) s) ∧
  (∀ (t owner : TileN) (s : State), fget [] s.replies (t.val * 256 + 0x60) = [] →
    (s.farResps.find? (fun x => x.dst = t.val ∧ x.owner = owner.val) = none →
      NoEffect (.farResponseArrival t owner) s) ∧
    (∀ x, s.farResps.find? (fun x => x.dst = t.val ∧ x.owner = owner.val) = some x → x.req.orig ≠ 0x60 →
      Answers (.farResponseArrival t owner) s (fun s' =>
        s'.farResps = removeFirst (fun y => y.dst = t.val ∧ y.owner = owner.val) s.farResps ∧ SameMemory s s' ∧
        (∀ p : PortN, x.req.orig = p.val → x.req.dropped = false →
          fget [] s'.resp (t.val * 4 + p.val) =
            fget [] s.resp (t.val * 4 + p.val) ++ [mkResp s t.val p.val x.req x.hint]) ∧
        (x.req.dropped = true ∨ 4 ≤ x.req.orig → s'.resp = s.resp) ∧
        (4 ≤ x.req.orig → x.req.dropped = false →
          ∃ y, fget [] s'.replies (t.val * 256 + x.req.orig) = fget [] s.replies (t.val * 256 + x.req.orig) ++ [y] ∧
            y.tag = x.req.tag ∧ y.status = x.req.status ∧ y.data = x.req.data))))

/-- R70, R85, R429: a request that waits at the head of its FIFO is queued once every access of it can have an
entry, and a barrier once no earlier request of its requester is open: a far one then leaves its tile. Write-backs,
migrations and flushes that wait outside take freed entries oldest first of those that fit, a copy or fill of the
block map one that it waits for; nothing is lost and memory does not change.
What it takes from the model's readings and choices: assumptions 4, 20, 114. -/
def Obligations.WaitingWorkGoesOn : Prop :=
  (∀ (t : TileN) (q : BitVec 8) (passFifo : Bool) (s : State), q.toNat ≠ 0x60 →
    let head := (openReqs s t.val).find? (fun r => r.requester = q.toNat ∧ reqFifo r = passFifo ∧
      (r.waiting = 1 ∨ r.waiting = 3))
    (head = none → NoEffect (.ingressStallRelease t q passFifo) s) ∧
    (∀ r, head = some r →
      Answers (.ingressStallRelease t q passFifo) s (fun s' => SameMemory s s' ∧
        (openReqs s' t.val).map reqKey = (openReqs s t.val).map reqKey ∧
        (r.write = false → s.merge = [] → (∀ c, (getQueue s t.val c).deferred = []) →
          roomForAll s t.val ((accesses r).map (fun e => (e.1, { e.2 with noFwd := r.met.contains e.2.off }))) = true →
          ∀ x ∈ openReqs s' t.val, x.id = r.id → x.waiting = 0)))) ∧
  (∀ (t : TileN) (passFifo : Bool) (s : State), (∀ r ∈ openReqs s t.val, r.requester ≠ 0x60) →
    (getSched s t.val).mapPass = {} →
    ((getSched s t.val).mapBest = {} → NoEffect (.ingressStallRelease t 0x60 passFifo) s) ∧
    (∀ c a, (getSched s t.val).mapBest = { head := some (c, a), behind := [] } → (getQueue s t.val c).deferred = [] →
      chState s t.val c ≠ 4 → (∀ r b row, a.kind ≠ .bounceWrite r b row) →
      (entryRoom s t.val c a = false → NoEffect (.ingressStallRelease t 0x60 passFifo) s) ∧
      (entryRoom s t.val c a = true → Answers (.ingressStallRelease t 0x60 passFifo) s (fun s' => SameMemory s s' ∧
        getQueue s' t.val c = { getQueue s t.val c with wq := (getQueue s t.val c).wq ++ [a] } ∧
        (getSched s' t.val).mapBest = {} ∧ s' = { s with queue := s'.queue, sched := s'.sched, out := {} })))) ∧
  (∀ (t : TileN) (q : BitVec 8) (s : State),
    (openReqs s t.val).find? (fun r => r.requester = q.toNat ∧ r.waiting = 2) = none →
      NoEffect (.barrierRelease t q) s) ∧
  (∀ (t : TileN) (q : BitVec 8) (r : Req) (s : State),
    (openReqs s t.val).find? (fun r => r.requester = q.toNat ∧ r.waiting = 2) = some r →
    (earlierOpen s t.val r = true → NoEffect (.barrierRelease t q) s) ∧
    (earlierOpen s t.val r = false → addrTile r.addr = t.val →
      Answers (.barrierRelease t q) s (fun s' => SameMemory s s' ∧
        (openReqs s' t.val).map reqKey = (openReqs s t.val).map reqKey ∧
        ∀ x ∈ openReqs s' t.val, x.id = r.id → x.waiting = 0 ∨ x.waiting = 1 ∨ x.waiting = 3)) ∧
    (earlierOpen s t.val r = false → addrTile r.addr ≠ t.val →
      Answers (.barrierRelease t q) s (fun s' => SameMemory s s' ∧
        openReqs s' t.val = (openReqs s t.val).filter (fun x => x.id ≠ r.id) ∧
        ∃ x, s'.farReqs = s.farReqs ++ [x] ∧ x.src = t.val ∧ x.dst = addrTile r.addr ∧ x.tag = r.tag ∧
          x.addr = r.addr ∧ x.len = r.len ∧ x.write = r.write ∧ x.barrier = r.barrier))) ∧
  (∀ (t : TileN) (c : ChanN) (write : Bool) (s : State),
    (write = false → (∀ a ∈ (getQueue s t.val c.val).deferred, a.job ≠ .migrate) → NoEffect (.deferredWorkEntry t c write) s) ∧
    ((getQueue s t.val c.val).deferred.filter (entryRoom s t.val c.val) = [] → NoEffect (.deferredWorkEntry t c write) s) ∧
    (write = true ∨ (∃ a ∈ (getQueue s t.val c.val).deferred, a.job = .migrate) →
      Answers (.deferredWorkEntry t c write) s (fun s' => SameMemory s s' ∧ s'.dict = s.dict ∧
        (∃ l, (getQueue s' t.val c.val).wq = (getQueue s t.val c.val).wq ++ l ∧
          (∀ a ∈ l, a ∈ (getQueue s t.val c.val).deferred) ∧
          (getQueue s' t.val c.val).deferred.length + l.length = (getQueue s t.val c.val).deferred.length) ∧
        (∀ a, minBy (fun a => a.order) ((getQueue s t.val c.val).deferred.filter (entryRoom s t.val c.val)) = some a →
          a ∈ (getQueue s' t.val c.val).wq))))

/-- R89, R90, R92, R429: an entry of the merge buffer held too long is flushed: it is free once every access of its
flush has a queue entry, and holds those that wait till then. MergeEnable 0 flushes every entry of the tile.
R77, R78, R79, R92: the picker does nothing while its channel may not act. Where nothing else waits, a read whose
bank is precharged has its row opened first: the ACT of its physical row goes down. A row left open without use for
OpenRowIdle is precharged.
What it takes from the model's readings and choices: assumptions 4, 23, 167, 170. -/
def Obligations.MergesFlushAndBanksPrepare : Prop :=
  ((∀ (t : TileN) (i : Fin 32) (s : State),
     ((getMerge s t.val i.val).valid = true → (getMerge s t.val i.val).flushing = false → tripped s = false →
       holdLimit s t.val < s.time.elapsed - (getMerge s t.val i.val).stamp + 10 →
       Answers (.mergeHoldFlush t i) s (fun s' =>
         getMerge s' t.val i.val =
           (if (getQueue s' t.val (translate (getMerge s t.val i.val).line).chan).deferred.any (fun a => a.slot = some i.val)
            then { getMerge s t.val i.val with flushing := true } else {}) ∧
         (∀ k, k ≠ t.val * 32 + i.val → fget ({} : Merge) s'.merge k = fget {} s.merge k) ∧
         getObj s' t.val Obj.mergeHoldFlushes = (getObj s t.val Obj.mergeHoldFlushes + 1) % 2 ^ 64 ∧
         (openReqs s' t.val).map reqKey = (openReqs s t.val).map reqKey ∧ SameMemory s s')) ∧
     ((getMerge s t.val i.val).valid = false ∨ (getMerge s t.val i.val).flushing = true ∨ tripped s = true ∨
         s.time.elapsed - (getMerge s t.val i.val).stamp + 10 ≤ holdLimit s t.val →
       NoEffect (.mergeHoldFlush t i) s)) ∧
   (∀ (t : TileN) (v : BitVec 8) (s : State),
     (1 < v.toNat → Refuses (.mergeEnableWrite t v) s stBadFormat) ∧
     (v.toNat = 1 → WritesRws (.mergeEnableWrite t v) s t.val Obj.mergeEnable 1) ∧
     (v.toNat = 0 → Answers (.mergeEnableWrite t v) s (fun s' => s'.out.status = stOk ∧
       getObj s' t.val Obj.mergeEnable = 0 ∧
       (∀ i < 32, (getMerge s' t.val i).valid = true → (getMerge s' t.val i).flushing = true) ∧ SameMemory s s')))) ∧
  (∀ (t : TileN) (c : ChanN) (s : State),
     (tempReady s t.val c.val = false → pickerRuns s t.val c.val = false → NoEffect (.channelPick t c) s) ∧
     (tempReady s t.val c.val = true → Answers (.channelPick t c) s (fun s' =>
       getLayer s' t.val c.val = { getLayer s t.val c.val with
         tempDue := false, down := (getLayer s t.val c.val).down ++ [{ word := opWord 9 0 (fld 4 6 2) }] } ∧
       SameMemory s s' ∧ s' = { s with layer := s'.layer, out := {} })) ∧
     (∀ (a : Acc), tempReady s t.val c.val = false → pickerRuns s t.val c.val = true → windowOpen s t.val c.val = false →
       (∀ r ∈ openReqs s t.val, r.requester ≠ 0x60) →
       (getSched s t.val).mapPass = {} → (getSched s t.val).mapBest = {} →
       (getQueue s t.val c.val).rq = [a] → (getQueue s t.val c.val).wq = [] → (getQueue s t.val c.val).deferred = [] →
       a.kind = .read → a.stage = 0 → a.pass = false → a.promo = 9 → a.low = false → a.reg = none → a.job = .none →
       a.prow = none → a.bank < 16 →
       getBank s t.val c.val a.bank = .closed → bankPending s t.val c.val a.bank = false →
       Answers (.channelPick t c) s (fun s' =>
         (getLayer s' t.val c.val).down = (getLayer s t.val c.val).down ++
           [{ word := rowWord a.bank (physRow s t.val c.val a.bank a.row), acc := a.id }] ∧
         SameMemory s s' ∧ s'.bank = s.bank ∧
         ∃ x, (getQueue s' t.val c.val).rq = [x] ∧ x.id = a.id ∧ x.stage = 0)) ∧
     (∀ (b : BankN) (r : Nat), getBank s t.val c.val b.val = .opened r →
       (pickerRuns s t.val c.val = true → windowOpen s t.val c.val = false → bankPending s t.val c.val b.val = false →
         bankHolder s t.val c.val b.val = none →
         (getPage s t.val c.val b.val).lastAccess + getObj s t.val Obj.openRowIdle ≤ s.time.elapsed →
         (∀ a ∈ bankQueue s t.val c.val b.val, targetRow s t.val c.val a ≠ r) →
         Answers (.openRowIdlePrecharge t c b) s (fun s' =>
           (getLayer s' t.val c.val).down = (getLayer s t.val c.val).down ++ [{ word := opWord 3 b.val 0 }] ∧
           SameMemory s s' ∧ s' = { s with layer := s'.layer, out := {} })) ∧
       (pickerRuns s t.val c.val = false ∨ windowOpen s t.val c.val = true ∨ bankPending s t.val c.val b.val = true ∨
           (bankHolder s t.val c.val b.val).isSome = true ∨
           (∃ a ∈ bankQueue s t.val c.val b.val, targetRow s t.val c.val a = r) ∨
           s.time.elapsed < (getPage s t.val c.val b.val).lastAccess + getObj s t.val Obj.openRowIdle →
         NoEffect (.openRowIdlePrecharge t c b) s)))

/-! ## Hall Passes, regulation, Timetables -/

/-- R100, R101, R110, R111, R120: a contract that finds the admission controller at work waits behind. One that finds
it free is decided at once: a field out of range, or a range that is not its partition's, is refused in
PassResult; a far one asks its source tile first; for a near one a probe only answers, and a grant takes a
number that no pass holds, with the contract's terms and full buckets; every other pass stays as it was but for
the bound it shows.
What it takes from the model's readings and choices: assumptions 22, 24, 115, 130, 131. -/
def Obligations.PassAdmission : Prop :=
  ∀ (t : TileN) (contract : BitVec 512) (s : State),
    let c := contract.toNat
    let Result (s' : State) (v : Nat) := s'.out = { status := stOk } ∧ getObj s' t.val Obj.passResult = v
    let Refused (s' : State) (reason rate bound : Nat) :=
      Result s' (passResult stRefusedAdmission reason 0 0 rate bound) ∧ s'.passes = s.passes ∧
      getObj s' t.val Obj.passRefusals = (getObj s t.val Obj.passRefusals + 1) % 2 ^ 32 ∧
      getObj s' t.val Obj.lastRefusalReason = reason % 256
    let Only (s' : State) := getAdm s' t.val = [] ∧ OtherObjects s s' [(t.val, Obj.passResult)] ∧
      s' = { s with dict := s'.dict, adm := s'.adm, out := s'.out }
    (∀ cmd ∈ ([.passRequest t contract, .passProbe t contract] : List Instr),
      (getAdm s t.val ≠ [] →
        Answers cmd s (fun s' => (∃ j, getAdm s' t.val = getAdm s t.val ++ [j] ∧ j.terms = c) ∧
          s' = { s with adm := s'.adm, out := { status := stOk } })) ∧
      (getAdm s t.val = [] → contractBad t.val c = true → Answers cmd s (fun s' =>
        Result s' (passResult stBadFormat 0 0 0 0 0) ∧ Only s')) ∧
      (getAdm s t.val = [] → contractBad t.val c = false → rangeBelongs s t.val c = false → Answers cmd s (fun s' =>
        Result s' (passResult stAccessDenied 0 0 0 0 0) ∧ Only s')) ∧
      (contractBad t.val c = false → rangeBelongs s t.val c = true → getAdm s t.val = [] → isFar t.val c = true →
        Answers cmd s (fun s' => (∃ j, getAdm s' t.val = [j] ∧ j.terms = c) ∧
          (∃ q, s'.queries = s.queries ++ [q] ∧ q.src = t.val ∧ q.dst = cSource c ∧ q.kind = 4 ∧ q.arg = c) ∧
          s' = { s with adm := s'.adm, queries := s'.queries, out := { status := stOk } }))) ∧
    (contractBad t.val c = false → rangeBelongs s t.val c = true → getAdm s t.val = [] → isFar t.val c = false →
      (∀ st, decideAdmission s t.val c false 0 false = .status st → Answers (.passProbe t contract) s (fun s' =>
        Result s' (passResult st 0 0 0 0 0) ∧ Only s')) ∧
      (∀ r a b, decideAdmission s t.val c false 0 false = .refuse r a b →
        Answers (.passProbe t contract) s (fun s' => Refused s' r a b)) ∧
      (∀ d, decideAdmission s t.val c false 0 false = .ok d → Answers (.passProbe t contract) s (fun s' =>
        Result s' (passResult stOk 0 0 d 0 0) ∧ Only s')) ∧
      (∀ st, decideAdmission s t.val c true 0 false = .status st → Answers (.passRequest t contract) s (fun s' =>
        Result s' (passResult st 0 0 0 0 0) ∧ Only s')) ∧
      (∀ r a b, decideAdmission s t.val c true 0 false = .refuse r a b →
        Answers (.passRequest t contract) s (fun s' => Refused s' r a b)) ∧
      (∀ d, decideAdmission s t.val c true 0 false = .ok d → fwf (fun _ => ({} : Pass)) s.passes = true →
        Answers (.passRequest t contract) s (fun s' =>
          ∃ p, p < 256 ∧ (getPass s t.val p).state = 0 ∧ Result s' (passResult stOk 0 p d 0 0) ∧
            (∃ b, getPass s' t.val p = { livePass s (if cBound c = 0 then withBound c d else c) d with computed := b }) ∧
            (∀ k, k ≠ t.val * 256 + p → { fget ({} : Pass) s'.passes k with computed := 0 } =
              { fget ({} : Pass) s.passes k with computed := 0 }) ∧
            getObj s' t.val (Obj.passMissCount + p) = 0 ∧ getObj s' t.val (Obj.passBytes + p) = 0 ∧ SameMemory s s')))

/-- R114, R115, R118, R119: PassRelease of a FREE number and PassRegrant of a pass not LAPSED are refused with
BAD_FORMAT. A release ends a LAPSED pass at once and waits behind a PassRegrant of the same pass; any other pass
it marks released at this time, and the pass keeps its terms until its last request is answered. A granted
PassRegrant makes the pass LIVE on its terms. A pass returns to LIVE after twice its bound without a cause or a
miss.
What it takes from the model's readings and choices: assumptions 4, 115, 133. -/
def Obligations.PassLife : Prop :=
  let SameButBound (s s' : State) (key : Nat) := ∀ k, k ≠ key → { fget ({} : Pass) s'.passes k with computed := 0 } =
    { fget ({} : Pass) s.passes k with computed := 0 }
  (∀ (t : TileN) (v : BitVec 8) (s : State),
    let x := getPass s t.val v.toNat
    (x.state = 0 → Refuses (.passRelease t v) s stBadFormat) ∧
    (x.state ≠ 0 → (∃ j ∈ getAdm s t.val, j.kind = 2 ∧ j.pass = v.toNat) →
      Answers (.passRelease t v) s (fun s' =>
        getAdm s' t.val = getAdm s t.val ++ [{ kind := 3, pass := v.toNat }] ∧
        s' = { s with adm := s'.adm, out := { status := stOk } })) ∧
    (x.state ≠ 0 → (∀ j ∈ getAdm s t.val, ¬ (j.kind = 2 ∧ j.pass = v.toNat)) →
      fwf (fun _ => ({} : Pass)) s.passes = true →
      Answers (.passRelease t v) s (fun s' => s' = { s with passes := s'.passes, out := { status := stOk } } ∧
        SameButBound s s' (t.val * 256 + v.toNat) ∧
        (x.state = 4 → getPass s' t.val v.toNat = {}) ∧
        (x.state ≠ 4 → x.released = true → getPass s' t.val v.toNat = x) ∧
        (x.state ≠ 4 → x.released = false → ∃ b, getPass s' t.val v.toNat =
          { x with released := true, releasedAt := s.time.elapsed, computed := b })))) ∧
  (∀ (t : TileN) (v : BitVec 8) (s : State),
    let x := getPass s t.val v.toNat
    (x.state ≠ 4 → Refuses (.passRegrant t v) s stBadFormat) ∧
    (x.state = 4 → isFar t.val x.terms = false → getAdm s t.val = [] →
      (∀ d, decideAdmission s t.val x.terms false 0 false = .ok d → fwf (fun _ => ({} : Pass)) s.passes = true →
        Answers (.passRegrant t v) s (fun s' => s'.out = { status := stOk } ∧
          (∃ b, getPass s' t.val v.toNat =
            { livePass s (if cBound x.terms = 0 then withBound x.terms d else x.terms) d with computed := b }) ∧
          SameButBound s s' (t.val * 256 + v.toNat) ∧
          getObj s' t.val Obj.passResult = passResult stOk 0 v.toNat d 0 0)) ∧
      (∀ r a b, decideAdmission s t.val x.terms false 0 false = .refuse r a b →
        Answers (.passRegrant t v) s (fun s' => s'.passes = s.passes ∧
          getObj s' t.val Obj.passResult = passResult stRefusedAdmission r 0 0 a b)))) ∧
  (∀ (t : TileN) (p : BitVec 8) (s : State),
    let x := getPass s t.val p.toNat
    ((x.state = 2 ∨ x.state = 3) → x.force = 0 → getObj s t.val Obj.tileRiskCause = 0 →
        x.clear + 2 * cBound x.terms ≤ s.time.elapsed →
      exec (.passReturnLive t p) s = .next { s with
        passes := fset {} s.passes (t.val * 256 + p.toNat) { x with state := 1, cause := 0 }, out := {} }) ∧
    ((x.state ≠ 2 ∧ x.state ≠ 3) ∨ x.force ≠ 0 ∨ getObj s t.val Obj.tileRiskCause ≠ 0 ∨
        s.time.elapsed < x.clear + 2 * cBound x.terms → NoEffect (.passReturnLive t p) s))

/-- R122, R126, R130, R137, R138, R296: RangeRegister refuses a value out of its rules with BAD_FORMAT, and with
RETRY one that takes a live pass its range; an accepted one is stored and the regulators are checked
against it. A queue sample records every queue's depth; SampleClear clears largest values, sums and the
count at the next one. A token given back lets its array, channel,
vector unit or link stage go on.
What it takes from the model's readings and choices: assumptions 4, 11, 26, 29. -/
def Obligations.RangesSamplesAndTokens : Prop :=
  (∀ (t : TileN) (i : Fin 16) (v : BitVec 128) (s : State),
    (rangeBad v.toNat = true → Refuses (.rangeRegisterWrite t i v) s stBadFormat) ∧
    (rangeBad v.toNat = false →
      rangesHold s (setObj t.val (Obj.rangeRegister + i.val) (rangeStored v.toNat) s) t.val = false →
      Refuses (.rangeRegisterWrite t i v) s stRetry) ∧
    (rangeBad v.toNat = false →
      rangesHold s (setObj t.val (Obj.rangeRegister + i.val) (rangeStored v.toNat) s) t.val = true →
      Answers (.rangeRegisterWrite t i v) s (fun s' => s'.out = { status := stOk } ∧
        getObj s' t.val (Obj.rangeRegister + i.val) = rangeStored v.toNat ∧
        OtherObjects s s' ((t.val, Obj.rangeRegister + i.val) :: ((List.range 17).map (fun r => (t.val, Obj.overBudgetEntries + r))
          ++ (List.range 17).map (fun r => (t.val, Obj.overBudgetTime + r)))) ∧
        s' = { s with dict := s'.dict, overFrom := s'.overFrom, out := s'.out }))) ∧
  (∀ (t : TileN) (v : BitVec 8) (s : State),
    (v.toNat = 1 → exec (.sampleClear t v) s = .next { s with
      sampleClear := fset false s.sampleClear t.val true, out := { status := stOk } }) ∧
    (v.toNat = 0 → NoEffect (.sampleClear t v) s) ∧ (1 < v.toNat → Refuses (.sampleClear t v) s stBadFormat)) ∧
  (∀ (t : TileN) (s : State),
    (due s t.val 1 (getObj s t.val Obj.samplePeriod) = false → NoEffect (.queueSample t) s) ∧
    (due s t.val 1 (getObj s t.val Obj.samplePeriod) = true →
      Answers (.queueSample t) s (fun s' => fget false s'.sampleClear t.val = false ∧ SameMemory s s' ∧
        getObj s' t.val Obj.sampleCount =
          (if fget false s.sampleClear t.val then 0 else (getObj s t.val Obj.sampleCount + 1) % 2 ^ 64) ∧
        (∀ c < 48, getObj s' t.val (Obj.readDepthLast + c) = (getQueue s t.val c).rq.length % 256 ∧
          getObj s' t.val (Obj.writeDepthLast + c) = (getQueue s t.val c).wq.length % 256 ∧
          (fget false s.sampleClear t.val = true → getObj s' t.val (Obj.readDepthMax + c) = 0 ∧
            getObj s' t.val (Obj.readDepthSum + c) = 0)) ∧
        s' = { s with dict := s'.dict, last := s'.last, sampleClear := s'.sampleClear, out := {} }))) ∧
  (∀ (t : TileN) (target : Fin 58) (s : State),
    exec (.tokenGrant t target) s = .next { s with
      withheld := fset false s.withheld (t.val * 58 + target.val) false, out := {} })

/-- R139, R140, R141, R144, R150: a commit puts the admin list behind the running one with the start R140 gives,
or leaves both and tells why in TimetableCommitResult; at its start the list runs in every channel; at a start
and at a change of entries the fragments still running of a class whose gate closes are counted.
What it takes from the model's readings and choices: assumptions 4, 29, 133, 135. -/
def Obligations.TimetablesRun : Prop :=
  let CountsOverruns (s s' : State) (t : Nat) :=
    getObj s' t Obj.gateOverruns = (getObj s t Obj.gateOverruns +
      sumOf (((List.range 8).filter (fun k => bit (getTT s t).mask k && !bit (gateMask s' t) k)).map
        (runningFrags s' t))) % 2 ^ 32 ∧
    OtherObjects s s' [(t, Obj.gateOverruns)]
  (∀ (t : TileN) (v : BitVec 8) (s : State),
    let l := adminList s t.val
    let n := getObj s t.val Obj.timetableLength
    let bad := decide (n < 1 ∨ 64 < n) || l.any ttEntryBad || decide (1000000000 < ttCycle l)
    let fails := flag s t.val Obj.timetableEnable && hasLive s t.val && !ttPassesOk s t.val l
    (v.toNat = 1 → Answers (.timetableCommit t v) s (fun s' => s'.out = { status := stOk } ∧
      getObj s' t.val Obj.timetableCommitResult =
        (if bad then stBadFormat else if fails then stRefusedAdmission else stOk) ∧
      (bad = true ∨ fails = true → s'.tt = s.tt) ∧
      (bad = false → fails = false → getTT s' t.val = { getTT s t.val with
        pending := some ⟨l, ttStartAt s.time.timeBase (getObj s t.val Obj.timetableBase) (ttCycle l)⟩ }) ∧
      OtherObjects s s' [(t.val, Obj.timetableCommitResult)] ∧
      (fwf (fun _ => ({} : Pass)) s.passes = true → ∀ k, { fget ({} : Pass) s'.passes k with computed := 0 } =
        { fget ({} : Pass) s.passes k with computed := 0 }) ∧
      s' = { s with dict := s'.dict, tt := s'.tt, passes := s'.passes, out := s'.out })) ∧
    (v.toNat = 0 → NoEffect (.timetableCommit t v) s) ∧ (1 < v.toNat → Refuses (.timetableCommit t v) s stBadFormat)) ∧
  (∀ (t : TileN) (s : State),
    ((getTT s t.val).pending = none → NoEffect (.timetableStart t) s) ∧
    (∀ p, (getTT s t.val).pending = some p →
      (s.time.timeBase < p.start → NoEffect (.timetableStart t) s) ∧
      (p.start ≤ s.time.timeBase → Answers (.timetableStart t) s (fun s' =>
        getTT s' t.val = { running := some p, pending := none, gates := flag s t.val Obj.timetableEnable
                           mask := gateMask s' t.val } ∧
        CountsOverruns s s' t.val ∧
        s' = { s with dict := s'.dict, tt := s'.tt, queue := s'.queue, out := {} })))) ∧
  (∀ (t : TileN) (s : State),
    (ttInForce s t.val = none → NoEffect (.gateChange t) s) ∧
    (ttInForce s t.val ≠ none → Answers (.gateChange t) s (fun s' =>
      getTT s' t.val = { getTT s t.val with mask := gateMask s t.val } ∧ CountsOverruns s s' t.val ∧
      s' = { s with dict := s'.dict, tt := s'.tt, out := {} })))

/-! ## Engines -/

/-- R210, R211, R212: an engine that is enabled, not stopped, and has fetched fewer than eight ahead takes the
descriptor at its head and moves its head on: from the Slate at once, from elsewhere when the response to its
fetch has come. A fetch that fails traps the engine in state 5 at that index.
What it takes from the model's readings and choices: assumptions 4, 93, 146. -/
def Obligations.DescriptorFetches : Prop :=
  ∀ (t : TileN) (e : EngineN) (s : State),
    let g := getEngine s t.val e.val
    let size := max 1 (getObj s t.val (Obj.engineQueueSize + e.val))
    let head := getObj s t.val (Obj.engineHead + e.val) % size
    let a := queueAddr s t.val e.val head
    let x := getMover s t.val (2 * e.val + 1)
    let came := fget [] s.replies (t.val * 256 + (0x10 + (2 * e.val + 1)))
    let runs := flag s t.val (Obj.engineEnable + e.val) = true ∧ g.halt = 0
    let waits := g.refetch = [] ∧ head ≠ getObj s t.val (Obj.engineTail + e.val)
    let may := runs ∧ g.stopSoon = 0 ∧ moverShut s t.val = false ∧ waits ∧ g.ready.length < 8 ∧ x.ops = [] ∧ came = []
    let Others (s' : State) := ∀ k, k ≠ t.val * 6 + e.val → fget ({} : EngineS) s'.engine k = fget {} s.engine k
    let Takes (s' : State) (raw : Nat) := Others s' ∧
      getEngine s' t.val e.val = { g with ready := g.ready ++ [mkDesc s t.val e.val head raw] } ∧
      getObj s' t.val (Obj.engineHead + e.val) = (head + 1) % size % 2 ^ 32 ∧
      OtherObjects s s' [(t.val, Obj.engineHead + e.val)] ∧
      s' = { s with engine := s'.engine, dict := s'.dict, mover := s'.mover, replies := s'.replies, out := {} }
    let Traps (s' : State) (st : Nat) := Others s' ∧ (getEngine s' t.val e.val).halt = 5 ∧
      (getEngine s' t.val e.val).ready = g.ready ∧ (getEngine s' t.val e.val).stopIdx = head ∧
      getObj s' t.val (Obj.engineHead + e.val) = getObj s t.val (Obj.engineHead + e.val) ∧
      getObj s' t.val (Obj.engineStopAddress + e.val) = head % 2 ^ 32 ∧
      getObj s' t.val (Obj.engineStopStatus + e.val) = st ∧
      getObj s' t.val (Obj.fetchTraps + e.val) = (getObj s t.val (Obj.fetchTraps + e.val) + 1) % 2 ^ 32 ∧ SameMemory s s'
    (x.ops = [] → came = [] → (¬ runs ∨ g.stopSoon ≠ 0 ∨ moverShut s t.val = true ∨ fetchNext s t.val e.val = none) →
      NoEffect (.descriptorFetch t e) s) ∧
    (may → adSpace a = 2 → s.sramErr = [] → slateBad s t.val (adLow a) 64 = false →
      Answers (.descriptorFetch t e) s (fun s' => Takes s' (slateNat s t.val (adLow a) 64))) ∧
    (may → adSpace a = 2 → s.sramErr = [] → slateBad s t.val (adLow a) 64 = true →
      Answers (.descriptorFetch t e) s (fun s' => Traps s' stPoisoned)) ∧
    (∀ o y, runs → waits → g.ready.length = 7 → x.ops = [o] → o.use = .fetch head → o.at_ = .out → o.write = false →
      came = [y] → y.tag = o.tag →
      (y.status = stOk → Answers (.descriptorFetch t e) s (fun s' => Takes s' y.data ∧
        (getMover s' t.val (2 * e.val + 1)).ops = [] ∧
        fget [] s'.replies (t.val * 256 + (0x10 + (2 * e.val + 1))) = [])) ∧
      (y.status ≠ stOk → y.status ≠ stRetry → y.status < 256 →
        Answers (.descriptorFetch t e) s (fun s' => Traps s' y.status)) ∧
      (y.status = stRetry → o.sends < getObj s t.val Obj.moverRetryLimit →
        Answers (.descriptorFetch t e) s (fun s' =>
          (getMover s' t.val (2 * e.val + 1)).ops =
            [{ o with at_ := .retry (s.time.elapsed + (if y.hint = 0 then 1000 else y.hint)) }] ∧
          s' = { s with mover := s'.mover, replies := s'.replies, out := {} })))

/-- R171, R172, R222, R280: a VOP works row by row. On rows that hold no bad word it completes OK, counts the
elements it gives, and writes its destination rows alone (SMACC its running states). A row's result is that of
its operation, converted on output. It completes POISONED where a row holds a bad word, and with RESIDUE_FAULT and
nothing written on a residue mismatch that is not the first within ResidueWindow. While the vector unit waits for
its token, none starts.
What it takes from the model's readings and choices: assumptions 4, 6, 89, 90, 91, 149. -/
def Obligations.VectorOperations : Prop :=
  ∀ (t : TileN) (e : EngineN) (faults : List (BitVec 8)) (d : Desc) (rest : List Desc) (s : State) (cmd : Instr) (op : Nat),
    Issuable s t.val e.val d rest → dOp d.raw = 4 → voCode d.raw = op →
    s.sramErr = [] → d.started = false → (op, cmd) ∈ ([(1, .exp t e faults), (2, .exp2 t e faults), (3, .max t e faults), (4, .max2 t e faults),
      (5, .sum t e faults), (6, .scale t e faults), (7, .topk t e faults), (8, .smacc t e faults),
      (9, .smfin t e faults)] : List (Nat × Instr)) →
    let r := d.raw
    let width := if op = 7 then 8 * voK r else rowBytes (voOutLen r) (voOfmt r) (voOscheme r)
    let Written (o : Nat) : Prop := if op = 8 then voState r ≤ o ∧ o < voState r + 8 * voRows r
      else ∃ i < voRows r, voDst r + i * voDstride r ≤ o ∧ o < voDst r + i * voDstride r + width
    let Rest (s' : State) (K : List (Nat × Nat)) := OtherObjects s s' K ∧ s' = { s with
      engine := s'.engine, dict := s'.dict, count := s'.count, slate := s'.slate, slatePois := s'.slatePois
      free := s'.free, withheld := s'.withheld, out := {} }
    let clean := tokenHeld s t.val vectorToken = false ∧ ∀ f ∈ byteNats faults, f ≠ 0x10 ∧ f ≠ 0x11
    let Counts := [(t.val, Obj.conversionInvalid), (t.val, Obj.conversionOverflows), (t.val, Obj.conversionUnderflows)]
    (tokenHeld s t.val vectorToken = true → NoEffect cmd s) ∧
    (clean → (∀ i < voRows r, vopBad s t.val r i = false) →
      Answers cmd s (fun s' =>
        (∃ fl, fl < 8 ∧ Ran s s' t.val e.val rest { begun s d with
          ended := true, status := stOk, flags := d.flags ||| fl
          count := voRows r * (if op = 7 then voK r else voOutLen r) }) ∧
        OtherSlate s s' t.val Written ∧
        (voRows r = 1 → op = 8 → slateNat s' t.val (voState r) 8 =
          softAcc (slateNat s t.val (voState r) 8) (vopRow s t.val r 0) % 2 ^ 64) ∧
        (voRows r = 1 → op = 7 → slateNat s' t.val (voDst r) (8 * voK r) =
          (topBytes t.val r 0 s).1 % 2 ^ (8 * (8 * voK r))) ∧
        (voRows r = 1 → op ≠ 7 → op ≠ 8 → slateNat s' t.val (voDst r) width =
          (outRow 0xC (voOfmt r) (voCtrl r) (voOscheme r) {} (vopResults t.val r 0 s).1).1 % 2 ^ (8 * width)) ∧
        Rest s' Counts)) ∧
    (clean → vopBad s t.val r 0 = true → 1 ≤ voRows r →
      Answers cmd s (fun s' => (∃ fl n, Ran s s' t.val e.val rest { begun s d with
          ended := true, status := stPoisoned, flags := d.flags ||| fl, count := n }) ∧
        OtherSlate s s' t.val Written ∧ Rest s' Counts)) ∧
    (∀ p more, byteNats faults = p :: more → (p = 0x10 ∨ p = 0x11) → vopTransient s t.val = false →
      tokenHeld s t.val vectorToken = false →
      Answers cmd s (fun s' => Ran s s' t.val e.val rest (vopFailed p (begun s d)) ∧ SameMemory s s' ∧
        getObj s' t.val Obj.vectorResidueFaults = (getObj s t.val Obj.vectorResidueFaults + 1) % 2 ^ 32))

/-- R213, R216, R223, R241: a GATHER, COPY or CONVERT that cannot be issued, with none in progress, changes nothing;
one that fails a check ends with BAD_FORMAT; the one request of a GATHER of one mapped piece goes to the block map
of its tile.
R226, R227: a command takes the oldest response of its channel, if it is the one it names. That to the last write of a transfer ends it: OK counts its bytes; bad data halts the mover
channel with the address; RETRY is waited for, or ends it at the limit; any other status ends it. What a read
gave is written: into the Slate at once. A request whose time has come is sent again.
What it takes from the model's readings and choices: assumptions 4, 92, 95, 97, 98, 166. -/
def Obligations.TransfersAndTheirResponses : Prop :=
  (∀ (t : TileN) (e : EngineN) (s : State),
     (∀ (p : Nat → Bool) (cmd : Instr),
       (cmd = .gather t e ∧ (∀ r, p r = decide (dOp r = 5)) ∨ cmd = .copy t e ∧ (∀ r, p r = decide (dOp r = 6)) ∨
         (∃ v, (v, cmd) ∈ ([(0, .convert t e), (1, .convertSplit t e), (2, .convertPairAdd t e),
           (3, .convertPairSubtract t e)] : List (Nat × Instr)) ∧ ∀ r, p r = decide (dOp r = 7 ∧ cvVariant r = v))) →
       (∀ x ∈ (getEngine s t.val e.val).prog, p x.raw = false ∨ x.ended = true) →
       ((∀ d rest, (getEngine s t.val e.val).ready = d :: rest → p d.raw = false ∨ canIssue s t.val e.val d = false) →
         NoEffect cmd s) ∧
       (∀ d rest, (getEngine s t.val e.val).ready = d :: rest → p d.raw = true → canIssue s t.val e.val d = true →
         descOk s t.val e.val d.raw = false → d.started = false →
         Answers cmd s (fun s' => Ran s s' t.val e.val rest { begun s d with ended := true, status := stBadFormat } ∧
           s' = { s with engine := s'.engine, out := {} }))) ∧
     (∀ d rest en off, Issuable s t.val e.val d rest → dOp d.raw = 5 → d = mkDesc s t.val e.val d.idx d.raw →
       (∀ x ∈ (getEngine s t.val e.val).prog, dOp x.raw ≠ 5 ∨ x.ended = true) →
       let m := moverOf e.val d.raw
       let a := gaPiece s t.val d.raw 0
       s.sramErr = [] → tripped s = false → (getMover s t.val m).ops = [] → gaCount d.raw = 1 →
       slateBad s t.val (gaList d.raw) 8 = false → requestLen s (dPass d.raw) a (gaLen d.raw) = gaLen d.raw →
       adSpace a = 1 → addrTile a = t.val → windowEntry s (getObj s t.val (Obj.mapWindow + m)) a = some (en, off) →
       fifoWaits s t.val (0x10 + m) (dPass d.raw).isSome = false →
       Answers (.gather t e) s (fun s' => Ran s s' t.val e.val rest { begun s d with pos := 1 } ∧
         (∃ o, (getMover s' t.val m).ops = [o] ∧ o.use = .src ∧ o.addr = a ∧ o.len = gaLen d.raw ∧ o.write = false ∧
           o.at_ = .out ∧ o.sends = 1) ∧
         (∃ q, (getMap s' t.val).input = (getMap s t.val).input ++ [q] ∧ q.entry = en ∧ q.off = off ∧
           q.req.requester = 0x10 + m ∧ q.req.len = gaLen d.raw ∧ q.req.write = false ∧ q.req.passNo = dPass d.raw) ∧
         s' = { s with engine := s'.engine, mover := s'.mover, map := s'.map, sched := s'.sched, out := {} }))) ∧
  (let Onward (d : Desc) : Prop := d.closing = true ∨ dOp d.raw = 5 ∧ gaCount d.raw ≤ d.pos ∨
     dOp d.raw = 6 ∧ cpRows d.raw ≤ d.pos ∨ dOp d.raw = 7 ∧ cvBooked d = true ∧ cvRows d.raw ≤ d.pos
   let Becomes (s s' : State) (t m : Nat) (d d' : Desc) := (getEngine s' t (m / 2)).prog =
       updFirst (onChannel m) (fun _ => d') (getEngine s t (m / 2)).prog ∧ transferOf s t m = some d ∧
     ∀ k, k ≠ t * 6 + m / 2 → fget ({} : EngineS) s'.engine k = fget {} s.engine k
   let Ended (d : Desc) (fill : Bool) : Desc := { d with filled := d.filled || fill, ended := true, data := 0, bad := 0 }
   (∀ (t : TileN) (m : MoverN) (st : BitVec 8) (offset : BitVec 24) (hint : BitVec 32) (s : State),
     let key := t.val * 256 + (0x10 + m.val)
     let cmd := Instr.moverRequestResponse t m st offset hint
     let Named (x : Reply) : Prop := replyNamed s t.val m.val st.toNat offset.toNat hint.toNat x = true
     (fget [] s.replies key = [] → NoEffect cmd s) ∧
     (∀ x l, fget [] s.replies key = x :: l → ¬ Named x → NoEffect cmd s) ∧
     (∀ x l, fget [] s.replies key = x :: l → Named x → (∀ o ∈ (getMover s t.val m.val).ops, o.tag ≠ x.tag) →
       exec cmd s = .next { s with replies := fset [] s.replies key l, out := {} }) ∧
     (∀ x o d, fget [] s.replies key = [x] → (getMover s t.val m.val).ops = [o] → o.tag = x.tag → o.at_ = .out → Named x →
       transferOf s t.val m.val = some d → 5 ≤ dOp d.raw → Onward d →
       let refused := x.status ≠ stOk ∧ badData x.status = false ∧
         (x.status = stRetry → getObj s t.val Obj.moverRetryLimit ≤ o.sends)
       let moved := if dOp d.raw = 7 then 0 else o.len
       (o.use = .dst → o.write = true →
         (x.status = stRetry → o.sends < getObj s t.val Obj.moverRetryLimit → Answers cmd s (fun s' =>
           (getMover s' t.val m.val).ops =
             [{ o with at_ := .retry (s.time.elapsed + (if x.hint = 0 then 1000 else x.hint)) }] ∧
           Becomes s s' t.val m.val d { d with filled := d.filled || x.fill } ∧
           s' = { s with engine := s'.engine, mover := s'.mover, replies := s'.replies, out := {} })) ∧
         (x.status = stOk → Answers cmd s (fun s' =>
           (getMover s' t.val m.val).ops = [] ∧
           Becomes s s' t.val m.val d (Ended { d with count := d.count + moved } x.fill) ∧
           (dOp d.raw ≠ 7 → getObj s' t.val (Obj.moverBytes + m.val) =
             (getObj s t.val (Obj.moverBytes + m.val) + o.len) % 2 ^ 64) ∧
           OtherObjects s s' [(t.val, Obj.moverBytes + m.val)] ∧ s' = { s with
             engine := s'.engine, mover := s'.mover, replies := s'.replies, dict := s'.dict, count := s'.count, out := {} })) ∧
         (refused → Answers cmd s (fun s' =>
           (getMover s' t.val m.val).ops = [] ∧
           Becomes s s' t.val m.val d (Ended { closeWith x.status o.detail d with cut := 2 } x.fill) ∧
           s' = { s with engine := s'.engine, mover := s'.mover, replies := s'.replies, out := {} })) ∧
         (badData x.status = true → getObj s t.val (Obj.moverState + m.val) ≠ 2 → Answers cmd s (fun s' =>
           (getMover s' t.val m.val).ops = [] ∧
           Becomes s s' t.val m.val d (Ended { closeWith x.status o.detail d with count := d.count + moved } x.fill) ∧
           (getEngine s' t.val (m.val / 2)).stopSoon = 4 ∧ getObj s' t.val (Obj.moverState + m.val) = 2 ∧
           getObj s' t.val (Obj.moverFault + m.val) = fld 56 8 x.status + o.addr % 2 ^ 48 ∧
           getObj s' t.val (Obj.moverHalts + m.val) = (getObj s t.val (Obj.moverHalts + m.val) + 1) % 2 ^ 32 ∧
           SameMemory s s'))) ∧
       (o.use = .src → o.write = false → dOp d.raw ≠ 7 → d.cut = 0 → x.status = stOk → tripped s = false →
         inHold s t.val = false → inReset s t.val = false → starting s = false → s.sramErr = [] → o.len ≤ 2048 →
         let b := copyDst d.raw o
         adSpace b = 2 → adLow b + o.len ≤ slateSize → Answers cmd s (fun s' =>
           slateNat s' t.val (adLow b) o.len = x.data % 2 ^ (8 * o.len) ∧
           OtherSlate s s' t.val (fun i => adLow b ≤ i ∧ i < adLow b + o.len) ∧
           (getMover s' t.val m.val).ops = [] ∧
           Becomes s s' t.val m.val d (Ended { d with count := d.count + o.len } x.fill))))) ∧
   (∀ (t : TileN) (m : MoverN) (s : State),
     let cmd := Instr.moverRetryResend t m
     ((∀ o ∈ (getMover s t.val m.val).ops, opReady s o = false) → NoEffect cmd s) ∧
     (∀ o rest, (getMover s t.val m.val).ops = o :: rest → opReady s o = true →
       (canSend s t.val m.val o = false → NoEffect cmd s) ∧
       (∀ d en off, canSend s t.val m.val o = true → rest = [] → o.use = .dst → o.write = true →
         transferOf s t.val m.val = some d → 5 ≤ dOp d.raw → Onward d →
         adSpace o.addr = 1 → addrTile o.addr = t.val →
         windowEntry s (getObj s t.val (Obj.mapWindow + m.val)) o.addr = some (en, off) → Answers cmd s (fun s' =>
           (getMover s' t.val m.val).ops = [{ o with at_ := .out, sends := o.sends + 1 }] ∧
           (∃ q, (getMap s' t.val).input = (getMap s t.val).input ++ [q] ∧ q.entry = en ∧ q.off = off ∧
             q.req.requester = 0x10 + m.val ∧ q.req.len = o.len ∧ q.req.write = true ∧ q.req.data = o.data) ∧
           s' = { s with mover := s'.mover, map := s'.map, sched := s'.sched, out := {} })))))

/-- R202, R203, R223, Table 8.12: between ranges of the Slate that hold no bad word, a COPY of one row leaves the
source's bytes at the destination, and a CONVERT of one row leaves its elements converted, split, added or
subtracted; each completes OK, counts its bytes or elements, and changes no byte outside its destination.
What it takes from the model's readings and choices: assumptions 96, 97. -/
def Obligations.SlateTransfers : Prop :=
  ∀ (t : TileN) (e : EngineN) (d : Desc) (rest : List Desc) (s : State),
    Issuable s t.val e.val d rest → d = mkDesc s t.val e.val d.idx d.raw → tripped s = false → s.sramErr = [] →
    (getMover s t.val (moverOf e.val d.raw)).ops = [] →
    (∀ x ∈ (getEngine s t.val e.val).prog, dOp x.raw ≠ dOp d.raw ∨ x.ended = true) →
    let r := d.raw
    let Bytes (s' : State) (n : Nat) (K : List (Nat × Nat)) :=
      getObj s' t.val (Obj.moverBytes + moverOf e.val r) = (getObj s t.val (Obj.moverBytes + moverOf e.val r) + n) % 2 ^ 64 ∧
      (getMover s' t.val (moverOf e.val r)).ops = [] ∧
      OtherObjects s s' ((t.val, Obj.moverBytes + moverOf e.val r) :: K) ∧ s' = { s with
        engine := s'.engine, mover := s'.mover, dict := s'.dict, count := s'.count
        slate := s'.slate, slatePois := s'.slatePois, out := {} }
    (dOp r = 6 → adSpace (cpSrc r) = 2 → adSpace (cpDst r) = 2 → cpRows r = 1 →
      slateBad s t.val (adLow (cpSrc r)) (cpLen r) = false →
      Answers (.copy t e) s (fun s' =>
        Ran s s' t.val e.val rest { begun s d with ended := true, pos := 1, count := cpLen r } ∧
        slateNat s' t.val (adLow (cpDst r)) (cpLen r) = slateNat s t.val (adLow (cpSrc r)) (cpLen r) ∧
        OtherSlate s s' t.val (fun o => adLow (cpDst r) ≤ o ∧ o < adLow (cpDst r) + cpLen r) ∧ Bytes s' (cpLen r) [])) ∧
    (dOp r = 7 → adSpace (cvSrc r) = 2 → adSpace (cvDst r) = 2 → cvRows r = 1 →
      (cvVariant r ≠ 0 ∨ cvBook r = true → adSpace (cvAux r) = 2) →
      slateBad s t.val (adLow (cvSrc r)) (cvInBytes r) = false →
      (2 ≤ cvVariant r → slateBad s t.val (adLow (cvAux r)) (cvInBytes r) = false) →
      (cvBook r = true → slateBad s t.val (adLow (cvAux r)) 32 = false ∧ bookOk (slateNat s t.val (adLow (cvAux r)) 32) = true) →
      (cvVariant r = 1 → adLow (cvDst r) + cvOutBytes r ≤ adLow (cvAux r) ∨ adLow (cvAux r) + cvOutBytes r ≤ adLow (cvDst r)) →
      let out := cvOutput r (if cvBook r then bookOf (slateNat s t.val (adLow (cvAux r)) 32) else {}) (cvCount r)
        (slateNat s t.val (adLow (cvSrc r)) (cvInBytes r)) (slateNat s t.val (adLow (cvAux r)) (cvInBytes r))
      ∀ cmd, (cvVariant r, cmd) ∈ ([(0, .convert t e), (1, .convertSplit t e), (2, .convertPairAdd t e),
        (3, .convertPairSubtract t e)] : List (Nat × Instr)) →
      Answers cmd s (fun s' =>
        Ran s s' t.val e.val rest { begun s d with
          ended := true, pos := 1, taking := cvBook r, count := cvCount r, flags := flagBits out.2.2 } ∧
        slateNat s' t.val (adLow (cvDst r)) (cvOutBytes r) = out.1 % 2 ^ (8 * cvOutBytes r) ∧
        (cvVariant r = 1 → slateNat s' t.val (adLow (cvAux r)) (cvOutBytes r) = out.2.1 % 2 ^ (8 * cvOutBytes r)) ∧
        OtherSlate s s' t.val (fun o => (adLow (cvDst r) ≤ o ∧ o < adLow (cvDst r) + cvOutBytes r) ∨
          (cvVariant r = 1 ∧ adLow (cvAux r) ≤ o ∧ o < adLow (cvAux r) + cvOutBytes r)) ∧
        Bytes s' (cvInBytes r * cvSources r) [(t.val, Obj.conversionInvalid),
          (t.val, Obj.conversionOverflows), (t.val, Obj.conversionUnderflows)]))

/-- R157, R158, R159, R153, R167, R169, R219: a LOADW whose image lies in the Slate leaves it, with the residues of its
weights, in the plane that no STREAM uses; a STREAM opens a group on the plane loaded last, or joins the open one,
and waits for a LOADW or STREAM that runs; the last array step of a row adds each column's sum to the row's
accumulator, from its initial value where the group opens, and the last row ends the STREAM. A mismatch that is
not transient fences the array.
What it takes from the model's readings and choices: assumptions 4, 6, 85, 136, 137. -/
def Obligations.GroupsAccumulate : Prop :=
  (∀ (t : TileN) (e : EngineN) (d : Desc) (rest : List Desc) (s : State),
    let r := d.raw
    let size := loadBytes r
    let image := slateNat s t.val (adLow (lwSrc r)) size
    let m := moverOf e.val r
    let x := getArray s t.val e.val
    Issuable s t.val e.val d rest → dOp r = 1 → d = mkDesc s t.val e.val d.idx r → x.fenced = false →
    planesBusy x = false → tripped s = false → (getMover s t.val m).ops = [] →
    (∀ y ∈ (getEngine s t.val e.val).prog, dOp y.raw ≠ 1 ∨ y.ended = true) →
    adSpace (lwSrc r) = 2 → s.sramErr = [] → slateBad s t.val (adLow (lwSrc r)) size = false →
    (isBook (lwFmt r) = true → bookOk (bookSection image (lwK r) (lwN r) (lwFmt r) (lwScheme r)) = true) →
    Answers (.loadw t e) s (fun s' =>
      Ran s s' t.val e.val rest { begun s d with ended := true, taking := true, off := size, count := size } ∧
      (∃ p : Plane, p.valid = true ∧ p.k = lwK r ∧ p.n = lwN r ∧ p.wfmt = lwFmt r ∧ p.scheme = lwScheme r ∧
        p.recipe = lwRecipe r ∧ p.src = lwSrc r ∧ p.image = image ∧ p.resid = planeResid p ∧ p.used = false ∧
        getArray s' t.val e.val = putPlane (idlePlane x) p { x with
          lastB := idlePlane x, badLoad := false, loads := x.loads ++ [afresh (begun s d)] }) ∧
      getObj s' t.val (Obj.moverBytes + m) = (getObj s t.val (Obj.moverBytes + m) + size) % 2 ^ 64 ∧
      OtherObjects s s' [(t.val, Obj.moverBytes + m), (t.val, Obj.codebookLoads), (t.val, Obj.blockScaleNaN)] ∧
      (getMover s' t.val m).ops = [] ∧ s' = { s with
        engine := s'.engine, array := s'.array, mover := s'.mover, dict := s'.dict, count := s'.count, out := {} })) ∧
  (∀ (t : TileN) (e : EngineN) (d : Desc) (rest : List Desc) (s : State),
    let x := getArray s t.val e.val
    let p := planeOf x x.lastB
    let r := d.raw
    let Only (s' : State) := SameMemory s s' ∧ OtherObjects s s' [] ∧
      s' = { s with engine := s'.engine, array := s'.array, out := {} }
    Issuable s t.val e.val d rest → dOp r = 2 → stInit r ≠ 3 →
    (x.fenced = true → d.started = false → Answers (.stream t e) s (fun s' =>
      Ran s s' t.val e.val rest (ends stResidueFault (begun s d)) ∧ Only s')) ∧
    (x.fenced = false → (x.stream.isSome = true ∨ tripped s = true ∨ (firstLoad s t.val e.val).isSome = true) →
      NoEffect (.stream t e) s) ∧
    (x.fenced = false → x.stream = none → tripped s = false → firstLoad s t.val e.val = none → d.started = false →
      d.pos = 0 → (x.badLoad = false ∨ stInit r ≠ 0) →
      (streamFits p r = false → Answers (.stream t e) s (fun s' =>
        Ran s s' t.val e.val rest (ends stBadFormat (begun s d)) ∧ Only s')) ∧
      (streamFits p r = true → stM r = 0 → Answers (.stream t e) s (fun s' =>
        Ran s s' t.val e.val rest (ends stOk (begun s d)) ∧ s'.array = s.array ∧ Only s')) ∧
      (streamFits p r = true → stM r ≠ 0 → groupFits x p r = true → p.k ≠ 0 → Answers (.stream t e) s (fun s' =>
        (getEngine s' t.val e.val).ready = rest ∧
        (∃ fl, (getEngine s' t.val e.val).prog = (getEngine s t.val e.val).prog ++ [{ begun s d with flags := fl }]) ∧
        (getArray s' t.val e.val).group = some (joinGroup x p (begun s d)) ∧
        (getArray s' t.val e.val).stream = some { raw := r, idx := d.idx, qaddr := d.qaddr, planeB := x.lastB } ∧
        planeOf (getArray s' t.val e.val) x.lastB = { p with used := true } ∧
        planeOf (getArray s' t.val e.val) (!x.lastB) = planeOf x (!x.lastB) ∧ Only s')))) ∧
  (∀ (t : TileN) (a : ArrayN) (s : State),
    let x := getArray s t.val a.val
    let Steps (s' : State) (n : Nat) :=
      getObj s' t.val (Obj.arraySteps + a.val) = (getObj s t.val (Obj.arraySteps + a.val) + 1) % 2 ^ 64 ∧
      getObj s' t.val (Obj.activeColumnSteps + a.val) = (getObj s t.val (Obj.activeColumnSteps + a.val) + n) % 2 ^ 64
    (x.stream = none ∨ x.group = none ∨ tripped s = true ∨ inReset s t.val = true ∨
        tokenHeld s t.val a.val = true → NoEffect (.arrayStep t a none) s) ∧
    (∀ st g, x.stream = some st → x.group = some g → tripped s = false → inReset s t.val = false →
      tokenHeld s t.val a.val = false → atStop s t.val x st = false → s.sramErr = [] →
      let p := planeOf x st.planeB
      let r := st.raw
      (∀ f : BitVec 8 × Fin 128, 1 ≤ f.1.toNat → f.1.toNat ≤ 4 → isTransient s t.val x.faults f.2.val = false →
        Answers (.arrayStep t a (some f)) s (fun s' => (getArray s' t.val a.val).fenced = true ∧
          (getArray s' t.val a.val).group = none ∧ (getArray s' t.val a.val).stream = none ∧
          getObj s' t.val (Obj.residueFaults + a.val) = (getObj s t.val (Obj.residueFaults + a.val) + 1) % 2 ^ 32 ∧
          getObj s' t.val (Obj.abandonedGroups + a.val) = (getObj s t.val (Obj.abandonedGroups + a.val) + 1) % 2 ^ 32 ∧
          getObj s' t.val (Obj.lastResidueFault + a.val) = residueBits s f.1.toNat f.2.val ∧
          Steps s' p.n ∧ SameMemory s s')) ∧
      (p.resid = planeResid p →
      (st.steps + 1 < classSteps (streamClass p r) → Answers (.arrayStep t a none) s (fun s' =>
        (getArray s' t.val a.val).stream = some { st with steps := st.steps + 1 } ∧
        (getArray s' t.val a.val).group = some g ∧ Steps s' p.n ∧ SameMemory s s')) ∧
      (classSteps (streamClass p r) ≤ st.steps + 1 → rowBad s t.val r st.next p = true →
        Answers (.arrayStep t a none) s (fun s' => (getArray s' t.val a.val).group = none ∧
          (getArray s' t.val a.val).stream = none ∧ SameMemory s s' ∧ Steps s' p.n ∧
          getObj s' t.val (Obj.abandonedGroups + a.val) = (getObj s t.val (Obj.abandonedGroups + a.val) + 1) % 2 ^ 32)) ∧
      (classSteps (streamClass p r) ≤ st.steps + 1 → rowBad s t.val r st.next p = false → g.fused = false →
        stFused r = false → Answers (.arrayStep t a none) s (fun s' =>
          let af := actFmt r
          let row := accRow r st.next
          let rows := if stInit r = 0 ∨ stRecipe r < 4 then [row]
            else [stA0 r + st.next, stA0 r + stM r + st.next, stA0 r + 2 * stM r + st.next]
          (∀ j < 128, getInk s' t.val a.val row j = (accumulate g.int
            (if stInit r = 0 then getInk s t.val a.val row j else (initRow s t.val r).getD j 0)
            (colSumOf p af ((actCodes s t.val r st.next p.k).map (elemVal af (stScheme r) {}))
              ((List.range (segments p.k p.scheme)).map (fun sg =>
                scaleVal p.scheme (actScale s t.val r st.next p.k sg))) j)).1) ∧
          (∀ k, (∀ q ∈ rows, ¬ (inkKey t.val a.val q 0 ≤ k ∧ k < inkKey t.val a.val q 0 + 128)) →
            fget 0 s'.inkwell k = fget 0 s.inkwell k) ∧
          (st.next + 1 < stM r →
            (getArray s' t.val a.val).stream = some { st with next := st.next + 1, steps := 0 }) ∧
          (stM r ≤ st.next + 1 → (getArray s' t.val a.val).stream = none ∧
            (getEngine s' t.val a.val).prog = updFirst (fun d => dOp d.raw = 2 ∧ ¬ d.ended)
              (fun d => { d with ended := true, status := stOk, count := stM r }) (getEngine s t.val a.val).prog) ∧
          Steps s' p.n ∧ s'.slate = s.slate ∧ s'.dram = s.dram)) ∧
      (classSteps (streamClass p r) ≤ st.steps + 1 → rowBad s t.val r st.next p = false → g.fused = true →
        stFused r = true → Answers (.arrayStep t a none) s (fun s' =>
          let n := rowBytes g.n (stOfmt r) (stOscheme r)
          slateNat s' t.val (stDst r + st.next * stDstStride r) n = (outRow (if g.int then 9 else 0xC) (stOfmt r)
            (stCtrl r) (stOscheme r) {} ((inkRow s' t.val a.val (accRow r st.next)).take g.n)).1 % 2 ^ (8 * n) ∧
          Steps s' p.n ∧ s'.dram = s.dram)))))

/-- R160, R221, R174, R220: a DRAIN of the open group writes its rows, converted, at its destination, and closes
the group; one that keeps the rows only closes it. A resume takes a valid save header: it restores the saved
rows, opens the saved group, streams on from its next row, and clears the header.
What it takes from the model's readings and choices: assumptions 85, 88, 97, 142. -/
def Obligations.GroupsDrainAndResume : Prop :=
  (∀ (t : TileN) (e : EngineN) (d : Desc) (rest : List Desc) (g : Group) (s : State),
    let x := getArray s t.val e.val
    let r := d.raw
    let n := rowBytes g.n (drOfmt r) (drOscheme r)
    let Closes (s' : State) := getArray s' t.val e.val = { x with
        group := none, closed := some (g.a0, min 512 (groupRows g.recipe g.m)) } ∧
      OtherObjects s s' [(t.val, Obj.columnEfficiency + e.val), (t.val, Obj.rowEfficiency + e.val),
        (t.val, Obj.conversionInvalid), (t.val, Obj.conversionOverflows), (t.val, Obj.conversionUnderflows)] ∧
      s' = { s with
        engine := s'.engine, array := s'.array, dict := s'.dict, slate := s'.slate, slatePois := s'.slatePois, out := {} }
    Issuable s t.val e.val d rest → dOp r = 3 → d.started = false → s.sramErr = [] →
    (x.fenced = true → Answers (.drain t e none) s (fun s' =>
      Ran s s' t.val e.val rest (ends stResidueFault (begun s d)) ∧ SameMemory s s')) ∧
    (x.fenced = false → x.stream = none → tripped s = false →
      (∀ y ∈ (getEngine s t.val e.val).prog, dOp y.raw ≠ 2 ∨ y.ended = true) →
      (x.group = none → Answers (.drain t e none) s (fun s' =>
        Ran s s' t.val e.val rest (ends stBadFormat (begun s d)) ∧ SameMemory s s')) ∧
      (x.group = some g → drainFits g r = false → Answers (.drain t e none) s (fun s' =>
        Ran s s' t.val e.val rest (ends stBadFormat (begun s d)) ∧ s'.array = s.array ∧ SameMemory s s')) ∧
      (x.group = some g → drainFits g r = true → drKeep r = true → Answers (.drain t e none) s (fun s' =>
        (∃ fl, Ran s s' t.val e.val rest { ends stOk (begun s d) with flags := fl }) ∧ Closes s' ∧ SameMemory s s')) ∧
      (x.group = some g → drainFits g r = true → drKeep r = false → Answers (.drain t e none) s (fun s' =>
        (∃ fl, Ran s s' t.val e.val rest { ends stOk (begun s d) with
          flags := fl, count := g.m * g.n * (if drComplex r then 2 else 1) }) ∧ Closes s' ∧
        OtherSlate s s' t.val (fun o => ∃ i < g.m, (drDst r + i * drStride r ≤ o ∧ o < drDst r + i * drStride r + n) ∨
          (drComplex r = true ∧ drDst2 r + i * drStride r ≤ o ∧ o < drDst2 r + i * drStride r + n)) ∧
        (drComplex r = false → (n ≤ drStride r ∨ g.m = 1) → ∀ i < g.m,
          slateNat s' t.val (drDst r + i * drStride r) n = (drainRow s t.val e.val g r i false).1 % 2 ^ (8 * n)) ∧
        (drComplex r = true → g.m = 1 → (drDst r + n ≤ drDst2 r ∨ drDst2 r + n ≤ drDst r) →
          slateNat s' t.val (drDst r) n = (drainRow s t.val e.val g r 0 false).1 % 2 ^ (8 * n) ∧
          slateNat s' t.val (drDst2 r) n = (drainRow s t.val e.val g r 0 true).1 % 2 ^ (8 * n)) ∧
        s'.inkwell = s.inkwell)))) ∧
  (∀ (t : TileN) (e : EngineN) (d : Desc) (rest : List Desc) (s : State),
    let x := getArray s t.val e.val
    let base := getObj s t.val (Obj.saveAreaBase + e.val)
    let h := slateNat s t.val base 64
    let wsrc := sourceOf s t.val e.val (bits h 448 40)
    let sdesc := sourceOf s t.val e.val (bits h 408 40)
    let total := bits h 376 32
    let next := bits h 344 32
    let size := imgBytes (bits h 316 9) (bits h 308 8) (bits h 304 4) (bits h 295 2)
    let rowsBad := slateBad s t.val (base + 0x1000) (512 * bits h 325 10)
    let cleared (s' : State) := slateNat s' t.val base 1 = 0 ∧ OtherSlate s s' t.val (fun o => o = base)
    Issuable s t.val e.val d rest → dOp d.raw = 2 → stInit d.raw = 3 → d.started = false → x.fenced = false →
    x.stream = none → tripped s = false → firstLoad s t.val e.val = none → x.group = none → s.sramErr = [] →
    base + 0x41000 ≤ slateSize → (getMover s t.val (2 * e.val)).ops = [] → (getMover s t.val (2 * e.val + 1)).ops = [] →
    (slateBad s t.val base 64 = false → (bits h 0 8 = 0 ∨ 2 < bits h 0 8) → Answers (.streamResume t e) s (fun s' =>
      Ran s s' t.val e.val rest (ends stBadFormat (begun s d)) ∧ SameMemory s s' ∧ s'.array = s.array)) ∧
    ((slateBad s t.val base 64 = true ∨ bits h 0 8 = 2 ∨ bits h 0 8 = 1 ∧ rowsBad = true) →
      Answers (.streamResume t e) s (fun s' =>
        (getEngine s' t.val e.val).ready = rest ∧ (getEngine s' t.val e.val).stopSoon = 3 ∧
        (getEngine s' t.val e.val).prog = (getEngine s t.val e.val).prog ++ [ends stUncorrectable (begun s d)] ∧
        s'.array = s.array ∧ cleared s')) ∧
    (slateBad s t.val base 64 = false → bits h 0 8 = 1 → rowsBad = false → total = 0 →
      Answers (.streamResume t e) s (fun s' =>
        Ran s s' t.val e.val rest (ends stOk (begun s d)) ∧ s'.array = s.array ∧ cleared s')) ∧
    (slateBad s t.val base 64 = false → bits h 0 8 = 1 → rowsBad = false → total ≠ 0 →
      adSpace wsrc = 2 → adSpace sdesc = 2 → slateBad s t.val (adLow wsrc) size = false →
      slateBad s t.val (adLow sdesc) 64 = false →
      (∀ y ∈ (getEngine s t.val e.val).prog, resuming y = false) →
      Answers (.streamResume t e) s (fun s' =>
        (∃ G, (getArray s' t.val e.val).group = some G ∧ G.a0 = bits h 335 9 ∧ G.m = total ∧ G.n = bits h 308 8 ∧
          G.init = bits h 298 2 ∧ G.fused = bit h 297) ∧
        (getArray s' t.val e.val).planeA.image = slateNat s t.val (adLow wsrc) size ∧
        (getArray s' t.val e.val).planeA.k = bits h 316 9 ∧
        (getArray s' t.val e.val).stream = (if next < total then
          some { raw := slateNat s t.val (adLow sdesc) 64, idx := d.idx, qaddr := sdesc, next := next } else none) ∧
        (∀ i < bits h 325 10, ∀ j < 128, getInk s' t.val e.val (bits h 335 9 + i) j =
          (unpackCodes 32 128 (slateNat s t.val (base + 0x1000 + i * 512) 512)).getD j 0) ∧
        (getEngine s' t.val e.val).ready = rest ∧ cleared s' ∧ s'.dram = s.dram)))

/-! ## Synchronisation, pre-emption, completion, resuming -/

/-- R209, R228, R317: a FENCE without flush, a HINT and a SIGNAL to the engine's own tile complete when they are
issued; a FENCE with flush sends a barrier on both mover channels and ends with the last of their responses; a
WAIT completes when its semaphore has reached its value, which a consuming WAIT takes away, and with TIMEOUT when
its time is up; a SIGNAL to another tile goes on its way, and is applied there, unless that tile is in reset or
in Hold: then it waits 1 µs, or ends at the retry limit. An add stops at 2^32 - 1.
What it takes from the model's readings and choices: assumptions 4, 103, 147. -/
def Obligations.SemaphoresAndHints : Prop :=
  (∀ (t : TileN) (e : EngineN) (d : Desc) (rest : List Desc) (s : State), Issuable s t.val e.val d rest →
    d.started = false →
    let r := d.raw
    let sem := Obj.semaphore + siSem r
    let Rang (s' : State) := siBell r = 0 → s' = { s with engine := s'.engine, dict := s'.dict, out := {} }
    (dOp r = 8 → bit r 64 = false → Answers (.fence t e) s (fun s' => Ran s s' t.val e.val rest (ends stOk (begun s d)) ∧
      s' = { s with engine := s'.engine, out := {} })) ∧
    (dOp r = 8 → bit r 64 = true → (∀ m ∈ [2 * e.val, 2 * e.val + 1], (getMover s t.val m).ops = [] ∧
        fifoWaits s t.val (0x10 + m) false = false) → tripped s = false →
      Answers (.fence t e) s (fun s' => Ran s s' t.val e.val rest (begun s d) ∧
        ∀ m ∈ [2 * e.val, 2 * e.val + 1], ∃ o, (getMover s' t.val m).ops = [o] ∧ o.use = .barrier ∧ o.at_ = .out)) ∧
    (dOp r = 0xB → Answers (.hint t e) s (fun s' => Ran s s' t.val e.val rest (ends stOk (begun s d)) ∧
      { kind := hiKind r, level := hiLevel r, start := s.time.elapsed + hiLead r * 1000
        stop := s.time.elapsed + hiLead r * 1000 + hiLength r * 1000 : HintS } ∈ (getPTile s' t.val).hints ∧
      getObj s' t.val Obj.hintsAccepted = (getObj s t.val Obj.hintsAccepted + 1) % 2 ^ 32 ∧
      OtherObjects s s' [(t.val, Obj.hintsAccepted), (t.val, Obj.hintsDropped), (t.val, Obj.hintsLate)] ∧
      s' = { s with engine := s'.engine, ptile := s'.ptile, dict := s'.dict, out := {} })) ∧
    (dOp r = 9 → waitsOf s t.val = [] → d.ended = false →
      (waValue r ≤ semaphore s t.val (waSem r) → Answers (.wait t e) s (fun s' =>
        Ran s s' t.val e.val rest (ends stOk { begun s d with order := 1 }) ∧
        semaphore s' t.val (waSem r) = (if waConsume r then (semaphore s t.val (waSem r) - waValue r) % 2 ^ 32
          else semaphore s t.val (waSem r)) ∧
        OtherObjects s s' [(t.val, Obj.semaphore + waSem r)] ∧
        s' = { s with engine := s'.engine, dict := s'.dict, out := {} })) ∧
      (semaphore s t.val (waSem r) < waValue r → Answers (.wait t e) s (fun s' =>
        Ran s s' t.val e.val rest { begun s d with order := 1 } ∧ s' = { s with engine := s'.engine, out := {} }))) ∧
    (∀ add : Bool, dOp r = 0xA → siOp r = (if add then 0 else 1) →
      let cmd := if add then Instr.signalAdd t e else Instr.signalSet t e
      (siTile r = t.val → waitsOf s t.val = [] → Answers cmd s (fun s' =>
        Ran s s' t.val e.val rest (ends stOk (begun s d)) ∧
        getObj s' t.val sem = (if add then min (getObj s t.val sem + siValue r) (2 ^ 32 - 1) else siValue r) ∧
        OtherObjects s s' [(t.val, sem)] ∧ Rang s')) ∧
      (siTile r ≠ t.val → Answers cmd s (fun s' =>
        Ran s s' t.val e.val rest { begun s d with sends := 1 } ∧
        s' = { s with
          engine := s'.engine, out := {}
          signals := s.signals ++ [⟨t.val, siTile r, e.val, d.idx, siSem r, siOp r, siValue r, siBell r⟩] })))) ∧
  (∀ (t : TileN) (e : EngineN) (s : State),
    ((∀ d ∈ (getEngine s t.val e.val).prog, dOp d.raw ≠ 9 ∨ d.ended = true) → NoEffect (.waitTimeout t e) s) ∧
    (∀ d, (getEngine s t.val e.val).prog.find? (fun d => dOp d.raw = 9 ∧ ¬ d.ended) = some d →
      (waTimeout d.raw = 0 ∨ s.time.elapsed - d.start < waTimeout d.raw → NoEffect (.waitTimeout t e) s) ∧
      (waTimeout d.raw ≠ 0 → waTimeout d.raw ≤ s.time.elapsed - d.start → Answers (.waitTimeout t e) s (fun s' =>
        (getEngine s' t.val e.val).prog = updFirst (fun x => x == d) (ends stTimeout) (getEngine s t.val e.val).prog ∧
        getObj s' t.val Obj.waitTimeouts = (getObj s t.val Obj.waitTimeouts + 1) % 2 ^ 32 ∧
        OtherObjects s s' [(t.val, Obj.waitTimeouts)] ∧
        s' = { s with engine := s'.engine, dict := s'.dict, out := {} })))) ∧
  (∀ (t : TileN) (i : Fin 64) (v : BitVec 32) (s : State), waitsOf s t.val = [] →
    WritesObj (.semaphoreWrite t i v) s t.val (Obj.semaphore + i.val) v.toNat) ∧
  (∀ (t : TileN) (m : MoverN) (offset : BitVec 24) (hint : BitVec 32) (o : MoverOp) (x : Reply) (s : State),
    let other := if m.val % 2 = 0 then m.val + 1 else m.val - 1
    (getMover s t.val m.val).ops = [o] → o.use = .barrier → o.at_ = .out → o.tag = x.tag →
    fget [] s.replies (t.val * 256 + (0x10 + m.val)) = [x] → x.status = stOk →
    replyNamed s t.val m.val 0 offset.toNat hint.toNat x = true →
    (∀ y ∈ (getMover s t.val other).ops, y.use = .barrier ∧ y.at_ = .done stOk) →
    Answers (.moverRequestResponse t m 0 offset hint) s (fun s' => (getMover s' t.val m.val).ops = [] ∧
      (getEngine s' t.val (m.val / 2)).prog = updFirst (fun d => dOp d.raw = 8 ∧ ¬ d.ended) (ends stOk)
        (getEngine s t.val (m.val / 2)).prog ∧
      s' = { s with engine := s'.engine, mover := s'.mover, replies := s'.replies, out := {} })) ∧
  (∀ (t : TileN) (s : State),
    let due := s.signals.find? (fun m => m.dst = t.val ∧ ¬ signalWaits s m)
    (due = none → NoEffect (.signalRemoteApply t) s) ∧
    (∀ m, due = some m → m.op ≤ 1 → m.sem < 64 →
      (inReset s t.val = false → inHold s t.val = false → starting s = false → waitsOf s t.val = [] →
        m.value < 2 ^ 32 → Answers (.signalRemoteApply t) s (fun s' =>
          getObj s' t.val (Obj.semaphore + m.sem) = (if m.op = 0 then
            min (getObj s t.val (Obj.semaphore + m.sem) + m.value) (2 ^ 32 - 1) else m.value) ∧
          s'.signals = removeFirst (fun x => x == m) s.signals ∧
          (getEngine s' m.src m.eng).prog =
            updFirst (signalDesc m) (ends stOk) (getEngine s m.src m.eng).prog ∧ SameMemory s s')) ∧
      (∀ d, inReset s t.val = true ∨ inHold s t.val = true →
        (getEngine s m.src m.eng).prog.find? (signalDesc m) = some d →
        (d.sends < getObj s m.src Obj.moverRetryLimit → Answers (.signalRemoteApply t) s (fun s' =>
          (getEngine s' m.src m.eng).prog = updFirst (signalDesc m)
            (fun x => { x with sends := x.sends + 1, notBefore := s.time.elapsed + 1000 }) (getEngine s m.src m.eng).prog ∧
          s' = { s with engine := s'.engine, out := {} })) ∧
        (getObj s m.src Obj.moverRetryLimit ≤ d.sends → Answers (.signalRemoteApply t) s (fun s' =>
          (getEngine s' m.src m.eng).prog = updFirst (signalDesc m) (ends stRetry) (getEngine s m.src m.eng).prog ∧
          s' = { s with
            engine := s'.engine, signals := removeFirst (fun x => x == m) s.signals, out := {} })))))

/-- R173, R228: PreemptRequest and a PREEMPT of mode 1 raise requests for the arrays of their mask; a fenced array
takes none, and one already requested keeps its first. EngineYield is kept for the next PREEMPT of mode 0, which
without a request does nothing. A save, while every SRAM word stands as it was stored, leaves state 1 in the header, the accumulator rows behind it, and the
array without a group, planes or request.
What it takes from the model's readings and choices: assumptions 4, 88, 139. -/
def Obligations.PreemptionSaves : Prop :=
  (∀ (t : TileN) (e : EngineN) (d : Desc) (rest : List Desc) (v : BitVec 8) (s : State),
    let Raised (s' : State) (mask : Nat) := ∀ a < 4, getArray s' t.val a =
      if bit mask a ∧ (getArray s t.val a).fenced = false ∧ (getArray s t.val a).preempt = none then
        { getArray s t.val a with preempt := some s.time.elapsed } else getArray s t.val a
    (16 ≤ v.toNat → Refuses (.preemptRequest t v) s stBadFormat) ∧
    (v.toNat < 16 → Answers (.preemptRequest t v) s (fun s' => Raised s' v.toNat ∧
      s' = { s with array := s'.array, out := { status := stOk } })) ∧
    (Issuable s t.val e.val d rest → d.started = false → dOp d.raw = 12 → peMode d.raw = true →
      Answers (.preemptRequestPoint t e) s (fun s' => Raised s' (peMask d.raw) ∧
        Ran s s' t.val e.val rest (ends stOk (begun s d)) ∧
        s' = { s with engine := s'.engine, array := s'.array, out := {} })) ∧
    (1 < v.toNat → Refuses (.engineYield t e v) s stBadFormat) ∧ (v.toNat = 0 → NoEffect (.engineYield t e v) s) ∧
    (v.toNat = 1 → exec (.engineYield t e v) s = .next { s with
      engine := fset {} s.engine (t.val * 6 + e.val) { getEngine s t.val e.val with yield := true }
      out := { status := stOk } }) ∧
    (Issuable s t.val e.val d rest → d.started = false → dOp d.raw = 12 → peMode d.raw = false →
      (yieldPending s t.val e.val = false → Answers (.preemptYieldPoint t e) s (fun s' =>
        Ran s s' t.val e.val rest (ends stOk (begun s d)) ∧ s' = { s with engine := s'.engine, out := {} })) ∧
      (yieldPending s t.val e.val = true → Answers (.preemptYieldPoint t e) s (fun s' =>
        (getEngine s' t.val e.val).ready = rest ∧ (getEngine s' t.val e.val).yield = false ∧
        (∃ l, (getEngine s' t.val e.val).prog = l ++ [ends stPreempted (begun s d)]) ∧
        (e.val < 4 → (getArray s' t.val e.val).group = none ∧ (getArray s' t.val e.val).preempt = none))))) ∧
  (∀ (t : TileN) (a : ArrayN) (s : State),
    let x := getArray s t.val a.val
    let base := getObj s t.val (Obj.saveAreaBase + a.val)
    (canSave s t.val a.val = false → NoEffect (.preemptSaveDone t a) s) ∧
    (canSave s t.val a.val = true → s.sramErr = [] → base + 0x41000 ≤ slateSize → Answers (.preemptSaveDone t a) s (fun s' =>
      slateNat s' t.val base 1 = 1 ∧
      (∀ g, x.group = some g → g.fused = false → ∀ i < min 512 (groupRows g.recipe g.m),
        slateNat s' t.val (base + 0x1000 + i * 512) 512 =
          packCodes 32 (inkRow s t.val a.val (g.a0 + i)) % 2 ^ 4096) ∧
      (∀ g st, x.group = some g → x.stream = some st →
        bits (slateNat s' t.val base 64) 344 32 = st.next % 2 ^ 32 ∧
        bits (slateNat s' t.val base 64) 376 32 = g.m % 2 ^ 32 ∧
        (getEngine s' t.val a.val).prog = updFirst (fun d => x.stream.isSome ∧ dOp d.raw = 2 ∧ ¬ d.ended)
          (fun d => { d with ended := true, status := stPreempted, count := st.next }) (getEngine s t.val a.val).prog) ∧
      (getArray s' t.val a.val).group = none ∧ (getArray s' t.val a.val).stream = none ∧
      (getArray s' t.val a.val).preempt = none ∧ (getArray s' t.val a.val).planeA = {} ∧
      (getArray s' t.val a.val).planeB = {} ∧
      getObj s' t.val (Obj.preemptions + a.val) = (getObj s t.val (Obj.preemptions + a.val) + 1) % 2 ^ 32 ∧
      s'.inkwell = s.inkwell ∧ s'.dram = s.dram ∧
      OtherSlate s s' t.val (fun o => base ≤ o ∧ o < base + 0x41000))))

/-- R215, R229, R230, R232, Table 8.16: the first ended descriptor completes: it leaves, counts, answers its status,
and leaves its record in the ring where one is due; a full ring holds it until the host frees space. A stopped
engine goes on by the action written to EngineResume; one not allowed in its state is refused.
What it takes from the model's readings and choices: assumptions 4, 97, 142, 145. -/
def Obligations.CompletionAndResume : Prop :=
  (∀ (t : TileN) (e : EngineN) (d : Desc) (s : State),
    (getEngine s t.val e.val).prog.find? (fun d => d.ended) = some d → d.replay = false →
    s.sramErr = [] →
    let n := max 1 (getObj s t.val (Obj.completionRingSize + e.val))
    let p := getObj s t.val (Obj.completionProduced + e.val)
    let off := (getObj s t.val (Obj.completionRingBase + e.val) + 32 * (p % n)) % slateSize
    let recorded := dRecord d.raw = true ∨ finalStatus d ≠ stOk
    (recorded → ringFull s t.val e.val = true → (getEngine s t.val e.val).stallFrom = none →
      exec (.descriptorComplete t e) s = .next { s with
        engine := fset {} s.engine (t.val * 6 + e.val) { getEngine s t.val e.val with stallFrom := some s.time.elapsed }
        out := {} }) ∧
    (¬ (recorded ∧ ringFull s t.val e.val = true) → off + 32 ≤ slateSize →
      Answers (.descriptorComplete t e) s (fun s' => s'.out.status = finalStatus d ∧
        (getEngine s' t.val e.val).prog = removeFirst (fun x => x == d) (getEngine s t.val e.val).prog ∧
        (getEngine s' t.val e.val).stallFrom = none ∧
        getObj s' t.val (Obj.descriptorsCompleted + e.val) =
          (getObj s t.val (Obj.descriptorsCompleted + e.val) + 1) % 2 ^ 64 ∧
        (recorded → slateNat s' t.val off 32 = recordBits s d (finalStatus d)
            ((getObj s t.val (Obj.descriptorsCompleted + e.val) + 1) % 2 ^ 64) % 2 ^ 256 ∧
          getObj s' t.val (Obj.completionProduced + e.val) = (p + 1) % 2 ^ 32 ∧
          OtherSlate s s' t.val (fun o => off ≤ o ∧ o < off + 32)) ∧
        (¬ recorded → s'.slate = s.slate ∧ getObj s' t.val (Obj.completionProduced + e.val) = p) ∧
        s'.dram = s.dram ∧ s'.inkwell = s.inkwell))) ∧
  (∀ (t : TileN) (e : EngineN) (v : BitVec 32) (s : State),
    ((getEngine s t.val e.val).stallFrom = none →
      WritesObj (.completionConsumedWrite t e v) s t.val (Obj.completionConsumed + e.val) v.toNat) ∧
    (∀ d, (getEngine s t.val e.val).stallFrom ≠ none →
      (getEngine s t.val e.val).prog.find? (fun d => d.ended) = some d →
      ringFull (setObj t.val (Obj.completionConsumed + e.val) v.toNat s) t.val e.val = false →
      Answers (.completionConsumedWrite t e v) s (fun s' => s'.out.status = stOk ∧
        (getEngine s' t.val e.val).prog = removeFirst (fun x => x == d) (getEngine s t.val e.val).prog ∧
        getObj s' t.val (Obj.completionConsumed + e.val) = v.toNat))) ∧
  (∀ (t : TileN) (e : EngineN) (s : State),
    let g := getEngine s t.val e.val
    let head := getObj s t.val (Obj.engineHead + e.val)
    let size := max 1 (getObj s t.val (Obj.engineQueueSize + e.val))
    let movers := [(t.val, Obj.moverState + 2 * e.val), (t.val, Obj.moverState + (2 * e.val + 1))]
    let left : EngineS := { g with halt := 0, stopSoon := 0, trapIrq := false }
    let Goes (cmd : Instr) (g' : EngineS) (h : Nat) := Answers cmd s (fun s' => s'.out = { status := stOk } ∧
      getEngine s' t.val e.val = g' ∧ (∀ k, k ≠ t.val * 6 + e.val → fget ({} : EngineS) s'.engine k = fget {} s.engine k) ∧
      getObj s' t.val (Obj.engineHead + e.val) = h ∧
      (∀ k ∈ movers, getObj s' k.1 k.2 = 0) ∧ OtherObjects s s' ((t.val, Obj.engineHead + e.val) :: movers) ∧
      s' = { s with engine := s'.engine, dict := s'.dict, out := s'.out })
    let replaced := mkDesc s t.val e.val g.stopIdx (getObj s t.val (Obj.engineReplace + e.val))
    (∀ p ∈ ([(1, .engineResumeContinue t e), (2, .engineResumeRerun t e), (3, .engineResumeSaveArea t e),
        (4, .engineResumeAbort t e), (5, .engineResumeReplace t e)] : List (Nat × Instr)),
      resumeOk p.1 g.halt = false → Refuses p.2 s stBadFormat) ∧
    ((g.halt = 3 ∨ g.halt = 4 ∨ g.halt = 6) → Goes (.engineResumeContinue t e) left head) ∧
    (g.halt = 5 → g.refetch = [] → Goes (.engineResumeContinue t e) left ((head + 1) % size % 2 ^ 32)) ∧
    (∀ i j l, g.halt = 5 → g.refetch = i :: j :: l →
      Goes (.engineResumeContinue t e) { left with refetch := j :: l } head) ∧
    (g.halt = 5 → Goes (.engineResumeRerun t e) left head) ∧
    ((g.halt = 3 ∨ g.halt = 4) → Goes (.engineResumeRerun t e) { left with
      again := [], refetch := (match g.abandoned with
        | some first => ringSpan first g.stopIdx (getObj s t.val (Obj.engineQueueSize + e.val))
        | none => [g.stopIdx]) ++ g.refetch } head) ∧
    (g.halt = 6 → Goes (.engineResumeSaveArea t e)
      { left with ready := mkDesc s t.val e.val g.stopIdx resumeRaw :: g.ready } head) ∧
    ((g.halt = 3 ∨ g.halt = 4) → Goes (.engineResumeReplace t e) { left with ready := replaced :: g.ready } head) ∧
    (g.halt = 5 → g.refetch = [] → Goes (.engineResumeReplace t e) { left with ready := g.ready ++ [replaced] }
      ((head + 1) % size % 2 ^ 32)) ∧
    (3 ≤ g.halt → g.halt ≤ 6 → Answers (.engineResumeAbort t e) s (fun s' => s'.out.status = stOk ∧
      (getEngine s' t.val e.val).ready = [] ∧ (getEngine s' t.val e.val).refetch = [] ∧
      (getEngine s' t.val e.val).halt = 0 ∧
      (getEngine s' t.val e.val).prog = g.prog.filter (fun d => d.ended ∨ dOp d.raw ≠ 2) ∧
      getObj s' t.val (Obj.engineHead + e.val) = getObj s t.val (Obj.engineTail + e.val) % 2 ^ 32 ∧
      (e.val < 4 → (getArray s' t.val e.val).group = none) ∧ SameMemory s s')))

/-! ## The block map -/

/-- R245, R246, R247, R256, Tables 9.5 to 9.7: with the block map idle, a command that is not well formed does nothing
but leave BAD_FORMAT in MapResult, and in Hold a command waits. One entry of each command: ALLOC maps a free
block, SHARE the block of another entry, PIN and UNPIN change its state, SETHOME its home; RELEASE empties it
and drops its reference; FARMAP asks the block's tile; SPILL of a clean entry is done, of a dirty one begun;
MAP_READ copies it; RELOCATE of a retired block begins its copies into a new one.
What it takes from the model's readings and choices: assumptions 29, 76, 80, 82, 152, 153. -/
def Obligations.MapCommandsOnEntries : Prop :=
  ∀ (t : TileN) (v : BitVec 256) (s : State),
    (getMap s t.val).wait = none → (getMap s t.val).queue = [] → mapQuiet s t.val → s.sramErr = [] →
    let w := v.toNat
    let e := mcEntry w
    let x := getEntry s t.val e
    let Good (op : Nat) : Prop := inHold s t.val = false ∧ mcOk s t.val (withMapOp v op) = true
    let One (op : Nat) : Prop := Good op ∧ mcCount w = 1
    let Result (s' : State) (st reason n blk det : Nat) := s'.out = { status := stOk } ∧
      getObj s' t.val Obj.mapResult = fld 64 64 det + fld 48 16 n + fld 32 16 blk + fld 8 8 reason + fld 0 8 st
    let Mapped (state tile blk : Nat) (dirty : Bool) : Entry := { x with
      state := state, write := mcWrite w, busy := false, accessed := false, dirty := dirty, tile := tile
      part := mcPart w, block := blk, wasPinned := false, wasFar := false }
    let Sets (s' : State) (y : Entry) := getEntry s' t.val e = y ∧
      ∀ k, k ≠ t.val * 65536 + e → fget ({} : Entry) s'.entry k = fget {} s.entry k
    (∀ p ∈ ([(1, .alloc t v), (2, .share t v), (3, .release t v), (4, .pin t v), (5, .unpin t v), (6, .farmap t v),
        (7, .sethome t v), (8, .spill t v), (9, .publish t v), (10, .unpublish t v), (11, .lookup t v), (12, .adopt t v),
        (13, .adoptlist t v), (14, .mapRead t v), (15, .relocate t v)] : List (Nat × Instr)),
      (inHold s t.val = false → mcOk s t.val (withMapOp v p.1) = false → Answers p.2 s (fun s' =>
        Result s' stBadFormat 0 0 0 0 ∧ OtherObjects s s' [(t.val, Obj.mapResult)] ∧ s'.entry = s.entry ∧ s'.pool = s.pool)) ∧
      (inHold s t.val = true → Answers p.2 s (fun s' => (getMap s' t.val).queue = [withMapOp v p.1] ∧
        s' = { s with map := s'.map, out := { status := stOk } }))) ∧
    (∀ i l, One 1 → x.state = 0 → 1 ≤ getObj s t.val Obj.freeBlocks →
      firstList s t.val (rotated ((getMap s t.val).hand % max 1 (listCount s t.val)) (listCount s t.val)) = some (i, l) →
      Answers (.alloc t v) s (fun s' => ∃ p ∈ l, Result s' stOk 0 1 p 0 ∧ Sets s' (Mapped 1 0 p true) ∧
        getPool s' t.val p = { pstate := 1, refs := 1 } ∧
        (∀ k, k ≠ t.val * 65536 + p → fget ({} : PoolD) s'.pool k = fget {} s.pool k) ∧
        getObj s' t.val Obj.freeBlocks = (getObj s t.val Obj.freeBlocks - 1) % 2 ^ 32 ∧ SameMemory s s')) ∧
    (let y := getEntry s t.val (mcOther w);
      One 2 → x.state = 0 → (y.state = 1 ∨ y.state = 4) → mustMove s t.val y = false → (getPool s t.val y.block).refs < 65535 →
      Answers (.share t v) s (fun s' => Result s' stOk 0 1 y.block 0 ∧ Sets s' (Mapped 1 0 y.block false) ∧
        getPool s' t.val y.block = { getPool s t.val y.block with refs := (getPool s t.val y.block).refs + 1 } ∧
        SameMemory s s')) ∧
    (One 3 → x.busy = false → (x.state = 1 ∨ x.state = 4) → mustMove s t.val x = false → Answers (.release t v) s (fun s' =>
      Result s' stOk 0 1 x.block 0 ∧ Sets s' {} ∧
      (getPool s' t.val x.block).refs = (getPool s t.val x.block).refs - 1 ∧
      (1 < (getPool s t.val x.block).refs → (getPool s' t.val x.block).pstate = (getPool s t.val x.block).pstate) ∧
      ((getPool s t.val x.block).refs = 1 → (getPool s t.val x.block).pstate = 1 →
        (getPool s' t.val x.block).pstate = if flag s t.val Obj.clearOnFree then 3 else 0) ∧ SameMemory s s')) ∧
    (∀ op from_ to_, ((op, from_, to_) = (4, 1, 4) ∨ (op, from_, to_) = (5, 4, 1)) → Good op →
      (∀ i < mcCount w, (getEntry s t.val (e + i)).state = from_) →
      Answers (if op = 4 then .pin t v else .unpin t v) s (fun s' =>
        Result s' stOk 0 (mcCount w) (getEntry s t.val (e + mcCount w - 1)).block 0 ∧
        (∀ i < mcCount w, getEntry s' t.val (e + i) = { getEntry s t.val (e + i) with state := to_ }) ∧
        (∀ k, (∀ i < mcCount w, k ≠ t.val * 65536 + e + i) → fget ({} : Entry) s'.entry k = fget {} s.entry k) ∧
        s'.pool = s.pool ∧ SameMemory s s')) ∧
    (One 6 → x.state = 0 → Answers (.farmap t v) s (fun s' => s'.out = { status := stOk } ∧ s'.entry = s.entry ∧
      s'.queries = s.queries ++ [{ src := t.val, dst := mcTile w, kind := 1, arg := mcBlock w, part := mcPart w }] ∧
      (getMap s' t.val).wait = some { raw := withMapOp v 6, done := 0, asked := true } ∧ SameMemory s s')) ∧
    (One 7 → Answers (.sethome t v) s (fun s' => Result s' stOk 0 1 x.block 0 ∧
      Sets s' { x with home := mcArg w } ∧ s'.pool = s.pool ∧ SameMemory s s')) ∧
    (One 8 → x.busy = false → x.state = 1 → x.home ≠ 0 → (getMap s t.val).releases = [] → mustMove s t.val x = false →
      mapHalted s t.val = false →
      (x.dirty = false → Answers (.spill t v) s (fun s' => Result s' stOk 0 1 0 0 ∧
        Sets s' { x with state := 3, block := 0 } ∧
        (getPool s' t.val x.block).refs = (getPool s t.val x.block).refs - 1 ∧
        getObj s' t.val Obj.spills = (getObj s t.val Obj.spills + 1) % 2 ^ 64 ∧ SameMemory s s')) ∧
      (x.dirty = true → Answers (.spill t v) s (fun s' => s'.out.status = stOk ∧
        getEntry s' t.val e = { x with busy := true } ∧
        (getMap s' t.val).wait = some { raw := withMapOp v 8, done := 0, asked := true }))) ∧
    (One 14 → Answers (.mapRead t v) s (fun s' =>
      Result s' stOk 0 1 x.block (if x.state = 1 ∨ x.state = 4 ∨ (x.state = 5 ∧ ¬ x.wasFar) then
        poolBits s t.val x.block else 0) ∧
      getObj s' t.val Obj.mapEntryImage = entryBits x % 2 ^ 128 ∧
      OtherObjects s s' [(t.val, Obj.mapResult), (t.val, Obj.mapEntryImage)] ∧ s'.entry = s.entry ∧ s'.pool = s.pool)) ∧
    (One 15 → x.state = 5 → x.wasFar = false → x.busy = false → (getPool s t.val x.block).pstate = 2 →
      (getPool s t.val x.block).forward = false → mapHalted s t.val = false →
      (∃ p i, firstList s t.val (rotated ((getMap s t.val).hand % max 1 (listCount s t.val)) (listCount s t.val)) = some (i, p)) →
      Answers (.relocate t v) s (fun s' => s'.out = { status := stOk } ∧ Sets s' { x with busy := true } ∧
        (getMap s' t.val).wait = some { raw := withMapOp v 15, done := 0, asked := true } ∧
        ∃ j ∈ (getMap s' t.val).jobs, ∃ p, j.kind = .reloc ∧ j.entry = e ∧ j.src = x.block ∧ j.dst = some p ∧
          pstateOf s t.val p = 0 ∧ getPool s' t.val p = { pstate := 1 }))

/-- R253, R254: PUBLISH puts a key for the block of an entry into a free way of its set, which holds one
reference; UNPUBLISH clears the way; LOOKUP tells its block and ADOPT and ADOPTLIST map it with one more
reference, each counting a hit; a miss answers reason 5.
What it takes from the model's readings and choices: assumption 78. -/
def Obligations.PrefixDirectory : Prop :=
  ∀ (t : TileN) (v : BitVec 256) (s : State),
    (getMap s t.val).wait = none → (getMap s t.val).queue = [] → inHold s t.val = false → mapQuiet s t.val →
    s.sramErr = [] →
    let w := v.toNat
    let Result (s' : State) (reason n blk det : Nat) := s'.out = { status := stOk } ∧ SameMemory s s' ∧
      getObj s' t.val Obj.mapResult = fld 64 64 det + fld 48 16 n + fld 32 16 blk + fld 8 8 reason
    let Hits (s' : State) (k : Nat) := getWay s' t.val k = { getWay s t.val k with
        lastHit := s.time.timeBase, hits := min ((getWay s t.val k).hits + 1) (2 ^ 32 - 1) } ∧
      getObj s' t.val Obj.prefixHits = (getObj s t.val Obj.prefixHits + 1) % 2 ^ 64
    let Adopts (cmd : Instr) (e key k : Nat) := (getEntry s t.val e).state = 0 →
      findKey s t.val key (mcPart w) = some k → (getPool s t.val (getWay s t.val k).block).refs < 65535 →
      Answers cmd s (fun s' => Result s' 0 1 (getWay s t.val k).block 0 ∧ Hits s' k ∧
        getEntry s' t.val e = { getEntry s t.val e with
          state := 1, write := mcWrite w, busy := false, accessed := false, dirty := false, tile := 0
          part := mcPart w, block := (getWay s t.val k).block, wasPinned := false, wasFar := false } ∧
        (getPool s' t.val (getWay s t.val k).block).refs = (getPool s t.val (getWay s t.val k).block).refs + 1)
    (∀ i, let x := getEntry s t.val (mcEntry w);
      mcOk s t.val (withMapOp v 9) = true → (x.state = 1 ∨ x.state = 4) → mustMove s t.val x = false → (getPool s t.val x.block).refs < 65535 →
      findKey s t.val (mcArg w) (mcPart w) = none →
      (setSlots (mcArg w)).find? (fun i => !(getWay s t.val i).valid) = some i →
      Answers (.publish t v) s (fun s' => Result s' 0 1 x.block 0 ∧ s'.entry = s.entry ∧
        getWay s' t.val i = { valid := true, key := mcArg w, lastHit := s.time.timeBase, part := mcPart w, block := x.block } ∧
        (∀ k, k ≠ t.val * 16384 + i → fget ({} : Way) s'.way k = fget {} s.way k) ∧
        getPool s' t.val x.block = { getPool s t.val x.block with
          refs := (getPool s t.val x.block).refs + 1, published := true, dirindex := i })) ∧
    (mcOk s t.val (withMapOp v 10) = true → adoptComing s t.val (mcArg w) (mcPart w) = true →
      Answers (.unpublish t v) s (fun s' => s'.out = { status := stOk } ∧ s'.way = s.way ∧
        (getMap s' t.val).wait = some { raw := withMapOp v 10 })) ∧
    (∀ k, mcOk s t.val (withMapOp v 10) = true → adoptComing s t.val (mcArg w) (mcPart w) = false →
      findKey s t.val (mcArg w) (mcPart w) = some k →
      Answers (.unpublish t v) s (fun s' => Result s' 0 1 (getWay s t.val k).block 0 ∧ getWay s' t.val k = {} ∧
        (getPool s' t.val (getWay s t.val k).block).refs = (getPool s t.val (getWay s t.val k).block).refs - 1 ∧
        s'.entry = s.entry)) ∧
    (mcOk s t.val (withMapOp v 10) = true → adoptComing s t.val (mcArg w) (mcPart w) = false →
      findKey s t.val (mcArg w) (mcPart w) = none →
      Answers (.unpublish t v) s (fun s' => Result s' 5 0 0 0 ∧ s'.way = s.way ∧ s'.pool = s.pool)) ∧
    (∀ k, mcOk s t.val (withMapOp v 11) = true → findKey s t.val (mcArg w) (mcPart w) = some k →
      Answers (.lookup t v) s (fun s' =>
        Result s' 0 1 (getWay s t.val k).block (fld 16 6 t.val + (getWay s t.val k).block) ∧ Hits s' k ∧
        s'.entry = s.entry ∧ s'.pool = s.pool)) ∧
    (mcOk s t.val (withMapOp v 11) = true → findKey s t.val (mcArg w) (mcPart w) = none →
      Answers (.lookup t v) s (fun s' => Result s' 5 0 0 0 ∧ s'.way = s.way ∧ s'.pool = s.pool ∧
        getObj s' t.val Obj.prefixMisses = (getObj s t.val Obj.prefixMisses + 1) % 2 ^ 64)) ∧
    (∀ k, mcOk s t.val (withMapOp v 12) = true → mcTile w = t.val → Adopts (.adopt t v) (mcEntry w) (mcArg w) k) ∧
    (mcOk s t.val (withMapOp v 12) = true → mcTile w ≠ t.val → (getEntry s t.val (mcEntry w)).state = 0 →
      Answers (.adopt t v) s (fun s' => s'.out = { status := stOk } ∧ s'.entry = s.entry ∧
        s'.queries = s.queries ++ [{ src := t.val, dst := mcTile w, kind := 3, arg := mcArg w, part := mcPart w }] ∧
        (getMap s' t.val).wait = some { raw := withMapOp v 12, done := 0, asked := true })) ∧
    (∀ k, let r := slateNat s t.val (mcArg w) 16;
      mcOk s t.val (withMapOp v 13) = true → mcCount w = 1 → slateBad s t.val (mcArg w) 16 = false →
      bits r 38 10 = 0 → bits r 0 32 = 0 → bits r 32 6 = t.val → bits r 64 64 ≠ 0 →
      Adopts (.adoptlist t v) (bits r 48 16) (bits r 64 64) k)

/-- R241, R242, R243, R251: the block map takes the oldest request of a requester, if it is the one named. It is refused where it is of a FREE
entry or of another partition, or writes where it may not; a busy entry holds it; a block of this tile is
accessed, a SPILLED one fetched from its home, and a far one's request forwarded, to be checked against the pool
of the tile that holds the block.
What it takes from the model's readings and choices: assumptions 4, 76, 98, 154. -/
def Obligations.ResolutionOfRequests : Prop :=
  (∀ (t : TileN) (q : BitVec 8) (addr : BitVec 48) (len : BitVec 12) (write : Bool) (data : List Byte) (s : State),
    let c := Instr.resolution t q addr len write data
    let Named (r : MapReq) : Prop := mapNamed s t.val addr.toNat len.toNat write (byteNats data) r = true
    let mine (r : MapReq) : Bool := decide (r.req.requester = q.toNat)
    (mapHalted s t.val = true ∨ ((getMap s t.val).held.find? mine = none ∧ (getMap s t.val).input.find? mine = none) →
      NoEffect c s) ∧
    (∀ r, (getMap s t.val).held = [] → (getMap s t.val).input.find? mine = some r → ¬ Named r → NoEffect c s) ∧
    (∀ r, mapHalted s t.val = false → (getMap s t.val).held = [] → (getMap s t.val).input.find? mine = some r → Named r →
      fifoWaits s t.val q.toNat r.req.passNo.isSome = false → mapQuiet s t.val → s.sramErr = [] → viaGateway r.req = false →
      let x := getEntry s t.val r.entry
      let Took (s' : State) := (getMap s' t.val).input = removeFirst mine (getMap s t.val).input ∧
        (∀ k, k ≠ t.val * 65536 + r.entry → fget ({} : Entry) s'.entry k = fget {} s.entry k) ∧ s'.pool = s.pool
      let Ends (st : Nat) := Answers c s (fun s' => Took s' ∧ s'.entry = s.entry ∧ (getMap s' t.val).held = [] ∧
        (∃ y, fget [] s'.replies (t.val * 256 + r.req.orig) = fget [] s.replies (t.val * 256 + r.req.orig) ++ [y] ∧
          y.tag = r.req.tag ∧ y.status = st) ∧
        s' = { s with map := s'.map, replies := s'.replies, count := s'.count, out := {} })
      (x.state = 0 → Ends stDecodeError) ∧ (x.state ≠ 0 → x.part ≠ r.part → Ends stAccessDenied) ∧
      (x.state ≠ 0 → x.part = r.part → r.req.write = true → (x.write = false ∨ r.canWrite = false) → Ends stAccessDenied) ∧
      (x.state ≠ 0 → x.part = r.part → (r.req.write = true → x.write = true ∧ r.canWrite = true) →
        (x.busy = true → Answers c s (fun s' => Took s' ∧ s'.entry = s.entry ∧
          (∃ h, (getMap s' t.val).held = [h] ∧ h.entry = r.entry ∧ h.off = r.off ∧ h.req.tag = r.req.tag ∧
            h.req.write = r.req.write ∧ h.req.best = (r.req.best || decide (x.state = 3))) ∧
          getObj s' t.val Obj.heldRequests = 1 ∧ SameMemory s s')) ∧
        (x.busy = false → (x.state = 1 ∨ x.state = 4) → (getPool s t.val x.block).pstate ≠ 2 →
          (r.req.write = true → (getPool s t.val x.block).refs ≤ 1) → Answers c s (fun s' => Took s' ∧
            getEntry s' t.val r.entry = { x with accessed := true, dirty := x.dirty || r.req.write })) ∧
        (x.busy = false → (x.state = 1 ∨ x.state = 4) → (getPool s t.val x.block).pstate = 2 →
          (getPool s t.val x.block).forward = false → Answers c s (fun s' => Took s' ∧
            getEntry s' t.val r.entry = { x with state := 5, wasPinned := decide (x.state = 4), wasFar := false } ∧
            (∃ y, fget [] s'.replies (t.val * 256 + r.req.orig) = fget [] s.replies (t.val * 256 + r.req.orig) ++ [y] ∧
              y.tag = r.req.tag ∧ y.status = stBlockRetired) ∧ SameMemory s s')) ∧
        (x.busy = false → x.state = 2 → r.req.write = false → Answers c s (fun s' => Took s' ∧
          getEntry s' t.val r.entry = { x with accessed := true } ∧
          (∃ f, s'.farReqs = s.farReqs ++ [f] ∧ f.src = t.val ∧ f.dst = x.tile ∧
            f.kind = .block r.entry x.block r.off ∧ f.len = r.req.len ∧ f.orig = r.req.orig ∧ f.tag = r.req.tag ∧
            f.write = false) ∧ SameMemory s s')) ∧
        (∀ i l, x.busy = false → x.state = 3 → (getMap s t.val).jobs = [] →
          firstList s t.val (rotated ((getMap s t.val).hand % max 1 (listCount s t.val)) (listCount s t.val)) = some (i, l) →
          Answers c s (fun s' => getEntry s' t.val r.entry = { x with busy := true } ∧
            (∃ j p, (getMap s' t.val).jobs = [j] ∧ j.kind = .fill ∧ j.entry = r.entry ∧ j.dst = some p ∧ p ∈ l) ∧
            (getMap s' t.val).held.length = 1 ∧
            s'.out.home = (List.range (poolG s t.val)).map (fun i =>
              { tile := t.val, entry := r.entry, node := getObj s t.val Obj.nextLevelNode, addr := x.home + 2048 * i
                len := 2048, write := false, part := x.part, data := 0, pois := 0 }) ∧ SameMemory s s'))))) ∧
  (∀ (t src : TileN) (s : State),
    ((∀ x e p off, farHead s t.val src.val = some x → x.kind ≠ .block e p off) → NoEffect (.forwardedResolution t src) s) ∧
    (∀ x e p off, farHead s t.val src.val = some x → x.kind = .block e p off →
      (mapHalted s t.val = true ∨ fifoWaits s t.val (0x20 + x.origin) x.passNo.isSome = true →
        NoEffect (.forwardedResolution t src) s) ∧
      (mapHalted s t.val = false → fifoWaits s t.val (0x20 + x.origin) x.passNo.isSome = false → s.sramErr = [] →
        (getPool s t.val p).forward = false → x.origin < 64 →
        let y := getEntry s src.val e
        Answers (.forwardedResolution t src) s (fun s' =>
          s'.farReqs = removeFirst (fun y => y.dst = t.val ∧ y.src = src.val) s.farReqs ∧ s'.pool = s.pool ∧
          (∀ k, k ≠ src.val * 65536 + e → fget ({} : Entry) s'.entry k = fget {} s.entry k) ∧
          ((getPool s t.val p).pstate = 2 →
            (∃ f, s'.farResps = s.farResps ++ [f] ∧ f.owner = t.val ∧ f.dst = x.origin ∧ f.req.tag = x.tag ∧
              f.req.status = stBlockRetired) ∧ SameMemory s s' ∧
            getEntry s' src.val e = if y.state = 2 ∧ y.tile = t.val ∧ y.block = p then
              { y with state := 5, wasFar := true, wasPinned := false } else y) ∧
          ((getPool s t.val p).pstate ≠ 2 → getEntry s' src.val e = y)))))

/-- R235, R247, R248, R250, R251, R252, R256, R257: with nothing held or waiting, the end of a copy-on-write gives the
entry its new block, and that of a relocation the new block the references of the old one; a fill makes the entry
NEAR and clean, a spill SPILLED; an error, or NextLevelTimeout, undoes either. A cleared block is free. A MapSwitch
waits for its engines, then sets their windows and tails. The pool is configured only while every entry is
FREE, and rebuilt.
What it takes from the model's readings and choices: assumptions 4, 79, 80, 81, 82, 150. -/
def Obligations.BlockMapEvents : Prop :=
  (∀ (t : TileN) (en : BitVec 16) (st : BitVec 8) (data : List Byte) (s : State),
    let e := en.toNat
    let x := getEntry s t.val e
    let limit := getObj s t.val Obj.nextLevelTimeout * 1000000
    (jobOf s t.val e = none → NoEffect (.copyOnWriteComplete t en) s ∧ NoEffect (.fillComplete t en st data) s ∧
      NoEffect (.spillComplete t en st) s ∧ NoEffect (.nextLevelTimeout t en) s) ∧
    (∀ j, jobOf s t.val e = some j →
      ((j.kind = .fill ∨ j.kind = .spill ∨ j.dst = none ∨ j.left ≠ 0) → NoEffect (.copyOnWriteComplete t en) s) ∧
      ((j.kind ≠ .fill ∨ j.dst = none ∨ j.ready = true ∧ j.left ≠ 0) → NoEffect (.fillComplete t en st data) s) ∧
      ((j.kind ≠ .spill ∨ st.toNat = stOk ∧ j.left ≠ 0) → NoEffect (.spillComplete t en st) s) ∧
      ((s.time.elapsed - j.started < limit ∨ j.kind = .cow ∨ j.kind = .reloc ∨ j.kind = .fill ∧ j.ready = true) →
        NoEffect (.nextLevelTimeout t en) s)) ∧
    (∀ j, (getMap s t.val).jobs = [j] → j.entry = e → (getMap s t.val).held = [] → (getMap s t.val).wait = none →
      (getMap s t.val).queue = [] → (getMap s t.val).releases = [] → mapQuiet s t.val →
      let Over (s' : State) (y : Entry) := getEntry s' t.val e = y ∧ (getMap s' t.val).jobs = [] ∧
        ∀ k, k ≠ t.val * 65536 + e → fget ({} : Entry) s'.entry k = fget {} s.entry k
      let Failed (s' : State) (code : Nat) :=
        getObj s' t.val Obj.lastMapEvent = fld 56 8 2 + fld 40 16 e + s.time.timeBase % 2 ^ 40 ∧ code < 256
      let Undone (s' : State) (p : Nat) := Over s' { x with busy := false } ∧ (getPool s' t.val p).refs = 0 ∧
        Failed s' st.toNat
      (∀ p, j.kind = .cow → j.far = none → j.dst = some p → j.left = 0 → p ≠ j.src →
        ((getPool s t.val j.src).pstate ≠ 2 ∨ (getPool s t.val j.src).forward = false) →
        Answers (.copyOnWriteComplete t en) s (fun s' =>
          Over s' { x with block := p, dirty := true, tile := 0, busy := false, state := if x.state = 4 then 4 else 1 } ∧
          (getPool s' t.val p).refs = 1 ∧ (getPool s' t.val j.src).refs = (getPool s t.val j.src).refs - 1 ∧
          getObj s' t.val Obj.cowBlocks = (getObj s t.val Obj.cowBlocks + 1) % 2 ^ 64 ∧
          getObj s' t.val Obj.cowInBankRows = (getObj s t.val Obj.cowInBankRows + j.rows) % 2 ^ 64)) ∧
      (∀ p, j.kind = .reloc → j.dst = some p → j.left = 0 → p ≠ j.src → 1 ≤ (getPool s t.val j.src).refs →
        Answers (.copyOnWriteComplete t en) s (fun s' => Over s' { x with busy := false } ∧
          getPool s' t.val j.src = { getPool s t.val j.src with refs := 0, forward := true, next := p } ∧
          getPool s' t.val p = { getPool s t.val p with refs := (getPool s t.val j.src).refs })) ∧
      (∀ p, j.kind = .fill → j.dst = some p →
        (j.ready = true → j.left = 0 → Answers (.fillComplete t en st data) s (fun s' =>
          Over s' { x with state := 1, dirty := false, block := p, tile := 0, busy := false } ∧
          (getPool s' t.val p).refs = 1 ∧ getObj s' t.val Obj.fills = (getObj s t.val Obj.fills + 1) % 2 ^ 64)) ∧
        (j.ready = false → st.toNat ≠ stOk → Answers (.fillComplete t en st data) s (fun s' => Undone s' p)) ∧
        (j.ready = false → st.toNat = stOk → data.length ≠ blockBytes s t.val →
          NoEffect (.fillComplete t en st data) s) ∧
        (j.ready = false → limit ≤ s.time.elapsed - j.started →
          Answers (.nextLevelTimeout t en) s (fun s' => Undone s' p))) ∧
      (j.kind = .spill →
        (st.toNat = stOk → j.left = 0 → mustMove s t.val { x with state := 1 } = false →
          Answers (.spillComplete t en st) s (fun s' =>
            Over s' { x with state := 3, dirty := false, block := 0, busy := false } ∧
            (getPool s' t.val x.block).refs = (getPool s t.val x.block).refs - 1 ∧
            getObj s' t.val Obj.spills = (getObj s t.val Obj.spills + 1) % 2 ^ 64)) ∧
        (st.toNat ≠ stOk → Answers (.spillComplete t en st) s (fun s' =>
          Over s' { x with state := 1, dirty := true, busy := false } ∧ Failed s' st.toNat ∧ s'.pool = s.pool)) ∧
        (limit ≤ s.time.elapsed - j.started → j.left < poolG s t.val → Answers (.nextLevelTimeout t en) s (fun s' =>
          Over s' { x with state := 1, dirty := true, busy := false } ∧ s'.pool = s.pool)) ∧
        (poolG s t.val ≤ j.left → NoEffect (.nextLevelTimeout t en) s)))) ∧
  (∀ (t : TileN) (blk : BitVec 16) (s : State), let p := blk.toNat
    (poolSize s t.val ≤ p ∨ pstateOf s t.val p ≠ 3 ∨ 1 < (getPool s t.val p).left →
      NoEffect (.blockClearComplete t blk) s) ∧
    (p < poolSize s t.val → pstateOf s t.val p = 3 → (getPool s t.val p).left = 0 →
      (mapHalted s t.val = true → NoEffect (.blockClearComplete t blk) s) ∧
      (mapHalted s t.val = false → mapQuiet s t.val → Answers (.blockClearComplete t blk) s (fun s' =>
        (getPool s' t.val p).pstate = 3 ∧ s'.entry = s.entry ∧ SameMemory s s'))) ∧
    (p < poolSize s t.val → pstateOf s t.val p = 3 → (getPool s t.val p).left = 1 → (getMap s t.val).jobs = [] →
      (getMap s t.val).held = [] → (getMap s t.val).wait = none → (getMap s t.val).queue = [] → mapQuiet s t.val →
      Answers (.blockClearComplete t blk) s (fun s' => getPool s' t.val p = { pstate := 0 } ∧
        (∀ k, k ≠ t.val * 65536 + p → fget ({} : PoolD) s'.pool k = fget {} s.pool k) ∧
        getObj s' t.val Obj.freeBlocks = (getObj s t.val Obj.freeBlocks + 1) % 2 ^ 32 ∧
        getObj s' t.val Obj.blocksCleared = (getObj s t.val Obj.blocksCleared + 1) % 2 ^ 64 ∧ SameMemory s s'))) ∧
  (∀ (t : TileN) (v : BitVec 512) (s : State), let w := v.toNat
    let sw := (getMap s t.val).switching
    (switchOk w = false → Answers (.mapSwitch t v) s (fun s' => s'.out = { status := stBadFormat } ∧
      getObj s' t.val Obj.mapSwitchResult = stBadFormat ∧ s'.map = s.map)) ∧
    (switchOk w = true → sw ≠ none → Refuses (.mapSwitch t v) s stRetry) ∧
    (switchOk w = true → sw = none → inHold s t.val = false →
      (headersFree s t.val w = false → Answers (.mapSwitch t v) s (fun s' => s'.out = { status := stRetry } ∧
        getObj s' t.val Obj.mapSwitchResult = stRetry)) ∧
      (headersFree s t.val w = true → Answers (.mapSwitch t v) s (fun s' => s'.out = { status := stOk } ∧
        (getMap s' t.val).switching = some (w, s.time.elapsed, true) ∧
        (∀ a < 4, bit (msPreempt w) a = true → (getArray s t.val a).fenced = false →
          (getArray s' t.val a).preempt ≠ none) ∧ SameMemory s s'))) ∧
    (∀ start, sw = some (w, start, true) → inHold s t.val = false →
      (switchReady s t.val w = false → NoEffect (.mapSwitchApply t) s) ∧
      (switchReady s t.val w = true → Answers (.mapSwitchApply t) s (fun s' => (getMap s' t.val).switching = none ∧
        (∀ m < 12, getObj s' t.val (Obj.mapWindow + m) =
          if bit (msChannels w) m then msWindow w else getObj s t.val (Obj.mapWindow + m)) ∧
        (∀ e < 6, bit (msAdvance w) e = true → getObj s' t.val (Obj.engineTail + e) = msTail w e) ∧
        getObj s' t.val Obj.mapSwitchResult = stOk ∧ SameMemory s s')))) ∧
  (∀ (t : TileN) (which : Fin 3) (v : BitVec 8) (s : State),
    let k := poolObj which.val
    let busy := s.entry.any (fun e => e.1 / 65536 = t.val ∧ e.2.state ≠ 0)
    let s1 := setObj t.val k v.toNat s
    (inRange k v.toNat = false → Refuses (.poolConfigWrite t which v) s stBadFormat) ∧
    (inRange k v.toNat = true → busy = true → Refuses (.poolConfigWrite t which v) s stRetry) ∧
    (inRange k v.toNat = true → busy = false → 16 < getObj s1 t.val Obj.poolFirstBand + getObj s1 t.val Obj.poolBands →
      Refuses (.poolConfigWrite t which v) s stBadFormat) ∧
    (inRange k v.toNat = true → busy = false → getObj s1 t.val Obj.poolFirstBand + getObj s1 t.val Obj.poolBands ≤ 16 →
      Answers (.poolConfigWrite t which v) s (fun s' => s'.out.status = stOk ∧ getObj s' t.val k = v.toNat ∧
        getObj s' t.val Obj.poolBlocks = poolSize s' t.val % 2 ^ 32 ∧
        (∀ p < poolSize s' t.val, (getPool s' t.val p).refs = 0) ∧ SameMemory s s')))

/-! ## Heat, Recess, calibration -/

/-- R285 to R289, R294, R295, R298, R300, R301: a thermal sample of a tile stores every valid reading, sets the refresh
band that the hottest layer asks for, at least RecessMinBand, and u; a reading at a trip level trips the device.
A rise check keeps the last five rises. A restart after cooling, or a release, ends the trip.
What it takes from the model's readings and choices: assumptions 4, 6, 11, 116, 170. -/
def Obligations.HeatAndTrip : Prop :=
  (∀ (t : TileN) (readings : List (Option Int)) (s : State),
    let now (i : Nat) := validReading s t.val i (readings.getD i none)
    let period := if tripped s then 20000 else getObj s t.val Obj.samplingPeriod
    (due s t.val 2 period = false → NoEffect (.thermalSample t readings) s) ∧
    (due s t.val 2 period = true → getObj s t.val Obj.recessMinBand ≤ 3 →
      (getSensor s t.val).band ≤ 3 → Answers (.thermalSample t readings) s (fun s' =>
      getObj s' t.val Obj.thermalSamples = (getObj s t.val Obj.thermalSamples + 1) % 2 ^ 64 ∧
      (∀ i < 30, ∀ v, now i = some v →
        getObj s' t.val (if i < 6 then Obj.logicTemp + i else Obj.dramTemp + (i - 6)) = ofSigned 32 v) ∧
      (getSensor s' t.val).band = bandFor (getSensor s t.val).band (getInt s' t.val Obj.columnDramMax) ∧
      getObj s' t.val Obj.refreshBand = max (getSensor s' t.val).band (getObj s t.val Obj.recessMinBand) ∧
      (getSensor s' t.val).u = throttleU (max (max
        (getInt s' t.val Obj.logicMax - throttlePoint s t.val Obj.logicThrottlePoint)
        (getInt s' t.val Obj.columnDramMax - throttlePoint s t.val Obj.dramThrottlePoint)) 0) ∧
      (getObj s dev Obj.tripState = 0 → (∀ i, tripSensor s t.val readings = some i → getObj s' dev Obj.tripState = 1 ∧
          getObj s' dev Obj.tripEvents = (getObj s dev Obj.tripEvents + 1) % 2 ^ 32) ∧
        (tripSensor s t.val readings = none → getObj s' dev Obj.tripState = 0)) ∧
      (∀ l < 24, chState s t.val (2 * l) = 2 → (getLayer s' t.val (2 * l)).tempDue = true) ∧
      s'.dram = s.dram ∧ s'.slate = s.slate ∧ s'.inkwell = s.inkwell))) ∧
  (∀ (t : TileN) (s : State),
    let x := getSensor s t.val
    let l := (rises x.riseBase x.reading :: x.rises).take 5
    let sums := (List.range 30).map (fun i => (l.map (fun r => r.getD i 0)).foldl (· + ·) 0)
    let fast := decide (l.length = 5) && l.all (fun r => r.any (fun v => decide (v > 32)))
    (due s t.val 3 1000000 = false → NoEffect (.riseCheck t) s) ∧
    (due s t.val 3 1000000 = true → Answers (.riseCheck t) s (fun s' =>
      getSensor s' t.val = { x with riseBase := x.reading, rises := l } ∧
      getObj s' t.val Obj.riseActive =
        (if flag s t.val Obj.riseActive then (if maxOf sums ≤ 80 then 0 else getObj s t.val Obj.riseActive)
         else if fast then 1 else 0) ∧
      (flag s t.val Obj.riseActive = false → fast = true →
        getObj s' t.val Obj.riseEvents = (getObj s t.val Obj.riseEvents + 1) % 2 ^ 32) ∧ SameMemory s s'))) ∧
  (∀ (t : TileN) (v : BitVec 8) (s : State),
    let nb := max (getSensor s t.val).band v.toNat
    let beyond := hasLive s t.val && decide (getObj s t.val Obj.refreshBand < nb ∧ getObj s t.val Obj.passBand < nb)
    (3 < v.toNat → Refuses (.recessMinBandWrite t v) s stBadFormat) ∧
    (v.toNat ≤ 3 → beyond = true → Refuses (.recessMinBandWrite t v) s stRetry) ∧
    (v.toNat ≤ 3 → beyond = false → (getSensor s t.val).band ≤ 3 → Answers (.recessMinBandWrite t v) s (fun s' =>
      s'.out.status = stOk ∧ getObj s' t.val Obj.recessMinBand = v.toNat ∧ getObj s' t.val Obj.refreshBand = nb ∧
      SameMemory s s'))) ∧
  (∀ (v : BitVec 8) (s : State),
    (∀ t < 64, (getMap s t).held = [] ∧ (getMap s t).wait = none ∧ (getMap s t).queue = [] ∧ (getMap s t).jobs = [] ∧
      mapQuiet s t) →
    let hot := (List.range 64).any (fun t => (List.range 30).any (fun i => !bit (getObj s t Obj.sensorLost) i &&
      (match (getSensor s t).reading.getD i none with
       | some v => decide (v ≥ 1360)
       | none => false)))
    let cooled := decide (getObj s dev Obj.tripState = 2 ∧ s.time.coolFrom + 1000000000 ≤ s.time.elapsed ∧
      s.time.timeBase % 20000 = 0)
    let Restarted (s' : State) := getObj s' dev Obj.tripState = 0 ∧ ∀ t < 64,
      getObj s' t Obj.lastThermalEvent = thermalEvent s 10 0 % 2 ^ 64
    (cooled = false → NoEffect .tripRestart s) ∧ (cooled = true → Answers .tripRestart s Restarted) ∧
    (1 < v.toNat → Refuses (.tripRelease v) s stBadFormat) ∧
    (getObj s dev Obj.tripState = 0 ∨ allJudged s = true → Refuses (.tripRelease v) s stBadFormat) ∧
    (v.toNat = 0 → getObj s dev Obj.tripState ≠ 0 → allJudged s = false → NoEffect (.tripRelease v) s) ∧
    (v.toNat = 1 → getObj s dev Obj.tripState ≠ 0 → allJudged s = false →
      (hot = true → Refuses (.tripRelease v) s stRetry) ∧
      (hot = false → Answers (.tripRelease v) s (fun s' => s'.out.status = stOk ∧ Restarted s'))))

/-- R291, R292, R387 to R390: a window opens when it is due, with the REFs of its number and those carried over, or
with the calibration that waits. A calibration that is due starts; a run that ends closes its window and is
accepted, repeated or fails by R389; accepted trims are used at once, or one LSB at a time.
What it takes from the model's readings and choices: assumptions 4, 6, 171. -/
def Obligations.RecessAndCalibration : Prop :=
  (∀ (t : TileN) (c : ChanN) (s : State),
    let x := getRecess s t.val c.val
    let p := recessPeriod s t.val
    let may := decide (x.openAt = none ∧ chState s t.val c.val ≠ 4 ∧ getObj s dev Obj.bringupPhase ≠ 1 ∧
      getObj s dev Obj.bringupPhase ≠ 2)
    let first := decide (x.period ≠ p ∧ s.time.timeBase % p = recessOffset p c.val)
    let next := decide (x.period ≠ 0 ∧ x.next ≤ s.time.elapsed)
    let cal := windowCal s t.val c.val
    let Opens (s' : State) (period n : Nat) := getRecess s' t.val c.val = { x with
        next := s.time.elapsed + period, period := period, number := n, openAt := some s.time.elapsed, cal := cal
        phase := if channelQuiet s t.val c.val then 1 else 0
        refsLeft := if cal then 0 else recessRefs n + x.carried, carried := if cal then recessRefs n + x.carried else 0 } ∧
      (getLayer s' t.val c.val).down = (getLayer s t.val c.val).down ++
        (if channelQuiet s t.val c.val then [{ word := opWord 4 0 0 }] else []) ∧
      SameMemory s s' ∧ s' = { s with recess := s'.recess, cal := s'.cal, layer := s'.layer, train := s'.train, out := {} }
    ((may = false ∨ (first = false ∧ next = false)) → NoEffect (.recessWindowOpen t c) s) ∧
    (may = true → first = true → Answers (.recessWindowOpen t c) s (fun s' => Opens s' p 0)) ∧
    (may = true → first = false → next = true →
      Answers (.recessWindowOpen t c) s (fun s' => Opens s' x.period x.number))) ∧
  (∀ (t : TileN) (c : ChanN) (s : State),
    (chState s t.val c.val ≠ 2 ∨ (getCal s t.val c.val).step ≠ 0 ∨ calDue s t.val c.val = false →
      NoEffect (.calibrationStart t c) s) ∧
    (chState s t.val c.val = 2 → (getCal s t.val c.val).step = 0 → calDue s t.val c.val = true →
      Answers (.calibrationStart t c) s (fun s' => getCal s' t.val c.val = { getCal s t.val c.val with
          step := 1, skip := 0, asked := false, runA := [], runB := [] } ∧ getObj s' t.val (Obj.calState + c.val) = 1 ∧
        OtherObjects s s' [(t.val, Obj.calState + c.val)] ∧ s' = { s with cal := s'.cal, dict := s'.dict, out := {} }))) ∧
  (∀ (t : TileN) (c : ChanN) (trims : List (Option Nat)) (edge : Bool) (s : State),
    let w := getRecess s t.val c.val
    let x := getCal s t.val c.val
    let r := (List.range 11).map (fun i => trims.getD i none)
    let out := judgeRun x (trimsInUse s t.val c.val) r
    let Ended (s' : State) := (getRecess s' t.val c.val).openAt = none ∧
      getObj s' t.val (Obj.recessWindows + c.val) = (getObj s t.val (Obj.recessWindows + c.val) + 1) % 2 ^ 64 ∧ SameMemory s s'
    (w.openAt = none ∨ w.cal = false ∨ w.phase ≠ 2 → NoEffect (.calibrationRunEnd t c trims edge) s) ∧
    (w.openAt ≠ none → w.cal = true → w.phase = 2 → x.step ≠ 0 → chState s t.val c.val = 2 → inHold s t.val = false →
      tripped s = false →
      (out = .again → Answers (.calibrationRunEnd t c trims edge) s (fun s' => Ended s' ∧
        (getCal s' t.val c.val).step = x.step + 1 ∧ (getCal s' t.val c.val).skip = 1)) ∧
      (out = .fail → Answers (.calibrationRunEnd t c trims edge) s (fun s' => Ended s' ∧
        (getCal s' t.val c.val).step = 0 ∧ getObj s' t.val (Obj.calState + c.val) = 2 ∧
        bit (getObj s' t.val Obj.calSuspectChannels) c.val = true ∧
        getObj s' t.val (Obj.calSuspectCount + c.val) = (getObj s t.val (Obj.calSuspectCount + c.val) + 1) % 2 ^ 32)) ∧
      (∀ v, out = .accept v → Answers (.calibrationRunEnd t c trims edge) s (fun s' => Ended s' ∧
        (getCal s' t.val c.val).step = 0 ∧ getObj s' t.val (Obj.calState + c.val) = 0 ∧
        bit (getObj s' t.val Obj.calSuspectChannels) c.val = false ∧
        getObj s' t.val (Obj.calCount + c.val) = (getObj s t.val (Obj.calCount + c.val) + 1) % 2 ^ 32 ∧
        (stepMode s t.val = true → trimsInUse s' t.val c.val = v) ∧
        (stepMode s t.val = false → (getCal s' t.val c.val).target = v ∧
          trimsInUse s' t.val c.val = trimsInUse s t.val c.val))))) ∧
  (∀ (t : TileN) (c : ChanN) (s : State),
    let x := getCal s t.val c.val
    let use := trimsInUse s t.val c.val
    let free := trimsFree s t.val c.val
    let logic := (List.range 5).map (fun j => towards (use.getD (5 + j) 0) (x.target.getD (5 + j) 0))
    let due := decide (x.lastStep + 50000 ≤ s.time.elapsed)
    let Sent (s' : State) := (getLayer s' t.val c.val).down = (getLayer s t.val c.val).down ++ trimWords use x.target
    let Only (s' : State) := SameMemory s s' ∧ s' = { s with cal := s'.cal, layer := s'.layer, out := {} }
    (x.target = [] → NoEffect (.gradualTrimStep t c) s) ∧
    (x.target ≠ [] → stepMode s t.val = false → use = x.target → Answers (.gradualTrimStep t c) s (fun s' =>
      getCal s' t.val c.val = { x with target := [], layerDue := false } ∧ Only s')) ∧
    (stepMode s t.val = false → use ≠ x.target → due = false → x.layerDue = false ∨ free = false →
      NoEffect (.gradualTrimStep t c) s) ∧
    (x.target ≠ [] → stepMode s t.val = false → use ≠ x.target → due = false → x.layerDue = true → free = true →
      Answers (.gradualTrimStep t c) s (fun s' => Sent s' ∧ trimsInUse s' t.val c.val = use ∧
        getCal s' t.val c.val = { x with layerDue := false } ∧ Only s')) ∧
    (x.target ≠ [] → stepMode s t.val = false → use ≠ x.target → due = true →
      Answers (.gradualTrimStep t c) s (fun s' => (getLayer s' t.val c.val).logicTrims = logic ∧
        (getLayer s' t.val c.val).trims = (getLayer s t.val c.val).trims ∧
        (free = true → Sent s') ∧ (free = false → (getLayer s' t.val c.val).down = (getLayer s t.val c.val).down) ∧
        getCal s' t.val c.val = { x with lastStep := s.time.elapsed, layerDue := !free } ∧ Only s')))

/-! ## Power -/

/-- R305, R306, R309, R312, R317 to R319, R419, R420: a rail report is stored and its telemetry back; without one
for 100,000 ns the rail counts as lost. The interface holds one command of a rail at a time. A step that has
settled is in force. A crossing of the warning level puts a tile, or all, in Hold, until every rail is clear;
one of the reset level asks for a tile reset, or resets the device.
What it takes from the model's readings and choices: assumptions 4, 6, 62, 103, 169. -/
def Obligations.RailsStepsAndHold : Prop :=
  (∀ (w : BitVec 48) (s : State), let r := bits w.toNat 41 7
    (66 ≤ r → NoEffect (.railReport w) s) ∧
    (r < 66 → Answers (.railReport w) s (fun s' =>
      getObj s' dev (Obj.railVoltage + r) = bits w.toNat 29 12 ∧ getObj s' dev (Obj.railCurrent + r) = bits w.toNat 5 24 ∧
      getObj s' dev Obj.vidReports = (getObj s dev Obj.vidReports + 1) % 2 ^ 64 ∧ railLost s' r = false ∧
      (∀ q < 66, q ≠ r → railLost s' q = railLost s q) ∧
      getRail s' r = { getRail s r with last := s.time.elapsed, mv := bits w.toNat 29 12, ma := bits w.toNat 5 24 } ∧
      OtherObjects s s' [(dev, Obj.railVoltage + r), (dev, Obj.railCurrent + r), (dev, Obj.vidReports),
        (dev, Obj.railTelemetryLost)] ∧ s' = { s with rail := s'.rail, dict := s'.dict, out := {} }))) ∧
  (∀ (rail : RailN) (s : State), let r := rail.val
    (railLost s r = true ∨ s.time.elapsed < (getRail s r).last + 100000 → NoEffect (.railTelemetryLost rail) s) ∧
    (railLost s r = false → (getRail s r).last + 100000 ≤ s.time.elapsed → Answers (.railTelemetryLost rail) s (fun s' =>
      railLost s' r = true ∧ getObj s' dev Obj.lastSupplyEvent = supplyEvent s 3 r (getRail s r).mv % 2 ^ 64 ∧
      (∀ m, (fget ({} : Mark) s.mark m).opened = true →
        fget ({} : Mark) s'.mark m = { fget ({} : Mark) s.mark m with stale := true }) ∧ SameMemory s s')) ∧
    ((getRail s r).outstanding = none → NoEffect (.vidCommandAck rail) s) ∧
    (∀ o, (getRail s r).outstanding = some o → Answers (.vidCommandAck rail) s (fun s' =>
      getObj s' dev Obj.vidCommands = (getObj s dev Obj.vidCommands + 1) % 2 ^ 64 ∧
      s'.out.vid = (getRail s r).queued.take 1 ∧
      getRail s' r = { getRail s r with outstanding := (getRail s r).queued.head?, queued := (getRail s r).queued.drop 1 } ∧
      OtherObjects s s' [(dev, Obj.vidCommands)] ∧
      s' = { s with rail := s'.rail, ptile := s'.ptile, dict := s'.dict, out := s'.out }))) ∧
  (∀ (t : TileN) (s : State),
    ((getPTile s t.val).settling = none → NoEffect (.voltageStepSettled t) s) ∧
    (∀ a n d, (getPTile s t.val).settling = some (a, n, d) →
      (s.time.elapsed < d → NoEffect (.voltageStepSettled t) s) ∧
      (d ≤ s.time.elapsed → (getRail s t.val).queued = [] → Answers (.voltageStepSettled t) s (fun s' =>
        getObj s' t.val Obj.voltageStep = n % 2 ^ 8 ∧ (getPTile s' t.val).stepSince = s.time.elapsed ∧
        ((getPTile s t.val).target = none → (getPTile s' t.val).settling = none) ∧
        OtherObjects s s' [(t.val, Obj.voltageStep), (t.val, Obj.voltageSteps)] ∧ SameMemory s s')))) ∧
  (∀ (t : TileN) (i : Fin 8) (s : State),
    ((getPTile s t.val).hints[i.val]? = none → NoEffect (.hintLoadNotice t i) s) ∧
    (∀ h, (getPTile s t.val).hints[i.val]? = some h →
      (h.noticed = true ∨ s.time.elapsed + getObj s dev Obj.voltageStepSettle < h.start → NoEffect (.hintLoadNotice t i) s) ∧
      (h.noticed = false → h.start ≤ s.time.elapsed + getObj s dev Obj.voltageStepSettle →
        Answers (.hintLoadNotice t i) s (fun s' =>
          (getPTile s' t.val).hints = setNth (getPTile s t.val).hints i.val { h with noticed := true } ∧
          ((getRail s t.val).outstanding = none →
            ∃ w, s'.out.vid = [w] ∧ (getRail s' t.val).outstanding = some w ∧ bits w 12 5 = 2 ∧ bits w 17 7 = t.val) ∧
          ((getRail s t.val).outstanding ≠ none →
            ∃ w, (getRail s' t.val).queued = (getRail s t.val).queued ++ [w] ∧ bits w 12 5 = 2 ∧ s'.out.vid = []) ∧
          s'.dict = s.dict ∧ SameMemory s s')))) ∧
  (∀ (rail : RailN) (mv : Nat) (s : State), let r := rail.val
    (belowLevel s r mv 940 = false → NoEffect (.supplyWarningCrossing rail mv) s) ∧
    (belowLevel s r mv 940 = true → (∀ t < 64, mergeOf s t = []) → Answers (.supplyWarningCrossing rail mv) s (fun s' =>
      (∀ t < 64, (t = r ∨ 64 ≤ r) → inHold s' t = true ∧ (inHold s t = false → getObj s' t Obj.holdState = 1 ∧
        (getPTile s' t).holdFrom = s.time.elapsed ∧
        getObj s' t Obj.holdEvents = (getObj s t Obj.holdEvents + 1) % 2 ^ 32)) ∧
      (∀ t < 64, t ≠ r → r < 64 → inHold s' t = inHold s t) ∧ (getRail s' r).lowAt = some s.time.elapsed ∧
      SameMemory s s')) ∧
    (belowLevel s r mv 880 = false → r < 64 → NoEffect (.supplyResetCrossing rail mv) s) ∧
    (belowLevel s r mv 880 = true → r < 64 → mergeOf s r = [] → Answers (.supplyResetCrossing rail mv) s (fun s' =>
      (getPTile s' r).deferredReset = true ∧ inHold s' r = true ∧
      getObj s' dev Obj.supplyResets = (getObj s dev Obj.supplyResets + 1) % 2 ^ 32 ∧ SameMemory s s')) ∧
    (belowLevel s r mv 880 = true → 64 ≤ r → exec (.supplyResetCrossing rail mv) s = exec .powerOnReset s)) ∧
  (∀ (t : TileN) (s : State), let x := getPTile s t.val
    (inHold s t.val = false → NoEffect (.holdExit t) s) ∧
    (x.deferredReset = false → (railsOf t.val).all (railClear s) = false → NoEffect (.holdExit t) s) ∧
    (inHold s t.val = true → x.deferredReset = false → (railsOf t.val).all (railClear s) = true → x.target = none →
      (getProt s t.val).queue = [] → (getMap s t.val).held = [] → (getMap s t.val).wait = none →
      (getMap s t.val).queue = [] → (getMap s t.val).jobs = [] → mapQuiet s t.val → (getMap s t.val).switching = none →
      Answers (.holdExit t) s (fun s' =>
        inHold s' t.val = false ∧ getObj s' t.val Obj.holdState = 0 ∧
        getObj s' t.val Obj.holdTime = (getObj s t.val Obj.holdTime + (s.time.elapsed - x.holdFrom)) % 2 ^ 64 ∧
        getObj s' t.val Obj.holdLongest = max (getObj s t.val Obj.holdLongest) (s.time.elapsed - x.holdFrom) % 2 ^ 32 ∧
        SameMemory s s'))) ∧
  (∀ (t : TileN) (v : BitVec 8) (s : State),
    (1 < v.toNat → Refuses (.powerModeWrite t false v) s stBadFormat) ∧
    (v.toNat = 0 → WritesRws (.powerModeWrite t false v) s dev Obj.powerMode 0) ∧
    (v.toNat = 1 → (belowFloor s (fun u => getObj s u Obj.fixedStep) = true →
        Refuses (.powerModeWrite t false v) s stRetry) ∧
      (belowFloor s (fun u => getObj s u Obj.fixedStep) = false → Answers (.powerModeWrite t false v) s (fun s' =>
        s'.out.status = stOk ∧ getObj s' dev Obj.powerMode = 1 ∧ SameMemory s s'))) ∧
    (28 < v.toNat → Refuses (.powerModeWrite t true v) s stBadFormat) ∧
    (v.toNat ≤ 28 → getObj s dev Obj.powerMode ≠ 1 → WritesRws (.powerModeWrite t true v) s t.val Obj.fixedStep v.toNat) ∧
    (v.toNat ≤ 28 → getObj s dev Obj.powerMode = 1 →
      (belowFloor s (fun u => if u = t.val then v.toNat else getObj s u Obj.fixedStep) = true →
        Refuses (.powerModeWrite t true v) s stRetry) ∧
      (belowFloor s (fun u => if u = t.val then v.toNat else getObj s u Obj.fixedStep) = false →
        Answers (.powerModeWrite t true v) s (fun s' => s'.out.status = stOk ∧
          getObj s' t.val Obj.fixedStep = v.toNat ∧ SameMemory s s'))))

/-- R310, R313, R314, R320, R321, R392: a raw estimate adds to its tile's energy; a slice adds the measured energy of
every rail to DeviceEnergy, and limits the next slice to fractions from 50 to 1,000 or not at all; a window
measures the device and each tile. A mark opens once and its closing tells the energy between. A fit stores
the factors it could find, within 500 to 2,000.
What it takes from the model's readings and choices: assumptions 4, 6, 11, 15, 104, 172, 173. -/
def Obligations.EnergyAndEstimates : Prop :=
  (∀ (t : TileN) (counts parts queues : List (Nat × Nat)) (s : State),
    (due s t.val 4 1000 = false → NoEffect (.rawEstimate t counts parts queues) s) ∧
    (due s t.val 4 1000 = true → Answers (.rawEstimate t counts parts queues) s (fun s' =>
      (getPTile s' t.val).parts = addParts (getPTile s t.val).parts (rawParts s t.val counts) ∧
      (getPTile s' t.val).winParts = (getPTile s t.val).winParts ∧
      s' = { s with ptile := s'.ptile, power := s'.power, last := s'.last, out := {} }))) ∧
  (∀ s : State, let e := sumOf ((List.range 66).map (railSlice s))
    (due s dev 5 10000 = false → NoEffect .powerSliceEnd s) ∧
    (due s dev 5 10000 = true → Answers .powerSliceEnd s (fun s' =>
      getObj s' dev Obj.deviceEnergy = (getObj s dev Obj.deviceEnergy + (s.power.carry + e) / 1000000) % 2 ^ 64 ∧
      s'.power.carry = (s.power.carry + e) % 1000000 ∧ s'.power.windowEnergy = s.power.windowEnergy + e ∧
      s'.power.slices = (e :: s.power.slices).take 99 ∧
      ((s'.power.peakA = 1000 ∧ s'.power.peakL = 1000 ∧ s'.power.peakM = 1000 ∧
          getObj s' dev Obj.peakSlicesLimited = getObj s dev Obj.peakSlicesLimited) ∨
        (getObj s' dev Obj.peakSlicesLimited = (getObj s dev Obj.peakSlicesLimited + 1) % 2 ^ 64 ∧ s'.power.peakNow = true ∧
          ∀ f ∈ [s'.power.peakA, s'.power.peakL, s'.power.peakM], 50 ≤ f ∧ f ≤ 1000)) ∧
      OtherObjects s s' [(dev, Obj.deviceEnergy), (dev, Obj.peakSlicesLimited)] ∧ SameMemory s s')) ∧
    (due s dev 6 1000000 = false → NoEffect .powerWindowEnd s) ∧
    (due s dev 6 1000000 = true → Answers .powerWindowEnd s (fun s' =>
      getObj s' dev Obj.devicePowerMeasured = winMw s.power.windowEnergy % 2 ^ 32 ∧ s'.power.windowEnergy = 0 ∧
      s'.power.peakLast = s.power.peakNow ∧ s'.power.peakNow = false ∧ s'.power.fitLeft = s.power.fitLeft - b2n (firmwareRuns s) ∧
      (∀ t < 64, (getPTile s' t).lastWin = (getPTile s t).winParts ∧ (getPTile s' t).winMeasured = 0 ∧
        getObj s' t Obj.tilePowerMeasured = winMw (getPTile s t).winMeasured % 2 ^ 32) ∧ SameMemory s s'))) ∧
  (∀ (m : Fin 8) (v : BitVec 8) (s : State), let x := fget ({} : Mark) s.mark m.val
    (v.toNat ≠ 0 → x.opened = true → Refuses (.energyMarkOpen m v) s stRetry) ∧
    (v.toNat ≠ 0 → x.opened = false → exec (.energyMarkOpen m v) s = .next { s with
      mark := fset {} s.mark m.val { opened := true, part := v.toNat - 1, start := s.time.timeBase, from_ := s.time.elapsed
                                     energy0 := getObj s dev Obj.deviceEnergy
                                     stale := estimatorStale s || getObj s dev Obj.railTelemetryLost ≠ 0 }
      out := { status := stOk } }) ∧
    (v.toNat = 0 → exec (.energyMarkOpen m v) s = exec (.energyMarkClose m) s) ∧
    (x.opened = false → NoEffect (.energyMarkClose m) s) ∧
    (x.opened = true → Answers (.energyMarkClose m) s (fun s' => s'.out = { status := stOk } ∧
      getObj s' dev (Obj.energyMarkResult + m.val) = markResult s x % 2 ^ 256 ∧
      (fget ({} : Mark) s'.mark m.val).opened = false ∧ OtherObjects s s' [(dev, Obj.energyMarkResult + m.val)] ∧
      s' = { s with mark := s'.mark, dict := s'.dict, out := s'.out }))) ∧
  (∀ (v : BitVec 8) (s : State),
    (1 < v.toNat → Refuses (.attributionModeWrite v) s stBadFormat ∧ Refuses (.estimatorRecalibrate v) s stBadFormat) ∧
    (v.toNat ≤ 1 → Answers (.attributionModeWrite v) s (fun s' => s'.out.status = stOk ∧
      getObj s' dev Obj.attributionMode = v.toNat ∧ s'.power = { s.power with partEnergy := [], queueEnergy := [] } ∧
      SameMemory s s')) ∧
    (v.toNat = 0 → NoEffect (.estimatorRecalibrate v) s) ∧
    (v.toNat = 1 → Answers (.estimatorRecalibrate v) s (fun s' => s'.out = { status := stOk } ∧
      getObj s' dev Obj.estimatorState = 2 ∧ OtherObjects s s' [(dev, Obj.estimatorState)] ∧
      s' = { s with
        power := { s.power with fitLeft := getObj s dev Obj.estimatorFitWindows }, dict := s'.dict, out := s'.out }))) ∧
  (∀ (factors : List (Option Nat)) (s : State),
    (getObj s dev Obj.estimatorState ≠ 2 ∨ s.power.fitLeft ≠ 0 ∨ firmwareRuns s = false → NoEffect (.estimatorFitDone factors) s) ∧
    (getObj s dev Obj.estimatorState = 2 → s.power.fitLeft = 0 → firmwareRuns s = true → Answers (.estimatorFitDone factors) s (fun s' =>
      getObj s' dev Obj.estimatorState = 1 ∧ s'.power.fitted = true ∧ (∀ t < 64, getObj s' t Obj.estimatorGain = 1000000) ∧
      (∀ g < 5, fitFactor s' g = match factors.getD g none with
        | some f => max 500 (min 2000 f)
        | none => fitFactor s g) ∧ SameMemory s s')))

/-! ## The dictionary: the field network, the window, rights, Roll Call -/

/-- R336 to R340, R430: a whole request of a Gnonge op, addressed to the device and no repetition, is executed with
the rights of its source, and one response goes out with its status and data. A frame that is not for the
device has no effect; a malformed header is answered with BAD_FORMAT; a transaction left for over 10 ms with
TIMEOUT. Nothing is accepted or sent while the controller is bus-off.
What it takes from the model's readings and choices: assumptions 4, 64, 65, 66, 67, 68, 70, 71. -/
def Obligations.FieldRequests : Prop :=
  (∀ (id : BitVec 29) (frame : List Byte) (op : Nat) (cmd : Instr) (s : State),
    (op, cmd) ∈ ([(1, .gnongeRead id frame), (2, .gnongeWrite id frame), (3, .describe id frame), (8, .unlockBegin id frame),
      (9, .unlockProve id frame), (10, .logout id frame)] : List (Nat × Instr)) →
    let i := id.toNat
    let l := byteNats frame
    let h := headerOf l
    let s0 := accepted i { s with out := {} }
    let Reply (a : Ans) : Frame :=
      ⟨frameId (idPrio i) 1 (idSrc i) (nodeAddr s) (idTag i) 0,
        padFrame (leBytes 8 (responseHeader h a.status (ansData a).length) ++ ansData a)⟩
    let arrives := l.length ≤ 64 ∧ 8 ≤ l.length ∧ idKind i = 0 ∧ idSeg i = 0 ∧ hdOp h = op ∧ s.field.busOff = false ∧
      nodeAddr s ≠ 127 ∧ idDest i = nodeAddr s ∧ nodeAddr s ≠ 0 ∧ heldTrans s (idSrc i) (idTag i) = none ∧
      (s.field.trans.filter (fun x => x.node = idSrc i)).length < 8
    let data := (l.drop 8).take (hdLength h)
    (s.field.busOff = true ∨ idKind i ≠ 0 ∨ (idSeg i = 0 ∧ (hdOp h ≠ op ∨ nodeAddr s = 127 ∨
      (idDest i ≠ nodeAddr s ∧ idDest i ≠ 0))) → NoEffect cmd s) ∧
    (arrives → badHeader h = true → Answers cmd s (fun s' => s'.out.status = stBadFormat ∧
      s'.out.frames = [Reply ⟨stBadFormat, 0, []⟩] ∧ OtherObjects s s' [(dev, Obj.framesReceived), (dev, Obj.framesSent)] ∧
      SameMemory s s')) ∧
    (∀ a s1, arrives → badHeader h = false → hdLength h ≤ 56 → hdLength h + 8 ≤ l.length →
      (∀ x ∈ s.field.answered, x.node ≠ idSrc i ∨ x.tag ≠ idTag i ∨ x.header ≠ h ∨ x.data ≠ data) →
      runRequest (idSrc i) h data s0 = (a, s1) → s1.field.busOff = false → nodeAddr s1 = nodeAddr s →
      (ansData a).length ≤ 56 → Answers cmd s (fun s' =>
        s'.out.status = a.status ∧ s'.out.data = ansData a ∧ s'.out.frames = s1.out.frames ++ [Reply a] ∧
        OtherObjects s1 s' [(dev, Obj.framesSent)] ∧ SameMemory s1 s' ∧
        s'.field.grants = s1.field.grants ∧ s'.field.nonces = s1.field.nonces))) ∧
  (∀ (node tag : BitVec 8) (s : State),
    (heldTrans s node.toNat tag.toNat = none → NoEffect (.transactionTimeout node tag) s) ∧
    (∀ x, heldTrans s node.toNat tag.toNat = some x →
      (s.time.elapsed ≤ x.lastAt + 10000000 → NoEffect (.transactionTimeout node tag) s) ∧
      (x.lastAt + 10000000 < s.time.elapsed → Answers (.transactionTimeout node tag) s (fun s' =>
        s'.out.status = stTimeout ∧ heldTrans s' node.toNat tag.toNat = none ∧
        OtherObjects s s' [(dev, Obj.framesSent)] ∧ SameMemory s s')))) ∧
  (∀ s : State,
    (s.field.busOff = true → NoEffect .busOff s) ∧ (s.field.busOff = false → NoEffect .busOffRecovery s) ∧
    (s.field.busOff = false → Answers .busOff s (fun s' => s'.field = { s.field with busOff := true, trans := [] } ∧
      getObj s' dev Obj.busOffEvents = (getObj s dev Obj.busOffEvents + 1) % 2 ^ 32 ∧
      bits (getObj s' dev Obj.canErrorCounters) 16 2 = 2 ∧
      OtherObjects s s' [(dev, Obj.busOffEvents), (dev, Obj.canErrorCounters)] ∧
      s' = { s with field := s'.field, dict := s'.dict, out := {} })) ∧
    (s.field.busOff = true → Answers .busOffRecovery s (fun s' => s'.field = { s.field with busOff := false } ∧
      getObj s' dev Obj.canErrorCounters = 0 ∧ OtherObjects s s' [(dev, Obj.canErrorCounters)] ∧
      s' = { s with field := s'.field, dict := s'.dict, out := {} })) ∧
    (Answers .nodeConflict s (fun s' => getObj s' dev Obj.nodeConflicts = (getObj s dev Obj.nodeConflicts + 1) % 2 ^ 32 ∧
      OtherObjects s s' [(dev, Obj.nodeConflicts), (dev, Obj.deviceLogDropped)] ∧
      s' = { s with dict := s'.dict, count := s'.count, out := {} })) ∧
    (let p := getObj s dev Obj.heartbeatPeriod * 1000000
     (p = 0 ∨ nodeAddr s = 127 ∨ s.time.elapsed < s.field.lastBeat + p → NoEffect .heartbeat s) ∧
     (p ≠ 0 → nodeAddr s ≠ 127 → s.field.lastBeat + p ≤ s.time.elapsed → s.field.busOff = false →
       Answers .heartbeat s (fun s' => s'.field = { s.field with lastBeat := s.time.elapsed } ∧
         s'.out.frames = [⟨frameId (getObj s dev Obj.eventPriority) 2 0 (nodeAddr s) 0 0,
           padFrame (leBytes 8 (frameHeader 16 0 0 0 0 0x11) ++ beatData s)⟩] ∧
         OtherObjects s s' [(dev, Obj.framesSent)] ∧
         s' = { s with field := s'.field, dict := s'.dict, out := s'.out }))))

/-- R330, R341: UNLOCK_BEGIN hands out a nonce, valid for 1 s, for a level from 1 to 3; the right proof of a nonce in
force gives the node its level and scope, a wrong one is counted, and neither is taken from a node that is
barred; UNLOCK_PROVE uses the nonce up. LOGOUT, and a lease that has run out, take the rights away.
What it takes from the model's readings and choices: assumptions 4, 16, 68, 69, 112. -/
def Obligations.RightsAndUnlocking : Prop :=
  (∀ (node level scope : Nat) (s : State),
    (lockedOut s node = true → unlockBegin node level scope s = (⟨stAccessDenied, 0, []⟩, s)) ∧
    (lockedOut s node = false → (level = 0 ∨ 3 < level) → unlockBegin node level scope s = (⟨stBadFormat, 0, []⟩, s)) ∧
    (lockedOut s node = false → 1 ≤ level → level ≤ 3 → ∃ n : Nonce,
      (unlockBegin node level scope s).1 = ⟨stOk, 0, leBytes 8 n.value⟩ ∧ n.node = node ∧ n.level = level ∧ n.scope = scope ∧
      n.expiry = s.time.elapsed + 1000000000 ∧
      (unlockBegin node level scope s).2.field.nonces = n :: s.field.nonces.filter (fun m => m.node ≠ node))) ∧
  (∀ (node : Nat) (proof : List Nat) (s : State),
    (lockedOut s node = true → unlockProve node proof s = (⟨stAccessDenied, 0, []⟩, s)) ∧
    (lockedOut s node = false → (unlockProve node proof s).2.field.nonces = s.field.nonces.filter (fun m => m.node ≠ node)) ∧
    (∀ n, lockedOut s node = false →
      s.field.nonces.find? (fun m => m.node = node && decide (s.time.elapsed ≤ m.expiry)) = some n →
      (proof ≠ proofOf s n → (unlockProve node proof s).1 = ⟨stAccessDenied, 0, []⟩ ∧
        (unlockProve node proof s).2.field.grants = s.field.grants ∧
        getObj (unlockProve node proof s).2 dev Obj.unlockFailures = (getObj s dev Obj.unlockFailures + 1) % 2 ^ 32) ∧
      (proof = proofOf s n → (s.field.grants.filter (fun g => decide (g.node ≠ node) && grantLive s g)).length < 16 →
        getObj s dev Obj.rightsLease ≠ 0 → (unlockProve node proof s).1 = ⟨stOk, 0, []⟩ ∧
        nodeWho (unlockProve node proof s).2 node =
          { level := n.level, scope := if 2 ≤ n.level then 0 else n.scope, src := node }))) ∧
  (∀ (node : BitVec 8) (s : State),
    (nodeWho (dropGrant node.toNat s) node.toNat).level = 0 ∧
    ((∀ g ∈ s.field.grants, g.node ≠ node.toNat ∨ grantLive s g = true) → NoEffect (.rightsLeaseExpiry node) s) ∧
    ((∃ g ∈ s.field.grants, g.node = node.toNat ∧ grantLive s g = false) → Answers (.rightsLeaseExpiry node) s (fun s' =>
      s'.field = { s.field with grants := s.field.grants.filter (fun g => g.node ≠ node.toNat) } ∧
      s' = { s with field := s'.field, out := {} })))

/-- R325, R327, R330, R331, R335, R342, R349: an access to no unit or object answers DECODE_ERROR; a reserved index takes
a write and keeps nothing; an object whose server is away answers RETRY; too low rights ACCESS_DENIED, a wrong
length BAD_FORMAT; an object without an action is stored when its value is in range. The window makes the same
access with its own rights and shows status and data.
What it takes from the model's readings and choices: assumptions 28, 29, 31, 32, 33, 35, 38. -/
def Obligations.DictionaryAccess : Prop :=
  (∀ (unit : BitVec 8) (index : BitVec 16) (sub rights scope : BitVec 8) (data : List Byte) (s : State),
    let u := unit.toNat
    let l := byteNats data
    let w : Who := { level := rights.toNat % 4, scope := scope.toNat }
    let cmd := Instr.registerWrite unit index sub rights scope data
    u ≠ 0x7F →
    (lookObj s u index.toNat sub.toNat = .missing → Refuses cmd s stDecodeError) ∧
    (lookObj s u index.toNat sub.toNat = .reserved → NoEffect cmd s) ∧
    (∀ d, lookObj s u index.toNat sub.toNat = .obj d →
      let v := leNat l
      let k := d.index * 256 + sub.toNat
      let barred := !d.acc.writable || decide (w.level < d.wrights) || scopeBars s (scopeOf w) u d sub.toNat v
      (∀ h, awayHint s u d = some h →
        exec cmd s = .next { s with out := { status := stRetry, hint := h, data := leBytes 4 h } }) ∧
      (awayHint s u d = none → barred = true → Refuses cmd s stAccessDenied) ∧
      (awayHint s u d = none → barred = false → l.length ≠ d.len → Refuses cmd s stBadFormat) ∧
      (awayHint s u d = none → barred = false → l.length = d.len → writeAction 0 (scopeOf w) u d.index sub.toNat v l { s with out := {} } = none →
        (inRange k (plainStored (k / 256) v) = false ∨ plainOk { s with out := {} } (k / 256) (plainStored (k / 256) v) = false →
          Refuses cmd s stBadFormat) ∧
        (inRange k (plainStored (k / 256) v) = true → plainOk { s with out := {} } (k / 256) (plainStored (k / 256) v) = true →
          (u, k) ≠ (dev, Obj.deviceLogDropped) →
          Answers cmd s (fun s' => s'.out = { status := stOk } ∧
            getObj s' u k = plainStored (k / 256) v % 2 ^ objBits k ∧
            OtherObjects s s' [(u, k), (dev, Obj.deviceLogDropped)] ∧ SameMemory s s'))))) ∧
  (∀ (t : TileN) (v : BitVec 64) (data : List Byte) (rights : BitVec 2) (n : Nat) (cmd : Instr) (s : State),
    (n, cmd) ∈ ([(1, .windowRead t v rights), (2, .windowWrite t v data rights), (3, .windowDescribe t v rights)] :
      List (Nat × Instr)) →
    let q := v.toNat
    let sd : State := if n = 2 then windowPut t.val (byteNats data) { s with out := {} } else { s with out := {} }
    let s0 : State := { sd with window := fupd {} sd.window t.val (fun x => { x with request := q, status := 0, rights := rights.toNat }) }
    (opOf n q = false → NoEffect cmd s) ∧
    (∀ a s1, opOf n q = true →
      windowDo (windowWho s0 t.val rights.toNat) q (windowFill (getWindow s0 t.val).data []) s0 = (a, s1) →
      (ansData a).length ≤ 1024 → Answers cmd s (fun s' => s'.out.status = a.status ∧ s'.out.data = ansData a ∧
        (getWindow s' t.val).status = fld 16 11 (ansData a).length + fld 8 8 a.status + 1 ∧
        (getWindow s' t.val).data.take (ansData a).length = ansData a ∧
        getObj s' t.val Obj.windowTransactions = (getObj s1 t.val Obj.windowTransactions + 1) % 2 ^ 64 ∧
        OtherObjects s1 s' [(t.val, Obj.windowTransactions)] ∧ SameMemory s1 s'))) ∧
  (∀ (w : Who) (u i b : Nat) (s : State), u ≠ 0x7F →
    (lookObj s u i b = .missing → (readAccess s w u i b).status = stDecodeError ∧ (describeAccess s u i b).status = stDecodeError) ∧
    (lookObj s u i b = .reserved → readAccess s w u i b = ⟨stOk, 0, [0]⟩) ∧
    (∀ d, lookObj s u i b = .obj d → awayHint s u d = none →
      (d.acc.readable = false → (readAccess s w u i b).status = stAccessDenied) ∧
      (∀ v, d.acc.readable = true → alienRead s (scopeOf w) u i b = false → readObj s u (i * 256 + b) = some v →
        readAccess s w u i b = ⟨stOk, 0, leBytes d.len v⟩)))

/-- R343 to R345: a Roll Call frame counts when it comes from the coordinator to node 0 in its form. START in fresh
mode takes the address away; in fill mode it, and END, leave it. An unaddressed device whose neighbour stands
answers an OFFER with a claim; CONFIRM for its serial number gives it the address; a claim lapses.
What it takes from the model's readings and choices: assumptions 4, 6, 8, 12, 73, 74. -/
def Obligations.RollCall : Prop :=
  ∀ (id : BitVec 29) (frame : List Byte) (rollIn : Bool) (s : State),
    let i := id.toNat
    let l := byteNats frame
    let h := headerOf l
    let d := (l.drop 8).take (hdLength h)
    let a := d.getD 0 0
    let c := d.getD 8 0
    let roll (op : Nat) : Bool := decide (s.field.busOff = false ∧ l.length ≤ 64 ∧ hdOp h = op ∧ idSeg i = 0 ∧ idKind i = 3 ∧
      idSrc i = getObj s dev Obj.coordinatorNode ∧ idDest i = 0 ∧ plainHeader h = true ∧ hdLength h = rollLength op ∧
      8 + rollLength op ≤ l.length)
    let Counts (s' : State) (K : List (Nat × Nat)) (f : FieldS) := s'.field = f ∧
      getObj s' dev Obj.framesReceived = (getObj s dev Obj.framesReceived + 1) % 2 ^ 64 ∧
      OtherObjects s s' ((dev, Obj.framesReceived) :: K) ∧
      s' = { s with field := f, dict := s'.dict, count := { s.count with events := s'.count.events }, out := s'.out }
    let Sent (s' : State) (src op : Nat) (b : List Nat) := s'.out.frames =
      [⟨frameId (idPrio i) 3 (getObj s dev Obj.coordinatorNode) src (idTag i) 0,
        padFrame (leBytes 8 (frameHeader b.length 0 0 0 0 op) ++ b)⟩]
    let own := leNat (d.take 8) = Config.deviceSerial % 2 ^ 64
    let sent := [(dev, Obj.framesSent)]
    (s.field.busOff = true → ∀ cmd ∈ ([.startFresh id frame, .startFill id frame, .confirm id frame,
      .rollCallEnd id frame] : List Instr), NoEffect cmd s) ∧
    (roll 0x20 = true →
      (d = [0] → Answers (.startFresh id frame) s (fun s' =>
        Counts s' [(dev, Obj.nodeAddress)] { s.field with rollOut := false, claim := none, grants := [], nonces := [] } ∧
        nodeAddr s' = 127 ∧ s'.out = {})) ∧
      Answers (.startFill id frame) s (fun s' => Counts s' [] s.field ∧ s'.out = {})) ∧
    (roll 0x25 = true → Answers (.rollCallEnd id frame) s (fun s' => Counts s' [] s.field ∧ s'.out = {})) ∧
    (roll 0x21 = true → 1 ≤ a → a ≤ 126 →
      (nodeAddr s = 127 → rollIn = true → s.field.rollOut = false → claimHeld s = none → a ≠ getObj s dev Obj.coordinatorNode →
        Answers (.offer id frame rollIn) s (fun s' =>
          Counts s' sent { s.field with rollIn := true, claim := some (a, s.time.elapsed + 10000000) } ∧
          Sent s' 127 0x22 (leBytes 8 Config.deviceSerial ++ [a]))) ∧
      (nodeAddr s = 127 → (rollIn = false ∨ s.field.rollOut = true ∨ claimHeld s ≠ none) →
        Answers (.offer id frame rollIn) s (fun s' => Counts s' [] { s.field with rollIn := rollIn } ∧ s'.out = {})) ∧
      (nodeAddr s = 127 → rollIn = true → s.field.rollOut = false → claimHeld s = none → a = getObj s dev Obj.coordinatorNode →
        Answers (.offer id frame rollIn) s (fun s' =>
          Counts s' sent { s.field with rollIn := true } ∧ Sent s' 127 0x24 [0])) ∧
      (nodeAddr s ≠ 127 → a = nodeAddr s → Answers (.offer id frame rollIn) s (fun s' =>
        Counts s' sent { s.field with rollIn := rollIn } ∧ Sent s' a 0x24 [0])) ∧
      (nodeAddr s ≠ 127 → a ≠ nodeAddr s → Answers (.offer id frame rollIn) s (fun s' =>
        Counts s' [] { s.field with rollIn := rollIn } ∧ s'.out = {}))) ∧
    (roll 0x23 = true → 1 ≤ c → c ≤ 126 →
      (own → addressTaken s c = false → Answers (.confirm id frame) s (fun s' =>
        Counts s' ([(dev, Obj.nodeAddress), (dev, Obj.rollCallCount)] ++ sent) { s.field with rollOut := true, claim := none } ∧
        nodeAddr s' = c ∧ getObj s' dev Obj.rollCallCount = (getObj s dev Obj.rollCallCount + 1) % 2 ^ 32 ∧
        Sent s' c 0x24 [c])) ∧
      (own → addressTaken s c = true → Answers (.confirm id frame) s (fun s' =>
        Counts s' sent { s.field with claim := none } ∧ Sent s' (nodeAddr s) 0x24 [0])) ∧
      (¬ own → nodeAddr s ≠ c → Answers (.confirm id frame) s (fun s' => Counts s' [] s.field ∧ s'.out = {})) ∧
      (¬ own → nodeAddr s = c → Answers (.confirm id frame) s (fun s' => Counts s' sent s.field ∧ Sent s' c 0x24 [0]))) ∧
    (s.field.claim = none ∨ claimHeld s ≠ none → NoEffect .claimLapse s) ∧
    (s.field.claim ≠ none → claimHeld s = none →
      exec .claimLapse s = .next { s with field := { s.field with claim := none }, out := {} })

/-- R105, R242, R254, R415: a query that another tile sent is answered here: one more reference of a block in use, a
directory hit, a tile that is away with reason 6; a release drops a reference. The answer reaches the FARMAP
that waits for it.
What it takes from the model's readings and choices: assumptions 4, 24, 75, 77, 78. -/
def Obligations.BookkeepingBetweenTiles : Prop :=
  ∀ (t : TileN) (s : State),
    (s.queries.find? (fun q => q.dst = t.val) = none → NoEffect (.bookkeepingQuery t) s) ∧
    (∀ q, s.queries.find? (fun q => q.dst = t.val) = some q →
      let Took (s' : State) (P : Book → Prop) := s'.queries = removeFirst (fun x => x.dst = t.val) s.queries ∧
        ∃ b, s'.answers = s.answers ++ [b] ∧ b.src = t.val ∧ b.dst = q.src ∧ b.kind = q.kind ∧ b.arg = q.arg ∧ P b
      (q.kind = 4 → Answers (.bookkeepingQuery t) s (fun s' =>
        Took s' (fun b => b.ok = !tileGone s t.val) ∧ s'.pool = s.pool ∧ SameMemory s s')) ∧
      (tileGone s t.val = true → (q.kind = 1 ∨ q.kind = 3) → Answers (.bookkeepingQuery t) s (fun s' =>
        Took s' (fun b => b.ok = false ∧ b.reason = 6) ∧ s'.pool = s.pool ∧ SameMemory s s')) ∧
      (tileGone s t.val = false → mapHalted s t.val = false → s.sramErr = [] → (getMap s t.val).held = [] →
        (getMap s t.val).wait = none → (getMap s t.val).queue = [] → (getMap s t.val).jobs = [] → mapQuiet s t.val →
        (q.kind = 1 → q.arg < poolSize s t.val → (getPool s t.val q.arg).pstate = 1 → (getPool s t.val q.arg).refs < 65535 →
          Answers (.bookkeepingQuery t) s (fun s' => Took s' (fun b => b.ok = true ∧ b.block = q.arg) ∧
            getPool s' t.val q.arg = { getPool s t.val q.arg with refs := (getPool s t.val q.arg).refs + 1 } ∧
            SameMemory s s')) ∧
        (q.kind = 1 → q.arg < poolSize s t.val → (getPool s t.val q.arg).pstate = 2 →
          Answers (.bookkeepingQuery t) s (fun s' => Took s' (fun b => b.ok = false ∧ b.reason = 8) ∧ s'.pool = s.pool)) ∧
        (∀ k, q.kind = 3 → findKey s t.val q.arg q.part = some k → (getPool s t.val (getWay s t.val k).block).refs < 65535 →
          Answers (.bookkeepingQuery t) s (fun s' => Took s' (fun b => b.ok = true ∧ b.block = (getWay s t.val k).block) ∧
            (getPool s' t.val (getWay s t.val k).block).refs = (getPool s t.val (getWay s t.val k).block).refs + 1)) ∧
        (q.kind = 2 → (getPool s t.val q.arg).pstate = 1 → Answers (.bookkeepingQuery t) s (fun s' => s'.queries = removeFirst (fun x => x.dst = t.val) s.queries ∧
            s'.answers = s.answers ∧ (getPool s' t.val q.arg).refs = (getPool s t.val q.arg).refs - 1 ∧ SameMemory s s')))) ∧
    (s.answers.find? (fun b => b.dst = t.val) = none → NoEffect (.bookkeepingAnswer t) s) ∧
    (∀ b w, s.answers.find? (fun b => b.dst = t.val) = some b → b.kind = 1 → b.ok = true → inHold s t.val = false →
      (getMap s t.val).wait = some w → (getMap s t.val).queue = [] → mcOp w.raw = 6 → w.asked = true → w.done = 0 →
      mcOk s t.val w.raw = true → (getEntry s t.val (mcEntry w.raw)).state = 0 → s.sramErr = [] →
      Answers (.bookkeepingAnswer t) s (fun s' => s'.answers = removeFirst (fun x => x.dst = t.val) s.answers ∧
        (getMap s' t.val).wait = none ∧
        getEntry s' t.val (mcEntry w.raw) = { getEntry s t.val (mcEntry w.raw) with
          state := 2, write := mcWrite w.raw, busy := false, accessed := false, dirty := false, tile := mcTile w.raw
          part := mcPart w.raw, block := b.block, wasPinned := false, wasFar := false } ∧
        getObj s' t.val Obj.mapResult = fld 48 16 1 + fld 32 16 b.block ∧ SameMemory s s'))

/-! ## Mailboxes, doorbells, firmware and the Copybook -/

/-- R354, R356, R358, R360, R361, R362: a post with fewer than four open messages enters the receiver's queue and rings
it, or comes back from a receiver in reset; with four it answers RETRY. The receiver latches the oldest message and
its take acknowledges it, unless the sender was reset since; the sender pops acknowledges in order. A message left
too long comes back with TIMEOUT; a clear withdraws both directions; the host's reset resets its sides.
R357: a 1 written to DoorbellStatus clears its bit, but bits 0 and 1 stand while a message or an acknowledge is
unread; DoorbellSet sets software bits at the other sides.
What it takes from the model's readings and choices: assumptions 4, 8, 99, 100, 101, 102. -/
def Obligations.MailboxesAndDoorbells : Prop :=
  ((∀ (t : TileN) (p : PairN) (host : Bool) (msg : BitVec 512) (s : State),
     let d := if host then 0 else 1
     let m := getMail s t.val p.val d
     let sent (s' : State) := getObj s' t.val (Obj.mailboxPosted + p.val) = (getObj s t.val (Obj.mailboxPosted + p.val) + 1) % 2 ^ 64
     let Frame (s' : State) := OtherMail s s' t.val p.val d ∧ s' = { s with
       mail := s'.mail, door := s'.door, dict := s'.dict, count := { s.count with events := s'.count.events }, out := { status := stOk } }
     (4 ≤ outstandingOf m → Answers (.sendPost t p host msg) s (fun s' =>
       getMail s' t.val p.val d = { m with staging := msg.toNat, lastStatus := stRetry } ∧ OtherMail s s' t.val p.val d ∧
       s' = { s with mail := s'.mail, out := { status := stRetry } })) ∧
     (outstandingOf m < 4 → receiverInReset s t.val (receiverSide p.val d) = false → Answers (.sendPost t p host msg) s (fun s' =>
       getMail s' t.val p.val d = { m with
         staging := msg.toNat, lastStatus := stOk, nextSeq := (m.nextSeq + 1) % 65536
         slots := m.slots ++ [⟨m.nextSeq, senderId s t.val (senderSide p.val d), msg.toNat, s.time.elapsed⟩] } ∧
       rung s' t.val (receiverSide p.val d) 0 = true ∧ sent s' ∧
       OtherObjects s s' [(t.val, Obj.mailboxPosted + p.val)] ∧ Frame s')) ∧
     (outstandingOf m < 4 → receiverInReset s t.val (receiverSide p.val d) = true → Answers (.sendPost t p host msg) s (fun s' =>
       getMail s' t.val p.val d = { m with
         staging := msg.toNat, lastStatus := stOk, nextSeq := (m.nextSeq + 1) % 65536
         acks := m.acks ++ [⟨m.nextSeq, 0, stReceiverReset⟩] } ∧
       rung s' t.val (senderSide p.val d) 1 = true ∧ sent s' ∧
       getObj s' t.val (Obj.mailboxWithdrawn + p.val) = (getObj s t.val (Obj.mailboxWithdrawn + p.val) + 1) % 2 ^ 32 ∧
       OtherObjects s s' [(t.val, Obj.mailboxPosted + p.val), (t.val, Obj.mailboxWithdrawn + p.val)] ∧ Frame s'))) ∧
   (∀ (t : TileN) (p : PairN) (host : Bool) (v : BitVec 64) (s : State),
     let d := if host then 1 else 0
     let m := getMail s t.val p.val d
     let Reads (n : Nat) (m' : MDir) (s' : State) := s'.out.status = stOk ∧ s'.out.data = leBytes 8 n ∧
       getMail s' t.val p.val d = m' ∧ OtherMail s s' t.val p.val d ∧ s' = { s with mail := s'.mail, out := s'.out }
     (∀ x, m.latched = some x → Answers (.recvLatch t p host) s (fun s' => Reads (latchValue x) m s')) ∧
     (m.latched = none → m.slots = [] → Answers (.recvLatch t p host) s (fun s' => Reads 0 { m with recvLatch := 0 } s')) ∧
     (∀ x r, m.latched = none → m.slots = x :: r → Answers (.recvLatch t p host) s (fun s' => Reads (latchValue x)
       { m with slots := r, latched := some x, recvSlot := x.data, recvLatch := latchValue x } s')) ∧
     (m.latched = none → NoEffect (.recvTake t p host v) s) ∧
     (∀ x, m.latched = some x → Answers (.recvTake t p host v) s (fun s' =>
       let m' := getMail s' t.val p.val d
       let stale := decide (x.sender % 64 ≠ epochOf s t.val (senderSide p.val d))
       m'.latched = none ∧ m'.recvLatch = 0 ∧ m'.slots = m.slots ∧ m'.nextSeq = m.nextSeq ∧ OtherMail s s' t.val p.val d ∧
       m'.acks = m.acks ++ (if stale then [] else [⟨x.seq, bits v.toNat 8 24, bits v.toNat 0 8⟩]) ∧
       (stale = false → rung s' t.val (senderSide p.val d) 1 = true ∧ s'.dict = s.dict) ∧
       (stale = true → getObj s' t.val (Obj.staleAcks + p.val) = (getObj s t.val (Obj.staleAcks + p.val) + 1) % 2 ^ 32 ∧
         OtherObjects s s' [(t.val, Obj.staleAcks + p.val)] ∧ s'.door = s.door) ∧ SameMemory s s'))) ∧
   (∀ (t : TileN) (p : PairN) (host : Bool) (s : State),
     let d := if host then 0 else 1
     let m := getMail s t.val p.val d
     let Reads (n : Nat) (m' : MDir) (s' : State) := s'.out.status = stOk ∧ s'.out.data = leBytes 8 n ∧
       getMail s' t.val p.val d = m' ∧ OtherMail s s' t.val p.val d ∧ s' = { s with mail := s'.mail, out := s'.out }
     (m.acks = [] → Answers (.ackRead t p host) s (fun s' => Reads 0 { m with ackRead := 0 } s')) ∧
     (∀ a r, m.acks = a :: r → Answers (.ackRead t p host) s (fun s' =>
       Reads (ackValue a) { m with acks := r, ackRead := ackValue a } s')) ∧
     (m.slots = [] → NoEffect (.mailboxAckTimeout t p host) s) ∧
     (∀ x r, m.slots = x :: r →
       let limit := x.post + getObj s t.val Obj.mailboxAckTimeout * 1000000
       (s.time.elapsed < limit → NoEffect (.mailboxAckTimeout t p host) s) ∧
       (limit ≤ s.time.elapsed → Answers (.mailboxAckTimeout t p host) s (fun s' =>
         getMail s' t.val p.val d = { m with slots := r, acks := m.acks ++ [⟨x.seq, 0, stTimeout⟩] } ∧
         rung s' t.val (senderSide p.val d) 1 = true ∧ OtherMail s s' t.val p.val d ∧
         getObj s' t.val (Obj.mailboxTimeouts + p.val) = (getObj s t.val (Obj.mailboxTimeouts + p.val) + 1) % 2 ^ 32 ∧
         OtherObjects s s' [(t.val, Obj.mailboxTimeouts + p.val)] ∧ SameMemory s s')))) ∧
   (∀ (t : TileN) (p : PairN) (v : BitVec 8) (s : State),
     let m (d : Nat) := getMail s t.val p.val d
     (1 < v.toNat → Refuses (.mailboxClear t p v) s stBadFormat) ∧ (v.toNat = 0 → NoEffect (.mailboxClear t p v) s) ∧
     (v.toNat = 1 → Answers (.mailboxClear t p v) s (fun s' => s'.out.status = stOk ∧
       (∀ d < 2, getMail s' t.val p.val d = { m d with slots := [], acks := handedBack (m d) stResetWithdrawn } ∧
         rung s' t.val (senderSide p.val d) 1 = true) ∧
       getObj s' t.val (Obj.mailboxWithdrawn + p.val) =
         (getObj s t.val (Obj.mailboxWithdrawn + p.val) + (m 0).slots.length + (m 1).slots.length) % 2 ^ 32 ∧
       OtherObjects s s' [(t.val, Obj.mailboxWithdrawn + p.val)] ∧ SameMemory s s')) ∧
     (Answers (.configPortReset t) s (fun s' => (∀ q < 8, SideWasReset s s' t.val q 0) ∧
       getObj s' t.val Obj.hostEpoch = (getObj s t.val Obj.hostEpoch + 1) % 64 ∧
       (getDoor s' t.val 0).mask = 0xFFF ∧ SameMemory s s' ∧ s'.sched = s.sched ∧ s'.engine = s.engine)))) ∧
  ((∀ (t : TileN) (side : Fin 3) (v : BitVec 32) (i : Nat) (s : State), i < 32 →
     Answers (.doorbellClear t side v) s (fun s' =>
       rung s' t.val side.val i = ((rung s t.val side.val i && !bit v.toNat i) || (decide (i = 0) && unreadFor s t.val side.val)
         || (decide (i = 1) && unackedFor s t.val side.val)) ∧
       (∀ k, k ≠ doorTile t.val side.val * 4 + side.val → fget ({} : Door) s'.door k = fget {} s.door k) ∧
       s' = { s with door := s'.door, count := { s.count with events := s'.count.events }, out := {} })) ∧
   (∀ (t : TileN) (side : Fin 3) (v : BitVec 64) (i : Nat) (s : State), i < 32 →
     let hits (u r : Nat) : Bool := decide (16 ≤ i) && bit v.toNat i &&
       (if side.val = 0 then decide (r = 1 ∧ u = t.val) || decide (r = 2)
        else if side.val = 1 then decide (r = 0 ∧ u = t.val)
        else decide (r = 0 ∧ u = bits v.toNat 0 6))
     Answers (.doorbellSet t side v) s (fun s' =>
       (∀ u r, r < 3 → rung s' u r i = (rung s u r i || hits u r)) ∧
       s' = { s with door := s'.door, count := { s.count with events := s'.count.events }, out := {} })))

/-- R352, R364 to R367: a segment that meets its header is held, another is rejected; pieces of a segment come in order;
a new expected image empties the staging SRAM. An activation is taken at its time: a whole image of the right CRC
runs, with every processor restarted, and goes to flash; another leaves the old one. An unhandled trap restarts its
processor.
What it takes from the model's readings and choices: assumptions 4, 41, 42, 43, 44, 45. -/
def Obligations.FirmwareDelivery : Prop :=
  (∀ (t : TileN) (bytes : List Byte) (s : State),
    let b := segBytes (byteNats bytes)
    let h := leNat (b.take 64)
    let good := shImageId h = getObj s dev Obj.firmwareExpectImage ∧ segHeaderOk h = true ∧
      crc32 (b.take 60 ++ b.drop 64) = shSegCrc h
    let seen (s' : State) := fget ({} : SegPort) s'.seg t.val = { buffer := b, status := s'.out.status }
    (mgmtDown s = true → Answers (.segmentPost t bytes) s (fun s' => s'.out = { status := stRetry, hint := 100000000 } ∧
      seen s' ∧ s' = { s with seg := s'.seg, out := s'.out })) ∧
    (mgmtDown s = false → ¬ good → Answers (.segmentPost t bytes) s (fun s' => s'.out.status = stBadImage ∧ seen s' ∧
      getObj s' dev Obj.segmentRejects = (getObj s dev Obj.segmentRejects + 1) % 2 ^ 32 ∧
      OtherObjects s s' [(dev, Obj.segmentRejects)] ∧ s' = { s with seg := s'.seg, dict := s'.dict, out := s'.out })) ∧
    (mgmtDown s = false → good → segHeld s (shSeq h) = true → Answers (.segmentPost t bytes) s (fun s' =>
      s'.out.status = stOk ∧ seen s' ∧ s' = { s with seg := s'.seg, out := s'.out })) ∧
    (mgmtDown s = false → good → segHeld s (shSeq h) = false → Answers (.segmentPost t bytes) s (fun s' =>
      s'.out.status = stOk ∧ seen s' ∧ segHeld s' (shSeq h) = true ∧
      fget 0 s'.firm.staging (shSeq h) = leNat (b.drop 64) ∧
      (∀ k, k ≠ shSeq h → fget 0 s'.firm.staging k = fget 0 s.firm.staging k ∧ (k < 256 → segHeld s' k = segHeld s k)) ∧
      getObj s' dev Obj.firmwareSegmentsHeld = (getObj s dev Obj.firmwareSegmentsHeld + 1) % 2 ^ 16 ∧
      OtherObjects s s' [(dev, Obj.firmwareBitmap), (dev, Obj.firmwareSegmentsHeld)] ∧
      s' = { s with seg := s'.seg, firm := s'.firm, dict := s'.dict, out := s'.out }))) ∧
  (∀ (bytes : List Byte) (s : State),
    let l := byteNats bytes
    let w := leNat (l.take 8)
    let n := bits w 32 16
    let wrong := l.length ≠ 528 ∨ bits w 48 16 ≠ 0 ∨ 7 < n ∨
      (n ≠ 0 ∧ (s.firm.nextPiece ≠ n ∨ s.firm.pieceId ≠ bits w 0 32 ∨ s.firm.pieceSrc ≠ 0))
    (wrong → Refuses (.firmwareSegmentPiece bytes) s stBadFormat) ∧
    (¬ wrong → n < 7 → Answers (.firmwareSegmentPiece bytes) s (fun s' => s'.out.status = stOk ∧
      s'.firm = { s.firm with
        nextPiece := n + 1, pieceId := bits w 0 32, pieceSrc := 0
        pieces := (if n = 0 then [] else s.firm.pieces) ++ l.drop 8 } ∧ s' = { s with firm := s'.firm, out := s'.out })) ∧
    (¬ wrong → n = 7 → exec (.firmwareSegmentPiece bytes) s = .next
      (checkSegment (s.firm.pieces ++ l.drop 8) { s with out := {}, firm := { s.firm with nextPiece := 0, pieces := [] } }))) ∧
  (∀ (v : BitVec 32) (s : State),
    (s.firm.scheduled ≠ none → Refuses (.firmwareExpectImageWrite v) s stRetry) ∧
    (s.firm.scheduled = none → v.toNat = getObj s dev Obj.firmwareExpectImage → NoEffect (.firmwareExpectImageWrite v) s) ∧
    (s.firm.scheduled = none → v.toNat ≠ getObj s dev Obj.firmwareExpectImage → Answers (.firmwareExpectImageWrite v) s (fun s' =>
      getObj s' dev Obj.firmwareExpectImage = v.toNat ∧ getObj s' dev Obj.firmwareBitmap = 0 ∧
      getObj s' dev Obj.firmwareSegmentsHeld = 0 ∧
      OtherObjects s s' [(dev, Obj.firmwareExpectImage), (dev, Obj.firmwareBitmap), (dev, Obj.firmwareSegmentsHeld)] ∧
      s' = { s with firm := { s.firm with staging := [], header := none }, dict := s'.dict, out := {} }))) ∧
  (∀ (v : BitVec 128) (s : State),
    (s.firm.scheduled ≠ none → Refuses (.firmwareActivate v) s stRetry) ∧
    (s.firm.scheduled = none → Answers (.firmwareActivate v) s (fun s' => getObj s' dev Obj.firmwareState = 3 ∧
      OtherObjects s s' [(dev, Obj.firmwareState)] ∧ s' = { s with
        dict := s'.dict, out := {}
        firm := { s.firm with scheduled := some (bits v.toNat 64 64, bits v.toNat 32 32, bits v.toNat 0 32) } }))) ∧
  (∀ s : State,
    (s.firm.scheduled = none → NoEffect .firmwareActivation s) ∧
    (∀ at_ crc id, s.firm.scheduled = some (at_, crc, id) →
      let held := s.time.timeBase < at_ ∨ mgmtDown s = true ∨ (List.range 64).any (inHold s) = true
      let good := ∃ h, s.firm.header = some h ∧ shImageId h = id ∧ stagedOk s h crc = true
      (held → NoEffect .firmwareActivation s) ∧
      (¬ held → ¬ good → Answers .firmwareActivation s (fun s' =>
        getObj s' dev Obj.firmwareActivateResult = s.time.timeBase % 2 ^ 56 * 256 + stBadImage ∧
        s'.firm = { s.firm with scheduled := none } ∧ getObj s' dev Obj.firmwareState = restState s ∧
        s'.mail = s.mail ∧ SameMemory s s')) ∧
      (∀ h, ¬ held → s.firm.header = some h → shImageId h = id → stagedOk s h crc = true →
        Answers .firmwareActivation s (fun s' => ManagementWasReset s s' ∧
          getObj s' dev Obj.firmwareActivateResult = s.time.timeBase % 2 ^ 56 * 256 + stOk ∧
          s'.firm.runningHeader = some h ∧ s'.firm.activated = true ∧ getObj s' dev Obj.firmwareState = 1 ∧
          getObj s' dev Obj.firmwareVersion = shVersion h ∧
          (∀ t < 64, getObj s' t Obj.sequencerEpoch = (getObj s t Obj.sequencerEpoch + 1) % 64 ∧
            ∀ p < 6, SideWasReset s s' t p 1) ∧
          getObj s' dev Obj.flashImageState = (if getObj s dev Obj.copybookState = 3 then 2 else 1) ∧
          (getObj s dev Obj.copybookState ≠ 3 → s'.firm.flashWriting = true ∧ s'.firm.flashHeader = none ∧
            s'.firm.flashImage = s.firm.staging) ∧ SameMemory s s'))) ∧
    (s.firm.flashWriting = false → NoEffect .flashImageWritten s) ∧
    (s.firm.flashWriting = true → Answers .flashImageWritten s (fun s' => getObj s' dev Obj.flashImageState = 0 ∧
      s'.firm = { s.firm with flashWriting := false, flashHeader := s.firm.runningHeader.map flashForm } ∧
      OtherObjects s s' [(dev, Obj.flashImageState)] ∧ s' = { s with firm := s'.firm, dict := s'.dict, out := {} }))) ∧
  (∀ (proc : Fin 65) (pc cause : BitVec 32) (s : State),
    let away := if proc.val = 64 then mgmtDown s else inReset s proc.val
    let Counted (s' : State) (k : Nat) := getObj s' proc.val k = (getObj s proc.val k + 1) % 2 ^ 32 ∧
      getObj s' dev (Obj.budgetEvents + 6) = (getObj s dev (Obj.budgetEvents + 6) + 1) % 2 ^ objBits (Obj.budgetEvents + 6)
    (away = true ∨ s.firm.runningHeader = none → NoEffect (.processorTrap proc pc cause) s) ∧
    (away = false → s.firm.runningHeader ≠ none → proc.val = 64 → Answers (.processorTrap proc pc cause) s (fun s' =>
      Counted s' Obj.managementTraps ∧ ManagementWasReset s s' ∧ ManagementRestarted s s' ∧ SameMemory s s')) ∧
    (away = false → s.firm.runningHeader ≠ none → proc.val < 64 → Answers (.processorTrap proc pc cause) s (fun s' =>
      Counted s' Obj.sequencerTraps ∧
      getObj s' proc.val Obj.sequencerEpoch = (getObj s proc.val Obj.sequencerEpoch + 1) % 64 ∧
      (∀ p < 6, SideWasReset s s' proc.val p 1) ∧ rung s' proc.val 0 8 = true ∧ SameMemory s s' ∧ s'.firm = s.firm)))

/-- R370 to R373: a programmed record joins the active area with the next sequence number; a failed one leaves a torn
slot and is tried again, and sixteen failures in a row make the Copybook read-only. At 98,304 records, or when asked,
a compaction starts in the other area; complete, that area, with the newest records alone, is the active one. That a Copybook that is not ready turns a compaction away is the
model's choice (assumption 46).
What it takes from the model's readings and choices: assumptions 4, 30, 40, 46. -/
def Obligations.CopybookAppendsAndCompacts : Prop :=
  (∀ s : State, (s.copy.queue = [] ∨ getObj s dev Obj.copybookState ≠ 0 ∨ mgmtDown s = true →
      NoEffect (.copybookProgramDone true) s ∧ NoEffect (.copybookProgramDone false) s) ∧
    (∀ q rest, s.copy.queue = q :: rest → getObj s dev Obj.copybookState = 0 → mgmtDown s = false →
      let full := decide (98304 ≤ (getObj s dev Obj.copybookFill + 1) % 2 ^ 32)
      let Grows (s' : State) (good : Bool) :=
        (activeArea s').records = (activeArea s).records ++ [{ q with seq := s.copy.nextSeq, good := good }] ∧
        s'.copy.activeB = s.copy.activeB ∧ getObj s' dev Obj.copybookFill = (getObj s dev Obj.copybookFill + 1) % 2 ^ 32 ∧
        SameMemory s s'
      Answers (.copybookProgramDone true) s (fun s' => Grows s' true ∧ s'.copy.queue = rest ∧ s'.copy.failures = 0 ∧
        getObj s' dev Obj.copybookState = b2n full ∧ s'.copy.compacting = (full || s.copy.compacting) ∧
        (q.kind = 2 ∨ q.kind = 3 → getObj s' (bits q.key 10 6) Obj.repairRecordsPending =
          getObj s (bits q.key 10 6) Obj.repairRecordsPending - 1)) ∧
      Answers (.copybookProgramDone false) s (fun s' => Grows s' false ∧ s'.copy.queue = s.copy.queue ∧
        s'.copy.failures = s.copy.failures + 1 ∧
        getObj s' dev Obj.flashErrors = (getObj s dev Obj.flashErrors + 1) % 2 ^ 32 ∧
        getObj s' dev Obj.copybookState = if 15 ≤ s.copy.failures then 2 else b2n full))) ∧
  (∀ (v : BitVec 8) (s : State),
    (1 < v.toNat → Refuses (.copybookCompact v) s stBadFormat) ∧ (v.toNat = 0 → NoEffect (.copybookCompact v) s) ∧
    (v.toNat = 1 → getObj s dev Obj.copybookState ≠ 0 → Refuses (.copybookCompact v) s stRetry) ∧
    (v.toNat = 1 → getObj s dev Obj.copybookState = 0 → Answers (.copybookCompact v) s (fun s' =>
      let g := (getObj s dev Obj.copybookGeneration + 1) % 2 ^ 32
      activeArea s' = activeArea s ∧ otherArea s' = ⟨some g, [⟨s.copy.nextSeq, 0x0F, 0, 4, g, true⟩], false⟩ ∧
      s'.copy.compacting = true ∧ getObj s' dev Obj.copybookState = 1 ∧ OtherObjects s s' [(dev, Obj.copybookState)] ∧
      s' = { s with copy := s'.copy, dict := s'.dict, out := {} }))) ∧
  (∀ s : State,
    (getObj s dev Obj.copybookState ≠ 1 ∨ mgmtDown s = true → NoEffect .compactionComplete s) ∧
    (getObj s dev Obj.copybookState = 1 → mgmtDown s = false → Answers .compactionComplete s (fun s' =>
      let o := otherArea s
      let live := liveRecords (activeArea s).records
      let gen := o.generation.getD 0
      activeArea s' = ⟨some gen, o.records.take 1 ++ live ++ [commitRecord gen s.copy.nextSeq live], true⟩ ∧
      otherArea s' = activeArea s ∧ s'.copy.queue = s.copy.queue ∧ s'.copy.compacting = false ∧
      getObj s' dev Obj.copybookState = 0 ∧ getObj s' dev Obj.copybookGeneration = gen % 2 ^ 32 ∧
      getObj s' dev Obj.copybookFill = (activeArea s').records.length % 2 ^ 32 ∧
      getObj s' dev Obj.copybookCompactions = (getObj s dev Obj.copybookCompactions + 1) % 2 ^ 32 ∧ SameMemory s s')))

/-! ## Resets and bring-up -/

/-- R59, R233, R383 to R385, R407: a tile reset clears the tile's engines, semaphores, passes, regulator counts, assembly
buffers and its sequencer's side, keeps the memory, and in its deep form retrains the channels; it ends after 30 µs,
once the reports and the channels are there. An engine, port or management reset clears its part. A reset within a
larger one is counted and absorbed.
What it takes from the model's readings and choices: assumptions 4, 7, 49, 50, 53, 56, 57, 164, 169. -/
def Obligations.ResetsWithinATile : Prop :=
  (∀ (t : TileN) (n : Nat) (cmd : Instr) (s : State),
    (n, cmd) ∈ ([(1, .tileShallowReset t), (2, .tileDeepReset t)] : List (Nat × Instr)) →
    let absorbed := getObj s dev Obj.bringupPhase ≠ 0 ∨ n ≤ (getReset s t.val).kind
    let Counted (s' : State) := getObj s' t.val (Obj.resetCounts + (2 + n)) = (getObj s t.val (Obj.resetCounts + (2 + n)) + 1) % 2 ^ 32
    (absorbed → Answers cmd s (fun s' => Counted s' ∧ OtherObjects s s' [(t.val, Obj.resetCounts + (2 + n))] ∧
      s' = { s with dict := s'.dict, out := {} })) ∧
    (¬ absorbed → Answers cmd s (fun s' => Counted s' ∧ getReset s' t.val = ⟨n, s.time.elapsed⟩ ∧
      getObj s' t.val Obj.resetInProgress = 3 + n ∧ getObj s' t.val Obj.resetCause = 3 + n ∧
      livePasses s' t.val = [] ∧ (∀ e < 6, getEngine s' t.val e = {}) ∧ (∀ i < 64, getObj s' t.val (Obj.semaphore + i) = 0) ∧
      (∀ r < 17, regCount s' t.val r = 0) ∧ (∀ k < 128, sideOf k ≠ none → fget ({} : Asm) s'.asm (t.val * 128 + k) = {}) ∧
      getObj s' t.val Obj.sequencerEpoch = (getObj s t.val Obj.sequencerEpoch + 1) % 64 ∧
      (∀ p < 6, SideWasReset s s' t.val p 1) ∧
      (∀ c < 48, chState s' t.val c = if n = 2 ∧ chState s t.val c ≠ 4 then 1 else chState s t.val c) ∧ SameMemory s s'))) ∧
  (∀ (t : TileN) (s : State),
    let x := getReset s t.val
    let ends := x.kind ≠ 0 ∧ x.start + 30000 ≤ s.time.elapsed ∧ (∀ c < 48, (getTrain s t.val c).quiet = none) ∧
      (x.kind = 2 → ∀ c < 48, chState s t.val c = 2 ∨ chState s t.val c = 4)
    (¬ ends → NoEffect (.tileResetEnd t) s) ∧
    (ends → Answers (.tileResetEnd t) s (fun s' => getReset s' t.val = {} ∧ getObj s' t.val Obj.resetInProgress = 0 ∧
      getObj s' t.val Obj.lastResetTime = s.time.timeBase % 2 ^ 64 ∧ (x.kind = 2 → present s' t.val = Config.strapAgrees t.val)))) ∧
  (∀ (t : TileN) (v : BitVec 8) (s : State),
    let n := v.toNat
    let larger := getObj s dev Obj.bringupPhase ≠ 0 ∨ inReset s t.val = true
    let Counted (s' : State) (k : Nat) := s'.out.status = stOk ∧ SameMemory s s' ∧
      getObj s' t.val (Obj.resetCounts + k) = (getObj s t.val (Obj.resetCounts + k) + 1) % 2 ^ 32
    let Absorbed (k : Nat) (s' : State) := Counted s' k ∧ OtherObjects s s' [(t.val, Obj.resetCounts + k)] ∧
      s' = { s with dict := s'.dict, out := {} }
    let Took (k : Nat) (s' : State) := Counted s' k ∧ getObj s' t.val Obj.resetCause = k + 1 ∧
      getObj s' t.val Obj.lastResetTime = s.time.timeBase % 2 ^ 64 ∧ s'.passes = s.passes
    (64 ≤ n → Refuses (.engineReset t v) s stBadFormat) ∧ (16 ≤ n → Refuses (.portReset t v) s stBadFormat) ∧
    (n = 0 → NoEffect (.engineReset t v) s ∧ NoEffect (.portReset t v) s) ∧
    (0 < n → n < 64 → larger ∨ partitionCovers s t.val = true → Answers (.engineReset t v) s (Absorbed 5)) ∧
    (0 < n → n < 16 → larger → Answers (.portReset t v) s (Absorbed 6)) ∧
    (0 < n → n < 64 → ¬ larger → partitionCovers s t.val = false → Answers (.engineReset t v) s (fun s' => Took 5 s' ∧
      (∀ e < 6, getEngine s' t.val e = if bit n e then {} else getEngine s t.val e) ∧
      (∀ i < 64, getObj s' t.val (Obj.semaphore + i) = getObj s t.val (Obj.semaphore + i)))) ∧
    (0 < n → n < 16 → ¬ larger → Answers (.portReset t v) s (fun s' => Took 6 s' ∧
      (∀ p < 4, bit n p = true → getObj s' t.val (Obj.portState + p) = 1 ∧
        portGeneration s' t.val p = getObj s t.val (Obj.portGeneration + p) ∧ fget [] s'.resp (t.val * 4 + p) = [] ∧
        fget ({} : Asm) s'.asm (t.val * 128 + p * 2) = {} ∧ fget ({} : Asm) s'.asm (t.val * 128 + p * 2 + 1) = {} ∧
        ∀ r ∈ openReqs s' t.val, r.requester = p → r.dropped = true ∨ r.status = stRetry))) ∧
    (1 < n → Refuses (.managementReset v) s stBadFormat) ∧ (n = 0 → NoEffect (.managementReset v) s) ∧
    (n = 1 → Answers (.managementReset v) s (fun s' => SameMemory s s' ∧
      (∀ u < 64, getObj s' u (Obj.resetCounts + 7) = (getObj s u (Obj.resetCounts + 7) + 1) % 2 ^ 32) ∧
      (getObj s dev Obj.bringupPhase ≠ 0 → s' = { s with dict := s'.dict, out := {} }) ∧
      (getObj s dev Obj.bringupPhase = 0 → ManagementWasReset s s' ∧ ManagementRestarted s s' ∧
        ∀ u < 64, getObj s' u Obj.resetCause = 8)))) ∧
  (∀ (t : TileN) (c : ChanN) (s : State),
    let waits (q : Nat) := (getTrain s t.val c.val).quiet = some q ∧ inReset s t.val = true ∧ q + 2000 ≤ s.time.elapsed
    ((∀ q, ¬ waits q) → NoEffect (.resetReportTimeout t c) s) ∧
    (∀ q, waits q → Answers (.resetReportTimeout t c) s (fun s' => (getTrain s' t.val c.val).quiet = none ∧
      chState s' t.val c.val = (if chState s t.val c.val = 4 then 4 else if (getReset s t.val).kind = 2 then 1 else 3) ∧
      (getLayer s' t.val c.val).down = [{ word := opWord 4 0 0 }] ∧ (getLayer s' t.val c.val).reads = [] ∧
      (∀ b < 16, getBank s' t.val c.val b = .closed) ∧ SameMemory s s')))

/-- R384, R385, R393: a partition reset frees the partition's passes and regulators in every tile that no larger reset holds, and
resets the engines and the sequencer where it holds the tile alone; it lasts 30 µs. A second one meanwhile
is refused with RETRY.
What it takes from the model's readings and choices: assumptions 4, 7, 49, 57, 156, 169. -/
def Obligations.PartitionReset : Prop :=
  (∀ (v : BitVec 8) (s : State),
    let p := v.toNat
    let up := getObj s dev Obj.bringupPhase = 0
    let Counted (s' : State) (t : Nat) := getObj s' t (Obj.resetCounts + 2) = (getObj s t (Obj.resetCounts + 2) + 1) % 2 ^ 32
    (p = 0 → Refuses (.partitionReset v) s stBadFormat) ∧
    (p ≠ 0 → s.resets.partition ≠ none → Refuses (.partitionReset v) s stRetry) ∧
    (p ≠ 0 → s.resets.partition = none → ¬ up → Answers (.partitionReset v) s (fun s' =>
      (∀ t < 64, Counted s' t) ∧ s' = { s with dict := s'.dict, out := {} })) ∧
    (p ≠ 0 → s.resets.partition = none → up → Answers (.partitionReset v) s (fun s' => s'.out.status = stOk ∧
      getObj s' dev Obj.partitionResetState = p ∧ s'.resets.partition = some (p, s.time.elapsed) ∧ SameMemory s s' ∧
      ∀ t < 64, Counted s' t ∧ (inReset s t = false → getObj s' t Obj.resetCause = 3 ∧
        (∀ e ∈ livePasses s' t, cPartition e.2.terms ≠ p) ∧
        (∀ r < 16, rrPart (rangeReg s t r) = p → regCount s' t r = 0) ∧
        (holdsAlone s p t = true → (∀ e < 6, getEngine s' t e = {}) ∧
          getObj s' t Obj.sequencerEpoch = (getObj s t Obj.sequencerEpoch + 1) % 64))))) ∧
  (∀ s : State,
    let ends (st : Nat × Nat) := s.resets.partition = some st ∧ st.2 + 30000 ≤ s.time.elapsed
    ((∀ st, ¬ ends st) → NoEffect .partitionResetEnd s) ∧
    (∀ st, ends st → Answers .partitionResetEnd s (fun s' => s'.resets = { s.resets with partition := none } ∧
      getObj s' dev Obj.partitionResetState = 0 ∧ (∀ t < 64, getObj s' t Obj.lastResetTime = s.time.timeBase % 2 ^ 64) ∧
      s' = { s with resets := s'.resets, dict := s'.dict, out := {} })))

/-- R303, R326, R365, R377, R381, R383: power-on clears everything but the flash; a device warm reset clears the passes, the
block map, the engines and every object it does not keep, and keeps the memory, the remap tables and the trip; both
start bring-up at phase 1. Its phases end in order, 4 to 6 with their last channel, and 3 only with the stack that
StackInterface names (R60).
What it takes from the model's readings and choices: assumptions 4, 7, 30, 39, 51, 54. -/
def Obligations.PowerOnWarmResetAndPhases : Prop :=
  (∀ s : State, Answers .powerOnReset s (fun s' => s' = { State.reset with
      pending := s.pending, free := s.free
      copy := { areaA := s.copy.areaA, areaB := s.copy.areaB }
      firm := { flashHeader := s.firm.flashHeader, flashImage := s.firm.flashImage }
      count := { pin := s.count.pin }
      field := { rollIn := s.field.rollIn } })) ∧
  (∀ (v : BitVec 8) (s : State),
    (1 < v.toNat → Refuses (.deviceWarmReset v) s stBadFormat) ∧ (v.toNat = 0 → NoEffect (.deviceWarmReset v) s) ∧
    (v.toNat = 1 → Answers (.deviceWarmReset v) s (fun s' => s'.out.status = stOk ∧ SameMemory s s' ∧
      (∀ u k, k < 2 ^ 24 → keptAtWarm k = false → (u, k) ≠ (dev, Obj.deviceLogDropped) → getObj s' u k = objDefault k) ∧
      (∀ k ∈ [Obj.tripState, Obj.nodeAddress], getObj s' dev k = getObj s dev k) ∧
      (∀ t < 64, livePasses s' t = [] ∧ (∀ e < 6, getEngine s' t e = {}) ∧ getObj s' t Obj.resetCause = 2 ∧
        getObj s' t (Obj.resetCounts + 1) = (getObj s t (Obj.resetCounts + 1) + 1) % 2 ^ 32) ∧
      s'.entry = [] ∧ s'.pool = [] ∧ s'.way = [] ∧ s'.remap = s.remap ∧
      ((∀ t < 64, (getProt s t).retiring = []) → s'.retire = s.retire) ∧
      s'.count.logs = s.count.logs ∧ s'.firm.staging = s.firm.staging ∧ s'.firm.scheduled = none ∧ s'.field.grants = [] ∧
      s'.resets = { warm := true, init := s.resets.init, phaseStart := s.time.elapsed, bringupStart := s.time.elapsed }))) ∧
  (∀ s : State,
    let ph := getObj s dev Obj.bringupPhase
    let held := (List.range 64).any (inHold s) || (tripped s && decide (4 ≤ ph ∧ ph ≤ 6))
    let Goes (n : Nat) (s' : State) := getObj s' dev Obj.bringupPhase = n ∧
      getObj s' dev (Obj.bringupPhaseTime + (ph - 1)) = (s.time.elapsed - s.resets.phaseStart) / 1000 % 2 ^ 32
    let same := Config.layerGeneration = if s.resets.slp2 then 2 else 3
    (held = true ∨ ph = 0 → NoEffect .bringupPhaseEnd s) ∧
    (held = false → ph = 3 → ¬ same → Refuses .bringupPhaseEnd s stBadFormat) ∧
    (∀ n, (ph = 4 ∧ n = 2) ∨ (ph = 5 ∧ n = 3) ∨ (ph = 6 ∧ n = 4) → allAt s n = false → NoEffect .bringupPhaseEnd s) ∧
    (∀ n, held = false → (ph, n) ∈ ([(1, 2), (2, 3), (3, 4), (4, 5), (5, if s.resets.init then 6 else 7), (6, 7)] : List (Nat × Nat)) →
      (ph = 3 → same) → (ph = 4 → allAt s 2 = true) → (ph = 5 → allAt s 3 = true) → (ph = 6 → allAt s 4 = true) →
      Answers .bringupPhaseEnd s (fun s' => Goes n s' ∧ s'.resets.phaseStart = s.time.elapsed ∧ SameMemory s s' ∧
        (ph = 3 → ∀ t < 64, ∀ c < 48, chState s' t c =
          if flag s t (Obj.channelDisable + c) = true ∨ chState s t c = 4 then 4 else 1))) ∧
    (held = false → ph = 7 → Answers .bringupPhaseEnd s (fun s' => Goes 0 s' ∧ s'.resets.init = false ∧
      getObj s' dev Obj.bringupTime = (s.time.elapsed - s.resets.bringupStart) % 2 ^ objBits Obj.bringupTime ∧
      ∀ t < 64, getObj s' t Obj.lastResetTime = s.time.timeBase % 2 ^ 64 ∧ ∀ p < 4, getObj s' t (Obj.portState + p) = 1)))

/-- R44, R45, R60, R378 to R381, R393: training leaves its trims in use and begins the link check; a check passed makes the
channel ready, or at a bring-up that lost the stack, due for its fill, after which every row and free spare reads
the fill pattern. A lane in error is steered to the lowest unused spare; a channel with none left, or one that
fails its training, is disabled. A trip, Hold or a disabled channel lets none of it happen.
What it takes from the model's readings and choices: assumptions 4, 6, 27, 52, 165. -/
def Obligations.ChannelsComeUp : Prop :=
  ∀ (t : TileN) (c : ChanN) (s : State),
    let x := getTrain s t.val c.val
    let paused := channelPaused s t.val = true ∨ chState s t.val c.val = 4
    let steer := getObj s t.val (Obj.laneSteer + c.val)
    let Disabled (s' : State) := chState s' t.val c.val = 4 ∧ SameMemory s s'
    (∀ (ok : Bool) (trims : List Nat),
      let fault := decide (chState s t.val c.val = 3)
      let idle := paused ∨ x.quiet ≠ none ∨ (x.step ≠ 1 ∧ fault = false)
      let group := if fault then none else x.group
      let Trained (s' : State) := (getTrain s' t.val c.val).step = 2 ∧ (getTrain s' t.val c.val).errLane = none ∧
        trimsInUse s' t.val c.val = trainedTrims s t.val c.val group trims ∧
        getObj s' t.val (Obj.prbsBits + c.val) = 0 ∧ chState s' t.val c.val = (if fault then 1 else chState s t.val c.val) ∧
        SameMemory s s'
      (idle → NoEffect (.channelTrainingDone t c ok trims) s) ∧
      (¬ idle → ok = false → Answers (.channelTrainingDone t c ok trims) s Disabled) ∧
      (¬ idle → ok = true → x.errLane = none → Answers (.channelTrainingDone t c ok trims) s Trained) ∧
      (∀ lane, ¬ idle → ok = true → x.errLane = some lane →
        (steerTo steer lane = none → Answers (.channelTrainingDone t c ok trims) s Disabled) ∧
        (∀ w, steerTo steer lane = some w → Answers (.channelTrainingDone t c ok trims) s (fun s' => Trained s' ∧
          getObj s' t.val (Obj.laneSteer + c.val) = w % 2 ^ 64)))) ∧
    (paused ∨ x.step ≠ 2 → NoEffect (.linkCheckDone t c) s) ∧
    (¬ paused → x.step = 2 → Answers (.linkCheckDone t c) s (fun s' =>
      let fill := getObj s dev Obj.bringupPhase ≠ 0 ∧ s.resets.init = true
      getObj s' t.val (Obj.prbsBits + c.val) = (if getObj s t.val (Obj.channelBringupPath + c.val) = 1 then 100000000000 else 3000000000000) ∧
      bit (getObj s' t.val Obj.calSuspectChannels) c.val = false ∧ SameMemory s s' ∧
      (fill → (getTrain s' t.val c.val).step = 3 ∧ chState s' t.val c.val = chState s t.val c.val) ∧
      (¬ fill → (getTrain s' t.val c.val).step = 4 ∧ chState s' t.val c.val = 2 ∧
        ∀ b < 16, getBank s' t.val c.val b = .closed))) ∧
    (∀ lane : Fin 170,
      (paused ∨ x.step ≠ 2 → NoEffect (.laneError t c lane) s) ∧
      (¬ paused → x.step = 2 → (steerTo steer lane.val = none → Answers (.laneError t c lane) s Disabled) ∧
        (∀ w, steerTo steer lane.val = some w → Answers (.laneError t c lane) s (fun s' =>
          getObj s' t.val (Obj.laneSteer + c.val) = w % 2 ^ 64 ∧ (getTrain s' t.val c.val).step = 1 ∧
          (getTrain s' t.val c.val).group = some (laneGroup lane.val) ∧ getObj s' t.val (Obj.prbsBits + c.val) = 0 ∧
          getObj s' t.val (Obj.prbsErrors + c.val) = (getObj s t.val (Obj.prbsErrors + c.val) + 1) % 2 ^ 32 ∧ SameMemory s s')))) ∧
    (paused ∨ x.step ≠ 3 → NoEffect (.stackInitialisationDone t c) s) ∧
    (¬ paused → x.step = 3 → Answers (.stackInitialisationDone t c) s (fun s' => chState s' t.val c.val = 2 ∧
      (∀ b < 16, ∀ row < 8208, ∀ w < 256, rawWord s' t.val c.val b row w =
        if 8192 ≤ row ∧ (getRemap s t.val c.val b).spares.getD (row - 8192) 0 = 2 then rawWord s t.val c.val b row w
        else goodWord (getObj s t.val Obj.fillPattern)) ∧
      (∀ t' c' b row w, c' < 48 → b < 16 → row < 8208 → w < 256 → (t' ≠ t.val ∨ c' ≠ c.val) →
        rawWord s' t' c' b row w = rawWord s t' c' b row w)))

/-! ## Counters, the Report Card, sampling and the trouble log -/

/-- R395 to R397, R399, R405: a selection out of Table 16.2 is refused; a selection or a load waits for the next tick, and a
tick adds to an enabled counter the events it selects, modulo 2^48, unless the Report Card is frozen. A Report Card
command, or an edge of mgt_snap, acts 100 ns later: it copies the counters to their shadows, freezes, thaws or clears. A falling
edge within 20 ns of its rising edge takes that edge's action back.
What it takes from the model's readings and choices: assumptions 4, 48, 105, 107, 162, 163. -/
def Obligations.CountersAndReportCard : Prop :=
  (∀ (t : TileN) (i : Fin 8) (v : BitVec 64) (s : State),
    let Loads (k n : Nat) (s' : State) := s' = { s with
      count := { s.count with loads := s.count.loads ++ [(okey t.val k, n)] }, out := {} }
    (csBad i.val v.toNat false = true → Refuses (.counterSelectWrite t i v) s stBadFormat) ∧
    (csBad i.val v.toNat false = false →
      Answers (.counterSelectWrite t i v) s (Loads (Obj.counterSelect + i.val) (csStored v.toNat))) ∧
    Answers (.counterValueWrite t i v) s (Loads (Obj.counterValue + i.val) (v.toNat % 2 ^ 48)) ∧
    Answers (.counterFixedWrite t v) s (Loads Obj.counterFixed v.toNat) ∧
    (let sel := getObj s t.val (Obj.counterSelect + i.val)
     let x := getObj s t.val (Obj.counterValue + i.val)
     let n := sumOf ((s.count.events.filter (fun e => decide (e.tile = t.val ∧ e.event = csEvent sel) &&
       (csAll sel || decide (e.qual = csQual sel)))).map (·.weight))
     s.count.loads = [] → s.sramErr = [] → csEnable sel = true → csChain sel = false → csMode sel = 0 →
     Answers .timeBaseTick s (fun s' => getObj s' t.val (Obj.counterValue + i.val) =
       if frozen s = true ∨ n = 0 then x else (x + n) % 2 ^ 48))) ∧
  (∀ (n : Nat) (cmd : Instr) (s : State),
    (n, cmd) ∈ ([(1, .reportCardSnapshot), (2, .reportCardFreeze), (3, .reportCardThaw), (4, .reportCardClear)] : List (Nat × Instr)) →
    let at_ := s.time.elapsed + 100
    Answers cmd s (fun s' => s' = { s with count := { s.count with actions := s'.count.actions }, out := {} } ∧
      s'.count.actions = s.count.actions ++
        (if (⟨n, at_, true⟩ : CardAct) ∈ s.count.actions then [] else [⟨n, at_, false⟩]))) ∧
  (∀ (rising : Bool) (s : State),
    let later := starting s && s.resets.warm
    let act := getObj s dev Obj.reportCardPinAction
    (s.count.pin = rising → NoEffect (.snapPinEdge rising) s) ∧
    (s.count.pin ≠ rising → Answers (.snapPinEdge rising) s (fun s' => s'.count.pin = rising ∧
      s'.count.pinEdges = s.count.pinEdges ++ (if later then [rising] else []) ∧
      (later = true → s'.count.actions = s.count.actions) ∧
      (later = false → rising = false → s.count.actions.any (shortPulse s) = true →
        s'.count.actions = s.count.actions.filter (fun a => !shortPulse s a)) ∧
      (∀ a, later = false → (rising = false → s.count.actions.any (shortPulse s) = false) → (act, rising, a) ∈ ([(1, true, 1), (2, true, 2), (2, false, 3)] : List (Nat × Bool × Nat)) →
        ∃ x ∈ s'.count.actions, x.action = a ∧ x.at_ = s.time.elapsed + 100) ∧
      s' = { s with count := s'.count, out := {} }))) ∧
  (∀ s : State,
    let due := s.count.actions.filter (fun a => decide (a.at_ ≤ s.time.elapsed))
    let rest := s.count.actions.filter (fun a => decide (s.time.elapsed < a.at_))
    (due = [] → NoEffect .reportCardApply s) ∧
    (∀ a, due = [a] → Answers .reportCardApply s (fun s' =>
      s' = { s with dict := s'.dict, count := { s.count with actions := rest }, out := {} } ∧
      (a.action = 1 → getObj s' dev Obj.reportCardSeq = (getObj s dev Obj.reportCardSeq + 1) % 2 ^ 32 ∧
        (∀ i < 4, getObj s' dev (Obj.shadowDeviceCounter + i) = getObj s dev (Obj.deviceCounterValue + i) % 2 ^ 64) ∧
        ∀ t < 64, getObj s' t Obj.reportCardStamp = s.time.timeBase % 2 ^ 64 ∧
          getObj s' t Obj.shadowFixed = fixedValue s t ∧
          (∀ i < 8, getObj s' t (Obj.shadowCounter + i) = getObj s t (Obj.counterValue + i) % 2 ^ 64) ∧
          ∀ p < 5, getObj s' t (Obj.shadowPortBytes + p) = getObj s t (Obj.portBytesTotal + p) % 2 ^ 64) ∧
      (a.action = 2 ∨ a.action = 3 → getObj s' dev Obj.reportCardFrozen = 3 - a.action ∧
        OtherObjects s s' [(dev, Obj.reportCardFrozen)]) ∧
      (a.action = 4 → getObj s' dev Obj.deviceCounterOverflow = 0 ∧ (∀ i < 4, getObj s' dev (Obj.deviceCounterValue + i) = 0) ∧
        ∀ t < 64, getObj s' t Obj.counterOverflow = 0 ∧ (∀ i < 8, getObj s' t (Obj.counterValue + i) = 0) ∧
          ∀ p < 5, getObj s' t (Obj.portBytesTotal + p) = 0 ∧ getObj s' t (Obj.portBandwidthPeak + p) = 0))))

/-- R400 to R403: a bandwidth window that ends gives the bytes of each port per microsecond, unless a write cut it;
PreciseSampleControl takes no interval or source of 0, and sampling that it starts begins a new count; software's entry
joins its unit's trouble log with source 0x80, or is counted as dropped.
What it takes from the model's readings and choices: assumptions 4, 11, 106, 109, 160. -/
def Obligations.BandwidthSamplingAndLog : Prop :=
  (∀ (t : TileN) (s : State),
    let w := getObj s t.val Obj.bandwidthWindow
    let cut := fget false s.count.cutWindow t.val
    let i (p : Nat) := fget 0 s.count.portBytes (t.val * 10 + p * 2)
    let o (p : Nat) := fget 0 s.count.portBytes (t.val * 10 + p * 2 + 1)
    (due s t.val 7 w = false → NoEffect (.bandwidthWindowEnd t) s) ∧
    (due s t.val 7 w = true → Answers (.bandwidthWindowEnd t) s (fun s' =>
      (∀ k < 10, fget 0 s'.count.portBytes (t.val * 10 + k) = 0) ∧ fget false s'.count.cutWindow t.val = false ∧
      (cut = true → s'.dict = s.dict) ∧
      (cut = false → ∀ p < 5, getObj s' t.val (Obj.portBandwidthIn + p) = i p * 1000 / w % 2 ^ 32 ∧
        getObj s' t.val (Obj.portBandwidthOut + p) = o p * 1000 / w % 2 ^ 32 ∧
        getObj s' t.val (Obj.portBandwidthPeak + p) =
          max (getObj s t.val (Obj.portBandwidthPeak + p)) ((i p + o p) * 1000 / w) % 2 ^ 32) ∧
      s' = { s with dict := s'.dict, last := s'.last, count := s'.count, out := {} }))) ∧
  (∀ (t : TileN) (v : BitVec 64) (s : State),
    let n := v.toNat
    let bad := bits n 48 16 = 0 ∨ bits n 10 2 = 0
    let starts := smEnable n = true ∧ smEnable (getObj s t.val Obj.preciseSampleControl) = false
    (bad → Refuses (.preciseSampleControlWrite t v) s stBadFormat) ∧
    (¬ bad → Answers (.preciseSampleControlWrite t v) s (fun s' => s'.out = { status := stOk } ∧
      (∀ i < 64, bit (getObj s' t.val Obj.preciseSampleControl) i = (bit n i && (decide (15 ≤ i) || decide (8 ≤ i ∧ i < 12)))) ∧
      (starts → getObj s' t.val Obj.preciseSampleCount = 0 ∧ fget 0 s'.count.countdown t.val = smInterval n) ∧
      (¬ starts → getObj s' t.val Obj.preciseSampleCount = getObj s t.val Obj.preciseSampleCount ∧ s'.count = s.count) ∧
      OtherObjects s s' [(t.val, Obj.preciseSampleControl), (t.val, Obj.preciseSampleCount)] ∧
      s' = { s with dict := s'.dict, out := s'.out, count := { s.count with countdown := s'.count.countdown } }))) ∧
  (∀ (unit : BitVec 8) (v : BitVec 128) (s : State),
    let u := unit.toNat
    let gone := 64 < u ∨ (u < 64 ∧ present s u = false)
    let q := fget [] s.count.intake u
    (gone → Refuses (.troubleLogWrite unit v) s stDecodeError) ∧
    (¬ gone → q.length < 64 → Answers (.troubleLogWrite unit v) s (fun s' => s'.out = { status := stOk } ∧
      fget [] s'.count.intake u = q ++ [⟨s.time.timeBase, 0, 0x80, 0, 0, u, v.toNat % 2 ^ 64, v.toNat / 2 ^ 64⟩] ∧
      s' = { s with count := { s.count with intake := s'.count.intake }, out := s'.out })) ∧
    (¬ gone → 64 ≤ q.length → Answers (.troubleLogWrite unit v) s (fun s' =>
      getObj s' u (logDropped u) = (getObj s u (logDropped u) + 1) % 2 ^ objBits (logDropped u) ∧
      OtherObjects s s' [(u, logDropped u)] ∧ s' = { s with dict := s'.dict, out := {} })))

/-! ## Ports and test access -/

/-- R407, R414: PortGeneration takes 1 to 3, and no port that a live pass names; a clocked port whose clock stops is stalled
and counted, and ready again with the clock.
What it takes from the model's readings and choices: assumptions 4, 117. -/
def Obligations.PortGenerationsAndClocks : Prop :=
  ∀ (t : TileN) (p : PortN) (v : BitVec 8) (s : State),
    let n := v.toNat
    let st := getObj s t.val (Obj.portState + p.val)
    let runs := portGeneration s t.val p.val ≠ 3 ∧ st = 1
    (n = 0 ∨ 3 < n → Refuses (.portGenerationWrite t p v) s stBadFormat) ∧
    (1 ≤ n → n ≤ 3 → portNamed s t.val p.val = true → Refuses (.portGenerationWrite t p v) s stRetry) ∧
    (1 ≤ n → n ≤ 3 → portNamed s t.val p.val = false → WritesRws (.portGenerationWrite t p v) s t.val (Obj.portGeneration + p.val) n) ∧
    (¬ runs → NoEffect (.adapterClockLost t p) s) ∧
    (runs → Answers (.adapterClockLost t p) s (fun s' => getObj s' t.val (Obj.portState + p.val) = 2 ∧
      getObj s' t.val (Obj.clockStops + p.val) = (getObj s t.val (Obj.clockStops + p.val) + 1) % 2 ^ 32 ∧
      OtherObjects s s' [(t.val, Obj.portState + p.val), (t.val, Obj.clockStops + p.val)] ∧
      s' = { s with dict := s'.dict, out := {} })) ∧
    (st ≠ 2 → NoEffect (.adapterClockReturn t p) s) ∧
    (st = 2 → Answers (.adapterClockReturn t p) s (fun s' => getObj s' t.val (Obj.portState + p.val) = 1 ∧
      OtherObjects s s' [(t.val, Obj.portState + p.val)] ∧ s' = { s with dict := s'.dict, out := {} }))

/-- R422 to R424: a wrapper takes each instruction of Table 17.7. One that tests puts the tile under test with a shallow
reset; WS_BYPASS or PACER on a tile under test takes it out with a deep one. MBIST keeps the stack and the other tiles'
Slates; the others keep all memory. The stack's chain takes an instruction only while every tile is under test, or
in bring-up.
What it takes from the model's readings and choices: assumptions 6, 59, 60, 61. -/
def Obligations.TestAccess : Prop :=
  (∀ (t : TileN) (code : Nat) (cmd : Instr) (counts : List Nat) (mask : BitVec 48) (c : ChanN) (i : Fin 11) (write : Bool)
    (v : BitVec 8) (s : State),
    (code, cmd) ∈ ([(0, .wsBypass t), (1, .wsExtest t), (2, .wsIntest t), (3, .mbist t), (4, .pacer t counts),
      (5, .laneprbs t mask), (6, .trim t c i write v)] : List (Nat × Instr)) →
    let was := isTest (fget 0 s.test.wir t.val)
    let now := isTest code
    let kind := (getReset s t.val).kind
    let up := decide (getObj s dev Obj.bringupPhase = 0)
    let use := trimsInUse s t.val c.val
    Answers cmd s (fun s' => fget 0 s'.test.wir t.val = code ∧
      underTest s' t.val = (if now = was then underTest s t.val else now) ∧
      getReset s' t.val = (if now = true ∧ was = false ∧ up = true ∧ kind < 1 then ⟨1, s.time.elapsed⟩
        else if now = false ∧ was = true ∧ up = true ∧ kind < 2 then ⟨2, s.time.elapsed⟩ else getReset s t.val) ∧
      (code ≠ 3 → SameMemory s s') ∧
      (code = 1 → fget 0 s'.test.captures t.val = fget 0 s.test.captures t.val + 1) ∧
      (code = 2 → fget 0 s'.test.tokens t.val = fget 0 s.test.tokens t.val + 1) ∧
      (code = 3 → (∀ t' ch b row w, rawWord s' t' ch b row w = rawWord s t' ch b row w) ∧
        ∀ k, k / 2 ^ 23 ≠ t.val → fget 0 s'.slate k = fget 0 s.slate k) ∧
      (code = 4 → s'.out.status = stOk ∧ s'.out.data = counts.flatMap (leBytes 4)) ∧
      (code = 5 → ∀ ch < 48, bit mask.toNat ch = true → chState s t.val ch ≠ 4 → chState s' t.val ch = 1 ∧
        (getTrain s' t.val ch).step = 2 ∧ getObj s' t.val (Obj.prbsBits + ch) = 0) ∧
      (code = 6 → s'.out.status = stOk ∧ (write = false → s'.out.data = [use.getD i.val 0]) ∧
        trimsInUse s' t.val c.val = if write then setNth use i.val (v.toNat % (if i.val = 10 then 32 else 64)) else use))) ∧
  (∀ (code : BitVec 8) (s : State),
    let goes := code ≠ 0xFF ∧ ((∀ t < 64, underTest s t = true) ∨ getObj s dev Obj.bringupPhase ≠ 0)
    Answers (.stack1838Instruction code) s (fun s' =>
      (goes → s'.test.stack1838 = code.toNat + 1 ∧ getObj s' dev Obj.stackTestState = 1) ∧
      (¬ goes → s'.test.stack1838 = 0 ∧ getObj s' dev Obj.stackTestState = 0) ∧
      OtherObjects s s' [(dev, Obj.stackTestState)] ∧
      s' = { s with test := { s.test with stack1838 := s'.test.stack1838 }, dict := s'.dict, out := {} }))
end

