-- ==== Sys2Proof/Laws/FMap.lean ====
section
/-! SUPPORT. The laws of the sparse maps: a read after a write, and that every operation keeps the
canonical form. -/

namespace Sys2Proof.Machine

variable {α : Type}

theorem fget_fins_same (d : α) (k : Nat) (v : α) (m : FMap α) : fget d (fins k v m) k = v := by
  induction m with
  | nil => simp [fins, fget]
  | cons e r ih =>
    obtain ⟨k', v'⟩ := e
    simp only [fins]
    split
    · simp [fget]
    · split
      · simp [fget]
      · rw [fget, if_neg (by omega), ih]

theorem fget_fins_other (d : α) {k j : Nat} (v : α) (m : FMap α) (h : j ≠ k) :
    fget d (fins k v m) j = fget d m j := by
  induction m with
  | nil => simp [fins, fget, h.symm]
  | cons e r ih =>
    obtain ⟨k', v'⟩ := e
    simp only [fins]
    split
    · rw [fget, if_neg h.symm]
    · split
      · next h1 => subst h1; simp [fget, h.symm]
      · simp only [fget, ih]

theorem fget_fdel_same (d : α) (k : Nat) (m : FMap α) : fget d (fdel k m) k = d := by
  induction m with
  | nil => rfl
  | cons e r ih =>
    obtain ⟨k', v'⟩ := e
    simp only [fdel]
    split
    · exact ih
    · next h => rw [fget, if_neg h, ih]

theorem fget_fdel_other (d : α) {k j : Nat} (m : FMap α) (h : j ≠ k) :
    fget d (fdel k m) j = fget d m j := by
  induction m with
  | nil => rfl
  | cons e r ih =>
    obtain ⟨k', v'⟩ := e
    simp only [fdel]
    split
    · next h1 => subst h1; rw [ih, fget, if_neg h.symm]
    · simp only [fget, ih]

/-- A read after a write to the same key gives the value written. -/
@[simp] theorem fget_fset_same [DecidableEq α] (d : α) (m : FMap α) (k : Nat) (v : α) :
    fget d (fset d m k v) k = v := by
  unfold fset
  split
  · next h => rw [fget_fdel_same, h]
  · exact fget_fins_same d k v m

/-- A write leaves every other key alone, whatever default it reads with. -/
theorem fget_fset_other [DecidableEq α] (d d' : α) {k j : Nat} (m : FMap α) (v : α) (h : j ≠ k) :
    fget d' (fset d m k v) j = fget d' m j := by
  unfold fset
  split
  · exact fget_fdel_other d' m h
  · exact fget_fins_other d' v m h

@[simp] theorem fget_fupd_same [DecidableEq α] (d : α) (m : FMap α) (k : Nat) (f : α → α) :
    fget d (fupd d m k f) k = f (fget d m k) := fget_fset_same _ _ _ _

theorem fget_fupd_other [DecidableEq α] (d d' : α) {k j : Nat} (m : FMap α) (f : α → α) (h : j ≠ k) :
    fget d' (fupd d m k f) j = fget d' m j := fget_fset_other _ _ _ _ h

/-! ## The canonical form -/

/-- Every key of the map lies above `b`. -/
def Above (b : Nat) (m : FMap α) : Prop := ∀ e ∈ m, b < e.1

/-- The canonical form as an induction can use it: each key lies below all later ones, and no value is
the default of its key. -/
theorem fwf_cons [DecidableEq α] (d : Nat → α) (k : Nat) (v : α) (r : FMap α) :
    fwf d ((k, v) :: r) = true ↔ v ≠ d k ∧ Above k r ∧ fwf d r = true := by
  induction r generalizing k v with
  | nil => simp [fwf, fsorted, Above]
  | cons e r ih =>
    obtain ⟨k', v'⟩ := e
    have h2 := ih k' v'
    constructor
    · intro h
      simp only [fwf, fsorted, List.all_cons, Bool.and_eq_true, decide_eq_true_eq] at h
      obtain ⟨⟨hlt, hs⟩, hv, hv', hr⟩ := h
      have hw : fwf d ((k', v') :: r) = true := by
        simp only [fwf, List.all_cons, Bool.and_eq_true, decide_eq_true_eq]; exact ⟨hs, hv', hr⟩
      refine ⟨hv, ?_, hw⟩
      intro e he
      rcases List.mem_cons.mp he with rfl | he
      · exact hlt
      · exact Nat.lt_trans hlt ((h2.mp hw).2.1 e he)
    · rintro ⟨hv, ha, hw⟩
      have := ha (k', v') (by simp)
      simp only [fwf, List.all_cons, Bool.and_eq_true, decide_eq_true_eq] at hw
      simp only [fwf, fsorted, List.all_cons, Bool.and_eq_true, decide_eq_true_eq]
      exact ⟨⟨this, hw.1⟩, hv, hw.2⟩

theorem above_fins {b k : Nat} {v : α} {m : FMap α} (hb : b < k) (h : Above b m) : Above b (fins k v m) := by
  induction m with
  | nil => intro e he; simp [fins] at he; subst he; exact hb
  | cons x r ih =>
    obtain ⟨k', v'⟩ := x
    have hx : b < k' := h (k', v') (by simp)
    have hr : Above b r := fun e he => h e (List.mem_cons_of_mem _ he)
    intro e he
    simp only [fins] at he
    split at he
    · rcases List.mem_cons.mp he with rfl | he
      · exact hb
      · exact h e he
    · split at he
      · rcases List.mem_cons.mp he with rfl | he
        · exact hb
        · exact hr e he
      · rcases List.mem_cons.mp he with rfl | he
        · exact hx
        · exact ih hr e he

theorem above_fdel {b k : Nat} {m : FMap α} (h : Above b m) : Above b (fdel k m) := by
  induction m with
  | nil => exact h
  | cons x r ih =>
    obtain ⟨k', v'⟩ := x
    have hr : Above b r := fun e he => h e (List.mem_cons_of_mem _ he)
    simp only [fdel]
    split
    · exact ih hr
    · intro e he
      rcases List.mem_cons.mp he with rfl | he
      · exact h _ (by simp)
      · exact ih hr e he

theorem fwf_fins [DecidableEq α] (d : Nat → α) (k : Nat) (v : α) (m : FMap α) (hv : v ≠ d k)
    (h : fwf d m = true) : fwf d (fins k v m) = true := by
  induction m with
  | nil => simp [fins, fwf, fsorted, hv]
  | cons x r ih =>
    obtain ⟨k', v'⟩ := x
    have hx := (fwf_cons d k' v' r).mp h
    simp only [fins]
    split
    · next hlt =>
      refine (fwf_cons d k v _).mpr ⟨hv, ?_, h⟩
      intro e he
      rcases List.mem_cons.mp he with rfl | he
      · exact hlt
      · exact Nat.lt_trans hlt (hx.2.1 e he)
    · split
      · next h1 => subst h1; exact (fwf_cons d k v r).mpr ⟨hv, hx.2⟩
      · exact (fwf_cons d k' v' _).mpr ⟨hx.1, above_fins (by omega) hx.2.1, ih hx.2.2⟩

theorem fwf_fdel [DecidableEq α] (d : Nat → α) (k : Nat) (m : FMap α) (h : fwf d m = true) :
    fwf d (fdel k m) = true := by
  induction m with
  | nil => exact h
  | cons x r ih =>
    obtain ⟨k', v'⟩ := x
    have hx := (fwf_cons d k' v' r).mp h
    simp only [fdel]
    split
    · exact ih hx.2.2
    · exact (fwf_cons d k' v' _).mpr ⟨hx.1, above_fdel hx.2.1, ih hx.2.2⟩

/-- A write keeps the canonical form. -/
theorem fwf_fset [DecidableEq α] (d : Nat → α) (k : Nat) (v : α) (m : FMap α) (h : fwf d m = true) :
    fwf d (fset (d k) m k v) = true := by
  unfold fset
  split
  · exact fwf_fdel d k m h
  · next hv => exact fwf_fins d k v m hv h

theorem fwf_fupd [DecidableEq α] (d : Nat → α) (k : Nat) (f : α → α) (m : FMap α) (h : fwf d m = true) :
    fwf d (fupd (d k) m k f) = true := fwf_fset d k _ m h

/-- Keeping some of the keys keeps the canonical form. -/
theorem fwf_fkeep [DecidableEq α] (d : Nat → α) (p : Nat → Bool) (m : FMap α) (h : fwf d m = true) :
    fwf d (fkeep p m) = true := by
  induction m with
  | nil => exact h
  | cons x r ih =>
    obtain ⟨k', v'⟩ := x
    have hx := (fwf_cons d k' v' r).mp h
    have hr := ih hx.2.2
    unfold fkeep at hr ⊢
    rw [List.filter_cons]
    split
    · refine (fwf_cons d k' v' _).mpr ⟨hx.1, ?_, hr⟩
      intro e he
      exact hx.2.1 e (List.mem_filter.mp he).1
    · exact hr

end Sys2Proof.Machine
end

