-- ==== Sys2Proof/Laws/State.lean ====
section
/-! SUPPORT. The laws of the updates of State: what each named operation of Machine/Ops.lean leaves alone,
and what reads back after it. -/

namespace Sys2Proof.Machine

open Sys2Proof

/-! ## Commands -/

/-- A command that goes through `run` answers a next state. -/
theorem run_next (f : State → State) (s : State) : run f s = .next (sameTime s (f (fresh s))) := rfl

theorem runTime_next (f : State → State) (s : State) :
    runTime f s = .next { f (fresh s) with pending := s.pending } := rfl

@[simp] theorem sameTime_pending (s r : State) : (sameTime s r).pending = s.pending := rfl
@[simp] theorem sameTime_timeBase (s r : State) : (sameTime s r).time.timeBase = s.time.timeBase := rfl
@[simp] theorem sameTime_elapsed (s r : State) : (sameTime s r).time.elapsed = s.time.elapsed := rfl
@[simp] theorem sameTime_setPending (s r : State) : (sameTime s r).time.setPending = r.time.setPending := rfl
@[simp] theorem sameTime_dict (s r : State) : (sameTime s r).dict = r.dict := rfl
@[simp] theorem sameTime_out (s r : State) : (sameTime s r).out = r.out := rfl
@[simp] theorem sameTime_dram (s r : State) : (sameTime s r).dram = r.dram := rfl
@[simp] theorem sameTime_layer (s r : State) : (sameTime s r).layer = r.layer := rfl
@[simp] theorem sameTime_count (s r : State) : (sameTime s r).count = r.count := rfl
@[simp] theorem fresh_dict (s : State) : (fresh s).dict = s.dict := rfl
@[simp] theorem fresh_time (s : State) : (fresh s).time = s.time := rfl
@[simp] theorem fresh_out (s : State) : (fresh s).out = {} := rfl
@[simp] theorem fresh_dram (s : State) : (fresh s).dram = s.dram := rfl
@[simp] theorem fresh_layer (s : State) : (fresh s).layer = s.layer := rfl

/-! ## Dictionary objects -/

/-- Keys of objects are distinct for distinct units and objects. -/
theorem okey_inj {u v k j : Nat} (hk : k < 2 ^ 24) (hj : j < 2 ^ 24) (h : okey u k = okey v j) : u = v ∧ k = j := by
  unfold okey at h
  omega

@[simp] theorem getObj_setObj_same (s : State) (u k v : Nat) : getObj (setObj u k v s) u k = v % 2 ^ objBits k := by
  unfold getObj setObj
  exact fget_fset_same _ _ _ _

/-- A write of one object leaves the others alone. -/
theorem getObj_setObj_other (s : State) {u v k j x : Nat} (h : okey v j ≠ okey u k) :
    getObj (setObj u k x s) v j = getObj s v j := by
  unfold getObj setObj
  exact fget_fset_other _ _ _ _ h

/-- Another object of whichever unit. -/
@[simp] theorem getObj_setObj_obj (s : State) {u v k j x : Nat} (h : j ≠ k) (hj : j < 2 ^ 24) (hk : k < 2 ^ 24) :
    getObj (setObj u k x s) v j = getObj s v j :=
  getObj_setObj_other s (fun e => h (okey_inj hj hk e).2)

/-- The same object of another unit. -/
theorem getObj_setObj_unit (s : State) {u v k j x : Nat} (h : v ≠ u) (hj : j < 2 ^ 24) (hk : k < 2 ^ 24) :
    getObj (setObj u k x s) v j = getObj s v j :=
  getObj_setObj_other s (fun e => h (okey_inj hj hk e).1)

/-- A read of an object needs the dictionary only. -/
theorem getObj_congr {s s' : State} (h : s'.dict = s.dict) (u k : Nat) : getObj s' u k = getObj s u k := by
  unfold getObj; rw [h]

@[simp] theorem getObj_sameTime (s r : State) (u k : Nat) : getObj (sameTime s r) u k = getObj r u k := rfl
@[simp] theorem getObj_fresh (s : State) (u k : Nat) : getObj (fresh s) u k = getObj s u k := rfl
@[simp] theorem getObj_answer (st : Nat) (s : State) (u k : Nat) : getObj (answer st s) u k = getObj s u k := rfl
@[simp] theorem getObj_answerHint (n : Nat) (s : State) (u k : Nat) : getObj (answerHint n s) u k = getObj s u k := rfl
@[simp] theorem getObj_answerData (d : List Nat) (s : State) (u k : Nat) :
    getObj (answerData d s) u k = getObj s u k := rfl
@[simp] theorem getObj_take (s : State) (v i u k : Nat) : getObj (take v i s) u k = getObj s u k := rfl

@[simp] theorem answer_status (st : Nat) (s : State) : (answer st s).out.status = st := rfl
@[simp] theorem answer_dict (st : Nat) (s : State) : (answer st s).dict = s.dict := rfl
@[simp] theorem answer_time (st : Nat) (s : State) : (answer st s).time = s.time := rfl
@[simp] theorem setObj_time (u k v : Nat) (s : State) : (setObj u k v s).time = s.time := rfl
@[simp] theorem setObj_out (u k v : Nat) (s : State) : (setObj u k v s).out = s.out := rfl
@[simp] theorem setObj_count (u k v : Nat) (s : State) : (setObj u k v s).count = s.count := rfl
@[simp] theorem setObj_passes (u k v : Nat) (s : State) : (setObj u k v s).passes = s.passes := rfl

/-- A stored value that fits its object reads back as written. -/
theorem getObj_setObj_fits (s : State) {u k v : Nat} (h : v < 2 ^ objBits k) : getObj (setObj u k v s) u k = v := by
  rw [getObj_setObj_same, Nat.mod_eq_of_lt h]

end Sys2Proof.Machine
end

