-- ==== Sys2Proof/Laws/Side.lean ====
section
/-! SUPPORT. What reporting can touch, said once: `Side s s'` says that `s'` differs from `s` only by
counted events, log entries, doorbells, frames sent, queued Copybook records, the pass watch, and the
objects that count them. Every reporting operation keeps it. -/

namespace Sys2Proof.Machine

open Sys2Proof

/-- The objects that reporting and the pass watch write, by index. -/
def sideKey (k : Nat) : Bool :=
  [0x2207, 0x2208, 0x2209, 0x2213, 0x2214, 0x2217, 0x6037, 0x6070, 0x1109, 0x1118, 0x8057, 0x8067].contains (k / 256)

/-- `s'` differs from `s` by reporting and the pass watch only. -/
structure Side (s s' : State) : Prop where
  fields : s' = { s with
    dict := s'.dict, door := s'.door, passes := s'.passes
    count := { s.count with events := s'.count.events, intake := s'.count.intake }
    out := { s.out with frames := s'.out.frames }
    field := { s.field with events := s'.field.events }
    copy := { s.copy with queue := s'.copy.queue } }
  objs : ∀ u k, k < 2 ^ 24 → sideKey k = false → getObj s' u k = getObj s u k

theorem Side.refl (s : State) : Side s s := ⟨rfl, fun _ _ _ _ => rfl⟩

theorem Side.trans {a b c : State} (h : Side a b) (h' : Side b c) : Side a c := by
  refine ⟨?_, fun u k hk hs => (h'.objs u k hk hs).trans (h.objs u k hk hs)⟩
  have e := h'.fields
  rw [h.fields] at e
  exact e

/-- A step that touches only parts `Side` allows and writes no other object. -/
theorem Side.of_same_dict {s s' : State} (h : s' = { s with
    door := s'.door, passes := s'.passes
    count := { s.count with events := s'.count.events, intake := s'.count.intake }
    out := { s.out with frames := s'.out.frames }
    field := { s.field with events := s'.field.events }
    copy := { s.copy with queue := s'.copy.queue } }) : Side s s' := by
  have hd : s'.dict = s.dict := by rw [h]
  refine ⟨?_, fun u k _ _ => getObj_congr hd u k⟩
  rw [hd]; exact h

theorem Side.time {s s' : State} (h : Side s s') : s'.time = s.time := by rw [h.fields]
theorem Side.status {s s' : State} (h : Side s s') : s'.out.status = s.out.status := by rw [h.fields]

theorem side_setObj (s : State) {u k v : Nat} (hk : k < 2 ^ 24) (h : sideKey k = true) : Side s (setObj u k v s) := by
  refine ⟨rfl, fun w j hj hs => getObj_setObj_obj s ?_ hj hk⟩
  rintro rfl
  rw [h] at hs; cases hs

theorem side_bump (s : State) {u k n : Nat} (hk : k < 2 ^ 24) (h : sideKey k = true) : Side s (bump u k n s) :=
  side_setObj s hk h

theorem side_bumpSat (s : State) {u k n : Nat} (hk : k < 2 ^ 24) (h : sideKey k = true) : Side s (bumpSat u k n s) :=
  side_setObj s hk h

theorem side_countEv (t e q w : Nat) (s : State) : Side s (countEv t e q w s) := by
  unfold countEv
  split
  · exact .refl s
  · exact .of_same_dict rfl

theorem side_addLog (u a b c d e : Nat) (s : State) : Side s (addLog u a b c d e s) := by
  unfold addLog
  simp only
  split
  · unfold logDropped
    split
    · exact side_bump s (by decide) (by decide)
    · exact side_bump s (by decide) (by decide)
  · exact .of_same_dict rfl

theorem side_sendFrame (i : Nat) (d : List Nat) (s : State) : Side s (sendFrame i d s) := by
  unfold sendFrame
  split
  · exact .refl s
  · refine Side.trans (b := { s with out := { s.out with frames := s.out.frames ++ [⟨i, padFrame d⟩] } })
      (.of_same_dict rfl) ?_
    apply side_bump <;> decide

theorem side_sendEvent (u b : Nat) (s : State) : Side s (sendEvent u b s) := by
  unfold sendEvent
  split
  · exact .refl s
  · have h1 : Side s (bump dev Obj.eventsMerged 1 s) := side_bump s (by decide) (by decide)
    dsimp only
    (repeat' split) <;> first
      | exact h1
      | exact Side.trans (.of_same_dict rfl) (side_sendFrame _ _ _)

theorem side_ringSide (t i b : Nat) (s : State) : Side s (ringSide t i b s) := by
  unfold ringSide
  dsimp only
  split
  · exact Side.trans (.of_same_dict rfl) (side_countEv _ _ _ _ _)
  · exact .of_same_dict rfl

theorem side_ring (t b : Nat) (s : State) : Side s (ring t b s) :=
  ((side_ringSide t 0 b s).trans (side_ringSide t 1 b _)).trans (side_sendEvent t b _)

theorem side_ringHost (t b : Nat) (s : State) : Side s (ringHost t b s) := side_ringSide t 0 b s

/-- A fold of steps that keep `Side` keeps it. -/
theorem side_foldl {α : Type} (f : State → α → State) (hf : ∀ s a, Side s (f s a)) (l : List α) (s : State) :
    Side s (l.foldl f s) := by
  induction l generalizing s with
  | nil => exact .refl s
  | cons a l ih => exact (hf s a).trans (ih _)

theorem side_forTiles (f : Nat → State → State) (hf : ∀ t s, Side s (f t s)) (s : State) : Side s (forTiles f s) :=
  side_foldl _ (fun s t => hf t s) _ s

theorem side_forChans (f : Nat → State → State) (hf : ∀ t s, Side s (f t s)) (s : State) : Side s (forChans f s) :=
  side_foldl _ (fun s t => hf t s) _ s

theorem side_ringAll (b : Nat) (s : State) : Side s (ringAll b s) :=
  (side_forTiles _ (fun t s => (side_ringSide t 0 b s).trans (side_ringSide t 1 b _)) s).trans (side_sendEvent _ _ _)

theorem side_setPass (t p : Nat) (v : Pass) (s : State) : Side s (setPass t p v s) := .of_same_dict rfl

theorem side_ringPass (t b : Nat) (x : Pass) (s : State) : Side s (ringPass t b x s) := by
  unfold ringPass
  split
  · exact (side_ring t b s).trans (side_ring _ b _)
  · exact side_ring t b s

theorem side_riskPass (t p b : Nat) (s : State) : Side s (riskPass t p b s) := by
  unfold riskPass
  dsimp only
  split
  · exact .refl s
  · split
    · exact (((side_setPass t p _ s).trans (side_ringPass t 3 _ _)).trans (side_addLog _ _ _ _ _ _ _)).trans
        (side_bump _ (by decide) (by decide))
    · exact side_setPass t p _ s

theorem side_raiseCause (t b : Nat) (s : State) : Side s (raiseCause t b s) := by
  unfold raiseCause
  refine Side.trans (b := setObj t Obj.tileRiskCause (setBit (getObj s t Obj.tileRiskCause) b) s) ?_ ?_
  · exact side_setObj s (by decide) (by decide)
  · exact side_foldl _ (fun s (e : Nat × Pass) => side_riskPass t e.1 b s) _ _

theorem side_dropCause (t b : Nat) (s : State) : Side s (dropCause t b s) := by
  unfold dropCause
  split
  · refine Side.trans (b := setObj t Obj.tileRiskCause (clearBit (getObj s t Obj.tileRiskCause) b) s) ?_ ?_
    · exact side_setObj s (by decide) (by decide)
    · exact side_foldl _ (fun s (e : Nat × Pass) => side_setPass t e.1 _ s) _ _
  · exact .refl s

theorem side_setCause (t b : Nat) (on_ : Bool) (s : State) : Side s (setCause t b on_ s) := by
  unfold setCause
  split
  · split
    · exact .refl s
    · exact side_raiseCause t b s
  · exact side_dropCause t b s

theorem side_setForce (t p b : Nat) (on_ : Bool) (s : State) : Side s (setForce t p b on_ s) := by
  unfold setForce
  dsimp only
  split
  · exact .refl s
  · split
    · split
      · exact .refl s
      · exact (side_setPass t p _ s).trans (side_riskPass t p b _)
    · split
      · exact side_setPass t p _ s
      · exact .refl s

theorem side_pushRecord (a b c d : Nat) (s : State) : Side s (pushRecord a b c d s) := by
  unfold pushRecord
  dsimp only
  split
  · exact .refl s
  · split
    · exact side_addLog _ _ _ _ _ _ s
    · exact .of_same_dict rfl

theorem side_recordObj (u k v : Nat) (s : State) : Side s (recordObj u k v s) := by
  unfold recordObj
  split
  · exact side_pushRecord _ _ _ _ s
  · exact .refl s

theorem side_budget (l : Nat) (s : State) (h : 1 ≤ l ∧ l ≤ 8) : Side s (budget l s) := by
  unfold budget
  refine side_bump s ?_ ?_
  · show Obj.budgetEvents + (l - 1) < 2 ^ 24
    simp only [Obj.budgetEvents]; omega
  · obtain ⟨h1, h2⟩ := h
    rcases l with _ | _ | _ | _ | _ | _ | _ | _ | _ | l
    all_goals first | omega | rfl

theorem side_pushRepair (t a b c d : Nat) (s : State) : Side s (pushRepair t a b c d s) :=
  (side_pushRecord a b c d s).trans (side_bumpSat _ (by decide) (by decide))

/-- The object that a write of an RWS object stores reads back, and nothing but it and reporting changes. -/
theorem side_storeRws (u k v : Nat) (s : State) : Side (storeObj u k v s) (storeRws u k v s) :=
  side_recordObj u k v _

/-! ## Bookkeeping: the same with the counters and the gates, and with any object -/

/-- `s'` differs from `s` by objects, reporting, counting, the pass watch and the gates in force only. -/
def Books (s s' : State) : Prop := s' = { s with
  dict := s'.dict, door := s'.door, passes := s'.passes, tt := s'.tt, count := s'.count
  out := { s.out with frames := s'.out.frames }
  field := { s.field with events := s'.field.events }
  copy := { s.copy with queue := s'.copy.queue } }

theorem Books.refl (s : State) : Books s s := rfl

theorem Books.trans {a b c : State} (h : Books a b) (h' : Books b c) : Books a c := by
  unfold Books at *
  rw [h] at h'
  exact h'

theorem Side.books {s s' : State} (h : Side s s') : Books s s' := by
  unfold Books
  rw [h.fields]

theorem Books.time {s s' : State} (h : Books s s') : s'.time = s.time := by rw [h]

theorem Books.memory {s s' : State} (h : Books s s') :
    s'.dram = s.dram ∧ s'.layer = s.layer ∧ s'.slate = s.slate ∧ s'.inkwell = s.inkwell := by
  rw [h]; exact ⟨rfl, rfl, rfl, rfl⟩

theorem books_setObj (u k v : Nat) (s : State) : Books s (setObj u k v s) := rfl
theorem books_bump (u k n : Nat) (s : State) : Books s (bump u k n s) := rfl

theorem books_foldl {α : Type} (f : State → α → State) (hf : ∀ s a, Books s (f s a)) (l : List α) (s : State) :
    Books s (l.foldl f s) := by
  induction l generalizing s with
  | nil => exact .refl s
  | cons a l ih => exact (hf s a).trans (ih _)

theorem books_forTiles (f : Nat → State → State) (hf : ∀ t s, Books s (f t s)) (s : State) : Books s (forTiles f s) :=
  books_foldl _ (fun s t => hf t s) _ s

theorem books_ite (c : Prop) [Decidable c] {s a b : State} (ha : Books s a) (hb : Books s b) :
    Books s (if c then a else b) := by
  split
  · exact ha
  · exact hb

end Sys2Proof.Machine
end

