-- ==== Sys2Proof/Laws/Tick.lean ====
section
/-! SUPPORT. What a tick of the reference does beside moving the time: bookkeeping, and a step of the walks over
the SRAMs, which touches no word whose bits stand as they were stored. -/

namespace Sys2Proof.Machine

open Sys2Proof

theorem books_tickThermal (t : Nat) (s : State) : Books s (tickThermal t s) := by
  unfold tickThermal
  dsimp only
  have h1 : Books s (if (getSensor s t).u < 1000 then bump t Obj.thermalThrottleTime 10 s else s) :=
    books_ite _ (books_bump _ _ _ s) (.refl s)
  split
  · exact books_ite _ (h1.trans (books_bump _ _ _ _)) h1
  · exact h1

theorem books_tickArray (k : Nat) (s : State) : Books s (tickArray k s) :=
  books_ite _ (books_bump _ _ _ s) (.refl s)

theorem books_tickTimes (s : State) : Books s (tickTimes s) := by
  unfold tickTimes
  dsimp only
  have h1 : Books s (s.sensor.foldl (fun s e => tickThermal e.1 s) s) :=
    books_foldl _ (fun s (e : Nat × SensorS) => books_tickThermal e.1 s) _ s
  have h2 := h1.trans (books_foldl (fun s (e : Nat × ArrayS) => tickArray e.1 s)
    (fun s e => books_tickArray e.1 s) (s.sensor.foldl (fun s e => tickThermal e.1 s) s).array _)
  exact books_ite _ (h2.trans (books_bump _ _ _ _)) h2

theorem books_modTT (t : Nat) (f : TTState → TTState) (s : State) : Books s (modTT t f s) := rfl

theorem books_tickGate (t : Nat) (s : State) : Books s (tickGate t s) := by
  unfold tickGate
  dsimp only
  exact books_ite _ (.refl s) ((books_modTT _ _ _).trans (books_modTT _ _ _))

theorem books_tickGates (s : State) : Books s (tickGates s) :=
  books_foldl _ (fun s (e : Nat × TTState) => books_tickGate e.1 s) _ s

theorem books_takeBounds (tt : Nat → Option (List Nat)) (l : List (Nat × Nat × Pass)) (s : State) :
    Books s (takeBounds tt l s) := by
  unfold takeBounds
  exact (side_foldl _ (fun s (_ : Nat × Nat × Pass) => side_setPass _ _ _ s) _ _).books

theorem books_mapEvent (t a x st : Nat) (s : State) : Books s (mapEvent t a x st s) :=
  (books_setObj _ _ _ s).trans (side_addLog _ _ _ _ _ _ _).books

theorem books_finishRelease (t p : Nat) (s : State) : Books s (finishRelease t p s) := by
  unfold finishRelease takeAllBounds
  dsimp only
  exact books_ite _ ((side_setPass t p {} s).books.trans (books_takeBounds _ _ _)) (.refl s)

theorem books_tickPasses (s : State) : Books s (tickPasses s) :=
  books_foldl _ (fun s (_ : Nat × Pass) => books_finishRelease _ _ s) _ s

theorem books_tickManagement (n : Nat) (s : State) : Books s (tickManagement n s) :=
  books_ite _ (books_forTiles _ (fun _ s => books_setObj _ _ _ s) s) (.refl s)

theorem books_applyLoad (s : State) (x : Nat × Nat) : Books s (applyLoad s x) := by
  unfold applyLoad
  dsimp only
  split <;> rfl

theorem books_overflowed (u i : Nat) (s : State) : Books s (overflowed u i s) := by
  unfold overflowed
  dsimp only
  refine books_ite _ rfl (books_ite _ rfl ?_)
  exact (books_setObj u _ _ s).trans (side_ringHost _ _ _).books

theorem books_tickCounter (u n i : Nat) (evs : List EvCount) (carry : Nat) (s : State) :
    Books s (tickCounter u n i evs carry s).2 := by
  unfold tickCounter
  dsimp only
  (repeat' split) <;> first
    | rfl
    | exact (books_setObj u _ _ s).trans (books_overflowed _ _ _)

theorem books_tickUnit (u n : Nat) (evs : List EvCount) (s : State) : Books s (tickUnit u n evs s) := by
  unfold tickUnit
  generalize List.range n = l
  suffices h : ∀ (l : List Nat) (acc : Nat × State), Books s acc.2 →
      Books s (l.foldl (fun (acc : Nat × State) i => tickCounter u n i evs acc.1 acc.2) acc).2 from h l (0, s) (.refl s)
  intro l
  induction l with
  | nil => exact fun _ h => h
  | cons a l ih => exact fun acc h => ih _ (h.trans (books_tickCounter _ _ _ _ _ _))

theorem books_tickCounters (s : State) : Books s (tickCounters s) := by
  unfold tickCounters
  dsimp only
  have h1 : Books s (s.count.loads.foldl applyLoad { s with count := { s.count with loads := [] } }) :=
    Books.trans (b := { s with count := { s.count with loads := [] } }) rfl (books_foldl _ books_applyLoad _ _)
  generalize hx : s.count.loads.foldl applyLoad { s with count := { s.count with loads := [] } } = x at h1
  have h2 : Books s { x with count := { x.count with events := [] } } := h1.trans rfl
  exact books_ite _ h2 (h2.trans ((books_forTiles _ (fun t s => books_tickUnit t 8 _ s) _).trans
    (books_tickUnit _ _ _ _)))

theorem books_takeLog (u : Nat) (s : State) (e : LogEntry) : Books s (takeLog u s e) := by
  unfold takeLog
  dsimp only
  have hr : ∀ (b : Nat) (x : State), Books s x → Books s (ringHost (if u = dev then 0 else u) b x) :=
    fun b x h => h.trans (side_ringHost _ _ _).books
  have h2 : ∀ x : State, Books s x → ∀ k v, Books s (setObj u k v x) := fun x h k v => h.trans (books_setObj _ _ _ _)
  have h3 : ∀ x : State, Books s x → ∀ k v, Books s (bump u k v x) := fun x h k v => h.trans (books_bump _ _ _ _)
  have h1 : ∀ l, Books s { s with count := { s.count with logs := l } } := fun _ => rfl
  refine books_ite _ (hr _ _ (books_ite _ ?_ ?_)) (books_ite _ ?_ ?_) <;> first
    | exact h2 _ (h3 _ (h2 _ (h1 _) _ _) _ _) _ _
    | exact h2 _ (h1 _) _ _

theorem books_flushLogs (s : State) : Books s (flushLogs s) := by
  unfold flushLogs
  exact Books.trans (b := { s with count := { s.count with intake := [] } }) rfl
    (books_foldl _ (fun s (x : Nat × List LogEntry) => books_foldl _ (books_takeLog x.1) _ s) _ _)

/-! ## The walks over the SRAMs -/

/-- `s'` differs from `s` by bookkeeping and by SRAM words that were read; where every word stands as it was stored,
no word of the Slate, the Inkwells or the map's tables is touched. -/
structure Walked (s s' : State) : Prop where
  fields : s' = { s with
    dict := s'.dict, door := s'.door, passes := s'.passes, tt := s'.tt, count := s'.count
    out := { s.out with frames := s'.out.frames }
    field := { s.field with events := s'.field.events }
    copy := { s.copy with queue := s'.copy.queue }
    prot := s'.prot, sramErr := s'.sramErr, sramSeen := s'.sramSeen, sramOff := s'.sramOff, slate := s'.slate
    slatePois := s'.slatePois, inkwell := s'.inkwell }
  quiet : s.sramErr = [] →
    s'.sramErr = [] ∧ s'.slate = s.slate ∧ s'.slatePois = s.slatePois ∧ s'.inkwell = s.inkwell

theorem Books.walked {s s' : State} (h : Books s s') : Walked s s' := by
  have e := h
  unfold Books at e
  refine ⟨?_, fun hs => ?_⟩
  · rw [e]
  · rw [e]; exact ⟨hs, rfl, rfl, rfl⟩

theorem Side.walked {s s' : State} (h : Side s s') : Walked s s' := h.books.walked

theorem Walked.refl (s : State) : Walked s s := (Books.refl s).walked

theorem Walked.trans {a b c : State} (h : Walked a b) (h' : Walked b c) : Walked a c := by
  refine ⟨?_, fun hs => ?_⟩
  · have e := h'.fields
    rw [h.fields] at e
    exact e
  · obtain ⟨a1, a2, a3, a4⟩ := h.quiet hs
    obtain ⟨b1, b2, b3, b4⟩ := h'.quiet a1
    exact ⟨b1, b2.trans a2, b3.trans a3, b4.trans a4⟩

theorem Walked.after {a b c : State} (h' : Walked b c) (h : Walked a b) : Walked a c := h.trans h'

theorem walked_forTiles (f : Nat → State → State) (hf : ∀ t s, Walked s (f t s)) (s : State) : Walked s (forTiles f s) := by
  unfold forTiles
  generalize List.range 64 = l
  induction l generalizing s with
  | nil => exact .refl s
  | cons a l ih => exact (hf a s).trans (ih _)

/-- `s'` differs from `s` by reporting and by what finding an SRAM word changed touches. -/
def ReadWord (s s' : State) : Prop := s' = { s with
  dict := s'.dict, door := s'.door, passes := s'.passes, tt := s'.tt, count := s'.count
  out := { s.out with frames := s'.out.frames }
  field := { s.field with events := s'.field.events }
  copy := { s.copy with queue := s'.copy.queue }
  prot := s'.prot, sramErr := s'.sramErr, sramSeen := s'.sramSeen }

theorem ReadWord.trans {a b c : State} (h : ReadWord a b) (h' : ReadWord b c) : ReadWord a c := by
  unfold ReadWord at *
  rw [h] at h'
  exact h'

theorem Books.readWord {s s' : State} (h : Books s s') : ReadWord s s' := by
  unfold ReadWord
  rw [h]

theorem readWord_store (t k w : Nat) (s : State) : ReadWord s (sramStore t k w s) := rfl
theorem readWord_poison (t k w : Nat) (s : State) : ReadWord s (sramPoison t k w s) := rfl

theorem books_budget (l : Nat) (s : State) : Books s (budget l s) := rfl

theorem books_uncorrectable (t k w : Nat) (s : State) : Books s (sramUncorrectable t k w s) := by
  unfold sramUncorrectable
  refine Books.trans ?_ (books_budget _ _)
  refine Books.trans ?_ (side_addLog _ _ _ _ _ _ _).books
  exact (((books_bump _ _ _ s).trans (books_setObj _ _ _ _)).trans (books_setObj _ _ _ _)).trans (side_ring _ _ _).books

theorem readWord_countFindings (t n : Nat) (s : State) : ReadWord s (countFindings t n s) := by
  have h : ∀ f, ReadWord s (modProt t f s) := fun _ => rfl
  unfold countFindings
  dsimp only
  (repeat' split) <;> first
    | exact h _
    | exact ReadWord.trans (h _) ((side_ring _ _ _).books.trans
        ((books_setObj _ _ _ _).trans (side_addLog _ _ _ _ _ _ _).books)).readWord

theorem readWord_corrected (t k w i : Nat) (s : State) : ReadWord s (sramCorrected t k w i s) := by
  have h : ∀ m, ReadWord s { s with sramSeen := m } := fun _ => rfl
  have h1 := fun m => ((h m).trans (books_bump t Obj.sramCorrected 1 _).readWord).trans (readWord_countFindings t 1 _)
  unfold sramCorrected
  dsimp only
  split
  · exact (h1 _).trans ((side_addLog _ _ _ _ _ _ _).trans (side_ring _ _ _)).books.readWord
  · exact h1 _

theorem readWord_read (t k w : Nat) (pois : Bool) (s : State) : ReadWord s (sramRead t k w pois s) := by
  unfold sramRead
  dsimp only
  (repeat' split) <;> first
    | exact Books.readWord rfl
    | exact readWord_store _ _ _ _
    | exact readWord_poison _ _ _ _
    | exact (readWord_store _ _ _ _).trans (readWord_corrected _ _ _ _ _)
    | exact (readWord_poison _ _ _ _).trans (books_uncorrectable _ _ _ _).readWord

/-- The same with the data of the Slate and of the Inkwells, as a read delivers them. -/
def ReadSram (s s' : State) : Prop := s' = { s with
  dict := s'.dict, door := s'.door, passes := s'.passes, tt := s'.tt, count := s'.count
  out := { s.out with frames := s'.out.frames }
  field := { s.field with events := s'.field.events }
  copy := { s.copy with queue := s'.copy.queue }
  prot := s'.prot, sramErr := s'.sramErr, sramSeen := s'.sramSeen, slate := s'.slate
  slatePois := s'.slatePois, inkwell := s'.inkwell }

theorem ReadSram.refl (s : State) : ReadSram s s := rfl

theorem ReadSram.trans {a b c : State} (h : ReadSram a b) (h' : ReadSram b c) : ReadSram a c := by
  unfold ReadSram at *
  rw [h] at h'
  exact h'

theorem ReadWord.readSram {s s' : State} (h : ReadWord s s') : ReadSram s s' := by
  unfold ReadSram
  rw [h]

theorem Books.readSram {s s' : State} (h : Books s s') : ReadSram s s' := h.readWord.readSram

theorem readSram_ite (c : Prop) [Decidable c] {s a b : State} (ha : ReadSram s a) (hb : ReadSram s b) :
    ReadSram s (if c then a else b) := by
  split
  · exact ha
  · exact hb

theorem readSram_read (t k w : Nat) (pois : Bool) (s : State) : ReadSram s (sramRead t k w pois s) :=
  (readWord_read t k w pois s).readSram

theorem readSram_slate (t w : Nat) (s : State) : ReadSram s (slateReadWord t w s) := by
  have h : ∀ x, ReadSram s x → ∀ a b, ReadSram s { x with slate := a, slatePois := b } := fun x h _ _ => h.trans rfl
  unfold slateReadWord
  dsimp only
  (repeat' split) <;> exact h _ (readSram_read _ _ _ _ s) _ _

theorem readSram_ink (t w : Nat) (s : State) : ReadSram s (inkReadWord t w s) := by
  unfold inkReadWord
  dsimp only
  split
  · exact readSram_read _ _ _ _ s
  · exact (readSram_read _ _ _ _ s).trans rfl

theorem readSram_mapWords (t x : Nat) (l : List Nat) (s : State) : ReadSram s (mapWords t x l s).2 := by
  induction l generalizing s with
  | nil => exact .refl s
  | cons w r ih =>
    unfold mapWords
    split
    · refine ReadSram.trans ?_ (readSram_read _ _ _ _ _)
      exact ((books_bump t Obj.mapUncorrectable 1 s).trans
        ((books_mapEvent _ _ _ _ _).trans (side_ring _ _ _).books)).readSram
    · split
      · exact .refl s
      · exact (readSram_read _ _ _ _ _).trans (ih _)

theorem readSram_walkWord (t w : Nat) (s : State) : ReadSram s (walkWord t w s) := by
  unfold walkWord
  dsimp only
  refine ReadSram.trans ?_ (readSram_read _ _ _ _ _)
  have h1 := readSram_ite (fget 0 s.sramErr (sramKey t sramSlate w) = 0) (.refl s) (readSram_slate t w s)
  generalize (if fget 0 s.sramErr (sramKey t sramSlate w) = 0 then s else slateReadWord t w s) = x at h1
  have h2 := h1.trans (readSram_ite (w < 131072 ∧ inkOpen x t (w / 32768) (w / 64 % 512) = true)
    (readSram_ite (fget 0 x.sramErr (sramKey t sramInkwell w) = 0) (.refl x) (readSram_ink t w x)) (.refl x))
  exact h2.trans (readSram_ite _ (readSram_mapWords _ _ _ _) (.refl _))

theorem walked_walkTick (t : Nat) (s : State) : Walked s (walkTick t s) := by
  unfold walkTick
  dsimp only
  split
  · exact ⟨rfl, fun h => ⟨h, rfl, rfl, rfl⟩⟩
  · have h1 : Walked s (if s.sramErr = [] then s else walkWord t (walkPlace s t % walkLap) s) := by
      split
      · exact .refl s
      · rename_i hn
        refine ⟨?_, fun h => absurd h hn⟩
        have e := readSram_walkWord t (walkPlace s t % walkLap) s
        unfold ReadSram at e
        rw [e]
    split
    · exact h1.trans (books_setObj _ _ _ _).walked
    · exact h1

/-! ## The tick -/

/-- The state at the new time, before what happens at the tick. -/
def ticked (s : State) : State :=
  { s with time := { s.time with
      timeBase := (match s.time.setPending with
        | some n => 10 * n
        | none => if s.time.timeBase ≥ lastTick then 0 else s.time.timeBase + 10)
      elapsed := s.time.elapsed + 10, setPending := none } }

/-- A tick moves the time by 10 ns, or to the value loaded, and does bookkeeping and a step of the walks else. -/
theorem timeTick_spec (s : State) : Walked (ticked s) (timeTick s) := by
  unfold timeTick
  dsimp only
  have h0 : ∀ m, Walked (ticked s) { ticked s with tt := m } := fun m => (show Books (ticked s) { ticked s with tt := m } from rfl).walked
  generalize hx : (if s.time.setPending.isSome then _ else _ : State) = x
  have h1 : Walked (ticked s) x := by
    subst hx
    split
    · exact h0 _
    · exact .refl _
  have h2 := h1.trans (((books_tickManagement s.time.elapsed x).trans (books_tickGates _)).trans
    ((books_tickPasses _).trans (books_tickTimes _))).walked
  exact (h2.trans (walked_forTiles _ walked_walkTick _)).trans ((books_tickCounters _).trans (books_flushLogs _)).walked

theorem timeTick_elapsed (s : State) : (timeTick s).time.elapsed = s.time.elapsed + 10 :=
  by rw [(timeTick_spec s).fields]; rfl

theorem timeTick_setPending (s : State) : (timeTick s).time.setPending = none :=
  by rw [(timeTick_spec s).fields]; rfl

theorem timeTick_timeBase (s : State) : (timeTick s).time.timeBase = match s.time.setPending with
    | some n => 10 * n
    | none => if s.time.timeBase ≥ lastTick then 0 else s.time.timeBase + 10 :=
  by rw [(timeTick_spec s).fields]; rfl

/-- The words of the stack stay as they are at a tick. -/
theorem timeTick_stack (s : State) : (timeTick s).dram = s.dram ∧ (timeTick s).layer = s.layer := by
  rw [(timeTick_spec s).fields]; exact ⟨rfl, rfl⟩

end Sys2Proof.Machine
end

