-- ==== Sys2Proof/Laws/Exec.lean ====
section
/-! SUPPORT. Each command as an effect: what `exec` of it unfolds to, once for all later proofs. -/

namespace Sys2Proof.Machine

open Sys2Proof

theorem exec_timeBaseTick (s : State) :
    exec (.timeBaseTick) s = runTime timeTick s := rfl
theorem exec_timeBaseSet (v : BitVec 64) (s : State) :
    exec (.timeBaseSet v) s = run (writeTimeBase v.toNat) s := rfl
theorem exec_referenceLost (s : State) :
    exec (.referenceLost) s = run referenceLost s := rfl
theorem exec_referenceReturn (s : State) :
    exec (.referenceReturn) s = run referenceReturn s := rfl
theorem exec_speedWindowEnd (t : TileN) (counts : List Nat) (s : State) :
    exec (.speedWindowEnd t counts) s = run (speedWindow t.val counts) s := rfl
theorem exec_speedLowWaterClear (t : TileN) (v : BitVec 8) (s : State) :
    exec (.speedLowWaterClear t v) s = run (boolCommand v.toNat (fun s => setObj t.val Obj.speedLowWater (getObj s t.val Obj.speedIndex) s)) s := rfl
theorem exec_guaranteeFloorWrite (t : TileN) (v : BitVec 16) (s : State) :
    exec (.guaranteeFloorWrite t v) s = run (writeFloor t.val v.toNat) s := rfl
theorem exec_meshHopCostWrite (t : TileN) (v : BitVec 16) (s : State) :
    exec (.meshHopCostWrite t v) s = run (writeHopCost t.val v.toNat) s := rfl
theorem exec_act (t : TileN) (c : ChanN) (w : BitVec 20) (s : State) :
    exec (.act t c w) s = run (layerTake t.val c.val w.toNat none []) s := rfl
theorem exec_rd (t : TileN) (c : ChanN) (w : BitVec 20) (s : State) :
    exec (.rd t c w) s = run (layerTake t.val c.val w.toNat none []) s := rfl
theorem exec_wr (t : TileN) (c : ChanN) (w : BitVec 20) (beats : List (BitVec 144)) (s : State) :
    exec (.wr t c w beats) s = run (layerTake t.val c.val w.toNat none (beats.map BitVec.toNat)) s := rfl
theorem exec_pre (t : TileN) (c : ChanN) (w : BitVec 20) (s : State) :
    exec (.pre t c w) s = run (layerTake t.val c.val w.toNat none []) s := rfl
theorem exec_prea (t : TileN) (c : ChanN) (w : BitVec 20) (s : State) :
    exec (.prea t c w) s = run (layerTake t.val c.val w.toNat none []) s := rfl
theorem exec_ref (t : TileN) (c : ChanN) (w : BitVec 20) (s : State) :
    exec (.ref t c w) s = run (layerTake t.val c.val w.toNat none []) s := rfl
theorem exec_rcopy (t : TileN) (c : ChanN) (w arg : BitVec 20) (s : State) :
    exec (.rcopy t c w arg) s = run (layerTake t.val c.val w.toNat (some arg.toNat) []) s := rfl
theorem exec_rfill (t : TileN) (c : ChanN) (w arg : BitVec 20) (s : State) :
    exec (.rfill t c w arg) s = run (layerTake t.val c.val w.toNat (some arg.toNat) []) s := rfl
theorem exec_mrw (t : TileN) (c : ChanN) (w : BitVec 20) (v : BitVec 64) (s : State) :
    exec (.mrw t c w v) s = run (layerTake t.val c.val w.toNat none [v.toNat]) s := rfl
theorem exec_mrr (t : TileN) (c : ChanN) (w : BitVec 20) (s : State) :
    exec (.mrr t c w) s = run (layerTake t.val c.val w.toNat none []) s := rfl
theorem exec_trw (t : TileN) (c : ChanN) (w : BitVec 20) (s : State) :
    exec (.trw t c w) s = run (layerTake t.val c.val w.toNat none []) s := rfl
theorem exec_trr (t : TileN) (c : ChanN) (w : BitVec 20) (s : State) :
    exec (.trr t c w) s = run (layerTake t.val c.val w.toNat none []) s := rfl
theorem exec_doneReport (t : TileN) (c : ChanN) (count : BitVec 8) (s : State) :
    exec (.doneReport t c count) s = run (fun s => quietStep t.val c.val <| recessStep t.val c.val (doneReport t.val c.val count.toNat s)) s := rfl
theorem exec_readDataArrival (t : TileN) (c : ChanN) (s : State) :
    exec (.readDataArrival t c) s = run (fun s => quietStep t.val c.val <| recessStep t.val c.val (readArrival t.val c.val s)) s := rfl
theorem exec_migrationComplete (t : TileN) (c : ChanN) (s : State) :
    exec (.migrationComplete t c) s = run (migrationComplete t.val c.val) s := rfl
theorem exec_watchEntryExpiry (t : TileN) (slot : Fin 512) (s : State) :
    exec (.watchEntryExpiry t slot) s = run (watchExpiry t.val slot.val) s := rfl
theorem exec_retireRow (t : TileN) (v : BitVec 64) (s : State) :
    exec (.retireRow t v) s = run (retireCommand t.val v.toNat) s := rfl
theorem exec_errorInjectFlipOne (t : TileN) (v : BitVec 128) (s : State) :
    exec (.errorInjectFlipOne t v) s = run (injectWrite t.val (withKind v.toNat 1)) s := rfl
theorem exec_errorInjectFlipTwo (t : TileN) (v : BitVec 128) (s : State) :
    exec (.errorInjectFlipTwo t v) s = run (injectWrite t.val (withKind v.toNat 2)) s := rfl
theorem exec_errorInjectPoison (t : TileN) (v : BitVec 128) (s : State) :
    exec (.errorInjectPoison t v) s = run (injectWrite t.val (withKind v.toNat 3)) s := rfl
theorem exec_repairModeWrite (t : TileN) (v : BitVec 8) (s : State) :
    exec (.repairModeWrite t v) s = run (writeRepairMode t.val v.toNat) s := rfl
theorem exec_blotterAccess (t : TileN) (c : ChanN) (s : State) :
    exec (.blotterAccess t c) s = run (blotterAccess t.val c.val) s := rfl
theorem exec_scrubOverdue (t : TileN) (c : ChanN) (s : State) :
    exec (.scrubOverdue t c) s = run (scrubOverdue t.val c.val) s := rfl
theorem exec_fillPatternWrite (t : TileN) (v : BitVec 64) (s : State) :
    exec (.fillPatternWrite t v) s = run (writeFillPattern t.val v.toNat) s := rfl
theorem exec_translateAddress (t : TileN) (v : BitVec 64) (s : State) :
    exec (.translateAddress t v) s = run (writeTranslate t.val v.toNat) s := rfl
theorem exec_untranslateRequest (t : TileN) (v : BitVec 64) (s : State) :
    exec (.untranslateRequest t v) s = run (writeUntranslate t.val v.toNat) s := rfl
theorem exec_channelDisableWrite (t : TileN) (c : ChanN) (v : BitVec 8) (s : State) :
    exec (.channelDisableWrite t c v) s = run (writeChannelDisable t.val c.val v.toNat) s := rfl
theorem exec_requestBeat (t : TileN) (src : Sys2Proof.Side) (hdr : Bool) (beat : BitVec 512) (poison : Bool) (s : State) :
    exec (.requestBeat t src hdr beat poison) s = run (requestBeat t.val src hdr beat.toNat poison) s := rfl
theorem exec_requestAccept (t : TileN) (src : Sys2Proof.Side) (hdr : Bool) (beat : BitVec 512) (poison : Bool) (s : State) :
    exec (.requestAccept t src hdr beat poison) s = run (requestAccept t.val src hdr beat.toNat poison) s := rfl
theorem exec_ingressStallRelease (t : TileN) (q : BitVec 8) (passFifo : Bool) (s : State) :
    exec (.ingressStallRelease t q passFifo) s = run (stallRelease t.val q.toNat passFifo) s := rfl
theorem exec_deferredWorkEntry (t : TileN) (c : ChanN) (write : Bool) (s : State) :
    exec (.deferredWorkEntry t c write) s = run (deferredEntry t.val c.val write) s := rfl
theorem exec_barrierRelease (t : TileN) (q : BitVec 8) (s : State) :
    exec (.barrierRelease t q) s = run (barrierRelease t.val q.toNat) s := rfl
theorem exec_farRequestArrival (t src : TileN) (s : State) :
    exec (.farRequestArrival t src) s = run (farRequest t.val src.val) s := rfl
theorem exec_farResponseArrival (t owner : TileN) (s : State) :
    exec (.farResponseArrival t owner) s = run (fun s => mapReplies t.val (farResponse t.val owner.val s)) s := rfl
theorem exec_channelPick (t : TileN) (c : ChanN) (s : State) :
    exec (.channelPick t c) s = run (channelPick t.val c.val) s := rfl
theorem exec_openRowIdlePrecharge (t : TileN) (c : ChanN) (b : BankN) (s : State) :
    exec (.openRowIdlePrecharge t c b) s = run (idlePrecharge t.val c.val b.val) s := rfl
theorem exec_mergeHoldFlush (t : TileN) (slot : Fin 32) (s : State) :
    exec (.mergeHoldFlush t slot) s = run (mergeHoldFlush t.val slot.val) s := rfl
theorem exec_responseOffer (t : TileN) (id : Nat) (s : State) :
    exec (.responseOffer t id) s = run (fun s => mapReplies t.val (offerResponse t.val id s)) s := rfl
theorem exec_mergeEnableWrite (t : TileN) (v : BitVec 8) (s : State) :
    exec (.mergeEnableWrite t v) s = run (writeMergeEnable t.val v.toNat) s := rfl
theorem exec_mergeHoldLimitWrite (t : TileN) (v : BitVec 16) (s : State) :
    exec (.mergeHoldLimitWrite t v) s = run (writeHoldLimit t.val v.toNat) s := rfl
theorem exec_classQuantumWrite (t : TileN) (k : Fin 8) (v : BitVec 32) (s : State) :
    exec (.classQuantumWrite t k v) s = run (writeQuantum t.val k.val v.toNat) s := rfl
theorem exec_requestOverheadWrite (t : TileN) (v : BitVec 16) (s : State) :
    exec (.requestOverheadWrite t v) s = run (writeOverhead t.val v.toNat) s := rfl
theorem exec_passReserveWrite (t : TileN) (write : Bool) (v : BitVec 8) (s : State) :
    exec (.passReserveWrite t write v) s = run (writeReserve t.val write v.toNat) s := rfl
theorem exec_passRequest (t : TileN) (contract : BitVec 512) (s : State) :
    exec (.passRequest t contract) s = run (requestPass t.val 0 contract.toNat 0) s := rfl
theorem exec_passProbe (t : TileN) (contract : BitVec 512) (s : State) :
    exec (.passProbe t contract) s = run (requestPass t.val 1 contract.toNat 0) s := rfl
theorem exec_passRelease (t : TileN) (v : BitVec 8) (s : State) :
    exec (.passRelease t v) s = run (releasePass t.val v.toNat) s := rfl
theorem exec_passRegrant (t : TileN) (v : BitVec 8) (s : State) :
    exec (.passRegrant t v) s = run (regrantPass t.val v.toNat) s := rfl
theorem exec_passReturnLive (t : TileN) (p : BitVec 8) (s : State) :
    exec (.passReturnLive t p) s = run (returnLive t.val p.toNat) s := rfl
theorem exec_passBandWrite (t : TileN) (v : BitVec 8) (s : State) :
    exec (.passBandWrite t v) s = run (writePassBand t.val v.toNat) s := rfl
theorem exec_rangeRegisterWrite (t : TileN) (i : Fin 16) (v : BitVec 128) (s : State) :
    exec (.rangeRegisterWrite t i v) s = run (writeRange16 t.val i.val v.toNat) s := rfl
theorem exec_rangeDefaultWrite (t : TileN) (v : BitVec 8) (s : State) :
    exec (.rangeDefaultWrite t v) s = run (writeRangeDefault t.val v.toNat) s := rfl
theorem exec_regulationModeWrite (t : TileN) (v : BitVec 8) (s : State) :
    exec (.regulationModeWrite t v) s = run (writePlainRws t.val Obj.regulationMode v.toNat) s := rfl
theorem exec_queueSample (t : TileN) (s : State) :
    exec (.queueSample t) s = run (sampleQueues t.val) s := rfl
theorem exec_sampleClear (t : TileN) (v : BitVec 8) (s : State) :
    exec (.sampleClear t v) s = run (boolCommand v.toNat (fun s => { s with sampleClear := fset false s.sampleClear t.val true })) s := rfl
theorem exec_timetableCommit (t : TileN) (v : BitVec 8) (s : State) :
    exec (.timetableCommit t v) s = run (boolCommand v.toNat (commitTT t.val)) s := rfl
theorem exec_timetableStart (t : TileN) (s : State) :
    exec (.timetableStart t) s = run (startTT t.val) s := rfl
theorem exec_gateChange (t : TileN) (s : State) :
    exec (.gateChange t) s = run (gateChange t.val) s := rfl
theorem exec_timetableEnableWrite (t : TileN) (v : BitVec 8) (s : State) :
    exec (.timetableEnableWrite t v) s = run (writeTTEnable t.val v.toNat) s := rfl
theorem exec_tokenGrant (t : TileN) (target : Fin 58) (s : State) :
    exec (.tokenGrant t target) s = run (grantToken t.val target.val) s := rfl
theorem exec_engineTailWrite (t : TileN) (e : EngineN) (v : BitVec 32) (s : State) :
    exec (.engineTailWrite t e v) s = run (writeTail t.val e.val v.toNat) s := rfl
theorem exec_engineEnableWrite (t : TileN) (e : EngineN) (v : BitVec 8) (s : State) :
    exec (.engineEnableWrite t e v) s = run (writeEnable t.val e.val v.toNat) s := rfl
theorem exec_engineQueueConfigWrite (t : TileN) (e : EngineN) (size : Bool) (v : BitVec 64) (s : State) :
    exec (.engineQueueConfigWrite t e size v) s = run (writeQueueConfig t.val e.val size v.toNat) s := rfl
theorem exec_descriptorFetch (t : TileN) (e : EngineN) (s : State) :
    exec (.descriptorFetch t e) s = run (descriptorFetch t.val e.val) s := rfl
theorem exec_loadw (t : TileN) (e : EngineN) (s : State) :
    exec (.loadw t e) s = run (loadw t.val e.val) s := rfl
theorem exec_stream (t : TileN) (e : EngineN) (s : State) :
    exec (.stream t e) s = run (issueDesc t.val e.val (fun r => dOp r = 2 ∧ stInit r ≠ 3) (streamStart t.val e.val)) s := rfl
theorem exec_streamResume (t : TileN) (e : EngineN) (s : State) :
    exec (.streamResume t e) s = run (streamResume t.val e.val) s := rfl
theorem exec_drain (t : TileN) (e : EngineN) (fault : Option (Fin 128)) (s : State) :
    exec (.drain t e fault) s = run (drain t.val e.val (fault.map Fin.val)) s := rfl
theorem exec_exp (t : TileN) (e : EngineN) (faults : List (BitVec 8)) (s : State) :
    exec (.exp t e faults) s = run (vop t.val e.val 1 faults) s := rfl
theorem exec_exp2 (t : TileN) (e : EngineN) (faults : List (BitVec 8)) (s : State) :
    exec (.exp2 t e faults) s = run (vop t.val e.val 2 faults) s := rfl
theorem exec_max (t : TileN) (e : EngineN) (faults : List (BitVec 8)) (s : State) :
    exec (.max t e faults) s = run (vop t.val e.val 3 faults) s := rfl
theorem exec_max2 (t : TileN) (e : EngineN) (faults : List (BitVec 8)) (s : State) :
    exec (.max2 t e faults) s = run (vop t.val e.val 4 faults) s := rfl
theorem exec_sum (t : TileN) (e : EngineN) (faults : List (BitVec 8)) (s : State) :
    exec (.sum t e faults) s = run (vop t.val e.val 5 faults) s := rfl
theorem exec_scale (t : TileN) (e : EngineN) (faults : List (BitVec 8)) (s : State) :
    exec (.scale t e faults) s = run (vop t.val e.val 6 faults) s := rfl
theorem exec_topk (t : TileN) (e : EngineN) (faults : List (BitVec 8)) (s : State) :
    exec (.topk t e faults) s = run (vop t.val e.val 7 faults) s := rfl
theorem exec_smacc (t : TileN) (e : EngineN) (faults : List (BitVec 8)) (s : State) :
    exec (.smacc t e faults) s = run (vop t.val e.val 8 faults) s := rfl
theorem exec_smfin (t : TileN) (e : EngineN) (faults : List (BitVec 8)) (s : State) :
    exec (.smfin t e faults) s = run (vop t.val e.val 9 faults) s := rfl
theorem exec_gather (t : TileN) (e : EngineN) (s : State) :
    exec (.gather t e) s = run (transfer t.val e.val (fun r => dOp r = 5)) s := rfl
theorem exec_copy (t : TileN) (e : EngineN) (s : State) :
    exec (.copy t e) s = run (transfer t.val e.val (fun r => dOp r = 6)) s := rfl
theorem exec_convert (t : TileN) (e : EngineN) (s : State) :
    exec (.convert t e) s = run (convert t.val e.val 0) s := rfl
theorem exec_convertSplit (t : TileN) (e : EngineN) (s : State) :
    exec (.convertSplit t e) s = run (convert t.val e.val 1) s := rfl
theorem exec_convertPairAdd (t : TileN) (e : EngineN) (s : State) :
    exec (.convertPairAdd t e) s = run (convert t.val e.val 2) s := rfl
theorem exec_convertPairSubtract (t : TileN) (e : EngineN) (s : State) :
    exec (.convertPairSubtract t e) s = run (convert t.val e.val 3) s := rfl
theorem exec_fence (t : TileN) (e : EngineN) (s : State) :
    exec (.fence t e) s = run (fence t.val e.val) s := rfl
theorem exec_wait (t : TileN) (e : EngineN) (s : State) :
    exec (.wait t e) s = run (waitIssue t.val e.val) s := rfl
theorem exec_waitTimeout (t : TileN) (e : EngineN) (s : State) :
    exec (.waitTimeout t e) s = run (waitTimeout t.val e.val) s := rfl
theorem exec_signalAdd (t : TileN) (e : EngineN) (s : State) :
    exec (.signalAdd t e) s = run (signalIssue t.val e.val 0) s := rfl
theorem exec_signalSet (t : TileN) (e : EngineN) (s : State) :
    exec (.signalSet t e) s = run (signalIssue t.val e.val 1) s := rfl
theorem exec_signalRemoteApply (t : TileN) (s : State) :
    exec (.signalRemoteApply t) s = run (signalApply t.val) s := rfl
theorem exec_semaphoreWrite (t : TileN) (i : Fin 64) (v : BitVec 32) (s : State) :
    exec (.semaphoreWrite t i v) s = run (writeSemaphore t.val i.val v.toNat) s := rfl
theorem exec_hint (t : TileN) (e : EngineN) (s : State) :
    exec (.hint t e) s =
    run (issueDesc t.val e.val (fun r => dOp r = 0xB) (fun d s =>
      some (ends stOk d, addHint t.val (hiKind d.raw) (hiLevel d.raw) (hiLead d.raw * 1000) (hiLength d.raw * 1000) s))) s := rfl
theorem exec_hintLoadNotice (t : TileN) (i : Fin 8) (s : State) :
    exec (.hintLoadNotice t i) s = run (hintNotice t.val i.val) s := rfl
theorem exec_preemptYieldPoint (t : TileN) (e : EngineN) (s : State) :
    exec (.preemptYieldPoint t e) s = run (yieldPoint t.val e.val) s := rfl
theorem exec_preemptRequestPoint (t : TileN) (e : EngineN) (s : State) :
    exec (.preemptRequestPoint t e) s = run (requestPoint t.val e.val) s := rfl
theorem exec_preemptRequest (t : TileN) (v : BitVec 8) (s : State) :
    exec (.preemptRequest t v) s = run (writePreempt t.val v.toNat) s := rfl
theorem exec_preemptSaveDone (t : TileN) (a : ArrayN) (s : State) :
    exec (.preemptSaveDone t a) s = run (preemptSaveDone t.val a.val) s := rfl
theorem exec_engineYield (t : TileN) (e : EngineN) (v : BitVec 8) (s : State) :
    exec (.engineYield t e v) s = run (writeYield t.val e.val v.toNat) s := rfl
theorem exec_arrayStep (t : TileN) (a : ArrayN) (fault : Option (BitVec 8 × Fin 128)) (s : State) :
    exec (.arrayStep t a fault) s = run (arrayStep t.val a.val (fault.map (fun f => (f.1.toNat, f.2.val)))) s := rfl
theorem exec_arrayUnfence (t : TileN) (a : ArrayN) (v : BitVec 8) (s : State) :
    exec (.arrayUnfence t a v) s = run (writeUnfence t.val a.val v.toNat) s := rfl
theorem exec_saveAreaBaseWrite (t : TileN) (a : ArrayN) (v : BitVec 32) (s : State) :
    exec (.saveAreaBaseWrite t a v) s = run (writeSaveBase t.val a.val v.toNat) s := rfl
theorem exec_descriptorComplete (t : TileN) (e : EngineN) (s : State) :
    exec (.descriptorComplete t e) s = run (descriptorComplete t.val e.val) s := rfl
theorem exec_completionConsumedWrite (t : TileN) (e : EngineN) (v : BitVec 32) (s : State) :
    exec (.completionConsumedWrite t e v) s = run (writeConsumed t.val e.val v.toNat) s := rfl
theorem exec_moverRequestResponse (t : TileN) (m : MoverN) (status : BitVec 8) (offset : BitVec 24) (hint : BitVec 32)
    (s : State) : exec (.moverRequestResponse t m status offset hint) s =
      run (moverResponse t.val m.val (replyNamed s t.val m.val status.toNat offset.toNat hint.toNat)) s := rfl
theorem exec_moverRetryResend (t : TileN) (m : MoverN) (s : State) :
    exec (.moverRetryResend t m) s = run (retryResend t.val m.val) s := rfl
theorem exec_engineResumeContinue (t : TileN) (e : EngineN) (s : State) :
    exec (.engineResumeContinue t e) s = run (writeResume t.val e.val 1) s := rfl
theorem exec_engineResumeRerun (t : TileN) (e : EngineN) (s : State) :
    exec (.engineResumeRerun t e) s = run (writeResume t.val e.val 2) s := rfl
theorem exec_engineResumeSaveArea (t : TileN) (e : EngineN) (s : State) :
    exec (.engineResumeSaveArea t e) s = run (writeResume t.val e.val 3) s := rfl
theorem exec_engineResumeAbort (t : TileN) (e : EngineN) (s : State) :
    exec (.engineResumeAbort t e) s = run (writeResume t.val e.val 4) s := rfl
theorem exec_engineResumeReplace (t : TileN) (e : EngineN) (s : State) :
    exec (.engineResumeReplace t e) s = run (writeResume t.val e.val 5) s := rfl
theorem exec_resolution (t : TileN) (q : BitVec 8) (addr : BitVec 48) (len : BitVec 12) (write : Bool)
    (data : List Byte) (s : State) : exec (.resolution t q addr len write data) s =
      run (resolution t.val q.toNat (mapNamed s t.val addr.toNat len.toNat write (byteNats data))) s := rfl
theorem exec_copyOnWriteComplete (t : TileN) (entry : BitVec 16) (s : State) :
    exec (.copyOnWriteComplete t entry) s = run (cowComplete t.val entry.toNat) s := rfl
theorem exec_forwardedResolution (t src : TileN) (s : State) :
    exec (.forwardedResolution t src) s = run (forwardedResolution t.val src.val) s := rfl
theorem exec_fillComplete (t : TileN) (entry : BitVec 16) (status : BitVec 8) (data : List Byte) (s : State) :
    exec (.fillComplete t entry status data) s = run (fillComplete t.val entry.toNat status.toNat (byteNats data)) s := rfl
theorem exec_spillComplete (t : TileN) (entry : BitVec 16) (status : BitVec 8) (s : State) :
    exec (.spillComplete t entry status) s = run (spillComplete t.val entry.toNat status.toNat) s := rfl
theorem exec_nextLevelTimeout (t : TileN) (entry : BitVec 16) (s : State) :
    exec (.nextLevelTimeout t entry) s = run (nextLevelTimeout t.val entry.toNat) s := rfl
theorem exec_blockClearComplete (t : TileN) (block : BitVec 16) (s : State) :
    exec (.blockClearComplete t block) s = run (clearComplete t.val block.toNat) s := rfl
theorem exec_alloc (t : TileN) (v : BitVec 256) (s : State) :
    exec (.alloc t v) s = run (writeMapCommand t.val (withMapOp v 0x01)) s := rfl
theorem exec_share (t : TileN) (v : BitVec 256) (s : State) :
    exec (.share t v) s = run (writeMapCommand t.val (withMapOp v 0x02)) s := rfl
theorem exec_release (t : TileN) (v : BitVec 256) (s : State) :
    exec (.release t v) s = run (writeMapCommand t.val (withMapOp v 0x03)) s := rfl
theorem exec_pin (t : TileN) (v : BitVec 256) (s : State) :
    exec (.pin t v) s = run (writeMapCommand t.val (withMapOp v 0x04)) s := rfl
theorem exec_unpin (t : TileN) (v : BitVec 256) (s : State) :
    exec (.unpin t v) s = run (writeMapCommand t.val (withMapOp v 0x05)) s := rfl
theorem exec_farmap (t : TileN) (v : BitVec 256) (s : State) :
    exec (.farmap t v) s = run (writeMapCommand t.val (withMapOp v 0x06)) s := rfl
theorem exec_sethome (t : TileN) (v : BitVec 256) (s : State) :
    exec (.sethome t v) s = run (writeMapCommand t.val (withMapOp v 0x07)) s := rfl
theorem exec_spill (t : TileN) (v : BitVec 256) (s : State) :
    exec (.spill t v) s = run (writeMapCommand t.val (withMapOp v 0x08)) s := rfl
theorem exec_publish (t : TileN) (v : BitVec 256) (s : State) :
    exec (.publish t v) s = run (writeMapCommand t.val (withMapOp v 0x09)) s := rfl
theorem exec_unpublish (t : TileN) (v : BitVec 256) (s : State) :
    exec (.unpublish t v) s = run (writeMapCommand t.val (withMapOp v 0x0A)) s := rfl
theorem exec_lookup (t : TileN) (v : BitVec 256) (s : State) :
    exec (.lookup t v) s = run (writeMapCommand t.val (withMapOp v 0x0B)) s := rfl
theorem exec_adopt (t : TileN) (v : BitVec 256) (s : State) :
    exec (.adopt t v) s = run (writeMapCommand t.val (withMapOp v 0x0C)) s := rfl
theorem exec_adoptlist (t : TileN) (v : BitVec 256) (s : State) :
    exec (.adoptlist t v) s = run (writeMapCommand t.val (withMapOp v 0x0D)) s := rfl
theorem exec_mapRead (t : TileN) (v : BitVec 256) (s : State) :
    exec (.mapRead t v) s = run (writeMapCommand t.val (withMapOp v 0x0E)) s := rfl
theorem exec_relocate (t : TileN) (v : BitVec 256) (s : State) :
    exec (.relocate t v) s = run (writeMapCommand t.val (withMapOp v 0x0F)) s := rfl
theorem exec_mapSwitch (t : TileN) (v : BitVec 512) (s : State) :
    exec (.mapSwitch t v) s = run (writeMapSwitch t.val v.toNat) s := rfl
theorem exec_mapSwitchApply (t : TileN) (s : State) :
    exec (.mapSwitchApply t) s = run (switchApply t.val) s := rfl
theorem exec_poolConfigWrite (t : TileN) (which : Fin 3) (v : BitVec 8) (s : State) :
    exec (.poolConfigWrite t which v) s = run (writePoolConfig t.val which.val v.toNat) s := rfl
theorem exec_thermalSample (t : TileN) (readings : List (Option Int)) (s : State) :
    exec (.thermalSample t readings) s = run (thermalSample t.val readings) s := rfl
theorem exec_tripRestart (s : State) :
    exec (.tripRestart) s = run (wakeAfter tripRestart) s := rfl
theorem exec_tripRelease (v : BitVec 8) (s : State) :
    exec (.tripRelease v) s = run (wakeAfter (writeTripRelease v.toNat)) s := rfl
theorem exec_riseCheck (t : TileN) (s : State) :
    exec (.riseCheck t) s = run (riseCheck t.val) s := rfl
theorem exec_recessWindowOpen (t : TileN) (c : ChanN) (s : State) :
    exec (.recessWindowOpen t c) s = run (recessOpen t.val c.val) s := rfl
theorem exec_recessMinBandWrite (t : TileN) (v : BitVec 8) (s : State) :
    exec (.recessMinBandWrite t v) s = run (writeMinBand t.val v.toNat) s := rfl
theorem exec_calibrationStart (t : TileN) (c : ChanN) (s : State) :
    exec (.calibrationStart t c) s = run (calStart t.val c.val) s := rfl
theorem exec_calibrationRunEnd (t : TileN) (c : ChanN) (trims : List (Option Nat)) (edge : Bool) (s : State) :
    exec (.calibrationRunEnd t c trims edge) s = run (calRunEnd t.val c.val trims edge) s := rfl
theorem exec_gradualTrimStep (t : TileN) (c : ChanN) (s : State) :
    exec (.gradualTrimStep t c) s = run (gradualStep t.val c.val) s := rfl
theorem exec_railReport (w : BitVec 48) (s : State) :
    exec (.railReport w) s = run (railReport w.toNat) s := rfl
theorem exec_railTelemetryLost (rail : RailN) (s : State) :
    exec (.railTelemetryLost rail) s = run (telemetryLost rail.val) s := rfl
theorem exec_rawEstimate (t : TileN) (counts parts queues : List (Nat × Nat)) (s : State) :
    exec (.rawEstimate t counts parts queues) s = run (rawEstimate t.val counts parts queues) s := rfl
theorem exec_powerSliceEnd (s : State) :
    exec (.powerSliceEnd) s = run powerSlice s := rfl
theorem exec_powerWindowEnd (s : State) :
    exec (.powerWindowEnd) s = run powerWindow s := rfl
theorem exec_voltageStepSettled (t : TileN) (s : State) :
    exec (.voltageStepSettled t) s = run (stepSettled t.val) s := rfl
theorem exec_vidCommandAck (rail : RailN) (s : State) :
    exec (.vidCommandAck rail) s = run (vidAck rail.val) s := rfl
theorem exec_supplyWarningCrossing (rail : RailN) (mv : Nat) (s : State) :
    exec (.supplyWarningCrossing rail mv) s = run (warningCrossing rail.val mv) s := rfl
theorem exec_holdExit (t : TileN) (s : State) :
    exec (.holdExit t) s = run (holdExit t.val) s := rfl
theorem exec_powerModeWrite (t : TileN) (fixed : Bool) (v : BitVec 8) (s : State) :
    exec (.powerModeWrite t fixed v) s = run (if fixed then writeFixedStep t.val v.toNat else writePowerMode v.toNat) s := rfl
theorem exec_powerCapWrite (v : BitVec 32) (s : State) :
    exec (.powerCapWrite v) s = run (writePlain dev Obj.powerCap v.toNat) s := rfl
theorem exec_energyMarkOpen (mk : Fin 8) (v : BitVec 8) (s : State) :
    exec (.energyMarkOpen mk v) s = run (writeMark mk.val v.toNat) s := rfl
theorem exec_energyMarkClose (mk : Fin 8) (s : State) :
    exec (.energyMarkClose mk) s = run (closeMark mk.val) s := rfl
theorem exec_attributionModeWrite (v : BitVec 8) (s : State) :
    exec (.attributionModeWrite v) s = run (writeAttribution v.toNat) s := rfl
theorem exec_estimatorRecalibrate (v : BitVec 8) (s : State) :
    exec (.estimatorRecalibrate v) s = run (boolCommand v.toNat startFit) s := rfl
theorem exec_estimatorFitDone (factors : List (Option Nat)) (s : State) :
    exec (.estimatorFitDone factors) s = run (fitDone factors) s := rfl
theorem exec_gnongeRead (id : BitVec 29) (frame : List Byte) (s : State) :
    exec (.gnongeRead id frame) s = run (requestFrame 1 id.toNat (byteNats frame)) s := rfl
theorem exec_gnongeWrite (id : BitVec 29) (frame : List Byte) (s : State) :
    exec (.gnongeWrite id frame) s = run (requestFrame 2 id.toNat (byteNats frame)) s := rfl
theorem exec_describe (id : BitVec 29) (frame : List Byte) (s : State) :
    exec (.describe id frame) s = run (requestFrame 3 id.toNat (byteNats frame)) s := rfl
theorem exec_unlockBegin (id : BitVec 29) (frame : List Byte) (s : State) :
    exec (.unlockBegin id frame) s = run (requestFrame 8 id.toNat (byteNats frame)) s := rfl
theorem exec_unlockProve (id : BitVec 29) (frame : List Byte) (s : State) :
    exec (.unlockProve id frame) s = run (requestFrame 9 id.toNat (byteNats frame)) s := rfl
theorem exec_logout (id : BitVec 29) (frame : List Byte) (s : State) :
    exec (.logout id frame) s = run (requestFrame 10 id.toNat (byteNats frame)) s := rfl
theorem exec_transactionTimeout (node tag : BitVec 8) (s : State) :
    exec (.transactionTimeout node tag) s = run (transactionTimeout node.toNat tag.toNat) s := rfl
theorem exec_rightsLeaseExpiry (node : BitVec 8) (s : State) :
    exec (.rightsLeaseExpiry node) s = run (leaseExpiry node.toNat) s := rfl
theorem exec_heartbeat (s : State) :
    exec (.heartbeat) s = run heartbeat s := rfl
theorem exec_windowRead (t : TileN) (v : BitVec 64) (rights : BitVec 2) (s : State) :
    exec (.windowRead t v rights) s = run (fun s => if opOf 1 v.toNat then windowRequest t.val v.toNat rights.toNat s else s) s := rfl
theorem exec_windowWrite (t : TileN) (v : BitVec 64) (data : List Byte) (rights : BitVec 2) (s : State) :
    exec (.windowWrite t v data rights) s = run (fun s => if opOf 2 v.toNat then windowRequest t.val v.toNat rights.toNat (windowPut t.val (byteNats data) s) else s) s := rfl
theorem exec_windowDescribe (t : TileN) (v : BitVec 64) (rights : BitVec 2) (s : State) :
    exec (.windowDescribe t v rights) s = run (fun s => if opOf 3 v.toNat then windowRequest t.val v.toNat rights.toNat s else s) s := rfl
theorem exec_startFresh (id : BitVec 29) (frame : List Byte) (s : State) :
    exec (.startFresh id frame) s = run (rollFrame 0x20 id.toNat (byteNats frame) (fun d s => if d = [0] then startFresh s else s)) s := rfl
theorem exec_startFill (id : BitVec 29) (frame : List Byte) (s : State) :
    exec (.startFill id frame) s = run (rollFrame 0x20 id.toNat (byteNats frame) (fun _ s => s)) s := rfl
theorem exec_offer (id : BitVec 29) (frame : List Byte) (rollIn : Bool) (s : State) :
    exec (.offer id frame rollIn) s =
    run (fun s => rollFrame 0x21 id.toNat (byteNats frame) (fun d s => offered id.toNat (d.getD 0 0) s)
      { s with field := { s.field with rollIn := rollIn } }) s := rfl
theorem exec_confirm (id : BitVec 29) (frame : List Byte) (s : State) :
    exec (.confirm id frame) s = run (rollFrame 0x23 id.toNat (byteNats frame) (fun d s => confirmed id.toNat (leNat (d.take 8)) (d.getD 8 0) s)) s := rfl
theorem exec_claimLapse (s : State) :
    exec (.claimLapse) s = run claimLapse s := rfl
theorem exec_rollCallEnd (id : BitVec 29) (frame : List Byte) (s : State) :
    exec (.rollCallEnd id frame) s = run (rollFrame 0x25 id.toNat (byteNats frame) (fun _ s => s)) s := rfl
theorem exec_sendPost (t : TileN) (p : PairN) (host : Bool) (msg : BitVec 512) (s : State) :
    exec (.sendPost t p host msg) s = run (post t p (if host then 0 else 1) msg.toNat) s := rfl
theorem exec_recvLatch (t : TileN) (p : PairN) (host : Bool) (s : State) :
    exec (.recvLatch t p host) s = run (latchMsg t p (if host then 1 else 0)) s := rfl
theorem exec_ackRead (t : TileN) (p : PairN) (host : Bool) (s : State) :
    exec (.ackRead t p host) s = run (popAck t p (if host then 0 else 1)) s := rfl
theorem exec_recvTake (t : TileN) (p : PairN) (host : Bool) (v : BitVec 64) (s : State) :
    exec (.recvTake t p host v) s = run (takeMsg t p (if host then 1 else 0) v.toNat) s := rfl
theorem exec_doorbellClear (t : TileN) (side : Fin 3) (v : BitVec 32) (s : State) :
    exec (.doorbellClear t side v) s =
    run (fun s => answer stOk (levelBits t side
      (modDoor (doorTile t side) side (fun d => { d with status := maskOff d.status v.toNat }) s))) s := rfl
theorem exec_doorbellSet (t : TileN) (side : Fin 3) (v : BitVec 64) (s : State) :
    exec (.doorbellSet t side v) s =
    run (fun s => answer stOk (
      if side.val = 0 then ringBits t 2 v.toNat (ringBits t 1 v.toNat s)
      else if side.val = 1 then ringBits t 0 v.toNat s
      else ringBits (bits v.toNat 0 6) 0 v.toNat s)) s := rfl
theorem exec_mailboxAckTimeout (t : TileN) (p : PairN) (host : Bool) (s : State) :
    exec (.mailboxAckTimeout t p host) s = run (ackTimeout t p (if host then 0 else 1)) s := rfl
theorem exec_mailboxClear (t : TileN) (p : PairN) (v : BitVec 8) (s : State) :
    exec (.mailboxClear t p v) s = run (writeMailboxClear t p v.toNat) s := rfl
theorem exec_configPortReset (t : TileN) (s : State) :
    exec (.configPortReset t) s = run (hostSideReset t) s := rfl
theorem exec_processorTrap (proc : Fin 65) (pc : BitVec 32) (cause : BitVec 32) (s : State) :
    exec (.processorTrap proc pc cause) s = run (processorTrap proc.val pc.toNat cause.toNat) s := rfl
theorem exec_segmentPost (t : TileN) (bytes : List Byte) (s : State) :
    exec (.segmentPost t bytes) s = run (segmentPost t (byteNats bytes)) s := rfl
theorem exec_firmwareSegmentPiece (bytes : List Byte) (s : State) :
    exec (.firmwareSegmentPiece bytes) s = run (takePiece 0 (byteNats bytes)) s := rfl
theorem exec_firmwareExpectImageWrite (v : BitVec 32) (s : State) :
    exec (.firmwareExpectImageWrite v) s = run (writeExpect v.toNat) s := rfl
theorem exec_firmwareActivate (v : BitVec 128) (s : State) :
    exec (.firmwareActivate v) s = run (writeActivate v.toNat) s := rfl
theorem exec_firmwareActivation (s : State) :
    exec (.firmwareActivation) s = run activation s := rfl
theorem exec_flashImageWritten (s : State) :
    exec (.flashImageWritten) s = run flashWritten s := rfl
theorem exec_copybookProgramDone (ok : Bool) (s : State) :
    exec (.copybookProgramDone ok) s = run (programDone ok) s := rfl
theorem exec_copybookCompact (v : BitVec 8) (s : State) :
    exec (.copybookCompact v) s = run (writeCompact v.toNat) s := rfl
theorem exec_compactionComplete (s : State) :
    exec (.compactionComplete) s = run compactionComplete s := rfl
theorem exec_powerOnReset (s : State) :
    exec (.powerOnReset) s = runTime powerOn s := rfl
theorem exec_deviceWarmReset (v : BitVec 8) (s : State) :
    exec (.deviceWarmReset v) s = run (writeWarmReset v.toNat) s := rfl
theorem exec_bringupPhaseEnd (s : State) :
    exec (.bringupPhaseEnd) s = run phaseEnd s := rfl
theorem exec_channelTrainingDone (t : TileN) (c : ChanN) (ok : Bool) (trims : List Nat) (s : State) :
    exec (.channelTrainingDone t c ok trims) s = run (trainingDone t.val c.val ok trims) s := rfl
theorem exec_linkCheckDone (t : TileN) (c : ChanN) (s : State) :
    exec (.linkCheckDone t c) s = run (linkCheckDone t c) s := rfl
theorem exec_laneError (t : TileN) (c : ChanN) (lane : Fin 170) (s : State) :
    exec (.laneError t c lane) s = run (laneError t c lane.val) s := rfl
theorem exec_stackInitialisationDone (t : TileN) (c : ChanN) (s : State) :
    exec (.stackInitialisationDone t c) s = run (stackInitDone t c) s := rfl
theorem exec_partitionReset (v : BitVec 8) (s : State) :
    exec (.partitionReset v) s = run (writePartitionReset v.toNat) s := rfl
theorem exec_partitionResetEnd (s : State) :
    exec (.partitionResetEnd) s = run partitionResetEnd s := rfl
theorem exec_tileShallowReset (t : TileN) (s : State) :
    exec (.tileShallowReset t) s = run (writeTileReset t.val 1) s := rfl
theorem exec_tileDeepReset (t : TileN) (s : State) :
    exec (.tileDeepReset t) s = run (writeTileReset t.val 2) s := rfl
theorem exec_tileResetEnd (t : TileN) (s : State) :
    exec (.tileResetEnd t) s = run (tileResetEnd t) s := rfl
theorem exec_engineReset (t : TileN) (v : BitVec 8) (s : State) :
    exec (.engineReset t v) s = run (writeEngineReset t.val v.toNat) s := rfl
theorem exec_portReset (t : TileN) (v : BitVec 8) (s : State) :
    exec (.portReset t v) s = run (writePortReset t.val v.toNat) s := rfl
theorem exec_managementReset (v : BitVec 8) (s : State) :
    exec (.managementReset v) s = run (writeManagementReset v.toNat) s := rfl
theorem exec_counterSelectWrite (t : TileN) (i : Fin 8) (v : BitVec 64) (s : State) :
    exec (.counterSelectWrite t i v) s = run (writeSelect t.val i.val v.toNat) s := rfl
theorem exec_counterValueWrite (t : TileN) (i : Fin 8) (v : BitVec 64) (s : State) :
    exec (.counterValueWrite t i v) s = run (writeCounter t.val (Obj.counterValue + i.val) v.toNat) s := rfl
theorem exec_counterFixedWrite (t : TileN) (v : BitVec 64) (s : State) :
    exec (.counterFixedWrite t v) s = run (writeFixed t.val v.toNat) s := rfl
theorem exec_reportCardSnapshot (s : State) :
    exec (.reportCardSnapshot) s = run (writeCard 1) s := rfl
theorem exec_reportCardFreeze (s : State) :
    exec (.reportCardFreeze) s = run (writeCard 2) s := rfl
theorem exec_reportCardThaw (s : State) :
    exec (.reportCardThaw) s = run (writeCard 3) s := rfl
theorem exec_reportCardClear (s : State) :
    exec (.reportCardClear) s = run (writeCard 4) s := rfl
theorem exec_reportCardApply (s : State) :
    exec (.reportCardApply) s = run cardApply s := rfl
theorem exec_snapPinEdge (rising : Bool) (s : State) :
    exec (.snapPinEdge rising) s = run (snapPin rising) s := rfl
theorem exec_bandwidthWindowEnd (t : TileN) (s : State) :
    exec (.bandwidthWindowEnd t) s = run (bandwidthEnd t.val) s := rfl
theorem exec_preciseSampleControlWrite (t : TileN) (v : BitVec 64) (s : State) :
    exec (.preciseSampleControlWrite t v) s = run (writeSampling t.val v.toNat) s := rfl
theorem exec_troubleLogWrite (unit : BitVec 8) (v : BitVec 128) (s : State) :
    exec (.troubleLogWrite unit v) s = run (writeLog unit.toNat v.toNat) s := rfl
theorem exec_portGenerationWrite (t : TileN) (p : PortN) (v : BitVec 8) (s : State) :
    exec (.portGenerationWrite t p v) s = run (writePortGeneration t.val p.val v.toNat) s := rfl
theorem exec_adapterClockLost (t : TileN) (p : PortN) (s : State) :
    exec (.adapterClockLost t p) s = run (clockLost t.val p.val) s := rfl
theorem exec_adapterClockReturn (t : TileN) (p : PortN) (s : State) :
    exec (.adapterClockReturn t p) s = run (clockReturn t.val p.val) s := rfl
theorem exec_wsBypass (t : TileN) (s : State) :
    exec (.wsBypass t) s = run (setWir t.val 0) s := rfl
theorem exec_wsExtest (t : TileN) (s : State) :
    exec (.wsExtest t) s =
    run (fun s =>
      let s1 := setWir t.val 1 s
      { s1 with test := { s1.test with captures := fset 0 s1.test.captures t.val (fget 0 s1.test.captures t.val + 1) } }) s := rfl
theorem exec_wsIntest (t : TileN) (s : State) :
    exec (.wsIntest t) s =
    run (fun s =>
      let s1 := setWir t.val 2 s
      { s1 with test := { s1.test with tokens := fset 0 s1.test.tokens t.val (fget 0 s1.test.tokens t.val + 1) } }) s := rfl
theorem exec_mbist (t : TileN) (s : State) :
    exec (.mbist t) s = run (fun s => marchTest t.val (setWir t.val 3 s)) s := rfl
theorem exec_pacer (t : TileN) (counts : List Nat) (s : State) :
    exec (.pacer t counts) s =
    run (fun s =>
      let s1 := setWir t.val 4 s
      answerData (counts.flatMap (leBytes 4))
        { s1 with test := { s1.test with rings := fset [] s1.test.rings t.val counts } }) s := rfl
theorem exec_laneprbs (t : TileN) (mask : BitVec 48) (s : State) :
    exec (.laneprbs t mask) s =
    run (fun s => (onesOf 48 mask.toNat).foldl (fun s c =>
      if chState s t.val c = 4 then s
      else setObj t.val (Obj.prbsBits + c) 0 (setObj t.val (Obj.prbsRestarts + c) 0 (setObj t.val (Obj.channelState + c) 1
        (modTrain t.val c (fun x => { x with step := 2, started := s.time.elapsed, group := none }) s))))
      (setWir t.val 5 s)) s := rfl
theorem exec_trim (t : TileN) (c : ChanN) (i : Fin 11) (write : Bool) (v : BitVec 8) (s : State) :
    exec (.trim t c i write v) s = run (fun s => trimAccess t.val c.val i.val write v.toNat (setWir t.val 6 s)) s := rfl
theorem exec_registerWrite (unit : BitVec 8) (index : BitVec 16) (sub rights scope : BitVec 8) (data : List Byte) (s : State) :
    exec (.registerWrite unit index sub rights scope data) s = run (registerWrite { level := rights.toNat % 4, scope := scope.toNat } unit.toNat index.toNat sub.toNat (byteNats data)) s := rfl
theorem exec_referenceEdgeInHoldover (good : Bool) (s : State) :
    exec (.referenceEdgeInHoldover good) s = run (holdoverEdge good) s := rfl
theorem exec_bookkeepingQuery (t : TileN) (s : State) :
    exec (.bookkeepingQuery t) s = run (bookkeepingQuery t.val) s := rfl
theorem exec_bookkeepingAnswer (t : TileN) (s : State) :
    exec (.bookkeepingAnswer t) s = run (bookkeepingAnswer t.val) s := rfl
theorem exec_busOff (s : State) :
    exec (.busOff) s = run goBusOff s := rfl
theorem exec_busOffRecovery (s : State) :
    exec (.busOffRecovery) s = run busOffRecovery s := rfl
theorem exec_nodeConflict (s : State) :
    exec (.nodeConflict) s = run nodeConflict s := rfl
theorem exec_stack1838Instruction (code : BitVec 8) (s : State) :
    exec (.stack1838Instruction code) s = run (stackInstruction code.toNat) s := rfl
theorem exec_resetReportTimeout (t : TileN) (c : ChanN) (s : State) :
    exec (.resetReportTimeout t c) s = run (reportTimeout t c) s := rfl
theorem exec_responseBeatAck (t : TileN) (p : PortN) (s : State) :
    exec (.responseBeatAck t (.host p)) s = run (ackBeat t.val p.val) s := rfl
theorem exec_responseBeatAck_gateway (t src : TileN) (s : State) :
    exec (.responseBeatAck t (.gateway src)) s = run id s := rfl
theorem exec_supplyResetCrossing (rail : RailN) (mv : Nat) (s : State) (h : rail.val < 64) :
    exec (.supplyResetCrossing rail mv) s = run (resetCrossing rail.val mv) s := if_pos h
theorem exec_supplyResetCrossing_device (rail : RailN) (mv : Nat) (s : State) (h : ¬ rail.val < 64) :
    exec (.supplyResetCrossing rail mv) s = runTime (resetCrossing rail.val mv) s := if_neg h

/-- Every command but those that move the time is an effect of `run`. -/
theorem exec_run (s : State) : ∀ c : Instr, ¬ movesTime c → ∃ f, exec c s = run f s
  | .timeBaseTick, h => absurd (Or.inl rfl) h
  | .timeBaseSet v, _ => ⟨_, exec_timeBaseSet v s⟩
  | .referenceLost, _ => ⟨_, exec_referenceLost s⟩
  | .referenceReturn, _ => ⟨_, exec_referenceReturn s⟩
  | .speedWindowEnd t counts, _ => ⟨_, exec_speedWindowEnd t counts s⟩
  | .speedLowWaterClear t v, _ => ⟨_, exec_speedLowWaterClear t v s⟩
  | .guaranteeFloorWrite t v, _ => ⟨_, exec_guaranteeFloorWrite t v s⟩
  | .meshHopCostWrite t v, _ => ⟨_, exec_meshHopCostWrite t v s⟩
  | .act t c w, _ => ⟨_, exec_act t c w s⟩
  | .rd t c w, _ => ⟨_, exec_rd t c w s⟩
  | .wr t c w beats, _ => ⟨_, exec_wr t c w beats s⟩
  | .pre t c w, _ => ⟨_, exec_pre t c w s⟩
  | .prea t c w, _ => ⟨_, exec_prea t c w s⟩
  | .ref t c w, _ => ⟨_, exec_ref t c w s⟩
  | .rcopy t c w arg, _ => ⟨_, exec_rcopy t c w arg s⟩
  | .rfill t c w arg, _ => ⟨_, exec_rfill t c w arg s⟩
  | .mrw t c w v, _ => ⟨_, exec_mrw t c w v s⟩
  | .mrr t c w, _ => ⟨_, exec_mrr t c w s⟩
  | .trw t c w, _ => ⟨_, exec_trw t c w s⟩
  | .trr t c w, _ => ⟨_, exec_trr t c w s⟩
  | .doneReport t c count, _ => ⟨_, exec_doneReport t c count s⟩
  | .readDataArrival t c, _ => ⟨_, exec_readDataArrival t c s⟩
  | .migrationComplete t c, _ => ⟨_, exec_migrationComplete t c s⟩
  | .watchEntryExpiry t slot, _ => ⟨_, exec_watchEntryExpiry t slot s⟩
  | .retireRow t v, _ => ⟨_, exec_retireRow t v s⟩
  | .errorInjectFlipOne t v, _ => ⟨_, exec_errorInjectFlipOne t v s⟩
  | .errorInjectFlipTwo t v, _ => ⟨_, exec_errorInjectFlipTwo t v s⟩
  | .errorInjectPoison t v, _ => ⟨_, exec_errorInjectPoison t v s⟩
  | .repairModeWrite t v, _ => ⟨_, exec_repairModeWrite t v s⟩
  | .blotterAccess t c, _ => ⟨_, exec_blotterAccess t c s⟩
  | .scrubOverdue t c, _ => ⟨_, exec_scrubOverdue t c s⟩
  | .fillPatternWrite t v, _ => ⟨_, exec_fillPatternWrite t v s⟩
  | .translateAddress t v, _ => ⟨_, exec_translateAddress t v s⟩
  | .untranslateRequest t v, _ => ⟨_, exec_untranslateRequest t v s⟩
  | .channelDisableWrite t c v, _ => ⟨_, exec_channelDisableWrite t c v s⟩
  | .requestBeat t src hdr beat poison, _ => ⟨_, exec_requestBeat t src hdr beat poison s⟩
  | .requestAccept t src hdr beat poison, _ => ⟨_, exec_requestAccept t src hdr beat poison s⟩
  | .ingressStallRelease t q passFifo, _ => ⟨_, exec_ingressStallRelease t q passFifo s⟩
  | .deferredWorkEntry t c write, _ => ⟨_, exec_deferredWorkEntry t c write s⟩
  | .barrierRelease t q, _ => ⟨_, exec_barrierRelease t q s⟩
  | .farRequestArrival t src, _ => ⟨_, exec_farRequestArrival t src s⟩
  | .farResponseArrival t owner, _ => ⟨_, exec_farResponseArrival t owner s⟩
  | .channelPick t c, _ => ⟨_, exec_channelPick t c s⟩
  | .openRowIdlePrecharge t c b, _ => ⟨_, exec_openRowIdlePrecharge t c b s⟩
  | .mergeHoldFlush t slot, _ => ⟨_, exec_mergeHoldFlush t slot s⟩
  | .responseOffer t id, _ => ⟨_, exec_responseOffer t id s⟩
  | .mergeEnableWrite t v, _ => ⟨_, exec_mergeEnableWrite t v s⟩
  | .mergeHoldLimitWrite t v, _ => ⟨_, exec_mergeHoldLimitWrite t v s⟩
  | .classQuantumWrite t k v, _ => ⟨_, exec_classQuantumWrite t k v s⟩
  | .requestOverheadWrite t v, _ => ⟨_, exec_requestOverheadWrite t v s⟩
  | .passReserveWrite t write v, _ => ⟨_, exec_passReserveWrite t write v s⟩
  | .passRequest t contract, _ => ⟨_, exec_passRequest t contract s⟩
  | .passProbe t contract, _ => ⟨_, exec_passProbe t contract s⟩
  | .passRelease t v, _ => ⟨_, exec_passRelease t v s⟩
  | .passRegrant t v, _ => ⟨_, exec_passRegrant t v s⟩
  | .passReturnLive t p, _ => ⟨_, exec_passReturnLive t p s⟩
  | .passBandWrite t v, _ => ⟨_, exec_passBandWrite t v s⟩
  | .rangeRegisterWrite t idx v, _ => ⟨_, exec_rangeRegisterWrite t idx v s⟩
  | .rangeDefaultWrite t v, _ => ⟨_, exec_rangeDefaultWrite t v s⟩
  | .regulationModeWrite t v, _ => ⟨_, exec_regulationModeWrite t v s⟩
  | .queueSample t, _ => ⟨_, exec_queueSample t s⟩
  | .sampleClear t v, _ => ⟨_, exec_sampleClear t v s⟩
  | .timetableCommit t v, _ => ⟨_, exec_timetableCommit t v s⟩
  | .timetableStart t, _ => ⟨_, exec_timetableStart t s⟩
  | .gateChange t, _ => ⟨_, exec_gateChange t s⟩
  | .timetableEnableWrite t v, _ => ⟨_, exec_timetableEnableWrite t v s⟩
  | .tokenGrant t target, _ => ⟨_, exec_tokenGrant t target s⟩
  | .engineTailWrite t e v, _ => ⟨_, exec_engineTailWrite t e v s⟩
  | .engineEnableWrite t e v, _ => ⟨_, exec_engineEnableWrite t e v s⟩
  | .engineQueueConfigWrite t e size v, _ => ⟨_, exec_engineQueueConfigWrite t e size v s⟩
  | .descriptorFetch t e, _ => ⟨_, exec_descriptorFetch t e s⟩
  | .loadw t e, _ => ⟨_, exec_loadw t e s⟩
  | .stream t e, _ => ⟨_, exec_stream t e s⟩
  | .streamResume t e, _ => ⟨_, exec_streamResume t e s⟩
  | .drain t e fault, _ => ⟨_, exec_drain t e fault s⟩
  | .exp t e faults, _ => ⟨_, exec_exp t e faults s⟩
  | .exp2 t e faults, _ => ⟨_, exec_exp2 t e faults s⟩
  | .max t e faults, _ => ⟨_, exec_max t e faults s⟩
  | .max2 t e faults, _ => ⟨_, exec_max2 t e faults s⟩
  | .sum t e faults, _ => ⟨_, exec_sum t e faults s⟩
  | .scale t e faults, _ => ⟨_, exec_scale t e faults s⟩
  | .topk t e faults, _ => ⟨_, exec_topk t e faults s⟩
  | .smacc t e faults, _ => ⟨_, exec_smacc t e faults s⟩
  | .smfin t e faults, _ => ⟨_, exec_smfin t e faults s⟩
  | .gather t e, _ => ⟨_, exec_gather t e s⟩
  | .copy t e, _ => ⟨_, exec_copy t e s⟩
  | .convert t e, _ => ⟨_, exec_convert t e s⟩
  | .convertSplit t e, _ => ⟨_, exec_convertSplit t e s⟩
  | .convertPairAdd t e, _ => ⟨_, exec_convertPairAdd t e s⟩
  | .convertPairSubtract t e, _ => ⟨_, exec_convertPairSubtract t e s⟩
  | .fence t e, _ => ⟨_, exec_fence t e s⟩
  | .wait t e, _ => ⟨_, exec_wait t e s⟩
  | .waitTimeout t e, _ => ⟨_, exec_waitTimeout t e s⟩
  | .signalAdd t e, _ => ⟨_, exec_signalAdd t e s⟩
  | .signalSet t e, _ => ⟨_, exec_signalSet t e s⟩
  | .signalRemoteApply t, _ => ⟨_, exec_signalRemoteApply t s⟩
  | .semaphoreWrite t idx v, _ => ⟨_, exec_semaphoreWrite t idx v s⟩
  | .hint t e, _ => ⟨_, exec_hint t e s⟩
  | .hintLoadNotice t idx, _ => ⟨_, exec_hintLoadNotice t idx s⟩
  | .preemptYieldPoint t e, _ => ⟨_, exec_preemptYieldPoint t e s⟩
  | .preemptRequestPoint t e, _ => ⟨_, exec_preemptRequestPoint t e s⟩
  | .preemptRequest t v, _ => ⟨_, exec_preemptRequest t v s⟩
  | .preemptSaveDone t a, _ => ⟨_, exec_preemptSaveDone t a s⟩
  | .engineYield t e v, _ => ⟨_, exec_engineYield t e v s⟩
  | .arrayStep t a fault, _ => ⟨_, exec_arrayStep t a fault s⟩
  | .arrayUnfence t a v, _ => ⟨_, exec_arrayUnfence t a v s⟩
  | .saveAreaBaseWrite t a v, _ => ⟨_, exec_saveAreaBaseWrite t a v s⟩
  | .descriptorComplete t e, _ => ⟨_, exec_descriptorComplete t e s⟩
  | .completionConsumedWrite t e v, _ => ⟨_, exec_completionConsumedWrite t e v s⟩
  | .moverRequestResponse t m st o h, _ => ⟨_, exec_moverRequestResponse t m st o h s⟩
  | .moverRetryResend t m, _ => ⟨_, exec_moverRetryResend t m s⟩
  | .engineResumeContinue t e, _ => ⟨_, exec_engineResumeContinue t e s⟩
  | .engineResumeRerun t e, _ => ⟨_, exec_engineResumeRerun t e s⟩
  | .engineResumeSaveArea t e, _ => ⟨_, exec_engineResumeSaveArea t e s⟩
  | .engineResumeAbort t e, _ => ⟨_, exec_engineResumeAbort t e s⟩
  | .engineResumeReplace t e, _ => ⟨_, exec_engineResumeReplace t e s⟩
  | .resolution t q a l w d, _ => ⟨_, exec_resolution t q a l w d s⟩
  | .copyOnWriteComplete t entry, _ => ⟨_, exec_copyOnWriteComplete t entry s⟩
  | .forwardedResolution t src, _ => ⟨_, exec_forwardedResolution t src s⟩
  | .fillComplete t entry status data, _ => ⟨_, exec_fillComplete t entry status data s⟩
  | .spillComplete t entry status, _ => ⟨_, exec_spillComplete t entry status s⟩
  | .nextLevelTimeout t entry, _ => ⟨_, exec_nextLevelTimeout t entry s⟩
  | .blockClearComplete t block, _ => ⟨_, exec_blockClearComplete t block s⟩
  | .alloc t v, _ => ⟨_, exec_alloc t v s⟩
  | .share t v, _ => ⟨_, exec_share t v s⟩
  | .release t v, _ => ⟨_, exec_release t v s⟩
  | .pin t v, _ => ⟨_, exec_pin t v s⟩
  | .unpin t v, _ => ⟨_, exec_unpin t v s⟩
  | .farmap t v, _ => ⟨_, exec_farmap t v s⟩
  | .sethome t v, _ => ⟨_, exec_sethome t v s⟩
  | .spill t v, _ => ⟨_, exec_spill t v s⟩
  | .publish t v, _ => ⟨_, exec_publish t v s⟩
  | .unpublish t v, _ => ⟨_, exec_unpublish t v s⟩
  | .lookup t v, _ => ⟨_, exec_lookup t v s⟩
  | .adopt t v, _ => ⟨_, exec_adopt t v s⟩
  | .adoptlist t v, _ => ⟨_, exec_adoptlist t v s⟩
  | .mapRead t v, _ => ⟨_, exec_mapRead t v s⟩
  | .relocate t v, _ => ⟨_, exec_relocate t v s⟩
  | .mapSwitch t v, _ => ⟨_, exec_mapSwitch t v s⟩
  | .mapSwitchApply t, _ => ⟨_, exec_mapSwitchApply t s⟩
  | .poolConfigWrite t which v, _ => ⟨_, exec_poolConfigWrite t which v s⟩
  | .thermalSample t readings, _ => ⟨_, exec_thermalSample t readings s⟩
  | .tripRestart, _ => ⟨_, exec_tripRestart s⟩
  | .tripRelease v, _ => ⟨_, exec_tripRelease v s⟩
  | .riseCheck t, _ => ⟨_, exec_riseCheck t s⟩
  | .recessWindowOpen t c, _ => ⟨_, exec_recessWindowOpen t c s⟩
  | .recessMinBandWrite t v, _ => ⟨_, exec_recessMinBandWrite t v s⟩
  | .calibrationStart t c, _ => ⟨_, exec_calibrationStart t c s⟩
  | .calibrationRunEnd t c trims edge, _ => ⟨_, exec_calibrationRunEnd t c trims edge s⟩
  | .gradualTrimStep t c, _ => ⟨_, exec_gradualTrimStep t c s⟩
  | .railReport w, _ => ⟨_, exec_railReport w s⟩
  | .railTelemetryLost rail, _ => ⟨_, exec_railTelemetryLost rail s⟩
  | .rawEstimate t counts parts queues, _ => ⟨_, exec_rawEstimate t counts parts queues s⟩
  | .powerSliceEnd, _ => ⟨_, exec_powerSliceEnd s⟩
  | .powerWindowEnd, _ => ⟨_, exec_powerWindowEnd s⟩
  | .voltageStepSettled t, _ => ⟨_, exec_voltageStepSettled t s⟩
  | .vidCommandAck rail, _ => ⟨_, exec_vidCommandAck rail s⟩
  | .supplyWarningCrossing rail mv, _ => ⟨_, exec_supplyWarningCrossing rail mv s⟩
  | .holdExit t, _ => ⟨_, exec_holdExit t s⟩
  | .supplyResetCrossing r mv, h => ⟨_, exec_supplyResetCrossing r mv s
      (Decidable.byContradiction (fun n => h (Or.inr (Or.inr ⟨r, mv, by omega, rfl⟩))))⟩
  | .powerModeWrite t fixed v, _ => ⟨_, exec_powerModeWrite t fixed v s⟩
  | .powerCapWrite v, _ => ⟨_, exec_powerCapWrite v s⟩
  | .energyMarkOpen mk v, _ => ⟨_, exec_energyMarkOpen mk v s⟩
  | .energyMarkClose mk, _ => ⟨_, exec_energyMarkClose mk s⟩
  | .attributionModeWrite v, _ => ⟨_, exec_attributionModeWrite v s⟩
  | .estimatorRecalibrate v, _ => ⟨_, exec_estimatorRecalibrate v s⟩
  | .estimatorFitDone factors, _ => ⟨_, exec_estimatorFitDone factors s⟩
  | .gnongeRead id frame, _ => ⟨_, exec_gnongeRead id frame s⟩
  | .gnongeWrite id frame, _ => ⟨_, exec_gnongeWrite id frame s⟩
  | .describe id frame, _ => ⟨_, exec_describe id frame s⟩
  | .unlockBegin id frame, _ => ⟨_, exec_unlockBegin id frame s⟩
  | .unlockProve id frame, _ => ⟨_, exec_unlockProve id frame s⟩
  | .logout id frame, _ => ⟨_, exec_logout id frame s⟩
  | .transactionTimeout node tag, _ => ⟨_, exec_transactionTimeout node tag s⟩
  | .rightsLeaseExpiry node, _ => ⟨_, exec_rightsLeaseExpiry node s⟩
  | .heartbeat, _ => ⟨_, exec_heartbeat s⟩
  | .windowRead t v rights, _ => ⟨_, exec_windowRead t v rights s⟩
  | .windowWrite t v data rights, _ => ⟨_, exec_windowWrite t v data rights s⟩
  | .windowDescribe t v rights, _ => ⟨_, exec_windowDescribe t v rights s⟩
  | .startFresh id frame, _ => ⟨_, exec_startFresh id frame s⟩
  | .startFill id frame, _ => ⟨_, exec_startFill id frame s⟩
  | .offer id frame rollIn, _ => ⟨_, exec_offer id frame rollIn s⟩
  | .confirm id frame, _ => ⟨_, exec_confirm id frame s⟩
  | .claimLapse, _ => ⟨_, exec_claimLapse s⟩
  | .rollCallEnd id frame, _ => ⟨_, exec_rollCallEnd id frame s⟩
  | .sendPost t p host msg, _ => ⟨_, exec_sendPost t p host msg s⟩
  | .recvLatch t p host, _ => ⟨_, exec_recvLatch t p host s⟩
  | .ackRead t p host, _ => ⟨_, exec_ackRead t p host s⟩
  | .recvTake t p host v, _ => ⟨_, exec_recvTake t p host v s⟩
  | .doorbellClear t side v, _ => ⟨_, exec_doorbellClear t side v s⟩
  | .doorbellSet t side v, _ => ⟨_, exec_doorbellSet t side v s⟩
  | .mailboxAckTimeout t p host, _ => ⟨_, exec_mailboxAckTimeout t p host s⟩
  | .mailboxClear t p v, _ => ⟨_, exec_mailboxClear t p v s⟩
  | .configPortReset t, _ => ⟨_, exec_configPortReset t s⟩
  | .processorTrap proc pc cause, _ => ⟨_, exec_processorTrap proc pc cause s⟩
  | .segmentPost t bytes, _ => ⟨_, exec_segmentPost t bytes s⟩
  | .firmwareSegmentPiece bytes, _ => ⟨_, exec_firmwareSegmentPiece bytes s⟩
  | .firmwareExpectImageWrite v, _ => ⟨_, exec_firmwareExpectImageWrite v s⟩
  | .firmwareActivate v, _ => ⟨_, exec_firmwareActivate v s⟩
  | .firmwareActivation, _ => ⟨_, exec_firmwareActivation s⟩
  | .flashImageWritten, _ => ⟨_, exec_flashImageWritten s⟩
  | .copybookProgramDone ok, _ => ⟨_, exec_copybookProgramDone ok s⟩
  | .copybookCompact v, _ => ⟨_, exec_copybookCompact v s⟩
  | .compactionComplete, _ => ⟨_, exec_compactionComplete s⟩
  | .powerOnReset, h => absurd (Or.inr (Or.inl rfl)) h
  | .deviceWarmReset v, _ => ⟨_, exec_deviceWarmReset v s⟩
  | .bringupPhaseEnd, _ => ⟨_, exec_bringupPhaseEnd s⟩
  | .channelTrainingDone t c ok trims, _ => ⟨_, exec_channelTrainingDone t c ok trims s⟩
  | .linkCheckDone t c, _ => ⟨_, exec_linkCheckDone t c s⟩
  | .laneError t c lane, _ => ⟨_, exec_laneError t c lane s⟩
  | .stackInitialisationDone t c, _ => ⟨_, exec_stackInitialisationDone t c s⟩
  | .partitionReset v, _ => ⟨_, exec_partitionReset v s⟩
  | .partitionResetEnd, _ => ⟨_, exec_partitionResetEnd s⟩
  | .tileShallowReset t, _ => ⟨_, exec_tileShallowReset t s⟩
  | .tileDeepReset t, _ => ⟨_, exec_tileDeepReset t s⟩
  | .tileResetEnd t, _ => ⟨_, exec_tileResetEnd t s⟩
  | .engineReset t v, _ => ⟨_, exec_engineReset t v s⟩
  | .portReset t v, _ => ⟨_, exec_portReset t v s⟩
  | .managementReset v, _ => ⟨_, exec_managementReset v s⟩
  | .counterSelectWrite t idx v, _ => ⟨_, exec_counterSelectWrite t idx v s⟩
  | .counterValueWrite t idx v, _ => ⟨_, exec_counterValueWrite t idx v s⟩
  | .counterFixedWrite t v, _ => ⟨_, exec_counterFixedWrite t v s⟩
  | .reportCardSnapshot, _ => ⟨_, exec_reportCardSnapshot s⟩
  | .reportCardFreeze, _ => ⟨_, exec_reportCardFreeze s⟩
  | .reportCardThaw, _ => ⟨_, exec_reportCardThaw s⟩
  | .reportCardClear, _ => ⟨_, exec_reportCardClear s⟩
  | .reportCardApply, _ => ⟨_, exec_reportCardApply s⟩
  | .snapPinEdge rising, _ => ⟨_, exec_snapPinEdge rising s⟩
  | .bandwidthWindowEnd t, _ => ⟨_, exec_bandwidthWindowEnd t s⟩
  | .preciseSampleControlWrite t v, _ => ⟨_, exec_preciseSampleControlWrite t v s⟩
  | .troubleLogWrite unit v, _ => ⟨_, exec_troubleLogWrite unit v s⟩
  | .portGenerationWrite t p v, _ => ⟨_, exec_portGenerationWrite t p v s⟩
  | .adapterClockLost t p, _ => ⟨_, exec_adapterClockLost t p s⟩
  | .adapterClockReturn t p, _ => ⟨_, exec_adapterClockReturn t p s⟩
  | .wsBypass t, _ => ⟨_, exec_wsBypass t s⟩
  | .wsExtest t, _ => ⟨_, exec_wsExtest t s⟩
  | .wsIntest t, _ => ⟨_, exec_wsIntest t s⟩
  | .mbist t, _ => ⟨_, exec_mbist t s⟩
  | .pacer t counts, _ => ⟨_, exec_pacer t counts s⟩
  | .laneprbs t mask, _ => ⟨_, exec_laneprbs t mask s⟩
  | .trim t c idx write v, _ => ⟨_, exec_trim t c idx write v s⟩
  | .registerWrite unit index sub rights scope data, _ => ⟨_, exec_registerWrite unit index sub rights scope data s⟩
  | .referenceEdgeInHoldover good, _ => ⟨_, exec_referenceEdgeInHoldover good s⟩
  | .bookkeepingQuery t, _ => ⟨_, exec_bookkeepingQuery t s⟩
  | .bookkeepingAnswer t, _ => ⟨_, exec_bookkeepingAnswer t s⟩
  | .busOff, _ => ⟨_, exec_busOff s⟩
  | .busOffRecovery, _ => ⟨_, exec_busOffRecovery s⟩
  | .nodeConflict, _ => ⟨_, exec_nodeConflict s⟩
  | .responseBeatAck t (.host p), _ => ⟨_, exec_responseBeatAck t p s⟩
  | .responseBeatAck t (.gateway u), _ => ⟨_, exec_responseBeatAck_gateway t u s⟩
  | .stack1838Instruction code, _ => ⟨_, exec_stack1838Instruction code s⟩
  | .resetReportTimeout t c, _ => ⟨_, exec_resetReportTimeout t c s⟩

end Sys2Proof.Machine
end

