-- ==== Sys2Proof/Laws/Claims.lean ====
section
/-! SUPPORT. How the words of Safety.lean are shown to hold. -/

namespace Sys2Proof.Machine

open Sys2Proof

/-- Memory is the same where the parts that hold it are. -/
theorem sameMemory_of {s s' : State} (h1 : s'.dram = s.dram) (h2 : s'.layer = s.layer) (h3 : s'.slate = s.slate)
    (h4 : s'.inkwell = s.inkwell) : SameMemory s s' := by
  refine ⟨fun t c b row w => ?_, fun k => by rw [h3], fun k => by rw [h4]⟩
  unfold rawWord dramBase; rw [h1, h2]

theorem SameMemory.trans {a b c : State} (h : SameMemory a b) (h' : SameMemory b c) : SameMemory a c :=
  ⟨fun t x y z w => (h'.1 t x y z w).trans (h.1 t x y z w), fun k => (h'.2.1 k).trans (h.2.1 k),
    fun k => (h'.2.2 k).trans (h.2.2 k)⟩

theorem Books.sameMemory {s s' : State} (h : Books s s') : SameMemory s s' :=
  sameMemory_of h.memory.1 h.memory.2.1 h.memory.2.2.1 h.memory.2.2.2

/-- A command of `run` answers what its effect gives. -/
theorem answers_run {c : Instr} {s : State} {P : State → Prop} {f : State → State} (h : exec c s = run f s)
    (hp : P (sameTime s (f (fresh s)))) : Answers c s P := ⟨_, h, hp⟩

/-- A command whose effect only answers a status is turned away. -/
theorem refuses_run {c : Instr} {s : State} {st : Nat} {f : State → State} (h : exec c s = run f s)
    (hf : f (fresh s) = answer st (fresh s)) : Refuses c s st := by
  unfold Refuses
  rw [h, run_next, hf]
  rfl

/-- A command whose effect is nothing. -/
theorem noEffect_run {c : Instr} {s : State} {f : State → State} (h : exec c s = run f s)
    (hf : f (fresh s) = fresh s) : NoEffect c s := by
  unfold NoEffect
  rw [h, run_next, hf]
  rfl

/-- A command whose effect stores one object. -/
theorem writesObj_run {c : Instr} {s : State} {u k v : Nat} {f : State → State} (h : exec c s = run f s)
    (hf : f (fresh s) = storeObj u k v (fresh s)) (hk : k < 2 ^ 24) (hv : v < 2 ^ objBits k) : WritesObj c s u k v := by
  refine answers_run h ?_
  rw [hf]
  refine ⟨rfl, getObj_setObj_fits (fresh s) hv, fun w j hj hn => ?_, rfl⟩
  refine getObj_setObj_other (fresh s) (fun e => hn ?_)
  obtain ⟨rfl, rfl⟩ := okey_inj hj hk e
  exact List.mem_singleton.mpr rfl

/-- One object written, as far as the dictionary tells. -/
theorem otherObjects_set {s s' : State} {u k v : Nat} (h : s'.dict = (setObj u k v s).dict) (hk : k < 2 ^ 24) :
    OtherObjects s s' [(u, k)] := by
  intro w j hj hn
  refine (getObj_congr h w j).trans (getObj_setObj_other s (fun e => hn ?_))
  obtain ⟨rfl, rfl⟩ := okey_inj hj hk e
  exact List.mem_singleton.mpr rfl

theorem getObj_set {s s' : State} {u k v : Nat} (h : s'.dict = (setObj u k v s).dict) (hv : v < 2 ^ objBits k) :
    getObj s' u k = v := (getObj_congr h u k).trans (getObj_setObj_fits s hv)

/-- No object written. -/
theorem otherObjects_none {s s' : State} (h : s'.dict = s.dict) (K : List (Nat × Nat)) : OtherObjects s s' K :=
  fun u k _ _ => getObj_congr h u k

/-- What recording a Copybook value can touch. -/
theorem recordObj_frame (u k v : Nat) (s : State) :
    recordObj u k v s = { s with
      dict := (recordObj u k v s).dict
      copy := { s.copy with queue := (recordObj u k v s).copy.queue }
      count := { s.count with intake := (recordObj u k v s).count.intake } } ∧
    ∀ w j, j < 2 ^ 24 → (w, j) ≠ (dev, Obj.deviceLogDropped) → getObj (recordObj u k v s) w j = getObj s w j := by
  unfold recordObj
  split
  · unfold pushRecord
    dsimp only
    split
    · exact ⟨rfl, fun _ _ _ _ => rfl⟩
    · split
      · unfold addLog
        dsimp only
        split
        · refine ⟨rfl, fun w j hj hn => getObj_setObj_other s (fun e => hn ?_)⟩
          obtain ⟨h1, h2⟩ := okey_inj hj (by decide) e
          rw [h1, h2]; rfl
        · exact ⟨rfl, fun _ _ _ _ => rfl⟩
      · exact ⟨rfl, fun _ _ _ _ => rfl⟩
  · exact ⟨rfl, fun _ _ _ _ => rfl⟩

/-- A command whose effect stores one object kept in the Copybook. -/
theorem writesRws_run {c : Instr} {s : State} {u k v : Nat} {f : State → State} (h : exec c s = run f s)
    (hf : f (fresh s) = storeRws u k v (fresh s)) (hk : k < 2 ^ 24) (hd : (u, k) ≠ (dev, Obj.deviceLogDropped))
    (hv : v < 2 ^ objBits k) : WritesRws c s u k v := by
  refine answers_run h ?_
  rw [hf]
  obtain ⟨h1, h2⟩ := recordObj_frame u k v (storeObj u k v (fresh s))
  refine ⟨?_, ?_, fun w j hj hn => ?_, ?_⟩
  · show (recordObj u k v (storeObj u k v (fresh s))).out = _
    rw [h1]; rfl
  · exact (h2 u k hk hd).trans (getObj_setObj_fits (fresh s) hv)
  · simp only [List.mem_cons, List.not_mem_nil, or_false, not_or] at hn
    refine (h2 w j hj hn.2).trans (getObj_setObj_other (fresh s) (fun e => hn.1 ?_))
    obtain ⟨rfl, rfl⟩ := okey_inj hj hk e
    rfl
  · unfold storeRws
    generalize recordObj u k v (storeObj u k v (fresh s)) = x at h1
    rw [h1]
    rfl

end Sys2Proof.Machine
end

