-- ==== Sys2Proof/Laws/Objs.lean ====
section
/-! SUPPORT. What the shared operations can change: `Calm K s s'` says that no word of memory changes, and no
object outside `K` and outside those of reporting. -/

namespace Sys2Proof.Machine

open Sys2Proof

/-- What holds the stack's memory, the Slate and the Inkwell. -/
structure SameWords (s s' : State) : Prop where
  dram : s'.dram = s.dram
  base : ∀ k, (fget ({} : LayerS) s'.layer k).base = (fget ({} : LayerS) s.layer k).base
  slate : s'.slate = s.slate
  inkwell : s'.inkwell = s.inkwell

theorem SameWords.sameMemory {s s' : State} (h : SameWords s s') : SameMemory s s' := by
  refine ⟨fun t c b row w => ?_, fun k => by rw [h.slate], fun k => by rw [h.inkwell]⟩
  unfold rawWord dramBase; rw [h.dram, h.base]

/-- `s'` differs from `s` in no word of memory, and in no object outside `K` and those of reporting. -/
structure Calm (K : Nat → Bool) (s s' : State) : Prop where
  objs : ∀ u k, k < 2 ^ 24 → K k = false → sideKey k = false → getObj s' u k = getObj s u k
  words : SameWords s s'

/-- The parts of the state that `Calm` speaks of. -/
def core5 (s : State) := (s.dict, s.dram, s.layer, s.slate, s.inkwell)

theorem Calm.refl (K : Nat → Bool) (s : State) : Calm K s s := ⟨fun _ _ _ _ _ => rfl, rfl, fun _ => rfl, rfl, rfl⟩

theorem Calm.trans {K : Nat → Bool} {a b c : State} (h : Calm K a b) (h' : Calm K b c) : Calm K a c :=
  ⟨fun u k h1 h2 h3 => (h'.objs u k h1 h2 h3).trans (h.objs u k h1 h2 h3), h'.words.dram.trans h.words.dram,
    fun k => (h'.words.base k).trans (h.words.base k), h'.words.slate.trans h.words.slate,
    h'.words.inkwell.trans h.words.inkwell⟩

theorem Calm.after {K : Nat → Bool} {a b c : State} (h' : Calm K b c) (h : Calm K a b) : Calm K a c := h.trans h'

theorem Calm.mono {K K' : Nat → Bool} {a b : State} (h : Calm K a b) (hk : ∀ k, K' k = false → K k = false) :
    Calm K' a b := ⟨fun u k h1 h2 h3 => h.objs u k h1 (hk k h2) h3, h.words⟩

theorem Side.calm {K : Nat → Bool} {s s' : State} (h : Side s s') : Calm K s s' := by
  refine ⟨fun u k h1 _ h3 => h.objs u k h1 h3, ?_, fun k => ?_, ?_, ?_⟩ <;> rw [h.fields]

/-- The same five parts. -/
theorem calm_of {K : Nat → Bool} {s s' : State} (h : core5 s' = core5 s) : Calm K s s' := by
  simp only [core5, Prod.mk.injEq] at h
  obtain ⟨h1, h2, h3, h4, h5⟩ := h
  exact ⟨fun u k _ _ _ => getObj_congr h1 u k, h2, fun k => by rw [h3], h4, h5⟩

theorem calm_setObj {K : Nat → Bool} (s : State) {u k v : Nat} (hk : k < 2 ^ 24) (h : K k = true) :
    Calm K s (setObj u k v s) := by
  refine ⟨fun w j hj hn _ => getObj_setObj_obj s ?_ hj hk, rfl, fun _ => rfl, rfl, rfl⟩
  rintro rfl
  rw [h] at hn; cases hn

/-- An update of a layer that leaves the word of unlisted rows. -/
theorem calm_modLayer {K : Nat → Bool} (t c : Nat) (f : LayerS → LayerS) (hf : ∀ l, (f l).base = l.base) (s : State) :
    Calm K s (modLayer t c f s) := by
  refine ⟨fun _ _ _ _ _ => rfl, rfl, fun k => ?_, rfl, rfl⟩
  show (fget ({} : LayerS) (fupd {} s.layer (chKey t c) f) k).base = _
  by_cases h : k = chKey t c
  · rw [h, fget_fupd_same, hf]
  · rw [fget_fupd_other _ _ _ _ h]

/-! Chaining, from the outermost operation inwards. -/

theorem Calm.set {K : Nat → Bool} {a b : State} {u k v : Nat} (h : Calm K a b) (hk : k < 2 ^ 24) (hK : K k = true) :
    Calm K a (setObj u k v b) := h.trans (calm_setObj b hk hK)

theorem Calm.bump {K : Nat → Bool} {a b : State} {u k v : Nat} (h : Calm K a b) (hk : k < 2 ^ 24) (hK : K k = true) :
    Calm K a (bump u k v b) := h.trans (calm_setObj b hk hK)

theorem Calm.bumpSat {K : Nat → Bool} {a b : State} {u k v : Nat} (h : Calm K a b) (hk : k < 2 ^ 24)
    (hK : K k = true) : Calm K a (bumpSat u k v b) := h.trans (calm_setObj b hk hK)

theorem Calm.same {K : Nat → Bool} {a b c : State} (h : Calm K a b) (e : core5 c = core5 b) : Calm K a c :=
  h.trans (calm_of e)

theorem Calm.side {K : Nat → Bool} {a b c : State} (h : Calm K a b) (e : Side b c) : Calm K a c := h.trans e.calm

theorem calm_ite {K : Nat → Bool} (c : Prop) [Decidable c] {s a b : State} (ha : Calm K s a) (hb : Calm K s b) :
    Calm K s (if c then a else b) := by
  split
  · exact ha
  · exact hb

theorem calm_foldl {K : Nat → Bool} {α : Type} (f : State → α → State) (hf : ∀ s a, Calm K s (f s a)) (l : List α)
    (s : State) : Calm K s (l.foldl f s) := by
  induction l generalizing s with
  | nil => exact .refl K s
  | cons a l ih => exact (hf s a).trans (ih _)

/-- A fold over numbers below a bound. -/
theorem calm_range {K : Nat → Bool} (f : State → Nat → State) (n : Nat) (hf : ∀ s i, i < n → Calm K s (f s i))
    (s : State) : Calm K s ((List.range n).foldl f s) := by
  suffices h : ∀ l : List Nat, (∀ i ∈ l, i < n) → ∀ s, Calm K s (l.foldl f s) from
    h _ (fun i hi => List.mem_range.mp hi) s
  intro l
  induction l with
  | nil => exact fun _ s => .refl K s
  | cons a l ih =>
    exact fun h s => (hf s a (h a (by simp))).trans (ih (fun i hi => h i (List.mem_cons_of_mem _ hi)) _)

theorem calm_forTiles {K : Nat → Bool} (f : Nat → State → State) (hf : ∀ t s, Calm K s (f t s)) (s : State) :
    Calm K s (forTiles f s) := calm_foldl _ (fun s t => hf t s) _ s

theorem calm_forChans {K : Nat → Bool} (f : Nat → State → State) (hf : ∀ c s, c < 48 → Calm K s (f c s)) (s : State) :
    Calm K s (forChans f s) := calm_range _ 48 (fun s c h => hf c s h) s

/-! ## Voltage steps -/

theorem calm_vidEmit {K : Nat → Bool} (r w : Nat) (s : State) : Calm K s (vidEmit r w s) := by
  unfold vidEmit; dsimp only; split <;> exact calm_of rfl

theorem calm_vidSend {K : Nat → Bool} (r w : Nat) (s : State) : Calm K s (vidSend r w s) := by
  unfold vidSend; split
  · exact calm_of rfl
  · exact calm_vidEmit _ _ _

theorem calm_advanceStep (t : Nat) (s : State) : Calm (· == Obj.voltageSteps) s (advanceStep t s) := by
  unfold advanceStep
  dsimp only
  split
  · exact .refl _ s
  · refine calm_ite _ (calm_of rfl) (calm_ite _ (.refl _ s) ?_)
    refine (calm_vidSend _ _ _).after (Calm.bump (calm_of rfl) ?_ ?_) <;> decide

theorem calm_aimStep (t n : Nat) (s : State) : Calm (· == Obj.voltageSteps) s (aimStep t n s) :=
  by
  refine (calm_advanceStep t _).after (calm_of ?_)
  rfl

/-- The objects a step of the voltage logic at the end of a speed window writes. -/
def stepKeys (k : Nat) : Bool :=
  [Obj.voltageSteps, Obj.floorStep, Obj.ageingSamples, Obj.speedCeiling, Obj.ageingLoss].contains k

theorem calm_floorStepRaise (t : Nat) (s : State) : Calm stepKeys s (floorStepRaise t s) := by
  have ha : ∀ n x, Calm stepKeys x (aimStep t n x) := fun n x =>
    (calm_aimStep t n x).mono (fun k h => by simp [stepKeys] at h ⊢; tauto)
  have h1 : ∀ v, Calm stepKeys s (setObj t Obj.floorStep v s) := fun v => calm_setObj s (by decide) (by decide)
  unfold floorStepRaise
  dsimp only
  refine calm_ite _ (h1 _) (calm_ite _ ((h1 _).trans (ha _ _)) (calm_ite _ ((h1 _).trans (ha _ _)) (h1 _)))

theorem calm_ageingSample (t : Nat) (s : State) : Calm stepKeys s (ageingSample t s) := by
  unfold ageingSample
  dsimp only
  refine calm_ite _ (.refl _ s) ?_
  have h1 : ∀ (f : PowerTile → PowerTile) a b c, Calm stepKeys s
      (setObj t Obj.ageingLoss c (bump t Obj.ageingSamples a (setObj t Obj.speedCeiling b (modPTile t f s)))) := by
    intro f a b c
    refine Calm.set (Calm.bump (Calm.set (calm_of rfl) ?_ ?_) ?_ ?_) ?_ ?_ <;> decide
  exact calm_ite _ ((h1 _ _ _ _).trans (side_pushRecord _ _ _ _ _).calm) (h1 _ _ _ _)

end Sys2Proof.Machine
end

