-- ==== Sys2Proof/Laws/Words.lean ====
section
/-! SUPPORT. The laws of the stack's memory, its banks and its layers: a read after a write, what a write
leaves alone, and what a command word that a layer takes does. -/

namespace Sys2Proof.Machine

open Sys2Proof

/-! ## Stored words -/

theorem rawWord_congr {s s' : State} (h1 : s'.dram = s.dram) (h2 : s'.layer = s.layer) (t c b r w : Nat) :
    rawWord s' t c b r w = rawWord s t c b r w := by
  unfold rawWord dramBase; rw [h1, h2]

/-- A word reads back as written. -/
theorem rawWord_setRawWord_same (t c b r w v : Nat) (s : State) :
    rawWord (setRawWord t c b r w v s) t c b r w = v := fget_fset_same _ _ _ _

/-- A write of a word leaves every other word alone. -/
theorem rawWord_setRawWord_other {t c b r w t' c' b' r' w' : Nat} (v : Nat) (s : State)
    (h : dramKey t' c' b' r' w' ≠ dramKey t c b r w) :
    rawWord (setRawWord t c b r w v s) t' c' b' r' w' = rawWord s t' c' b' r' w' :=
  fget_fset_other _ _ _ _ h

theorem setRawWords_fields (t c b r w0 : Nat) (l : List Nat) (s : State) :
    setRawWords t c b r w0 l s = { s with dram := (setRawWords t c b r w0 l s).dram } := by
  induction l generalizing w0 s with
  | nil => rfl
  | cons v l ih =>
    show setRawWords t c b r (w0 + 1) l (setRawWord t c b r w0 v s) = _
    rw [ih]; rfl

/-- A write of words leaves alone every word outside them. -/
theorem rawWord_setRawWords_other {t c b r w0 t' c' b' r' w' : Nat} (l : List Nat) (s : State)
    (h : ∀ i < l.length, dramKey t' c' b' r' w' ≠ dramKey t c b r (w0 + i)) :
    rawWord (setRawWords t c b r w0 l s) t' c' b' r' w' = rawWord s t' c' b' r' w' := by
  induction l generalizing w0 s with
  | nil => rfl
  | cons v l ih =>
    show rawWord (setRawWords t c b r (w0 + 1) l (setRawWord t c b r w0 v s)) _ _ _ _ _ = _
    rw [ih, rawWord_setRawWord_other]
    · exact h 0 (by simp)
    · intro i hi
      have := h (i + 1) (by simpa using hi)
      rwa [show w0 + (i + 1) = w0 + 1 + i by omega] at this

/-- Words read back as written. -/
theorem rawWord_setRawWords (t c b r w0 : Nat) (l : List Nat) (s : State) (i : Nat) (h : i < l.length) :
    rawWord (setRawWords t c b r w0 l s) t c b r (w0 + i) = l.getD i 0 := by
  induction l generalizing w0 s i with
  | nil => simp at h
  | cons v l ih =>
    show rawWord (setRawWords t c b r (w0 + 1) l (setRawWord t c b r w0 v s)) _ _ _ _ _ = _
    cases i with
    | zero =>
      rw [rawWord_setRawWords_other, Nat.add_zero, rawWord_setRawWord_same]
      · simp
      · intro j _ e
        unfold dramKey at e; omega
    | succ i =>
      rw [show w0 + (i + 1) = w0 + 1 + i by omega, ih]
      · simp
      · simpa using h

/-! ## Banks and layers -/

@[simp] theorem getBank_setBank (t c b : Nat) (v : BankS) (s : State) : getBank (setBank t c b v s) t c b = v :=
  fget_fset_same _ _ _ _

theorem getBank_setBank_other {t c b b' : Nat} (v : BankS) (s : State) (h : b' ≠ b) :
    getBank (setBank t c b v s) t c b' = getBank s t c b' :=
  fget_fset_other _ _ _ _ (by unfold bkKey; omega)

theorem otherBanks_setBank {s s' : State} {t c b : Nat} {v : BankS} (h : s'.bank = (setBank t c b v s).bank) :
    OtherBanks s s' t c b := by
  intro k hk; rw [h]; exact fget_fset_other _ _ _ _ hk

@[simp] theorem getLayer_modLayer (t c : Nat) (f : LayerS → LayerS) (s : State) :
    getLayer (modLayer t c f s) t c = f (getLayer s t c) := fget_fupd_same _ _ _ _

@[simp] theorem getBank_modLayer (t c : Nat) (f : LayerS → LayerS) (s : State) (t' c' b : Nat) :
    getBank (modLayer t c f s) t' c' b = getBank s t' c' b := rfl

/-- The banks of a channel set one after another. -/
theorem setBanks_fields (t c : Nat) (v : BankS) (s : State) :
    setBanks t c v s = { s with bank := (setBanks t c v s).bank } ∧
    ∀ b < 16, getBank (setBanks t c v s) t c b = v := by
  unfold setBanks
  suffices h : ∀ (n : Nat) (s : State), (List.range n).foldl (fun s b => setBank t c b v s) s =
      { s with bank := ((List.range n).foldl (fun s b => setBank t c b v s) s).bank } ∧
      ∀ b < n, getBank ((List.range n).foldl (fun s b => setBank t c b v s) s) t c b = v from h 16 s
  intro n
  induction n with
  | zero => exact fun s => ⟨rfl, fun b hb => by omega⟩
  | succ n ih =>
    intro s
    obtain ⟨h1, h2⟩ := ih s
    rw [List.range_succ, List.foldl_append]
    generalize (List.range n).foldl (fun s b => setBank t c b v s) s = x at h1 h2
    refine ⟨?_, fun b hb => ?_⟩
    · show setBank t c n v x = _; rw [h1]; rfl
    · show getBank (setBank t c n v x) t c b = v
      by_cases e : b = n
      · rw [e, getBank_setBank]
      · rw [getBank_setBank_other _ _ e]; exact h2 b (by omega)

/-- `s'` differs from `s` in the layer of one channel only, and not in what its unlisted words read as. -/
structure OneLayer (s s' : State) (t c : Nat) : Prop where
  fields : s' = { s with layer := s'.layer }
  other : ∀ k, k ≠ chKey t c → fget ({} : LayerS) s'.layer k = fget {} s.layer k
  base : (getLayer s' t c).base = (getLayer s t c).base

theorem oneLayer_mod {t c : Nat} {f : LayerS → LayerS} (s : State) (hf : ∀ l, (f l).base = l.base) :
    OneLayer s (modLayer t c f s) t c :=
  ⟨rfl, fun _ hk => fget_fupd_other _ _ _ _ hk, by rw [getLayer_modLayer, hf]⟩

theorem OneLayer.trans {a b d : State} {t c : Nat} (h : OneLayer a b t c) (h' : OneLayer b d t c) : OneLayer a d t c := by
  refine ⟨?_, fun k hk => (h'.other k hk).trans (h.other k hk), h'.base.trans h.base⟩
  have e := h'.fields; rw [h.fields] at e; exact e

theorem oneLayer_capture (t c : Nat) (odd : Bool) (s : State) : OneLayer s (capture t c odd s) t c :=
  oneLayer_mod s (fun l => by split <;> rfl)

theorem oneLayer_report (t c b ev : Nat) (s : State) : OneLayer s (report t c b ev s) t c := oneLayer_mod s (fun _ => rfl)

theorem layers_base {s s' : State} {t c : Nat}
    (h : ∀ k, k ≠ chKey t c → fget ({} : LayerS) s'.layer k = fget {} s.layer k)
    (hb : (getLayer s' t c).base = (getLayer s t c).base) (k : Nat) :
    (fget ({} : LayerS) s'.layer k).base = (fget ({} : LayerS) s.layer k).base := by
  by_cases e : k = chKey t c
  · rw [e]; exact hb
  · rw [h k e]

theorem sameMemory_layers {s s' : State} {t c : Nat} (hd : s'.dram = s.dram) (hs : s'.slate = s.slate)
    (hi : s'.inkwell = s.inkwell)
    (h : ∀ k, k ≠ chKey t c → fget ({} : LayerS) s'.layer k = fget {} s.layer k)
    (hb : (getLayer s' t c).base = (getLayer s t c).base) : SameMemory s s' :=
  SameWords.sameMemory ⟨hd, layers_base h hb, hs, hi⟩

@[simp] theorem capture_up (t c : Nat) (odd : Bool) (s : State) :
    (getLayer (capture t c odd s) t c).up = (getLayer s t c).up := by
  unfold capture; rw [getLayer_modLayer]; split <;> rfl

@[simp] theorem capture_awaits (t c : Nat) (odd : Bool) (s : State) : (getLayer (capture t c odd s) t c).awaits = none := by
  unfold capture; rw [getLayer_modLayer]; split <;> rfl

/-- A captured word whose bank and fields allow it has its effect. -/
theorem layerWord_ok {t c w : Nat} {ok : State → Bool} {f : State → State} {s : State}
    (hk : ok (capture t c false s) = true) : layerWord t c w ok f s = f (capture t c false s) := if_pos hk

/-- A word whose bank or fields do not allow it is reported as a violation. -/
theorem layerWord_bad {t c w : Nat} {ok : State → Bool} {f : State → State} {s : State}
    (hk : ok (capture t c false s) = false) :
    layerWord t c w ok f s = report t c (addressed w) 9 (capture t c false s) :=
  if_neg (by rw [hk]; exact Bool.false_ne_true)

/-- The idle slot of an SLP-2 layer is all zero, and so of even parity. -/
theorem onesCount_zero : onesCount 0 = 0 := by decide

/-- A transfer of odd parity is discarded and reported. -/
theorem layerTake_odd {t c w : Nat} {arg : Option Nat} {beats : List Nat} {s : State}
    (hp : onesCount w % 2 = 1) : layerTake t c w arg beats s = report t c 0 8 (capture t c true s) := by
  unfold layerTake
  dsimp only
  rw [if_neg, if_pos]
  · simp [hp]
  · rintro ⟨_, rfl⟩
    rw [onesCount_zero] at hp; omega

/-- So is one whose argument word has it. -/
theorem layerTake_oddArg {t c w a : Nat} {beats : List Nat} {s : State} (hw : slp2 s = false ∨ w ≠ 0)
    (hp : onesCount a % 2 = 1) : layerTake t c w (some a) beats s = report t c 0 8 (capture t c true s) := by
  unfold layerTake
  dsimp only
  rw [if_neg, if_pos]
  · simp [hp]
  · rintro ⟨h, rfl⟩
    rcases hw with hw | hw
    · rw [hw] at h; cases h
    · exact hw rfl

/-- A word of even parity that follows no other and needs no argument goes to its operation. -/
theorem layerTake_word {t c w : Nat} {beats : List Nat} {s : State} (hp : onesCount w % 2 = 0)
    (hw : slp2 s = false ∨ w ≠ 0) (ha : (getLayer s t c).awaits = none) (hn : takesArg w = false) :
    layerTake t c w none beats s = layerDo t c w none beats s := by
  unfold layerTake
  dsimp only
  rw [if_neg, if_neg, ha]
  · simp [hn]
  · simp [hp]
  · rintro ⟨h, rfl⟩
    rcases hw with hw | hw
    · rw [hw] at h; cases h
    · exact hw rfl

/-- So does a word with its argument, both of even parity. -/
theorem layerTake_pair {t c w a : Nat} {beats : List Nat} {s : State} (hp : onesCount w % 2 = 0)
    (hpa : onesCount a % 2 = 0) (hw : slp2 s = false ∨ w ≠ 0) (ha : (getLayer s t c).awaits = none) :
    layerTake t c w (some a) beats s = layerDo t c w (some a) beats s := by
  unfold layerTake
  dsimp only
  rw [if_neg, if_neg, ha]
  · simp
  · simp [hp, hpa]
  · rintro ⟨h, rfl⟩
    rcases hw with hw | hw
    · rw [hw] at h; cases h
    · exact hw rfl

end Sys2Proof.Machine
end

