-- ==== Sys2Proof/Laws/Canon.lean ====
section
/-! SUPPORT. Every operation on the stack's memory, the Slate and the Inkwells keeps the canonical form of
the map it writes, and the memory at reset has it. -/

namespace Sys2Proof.Machine

open Sys2Proof

/-! ## Stored words of the stack -/

theorem dramBase_congr {s s' : State} (h : s'.layer = s.layer) : dramBase s' = dramBase s := by
  funext k; unfold dramBase; rw [h]

/-- The form is one of the stored words and of what unlisted words read as. -/
theorem memoryWf_congr {s s' : State} (hd : s'.dram = s.dram) (hb : dramBase s' = dramBase s)
    (h : memoryWf s = true) : memoryWf s' = true := by
  unfold memoryWf at *; rw [hd, hb]; exact h

theorem memoryWf_reset : memoryWf State.reset = true := rfl

theorem memoryWf_setRawWord (t c b r w v : Nat) (s : State) (h : memoryWf s = true) :
    memoryWf (setRawWord t c b r w v s) = true := fwf_fset (dramBase s) (dramKey t c b r w) v s.dram h

theorem memoryWf_setRawWords (t c b r w0 : Nat) (l : List Nat) (s : State) (h : memoryWf s = true) :
    memoryWf (setRawWords t c b r w0 l s) = true := by
  induction l generalizing w0 s with
  | nil => exact h
  | cons v l ih => exact ih _ _ (memoryWf_setRawWord t c b r w0 v s h)

/-- A layer changed in anything but what its unlisted words read as. -/
theorem memoryWf_modLayer {t c : Nat} {f : LayerS → LayerS} (s : State) (hf : ∀ l, (f l).base = l.base)
    (h : memoryWf s = true) : memoryWf (modLayer t c f s) = true := by
  have hl := oneLayer_mod (t := t) (c := c) s hf
  exact memoryWf_congr (s := s) rfl (funext fun k => layers_base hl.other hl.base _) h

/-- Filling the rows of a channel keeps the form: the channel's listed words go as its base changes. -/
theorem memoryWf_fillRows (t c v : Nat) (s : State) (h : memoryWf s = true) :
    memoryWf (modLayer t c (fun l => { l with base := v })
      { s with dram := fkeep (fun k => decide (k / 256 / 8208 / 16 ≠ chKey t c)) s.dram }) = true := by
  have hk := fwf_fkeep (dramBase s) (fun k => decide (k / 256 / 8208 / 16 ≠ chKey t c)) s.dram h
  unfold memoryWf fwf at *
  simp only [Bool.and_eq_true, List.all_eq_true, decide_eq_true_eq] at hk ⊢
  refine ⟨hk.1, fun e he => ?_⟩
  have hp : e.1 / 256 / 8208 / 16 ≠ chKey t c := by
    have := (List.mem_filter.mp he).2; simpa using this
  have e1 : dramBase (modLayer t c (fun l => { l with base := v })
      { s with dram := fkeep (fun k => decide (k / 256 / 8208 / 16 ≠ chKey t c)) s.dram }) e.1 = dramBase s e.1 := by
    unfold dramBase modLayer
    rw [fget_fupd_other _ _ _ _ hp]
  rw [e1]
  exact hk.2 e he

theorem memoryWf_fillChannel (t c : Nat) (s : State) (h : memoryWf s = true) :
    memoryWf (fillChannel t c s) = true := by
  have fold : ∀ (l : List Nat) (g : Nat → State → State), (∀ i x, memoryWf x = true → memoryWf (g i x) = true) →
      ∀ x, memoryWf x = true → memoryWf (l.foldl (fun x i => g i x) x) = true := by
    intro l g hg
    induction l with
    | nil => exact fun x hx => hx
    | cons a l ih => exact fun x hx => ih _ (hg a x hx)
  unfold fillChannel
  dsimp only
  have h2 := fold ((List.range 256).filter (fun i => (getRemap s t c (i / 16)).spares.getD (i % 16) 0 = 2))
    (fun i x => setRawWords t c (i / 16) (8192 + i % 16) 0 (rawWords s t c (i / 16) (8192 + i % 16) 0 256) x)
    (fun i x hx => memoryWf_setRawWords _ _ _ _ _ _ x hx) _ (memoryWf_fillRows t c (goodWord (getObj s t Obj.fillPattern)) s h)
  split
  · exact h2
  · exact memoryWf_congr rfl rfl h2

/-! ## The Slate and the Inkwells -/

/-- Two maps in the form, the keys of the first below those of the second. -/
theorem fwf_append {α : Type} [DecidableEq α] (d : Nat → α) {a b : FMap α} (ha : fwf d a = true)
    (hb : fwf d b = true) (h : ∀ x ∈ a, ∀ y ∈ b, x.1 < y.1) : fwf d (a ++ b) = true := by
  induction a with
  | nil => exact hb
  | cons e r ih =>
    obtain ⟨k, v⟩ := e
    have hx := (fwf_cons d k v r).mp ha
    refine (fwf_cons d k v _).mpr ⟨hx.1, ?_, ih hx.2.2 (fun x hr => h x (List.mem_cons_of_mem _ hr))⟩
    intro e he
    rcases List.mem_append.mp he with he | he
    · exact hx.2.1 e he
    · exact h (k, v) (by simp) e he

theorem fwf_new {α : Type} [DecidableEq α] (d : α) (lo n : Nat) (f : Nat → α) :
    fwf (fun _ => d) (((List.range n).map (fun i => (lo + i, f i))).filter (fun e => decide (e.2 ≠ d))) = true := by
  induction n with
  | zero => rfl
  | succ n ih =>
    rw [List.range_succ, List.map_append, List.filter_append]
    refine fwf_append _ ih ?_ ?_
    · by_cases e : f n = d <;> simp [e, fwf, fsorted]
    · intro x hx y hy
      obtain ⟨i, hi, rfl⟩ := List.mem_map.mp (List.mem_filter.mp hx).1
      simp only [List.map_cons, List.map_nil, List.mem_filter, List.mem_singleton] at hy
      rw [hy.1]
      have := List.mem_range.mp hi
      show lo + i < lo + n
      omega

/-- A test of the memories overwrites a range and keeps the form. -/
theorem fwf_overwrite {α : Type} [DecidableEq α] (d : α) (lo n : Nat) (f : Nat → α) (m : FMap α)
    (h : fwf (fun _ => d) m = true) : fwf (fun _ => d) (overwrite d lo n f m) = true := by
  have hl := fwf_fkeep (fun _ => d) (fun k => decide (k < lo)) m h
  have hh := fwf_fkeep (fun _ => d) (fun k => decide (lo + n ≤ k)) m h
  have hn : ∀ x ∈ ((List.range n).map (fun i => (lo + i, f i))).filter (fun e => decide (e.2 ≠ d)),
      lo ≤ x.1 ∧ x.1 < lo + n := by
    intro x hx
    obtain ⟨i, hi, rfl⟩ := List.mem_map.mp (List.mem_filter.mp hx).1
    have := List.mem_range.mp hi
    exact ⟨Nat.le_add_right lo i, Nat.add_lt_add_left this lo⟩
  refine fwf_append _ (fwf_append _ hl (fwf_new d lo n f) ?_) hh ?_
  · intro x hx y hy
    have h1 : x.1 < lo := by simpa using (List.mem_filter.mp hx).2
    have := (hn y hy).1
    omega
  · intro x hx y hy
    have h2 : lo + n ≤ y.1 := by simpa using (List.mem_filter.mp hy).2
    rcases List.mem_append.mp hx with hx | hx
    · have h1 : x.1 < lo := by simpa using (List.mem_filter.mp hx).2
      omega
    · have := (hn x hx).2
      omega

/-- The Slate's bytes and the poison of its words are in the form. -/
def slateWf (s : State) : Bool := fwf (fun _ => 0) s.slate && fwf (fun _ => false) s.slatePois

theorem slateWf_foldl {α : Type} (f : State → α → State) (hf : ∀ s a, slateWf s = true → slateWf (f s a) = true)
    (l : List α) (s : State) (h : slateWf s = true) : slateWf (l.foldl f s) = true := by
  induction l generalizing s with
  | nil => exact h
  | cons a l ih => exact ih _ (hf s a h)

theorem slateWf_congr {s s' : State} (h1 : s'.slate = s.slate) (h2 : s'.slatePois = s.slatePois)
    (h : slateWf s = true) : slateWf s' = true := by
  unfold slateWf at *; rw [h1, h2]; exact h

theorem slateWf_byte (k v : Nat) (s : State) (h : slateWf s = true) :
    slateWf { s with slate := fset 0 s.slate k v } = true := by
  unfold slateWf at *
  rw [Bool.and_eq_true] at *
  exact ⟨fwf_fset (fun _ => 0) _ _ _ h.1, h.2⟩

theorem slateWf_mark (k : Nat) (v : Bool) (s : State) (h : slateWf s = true) :
    slateWf { s with slatePois := fset false s.slatePois k v } = true := by
  unfold slateWf at *
  rw [Bool.and_eq_true] at *
  exact ⟨h.1, fwf_fset (fun _ => false) _ _ _ h.2⟩

theorem slateWf_bytes (t off n data : Nat) (s : State) (h : slateWf s = true) :
    slateWf (slateBytes t off n data s) = true := by
  induction n generalizing off data s with
  | zero => exact h
  | succ n ih => exact ih _ _ _ (slateWf_byte _ _ _ h)

/-- What a read of an SRAM word does leaves the Slate's bytes alone. -/
theorem slateWf_sramRead (t kind w : Nat) (pois : Bool) (s : State) (h : slateWf s = true) :
    slateWf (sramRead t kind w pois s) = true := by
  have e := readWord_read t kind w pois s
  unfold ReadWord at e
  exact slateWf_congr (by rw [e]) (by rw [e]) h

/-- A read of the Slate may put its words right, or leave them poisoned. -/
theorem slateWf_readWord (t w : Nat) (s : State) (h : slateWf s = true) : slateWf (slateReadWord t w s) = true := by
  have h1 := slateWf_sramRead t sramSlate w (fget false s.slatePois (t * 2 ^ 20 + w)) s h
  unfold slateReadWord
  dsimp only
  generalize sramRead t sramSlate w (fget false s.slatePois (t * 2 ^ 20 + w)) s = x at h1
  generalize sramDelta _ _ = d
  have h2 : slateWf (if d = 0 then x else { x with slate := (List.range 8).foldl (fun m i =>
      fupd 0 m (t * 2 ^ 23 + 8 * w + i) (fun b => b ^^^ d / 2 ^ (8 * i) % 256)) x.slate }) = true := by
    split
    · exact h1
    · unfold slateWf at *
      rw [Bool.and_eq_true] at *
      refine ⟨?_, h1.2⟩
      have fold : ∀ (l : List Nat) m, fwf (fun _ => 0) m = true → fwf (fun _ => 0) (l.foldl (fun m i =>
          fupd 0 m (t * 2 ^ 23 + 8 * w + i) (fun b => b ^^^ d / 2 ^ (8 * i) % 256)) m) = true := by
        intro l
        induction l with
        | nil => exact fun _ hm => hm
        | cons a l ih => exact fun m hm => ih _ (fwf_fset (fun _ => 0) _ _ _ hm)
      exact fold _ _ h1.1
  split <;> exact slateWf_mark _ _ _ h2

theorem slateWf_touch (t off n : Nat) (s : State) (h : slateWf s = true) : slateWf (slateTouch t off n s) = true := by
  unfold slateTouch
  split
  · exact h
  · refine slateWf_foldl _ (fun s w hs => ?_) _ _ h
    split
    · exact slateWf_congr rfl rfl hs
    · exact slateWf_readWord _ _ _ hs

/-- A write of the Slate keeps the form of its bytes and of the poison of its words. -/
theorem slateWf_write (t off n data bad : Nat) (s : State) (h : slateWf s = true) :
    slateWf (slateWrite t off n data bad s) = true := by
  unfold slateWrite slateMark
  exact slateWf_foldl _ (fun s i hs => slateWf_mark _ _ _ hs) _ _
    (slateWf_bytes _ _ _ _ _ (slateWf_touch _ _ _ _ h))

theorem fwf_setInk (t a row col v : Nat) (s : State) (h : fwf (fun _ => 0) s.inkwell = true) :
    fwf (fun _ => 0) (setInk t a row col v s).inkwell = true := fwf_fset (fun _ => 0) _ _ _ h

end Sys2Proof.Machine
end

