-- ==== Sys2Proof/Laws/Repair.lean ====
section
/-! SUPPORT. What repair can touch, said once: `Mends s s'` says that `s'` differs from `s` only by objects,
reporting, the pass watch, migrations, the retirement list, the block pool and queued work. Retiring a row
and starting migrations keep it; so no word of memory and no remap table changes there. And a read that
finds only good words causes nothing. -/

namespace Sys2Proof.Machine

open Sys2Proof

/-- `s'` differs from `s` by what retiring rows and starting migrations touch. -/
def Mends (s s' : State) : Prop := s' = { s with
  dict := s'.dict, door := s'.door, passes := s'.passes
  count := { s.count with events := s'.count.events, intake := s'.count.intake }
  out := { s.out with frames := s'.out.frames }
  field := { s.field with events := s'.field.events }
  copy := { s.copy with queue := s'.copy.queue }
  queue := s'.queue, sched := s'.sched, retire := s'.retire, prot := s'.prot, pool := s'.pool, way := s'.way }

theorem Mends.refl (s : State) : Mends s s := rfl

theorem Mends.trans {a b c : State} (h : Mends a b) (h' : Mends b c) : Mends a c := by
  unfold Mends at *
  rw [h] at h'
  exact h'

theorem Side.mends {s s' : State} (h : Side s s') : Mends s s' := by
  unfold Mends
  rw [h.fields]

theorem Mends.after {a b c : State} (h' : Mends b c) (h : Mends a b) : Mends a c := h.trans h'

theorem Mends.side {a b c : State} (h : Mends a b) (h' : Side b c) : Mends a c := h.trans h'.mends

theorem Mends.sameMemory {s s' : State} (h : Mends s s') : SameMemory s s' := by
  refine sameMemory_of ?_ ?_ ?_ ?_ <;> rw [h]

theorem mends_foldl {α : Type} (f : State → α → State) (hf : ∀ s a, Mends s (f s a)) (l : List α) (s : State) :
    Mends s (l.foldl f s) := by
  induction l generalizing s with
  | nil => exact .refl s
  | cons a l ih => exact (hf s a).trans (ih _)

theorem mends_setObj (u k v : Nat) (s : State) : Mends s (setObj u k v s) := rfl
theorem mends_bump (u k v : Nat) (s : State) : Mends s (bump u k v s) := rfl
theorem mends_modProt (t : Nat) (f : Prot → Prot) (s : State) : Mends s (modProt t f s) := rfl

theorem mends_logRepair (t a b c d e : Nat) (s : State) : Mends s (logRepair t a b c d e s) :=
  (mends_setObj _ _ _ s).side (side_addLog _ _ _ _ _ _ _)

/-! ## The pool: references dropped, blocks cleared and retired -/

/-- The objects of the block pool that dropping a reference or retiring a block writes. -/
def poolKey (k : Nat) : Bool := [Obj.freeBlocks, Obj.retiredBlocks, Obj.lastMapEvent].contains k

/-- `s'` differs from `s` by the pool, the directory's ways, queued clearing work, reporting, and the
objects that count blocks. -/
structure Pooled (s s' : State) : Prop where
  fields : s' = { s with
    dict := s'.dict, door := s'.door, passes := s'.passes
    count := { s.count with events := s'.count.events, intake := s'.count.intake }
    out := { s.out with frames := s'.out.frames }
    field := { s.field with events := s'.field.events }
    copy := { s.copy with queue := s'.copy.queue }
    queue := s'.queue, sched := s'.sched, pool := s'.pool, way := s'.way }
  objs : ∀ u k, k < 2 ^ 24 → poolKey k = false → sideKey k = false → getObj s' u k = getObj s u k

theorem Pooled.refl (s : State) : Pooled s s := ⟨rfl, fun _ _ _ _ _ => rfl⟩

theorem Pooled.trans {a b c : State} (h : Pooled a b) (h' : Pooled b c) : Pooled a c := by
  refine ⟨?_, fun u k h1 h2 h3 => (h'.objs u k h1 h2 h3).trans (h.objs u k h1 h2 h3)⟩
  have e := h'.fields
  rw [h.fields] at e
  exact e

theorem Pooled.after {a b c : State} (h' : Pooled b c) (h : Pooled a b) : Pooled a c := h.trans h'

theorem Side.pooled {s s' : State} (h : Side s s') : Pooled s s' := by
  refine ⟨?_, fun u k h1 _ h3 => h.objs u k h1 h3⟩
  rw [h.fields]

theorem Pooled.mends {s s' : State} (h : Pooled s s') : Mends s s' := by
  unfold Mends
  rw [h.fields]

/-- A step that touches only parts `Pooled` allows and writes no object. -/
theorem Pooled.of_same_dict {s s' : State} (h : s' = { s with
    queue := s'.queue, sched := s'.sched, pool := s'.pool, way := s'.way }) : Pooled s s' := by
  have hd : s'.dict = s.dict := by rw [h]
  refine ⟨?_, fun u k _ _ _ => getObj_congr hd u k⟩
  rw [h]

theorem pooled_setObj (s : State) {u k v : Nat} (hk : k < 2 ^ 24) (h : poolKey k = true) : Pooled s (setObj u k v s) := by
  refine ⟨rfl, fun w j hj hs _ => getObj_setObj_obj s ?_ hj hk⟩
  rintro rfl
  rw [h] at hs; cases hs

theorem pooled_bump (s : State) {u k v : Nat} (hk : k < 2 ^ 24) (h : poolKey k = true) : Pooled s (bump u k v s) :=
  pooled_setObj s hk h

theorem pooled_mapEvent (t a x st : Nat) (s : State) : Pooled s (mapEvent t a x st s) :=
  (side_addLog _ _ _ _ _ _ _).pooled.after (pooled_setObj s (by decide) (by decide))

theorem pooled_foldl {α : Type} (f : State → α → State) (hf : ∀ s a, Pooled s (f s a)) (l : List α) (s : State) :
    Pooled s (l.foldl f s) := by
  induction l generalizing s with
  | nil => exact .refl s
  | cons a l ih => exact (hf s a).trans (ih _)

theorem pooled_queueFills (t p : Nat) (s : State) : Pooled s (queueFills t p s) := .of_same_dict rfl

theorem pooled_setPool (t p : Nat) (d : PoolD) (s : State) : Pooled s (setPool t p d s) := .of_same_dict rfl

theorem pooled_dropRef (t p part : Nat) (s : State) : Pooled s (dropRef t p part s) := by
  unfold dropRef
  dsimp only
  split
  · split
    · exact (pooled_queueFills _ _ _).after (pooled_setPool _ _ _ _)
    · exact (pooled_bump _ (by decide) (by decide)).after (pooled_setPool _ _ _ _)
  · exact pooled_setPool _ _ _ _

/-- A directory's ways to a block let go of it. -/
theorem pooled_dropWays (t p : Nat) (l : List (Nat × Way)) (s : State) :
    Pooled s (l.foldl (fun s e => dropRef t p e.2.part { s with way := fset {} s.way e.1 {} }) s) :=
  pooled_foldl _ (fun s (e : Nat × Way) =>
    (pooled_dropRef _ _ _ _).after (.of_same_dict (s' := { s with way := fset {} s.way e.1 {} }) rfl)) l s

theorem pooled_retireBlock (t c b row : Nat) (s : State) : Pooled s (retireBlock t c b row s) := by
  unfold retireBlock
  split
  · exact .refl s
  · split
    · exact .refl s
    · dsimp only
      refine (side_ring _ _ _).pooled.after ((pooled_mapEvent _ _ _ _ _).after
        ((pooled_bump _ (by decide) (by decide)).after ?_))
      split
      · exact (pooled_setObj _ (by decide) (by decide)).after ((pooled_dropWays _ _ _ _).after (pooled_setPool _ _ _ _))
      · exact (pooled_dropWays _ _ _ _).after (pooled_setPool _ _ _ _)

theorem mends_retireBlock (t c b row : Nat) (s : State) : Mends s (retireBlock t c b row s) :=
  (pooled_retireBlock t c b row s).mends

/-! ## Retiring and migrating rows -/

theorem mends_retireRowAt (t c b row cause : Nat) (s : State) : Mends s (retireRowAt t c b row cause s) := by
  unfold retireRowAt
  dsimp only
  have h0 : ∀ f : Prot → Prot, Mends s (modProt t f s) := fun _ => rfl
  generalize hx : modProt t _ s = x
  have hx : Mends s x := hx ▸ h0 _
  refine Mends.after ?_ hx
  split
  · exact .refl _
  · split
    · exact mends_modProt _ _ _
    · split
      · exact (mends_bump _ _ _ _).after (mends_logRepair _ _ _ _ _ _ _)
      · refine (mends_retireBlock _ _ _ _ _).after ((side_ring _ _ _).mends.after ((mends_logRepair _ _ _ _ _ _ _).after ?_))
        exact (side_pushRepair _ _ _ _ _ _).mends.after ((mends_bump _ _ _ _).after rfl)

theorem mends_enterDirect (t c : Nat) (a : Acc) (s : State) : Mends s (enterDirect t c a s) := by
  unfold enterDirect
  split
  · unfold takeEntry
    dsimp only
    split <;> rfl
  · rfl

theorem mends_startCopy (t : Nat) (m : Mig) (s : State) : Mends s (startCopy t m s) := by
  unfold startCopy
  exact (mends_enterDirect _ _ _ _).after rfl

theorem mends_startMigrations (n t : Nat) (s : State) : Mends s (startMigrations n t s) := by
  induction n generalizing s with
  | zero => exact .refl s
  | succ n ih =>
    unfold startMigrations
    split
    · exact .refl s
    · split
      · exact .refl s
      · dsimp only
        split
        · exact (ih _).after ((mends_startCopy _ _ _).after (mends_modProt _ _ _))
        · exact (ih _).after ((mends_startCopy _ _ _).after (mends_modProt _ _ _))
        · exact (ih _).after ((mends_retireRowAt _ _ _ _ _ _).after (mends_modProt _ _ _))
        · exact (ih _).after ((mends_retireRowAt _ _ _ _ _ _).after (mends_modProt _ _ _))

/-! ## Link faults -/

/-- The objects a link fault writes beside those of reporting. -/
def linkKeys (k : Nat) : Bool := decide ((Obj.channelState ≤ k ∧ k < Obj.channelState + 48) ∨
  (Obj.linkFaults ≤ k ∧ k < Obj.linkFaults + 48))

theorem calm_modQueue {K : Nat → Bool} (t c : Nat) (f : QueueS → QueueS) (s : State) : Calm K s (modQueue t c f s) :=
  calm_of rfl

theorem calm_modBounce {K : Nat → Bool} (t c : Nat) (f : Bounce → Bounce) (s : State) : Calm K s (modBounce t c f s) :=
  calm_of rfl

/-- What a channel sends back to its queues touches no object and no word. -/
theorem calm_unwindChannel {K : Nat → Bool} (t c : Nat) (keep : Down → Bool) (s : State) :
    Calm K s (unwindChannel t c keep s) := by
  unfold unwindChannel
  have h : Calm K s (dropWords t c keep s) := by
    unfold dropWords
    refine calm_modLayer t c _ ?_ s
    exact fun _ => rfl
  refine (calm_foldl _ (fun s x => ?_) _ _).after h
  unfold returnAccs
  dsimp only
  refine calm_ite _ ((calm_modBounce _ _ _ _).after ?_) ?_ <;>
  · refine Calm.trans (calm_modQueue _ _ _ _) (calm_modLayer t x _ ?_ _)
    exact fun _ => rfl

theorem calm_linkFault {t c : Nat} (hc : c < 48) (s : State) : Calm linkKeys s (linkFault t c s) := by
  unfold linkFault
  refine calm_ite _ (.refl _ s) ?_
  dsimp only
  refine Calm.side (Calm.side ?_ (side_addLog _ _ _ _ _ _ _)) (side_raiseCause _ _ _)
  have h1 : Obj.channelState + c < 2 ^ 24 := by simp only [Obj.channelState]; omega
  have h2 : Obj.linkFaults + c < 2 ^ 24 := by simp only [Obj.linkFaults]; omega
  have h3 : Calm linkKeys s (bump t (Obj.linkFaults + c) 1 (setObj t (Obj.channelState + c) 3 s)) :=
    Calm.bump (calm_setObj s h1 (by simp [linkKeys]; omega)) h2 (by simp [linkKeys]; omega)
  generalize bump t (Obj.linkFaults + c) 1 (setObj t (Obj.channelState + c) 3 s) = x at h3
  exact h3.trans (calm_unwindChannel _ _ _ _)

/-! ## Reads that find only good words -/

theorem wordBad_good {w : Nat} (h : classify w = .good) : wordBad w = false := by unfold wordBad; rw [h]

theorem findWords_good (l : List Nat) (i : Nat) (f : Found) (h : ∀ w ∈ l, classify w = .good) :
    (findWords l i f).bad = f.bad ∧ (findWords l i f).first = f.first ∧ (findWords l i f).corrected = f.corrected := by
  induction l generalizing i f with
  | nil => exact ⟨rfl, rfl, rfl⟩
  | cons w l ih =>
    unfold findWords
    rw [h w (by simp)]
    exact ih _ _ (fun x hx => h x (List.mem_cons_of_mem _ hx))

theorem reportWords_good (t c b row w0 : Nat) (scrub : Bool) (l : List Nat) (q : List Bool) (i : Nat) (s : State)
    (h : ∀ w ∈ l, classify w = .good) : reportWords t c b row w0 scrub l q i s = s := by
  induction l generalizing q i s with
  | nil => rfl
  | cons w l ih =>
    unfold reportWords
    rw [h w (by simp)]
    exact ih _ _ _ (fun x hx => h x (List.mem_cons_of_mem _ hx))

theorem writeBackSectors_clean (t c b row w0 : Nat) (a : Acc) (f : Found) (hc : f.corrected = 0)
    (hf : f.first = 0) (l : List Nat) (s : State) : writeBackSectors t c b row w0 a f l s = s := by
  induction l generalizing s with
  | nil => rfl
  | cons j l ih =>
    unfold writeBackSectors
    simp only [hc, hf, Nat.or_zero, Nat.zero_div, Nat.zero_mod, if_true]
    exact ih s

/-- A read that finds only good words reports nothing and writes nothing back. -/
theorem afterRead_good (t c b row w0 : Nat) (a : Acc) (wb : Bool) (l : List Nat) (s : State)
    (h : ∀ w ∈ l, classify w = .good) : afterRead t c b row w0 a wb l (findWords l 0 {}) s = s := by
  obtain ⟨_, h2, h3⟩ := findWords_good l 0 {} h
  unfold afterRead
  dsimp only
  rw [reportWords_good _ _ _ _ _ _ _ _ _ _ h, if_neg, writeBackSectors_clean _ _ _ _ _ _ _ h3 h2, ite_self]
  rw [Bool.not_eq_true, List.any_eq_false]
  intro w hw
  rw [h w hw]; decide

end Sys2Proof.Machine
end

