-- ==== Sys2Proof/Laws/Window.lean ====
section
/-! SUPPORT. What the Recess window of a channel can touch when it goes on (R292), said once. -/

namespace Sys2Proof.Machine

open Sys2Proof

/-- The objects a window writes. -/
abbrev windowKeys (t c : Nat) : List (Nat × Nat) :=
  [(t, Obj.recessWindows + c), (t, Obj.recessLongest + c), (t, Obj.recessExtended + c)]

/-- `s'` differs from `s` by what a Recess window of channel `c` of tile `t` does when it goes on. -/
structure Windowed (s s' : State) (t c : Nat) : Prop where
  fields : s' = { s with layer := s'.layer, recess := s'.recess, train := s'.train, dict := s'.dict }
  other : ∀ k, k ≠ chKey t c → fget ({} : LayerS) s'.layer k = fget {} s.layer k
  mine : ∃ d p, getLayer s' t c = { getLayer s t c with down := d, fillPending := p }
  objs : ∀ u k, k < 2 ^ 24 → (u, k) ∉ windowKeys t c → getObj s' u k = getObj s u k

theorem Windowed.refl (s : State) (t c : Nat) : Windowed s s t c :=
  ⟨rfl, fun _ _ => rfl, ⟨_, _, rfl⟩, fun _ _ _ _ => rfl⟩

theorem Windowed.trans {a b d : State} {t c : Nat} (h : Windowed a b t c) (h' : Windowed b d t c) : Windowed a d t c := by
  refine ⟨?_, fun k hk => (h'.other k hk).trans (h.other k hk), ?_, fun u k h1 h2 => (h'.objs u k h1 h2).trans (h.objs u k h1 h2)⟩
  · have e := h'.fields; rw [h.fields] at e; exact e
  · obtain ⟨d1, p1, e1⟩ := h.mine
    obtain ⟨d2, p2, e2⟩ := h'.mine
    exact ⟨d2, p2, by rw [e2, e1]⟩

theorem Windowed.after {a b d : State} {t c : Nat} (h' : Windowed b d t c) (h : Windowed a b t c) : Windowed a d t c :=
  h.trans h'

theorem windowed_recess (t c : Nat) (f : RecessS → RecessS) (s : State) : Windowed s (modRecess t c f s) t c :=
  ⟨rfl, fun _ _ => rfl, ⟨_, _, rfl⟩, fun _ _ _ _ => rfl⟩

theorem windowed_train (t c : Nat) (f : TrainS → TrainS) (s : State) : Windowed s (modTrain t c f s) t c :=
  ⟨rfl, fun _ _ => rfl, ⟨_, _, rfl⟩, fun _ _ _ _ => rfl⟩

/-- A layer changed in what is on its way down and in the pattern it is to take. -/
theorem windowed_layer {t c : Nat} {f : LayerS → LayerS} (s : State)
    (h : ∀ l, ∃ d p, f l = { l with down := d, fillPending := p }) : Windowed s (modLayer t c f s) t c := by
  refine ⟨rfl, fun _ hk => fget_fupd_other _ _ _ _ hk, ?_, fun _ _ _ _ => rfl⟩
  rw [getLayer_modLayer]
  exact h _

theorem windowed_down (t c : Nat) (d : Down) (s : State) : Windowed s (sendDown t c d s) t c :=
  windowed_layer s (fun _ => ⟨_, _, rfl⟩)

theorem windowed_setObj {t c k : Nat} (v : Nat) (s : State) (hk : k < 2 ^ 24) (h : (t, k) ∈ windowKeys t c) :
    Windowed s (setObj t k v s) t c := by
  refine ⟨rfl, fun _ _ => rfl, ⟨_, _, rfl⟩, fun u j hj hn => getObj_setObj_other s (fun e => hn ?_)⟩
  obtain ⟨rfl, rfl⟩ := okey_inj hj hk e
  exact h

theorem windowed_closeWindow {t c : Nat} (hc : c < 48) (s : State) : Windowed s (closeWindow t c s) t c := by
  unfold closeWindow
  have b1 : Obj.recessWindows + c < 2 ^ 24 := by simp only [Obj.recessWindows]; omega
  have b2 : Obj.recessLongest + c < 2 ^ 24 := by simp only [Obj.recessLongest]; omega
  have b3 : Obj.recessExtended + c < 2 ^ 24 := by simp only [Obj.recessExtended]; omega
  dsimp only
  have h0 : ∀ f v, Windowed s (setObj t (Obj.recessLongest + c) v (bump t (Obj.recessWindows + c) 1 (modRecess t c f s))) t c :=
    fun f v => (windowed_setObj _ _ b2 (by simp)).after
      ((windowed_setObj _ _ b1 (by simp)).after (windowed_recess t c f s))
  split
  · exact (windowed_setObj _ _ b3 (by simp)).after (h0 _ _)
  · exact h0 _ _

theorem windowed_sendFill (t c : Nat) (s : State) : Windowed s (sendFill t c s) t c := by
  unfold sendFill
  dsimp only
  generalize hx : sendDown t c _ (sendDown t c _ s) = x
  have hx : Windowed s x t c := hx ▸ (windowed_down t c _ _).after (windowed_down t c _ s)
  refine Windowed.after ?_ hx
  exact windowed_layer x (fun _ => ⟨_, _, rfl⟩)

theorem windowed_recessStep {t c : Nat} (hc : c < 48) (s : State) : Windowed s (recessStep t c s) t c := by
  unfold recessStep
  dsimp only
  split
  · exact .refl s t c
  · split
    · exact (windowed_recess t c _ _).after ((windowed_train t c _ _).after (windowed_down t c _ s))
    · split
      · exact windowed_sendFill t c s
      · split
        · exact windowed_recess t c _ s
        · split
          · exact windowed_closeWindow hc s
          · exact (windowed_recess t c _ _).after (windowed_down t c _ s)

theorem windowed_quietStep (t c : Nat) (s : State) : Windowed s (quietStep t c s) t c := by
  unfold quietStep
  dsimp only
  split
  · exact (windowed_down t c _ _).after (windowed_train t c _ s)
  · exact .refl s t c

/-- What follows a report or read beats in a window. -/
theorem windowed_steps {t c : Nat} (hc : c < 48) (s : State) : Windowed s (quietStep t c (recessStep t c s)) t c :=
  (windowed_quietStep t c _).after (windowed_recessStep hc s)

theorem Windowed.words {s s' : State} {t c : Nat} (h : Windowed s s' t c) : SameWords s s' := by
  obtain ⟨d, p, e⟩ := h.mine
  have hf := h.fields
  refine ⟨by rw [hf], layers_base h.other (by rw [e]), by rw [hf], by rw [hf]⟩

/-- With no window open and no wait for quiet nothing follows. -/
theorem steps_idle {t c : Nat} {s : State} (h1 : (getRecess s t c).openAt = none) (h2 : (getTrain s t c).quiet = none)
    (h3 : (getTrain s t c).prea = false) :
    quietStep t c (recessStep t c s) = s := by
  have : recessStep t c s = s := by
    unfold recessStep
    dsimp only
    rw [h1]; rfl
  rw [this]
  unfold quietStep
  dsimp only
  rw [h2, h3]; rfl

end Sys2Proof.Machine
end

