-- ==== Sys2Proof/Tests/Slice0.lean ====
section
/-! SUPPORT. The author's tests: the well-formedness smoke, the encodings of the layer words written out,
and for each statement with hypotheses the states and operands that meet them, clause by clause. -/

namespace Sys2Proof.Tests

open Sys2Proof Sys2Proof.Machine

-- One theorem after another: each kernel evaluation otherwise holds a thread of its own while it waits.
set_option Elab.async false

/-! ## Well-formedness: each check refuses an ill-formed term and takes a well-formed one -/

theorem test_wf_counts : (Instr.speedWindowEnd 0 (List.replicate 11 0)).wf = false ∧
    (Instr.speedWindowEnd 0 (List.replicate 12 0)).wf = true ∧ (Instr.pacer 0 []).wf = false ∧
    (Instr.pacer 0 (List.replicate 12 0)).wf = true ∧ (Instr.thermalSample 0 []).wf = false ∧
    (Instr.thermalSample 0 (List.replicate 30 none)).wf = true ∧ (Instr.estimatorFitDone []).wf = false ∧
    (Instr.estimatorFitDone [none, none, none, none, none]).wf = true := by decide +kernel

theorem test_wf_beats : (Instr.wr 0 0 0 [0]).wf = false ∧ (Instr.wr 0 0 0 [0, 0]).wf = true ∧
    (Instr.wr 0 0 0x10 [0, 0]).wf = false ∧ (Instr.wr 0 0 0x10 [0, 0, 0, 0]).wf = true := by decide +kernel

theorem test_wf_vector_faults : (Instr.exp 0 0 [0x12]).wf = false ∧ (Instr.exp2 0 0 [0x10, 0x10, 0x10]).wf = false ∧
    (Instr.max 0 0 [0]).wf = false ∧ (Instr.max2 0 0 [0]).wf = false ∧ (Instr.sum 0 0 [0]).wf = false ∧
    (Instr.scale 0 0 [0]).wf = false ∧ (Instr.topk 0 0 [0]).wf = false ∧ (Instr.smacc 0 0 [0]).wf = false ∧
    (Instr.smfin 0 0 [0]).wf = false ∧ (Instr.smfin 0 0 [0x10, 0x11]).wf = true := by decide +kernel

theorem test_wf_data : (Instr.windowWrite 0 0 [0] 0).wf = false ∧
    (Instr.windowWrite 0 0x200000 [0] 0).wf = true ∧ (Instr.segmentPost 0 []).wf = false ∧
    (Instr.segmentPost 0 (List.replicate 65 0)).wf = true ∧ (Instr.firmwareSegmentPiece []).wf = false ∧
    (Instr.firmwareSegmentPiece (List.replicate 528 0)).wf = true ∧
    (Instr.registerWrite 0 0 0 0 0 (List.replicate 1017 0)).wf = false ∧
    (Instr.registerWrite 0 0 0 0 0 [0]).wf = true := by decide +kernel

theorem test_wf_fill : (Instr.fillComplete 0 0 0 []).wf = true ∧
    (Instr.fillComplete 0 0 0 (List.replicate 262145 0)).wf = false := by decide +kernel

theorem test_wf_fill_long (l : List Byte) (h : 262144 < l.length) : (Instr.fillComplete 0 0 0 l).wf = false := by
  simp [Instr.wf]; omega

theorem test_wf_supply : (Instr.supplyWarningCrossing 0 4096).wf = false ∧ (Instr.supplyResetCrossing 0 4096).wf = false ∧
    (Instr.supplyWarningCrossing 0 4095).wf = true ∧ (Instr.supplyResetCrossing 0 4095).wf = true := by decide +kernel

theorem test_wf_trims : (Instr.calibrationRunEnd 0 0 [none] false).wf = false ∧
    (Instr.calibrationRunEnd 0 0 (List.replicate 11 none) false).wf = true ∧
    (Instr.channelTrainingDone 0 0 true [0]).wf = false ∧
    (Instr.channelTrainingDone 0 0 true (List.replicate 11 256)).wf = false ∧
    (Instr.channelTrainingDone 0 0 true (List.replicate 11 255)).wf = true := by decide +kernel

theorem test_wf_frames : let f : List Byte := List.replicate 9 0
    (Instr.gnongeRead 0 f).wf = false ∧ (Instr.gnongeWrite 0 f).wf = false ∧ (Instr.describe 0 f).wf = false ∧
    (Instr.unlockBegin 0 f).wf = false ∧ (Instr.unlockProve 0 f).wf = false ∧ (Instr.logout 0 f).wf = false ∧
    (Instr.startFresh 0 f).wf = false ∧ (Instr.startFill 0 f).wf = false ∧ (Instr.offer 0 f true).wf = false ∧
    (Instr.confirm 0 f).wf = false ∧ (Instr.rollCallEnd 0 f).wf = false ∧
    (Instr.gnongeRead 0 (List.replicate 12 0)).wf = true := by decide +kernel

/-! ## Words of the layer port, written out from Table 2.2 to Table 2.4, bit 19 first -/

/-- ACT of row 0x1234 of bank 5: marker, bank, row field, even parity (R46). -/
theorem test_word_act : rowWordOk 0b1_0101_0_1001000110100_0 5 0x1234 := by unfold rowWordOk; decide +kernel

/-- A row word of spare row 3 of bank 2 (R46). -/
theorem test_word_spare : rowWordOk 0b1_0010_1_000000000_0011_1 2 8195 := by unfold rowWordOk; decide +kernel

/-- PRE of bank 9 and its twin with one bit flipped (R45, R47). -/
theorem test_word_pre : opWordOk 0b0_0011_1001_0000000000_0 3 ∧ wBank 0b0_0011_1001_0000000000_0 = 9 ∧
    ¬ opWordOk 0b0_0011_1001_0000000000_1 3 := by unfold opWordOk; decide +kernel

/-- RD of the line at sector 6 of bank 1 with auto-precharge (R47, Table 2.3). -/
theorem test_word_rd : let w := 0b0_0001_0001_000110_1_1_00_0
    opWordOk w 1 ∧ wBank w = 1 ∧ wSector w = 6 ∧ wLine w = true ∧ wAuto w = true := by unfold opWordOk; decide +kernel

/-! ## States -/

/-- The block in service: reset, with bring-up done. -/
def up : State := setObj dev Obj.bringupPhase 0 State.reset

/-- The block in service 2 ms later. -/
def late : State := { up with time := { up.time with timeBase := 2000000, elapsed := 2000000 } }

/-- The same with pass 3 of tile 1 live; its terms name partition 0 and source tile 0. -/
def live : State := setPass 1 3 { state := 1 } late

/-- The same with channel 2 of tile 1 ready. -/
def ready : State := setObj 1 (Obj.channelState + 2) 2 late

/-- A bank of that channel in a state. -/
def withBank (b : Nat) (x : BankS) : State := setBank 1 2 b x ready

/-- That channel's layer holds one transfer on its way up. -/
def withUp (u : Up) (s : State) : State := modLayer 1 2 (fun l => { l with up := [u] }) s

/-- The tile's block map has nothing in hand, and no SRAM word of the block is in error. -/
def calm (s : State) (t : Nat) : Bool :=
  decide (s.sramErr = [] ∧ (getMap s t).jobs = [] ∧ (getMap s t).held = [] ∧ (getMap s t).wait = none ∧
    (getMap s t).queue = [] ∧ (getSched s t).mapPass = {} ∧ (getSched s t).mapBest = {} ∧ openReqs s t = [])

/-- A command word as the interface carries it. -/
def word (n : Nat) : BitVec 20 := BitVec.ofNat 20 n

/-! ## The statements' hypotheses, met -/

theorem witness_StepTakesTheFrontCommand :
    ({ State.reset with pending := [.timeBaseTick, .busOff] } : State).pending = .timeBaseTick :: [.busOff] := rfl

theorem witness_StepIdlesOnAnEmptyQueue : State.reset.pending = [] := rfl

theorem witness_EveryCommandAnswers : ¬ movesTime .busOff ∧ movesTime .timeBaseTick := by simp [movesTime]

theorem witness_OnlyTicksAndPowerOnMoveTheTime : ∃ s', exec .busOff late = .next s' ∧ ¬ movesTime .busOff :=
  ⟨_, rfl, by simp [movesTime]⟩

theorem witness_StepKeepsWholeTicks : timeWf late = true ∧
    ∃ s', step { late with pending := [.timeBaseTick] } = .next s' := ⟨by decide +kernel, _, rfl⟩

theorem witness_ReferenceTime :
    (late.time.setPending = none ∧ late.time.timeBase + 16 < 2 ^ 64) ∧
    ({ late with time := { late.time with setPending := some 7 } } : State).time.setPending = some 7 ∧
    5 % 10 ≠ 0 ∧ (anyLive live = true ∧ 1999990 < live.time.timeBase) ∧
    (anyLive live = true ∧ live.time.timeBase + 1000000 < 3000010) ∧
    (anyLive late = false ∧ ttRuns late = false) ∧
    (live.time.timeBase ≤ 3000000 ∧ 3000000 ≤ live.time.timeBase + 1000000) := by decide +kernel

theorem witness_RangedRegisterWrites :
    (¬ (500 ≤ 499 ∧ 499 ≤ 950) ∧ 751 > 750 ∧ getObj (setObj dev Obj.stackInterface 2 late) dev Obj.stackInterface = 2) ∧
    (500 ≤ 950 ∧ getObj late dev Obj.stackInterface ≠ 2 ∧ ownsOrSources live 1 = true ∧ ownsOrSources live 0 = true ∧
      ownsOrSources late 1 = false) ∧
    ((livePasses live 1).any (fun e => isFar 1 e.2.terms) = true ∧
      (livePasses late 1).any (fun e => isFar 1 e.2.terms) = false ∧ 20000 ≤ 20000) ∧
    (livePasses live 1 ≠ [] ∧ livePasses late 1 = [] ∧ 3 ≤ 3 ∧ 3 < 4) ∧
    (let least := max (64 + getObj late 1 Obj.requestOverhead) (4 * getObj late 1 Obj.requestOverhead)
     least - 1 < least ∧ least ≤ 1048576 ∧ 1048576 < 1048577) ∧
    (hasLive live 1 = true ∧ hasLive late 1 = false) ∧
    (∃ k < 8, getObj late 1 (Obj.classQuantum + k) < max (64 + 1024) (4 * 1024)) ∧
    (∀ k < 8, max (64 + 0) (4 * 0) ≤ getObj late 1 (Obj.classQuantum + k)) := by decide +kernel

theorem witness_LockedRegisterWrites :
    ((livePasses live 1).any (fun e => cPartition e.2.terms = 0) = true ∧
      (livePasses late 1).any (fun e => cPartition e.2.terms = 0) = false) ∧
    (let s := modTT 1 (fun x => { x with running := some { entries := [0x100] } }) (setPass 1 3 { state := 1, terms := 2 ^ 511 - 1 } late)
     hasLive s 1 = true ∧ ∃ l ∈ (getTT s 1).running.toList ++ (getTT s 1).pending.toList, ttPassesOk s 1 l.entries = false) ∧
    (isPow2 16 16 1048576 = true ∧ isPow2 1048576 16 1048576 = true ∧ isPow2 8 16 1048576 = false ∧
      getObj late 1 Obj.engineEnable = 0 ∧ getObj (setObj 1 Obj.engineEnable 1 late) 1 Obj.engineEnable ≠ 0) ∧
    (64 % 64 = 0 ∧ 64 < 2 ^ 48 ∧ adOk 64 = true ∧ ¬ (2 ^ 48 < 2 ^ 48)) ∧
    (8122368 % 4096 = 0 ∧ saving late 1 0 = false ∧
      saving (modArray 1 0 (fun x => { x with preempt := some 0, group := some ⟨0, 1, 0, 128, false, 0, false, 0, false, 0, [], false, 0⟩ }) late) 1 0 = true) := by
  decide +kernel

theorem witness_ReferenceAndSpeedIndex :
    getObj late dev Obj.referenceState = 0 ∧
    (let s := setObj dev Obj.referenceState 2 { late with time := { late.time with goodEdges := 16 } }
     getObj s dev Obj.referenceState ≠ 0 ∧ 16 ≤ s.time.goodEdges ∧ s.time.elapsed < 2 ^ 64) ∧
    ({ late with time := { late.time with goodEdges := 15 } } : State).time.goodEdges < 16 ∧
    due late 1 0 1000 = true ∧ due (take 1 0 late) 1 0 1000 = false ∧
    getObj (setObj 1 Obj.speedIndex 950 late) 1 Obj.speedIndex ≠ 0 := by decide +kernel

theorem witness_LayerWordsAndModeRegisters :
    (onesCount (word 0).toNat % 2 = 0 ∧ wMarker (word 0).toNat = false ∧ wOpcode (word 0).toNat = 0 ∧
      wOpcode (word (opWord 0xC 0 0)).toNat = 0xC ∧ slp2 late = false ∧ (getLayer late 1 2).awaits = none ∧
      slp2 ({ late with resets := { late.resets with slp2 := true } } : State) = true ∧
      opWordOk (word (opWord 7 4 0)).toNat 7 ∧ wMarker (word (rowWord 4 9)).toNat = true ∧
      onesCount (word (rowWord 4 9)).toNat % 2 = 0 ∧
      (getLayer (modLayer 1 2 (fun l => { l with awaits := some (word (opWord 7 4 0)).toNat }) late) 1 2).awaits =
        some (word (opWord 7 4 0)).toNat) ∧
    onesCount (word 1).toNat % 2 = 1 ∧ wLine (word 0x10).toNat = true ∧ onesCount (word 0x10).toNat % 2 = 1 ∧
    (opWordOk (word (opWord 8 0 (4 * 16))).toNat 8 ∧ modeWordOk (word (opWord 8 0 (4 * 16))).toNat = true ∧
      wSector (word (opWord 8 0 (4 * 16))).toNat = 4) ∧
    (wSector (word (opWord 8 0 (5 * 16))).toNat = 5 ∧ wSector (word (opWord 8 0 16)).toNat = 1 ∧ 8207 % 2 ^ 14 < 8208) ∧
    (opWordOk (word (opWord 9 0 16)).toNat 9 ∧ modeWordOk (word (opWord 9 0 16)).toNat = true ∧
      modeReg late 1 2 (wSector (word (opWord 9 0 16)).toNat) = some 0) ∧
    (let w := word (opWord 0xA 0 (5 * 64 + 31))
     opWordOk w.toNat 0xA ∧ bits w.toNat 7 4 = 5 ∧ bits w.toNat 1 6 = 31 ∧ wBank w.toNat = 0 ∧
       ∀ b < 16, getBank late 1 2 b = .closed) ∧
    (let w := word (opWord 0xB 0 (5 * 64))
     opWordOk w.toNat 0xB ∧ bits w.toNat 7 4 ≤ 5 ∧ bits w.toNat 1 6 = 0 ∧ wBank w.toNat = 0) := by
  unfold opWordOk; decide +kernel

theorem witness_RowCommandsAndData :
    (rowWordOk (word (rowWord 15 8191)).toNat 15 8191 ∧ getBank late 1 2 15 = .closed ∧
      getBank (withBank 15 (.opened 3)) 1 2 15 ≠ .closed) ∧
    (let w := word (opWord 3 15 0)
     opWordOk w.toNat 3 ∧ bits w.toNat 1 10 = 0 ∧ getBank (withBank 15 (.opened 3)) 1 2 (wBank w.toNat) = .opened 3) ∧
    (let w := word (opWord 4 0 0)
     opWordOk w.toNat 4 ∧ bits w.toNat 1 14 = 0) ∧
    (let w := word (opWord 5 0 0)
     opWordOk w.toNat 5 ∧ bits w.toNat 1 14 = 0 ∧ ∀ b < 16, getBank late 1 2 b = .closed) ∧
    (let w := word (opWord 1 15 (62 * 16 + 8 + 4))
     opWordOk w.toNat 1 ∧ wLine w.toNat = true ∧ wAuto w.toNat = true ∧ colOk 1 2 w.toNat (withBank 15 (.opened 3)) = true ∧
       getBank (withBank 15 (.opened 3)) 1 2 (wBank w.toNat) = .opened 3) ∧
    (let w := word (opWord 2 15 (63 * 16))
     opWordOk w.toNat 2 ∧ wLine w.toNat = false ∧ colOk 1 2 w.toNat (withBank 15 (.opened 3)) = true) ∧
    (let w := word (opWord 6 15 0)
     let arg := word (rowWord 15 511)
     opWordOk w.toNat 6 ∧ bits w.toNat 1 10 = 0 ∧ rowWordOk arg.toNat (wBank w.toNat) 511 ∧
       getBank (withBank 15 (.opened 0)) 1 2 (wBank w.toNat) = .opened 0 ∧ subarray 0 = subarray 511 ∧
       subarray 512 ≠ subarray 511 ∧ getBank (withBank 15 (.opened 512)) 1 2 (wBank w.toNat) = .opened 512) ∧
    (let w := word (opWord 7 15 0)
     opWordOk w.toNat 7 ∧ bits w.toNat 1 10 = 0 ∧ rowWordOk (word (rowWord 15 8207)).toNat (wBank w.toNat) 8207 ∧
       getBank late 1 2 (wBank w.toNat) = .closed ∧ slp2 late = false) := by
  unfold opWordOk rowWordOk; decide +kernel

/-- A read access of bank 4, row 9 of the ready channel, for request 7. -/
def anAcc : Acc := { id := 5, kind := .read, reqs := [7], bank := 4, row := 9, line := true }

/-- Request 7 of requester 0, one line at offset 0, with the access outstanding. -/
def aReq : Req := { id := 7, requester := 0, orig := 0, source := 1, tag := 3, addr := 2 ^ 34, len := 64, write := false, left := 1 }

/-- Tile 1 holds the request and channel 2 its access. -/
def reading : State := modQueue 1 2 (fun q => { q with rq := [{ anAcc with stage := 1 }] })
  (modSched 1 (fun x => { x with reqs := [aReq] }) ready)

theorem witness_ReportsAndReadDataArrive :
    ((getLayer (withUp (.done 4 1) (withBank 4 (.opening 9))) 1 2).up = .done 4 1 :: [] ∧
      getBank (withUp (.done 4 1) (withBank 4 (.opening 9))) 1 2 4 = .opening 9) ∧
    getBank (withUp (.done 4 2) (withBank 4 (.busy 2))) 1 2 4 = .busy 2 ∧
    (getLayer (withUp (.done 0 0xA) ready) 1 2).up = .done 0 0xA :: [] ∧
    (getLayer (withUp (.done 0 8) ready) 1 2).up = .done 0 8 :: [] ∧
    (getLayer (withUp (.done 0 9) ready) 1 2).up = .done 0 9 :: [] ∧
    ((getLayer ready 1 2).up = [] ∧ (getRecess ready 1 2).openAt = none ∧ (getTrain ready 1 2).quiet = none) ∧
    ((getLayer (withUp (.beats [5]) ready) 1 2).up = .beats [5] :: [] ∧
      (getLayer (withUp (.beats [5]) ready) 1 2).reads.headD (.mode 0) = .mode 0) ∧
    (let s := modLayer 1 2 (fun l => { l with up := [.beats (List.replicate 8 0)], reads := [.access 5] }) reading
     (getLayer s 1 2).up = .beats (List.replicate 8 0) :: [] ∧ (getLayer s 1 2).reads.headD (.mode 0) = .access 5 ∧
      (getQueue s 1 2).rq.find? (fun x => x.id = 5) = some { anAcc with stage := 1 } ∧
      findReq s 1 7 = some aReq ∧ ∀ w ∈ List.replicate 8 0, classify w = .good) ∧
    (let a : Acc := { anAcc with kind := .bounceRead 3, stage := 1 }
     let s := modLayer 1 2 (fun l => { l with up := [.beats (List.replicate 8 0)], reads := [.access 5] })
       (modQueue 1 2 (fun q => { q with rq := [a] }) ready)
     (getLayer s 1 2).reads.headD (.mode 0) = .access a.id ∧ (getQueue s 1 2).rq.find? (fun x => x.id = a.id) = some a ∧
       a.kind = .bounceRead 3) ∧
    (getTrain ready 1 2).prea = false := by decide +kernel

theorem witness_WordCodeCorrectsOneAndDetectsTwo : 2 ^ 64 - 1 < 2 ^ 64 ∧ 71 < 72 ∧ 70 < 71 := by decide

/-- ErrorInject of bits 71 and 0 of the word at the last populated word of tile 1. -/
def inject : Nat := 2 ^ 34 + (populated - 8) + 71 * 2 ^ 72

theorem witness_InjectionAndFillPattern :
    (injectReserved inject = false ∧ bits inject 72 8 = 71 ∧ bits inject 80 8 ≤ 71 ∧ bits inject 0 40 % 8 = 0 ∧
      addrTile (bits inject 0 40) = 1 ∧ addrOffset (bits inject 0 40) < populated ∧
      (let p := translate (addrOffset (bits inject 0 40)); rowHeld late 1 p.chan p.bank p.row = false) ∧
      bits inject 72 8 ≠ bits inject 80 8) ∧
    71 < bits (72 * 2 ^ 72) 72 8 ∧ 71 < bits (72 * 2 ^ 80) 80 8 := by decide +kernel

/-- The write entry of a bounce copy that has written its 32 lines, of a migration. -/
def migrated : Acc := { id := 6, kind := .bounceWrite 2 4 9, bank := 4, row := 9, prow := some 8194, stage := 1,
                        sent := 32, done := 32, job := .migrate }

/-- A migration of row 9 of bank 4 to spare 2, by a fresh entry and by entry 1 re-pointed. -/
def migrating (e : Option Nat) : State :=
  modQueue 1 2 (fun q => { q with wq := [migrated] })
    (modProt 1 (fun p => { p with running := [{ chan := 2, bank := 4, row := 9, entry := e, spare := 2 }] }) ready)

theorem witness_RepairAndMigration :
    (let w : FMap Watch := [(512, { valid := true, stamp0 := 0 })]
     let s : State := setObj 1 Obj.faultWindow 1 { late with watch := w, time := { late.time with timeBase := 1000000010 } }
     (getWatch s 1 0).valid = true ∧ (getWatch s 1 0).stamp0 + getObj s 1 Obj.faultWindow * 1000000000 < s.time.timeBase ∧
     (getWatch s 1 511).valid = false) ∧
    47 < bits (48 * 2 ^ 54) 54 6 ∧
    (bits (47 * 2 ^ 54) 54 6 ≤ 47 ∧ isRetired late 1 47 0 0 = false ∧ copySource late 1 47 0 0 = false ∧
      getObj late 1 Obj.retiredRows < 1024 ∧ 1024 ≤ getObj (setObj 1 Obj.retiredRows 1024 late) 1 Obj.retiredRows) ∧
    (∀ e ∈ [none, some 1], tripped (migrating e) = false ∧ inReset (migrating e) 1 = false ∧
      copiedMig (migrating e) 1 2 = some migrated ∧
      (getProt (migrating e) 1).running.find? (fun x => x.chan = 2) =
        some { chan := 2, bank := 4, row := 9, entry := e, spare := 2 } ∧
      freeEntry (getRemap (migrating e) 1 2 4) = some 0) := by decide +kernel

/-- The Blotter of the ready channel at a place of its lap. -/
def blotting (row bank sector : Nat) : State :=
  setBlot 1 2 { row := row, bank := bank, sector := sector } (setObj 1 Obj.scrubEnable 1 ready)

theorem witness_BlotterLaps :
    (lapBank ready 1 2 300 (getBlot ready 1 2) = some (getBlot ready 1 2) ∧
      blotterDue (setObj 1 Obj.scrubEnable 0 ready) 1 2 (getBlot ready 1 2) = false) ∧
    lapBank (blotting 8208 0 0) 1 2 300 (getBlot (blotting 8208 0 0) 1 2) = none ∧
    (blotterDue (blotting 0 0 62) 1 2 (getBlot (blotting 0 0 62) 1 2) = true ∧
      (∀ w ∈ rawWords (blotting 0 0 62) 1 2 0 (physRow (blotting 0 0 62) 1 2 0 0) (62 * 4) 4, classify w = .good)) ∧
    lapNext (blotting 8191 15 62) 1 2 (getBlot (blotting 8191 15 62) 1 2) =
      some { row := 8191, bank := 15, sector := 63 } ∧
    (blotterDue (blotting 8207 15 63) 1 2 (getBlot (blotting 8207 15 63) 1 2) = true ∧
      lapNext (blotting 8207 15 63) 1 2 (getBlot (blotting 8207 15 63) 1 2) = none) ∧
    getObj (setObj 1 Obj.scrubLapLimit 0 late) 1 Obj.scrubLapLimit * 1000000000 < late.time.elapsed - (getBlot late 1 2).start ∧
    late.time.elapsed - (getBlot late 1 2).start ≤ getObj late 1 Obj.scrubLapLimit * 1000000000 := by decide +kernel

theorem witness_AddressTranslationRoundTrip :
    addrOffset (populated - 1) < populated ∧ 47 < 48 ∧ 15 < 16 ∧ 8191 < 8192 ∧ 2047 < 2048 := by decide +kernel

theorem witness_MemoryStaysCanonical : memoryWf (setRawWord 1 2 4 9 0 5 late) = true ∧
    ∃ s', exec (.rfill 1 2 (word (opWord 7 4 0)) (word (rowWord 4 9))) late = .next s' := ⟨by decide +kernel, _, rfl⟩

/-! ### Requests -/

/-- Port 0 of tile 1 is clocked. -/
def port : State := setObj 1 Obj.portState 1 ready

/-- A header of Table 17.3: address, length, write. -/
def header (addr len : Nat) (write : Bool) : Nat := addr + fld 52 12 len + b2n write * 2 ^ 69

/-- The beat kind completes a request. -/
def completes : BeatKind → Bool
  | .complete _ _ => true
  | _ => false

/-- The beat kind withholds the acknowledge. -/
def withholds : BeatKind → Bool
  | .withheld _ => true
  | _ => false

/-- The beat kind holds the beat. -/
def holds : BeatKind → Bool
  | .hold _ _ => true
  | _ => false

/-- A far read of one line on its way from tile 0 to tile 1. -/
def aFar : FarReq :=
  { src := 0, dst := 1, orig := 2, tag := 9, addr := 2 ^ 34, len := 64, write := false, barrier := false, passNo := none
    data := 0, pois := 0, accepted := 0, stamp := 0 }

/-- A write of one line that port 0 of tile 1 has begun. -/
def begunWrite : Asm := { active := true, header := header (2 ^ 34) 64 true, need := 1, begun := 1 }

theorem witness_RequestsArrive :
    beatKind ready 1 (.host 0) true (header (2 ^ 34) 64 false) false = .closed ∧
    holds (beatKind port 1 (.host 0) true (header (2 ^ 34) 64 true) false) = true ∧
    completes (beatKind port 1 (.host 0) true (header (2 ^ 34) 64 false) false) = true ∧
    completes (beatKind port 1 (.gateway 5) true (header (2 ^ 34) 64 false) false) = true ∧
    (let s : State := { port with asm := [(128, begunWrite)] }
     completes (beatKind s 1 (.host 0) false 5 false) = true ∧
       withholds (beatKind (setObj 1 Obj.portState 2 s) 1 (.host 0) false 5 false) = true) ∧
    (hdBarrier (header 0 64 false) = false ∧ hdBarrier (header 0 64 false + 2 ^ 70) = true) ∧
    (addrTile (hdAddr (header 0 64 false)) ≠ 1 ∧ badLength 64 = false ∧ badLength 0 = true ∧
      hdReserved (header (2 ^ 34) 64 false) false = false) ∧
    populated < addrOffset (hdAddr (header (2 ^ 34 + populated - 32) 64 false)) + 64 ∧
    (addrOffset (hdAddr (header (2 ^ 34 + populated - 64) 64 false)) + 64 ≤ populated ∧
      rangeCheck (setObj 1 Obj.rangeDefault 0 port) 1 none 0 (2 ^ 34) 64 false = .denied) ∧
    (let s : State := { port with farReqs := [aFar] }
     starting s = false ∧ inHold s 1 = false ∧ tripped s = false ∧ inReset s 1 = false ∧
       farHead s 1 0 = some aFar ∧ aFar.kind = .device ∧ addrTile aFar.addr = 1 ∧
       fifoWaits s 1 (0x20 + aFar.origin) aFar.passNo.isSome = false ∧ farHead s 1 63 = none ∧
       (∀ k ∈ [FarKind.mapped 5 0 0 true, .block 5 6 0],
         farHead ({ port with farReqs := [{ aFar with kind := k }] } : State) 1 0 = some { aFar with kind := k }) ∧
       fifoWaits (modSched 1 (fun x => { x with reqs := [{ aReq with requester := 0x20, waiting := 1 }] }) s) 1 0x20 false = true) := by
  decide +kernel

/-- The request answered whole, waiting, and with its far response on its way to tile 1. -/
def withReq (r : Req) : State := modSched 1 (fun x => { x with reqs := [r] }) port

theorem witness_OneResponseForEachRequest :
    (findReq (withReq { aReq with left := 0 }) 1 7 = some { aReq with left := 0 } ∧ aReq.dropped = false ∧
      fget [] port.replies (256 + 0x60) = [] ∧
      findReq (withReq { aReq with left := 0, orig := 0x10, requester := 0x10 }) 1 7 =
        some { aReq with left := 0, orig := 0x10, requester := 0x10 }) ∧
    findReq (withReq { aReq with left := 0, requester := 0x5F }) 1 7 = some { aReq with left := 0, requester := 0x5F } ∧
    (findReq port 1 7 = none ∧ findReq (withReq aReq) 1 7 = some aReq ∧ aReq.left ≠ 0) ∧
    (let r : Resp := { tag := 1, status := 0, write := false, beats := [(0, false, 64), (0, false, 64)] }
     fget [] port.resp (1 * 4 + 3) = [] ∧
       fget [] ({ port with resp := [(7, [r])] } : State).resp (1 * 4 + 3) = r :: [] ∧
       fget [] ({ port with resp := [(7, [{ r with beats := [(0, false, 64)] }])] } : State).resp (1 * 4 + 3) =
         { r with beats := [(0, false, 64)] } :: []) ∧
    (let x : FarResp := ⟨0, 1, aReq, 0⟩
     let y : FarResp := ⟨0, 1, { aReq with dropped := true }, 0⟩
     ({ port with farResps := [x] } : State).farResps.find? (fun x => x.dst = 1 ∧ x.owner = 0) = some x ∧
       ({ port with farResps := [y] } : State).farResps.find? (fun x => x.dst = 1 ∧ x.owner = 0) = some y ∧
       port.farResps.find? (fun x => x.dst = 1 ∧ x.owner = 0) = none) := by decide +kernel

/-- A fill of the block map waits at the head of its best-effort FIFO for an entry of the ready channel. -/
def fillWaits (wq : List Acc) : State :=
  modSched 1 (fun x => { x with mapBest := { head := some (2, { anAcc with kind := .fill }), behind := [] } })
    (modQueue 1 2 (fun q => { q with wq := wq }) port)

theorem witness_WaitingWorkGoesOn :
    (openReqs (withReq { aReq with waiting := 1 }) 1).find? (fun r => r.requester = 0 ∧ reqFifo r = false ∧
      (r.waiting = 1 ∨ r.waiting = 3)) = some { aReq with waiting := 1 } ∧
    (openReqs port 1).find? (fun r => r.requester = 0 ∧ reqFifo r = false ∧ (r.waiting = 1 ∨ r.waiting = 3)) = none ∧
    (let s := withReq { aReq with waiting := 1 }
     roomForAll s 1 ((accesses aReq).map (fun e => (e.1, { e.2 with noFwd := aReq.met.contains e.2.off }))) = true ∧
       s.merge = [] ∧ ∀ c < 48, (getQueue s 1 c).deferred = []) ∧
    (let a : Acc := { anAcc with kind := .fill }
     let s := fillWaits []
     (getSched s 1).mapBest = { head := some (2, a), behind := [] } ∧ (getSched s 1).mapPass = {} ∧ openReqs s 1 = [] ∧
       (getQueue s 1 2).deferred = [] ∧ chState s 1 2 ≠ 4 ∧ entryRoom s 1 2 a = true ∧
       entryRoom (fillWaits (List.replicate 48 a)) 1 2 a = false ∧ (getSched port 1).mapBest = {}) ∧
    ((openReqs (withReq { aReq with waiting := 2 }) 1).find? (fun r => r.requester = 0 ∧ r.waiting = 2)
        = some { aReq with waiting := 2 } ∧
      earlierOpen (withReq { aReq with waiting := 2 }) 1 { aReq with waiting := 2 } = false ∧
      addrTile aReq.addr = 1 ∧ addrTile ({ aReq with addr := 0 } : Req).addr ≠ 1 ∧
      (openReqs port 1).find? (fun r => r.requester = 0 ∧ r.waiting = 2) = none) ∧
    (let b : Req := { aReq with id := 8, order := 1, waiting := 2 }
     let s := modSched 1 (fun x => { x with reqs := [aReq, b] }) port
     (openReqs s 1).find? (fun r => r.requester = 0 ∧ r.waiting = 2) = some b ∧ earlierOpen s 1 b = true) ∧
    (∀ j ∈ [JobRef.none, .migrate],
     let a : Acc := { anAcc with kind := .writeBack, job := j }
     let s := modQueue 1 2 (fun q => { q with deferred := [a] }) port
     minBy (fun a => a.order) ((getQueue s 1 2).deferred.filter (entryRoom s 1 2)) = some a) := by
  decide +kernel

theorem witness_MergesFlushAndBanksPrepare :
    (let s := setMerge 1 31 { valid := true } late
     (getMerge s 1 31).valid = true ∧ tripped s = false ∧
       (getMerge s 1 31).flushing = false ∧ holdLimit s 1 < s.time.elapsed - (getMerge s 1 31).stamp + 10 ∧ (getMerge s 1 0).valid = false ∧
       tripped (setObj dev Obj.tripState 1 s) = true) ∧
    (let s := modQueue 1 2 (fun q => { q with rq := [anAcc] }) ready
     tempReady s 1 2 = false ∧ pickerRuns s 1 2 = true ∧ (getQueue s 1 2).rq = [anAcc] ∧ (getQueue s 1 2).wq = [] ∧ anAcc.bank < 16 ∧
       getBank s 1 2 anAcc.bank = .closed ∧ bankPending s 1 2 anAcc.bank = false ∧ windowOpen s 1 2 = false ∧
       openReqs s 1 = [] ∧ (getSched s 1).mapPass = {} ∧ (getSched s 1).mapBest = {} ∧ (getQueue s 1 2).deferred = []) ∧
    pickerRuns late 1 2 = false ∧ tempReady late 1 2 = false ∧
    tempReady (modLayer 1 2 (fun l => { l with tempDue := true }) ready) 1 2 = true ∧
    (let s := withBank 15 (.opened 3)
     getBank s 1 2 15 = .opened 3 ∧ pickerRuns s 1 2 = true ∧ bankPending s 1 2 15 = false ∧ bankHolder s 1 2 15 = none ∧
       windowOpen s 1 2 = false ∧ (getPage s 1 2 15).lastAccess + getObj s 1 Obj.openRowIdle ≤ s.time.elapsed ∧ bankQueue s 1 2 15 = []) ∧
    (let s := modPage 1 2 15 (fun p => { p with lastAccess := 2000000 }) (withBank 15 (.opened 3))
     s.time.elapsed < (getPage s 1 2 15).lastAccess + getObj s 1 Obj.openRowIdle) := by decide +kernel

/-! ### Passes and regulation -/

/-- A contract of Table 4.1 on 48 rows of tile 1 for requester 0: source tile, partition, committed rate. -/
def contract (src part rate : Nat) : Nat :=
  fld 384 32 65536 + fld 352 32 rate + fld 320 32 rate + fld 280 40 98304 + fld 240 40 (2 ^ 34) +
  fld 212 12 64 + fld 202 6 48 + fld 196 6 src + fld 180 8 part + fld 173 2 1

/-- Tile 1 with a valid PACER reference and a speed above its floor. -/
def fast : State := setObj 1 Obj.pacerReferenceValid 1 (setObj 1 Obj.speedIndex 1000 late)

theorem witness_PassAdmission :
    (contractBad 1 0 = true ∧ fwf (fun _ => ({} : Pass)) fast.passes = true) ∧
    (contractBad 1 (contract 1 5 1000) = false ∧ rangeBelongs fast 1 (contract 1 5 1000) = false) ∧
    (contractBad 1 (contract 1 0 1000) = false ∧ rangeBelongs fast 1 (contract 1 0 1000) = true ∧ getAdm fast 1 = [] ∧
      isFar 1 (contract 1 0 1000) = false) ∧
    getAdm ({ fast with adm := [(1, [{ kind := 0 }])] } : State) 1 ≠ [] ∧
    (contractBad 1 (contract 63 0 1000) = false ∧ rangeBelongs fast 1 (contract 63 0 1000) = true ∧
      isFar 1 (contract 63 0 1000) = true) ∧
    (∀ need ∈ [true, false], decideAdmission fast 1 (contract 1 0 1000) need 0 false = .ok 15510 ∧
      decideAdmission fast 1 (contract 1 0 1536000) need 0 false = .refuse 1 859084 15510 ∧
      decideAdmission State.reset 1 (contract 1 0 1000) need 0 false = .status stHold) := by decide +kernel

/-- Pass 255 of tile 1 in a state, under the contract above. -/
def withPass (st : Nat) : State := setPass 1 255 { state := st, terms := contract 1 0 1000 } fast

theorem witness_PassLife :
    (getPass fast 1 255).state = 0 ∧ ((getPass (withPass 4) 1 255).state = 4 ∧ getAdm (withPass 4) 1 = []) ∧
    ((getPass (withPass 1) 1 255).state = 1 ∧ (getPass (withPass 1) 1 255).released = false ∧
      fwf (fun _ => ({} : Pass)) (withPass 1).passes = true ∧ fwf (fun _ => ({} : Pass)) (withPass 4).passes = true) ∧
    (let s : State := { withPass 4 with adm := [(1, [{ kind := 2, pass := 255 }])] }
     ∃ j ∈ getAdm s 1, j.kind = 2 ∧ j.pass = 255) ∧
    (isFar 1 (getPass (withPass 4) 1 255).terms = false ∧
      decideAdmission (withPass 4) 1 (getPass (withPass 4) 1 255).terms false 0 false = .ok 15510) ∧
    (let s := setPass 1 255 { state := 4, terms := contract 1 0 1536000 } fast
     decideAdmission s 1 (getPass s 1 255).terms false 0 false = .refuse 1 859084 15510) ∧
    (let x := getPass (withPass 3) 1 255
     x.state = 3 ∧ x.force = 0 ∧ getObj (withPass 3) 1 Obj.tileRiskCause = 0 ∧
       x.clear + 2 * cBound x.terms ≤ (withPass 3).time.elapsed ∧ (getPass (withPass 2) 1 255).state = 2) ∧
    getObj (setObj 1 Obj.tileRiskCause 1 (withPass 3)) 1 Obj.tileRiskCause ≠ 0 ∧
    (livePasses (withPass 1) 1 ≠ [] ∧ livePasses (withPass 4) 1 = []) := by decide +kernel

/-- RangeRegister, valid or not: granules 0 to a limit for a partition, both directions, enabled (Table 5.1). -/
def range (limit part : Nat) : Nat := fld 100 16 1 + fld 77 23 limit + fld 46 8 part + fld 33 3 7

theorem witness_RangesSamplesAndTokens :
    (rangeBad (range 0 0) = true ∧ rangeBad (range 6291456 1) = true ∧ rangeBad (range 6291455 1) = false) ∧
    (∀ e ∈ [(1, false), (4, true)], rangesHold (withPass e.1)
      (setObj 1 (Obj.rangeRegister + 15) (rangeStored (range 6291455 1)) (withPass e.1)) 1 = e.2) ∧
    (due late 1 1 (getObj late 1 Obj.samplePeriod) = true ∧
      due (take 1 1 late) 1 1 (getObj late 1 Obj.samplePeriod) = false) ∧
    fget false ({ late with sampleClear := [(1, true)] } : State).sampleClear 1 = true := by decide +kernel

/-- Tile 1 with a list of two entries of 10 ns running under its gates, at the start of the second. -/
def gated (now : Nat) : State :=
  modTT 1 (fun _ => { running := some { entries := [0x0A01, 0x0A02] }, gates := true })
    { late with time := { late.time with timeBase := now } }

theorem witness_TimetablesRun :
    (let l := adminList late 1
     let n := getObj late 1 Obj.timetableLength
     (decide (n < 1 ∨ 64 < n) || l.any ttEntryBad || decide (1000000000 < ttCycle l)) = true) ∧
    (let s := setObj 1 Obj.timetableLength 1 (setObj 1 Obj.timetableEntry 0x0AFF late)
     let l := adminList s 1
     let n := getObj s 1 Obj.timetableLength
     (decide (n < 1 ∨ 64 < n) || l.any ttEntryBad || decide (1000000000 < ttCycle l)) = false ∧
       (flag s 1 Obj.timetableEnable && hasLive s 1 && !ttPassesOk s 1 l) = false) ∧
    (getTT late 1).pending = none ∧
    (let s := modTT 1 (fun x => { x with pending := some { start := 2000000 } }) late
     (getTT s 1).pending = some { start := 2000000 } ∧ 2000000 ≤ s.time.timeBase) ∧
    ttInForce late 1 = none ∧ ttInForce (gated 2000010) 1 = some { entries := [0x0A01, 0x0A02] } := by decide +kernel

/-! ### Engines -/

/-- Engine `e` of tile 1 enabled, with one descriptor fetched. -/
def fetched (e raw : Nat) (s : State) : State :=
  modEngine 1 e (fun g => { g with ready := [{ idx := 0, raw := raw }] }) (setObj 1 (Obj.engineEnable + e) 1 s)

/-- A Slate address operand (Table 8.4). -/
def slateAt (off : Nat) : Nat := 2 ^ 47 + off

theorem witness_DescriptorFetches :
    (let s := setObj 1 Obj.engineTail 1 (setObj 1 Obj.engineEnable 1 (setObj 1 Obj.engineQueueBase (slateAt 0) late))
     let g := getEngine s 1 0
     (flag s 1 Obj.engineEnable = true ∧ g.halt = 0 ∧ g.stopSoon = 0 ∧ inHold s 1 = false ∧ inReset s 1 = false ∧
       starting s = false ∧ moverShut s 1 = false ∧ g.refetch = [] ∧ (getMover s 1 1).ops = [] ∧
       fget [] s.replies (256 + 0x11) = [] ∧ g.ready.length < 8 ∧ getObj s 1 Obj.engineHead ≠ getObj s 1 Obj.engineTail) ∧
     s.sramErr = [] ∧ adSpace (queueAddr s 1 0 0) = 2 ∧ slateBad s 1 (adLow (queueAddr s 1 0 0)) 64 = false ∧
     slateBad ({ s with slatePois := [(2 ^ 20 + 7, true)] } : State) 1 (adLow (queueAddr s 1 0 0)) 64 = true) ∧
    (∀ st ∈ [stOk, stUncorrectable, stRetry],
     let o : MoverOp := { tag := 4, use := .fetch 0, addr := 2 ^ 34, len := 64, at_ := .out, sends := 1 }
     let y : Reply := { tag := 4, status := st, write := false }
     let s0 := setObj 1 Obj.engineTail 1 (setObj 1 Obj.engineEnable 1 late)
     let s : State := modMover 1 1 (fun x => { x with ops := [o] }) (modEngine 1 0 (fun g => { g with
       ready := List.replicate 7 (mkDesc late 1 0 0 8) }) { s0 with replies := [(256 + 0x11, [y])] })
     flag s 1 Obj.engineEnable = true ∧ (getEngine s 1 0).halt = 0 ∧ (getEngine s 1 0).refetch = [] ∧
       getObj s 1 Obj.engineHead = 0 ∧ getObj s 1 Obj.engineTail = 1 ∧ (getEngine s 1 0).ready.length = 7 ∧
       (getMover s 1 1).ops = [o] ∧ fget [] s.replies (256 + 0x11) = [y] ∧ y.status < 256 ∧
       o.sends < getObj s 1 Obj.moverRetryLimit) ∧
    fetchNext late 1 0 = none := by decide +kernel

/-- A VOP of one row of one binary32 element at 0, written at 64 (Table 8.8). -/
def vop (code : Nat) : Nat :=
  4 + fld 64 4 code + fld 162 23 (if 8 ≤ code then 128 else 0) + fld 185 12 1 + fld 197 20 1 + fld 263 4 0xC +
  (if code = 8 then 0 else fld 139 23 64 + fld 267 4 0xC) + (if code = 7 then fld 275 7 1 else 0)

theorem witness_VectorOperations :
    (∀ op < 10, 1 ≤ op → canIssue (fetched 5 (vop op) late) 1 5 { idx := 0, raw := vop op } = true ∧
      descOk (fetched 5 (vop op) late) 1 5 (vop op) = true ∧ dOp (vop op) = 4 ∧ voCode (vop op) = op ∧
      vopBad (fetched 5 (vop op) late) 1 (vop op) 0 = false ∧ voRows (vop op) = 1) ∧
    (late.sramErr = [] ∧ tokenHeld late 1 vectorToken = false ∧
      tokenHeld ({ late with withheld := [(58 + 52, true)] } : State) 1 vectorToken = true) ∧
    vopBad ({ late with slatePois := [(2 ^ 20, true)] } : State) 1 (vop 1) 0 = true ∧
    (byteNats [0x11] = 0x11 :: [] ∧ vopTransient ({ late with vfault := [(1, 2000001)] } : State) 1 = false) := by decide +kernel

/-- A GATHER of one piece, a COPY of one row, a CONVERT of one element, all within the Slate but the piece. -/
def gatherRaw : Nat := 5 + fld 64 23 1024 + fld 87 20 1 + fld 107 24 32 + fld 131 48 (slateAt 64) + fld 179 32 32
def copyRaw : Nat := 6 + fld 64 48 (slateAt 0) + fld 112 48 (slateAt 64) + fld 160 24 32 + fld 184 16 1
def convertRaw (v : Nat) : Nat :=
  7 + fld 64 48 (slateAt 0) + fld 112 48 (slateAt 64) + fld 160 48 (if v = 0 then 0 else slateAt 128) + fld 208 24 1 +
  fld 232 16 1 + fld 312 4 (if v = 1 then 0xC else 0xB) + fld 316 4 0xB + fld 324 2 v

/-- Entry 5 of tile 1's map at byte 0, as an address of space 1, and tile 1 where channels 8 and 9 may name it. -/
def mappedAt : Nat := 2 ^ 46 + 2 ^ 34
def windowed (s : State) : State :=
  setObj 1 (Obj.mapWindow + 9) (1 + fld 1 16 5 + fld 17 17 1) (setObj 1 (Obj.mapWindow + 8) (1 + fld 1 16 5 + fld 17 17 1) s)

/-- Channel 8 of tile 1 with a request of the COPY in progress, and a response to it. -/
def copying (d : Desc) (o : MoverOp) (l : List Reply) : State :=
  modMover 1 8 (fun x => { x with ops := [o] })
    (modEngine 1 4 (fun g => { g with prog := [d] }) { windowed late with replies := [(256 + 0x18, l)] })

/-- The COPY, all of its requests issued, and its write, sent. -/
def lastRow : Desc := { idx := 0, raw := copyRaw, started := true, pos := 1 }
def lastWrite : MoverOp :=
  { tag := 3, use := .dst, addr := mappedAt, len := 32, write := true, at_ := .out, sends := 1 }

theorem witness_TransfersRun :
    (∀ r ∈ [gatherRaw, copyRaw, convertRaw 0, convertRaw 1, convertRaw 2, convertRaw 3],
      let s := fetched 4 r (slateBytes 1 1024 8 mappedAt (windowed late))
      canIssue s 1 4 (mkDesc s 1 4 0 r) = true ∧ descOk s 1 4 r = true ∧ (getEngine s 1 4).prog = [] ∧
        mkDesc s 1 4 0 r = { idx := 0, raw := r } ∧ descOk s 1 4 (r + 2 ^ 500) = false) ∧
    (dOp gatherRaw = 5 ∧ dOp copyRaw = 6 ∧ ∀ v < 4, dOp (convertRaw v) = 7 ∧ cvVariant (convertRaw v) = v) ∧
    (let s := fetched 4 gatherRaw (slateBytes 1 1024 8 mappedAt (windowed late))
     moverOf 4 gatherRaw = 8 ∧ s.sramErr = [] ∧ tripped s = false ∧ (getMover s 1 8).ops = [] ∧ gaCount gatherRaw = 1 ∧
       slateBad s 1 (gaList gatherRaw) 8 = false ∧ gaPiece s 1 gatherRaw 0 = mappedAt ∧
       requestLen s (dPass gatherRaw) mappedAt (gaLen gatherRaw) = gaLen gatherRaw ∧ adSpace mappedAt = 1 ∧
       addrTile mappedAt = 1 ∧ windowEntry s (getObj s 1 (Obj.mapWindow + 8)) mappedAt = some (5, 0) ∧
       fifoWaits s 1 0x18 (dPass gatherRaw).isSome = false) := by decide +kernel

theorem witness_MoverResponses :
    (fget [] late.replies (256 + 0x18) = [] ∧ (∀ o ∈ (getMover late 1 8).ops, o.tag ≠ 3)) ∧
    (∀ st ∈ [stOk, stRetry, stUncorrectable, stDecodeError],
     let x : Reply := { tag := 3, status := st, write := true }
     let s := copying lastRow lastWrite [x]
     fget [] s.replies (256 + 0x18) = [x] ∧ (getMover s 1 8).ops = [lastWrite] ∧ transferOf s 1 8 = some lastRow ∧
       replyNamed s 1 8 st 0 0 x = true ∧ replyNamed s 1 8 st 0 5 x = false ∧ cpRows copyRaw ≤ lastRow.pos ∧ badData st = decide (st = stUncorrectable) ∧
       lastWrite.sends < getObj s 1 Obj.moverRetryLimit ∧ getObj s 1 (Obj.moverState + 8) ≠ 2) ∧
    (let x : Reply := { tag := 3, status := stOk, write := false }
     let o : MoverOp := { lastWrite with use := .src, write := false }
     let s := copying lastRow o [x]
     transferOf s 1 8 = some lastRow ∧ lastRow.cut = 0 ∧ tripped s = false ∧ inHold s 1 = false ∧ inReset s 1 = false ∧
       starting s = false ∧ s.sramErr = [] ∧ adSpace (copyDst copyRaw o) = 2 ∧ adLow (copyDst copyRaw o) + o.len ≤ slateSize) ∧
    (let o : MoverOp := { lastWrite with at_ := .retry 1000 }
     let s := copying lastRow o []
     opReady s o = true ∧ canSend s 1 8 o = true ∧ adSpace o.addr = 1 ∧ addrTile o.addr = 1 ∧
       windowEntry s (getObj s 1 (Obj.mapWindow + 8)) o.addr = some (5, 0) ∧ opReady s lastWrite = false ∧
       canSend (modPTile 1 (fun x => { x with hold := true }) s) 1 8 o = false) := by decide +kernel

theorem witness_SlateTransfers :
    (let r := copyRaw
     let s := fetched 4 r late
     adSpace (cpSrc r) = 2 ∧ adSpace (cpDst r) = 2 ∧ cpRows r = 1 ∧ tripped s = false ∧ s.sramErr = [] ∧
       (getMover s 1 (moverOf 4 r)).ops = [] ∧ slateBad s 1 (adLow (cpSrc r)) (cpLen r) = false) ∧
    (∀ v < 4, let r := convertRaw v
      adSpace (cvSrc r) = 2 ∧ adSpace (cvDst r) = 2 ∧ cvRows r = 1 ∧ (v ≠ 0 → adSpace (cvAux r) = 2) ∧ cvBook r = false ∧
      slateBad (fetched 4 r late) 1 (adLow (cvSrc r)) (cvInBytes r) = false ∧
      slateBad (fetched 4 r late) 1 (adLow (cvAux r)) (cvInBytes r) = false ∧
      adLow (cvDst r) + cvOutBytes r ≤ 128) ∧
    (let r := convertRaw 0 + fld 160 48 (slateAt 128) + fld 312 4 4
     let s := fetched 4 r { late with slate := [(2 ^ 23 + 144, 4)] }
     cvBook r = true ∧ descOk s 1 4 r = true ∧ adSpace (cvAux r) = 2 ∧ slateBad s 1 (adLow (cvAux r)) 32 = false ∧
       bookOk (slateNat s 1 (adLow (cvAux r)) 32) = true) := by decide +kernel

/-- A LOADW of one weight from the Slate, a STREAM of one row, a DRAIN of one row (Tables 8.5 to 8.7). -/
def loadwRaw : Nat := 1 + fld 64 48 (slateAt 0) + fld 112 9 1 + fld 121 8 1 + fld 129 4 8
def streamRaw (init m : Nat) (fused : Bool) : Nat :=
  2 + fld 64 23 4096 + fld 87 16 32 + fld 103 32 m + fld 144 4 8 + fld 150 2 init +
  (if fused then 2 ^ 152 + fld 202 23 8192 + fld 225 16 32 + fld 241 4 0xC else 0)
def drainRaw (keep : Bool) : Nat := 3 + fld 73 10 1 + (if keep then 2 ^ 161 else fld 83 23 8192 + fld 106 23 32 + fld 129 4 0xC)

/-- The plane that LOADW leaves, and a group of one row. -/
def aPlane : Plane := { valid := true, k := 1, n := 1, wfmt := 8, src := slateAt 0 }
def aGroup (fused : Bool) : Group :=
  { a0 := 0, m := 1, cls := streamClass aPlane (streamRaw 1 1 fused), n := 1
    int := streamInt aPlane (streamRaw 1 1 fused), init := 1, fused := fused, recipe := 0 }

/-- Array 0 of tile 1, with its plane loaded, as changed by `f`. -/
def loaded (f : ArrayS → ArrayS) : State := modArray 1 0 (fun x => f { x with planeA := aPlane }) late

/-- A STREAM in progress on it that stands before the last step of a row. -/
def streaming (fused : Bool) : State := loaded (fun x => { x with
  group := some (aGroup fused)
  stream := some { raw := streamRaw 1 1 fused, idx := 0, qaddr := 0
                   steps := classSteps (streamClass aPlane (streamRaw 1 1 fused)) - 1 } })

theorem witness_GroupsAccumulate :
    (let s := fetched 0 loadwRaw late
     canIssue s 1 0 (mkDesc s 1 0 0 loadwRaw) = true ∧ mkDesc s 1 0 0 loadwRaw = { idx := 0, raw := loadwRaw } ∧
       descOk s 1 0 loadwRaw = true ∧ dOp loadwRaw = 1 ∧ (getArray s 1 0).fenced = false ∧
       planesBusy (getArray s 1 0) = false ∧ tripped s = false ∧ (getMover s 1 (moverOf 0 loadwRaw)).ops = [] ∧
       (getEngine s 1 0).prog = [] ∧ adSpace (lwSrc loadwRaw) = 2 ∧ s.sramErr = [] ∧ loadBytes loadwRaw = 32 ∧
       slateBad s 1 (adLow (lwSrc loadwRaw)) 32 = false ∧ isBook (lwFmt loadwRaw) = false) ∧
    (let r := loadwRaw - fld 129 4 8 + fld 129 4 0xE
     let s := fetched 0 r { late with slate := [(2 ^ 23 + 48, 4)] }
     descOk s 1 0 r = true ∧ isBook (lwFmt r) = true ∧
       bookOk (bookSection (slateNat s 1 0 (loadBytes r)) (lwK r) (lwN r) (lwFmt r) (lwScheme r)) = true) := by decide +kernel

theorem witness_GroupsAccumulate_stream :
    (∀ f ∈ [true, false], ∀ m ∈ [0, 1],
      let r := streamRaw 1 m f
      let s := fetched 0 r (loaded id)
      canIssue s 1 0 { idx := 0, raw := r } = true ∧ descOk s 1 0 r = true ∧ dOp r = 2 ∧ stInit r = 1 ∧
        (getArray s 1 0).stream = none ∧ tripped s = false ∧ firstLoad s 1 0 = none ∧ (getArray s 1 0).badLoad = false ∧
        streamFits aPlane r = true ∧ stM r = m ∧
        groupFits (getArray s 1 0) aPlane r = true ∧ aPlane.k ≠ 0) ∧
    (let r := streamRaw 0 1 false
     let s := fetched 0 r (loaded (fun x => { x with group := some (aGroup false) }))
     canIssue s 1 0 { idx := 0, raw := r } = true ∧ descOk s 1 0 r = true ∧ groupFits (getArray s 1 0) aPlane r = true) ∧
    streamFits {} (streamRaw 1 1 false) = false ∧
    (getArray (fetched 0 (streamRaw 1 1 false) (loaded (fun x => { x with fenced := true }))) 1 0).fenced = true := by decide +kernel

theorem witness_GroupsAccumulate_step :
    (∀ f ∈ [true, false],
      let s := streaming f
      let r := streamRaw 1 1 f
      tripped s = false ∧ inReset s 1 = false ∧ tokenHeld s 1 0 = false ∧
        (∀ st ∈ (getArray s 1 0).stream.toList, atStop s 1 (getArray s 1 0) st = false ∧
          classSteps (streamClass aPlane r) ≤ st.steps + 1) ∧ s.sramErr = [] ∧ aPlane.resid = planeResid aPlane ∧ rowBad s 1 r 0 aPlane = false ∧ stFused r = f) ∧
    rowBad ({ streaming false with slatePois := [(2 ^ 20 + 512, true)] } : State) 1 (streamRaw 1 1 false) 0 aPlane = true ∧
    (let p : Plane := { aPlane with wfmt := 0xB }
     0 + 1 < classSteps (streamClass p (streamRaw 1 1 false))) ∧
    (getArray late 1 0).stream = none := by decide +kernel

/-- A save header (Table 6.11) at the start of the save area of array 0, in a state. -/
def saved (st : Nat) : State :=
  let h := headerBits late (slateAt 0) (slateAt 64) 1 1 0 1 aPlane (streamRaw 1 1 false) 1 0 st
  slateBytes 1 0 64 h (setObj 1 Obj.saveAreaBase 0
    (modArray 1 0 (fun x => { x with sources := [(0, slateAt 0), (64, slateAt 64)] }) late))

theorem witness_GroupsDrainAndResume :
    (∀ keep ∈ [true, false],
      let r := drainRaw keep
      let s := fetched 0 r (loaded (fun x => { x with group := some (aGroup false) }))
      canIssue s 1 0 { idx := 0, raw := r } = true ∧ descOk s 1 0 r = true ∧ dOp r = 3 ∧ (getArray s 1 0).stream = none ∧
        tripped s = false ∧ (getEngine s 1 0).prog = [] ∧ drainFits (aGroup false) r = true ∧ drKeep r = keep ∧
        drComplex r = false ∧ rowBytes 1 (drOfmt r) (drOscheme r) ≤ 32 ∧ (getArray (fetched 0 r late) 1 0).group = none ∧
        drainFits (aGroup true) r = false) ∧
    (let r := drainRaw false + 2 ^ 137 + fld 138 23 16384
     let g : Group := { aGroup false with recipe := 4 }
     descOk late 1 0 r = true ∧ drainFits g r = true ∧ drComplex r = true ∧ g.m = 1 ∧
       drDst r + rowBytes 1 (drOfmt r) (drOscheme r) ≤ drDst2 r) ∧
    (let r := 2 + fld 150 2 3
     let s := fetched 0 r (saved 1)
     let base := getObj s 1 Obj.saveAreaBase
     let h := slateNat s 1 base 64
     canIssue s 1 0 { idx := 0, raw := r } = true ∧ descOk s 1 0 r = true ∧ dOp r = 2 ∧ stInit r = 3 ∧
       (getArray s 1 0).fenced = false ∧ (getArray s 1 0).stream = none ∧ (getArray s 1 0).group = none ∧
       tripped s = false ∧ base + 0x41000 ≤ slateSize ∧ slateBad s 1 base 64 = false ∧ bits h 0 8 = 1 ∧ bits h 376 32 = 1 ∧
       slateBad s 1 (base + 0x1000) (512 * bits h 325 10) = false ∧
       bits (slateNat (saved 0) 1 0 64) 0 8 = 0 ∧ bits (slateNat (saved 3) 1 0 64) 0 8 = 3 ∧
       bits (slateNat (saved 2) 1 0 64) 0 8 = 2 ∧
       slateBad ({ s with slatePois := [(2 ^ 20, true)] } : State) 1 base 64 = true ∧
       slateBad ({ s with slatePois := [(2 ^ 20 + 512, true)] } : State) 1 (base + 0x1000) 512 = true ∧
       s.sramErr = [] ∧ firstLoad s 1 0 = none ∧ (getMover s 1 0).ops = [] ∧ (getMover s 1 1).ops = [] ∧
       (let wsrc := sourceOf s 1 0 (bits h 448 40)
        let sdesc := sourceOf s 1 0 (bits h 408 40)
        adSpace wsrc = 2 ∧ adSpace sdesc = 2 ∧ slateBad s 1 (adLow sdesc) 64 = false ∧
          slateBad s 1 (adLow wsrc) (imgBytes (bits h 316 9) (bits h 308 8) (bits h 304 4) (bits h 295 2)) = false)) := by decide +kernel

/-- WAIT for 5 at semaphore 63 with a timeout of 10 ns, SIGNAL of a value, HINT, PREEMPT, FENCE (Table 8.13). -/
def waitRaw (v : Nat) : Nat := 9 + fld 64 6 63 + fld 70 32 v + fld 103 32 10
def signalRaw (tile op : Nat) : Nat := 10 + fld 64 6 63 + fld 70 6 tile + fld 76 2 op + fld 78 32 (2 ^ 32 - 1)
def hintRaw : Nat := 11 + fld 64 16 1 + fld 80 32 10000000 + fld 112 2 1 + fld 114 7 100
def preemptRaw (mode mask : Nat) : Nat := 12 + fld 64 1 mode + fld 65 4 mask

theorem witness_SemaphoresAndHints :
    (∀ r ∈ [8, waitRaw 0, waitRaw 5, signalRaw 1 0, signalRaw 1 1, signalRaw 63 0, hintRaw],
      let s := fetched 5 r late
      canIssue s 1 5 { idx := 0, raw := r } = true ∧ descOk s 1 5 r = true ∧ waitsOf s 1 = []) ∧
    (waValue (waitRaw 0) ≤ semaphore late 1 63 ∧ semaphore late 1 63 < waValue (waitRaw 5) ∧
      siTile (signalRaw 1 0) = 1 ∧ siTile (signalRaw 63 0) ≠ 1 ∧ siOp (signalRaw 1 1) = 1 ∧ siBell (signalRaw 1 0) = 0) ∧
    (let d : Desc := { idx := 0, raw := waitRaw 5, start := 1999990 }
     let s := modEngine 1 5 (fun g => { g with prog := [d] }) late
     (getEngine s 1 5).prog.find? (fun d => dOp d.raw = 9 ∧ ¬ d.ended) = some d ∧ waTimeout d.raw ≠ 0 ∧
       waTimeout d.raw ≤ s.time.elapsed - d.start ∧ s.time.elapsed - 1999991 < waTimeout d.raw) ∧
    (let m : SignalMsg := ⟨2, 1, 5, 0, 63, 0, 2 ^ 32 - 1, 0⟩
     let s := modEngine 2 5 (fun g => { g with prog := [{ idx := 0, raw := signalRaw 1 0 }] }) { late with signals := [m] }
     s.signals.find? (fun m => m.dst = 1) = some m ∧ m.sem < 64 ∧ inReset s 1 = false ∧ inHold s 1 = false ∧
       starting s = false ∧ waitsOf s 1 = [] ∧ s.signals.find? (fun m => m.dst = 2) = none ∧
       inHold (modPTile 1 (fun x => { x with hold := true }) s) 1 = true ∧
       (getEngine s 2 5).prog.find? (signalDesc m) = some { idx := 0, raw := signalRaw 1 0 } ∧
       0 < getObj s 2 Obj.moverRetryLimit) := by decide +kernel

/-- Array 0 of tile 1 stopped for a pre-emption at row 0 of an open group. -/
def stopped : State := setObj 1 Obj.preemptEnable 1 (loaded (fun x => { x with
  group := some (aGroup false), preempt := some 0
  stream := some { raw := streamRaw 1 1 false, idx := 0, qaddr := 0 } }))

theorem witness_PreemptionSaves :
    (∀ m ∈ [0, 1], let r := preemptRaw m (15 * m)
      let s := fetched 0 r late
      canIssue s 1 0 { idx := 0, raw := r } = true ∧ descOk s 1 0 r = true ∧ dOp r = 12 ∧ peMode r = decide (m = 1) ∧
        peMask r = 15 * m ∧ yieldPending s 1 0 = false) ∧
    yieldPending (modEngine 1 0 (fun g => { g with yield := true }) late) 1 0 = true ∧
    (canSave stopped 1 0 = true ∧ getObj stopped 1 Obj.saveAreaBase + 0x41000 ≤ slateSize ∧
      (getArray stopped 1 0).group = some (aGroup false) ∧ (aGroup false).fused = false) ∧
    canSave late 1 0 = false ∧ calm stopped 1 = true := by decide +kernel

/-- Engine 5 of tile 1 with an ended descriptor, a ring of `n` records with `used` of them in use. -/
def ended (raw n used : Nat) : State :=
  setObj 1 (Obj.completionRingSize + 5) n (setObj 1 (Obj.completionProduced + 5) used
    (modEngine 1 5 (fun g => { g with prog := [{ idx := 0, raw := raw, ended := true }] }) late))

theorem witness_CompletionAndResume :
    ((getEngine (ended 0x108 16 15) 1 5).prog.find? (fun d => d.ended) = some { idx := 0, raw := 0x108, ended := true } ∧
      dRecord 0x108 = true ∧ dRecord 8 = false ∧ ringFull (ended 0x108 16 15) 1 5 = false ∧
      ringFull (ended 0x108 16 16) 1 5 = true ∧ (getEngine (ended 0x108 16 16) 1 5).stallFrom = none ∧
      (getObj (ended 0x108 16 15) 1 (Obj.completionRingBase + 5) + 32 * (15 % 16)) % slateSize + 32 ≤ slateSize) ∧
    (let s := modEngine 1 5 (fun g => { g with stallFrom := some 0 }) (ended 0x108 16 16)
     (getEngine s 1 5).stallFrom ≠ none ∧ ringFull (setObj 1 (Obj.completionConsumed + 5) 1 s) 1 5 = false) ∧
    (∀ act < 6, 1 ≤ act → resumeOk act 0 = false) ∧
    (∀ h < 7, 3 ≤ h → (getEngine (modEngine 1 0 (fun g => { g with halt := h }) late) 1 0).halt = h) ∧
    (let s := modEngine 1 0 (fun g => { g with halt := 3 }) (setObj 1 Obj.engineQueueBase (slateAt 0) late)
     adSpace (queueAddr s 1 0 (getEngine s 1 0).stopIdx) = 2 ∧ (getEngine s 1 0).abandoned = none ∧
       slatePoisMask s 1 (adLow (queueAddr s 1 0 (getEngine s 1 0).stopIdx)) 64 = 0 ∧ calm s 1 = true) := by decide +kernel

/-! ### The block map -/

/-- A MapCommand of Table 9.5: argument, other entry, block, tile, count, partition, entry. -/
def mapCmd (arg other block tile count entry : Nat) : BitVec 256 :=
  BitVec.ofNat 256 (fld 192 64 arg + fld 176 16 other + fld 160 16 block + fld 154 6 tile + fld 141 13 count +
    fld 116 16 entry)

/-- Tile 1 with a pool of two free blocks untouched, and entry 65535 in a state on block 1. -/
def mapped (st : Nat) (home refs pstate : Nat) : State :=
  setEntry 1 65535 { state := st, home := home, block := 1 } (setPool 1 1 { refs := refs, pstate := pstate }
    (modMap 1 (fun m => { m with unlistedFree := true }) late))

theorem witness_MapCommandsOnEntries :
    (getMap late 1).wait = none ∧ (getMap late 1).queue = [] ∧ inHold late 1 = false ∧ late.sramErr = [] ∧
    mapHalted late 1 = false ∧ (getSched late 1).mapPass = {} ∧ (getSched late 1).mapBest = {} ∧ openReqs late 1 = [] ∧
    (∀ op < 16, 1 ≤ op → mcOk late 1 (withMapOp (BitVec.ofNat 256 (2 ^ 8)) op) = false) ∧
    inHold (modPTile 1 (fun x => { x with hold := true }) late) 1 = true ∧
    (mcOk late 1 (withMapOp (mapCmd 0 0 0 0 1 65535) 1) = true ∧ mcCount (mapCmd 0 0 0 0 1 65535).toNat = 1 ∧
      mcEntry (mapCmd 0 0 0 0 1 65535).toNat = 65535 ∧ (getEntry late 1 65535).state = 0 ∧
      1 ≤ getObj (mapped 0 0 0 4) 1 Obj.freeBlocks ∧
      (firstList (mapped 0 0 0 4) 1 (rotated ((getMap (mapped 0 0 0 4) 1).hand % max 1 (listCount (mapped 0 0 0 4) 1))
        (listCount (mapped 0 0 0 4) 1))).isSome = true) ∧
    (mcOk late 1 (withMapOp (mapCmd 0 65535 0 0 1 0) 2) = true ∧ mcOther (mapCmd 0 65535 0 0 1 0).toNat = 65535 ∧
      (getEntry (mapped 4 0 65534 1) 1 65535).state = 4 ∧
      mustMove (mapped 4 0 65534 1) 1 (getEntry (mapped 4 0 65534 1) 1 65535) = false ∧ (getPool (mapped 4 0 65534 1) 1 1).refs < 65535) ∧
    (mcOk late 1 (withMapOp (mapCmd 0 0 0 0 1 65535) 3) = true ∧ (getEntry (mapped 1 0 1 1) 1 65535).busy = false ∧
      (getPool (mapped 1 0 1 1) 1 1).refs = 1 ∧ 1 < (getPool (mapped 1 0 2 1) 1 1).refs) ∧
    (∀ op ∈ [4, 5, 8, 14], mcOk late 1 (withMapOp (mapCmd 0 0 0 0 1 65535) op) = true) ∧
    mcOk late 1 (withMapOp (mapCmd 0 0 7 63 1 65535) 6) = true ∧
    mcOk late 1 (withMapOp (mapCmd (blockBytes late 1) 0 0 0 1 65535) 7) = true ∧
    ((getEntry (mapped 1 65536 1 1) 1 65535).home ≠ 0 ∧ (getEntry (mapped 1 65536 1 1) 1 65535).dirty = false ∧
      (getMap (mapped 1 65536 1 1) 1).releases = []) := by decide +kernel

theorem witness_MapCommandsOnEntries_relocate : let s := mapped 5 0 1 2
    mcOk s 1 (withMapOp (mapCmd 0 0 0 0 1 65535) 15) = true ∧ (getEntry s 1 65535).state = 5 ∧
      (getEntry s 1 65535).wasFar = false ∧ (getPool s 1 1).pstate = 2 ∧ (getPool s 1 1).forward = false ∧
      (getEntry s 1 65535).busy = false ∧ mapHalted s 1 = false ∧
      (firstList s 1 (rotated ((getMap s 1).hand % max 1 (listCount s 1)) (listCount s 1))).isSome = true := by decide +kernel

/-- Key 5 of partition 0 in the directory of tile 1, for block 1. -/
def keyed : State := setWay 1 20 { valid := true, key := 5, block := 1 } (mapped 1 0 1 1)

theorem witness_PrefixDirectory :
    (∀ op ∈ [9, 12], mcOk late 1 (withMapOp (mapCmd 5 0 0 1 1 65535) op) = decide (op = 12)) ∧
    (mcOk late 1 (withMapOp (mapCmd 5 0 0 0 1 65535) 9) = true ∧ (getEntry (mapped 1 0 1 1) 1 65535).state = 1 ∧
      (getPool (mapped 1 0 1 1) 1 1).refs < 65535 ∧ findKey (mapped 1 0 1 1) 1 5 0 = none ∧
      (setSlots 5).find? (fun i => !(getWay (mapped 1 0 1 1) 1 i).valid) = some 20) ∧
    (∀ op ∈ [10, 11], mcOk late 1 (withMapOp (mapCmd 5 0 0 0 0 0) op) = true) ∧
    (adoptComing keyed 1 5 0 = false ∧
      adoptComing { keyed with queries := [{ src := 0, dst := 1, kind := 3, arg := 5 }] } 1 5 0 = true ∧
      mustMove keyed 1 (getEntry keyed 1 65535) = false) ∧
    (findKey keyed 1 5 0 = some 20 ∧ (getEntry keyed 1 0).state = 0 ∧ (getPool keyed 1 (getWay keyed 1 20).block).refs < 65535) ∧
    (mcOk late 1 (withMapOp (mapCmd 5 0 0 63 1 0) 12) = true ∧ mcTile (mapCmd 5 0 0 63 1 0).toNat = 63) ∧
    (let r := fld 64 64 5 + fld 48 16 0 + fld 32 6 1
     let s := slateBytes 1 0x7FFFF0 16 r keyed
     mcOk s 1 (withMapOp (mapCmd 0x7FFFF0 0 0 0 1 0) 13) = true ∧ mcArg (mapCmd 0x7FFFF0 0 0 0 1 0).toNat = 0x7FFFF0 ∧
       slateNat s 1 0x7FFFF0 16 = r ∧ slateBad s 1 0x7FFFF0 16 = false ∧ bits r 38 10 = 0 ∧ bits r 0 32 = 0 ∧
       bits r 32 6 = 1 ∧ bits r 64 64 ≠ 0) := by decide +kernel

/-- A window of Table 9.4 on entries 0 to 65535 of partition 0, for writes too. -/
def window : Nat := fld 34 1 1 + fld 17 17 65536 + 1

/-- Mover channel 11 of tile 1 has the window, and entry 65535 is in a state, busy or not. -/
def resolving (st : Nat) (write busy : Bool) : State :=
  setEntry 1 65535 { state := st, write := write, busy := busy, block := 1, tile := 2 } (setPool 1 1 { refs := 1, pstate := 1 }
    (setObj 1 (Obj.mapWindow + 11) window (setObj 1 Obj.blockSize 0 late)))

/-- The last granule of entry 65535, as an address of space 1. -/
def lastAddr : Nat := 2 ^ 46 + 2 ^ 34 + blockBytes (setObj 1 Obj.blockSize 0 late) 1 * 65535

/-- A request of mover channel 11 of tile 1 for entry 65535 that came to the block map. -/
def asked (write canWrite : Bool) (part : Nat) : MapReq :=
  { req := { id := 0, requester := 0x1B, orig := 0x1B, source := 1, tag := 3, addr := 0, len := 64, write := write }
    entry := 65535, off := 2048, part := part, canWrite := canWrite }

/-- The state `resolving` with that request at the block map of tile 1. -/
def atMap (st : Nat) (write busy : Bool) (r : MapReq) : State :=
  modMap 1 (fun m => { m with input := [r] }) (resolving st write busy)

/-- The far request of tile 0's entry 7 for block 1 of tile 1, whose entry and block are in a state. -/
def farAsked (pstate : Nat) : State :=
  setEntry 0 7 { state := 2, tile := 1, block := 1 } { mapped 1 0 1 pstate with farReqs := [
    { src := 0, dst := 1, kind := .block 7 1 0, orig := 16, tag := 0, addr := 0, len := 64, write := false, barrier := false
      passNo := none, data := 0, pois := 0, accepted := 0, stamp := 0 }] }

theorem witness_ResolutionOfRequests :
    (badLength 0 = true ∧ badLength 64 = false ∧ bits lastAddr 46 2 = 1 ∧ bits lastAddr 40 6 = 0 ∧ addrTile lastAddr = 1 ∧
      2048 < lastAddr % 2048 + 2048 + 32 ∧ lastAddr % 2048 + 2048 ≤ 2048) ∧
    (windowEntry late 0 lastAddr = none ∧ windowEntry (resolving 1 true false) window lastAddr = some (65535, 0)) ∧
    (∀ st < 6, let s := atMap st true false (asked true true 0)
      mapHalted s 1 = false ∧ (getMap s 1).held = [] ∧ s.sramErr = [] ∧
      (getMap s 1).input.find? (fun r => decide (r.req.requester = 0x1B)) = some (asked true true 0) ∧
      (getMap s 1).input.find? (fun r => decide (r.req.requester = 0x1A)) = none ∧
      fifoWaits s 1 0x1B false = false ∧ viaGateway (asked true true 0).req = false ∧
      mapNamed s 1 (65535 * blockBytes s 1 + 2048) 64 true [] (asked true true 0) = true ∧
      mapNamed s 1 0 64 true [] (asked true true 0) = false ∧
      (getSched s 1).mapPass = {} ∧ (getSched s 1).mapBest = {} ∧ openReqs s 1 = []) ∧
    ((getEntry (resolving 0 true false) 1 65535).state = 0 ∧ mwPart window = 0 ∧ mwPart (window + 2 ^ 35) ≠ 0 ∧
      mwWrite window = true ∧ (getEntry (resolving 1 false false) 1 65535).write = false) ∧
    ((getEntry (resolving 1 true true) 1 65535).busy = true ∧ (getMap (resolving 1 true true) 1).held.length < 256) ∧
    ((getPool (resolving 4 true false) 1 1).pstate ≠ 2 ∧ (getPool (resolving 4 true false) 1 1).refs ≤ 1) ∧
    (getPool (setPool 1 1 { refs := 1, pstate := 2 } (resolving 4 true false)) 1 1).forward = false ∧
    ((getEntry (resolving 2 true false) 1 65535).state = 2 ∧ (getMap (resolving 3 true false) 1).jobs = []) ∧
    (let s := modMap 1 (fun m => { m with unlistedFree := true }) (resolving 3 true false)
     (firstList s 1 (rotated ((getMap s 1).hand % max 1 (listCount s 1)) (listCount s 1))).isSome = true) ∧
    (∀ p ∈ [1, 2], let s := farAsked p
      (farHead s 1 0).map (fun x => x.kind) = some (.block 7 1 0) ∧ mapHalted s 1 = false ∧
      fifoWaits s 1 0x20 false = false ∧ s.sramErr = [] ∧ (getPool s 1 1).forward = false ∧ (getPool s 1 1).pstate = p ∧
      (getEntry s 0 7).tile = 1 ∧ farHead s 1 1 = none) := by decide +kernel

/-- Tile 1 with a job of the block map running for entry 65535. -/
def jobbed (j : MapJob) : State := modMap 1 (fun m => { m with jobs := [j] }) (mapped 1 65536 1 1)

theorem witness_BlockMapEvents :
    jobOf late 1 65535 = none ∧
    (let j : MapJob := { kind := .cow, entry := 65535, src := 1, dst := some (1 + poolClasses late 1) }
     jobOf (jobbed j) 1 65535 = some j ∧ 1 ≠ 1 + poolClasses late 1 ∧ (getPool (jobbed j) 1 1).pstate ≠ 2 ∧
       partners (mapped 1 65536 1 1) 1 1 (1 + poolClasses late 1) = true) ∧
    (let s := jobbed { kind := .reloc, entry := 65535, src := 1, dst := some 2 }
     (jobOf s 1 65535).isSome = true ∧ 1 ≤ (getPool s 1 1).refs) ∧
    (∀ ready ∈ [false, true], let s := jobbed { kind := .fill, entry := 65535, dst := some 2, ready := ready }
     (jobOf s 1 65535).map (fun j => j.left) = some 0 ∧ (getMap s 1).held = [] ∧ (getMap s 1).wait = none ∧
       (getMap s 1).queue = [] ∧ (getMap s 1).releases = [] ∧
       (getSched s 1).mapPass = {} ∧ (getSched s 1).mapBest = {} ∧ openReqs s 1 = [] ∧
       s.time.elapsed - 0 < getObj s 1 Obj.nextLevelTimeout * 1000000 ∧
       getObj (setObj 1 Obj.nextLevelTimeout 2 s) 1 Obj.nextLevelTimeout * 1000000 ≤ s.time.elapsed - 0) ∧
    (let s := jobbed { kind := .spill, entry := 65535, src := 1 }
     (jobOf s 1 65535).isSome = true ∧ 0 < poolG s 1 ∧ mustMove s 1 { getEntry s 1 65535 with state := 1 } = false) ∧
    (poolSize late 1 ≤ 65536 ∧ pstateOf late 1 0 = 3 ∧ (getPool late 1 0).left = 0 ∧ mapHalted late 1 = false ∧
      (getMap late 1).jobs = [] ∧ (getPool (setPool 1 1 { pstate := 3, left := 1 } late) 1 1).left = 1 ∧
      mapHalted (modPTile 1 (fun x => { x with hold := true }) late) 1 = true ∧
      pstateOf (mapped 1 0 1 1) 1 1 ≠ 3 ∧ 1 < (getPool (setPool 1 1 { left := 2 } late) 1 1).left) := by
  decide +kernel

/-- A MapSwitch of channel 0 with array 0 pre-empted and engine 0 moved to tail 5 (Table 9.10). -/
def switch : Nat := fld 272 20 5 + fld 266 6 1 + fld 260 6 1 + fld 248 12 1 + window

theorem witness_BlockMapEvents_switch_pool :
    (switchOk 0 = false ∧ switchOk switch = true ∧ (getMap late 1).switching = none ∧ headersFree late 1 switch = true ∧
      headersFree (setObj 1 Obj.saveAreaBase 0 (slateBytes 1 0 1 1 late)) 1 switch = false ∧
      bit (msPreempt switch) 0 = true ∧ (getArray late 1 0).fenced = false) ∧
    (let s := modMap 1 (fun m => { m with switching := some (switch, 0, true) }) late
     (getMap s 1).switching = some (switch, 0, true) ∧ switchReady s 1 switch = true ∧
       switchReady (modArray 1 0 (fun x => { x with preempt := some 0 }) s) 1 switch = false ∧
       bit (msAdvance switch) 0 = true) ∧
    (inRange Obj.blockSize 255 = false ∧ inRange Obj.poolBands 12 = true ∧
      late.entry.any (fun e => e.1 / 65536 = 1 ∧ e.2.state ≠ 0) = false ∧
      (mapped 1 0 1 1).entry.any (fun e => e.1 / 65536 = 1 ∧ e.2.state ≠ 0) = true ∧
      getObj late 1 Obj.poolFirstBand + 11 ≤ 16 ∧ 16 < getObj late 1 Obj.poolFirstBand + 12) := by
  decide +kernel

/-! ### Heat, Recess, calibration -/

theorem witness_HeatAndTrip :
    (due late 1 2 (getObj late 1 Obj.samplingPeriod) = true ∧ due (take 1 2 late) 1 2 (getObj late 1 Obj.samplingPeriod) = false ∧
      getObj late 1 Obj.recessMinBand ≤ 3 ∧ (getSensor late 1).band ≤ 3 ∧ getObj late dev Obj.tripState = 0 ∧
      tripSensor late 1 (List.replicate 30 none) = none) ∧
    (due late 1 3 1000000 = true ∧ due (take 1 3 late) 1 3 1000000 = false) ∧
    (let s := setObj 1 Obj.passBand 0 live
     (hasLive s 1 && decide (getObj s 1 Obj.refreshBand < 3 ∧ getObj s 1 Obj.passBand < 3)) = true ∧ hasLive late 1 = false) ∧
    ((∀ t < 64, (getMap late t).held = [] ∧ (getMap late t).wait = none ∧ (getMap late t).queue = []) ∧
      (∀ t < 64, calm late t = true) ∧
      allJudged late = false ∧ getObj (setObj dev Obj.tripState 1 late) dev Obj.tripState ≠ 0) ∧
    (let s : State := setObj dev Obj.tripState 2 { late with time := { late.time with elapsed := 1000000000, coolFrom := 0 } }
     getObj s dev Obj.tripState = 2 ∧ s.time.coolFrom + 1000000000 ≤ s.time.elapsed ∧ s.time.timeBase % 20000 = 0) ∧
    (let s : State := { late with sensor := [(1, { reading := [some 1360] })] }
     !bit (getObj s 1 Obj.sensorLost) 0 ∧ (getSensor s 1).reading.getD 0 none = some 1360) := by decide +kernel

/-- A sensor at its trip level trips, where the factory gave the sensor an offset. -/
theorem witness_HeatAndTrip_trip (h : (Config.sensorOffset 1 0).isNone = false) :
    tripSensor late 1 [some 1840] = some 0 := by
  have e : validReading late 1 0 (some 1840) = some 1840 := by simp [validReading, h]
  rw [tripSensor, show List.range 30 = 0 :: (List.range 29).map (· + 1) from by decide]
  simp [findAt, e]

/-- Channel 2 of tile 1 in a calibration run at a step, in an open window. -/
def calRun (step : Nat) (a : List (Option Nat)) : State :=
  modCal 1 2 (fun x => { x with step := step, runA := a, runB := a }) (modRecess 1 2 (fun r => { r with
    openAt := some 0, cal := true, phase := 2 }) ready)

theorem witness_RecessAndCalibration :
    (let s := setObj dev Obj.bringupPhase 0 { ready with time := { ready.time with timeBase := 20840 } }
     (getRecess s 1 2).openAt = none ∧ chState s 1 2 ≠ 4 ∧ getObj s dev Obj.bringupPhase ≠ 1 ∧ (getRecess s 1 2).period = 0 ∧
       recessPeriod s 1 = 500000 ∧ s.time.timeBase % 500000 = recessOffset 500000 2) ∧
    (let s := modRecess 1 2 (fun r => { r with period := 500000, next := 2000000 }) ready
     (getRecess s 1 2).period ≠ 0 ∧ (getRecess s 1 2).next ≤ s.time.elapsed ∧ (getRecess s 1 2).period = recessPeriod s 1) ∧
    (chState ready 1 2 = 2 ∧ (getCal ready 1 2).step = 0 ∧
      calDue (modCal 1 2 (fun x => { x with asked := true }) ready) 1 2 = true ∧ calDue ready 1 2 = false) ∧
    (let r : List (Option Nat) := List.replicate 11 (some 4)
     ((getRecess (calRun 1 r) 1 2).openAt ≠ none ∧ (getRecess (calRun 1 r) 1 2).cal = true ∧ (getRecess (calRun 1 r) 1 2).phase = 2) ∧
     judgeRun (getCal (calRun 1 r) 1 2) (trimsInUse ready 1 2) r = .again ∧
     judgeRun (getCal (calRun 2 r) 1 2) (trimsInUse ready 1 2) r = .accept (List.replicate 11 4) ∧
     judgeRun (getCal (calRun 3 [none]) 1 2) (trimsInUse ready 1 2) (none :: r.drop 1) = .fail) ∧
    stepMode (setObj 1 Obj.calApplyMode 0 late) 1 = true ∧
    (let s := setObj 1 Obj.calApplyMode 1 (modCal 1 2 (fun x => { x with target := [1], lastStep := 1950000 }) ready)
     (getCal s 1 2).target ≠ [] ∧ stepMode s 1 = false ∧ (getCal s 1 2).lastStep + 50000 ≤ s.time.elapsed ∧
       trimsInUse s 1 2 ≠ (getCal s 1 2).target ∧ trimsFree s 1 2 = true ∧ trimsFree (setBank 1 2 0 (.opened 1) s) 1 2 = false) ∧
    (let s := setObj 1 Obj.calApplyMode 1 (modCal 1 2 (fun x => { x with target := [1], lastStep := 1990000, layerDue := true }) ready)
     s.time.elapsed < (getCal s 1 2).lastStep + 50000 ∧ (getCal s 1 2).layerDue = true ∧
       trimWords (trimsInUse s 1 2) (getCal s 1 2).target = [{ word := opWord 0xA 0 1 }]) ∧
    trimsInUse ready 1 2 = List.replicate 11 0 := by decide +kernel

/-! ### Power -/

theorem witness_RailsStepsAndHold :
    (bits (66 * 2 ^ 41) 41 7 = 66 ∧ bits (65 * 2 ^ 41) 41 7 < 66) ∧
    (railLost late 65 = false ∧ (getRail late 65).last + 100000 ≤ late.time.elapsed ∧
      late.time.elapsed < (getRail (modRail 65 (fun r => { r with last := 1900001 }) late) 65).last + 100000 ∧
      (getRail late 65).outstanding = none ∧
      (getRail (modRail 65 (fun r => { r with outstanding := some 1 }) late) 65).outstanding = some 1) ∧
    ((getPTile late 1).settling = none ∧
      (let s := modPTile 1 (fun x => { x with settling := some (0, 28, 2000000) }) late
       (getPTile s 1).settling = some (0, 28, 2000000) ∧ (getRail s 1).queued = [] ∧ (getPTile s 1).target = none)) ∧
    (let h : HintS := { kind := 1, level := 100, start := 2000000, stop := 3000000 }
     let s := modPTile 1 (fun x => { x with hints := [h] }) late
     (getPTile s 1).hints[0]? = some h ∧ (getPTile s 1).hints[7]? = none ∧
       h.start ≤ s.time.elapsed + getObj s dev Obj.voltageStepSettle) ∧
    (belowLevel late 1 0 940 = true ∧ belowLevel late 1 4095 940 = false ∧ belowLevel late 1 0 880 = true ∧
      belowLevel late 65 0 880 = true ∧ belowLevel late 1 4095 880 = false ∧ ∀ t < 64, mergeOf late t = []) ∧
    (let s := modPTile 1 (fun x => { x with hold := true }) (modRail 1 (fun r => { r with lowAt := some 1980000 }) late)
     inHold s 1 = true ∧ (getPTile s 1).deferredReset = false ∧ (railsOf 1).all (railClear s) = true ∧ calm s 1 = true ∧
       (getPTile s 1).target = none ∧ (getProt s 1).queue = [] ∧ (getMap s 1).switching = none ∧
       (railsOf 1).all (railClear (modRail 64 (fun r => { r with lowAt := some 1980010 }) s)) = false) ∧
    (belowFloor (setObj 1 Obj.floorStep 28 late) (fun u => getObj late u Obj.fixedStep) = true ∧
      belowFloor late (fun _ => 28) = false ∧ getObj late dev Obj.powerMode ≠ 1 ∧
      getObj (setObj dev Obj.powerMode 1 late) dev Obj.powerMode = 1) := by decide +kernel

theorem witness_EnergyAndEstimates :
    (due late 1 4 1000 = true ∧ due late dev 5 10000 = true ∧ due late dev 6 1000000 = true ∧
      due (take 1 4 late) 1 4 1000 = false ∧ due (take dev 5 late) dev 5 10000 = false ∧
      due (take dev 6 late) dev 6 1000000 = false) ∧
    ((fget ({} : Mark) late.mark 7).opened = false ∧
      (fget ({} : Mark) ({ late with mark := [(7, { opened := true })] } : State).mark 7).opened = true) ∧
    (let s := setObj dev Obj.estimatorState 2 late
     let run := { s with firm := { s.firm with runningHeader := some 1 } }
     getObj s dev Obj.estimatorState = 2 ∧ s.power.fitLeft = 0 ∧ getObj late dev Obj.estimatorState ≠ 2 ∧
       firmwareRuns run = true ∧ firmwareRuns s = false ∧ getObj run dev Obj.estimatorState = 2 ∧ run.power.fitLeft = 0) := by decide +kernel

/-! ### The field network -/

/-- Node 9. -/
def addressed : State := setObj dev Obj.nodeAddress 9 late

/-- Identifiers: a request, and a Roll Call frame of the coordinator. -/
def reqId (dest : Nat) : Nat := frameId 3 0 dest 4 63 0
def rollId : Nat := frameId 0 3 0 1 0 0

/-- The bytes of a frame with a header and data. -/
def frame (op unit index len : Nat) (d : List Nat) : List Nat := leBytes 8 (frameHeader len 0 1 index unit op) ++ d
def rollFrameOf (op : Nat) (d : List Nat) : List Nat := leBytes 8 (frameHeader d.length 0 0 0 0 op) ++ d

/-- A held transaction of node 4, tag 63, whose latest segment came at a time. -/
def heldAt (t : Nat) : State := { addressed with field := { addressed.field with trans := [⟨4, 63, reqId 9, 0, [], 1, t⟩] } }

/-- A frame of six bytes less than 8, one of 8, and the longest; each request of the statement arrives. -/
theorem witness_FieldRequests :
    (let l := frame 1 dev 0x1120 0 []
     let h := headerOf l
     let s := addressed
     (l.length ≤ 64 ∧ 8 ≤ l.length ∧ idKind (reqId 9) = 0 ∧ idSeg (reqId 9) = 0 ∧ hdOp h = 1 ∧ s.field.busOff = false ∧
       nodeAddr s ≠ 127 ∧ idDest (reqId 9) = nodeAddr s ∧ nodeAddr s ≠ 0 ∧ heldTrans s (idSrc (reqId 9)) (idTag (reqId 9)) = none ∧
       (s.field.trans.filter (fun x => x.node = idSrc (reqId 9))).length < 8) ∧
     badHeader h = false ∧ badHeader (headerOf (frame 1 dev 0x1120 1 [0])) = true ∧ hdLength h ≤ 56 ∧ hdLength h + 8 ≤ l.length ∧
     (∀ x ∈ s.field.answered, x.node ≠ idSrc (reqId 9)) ∧
     let x := runRequest (idSrc (reqId 9)) h [] (accepted (reqId 9) { s with out := {} })
     x.2.field.busOff = false ∧ nodeAddr x.2 = nodeAddr s ∧ (ansData x.1).length ≤ 56) ∧
    (nodeAddr late = 127 ∧ (idDest (reqId 8) ≠ nodeAddr addressed ∧ idDest (reqId 8) ≠ 0) ∧ idKind rollId ≠ 0) := by decide +kernel

theorem witness_FieldRequests_ops :
    ∀ op ∈ [2, 3, 8, 9, 10], let n := if op = 2 then 2 else if op = 8 then 2 else if op = 9 then 8 else 0
      let l := leBytes 8 (frameHeader n 0 0 0 0 op) ++ List.replicate n 1
      hdOp (headerOf l) = op ∧ badHeader (headerOf l) = false ∧ hdLength (headerOf l) + 8 ≤ l.length ∧ l.length ≤ 64 := by
  decide +kernel

theorem witness_FieldRequests_events :
    (heldTrans addressed 4 63 = none ∧ (heldTrans (heldAt 0) 4 63).isSome = true ∧ late.time.elapsed ≤ 0 + 10000000 ∧
      (let s : State := { heldAt 0 with time := { late.time with elapsed := 10000001 } }; 0 + 10000000 < s.time.elapsed)) ∧
    (late.field.busOff = false ∧ ({ late with field := { late.field with busOff := true } } : State).field.busOff = true) ∧
    (let p := getObj addressed dev Obj.heartbeatPeriod * 1000000
     p ≠ 0 ∧ nodeAddr addressed ≠ 127 ∧ late.time.elapsed < late.field.lastBeat + p ∧
       (let s : State := { addressed with time := { late.time with elapsed := 1000000000 } }
        s.field.lastBeat + p ≤ s.time.elapsed ∧ s.field.busOff = false) ∧
       getObj (setObj dev Obj.heartbeatPeriod 0 addressed) dev Obj.heartbeatPeriod * 1000000 = 0) := by decide +kernel

/-- A nonce of node 4, and the states in which it is in force, and in which the node is barred. -/
def aNonce : Nonce := ⟨4, 3, 0, 77, 2000000⟩
def nonced : State := { addressed with field := { addressed.field with nonces := [aNonce] } }
def barred : State := { addressed with field := { addressed.field with locked := [(4, 2000001)] } }
def granted (lease : Nat) : State := { addressed with field := { addressed.field with grants := [⟨4, 1, 2, lease⟩] } }

theorem witness_RightsAndUnlocking :
    (lockedOut barred 4 = true ∧ lockedOut addressed 4 = false ∧ lockedOut barred 5 = false ∧ 3 < 4 ∧ 1 ≤ 1 ∧ 3 ≤ 3) ∧
    (nonced.field.nonces.find? (fun m => m.node = 4 && decide (nonced.time.elapsed ≤ m.expiry)) = some aNonce ∧
      lockedOut nonced 4 = false ∧
      (nonced.field.grants.filter (fun g => decide (g.node ≠ 4) && grantLive nonced g)).length < 16 ∧
      getObj nonced dev Obj.rightsLease ≠ 0) ∧
    ((∀ g ∈ (granted 0).field.grants, g.node ≠ 4 ∨ grantLive (granted 0) g = true) ∧
      (let s : State := { granted 0 with time := { late.time with elapsed := 600000000000 } }
       ∃ g ∈ s.field.grants, g.node = 4 ∧ grantLive s g = false)) := by decide +kernel

/-- A right proof, and a wrong one: proofs have 8 bytes. -/
theorem witness_RightsAndUnlocking_proof : proofOf nonced aNonce = proofOf nonced aNonce ∧
    List.replicate 9 0 ≠ proofOf nonced aNonce := by
  refine ⟨rfl, fun h => ?_⟩
  have := congrArg List.length h
  simp [proofOf] at this
  omega

/-- With every tile at its address. -/
def there (s : State) : State := setObj dev Obj.unitsPresent (2 ^ 64 - 1) s

/-- The state with an image running. -/
def served : State := { addressed with firm := { addressed.firm with runningHeader := some 0 } }

theorem witness_DictionaryAccess_look :
    lookObj served 65 0x1120 0 = .missing ∧ lookObj served dev 0x1120 1 = .missing ∧ lookObj (there served) 63 0x0FFF 0 = .reserved ∧
    lookObj served 64 0xC000 0 = .reserved ∧ (∃ d, lookObj served dev 0x1120 0 = .obj d) ∧
    (∀ d ∈ (objDef 0x1120 0).toList, awayHint addressed dev d = some 100000000) := by
  refine ⟨by decide +kernel, by decide +kernel, by decide +kernel, by decide +kernel, ⟨_, rfl⟩, by decide +kernel⟩

/-- HeartbeatPeriod takes 10 ms from node rights 1, not 9 ms, and nothing from rights 0. -/
theorem witness_DictionaryAccess_store : ∀ d ∈ (objDef 0x1120 0).toList,
    awayHint served dev d = none ∧ (!d.acc.writable || decide (1 < d.wrights) || scopeBars served 0 dev d 0 10) = false ∧
    (!d.acc.writable || decide (0 < d.wrights) || scopeBars served 0 dev d 0 10) = true ∧
    writeAction 0 0 dev d.index 0 10 (leBytes 4 10) served = none ∧
    inRange (d.index * 256) (plainStored d.index 10) = true ∧ plainOk served d.index (plainStored d.index 10) = true ∧
    plainOk served d.index (plainStored d.index 9) = false ∧ (leBytes 4 10).length = d.len ∧
    d.acc.readable = true ∧ alienRead served 0 dev 0x1120 0 = false ∧ (readObj served dev (0x1120 * 256)).isSome = true := by
  decide +kernel

/-- An object that is not readable; requests of a window: a read, a reserved op, a write of the longest length. -/
theorem witness_DictionaryAccess_window :
    ((objDef 0x3840 0).map (fun d => d.acc.readable)) = some false ∧
    (opOf 1 1 = true ∧ opOf 1 2 = false ∧ opOf 2 2 = true ∧ opOf 3 3 = true ∧ opOf 3 0 = true ∧ opOf 1 4 = true) ∧
    (let x := windowDo (windowWho served 1 3) (fld 0 8 1 + fld 8 8 dev + fld 16 16 0x1120) (windowFill [] []) served
     (ansData x.1).length ≤ 1024) := by decide +kernel

/-! ### Roll Call, bookkeeping -/

/-- Unaddressed with roll_in high, and with a claim made at the given deadline. -/
def rolled : State := { late with field := { late.field with rollIn := true } }
def claimed (until_ : Nat) : State := { rolled with field := { rolled.field with claim := some (126, until_) } }

/-- Whether a frame meets the form of a Roll Call frame. -/
def rollForm (op : Nat) (l : List Nat) (s : State) : Bool :=
  decide (s.field.busOff = false ∧ l.length ≤ 64 ∧ hdOp (headerOf l) = op ∧ idSeg rollId = 0 ∧ idKind rollId = 3 ∧
    idSrc rollId = getObj s dev Obj.coordinatorNode ∧ idDest rollId = 0 ∧ plainHeader (headerOf l) = true ∧
    hdLength (headerOf l) = rollLength op ∧ 8 + rollLength op ≤ l.length)

theorem witness_RollCall :
    rollForm 0x20 (rollFrameOf 0x20 [0]) rolled = true ∧ rollForm 0x25 (rollFrameOf 0x25 []) rolled = true ∧
    rollForm 0x21 (rollFrameOf 0x21 [126]) rolled = true ∧ rollForm 0x23 (rollFrameOf 0x23 (leBytes 8 5 ++ [126])) rolled = true ∧
    (nodeAddr rolled = 127 ∧ rolled.field.rollOut = false ∧ claimHeld rolled = none ∧ 126 ≠ getObj rolled dev Obj.coordinatorNode) ∧
    (nodeAddr addressed ≠ 127 ∧ 9 = nodeAddr addressed ∧ 126 ≠ nodeAddr addressed ∧ 1 = getObj rolled dev Obj.coordinatorNode) ∧
    (addressTaken rolled 126 = false ∧ addressTaken rolled 1 = true ∧ addressTaken addressed 9 = true) ∧
    claimHeld (claimed 2000001) ≠ none ∧ ((claimed 2000000).field.claim ≠ none ∧ claimHeld (claimed 2000000) = none) := by
  decide +kernel

/-- CONFIRM for this device's serial number and for another's. -/
theorem witness_RollCall_confirm : (Config.deviceSerial % 2 ^ 64) = Config.deviceSerial % 2 ^ 64 ∧
    ∃ n : Nat, n ≠ Config.deviceSerial % 2 ^ 64 := ⟨rfl, Config.deviceSerial % 2 ^ 64 + 1, by omega⟩

/-- A query of a kind at tile 1, and an answer there. -/
def asking (kind arg : Nat) (s : State) : State := { s with queries := [⟨0, 1, kind, arg, 0, false, 0, 0⟩] }

theorem witness_BookkeepingBetweenTiles :
    (let s := there (asking 1 1 (mapped 1 0 1 1))
     s.queries.find? (fun q => q.dst = 1) = some ⟨0, 1, 1, 1, 0, false, 0, 0⟩ ∧ s.queries.find? (fun q => q.dst = 2) = none ∧
     tileGone s 1 = false ∧ mapHalted s 1 = false ∧ 1 < poolSize s 1 ∧ (getPool s 1 1).pstate = 1 ∧ (getPool s 1 1).refs < 65535 ∧
     calm s 1 = true) ∧
    (getPool (mapped 1 0 1 2) 1 1).pstate = 2 ∧
    tileGone { late with treset := [(1, { kind := 1 })] } 1 = true ∧ tileGone (there late) 1 = false ∧
    (findKey keyed 1 5 0 = some 20 ∧ (getPool keyed 1 (getWay keyed 1 20).block).refs < 65535) ∧
    (let raw := (withMapOp (mapCmd 0 0 1 0 1 7) 6)
     let w : MapWait := { raw := raw, asked := true }
     let b : Book := ⟨0, 1, 1, 1, 0, true, 1, 0⟩
     let s : State := modMap 1 (fun m => { m with wait := some w }) { late with answers := [b] }
     s.answers.find? (fun b => b.dst = 1) = some b ∧ inHold s 1 = false ∧ (getMap s 1).wait = some w ∧ (getMap s 1).queue = [] ∧
       s.answers.find? (fun b => b.dst = 2) = none ∧ mcOp raw = 6 ∧ mcOk s 1 raw = true ∧ (getEntry s 1 (mcEntry raw)).state = 0 ∧ s.sramErr = []) := by decide +kernel

/-! ### Mailboxes, firmware, the Copybook -/

/-- Pair 7 of tile 63 in direction up with a message posted at 0, four acknowledges, or a latched message. -/
def aMsg : Msg := ⟨5, 0, 9, 0⟩
def posted (f : MDir → MDir) : State := modMail 63 7 1 f late

theorem witness_MailboxesAndDoorbells :
    (4 ≤ outstandingOf (getMail (posted (fun m => { m with acks := List.replicate 4 ⟨0, 0, 0⟩ })) 63 7 1) ∧
      outstandingOf (getMail (posted (fun m => { m with slots := [aMsg, aMsg], latched := some aMsg })) 63 7 1) < 4 ∧
      outstandingOf (getMail (posted (fun m => { m with slots := [aMsg, aMsg, aMsg], latched := some aMsg })) 63 7 1) = 4) ∧
    (receiverInReset late 63 (receiverSide 7 1) = false ∧ receiverInReset late 63 (receiverSide 5 0) = false ∧
      receiverInReset { late with treset := [(63, { kind := 1 })] } 63 (receiverSide 5 0) = true ∧
      receiverInReset { late with field := { late.field with mgmtUntil := 2000001 } } 63 (receiverSide 6 0) = true) ∧
    ((getMail (posted (fun m => { m with latched := some aMsg })) 63 7 1).latched = some aMsg ∧
      (getMail (posted (fun m => { m with slots := [aMsg] })) 63 7 1).latched = none ∧
      (getMail (posted (fun m => { m with slots := [aMsg] })) 63 7 1).slots = [aMsg] ∧ (getMail late 63 7 1).slots = [] ∧
      (getMail late 63 7 1).latched = none) ∧
    (aMsg.sender % 64 = epochOf late 63 (senderSide 7 1) ∧ 1 % 64 ≠ epochOf late 63 (senderSide 7 1)) ∧
    (getMail late 63 7 1).acks = [] ∧
    (let limit := aMsg.post + getObj late 63 Obj.mailboxAckTimeout * 1000000
     late.time.elapsed < limit ∧ limit ≤ ({ late with time := { late.time with elapsed := limit } } : State).time.elapsed) := by
  decide +kernel

/-- A segment of an image of one byte, 0: its header without the CRC, and with it. -/
def segBare : Nat := fld 64 16 1 + fld 96 32 7 + fld 160 32 1
def segHead : Nat := segBare + fld 480 32 372360699
def expecting : State := setObj dev Obj.firmwareExpectImage 7 late

/-- The CRC over zero bytes, each step's value computed before the next. -/
def crcZeros : Nat → Nat → Nat
  | 0, c => c
  | n + 1, 0 => crcZeros n (crcShift 8 0)
  | n + 1, c + 1 => crcZeros n (crcShift 8 (c + 1))

theorem crcZeros_eq (n c : Nat) :
    (List.replicate n 0).foldl (fun c b => crcShift 8 (c ^^^ (b % 256))) c = crcZeros n c := by
  induction n generalizing c with
  | zero => cases c <;> rfl
  | succ n ih =>
    rw [List.replicate_succ, List.foldl_cons, ih]
    cases c <;> simp [crcZeros]

theorem test_crc_head : (leBytes 60 segBare).foldl (fun c b => crcShift 8 (c ^^^ (b % 256))) 0xFFFFFFFF = 2372968105 := by
  decide +kernel

theorem test_crc_tail : crcZeros 4096 2372968105 ^^^ 0xFFFFFFFF = 372360699 := by decide +kernel

/-- A segment's header bytes and the bytes that the CRC covers. -/
theorem seg_parts (z : List Nat) (hz : z.length = 4096) :
    (leBytes 64 segHead ++ z).take 64 = leBytes 64 segHead ∧
    ((leBytes 64 segHead ++ z).take 60 ++ (leBytes 64 segHead ++ z).drop 64) = leBytes 60 segBare ++ z ∧
    (leBytes 64 segHead ++ z).take 4160 = leBytes 64 segHead ++ z := by
  have h64 : (leBytes 64 segHead).length = 64 := by decide +kernel
  refine ⟨List.take_left' h64, ?_, List.take_of_length_le (by rw [List.length_append, h64, hz])⟩
  rw [List.drop_left' h64, List.take_append_of_le_length (by omega)]
  have h60 : (leBytes 64 segHead).take 60 = leBytes 60 segBare := by decide +kernel
  rw [h60]

theorem segBytes_head : segBytes (leBytes 64 segHead) = leBytes 64 segHead ++ List.replicate 4096 0 := by
  have h64 : (leBytes 64 segHead).length = 64 := by decide +kernel
  unfold segBytes
  rw [h64, (seg_parts _ (List.length_replicate ..)).2.2]

theorem crc_append (l : List Nat) (n : Nat) : crc32 (l ++ List.replicate n 0) =
    crcZeros n (l.foldl (fun c b => crcShift 8 (c ^^^ (b % 256))) 0xFFFFFFFF) ^^^ 0xFFFFFFFF := by
  unfold crc32; rw [List.foldl_append, crcZeros_eq]

/-- The segment of 64 header bytes and zeros meets its header (Table 14.3). -/
theorem witness_FirmwareDelivery_segment :
    leNat ((segBytes (leBytes 64 segHead)).take 64) = segHead ∧
    shImageId segHead = getObj expecting dev Obj.firmwareExpectImage ∧ segHeaderOk segHead = true ∧
    crc32 ((segBytes (leBytes 64 segHead)).take 60 ++ (segBytes (leBytes 64 segHead)).drop 64) = shSegCrc segHead := by
  rw [segBytes_head, (seg_parts _ (List.length_replicate ..)).1, (seg_parts _ (List.length_replicate ..)).2.1, crc_append,
    test_crc_head, test_crc_tail]
  decide +kernel

theorem witness_FirmwareDelivery_held :
    shSeq segBare = 0 ∧ segHeld expecting 0 = false ∧ segHeld (setObj dev Obj.firmwareBitmap 1 expecting) 0 = true ∧
    mgmtDown expecting = false ∧ mgmtDown { expecting with field := { late.field with mgmtUntil := 2000001 } } = true ∧
    segHeaderOk (segBare + fld 80 16 1) = false := by decide +kernel

/-- Pieces: the first, the last one that fits, and the eighth in its turn. -/
theorem witness_FirmwareDelivery_pieces :
    (∀ n ∈ [0, 7], let l := leBytes 8 (fld 32 16 n + 7) ++ List.replicate 520 0
      l.length = 528 ∧ bits (leNat (l.take 8)) 48 16 = 0 ∧ bits (leNat (l.take 8)) 32 16 = n ∧ bits (leNat (l.take 8)) 0 32 = 7) ∧
    (let s : State := { late with firm := { late.firm with nextPiece := 7, pieceId := 7, pieceSrc := 0 } }
     s.firm.nextPiece = 7 ∧ s.firm.pieceId = 7 ∧ s.firm.pieceSrc = 0 ∧ late.firm.nextPiece ≠ 7) ∧
    (late.firm.scheduled = none ∧ 8 ≠ getObj late dev Obj.firmwareExpectImage) := by decide +kernel

/-- An activation due at the tick, of an image of one zero byte held whole. -/
def activating : State := setObj dev Obj.firmwareBitmap 1 { late with firm := { late.firm with
  scheduled := some (2000000, crc32 [0], 7), header := some segBare } }

theorem witness_FirmwareDelivery_activation :
    activating.firm.scheduled = some (2000000, crc32 [0], 7) ∧
    (¬ activating.time.timeBase < 2000000 ∧ mgmtDown activating = false ∧ (List.range 64).any (inHold activating) = false) ∧
    ((List.range 64).any (inHold (modPTile 63 (fun x => { x with hold := true }) activating)) = true) := by decide +kernel

theorem witness_FirmwareDelivery_staged : shImageId segBare = 7 ∧ stagedOk activating segBare (crc32 [0]) = true ∧
    stagedOk late segBare (crc32 [0]) = false := by decide +kernel

theorem witness_FirmwareDelivery_trap :
    (late.firm.flashWriting = false ∧ ({ late with firm := { late.firm with flashWriting := true } } : State).firm.flashWriting = true) ∧
    (late.firm.runningHeader = none ∧ served.firm.runningHeader ≠ none ∧ mgmtDown served = false ∧ inReset served 63 = false) := by
  decide +kernel

/-- A Copybook with one write of an RWS object waiting. -/
def booked (f : CopyS → CopyS) : State := { late with copy := f { late.copy with queue := [⟨0, 1, 0, 4, 0, true⟩] } }

theorem witness_CopybookAppendsAndCompacts :
    ((booked id).copy.queue = ⟨0, 1, 0, 4, 0, true⟩ :: [] ∧ getObj (booked id) dev Obj.copybookState = 0 ∧ mgmtDown (booked id) = false ∧
      late.copy.queue = []) ∧
    (98304 ≤ (getObj (setObj dev Obj.copybookFill 98303 (booked id)) dev Obj.copybookFill + 1) % 2 ^ 32 ∧
      ¬ 98304 ≤ (getObj (setObj dev Obj.copybookFill 98302 (booked id)) dev Obj.copybookFill + 1) % 2 ^ 32) ∧
    (15 ≤ (booked (fun c => { c with failures := 15 })).copy.failures ∧ ¬ 15 ≤ (booked (fun c => { c with failures := 14 })).copy.failures) ∧
    (getObj (setObj dev Obj.copybookState 1 late) dev Obj.copybookState = 1 ∧ 1 < (2 : BitVec 8).toNat) := by decide +kernel

/-! ### Resets and bring-up -/

/-- Tile 1 in a reset of a kind since time 0, 30 µs after power-on or later. -/
def resetting (kind : Nat) : State := { up with treset := [(1, { kind := kind })], time := { up.time with elapsed := 30000 } }

theorem witness_ResetsWithinATile :
    (getObj late dev Obj.bringupPhase = 0 ∧ ¬ 1 ≤ (getReset late 1).kind ∧ ¬ 2 ≤ (getReset (resetting 1) 1).kind ∧
      1 ≤ (getReset (resetting 1) 1).kind ∧ 2 ≤ (getReset (resetting 2) 1).kind ∧ getObj State.reset dev Obj.bringupPhase ≠ 0) ∧
    (let s := resetting 1
     let x := getReset s 1
     x.kind ≠ 0 ∧ x.start + 30000 ≤ s.time.elapsed ∧ (∀ c < 48, (getTrain s 1 c).quiet = none) ∧
       ¬ (getReset late 1).kind ≠ 0) ∧
    (let s : State := { resetting 2 with dict := (List.range 48).foldl (fun d c => (setObj 1 (Obj.channelState + c) 4 { up with dict := d }).dict) up.dict }
     (getReset s 1).kind = 2 ∧ ∀ c < 48, chState s 1 c = 2 ∨ chState s 1 c = 4) ∧
    (inReset (resetting 1) 1 = true ∧ inReset late 1 = false) ∧
    (partitionCovers late 1 = false ∧
      partitionCovers (setObj dev (Obj.partitionTiles + 6) 2
        { late with resets := { late.resets with partition := some (7, 2000000) } }) 1 = true) ∧
    (let s := modTrain 1 47 (fun x => { x with quiet := some 28000 }) (resetting 1)
     (getTrain s 1 47).quiet = some 28000 ∧ inReset s 1 = true ∧ 28000 + 2000 ≤ s.time.elapsed) := by decide +kernel

theorem witness_PartitionReset :
    (late.resets.partition = none ∧ getObj late dev Obj.bringupPhase = 0 ∧ getObj State.reset dev Obj.bringupPhase ≠ 0) ∧
    (let s : State := { late with resets := { late.resets with partition := some (1, 1970000) } }
     s.resets.partition = some (1, 1970000) ∧ 1970000 + 30000 ≤ s.time.elapsed ∧
       ¬ (1970001 + 30000 ≤ s.time.elapsed)) ∧
    (inReset late 63 = false ∧ holdsAlone (setObj dev (Obj.partitionTiles + 6) 2 late) 7 1 = true ∧
      rrPart (rangeReg (setObj 1 (Obj.rangeRegister + 15) (fld 46 8 7) late) 1 15) = 7) := by decide +kernel

/-- At a phase of bring-up, every channel disabled or trained as far as a step. -/
def phaseAt (ph : Nat) (step : Nat) : State :=
  let s := setObj dev Obj.bringupPhase ph State.reset
  { s with train := (List.range 3072).map (fun i => (i, { step := step })) }

/-- Phases 1, 2 and 7 at reset, and one channel short of a step. -/
theorem witness_PowerOnWarmResetAndPhases :
    (∀ ph ∈ [1, 2, 7], (List.range 64).any (inHold (setObj dev Obj.bringupPhase ph State.reset)) = false ∧
      tripped (setObj dev Obj.bringupPhase ph State.reset) = false) ∧
    (tripped (setObj dev Obj.tripState 2 (setObj dev Obj.bringupPhase 4 State.reset)) = true) ∧
    (∀ t < 64, (getProt late t).retiring = []) ∧ allAt State.reset 2 = false ∧ (1 < (2 : BitVec 8).toNat) := by decide +kernel

theorem fget_listed (d x : TrainS) (l : List Nat) (k : Nat) (h : k ∈ l) : fget d (l.map (fun i => (i, x))) k = x := by
  induction l with
  | nil => cases h
  | cons a l ih =>
    simp only [List.map_cons, fget]
    split
    · rfl
    · rename_i hne
      exact ih ((List.mem_cons.mp h).resolve_left (fun e => hne e.symm))

theorem witness_PowerOnWarmResetAndPhases_all : ∀ n ∈ [2, 3, 4], allAt (phaseAt (n + 2) n) n = true ∧
    getObj (phaseAt (n + 2) n) dev Obj.bringupPhase = n + 2 := by
  intro n hn
  refine ⟨?_, by revert n; decide +kernel⟩
  have ht (t c : Nat) (h : t < 64) (h' : c < 48) : (getTrain (phaseAt (n + 2) n) t c).step = n := by
    have hk : chKey t c ∈ List.range 3072 := List.mem_range.mpr (by unfold chKey; omega)
    unfold getTrain phaseAt
    rw [fget_listed {} { step := n } _ _ hk]
  simp only [allAt, List.all_eq_true, List.mem_range]
  intro t h c h'
  simp [ht t c h h']

/-- Channel 2 of tile 1 at a step of its bring-up. -/
def training (step : Nat) (s : State) : State := modTrain 1 2 (fun x => { x with step := step }) s

theorem witness_ChannelsComeUp :
    (channelPaused late 1 = false ∧ chState late 1 2 ≠ 4 ∧ channelPaused (setObj dev Obj.tripState 1 late) 1 = true) ∧
    (∀ k ∈ [1, 2, 3], (getTrain (training k late) 1 2).step = k ∧ (getTrain (training k late) 1 2).quiet = none ∧
      (getTrain (training k late) 1 2).errLane = none) ∧
    ((getTrain (modTrain 1 2 (fun x => { x with step := 1, errLane := some 169 }) late) 1 2).errLane = some 169) ∧
    ((steerTo (getObj late 1 (Obj.laneSteer + 2)) 169).isSome = true ∧ steerTo (256 ^ 8 - 1 - 2 ^ 63) 169 ≠ none ∧ steerTo 0 169 = none) ∧
    ((getObj State.reset dev Obj.bringupPhase ≠ 0 ∧ State.reset.resets.init = true) ∧ ¬ getObj late dev Obj.bringupPhase ≠ 0) ∧
    ((getRemap late 1 2 0).spares.getD (8192 - 8192) 0 ≠ 2 ∧ chState (setObj 1 (Obj.channelState + 2) 3 late) 1 2 = 3) := by
  decide +kernel

/-! ### Counters, sampling, the log, ports, test access -/

theorem witness_CountersAndReportCard :
    (let v := 1 + 2 ^ 32 + 2 ^ 47; csBad 7 v false = false ∧ csEnable v = true ∧ csChain v = false ∧ csMode v = 0) ∧ csBad 0 0 false = true ∧
    (late.count.loads = [] ∧ frozen late = false ∧ frozen (setObj dev Obj.reportCardFrozen 1 late) = true) ∧
    (late.count.pin ≠ true ∧ late.count.pin = false) ∧
    ((∀ a ∈ [0, 1, 2], getObj (setObj dev Obj.reportCardPinAction a late) dev Obj.reportCardPinAction = a) ∧
      (starting late && late.resets.warm) = false ∧
      (let s : State := { State.reset with resets := { State.reset.resets with warm := true } }; (starting s && s.resets.warm) = true)) ∧
    (∀ n ∈ [1, 2, 3, 4], let s : State := { late with count := { late.count with actions := [⟨n, 2000000, false⟩, ⟨n, 2000001, true⟩] } }
      s.count.actions.filter (fun a => decide (a.at_ ≤ s.time.elapsed)) = [⟨n, 2000000, false⟩]) ∧
    late.count.actions.filter (fun a => decide (a.at_ ≤ late.time.elapsed)) = [] ∧ late.sramErr = [] ∧
    late.count.actions.any (shortPulse late) = false ∧
    (let s : State := { late with count := { late.count with actions := [⟨1, late.time.elapsed + 100, true⟩] } }
     s.count.actions.any (shortPulse s) = true) := by
  decide +kernel

theorem witness_BandwidthSamplingAndLog :
    (due late 1 7 (getObj late 1 Obj.bandwidthWindow) = true ∧ due (take 1 7 late) 1 7 (getObj late 1 Obj.bandwidthWindow) = false ∧
      fget false late.count.cutWindow 1 = false) ∧
    (bits (fld 48 16 1 + fld 10 2 1 + 2 ^ 8) 48 16 ≠ 0 ∧ bits (fld 48 16 1 + fld 10 2 1 + 2 ^ 8) 10 2 ≠ 0 ∧
      smEnable (fld 48 16 1 + fld 10 2 1 + 2 ^ 8) = true ∧ smEnable (getObj late 1 Obj.preciseSampleControl) = false ∧
      bits (fld 48 16 1) 10 2 = 0) ∧
    ((63 < 64 ∧ present late 63 = false ∧ present (there late) 63 = true) ∧ (64 < 65 ∧ ¬ (64 < 64)) ∧
      (fget [] late.count.intake 64).length < 64 ∧
      64 ≤ (fget [] ({ late with count := { late.count with intake := [(64, List.replicate 64 {})] } } : State).count.intake 64).length) := by
  decide +kernel

theorem witness_PortGenerationsAndClocks :
    (portNamed live 0 0 = true ∧ portNamed late 0 0 = false ∧ 3 < 4 ∧ 1 ≤ 1 ∧ 3 ≤ 3) ∧
    (let s : State := setObj 1 (Obj.portState + 3) 1 { late with portGen := [(7, 2)] }
     portGeneration s 1 3 ≠ 3 ∧ getObj s 1 (Obj.portState + 3) = 1 ∧ portGeneration late 1 3 = 3) ∧
    getObj (setObj 1 (Obj.portState + 3) 2 late) 1 (Obj.portState + 3) = 2 := by decide +kernel

theorem witness_TestAccess :
    (isTest 3 = true ∧ isTest (fget 0 late.test.wir 1) = false ∧ isTest 4 = false ∧
      isTest (fget 0 ({ late with test := { late.test with wir := [(1, 6)] } } : State).test.wir 1) = true) ∧
    (getObj late dev Obj.bringupPhase = 0 ∧ (getReset late 1).kind < 1) ∧
    ((∀ t < 64, underTest (setObj dev Obj.testAccessState (2 ^ 64 - 1) late) t = true) ∧
      ¬ (∀ t < 64, underTest (setObj dev Obj.testAccessState (2 ^ 63 - 1) late) t = true) ∧
      getObj State.reset dev Obj.bringupPhase ≠ 0) ∧
    (bit (2 ^ 48 - 1) 47 = true ∧ chState late 1 47 ≠ 4) := by decide +kernel

/-- Worked example of R316 (Table 12.2): at a cap of 300 W the compute fraction is 83.46 / 132.38, rounded down;
at 140 W it is the least. -/
theorem test_cap_fraction : fitFraction 300000 (348920 - 132380) 132380 = 630 ∧
    fitFraction 140000 (348920 - 132380) 132380 = 50 := by decide

end Sys2Proof.Tests
end

/-! ## Proofs: the queue and the reference time -/

namespace Sys2Proof.Machine

open Sys2Proof

/-! ### The queue -/

/-- Settles O1: `step` branches on the queue alone, and `exec` stands in the branch of a waiting command. -/
theorem stepTakesTheFrontCommand : Obligations.StepTakesTheFrontCommand := by
  intro c s rest hfront
  unfold step
  rw [hfront]

/-! ### What moves the time base -/

/-- Every effect of `run` ends in `sameTime`, so it hands on the time base it found (R24). -/
theorem exec_timeBase_of_not_movesTime {c : Instr} {s s' : State} (hc : ¬ movesTime c) (h : exec c s = .next s') :
    s'.time.timeBase = s.time.timeBase := by
  obtain ⟨f, hf⟩ := exec_run s c hc
  rw [hf, run_next] at h
  cases h
  exact sameTime_timeBase s _

theorem powerOn_timeBase (s : State) : (powerOn s).time.timeBase = 0 := rfl

/-- Settles O4: a command outside `movesTime` is an effect of `run`, and a power-on starts from the reset state. -/
theorem onlyTicksAndPowerOnMoveTheTime : Obligations.OnlyTicksAndPowerOnMoveTheTime :=
  ⟨fun _ _ _ h hc => exec_timeBase_of_not_movesTime hc h,
   fun s => ⟨_, exec_powerOnReset s, powerOn_timeBase (fresh s)⟩⟩

/-! ### The tick -/

/-- Below its last value the time base advances by one tick of 10 ns (R22). -/
theorem timeTick_timeBase_advances {s : State} (hp : s.time.setPending = none) (hb : s.time.timeBase < lastTick) :
    (timeTick s).time.timeBase = s.time.timeBase + 10 := by
  rw [timeTick_timeBase, hp]
  exact if_neg (Nat.not_le.mpr hb)

/-- A held value comes into force at the tick (R26). -/
theorem timeTick_timeBase_loads {s : State} {n : Nat} (hp : s.time.setPending = some n) :
    (timeTick s).time.timeBase = 10 * n := by
  rw [timeTick_timeBase, hp]

theorem timeTick_rawWord (s : State) (t c b row w : Nat) : rawWord (timeTick s) t c b row w = rawWord s t c b row w := by
  obtain ⟨hdram, hlayer⟩ := timeTick_stack s
  exact rawWord_congr hdram hlayer t c b row w

/-- The walks of a tick change an SRAM word only where its bits no longer stand as they were stored (R268). -/
theorem timeTick_sameMemory {s : State} (hs : s.sramErr = []) : SameMemory s (timeTick s) := by
  obtain ⟨hdram, hlayer⟩ := timeTick_stack s
  obtain ⟨-, hslate, -, hinkwell⟩ := (timeTick_spec s).quiet hs
  exact sameMemory_of hdram hlayer hslate hinkwell

/-- Whatever the time base is after a tick, no load is held any more and the memory is as it was. -/
theorem answers_timeBaseTick {s : State} {now : Nat} (hnow : (timeTick (fresh s)).time.timeBase = now) :
    Answers .timeBaseTick s (fun s' => s'.time.timeBase = now ∧ s'.time.setPending = none ∧
      (∀ t c b row w, rawWord s' t c b row w = rawWord s t c b row w) ∧ (s.sramErr = [] → SameMemory s s')) := by
  refine ⟨_, (exec_timeBaseTick s).trans (runTime_next timeTick s), ?_⟩
  have hpend := timeTick_setPending (fresh s)
  have hraw := timeTick_rawWord (fresh s)
  have hmem := timeTick_sameMemory (s := fresh s)
  generalize timeTick (fresh s) = r at hnow hpend hraw hmem
  exact ⟨hnow, hpend, hraw, hmem⟩

/-! ### TimeBaseSet (R26), an equation per case -/

theorem writeTimeBase_unaligned {v : Nat} (s : State) (hv : v % 10 ≠ 0) : writeTimeBase v s = answer stBadFormat s :=
  if_pos hv

theorem writeTimeBase_jump {v : Nat} {s : State} (hv : v % 10 = 0) (hbusy : anyLive s = true ∨ ttRuns s = true)
    (hfar : v < s.time.timeBase ∨ s.time.timeBase + 1000000 < v) : writeTimeBase v s = answer stRetry s := by
  unfold writeTimeBase
  rw [if_neg (not_not.mpr hv), if_pos ⟨hbusy, hfar⟩]

theorem writeTimeBase_held {v : Nat} {s : State} (hv : v % 10 = 0)
    (hok : (anyLive s = false ∧ ttRuns s = false) ∨ (s.time.timeBase ≤ v ∧ v ≤ s.time.timeBase + 1000000)) :
    writeTimeBase v s = answer stOk { s with time := { s.time with setPending := some (v / 10) } } := by
  have hnot : ¬ ((anyLive s = true ∨ ttRuns s = true) ∧
      (v < s.time.timeBase ∨ s.time.timeBase + 1000000 < v)) := by
    rintro ⟨hbusy, hfar⟩
    rcases hok with ⟨hlive, hruns⟩ | hnear
    · simp [hlive, hruns] at hbusy
    · omega
  unfold writeTimeBase
  rw [if_neg (not_not.mpr hv), if_neg hnot]

/-- Settles O7: a tick by what it does to the time base, without and with a held load; TimeBaseSet by its three cases. -/
theorem referenceTime : Obligations.ReferenceTime := by
  refine ⟨fun s => ⟨fun hp hb => ?_, fun n hp => ?_⟩, fun v s => ⟨fun hv => ?_, fun hv hbusy hfar => ?_, fun hv hok => ?_⟩⟩
  · exact answers_timeBaseTick (timeTick_timeBase_advances hp (show s.time.timeBase < lastTick by unfold lastTick; omega))
  · exact answers_timeBaseTick (timeTick_timeBase_loads hp)
  · exact refuses_run (exec_timeBaseSet v s) (writeTimeBase_unaligned (fresh s) hv)
  · exact refuses_run (exec_timeBaseSet v s) (writeTimeBase_jump (s := fresh s) hv hbusy hfar)
  · rw [exec_timeBaseSet, run_next, writeTimeBase_held (s := fresh s) hv hok]
    rfl

end Sys2Proof.Machine

/-! ## Proofs: address translation -/

namespace Sys2Proof.Machine

open Sys2Proof

/-! ### Row slots (R39): a bank and row, and the number that stands for both -/

theorem slotSum_eq (q : Nat) : slotSum q = q % 64 + q / 64 % 64 + q / 4096 % 32 := by
  simp [slotSum, bits]

theorem slotSum_le (q : Nat) : slotSum q ≤ 157 := by
  rw [slotSum_eq]; omega

/-- A slot holds its row above its permuted bank. -/
theorem rowSlot_parts {b : Nat} (row : Nat) (hb : b < 16) :
    rowSlot b row % 16 = b ^^^ bits row 9 4 ∧ rowSlot b row / 16 = row := by
  have hx : b ^^^ bits row 9 4 < 2 ^ 4 := Nat.xor_lt_two_pow hb (Nat.mod_lt _ (by decide))
  unfold rowSlot
  omega

theorem rowSlot_lt {b row : Nat} (hb : b < 16) (hr : row < 8192) : rowSlot b row < 131072 := by
  have hrow := (rowSlot_parts row hb).2
  omega

/-- The row of a row slot. -/
theorem row_rowSlot {b row : Nat} (hb : b < 16) (hr : row < 8192) : bits (rowSlot b row) 4 13 = row := by
  have hrow := (rowSlot_parts row hb).2
  unfold bits
  omega

/-- The bank of a row slot: the permutation by the row's upper bits is its own inverse. -/
theorem bank_rowSlot {b : Nat} (row : Nat) (hb : b < 16) :
    bits (rowSlot b row) 0 4 ^^^ bits (rowSlot b row) 13 4 = b := by
  obtain ⟨hbank, hrow⟩ := rowSlot_parts row hb
  have hlow : bits (rowSlot b row) 0 4 = b ^^^ bits row 9 4 := by
    rw [← hbank]
    unfold bits
    omega
  have hhigh : bits (rowSlot b row) 13 4 = bits row 9 4 := by
    unfold bits
    omega
  rw [hlow, hhigh, xor_cancel_right]

/-- The bank and row of a slot give the slot back. -/
theorem rowSlot_of_slot {q : Nat} (hq : q < 131072) : rowSlot (bits q 0 4 ^^^ bits q 13 4) (bits q 4 13) = q := by
  have hhigh : bits (bits q 4 13) 9 4 = bits q 13 4 := by
    unfold bits
    omega
  unfold rowSlot
  rw [hhigh, xor_cancel_right]
  unfold bits
  omega

/-! ### The rotation of the channels by a slot's sum -/

theorem channel_of_column {c sum : Nat} (hc : c < 48) (hs : sum ≤ 157) : ((c + 48 * 4 - sum) % 48 + sum) % 48 = c := by
  omega

theorem column_of_channel {i sum : Nat} (hi : i < 48) (hs : sum ≤ 157) : ((i + sum) % 48 + 48 * 4 - sum) % 48 = i := by
  omega

/-- R40 writes the column as a difference that may be negative. -/
theorem column_eq_int {c sum : Nat} (hs : sum ≤ 157) :
    (c + 48 * 4 - sum) % 48 = (((c : Int) - (sum : Int)) % 48).toNat := by
  omega

/-! ### The translation and its inverse -/

/-- The granule of a populated offset needs no more bits than R39 takes. -/
theorem granule_of_populated {offset : Nat} (h : offset < populated) :
    bits offset 11 23 = offset / 2048 ∧ offset / 2048 / 48 < 131072 := by
  unfold populated at h
  unfold bits
  omega

/-- R39 on a populated offset, in terms of its granule. -/
theorem translate_populated {offset : Nat} (h : offset < populated) :
    translate offset =
      { chan := (offset / 2048 % 48 + slotSum (offset / 2048 / 48)) % 48
        bank := bits (offset / 2048 / 48) 0 4 ^^^ bits (offset / 2048 / 48) 13 4
        row := bits (offset / 2048 / 48) 4 13
        byte := offset % 2048 } := by
  unfold translate
  rw [(granule_of_populated h).1]

theorem translate_bounds (offset : Nat) :
    (translate offset).chan < 48 ∧ (translate offset).bank < 16 ∧ (translate offset).row < 8192 ∧
      (translate offset).byte < 2048 :=
  ⟨Nat.mod_lt _ (by decide), Nat.xor_lt_two_pow (n := 4) (Nat.mod_lt _ (by decide)) (Nat.mod_lt _ (by decide)),
    Nat.mod_lt _ (by decide), Nat.mod_lt _ (by decide)⟩

/-- R40 in terms of the row slot. -/
theorem untranslate_eq (c b row byte : Nat) : untranslate c b row byte =
    (48 * rowSlot b row + (c + 48 * 4 - slotSum (rowSlot b row)) % 48) * 2048 + byte := rfl

/-- R40 undoes R39. -/
theorem untranslate_translate {offset : Nat} (h : offset < populated) :
    untranslate (translate offset).chan (translate offset).bank (translate offset).row (translate offset).byte =
      offset := by
  have hq := (granule_of_populated h).2
  rw [translate_populated h, untranslate_eq, rowSlot_of_slot hq]
  dsimp only
  rw [column_of_channel (Nat.mod_lt _ (by decide)) (slotSum_le _)]
  omega

theorem untranslate_lt {b row byte : Nat} (c : Nat) (hb : b < 16) (hr : row < 8192) (hy : byte < 2048) :
    untranslate c b row byte < populated := by
  have hq := rowSlot_lt hb hr
  rw [untranslate_eq]
  unfold populated
  omega

/-- R39 undoes R40. -/
theorem translate_untranslate {c b row byte : Nat} (hc : c < 48) (hb : b < 16) (hr : row < 8192) (hy : byte < 2048) :
    translate (untranslate c b row byte) = { chan := c, bank := b, row := row, byte := byte } := by
  have hcol : (c + 48 * 4 - slotSum (rowSlot b row)) % 48 < 48 := Nat.mod_lt _ (by decide)
  have hslot : untranslate c b row byte / 2048 / 48 = rowSlot b row := by rw [untranslate_eq]; omega
  have hmod : untranslate c b row byte / 2048 % 48 = (c + 48 * 4 - slotSum (rowSlot b row)) % 48 := by
    rw [untranslate_eq]; omega
  have hbyte : untranslate c b row byte % 2048 = byte := by rw [untranslate_eq]; omega
  rw [translate_populated (untranslate_lt c hb hr hy), hslot, hmod, hbyte, channel_of_column hc (slotSum_le _),
    bank_rowSlot row hb, row_rowSlot hb hr]

/-! ### The result register (Table 2.11) -/

/-- The fields of a result are the place of the address. -/
theorem translateResult_fields {a : Nat} (h : addrOffset a < populated) :
    bits (translateResult a) 44 6 = (translate (addrOffset a)).chan ∧
      bits (translateResult a) 40 4 = (translate (addrOffset a)).bank ∧
      bits (translateResult a) 27 13 = (translate (addrOffset a)).row ∧
      bits (translateResult a) 16 11 = (translate (addrOffset a)).byte := by
  obtain ⟨hc, hb, hr, hy⟩ := translate_bounds (addrOffset a)
  unfold translateResult
  rw [if_neg (by omega)]
  generalize translate (addrOffset a) = p at hc hb hr hy
  unfold bits fld
  dsimp only
  omega

theorem translateResult_lt (a : Nat) : translateResult a < 2 ^ 64 := by
  unfold translateResult fld
  dsimp only
  split <;> omega

theorem untranslateResult_lt (v : Nat) : untranslateResult v < 2 ^ 64 := by
  unfold untranslateResult
  split
  · decide
  · exact (untranslate_lt _ (Nat.mod_lt _ (by decide)) (Nat.mod_lt _ (by decide)) (Nat.mod_lt _ (by decide))).trans
      (by decide)

theorem untranslateResult_translateResult {a : Nat} (h : addrOffset a < populated) :
    untranslateResult (translateResult a) = addrOffset a := by
  obtain ⟨hc, hb, hr, hy⟩ := translateResult_fields h
  have hchan := (translate_bounds (addrOffset a)).1
  unfold untranslateResult
  rw [hc, hb, hr, hy, if_neg (by omega), untranslate_translate h]

/-- A converter's command: its operand is stored, and its result put into TranslateResult. -/
theorem answers_converter {cmd : Instr} {t k v x : Nat} {s : State}
    (h : exec cmd s = run (fun s => setObj t Obj.translateResult x (storeObj t k v s)) s) (hk : k < 2 ^ 24)
    (hx : x < 2 ^ 64) :
    Answers cmd s (fun s' => s'.out = { status := stOk } ∧ getObj s' t Obj.translateResult = x ∧
      OtherObjects s s' [(t, k), (t, Obj.translateResult)] ∧ s' = { s with dict := s'.dict, out := s'.out }) := by
  refine answers_run h ⟨rfl, getObj_setObj_fits _ hx, fun u j hj hn => ?_, rfl⟩
  simp only [List.mem_cons, List.not_mem_nil, or_false, not_or] at hn
  calc getObj (setObj t Obj.translateResult x (storeObj t k v (fresh s))) u j
      _ = getObj (storeObj t k v (fresh s)) u j :=
        otherObjects_set rfl (by decide) u j hj (by simpa using hn.2)
      _ = getObj s u j := otherObjects_set (s := s) rfl hk u j hj (by simpa using hn.1)

/-- Settles O18: a row slot and the rotation by its sum are each inverted, so R40 undoes R39; the fields of
TranslateResult carry the place from the one to the other. -/
theorem addressTranslationRoundTrip : Obligations.AddressTranslationRoundTrip := by
  refine ⟨fun t v s => ⟨?_, ?_⟩, fun offset h => ?_, fun c b row byte hc hb hr hy => ⟨?_, ?_⟩,
    fun a h => untranslateResult_translateResult h, fun c b row byte => translate_untranslate⟩
  · exact answers_converter (exec_translateAddress t v s) (by decide) (translateResult_lt _)
  · exact answers_converter (exec_untranslateRequest t v s) (by decide) (untranslateResult_lt _)
  · rw [translate_populated h, slotSum_eq]
    simp [bits]
  · rw [← show bits row 9 4 = row / 512 % 16 from rfl, ← slotSum_eq, ← column_eq_int (slotSum_le _)]
    rfl
  · exact untranslate_lt c hb hr hy

end Sys2Proof.Machine

/-! ## Proofs: done reports and read beats -/

namespace Sys2Proof.Machine

open Sys2Proof

/-! ### Objects and memory left alone, chained -/

theorem OtherObjects.trans {a b d : State} {K : List (Nat × Nat)} (h : OtherObjects a b K) (h' : OtherObjects b d K) :
    OtherObjects a d K := fun u k hk hn => (h' u k hk hn).trans (h u k hk hn)

theorem OtherObjects.mono {a b : State} {K K' : List (Nat × Nat)} (h : OtherObjects a b K) (hK : K ⊆ K') :
    OtherObjects a b K' := fun u k hk hn => h u k hk (fun hin => hn (hK hin))

/-- A log entry of a tile writes at most the tile's count of dropped entries (R403). -/
theorem otherObjects_addLog {u : Nat} (hu : u ≠ dev) (source cause status d0 d1 : Nat) (s : State) :
    OtherObjects s (addLog u source cause status d0 d1 s) [(u, Obj.troubleLogDropped)] := by
  unfold addLog
  dsimp only
  split
  · rw [logDropped, if_neg hu]
    exact otherObjects_set rfl (by decide)
  · exact otherObjects_none rfl _

theorem getLayer_congr {s s' : State} (h : s'.layer = s.layer) (t c : Nat) : getLayer s' t c = getLayer s t c := by
  unfold getLayer
  rw [h]

theorem sameMemory_modLayer (t c : Nat) {f : LayerS → LayerS} (hf : ∀ l, (f l).base = l.base) (s : State) :
    SameMemory s (modLayer t c f s) := (calm_modLayer (K := fun _ => false) t c f hf s).words.sameMemory

theorem countEv_fields (t e q w : Nat) (s : State) : countEv t e q w s = { s with count := (countEv t e q w s).count } := by
  unfold countEv
  split <;> rfl

/-! ### What a window that goes on leaves (R292) -/

section
variable {s s' : State} {t c : Nat} (h : Windowed s s' t c)
include h

theorem Windowed.up : (getLayer s' t c).up = (getLayer s t c).up := by
  obtain ⟨d, p, e⟩ := h.mine
  rw [e]

theorem Windowed.modeRead : (getLayer s' t c).modeRead = (getLayer s t c).modeRead := by
  obtain ⟨d, p, e⟩ := h.mine
  rw [e]

theorem Windowed.bank : s'.bank = s.bank := by rw [h.fields]
theorem Windowed.queue : s'.queue = s.queue := by rw [h.fields]
theorem Windowed.sched : s'.sched = s.sched := by rw [h.fields]
theorem Windowed.bounce : s'.bounce = s.bounce := by rw [h.fields]

/-- After an effect on a channel that changes no object and no word, a window writes its own objects only. -/
theorem Windowed.after_quiet {s0 : State} (hd : s.dict = s0.dict) (hm : SameMemory s0 s) :
    SameMemory s0 (sameTime s0 s') ∧ OtherObjects s0 (sameTime s0 s') (windowKeys t c) :=
  ⟨hm.trans h.words.sameMemory, (otherObjects_none hd _).trans h.objs⟩

end

/-! ### The report at the front (R43) -/

/-- The transfer at the front of a channel's upward path is taken. -/
def upTaken (t c : Nat) (rest : List Up) (s : State) : State := modLayer t c (fun l => { l with up := rest }) s

@[simp] theorem up_upTaken (t c : Nat) (rest : List Up) (s : State) : (getLayer (upTaken t c rest s) t c).up = rest := by
  rw [upTaken, getLayer_modLayer]

theorem sameMemory_upTaken (t c : Nat) (rest : List Up) (s : State) : SameMemory s (upTaken t c rest (fresh s)) :=
  sameMemory_modLayer t c (f := fun l => { l with up := rest }) (fun _ => rfl) (fresh s)

theorem doneReport_front {t c n b ev : Nat} {rest : List Up} {s : State}
    (hup : (getLayer s t c).up = .done b ev :: rest) :
    doneReport t c n s = doneEffect t c b ev n (upTaken t c rest s) := by
  unfold doneReport
  rw [hup]
  rfl

/-- Without a report at the front there is none to take. -/
theorem doneReport_none {t c n : Nat} {s : State} (hup : ∀ b ev r, (getLayer s t c).up ≠ .done b ev :: r) :
    doneReport t c n s = s := by
  unfold doneReport
  split
  · next b ev r h => exact absurd h (hup b ev r)
  · rfl

/-- The command takes the report, and a window goes on with what it did. -/
theorem answers_doneReport {t : TileN} {c : ChanN} {n : BitVec 8} {b ev : Nat} {rest : List Up} {s r : State}
    {P : State → Prop} (hup : (getLayer s t.val c.val).up = .done b ev :: rest)
    (hr : doneEffect t.val c.val b ev n.toNat (upTaken t.val c.val rest (fresh s)) = r)
    (hP : ∀ s', Windowed r s' t.val c.val → P (sameTime s s')) : Answers (.doneReport t c n) s P := by
  refine answers_run (exec_doneReport t c n s) (hP _ ?_)
  rw [doneReport_front (s := fresh s) hup, hr]
  exact windowed_steps c.isLt r

/-! ### Reports that move banks (Table 2.3) -/

theorem speedSample_bank (t c n : Nat) (s : State) : (speedSample t c n s).bank = s.bank := rfl

theorem doneEffect_act {t c b n row : Nat} {s : State} (h : getBank s t c b = .opening row) :
    doneEffect t c b 1 n s = speedSample t c n (setBank t c b (.opened row) s) := by
  simp only [doneEffect, h]

theorem doneEffect_pre {t c b n : Nat} {s : State} (h : getBank s t c b = .busy 2) :
    doneEffect t c b 2 n s = setBank t c b .closed s := if_pos h

theorem doneEffect_ref (t c b n : Nat) (s : State) :
    doneEffect t c b 4 n s = speedSample t c n (closeBusy t c 4 s) := rfl

theorem doneEffect_prea (t c b n : Nat) (s : State) : doneEffect t c b 0xA n s = closeBusy t c 0xA s := rfl

/-- The banks that an operation on the whole channel held are closed, and no other changes. -/
theorem closeBusy_spec (t c ev : Nat) (s : State) :
    closeBusy t c ev s = { s with bank := (closeBusy t c ev s).bank } ∧
      ∀ b < 16, getBank (closeBusy t c ev s) t c b =
        if getBank s t c b = .busy ev then .closed else getBank s t c b := by
  suffices h : ∀ n, ∃ m, (List.range n).foldl
        (fun s b => if getBank s t c b = .busy ev then setBank t c b .closed s else s) s = { s with bank := m } ∧
      ∀ b, getBank { s with bank := m } t c b =
        if b < n ∧ getBank s t c b = .busy ev then .closed else getBank s t c b by
    obtain ⟨m, hm, hb⟩ := h 16
    unfold closeBusy
    rw [hm]
    exact ⟨rfl, fun b hlt => by simpa [hlt] using hb b⟩
  intro n
  induction n with
  | zero => exact ⟨s.bank, rfl, fun b => by simp⟩
  | succ n ih =>
    obtain ⟨m, hm, hb⟩ := ih
    have hn : getBank { s with bank := m } t c n = getBank s t c n := by simpa using hb n
    rw [List.range_succ, List.foldl_append, hm, List.foldl_cons, List.foldl_nil, hn]
    by_cases hbusy : getBank s t c n = .busy ev
    · rw [if_pos hbusy]
      refine ⟨_, rfl, fun b => ?_⟩
      by_cases e : b = n
      · subst e
        exact (getBank_setBank t c b .closed { s with bank := m }).trans (by simp [hbusy])
      · refine (getBank_setBank_other .closed { s with bank := m } e).trans ((hb b).trans ?_)
        simp only [show b < n + 1 ↔ b < n by omega]
    · rw [if_neg hbusy]
      refine ⟨m, rfl, fun b => (hb b).trans ?_⟩
      by_cases e : b = n
      · subst e; simp [hbusy]
      · simp only [show b < n + 1 ↔ b < n by omega]

/-- What is left as it was by a report that moves banks alone. -/
def OnlyBanksMove (s s' : State) (t c : Nat) (rest : List Up) : Prop :=
  s' = { s with
    bank := s'.bank, layer := s'.layer, speed := s'.speed
    recess := s'.recess, train := s'.train, dict := s'.dict, out := {} } ∧
  OtherObjects s s' (windowKeys t c) ∧ SameMemory s s' ∧ (getLayer s' t c).up = rest

/-- A report that moves banks, and perhaps samples the speed, leaves all else to the window. -/
theorem onlyBanksMove {s r s' : State} {t c : Nat} {rest : List Up}
    (hr : r = { upTaken t c rest (fresh s) with bank := r.bank, speed := r.speed }) (hw : Windowed r s' t c) :
    OnlyBanksMove s (sameTime s s') t c rest := by
  have hmem : SameMemory s r := (sameMemory_upTaken t c rest s).trans (by rw [hr]; exact sameMemory_of rfl rfl rfl rfl)
  obtain ⟨hsame, hobjs⟩ := hw.after_quiet (s0 := s) (by rw [hr]; rfl) hmem
  refine ⟨?_, hobjs, hsame, hw.up.trans ?_⟩
  · have hf := hw.fields
    rw [hr] at hf
    rw [hf]
    rfl
  · rw [hr]
    exact up_upTaken t c rest (fresh s)

/-- A report that sets one bank. -/
theorem reported_setBank {s r s' : State} {t c b : Nat} {v : BankS} {rest : List Up} (hw : Windowed r s' t c)
    (hb : r.bank = (setBank t c b v s).bank)
    (hr : r = { upTaken t c rest (fresh s) with bank := r.bank, speed := r.speed }) :
    getBank (sameTime s s') t c b = v ∧ OtherBanks s (sameTime s s') t c b ∧
      OnlyBanksMove s (sameTime s s') t c rest := by
  have hbank : (sameTime s s').bank = (setBank t c b v s).bank := hw.bank.trans hb
  refine ⟨?_, otherBanks_setBank hbank, onlyBanksMove hr hw⟩
  unfold getBank
  rw [hbank]
  exact getBank_setBank t c b v s

theorem answers_doneReport_act {t : TileN} {c : ChanN} {n : BitVec 8} {b row : Nat} {rest : List Up} {s : State}
    (hup : (getLayer s t.val c.val).up = .done b 1 :: rest) (hb : getBank s t.val c.val b = .opening row) :
    Answers (.doneReport t c n) s (fun s' => getBank s' t.val c.val b = .opened row ∧
      OtherBanks s s' t.val c.val b ∧ OnlyBanksMove s s' t.val c.val rest) :=
  answers_doneReport hup (doneEffect_act hb) fun _ hw => reported_setBank hw rfl rfl

theorem answers_doneReport_pre {t : TileN} {c : ChanN} {n : BitVec 8} {b : Nat} {rest : List Up} {s : State}
    (hup : (getLayer s t.val c.val).up = .done b 2 :: rest) (hb : getBank s t.val c.val b = .busy 2) :
    Answers (.doneReport t c n) s (fun s' => getBank s' t.val c.val b = .closed ∧
      OtherBanks s s' t.val c.val b ∧ OnlyBanksMove s s' t.val c.val rest) :=
  answers_doneReport hup (doneEffect_pre hb) fun _ hw => reported_setBank hw rfl rfl

/-- A report that closes the banks held by an operation on the whole channel. -/
theorem reported_closeBusy {s r s' : State} {t c ev : Nat} {rest : List Up} (hw : Windowed r s' t c)
    (hb : r.bank = (closeBusy t c ev (upTaken t c rest (fresh s))).bank)
    (hr : r = { upTaken t c rest (fresh s) with bank := r.bank, speed := r.speed }) :
    (∀ b < 16, getBank (sameTime s s') t c b =
      if getBank s t c b = .busy ev then .closed else getBank s t c b) ∧
    OnlyBanksMove s (sameTime s s') t c rest := by
  have hbank : (sameTime s s').bank = (closeBusy t c ev (upTaken t c rest (fresh s))).bank := hw.bank.trans hb
  refine ⟨fun b hlt => ?_, onlyBanksMove hr hw⟩
  have hclosed := (closeBusy_spec t c ev (upTaken t c rest (fresh s))).2 b hlt
  unfold getBank at hclosed ⊢
  rw [hbank]
  exact hclosed

/-- The report of a REF and that of a PREA close the banks held, the first with a sample of the speed. -/
theorem answers_doneReport_all {t : TileN} {c : ChanN} {n : BitVec 8} {b ev : Nat} {rest : List Up} {s : State}
    (hev : ev = 4 ∨ ev = 0xA) (hup : (getLayer s t.val c.val).up = .done b ev :: rest) :
    Answers (.doneReport t c n) s (fun s' =>
      (∀ b' < 16, getBank s' t.val c.val b' =
        if getBank s t.val c.val b' = .busy ev then .closed else getBank s t.val c.val b') ∧
      OnlyBanksMove s s' t.val c.val rest) := by
  have hfields := (closeBusy_spec t.val c.val ev (upTaken t.val c.val rest (fresh s))).1
  rcases hev with rfl | rfl
  · refine answers_doneReport hup (doneEffect_ref _ _ _ _ _) fun s' hw =>
      reported_closeBusy hw (speedSample_bank _ _ _ _) ?_
    generalize closeBusy _ _ _ _ = x at hfields
    rw [hfields]
    rfl
  · refine answers_doneReport hup (doneEffect_prea _ _ _ _ _) fun s' hw => reported_closeBusy hw rfl ?_
    generalize closeBusy _ _ _ _ = x at hfields
    rw [hfields]

/-! ### Reports of a fault (R45, R48) -/

/-- Accesses that go back to their queues change no object and no word. -/
theorem calm_returnAccs {K : Nat → Bool} (t c : Nat) (ids : List Nat) (s : State) : Calm K s (returnAccs t c ids s) := by
  unfold returnAccs
  dsimp only
  refine calm_ite _ ((calm_modBounce _ _ _ _).after ?_) ?_ <;>
  · refine Calm.trans (calm_modQueue _ _ _ _) (calm_modLayer t c _ ?_ _)
    exact fun _ => rfl

/-- Sending a word again writes no object, but at its third failure those of a link fault. -/
theorem calm_resend {t c : Nat} (hc : c < 48) (s : State) : Calm linkKeys s (resend t c s) := by
  unfold resend
  split
  · exact .refl _ s
  · next d rest _ =>
    dsimp only
    split
    · exact calm_linkFault hc s
    · have h1 : Calm linkKeys s (modLayer t c (fun l => { l with failed := rest }) s) :=
        calm_modLayer t c (fun l => { l with failed := rest }) (fun _ => rfl) s
      split
      · exact h1.trans (calm_modLayer t c (fun l => { l with down := { d with fails := d.fails + 1 } :: l.down })
          (fun _ => rfl) _)
      · exact h1.trans (calm_foldl _ (fun s x => calm_returnAccs t x [d.acc] s) _ _)

/-- The counts of faults on the command path: objects of 32 bits, apart from those of a window, of a link fault
and of reporting. -/
theorem faultCounts_own {k c : Nat} (hk : k = Obj.caParityErrors ∨ k = Obj.protocolViolations) (hc : c < 48) (t : Nat) :
    k + c < 2 ^ 24 ∧ objBits (k + c) = 32 ∧ linkKeys (k + c) = false ∧ sideKey (k + c) = false ∧
      (t, k + c) ∉ windowKeys t c := by
  have hkeys : ∀ k ∈ [Obj.caParityErrors, Obj.protocolViolations], ∀ c < 48,
      k + c < 2 ^ 24 ∧ objBits (k + c) = 32 ∧ linkKeys (k + c) = false ∧ sideKey (k + c) = false := by decide
  obtain ⟨hlt, hbits, hlink, hside⟩ := hkeys k (by simpa using hk) c hc
  refine ⟨hlt, hbits, hlink, hside, ?_⟩
  rcases hk with rfl | rfl <;>
  simp [Obj.caParityErrors, Obj.protocolViolations, Obj.recessWindows, Obj.recessLongest, Obj.recessExtended]

/-- A count of faults goes up by one, modulo its 32 bits. -/
theorem getObj_bump_fault {k c : Nat} (hk : k = Obj.caParityErrors ∨ k = Obj.protocolViolations) (hc : c < 48) (t : Nat)
    (s : State) : getObj (bump t (k + c) 1 s) t (k + c) = (getObj s t (k + c) + 1) % 2 ^ 32 := by
  obtain ⟨-, hbits, -⟩ := faultCounts_own hk hc t
  rw [bump, getObj_setObj_same, hbits]

/-- A word of odd parity is counted and sent again (R45). -/
theorem doneEffect_parity {c : Nat} (hc : c < 48) (t b n : Nat) (s : State) :
    getObj (doneEffect t c b 8 n s) t (Obj.caParityErrors + c) =
      (getObj s t (Obj.caParityErrors + c) + 1) % 2 ^ 32 ∧ SameMemory s (doneEffect t c b 8 n s) := by
  obtain ⟨hk, -, hlink, hside, -⟩ := faultCounts_own (.inl rfl) hc t
  have hcalm : Calm linkKeys _ (doneEffect t c b 8 n s) := calm_resend hc (bump t (Obj.caParityErrors + c) 1 s)
  exact ⟨(hcalm.objs _ _ hk hlink hside).trans (getObj_bump_fault (.inl rfl) hc t s),
    (books_bump _ _ _ s).sameMemory.trans hcalm.words.sameMemory⟩

/-- A violation is counted and logged (R48). -/
theorem doneEffect_violation {t c : Nat} (ht : t ≠ dev) (hc : c < 48) (b n : Nat) (s : State) :
    getObj (doneEffect t c b 9 n s) t (Obj.protocolViolations + c) =
      (getObj s t (Obj.protocolViolations + c) + 1) % 2 ^ 32 ∧ Books s (doneEffect t c b 9 n s) ∧
    OtherObjects s (doneEffect t c b 9 n s) [(t, Obj.protocolViolations + c), (t, Obj.troubleLogDropped)] := by
  obtain ⟨hk, -⟩ := faultCounts_own (.inr rfl) hc t
  have hne : Obj.protocolViolations + c ≠ Obj.troubleLogDropped := by
    simp only [Obj.protocolViolations, Obj.troubleLogDropped]
    omega
  have hcount : OtherObjects s (bump t (Obj.protocolViolations + c) 1 s) [(t, Obj.protocolViolations + c)] :=
    otherObjects_set rfl hk
  have hlog : OtherObjects _ (doneEffect t c b 9 n s) [(t, Obj.troubleLogDropped)] :=
    otherObjects_addLog ht 0x01 2 stOk (c + fld 8 4 9) 0 (bump t (Obj.protocolViolations + c) 1 s)
  refine ⟨?_, (books_bump _ _ _ s).trans (side_addLog _ _ _ _ _ _ _).books,
    (hcount.mono (by simp)).trans (hlog.mono (by simp))⟩
  exact (hlog _ _ hk (by simpa using hne)).trans (getObj_bump_fault (.inr rfl) hc t s)

theorem answers_doneReport_parity {t : TileN} {c : ChanN} {n : BitVec 8} {b : Nat} {rest : List Up} {s : State}
    (hup : (getLayer s t.val c.val).up = .done b 8 :: rest) :
    Answers (.doneReport t c n) s (fun s' =>
      getObj s' t.val (Obj.caParityErrors + c.val) = (getObj s t.val (Obj.caParityErrors + c.val) + 1) % 2 ^ 32 ∧
      SameMemory s s') := by
  obtain ⟨hk, -, -, -, hwin⟩ := faultCounts_own (.inl rfl) c.isLt t.val
  obtain ⟨hcount, hmem⟩ := doneEffect_parity c.isLt t.val b n.toNat (upTaken t.val c.val rest (fresh s))
  exact answers_doneReport hup rfl fun s' hw =>
    ⟨(hw.objs _ _ hk hwin).trans hcount, (sameMemory_upTaken _ _ rest s).trans (hmem.trans hw.words.sameMemory)⟩

theorem answers_doneReport_violation {t : TileN} {c : ChanN} {n : BitVec 8} {b : Nat} {rest : List Up} {s : State}
    (hup : (getLayer s t.val c.val).up = .done b 9 :: rest) :
    Answers (.doneReport t c n) s (fun s' =>
      getObj s' t.val (Obj.protocolViolations + c.val) =
        (getObj s t.val (Obj.protocolViolations + c.val) + 1) % 2 ^ 32 ∧
      (getLayer s' t.val c.val).up = rest ∧ SameMemory s s' ∧
      OtherObjects s s' ((t.val, Obj.protocolViolations + c.val) :: (t.val, Obj.troubleLogDropped) ::
        windowKeys t.val c.val)) := by
  obtain ⟨hk, -, -, -, hwin⟩ := faultCounts_own (.inr rfl) c.isLt t.val
  obtain ⟨hcount, hbooks, hobjs⟩ :=
    doneEffect_violation (Nat.ne_of_lt t.isLt) c.isLt b n.toNat (upTaken t.val c.val rest (fresh s))
  refine answers_doneReport hup rfl fun s' hw => ⟨(hw.objs _ _ hk hwin).trans hcount, hw.up.trans ?_,
    (sameMemory_upTaken _ _ rest s).trans (hbooks.sameMemory.trans hw.words.sameMemory), ?_⟩
  · rw [getLayer_congr hbooks.memory.2.1, up_upTaken]
  · exact OtherObjects.trans (hobjs.mono (by simp))
      (OtherObjects.mono hw.objs (fun _ h => List.mem_cons_of_mem _ (List.mem_cons_of_mem _ h)))

theorem noEffect_doneReport {t : TileN} {c : ChanN} {n : BitVec 8} {s : State}
    (hup : ∀ b ev r, (getLayer s t.val c.val).up ≠ .done b ev :: r) (hopen : (getRecess s t.val c.val).openAt = none)
    (hquiet : (getTrain s t.val c.val).quiet = none) (hprea : (getTrain s t.val c.val).prea = false) :
    NoEffect (.doneReport t c n) s := by
  refine noEffect_run (exec_doneReport t c n s) ?_
  rw [doneReport_none (s := fresh s) hup]
  exact steps_idle (s := fresh s) hopen hquiet hprea

/-! ### Read beats at the front (R261) -/

/-- Read beats at the front of the upward path are taken, with what they were asked for. -/
def beatsTaken (t c : Nat) (rest : List Up) (s : State) : State :=
  modLayer t c (fun l => { l with up := rest, reads := l.reads.drop 1 }) s

@[simp] theorem up_beatsTaken (t c : Nat) (rest : List Up) (s : State) :
    (getLayer (beatsTaken t c rest s) t c).up = rest := by
  rw [beatsTaken, getLayer_modLayer]

theorem sameMemory_beatsTaken (t c : Nat) (rest : List Up) (s : State) : SameMemory s (beatsTaken t c rest (fresh s)) :=
  sameMemory_modLayer t c (f := fun l => { l with up := rest, reads := l.reads.drop 1 }) (fun _ => rfl) (fresh s)

theorem readArrival_register {t c : Nat} {words : List Nat} {rest : List Up} {s : State}
    (hup : (getLayer s t c).up = .beats words :: rest)
    (htag : ∃ r, (getLayer s t c).reads.headD (.mode 0) = .mode r ∨ (getLayer s t c).reads.headD (.mode 0) = .trim r) :
    readArrival t c s = modLayer t c (fun l => { l with modeRead := words.headD 0 }) (beatsTaken t c rest s) := by
  obtain ⟨r, htag | htag⟩ := htag <;>
  · unfold readArrival
    simp only [hup, htag]
    rfl

theorem readArrival_access {t c id : Nat} {words : List Nat} {rest : List Up} {s : State}
    (hup : (getLayer s t c).up = .beats words :: rest) (htag : (getLayer s t c).reads.headD (.mode 0) = .access id) :
    readArrival t c s = deliverRead t c id words (beatsTaken t c rest s) := by
  unfold readArrival
  simp only [hup, htag]
  rfl

/-- The command takes the beats, and a window goes on with what they did. -/
theorem answers_readDataArrival {t : TileN} {c : ChanN} {s r : State} {P : State → Prop}
    (hr : readArrival t.val c.val (fresh s) = r)
    (hP : ∀ s', Windowed r s' t.val c.val → P (sameTime s s')) : Answers (.readDataArrival t c) s P := by
  refine answers_run (exec_readDataArrival t c s) (hP _ ?_)
  rw [hr]
  exact windowed_steps c.isLt r

/-- The beats of a mode register or a trim give its value (Table 2.5). -/
theorem answers_readDataArrival_register {t : TileN} {c : ChanN} {words : List Nat} {rest : List Up} {s : State}
    (hup : (getLayer s t.val c.val).up = .beats words :: rest)
    (htag : ∃ r, (getLayer s t.val c.val).reads.headD (.mode 0) = .mode r ∨
      (getLayer s t.val c.val).reads.headD (.mode 0) = .trim r) :
    Answers (.readDataArrival t c) s (fun s' => (getLayer s' t.val c.val).modeRead = words.headD 0 ∧
      (getLayer s' t.val c.val).up = rest ∧ SameMemory s s' ∧ OtherObjects s s' (windowKeys t.val c.val) ∧
      s' = { s with layer := s'.layer, recess := s'.recess, train := s'.train, dict := s'.dict, out := {} }) := by
  refine answers_readDataArrival (readArrival_register (s := fresh s) hup htag) fun s' hw => ?_
  obtain ⟨hmem, hobjs⟩ := hw.after_quiet (s0 := s) rfl ((sameMemory_beatsTaken _ _ rest s).trans
    (sameMemory_modLayer _ _ (f := fun l => { l with modeRead := words.headD 0 }) (fun _ => rfl) _))
  refine ⟨hw.modeRead.trans ?_, hw.up.trans ?_, hmem, hobjs, ?_⟩
  · rw [getLayer_modLayer]
  · rw [getLayer_modLayer]
    exact up_beatsTaken _ _ rest (fresh s)
  · rw [hw.fields]
    rfl

/-! ### Good words of an access (R261) -/

/-- The data found in a list of words: word i lies at bits 64 i. -/
theorem findWords_data (l : List Nat) (i : Nat) (f : Found) : (findWords l i f).data =
    f.data + ((List.range l.length).map (fun j => wordData (l.getD j 0) * 2 ^ (64 * (i + j)))).sum := by
  induction l generalizing i f with
  | nil => rfl
  | cons w l ih =>
    have hstep : (findWords (w :: l) i f).data = f.data + wordData w * 2 ^ (64 * i) +
        ((List.range l.length).map (fun j => wordData (l.getD j 0) * 2 ^ (64 * (i + 1 + j)))).sum := by
      unfold findWords
      rw [ih]
      cases classify w <;> rfl
    have hshift : ∀ j, i + 1 + j = i + (j + 1) := fun j => by omega
    rw [hstep, List.length_cons, List.range_succ_eq_map]
    simp [Function.comp_def, hshift, Nat.add_assoc]

theorem sumOf_eq_sum (l : List Nat) : sumOf l = l.sum := List.sum_eq_foldl.symm

theorem findWords_data_sumOf (l : List Nat) : (findWords l 0 {}).data =
    sumOf ((List.range l.length).map (fun j => wordData (l.getD j 0) * 2 ^ (64 * j))) := by
  rw [findWords_data, sumOf_eq_sum]
  simp

theorem readStatus_good {l : List Nat} (h : ∀ w ∈ l, classify w = .good) (mask : Nat) :
    readStatus (findWords l 0 {}) mask = stOk := by
  obtain ⟨hbad, hfirst, -⟩ := findWords_good l 0 {} h
  unfold readStatus
  rw [hbad, hfirst]
  simp

/-- Good words complete a read with its data and OK. -/
theorem deliverRead_good {t c : Nat} {a : Acc} {words : List Nat} {s : State}
    (hfind : (getQueue s t c).rq.find? (fun x => x.id = a.id) = some a) (hkind : a.kind = .read)
    (hgood : ∀ w ∈ words, classify w = .good) :
    deliverRead t c a.id words s = completeAcc t c a stOk
      (sumOf ((List.range words.length).map (fun j => wordData (words.getD j 0) * 2 ^ (64 * j)))) 0
      (countEv t 0x0001 c (byteSpan a.mask).2 s) := by
  obtain ⟨hbad, -, -⟩ := findWords_good words 0 {} hgood
  unfold deliverRead
  simp only [hfind, hkind, afterRead_good _ _ _ _ _ _ _ _ _ hgood, readStatus_good hgood, findWords_data_sumOf, hbad]

/-- The entry of a bounce copy's read has one more line done. -/
def lineDone (x : Acc) : Acc :=
  match x.kind with
  | .bounceRead _ => { x with done := x.done + 1 }
  | _ => x

/-- The buffer of a bounce copy takes a line's words. -/
def lineBuffered (words : List Nat) (b : Bounce) : Bounce := { b with words := b.words ++ words.map rewriteWord }

/-- Good words of a bounce copy's line go into the buffer (R57). -/
theorem deliverRead_bounce {t c k : Nat} {a : Acc} {words : List Nat} {s : State}
    (hfind : (getQueue s t c).rq.find? (fun x => x.id = a.id) = some a) (hkind : a.kind = .bounceRead k)
    (hgood : ∀ w ∈ words, classify w = .good) :
    deliverRead t c a.id words s = modAcc t c a.id lineDone
      (modBounce t k (lineBuffered words) (countEv t 0x0001 c 64 s)) := by
  unfold deliverRead
  simp only [hfind, hkind, deliverBounce, afterRead_good _ _ _ _ _ _ _ _ _ hgood]
  rfl

/-! ### Queues and requests after a delivery (R67) -/

@[simp] theorem getQueue_modQueue (t c : Nat) (f : QueueS → QueueS) (s : State) :
    getQueue (modQueue t c f s) t c = f (getQueue s t c) := fget_fupd_same _ _ _ _

theorem getQueue_congr {s s' : State} (h : s'.queue = s.queue) (t c : Nat) : getQueue s' t c = getQueue s t c := by
  unfold getQueue
  rw [h]

@[simp] theorem getBounce_modBounce (t c : Nat) (f : Bounce → Bounce) (s : State) :
    getBounce (modBounce t c f s) t c = f (getBounce s t c) := fget_fupd_same _ _ _ _

theorem getBounce_congr {s s' : State} (h : s'.bounce = s.bounce) (t c : Nat) : getBounce s' t c = getBounce s t c := by
  unfold getBounce
  rw [h]

theorem findReq_congr {s s' : State} (h : s'.sched = s.sched) (t i : Nat) : findReq s' t i = findReq s t i := by
  unfold findReq getSched
  rw [h]

/-- A request changed, but not in its number, is found as changed. -/
theorem findReq_modReq {t i : Nat} {f : Req → Req} {s : State} {r : Req} (hf : ∀ r, (f r).id = r.id)
    (hr : findReq s t i = some r) : findReq (modReq t i f s) t i = some (f r) := by
  have hid : r.id = i := by simpa using List.find?_some hr
  have hreqs : (getSched (modReq t i f s) t).reqs =
      (getSched s t).reqs.map (fun r => if r.id = i then f r else r) := by
    unfold modReq modSched getSched
    rw [fget_fupd_same]
  have hsame : (fun r : Req => decide (r.id = i)) ∘ (fun r => if r.id = i then f r else r) =
      fun r => decide (r.id = i) := by
    funext x
    by_cases hx : x.id = i <;> simp [hx, hf]
  unfold findReq at hr ⊢
  rw [hreqs, List.find?_map, hsame, hr, Option.map_some, if_pos hid]

/-- The access of a number leaves the queues of its channel. -/
def accUnqueued (t c id : Nat) (s : State) : State :=
  modQueue t c (fun q => { q with rq := q.rq.filter (fun x => x.id ≠ id), wq := q.wq.filter (fun x => x.id ≠ id) }) s

theorem batchEnds_fields (t c : Nat) (s : State) : batchEnds t c s = { s with queue := (batchEnds t c s).queue } := by
  unfold batchEnds
  dsimp only
  split <;> rfl

theorem batchEnds_rq (t c : Nat) (s : State) : (getQueue (batchEnds t c s) t c).rq = (getQueue s t c).rq := by
  unfold batchEnds
  dsimp only
  split
  · rw [turnRead, getQueue_modQueue]
  · rfl

section
variable {t c i : Nat} {a : Acc} (hreqs : a.reqs = [i]) (hjob : a.job = .none) (st data bad : Nat)
include hreqs hjob

/-- An access of one request and of no job: its request takes the result, and it leaves its queue. -/
theorem completeAcc_single (s : State) : completeAcc t c a st data bad s =
    batchEnds t c (modReq t i (reqTake a st data bad) (accUnqueued t c a.id s)) := by
  unfold completeAcc jobStep
  simp only [hreqs, hjob]
  rfl

theorem completeAcc_fields (s : State) : completeAcc t c a st data bad s = { s with
    queue := (completeAcc t c a st data bad s).queue, sched := (completeAcc t c a st data bad s).sched } := by
  rw [completeAcc_single hreqs hjob, batchEnds_fields]
  rfl

theorem findReq_completeAcc {s : State} {r : Req} (hr : findReq s t i = some r) :
    findReq (completeAcc t c a st data bad s) t i = some (reqTake a st data bad r) := by
  rw [completeAcc_single hreqs hjob, batchEnds_fields]
  exact findReq_modReq (s := accUnqueued t c a.id s) (fun _ => rfl) hr

theorem completeAcc_unqueues (s : State) : ∀ x ∈ (getQueue (completeAcc t c a st data bad s) t c).rq, x.id ≠ a.id := by
  intro x hx
  rw [completeAcc_single hreqs hjob, batchEnds_rq] at hx
  have hx : x ∈ (getQueue (accUnqueued t c a.id s) t c).rq := hx
  rw [accUnqueued, getQueue_modQueue] at hx
  simpa using (List.mem_filter.mp hx).2

end

/-- A delivery that touches the queues, requests, bounce buffers and counted events only. -/
theorem delivered_quiet {s r s' : State} {t c : Nat} {rest : List Up} (hw : Windowed r s' t c)
    (hr : r = { beatsTaken t c rest (fresh s) with
      count := r.count, queue := r.queue, sched := r.sched, bounce := r.bounce }) :
    SameMemory s (sameTime s s') ∧ OtherObjects s (sameTime s s') (windowKeys t c) := by
  refine hw.after_quiet (s0 := s) ?_ ((sameMemory_beatsTaken t c rest s).trans ?_)
  · rw [hr]
    rfl
  · rw [hr]
    exact sameMemory_of rfl rfl rfl rfl

/-- A read whose words are all good completes (R261, R67). -/
theorem answers_readDataArrival_read {t : TileN} {c : ChanN} {words : List Nat} {rest : List Up} {s : State} {a : Acc}
    {i : Nat} {r : Req} (hup : (getLayer s t.val c.val).up = .beats words :: rest)
    (htag : (getLayer s t.val c.val).reads.headD (.mode 0) = .access a.id)
    (hfind : (getQueue s t.val c.val).rq.find? (fun x => x.id = a.id) = some a) (hkind : a.kind = .read)
    (hjob : a.job = .none) (hreqs : a.reqs = [i]) (hr : findReq s t.val i = some r)
    (hgood : ∀ w ∈ words, classify w = .good) :
    Answers (.readDataArrival t c) s (fun s' =>
      findReq s' t.val i = some (reqTake a stOk
        (sumOf ((List.range words.length).map (fun j => wordData (words.getD j 0) * 2 ^ (64 * j)))) 0 r) ∧
      (∀ x ∈ (getQueue s' t.val c.val).rq, x.id ≠ a.id) ∧ SameMemory s s' ∧
      OtherObjects s s' (windowKeys t.val c.val)) := by
  refine answers_readDataArrival ((readArrival_access (s := fresh s) hup htag).trans
    (deliverRead_good hfind hkind hgood)) fun s' hw => ?_
  generalize sumOf _ = data at hw ⊢
  have hcount := countEv_fields t.val 0x0001 c.val (byteSpan a.mask).2 (beatsTaken t.val c.val rest (fresh s))
  generalize countEv _ _ _ _ _ = x at hcount hw
  have hfields := completeAcc_fields (t := t.val) (c := c.val) hreqs hjob stOk data 0 x
  have hx : findReq x t.val i = some r := (findReq_congr (by rw [hcount]; rfl) _ _).trans hr
  refine ⟨(findReq_congr hw.sched _ _).trans (findReq_completeAcc hreqs hjob stOk data 0 hx), ?_,
    delivered_quiet (rest := rest) hw ?_⟩
  · show ∀ y ∈ (getQueue s' t.val c.val).rq, y.id ≠ a.id
    rw [getQueue_congr hw.queue]
    exact completeAcc_unqueues hreqs hjob stOk data 0 x
  · rw [hfields, hcount]

theorem lineDone_id (x : Acc) : (lineDone x).id = x.id := by
  unfold lineDone
  split <;> rfl

theorem lineDone_done (x : Acc) : (lineDone x).done =
    (match x.kind with | .bounceRead _ => x.done + 1 | _ => x.done) := by
  unfold lineDone
  cases x.kind <;> rfl

/-- A line of good words read by a bounce copy goes into the buffer of the channel written to (R57). -/
theorem answers_readDataArrival_bounce {t : TileN} {c : ChanN} {words : List Nat} {rest : List Up} {s : State} {a : Acc}
    {k : Nat} (hup : (getLayer s t.val c.val).up = .beats words :: rest)
    (htag : (getLayer s t.val c.val).reads.headD (.mode 0) = .access a.id)
    (hfind : (getQueue s t.val c.val).rq.find? (fun x => x.id = a.id) = some a) (hkind : a.kind = .bounceRead k)
    (hgood : ∀ w ∈ words, classify w = .good) :
    Answers (.readDataArrival t c) s (fun s' =>
      getBounce s' t.val k = lineBuffered words (getBounce s t.val k) ∧
      (∀ x ∈ (getQueue s' t.val c.val).rq, x.id = a.id → ∃ y ∈ (getQueue s t.val c.val).rq, y.id = a.id ∧
        x.done = (lineDone y).done) ∧
      SameMemory s s' ∧ OtherObjects s s' (windowKeys t.val c.val)) := by
  refine answers_readDataArrival ((readArrival_access (s := fresh s) hup htag).trans
    (deliverRead_bounce hfind hkind hgood)) fun s' hw => ?_
  have hcount := countEv_fields t.val 0x0001 c.val 64 (beatsTaken t.val c.val rest (fresh s))
  generalize countEv _ _ _ _ _ = x at hcount hw
  refine ⟨?_, fun y hy hid => ?_, delivered_quiet (rest := rest) hw ?_⟩
  · calc getBounce s' t.val k
        _ = getBounce (modBounce t.val k (lineBuffered words) x) t.val k := getBounce_congr hw.bounce _ _
        _ = lineBuffered words (getBounce x t.val k) := getBounce_modBounce _ _ _ x
        _ = lineBuffered words (getBounce s t.val k) := by rw [getBounce_congr (s := s) (by rw [hcount]; rfl)]
  · have hy : y ∈ (getQueue s' t.val c.val).rq := hy
    rw [getQueue_congr hw.queue, modAcc, getQueue_modQueue] at hy
    obtain ⟨z, hz, rfl⟩ := List.mem_map.mp hy
    have hz : z ∈ (getQueue s t.val c.val).rq := by
      rw [hcount] at hz
      exact hz
    have hzid : z.id = a.id := by
      by_contra hne
      rw [if_neg hne] at hid
      exact hne hid
    exact ⟨z, hz, hzid, by rw [if_pos hzid]⟩
  · rw [hcount]
    rfl

/-- Settles O13: the report or the beats at the front are taken, each with its effect, and what a window does after
it is `Windowed`. -/
theorem reportsAndReadDataArrive : Obligations.ReportsAndReadDataArrive := by
  refine ⟨fun t c n b rest s => ⟨fun r hup hb => ?_, fun hup hb => ?_, fun ev hev hup => ?_, fun hup => ?_,
    fun hup => ?_, fun hup hopen hquiet hprea => ?_⟩,
    fun t c words rest s hup => ⟨fun htag => ?_, fun a i r htag hfind hkind hjob hreqs hr hgood => ?_,
      fun a w htag hfind hkind hgood => ?_⟩⟩
  · exact answers_doneReport_act hup hb
  · exact answers_doneReport_pre hup hb
  · exact answers_doneReport_all hev hup
  · exact answers_doneReport_parity hup
  · exact answers_doneReport_violation hup
  · exact noEffect_doneReport hup hopen hquiet hprea
  · exact answers_readDataArrival_register hup htag
  · exact answers_readDataArrival_read hup htag hfind hkind hjob hreqs hr hgood
  · have h := answers_readDataArrival_bounce hup htag hfind hkind hgood
    simp only [lineDone_done] at h
    exact h

end Sys2Proof.Machine

/-! ## Proofs: responses -/

namespace Sys2Proof.Machine

open Sys2Proof

/-! ### What accounting for an answered request touches (R95, R113, R127, R400, R401) -/

/-- `s'` differs from `s` by bookkeeping, by when regulators went over budget, and by the free values drawn. -/
def Accounts (s s' : State) : Prop := s' = { s with
  dict := s'.dict, door := s'.door, passes := s'.passes, tt := s'.tt, count := s'.count
  out := { s.out with frames := s'.out.frames }
  field := { s.field with events := s'.field.events }
  copy := { s.copy with queue := s'.copy.queue }
  overFrom := s'.overFrom, free := s'.free }

theorem Accounts.refl (s : State) : Accounts s s := rfl

theorem Accounts.trans {a b c : State} (h : Accounts a b) (h' : Accounts b c) : Accounts a c := by
  unfold Accounts at *
  rw [h] at h'
  exact h'

theorem Books.accounts {s s' : State} (h : Books s s') : Accounts s s' := by
  unfold Accounts
  rw [h]

section
variable {s s' : State} (h : Accounts s s')
include h

theorem Accounts.sched : s'.sched = s.sched := by rw [h]
theorem Accounts.resp : s'.resp = s.resp := by rw [h]
theorem Accounts.replies : s'.replies = s.replies := by rw [h]
theorem Accounts.farResps : s'.farResps = s.farResps := by rw [h]
theorem Accounts.portGen : s'.portGen = s.portGen := by rw [h]
theorem Accounts.sameMemory : SameMemory s s' := by
  refine sameMemory_of ?_ ?_ ?_ ?_ <;> rw [h]

end

theorem books_checkMiss (t p latency : Nat) (s : State) : Books s (checkMiss t p latency s) := by
  unfold checkMiss
  dsimp only
  split
  · exact .refl s
  have hlate : ∀ a b c d e f x, Books s
      (setPass t p x (setObj t e f (bump t c d (setObj t a b s)))) := fun _ _ _ _ _ _ _ => rfl
  split
  · exact books_setObj _ _ _ s
  split
  · exact hlate _ _ _ _ _ _ _
  · exact (hlate _ _ _ _ _ _ _).trans ((books_bump _ _ _ _).trans
      ((side_ringPass _ _ _ _).trans (side_addLog _ _ _ _ _ _ _)).books)

theorem books_passAnswered (t : Nat) (r : Req) (s : State) : Books s (passAnswered t r s) := by
  unfold passAnswered
  split
  · exact (books_checkMiss _ _ _ s).trans (books_finishRelease _ _ _)
  · exact .refl s

theorem accounts_regLeave (t g : Nat) (s : State) : Accounts s (regLeave t g s) := by
  unfold regLeave regSet regCheck
  dsimp only
  (repeat' split) <;> rfl

theorem accounts_smEvent (t kind requester part latency record : Nat) (s : State) :
    Accounts s (smEvent t kind requester part latency record s) := by
  unfold smEvent draw
  dsimp only
  (repeat' split) <;> rfl

theorem portCount_fields (t p : Nat) (out : Bool) (n : Nat) (s : State) :
    portCount t p out n s = { s with dict := (portCount t p out n s).dict, count := (portCount t p out n s).count } := by
  unfold portCount
  dsimp only
  split
  · rfl
  · rw [countEv_fields]
    split <;> rfl

theorem accounts_portCount (t p : Nat) (out : Bool) (n : Nat) (s : State) : Accounts s (portCount t p out n s) := by
  unfold Accounts
  rw [portCount_fields]

/-! ### A response reaches its requester (R67, R410) -/

theorem mkResp_congr {s s' : State} (h : s'.portGen = s.portGen) (t p : Nat) (r : Req) (hint : Nat) :
    mkResp s' t p r hint = mkResp s t p r hint := by
  unfold mkResp portWidth portGeneration
  rw [h]

theorem countOffer_fields (t p lo : Nat) (s : State) :
    countOffer t p lo s = { s with dict := (countOffer t p lo s).dict, count := (countOffer t p lo s).count } :=
  portCount_fields _ _ _ _ _

theorem offerResp_fields (t p : Nat) (x : Resp) (s : State) : offerResp t p x s = { s with
    resp := fset [] s.resp (t * 4 + p) (fget [] s.resp (t * 4 + p) ++ [x])
    dict := (offerResp t p x s).dict, count := (offerResp t p x s).count } :=
  countOffer_fields _ _ _ _

theorem deliver_dropped {t hint : Nat} {r : Req} {s : State} (hd : r.dropped = true) : deliver t r hint s = s :=
  if_pos hd

theorem deliver_port {t hint : Nat} {r : Req} {s : State} (hd : r.dropped = false) (hp : r.orig < 4) :
    deliver t r hint s = offerResp t r.orig (mkResp s t r.orig r hint) s := by
  unfold deliver
  rw [if_neg (by simp [hd]), if_pos hp]

theorem deliver_engine {t hint : Nat} {r : Req} {s : State} (hd : r.dropped = false) (hp : 4 ≤ r.orig) :
    deliver t r hint s = giveReply t r.orig r hint s := by
  unfold deliver
  rw [if_neg (by simp [hd]), if_neg (by omega)]

/-- What an engine receives of a response. -/
def replyOf (r : Req) (hint : Nat) : Reply where
  tag := r.tag
  status := r.status
  write := r.write
  data := r.data
  pois := r.pois
  hint := if r.status = stRetry then hint else 0
  fill := r.fill

theorem giveReply_replies (t code : Nat) (r : Req) (hint : Nat) (s : State) :
    (giveReply t code r hint s).replies = fupd [] s.replies (t * 256 + code) (· ++ [replyOf r hint]) := rfl

theorem fget_replies_giveReply (t code : Nat) (r : Req) (hint : Nat) (s : State) :
    fget [] (giveReply t code r hint s).replies (t * 256 + code) =
      fget [] s.replies (t * 256 + code) ++ [replyOf r hint] := by
  rw [giveReply_replies, fget_fupd_same]

theorem fget_replies_giveReply_other {t code : Nat} {r : Req} {hint j : Nat} {s : State} (h : j ≠ t * 256 + code) :
    fget [] (giveReply t code r hint s).replies j = fget [] s.replies j := by
  rw [giveReply_replies, fget_fupd_other _ _ _ _ h]

theorem deliver_fields (t : Nat) (r : Req) (hint : Nat) (s : State) : deliver t r hint s = { s with
    resp := (deliver t r hint s).resp, replies := (deliver t r hint s).replies
    dict := (deliver t r hint s).dict, count := (deliver t r hint s).count } := by
  unfold deliver
  split
  · rfl
  · split
    · rw [offerResp_fields]
    · rfl

theorem deliver_sched (t : Nat) (r : Req) (hint : Nat) (s : State) : (deliver t r hint s).sched = s.sched := by
  rw [deliver_fields]

theorem deliver_farResps (t : Nat) (r : Req) (hint : Nat) (s : State) :
    (deliver t r hint s).farResps = s.farResps := by
  rw [deliver_fields]

theorem sameMemory_deliver (t : Nat) (r : Req) (hint : Nat) (s : State) : SameMemory s (deliver t r hint s) := by
  rw [deliver_fields]
  exact sameMemory_of rfl rfl rfl rfl

/-- Where the response of a request to its tile shows: behind those that wait at its port, or with its engine. -/
structure Delivered (t : Nat) (r : Req) (hint : Nat) (s s' : State) : Prop where
  port : ∀ p : PortN, r.orig = p.val → r.dropped = false → fget [] s'.resp (t * 4 + p.val) =
    fget [] s.resp (t * 4 + p.val) ++ [mkResp s t p.val r hint] ∧ s'.replies = s.replies
  noPort : r.dropped = true ∨ 4 ≤ r.orig → s'.resp = s.resp
  engine : 4 ≤ r.orig → r.dropped = false → ∃ x,
    fget [] s'.replies (t * 256 + r.orig) = fget [] s.replies (t * 256 + r.orig) ++ [x] ∧
      x.tag = r.tag ∧ x.status = r.status ∧ x.write = r.write ∧ x.data = r.data ∧ x.pois = r.pois

theorem delivered_deliver {s x : State} (hresp : x.resp = s.resp) (hreplies : x.replies = s.replies)
    (hgen : x.portGen = s.portGen) (t : Nat) (r : Req) (hint : Nat) : Delivered t r hint s (deliver t r hint x) where
  port p hp hd := by
    rw [deliver_port hd (hp ▸ p.isLt), offerResp_fields, ← hp, mkResp_congr hgen, hresp]
    exact ⟨fget_fset_same _ _ _ _, hreplies⟩
  noPort h := by
    cases hd : r.dropped with
    | true => rw [deliver_dropped hd, hresp]
    | false =>
      have hp : 4 ≤ r.orig := h.resolve_left (by simp [hd])
      rw [deliver_engine hd hp]
      exact hresp
  engine hp hd := by
    rw [deliver_engine hd hp, ← hreplies]
    exact ⟨_, fget_replies_giveReply _ _ _ _ _, rfl, rfl, rfl, rfl, rfl⟩

/-- A response to anyone but the block map leaves the block map's replies. -/
theorem fget_replies_deliver {t hint : Nat} {r : Req} {s : State} (hr : r.orig ≠ 0x60) :
    fget [] (deliver t r hint s).replies (t * 256 + 0x60) = fget [] s.replies (t * 256 + 0x60) := by
  unfold deliver
  split
  · rfl
  · split
    · rw [offerResp_fields]
    · exact fget_replies_giveReply_other (by omega)

/-- Without a reply the block map of a tile does nothing. -/
theorem mapReplies_none {t : Nat} {s : State} (h : fget [] s.replies (t * 256 + 0x60) = []) : mapReplies t s = s := by
  unfold mapReplies
  rw [h]

/-! ### The response leaves the scheduler's exit (R67) -/

/-- A request is no longer open in its tile. -/
def closeReq (t id : Nat) (s : State) : State :=
  modSched t (fun x => { x with reqs := x.reqs.filter (fun q => q.id ≠ id) }) s

theorem openReqs_congr {s s' : State} (h : s'.sched = s.sched) (t : Nat) : openReqs s' t = openReqs s t := by
  unfold openReqs getSched
  rw [h]

theorem openReqs_closeReq (t id : Nat) (s : State) :
    openReqs (closeReq t id s) t = (openReqs s t).filter (fun q => q.id ≠ id) := by
  unfold closeReq openReqs modSched getSched
  rw [fget_fupd_same]

/-- The request is a far one, which came in by the tile's gateway (R415). -/
abbrev fromGateway (r : Req) : Prop := 0x20 ≤ r.requester ∧ r.requester < 0x60

/-- The state in which the response of a request leaves: the request is closed and accounted for. -/
def exited (t : Nat) (r : Req) (s : State) : State :=
  smEvent t 1 r.requester r.part (latencyOf s r) (reqRecord s r)
    (match r.counted with
      | some g => regLeave t g (closeReq t r.id s)
      | none => closeReq t r.id s)

theorem accounts_exited (t : Nat) (r : Req) (s : State) : Accounts (closeReq t r.id s) (exited t r s) := by
  unfold exited
  refine Accounts.trans ?_ (accounts_smEvent _ _ _ _ _ _ _)
  split
  · exact accounts_regLeave _ _ _
  · exact .refl _

theorem respond_near {t hint : Nat} {r : Req} {s : State} (h : ¬ fromGateway r) :
    respond t r hint s = deliver t r hint (passAnswered t r (exited t r s)) := if_neg h

theorem respond_far {t hint : Nat} {r : Req} {s : State} (h : fromGateway r) :
    respond t r hint s = portCount t 4 true (if r.write then 0 else r.len)
      { exited t r s with farResps := (exited t r s).farResps ++ [⟨t, r.source, r, hint⟩] } := if_pos h

/-- The response leaves the tile's open requests and its memory as said, wherever it goes. -/
structure Departed (t : Nat) (r : Req) (s s' : State) : Prop where
  reqs : openReqs s' t = (openReqs s t).filter (fun q => q.id ≠ r.id)
  memory : SameMemory s s'
  mapReplies : r.orig ≠ 0x60 → fget [] s'.replies (t * 256 + 0x60) = fget [] s.replies (t * 256 + 0x60)

theorem departed_respond (t : Nat) (r : Req) (hint : Nat) (s : State) : Departed t r s (respond t r hint s) := by
  have hex := accounts_exited t r s
  have hclose : SameMemory s (closeReq t r.id s) := sameMemory_of rfl rfl rfl rfl
  by_cases hg : fromGateway r
  · rw [respond_far hg]
    have hcount := accounts_portCount t 4 true (if r.write then 0 else r.len)
      { exited t r s with farResps := (exited t r s).farResps ++ [⟨t, r.source, r, hint⟩] }
    refine ⟨?_, hclose.trans (hex.sameMemory.trans hcount.sameMemory), fun _ => ?_⟩
    · rw [openReqs_congr (hcount.sched.trans hex.sched), openReqs_closeReq]
    · rw [hcount.replies]
      exact congrArg (fget [] · _) hex.replies
  · rw [respond_near hg]
    have hpass := hex.trans (books_passAnswered t r _).accounts
    generalize passAnswered t r (exited t r s) = x at hpass ⊢
    refine ⟨?_, hclose.trans (hpass.sameMemory.trans (sameMemory_deliver _ _ _ _)), fun hr => ?_⟩
    · rw [openReqs_congr ((deliver_sched _ _ _ _).trans hpass.sched), openReqs_closeReq]
    · rw [fget_replies_deliver hr, hpass.replies]
      rfl

/-- The response of a request of the tile reaches its requester there. -/
theorem delivered_respond {t hint : Nat} {r : Req} {s : State} (hg : ¬ fromGateway r) :
    Delivered t r hint s (respond t r hint s) ∧ (respond t r hint s).farResps = s.farResps := by
  have hpass := (accounts_exited t r s).trans (books_passAnswered t r _).accounts
  rw [respond_near hg]
  exact ⟨delivered_deliver (s := s) hpass.resp hpass.replies hpass.portGen t r hint,
    (deliver_farResps _ _ _ _).trans hpass.farResps⟩

/-- The response of a far request sets out for its source tile. -/
theorem respond_sends {t hint : Nat} {r : Req} {s : State} (hg : fromGateway r) :
    (respond t r hint s).resp = s.resp ∧ (respond t r hint s).replies = s.replies ∧
      (respond t r hint s).farResps = s.farResps ++ [⟨t, r.source, r, hint⟩] := by
  have hex := accounts_exited t r s
  rw [respond_far hg, portCount_fields]
  exact ⟨hex.resp, hex.replies, congrArg (· ++ _) hex.farResps⟩

theorem offerResponse_finished {t id : Nat} {r : Req} {s : State} (hr : findReq s t id = some r) (hl : r.left = 0)
    (hw : r.waiting = 0) : offerResponse t id s = answer r.status (respond t r (retryHint s r) s) := by
  unfold offerResponse
  rw [hr]
  exact if_pos ⟨hl, hw⟩

theorem offerResponse_idle {t id : Nat} {s : State}
    (h : findReq s t id = none ∨ ∃ r, findReq s t id = some r ∧ (r.left ≠ 0 ∨ r.waiting ≠ 0)) :
    offerResponse t id s = s := by
  unfold offerResponse
  rcases h with h | ⟨r, h, hn⟩
  · rw [h]
  · rw [h]
    exact if_neg (by tauto)

/-- RESPONSE_OFFER of a finished request that is not the block map's. -/
theorem answers_responseOffer {t : TileN} {id : Nat} {r : Req} {s : State} {P : State → Prop}
    (hmap : fget [] s.replies (t.val * 256 + 0x60) = []) (hr : findReq s t.val id = some r) (hl : r.left = 0)
    (hw : r.waiting = 0) (ho : r.orig ≠ 0x60)
    (hP : P (sameTime s (answer r.status (respond t.val r (retryHint s r) (fresh s))))) :
    Answers (.responseOffer t id) s P := by
  refine answers_run (exec_responseOffer t id s) ?_
  rw [offerResponse_finished (s := fresh s) hr hl hw, mapReplies_none]
  · exact hP
  · exact ((departed_respond t.val r _ (fresh s)).mapReplies ho).trans hmap

/-! ### Beats taken at a port (R410) -/

/-- The responses of a port after the beat at the front is taken. -/
def afterBeat (r : Resp) (rest : List Resp) : List Resp :=
  match r.beats with
  | _ :: b :: bs => { r with beats := b :: bs } :: rest
  | _ => rest

theorem afterBeat_next {r : Resp} {b b' : Nat × Bool × Nat} {bs : List (Nat × Bool × Nat)} (rest : List Resp)
    (h : r.beats = b :: b' :: bs) : afterBeat r rest = { r with beats := b' :: bs } :: rest := by
  unfold afterBeat
  rw [h]

theorem afterBeat_last {r : Resp} (rest : List Resp) (h : r.beats.length ≤ 1) : afterBeat r rest = rest := by
  unfold afterBeat
  split
  · next b b' bs hb =>
    rw [hb, List.length_cons, List.length_cons] at h
    omega
  · rfl

theorem ackBeat_fields {t p : Nat} {r : Resp} {rest : List Resp} {s : State}
    (h : fget [] s.resp (t * 4 + p) = r :: rest) : ackBeat t p s = { s with
      resp := fset [] s.resp (t * 4 + p) (afterBeat r rest)
      dict := (ackBeat t p s).dict, count := (ackBeat t p s).count } := by
  unfold ackBeat
  rw [h]
  exact countOffer_fields _ _ _ _

theorem ackBeat_none {t p : Nat} {s : State} (h : fget [] s.resp (t * 4 + p) = []) : ackBeat t p s = s := by
  unfold ackBeat
  rw [h]

theorem answers_responseBeatAck {t : TileN} {p : PortN} {r : Resp} {rest : List Resp} {s : State}
    (h : fget [] s.resp (t.val * 4 + p.val) = r :: rest) :
    Answers (.responseBeatAck t (.host p)) s (fun s' =>
      (∀ b b' bs, r.beats = b :: b' :: bs →
        fget [] s'.resp (t.val * 4 + p.val) = { r with beats := b' :: bs } :: rest) ∧
      (r.beats.length ≤ 1 → fget [] s'.resp (t.val * 4 + p.val) = rest) ∧ SameMemory s s' ∧
      s' = { s with resp := s'.resp, dict := s'.dict, count := s'.count, out := {} }) := by
  refine answers_run (exec_responseBeatAck t p s) ?_
  rw [ackBeat_fields (s := fresh s) h]
  have hresp := fget_fset_same [] s.resp (t.val * 4 + p.val) (afterBeat r rest)
  exact ⟨fun b b' bs hb => hresp.trans (afterBeat_next rest hb), fun hb => hresp.trans (afterBeat_last rest hb),
    sameMemory_of rfl rfl rfl rfl, rfl⟩

/-! ### A response arrives in its source tile (R14) -/

/-- The oldest response of an owner to a tile is no longer on its way. -/
def farTaken (t owner : Nat) (s : State) : State :=
  { s with farResps := removeFirst (fun y => y.dst = t ∧ y.owner = owner) s.farResps }

theorem farResponse_none {t owner : Nat} {s : State}
    (h : s.farResps.find? (fun x => x.dst = t ∧ x.owner = owner) = none) : farResponse t owner s = s := by
  unfold farResponse
  rw [h]

theorem farResponse_some {t owner : Nat} {x : FarResp} {s : State}
    (h : s.farResps.find? (fun x => x.dst = t ∧ x.owner = owner) = some x) :
    ∃ y, Accounts (farTaken t owner s) y ∧ farResponse t owner s = deliver t x.req x.hint y := by
  unfold farResponse
  rw [h]
  exact ⟨_, (accounts_portCount _ _ _ _ (farTaken t owner s)).trans (books_passAnswered _ _ _).accounts, rfl⟩

/-- FAR_RESPONSE_ARRIVAL of a response that is not for the block map. -/
theorem answers_farResponseArrival {t owner : TileN} {x : FarResp} {s : State}
    (hmap : fget [] s.replies (t.val * 256 + 0x60) = [])
    (hx : s.farResps.find? (fun x => x.dst = t.val ∧ x.owner = owner.val) = some x) (ho : x.req.orig ≠ 0x60) :
    Answers (.farResponseArrival t owner) s (fun s' =>
      s'.farResps = removeFirst (fun y => y.dst = t.val ∧ y.owner = owner.val) s.farResps ∧ SameMemory s s' ∧
      Delivered t.val x.req x.hint s s') := by
  obtain ⟨y, hy, hdel⟩ := farResponse_some (s := fresh s) hx
  refine answers_run (exec_farResponseArrival t owner s) ?_
  rw [hdel, mapReplies_none]
  · obtain ⟨hport, hnoPort, hengine⟩ :=
      delivered_deliver (s := s) hy.resp hy.replies hy.portGen t.val x.req x.hint
    have hmem : SameMemory s (deliver t.val x.req x.hint y) := hy.sameMemory.trans (sameMemory_deliver _ _ _ _)
    exact ⟨(deliver_farResps _ _ _ _).trans hy.farResps, hmem, hport, hnoPort, hengine⟩
  · exact (fget_replies_deliver ho).trans ((congrArg (fget [] · _) hy.replies).trans hmap)

/-- Settles O21: a finished request is answered at its port, its engine or its source tile, and what a port and a
source tile do with responses follows the same delivery. -/
theorem oneResponseForEachRequest : Obligations.OneResponseForEachRequest := by
  refine ⟨fun t id s hmap => ⟨fun r hr hl hw ho => ?_, fun h => ?_⟩, fun t p s => ⟨fun h => ?_, fun r rest h => ?_⟩,
    fun t u s => ?_, fun t owner s hmap => ⟨fun h => ?_, fun x hx ho => ?_⟩⟩
  · have hid : r.id = id := by simpa using List.find?_some hr
    obtain ⟨hreqs, hmem, -⟩ := departed_respond t.val r (retryHint s r) (fresh s)
    rw [hid] at hreqs
    refine answers_responseOffer hmap hr hl hw ho
      ⟨rfl, hreqs, hmem, fun p hg hp hd => ?_, fun hg hp hd => ?_, fun hg => respond_sends (s := fresh s) hg⟩
    · obtain ⟨hdel, hfar⟩ := delivered_respond (t := t.val) (hint := retryHint s r) (s := fresh s) hg
      obtain ⟨hresp, hreplies⟩ := hdel.port p hp hd
      exact ⟨hresp, hfar, hreplies⟩
    · obtain ⟨hdel, hfar⟩ := delivered_respond (t := t.val) (hint := retryHint s r) (s := fresh s) hg
      exact ⟨hdel.noPort (.inr hp), hfar, hdel.engine hp hd⟩
  · refine noEffect_run (exec_responseOffer t id s) ?_
    rw [offerResponse_idle (s := fresh s) h]
    exact mapReplies_none (s := fresh s) hmap
  · exact noEffect_run (exec_responseBeatAck t p s) (ackBeat_none (s := fresh s) h)
  · exact answers_responseBeatAck h
  · exact noEffect_run (exec_responseBeatAck_gateway t u s) rfl
  · refine noEffect_run (exec_farResponseArrival t owner s) ?_
    rw [farResponse_none (s := fresh s) h]
    exact mapReplies_none (s := fresh s) hmap
  · obtain ⟨s', hexec, hfar, hmem, hdel⟩ := answers_farResponseArrival hmap hx ho
    refine ⟨s', hexec, hfar, hmem, fun p hp hd => (hdel.port p hp hd).1, hdel.noPort, fun hp hd => ?_⟩
    obtain ⟨y, hy, htag, hstatus, -, hdata, -⟩ := hdel.engine hp hd
    exact ⟨y, hy, htag, hstatus, hdata⟩

end Sys2Proof.Machine

/-! ## Proofs: flushes of the merge buffer -/

namespace Sys2Proof.Machine

open Sys2Proof

/-! ### Work that enters the queues (R69, R429) -/

/-- `s'` differs from `s` by queued work, by what open requests wait for, and by the counts of superseded
write-backs. -/
structure Enters (s s' : State) : Prop where
  fields : s' = { s with
    dict := s'.dict, count := s'.count, queue := s'.queue, sched := s'.sched, map := s'.map, pool := s'.pool }
  objs : ∀ u k, k < 2 ^ 24 → k / 256 ≠ Obj.writeBacksSuperseded / 256 → getObj s' u k = getObj s u k
  keys : ∀ t, (openReqs s' t).map reqKey = (openReqs s t).map reqKey

theorem Enters.refl (s : State) : Enters s s := ⟨rfl, fun _ _ _ _ => rfl, fun _ => rfl⟩

theorem Enters.trans {a b c : State} (h : Enters a b) (h' : Enters b c) : Enters a c := by
  refine ⟨?_, fun u k hk hn => (h'.objs u k hk hn).trans (h.objs u k hk hn), fun t => (h'.keys t).trans (h.keys t)⟩
  have e := h'.fields
  rw [h.fields] at e
  exact e

theorem Enters.merge {s s' : State} (h : Enters s s') : s'.merge = s.merge := by rw [h.fields]

theorem enters_foldl {α : Type} {f : State → α → State} (hf : ∀ s a, Enters s (f s a)) (l : List α) (s : State) :
    Enters s (l.foldl f s) := by
  induction l generalizing s with
  | nil => exact .refl s
  | cons a l ih => exact (hf s a).trans (ih _)

/-- A change that leaves objects and requests. -/
theorem enters_of {s s' : State}
    (h : s' = { s with count := s'.count, queue := s'.queue, map := s'.map, pool := s'.pool }) : Enters s s' := by
  refine ⟨?_, fun u k _ _ => getObj_congr ?_ u k, fun t => congrArg _ (openReqs_congr ?_ t)⟩ <;> rw [h]

theorem enters_modQueue (t c : Nat) (f : QueueS → QueueS) (s : State) : Enters s (modQueue t c f s) := enters_of rfl

/-- A change of a tile's scheduler that keeps what names its requests. -/
theorem enters_modSched {t : Nat} {f : TileSched → TileSched} (hf : ∀ x, (f x).reqs.map reqKey = x.reqs.map reqKey)
    (s : State) : Enters s (modSched t f s) := by
  refine ⟨rfl, fun _ _ _ _ => rfl, fun u => ?_⟩
  unfold openReqs getSched modSched
  by_cases h : u = t
  · subst h
    rw [fget_fupd_same, hf]
  · rw [fget_fupd_other _ _ _ _ h]

theorem enters_newId (t : Nat) (s : State) : Enters s (newId t s).2 :=
  enters_modSched (f := fun x => { x with nextId := x.nextId + 1 }) (fun _ => rfl) s

theorem enters_modReq {t id : Nat} {f : Req → Req} (hf : ∀ r, reqKey (f r) = reqKey r) (s : State) :
    Enters s (modReq t id f s) := by
  refine enters_modSched (fun x => ?_) s
  rw [List.map_map]
  refine List.map_congr_left fun r _ => ?_
  show reqKey (if r.id = id then f r else r) = reqKey r
  split
  · exact hf r
  · rfl

theorem enters_supersede (t : Nat) {c : Nat} (hc : c < 48) (b row sector mask : Nat) (s : State) :
    Enters s (supersede t c b row sector mask s) := by
  unfold supersede
  dsimp only
  split
  · exact enters_modQueue _ _ _ s
  · refine (enters_modQueue _ _ _ s).trans ⟨rfl, fun u k hk hn => getObj_setObj_obj _ ?_ hk ?_, fun _ => rfl⟩
    · rintro rfl
      simp only [Obj.writeBacksSuperseded] at hn
      omega
    · simp only [Obj.writeBacksSuperseded]
      omega

theorem enters_supersedeBy (t : Nat) {c : Nat} (hc : c < 48) (a : Acc) (s : State) : Enters s (supersedeBy t c a s) := by
  unfold supersedeBy
  dsimp only
  split
  · split
    · exact (enters_supersede t hc _ _ _ _ s).trans (enters_supersede t hc _ _ _ _ _)
    · exact enters_supersede t hc _ _ _ _ s
  · exact enters_supersede t hc _ _ _ _ s
  · exact .refl s

theorem enters_enterDirect (t c : Nat) (a : Acc) (s : State) : Enters s (enterDirect t c a s) := by
  unfold enterDirect takeEntry
  dsimp only
  split
  · split
    · exact (enters_modQueue _ _ _ s).trans (enters_modQueue _ _ _ _)
    · exact enters_modQueue _ _ _ s
  · exact enters_modQueue _ _ _ s

theorem enters_completeAcc (t c : Nat) (a : Acc) (st data bad : Nat) (s : State) :
    Enters s (completeAcc t c a st data bad s) := by
  have hbatch : ∀ x, Enters x (batchEnds t c x) := fun x => enters_of (by rw [batchEnds_fields])
  have hjob : ∀ x, Enters x (jobStep t a x) := fun x => by
    unfold jobStep
    split <;> first
      | exact .refl x
      | exact enters_of rfl
  have hreqs : ∀ x, Enters x (a.reqs.foldl (fun x id => modReq t id (reqTake a st data bad) x) x) := fun x =>
    enters_foldl (fun y id => enters_modReq (f := reqTake a st data bad) (fun _ => rfl) y) _ x
  exact (enters_modQueue t c _ s).trans ((hreqs _).trans ((hbatch _).trans (hjob _)))

theorem enters_flushOne (t : Nat) {c : Nat} (hc : c < 48) (a : Acc) (s : State) : Enters s (flushOne t c a s) := by
  unfold flushOne
  split
  · exact enters_completeAcc _ _ _ _ _ _ s
  · exact (enters_supersedeBy t hc a s).trans ((enters_newId t _).trans (enters_enterDirect _ _ _ _))

/-! ### One flush (R90, R429) -/

@[simp] theorem getMerge_setMerge_same (t i : Nat) (m : Merge) (s : State) : getMerge (setMerge t i m s) t i = m :=
  fget_fset_same _ _ _ _

theorem fget_merge_setMerge_other {t i k : Nat} (m : Merge) (s : State) (h : k ≠ t * 32 + i) :
    fget ({} : Merge) (setMerge t i m s).merge k = fget {} s.merge k :=
  fget_fset_other ({} : Merge) {} s.merge m h

theorem getMerge_congr {s s' : State} (h : s'.merge = s.merge) (t i : Nat) : getMerge s' t i = getMerge s t i := by
  unfold getMerge
  rw [h]

/-- `s'` differs from `s` by flushes by a rule: by entries of the merge buffer, the work these become, and counts. -/
structure Flushes (rule : Nat) (s s' : State) : Prop where
  fields : s' = { s with
    dict := s'.dict, count := s'.count, queue := s'.queue, sched := s'.sched, merge := s'.merge, map := s'.map
    pool := s'.pool }
  objs : ∀ u k, k < 2 ^ 24 → k / 256 ≠ Obj.writeBacksSuperseded / 256 → k ≠ flushObj rule →
    getObj s' u k = getObj s u k
  keys : ∀ t, (openReqs s' t).map reqKey = (openReqs s t).map reqKey

theorem Flushes.refl (rule : Nat) (s : State) : Flushes rule s s := ⟨rfl, fun _ _ _ _ _ => rfl, fun _ => rfl⟩

theorem Flushes.trans {rule : Nat} {a b c : State} (h : Flushes rule a b) (h' : Flushes rule b c) : Flushes rule a c := by
  refine ⟨?_, fun u k h1 h2 h3 => (h'.objs u k h1 h2 h3).trans (h.objs u k h1 h2 h3),
    fun t => (h'.keys t).trans (h.keys t)⟩
  have e := h'.fields
  rw [h.fields] at e
  exact e

theorem Enters.flushes {rule : Nat} {s s' : State} (h : Enters s s') : Flushes rule s s' := by
  refine ⟨?_, fun u k h1 h2 _ => h.objs u k h1 h2, h.keys⟩
  rw [h.fields]

theorem Flushes.sameMemory {rule : Nat} {s s' : State} (h : Flushes rule s s') : SameMemory s s' := by
  refine sameMemory_of ?_ ?_ ?_ ?_ <;> rw [h.fields]

theorem Flushes.out {rule : Nat} {s s' : State} (h : Flushes rule s s') : s'.out = s.out := by rw [h.fields]

theorem flushes_setMerge (rule t i : Nat) (m : Merge) (s : State) : Flushes rule s (setMerge t i m s) :=
  ⟨rfl, fun _ _ _ _ _ => rfl, fun _ => rfl⟩

/-- The count of each flush rule is apart from those of superseded write-backs. -/
theorem flushObj_own (rule : Nat) :
    flushObj rule < 2 ^ 24 ∧ flushObj rule / 256 ≠ Obj.writeBacksSuperseded / 256 ∧ flushObj rule ≠ Obj.mergeEnable := by
  unfold flushObj
  (repeat' split) <;> decide

theorem flushes_bump (rule t : Nat) (s : State) : Flushes rule s (bump t (flushObj rule) 1 s) :=
  ⟨rfl, fun _ _ hk _ hn => getObj_setObj_obj s hn hk (flushObj_own rule).1, fun _ => rfl⟩

theorem enters_countEv (t e q w : Nat) (s : State) : Enters s (countEv t e q w s) :=
  enters_of (by rw [countEv_fields])

theorem flushes_mergeSettle (rule t c i : Nat) (s : State) : Flushes rule s (mergeSettle t c i s) := by
  unfold mergeSettle
  split
  · exact flushes_setMerge _ _ _ _ s
  · exact .refl _ s

/-- An entry that is not valid, or whose flush waits in it already, is not flushed. -/
theorem flushMerge_idle {t i : Nat} (rule : Nat) {s : State}
    (h : (getMerge s t i).valid = false ∨ (getMerge s t i).flushing = true) : flushMerge t i rule s = s := by
  unfold flushMerge
  refine if_pos ?_
  rcases h with h | h <;> simp [h]

/-- The accesses that the flush of an entry sends. -/
def flushList (t i : Nat) (s : State) : List Acc := flushAccs i ((newId t s).1 * 2) (getMerge s t i)

/-- The entry is marked as being flushed, and its requests wait for every access of the flush. -/
def flushBegun (t i : Nat) (s : State) : State :=
  (getMerge s t i).reqs.foldl
    (fun x id => modReq t id (fun r => { r with left := r.left + ((flushList t i s).length - 1) }) x)
    (setMerge t i { getMerge s t i with flushing := true } (newId t s).2)

/-- The flush is counted and its accesses enter the queues. -/
def flushEntered (t i rule : Nat) (s : State) : State :=
  (flushList t i s).foldl (fun x a => flushOne t (translate (getMerge s t i).line).chan a x)
    (countEv t 0x0015 rule 1 (bump t (flushObj rule) 1 (flushBegun t i s)))

theorem flushMerge_open {t i : Nat} (rule : Nat) {s : State} (hv : (getMerge s t i).valid = true)
    (hf : (getMerge s t i).flushing = false) :
    flushMerge t i rule s = mergeSettle t (translate (getMerge s t i).line).chan i (flushEntered t i rule s) :=
  if_neg (by simp [hv, hf])

/-- The entry of a flush that has begun is marked; no object changes. -/
theorem flushBegun_spec (t i rule : Nat) (s : State) : Flushes rule s (flushBegun t i s) ∧
    (flushBegun t i s).merge = (setMerge t i { getMerge s t i with flushing := true } s).merge ∧
    ∀ u k, k < 2 ^ 24 → k / 256 ≠ Obj.writeBacksSuperseded / 256 → getObj (flushBegun t i s) u k = getObj s u k := by
  have hid : Enters s (newId t s).2 := enters_newId t s
  have hreqs : Enters (setMerge t i { getMerge s t i with flushing := true } (newId t s).2) (flushBegun t i s) := by
    refine enters_foldl (fun x id => enters_modReq ?_ x) _ _
    exact fun _ => rfl
  refine ⟨hid.flushes.trans ((flushes_setMerge rule t i _ _).trans hreqs.flushes), hreqs.merge, fun u k hk hn => ?_⟩
  exact (hreqs.objs u k hk hn).trans (hid.objs u k hk hn)

theorem flushEntered_spec (t i rule : Nat) (s : State) : Flushes rule s (flushEntered t i rule s) ∧
    (flushEntered t i rule s).merge = (setMerge t i { getMerge s t i with flushing := true } s).merge ∧
    getObj (flushEntered t i rule s) t (flushObj rule) =
      (getObj s t (flushObj rule) + 1) % 2 ^ objBits (flushObj rule) := by
  obtain ⟨hlt, hown, -⟩ := flushObj_own rule
  obtain ⟨hbegun, hmerge, hobjs⟩ := flushBegun_spec t i rule s
  have henter : Enters (bump t (flushObj rule) 1 (flushBegun t i s)) (flushEntered t i rule s) :=
    (enters_countEv _ _ _ _ _).trans
      (enters_foldl (fun x a => enters_flushOne t (translate_bounds (getMerge s t i).line).1 a x) _ _)
  refine ⟨hbegun.trans ((flushes_bump rule t _).trans henter.flushes), henter.merge.trans hmerge, ?_⟩
  calc getObj (flushEntered t i rule s) t (flushObj rule)
    _ = getObj (bump t (flushObj rule) 1 (flushBegun t i s)) t (flushObj rule) := henter.objs _ _ hlt hown
    _ = (getObj (flushBegun t i s) t (flushObj rule) + 1) % 2 ^ objBits (flushObj rule) := getObj_setObj_same _ _ _ _
    _ = (getObj s t (flushObj rule) + 1) % 2 ^ objBits (flushObj rule) := by rw [hobjs _ _ hlt hown]

theorem flushes_flushMerge (t i rule : Nat) (s : State) : Flushes rule s (flushMerge t i rule s) := by
  cases hv : (getMerge s t i).valid with
  | false => rw [flushMerge_idle rule (.inl hv)]; exact .refl _ s
  | true =>
    cases hf : (getMerge s t i).flushing with
    | true => rw [flushMerge_idle rule (.inr hf)]; exact .refl _ s
    | false =>
      rw [flushMerge_open rule hv hf]
      exact (flushEntered_spec t i rule s).1.trans (flushes_mergeSettle _ _ _ _ _)

/-! ### The entry after its flush, and the other entries (R429) -/

/-- Accesses of slot `i` wait in the merge buffer for entries of channel `c`. -/
def slotWaits (s : State) (t c i : Nat) : Bool := (getQueue s t c).deferred.any (fun a => a.slot = some i)

theorem mergeSettle_waiting {t c i : Nat} {s : State} (h : slotWaits s t c i = true) : mergeSettle t c i s = s := by
  refine if_neg ?_
  rintro ⟨-, hn⟩
  exact hn h

theorem mergeSettle_done {t c i : Nat} {s : State} (hf : (getMerge s t i).flushing = true)
    (h : slotWaits s t c i = false) : mergeSettle t c i s = setMerge t i {} s := by
  refine if_pos ⟨hf, ?_⟩
  unfold slotWaits at h
  simp only [h]
  exact Bool.false_ne_true

theorem slotWaits_mergeSettle (t c i : Nat) (s : State) : slotWaits (mergeSettle t c i s) t c i = slotWaits s t c i := by
  unfold mergeSettle
  split <;> rfl

theorem getMerge_mergeSettle {t c i : Nat} {s : State} (hf : (getMerge s t i).flushing = true) :
    getMerge (mergeSettle t c i s) t i = if slotWaits s t c i then getMerge s t i else {} := by
  cases h : slotWaits s t c i with
  | true => rw [mergeSettle_waiting h, if_pos rfl]
  | false => rw [mergeSettle_done hf h, getMerge_setMerge_same, if_neg Bool.false_ne_true]

theorem fget_merge_mergeSettle {t c i k : Nat} (s : State) (hk : k ≠ t * 32 + i) :
    fget ({} : Merge) (mergeSettle t c i s).merge k = fget {} s.merge k := by
  unfold mergeSettle
  split
  · exact fget_merge_setMerge_other {} s hk
  · rfl

/-- What a flush leaves of its entry: it waits for the accesses that have no queue entry, or is free. -/
theorem getMerge_flushMerge {t i : Nat} (rule : Nat) {s : State} (hv : (getMerge s t i).valid = true)
    (hf : (getMerge s t i).flushing = false) : getMerge (flushMerge t i rule s) t i =
      if slotWaits (flushMerge t i rule s) t (translate (getMerge s t i).line).chan i
        then { getMerge s t i with flushing := true } else {} := by
  have hm : getMerge (flushEntered t i rule s) t i = { getMerge s t i with flushing := true } :=
    (getMerge_congr (flushEntered_spec t i rule s).2.1 t i).trans (getMerge_setMerge_same _ _ _ _)
  rw [flushMerge_open rule hv hf, slotWaits_mergeSettle, getMerge_mergeSettle (by rw [hm]), hm]

theorem fget_merge_flushMerge {t i k : Nat} (rule : Nat) (s : State) (hk : k ≠ t * 32 + i) :
    fget ({} : Merge) (flushMerge t i rule s).merge k = fget {} s.merge k := by
  cases hv : (getMerge s t i).valid with
  | false => rw [flushMerge_idle rule (.inl hv)]
  | true =>
    cases hf : (getMerge s t i).flushing with
    | true => rw [flushMerge_idle rule (.inr hf)]
    | false =>
      rw [flushMerge_open rule hv hf, fget_merge_mergeSettle _ hk, (flushEntered_spec t i rule s).2.1]
      exact fget_merge_setMerge_other _ s hk

theorem getObj_flushMerge {t i : Nat} (rule : Nat) {s : State} (hv : (getMerge s t i).valid = true)
    (hf : (getMerge s t i).flushing = false) : getObj (flushMerge t i rule s) t (flushObj rule) =
      (getObj s t (flushObj rule) + 1) % 2 ^ objBits (flushObj rule) := by
  have hdict : ∀ x, (mergeSettle t (translate (getMerge s t i).line).chan i x).dict = x.dict := fun x => by
    unfold mergeSettle
    split <;> rfl
  rw [flushMerge_open rule hv hf, getObj_congr (hdict _), (flushEntered_spec t i rule s).2.2]

/-! ### The flush of an entry held too long (R90) -/

/-- The entry would be held for longer than the limit in force by the next tick (R90). -/
def heldTooLong (s : State) (t i : Nat) : Prop :=
  holdLimit s t < s.time.elapsed - (getMerge s t i).stamp + 10

theorem mergeHoldFlush_due {t i : Nat} {s : State} (hv : (getMerge s t i).valid = true) (ht : tripped s = false)
    (h : heldTooLong s t i) : mergeHoldFlush t i s = flushMerge t i 2 s := if_pos ⟨hv, by simp [ht], h⟩

theorem mergeHoldFlush_idle {t i : Nat} {s : State} (h : (getMerge s t i).valid = false ∨
    (getMerge s t i).flushing = true ∨ tripped s = true ∨ ¬ heldTooLong s t i) : mergeHoldFlush t i s = s := by
  unfold mergeHoldFlush
  dsimp only
  split
  · next hdue =>
    obtain ⟨hv, ht, hlong⟩ := hdue
    refine flushMerge_idle 2 (.inr ?_)
    rcases h with h | h | h | h
    · simp [h] at hv
    · exact h
    · exact absurd h ht
    · exact absurd hlong h
  · rfl

/-- MERGE_HOLD_FLUSH of an entry that is due. -/
theorem answers_mergeHoldFlush {t : TileN} {i : Fin 32} {s : State} (hv : (getMerge s t.val i.val).valid = true)
    (hf : (getMerge s t.val i.val).flushing = false) (ht : tripped s = false) (h : heldTooLong s t.val i.val) :
    Answers (.mergeHoldFlush t i) s (fun s' =>
      getMerge s' t.val i.val =
        (if slotWaits s' t.val (translate (getMerge s t.val i.val).line).chan i.val
         then { getMerge s t.val i.val with flushing := true } else {}) ∧
      (∀ k, k ≠ t.val * 32 + i.val → fget ({} : Merge) s'.merge k = fget {} s.merge k) ∧
      getObj s' t.val Obj.mergeHoldFlushes = (getObj s t.val Obj.mergeHoldFlushes + 1) % 2 ^ 64 ∧
      (openReqs s' t.val).map reqKey = (openReqs s t.val).map reqKey ∧ SameMemory s s') := by
  refine answers_run (exec_mergeHoldFlush t i s) ?_
  rw [mergeHoldFlush_due (s := fresh s) hv ht h]
  have hflush := flushes_flushMerge t.val i.val 2 (fresh s)
  have hmem : SameMemory s (flushMerge t.val i.val 2 (fresh s)) := hflush.sameMemory
  have hkeys : _ = (openReqs s t.val).map reqKey := hflush.keys t.val
  exact ⟨getMerge_flushMerge 2 (s := fresh s) hv hf, fun k hk => fget_merge_flushMerge 2 (fresh s) hk,
    getObj_flushMerge 2 (s := fresh s) hv hf, hkeys, hmem⟩

/-! ### MergeEnable 0 (R92) -/

/-- No flush of the slot's entry is due: it is free, or its flush waits in it. -/
def slotSettled (s : State) (t i : Nat) : Prop := (getMerge s t i).valid = true → (getMerge s t i).flushing = true

theorem slotSettled_flushMerge_same (t i rule : Nat) (s : State) : slotSettled (flushMerge t i rule s) t i := by
  intro hvalid
  cases hv : (getMerge s t i).valid with
  | false =>
    rw [flushMerge_idle rule (.inl hv), hv] at hvalid
    cases hvalid
  | true =>
    cases hf : (getMerge s t i).flushing with
    | true => rw [flushMerge_idle rule (.inr hf), hf]
    | false =>
      rw [getMerge_flushMerge rule hv hf] at hvalid ⊢
      split at hvalid
      · next h => rw [if_pos h]
      · cases hvalid

theorem slotSettled_flushMerge {t i j : Nat} (rule : Nat) {s : State} (h : slotSettled s t j) :
    slotSettled (flushMerge t i rule s) t j := by
  by_cases hj : j = i
  · rw [hj]
    exact slotSettled_flushMerge_same t i rule s
  · have hsame : getMerge (flushMerge t i rule s) t j = getMerge s t j := fget_merge_flushMerge rule s (by omega)
    unfold slotSettled at h ⊢
    rw [hsame]
    exact h

/-- Flushes of a list of slots settle these, and keep settled what is. -/
theorem slotSettled_flushes {t j : Nat} (rule : Nat) (l : List (Nat × Merge)) {s : State}
    (h : slotSettled s t j ∨ ∃ e ∈ l, e.1 = j) : slotSettled (l.foldl (fun s e => flushMerge t e.1 rule s) s) t j := by
  induction l generalizing s with
  | nil => exact h.resolve_right (by simp)
  | cons e l ih =>
    refine ih ?_
    rcases h with h | ⟨x, hx, rfl⟩
    · exact .inl (slotSettled_flushMerge rule h)
    · rcases List.mem_cons.mp hx with rfl | hx
      · exact .inl (slotSettled_flushMerge_same _ _ _ _)
      · exact .inr ⟨x, hx, rfl⟩

/-- A value that is not the default stands in the map. -/
theorem mem_of_fget_ne {α : Type} {d : α} {k : Nat} {m : FMap α} (h : fget d m k ≠ d) : (k, fget d m k) ∈ m := by
  induction m with
  | nil => exact absurd rfl h
  | cons e r ih =>
    obtain ⟨k', v⟩ := e
    by_cases hk : k' = k
    · subst hk
      simp [fget]
    · rw [fget, if_neg hk] at h ⊢
      exact List.mem_cons_of_mem _ (ih h)

/-- An entry with no flush in it is among those a flush of all takes. -/
theorem mem_mergeOf {s : State} {t i : Nat} (hi : i < 32) (h : ¬ slotSettled s t i) : ∃ e ∈ mergeOf s t, e.1 = i := by
  unfold slotSettled at h
  obtain ⟨hv, hf⟩ := Classical.not_imp.mp h
  have hne : getMerge s t i ≠ {} := fun e => by rw [e] at hv; cases hv
  refine ⟨_, List.mem_map.mpr ⟨_, List.mem_filter.mpr ⟨mem_of_fget_ne hne, ?_⟩, rfl⟩, ?_⟩
  · simp only [decide_eq_true_eq]
    exact ⟨by omega, hv, hf⟩
  · show (t * 32 + i) % 32 = i
    omega

theorem flushes_flushWhere (t rule : Nat) (p : Merge → Bool) (s : State) : Flushes rule s (flushWhere t rule p s) := by
  unfold flushWhere
  generalize (mergeOf s t).filter _ = l
  induction l generalizing s with
  | nil => exact .refl _ s
  | cons e l ih => exact (flushes_flushMerge t e.1 rule s).trans (ih _)

/-- After a flush of all no entry is left without a flush in it. -/
theorem slotSettled_flushWhere (t rule : Nat) (s : State) {i : Nat} (hi : i < 32) :
    slotSettled (flushWhere t rule (fun _ => true) s) t i := by
  unfold flushWhere
  rw [List.filter_eq_self.mpr (fun _ _ => rfl)]
  refine slotSettled_flushes rule _ ?_
  by_cases h : slotSettled s t i
  · exact .inl h
  · exact .inr (mem_mergeOf hi h)

theorem writeMergeEnable_bad {t v : Nat} (s : State) (h : 1 < v) : writeMergeEnable t v s = answer stBadFormat s :=
  if_pos h

theorem writeMergeEnable_one (t : Nat) (s : State) : writeMergeEnable t 1 s = storeRws t Obj.mergeEnable 1 s := rfl

theorem writeMergeEnable_zero (t : Nat) (s : State) :
    writeMergeEnable t 0 s = flushWhere t 4 (fun _ => true) (storeRws t Obj.mergeEnable 0 s) := rfl

/-- An object kept in the Copybook, once stored: the answer is OK, and memory is as it was. -/
theorem storeRws_spec {u k v : Nat} (s : State) (hk : k < 2 ^ 24) (hd : (u, k) ≠ (dev, Obj.deviceLogDropped))
    (hv : v < 2 ^ objBits k) : getObj (storeRws u k v s) u k = v ∧ (storeRws u k v s).out.status = stOk ∧
      SameMemory s (storeRws u k v s) := by
  have hside := side_storeRws u k v s
  exact ⟨((recordObj_frame u k v (storeObj u k v s)).2 u k hk hd).trans (getObj_setObj_fits s hv), hside.status,
    SameMemory.trans (b := storeObj u k v s) (sameMemory_of rfl rfl rfl rfl) hside.books.sameMemory⟩

theorem answers_mergeEnableWrite_zero {t : TileN} {v : BitVec 8} {s : State} (h : v.toNat = 0) :
    Answers (.mergeEnableWrite t v) s (fun s' => s'.out.status = stOk ∧ getObj s' t.val Obj.mergeEnable = 0 ∧
      (∀ i < 32, slotSettled s' t.val i) ∧ SameMemory s s') := by
  refine answers_run (exec_mergeEnableWrite t v s) ?_
  rw [h, writeMergeEnable_zero]
  obtain ⟨hobj, hstatus, hmem⟩ := storeRws_spec (u := t.val) (k := Obj.mergeEnable) (v := 0) (fresh s) (by decide)
    (by simp [Obj.mergeEnable, Obj.deviceLogDropped]) (by decide)
  generalize storeRws t.val Obj.mergeEnable 0 (fresh s) = x at hobj hstatus hmem
  have hflush := flushes_flushWhere t.val 4 (fun _ => true) x
  refine ⟨(congrArg Out.status hflush.out).trans hstatus,
    (hflush.objs _ _ (by decide) (by decide) (by decide)).trans hobj,
    fun i hi => slotSettled_flushWhere t.val 4 x hi, ?_⟩
  have hmem' : SameMemory s x := hmem
  exact hmem'.trans hflush.sameMemory

end Sys2Proof.Machine

/-! ## Proofs: the picker on a lone read -/

namespace Sys2Proof.Machine

open Sys2Proof

/-! ### A read of the best-effort tier with nothing issued (R71) -/

/-- A best-effort read that waits for its first command, promoted by none. -/
structure PlainRead (a : Acc) : Prop where
  kind : a.kind = .read
  stage : a.stage = 0
  pass : a.pass = false
  promo : a.promo = 9
  low : a.low = false
  reg : a.reg = none
  job : a.job = .none
  prow : a.prow = none

section
variable {a : Acc} (h : PlainRead a) (s : State) (t c : Nat)
include h

theorem PlainRead.tierOf_eq : tierOf s t a = 1 := by
  unfold tierOf
  simp [h.low, h.pass, h.reg, h.promo]

theorem PlainRead.not_classless : classless a = false := by
  unfold classless
  rw [h.kind, h.job]
  rfl

theorem PlainRead.not_isWrite : isWrite a = false := by
  unfold isWrite
  rw [h.kind]

theorem PlainRead.unissuedPart_eq : unissuedPart s a = true := by
  unfold unissuedPart byLines
  simp [h.kind, h.stage]

theorem PlainRead.asksRow_eq : asksRow s a = true := by
  unfold asksRow
  rw [h.kind]

theorem PlainRead.bounceReady_eq : bounceReady s t c a = true := by
  unfold bounceReady
  rw [h.kind]

theorem PlainRead.not_follows : follows s t c a = false := by
  unfold follows
  rw [h.kind]

theorem PlainRead.targetRow_eq : targetRow s t c a = physRow s t c a.bank a.row := by
  unfold targetRow
  rw [h.prow]
  rfl

end

/-! ### The channel in which it is the only work -/

/-- A plain read is the only work of its channel, and its bank is precharged with no command on its way. -/
structure LoneRead (s : State) (t c : Nat) (a : Acc) : Prop where
  plain : PlainRead a
  rq : (getQueue s t c).rq = [a]
  wq : (getQueue s t c).wq = []
  deferred : (getQueue s t c).deferred = []
  closed : getBank s t c a.bank = .closed
  quiet : bankPending s t c a.bank = false

section
variable {s : State} {t c : Nat} {a : Acc} (h : LoneRead s t c a)
include h

theorem LoneRead.bankHolder_eq (b : Nat) : bankHolder s t c b = none := by
  unfold bankHolder
  simp [h.rq, h.wq, h.plain.stage]

theorem LoneRead.bankFree_eq (b id : Nat) : bankFree s t c b id = true := by
  unfold bankFree
  rw [h.bankHolder_eq]

/-- No write is in its way (R80). -/
theorem LoneRead.dirOk_eq (tier : Nat) : dirOk s t c tier a = true := by
  have hstuck : batchStuck s t c = true := by
    unfold batchStuck beWrites
    simp [h.wq]
  unfold dirOk
  simp [hstuck, h.plain.not_isWrite]

theorem LoneRead.bankWants_eq (b : Nat) : bankWants s t c b = if a.bank = b then [a] else [] := by
  have hdir : dirOk s t c (tierOf s t a) a = true := h.dirOk_eq _
  unfold bankWants bankQueue
  by_cases hb : a.bank = b <;>
    simp [h.rq, h.wq, hb, hdir, h.plain.unissuedPart_eq s, h.plain.bounceReady_eq s t c, h.bankFree_eq]

/-- Its row is not open (R77). -/
theorem LoneRead.not_nearEligible : nearEligible s t c a = false := by
  have hready : bankReady s t c a = false := by
    unfold bankReady
    simp [h.closed, h.plain.asksRow_eq s, openRow]
  unfold nearEligible
  simp [hready]

theorem LoneRead.not_eligible : eligible s t c a = false := by
  unfold eligible
  simp [h.not_nearEligible]

end

/-! ### Steps of a pick that leave it so -/

/-- `s'` differs from `s` by objects and by the state of queues; those of channel `c` hold the same work. -/
structure SameWork (s s' : State) (t c : Nat) : Prop where
  fields : s' = { s with queue := s'.queue, dict := s'.dict }
  rq : (getQueue s' t c).rq = (getQueue s t c).rq
  wq : (getQueue s' t c).wq = (getQueue s t c).wq
  deferred : (getQueue s' t c).deferred = (getQueue s t c).deferred

theorem SameWork.refl (s : State) (t c : Nat) : SameWork s s t c := ⟨rfl, rfl, rfl, rfl⟩

theorem SameWork.trans {x y z : State} {t c : Nat} (h : SameWork x y t c) (h' : SameWork y z t c) :
    SameWork x z t c := by
  refine ⟨?_, h'.rq.trans h.rq, h'.wq.trans h.wq, h'.deferred.trans h.deferred⟩
  have e := h'.fields
  rw [h.fields] at e
  exact e

theorem sameWork_bump (t c u k n : Nat) (s : State) : SameWork s (bump u k n s) t c := ⟨rfl, rfl, rfl, rfl⟩

/-- A change of the channel's queue in anything but the work it holds. -/
theorem sameWork_modQueue {t c : Nat} {f : QueueS → QueueS} {s : State}
    (h : (f (getQueue s t c)).rq = (getQueue s t c).rq ∧ (f (getQueue s t c)).wq = (getQueue s t c).wq ∧
      (f (getQueue s t c)).deferred = (getQueue s t c).deferred) : SameWork s (modQueue t c f s) t c := by
  obtain ⟨hr, hw, hd⟩ := h
  refine ⟨rfl, ?_, ?_, ?_⟩ <;> rw [getQueue_modQueue]
  · exact hr
  · exact hw
  · exact hd

theorem LoneRead.same {s s' : State} {t c : Nat} {a : Acc} (h : LoneRead s t c a) (hs : SameWork s s' t c) :
    LoneRead s' t c a where
  plain := h.plain
  rq := hs.rq.trans h.rq
  wq := hs.wq.trans h.wq
  deferred := hs.deferred.trans h.deferred
  closed := by
    rw [hs.fields]
    exact h.closed
  quiet := by
    rw [hs.fields]
    exact h.quiet

theorem SameWork.physRow {s s' : State} {t c : Nat} (h : SameWork s s' t c) (t' c' b row : Nat) :
    physRow s' t' c' b row = physRow s t' c' b row := by
  rw [h.fields]
  rfl

/-- Without work of the block map there is none to feed (R70). -/
theorem feedMap_quiet {s : State} {t : Nat} (h : mapQuiet s t) : feedMap t s = s := by
  obtain ⟨hpass, hbest, hreqs⟩ := h
  have hnone : ∀ pass, (getSched s t).reqs.find?
      (fun r => r.requester = 0x60 ∧ reqFifo r = pass ∧ r.waiting ≠ 0) = none :=
    fun pass => List.find?_eq_none.mpr fun r hr hw => hreqs r hr (by simpa using (of_decide_eq_true hw).1)
  have hfeed : ∀ pass get put fuel, get (getSched s t) = {} → feedFifo t pass get put fuel s = s := by
    intro pass get put fuel hget
    cases fuel with
    | zero => rfl
    | succ fuel =>
      unfold feedFifo
      dsimp only
      rw [hnone, hget]
  unfold feedMap
  rw [hfeed _ _ _ _ hpass]
  exact hfeed _ _ _ _ hbest

/-- Without a write there is no copy to turn into a bounce copy. -/
theorem turnCopies_noWrites {s : State} {t c : Nat} (h : (getQueue s t c).wq = []) : turnCopies t c s = s := by
  unfold turnCopies
  simp [h]

theorem sameWork_turnBatch (s : State) (t c : Nat) : SameWork s (turnBatch t c s) t c := by
  unfold turnBatch turnRead
  dsimp only
  split
  · split
    · exact sameWork_modQueue ⟨rfl, rfl, rfl⟩
    · exact .refl s t c
  · split
    · exact SameWork.trans (sameWork_modQueue ⟨rfl, rfl, rfl⟩) (sameWork_bump _ _ _ _ _ _)
    · exact .refl s t c

/-- Visits that find no access choose none. -/
theorem drrVisits_none {s : State} {t : Nat} {has : Nat → Bool} {pick : Nat → Option Acc} (hp : ∀ k, pick k = none)
    (fuel i : Nat) (d : Drr) (r : Nat) : (drrVisits s t has pick fuel i d r).1 = none := by
  induction fuel generalizing i d r with
  | zero => rfl
  | succ fuel ih =>
    unfold drrVisits
    simp only [hp]
    split
    · exact ih _ _ _
    · exact ih _ _ _

section
variable {s : State} {t c : Nat} {a : Acc} (h : LoneRead s t c a)
include h

/-- Nothing waits for the read that could promote it (R72). -/
theorem LoneRead.promote_eq : promote s t [a] = [a] := by
  have hup : ¬ 9 < tierOf s t a := by rw [h.plain.tierOf_eq]; decide
  unfold promote sortBy insertBy
  simp [hup]

theorem LoneRead.sameWork_promoteQueues : SameWork s (promoteQueues t c s) t c := by
  unfold promoteQueues
  refine sameWork_modQueue ?_
  simp [h.rq, h.wq, h.deferred, h.promote_eq]

/-- No gate is what holds the read back (R144). -/
theorem LoneRead.noteGateWaits_eq : noteGateWaits t c s = s := by
  unfold noteGateWaits
  simp [h.rq, h.wq, h.not_nearEligible]

/-! ### One tier of the pick (R77, R78) -/

theorem LoneRead.pickClassless_eq (tier : Nat) : pickClassless s t c tier = none := by
  unfold pickClassless
  simp [h.rq, h.wq, h.plain.not_classless, oldest, minBy]

/-- The deficit round robin chooses nothing: the read's row is not open. -/
theorem LoneRead.pickDrr_none (tier : Nat) : ∃ s', pickDrr t c tier s = (none, s') ∧ SameWork s s' t c := by
  have hput : ∀ d : Drr, SameWork s (modQueue t c
      (fun q => if tier = 0 then { q with drrPass := d } else { q with drrBest := d }) s) t c := fun d =>
    sameWork_modQueue (by split <;> exact ⟨rfl, rfl, rfl⟩)
  have hpick : ∀ k, oldest ((tierQueue s t c tier).filter
      (fun x => x.cls = k && dirOk s t c tier x && eligible s t c x)) = none := fun k => by
    have hnil : (tierQueue s t c tier).filter
        (fun x => x.cls = k && dirOk s t c tier x && eligible s t c x) = [] := by
      refine List.filter_eq_nil_iff.mpr fun x hx => ?_
      have hx : x ∈ (getQueue s t c).rq ++ (getQueue s t c).wq := (List.mem_filter.mp hx).1
      rw [h.rq, h.wq] at hx
      obtain rfl : x = a := by simpa using hx
      simp [h.not_eligible]
    rw [hnil]
    rfl
  unfold pickDrr
  dsimp only
  split
  · exact ⟨_, rfl, hput _⟩
  · exact ⟨_, Prod.ext (drrVisits_none hpick _ _ _ _) rfl, (hput _).trans (sameWork_bump _ _ _ _ _ _)⟩

/-- The row of the read, in its own tier and bank, is the one to open (R78). -/
theorem LoneRead.bankPrep_act : bankPrep s t c 1 a.bank = .act a.id (physRow s t c a.bank a.row) := by
  have hwants : bankWants s t c a.bank = [a] := by rw [h.bankWants_eq, if_pos rfl]
  have hmine : [a].filter (fun x => tierOf s t x = 1) = [a] := by simp [h.plain.tierOf_eq]
  have hothers : ∀ p : Acc → Bool, (if ([a].filter p).isEmpty then [a] else [a].filter p) = [a] := fun p => by
    cases hp : p a <;> simp [hp]
  have hone : oldest [a] = some a := rfl
  unfold bankPrep
  dsimp only
  rw [hwants, if_neg (by simp [h.plain.tierOf_eq, h.quiet]), h.closed, hmine]
  simp only [hothers, hone, h.plain.asksRow_eq s, h.plain.targetRow_eq s t c, if_true]

/-- Nothing is due in another bank, or for another tier. -/
theorem LoneRead.bankPrep_none {tier b : Nat} (hn : tier ≠ 1 ∨ a.bank ≠ b) : bankPrep s t c tier b = .none := by
  have hmine : (bankWants s t c b).filter (fun x => tierOf s t x = tier) = [] := by
    rw [h.bankWants_eq]
    split
    · next hb => simp [h.plain.tierOf_eq, (hn.resolve_right (not_not.mpr hb)).symm]
    · rfl
  unfold bankPrep
  dsimp only
  rw [hmine]
  split
  · rfl
  · split <;> rfl

/-- A tier to which the read does not belong has nothing to do. -/
theorem LoneRead.firstPrep_none {tier : Nat} (hn : tier ≠ 1) (p : Nat → Bool) (l : List Nat) :
    firstPrep s t c tier p l = none := by
  induction l with
  | nil => rfl
  | cons b l ih =>
    unfold firstPrep
    rw [h.bankPrep_none (.inl hn), ih]
    split <;> rfl

/-- In its own tier, the first preparation is that of its bank. -/
theorem LoneRead.firstPrep_act {l : List Nat} (hb : a.bank ∈ l) : firstPrep s t c 1 (fun _ => true) l =
    some (a.bank, .act a.id (physRow s t c a.bank a.row)) := by
  induction l with
  | nil => cases hb
  | cons b l ih =>
    unfold firstPrep
    rw [if_neg (by simp)]
    by_cases e : a.bank = b
    · rw [← e, h.bankPrep_act]
    · rw [h.bankPrep_none (.inr e)]
      exact ih ((List.mem_cons.mp hb).resolve_left e)

/-- The pass tier sends nothing (R71). -/
theorem LoneRead.pickTier_pass : ∃ s', pickTier t c 0 s = (false, s') ∧ SameWork s s' t c := by
  obtain ⟨x, hdrr, hsame⟩ := h.pickDrr_none 0
  refine ⟨x, ?_, hsame⟩
  unfold pickTier
  simp only [h.pickClassless_eq, if_neg (show ¬ 0 ≥ 2 by decide), hdrr]
  rw [(h.same hsame).firstPrep_none (by decide)]

/-- The best-effort tier opens the row of the read (R78). -/
theorem LoneRead.pickTier_bestEffort (hb : a.bank < 16) : ∃ s', SameWork s s' t c ∧
    pickTier t c 1 s = (true, sendPrep t c a.bank (.act a.id (physRow s' t c a.bank a.row)) s') := by
  obtain ⟨x, hdrr, hsame⟩ := h.pickDrr_none 1
  refine ⟨x, hsame, ?_⟩
  unfold pickTier
  simp only [h.pickClassless_eq, if_neg (show ¬ 1 ≥ 2 by decide), hdrr]
  rw [(h.same hsame).firstPrep_act (List.mem_range.mpr hb)]

theorem LoneRead.pickTiers_act (hb : a.bank < 16) : ∃ s', SameWork s s' t c ∧
    pickTiers t c [0, 1, 2, 3] s = sendPrep t c a.bank (.act a.id (physRow s' t c a.bank a.row)) s' := by
  obtain ⟨x, hpass, hx⟩ := h.pickTier_pass
  obtain ⟨y, hy, hbest⟩ := (h.same hx).pickTier_bestEffort hb
  refine ⟨y, hx.trans hy, ?_⟩
  unfold pickTiers
  rw [hpass]
  dsimp only
  unfold pickTiers
  rw [hbest]

/-- The pick of a channel whose only work is the read: the row that it needs is opened (R77, R78). -/
theorem LoneRead.channelPick_act (hb : a.bank < 16) (ht : tempReady s t c = false) (hp : pickerRuns s t c = true)
    (hw : windowOpen s t c = false) (hmap : mapQuiet s t) : ∃ s', SameWork s s' t c ∧
      channelPick t c s = sendPrep t c a.bank (.act a.id (physRow s' t c a.bank a.row)) s' := by
  have hprom := h.sameWork_promoteQueues
  have hturn := hprom.trans (sameWork_turnBatch (promoteQueues t c s) t c)
  obtain ⟨x, hx, hpick⟩ := (h.same hturn).pickTiers_act hb
  refine ⟨x, hturn.trans hx, ?_⟩
  have hfollow : ((getQueue s t c).rq ++ (getQueue s t c).wq).find? (follows s t c) = none := by
    simp [h.rq, h.wq, h.plain.not_follows]
  unfold channelPick
  simp only [ht, hp, hw, hfollow, feedMap_quiet hmap, turnCopies_noWrites h.wq, (h.same hturn).noteGateWaits_eq, hpick]
  rfl

end

/-! ### The command that a pick sends -/

theorem down_sendDown (t c : Nat) (d : Down) (s : State) :
    (getLayer (sendDown t c d s) t c).down = (getLayer s t c).down ++ [d] := by
  rw [sendDown, getLayer_modLayer]

theorem sameMemory_sendDown (t c : Nat) (d : Down) (s : State) : SameMemory s (sendDown t c d s) :=
  sameMemory_modLayer t c (f := fun l => { l with down := l.down ++ [d] }) (fun _ => rfl) s

/-- An ACT sent ahead for a read goes down behind the words already sent; its access is marked and stays. -/
theorem sendPrep_act {s : State} {t c b row : Nat} {a : Acc} (hq : (getQueue s t c).rq = [a]) :
    (getLayer (sendPrep t c b (.act a.id row) s) t c).down =
        (getLayer s t c).down ++ [{ word := rowWord b row, acc := a.id }] ∧
      SameMemory s (sendPrep t c b (.act a.id row) s) ∧ (sendPrep t c b (.act a.id row) s).bank = s.bank ∧
      (getQueue (sendPrep t c b (.act a.id row) s) t c).rq = [{ a with page := max a.page 1 }] := by
  have hmark : (getQueue (modAcc t c a.id (fun a => { a with page := max a.page 1 }) s) t c).rq =
      [{ a with page := max a.page 1 }] := by
    unfold modAcc
    rw [getQueue_modQueue, hq]
    simp
  exact ⟨down_sendDown _ _ _ _, (sameMemory_of rfl rfl rfl rfl).trans (sameMemory_sendDown _ _ _ _), rfl, hmark⟩

/-- CHANNEL_PICK where a plain read is all that waits, and its bank is precharged. -/
theorem answers_channelPick_act {t : TileN} {c : ChanN} {s : State} {a : Acc} (h : LoneRead s t.val c.val a)
    (hb : a.bank < 16) (ht : tempReady s t.val c.val = false) (hp : pickerRuns s t.val c.val = true)
    (hw : windowOpen s t.val c.val = false) (hmap : mapQuiet s t.val) :
    Answers (.channelPick t c) s (fun s' =>
      (getLayer s' t.val c.val).down = (getLayer s t.val c.val).down ++
        [{ word := rowWord a.bank (physRow s t.val c.val a.bank a.row), acc := a.id }] ∧
      SameMemory s s' ∧ s'.bank = s.bank ∧
      ∃ x, (getQueue s' t.val c.val).rq = [x] ∧ x.id = a.id ∧ x.stage = 0) := by
  have hf : LoneRead (fresh s) t.val c.val a := ⟨h.plain, h.rq, h.wq, h.deferred, h.closed, h.quiet⟩
  obtain ⟨x, hx, hpick⟩ := hf.channelPick_act hb ht hp hw hmap
  refine answers_run (exec_channelPick t c s) ?_
  rw [hpick, hx.physRow]
  obtain ⟨hdown, hmem, hbank, hrq⟩ := sendPrep_act (s := x) (t := t.val) (c := c.val) (b := a.bank)
    (row := physRow (fresh s) t.val c.val a.bank a.row) (hx.rq.trans hf.rq)
  have hlayer : x.layer = s.layer := by rw [hx.fields]; rfl
  have hbanks : x.bank = s.bank := by rw [hx.fields]; rfl
  have hsame : SameMemory s x := by
    rw [hx.fields]
    exact sameMemory_of rfl rfl rfl rfl
  rw [getLayer_congr hlayer] at hdown
  exact ⟨hdown, hsame.trans hmem, hbank.trans hbanks, _, hrq, rfl, h.plain.stage⟩

/-! ### The temperature sample that a channel owes (R286) -/

theorem channelPick_temp {t c : Nat} {s : State} (h : tempReady s t c = true) : channelPick t c s = sendTemp t c s :=
  if_pos h

theorem channelPick_idle {t c : Nat} {s : State} (ht : tempReady s t c = false) (hp : pickerRuns s t c = false) :
    channelPick t c s = s := by
  unfold channelPick
  rw [if_neg (by simp [ht]), if_pos (by simp [hp])]

theorem sendTemp_spec (t c : Nat) (s : State) :
    sendTemp t c s = { s with layer := (sendTemp t c s).layer } ∧ SameMemory s (sendTemp t c s) ∧
      getLayer (sendTemp t c s) t c = { getLayer s t c with
        tempDue := false, down := (getLayer s t c).down ++ [{ word := opWord 9 0 (fld 4 6 2) }] } := by
  refine ⟨rfl, ?_, ?_⟩
  · exact (sameMemory_modLayer t c (f := fun l => { l with tempDue := false }) (fun _ => rfl) s).trans
      (sameMemory_sendDown _ _ _ _)
  · unfold sendTemp sendDown
    rw [getLayer_modLayer, getLayer_modLayer]

/-! ### A row left open without use (R79) -/

/-- What keeps an open row from being precharged for its idleness. -/
def rowKept (s : State) (t c b r : Nat) : Prop :=
  pickerRuns s t c = false ∨ windowOpen s t c = true ∨ bankPending s t c b = true ∨ (bankHolder s t c b).isSome = true ∨
    (∃ a ∈ bankQueue s t c b, targetRow s t c a = r) ∨
    s.time.elapsed < (getPage s t c b).lastAccess + getObj s t Obj.openRowIdle

/-- The model's own condition, in its order. -/
theorem rowKept_iff (s : State) (t c b r : Nat) : rowKept s t c b r ↔
    (¬ pickerRuns s t c ∨ windowOpen s t c ∨ bankPending s t c b ∨ (bankHolder s t c b).isSome ∨
      s.time.elapsed < (getPage s t c b).lastAccess + getObj s t Obj.openRowIdle ∨
      (bankQueue s t c b).any (fun a => targetRow s t c a = r)) := by
  unfold rowKept
  simp only [Bool.not_eq_true, List.any_eq_true, decide_eq_true_eq]
  exact or_congr_right (or_congr_right (or_congr_right (or_congr_right or_comm)))

theorem idlePrecharge_kept {s : State} {t c b r : Nat} (hb : getBank s t c b = .opened r) (h : rowKept s t c b r) :
    idlePrecharge t c b s = s := by
  unfold idlePrecharge
  simp only [hb]
  exact if_pos ((rowKept_iff s t c b r).mp h)

theorem idlePrecharge_due {s : State} {t c b r : Nat} (hb : getBank s t c b = .opened r) (h : ¬ rowKept s t c b r) :
    idlePrecharge t c b s = sendDown t c { word := opWord 3 b 0 } s := by
  unfold idlePrecharge
  simp only [hb]
  exact if_neg (fun hk => h ((rowKept_iff s t c b r).mpr hk))

theorem answers_openRowIdlePrecharge {t : TileN} {c : ChanN} {b : BankN} {r : Nat} {s : State}
    (hb : getBank s t.val c.val b.val = .opened r) (h : ¬ rowKept s t.val c.val b.val r) :
    Answers (.openRowIdlePrecharge t c b) s (fun s' =>
      (getLayer s' t.val c.val).down = (getLayer s t.val c.val).down ++ [{ word := opWord 3 b.val 0 }] ∧
      SameMemory s s' ∧ s' = { s with layer := s'.layer, out := {} }) := by
  refine answers_run (exec_openRowIdlePrecharge t c b s) ?_
  rw [idlePrecharge_due (s := fresh s) hb h]
  exact ⟨down_sendDown t.val c.val _ (fresh s), sameMemory_sendDown t.val c.val _ (fresh s), rfl⟩

/-- Settles O23: a flush by its hold limit and by MergeEnable, and what the picker sends for a lone read, a
temperature sample and an idle row. -/
theorem mergesFlushAndBanksPrepare : Obligations.MergesFlushAndBanksPrepare := by
  refine ⟨⟨fun t i s => ⟨fun hv hf ht h => ?_, fun h => ?_⟩, fun t v s => ⟨fun h => ?_, fun h => ?_, fun h => ?_⟩⟩,
    fun t c s => ⟨fun ht hp => ?_, fun ht => ?_, fun a ht hp hw hreqs hpass hbest hrq hwq hdef hkind hstage hnp hpromo
      hlow hreg hjob hprow hbank hclosed hquiet => ?_,
    fun b r hb => ⟨fun hp hw hpend hhold hidle hrows => ?_, fun h => ?_⟩⟩⟩
  · exact answers_mergeHoldFlush hv hf ht h
  · refine noEffect_run (exec_mergeHoldFlush t i s) (mergeHoldFlush_idle (s := fresh s) ?_)
    exact h.imp_right (Or.imp_right (Or.imp_right Nat.not_lt.mpr))
  · exact refuses_run (exec_mergeEnableWrite t v s) (writeMergeEnable_bad (fresh s) h)
  · refine writesRws_run (exec_mergeEnableWrite t v s) ?_ (by decide) (by simp [Obj.mergeEnable, Obj.deviceLogDropped])
      (by decide)
    rw [h, writeMergeEnable_one]
  · exact answers_mergeEnableWrite_zero h
  · exact noEffect_run (exec_channelPick t c s) (channelPick_idle (s := fresh s) ht hp)
  · refine answers_run (exec_channelPick t c s) ?_
    rw [channelPick_temp (s := fresh s) ht]
    obtain ⟨-, hmem, hlayer⟩ := sendTemp_spec t.val c.val (fresh s)
    exact ⟨hlayer, hmem, rfl⟩
  · exact answers_channelPick_act ⟨⟨hkind, hstage, hnp, hpromo, hlow, hreg, hjob, hprow⟩, hrq, hwq, hdef, hclosed, hquiet⟩
      hbank ht hp hw ⟨hpass, hbest, hreqs⟩
  · refine answers_openRowIdlePrecharge hb ?_
    rintro (h | h | h | h | ⟨a, ha, h⟩ | h)
    · simp [hp] at h
    · simp [hw] at h
    · simp [hpend] at h
    · simp [hhold] at h
    · exact hrows a ha h
    · omega
  · exact noEffect_run (exec_openRowIdlePrecharge t c b s) (idlePrecharge_kept (s := fresh s) hb h)

end Sys2Proof.Machine

/-! ## Proofs: the ranged registers of the memory side -/

namespace Sys2Proof.Machine

open Sys2Proof

/-! ### Ranges, and the shape of a write that passes lock -/

/-- The range of an object whose table gives no step. -/
theorem inRange_iff {k lo hi : Nat} (h : (keyDef k).map (fun d => (d.vmin, d.vmax, d.vmul)) = some (lo, hi, 1)) (v : Nat) :
    inRange k v = true ↔ lo ≤ v ∧ v ≤ hi := by
  obtain ⟨d, hd, he⟩ := Option.map_eq_some_iff.mp h
  simp only [Prod.mk.injEq] at he
  obtain ⟨rfl, rfl, hmul⟩ := he
  simp [inRange, hd, hmul, Nat.mod_one]

theorem inRange_guaranteeFloor (v : Nat) : inRange Obj.guaranteeFloor v = true ↔ 500 ≤ v ∧ v ≤ 950 :=
  inRange_iff (by decide) v

theorem inRange_meshHopCost (v : Nat) : inRange Obj.meshHopCost v = true ↔ 500 ≤ v ∧ v ≤ 20000 :=
  inRange_iff (by decide) v

theorem inRange_mergeHoldLimit (v : Nat) : inRange Obj.mergeHoldLimit v = true ↔ 20 ≤ v ∧ v ≤ 256 :=
  inRange_iff (by decide) v

theorem inRange_powerCap (v : Nat) : inRange Obj.powerCap v = true ↔ 50000 ≤ v ∧ v ≤ 560000 :=
  inRange_iff (by decide) v

theorem inRange_regulationMode (v : Nat) : inRange Obj.regulationMode v = true ↔ v ≤ 1 :=
  (inRange_iff (lo := 0) (hi := 1) (by decide) v).trans (and_iff_right (Nat.zero_le v))

/-- The object of ReadPassReserve or of WritePassReserve (R92). -/
theorem inRange_passReserve (write : Bool) (v : Nat) :
    inRange (if write then Obj.writePassReserve else Obj.readPassReserve) v = true ↔ v ≤ if write then 36 else 48 := by
  refine (inRange_iff (lo := 0) ?_ v).trans (and_iff_right (Nat.zero_le v))
  cases write <;> decide

/-- A write that is checked first for its value, then for a pass that stands against it. -/
theorem checked_write {c : Instr} {s : State} {f : State → State} {bad busy : Prop} [Decidable bad] [Decidable busy]
    {stored : State} (h : exec c s = run f s)
    (hf : f (fresh s) = if bad then answer stBadFormat (fresh s) else if busy then answer stRetry (fresh s) else stored) :
    (bad → Refuses c s stBadFormat) ∧ (¬ bad → busy → Refuses c s stRetry) ∧ (¬ bad → ¬ busy → f (fresh s) = stored) :=
  ⟨fun hb => refuses_run h (hf.trans (if_pos hb)),
   fun hb hy => refuses_run h (hf.trans ((if_neg hb).trans (if_pos hy))),
   fun hb hy => hf.trans ((if_neg hb).trans (if_neg hy))⟩

/-- Such a write of an object of a tile that the Copybook keeps. -/
theorem locked_write {c : Instr} {s : State} {f : State → State} {bad busy : Prop} [Decidable bad] [Decidable busy]
    {t : TileN} {k v : Nat} (h : exec c s = run f s)
    (hf : f (fresh s) = if bad then answer stBadFormat (fresh s) else if busy then answer stRetry (fresh s)
      else storeRws t.val k v (fresh s)) (hk : k < 2 ^ 24) (hv : ¬ bad → v < 2 ^ objBits k) :
    (bad → Refuses c s stBadFormat) ∧ (¬ bad → busy → Refuses c s stRetry) ∧
      (¬ bad → ¬ busy → WritesRws c s t.val k v) := by
  obtain ⟨hbad, hbusy, hstore⟩ := checked_write h hf
  have hd : (t.val, k) ≠ (dev, Obj.deviceLogDropped) := fun e => (Nat.ne_of_lt t.isLt) (congrArg Prod.fst e)
  exact ⟨hbad, hbusy, fun hb hy => writesRws_run h (hstore hb hy) hk hd (hv hb)⟩

/-! ### The registers that live passes lock -/

theorem guaranteeFloorWrite_cases (t : TileN) (v : BitVec 16) (s : State) :
    let bad := ¬ (500 ≤ v.toNat ∧ v.toNat ≤ 950) ∨ (getObj s dev Obj.stackInterface = 2 ∧ 750 < v.toNat)
    (bad → Refuses (.guaranteeFloorWrite t v) s stBadFormat) ∧
    (¬ bad → ownsOrSources s t.val = true → Refuses (.guaranteeFloorWrite t v) s stRetry) ∧
    (¬ bad → ¬ ownsOrSources s t.val = true → WritesRws (.guaranteeFloorWrite t v) s t.val Obj.guaranteeFloor v.toNat) := by
  simp only [← inRange_guaranteeFloor]
  exact locked_write (exec_guaranteeFloorWrite t v s) rfl (by decide) (fun _ => v.isLt)

theorem meshHopCostWrite_cases (t : TileN) (v : BitVec 16) (s : State) :
    let bad := ¬ (500 ≤ v.toNat ∧ v.toNat ≤ 20000)
    let busy := (livePasses s t.val).any (fun e => isFar t.val e.2.terms) = true
    (bad → Refuses (.meshHopCostWrite t v) s stBadFormat) ∧ (¬ bad → busy → Refuses (.meshHopCostWrite t v) s stRetry) ∧
    (¬ bad → ¬ busy → WritesRws (.meshHopCostWrite t v) s t.val Obj.meshHopCost v.toNat) := by
  simp only [← inRange_meshHopCost]
  exact locked_write (exec_meshHopCostWrite t v s) rfl (by decide) (fun _ => v.isLt)

theorem classQuantumWrite_cases (t : TileN) (k : Fin 8) (v : BitVec 32) (s : State) :
    let bad := v.toNat < cMax s t.val ∨ 1048576 < v.toNat
    (bad → Refuses (.classQuantumWrite t k v) s stBadFormat) ∧
    (¬ bad → hasLive s t.val = true → Refuses (.classQuantumWrite t k v) s stRetry) ∧
    (¬ bad → ¬ hasLive s t.val = true →
      WritesRws (.classQuantumWrite t k v) s t.val (Obj.classQuantum + k.val) v.toNat) := by
  have hkey : ∀ k : Fin 8, Obj.classQuantum + k.val < 2 ^ 24 ∧ objBits (Obj.classQuantum + k.val) = 32 := by decide
  obtain ⟨hlt, hbits⟩ := hkey k
  exact locked_write (exec_classQuantumWrite t k v s) rfl hlt (fun _ => by rw [hbits]; exact v.isLt)

theorem requestOverheadWrite_cases (t : TileN) (v : BitVec 16) (s : State) :
    let bad := 1024 < v.toNat ∨
      (List.range 8).any (fun k => quantumOf s t.val k < max (64 + v.toNat) (4 * v.toNat)) = true
    (bad → Refuses (.requestOverheadWrite t v) s stBadFormat) ∧
    (¬ bad → hasLive s t.val = true → Refuses (.requestOverheadWrite t v) s stRetry) ∧
    (¬ bad → ¬ hasLive s t.val = true → WritesRws (.requestOverheadWrite t v) s t.val Obj.requestOverhead v.toNat) :=
  locked_write (exec_requestOverheadWrite t v s) rfl (by decide) (fun _ => v.isLt)

/-- The quanta of the eight classes, one by one. -/
theorem quantum_any_iff (s : State) (t m : Nat) :
    (List.range 8).any (fun k => quantumOf s t k < m) = true ↔ ∃ k < 8, getObj s t (Obj.classQuantum + k) < m := by
  simp only [List.any_eq_true, List.mem_range, decide_eq_true_eq]
  rfl

theorem passReserveWrite_cases (t : TileN) (write : Bool) (v : BitVec 8) (s : State) :
    let bad := ¬ v.toNat ≤ (if write then 36 else 48)
    (bad → Refuses (.passReserveWrite t write v) s stBadFormat) ∧
    (¬ bad → hasLive s t.val = true → Refuses (.passReserveWrite t write v) s stRetry) ∧
    (¬ bad → ¬ hasLive s t.val = true → WritesRws (.passReserveWrite t write v) s t.val
      (if write then Obj.writePassReserve else Obj.readPassReserve) v.toNat) := by
  have hkey : ∀ w : Bool, (if w then Obj.writePassReserve else Obj.readPassReserve) < 2 ^ 24 ∧
      objBits (if w then Obj.writePassReserve else Obj.readPassReserve) = 8 := by decide
  obtain ⟨hlt, hbits⟩ := hkey write
  simp only [← inRange_passReserve]
  exact locked_write (exec_passReserveWrite t write v s) rfl hlt (fun _ => by rw [hbits]; exact v.isLt)

/-! ### PassBand and the cause of risk that it decides (R112, R118) -/

/-- Bit 1 put into an object of two bytes, as the object then stands. -/
theorem bit_putBit_one (n : Nat) (b : Bool) : bit (putBit n 1 b % 2 ^ 16) 1 = b := by
  cases b
  · simp only [putBit, clearBit, bit, decide_eq_true_eq, decide_eq_false_iff_not, Bool.false_eq_true, if_false]
    split <;> omega
  · simp only [putBit, setBit, bit, decide_eq_true_eq, if_true]
    split <;> omega

/-- With no live pass in the tile a cause is an object of the tile and nothing else. -/
theorem setCause_of_no_live {s : State} {t : Nat} (h : livePasses s t = []) (b : Nat) (on_ : Bool) :
    setCause t b on_ s = if bit (getObj s t Obj.tileRiskCause) b = on_ then s
      else setObj t Obj.tileRiskCause (putBit (getObj s t Obj.tileRiskCause) b on_) s := by
  have hlive : ∀ n, livePasses (setObj t Obj.tileRiskCause n s) t = [] := fun _ => h
  unfold setCause raiseCause dropCause putBit
  cases on_ <;> cases bit (getObj s t Obj.tileRiskCause) b <;> simp [hlive]

/-- Cause 1 of a tile as it follows from its PassBand. -/
def followBand (t v : Nat) (s : State) : State := setCause t 1 (decide (v < getObj s t Obj.refreshBand)) s

theorem passBandWrite_cases (t : TileN) (v : BitVec 8) (s : State) :
    let busy := ¬ (livePasses s t.val).isEmpty
    (3 < v.toNat → Refuses (.passBandWrite t v) s stBadFormat) ∧
    (¬ 3 < v.toNat → busy → Refuses (.passBandWrite t v) s stRetry) ∧
    (¬ 3 < v.toNat → ¬ busy →
      writePassBand t.val v.toNat (fresh s) = followBand t.val v.toNat (storeRws t.val Obj.passBand v.toNat (fresh s))) :=
  checked_write (exec_passBandWrite t v s) rfl

/-- What a cause of a tile with no live pass reads as, and what its change leaves alone. -/
theorem setCause_spec {s : State} {t : Nat} (h : livePasses s t = []) (on_ : Bool) :
    setCause t 1 on_ s = { s with dict := (setCause t 1 on_ s).dict } ∧
      bit (getObj (setCause t 1 on_ s) t Obj.tileRiskCause) 1 = on_ ∧
      OtherObjects s (setCause t 1 on_ s) [(t, Obj.tileRiskCause)] := by
  rw [setCause_of_no_live h]
  split
  case isTrue hb => exact ⟨rfl, hb, otherObjects_none rfl _⟩
  case isFalse =>
    have hbits : objBits Obj.tileRiskCause = 16 := by decide
    refine ⟨rfl, ?_, otherObjects_set rfl (by decide)⟩
    rw [getObj_setObj_same, hbits, bit_putBit_one]

theorem storeRws_frame (u k v : Nat) (s : State) : storeRws u k v s = { s with
    dict := (storeRws u k v s).dict, out := { s.out with status := stOk }
    copy := { s.copy with queue := (storeRws u k v s).copy.queue }
    count := { s.count with intake := (storeRws u k v s).count.intake } } :=
  (recordObj_frame u k v (storeObj u k v s)).1

theorem otherObjects_storeRws {u k : Nat} (hk : k < 2 ^ 24) (v : Nat) (s : State) :
    OtherObjects s (storeRws u k v s) [(u, k), (dev, Obj.deviceLogDropped)] := by
  intro w j hj hn
  simp only [List.mem_cons, List.not_mem_nil, or_false, not_or] at hn
  exact ((recordObj_frame u k v (storeObj u k v s)).2 w j hj hn.2).trans
    (getObj_setObj_other s (fun e => hn.1 (Prod.ext_iff.mpr (okey_inj hj hk e))))

theorem answers_passBandWrite {t : TileN} {v : BitVec 8} {s : State} (hv : v.toNat ≤ 3) (h : livePasses s t.val = []) :
    Answers (.passBandWrite t v) s (fun s' => s'.out.status = stOk ∧ getObj s' t.val Obj.passBand = v.toNat ∧
      s'.passes = s.passes ∧ bit (getObj s' t.val Obj.tileRiskCause) 1 = decide (v.toNat < getObj s t.val Obj.refreshBand) ∧
      OtherObjects s s' [(t.val, Obj.passBand), (t.val, Obj.tileRiskCause), (dev, Obj.deviceLogDropped)] ∧
      SameMemory s s') := by
  refine answers_run (exec_passBandWrite t v s) ?_
  rw [(passBandWrite_cases t v s).2.2 (Nat.not_lt.mpr hv) (by simp [h])]
  obtain ⟨hband, hstatus, hmem⟩ := storeRws_spec (u := t.val) (k := Obj.passBand) (v := v.toNat) (fresh s) (by decide)
    (by simp [Obj.passBand, Obj.deviceLogDropped]) v.isLt
  have hframe := storeRws_frame t.val Obj.passBand v.toNat (fresh s)
  have hothers := otherObjects_storeRws (u := t.val) (k := Obj.passBand) (by decide) v.toNat (fresh s)
  unfold followBand
  generalize storeRws t.val Obj.passBand v.toNat (fresh s) = x at hband hstatus hmem hframe hothers
  have hpasses : x.passes = s.passes := by rw [hframe]; rfl
  have hlive : livePasses x t.val = [] := by
    unfold livePasses at h ⊢
    rw [hpasses, h]
  have hrefresh : getObj x t.val Obj.refreshBand = getObj s t.val Obj.refreshBand :=
    hothers _ _ (by decide) (by simp [Obj.refreshBand, Obj.passBand, Obj.deviceLogDropped])
  obtain ⟨hcause, hbit, hkept⟩ := setCause_spec hlive (decide (v.toNat < getObj x t.val Obj.refreshBand))
  rw [hrefresh] at hcause hbit hkept ⊢
  generalize setCause t.val 1 (decide (v.toNat < getObj s t.val Obj.refreshBand)) x = y at hcause hbit hkept
  refine ⟨?_, ?_, ?_, hbit, ?_, ?_⟩
  · show y.out.status = stOk
    rw [hcause]; exact hstatus
  · exact (hkept _ _ (by decide) (by simp [Obj.passBand, Obj.tileRiskCause])).trans hband
  · show y.passes = s.passes
    rw [hcause]; exact hpasses
  · exact (OtherObjects.mono hothers (by simp)).trans (OtherObjects.mono hkept (by simp))
  · have hsame : SameMemory x y := by
      rw [hcause]
      exact sameMemory_of rfl rfl rfl rfl
    exact hmem.trans hsame

/-! ### MergeHoldLimit (R90) -/

theorem writeHoldLimit_bad {t v : Nat} (s : State) (h : ¬ (20 ≤ v ∧ v ≤ 256)) :
    writeHoldLimit t v s = answer stBadFormat s :=
  if_neg (fun hr => h ((inRange_mergeHoldLimit v).mp hr))

theorem writeHoldLimit_stores {t v : Nat} (s : State) (h : 20 ≤ v ∧ v ≤ 256) :
    writeHoldLimit t v s = storeObj t Obj.mergeHoldLimit v (keepHoldLimit t s) :=
  if_pos ((inRange_mergeHoldLimit v).mpr h)

/-- At the tick of the write the limit in force is the one kept. -/
theorem holdLimit_at_write {s : State} {t : Nat} (h : (getSched s t).holdSince = s.time.elapsed + 1) :
    holdLimit s t = (getSched s t).holdOld := if_pos h

/-- From the next tick it is the object's. -/
theorem holdLimit_later {s : State} {t n : Nat} (h : (getSched s t).holdSince ≠ n + 1) :
    holdLimit { s with time := { s.time with elapsed := n } } t = getObj s t Obj.mergeHoldLimit := if_neg h

theorem keepHoldLimit_fresh (t : Nat) (s : State) : keepHoldLimit t (fresh s) = { fresh s with
    sched := fupd {} s.sched t (fun x => { x with holdOld := holdLimit s t, holdSince := s.time.elapsed + 1 }) } := rfl

theorem getSched_keepHoldLimit (t : Nat) (s : State) :
    (getSched (keepHoldLimit t s) t).holdOld = holdLimit s t ∧
      (getSched (keepHoldLimit t s) t).holdSince = s.time.elapsed + 1 := by
  unfold getSched keepHoldLimit modSched
  rw [fget_fupd_same]
  exact ⟨rfl, rfl⟩

theorem answers_mergeHoldLimitWrite {t : TileN} {v : BitVec 16} {s : State} (h : 20 ≤ v.toNat ∧ v.toNat ≤ 256) :
    Answers (.mergeHoldLimitWrite t v) s (fun s' => s'.out = { status := stOk } ∧
      getObj s' t.val Obj.mergeHoldLimit = v.toNat ∧ OtherObjects s s' [(t.val, Obj.mergeHoldLimit)] ∧
      holdLimit s' t.val = holdLimit s t.val ∧
      (∀ n, s.time.elapsed < n → holdLimit { s' with time := { s'.time with elapsed := n } } t.val = v.toNat) ∧
      s' = { s with dict := s'.dict, out := s'.out, sched := fupd {} s.sched t.val (fun x => { x with
        holdOld := holdLimit s t.val, holdSince := s.time.elapsed + 1 }) }) := by
  refine answers_run (exec_mergeHoldLimitWrite t v s) ?_
  rw [writeHoldLimit_stores _ h]
  obtain ⟨hold, hsince⟩ := getSched_keepHoldLimit t.val (fresh s)
  have hframe := keepHoldLimit_fresh t.val s
  generalize keepHoldLimit t.val (fresh s) = x at hold hsince hframe
  have hdict : x.dict = s.dict := by rw [hframe]; rfl
  have hset : getObj (setObj t.val Obj.mergeHoldLimit v.toNat x) t.val Obj.mergeHoldLimit = v.toNat :=
    getObj_setObj_fits x v.isLt
  refine ⟨?_, hset, ?_, ?_, fun n hn => ?_, ?_⟩
  · show ({ x.out with status := stOk } : Out) = _
    rw [hframe]; rfl
  · intro u k hk hn
    exact (otherObjects_set (s := x) rfl (by decide) u k hk hn).trans (getObj_congr hdict u k)
  · exact (holdLimit_at_write (s := sameTime s (storeObj t.val Obj.mergeHoldLimit v.toNat x)) hsince).trans hold
  · refine (holdLimit_later (s := sameTime s (storeObj t.val Obj.mergeHoldLimit v.toNat x)) (n := n) ?_).trans hset
    intro he
    have : s.time.elapsed + 1 = n + 1 := hsince.symm.trans he
    omega
  · rw [hframe]; rfl

/-! ### Registers that are only checked for their range -/

theorem writePlain_bad {u k v : Nat} (s : State) (h : ¬ inRange k v = true) : writePlain u k v s = answer stBadFormat s :=
  if_neg h

theorem writePlain_stores {u k v : Nat} (s : State) (h : inRange k v = true) : writePlain u k v s = storeObj u k v s :=
  if_pos h

theorem writePlainRws_bad {u k v : Nat} (s : State) (h : ¬ inRange k v = true) :
    writePlainRws u k v s = answer stBadFormat s := if_neg h

theorem writePlainRws_stores {u k v : Nat} (s : State) (h : inRange k v = true) :
    writePlainRws u k v s = storeRws u k v s := if_pos h

/-- Settles O8: each register by its range and by the passes that lock it. -/
theorem rangedRegisterWrites : Obligations.RangedRegisterWrites := by
  refine ⟨⟨fun t v s => ?_, fun t v s => ?_, fun t v s => ?_⟩,
    ⟨fun t k v s => ?_, fun t v s => ?_, fun t write v s => ?_⟩,
    fun t v s => ⟨answers_mergeHoldLimitWrite, fun h => ?_⟩, fun t v s => ⟨fun h => ?_, fun h => ?_⟩,
    fun v s => ⟨fun h => ?_, fun h => ?_⟩⟩
  · obtain ⟨hbad, hbusy, hok⟩ := guaranteeFloorWrite_cases t v s
    refine ⟨fun h => hbad (.inl h), fun h hi => hbad (.inr ⟨hi, h⟩), fun hlo hhi hslp => ?_⟩
    have hgood : ¬ (¬ (500 ≤ v.toNat ∧ v.toNat ≤ 950) ∨ (getObj s dev Obj.stackInterface = 2 ∧ 750 < v.toNat)) := by
      omega
    exact ⟨hbusy hgood, fun h => hok hgood (by simp [h])⟩
  · obtain ⟨hbad, hbusy, hok⟩ := meshHopCostWrite_cases t v s
    exact ⟨hbad, fun hlo hhi => hbusy (not_not.mpr ⟨hlo, hhi⟩),
      fun hlo hhi h => hok (not_not.mpr ⟨hlo, hhi⟩) (by simp only [h, Bool.false_eq_true, not_false_eq_true])⟩
  · obtain ⟨hbad, hbusy, -⟩ := passBandWrite_cases t v s
    exact ⟨hbad, fun h hlive => hbusy (Nat.not_lt.mpr h) (by simpa using hlive), answers_passBandWrite⟩
  · obtain ⟨hbad, hbusy, hok⟩ := classQuantumWrite_cases t k v s
    refine ⟨fun h => hbad (.inl h), fun h => hbad (.inr h), fun hlo hhi => ?_⟩
    have hgood : ¬ (v.toNat < cMax s t.val ∨ 1048576 < v.toNat) := by
      rintro (h | h)
      · exact Nat.not_lt.mpr hlo h
      · exact Nat.not_lt.mpr hhi h
    exact ⟨hbusy hgood, fun h => hok hgood (by simp [h])⟩
  · obtain ⟨hbad, hbusy, hok⟩ := requestOverheadWrite_cases t v s
    rw [quantum_any_iff] at hbad hbusy hok
    refine ⟨fun h => hbad (.inr h), fun h => hbad (.inl h), fun hhi hq => ?_⟩
    have hgood : ¬ (1024 < v.toNat ∨
        ∃ k < 8, getObj s t.val (Obj.classQuantum + k) < max (64 + v.toNat) (4 * v.toNat)) := by
      rintro (h | ⟨k, hk, h⟩)
      · exact Nat.not_lt.mpr hhi h
      · exact Nat.not_lt.mpr (hq k hk) h
    exact ⟨hbusy hgood, fun h => hok hgood (by simp [h])⟩
  · obtain ⟨hbad, hbusy, hok⟩ := passReserveWrite_cases t write v s
    exact ⟨fun h => hbad (Nat.not_le.mpr h), fun h => hbusy (not_not.mpr h),
      fun h hl => hok (not_not.mpr h) (by simp [hl])⟩
  · exact refuses_run (exec_mergeHoldLimitWrite t v s) (writeHoldLimit_bad (fresh s) h)
  · exact writesRws_run (exec_regulationModeWrite t v s)
      (writePlainRws_stores (fresh s) ((inRange_regulationMode _).mpr h)) (by decide)
      (by simp [Obj.regulationMode, Obj.deviceLogDropped]) v.isLt
  · exact refuses_run (exec_regulationModeWrite t v s)
      (writePlainRws_bad (fresh s) (fun hr => Nat.not_le.mpr h ((inRange_regulationMode _).mp hr)))
  · exact writesObj_run (exec_powerCapWrite v s) (writePlain_stores (fresh s) ((inRange_powerCap _).mpr h)) (by decide)
      v.isLt
  · exact refuses_run (exec_powerCapWrite v s) (writePlain_bad (fresh s) (fun hr => h ((inRange_powerCap _).mp hr)))

end Sys2Proof.Machine

/-! ## Proofs: the admission of a Hall Pass -/

namespace Sys2Proof.Machine

open Sys2Proof

/-! ### What admission reads

The queue of the controller and the record of outputs are no part of it. -/

/-- A state with another queue at the admission controllers and another record of outputs. -/
def withAdm (s : State) (a : FMap (List AdmJob)) (o : Out) : State := { s with adm := a, out := o }

section
variable (s : State) (a : FMap (List AdmJob)) (o : Out)

theorem boundOf_withAdm (w : Weigh) (c : Nat) : boundOf (withAdm s a o) w c = boundOf s w c := rfl

theorem checkPasses_withAdm (w : Weigh) : checkPasses (withAdm s a o) w = checkPasses s w := rfl

theorem weighWith_withAdm (t : Nat) (tt : Option (List Nat)) (c : Option Nat) :
    weighWith (withAdm s a o) t tt c = weighWith s t tt c := rfl

theorem admTT_withAdm (t : Nat) : admTT (withAdm s a o) t = admTT s t := rfl

theorem rateOk_withAdm (t c r : Nat) : rateOk (withAdm s a o) t c r = rateOk s t c r := rfl

theorem bisectRate_withAdm (t c fuel lo hi : Nat) :
    bisectRate (withAdm s a o) t c fuel lo hi = bisectRate s t c fuel lo hi := by
  induction fuel generalizing lo hi with
  | zero => rfl
  | succ fuel ih => simp only [bisectRate, rateOk_withAdm, ih]

theorem counterOffer_withAdm (t c : Nat) : counterOffer (withAdm s a o) t c = counterOffer s t c := by
  simp only [counterOffer, rateOk_withAdm, bisectRate_withAdm, boundOf_withAdm, weighWith_withAdm, admTT_withAdm]

theorem tileReason_withAdm (t n : Nat) : tileReason (withAdm s a o) t n = tileReason s t n := rfl

theorem decideAdmission_withAdm (t c : Nat) (n : Bool) (src : Nat) (gone : Bool) :
    decideAdmission (withAdm s a o) t c n src gone = decideAdmission s t c n src gone := by
  unfold decideAdmission
  simp only [checkPasses_withAdm, counterOffer_withAdm, boundOf_withAdm, weighWith_withAdm, admTT_withAdm,
    tileReason_withAdm]
  rfl

theorem jobStatus_withAdm (t : Nat) (j : AdmJob) : jobStatus (withAdm s a o) t j = jobStatus s t j := rfl

end

/-- An admission that needs a number and is granted found one free (R94). -/
theorem usedNumbers_lt_of_ok {s : State} {t c src d : Nat} {gone : Bool}
    (h : decideAdmission s t c true src gone = .ok d) : (usedNumbers s t).length < 256 := by
  by_contra hfull
  have hge : (usedNumbers s t).length ≥ 256 := Nat.not_lt.mp hfull
  unfold decideAdmission at h
  simp only [hge, and_self, if_true] at h
  (repeat' split at h) <;> cases h

/-! ### What a contract is answered without being weighed (R100, R101) -/

section
variable {s : State} {t c k : Nat}

theorem jobStatus_bad (hk : k < 2) (hb : contractBad t c = true) :
    jobStatus s t { kind := k, terms := c } = some stBadFormat := by
  simp [jobStatus, hb, Nat.not_le.mpr hk]

theorem jobStatus_denied (hk : k < 2) (hb : contractBad t c = false) (hr : rangeBelongs s t c = false) :
    jobStatus s t { kind := k, terms := c } = some stAccessDenied := by
  simp [jobStatus, hb, hr, Nat.not_le.mpr hk]

theorem jobStatus_weighed (hb : contractBad t c = false) (hr : rangeBelongs s t c = true) :
    jobStatus s t { kind := k, terms := c } = none := by
  simp [jobStatus, hb, hr]

end

/-! ### How a job of the controller is decided (R110) -/

section
variable {s : State} {t : Nat} {j : AdmJob} {src : Nat} {gone : Bool} (hk : j.kind < 2)
include hk

theorem decideJob_turned_away {st : Nat} (h : jobStatus s t j = some st) :
    decideJob t j src gone s = setResult t (passResult st 0 0 0 0 0) s := by
  unfold decideJob
  rw [if_neg (by omega), if_neg (by omega), h]

theorem decideJob_status {st : Nat} (hj : jobStatus s t j = none)
    (h : decideAdmission s t j.terms (j.kind = 0) src gone = .status st) :
    decideJob t j src gone s = setResult t (passResult st 0 0 0 0 0) s := by
  unfold decideJob
  rw [if_neg (by omega), if_neg (by omega), hj]
  simp only [h]

theorem decideJob_refuse {r a b : Nat} (hj : jobStatus s t j = none)
    (h : decideAdmission s t j.terms (j.kind = 0) src gone = .refuse r a b) :
    decideJob t j src gone s = refuseAdm t r a b s := by
  unfold decideJob
  rw [if_neg (by omega), if_neg (by omega), hj]
  simp only [h]

end

theorem decideJob_probe {s : State} {t src d : Nat} {j : AdmJob} {gone : Bool} (hj : jobStatus s t j = none)
    (h1 : j.kind = 1) (h : decideAdmission s t j.terms false src gone = .ok d) :
    decideJob t j src gone s = setResult t (passResult stOk 0 0 d 0 0) s := by
  unfold decideJob
  rw [if_neg (by omega), if_neg (by omega), hj]
  simp [h, h1]

/-- The numbers of a tile that no pass holds. -/
def freeNumbers (s : State) (t : Nat) : List Nat := (List.range 256).filter (fun p => ¬ (usedNumbers s t).contains p)

/-- The number that a grant draws. -/
def drawnNumber (s : State) (t : Nat) : Nat :=
  (freeNumbers s t).getD ((draw s).1 % max 1 (freeNumbers s t).length) 0

theorem decideJob_grant {s : State} {t src d : Nat} {j : AdmJob} {gone : Bool} (hj : jobStatus s t j = none)
    (h0 : j.kind = 0) (h : decideAdmission s t j.terms true src gone = .ok d) :
    decideJob t j src gone s =
      grantPass t (drawnNumber s t) j.terms d (clearPassCounts t (drawnNumber s t) (draw s).2) := by
  unfold decideJob
  rw [if_neg (by omega), if_neg (by omega), hj]
  simp only [h0, decide_true, h]
  rw [if_neg (by decide), if_neg (by decide)]
  rfl

theorem mem_freeNumbers {s : State} {t p : Nat} : p ∈ freeNumbers s t ↔ p < 256 ∧ p ∉ usedNumbers s t := by
  simp [freeNumbers]

theorem freeNumbers_ne_nil {s : State} {t : Nat} (h : (usedNumbers s t).length < 256) : freeNumbers s t ≠ [] := by
  intro he
  have hall : List.range 256 ⊆ usedNumbers s t := by
    intro p hp
    by_contra hn
    have hmem : p ∈ freeNumbers s t := mem_freeNumbers.mpr ⟨List.mem_range.mp hp, hn⟩
    rw [he] at hmem
    cases hmem
  have hle := (List.subperm_of_subset List.nodup_range hall).length_le
  rw [List.length_range] at hle
  omega

theorem drawnNumber_mem {s : State} {t : Nat} (h : (usedNumbers s t).length < 256) :
    drawnNumber s t ∈ freeNumbers s t := by
  have hpos : 0 < (freeNumbers s t).length := List.length_pos_iff.mpr (freeNumbers_ne_nil h)
  have hlt : (draw s).1 % max 1 (freeNumbers s t).length < (freeNumbers s t).length := by
    rw [max_eq_right hpos]
    exact Nat.mod_lt _ hpos
  unfold drawnNumber
  rw [List.getD_eq_getElem _ _ hlt]
  exact List.getElem_mem hlt

/-- A number that no pass holds is FREE in the table (R94). -/
theorem getPass_state_of_unused {s : State} {t p : Nat} (hp : p < 256) (h : p ∉ usedNumbers s t) :
    (getPass s t p).state = 0 := by
  by_contra hs
  have hne : getPass s t p ≠ {} := fun e => hs (by rw [e])
  refine h (List.mem_map.mpr ⟨(t * 256 + p, getPass s t p), List.mem_filter.mpr ⟨mem_of_fget_ne hne, ?_⟩, ?_⟩)
  · simp only [decide_eq_true_eq]
    exact ⟨by omega, hs⟩
  · show (t * 256 + p) % 256 = p
    omega

/-! ### The bounds that passes show (Table 4.7) -/

/-- Two passes that differ in their computed bounds at most. -/
def AlikeButBound (x y : Pass) : Prop := { x with computed := 0 } = { y with computed := 0 }

theorem AlikeButBound.eq {x y : Pass} (h : AlikeButBound x y) : ∃ n, x = { y with computed := n } := by
  cases x
  cases y
  simp only [AlikeButBound, Pass.mk.injEq, true_and] at h
  simp only [Pass.mk.injEq, exists_and_left, exists_and_right]
  simp [h]

theorem getPass_setPass_same (t p : Nat) (x : Pass) (s : State) : getPass (setPass t p x s) t p = x := by
  unfold getPass setPass
  rw [fget_fset_same]

/-- In a canonical map each entry is what its key reads as. -/
theorem fget_of_mem {α : Type} [DecidableEq α] {d : Nat → α} {m : FMap α} (h : fwf d m = true) {e : Nat × α} (he : e ∈ m)
    (d' : α) : fget d' m e.1 = e.2 := by
  induction m with
  | nil => cases he
  | cons x r ih =>
    obtain ⟨k, v⟩ := x
    obtain ⟨-, habove, hr⟩ := (fwf_cons d k v r).mp h
    rcases List.mem_cons.mp he with rfl | he
    · exact if_pos rfl
    · have hlt : k < e.1 := habove e he
      rw [fget, if_neg (by omega)]
      exact ih hr he

/-- Writing back passes with bounds of their own leaves every pass as it was but for its bound. -/
theorem alikeButBound_setPasses (f : Nat × Nat × Pass → Nat) (l : List (Nat × Nat × Pass)) (s : State)
    (h : ∀ e ∈ l, AlikeButBound e.2.2 (getPass s e.1 e.2.1)) (k : Nat) :
    AlikeButBound
      (fget {} (l.foldl (fun acc e => setPass e.1 e.2.1 { e.2.2 with computed := f e } acc) s).passes k)
      (fget {} s.passes k) := by
  induction l generalizing s with
  | nil => rfl
  | cons e l ih =>
    have hstep : ∀ j, AlikeButBound (fget {} (setPass e.1 e.2.1 { e.2.2 with computed := f e } s).passes j)
        (fget {} s.passes j) := by
      intro j
      unfold setPass
      by_cases hj : j = e.1 * 256 + e.2.1
      · subst hj
        rw [fget_fset_same]
        exact h e (by simp)
      · rw [fget_fset_other _ _ _ _ hj]
        rfl
    refine (ih _ (fun x hx => ?_)).trans (hstep k)
    exact (h x (List.mem_cons_of_mem _ hx)).trans (hstep _).symm

/-- A grant or release moves the computed bounds of live passes only. -/
theorem alikeButBound_takeAllBounds {s : State} (h : fwf (fun _ => ({} : Pass)) s.passes = true) (k : Nat) :
    AlikeButBound (fget {} (takeAllBounds s).passes k) (fget {} s.passes k) := by
  refine alikeButBound_setPasses _ _ s (fun e he => ?_) k
  obtain ⟨x, hx, rfl⟩ := List.mem_map.mp he
  have hkey : x.1 / 256 * 256 + x.1 % 256 = x.1 := by omega
  have hread : getPass s (x.1 / 256) (x.1 % 256) = x.2 := by
    unfold getPass
    rw [hkey]
    exact fget_of_mem h (List.mem_filter.mp hx).1 _
  rw [hread]
  rfl

/-- Writing passes back touches the pass table only. -/
theorem setPasses_fields (f : Nat × Nat × Pass → Pass) (l : List (Nat × Nat × Pass)) (s : State) :
    l.foldl (fun acc e => setPass e.1 e.2.1 (f e) acc) s =
      { s with passes := (l.foldl (fun acc e => setPass e.1 e.2.1 (f e) acc) s).passes } := by
  induction l generalizing s with
  | nil => rfl
  | cons e l ih =>
    have h := ih (setPass e.1 e.2.1 (f e) s)
    rw [List.foldl_cons]
    exact h

theorem takeAllBounds_fields (s : State) : takeAllBounds s = { s with passes := (takeAllBounds s).passes } :=
  setPasses_fields _ _ s

/-! ### A grant (R120, R132) -/

/-- The contract as it is granted: one without a bound takes the computed one. -/
def grantedTerms (c d : Nat) : Nat := if cBound c = 0 then withBound c d else c

/-- Every PassResult fits its object. -/
theorem passResult_lt (st reason pass computed rate bound : Nat) :
    passResult st reason pass computed rate bound < 2 ^ objBits Obj.passResult := by
  have hbits : objBits Obj.passResult = 128 := by decide
  rw [hbits]
  unfold passResult fld
  omega

/-- The state of a grant before its counts and its result: the pass stands in the table, with the bounds that follow. -/
def granted (t p c d : Nat) (s : State) : State := takeAllBounds (setPass t p (livePass s (grantedTerms c d) d) s)

theorem grantPass_eq (t p c d : Nat) (s : State) : grantPass t p c d s =
    setObj t Obj.passResult (passResult stOk 0 p d 0 0) (bump t Obj.passGrants 1 (granted t p c d s)) := rfl

theorem granted_fields (t p c d : Nat) (s : State) : granted t p c d s = { s with passes := (granted t p c d s).passes } :=
  takeAllBounds_fields _

section
variable {t p c d : Nat} {s : State} (h : fwf (fun _ => ({} : Pass)) s.passes = true)
include h

theorem fwf_setPass (x : Pass) : fwf (fun _ => ({} : Pass)) (setPass t p x s).passes = true :=
  fwf_fset (fun _ => ({} : Pass)) (t * 256 + p) x s.passes h

theorem alikeButBound_granted (k : Nat) : AlikeButBound (fget {} (granted t p c d s).passes k)
    (fget {} (setPass t p (livePass s (grantedTerms c d) d) s).passes k) :=
  alikeButBound_takeAllBounds (fwf_setPass h _) k

theorem getPass_granted :
    ∃ b, getPass (granted t p c d s) t p = { livePass s (grantedTerms c d) d with computed := b } := by
  have hp := getPass_setPass_same t p (livePass s (grantedTerms c d) d) s
  obtain ⟨b, hb⟩ := (alikeButBound_granted (t := t) (p := p) (c := c) (d := d) h (t * 256 + p)).eq
  exact ⟨b, hb.trans (congrArg (fun x : Pass => { x with computed := b }) hp)⟩

theorem alikeButBound_granted_other {k : Nat} (hk : k ≠ t * 256 + p) :
    AlikeButBound (fget {} (granted t p c d s).passes k) (fget {} s.passes k) := by
  refine (alikeButBound_granted h k).trans ?_
  unfold setPass
  rw [fget_fset_other _ _ _ _ hk]

end

/-- A grant touches the table and the dictionary only. -/
theorem grantPass_fields (t p c d : Nat) (s : State) : grantPass t p c d s = { s with
    dict := (grantPass t p c d s).dict, passes := (granted t p c d s).passes } := by
  rw [grantPass_eq]
  generalize hx : granted t p c d s = x
  have hfields := granted_fields t p c d s
  rw [hx] at hfields
  rw [hfields]
  rfl

/-- Its table, its answer, the controllers' queues and the memory after a grant. -/
theorem grantPass_kept (t p c d : Nat) (s : State) : (grantPass t p c d s).passes = (granted t p c d s).passes ∧
    (grantPass t p c d s).out = s.out ∧ SameMemory s (grantPass t p c d s) := by
  have hfields := grantPass_fields t p c d s
  generalize grantPass t p c d s = z at hfields
  rw [hfields]
  exact ⟨rfl, rfl, sameMemory_of rfl rfl rfl rfl⟩

theorem grantPass_adm (t p c d : Nat) (s : State) : (grantPass t p c d s).adm = s.adm := by
  rw [grantPass_fields]

/-- The counts of a number as its grant leaves them (R120). -/
theorem getObj_clearPassCounts {p : Nat} (hp : p < 256) (t : Nat) (s : State) :
    getObj (clearPassCounts t p s) t (Obj.passMissCount + p) = 0 ∧
      getObj (clearPassCounts t p s) t (Obj.passBytes + p) = 0 := by
  unfold clearPassCounts
  constructor
  · rw [getObj_setObj_same, Nat.zero_mod]
  · rw [getObj_setObj_obj, getObj_setObj_obj, getObj_setObj_obj, getObj_setObj_obj, getObj_setObj_same, Nat.zero_mod]
    all_goals simp only [Obj.passMissCount, Obj.passWorstLateness, Obj.passNonConforming, Obj.passLongest, Obj.passBytes]
    all_goals omega

theorem clearPassCounts_kept (t p : Nat) (s : State) : (clearPassCounts t p s).passes = s.passes ∧
    (clearPassCounts t p s).time = s.time ∧ (clearPassCounts t p s).out = s.out ∧
    SameMemory s (clearPassCounts t p s) := by
  unfold clearPassCounts
  refine ⟨?_, ?_, ?_, ?_⟩
  · simp only [setObj_passes]
  · simp only [setObj_time]
  · simp only [setObj_out]
  · exact (((((books_setObj _ _ _ s).trans (books_setObj _ _ _ _)).trans (books_setObj _ _ _ _)).trans
      (books_setObj _ _ _ _)).trans (books_setObj _ _ _ _)).sameMemory

theorem clearPassCounts_adm (t p : Nat) (s : State) : (clearPassCounts t p s).adm = s.adm := by
  unfold clearPassCounts setObj
  rfl

/-- An object that a grant neither counts nor answers in. -/
theorem getObj_grantPass {t p c d k : Nat} (s : State) (hk : k < 2 ^ 24) (hr : k ≠ Obj.passResult)
    (hg : k ≠ Obj.passGrants) : getObj (grantPass t p c d s) t k = getObj s t k := by
  have hdict : (granted t p c d s).dict = s.dict := by rw [granted_fields]
  rw [grantPass_eq, getObj_setObj_obj _ hr hk (by decide), bump, getObj_setObj_obj _ hg hk (by decide)]
  exact getObj_congr hdict t k

theorem getObj_grantPass_result (t p c d : Nat) (s : State) :
    getObj (grantPass t p c d s) t Obj.passResult = passResult stOk 0 p d 0 0 := by
  rw [grantPass_eq, getObj_setObj_fits _ (passResult_lt _ _ _ _ _ _)]

/-! ### The controller's queue -/

/-- The state in which a job that found the controller free is decided: it was put into the queue and taken. -/
def jobTaken (t : Nat) (j : AdmJob) (s : State) : State := setAdm t [] (setAdm t [j] s)

theorem getAdm_setAdm (t : Nat) (l : List AdmJob) (s : State) : getAdm (setAdm t l s) t = l :=
  fget_fset_same _ _ _ _

theorem getObj_withAdm (s : State) (a : FMap (List AdmJob)) (o : Out) (u k : Nat) :
    getObj (withAdm s a o) u k = getObj s u k := rfl

theorem setAdm_fresh (t : Nat) (l : List AdmJob) (s : State) :
    ∃ a, setAdm t l (fresh s) = withAdm s a {} ∧ fget [] a t = l := ⟨_, rfl, getAdm_setAdm t l (fresh s)⟩

theorem jobTaken_fresh (t : Nat) (j : AdmJob) (s : State) :
    ∃ a, jobTaken t j (fresh s) = withAdm s a {} ∧ fget [] a t = [] :=
  ⟨_, rfl, getAdm_setAdm t [] (setAdm t [j] (fresh s))⟩

/-- How a command ends that answers OK and, of the parts named here, changed the queue only. -/
theorem sameTime_withAdm (s : State) (a : FMap (List AdmJob)) :
    sameTime s (answer stOk (withAdm s a {})) = withAdm s a { status := stOk } := rfl

theorem runAdm_empty {t : Nat} {s : State} (h : getAdm s t = []) (fuel : Nat) : runAdm fuel t s = s := by
  cases fuel
  · rfl
  · simp only [runAdm, h]

theorem submitAdm_busy {t : Nat} {s : State} (h : getAdm s t ≠ []) (j : AdmJob) :
    submitAdm t j s = setAdm t (getAdm s t ++ [j]) s := by
  unfold submitAdm
  simp [h]

/-- A far contract that finds the controller free asks its source tile (R105, R110). -/
theorem submitAdm_asks {t : Nat} {j : AdmJob} {s : State} (h : getAdm s t = [])
    (ha : asksSource (setAdm t [j] s) t j = true) :
    submitAdm t j s = { setAdm t [j] s with
      queries := s.queries ++ [{ src := t, dst := cSource j.terms, kind := 4, arg := j.terms }] } := by
  unfold submitAdm
  simp only [h, List.nil_append, List.isEmpty_nil, if_true]
  rw [runAdm]
  simp only [getAdm_setAdm, ha, if_true]
  rfl

/-- Any other job that finds the controller free is decided at once. -/
theorem submitAdm_decides {t : Nat} {j : AdmJob} {s r : State} (h : getAdm s t = [])
    (ha : asksSource (setAdm t [j] s) t j = false) (hd : decideJob t j 0 false (jobTaken t j s) = r)
    (hr : r.adm = (jobTaken t j s).adm) : submitAdm t j s = r := by
  have hempty : getAdm r t = [] := by
    unfold getAdm
    rw [hr]
    exact getAdm_setAdm t [] _
  unfold submitAdm
  simp only [h, List.nil_append, List.isEmpty_nil, if_true]
  rw [runAdm]
  simp only [getAdm_setAdm, ha, Bool.false_eq_true, if_false]
  exact (congrArg (runAdm 3 t) hd).trans (runAdm_empty hempty 3)

/-! ### Whether a contract goes to its source tile -/

section
variable {s : State} {t k c : Nat}

theorem asksSource_turned_away {j : AdmJob} {st : Nat} (h : jobStatus s t j = some st) : asksSource s t j = false := by
  simp [asksSource, h]

theorem asksSource_near {j : AdmJob} (h : isFar t j.terms = false) : asksSource s t j = false := by
  simp [asksSource, h]

theorem asksSource_far (hk : k < 2) (hj : jobStatus s t { kind := k, terms := c } = none) (h : isFar t c = true) :
    asksSource s t { kind := k, terms := c } = true := by
  have hne : k ≠ 3 := by omega
  simp [asksSource, hj, h, hne]

end

/-! ### PassRequest and PassProbe

A statement for both: `k` is 0 for a PassRequest and 1 for a PassProbe. -/

/-- PassResult was written, and nothing else but the controller's queue and the answer. -/
def PassAnswered (s s' : State) (t v : Nat) : Prop :=
  (s'.out = { status := stOk } ∧ getObj s' t Obj.passResult = v) ∧ getAdm s' t = [] ∧
    OtherObjects s s' [(t, Obj.passResult)] ∧ s' = { s with dict := s'.dict, adm := s'.adm, out := s'.out }

/-- The contract was refused with REFUSED_ADMISSION (R110, R111): counted, its reason kept, no pass changed. -/
def PassRefused (s s' : State) (t reason rate bound : Nat) : Prop :=
  (s'.out = { status := stOk } ∧ getObj s' t Obj.passResult = passResult stRefusedAdmission reason 0 0 rate bound) ∧
    s'.passes = s.passes ∧ getObj s' t Obj.passRefusals = (getObj s t Obj.passRefusals + 1) % 2 ^ 32 ∧
    getObj s' t Obj.lastRefusalReason = reason % 256

theorem passAnswered_setResult {s : State} {a : FMap (List AdmJob)} {t v : Nat} (hv : v < 2 ^ objBits Obj.passResult)
    (hget : fget [] a t = []) :
    PassAnswered s (sameTime s (answer stOk (setResult t v (withAdm s a {})))) t v := by
  refine ⟨⟨rfl, ?_⟩, hget, fun u k hk hn => ?_, rfl⟩
  · rw [getObj_sameTime, getObj_answer]
    exact getObj_setObj_fits _ hv
  · rw [getObj_sameTime, getObj_answer]
    exact otherObjects_set (s := withAdm s a {}) rfl (by decide) u k hk hn

theorem refuseAdm_passes (t r x y : Nat) (s : State) : (refuseAdm t r x y s).passes = s.passes := by
  unfold refuseAdm setResult bump
  rw [setObj_passes, setObj_passes, setObj_passes]

/-- What a refusal writes, and that it is counted. -/
theorem getObj_refuseAdm (t r x y : Nat) (s : State) :
    getObj (refuseAdm t r x y s) t Obj.passResult = passResult stRefusedAdmission r 0 0 x y ∧
      getObj (refuseAdm t r x y s) t Obj.passRefusals = (getObj s t Obj.passRefusals + 1) % 2 ^ 32 ∧
      getObj (refuseAdm t r x y s) t Obj.lastRefusalReason = r % 256 := by
  have hlast : 2 ^ objBits Obj.lastRefusalReason = 256 := by decide
  have hcount : objBits Obj.passRefusals = 32 := by decide
  unfold refuseAdm setResult bump
  refine ⟨?_, ?_, ?_⟩
  · rw [getObj_setObj_fits _ (passResult_lt _ _ _ _ _ _)]
  · rw [getObj_setObj_obj _ (by decide) (by decide) (by decide), getObj_setObj_obj _ (by decide) (by decide) (by decide),
      getObj_setObj_same, hcount]
  · rw [getObj_setObj_obj _ (by decide) (by decide) (by decide), getObj_setObj_same, hlast]

/-- A refusal as the end of its command shows it. -/
theorem passRefused_of {s z : State} {t r x y : Nat} (hout : z.out = {}) (hpasses : z.passes = s.passes)
    (hresult : getObj z t Obj.passResult = passResult stRefusedAdmission r 0 0 x y)
    (hcount : getObj z t Obj.passRefusals = (getObj s t Obj.passRefusals + 1) % 2 ^ 32)
    (hlast : getObj z t Obj.lastRefusalReason = r % 256) : PassRefused s (sameTime s (answer stOk z)) t r x y := by
  refine ⟨⟨?_, hresult⟩, hpasses, hcount, hlast⟩
  show ({ z.out with status := stOk } : Out) = _
  rw [hout]

theorem passRefused_refuseAdm (s : State) (t r x y : Nat) (a : FMap (List AdmJob)) :
    PassRefused s (sameTime s (answer stOk (refuseAdm t r x y (withAdm s a {})))) t r x y := by
  obtain ⟨hresult, hcount, hlast⟩ := getObj_refuseAdm t r x y (withAdm s a {})
  rw [getObj_withAdm] at hcount
  exact passRefused_of rfl (refuseAdm_passes t r x y (withAdm s a {})) hresult hcount hlast

section
variable {cmd : Instr} {t : TileN} {k c : Nat} {s : State} (hc : exec cmd s = run (requestPass t.val k c 0) s)
include hc

theorem answers_admission_waits (h : getAdm s t.val ≠ []) : Answers cmd s (fun s' =>
    (∃ j, getAdm s' t.val = getAdm s t.val ++ [j] ∧ j.terms = c) ∧
      s' = { s with adm := s'.adm, out := { status := stOk } }) := by
  obtain ⟨a, ha, hget⟩ := setAdm_fresh t.val (getAdm s t.val ++ [{ kind := k, terms := c }]) s
  have hsubmit : submitAdm t.val { kind := k, terms := c } (fresh s) = withAdm s a {} :=
    (submitAdm_busy (s := fresh s) h _).trans ha
  refine answers_run hc ?_
  unfold requestPass
  rw [hsubmit, sameTime_withAdm]
  exact ⟨⟨_, hget, rfl⟩, rfl⟩

variable (h : getAdm s t.val = [])
include h

theorem answers_admission_asks (ha : asksSource s t.val { kind := k, terms := c } = true) : Answers cmd s (fun s' =>
    (∃ j, getAdm s' t.val = [j] ∧ j.terms = c) ∧
      (∃ q, s'.queries = s.queries ++ [q] ∧ q.src = t.val ∧ q.dst = cSource c ∧ q.kind = 4 ∧ q.arg = c) ∧
      s' = { s with adm := s'.adm, queries := s'.queries, out := { status := stOk } }) := by
  obtain ⟨a, hset, hget⟩ := setAdm_fresh t.val [{ kind := k, terms := c }] s
  refine answers_run hc ?_
  unfold requestPass
  rw [submitAdm_asks (s := fresh s) h ha, hset]
  exact ⟨⟨_, hget, rfl⟩, ⟨_, rfl, rfl, rfl, rfl, rfl⟩, rfl⟩

/-- A contract that is decided at once: `r` is what the decision makes of the state without its job. -/
theorem answers_admission_decided (ha : asksSource s t.val { kind := k, terms := c } = false) {P : State → Prop}
    (hd : ∀ a, fget [] a t.val = [] → ∃ r,
      decideJob t.val { kind := k, terms := c } 0 false (withAdm s a {}) = r ∧ r.adm = a ∧ P (sameTime s (answer stOk r))) :
    Answers cmd s P := by
  obtain ⟨a, htaken, hget⟩ := jobTaken_fresh t.val { kind := k, terms := c } s
  obtain ⟨r, hr, hadm, hp⟩ := hd a hget
  refine answers_run hc ?_
  unfold requestPass
  rw [submitAdm_decides (s := fresh s) (r := r) h ha (htaken ▸ hr) (htaken ▸ hadm)]
  exact hp

theorem answers_admission_result (ha : asksSource s t.val { kind := k, terms := c } = false) {st d : Nat}
    (hd : ∀ a, decideJob t.val { kind := k, terms := c } 0 false (withAdm s a {}) =
      setResult t.val (passResult st 0 0 d 0 0) (withAdm s a {})) :
    Answers cmd s (fun s' => PassAnswered s s' t.val (passResult st 0 0 d 0 0)) :=
  answers_admission_decided hc h ha
    (fun a hget => ⟨_, hd a, rfl, passAnswered_setResult (passResult_lt _ _ _ _ _ _) hget⟩)

theorem answers_admission_refused (ha : asksSource s t.val { kind := k, terms := c } = false) {r x y : Nat}
    (hd : ∀ a, decideJob t.val { kind := k, terms := c } 0 false (withAdm s a {}) =
      refuseAdm t.val r x y (withAdm s a {})) :
    Answers cmd s (fun s' => PassRefused s s' t.val r x y) :=
  answers_admission_decided hc h ha (fun a _ => ⟨_, hd a, rfl, passRefused_refuseAdm s t.val r x y a⟩)

end

/-! ### What is decided, by the state before the command -/

/-- The grant of a PassRequest as the state after it shows it. -/
def PassGranted (s s' : State) (t p c d : Nat) : Prop :=
  p < 256 ∧ (getPass s t p).state = 0 ∧
    (s'.out = { status := stOk } ∧ getObj s' t Obj.passResult = passResult stOk 0 p d 0 0) ∧
    (∃ b, getPass s' t p = { livePass s (grantedTerms c d) d with computed := b }) ∧
    (∀ k, k ≠ t * 256 + p → AlikeButBound (fget {} s'.passes k) (fget {} s.passes k)) ∧
    getObj s' t (Obj.passMissCount + p) = 0 ∧ getObj s' t (Obj.passBytes + p) = 0 ∧ SameMemory s s'

/-- A grant as the end of its command shows it. -/
theorem passGranted_of {s z : State} {t p c d : Nat} (hp : p < 256) (hfree : p ∉ usedNumbers s t) (hout : z.out = {})
    (hresult : getObj z t Obj.passResult = passResult stOk 0 p d 0 0)
    (hpass : ∃ b, getPass z t p = { livePass s (grantedTerms c d) d with computed := b })
    (hothers : ∀ k, k ≠ t * 256 + p → AlikeButBound (fget {} z.passes k) (fget {} s.passes k))
    (hmiss : getObj z t (Obj.passMissCount + p) = 0) (hbytes : getObj z t (Obj.passBytes + p) = 0)
    (hmem : SameMemory s z) : PassGranted s (sameTime s (answer stOk z)) t p c d := by
  refine ⟨hp, getPass_state_of_unused hp hfree, ⟨?_, hresult⟩, hpass, hothers, hmiss, hbytes, hmem⟩
  show ({ z.out with status := stOk } : Out) = _
  rw [hout]

/-- What a grant makes of a state `y` that has the passes and the time of the state `s` before the command. -/
theorem getPass_grantPass {s y : State} {t p c d : Nat} (hw : fwf (fun _ => ({} : Pass)) s.passes = true)
    (hpasses : y.passes = s.passes) (htime : y.time = s.time) :
    (∃ b, getPass (grantPass t p c d y) t p = { livePass s (grantedTerms c d) d with computed := b }) ∧
    ∀ k, k ≠ t * 256 + p → AlikeButBound (fget {} (grantPass t p c d y).passes k) (fget {} s.passes k) := by
  have hlive : livePass y (grantedTerms c d) d = livePass s (grantedTerms c d) d := by
    unfold livePass
    rw [htime]
  have hw' : fwf (fun _ => ({} : Pass)) y.passes = true := by rwa [hpasses]
  obtain ⟨b, hb⟩ := getPass_granted (t := t) (p := p) (c := c) (d := d) hw'
  obtain ⟨htable, -, -⟩ := grantPass_kept t p c d y
  rw [hlive] at hb
  unfold getPass at hb ⊢
  rw [htable, ← hpasses]
  exact ⟨⟨b, hb⟩, fun k hk => alikeButBound_granted_other hw' hk⟩

theorem passGranted {s : State} {t p c d : Nat} (hw : fwf (fun _ => ({} : Pass)) s.passes = true)
    (hp : p < 256) (hfree : p ∉ usedNumbers s t) (a : FMap (List AdmJob)) :
    PassGranted s (sameTime s (answer stOk (grantPass t p c d (clearPassCounts t p (draw (withAdm s a {})).2))))
      t p c d := by
  obtain ⟨hmiss, hbytes⟩ := getObj_clearPassCounts hp t (draw (withAdm s a {})).2
  obtain ⟨hpasses, htime, hout, hmem⟩ := clearPassCounts_kept t p (draw (withAdm s a {})).2
  obtain ⟨-, hanswer, hsame⟩ := grantPass_kept t p c d (clearPassCounts t p (draw (withAdm s a {})).2)
  obtain ⟨hpass, hothers⟩ := getPass_grantPass (t := t) (p := p) (c := c) (d := d) hw hpasses htime
  refine passGranted_of hp hfree (hanswer.trans hout) (getObj_grantPass_result _ _ _ _ _) hpass hothers ?_ ?_
    (SameMemory.trans (b := clearPassCounts t p (draw (withAdm s a {})).2) hmem hsame)
  · refine (getObj_grantPass _ ?_ ?_ ?_).trans hmiss
    all_goals simp only [Obj.passMissCount, Obj.passResult, Obj.passGrants]
    all_goals omega
  · refine (getObj_grantPass _ ?_ ?_ ?_).trans hbytes
    all_goals simp only [Obj.passBytes, Obj.passResult, Obj.passGrants]
    all_goals omega

/-- The number drawn does not depend on the controller's queue. -/
theorem drawnNumber_withAdm (s : State) (a : FMap (List AdmJob)) (o : Out) (t : Nat) :
    drawnNumber (withAdm s a o) t = drawnNumber s t := rfl

section
variable {cmd : Instr} {t : TileN} {c : Nat} {s : State}

/-- What is decided at once without being weighed. -/
theorem answers_turned_away {k st : Nat} (hc : exec cmd s = run (requestPass t.val k c 0) s) (hk : k < 2)
    (h : getAdm s t.val = []) (hj : jobStatus s t.val { kind := k, terms := c } = some st) :
    Answers cmd s (fun s' => PassAnswered s s' t.val (passResult st 0 0 0 0 0)) :=
  answers_admission_result hc h (asksSource_turned_away hj) (fun a =>
    decideJob_turned_away (j := { kind := k, terms := c }) hk ((jobStatus_withAdm s a {} _ _).trans hj))

/-- A near contract that this tile may grant finds the controller free. -/
structure Weighed (s : State) (t c : Nat) : Prop where
  good : contractBad t c = false
  belongs : rangeBelongs s t c = true
  idle : getAdm s t = []
  near : isFar t c = false

variable (w : Weighed s t.val c)
include w

theorem Weighed.jobStatus_eq_none {k : Nat} (a : FMap (List AdmJob)) :
    jobStatus (withAdm s a {}) t.val { kind := k, terms := c } = none :=
  (jobStatus_withAdm s a {} _ _).trans (jobStatus_weighed w.good w.belongs)

theorem Weighed.answers_status {k st : Nat} (hc : exec cmd s = run (requestPass t.val k c 0) s) (hk : k < 2)
    (hv : decideAdmission s t.val c (k = 0) 0 false = .status st) :
    Answers cmd s (fun s' => PassAnswered s s' t.val (passResult st 0 0 0 0 0)) :=
  answers_admission_result hc w.idle (asksSource_near w.near) (fun a =>
    decideJob_status (j := { kind := k, terms := c }) hk (w.jobStatus_eq_none a)
      ((decideAdmission_withAdm s a {} _ _ _ _ _).trans hv))

theorem Weighed.answers_refuse {k r x y : Nat} (hc : exec cmd s = run (requestPass t.val k c 0) s) (hk : k < 2)
    (hv : decideAdmission s t.val c (k = 0) 0 false = .refuse r x y) :
    Answers cmd s (fun s' => PassRefused s s' t.val r x y) :=
  answers_admission_refused hc w.idle (asksSource_near w.near) (fun a =>
    decideJob_refuse (j := { kind := k, terms := c }) hk (w.jobStatus_eq_none a)
      ((decideAdmission_withAdm s a {} _ _ _ _ _).trans hv))

theorem Weighed.answers_probe {d : Nat} (hc : exec cmd s = run (requestPass t.val 1 c 0) s)
    (hv : decideAdmission s t.val c false 0 false = .ok d) :
    Answers cmd s (fun s' => PassAnswered s s' t.val (passResult stOk 0 0 d 0 0)) :=
  answers_admission_result hc w.idle (asksSource_near w.near) (fun a => decideJob_probe (j := { kind := 1, terms := c })
    (w.jobStatus_eq_none a) rfl ((decideAdmission_withAdm s a {} _ _ _ _ _).trans hv))

theorem Weighed.answers_grant {d : Nat} (hc : exec cmd s = run (requestPass t.val 0 c 0) s)
    (hv : decideAdmission s t.val c true 0 false = .ok d) (hw : fwf (fun _ => ({} : Pass)) s.passes = true) :
    Answers cmd s (fun s' => ∃ p, PassGranted s s' t.val p c d) := by
  obtain ⟨hp, hfree⟩ := mem_freeNumbers.mp (drawnNumber_mem (usedNumbers_lt_of_ok hv))
  refine answers_admission_decided hc w.idle (asksSource_near w.near) (fun a _ => ?_)
  have hgrant := decideJob_grant (j := { kind := 0, terms := c }) (w.jobStatus_eq_none a) rfl
    ((decideAdmission_withAdm s a {} _ _ _ _ _).trans hv)
  rw [drawnNumber_withAdm] at hgrant
  exact ⟨_, hgrant, (grantPass_adm _ _ _ _ _).trans (clearPassCounts_adm _ _ _), _, passGranted hw hp hfree a⟩

end

/-- PassRequest and PassProbe are one effect, with the kind of its job. -/
theorem exec_admission {cmd : Instr} {t : TileN} {contract : BitVec 512} (s : State)
    (h : cmd ∈ ([.passRequest t contract, .passProbe t contract] : List Instr)) :
    ∃ k < 2, exec cmd s = run (requestPass t.val k contract.toNat 0) s := by
  simp only [List.mem_cons, List.not_mem_nil, or_false] at h
  rcases h with rfl | rfl
  · exact ⟨0, by decide, exec_passRequest t contract s⟩
  · exact ⟨1, by decide, exec_passProbe t contract s⟩

/-- Settles O24: by whether the controller is free, then by what R100, R101 and R105 make of the contract, then by
the decision of R110. -/
theorem passAdmission : Obligations.PassAdmission := by
  intro t contract s
  refine ⟨fun cmd hcmd => ?_, fun hgood hbelongs hidle hnear => ?_⟩
  · obtain ⟨k, hk, hc⟩ := exec_admission s hcmd
    exact ⟨answers_admission_waits hc,
      fun hidle hbad => answers_turned_away hc hk hidle (jobStatus_bad hk hbad),
      fun hidle hgood hdenied => answers_turned_away hc hk hidle (jobStatus_denied hk hgood hdenied),
      fun hgood hbelongs hidle hfar => answers_admission_asks hc hidle
        (asksSource_far hk (jobStatus_weighed hgood hbelongs) hfar)⟩
  · have w : Weighed s t.val contract.toNat := ⟨hgood, hbelongs, hidle, hnear⟩
    have hreq := exec_passRequest t contract s
    have hprobe := exec_passProbe t contract s
    exact ⟨fun st => w.answers_status hprobe (by decide), fun r a b => w.answers_refuse hprobe (by decide),
      fun d => w.answers_probe hprobe, fun st => w.answers_status hreq (by decide),
      fun r a b => w.answers_refuse hreq (by decide), fun d => w.answers_grant hreq⟩

end Sys2Proof.Machine

/-! ## Proofs: requests at the ingress -/

namespace Sys2Proof.Machine

open Sys2Proof

/-! ### What the ingress of a tile leaves alone (R69, R70) -/

/-- No word of memory and no assembly buffer changes. -/
structure Ingress (s s' : State) : Prop where
  memory : SameMemory s s'
  asm : s'.asm = s.asm

/-- Nor is a request sent to another tile, and the open requests stay, each as it is named. -/
structure Queued (s s' : State) : Prop extends Ingress s s' where
  farReqs : s'.farReqs = s.farReqs
  keys : ∀ t, (openReqs s' t).map reqKey = (openReqs s t).map reqKey

/-- Nor does anything of the schedulers change. -/
structure Aside (s s' : State) : Prop extends Ingress s s' where
  farReqs : s'.farReqs = s.farReqs
  sched : s'.sched = s.sched

theorem Ingress.trans {a b c : State} (h : Ingress a b) (h' : Ingress b c) : Ingress a c :=
  ⟨h.memory.trans h'.memory, h'.asm.trans h.asm⟩

theorem Queued.refl (s : State) : Queued s s := ⟨⟨sameMemory_of rfl rfl rfl rfl, rfl⟩, rfl, fun _ => rfl⟩

theorem Queued.trans {a b c : State} (h : Queued a b) (h' : Queued b c) : Queued a c :=
  ⟨h.toIngress.trans h'.toIngress, h'.farReqs.trans h.farReqs, fun t => (h'.keys t).trans (h.keys t)⟩

/-- Chaining from the last step inwards. -/
theorem Queued.after {a b c : State} (h' : Queued b c) (h : Queued a b) : Queued a c := h.trans h'

theorem queued_foldl {α : Type} {f : State → α → State} (hf : ∀ s a, Queued s (f s a)) (l : List α) (s : State) :
    Queued s (l.foldl f s) := by
  induction l generalizing s with
  | nil => exact .refl s
  | cons a l ih => exact (hf s a).trans (ih _)

/-- The parts of the state that `Aside` speaks of. -/
def ingressParts (s : State) := (s.dram, s.layer, s.slate, s.inkwell, s.asm, s.farReqs, s.sched)

theorem aside_of {s s' : State} (h : ingressParts s' = ingressParts s) : Aside s s' := by
  simp only [ingressParts, Prod.mk.injEq] at h
  obtain ⟨hdram, hlayer, hslate, hinkwell, hasm, hfar, hsched⟩ := h
  exact ⟨⟨sameMemory_of hdram hlayer hslate hinkwell, hasm⟩, hfar, hsched⟩

theorem Aside.trans {a b c : State} (h : Aside a b) (h' : Aside b c) : Aside a c :=
  ⟨h.toIngress.trans h'.toIngress, h'.farReqs.trans h.farReqs, h'.sched.trans h.sched⟩

theorem Aside.openReqs {s s' : State} (h : Aside s s') (t : Nat) : openReqs s' t = openReqs s t :=
  openReqs_congr h.sched t

theorem Aside.queued {s s' : State} (h : Aside s s') : Queued s s' :=
  ⟨h.toIngress, h.farReqs, fun t => congrArg _ (h.openReqs t)⟩

theorem queued_of {s s' : State} (h : ingressParts s' = ingressParts s) : Queued s s' := (aside_of h).queued

theorem Accounts.aside {s s' : State} (h : Accounts s s') : Aside s s' := aside_of (by rw [h]; rfl)

theorem Books.aside {s s' : State} (h : Books s s') : Aside s s' := h.accounts.aside

theorem ReadWord.aside {s s' : State} (h : ReadWord s s') : Aside s s' := aside_of (by rw [h]; rfl)

theorem Enters.queued {s s' : State} (h : Enters s s') : Queued s s' := by
  refine ⟨⟨sameMemory_of ?_ ?_ ?_ ?_, ?_⟩, ?_, h.keys⟩ <;> rw [h.fields]

theorem Flushes.queued {rule : Nat} {s s' : State} (h : Flushes rule s s') : Queued s s' := by
  refine ⟨⟨h.sameMemory, ?_⟩, ?_, h.keys⟩ <;> rw [h.fields]

theorem queued_bump (u k n : Nat) (s : State) : Queued s (bump u k n s) := queued_of rfl
theorem queued_modQueue (t c : Nat) (f : QueueS → QueueS) (s : State) : Queued s (modQueue t c f s) := queued_of rfl
theorem queued_setMerge (t i : Nat) (m : Merge) (s : State) : Queued s (setMerge t i m s) := queued_of rfl
theorem queued_newId (t : Nat) (s : State) : Queued s (newId t s).2 := (enters_newId t s).queued

theorem queued_newOrder (t : Nat) (s : State) : Queued s (newOrder t s).2 :=
  (enters_modSched (f := fun x => { x with nextOrder := x.nextOrder + 1 }) (fun _ => rfl) s).queued

theorem queued_modReq (t id : Nat) {f : Req → Req} (s : State)
    (hf : ∀ r, reqKey (f r) = reqKey r := by exact fun _ => rfl) : Queued s (modReq t id f s) :=
  (enters_modReq hf s).queued

/-! ### Work that waits without a FIFO, and held words that are read (R429, Table 10.4) -/

theorem queued_takeEntry (t c : Nat) (a : Acc) (s : State) : Queued s (takeEntry t c a s) := by
  unfold takeEntry
  dsimp only
  split
  · exact (queued_modQueue _ _ _ _).after (queued_modQueue _ _ _ s)
  · exact queued_modQueue _ _ _ s

theorem queued_drainDeferred (fuel t c : Nat) (s : State) : Queued s (drainDeferred fuel t c s) := by
  induction fuel generalizing s with
  | zero => exact .refl s
  | succ fuel ih =>
    unfold drainDeferred
    split
    · exact .refl s
    · refine (ih _).after ?_
      split
      · exact (flushes_mergeSettle 0 _ _ _ _).queued.after ((queued_takeEntry _ _ _ _).after (queued_modQueue _ _ _ s))
      · exact (queued_takeEntry _ _ _ _).after (queued_modQueue _ _ _ s)

theorem queued_heldFound (t : Nat) (err : FMap Nat) (p : Nat) (s : State) : Queued s (heldFound t err p s) := by
  induction err generalizing s with
  | nil => exact .refl s
  | cons e err ih =>
    obtain ⟨i, m⟩ := e
    have hdraw : Queued s (draw s).2 := queued_of rfl
    unfold heldFound
    dsimp only
    refine (ih _).after ?_
    split
    · exact (readWord_corrected _ _ _ _ _).aside.queued.after hdraw
    · exact (books_uncorrectable _ _ _ _).aside.queued.after hdraw
    · exact .refl s

/-- Requests with a word found uncorrectable take that status. -/
theorem queued_worsen (t st : Nat) (ids : List Nat) (s : State) : Queued s
    (ids.foldl (fun s id => modReq t id (fun r => { r with status := worse r.status st }) s) s) :=
  queued_foldl (fun x id => queued_modReq t id x) ids s

theorem queued_readHeld (t c : Nat) (a : Acc) (s : State) : Queued s (readHeld t c a s).2 := by
  unfold readHeld
  split
  · exact .refl s
  · dsimp only
    split
    · exact (queued_modQueue _ _ _ _).after (queued_heldFound _ _ _ s)
    · exact (queued_worsen _ _ _ _).after ((queued_modQueue _ _ _ _).after (queued_heldFound _ _ _ s))

theorem queued_readSources (t c : Nat) (a : Acc) (s : State) : Queued s (readSources t c a s) := by
  refine queued_foldl (fun x w => ?_) _ s
  split
  · exact queued_readHeld _ _ _ x
  · exact .refl x

/-! ### The merge buffer (R89, R90) -/

theorem queued_flushMerge (t i rule : Nat) (s : State) : Queued s (flushMerge t i rule s) :=
  (flushes_flushMerge t i rule s).queued

theorem queued_flushWhere (t rule : Nat) (p : Merge → Bool) (s : State) : Queued s (flushWhere t rule p s) :=
  (flushes_flushWhere t rule p s).queued

theorem queued_readMerge (t k : Nat) (a : Acc) (m : Merge) (s : State) : Queued s (readMerge t k a m s).2 := by
  unfold readMerge
  split
  · exact .refl s
  · dsimp only
    split
    · exact queued_heldFound _ _ _ s
    · exact (queued_worsen _ _ _ _).after (queued_heldFound _ _ _ s)

theorem queued_enterMerge (t : Nat) (r : Req) (a : Acc) (s : State) : Queued s (enterMerge t r a s) := by
  unfold enterMerge
  dsimp only
  split
  · split
    · exact (queued_flushMerge _ _ _ _).after ((queued_setMerge _ _ _ _).after ((queued_readMerge _ _ _ _ _).after
        ((queued_modReq _ _ _).after (queued_flushWhere _ _ _ s))))
    · exact (queued_setMerge _ _ _ _).after ((queued_readMerge _ _ _ _ _).after
        ((queued_modReq _ _ _).after (queued_flushWhere _ _ _ s)))
  · exact (queued_bump _ _ _ _).after ((queued_setMerge _ _ _ _).after
      ((queued_modReq _ _ _).after (queued_flushWhere _ _ _ s)))

theorem queued_mergeRoom (t : Nat) (r : Req) (l : List (Nat × Acc)) (fuel : Nat) (s : State) :
    Queued s (mergeRoom t r l fuel s).2 := by
  induction fuel generalizing s with
  | zero => exact .refl s
  | succ fuel ih =>
    unfold mergeRoom
    dsimp only
    split
    · exact .refl s
    · split
      · exact .refl s
      · split
        · exact (ih _).after (queued_flushMerge _ _ _ s)
        · exact .refl s

/-! ### A request enters the queues or waits (R70) -/

theorem queued_supersede (t c b row sector mask : Nat) (s : State) : Queued s (supersede t c b row sector mask s) := by
  unfold supersede
  dsimp only
  split
  · exact queued_modQueue _ _ _ s
  · exact (queued_bump _ _ _ _).after (queued_modQueue _ _ _ s)

theorem queued_supersedeBy (t c : Nat) (a : Acc) (s : State) : Queued s (supersedeBy t c a s) := by
  unfold supersedeBy
  dsimp only
  split
  · split
    · exact (queued_supersede _ _ _ _ _ _ _).after (queued_supersede _ _ _ _ _ _ s)
    · exact queued_supersede _ _ _ _ _ _ s
  · exact queued_supersede _ _ _ _ _ _ s
  · exact .refl s

theorem queued_enqueue (t c : Nat) (a : Acc) (s : State) : Queued s (enqueue t c a s) :=
  (queued_modQueue _ _ _ _).after ((queued_newId t _).after (queued_supersedeBy t c a s))

theorem queued_completeAcc (t c : Nat) (a : Acc) (st data bad : Nat) (s : State) :
    Queued s (completeAcc t c a st data bad s) := (enters_completeAcc t c a st data bad s).queued

theorem queued_queueOne (t c : Nat) (r : Req) (a : Acc) (s : State) : Queued s (queueOne t c r a s) := by
  unfold queueOne
  split
  · exact queued_completeAcc _ _ _ _ _ _ s
  · split
    · exact queued_enterMerge _ _ _ s
    · split
      · exact (queued_completeAcc _ _ _ _ _ _ _).after ((queued_modReq _ _ _).after
          ((queued_bump _ _ _ _).after (queued_readSources _ _ _ s)))
      · exact queued_enqueue _ _ _ s

theorem queued_waitReq (t : Nat) (r : Req) (why : Nat) (met : List Nat) (s : State) :
    Queued s (waitReq t r why met s) := by
  unfold waitReq
  dsimp only
  split
  · exact (queued_modReq _ _ _).after (queued_bump _ _ _ s)
  · exact queued_modReq _ _ s

/-- The accesses that a request meets waiting work and merge entries with, before it takes entries itself. -/
theorem queued_meets (t : Nat) (r : Req) (l : List (Nat × Acc)) (s : State) : Queued s
    (l.foldl (fun s e => drainDeferred 64 t e.1 (if mergeable s t e.2 then s else mergeHazards t r e.2 s)) s) := by
  refine queued_foldl (fun x e => (queued_drainDeferred _ _ _ _).after ?_) l s
  split
  · exact .refl x
  · exact queued_flushWhere _ _ _ x

theorem queued_queueReq (t : Nat) (r : Req) (s : State) : Queued s (queueReq t r s) := by
  unfold queueReq
  dsimp only
  split
  · exact (queued_waitReq _ _ _ _ _).after (queued_meets t r _ s)
  · split
    · exact (queued_foldl (fun x e => queued_queueOne _ _ _ _ x) _ _).after ((queued_modReq _ _ _).after
        ((queued_mergeRoom _ _ _ _ _).after (queued_meets t r _ s)))
    · exact (queued_waitReq _ _ _ _ _).after ((queued_mergeRoom _ _ _ _ _).after (queued_meets t r _ s))

end Sys2Proof.Machine

/-! ## Proofs: requests go on and are accepted -/

namespace Sys2Proof.Machine

open Sys2Proof

/-! ### The open requests of a tile, one more and one fewer -/

theorem openReqs_modSched (t : Nat) (f : TileSched → TileSched) (s : State) :
    openReqs (modSched t f s) t = (f (getSched s t)).reqs := by
  unfold openReqs getSched modSched
  rw [fget_fupd_same]

theorem openReqs_addReq (t : Nat) (r : Req) (s : State) : openReqs (addReq t r s) t = openReqs s t ++ [r] :=
  openReqs_modSched _ _ _

theorem openReqs_modReq (t id : Nat) (f : Req → Req) (s : State) :
    openReqs (modReq t id f s) t = (openReqs s t).map (fun r => if r.id = id then f r else r) :=
  openReqs_modSched _ _ _

theorem ingress_modSched (t : Nat) (f : TileSched → TileSched) (s : State) : Ingress s (modSched t f s) :=
  ⟨sameMemory_of rfl rfl rfl rfl, rfl⟩

theorem ingress_addReq (t : Nat) (r : Req) (s : State) : Ingress s (addReq t r s) := ingress_modSched _ _ s

theorem keys_addReq {s y : State} (h : Queued s y) (t : Nat) (r : Req) :
    (openReqs (addReq t r y) t).map reqKey = (openReqs s t).map reqKey ++ [reqKey r] := by
  rw [openReqs_addReq, List.map_append, h.keys]
  rfl

/-- A request that is the newest before some steps of the ingress is there after them, as it was named. -/
theorem exists_of_keys {l l' : List Req} (h : l'.map reqKey = l.map reqKey) {r : Req} (hr : r ∈ l) :
    ∃ x ∈ l', reqKey x = reqKey r := by
  have hmem : reqKey r ∈ l'.map reqKey := h ▸ List.mem_map_of_mem hr
  exact List.mem_map.mp hmem

/-! ### A request leaves for its owner (R14, R315, R319) -/

theorem meterToken_fields (t k n : Nat) (s : State) :
    meterToken t k n s = { s with withheld := (meterToken t k n s).withheld } := by
  unfold meterToken
  split <;> rfl

theorem aside_holdFar (u : Nat) (passNo : Option Nat) (s : State) : Aside s (holdFar u passNo s) := by
  unfold holdFar
  split
  · split
    · exact (side_setForce _ _ _ _ s).books.aside
    · exact (Books.refl s).aside
  · exact (Books.refl s).aside

/-- The message that a request of a tile becomes on its way to its owner. -/
def sentReq (t : Nat) (r : Req) : FarReq where
  src := t
  dst := addrTile r.addr
  origin := t
  orig := r.orig
  tag := r.tag
  addr := r.addr
  len := r.len
  write := r.write
  barrier := r.barrier
  passNo := r.passNo
  data := r.data
  pois := r.pois
  accepted := r.accepted
  stamp := r.stamp
  srcOrder := r.order
  dropped := r.dropped
  best := r.best
  part := r.part
  cls := r.cls

/-- The gateway has metered the request, and it is on its way. -/
def onItsWay (t : Nat) (r : Req) (s : State) : State :=
  { s with
    withheld := (if r.passNo.isNone then meterToken t gatewayToken (linkFraction s t) s else s).withheld
    farReqs := s.farReqs ++ [sentReq t r] }

theorem sendFar_eq (t : Nat) (r : Req) (s : State) : sendFar t r s =
    portCount t 4 true (if r.write then r.len else 0) (holdFar (addrTile r.addr) r.passNo (onItsWay t r s)) := by
  unfold sendFar onItsWay
  split
  · rw [meterToken_fields]
    rfl
  · rfl

theorem sendFar_spec (t : Nat) (r : Req) (s : State) : Ingress s (sendFar t r s) ∧
    (sendFar t r s).farReqs = s.farReqs ++ [sentReq t r] ∧ (sendFar t r s).sched = s.sched := by
  have haside := (aside_holdFar (addrTile r.addr) r.passNo (onItsWay t r s)).trans
    (accounts_portCount t 4 true (if r.write then r.len else 0) _).aside
  have hway : Ingress s (onItsWay t r s) := ⟨sameMemory_of rfl rfl rfl rfl, rfl⟩
  rw [sendFar_eq]
  exact ⟨hway.trans haside.toIngress, haside.farReqs, haside.sched⟩

/-! ### A request past its checks (R70, R85) -/

theorem goOn_near {t : Nat} {r : Req} {s : State} (h : addrTile r.addr = t) : goOn t r s = queueReq t r s := if_pos h

theorem goOn_far {t : Nat} {r : Req} {s : State} (h : addrTile r.addr ≠ t) :
    goOn t r s = sendFar t r (closeReq t r.id s) := if_neg h

theorem ingress_goOn (t : Nat) (r : Req) (s : State) : Ingress s (goOn t r s) := by
  by_cases h : addrTile r.addr = t
  · rw [goOn_near h]
    exact (queued_queueReq t r s).toIngress
  · rw [goOn_far h]
    exact (ingress_modSched _ _ s).trans (sendFar_spec t r _).1

/-- The state in which a barrier looks for earlier requests: merge entries with bytes of its requester are flushed. -/
def barrierSeen (t : Nat) (r : Req) (s : State) : State := flushWhere t 4 (mergeHolds s t r.requester) s

theorem queued_barrierSeen (t : Nat) (r : Req) (s : State) : Queued s (barrierSeen t r s) :=
  queued_flushWhere _ _ _ s

theorem proceed_plain {t : Nat} {r : Req} {s : State} (h : r.barrier = false) : proceed t r s = goOn t r s :=
  if_neg (by simp [h])

theorem proceed_waits {t : Nat} {r : Req} {s : State} (h : r.barrier = true)
    (he : earlierOpen (barrierSeen t r s) t r = true) : proceed t r s = waitReq t r 2 [] (barrierSeen t r s) :=
  (if_pos h).trans (if_pos he)

theorem proceed_goes {t : Nat} {r : Req} {s : State} (h : r.barrier = true)
    (he : earlierOpen (barrierSeen t r s) t r = false) : proceed t r s = goOn t r (barrierSeen t r s) :=
  (if_pos h).trans (if_neg (he ▸ Bool.false_ne_true))

theorem ingress_proceed (t : Nat) (r : Req) (s : State) : Ingress s (proceed t r s) := by
  cases hb : r.barrier with
  | false =>
    rw [proceed_plain hb]
    exact ingress_goOn t r s
  | true =>
    cases he : earlierOpen (barrierSeen t r s) t r with
    | true =>
      rw [proceed_waits hb he]
      exact ((queued_waitReq _ _ _ _ _).after (queued_barrierSeen t r s)).toIngress
    | false =>
      rw [proceed_goes hb he]
      exact (queued_barrierSeen t r s).toIngress.trans (ingress_goOn t r _)

theorem queued_proceed {t : Nat} {r : Req} (h : addrTile r.addr = t) (s : State) : Queued s (proceed t r s) := by
  cases hb : r.barrier with
  | false =>
    rw [proceed_plain hb, goOn_near h]
    exact queued_queueReq t r s
  | true =>
    cases he : earlierOpen (barrierSeen t r s) t r with
    | true =>
      rw [proceed_waits hb he]
      exact (queued_waitReq _ _ _ _ _).after (queued_barrierSeen t r s)
    | false =>
      rw [proceed_goes hb he, goOn_near h]
      exact (queued_queueReq t r _).after (queued_barrierSeen t r s)

/-- A barrier that waits is among the open requests, marked so (R85). -/
theorem exists_waitReq_barrier {t : Nat} {r : Req} {s : State} (h : ∃ x ∈ openReqs s t, reqKey x = reqKey r) :
    ∃ x ∈ openReqs (waitReq t r 2 [] s) t, x.tag = r.tag ∧ x.waiting = 2 := by
  obtain ⟨x, hx, hkey⟩ := h
  simp only [reqKey, Prod.mk.injEq] at hkey
  obtain ⟨hid, -, -, -, htag, -⟩ := hkey
  have hwait : waitReq t r 2 [] s = modReq t r.id (fun r => { r with waiting := 2, met := [] }) s := rfl
  rw [hwait, openReqs_modReq]
  exact ⟨_, List.mem_map_of_mem hx, by rw [if_pos hid]; exact ⟨htag, rfl⟩⟩

/-- A request to another tile that is no barrier leaves at once (R14). -/
theorem proceed_addReq_far {t : Nat} {r : Req} {y : State} (hb : r.barrier = false) (hfar : addrTile r.addr ≠ t) :
    openReqs (proceed t r (addReq t r y)) t = (openReqs y t).filter (fun q => q.id ≠ r.id) ∧
      (proceed t r (addReq t r y)).farReqs = y.farReqs ++ [sentReq t r] := by
  obtain ⟨-, hsent, hsched⟩ := sendFar_spec t r (closeReq t r.id (addReq t r y))
  rw [proceed_plain hb, goOn_far hfar]
  refine ⟨?_, hsent⟩
  rw [openReqs_congr hsched, openReqs_closeReq, openReqs_addReq, List.filter_append]
  simp

/-- A barrier to another tile waits for the earlier requests of its requester, or leaves (R85). -/
theorem proceed_addReq_barrier {t : Nat} {r : Req} {y : State} (hb : r.barrier = true) (hfar : addrTile r.addr ≠ t) :
    ((proceed t r (addReq t r y)).farReqs = y.farReqs ∧
      ∃ x ∈ openReqs (proceed t r (addReq t r y)) t, x.tag = r.tag ∧ x.waiting = 2) ∨
    (proceed t r (addReq t r y)).farReqs = y.farReqs ++ [sentReq t r] := by
  have hseen := queued_barrierSeen t r (addReq t r y)
  cases he : earlierOpen (barrierSeen t r (addReq t r y)) t r with
  | true =>
    rw [proceed_waits hb he]
    refine .inl ⟨(queued_waitReq t r 2 [] _).farReqs.trans hseen.farReqs, exists_waitReq_barrier ?_⟩
    exact exists_of_keys (hseen.keys t) (by rw [openReqs_addReq]; simp)
  | false =>
    obtain ⟨-, hsent, -⟩ := sendFar_spec t r (closeReq t r.id (barrierSeen t r (addReq t r y)))
    rw [proceed_goes hb he, goOn_far hfar, hsent]
    exact .inr (congrArg (· ++ _) hseen.farReqs)

/-! ### The number of an accepted request (R70) -/

/-- The state in which a new request has its place and its number. -/
def numbered (t : Nat) (s : State) : State := (newId t (newOrder t s).2).2

/-- The request with its place and its number. -/
def withNumber (t : Nat) (r : Req) (s : State) : Req :=
  { r with id := (newId t (newOrder t s).2).1, order := (newOrder t s).1 }

theorem withNumber_id (t : Nat) (r : Req) (s : State) : (withNumber t r s).id = (getSched s t).nextId := by
  show (getSched (modSched t _ s) t).nextId = _
  unfold getSched modSched
  rw [fget_fupd_same]

theorem withNumber_eq (t : Nat) (r : Req) (s : State) : withNumber t r s =
    { r with id := (getSched s t).nextId, order := (getSched s t).nextOrder } := by
  rw [← withNumber_id t r s]
  rfl

theorem queued_numbered (t : Nat) (s : State) : Queued s (numbered t s) :=
  (queued_newId t _).after (queued_newOrder t s)

theorem openReqs_numbered (t : Nat) (s : State) : openReqs (numbered t s) t = openReqs s t := by
  unfold numbered newId newOrder
  rw [openReqs_modSched]
  exact openReqs_modSched _ _ _

theorem aside_countEv (t e q w : Nat) (s : State) : Aside s (countEv t e q w s) := (side_countEv t e q w s).books.aside

/-! ### Acceptance at the owner (R70, R125) -/

/-- The request and the state of an acceptance before the checks. -/
def arriving (t : Nat) (r : Req) (s : State) : Req := { withNumber t r s with here := s.time.timeBase }
def arrived (t : Nat) (r : Req) (s : State) : State := countEv t 0x0010 r.requester 1 (numbered t s)

theorem queued_arrived (t : Nat) (r : Req) (s : State) : Queued s (arrived t r s) :=
  (aside_countEv _ _ _ _ _).queued.after (queued_numbered t s)

theorem accounts_regCheck (t g : Nat) (s : State) : Accounts s (regCheck t g s) := by
  unfold regCheck
  dsimp only
  split
  · split <;> rfl
  · split <;> rfl

theorem accounts_regEnter (t g : Nat) (s : State) : Accounts s (regEnter t g s) :=
  Accounts.trans (Books.trans (books_setObj _ _ _ s) (books_setObj _ _ _ _)).accounts (accounts_regCheck _ _ _)

theorem queued_denyReq (t : Nat) (r : Req) (s : State) : Queued s (denyReq t r s) :=
  ((books_bump _ _ _ s).trans (books_setObj _ _ _ _)).aside.queued

/-- A request named as `r` is added to the open ones: answered as it stands, or it goes on from there. -/
inductive Added (t : Nat) (s : State) (r : Req) : State → Prop
  | answered {y : State} {x : Req} (hy : Queued s y) (hx : reqKey x = reqKey r) : Added t s r (addReq t x y)
  | goesOn {y : State} {x : Req} (hy : Queued s y) (hx : reqKey x = reqKey r) :
      Added t s r (proceed t x (addReq t x y))

theorem Added.ingress {t : Nat} {s s' : State} {r : Req} (h : Added t s r s') : Ingress s s' := by
  cases h with
  | answered hy => exact hy.toIngress.trans (ingress_addReq _ _ _)
  | goesOn hy => exact (hy.toIngress.trans (ingress_addReq _ _ _)).trans (ingress_proceed _ _ _)

/-- A request of this tile is the newest of the open ones, and nothing is sent. -/
theorem Added.here {t : Nat} {s s' : State} {r : Req} (h : Added t s r s') (hr : addrTile r.addr = t) :
    s'.farReqs = s.farReqs ∧ (openReqs s' t).map reqKey = (openReqs s t).map reqKey ++ [reqKey r] := by
  cases h with
  | answered hy hx => exact ⟨hy.farReqs, hx ▸ keys_addReq hy t _⟩
  | @goesOn y x hy hx =>
    have hq : Queued (addReq t x y) (proceed t x (addReq t x y)) := by
      refine queued_proceed ?_ _
      simp only [reqKey, Prod.mk.injEq] at hx
      obtain ⟨-, -, -, -, -, haddr, -⟩ := hx
      rw [haddr, hr]
    exact ⟨hq.farReqs.trans hy.farReqs, (hq.keys t).trans (hx ▸ keys_addReq hy t x)⟩

/-- However the checks of an acceptance end, the request is added. -/
theorem added_acceptReq (t : Nat) (r : Req) (s : State) : Added t s (withNumber t r s) (acceptReq t r s) := by
  unfold acceptReq
  dsimp -zeta only
  extract_lets x y p
  have hy : Queued s y := queued_arrived t r s
  have hx : reqKey x = reqKey (withNumber t r s) := rfl
  clear_value p y x
  split
  · exact .answered hy hx
  split
  · exact .answered hy hx
  split
  · exact .answered ((queued_denyReq _ _ _).after hy) hx
  extract_lets x1 y1 conf cls1 x2 x3 y2 x4
  have hy1 : Queued s y1 := hy.trans (queued_of rfl)
  have hy2 : Queued s y2 := by
    show Queued s (match x.passNo with | some p => bump t (Obj.passNonConforming + p) 1 y1 | none => y1)
    split
    · exact (queued_bump _ _ _ _).after hy1
    · exact hy1
  clear_value y2 y1
  split
  · exact .answered hy1 hx
  split
  · exact .answered ((queued_bump _ _ _ _).after hy1) hx
  split
  · exact .goesOn ((queued_bump _ _ _ _).after (hy1.trans (queued_of rfl))) hx
  split
  · exact .goesOn hy2 hx
  · exact .goesOn ((accounts_regEnter _ _ _).aside.queued.after hy2) hx

end Sys2Proof.Machine

/-! ## Proofs: beats become requests -/

namespace Sys2Proof.Machine

open Sys2Proof

/-! ### Refusals at acceptance (R62, R125) -/

theorem acceptReq_outside {t : Nat} {r : Req} {s : State} (hlen : badLength r.len = false)
    (hout : populated < addrOffset r.addr + r.len) :
    acceptReq t r s = rejectReq t (arriving t r s) stDecodeError (arrived t r s) :=
  (if_neg (hlen ▸ Bool.false_ne_true)).trans (if_pos hout)

theorem acceptReq_denied {t : Nat} {r : Req} {s : State} (hlen : badLength r.len = false)
    (hin : addrOffset r.addr + r.len ≤ populated)
    (hden : ingressRange (arrived t r s) t (arriving t r s) = .denied) :
    acceptReq t r s = rejectReq t (arriving t r s) stAccessDenied (denyReq t (arriving t r s) (arrived t r s)) := by
  refine (if_neg (hlen ▸ Bool.false_ne_true)).trans ((if_neg (Nat.not_lt.mpr hin)).trans ?_)
  dsimp -zeta only
  split
  · rfl
  · next h =>
    have htaken : ingressRange (arrived t r s) t (arriving t r s) = _ := h
    rw [hden] at htaken
    cases htaken

/-- A refused request is the newest, answered with its status, with no access outstanding. -/
theorem getLast_rejectReq (t : Nat) (r : Req) (st : Nat) (s : State) :
    ∃ x, (openReqs (rejectReq t r st s) t).getLast? = some x ∧ x.status = st ∧ x.left = 0 := by
  refine ⟨{ r with status := st, left := 0 }, ?_, rfl, rfl⟩
  unfold rejectReq
  rw [openReqs_addReq, List.getLast?_concat]

/-- Table 5.4: a denial is counted, and its requester and address are kept. -/
theorem getObj_denyReq (t : Nat) (r : Req) (s : State) :
    getObj (denyReq t r s) t Obj.accessDenials = (getObj s t Obj.accessDenials + 1) % 2 ^ 32 ∧
    getObj (denyReq t r s) t Obj.lastDeniedAddress = fld 56 8 r.requester + r.addr % 2 ^ 40 := by
  unfold denyReq
  refine ⟨?_, getObj_setObj_fits _ ?_⟩
  · rw [getObj_setObj_obj _ (by decide) (by decide) (by decide)]
    exact getObj_setObj_same _ _ _ _
  · have hbits : objBits Obj.lastDeniedAddress = 64 := by decide
    rw [hbits]
    unfold fld
    omega

/-! ### What counting a beat touches (R148, R400) -/

/-- The objects that count stalls and the bytes of ports. -/
def beatKey (k : Nat) : Bool := [0x3301, 0x3302, 0x3303, 0x8025].contains (k / 256)

/-- Every object but those that beats count in reads as before. -/
def BeatObjs (s s' : State) : Prop := ∀ u k, k < 2 ^ 24 → beatKey k = false → getObj s' u k = getObj s u k

theorem BeatObjs.refl (s : State) : BeatObjs s s := fun _ _ _ _ => rfl

theorem BeatObjs.trans {a b c : State} (h : BeatObjs a b) (h' : BeatObjs b c) : BeatObjs a c :=
  fun u k hk hn => (h' u k hk hn).trans (h u k hk hn)

theorem beatObjs_of {s s' : State} (h : s'.dict = s.dict) : BeatObjs s s' := fun u k _ _ => getObj_congr h u k

theorem beatObjs_setObj {k : Nat} (hk : k < 2 ^ 24) (h : beatKey k = true) (u v : Nat) (s : State) :
    BeatObjs s (setObj u k v s) := fun w j hj hn => getObj_setObj_obj s (by rintro rfl; simp [h] at hn) hj hk

theorem beatObjs_portCount {p : Nat} (hp : p ≤ 4) (t : Nat) (out : Bool) (n : Nat) (s : State) :
    BeatObjs s (portCount t p out n s) := by
  have hbytes : Obj.portBytesTotal + p < 2 ^ 24 ∧ beatKey (Obj.portBytesTotal + p) = true := by
    interval_cases p <;> decide
  unfold portCount
  dsimp only
  split
  · exact .refl s
  · refine .trans ?_ (beatObjs_of (by rw [countEv_fields]))
    split
    · exact beatObjs_of rfl
    · exact (beatObjs_of rfl).trans (beatObjs_setObj hbytes.1 hbytes.2 t _ _)

theorem beatObjs_noteStall {i : Nat} (hi : i ≤ 4) (t gap : Nat) (held : Bool) (s : State) :
    BeatObjs s (noteStall t i gap held s) := by
  have hkeys : ∀ k ∈ [Obj.stallCount, Obj.stallTotal, Obj.stallLongest], k + i < 2 ^ 24 ∧ beatKey (k + i) = true := by
    interval_cases i <;> decide
  obtain ⟨hcount, hcount'⟩ := hkeys Obj.stallCount (by simp)
  obtain ⟨htotal, htotal'⟩ := hkeys Obj.stallTotal (by simp)
  obtain ⟨hlongest, hlongest'⟩ := hkeys Obj.stallLongest (by simp)
  unfold noteStall
  split
  · exact .refl s
  · exact (beatObjs_setObj htotal htotal' t _ _).trans
      ((beatObjs_setObj hcount hcount' t _ _).trans (beatObjs_setObj hlongest hlongest' t _ _))

theorem noteStall_fields (t i gap : Nat) (held : Bool) (s : State) :
    noteStall t i gap held s = { s with dict := (noteStall t i gap held s).dict } := by
  unfold noteStall
  split <;> rfl

theorem sideIndex_le (src : Sys2Proof.Side) : sideIndex src ≤ 4 := by
  cases src with
  | host p => exact Nat.le_of_lt p.isLt
  | gateway u => exact Nat.le_refl 4

section
variable (t : Nat) (src : Sys2Proof.Side) (hdr : Bool) (key : Nat) (a : Asm) (s : State)

theorem beatCounts_fields : beatCounts t src hdr key a s = { s with
    dict := (beatCounts t src hdr key a s).dict, count := (beatCounts t src hdr key a s).count } := by
  unfold beatCounts
  dsimp only
  split
  · rfl
  · rw [portCount_fields, noteStall_fields]

theorem beatObjs_beatCounts : BeatObjs s (beatCounts t src hdr key a s) := by
  unfold beatCounts
  dsimp only
  split
  · exact .refl s
  · exact (beatObjs_noteStall (sideIndex_le src) t _ _ s).trans (beatObjs_portCount (sideIndex_le src) t _ _ _)

end

/-! ### Ranges of requests (R123, R124) -/

section
variable {s s' : State} (h : BeatObjs s s')
include h

theorem BeatObjs.rangeReg {i : Nat} (hi : i < 16) (t : Nat) : rangeReg s' t i = rangeReg s t i := by
  refine h t _ ?_ ?_ <;> interval_cases i <;> decide

theorem BeatObjs.matchRange (t g : Nat) : matchRange s' t g = matchRange s t g :=
  List.find?_congr fun i hi => by simp only [h.rangeReg (List.mem_range.mp hi)]

theorem BeatObjs.pairRegulator {i : Nat} (hi : i < 16) (t : Nat) : pairRegulator s' t i = pairRegulator s t i := by
  unfold Machine.pairRegulator
  dsimp only
  rw [h.rangeReg hi]
  refine congrArg (Option.getD · i) (List.find?_congr fun j hj => ?_)
  simp only [h.rangeReg (List.mem_range.mp hj)]

theorem BeatObjs.inPartition {p : Nat} (hp : p < 256) (t : Nat) : inPartition s' p t = inPartition s p t := by
  have hlt : Obj.partitionTiles + (p - 1) < 2 ^ 24 := by simp only [Obj.partitionTiles]; omega
  have hkey : (Obj.partitionTiles + (p - 1)) / 256 = 0x3030 := by simp only [Obj.partitionTiles]; omega
  unfold Machine.inPartition
  rw [h dev _ hlt (by unfold beatKey; rw [hkey]; decide)]

theorem BeatObjs.rrPermits (v : Nat) (far : Option Nat) (requester : Nat) :
    rrPermits s' v far requester = rrPermits s v far requester := by
  have hp : rrPart v < 256 := Nat.mod_lt _ (by decide)
  unfold Machine.rrPermits
  simp only [h.inPartition hp]

theorem BeatObjs.rangeCheck (t : Nat) (far : Option Nat) (requester addr len : Nat) (write : Bool) :
    rangeCheck s' t far requester addr len write = rangeCheck s t far requester addr len write := by
  unfold Machine.rangeCheck
  dsimp only
  rw [h.matchRange]
  cases hm : Machine.matchRange s t (addrOffset addr / 2048) with
  | none => simp only [h t Obj.rangeDefault (by decide) (by decide)]
  | some i =>
    have hi : i < 16 := List.mem_range.mp (List.mem_of_find?_eq_some hm)
    simp only [h.rangeReg hi, h.rrPermits, h.pairRegulator hi]

end

end Sys2Proof.Machine

/-! ## Proofs: the requests that beats complete, and those of other tiles -/

namespace Sys2Proof.Machine

open Sys2Proof

/-! ### A completed request is dispatched (R14, R62) -/

/-- The side is the gateway. -/
def isGateway : Sys2Proof.Side → Bool
  | .host _ => false
  | .gateway _ => true

theorem dispatchReq_bad (t : Nat) (src : Sys2Proof.Side) (r : Req) (s : State) :
    dispatchReq t src true r s = rejectReq t (withNumber t r s) stBadFormat (arrived t r s) := rfl

/-- A well-formed request of this tile, and any of the gateway, is accepted; its port may wait for a token (R315). -/
theorem dispatchReq_near {t : Nat} {src : Sys2Proof.Side} {r : Req} (h : isGateway src = true ∨ addrTile r.addr = t) (s : State) :
    ∃ w, dispatchReq t src false r s = acceptReq t r { s with withheld := w } := by
  cases src with
  | gateway u => exact ⟨_, rfl⟩
  | host p =>
    have hhere : addrTile r.addr = t := h.resolve_left Bool.false_ne_true
    refine ⟨(if r.passNo.isNone then meterToken t (portToken r.orig) (linkFraction s t) s else s).withheld, ?_⟩
    refine (if_pos hhere).trans (congrArg (acceptReq t r) ?_)
    split
    · exact meterToken_fields _ _ _ _
    · rfl

/-- A well-formed request of a host port to another tile goes there. -/
theorem dispatchReq_far {t : Nat} {p : PortN} {r : Req} (h : addrTile r.addr ≠ t) (s : State) :
    ∃ w, dispatchReq t (.host p) false r s =
      proceed t (withNumber t r s) (addReq t (withNumber t r s) (numbered t { s with withheld := w })) := by
  refine ⟨(if r.passNo.isNone then meterToken t (portToken r.orig) (linkFraction s t) s else s).withheld, ?_⟩
  refine (if_neg h).trans ?_
  split
  · rw [meterToken_fields]
    rfl
  · rfl

/-- Nothing is accepted here: a well-formed request of a host port to another tile. -/
def leavesTile (t : Nat) (src : Sys2Proof.Side) (bad : Bool) (r : Req) : Bool :=
  !isGateway src && !bad && decide (addrTile r.addr ≠ t)

theorem leavesTile_iff {t : Nat} {src : Sys2Proof.Side} {bad : Bool} {r : Req} : leavesTile t src bad r = true ↔
    (∃ p, src = .host p) ∧ bad = false ∧ addrTile r.addr ≠ t := by
  cases src <;> simp [leavesTile, isGateway]

theorem near_of_not_leavesTile {t : Nat} {src : Sys2Proof.Side} {r : Req} (h : leavesTile t src false r = false) :
    isGateway src = true ∨ addrTile r.addr = t := by
  simpa [leavesTile, or_iff_not_imp_left] using h

theorem ingress_dispatchReq (t : Nat) (src : Sys2Proof.Side) (bad : Bool) (r : Req) (s : State) :
    Ingress s (dispatchReq t src bad r s) := by
  have hwithheld : ∀ w, Ingress s { s with withheld := w } := fun _ => ⟨sameMemory_of rfl rfl rfl rfl, rfl⟩
  cases bad with
  | true =>
    rw [dispatchReq_bad]
    exact (queued_arrived t r s).toIngress.trans (ingress_addReq _ _ _)
  | false =>
    cases hl : leavesTile t src false r with
    | false =>
      obtain ⟨w, hw⟩ := dispatchReq_near (near_of_not_leavesTile hl) s
      rw [hw]
      exact (hwithheld w).trans (added_acceptReq t r _).ingress
    | true =>
      obtain ⟨⟨p, rfl⟩, -, hfar⟩ := leavesTile_iff.mp hl
      obtain ⟨w, hw⟩ := dispatchReq_far (p := p) hfar s
      rw [hw]
      exact (((hwithheld w).trans (queued_numbered t _).toIngress).trans (ingress_addReq _ _ _)).trans (ingress_proceed _ _ _)

/-- A request to another tile that is no barrier is on its way there. -/
theorem dispatchReq_leaves {t : Nat} {src : Sys2Proof.Side} {bad : Bool} {r : Req} (s : State)
    (hl : leavesTile t src bad r = true) (hb : r.barrier = false) :
    openReqs (dispatchReq t src bad r s) t = (openReqs s t).filter (fun q => q.id ≠ (getSched s t).nextId) ∧
      (dispatchReq t src bad r s).farReqs = s.farReqs ++ [sentReq t (withNumber t r s)] := by
  obtain ⟨⟨p, rfl⟩, rfl, hfar⟩ := leavesTile_iff.mp hl
  obtain ⟨w, hw⟩ := dispatchReq_far (p := p) hfar s
  obtain ⟨hreqs, hsent⟩ := proceed_addReq_far (r := withNumber t r s) (y := numbered t { s with withheld := w }) hb hfar
  rw [hw, hreqs, hsent, openReqs_numbered, withNumber_id, (queued_numbered t _).farReqs]
  exact ⟨rfl, rfl⟩

/-- A barrier to another tile waits as long as an earlier request of its requester is open, else it is on its way. -/
theorem dispatchReq_barrier {t : Nat} {src : Sys2Proof.Side} {bad : Bool} {r : Req} (s : State)
    (hl : leavesTile t src bad r = true) (hb : r.barrier = true) :
    ((dispatchReq t src bad r s).farReqs = s.farReqs ∧
      ∃ x ∈ openReqs (dispatchReq t src bad r s) t, x.tag = r.tag ∧ x.waiting = 2) ∨
    (dispatchReq t src bad r s).farReqs = s.farReqs ++ [sentReq t (withNumber t r s)] := by
  obtain ⟨⟨p, rfl⟩, rfl, hfar⟩ := leavesTile_iff.mp hl
  obtain ⟨w, hw⟩ := dispatchReq_far (p := p) hfar s
  have h := proceed_addReq_barrier (r := withNumber t r s) (y := numbered t { s with withheld := w }) hb hfar
  rw [(queued_numbered t _).farReqs] at h
  rw [hw]
  exact h

/-- A request answered or accepted here is the newest of the open ones. -/
theorem dispatchReq_here {t : Nat} {src : Sys2Proof.Side} {bad : Bool} {r : Req} (s : State)
    (h : bad = true ∨ addrTile r.addr = t) : (dispatchReq t src bad r s).farReqs = s.farReqs ∧
      (openReqs (dispatchReq t src bad r s) t).map reqKey = (openReqs s t).map reqKey ++ [reqKey (withNumber t r s)] := by
  cases bad with
  | true =>
    rw [dispatchReq_bad]
    have harr := queued_arrived t r s
    exact ⟨harr.farReqs, keys_addReq harr t _⟩
  | false =>
    have hhere : addrTile r.addr = t := h.resolve_left Bool.false_ne_true
    obtain ⟨w, hw⟩ := dispatchReq_near (src := src) (.inr hhere) s
    rw [hw]
    exact (added_acceptReq t r { s with withheld := w }).here hhere

/-! ### Its refusals (R62, R125) -/

theorem dispatchReq_malformed (t : Nat) (src : Sys2Proof.Side) (r : Req) (s : State) :
    ∃ x, (openReqs (dispatchReq t src true r s) t).getLast? = some x ∧ x.status = stBadFormat ∧ x.left = 0 :=
  getLast_rejectReq _ _ _ _

theorem dispatchReq_outside {t : Nat} {src : Sys2Proof.Side} {r : Req} (s : State) (hl : leavesTile t src false r = false)
    (hlen : badLength r.len = false) (hout : populated < addrOffset r.addr + r.len) :
    ∃ x, (openReqs (dispatchReq t src false r s) t).getLast? = some x ∧ x.status = stDecodeError ∧ x.left = 0 := by
  obtain ⟨w, hw⟩ := dispatchReq_near (near_of_not_leavesTile hl) s
  rw [hw, acceptReq_outside hlen hout]
  exact getLast_rejectReq _ _ _ _

/-- The source tile that the ranges see of a request: that of a far one (R123). -/
def rangeSource (r : Req) : Option Nat := if r.requester ≥ 0x20 ∧ r.requester < 0x60 then some r.source else none

theorem ingressRange_eq {t : Nat} {r : Req} {s : State} (h : r.orig ≠ 0x60) :
    ingressRange s t r = rangeCheck s t (rangeSource r) r.requester r.addr r.len r.write := if_neg h

theorem beatObjs_arrived (t : Nat) (r : Req) (s : State) : BeatObjs s (arrived t r s) := by
  refine beatObjs_of ?_
  unfold arrived
  rw [countEv_fields]
  rfl

theorem dispatchReq_denied {t : Nat} {src : Sys2Proof.Side} {r : Req} (s : State) (hl : leavesTile t src false r = false)
    (hlen : badLength r.len = false) (hin : addrOffset r.addr + r.len ≤ populated) (ho : r.orig ≠ 0x60)
    (hden : rangeCheck s t (rangeSource r) r.requester r.addr r.len r.write = .denied) :
    ∃ x, (openReqs (dispatchReq t src false r s) t).getLast? = some x ∧ x.status = stAccessDenied ∧ x.left = 0 ∧
      getObj (dispatchReq t src false r s) t Obj.accessDenials = (getObj s t Obj.accessDenials + 1) % 2 ^ 32 ∧
      getObj (dispatchReq t src false r s) t Obj.lastDeniedAddress = fld 56 8 r.requester + r.addr % 2 ^ 40 := by
  obtain ⟨w, hw⟩ := dispatchReq_near (near_of_not_leavesTile hl) s
  have hobjs : BeatObjs s (arrived t r { s with withheld := w }) :=
    (beatObjs_of (s' := { s with withheld := w }) rfl).trans (beatObjs_arrived t r _)
  have hrange : ingressRange (arrived t r { s with withheld := w }) t (arriving t r { s with withheld := w }) = .denied :=
    (ingressRange_eq ho).trans ((hobjs.rangeCheck _ _ _ _ _ _).trans hden)
  obtain ⟨hcount, haddr⟩ := getObj_denyReq t (arriving t r { s with withheld := w }) (arrived t r { s with withheld := w })
  rw [hobjs t Obj.accessDenials (by decide) (by decide)] at hcount
  rw [hw, acceptReq_denied hlen hin hrange]
  obtain ⟨x, hx, hst, hleft⟩ := getLast_rejectReq t (arriving t r { s with withheld := w }) stAccessDenied
    (denyReq t (arriving t r { s with withheld := w }) (arrived t r { s with withheld := w }))
  exact ⟨x, hx, hst, hleft, hcount, haddr⟩

/-! ### The buffers of a side (R146, R147) -/

/-- The beat that completes a request is counted, and its buffer is empty. -/
def beatTaken (t : Nat) (src : Sys2Proof.Side) (hdr : Bool) (key : Nat) (a : Asm) (s : State) : State :=
  { beatCounts t src hdr key a s with asm := fset {} (beatCounts t src hdr key a s).asm key {} }

theorem beatTaken_fields (t : Nat) (src : Sys2Proof.Side) (hdr : Bool) (key : Nat) (a : Asm) (s : State) :
    beatTaken t src hdr key a s = { s with
      asm := fset {} s.asm key {}
      dict := (beatTaken t src hdr key a s).dict, count := (beatTaken t src hdr key a s).count } := by
  unfold beatTaken
  rw [beatCounts_fields]

theorem beatObjs_beatTaken (t : Nat) (src : Sys2Proof.Side) (hdr : Bool) (key : Nat) (a : Asm) (s : State) :
    BeatObjs s (beatTaken t src hdr key a s) :=
  (beatObjs_beatCounts t src hdr key a s).trans (beatObjs_of rfl)

section
variable {t : Nat} {src : Sys2Proof.Side} {hdr : Bool} {beat : Nat} {pois : Bool} {s : State}

theorem requestBeat_closed (h : beatKind s t src hdr beat pois = .closed) : requestBeat t src hdr beat pois s = s := by
  unfold requestBeat
  rw [h]

theorem requestAccept_closed (h : beatKind s t src hdr beat pois = .closed) :
    requestAccept t src hdr beat pois s = s := by
  unfold requestAccept
  rw [h]

theorem requestBeat_withheld {key : Nat} (h : beatKind s t src hdr beat pois = .withheld key) :
    requestBeat t src hdr beat pois s = withholdBeat key s := by
  unfold requestBeat
  rw [h]

theorem requestAccept_withheld {key : Nat} (h : beatKind s t src hdr beat pois = .withheld key) :
    requestAccept t src hdr beat pois s = withholdBeat key s := by
  unfold requestAccept
  rw [h]

theorem requestAccept_hold {key : Nat} {a : Asm} (h : beatKind s t src hdr beat pois = .hold key a) :
    requestAccept t src hdr beat pois s = s := by
  unfold requestAccept
  rw [h]

theorem requestBeat_hold {key : Nat} {a : Asm} (h : beatKind s t src hdr beat pois = .hold key a) :
    requestBeat t src hdr beat pois s = { s with
      asm := fset {} s.asm key a
      dict := (beatCounts t src hdr key a s).dict, count := (beatCounts t src hdr key a s).count } := by
  unfold requestBeat
  rw [h]
  dsimp only
  rw [beatCounts_fields]

theorem requestBeat_complete {key : Nat} {a : Asm} (h : beatKind s t src hdr beat pois = .complete key a) :
    requestBeat t src hdr beat pois s = s := by
  unfold requestBeat
  rw [h]

theorem requestAccept_complete {key : Nat} {a : Asm} (h : beatKind s t src hdr beat pois = .complete key a) :
    requestAccept t src hdr beat pois s =
      dispatchReq t src (hdReserved a.header (isGateway src) || badLength (hdLen a.header))
        (asmReq s t src a.header a.beats) (beatTaken t src hdr key a s) := by
  have hreq : asmReq (beatTaken t src hdr key a s) t src a.header a.beats = asmReq s t src a.header a.beats := by
    rw [beatTaken_fields]
    rfl
  unfold requestAccept
  rw [h, ← hreq]
  cases src <;> rfl

end

end Sys2Proof.Machine

/-! ## Proofs: requests arrive -/

namespace Sys2Proof.Machine

open Sys2Proof

/-! ### REQUEST_BEAT and REQUEST_ACCEPT, by the kind of the beat (R146 to R148) -/

section
variable {t : TileN} {src : Sys2Proof.Side} {hdr : Bool} {beat : BitVec 512} {poison : Bool} {s : State} {key : Nat} {a : Asm}

theorem beat_closed (h : beatKind s t.val src hdr beat.toNat poison = .closed) :
    NoEffect (.requestBeat t src hdr beat poison) s ∧ NoEffect (.requestAccept t src hdr beat poison) s :=
  ⟨noEffect_run (exec_requestBeat t src hdr beat poison s) (requestBeat_closed (s := fresh s) h),
    noEffect_run (exec_requestAccept t src hdr beat poison s) (requestAccept_closed (s := fresh s) h)⟩

theorem beat_withheld (h : beatKind s t.val src hdr beat.toNat poison = .withheld key) :
    ∀ cmd ∈ ([.requestBeat t src hdr beat poison, .requestAccept t src hdr beat poison] : List Instr),
      exec cmd s = .next { s with asm := fupd {} s.asm key (fun a => { a with held := a.active }), out := {} } := by
  intro cmd hcmd
  simp only [List.mem_cons, List.not_mem_nil, or_false] at hcmd
  rcases hcmd with rfl | rfl
  · rw [exec_requestBeat, run_next, requestBeat_withheld (s := fresh s) h]
    rfl
  · rw [exec_requestAccept, run_next, requestAccept_withheld (s := fresh s) h]
    rfl

theorem answers_requestBeat_hold (h : beatKind s t.val src hdr beat.toNat poison = .hold key a) :
    Answers (.requestBeat t src hdr beat poison) s (fun s' => fget {} s'.asm key = a ∧
      (∀ k, k ≠ key → fget ({} : Asm) s'.asm k = fget {} s.asm k) ∧ SameMemory s s' ∧
      s' = { s with asm := s'.asm, dict := s'.dict, count := s'.count, out := {} }) := by
  refine answers_run (exec_requestBeat t src hdr beat poison s) ?_
  rw [requestBeat_hold (s := fresh s) h]
  exact ⟨fget_fset_same _ _ _ _, fun k hk => fget_fset_other _ _ _ _ hk, sameMemory_of rfl rfl rfl rfl, rfl⟩

/-- What REQUEST_ACCEPT answers, through the request it makes of the buffer. -/
theorem answers_requestAccept {P : State → Prop} (h : beatKind s t.val src hdr beat.toNat poison = .complete key a)
    (hp : P (sameTime s (dispatchReq t.val src (hdReserved a.header (isGateway src) || badLength (hdLen a.header))
      (asmReq s t.val src a.header a.beats) (beatTaken t.val src hdr key a (fresh s))))) :
    Answers (.requestAccept t src hdr beat poison) s P := by
  refine answers_run (exec_requestAccept t src hdr beat poison s) ?_
  rw [requestAccept_complete (s := fresh s) h]
  exact hp

end

/-- The counted beat leaves requests and memory. -/
theorem beatTaken_kept (t : Nat) (src : Sys2Proof.Side) (hdr : Bool) (key : Nat) (a : Asm) (s : State) :
    (beatTaken t src hdr key a s).sched = s.sched ∧ (beatTaken t src hdr key a s).farReqs = s.farReqs ∧
      SameMemory s (beatTaken t src hdr key a s) := by
  rw [beatTaken_fields]
  exact ⟨rfl, rfl, sameMemory_of rfl rfl rfl rfl⟩

/-- The buffer of a request that is dispatched is empty. -/
theorem fget_asm_dispatched (t : Nat) (src : Sys2Proof.Side) (hdr : Bool) (key : Nat) (a : Asm) (bad : Bool) (r : Req)
    (s : State) : fget ({} : Asm) (dispatchReq t src bad r (beatTaken t src hdr key a s)).asm key = {} := by
  rw [(ingress_dispatchReq t src bad r _).asm]
  exact fget_fset_same {} (beatCounts t src hdr key a s).asm key {}

/-- A request that takes its number in a state with the same schedulers. -/
theorem reqKey_withNumber {t : Nat} {r : Req} {s s' : State} (h : s'.sched = s.sched) :
    reqKey (withNumber t r s') = reqKey { r with id := (getSched s t).nextId } := by
  rw [withNumber_eq, getSched, h]
  rfl

/-- The requester code of a side is that of a tile exactly at the gateway (R63). -/
theorem rangeSource_asmReq (s : State) (t : Nat) (src : Sys2Proof.Side) (h : Nat) (beats : List (Nat × Bool)) :
    rangeSource (asmReq s t src h beats) = if isGateway src then some (asmReq s t src h beats).source else none := by
  cases src with
  | host p =>
    have hp : ¬ (0x20 ≤ p.val ∧ p.val < 0x60) := by omega
    exact if_neg hp
  | gateway u =>
    have hu : 0x20 ≤ 0x20 + u.val ∧ 0x20 + u.val < 0x60 := by omega
    exact if_pos hu

/-! ### Requests of other tiles (R14, R86, R241) -/

/-- The tile takes no request that comes over the mesh (R382, R414, R427). -/
def farClosed (s : State) (t : Nat) : Prop := starting s = true ∨ inHold s t = true ∨ tripped s = true ∨ inReset s t = true

section
variable {t src : Nat} {x : FarReq} {s : State}

theorem farRequest_idle (h : farClosed s t ∨ farHead s t src = none) : farRequest t src s = s := by
  unfold farRequest
  split
  · rfl
  · next hopen =>
    rw [h.resolve_left hopen]

theorem farRequest_waits (hopen : ¬ farClosed s t) (hx : farHead s t src = some x) (hk : x.kind = .device)
    (hw : fifoWaits s t (0x20 + x.origin) x.passNo.isSome = true) : farRequest t src s = s := by
  refine (if_neg hopen).trans ?_
  simp only [hx, hk, hw, if_true]

theorem farRequest_accepts (hopen : ¬ farClosed s t) (hx : farHead s t src = some x) (hk : x.kind = .device)
    (hw : fifoWaits s t (0x20 + x.origin) x.passNo.isSome = false) :
    farRequest t src s = acceptReq t (farReqOf x) (takeFar t src x s) := by
  refine (if_neg hopen).trans ?_
  simp only [hx, hk, hw, Bool.false_eq_true, if_false]

theorem farRequest_maps {e off p : Nat} {w : Bool} (hopen : ¬ farClosed s t) (hx : farHead s t src = some x)
    (hk : x.kind = .mapped e off p w) : farRequest t src s =
      modMap t (fun m => { m with input := m.input ++ [⟨farReqOf x, e, off, p, w⟩] }) (takeFar t src x s) := by
  refine (if_neg hopen).trans ?_
  simp only [hx, hk]

theorem farRequest_forwarded (hopen : ¬ farClosed s t) (hx : farHead s t src = some x)
    (hm : ∀ e off p w, x.kind ≠ .mapped e off p w) (hd : x.kind ≠ .device) : farRequest t src s = s := by
  refine (if_neg hopen).trans ?_
  cases hk : x.kind with
  | device => exact absurd hk hd
  | mapped e off p w => exact absurd hk (hm e off p w)
  | block => simp only [hx, hk]

theorem takeFar_fields (t src : Nat) (x : FarReq) (s : State) : takeFar t src x s = { s with
    farReqs := removeFirst (fun y => y.dst = t ∧ y.src = src) s.farReqs
    dict := (takeFar t src x s).dict, count := (takeFar t src x s).count } :=
  portCount_fields _ _ _ _ _

end

theorem takeFar_kept (t src : Nat) (x : FarReq) (s : State) : (takeFar t src x s).sched = s.sched ∧
    (takeFar t src x s).farReqs = removeFirst (fun y => y.dst = t ∧ y.src = src) s.farReqs ∧
      SameMemory s (takeFar t src x s) := by
  rw [takeFar_fields]
  exact ⟨rfl, rfl, sameMemory_of rfl rfl rfl rfl⟩

theorem getMap_modMap (t : Nat) (f : MapS → MapS) (s : State) : getMap (modMap t f s) t = f (getMap s t) :=
  fget_fupd_same _ _ _ _

theorem answers_farRequestArrival_device {t src : TileN} {x : FarReq} {s : State} (hopen : ¬ farClosed s t.val)
    (hx : farHead s t.val src.val = some x) (hk : x.kind = .device)
    (hw : fifoWaits s t.val (0x20 + x.origin) x.passNo.isSome = false) (hhere : addrTile x.addr = t.val) :
    Answers (.farRequestArrival t src) s (fun s' =>
      s'.farReqs = removeFirst (fun y => y.dst = t.val ∧ y.src = src.val) s.farReqs ∧
      (openReqs s' t.val).map reqKey = (openReqs s t.val).map reqKey ++
        [((getSched s t.val).nextId, 0x20 + x.origin, x.orig, x.origin, x.tag, x.addr, x.len, x.write)] ∧
      SameMemory s s') := by
  refine answers_run (exec_farRequestArrival t src s) ?_
  rw [farRequest_accepts (s := fresh s) hopen hx hk hw]
  have hadded := added_acceptReq t.val (farReqOf x) (takeFar t.val src.val x (fresh s))
  obtain ⟨hfar, hkeys⟩ := hadded.here hhere
  obtain ⟨hsched, hfarReqs, hmem⟩ := takeFar_kept t.val src.val x (fresh s)
  rw [reqKey_withNumber hsched, openReqs_congr hsched] at hkeys
  exact ⟨hfar.trans hfarReqs, hkeys, hmem.trans hadded.ingress.memory⟩

theorem answers_farRequestArrival_mapped {t src : TileN} {x : FarReq} {s : State} {e off p : Nat} {w : Bool}
    (hopen : ¬ farClosed s t.val) (hx : farHead s t.val src.val = some x) (hk : x.kind = .mapped e off p w) :
    Answers (.farRequestArrival t src) s (fun s' =>
      s'.farReqs = removeFirst (fun y => y.dst = t.val ∧ y.src = src.val) s.farReqs ∧
      (getMap s' t.val).input = (getMap s t.val).input ++ [⟨farReqOf x, e, off, p, w⟩] ∧
      openReqs s' t.val = openReqs s t.val ∧ SameMemory s s') := by
  refine answers_run (exec_farRequestArrival t src s) ?_
  rw [farRequest_maps (s := fresh s) hopen hx hk, takeFar_fields]
  refine ⟨rfl, ?_, rfl, sameMemory_of rfl rfl rfl rfl⟩
  exact congrArg MapS.input (getMap_modMap t.val (fun m => { m with input := m.input ++ [⟨farReqOf x, e, off, p, w⟩] }) _)

/-- Settles O20: a beat by its kind, a completed request by how it is dispatched, and a request of another tile by
whether this one takes it. -/
theorem requestsArrive : Obligations.RequestsArrive := by
  refine ⟨fun t src hdr beat poison s => ⟨beat_closed, fun key => beat_withheld, fun key a h =>
    ⟨noEffect_run (exec_requestAccept t src hdr beat poison s) (requestAccept_hold (s := fresh s) h),
      answers_requestBeat_hold h⟩, fun key a h => ?_⟩, fun t src s => ⟨fun h => ?_, fun x hst hho htr hre hx => ?_⟩⟩
  · intro r gateway bad isFar
    have hgw : gateway = isGateway src := by cases src <;> rfl
    have hbad : bad = (hdReserved a.header (isGateway src) || badLength r.len) := by rw [← hgw]
    have hleaves : isFar = leavesTile t.val src bad r := by rw [leavesTile, ← hgw]
    refine ⟨noEffect_run (exec_requestBeat t src hdr beat poison s) (requestBeat_complete (s := fresh s) h),
      answers_requestAccept h ?_⟩
    have hasm := fget_asm_dispatched t.val src hdr key a bad r (fresh s)
    have hmem := (ingress_dispatchReq t.val src bad r (beatTaken t.val src hdr key a (fresh s))).memory
    obtain ⟨hsched, hfars, hkept⟩ := beatTaken_kept t.val src hdr key a (fresh s)
    have hobjs := beatObjs_beatTaken t.val src hdr key a (fresh s)
    rw [← show bad = (hdReserved a.header (isGateway src) || badLength (hdLen a.header)) from hbad]
    clear_value isFar bad
    subst hleaves
    generalize beatTaken t.val src hdr key a (fresh s) = y at *
    refine ⟨hasm, hkept.trans hmem, fun hl hb => ?_, fun hl hb => ?_, fun _ hh => ?_, fun hb => ?_, fun hb hl hout => ?_,
      fun hb hl hin ho hden => ?_⟩
    · obtain ⟨hreqs, hsent⟩ := dispatchReq_leaves y hl hb
      rw [openReqs_congr hsched, getSched, hsched] at hreqs
      rw [hfars] at hsent
      exact ⟨hreqs, _, hsent, rfl, rfl, rfl, rfl, rfl, rfl, rfl, rfl, rfl, rfl⟩
    · have hgoes := dispatchReq_barrier y hl hb
      rw [hfars] at hgoes
      exact hgoes.imp_right fun hsent => ⟨_, hsent, rfl, rfl, hb⟩
    · obtain ⟨hsame, hkeys⟩ := dispatchReq_here (src := src) y hh
      rw [reqKey_withNumber hsched, openReqs_congr hsched] at hkeys
      exact ⟨hsame.trans hfars, hkeys⟩
    · rw [hb]
      exact dispatchReq_malformed t.val src r y
    · subst hb
      exact dispatchReq_outside y hl (Bool.or_eq_false_iff.mp hbad.symm).2 hout
    · subst hb
      have hsource : (if gateway then some r.source else none) = rangeSource r := by
        simp only [hgw, r, rangeSource_asmReq]
      rw [hsource] at hden
      obtain ⟨x, hx, hst, hleft, hcount, hlast⟩ := dispatchReq_denied (r := r) y hl
        (Bool.or_eq_false_iff.mp hbad.symm).2 hin ho ((hobjs.rangeCheck _ _ _ _ _ _).trans hden)
      rw [hobjs t.val Obj.accessDenials (by decide) (by decide)] at hcount
      exact ⟨x, hx, hst, hleft, hcount, hlast⟩
  · have hidle : farClosed s t.val ∨ farHead s t.val src.val = none := by simpa only [farClosed, or_assoc] using h
    exact noEffect_run (exec_farRequestArrival t src s) (farRequest_idle (s := fresh s) hidle)
  · have hopen : ¬ farClosed s t.val := by simp [farClosed, hst, hho, htr, hre]
    refine ⟨fun hk hw => ?_, fun hk hw hhere => ?_, fun e off p w hk => ?_, fun hm hd => ?_⟩
    · exact noEffect_run (exec_farRequestArrival t src s) (farRequest_waits (s := fresh s) hopen hx hk hw)
    · exact answers_farRequestArrival_device hopen hx hk hw hhere
    · exact answers_farRequestArrival_mapped hopen hx hk
    · exact noEffect_run (exec_farRequestArrival t src s) (farRequest_forwarded (s := fresh s) hopen hx hm hd)

end Sys2Proof.Machine

/-! ## Proofs: engines issue descriptors -/

namespace Sys2Proof.Machine

open Sys2Proof

/-! ### Engines, arrays and movers: what an update reads back, and what it leaves -/

@[simp] theorem getEngine_modEngine (t e : Nat) (f : EngineS → EngineS) (s : State) :
    getEngine (modEngine t e f s) t e = f (getEngine s t e) := fget_fupd_same _ _ _ _

@[simp] theorem getArray_modArray (t a : Nat) (f : ArrayS → ArrayS) (s : State) :
    getArray (modArray t a f s) t a = f (getArray s t a) := fget_fupd_same _ _ _ _

@[simp] theorem getMover_modMover (t m : Nat) (f : MoverS → MoverS) (s : State) :
    getMover (modMover t m f s) t m = f (getMover s t m) := fget_fupd_same _ _ _ _

@[simp] theorem getEngine_modArray (t a u e : Nat) (f : ArrayS → ArrayS) (s : State) :
    getEngine (modArray t a f s) u e = getEngine s u e := rfl
@[simp] theorem getArray_modEngine (t e u a : Nat) (f : EngineS → EngineS) (s : State) :
    getArray (modEngine t e f s) u a = getArray s u a := rfl
@[simp] theorem getEngine_sameTime (s r : State) (t e : Nat) : getEngine (sameTime s r) t e = getEngine r t e := rfl
@[simp] theorem getArray_sameTime (s r : State) (t a : Nat) : getArray (sameTime s r) t a = getArray r t a := rfl

theorem fget_engine_modEngine {t e k : Nat} (hk : k ≠ t * 6 + e) (f : EngineS → EngineS) (s : State) :
    fget ({} : EngineS) (modEngine t e f s).engine k = fget {} s.engine k := fget_fupd_other _ _ _ _ hk

theorem getArray_congr {s s' : State} (h : s'.array = s.array) (t a : Nat) : getArray s' t a = getArray s t a := by
  unfold getArray
  rw [h]

theorem getEngine_congr {s s' : State} (h : s'.engine = s.engine) (t e : Nat) : getEngine s' t e = getEngine s t e := by
  unfold getEngine
  rw [h]

theorem getMover_congr {s s' : State} (h : s'.mover = s.mover) (t m : Nat) : getMover s' t m = getMover s t m := by
  unfold getMover
  rw [h]

/-! ### Issue (R213, R216) -/

section
variable {s : State} {t e : Nat} {d : Desc} {rest : List Desc} {p : Nat → Bool}

/-- What an issue runs: the effect of the descriptor, in the state from which it is taken. -/
theorem issueDesc_eq {f : Desc → State → Option (Desc × State)} (hi : Issuable s t e d rest) (hp : p d.raw = true) :
    issueDesc t e p f (fresh s) = match f (if d.started then d else begun s d) (taken s t e rest) with
      | some (d', s') => pushProg t e d' s'
      | none => fresh s := by
  obtain ⟨hready, hcan, hok⟩ := hi
  have hready' : (getEngine (fresh s) t e).ready = d :: rest := hready
  have hcan' : canIssue (fresh s) t e d = true := hcan
  have hok' : descOk (fresh s) t e d.raw = true := hok
  simp only [issueDesc, issueCore, hready', hcan', hok', hp, not_true_eq_false, or_self, if_false]
  change (match (f (if d.started then d else begun s d) (taken s t e rest)).map _ with
    | some (some d2, s2) => pushProg t e d2 s2 | some (none, s2) => s2 | none => fresh s) = _
  rcases f (if d.started then d else begun s d) (taken s t e rest) with _ | ⟨d', s'⟩ <;> rfl

theorem issueDesc_runs {f : Desc → State → Option (Desc × State)} {d' : Desc} {s' : State} (hi : Issuable s t e d rest)
    (hp : p d.raw = true) (hd : d.started = false) (hf : f (begun s d) (taken s t e rest) = some (d', s')) :
    issueDesc t e p f (fresh s) = pushProg t e d' s' := by
  rw [issueDesc_eq hi hp, hd, if_neg Bool.false_ne_true, hf]

theorem issueDesc_waits {f : Desc → State → Option (Desc × State)} (hi : Issuable s t e d rest) (hp : p d.raw = true)
    (hf : ∀ d', f d' (taken s t e rest) = none) : issueDesc t e p f (fresh s) = fresh s := by
  rw [issueDesc_eq hi hp, hf]

@[simp] theorem getEngine_taken (s : State) (t e : Nat) (rest : List Desc) :
    getEngine (taken s t e rest) t e = { getEngine s t e with ready := rest } := getEngine_modEngine t e _ _

@[simp] theorem getArray_taken (s : State) (t e : Nat) (rest : List Desc) (u a : Nat) :
    getArray (taken s t e rest) u a = getArray s u a := rfl

@[simp] theorem tripped_taken (s : State) (t e : Nat) (rest : List Desc) : tripped (taken s t e rest) = tripped s := rfl

@[simp] theorem getEngine_pushProg (t e : Nat) (d : Desc) (s : State) :
    getEngine (pushProg t e d s) t e = { getEngine s t e with prog := (getEngine s t e).prog ++ [d] } :=
  getEngine_modEngine t e _ s

@[simp] theorem getArray_pushProg (t e u a : Nat) (d : Desc) (s : State) :
    getArray (pushProg t e d s) u a = getArray s u a := rfl

/-- A descriptor put in progress after its engine took it. -/
theorem ran_pushProg {s' : State} {d' : Desc} (h : s'.engine = (taken s t e rest).engine) :
    Ran s (pushProg t e d' s') t e rest d' := by
  refine ⟨?_, fun k hk => ?_⟩
  · rw [pushProg, getEngine_modEngine, getEngine_congr h, getEngine_taken]
  · refine (fget_engine_modEngine hk _ s').trans ?_
    rw [h]
    exact fget_engine_modEngine hk _ _

theorem Ran.sameTime {s' : State} {d' : Desc} (h : Ran s s' t e rest d') : Ran s (sameTime s s') t e rest d' := h

end

end Sys2Proof.Machine

/-! ## Proofs: STREAM opens and joins groups -/

namespace Sys2Proof.Machine

open Sys2Proof

/-! ### The planes of an array (R157) -/

/-- The plane put in one place is there, and the other plane is as before. -/
@[simp] theorem planeOf_putPlane_same (b : Bool) (p : Plane) (x : ArrayS) : planeOf (putPlane b p x) b = p := by
  cases b <;> rfl

@[simp] theorem planeOf_putPlane_other (b : Bool) (p : Plane) (x : ArrayS) :
    planeOf (putPlane b p x) (!b) = planeOf x (!b) := by
  cases b <;> rfl

theorem putPlane_group (b : Bool) (p : Plane) (x : ArrayS) : (putPlane b p x).group = x.group := by
  cases b <;> rfl

theorem putPlane_stream (b : Bool) (p : Plane) (x : ArrayS) : (putPlane b p x).stream = x.stream := by
  cases b <;> rfl

/-! ### The start of a STREAM (R159, R219), an equation per case -/

section
variable {t a : Nat} {d : Desc} {s : State}

theorem streamStart_fenced (h : (getArray s t a).fenced = true) :
    streamStart t a d s = some (ends stResidueFault d, s) := by
  simp [streamStart, h]

theorem streamStart_waits (hf : (getArray s t a).fenced = false)
    (h : (getArray s t a).stream.isSome = true ∨ tripped s = true ∨ (firstLoad s t a).isSome = true) :
    streamStart t a d s = none := by
  simp [streamStart, hf, h]

/-- Nothing keeps a STREAM from its start (R158, R159), and the plane it takes is not that of bad data (R170). -/
structure StreamClear (s : State) (t a : Nat) (r : Nat) : Prop where
  unfenced : (getArray s t a).fenced = false
  idle : (getArray s t a).stream = none
  untripped : tripped s = false
  loaded : firstLoad s t a = none
  clean : (getArray s t a).badLoad = false ∨ stInit r ≠ 0

variable (h : StreamClear s t a d.raw)
include h

theorem streamStart_clear : streamStart t a d s =
    let x := getArray s t a
    let p := planeOf x x.lastB
    if ¬ streamFits p d.raw then some (ends stBadFormat d, s)
    else if stM d.raw = 0 then some (ends stOk d, s)
    else if ¬ groupFits x p d.raw then some (ends stBadFormat d, s)
    else some (streamBegin t a d p s) := by
  have hclean : ¬ ((getArray s t a).badLoad = true ∧ stInit d.raw = 0) := by
    rcases h.clean with hb | hb <;> simp [hb]
  simp only [streamStart, h.unfenced, h.idle, h.untripped, h.loaded, if_neg hclean, Option.isSome_none, or_self,
    Bool.false_eq_true, if_false]

theorem streamStart_unfit (hfit : streamFits (planeOf (getArray s t a) (getArray s t a).lastB) d.raw = false) :
    streamStart t a d s = some (ends stBadFormat d, s) := by
  simp [streamStart_clear h, hfit]

theorem streamStart_empty (hfit : streamFits (planeOf (getArray s t a) (getArray s t a).lastB) d.raw = true)
    (hm : stM d.raw = 0) : streamStart t a d s = some (ends stOk d, s) := by
  simp [streamStart_clear h, hfit, hm]

theorem streamStart_begins (hfit : streamFits (planeOf (getArray s t a) (getArray s t a).lastB) d.raw = true)
    (hm : stM d.raw ≠ 0) (hg : groupFits (getArray s t a) (planeOf (getArray s t a) (getArray s t a).lastB) d.raw = true) :
    streamStart t a d s = some (streamBegin t a d (planeOf (getArray s t a) (getArray s t a).lastB) s) := by
  simp [streamStart_clear h, hfit, hm, hg]

end

/-! ### A STREAM in progress on an array -/

/-- The array once a STREAM of some rows began: its group, its place, and its plane used (R159). -/
def begunArray (x : ArrayS) (d : Desc) : ArrayS :=
  let p := planeOf x x.lastB
  putPlane x.lastB { p with used := true } { x with
    group := some (joinGroup x p d), loads := [], closed := closedAfter x d.raw
    stream := some { raw := d.raw, idx := d.idx, qaddr := d.qaddr, next := d.pos, planeB := x.lastB }
    colUse := if x.group.isNone then 0 else x.colUse, colAll := if x.group.isNone then 0 else x.colAll
    rowUse := if x.group.isNone then 0 else x.rowUse, rowAll := if x.group.isNone then 0 else x.rowAll }

@[simp] theorem begunArray_group (x : ArrayS) (d : Desc) :
    (begunArray x d).group = some (joinGroup x (planeOf x x.lastB) d) := putPlane_group _ _ _

@[simp] theorem begunArray_stream (x : ArrayS) (d : Desc) : (begunArray x d).stream =
    some { raw := d.raw, idx := d.idx, qaddr := d.qaddr, next := d.pos, planeB := x.lastB } := putPlane_stream _ _ _

@[simp] theorem planeOf_begunArray_used (x : ArrayS) (d : Desc) :
    planeOf (begunArray x d) x.lastB = { planeOf x x.lastB with used := true } := planeOf_putPlane_same _ _ _

@[simp] theorem planeOf_begunArray_idle (x : ArrayS) (d : Desc) :
    planeOf (begunArray x d) (!x.lastB) = planeOf x (!x.lastB) := by
  rw [begunArray, planeOf_putPlane_other]
  cases x.lastB <;> rfl

/-- The engine forgets an abandoned group when a STREAM opens a new one (R232). -/
def forgetAbandoned (x : ArrayS) (g : EngineS) : EngineS := if x.group.isNone then { g with abandoned := none } else g

theorem forgetAbandoned_lists (x : ArrayS) (g : EngineS) :
    (forgetAbandoned x g).ready = g.ready ∧ (forgetAbandoned x g).prog = g.prog := by
  unfold forgetAbandoned
  split <;> exact ⟨rfl, rfl⟩

/-- A STREAM of some rows marks its descriptor at most, and changes its array and the engine's abandoned group. -/
theorem streamBegin_rows {t a : Nat} {d : Desc} {s : State}
    (hk : (planeOf (getArray s t a) (getArray s t a).lastB).k ≠ 0) :
    ∃ fl, streamBegin t a d (planeOf (getArray s t a) (getArray s t a).lastB) s = ({ d with flags := fl },
      modArray t a (fun _ => begunArray (getArray s t a) d) (modEngine t a (forgetAbandoned (getArray s t a)) s)) := by
  by_cases hr : (joinGroup (getArray s t a) (planeOf (getArray s t a) (getArray s t a).lastB) d).retried = true
  · refine ⟨d.flags ||| 16, ?_⟩
    simp only [streamBegin, hr, if_pos, if_pos hk, if_neg hk]
    rfl
  · refine ⟨d.flags, ?_⟩
    simp only [streamBegin, hr, if_pos hk, if_neg hk]
    rfl

/-! ### The command -/

theorem Answers.imp {c : Instr} {s : State} {P Q : State → Prop} (h : Answers c s P) (hpq : ∀ s', P s' → Q s') :
    Answers c s Q := by
  obtain ⟨s', hs', hp⟩ := h
  exact ⟨s', hs', hpq s' hp⟩


section
variable {s : State} {t : TileN} {e : EngineN} {d : Desc} {rest : List Desc}

theorem isStream (hop : dOp d.raw = 2) (hinit : stInit d.raw ≠ 3) :
    (fun r => decide (dOp r = 2 ∧ stInit r ≠ 3)) d.raw = true := by
  simp [hop, hinit]

theorem firstLoad_taken (s : State) (t e : Nat) (rest : List Desc) : firstLoad (taken s t e rest) t e = firstLoad s t e := by
  rw [firstLoad, getEngine_taken]
  rfl

/-- The issue of a STREAM changes nothing that could keep it from its start. -/
theorem StreamClear.taken {r : Nat} (h : StreamClear s t.val e.val r) :
    StreamClear (taken s t.val e.val rest) t.val e.val r where
  unfenced := by rw [getArray_taken, h.unfenced]
  idle := by rw [getArray_taken, h.idle]
  untripped := by rw [tripped_taken, h.untripped]
  loaded := by rw [firstLoad_taken, h.loaded]
  clean := by rw [getArray_taken]; exact h.clean

/-- What a STREAM leaves that changes its engine, and its array at most. -/
theorem streamFrame {s s' : State} {E : FMap EngineS} {A : FMap ArrayS} (h : s' = { s with engine := E, array := A, out := {} }) :
    SameMemory s s' ∧ OtherObjects s s' [] ∧ s' = { s with engine := s'.engine, array := s'.array, out := {} } := by
  subst h
  exact ⟨sameMemory_of rfl rfl rfl rfl, otherObjects_none rfl [], rfl⟩

/-- A STREAM that ends at once changes its engine only. -/
theorem answers_stream_ends {st : Nat} (hi : Issuable s t.val e.val d rest)
    (hop : dOp d.raw = 2) (hinit : stInit d.raw ≠ 3) (hd : d.started = false)
    (hstart : streamStart t.val e.val (begun s d) (taken s t.val e.val rest) =
      some (ends st (begun s d), taken s t.val e.val rest)) :
    Answers (.stream t e) s (fun s' => Ran s s' t.val e.val rest (ends st (begun s d)) ∧ s'.array = s.array ∧
      SameMemory s s' ∧ OtherObjects s s' [] ∧ s' = { s with engine := s'.engine, array := s'.array, out := {} }) := by
  refine answers_run (exec_stream t e s) ?_
  rw [issueDesc_runs hi (isStream hop hinit) hd hstart]
  refine ⟨(ran_pushProg rfl).sameTime, ?_, ?_⟩
  · dsimp only [sameTime, pushProg, taken, modEngine]
  · dsimp only [sameTime, pushProg, taken, modEngine]
    exact streamFrame rfl

theorem noEffect_stream (hi : Issuable s t.val e.val d rest) (hop : dOp d.raw = 2) (hinit : stInit d.raw ≠ 3)
    (hf : (getArray s t.val e.val).fenced = false) (h : (getArray s t.val e.val).stream.isSome = true ∨ tripped s = true ∨
      (firstLoad s t.val e.val).isSome = true) : NoEffect (.stream t e) s := by
  refine noEffect_run (exec_stream t e s) (issueDesc_waits hi (isStream hop hinit) fun d' => ?_)
  apply streamStart_waits
  · rw [getArray_taken, hf]
  · rw [getArray_taken, tripped_taken, firstLoad_taken]
    exact h

/-- A STREAM of some rows opens or joins its group on the plane loaded last (R158, R159). -/
theorem answers_stream_begins (hi : Issuable s t.val e.val d rest) (hop : dOp d.raw = 2) (hinit : stInit d.raw ≠ 3)
    (hd : d.started = false) {x : ArrayS} (hx : getArray s t.val e.val = x) (hk : (planeOf x x.lastB).k ≠ 0)
    (hstart : streamStart t.val e.val (begun s d) (taken s t.val e.val rest) =
      some (streamBegin t.val e.val (begun s d) (planeOf x x.lastB) (taken s t.val e.val rest))) :
    Answers (.stream t e) s (fun s' => (getEngine s' t.val e.val).ready = rest ∧
      (∃ fl, (getEngine s' t.val e.val).prog = (getEngine s t.val e.val).prog ++ [{ begun s d with flags := fl }]) ∧
      getArray s' t.val e.val = begunArray x (begun s d) ∧ SameMemory s s' ∧ OtherObjects s s' [] ∧
      s' = { s with engine := s'.engine, array := s'.array, out := {} }) := by
  subst hx
  obtain ⟨fl, hbegin⟩ := streamBegin_rows (t := t.val) (a := e.val) (d := begun s d) (s := taken s t.val e.val rest) hk
  rw [getArray_taken] at hbegin
  refine answers_run (exec_stream t e s) ?_
  rw [issueDesc_runs hi (isStream hop hinit) hd (hstart.trans (congrArg some hbegin))]
  obtain ⟨hready, hprog⟩ := forgetAbandoned_lists (getArray s t.val e.val) { getEngine s t.val e.val with ready := rest }
  refine ⟨?_, ⟨fl, ?_⟩, ?_, ?_⟩
  · simp [hready]
  · simp [hprog]
  · simp
  · dsimp only [sameTime, pushProg, taken, modEngine, modArray]
    exact streamFrame rfl

end

end Sys2Proof.Machine

/-! ## Proofs: memories without errors -/

namespace Sys2Proof.Machine

open Sys2Proof

/-! ### Reads of SRAM words of which none has changed (R260) -/

section
variable {s : State} (h : s.sramErr = [])
include h

theorem sramChanged_clean (t kind lo hi : Nat) : sramChanged s t kind lo hi = [] := by
  simp [sramChanged, h]

theorem slateScrub_clean (t off n : Nat) : slateScrub t off n s = s := by
  simp [slateScrub, sramChanged_clean h]

theorem slateStatus_clean {t off n : Nat} (hb : slateBad s t off n = false) : slateStatus s t off n = stOk := by
  simp [slateStatus, slateFresh, sramChanged_clean h, slateScrub_clean h, hb]

theorem slateTouch_clean (t off n : Nat) : slateTouch t off n s = s := by
  simp [slateTouch, h]

theorem storeInk_clean (t a row : Nat) : storeInk t a row s = s := by
  simp [storeInk, inkChanged, sramChanged_clean h]

theorem readInk_clean (t a row : Nat) : readInk t a row s = (none, s) := by
  simp [readInk, inkBadWords, inkScrub, inkChanged, sramChanged_clean h]

theorem putInkRow_clean (t a row : Nat) (l : List Nat) : putInkRow t a row l s = setInkRow t a row l s := by
  rw [putInkRow, storeInk_clean h]

theorem rowRead_clean (t r m : Nat) (p : Plane) : rowRead t r m p s = s := by
  have hfold : ∀ l : List (Nat × Nat), l.foldl (fun s e => slateScrub t e.1 e.2 s) s = s := by
    intro l
    induction l with
    | nil => rfl
    | cons x l ih => rw [List.foldl_cons, slateScrub_clean h, ih]
  exact hfold _

end

/-! ### The bytes of a range of the Slate (R152) -/

theorem slateNat_succ (s : State) (t off n : Nat) :
    slateNat s t off (n + 1) = fget 0 s.slate (t * 2 ^ 23 + off) % 256 + 256 * slateNat s t (off + 1) n := by
  have htail : (List.range n).map ((fun i => fget 0 s.slate (t * 2 ^ 23 + off + i)) ∘ Nat.succ) =
      (List.range n).map (fun i => fget 0 s.slate (t * 2 ^ 23 + (off + 1) + i)) := by
    refine List.map_congr_left fun i _ => ?_
    rw [Function.comp_apply, show t * 2 ^ 23 + off + i.succ = t * 2 ^ 23 + (off + 1) + i by omega]
  rw [slateNat, List.range_succ_eq_map, List.map_cons, List.map_map, htail, leNat, Nat.add_zero, slateNat]

theorem slateNat_congr {s s' : State} (h : s'.slate = s.slate) (t off n : Nat) : slateNat s' t off n = slateNat s t off n := by
  simp only [slateNat, h]

/-- Writing bytes changes the Slate only. -/
theorem slateBytes_fields (t off n data : Nat) (s : State) :
    slateBytes t off n data s = { s with slate := (slateBytes t off n data s).slate } := by
  induction n generalizing off data s with
  | zero => rfl
  | succ n ih =>
    rw [slateBytes]
    exact ih _ _ _

theorem fget_slateBytes_below {t off k : Nat} (n data : Nat) (s : State) (h : k < t * 2 ^ 23 + off) :
    fget 0 (slateBytes t off n data s).slate k = fget 0 s.slate k := by
  induction n generalizing off data s with
  | zero => rfl
  | succ n ih =>
    rw [slateBytes, ih _ _ (by omega)]
    exact fget_fset_other _ _ _ _ (by omega)

theorem slateNat_slateBytes (t off n data : Nat) (s : State) :
    slateNat (slateBytes t off n data s) t off n = data % 2 ^ (8 * n) := by
  induction n generalizing off data s with
  | zero => simp [slateNat, leNat, Nat.mod_one]
  | succ n ih =>
    rw [slateNat_succ, slateBytes, ih, fget_slateBytes_below _ _ _ (by omega), fget_fset_same, Nat.mod_mod,
      Nat.mul_succ, Nat.pow_add', Nat.mod_mul]

/-- Marking the words of a range changes the marks only. -/
theorem slateMark_fields (t off n bad : Nat) (s : State) :
    slateMark t off n bad s = { s with slatePois := (slateMark t off n bad s).slatePois } := by
  unfold slateMark
  generalize List.range _ = l
  induction l generalizing s with
  | nil => rfl
  | cons x l ih =>
    rw [List.foldl_cons]
    exact ih _

theorem slateWrite_fields {s : State} (h : s.sramErr = []) (t off n data bad : Nat) :
    slateWrite t off n data bad s = { s with
      slate := (slateBytes t off n data s).slate, slatePois := (slateWrite t off n data bad s).slatePois } := by
  rw [slateWrite, slateTouch_clean h, slateMark_fields, slateBytes_fields]

theorem slateNat_slateWrite {s : State} (h : s.sramErr = []) (t off n data bad : Nat) :
    slateNat (slateWrite t off n data bad s) t off n = data % 2 ^ (8 * n) := by
  rw [slateNat_congr (s := slateBytes t off n data s) (by rw [slateWrite_fields h]), slateNat_slateBytes]

/-! ### The rows of an Inkwell (R162) -/

theorem setInkRow_fields (t a row : Nat) (l : List Nat) (s : State) :
    setInkRow t a row l s = { s with inkwell := (setInkRow t a row l s).inkwell } := by
  unfold setInkRow
  generalize 0 = i
  induction l generalizing i s with
  | nil => rfl
  | cons v l ih =>
    rw [List.foldl_cons]
    exact ih _ _

/-- What a row written from one column on reads as. -/
theorem fget_setInk_columns (t a row : Nat) (l : List Nat) (i : Nat) (s : State) (k : Nat) :
    fget 0 (l.foldl (fun (acc : Nat × State) v => (acc.1 + 1, setInk t a row acc.1 v acc.2)) (i, s)).2.inkwell k =
      if inkKey t a row i ≤ k ∧ k < inkKey t a row i + l.length then l.getD (k - inkKey t a row i) 0
      else fget 0 s.inkwell k := by
  induction l generalizing i s with
  | nil => simp
  | cons v l ih =>
    have hsucc : inkKey t a row (i + 1) = inkKey t a row i + 1 := rfl
    rw [List.foldl_cons, ih]
    dsimp only
    rw [hsucc]
    rcases Nat.lt_trichotomy k (inkKey t a row i) with hlt | rfl | hgt
    · rw [if_neg (by omega), if_neg (by omega)]
      exact fget_fset_other _ _ _ _ (by omega)
    · rw [if_neg (by omega), if_pos (by simp), Nat.sub_self]
      exact fget_fset_same _ _ _ _
    · obtain ⟨j, rfl⟩ := Nat.exists_eq_add_of_le (show inkKey t a row i + 1 ≤ k from hgt)
      have hj : inkKey t a row i + 1 + j - inkKey t a row i = j + 1 := by omega
      simp only [List.length_cons, hj, List.getD_cons_succ, Nat.add_sub_cancel_left]
      by_cases hin : j < l.length
      · rw [if_pos (by omega), if_pos (by omega)]
      · rw [if_neg (by omega), if_neg (by omega)]
        exact fget_fset_other _ _ _ _ (by omega)

/-- The cells of a row of an Inkwell. -/
def inRow (t a row k : Nat) : Prop := inkKey t a row 0 ≤ k ∧ k < inkKey t a row 0 + 128

theorem fget_setInkRow_other {t a row k : Nat} {l : List Nat} (hl : l.length = 128) (h : ¬ inRow t a row k) (s : State) :
    fget 0 (setInkRow t a row l s).inkwell k = fget 0 s.inkwell k := by
  rw [setInkRow, fget_setInk_columns, hl]
  exact if_neg h

theorem getInk_setInkRow_same (t a row : Nat) {l : List Nat} {j : Nat} (hl : l.length = 128) (hj : j < 128) (s : State) :
    getInk (setInkRow t a row l s) t a row j = l.getD j 0 := by
  have hkey : inkKey t a row j = inkKey t a row 0 + j := rfl
  rw [getInk, setInkRow, fget_setInk_columns, hl, hkey, if_pos (by omega), Nat.add_sub_cancel_left]

theorem not_inRow_of_ne {t a row q j : Nat} (h : q ≠ row) (hj : j < 128) : ¬ inRow t a row (inkKey t a q j) := by
  unfold inRow inkKey
  omega

theorem getInk_setInkRow_other {t a row q j : Nat} {l : List Nat} (hl : l.length = 128) (h : q ≠ row) (hj : j < 128)
    (s : State) : getInk (setInkRow t a row l s) t a q j = getInk s t a q j :=
  fget_setInkRow_other hl (not_inRow_of_ne h hj) s

end Sys2Proof.Machine

/-! ## Proofs: array steps -/

namespace Sys2Proof.Machine

open Sys2Proof

/-! ### The counts of an array (Table 6.13) -/

@[simp] theorem getArray_setObj (u k v t a : Nat) (s : State) : getArray (setObj u k v s) t a = getArray s t a := rfl
@[simp] theorem getArray_bump (u k v t a : Nat) (s : State) : getArray (bump u k v s) t a = getArray s t a := rfl

theorem Side.array {s s' : State} (h : Side s s') : s'.array = s.array := by rw [h.fields]

/-- Each array's own count or register of an object stays in that object, which reporting does not write. -/
theorem arrayCount_key {k a : Nat} (hk : k ∈ [Obj.arraySteps, Obj.activeColumnSteps, Obj.columnEfficiency,
    Obj.rowEfficiency, Obj.residueFaults, Obj.lastResidueFault, Obj.abandonedGroups, Obj.intSaturations]) (ha : a < 4) :
    k + a < 2 ^ 24 ∧ (k + a) / 256 = k / 256 ∧ sideKey (k + a) = false ∧ objBits (k + a) = objBits k := by
  have hkeys : ∀ k ∈ [Obj.arraySteps, Obj.activeColumnSteps, Obj.columnEfficiency, Obj.rowEfficiency, Obj.residueFaults,
      Obj.lastResidueFault, Obj.abandonedGroups, Obj.intSaturations], ∀ a < 4,
      k + a < 2 ^ 24 ∧ (k + a) / 256 = k / 256 ∧ sideKey (k + a) = false ∧ objBits (k + a) = objBits k := by decide
  exact hkeys k hk a ha

/-- An object of another index is left alone by a write. -/
theorem getObj_setObj_index (s : State) {u v k j x : Nat} (h : j / 256 ≠ k / 256) (hj : j < 2 ^ 24) (hk : k < 2 ^ 24) :
    getObj (setObj u k x s) v j = getObj s v j :=
  getObj_setObj_obj s (fun e => h (by rw [e])) hj hk

/-- The objects that the end of a step may write, by index: efficiencies, residue faults, abandoned groups,
saturations, and the counts of conversions and scales. -/
def groupKey (k : Nat) : Bool :=
  [0x4006, 0x4007, 0x4008, 0x400A, 0x400E, 0x400F, 0x4201, 0x4202, 0x4203, 0x4205].contains (k / 256)

/-- The count of a step and of its columns (R163). -/
def StepCounted (s s' : State) (t a n : Nat) : Prop :=
  getObj s' t (Obj.arraySteps + a) = (getObj s t (Obj.arraySteps + a) + 1) % 2 ^ 64 ∧
  getObj s' t (Obj.activeColumnSteps + a) = (getObj s t (Obj.activeColumnSteps + a) + n) % 2 ^ 64

/-- Every object reads as before but those the end of a step may write. -/
def GroupObjs (s s' : State) : Prop :=
  ∀ u k, k < 2 ^ 24 → groupKey k = false → sideKey k = false → getObj s' u k = getObj s u k

theorem GroupObjs.trans {a b c : State} (h : GroupObjs a b) (h' : GroupObjs b c) : GroupObjs a c :=
  fun u k hk hg hs => (h' u k hk hg hs).trans (h u k hk hg hs)

theorem groupObjs_of {s s' : State} (h : s'.dict = s.dict) : GroupObjs s s' := fun u k _ _ _ => getObj_congr h u k

theorem GroupObjs.bump {s s' : State} {k : Nat} (h : GroupObjs s s') (hk : k < 2 ^ 24) (hg : groupKey k = true) (u n : Nat) :
    GroupObjs s (bump u k n s') := by
  refine h.trans fun v j hj hgj _ => getObj_setObj_obj s' ?_ hj hk
  rintro rfl
  rw [hg] at hgj
  cases hgj

theorem StepCounted.kept {s y s' : State} {t a n : Nat} (ha : a < 4) (h : StepCounted s y t a n) (h' : GroupObjs y s') :
    StepCounted s s' t a n := by
  have hgroup : ∀ k ∈ [Obj.arraySteps, Obj.activeColumnSteps], ∀ a < 4, groupKey (k + a) = false := by decide
  obtain ⟨hlt, -, hside, -⟩ := arrayCount_key (k := Obj.arraySteps) (by simp) ha
  obtain ⟨hlt', -, hside', -⟩ := arrayCount_key (k := Obj.activeColumnSteps) (by simp) ha
  exact ⟨(h' t _ hlt (hgroup _ (by simp) a ha) hside).trans h.1, (h' t _ hlt' (hgroup _ (by simp) a ha) hside').trans h.2⟩

theorem countStep_fields (t a : Nat) (p : Plane) (s : State) : countStep t a p s = { s with
    dict := (bump t (Obj.arraySteps + a) 1 (bump t (Obj.activeColumnSteps + a) p.n s)).dict
    count := (countStep t a p s).count, array := (countStep t a p s).array, withheld := (countStep t a p s).withheld } := by
  unfold countStep
  rw [meterToken_fields, modArray, countEv_fields]
  rfl

theorem stepCounted_countStep {a : Nat} (ha : a < 4) (t : Nat) (p : Plane) (s : State) :
    StepCounted s (countStep t a p s) t a p.n := by
  obtain ⟨hlt, hidx, -, hbits⟩ := arrayCount_key (k := Obj.arraySteps) (by simp) ha
  obtain ⟨hlt', hidx', -, hbits'⟩ := arrayCount_key (k := Obj.activeColumnSteps) (by simp) ha
  have hdict : (countStep t a p s).dict =
      (bump t (Obj.arraySteps + a) 1 (bump t (Obj.activeColumnSteps + a) p.n s)).dict := by rw [countStep_fields]
  have hne : (Obj.arraySteps + a) / 256 ≠ (Obj.activeColumnSteps + a) / 256 := by rw [hidx, hidx']; decide
  refine ⟨(getObj_congr hdict _ _).trans ?_, (getObj_congr hdict _ _).trans ?_⟩
  · rw [bump, getObj_setObj_same, bump, getObj_setObj_index _ hne hlt hlt', hbits,
      show objBits Obj.arraySteps = 64 by decide]
  · rw [bump, getObj_setObj_index _ hne.symm hlt' hlt, bump, getObj_setObj_same, hbits',
      show objBits Obj.activeColumnSteps = 64 by decide]

/-- An array after the count of a step. -/
def counted (p : Plane) (x : ArrayS) : ArrayS :=
  { x with colUse := x.colUse + p.n, colAll := x.colAll + 128, rowUse := x.rowUse + p.k, rowAll := x.rowAll + 256 }

@[simp] theorem getArray_countStep (t a : Nat) (p : Plane) (s : State) :
    getArray (countStep t a p s) t a = counted p (getArray s t a) := by
  have harray : (countStep t a p s).array = (modArray t a (counted p) s).array := by
    unfold countStep
    rw [meterToken_fields, modArray, countEv_fields]
    rfl
  rw [getArray_congr harray, getArray_modArray]

theorem sameMemory_countStep (t a : Nat) (p : Plane) (s : State) : SameMemory s (countStep t a p s) := by
  rw [countStep_fields]
  exact sameMemory_of rfl rfl rfl rfl

/-! ### Groups that end (R168 to R170) -/

section
variable {t a : Nat} {g : Group} {s : State} (ha : a < 4) (hg : (getArray s t a).group = some g)
include hg

theorem abandonGroup_open : abandonGroup t a s = bump t (Obj.abandonedGroups + a) 1
    (modEngine t a (fun en => { en with abandoned := some g.opening })
      (modArray t a (fun x => { x with group := none, stream := none, loads := [] }) s)) := by
  simp [abandonGroup, hg]

theorem getArray_abandonGroup :
    getArray (abandonGroup t a s) t a = { getArray s t a with group := none, stream := none, loads := [] } := by
  simp [abandonGroup_open hg]

include ha

theorem abandonedGroups_abandonGroup : getObj (abandonGroup t a s) t (Obj.abandonedGroups + a) =
    (getObj s t (Obj.abandonedGroups + a) + 1) % 2 ^ 32 := by
  rw [abandonGroup_open hg, bump, getObj_setObj_same, (arrayCount_key (by simp) ha).2.2.2,
    show objBits Obj.abandonedGroups = 32 by decide]
  rfl

theorem calm_abandonGroup : Calm (fun k => k / 256 == 0x400E) s (abandonGroup t a s) := by
  obtain ⟨hlt, hidx, -, -⟩ := arrayCount_key (k := Obj.abandonedGroups) (by simp) ha
  rw [abandonGroup_open hg]
  exact Calm.bump (calm_of rfl) hlt (by rw [hidx]; decide)

end

theorem calm_updProg {K : Nat → Bool} (t e : Nat) (p : Desc → Bool) (f : Desc → Desc) (s : State) :
    Calm K s (updProg t e p f s) := calm_of rfl

theorem calm_modArray {K : Nat → Bool} (t a : Nat) (f : ArrayS → ArrayS) (s : State) : Calm K s (modArray t a f s) :=
  calm_of rfl

@[simp] theorem getArray_updProg (t e u a : Nat) (p : Desc → Bool) (f : Desc → Desc) (s : State) :
    getArray (updProg t e p f s) u a = getArray s u a := rfl

/-- A row that meets bad data ends its group and its STREAM (R170). -/
theorem calm_endStream_abandon {t a st detail : Nat} {g : Group} {s : State} (ha : a < 4)
    (hg : (getArray s t a).group = some g) :
    Calm (fun k => k / 256 == 0x400E) s (endStream t a st detail (abandonGroup t a s)) :=
  (calm_abandonGroup ha hg).trans (calm_updProg _ _ _ _ _)

/-! ### Residue faults (R167 to R169) -/

theorem residueBits_lt {point col : Nat} (s : State) : residueBits s point col < 2 ^ 64 := by
  simp only [residueBits, fld, Nat.reducePow]
  omega

theorem getArray_fenceArray (t a : Nat) (f : ArrayFault) (s : State) :
    getArray (fenceArray t a f s) t a = { getArray s t a with fenced := true } := by
  have hside := (side_addLog t 0x03 3 f.status (residueBits s f.point f.col) a
    (modArray t a (fun x => { x with fenced := true }) s)).trans (side_ring t 7 _)
  exact (getArray_congr hside.array t a).trans (getArray_modArray t a _ s)

theorem calm_fenceArray {K : Nat → Bool} (t a : Nat) (f : ArrayFault) (s : State) : Calm K s (fenceArray t a f s) :=
  ((calm_modArray t a _ s).side (side_addLog _ _ _ _ _ _ _)).side (side_ring _ _ _)

/-- An array after a fault was noted: its time, under what its window is kept by. -/
def faultNoted (s : State) (f : ArrayFault) (x : ArrayS) : ArrayS :=
  { x with faults := (f.key, s.time.elapsed) :: x.faults.filter (fun e => e.1 ≠ f.key) }

/-- A residue mismatch noted, but for its log entry. -/
def mismatchNoted (t a point col : Nat) (s : State) : State :=
  setObj t (Obj.lastResidueFault + a) (residueBits s point col)
    (modArray t a (faultNoted s (mismatch point col)) (bump t (Obj.residueFaults + a) 1 s))

theorem side_noteFault (t a point col : Nat) (s : State) :
    Side (mismatchNoted t a point col s) (noteFault t a (mismatch point col) s) := by
  have heq : noteFault t a (mismatch point col) s =
      addLog t 0x03 1 stResidueFault (residueBits s point col) a (mismatchNoted t a point col s) := by
    simp only [noteFault, show (mismatch point col).status = stResidueFault from rfl, if_true]
    rfl
  rw [heq]
  exact side_addLog _ _ _ _ _ _ _

/-- A residue mismatch is counted, and LastResidueFault names it (R168). -/
theorem noteFault_mismatch {t a : Nat} (ha : a < 4) (point col : Nat) (s : State) :
    getObj (noteFault t a (mismatch point col) s) t (Obj.residueFaults + a) =
      (getObj s t (Obj.residueFaults + a) + 1) % 2 ^ 32 ∧
    getObj (noteFault t a (mismatch point col) s) t (Obj.lastResidueFault + a) = residueBits s point col ∧
    Calm (fun k => k / 256 == 0x4008 || k / 256 == 0x400A) s (noteFault t a (mismatch point col) s) ∧
    getArray (noteFault t a (mismatch point col) s) t a = faultNoted s (mismatch point col) (getArray s t a) := by
  obtain ⟨hlt, hidx, hside, hbits⟩ := arrayCount_key (k := Obj.residueFaults) (by simp) ha
  obtain ⟨hlt', hidx', hside', hbits'⟩ := arrayCount_key (k := Obj.lastResidueFault) (by simp) ha
  have hlog := side_noteFault t a point col s
  refine ⟨(hlog.objs _ _ hlt hside).trans ?_, (hlog.objs _ _ hlt' hside').trans ?_, Calm.side ?_ hlog,
    (getArray_congr hlog.array t a).trans ?_⟩
  · have hne : (Obj.residueFaults + a) / 256 ≠ (Obj.lastResidueFault + a) / 256 := by rw [hidx, hidx']; decide
    rw [mismatchNoted, getObj_setObj_index _ hne hlt hlt']
    refine (getObj_setObj_same s t _ _).trans ?_
    rw [hbits, show objBits Obj.residueFaults = 32 by decide]
  · refine getObj_setObj_fits _ ?_
    rw [hbits', show objBits Obj.lastResidueFault = 64 by decide]
    exact residueBits_lt s
  · refine Calm.set (Calm.trans (calm_setObj s hlt ?_) (calm_modArray t a _ _)) hlt' ?_
    · rw [hidx]; decide
    · rw [hidx']; decide
  · rw [mismatchNoted, getArray_setObj, getArray_modArray, getArray_bump]

/-- A fault that is not transient abandons the open group and fences the array (R169). -/
theorem arrayFault_lasting {t a : Nat} {f : ArrayFault} {cur : Desc} {g : Group} {s : State}
    (hg : (getArray s t a).group = some g) (hf : isTransient s t (getArray s t a).faults f.key = false) :
    arrayFault t a f cur s = fenceArray t a f (updProg t a (fun d => d.idx = cur.idx ∧ dOp d.raw = dOp cur.raw ∧ ¬ d.ended)
      (fun d => { d with ended := true, status := f.status, detail := f.detail }) (abandonGroup t a (noteFault t a f s))) := by
  simp only [arrayFault, hg, faultRetries, hf, Bool.false_and, Bool.false_eq_true, if_false]

end Sys2Proof.Machine

/-! ## Proofs: rows enter the accumulators -/

namespace Sys2Proof.Machine

open Sys2Proof

/-! ### Initial values (R159) -/

theorem length_initRow (s : State) (t r : Nat) : (initRow s t r).length = 128 := by
  simp [initRow]

theorem length_inkRow (s : State) (t a row : Nat) : (inkRow s t a row).length = 128 := by
  simp [inkRow]

theorem inkRow_congr {s s' : State} (h : s'.inkwell = s.inkwell) (t a row : Nat) : inkRow s' t a row = inkRow s t a row := by
  simp only [inkRow, funext (fun j => show getInk s' t a row j = getInk s t a row j by rw [getInk, h, getInk])]

/-- The rows that row `m` of a STREAM writes: its own, and where it opens a complex group those of all three ranges. -/
def rowsWritten (r m : Nat) : List Nat :=
  if stInit r = 0 ∨ stRecipe r < 4 then [accRow r m] else [stA0 r + m, stA0 r + stM r + m, stA0 r + 2 * stM r + m]

/-- The accumulator row is one of them. -/
theorem accRow_mem_rowsWritten {r : Nat} (m : Nat) (h : stFused r = false) : accRow r m ∈ rowsWritten r m := by
  unfold rowsWritten
  split
  · exact List.mem_singleton.mpr rfl
  · simp only [accRow, h, Bool.false_eq_true, if_false, List.mem_cons, List.not_mem_nil, or_false]
    split
    · exact .inr (.inl rfl)
    · split
      · exact .inr (.inr rfl)
      · exact .inl rfl

/-- `s'` differs from `s` by the Inkwells only. -/
def InkOnly (s s' : State) : Prop := s' = { s with inkwell := s'.inkwell }

theorem InkOnly.trans {a b c : State} (h : InkOnly a b) (h' : InkOnly b c) : InkOnly a c := by
  unfold InkOnly at *
  rw [h] at h'
  exact h'

theorem InkOnly.sramErr {s s' : State} (h : InkOnly s s') (hs : s.sramErr = []) : s'.sramErr = [] := by
  rw [h]
  exact hs

theorem inkOnly_setInkRow (t a row : Nat) (l : List Nat) (s : State) : InkOnly s (setInkRow t a row l s) :=
  setInkRow_fields t a row l s

theorem openRowInit_joins {t a r m : Nat} {s : State} (hi : stInit r = 0) : openRowInit t a r m s = s := if_pos hi

section
variable {s : State} (h : s.sramErr = [])
include h

theorem openRowInit_plain {t a r m : Nat} (hi : stInit r ≠ 0) (hr : stRecipe r < 4) :
    openRowInit t a r m s = setInkRow t a (accRow r m) (initRow s t r) s := by
  rw [openRowInit, if_neg hi, if_neg (by omega), putInkRow_clean h]

theorem openRowInit_complex {t a r m : Nat} (hi : stInit r ≠ 0) (hr : 4 ≤ stRecipe r) :
    openRowInit t a r m s = setInkRow t a (stA0 r + m) (initRow s t r) (setInkRow t a (stA0 r + stM r + m) (initRow s t r)
      (setInkRow t a (stA0 r + 2 * stM r + m) (initRow s t r) s)) := by
  have hset : ∀ row l (y : State), y.sramErr = [] → (setInkRow t a row l y).sramErr = [] :=
    fun row l y => (inkOnly_setInkRow t a row l y).sramErr
  rw [openRowInit, if_neg hi, if_pos hr, putInkRow_clean h, putInkRow_clean (hset _ _ _ h),
    putInkRow_clean (hset _ _ _ (hset _ _ _ h))]

/-- Opening the group's rows writes the Inkwell only. -/
theorem inkOnly_openRowInit (t a r m : Nat) : InkOnly s (openRowInit t a r m s) := by
  by_cases hi : stInit r = 0
  · rw [openRowInit_joins hi]
    exact rfl
  · rcases Nat.lt_or_ge (stRecipe r) 4 with hr | hr
    · rw [openRowInit_plain h hi hr]
      exact inkOnly_setInkRow _ _ _ _ _
    · rw [openRowInit_complex h hi hr]
      exact ((inkOnly_setInkRow _ _ _ _ _).trans (inkOnly_setInkRow _ _ _ _ _)).trans (inkOnly_setInkRow _ _ _ _ _)

/-- A row of the Inkwell that is not written is as it was. -/
theorem fget_openRowInit_other {t a r m k : Nat} (hk : ∀ q ∈ rowsWritten r m, ¬ inRow t a q k) :
    fget 0 (openRowInit t a r m s).inkwell k = fget 0 s.inkwell k := by
  have hl := length_initRow s t r
  rcases Nat.eq_zero_or_pos (stInit r) with hi | hi
  · rw [openRowInit_joins hi]
  · rcases Nat.lt_or_ge (stRecipe r) 4 with hr | hr
    · rw [rowsWritten, if_pos (.inr hr)] at hk
      rw [openRowInit_plain h (by omega) hr, fget_setInkRow_other hl (hk _ (by simp))]
    · rw [rowsWritten, if_neg (by omega)] at hk
      rw [openRowInit_complex h (by omega) hr, fget_setInkRow_other hl (hk _ (by simp)),
        fget_setInkRow_other hl (hk _ (by simp)), fget_setInkRow_other hl (hk _ (by simp))]

/-- The accumulators that a row adds to: those of the open group, or its initial values. -/
theorem getInk_openRowInit {t a r m j : Nat} (hf : stFused r = false) (hj : j < 128) :
    getInk (openRowInit t a r m s) t a (accRow r m) j =
      if stInit r = 0 then getInk s t a (accRow r m) j else (initRow s t r).getD j 0 := by
  have hl := length_initRow s t r
  by_cases hi : stInit r = 0
  · rw [openRowInit_joins hi, if_pos hi]
  · rw [if_neg hi]
    rcases Nat.lt_or_ge (stRecipe r) 4 with hr | hr
    · rw [openRowInit_plain h hi hr, getInk_setInkRow_same t a _ hl hj]
    · have hmem := accRow_mem_rowsWritten m hf
      rw [rowsWritten, if_neg (by omega)] at hmem
      simp only [List.mem_cons, List.not_mem_nil, or_false] at hmem
      rw [openRowInit_complex h hi hr]
      by_cases h1 : accRow r m = stA0 r + m
      · rw [h1, getInk_setInkRow_same t a _ hl hj]
      · rw [getInk_setInkRow_other hl h1 hj]
        by_cases h2 : accRow r m = stA0 r + stM r + m
        · rw [h2, getInk_setInkRow_same t a _ hl hj]
        · rw [getInk_setInkRow_other hl h2 hj, (hmem.resolve_left h1).resolve_left h2, getInk_setInkRow_same t a _ hl hj]

end

/-! ### Column sums (R154, R157) -/

/-- Columns that hold no weights are alike. -/
theorem colSumOf_idle {p : Plane} {j : Nat} (h : p.n ≤ j) (af : Nat) (xs scales : List Num) :
    colSumOf p af xs scales p.n = colSumOf p af xs scales j := by
  have hn : decide (p.n < p.n) = false := decide_eq_false (by omega)
  have hj : decide (j < p.n) = false := decide_eq_false (by omega)
  simp only [colSumOf, hn, hj, Bool.false_eq_true, if_false]

theorem getElem?_colSums (p : Plane) (af : Nat) (xs scales : List Num) {j : Nat} (hj : j < 128) :
    (colSums p af xs scales)[j]? = some (colSumOf p af xs scales j) := by
  by_cases h : j < p.n
  · simp [colSums, hj, h]
  · simp [colSums, hj, h, colSumOf_idle (Nat.le_of_not_lt h)]

/-! ### A row enters (R154, R155) -/

/-- The activation values of a row, and its scales. -/
def rowValues (s : State) (t m : Nat) (p : Plane) (r : Nat) : List Num :=
  (actCodes s t r m p.k).map (elemVal (actFmt r) (stScheme r) {})
def rowScales (s : State) (t m : Nat) (p : Plane) (r : Nat) : List Num :=
  (List.range (segments p.k p.scheme)).map (fun sg => scaleVal p.scheme (actScale s t r m p.k sg))

/-- The accumulators of a row with its column sums added, and which of them saturated. -/
def rowSums (s : State) (t a m : Nat) (p : Plane) (g : Group) (r : Nat) : List (Nat × Bool) :=
  ((inkRow (openRowInit t a r m s) t a (accRow r m)).zip (colSums p (actFmt r) (rowValues s t m p r) (rowScales s t m p r))).map
    (fun e => accumulate g.int e.1 e.2)

theorem length_rowSums (s : State) (t a m : Nat) (p : Plane) (g : Group) (r : Nat) :
    (rowSums s t a m p g r).length = 128 := by
  simp [rowSums, length_inkRow, colSums]

theorem getD_rowSums {s : State} {t a m : Nat} {p : Plane} {g : Group} {r j : Nat} (h : s.sramErr = [])
    (hf : stFused r = false) (hj : j < 128) : ((rowSums s t a m p g r).map (·.1)).getD j 0 =
      (accumulate g.int (if stInit r = 0 then getInk s t a (accRow r m) j else (initRow s t r).getD j 0)
        (colSumOf p (actFmt r) (rowValues s t m p r) (rowScales s t m p r) j)).1 := by
  have hold : (inkRow (openRowInit t a r m s) t a (accRow r m))[j]? =
      some (if stInit r = 0 then getInk s t a (accRow r m) j else (initRow s t r).getD j 0) := by
    rw [← getInk_openRowInit h hf hj]
    simp [inkRow, hj]
  simp only [rowSums, List.getD_eq_getElem?_getD, List.getElem?_map, List.zip, List.getElem?_zipWith,
    hold, getElem?_colSums _ _ _ _ hj, Option.map_some, Option.getD_some]

/-- The saturations of a row that enters are counted, and mark the group (R155). -/
def saturated (t a n : Nat) (s : State) : State :=
  if n = 0 then s else bump t (Obj.intSaturations + a) n
    (modArray t a (fun x => { x with group := x.group.map (fun g => { g with sat := true }) }) s)

/-- The row entered, before a fused group converts it. -/
def rowEntered (t a m : Nat) (p : Plane) (g : Group) (r : Nat) (s : State) : State :=
  countEv t 0x0021 a 1 (saturated t a ((rowSums s t a m p g r).filter (·.2)).length
    (putInkRow t a (accRow r m) ((rowSums s t a m p g r).map (·.1))
      (bump t Obj.blockScaleNaN ((rowScales s t m p r).filter Num.isNan).length (openRowInit t a r m s))))

theorem enterRow_eq (t a m : Nat) (p : Plane) (g : Group) (r : Nat) (s : State) : enterRow t a m p g r s =
    if g.fused then fusedDrain t a m g r (rowEntered t a m p g r s) else rowEntered t a m p g r s := rfl

/-- `s'` differs from `s` by objects, counted events, the arrays and the Inkwells only. -/
def RowFrame (s s' : State) : Prop :=
  s' = { s with dict := s'.dict, array := s'.array, count := s'.count, inkwell := s'.inkwell }

theorem RowFrame.trans {a b c : State} (h : RowFrame a b) (h' : RowFrame b c) : RowFrame a c := by
  unfold RowFrame at *
  rw [h] at h'
  exact h'

theorem InkOnly.rowFrame {s s' : State} (h : InkOnly s s') : RowFrame s s' := by
  unfold RowFrame
  rw [h]

theorem rowFrame_countEv (t e q w : Nat) (s : State) : RowFrame s (countEv t e q w s) := by
  unfold RowFrame
  rw [countEv_fields]

/-- What a row that enters changes: its accumulators, counts, and the group's mark of saturation. -/
structure RowEntered (t a m : Nat) (p : Plane) (g : Group) (r : Nat) (s y : State) : Prop where
  frame : RowFrame s y
  objs : GroupObjs s y
  ink : ∀ j < 128, getInk y t a (accRow r m) j = ((rowSums s t a m p g r).map (·.1)).getD j 0
  other : ∀ k, ¬ inRow t a (accRow r m) k → fget 0 y.inkwell k = fget 0 (openRowInit t a r m s).inkwell k
  array : ∃ f : Group → Group, getArray y t a = { getArray s t a with group := (getArray s t a).group.map f } ∧
    ∀ g, (f g).fused = g.fused

theorem saturated_spec {a : Nat} (ha : a < 4) (t n : Nat) (s : State) : RowFrame s (saturated t a n s) ∧
    GroupObjs s (saturated t a n s) ∧ (saturated t a n s).inkwell = s.inkwell ∧
    ∃ f : Group → Group, getArray (saturated t a n s) t a = { getArray s t a with group := (getArray s t a).group.map f } ∧
      ∀ g, (f g).fused = g.fused := by
  have hkey : ∀ a < 4, groupKey (Obj.intSaturations + a) = true := by decide
  by_cases hn : n = 0
  · have heq : saturated t a n s = s := if_pos hn
    rw [heq]
    exact ⟨rfl, groupObjs_of rfl, rfl, id, by simp, fun _ => rfl⟩
  · have heq : saturated t a n s = bump t (Obj.intSaturations + a) n
      (modArray t a (fun x => { x with group := x.group.map (fun g => { g with sat := true }) }) s) := if_neg hn
    rw [heq]
    refine ⟨rfl, GroupObjs.bump (groupObjs_of rfl) (arrayCount_key (by simp) ha).1 (hkey a ha) t n, rfl,
      fun g => { g with sat := true }, ?_, fun _ => rfl⟩
    rw [getArray_bump, getArray_modArray]

theorem rowEntered_spec {t a : Nat} (ha : a < 4) (m : Nat) (p : Plane) (g : Group) (r : Nat) {s : State}
    (h : s.sramErr = []) : RowEntered t a m p g r s (rowEntered t a m p g r s) := by
  have hlen : ((rowSums s t a m p g r).map (·.1)).length = 128 := by rw [List.length_map, length_rowSums]
  have hopen := inkOnly_openRowInit h t a r m
  generalize hy : bump t Obj.blockScaleNaN ((rowScales s t m p r).filter Num.isNan).length (openRowInit t a r m s) = y
  have hbump : RowFrame s y ∧ GroupObjs s y ∧ y.inkwell = (openRowInit t a r m s).inkwell ∧ y.array = s.array := by
    rw [← hy]
    refine ⟨hopen.rowFrame.trans rfl, GroupObjs.bump (groupObjs_of ?_) (by decide) (by decide) _ _, rfl, ?_⟩
    · rw [hopen]
    · change (openRowInit t a r m s).array = _
      rw [hopen]
  obtain ⟨hframe, hobjs, hink, harray⟩ := hbump
  have herr : y.sramErr = [] := by rw [hframe]; exact h
  generalize hz : setInkRow t a (accRow r m) ((rowSums s t a m p g r).map (·.1)) y = z
  have hzy : InkOnly y z := hz ▸ inkOnly_setInkRow _ _ _ _ _
  obtain ⟨hsframe, hsobjs, hsink, f, hsarray, hf⟩ :=
    saturated_spec ha t ((rowSums s t a m p g r).filter (·.2)).length z
  have hentered : rowEntered t a m p g r s =
      countEv t 0x0021 a 1 (saturated t a ((rowSums s t a m p g r).filter (·.2)).length z) := by
    rw [rowEntered, hy, putInkRow_clean herr, hz]
  rw [hentered]
  generalize saturated t a _ z = w at *
  have hcount := rowFrame_countEv t 0x0021 a 1 w
  have hcink : (countEv t 0x0021 a 1 w).inkwell = z.inkwell := by rw [countEv_fields]; exact hsink
  refine ⟨((hframe.trans hzy.rowFrame).trans hsframe).trans hcount,
    ((hobjs.trans (groupObjs_of (by rw [hzy]))).trans hsobjs).trans (groupObjs_of (by rw [countEv_fields])),
    fun j hj => ?_, fun k hk => ?_, f, ?_, hf⟩
  · rw [getInk, hcink, ← hz]
    exact getInk_setInkRow_same t a _ hlen hj y
  · rw [hcink, ← hz, fget_setInkRow_other hlen hk, hink]
  · have hza : z.array = s.array := by rw [hzy]; exact harray
    rw [getArray_congr (s := w) (by rw [countEv_fields]), hsarray, getArray_congr hza]

end Sys2Proof.Machine

/-! ## Proofs: the last step of a row -/

namespace Sys2Proof.Machine

open Sys2Proof

/-! ### A fused group converts its row (R159) -/

/-- The output of a row of a fused group: its bytes, and the flags of its elements. -/
def rowOutput (s : State) (t a m : Nat) (g : Group) (r : Nat) : Nat × FlagCount :=
  outRow (if g.int then 9 else 0xC) (stOfmt r) (stCtrl r) (stOscheme r) {} ((inkRow s t a (accRow r m)).take g.n)

theorem rowOutput_congr {s s' : State} (h : s'.inkwell = s.inkwell) (t a m : Nat) (g : Group) (r : Nat) :
    rowOutput s' t a m g r = rowOutput s t a m g r := by
  rw [rowOutput, inkRow_congr h, rowOutput]

theorem fusedDrain_eq (t a m : Nat) (g : Group) (r : Nat) (s : State) : fusedDrain t a m g r s =
    updProg t a (fun x => dOp x.raw = 2 ∧ ¬ x.ended) (fun x => { x with flags := x.flags ||| flagBits (rowOutput s t a m g r).2 })
      (slateWrite t (stDst r + m * stDstStride r) (rowBytes g.n (stOfmt r) (stOscheme r)) (rowOutput s t a m g r).1 0
        (countFlags t (rowOutput s t a m g r).2 s)) := rfl

theorem groupObjs_countFlags (t : Nat) (c : FlagCount) (s : State) : GroupObjs s (countFlags t c s) :=
  (((groupObjs_of rfl).bump (by decide) (by decide) t c.unf).bump (by decide) (by decide) t c.ovf).bump
    (by decide) (by decide) t c.inv

/-- The row lies converted in the Slate, and no word of the stack or of an Inkwell changed. -/
theorem fusedDrain_spec (t a m : Nat) (g : Group) (r : Nat) {s : State} (h : s.sramErr = []) :
    slateNat (fusedDrain t a m g r s) t (stDst r + m * stDstStride r) (rowBytes g.n (stOfmt r) (stOscheme r)) =
      (rowOutput s t a m g r).1 % 2 ^ (8 * rowBytes g.n (stOfmt r) (stOscheme r)) ∧
    GroupObjs s (fusedDrain t a m g r s) ∧ (fusedDrain t a m g r s).inkwell = s.inkwell ∧
    (fusedDrain t a m g r s).dram = s.dram := by
  rw [fusedDrain_eq]
  generalize hy : countFlags t (rowOutput s t a m g r).2 s = y
  have hcounts := groupObjs_countFlags t (rowOutput s t a m g r).2 s
  rw [hy] at hcounts
  have hkept : y.sramErr = s.sramErr ∧ y.inkwell = s.inkwell ∧ y.dram = s.dram := by
    rw [← hy]
    exact ⟨rfl, rfl, rfl⟩
  obtain ⟨herr, hink, hdram⟩ := hkept
  rw [h] at herr
  generalize hz : slateWrite t (stDst r + m * stDstStride r) (rowBytes g.n (stOfmt r) (stOscheme r))
    (rowOutput s t a m g r).1 0 y = z
  have hnat := slateNat_slateWrite herr t (stDst r + m * stDstStride r) (rowBytes g.n (stOfmt r) (stOscheme r))
    (rowOutput s t a m g r).1 0
  have hfields := slateWrite_fields herr t (stDst r + m * stDstStride r) (rowBytes g.n (stOfmt r) (stOscheme r))
    (rowOutput s t a m g r).1 0
  rw [hz] at hnat hfields
  refine ⟨hnat, hcounts.trans (groupObjs_of ?_), ?_, ?_⟩
  · change z.dict = _
    rw [hfields]
  · change z.inkwell = _
    rw [hfields]
    exact hink
  · change z.dram = _
    rw [hfields]
    exact hdram

theorem getArray_fusedDrain {t a m : Nat} {g : Group} {r : Nat} {s : State} (h : s.sramErr = []) :
    getArray (fusedDrain t a m g r s) t a = getArray s t a := by
  rw [fusedDrain_eq, getArray_updProg, slateWrite_fields (show (countFlags t _ s).sramErr = [] from h)]
  rfl

/-! ### The end of a STREAM (R159, R163) -/

/-- The STREAM in progress ends with its rows counted. -/
def streamEnded (t a m : Nat) (s : State) : State :=
  updProg t a (fun d => dOp d.raw = 2 ∧ ¬ d.ended) (fun d => { d with ended := true, status := stOk, count := m })
    (modArray t a (fun x => { x with stream := none }) s)

section
variable {t a m : Nat} {g : Group} {s : State} (hg : (getArray s t a).group = some g)
include hg

theorem group_streamEnded : (getArray (streamEnded t a m s) t a).group = some g := by
  rw [streamEnded, getArray_updProg, getArray_modArray, hg]

theorem finishStream_open (hf : g.fused = false) : finishStream t a m s = streamEnded t a m s := by
  rw [finishStream, ← streamEnded, group_streamEnded hg]
  exact if_neg (by rw [hf]; exact Bool.false_ne_true)

theorem finishStream_fused (hf : g.fused = true) : finishStream t a m s = closeGroup t a (streamEnded t a m s) := by
  rw [finishStream, ← streamEnded, group_streamEnded hg]
  exact if_pos hf

end

/-- What a closed group changes: its array and its efficiencies. -/
theorem closeGroup_spec {a : Nat} (ha : a < 4) (t : Nat) (s : State) :
    GroupObjs s (closeGroup t a s) ∧ closeGroup t a s = { s with
      dict := (closeGroup t a s).dict, array := (closeGroup t a s).array } := by
  have hkey : ∀ a < 4, groupKey (Obj.rowEfficiency + a) = true ∧ groupKey (Obj.columnEfficiency + a) = true := by decide
  unfold closeGroup
  dsimp only
  split
  · exact ⟨groupObjs_of rfl, rfl⟩
  · refine ⟨fun u k hk hg _ => ?_, rfl⟩
    rw [getObj_setObj_obj _ _ hk (arrayCount_key (by simp) ha).1, getObj_setObj_obj _ _ hk (arrayCount_key (by simp) ha).1]
    · rfl
    · rintro rfl
      rw [(hkey a ha).1] at hg
      cases hg
    · rintro rfl
      rw [(hkey a ha).2] at hg
      cases hg

/-- The end of a STREAM of a fused group changes no memory (R159). -/
theorem finishStream_fused_kept {t a m : Nat} (ha : a < 4) {g : Group} {s : State} (hg : (getArray s t a).group = some g)
    (hf : g.fused = true) : GroupObjs s (finishStream t a m s) ∧ (finishStream t a m s).inkwell = s.inkwell ∧
      (finishStream t a m s).slate = s.slate ∧ (finishStream t a m s).dram = s.dram := by
  obtain ⟨hobjs, hfields⟩ := closeGroup_spec ha t (streamEnded t a m s)
  rw [finishStream_fused hg hf]
  have hended : GroupObjs s (streamEnded t a m s) := groupObjs_of rfl
  refine ⟨hended.trans hobjs, ?_, ?_, ?_⟩ <;> rw [hfields] <;> rfl

/-! ### The last step of a row (R153, R170) -/

section
variable {t a : Nat} {st : StreamRun} {g : Group} {p : Plane} {cur : Desc} {s : State} (hs : s.sramErr = [])
include hs

theorem enterStep_bad (hb : rowBad s t st.raw st.next p = true) :
    enterStep t a st g p cur s = endStream t a stUncorrectable 0 (abandonGroup t a s) := by
  rw [enterStep, rowRead_clean hs]
  exact if_pos hb

/-- The array's STREAM goes on to its next row. -/
def nextRow (t a : Nat) (st : StreamRun) (s : State) : State :=
  modArray t a (fun x => { x with stream := some { st with next := st.next + 1, steps := 0 } }) s

theorem enterStep_enters (hb : rowBad s t st.raw st.next p = false) : enterStep t a st g p cur s =
    if st.next + 1 ≥ stM st.raw then finishStream t a (stM st.raw) (nextRow t a st (enterRow t a st.next p g st.raw s))
    else nextRow t a st (enterRow t a st.next p g st.raw s) := by
  rw [enterStep, rowRead_clean hs]
  dsimp only
  rw [hb, readInk_clean hs, ite_self]
  rfl

end

/-! ### ARRAY_STEP (R153), an equation per case -/

/-- A step of a STREAM can be made (R153, R296, R383). -/
structure Stepping (s : State) (t a : Nat) (st : StreamRun) (g : Group) : Prop where
  stream : (getArray s t a).stream = some st
  group : (getArray s t a).group = some g
  untripped : tripped s = false
  unreset : inReset s t = false
  granted : tokenHeld s t a = false
  going : atStop s t (getArray s t a) st = false

/-- A mismatch given at a check point of every step is that of the step (R167). -/
theorem stepFault_given (s : State) (t : Nat) (p : Plane) (g : Group) (st : StreamRun) (last : Bool) {point : Nat} (col : Nat)
    (h1 : 1 ≤ point) (h4 : point ≤ 4) : stepFault s t p g st last (some (point, col)) = some (mismatch point col) := by
  rw [stepFault, Option.filter_some_pos (by simp [h1, h4])]

/-- A plane whose residues fit its weights has no mismatch of its own (R264). -/
theorem stepFault_sound (s : State) (t : Nat) {p : Plane} (g : Group) (st : StreamRun) (last : Bool)
    (hres : p.resid = planeResid p) : stepFault s t p g st last none = none := by
  rw [stepFault, Option.filter_none, nibFault, if_pos hres]
  rfl

theorem arrayStep_idle {t a : Nat} {s : State} (fault : Option (Nat × Nat)) (h : (getArray s t a).stream = none ∨
    (getArray s t a).group = none ∨ tripped s = true ∨ inReset s t = true ∨ tokenHeld s t a = true) :
    arrayStep t a fault s = s := by
  unfold arrayStep
  dsimp only
  split
  · next st g hst hgr =>
    rw [hst, hgr] at h
    simp only [reduceCtorEq, false_or] at h
    refine if_pos ?_
    rcases h with h | h | h
    · exact .inl h
    · exact .inr (.inl h)
    · exact .inr (.inr (.inl h))
  · rfl

section
variable {t a : Nat} {st : StreamRun} {g : Group} {s : State} {p : Plane} (h : Stepping s t a st g)
  (hp : planeOf (getArray s t a) st.planeB = p)
include h hp

theorem arrayStep_faults {point col : Nat} (h1 : 1 ≤ point) (h4 : point ≤ 4) : arrayStep t a (some (point, col)) s =
    arrayFault t a (mismatch point col) (streamDesc s t a st) (countStep t a p s) := by
  simp [arrayStep, h.stream, h.group, h.untripped, h.unreset, h.granted, h.going, hp, stepFault_given _ _ _ _ _ _ _ h1 h4]

theorem arrayStep_sound (hres : p.resid = planeResid p) : arrayStep t a none s =
    if classSteps (streamClass p st.raw) ≤ st.steps + 1 then
      enterStep t a st g p (streamDesc s t a st) (countStep t a p s)
    else modArray t a (fun x => { x with stream := some { st with steps := st.steps + 1 } }) (countStep t a p s) := by
  simp [arrayStep, h.stream, h.group, h.untripped, h.unreset, h.granted, h.going, hp, stepFault_sound _ _ _ _ _ hres]

end

end Sys2Proof.Machine

/-! ## Proofs: what an array step does -/

namespace Sys2Proof.Machine

open Sys2Proof

/-! ### What the count of a step leaves -/

theorem getObj_countStep_other {k a : Nat} (ha : a < 4) (hk : k < 2 ^ 24) (h1 : k / 256 ≠ 0x4004) (h2 : k / 256 ≠ 0x4005)
    (t u : Nat) (p : Plane) (s : State) : getObj (countStep t a p s) u k = getObj s u k := by
  obtain ⟨hlt, hidx, -, -⟩ := arrayCount_key (k := Obj.arraySteps) (by simp) ha
  obtain ⟨hlt', hidx', -, -⟩ := arrayCount_key (k := Obj.activeColumnSteps) (by simp) ha
  have hdict : (countStep t a p s).dict =
      (bump t (Obj.arraySteps + a) 1 (bump t (Obj.activeColumnSteps + a) p.n s)).dict := by rw [countStep_fields]
  refine (getObj_congr hdict u k).trans ?_
  rw [bump, getObj_setObj_index _ (by rw [hidx]; exact h1) hk hlt, bump,
    getObj_setObj_index _ (by rw [hidx']; exact h2) hk hlt']

theorem getObj_countStep_own {k a : Nat} (hk : k ∈ [Obj.residueFaults, Obj.abandonedGroups]) (ha : a < 4) (t : Nat)
    (p : Plane) (s : State) : getObj (countStep t a p s) t (k + a) = getObj s t (k + a) := by
  have hkeys : ∀ k ∈ [Obj.residueFaults, Obj.abandonedGroups], ∀ a < 4,
      k + a < 2 ^ 24 ∧ (k + a) / 256 ≠ 0x4004 ∧ (k + a) / 256 ≠ 0x4005 := by decide
  obtain ⟨hlt, h1, h2⟩ := hkeys k hk a ha
  exact getObj_countStep_other ha hlt h1 h2 t t p s

theorem sramErr_countStep {s : State} (h : s.sramErr = []) (t a : Nat) (p : Plane) : (countStep t a p s).sramErr = [] := by
  rw [countStep_fields]
  exact h

theorem slate_countStep (t a : Nat) (p : Plane) (s : State) : (countStep t a p s).slate = s.slate := by
  rw [countStep_fields]

theorem inkwell_countStep (t a : Nat) (p : Plane) (s : State) : (countStep t a p s).inkwell = s.inkwell := by
  rw [countStep_fields]

theorem rowBad_countStep (t a u r m : Nat) (p q : Plane) (s : State) :
    rowBad (countStep t a p s) u r m q = rowBad s u r m q := by
  rw [countStep_fields]
  rfl

theorem isTransient_countStep {a : Nat} (ha : a < 4) (t : Nat) (p : Plane) (s : State) (faults : List (Nat × Nat)) (key : Nat) :
    isTransient (countStep t a p s) t faults key = isTransient s t faults key := by
  have htime : (countStep t a p s).time = s.time := by rw [countStep_fields]
  simp only [isTransient, htime,
    getObj_countStep_other ha (show Obj.residueWindow < 2 ^ 24 by decide) (by decide) (by decide)]

/-! ### What is left of a row's inputs -/

theorem rowValues_congr {s s' : State} (h : s'.slate = s.slate) (t m : Nat) (p : Plane) (r : Nat) :
    rowValues s' t m p r = rowValues s t m p r := by
  simp only [rowValues, actCodes, slateNat_congr h]

theorem rowScales_congr {s s' : State} (h : s'.slate = s.slate) (t m : Nat) (p : Plane) (r : Nat) :
    rowScales s' t m p r = rowScales s t m p r := by
  simp only [rowScales, actScale, slateNat_congr h]

theorem initRow_congr {s s' : State} (h : s'.slate = s.slate) (t r : Nat) : initRow s' t r = initRow s t r := by
  simp only [initRow, slateNat_congr h]

/-! ### The row that a counted step enters -/

/-- What the row entered by a counted step leaves of the state, and of its group. -/
structure StepEntered (t a n : Nat) (g : Group) (s z : State) : Prop where
  counted : StepCounted s z t a n
  slate : z.slate = s.slate
  dram : z.dram = s.dram
  engine : z.engine = s.engine
  clean : z.sramErr = []
  group : ∃ g', (getArray z t a).group = some g' ∧ g'.fused = g.fused

section
variable {t a m r : Nat} {p : Plane} {g : Group} {s : State} (ha : a < 4) (hs : s.sramErr = [])
include ha hs

theorem stepEntered (hg : (getArray s t a).group = some g) :
    StepEntered t a p.n g s (rowEntered t a m p g r (countStep t a p s)) := by
  obtain ⟨hframe, hobjs, -, -, f, harray, hfused⟩ := rowEntered_spec (t := t) ha m p g r (sramErr_countStep hs t a p)
  refine ⟨(stepCounted_countStep ha t p s).kept ha hobjs, ?_, ?_, ?_, ?_, f g, ?_, hfused g⟩
  · rw [hframe, countStep_fields]
  · rw [hframe, countStep_fields]
  · rw [hframe, countStep_fields]
  · rw [hframe]
    exact sramErr_countStep hs t a p
  · rw [harray, getArray_countStep]
    exact congrArg (Option.map f) hg

theorem rowEntered_sums (hf : stFused r = false) {j : Nat} (hj : j < 128) :
    getInk (rowEntered t a m p g r (countStep t a p s)) t a (accRow r m) j = (accumulate g.int
      (if stInit r = 0 then getInk s t a (accRow r m) j else (initRow s t r).getD j 0)
      (colSumOf p (actFmt r) (rowValues s t m p r) (rowScales s t m p r) j)).1 := by
  have hslate := slate_countStep t a p s
  rw [(rowEntered_spec ha m p g r (sramErr_countStep hs t a p)).ink j hj, getD_rowSums (sramErr_countStep hs t a p) hf hj,
    rowValues_congr hslate, rowScales_congr hslate, initRow_congr hslate, getInk, inkwell_countStep, getInk]

theorem rowEntered_other (hf : stFused r = false) {k : Nat} (hk : ∀ q ∈ rowsWritten r m, ¬ inRow t a q k) :
    fget 0 (rowEntered t a m p g r (countStep t a p s)).inkwell k = fget 0 s.inkwell k := by
  rw [(rowEntered_spec ha m p g r (sramErr_countStep hs t a p)).other k (hk _ (accRow_mem_rowsWritten m hf)),
    fget_openRowInit_other (sramErr_countStep hs t a p) hk, inkwell_countStep]

end

/-! ### A lasting mismatch (R167, R169) -/

theorem Calm.groupObjs {K : Nat → Bool} {s s' : State} (h : Calm K s s') (hK : ∀ k, groupKey k = false → K k = false) :
    GroupObjs s s' := fun u k hk hg hs => h.objs u k hk (hK k hg) hs

/-- The array is fenced and its group abandoned, each counted; LastResidueFault names the mismatch. -/
theorem arrayFault_fences {t a point col : Nat} {cur : Desc} {g : Group} {s r : State} (ha : a < 4)
    (hg : (getArray s t a).group = some g) (hlast : isTransient s t (getArray s t a).faults col = false)
    (hr : arrayFault t a (mismatch point col) cur s = r) :
    ((getArray r t a).fenced = true ∧ (getArray r t a).group = none ∧ (getArray r t a).stream = none) ∧
    getObj r t (Obj.residueFaults + a) = (getObj s t (Obj.residueFaults + a) + 1) % 2 ^ 32 ∧
    getObj r t (Obj.abandonedGroups + a) = (getObj s t (Obj.abandonedGroups + a) + 1) % 2 ^ 32 ∧
    getObj r t (Obj.lastResidueFault + a) = residueBits s point col ∧ GroupObjs s r ∧ SameMemory s r := by
  obtain ⟨hrlt, hridx, hrside, -⟩ := arrayCount_key (k := Obj.residueFaults) (by simp) ha
  obtain ⟨hllt, hlidx, hlside, -⟩ := arrayCount_key (k := Obj.lastResidueFault) (by simp) ha
  obtain ⟨halt, haidx, haside, -⟩ := arrayCount_key (k := Obj.abandonedGroups) (by simp) ha
  rw [arrayFault_lasting hg hlast] at hr
  obtain ⟨hfaults, hnamed, hnoted, hnarray⟩ := noteFault_mismatch (t := t) ha point col s
  generalize noteFault t a (mismatch point col) s = z at *
  have hgz : (getArray z t a).group = some g := by rw [hnarray]; exact hg
  have hfenced : Calm (fun _ => false) (abandonGroup t a z) r := by
    rw [← hr]
    exact (calm_updProg _ _ _ _ _).trans (calm_fenceArray _ _ _ _)
  have habandoned := (calm_abandonGroup ha hgz).trans (hfenced.mono fun _ _ => rfl)
  have harray : getArray r t a = { getArray z t a with group := none, stream := none, loads := [], fenced := true } := by
    rw [← hr, getArray_fenceArray, getArray_updProg, getArray_abandonGroup hgz]
  refine ⟨?_, ?_, ?_, ?_, ?_, hnoted.words.sameMemory.trans habandoned.words.sameMemory⟩
  · rw [harray]
    exact ⟨rfl, rfl, rfl⟩
  · rw [habandoned.objs t _ hrlt (by rw [hridx]; decide) hrside, hfaults]
  · rw [hfenced.objs t _ halt rfl haside, abandonedGroups_abandonGroup ha hgz,
      hnoted.objs t _ halt (by rw [haidx]; decide) haside]
  · rw [habandoned.objs t _ hllt (by rw [hlidx]; decide) hlside, hnamed]
  · exact (hnoted.groupObjs fun k hk => by simp_all [groupKey]).trans (habandoned.groupObjs fun k hk => by simp_all [groupKey])

@[simp] theorem getArray_endStream (t a st detail u b : Nat) (s : State) :
    getArray (endStream t a st detail s) u b = getArray s u b := rfl
@[simp] theorem getObj_endStream (t a st detail u k : Nat) (s : State) :
    getObj (endStream t a st detail s) u k = getObj s u k := rfl

/-! ### ARRAY_STEP, by what it leaves -/

section
variable {t a : Nat} {st : StreamRun} {g : Group} {p : Plane} {s r : State} (ha : a < 4) (h : Stepping s t a st g)
  (hp : planeOf (getArray s t a) st.planeB = p)
include ha h hp

theorem arrayStep_fences {point col : Nat} (h1 : 1 ≤ point) (h4 : point ≤ 4)
    (hlast : isTransient s t (getArray s t a).faults col = false) (hr : arrayStep t a (some (point, col)) s = r) :
    ((getArray r t a).fenced = true ∧ (getArray r t a).group = none ∧ (getArray r t a).stream = none) ∧
    getObj r t (Obj.residueFaults + a) = (getObj s t (Obj.residueFaults + a) + 1) % 2 ^ 32 ∧
    getObj r t (Obj.abandonedGroups + a) = (getObj s t (Obj.abandonedGroups + a) + 1) % 2 ^ 32 ∧
    getObj r t (Obj.lastResidueFault + a) = residueBits s point col ∧ StepCounted s r t a p.n ∧ SameMemory s r := by
  rw [arrayStep_faults h hp h1 h4] at hr
  have harray := getArray_countStep t a p s
  obtain ⟨hfenced, hfaults, hgroups, hnamed, hobjs, hmem⟩ := arrayFault_fences ha (by rw [harray]; exact h.group)
    (by rw [isTransient_countStep ha, harray]; exact hlast) hr
  rw [getObj_countStep_own (by simp) ha] at hfaults hgroups
  refine ⟨hfenced, hfaults, hgroups, hnamed.trans ?_, (stepCounted_countStep ha t p s).kept ha hobjs,
    (sameMemory_countStep t a p s).trans hmem⟩
  rw [countStep_fields]
  rfl

variable (hres : p.resid = planeResid p)
include hres

/-- A step before the last of its row. -/
theorem arrayStep_goes (hst : st.steps + 1 < classSteps (streamClass p st.raw)) (hr : arrayStep t a none s = r) :
    (getArray r t a).stream = some { st with steps := st.steps + 1 } ∧ (getArray r t a).group = some g ∧
    StepCounted s r t a p.n ∧ SameMemory s r := by
  rw [arrayStep_sound h hp hres, if_neg (by omega)] at hr
  have hcalm := calm_modArray (K := fun _ => false) t a (fun x => { x with stream := some { st with steps := st.steps + 1 } })
    (countStep t a p s)
  have harray : getArray r t a = { counted p (getArray s t a) with stream := some { st with steps := st.steps + 1 } } := by
    rw [← hr, getArray_modArray, getArray_countStep]
  rw [hr] at hcalm
  refine ⟨by rw [harray], ?_, (stepCounted_countStep ha t p s).kept ha (hcalm.groupObjs fun _ _ => rfl),
    (sameMemory_countStep t a p s).trans hcalm.words.sameMemory⟩
  rw [harray]
  exact h.group

variable (hs : s.sramErr = []) (hlast : classSteps (streamClass p st.raw) ≤ st.steps + 1)
include hs hlast

/-- The last step of a row with a bad input: the group is abandoned and its STREAM ends (R170). -/
theorem arrayStep_spoiled (hb : rowBad s t st.raw st.next p = true) (hr : arrayStep t a none s = r) :
    (getArray r t a).group = none ∧ (getArray r t a).stream = none ∧ SameMemory s r ∧ StepCounted s r t a p.n ∧
    getObj r t (Obj.abandonedGroups + a) = (getObj s t (Obj.abandonedGroups + a) + 1) % 2 ^ 32 := by
  rw [arrayStep_sound h hp hres, if_pos hlast,
    enterStep_bad (sramErr_countStep hs t a p) (by rw [rowBad_countStep]; exact hb)] at hr
  have hgroup : (getArray (countStep t a p s) t a).group = some g := by rw [getArray_countStep]; exact h.group
  have hcalm := calm_endStream_abandon (st := stUncorrectable) (detail := 0) ha hgroup
  have habandons := abandonedGroups_abandonGroup ha hgroup
  have harray := getArray_abandonGroup hgroup
  rw [hr] at hcalm
  rw [← getObj_endStream t a stUncorrectable 0, hr, getObj_countStep_own (by simp) ha] at habandons
  rw [← getArray_endStream t a stUncorrectable 0, hr] at harray
  refine ⟨by rw [harray], by rw [harray], (sameMemory_countStep t a p s).trans hcalm.words.sameMemory, ?_, habandons⟩
  exact (stepCounted_countStep ha t p s).kept ha (hcalm.groupObjs fun k hk => by simp_all [groupKey])

variable (hb : rowBad s t st.raw st.next p = false)
include hb

omit ha in
/-- The last step of a row, but for the end of its STREAM. -/
theorem arrayStep_enters : arrayStep t a none s =
    if st.next + 1 ≥ stM st.raw then
      finishStream t a (stM st.raw) (nextRow t a st (enterRow t a st.next p g st.raw (countStep t a p s)))
    else nextRow t a st (enterRow t a st.next p g st.raw (countStep t a p s)) := by
  rw [arrayStep_sound h hp hres, if_pos hlast,
    enterStep_enters (sramErr_countStep hs t a p) (by rw [rowBad_countStep]; exact hb)]

/-- Where the group is not fused the row's sums are added, and the STREAM goes on or ends (R154, R155, R159). -/
theorem arrayStep_accumulates (hg : g.fused = false) (hf : stFused st.raw = false) (hr : arrayStep t a none s = r) :
    (∀ j < 128, getInk r t a (accRow st.raw st.next) j = (accumulate g.int
      (if stInit st.raw = 0 then getInk s t a (accRow st.raw st.next) j else (initRow s t st.raw).getD j 0)
      (colSumOf p (actFmt st.raw) (rowValues s t st.next p st.raw) (rowScales s t st.next p st.raw) j)).1) ∧
    (∀ k, (∀ q ∈ rowsWritten st.raw st.next, ¬ inRow t a q k) → fget 0 r.inkwell k = fget 0 s.inkwell k) ∧
    (st.next + 1 < stM st.raw → (getArray r t a).stream = some { st with next := st.next + 1, steps := 0 }) ∧
    (stM st.raw ≤ st.next + 1 → (getArray r t a).stream = none ∧
      (getEngine r t a).prog = updFirst (fun d => dOp d.raw = 2 ∧ ¬ d.ended)
        (fun d => { d with ended := true, status := stOk, count := stM st.raw }) (getEngine s t a).prog) ∧
    StepCounted s r t a p.n ∧ r.slate = s.slate ∧ r.dram = s.dram := by
  have hsums := fun j hj => rowEntered_sums (t := t) (g := g) (m := st.next) (p := p) ha hs hf (j := j) hj
  have hother := fun k hk => rowEntered_other (t := t) (g := g) (m := st.next) (p := p) ha hs hf (k := k) hk
  obtain ⟨hcount, hslate, hdram, hengine, -, g', hgroup, hfused⟩ :=
    stepEntered (m := st.next) (p := p) (r := st.raw) ha hs h.group
  have henter : enterRow t a st.next p g st.raw (countStep t a p s) = rowEntered t a st.next p g st.raw (countStep t a p s) := by
    rw [enterRow_eq, if_neg (by rw [hg]; exact Bool.false_ne_true)]
  rw [arrayStep_enters h hp hres hs hlast hb, henter] at hr
  generalize rowEntered t a st.next p g st.raw (countStep t a p s) = z at *
  have hgroup' : (getArray (nextRow t a st z) t a).group = some g' := by rw [nextRow, getArray_modArray, hgroup]
  rw [finishStream_open hgroup' (hfused.trans hg)] at hr
  obtain ⟨hrink, hrslate, hrdram, hrdict⟩ : r.inkwell = z.inkwell ∧ r.slate = z.slate ∧ r.dram = z.dram ∧ r.dict = z.dict := by
    rw [← hr]
    split <;> dsimp only [streamEnded, updProg, modEngine, nextRow, modArray] <;> exact ⟨rfl, rfl, rfl, rfl⟩
  refine ⟨fun j hj => ?_, fun k hk => ?_, fun hmore => ?_, fun hdone => ?_, hcount.kept ha (groupObjs_of hrdict),
    hrslate.trans hslate, hrdram.trans hdram⟩
  · rw [getInk, hrink]
    exact hsums j hj
  · rw [hrink]
    exact hother k hk
  · rw [← hr, if_neg (by omega), nextRow, getArray_modArray]
  · rw [← hr, if_pos hdone]
    refine ⟨?_, ?_⟩
    · rw [streamEnded, getArray_updProg, getArray_modArray]
    · rw [streamEnded, updProg, getEngine_modEngine, getEngine_modArray, nextRow, getEngine_modArray, getEngine_congr hengine]

/-- Where the group is fused the row lies converted in the Slate (R159). -/
theorem arrayStep_converts (hg : g.fused = true) (hr : arrayStep t a none s = r) :
    slateNat r t (stDst st.raw + st.next * stDstStride st.raw) (rowBytes g.n (stOfmt st.raw) (stOscheme st.raw)) =
      (rowOutput r t a st.next g st.raw).1 % 2 ^ (8 * rowBytes g.n (stOfmt st.raw) (stOscheme st.raw)) ∧
    StepCounted s r t a p.n ∧ r.dram = s.dram := by
  obtain ⟨hcount, -, hdram, -, hclean, g', hgroup, hfused⟩ :=
    stepEntered (m := st.next) (p := p) (r := st.raw) ha hs h.group
  have henter : enterRow t a st.next p g st.raw (countStep t a p s) =
      fusedDrain t a st.next g st.raw (rowEntered t a st.next p g st.raw (countStep t a p s)) := by
    rw [enterRow_eq, if_pos hg]
  rw [arrayStep_enters h hp hres hs hlast hb, henter] at hr
  generalize rowEntered t a st.next p g st.raw (countStep t a p s) = z at *
  obtain ⟨hrow, hobjs, hink, hddram⟩ := fusedDrain_spec t a st.next g st.raw hclean
  have hgroup' : (getArray (nextRow t a st (fusedDrain t a st.next g st.raw z)) t a).group = some g' := by
    rw [nextRow, getArray_modArray, getArray_fusedDrain hclean, hgroup]
  obtain ⟨hfobjs, hfink, hfslate, hfdram⟩ := finishStream_fused_kept (m := stM st.raw) ha hgroup' (hfused.trans hg)
  obtain ⟨hrobjs, hrink, hrslate, hrdram⟩ : GroupObjs (fusedDrain t a st.next g st.raw z) r ∧ r.inkwell = z.inkwell ∧
      r.slate = (fusedDrain t a st.next g st.raw z).slate ∧ r.dram = z.dram := by
    generalize fusedDrain t a st.next g st.raw z = w at *
    rw [← hr]
    split
    · exact ⟨GroupObjs.trans (groupObjs_of rfl) hfobjs, hfink.trans hink, hfslate, hfdram.trans hddram⟩
    · exact ⟨groupObjs_of rfl, hink, rfl, hddram⟩
  refine ⟨?_, hcount.kept ha (hobjs.trans hrobjs), hrdram.trans hdram⟩
  rw [slateNat_congr hrslate, hrow, rowOutput_congr hrink]

end

end Sys2Proof.Machine

/-! ## Proofs: groups accumulate -/

namespace Sys2Proof.Machine

open Sys2Proof

/-! ### The command ARRAY_STEP -/

theorem answers_arrayStep {t : TileN} {a : ArrayN} {fault : Option (BitVec 8 × Fin 128)} {s : State} {P : State → Prop}
    (hP : ∀ r, arrayStep t.val a.val (fault.map (fun f => (f.1.toNat, f.2.val))) (fresh s) = r → P (sameTime s r)) :
    Answers (.arrayStep t a fault) s P := answers_run (exec_arrayStep t a fault s) (hP _ rfl)

theorem Stepping.fresh {s : State} {t a : Nat} {st : StreamRun} {g : Group} (h : Stepping s t a st g) :
    Stepping (fresh s) t a st g := ⟨h.stream, h.group, h.untripped, h.unreset, h.granted, h.going⟩

end Sys2Proof.Machine

/-! ## Proofs: mover channels read the Slate -/

namespace Sys2Proof.Machine

open Sys2Proof

/-! ### Address operands (Table 8.4) and the cuts of a transfer (R223) -/

theorem adSpace_adPlus (a n : Nat) : adSpace (adPlus a n) = adSpace a := by
  unfold adSpace adPlus bits
  generalize adLow a + n = z
  omega

theorem adLow_adPlus {a n : Nat} (h : adLow a + n < 2 ^ 40) : adLow (adPlus a n) = adLow a + n := by
  unfold adPlus
  generalize adLow a + n = z at *
  unfold adLow
  omega

/-- A request of the Slate goes to its end or to the next 2,048-byte boundary. -/
theorem requestLen_slate {s : State} {po : Option Nat} {addr n : Nat} (h : adSpace addr = 2) (hn : 0 < n) :
    requestLen s po addr n = min n (2048 - adLow addr % 2048) := by
  have hmax : requestMax s po addr = 2048 := by
    cases po with
    | none => rfl
    | some p => exact if_pos (.inl h)
  rw [requestLen, hmax]
  omega

/-! ### Ranges of the Slate -/

theorem slateNat_zero (s : State) (t off : Nat) : slateNat s t off 0 = 0 := rfl

/-- A range is its first bytes, then the rest. -/
theorem slateNat_add (s : State) (t off n k : Nat) :
    slateNat s t off (n + k) = slateNat s t off n + slateNat s t (off + n) k * 2 ^ (8 * n) := by
  induction n generalizing off with
  | zero => simp [slateNat_zero]
  | succ n ih =>
    rw [Nat.add_right_comm, slateNat_succ, slateNat_succ, ih, Nat.mul_succ, Nat.pow_add,
      show off + 1 + n = off + (n + 1) by omega]
    ring

/-- No part of a range without bad words has one. -/
theorem slateBad_part {s : State} {t off size : Nat} (h : slateBad s t off size = false) {lo n : Nat} (hle : lo + n ≤ size) :
    slateBad s t (off + lo) n = false := by
  simp only [slateBad, List.any_eq_false, List.mem_range] at h ⊢
  intro i hi
  have hword := h ((off + lo) / 8 + i - off / 8) (by omega)
  rwa [show t * 2 ^ 20 + off / 8 + ((off + lo) / 8 + i - off / 8) = t * 2 ^ 20 + (off + lo) / 8 + i by omega] at hword

/-! ### Descriptors in progress on a channel (R208) -/

theorem moverOf_div (e r : Nat) : moverOf e r / 2 = e := by
  unfold moverOf b2n
  split <;> omega

theorem moverOf_mod (e r : Nat) : moverOf e r % 2 = b2n (dMoverB r) := by
  unfold moverOf b2n
  split <;> omega

theorem moverOf_lt {e : Nat} (he : e < 6) (r : Nat) : moverOf e r < 12 := by
  unfold moverOf b2n
  split <;> omega

theorem updFirst_append {l : List Desc} {d : Desc} {p : Desc → Bool} (f : Desc → Desc) (hl : ∀ x ∈ l, p x = false)
    (hd : p d = true) : updFirst p f (l ++ [d]) = l ++ [f d] := by
  induction l with
  | nil => simp [updFirst, hd]
  | cons x l ih =>
    have hx := hl x (by simp)
    have hrest := ih fun z hz => hl z (by simp [hz])
    simp [updFirst, hx, hrest]

theorem find?_append_last {α : Type} {l : List α} {d : α} {p : α → Bool} (hl : ∀ x ∈ l, p x = false) :
    (l ++ [d]).find? p = if p d then some d else none := by
  have hnone : l.find? p = none := List.find?_eq_none.mpr fun x hx => by rw [hl x hx]; exact Bool.false_ne_true
  rw [List.find?_append, hnone, Option.none_or]
  by_cases h : p d = true <;> simp [h]

/-! ### Steps of the pump -/

theorem pumpLoop_next {step : State → Option State} {s s' : State} (h : step s = some s') (fuel : Nat) :
    pumpLoop step (fuel + 1) s = pumpLoop step fuel s' := by
  rw [pumpLoop, h]

theorem pumpLoop_rest {step : State → Option State} {s : State} (h : step s = none) (fuel : Nat) :
    pumpLoop step fuel s = s := by
  cases fuel with
  | zero => rfl
  | succ fuel => rw [pumpLoop, h]

end Sys2Proof.Machine

/-! ## Proofs: LOADW fills a plane -/

namespace Sys2Proof.Machine

open Sys2Proof

/-! ### The size of an image (R193) -/

theorem ceilDiv_le {a b c : Nat} (hb : 0 < b) (h : a ≤ b * c) : ceilDiv a b ≤ c := by
  rw [ceilDiv, if_neg (by omega)]
  exact Nat.le_of_lt_succ ((Nat.div_lt_iff_lt_mul hb).mpr (by rw [Nat.succ_mul, Nat.mul_comm c b]; omega))

theorem fmtBits_planeFmt_le {fmt : Nat} (h : fmt < 16) : fmtBits (planeFmt fmt) ≤ 32 :=
  (by decide : ∀ fmt < 16, fmtBits (planeFmt fmt) ≤ 32) fmt h

theorem imgBytes_le {k n fmt : Nat} (hk : k ≤ 256) (hn : n ≤ 128) (hf : fmt < 16) (scheme : Nat) :
    imgBytes k n fmt scheme ≤ 133152 := by
  have hrow : ceilDiv (n * fmtBits (planeFmt fmt)) 128 ≤ 32 :=
    ceilDiv_le (by decide) (Nat.mul_le_mul hn (fmtBits_planeFmt_le hf))
  have hstride : imgStride n fmt ≤ 512 := by
    unfold imgStride
    omega
  have hrows : k * imgStride n fmt ≤ 256 * 512 := Nat.mul_le_mul hk hstride
  have hscales : imgScales k n fmt ≤ 131072 := by
    have hceil : ceilDiv (k * imgStride n fmt) 32 ≤ 4096 := ceilDiv_le (by decide) (by omega)
    unfold imgScales
    omega
  have hblocks : ceilDiv k (blockSize scheme) ≤ 16 := by
    unfold blockSize
    split <;> exact ceilDiv_le (by decide) (by omega)
  have hbook : imgBook k n fmt scheme ≤ 133120 := by
    unfold imgBook
    split <;> omega
  unfold imgBytes
  split <;> omega

/-! ### A LOADW in progress on its channel (R157, R218) -/

/-- What a LOADW of fields `r` needs that is to read its whole image from the Slate on channel `m` of array `e`:
nothing else on the channel, no LOADW before it, a plane for it, and an image without bad words. -/
structure LoadClear (s : State) (t e m r : Nat) : Prop where
  op : dOp r = 1
  engine : m / 2 = e
  side : b2n (dMoverB r) = m % 2
  alone : ∀ x ∈ (getEngine s t e).prog, onChannel m x = false
  first : ∀ x ∈ (getEngine s t e).prog, dOp x.raw ≠ 1 ∨ x.ended = true
  plane : planesBusy (getArray s t e) = false
  running : moverShut s t = false
  source : adSpace (lwSrc r) = 2
  range : adLow (lwSrc r) + loadBytes r ≤ slateSize
  size : loadBytes r ≤ 133152
  clean : s.sramErr = []
  good : slateBad s t (adLow (lwSrc r)) (loadBytes r) = false

/-- The state `y` that a LOADW runs through, from the state `s` of its issue: its descriptor and the requests of its
channel. -/
structure Loads (s : State) (t e m : Nat) (rest : List Desc) (d : Desc) (ops : List MoverOp) (y : State) : Prop where
  ran : Ran s y t e rest d
  ops : (getMover y t m).ops = ops
  frame : y = { s with engine := y.engine, mover := y.mover, out := {} }

section
variable {s : State} {t e m : Nat} {rest : List Desc} {d : Desc} {ops : List MoverOp} {y : State}

theorem LoadClear.onChannel (hc : LoadClear s t e m d.raw) (hd : d.ended = false) : onChannel m d = true := by
  simp [Machine.onChannel, hc.op, hd, usesMover, hc.side]

theorem Loads.array (h : Loads s t e m rest d ops y) : y.array = s.array := by rw [h.frame]

theorem Loads.slate (h : Loads s t e m rest d ops y) : y.slate = s.slate := by rw [h.frame]

/-- The descriptor in progress is changed, on its channel. -/
theorem Ran.upd (h : Ran s y t e rest d) (hc : LoadClear s t e m d.raw) (hd : d.ended = false) (f : Desc → Desc) :
    Ran s (updProg t (m / 2) (Machine.onChannel m) f y) t e rest (f d) := by
  obtain ⟨hengine, hother⟩ := h
  rw [hc.engine]
  refine ⟨?_, fun k hk => (fget_engine_modEngine hk _ y).trans (hother k hk)⟩
  rw [updProg, getEngine_modEngine, hengine]
  dsimp only
  rw [updFirst_append f hc.alone (hc.onChannel hd)]

theorem Ran.congr {y' : State} (h : Ran s y t e rest d) (he : y'.engine = y.engine) : Ran s y' t e rest d := by
  rw [Ran, getEngine_congr he, he]
  exact h

theorem Loads.upd (h : Loads s t e m rest d ops y) (hc : LoadClear s t e m d.raw) (hd : d.ended = false) (f : Desc → Desc) :
    Loads s t e m rest (f d) ops (updProg t (m / 2) (Machine.onChannel m) f y) := by
  refine ⟨h.ran.upd hc hd f, h.ops, ?_⟩
  rw [h.frame]
  rfl

/-- The requests of the channel are changed. -/
theorem Loads.mod (h : Loads s t e m rest d ops y) (f : MoverS → MoverS) :
    Loads s t e m rest d (f (getMover y t m)).ops (modMover t m f y) := by
  refine ⟨h.ran, ?_, ?_⟩
  · rw [getMover_modMover]
  · rw [h.frame]
    rfl

theorem Loads.addOp (h : Loads s t e m rest d ops y) (o : MoverOp) :
    Loads s t e m rest d (ops ++ [{ o with tag := (getMover y t m).nextTag }]) (addOp t m o y) := by
  have hmod := h.mod (fun x => { ops := x.ops ++ [{ o with tag := x.nextTag }], nextTag := x.nextTag + 1 })
  rw [h.ops] at hmod
  exact hmod

/-- The one request of the channel is changed, by its tag. -/
theorem Loads.modOp {o : MoverOp} (h : Loads s t e m rest d [o] y) (f : MoverOp → MoverOp) :
    Loads s t e m rest d [f o] (modOp t m o.tag f y) := by
  have hmod := h.mod (fun x => { x with ops := x.ops.map (fun x => if x.tag = o.tag then f x else x) })
  simp only [h.ops, List.map_cons, List.map_nil, if_true] at hmod
  exact hmod

/-- The one request of the channel is done with. -/
theorem Loads.dropOp {o : MoverOp} (h : Loads s t e m rest d [o] y) :
    Loads s t e m rest d [] (dropOps t m (fun x => decide (x.tag = o.tag)) y) := by
  have hmod := h.mod (fun x => { x with ops := x.ops.filter (fun x => !decide (x.tag = o.tag)) })
  simp only [h.ops, List.filter_cons, decide_true, Bool.not_true, Bool.false_eq_true, if_false, List.filter_nil] at hmod
  exact hmod

/-! ### The steps of a LOADW -/

theorem Ran.prog (h : Ran s y t e rest d) : (getEngine y t e).prog = (getEngine s t e).prog ++ [d] := by
  rw [h.1]

theorem Ran.transfer (h : Ran s y t e rest d) (hc : LoadClear s t e m d.raw) :
    transferOf y t m = if d.ended then none else some d := by
  rw [transferOf, hc.engine, h.prog, find?_append_last hc.alone]
  cases hd : d.ended
  · rw [if_pos (hc.onChannel hd)]
    rfl
  · simp [Machine.onChannel, hd]

theorem Loads.takes (h : Loads s t e m rest d ops y) (hc : LoadClear s t e m d.raw) (hd : d.ended = false) :
    takesLoad y t e d = true := by
  have hfirst : firstLoad y t e = some d := by
    rw [firstLoad, h.ran.prog, find?_append_last fun x hx => by simpa [imp_iff_not_or] using hc.first x hx]
    exact if_pos (by simp [hc.op, hd])
  rw [takesLoad, hfirst, getArray_congr h.array, hc.plane]
  simp

theorem Loads.transferOps (h : Loads s t e m rest d ops y) : transferOps y t m = ops.filter opTransfer := by
  rw [Machine.transferOps, h.ops]

/-- The array begins to take the data of the LOADW (R158). -/
theorem loadStep_begins (h : Loads s t e m rest d ops y) (hc : LoadClear s t e m d.raw) (hd : d.ended = false)
    (htaking : d.taking = false) :
    loadStep t m y = some (updProg t (m / 2) (onChannel m) (fun d => { d with taking := true }) y) := by
  simp [loadStep, h.ran.transfer hc, hd, hc.op, htaking, hc.engine, h.takes hc hd]

section
variable (h : Loads s t e m rest d ops y) (hc : LoadClear s t e m d.raw) (hd : d.ended = false) (htaking : d.taking = true)
include h hc hd htaking

/-- With no data of a request there, a request is sent or made, or the LOADW ends. -/
theorem loadStep_sends (hops : ∀ o ∈ ops, opTransfer o = true ∧ opDone o = false) :
    loadStep t m y = loadStep.loadSend t m y d ops := by
  have hfilter : ops.filter opTransfer = ops := List.filter_eq_self.mpr fun o ho => (hops o ho).1
  have hhead : ops.head?.filter opDone = none := by
    rw [Option.filter_eq_none_iff]
    intro o ho
    simp [(hops o (List.mem_of_mem_head? ho)).2]
  have hfind : ops.find? (fun o => opDone o && !o.staged && o.stage.isSome) = none :=
    List.find?_eq_none.mpr fun o ho => by simp [(hops o ho).2]
  simp [loadStep, h.ran.transfer hc, hd, hc.op, htaking, h.transferOps, hfilter, hhead, hfind]

/-- Data of a request that are there are taken. -/
theorem loadStep_takes {o : MoverOp} (hops : ops = [o]) (ho : opTransfer o = true) (hdone : opDone o = true)
    (hcut : d.cut = 0) : loadStep t m y = some (takeLoad t m o y) := by
  subst hops
  simp [loadStep, h.ran.transfer hc, hd, hc.op, htaking, h.transferOps, ho, Option.filter_some_pos hdone, hcut]

end

/-- A LOADW that ended is no longer on its channel. -/
theorem loadStep_ended (h : Ran s y t e rest d) (hc : LoadClear s t e m d.raw) (hd : d.ended = true) :
    loadStep t m y = none := by
  simp [loadStep, h.transfer hc, hd]

/-- No LOADW is on the engine's other channel. -/
theorem loadStep_other {m' : Nat} (h : Ran s y t e rest d) (hc : LoadClear s t e m d.raw) (he : m' / 2 = e)
    (hm : m' % 2 ≠ m % 2) : loadStep t m' y = none := by
  have hop : ∀ x, transferOf y t m' = some x → dOp x.raw ≠ 1 := by
    intro x hx
    rw [transferOf, he, h.prog] at hx
    have hon := List.find?_some hx
    simp only [Machine.onChannel, Bool.and_eq_true, Bool.not_eq_true', decide_eq_true_eq] at hon
    obtain ⟨⟨-, hended⟩, hside⟩ := hon
    rcases List.mem_append.mp (List.mem_of_find?_eq_some hx) with hold | hnew
    · exact (hc.first x hold).resolve_right (by rw [hended]; exact Bool.false_ne_true)
    · rw [List.mem_singleton.mp hnew, hc.side] at hside
      exact absurd hside.symm hm
  unfold loadStep
  split
  · rfl
  · next x hx => exact if_pos (hop x hx)

/-! ### A request that reads the Slate (R152, R217) -/

theorem Loads.canSend (h : Loads s t e m rest d ops y) {r : Nat} (hc : LoadClear s t e m r) {o : MoverOp}
    (ho : adSpace o.addr = 2) : canSend y t m o = true := by
  have hshut : moverShut y t = moverShut s t := by
    rw [h.frame]
    rfl
  rw [Machine.canSend, hshut, hc.running]
  simp [ho]

theorem sendStep_one {o : MoverOp} (hops : (getMover y t m).ops = [o]) (ho : opTransfer o = true) (hat : o.at_ = .unsent)
    (huse : (o.use == .dst) = false) (hcan : canSend y t m o = true) : sendStep t m y = some (sendTransfer t m o y) := by
  simp [sendStep, hops, outstanding, opOut, opRetry, opUnsent, ho, hat, huse, Option.filter_some_pos hcan]

/-- What the Slate answers to a read of good words. -/
def slateReply (s : State) (t : Nat) (o : MoverOp) : Reply :=
  { tag := o.tag, status := stOk, write := false, data := slateNat s t (adLow o.addr) o.len
    pois := slatePoisMask s t (adLow o.addr) o.len }

/-- A request on its way. -/
def opSent (t m : Nat) (o : MoverOp) (s : State) : State :=
  modOp t m o.tag (fun o => { o with at_ := .out, sends := o.sends + 1 }) s

theorem sendOp_slate {o : MoverOp} (huse : o.use ≠ .barrier) (hspace : adSpace o.addr = 2) (hw : o.write = false)
    (h : Loads s t e m rest d ops y) (hs : s.sramErr = []) (hgood : slateBad s t (adLow o.addr) o.len = false) :
    sendOp t m o y = (some (slateReply s t o), opSent t m o y) := by
  have hfields : ∃ M, opSent t m o y = { s with engine := y.engine, mover := M, out := {} } := by
    rw [h.frame]
    exact ⟨_, rfl⟩
  have hop : slateOp t o (opSent t m o y) = (slateReply s t o, opSent t m o y) := by
    obtain ⟨M, hM⟩ := hfields
    have hclean : (opSent t m o y).sramErr = [] := by rw [hM]; exact hs
    have hstatus : slateStatus (opSent t m o y) t (adLow o.addr) o.len = stOk := by
      refine slateStatus_clean hclean ?_
      rw [hM]
      exact hgood
    rw [slateOp, hw, if_neg Bool.false_ne_true, hstatus, slateScrub_clean hclean, hM]
    rfl
  rw [sendOp, if_neg huse, if_pos hspace]
  change (some (slateOp t o (opSent t m o y)).1, (slateOp t o (opSent t m o y)).2) = _
  rw [hop]

/-- A request that has its response. -/
def answered (x : Reply) (o : MoverOp) : MoverOp :=
  { o with at_ := .done stOk, data := if o.write then o.data else x.data, pois := if o.write then o.pois else x.pois }

theorem takeOp_ok {x : Reply} (hst : x.status = stOk) (y : State) : takeOp t m x y = modOp t m x.tag (answered x) y := by
  have hretry : ¬ stOk = stRetry := by decide
  simp only [takeOp, hst, hretry, false_and, if_false]
  rfl

/-- A response with OK reaches its request. -/
theorem Loads.arrive {o : MoverOp} (h : Loads s t e m rest d [o] y) (hc : LoadClear s t e m d.raw) (hd : d.ended = false)
    {x : Reply} (o' : MoverOp) (htag : x.tag = o.tag) (hst : x.status = stOk) :
    Loads s t e m rest { d with filled := d.filled || x.fill } [answered x o] (arriveTransfer t m o' x y) := by
  have hup := (h.modOp (answered x)).upd hc hd (fun d' => { d' with filled := d'.filled || x.fill })
  have heq : arriveTransfer t m o' x y = updProg t (m / 2) (Machine.onChannel m)
      (fun d' => { d' with filled := d'.filled || x.fill }) (Machine.modOp t m o.tag (answered x) y) := by
    rw [arriveTransfer, takeOp_ok hst, htag, hup.ops, List.find?_cons_of_pos (by simp [answered])]
    exact if_pos (.inr rfl)
  rw [heq]
  exact hup

/-! ### The requests of a LOADW, one at a time -/

/-- Bytes of the request made `off` bytes into the image. -/
def loadChunk (r off : Nat) : Nat := min (loadBytes r - off) (2048 - (adLow (lwSrc r) + off) % 2048)

/-- That request, before it leaves. -/
def loadOp (r off tag : Nat) : MoverOp :=
  { tag := tag, use := .src, off := off, addr := adPlus (lwSrc r) off, len := loadChunk r off, pass := dPass r, detail := off }

/-- It as its data are there (R217). -/
def loadOpDone (s : State) (t r off tag : Nat) : MoverOp :=
  { loadOp r off tag with
    at_ := .done stOk, sends := 1, data := slateNat s t (adLow (lwSrc r) + off) (loadChunk r off)
    pois := slatePoisMask s t (adLow (lwSrc r) + off) (loadChunk r off) }

/-- The LOADW of which the array takes data: requests for `off` bytes of its image are made, and `got` bytes taken. -/
def loading (s : State) (t : Nat) (d : Desc) (off got : Nat) : Desc :=
  { idx := d.idx, raw := d.raw, qaddr := d.qaddr, start := s.time.elapsed, startTb := s.time.timeBase, started := true
    taking := true, off := off, data := slateNat s t (adLow (lwSrc d.raw)) got }

theorem loadChunk_le {r off : Nat} (h : off ≤ loadBytes r) : off + loadChunk r off ≤ loadBytes r := by
  unfold loadChunk
  omega

theorem LoadClear.adLow {r off : Nat} (hc : LoadClear s t e m r) (h : off ≤ loadBytes r) :
    Machine.adLow (adPlus (lwSrc r) off) = Machine.adLow (lwSrc r) + off := by
  have hrange := hc.range
  refine adLow_adPlus ?_
  unfold slateSize at hrange
  omega

section
variable {off : Nat} (hc : LoadClear s t e m d.raw) (hoff : off < loadBytes d.raw)
include hc hoff

theorem nextLoad_loading (h : Loads s t e m rest (loading s t d off off) [] y) :
    nextLoad y t m (loading s t d off off) = some (loadOp d.raw off 0, loadChunk d.raw off) := by
  have hlen : requestLen y (dPass d.raw) (adPlus (lwSrc d.raw) off) (loadBytes d.raw - off) = loadChunk d.raw off := by
    rw [requestLen_slate ((adSpace_adPlus _ _).trans hc.source) (by omega), hc.adLow (by omega), loadChunk]
  simp only [nextLoad, outstanding, h.ops, loading, hlen, List.filter_nil, List.length_nil]
  rw [if_neg (by simp; omega)]
  rfl

/-- A request is made (R223). -/
theorem loading_makes (h : Loads s t e m rest (loading s t d off off) [] y) : ∃ y' tag, loadStep t m y = some y' ∧
    Loads s t e m rest (loading s t d (off + loadChunk d.raw off) off) [loadOp d.raw off tag] y' := by
  have hidle : sendStep t m y = none := by simp [sendStep, h.ops, outstanding]
  refine ⟨_, (getMover y t m).nextTag, ?_, (h.upd hc rfl (fun d' => { d' with off := d'.off + loadChunk d.raw off })).addOp
    (loadOp d.raw off 0)⟩
  rw [loadStep_sends h hc rfl rfl (by simp), loadStep.loadSend, hidle, nextLoad_loading hc hoff h]

/-- It leaves, and its data are there at once (R152, R217). -/
theorem loading_sends {tag : Nat}
    (h : Loads s t e m rest (loading s t d (off + loadChunk d.raw off) off) [loadOp d.raw off tag] y) :
    ∃ y', loadStep t m y = some y' ∧
      Loads s t e m rest (loading s t d (off + loadChunk d.raw off) off) [loadOpDone s t d.raw off tag] y' := by
  have hspace : adSpace (adPlus (lwSrc d.raw) off) = 2 := (adSpace_adPlus _ _).trans hc.source
  have hgood := slateBad_part hc.good (loadChunk_le (r := d.raw) (Nat.le_of_lt hoff))
  rw [← hc.adLow (Nat.le_of_lt hoff)] at hgood
  have hstep : sendStep t m y = some (sendTransfer t m (loadOp d.raw off tag) y) :=
    sendStep_one h.ops rfl rfl rfl (h.canSend hc hspace)
  have hsend : sendTransfer t m (loadOp d.raw off tag) y = arriveTransfer t m (loadOp d.raw off tag)
      (slateReply s t (loadOp d.raw off tag)) (opSent t m (loadOp d.raw off tag) y) := by
    rw [sendTransfer, sendOp_slate (by simp [loadOp]) hspace rfl h hc.clean hgood]
  have hout := h.modOp (fun o => { o with at_ := .out, sends := o.sends + 1 })
  refine ⟨_, by rw [loadStep_sends h hc rfl rfl (by simp [loadOp, opTransfer, opDone]), loadStep.loadSend, hstep], ?_⟩
  have harrived := hout.arrive hc rfl (x := slateReply s t (loadOp d.raw off tag)) (loadOp d.raw off tag) rfl rfl
  rw [hsend]
  unfold loadOpDone
  rw [← hc.adLow (Nat.le_of_lt hoff)]
  exact harrived

omit hoff in
/-- Its data are taken (R157). -/
theorem loading_takes {tag : Nat}
    (h : Loads s t e m rest (loading s t d (off + loadChunk d.raw off) off) [loadOpDone s t d.raw off tag] y) :
    ∃ y', loadStep t m y = some y' ∧
      Loads s t e m rest (loading s t d (off + loadChunk d.raw off) (off + loadChunk d.raw off)) [] y' := by
  refine ⟨_, loadStep_takes h hc rfl rfl rfl rfl rfl rfl, ?_⟩
  have htaken := (h.upd hc rfl (fun d' => { d' with
    data := d'.data + (loadOpDone s t d.raw off tag).data * 2 ^ (8 * off)
    cut := if badData (opStatus (loadOpDone s t d.raw off tag)) then max 1 d'.cut else d'.cut })).dropOp
  rw [loading, slateNat_add]
  exact htaken

end

/-! ### The pump runs a LOADW to its end -/

/-- A request is made, sent and taken in three steps. -/
theorem pump_chunk {off : Nat} (hc : LoadClear s t e m d.raw) (hoff : off < loadBytes d.raw)
    (h : Loads s t e m rest (loading s t d off off) [] y) (fuel : Nat) :
    ∃ y', pumpLoop (loadStep t m) (fuel + 3) y = pumpLoop (loadStep t m) fuel y' ∧
      Loads s t e m rest (loading s t d (off + loadChunk d.raw off) (off + loadChunk d.raw off)) [] y' := by
  obtain ⟨y1, tag, hmake, h1⟩ := loading_makes hc hoff h
  obtain ⟨y2, hsend, h2⟩ := loading_sends hc hoff h1
  obtain ⟨y3, htake, h3⟩ := loading_takes hc h2
  exact ⟨y3, by rw [pumpLoop_next hmake, pumpLoop_next hsend, pumpLoop_next htake], h3⟩

/-- One round for each 2,048-byte block of the image that is left. -/
theorem pump_image (hc : LoadClear s t e m d.raw) (k fuel off : Nat) {y : State} (hoff : off ≤ loadBytes d.raw)
    (hk : off < loadBytes d.raw →
      (adLow (lwSrc d.raw) + loadBytes d.raw + 2047) / 2048 - (adLow (lwSrc d.raw) + off) / 2048 ≤ k)
    (h : Loads s t e m rest (loading s t d off off) [] y) :
    ∃ fuel' y', fuel ≤ fuel' ∧ pumpLoop (loadStep t m) (fuel + 3 * k) y = pumpLoop (loadStep t m) fuel' y' ∧
      Loads s t e m rest (loading s t d (loadBytes d.raw) (loadBytes d.raw)) [] y' := by
  induction k generalizing off y with
  | zero =>
    have hend : off = loadBytes d.raw := by omega
    subst hend
    exact ⟨fuel, y, le_rfl, rfl, h⟩
  | succ k ih =>
    rcases Nat.lt_or_ge off (loadBytes d.raw) with hlt | hge
    · obtain ⟨y', hpump, h'⟩ := pump_chunk hc hlt h (fuel + 3 * k)
      rw [Nat.mul_succ, ← Nat.add_assoc, hpump]
      refine ih _ (loadChunk_le hoff) (fun hmore => ?_) h'
      have hblocks := hk hlt
      unfold loadChunk at hmore ⊢
      omega
    · have hend : off = loadBytes d.raw := by omega
      subst hend
      exact ⟨fuel + 3 * (k + 1), y, by omega, rfl, h⟩

/-- With its image whole, the LOADW ends. -/
theorem loading_ends (hc : LoadClear s t e m d.raw)
    (h : Loads s t e m rest (loading s t d (loadBytes d.raw) (loadBytes d.raw)) [] y) :
    loadStep t m y = some (fillPlane t m (loading s t d (loadBytes d.raw) (loadBytes d.raw)) y) := by
  have hidle : sendStep t m y = none := by simp [sendStep, h.ops, outstanding]
  have hnext : nextLoad y t m (loading s t d (loadBytes d.raw) (loadBytes d.raw)) = none := by
    simp [nextLoad, loading]
  have hend : endLoad t m (loading s t d (loadBytes d.raw) (loadBytes d.raw)) y =
      fillPlane t m (loading s t d (loadBytes d.raw) (loadBytes d.raw)) y := by
    rw [endLoad, if_neg (by simp [loading]), if_neg (by simp [loading, badData])]
  rw [loadStep_sends h hc rfl rfl (by simp), loadStep.loadSend, hidle, hnext, ← hend]
  exact if_pos ⟨rfl, .inr le_rfl, .inl rfl⟩

/-- The LOADW as its plane is filled. -/
def loadEnded (s : State) (t : Nat) (d : Desc) : Desc :=
  { loading s t d (loadBytes d.raw) (loadBytes d.raw) with count := loadBytes d.raw, ended := true, data := 0, bad := 0 }

/-- The array as its plane is filled (R157). -/
def filledArray (s : State) (t e : Nat) (d : Desc) : ArrayS :=
  let x := getArray s t e
  putPlane (idlePlane x) (planeFrom d.raw (slateNat s t (adLow (lwSrc d.raw)) (loadBytes d.raw))) { x with
    lastB := idlePlane x, badLoad := false
    loads := x.loads ++ [afresh (loading s t d (loadBytes d.raw) (loadBytes d.raw))] }

/-- What a LOADW leaves that filled its plane. -/
structure Filled (s : State) (t e m : Nat) (rest : List Desc) (d : Desc) (y : State) : Prop where
  ran : Ran s y t e rest (loadEnded s t d)
  array : getArray y t e = filledArray s t e d
  moved : getObj y t (Obj.moverBytes + m) = (getObj s t (Obj.moverBytes + m) + loadBytes d.raw) % 2 ^ 64
  objs : OtherObjects s y [(t, Obj.moverBytes + m), (t, Obj.codebookLoads), (t, Obj.blockScaleNaN)]
  ops : (getMover y t m).ops = []
  frame : y = { s with
    engine := y.engine, array := y.array, mover := y.mover, dict := y.dict, count := y.count, out := {} }

/-- The count of bytes of a mover channel stays in its object. -/
theorem moverBytes_key (hm : m < 12) : Obj.moverBytes + m < 2 ^ 24 ∧ objBits (Obj.moverBytes + m) = 64 ∧
    (Obj.moverBytes + m) / 256 = 0x4323 :=
  (by decide : ∀ m < 12, Obj.moverBytes + m < 2 ^ 24 ∧ objBits (Obj.moverBytes + m) = 64 ∧
    (Obj.moverBytes + m) / 256 = 0x4323) m hm

theorem modArray_eq (t a : Nat) (f : ArrayS → ArrayS) (s : State) :
    modArray t a f s = modArray t a (fun _ => f (getArray s t a)) s := rfl

/-- The array takes the plane of a LOADW; the codebook of one is counted (R205). -/
def planeTaken (s : State) (t e : Nat) (d : Desc) (y : State) : State :=
  let y1 := modArray t e (fun _ => filledArray s t e d) y
  if isBook (lwFmt d.raw) then bump t Obj.codebookLoads 1 y1 else y1

theorem planeTaken_spec (s : State) (t e : Nat) (d : Desc) (y : State) :
    OtherObjects y (planeTaken s t e d y) [(t, Obj.codebookLoads)] ∧
    getArray (planeTaken s t e d y) t e = filledArray s t e d ∧
    planeTaken s t e d y = { y with array := (planeTaken s t e d y).array, dict := (planeTaken s t e d y).dict } := by
  unfold planeTaken
  dsimp only
  split
  · exact ⟨otherObjects_set rfl (by decide), by rw [getArray_bump, getArray_modArray], rfl⟩
  · exact ⟨otherObjects_none rfl _, getArray_modArray _ _ _ _, rfl⟩

theorem fillPlane_eq (hc : LoadClear s t e m d.raw)
    (hbook : isBook (lwFmt d.raw) = true → bookOk (bookSection (slateNat s t (adLow (lwSrc d.raw)) (loadBytes d.raw))
      (lwK d.raw) (lwN d.raw) (lwFmt d.raw) (lwScheme d.raw)) = true)
    (h : Loads s t e m rest (loading s t d (loadBytes d.raw) (loadBytes d.raw)) [] y) :
    fillPlane t m (loading s t d (loadBytes d.raw) (loadBytes d.raw)) y =
      bump t Obj.blockScaleNaN (nanScales (planeFrom d.raw (slateNat s t (adLow (lwSrc d.raw)) (loadBytes d.raw))))
        (countEv t 0x0031 m (loadBytes d.raw) (bump t (Obj.moverBytes + m) (loadBytes d.raw)
          (endTransfer t m (fun d' => { d' with count := loadBytes d.raw }) (planeTaken s t e d y)))) := by
  have hx : getArray y t (m / 2) = getArray s t e := by rw [hc.engine, getArray_congr h.array]
  have hgood : ¬ (isBook (lwFmt d.raw) = true ∧ ¬ bookOk (bookSection (slateNat s t (adLow (lwSrc d.raw)) (loadBytes d.raw))
      (lwK d.raw) (lwN d.raw) (lwFmt d.raw) (lwScheme d.raw)) = true) := fun hbad => hbad.2 (hbook hbad.1)
  have hraw : (loading s t d (loadBytes d.raw) (loadBytes d.raw)).raw = d.raw := rfl
  have hdata : (loading s t d (loadBytes d.raw) (loadBytes d.raw)).data =
    slateNat s t (adLow (lwSrc d.raw)) (loadBytes d.raw) := rfl
  rw [fillPlane]
  dsimp only
  rw [hx, hraw, hdata, if_neg hgood, modArray_eq, hx, hc.engine]
  rfl

theorem filled_fillPlane (hc : LoadClear s t e m d.raw) (hm : m < 12)
    (hbook : isBook (lwFmt d.raw) = true → bookOk (bookSection (slateNat s t (adLow (lwSrc d.raw)) (loadBytes d.raw))
      (lwK d.raw) (lwN d.raw) (lwFmt d.raw) (lwScheme d.raw)) = true)
    (h : Loads s t e m rest (loading s t d (loadBytes d.raw) (loadBytes d.raw)) [] y) :
    Filled s t e m rest d (fillPlane t m (loading s t d (loadBytes d.raw) (loadBytes d.raw)) y) := by
  rw [fillPlane_eq hc hbook h]
  obtain ⟨hobjs, harray, hframe⟩ := planeTaken_spec s t e d y
  generalize planeTaken s t e d y = z at *
  obtain ⟨hlt, hbits, hidx⟩ := moverBytes_key hm
  have hran : Ran s (endTransfer t m (fun d' => { d' with count := loadBytes d.raw }) z) t e rest (loadEnded s t d) :=
    (h.ran.congr (by rw [hframe])).upd hc rfl _
  have hwhole : endTransfer t m (fun d' => { d' with count := loadBytes d.raw }) z = { s with
      engine := (endTransfer t m (fun d' => { d' with count := loadBytes d.raw }) z).engine, array := z.array
      mover := y.mover, dict := z.dict, out := {} } := by
    rw [endTransfer, updProg, modEngine, hframe, h.frame]
  generalize endTransfer t m (fun d' => { d' with count := loadBytes d.raw }) z = w at *
  have hdict : w.dict = z.dict := by rw [hwhole]
  have hydict : y.dict = s.dict := by rw [h.frame]
  have hplane : OtherObjects s w [(t, Obj.codebookLoads)] := fun u k hk hn =>
    ((getObj_congr hdict u k).trans (hobjs u k hk hn)).trans (getObj_congr hydict u k)
  generalize hv : bump t (Obj.moverBytes + m) (loadBytes d.raw) w = v
  have hmove : OtherObjects w v [(t, Obj.moverBytes + m)] := otherObjects_set (by rw [← hv]; rfl) hlt
  have hbytes : getObj v t (Obj.moverBytes + m) = (getObj w t (Obj.moverBytes + m) + loadBytes d.raw) % 2 ^ 64 := by
    rw [← hv, bump, getObj_setObj_same, hbits]
  have hvframe : v = { w with dict := v.dict } := by rw [← hv]; rfl
  rw [countEv_fields]
  have hnan : OtherObjects v (bump t Obj.blockScaleNaN
      (nanScales (planeFrom d.raw (slateNat s t (adLow (lwSrc d.raw)) (loadBytes d.raw))))
      { v with count := (countEv t 0x0031 m (loadBytes d.raw) v).count }) [(t, Obj.blockScaleNaN)] :=
    otherObjects_set rfl (by decide)
  have hn1 : (t, Obj.moverBytes + m) ∉ [(t, Obj.blockScaleNaN)] := by
    simp only [List.mem_singleton, Prod.mk.injEq, true_and]
    intro heq
    rw [heq] at hidx
    exact absurd hidx (by decide)
  have hn2 : (t, Obj.moverBytes + m) ∉ [(t, Obj.codebookLoads)] := by
    simp only [List.mem_singleton, Prod.mk.injEq, true_and]
    intro heq
    rw [heq] at hidx
    exact absurd hidx (by decide)
  refine ⟨hran.congr ?_, ?_, ?_, ((hplane.mono (by simp)).trans (hmove.mono (by simp))).trans (hnan.mono (by simp)), ?_, ?_⟩
  · change v.engine = w.engine
    rw [hvframe]
  · refine (getArray_bump _ _ _ _ _ _).trans ((getArray_congr (s := z) ?_ t e).trans harray)
    change v.array = z.array
    rw [hvframe, hwhole]
  · rw [hnan t _ hlt hn1, hbytes, hplane t _ hlt hn2]
  · refine (congrArg MoverS.ops (getMover_congr (s := y) ?_ t m)).trans h.ops
    change v.mover = y.mover
    rw [hvframe, hwhole]
  · rw [hvframe, hwhole]
    rfl

/-- The pump of its channel runs a LOADW to its end. -/
theorem pump_load (hc : LoadClear s t e m d.raw) (hm : m < 12)
    (hbook : isBook (lwFmt d.raw) = true → bookOk (bookSection (slateNat s t (adLow (lwSrc d.raw)) (loadBytes d.raw))
      (lwK d.raw) (lwN d.raw) (lwFmt d.raw) (lwScheme d.raw)) = true)
    {d0 : Desc} (h0 : { d0 with taking := true } = loading s t d 0 0) (hraw : d0.raw = d.raw) (hended : d0.ended = false)
    (htaking : d0.taking = false) (h : Loads s t e m rest d0 [] y) :
    Filled s t e m rest d (pumpLoop (loadStep t m) 4096 y) := by
  rw [← hraw] at hc
  have hbegins := loadStep_begins h hc hended htaking
  have hbegun := h.upd hc hended (fun d => { d with taking := true })
  rw [hraw] at hc
  rw [h0] at hbegun
  have hblocks : (adLow (lwSrc d.raw) + loadBytes d.raw + 2047) / 2048 - (adLow (lwSrc d.raw) + 0) / 2048 ≤ 70 := by
    have hsize := hc.size
    omega
  obtain ⟨fuel, y', hfuel, hpump, hwhole⟩ := pump_image hc 70 3885 0 (Nat.zero_le _) (fun _ => hblocks) hbegun
  have hfilled := filled_fillPlane hc hm hbook hwhole
  obtain ⟨n, rfl⟩ := Nat.exists_eq_add_of_le' (show 1 ≤ fuel by omega)
  have hrest := loadStep_ended hfilled.ran hc rfl
  rw [pumpLoop_next hbegins, show (4095 : Nat) = 3885 + 3 * 70 by rfl, hpump, pumpLoop_next (loading_ends hc hwhole),
    pumpLoop_rest hrest]
  exact hfilled

end

end Sys2Proof.Machine

/-! ## Proofs: LOADW from its issue to its plane -/

namespace Sys2Proof.Machine

open Sys2Proof

/-! ### What the issue of a descriptor says (R213, R216) -/

section
variable {s : State} {t e : Nat} {d : Desc}

/-- Nothing is in progress on the mover channel of a descriptor that may be issued. -/
theorem channelFree_of_canIssue (h : canIssue s t e d = true) (hop : usesMover (dOp d.raw) = true) :
    ∀ x ∈ (getEngine s t e).prog, onChannel (moverOf e d.raw) x = false := by
  have hfree : (getEngine s t e).prog.any
      (fun x => usesMover (dOp x.raw) && dMoverB x.raw == dMoverB d.raw && !x.ended) = false := by
    simp only [canIssue, hop, Bool.and_eq_true, Bool.not_true, Bool.false_or, Bool.not_eq_true'] at h
    exact h.2
  intro x hx
  have hnot := (List.any_eq_false.mp hfree) x hx
  rw [onChannel, moverOf_mod]
  revert hnot
  cases usesMover (dOp x.raw) <;> cases x.ended <;> cases dMoverB x.raw <;> cases dMoverB d.raw <;> decide

/-- The mover channels of a tile that issues descriptors may send requests. -/
theorem moverShut_of_canIssue (h : canIssue s t e d = true) (htrip : tripped s = false) : moverShut s t = false := by
  simp only [canIssue, Bool.and_eq_true, Bool.not_eq_true'] at h
  obtain ⟨⟨⟨⟨⟨⟨⟨⟨-, hhold⟩, hreset⟩, hstarting⟩, -⟩, -⟩, -⟩, -⟩, -⟩ := h
  rw [moverShut, hhold, htrip, hstarting, hreset]
  rfl

/-- What the checks of a LOADW say of its array and of its image in the Slate (R193). -/
theorem slateImage_of_loadwOk {r : Nat} (h : loadwOk e r = true) (hspace : adSpace (lwSrc r) = 2) :
    e < 4 ∧ adLow (lwSrc r) + loadBytes r ≤ slateSize ∧ loadBytes r ≤ 133152 := by
  simp only [loadwOk, adRange, hspace, if_true, Bool.and_eq_true, decide_eq_true_eq] at h
  obtain ⟨⟨⟨⟨⟨⟨he, -⟩, -⟩, -⟩, -, hn, hk⟩, -⟩, -, hrange⟩ := h
  exact ⟨he, hrange, imgBytes_le hk hn (Nat.mod_lt _ (by decide)) _⟩

theorem loadwOk_of_descOk {r : Nat} (h : descOk s t e r = true) (hop : dOp r = 1) : loadwOk e r = true := by
  simp only [descOk, hop, Bool.and_eq_true] at h
  exact h.2

end

/-! ### The command -/

section
variable {s : State} {t e : Nat} {d : Desc} {rest : List Desc}

/-- A LOADW in progress goes to its end as the channels of its array are pumped. -/
theorem filled_loadPump {y : State} (hc : LoadClear s t e (moverOf e d.raw) d.raw) (he : e < 4)
    (hbook : isBook (lwFmt d.raw) = true → bookOk (bookSection (slateNat s t (adLow (lwSrc d.raw)) (loadBytes d.raw))
      (lwK d.raw) (lwN d.raw) (lwFmt d.raw) (lwScheme d.raw)) = true)
    {d0 : Desc} (h0 : { d0 with taking := true } = loading s t d 0 0) (hraw : d0.raw = d.raw) (hended : d0.ended = false)
    (htaking : d0.taking = false) (h : Loads s t e (moverOf e d.raw) rest d0 [] y) :
    Filled s t e (moverOf e d.raw) rest d (loadPump t e y) := by
  have hfilled := pump_load hc (moverOf_lt (by omega) _) hbook h0 hraw hended htaking h
  have hbegun : LoadClear s t e (moverOf e d.raw) d0.raw := hraw ▸ hc
  have hmod := moverOf_mod e d.raw
  cases hb : dMoverB d.raw
  · have hm : moverOf e d.raw = 2 * e := by rw [moverOf, hb]; rfl
    rw [hm] at hc hfilled hmod ⊢
    have hside := loadStep_other (m' := 2 * e + 1) hfilled.ran hc (by omega) (by omega)
    have hrest := loadStep_ended hfilled.ran hc rfl
    rw [loadPump]
    dsimp only
    rw [pumpLoop_rest hside, pumpLoop_rest hrest]
    exact hfilled
  · have hm : moverOf e d.raw = 2 * e + 1 := by rw [moverOf, hb]; rfl
    rw [hm] at hc hbegun hfilled hmod ⊢
    have hfirst := loadStep_other (m' := 2 * e) h.ran hbegun (by omega) (by omega)
    have hlast := loadStep_other (m' := 2 * e) hfilled.ran hc (by omega) (by omega)
    rw [loadPump]
    dsimp only
    rw [pumpLoop_rest hfirst, pumpLoop_rest hlast]
    exact hfilled

/-- A LOADW as it is issued, with nothing on its channel. -/
theorem loads_issued {m : Nat} (hops : (getMover s t m).ops = []) :
    Loads s t e m rest (begun s d) [] (pushProg t e (begun s d) (taken s t e rest)) where
  ran := ran_pushProg rfl
  ops := hops
  frame := by
    dsimp only [pushProg, taken, modEngine]

/-- A LOADW whose image lies in the Slate fills its plane at its issue (R157). -/
theorem filled_loadw (hi : Issuable s t e d rest) (hop : dOp d.raw = 1) (hd : d = mkDesc s t e d.idx d.raw)
    (hfenced : (getArray s t e).fenced = false) (he : e < 4) (hc : LoadClear s t e (moverOf e d.raw) d.raw)
    (hops : (getMover s t (moverOf e d.raw)).ops = [])
    (hbook : isBook (lwFmt d.raw) = true → bookOk (bookSection (slateNat s t (adLow (lwSrc d.raw)) (loadBytes d.raw))
      (lwK d.raw) (lwN d.raw) (lwFmt d.raw) (lwScheme d.raw)) = true) :
    Filled s t e (moverOf e d.raw) rest d (loadw t e (fresh s)) := by
  have hfresh : d.started = false ∧ d.ended = false ∧ d.taking = false ∧
      { begun s d with taking := true } = loading s t d 0 0 := by
    rw [hd]
    exact ⟨rfl, rfl, rfl, rfl⟩
  obtain ⟨hstarted, hended, htaking, hloading⟩ := hfresh
  have hissue := issueDesc_runs (p := fun r => dOp r = 1) (f := fun d s =>
    if (getArray s t e).fenced then some (ends stResidueFault d, s) else some (d, s)) hi (decide_eq_true hop) hstarted
    (if_neg (by rw [getArray_taken, hfenced]; exact Bool.false_ne_true))
  rw [loadw, hissue, if_pos he]
  exact filled_loadPump hc he hbook hloading rfl hended htaking (loads_issued hops)

end

end Sys2Proof.Machine

/-! ## Proofs: LOADW, STREAM and array steps build the accumulators of a group -/

namespace Sys2Proof.Machine

open Sys2Proof

/-- Settles O32: the pump of its channel runs a LOADW from its issue to its filled plane (`filled_loadw`); a STREAM is
split by what it does at its start (`streamStart_clear`); an array step is split by what its row does, with one lemma
each (`arrayStep_fences`, `arrayStep_goes`, `arrayStep_spoiled`, `arrayStep_accumulates`, `arrayStep_converts`). -/
theorem groupsAccumulate : Obligations.GroupsAccumulate := by
  refine ⟨?_, ?_, ?_⟩
  · intro t e d rest s r size image m x hi hop hd hfenced hplane htrip hops hfirst hspace hclean hgood hbook
    obtain ⟨hready, hcan, hok⟩ := hi
    obtain ⟨he, hrange, hsize⟩ := slateImage_of_loadwOk (loadwOk_of_descOk hok hop) hspace
    have hc : LoadClear s t.val e.val m r :=
      { op := hop, engine := moverOf_div _ _, side := (moverOf_mod _ _).symm
        alone := channelFree_of_canIssue hcan (by rw [hop]; rfl), first := hfirst, plane := hplane
        running := moverShut_of_canIssue hcan htrip, source := hspace, range := hrange, size := hsize, clean := hclean
        good := hgood }
    have hfilled := filled_loadw ⟨hready, hcan, hok⟩ hop hd hfenced he hc hops hbook
    refine answers_run (exec_loadw t e s) ?_
    generalize loadw t.val e.val (fresh s) = y at hfilled ⊢
    obtain ⟨hran, harray, hmoved, hobjs, hleft, hframe⟩ := hfilled
    have hended : loadEnded s t.val d = { begun s d with ended := true, taking := true, off := size, count := size } := by
      rw [hd]
      rfl
    rw [hended] at hran
    exact ⟨hran.sameTime, ⟨planeFrom r image, rfl, rfl, rfl, rfl, rfl, rfl, rfl, rfl, rfl, rfl, harray⟩, hmoved, hobjs, hleft,
      by rw [hframe]; rfl⟩
  · intro t e d rest s x p r Only hi hop hinit
    refine ⟨fun hf hd => ?_, fun hf hw => noEffect_stream hi hop hinit hf hw,
      fun hf hidle htrip hload hd hpos hclean => ?_⟩
    · exact (answers_stream_ends hi hop hinit hd (streamStart_fenced (by rw [getArray_taken, hf]))).imp
        fun s' ⟨hran, _, hrest⟩ => ⟨hran, hrest⟩
    · have hclear := StreamClear.taken (rest := rest) ⟨hf, hidle, htrip, hload, hclean⟩
      have htaken := getArray_taken s t.val e.val rest t.val e.val
      refine ⟨fun hfit => ?_, fun hfit hm => ?_, fun hfit hm hg hk => ?_⟩
      · exact (answers_stream_ends hi hop hinit hd (streamStart_unfit hclear (by rw [htaken]; exact hfit))).imp
          fun s' ⟨hran, _, hrest⟩ => ⟨hran, hrest⟩
      · exact answers_stream_ends hi hop hinit hd (streamStart_empty hclear (by rw [htaken]; exact hfit) hm)
      · have hstart := streamStart_begins (d := begun s d) hclear (by rw [htaken]; exact hfit) hm (by rw [htaken]; exact hg)
        rw [htaken] at hstart
        refine (answers_stream_begins hi hop hinit hd rfl hk hstart).imp fun s' ⟨hready, hprog, harray, hrest⟩ => ?_
        rw [harray]
        refine ⟨hready, hprog, begunArray_group x _, ?_, planeOf_begunArray_used x _, planeOf_begunArray_idle x _, hrest⟩
        rw [begunArray_stream, ← hpos]
        rfl
  · intro t a s x Steps
    refine ⟨fun hidle => ?_, fun st g hst hg htrip hreset htok hstop hs => ?_⟩
    · exact noEffect_run (exec_arrayStep t a none s) (arrayStep_idle (s := fresh s) none hidle)
    · intro p r
      have hp : planeOf (getArray (fresh s) t.val a.val) st.planeB = p := rfl
      have hstep := (Stepping.mk hst hg htrip hreset htok hstop).fresh
      refine ⟨fun f h1 h4 hlast => answers_arrayStep fun s' hr => ?_, fun hres =>
        ⟨fun hgoes => answers_arrayStep fun s' hr => ?_, fun hlast hb => answers_arrayStep fun s' hr => ?_,
          fun hlast hb hgf hf => answers_arrayStep fun s' hr => ?_, fun hlast hb hgf hf => answers_arrayStep fun s' hr => ?_⟩⟩
      · obtain ⟨⟨hfenced, hgroup, hstream⟩, hrest⟩ := arrayStep_fences a.isLt hstep hp h1 h4 hlast hr
        exact ⟨hfenced, hgroup, hstream, hrest⟩
      · have hleft := arrayStep_goes a.isLt hstep hp hres hgoes hr
        exact hleft
      · have hleft := arrayStep_spoiled a.isLt hstep hp hres hs hlast hb hr
        exact hleft
      · have hleft := arrayStep_accumulates a.isLt hstep hp hres hs hlast hb hgf hf hr
        exact hleft
      · have hleft := arrayStep_converts a.isLt hstep hp hres hs hlast hb hgf hr
        exact hleft

end Sys2Proof.Machine

/-! ## Proofs: two transfers on one mover channel -/

namespace Sys2Proof.Machine

open Sys2Proof

/-- A COPY in progress on channel 0 whose requests are all issued (R226). -/
def issuedCopy : Desc := { idx := 0, raw := 6, closing := true }

/-- Its last write, out, and the response to it. -/
def lastCopyWrite : MoverOp := { tag := 0, use := .dst, addr := 0, len := 32, write := true, at_ := .out }
def lastCopyReply : Reply := { tag := 0, status := stOk, write := true }

/-- Engine 0 of tile 0 with two of them in progress, which `canIssue` never lets happen (R213). -/
def twoCopies : State :=
  { engine := [(0, { prog := [issuedCopy, issuedCopy] })]
    mover := [(0, { ops := [lastCopyWrite] })]
    replies := [(0x10, [lastCopyReply])] }

theorem lastCopyReply_named : replyNamed twoCopies 0 0 stOk 0 0 lastCopyReply = true := by decide +kernel

/-- The pump that ends the first transfer goes on with the second, and ends that too. -/
theorem response_ends_twoCopies {s' : State} (h : exec (.moverRequestResponse 0 0 0 0 0) twoCopies = .next s') :
    ((getEngine s' 0 0).prog.map fun d => d.ended) = [true, true] := by
  cases h
  decide +kernel

/-- Refutes O30: with a second transfer in progress on the channel (`twoCopies`, which nothing in the statement rules out),
the response to the last write of the first one ends both, and the statement has the second as it was. -/
theorem not_transfersAndTheirResponses : ¬ Obligations.TransfersAndTheirResponses := by
  unfold Obligations.TransfersAndTheirResponses
  rintro ⟨-, hresponse, -⟩
  obtain ⟨-, -, -, honly⟩ := hresponse 0 0 0 0 0 twoCopies
  obtain ⟨hwrite, -⟩ := honly lastCopyReply lastCopyWrite issuedCopy (by decide) rfl rfl rfl
    lastCopyReply_named rfl (by decide) (.inl rfl)
  obtain ⟨-, hok, -, -⟩ := hwrite rfl rfl
  obtain ⟨s', hexec, -, ⟨hprog, -, -⟩, -⟩ := hok rfl
  have hended := (response_ends_twoCopies hexec).symm.trans (congrArg (List.map fun d => d.ended) hprog)
  exact absurd hended (by decide)

end Sys2Proof.Machine

/-! ## Proofs: the barriers of a FENCE -/

namespace Sys2Proof.Machine

open Sys2Proof

/-- A FENCE with flush (Table 8.13). -/
def flushFence : Desc := { idx := 0, raw := 8 + 2 ^ 64 }

/-- An open request of a requester of tile 0, with a number of the tile. -/
def openRead (id requester : Nat) : Req :=
  { id := id, requester := requester, orig := requester, source := 0, tag := 0, addr := 0, len := 32, write := false }

/-- Engine 0 of tile 0 about to issue the FENCE. Channel 1 has a request open; one of channel 0 has the number that the
tile gives next, which `newId` never lets happen. -/
def fenceAmongReads : State :=
  setObj 0 Obj.engineEnable 1 (setObj dev Obj.bringupPhase 0
    { engine := [(0, { ready := [flushFence] })]
      sched := [(0, { reqs := [openRead 0 0x11, openRead 1 0x10] })] })

theorem channels_fenceAmongReads : ∀ m ∈ [0, 1], (getMover fenceAmongReads 0 m).ops = [] ∧
    fifoWaits fenceAmongReads 0 (0x10 + m) false = false := by decide +kernel

/-- The barrier of channel 1 waits for that channel's open request; with it waits the request of channel 0 that has its
number, and the barrier of channel 0 behind that. -/
theorem fence_holds_barrier {s' : State} (h : exec (.fence 0 0) fenceAmongReads = .next s') :
    ((getMover s' 0 0).ops.map fun o => o.at_) = [.unsent] := by
  cases h
  decide +kernel

/-- Refutes O34: where an open request has the number that the tile gives next (`fenceAmongReads`, which nothing in the
statement rules out), a FENCE with flush sends the barrier of one channel only. -/
theorem not_semaphoresAndHints : ¬ Obligations.SemaphoresAndHints := by
  unfold Obligations.SemaphoresAndHints
  rintro ⟨hissue, -⟩
  obtain ⟨-, hflush, -⟩ := hissue 0 0 flushFence [] fenceAmongReads ⟨rfl, by decide +kernel, by decide +kernel⟩ rfl
  obtain ⟨s', hexec, -, hsent⟩ := hflush rfl rfl channels_fenceAmongReads (by decide +kernel)
  obtain ⟨o, hops, -, hout⟩ := hsent 0 (by decide)
  have hheld := (fence_holds_barrier hexec).symm.trans (congrArg (List.map fun o => o.at_) hops)
  rw [List.map_singleton, hout] at hheld
  exact absurd hheld (by decide)

end Sys2Proof.Machine

/-! ## Proofs: engines stop -/

namespace Sys2Proof.Machine

open Sys2Proof

/-! ### What stops of an engine and counts of its descriptors leave alone (R215, R231) -/

/-- The objects they write, by index: the stop point, the work of the vector unit, ring stalls, precise sampling. -/
def stopKey (k : Nat) : Bool :=
  [0x4308, 0x4309, 0x4100, 0x4102, 0x4312, 0x8030, 0x8031, 0x8035].contains (k / 256)

/-- An engine is as before but for where it stops. -/
def StopsOnly (g g' : EngineS) : Prop := g' = { g with
  halt := g'.halt, stopSoon := g'.stopSoon, soonIdx := g'.soonIdx, soonStatus := g'.soonStatus, stopIdx := g'.stopIdx }

theorem StopsOnly.trans {a b c : EngineS} (h : StopsOnly a b) (h' : StopsOnly b c) : StopsOnly a c := by
  unfold StopsOnly at *
  rw [h] at h'
  exact h'

/-- Memory, objects but those of `stopKey` and of reporting, engines but for where they stop, the time and the status
answered are as before. -/
structure Stops (s s' : State) : Prop extends Calm stopKey s s' where
  engines : ∀ t e, StopsOnly (getEngine s t e) (getEngine s' t e)
  sramErr : s'.sramErr = s.sramErr
  time : s'.time = s.time
  status : s'.out.status = s.out.status

theorem Stops.refl (s : State) : Stops s s := ⟨.refl _ s, fun _ _ => rfl, rfl, rfl, rfl⟩

theorem Stops.trans {a b c : State} (h : Stops a b) (h' : Stops b c) : Stops a c :=
  ⟨h.toCalm.trans h'.toCalm, fun t e => (h.engines t e).trans (h'.engines t e), h'.sramErr.trans h.sramErr,
    h'.time.trans h.time, h'.status.trans h.status⟩

/-- Chaining from the last step inwards. -/
theorem Stops.after {a b c : State} (h' : Stops b c) (h : Stops a b) : Stops a c := h.trans h'

theorem Stops.prog {s s' : State} (h : Stops s s') (t e : Nat) : (getEngine s' t e).prog = (getEngine s t e).prog := by
  rw [h.engines t e]

theorem Stops.stallFrom {s s' : State} (h : Stops s s') (t e : Nat) :
    (getEngine s' t e).stallFrom = (getEngine s t e).stallFrom := by
  rw [h.engines t e]

theorem Side.stops {s s' : State} (h : Side s s') : Stops s s' := by
  refine ⟨h.calm, fun t e => ?_, ?_, h.time, h.status⟩
  · have hengine : s'.engine = s.engine := by rw [h.fields]
    rw [getEngine_congr hengine]
    rfl
  · rw [h.fields]

theorem stops_setObj (s : State) {u k v : Nat} (hk : k < 2 ^ 24) (h : stopKey k = true) : Stops s (setObj u k v s) :=
  ⟨calm_setObj s hk h, fun _ _ => rfl, rfl, rfl, rfl⟩

theorem stops_bump (s : State) {u k n : Nat} (hk : k < 2 ^ 24) (h : stopKey k = true) : Stops s (bump u k n s) :=
  stops_setObj s hk h

theorem stops_modEngine (t e : Nat) {f : EngineS → EngineS} (hf : ∀ g, StopsOnly g (f g)) (s : State) :
    Stops s (modEngine t e f s) := by
  refine ⟨calm_of rfl, fun u i => ?_, rfl, rfl, rfl⟩
  by_cases hk : u * 6 + i = t * 6 + e
  · unfold getEngine modEngine
    rw [hk, fget_fupd_same]
    exact hf _
  · have hother : getEngine (modEngine t e f s) u i = getEngine s u i := fget_engine_modEngine hk f s
    rw [hother]
    rfl

/-! ### Stops (R229, R231) -/

theorem stopPoint_keys {e : Nat} (he : e < 6) :
    (Obj.engineStopAddress + e < 2 ^ 24 ∧ stopKey (Obj.engineStopAddress + e) = true ∧
      objBits (Obj.engineStopAddress + e) = 32) ∧
    (Obj.engineStopStatus + e < 2 ^ 24 ∧ stopKey (Obj.engineStopStatus + e) = true ∧
      objBits (Obj.engineStopStatus + e) = 8) :=
  (by decide : ∀ e < 6, (Obj.engineStopAddress + e < 2 ^ 24 ∧ stopKey (Obj.engineStopAddress + e) = true ∧
      objBits (Obj.engineStopAddress + e) = 32) ∧
    (Obj.engineStopStatus + e < 2 ^ 24 ∧ stopKey (Obj.engineStopStatus + e) = true ∧
      objBits (Obj.engineStopStatus + e) = 8)) e he

/-- The engine as it enters a stop, with the registers of its stop point. -/
def haltedAt (t e st idx status : Nat) (s : State) : State :=
  setObj t (Obj.engineStopAddress + e) idx (setObj t (Obj.engineStopStatus + e) status
    (modEngine t e (fun g => { g with halt := st, stopSoon := 0, stopIdx := idx }) s))

theorem stops_haltedAt {e : Nat} (he : e < 6) (t st idx status : Nat) (s : State) : Stops s (haltedAt t e st idx status s) := by
  obtain ⟨⟨ha, hak, -⟩, hs, hsk, -⟩ := stopPoint_keys he
  exact (stops_setObj _ ha hak).after ((stops_setObj _ hs hsk).after (stops_modEngine t e
    (f := fun g => { g with halt := st, stopSoon := 0, stopIdx := idx }) (fun _ => rfl) s))

theorem side_haltBell (t b : Nat) (s : State) : Side s (if b = 0 then s else ringHost t b s) := by
  split
  · exact .refl s
  · exact side_ringHost t b s

/-- An engine that does not stop, or a mover halt, enters its state; its doorbell may ring. -/
theorem haltEngine_enters {t e st : Nat} {s : State}
    (h : ¬ ((getEngine s t e).halt ≠ 0 ∧ ¬ (st = 4 ∧ ((getEngine s t e).halt = 3 ∨ (getEngine s t e).halt = 6)))) (idx status : Nat) :
    Side (haltedAt t e st idx status s) (haltEngine t e st idx status s) := by
  rw [haltEngine, if_neg h]
  exact side_haltBell t _ _

theorem stops_haltEngine {e : Nat} (he : e < 6) (t st idx status : Nat) (s : State) :
    Stops s (haltEngine t e st idx status s) := by
  by_cases h : (getEngine s t e).halt ≠ 0 ∧ ¬ (st = 4 ∧ ((getEngine s t e).halt = 3 ∨ (getEngine s t e).halt = 6))
  · rw [haltEngine, if_pos h]
    exact .refl s
  · exact (stops_haltedAt he t st idx status s).trans (haltEngine_enters h idx status).stops

theorem stops_stopLater (t e st idx status : Nat) (s : State) : Stops s (stopLater t e st idx status s) := by
  refine stops_modEngine t e (fun g => ?_) s
  split <;> rfl

theorem stops_settle {e : Nat} (he : e < 6) (t : Nat) (s : State) : Stops s (settle t e s) := by
  unfold settle
  dsimp only
  split
  · exact stops_haltEngine he _ _ _ _ s
  · exact .refl s

theorem stops_afterStatus {e : Nat} (he : e < 6) (t : Nat) (d : Desc) (st : Nat) (s : State) :
    Stops s (afterStatus t e d st s) := by
  unfold afterStatus
  split
  · exact stops_stopLater _ _ _ _ _ s
  split
  · exact stops_stopLater _ _ _ _ _ s
  split
  · exact stops_haltEngine he _ _ _ _ s
  · exact .refl s

end Sys2Proof.Machine

/-! ## Proofs: descriptors complete -/

namespace Sys2Proof.Machine

open Sys2Proof

/-! ### Counts of a completed descriptor (R215, R401) -/

theorem stops_smEvent (t kind requester part latency record : Nat) (s : State) :
    Stops s (smEvent t kind requester part latency record s) := by
  have hbump : ∀ {k n : Nat} (x : State), k = Obj.preciseEligible ∨ k = Obj.preciseSampleCount → Stops x (bump t k n x) := by
    rintro k n x (rfl | rfl) <;> exact stops_bump x (by decide) (by decide)
  have hcount : ∀ (x : State) (c : CountS) (n : Nat), Stops x { x with count := c, free := n } :=
    fun x _ _ => ⟨calm_of rfl, fun _ _ => rfl, rfl, rfl, rfl⟩
  unfold smEvent draw
  dsimp only
  split
  · exact .refl s
  split
  · exact (hcount _ _ _).after (hbump s (.inl rfl))
  have hsampled := fun c n => (hbump (n := 1) _ (.inr rfl)).after ((hcount _ c n).after (hbump (n := 1) s (.inl rfl)))
  split
  · exact (stops_setObj _ (by decide) (by decide)).after (hsampled _ _)
  · exact hsampled _ _

/-- Beside DescriptorsCompleted, the counts of a completed descriptor. -/
theorem stops_countDesc (t e : Nat) (d : Desc) (s : State) :
    Stops (bump t (Obj.descriptorsCompleted + e) 1 s) (countDesc t e d s) := by
  unfold countDesc
  dsimp only
  refine (stops_smEvent _ _ _ _ _ _ _).after ?_
  have hcounted := (side_countEv t 0x0030 e 1 (bump t (Obj.descriptorsCompleted + e) 1 s)).stops
  split
  · exact (stops_bump _ (by decide) (by decide)).after ((stops_bump _ (by decide) (by decide)).after hcounted)
  · exact hcounted

/-! ### The record of a completed descriptor (R230) -/

/-- Writing bytes leaves the others alone. -/
theorem fget_slateBytes_other {t off n k : Nat} (data : Nat) (s : State)
    (h : k < t * 2 ^ 23 + off ∨ t * 2 ^ 23 + off + n ≤ k) : fget 0 (slateBytes t off n data s).slate k = fget 0 s.slate k := by
  induction n generalizing off data s with
  | zero => rfl
  | succ n ih =>
    rw [slateBytes, ih _ _ (by omega)]
    exact fget_fset_other _ _ _ _ (by omega)

theorem otherSlate_slateBytes {s s' : State} {t off n data : Nat} (h : s'.slate = (slateBytes t off n data s).slate)
    (hoff : off + n ≤ slateSize) : OtherSlate s s' t (fun o => off ≤ o ∧ o < off + n) := by
  intro u o ho hout
  rw [h]
  refine fget_slateBytes_other data s ?_
  have hsize : slateSize = 2 ^ 23 := rfl
  rcases Nat.lt_trichotomy u t with hlt | rfl | hgt
  · have := Nat.mul_le_mul_right (2 ^ 23) (Nat.succ_le_of_lt hlt)
    omega
  · omega
  · have := Nat.mul_le_mul_right (2 ^ 23) (Nat.succ_le_of_lt hgt)
    omega

@[simp] theorem setObj_slate (u k v : Nat) (s : State) : (setObj u k v s).slate = s.slate := rfl

/-- Where the next record of an engine goes. -/
def recordOff (s : State) (t e : Nat) : Nat :=
  (getObj s t (Obj.completionRingBase + e) +
    32 * (getObj s t (Obj.completionProduced + e) % max 1 (getObj s t (Obj.completionRingSize + e)))) % slateSize

theorem writeRecord_clean {s : State} (h : s.sramErr = []) (t e r : Nat) : writeRecord t e r s =
    setObj t (Obj.completionProduced + e) (getObj s t (Obj.completionProduced + e) + 1) { s with
      slate := (slateBytes t (recordOff s t e) 32 r s).slate
      slatePois := (slateWrite t (recordOff s t e) 32 r 0 s).slatePois } := by
  rw [← slateWrite_fields h]
  rfl

/-- The objects that reading an SRAM word writes beside those of reporting, by index (R266, R281). -/
def readKey (k : Nat) : Bool := [0x6016, 0x6017, 0x6018, 0x6019, 0x6060].contains (k / 256)

theorem calm_countFindings (t n : Nat) (s : State) : Calm readKey s (countFindings t n s) := by
  have hmod : ∀ f, Calm readKey s (modProt t f s) := fun _ => calm_of rfl
  have hlog : ∀ f, Calm readKey s (logRepair t 7 stOk 0 0 0 (ring t 6 (modProt t f s))) := fun f =>
    (((hmod f).side (side_ring t 6 _)).set (k := Obj.lastRepairEvent) (by decide) (by decide)).side (side_addLog _ _ _ _ _ _ _)
  exact calm_ite _ (hlog _) (hmod _)

theorem calm_sramCorrected (t kind w i : Nat) (s : State) : Calm readKey s (sramCorrected t kind w i s) := by
  unfold sramCorrected
  dsimp only
  refine calm_ite _ (Calm.side ?_ ((side_addLog _ _ _ _ _ _ _).trans (side_ring _ _ _))) ?_ <;>
    exact (calm_countFindings t 1 _).after (Calm.bump (calm_of rfl) (by decide) (by decide))

theorem calm_sramUncorrectable (t kind w : Nat) (s : State) : Calm readKey s (sramUncorrectable t kind w s) := by
  unfold sramUncorrectable
  refine Calm.side ?_ (((side_ring _ _ _).trans (side_addLog _ _ _ _ _ _ _)).trans (side_budget 4 _ (by decide)))
  exact Calm.set (Calm.set (Calm.bump (.refl _ s) (by decide) (by decide)) (by decide) (by decide)) (by decide) (by decide)

theorem calm_sramRead (t kind w : Nat) (pois : Bool) (s : State) : Calm readKey s (sramRead t kind w pois s) := by
  unfold sramRead
  dsimp only
  split
  · exact .refl _ s
  split
  · exact calm_of rfl
  · exact calm_of rfl
  · exact (calm_sramCorrected _ _ _ _ _).after (calm_of rfl)
  · exact (calm_sramUncorrectable _ _ _ _).after (calm_of rfl)

/-- What a record written over words whose bits have changed leaves alone: engines, and objects but those of the
reads. -/
structure Rereads (s s' : State) : Prop where
  engine : s'.engine = s.engine
  objs : ∀ u k, k < 2 ^ 24 → readKey k = false → sideKey k = false → getObj s' u k = getObj s u k

theorem Rereads.refl (s : State) : Rereads s s := ⟨rfl, fun _ _ _ _ _ => rfl⟩

theorem Rereads.trans {a b c : State} (h : Rereads a b) (h' : Rereads b c) : Rereads a c :=
  ⟨h'.engine.trans h.engine, fun u k h1 h2 h3 => (h'.objs u k h1 h2 h3).trans (h.objs u k h1 h2 h3)⟩

/-- The same objects and engines, whatever else. -/
theorem Rereads.same {a b c : State} (h : Rereads a b) (hd : c.dict = b.dict) (he : c.engine = b.engine) : Rereads a c :=
  ⟨he.trans h.engine, fun u k h1 h2 h3 => (getObj_congr hd u k).trans (h.objs u k h1 h2 h3)⟩

theorem rereads_slateReadWord (t w : Nat) (s : State) : Rereads s (slateReadWord t w s) := by
  have hread : ∀ pois, Rereads s (sramRead t sramSlate w pois s) := fun pois =>
    ⟨by rw [readWord_read t sramSlate w pois s], (calm_sramRead t sramSlate w pois s).objs⟩
  unfold slateReadWord
  dsimp only
  (repeat' split) <;> exact (hread _).same rfl rfl

theorem rereads_slateTouch (t off n : Nat) (s : State) : Rereads s (slateTouch t off n s) := by
  unfold slateTouch
  split
  · exact .refl s
  · generalize sramChanged s t sramSlate _ _ = l
    have hword : ∀ (x : State) (w : Nat), Rereads x
        (if off ≤ 8 * w ∧ 8 * w + 8 ≤ off + n then sramStore t sramSlate w x else slateReadWord t w x) := by
      intro x w
      split
      · exact (Rereads.refl x).same rfl rfl
      · exact rereads_slateReadWord t w x
    clear * - hword
    induction l generalizing s with
    | nil => exact .refl s
    | cons w l ih => exact (hword s w).trans (ih _)

/-- A record stores its count of records beside; whatever reads its words cause. -/
theorem writeRecord_rereads (t e r : Nat) (s : State) : ∃ y p, Rereads s y ∧
    (writeRecord t e r s).engine = y.engine ∧ (writeRecord t e r s).dict = (setObj t (Obj.completionProduced + e) p y).dict := by
  refine ⟨slateTouch t (recordOff s t e) 32 s, getObj s t (Obj.completionProduced + e) + 1, rereads_slateTouch _ _ _ s, ?_, ?_⟩
  all_goals
    rw [writeRecord]
    dsimp only [setObj]
    rw [slateWrite, slateMark_fields, slateBytes_fields]
    rfl

/-! ### The command DESCRIPTOR_COMPLETE (R215, R229, R230) -/

/-- A completion record is due. -/
def recordDue (d : Desc) : Bool := !d.replay && (dRecord d.raw || decide (finalStatus d ≠ stOk))

/-- An engine without a descriptor that was in progress, its ring stall over. -/
def withoutDesc (d : Desc) (g : EngineS) : EngineS :=
  { g with prog := removeFirst (fun x => x == d) g.prog, stallFrom := none }

/-- The descriptor leaves, and the time it waited for ring space is counted. -/
def takenOut (t e : Nat) (d : Desc) (s : State) : State :=
  bump t (Obj.completionStalls + e) (match (getEngine s t e).stallFrom with | some x => s.time.elapsed - x | none => 0)
    (modEngine t e (withoutDesc d) s)

/-- It is counted; one that is run again is not (R168). -/
def descCounted (t e : Nat) (d : Desc) (s : State) : State := if d.replay then s else countDesc t e d s

/-- Its record is written where one is due. -/
def recorded (t e : Nat) (d : Desc) (s : State) : State :=
  if recordDue d then
    writeRecord t e (recordBits s d (finalStatus d) (getObj s t (Obj.descriptorsCompleted + e))) s
  else s

/-- Its status is answered, and stops the engine where it must. -/
def stopped (t e : Nat) (d : Desc) (s : State) : State :=
  settle t e (answer (finalStatus d) (afterStatus t e d (finalStatus d) s))

theorem completeDesc_stalls {t e : Nat} {d : Desc} {s : State} (h : recordDue d = true ∧ ringFull s t e = true)
    (hs : (getEngine s t e).stallFrom = none) :
    completeDesc t e d s = modEngine t e (fun g => { g with stallFrom := some s.time.elapsed }) s := by
  refine (if_pos h).trans ?_
  rw [hs]
  rfl

theorem completeDesc_leaves {t e : Nat} {d : Desc} {s : State} (h : ¬ (recordDue d = true ∧ ringFull s t e = true)) :
    completeDesc t e d s = stopped t e d (recorded t e d (descCounted t e d (takenOut t e d s))) := if_neg h

theorem descriptorComplete_ended {t e : Nat} {d : Desc} {s : State}
    (h : (getEngine s t e).prog.find? (fun d => d.ended) = some d) : descriptorComplete t e s = completeDesc t e d s := by
  rw [descriptorComplete, h]

/-- The registers of an engine's completions that stops and counts leave alone. -/
def completionRegs : List Nat := [Obj.descriptorsCompleted, Obj.completionProduced, Obj.completionConsumed,
  Obj.completionRingBase, Obj.completionRingSize]

theorem completion_keys {e : Nat} (he : e < 6) : ∀ k ∈ completionRegs,
    k + e < 2 ^ 24 ∧ stopKey (k + e) = false ∧ sideKey (k + e) = false ∧ readKey (k + e) = false :=
  (by decide : ∀ e < 6, ∀ k ∈ completionRegs,
    k + e < 2 ^ 24 ∧ stopKey (k + e) = false ∧ sideKey (k + e) = false ∧ readKey (k + e) = false) e he

theorem completion_widths {e : Nat} (he : e < 6) : objBits (Obj.descriptorsCompleted + e) = 64 ∧
    objBits (Obj.completionProduced + e) = 32 ∧ objBits (Obj.completionConsumed + e) = 32 :=
  (by decide : ∀ e < 6, objBits (Obj.descriptorsCompleted + e) = 64 ∧
    objBits (Obj.completionProduced + e) = 32 ∧ objBits (Obj.completionConsumed + e) = 32) e he

section
variable {s s' : State} {e : Nat} (he : e < 6)
include he

theorem Stops.completion (h : Stops s s') {k : Nat} (hk : k ∈ completionRegs) (u : Nat) :
    getObj s' u (k + e) = getObj s u (k + e) := by
  obtain ⟨hlt, hstop, hside, -⟩ := completion_keys he k hk
  exact h.objs u _ hlt hstop hside

theorem Rereads.completion (h : Rereads s s') {k : Nat} (hk : k ∈ completionRegs) (u : Nat) :
    getObj s' u (k + e) = getObj s u (k + e) := by
  obtain ⟨hlt, -, hside, hread⟩ := completion_keys he k hk
  exact h.objs u _ hlt hread hside

/-- A write of one register of completions leaves the others. -/
theorem getObj_setObj_completion {j k : Nat} (hj : j ∈ completionRegs) (hk : k ∈ completionRegs) (hne : j ≠ k)
    (s : State) (u v x : Nat) : getObj (setObj u (k + e) x s) v (j + e) = getObj s v (j + e) :=
  getObj_setObj_obj s (by omega) (completion_keys he j hj).1 (completion_keys he k hk).1

theorem stops_takenOut (t : Nat) (d : Desc) (s : State) : Stops (modEngine t e (withoutDesc d) s) (takenOut t e d s) :=
  have hkey := (by decide : ∀ e < 6, Obj.completionStalls + e < 2 ^ 24 ∧ stopKey (Obj.completionStalls + e) = true) e he
  stops_bump _ hkey.1 hkey.2

theorem takenOut_completion (t : Nat) (d : Desc) (s : State) {k : Nat} (hk : k ∈ completionRegs) (u : Nat) :
    getObj (takenOut t e d s) u (k + e) = getObj s u (k + e) := (stops_takenOut he t d s).completion he hk u

theorem stops_stopped (t : Nat) (d : Desc) (s : State) : Stops (answer (finalStatus d) s) (stopped t e d s) := by
  have h := stops_afterStatus he t d (finalStatus d) s
  refine (stops_settle he t _).after ⟨⟨h.objs, ?_⟩, h.engines, h.sramErr, h.time, rfl⟩
  exact ⟨h.words.dram, h.words.base, h.words.slate, h.words.inkwell⟩

theorem stopped_completion (t : Nat) (d : Desc) (s : State) {k : Nat} (hk : k ∈ completionRegs) (u : Nat) :
    getObj (stopped t e d s) u (k + e) = getObj s u (k + e) := (stops_stopped he t d s).completion he hk u

end

theorem engine_recorded (t e : Nat) (d : Desc) (s : State) : (recorded t e d s).engine = s.engine := by
  unfold recorded
  split
  · obtain ⟨y, p, hreads, hengine, -⟩ := writeRecord_rereads t e _ s
    exact hengine.trans hreads.engine
  · rfl

theorem engines_descCounted (t e : Nat) (d : Desc) (s : State) (u i : Nat) :
    StopsOnly (getEngine s u i) (getEngine (descCounted t e d s) u i) := by
  unfold descCounted
  split
  · rfl
  · exact (stops_countDesc t e d s).engines u i

/-- A descriptor that completes leaves its engine, whose ring stall ends. -/
theorem completeDesc_engine {t e : Nat} {d : Desc} {s : State} (he : e < 6)
    (h : ¬ (recordDue d = true ∧ ringFull s t e = true)) :
    (getEngine (completeDesc t e d s) t e).prog = removeFirst (fun x => x == d) (getEngine s t e).prog ∧
    (getEngine (completeDesc t e d s) t e).stallFrom = none := by
  have htaken : getEngine (takenOut t e d s) t e = withoutDesc d (getEngine s t e) := getEngine_modEngine t e _ s
  have hstopped := (stops_stopped he t d (recorded t e d (descCounted t e d (takenOut t e d s)))).engines t e
  have hcounted : StopsOnly (getEngine (takenOut t e d s) t e)
      (getEngine (recorded t e d (descCounted t e d (takenOut t e d s))) t e) := by
    rw [getEngine_congr (engine_recorded t e d _)]
    exact engines_descCounted t e d _ t e
  have honly := hcounted.trans hstopped
  rw [completeDesc_leaves h, honly, htaken]
  exact ⟨rfl, rfl⟩

theorem completeDesc_status {t e : Nat} {d : Desc} {s : State} (he : e < 6)
    (h : ¬ (recordDue d = true ∧ ringFull s t e = true)) : (completeDesc t e d s).out.status = finalStatus d := by
  rw [completeDesc_leaves h, (stops_stopped he t d _).status]
  rfl

/-- The space that the host has freed stays so. -/
theorem completeDesc_consumed {t e : Nat} {d : Desc} {s : State} (he : e < 6)
    (h : ¬ (recordDue d = true ∧ ringFull s t e = true)) (u : Nat) :
    getObj (completeDesc t e d s) u (Obj.completionConsumed + e) = getObj s u (Obj.completionConsumed + e) := by
  have hmem : Obj.completionConsumed ∈ completionRegs := by decide
  have hrecorded : ∀ x, getObj (recorded t e d x) u (Obj.completionConsumed + e) = getObj x u (Obj.completionConsumed + e) := by
    intro x
    unfold recorded
    split
    · obtain ⟨y, p, hreads, -, hdict⟩ := writeRecord_rereads t e
        (recordBits x d (finalStatus d) (getObj x t (Obj.descriptorsCompleted + e))) x
      rw [getObj_congr hdict, getObj_setObj_completion he hmem (by decide) (by decide), hreads.completion he hmem]
    · rfl
  have hcounted : ∀ x, getObj (descCounted t e d x) u (Obj.completionConsumed + e) = getObj x u (Obj.completionConsumed + e) := by
    intro x
    unfold descCounted
    split
    · rfl
    · rw [(stops_countDesc t e d x).completion he hmem]
      exact getObj_setObj_completion he hmem (by decide) (by decide) _ _ _ _
  rw [completeDesc_leaves h, stopped_completion he t d _ hmem, hrecorded, hcounted, takenOut_completion he t d s hmem]

/-! ### What a completion leaves while every SRAM word stands as it was stored -/

/-- A counted descriptor, before its record. -/
structure Counted (s y : State) (t e : Nat) : Prop where
  objs : ∀ k ∈ completionRegs, k ≠ Obj.descriptorsCompleted → getObj y t (k + e) = getObj s t (k + e)
  completed : getObj y t (Obj.descriptorsCompleted + e) = (getObj s t (Obj.descriptorsCompleted + e) + 1) % 2 ^ 64
  words : SameWords s y
  sramErr : y.sramErr = s.sramErr
  time : y.time = s.time

theorem counted_descCounted {t e : Nat} {d : Desc} (he : e < 6) (hd : d.replay = false) (s : State) :
    Counted s (descCounted t e d (takenOut t e d s)) t e := by
  have htaken := stops_takenOut he t d s
  have hcounts := stops_countDesc t e d (takenOut t e d s)
  have heq : descCounted t e d (takenOut t e d s) = countDesc t e d (takenOut t e d s) := by
    rw [descCounted, hd, if_neg Bool.false_ne_true]
  rw [heq]
  refine ⟨fun k hk hne => ?_, ?_, ?_, hcounts.sramErr.trans htaken.sramErr, hcounts.time.trans htaken.time⟩
  · rw [hcounts.completion he hk, bump, getObj_setObj_completion he hk (by decide) hne, takenOut_completion he t d s hk]
  · rw [hcounts.completion he (by decide), bump, getObj_setObj_same, (completion_widths he).1,
      takenOut_completion he t d s (by decide)]
  · obtain ⟨hdram, hbase, hslate, hinkwell⟩ := hcounts.words
    obtain ⟨hdram', hbase', hslate', hinkwell'⟩ := htaken.words
    exact ⟨hdram.trans hdram', fun k => (hbase k).trans (hbase' k), hslate.trans hslate', hinkwell.trans hinkwell'⟩

/-- Its record in the ring, where one is due (R230). -/
theorem recorded_spec {s y : State} {t e : Nat} {d : Desc} (he : e < 6) (hs : s.sramErr = []) (hy : Counted s y t e)
    (hoff : recordOff s t e + 32 ≤ slateSize) :
    let z := recorded t e d y
    let off := recordOff s t e
    let p := getObj s t (Obj.completionProduced + e)
    let n := (getObj s t (Obj.descriptorsCompleted + e) + 1) % 2 ^ 64
    getObj z t (Obj.descriptorsCompleted + e) = n ∧ z.dram = s.dram ∧ z.inkwell = s.inkwell ∧
    (recordDue d = true → slateNat z t off 32 = recordBits s d (finalStatus d) n % 2 ^ 256 ∧
      getObj z t (Obj.completionProduced + e) = (p + 1) % 2 ^ 32 ∧ OtherSlate s z t (fun o => off ≤ o ∧ o < off + 32)) ∧
    (recordDue d = false → z.slate = s.slate ∧ getObj z t (Obj.completionProduced + e) = p) := by
  intro z off p n
  obtain ⟨hobjs, hcount, ⟨hdram, -, hslate, hinkwell⟩, hclean, htime⟩ := hy
  have hp : getObj y t (Obj.completionProduced + e) = p := hobjs _ (by decide) (by decide)
  cases hdue : recordDue d
  · have hz : z = y := if_neg (by rw [hdue]; exact Bool.false_ne_true)
    rw [hz]
    exact ⟨hcount, hdram, hinkwell, nofun, fun _ => ⟨hslate, hp⟩⟩
  · have hyoff : recordOff y t e = off := by
      simp only [off, recordOff, hobjs Obj.completionRingBase (by decide) (by decide), hp,
        hobjs Obj.completionRingSize (by decide) (by decide), p]
    have hbits : recordBits y d (finalStatus d) n = recordBits s d (finalStatus d) n := by
      simp only [recordBits, htime]
    have hz : z = writeRecord t e (recordBits s d (finalStatus d) n) y := by
      refine (if_pos hdue).trans ?_
      rw [hcount, hbits]
    rw [writeRecord_clean (hclean.trans hs), hyoff, hp] at hz
    have hbytes : z.slate = (slateBytes t off 32 (recordBits s d (finalStatus d) n) y).slate := by rw [hz, setObj_slate]
    have hother : OtherSlate y z t (fun o => off ≤ o ∧ o < off + 32) := otherSlate_slateBytes hbytes hoff
    refine ⟨?_, by rw [hz]; exact hdram, by rw [hz]; exact hinkwell, fun _ => ⟨?_, ?_, ?_⟩, nofun⟩
    · rw [hz, getObj_setObj_completion he (by decide) (by decide) (by decide)]
      exact Eq.trans (getObj_congr (by rfl) _ _) hcount
    · rw [slateNat_congr hbytes, slateNat_slateBytes, show 8 * 32 = 256 from rfl]
    · rw [hz, getObj_setObj_same, (completion_widths he).2.1]
    · exact fun u o ho hout => (hother u o ho hout).trans (by rw [hslate])

theorem recordDue_iff {d : Desc} (hd : d.replay = false) :
    recordDue d = true ↔ dRecord d.raw = true ∨ finalStatus d ≠ stOk := by
  simp [recordDue, hd]

/-- What a completed descriptor leaves. -/
theorem completeDesc_spec {t e : Nat} {d : Desc} {s : State} (he : e < 6) (hd : d.replay = false) (hs : s.sramErr = [])
    (h : ¬ (recordDue d = true ∧ ringFull s t e = true)) (hoff : recordOff s t e + 32 ≤ slateSize) :
    let z := completeDesc t e d s
    let off := recordOff s t e
    let p := getObj s t (Obj.completionProduced + e)
    let n := (getObj s t (Obj.descriptorsCompleted + e) + 1) % 2 ^ 64
    getObj z t (Obj.descriptorsCompleted + e) = n ∧ z.dram = s.dram ∧ z.inkwell = s.inkwell ∧
    (recordDue d = true → slateNat z t off 32 = recordBits s d (finalStatus d) n % 2 ^ 256 ∧
      getObj z t (Obj.completionProduced + e) = (p + 1) % 2 ^ 32 ∧ OtherSlate s z t (fun o => off ≤ o ∧ o < off + 32)) ∧
    (recordDue d = false → z.slate = s.slate ∧ getObj z t (Obj.completionProduced + e) = p) := by
  intro z off p n
  have hz : z = stopped t e d (recorded t e d (descCounted t e d (takenOut t e d s))) := completeDesc_leaves h
  obtain ⟨hcount, hdram, hinkwell, hdue, hnot⟩ := recorded_spec he hs (counted_descCounted (d := d) he hd s) hoff
  generalize recorded t e d (descCounted t e d (takenOut t e d s)) = y at *
  have hstops := stops_stopped he t d y
  have hslate : z.slate = y.slate := by rw [hz]; exact hstops.words.slate
  have hproduced : getObj z t (Obj.completionProduced + e) = getObj y t (Obj.completionProduced + e) := by
    rw [hz]; exact stopped_completion he t d y (by decide) t
  refine ⟨?_, ?_, ?_, fun hr => ?_, fun hr => ?_⟩
  · rw [hz, stopped_completion he t d y (by decide)]
    exact hcount
  · rw [hz]; exact hstops.words.dram.trans hdram
  · rw [hz]; exact hstops.words.inkwell.trans hinkwell
  · obtain ⟨hrecord, hnext, hother⟩ := hdue hr
    exact ⟨(slateNat_congr hslate t off 32).trans hrecord, hproduced.trans hnext,
      fun u o ho hout => (by rw [hslate]; exact hother u o ho hout)⟩
  · obtain ⟨hsame, hnext⟩ := hnot hr
    exact ⟨hslate.trans hsame, hproduced.trans hnext⟩

end Sys2Proof.Machine

/-! ## Proofs: stopped engines resume -/

namespace Sys2Proof.Machine

open Sys2Proof

/-! ### What leaving a stop does (R232) -/

/-- An engine that has left its stop. -/
def leftStop (g : EngineS) : EngineS := { g with halt := 0, stopSoon := 0, trapIrq := false }

/-- The states of both mover channels of an engine. -/
def moverKeys (t e : Nat) : List (Nat × Nat) := [(t, Obj.moverState + 2 * e), (t, Obj.moverState + (2 * e + 1))]

theorem resume_keys {e : Nat} (he : e < 6) :
    Obj.engineHead + e < 2 ^ 24 ∧ objBits (Obj.engineHead + e) = 32 ∧ Obj.engineQueueSize + e < 2 ^ 24 ∧
      (Obj.engineHead + e) / 256 = 0x4304 ∧ (Obj.engineQueueSize + e) / 256 = 0x4303 :=
  (by decide : ∀ e < 6, Obj.engineHead + e < 2 ^ 24 ∧ objBits (Obj.engineHead + e) = 32 ∧
    Obj.engineQueueSize + e < 2 ^ 24 ∧ (Obj.engineHead + e) / 256 = 0x4304 ∧
    (Obj.engineQueueSize + e) / 256 = 0x4303) e he

theorem moverState_keys {e : Nat} (he : e < 6) : ∀ m ∈ [2 * e, 2 * e + 1],
    Obj.moverState + m < 2 ^ 24 ∧ (Obj.moverState + m) / 256 = 0x4320 :=
  (by decide : ∀ e < 6, ∀ m ∈ [2 * e, 2 * e + 1],
    Obj.moverState + m < 2 ^ 24 ∧ (Obj.moverState + m) / 256 = 0x4320) e he

theorem moverKeys_index {t e : Nat} (he : e < 6) {k : Nat × Nat} (hk : k ∈ moverKeys t e) :
    k.2 < 2 ^ 24 ∧ k.2 / 256 = 0x4320 := by
  simp only [moverKeys, List.mem_cons, List.not_mem_nil, or_false] at hk
  rcases hk with rfl | rfl <;> exact moverState_keys he _ (by simp)

/-- `s'` differs from `s` by engine `e`, which is now `g`, by its head, which is now `h`, and by its mover channels,
which run. -/
structure Resumed (s s' : State) (t e : Nat) (g : EngineS) (h : Nat) : Prop where
  engine : getEngine s' t e = g
  others : ∀ k, k ≠ t * 6 + e → fget ({} : EngineS) s'.engine k = fget {} s.engine k
  head : getObj s' t (Obj.engineHead + e) = h
  movers : ∀ k ∈ moverKeys t e, getObj s' k.1 k.2 = 0
  objs : OtherObjects s s' ((t, Obj.engineHead + e) :: moverKeys t e)
  frame : s' = { s with engine := s'.engine, dict := s'.dict }

@[simp] theorem getEngine_setObj (u k v t e : Nat) (s : State) : getEngine (setObj u k v s) t e = getEngine s t e := rfl

@[simp] theorem getEngine_leaveStop (t e : Nat) (s : State) :
    getEngine (leaveStop t e s) t e = leftStop (getEngine s t e) := getEngine_modEngine t e leftStop s

section
variable {s s' : State} {t e : Nat} {g : EngineS} {h : Nat}

/-- The engine leaves its stop, after what changes it alone. -/
theorem resumed_leaveStop (he : e < 6) (hframe : s' = { s with engine := s'.engine })
    (hothers : ∀ k, k ≠ t * 6 + e → fget ({} : EngineS) s'.engine k = fget {} s.engine k) :
    Resumed s (leaveStop t e s') t e (leftStop (getEngine s' t e)) (getObj s t (Obj.engineHead + e)) := by
  obtain ⟨hhead, -, -, hindex, -⟩ := resume_keys he
  have hm0 := (moverState_keys he (2 * e) (by simp)).1
  have hm1 := (moverState_keys he (2 * e + 1) (by simp)).1
  have hdict : s'.dict = s.dict := by rw [hframe]
  have hobjs : OtherObjects s (leaveStop t e s') (moverKeys t e) := by
    have hlast : OtherObjects _ (leaveStop t e s') [(t, Obj.moverState + 2 * e)] := otherObjects_set rfl hm0
    have hfirst : OtherObjects s (setObj t (Obj.moverState + (2 * e + 1)) 0
        (modEngine t e leftStop s'))
        [(t, Obj.moverState + (2 * e + 1))] := otherObjects_set (by rw [setObj, setObj, ← hdict]; rfl) hm1
    exact (hfirst.mono (by simp [moverKeys])).trans (hlast.mono (by simp [moverKeys]))
  refine ⟨getEngine_leaveStop t e s', fun k hk => ?_, ?_, ?_, fun u k hk hn => ?_, ?_⟩
  · exact (fget_engine_modEngine hk leftStop s').trans (hothers k hk)
  · refine hobjs t _ hhead fun hmem => ?_
    have hmover := (moverKeys_index he hmem).2
    omega
  · have hzero : ∀ k, 0 % 2 ^ objBits k = 0 := fun _ => Nat.zero_mod _
    intro k hk
    simp only [moverKeys, List.mem_cons, List.not_mem_nil, or_false] at hk
    rcases hk with rfl | rfl
    · exact (getObj_setObj_same _ _ _ _).trans (hzero _)
    · refine (getObj_setObj_obj _ (by omega) hm1 hm0).trans ((getObj_setObj_same _ _ _ _).trans (hzero _))
  · exact hobjs u k hk (fun hmem => hn (List.mem_cons_of_mem _ hmem))
  · rw [leaveStop, hframe]
    rfl

/-- Then the engine is changed again. -/
theorem Resumed.modEngine (hr : Resumed s s' t e g h) (f : EngineS → EngineS) :
    Resumed s (modEngine t e f s') t e (f g) h := by
  obtain ⟨hengine, hothers, hhead, hmovers, hobjs, hframe⟩ := hr
  refine ⟨by rw [getEngine_modEngine, hengine], fun k hk => (fget_engine_modEngine hk f s').trans (hothers k hk), hhead,
    hmovers, hobjs, ?_⟩
  rw [hframe]
  rfl

/-- Or its head moves on. -/
theorem Resumed.skipHead (hr : Resumed s s' t e g h) (he : e < 6) : Resumed s (skipHead t e s') t e g
    ((h + 1) % max 1 (getObj s t (Obj.engineQueueSize + e)) % 2 ^ 32) := by
  obtain ⟨hkey, hbits, hsize, hindex, hindex'⟩ := resume_keys he
  obtain ⟨hengine, hothers, hhead, hmovers, hobjs, hframe⟩ := hr
  have hqueue : getObj s' t (Obj.engineQueueSize + e) = getObj s t (Obj.engineQueueSize + e) := by
    refine hobjs t _ hsize fun hmem => ?_
    rcases List.mem_cons.mp hmem with heq | hmem
    · have hsame : Obj.engineQueueSize + e = Obj.engineHead + e := congrArg Prod.snd heq
      omega
    · have hmover := (moverKeys_index he hmem).2
      omega
  have hset : OtherObjects s' (Machine.skipHead t e s') [(t, Obj.engineHead + e)] := otherObjects_set rfl hkey
  refine ⟨hengine, hothers, ?_, fun k hk => ?_, hobjs.trans (hset.mono (by simp)), ?_⟩
  · rw [Machine.skipHead, getObj_setObj_same, hbits, hhead, hqueue]
  · obtain ⟨hlt, hmover⟩ := moverKeys_index he hk
    refine (hset k.1 k.2 hlt fun hmem => ?_).trans (hmovers k hk)
    have hsame : k.2 = Obj.engineHead + e := congrArg Prod.snd (List.mem_singleton.mp hmem)
    omega
  · rw [Machine.skipHead, setObj, hframe]

end

/-! ### The actions of EngineResume (Table 8.16) -/

/-- An engine that does not stop is in none of the states from which it may be resumed. -/
theorem resumeOk_engineState {act : Nat} (h1 : 1 ≤ act) (h5 : act ≤ 5) (s : State) (t e : Nat) :
    resumeOk act (engineState s t e) = resumeOk act (getEngine s t e).halt := by
  unfold engineState
  dsimp only
  by_cases h : (getEngine s t e).halt = 0
  · rw [h, if_neg (by decide)]
    have hnone : ∀ st ∈ [8, 7, 2, 0, 1], resumeOk act st = resumeOk act 0 := by
      interval_cases act <;> decide
    split_ifs <;> exact hnone _ (by decide)
  · rw [if_pos h]

section
variable {s : State} {t e act : Nat}

theorem writeResume_refused (h1 : 1 ≤ act) (h5 : act ≤ 5) (h : resumeOk act (getEngine s t e).halt = false) :
    writeResume t e act s = answer stBadFormat s := by
  rw [writeResume, resumeOk_engineState h1 h5, h]
  rfl

/-- What an allowed action does (R232). -/
def resumeEffect (t e act : Nat) (s : State) : State :=
  let g := getEngine s t e
  let d := mkDesc s t e g.stopIdx (getObj s t (Obj.engineReplace + e))
  match act with
  | 1 => if g.halt = 5 then passTrap t e [] (leaveStop t e s) else leaveStop t e s
  | 2 => resumeRerun t e s
  | 3 => pushReady t e [mkDesc s t e g.stopIdx resumeRaw] (leaveStop t e s)
  | 4 => resumeAbort t e s
  | _ => if g.halt = 5 then passTrap t e [d] (leaveStop t e s) else pushReady t e [d] (leaveStop t e s)

theorem writeResume_allowed (h1 : 1 ≤ act) (h5 : act ≤ 5) (h : resumeOk act (getEngine s t e).halt = true) :
    writeResume t e act s = answer stOk (resumeEffect t e act s) := by
  rw [writeResume, resumeOk_engineState h1 h5, h]
  simp only [not_true_eq_false, if_false, decide_eq_true_eq, resumeEffect] <;> rfl

/-- The next descriptor of the queue, with what takes the place of the trapped one (R232). -/
theorem passTrap_queue (d : List Desc) (h : (getEngine s t e).refetch = []) : passTrap t e d s =
    skipHead t e (modEngine t e (fun g => { g with ready := g.ready ++ d }) s) := by
  rw [passTrap, h]

/-- The next descriptor to be fetched again. -/
theorem passTrap_again (d : List Desc) {i j : Nat} {l : List Nat} (h : (getEngine s t e).refetch = i :: j :: l) :
    passTrap t e d s = modEngine t e (fun g => { g with refetch := j :: l, again := g.again ++ d }) s := by
  rw [passTrap, h]
  dsimp only
  rw [againDone, getEngine_modEngine, if_pos (.inl (List.cons_ne_nil j l))]

theorem resumed_stop (he : e < 6) (s : State) (t : Nat) : Resumed s (leaveStop t e s) t e (leftStop (getEngine s t e))
    (getObj s t (Obj.engineHead + e)) := resumed_leaveStop he rfl fun _ _ => rfl

/-- What an action changes before the engine leaves its stop is in the engine too. -/
theorem resumed_modEngine_stop (he : e < 6) (s : State) (t : Nat) (f : EngineS → EngineS) :
    Resumed s (leaveStop t e (modEngine t e f s)) t e (leftStop (f (getEngine s t e)))
      (getObj s t (Obj.engineHead + e)) := by
  have h := resumed_leaveStop (t := t) he (s := s) (s' := modEngine t e f s) rfl fun k hk => fget_engine_modEngine hk f s
  rwa [getEngine_modEngine] at h

/-- Past a trapped descriptor of the queue, with what takes its place. -/
theorem resumed_passTrap (he : e < 6) (t : Nat) (d : List Desc) (hre : (getEngine s t e).refetch = []) :
    Resumed s (passTrap t e d (leaveStop t e s)) t e
      { leftStop (getEngine s t e) with ready := (getEngine s t e).ready ++ d }
      ((getObj s t (Obj.engineHead + e) + 1) % max 1 (getObj s t (Obj.engineQueueSize + e)) % 2 ^ 32) := by
  have hleft : (getEngine (leaveStop t e s) t e).refetch = [] := by
    rw [getEngine_leaveStop]
    exact hre
  rw [passTrap_queue d hleft]
  exact ((resumed_stop he s t).modEngine fun g => { g with ready := g.ready ++ d }).skipHead he

/-- Past one of those that are fetched again. -/
theorem resumed_passTrap_again (he : e < 6) (t : Nat) (d : List Desc) {i j : Nat} {l : List Nat}
    (hre : (getEngine s t e).refetch = i :: j :: l) : Resumed s (passTrap t e d (leaveStop t e s)) t e
      { leftStop (getEngine s t e) with refetch := j :: l, again := (getEngine s t e).again ++ d }
      (getObj s t (Obj.engineHead + e)) := by
  have hleft : (getEngine (leaveStop t e s) t e).refetch = i :: j :: l := by
    rw [getEngine_leaveStop]
    exact hre
  rw [passTrap_again d hleft]
  exact (resumed_stop he s t).modEngine fun g => { g with refetch := j :: l, again := g.again ++ d }

/-- Descriptors go before those already fetched. -/
theorem resumed_pushReady (he : e < 6) (s : State) (t : Nat) (l : List Desc) :
    Resumed s (pushReady t e l (leaveStop t e s)) t e
      { leftStop (getEngine s t e) with ready := l ++ (getEngine s t e).ready } (getObj s t (Obj.engineHead + e)) :=
  (resumed_stop he s t).modEngine fun g => { g with ready := l ++ g.ready }

/-- The queue indexes that action 2 fetches again. -/
def rerunSpan (s : State) (t e : Nat) : List Nat :=
  match (getEngine s t e).abandoned with
  | some first => ringSpan first (getEngine s t e).stopIdx (getObj s t (Obj.engineQueueSize + e))
  | none => [(getEngine s t e).stopIdx]

theorem resumeRerun_stopped (h : (getEngine s t e).halt ≠ 5) : resumeRerun t e s =
    leaveStop t e (modEngine t e (fun g => { g with refetch := rerunSpan s t e ++ g.refetch, again := [] }) s) := by
  rw [resumeRerun, if_neg h]
  rfl

theorem resumeRerun_trapped (h : (getEngine s t e).halt = 5) : resumeRerun t e s = leaveStop t e s := by
  rw [resumeRerun, if_pos h]

end

/-- A resume was answered OK, and changed its engine, its head and its mover channels alone. -/
def WentOn (s s' : State) (t e : Nat) (g : EngineS) (h : Nat) : Prop := s'.out = { status := stOk } ∧
  getEngine s' t e = g ∧ (∀ k, k ≠ t * 6 + e → fget ({} : EngineS) s'.engine k = fget {} s.engine k) ∧
  getObj s' t (Obj.engineHead + e) = h ∧ (∀ k ∈ moverKeys t e, getObj s' k.1 k.2 = 0) ∧
  OtherObjects s s' ((t, Obj.engineHead + e) :: moverKeys t e) ∧
  s' = { s with engine := s'.engine, dict := s'.dict, out := s'.out }

theorem answers_resume {cmd : Instr} {s y : State} {t e act : Nat} {g : EngineS} {h : Nat}
    (hc : exec cmd s = run (writeResume t e act) s) (h1 : 1 ≤ act) (h5 : act ≤ 5)
    (hok : resumeOk act (getEngine s t e).halt = true) (hy : resumeEffect t e act (fresh s) = y)
    (hr : Resumed (fresh s) y t e g h) : Answers cmd s (fun s' => WentOn s s' t e g h) := by
  have heffect : writeResume t e act (fresh s) = answer stOk y := by
    rw [writeResume_allowed (s := fresh s) h1 h5 hok, hy]
  refine answers_run hc ?_
  rw [heffect]
  obtain ⟨hengine, hothers, hhead, hmovers, hobjs, hframe⟩ := hr
  refine ⟨?_, hengine, hothers, hhead, hmovers, hobjs, ?_⟩ <;> rw [hframe] <;> rfl

/-! ### Action 4: the engine starts again at its tail -/

section
variable {t e : Nat}

/-- `s'` differs from `s` by engines, mover channels and objects only. -/
def EngineParts (s s' : State) : Prop := s' = { s with engine := s'.engine, mover := s'.mover, dict := s'.dict }

theorem EngineParts.trans {a b c : State} (h : EngineParts a b) (h' : EngineParts b c) : EngineParts a c := by
  unfold EngineParts at *
  rw [h] at h'
  exact h'

theorem engineParts_setObj (u k v : Nat) (s : State) : EngineParts s (setObj u k v s) := rfl
theorem engineParts_modEngine (t e : Nat) (f : EngineS → EngineS) (s : State) : EngineParts s (modEngine t e f s) := rfl
theorem engineParts_modMover (t m : Nat) (f : MoverS → MoverS) (s : State) : EngineParts s (modMover t m f s) := rfl

theorem engineParts_dropOps (t m : Nat) (p : MoverOp → Bool) (s : State) : EngineParts s (dropOps t m p s) :=
  engineParts_modMover t m _ s

theorem engineParts_leaveStop (t e : Nat) (s : State) : EngineParts s (leaveStop t e s) :=
  ((engineParts_modEngine _ _ _ s).trans (engineParts_setObj _ _ _ _)).trans (engineParts_setObj _ _ _ _)

theorem engineParts_dropFetched (t e : Nat) (s : State) : EngineParts s (dropFetched t e s) :=
  ((engineParts_modEngine _ _ _ s).trans (engineParts_dropOps _ _ _ _)).trans (engineParts_setObj _ _ _ _)

/-- The engine's open group is dropped; engines beyond the arrays have none (R232). -/
def groupDropped (t e : Nat) (s : State) : State := if e < 4 then abandonGroup t e s else s

theorem groupDropped_spec (t : Nat) (s : State) (he : e < 6) :
    (getEngine (groupDropped t e s) t e).prog = (getEngine s t e).prog ∧
    getObj (groupDropped t e s) t (Obj.engineTail + e) = getObj s t (Obj.engineTail + e) ∧
    SameWords s (groupDropped t e s) ∧ (groupDropped t e s).out = s.out ∧
    (e < 4 → (getArray (groupDropped t e s) t e).group = none) := by
  have htail : Obj.engineTail + e < 2 ^ 24 ∧ (Obj.engineTail + e) / 256 ≠ 0x400E ∧ sideKey (Obj.engineTail + e) = false :=
    (by decide : ∀ e < 6, Obj.engineTail + e < 2 ^ 24 ∧ (Obj.engineTail + e) / 256 ≠ 0x400E ∧
      sideKey (Obj.engineTail + e) = false) e he
  obtain ⟨hlt, hindex, hside⟩ := htail
  unfold groupDropped
  split
  · next ha =>
    cases hg : (getArray s t e).group with
    | none =>
      have hsame : abandonGroup t e s = s := by simp [abandonGroup, hg]
      rw [hsame]
      exact ⟨rfl, rfl, ⟨rfl, fun _ => rfl, rfl, rfl⟩, rfl, fun _ => hg⟩
    | some g =>
      have hcalm := calm_abandonGroup (t := t) ha hg
      refine ⟨?_, hcalm.objs t _ hlt (by simpa using hindex) hside, hcalm.words, ?_, fun _ => ?_⟩
      · rw [abandonGroup_open hg]
        rw [bump, getEngine_setObj, getEngine_modEngine]
        rfl
      · rw [abandonGroup_open hg]
        rfl
      · rw [getArray_abandonGroup hg]
  · next ha => exact ⟨rfl, rfl, ⟨rfl, fun _ => rfl, rfl, rfl⟩, rfl, fun h => absurd h ha⟩

/-- The STREAM of that group leaves the descriptors in progress. -/
def streamDropped (g : EngineS) : EngineS :=
  { g with prog := g.prog.filter (fun d => d.ended ∨ dOp d.raw ≠ 2), abandoned := none }

@[simp] theorem getEngine_dropOps (t m u e : Nat) (p : MoverOp → Bool) (s : State) :
    getEngine (dropOps t m p s) u e = getEngine s u e := rfl

theorem getEngine_dropFetched (t e : Nat) (s : State) : getEngine (dropFetched t e s) t e =
    { getEngine s t e with ready := [], refetch := [], again := [] } :=
  getEngine_modEngine t e (fun g => { g with ready := [], refetch := [], again := [] }) s

theorem resumeAbort_eq (t e : Nat) (s : State) : resumeAbort t e s = leaveStop t e (dropFetched t e
    (dropOps t (2 * e) opReload (dropOps t (2 * e + 1) opReload
      (modEngine t e streamDropped (groupDropped t e s))))) := rfl

theorem resumeAbort_spec (t : Nat) (s : State) (he : e < 6) :
    let y := resumeAbort t e s
    getEngine y t e = leftStop { streamDropped (getEngine (groupDropped t e s) t e) with
      ready := [], refetch := [], again := [] } ∧
    getObj y t (Obj.engineHead + e) = getObj s t (Obj.engineTail + e) % 2 ^ 32 ∧
    SameWords s y ∧ (e < 4 → (getArray y t e).group = none) := by
  intro y
  obtain ⟨-, htail, ⟨hdram, hbase, hslate, hinkwell⟩, -, hgroup⟩ := groupDropped_spec t s he
  have hy : y = _ := resumeAbort_eq t e s
  generalize groupDropped t e s = x at *
  have hframe : EngineParts x y := by
    rw [hy]
    exact (((engineParts_modEngine _ _ _ x).trans (engineParts_dropOps _ _ _ _)).trans
      (engineParts_dropOps _ _ _ _)).trans ((engineParts_dropFetched _ _ _).trans (engineParts_leaveStop _ _ _))
  have harray : y.array = x.array := by rw [hframe]
  refine ⟨?_, ?_, ?_, fun ha => (congrArg ArrayS.group (getArray_congr harray t e)).trans (hgroup ha)⟩
  · rw [hy, getEngine_leaveStop, getEngine_dropFetched, getEngine_dropOps, getEngine_dropOps, getEngine_modEngine]
  · rw [hy, (resumed_stop he _ t).head, dropFetched, getObj_setObj_same, (resume_keys he).2.1, ← htail]
    rfl
  · rw [hframe]
    exact ⟨hdram, hbase, hslate, hinkwell⟩

end

end Sys2Proof.Machine

/-! ## Proofs: completion and resuming -/

namespace Sys2Proof.Machine

open Sys2Proof

/-! ### COMPLETION_CONSUMED_WRITE (R230) -/

section
variable {s : State} {t e v : Nat}

theorem writeConsumed_idle (h : (getEngine s t e).stallFrom = none) :
    writeConsumed t e v s = storeObj t (Obj.completionConsumed + e) v s := by
  have hidle : (getEngine (setObj t (Obj.completionConsumed + e) v s) t e).stallFrom.isSome = false := by
    rw [getEngine_setObj, h]
    rfl
  rw [writeConsumed, hidle]
  rfl

theorem writeConsumed_stalled {d : Desc} (h : (getEngine s t e).stallFrom ≠ none)
    (hd : (getEngine s t e).prog.find? (fun d => d.ended) = some d) :
    writeConsumed t e v s = answer stOk (completeDesc t e d (setObj t (Obj.completionConsumed + e) v s)) := by
  have hstalled : (getEngine (setObj t (Obj.completionConsumed + e) v s) t e).stallFrom.isSome = true := by
    rw [getEngine_setObj]
    exact Option.isSome_iff_ne_none.mpr h
  rw [writeConsumed, hstalled, if_pos rfl, getEngine_setObj, hd]

end

/-- Settles O36: a completion is followed through what it takes out, counts, records and stops (`completeDesc_spec`);
each action of EngineResume is brought to `Resumed`, which says what leaving a stop may change. -/
theorem completionAndResume : Obligations.CompletionAndResume := by
  refine ⟨?_, ?_, ?_⟩
  · intro t e d s hfind hreplay hclean n p off recorded
    have hended : descriptorComplete t.val e.val (fresh s) = completeDesc t.val e.val d (fresh s) :=
      descriptorComplete_ended hfind
    have hdue : recordDue d = true ↔ recorded := recordDue_iff hreplay
    refine ⟨fun hrec hfull hstall => ?_, fun hspace hoff => answers_run (exec_descriptorComplete t e s) ?_⟩
    · have hstalls : completeDesc t.val e.val d (fresh s) = _ :=
        completeDesc_stalls (s := fresh s) ⟨hdue.mpr hrec, hfull⟩ hstall
      rw [exec_descriptorComplete, run_next, hended, hstalls]
      rfl
    · have hleaves : ¬ (recordDue d = true ∧ ringFull (fresh s) t.val e.val = true) := by
        rw [hdue]
        exact hspace
      obtain ⟨hprog, hstall⟩ := completeDesc_engine e.isLt hleaves
      have hstatus := completeDesc_status e.isLt hleaves
      obtain ⟨hcount, hdram, hinkwell, hrecord, hnone⟩ := completeDesc_spec (s := fresh s) e.isLt hreplay hclean hleaves hoff
      rw [hended]
      generalize completeDesc t.val e.val d (fresh s) = y at *
      exact ⟨hstatus, hprog, hstall, hcount, fun hrec => hrecord (hdue.mpr hrec),
        fun hrec => hnone (Bool.eq_false_iff.mpr fun hd => hrec (hdue.mp hd)), hdram, hinkwell⟩
  · intro t e v s
    have hbits := (completion_widths e.isLt).2.2
    have hv : v.toNat < 2 ^ objBits (Obj.completionConsumed + e.val) := by
      rw [hbits]
      exact v.isLt
    refine ⟨fun hidle => ?_, fun d hstall hfind hspace => ?_⟩
    · exact writesObj_run (exec_completionConsumedWrite t e v s) (writeConsumed_idle hidle)
        (completion_keys e.isLt _ (by decide)).1 hv
    · have hleaves : ¬ (recordDue d = true ∧
          ringFull (setObj t.val (Obj.completionConsumed + e.val) v.toNat (fresh s)) t.val e.val = true) := by
        intro hfull
        have hspace' : ringFull (setObj t.val (Obj.completionConsumed + e.val) v.toNat (fresh s)) t.val e.val = false := hspace
        rw [hspace'] at hfull
        exact Bool.false_ne_true hfull.2
      have heffect : writeConsumed t.val e.val v.toNat (fresh s) = _ := writeConsumed_stalled hstall hfind
      refine answers_run (exec_completionConsumedWrite t e v s) ?_
      obtain ⟨hprog, -⟩ := completeDesc_engine e.isLt hleaves
      have hconsumed := completeDesc_consumed e.isLt hleaves t.val
      rw [getObj_setObj_fits _ hv] at hconsumed
      rw [heffect]
      generalize completeDesc t.val e.val d _ = y at *
      exact ⟨rfl, hprog, hconsumed⟩
  · intro t e s g head size movers left Goes replaced
    have hstop := resumed_stop e.isLt (fresh s) t.val
    refine ⟨fun p hp hbad => ?_, fun hhalt => ?_, fun hhalt hre => ?_, fun i j l hhalt hre => ?_, fun hhalt => ?_,
      fun hhalt => ?_, fun hhalt => ?_, fun hhalt => ?_, fun hhalt hre => ?_, fun h3 h6 => ?_⟩
    · simp only [List.mem_cons, List.not_mem_nil, or_false] at hp
      rcases hp with rfl | rfl | rfl | rfl | rfl
      · exact refuses_run (exec_engineResumeContinue t e s) (writeResume_refused (by decide) (by decide) hbad)
      · exact refuses_run (exec_engineResumeRerun t e s) (writeResume_refused (by decide) (by decide) hbad)
      · exact refuses_run (exec_engineResumeSaveArea t e s) (writeResume_refused (by decide) (by decide) hbad)
      · exact refuses_run (exec_engineResumeAbort t e s) (writeResume_refused (by decide) (by decide) hbad)
      · exact refuses_run (exec_engineResumeReplace t e s) (writeResume_refused (by decide) (by decide) hbad)
    · have hnot : g.halt ≠ 5 := by omega
      have hok : resumeOk 1 g.halt = true := by rcases hhalt with h | h | h <;> rw [h] <;> rfl
      exact answers_resume (exec_engineResumeContinue t e s) (by decide) (by decide) hok (if_neg hnot) hstop
    · have hpast := resumed_passTrap (s := fresh s) e.isLt t.val [] hre
      rw [List.append_nil] at hpast
      exact answers_resume (exec_engineResumeContinue t e s) (by decide) (by decide) (congrArg (resumeOk 1) hhalt) (if_pos hhalt) hpast
    · have hpast := resumed_passTrap_again (s := fresh s) e.isLt t.val [] hre
      rw [List.append_nil] at hpast
      exact answers_resume (exec_engineResumeContinue t e s) (by decide) (by decide) (congrArg (resumeOk 1) hhalt) (if_pos hhalt) hpast
    · exact answers_resume (exec_engineResumeRerun t e s) (by decide) (by decide) (congrArg (resumeOk 2) hhalt)
        (resumeRerun_trapped (s := fresh s) hhalt) hstop
    · have hnot : g.halt ≠ 5 := by omega
      have hok : resumeOk 2 g.halt = true := by rcases hhalt with h | h <;> rw [h] <;> rfl
      exact answers_resume (exec_engineResumeRerun t e s) (by decide) (by decide) hok
        (resumeRerun_stopped (s := fresh s) hnot) (resumed_modEngine_stop e.isLt (fresh s) t.val _)
    · exact answers_resume (exec_engineResumeSaveArea t e s) (by decide) (by decide) (congrArg (resumeOk 3) hhalt) rfl
        (resumed_pushReady e.isLt (fresh s) t.val _)
    · have hnot : g.halt ≠ 5 := by omega
      have hok : resumeOk 5 g.halt = true := by rcases hhalt with h | h <;> rw [h] <;> rfl
      exact answers_resume (exec_engineResumeReplace t e s) (by decide) (by decide) hok (if_neg hnot)
        (resumed_pushReady e.isLt (fresh s) t.val _)
    · exact answers_resume (exec_engineResumeReplace t e s) (by decide) (by decide) (congrArg (resumeOk 5) hhalt) (if_pos hhalt)
        (resumed_passTrap e.isLt t.val _ hre)
    · have hok : resumeOk 4 g.halt = true := by simp [resumeOk, h3, h6]
      have heffect : writeResume t.val e.val 4 (fresh s) = answer stOk (resumeAbort t.val e.val (fresh s)) :=
        writeResume_allowed (s := fresh s) (by decide) (by decide) hok
      obtain ⟨hengine, hhead, hwords, hgroup⟩ := resumeAbort_spec t.val (fresh s) e.isLt
      have hprog := (groupDropped_spec t.val (fresh s) e.isLt).1
      refine answers_run (exec_engineResumeAbort t e s) ?_
      rw [heffect]
      generalize resumeAbort t.val e.val (fresh s) = y at *
      have hleft : getEngine (sameTime s (answer stOk y)) t.val e.val = _ := hengine
      have hmemory : SameMemory s (sameTime s (answer stOk y)) :=
        SameWords.sameMemory ⟨hwords.dram, hwords.base, hwords.slate, hwords.inkwell⟩
      rw [hleft]
      exact ⟨rfl, rfl, rfl, rfl, congrArg (List.filter _) hprog, hhead, hgroup, hmemory⟩

end Sys2Proof.Machine

/-! ## Proofs: engines fetch descriptors -/

namespace Sys2Proof.Machine

open Sys2Proof

/-! ### Responses and fetches of mover channel B (R208, R211) -/

/-- The list of responses of an engine's mover channel B. -/
def fetchKey (t e : Nat) : Nat := t * 256 + (0x10 + (2 * e + 1))

/-- What has a response, whichever its status (R226). -/
def doneWith (x : Reply) (o : MoverOp) : MoverOp :=
  { o with at_ := .done x.status, data := if o.write then o.data else x.data, pois := if o.write then o.pois else x.pois }

theorem takeOp_done {x : Reply} (hst : x.status ≠ stRetry) (t m : Nat) (s : State) :
    takeOp t m x s = modOp t m x.tag (doneWith x) s := by
  simp only [takeOp, hst, false_and, if_false]
  rfl

theorem takeOp_retry {t m : Nat} {x : Reply} {o : MoverOp} {s : State} (hst : x.status = stRetry)
    (hops : (getMover s t m).ops = [o]) (htag : x.tag = o.tag) (hlimit : o.sends < getObj s t Obj.moverRetryLimit) :
    (getMover (takeOp t m x s) t m).ops =
      [{ o with at_ := .retry (s.time.elapsed + (if x.hint = 0 then 1000 else x.hint)) }] := by
  simp [takeOp, modOp, getMover_modMover, hops, htag, hst, hlimit]

theorem ops_modOp (t m tag : Nat) (f : MoverOp → MoverOp) (s : State) :
    (getMover (modOp t m tag f s) t m).ops = (getMover s t m).ops.map (fun o => if o.tag = tag then f o else o) := by
  rw [modOp, getMover_modMover]

theorem ops_dropOps (t m : Nat) (p : MoverOp → Bool) (s : State) :
    (getMover (dropOps t m p s) t m).ops = (getMover s t m).ops.filter (fun o => !p o) := by
  rw [dropOps, getMover_modMover]

section
variable {s : State} {t e : Nat}

theorem fetchReplies_idle (h : fget [] s.replies (fetchKey t e) = []) (fuel : Nat) :
    fetchReplies t (2 * e + 1) fuel s = s := by
  cases fuel with
  | zero => rfl
  | succ fuel =>
    have hnone : ∀ p, takeReply t (2 * e + 1) p s = (none, s) := by
      intro p
      rw [takeReply, show fget [] s.replies (t * 256 + (0x10 + (2 * e + 1))) = [] from h]
      rfl
    rw [fetchReplies, hnone]

/-- The response to the one fetch that is out reaches it. -/
theorem fetchReplies_one {o : MoverOp} {y : Reply} {i : Nat} (hops : (getMover s t (2 * e + 1)).ops = [o])
    (huse : o.use = .fetch i) (h : fget [] s.replies (fetchKey t e) = [y]) (htag : y.tag = o.tag) (fuel : Nat) :
    fetchReplies t (2 * e + 1) (fuel + 1) s =
      takeOp t (2 * e + 1) y { s with replies := fset [] s.replies (fetchKey t e) [] } := by
  have hone : ∀ p, p y = true → takeReply t (2 * e + 1) p s =
      (some y, { s with replies := fset [] s.replies (fetchKey t e) [] }) := by
    intro p hp
    rw [takeReply, show fget [] s.replies (t * 256 + (0x10 + (2 * e + 1))) = [y] from h]
    simp [hp, removeFirst, fetchKey]
  rw [fetchReplies, hone]
  · refine fetchReplies_idle ?_ fuel
    change fget [] (fset [] s.replies (fetchKey t e) []) (fetchKey t e) = []
    exact fget_fset_same _ _ _ _
  · simp [hops, htag, opFetch, huse]

/-- Nothing is fetched. -/
theorem fetchIssue_rests (h : fetchNext s t e = none ∨ moverShut s t = true) (fuel : Nat) : fetchIssue t e fuel s = s := by
  cases fuel with
  | zero => rfl
  | succ fuel =>
    rw [fetchIssue]
    split
    · rfl
    · next u hu =>
      have hshut : moverShut s t = true := h.resolve_left (by rw [hu]; exact nofun)
      refine if_pos (.inr ?_)
      simp [canSend, hshut]

/-- What is fetched is no barrier. -/
theorem fetchNext_ne_barrier : fetchNext s t e ≠ some .barrier := by
  unfold fetchNext
  dsimp only
  split <;> split <;> simp

/-- An engine with nothing to fetch again whose fetches with what it has fetched make eight fetches no more. -/
theorem fetchNext_full (hre : (getEngine s t e).refetch = [])
    (h : 8 ≤ (getEngine s t e).ready.length + ((getMover s t (2 * e + 1)).ops.filter opFetch).length) :
    fetchNext s t e = none := by
  simp only [fetchNext, hre, List.drop_nil]
  exact if_neg fun hmay => absurd hmay.2.1 (by omega)

/-- With eight to go and a descriptor at the head, that is fetched first. -/
theorem fetchNext_head (hre : (getEngine s t e).refetch = []) (hops : (getMover s t (2 * e + 1)).ops = [])
    (hready : (getEngine s t e).ready.length < 8)
    (hhead : getObj s t (Obj.engineHead + e) % max 1 (getObj s t (Obj.engineQueueSize + e)) ≠ getObj s t (Obj.engineTail + e)) :
    fetchNext s t e = some (.fetch (getObj s t (Obj.engineHead + e) % max 1 (getObj s t (Obj.engineQueueSize + e)))) := by
  simp [fetchNext, hre, hops, hready, hhead]

/-- No fetch has its response. -/
theorem fetchConsume_rests (h : ∀ o ∈ (getMover s t (2 * e + 1)).ops, opDone o = false) : fetchConsume t e s = s := by
  have htake : ∀ u, fetchTake t (2 * e + 1) u s = none := by
    intro u
    have hnone : (getMover s t (2 * e + 1)).ops.find? (fun o => o.use == u && opDone o) = none :=
      List.find?_eq_none.mpr fun o ho => by simp [h o ho]
    rw [fetchTake, hnone]
  unfold fetchConsume
  dsimp only
  split
  · rw [htake]
  · split
    · rfl
    · rw [htake]

end

/-! ### Fetches from the Slate, answered at once (R211) -/

theorem sendTake_slate {t m : Nat} {o : MoverOp} {s : State} (huse : o.use ≠ .barrier) (hspace : adSpace o.addr = 2)
    (hw : o.write = false) (h : s.sramErr = []) :
    sendTake t m o s = takeOp t m (slateOp t o (opSent t m o s)).1 (opSent t m o s) := by
  have hclean : (slateOp t o (opSent t m o s)).2 = opSent t m o s := by
    rw [slateOp, hw]
    exact slateScrub_clean (s := opSent t m o s) h _ _ _
  rw [sendTake, sendOp, if_neg huse, if_pos hspace]
  change takeOp t m (slateOp t o (opSent t m o s)).1 (slateOp t o (opSent t m o s)).2 = _
  rw [hclean]

theorem slateStatus_unchanged {t off n : Nat} {s : State} (h : s.sramErr = []) :
    slateStatus s t off n = if slateBad s t off n then stPoisoned else stOk := by
  simp [slateStatus, slateFresh, sramChanged_clean h, slateScrub_clean h]

/-- `o` is the oldest operation of a channel of `y`, which differs from `s` in mover channels and responses only. -/
structure Fetching (s y : State) (t m : Nat) (o : MoverOp) : Prop where
  frame : y = { s with mover := y.mover, replies := y.replies }
  oldest : ∃ rest, (getMover y t m).ops = o :: rest
  older : o.tag < (getMover y t m).nextTag

section
variable {s y : State} {t m e : Nat} {o : MoverOp}

theorem Fetching.getObj (h : Fetching s y t m o) (u k : Nat) : getObj y u k = getObj s u k :=
  getObj_congr (by rw [h.frame]) u k

theorem Fetching.getEngine (h : Fetching s y t m o) (u i : Nat) : getEngine y u i = getEngine s u i :=
  getEngine_congr (by rw [h.frame]) u i

theorem Fetching.sramErr (h : Fetching s y t m o) : y.sramErr = s.sramErr := by rw [h.frame]

/-- A later operation is issued. -/
theorem Fetching.addOp (h : Fetching s y t m o) (x : MoverOp) : Fetching s (addOp t m x y) t m o := by
  obtain ⟨hframe, ⟨rest, hops⟩, holder⟩ := h
  refine ⟨?_, ⟨rest ++ [{ x with tag := (getMover y t m).nextTag }], ?_⟩, ?_⟩
  · rw [hframe]
    rfl
  · simp [Machine.addOp, getMover_modMover, hops]
  · rw [Machine.addOp, getMover_modMover]
    exact Nat.lt_succ_of_lt holder

/-- Another operation changes. -/
theorem Fetching.modOp (h : Fetching s y t m o) {tag : Nat} (hne : o.tag ≠ tag) (f : MoverOp → MoverOp) :
    Fetching s (modOp t m tag f y) t m o := by
  obtain ⟨hframe, ⟨rest, hops⟩, holder⟩ := h
  refine ⟨?_, ⟨rest.map fun o => if o.tag = tag then f o else o, ?_⟩, ?_⟩
  · rw [hframe]
    rfl
  · rw [ops_modOp, hops, List.map_cons, if_neg hne]
  · rw [Machine.modOp, getMover_modMover]
    exact holder

theorem adSpace_queueAddr (s : State) (t e i : Nat) : adSpace (queueAddr s t e i) = adSpace (getObj s t (Obj.engineQueueBase + e)) :=
  adSpace_adPlus _ _

/-- Fetches that follow leave the oldest alone. -/
theorem Fetching.fetchIssue (hs : s.sramErr = []) (hspace : adSpace (Machine.getObj s t (Obj.engineQueueBase + e)) = 2)
    (h : Fetching s y t (2 * e + 1) o) (fuel : Nat) : Fetching s (fetchIssue t e fuel y) t (2 * e + 1) o := by
  induction fuel generalizing y with
  | zero => exact h
  | succ fuel ih =>
    rw [Machine.fetchIssue]
    split
    · exact h
    · next u hu =>
      dsimp only
      split
      · exact h
      · refine ih ?_
        have huse : u ≠ .barrier := by
          rintro rfl
          exact fetchNext_ne_barrier hu
        have haddr : adSpace (queueAddr y t e (useIdx u)) = 2 := by rw [adSpace_queueAddr, h.getObj, hspace]
        have hadded := fun x => h.addOp x
        rw [sendTake_slate huse haddr rfl ((hadded _).sramErr.trans hs)]
        exact ((hadded _).modOp (Nat.ne_of_lt h.older) _).modOp (Nat.ne_of_lt h.older) _

end

/-! ### The descriptor at the head (R210, R211) -/

/-- The index of the descriptor at an engine's head. -/
def headIdx (s : State) (t e : Nat) : Nat :=
  getObj s t (Obj.engineHead + e) % max 1 (getObj s t (Obj.engineQueueSize + e))

/-- The fetch of the descriptor at the head, as it is issued. -/
def headFetch (s : State) (t e : Nat) : MoverOp :=
  { tag := (getMover s t (2 * e + 1)).nextTag, use := .fetch (headIdx s t e), addr := queueAddr s t e (headIdx s t e), len := 64
    pass := fetchPass s t e }

/-- It is sent, and has its response from the Slate. -/
def headRead (s : State) (t e : Nat) : MoverOp :=
  { headFetch s t e with
    at_ := .done (if slateBad s t (adLow (queueAddr s t e (headIdx s t e))) 64 then stPoisoned else stOk)
    data := slateNat s t (adLow (queueAddr s t e (headIdx s t e))) 64
    pois := slatePoisMask s t (adLow (queueAddr s t e (headIdx s t e))) 64, sends := 1 }

section
variable {s y : State} {t e : Nat}

/-- The first of the fetches is that of the head, and has its response. -/
theorem fetching_head (hs : s.sramErr = []) (hspace : adSpace (queueAddr s t e (headIdx s t e)) = 2)
    (hops : (getMover s t (2 * e + 1)).ops = []) :
    Fetching s (sendTake t (2 * e + 1) (headFetch s t e) (addOp t (2 * e + 1) (headFetch s t e) s)) t (2 * e + 1)
      (headRead s t e) := by
  have hsent := sendTake_slate (t := t) (m := 2 * e + 1) (o := headFetch s t e)
    (s := addOp t (2 * e + 1) (headFetch s t e) s) nofun hspace rfl hs
  have hstatus : (slateOp t (headFetch s t e) (opSent t (2 * e + 1) (headFetch s t e) (addOp t (2 * e + 1) (headFetch s t e) s))).1 =
      { tag := (headFetch s t e).tag
        status := if slateBad s t (adLow (queueAddr s t e (headIdx s t e))) 64 then stPoisoned else stOk, write := false
        data := slateNat s t (adLow (queueAddr s t e (headIdx s t e))) 64
        pois := slatePoisMask s t (adLow (queueAddr s t e (headIdx s t e))) 64 } := by
    have hw : (headFetch s t e).write = false := rfl
    have hsent : (opSent t (2 * e + 1) (headFetch s t e) (addOp t (2 * e + 1) (headFetch s t e) s)).sramErr = [] := hs
    rw [slateOp, hw, if_neg Bool.false_ne_true, slateStatus_unchanged hsent, slateScrub_clean hsent]
    rfl
  rw [hsent, hstatus, takeOp_done (by dsimp only; split <;> decide)]
  refine ⟨rfl, ⟨[], ?_⟩, ?_⟩
  · rw [ops_modOp, opSent, ops_modOp, addOp, getMover_modMover, hops]
    simp [doneWith, headRead, headFetch]
  · simp [modOp, opSent, addOp, headRead, headFetch, getMover_modMover]

/-- An engine that has fetched less than eight ahead fetches its head from the Slate at once. -/
theorem fetching_fetchIssue (hs : s.sramErr = []) (hspace : adSpace (queueAddr s t e (headIdx s t e)) = 2)
    (hops : (getMover s t (2 * e + 1)).ops = []) (hshut : moverShut s t = false)
    (hre : (getEngine s t e).refetch = []) (hready : (getEngine s t e).ready.length < 8)
    (hhead : headIdx s t e ≠ getObj s t (Obj.engineTail + e)) :
    Fetching s (fetchIssue t e 8 s) t (2 * e + 1) (headRead s t e) := by
  have hnext := fetchNext_head hre hops hready hhead
  have hcan : canSend s t (2 * e + 1) (headFetch s t e) = true := by
    simp [canSend, hshut, show adSpace (headFetch s t e).addr = 2 from hspace]
  have hmay : ¬ (outstanding (getMover s t (2 * e + 1)) ≥ 64 ∨ ¬ canSend s t (2 * e + 1) (headFetch s t e) = true) := by
    simp [outstanding, hops, hcan]
  have hissue : fetchIssue t e 8 s =
      fetchIssue t e 7 (sendTake t (2 * e + 1) (headFetch s t e) (addOp t (2 * e + 1) (headFetch s t e) s)) := by
    rw [fetchIssue, hnext]
    exact if_neg hmay
  rw [hissue]
  exact (fetching_head hs hspace hops).fetchIssue hs (by rw [← adSpace_queueAddr, hspace]) 7

/-- The fetch of the head is taken out of the channel. -/
def fetchTaken (t e tag : Nat) (s : State) : State := dropOps t (2 * e + 1) (fun x => decide (x.tag = tag)) s

/-- The descriptor at the head is ready, and the head moves on. -/
def headTaken (t e raw : Nat) (s : State) : State :=
  setObj t (Obj.engineHead + e) ((headIdx s t e + 1) % max 1 (getObj s t (Obj.engineQueueSize + e)))
    (modEngine t e (fun g => { g with ready := g.ready ++ [mkDesc s t e (headIdx s t e) raw] }) s)

/-- What becomes of the fetch of the head. -/
def headGiven (t e : Nat) (o : MoverOp) (s : State) : State :=
  if opStatus o ≠ stOk then
    trapEngine t e (headIdx s t e) (opStatus o) (dropOps t (2 * e + 1) opFetch (fetchTaken t e o.tag s))
  else headTaken t e o.data (fetchTaken t e o.tag s)

theorem fetchConsume_head {o : MoverOp} {rest : List MoverOp} (hre : (getEngine s t e).refetch = [])
    (hready : (getEngine s t e).ready.length < 8) (hhead : headIdx s t e ≠ getObj s t (Obj.engineTail + e))
    (hops : (getMover s t (2 * e + 1)).ops = o :: rest) (huse : o.use = .fetch (headIdx s t e)) (hdone : opDone o = true) :
    fetchConsume t e s = headGiven t e o s := by
  have hmay : ¬ (headIdx s t e = getObj s t (Obj.engineTail + e) ∨ (getEngine s t e).ready.length ≥ 8) := by
    simp [hhead, hready]
  have htake : fetchTake t (2 * e + 1) (.fetch (headIdx s t e)) s = some (o, fetchTaken t e o.tag s) := by
    rw [fetchTake, hops, List.find?_cons_of_pos (by simp [huse, hdone])]
    rfl
  have hconsume : fetchConsume t e s =
      match fetchTake t (2 * e + 1) (.fetch (headIdx s t e)) s with
      | none => s
      | some (o, s1) =>
        if opStatus o ≠ stOk then trapEngine t e (headIdx s t e) (opStatus o) (dropOps t (2 * e + 1) opFetch s1)
        else setObj t (Obj.engineHead + e) ((headIdx s t e + 1) % max 1 (getObj s1 t (Obj.engineQueueSize + e)))
          (modEngine t e (fun g => { g with ready := g.ready ++ [mkDesc s1 t e (headIdx s t e) o.data] }) s1) := by
    rw [fetchConsume, hre]
    exact if_neg hmay
  rw [hconsume, htake]
  rfl

end

/-! ### A fetch that fails (R212) -/

/-- The objects that a trap speaks of. -/
theorem trap_keys {e : Nat} (he : e < 6) :
    (Obj.fetchTraps + e < 2 ^ 24 ∧ sideKey (Obj.fetchTraps + e) = false ∧ objBits (Obj.fetchTraps + e) = 32) ∧
    (Obj.engineHead + e < 2 ^ 24 ∧ sideKey (Obj.engineHead + e) = false) ∧
    sideKey (Obj.engineStopAddress + e) = false ∧ sideKey (Obj.engineStopStatus + e) = false :=
  (by decide : ∀ e < 6,
    (Obj.fetchTraps + e < 2 ^ 24 ∧ sideKey (Obj.fetchTraps + e) = false ∧ objBits (Obj.fetchTraps + e) = 32) ∧
    (Obj.engineHead + e < 2 ^ 24 ∧ sideKey (Obj.engineHead + e) = false) ∧
    sideKey (Obj.engineStopAddress + e) = false ∧ sideKey (Obj.engineStopStatus + e) = false) e he

/-- A failed fetch is reported. -/
def trapReport (t e idx st : Nat) (s : State) : State :=
  addLog t 0x04 1 st (idx % 2 ^ 32 + fld 32 8 st) e (if st = stUncorrectable ∨ st = stPoisoned then ring t 7 s else s)

/-- It is counted, and its interrupt is raised. -/
def trapCounted (t e : Nat) (s : State) : State :=
  modEngine t e (fun g => { g with trapIrq := true }) (bump t (Obj.fetchTraps + e) 1 s)

theorem side_trapReport (t e idx st : Nat) (s : State) : Side s (trapReport t e idx st s) := by
  refine Side.trans ?_ (side_addLog _ _ _ _ _ _ _)
  split
  · exact side_ring t 7 s
  · exact .refl s

/-- The engine in its trap, but for the doorbell that the stop may ring. -/
def trapped (t e idx st : Nat) (s : State) : State := haltedAt t e 5 idx st (trapCounted t e (trapReport t e idx st s))

section
variable {s : State} {t e idx st : Nat}

theorem engine_trapReport (s : State) (t e idx st : Nat) : (trapReport t e idx st s).engine = s.engine := by
  rw [(side_trapReport t e idx st s).fields]

theorem trapEngine_enters (h : (getEngine s t e).halt = 0) : Side (trapped t e idx st s) (trapEngine t e idx st s) := by
  refine haltEngine_enters (s := trapCounted t e (trapReport t e idx st s)) ?_ idx st
  rw [trapCounted, getEngine_modEngine t e (fun g => { g with trapIrq := true })]
  change ¬ ((getEngine (trapReport t e idx st s) t e).halt ≠ 0 ∧ _)
  rw [getEngine_congr (engine_trapReport s t e idx st)]
  exact fun hne => hne.1 h

theorem getEngine_trapped (s : State) (t e idx st : Nat) : getEngine (trapped t e idx st s) t e =
    { getEngine s t e with trapIrq := true, halt := 5, stopSoon := 0, stopIdx := idx } := by
  rw [trapped, haltedAt, getEngine_setObj, getEngine_setObj,
    getEngine_modEngine t e (fun g => { g with halt := 5, stopSoon := 0, stopIdx := idx }), trapCounted,
    getEngine_modEngine t e (fun g => { g with trapIrq := true })]
  change { getEngine (trapReport t e idx st s) t e with trapIrq := true, halt := 5, stopSoon := 0, stopIdx := idx } = _
  rw [getEngine_congr (engine_trapReport s t e idx st)]

theorem fget_engine_trapped {k : Nat} (hk : k ≠ t * 6 + e) (s : State) :
    fget ({} : EngineS) (trapped t e idx st s).engine k = fget {} s.engine k := by
  have hreport := engine_trapReport s t e idx st
  calc fget ({} : EngineS) (trapped t e idx st s).engine k
    _ = fget {} (trapCounted t e (trapReport t e idx st s)).engine k :=
      fget_engine_modEngine hk (fun g => { g with halt := 5, stopSoon := 0, stopIdx := idx }) _
    _ = fget {} (trapReport t e idx st s).engine k := fget_engine_modEngine hk (fun g => { g with trapIrq := true }) _
    _ = fget {} s.engine k := by rw [hreport]

theorem calm_trapped (he : e < 6) : Calm (fun _ => true) s (trapped t e idx st s) := by
  have hcounted : Calm (fun _ => true) (trapReport t e idx st s) (trapCounted t e (trapReport t e idx st s)) :=
    (Calm.bump (.refl _ _) (trap_keys he).1.1 rfl).same rfl
  exact ((side_trapReport t e idx st s).calm.trans hcounted).trans
    ((stops_haltedAt he t 5 idx st _).toCalm.mono nofun)

end

/-- The stop point of a trap, the count of traps and the head of the queue. -/
theorem trapped_objs {s : State} {t e idx st : Nat} (he : e < 6) (hst : st < 256) :
    getObj (trapped t e idx st s) t (Obj.engineHead + e) = getObj s t (Obj.engineHead + e) ∧
    getObj (trapped t e idx st s) t (Obj.engineStopAddress + e) = idx % 2 ^ 32 ∧
    getObj (trapped t e idx st s) t (Obj.engineStopStatus + e) = st ∧
    getObj (trapped t e idx st s) t (Obj.fetchTraps + e) = (getObj s t (Obj.fetchTraps + e) + 1) % 2 ^ 32 := by
  obtain ⟨⟨htraps, htrapsSide, htrapsBits⟩, ⟨hhead, hheadSide⟩, -, -⟩ := trap_keys he
  obtain ⟨⟨haddr, -, haddrBits⟩, hstat, -, hstatBits⟩ := stopPoint_keys he
  have hreport := side_trapReport t e idx st s
  have hdistinct := (by decide : ∀ e < 6, Obj.engineHead + e ≠ Obj.engineStopAddress + e ∧
    Obj.engineHead + e ≠ Obj.engineStopStatus + e ∧ Obj.engineHead + e ≠ Obj.fetchTraps + e ∧
    Obj.fetchTraps + e ≠ Obj.engineStopAddress + e ∧ Obj.fetchTraps + e ≠ Obj.engineStopStatus + e ∧
    Obj.engineStopStatus + e ≠ Obj.engineStopAddress + e) e he
  obtain ⟨hha, hhs, hht, hta, hts, hsa⟩ := hdistinct
  have hhalted : ∀ k, k < 2 ^ 24 → k ≠ Obj.engineStopAddress + e → k ≠ Obj.engineStopStatus + e →
      getObj (trapped t e idx st s) t k = getObj (bump t (Obj.fetchTraps + e) 1 (trapReport t e idx st s)) t k := by
    intro k hk h1 h2
    rw [trapped, haltedAt, getObj_setObj_obj _ h1 hk haddr, getObj_setObj_obj _ h2 hk hstat]
    exact getObj_congr rfl t k
  refine ⟨?_, ?_, ?_, ?_⟩
  · rw [hhalted _ hhead hha hhs, bump, getObj_setObj_obj _ hht hhead htraps, hreport.objs t _ hhead hheadSide]
  · rw [trapped, haltedAt, getObj_setObj_same, haddrBits]
  · rw [trapped, haltedAt, getObj_setObj_obj _ hsa hstat haddr, getObj_setObj_fits]
    rw [hstatBits]
    exact hst
  · rw [hhalted _ htraps hta hts, bump, getObj_setObj_same, htrapsBits, hreport.objs t _ htraps htrapsSide]

/-! ### The command DESCRIPTOR_FETCH -/

/-- A state after the command took the descriptor `raw` at the head. -/
def TookHead (s s' : State) (t e raw : Nat) : Prop :=
  (∀ k, k ≠ t * 6 + e → fget ({} : EngineS) s'.engine k = fget {} s.engine k) ∧
  getEngine s' t e = { getEngine s t e with ready := (getEngine s t e).ready ++ [mkDesc s t e (headIdx s t e) raw] } ∧
  getObj s' t (Obj.engineHead + e) = (headIdx s t e + 1) % max 1 (getObj s t (Obj.engineQueueSize + e)) % 2 ^ 32 ∧
  OtherObjects s s' [(t, Obj.engineHead + e)] ∧
  s' = { s with engine := s'.engine, dict := s'.dict, mover := s'.mover, replies := s'.replies, out := {} }

/-- A state after the fetch of the head trapped the engine. -/
def TrappedHead (s s' : State) (t e st : Nat) : Prop :=
  (∀ k, k ≠ t * 6 + e → fget ({} : EngineS) s'.engine k = fget {} s.engine k) ∧ (getEngine s' t e).halt = 5 ∧
  (getEngine s' t e).ready = (getEngine s t e).ready ∧ (getEngine s' t e).stopIdx = headIdx s t e ∧
  getObj s' t (Obj.engineHead + e) = getObj s t (Obj.engineHead + e) ∧
  getObj s' t (Obj.engineStopAddress + e) = headIdx s t e % 2 ^ 32 ∧ getObj s' t (Obj.engineStopStatus + e) = st ∧
  getObj s' t (Obj.fetchTraps + e) = (getObj s t (Obj.fetchTraps + e) + 1) % 2 ^ 32 ∧ SameMemory s s'

/-- `y` differs from `s` in mover channels, responses and outputs only. -/
def FetchParts (s y : State) : Prop := y = { s with mover := y.mover, replies := y.replies, out := {} }

section
variable {s y : State} {t e : Nat}

theorem FetchParts.dict (h : FetchParts s y) : y.dict = s.dict := by rw [h]
theorem FetchParts.engine (h : FetchParts s y) : y.engine = s.engine := by rw [h]

theorem FetchParts.headIdx (h : FetchParts s y) (t e : Nat) : headIdx y t e = headIdx s t e := by
  rw [Machine.headIdx, getObj_congr h.dict, getObj_congr h.dict]
  rfl

theorem FetchParts.mkDesc (h : FetchParts s y) (t e i raw : Nat) : mkDesc y t e i raw = mkDesc s t e i raw := by
  rw [Machine.mkDesc, queueAddr, getObj_congr h.dict]
  rfl

theorem FetchParts.dropOps (h : FetchParts s y) (t m : Nat) (p : MoverOp → Bool) : FetchParts s (dropOps t m p y) := by
  rw [h]
  rfl

theorem tookHead_headTaken (he : e < 6) (h : FetchParts s y) (raw : Nat) :
    TookHead s (sameTime s (headTaken t e raw y)) t e raw := by
  obtain ⟨hkey, hbits, -⟩ := resume_keys he
  refine ⟨fun k hk => ?_, ?_, ?_, ?_, ?_⟩
  · have hkept := fget_engine_modEngine hk
      (fun g => { g with ready := g.ready ++ [Machine.mkDesc y t e (Machine.headIdx y t e) raw] }) y
    rw [h.engine] at hkept
    exact hkept
  · rw [getEngine_sameTime, headTaken, getEngine_setObj,
      getEngine_modEngine t e (fun g => { g with ready := g.ready ++ [Machine.mkDesc y t e (Machine.headIdx y t e) raw] }),
      getEngine_congr h.engine, h.mkDesc, h.headIdx]
  · rw [getObj_sameTime, headTaken, getObj_setObj_same, hbits, h.headIdx, getObj_congr h.dict]
  · refine otherObjects_set (v := (Machine.headIdx y t e + 1) % max 1 (getObj y t (Obj.engineQueueSize + e))) ?_ hkey
    rw [setObj, ← h.dict]
    rfl
  · rw [h]
    rfl

theorem trappedHead_trapEngine (he : e < 6) (h : FetchParts s y) (hhalt : (getEngine s t e).halt = 0) {st : Nat} (hst : st < 256) :
    TrappedHead s (sameTime s (trapEngine t e (headIdx y t e) st y)) t e st := by
  have henters := trapEngine_enters (s := y) (t := t) (e := e) (idx := Machine.headIdx y t e) (st := st)
    (by rw [getEngine_congr h.engine]; exact hhalt)
  obtain ⟨⟨htraps, htrapsSide, -⟩, ⟨hhead, hheadSide⟩, haddrSide, hstatSide⟩ := trap_keys he
  obtain ⟨⟨haddr, -⟩, hstat, -⟩ := stopPoint_keys he
  obtain ⟨hheadV, haddrV, hstatV, htrapsV⟩ := trapped_objs (s := y) (t := t) (idx := Machine.headIdx y t e) he hst
  have hengine : (trapEngine t e (Machine.headIdx y t e) st y).engine = (trapped t e (Machine.headIdx y t e) st y).engine := by
    rw [henters.fields]
  have hthis : getEngine (trapEngine t e (Machine.headIdx y t e) st y) t e =
      { getEngine s t e with trapIrq := true, halt := 5, stopSoon := 0, stopIdx := Machine.headIdx s t e } := by
    rw [getEngine_congr hengine, getEngine_trapped, getEngine_congr h.engine, h.headIdx]
  have hwords := ((calm_trapped he).trans henters.calm).words.sameMemory
  generalize trapEngine t e (Machine.headIdx y t e) st y = z at *
  refine ⟨fun k hk => ?_, ?_, ?_, ?_, ?_, ?_, ?_, ?_, ?_⟩
  · change fget ({} : EngineS) z.engine k = _
    rw [hengine, fget_engine_trapped hk, h.engine]
  · rw [getEngine_sameTime, hthis]
  · rw [getEngine_sameTime, hthis]
  · rw [getEngine_sameTime, hthis]
  · rw [getObj_sameTime, henters.objs t _ hhead hheadSide, hheadV, getObj_congr h.dict]
  · rw [getObj_sameTime, henters.objs t _ haddr haddrSide, haddrV, h.headIdx]
  · rw [getObj_sameTime, henters.objs t _ hstat hstatSide, hstatV]
  · rw [getObj_sameTime, henters.objs t _ htraps htrapsSide, htrapsV, getObj_congr h.dict]
  · have hsame : SameMemory s y := by
      rw [h]
      exact sameMemory_of rfl rfl rfl rfl
    exact (hsame.trans hwords).trans (sameMemory_of rfl rfl rfl rfl)

end

section
variable {s y : State} {t e : Nat} {o : MoverOp}

theorem FetchParts.fetchTaken (h : FetchParts s y) (t e tag : Nat) : FetchParts s (fetchTaken t e tag y) := h.dropOps t _ _

theorem tookHead_headGiven (he : e < 6) (h : FetchParts s y) (hst : opStatus o = stOk) :
    TookHead s (sameTime s (headGiven t e o y)) t e o.data := by
  rw [headGiven, if_neg (not_not_intro hst)]
  exact tookHead_headTaken he (h.fetchTaken t e o.tag) o.data

theorem trappedHead_headGiven (he : e < 6) (h : FetchParts s y) (hhalt : (getEngine s t e).halt = 0) (hne : opStatus o ≠ stOk)
    (hst : opStatus o < 256) : TrappedHead s (sameTime s (headGiven t e o y)) t e (opStatus o) := by
  have hdropped : FetchParts s (dropOps t (2 * e + 1) opFetch (fetchTaken t e o.tag y)) :=
    (h.fetchTaken t e o.tag).dropOps t _ _
  rw [headGiven, if_pos hne, h.headIdx, ← hdropped.headIdx]
  exact trappedHead_trapEngine he hdropped hhalt hst

/-- With no response to fetches, an engine that does not run rests. -/
theorem descriptorFetch_rests (hcame : fget [] s.replies (fetchKey t e) = [])
    (h : ¬ (flag s t (Obj.engineEnable + e) = true ∧ (getEngine s t e).halt = 0)) : descriptorFetch t e s = s := by
  rw [descriptorFetch, fetchReplies_idle hcame]
  exact if_pos (by tauto)

/-- One that runs fetches unless it will stop, and takes what it can. -/
theorem descriptorFetch_runs (hreplies : fetchReplies t (2 * e + 1) 64 s = y)
    (hrun : flag y t (Obj.engineEnable + e) = true ∧ (getEngine y t e).halt = 0) :
    descriptorFetch t e s = fetchConsume t e (if (getEngine y t e).stopSoon = 0 then fetchIssue t e 8 y else y) := by
  rw [descriptorFetch, hreplies]
  exact if_neg (by tauto)

/-- Nothing can be fetched, and no fetch is out. -/
theorem descriptorFetch_stuck (hcame : fget [] s.replies (fetchKey t e) = []) (hops : (getMover s t (2 * e + 1)).ops = [])
    (h : ¬ (flag s t (Obj.engineEnable + e) = true ∧ (getEngine s t e).halt = 0) ∨ (getEngine s t e).stopSoon ≠ 0 ∨
      moverShut s t = true ∨ fetchNext s t e = none) : descriptorFetch t e s = s := by
  by_cases hrun : flag s t (Obj.engineEnable + e) = true ∧ (getEngine s t e).halt = 0
  · have hissue : (if (getEngine s t e).stopSoon = 0 then fetchIssue t e 8 s else s) = s := by
      split
      · next hsoon =>
        refine fetchIssue_rests ?_ 8
        obtain h | h | h | h := h
        · exact absurd hrun h
        · exact absurd hsoon h
        · exact .inr h
        · exact .inl h
      · rfl
    rw [descriptorFetch_runs (fetchReplies_idle hcame 64) hrun, hissue]
    exact fetchConsume_rests (by simp [hops])
  · exact descriptorFetch_rests hcame hrun

/-- From the Slate, the descriptor at the head is there at once. -/
theorem descriptorFetch_slate (hs : s.sramErr = []) (hspace : adSpace (queueAddr s t e (headIdx s t e)) = 2)
    (hcame : fget [] s.replies (fetchKey t e) = []) (hops : (getMover s t (2 * e + 1)).ops = [])
    (hrun : flag s t (Obj.engineEnable + e) = true ∧ (getEngine s t e).halt = 0) (hsoon : (getEngine s t e).stopSoon = 0)
    (hshut : moverShut s t = false) (hre : (getEngine s t e).refetch = []) (hready : (getEngine s t e).ready.length < 8)
    (hhead : headIdx s t e ≠ getObj s t (Obj.engineTail + e)) :
    ∃ y, y = { s with mover := y.mover, replies := y.replies } ∧ descriptorFetch t e s = headGiven t e (headRead s t e) y := by
  have hfetch := fetching_fetchIssue hs hspace hops hshut hre hready hhead
  refine ⟨fetchIssue t e 8 s, hfetch.frame, ?_⟩
  have hidx : headIdx (fetchIssue t e 8 s) t e = headIdx s t e := by
    rw [headIdx, hfetch.getObj, hfetch.getObj]
    rfl
  obtain ⟨rest, hrest⟩ := hfetch.oldest
  rw [descriptorFetch_runs (fetchReplies_idle hcame 64) hrun, if_pos hsoon]
  refine fetchConsume_head ?_ ?_ ?_ hrest ?_ rfl
  · rw [hfetch.getEngine, hre]
  · rw [hfetch.getEngine]
    exact hready
  · rw [hidx, hfetch.getObj]
    exact hhead
  · rw [hidx]
    rfl

/-- The state as the one response to a fetch reaches it. -/
def fetchArrived (t e : Nat) (x : Reply) (s : State) : State :=
  takeOp t (2 * e + 1) x { s with replies := fset [] s.replies (fetchKey t e) [] }

theorem fetchArrived_done {x : Reply} (hops : (getMover s t (2 * e + 1)).ops = [o]) (htag : x.tag = o.tag)
    (hst : x.status ≠ stRetry) : (getMover (fetchArrived t e x s) t (2 * e + 1)).ops = [doneWith x o] := by
  rw [fetchArrived, takeOp_done hst, ops_modOp]
  change (getMover s t (2 * e + 1)).ops.map _ = _
  rw [hops, List.map_singleton, if_pos htag.symm]

/-- The fetch of the head is the one that is out, of an engine that has fetched seven ahead, and its response has come. -/
structure LastOut (s : State) (t e : Nat) (o : MoverOp) (x : Reply) : Prop where
  running : flag s t (Obj.engineEnable + e) = true ∧ (getEngine s t e).halt = 0
  queue : (getEngine s t e).refetch = []
  waits : headIdx s t e ≠ getObj s t (Obj.engineTail + e)
  seven : (getEngine s t e).ready.length = 7
  one : (getMover s t (2 * e + 1)).ops = [o]
  use : o.use = .fetch (headIdx s t e)
  read : o.write = false
  came : fget [] s.replies (fetchKey t e) = [x]
  tag : x.tag = o.tag

/-- That response reaches it, and no further fetch is issued. -/
theorem descriptorFetch_arrives {x : Reply} {o' : MoverOp} (h : LastOut s t e o x)
    (hafter : (getMover (fetchArrived t e x s) t (2 * e + 1)).ops = [o']) (hfetch : opFetch o' = true) :
    descriptorFetch t e s = fetchConsume t e (fetchArrived t e x s) := by
  have hengine : getEngine (fetchArrived t e x s) t e = getEngine s t e := getEngine_congr rfl t e
  have hfull : fetchNext (fetchArrived t e x s) t e = none := by
    refine fetchNext_full ?_ ?_
    · rw [hengine, h.queue]
    · simp [hengine, h.seven, hafter, hfetch]
  have hrun : flag (fetchArrived t e x s) t (Obj.engineEnable + e) = true ∧ (getEngine (fetchArrived t e x s) t e).halt = 0 := by
    rw [hengine, flag, getObj_congr (show (fetchArrived t e x s).dict = s.dict from rfl)]
    exact h.running
  rw [descriptorFetch_runs (fetchReplies_one h.one h.use h.came h.tag 63) hrun]
  refine congrArg (fetchConsume t e) ?_
  split
  · exact fetchIssue_rests (.inl hfull) 8
  · rfl

/-- With a status other than RETRY, the fetch of the head is over. -/
theorem descriptorFetch_done {x : Reply} (h : LastOut s t e o x) (hst : x.status ≠ stRetry) :
    descriptorFetch t e s = headGiven t e (doneWith x o) (fetchArrived t e x s) := by
  have hafter := fetchArrived_done (e := e) h.one h.tag hst
  have hdict : (fetchArrived t e x s).dict = s.dict := rfl
  have hengine : getEngine (fetchArrived t e x s) t e = getEngine s t e := getEngine_congr rfl t e
  have hidx : headIdx (fetchArrived t e x s) t e = headIdx s t e := by
    rw [headIdx, getObj_congr hdict, getObj_congr hdict]
    rfl
  rw [descriptorFetch_arrives h hafter (by simp [opFetch, doneWith, h.use])]
  refine fetchConsume_head ?_ ?_ ?_ hafter ?_ rfl
  · rw [hengine, h.queue]
  · rw [hengine, h.seven]
    decide
  · rw [hidx, getObj_congr hdict]
    exact h.waits
  · rw [hidx]
    exact h.use

/-- With RETRY, it waits to be sent again. -/
theorem descriptorFetch_retry {x : Reply} (h : LastOut s t e o x) (hst : x.status = stRetry)
    (hlimit : o.sends < getObj s t Obj.moverRetryLimit) :
    descriptorFetch t e s = fetchArrived t e x s ∧ (getMover (fetchArrived t e x s) t (2 * e + 1)).ops =
      [{ o with at_ := .retry (s.time.elapsed + (if x.hint = 0 then 1000 else x.hint)) }] := by
  have hafter : (getMover (fetchArrived t e x s) t (2 * e + 1)).ops =
      [{ o with at_ := .retry (s.time.elapsed + (if x.hint = 0 then 1000 else x.hint)) }] :=
    takeOp_retry (s := { s with replies := fset [] s.replies (fetchKey t e) [] }) hst h.one h.tag hlimit
  refine ⟨?_, hafter⟩
  rw [descriptorFetch_arrives h hafter (by simp [opFetch, h.use])]
  refine fetchConsume_rests ?_
  rw [hafter]
  simp [opDone]

/-- Neither the operation taken nor its response is left. -/
theorem headGiven_empties (hst : opStatus o = stOk) (hops : (getMover s t (2 * e + 1)).ops = [o]) :
    (getMover (headGiven t e o s) t (2 * e + 1)).ops = [] ∧ (headGiven t e o s).replies = s.replies := by
  rw [headGiven, if_neg (not_not_intro hst)]
  refine ⟨?_, rfl⟩
  change (getMover (fetchTaken t e o.tag s) t (2 * e + 1)).ops = []
  rw [fetchTaken, ops_dropOps, hops]
  simp

end

section
variable {s : State} {t : TileN} {e : EngineN}

/-- What is asked of an engine that fetches its head at once. -/
structure MayFetch (s : State) (t e : Nat) : Prop where
  running : flag s t (Obj.engineEnable + e) = true ∧ (getEngine s t e).halt = 0
  goesOn : (getEngine s t e).stopSoon = 0
  isOpen : moverShut s t = false
  queue : (getEngine s t e).refetch = []
  waits : headIdx s t e ≠ getObj s t (Obj.engineTail + e)
  room : (getEngine s t e).ready.length < 8
  idle : (getMover s t (2 * e + 1)).ops = []
  none_came : fget [] s.replies (fetchKey t e) = []

theorem fetched_slate (h : MayFetch s t.val e.val) (hspace : adSpace (queueAddr s t.val e.val (headIdx s t.val e.val)) = 2)
    (hs : s.sramErr = []) : ∃ y, FetchParts s y ∧
      descriptorFetch t.val e.val (fresh s) = headGiven t.val e.val (headRead s t.val e.val) y := by
  obtain ⟨y, hframe, heq⟩ := descriptorFetch_slate (s := fresh s) (t := t.val) (e := e.val) hs hspace h.none_came h.idle
    h.running h.goesOn h.isOpen h.queue h.room h.waits
  exact ⟨y, hframe, heq⟩

theorem answers_fetch_good (h : MayFetch s t.val e.val) (hspace : adSpace (queueAddr s t.val e.val (headIdx s t.val e.val)) = 2)
    (hs : s.sramErr = []) (hgood : slateBad s t.val (adLow (queueAddr s t.val e.val (headIdx s t.val e.val))) 64 = false) :
    Answers (.descriptorFetch t e) s (fun s' => TookHead s s' t.val e.val
      (slateNat s t.val (adLow (queueAddr s t.val e.val (headIdx s t.val e.val))) 64)) := by
  obtain ⟨y, hy, heq⟩ := fetched_slate h hspace hs
  refine answers_run (exec_descriptorFetch t e s) ?_
  rw [heq]
  refine tookHead_headGiven e.isLt hy ?_
  rw [headRead, hgood]
  rfl

theorem answers_fetch_bad (h : MayFetch s t.val e.val) (hspace : adSpace (queueAddr s t.val e.val (headIdx s t.val e.val)) = 2)
    (hs : s.sramErr = []) (hbad : slateBad s t.val (adLow (queueAddr s t.val e.val (headIdx s t.val e.val))) 64 = true) :
    Answers (.descriptorFetch t e) s (fun s' => TrappedHead s s' t.val e.val stPoisoned) := by
  obtain ⟨y, hy, heq⟩ := fetched_slate h hspace hs
  have hst : opStatus (headRead s t.val e.val) = stPoisoned := by
    rw [headRead, hbad]
    rfl
  refine answers_run (exec_descriptorFetch t e s) ?_
  rw [heq, ← hst]
  refine trappedHead_headGiven e.isLt hy h.running.2 ?_ ?_ <;> rw [hst] <;> decide

theorem LastOut.fresh {o : MoverOp} {x : Reply} (h : LastOut s t.val e.val o x) : LastOut (fresh s) t.val e.val o x :=
  ⟨h.running, h.queue, h.waits, h.seven, h.one, h.use, h.read, h.came, h.tag⟩

theorem fetchParts_arrived (s : State) (t e : Nat) (x : Reply) : FetchParts s (fetchArrived t e x (fresh s)) := rfl

theorem answers_fetch_ok {o : MoverOp} {x : Reply} (h : LastOut s t.val e.val o x) (hst : x.status = stOk) :
    Answers (.descriptorFetch t e) s (fun s' => TookHead s s' t.val e.val x.data ∧
      (getMover s' t.val (2 * e.val + 1)).ops = [] ∧ fget [] s'.replies (fetchKey t.val e.val) = []) := by
  have hne : x.status ≠ stRetry := by
    rw [hst]
    decide
  have hdata : (doneWith x o).data = x.data := by simp [doneWith, h.read]
  obtain ⟨hempty, hreplies⟩ := headGiven_empties (t := t.val) (o := doneWith x o) hst
    (fetchArrived_done h.fresh.one h.fresh.tag hne)
  have htook := tookHead_headGiven (t := t.val) (o := doneWith x o) e.isLt (fetchParts_arrived s t.val e.val x) hst
  rw [hdata] at htook
  refine answers_run (exec_descriptorFetch t e s) ?_
  rw [descriptorFetch_done h.fresh hne]
  generalize headGiven t.val e.val (doneWith x o) (fetchArrived t.val e.val x (Machine.fresh s)) = z at *
  refine ⟨htook, hempty, ?_⟩
  change fget [] z.replies _ = []
  rw [hreplies]
  change fget [] (fset [] s.replies (fetchKey t.val e.val) []) (fetchKey t.val e.val) = []
  exact fget_fset_same _ _ _ _

theorem answers_fetch_failed {o : MoverOp} {x : Reply} (h : LastOut s t.val e.val o x) (hok : x.status ≠ stOk)
    (hretry : x.status ≠ stRetry) (hst : x.status < 256) :
    Answers (.descriptorFetch t e) s (fun s' => TrappedHead s s' t.val e.val x.status) := by
  refine answers_run (exec_descriptorFetch t e s) ?_
  rw [descriptorFetch_done h.fresh hretry]
  exact trappedHead_headGiven (o := doneWith x o) e.isLt (fetchParts_arrived s t.val e.val x) h.running.2 hok hst

theorem answers_fetch_retry {o : MoverOp} {x : Reply} (h : LastOut s t.val e.val o x) (hst : x.status = stRetry)
    (hlimit : o.sends < getObj s t.val Obj.moverRetryLimit) :
    Answers (.descriptorFetch t e) s (fun s' =>
      (getMover s' t.val (2 * e.val + 1)).ops =
        [{ o with at_ := .retry (s.time.elapsed + (if x.hint = 0 then 1000 else x.hint)) }] ∧
      s' = { s with mover := s'.mover, replies := s'.replies, out := {} }) := by
  obtain ⟨heq, hafter⟩ := descriptorFetch_retry h.fresh hst hlimit
  refine answers_run (exec_descriptorFetch t e s) ?_
  rw [heq]
  exact ⟨hafter, rfl⟩

end

/-- Settles O28: from the Slate the fetch of the head is answered as it is issued, and those that follow leave it the
oldest; a response from elsewhere ends the one fetch that is out. -/
theorem descriptorFetches : Obligations.DescriptorFetches := by
  intro t e s g size head a x came runs waits may Others Takes Traps
  have hmay : may → MayFetch s t.val e.val := fun ⟨hrun, hsoon, hshut, ⟨hre, hhead⟩, hready, hops, hcame⟩ =>
    ⟨hrun, hsoon, hshut, hre, hhead, hready, hops, hcame⟩
  refine ⟨?_, ?_, ?_, ?_⟩
  · intro hops hcame h
    exact noEffect_run (exec_descriptorFetch t e s) (descriptorFetch_stuck (s := fresh s) hcame hops h)
  · intro h hspace hs hgood
    exact answers_fetch_good (hmay h) hspace hs hgood
  · intro h hspace hs hbad
    exact answers_fetch_bad (hmay h) hspace hs hbad
  · intro o x hrun hwaits hready hops huse hat hw hcame htag
    have hout : LastOut s t.val e.val o x := ⟨hrun, hwaits.1, hwaits.2, hready, hops, huse, hw, hcame, htag⟩
    exact ⟨answers_fetch_ok hout, answers_fetch_failed hout, answers_fetch_retry hout⟩

end Sys2Proof.Machine

/-! ## Proofs: the block map takes a free block -/

namespace Sys2Proof.Machine

open Sys2Proof

/-! ### The free lists in turn (R238) -/

/-- The lists in turn, one at a time. Its proof goes below the definition, whose own equations Lean does not derive: it
would evaluate the 512 places of a list. -/
theorem firstList_cons (s : State) (t i : Nat) (is : List Nat) : firstList s t (i :: is) =
    if listNo s t i = [] then firstList s t is else some (i, listNo s t i) := by
  delta firstList firstList._f
  dsimp only
  generalize listNo s t i = l
  cases l with
  | nil => simp
  | cons p l => simp

/-- A free list that is found holds a block. -/
theorem firstList_ne_nil {s : State} {t i : Nat} {l is : List Nat} (h : firstList s t is = some (i, l)) : l ≠ [] := by
  induction is with
  | nil => exact nomatch (show (none : Option (Nat × List Nat)) = some (i, l) from h)
  | cons k is ih =>
    rw [firstList_cons] at h
    split at h
    · exact ih h
    · next hne =>
      cases h
      exact hne

/-- The state in which block `p` of a list is in use, without a reference yet. -/
def blockTaken (t p : Nat) (s : State) : State :=
  setObj t Obj.freeBlocks (getObj s t Obj.freeBlocks - 1) (setPool t p { pstate := 1 } s)

/-- The state in which the block is taken from free list `i`, whichever the draw makes it, and the turn goes on. -/
def turnTaken (t i p : Nat) (s : State) : State :=
  blockTaken t p (draw (modMap t (fun m => { m with hand := (i + 1) % max 1 (listCount s t) }) s)).2

/-- The free lists of a tile in the order of their turn. -/
def turnOrder (s : State) (t : Nat) : List Nat :=
  rotated ((getMap s t).hand % max 1 (listCount s t)) (listCount s t)

theorem takeOf_some {l : List Nat} (hl : l ≠ []) (t : Nat) (s : State) :
    ∃ p ∈ l, takeOf t l s = (some p, blockTaken t p (draw s).2) := by
  have hlt : (draw s).1 % l.length < l.length := Nat.mod_lt _ (List.length_pos_of_ne_nil hl)
  refine ⟨l[(draw s).1 % l.length], List.getElem_mem hlt, ?_⟩
  unfold takeOf
  dsimp only
  rw [List.getElem?_eq_getElem hlt]
  rfl

theorem takeTurn_some {s : State} {t i : Nat} {l : List Nat} (h : firstList s t (turnOrder s t) = some (i, l)) :
    ∃ p ∈ l, takeTurn t s = (some p, turnTaken t i p s) := by
  obtain ⟨p, hp, htake⟩ := takeOf_some (firstList_ne_nil h) t
    (modMap t (fun m => { m with hand := (i + 1) % max 1 (listCount s t) }) s)
  refine ⟨p, hp, ?_⟩
  unfold turnOrder at h
  unfold takeTurn
  dsimp only
  rw [h]
  exact htake

/-! ### A job that awaits its block (R238, R251, R256) -/

/-- The work of a job for which block `p` is taken. -/
def jobStarts (t e p : Nat) (j : MapJob) (s : State) : State :=
  match j.kind with
  | .cow => startCopies t e p j s
  | .reloc => startReloc t e p j s
  | _ => startReads t e p s

/-- A fill or a relocation takes its block from the list whose turn it is. -/
theorem jobTake_turn {s : State} {t e i : Nat} {j : MapJob} {l : List Nat} (first : Bool) (hj : jobOf s t e = some j)
    (hdst : j.dst = none) (hkind : j.kind = .fill ∨ j.kind = .reloc) (hhalt : mapHalted s t = false)
    (hfree : firstList s t (turnOrder s t) = some (i, l)) :
    ∃ p ∈ l, jobTake t e first s = jobStarts t e p j (turnTaken t i p s) := by
  obtain ⟨p, hp, htake⟩ := takeTurn_some hfree
  refine ⟨p, hp, ?_⟩
  unfold jobTake
  rw [hj]
  dsimp only
  rcases hkind with hk | hk <;> simp [hk, hdst, hhalt, takeBlock, htake, jobStarts]

end Sys2Proof.Machine

/-! ## Proofs: a relocation between disabled channels -/

namespace Sys2Proof.Machine

open Sys2Proof

/-! ### One entry of a RELOCATE (R256) -/

/-- The entry may be relocated from its tile now. -/
structure Relocatable (s : State) (t e : Nat) : Prop where
  noneEnds : relocEnds t e s = s
  retired : (getEntry s t e).state = 5
  near : (getEntry s t e).wasFar = false
  block : (getPool s t (getEntry s t e).block).pstate = 2
  stays : (getPool s t (getEntry s t e).block).forward = false
  running : mapHalted s t = false
  free : (getEntry s t e).busy = false

/-- The relocation of an entry has begun and awaits its block. -/
def relocBegun (t e : Nat) (s : State) : State :=
  beginJob t { kind := .reloc, entry := e, src := (getEntry s t e).block, started := s.time.elapsed } s

theorem relocate_begins {s : State} {t e : Nat} {w : MapWait} (h : Relocatable s t e) (hw : w.asked = false) :
    relocate t e w s = (.wait true, feedMap t (jobTake t e true (relocBegun t e s))) := by
  obtain ⟨hends, hstate, hnear, hblock, hstays, hrun, hfree⟩ := h
  unfold relocate
  simp [hends, hw, hstate, hnear, hblock, hstays, hrun, hfree, relocBegun]

/-- What a command written to MapCommand leaves of the block map (R245). -/
theorem getMap_mapCommand {c : Instr} {s s' : State} {t v : Nat} (hc : exec c s = run (writeMapCommand t v) s)
    (h : exec c s = .next s') : getMap s' t = getMap (feedMap t (mapPump t 64
      (modMap t (fun m => { m with queue := m.queue ++ [v] }) (fresh s)))) t := by
  rw [hc, run_next] at h
  cases h
  rfl

/-- The command at the front of a tile's queue is taken up (R245). -/
theorem mapPump_next {s : State} {t n v : Nat} {rest : List Nat} (hrun : inHold s t = false)
    (hwait : (getMap s t).wait = none) (hqueue : (getMap s t).queue = v :: rest) :
    mapPump t (n + 1) s = mapPump t n (mapTry t { raw := v } (modMap t (fun m => { m with queue := rest }) s)) := by
  rw [mapPump]
  simp [hrun, hwait, hqueue]

/-- A command for one entry that waits, its partner asked, is kept waiting so. -/
theorem mapTry_waits {s s1 y : State} {t v : Nat} (hs : modMap t (fun m => { m with wait := none }) s = s1)
    (hok : mcOk s1 t v = true) (halloc : mcOp v ≠ 1) (hkey : mcNoCount (mcOp v) = false) (hone : mcCount v = 1)
    (hwait : mapOne t v 0 { raw := v } s1 = (.wait true, y)) : mapTry t { raw := v } s =
      modMap t (fun m => { m with wait := some { raw := v, done := 0, asked := true } }) y := by
  unfold mapTry
  dsimp only
  rw [hs]
  simp [mapRun, hok, halloc, hkey, hone, mapLoop, hwait]

/-! ### Words of the block map's tables of which none has changed (R258) -/

section
variable {s : State} (h : s.sramErr = [])
include h

theorem mapWords_clean (t x : Nat) (l : List Nat) : mapWords t x l s = (false, s) := by
  induction l with
  | nil => rfl
  | cons w l ih =>
    have hzero : fget 0 s.sramErr (sramKey t sramMap w) = 0 := by
      rw [h]
      rfl
    unfold mapWords
    simp [sramBad, sramPoisoned, sramRead, hzero, ih]

theorem entryLost_clean (t e : Nat) : entryLost t e s = (false, s) := by
  simp [entryLost, mapWords_clean h]

theorem mapOne_relocate {t v i : Nat} {w : MapWait} (hop : mcOp v = 15) :
    mapOne t v i w s = relocate t (mcEntry v + i) w s := by
  simp [mapOne, opLost, hop, mcUsesEntry, entryLost_clean h, mapOp]

end

/-! ### The counterexample -/

/-- RELOCATE of entry 0 (Table 9.5), and the word it is written as. -/
def relocateFirst : BitVec 256 := Tests.mapCmd 0 0 0 0 1 0
def relocateWord : Nat := withMapOp relocateFirst 0x0F

/-- Tile 1 with blocks of 8 granules, of which block 0 is the one free and block 1 is retired, with entry 0 on it; the
channels of block 0 are disabled (R60). -/
def cutOff : State :=
  setEntry 1 0 { state := 5, block := 1 } (setPool 1 0 { pstate := 0 } (setPool 1 1 { refs := 1, pstate := 2 }
    ((List.range 8).foldl (fun s c => setObj 1 (Obj.channelState + c) 4 s)
      (setObj 1 Obj.blockSize 0 (setObj dev Obj.bringupPhase 0 {})))))

/-- The command is written, and is taken up. -/
def cutOffWritten : State := modMap 1 (fun m => { m with queue := m.queue ++ [relocateWord] }) (fresh cutOff)
def cutOffTaken : State := modMap 1 (fun m => { m with wait := none }) (modMap 1 (fun m => { m with queue := [] }) cutOffWritten)

/-- The job that it begins, and the state in which the copies into block 0 are sent. -/
def cutOffJob : MapJob := { id := 1, kind := .reloc, entry := 0, src := 1 }
def cutOffCopying : State := feedMap 1 (jobStarts 1 0 0 cutOffJob (turnTaken 1 0 0 (relocBegun 1 0 cutOffTaken)))

theorem cutOff_relocatable : Relocatable cutOffTaken 1 0 where
  noneEnds := rfl
  retired := by decide +kernel
  near := by decide +kernel
  block := by decide +kernel
  stays := by decide +kernel
  running := by decide +kernel
  free := by decide +kernel

theorem cutOff_lists : firstList cutOff 1 (turnOrder cutOff 1) = some (0, [0]) ∧
    firstList (relocBegun 1 0 cutOffTaken) 1 (turnOrder (relocBegun 1 0 cutOffTaken) 1) = some (0, [0]) := by decide +kernel

theorem relocateWord_ok : mcOk cutOff 1 relocateWord = true ∧ mcOk cutOffTaken 1 relocateWord = true ∧
    mcOp relocateWord = 15 ∧ mcEntry relocateWord = 0 ∧ mcCount relocateWord = 1 ∧
    mcEntry relocateFirst.toNat = 0 ∧ mcCount relocateFirst.toNat = 1 := by decide +kernel

theorem jobTake_cutOff : jobTake 1 0 true (relocBegun 1 0 cutOffTaken) =
    jobStarts 1 0 0 cutOffJob (turnTaken 1 0 0 (relocBegun 1 0 cutOffTaken)) := by
  obtain ⟨p, hp, htake⟩ := jobTake_turn (e := 0) (j := cutOffJob) true (by decide +kernel) rfl (.inr rfl) (by decide +kernel) cutOff_lists.2
  rwa [List.mem_singleton.mp hp] at htake

theorem mapOne_cutOff : mapOne 1 relocateWord 0 { raw := relocateWord } cutOffTaken = (.wait true, cutOffCopying) := by
  obtain ⟨-, -, hop, hentry, -⟩ := relocateWord_ok
  rw [mapOne_relocate rfl hop, hentry, relocate_begins cutOff_relocatable rfl, jobTake_cutOff]
  rfl

/-- The copies are done as they are sent, since the channels of their destination are disabled: the command that looks
again finds the relocation over. -/
theorem cutOff_ends : (getMap (feedMap 1 (mapPump 1 63 (modMap 1 (fun m => { m with
    wait := some { raw := relocateWord, done := 0, asked := true } }) cutOffCopying))) 1).wait = none := by decide +kernel

theorem relocate_cutOff {s' : State} (h : exec (.relocate 1 relocateFirst) cutOff = .next s') :
    (getMap s' 1).wait = none := by
  obtain ⟨-, hok, hop, -, hone, -⟩ := relocateWord_ok
  have hpump : mapPump 1 64 cutOffWritten = mapPump 1 63 (modMap 1 (fun m => { m with
      wait := some { raw := relocateWord, done := 0, asked := true } }) cutOffCopying) := by
    rw [mapPump_next (by decide +kernel) (by decide +kernel) (rest := []) (v := relocateWord) (by decide +kernel)]
    rw [mapTry_waits rfl hok (by rw [hop]; decide) (by rw [hop]; decide) hone mapOne_cutOff]
  have hmap : getMap s' 1 = getMap (feedMap 1 (mapPump 1 64 cutOffWritten)) 1 :=
    getMap_mapCommand (exec_relocate 1 relocateFirst cutOff) h
  rw [hmap, hpump]
  exact cutOff_ends

/-- Refutes O37: where the channels of the new block are disabled (`cutOff`), the copies of a RELOCATE are done as they are
sent (R60), and the command itself ends the relocation, which the statement has waiting with its entry busy. -/
theorem not_mapCommandsOnEntries : ¬ Obligations.MapCommandsOnEntries := by
  unfold Obligations.MapCommandsOnEntries
  intro h
  obtain ⟨hok, -, -, -, -, hentry, hone⟩ := relocateWord_ok
  obtain ⟨-, -, -, -, -, -, -, -, -, hrelocate⟩ := h 1 relocateFirst cutOff rfl rfl
    ⟨by decide +kernel, by decide +kernel, fun r hr => nomatch hr⟩ rfl
  obtain ⟨s', hexec, -, -, hwait, -⟩ := hrelocate ⟨⟨by decide +kernel, hok⟩, hone⟩ (by decide +kernel) (by decide +kernel)
    (by decide +kernel) (by decide +kernel) (by decide +kernel) (by decide +kernel) ⟨_, _, cutOff_lists.1⟩
  exact absurd ((relocate_cutOff hexec).symm.trans hwait) nofun

end Sys2Proof.Machine

/-! ## Proofs: requests at the ingress leave the block map alone -/

namespace Sys2Proof.Machine

open Sys2Proof

/-! ### What does not touch the block map -/

/-- The block map of each tile: its requests and jobs, its tables, and its two ingress FIFOs. -/
def mapParts (s : State) : FMap MapS × FMap Entry × FMap PoolD × (Nat → MapFifo × MapFifo) :=
  (s.map, s.entry, s.pool, fun t => ((getSched s t).mapPass, (getSched s t).mapBest))

/-- A change of a tile's scheduler that keeps the FIFOs of its block map. -/
theorem mapParts_modSched {t : Nat} {f : TileSched → TileSched} (s : State)
    (hf : ∀ x, ((f x).mapPass, (f x).mapBest) = (x.mapPass, x.mapBest) := by exact fun _ => rfl) :
    mapParts (modSched t f s) = mapParts s := by
  have hfifos : ∀ u, ((getSched (modSched t f s) u).mapPass, (getSched (modSched t f s) u).mapBest) =
      ((getSched s u).mapPass, (getSched s u).mapBest) := by
    intro u
    unfold getSched modSched
    by_cases h : u = t
    · rw [h, fget_fupd_same, hf]
    · rw [fget_fupd_other _ _ _ _ h]
  unfold mapParts
  rw [funext hfifos]
  rfl

theorem mapParts_foldl {α : Type} {f : State → α → State} {l : List α} (hf : ∀ s, ∀ a ∈ l, mapParts (f s a) = mapParts s)
    (s : State) : mapParts (l.foldl f s) = mapParts s := by
  induction l generalizing s with
  | nil => rfl
  | cons a l ih =>
    exact (ih (fun s b hb => hf s b (List.mem_cons_of_mem _ hb)) _).trans (hf s a List.mem_cons_self)

theorem Accounts.mapParts {s s' : State} (h : Accounts s s') : mapParts s' = mapParts s := by
  rw [h]
  rfl

theorem Books.mapParts {s s' : State} (h : Books s s') : mapParts s' = mapParts s := h.accounts.mapParts

theorem ReadWord.mapParts {s s' : State} (h : ReadWord s s') : mapParts s' = mapParts s := by
  rw [h]
  rfl

@[simp] theorem mapParts_bump (u k n : Nat) (s : State) : mapParts (bump u k n s) = mapParts s := rfl
@[simp] theorem mapParts_modQueue (t c : Nat) (f : QueueS → QueueS) (s : State) :
    mapParts (modQueue t c f s) = mapParts s := rfl
@[simp] theorem mapParts_setMerge (t i : Nat) (m : Merge) (s : State) : mapParts (setMerge t i m s) = mapParts s := rfl
@[simp] theorem mapParts_setPass (t p : Nat) (x : Pass) (s : State) : mapParts (setPass t p x s) = mapParts s := rfl
@[simp] theorem mapParts_draw (s : State) : mapParts (draw s).2 = mapParts s := rfl
@[simp] theorem mapParts_countEv (t e q w : Nat) (s : State) : mapParts (countEv t e q w s) = mapParts s :=
  (side_countEv t e q w s).books.mapParts
@[simp] theorem mapParts_newId (t : Nat) (s : State) : mapParts (newId t s).2 = mapParts s :=
  mapParts_modSched s
@[simp] theorem mapParts_newOrder (t : Nat) (s : State) : mapParts (newOrder t s).2 = mapParts s :=
  mapParts_modSched s
@[simp] theorem mapParts_modReq (t id : Nat) (f : Req → Req) (s : State) : mapParts (modReq t id f s) = mapParts s :=
  mapParts_modSched s
@[simp] theorem mapParts_addReq (t : Nat) (r : Req) (s : State) : mapParts (addReq t r s) = mapParts s :=
  mapParts_modSched s
@[simp] theorem mapParts_closeReq (t id : Nat) (s : State) : mapParts (closeReq t id s) = mapParts s :=
  mapParts_modSched s

/-! ### Accesses of requests (R67, R429) -/

@[simp] theorem mapParts_takeEntry (t c : Nat) (a : Acc) (s : State) : mapParts (takeEntry t c a s) = mapParts s := by
  unfold takeEntry
  dsimp only
  split <;> simp

@[simp] theorem mapParts_enterDirect (t c : Nat) (a : Acc) (s : State) : mapParts (enterDirect t c a s) = mapParts s := by
  unfold enterDirect
  split <;> simp

@[simp] theorem mapParts_mergeSettle (t c i : Nat) (s : State) : mapParts (mergeSettle t c i s) = mapParts s := by
  unfold mergeSettle
  split <;> simp

@[simp] theorem mapParts_drainDeferred (fuel t c : Nat) (s : State) :
    mapParts (drainDeferred fuel t c s) = mapParts s := by
  induction fuel generalizing s with
  | zero => rfl
  | succ fuel ih =>
    unfold drainDeferred
    split
    · rfl
    · dsimp only
      rw [ih]
      split <;> simp

@[simp] theorem mapParts_supersede (t c b row sector mask : Nat) (s : State) :
    mapParts (supersede t c b row sector mask s) = mapParts s := by
  unfold supersede
  dsimp only
  split <;> simp

@[simp] theorem mapParts_supersedeBy (t c : Nat) (a : Acc) (s : State) : mapParts (supersedeBy t c a s) = mapParts s := by
  unfold supersedeBy
  dsimp only
  (repeat' split) <;> simp

@[simp] theorem mapParts_enqueue (t c : Nat) (a : Acc) (s : State) : mapParts (enqueue t c a s) = mapParts s := by
  simp [enqueue]

/-- An access that is no work of the block map counts for no job of it when it is done. -/
theorem mapParts_completeAcc {a : Acc} (ha : a.job = .none) (t c st data bad : Nat) (s : State) :
    mapParts (completeAcc t c a st data bad s) = mapParts s := by
  have hbatch : ∀ x, mapParts (batchEnds t c x) = mapParts x := fun x => by
    rw [batchEnds_fields]
    rfl
  unfold completeAcc jobStep
  dsimp only
  rw [ha]
  dsimp only
  rw [hbatch, mapParts_foldl (fun x id _ => mapParts_modReq t id _ x), mapParts_modQueue]

theorem mapParts_refuseAcc {a : Acc} (ha : a.job = .none) (t c : Nat) (s : State) :
    mapParts (refuseAcc t c a s) = mapParts s := mapParts_completeAcc (a := { a with id := 0 }) ha t c _ _ _ s

/-! ### Held words that are read (Table 10.4) -/

@[simp] theorem mapParts_heldFound (t : Nat) (err : FMap Nat) (p : Nat) (s : State) :
    mapParts (heldFound t err p s) = mapParts s := by
  induction err generalizing s with
  | nil => rfl
  | cons e err ih =>
    obtain ⟨i, m⟩ := e
    unfold heldFound
    dsimp only
    rw [ih]
    split
    · rw [(readWord_corrected _ _ _ _ _).mapParts, mapParts_draw]
    · rw [(books_uncorrectable _ _ _ _).mapParts, mapParts_draw]
    · rfl

/-- Requests with a word found uncorrectable take that status. -/
@[simp] theorem mapParts_worsen (t st : Nat) (ids : List Nat) (s : State) : mapParts
    (ids.foldl (fun s id => modReq t id (fun r => { r with status := worse r.status st }) s) s) = mapParts s :=
  mapParts_foldl (fun x id _ => mapParts_modReq t id _ x) s

@[simp] theorem mapParts_readHeld (t c : Nat) (a : Acc) (s : State) : mapParts (readHeld t c a s).2 = mapParts s := by
  unfold readHeld
  split
  · rfl
  · dsimp only
    split <;> simp

@[simp] theorem mapParts_readSources (t c : Nat) (a : Acc) (s : State) : mapParts (readSources t c a s) = mapParts s := by
  refine mapParts_foldl (fun x w _ => ?_) s
  split <;> simp

@[simp] theorem mapParts_readMerge (t k : Nat) (a : Acc) (m : Merge) (s : State) :
    mapParts (readMerge t k a m s).2 = mapParts s := by
  unfold readMerge
  split
  · rfl
  · dsimp only
    split <;> simp

/-! ### The merge buffer (R89, R90) -/

theorem job_flushAccs {i frag : Nat} {m : Merge} {a : Acc} (ha : a ∈ flushAccs i frag m) : a.job = .none := by
  unfold flushAccs at ha
  dsimp only at ha
  split at ha
  · rw [List.mem_singleton.mp ha]
  · obtain ⟨k, -, hk⟩ := List.mem_filterMap.mp ha
    split at hk
    · cases hk
    · cases hk
      rfl

theorem mapParts_flushOne {a : Acc} (ha : a.job = .none) (t c : Nat) (s : State) :
    mapParts (flushOne t c a s) = mapParts s := by
  unfold flushOne
  split
  · exact mapParts_refuseAcc ha t c s
  · simp

@[simp] theorem mapParts_flushMerge (t i rule : Nat) (s : State) : mapParts (flushMerge t i rule s) = mapParts s := by
  cases hv : (getMerge s t i).valid with
  | false => rw [flushMerge_idle rule (.inl hv)]
  | true =>
    cases hf : (getMerge s t i).flushing with
    | true => rw [flushMerge_idle rule (.inr hf)]
    | false =>
      rw [flushMerge_open rule hv hf, mapParts_mergeSettle]
      refine (mapParts_foldl (fun x a ha => mapParts_flushOne (job_flushAccs ha) t _ x) _).trans ?_
      unfold flushBegun
      rw [mapParts_countEv, mapParts_bump, mapParts_foldl (fun x id _ => mapParts_modReq t id _ x), mapParts_setMerge,
        mapParts_newId]

@[simp] theorem mapParts_flushWhere (t rule : Nat) (p : Merge → Bool) (s : State) :
    mapParts (flushWhere t rule p s) = mapParts s :=
  mapParts_foldl (fun x e _ => mapParts_flushMerge t e.1 rule x) s

@[simp] theorem mapParts_enterMerge (t : Nat) (r : Req) (a : Acc) (s : State) :
    mapParts (enterMerge t r a s) = mapParts s := by
  unfold enterMerge
  dsimp only
  split
  · split <;> simp
  · simp

@[simp] theorem mapParts_mergeRoom (t : Nat) (r : Req) (l : List (Nat × Acc)) (fuel : Nat) (s : State) :
    mapParts (mergeRoom t r l fuel s).2 = mapParts s := by
  induction fuel generalizing s with
  | zero => rfl
  | succ fuel ih =>
    unfold mergeRoom
    dsimp only
    split
    · rfl
    · split
      · rfl
      · split
        · rw [ih, mapParts_flushMerge]
        · rfl

/-! ### A request enters the queues, waits or leaves (R14, R70, R85) -/

theorem job_accesses {r : Req} {e : Nat × Acc} (he : e ∈ accesses r) : e.2.job = .none := by
  unfold accesses at he
  simp only [List.mem_flatten, List.mem_map] at he
  obtain ⟨l, ⟨f, -, rfl⟩, hl⟩ := he
  obtain ⟨p, -, rfl⟩ := List.mem_map.mp hl
  rfl

theorem mapParts_queueOne {a : Acc} (ha : a.job = .none) (t c : Nat) (r : Req) (s : State) :
    mapParts (queueOne t c r a s) = mapParts s := by
  unfold queueOne
  split
  · exact mapParts_refuseAcc ha t c s
  · split
    · exact mapParts_enterMerge t r a s
    · split
      · rw [mapParts_completeAcc (a := { a with id := 0 }) ha]
        simp
      · exact mapParts_enqueue t c a s

@[simp] theorem mapParts_waitReq (t : Nat) (r : Req) (why : Nat) (met : List Nat) (s : State) :
    mapParts (waitReq t r why met s) = mapParts s := by
  unfold waitReq
  dsimp only
  split <;> simp

@[simp] theorem mapParts_queueReq (t : Nat) (r : Req) (s : State) : mapParts (queueReq t r s) = mapParts s := by
  have hmeets : ∀ (l : List (Nat × Acc)) x, mapParts (l.foldl (fun s e =>
      drainDeferred 64 t e.1 (if mergeable s t e.2 then s else mergeHazards t r e.2 s)) x) = mapParts x :=
    fun l x => mapParts_foldl (fun y e _ => by
      rw [mapParts_drainDeferred]
      split
      · rfl
      · exact mapParts_flushWhere _ _ _ y) x
  unfold queueReq
  dsimp only
  split
  · rw [mapParts_waitReq, hmeets]
  · split
    · refine (mapParts_foldl (fun x e he => ?_) _).trans (by rw [mapParts_modReq, mapParts_mergeRoom, hmeets])
      obtain ⟨e0, he0, rfl⟩ := List.mem_map.mp he
      have hjob : e0.2.job = .none := job_accesses he0
      refine mapParts_queueOne ?_ t _ r x
      exact hjob
    · rw [mapParts_waitReq, mapParts_mergeRoom, hmeets]

@[simp] theorem mapParts_holdFar (u : Nat) (passNo : Option Nat) (s : State) : mapParts (holdFar u passNo s) = mapParts s := by
  unfold holdFar
  split
  · split
    · exact (side_setForce _ _ _ _ s).books.mapParts
    · rfl
  · rfl

@[simp] theorem mapParts_sendFar (t : Nat) (r : Req) (s : State) : mapParts (sendFar t r s) = mapParts s := by
  rw [sendFar_eq, (accounts_portCount _ _ _ _ _).mapParts, mapParts_holdFar]
  rfl

theorem mapParts_goOn (t : Nat) (r : Req) (s : State) : mapParts (goOn t r s) = mapParts s := by
  by_cases h : addrTile r.addr = t
  · rw [goOn_near h, mapParts_queueReq]
  · rw [goOn_far h, mapParts_sendFar, mapParts_closeReq]

@[simp] theorem mapParts_proceed (t : Nat) (r : Req) (s : State) : mapParts (proceed t r s) = mapParts s := by
  unfold proceed
  split
  · dsimp only
    split
    · simp
    · rw [mapParts_goOn, mapParts_flushWhere]
  · exact mapParts_goOn t r s

/-! ### Acceptance (R70, R125) -/

@[simp] theorem mapParts_denyReq (t : Nat) (r : Req) (s : State) : mapParts (denyReq t r s) = mapParts s :=
  ((books_bump _ _ _ s).trans (books_setObj _ _ _ _)).mapParts

@[simp] theorem mapParts_rejectReq (t : Nat) (r : Req) (st : Nat) (s : State) :
    mapParts (rejectReq t r st s) = mapParts s := mapParts_addReq t _ s

@[simp] theorem mapParts_regEnter (t g : Nat) (s : State) : mapParts (regEnter t g s) = mapParts s :=
  (accounts_regEnter t g s).mapParts

theorem mapParts_acceptReq (t : Nat) (r : Req) (s : State) : mapParts (acceptReq t r s) = mapParts s := by
  unfold acceptReq
  dsimp -zeta only
  extract_lets x y p
  have hy : mapParts y = mapParts s := by simp [y]
  clear_value p y x
  split
  · rw [mapParts_rejectReq, hy]
  split
  · rw [mapParts_rejectReq, hy]
  split
  · rw [mapParts_rejectReq, mapParts_denyReq, hy]
  extract_lets x1 y1 conf cls1 x2 x3 y2 x4
  have hy1 : mapParts y1 = mapParts s := hy
  have hy2 : mapParts y2 = mapParts s := by
    show mapParts (match x.passNo with | some p => bump t (Obj.passNonConforming + p) 1 y1 | none => y1) = _
    split
    · rw [mapParts_bump, hy1]
    · exact hy1
  clear_value y2 y1
  (repeat' split) <;> simp [hy1, hy2]

/-! ### The ingress FIFOs of a block map without work of its own (R70) -/

/-- The FIFOs of a tile's block map are empty. -/
def fifosEmpty (s : State) (t : Nat) : Prop := (getSched s t).mapPass = {} ∧ (getSched s t).mapBest = {}

theorem fifosEmpty_congr {s s' : State} (h : mapParts s' = mapParts s) (t : Nat) (hs : fifosEmpty s t) : fifosEmpty s' t := by
  have hfifos := congrFun (congrArg (fun x => x.2.2.2) h) t
  simp only [mapParts, Prod.mk.injEq] at hfifos
  obtain ⟨hpass, hbest⟩ := hfifos
  exact ⟨hpass.trans hs.1, hbest.trans hs.2⟩

/-- Requests that wait at the head may be queued; there is nothing behind them. -/
theorem mapParts_feedFifo {t : Nat} {pass : Bool} {get : TileSched → MapFifo} {put : MapFifo → TileSched → TileSched}
    (hget : ∀ s, fifosEmpty s t → get (getSched s t) = {}) (fuel : Nat) {s : State} (hs : fifosEmpty s t) :
    mapParts (feedFifo t pass get put fuel s) = mapParts s := by
  induction fuel generalizing s with
  | zero => rfl
  | succ fuel ih =>
    unfold feedFifo
    dsimp only
    rw [hget s hs]
    split
    · next r _ =>
      split
      · exact mapParts_queueReq t r s
      · rw [ih (fifosEmpty_congr (mapParts_queueReq t r s) t hs), mapParts_queueReq]
    · next hhead => cases hhead
    · rfl

theorem mapParts_feedMap {s : State} {t : Nat} (hs : fifosEmpty s t) : mapParts (feedMap t s) = mapParts s := by
  have hpass := mapParts_feedFifo (pass := true) (put := fun f x => { x with mapPass := f }) (fun x hx => hx.1)
    ((getSched s t).mapPass.behind.length + 2) hs
  exact (mapParts_feedFifo (fun x hx => hx.2) _ (fifosEmpty_congr hpass t hs)).trans hpass

end Sys2Proof.Machine

/-! ## Proofs: resolution of requests -/

namespace Sys2Proof.Machine

open Sys2Proof

/-! ### What resolution comes to while every SRAM word is good (R242) -/

/-- The entry of a request is mapped, of its partition, and may be accessed as it asks. -/
structure Permitted (s : State) (t : Nat) (r : MapReq) : Prop where
  isMapped : (getEntry s t r.entry).state ≠ 0
  part : (getEntry s t r.entry).part = r.part
  write : r.req.write = true → (getEntry s t r.entry).write = true ∧ r.canWrite = true

section
variable {s : State} (hs : s.sramErr = []) {t : Nat} {r : MapReq} (fuel : Nat)
include hs

theorem resolve_free (h : (getEntry s t r.entry).state = 0) :
    resolve t r (fuel + 1) s = (.refuse stDecodeError, s) := by
  simp [resolve, mapWords_clean hs, h]

theorem resolve_otherPart (h : (getEntry s t r.entry).state ≠ 0) (hpart : (getEntry s t r.entry).part ≠ r.part) :
    resolve t r (fuel + 1) s = (.refuse stAccessDenied, s) := by
  simp [resolve, mapWords_clean hs, h, hpart]

theorem resolve_noWrite (h : (getEntry s t r.entry).state ≠ 0) (hpart : (getEntry s t r.entry).part = r.part)
    (hw : r.req.write = true) (hno : (getEntry s t r.entry).write = false ∨ r.canWrite = false) :
    resolve t r (fuel + 1) s = (.refuse stAccessDenied, s) := by
  rcases hno with hno | hno <;> simp [resolve, mapWords_clean hs, h, hpart, hw, hno]

section
variable (hp : Permitted s t r)
include hp

theorem resolve_permitted : resolve t r (fuel + 1) s =
    if (getEntry s t r.entry).busy then (.hold, s)
    else if (getEntry s t r.entry).state = 3 then (.fill, s)
    else if (getEntry s t r.entry).state = 2 then
      if r.req.write then (.cow, s)
      else (.forward (getEntry s t r.entry).tile (getEntry s t r.entry).block,
        setEntry t r.entry { getEntry s t r.entry with accessed := true } s)
    else if mustMove s t (getEntry s t r.entry) then resolve t r fuel (moveForward t r.entry (getEntry s t r.entry) s)
    else if (getEntry s t r.entry).state = 5 then (.refuse stBlockRetired, s)
    else resolveNear t r s := by
  obtain ⟨hmapped, hpart, hwrite⟩ := hp
  have hallowed : ¬ (r.req.write = true ∧ (¬ (getEntry s t r.entry).write = true ∨ ¬ r.canWrite = true)) := by
    rintro ⟨hw, h | h⟩
    · exact h (hwrite hw).1
    · exact h (hwrite hw).2
  rw [resolve]
  simp only [mapWords_clean hs, Bool.false_eq_true, if_false, hmapped, hpart, ne_eq, not_true_eq_false, hallowed, ite_self]

variable (hfree : (getEntry s t r.entry).busy = false)
include hfree

theorem resolve_local (hstate : (getEntry s t r.entry).state = 1 ∨ (getEntry s t r.entry).state = 4)
    (hstays : mustMove s t (getEntry s t r.entry) = false) : resolve t r (fuel + 1) s = resolveNear t r s := by
  rw [resolve_permitted hs fuel hp]
  rcases hstate with h | h <;> simp [hfree, h, hstays]

theorem resolve_far (hstate : (getEntry s t r.entry).state = 2) (hread : r.req.write = false) :
    resolve t r (fuel + 1) s = (.forward (getEntry s t r.entry).tile (getEntry s t r.entry).block,
      setEntry t r.entry { getEntry s t r.entry with accessed := true } s) := by
  simp [resolve_permitted hs fuel hp, hfree, hstate, hread]

theorem resolve_spilled (hstate : (getEntry s t r.entry).state = 3) : resolve t r (fuel + 1) s = (.fill, s) := by
  simp [resolve_permitted hs fuel hp, hfree, hstate]

end

theorem resolve_busy (hp : Permitted s t r) (hbusy : (getEntry s t r.entry).busy = true) :
    resolve t r (fuel + 1) s = (.hold, s) := by
  simp [resolve_permitted hs fuel hp, hbusy]

end

theorem mustMove_not_retired {s : State} {t : Nat} {x : Entry} (hx : x.state = 1 ∨ x.state = 4)
    (h : (getPool s t x.block).pstate ≠ 2 ∨ (getPool s t x.block).forward = false) : mustMove s t x = false := by
  rcases hx with hx | hx <;> rcases h with h | h <;> simp [mustMove, hx, h]

theorem resolveNear_retired {s : State} {t : Nat} {r : MapReq}
    (h : (getPool s t (getEntry s t r.entry).block).pstate = 2) : resolveNear t r s =
      (.refuse stBlockRetired, setEntry t r.entry { getEntry s t r.entry with
        state := 5, wasPinned := (getEntry s t r.entry).state = 4, wasFar := false } s) := if_pos h

theorem resolveNear_place {s : State} {t : Nat} {r : MapReq}
    (h : (getPool s t (getEntry s t r.entry).block).pstate ≠ 2)
    (hrefs : r.req.write = true → (getPool s t (getEntry s t r.entry).block).refs ≤ 1) : resolveNear t r s =
      (.place (blockByte s t (getEntry s t r.entry).block r.off), setEntry t r.entry { getEntry s t r.entry with
        accessed := true, dirty := (getEntry s t r.entry).dirty || r.req.write } s) :=
  (if_neg h).trans (if_neg fun ⟨hw, hmany⟩ => Nat.not_lt.mpr (hrefs hw) hmany)

end Sys2Proof.Machine

/-! ## Proofs: the block map takes a request -/

namespace Sys2Proof.Machine

open Sys2Proof

/-! ### The request is taken (R241) -/

/-- A request came from a requester code. -/
def isOf (q : Nat) (r : MapReq) : Bool := decide (r.req.requester = q)

/-- The request is the oldest of its requester at a block map that can take it, and it is the one named. -/
structure Takable (s : State) (t q : Nat) (named : MapReq → Bool) (r : MapReq) : Prop where
  running : mapHalted s t = false
  noneHeld : (getMap s t).held = []
  oldest : (getMap s t).input.find? (isOf q) = some r
  isNamed : named r = true
  flows : fifoWaits s t q r.req.passNo.isSome = false

/-- The oldest request of a requester is taken, and its resolution is counted. -/
def reqTaken (t q : Nat) (s : State) : State :=
  countEv t 0x0040 0 1 (modMap t (fun m => { m with input := removeFirst (isOf q) m.input }) s)

theorem resolution_none {s : State} {t q : Nat} {named : MapReq → Bool} (h : mapHalted s t = true ∨
    ((getMap s t).held.find? (isOf q) = none ∧ (getMap s t).input.find? (isOf q) = none)) :
    resolution t q named s = s := by
  unfold resolution
  rcases h with h | ⟨hheld, hinput⟩
  · rw [if_pos h]
  · split
    · rfl
    · have hasleep : (getMap s t).held.find? (fun r => isOf q r && canWake s t r) = none := by
        rw [List.find?_eq_none] at hheld ⊢
        intro r hr h
        exact hheld r hr (Bool.and_eq_true_iff.mp h).1
      unfold isOf at hasleep hinput
      simp only [hasleep, hinput]

theorem resolution_unnamed {s : State} {t q : Nat} {named : MapReq → Bool} {r : MapReq} (hheld : (getMap s t).held = [])
    (h : (getMap s t).input.find? (isOf q) = some r) (hn : ¬ named r = true) : resolution t q named s = s := by
  unfold isOf at h
  unfold resolution
  split
  · rfl
  · simp [hheld, h, hn]

theorem resolution_takes {s : State} {t q : Nat} {named : MapReq → Bool} {r : MapReq} (h : Takable s t q named r) :
    resolution t q named s =
      feedMap t (mapReq t r (modMap t (fun m => { m with input := removeFirst (isOf q) m.input }) s)) := by
  obtain ⟨hrun, hheld, hold, hnamed, hflows⟩ := h
  have hmine : isOf q = fun r => decide (r.req.requester = q) := rfl
  rw [hmine] at hold ⊢
  unfold resolution
  simp [hrun, hheld, hold, hnamed, hflows]

/-- The same state with other requests and jobs of the block maps, other counts and other entries, and no outputs yet. -/
def withMaps (s : State) (m : FMap MapS) (c : CountS) (en : FMap Entry) : State :=
  { s with map := m, count := c, entry := en, out := {} }

theorem reqTaken_withMaps (t q : Nat) (s : State) : ∃ m c, reqTaken t q (fresh s) = withMaps s m c s.entry ∧
    fget ({} : MapS) m t = { getMap s t with input := removeFirst (isOf q) (getMap s t).input } := by
  refine ⟨_, (reqTaken t q (fresh s)).count, ?_,
    fget_fupd_same ({} : MapS) s.map t (fun m => { m with input := removeFirst (isOf q) m.input })⟩
  unfold reqTaken
  rw [countEv_fields]
  rfl

/-- The request is gone from the block map's input; no other entry and no block changes. -/
def Took (s s' : State) (t q e : Nat) : Prop :=
  (getMap s' t).input = removeFirst (isOf q) (getMap s t).input ∧
  (∀ k, k ≠ t * 65536 + e → fget ({} : Entry) s'.entry k = fget {} s.entry k) ∧ s'.pool = s.pool

/-- The request has its one response, of status `st`. -/
def Refused (s s' : State) (t : Nat) (r : Req) (st : Nat) : Prop :=
  ∃ y, fget [] s'.replies (t * 256 + r.orig) = fget [] s.replies (t * 256 + r.orig) ++ [y] ∧ y.tag = r.tag ∧ y.status = st

/-- The entries in which one has changed to `x`. -/
structure EntrySet (s : State) (t e : Nat) (x : Entry) (en : FMap Entry) : Prop where
  same : fget ({} : Entry) en (t * 65536 + e) = x
  others : ∀ k, k ≠ t * 65536 + e → fget ({} : Entry) en k = fget {} s.entry k

theorem setEntry_withMaps (s : State) (m : FMap MapS) (c : CountS) (t e : Nat) (x : Entry) :
    ∃ en, setEntry t e x (withMaps s m c s.entry) = withMaps s m c en ∧ EntrySet s t e x en :=
  ⟨fset {} s.entry (t * 65536 + e) x, rfl, fget_fset_same _ _ _ _, fun _ hk => fget_fset_other _ _ _ _ hk⟩

theorem mapQuiet_congr {s s' : State} {t : Nat} (h : s'.sched = s.sched) (hq : mapQuiet s t) : mapQuiet s' t := by
  unfold mapQuiet Machine.openReqs getSched at *
  rwa [h]

/-! ### What a request comes to (R241 to R243), by its resolution -/

/-- What a tile does with a request by its resolution (R242). -/
def comesTo (t : Nat) (r : MapReq) (x : Resolved) (z : State) : State :=
  match x with
  | .refuse st => mapRefuse t r.req st 0 z
  | .hold => holdReq t r z
  | .cow => startCow t r.entry (holdReq t r z)
  | .fill => startFill t r.entry (holdReq t r z)
  | .place off => issueMapped t r.req off z
  | .forward u b => forwardReq t u b r z

section
variable {s : State} {t q : Nat} {r : MapReq}

theorem mapReq_of {x : Resolved} {z : State} (h : resolve t r mapFuel (reqTaken t q s) = (x, z)) :
    mapReq t r (modMap t (fun m => { m with input := removeFirst (isOf q) m.input }) s) = comesTo t r x z := by
  unfold mapReq resolveOne
  change resolve t r mapFuel (countEv t 0x0040 0 1 _) = _ at h
  rw [h]
  cases x <;> rfl

theorem mapRefuse_near {st hint : Nat} {x : Req} {z : State} (h : viaGateway x = false) :
    mapRefuse t x st hint z = giveReply t x.orig { x with status := st } hint z := if_neg (h ▸ Bool.false_ne_true)

/-- The response is with its requester. -/
theorem giveReply_withMaps (s : State) (m : FMap MapS) (c : CountS) (en : FMap Entry) (t : Nat) (x : Req) (st : Nat) :
    ∃ l, giveReply t x.orig { x with status := st } 0 (withMaps s m c en) = { withMaps s m c en with replies := l } ∧
      ∃ y, fget [] l (t * 256 + x.orig) = fget [] s.replies (t * 256 + x.orig) ++ [y] ∧ y.tag = x.tag ∧ y.status = st :=
  ⟨_, rfl, replyOf { x with status := st } 0, fget_replies_giveReply t x.orig _ 0 (withMaps s m c en), rfl, rfl⟩

/-- A request as it is held: one that waits on a fill is carried best-effort (R225, R251). -/
def heldAs (x : Entry) (r : MapReq) : MapReq :=
  { r with req := { r.req with fill := r.req.fill || decide (x.state = 3), best := r.req.best || decide (x.state = 3) } }

/-- The request is the one held. -/
def heldFirst (t : Nat) (r : MapReq) (z : State) : State :=
  setObj t Obj.heldRequests 1 (modMap t (fun m => { m with held := [heldAs (getEntry z t r.entry) r] }) z)

theorem holdReq_first {z : State} (h : (getMap z t).held = []) : holdReq t r z = heldFirst t r z := by
  unfold holdReq setHeld
  rw [h]
  rfl

theorem getMap_heldFirst (t : Nat) (r : MapReq) (z : State) :
    getMap (heldFirst t r z) t = { getMap z t with held := [heldAs (getEntry z t r.entry) r] } := by
  simp only [getMap, heldFirst, setObj, modMap, fget_fupd_same]

end

end Sys2Proof.Machine

/-! ## Proofs: the command RESOLUTION -/

namespace Sys2Proof.Machine

open Sys2Proof

/-! ### The command RESOLUTION, by what it comes to -/

section
variable {s : State} {t : TileN} {q : BitVec 8} {addr : BitVec 48} {len : BitVec 12} {write : Bool} {data : List Byte}
  {r : MapReq}

theorem answers_resolution (h : Takable s t.val q.toNat (mapNamed s t.val addr.toNat len.toNat write (byteNats data)) r)
    {x : Resolved} {z : State} (hres : resolve t.val r mapFuel (reqTaken t.val q.toNat (fresh s)) = (x, z))
    {P : State → Prop} (hP : P (sameTime s (feedMap t.val (comesTo t.val r x z)))) :
    Answers (.resolution t q addr len write data) s P := by
  refine answers_run (exec_resolution t q addr len write data s) ?_
  rw [resolution_takes (s := fresh s) ⟨h.running, h.noneHeld, h.oldest, h.isNamed, h.flows⟩, mapReq_of hres]
  exact hP

end

/-- The block map's requests and jobs when the request is taken, and no work of it is under way. -/
structure AtMap (s : State) (t q : Nat) (m : FMap MapS) : Prop where
  quiet : mapQuiet s t
  noneHeld : (getMap s t).held = []
  taken : fget ({} : MapS) m t = { getMap s t with input := removeFirst (isOf q) (getMap s t).input }

section
variable {s : State} {t q : Nat} {r : MapReq} {m : FMap MapS} {c : CountS} (h : AtMap s t q m)
include h

theorem AtMap.input : (fget ({} : MapS) m t).input = removeFirst (isOf q) (getMap s t).input := by rw [h.taken]
theorem AtMap.held : (fget ({} : MapS) m t).held = [] := by rw [h.taken]; exact h.noneHeld
theorem AtMap.feed {z : State} (hz : z.sched = s.sched) : feedMap t z = z := feedMap_quiet (mapQuiet_congr hz h.quiet)

/-- A refusal: the response is all that is new. -/
theorem refuse_spec (hnear : viaGateway r.req = false) (st : Nat) (en : FMap Entry) :
    ∃ l, feedMap t (comesTo t r (.refuse st) (withMaps s m c en)) = { withMaps s m c en with replies := l } ∧
      ∃ y, fget [] l (t * 256 + r.req.orig) = fget [] s.replies (t * 256 + r.req.orig) ++ [y] ∧ y.tag = r.req.tag ∧
        y.status = st := by
  obtain ⟨l, hgive, hreply⟩ := giveReply_withMaps s m c en t r.req st
  refine ⟨l, ?_, hreply⟩
  rw [comesTo, mapRefuse_near hnear, hgive]
  exact h.feed rfl

/-- A refusal that changes no entry. -/
theorem ends_refuse (hnear : viaGateway r.req = false) (st : Nat) {s' : State}
    (hs' : sameTime s (feedMap t (comesTo t r (.refuse st) (withMaps s m c s.entry))) = s') :
    Took s s' t q r.entry ∧ s'.entry = s.entry ∧ (getMap s' t).held = [] ∧ Refused s s' t r.req st ∧
      s' = { s with map := s'.map, replies := s'.replies, count := s'.count, out := {} } := by
  obtain ⟨l, hy, hreply⟩ := refuse_spec (c := c) h hnear st s.entry
  rw [hy] at hs'
  subst hs'
  exact ⟨⟨h.input, fun _ _ => rfl, rfl⟩, rfl, h.held, hreply, rfl⟩

/-- A request of a retired block is refused, and its entry turns RETIRED. -/
theorem retired_refuse (hnear : viaGateway r.req = false) {x : Entry} {en : FMap Entry} (hen : EntrySet s t r.entry x en)
    {s' : State} (hs' : sameTime s (feedMap t (comesTo t r (.refuse stBlockRetired) (withMaps s m c en))) = s') :
    Took s s' t q r.entry ∧ getEntry s' t r.entry = x ∧ Refused s s' t r.req stBlockRetired ∧ SameMemory s s' := by
  obtain ⟨l, hy, hreply⟩ := refuse_spec (c := c) h hnear stBlockRetired en
  rw [hy] at hs'
  subst hs'
  exact ⟨⟨h.input, hen.others, rfl⟩, hen.same, hreply, sameMemory_of rfl rfl rfl rfl⟩

/-- A request of an entry that is busy is held. -/
theorem held_hold {s' : State} (hs' : sameTime s (feedMap t (comesTo t r .hold (withMaps s m c s.entry))) = s') :
    Took s s' t q r.entry ∧ s'.entry = s.entry ∧
      (getMap s' t).held = [heldAs (getEntry s t r.entry) r] ∧ getObj s' t Obj.heldRequests = 1 ∧ SameMemory s s' := by
  have hheld : (getMap (withMaps s m c s.entry) t).held = [] := h.held
  have hfirst := getMap_heldFirst t r (withMaps s m c s.entry)
  have hcount : getObj (heldFirst t r (withMaps s m c s.entry)) t Obj.heldRequests = 1 := getObj_setObj_fits _ (by decide)
  have hy : feedMap t (comesTo t r .hold (withMaps s m c s.entry)) = heldFirst t r (withMaps s m c s.entry) := by
    rw [comesTo, holdReq_first hheld]
    exact h.feed rfl
  rw [hy] at hs'
  subst hs'
  exact ⟨⟨(congrArg MapS.input hfirst).trans h.input, fun _ _ => rfl, rfl⟩, rfl, congrArg MapS.held hfirst, hcount,
    sameMemory_of rfl rfl rfl rfl⟩

/-- The message that a forwarded request becomes (R242, R243). -/
def forwarded (t u block : Nat) (r : MapReq) : FarReq where
  src := t
  dst := u
  kind := .block r.entry block r.off
  origin := r.req.source
  orig := r.req.orig
  tag := r.req.tag
  addr := r.req.addr
  len := r.req.len
  write := r.req.write
  barrier := r.req.barrier
  passNo := r.req.passNo
  data := r.req.data
  pois := r.req.pois
  accepted := r.req.accepted
  stamp := r.req.stamp
  srcOrder := r.req.srcOrder
  dropped := r.req.dropped
  best := r.req.best

/-- A read of a FAR entry is forwarded to the tile of its block. -/
theorem forwarded_forward (u b : Nat) {x : Entry} {en : FMap Entry} (hen : EntrySet s t r.entry x en) {s' : State}
    (hs' : sameTime s (feedMap t (comesTo t r (.forward u b) (withMaps s m c en))) = s') :
    Took s s' t q r.entry ∧ getEntry s' t r.entry = x ∧ s'.farReqs = s.farReqs ++ [forwarded t u b r] ∧
      SameMemory s s' := by
  have hy : feedMap t (comesTo t r (.forward u b) (withMaps s m c en)) =
      { withMaps s m c en with farReqs := s.farReqs ++ [forwarded t u b r] } := h.feed rfl
  rw [hy] at hs'
  subst hs'
  exact ⟨⟨h.input, hen.others, rfl⟩, hen.same, rfl, sameMemory_of rfl rfl rfl rfl⟩

omit h in
theorem map_of_mapParts {s' : State} (h : mapParts s' = mapParts s) :
    s'.map = s.map ∧ s'.entry = s.entry ∧ s'.pool = s.pool := by
  simp only [mapParts, Prod.mk.injEq] at h
  exact ⟨h.1, h.2.1, h.2.2.1⟩

/-- A request of a block of this tile goes to the scheduler, which leaves the block map alone. -/
theorem issued_place (off : Nat) {x : Entry} {en : FMap Entry} (hen : EntrySet s t r.entry x en) {s' : State}
    (hs' : sameTime s (feedMap t (comesTo t r (.place off) (withMaps s m c en))) = s') :
    Took s s' t q r.entry ∧ getEntry s' t r.entry = x := by
  have hissue : mapParts (comesTo t r (.place off) (withMaps s m c en)) = mapParts (withMaps s m c en) :=
    mapParts_acceptReq _ _ _
  have hempty : fifosEmpty (withMaps s m c en) t := ⟨h.quiet.1, h.quiet.2.1⟩
  have hparts := (mapParts_feedMap (fifosEmpty_congr hissue t hempty)).trans hissue
  generalize feedMap t _ = y at hs' hparts
  subst hs'
  obtain ⟨hmaps, hentry, hpool⟩ := map_of_mapParts hparts
  refine ⟨⟨?_, fun k hk => ?_, hpool⟩, ?_⟩
  · exact (congrArg (fun m => (fget ({} : MapS) m t).input) hmaps).trans h.input
  · exact (congrArg (fget ({} : Entry) · k) hentry).trans (hen.others k hk)
  · exact (congrArg (fget ({} : Entry) · _) hentry).trans hen.same

end

end Sys2Proof.Machine

/-! ## Proofs: the block map begins a fill -/

namespace Sys2Proof.Machine

open Sys2Proof

/-! ### A fill is begun (R251) -/

/-- Nothing that the block map's halts and free lists are read from changes, but for its requests and jobs. -/
structure SameLists (s s' : State) (t : Nat) : Prop where
  pool : s'.pool = s.pool
  ptile : s'.ptile = s.ptile
  treset : s'.treset = s.treset
  hand : (getMap s' t).hand = (getMap s t).hand
  unlisted : (getMap s' t).unlistedFree = (getMap s t).unlistedFree
  objs : ∀ u, ∀ k ∈ [Obj.blockSize, Obj.poolBands, Obj.tripState, Obj.bringupPhase], getObj s' u k = getObj s u k

section
variable {s s' : State} {t : Nat} (h : SameLists s s' t)
include h

theorem SameLists.poolG : poolG s' t = poolG s t := by
  unfold Machine.poolG
  rw [h.objs t Obj.blockSize (by simp)]

theorem SameLists.mapHalted : mapHalted s' t = mapHalted s t := by
  unfold Machine.mapHalted inHold tripped starting inReset getPTile getReset
  dsimp only
  rw [h.ptile, h.treset, h.objs dev Obj.tripState (by simp), h.objs dev Obj.bringupPhase (by simp)]

theorem SameLists.pstateOf (p : Nat) : pstateOf s' t p = pstateOf s t p := by
  unfold Machine.pstateOf getPool
  rw [h.pool, h.unlisted]

theorem SameLists.listNo (i : Nat) : listNo s' t i = listNo s t i := by
  unfold Machine.listNo freeList bandBlocks poolClasses poolSize
  simp only [h.poolG, h.pstateOf, h.objs t Obj.poolBands (by simp)]

theorem SameLists.firstList (is : List Nat) : firstList s' t is = firstList s t is := by
  induction is with
  | nil => rfl
  | cons i is ih => rw [firstList_cons, firstList_cons, h.listNo, ih]

theorem SameLists.turnOrder : turnOrder s' t = turnOrder s t := by
  unfold Machine.turnOrder listCount poolClasses
  rw [h.hand, h.poolG, h.objs t Obj.poolBands (by simp)]

end

/-- The read of granule `i` of an entry that is filled, on its way to the next level. -/
def homeRead (s : State) (t e i : Nat) : HomeMsg where
  tile := t
  entry := e
  node := getObj s t Obj.nextLevelNode
  addr := (getEntry s t e).home + 2048 * i
  len := 2048
  write := false
  part := (getEntry s t e).part
  data := 0
  pois := 0

/-- Messages have left for the next level. -/
def sentHome (l : List HomeMsg) (s : State) : State := { s with out := { s.out with home := s.out.home ++ l } }

theorem sendHome_reads (t e : Nat) (l : List Nat) (s : State) :
    l.foldl (fun s i => sendHome t e i false 0 0 s) s = sentHome (l.map (homeRead s t e)) s := by
  induction l generalizing s with
  | nil => simp [sentHome]
  | cons i l ih =>
    rw [List.foldl_cons, ih]
    have hone : sendHome t e i false 0 0 s = sentHome [homeRead s t e i] s := rfl
    have hread : homeRead (sentHome [homeRead s t e i] s) t e = homeRead s t e := rfl
    rw [hone, hread]
    simp [sentHome]

theorem startReads_eq (t e p : Nat) (s : State) : startReads t e p s =
    sentHome ((List.range (poolG s t)).map (homeRead s t e))
      (modJob t e (fun j => { j with dst := some p, left := poolG s t, started := s.time.elapsed }) s) :=
  sendHome_reads _ _ _ _

/-- The fill of an entry, as it begins. -/
def fillJob (s : State) (t e : Nat) : MapJob :=
  { id := (getMap s t).nextJob, kind := .fill, entry := e, started := s.time.elapsed }

def fillBegun (t e : Nat) (s : State) : State := beginJob t { kind := .fill, entry := e, started := s.time.elapsed } s

theorem jobs_fillBegun {s : State} {t e : Nat} (h : (getMap s t).jobs = []) :
    (getMap (fillBegun t e s) t).jobs = [fillJob s t e] := by
  unfold fillBegun beginJob
  dsimp only
  rw [getMap_modMap]
  exact congrArg (· ++ _) h

theorem startFill_starts {s : State} {t e i : Nat} {l : List Nat} (hhalt : mapHalted s t = false)
    (hjobs : (getMap s t).jobs = []) (hsame : SameLists s (fillBegun t e s) t)
    (hfree : firstList s t (turnOrder s t) = some (i, l)) :
    ∃ p ∈ l, startFill t e s = startReads t e p (turnTaken t i p (fillBegun t e s)) := by
  have hjob : jobOf (fillBegun t e s) t e = some (fillJob s t e) := by
    unfold jobOf
    rw [jobs_fillBegun hjobs]
    simp [fillJob]
  rw [← hsame.firstList, ← hsame.turnOrder] at hfree
  obtain ⟨p, hp, htake⟩ := jobTake_turn true hjob rfl (.inl rfl) (hsame.mapHalted.trans hhalt) hfree
  refine ⟨p, hp, ?_⟩
  unfold startFill
  rw [if_neg (by simp [hhalt])]
  exact htake

end Sys2Proof.Machine

/-! ## Proofs: a request of a SPILLED entry -/

namespace Sys2Proof.Machine

open Sys2Proof

/-! ### A request of a SPILLED entry (R251) -/

theorem getObj_turnTaken {u k : Nat} (t i p : Nat) (s : State) (hk : k ≠ Obj.freeBlocks) (hlt : k < 2 ^ 24) :
    getObj (turnTaken t i p s) u k = getObj s u k := by
  rw [turnTaken, blockTaken, getObj_setObj_obj _ hk hlt (by decide)]
  simp only [getObj, setPool, draw, modMap]

theorem getMap_turnTaken (t i p : Nat) (s : State) :
    getMap (turnTaken t i p s) t = { getMap s t with hand := (i + 1) % max 1 (listCount s t) } := by
  simp only [getMap, turnTaken, blockTaken, setObj, setPool, draw, modMap, fget_fupd_same]

theorem getObj_heldFirst {u k t : Nat} {r : MapReq} {s : State} (hk : k ≠ Obj.heldRequests) (hlt : k < 2 ^ 24) :
    getObj (heldFirst t r s) u k = getObj s u k := by
  rw [heldFirst, getObj_setObj_obj _ hk hlt (by decide)]
  simp only [getObj, modMap]

theorem getEntry_fillBegun (t e : Nat) (s : State) :
    getEntry (fillBegun t e s) t e = { getEntry s t e with busy := true } := by
  simp only [getEntry, fillBegun, beginJob, setEntry, modMap, fget_fset_same]

theorem getMap_fillBegun (t e : Nat) (s : State) : getMap (fillBegun t e s) t =
    { getMap s t with jobs := (getMap s t).jobs ++ [fillJob s t e], nextJob := (getMap s t).nextJob + 1 } := by
  simp only [getMap, fillBegun, beginJob, setEntry, modMap, fget_fupd_same, fillJob]

theorem getObj_fillBegun (t e u k : Nat) (s : State) : getObj (fillBegun t e s) u k = getObj s u k := by
  simp only [getObj, fillBegun, beginJob, setEntry, modMap]

theorem sameLists_fillBegun (t e : Nat) (s : State) : SameLists s (fillBegun t e s) t where
  pool := by simp only [fillBegun, beginJob, setEntry, modMap]
  ptile := by simp only [fillBegun, beginJob, setEntry, modMap]
  treset := by simp only [fillBegun, beginJob, setEntry, modMap]
  hand := by rw [getMap_fillBegun]
  unlisted := by rw [getMap_fillBegun]
  objs := fun u k _ => getObj_fillBegun t e u k s

theorem sameLists_heldFirst (t : Nat) (r : MapReq) (s : State) : SameLists s (heldFirst t r s) t where
  pool := by simp only [heldFirst, setObj, modMap]
  ptile := by simp only [heldFirst, setObj, modMap]
  treset := by simp only [heldFirst, setObj, modMap]
  hand := by rw [getMap_heldFirst]
  unlisted := by rw [getMap_heldFirst]
  objs := fun u k hk => getObj_heldFirst (by rintro rfl; simp at hk) (by
    simp only [List.mem_cons, List.not_mem_nil, or_false] at hk
    rcases hk with rfl | rfl | rfl | rfl <;> decide)

theorem getMap_modJob (t e : Nat) (f : MapJob → MapJob) (s : State) : getMap (modJob t e f s) t =
    { getMap s t with jobs := (getMap s t).jobs.map (fun j => if j.entry = e then f j else j) } :=
  getMap_modMap t (fun m => { m with jobs := m.jobs.map (fun j => if j.entry = e then f j else j) }) s

theorem getMap_sentHome (l : List HomeMsg) (s : State) (t : Nat) : getMap (sentHome l s) t = getMap s t := by
  simp only [getMap, sentHome]
theorem getEntry_turnTaken (t i p u e : Nat) (s : State) : getEntry (turnTaken t i p s) u e = getEntry s u e := by
  simp only [getEntry, turnTaken, blockTaken, setObj, setPool, draw, modMap]
theorem getEntry_modJob (t e u k : Nat) (f : MapJob → MapJob) (s : State) :
    getEntry (modJob t e f s) u k = getEntry s u k := by
  simp only [getEntry, modJob, modMap]
theorem getEntry_sentHome (l : List HomeMsg) (s : State) (u e : Nat) : getEntry (sentHome l s) u e = getEntry s u e := by
  simp only [getEntry, sentHome]

/-- What the work of the block map's own jobs leaves alone: the scheduler, memory, and the outputs. -/
def jobRest (s : State) := (s.sched, s.dram, s.layer, s.slate, s.inkwell, s.out)

theorem jobRest_fillBegun (t e : Nat) (s : State) : jobRest (fillBegun t e s) = jobRest s := by
  simp only [jobRest, fillBegun, beginJob, setEntry, modMap]
theorem jobRest_turnTaken (t i p : Nat) (s : State) : jobRest (turnTaken t i p s) = jobRest s := by
  simp only [jobRest, turnTaken, blockTaken, setObj, setPool, draw, modMap]
theorem jobRest_modJob (t e : Nat) (f : MapJob → MapJob) (s : State) : jobRest (modJob t e f s) = jobRest s := by
  simp only [jobRest, modJob, modMap]

/-- The reads that fill an entry, granule by granule. -/
def fillReads (s : State) (t e : Nat) : List HomeMsg := (List.range (poolG s t)).map (homeRead s t e)

theorem poolG_turnTaken (t e i p : Nat) (s : State) : poolG (turnTaken t i p (fillBegun t e s)) t = poolG s t := by
  unfold poolG
  rw [getObj_turnTaken t i p _ (by decide) (by decide), getObj_fillBegun]

theorem fillReads_turnTaken (t e i p : Nat) (s : State) :
    fillReads (turnTaken t i p (fillBegun t e s)) t e = fillReads s t e := by
  unfold fillReads
  rw [poolG_turnTaken]
  refine List.map_congr_left fun k _ => ?_
  unfold homeRead
  rw [getEntry_turnTaken, getEntry_fillBegun, getObj_turnTaken t i p _ (by decide) (by decide), getObj_fillBegun]

/-- The job of a fill takes note of its block and of the reads that it waits for. -/
def filledInto (p left started : Nat) (j : MapJob) : MapJob := { j with dst := some p, left := left, started := started }

/-- The fill has its block and its reads have left. -/
def filling (t e i p : Nat) (s : State) : State :=
  sentHome (fillReads s t e) (modJob t e (filledInto p (poolG s t) s.time.elapsed) (turnTaken t i p (fillBegun t e s)))

theorem startReads_filling (t e i p : Nat) (s : State) :
    startReads t e p (turnTaken t i p (fillBegun t e s)) = filling t e i p s := by
  have hreads := fillReads_turnTaken t e i p s
  unfold fillReads at hreads
  rw [startReads_eq, hreads, poolG_turnTaken]
  rfl

theorem map_filling {t e i p : Nat} {s : State} (hjobs : (getMap s t).jobs = []) :
    (∃ j, (getMap (filling t e i p s) t).jobs = [j] ∧ j.kind = .fill ∧ j.entry = e ∧ j.dst = some p) ∧
      (getMap (filling t e i p s) t).held = (getMap s t).held ∧ (getMap (filling t e i p s) t).input = (getMap s t).input := by
  unfold filling
  rw [getMap_sentHome, getMap_modJob, getMap_turnTaken, getMap_fillBegun, hjobs]
  exact ⟨⟨_, rfl, by simp [fillJob, filledInto]⟩, rfl, rfl⟩

theorem entry_filling (t e i p : Nat) (s : State) :
    getEntry (filling t e i p s) t e = { getEntry s t e with busy := true } := by
  unfold filling
  rw [getEntry_sentHome, getEntry_modJob, getEntry_turnTaken, getEntry_fillBegun]

theorem filling_frame (t e i p : Nat) (s : State) : (filling t e i p s).sched = s.sched ∧ SameMemory s (filling t e i p s) ∧
    (filling t e i p s).out.home = s.out.home ++ fillReads s t e := by
  have hrest : jobRest (modJob t e (filledInto p (poolG s t) s.time.elapsed) (turnTaken t i p (fillBegun t e s))) = jobRest s := by
    rw [jobRest_modJob, jobRest_turnTaken, jobRest_fillBegun]
  unfold filling
  generalize modJob t e _ _ = x at hrest ⊢
  simp only [jobRest, Prod.mk.injEq] at hrest
  obtain ⟨hsched, hdram, hlayer, hslate, hinkwell, hout⟩ := hrest
  exact ⟨hsched, sameMemory_of hdram hlayer hslate hinkwell, by rw [← hout]; rfl⟩

section
variable {s : State} {t q : Nat} {r : MapReq} {m : FMap MapS} {c : CountS} (h : AtMap s t q m)
include h

theorem AtMap.sameLists : SameLists s (withMaps s m c s.entry) t where
  pool := rfl
  ptile := rfl
  treset := rfl
  hand := (congrArg MapS.hand h.taken :)
  unlisted := (congrArg MapS.unlistedFree h.taken :)
  objs := fun _ _ _ => rfl

/-- A request of a SPILLED entry is held, and the entry is filled from its home. -/
theorem filled_fill {i : Nat} {l : List Nat} (hhalt : mapHalted s t = false) (hjobs : (getMap s t).jobs = [])
    (hfree : firstList s t (turnOrder s t) = some (i, l)) {s' : State}
    (hs' : sameTime s (feedMap t (comesTo t r .fill (withMaps s m c s.entry))) = s') :
    getEntry s' t r.entry = { getEntry s t r.entry with busy := true } ∧
      (∃ j p, (getMap s' t).jobs = [j] ∧ j.kind = .fill ∧ j.entry = r.entry ∧ j.dst = some p ∧ p ∈ l) ∧
      (getMap s' t).held.length = 1 ∧ s'.out.home = fillReads s t r.entry ∧ SameMemory s s' := by
  have hheld : (getMap (withMaps s m c s.entry) t).held = [] := h.held
  have hlists := h.sameLists (c := c)
  have hfirst := sameLists_heldFirst t r (withMaps s m c s.entry)
  have hmap := getMap_heldFirst t r (withMaps s m c s.entry)
  have hjobs' : (getMap (heldFirst t r (withMaps s m c s.entry)) t).jobs = [] := by
    rw [hmap]
    exact (congrArg MapS.jobs h.taken).trans hjobs
  obtain ⟨p, hp, hstart⟩ := startFill_starts (e := r.entry) (i := i) (l := l)
    (hfirst.mapHalted.trans (hlists.mapHalted.trans hhalt)) hjobs' (sameLists_fillBegun t r.entry _)
    (by rw [hfirst.firstList, hfirst.turnOrder, hlists.firstList, hlists.turnOrder, hfree])
  obtain ⟨hsched, hmem, hhome⟩ := filling_frame t r.entry i p (heldFirst t r (withMaps s m c s.entry))
  obtain ⟨⟨j, hj, hkind, hentry, hdst⟩, hkept, -⟩ := map_filling (e := r.entry) (i := i) (p := p) hjobs'
  have hy : feedMap t (comesTo t r .fill (withMaps s m c s.entry)) =
      filling t r.entry i p (heldFirst t r (withMaps s m c s.entry)) := by
    rw [comesTo, holdReq_first hheld, hstart, startReads_filling]
    exact h.feed hsched
  have hbusy := entry_filling t r.entry i p (heldFirst t r (withMaps s m c s.entry))
  have hreads : fillReads (heldFirst t r (withMaps s m c s.entry)) t r.entry = fillReads s t r.entry := by
    unfold fillReads
    rw [hfirst.poolG, hlists.poolG]
    refine List.map_congr_left fun k _ => ?_
    unfold homeRead
    rw [getObj_heldFirst (by decide) (by decide)]
    rfl
  rw [hreads] at hhome
  rw [hy] at hs'
  generalize filling t r.entry i p (heldFirst t r (withMaps s m c s.entry)) = y at *
  subst hs'
  refine ⟨hbusy, ⟨j, p, hj, hkind, hentry, hdst, hp⟩, ?_, hhome, ?_⟩
  · exact congrArg List.length (hkept.trans (congrArg MapS.held hmap))
  · exact SameMemory.trans (b := heldFirst t r (withMaps s m c s.entry)) (sameMemory_of rfl rfl rfl rfl) hmem

end

end Sys2Proof.Machine

/-! ## Proofs: forwarded requests at the tile of their block -/

namespace Sys2Proof.Machine

open Sys2Proof

/-! ### Where the bytes of a block lie (R236) -/

/-- A byte of a granule follows the granule's first one. -/
theorem untranslate_byte (c b row byte : Nat) : untranslate c b row 0 + byte = untranslate c b row byte := by
  rw [untranslate_eq, untranslate_eq, Nat.add_zero]

theorem blockByte_lt (s : State) (t p o : Nat) : blockByte s t p o < populated := by
  unfold blockByte blockPlace
  dsimp only
  rw [untranslate_byte]
  exact untranslate_lt _ (Nat.xor_lt_two_pow (n := 4) (Nat.mod_lt _ (by decide)) (Nat.mod_lt _ (by decide)))
    (Nat.mod_lt _ (by decide)) (Nat.mod_lt _ (by decide))

theorem addrTile_devAddr {t off : Nat} (ht : t < 64) (hoff : off < populated) : addrTile (devAddr t off) = t := by
  unfold populated at hoff
  unfold addrTile bits devAddr
  omega

/-- A request for a byte of a block goes to the tile's own scheduler: nothing is sent. -/
theorem farReqs_issueMapped {t : Nat} (ht : t < 64) (r : Req) (s s1 : State) (p o : Nat) :
    (issueMapped t r (blockByte s1 t p o) s).farReqs = s.farReqs := by
  unfold issueMapped
  refine ((added_acceptReq t _ s).here ?_).1
  rw [withNumber_eq]
  dsimp only
  split <;> exact addrTile_devAddr ht (blockByte_lt s1 t p o)

/-! ### A forwarded request at the tile of its block (R242) -/

theorem finalBlock_stays {s : State} {t p : Nat} (h : (getPool s t p).forward = false) (fuel : Nat) :
    finalBlock s t (fuel + 1) p = p := by
  simp [finalBlock, h]

/-- A FAR entry, where it still names the block, is changed; no other part of the state is. -/
theorem farEntry_spec (u e t p : Nat) (f : Entry → Entry) (s : State) : ∃ en,
    farEntry u e t p f s = { s with entry := en } ∧
    fget ({} : Entry) en (u * 65536 + e) = (if (getEntry s u e).state = 2 ∧ (getEntry s u e).tile = t ∧
      (getEntry s u e).block = p then f (getEntry s u e) else getEntry s u e) ∧
    ∀ k, k ≠ u * 65536 + e → fget ({} : Entry) en k = fget {} s.entry k := by
  unfold farEntry
  dsimp only
  split
  · exact ⟨_, rfl, fget_fset_same _ _ _ _, fun k hk => fget_fset_other _ _ _ _ hk⟩
  · exact ⟨s.entry, rfl, rfl, fun _ _ => rfl⟩

/-- The entry of a forwarded request turns RETIRED, or follows its block. -/
def retireFar (x : Entry) : Entry := { x with state := 5, wasFar := true, wasPinned := false }
def followTo (p : Nat) (x : Entry) : Entry := { x with block := p }

section
variable {s : State} {t src : Nat} {x : FarReq} {e p off : Nat}

theorem forwardedResolution_other (h : ∀ x e p off, farHead s t src = some x → x.kind ≠ .block e p off) :
    forwardedResolution t src s = s := by
  unfold forwardedResolution
  split
  · rfl
  · next x hx =>
    split
    · next e p off hk => exact absurd hk (h x e p off hx)
    · rfl

variable (hx : farHead s t src = some x) (hk : x.kind = .block e p off)
include hx hk

theorem forwardedResolution_waits
    (h : mapHalted s t = true ∨ fifoWaits s t (0x20 + x.origin) x.passNo.isSome = true) :
    forwardedResolution t src s = s := by
  unfold forwardedResolution
  simp only [hx, hk]
  exact if_pos h

theorem forwardedResolution_goes (hrun : mapHalted s t = false)
    (hflows : fifoWaits s t (0x20 + x.origin) x.passNo.isSome = false) (hs : s.sramErr = [])
    (hstays : (getPool s t p).forward = false) : forwardedResolution t src s =
      if (getPool s t p).pstate = 2 then
        mapRefuse t (farReqOf x) stBlockRetired 0 (farEntry src e t p retireFar (takeFar t src x s))
      else issueMapped t (farReqOf x) (blockByte (takeFar t src x s) t p off)
        (farEntry src e t p (followTo p) (takeFar t src x s)) := by
  have hclean : (takeFar t src x s).sramErr = [] := by rw [takeFar_fields]; exact hs
  have hpool : getPool (takeFar t src x s) t p = getPool s t p := by
    unfold getPool
    rw [takeFar_fields]
  have hfinal : finalBlock (takeFar t src x s) t mapFuel p = p := finalBlock_stays (by rw [hpool]; exact hstays) 65536
  unfold forwardedResolution
  simp only [hx, hk, hrun, hflows, mapWords_clean hclean, hfinal, hpool]
  rfl

end

theorem mapRefuse_far {t st hint : Nat} {r : Req} {s : State} (h : viaGateway r = true) : mapRefuse t r st hint s =
    { s with farResps := s.farResps ++ [⟨t, r.source, { r with status := st }, hint⟩] } := if_pos h

/-- What the far request leaves of the state once it is taken and its entry may have changed. -/
def farTakenOf (s : State) (t src : Nat) (en : FMap Entry) (dict : FMap Nat) (c : CountS) : State :=
  { s with
    farReqs := removeFirst (fun y => y.dst = t ∧ y.src = src) s.farReqs, entry := en, dict := dict, count := c, out := {} }

theorem farEntry_takeFar (s : State) (t src : Nat) (x : FarReq) (e p : Nat) (f : Entry → Entry) : ∃ en dict c,
    farEntry src e t p f (takeFar t src x (fresh s)) = farTakenOf s t src en dict c ∧
    fget ({} : Entry) en (src * 65536 + e) = (if (getEntry s src e).state = 2 ∧ (getEntry s src e).tile = t ∧
      (getEntry s src e).block = p then f (getEntry s src e) else getEntry s src e) ∧
    ∀ k, k ≠ src * 65536 + e → fget ({} : Entry) en k = fget {} s.entry k := by
  obtain ⟨en, hentry, hsame, hothers⟩ := farEntry_spec src e t p f (takeFar t src x (fresh s))
  have hget : getEntry (takeFar t src x (fresh s)) src e = getEntry s src e := by
    unfold getEntry
    rw [takeFar_fields]
    rfl
  have hmap : (takeFar t src x (fresh s)).entry = s.entry := by
    rw [takeFar_fields]
    rfl
  rw [hget] at hsame
  rw [hmap] at hothers
  refine ⟨en, (takeFar t src x (fresh s)).dict, (takeFar t src x (fresh s)).count, ?_, hsame, hothers⟩
  rw [hentry, takeFar_fields]
  rfl

section
variable {s : State} {t src : TileN} {x : FarReq} {e p off : Nat}

/-- What a forwarded request leaves of the entry that it is of and of the others. -/
structure FarLeft (s s' : State) (t src e : Nat) (y : Entry) : Prop where
  farReqs : s'.farReqs = removeFirst (fun y => y.dst = t ∧ y.src = src) s.farReqs
  pool : s'.pool = s.pool
  others : ∀ k, k ≠ src * 65536 + e → fget ({} : Entry) s'.entry k = fget {} s.entry k
  same : getEntry s' src e = y

theorem forwarded_retired (horigin : x.origin < 64) {s' : State} (hs' : sameTime s (mapRefuse t.val (farReqOf x) stBlockRetired 0
      (farEntry src.val e t.val p retireFar (takeFar t.val src.val x (fresh s)))) = s') :
    FarLeft s s' t.val src.val e (if (getEntry s src.val e).state = 2 ∧ (getEntry s src.val e).tile = t.val ∧
      (getEntry s src.val e).block = p then retireFar (getEntry s src.val e) else getEntry s src.val e) ∧
    (∃ f, s'.farResps = s.farResps ++ [f] ∧ f.owner = t.val ∧ f.dst = x.origin ∧ f.req.tag = x.tag ∧
      f.req.status = stBlockRetired) ∧ SameMemory s s' := by
  have hvia : viaGateway (farReqOf x) = true := by
    simp [viaGateway, farReqOf]
    omega
  obtain ⟨en, dict, c, hy, hsame, hothers⟩ := farEntry_takeFar s t.val src.val x e p retireFar
  rw [mapRefuse_far hvia, hy] at hs'
  subst hs'
  exact ⟨⟨rfl, rfl, hothers, hsame⟩, ⟨_, rfl, rfl, rfl, rfl, rfl⟩, sameMemory_of rfl rfl rfl rfl⟩

theorem forwarded_issued {s1 s' : State} (hs' : sameTime s (issueMapped t.val (farReqOf x) (blockByte s1 t.val p off)
      (farEntry src.val e t.val p (followTo p) (takeFar t.val src.val x (fresh s)))) = s') :
    FarLeft s s' t.val src.val e (getEntry s src.val e) := by
  obtain ⟨en, dict, c, hy, hsame, hothers⟩ := farEntry_takeFar s t.val src.val x e p (followTo p)
  rw [hy] at hs'
  have hparts : mapParts (issueMapped t.val (farReqOf x) (blockByte s1 t.val p off)
      (farTakenOf s t.val src.val en dict c)) = mapParts (farTakenOf s t.val src.val en dict c) := mapParts_acceptReq _ _ _
  have hfar := farReqs_issueMapped t.isLt (farReqOf x) (farTakenOf s t.val src.val en dict c) s1 p off
  generalize issueMapped t.val _ _ _ = y at hs' hparts hfar
  subst hs'
  obtain ⟨-, hentry, hpool⟩ := map_of_mapParts hparts
  refine ⟨hfar, hpool, fun k hk => ?_, ?_⟩
  · exact (congrArg (fget ({} : Entry) · k) hentry).trans (hothers k hk)
  · refine (congrArg (fget ({} : Entry) · _) hentry).trans (hsame.trans ?_)
    split
    · next h =>
      obtain ⟨-, -, hblock⟩ := h
      rw [followTo, ← hblock]
    · rfl

end

end Sys2Proof.Machine

/-! ## Proofs: the commands of resolution, clause by clause -/

namespace Sys2Proof.Machine

open Sys2Proof

/-! ### The request of a running block map, clause by clause (R241 to R243, R251) -/

/-- An entry after an access of its block, and after its block was found retired. -/
def accessedBy (write : Bool) (x : Entry) : Entry := { x with accessed := true, dirty := x.dirty || write }
def retireNear (x : Entry) : Entry := { x with state := 5, wasPinned := x.state = 4, wasFar := false }

theorem Permitted.withMaps {s : State} {t : Nat} {r : MapReq} (h : Permitted s t r) (m : FMap MapS) (c : CountS) :
    Permitted (withMaps s m c s.entry) t r := ⟨h.isMapped, h.part, h.write⟩

section
variable {s : State} {t : TileN} {q : BitVec 8} {addr : BitVec 48} {len : BitVec 12} {write : Bool} {data : List Byte}
  {r : MapReq} (hT : Takable s t.val q.toNat (mapNamed s t.val addr.toNat len.toNat write (byteNats data)) r)
  (hquiet : mapQuiet s t.val)
include hT hquiet

/-- The command is what its request comes to, from a state that differs from `s` in the block map's requests alone. -/
theorem answers_atMap {P : State → Prop} (h : ∀ m c, AtMap s t.val q.toNat m → ∃ x z,
    resolve t.val r mapFuel (withMaps s m c s.entry) = (x, z) ∧ P (sameTime s (feedMap t.val (comesTo t.val r x z)))) :
    Answers (.resolution t q addr len write data) s P := by
  obtain ⟨m, c, htaken, hm⟩ := reqTaken_withMaps t.val q.toNat s
  obtain ⟨x, z, hres, hP⟩ := h m c ⟨hquiet, hT.noneHeld, hm⟩
  rw [← htaken] at hres
  exact answers_resolution hT hres hP

theorem answers_refused (hnear : viaGateway r.req = false) {st : Nat}
    (hres : ∀ m c, resolve t.val r mapFuel (withMaps s m c s.entry) = (.refuse st, withMaps s m c s.entry)) :
    Answers (.resolution t q addr len write data) s (fun s' => Took s s' t.val q.toNat r.entry ∧ s'.entry = s.entry ∧
      (getMap s' t.val).held = [] ∧ Refused s s' t.val r.req st ∧
      s' = { s with map := s'.map, replies := s'.replies, count := s'.count, out := {} }) :=
  answers_atMap hT hquiet fun m c hat => ⟨_, _, hres m c, ends_refuse hat hnear st rfl⟩

variable (hs : s.sramErr = []) (hp : Permitted s t.val r)
include hs hp

theorem answers_held (hbusy : (getEntry s t.val r.entry).busy = true) :
    Answers (.resolution t q addr len write data) s (fun s' => Took s s' t.val q.toNat r.entry ∧ s'.entry = s.entry ∧
      (getMap s' t.val).held = [heldAs (getEntry s t.val r.entry) r] ∧ getObj s' t.val Obj.heldRequests = 1 ∧
      SameMemory s s') :=
  answers_atMap hT hquiet fun m c hat =>
    ⟨_, _, resolve_busy (s := withMaps s m c s.entry) hs 65536 (hp.withMaps m c) hbusy, held_hold hat rfl⟩

variable (hfree : (getEntry s t.val r.entry).busy = false)
include hfree

theorem answers_issued (hstate : (getEntry s t.val r.entry).state = 1 ∨ (getEntry s t.val r.entry).state = 4)
    (hlive : (getPool s t.val (getEntry s t.val r.entry).block).pstate ≠ 2)
    (hrefs : r.req.write = true → (getPool s t.val (getEntry s t.val r.entry).block).refs ≤ 1) :
    Answers (.resolution t q addr len write data) s (fun s' => Took s s' t.val q.toNat r.entry ∧
      getEntry s' t.val r.entry = accessedBy r.req.write (getEntry s t.val r.entry)) :=
  answers_atMap hT hquiet fun m c hat => by
    obtain ⟨en, hset, hen⟩ := setEntry_withMaps s m c t.val r.entry (accessedBy r.req.write (getEntry s t.val r.entry))
    refine ⟨.place (blockByte s t.val (getEntry s t.val r.entry).block r.off), withMaps s m c en, ?_,
      issued_place (c := c) hat _ hen rfl⟩
    rw [← hset]
    exact (resolve_local (s := withMaps s m c s.entry) hs 65536 (hp.withMaps m c) hfree hstate
      (mustMove_not_retired hstate (.inl hlive))).trans (resolveNear_place hlive hrefs)

theorem answers_retired (hnear : viaGateway r.req = false)
    (hstate : (getEntry s t.val r.entry).state = 1 ∨ (getEntry s t.val r.entry).state = 4)
    (hretired : (getPool s t.val (getEntry s t.val r.entry).block).pstate = 2)
    (hstays : (getPool s t.val (getEntry s t.val r.entry).block).forward = false) :
    Answers (.resolution t q addr len write data) s (fun s' => Took s s' t.val q.toNat r.entry ∧
      getEntry s' t.val r.entry = retireNear (getEntry s t.val r.entry) ∧
      Refused s s' t.val r.req stBlockRetired ∧ SameMemory s s') :=
  answers_atMap hT hquiet fun m c hat => by
    obtain ⟨en, hset, hen⟩ := setEntry_withMaps s m c t.val r.entry (retireNear (getEntry s t.val r.entry))
    refine ⟨_, withMaps s m c en, ?_, retired_refuse (c := c) hat hnear hen rfl⟩
    rw [← hset]
    exact (resolve_local (s := withMaps s m c s.entry) hs 65536 (hp.withMaps m c) hfree hstate
      (mustMove_not_retired hstate (.inr hstays))).trans (resolveNear_retired hretired)

theorem answers_forwarded (hstate : (getEntry s t.val r.entry).state = 2) (hread : r.req.write = false) :
    Answers (.resolution t q addr len write data) s (fun s' => Took s s' t.val q.toNat r.entry ∧
      getEntry s' t.val r.entry = { getEntry s t.val r.entry with accessed := true } ∧
      s'.farReqs = s.farReqs ++ [forwarded t.val (getEntry s t.val r.entry).tile (getEntry s t.val r.entry).block r] ∧
      SameMemory s s') :=
  answers_atMap hT hquiet fun m c hat => by
    obtain ⟨en, hset, hen⟩ := setEntry_withMaps s m c t.val r.entry { getEntry s t.val r.entry with accessed := true }
    refine ⟨_, withMaps s m c en, ?_, forwarded_forward (c := c) hat _ _ hen rfl⟩
    rw [← hset]
    exact resolve_far (s := withMaps s m c s.entry) hs 65536 (hp.withMaps m c) hfree hstate hread

theorem answers_filled (hstate : (getEntry s t.val r.entry).state = 3) (hjobs : (getMap s t.val).jobs = []) {i : Nat}
    {l : List Nat} (hlist : firstList s t.val (turnOrder s t.val) = some (i, l)) :
    Answers (.resolution t q addr len write data) s (fun s' =>
      getEntry s' t.val r.entry = { getEntry s t.val r.entry with busy := true } ∧
      (∃ j p, (getMap s' t.val).jobs = [j] ∧ j.kind = .fill ∧ j.entry = r.entry ∧ j.dst = some p ∧ p ∈ l) ∧
      (getMap s' t.val).held.length = 1 ∧ s'.out.home = fillReads s t.val r.entry ∧ SameMemory s s') :=
  answers_atMap hT hquiet fun m c hat =>
    ⟨_, _, resolve_spilled (s := withMaps s m c s.entry) hs 65536 (hp.withMaps m c) hfree hstate,
      filled_fill hat hT.running hjobs hlist rfl⟩

end

/-! ### The command FORWARDED_RESOLUTION, by the state of the block (R242, R256) -/

section
variable {s : State} {t src : TileN} {x : FarReq} {e p off : Nat} (hx : farHead s t.val src.val = some x)
  (hk : x.kind = .block e p off) (hrun : mapHalted s t.val = false)
  (hflows : fifoWaits s t.val (0x20 + x.origin) x.passNo.isSome = false) (hs : s.sramErr = [])
  (hstays : (getPool s t.val p).forward = false)
include hx hk hrun hflows hs hstays

theorem answers_farRetired (horigin : x.origin < 64) (hretired : (getPool s t.val p).pstate = 2) :
    Answers (.forwardedResolution t src) s (fun s' =>
      FarLeft s s' t.val src.val e (if (getEntry s src.val e).state = 2 ∧ (getEntry s src.val e).tile = t.val ∧
        (getEntry s src.val e).block = p then retireFar (getEntry s src.val e) else getEntry s src.val e) ∧
      (∃ f, s'.farResps = s.farResps ++ [f] ∧ f.owner = t.val ∧ f.dst = x.origin ∧ f.req.tag = x.tag ∧
        f.req.status = stBlockRetired) ∧ SameMemory s s') := by
  refine answers_run (exec_forwardedResolution t src s) ?_
  rw [(forwardedResolution_goes (s := fresh s) hx hk hrun hflows hs hstays).trans (if_pos hretired)]
  exact forwarded_retired horigin rfl

theorem answers_farIssued (hlive : (getPool s t.val p).pstate ≠ 2) :
    Answers (.forwardedResolution t src) s (fun s' => FarLeft s s' t.val src.val e (getEntry s src.val e)) := by
  refine answers_run (exec_forwardedResolution t src s) ?_
  rw [(forwardedResolution_goes (s := fresh s) hx hk hrun hflows hs hstays).trans (if_neg hlive)]
  exact forwarded_issued rfl

end

/-! ### The obligation -/

/-- Settles O39: what a request comes to depends on its entry alone, which its being taken from the input leaves as
it was; refusals and messages then add one thing to the state, and the scheduler leaves the block map alone. -/
theorem resolutionOfRequests : Obligations.ResolutionOfRequests := by
  unfold Obligations.ResolutionOfRequests
  refine ⟨fun t q addr len write data s => ⟨fun h => ?_, fun r hheld hold hn => ?_, ?_⟩, fun t src s => ⟨fun h => ?_, ?_⟩⟩
  · exact noEffect_run (exec_resolution t q addr len write data s) (resolution_none (s := fresh s) h)
  · exact noEffect_run (exec_resolution t q addr len write data s) (resolution_unnamed (s := fresh s) hheld hold hn)
  · intro r hrun hheld hold hnamed hflows hquiet hs hnear
    have hT : Takable s t.val q.toNat (mapNamed s t.val addr.toNat len.toNat write (byteNats data)) r :=
      ⟨hrun, hheld, hold, hnamed, hflows⟩
    refine ⟨fun hfree => ?_, fun hmapped hother => ?_, fun hmapped hpart hw hno => ?_, fun hmapped hpart hwrite => ?_⟩
    · exact answers_refused hT hquiet hnear fun m c => resolve_free (s := withMaps s m c s.entry) hs 65536 hfree
    · exact answers_refused hT hquiet hnear fun m c =>
        resolve_otherPart (s := withMaps s m c s.entry) hs 65536 hmapped hother
    · exact answers_refused hT hquiet hnear fun m c =>
        resolve_noWrite (s := withMaps s m c s.entry) hs 65536 hmapped hpart hw hno
    · have hp : Permitted s t.val r := ⟨hmapped, hpart, hwrite⟩
      refine ⟨fun hbusy => ?_, fun hidle hstate hlive hrefs => ?_, fun hidle hstate hretired hstays => ?_,
        fun hidle hstate hread => ?_, fun i l hidle hstate hjobs hlist => ?_⟩
      · obtain ⟨s', hexec, htook, hentry, hheld', hcount, hmem⟩ := answers_held hT hquiet hs hp hbusy
        exact ⟨s', hexec, htook, hentry, ⟨_, hheld', rfl, rfl, rfl, rfl, rfl⟩, hcount, hmem⟩
      · exact answers_issued hT hquiet hs hp hidle hstate hlive hrefs
      · exact answers_retired hT hquiet hs hp hidle hnear hstate hretired hstays
      · obtain ⟨s', hexec, htook, hentry, hsent, hmem⟩ := answers_forwarded hT hquiet hs hp hidle hstate hread
        exact ⟨s', hexec, htook, hentry, ⟨_, hsent, rfl, rfl, rfl, rfl, rfl, rfl, hread⟩, hmem⟩
      · exact answers_filled hT hquiet hs hp hidle hstate hjobs hlist
  · exact noEffect_run (exec_forwardedResolution t src s) (forwardedResolution_other (s := fresh s) h)
  · intro x e p off hx hk
    refine ⟨fun hwaits => ?_, fun hrun hflows hs hstays horigin => ?_⟩
    · exact noEffect_run (exec_forwardedResolution t src s) (forwardedResolution_waits (s := fresh s) hx hk hwaits)
    · by_cases hretired : (getPool s t.val p).pstate = 2
      · obtain ⟨s', hexec, ⟨hfar, hpool, hothers, hsame⟩, hsent, hmem⟩ :=
          answers_farRetired hx hk hrun hflows hs hstays horigin hretired
        exact ⟨s', hexec, hfar, hpool, hothers, fun _ => ⟨hsent, hmem, hsame⟩, fun hlive => absurd hretired hlive⟩
      · obtain ⟨s', hexec, hfar, hpool, hothers, hsame⟩ := answers_farIssued hx hk hrun hflows hs hstays hretired
        exact ⟨s', hexec, hfar, hpool, hothers, fun h => absurd h hretired, fun _ => hsame⟩

end Sys2Proof.Machine

/-! ## Proofs: a thermal sample of a tile whose RefreshBand is wider than its object -/

namespace Sys2Proof.Machine

open Sys2Proof

/-! ### The time spent in a band is added to the object that follows BandTime by the band's number (Table 11.5) -/

/-- The number of a band whose BandTime would be LogicThrottlePoint. No command stores it, since RefreshBand has 8 bits. -/
def strayBand : Nat := Obj.logicThrottlePoint - Obj.bandTime

/-- A state in which one tick has passed, with that number in RefreshBand of tile 0 and every other part at its default. -/
def inStrayBand : State := { time := { elapsed := 10 }, dict := [(okey 0 Obj.refreshBand, strayBand)] }

theorem sampleDue_inStrayBand : due inStrayBand 0 2 (if tripped inStrayBand then 20000 else
    getObj inStrayBand 0 Obj.samplingPeriod) = true := by decide +kernel

theorem throttlePoints_inStrayBand : throttlePoint inStrayBand 0 Obj.logicThrottlePoint = 1600 ∧
    throttlePoint inStrayBand 0 Obj.dramThrottlePoint = 1552 := by decide +kernel

/-- The sample leaves the band, so the 10 ns spent in it raise LogicThrottlePoint from 100 °C to 110 °C. Without a reading
every sensor takes its substitute, 110 °C and 105 °C (R288): the logic sensors are no longer over their throttle point,
and u follows from the 8 °C of the DRAM sensors over theirs. -/
theorem sample_inStrayBand {s' : State} (h : exec (.thermalSample 0 []) inStrayBand = .next s') :
    getObj s' 0 Obj.logicThrottlePoint = 110 ∧ getInt s' 0 Obj.logicMax = 1760 ∧
      getInt s' 0 Obj.columnDramMax = 1680 ∧ (getSensor s' 0).u = throttleU 128 := by
  cases h
  decide +kernel

/-- Refutes O41: where RefreshBand holds a number beyond its 8 bits (`inStrayBand`; the statement bounds RecessMinBand and
the band found, not this one), the sample that leaves that band adds its time to LogicThrottlePoint before it computes
u, and the statement has u from the throttle point before the sample. -/
theorem not_heatAndTrip : ¬ Obligations.HeatAndTrip := by
  unfold Obligations.HeatAndTrip
  rintro ⟨hsample, -⟩
  obtain ⟨-, hdue⟩ := hsample 0 [] inStrayBand
  obtain ⟨s', hexec, -, -, -, -, hu, -⟩ := hdue sampleDue_inStrayBand (by decide +kernel) (by decide +kernel)
  obtain ⟨-, hlogic, hdram, hthrottle⟩ := sample_inStrayBand hexec
  obtain ⟨htl, htd⟩ := throttlePoints_inStrayBand
  have hstated : throttleU 128 = throttleU 160 :=
    calc throttleU 128 = (getSensor s' 0).u := hthrottle.symm
      _ = throttleU (max (max (1760 - 1600) (1680 - 1552)) 0) := by
        rw [← hlogic, ← hdram, ← htl, ← htd]; exact hu
      _ = throttleU 160 := rfl
  exact absurd hstated (by decide)

end Sys2Proof.Machine

/-! ## Proofs: segments and pieces of the firmware -/

namespace Sys2Proof.Machine

open Sys2Proof

/-! ### Bits of an object: setting one, and the width of the object -/

theorem bit_eq_testBit (n i : Nat) : bit n i = n.testBit i := Nat.testBit_eq_decide_div_mod_eq.symm

theorem bit_mod_two_pow {i w : Nat} (h : i < w) (n : Nat) : bit (n % 2 ^ w) i = bit n i := by
  rw [bit_eq_testBit, bit_eq_testBit, Nat.testBit_mod_two_pow, decide_eq_true h, Bool.true_and]

theorem bit_setBit_same (n i : Nat) : bit (setBit n i) i = true := by
  unfold setBit
  split
  case isTrue h => exact h
  case isFalse h => rw [bit_eq_testBit] at h ⊢; rw [Nat.add_comm, Nat.testBit_two_pow_add_eq]; simpa using h

/-- Adding 2 ^ i where bit i is clear carries into no higher bit. -/
theorem bit_setBit_other {i j : Nat} (h : j ≠ i) (n : Nat) : bit (setBit n i) j = bit n j := by
  unfold setBit
  split
  case isTrue => rfl
  case isFalse hclear =>
    rcases Nat.lt_or_gt_of_ne h with hlt | hgt
    · rw [bit_eq_testBit, bit_eq_testBit, Nat.add_comm, Nat.testBit_two_pow_add_gt hlt]
    · obtain ⟨d, rfl⟩ := Nat.exists_eq_add_of_lt hgt
      have heven : n / 2 ^ i % 2 = 0 := by simpa [bit] using hclear
      have hsplit : 2 ^ (i + d + 1) = 2 ^ i * (2 * 2 ^ d) := by rw [Nat.add_assoc, Nat.pow_add, Nat.pow_succ']
      have hsum : (n + 2 ^ i) / 2 ^ (i + d + 1) = n / 2 ^ (i + d + 1) := by
        rw [hsplit, ← Nat.div_div_eq_div_mul, ← Nat.div_div_eq_div_mul, ← Nat.div_div_eq_div_mul,
          ← Nat.div_div_eq_div_mul, Nat.add_div_right n (Nat.two_pow_pos i)]
        congr 1
        omega
      rw [bit, bit, hsum]

/-! ### A segment is checked (R365) -/

/-- The header of a segment: its first 64 bytes (Table 14.3). -/
def segHeader (b : List Nat) : Nat := leNat (b.take 64)

/-- R365: the segment belongs to the expected image and meets its header. -/
def SegGood (s : State) (b : List Nat) : Prop :=
  shImageId (segHeader b) = getObj s dev Obj.firmwareExpectImage ∧ segHeaderOk (segHeader b) = true ∧
    crc32 (b.take 60 ++ b.drop 64) = shSegCrc (segHeader b)

/-- The segment is put into the staging SRAM, and its header kept if it is the first. -/
def segStaged (b : List Nat) (s : State) : State := { s with firm := { s.firm with
  staging := fset 0 s.firm.staging (shSeq (segHeader b)) (leNat (b.drop 64))
  header := if decide (getObj s dev Obj.firmwareBitmap = 0) then some (segHeader b) else s.firm.header } }

/-- A new segment is held: staged, marked in FirmwareBitmap and counted. -/
def segTaken (b : List Nat) (s : State) : State :=
  bump dev Obj.firmwareSegmentsHeld 1 (setObj dev Obj.firmwareBitmap
    (setBit (getObj s dev Obj.firmwareBitmap) (shSeq (segHeader b))) (segStaged b s))

theorem segTaken_frame (b : List Nat) (s : State) :
    segTaken b s = { s with firm := (segTaken b s).firm, dict := (segTaken b s).dict } := rfl

section
variable {s : State} {l : List Nat}

theorem segCheck_iff (b : List Nat) : (decide (shImageId (segHeader b) = getObj s dev Obj.firmwareExpectImage) &&
    segHeaderOk (segHeader b) && decide (crc32 (b.take 60 ++ b.drop 64) = shSegCrc (segHeader b))) = true ↔ SegGood s b := by
  simp only [SegGood, Bool.and_eq_true, decide_eq_true_eq, and_assoc]

theorem checkSegment_rejects (h : ¬ SegGood s (segBytes l)) :
    checkSegment l s = answer stBadImage (bump dev Obj.segmentRejects 1 s) := by
  rw [← segCheck_iff, Bool.not_eq_true, ← Bool.not_eq_true'] at h
  exact if_pos h

theorem checkSegment_of_good (h : SegGood s (segBytes l)) : checkSegment l s =
    if segHeld s (shSeq (segHeader (segBytes l))) then answer stOk s else answer stOk (segTaken (segBytes l) s) := by
  rw [← segCheck_iff] at h
  exact if_neg (by rw [Bool.not_eq_true']; exact fun hn => Bool.false_ne_true (hn.symm.trans h))

theorem checkSegment_again (h : SegGood s (segBytes l)) (hheld : segHeld s (shSeq (segHeader (segBytes l))) = true) :
    checkSegment l s = answer stOk s := by
  rw [checkSegment_of_good h, if_pos hheld]

theorem checkSegment_takes (h : SegGood s (segBytes l)) (hheld : segHeld s (shSeq (segHeader (segBytes l))) = false) :
    checkSegment l s = answer stOk (segTaken (segBytes l) s) := by
  rw [checkSegment_of_good h, hheld, if_neg Bool.false_ne_true]

/-- A check leaves everything but the staging SRAM, the objects and the answer alone. -/
theorem checkSegment_frame (l : List Nat) (s : State) : checkSegment l s = { s with
    firm := (checkSegment l s).firm, dict := (checkSegment l s).dict, out := (checkSegment l s).out } := by
  by_cases h : SegGood s (segBytes l)
  · rw [checkSegment_of_good h]
    split
    · rfl
    · have hframe := segTaken_frame (segBytes l) s
      generalize segTaken (segBytes l) s = x at hframe ⊢
      rw [hframe]
      rfl
  · rw [checkSegment_rejects h]
    rfl

end

/-! ### What a new segment changes -/

section
variable (b : List Nat) (s : State)

theorem staging_segTaken : (segTaken b s).firm.staging = fset 0 s.firm.staging (shSeq (segHeader b)) (leNat (b.drop 64)) :=
  rfl

/-- R363: an image has at most 256 segments. -/
theorem shSeq_lt {h : Nat} (hok : segHeaderOk h = true) : shSeq h < 256 := by
  simp only [segHeaderOk, decide_eq_true_eq] at hok
  obtain ⟨-, -, hcount, hseq, -⟩ := hok
  omega

theorem getObj_segTaken_bitmap : getObj (segTaken b s) dev Obj.firmwareBitmap =
    setBit (getObj s dev Obj.firmwareBitmap) (shSeq (segHeader b)) % 2 ^ 256 := by
  have hbits : objBits Obj.firmwareBitmap = 256 := by decide
  unfold segTaken bump
  rw [getObj_setObj_obj _ (by decide) (by decide) (by decide), getObj_setObj_same, hbits]

theorem segHeld_segTaken_same (hseq : shSeq (segHeader b) < 256) : segHeld (segTaken b s) (shSeq (segHeader b)) = true := by
  rw [segHeld, getObj_segTaken_bitmap, bit_mod_two_pow hseq, bit_setBit_same]

theorem segHeld_segTaken_other {k : Nat} (hk : k < 256) (hne : k ≠ shSeq (segHeader b)) :
    segHeld (segTaken b s) k = segHeld s k := by
  rw [segHeld, getObj_segTaken_bitmap, bit_mod_two_pow hk, bit_setBit_other hne, segHeld]

theorem getObj_segTaken_count : getObj (segTaken b s) dev Obj.firmwareSegmentsHeld =
    (getObj s dev Obj.firmwareSegmentsHeld + 1) % 2 ^ 16 := by
  have hbits : objBits Obj.firmwareSegmentsHeld = 16 := by decide
  unfold segTaken bump
  rw [getObj_setObj_same, hbits, getObj_setObj_obj _ (by decide) (by decide) (by decide)]
  rfl

theorem otherObjects_segTaken :
    OtherObjects s (segTaken b s) [(dev, Obj.firmwareBitmap), (dev, Obj.firmwareSegmentsHeld)] := by
  have hbitmap : OtherObjects s _ [(dev, Obj.firmwareBitmap)] :=
    otherObjects_set (s' := setObj dev Obj.firmwareBitmap (setBit (getObj s dev Obj.firmwareBitmap)
      (shSeq (segHeader b))) (segStaged b s)) rfl (by decide)
  have hcount : OtherObjects _ (segTaken b s) [(dev, Obj.firmwareSegmentsHeld)] := otherObjects_set rfl (by decide)
  exact (hbitmap.mono (by simp)).trans (hcount.mono (by simp))

end

/-! ### SEGMENT_POST (R364) -/

/-- The segment port of a tile shows the segment and the status of the answer. -/
def segShown (t : Nat) (l : List Nat) (s : State) : State :=
  { s with seg := fset {} s.seg t { buffer := segBytes l, status := s.out.status } }

theorem segmentPost_down {s : State} (h : mgmtDown s = true) (t : Nat) (l : List Nat) :
    segmentPost t l s = segShown t l (answerHint 100000000 s) := by
  unfold segmentPost
  rw [if_pos h]
  rfl

theorem segmentPost_up {s : State} (h : mgmtDown s = false) (t : Nat) (l : List Nat) :
    segmentPost t l s = segShown t l (checkSegment l s) := by
  unfold segmentPost
  rw [if_neg (by rw [h]; exact Bool.false_ne_true)]
  rfl

/-- A command of `run` answers its effect, whatever state that is. -/
theorem answers_effect {c : Instr} {s : State} {P : State → Prop} {f : State → State} (h : exec c s = run f s)
    (hp : ∀ y, y = f (fresh s) → P (sameTime s y)) : Answers c s P := answers_run h (hp _ rfl)

/-- SEGMENT_POST answers as the state `x` does, before the port shows the segment. -/
theorem answers_segmentPost {s x : State} {t : TileN} {bytes : List Byte}
    (hpost : segmentPost t (byteNats bytes) (fresh s) = segShown t (byteNats bytes) x)
    (hframe : x = { s with firm := x.firm, dict := x.dict, out := x.out }) : Answers (.segmentPost t bytes) s (fun s' =>
      fget ({} : SegPort) s'.seg t.val = { buffer := segBytes (byteNats bytes), status := s'.out.status } ∧
      s'.out = x.out ∧ s'.firm = x.firm ∧ s'.dict = x.dict ∧
      s' = { s with seg := s'.seg, firm := s'.firm, dict := s'.dict, out := s'.out }) := by
  refine answers_effect (exec_segmentPost t bytes s) fun y hy => ?_
  rw [hpost, segShown] at hy
  have hport : fget ({} : SegPort) y.seg t.val = { buffer := segBytes (byteNats bytes), status := x.out.status } := by
    rw [hy]
    exact fget_fset_same _ _ _ _
  have hout : y.out = x.out := by rw [hy]
  have hfirm : y.firm = x.firm := by rw [hy]
  have hdict : y.dict = x.dict := by rw [hy]
  have hrest : y = { s with seg := y.seg, firm := y.firm, dict := y.dict, out := y.out } := by
    have hseg : y = { x with seg := y.seg } := by rw [hy]
    rw [hout, hfirm, hdict, hseg]
    generalize y.seg = ports
    conv_lhs => rw [hframe]
  refine ⟨by rw [sameTime_out, hout]; exact hport, hout, hfirm, hdict, ?_⟩
  rw [hrest]
  rfl

/-! ### FIRMWARE_SEGMENT_PIECE (R364) -/

/-- A piece out of its turn, or of a wrong form. -/
def PieceWrong (src : Nat) (l : List Nat) (s : State) : Prop :=
  l.length ≠ 528 ∨ bits (leNat (l.take 8)) 48 16 ≠ 0 ∨ 7 < bits (leNat (l.take 8)) 32 16 ∨
    (bits (leNat (l.take 8)) 32 16 ≠ 0 ∧ (s.firm.nextPiece ≠ bits (leNat (l.take 8)) 32 16 ∨
      s.firm.pieceId ≠ bits (leNat (l.take 8)) 0 32 ∨ s.firm.pieceSrc ≠ src))

section
variable {src : Nat} {l : List Nat} {s : State}

theorem takePiece_wrong (h : PieceWrong src l s) : takePiece src l s = answer stBadFormat s := by
  unfold takePiece
  dsimp only
  split
  case isTrue => rfl
  case isFalse hform =>
    have hturn : bits (leNat (l.take 8)) 32 16 ≠ 0 ∧ (s.firm.nextPiece ≠ bits (leNat (l.take 8)) 32 16 ∨
        s.firm.pieceId ≠ bits (leNat (l.take 8)) 0 32 ∨ s.firm.pieceSrc ≠ src) := by
      unfold PieceWrong at h
      tauto
    rw [if_neg hturn.1, if_pos hturn.2]

/-- Pieces 0 to 6 are appended; piece 0 begins a new segment. -/
theorem takePiece_next (h : ¬ PieceWrong src l s) (hn : bits (leNat (l.take 8)) 32 16 < 7) :
    takePiece src l s = answer stOk { s with firm := { s.firm with
      nextPiece := bits (leNat (l.take 8)) 32 16 + 1, pieceId := bits (leNat (l.take 8)) 0 32, pieceSrc := src
      pieces := (if bits (leNat (l.take 8)) 32 16 = 0 then [] else s.firm.pieces) ++ l.drop 8 } } := by
  unfold PieceWrong at h
  unfold takePiece
  dsimp only
  rw [if_neg (by tauto)]
  by_cases hzero : bits (leNat (l.take 8)) 32 16 = 0
  · rw [if_pos hzero, if_pos hzero, hzero]
    rfl
  · have hturn : s.firm.nextPiece = bits (leNat (l.take 8)) 32 16 ∧ s.firm.pieceId = bits (leNat (l.take 8)) 0 32 ∧
        s.firm.pieceSrc = src := by tauto
    obtain ⟨-, hid, hsrc⟩ := hturn
    rw [if_neg hzero, if_neg (by tauto), if_pos hn, if_neg hzero, ← hid, ← hsrc]

/-- Piece 7 completes the segment, which is checked. -/
theorem takePiece_last (h : ¬ PieceWrong src l s) (hn : bits (leNat (l.take 8)) 32 16 = 7) :
    takePiece src l s = checkSegment (s.firm.pieces ++ l.drop 8)
      { s with firm := { s.firm with nextPiece := 0, pieces := [] } } := by
  unfold PieceWrong at h
  unfold takePiece
  dsimp only
  rw [if_neg (by tauto), if_neg (by omega), if_neg (by omega), if_neg (by omega)]

end

end Sys2Proof.Machine

/-! ## Proofs: segments and pieces are delivered -/

namespace Sys2Proof.Machine

open Sys2Proof

/-! ### SEGMENT_POST, outcome by outcome (R364, R365) -/

section
variable {t : TileN} {bytes : List Byte} {s : State}

theorem answers_segmentPost_down (h : mgmtDown s = true) : Answers (.segmentPost t bytes) s (fun s' =>
    s'.out = { status := stRetry, hint := 100000000 } ∧
    fget ({} : SegPort) s'.seg t.val = { buffer := segBytes (byteNats bytes), status := s'.out.status } ∧
    s' = { s with seg := s'.seg, out := s'.out }) := by
  refine (answers_segmentPost (segmentPost_down (s := fresh s) h _ _) rfl).imp
    fun s' ⟨hport, hout, hfirm, hdict, hrest⟩ => ⟨hout, hport, ?_⟩
  rw [hfirm, hdict] at hrest
  exact hrest

theorem answers_segmentPost_rejects (hup : mgmtDown s = false) (hbad : ¬ SegGood s (segBytes (byteNats bytes))) :
    Answers (.segmentPost t bytes) s (fun s' => s'.out.status = stBadImage ∧
      fget ({} : SegPort) s'.seg t.val = { buffer := segBytes (byteNats bytes), status := s'.out.status } ∧
      getObj s' dev Obj.segmentRejects = (getObj s dev Obj.segmentRejects + 1) % 2 ^ 32 ∧
      OtherObjects s s' [(dev, Obj.segmentRejects)] ∧ s' = { s with seg := s'.seg, dict := s'.dict, out := s'.out }) := by
  have hpost := segmentPost_up (s := fresh s) hup t.val (byteNats bytes)
  rw [checkSegment_rejects (s := fresh s) hbad] at hpost
  refine (answers_segmentPost hpost rfl).imp fun s' ⟨hport, hout, hfirm, hdict, hrest⟩ => ⟨by rw [hout]; rfl, hport, ?_⟩
  have hbits : objBits Obj.segmentRejects = 32 := by decide
  have hset : s'.dict = (setObj dev Obj.segmentRejects (getObj s dev Obj.segmentRejects + 1) s).dict := hdict
  rw [hfirm] at hrest
  refine ⟨?_, otherObjects_set hset (by decide), hrest⟩
  rw [getObj_congr hset, getObj_setObj_same, hbits]

theorem answers_segmentPost_again (hup : mgmtDown s = false) (hgood : SegGood s (segBytes (byteNats bytes)))
    (hheld : segHeld s (shSeq (segHeader (segBytes (byteNats bytes)))) = true) :
    Answers (.segmentPost t bytes) s (fun s' => s'.out.status = stOk ∧
      fget ({} : SegPort) s'.seg t.val = { buffer := segBytes (byteNats bytes), status := s'.out.status } ∧
      s' = { s with seg := s'.seg, out := s'.out }) := by
  have hpost := segmentPost_up (s := fresh s) hup t.val (byteNats bytes)
  rw [checkSegment_again (s := fresh s) hgood hheld] at hpost
  refine (answers_segmentPost hpost rfl).imp fun s' ⟨hport, hout, hfirm, hdict, hrest⟩ => ⟨by rw [hout]; rfl, hport, ?_⟩
  rw [hfirm, hdict] at hrest
  exact hrest

theorem answers_segmentPost_takes (hup : mgmtDown s = false) (hgood : SegGood s (segBytes (byteNats bytes)))
    (hheld : segHeld s (shSeq (segHeader (segBytes (byteNats bytes)))) = false) :
    Answers (.segmentPost t bytes) s (fun s' => s'.out.status = stOk ∧
      fget ({} : SegPort) s'.seg t.val = { buffer := segBytes (byteNats bytes), status := s'.out.status } ∧
      segHeld s' (shSeq (segHeader (segBytes (byteNats bytes)))) = true ∧
      fget 0 s'.firm.staging (shSeq (segHeader (segBytes (byteNats bytes)))) =
        leNat ((segBytes (byteNats bytes)).drop 64) ∧
      (∀ k, k ≠ shSeq (segHeader (segBytes (byteNats bytes))) → fget 0 s'.firm.staging k = fget 0 s.firm.staging k ∧
        (k < 256 → segHeld s' k = segHeld s k)) ∧
      getObj s' dev Obj.firmwareSegmentsHeld = (getObj s dev Obj.firmwareSegmentsHeld + 1) % 2 ^ 16 ∧
      OtherObjects s s' [(dev, Obj.firmwareBitmap), (dev, Obj.firmwareSegmentsHeld)] ∧
      s' = { s with seg := s'.seg, firm := s'.firm, dict := s'.dict, out := s'.out }) := by
  have hpost := segmentPost_up (s := fresh s) hup t.val (byteNats bytes)
  have hframe := checkSegment_frame (byteNats bytes) (fresh s)
  rw [checkSegment_takes (s := fresh s) hgood hheld] at hpost hframe
  have hseq := shSeq_lt hgood.2.1
  refine (answers_segmentPost hpost hframe).imp fun s' ⟨hport, hout, hfirm, hdict, hrest⟩ => ⟨by rw [hout]; rfl, hport, ?_⟩
  generalize segBytes (byteNats bytes) = b at *
  have hobj : ∀ u k, getObj s' u k = getObj (segTaken b (fresh s)) u k := getObj_congr hdict
  have hstaging : s'.firm.staging = fset 0 s.firm.staging (shSeq (segHeader b)) (leNat (b.drop 64)) := by
    rw [hfirm]
    exact staging_segTaken b (fresh s)
  have hsegHeld : segHeld s' = segHeld (segTaken b (fresh s)) := funext fun k => by rw [segHeld, hobj, segHeld]
  refine ⟨?_, by rw [hstaging, fget_fset_same], fun k hk => ⟨by rw [hstaging, fget_fset_other _ _ _ _ hk], fun hlt => ?_⟩,
    ?_, fun u k hk hn => ?_, hrest⟩
  · rw [hsegHeld, segHeld_segTaken_same b _ hseq]
  · rw [hsegHeld]
    exact segHeld_segTaken_other b (fresh s) hlt hk
  · rw [hobj]
    exact getObj_segTaken_count b (fresh s)
  · rw [hobj]
    exact otherObjects_segTaken b (fresh s) u k hk hn

end

/-! ### FIRMWARE_EXPECT_IMAGE_WRITE (R365), FIRMWARE_ACTIVATE (R366), FLASH_IMAGE_WRITTEN (R367) -/

/-- A new expected image: the staging SRAM and what tells of it are emptied. -/
def expected (v : Nat) (s : State) : State :=
  setObj dev Obj.firmwareExpectImage v (setObj dev Obj.firmwareBitmap 0 (setObj dev Obj.firmwareSegmentsHeld 0
    { s with firm := { s.firm with staging := [], header := none } }))

section
variable {s : State}

theorem otherObjects_expected (v : Nat) : OtherObjects s (expected v s)
    [(dev, Obj.firmwareExpectImage), (dev, Obj.firmwareBitmap), (dev, Obj.firmwareSegmentsHeld)] := by
  let emptied : State := { s with firm := { s.firm with staging := [], header := none } }
  have hcount : OtherObjects s (setObj dev Obj.firmwareSegmentsHeld 0 emptied) [(dev, Obj.firmwareSegmentsHeld)] :=
    otherObjects_set rfl (by decide)
  have hbitmap : OtherObjects _ (setObj dev Obj.firmwareBitmap 0 (setObj dev Obj.firmwareSegmentsHeld 0 emptied))
      [(dev, Obj.firmwareBitmap)] := otherObjects_set rfl (by decide)
  have himage : OtherObjects _ (expected v s) [(dev, Obj.firmwareExpectImage)] := otherObjects_set rfl (by decide)
  exact ((hcount.mono (by simp)).trans (hbitmap.mono (by simp))).trans (himage.mono (by simp))

theorem writeExpect_scheduled {v : Nat} (h : s.firm.scheduled ≠ none) : writeExpect v s = answer stRetry s :=
  if_pos (Option.isSome_iff_ne_none.mpr h)

theorem writeExpect_unscheduled {v : Nat} (h : s.firm.scheduled = none) : writeExpect v s =
    if v = getObj s dev Obj.firmwareExpectImage then answer stOk s else answer stOk (expected v s) :=
  if_neg (by rw [h]; exact Bool.false_ne_true)

theorem noEffect_expect_same {v : BitVec 32} (h : s.firm.scheduled = none)
    (hsame : v.toNat = getObj s dev Obj.firmwareExpectImage) : NoEffect (.firmwareExpectImageWrite v) s := by
  refine noEffect_run (exec_firmwareExpectImageWrite v s) ?_
  rw [writeExpect_unscheduled (s := fresh s) h, getObj_fresh, if_pos hsame]
  rfl

theorem answers_expect_new {v : BitVec 32} (h : s.firm.scheduled = none)
    (hnew : v.toNat ≠ getObj s dev Obj.firmwareExpectImage) : Answers (.firmwareExpectImageWrite v) s (fun s' =>
      getObj s' dev Obj.firmwareExpectImage = v.toNat ∧ getObj s' dev Obj.firmwareBitmap = 0 ∧
      getObj s' dev Obj.firmwareSegmentsHeld = 0 ∧
      OtherObjects s s' [(dev, Obj.firmwareExpectImage), (dev, Obj.firmwareBitmap), (dev, Obj.firmwareSegmentsHeld)] ∧
      s' = { s with firm := { s.firm with staging := [], header := none }, dict := s'.dict, out := {} }) := by
  have hbits : objBits Obj.firmwareExpectImage = 32 := by decide
  refine answers_effect (exec_firmwareExpectImageWrite v s) fun y hy => ?_
  rw [writeExpect_unscheduled (s := fresh s) h, getObj_fresh, if_neg hnew] at hy
  have hobj : ∀ u k, getObj y u k = getObj (expected v.toNat (fresh s)) u k := getObj_congr (by rw [hy]; rfl)
  have hrest : y = { s with firm := { s.firm with staging := [], header := none }, dict := y.dict, out := {} } := by
    rw [hy]
    rfl
  refine ⟨?_, ?_, ?_, fun u k hk hn => ?_, by rw [hrest]; rfl⟩
  · rw [getObj_sameTime, hobj, expected, getObj_setObj_fits _ (by rw [hbits]; exact v.isLt)]
  · rw [getObj_sameTime, hobj, expected, getObj_setObj_obj _ (by decide) (by decide) (by decide), getObj_setObj_same,
      Nat.zero_mod]
  · rw [getObj_sameTime, hobj, expected, getObj_setObj_obj _ (by decide) (by decide) (by decide),
      getObj_setObj_obj _ (by decide) (by decide) (by decide), getObj_setObj_same, Nat.zero_mod]
  · rw [getObj_sameTime, hobj]
    exact otherObjects_expected (s := fresh s) _ u k hk hn

/-- The activation that a value of FirmwareActivate schedules (R366). -/
def planned (v : Nat) (s : State) : State := setObj dev Obj.firmwareState 3
  { s with firm := { s.firm with scheduled := some (bits v 64 64, bits v 32 32, bits v 0 32) } }

theorem writeActivate_scheduled {v : Nat} (h : s.firm.scheduled ≠ none) : writeActivate v s = answer stRetry s :=
  if_pos (Option.isSome_iff_ne_none.mpr h)

theorem writeActivate_unscheduled {v : Nat} (h : s.firm.scheduled = none) :
    writeActivate v s = answer stOk (planned v s) :=
  if_neg (by rw [h]; exact Bool.false_ne_true)

theorem answers_activate {v : BitVec 128} (h : s.firm.scheduled = none) : Answers (.firmwareActivate v) s (fun s' =>
    getObj s' dev Obj.firmwareState = 3 ∧ OtherObjects s s' [(dev, Obj.firmwareState)] ∧ s' = { s with
      dict := s'.dict, out := {}
      firm := { s.firm with scheduled := some (bits v.toNat 64 64, bits v.toNat 32 32, bits v.toNat 0 32) } }) := by
  refine answers_run (exec_firmwareActivate v s) ?_
  rw [writeActivate_unscheduled (s := fresh s) h]
  have hstate : getObj (planned v.toNat (fresh s)) dev Obj.firmwareState = 3 := getObj_setObj_fits _ (by decide)
  have hothers : OtherObjects (fresh s) (planned v.toNat (fresh s)) [(dev, Obj.firmwareState)] :=
    otherObjects_set rfl (by decide)
  exact ⟨hstate, hothers, rfl⟩

/-- The flash holds the running image's header again (R367). -/
def flashed (s : State) : State := setObj dev Obj.flashImageState 0
  { s with firm := { s.firm with flashWriting := false, flashHeader := s.firm.runningHeader.map flashForm } }

theorem flashWritten_idle (h : s.firm.flashWriting = false) : flashWritten s = s :=
  if_pos (by rw [h]; rfl)

theorem flashWritten_writing (h : s.firm.flashWriting = true) : flashWritten s = flashed s :=
  if_neg (by rw [h]; exact Bool.false_ne_true)

theorem answers_flashWritten (h : s.firm.flashWriting = true) : Answers .flashImageWritten s (fun s' =>
    getObj s' dev Obj.flashImageState = 0 ∧
    s'.firm = { s.firm with flashWriting := false, flashHeader := s.firm.runningHeader.map flashForm } ∧
    OtherObjects s s' [(dev, Obj.flashImageState)] ∧ s' = { s with firm := s'.firm, dict := s'.dict, out := {} }) := by
  refine answers_run (exec_flashImageWritten s) ?_
  rw [flashWritten_writing (s := fresh s) h]
  have hstate : getObj (flashed (fresh s)) dev Obj.flashImageState = 0 := getObj_setObj_fits _ (by decide)
  have hothers : OtherObjects (fresh s) (flashed (fresh s)) [(dev, Obj.flashImageState)] :=
    otherObjects_set rfl (by decide)
  exact ⟨hstate, rfl, hothers, rfl⟩

end

/-! ### FIRMWARE_SEGMENT_PIECE (R364) -/

section
variable {bytes : List Byte} {s : State}

/-- A check leaves the queue and the time alone. -/
theorem sameTime_checkSegment (s : State) (l : List Nat) (x : State) (hqueue : x.pending = s.pending)
    (htime : x.time = s.time) : sameTime s (checkSegment l x) = checkSegment l x := by
  have hframe := checkSegment_frame l x
  generalize checkSegment l x = y at hframe ⊢
  rw [hframe, sameTime, hqueue, htime]

theorem refuses_piece (h : PieceWrong 0 (byteNats bytes) s) : Refuses (.firmwareSegmentPiece bytes) s stBadFormat :=
  refuses_run (exec_firmwareSegmentPiece bytes s) (takePiece_wrong (s := fresh s) h)

theorem answers_piece_next (h : ¬ PieceWrong 0 (byteNats bytes) s) (hn : bits (leNat ((byteNats bytes).take 8)) 32 16 < 7) :
    Answers (.firmwareSegmentPiece bytes) s (fun s' => s'.out.status = stOk ∧
      s'.firm = { s.firm with
        nextPiece := bits (leNat ((byteNats bytes).take 8)) 32 16 + 1
        pieceId := bits (leNat ((byteNats bytes).take 8)) 0 32, pieceSrc := 0
        pieces := (if bits (leNat ((byteNats bytes).take 8)) 32 16 = 0 then [] else s.firm.pieces) ++
          (byteNats bytes).drop 8 } ∧ s' = { s with firm := s'.firm, out := s'.out }) := by
  refine answers_run (exec_firmwareSegmentPiece bytes s) ?_
  rw [takePiece_next (s := fresh s) h hn]
  exact ⟨rfl, rfl, rfl⟩

theorem exec_piece_last (h : ¬ PieceWrong 0 (byteNats bytes) s) (hn : bits (leNat ((byteNats bytes).take 8)) 32 16 = 7) :
    exec (.firmwareSegmentPiece bytes) s = .next (checkSegment (s.firm.pieces ++ (byteNats bytes).drop 8)
      { s with out := {}, firm := { s.firm with nextPiece := 0, pieces := [] } }) := by
  rw [exec_firmwareSegmentPiece, run_next, takePiece_last (s := fresh s) h hn]
  exact congrArg _ (sameTime_checkSegment s _ _ rfl rfl)

end

end Sys2Proof.Machine

/-! ## Proofs: what the reset of a mailbox side leaves alone -/

namespace Sys2Proof.Machine

open Sys2Proof

/-! ### Mailboxes, doorbells and reports, and the objects of some indices -/

/-- `s'` differs from `s` in mailboxes, doorbells, counted events, log entries and frames, and in objects whose index is
in `L` only. -/
structure Relays (L : List Nat) (s s' : State) : Prop where
  fields : s' = { s with
    dict := s'.dict, mail := s'.mail, door := s'.door, count := s'.count
    out := { s.out with frames := s'.out.frames }
    field := { s.field with events := s'.field.events } }
  objs : ∀ u k, k < 2 ^ 24 → k / 256 ∉ L → getObj s' u k = getObj s u k

section
variable {L : List Nat} {a b c : State}

theorem Relays.refl (L : List Nat) (s : State) : Relays L s s := ⟨rfl, fun _ _ _ _ => rfl⟩

theorem Relays.trans (h : Relays L a b) (h' : Relays L b c) : Relays L a c := by
  refine ⟨?_, fun u k hk hL => (h'.objs u k hk hL).trans (h.objs u k hk hL)⟩
  have e := h'.fields
  rw [h.fields] at e
  exact e

theorem Relays.mono {M : List Nat} (h : Relays L a b) (hL : L ⊆ M) : Relays M a b :=
  ⟨h.fields, fun u k hk hM => h.objs u k hk fun hin => hM (hL hin)⟩

theorem Relays.firm (h : Relays L a b) : b.firm = a.firm := by rw [h.fields]
theorem Relays.time (h : Relays L a b) : b.time = a.time := by rw [h.fields]
theorem Relays.mgmtUntil (h : Relays L a b) : b.field.mgmtUntil = a.field.mgmtUntil := by rw [h.fields]

theorem Relays.sameMemory (h : Relays L a b) : SameMemory a b := by
  apply sameMemory_of <;> rw [h.fields]

/-- An operation that writes no object. -/
theorem relays_of_dict (hdict : b.dict = a.dict) (h : b = { a with
    mail := b.mail, door := b.door, count := b.count
    out := { a.out with frames := b.out.frames }
    field := { a.field with events := b.field.events } }) : Relays L a b := by
  refine ⟨?_, fun u k _ _ => getObj_congr hdict u k⟩
  rw [hdict]
  exact h

theorem relays_setObj {k : Nat} (hk : k < 2 ^ 24) (hL : k / 256 ∈ L) (u v : Nat) (s : State) :
    Relays L s (setObj u k v s) := by
  refine ⟨rfl, fun w j hj hn => getObj_setObj_obj s ?_ hj hk⟩
  rintro rfl
  exact hn hL

theorem relays_ite (p : Prop) [Decidable p] (ha : Relays L c a) (hb : Relays L c b) : Relays L c (if p then a else b) := by
  split
  · exact ha
  · exact hb

theorem relays_range {f : State → Nat → State} {n : Nat} (hf : ∀ x i, i < n → Relays L x (f x i)) (s : State) :
    Relays L s ((List.range n).foldl f s) := by
  induction n with
  | zero => exact .refl L s
  | succ n ih =>
    rw [List.range_succ, List.foldl_append]
    exact (ih fun x i hi => hf x i (by omega)).trans (hf _ n (by omega))

theorem relays_forTiles {f : Nat → State → State} (hf : ∀ t x, Relays L x (f t x)) (s : State) :
    Relays L s (forTiles f s) := relays_range (fun x t _ => hf t x) s

end

/-! ### Reports: events, log entries, frames and doorbells -/

/-- EventsMerged, FramesSent and the dropped entries of a tile's and of the device's log. -/
def noticeIndices : List Nat := [0x1109, 0x1118, 0x8057, 0x8067]

theorem relays_countEv {L : List Nat} (t e q w : Nat) (s : State) : Relays L s (countEv t e q w s) := by
  unfold countEv
  split
  · exact .refl L s
  · exact relays_of_dict rfl rfl

theorem relays_ringSide {L : List Nat} (t side b : Nat) (s : State) : Relays L s (ringSide t side b s) := by
  have hdoor : Relays L s (modDoor t side (fun d => { d with status := setBit d.status b }) s) := relays_of_dict rfl rfl
  unfold ringSide
  dsimp only
  split
  · exact hdoor.trans (relays_countEv _ _ _ _ _)
  · exact hdoor

theorem relays_addLog (u a b c d e : Nat) (s : State) : Relays noticeIndices s (addLog u a b c d e s) := by
  unfold addLog
  dsimp only
  split
  · unfold logDropped
    split
    · exact relays_setObj (by decide) (by decide) _ _ s
    · exact relays_setObj (by decide) (by decide) _ _ s
  · exact relays_of_dict rfl rfl

theorem relays_sendFrame (i : Nat) (d : List Nat) (s : State) : Relays noticeIndices s (sendFrame i d s) := by
  unfold sendFrame
  split
  · exact .refl _ s
  · exact Relays.trans (b := { s with out := { s.out with frames := s.out.frames ++ [⟨i, padFrame d⟩] } })
      (relays_of_dict rfl rfl) (relays_setObj (by decide) (by decide) _ _ _)

theorem relays_sendEvent (u b : Nat) (s : State) : Relays noticeIndices s (sendEvent u b s) := by
  have hmerged : Relays noticeIndices s (bump dev Obj.eventsMerged 1 s) := relays_setObj (by decide) (by decide) _ _ s
  have hsent : ∀ l i d, Relays noticeIndices s (sendFrame i d { s with field := { s.field with events := l } }) :=
    fun l _ _ => Relays.trans (b := { s with field := { s.field with events := l } }) (relays_of_dict rfl rfl)
      (relays_sendFrame _ _ _)
  unfold sendEvent
  exact relays_ite _ (.refl _ s) (relays_ite _ hmerged (hsent _ _ _))

theorem relays_ring (t b : Nat) (s : State) : Relays noticeIndices s (ring t b s) :=
  ((relays_ringSide t 0 b s).trans (relays_ringSide t 1 b _)).trans (relays_sendEvent t b _)

theorem relays_ringAll (b : Nat) (s : State) : Relays noticeIndices s (ringAll b s) :=
  (relays_forTiles (fun t x => (relays_ringSide t 0 b x).trans (relays_ringSide t 1 b _)) s).trans (relays_sendEvent _ _ _)

theorem Side.mail {s s' : State} (h : Side s s') : s'.mail = s.mail := by rw [h.fields]
theorem Side.firm {s s' : State} (h : Side s s') : s'.firm = s.firm := by rw [h.fields]

/-! ### The pairs of a tile (R360, R361) -/

/-- MailboxWithdrawn. -/
def withdrawnIndex : List Nat := [0xA013]

section
variable {gone : Nat → Bool} {t p d : Nat}

theorem relays_withdrawn (hp : p < 8) (n : Nat) (s : State) :
    Relays withdrawnIndex s (bump t (Obj.mailboxWithdrawn + p) n s) := by
  have hkey : ∀ q : Fin 8, Obj.mailboxWithdrawn + q.val < 2 ^ 24 ∧ (Obj.mailboxWithdrawn + q.val) / 256 ∈ withdrawnIndex := by
    decide
  obtain ⟨hlt, hin⟩ := hkey ⟨p, hp⟩
  exact relays_setObj hlt hin _ _ s

/-- A direction changes, its messages are counted as withdrawn and its sender's doorbell rings. -/
theorem relays_withdraw (hp : p < 8) (f : MDir → MDir) (n side b : Nat) (s : State) : Relays withdrawnIndex s
    (ringDoor t side b (bump t (Obj.mailboxWithdrawn + p) n (modMail t p d f s))) := by
  have hmail : Relays withdrawnIndex s (modMail t p d f s) := relays_of_dict rfl rfl
  exact (hmail.trans (relays_withdrawn hp n _)).trans (relays_ringSide _ _ _ _)

theorem relays_dirReset (hp : p < 8) (s : State) : Relays withdrawnIndex s (dirReset gone t p d s) := by
  unfold dirReset
  split
  · exact relays_withdraw hp _ _ _ _ s
  · split
    · unfold receiverReset
      split
      · exact .refl _ s
      · exact relays_withdraw hp _ _ _ _ s
    · exact .refl _ s

theorem relays_pairsReset (s : State) : Relays withdrawnIndex s (pairsReset gone t s) :=
  relays_range (fun x _ hp => (relays_dirReset hp x).trans (relays_dirReset hp _)) s

end

/-! ### What a fold over numbers does to one part of the state -/

section
variable {α : Type} {f : State → Nat → State} {part : State → α} {n : Nat}

theorem foldl_range_keeps (hf : ∀ x j, j < n → part (f x j) = part x) (s : State) :
    part ((List.range n).foldl f s) = part s := by
  induction n with
  | zero => rfl
  | succ n ih =>
    rw [List.range_succ, List.foldl_append]
    exact (hf _ n (by omega)).trans (ih fun x j hj => hf x j (by omega))

/-- A part that only one number of the fold changes. -/
theorem foldl_range_at {g : α → α} {i : Nat} (hi : i < n) (hown : ∀ x, part (f x i) = g (part x))
    (hother : ∀ x j, j < n → j ≠ i → part (f x j) = part x) (s : State) :
    part ((List.range n).foldl f s) = g (part s) := by
  induction n with
  | zero => omega
  | succ n ih =>
    rw [List.range_succ, List.foldl_append]
    by_cases hlast : i = n
    · subst hlast
      exact (hown _).trans (congrArg g (foldl_range_keeps (fun x j hj => hother x j (by omega) (by omega)) s))
    · exact (hother _ n (by omega) (Ne.symm hlast)).trans (ih (by omega) fun x j hj => hother x j (by omega))

theorem forTiles_at {h : Nat → State → State} {g : α → α} {t : Nat} (ht : t < 64) (hown : ∀ x, part (h t x) = g (part x))
    (hother : ∀ x u, u ≠ t → part (h u x) = part x) (s : State) : part (forTiles h s) = g (part s) :=
  foldl_range_at ht hown (fun x u _ hu => hother x u hu) s

end

/-! ### The mailboxes after a reset (R360, R361) -/

/-- A direction of a pair when the sides of `gone` were reset. -/
def dirAfter (gone : Nat → Bool) (p d : Nat) (m : MDir) : MDir :=
  if gone (senderSide p d) then { m with slots := [], acks := handedBack m stResetWithdrawn }
  else if gone (receiverSide p d) then { m with slots := [], acks := m.acks ++ handedBack m stReceiverReset }
  else m

section
variable {gone : Nat → Bool} {t p d : Nat}

theorem getMail_congr {s s' : State} (h : s'.mail = s.mail) (t p d : Nat) : getMail s' t p d = getMail s t p d := by
  unfold getMail
  rw [h]

theorem getMail_modMail_same (t p d : Nat) (f : MDir → MDir) (s : State) :
    getMail (modMail t p d f s) t p d = f (getMail s t p d) := fget_fupd_same _ _ _ _

theorem getMail_modMail_other {u q e : Nat} (h : (t * 8 + p) * 2 + d ≠ (u * 8 + q) * 2 + e) (f : MDir → MDir) (s : State) :
    getMail (modMail u q e f s) t p d = getMail s t p d := fget_fupd_other _ _ _ _ h

theorem mail_ringDoor (t side b : Nat) (s : State) : (ringDoor t side b s).mail = s.mail := (side_ringSide _ _ _ s).mail

theorem getMail_withdraw_same (f : MDir → MDir) (n side b : Nat) (s : State) :
    getMail (ringDoor t side b (bump t (Obj.mailboxWithdrawn + p) n (modMail t p d f s))) t p d = f (getMail s t p d) :=
  (getMail_congr (mail_ringDoor t side b (bump t (Obj.mailboxWithdrawn + p) n (modMail t p d f s))) t p d).trans
    (getMail_modMail_same t p d f s)

theorem getMail_withdraw_other {u q e : Nat} (h : (t * 8 + p) * 2 + d ≠ (u * 8 + q) * 2 + e) (f : MDir → MDir)
    (n side b : Nat) (s : State) :
    getMail (ringDoor u side b (bump u (Obj.mailboxWithdrawn + q) n (modMail u q e f s))) t p d = getMail s t p d :=
  (getMail_congr (mail_ringDoor u side b (bump u (Obj.mailboxWithdrawn + q) n (modMail u q e f s))) t p d).trans
    (getMail_modMail_other h f s)

theorem getMail_senderReset_same (s : State) : getMail (senderReset t p d s) t p d =
    { getMail s t p d with slots := [], acks := handedBack (getMail s t p d) stResetWithdrawn } :=
  getMail_withdraw_same _ _ _ _ s

theorem getMail_receiverReset_same (s : State) : getMail (receiverReset t p d s) t p d =
    { getMail s t p d with slots := [], acks := (getMail s t p d).acks ++ handedBack (getMail s t p d) stReceiverReset } := by
  unfold receiverReset handedBack
  split
  next hnone =>
    rw [hnone, List.map_nil, List.append_nil]
    generalize getMail s t p d = m at hnone ⊢
    rw [← hnone]
  next => exact getMail_withdraw_same _ _ _ _ s

theorem getMail_dirReset_same (s : State) :
    getMail (dirReset gone t p d s) t p d = dirAfter gone p d (getMail s t p d) := by
  unfold dirReset dirAfter
  split
  · exact getMail_senderReset_same s
  · split
    · exact getMail_receiverReset_same s
    · rfl

theorem getMail_dirReset_other {u q e : Nat} (h : (t * 8 + p) * 2 + d ≠ (u * 8 + q) * 2 + e) (s : State) :
    getMail (dirReset gone u q e s) t p d = getMail s t p d := by
  unfold dirReset
  split
  · exact getMail_withdraw_other h _ _ _ _ s
  · split
    · unfold receiverReset
      split
      · rfl
      · exact getMail_withdraw_other h _ _ _ _ s
    · rfl

theorem getMail_pairsReset_same (hp : p < 8) (hd : d < 2) (s : State) :
    getMail (pairsReset gone t s) t p d = dirAfter gone p d (getMail s t p d) := by
  refine foldl_range_at (part := fun x => getMail x t p d) hp (fun x => ?_) (fun x q _ hq => ?_) s
  · rcases Nat.lt_or_ge d 1 with hd0 | hd1
    · obtain rfl : d = 0 := by omega
      rw [getMail_dirReset_other (by omega), getMail_dirReset_same]
    · obtain rfl : d = 1 := by omega
      rw [getMail_dirReset_same, getMail_dirReset_other (by omega)]
  · rw [getMail_dirReset_other (by omega), getMail_dirReset_other (by omega)]

theorem getMail_pairsReset_tile {u : Nat} (hu : u ≠ t) (hp : p < 8) (hd : d < 2) (s : State) :
    getMail (pairsReset gone u s) t p d = getMail s t p d :=
  foldl_range_keeps (part := fun x => getMail x t p d) (fun x q hq => by
    rw [getMail_dirReset_other (by omega), getMail_dirReset_other (by omega)]) s

/-- A side that is no end of a pair leaves it alone. -/
theorem dirAfter_elsewhere (hhost : gone 0 = false) (hfw : gone (fwSide p) = false) (m : MDir) : dirAfter gone p d m = m := by
  have hends : gone (senderSide p d) = false ∧ gone (receiverSide p d) = false := by
    unfold senderSide receiverSide
    split <;> exact ⟨by assumption, by assumption⟩
  simp only [dirAfter, hends.1, hends.2, Bool.false_eq_true, if_false]

/-- The reset of a pair's firmware side: it sends in direction 1 and receives in direction 0. -/
theorem sideWasReset_of_dirAfter {s s' : State} (hhost : gone 0 = false) (hfw : gone (fwSide p) = true)
    (hmail : ∀ d < 2, getMail s' t p d = dirAfter gone p d (getMail s t p d)) : SideWasReset s s' t p 1 := by
  refine ⟨(hmail 1 (by decide)).trans ?_, (hmail 0 (by decide)).trans ?_⟩
  · exact if_pos hfw
  · exact (if_neg (by rw [senderSide, if_pos rfl, hhost]; exact Bool.false_ne_true)).trans (if_pos hfw)

end

/-! ### The reset of a sequencer's side, and of the management unit's (R360, R361) -/

/-- SequencerEpoch, and what a pair's reset counts in. -/
def sequencerIndices : List Nat := [0xA013, 0xA016]

section
variable {t : Nat}

theorem relays_sequencerSideReset (t : Nat) (s : State) : Relays sequencerIndices s (sequencerSideReset t s) := by
  have hepoch : Relays sequencerIndices s (setObj t Obj.sequencerEpoch ((getObj s t Obj.sequencerEpoch + 1) % 64) s) :=
    relays_setObj (by decide) (by decide) _ _ s
  have hpairs : ∀ x, Relays sequencerIndices x (pairsReset (fun x => x = 1) t x) := fun x =>
    (relays_pairsReset x).mono (by decide)
  exact (hepoch.trans (relays_of_dict (b := clearDoor t 1 _) rfl rfl)).trans (hpairs _)

theorem getMail_sequencerSideReset_same {p d : Nat} (hp : p < 8) (hd : d < 2) (s : State) :
    getMail (sequencerSideReset t s) t p d = dirAfter (fun x => x = 1) p d (getMail s t p d) :=
  getMail_pairsReset_same hp hd (clearDoor t 1 _)

theorem getMail_sequencerSideReset_tile {u p d : Nat} (hu : u ≠ t) (hp : p < 8) (hd : d < 2) (s : State) :
    getMail (sequencerSideReset u s) t p d = getMail s t p d :=
  getMail_pairsReset_tile hu hp hd (clearDoor u 1 _)

theorem getObj_clearDoor (t side : Nat) (s : State) (u k : Nat) : getObj (clearDoor t side s) u k = getObj s u k := rfl

theorem epoch_sequencerSideReset_same (s : State) : getObj (sequencerSideReset t s) t Obj.sequencerEpoch =
    (getObj s t Obj.sequencerEpoch + 1) % 64 := by
  have hbits : objBits Obj.sequencerEpoch = 8 := by decide
  unfold sequencerSideReset
  dsimp only
  rw [(relays_pairsReset _).objs t Obj.sequencerEpoch (by decide) (by decide), getObj_clearDoor, getObj_setObj_same, hbits]
  omega

theorem epoch_sequencerSideReset_tile {u : Nat} (hu : u ≠ t) (s : State) :
    getObj (sequencerSideReset u s) t Obj.sequencerEpoch = getObj s t Obj.sequencerEpoch := by
  unfold sequencerSideReset
  dsimp only
  rw [(relays_pairsReset _).objs t Obj.sequencerEpoch (by decide) (by decide), getObj_clearDoor,
    getObj_setObj_unit _ (Ne.symm hu) (by decide) (by decide)]

/-- The sequencer's side of a tile was reset: its epoch, and pairs 0 to 5. -/
theorem sideWasReset_sequencer {p : Nat} (hp : p < 6) (s : State) : SideWasReset s (sequencerSideReset t s) t p 1 := by
  refine sideWasReset_of_dirAfter (gone := fun x => x = 1) rfl (by simp [fwSide, hp]) fun d hd => ?_
  exact getMail_sequencerSideReset_same (by omega) hd s

/-! Every sequencer's side -/

theorem relays_sequencers (s : State) : Relays sequencerIndices s (forTiles sequencerSideReset s) :=
  relays_forTiles relays_sequencerSideReset s

theorem epoch_sequencers (ht : t < 64) (s : State) : getObj (forTiles sequencerSideReset s) t Obj.sequencerEpoch =
    (getObj s t Obj.sequencerEpoch + 1) % 64 :=
  forTiles_at (part := fun x => getObj x t Obj.sequencerEpoch) (g := fun e => (e + 1) % 64) ht
    (fun x => epoch_sequencerSideReset_same x) (fun x _ hu => epoch_sequencerSideReset_tile hu x) s

theorem getMail_sequencers {p d : Nat} (ht : t < 64) (hp : p < 8) (hd : d < 2) (s : State) :
    getMail (forTiles sequencerSideReset s) t p d = dirAfter (fun x => x = 1) p d (getMail s t p d) :=
  forTiles_at (part := fun x => getMail x t p d) ht (fun x => getMail_sequencerSideReset_same hp hd x)
    (fun x _ hu => getMail_sequencerSideReset_tile hu hp hd x) s

end

/-- ManagementEpoch, the causes and counts of resets, and what a pair's reset and a report count in. -/
def managementIndices : List Nat := [0xA013, 0xA017, 0x9827, 0x9828] ++ noticeIndices

section
variable (s : State)

theorem relays_managementSideReset : Relays managementIndices s (managementSideReset s) := by
  have hepoch : Relays managementIndices s (setObj dev Obj.managementEpoch ((getObj s dev Obj.managementEpoch + 1) % 64) s) :=
    relays_setObj (by decide) (by decide) _ _ s
  have hpairs : ∀ t x, Relays managementIndices x (pairsReset (fun x => x = 2) t x) := fun t x =>
    (relays_pairsReset x).mono (by decide)
  exact (hepoch.trans (relays_of_dict (b := clearDoor 0 2 _) rfl rfl)).trans (relays_forTiles hpairs _)

theorem relays_noteReset (t : Nat) : Relays managementIndices s (noteReset t 8 s) :=
  (relays_setObj (by decide) (by decide) _ _ s).trans (relays_setObj (by decide) (by decide) _ _ _)

theorem getMail_managementSideReset {t p d : Nat} (ht : t < 64) (hp : p < 8) (hd : d < 2) :
    getMail (managementSideReset s) t p d = dirAfter (fun x => x = 2) p d (getMail s t p d) :=
  forTiles_at (part := fun x => getMail x t p d) ht (fun x => getMail_pairsReset_same hp hd x)
    (fun x _ hu => getMail_pairsReset_tile hu hp hd x) (clearDoor 0 2 _)

theorem epoch_managementSideReset : getObj (managementSideReset s) dev Obj.managementEpoch =
    (getObj s dev Obj.managementEpoch + 1) % 64 := by
  have hbits : objBits Obj.managementEpoch = 8 := by decide
  have hpairs : ∀ x, Relays withdrawnIndex x (forTiles (pairsReset (fun x => x = 2)) x) :=
    relays_forTiles fun _ => relays_pairsReset
  unfold managementSideReset
  dsimp only
  rw [(hpairs _).objs dev Obj.managementEpoch (by decide) (by decide), getObj_clearDoor, getObj_setObj_same, hbits]
  omega

end

end Sys2Proof.Machine

/-! ## Proofs: the management unit is reset and restarts -/

namespace Sys2Proof.Machine

open Sys2Proof

/-! ### Its reset (R383) -/

/-- The reset of the management unit as far as mailboxes, doorbells, reports and objects show it. -/
def managementNoted (s : State) : State :=
  managementSideReset (addLog dev 0x0C 3 stOk 8 0 (forTiles (fun t s => noteReset t 8 s) s))

/-- Its firmware is away, and what was scheduled and the pieces it had are forgotten. -/
def sentAway (s : State) : State := { s with
  field := { s.field with mgmtUntil := s.time.elapsed + 5000000 }
  firm := { s.firm with scheduled := none, nextPiece := 0, pieces := [] } }

theorem resetManagement_eq (s : State) : resetManagement s = sentAway (managementNoted s) := rfl

theorem getObj_sentAway (s : State) (u k : Nat) : getObj (sentAway s) u k = getObj s u k := rfl
theorem getMail_sentAway (s : State) (t p d : Nat) : getMail (sentAway s) t p d = getMail s t p d := rfl
theorem time_sentAway (s : State) : (sentAway s).time = s.time := rfl
theorem sameMemory_sentAway (s : State) : SameMemory s (sentAway s) := sameMemory_of rfl rfl rfl rfl
theorem mgmtUntil_sentAway (s : State) : (sentAway s).field.mgmtUntil = s.time.elapsed + 5000000 := rfl
theorem firm_sentAway (s : State) :
    (sentAway s).firm = { s.firm with scheduled := none, nextPiece := 0, pieces := [] } := rfl

section
variable (s : State)

/-- The reports that come before the reset of the mailbox sides. -/
theorem relays_noteResets : Relays managementIndices s (addLog dev 0x0C 3 stOk 8 0 (forTiles (fun t s => noteReset t 8 s) s)) :=
  (relays_forTiles (fun t x => relays_noteReset x t) s).trans ((relays_addLog _ _ _ _ _ _ _).mono (by decide))

theorem relays_managementNoted : Relays managementIndices s (managementNoted s) :=
  (relays_noteResets s).trans (relays_managementSideReset _)

theorem mail_noteResets : (addLog dev 0x0C 3 stOk 8 0 (forTiles (fun t s => noteReset t 8 s) s)).mail = s.mail :=
  (side_addLog _ _ _ _ _ _ _).mail.trans
    (foldl_range_keeps (f := fun s t => noteReset t 8 s) (part := State.mail) (fun _ _ _ => rfl) s)

theorem epoch_noteResets : getObj (addLog dev 0x0C 3 stOk 8 0 (forTiles (fun t s => noteReset t 8 s) s)) dev
    Obj.managementEpoch = getObj s dev Obj.managementEpoch := by
  have hnote : ∀ t x, Relays [0x9827, 0x9828] x (noteReset t 8 x) := fun t x =>
    (relays_setObj (by decide) (by decide) _ _ x).trans (relays_setObj (by decide) (by decide) _ _ _)
  rw [(relays_addLog _ _ _ _ _ _ _).objs dev Obj.managementEpoch (by decide) (by decide),
    (relays_forTiles hnote s).objs dev Obj.managementEpoch (by decide) (by decide)]

theorem firm_resetManagement :
    (resetManagement s).firm = { s.firm with scheduled := none, nextPiece := 0, pieces := [] } := by
  rw [resetManagement_eq, firm_sentAway, (relays_managementNoted s).firm]

theorem mgmtUntil_resetManagement : (resetManagement s).field.mgmtUntil = s.time.elapsed + 5000000 := by
  rw [resetManagement_eq, mgmtUntil_sentAway, (relays_managementNoted s).time]

theorem time_resetManagement : (resetManagement s).time = s.time := by
  rw [resetManagement_eq, time_sentAway, (relays_managementNoted s).time]

theorem sameMemory_resetManagement : SameMemory s (resetManagement s) := by
  rw [resetManagement_eq]
  exact (relays_managementNoted s).sameMemory.trans (sameMemory_sentAway _)

theorem getObj_resetManagement (u : Nat) {k : Nat} (hk : k < 2 ^ 24) (hn : k / 256 ∉ managementIndices) :
    getObj (resetManagement s) u k = getObj s u k := by
  rw [resetManagement_eq, getObj_sentAway, (relays_managementNoted s).objs u k hk hn]

theorem getMail_resetManagement {t p d : Nat} (ht : t < 64) (hp : p < 8) (hd : d < 2) :
    getMail (resetManagement s) t p d = dirAfter (fun x => x = 2) p d (getMail s t p d) := by
  rw [resetManagement_eq, getMail_sentAway, managementNoted, getMail_managementSideReset _ ht hp hd,
    getMail_congr (mail_noteResets s)]

theorem epoch_resetManagement : getObj (resetManagement s) dev Obj.managementEpoch =
    (getObj s dev Obj.managementEpoch + 1) % 64 := by
  rw [resetManagement_eq, getObj_sentAway, managementNoted, epoch_managementSideReset, epoch_noteResets]

theorem managementWasReset_resetManagement : ManagementWasReset s (resetManagement s) := by
  have hfirm := firm_resetManagement s
  refine ⟨mgmtUntil_resetManagement s, by rw [hfirm], by rw [hfirm], epoch_resetManagement s, fun t ht p h6 h8 => ?_⟩
  exact sideWasReset_of_dirAfter (gone := fun x => x = 2) rfl (by simp [fwSide, Nat.not_lt.mpr h6])
    fun d hd => getMail_resetManagement s ht h8 hd

end

/-- What comes before and after a reset of the management unit may change all that it does not speak of. -/
theorem ManagementWasReset.within {s r r' s' : State} (h : ManagementWasReset r r') (htime : r.time = s.time)
    (hepoch : getObj r dev Obj.managementEpoch = getObj s dev Obj.managementEpoch)
    (hmail : ∀ t < 64, ∀ p, 6 ≤ p → p < 8 → ∀ d < 2, getMail r t p d = getMail s t p d)
    (huntil : s'.field.mgmtUntil = r'.field.mgmtUntil) (hscheduled : s'.firm.scheduled = r'.firm.scheduled)
    (hpiece : s'.firm.nextPiece = r'.firm.nextPiece)
    (hepoch' : getObj s' dev Obj.managementEpoch = getObj r' dev Obj.managementEpoch)
    (hmail' : ∀ t < 64, ∀ p, 6 ≤ p → p < 8 → ∀ d < 2, getMail s' t p d = getMail r' t p d) : ManagementWasReset s s' := by
  obtain ⟨h1, h2, h3, h4, h5⟩ := h
  refine ⟨by rw [huntil, h1, htime], hscheduled.trans h2, hpiece.trans h3, by rw [hepoch', h4, hepoch],
    fun t ht p h6 h8 => ?_⟩
  have hside := h5 t ht p h6 h8
  unfold SideWasReset at hside ⊢
  rwa [hmail t ht p h6 h8 1 (by decide), hmail t ht p h6 h8 (1 - 1) (by decide), ← hmail' t ht p h6 h8 1 (by decide),
    ← hmail' t ht p h6 h8 (1 - 1) (by decide)] at hside

/-! ### Its restart (R352, R367) -/

theorem stagedOk_congr {s s' : State} (hstaging : s'.firm.staging = s.firm.staging)
    (hbitmap : getObj s' dev Obj.firmwareBitmap = getObj s dev Obj.firmwareBitmap) (h crc : Nat) :
    stagedOk s' h crc = stagedOk s h crc := by
  have hheld : segHeld s' = segHeld s := funext fun i => by rw [segHeld, hbitmap, segHeld]
  rw [stagedOk, hheld, hstaging, stagedOk]

section
variable {s s' : State}

theorem stagedRuns_congr (hheader : s'.firm.header = s.firm.header) (hrunning : s'.firm.runningHeader = s.firm.runningHeader)
    (hstaging : s'.firm.staging = s.firm.staging)
    (hbitmap : getObj s' dev Obj.firmwareBitmap = getObj s dev Obj.firmwareBitmap) : stagedRuns s' = stagedRuns s := by
  unfold stagedRuns
  rw [hheader, hrunning]
  simp only [stagedOk_congr hstaging hbitmap]

theorem flashOk_congr (hheader : s'.firm.flashHeader = s.firm.flashHeader) (himage : s'.firm.flashImage = s.firm.flashImage) :
    flashOk s' = flashOk s := by
  unfold flashOk
  rw [hheader, himage]

theorem running_of_stagedRuns (h : stagedRuns s = true) : s.firm.runningHeader ≠ none := by
  intro hnone
  unfold stagedRuns at h
  rw [hnone] at h
  cases hh : s.firm.header <;> rw [hh] at h <;> exact Bool.false_ne_true h

theorem restState_running (h : s.firm.runningHeader ≠ none) : restState s = if s.firm.activated then 1 else 0 :=
  if_neg (by rw [Option.isNone_iff_eq_none]; exact h)

theorem restState_le (s : State) : restState s ≤ 2 := by
  unfold restState
  split
  · decide
  · split <;> decide

theorem restartManagement_staged (h : stagedRuns s = true) :
    restartManagement s = setObj dev Obj.firmwareState (restState s) s := if_pos h

theorem restartManagement_unstaged (h : stagedRuns s = false) :
    restartManagement s = bootFlash { s with firm := { s.firm with flashWriting := false } } :=
  if_neg (fun hn => Bool.false_ne_true (h.symm.trans hn))

/-- What runs after the boot from flash. -/
theorem bootFlash_stored (h : flashOk s = true) : (bootFlash s).firm.runningHeader = s.firm.flashHeader ∧
    (bootFlash s).firm.activated = false ∧ getObj (bootFlash s) dev Obj.firmwareState = 0 := by
  have hheader : some (s.firm.flashHeader.getD 0) = s.firm.flashHeader := by
    cases hf : s.firm.flashHeader with
    | none => rw [flashOk, hf] at h; exact absurd h Bool.false_ne_true
    | some x => rfl
  unfold bootFlash
  rw [if_pos h]
  refine ⟨hheader, rfl, ?_⟩
  rw [getObj_setObj_obj _ (by decide) (by decide) (by decide), getObj_setObj_same, Nat.zero_mod]

theorem bootFlash_empty (h : flashOk s = false) : (bootFlash s).firm.runningHeader = none ∧
    getObj (bootFlash s) dev Obj.firmwareState = 2 := by
  unfold bootFlash
  rw [h]
  exact ⟨rfl, getObj_setObj_fits _ (by decide)⟩

theorem managementRestarted_restart (s : State) : ManagementRestarted s (restartManagement s) := by
  refine ⟨fun hstaged => ?_, fun hstaged hflash => ?_, fun hstaged hflash => ?_⟩
  · have hstate := restState_running (running_of_stagedRuns hstaged)
    rw [restartManagement_staged hstaged]
    refine ⟨rfl, (getObj_setObj_fits _ ?_).trans hstate⟩
    exact Nat.lt_of_le_of_lt (restState_le s) (by decide)
  · rw [restartManagement_unstaged hstaged]
    exact bootFlash_stored (s := { s with firm := { s.firm with flashWriting := false } }) hflash
  · rw [restartManagement_unstaged hstaged]
    exact bootFlash_empty (s := { s with firm := { s.firm with flashWriting := false } }) hflash

/-- FirmwareVersion, FirmwareState and FlashImageState. -/
def bootIndices : List Nat := [0x1008, 0xA106, 0xA107]

theorem relays_bootObjects (u v : Nat) {k : Nat} (hk : k ∈ [Obj.firmwareVersion, Obj.firmwareState, Obj.flashImageState])
    (s : State) : Relays bootIndices s (setObj u k v s) := by
  have hkeys : ∀ k ∈ [Obj.firmwareVersion, Obj.firmwareState, Obj.flashImageState], k < 2 ^ 24 ∧ k / 256 ∈ bootIndices := by
    decide
  exact relays_setObj (hkeys k hk).1 (hkeys k hk).2 u v s

/-- A restart changes the running image, and the objects that tell of it. -/
structure Booted (s s' : State) : Prop where
  fields : s' = { s with dict := s'.dict, firm := s'.firm }
  kept : s'.firm.scheduled = s.firm.scheduled ∧ s'.firm.nextPiece = s.firm.nextPiece
  objs : ∀ u k, k < 2 ^ 24 → k / 256 ∉ bootIndices → getObj s' u k = getObj s u k

theorem booted_restart (s : State) : Booted s (restartManagement s) := by
  cases hstaged : stagedRuns s with
  | true =>
    rw [restartManagement_staged hstaged]
    exact ⟨rfl, ⟨rfl, rfl⟩, (relays_bootObjects dev _ (by decide) s).objs⟩
  | false =>
    rw [restartManagement_unstaged hstaged]
    unfold bootFlash
    split
    · refine ⟨rfl, ⟨rfl, rfl⟩, fun u k hk hn => ?_⟩
      exact (((relays_bootObjects dev _ (by decide) _).trans (relays_bootObjects dev _ (by decide) _)).trans
        (relays_bootObjects dev _ (by decide) _)).objs u k hk hn
    · refine ⟨rfl, ⟨rfl, rfl⟩, fun u k hk hn => ?_⟩
      exact ((relays_bootObjects dev _ (by decide) _).trans (relays_bootObjects dev _ (by decide) _)).objs u k hk hn

theorem ManagementRestarted.within {r r' : State} (h : ManagementRestarted r r') (hstaged : stagedRuns r = stagedRuns s)
    (hflash : flashOk r = flashOk s) (hfirm : r.firm.runningHeader = s.firm.runningHeader ∧
      r.firm.activated = s.firm.activated ∧ r.firm.flashHeader = s.firm.flashHeader)
    (hfirm' : s'.firm = r'.firm) (hstate : getObj s' dev Obj.firmwareState = getObj r' dev Obj.firmwareState) :
    ManagementRestarted s s' := by
  obtain ⟨hrunning, hactivated, hheader⟩ := hfirm
  unfold ManagementRestarted at h ⊢
  rw [hfirm', hstate]
  rwa [hstaged, hflash, hrunning, hactivated, hheader] at h

end

/-! ### PROCESSOR_TRAP (R352) -/

/-- A trap is logged and counted at its unit, and charged to the budget of firmware events. -/
def trapNoted (u cause k pc detail : Nat) (s : State) : State :=
  budget 7 (addLog u 0x0B cause stOk pc detail (bump u k 1 s))

/-- ManagementTraps, SequencerTraps, BudgetEvents, and what a log entry counts in. -/
def trapIndices : List Nat := [0xA10A, 0xA10B, 0x6070] ++ noticeIndices

section
variable {u cause k pc detail : Nat} {s : State}

theorem relays_trapNoted (hk : k ∈ [Obj.managementTraps, Obj.sequencerTraps]) :
    Relays trapIndices s (trapNoted u cause k pc detail s) := by
  have hkeys : ∀ k ∈ [Obj.managementTraps, Obj.sequencerTraps], k < 2 ^ 24 ∧ k / 256 ∈ trapIndices := by decide
  have hcount : Relays trapIndices s (bump u k 1 s) := relays_setObj (hkeys k hk).1 (hkeys k hk).2 _ _ s
  exact (hcount.trans ((relays_addLog _ _ _ _ _ _ _).mono (by decide))).trans
    (relays_setObj (by decide) (by decide) dev _ _)

theorem mail_trapNoted : (trapNoted u cause k pc detail s).mail = s.mail :=
  ((side_budget 7 _ (by decide)).mail).trans (side_addLog _ _ _ _ _ _ _).mail

/-- The trap is counted at its unit and in the budget; nothing later counts in either. -/
theorem counted_trapNoted {s' : State} {L : List Nat} (hk : k ∈ [Obj.managementTraps, Obj.sequencerTraps])
    (hL : 0xA10A ∉ L ∧ 0xA10B ∉ L ∧ (Obj.budgetEvents + 6) / 256 ∉ L)
    (hlater : ∀ u' k', k' < 2 ^ 24 → k' / 256 ∉ L → getObj s' u' k' = getObj (trapNoted u cause k pc detail s) u' k') :
    getObj s' u k = (getObj s u k + 1) % 2 ^ 32 ∧
      getObj s' dev (Obj.budgetEvents + 6) =
        (getObj s dev (Obj.budgetEvents + 6) + 1) % 2 ^ objBits (Obj.budgetEvents + 6) := by
  have hkeys : ∀ k ∈ [Obj.managementTraps, Obj.sequencerTraps], k < 2 ^ 24 ∧ objBits k = 32 ∧
      k ≠ Obj.budgetEvents + 6 ∧ k / 256 ∉ noticeIndices ∧ (k / 256 = 0xA10A ∨ k / 256 = 0xA10B) := by decide
  obtain ⟨hlt, hbits, hne, hnotice, hindex⟩ := hkeys k hk
  obtain ⟨hm, hs, hb⟩ := hL
  have hlogged := relays_addLog u 0x0B cause stOk pc detail (bump u k 1 s)
  constructor
  · rw [hlater u k hlt (by rcases hindex with h | h <;> rw [h] <;> assumption)]
    unfold trapNoted budget
    rw [bump, getObj_setObj_obj _ hne hlt (by decide), hlogged.objs u k hlt hnotice, bump, getObj_setObj_same, hbits]
  · rw [hlater dev (Obj.budgetEvents + 6) (by decide) hb]
    unfold trapNoted budget
    rw [bump, getObj_setObj_same, hlogged.objs dev (Obj.budgetEvents + 6) (by decide) (by decide), bump,
      getObj_setObj_obj _ (Ne.symm hne) (by decide) hlt]

end

section
variable {s : State} {p pc cause : Nat}

/-- The processor is in reset, or no image runs: no trap can reach it. -/
theorem processorTrap_away (h : (if p = 64 then mgmtDown s else inReset s p) = true ∨ s.firm.runningHeader = none) :
    processorTrap p pc cause s = s := by
  rw [← Option.isNone_iff_eq_none] at h
  unfold processorTrap
  split
  case isTrue hp => rw [if_pos hp] at h; exact if_pos h
  case isFalse hp => rw [if_neg hp] at h; exact if_pos h

theorem processorTrap_management (hup : mgmtDown s = false) (hruns : s.firm.runningHeader ≠ none) :
    processorTrap 64 pc cause s =
      ringAll 8 (restartManagement (resetManagement (trapNoted dev 2 Obj.managementTraps pc cause s))) := by
  unfold processorTrap
  rw [if_pos rfl, if_neg (by simpa [hup] using hruns)]
  rfl

theorem processorTrap_sequencer (hp : p < 64) (hup : inReset s p = false) (hruns : s.firm.runningHeader ≠ none) :
    processorTrap p pc cause s = ring p 8 (sequencerSideReset p (trapNoted p 1 Obj.sequencerTraps pc cause s)) := by
  unfold processorTrap
  rw [if_neg (by omega), if_neg (by simpa [hup] using hruns)]
  rfl

end

end Sys2Proof.Machine

/-! ## Proofs: activations and traps -/

namespace Sys2Proof.Machine

open Sys2Proof

/-! ### An unhandled trap of the management unit (R352) -/

section
variable (n : State)

theorem booted_after_reset : Booted (resetManagement n) (restartManagement (resetManagement n)) := booted_restart _

/-- The objects that neither the reset nor the restart of the management unit writes. -/
theorem getObj_restarted (u : Nat) {k : Nat} (hk : k < 2 ^ 24) (hn : k / 256 ∉ managementIndices ++ bootIndices) :
    getObj (ringAll 8 (restartManagement (resetManagement n))) u k = getObj n u k := by
  rw [List.mem_append, not_or] at hn
  have hnotice : noticeIndices ⊆ managementIndices := by decide
  rw [(relays_ringAll 8 _).objs u k hk (fun h => hn.1 (hnotice h)), (booted_after_reset n).objs u k hk hn.2,
    getObj_resetManagement n u hk hn.1]

theorem mail_restarted : (ringAll 8 (restartManagement (resetManagement n))).mail = (resetManagement n).mail := by
  rw [(side_ringAll 8 _).mail, (booted_after_reset n).fields]

theorem sameMemory_restarted : SameMemory n (ringAll 8 (restartManagement (resetManagement n))) := by
  have hboot : SameMemory (resetManagement n) (restartManagement (resetManagement n)) := by
    apply sameMemory_of <;> rw [(booted_after_reset n).fields]
  exact ((sameMemory_resetManagement n).trans hboot).trans (relays_ringAll 8 _).sameMemory

/-- The unit was reset, seen from a state before it that reports only. -/
theorem managementWasReset_restarted {L : List Nat} {s : State} (h : Relays L s n) (hmail : n.mail = s.mail)
    (hL : 0xA017 ∉ L) : ManagementWasReset s (ringAll 8 (restartManagement (resetManagement n))) := by
  have hfirm := (side_ringAll 8 (restartManagement (resetManagement n))).firm
  obtain ⟨hscheduled, hpiece⟩ := (booted_after_reset n).kept
  refine (managementWasReset_resetManagement n).within h.time (h.objs _ _ (by decide) hL)
    (fun t _ p _ _ d _ => getMail_congr hmail t p d) ?_ (by rw [hfirm, hscheduled]) (by rw [hfirm, hpiece]) ?_
    (fun t _ p _ _ d _ => getMail_congr (mail_restarted n) t p d)
  · rw [(relays_ringAll 8 _).mgmtUntil, (booted_after_reset n).fields]
  · rw [(relays_ringAll 8 _).objs _ _ (by decide) (by decide), (booted_after_reset n).objs _ _ (by decide) (by decide)]

theorem managementRestarted_restarted {L : List Nat} {s : State} (h : Relays L s n) (hL : 0xA101 ∉ L) :
    ManagementRestarted s (ringAll 8 (restartManagement (resetManagement n))) := by
  have hfirm := firm_resetManagement n
  rw [h.firm] at hfirm
  have hbitmap : getObj (resetManagement n) dev Obj.firmwareBitmap = getObj s dev Obj.firmwareBitmap :=
    (getObj_resetManagement n dev (by decide) (by decide)).trans (h.objs _ _ (by decide) hL)
  exact (managementRestarted_restart (resetManagement n)).within
    (stagedRuns_congr (by rw [hfirm]) (by rw [hfirm]) (by rw [hfirm]) hbitmap)
    (flashOk_congr (by rw [hfirm]) (by rw [hfirm])) ⟨by rw [hfirm], by rw [hfirm], by rw [hfirm]⟩
    (side_ringAll 8 _).firm ((relays_ringAll 8 _).objs _ _ (by decide) (by decide))

end

section
variable {proc : Fin 65} {pc cause : BitVec 32} {s : State}

theorem noEffect_trap (h : (if proc.val = 64 then mgmtDown s else inReset s proc.val) = true ∨ s.firm.runningHeader = none) :
    NoEffect (.processorTrap proc pc cause) s :=
  noEffect_run (exec_processorTrap proc pc cause s) (processorTrap_away (s := fresh s) h)

theorem answers_trap_management (hproc : proc.val = 64) (hup : mgmtDown s = false) (hruns : s.firm.runningHeader ≠ none) :
    Answers (.processorTrap proc pc cause) s (fun s' =>
      (getObj s' proc.val Obj.managementTraps = (getObj s proc.val Obj.managementTraps + 1) % 2 ^ 32 ∧
        getObj s' dev (Obj.budgetEvents + 6) =
          (getObj s dev (Obj.budgetEvents + 6) + 1) % 2 ^ objBits (Obj.budgetEvents + 6)) ∧
      ManagementWasReset s s' ∧ ManagementRestarted s s' ∧ SameMemory s s') := by
  refine answers_run (exec_processorTrap proc pc cause s) ?_
  rw [hproc, processorTrap_management (s := fresh s) hup hruns]
  have hnoted : Relays trapIndices (fresh s) (trapNoted dev 2 Obj.managementTraps pc.toNat cause.toNat (fresh s)) :=
    relays_trapNoted (by decide)
  have hcounted := counted_trapNoted (by decide) (by decide)
    (fun u _ => getObj_restarted (trapNoted dev 2 Obj.managementTraps pc.toNat cause.toNat (fresh s)) u)
  have hreset := managementWasReset_restarted _ hnoted mail_trapNoted (by decide)
  have hrestart := managementRestarted_restarted _ hnoted (by decide)
  have hmem := hnoted.sameMemory.trans (sameMemory_restarted _)
  generalize ringAll 8 (restartManagement (resetManagement (trapNoted dev 2 Obj.managementTraps pc.toNat cause.toNat
    (fresh s)))) = x at *
  exact ⟨hcounted, hreset, hrestart, hmem⟩

end

/-! ### An unhandled trap of a sequencer (R352) -/

theorem door_sendFrame (i : Nat) (d : List Nat) (s : State) : (sendFrame i d s).door = s.door := by
  unfold sendFrame
  split <;> rfl

theorem door_sendEvent (u b : Nat) (s : State) : (sendEvent u b s).door = s.door := by
  have hite : ∀ (c : Prop) [Decidable c] (x y : State), x.door = s.door → y.door = s.door →
      (if c then x else y).door = s.door := fun c _ x y hx hy => by
    split
    · exact hx
    · exact hy
  unfold sendEvent
  exact hite _ _ _ rfl (hite _ _ _ rfl (door_sendFrame _ _ _))

theorem door_ringSide (t side b : Nat) (s : State) : (ringSide t side b s).door =
    (modDoor t side (fun d => { d with status := setBit d.status b }) s).door := by
  unfold ringSide
  dsimp only
  split
  · rw [countEv_fields]
  · rfl

/-- A device event rings at the host tile processor of the tile. -/
theorem rung_ring_host (t b : Nat) (s : State) : rung (ring t b s) t 0 b = true := by
  have hhost : fget ({} : Door) (ring t b s).door (t * 4 + 0) =
      { fget ({} : Door) s.door (t * 4 + 0) with status := setBit (fget ({} : Door) s.door (t * 4 + 0)).status b } := by
    unfold ring
    rw [door_sendEvent, door_ringSide, modDoor, fget_fupd_other _ _ _ _ (by omega), door_ringSide, modDoor,
      fget_fupd_same]
  unfold rung getDoor doorTile
  rw [if_neg (by decide), hhost, bit_setBit_same]

section
variable {proc : Fin 65} {pc cause : BitVec 32} {s : State}

theorem answers_trap_sequencer (hproc : proc.val < 64) (hup : inReset s proc.val = false)
    (hruns : s.firm.runningHeader ≠ none) : Answers (.processorTrap proc pc cause) s (fun s' =>
      (getObj s' proc.val Obj.sequencerTraps = (getObj s proc.val Obj.sequencerTraps + 1) % 2 ^ 32 ∧
        getObj s' dev (Obj.budgetEvents + 6) =
          (getObj s dev (Obj.budgetEvents + 6) + 1) % 2 ^ objBits (Obj.budgetEvents + 6)) ∧
      getObj s' proc.val Obj.sequencerEpoch = (getObj s proc.val Obj.sequencerEpoch + 1) % 64 ∧
      (∀ p < 6, SideWasReset s s' proc.val p 1) ∧ rung s' proc.val 0 8 = true ∧ SameMemory s s' ∧ s'.firm = s.firm) := by
  refine answers_run (exec_processorTrap proc pc cause s) ?_
  rw [processorTrap_sequencer (s := fresh s) hproc hup hruns]
  generalize proc.val = p
  have hnoted : Relays trapIndices (fresh s) (trapNoted p 1 Obj.sequencerTraps pc.toNat cause.toNat (fresh s)) :=
    relays_trapNoted (by decide)
  have hmail : (trapNoted p 1 Obj.sequencerTraps pc.toNat cause.toNat (fresh s)).mail = (fresh s).mail := mail_trapNoted
  have hcounted := fun (s' : State) (L : List Nat) => counted_trapNoted (u := p) (cause := 1) (pc := pc.toNat)
    (detail := cause.toNat) (s := fresh s) (k := Obj.sequencerTraps) (s' := s') (L := L) (by decide)
  generalize trapNoted p 1 Obj.sequencerTraps pc.toNat cause.toNat (fresh s) = n at *
  have hreset := relays_sequencerSideReset p n
  have hring := relays_ring p 8 (sequencerSideReset p n)
  have hrung := rung_ring_host p 8 (sequencerSideReset p n)
  have hepoch : getObj (ring p 8 (sequencerSideReset p n)) p Obj.sequencerEpoch =
      (getObj s p Obj.sequencerEpoch + 1) % 64 := by
    rw [hring.objs _ _ (by decide) (by decide), epoch_sequencerSideReset_same, hnoted.objs _ _ (by decide) (by decide),
      getObj_fresh]
  have hside : ∀ q < 6, SideWasReset (fresh s) (ring p 8 (sequencerSideReset p n)) p q 1 := fun q hq => by
    have h := sideWasReset_sequencer (t := p) hq n
    have hafter := (side_ring p 8 (sequencerSideReset p n)).mail
    unfold SideWasReset at h ⊢
    rwa [getMail_congr hmail, getMail_congr hmail, ← getMail_congr hafter, ← getMail_congr hafter] at h
  have hall := (hnoted.mono (M := trapIndices ++ sequencerIndices) (by decide)).trans
    ((hreset.mono (by decide)).trans (hring.mono (by decide)))
  have hcount := hcounted _ (sequencerIndices ++ noticeIndices) (by decide) fun u k hk hn =>
    ((hreset.mono (by decide)).trans (hring.mono (by decide))).objs u k hk hn
  generalize ring p 8 (sequencerSideReset p n) = x at *
  exact ⟨hcount, hepoch, hside, hrung, hall.sameMemory, hall.firm⟩

end

/-! ### An activation at its time (R366, R367) -/

/-- Nothing is scheduled any more. -/
def unscheduled (s : State) : State := { s with firm := { s.firm with scheduled := none } }

/-- The staging SRAM holds the whole image that an activation names. -/
def stagedFor (s : State) (id crc : Nat) : Bool :=
  match s.firm.header with
  | some h => decide (shImageId h = id) && stagedOk s h crc
  | none => false

/-- Every side of every processor is reset. -/
def processorsReset (s : State) : State := forTiles sequencerSideReset (resetManagement s)

/-- The image of header `h` runs. -/
def withImage (h : Nat) (s : State) : State := { s with firm := { s.firm with runningHeader := some h, activated := true } }

/-- What tells of the image that runs: FirmwareState, FirmwareVersion, FirmwareActivateResult and doorbell bit 8. -/
def announced (h : Nat) (s : State) : State :=
  ringAll 8 (setActivateResult stOk (setObj dev Obj.firmwareVersion (shVersion h) (setObj dev Obj.firmwareState 1 s)))

/-- The state in which an activated image runs, before its write to the flash begins. -/
def imageRuns (h : Nat) (s : State) : State := announced h (withImage h (processorsReset s))

section
variable {s : State} {at_ crc id h : Nat}

theorem stagedFor_iff : stagedFor s id crc = true ↔
    ∃ h, s.firm.header = some h ∧ shImageId h = id ∧ stagedOk s h crc = true := by
  unfold stagedFor
  cases s.firm.header with
  | none => simp
  | some h => simp

theorem activation_unscheduled (hs : s.firm.scheduled = none) : activation s = s := by
  unfold activation
  rw [hs]

theorem activation_held (hs : s.firm.scheduled = some (at_, crc, id))
    (hheld : s.time.timeBase < at_ ∨ mgmtDown s = true ∨ (List.range 64).any (inHold s) = true) : activation s = s := by
  unfold activation
  rw [hs]
  exact if_pos hheld

theorem activation_rejects (hs : s.firm.scheduled = some (at_, crc, id))
    (hdue : ¬ (s.time.timeBase < at_ ∨ mgmtDown s = true ∨ (List.range 64).any (inHold s) = true))
    (hbad : stagedFor s id crc = false) : activation s = ringAll 8 (addLog dev 0x0B 3 stBadImage id 0
      (setActivateResult stBadImage (setObj dev Obj.firmwareState (restState s) (unscheduled s)))) := by
  unfold activation
  rw [hs]
  refine (if_neg hdue).trans (if_pos ?_)
  show (!stagedFor s id crc) = true
  rw [hbad]
  rfl

theorem activation_runs (hs : s.firm.scheduled = some (at_, crc, id))
    (hdue : ¬ (s.time.timeBase < at_ ∨ mgmtDown s = true ∨ (List.range 64).any (inHold s) = true))
    (hgood : stagedFor s id crc = true) (hheader : s.firm.header = some h) : activation s =
      startFlash h (imageRuns h (unscheduled s)) := by
  have hget : s.firm.header.getD 0 = h := by rw [hheader]; rfl
  have hnot : ¬ (!stagedFor s id crc) = true := by rw [hgood]; exact Bool.false_ne_true
  rw [← hget]
  unfold activation imageRuns announced withImage processorsReset unscheduled
  rw [hs]
  dsimp only
  rw [if_neg hdue]
  exact if_neg hnot

end

/-! ### An activation of an image that is not there -/

section
variable {s : State} {at_ crc id : Nat}

theorem activateResult_fits {st : Nat} (hst : st < 256) (s : State) :
    getObj (setActivateResult st s) dev Obj.firmwareActivateResult = s.time.timeBase % 2 ^ 56 * 256 + st := by
  have hbits : objBits Obj.firmwareActivateResult = 64 := by decide
  refine getObj_setObj_fits s ?_
  rw [hbits]
  omega

theorem answers_activation_rejects (hs : s.firm.scheduled = some (at_, crc, id))
    (hdue : ¬ (s.time.timeBase < at_ ∨ mgmtDown s = true ∨ (List.range 64).any (inHold s) = true))
    (hbad : stagedFor s id crc = false) : Answers .firmwareActivation s (fun s' =>
      getObj s' dev Obj.firmwareActivateResult = s.time.timeBase % 2 ^ 56 * 256 + stBadImage ∧
      s'.firm = { s.firm with scheduled := none } ∧ getObj s' dev Obj.firmwareState = restState s ∧
      s'.mail = s.mail ∧ SameMemory s s') := by
  refine answers_run (exec_firmwareActivation s) ?_
  rw [activation_rejects (s := fresh s) hs hdue hbad]
  have hresult := activateResult_fits (st := stBadImage) (by decide)
    (setObj dev Obj.firmwareState (restState (fresh s)) (unscheduled (fresh s)))
  have hstate : getObj (setActivateResult stBadImage (setObj dev Obj.firmwareState (restState (fresh s))
      (unscheduled (fresh s)))) dev Obj.firmwareState = restState s :=
    (getObj_setObj_obj _ (by decide) (by decide) (by decide)).trans
      (getObj_setObj_fits _ (Nat.lt_of_le_of_lt (restState_le (fresh s)) (by decide)))
  have hfirm : (setActivateResult stBadImage (setObj dev Obj.firmwareState (restState (fresh s))
      (unscheduled (fresh s)))).firm = { s.firm with scheduled := none } := rfl
  have hmail : (setActivateResult stBadImage (setObj dev Obj.firmwareState (restState (fresh s))
      (unscheduled (fresh s)))).mail = s.mail := rfl
  have hmem : SameMemory s (setActivateResult stBadImage (setObj dev Obj.firmwareState (restState (fresh s))
      (unscheduled (fresh s)))) := sameMemory_of rfl rfl rfl rfl
  generalize setActivateResult stBadImage (setObj dev Obj.firmwareState (restState (fresh s))
    (unscheduled (fresh s))) = y at *
  have hside := (side_addLog dev 0x0B 3 stBadImage id 0 y).trans (side_ringAll 8 _)
  have hafter := hmem.trans hside.books.sameMemory
  generalize ringAll 8 (addLog dev 0x0B 3 stBadImage id 0 y) = x at *
  exact ⟨(hside.objs _ _ (by decide) (by decide)).trans hresult, hside.firm.trans hfirm,
    (hside.objs _ _ (by decide) (by decide)).trans hstate, hside.mail.trans hmail, hafter⟩

end

/-! ### An activation of an image that is there -/

section
variable (h : Nat) (s : State)

/-- FirmwareActivateResult, the objects of a boot, and what a report counts in. -/
def announceIndices : List Nat := 0xA105 :: bootIndices ++ noticeIndices

theorem relays_announced : Relays announceIndices s (announced h s) := by
  have hset : ∀ k ∈ [Obj.firmwareState, Obj.firmwareVersion, Obj.firmwareActivateResult], ∀ v x,
      Relays announceIndices x (setObj dev k v x) := fun k hk v x => by
    have hkeys : ∀ k ∈ [Obj.firmwareState, Obj.firmwareVersion, Obj.firmwareActivateResult],
        k < 2 ^ 24 ∧ k / 256 ∈ announceIndices := by decide
    exact relays_setObj (hkeys k hk).1 (hkeys k hk).2 dev v x
  exact (((hset _ (by decide) _ s).trans (hset _ (by decide) _ _)).trans (hset _ (by decide) _ _)).trans
    ((relays_ringAll 8 _).mono (by decide))

theorem mail_announced : (announced h s).mail = s.mail := (side_ringAll 8 _).mail

/-- FirmwareVersion holds every version a header can name. -/
theorem shVersion_lt : shVersion h < 2 ^ objBits Obj.firmwareVersion := by
  have hbits : objBits Obj.firmwareVersion = 32 := by decide
  rw [hbits]
  exact Nat.mod_lt _ (by decide)

theorem announced_objs : getObj (announced h s) dev Obj.firmwareActivateResult = s.time.timeBase % 2 ^ 56 * 256 + stOk ∧
    getObj (announced h s) dev Obj.firmwareVersion = shVersion h ∧ getObj (announced h s) dev Obj.firmwareState = 1 := by
  have hbell := fun x => relays_ringAll 8 x
  unfold announced
  refine ⟨?_, ?_, ?_⟩
  · rw [(hbell _).objs _ _ (by decide) (by decide), activateResult_fits (by decide)]
    rfl
  · rw [(hbell _).objs _ _ (by decide) (by decide), setActivateResult,
      getObj_setObj_obj _ (by decide) (by decide) (by decide), getObj_setObj_fits _ (shVersion_lt h)]
  · rw [(hbell _).objs _ _ (by decide) (by decide), setActivateResult,
      getObj_setObj_obj _ (by decide) (by decide) (by decide), getObj_setObj_obj _ (by decide) (by decide) (by decide),
      getObj_setObj_fits _ (by decide)]

/-- What the flash shows of a new image (R367). -/
theorem startFlash_flash : getObj (startFlash h s) dev Obj.flashImageState = (if getObj s dev Obj.copybookState = 3 then 2 else 1) ∧
    (getObj s dev Obj.copybookState ≠ 3 → (startFlash h s).firm = { s.firm with
      flashHeader := none, flashImage := s.firm.staging, flashWriting := true, runningHeader := some h }) := by
  unfold startFlash
  split
  case isTrue hnone => exact ⟨getObj_setObj_fits _ (by decide), fun hn => absurd hnone hn⟩
  case isFalse => exact ⟨getObj_setObj_fits _ (by decide), fun _ => rfl⟩

/-- With or without a flash, nothing but the flash and the objects changes where that image runs. -/
structure FlashOnly (s s' : State) : Prop where
  mail : s'.mail = s.mail
  field : s'.field = s.field
  scheduled : s'.firm.scheduled = s.firm.scheduled
  nextPiece : s'.firm.nextPiece = s.firm.nextPiece
  running : s'.firm.runningHeader = s.firm.runningHeader
  activated : s'.firm.activated = s.firm.activated
  memory : SameMemory s s'

theorem startFlash_flashOnly (hrunning : s.firm.runningHeader = some h) : FlashOnly s (startFlash h s) := by
  unfold startFlash
  split
  · exact ⟨rfl, rfl, rfl, rfl, rfl, rfl, sameMemory_of rfl rfl rfl rfl⟩
  · exact ⟨rfl, rfl, rfl, rfl, hrunning.symm, rfl, sameMemory_of rfl rfl rfl rfl⟩

theorem getObj_startFlash (u : Nat) {k : Nat} (hk : k < 2 ^ 24) (hn : k ≠ Obj.flashImageState) :
    getObj (startFlash h s) u k = getObj s u k := by
  unfold startFlash
  split
  · exact getObj_setObj_obj _ hn hk (by decide)
  · exact getObj_setObj_obj _ hn hk (by decide)

end

/-! Both firmware sides are reset -/

section
variable (s : State)

theorem relays_processorsReset : Relays sequencerIndices (resetManagement s) (processorsReset s) := relays_sequencers _

theorem epoch_processorsReset {t : Nat} (ht : t < 64) : getObj (processorsReset s) t Obj.sequencerEpoch =
    (getObj s t Obj.sequencerEpoch + 1) % 64 := by
  rw [processorsReset, epoch_sequencers ht, getObj_resetManagement s t (by decide) (by decide)]

/-- The pairs of the management unit keep what its own reset left. -/
theorem getMail_processorsReset_management {t p d : Nat} (ht : t < 64) (h6 : 6 ≤ p) (h8 : p < 8) (hd : d < 2) :
    getMail (processorsReset s) t p d = getMail (resetManagement s) t p d := by
  rw [processorsReset, getMail_sequencers ht h8 hd,
    dirAfter_elsewhere (gone := fun x => x = 1) rfl (by simp [fwSide, Nat.not_lt.mpr h6])]

/-- The reset of the management unit leaves the pairs of a sequencer alone, so its own reset decides. -/
theorem sideWasReset_processorsReset {t p : Nat} (ht : t < 64) (hp : p < 6) : SideWasReset s (processorsReset s) t p 1 := by
  refine sideWasReset_of_dirAfter (gone := fun x => x = 1) rfl (by simp [fwSide, hp]) fun d hd => ?_
  rw [processorsReset, getMail_sequencers ht (by omega) hd, getMail_resetManagement s ht (by omega) hd,
    dirAfter_elsewhere (gone := fun x => x = 2) rfl (by simp [fwSide, hp])]

theorem sameMemory_processorsReset : SameMemory s (processorsReset s) :=
  (sameMemory_resetManagement s).trans (relays_processorsReset s).sameMemory

theorem firm_processorsReset :
    (processorsReset s).firm = { s.firm with scheduled := none, nextPiece := 0, pieces := [] } :=
  (relays_processorsReset s).firm.trans (firm_resetManagement s)

end

/-! The image runs -/

section
variable (h : Nat) (s : State)

theorem firm_withImage : (withImage h s).firm = { s.firm with runningHeader := some h, activated := true } := rfl
theorem mgmtUntil_withImage : (withImage h s).field.mgmtUntil = s.field.mgmtUntil := rfl
theorem time_withImage : (withImage h s).time = s.time := rfl
theorem mail_withImage : (withImage h s).mail = s.mail := rfl
theorem getObj_withImage (u k : Nat) : getObj (withImage h s) u k = getObj s u k := rfl
theorem sameMemory_withImage : SameMemory s (withImage h s) := sameMemory_of rfl rfl rfl rfl

theorem firm_imageRuns : (imageRuns h s).firm =
    { s.firm with scheduled := none, nextPiece := 0, pieces := [], runningHeader := some h, activated := true } := by
  rw [imageRuns, (relays_announced h _).firm, firm_withImage, firm_processorsReset]

theorem mgmtUntil_imageRuns : (imageRuns h s).field.mgmtUntil = (resetManagement s).field.mgmtUntil := by
  rw [imageRuns, (relays_announced h _).mgmtUntil, mgmtUntil_withImage, (relays_processorsReset s).mgmtUntil]

theorem getObj_imageRuns (u : Nat) {k : Nat} (hk : k < 2 ^ 24) (hn : k / 256 ∉ announceIndices) :
    getObj (imageRuns h s) u k = getObj (processorsReset s) u k := by
  rw [imageRuns, (relays_announced h _).objs u k hk hn, getObj_withImage]

theorem getMail_imageRuns (t p d : Nat) : getMail (imageRuns h s) t p d = getMail (processorsReset s) t p d := by
  rw [imageRuns, getMail_congr (mail_announced h _), getMail_congr (mail_withImage h _)]

theorem sameMemory_imageRuns : SameMemory s (imageRuns h s) :=
  ((sameMemory_processorsReset s).trans (sameMemory_withImage h _)).trans (relays_announced h _).sameMemory

theorem announced_imageRuns :
    getObj (imageRuns h s) dev Obj.firmwareActivateResult = s.time.timeBase % 2 ^ 56 * 256 + stOk ∧
    getObj (imageRuns h s) dev Obj.firmwareVersion = shVersion h ∧ getObj (imageRuns h s) dev Obj.firmwareState = 1 := by
  have hobjs := announced_objs h (withImage h (processorsReset s))
  rwa [time_withImage, (relays_processorsReset s).time, time_resetManagement] at hobjs

theorem managementWasReset_imageRuns : ManagementWasReset s (imageRuns h s) := by
  have hfirm := firm_imageRuns h s
  have hbefore := firm_resetManagement s
  refine (managementWasReset_resetManagement s).within rfl rfl (fun _ _ _ _ _ _ _ => rfl) (mgmtUntil_imageRuns h s)
    (by rw [hfirm, hbefore]) (by rw [hfirm, hbefore]) ?_ fun t ht p h6 h8 d hd => ?_
  · rw [getObj_imageRuns h s dev (by decide) (by decide), (relays_processorsReset s).objs _ _ (by decide) (by decide)]
  · rw [getMail_imageRuns, getMail_processorsReset_management s ht h6 h8 hd]

theorem sideWasReset_imageRuns {t p : Nat} (ht : t < 64) (hp : p < 6) : SideWasReset s (imageRuns h s) t p 1 := by
  have hside := sideWasReset_processorsReset s ht hp
  unfold SideWasReset at hside ⊢
  rwa [getMail_imageRuns, getMail_imageRuns]

theorem epoch_imageRuns {t : Nat} (ht : t < 64) : getObj (imageRuns h s) t Obj.sequencerEpoch =
    (getObj s t Obj.sequencerEpoch + 1) % 64 := by
  rw [getObj_imageRuns h s t (by decide) (by decide), epoch_processorsReset s ht]

theorem copybookState_imageRuns : getObj (imageRuns h s) dev Obj.copybookState = getObj s dev Obj.copybookState := by
  rw [getObj_imageRuns h s dev (by decide) (by decide), (relays_processorsReset s).objs _ _ (by decide) (by decide),
    getObj_resetManagement s dev (by decide) (by decide)]

/-- Once the image runs, its write to the flash begins. -/
theorem answers_activation_runs {s : State} {at_ crc id : Nat} (hs : s.firm.scheduled = some (at_, crc, id))
    (hdue : ¬ (s.time.timeBase < at_ ∨ mgmtDown s = true ∨ (List.range 64).any (inHold s) = true))
    (hgood : stagedFor s id crc = true) (hheader : s.firm.header = some h) :
    Answers .firmwareActivation s (fun s' => ManagementWasReset s s' ∧
      getObj s' dev Obj.firmwareActivateResult = s.time.timeBase % 2 ^ 56 * 256 + stOk ∧
      s'.firm.runningHeader = some h ∧ s'.firm.activated = true ∧ getObj s' dev Obj.firmwareState = 1 ∧
      getObj s' dev Obj.firmwareVersion = shVersion h ∧
      (∀ t < 64, getObj s' t Obj.sequencerEpoch = (getObj s t Obj.sequencerEpoch + 1) % 64 ∧
        ∀ p < 6, SideWasReset s s' t p 1) ∧
      getObj s' dev Obj.flashImageState = (if getObj s dev Obj.copybookState = 3 then 2 else 1) ∧
      (getObj s dev Obj.copybookState ≠ 3 → s'.firm.flashWriting = true ∧ s'.firm.flashHeader = none ∧
        s'.firm.flashImage = s.firm.staging) ∧ SameMemory s s') := by
  have hruns := activation_runs (s := fresh s) hs hdue hgood hheader
  have hfirm := firm_imageRuns h (unscheduled (fresh s))
  have hreset := managementWasReset_imageRuns h (unscheduled (fresh s))
  have hsides := fun t (ht : t < 64) p => sideWasReset_imageRuns h (unscheduled (fresh s)) (t := t) (p := p) ht
  have hepochs := fun t => epoch_imageRuns h (unscheduled (fresh s)) (t := t)
  have hcopy := copybookState_imageRuns h (unscheduled (fresh s))
  have hmem := sameMemory_imageRuns h (unscheduled (fresh s))
  obtain ⟨hresult, hversion, hstate⟩ := announced_imageRuns h (unscheduled (fresh s))
  obtain ⟨x, hx⟩ : ∃ x, x = imageRuns h (unscheduled (fresh s)) := ⟨_, rfl⟩
  simp only [← hx] at *
  have hkept := startFlash_flashOnly h x (by rw [hfirm])
  obtain ⟨hflash, hwriting⟩ := startFlash_flash h x
  have hobjs := fun u k => getObj_startFlash h x u (k := k)
  refine answers_effect (exec_firmwareActivation s) fun y hy => ?_
  rw [hruns] at hy
  simp only [← hy] at *
  have hreset' : ManagementWasReset (unscheduled (fresh s)) y :=
    hreset.within rfl rfl (fun _ _ _ _ _ _ _ => rfl) (by rw [hkept.field]) hkept.scheduled hkept.nextPiece
      (hobjs _ _ (by decide) (by decide)) fun t _ p _ _ d _ => getMail_congr hkept.mail t p d
  have hprocs : ∀ t < 64, getObj y t Obj.sequencerEpoch = (getObj s t Obj.sequencerEpoch + 1) % 64 ∧
      ∀ p < 6, SideWasReset s y t p 1 := fun t ht => by
    refine ⟨(hobjs _ _ (by decide) (by decide)).trans (hepochs t ht), fun p hp => ?_⟩
    have hside := hsides t ht p hp
    unfold SideWasReset at hside ⊢
    rwa [getMail_congr hkept.mail, getMail_congr hkept.mail]
  have hwrites : getObj s dev Obj.copybookState ≠ 3 → y.firm.flashWriting = true ∧ y.firm.flashHeader = none ∧
      y.firm.flashImage = s.firm.staging := fun hn => by
    rw [hwriting (by rw [hcopy]; exact hn)]
    exact ⟨rfl, rfl, by rw [hfirm]; rfl⟩
  rw [hcopy] at hflash
  exact ⟨hreset', (hobjs _ _ (by decide) (by decide)).trans hresult, hkept.running.trans (by rw [hfirm]),
    hkept.activated.trans (by rw [hfirm]), (hobjs _ _ (by decide) (by decide)).trans hstate,
    (hobjs _ _ (by decide) (by decide)).trans hversion, hprocs, hflash, hwrites, hmem.trans hkept.memory⟩

end

end Sys2Proof.Machine

/-! ## Proofs: firmware is delivered, activated and restarted -/

namespace Sys2Proof.Machine

open Sys2Proof

/-- Settles O51: the check of a segment and the order of pieces branch by branch; an activation and a trap as what
their resets of mailbox sides change (`dirAfter`) and what those leave alone (`Relays`). -/
theorem firmwareDelivery : Obligations.FirmwareDelivery := by
  unfold Obligations.FirmwareDelivery
  refine ⟨fun t bytes s => ⟨?_, ?_, ?_, ?_⟩, fun bytes s => ⟨?_, ?_, ?_⟩, fun v s => ⟨?_, ?_, ?_⟩,
    fun v s => ⟨?_, ?_⟩, fun s => ⟨?_, fun at_ crc id hs => ⟨?_, ?_, ?_⟩, ?_, ?_⟩, fun proc pc cause s => ⟨?_, ?_, ?_⟩⟩
  · exact answers_segmentPost_down
  · exact answers_segmentPost_rejects
  · exact answers_segmentPost_again
  · exact answers_segmentPost_takes
  · exact refuses_piece
  · exact answers_piece_next
  · exact exec_piece_last
  · exact fun h => refuses_run (exec_firmwareExpectImageWrite v s) (writeExpect_scheduled (s := fresh s) h)
  · exact noEffect_expect_same
  · exact answers_expect_new
  · exact fun h => refuses_run (exec_firmwareActivate v s) (writeActivate_scheduled (s := fresh s) h)
  · exact answers_activate
  · exact fun h => noEffect_run (exec_firmwareActivation s) (activation_unscheduled (s := fresh s) h)
  · exact fun h => noEffect_run (exec_firmwareActivation s) (activation_held (s := fresh s) hs h)
  · exact fun hdue hbad => answers_activation_rejects hs hdue
      (Bool.eq_false_iff.mpr fun hgood => hbad (stagedFor_iff.mp hgood))
  · exact fun h hdue hheader hid hstaged => answers_activation_runs h hs hdue
      (stagedFor_iff.mpr ⟨h, hheader, hid, hstaged⟩) hheader
  · exact fun h => noEffect_run (exec_flashImageWritten s) (flashWritten_idle (s := fresh s) h)
  · exact answers_flashWritten
  · exact noEffect_trap
  · exact fun hup hruns hproc => answers_trap_management hproc (by simpa [hproc] using hup) hruns
  · exact fun hup hruns hproc => answers_trap_sequencer hproc (by simpa [show proc.val ≠ 64 by omega] using hup) hruns

end Sys2Proof.Machine

/-! ## Proofs: a channel is disabled while a row is copied out of it -/

namespace Sys2Proof.Machine

open Sys2Proof

/-- A bounce copy (R57) of row 7 of bank 0 of channel 2 to row 9 of bank 0: its write entry, in channel 3. -/
def copyOut : Acc := { id := 1, kind := .bounceWrite 2 0 7, row := 9, job := .job 1 }

/-- Channels 2 and 3 of tile 1 ready, no error in any word, and the block map's bounce copy in the queues of both. -/
def copyQueued : State :=
  mapEnter 1 3 copyOut (setObj 1 (Obj.channelState + 3) 2 (setObj 1 (Obj.channelState + 2) 2
    (setObj dev Obj.bringupPhase 0 State.reset)))

/-- Channel 2 has entered link fault (R45): the copy, not begun, stays in the queues. -/
def copyCutOff : State := linkFault 1 2 copyQueued

/-- A state that the command acts in: retraining after a link fault, without a trip, Hold or a silent controller. -/
theorem copyCutOff_retrains : channelPaused copyCutOff 1 = false ∧ chState copyCutOff 1 2 = 3 ∧
    (getTrain copyCutOff 1 2).quiet = none := by decide +kernel

theorem copyCutOff_clean : rawWord copyCutOff 1 3 0 9 0 = 0 := by decide +kernel

/-- The training fails: the channel is disabled, and the copy out of it writes its destination, a row of channel 3,
with poisoned words (R57, R60). -/
theorem trainingFails_copyCutOff {s' : State}
    (h : exec (.channelTrainingDone 1 2 false (List.replicate 11 0)) copyCutOff = .next s') :
    rawWord s' 1 3 0 9 0 = poisonWord 0 := by
  cases h
  decide +kernel

/-- Refutes O56: where the block map copies a row out of a channel in link fault (`copyCutOff`), a training of that channel
that fails poisons the row's destination in another channel, and the statement has all memory as before. -/
theorem not_channelsComeUp : ¬ Obligations.ChannelsComeUp := by
  unfold Obligations.ChannelsComeUp
  intro h
  obtain ⟨htraining, -⟩ := h 1 2 copyCutOff
  obtain ⟨-, hfails, -⟩ := htraining false (List.replicate 11 0)
  obtain ⟨hruns, hfault, hquiet⟩ := copyCutOff_retrains
  have hacts : ¬ ((channelPaused copyCutOff 1 = true ∨ chState copyCutOff 1 2 = 4) ∨
      (getTrain copyCutOff 1 2).quiet ≠ none ∨
      ((getTrain copyCutOff 1 2).step ≠ 1 ∧ decide (chState copyCutOff 1 2 = 3) = false)) := by
    simp [hruns, hfault, hquiet]
  obtain ⟨s', hexec, -, hwords, -⟩ := hfails hacts rfl
  have hpoison : poisonWord 0 = 0 :=
    calc poisonWord 0 = rawWord s' 1 3 0 9 0 := (trainingFails_copyCutOff hexec).symm
      _ = rawWord copyCutOff 1 3 0 9 0 := hwords 1 3 0 9 0
      _ = 0 := copyCutOff_clean
  exact absurd hpoison (by decide)

end Sys2Proof.Machine

/-! ## Proofs: every command answers, and the time stays in whole ticks -/

namespace Sys2Proof.Machine

open Sys2Proof

/-- A command outside `movesTime` is an effect of `run`, and `sameTime` hands on the time and the queue. -/
theorem exec_keepsTime {c : Instr} (s : State) (hc : ¬ movesTime c) : ∃ s', exec c s = .next s' ∧
    s'.pending = s.pending ∧ s'.time.timeBase = s.time.timeBase ∧ s'.time.elapsed = s.time.elapsed := by
  obtain ⟨f, hf⟩ := exec_run s c hc
  exact ⟨_, by rw [hf, run_next], sameTime_pending .., sameTime_timeBase .., sameTime_elapsed ..⟩

/-- A command of `movesTime` is an effect that hands on the queue alone. -/
theorem exec_movesTime {c : Instr} (s : State) (hc : movesTime c) : ∃ f, exec c s = runTime f s ∧
    (f = timeTick ∨ c ≠ .timeBaseTick ∧ (f = powerOn ∨ ∃ r mv, 64 ≤ r ∧ f = resetCrossing r mv)) := by
  rcases hc with rfl | rfl | ⟨r, mv, hr, rfl⟩
  · exact ⟨_, exec_timeBaseTick s, .inl rfl⟩
  · exact ⟨_, exec_powerOnReset s, .inr ⟨by simp, .inl rfl⟩⟩
  · exact ⟨_, exec_supplyResetCrossing_device r mv s (by omega), .inr ⟨by simp, .inr ⟨_, mv, hr, rfl⟩⟩⟩

theorem timeWf_iff (s : State) : timeWf s = true ↔ s.time.timeBase % 10 = 0 ∧ s.time.elapsed % 10 = 0 := decide_eq_true_iff

/-- The form is one of the two times alone. -/
theorem timeWf_of_same {s s' : State} (hb : s'.time.timeBase = s.time.timeBase) (he : s'.time.elapsed = s.time.elapsed)
    (h : timeWf s = true) : timeWf s' = true := by
  rw [timeWf_iff] at h ⊢
  rwa [hb, he]

theorem timeWf_powerOn (s : State) : timeWf (powerOn s) = true := rfl

/-- A tick adds 10 ns, wraps to 0 or loads a value that TimeBaseSet keeps in units of 10 ns (R26). -/
theorem timeWf_timeTick {s : State} (h : timeWf s = true) : timeWf (timeTick s) = true := by
  rw [timeWf_iff] at h ⊢
  rw [timeTick_elapsed, timeTick_timeBase]
  refine ⟨?_, by omega⟩
  split
  · exact Nat.mul_mod_right 10 _
  · split <;> omega

/-- A supply crossing of a rail of the whole device changes nothing, or is a power-on (R318). -/
theorem timeWf_resetCrossing {r mv : Nat} {s : State} (hr : 64 ≤ r) (h : timeWf s = true) :
    timeWf (resetCrossing r mv s) = true := by
  unfold resetCrossing
  rw [if_pos hr]
  split
  · exact h
  · exact timeWf_powerOn s

theorem timeWf_exec {c : Instr} {s s' : State} (h : timeWf s = true) (he : exec c s = .next s') : timeWf s' = true := by
  by_cases hc : movesTime c
  · obtain ⟨f, hf, hcase⟩ := exec_movesTime s hc
    rw [hf, runTime_next] at he
    cases he
    show timeWf (f (fresh s)) = true
    rcases hcase with rfl | ⟨-, rfl | ⟨r, mv, hr, rfl⟩⟩
    · exact timeWf_timeTick h
    · exact timeWf_powerOn _
    · exact timeWf_resetCrossing hr h
  · obtain ⟨z, hz, -, hb, hel⟩ := exec_keepsTime s hc
    rw [hz] at he
    cases he
    exact timeWf_of_same hb hel h

/-- Settles O5: an idle step changes nothing, and a command keeps the time or moves it in whole ticks. -/
theorem stepKeepsWholeTicks : Obligations.StepKeepsWholeTicks := by
  unfold Obligations.StepKeepsWholeTicks
  intro s s' h hs
  unfold step at hs
  split at hs
  · cases hs
    exact h
  · next c rest _ => exact timeWf_exec (s := { s with pending := rest }) (timeWf_of_same (s := s) rfl rfl h) hs

/-- Settles O3: the commands that `run` makes of an effect hand on the time and the queue, the others the queue. -/
theorem everyCommandAnswers : Obligations.EveryCommandAnswers := by
  unfold Obligations.EveryCommandAnswers
  intro c s
  by_cases hc : movesTime c
  · obtain ⟨f, hf, hcase⟩ := exec_movesTime s hc
    refine ⟨_, hf.trans (runTime_next f s), rfl, fun hn => absurd hc hn, fun htick => ?_⟩
    obtain rfl | ⟨hother, -⟩ := hcase
    · have hel := timeTick_elapsed (fresh s)
      generalize timeTick (fresh s) = x at hel ⊢
      exact hel
    · exact absurd htick hother
  · obtain ⟨z, hz, hq, -, he⟩ := exec_keepsTime s hc
    exact ⟨z, hz, hq, fun _ => he, fun htick => absurd (.inl htick) hc⟩

/-- Settles O2: `step` of an empty queue is the state itself. -/
theorem stepIdlesOnAnEmptyQueue : Obligations.StepIdlesOnAnEmptyQueue := by
  unfold Obligations.StepIdlesOnAnEmptyQueue
  intro s h
  unfold step
  rw [h]

/-- No object is listed at reset, so each reads its default (R326). -/
theorem getObj_reset (u k : Nat) : getObj State.reset u k = objDefault k := rfl

/-- Settles O6: the parts of `State.reset` are empty, and bring-up's default phase is 1. -/
theorem resetState : Obligations.ResetState := by
  unfold Obligations.ResetState
  have hphase : getObj State.reset dev Obj.bringupPhase = 1 := by
    rw [getObj_reset]
    decide +kernel
  exact ⟨⟨rfl, rfl, getObj_reset, hphase, rfl, rfl⟩, rfl, memoryWf_reset⟩

end Sys2Proof.Machine

/-! ## Proofs: the word code as a linear code over the bits -/

namespace Sys2Proof.Machine

open Sys2Proof

theorem bit_succ (n i : Nat) : bit n (i + 1) = bit (n / 2) i := by
  unfold bit
  rw [Nat.div_div_eq_div_mul, ← pow_succ']

theorem bit_add_pow (n i k : Nat) : bit (n % 2 ^ i + 2 ^ i * k) i = decide (k % 2 = 1) := by
  unfold bit
  rw [Nat.add_mul_div_left _ _ (by positivity), Nat.div_eq_of_lt (Nat.mod_lt _ (by positivity)), Nat.zero_add]

/-- Flipping a bit moves the number by that bit's power of two. -/
theorem flipBit_cases (w i : Nat) : flipBit w i = if bit w i then w - 2 ^ i else w + 2 ^ i := by
  unfold flipBit putBit setBit clearBit
  cases bit w i <;> rfl

theorem two_pow_le_of_bit {w i : Nat} (h : bit w i = true) : 2 ^ i ≤ w := by
  by_contra hlt
  rw [bit, Nat.div_eq_of_lt (Nat.not_le.mp hlt)] at h
  cases h

theorem flipBit_succ (w i : Nat) : flipBit w (i + 1) = 2 * flipBit (w / 2) i + w % 2 := by
  have hle := fun h => two_pow_le_of_bit (w := w / 2) (i := i) h
  rw [flipBit_cases, flipBit_cases, bit_succ, pow_succ]
  split
  · next h => have := hle h; omega
  · omega

/-- Flipping a bit is adding its power of two without carry. -/
theorem flipBit_eq_xor (w i : Nat) : flipBit w i = w ^^^ 2 ^ i := by
  induction i generalizing w with
  | zero =>
    have hdiv := Nat.xor_div_two (a := w) (b := 1)
    have hmod := Nat.xor_mod_two_eq (m := w) (n := 1)
    rw [flipBit_cases, pow_zero]
    simp only [bit, pow_zero, Nat.div_one, decide_eq_true_eq]
    rw [show 1 / 2 = 0 from rfl, Nat.xor_zero] at hdiv
    split <;> omega
  | succ i ih =>
    have hdiv := Nat.xor_div_two (a := w) (b := 2 ^ (i + 1))
    have hmod := Nat.xor_mod_two_eq (m := w) (n := 2 ^ (i + 1))
    rw [pow_succ, Nat.mul_div_cancel _ (by decide), ← pow_succ, ← ih] at hdiv
    rw [flipBit_succ]
    rw [pow_succ] at hdiv hmod ⊢
    omega

/-! ### The check function -/

theorem eccXor_zero (l : List Nat) : eccXor l 0 = 0 := by
  induction l with
  | nil => rfl
  | cons h r ih => simp [eccXor, ih]

/-- The code is linear. -/
theorem eccXor_xor (l : List Nat) (a b : Nat) : eccXor l (a ^^^ b) = eccXor l a ^^^ eccXor l b := by
  induction l generalizing a b with
  | nil => exact (Nat.xor_self 0).symm
  | cons h r ih =>
    have hmod := Nat.xor_mod_two_eq (m := a) (n := b)
    simp only [eccXor, Nat.xor_div_two, ih]
    rcases Nat.mod_two_eq_zero_or_one a with ha | ha <;> rcases Nat.mod_two_eq_zero_or_one b with hb | hb
    · simp [ha, hb, show (a ^^^ b) % 2 = 0 by omega]
    · simp [ha, hb, show (a ^^^ b) % 2 = 1 by omega, Nat.xor_left_comm]
    · simp [ha, hb, show (a ^^^ b) % 2 = 1 by omega, Nat.xor_assoc]
    · simp [ha, hb, show (a ^^^ b) % 2 = 0 by omega, Nat.xor_assoc, Nat.xor_left_comm h]

theorem eccXor_append (l l' : List Nat) (d : Nat) : eccXor (l ++ l') d = eccXor l d ^^^ eccXor l' (d / 2 ^ l.length) := by
  induction l generalizing d with
  | nil => simp [eccXor]
  | cons h r ih => simp [eccXor, ih, Nat.xor_assoc, Nat.div_div_eq_div_mul, pow_succ']

/-- Only as many bits count as there are columns. -/
theorem eccXor_mod (l : List Nat) (d : Nat) : eccXor l (d % 2 ^ l.length) = eccXor l d := by
  induction l generalizing d with
  | nil => rfl
  | cons h r ih =>
    have hlow : d % 2 ^ (r.length + 1) % 2 = d % 2 := Nat.mod_mod_of_dvd _ (dvd_pow_self 2 (by omega))
    have hhigh : d % 2 ^ (r.length + 1) / 2 = d / 2 % 2 ^ r.length := by
      rw [pow_succ', Nat.mod_mul_right_div_self]
    simp only [eccXor, List.length_cons, hlow, hhigh, ih]

/-- A single bit has its column. -/
theorem eccXor_two_pow (l : List Nat) (i : Nat) : eccXor l (2 ^ i) = l.getD i 0 := by
  induction l generalizing i with
  | nil => rfl
  | cons h r ih =>
    cases i with
    | zero => simp [eccXor, eccXor_zero]
    | succ i => simp [eccXor, pow_succ, ih]

theorem eccXor_lt {l : List Nat} {n : Nat} (h : ∀ x ∈ l, x < 2 ^ n) (d : Nat) : eccXor l d < 2 ^ n := by
  induction l generalizing d with
  | nil => exact Nat.two_pow_pos n
  | cons x r ih =>
    refine Nat.xor_lt_two_pow ?_ (ih (fun y hy => h y (List.mem_cons_of_mem x hy)) (d / 2))
    split
    · exact h x (by simp)
    · exact Nat.two_pow_pos n

/-! ### Syndromes -/

theorem eccEncode_lt (d : Nat) : eccEncode d < 2 ^ 8 := eccXor_lt (by decide) d

/-- The columns of the check bits are the powers of two, so these bits stand for themselves. -/
theorem eccXor_checkColumns {c : Nat} (h : c < 2 ^ 8) : eccXor [1, 2, 4, 8, 16, 32, 64, 128] c = c := by
  have hall : ∀ c < 2 ^ 8, eccXor [1, 2, 4, 8, 16, 32, 64, 128] c = c := by decide +kernel
  exact hall c h

/-- The syndrome is the code of all 72 stored bits. -/
theorem syndrome_eq_eccXor {w : Nat} (h : w < 2 ^ 72) : syndrome w = eccXor eccAllColumns w := by
  have hcheck : w / 2 ^ 64 < 2 ^ 8 := Nat.div_lt_of_lt_mul h
  rw [syndrome, eccAllColumns, eccXor_append, eccEncode, show eccColumns.length = 64 from rfl, eccXor_checkColumns hcheck]
  exact congrArg (· ^^^ _) (eccXor_mod eccColumns w)

theorem syndrome_of_parts {d c : Nat} (h : d < 2 ^ 64) : syndrome (d + c * 2 ^ 64) = eccEncode d ^^^ c := by
  rw [syndrome, Nat.add_mul_mod_self_right, Nat.mod_eq_of_lt h, Nat.add_mul_div_right _ _ (by decide),
    Nat.div_eq_of_lt h, Nat.zero_add]

theorem syndrome_goodWord {d : Nat} (h : d < 2 ^ 64) : syndrome (goodWord d) = 0 :=
  (syndrome_of_parts h).trans (Nat.xor_self _)

theorem syndrome_poisonWord {d : Nat} (h : d < 2 ^ 64) : syndrome (poisonWord d) = 0x7F :=
  (syndrome_of_parts h).trans (Nat.xor_xor_cancel_left _ _)

theorem goodWord_lt {d : Nat} (h : d < 2 ^ 64) : goodWord d < 2 ^ 72 := by
  have := eccEncode_lt d
  unfold goodWord
  omega

theorem flipBit_lt {w i n : Nat} (h : w < 2 ^ n) (hi : i < n) : flipBit w i < 2 ^ n := by
  rw [flipBit_eq_xor]
  exact Nat.xor_lt_two_pow h (Nat.pow_lt_pow_right (by decide) hi)

/-- A flipped bit adds its column to the syndrome. -/
theorem syndrome_flipBit {w i : Nat} (h : w < 2 ^ 72) (hi : i < 72) :
    syndrome (flipBit w i) = syndrome w ^^^ eccAllColumns.getD i 0 := by
  rw [syndrome_eq_eccXor (flipBit_lt h hi), syndrome_eq_eccXor h, flipBit_eq_xor, eccXor_xor, eccXor_two_pow]

/-! ### Columns -/

/-- The parity of the low eight bits. -/
def parity8 (n : Nat) : Nat := eccXor (List.replicate 8 1) n

theorem parity8_xor (a b : Nat) : parity8 (a ^^^ b) = parity8 a ^^^ parity8 b := eccXor_xor _ a b

/-- Every column has an odd number of set bits, which is what tells two flips from one (R260). -/
theorem parity8_column : ∀ i < 72, parity8 (eccAllColumns.getD i 0) = 1 := by decide +kernel

theorem columnOf_eq_none {s : Nat} {l : List Nat} (h : s ∉ l) (i : Nat) : columnOf s l i = none := by
  induction l generalizing i with
  | nil => rfl
  | cons x r ih =>
    obtain ⟨hx, hr⟩ := not_or.mp (List.mem_cons.not.mp h)
    rw [columnOf, if_neg (Ne.symm hx), ih hr]

/-- The columns are pairwise distinct, so each is found at its own place. -/
theorem columnOf_column : ∀ i < 72, columnOf (eccAllColumns.getD i 0) eccAllColumns 0 = some i := by decide +kernel

theorem column_ne {i j : Nat} (hij : i < j) (hj : j < 72) : eccAllColumns.getD i 0 ≠ eccAllColumns.getD j 0 := by
  intro h
  have hi := columnOf_column i (by omega)
  rw [h, columnOf_column j hj] at hi
  exact absurd (Option.some.inj hi) (by omega)

theorem parity8_of_mem {s : Nat} (h : s ∈ eccAllColumns) : parity8 s = 1 := by
  obtain ⟨i, hi, rfl⟩ := List.mem_iff_getElem.mp h
  have := parity8_column i hi
  rwa [List.getD_eq_getElem _ _ hi] at this

/-! ### Classes -/

theorem classify_good {w : Nat} (h : syndrome w = 0) : classify w = .good := if_pos h

theorem classify_corrected {w i : Nat} (hi : i < 72) (h : syndrome w = eccAllColumns.getD i 0) :
    classify w = .corrected i := by
  have hne : eccAllColumns.getD i 0 ≠ 0 := fun h0 => by
    have := parity8_column i hi
    rw [h0] at this
    cases this
  unfold classify
  simp only [h, columnOf_column i hi, if_neg hne]

/-- A syndrome that is neither 0, a column nor that of poison. -/
theorem classify_uncorrectable {w : Nat} (h0 : syndrome w ≠ 0) (hp : parity8 (syndrome w) = 0) :
    classify w = .uncorrectable := by
  have hcol : syndrome w ∉ eccAllColumns := fun hm => by
    rw [parity8_of_mem hm] at hp
    cases hp
  have hpois : syndrome w ≠ 0x7F := fun h => by
    rw [h] at hp
    exact absurd hp (by decide)
  unfold classify
  simp only [columnOf_eq_none hcol, if_neg h0, if_neg hpois]

theorem classify_poisoned {w : Nat} (h : syndrome w = 0x7F) : classify w = .poisoned := by
  unfold classify
  rw [h]
  rfl

theorem goodWord_mod {d : Nat} (h : d < 2 ^ 64) : goodWord d % 2 ^ 64 = d := by
  rw [goodWord, Nat.add_mul_mod_self_right, Nat.mod_eq_of_lt h]

theorem poisonWord_mod {d : Nat} (h : d < 2 ^ 64) : poisonWord d % 2 ^ 64 = d := by
  rw [poisonWord, Nat.add_mul_mod_self_right, Nat.mod_eq_of_lt h]

theorem classify_goodWord {d : Nat} (h : d < 2 ^ 64) : classify (goodWord d) = .good := classify_good (syndrome_goodWord h)

theorem classify_poisonWord {d : Nat} (h : d < 2 ^ 64) : classify (poisonWord d) = .poisoned :=
  classify_poisoned (syndrome_poisonWord h)

theorem wordData_goodWord {d : Nat} (h : d < 2 ^ 64) : wordData (goodWord d) = d := by
  rw [wordData, classify_goodWord h]
  exact goodWord_mod h

theorem wordData_poisonWord {d : Nat} (h : d < 2 ^ 64) : wordData (poisonWord d) = d := by
  rw [wordData, classify_poisonWord h]
  exact poisonWord_mod h

theorem classify_flipped {d i : Nat} (h : d < 2 ^ 64) (hi : i < 72) : classify (flipBit (goodWord d) i) = .corrected i := by
  refine classify_corrected hi ?_
  rw [syndrome_flipBit (goodWord_lt h) hi, syndrome_goodWord h, Nat.zero_xor]

/-- The flip of a data bit is taken back; one of a check bit leaves the data as it was. -/
theorem wordData_flipped {d i : Nat} (h : d < 2 ^ 64) (hi : i < 72) : wordData (flipBit (goodWord d) i) = d := by
  rw [wordData, classify_flipped h hi]
  dsimp only
  rw [flipBit_eq_xor, flipBit_eq_xor, Nat.xor_mod_two_pow, goodWord_mod h]
  split
  · next hlow => rw [Nat.mod_eq_of_lt (Nat.pow_lt_pow_right (by decide) hlow), Nat.xor_xor_cancel_right]
  · next hhigh =>
    rw [Nat.mod_eq_zero_of_dvd (pow_dvd_pow 2 (Nat.not_lt.mp hhigh)), Nat.xor_zero]

/-- Two flips leave a syndrome of even parity that is not 0. -/
theorem classify_flipped_twice {d i j : Nat} (h : d < 2 ^ 64) (hij : i < j) (hj : j < 72) :
    classify (flipBit (flipBit (goodWord d) i) j) = .uncorrectable := by
  have hi : i < 72 := hij.trans hj
  have hsyn : syndrome (flipBit (flipBit (goodWord d) i) j) = eccAllColumns.getD i 0 ^^^ eccAllColumns.getD j 0 := by
    rw [syndrome_flipBit (flipBit_lt (goodWord_lt h) hi) hj, syndrome_flipBit (goodWord_lt h) hi, syndrome_goodWord h,
      Nat.zero_xor]
  refine classify_uncorrectable ?_ ?_
  · rw [hsyn]
    exact Nat.xor_ne_zero_iff.mpr (column_ne hij hj)
  · rw [hsyn, parity8_xor, parity8_column i hi, parity8_column j hj, Nat.xor_self]

/-- Settles O14: the syndrome is linear in the stored bits, and the columns are distinct and of odd weight. -/
theorem wordCodeCorrectsOneAndDetectsTwo : Obligations.WordCodeCorrectsOneAndDetectsTwo := by
  unfold Obligations.WordCodeCorrectsOneAndDetectsTwo
  exact fun d h => ⟨⟨classify_goodWord h, wordData_goodWord h⟩, fun i hi => ⟨classify_flipped h hi, wordData_flipped h hi⟩,
    fun i j hij hj => classify_flipped_twice h hij hj, classify_poisonWord h, wordData_poisonWord h⟩

end Sys2Proof.Machine

/-! ## Proofs: writes that live passes, Timetables or enabled engines stand against -/

namespace Sys2Proof.Machine

open Sys2Proof

/-! ### Objects of an engine or an array -/

theorem engineTail_bits : ∀ e : EngineN, Obj.engineTail + e.val < 2 ^ 24 ∧ objBits (Obj.engineTail + e.val) = 32 := by decide
theorem engineEnable_bits : ∀ e : EngineN, Obj.engineEnable + e.val < 2 ^ 24 ∧ objBits (Obj.engineEnable + e.val) = 8 := by
  decide
theorem engineQueueSize_bits : ∀ e : EngineN,
    Obj.engineQueueSize + e.val < 2 ^ 24 ∧ objBits (Obj.engineQueueSize + e.val) = 32 := by decide
theorem engineQueueBase_bits : ∀ e : EngineN,
    Obj.engineQueueBase + e.val < 2 ^ 24 ∧ objBits (Obj.engineQueueBase + e.val) = 64 := by decide
theorem saveAreaBase_bits : ∀ a : ArrayN,
    Obj.saveAreaBase + a.val < 2 ^ 24 ∧ objBits (Obj.saveAreaBase + a.val) = 32 := by decide

theorem flag_eq_false_iff (s : State) (u k : Nat) : flag s u k = false ↔ getObj s u k = 0 := by
  simp [flag]

theorem flag_iff (s : State) (u k : Nat) : flag s u k = true ↔ getObj s u k ≠ 0 := by
  simp [flag]

theorem isPow2_le {v lo hi : Nat} (h : isPow2 v lo hi = true) : v ≤ hi := by
  simp only [isPow2, Bool.and_eq_true, decide_eq_true_eq] at h
  exact h.1.2

theorem inRange_saveAreaBase (a : ArrayN) (v : Nat) :
    inRange (Obj.saveAreaBase + a.val) v = true ↔ v ≤ 8122368 ∧ v % 4096 = 0 := by
  have hrow : ∀ a : ArrayN, (keyDef (Obj.saveAreaBase + a.val)).map (fun d => (d.vmin, d.vmax, d.vmul)) =
      some (0, 8122368, 4096) := by decide
  have hdef := hrow a
  unfold inRange
  cases hk : keyDef (Obj.saveAreaBase + a.val) with
  | none => simp [hk] at hdef
  | some d =>
    simp only [hk, Option.map_some, Option.some.injEq, Prod.mk.injEq] at hdef
    obtain ⟨hmin, hmax, hmul⟩ := hdef
    simp [hmin, hmax, hmul]

section
variable (t : TileN) (e : EngineN) (a : ArrayN) (s : State)

theorem engineTailWrite_stores (v : BitVec 32) :
    WritesObj (.engineTailWrite t e v) s t.val (Obj.engineTail + e.val) v.toNat := by
  obtain ⟨hk, hbits⟩ := engineTail_bits e
  exact writesObj_run (exec_engineTailWrite t e v s) rfl hk (by rw [hbits]; exact v.isLt)

theorem engineEnableWrite_cases (v : BitVec 8) :
    (v.toNat ≤ 1 → WritesObj (.engineEnableWrite t e v) s t.val (Obj.engineEnable + e.val) v.toNat) ∧
    (1 < v.toNat → Refuses (.engineEnableWrite t e v) s stBadFormat) := by
  obtain ⟨hk, hbits⟩ := engineEnable_bits e
  exact ⟨fun h => writesObj_run (exec_engineEnableWrite t e v s) (if_neg (Nat.not_lt.mpr h)) hk (by rw [hbits]; exact v.isLt),
    fun h => refuses_run (exec_engineEnableWrite t e v s) (if_pos h)⟩

theorem engineQueueSizeWrite_cases (v : BitVec 64) :
    (isPow2 v.toNat 16 1048576 = true →
      (getObj s t.val (Obj.engineEnable + e.val) ≠ 0 → Refuses (.engineQueueConfigWrite t e true v) s stRetry) ∧
      (getObj s t.val (Obj.engineEnable + e.val) = 0 →
        WritesObj (.engineQueueConfigWrite t e true v) s t.val (Obj.engineQueueSize + e.val) v.toNat)) ∧
    (isPow2 v.toNat 16 1048576 = false → Refuses (.engineQueueConfigWrite t e true v) s stBadFormat) := by
  obtain ⟨hk, hbits⟩ := engineQueueSize_bits e
  obtain ⟨hbad, hbusy, hstore⟩ := checked_write (exec_engineQueueConfigWrite t e true v s)
    (bad := ¬ isPow2 v.toNat 16 1048576 = true) (busy := flag s t.val (Obj.engineEnable + e.val) = true)
    (stored := storeObj t.val (Obj.engineQueueSize + e.val) v.toNat (fresh s)) rfl
  rw [flag_iff] at hbusy hstore
  refine ⟨fun h => ⟨hbusy (not_not.mpr h), fun h0 => ?_⟩, fun h => hbad (by simp [h])⟩
  have hle := isPow2_le h
  exact writesObj_run (exec_engineQueueConfigWrite t e true v s) (hstore (not_not.mpr h) (not_not.mpr h0)) hk
    (by rw [hbits]; omega)

theorem engineQueueBaseWrite_cases (v : BitVec 64) :
    let good := v.toNat % 64 = 0 ∧ adOk (v.toNat % 2 ^ 48) = true
    (¬ good → Refuses (.engineQueueConfigWrite t e false v) s stBadFormat) ∧
    (good → getObj s t.val (Obj.engineEnable + e.val) ≠ 0 → Refuses (.engineQueueConfigWrite t e false v) s stRetry) ∧
    (good → getObj s t.val (Obj.engineEnable + e.val) = 0 →
      WritesObj (.engineQueueConfigWrite t e false v) s t.val (Obj.engineQueueBase + e.val) (v.toNat % 2 ^ 48)) := by
  intro good
  obtain ⟨hk, hbits⟩ := engineQueueBase_bits e
  obtain ⟨hbad, hbusy, hstore⟩ := checked_write (exec_engineQueueConfigWrite t e false v s)
    (bad := ¬ (adOk (v.toNat % 2 ^ 48) && decide (v.toNat % 64 = 0)) = true)
    (busy := flag s t.val (Obj.engineEnable + e.val) = true)
    (stored := storeObj t.val (Obj.engineQueueBase + e.val) (v.toNat % 2 ^ 48) (fresh s)) rfl
  have hgood : ¬ ¬ (adOk (v.toNat % 2 ^ 48) && decide (v.toNat % 64 = 0)) = true ↔ good := by
    simp [good, and_comm]
  rw [flag_iff] at hbusy hstore
  rw [hgood] at hbusy hstore
  rw [← not_iff_not, not_not] at hgood
  refine ⟨fun h => hbad (hgood.mpr h), hbusy, fun h h0 => ?_⟩
  exact writesObj_run (exec_engineQueueConfigWrite t e false v s) (hstore h (not_not.mpr h0)) hk (by rw [hbits]; omega)

theorem saveAreaBaseWrite_cases (v : BitVec 32) :
    let good := v.toNat ≤ 8122368 ∧ v.toNat % 4096 = 0
    (¬ good → Refuses (.saveAreaBaseWrite t a v) s stBadFormat) ∧
    (good → saving s t.val a.val = true → Refuses (.saveAreaBaseWrite t a v) s stRetry) ∧
    (good → saving s t.val a.val = false →
      WritesObj (.saveAreaBaseWrite t a v) s t.val (Obj.saveAreaBase + a.val) v.toNat) := by
  intro good
  obtain ⟨hk, hbits⟩ := saveAreaBase_bits a
  obtain ⟨hbad, hbusy, hstore⟩ := checked_write (exec_saveAreaBaseWrite t a v s)
    (bad := ¬ inRange (Obj.saveAreaBase + a.val) v.toNat = true) (busy := saving s t.val a.val = true)
    (stored := storeObj t.val (Obj.saveAreaBase + a.val) v.toNat (fresh s)) rfl
  rw [inRange_saveAreaBase] at hbad hbusy hstore
  refine ⟨hbad, fun h => hbusy (not_not.mpr h), fun h hidle => ?_⟩
  exact writesObj_run (exec_saveAreaBaseWrite t a v s) (hstore (not_not.mpr h) (by simp [hidle])) hk
    (by rw [hbits]; exact v.isLt)

theorem arrayUnfence_cases (v : BitVec 8) :
    (1 < v.toNat → Refuses (.arrayUnfence t a v) s stBadFormat) ∧ (v.toNat = 0 → NoEffect (.arrayUnfence t a v) s) ∧
    (v.toNat = 1 → exec (.arrayUnfence t a v) s = .next { s with
       array := fupd {} s.array (t.val * 4 + a.val) (fun x => { x with fenced := false })
       out := { status := stOk } }) := by
  refine ⟨fun h => refuses_run (exec_arrayUnfence t a v s) (if_pos h), fun h => noEffect_run (exec_arrayUnfence t a v s) ?_,
    fun h => ?_⟩
  · unfold writeUnfence
    rw [if_neg (by omega), if_neg (by omega)]
    rfl
  · have hf : writeUnfence t.val a.val v.toNat (fresh s) =
        answer stOk (modArray t.val a.val (fun x => { x with fenced := false }) (fresh s)) :=
      (if_neg (by omega)).trans (if_pos h)
    rw [exec_arrayUnfence, run_next, hf]
    simp only [sameTime, answer, modArray, fresh]

/-! ### RangeDefault and TimetableEnable -/

theorem rangeDefaultWrite_cases (v : BitVec 8) :
    (1 < v.toNat → Refuses (.rangeDefaultWrite t v) s stBadFormat) ∧
    (v.toNat = 0 → (livePasses s t.val).any (fun e => cPartition e.2.terms = 0) = true →
      Refuses (.rangeDefaultWrite t v) s stRetry) ∧
    (v.toNat ≤ 1 → (v.toNat = 0 → (livePasses s t.val).any (fun e => cPartition e.2.terms = 0) = false) →
      WritesObj (.rangeDefaultWrite t v) s t.val Obj.rangeDefault v.toNat) := by
  obtain ⟨hbad, hbusy, hstore⟩ := checked_write (exec_rangeDefaultWrite t v s) (bad := 1 < v.toNat)
    (busy := v.toNat = 0 ∧ (livePasses s t.val).any (fun e => cPartition e.2.terms = 0) = true)
    (stored := storeObj t.val Obj.rangeDefault v.toNat (fresh s)) rfl
  refine ⟨hbad, fun h0 hlive => hbusy (by omega) ⟨h0, hlive⟩, fun hle hfree => ?_⟩
  refine writesObj_run (exec_rangeDefaultWrite t v s) (hstore (by omega) fun ⟨h0, hlive⟩ => ?_) (by decide) v.isLt
  rw [hfree h0] at hlive
  cases hlive

end

theorem hasLive_eq_false_iff (s : State) (t : Nat) : hasLive s t = false ↔ livePasses s t = [] := by
  simp [hasLive, List.isEmpty_iff]

theorem takeTileBounds_fields (t : Nat) (tt : Option (List Nat)) (s : State) :
    takeTileBounds t tt s = { s with passes := (takeTileBounds t tt s).passes } := setPasses_fields _ _ s

theorem takeTileBounds_idle {t : Nat} (tt : Option (List Nat)) {s : State} (h : hasLive s t = false) :
    takeTileBounds t tt s = s := by
  unfold takeTileBounds takeBounds
  rw [(hasLive_eq_false_iff s t).mp h]
  rfl

/-- Bounds taken at one tile change nothing else of its passes, nor of the passes of other tiles. -/
theorem alikeButBound_takeTileBounds {s : State} (h : fwf (fun _ => ({} : Pass)) s.passes = true) (t : Nat)
    (tt : Option (List Nat)) (k : Nat) :
    AlikeButBound (fget {} (takeTileBounds t tt s).passes k) (fget {} s.passes k) := by
  refine alikeButBound_setPasses _ _ s (fun e he => ?_) k
  obtain ⟨x, hx, rfl⟩ := List.mem_map.mp he
  obtain ⟨y, hy, rfl⟩ := List.mem_map.mp hx
  obtain ⟨hmem, htile⟩ := List.mem_filter.mp hy
  have hkey : t * 256 + y.1 % 256 = y.1 := by
    have : y.1 / 256 = t := (decide_eq_true_eq.mp htile).1
    omega
  have hread : getPass s t (y.1 % 256) = y.2 := by
    unfold getPass
    rw [hkey]
    exact fget_of_mem h hmem _
  rw [hread]
  rfl

/-- The lists that a write of TimetableEnable is checked against (R141). -/
def checkedLists (s : State) (t : Nat) : List TTable := (getTT s t).running.toList ++ (getTT s t).pending.toList

/-- A live pass could not meet its bound under one of these lists. -/
def ttWriteFails (s : State) (t : Nat) : Prop :=
  hasLive s t = true ∧ ∃ l ∈ checkedLists s t, ttPassesOk s t l.entries = false

theorem not_all_checkedLists (s : State) (t : Nat) :
    (¬ ((match (getTT s t).running with | some l => [l.entries] | none => []) ++
      (match (getTT s t).pending with | some l => [l.entries] | none => [])).all (ttPassesOk s t) = true) ↔
    ∃ l ∈ checkedLists s t, ttPassesOk s t l.entries = false := by
  unfold checkedLists
  cases (getTT s t).running <;> cases (getTT s t).pending <;> simp [imp_iff_not_or]

section
variable {t : TileN} {v : BitVec 8} {s : State}

theorem timetableEnableWrite_bad (h : 1 < v.toNat) : Refuses (.timetableEnableWrite t v) s stBadFormat :=
  refuses_run (exec_timetableEnableWrite t v s) (if_pos h)

theorem timetableEnableWrite_refused (h : v.toNat = 1) (hf : ttWriteFails s t.val) :
    Refuses (.timetableEnableWrite t v) s stRefusedAdmission := by
  refine refuses_run (exec_timetableEnableWrite t v s) ?_
  unfold writeTTEnable
  rw [if_neg (by omega)]
  exact if_pos ⟨h, hf.1, (not_all_checkedLists (fresh s) t.val).mpr hf.2⟩

theorem writeTTEnable_stores (h : v.toNat = 0 ∨ (v.toNat = 1 ∧ ¬ ttWriteFails s t.val)) :
    writeTTEnable t.val v.toNat (fresh s) = takeTileBounds t.val
      (admTT (storeObj t.val Obj.timetableEnable v.toNat (fresh s)) t.val)
      (storeObj t.val Obj.timetableEnable v.toNat (fresh s)) := by
  unfold writeTTEnable
  rw [if_neg (by omega)]
  refine if_neg fun ⟨h1, hlive, hall⟩ => ?_
  rcases h with h0 | ⟨-, hok⟩
  · omega
  · exact hok ⟨hlive, (not_all_checkedLists (fresh s) t.val).mp hall⟩

theorem answers_timetableEnableWrite (h : v.toNat = 0 ∨ (v.toNat = 1 ∧ ¬ ttWriteFails s t.val)) :
    Answers (.timetableEnableWrite t v) s (fun s' => s'.out = { status := stOk } ∧
      getObj s' t.val Obj.timetableEnable = v.toNat ∧ OtherObjects s s' [(t.val, Obj.timetableEnable)] ∧
      s' = { s with dict := s'.dict, out := s'.out, passes := s'.passes } ∧
      (hasLive s t.val = false → s'.passes = s.passes) ∧
      (fwf (fun _ => {}) s.passes = true → ∀ k, ∃ n,
        fget {} s'.passes k = { fget {} s.passes k with computed := n })) := by
  refine answers_run (exec_timetableEnableWrite t v s) ?_
  rw [writeTTEnable_stores h]
  generalize admTT _ _ = tt
  obtain ⟨x, hx⟩ : ∃ x, x = storeObj t.val Obj.timetableEnable v.toNat (fresh s) := ⟨_, rfl⟩
  have hpasses : x.passes = s.passes := by rw [hx]; rfl
  have hdict : x.dict = (setObj t.val Obj.timetableEnable v.toNat (fresh s)).dict := by rw [hx]; rfl
  have hout : x.out = { status := stOk } := by rw [hx]; rfl
  have hstored : x = { s with dict := x.dict, out := x.out } := by rw [hx]; rfl
  have hlive : hasLive x t.val = hasLive s t.val := by rw [hx]; rfl
  rw [← hx]
  clear hx
  obtain ⟨y, hy⟩ : ∃ y, y = takeTileBounds t.val tt x := ⟨_, rfl⟩
  have hfields : y = { x with passes := y.passes } := by rw [hy]; exact takeTileBounds_fields ..
  have hydict : y.dict = x.dict := by rw [hfields]
  refine ⟨?_, ?_, ?_, ?_, fun hidle => ?_, fun hwf k => ?_⟩
  · rw [← hy, hfields]
    exact hout
  · rw [← hy]
    exact getObj_set (s := fresh s) (hydict.trans hdict) v.isLt
  · rw [← hy]
    exact otherObjects_set (s := fresh s) (hydict.trans hdict) (by decide)
  · rw [← hy, hfields, hstored]
    rfl
  · rw [takeTileBounds_idle tt (hlive.trans hidle)]
    exact hpasses
  · rw [← hpasses] at hwf ⊢
    exact (alikeButBound_takeTileBounds hwf t.val tt k).eq

end

/-- Settles O9: each register's write is checked for its value, then for what stands against it, then stored; a write of
TimetableEnable has the live passes of its tile take their bounds. -/
theorem lockedRegisterWrites : Obligations.LockedRegisterWrites := by
  unfold Obligations.LockedRegisterWrites
  refine ⟨fun t v s => ?_, fun t e v s => engineTailWrite_stores t e s v, fun t e v s => engineEnableWrite_cases t e s v,
    fun t e v s => ?_, fun t a v s => saveAreaBaseWrite_cases t a s v, fun t a v s => arrayUnfence_cases t a s v⟩
  · obtain ⟨hbad, hbusy, hstore⟩ := rangeDefaultWrite_cases t s v
    exact ⟨fun h => ⟨hbad h, timetableEnableWrite_bad h⟩, hbusy, hstore, timetableEnableWrite_refused,
      answers_timetableEnableWrite⟩
  · obtain ⟨hsize, hbad⟩ := engineQueueSizeWrite_cases t e s v
    exact ⟨hsize, hbad, engineQueueBaseWrite_cases t e s v⟩

end Sys2Proof.Machine

/-! ## Proofs: the reference, and the speed index -/

namespace Sys2Proof.Machine

open Sys2Proof

/-- A command of type BOOL (R327): a byte over 1 is refused, 0 does nothing, 1 acts. -/
theorem boolCommand_cases {c : Instr} {s : State} {v : Nat} {f : State → State} (h : exec c s = run (boolCommand v f) s) :
    (1 < v → Refuses c s stBadFormat) ∧ (v = 0 → NoEffect c s) ∧
    (v = 1 → exec c s = run (fun x => answer stOk (f x)) s) := by
  refine ⟨fun hv => refuses_run h ?_, fun hv => noEffect_run h (if_pos hv), fun hv => ?_⟩
  · unfold boolCommand
    rw [if_neg (by omega), if_neg (by omega)]
  · rw [h, run_next, run_next]
    unfold boolCommand
    rw [if_neg (by omega), if_pos hv]

/-- An object is stored to its width. -/
theorem setObj_mod (u k v : Nat) (s : State) : setObj u k (v % 2 ^ objBits k) s = setObj u k v s := by
  unfold setObj
  rw [Nat.mod_mod]

/-! ### Loss and return of the reference -/

/-- The reference lost from lock: what is written before the passes are told. -/
def holdover (s : State) : State :=
  setObj dev Obj.referenceState 1 { s with time := { s.time with goodEdges := 0, lostAt := s.time.elapsed } }

theorem referenceLost_locked {s : State} (h : getObj s dev Obj.referenceState = 0) : Side (holdover s) (referenceLost s) := by
  unfold referenceLost refState
  rw [if_neg (by omega), if_neg (by omega)]
  exact (side_addLog dev 0x09 1 stOk 0 0 (holdover s)).trans (side_forTiles _ (fun t x => side_setCause t 2 true x) _)

/-- The reference locked again: what is written before the passes are told. -/
def relocked (s : State) : State :=
  setObj dev Obj.holdoverLength (s.time.elapsed - s.time.lostAt) (bump dev Obj.holdoverEvents 1
    (setObj dev Obj.referenceState 0 { s with time := { s.time with goodEdges := 0 } }))

theorem referenceReturn_ready {s : State} (h : getObj s dev Obj.referenceState ≠ 0) (he : 16 ≤ s.time.goodEdges) :
    Side (relocked s) (referenceReturn s) := by
  unfold referenceReturn refState
  rw [if_neg (by omega)]
  exact (side_addLog dev 0x09 2 stOk _ 0 (relocked s)).trans (side_forTiles _ (fun t x => side_setCause t 2 false x) _)

theorem Side.sameMemory {s s' : State} (h : Side s s') : SameMemory s s' := h.books.sameMemory

theorem answers_referenceLost {s : State} (h : getObj s dev Obj.referenceState = 0) :
    Answers .referenceLost s (fun s' => getObj s' dev Obj.referenceState = 1 ∧ s'.time.goodEdges = 0 ∧
      s'.time.lostAt = s.time.elapsed ∧ SameMemory s s') := by
  have hside := referenceLost_locked (s := fresh s) h
  refine answers_effect (exec_referenceLost s) fun y hy => ?_
  rw [← hy] at hside
  have hmem : SameMemory (fresh s) (holdover (fresh s)) := sameMemory_of rfl rfl rfl rfl
  refine ⟨(hside.objs _ _ (by decide) (by decide)).trans (getObj_setObj_fits _ (by decide)), ?_, ?_,
    hmem.trans hside.sameMemory⟩
  · show y.time.goodEdges = 0
    rw [hside.time]
    rfl
  · show y.time.lostAt = s.time.elapsed
    rw [hside.time]
    rfl

theorem answers_holdoverEdge {s : State} (good : Bool) (h : getObj s dev Obj.referenceState ≠ 0) :
    Answers (.referenceEdgeInHoldover good) s (fun s' => getObj s' dev Obj.referenceState = 2 ∧
      s'.time.goodEdges = (if good then min 16 (s.time.goodEdges + 1) else 0) ∧ SameMemory s s' ∧
      OtherObjects s s' [(dev, Obj.referenceState)]) := by
  have hrun : holdoverEdge good (fresh s) = _ := if_neg h
  refine answers_effect (exec_referenceEdgeInHoldover good s) fun y hy => ?_
  rw [hrun] at hy
  have hdict : y.dict = (setObj dev Obj.referenceState 2 s).dict := by rw [hy]; rfl
  have hedges : y.time.goodEdges = if good then min 16 (s.time.goodEdges + 1) else 0 := by rw [hy]; rfl
  have hmem : SameMemory s (sameTime s y) := by rw [hy]; exact sameMemory_of rfl rfl rfl rfl
  exact ⟨getObj_set (s := s) hdict (by decide), hedges, hmem, otherObjects_set (s := s) hdict (by decide)⟩

theorem answers_referenceReturn {s : State} (h : getObj s dev Obj.referenceState ≠ 0) (he : 16 ≤ s.time.goodEdges)
    (ht : s.time.elapsed < 2 ^ 64) :
    Answers .referenceReturn s (fun s' => getObj s' dev Obj.referenceState = 0 ∧
      getObj s' dev Obj.holdoverLength = s.time.elapsed - s.time.lostAt ∧ SameMemory s s') := by
  have hside := referenceReturn_ready (s := fresh s) h he
  refine answers_effect (exec_referenceReturn s) fun y hy => ?_
  rw [← hy] at hside
  have hmem : SameMemory (fresh s) (relocked (fresh s)) := sameMemory_of rfl rfl rfl rfl
  refine ⟨(hside.objs _ _ (by decide) (by decide)).trans ?_, (hside.objs _ _ (by decide) (by decide)).trans ?_,
    hmem.trans hside.sameMemory⟩
  · unfold relocked bump
    rw [getObj_setObj_obj _ (by decide) (by decide) (by decide), getObj_setObj_obj _ (by decide) (by decide) (by decide)]
    exact getObj_setObj_fits _ (by decide)
  · exact getObj_setObj_fits _ (show s.time.elapsed - s.time.lostAt < 2 ^ 64 by omega)

theorem noEffect_referenceReturn {s : State} (h : s.time.goodEdges < 16) : NoEffect .referenceReturn s :=
  noEffect_run (exec_referenceReturn s) (if_pos (.inr h))

/-! ### The speed index -/

theorem perMille_lt (x : Option (Nat × Nat)) : perMille x < 2 ^ 16 := by
  unfold perMille
  split <;> omega

/-- The window's samples of the layers go into their own records only. -/
theorem calm_layerWindow {K : Nat → Bool} (t : Nat) (s : State) : Calm K s (layerWindow t s) := by
  refine calm_foldl _ (fun x j => ?_) _ _
  dsimp only
  split
  · exact .refl K x
  · split <;> exact calm_of rfl

/-- The four objects of a window (R31, R32). -/
def speedShown (t logic stack si low : Nat) (s : State) : State :=
  setObj t Obj.logicSpeed logic (setObj t Obj.stackSpeed stack
    (setObj t Obj.speedIndex si (setObj t Obj.speedLowWater low s)))

section
variable (t logic stack si low : Nat) (s : State)

theorem logicSpeed_speedShown (h : logic < 2 ^ 16) : getObj (speedShown t logic stack si low s) t Obj.logicSpeed = logic :=
  getObj_setObj_fits _ h

theorem speedIndex_speedShown (h : si < 2 ^ 16) : getObj (speedShown t logic stack si low s) t Obj.speedIndex = si := by
  unfold speedShown
  rw [getObj_setObj_obj _ (by decide) (by decide) (by decide), getObj_setObj_obj _ (by decide) (by decide) (by decide)]
  exact getObj_setObj_fits _ h

theorem speedLowWater_speedShown (h : low < 2 ^ 16) :
    getObj (speedShown t logic stack si low s) t Obj.speedLowWater = low := by
  unfold speedShown
  rw [getObj_setObj_obj _ (by decide) (by decide) (by decide), getObj_setObj_obj _ (by decide) (by decide) (by decide),
    getObj_setObj_obj _ (by decide) (by decide) (by decide)]
  exact getObj_setObj_fits _ h

end

/-- What follows the publication of the speeds: the causes of R112, the floor step and the ageing sample. -/
theorem publishSpeed_calm (t logic stack si : Nat) (s : State) :
    ∃ low, (getObj s t Obj.speedIndex ≠ 0 → low = min (getObj s t Obj.speedLowWater) si) ∧
      Calm stepKeys (speedShown t logic stack si low s) (publishSpeed t logic stack si s) := by
  unfold publishSpeed
  extract_lets first low s1 s2 s3
  refine ⟨low, fun h => if_neg fun hfirst => h hfirst.1, ?_⟩
  have h2 : Side s1 s2 := side_setCause _ _ _ _
  have h3 : Side s2 s3 := side_foldl _ (by intro x p; exact side_setForce _ _ _ _ _) _ _
  exact ((h2.trans h3).calm.trans (calm_floorStepRaise t s3)).trans (calm_ageingSample t _)

/-- A window's outcome: the speeds stand in their objects, and memory is left alone. -/
theorem answers_speedWindow {t : TileN} {counts : List Nat} {s : State} (h : due s t.val 0 1000 = true) :
    ∃ si low, si = perMille (speedOf t.val counts (layerWindow t.val (take t.val 0 (fresh s)))) ∧
      (getObj s t.val Obj.speedIndex ≠ 0 → low = min (getObj s t.val Obj.speedLowWater) si) ∧
      Answers (.speedWindowEnd t counts) s (fun s' =>
        getObj s' t.val Obj.logicSpeed = perMille (logicSpeedOf t.val counts) ∧ getObj s' t.val Obj.speedIndex = si ∧
        (low < 2 ^ 16 → getObj s' t.val Obj.speedLowWater = low) ∧ SameMemory s s') := by
  obtain ⟨x, hx⟩ : ∃ x, x = layerWindow t.val (take t.val 0 (fresh s)) := ⟨_, rfl⟩
  have hbefore : Calm (fun _ => false) s x := by
    rw [hx]
    exact (calm_of (s := s) (s' := take t.val 0 (fresh s)) rfl).trans (calm_layerWindow _ _)
  have hobj : ∀ k, k < 2 ^ 24 → sideKey k = false → getObj x t.val k = getObj s t.val k :=
    fun k hk hs => hbefore.objs _ _ hk rfl hs
  obtain ⟨low, hlow, hcalm⟩ := publishSpeed_calm t.val (perMille (logicSpeedOf t.val counts))
    (perMille (stackSpeedOf t.val x)) (perMille (speedOf t.val counts x)) x
  rw [hobj _ (by decide) (by decide), hobj _ (by decide) (by decide)] at hlow
  refine ⟨_, low, by rw [hx], hlow, answers_effect (exec_speedWindowEnd t counts s) fun y hy => ?_⟩
  have hrun : y = publishSpeed t.val (perMille (logicSpeedOf t.val counts)) (perMille (stackSpeedOf t.val x))
      (perMille (speedOf t.val counts x)) x := by
    rw [hy, hx]
    exact if_neg (not_not.mpr h)
  rw [← hrun] at hcalm
  have hshown : ∀ k, k < 2 ^ 24 → stepKeys k = false → sideKey k = false → getObj (sameTime s y) t.val k = _ :=
    fun k h1 h2 h3 => hcalm.objs t.val k h1 h2 h3
  refine ⟨?_, ?_, fun hlt => ?_, ?_⟩
  · rw [hshown _ (by decide) (by decide) (by decide)]
    exact logicSpeed_speedShown _ _ _ _ _ _ (perMille_lt _)
  · rw [hshown _ (by decide) (by decide) (by decide)]
    exact speedIndex_speedShown _ _ _ _ _ _ (perMille_lt _)
  · rw [hshown _ (by decide) (by decide) (by decide)]
    exact speedLowWater_speedShown _ _ _ _ _ _ hlt
  · have hmem : SameMemory x (speedShown t.val (perMille (logicSpeedOf t.val counts)) (perMille (stackSpeedOf t.val x))
      (perMille (speedOf t.val counts x)) low x) := sameMemory_of rfl rfl rfl rfl
    exact (hbefore.words.sameMemory.trans hmem).trans hcalm.words.sameMemory

theorem speedLowWaterClear_cases (t : TileN) (v : BitVec 8) (s : State) :
    (1 < v.toNat → Refuses (.speedLowWaterClear t v) s stBadFormat) ∧
    (v.toNat = 0 → NoEffect (.speedLowWaterClear t v) s) ∧
    (v.toNat = 1 →
      WritesObj (.speedLowWaterClear t v) s t.val Obj.speedLowWater (getObj s t.val Obj.speedIndex % 2 ^ 16)) := by
  obtain ⟨hbad, hnone, hact⟩ := boolCommand_cases (exec_speedLowWaterClear t v s)
  refine ⟨hbad, hnone, fun h => writesObj_run (hact h) ?_ (by decide) (Nat.mod_lt _ (by decide))⟩
  rw [storeObj, show (2 : Nat) ^ 16 = 2 ^ objBits Obj.speedLowWater from by decide, setObj_mod]
  rfl

/-- Settles O10: what a command writes before the passes are told of it (`Side`), or before the causes and steps that hang
on a window's speeds (`Calm`). -/
theorem referenceAndSpeedIndex : Obligations.ReferenceAndSpeedIndex := by
  unfold Obligations.ReferenceAndSpeedIndex
  refine ⟨⟨fun s => answers_referenceLost, fun good s => answers_holdoverEdge good, fun s => answers_referenceReturn,
    fun s => noEffect_referenceReturn⟩, fun t counts s hdue => ?_, fun t counts s hdue => ?_, speedLowWaterClear_cases⟩
  · obtain ⟨si, low, hsi, hlow, s', hexec, hlogic, hindex, hwater, hmem⟩ := answers_speedWindow (counts := counts) hdue
    refine ⟨s', hexec, fun hvalid => ?_, fun hbad => ⟨?_, ?_⟩, fun hne => ?_, hmem⟩
    · rw [hlogic, logicSpeedOf, if_pos hvalid]
    · rw [hlogic, logicSpeedOf, if_neg (by simp [hbad])]
      rfl
    · rw [hindex, hsi, speedOf, if_neg (by simp [hbad])]
      rfl
    · have hfits : low < 2 ^ 16 := by
        have := perMille_lt (speedOf t.val counts (layerWindow t.val (take t.val 0 (fresh s))))
        rw [← hsi] at this
        rw [hlow hne]
        omega
      rw [hwater hfits, hindex, hlow hne]
      exact ⟨Nat.min_le_left _ _, Nat.min_le_right _ _⟩
  · exact noEffect_run (exec_speedWindowEnd t counts s) (if_pos (by rw [show due (fresh s) t.val 0 1000 = false from hdue]; simp))

end Sys2Proof.Machine

/-! ## Proofs: what a layer does with the word it captures -/

namespace Sys2Proof.Machine

open Sys2Proof

/-- An effect that hands on the queue and the time is the command's answer itself. -/
theorem exec_of_kept {c : Instr} {s y : State} {f : State → State} (h : exec c s = run f s) (hy : f (fresh s) = y)
    (hp : y.pending = s.pending) (ht : y.time = s.time) : exec c s = .next y := by
  rw [h, run_next, hy]
  unfold sameTime
  rw [← hp, ← ht]

theorem answers_of_kept {c : Instr} {s y : State} {f : State → State} {P : State → Prop} (h : exec c s = run f s)
    (hy : f (fresh s) = y) (hp : y.pending = s.pending) (ht : y.time = s.time) (hP : P y) : Answers c s P :=
  ⟨y, exec_of_kept h hy hp ht, hP⟩


/-! ### Words -/

theorem word_ne_zero_of_marker {w : Nat} (h : wMarker w = true) : w ≠ 0 := by
  rintro rfl
  exact absurd h (by decide)

theorem word_ne_zero_of_op {w op : Nat} (h : opWordOk w op) (hop : op ≠ 0) : w ≠ 0 := by
  obtain ⟨-, -, hcode⟩ := h
  rintro rfl
  exact hop (hcode.symm.trans (by decide))

theorem takesArg_of_op {w op : Nat} (h : opWordOk w op) : takesArg w = decide (op = 6 ∨ op = 7) := by
  obtain ⟨-, hmarker, hcode⟩ := h
  simp [takesArg, hmarker, hcode]

theorem addressed_of_op {w op : Nat} (h : opWordOk w op) : addressed w = wBank w := by
  unfold addressed
  rw [h.2.1]
  rfl

theorem layerDo_row {t c w : Nat} (h : wMarker w = true) (arg : Option Nat) (beats : List Nat) (s : State) :
    layerDo t c w arg beats s = layerAct t c w s := if_pos h

/-- The operation an opcode names (R47). -/
def layerOp (op t c w : Nat) (arg : Option Nat) (beats : List Nat) (s : State) : State :=
  match op with
    | 1 => layerRd t c w s
    | 2 => layerWr t c w beats s
    | 3 => layerPre t c w s
    | 4 => layerPrea t c w s
    | 5 => layerRef t c w s
    | 6 => layerRcopy t c w (arg.getD 0) s
    | 7 => layerRfill t c w (arg.getD 0) s
    | 8 => match beats with
      | [v] => layerMrw t c w (v % 2 ^ 64) s
      | _ => s
    | 9 => layerMrr t c w s
    | 0xA => layerTrw t c w s
    | 0xB => layerTrr t c w s
    | _ => layerWord t c w (fun _ => false) id s

theorem layerDo_op {t c w op : Nat} (h : opWordOk w op) (arg : Option Nat) (beats : List Nat) (s : State) :
    layerDo t c w arg beats s = layerOp op t c w arg beats s := by
  obtain ⟨-, hmarker, hcode⟩ := h
  unfold layerDo
  rw [if_neg (by simp [hmarker]), hcode]
  rfl

/-- A row word that no other word waits for is an ACT (R46). -/
theorem layerTake_row {t c w b r : Nat} {beats : List Nat} {s : State} (h : rowWordOk w b r)
    (ha : (getLayer s t c).awaits = none) : layerTake t c w none beats s = layerAct t c w s := by
  obtain ⟨hp, hmarker, -, -⟩ := h
  rw [layerTake_word hp (.inr (word_ne_zero_of_marker hmarker)) ha (by simp [takesArg, hmarker]), layerDo_row hmarker]

/-- An operation word that needs no argument goes to its operation (R47). -/
theorem layerTake_op {t c w op : Nat} {beats : List Nat} {s : State} (h : opWordOk w op) (h0 : op ≠ 0) (h6 : op ≠ 6)
    (h7 : op ≠ 7) (ha : (getLayer s t c).awaits = none) :
    layerTake t c w none beats s = layerOp op t c w none beats s := by
  rw [layerTake_word h.1 (.inr (word_ne_zero_of_op h h0)) ha (by simp [takesArg_of_op h, h6, h7]), layerDo_op h]

/-- An operation word sent with its argument (R46). -/
theorem layerTake_withArg {t c w op arg : Nat} {beats : List Nat} {s : State} (h : opWordOk w op) (h0 : op ≠ 0)
    (hp : onesCount arg % 2 = 0) (ha : (getLayer s t c).awaits = none) :
    layerTake t c w (some arg) beats s = layerOp op t c w (some arg) beats s := by
  rw [layerTake_pair h.1 hp (.inr (word_ne_zero_of_op h h0)) ha, layerDo_op h]

/-- A word that waits for its argument takes the row word after it (R46). -/
theorem layerTake_awaited {t c w w0 : Nat} {s : State} (hp : onesCount w % 2 = 0) (hm : wMarker w = true)
    (ha : (getLayer s t c).awaits = some w0) : layerTake t c w none [] s = layerDo t c w0 (some w) [] s := by
  unfold layerTake
  rw [if_neg fun h => word_ne_zero_of_marker hm h.2]
  dsimp only
  rw [if_neg (by simp [hp]), ha]
  exact if_pos hm

/-- A word that needs an argument and comes alone waits for it. -/
theorem layerTake_waits {t c w op : Nat} {s : State} (h : opWordOk w op) (hop : op = 6 ∨ op = 7)
    (ha : (getLayer s t c).awaits = none) :
    layerTake t c w none [] s = modLayer t c (fun l => { l with awaits := some w }) s := by
  unfold layerTake
  rw [if_neg fun hz => word_ne_zero_of_op h (by omega) hz.2]
  dsimp only
  rw [if_neg (by simp [h.1]), ha]
  exact if_pos ⟨by simp [takesArg_of_op h, hop], rfl⟩

theorem layerOp_reserved {op : Nat} (h : op = 0 ∨ 0xC ≤ op) (t c w : Nat) (arg : Option Nat) (beats : List Nat) (s : State) :
    layerOp op t c w arg beats s = layerWord t c w (fun _ => false) id s := by
  rcases h with rfl | h
  · rfl
  · obtain ⟨k, rfl⟩ := Nat.exists_eq_add_of_le' h
    rfl

/-- A reserved opcode is a violation of the word's bank (R48). -/
theorem layerTake_reserved {t c w : Nat} {s : State} (hp : onesCount w % 2 = 0) (hm : wMarker w = false)
    (hcode : wOpcode w = 0 ∨ 0xC ≤ wOpcode w) (hs : slp2 s = false) (ha : (getLayer s t c).awaits = none) :
    layerTake t c w none [] s = report t c (wBank w) 9 (capture t c false s) := by
  have hop : opWordOk w (wOpcode w) := ⟨hp, hm, rfl⟩
  rw [layerTake_word hp (.inl hs) ha (by rw [takesArg_of_op hop, decide_eq_false_iff_not]; omega), layerDo_op hop]
  rw [layerOp_reserved hcode, layerWord_bad rfl, addressed_of_op hop]

/-! ### The captured state -/

/-- A captured word moves the transfer off the downward path and touches nothing else of the layer. -/
theorem getLayer_capture (t c : Nat) (odd : Bool) (s : State) : ∃ down last failed, getLayer (capture t c odd s) t c =
    { getLayer s t c with down := down, last := last, failed := failed, awaits := none } := by
  unfold capture
  rw [getLayer_modLayer]
  split
  · exact ⟨_, _, _, rfl⟩
  · exact ⟨[], none, (getLayer s t c).failed, by simp_all⟩

theorem modeReg_capture (t c r : Nat) (odd : Bool) (s : State) : modeReg (capture t c odd s) t c r = modeReg s t c r := by
  obtain ⟨down, last, failed, h⟩ := getLayer_capture t c odd s
  unfold modeReg
  rw [h]

/-- `y` differs from the captured state in the layer of the channel only, and not in its unlisted words. -/
theorem sameMemory_captured {t c : Nat} {s y : State} (h : OneLayer (capture t c false (fresh s)) y t c) :
    SameMemory s y ∧ y = { s with layer := y.layer, out := {} } ∧
    ∀ k, k ≠ chKey t c → fget ({} : LayerS) y.layer k = fget {} s.layer k := by
  have hone := (oneLayer_capture t c false (fresh s)).trans h
  have hf := hone.fields
  refine ⟨sameMemory_layers (s := s) ?_ ?_ ?_ hone.other hone.base, hf, hone.other⟩ <;> rw [hf] <;> rfl

section
variable {t : TileN} {c : ChanN} {w : BitVec 20} {s : State}

theorem exec_odd {cmd : Instr} {arg : Option Nat} {beats : List Nat}
    (h : exec cmd s = run (layerTake t.val c.val w.toNat arg beats) s)
    (hodd : layerTake t.val c.val w.toNat arg beats (fresh s) =
      report t.val c.val 0 8 (capture t.val c.val true (fresh s))) :
    exec cmd s = .next (report t.val c.val 0 8 (capture t.val c.val true { s with out := {} })) :=
  exec_of_kept h hodd rfl rfl

/-- The commands that carry a word without argument or beats (R46). -/
theorem exec_carriers {cmd : Instr}
    (h : cmd ∈ ([.rd t c w, .pre t c w, .prea t c w, .ref t c w, .mrr t c w, .trw t c w, .trr t c w] : List Instr)) :
    exec cmd s = run (layerTake t.val c.val w.toNat none []) s := by
  simp only [List.mem_cons, List.not_mem_nil, or_false] at h
  rcases h with rfl | rfl | rfl | rfl | rfl | rfl | rfl
  · exact exec_rd t c w s
  · exact exec_pre t c w s
  · exact exec_prea t c w s
  · exact exec_ref t c w s
  · exact exec_mrr t c w s
  · exact exec_trw t c w s
  · exact exec_trr t c w s

theorem exec_odd_word (hodd : onesCount w.toNat % 2 = 1) {cmd : Instr}
    (h : cmd ∈ ([.act t c w, .rd t c w, .pre t c w, .prea t c w, .ref t c w, .mrr t c w, .trw t c w, .trr t c w] : List Instr)) :
    exec cmd s = .next (report t.val c.val 0 8 (capture t.val c.val true { s with out := {} })) := by
  rcases List.mem_cons.mp h with rfl | h
  · exact exec_odd (exec_act t c w s) (layerTake_odd hodd)
  · exact exec_odd (exec_carriers h) (layerTake_odd hodd)

theorem exec_odd_pair {arg : BitVec 20}
    (hodd : onesCount w.toNat % 2 = 1 ∨ (onesCount arg.toNat % 2 = 1 ∧ (slp2 s = false ∨ w.toNat ≠ 0))) :
    exec (.rcopy t c w arg) s = .next (report t.val c.val 0 8 (capture t.val c.val true { s with out := {} })) ∧
    exec (.rfill t c w arg) s = .next (report t.val c.val 0 8 (capture t.val c.val true { s with out := {} })) := by
  have htake : layerTake t.val c.val w.toNat (some arg.toNat) [] (fresh s) =
      report t.val c.val 0 8 (capture t.val c.val true (fresh s)) := by
    rcases hodd with hodd | ⟨hodd, hw⟩
    · exact layerTake_odd hodd
    · exact layerTake_oddArg hw hodd
  exact ⟨exec_odd (exec_rcopy t c w arg s) htake, exec_odd (exec_rfill t c w arg s) htake⟩

theorem answers_waits {op : Nat} (hop : op = 6 ∨ op = 7) (h : opWordOk w.toNat op)
    (ha : (getLayer s t.val c.val).awaits = none) :
    Answers (.act t c w) s (fun s' => getLayer s' t.val c.val = { getLayer s t.val c.val with awaits := some w.toNat } ∧
      (∀ k, k ≠ chKey t.val c.val → fget ({} : LayerS) s'.layer k = fget {} s.layer k) ∧ SameMemory s s' ∧
      s' = { s with layer := s'.layer, out := {} }) := by
  refine answers_of_kept (exec_act t c w s) (layerTake_waits h hop ha) rfl rfl ?_
  have hone := oneLayer_mod (t := t.val) (c := c.val) (f := fun l => { l with awaits := some w.toNat }) (fresh s) (fun _ => rfl)
  exact ⟨getLayer_modLayer _ _ _ _, hone.other, sameMemory_layers (s := s) rfl rfl rfl hone.other hone.base, rfl⟩

/-- A word executed with its argument hands on the queue and the time. -/
theorem layerPair_kept {t c w arg : Nat} {ok : State → Bool} {f : State → State} {s : State}
    (hp : (f (capture t c false s)).pending = s.pending) (ht : (f (capture t c false s)).time = s.time) :
    (layerPair t c w arg ok f s).pending = s.pending ∧ (layerPair t c w arg ok f s).time = s.time := by
  unfold layerPair layerWord
  dsimp only
  split
  · exact ⟨hp, ht⟩
  · exact ⟨rfl, rfl⟩

theorem layerRcopy_kept (t c w arg : Nat) (s : State) :
    (layerRcopy t c w arg s).pending = s.pending ∧ (layerRcopy t c w arg s).time = s.time := by
  refine layerPair_kept ?_ ?_ <;>
  · dsimp only [holdBank]
    rw [setRawWords_fields]
    rfl

theorem layerRfill_kept (t c w arg : Nat) (s : State) :
    (layerRfill t c w arg s).pending = s.pending ∧ (layerRfill t c w arg s).time = s.time := by
  refine layerPair_kept ?_ ?_ <;>
  · dsimp only [holdBank]
    rw [setRawWords_fields]
    rfl

theorem exec_awaited {w0 : BitVec 20} (hp : onesCount w.toNat % 2 = 0) (hm : wMarker w.toNat = true)
    (ha : (getLayer s t.val c.val).awaits = some w0.toNat) :
    (opWordOk w0.toNat 6 → exec (.act t c w) s = .next (layerRcopy t.val c.val w0.toNat w.toNat { s with out := {} })) ∧
    (opWordOk w0.toNat 7 → exec (.act t c w) s = .next (layerRfill t.val c.val w0.toNat w.toNat { s with out := {} })) := by
  have htake := layerTake_awaited (s := fresh s) hp hm ha
  refine ⟨fun h => ?_, fun h => ?_⟩
  · obtain ⟨hq, ht⟩ := layerRcopy_kept t.val c.val w0.toNat w.toNat (fresh s)
    exact exec_of_kept (exec_act t c w s) (htake.trans (layerDo_op h _ _ _)) hq ht
  · obtain ⟨hq, ht⟩ := layerRfill_kept t.val c.val w0.toNat w.toNat (fresh s)
    exact exec_of_kept (exec_act t c w s) (htake.trans (layerDo_op h _ _ _)) hq ht

/-! ### Mode registers and trims -/

/-- A transfer sent up by a layer whose registers may have changed beside. -/
theorem sendsUp_of {t c : Nat} {s y : State} {l : List Up}
    (hup : (getLayer y t c).up = (getLayer (capture t c false (fresh s)) t c).up ++ l)
    (hother : ∀ k, k ≠ chKey t c → fget ({} : LayerS) y.layer k = fget {} s.layer k) : SendsUp s y t c l :=
  ⟨hup.trans (by rw [capture_up]; rfl), hother⟩

/-- The registers after an accepted MRW (Table 2.5). -/
def mrwStored (r v : Nat) (l : LayerS) : LayerS :=
  if r = 1 then { l with refreshCounter := v % 2 ^ 14 }
  else if r = 4 then { l with fillData := v }
  else { l with fillCheck := v % 256 }

theorem layerMrw_ok {t c w v : Nat} {s : State} (hv : v < 2 ^ 64) (hm : modeWordOk w = true)
    (hr : wSector w = 4 ∨ wSector w = 5 ∨ (wSector w = 1 ∧ v % 2 ^ 14 < 8208)) : layerMrw t c w v s =
    report t c 0 7 (modLayer t c (mrwStored (wSector w) v) (capture t c false s)) := by
  unfold layerMrw
  rw [layerWord_ok (by rcases hr with h | h | ⟨h, -⟩ <;> simp [hm, h])]
  rw [if_neg (by omega)]
  dsimp only
  congr 1
  unfold modLayer
  congr 2
  funext l
  unfold mrwStored
  rcases hr with h | h | ⟨h, hlt⟩
  · simp [h]
    omega
  · simp [h]
  · simp [h]
    omega

theorem mrwStored_fields (r v : Nat) (l : LayerS) : (mrwStored r v l).up = l.up ∧ (mrwStored r v l).base = l.base := by
  unfold mrwStored
  split
  · exact ⟨rfl, rfl⟩
  · split <;> exact ⟨rfl, rfl⟩

theorem answers_mrw {v : BitVec 64} (ha : (getLayer s t.val c.val).awaits = none) (h : opWordOk w.toNat 8)
    (hm : modeWordOk w.toNat = true)
    (hr : wSector w.toNat = 4 ∨ wSector w.toNat = 5 ∨ (wSector w.toNat = 1 ∧ v.toNat % 2 ^ 14 < 8208)) :
    Answers (.mrw t c w v) s (fun s' =>
      (getLayer s' t.val c.val).fillData =
        (if wSector w.toNat = 4 then v.toNat else (getLayer s t.val c.val).fillData) ∧
      (getLayer s' t.val c.val).fillCheck =
        (if wSector w.toNat = 5 then v.toNat % 256 else (getLayer s t.val c.val).fillCheck) ∧
      (getLayer s' t.val c.val).refreshCounter =
        (if wSector w.toNat = 1 then v.toNat % 2 ^ 14 else (getLayer s t.val c.val).refreshCounter) ∧
      SendsUp s s' t.val c.val [.done 0 7] ∧ SameMemory s s' ∧ s' = { s with layer := s'.layer, out := {} }) := by
  have hop : layerOp 8 t.val c.val w.toNat none [v.toNat] (fresh s) = report t.val c.val 0 7
      (modLayer t.val c.val (mrwStored (wSector w.toNat) v.toNat) (capture t.val c.val false (fresh s))) := by
    show layerMrw _ _ _ (v.toNat % 2 ^ 64) _ = _
    rw [Nat.mod_eq_of_lt v.isLt]
    exact layerMrw_ok v.isLt hm hr
  have htake := (layerTake_op (s := fresh s) (beats := [v.toNat]) h (by decide) (by decide) (by decide) ha).trans hop
  refine answers_of_kept (exec_mrw t c w v s) htake rfl rfl ?_
  have hone := (oneLayer_mod (t := t.val) (c := c.val) (f := mrwStored (wSector w.toNat) v.toNat)
    (capture t.val c.val false (fresh s)) (fun l => (mrwStored_fields _ _ l).2)).trans (oneLayer_report t.val c.val 0 7 _)
  obtain ⟨hmem, hfields, hother⟩ := sameMemory_captured hone
  obtain ⟨down, last, failed, hcap⟩ := getLayer_capture t.val c.val false (fresh s)
  have hlayer : getLayer (fresh s) t.val c.val = getLayer s t.val c.val := rfl
  have hafter : getLayer (report t.val c.val 0 7 (modLayer t.val c.val (mrwStored (wSector w.toNat) v.toNat)
      (capture t.val c.val false (fresh s)))) t.val c.val =
      { mrwStored (wSector w.toNat) v.toNat (getLayer (capture t.val c.val false (fresh s)) t.val c.val) with
        up := (getLayer (capture t.val c.val false (fresh s)) t.val c.val).up ++ [.done 0 7] } := by
    unfold report sendUp
    rw [getLayer_modLayer, getLayer_modLayer, (mrwStored_fields _ _ _).1]
  refine ⟨?_, ?_, ?_, sendsUp_of (by rw [hafter]) hother, hmem, hfields⟩ <;>
  · rw [hafter, hcap, hlayer]
    rcases hr with hr | hr | ⟨hr, -⟩ <;> simp [mrwStored, hr]

/-- A layer sends one beat up for a register or a trim. -/
theorem oneLayer_readUp (t c x : Nat) (tag : RdTag) (s : State) :
    OneLayer s (modLayer t c (fun l => { l with reads := l.reads ++ [tag] }) (sendUp t c (.beats [x]) s)) t c ∧
    (getLayer (modLayer t c (fun l => { l with reads := l.reads ++ [tag] }) (sendUp t c (.beats [x]) s)) t c).up =
      (getLayer s t c).up ++ [.beats [x]] := by
  have hup : OneLayer s (sendUp t c (.beats [x]) s) t c := oneLayer_mod s (fun _ => rfl)
  have hread : OneLayer (sendUp t c (.beats [x]) s) (modLayer t c (fun l => { l with reads := l.reads ++ [tag] })
      (sendUp t c (.beats [x]) s)) t c := oneLayer_mod _ (fun _ => rfl)
  refine ⟨hup.trans hread, ?_⟩
  unfold sendUp
  rw [getLayer_modLayer, getLayer_modLayer]

theorem answers_readUp {cmd : Instr} {op x : Nat} {tag : RdTag} (hcmd : exec cmd s = run (layerTake t.val c.val w.toNat none []) s)
    (h : opWordOk w.toNat op) (h0 : op ≠ 0) (h6 : op ≠ 6) (h7 : op ≠ 7) (ha : (getLayer s t.val c.val).awaits = none)
    (hop : layerOp op t.val c.val w.toNat none [] (fresh s) = modLayer t.val c.val (fun l => { l with reads := l.reads ++ [tag] })
      (sendUp t.val c.val (.beats [x]) (capture t.val c.val false (fresh s)))) :
    Answers cmd s (fun s' => SendsUp s s' t.val c.val [.beats [x]] ∧ SameMemory s s' ∧
      s' = { s with layer := s'.layer, out := {} }) := by
  have htake := (layerTake_op (s := fresh s) h h0 h6 h7 ha).trans hop
  refine answers_of_kept hcmd htake rfl rfl ?_
  obtain ⟨hone, hup⟩ := oneLayer_readUp t.val c.val x tag (capture t.val c.val false (fresh s))
  obtain ⟨hmem, hfields, hother⟩ := sameMemory_captured hone
  exact ⟨sendsUp_of hup hother, hmem, hfields⟩

theorem answers_mrr {v : Nat} (ha : (getLayer s t.val c.val).awaits = none) (h : opWordOk w.toNat 9)
    (hm : modeWordOk w.toNat = true) (hv : modeReg s t.val c.val (wSector w.toNat) = some v) :
    Answers (.mrr t c w) s (fun s' => SendsUp s s' t.val c.val [.beats [v]] ∧ SameMemory s s' ∧
      s' = { s with layer := s'.layer, out := {} }) := by
  have hreg : modeReg (capture t.val c.val false (fresh s)) t.val c.val (wSector w.toNat) = some v :=
    (modeReg_capture _ _ _ _ _).trans hv
  refine answers_readUp (exec_mrr t c w s) h (by decide) (by decide) (by decide) ha (tag := .mode (wSector w.toNat)) ?_
  show layerMrr _ _ _ _ = _
  unfold layerMrr
  rw [layerWord_ok (by rw [hm, hreg]; rfl)]
  rw [hreg]
  rfl

theorem trims_capture (t c : Nat) (odd : Bool) (s : State) :
    (getLayer (capture t c odd s) t c).trims = (getLayer s t c).trims := by
  obtain ⟨down, last, failed, h⟩ := getLayer_capture t c odd s
  rw [h]

theorem answers_trr (ha : (getLayer s t.val c.val).awaits = none) (h : opWordOk w.toNat 0xB) (hi : bits w.toNat 7 4 ≤ 5)
    (hv : bits w.toNat 1 6 = 0) (hb : wBank w.toNat = 0) : Answers (.trr t c w) s (fun s' =>
      SendsUp s s' t.val c.val [.beats [(getLayer s t.val c.val).trims.getD (bits w.toNat 7 4) 0]] ∧
      SameMemory s s' ∧ s' = { s with layer := s'.layer, out := {} }) := by
  refine answers_readUp (exec_trr t c w s) h (by decide) (by decide) (by decide) ha (tag := .trim (bits w.toNat 7 4)) ?_
  show layerTrr _ _ _ _ = _
  unfold layerTrr
  rw [layerWord_ok (by simp [hi, hv, hb]), trims_capture]
  rfl

theorem allBanks_closed {s : State} {t c : Nat} (h : ∀ b < 16, getBank s t c b = .closed) : allBanks s t c isClosed = true :=
  List.all_eq_true.mpr fun b hb => by rw [h b (List.mem_range.mp hb)]; rfl

theorem answers_trw (ha : (getLayer s t.val c.val).awaits = none) (h : opWordOk w.toNat 0xA) (hi : bits w.toNat 7 4 ≤ 5)
    (hv : bits w.toNat 7 4 = 5 → bits w.toNat 1 6 < 32) (hb : wBank w.toNat = 0)
    (hbanks : slp2 s = true ∨ ∀ b < 16, getBank s t.val c.val b = .closed) : Answers (.trw t c w) s (fun s' =>
      (getLayer s' t.val c.val).trims = setNth (getLayer s t.val c.val).trims (bits w.toNat 7 4) (bits w.toNat 1 6) ∧
      SendsUp s s' t.val c.val [.done 0 7] ∧ SameMemory s s' ∧ s' = { s with layer := s'.layer, out := {} }) := by
  have hready : (slp2 s || allBanks (capture t.val c.val false (fresh s)) t.val c.val isClosed) = true := by
    rcases hbanks with hslp | hclosed
    · rw [hslp]
      rfl
    · rw [allBanks_closed (s := capture t.val c.val false (fresh s)) hclosed, Bool.or_true]
  have hfit : (bits w.toNat 7 4 ≠ 5 || decide (bits w.toNat 1 6 < 32)) = true := by
    simpa [imp_iff_not_or] using hv
  have hop : layerOp 0xA t.val c.val w.toNat none [] (fresh s) = report t.val c.val 0 7 (modLayer t.val c.val
      (fun l => { l with trims := setNth l.trims (bits w.toNat 7 4) (bits w.toNat 1 6) })
      (capture t.val c.val false (fresh s))) := by
    show layerTrw _ _ _ _ = _
    unfold layerTrw
    refine layerWord_ok ?_
    simp only [Bool.and_eq_true, decide_eq_true_eq]
    exact ⟨⟨⟨hi, hfit⟩, hb⟩, hready⟩
  have htake := (layerTake_op (s := fresh s) h (by decide) (by decide) (by decide) ha).trans hop
  refine answers_of_kept (exec_trw t c w s) htake rfl rfl ?_
  have hone := (oneLayer_mod (t := t.val) (c := c.val)
    (f := fun l => { l with trims := setNth l.trims (bits w.toNat 7 4) (bits w.toNat 1 6) })
    (capture t.val c.val false (fresh s)) (fun _ => rfl)).trans (oneLayer_report t.val c.val 0 7 _)
  obtain ⟨hmem, hfields, hother⟩ := sameMemory_captured hone
  refine ⟨?_, sendsUp_of ?_ hother, hmem, hfields⟩
  · unfold report sendUp
    rw [getLayer_modLayer, getLayer_modLayer]
    exact congrArg (setNth · _ _) (trims_capture t.val c.val false (fresh s))
  · unfold report sendUp
    rw [getLayer_modLayer, getLayer_modLayer]

end

/-- Settles O11: a captured word is discarded, waits, or goes to the operation its bits name, and those of the mode
registers and trims change the layer of their channel alone. -/
theorem layerWordsAndModeRegisters : Obligations.LayerWordsAndModeRegisters := by
  unfold Obligations.LayerWordsAndModeRegisters
  refine ⟨fun t c w s => ⟨fun hodd cmd hcmd => exec_odd_word hodd hcmd,
    fun v hodd => exec_odd (exec_mrw t c w v s) (layerTake_odd hodd),
    fun beats hodd => exec_odd (exec_wr t c w beats s) (layerTake_odd hodd), fun arg => exec_odd_pair,
    fun cmd hcmd => (exec_carriers hcmd).trans (exec_act t c w s).symm,
    fun hp hm hcode hs ha => exec_of_kept (exec_act t c w s) (layerTake_reserved hp hm hcode hs ha) rfl rfl,
    fun op hop h ha => answers_waits hop h ha, fun w0 hp hm ha => exec_awaited hp hm ha,
    fun hs hw => noEffect_run (exec_act t c w s) (if_pos ⟨hs, hw⟩)⟩,
    fun t c w s ha => ⟨fun v h hm hr => answers_mrw ha h hm hr, fun v h hm hv => answers_mrr ha h hm hv,
      fun h hi hv hb hbanks => answers_trw ha h hi hv hb hbanks, fun h hi hv hb => answers_trr ha h hi hv hb⟩⟩

end Sys2Proof.Machine

/-! ## Proofs: the row commands, and the data they move -/

namespace Sys2Proof.Machine

open Sys2Proof

/-! ### What goes up, and what the layer keeps -/

/-- The layer of channel `c` has sent nothing more and its unlisted words read as before; the other layers are as
before. -/
structure UpKept (s x : State) (t c : Nat) : Prop where
  up : (getLayer x t c).up = (getLayer s t c).up
  base : (getLayer x t c).base = (getLayer s t c).base
  other : ∀ k, k ≠ chKey t c → fget ({} : LayerS) x.layer k = fget {} s.layer k

section
variable {s x y : State} {t c : Nat}

theorem upKept_capture (t c : Nat) (odd : Bool) (s : State) : UpKept s (capture t c odd (fresh s)) t c := by
  have h := oneLayer_capture t c odd (fresh s)
  exact ⟨capture_up t c odd (fresh s), h.base, h.other⟩

theorem getLayer_of_layer (h : y.layer = x.layer) (t c : Nat) : getLayer y t c = getLayer x t c := by
  unfold getLayer
  rw [h]

theorem UpKept.of_layer (h : UpKept s x t c) (hl : y.layer = x.layer) : UpKept s y t c := by
  have hget := getLayer_of_layer hl t c
  exact ⟨by rw [hget, h.up], by rw [hget, h.base], by rw [hl]; exact h.other⟩

theorem UpKept.modLayer (h : UpKept s x t c) {f : LayerS → LayerS} (hf : ∀ l, (f l).up = l.up ∧ (f l).base = l.base) :
    UpKept s (modLayer t c f x) t c := by
  have hmod := oneLayer_mod (t := t) (c := c) x (fun l => (hf l).2)
  refine ⟨?_, hmod.base.trans h.base, fun k hk => (hmod.other k hk).trans (h.other k hk)⟩
  rw [getLayer_modLayer, (hf _).1]
  exact h.up

/-- What a layer sends up next, with what its unlisted words read as. -/
theorem UpKept.sendUp (h : UpKept s x t c) (u : Up) : SendsUp s (sendUp t c u x) t c [u] ∧
    (getLayer (Sys2Proof.Machine.sendUp t c u x) t c).base = (getLayer s t c).base := by
  have hmod := oneLayer_mod (t := t) (c := c) (f := fun l => { l with up := l.up ++ [u] }) x (fun _ => rfl)
  refine ⟨⟨?_, fun k hk => (hmod.other k hk).trans (h.other k hk)⟩, hmod.base.trans h.base⟩
  unfold Sys2Proof.Machine.sendUp
  rw [getLayer_modLayer, ← h.up]

theorem SendsUp.of_layer {l : List Up} (h : SendsUp s x t c l) (hl : y.layer = x.layer) : SendsUp s y t c l := by
  obtain ⟨hup, hother⟩ := h
  exact ⟨by rw [getLayer_of_layer hl, hup], by rw [hl]; exact hother⟩

theorem SendsUp.report {l : List Up} (h : SendsUp s x t c l) (b ev : Nat) :
    SendsUp s (report t c b ev x) t c (l ++ [.done b ev]) := by
  have hmod := oneLayer_mod (t := t) (c := c) (f := fun l => { l with up := l.up ++ [.done b ev] }) x (fun _ => rfl)
  refine ⟨?_, fun k hk => (hmod.other k hk).trans (h.2 k hk)⟩
  unfold Sys2Proof.Machine.report Sys2Proof.Machine.sendUp
  rw [getLayer_modLayer, ← List.append_assoc, ← h.1]

theorem sameMemory_of_base {s y : State} {t c : Nat} (hd : y.dram = s.dram) (hs : y.slate = s.slate)
    (hi : y.inkwell = s.inkwell) {l : List Up} (hup : SendsUp s y t c l)
    (hb : (getLayer y t c).base = (getLayer s t c).base) : SameMemory s y := sameMemory_layers hd hs hi hup.2 hb

end

theorem sameMemory_capture (t c : Nat) (odd : Bool) (s : State) : SameMemory s (capture t c odd (fresh s)) := by
  have h := oneLayer_capture t c odd (fresh s)
  exact sameMemory_layers (s := s) rfl rfl rfl h.other h.base

theorem rawWords_congr {s s' : State} (h : SameMemory s s') (t c b r w0 n : Nat) :
    rawWords s' t c b r w0 n = rawWords s t c b r w0 n :=
  List.map_congr_left fun i _ => h.1 t c b r (w0 + i)

theorem rawWords_getD (s : State) (t c b r : Nat) {i n : Nat} (h : i < n) :
    (rawWords s t c b r 0 n).getD i 0 = rawWord s t c b r i := by
  simp [rawWords, h]

theorem getBank_capture (t c : Nat) (odd : Bool) (s : State) (t' c' b : Nat) :
    getBank (capture t c odd (fresh s)) t' c' b = getBank s t' c' b := rfl

theorem capture_fields (t c : Nat) (odd : Bool) (s : State) :
    capture t c odd (fresh s) = { s with layer := (capture t c odd (fresh s)).layer, out := {} } := rfl

theorem countEv_some (t e q n : Nat) (s : State) :
    countEv t e q (n + 1) s = { s with count := (countEv t e q (n + 1) s).count } := rfl

/-- One bank was set, and its layer sent transfers up. -/
structure BankDone (s y : State) (t c b : Nat) (v : BankS) (l : List Up) : Prop where
  bank : y.bank = fset .closed s.bank (bkKey t c b) v
  sends : SendsUp s y t c l

section
variable {s x y : State} {t c b : Nat} {v : BankS} {l : List Up}

theorem BankDone.getBank (h : BankDone s y t c b v l) : getBank y t c b = v := by
  unfold Sys2Proof.Machine.getBank
  rw [h.bank, fget_fset_same]

theorem BankDone.otherBanks (h : BankDone s y t c b v l) : OtherBanks s y t c b := fun k hk => by
  rw [h.bank, fget_fset_other _ _ _ _ hk]

/-- A bank set and reported by a state whose banks are those of `s`. -/
theorem bankDone_report (h : UpKept s x t c) (hb : x.bank = s.bank) (v : BankS) (ev : Nat) :
    BankDone s (report t c b ev (setBank t c b v x)) t c b v [.done b ev] ∧
    (getLayer (report t c b ev (setBank t c b v x)) t c).base = (getLayer s t c).base := by
  obtain ⟨hup, hbase⟩ := (h.of_layer (y := setBank t c b v x) rfl).sendUp (.done b ev)
  refine ⟨⟨?_, hup⟩, hbase⟩
  rw [← hb]
  rfl

/-- A bank held after other transfers were sent up. -/
theorem bankDone_hold (h : SendsUp s x t c l) (hb : x.bank = s.bank) (ev : Nat) :
    BankDone s (holdBank t c b ev x) t c b (.busy ev) (l ++ [.done b ev]) ∧
    holdBank t c b ev x = { x with bank := (holdBank t c b ev x).bank, layer := (holdBank t c b ev x).layer } ∧
    (getLayer (holdBank t c b ev x) t c).base = (getLayer x t c).base := by
  refine ⟨⟨?_, (h.of_layer (y := setBank t c b (.busy ev) x) rfl).report b ev⟩, rfl, ?_⟩
  · rw [← hb]
    rfl
  · exact (oneLayer_mod (t := t) (c := c) (f := fun l => { l with up := l.up ++ [.done b ev] })
      (setBank t c b (.busy ev) x) (fun _ => rfl)).base

theorem BankDone.countEv (h : BankDone s x t c b v l) (e q n : Nat) :
    BankDone s (countEv t e q (n + 1) x) t c b v l := by
  rw [countEv_some]
  exact ⟨h.bank, h.sends.of_layer rfl⟩

end

/-! ### Row words and words of banks -/

section
variable {t : TileN} {c : ChanN} {w : BitVec 20} {s : State}

theorem answers_act {b r : Nat} (ha : (getLayer s t.val c.val).awaits = none) (h : rowWordOk w.toNat b r)
    (hb : getBank s t.val c.val b = .closed) :
    Answers (.act t c w) s (fun s' => getBank s' t.val c.val b = .opening r ∧
      SendsUp s s' t.val c.val [.done b 1] ∧ OtherBanks s s' t.val c.val b ∧ SameMemory s s' ∧
      s' = { s with bank := s'.bank, layer := s'.layer, count := s'.count, out := {} }) := by
  obtain ⟨-, -, rfl, hrow⟩ := id h
  obtain ⟨y, hy⟩ : ∃ y, y = report t.val c.val (wRowBank w.toNat) 1
      (setBank t.val c.val (wRowBank w.toNat) (.opening r) (capture t.val c.val false (fresh s))) := ⟨_, rfl⟩
  have hact : layerAct t.val c.val w.toNat (fresh s) = countEv t.val 3 c.val 1 y := by
    unfold layerAct
    rw [layerWord_ok, hrow, hy]
    · rfl
    · rw [getBank_capture, hb, hrow]
      rfl
  have htake := (layerTake_row (s := fresh s) (beats := []) h ha).trans hact
  obtain ⟨hdone, hbase⟩ := bankDone_report (b := wRowBank w.toNat) (upKept_capture t.val c.val false s) rfl (.opening r) 1
  rw [← hy] at hdone hbase
  have hfields : y = { s with bank := y.bank, layer := y.layer, out := {} } := by rw [hy]; rfl
  have hmem : SameMemory s y := sameMemory_of_base (by rw [hfields]) (by rw [hfields]) (by rw [hfields]) hdone.sends hbase
  have hcount := countEv_some t.val 3 c.val 0 y
  have hcounted := hdone.countEv 3 c.val 0
  refine answers_of_kept (exec_act t c w s) htake (by rw [hcount, hfields]) (by rw [hcount, hfields])
    ⟨hcounted.getBank, hcounted.sends, hcounted.otherBanks, ?_, by rw [hcount, hfields]⟩
  rw [hcount]
  exact hmem

theorem exec_act_violation {b r : Nat} (ha : (getLayer s t.val c.val).awaits = none) (h : rowWordOk w.toNat b r)
    (hb : getBank s t.val c.val b ≠ .closed) :
    exec (.act t c w) s = .next (report t.val c.val b 9 (capture t.val c.val false { s with out := {} })) := by
  obtain ⟨-, hm, rfl, hrow⟩ := id h
  have hact : layerAct t.val c.val w.toNat (fresh s) =
      report t.val c.val (wRowBank w.toNat) 9 (capture t.val c.val false (fresh s)) := by
    have hopen : isClosed (getBank s t.val c.val (wRowBank w.toNat)) = false := by simpa [isClosed] using hb
    unfold layerAct
    rw [layerWord_bad, addressed, if_pos hm]
    rw [getBank_capture, hopen]
    rfl
  exact exec_of_kept (exec_act t c w s) ((layerTake_row (s := fresh s) h ha).trans hact) rfl rfl

theorem answers_pre (ha : (getLayer s t.val c.val).awaits = none) (h : opWordOk w.toNat 3) (hz : bits w.toNat 1 10 = 0)
    (hopen : ∃ r, getBank s t.val c.val (wBank w.toNat) = .opened r) :
    Answers (.pre t c w) s (fun s' => getBank s' t.val c.val (wBank w.toNat) = .busy 2 ∧
      SendsUp s s' t.val c.val [.done (wBank w.toNat) 2] ∧ OtherBanks s s' t.val c.val (wBank w.toNat) ∧
      SameMemory s s' ∧ s' = { s with bank := s'.bank, layer := s'.layer, out := {} }) := by
  obtain ⟨r, hr⟩ := hopen
  obtain ⟨y, hy⟩ : ∃ y, y = holdBank t.val c.val (wBank w.toNat) 2 (capture t.val c.val false (fresh s)) := ⟨_, rfl⟩
  have hop : layerOp 3 t.val c.val w.toNat none [] (fresh s) = y := by
    show layerPre _ _ _ _ = _
    unfold layerPre
    rw [layerWord_ok, hy]
    rw [getBank_capture, hr, hz]
    rfl
  have htake := (layerTake_op (s := fresh s) (beats := []) h (by decide) (by decide) (by decide) ha).trans hop
  obtain ⟨hdone, hbase⟩ := bankDone_report (b := wBank w.toNat) (upKept_capture t.val c.val false s) rfl (.busy 2) 2
  rw [show report _ _ _ _ _ = y from hy.symm] at hdone hbase
  have hfields : y = { s with bank := y.bank, layer := y.layer, out := {} } := by rw [hy]; rfl
  exact answers_of_kept (exec_pre t c w s) htake (by rw [hfields]) (by rw [hfields]) ⟨hdone.getBank, hdone.sends,
    hdone.otherBanks, sameMemory_of_base (by rw [hfields]) (by rw [hfields]) (by rw [hfields]) hdone.sends hbase, hfields⟩

/-- Every bank of a channel busy with one word, whose report goes up. -/
theorem allBusy {x : State} (ev : Nat) (hx : UpKept s x t.val c.val) (hf : x = { s with layer := x.layer, out := {} }) :
    ∃ y, y = report t.val c.val 0 ev (setBanks t.val c.val (.busy ev) x) ∧
      (∀ b < 16, getBank y t.val c.val b = .busy ev) ∧ SendsUp s y t.val c.val [.done 0 ev] ∧ SameMemory s y ∧
      y = { s with bank := y.bank, layer := y.layer, out := {} } := by
  obtain ⟨z, hz⟩ : ∃ z, z = setBanks t.val c.val (.busy ev) x := ⟨_, rfl⟩
  obtain ⟨hset, hbanks⟩ := setBanks_fields t.val c.val (.busy ev) x
  rw [← hz] at hset hbanks
  have hfields : z = { s with bank := z.bank, layer := z.layer, out := {} } := by rw [hset, hf]
  obtain ⟨hup, hbase⟩ := (hx.of_layer (y := z) (by rw [hset])).sendUp (.done 0 ev)
  obtain ⟨y, hy⟩ : ∃ y, y = report t.val c.val 0 ev z := ⟨_, rfl⟩
  rw [show sendUp _ _ _ _ = y from hy.symm] at hup hbase
  have hyz : y = { z with layer := y.layer } := by rw [hy]; rfl
  have hyfields : y = { s with bank := y.bank, layer := y.layer, out := {} } := by rw [hyz, hfields]
  refine ⟨y, by rw [hy, hz], fun b hb => ?_, hup,
    sameMemory_of_base (by rw [hyfields]) (by rw [hyfields]) (by rw [hyfields]) hup hbase, hyfields⟩
  rw [hyz]
  exact hbanks b hb

theorem answers_prea (ha : (getLayer s t.val c.val).awaits = none) (h : opWordOk w.toNat 4) (hz : bits w.toNat 1 14 = 0) :
    Answers (.prea t c w) s (fun s' => (∀ b < 16, getBank s' t.val c.val b = .busy 0xA) ∧
      SendsUp s s' t.val c.val [.done 0 0xA] ∧
      SameMemory s s' ∧ s' = { s with bank := s'.bank, layer := s'.layer, out := {} }) := by
  obtain ⟨y, hy, hbanks, hup, hmem, hfields⟩ := allBusy 0xA (upKept_capture t.val c.val false s) (capture_fields ..)
  have hop : layerOp 4 t.val c.val w.toNat none [] (fresh s) = y := by
    show layerPrea _ _ _ _ = _
    unfold layerPrea
    rw [layerWord_ok (by rw [hz]; rfl), hy]
  have htake := (layerTake_op (s := fresh s) (beats := []) h (by decide) (by decide) (by decide) ha).trans hop
  exact answers_of_kept (exec_prea t c w s) htake (by rw [hfields]) (by rw [hfields]) ⟨hbanks, hup, hmem, hfields⟩

theorem answers_ref (ha : (getLayer s t.val c.val).awaits = none) (h : opWordOk w.toNat 5) (hz : bits w.toNat 1 14 = 0)
    (hclosed : ∀ b < 16, getBank s t.val c.val b = .closed) :
    Answers (.ref t c w) s (fun s' => (∀ b < 16, getBank s' t.val c.val b = .busy 4) ∧
      (getLayer s' t.val c.val).refreshCounter = ((getLayer s t.val c.val).refreshCounter + 1) % 8208 ∧
      SendsUp s s' t.val c.val [.done 0 4] ∧ SameMemory s s' ∧
      s' = { s with bank := s'.bank, layer := s'.layer, count := s'.count, out := {} }) := by
  obtain ⟨x, hx⟩ : ∃ x, x = modLayer t.val c.val (fun l => { l with refreshCounter := (l.refreshCounter + 1) % 8208 })
    (capture t.val c.val false (fresh s)) := ⟨_, rfl⟩
  have hkept : UpKept s x t.val c.val := by
    rw [hx]
    exact (upKept_capture t.val c.val false s).modLayer (fun _ => ⟨rfl, rfl⟩)
  obtain ⟨y, hy, hbanks, hup, hmem, hfields⟩ := allBusy 4 hkept (by rw [hx]; rfl)
  have hcounter : (getLayer y t.val c.val).refreshCounter = ((getLayer s t.val c.val).refreshCounter + 1) % 8208 := by
    obtain ⟨down, last, failed, hcap⟩ := getLayer_capture t.val c.val false (fresh s)
    have hlayer : getLayer (setBanks t.val c.val (.busy 4) x) t.val c.val = getLayer x t.val c.val :=
      getLayer_of_layer (by rw [(setBanks_fields t.val c.val (.busy 4) x).1]) _ _
    rw [hy, report, sendUp, getLayer_modLayer, hlayer, hx, getLayer_modLayer, hcap]
    rfl
  have hop : layerOp 5 t.val c.val w.toNat none [] (fresh s) = countEv t.val 3 c.val 16 y := by
    have hall := allBanks_closed (s := capture t.val c.val false (fresh s)) hclosed
    show layerRef _ _ _ _ = _
    unfold layerRef
    rw [layerWord_ok (by rw [hall, hz]; rfl), hy, hx]
  have htake := (layerTake_op (s := fresh s) (beats := []) h (by decide) (by decide) (by decide) ha).trans hop
  have hcount := countEv_some t.val 3 c.val 15 y
  refine answers_of_kept (exec_ref t c w s) htake (by rw [hcount, hfields]) (by rw [hcount, hfields]) ?_
  rw [hcount]
  exact ⟨hbanks, hcounter, hup.of_layer rfl, hmem, by rw [hfields]⟩

/-! ### RD -/

theorem answers_rd {r : Nat} (ha : (getLayer s t.val c.val).awaits = none) (h : opWordOk w.toNat 1)
    (hcol : colOk t.val c.val w.toNat s = true) (hopen : getBank s t.val c.val (wBank w.toNat) = .opened r) :
    Answers (.rd t c w) s (fun s' => SameMemory s s' ∧
      SendsUp s s' t.val c.val (.beats (rawWords s t.val c.val (wBank w.toNat) r (wSector w.toNat * 4)
        (if wLine w.toNat then 8 else 4)) :: (if wAuto w.toNat then [.done (wBank w.toNat) 2] else [])) ∧
      getBank s' t.val c.val (wBank w.toNat) = (if wAuto w.toNat then .busy 2 else .opened r) ∧
      OtherBanks s s' t.val c.val (wBank w.toNat) ∧
      s' = { s with bank := s'.bank, layer := s'.layer, out := {} }) := by
  obtain ⟨z, hz⟩ : ∃ z, z = capture t.val c.val false (fresh s) := ⟨_, rfl⟩
  have hzbank : z.bank = s.bank := by rw [hz]; rfl
  have hwords : rdWords z t.val c.val w.toNat r = rawWords s t.val c.val (wBank w.toNat) r (wSector w.toNat * 4)
      (if wLine w.toNat then 8 else 4) := by
    rw [hz]
    exact rawWords_congr (sameMemory_capture t.val c.val false s) _ _ _ _ _ _
  obtain ⟨x, hx⟩ : ∃ x, x = modLayer t.val c.val (fun l => { l with reads := l.reads ++ [readTag z t.val c.val] })
      (sendUp t.val c.val (.beats (rdWords z t.val c.val w.toNat r)) z) := ⟨_, rfl⟩
  have hop : layerOp 1 t.val c.val w.toNat none [] (fresh s) =
      if wAuto w.toNat then holdBank t.val c.val (wBank w.toNat) 2 x else x := by
    have hrow : (openRow (getBank z t.val c.val (wBank w.toNat))).getD 0 = r := by
      rw [hz, getBank_capture, hopen]
      rfl
    show layerRd _ _ _ _ = _
    unfold layerRd
    rw [layerWord_ok (by exact hcol), ← hz]
    dsimp only
    rw [hrow, ← hx]
  have htake := (layerTake_op (s := fresh s) (beats := []) h (by decide) (by decide) (by decide) ha).trans hop
  have hzkept : UpKept s z t.val c.val := by rw [hz]; exact upKept_capture t.val c.val false s
  obtain ⟨hsent, hsentBase⟩ := hzkept.sendUp (.beats (rdWords z t.val c.val w.toNat r))
  have hread := oneLayer_mod (t := t.val) (c := c.val) (f := fun l => { l with reads := l.reads ++ [readTag z t.val c.val] })
    (sendUp t.val c.val (.beats (rdWords z t.val c.val w.toNat r)) z) (fun _ => rfl)
  rw [← hx] at hread
  have hxup : SendsUp s x t.val c.val [.beats (rdWords z t.val c.val w.toNat r)] := by
    refine ⟨?_, fun k hk => (hread.other k hk).trans (hsent.2 k hk)⟩
    rw [hx, getLayer_modLayer]
    exact hsent.1
  have hxbase : (getLayer x t.val c.val).base = (getLayer s t.val c.val).base := hread.base.trans hsentBase
  have hxfields : x = { s with layer := x.layer, out := {} } := by rw [hx, hz]; rfl
  have hxbank : x.bank = s.bank := by rw [hxfields]
  rw [hwords] at hxup
  split at htake
  · next hauto =>
    obtain ⟨hdone, hheld, hbase⟩ := bankDone_hold (b := wBank w.toNat) hxup hxbank 2
    obtain ⟨y, hy⟩ : ∃ y, y = holdBank t.val c.val (wBank w.toNat) 2 x := ⟨_, rfl⟩
    rw [← hy] at hdone hheld hbase htake
    have hfields : y = { s with bank := y.bank, layer := y.layer, out := {} } := by rw [hheld, hxfields]
    simp only [hauto, if_true]
    exact answers_of_kept (exec_rd t c w s) htake (by rw [hfields]) (by rw [hfields])
      ⟨sameMemory_of_base (by rw [hfields]) (by rw [hfields]) (by rw [hfields]) hdone.sends (hbase.trans hxbase), hdone.sends,
        hdone.getBank, hdone.otherBanks, hfields⟩
  · next hauto =>
    rw [Bool.not_eq_true] at hauto
    simp only [hauto, Bool.false_eq_true, if_false]
    refine answers_of_kept (exec_rd t c w s) htake (by rw [hxfields]) (by rw [hxfields])
      ⟨sameMemory_of_base (by rw [hxfields]) (by rw [hxfields]) (by rw [hxfields]) hxup hxbase, hxup, ?_,
        fun k _ => by rw [hxbank], by rw [hxfields]⟩
    rw [← hopen]
    unfold getBank
    rw [hxbank]

/-! ### RCOPY and RFILL -/

/-- The rest of a row command that stores a whole row and holds its bank. -/
theorem answers_rowStored {cmd : Instr} {f : State → State} {b dst ev : Nat} {l : List Nat} (hcmd : exec cmd s = run f s)
    (hf : f (fresh s) = countEv t.val 3 c.val 1 (holdBank t.val c.val b ev
      (setRawWords t.val c.val b dst 0 l (capture t.val c.val false (fresh s))))) (hl : l.length = 256) :
    Answers cmd s (fun s' =>
      (∀ i < 256, rawWord s' t.val c.val b dst i = l.getD i 0) ∧
      (∀ t' c' b' r' i', (∀ i < 256, dramKey t' c' b' r' i' ≠ dramKey t.val c.val b dst i) →
        rawWord s' t' c' b' r' i' = rawWord s t' c' b' r' i') ∧
      getBank s' t.val c.val b = .busy ev ∧ OtherBanks s s' t.val c.val b ∧ SendsUp s s' t.val c.val [.done b ev] ∧
      s' = { s with dram := s'.dram, bank := s'.bank, layer := s'.layer, count := s'.count, out := {} }) := by
  obtain ⟨z, hz⟩ : ∃ z, z = capture t.val c.val false (fresh s) := ⟨_, rfl⟩
  rw [← hz] at hf
  have hzmem : SameMemory s z := by rw [hz]; exact sameMemory_capture t.val c.val false s
  have hzkept : UpKept s z t.val c.val := by rw [hz]; exact upKept_capture t.val c.val false s
  have hzfields : z = { s with layer := z.layer, out := {} } := by rw [hz]; rfl
  obtain ⟨x, hx⟩ : ∃ x, x = setRawWords t.val c.val b dst 0 l z := ⟨_, rfl⟩
  rw [← hx] at hf
  have hxz : x = { z with dram := x.dram } := by rw [hx]; exact setRawWords_fields _ _ _ _ _ _ _
  have hxkept : UpKept s x t.val c.val := hzkept.of_layer (by rw [hxz])
  have hxfields : x = { s with dram := x.dram, layer := x.layer, out := {} } := by rw [hxz, hzfields]
  have hxbank : x.bank = s.bank := by rw [hxfields]
  have hxup : SendsUp s x t.val c.val [] := ⟨by rw [hxkept.up, List.append_nil], hxkept.other⟩
  obtain ⟨hdone, hheld, hbase⟩ := bankDone_hold (b := b) hxup hxbank ev
  have hcounted := hdone.countEv 3 c.val 0
  have hcount := countEv_some t.val 3 c.val 0 (holdBank t.val c.val b ev x)
  obtain ⟨y, hy⟩ : ∃ y, y = holdBank t.val c.val b ev x := ⟨_, rfl⟩
  rw [← hy] at hdone hheld hbase hcounted hcount hf
  have hmem : SameMemory x y := sameMemory_layers (by rw [hheld]) (by rw [hheld]) (by rw [hheld])
    (fun k hk => (hdone.sends.2 k hk).trans (hxkept.other k hk).symm) hbase
  have hwords : ∀ t' c' b' r' i', rawWord (countEv t.val 3 c.val 1 y) t' c' b' r' i' = rawWord x t' c' b' r' i' := by
    rw [hcount]
    exact hmem.1
  refine answers_of_kept hcmd hf (by rw [hcount, hheld, hxfields]) (by rw [hcount, hheld, hxfields])
    ⟨fun i hi => ?_, fun t' c' b' r' i' hout => ?_, hcounted.getBank, hcounted.otherBanks, hcounted.sends,
      by rw [hcount, hheld, hxfields]⟩
  · have hback := rawWord_setRawWords t.val c.val b dst 0 l z i (by omega)
    rw [hwords, hx]
    rwa [Nat.zero_add] at hback
  · rw [hwords, hx, rawWord_setRawWords_other _ _ fun i hi => by rw [Nat.zero_add]; exact hout i (by omega)]
    exact hzmem.1 _ _ _ _ _

theorem answers_rcopy {arg : BitVec 20} {r dst : Nat} (ha : (getLayer s t.val c.val).awaits = none)
    (h : opWordOk w.toNat 6) (hz : bits w.toNat 1 10 = 0) (harg : rowWordOk arg.toNat (wBank w.toNat) dst)
    (hopen : getBank s t.val c.val (wBank w.toNat) = .opened r) (hne : r ≠ dst) :
    (subarray r = subarray dst →
      Answers (.rcopy t c w arg) s (fun s' =>
        (∀ i < 256, rawWord s' t.val c.val (wBank w.toNat) dst i = rawWord s t.val c.val (wBank w.toNat) r i) ∧
        (∀ t' c' b' r' i', (∀ i < 256, dramKey t' c' b' r' i' ≠ dramKey t.val c.val (wBank w.toNat) dst i) →
          rawWord s' t' c' b' r' i' = rawWord s t' c' b' r' i') ∧
        getBank s' t.val c.val (wBank w.toNat) = .busy 5 ∧ OtherBanks s s' t.val c.val (wBank w.toNat) ∧
        SendsUp s s' t.val c.val [.done (wBank w.toNat) 5] ∧
        s' = { s with dram := s'.dram, bank := s'.bank, layer := s'.layer, count := s'.count, out := {} })) ∧
    (subarray r ≠ subarray dst → exec (.rcopy t c w arg) s =
      .next (report t.val c.val (wBank w.toNat) 9 (capture t.val c.val false { s with out := {} }))) := by
  obtain ⟨hp, hm, hbank, hrow⟩ := harg
  have htake := layerTake_withArg (s := fresh s) (beats := []) h (by decide) hp ha
  have hopened : getBank (capture t.val c.val false (fresh s)) t.val c.val (wBank w.toNat) = .opened r := hopen
  have hok : ∀ a : Bool, (wMarker arg.toNat && (wRow arg.toNat).isSome && decide (bits w.toNat 1 10 = 0) &&
      decide (wRowBank arg.toNat = wBank w.toNat) && a) = a := fun a => by simp [hm, hrow, hz, hbank]
  refine ⟨fun hsub => ?_, fun hsub => ?_⟩
  · have hop : layerOp 6 t.val c.val w.toNat (some arg.toNat) [] (fresh s) = countEv t.val 3 c.val 1
        (holdBank t.val c.val (wBank w.toNat) 5 (setRawWords t.val c.val (wBank w.toNat) dst 0
          (rawWords s t.val c.val (wBank w.toNat) r 0 256) (capture t.val c.val false (fresh s)))) := by
      rw [← rawWords_congr (sameMemory_capture t.val c.val false s)]
      show layerRcopy _ _ _ _ _ = _
      unfold layerRcopy layerPair
      rw [layerWord_ok]
      · dsimp only
        rw [hopened, show (some arg.toNat).getD 0 = arg.toNat from rfl, hrow]
        rfl
      · dsimp only
        rw [show (some arg.toNat).getD 0 = arg.toNat from rfl, hok, hopened, hrow]
        simp [openRow, hne, hsub]
    obtain ⟨s', hexec, hstored, hrest⟩ := answers_rowStored (exec_rcopy t c w arg s) (htake.trans hop) (by simp [rawWords])
    exact ⟨s', hexec, fun i hi => (hstored i hi).trans (rawWords_getD s _ _ _ _ hi), hrest⟩
  · have hop : layerOp 6 t.val c.val w.toNat (some arg.toNat) [] (fresh s) =
        report t.val c.val (wBank w.toNat) 9 (capture t.val c.val false (fresh s)) := by
      show layerRcopy _ _ _ _ _ = _
      unfold layerRcopy layerPair
      rw [layerWord_bad, addressed_of_op h]
      dsimp only
      rw [show (some arg.toNat).getD 0 = arg.toNat from rfl, hok, hopened, hrow]
      simp [openRow, hsub]
    exact exec_of_kept (exec_rcopy t c w arg s) (htake.trans hop) rfl rfl

theorem answers_rfill {arg : BitVec 20} {dst : Nat} (ha : (getLayer s t.val c.val).awaits = none)
    (h : opWordOk w.toNat 7) (hz : bits w.toNat 1 10 = 0) (harg : rowWordOk arg.toNat (wBank w.toNat) dst)
    (hclosed : getBank s t.val c.val (wBank w.toNat) = .closed) (hs : slp2 s = false) :
    Answers (.rfill t c w arg) s (fun s' =>
      (∀ i < 256, rawWord s' t.val c.val (wBank w.toNat) dst i =
        (getLayer s t.val c.val).fillData + (getLayer s t.val c.val).fillCheck * 2 ^ 64) ∧
      (∀ t' c' b' r' i', (∀ i < 256, dramKey t' c' b' r' i' ≠ dramKey t.val c.val (wBank w.toNat) dst i) →
        rawWord s' t' c' b' r' i' = rawWord s t' c' b' r' i') ∧
      getBank s' t.val c.val (wBank w.toNat) = .busy 6 ∧ OtherBanks s s' t.val c.val (wBank w.toNat) ∧
      SendsUp s s' t.val c.val [.done (wBank w.toNat) 6] ∧
      s' = { s with dram := s'.dram, bank := s'.bank, layer := s'.layer, count := s'.count, out := {} }) := by
  obtain ⟨hp, hm, hbank, hrow⟩ := harg
  have htake := layerTake_withArg (s := fresh s) (beats := []) h (by decide) hp ha
  obtain ⟨down, last, failed, hcap⟩ := getLayer_capture t.val c.val false (fresh s)
  have hop : layerOp 7 t.val c.val w.toNat (some arg.toNat) [] (fresh s) = countEv t.val 3 c.val 1
      (holdBank t.val c.val (wBank w.toNat) 6 (setRawWords t.val c.val (wBank w.toNat) dst 0
        (List.replicate 256 ((getLayer s t.val c.val).fillData + (getLayer s t.val c.val).fillCheck * 2 ^ 64))
        (capture t.val c.val false (fresh s)))) := by
    show layerRfill _ _ _ _ _ = _
    unfold layerRfill layerPair
    rw [layerWord_ok]
    · dsimp only
      rw [hcap, show (some arg.toNat).getD 0 = arg.toNat from rfl, hrow]
      rfl
    · have hslp : slp2 (capture t.val c.val false (fresh s)) = false := hs
      simp [getBank_capture, hclosed, hslp, hm, hrow, hz, hbank, isClosed]
  obtain ⟨s', hexec, hstored, hrest⟩ := answers_rowStored (exec_rfill t c w arg s) (htake.trans hop) List.length_replicate
  exact ⟨s', hexec, fun i hi => (hstored i hi).trans (by rw [List.getD_replicate]; exact hi), hrest⟩

end

/-! ### WR -/

theorem sameWords_of {s s' : State} (h1 : s'.dram = s.dram) (h2 : s'.layer = s.layer) (h3 : s'.slate = s.slate)
    (h4 : s'.inkwell = s.inkwell) : SameWords s s' := ⟨h1, fun k => by rw [h2], h3, h4⟩

theorem SameWords.refl (s : State) : SameWords s s := sameWords_of rfl rfl rfl rfl

theorem SameWords.trans {a b c : State} (h : SameWords a b) (h' : SameWords b c) : SameWords a c :=
  ⟨h'.dram.trans h.dram, fun k => (h'.base k).trans (h.base k), h'.slate.trans h.slate, h'.inkwell.trans h.inkwell⟩

theorem SameMemory.refl (s : State) : SameMemory s s := (SameWords.refl s).sameMemory

theorem Enters.sameWords {s s' : State} (h : Enters s s') : SameWords s s' := by
  refine sameWords_of ?_ ?_ ?_ ?_ <;> rw [h.fields]

theorem Side.sameWords {s s' : State} (h : Side s s') : SameWords s s' := (Side.calm (K := fun _ => true) h).words

theorem sameWords_mends {s s' : State} (h : Mends s s') : SameWords s s' := by
  refine sameWords_of ?_ ?_ ?_ ?_ <;> rw [h]

theorem Enters.sameMemory {s s' : State} (h : Enters s s') : SameMemory s s' := h.sameWords.sameMemory

theorem sameWords_completeAcc (t c : Nat) (a : Acc) (st data bad : Nat) (s : State) :
    SameWords s (completeAcc t c a st data bad s) := (enters_completeAcc t c a st data bad s).sameWords

theorem sameMemory_completeAcc (t c : Nat) (a : Acc) (st data bad : Nat) (s : State) :
    SameMemory s (completeAcc t c a st data bad s) := (sameWords_completeAcc t c a st data bad s).sameMemory

theorem mends_retirePending (t c b : Nat) (s : State) : Mends s (retirePending t c b s) :=
  (mends_modProt t _ s).trans (mends_foldl _ (fun x (_ : Nat × Nat × Nat × Nat) => mends_retireRowAt t _ _ _ _ x) _ _)

theorem sameWords_finishBounce (t c : Nat) (a : Acc) (s : State) : SameWords s (finishBounce t c a s) := by
  have hbump : SameWords s (modBounce t c (fun _ => {}) (bump t (Obj.bounceCopies + c) 1 s)) := sameWords_of rfl rfl rfl rfl
  have hdone := hbump.trans (sameWords_completeAcc t c a stOk 0 0 _)
  unfold finishBounce
  dsimp only
  split
  · exact hdone.trans ((sameWords_of rfl rfl rfl rfl).trans (sameWords_mends (mends_retirePending _ _ _ _)))
  · exact hdone

/-- The completion of a write touches queues and accounts, no memory (R53). -/
theorem sameWords_writeTaken (t c : Nat) (a : Acc) (s : State) : SameWords s (writeTaken t c a s) := by
  have hmore : SameWords s (modAcc t c a.id (fun x => { x with done := x.done + 1 }) s) := sameWords_of rfl rfl rfl rfl
  have hbump : ∀ k x, SameWords x (bump t k 1 x) := fun k x => sameWords_of rfl rfl rfl rfl
  unfold writeTaken
  dsimp only
  split
  · split
    · exact hmore
    · exact hmore.trans (sameWords_finishBounce _ _ _ _)
  · split
    · exact hmore
    · exact (hmore.trans (hbump _ _)).trans (sameWords_completeAcc _ _ _ _ _ _ _)
  · exact (hbump _ _).trans (sameWords_completeAcc _ _ _ _ _ _ _)
  · exact ((hbump _ _).trans (side_countEv _ _ _ _ _).sameWords).trans (sameWords_completeAcc _ _ _ _ _ _ _)
  · exact sameWords_completeAcc _ _ _ _ _ _ _

theorem sameWords_writeDone (t c : Nat) (line : Bool) (s : State) : SameWords s (writeDone t c line s) := by
  unfold writeDone
  split
  · exact .refl s
  · split
    · exact .refl s
    · exact (side_countEv _ _ _ _ _).sameWords.trans (sameWords_writeTaken _ _ _ _)

theorem sameMemory_writeDone (t c : Nat) (line : Bool) (s : State) : SameMemory s (writeDone t c line s) :=
  (sameWords_writeDone t c line s).sameMemory

theorem sameMemory_report (t c b ev : Nat) (s : State) : SameMemory s (report t c b ev s) :=
  (calm_modLayer (K := fun _ => false) t c (fun l => { l with up := l.up ++ [.done b ev] }) (fun _ => rfl) s).words.sameMemory

theorem sameMemory_holdBank (t c b ev : Nat) (s : State) : SameMemory s (holdBank t c b ev s) :=
  (sameMemory_of (s' := setBank t c b (.busy ev) s) rfl rfl rfl rfl).trans (sameMemory_report t c b ev _)

theorem length_beatWords (l : List Nat) : ((l.map beatWords).flatten).length = 2 * l.length := by
  induction l with
  | nil => rfl
  | cons v l ih =>
    simp only [List.map_cons, List.flatten_cons, List.length_append, ih, List.length_cons, beatWords, List.length_nil]
    omega

/-- A beat of a write holds two stored words (R38). -/
theorem getD_beatWords (l : List Nat) {i : Nat} (h : i < l.length) :
    ((l.map beatWords).flatten).getD (2 * i) 0 = l.getD i 0 % 2 ^ 64 + bits (l.getD i 0) 128 8 * 2 ^ 64 ∧
    ((l.map beatWords).flatten).getD (2 * i + 1) 0 = bits (l.getD i 0) 64 64 + bits (l.getD i 0) 136 8 * 2 ^ 64 := by
  induction l generalizing i with
  | nil => simp at h
  | cons v l ih =>
    cases i with
    | zero =>
      simp only [List.map_cons, List.flatten_cons, beatWords, List.cons_append, List.getD_cons_zero, Nat.mul_zero,
        Nat.zero_add, List.getD_cons_succ, true_and]
      rw [bits, bits]
    | succ i =>
      rw [show 2 * (i + 1) = 2 * i + 1 + 1 by omega]
      simp only [List.map_cons, List.flatten_cons, beatWords, List.cons_append, List.nil_append, List.getD_cons_succ]
      exact ih (by simpa using h)

section
variable {t : TileN} {c : ChanN} {w : BitVec 20} {s : State}

theorem answers_wr {r : Nat} {beats : List (BitVec 144)} (ha : (getLayer s t.val c.val).awaits = none)
    (h : opWordOk w.toNat 2) (hcol : colOk t.val c.val w.toNat s = true)
    (hopen : getBank s t.val c.val (wBank w.toNat) = .opened r) (hlen : beats.length = (if wLine w.toNat then 4 else 2)) :
    Answers (.wr t c w beats) s (fun s' =>
      (∀ i < beats.length, rawWord s' t.val c.val (wBank w.toNat) r (wSector w.toNat * 4 + 2 * i) =
          (beats.getD i 0).toNat % 2 ^ 64 + bits (beats.getD i 0).toNat 128 8 * 2 ^ 64 ∧
        rawWord s' t.val c.val (wBank w.toNat) r (wSector w.toNat * 4 + 2 * i + 1) =
          bits (beats.getD i 0).toNat 64 64 + bits (beats.getD i 0).toNat 136 8 * 2 ^ 64) ∧
      (∀ t' c' b' r' i', (∀ i < 2 * beats.length, dramKey t' c' b' r' i' ≠
          dramKey t.val c.val (wBank w.toNat) r (wSector w.toNat * 4 + i)) →
        rawWord s' t' c' b' r' i' = rawWord s t' c' b' r' i')) := by
  obtain ⟨l, hl⟩ : ∃ l, l = ((beats.map BitVec.toNat).map beatWords).flatten := ⟨_, rfl⟩
  have hlenl : l.length = 2 * beats.length := by rw [hl, length_beatWords, List.length_map]
  obtain ⟨x, hx⟩ : ∃ x, x = setRawWords t.val c.val (wBank w.toNat) r (wSector w.toNat * 4) l
    (capture t.val c.val false (fresh s)) := ⟨_, rfl⟩
  have hrow : (openRow (getBank (capture t.val c.val false (fresh s)) t.val c.val (wBank w.toNat))).getD 0 = r := by
    rw [getBank_capture, hopen]
    rfl
  have hop : ∃ y, layerOp 2 t.val c.val w.toNat none (beats.map BitVec.toNat) (fresh s) = y ∧ SameMemory x y := by
    refine ⟨_, rfl, ?_⟩
    show SameMemory x (layerWr _ _ _ _ _)
    unfold layerWr
    rw [if_neg (by rw [List.length_map]; exact not_not.mpr hlen), layerWord_ok (by exact hcol)]
    dsimp only
    rw [hrow, ← hl, ← hx]
    have hdone := (sameMemory_writeDone t.val c.val (wLine w.toNat) x).trans
      (sameMemory_report t.val c.val (wBank w.toNat) 3 _)
    split
    · exact hdone.trans (sameMemory_holdBank _ _ _ _ _)
    · exact hdone
  obtain ⟨y, hy, hmem⟩ := hop
  have htake := (layerTake_op (s := fresh s) h (by decide) (by decide) (by decide) ha).trans hy
  refine answers_run (exec_wr t c w beats s) ?_
  rw [htake]
  have hread : ∀ t' c' b' r' i', rawWord (sameTime s y) t' c' b' r' i' = rawWord x t' c' b' r' i' := fun t' c' b' r' i' =>
    hmem.1 t' c' b' r' i'
  have hbeat : ∀ i, (beats.map BitVec.toNat).getD i 0 = (beats.getD i 0).toNat := fun i => by
    simp only [List.getD_eq_getElem?_getD, List.getElem?_map]
    cases beats[i]? <;> rfl
  refine ⟨fun i hi => ?_, fun t' c' b' r' i' hout => ?_⟩
  · obtain ⟨heven, hodd⟩ := getD_beatWords (beats.map BitVec.toNat) (i := i) (by simpa using hi)
    rw [hbeat, ← hl] at heven hodd
    rw [hread, hread, hx, rawWord_setRawWords _ _ _ _ _ _ _ _ (by omega), Nat.add_assoc,
      rawWord_setRawWords _ _ _ _ _ _ _ _ (by omega)]
    exact ⟨heven, hodd⟩
  · rw [hread, hx, rawWord_setRawWords_other _ _ fun i hi => hout i (by omega)]
    exact (sameMemory_capture t.val c.val false s).1 _ _ _ _ _

end

/-- Settles O12: each word as its operation on the captured state, whose layer keeps what it had to send (`UpKept`). -/
theorem rowCommandsAndData : Obligations.RowCommandsAndData := by
  unfold Obligations.RowCommandsAndData
  exact ⟨fun t c w s ha => ⟨fun b r h hb => answers_act ha h hb, fun b r h hb => exec_act_violation ha h hb,
      fun h hz hopen => answers_pre ha h hz hopen, fun h hz => answers_prea ha h hz,
      fun h hz hclosed => answers_ref ha h hz hclosed⟩,
    fun t c w r s ha => ⟨fun h hcol hopen => answers_rd ha h hcol hopen,
      fun beats h hcol hopen hlen => answers_wr ha h hcol hopen hlen,
      fun arg dst h hz harg hopen hne => answers_rcopy ha h hz harg hopen hne,
      fun arg dst h hz harg hclosed hs => answers_rfill ha h hz harg hclosed hs⟩⟩

end Sys2Proof.Machine

/-! ## Proofs: error injection, and the fill pattern -/

namespace Sys2Proof.Machine

open Sys2Proof

/-! ### ErrorInject -/

/-- The kind field is set, and no other field moves (Table 10.6). -/
theorem bits_withKind {v k : Nat} (hk : k < 16) : bits (withKind v k) 68 4 = k ∧ bits (withKind v k) 0 40 = bits v 0 40 ∧
    bits (withKind v k) 40 28 = bits v 40 28 ∧ bits (withKind v k) 72 8 = bits v 72 8 ∧
    bits (withKind v k) 80 8 = bits v 80 8 ∧ bits (withKind v k) 88 40 = bits v 88 40 := by
  unfold withKind bits fld
  omega

theorem injectReserved_withKind {v k : Nat} (hk : k < 16) : injectReserved (withKind v k) = injectReserved v := by
  obtain ⟨-, -, hlow, -, -, hhigh⟩ := bits_withKind (v := v) hk
  rw [injectReserved, injectReserved, hlow, hhigh]

/-- The word an injection of a kind leaves for an old one (Table 10.6). -/
def injected (kind b1 b2 w : Nat) : Nat :=
  if kind = 1 then flipBit w b1 else if kind = 2 then flipBit (flipBit w b1) b2 else poisonWord (wordData w)

theorem injected_one (b1 b2 w : Nat) : injected 1 b1 b2 w = flipBit w b1 := if_pos rfl
theorem injected_two (b1 b2 w : Nat) : injected 2 b1 b2 w = flipBit (flipBit w b1) b2 :=
  (if_neg (by decide)).trans (if_pos rfl)
theorem injected_three (b1 b2 w : Nat) : injected 3 b1 b2 w = poisonWord (wordData w) :=
  (if_neg (by decide)).trans (if_neg (by decide))

section
variable {t v kind : Nat} {s : State}

/-- A value out of its form is refused, whatever kind it names. -/
theorem injectAt_bad (hk : kind < 16) (h : injectReserved v = true ∨ 71 < bits v 72 8 ∨ 71 < bits v 80 8) :
    injectAt t (withKind v kind) s = (stBadFormat, s) := by
  obtain ⟨hkind, -, -, h1, h2, -⟩ := bits_withKind (v := v) hk
  unfold injectAt
  rw [injectReserved_withKind hk, h1, h2]
  refine if_pos ?_
  rcases h with h | h | h <;> simp [h]

/-- A value in its form, of a row that no migration holds, changes the one word it names. -/
theorem injectAt_ok (hk : kind = 1 ∨ kind = 2 ∨ kind = 3) (hr : injectReserved v = false) (h1 : bits v 72 8 ≤ 71)
    (h2 : bits v 80 8 ≤ 71) (hne : kind = 2 → bits v 72 8 ≠ bits v 80 8) (ha : bits v 0 40 % 8 = 0)
    (ht : addrTile (bits v 0 40) = t) (ho : addrOffset (bits v 0 40) < populated) {p : Place}
    (hp : p = translate (addrOffset (bits v 0 40))) (hfree : rowHeld s t p.chan p.bank p.row = false) :
    injectAt t (withKind v kind) s = (stOk, setRawWord t p.chan p.bank (physRow s t p.chan p.bank p.row) (p.byte / 8)
      (injected kind (bits v 72 8) (bits v 80 8)
        (rawWord s t p.chan p.bank (physRow s t p.chan p.bank p.row) (p.byte / 8))) s) := by
  have hk16 : kind < 16 := by omega
  obtain ⟨hkind, haddr, -, hb1, hb2, -⟩ := bits_withKind (v := v) hk16
  unfold injectAt
  rw [injectReserved_withKind hk16, hkind, haddr, hb1, hb2]
  dsimp only
  rw [if_neg, if_neg (by omega), ← hp, if_neg (by simp [hfree])]
  · rfl
  · rintro (h | h | h | h | h | h | ⟨h, h'⟩ | h)
    · rw [hr] at h
      cases h
    · omega
    · omega
    · omega
    · omega
    · exact h ha
    · exact hne h h'
    · exact h ht

end

/-- The status that an injection answers is the one it keeps. -/
theorem injectWrite_of {t v st : Nat} {s x : State} (h : injectAt t v s = (st, x)) :
    injectWrite t v s = answer st (setObj t Obj.errorInjectResult st x) := by
  have hpair : injectWrite t v s = answer (injectAt t v s).1
      (setObj t Obj.errorInjectResult (injectAt t v s).1 (injectAt t v s).2) := rfl
  rw [hpair, h]

/-- The commands of the three kinds of injection. -/
theorem exec_inject {t : TileN} {v : BitVec 128} {s : State} {cmd : Instr}
    (h : cmd ∈ ([.errorInjectFlipOne t v, .errorInjectFlipTwo t v, .errorInjectPoison t v] : List Instr)) :
    ∃ kind, kind < 16 ∧ exec cmd s = run (injectWrite t.val (withKind v.toNat kind)) s := by
  simp only [List.mem_cons, List.not_mem_nil, or_false] at h
  rcases h with rfl | rfl | rfl
  · exact ⟨1, by decide, exec_errorInjectFlipOne t v s⟩
  · exact ⟨2, by decide, exec_errorInjectFlipTwo t v s⟩
  · exact ⟨3, by decide, exec_errorInjectPoison t v s⟩

theorem answers_inject_bad {t : TileN} {v : BitVec 128} {s : State}
    (h : injectReserved v.toNat = true ∨ 71 < bits v.toNat 72 8 ∨ 71 < bits v.toNat 80 8) {cmd : Instr}
    (hcmd : cmd ∈ ([.errorInjectFlipOne t v, .errorInjectFlipTwo t v, .errorInjectPoison t v] : List Instr)) :
    Answers cmd s (fun s' => s'.out = { status := stBadFormat } ∧ getObj s' t.val Obj.errorInjectResult = stBadFormat ∧
      OtherObjects s s' [(t.val, Obj.errorInjectResult)] ∧ s' = { s with dict := s'.dict, out := s'.out }) := by
  obtain ⟨kind, hk, hexec⟩ := exec_inject (s := s) hcmd
  have hrun : injectWrite t.val (withKind v.toNat kind) (fresh s) =
      answer stBadFormat (setObj t.val Obj.errorInjectResult stBadFormat (fresh s)) := injectWrite_of (injectAt_bad hk h)
  exact answers_of_kept hexec hrun rfl rfl
    ⟨rfl, getObj_set (v := stBadFormat) (s := s) rfl (by decide), otherObjects_set (v := stBadFormat) (s := s) rfl (by decide), rfl⟩

theorem answers_inject {t : TileN} {v : BitVec 128} {s : State} {p : Place} {cmd : Instr} {kind : Nat}
    (hexec : exec cmd s = run (injectWrite t.val (withKind v.toNat kind)) s) (hk : kind = 1 ∨ kind = 2 ∨ kind = 3)
    (hr : injectReserved v.toNat = false) (h1 : bits v.toNat 72 8 ≤ 71) (h2 : bits v.toNat 80 8 ≤ 71)
    (hne : kind = 2 → bits v.toNat 72 8 ≠ bits v.toNat 80 8) (ha : bits v.toNat 0 40 % 8 = 0)
    (ht : addrTile (bits v.toNat 0 40) = t.val) (ho : addrOffset (bits v.toNat 0 40) < populated)
    (hp : p = translate (addrOffset (bits v.toNat 0 40))) (hfree : rowHeld s t.val p.chan p.bank p.row = false) :
    Answers cmd s (fun s' => s'.out = { status := stOk } ∧
      rawWord s' t.val p.chan p.bank (physRow s t.val p.chan p.bank p.row) (p.byte / 8) =
        injected kind (bits v.toNat 72 8) (bits v.toNat 80 8)
          (rawWord s t.val p.chan p.bank (physRow s t.val p.chan p.bank p.row) (p.byte / 8)) ∧
      (∀ t' c' b' r' i', dramKey t' c' b' r' i' ≠
          dramKey t.val p.chan p.bank (physRow s t.val p.chan p.bank p.row) (p.byte / 8) →
        rawWord s' t' c' b' r' i' = rawWord s t' c' b' r' i') ∧
      getObj s' t.val Obj.errorInjectResult = stOk ∧ OtherObjects s s' [(t.val, Obj.errorInjectResult)] ∧
      s' = { s with dram := s'.dram, dict := s'.dict, out := s'.out }) := by
  have hat := injectAt_ok (s := fresh s) hk hr h1 h2 hne ha ht ho hp hfree
  have hword : rawWord (fresh s) t.val p.chan p.bank (physRow s t.val p.chan p.bank p.row) (p.byte / 8) =
      rawWord s t.val p.chan p.bank (physRow s t.val p.chan p.bank p.row) (p.byte / 8) := rfl
  rw [show physRow (fresh s) = physRow s from rfl, hword] at hat
  generalize injected kind _ _ _ = new at hat ⊢
  obtain ⟨x, hx⟩ : ∃ x, x = setRawWord t.val p.chan p.bank (physRow s t.val p.chan p.bank p.row) (p.byte / 8) new
    (fresh s) := ⟨_, rfl⟩
  rw [← hx] at hat
  have hrun : injectWrite t.val (withKind v.toNat kind) (fresh s) =
      answer stOk (setObj t.val Obj.errorInjectResult stOk x) := injectWrite_of hat
  have hfields : x = { s with dram := x.dram, out := {} } := by rw [hx]; rfl
  have hdict : (answer stOk (setObj t.val Obj.errorInjectResult stOk x)).dict =
      (setObj t.val Obj.errorInjectResult stOk s).dict := by rw [hfields]; rfl
  have hread : ∀ t' c' b' r' i', rawWord (answer stOk (setObj t.val Obj.errorInjectResult stOk x)) t' c' b' r' i' =
      rawWord x t' c' b' r' i' := fun t' c' b' r' i' => rawWord_congr rfl rfl t' c' b' r' i'
  refine answers_of_kept hexec hrun (by rw [hfields]; rfl) (by rw [hfields]; rfl) ⟨by rw [hfields]; rfl, ?_,
    fun t' c' b' r' i' hother => ?_, getObj_set (s := s) hdict (by decide), otherObjects_set (s := s) hdict (by decide),
    by rw [hfields]; rfl⟩
  · rw [hread, hx, rawWord_setRawWord_same]
  · rw [hread, hx, rawWord_setRawWord_other _ _ hother]
    exact rawWord_congr rfl rfl _ _ _ _ _

/-! ### FillPattern -/

/-- The channels below `n` are to take the pattern at their next windows (R50). -/
theorem pendFills_fields (t n : Nat) (s : State) :
    let x := (List.range n).foldl (fun s c => modLayer t c (fun l => { l with fillPending := true }) s) s
    x = { s with layer := x.layer } ∧ (∀ k, (fget ({} : LayerS) x.layer k).base = (fget ({} : LayerS) s.layer k).base) ∧
      ∀ c < n, (getLayer x t c).fillPending = true := by
  induction n with
  | zero => exact ⟨rfl, fun _ => rfl, fun c hc => absurd hc (Nat.not_lt_zero c)⟩
  | succ n ih =>
    rw [List.range_succ, List.foldl_append]
    generalize (List.range n).foldl _ s = x at ih ⊢
    obtain ⟨hfields, hbase, hpend⟩ := ih
    have hone := oneLayer_mod (t := t) (c := n) (f := fun l => { l with fillPending := true }) x (fun _ => rfl)
    refine ⟨?_, fun k => (layers_base hone.other hone.base k).trans (hbase k), fun c hc => ?_⟩
    · show modLayer t n _ x = _
      rw [hfields]
      rfl
    · show (getLayer (modLayer t n _ x) t c).fillPending = true
      by_cases hcn : c = n
      · rw [hcn, getLayer_modLayer]
      · have hkey : chKey t c ≠ chKey t n := by unfold chKey; omega
        unfold getLayer at hpend ⊢
        rw [hone.other _ hkey]
        exact hpend c (by omega)

theorem answers_fillPattern (t : TileN) (v : BitVec 64) (s : State) :
    Answers (.fillPatternWrite t v) s (fun s' => s'.out = { status := stOk } ∧
      getObj s' t.val Obj.fillPattern = v.toNat ∧ (∀ c < 48, (getLayer s' t.val c).fillPending = true) ∧
      OtherObjects s s' [(t.val, Obj.fillPattern)] ∧ SameMemory s s' ∧
      s' = { s with dict := s'.dict, layer := s'.layer, out := s'.out }) := by
  obtain ⟨x, hx⟩ : ∃ x, x = storeObj t.val Obj.fillPattern v.toNat (fresh s) := ⟨_, rfl⟩
  obtain ⟨hfields, hbase, hpend⟩ := pendFills_fields t.val 48 x
  obtain ⟨y, hy⟩ : ∃ y, y = (List.range 48).foldl
    (fun s c => modLayer t.val c (fun l => { l with fillPending := true }) s) x := ⟨_, rfl⟩
  rw [← hy] at hfields hbase hpend
  have hrun : writeFillPattern t.val v.toNat (fresh s) = y := by
    rw [hy, hx]
    rfl
  have hxfields : x = { s with dict := x.dict, out := { status := stOk } } := by rw [hx]; rfl
  have hyfields : y = { s with dict := y.dict, layer := y.layer, out := { status := stOk } } := by rw [hfields, hxfields]
  have hdict : y.dict = (setObj t.val Obj.fillPattern v.toNat s).dict := by
    rw [hfields, hx]
    rfl
  have hwords : SameWords s y := by
    refine ⟨by rw [hyfields], fun k => (hbase k).trans ?_, by rw [hyfields], by rw [hyfields]⟩
    rw [hxfields]
  exact answers_of_kept (exec_fillPatternWrite t v s) hrun (by rw [hyfields]) (by rw [hyfields])
    ⟨by rw [hyfields], getObj_set (s := s) hdict v.isLt, hpend, otherObjects_set (s := s) hdict (by decide),
      hwords.sameMemory, by rw [hyfields]⟩

/-- Settles O15: an injection in its form writes the one word of its address, one out of it none; FillPattern is stored and
owed to every channel. -/
theorem injectionAndFillPattern : Obligations.InjectionAndFillPattern := by
  unfold Obligations.InjectionAndFillPattern
  refine ⟨fun t v s => ⟨fun p hr h1 h2 ha ht ho hp hfree => ⟨?_, fun hne => ?_, ?_⟩,
    fun h cmd hcmd => answers_inject_bad h hcmd⟩, answers_fillPattern⟩
  · have h := answers_inject (exec_errorInjectFlipOne t v s) (.inl rfl) hr h1 h2 (by simp) ha ht ho hp hfree
    simpa only [injected_one] using h
  · have h := answers_inject (exec_errorInjectFlipTwo t v s) (.inr (.inl rfl)) hr h1 h2 (fun _ => hne) ha ht ho hp hfree
    simpa only [injected_two] using h
  · have h := answers_inject (exec_errorInjectPoison t v s) (.inr (.inr rfl)) hr h1 h2 (by simp) ha ht ho hp hfree
    simpa only [injected_three] using h

end Sys2Proof.Machine

/-! ## Proofs: the Blotter's laps -/

namespace Sys2Proof.Machine

open Sys2Proof

/-! ### Bits set and cleared -/

theorem bit_flipBit_same (n i : Nat) : bit (flipBit n i) i = !bit n i := by
  rw [bit_eq_testBit, bit_eq_testBit, flipBit_eq_xor, Nat.testBit_xor, Nat.testBit_two_pow_self, Bool.xor_true]

theorem clearBit_eq_flipBit {n i : Nat} (h : bit n i = true) : clearBit n i = flipBit n i := by
  unfold clearBit
  rw [flipBit_cases, h]
  rfl

@[simp] theorem bit_clearBit_same (n i : Nat) : bit (clearBit n i) i = false := by
  cases h : bit n i with
  | false => rw [clearBit, h, if_neg Bool.false_ne_true, h]
  | true => rw [clearBit_eq_flipBit h, bit_flipBit_same, h, Bool.not_true]

/-! ### The lap -/

/-- Where the Blotter reads next, it reads. -/
theorem lapReads_of_lapBank {s : State} {t c fuel : Nat} {b0 b : Blot} (h : lapBank s t c fuel b0 = some b) :
    lapReads s t c b = true := by
  induction fuel generalizing b0 with
  | zero => cases h
  | succ fuel ih =>
    unfold lapBank at h
    split at h
    · cases h
    · split at h
      · next hreads =>
        cases h
        exact hreads
      · exact ih h

/-- The place of a Blotter in its lap, without the times it keeps. -/
def lapPlace (b : Blot) : Nat × Nat × Nat := (b.sector, b.bank, b.row)

theorem lapReads_congr {s s' : State} (h : s'.remap = s.remap) (t c : Nat) {b b' : Blot} (hb : lapPlace b = lapPlace b') :
    lapReads s' t c b = lapReads s t c b' := by
  simp only [lapPlace, Prod.mk.injEq] at hb
  obtain ⟨-, hbank, hrow⟩ := hb
  unfold lapReads getRemap
  rw [h, hbank, hrow]

/-- The next place depends on the place and on the spares alone. -/
theorem lapBank_congr {s s' : State} (h : s'.remap = s.remap) (t c fuel : Nat) {b b' : Blot}
    (hb : lapPlace b = lapPlace b') : (lapBank s' t c fuel b).map lapPlace = (lapBank s t c fuel b').map lapPlace := by
  induction fuel generalizing b b' with
  | zero => rfl
  | succ fuel ih =>
    have hreads := lapReads_congr h t c hb
    obtain ⟨hsector, hbank, hrow⟩ : b.sector = b'.sector ∧ b.bank = b'.bank ∧ b.row = b'.row := by
      simpa only [lapPlace, Prod.mk.injEq] using hb
    unfold lapBank
    rw [hreads, hrow, hbank]
    split
    · rfl
    · split
      · exact congrArg some hb
      · refine ih ?_
        split <;> simp [lapPlace]

theorem lapNext_congr {s s' : State} (h : s'.remap = s.remap) (t c : Nat) {b b' : Blot}
    (hb : lapPlace b = lapPlace b') : (lapNext s' t c b).map lapPlace = (lapNext s t c b').map lapPlace := by
  have hreads := lapReads_congr h t c hb
  obtain ⟨hsector, hbank, hrow⟩ : b.sector = b'.sector ∧ b.bank = b'.bank ∧ b.row = b'.row := by
    simpa only [lapPlace, Prod.mk.injEq] using hb
  unfold lapNext
  rw [hreads, hsector, hbank, hrow]
  split
  · simp [lapPlace]
  · split <;> exact lapBank_congr h t c 300 (by simp [lapPlace])

theorem lapBank_fresh (s : State) (t c fuel : Nat) (b : Blot) : lapBank (fresh s) t c fuel b = lapBank s t c fuel b := by
  induction fuel generalizing b with
  | zero => rfl
  | succ fuel ih =>
    unfold lapBank
    rw [lapReads_congr (s' := fresh s) (s := s) rfl t c rfl]
    simp only [ih]

theorem blotterDue_fresh (s : State) (t c : Nat) (b : Blot) : blotterDue (fresh s) t c b = blotterDue s t c b := by
  unfold blotterDue
  rfl

/-! ### Objects of a channel's lap -/

theorem scrubLaps_bits : ∀ c : ChanN, objBits (Obj.scrubLaps + c.val) = 32 := by decide +kernel
theorem scrubLapProgress_bits : ∀ c : ChanN, objBits (Obj.scrubLapProgress + c.val) = 32 := by decide +kernel

section
variable {t : TileN} {c : ChanN} {s : State}

theorem getBlot_fresh (s : State) (t c : Nat) : getBlot (fresh s) t c = getBlot s t c := rfl

@[simp] theorem getBlot_setBlot (t c : Nat) (b : Blot) (x : State) : getBlot (setBlot t c b x) t c = b := fget_fset_same _ _ _ _

/-- A channel's bit lies within ScrubOverdue. -/
theorem bit_scrubOverdue (c : ChanN) (n : Nat) : bit (n % 2 ^ objBits Obj.scrubOverdue) c.val = bit n c.val :=
  bit_mod_two_pow (Nat.lt_of_lt_of_le (Nat.lt_trans c.isLt (by decide : (48 : Nat) < 64)) (by decide)) n

/-- The end of a lap: the next starts at the first place, the lap is counted, and it is overdue no more (R268). -/
theorem lapEnd_spec (t : TileN) (c : ChanN) (b : Blot) (x : State) :
    lapPlace (getBlot (lapEnd t.val c.val b x) t.val c.val) = (0, 0, 0) ∧
    getObj (lapEnd t.val c.val b x) t.val (Obj.scrubLaps + c.val) = (getObj x t.val (Obj.scrubLaps + c.val) + 1) % 2 ^ 32 ∧
    getObj (lapEnd t.val c.val b x) t.val (Obj.scrubLapProgress + c.val) = 0 ∧
    bit (getObj (lapEnd t.val c.val b x) t.val Obj.scrubOverdue) c.val = false ∧
    SameMemory x (lapEnd t.val c.val b x) := by
  have hc := c.isLt
  have hlast : Obj.scrubLapLast + c.val < 2 ^ 24 ∧ (Obj.scrubLapLast + c.val) / 256 = 0x6003 := by
    simp only [Obj.scrubLapLast]; omega
  have hprog : Obj.scrubLapProgress + c.val < 2 ^ 24 ∧ (Obj.scrubLapProgress + c.val) / 256 = 0x6004 := by
    simp only [Obj.scrubLapProgress]; omega
  have hlaps : Obj.scrubLaps + c.val < 2 ^ 24 ∧ (Obj.scrubLaps + c.val) / 256 = 0x6005 := by
    simp only [Obj.scrubLaps]; omega
  have hover : Obj.scrubOverdue < 2 ^ 24 ∧ Obj.scrubOverdue / 256 = 0x6007 := by decide
  unfold lapEnd
  extract_lets s1 s2 s3 s4
  have hread : ∀ k, getObj (setBlot t.val c.val { lastAt := b.lastAt, start := x.time.elapsed } s4) t.val k =
      getObj s4 t.val k := fun k => getObj_congr rfl _ _
  refine ⟨by rw [getBlot_setBlot, lapPlace], ?_, ?_, ?_, sameMemory_of rfl rfl rfl rfl⟩
  · rw [hread, getObj_setObj_index _ (by omega) hlaps.1 hover.1, getObj_setObj_index _ (by omega) hlaps.1 hprog.1]
    unfold s2 bump
    rw [getObj_setObj_same, scrubLaps_bits, getObj_setObj_index _ (by omega) hlaps.1 hlast.1]
  · rw [hread, getObj_setObj_index _ (by omega) hprog.1 hover.1, getObj_setObj_same, Nat.zero_mod]
  · rw [hread, getObj_setObj_same, bit_scrubOverdue, bit_clearBit_same]

theorem answers_lapEnd {b : Blot} (h : lapBank s t.val c.val 300 (getBlot s t.val c.val) = none) :
    blotterAccess t.val c.val (fresh s) = lapEnd t.val c.val (getBlot s t.val c.val) (fresh s) := by
  unfold blotterAccess
  dsimp only
  rw [lapBank_fresh, getBlot_fresh, h]

/-- The state after the Blotter's read of good words: its channel is metered, its bank closed, its progress counted. -/
def blotted (t c : Nat) (b : Blot) (s : State) : State :=
  countEv t 0x000C c 1 (bump t (Obj.scrubLapProgress + c) 1 (setBank t c b.bank .closed (meterChannel t c 3 s)))

theorem meterChannel_fields (t c tier : Nat) (s : State) :
    meterChannel t c tier s = { s with withheld := (meterChannel t c tier s).withheld } := meterToken_fields _ _ _ _

theorem blotted_fields (t c : Nat) (b : Blot) (s : State) : blotted t c b s = { s with
    withheld := (blotted t c b s).withheld, bank := (blotted t c b s).bank, dict := (blotted t c b s).dict
    count := (blotted t c b s).count } := by
  unfold blotted
  rw [meterChannel_fields]
  rfl

theorem dict_blotted (t c : Nat) (b : Blot) (s : State) :
    (blotted t c b s).dict = (bump t (Obj.scrubLapProgress + c) 1 s).dict := by
  unfold blotted
  rw [meterChannel_fields]
  rfl

/-- A due access whose words are good moves the Blotter on, or ends its lap (R267). -/
theorem blotterAccess_good {b : Blot} (h : lapBank s t.val c.val 300 (getBlot s t.val c.val) = some b)
    (hdue : blotterDue s t.val c.val b = true)
    (hgood : ∀ w ∈ rawWords s t.val c.val b.bank (physRow s t.val c.val b.bank b.row) (b.sector * 4) 4, classify w = .good) :
    blotterAccess t.val c.val (fresh s) =
      match lapNext (blotted t.val c.val b (fresh s)) t.val c.val { b with lastAt := some s.time.elapsed } with
      | some b2 => setBlot t.val c.val b2 (blotted t.val c.val b (fresh s))
      | none => lapEnd t.val c.val { b with lastAt := some s.time.elapsed } (blotted t.val c.val b (fresh s)) := by
  have hread : afterRead t.val c.val b.bank b.row (b.sector * 4) (blotterAcc b) true
      (rawWords s t.val c.val b.bank (physRow s t.val c.val b.bank b.row) (b.sector * 4) 4)
      (findWords (rawWords s t.val c.val b.bank (physRow s t.val c.val b.bank b.row) (b.sector * 4) 4) 0 {})
      (blotted t.val c.val b (fresh s)) = blotted t.val c.val b (fresh s) := afterRead_good _ _ _ _ _ _ _ _ _ hgood
  unfold blotterAccess
  dsimp only
  rw [lapBank_fresh, getBlot_fresh, h]
  dsimp only
  rw [if_neg (by rw [blotterDue_fresh, hdue]; simp)]
  exact congrArg (fun x => match lapNext x t.val c.val { b with lastAt := some s.time.elapsed } with
    | some b2 => setBlot t.val c.val b2 x
    | none => lapEnd t.val c.val { b with lastAt := some s.time.elapsed } x) hread

/-- The places that follow, as the lap stood before the access. -/
theorem lapNext_blotted (b : Blot) : (lapNext (blotted t.val c.val b (fresh s)) t.val c.val
      { b with lastAt := some s.time.elapsed }).map lapPlace = (lapNext s t.val c.val b).map lapPlace :=
  lapNext_congr (by rw [blotted_fields]; rfl) t.val c.val rfl

theorem answers_moved {b b2 : Blot} (h : lapBank s t.val c.val 300 (getBlot s t.val c.val) = some b)
    (hdue : blotterDue s t.val c.val b = true)
    (hgood : ∀ w ∈ rawWords s t.val c.val b.bank (physRow s t.val c.val b.bank b.row) (b.sector * 4) 4, classify w = .good)
    (hnext : lapNext s t.val c.val b = some b2) :
    Answers (.blotterAccess t c) s (fun s' => lapPlace (getBlot s' t.val c.val) = lapPlace b2 ∧
      getObj s' t.val (Obj.scrubLapProgress + c.val) = (getObj s t.val (Obj.scrubLapProgress + c.val) + 1) % 2 ^ 32 ∧
      OtherObjects s s' [(t.val, Obj.scrubLapProgress + c.val)] ∧ SameMemory s s') := by
  have hmove := lapNext_blotted (t := t) (c := c) (s := s) b
  have hrun := blotterAccess_good h hdue hgood
  rw [hnext] at hmove
  obtain ⟨b3, hb3, hplace⟩ := Option.map_eq_some_iff.mp hmove
  rw [hb3] at hrun
  dsimp only at hrun
  obtain ⟨x, hx⟩ : ∃ x, x = blotted t.val c.val b (fresh s) := ⟨_, rfl⟩
  have hfields := blotted_fields t.val c.val b (fresh s)
  have hdict : x.dict = (setObj t.val (Obj.scrubLapProgress + c.val)
      (getObj s t.val (Obj.scrubLapProgress + c.val) + 1) s).dict := by
    rw [hx, dict_blotted]
    rfl
  have hk : Obj.scrubLapProgress + c.val < 2 ^ 24 := by
    have := c.isLt
    simp only [Obj.scrubLapProgress]
    omega
  rw [← hx] at hrun hfields
  refine answers_effect (exec_blotterAccess t c s) fun y hy => ?_
  rw [hrun] at hy
  have hydict : y.dict = x.dict := by rw [hy]; rfl
  have hblot : getBlot y t.val c.val = b3 := by rw [hy, getBlot_setBlot]
  have hmem : SameMemory s y := by
    refine sameMemory_of ?_ ?_ ?_ ?_ <;> rw [hy, setBlot, hfields] <;> rfl
  refine ⟨(congrArg lapPlace hblot).trans hplace, ?_, otherObjects_set (s := s) (hydict.trans hdict) hk, hmem⟩
  refine (getObj_congr (hydict.trans hdict) _ _).trans ?_
  rw [getObj_setObj_same, scrubLapProgress_bits]

theorem answers_lapEnds {b : Blot} (h : lapBank s t.val c.val 300 (getBlot s t.val c.val) = some b)
    (hdue : blotterDue s t.val c.val b = true)
    (hgood : ∀ w ∈ rawWords s t.val c.val b.bank (physRow s t.val c.val b.bank b.row) (b.sector * 4) 4, classify w = .good)
    (hnext : lapNext s t.val c.val b = none) :
    ∃ x b1, blotterAccess t.val c.val (fresh s) = lapEnd t.val c.val b1 x ∧ SameMemory s x ∧
      getObj x t.val (Obj.scrubLaps + c.val) = getObj s t.val (Obj.scrubLaps + c.val) := by
  have hmove := lapNext_blotted (t := t) (c := c) (s := s) b
  have hrun := blotterAccess_good h hdue hgood
  rw [hnext] at hmove
  rw [Option.map_eq_none_iff.mp hmove] at hrun
  refine ⟨_, _, hrun, ?_, ?_⟩
  · refine sameMemory_of ?_ ?_ ?_ ?_ <;> rw [blotted_fields] <;> rfl
  · refine (getObj_congr (dict_blotted t.val c.val b (fresh s)) _ _).trans ?_
    have hc := c.isLt
    exact getObj_setObj_index _ (by simp only [Obj.scrubLaps, Obj.scrubLapProgress]; omega)
      (by simp only [Obj.scrubLaps]; omega) (by simp only [Obj.scrubLapProgress]; omega)

/-- A lap that ends, as the statement has it. -/
theorem answers_ended {b1 : Blot} {x : State} (hrun : blotterAccess t.val c.val (fresh s) = lapEnd t.val c.val b1 x)
    (hmem : SameMemory s x) (hlaps : getObj x t.val (Obj.scrubLaps + c.val) = getObj s t.val (Obj.scrubLaps + c.val)) :
    Answers (.blotterAccess t c) s (fun s' => (getBlot s' t.val c.val).sector = 0 ∧ (getBlot s' t.val c.val).bank = 0 ∧
      (getBlot s' t.val c.val).row = 0 ∧
      getObj s' t.val (Obj.scrubLaps + c.val) = (getObj s t.val (Obj.scrubLaps + c.val) + 1) % 2 ^ 32 ∧
      getObj s' t.val (Obj.scrubLapProgress + c.val) = 0 ∧
      bit (getObj s' t.val Obj.scrubOverdue) c.val = false ∧ SameMemory s s') := by
  obtain ⟨hplace, hcount, hprogress, hover, hkept⟩ := lapEnd_spec t c b1 x
  simp only [lapPlace, Prod.mk.injEq] at hplace
  obtain ⟨hsector, hbank, hrow⟩ := hplace
  rw [hlaps] at hcount
  refine answers_effect (exec_blotterAccess t c s) fun y hy => ?_
  rw [hrun] at hy
  rw [← hy] at hsector hbank hrow hcount hprogress hover hkept
  exact ⟨hsector, hbank, hrow, hcount, hprogress, hover, hmem.trans hkept⟩

theorem answers_overdue (h : getObj s t.val Obj.scrubLapLimit * 1000000000 < s.time.elapsed - (getBlot s t.val c.val).start) :
    Answers (.scrubOverdue t c) s (fun s' => bit (getObj s' t.val Obj.scrubOverdue) c.val = true ∧
      OtherObjects s s' [(t.val, Obj.scrubOverdue), (t.val, Obj.troubleLogDropped)] ∧ SameMemory s s') := by
  have ht : t.val ≠ dev := Nat.ne_of_lt t.isLt
  obtain ⟨x, hx⟩ : ∃ x, x = setObj t.val Obj.scrubOverdue (setBit (getObj s t.val Obj.scrubOverdue) c.val) (fresh s) := ⟨_, rfl⟩
  have hset : bit (getObj x t.val Obj.scrubOverdue) c.val = true := by
    rw [hx, getObj_setObj_same, bit_scrubOverdue, bit_setBit_same]
  have hothers : OtherObjects s x [(t.val, Obj.scrubOverdue), (t.val, Obj.troubleLogDropped)] := by
    rw [hx]
    exact (otherObjects_set (s := s) rfl (by decide)).mono (by simp)
  have hmem : SameMemory s x := by
    rw [hx]
    exact sameMemory_of rfl rfl rfl rfl
  have hrun : scrubOverdue t.val c.val (fresh s) = if (getBlot s t.val c.val).overdueLogged then x else
      addLog t.val 0x06 10 stOk (getObj (fresh s) t.val Obj.lastRepairEvent) c.val
        (setBlot t.val c.val { getBlot s t.val c.val with overdueLogged := true } x) := by
    rw [hx]
    exact if_neg (Nat.not_le.mpr h)
  refine answers_effect (exec_scrubOverdue t c s) fun y hy => ?_
  rw [hrun] at hy
  split at hy
  · rw [hy]
    exact ⟨hset, hothers, hmem⟩
  · obtain ⟨z, hz⟩ : ∃ z, z = setBlot t.val c.val { getBlot s t.val c.val with overdueLogged := true } x := ⟨_, rfl⟩
    rw [← hz] at hy
    have hzdict : z.dict = x.dict := by rw [hz]; rfl
    have hxz : SameMemory x z := by rw [hz]; exact sameMemory_of rfl rfl rfl rfl
    have hlog := otherObjects_addLog (u := t.val) ht 0x06 10 stOk (getObj (fresh s) t.val Obj.lastRepairEvent) c.val z
    have hside := side_addLog t.val 0x06 10 stOk (getObj (fresh s) t.val Obj.lastRepairEvent) c.val z
    rw [← hy] at hlog hside
    have hover : getObj y t.val Obj.scrubOverdue = getObj x t.val Obj.scrubOverdue :=
      (hside.objs _ _ (by decide) (by decide)).trans (getObj_congr hzdict _ _)
    refine ⟨?_, ?_, (hmem.trans hxz).trans hside.sameMemory⟩
    · show bit (getObj y t.val Obj.scrubOverdue) c.val = true
      rw [hover, hset]
    · exact hothers.trans ((otherObjects_none hzdict _).trans (hlog.mono (by simp)))

end

/-- Settles O17: an access moves the Blotter to the next place of its lap (`lapPlace`) or ends the lap. -/
theorem blotterLaps : Obligations.BlotterLaps := by
  unfold Obligations.BlotterLaps
  refine fun t c s => ⟨fun h => answers_ended (answers_lapEnd (b := {}) h) (sameMemory_of rfl rfl rfl rfl) rfl, fun b h => ⟨fun hidle => ?_,
    fun hdue hgood => ⟨fun hsector => ?_, fun b2 hnext => ?_, fun hnext => ?_⟩⟩, answers_overdue, fun h => ?_⟩
  · refine noEffect_run (exec_blotterAccess t c s) ?_
    unfold blotterAccess
    dsimp only
    rw [lapBank_fresh, getBlot_fresh, h]
    exact if_pos (by rw [blotterDue_fresh, hidle]; simp)
  · have hnext : lapNext s t.val c.val b = some { b with sector := b.sector + 1 } :=
      if_pos ⟨hsector, lapReads_of_lapBank h⟩
    obtain ⟨s', hexec, hplace, hrest⟩ := answers_moved h hdue hgood hnext
    simp only [lapPlace, Prod.mk.injEq] at hplace
    obtain ⟨hs, hb, hr⟩ := hplace
    exact ⟨s', hexec, hs, hb, hr, hrest⟩
  · obtain ⟨s', hexec, hplace, -⟩ := answers_moved h hdue hgood hnext
    simp only [lapPlace, Prod.mk.injEq] at hplace
    exact ⟨s', hexec, hplace⟩
  · obtain ⟨x, b1, hrun, hmem, hlaps⟩ := answers_lapEnds h hdue hgood hnext
    exact answers_ended hrun hmem hlaps
  · exact noEffect_run (exec_scrubOverdue t c s) (if_pos h)

end Sys2Proof.Machine

/-! ## Proofs: the stack's memory keeps its canonical form -/

namespace Sys2Proof.Machine

open Sys2Proof

/-- The form is one of the stored words, which stand. -/
theorem SameWords.memoryWf {s s' : State} (h : SameWords s s') (hs : memoryWf s = true) : memoryWf s' = true :=
  memoryWf_congr h.dram (funext fun _ => h.base _) hs

section
variable {t c : Nat} {s : State}

theorem memoryWf_sendUp (h : memoryWf s = true) (u : Up) : memoryWf (sendUp t c u s) = true :=
  memoryWf_modLayer s (fun _ => rfl) h

theorem memoryWf_report (h : memoryWf s = true) (b ev : Nat) : memoryWf (report t c b ev s) = true :=
  memoryWf_sendUp h _

theorem memoryWf_capture (h : memoryWf s = true) (odd : Bool) : memoryWf (capture t c odd s) = true :=
  memoryWf_modLayer s (fun l => by split <;> rfl) h

theorem memoryWf_countEv (h : memoryWf s = true) (e q n : Nat) : memoryWf (countEv t e q n s) = true :=
  (side_countEv t e q n s).sameWords.memoryWf h

theorem memoryWf_setBanks (h : memoryWf s = true) (v : BankS) : memoryWf (setBanks t c v s) = true := by
  have hfields := (setBanks_fields t c v s).1
  exact memoryWf_congr (s := s) (by rw [hfields]) (dramBase_congr (by rw [hfields])) h

theorem memoryWf_holdBank (h : memoryWf s = true) (b ev : Nat) : memoryWf (holdBank t c b ev s) = true :=
  memoryWf_report (s := setBank t c b (.busy ev) s) (memoryWf_congr (s := s) rfl rfl h) b ev

/-- A captured word keeps the form where its operation does. -/
theorem memoryWf_layerWord (h : memoryWf s = true) (w : Nat) (ok : State → Bool) {f : State → State}
    (hf : ∀ x, memoryWf x = true → memoryWf (f x) = true) : memoryWf (layerWord t c w ok f s) = true := by
  unfold layerWord
  dsimp only
  split
  · exact hf _ (memoryWf_capture h false)
  · exact memoryWf_report (memoryWf_capture h false) _ _

/-! ### The operations of a layer -/

theorem memoryWf_layerAct (h : memoryWf s = true) (w : Nat) : memoryWf (layerAct t c w s) = true :=
  memoryWf_layerWord h w _ fun x hx => memoryWf_countEv (memoryWf_report
    (s := setBank t c (wRowBank w) (.opening ((wRow w).getD 0)) x) (memoryWf_congr (s := x) rfl rfl hx) _ _) _ _ _

theorem memoryWf_layerRd (h : memoryWf s = true) (w : Nat) : memoryWf (layerRd t c w s) = true :=
  memoryWf_layerWord h w _ fun x hx => by
    have hsent := memoryWf_modLayer (t := t) (c := c) (f := fun l => { l with reads := l.reads ++ [readTag x t c] })
      (sendUp t c (.beats (rdWords x t c w ((openRow (getBank x t c (wBank w))).getD 0))) x) (fun _ => rfl)
      (memoryWf_sendUp hx _)
    dsimp only
    split
    · exact memoryWf_holdBank hsent _ _
    · exact hsent

theorem memoryWf_layerWr (h : memoryWf s = true) (w : Nat) (beats : List Nat) : memoryWf (layerWr t c w beats s) = true := by
  unfold layerWr
  by_cases hlen : beats.length ≠ (if wLine w then 4 else 2)
  · rw [if_pos hlen]
    exact h
  · rw [if_neg hlen]
    refine memoryWf_layerWord h w _ fun x hx => ?_
    have hstored := memoryWf_setRawWords t c (wBank w) ((openRow (getBank x t c (wBank w))).getD 0) (wSector w * 4)
      ((beats.map beatWords).flatten) x hx
    have hdone := memoryWf_report (t := t) (c := c) ((sameWords_writeDone t c (wLine w) _).memoryWf hstored) (wBank w) 3
    dsimp only
    split
    · exact memoryWf_holdBank hdone _ _
    · exact hdone

theorem memoryWf_layerPre (h : memoryWf s = true) (w : Nat) : memoryWf (layerPre t c w s) = true :=
  memoryWf_layerWord h w _ fun _ hx => memoryWf_holdBank hx _ _

theorem memoryWf_layerPrea (h : memoryWf s = true) (w : Nat) : memoryWf (layerPrea t c w s) = true :=
  memoryWf_layerWord h w _ fun _ hx => memoryWf_report (memoryWf_setBanks hx _) _ _

theorem memoryWf_layerRef (h : memoryWf s = true) (w : Nat) : memoryWf (layerRef t c w s) = true :=
  memoryWf_layerWord h w _ fun x hx => memoryWf_countEv (memoryWf_report (memoryWf_setBanks
    (memoryWf_modLayer (f := fun l => { l with refreshCounter := (l.refreshCounter + 1) % 8208 }) x (fun _ => rfl) hx) _) _ _) _ _ _

theorem memoryWf_layerRcopy (h : memoryWf s = true) (w arg : Nat) : memoryWf (layerRcopy t c w arg s) = true :=
  memoryWf_layerWord h w _ fun x hx => memoryWf_countEv (memoryWf_holdBank (memoryWf_setRawWords _ _ _ _ _ _ x hx) _ _) _ _ _

theorem memoryWf_layerRfill (h : memoryWf s = true) (w arg : Nat) : memoryWf (layerRfill t c w arg s) = true :=
  memoryWf_layerWord h w _ fun x hx => memoryWf_countEv (memoryWf_holdBank (memoryWf_setRawWords _ _ _ _ _ _ x hx) _ _) _ _ _

theorem memoryWf_layerMrw (h : memoryWf s = true) (w v : Nat) : memoryWf (layerMrw t c w v s) = true :=
  memoryWf_layerWord h w _ fun x hx => by
    obtain ⟨drawn, hdrawn⟩ : ∃ p : Nat × State, p = if wSector w = 1 ∧ v % 2 ^ 14 ≥ 8208 then draw x else (0, x) := ⟨_, rfl⟩
    have hs1 : memoryWf drawn.2 = true := by
      rw [hdrawn]
      split <;> exact memoryWf_congr (s := x) rfl rfl hx
    dsimp only
    rw [← hdrawn]
    refine memoryWf_report (memoryWf_modLayer drawn.2 (fun l => ?_) hs1) _ _
    split
    · rfl
    · split <;> rfl

/-- A value sent up as a read beat. -/
theorem memoryWf_readUp (h : memoryWf s = true) (tag : RdTag) (u : Up) :
    memoryWf (modLayer t c (fun l => { l with reads := l.reads ++ [tag] }) (sendUp t c u s)) = true :=
  memoryWf_modLayer _ (fun _ => rfl) (memoryWf_sendUp h _)

theorem memoryWf_layerMrr (h : memoryWf s = true) (w : Nat) : memoryWf (layerMrr t c w s) = true :=
  memoryWf_layerWord h w _ fun _ hx => memoryWf_readUp hx _ _

theorem memoryWf_layerTrw (h : memoryWf s = true) (w : Nat) : memoryWf (layerTrw t c w s) = true :=
  memoryWf_layerWord h w _ fun x hx => memoryWf_report (memoryWf_modLayer
    (f := fun l => { l with trims := setNth l.trims (bits w 7 4) (bits w 1 6) }) x (fun _ => rfl) hx) _ _

theorem memoryWf_layerTrr (h : memoryWf s = true) (w : Nat) : memoryWf (layerTrr t c w s) = true :=
  memoryWf_layerWord h w _ fun _ hx => memoryWf_readUp hx _ _

/-- Whatever operation a word names. -/
theorem memoryWf_layerDo (h : memoryWf s = true) (w : Nat) (arg : Option Nat) (beats : List Nat) :
    memoryWf (layerDo t c w arg beats s) = true := by
  unfold layerDo
  split
  · exact memoryWf_layerAct h w
  · split
    · exact memoryWf_layerRd h w
    · exact memoryWf_layerWr h w beats
    · exact memoryWf_layerPre h w
    · exact memoryWf_layerPrea h w
    · exact memoryWf_layerRef h w
    · exact memoryWf_layerRcopy h w _
    · exact memoryWf_layerRfill h w _
    · split
      · exact memoryWf_layerMrw h w _
      · exact h
    · exact memoryWf_layerMrr h w
    · exact memoryWf_layerTrw h w
    · exact memoryWf_layerTrr h w
    · exact memoryWf_layerWord h w _ fun _ hx => hx

theorem memoryWf_layerTake (h : memoryWf s = true) (w : Nat) (arg : Option Nat) (beats : List Nat) :
    memoryWf (layerTake t c w arg beats s) = true := by
  unfold layerTake
  extract_lets odd
  clear_value odd
  split
  · exact h
  · split
    · exact memoryWf_report (memoryWf_capture h true) _ _
    · split
      · split
        · exact memoryWf_layerDo h _ _ _
        · exact memoryWf_layerDo (memoryWf_report
          (memoryWf_modLayer (f := fun l => { l with awaits := none }) s (fun _ => rfl) h) _ _) _ _ _
      · split
        · exact memoryWf_modLayer (f := fun l => { l with awaits := some w }) s (fun _ => rfl) h
        · exact memoryWf_layerDo h _ _ _

/-! ### Injection, filling and power-on -/

theorem memoryWf_injectWrite (h : memoryWf s = true) (v : Nat) : memoryWf (injectWrite t v s) = true := by
  have hat : memoryWf (injectAt t v s).2 = true := by
    unfold injectAt
    dsimp only
    split
    · exact h
    · split
      · exact h
      · split
        · exact h
        · exact memoryWf_setRawWord _ _ _ _ _ _ s h
  rw [injectWrite_of (t := t) (v := v) (s := s) rfl]
  exact memoryWf_congr (s := (injectAt t v s).2) rfl rfl hat

theorem sameWords_setStackState (t : Nat) (s : State) : SameWords s (setStackState t s) := by
  unfold setStackState
  split
  · exact sameWords_of rfl rfl rfl rfl
  · split
    · exact sameWords_of rfl rfl rfl rfl
    · exact .refl s

theorem sameWords_channelReady (t c : Nat) (s : State) : SameWords s (channelReady t c s) := by
  have hbanks : SameWords s (modTrain t c (fun _ => { step := 4 }) (setBanks t c .closed (setObj t (Obj.channelState + c) 2 s))) := by
    refine sameWords_of ?_ ?_ ?_ ?_ <;> rw [(setBanks_fields t c .closed _).1] <;> rfl
  exact (hbanks.trans (side_setCause _ _ _ _).sameWords).trans (sameWords_setStackState t _)

theorem memoryWf_stackInitDone (h : memoryWf s = true) : memoryWf (stackInitDone t c s) = true := by
  unfold stackInitDone
  split
  · exact h
  · exact (sameWords_channelReady t c _).memoryWf (memoryWf_fillChannel t c s h)

end

/-- A command whose effect keeps the form. -/
theorem memoryWf_exec {cmd : Instr} {f : State → State} {s s' : State} (hcmd : exec cmd s = run f s)
    (hf : ∀ x, memoryWf x = true → memoryWf (f x) = true) (h : memoryWf s = true) (hnext : exec cmd s = .next s') :
    memoryWf s' = true := by
  rw [hcmd, run_next] at hnext
  cases hnext
  exact memoryWf_congr (s := f (fresh s)) rfl rfl (hf _ (memoryWf_congr (s := s) rfl rfl h))

/-- Settles O19: each operation of a layer stores words through `setRawWords` alone, which keeps the form. -/
theorem memoryStaysCanonical : Obligations.MemoryStaysCanonical := by
  intro t c w arg v x beats s s' h cmd hcmd hnext
  have hlayer : ∀ word arg beats, exec cmd s = run (layerTake t.val c.val word arg beats) s → memoryWf s' = true :=
    fun word arg beats hexec => memoryWf_exec hexec (fun _ hx => memoryWf_layerTake hx word arg beats) h hnext
  have hinject : ∀ kind, exec cmd s = run (injectWrite t.val (withKind x.toNat kind)) s → memoryWf s' = true :=
    fun kind hexec => memoryWf_exec hexec (fun _ hx => memoryWf_injectWrite hx _) h hnext
  simp only [List.mem_cons, List.not_mem_nil, or_false] at hcmd
  rcases hcmd with rfl | rfl | rfl | rfl | rfl | rfl | rfl | rfl | rfl | rfl | rfl | rfl | rfl | rfl | rfl | rfl | rfl
  · exact hlayer _ _ _ (exec_act t c w s)
  · exact hlayer _ _ _ (exec_rd t c w s)
  · exact hlayer _ _ _ (exec_wr t c w beats s)
  · exact hlayer _ _ _ (exec_pre t c w s)
  · exact hlayer _ _ _ (exec_prea t c w s)
  · exact hlayer _ _ _ (exec_ref t c w s)
  · exact hlayer _ _ _ (exec_rcopy t c w arg s)
  · exact hlayer _ _ _ (exec_rfill t c w arg s)
  · exact hlayer _ _ _ (exec_mrw t c w v s)
  · exact hlayer _ _ _ (exec_mrr t c w s)
  · exact hlayer _ _ _ (exec_trw t c w s)
  · exact hlayer _ _ _ (exec_trr t c w s)
  · exact hinject 1 (exec_errorInjectFlipOne t x s)
  · exact hinject 2 (exec_errorInjectFlipTwo t x s)
  · exact hinject 3 (exec_errorInjectPoison t x s)
  · exact memoryWf_exec (exec_stackInitialisationDone t c s) (fun _ hx => memoryWf_stackInitDone hx) h hnext
  · rw [exec_powerOnReset] at hnext
    cases hnext
    exact memoryWf_reset

end Sys2Proof.Machine

/-! ## Proofs: effects on objects alone; port generations, bandwidth windows and precise sampling -/

namespace Sys2Proof.Machine

open Sys2Proof

/-! ### Effects on objects alone -/

/-- `s'` differs from `s` in objects that `K` names, and in nothing else. -/
structure ObjsOnly (K : Nat → Nat → Prop) (s s' : State) : Prop where
  fields : s' = { s with dict := s'.dict }
  objs : ∀ u k, k < 2 ^ 24 → ¬ K u k → getObj s' u k = getObj s u k

namespace ObjsOnly
variable {K : Nat → Nat → Prop} {a b c s : State}

theorem refl (K : Nat → Nat → Prop) (s : State) : ObjsOnly K s s := ⟨rfl, fun _ _ _ _ => rfl⟩

theorem trans (h : ObjsOnly K a b) (h' : ObjsOnly K b c) : ObjsOnly K a c := by
  refine ⟨?_, fun u k hk hn => (h'.objs u k hk hn).trans (h.objs u k hk hn)⟩
  rw [h'.fields, h.fields]

theorem mono {K' : Nat → Nat → Prop} (h : ObjsOnly K a b) (hk : ∀ u k, K u k → K' u k) : ObjsOnly K' a b :=
  ⟨h.fields, fun u k hlt hn => h.objs u k hlt (fun e => hn (hk u k e))⟩

theorem set {u k : Nat} (v : Nat) (hk : k < 2 ^ 24) (hK : K u k) (s : State) : ObjsOnly K s (setObj u k v s) := by
  refine ⟨rfl, fun w j hj hn => getObj_setObj_other s fun e => hn ?_⟩
  obtain ⟨rfl, rfl⟩ := okey_inj hj hk e
  exact hK

theorem setUnit (u : Nat) {k : Nat} (v : Nat) (hk : k < 2 ^ 24) (s : State) : ObjsOnly (fun w _ => w = u) s (setObj u k v s) :=
  set (K := fun w _ => w = u) v hk (by rfl) s

theorem foldl {α : Type} {f : State → α → State} {l : List α} (hf : ∀ x, ∀ i ∈ l, ObjsOnly K x (f x i)) (s : State) :
    ObjsOnly K s (l.foldl f s) := by
  induction l generalizing s with
  | nil => exact refl K s
  | cons i l ih => exact (hf s i (by simp)).trans (ih (fun x j hj => hf x j (by simp [hj])) _)

theorem range {f : State → Nat → State} {n : Nat} (hf : ∀ x i, i < n → ObjsOnly K x (f x i)) (s : State) :
    ObjsOnly K s ((List.range n).foldl f s) := foldl (fun x i hi => hf x i (List.mem_range.mp hi)) s

theorem sameWords (h : ObjsOnly K a b) : SameWords a b := by
  refine sameWords_of ?_ ?_ ?_ ?_ <;> rw [h.fields]

theorem otherObjects {L : List (Nat × Nat)} (h : ObjsOnly (fun u k => (u, k) ∈ L) a b) : OtherObjects a b L :=
  fun u k hk hn => h.objs u k hk hn

end ObjsOnly

/-- What step `i` of a fold puts, where the other steps touch neither it nor what it is made of. -/
theorem foldl_range_puts {β : Type} {f : State → Nat → State} {g v : Nat → State → β} {n : Nat}
    (hsame : ∀ i x, i < n → g i (f x i) = v i x) (hother : ∀ i j x, i < n → j < n → i ≠ j → g i (f x j) = g i x)
    (hmade : ∀ i j x, i < n → j < n → i ≠ j → v i (f x j) = v i x) (s : State) :
    ∀ i < n, g i ((List.range n).foldl f s) = v i s := by
  suffices h : ∀ m ≤ n, (∀ i < m, g i ((List.range m).foldl f s) = v i s) ∧
      ∀ i < n, m ≤ i → v i ((List.range m).foldl f s) = v i s from (h n le_rfl).1
  intro m
  induction m with
  | zero => exact fun _ => ⟨fun i hi => absurd hi (Nat.not_lt_zero i), fun _ _ _ => rfl⟩
  | succ m ih =>
    intro hm
    obtain ⟨hput, hleft⟩ := ih (Nat.le_of_succ_le hm)
    rw [List.range_succ, List.foldl_append]
    refine ⟨fun i hi => ?_, fun i hi hmi => ?_⟩
    · obtain hlt | rfl := Nat.lt_succ_iff_lt_or_eq.mp hi
      · exact (hother i m _ (Nat.lt_trans hlt hm) hm (Nat.ne_of_lt hlt)).trans (hput i hlt)
      · exact (hsame i _ hm).trans (hleft i hm le_rfl)
    · exact (hmade i m _ hi hm (by omega)).trans (hleft i hi (by omega))

/-- A part that only step `i` of a fold changes: the others stand around that step. -/
theorem foldl_range_around {α : Type} {f : State → Nat → State} {part : State → α} {n i : Nat} (hi : i < n)
    (hother : ∀ x j, j < n → j ≠ i → part (f x j) = part x) (s : State) :
    ∃ x, part x = part s ∧ part ((List.range n).foldl f s) = part (f x i) := by
  induction n with
  | zero => exact absurd hi (Nat.not_lt_zero i)
  | succ n ih =>
    rw [List.range_succ, List.foldl_append]
    obtain hlt | rfl := Nat.lt_succ_iff_lt_or_eq.mp hi
    · obtain ⟨x, hx, hfold⟩ := ih hlt (fun x j hj => hother x j (Nat.lt_succ_of_lt hj))
      exact ⟨x, hx, (hother _ n (Nat.lt_succ_self n) (Nat.ne_of_gt hlt)).trans hfold⟩
    · exact ⟨_, foldl_range_keeps (fun x j hj => hother x j (Nat.lt_succ_of_lt hj) (Nat.ne_of_lt hj)) s, rfl⟩

/-! ### Port generations and clocks (R407, R414) -/

theorem portKeys (p : PortN) : Obj.portState + p.val < 2 ^ 24 ∧ Obj.clockStops + p.val < 2 ^ 24 ∧
    Obj.portGeneration + p.val < 2 ^ 24 ∧ (Obj.clockStops + p.val) / 256 ≠ (Obj.portState + p.val) / 256 := by
  have hp := p.isLt
  simp only [Obj.portState, Obj.clockStops, Obj.portGeneration]
  omega

theorem portWidths : ∀ p : PortN, objBits (Obj.portState + p.val) = 8 ∧ objBits (Obj.clockStops + p.val) = 32 ∧
    objBits (Obj.portGeneration + p.val) = 8 := by decide +kernel

theorem answers_clockLost {t : TileN} {p : PortN} {s : State}
    (h : portGeneration s t.val p.val ≠ 3 ∧ getObj s t.val (Obj.portState + p.val) = 1) :
    Answers (.adapterClockLost t p) s (fun s' => getObj s' t.val (Obj.portState + p.val) = 2 ∧
      getObj s' t.val (Obj.clockStops + p.val) = (getObj s t.val (Obj.clockStops + p.val) + 1) % 2 ^ 32 ∧
      OtherObjects s s' [(t.val, Obj.portState + p.val), (t.val, Obj.clockStops + p.val)] ∧
      s' = { s with dict := s'.dict, out := {} }) := by
  obtain ⟨hstate, hstops, -, hne⟩ := portKeys p
  obtain ⟨hbits, hcount, -⟩ := portWidths p
  obtain ⟨x, hx⟩ : ∃ x, x = setObj t.val (Obj.portState + p.val) 2 (fresh s) := ⟨_, rfl⟩
  have hrun : clockLost t.val p.val (fresh s) = bump t.val (Obj.clockStops + p.val) 1 x := by
    rw [hx]
    exact if_neg (fun e => e.elim h.1 (fun hn => hn h.2))
  have hfirst : ObjsOnly (fun u k => (u, k) ∈ [(t.val, Obj.portState + p.val), (t.val, Obj.clockStops + p.val)]) (fresh s) x :=
    hx ▸ ObjsOnly.set 2 hstate (by simp) _
  have hboth := hfirst.trans (ObjsOnly.set (u := t.val) (k := Obj.clockStops + p.val) (getObj x t.val (Obj.clockStops + p.val) + 1)
    hstops (by simp) x)
  rw [bump] at hrun
  refine answers_of_kept (exec_adapterClockLost t p s) hrun (by rw [hboth.fields]; rfl) (by rw [hboth.fields]; rfl)
    ⟨?_, ?_, hboth.otherObjects, by rw [hboth.fields]; rfl⟩
  · rw [getObj_setObj_index x hne.symm hstate hstops, hx, getObj_setObj_same, hbits]
    rfl
  · rw [getObj_setObj_same, hcount, hx, getObj_setObj_index _ hne hstops hstate, getObj_fresh]

theorem answers_clockReturn {t : TileN} {p : PortN} {s : State} (h : getObj s t.val (Obj.portState + p.val) = 2) :
    Answers (.adapterClockReturn t p) s (fun s' => getObj s' t.val (Obj.portState + p.val) = 1 ∧
      OtherObjects s s' [(t.val, Obj.portState + p.val)] ∧ s' = { s with dict := s'.dict, out := {} }) := by
  obtain ⟨hstate, -⟩ := portKeys p
  obtain ⟨hbits, -⟩ := portWidths p
  have hset := ObjsOnly.set (K := fun u k => (u, k) ∈ [(t.val, Obj.portState + p.val)]) (u := t.val) 1 hstate (by simp) (fresh s)
  exact answers_of_kept (exec_adapterClockReturn t p s) (if_pos h) rfl rfl
    ⟨by rw [getObj_setObj_same, hbits]; rfl, hset.otherObjects, rfl⟩

/-- Settles O59: PortGeneration by its three cases, and a clocked port that loses its clock and gets it back. -/
theorem portGenerationsAndClocks : Obligations.PortGenerationsAndClocks := by
  intro t p v s
  obtain ⟨-, -, hgen, -⟩ := portKeys p
  obtain ⟨-, -, hbits⟩ := portWidths p
  refine ⟨fun h => ?_, fun h1 h3 hnamed => ?_, fun h1 h3 hfree => ?_, fun h => ?_, answers_clockLost, fun h => ?_, answers_clockReturn⟩
  · exact refuses_run (exec_portGenerationWrite t p v s) (if_pos h)
  · refine refuses_run (exec_portGenerationWrite t p v s) ?_
    unfold writePortGeneration
    rw [if_neg (by omega), if_pos (show portNamed (fresh s) t.val p.val = true from hnamed)]
  · refine writesRws_run (exec_portGenerationWrite t p v s) ?_ hgen ?_ (by rw [hbits]; omega)
    · unfold writePortGeneration
      rw [if_neg (by omega), if_neg (by rw [show portNamed (fresh s) t.val p.val = false from hfree]; exact Bool.false_ne_true)]
    · exact fun e => absurd (Prod.mk.inj e).1 (Nat.ne_of_lt t.isLt)
  · refine noEffect_run (exec_adapterClockLost t p s) (if_pos ?_)
    exact (not_and_or.mp h).imp not_not.mp id
  · exact noEffect_run (exec_adapterClockReturn t p s) (if_neg h)

/-! ### Bandwidth windows (R400) -/

section
variable {t : TileN} {s : State}

/-- A bandwidth window's end at one port. -/
def portWindowEnd (t w : Nat) (s : State) (p : Nat) : State :=
  let i := fget 0 s.count.portBytes (t * 10 + p * 2)
  let o := fget 0 s.count.portBytes (t * 10 + p * 2 + 1)
  let s' := setObj t (Obj.portBandwidthIn + p) (i * 1000 / w) (setObj t (Obj.portBandwidthOut + p) (o * 1000 / w) s)
  setObj t (Obj.portBandwidthPeak + p) (max (getObj s t (Obj.portBandwidthPeak + p)) ((i + o) * 1000 / w)) s'

/-- The three bandwidths of a port. -/
def bandwidths (t p : Nat) (s : State) : Nat × Nat × Nat :=
  (getObj s t (Obj.portBandwidthIn + p), getObj s t (Obj.portBandwidthOut + p), getObj s t (Obj.portBandwidthPeak + p))

/-- What a window gives a port (R400). -/
def windowGives (t w p : Nat) (s : State) : Nat × Nat × Nat :=
  let i := fget 0 s.count.portBytes (t * 10 + p * 2)
  let o := fget 0 s.count.portBytes (t * 10 + p * 2 + 1)
  (i * 1000 / w % 2 ^ 32, o * 1000 / w % 2 ^ 32, max (getObj s t (Obj.portBandwidthPeak + p)) ((i + o) * 1000 / w) % 2 ^ 32)

theorem bandwidthWidths : ∀ p : Fin 5, objBits (Obj.portBandwidthIn + p.val) = 32 ∧
    objBits (Obj.portBandwidthOut + p.val) = 32 ∧ objBits (Obj.portBandwidthPeak + p.val) = 32 := by decide +kernel

theorem bandwidths_portWindowEnd (t w : Nat) {p : Nat} (hp : p < 5) (s : State) :
    bandwidths t p (portWindowEnd t w s p) = windowGives t w p s := by
  obtain ⟨hin, hout, hpeak⟩ := bandwidthWidths ⟨p, hp⟩
  have hne : Obj.portBandwidthIn + p < 2 ^ 24 ∧ Obj.portBandwidthOut + p < 2 ^ 24 ∧ Obj.portBandwidthPeak + p < 2 ^ 24 ∧
      (Obj.portBandwidthIn + p) ≠ (Obj.portBandwidthPeak + p) ∧ (Obj.portBandwidthOut + p) ≠ (Obj.portBandwidthPeak + p) ∧
      (Obj.portBandwidthOut + p) ≠ (Obj.portBandwidthIn + p) := by
    simp only [Obj.portBandwidthIn, Obj.portBandwidthOut, Obj.portBandwidthPeak]
    omega
  obtain ⟨hki, hko, hkp, hip, hop, hoi⟩ := hne
  unfold bandwidths windowGives portWindowEnd
  rw [getObj_setObj_same, hpeak, getObj_setObj_obj _ hip hki hkp, getObj_setObj_same, hin, getObj_setObj_obj _ hop hko hkp,
    getObj_setObj_obj _ hoi hko hki, getObj_setObj_same, hout]

/-- The bandwidths of the ports. -/
def bandwidthKey (t p u k : Nat) : Prop :=
  u = t ∧ (k = Obj.portBandwidthIn + p ∨ k = Obj.portBandwidthOut + p ∨ k = Obj.portBandwidthPeak + p)

theorem objsOnly_portWindowEnd (t w : Nat) {p : Nat} (hp : p < 5) (s : State) :
    ObjsOnly (bandwidthKey t p) s (portWindowEnd t w s p) := by
  have hlt : Obj.portBandwidthIn + p < 2 ^ 24 ∧ Obj.portBandwidthOut + p < 2 ^ 24 ∧ Obj.portBandwidthPeak + p < 2 ^ 24 := by
    simp only [Obj.portBandwidthIn, Obj.portBandwidthOut, Obj.portBandwidthPeak]
    omega
  obtain ⟨hin, hout, hpeak⟩ := hlt
  exact ((ObjsOnly.set _ hout ⟨rfl, .inr (.inl rfl)⟩ s).trans (ObjsOnly.set _ hin ⟨rfl, .inl rfl⟩ _)).trans
    (ObjsOnly.set _ hpeak ⟨rfl, .inr (.inr rfl)⟩ _)

/-- A window's end at another port. -/
theorem portWindowEnd_other (t w : Nat) {p q : Nat} (hp : p < 5) (hq : q < 5) (h : p ≠ q) (s : State) :
    bandwidths t p (portWindowEnd t w s q) = bandwidths t p s ∧
    windowGives t w p (portWindowEnd t w s q) = windowGives t w p s := by
  have hframe := objsOnly_portWindowEnd t w hq s
  have hkeep : ∀ k, k = Obj.portBandwidthIn + p ∨ k = Obj.portBandwidthOut + p ∨ k = Obj.portBandwidthPeak + p →
      getObj (portWindowEnd t w s q) t k = getObj s t k := by
    intro k hk
    refine hframe.objs t k ?_ ?_
    · simp only [Obj.portBandwidthIn, Obj.portBandwidthOut, Obj.portBandwidthPeak] at hk
      omega
    · rintro ⟨-, hkq⟩
      simp only [Obj.portBandwidthIn, Obj.portBandwidthOut, Obj.portBandwidthPeak] at hk hkq
      omega
  unfold bandwidths windowGives
  rw [hkeep _ (.inl rfl), hkeep _ (.inr (.inl rfl)), hkeep _ (.inr (.inr rfl)), hframe.fields]
  exact ⟨rfl, rfl⟩

theorem bandwidths_windowEnd (t w : Nat) (s : State) : ∀ p < 5,
    bandwidths t p ((List.range 5).foldl (portWindowEnd t w) s) = windowGives t w p s :=
  foldl_range_puts (fun _ x hi => bandwidths_portWindowEnd t w hi x)
    (fun _ _ x hi hj h => (portWindowEnd_other t w hi hj h x).1) (fun _ _ x hi hj h => (portWindowEnd_other t w hi hj h x).2) s

theorem fget_filter_out {α : Type} {d : α} {m : FMap α} {p : Nat × α → Bool} {k : Nat} (h : ∀ v, p (k, v) = false) :
    fget d (m.filter p) k = d := by
  induction m with
  | nil => rfl
  | cons e r ih =>
    obtain ⟨j, v⟩ := e
    rw [List.filter_cons]
    split
    · next hp =>
      unfold fget
      rw [if_neg, ih]
      rintro rfl
      rw [h v] at hp
      cases hp
    · exact ih

/-- The window's counts start anew. -/
def windowTaken (t : Nat) (s : State) : State :=
  take t 7 { s with count := { s.count with
    portBytes := s.count.portBytes.filter (fun e => e.1 / 10 ≠ t), cutWindow := fset false s.count.cutWindow t false } }

theorem windowTaken_clear (t : Nat) (s : State) : (∀ k < 10, fget 0 (windowTaken t s).count.portBytes (t * 10 + k) = 0) ∧
    fget false (windowTaken t s).count.cutWindow t = false := by
  refine ⟨fun k hk => fget_filter_out fun v => ?_, fget_fset_same false s.count.cutWindow t false⟩
  have hdiv : (t * 10 + k) / 10 = t := by omega
  simp [hdiv]

theorem bandwidthEnd_due (h : due s t.val 7 (getObj s t.val Obj.bandwidthWindow) = true) : bandwidthEnd t.val (fresh s) =
    windowTaken t.val (if fget false s.count.cutWindow t.val then fresh s else
      (List.range 5).foldl (portWindowEnd t.val (getObj s t.val Obj.bandwidthWindow)) (fresh s)) :=
  if_neg (not_not.mpr h)

theorem answers_bandwidthWindowEnd (h : due s t.val 7 (getObj s t.val Obj.bandwidthWindow) = true) :
    Answers (.bandwidthWindowEnd t) s (fun s' =>
      (∀ k < 10, fget 0 s'.count.portBytes (t.val * 10 + k) = 0) ∧ fget false s'.count.cutWindow t.val = false ∧
      (fget false s.count.cutWindow t.val = true → s'.dict = s.dict) ∧
      (fget false s.count.cutWindow t.val = false → ∀ p < 5,
        bandwidths t.val p s' = windowGives t.val (getObj s t.val Obj.bandwidthWindow) p s) ∧
      s' = { s with dict := s'.dict, last := s'.last, count := s'.count, out := {} }) := by
  obtain ⟨x, hx⟩ : ∃ x, x = (if fget false s.count.cutWindow t.val then fresh s else
      (List.range 5).foldl (portWindowEnd t.val (getObj s t.val Obj.bandwidthWindow)) (fresh s)) := ⟨_, rfl⟩
  have hrun := bandwidthEnd_due h
  rw [← hx] at hrun
  have hfields : x = { s with dict := x.dict, out := {} } := by
    rw [hx]
    split
    · rfl
    · exact (ObjsOnly.range (K := fun _ _ => True)
        (fun y p hp => (objsOnly_portWindowEnd t.val _ hp y).mono (fun _ _ _ => trivial)) (fresh s)).fields
  obtain ⟨hzero, hcut⟩ := windowTaken_clear t.val x
  refine answers_of_kept (exec_bandwidthWindowEnd t s) hrun (by rw [hfields]; rfl) (by rw [hfields]; rfl)
    ⟨hzero, hcut, fun hc => ?_, fun hc p hp => ?_, by rw [hfields]; rfl⟩
  · show x.dict = s.dict
    rw [hx, if_pos hc]
    rfl
  · have hdict : bandwidths t.val p (windowTaken t.val x) = bandwidths t.val p x := rfl
    rw [hdict, hx, if_neg (by rw [hc]; exact Bool.false_ne_true)]
    exact bandwidths_windowEnd t.val _ (fresh s) p hp

end

/-! ### Precise sampling (R401, R402) -/

/-- What PreciseSampleControl keeps of a value: its defined bits. -/
theorem bit_samplingWord (n : Nat) {i : Nat} (hi : i < 64) :
    bit (fld 15 49 (n / 2 ^ 15) + fld 8 4 (n / 2 ^ 8)) i = (bit n i && (decide (15 ≤ i) || decide (8 ≤ i ∧ i < 12))) := by
  have hlow : fld 8 4 (n / 2 ^ 8) < 2 ^ 15 := by
    unfold fld
    omega
  have hhigh : fld 15 49 (n / 2 ^ 15) = 2 ^ 15 * (n / 2 ^ 15 % 2 ^ 49) := Nat.mul_comm _ _
  rw [bit_eq_testBit, bit_eq_testBit, hhigh, Nat.testBit_two_pow_mul_add _ hlow]
  split
  · next h =>
    have hmul : fld 8 4 (n / 2 ^ 8) = 2 ^ 8 * (n / 2 ^ 8 % 2 ^ 4) := Nat.mul_comm _ _
    rw [hmul, Nat.testBit_two_pow_mul, Nat.testBit_mod_two_pow, Nat.testBit_div_two_pow]
    by_cases h8 : 8 ≤ i
    · have hsub : 8 + (i - 8) = i := by omega
      have hsub : i - 8 + 8 = i := by omega
      simp only [ge_iff_le, h8, decide_true, Bool.true_and, hsub, show ¬ 15 ≤ i by omega, decide_false, Bool.false_or, true_and]
      rw [Bool.and_comm]
      congr 1
      exact decide_eq_decide.mpr (by omega)
    · simp only [ge_iff_le, h8, show ¬ 15 ≤ i by omega, decide_false, Bool.false_and, false_and, Bool.or_self, Bool.and_false]
  · next h =>
    have hsub : i - 15 + 15 = i := by omega
    rw [Nat.testBit_mod_two_pow, Nat.testBit_div_two_pow]
    simp only [hsub, show i - 15 < 49 by omega, show 15 ≤ i by omega, decide_true, Bool.true_and, Bool.true_or, Bool.and_true]

/-- What PreciseSampleControl holds after a write. -/
def samplingWord (n : Nat) : Nat := fld 15 49 (n / 2 ^ 15) + fld 8 4 (n / 2 ^ 8)

theorem samplingWord_lt (n : Nat) : samplingWord n < 2 ^ 64 := by
  unfold samplingWord fld
  omega

section
variable {t : TileN} {v : BitVec 64} {s : State}

theorem answers_preciseSampleControl (h : ¬ (bits v.toNat 48 16 = 0 ∨ bits v.toNat 10 2 = 0)) :
    Answers (.preciseSampleControlWrite t v) s (fun s' => s'.out = { status := stOk } ∧
      getObj s' t.val Obj.preciseSampleControl = samplingWord v.toNat ∧
      (smEnable v.toNat = true ∧ smEnable (getObj s t.val Obj.preciseSampleControl) = false →
        getObj s' t.val Obj.preciseSampleCount = 0 ∧ fget 0 s'.count.countdown t.val = smInterval v.toNat) ∧
      (¬ (smEnable v.toNat = true ∧ smEnable (getObj s t.val Obj.preciseSampleControl) = false) →
        getObj s' t.val Obj.preciseSampleCount = getObj s t.val Obj.preciseSampleCount ∧ s'.count = s.count) ∧
      OtherObjects s s' [(t.val, Obj.preciseSampleControl), (t.val, Obj.preciseSampleCount)] ∧
      s' = { s with dict := s'.dict, out := s'.out, count := { s.count with countdown := s'.count.countdown } }) := by
  have hstored : getObj (storeObj t.val Obj.preciseSampleControl (samplingWord v.toNat) (fresh s)) t.val Obj.preciseSampleControl =
      samplingWord v.toNat :=
    getObj_setObj_fits (fresh s) (Nat.lt_of_lt_of_eq (samplingWord_lt _) (by decide))
  have hset := ObjsOnly.set (K := fun u k => (u, k) ∈ [(t.val, Obj.preciseSampleControl), (t.val, Obj.preciseSampleCount)])
    (u := t.val) (k := Obj.preciseSampleControl) (samplingWord v.toNat) (by decide) (by simp) (fresh s)
  have hcase : writeSampling t.val v.toNat (fresh s) =
      if smEnable v.toNat ∧ ¬ smEnable (getObj s t.val Obj.preciseSampleControl) then
        setObj t.val Obj.preciseSampleCount 0 { storeObj t.val Obj.preciseSampleControl (samplingWord v.toNat) (fresh s) with
          count := { s.count with countdown := fset 0 s.count.countdown t.val (smInterval v.toNat) } }
      else storeObj t.val Obj.preciseSampleControl (samplingWord v.toNat) (fresh s) := if_neg h
  by_cases hstarts : smEnable v.toNat = true ∧ smEnable (getObj s t.val Obj.preciseSampleControl) = false
  · obtain ⟨x, hx⟩ : ∃ x, x = { storeObj t.val Obj.preciseSampleControl (samplingWord v.toNat) (fresh s) with
        count := { s.count with countdown := fset 0 s.count.countdown t.val (smInterval v.toNat) } } := ⟨_, rfl⟩
    rw [if_pos ⟨hstarts.1, by rw [hstarts.2]; exact Bool.false_ne_true⟩, ← hx] at hcase
    have hfields : x = { s with
        dict := x.dict, out := { status := stOk }
        count := { s.count with countdown := fset 0 s.count.countdown t.val (smInterval v.toNat) } } := by rw [hx]; rfl
    have hkeep : ∀ u k, getObj x u k = getObj (storeObj t.val Obj.preciseSampleControl (samplingWord v.toNat) (fresh s)) u k :=
      fun u k => by rw [hx]; exact getObj_congr rfl u k
    have hcount := ObjsOnly.set (K := fun u k => (u, k) ∈ [(t.val, Obj.preciseSampleControl), (t.val, Obj.preciseSampleCount)])
      (u := t.val) (k := Obj.preciseSampleCount) 0 (by decide) (by simp) x
    refine answers_of_kept (exec_preciseSampleControlWrite t v s) hcase (by rw [hfields]; rfl) (by rw [hfields]; rfl)
      ⟨by rw [hfields]; rfl, ?_, fun _ => ⟨?_, ?_⟩, fun hn => absurd hstarts hn, fun u k hk hn => ?_, by rw [hfields]; rfl⟩
    · rw [getObj_setObj_obj _ (by decide) (by decide) (by decide), hkeep, hstored]
    · rw [getObj_setObj_same, Nat.zero_mod]
    · rw [hfields]
      exact fget_fset_same _ _ _ _
    · exact (hcount.objs u k hk hn).trans ((hkeep u k).trans (hset.objs u k hk hn))
  · rw [if_neg (fun e => hstarts ⟨e.1, by simpa using e.2⟩)] at hcase
    refine answers_of_kept (exec_preciseSampleControlWrite t v s) hcase rfl rfl
      ⟨rfl, hstored, fun hp => absurd hp hstarts, fun _ => ⟨?_, rfl⟩, hset.otherObjects, rfl⟩
    exact getObj_setObj_obj (fresh s) (by decide) (by decide) (by decide)

end

/-! ### Software's entries in the trouble logs (R403) -/

section
variable {unit : BitVec 8} {v : BitVec 128} {s : State}

theorem logDropped_lt (u : Nat) : logDropped u < 2 ^ 24 := by
  unfold logDropped
  split <;> decide

theorem writeLog_ok (h : ¬ (64 < unit.toNat ∨ (unit.toNat < 64 ∧ present s unit.toNat = false))) :
    writeLog unit.toNat v.toNat (fresh s) =
      answer stOk (addLog unit.toNat 0x80 0 stOk (v.toNat / 2 ^ 64) (v.toNat % 2 ^ 64) (fresh s)) :=
  if_neg (fun e => h (e.imp id (fun hp => ⟨hp.1, Bool.eq_false_iff.mpr hp.2⟩)))

theorem answers_logged (h : ¬ (64 < unit.toNat ∨ (unit.toNat < 64 ∧ present s unit.toNat = false)))
    (hroom : (fget [] s.count.intake unit.toNat).length < 64) :
    Answers (.troubleLogWrite unit v) s (fun s' => s'.out = { status := stOk } ∧
      fget [] s'.count.intake unit.toNat = fget [] s.count.intake unit.toNat ++
        [⟨s.time.timeBase, 0, 0x80, 0, 0, unit.toNat, v.toNat % 2 ^ 64, v.toNat / 2 ^ 64⟩] ∧
      s' = { s with count := { s.count with intake := s'.count.intake }, out := s'.out }) := by
  have hlow : v.toNat % 2 ^ 64 % 2 ^ 64 = v.toNat % 2 ^ 64 := Nat.mod_mod _ _
  have hhigh : v.toNat / 2 ^ 64 % 2 ^ 64 = v.toNat / 2 ^ 64 := Nat.mod_eq_of_lt (by have := v.isLt; omega)
  have hlog : addLog unit.toNat 0x80 0 stOk (v.toNat / 2 ^ 64) (v.toNat % 2 ^ 64) (fresh s) = { fresh s with
        count := { s.count with intake := fset [] s.count.intake unit.toNat (fget [] s.count.intake unit.toNat ++
        [⟨s.time.timeBase, 0, 0x80, 0, 0, unit.toNat, v.toNat % 2 ^ 64, v.toNat / 2 ^ 64⟩]) } } := by
    unfold addLog
    rw [if_neg (show ¬ (fget [] (fresh s).count.intake unit.toNat).length ≥ 64 from Nat.not_le.mpr hroom), hlow, hhigh]
    rfl
  have hrun := writeLog_ok (v := v) h
  rw [hlog] at hrun
  exact answers_of_kept (exec_troubleLogWrite unit v s) hrun rfl rfl ⟨rfl, fget_fset_same _ _ _ _, rfl⟩

theorem answers_dropped (h : ¬ (64 < unit.toNat ∨ (unit.toNat < 64 ∧ present s unit.toNat = false)))
    (hfull : 64 ≤ (fget [] s.count.intake unit.toNat).length) :
    Answers (.troubleLogWrite unit v) s (fun s' =>
      getObj s' unit.toNat (logDropped unit.toNat) =
        (getObj s unit.toNat (logDropped unit.toNat) + 1) % 2 ^ objBits (logDropped unit.toNat) ∧
      OtherObjects s s' [(unit.toNat, logDropped unit.toNat)] ∧ s' = { s with dict := s'.dict, out := {} }) := by
  have hlog : addLog unit.toNat 0x80 0 stOk (v.toNat / 2 ^ 64) (v.toNat % 2 ^ 64) (fresh s) =
      bump unit.toNat (logDropped unit.toNat) 1 (fresh s) := if_pos hfull
  have hrun := writeLog_ok (v := v) h
  rw [hlog] at hrun
  have hset := ObjsOnly.set (K := fun u k => (u, k) ∈ [(unit.toNat, logDropped unit.toNat)]) (u := unit.toNat)
    (getObj (fresh s) unit.toNat (logDropped unit.toNat) + 1) (logDropped_lt unit.toNat) (by simp) (fresh s)
  exact answers_of_kept (exec_troubleLogWrite unit v s) hrun rfl rfl
    ⟨getObj_setObj_same (fresh s) _ _ _, hset.otherObjects, rfl⟩

end

/-- Settles O58: a bandwidth window port by port, a write of PreciseSampleControl, and a log entry that finds room or none. -/
theorem bandwidthSamplingAndLog : Obligations.BandwidthSamplingAndLog := by
  refine ⟨fun t s => ⟨fun h => ?_, fun h => ?_⟩, fun t v s => ⟨fun h => ?_, fun h => ?_⟩, fun unit v s => ⟨fun h => ?_, answers_logged, answers_dropped⟩⟩
  · exact noEffect_run (exec_bandwidthWindowEnd t s) (if_pos (by
      rw [getObj_fresh, show due (fresh s) t.val 7 _ = false from h]
      exact Bool.false_ne_true))
  · obtain ⟨s', hexec, hzero, hcut, hkept, hgives, hrest⟩ := answers_bandwidthWindowEnd h
    refine ⟨s', hexec, hzero, hcut, hkept, fun hc p hp => ?_, hrest⟩
    simpa only [bandwidths, windowGives, Prod.mk.injEq] using hgives hc p hp
  · exact refuses_run (exec_preciseSampleControlWrite t v s) (if_pos h)
  · obtain ⟨s', hexec, hout, hword, hrest⟩ := answers_preciseSampleControl h
    exact ⟨s', hexec, hout, fun i hi => by rw [hword, samplingWord, bit_samplingWord _ hi], hrest⟩
  · exact refuses_run (exec_troubleLogWrite unit v s) (if_pos (h.imp id (fun hp => ⟨hp.1, by
      rw [show present (fresh s) unit.toNat = false from hp.2]; exact Bool.false_ne_true⟩)))

end Sys2Proof.Machine

/-! ## Proofs: counters and the Report Card -/

namespace Sys2Proof.Machine

open Sys2Proof

/-! ### The tick up to its counters -/

/-- The objects a tick writes before it counts. -/
def tickIndices : List Nat := [0x982A, 0x7025, 0x7026, 0x4012, 0x7035, 0x6008]

/-- `s'` differs from `s` in no event that waits to be counted, and of the objects in those of times alone. -/
structure TickKept (s s' : State) : Prop where
  count : s'.count = s.count
  err : s'.sramErr = s.sramErr
  objs : ∀ u k, k < 2 ^ 24 → k / 256 ∉ tickIndices → getObj s' u k = getObj s u k

namespace TickKept
variable {a b c s : State}

theorem of_same (hd : b.dict = a.dict) (hc : b.count = a.count) (he : b.sramErr = a.sramErr) : TickKept a b :=
  ⟨hc, he, fun u k _ _ => getObj_congr hd u k⟩

theorem refl (s : State) : TickKept s s := of_same rfl rfl rfl

theorem trans (h : TickKept a b) (h' : TickKept b c) : TickKept a c :=
  ⟨h'.count.trans h.count, h'.err.trans h.err, fun u k hk hn => (h'.objs u k hk hn).trans (h.objs u k hk hn)⟩

theorem set {k : Nat} (u v : Nat) (hk : k < 2 ^ 24) (hi : k / 256 ∈ tickIndices) (s : State) : TickKept s (setObj u k v s) :=
  ⟨rfl, rfl, fun _ _ hj hn => getObj_setObj_index s (fun e => hn (e ▸ hi)) hj hk⟩

theorem ite (p : Prop) [Decidable p] (ha : TickKept s a) (hb : TickKept s b) : TickKept s (if p then a else b) := by
  split
  · exact ha
  · exact hb

theorem foldl {α : Type} {f : State → α → State} (hf : ∀ x i, TickKept x (f x i)) (l : List α) (s : State) :
    TickKept s (l.foldl f s) := by
  induction l generalizing s with
  | nil => exact refl s
  | cons i l ih => exact (hf s i).trans (ih _)

end TickKept

theorem tickKept_management (n : Nat) (s : State) : TickKept s (tickManagement n s) :=
  TickKept.ite _ (TickKept.foldl (fun _ t => TickKept.set t _ (by decide) (by decide) _) (List.range 64) s) (.refl s)

theorem tickKept_gate (t : Nat) (s : State) : TickKept s (tickGate t s) := by
  have hmod : ∀ f x, TickKept x (modTT t f x) := fun _ _ => .of_same rfl rfl rfl
  exact TickKept.ite _ (.refl s) ((hmod _ s).trans (hmod _ _))

theorem tickKept_gates (s : State) : TickKept s (tickGates s) :=
  TickKept.foldl (fun x (e : Nat × TTState) => tickKept_gate e.1 x) s.tt s

theorem tickKept_passes (s : State) : TickKept s (tickPasses s) := by
  have hset : ∀ t p v x, TickKept x (setPass t p v x) := fun _ _ _ _ => .of_same rfl rfl rfl
  have hbounds : ∀ tt l x, TickKept x (takeBounds tt l x) := fun tt l x =>
    TickKept.foldl (f := fun acc (e : Nat × Nat × Pass) => setPass e.1 e.2.1 { e.2.2 with
      computed := (boundOf x (weighWith x e.1 (tt e.1) none) e.2.2.terms).getD e.2.2.computed } acc)
      (fun y _ => hset _ _ _ y) l x
  exact TickKept.foldl (f := fun s (e : Nat × Pass) => finishRelease (e.1 / 256) (e.1 % 256) s)
    (fun x _ => TickKept.ite _ ((hset _ _ {} x).trans (hbounds _ _ _)) (.refl x)) _ s

theorem tickKept_thermal (t : Nat) (s : State) : TickKept s (tickThermal t s) := by
  have hthrottle : TickKept s (if (getSensor s t).u < 1000 then bump t Obj.thermalThrottleTime 10 s else s) :=
    TickKept.ite _ (TickKept.set _ _ (by decide) (by decide) s) (.refl s)
  unfold tickThermal
  dsimp only
  split
  · exact TickKept.ite _ (hthrottle.trans (TickKept.set _ _ (by decide) (by decide) _)) hthrottle
  · exact hthrottle

theorem tickKept_array (k : Nat) (s : State) : TickKept s (tickArray k s) := by
  have hkey : Obj.throttleTime + k % 4 < 2 ^ 24 ∧ (Obj.throttleTime + k % 4) / 256 = 0x4012 := by
    simp only [Obj.throttleTime]
    omega
  exact TickKept.ite _ (TickKept.set _ _ hkey.1 (hkey.2 ▸ by decide) s) (.refl s)

theorem tickKept_times (s : State) : TickKept s (tickTimes s) := by
  have hthermal := TickKept.foldl (fun x (e : Nat × SensorS) => tickKept_thermal e.1 x) s.sensor s
  have harray := hthermal.trans (TickKept.foldl (fun x (e : Nat × ArrayS) => tickKept_array e.1 x)
    (s.sensor.foldl (fun s e => tickThermal e.1 s) s).array _)
  exact TickKept.ite _ (harray.trans (TickKept.set _ _ (by decide) (by decide) _)) harray

/-- A step of the walks where every SRAM word stands as it was stored. -/
theorem tickKept_walk {s : State} (hs : s.sramErr = []) (t : Nat) : TickKept s (walkTick t s) := by
  unfold walkTick
  dsimp only
  rw [if_pos hs]
  exact TickKept.ite _ (.of_same rfl rfl rfl) (TickKept.ite _ (TickKept.set _ _ (by decide) (by decide) s) (.refl s))

theorem tickKept_walks {s : State} (hs : s.sramErr = []) : TickKept s (forTiles walkTick s) := by
  unfold forTiles
  suffices h : ∀ (l : List Nat) (x : State), x.sramErr = [] → TickKept x (l.foldl (fun s t => walkTick t s) x) from h _ s hs
  intro l
  induction l with
  | nil => exact fun x _ => .refl x
  | cons t l ih =>
    intro x hx
    have hstep := tickKept_walk hx t
    exact hstep.trans (ih _ (hstep.err.trans hx))

/-- A tick counts on a state whose events and counters are those before it. -/
theorem timeTick_counts {s : State} (hs : s.sramErr = []) : ∃ x, TickKept s x ∧ timeTick s = flushLogs (tickCounters x) := by
  have hfirst : TickKept s (if s.time.setPending.isSome then
      { ticked s with tt := fmapVal {} (movePending (ticked s).time.timeBase) s.tt } else ticked s) :=
    TickKept.ite _ (.of_same rfl rfl rfl) (.of_same rfl rfl rfl)
  have hall := (((hfirst.trans (tickKept_management s.time.elapsed _)).trans (tickKept_gates _)).trans (tickKept_passes _)).trans
    (tickKept_times _)
  exact ⟨_, hall.trans (tickKept_walks (hall.err.trans hs)), rfl⟩

/-! ### Counters at a tick (R396, R397, R405) -/

/-- An object that no counter of a unit and no log writes. -/
def apartFromCounts (k : Nat) : Prop :=
  k / 256 ≠ 0x8002 ∧ k / 256 ≠ 0x8003 ∧ k / 256 ≠ 0x8011 ∧ k / 256 ≠ 0x8012 ∧
  k / 256 ≠ 0x8050 ∧ k / 256 ≠ 0x8051 ∧ k / 256 ≠ 0x8052 ∧ k / 256 ≠ 0x8060 ∧ k / 256 ≠ 0x8061 ∧ k / 256 ≠ 0x8062

theorem getObj_ringHost (t b u k : Nat) (s : State) : getObj (ringHost t b s) u k = getObj s u k := by
  refine getObj_congr ?_ u k
  unfold ringHost ringSide countEv
  dsimp only
  split <;> rfl

theorem getObj_overflowed {u i w k : Nat} (hk : k < 2 ^ 24) (h3 : k ≠ Obj.counterOverflow) (h12 : k ≠ Obj.deviceCounterOverflow)
    (s : State) : getObj (overflowed u i s) w k = getObj s w k := by
  unfold overflowed
  dsimp only
  split
  · exact getObj_setObj_obj s h12 hk (by decide)
  · split
    · exact getObj_setObj_obj s h3 hk (by decide)
    · rw [getObj_ringHost]
      exact getObj_setObj_obj s h3 hk (by decide)

/-- The value object of a unit's counter. -/
def counterKey (u i : Nat) : Nat := (if u = dev then Obj.deviceCounterValue else Obj.counterValue) + i

theorem counterKey_lt (u : Nat) {i : Nat} (hi : i < 8) : counterKey u i < 2 ^ 24 := by
  unfold counterKey
  split
  · simp only [Obj.deviceCounterValue]; omega
  · simp only [Obj.counterValue]; omega

/-- A counter at a tick writes its value, and the unit's overflows. -/
theorem getObj_tickCounter {u n i carry w k : Nat} (hi : i < 8) (hk : k < 2 ^ 24) (h3 : k ≠ Obj.counterOverflow)
    (h12 : k ≠ Obj.deviceCounterOverflow) (hne : (w, k) ≠ (u, counterKey u i)) (evs : List EvCount) (s : State) :
    getObj (tickCounter u n i evs carry s).2 w k = getObj s w k := by
  have hset : ∀ v, getObj (setObj u (counterKey u i) v s) w k = getObj s w k := fun v =>
    getObj_setObj_other s fun e => hne (by
      obtain ⟨rfl, rfl⟩ := okey_inj hk (counterKey_lt u hi) e
      rfl)
  unfold tickCounter
  extract_lets sel val c add
  clear_value add
  split
  · rfl
  · split
    · exact hset _
    · split
      · exact hset _
      · exact (getObj_overflowed hk h3 h12 _).trans (hset _)

/-- What a tick adds to a counter of a tile in sum mode that counts no carries. -/
def tickAdds (evs : List EvCount) (t sel : Nat) : Nat :=
  sumOf ((evs.filter (fun e => decide (e.tile = t ∧ e.event = csEvent sel) &&
    (csAll sel || decide (e.qual = csQual sel)))).map (·.weight))

theorem counterValue_bits : ∀ i : Fin 8, objBits (Obj.counterValue + i.val) = 64 := by decide +kernel

/-- The counter itself. -/
theorem getObj_tickCounter_own {t i carry : Nat} {evs : List EvCount} {s : State} (ht : t ≠ dev) (hi : i < 8)
    (hen : csEnable (getObj s t (Obj.counterSelect + i)) = true) (hch : csChain (getObj s t (Obj.counterSelect + i)) = false)
    (hmode : csMode (getObj s t (Obj.counterSelect + i)) = 0) :
    getObj (tickCounter t 8 i evs carry s).2 t (Obj.counterValue + i) =
      if tickAdds evs t (getObj s t (Obj.counterSelect + i)) = 0 then getObj s t (Obj.counterValue + i)
      else (getObj s t (Obj.counterValue + i) + tickAdds evs t (getObj s t (Obj.counterSelect + i))) % 2 ^ 48 := by
  have hkey : Obj.counterValue + i < 2 ^ 24 ∧ Obj.counterValue + i ≠ Obj.counterOverflow ∧
      Obj.counterValue + i ≠ Obj.deviceCounterOverflow := by
    simp only [Obj.counterValue, Obj.counterOverflow, Obj.deviceCounterOverflow]
    omega
  obtain ⟨hlt, h3, h12⟩ := hkey
  have hsum : selAdd s evs t (getObj s t (Obj.counterSelect + i)) = tickAdds evs t (getObj s t (Obj.counterSelect + i)) :=
    if_pos hmode
  have hset : ∀ v, getObj (setObj t (Obj.counterValue + i) (v % 2 ^ 48) s) t (Obj.counterValue + i) = v % 2 ^ 48 := fun v =>
    getObj_setObj_fits s (by
      rw [counterValue_bits ⟨i, hi⟩]
      exact Nat.lt_trans (Nat.mod_lt _ (by decide)) (by decide))
  unfold tickCounter
  dsimp only
  rw [if_neg ht, if_neg ht, if_neg (not_not.mpr hen), hch, if_neg Bool.false_ne_true, if_neg ht, hsum]
  split
  · rfl
  · split
    · exact hset _
    · split
      · exact hset _
      · exact (getObj_overflowed hlt h3 h12 _).trans (hset _)

/-- The counters of a unit leave every object but its values and the overflows. -/
theorem getObj_tickUnit {u n w k : Nat} (hn : n ≤ 8) (hk : k < 2 ^ 24) (h3 : k ≠ Obj.counterOverflow)
    (h12 : k ≠ Obj.deviceCounterOverflow) (hne : ∀ i < n, (w, k) ≠ (u, counterKey u i)) (evs : List EvCount) (s : State) :
    getObj (tickUnit u n evs s) w k = getObj s w k := by
  unfold tickUnit
  suffices h : ∀ m ≤ n, getObj ((List.range m).foldl (fun (acc : Nat × State) i => tickCounter u n i evs acc.1 acc.2) (0, s)).2 w k =
      getObj s w k from h n le_rfl
  intro m
  induction m with
  | zero => exact fun _ => rfl
  | succ m ih =>
    intro hm
    rw [List.range_succ, List.foldl_append]
    exact (getObj_tickCounter (by omega) hk h3 h12 (hne m hm) evs _).trans (ih (by omega))

/-- The counters of a tile: the one named adds what its events give. -/
theorem getObj_tickUnit_own {t i : Nat} {evs : List EvCount} {s : State} (ht : t ≠ dev) (hi : i < 8)
    (hen : csEnable (getObj s t (Obj.counterSelect + i)) = true) (hch : csChain (getObj s t (Obj.counterSelect + i)) = false)
    (hmode : csMode (getObj s t (Obj.counterSelect + i)) = 0) :
    getObj (tickUnit t 8 evs s) t (Obj.counterValue + i) =
      if tickAdds evs t (getObj s t (Obj.counterSelect + i)) = 0 then getObj s t (Obj.counterValue + i)
      else (getObj s t (Obj.counterValue + i) + tickAdds evs t (getObj s t (Obj.counterSelect + i))) % 2 ^ 48 := by
  have hkeys : Obj.counterValue + i < 2 ^ 24 ∧ Obj.counterValue + i ≠ Obj.counterOverflow ∧
      Obj.counterValue + i ≠ Obj.deviceCounterOverflow ∧ Obj.counterSelect + i < 2 ^ 24 ∧
      Obj.counterSelect + i ≠ Obj.counterOverflow ∧ Obj.counterSelect + i ≠ Obj.deviceCounterOverflow ∧
      ∀ j < 8, Obj.counterSelect + i ≠ Obj.counterValue + j := by
    simp only [Obj.counterValue, Obj.counterOverflow, Obj.deviceCounterOverflow, Obj.counterSelect]
    exact ⟨by omega, by omega, by omega, by omega, by omega, by omega, fun j hj => by omega⟩
  obtain ⟨hval, hval3, hval12, hsel, hsel3, hsel12, hselval⟩ := hkeys
  have hown : ∀ j, counterKey t j = Obj.counterValue + j := fun j => congrArg (· + j) (if_neg ht)
  have hother : ∀ j < 8, (t, Obj.counterSelect + i) ≠ (t, counterKey t j) := fun j hj e =>
    hselval j hj ((Prod.mk.inj e).2.trans (hown j))
  unfold tickUnit
  suffices h : ∀ m ≤ 8, getObj ((List.range m).foldl (fun (acc : Nat × State) i => tickCounter t 8 i evs acc.1 acc.2) (0, s)).2 t
        (Obj.counterSelect + i) = getObj s t (Obj.counterSelect + i) ∧
      getObj ((List.range m).foldl (fun (acc : Nat × State) i => tickCounter t 8 i evs acc.1 acc.2) (0, s)).2 t (Obj.counterValue + i) =
        if m ≤ i ∨ tickAdds evs t (getObj s t (Obj.counterSelect + i)) = 0 then getObj s t (Obj.counterValue + i)
        else (getObj s t (Obj.counterValue + i) + tickAdds evs t (getObj s t (Obj.counterSelect + i))) % 2 ^ 48 by
    have hlast := (h 8 le_rfl).2
    simpa only [Nat.not_le.mpr hi, false_or] using hlast
  intro m
  induction m with
  | zero => exact fun _ => ⟨rfl, (if_pos (.inl (Nat.zero_le i))).symm⟩
  | succ m ih =>
    intro hm
    obtain ⟨hselect, hvalue⟩ := ih (by omega)
    rw [List.range_succ, List.foldl_append]
    generalize (List.range m).foldl (fun (acc : Nat × State) i => tickCounter t 8 i evs acc.1 acc.2) (0, s) = acc at hselect hvalue
    refine ⟨(getObj_tickCounter (by omega) hsel hsel3 hsel12 (hother m (by omega)) evs _).trans hselect, ?_⟩
    by_cases him : m = i
    · subst him
      refine (getObj_tickCounter_own ht hi (by rw [hselect]; exact hen) (by rw [hselect]; exact hch) (by rw [hselect]; exact hmode)).trans ?_
      have hbefore := hvalue.trans (if_pos (.inl le_rfl))
      rw [hselect, hbefore]
      simp only [Nat.not_succ_le_self, false_or]
    · refine (getObj_tickCounter (by omega) hval hval3 hval12 (fun e => him ?_) evs _).trans (hvalue.trans ?_)
      · have := (Prod.mk.inj e).2.trans (hown m)
        omega
      · simp only [show m + 1 ≤ i ↔ m ≤ i by omega]

/-- Counters and logs of the tick leave an object of another kind alone. -/
theorem getObj_takeLog {u w k : Nat} (hk : k < 2 ^ 24) (h50 : k / 256 ≠ 0x8050 ∧ k / 256 ≠ 0x8051 ∧ k / 256 ≠ 0x8052)
    (h60 : k / 256 ≠ 0x8060 ∧ k / 256 ≠ 0x8061 ∧ k / 256 ≠ 0x8062) (s : State) (e : LogEntry) :
    getObj (takeLog u s e) w k = getObj s w k := by
  have hkey : ∀ j ∈ [Obj.troubleLogHead, Obj.troubleLogConsumed, Obj.troubleLogLost], logObj u j < 2 ^ 24 ∧ k / 256 ≠ logObj u j / 256 := by
    simp only [List.mem_cons, List.not_mem_nil, or_false]
    unfold logObj
    rintro j (rfl | rfl | rfl) <;> split <;>
      simp only [Obj.troubleLogHead, Obj.troubleLogConsumed, Obj.troubleLogLost] <;> omega
  have hset : ∀ j ∈ [Obj.troubleLogHead, Obj.troubleLogConsumed, Obj.troubleLogLost], ∀ v x,
      getObj (setObj u (logObj u j) v x) w k = getObj x w k := fun j hj v x =>
    getObj_setObj_index x (hkey j hj).2 hk (hkey j hj).1
  unfold takeLog
  extract_lets head used behind counts s1 s2 s3 b
  have h2 : getObj s2 w k = getObj s w k :=
    (hset Obj.troubleLogHead (by simp) (head + 1) s1).trans (getObj_congr rfl w k)
  have h3 : getObj s3 w k = getObj s w k := by
    unfold s3
    split
    · exact ((hset Obj.troubleLogConsumed (by simp) _ _).trans (hset Obj.troubleLogLost (by simp) _ s2)).trans h2
    · exact h2
  split
  · exact (getObj_ringHost _ _ _ _ _).trans h3
  · exact h3

theorem getObj_flushLogs {w k : Nat} (hk : k < 2 ^ 24) (h50 : k / 256 ≠ 0x8050 ∧ k / 256 ≠ 0x8051 ∧ k / 256 ≠ 0x8052)
    (h60 : k / 256 ≠ 0x8060 ∧ k / 256 ≠ 0x8061 ∧ k / 256 ≠ 0x8062) (s : State) :
    getObj (flushLogs s) w k = getObj s w k := by
  have hinner : ∀ u (l : List LogEntry) x, getObj (l.foldl (takeLog u) x) w k = getObj x w k := by
    intro u l
    induction l with
    | nil => exact fun _ => rfl
    | cons e l ih => exact fun x => (ih _).trans (getObj_takeLog hk h50 h60 x e)
  unfold flushLogs
  generalize s.count.intake = l
  suffices h : ∀ x, getObj (l.foldl (fun s x => (sortBy (fun e => e.source * 256 + e.cause) x.2).foldl (takeLog x.1) s) x) w k =
      getObj x w k from (h _).trans (getObj_congr rfl w k)
  induction l with
  | nil => exact fun _ => rfl
  | cons e l ih => exact fun x => (ih _).trans (hinner _ _ _)

theorem getObj_tickCounters {x : State} {t i : Nat} (hload : x.count.loads = []) (ht : t < 64) (hi : i < 8)
    (hen : csEnable (getObj x t (Obj.counterSelect + i)) = true) (hch : csChain (getObj x t (Obj.counterSelect + i)) = false)
    (hmode : csMode (getObj x t (Obj.counterSelect + i)) = 0) :
    getObj (tickCounters x) t (Obj.counterValue + i) =
      if frozen x = true ∨ tickAdds x.count.events t (getObj x t (Obj.counterSelect + i)) = 0 then
        getObj x t (Obj.counterValue + i)
      else (getObj x t (Obj.counterValue + i) + tickAdds x.count.events t (getObj x t (Obj.counterSelect + i))) % 2 ^ 48 := by
  have htd : t ≠ dev := Nat.ne_of_lt ht
  have hkeys : Obj.counterValue + i < 2 ^ 24 ∧ Obj.counterValue + i ≠ Obj.counterOverflow ∧
      Obj.counterValue + i ≠ Obj.deviceCounterOverflow ∧ Obj.counterSelect + i < 2 ^ 24 ∧
      Obj.counterSelect + i ≠ Obj.counterOverflow ∧ Obj.counterSelect + i ≠ Obj.deviceCounterOverflow := by
    simp only [Obj.counterValue, Obj.counterOverflow, Obj.deviceCounterOverflow, Obj.counterSelect]
    omega
  obtain ⟨hval, hval3, hval12, hsel, hsel3, hsel12⟩ := hkeys
  obtain ⟨y, hy⟩ : ∃ y, y = { x with count := { x.count with loads := [], events := [] } } := ⟨_, rfl⟩
  have hydict : ∀ k, getObj y t k = getObj x t k := fun k => by rw [hy]; exact getObj_congr rfl t k
  have hrun : tickCounters x = if frozen y then y else
      tickUnit dev 4 x.count.events (forTiles (fun t s => tickUnit t 8 x.count.events s) y) := by
    rw [hy]
    unfold tickCounters
    rw [hload]
    rfl
  have hfrozen : frozen y = frozen x := by rw [hy]; rfl
  rw [hrun, hfrozen]
  split
  · next hf => rw [if_pos (.inl hf), hydict]
  · next hf =>
    have hdev : ∀ z, getObj (tickUnit dev 4 x.count.events z) t (Obj.counterValue + i) = getObj z t (Obj.counterValue + i) := fun z =>
      getObj_tickUnit (by decide) hval hval3 hval12 (fun j _ e => htd (Prod.mk.inj e).1) _ z
    have hother : ∀ u z, u ≠ t → ∀ k, k < 2 ^ 24 → k ≠ Obj.counterOverflow → k ≠ Obj.deviceCounterOverflow →
        getObj (tickUnit u 8 x.count.events z) t k = getObj z t k := fun u z hu k hk h3 h12 =>
      getObj_tickUnit le_rfl hk h3 h12 (fun j _ e => hu (Prod.mk.inj e).1.symm) _ z
    obtain ⟨z, hz, htile⟩ := foldl_range_around (f := fun s u => tickUnit u 8 x.count.events s)
      (part := fun z => (getObj z t (Obj.counterSelect + i), getObj z t (Obj.counterValue + i))) ht
      (fun z u _ hu => Prod.ext (hother u z hu _ hsel hsel3 hsel12) (hother u z hu _ hval hval3 hval12)) y
    obtain ⟨hzsel, hzval⟩ := Prod.mk.inj hz
    rw [hydict] at hzsel hzval
    refine (hdev _).trans ((Prod.mk.inj htile).2.trans ?_)
    rw [getObj_tickUnit_own htd hi (by rw [hzsel]; exact hen) (by rw [hzsel]; exact hch) (by rw [hzsel]; exact hmode), hzsel, hzval]
    simp only [hf, false_or, Bool.false_eq_true]

theorem answers_tickCounted {s : State} {t : TileN} {i : Fin 8} (hload : s.count.loads = []) (hs : s.sramErr = [])
    (hen : csEnable (getObj s t.val (Obj.counterSelect + i.val)) = true)
    (hch : csChain (getObj s t.val (Obj.counterSelect + i.val)) = false)
    (hmode : csMode (getObj s t.val (Obj.counterSelect + i.val)) = 0) :
    Answers .timeBaseTick s (fun s' => getObj s' t.val (Obj.counterValue + i.val) =
      if frozen s = true ∨ tickAdds s.count.events t.val (getObj s t.val (Obj.counterSelect + i.val)) = 0 then
        getObj s t.val (Obj.counterValue + i.val)
      else (getObj s t.val (Obj.counterValue + i.val) +
        tickAdds s.count.events t.val (getObj s t.val (Obj.counterSelect + i.val))) % 2 ^ 48) := by
  obtain ⟨x, hkept, htick⟩ := timeTick_counts (s := fresh s) hs
  have hi := i.isLt
  have hkeys : Obj.counterValue + i.val < 2 ^ 24 ∧ (Obj.counterValue + i.val) / 256 = 0x8002 ∧
      Obj.counterSelect + i.val < 2 ^ 24 ∧ (Obj.counterSelect + i.val) / 256 = 0x8001 := by
    simp only [Obj.counterValue, Obj.counterSelect]
    omega
  obtain ⟨hval, hvali, hsel, hseli⟩ := hkeys
  have hxsel : getObj x t.val (Obj.counterSelect + i.val) = getObj s t.val (Obj.counterSelect + i.val) :=
    hkept.objs _ _ hsel (hseli ▸ by decide)
  have hxval : getObj x t.val (Obj.counterValue + i.val) = getObj s t.val (Obj.counterValue + i.val) :=
    hkept.objs _ _ hval (hvali ▸ by decide)
  have hxfrozen : frozen x = frozen s := by
    have hobj : getObj x dev Obj.reportCardFrozen = getObj s dev Obj.reportCardFrozen := hkept.objs _ _ (by decide) (by decide)
    unfold frozen flag
    rw [hobj]
  have hcounted := getObj_tickCounters (x := x) (t := t.val) (i := i.val) (by rw [hkept.count]; exact hload) t.isLt hi
    (by rw [hxsel]; exact hen) (by rw [hxsel]; exact hch) (by rw [hxsel]; exact hmode)
  rw [hxsel, hxval, hxfrozen, hkept.count] at hcounted
  refine ⟨_, (exec_timeBaseTick s).trans (runTime_next timeTick s), ?_⟩
  refine Eq.trans ?_ hcounted
  rw [htick]
  exact getObj_flushLogs hval (hvali ▸ by decide) (hvali ▸ by decide) _

/-! ### Writes of the counters -/

/-- A selection or a load waits for the next tick. -/
theorem answers_loadLater {cmd : Instr} {f : State → State} {s : State} {u k v : Nat} (hexec : exec cmd s = run f s)
    (hf : f (fresh s) = answer stOk (loadLater u k v (fresh s))) :
    Answers cmd s (fun s' => s' = { s with
      count := { s.count with loads := s.count.loads ++ [(okey u k, v)] }, out := {} }) :=
  answers_of_kept hexec hf rfl rfl rfl

/-! ### Commands and the pin of the Report Card (R399) -/

theorem addCard_command (n : Nat) (s : State) : addCard ⟨n, s.time.elapsed + 100, false⟩ s = { s with
    count := { s.count with actions := s.count.actions ++
      (if (⟨n, s.time.elapsed + 100, true⟩ : CardAct) ∈ s.count.actions then [] else [⟨n, s.time.elapsed + 100, false⟩]) } } := by
  have hany : (s.count.actions.any (fun x => decide (x.action = n ∧ x.at_ = s.time.elapsed + 100 ∧ x.byPin ≠ false)) = true) ↔
      (⟨n, s.time.elapsed + 100, true⟩ : CardAct) ∈ s.count.actions := by
    rw [List.any_eq_true]
    constructor
    · rintro ⟨⟨a, w, b⟩, hmem, hx⟩
      obtain ⟨rfl, rfl, hb⟩ := of_decide_eq_true hx
      rwa [show b = true by simpa using hb] at hmem
    · exact fun hmem => ⟨_, hmem, by simp⟩
  unfold addCard
  by_cases hmem : (⟨n, s.time.elapsed + 100, true⟩ : CardAct) ∈ s.count.actions
  · rw [if_pos (hany.mpr hmem), if_pos hmem, List.append_nil]
  · rw [if_neg (fun e => hmem (hany.mp e)), if_neg hmem]

theorem answers_card {n : Nat} {cmd : Instr} {s : State} (hexec : exec cmd s = run (writeCard n) s) (hn : 1 ≤ n ∧ n ≤ 4) :
    Answers cmd s (fun s' => s' = { s with count := { s.count with actions := s'.count.actions }, out := {} } ∧
      s'.count.actions = s.count.actions ++
        (if (⟨n, s.time.elapsed + 100, true⟩ : CardAct) ∈ s.count.actions then [] else [⟨n, s.time.elapsed + 100, false⟩])) := by
  have hrun : writeCard n (fresh s) = answer stOk { fresh s with count := { s.count with actions := s.count.actions ++
      (if (⟨n, s.time.elapsed + 100, true⟩ : CardAct) ∈ s.count.actions then [] else [⟨n, s.time.elapsed + 100, false⟩]) } } := by
    unfold writeCard
    rw [if_neg (by omega)]
    exact congrArg (answer stOk) (addCard_command n (fresh s))
  exact answers_of_kept hexec hrun rfl rfl ⟨rfl, rfl⟩

/-- A pending action is there once it was added. -/
theorem addCard_adds (a : CardAct) (s : State) :
    addCard a s = { s with count := { s.count with actions := (addCard a s).count.actions } } ∧
    ∃ x ∈ (addCard a s).count.actions, x.action = a.action ∧ x.at_ = a.at_ := by
  unfold addCard
  split
  · next h =>
    obtain ⟨x, hmem, hx⟩ := List.any_eq_true.mp h
    obtain ⟨haction, hat, -⟩ := of_decide_eq_true hx
    exact ⟨rfl, x, hmem, haction, hat⟩
  · exact ⟨rfl, a, by simp, rfl, rfl⟩

/-- An edge of the pin adds an action, or nothing. -/
theorem snapEdge_fields (rising : Bool) (s : State) :
    snapEdge rising s = { s with count := { s.count with actions := (snapEdge rising s).count.actions } } := by
  unfold snapEdge
  dsimp only
  split
  · exact (addCard_adds _ s).1
  · exact (addCard_adds _ s).1
  · exact (addCard_adds _ s).1
  · rfl

theorem snapEdge_adds {rising : Bool} {s : State} {a : Nat} (h : (getObj s dev Obj.reportCardPinAction, rising, a) ∈
    ([(1, true, 1), (2, true, 2), (2, false, 3)] : List (Nat × Bool × Nat))) :
    ∃ x ∈ (snapEdge rising s).count.actions, x.action = a ∧ x.at_ = s.time.elapsed + 100 := by
  have hcases : snapEdge rising s = addCard ⟨a, s.time.elapsed + 100, true⟩ s := by
    simp only [List.mem_cons, Prod.mk.injEq, List.not_mem_nil, or_false] at h
    rcases h with ⟨hact, rfl, rfl⟩ | ⟨hact, rfl, rfl⟩ | ⟨hact, rfl, rfl⟩ <;>
    · unfold snapEdge
      rw [hact]
      rfl
  rw [hcases]
  exact (addCard_adds _ s).2

/-- The state after an edge of the pin was seen. -/
def pinSeen (rising : Bool) (s : State) : State := { s with count := { s.count with pin := rising } }

theorem answers_snapPin {rising : Bool} {s : State} (h : s.count.pin ≠ rising) :
    Answers (.snapPinEdge rising) s (fun s' => s'.count.pin = rising ∧
      s'.count.pinEdges = s.count.pinEdges ++ (if starting s && s.resets.warm then [rising] else []) ∧
      ((starting s && s.resets.warm) = true → s'.count.actions = s.count.actions) ∧
      ((starting s && s.resets.warm) = false → rising = false → s.count.actions.any (shortPulse s) = true →
        s'.count.actions = s.count.actions.filter (fun a => !shortPulse s a)) ∧
      (∀ a, (starting s && s.resets.warm) = false → (rising = false → s.count.actions.any (shortPulse s) = false) →
        (getObj s dev Obj.reportCardPinAction, rising, a) ∈ ([(1, true, 1), (2, true, 2), (2, false, 3)] : List (Nat × Bool × Nat)) →
        ∃ x ∈ s'.count.actions, x.action = a ∧ x.at_ = s.time.elapsed + 100) ∧
      s' = { s with count := s'.count, out := {} }) := by
  by_cases hlater : (starting s && s.resets.warm) = true
  · have hrun : snapPin rising (fresh s) = { pinSeen rising (fresh s) with
        count := { (pinSeen rising (fresh s)).count with pinEdges := s.count.pinEdges ++ [rising] } } :=
      (if_neg h).trans (if_pos (Bool.and_eq_true_iff.mp hlater))
    exact answers_of_kept (exec_snapPinEdge rising s) hrun rfl rfl ⟨rfl, by rw [if_pos hlater], fun _ => rfl,
      fun hn => absurd hlater (Bool.eq_false_iff.mp hn), fun _ hn => absurd hlater (Bool.eq_false_iff.mp hn), rfl⟩
  · have hnow : snapPin rising (fresh s) = if rising then snapEdge true (pinSeen rising (fresh s)) else snapFall (pinSeen rising (fresh s)) :=
      (if_neg h).trans (if_neg (fun e => hlater (Bool.and_eq_true_iff.mpr e)))
    have hnoEdge : s.count.pinEdges = s.count.pinEdges ++ (if starting s && s.resets.warm then [rising] else []) := by
      rw [if_neg hlater, List.append_nil]
    by_cases hshort : rising = false ∧ s.count.actions.any (shortPulse s) = true
    · obtain ⟨rfl, hany⟩ := hshort
      have hrun : snapPin false (fresh s) = { pinSeen false (fresh s) with
          count := { (pinSeen false (fresh s)).count with actions := s.count.actions.filter (fun a => !shortPulse s a) } } :=
        hnow.trans (if_pos hany)
      exact answers_of_kept (exec_snapPinEdge false s) hrun rfl rfl ⟨rfl, hnoEdge, fun hl => absurd hl hlater, fun _ _ _ => rfl,
        fun _ _ hn => absurd (hn rfl) (by rw [hany]; exact Bool.noConfusion), rfl⟩
    · have hrun : snapPin rising (fresh s) = snapEdge rising (pinSeen rising (fresh s)) := by
        rw [hnow]
        cases rising with
        | true => rfl
        | false => exact if_neg (fun hany => hshort ⟨rfl, hany⟩)
      have hfields := snapEdge_fields rising (pinSeen rising (fresh s))
      have hadds := fun a => snapEdge_adds (rising := rising) (s := pinSeen rising (fresh s)) (a := a)
      generalize snapEdge rising (pinSeen rising (fresh s)) = y at hrun hfields hadds
      refine answers_of_kept (exec_snapPinEdge rising s) hrun (by rw [hfields]; rfl) (by rw [hfields]; rfl)
        ⟨by rw [hfields]; rfl, ?_, fun hl => absurd hl hlater, fun _ hr hany => absurd ⟨hr, hany⟩ hshort,
          fun a _ _ hact => hadds a hact, by rw [hfields]; rfl⟩
      rw [← hnoEdge, hfields]
      rfl

/-! ### The Report Card's actions (R399) -/

/-- Objects of a run of `n` subindices of a unit. -/
def runOf (u k0 n : Nat) (w k : Nat) : Prop := w = u ∧ k0 ≤ k ∧ k < k0 + n

theorem objsOnly_run {u k0 n : Nat} {v : Nat → State → Nat} (hk : k0 + n ≤ 2 ^ 24) (s : State) :
    ObjsOnly (runOf u k0 n) s ((List.range n).foldl (fun s i => setObj u (k0 + i) (v i s) s) s) :=
  ObjsOnly.range (fun x i hi => ObjsOnly.set _ (by omega) ⟨rfl, by omega, by omega⟩ x) s

theorem objsOnly_runUnit {u : Nat} (k0 n : Nat) (v : Nat → State → Nat) (hk : k0 + n ≤ 2 ^ 24) (s : State) :
    ObjsOnly (fun w _ => w = u) s ((List.range n).foldl (fun s i => setObj u (k0 + i) (v i s) s) s) :=
  (objsOnly_run hk s).mono fun _ _ h => h.1

/-- A run of objects copied from another run of the unit. -/
theorem getObj_copied {u k0 j0 n b : Nat} (hk : k0 + n ≤ 2 ^ 24) (hj : j0 + n ≤ 2 ^ 24) (hapart : j0 + n ≤ k0 ∨ k0 + n ≤ j0)
    (hbits : ∀ i < n, objBits (k0 + i) = b) (s : State) : ∀ i < n,
    getObj ((List.range n).foldl (fun s i => setObj u (k0 + i) (getObj s u (j0 + i)) s) s) u (k0 + i) =
      getObj s u (j0 + i) % 2 ^ b :=
  foldl_range_puts (f := fun s i => setObj u (k0 + i) (getObj s u (j0 + i)) s) (g := fun i x => getObj x u (k0 + i))
    (v := fun i x => getObj x u (j0 + i) % 2 ^ b)
    (fun i x hi => by rw [getObj_setObj_same, hbits i hi])
    (fun i j x hi hj' hne => getObj_setObj_obj x (by omega) (by omega) (by omega))
    (fun i j x hi hj' hne => congrArg (· % 2 ^ b) (getObj_setObj_obj x (by omega) (by omega) (by omega))) s

/-- A run of objects cleared. -/
theorem getObj_cleared {u k0 n : Nat} (hk : k0 + n ≤ 2 ^ 24) (s : State) : ∀ i < n,
    getObj ((List.range n).foldl (fun s i => setObj u (k0 + i) 0 s) s) u (k0 + i) = 0 :=
  foldl_range_puts (f := fun s i => setObj u (k0 + i) 0 s) (g := fun i x => getObj x u (k0 + i)) (v := fun _ _ => 0)
    (fun i x _ => by rw [getObj_setObj_same, Nat.zero_mod])
    (fun i j x hi hj hne => getObj_setObj_obj x (by omega) (by omega) (by omega)) (fun _ _ _ _ _ _ => rfl) s

/-- What one tile's objects do in a walk over the tiles that writes each tile's own objects. -/
theorem forTiles_unit {f : Nat → State → State} (hf : ∀ u x, ObjsOnly (fun w _ => w = u) x (f u x)) {t : Nat} (ht : t < 64)
    (s : State) : ∃ x, x = { s with dict := x.dict } ∧ (∀ k < 2 ^ 24, getObj x t k = getObj s t k) ∧
      ∀ k < 2 ^ 24, getObj (forTiles f s) t k = getObj (f t x) t k := by
  obtain ⟨x, hx, hfold⟩ := foldl_range_around (f := fun s u => f u s)
    (part := fun z => ({ z with dict := [] } , fun k : Fin (2 ^ 24) => getObj z t k.val)) ht
    (fun z u _ hu => Prod.ext (by dsimp only; rw [(hf u z).fields])
      (funext fun k => (hf u z).objs t k.val k.isLt (fun e => hu e.symm))) s
  obtain ⟨hrest, hobjs⟩ := Prod.mk.inj hx
  refine ⟨x, ?_, fun k hk => congrFun hobjs ⟨k, hk⟩, fun k hk => congrFun (Prod.mk.inj hfold).2 ⟨k, hk⟩⟩
  have hdict : ∀ z : State, z = { ({ z with dict := [] } : State) with dict := z.dict } := fun _ => rfl
  rw [hdict x, hrest]

/-- The snapshot of a tile. -/
def snapTile (t : Nat) (s : State) : State :=
  (List.range 5).foldl (fun s p => setObj t (Obj.shadowPortBytes + p) (getObj s t (Obj.portBytesTotal + p)) s)
    ((List.range 8).foldl (fun s i => setObj t (Obj.shadowCounter + i) (getObj s t (Obj.counterValue + i)) s)
      (setObj t Obj.shadowFixed (fixedValue s t) (setObj t Obj.reportCardStamp s.time.timeBase s)))

theorem shadowWidths : (∀ i < 8, objBits (Obj.shadowCounter + i) = 64) ∧ (∀ i < 5, objBits (Obj.shadowPortBytes + i) = 64) ∧
    (∀ i < 4, objBits (Obj.shadowDeviceCounter + i) = 64) := by decide +kernel

theorem objsOnly_snapTile (t : Nat) (s : State) : ObjsOnly (fun w _ => w = t) s (snapTile t s) :=
  (((ObjsOnly.setUnit t _ (by decide) s).trans (ObjsOnly.setUnit t _ (by decide) _)).trans
    (objsOnly_runUnit Obj.shadowCounter 8 (fun i s => getObj s t (Obj.counterValue + i)) (by decide) _)).trans
    (objsOnly_runUnit Obj.shadowPortBytes 5 (fun i s => getObj s t (Obj.portBytesTotal + i)) (by decide) _)

/-- The shadows of a tile after its snapshot. -/
structure Snapped (t : Nat) (s s' : State) : Prop where
  stamp : getObj s' t Obj.reportCardStamp = s.time.timeBase % 2 ^ 64
  fixed : getObj s' t Obj.shadowFixed = fixedValue s t
  counter : ∀ i < 8, getObj s' t (Obj.shadowCounter + i) = getObj s t (Obj.counterValue + i) % 2 ^ 64
  bytes : ∀ p < 5, getObj s' t (Obj.shadowPortBytes + p) = getObj s t (Obj.portBytesTotal + p) % 2 ^ 64

theorem snapped_snapTile (t : Nat) (s : State) : Snapped t s (snapTile t s) := by
  obtain ⟨x1, h1⟩ : ∃ x, x = setObj t Obj.shadowFixed (fixedValue s t) (setObj t Obj.reportCardStamp s.time.timeBase s) := ⟨_, rfl⟩
  obtain ⟨x2, h2⟩ : ∃ x, x = (List.range 8).foldl
    (fun s i => setObj t (Obj.shadowCounter + i) (getObj s t (Obj.counterValue + i)) s) x1 := ⟨_, rfl⟩
  have hrun : snapTile t s = (List.range 5).foldl
      (fun s p => setObj t (Obj.shadowPortBytes + p) (getObj s t (Obj.portBytesTotal + p)) s) x2 := by rw [h2, h1]; rfl
  have hbefore2 : ∀ k < 2 ^ 24, ¬ (Obj.shadowCounter ≤ k ∧ k < Obj.shadowCounter + 8) → getObj x2 t k = getObj x1 t k :=
    fun k hk hn => h2 ▸ (objsOnly_run (v := fun i s => getObj s t (Obj.counterValue + i)) (by decide) x1).objs t k hk
      fun h => hn ⟨h.2.1, h.2.2⟩
  have hafter2 : ∀ k < 2 ^ 24, ¬ (Obj.shadowPortBytes ≤ k ∧ k < Obj.shadowPortBytes + 5) →
      getObj (snapTile t s) t k = getObj x2 t k :=
    fun k hk hn => hrun ▸ (objsOnly_run (v := fun i s => getObj s t (Obj.portBytesTotal + i)) (by decide) x2).objs t k hk
      fun h => hn ⟨h.2.1, h.2.2⟩
  have hfirst : ∀ k < 2 ^ 24, k ≠ Obj.shadowFixed → k ≠ Obj.reportCardStamp → getObj x1 t k = getObj s t k := fun k hk hf hs => by
    rw [h1, getObj_setObj_obj _ hf hk (by decide), getObj_setObj_obj _ hs hk (by decide)]
  obtain ⟨hwc, hwp, -⟩ := shadowWidths
  refine ⟨?_, ?_, fun i hi => ?_, fun p hp => ?_⟩
  · rw [hafter2 _ (by decide) (by decide), hbefore2 _ (by decide) (by decide), h1,
      getObj_setObj_obj _ (by decide) (by decide) (by decide), getObj_setObj_same]
    rfl
  · rw [hafter2 _ (by decide) (by decide), hbefore2 _ (by decide) (by decide), h1, getObj_setObj_same]
    exact Nat.mod_mod _ _
  · have hk : Obj.shadowCounter + i < 2 ^ 24 ∧ ¬ (Obj.shadowPortBytes ≤ Obj.shadowCounter + i ∧
        Obj.shadowCounter + i < Obj.shadowPortBytes + 5) ∧ Obj.counterValue + i < 2 ^ 24 ∧ Obj.counterValue + i ≠ Obj.shadowFixed ∧
        Obj.counterValue + i ≠ Obj.reportCardStamp := by
      simp only [Obj.shadowCounter, Obj.shadowPortBytes, Obj.counterValue, Obj.shadowFixed, Obj.reportCardStamp]
      omega
    obtain ⟨hlt, hout, hv, hf, hs⟩ := hk
    rw [hafter2 _ hlt hout, h2, getObj_copied (by decide) (by decide) (.inl (by decide)) hwc x1 i hi, hfirst _ hv hf hs]
  · have hk : ¬ (Obj.shadowCounter ≤ Obj.portBytesTotal + p ∧ Obj.portBytesTotal + p < Obj.shadowCounter + 8) ∧
        Obj.portBytesTotal + p < 2 ^ 24 ∧ Obj.portBytesTotal + p ≠ Obj.shadowFixed ∧ Obj.portBytesTotal + p ≠ Obj.reportCardStamp := by
      simp only [Obj.shadowCounter, Obj.portBytesTotal, Obj.shadowFixed, Obj.reportCardStamp]
      omega
    obtain ⟨hout, hv, hf, hs⟩ := hk
    rw [hrun, getObj_copied (by decide) (by decide) (.inl (by decide)) hwp x2 p hp, hbefore2 _ hv hout, hfirst _ hv hf hs]

/-- The device's part of a snapshot, over the tiles'. -/
def snapDevice (s : State) : State :=
  bump dev Obj.reportCardSeq 1 ((List.range 4).foldl (fun s i =>
    setObj dev (Obj.shadowDeviceCounter + i) (getObj s dev (Obj.deviceCounterValue + i)) s) s)

theorem snapshot_eq (s : State) : snapshot s = snapDevice (forTiles snapTile s) := rfl

theorem objsOnly_snapDevice (s : State) : ObjsOnly (fun w _ => w = dev) s (snapDevice s) :=
  (objsOnly_runUnit Obj.shadowDeviceCounter 4 (fun i s => getObj s dev (Obj.deviceCounterValue + i)) (by decide) s).trans
    (ObjsOnly.setUnit dev _ (by decide) _)

theorem objsOnly_forTiles {f : Nat → State → State} (hf : ∀ u x, ObjsOnly (fun w _ => w = u) x (f u x)) (s : State) :
    ObjsOnly (fun w _ => w < 64) s (forTiles f s) :=
  ObjsOnly.range (fun x t ht => (hf t x).mono fun _ _ h => h ▸ ht) s

/-- The tile's part of an action, whatever the device's part does after it. -/
theorem objs_of_tile {f : Nat → State → State} {g : State → State} (hf : ∀ u x, ObjsOnly (fun w _ => w = u) x (f u x))
    (hg : ∀ x, ObjsOnly (fun w _ => w = dev) x (g x)) {t : Nat} (ht : t < 64) (s : State) :
    ∃ x, x = { s with dict := x.dict } ∧ (∀ k < 2 ^ 24, getObj x t k = getObj s t k) ∧
      ∀ k < 2 ^ 24, getObj (g (forTiles f s)) t k = getObj (f t x) t k := by
  obtain ⟨x, hx, hbefore, hafter⟩ := forTiles_unit hf ht s
  exact ⟨x, hx, hbefore, fun k hk => ((hg _).objs t k hk (Nat.ne_of_lt ht)).trans (hafter k hk)⟩

theorem snapshot_spec (s : State) : snapshot s = { s with dict := (snapshot s).dict } ∧
    getObj (snapshot s) dev Obj.reportCardSeq = (getObj s dev Obj.reportCardSeq + 1) % 2 ^ 32 ∧
    (∀ i < 4, getObj (snapshot s) dev (Obj.shadowDeviceCounter + i) = getObj s dev (Obj.deviceCounterValue + i) % 2 ^ 64) ∧
    ∀ t < 64, Snapped t s (snapshot s) := by
  obtain ⟨x, hx⟩ : ∃ x, x = forTiles snapTile s := ⟨_, rfl⟩
  have htiles := objsOnly_forTiles objsOnly_snapTile s
  have hdev : ∀ k < 2 ^ 24, getObj x dev k = getObj s dev k := fun k hk => hx ▸ htiles.objs dev k hk (by decide)
  have hcopy := objsOnly_run (u := dev) (k0 := Obj.shadowDeviceCounter) (n := 4)
    (v := fun i s => getObj s dev (Obj.deviceCounterValue + i)) (by decide) x
  refine ⟨?_, ?_, fun i hi => ?_, fun t ht => ?_⟩
  · rw [snapshot_eq, (objsOnly_snapDevice _).fields, htiles.fields]
  · rw [snapshot_eq, ← hx, snapDevice, bump, getObj_setObj_same, hcopy.objs _ _ (by decide) (fun h => by
      obtain ⟨-, hlo, hhi⟩ := h
      revert hlo
      decide), hdev _ (by decide)]
    rfl
  · have hk : Obj.shadowDeviceCounter + i < 2 ^ 24 ∧ Obj.shadowDeviceCounter + i ≠ Obj.reportCardSeq ∧
        Obj.deviceCounterValue + i < 2 ^ 24 := by
      simp only [Obj.shadowDeviceCounter, Obj.reportCardSeq, Obj.deviceCounterValue]
      omega
    obtain ⟨hlt, hne, hv⟩ := hk
    obtain ⟨-, -, hw⟩ := shadowWidths
    rw [snapshot_eq, ← hx, snapDevice, bump, getObj_setObj_obj _ hne hlt (by decide),
      getObj_copied (by decide) (by decide) (.inl (by decide)) hw x i hi, hdev _ hv]
  · obtain ⟨y, hy, hbefore, hafter⟩ := objs_of_tile objsOnly_snapTile objsOnly_snapDevice ht s
    obtain ⟨hstamp, hfixed, hcounter, hbytes⟩ := snapped_snapTile t y
    refine ⟨?_, ?_, fun i hi => ?_, fun p hp => ?_⟩
    · rw [snapshot_eq, hafter _ (by decide), hstamp, hy]
    · rw [snapshot_eq, hafter _ (by decide), hfixed, hy]
      rfl
    · have hk : Obj.shadowCounter + i < 2 ^ 24 ∧ Obj.counterValue + i < 2 ^ 24 := by
        simp only [Obj.shadowCounter, Obj.counterValue]
        omega
      rw [snapshot_eq, hafter _ hk.1, hcounter i hi, hbefore _ hk.2]
    · have hk : Obj.shadowPortBytes + p < 2 ^ 24 ∧ Obj.portBytesTotal + p < 2 ^ 24 := by
        simp only [Obj.shadowPortBytes, Obj.portBytesTotal]
        omega
      rw [snapshot_eq, hafter _ hk.1, hbytes p hp, hbefore _ hk.2]

/-- What a clear does in a tile. -/
def zeroTile (t : Nat) (s : State) : State :=
  (List.range 5).foldl (fun s p => setObj t (Obj.portBytesTotal + p) 0 (setObj t (Obj.portBandwidthPeak + p) 0 s))
    (setObj t Obj.counterOverflow 0 ((List.range 8).foldl (fun s i => setObj t (Obj.counterValue + i) 0 s) s))

/-- What a clear does to the device's counters. -/
def zeroDevice (s : State) : State :=
  setObj dev Obj.deviceCounterOverflow 0 ((List.range 4).foldl (fun s i => setObj dev (Obj.deviceCounterValue + i) 0 s) s)

theorem clearCounters_eq (s : State) : clearCounters s = zeroDevice (forTiles zeroTile s) := rfl

/-- The ports' totals and peaks. -/
def portTotals (t w k : Nat) : Prop :=
  runOf t Obj.portBytesTotal 5 w k ∨ runOf t Obj.portBandwidthPeak 5 w k

theorem objsOnly_clearPort (t : Nat) {p : Nat} (hp : p < 5) (s : State) : ObjsOnly (portTotals t) s
    (setObj t (Obj.portBytesTotal + p) 0 (setObj t (Obj.portBandwidthPeak + p) 0 s)) := by
  have hk : Obj.portBytesTotal + p < 2 ^ 24 ∧ Obj.portBandwidthPeak + p < 2 ^ 24 := by
    simp only [Obj.portBytesTotal, Obj.portBandwidthPeak]
    omega
  exact (ObjsOnly.set _ hk.2 (.inr ⟨rfl, by omega, by omega⟩) s).trans (ObjsOnly.set _ hk.1 (.inl ⟨rfl, by omega, by omega⟩) _)

theorem getObj_clearPorts (t : Nat) (s : State) : ∀ p < 5,
    (getObj ((List.range 5).foldl (fun s p => setObj t (Obj.portBytesTotal + p) 0 (setObj t (Obj.portBandwidthPeak + p) 0 s)) s) t
      (Obj.portBytesTotal + p),
    getObj ((List.range 5).foldl (fun s p => setObj t (Obj.portBytesTotal + p) 0 (setObj t (Obj.portBandwidthPeak + p) 0 s)) s) t
      (Obj.portBandwidthPeak + p)) = (0, 0) := by
  have hk : ∀ p < 5, Obj.portBytesTotal + p < 2 ^ 24 ∧ Obj.portBandwidthPeak + p < 2 ^ 24 ∧
      ∀ q < 5, Obj.portBandwidthPeak + p ≠ Obj.portBytesTotal + q := by
    simp only [Obj.portBytesTotal, Obj.portBandwidthPeak]
    exact fun p hp => ⟨by omega, by omega, fun q hq => by omega⟩
  refine foldl_range_puts (g := fun p x => (getObj x t (Obj.portBytesTotal + p), getObj x t (Obj.portBandwidthPeak + p)))
    (v := fun _ _ => (0, 0)) (fun p x hp => ?_) (fun p q x hp hq hne => ?_) (fun _ _ _ _ _ _ => rfl) s
  · obtain ⟨htot, hpeak, hapart⟩ := hk p hp
    rw [getObj_setObj_same, getObj_setObj_obj _ (hapart p hp) hpeak htot, getObj_setObj_same, Nat.zero_mod, Nat.zero_mod]
  · obtain ⟨htot, hpeak, hapart⟩ := hk p hp
    obtain ⟨hqtot, hqpeak, hqapart⟩ := hk q hq
    rw [getObj_setObj_obj _ (by omega) htot hqtot, getObj_setObj_obj _ (hqapart p hp).symm htot hqpeak,
      getObj_setObj_obj _ (hapart q hq) hpeak hqtot, getObj_setObj_obj _ (by omega) hpeak hqpeak]

theorem objsOnly_zeroTile (t : Nat) (s : State) : ObjsOnly (fun w _ => w = t) s (zeroTile t s) :=
  ((objsOnly_runUnit Obj.counterValue 8 (fun _ _ => 0) (by decide) s).trans (ObjsOnly.setUnit t _ (by decide) _)).trans
    (ObjsOnly.range (fun x p hp => (objsOnly_clearPort t hp x).mono fun _ _ h => h.elim (·.1) (·.1)) _)

theorem objsOnly_zeroDevice (s : State) : ObjsOnly (fun w _ => w = dev) s (zeroDevice s) :=
  (objsOnly_runUnit Obj.deviceCounterValue 4 (fun _ _ => 0) (by decide) s).trans (ObjsOnly.setUnit dev _ (by decide) _)

/-- The counters of a tile after a clear. -/
structure Cleared (t : Nat) (s' : State) : Prop where
  overflow : getObj s' t Obj.counterOverflow = 0
  values : ∀ i < 8, getObj s' t (Obj.counterValue + i) = 0
  ports : ∀ p < 5, getObj s' t (Obj.portBytesTotal + p) = 0 ∧ getObj s' t (Obj.portBandwidthPeak + p) = 0

theorem cleared_zeroTile (t : Nat) (s : State) : Cleared t (zeroTile t s) := by
  obtain ⟨x, hx⟩ : ∃ x, x = (List.range 8).foldl (fun s i => setObj t (Obj.counterValue + i) 0 s) s := ⟨_, rfl⟩
  have hports : ∀ k < 2 ^ 24, ¬ portTotals t t k → getObj (zeroTile t s) t k = getObj (setObj t Obj.counterOverflow 0 x) t k :=
    fun k hk hn => hx ▸ (ObjsOnly.range (fun y p hp => objsOnly_clearPort t hp y) _).objs t k hk hn
  refine ⟨?_, fun i hi => ?_, fun p hp => Prod.mk.inj (getObj_clearPorts t _ p hp)⟩
  · rw [hports _ (by decide) (fun h => by rcases h with ⟨-, hlo, hhi⟩ | ⟨-, hlo, hhi⟩ <;> revert hlo <;> decide),
      getObj_setObj_same, Nat.zero_mod]
  · have hk : Obj.counterValue + i < 2 ^ 24 ∧ Obj.counterValue + i ≠ Obj.counterOverflow ∧
        Obj.counterValue + i < Obj.portBytesTotal ∧ Obj.counterValue + i < Obj.portBandwidthPeak := by
      simp only [Obj.counterValue, Obj.counterOverflow, Obj.portBytesTotal, Obj.portBandwidthPeak]
      omega
    obtain ⟨hlt, hne, htot, hpeak⟩ := hk
    rw [hports _ hlt (fun h => h.elim (fun e => Nat.not_le.mpr htot e.2.1) (fun e => Nat.not_le.mpr hpeak e.2.1)),
      getObj_setObj_obj _ hne hlt (by decide), hx, getObj_cleared (by decide) s i hi]

theorem clearCounters_spec (s : State) : clearCounters s = { s with dict := (clearCounters s).dict } ∧
    getObj (clearCounters s) dev Obj.deviceCounterOverflow = 0 ∧
    (∀ i < 4, getObj (clearCounters s) dev (Obj.deviceCounterValue + i) = 0) ∧ ∀ t < 64, Cleared t (clearCounters s) := by
  refine ⟨?_, ?_, fun i hi => ?_, fun t ht => ?_⟩
  · rw [clearCounters_eq, (objsOnly_zeroDevice _).fields, (objsOnly_forTiles objsOnly_zeroTile s).fields]
  · rw [clearCounters_eq, zeroDevice, getObj_setObj_same, Nat.zero_mod]
  · have hk : Obj.deviceCounterValue + i < 2 ^ 24 ∧ Obj.deviceCounterValue + i ≠ Obj.deviceCounterOverflow := by
      simp only [Obj.deviceCounterValue, Obj.deviceCounterOverflow]
      omega
    rw [clearCounters_eq, zeroDevice, getObj_setObj_obj _ hk.2 hk.1 (by decide), getObj_cleared (by decide) _ i hi]
  · obtain ⟨y, -, -, hafter⟩ := objs_of_tile objsOnly_zeroTile objsOnly_zeroDevice ht s
    obtain ⟨hover, hvalues, hports⟩ := cleared_zeroTile t y
    have hk : ∀ i < 8, Obj.counterValue + i < 2 ^ 24 ∧ (i < 5 → Obj.portBytesTotal + i < 2 ^ 24 ∧ Obj.portBandwidthPeak + i < 2 ^ 24) := by
      simp only [Obj.counterValue, Obj.portBytesTotal, Obj.portBandwidthPeak]
      omega
    refine ⟨?_, fun i hi => ?_, fun p hp => ?_⟩
    · rw [clearCounters_eq, hafter _ (by decide), hover]
    · rw [clearCounters_eq, hafter _ (hk i hi).1, hvalues i hi]
    · obtain ⟨htot, hpeak⟩ := (hk p (by omega)).2 hp
      rw [clearCounters_eq, hafter _ htot, hafter _ hpeak]
      exact hports p hp

/-- The state whose due actions are taken out of the queue. -/
def cardsTaken (s : State) : State :=
  { s with count := { s.count with actions := s.count.actions.filter (fun a => decide (s.time.elapsed < a.at_)) } }

theorem answers_cardApply {s : State} {a : CardAct} (h : s.count.actions.filter (fun a => decide (a.at_ ≤ s.time.elapsed)) = [a]) :
    Answers .reportCardApply s (fun s' =>
      s' = { s with
        dict := s'.dict, out := {}
        count := { s.count with actions := s.count.actions.filter (fun a => decide (s.time.elapsed < a.at_)) } } ∧
      (a.action = 1 → getObj s' dev Obj.reportCardSeq = (getObj s dev Obj.reportCardSeq + 1) % 2 ^ 32 ∧
        (∀ i < 4, getObj s' dev (Obj.shadowDeviceCounter + i) = getObj s dev (Obj.deviceCounterValue + i) % 2 ^ 64) ∧
        ∀ t < 64, Snapped t s s') ∧
      (a.action = 2 ∨ a.action = 3 → getObj s' dev Obj.reportCardFrozen = 3 - a.action ∧
        OtherObjects s s' [(dev, Obj.reportCardFrozen)]) ∧
      (a.action = 4 → getObj s' dev Obj.deviceCounterOverflow = 0 ∧ (∀ i < 4, getObj s' dev (Obj.deviceCounterValue + i) = 0) ∧
        ∀ t < 64, Cleared t s')) := by
  obtain ⟨y, hy⟩ : ∃ y, y = cardsTaken (fresh s) := ⟨_, rfl⟩
  have hrun : cardApply (fresh s) = applyCard a.action y := by
    have hdue : (fresh s).count.actions.filter (fun a => decide (a.at_ ≤ (fresh s).time.elapsed)) = [a] := h
    unfold cardApply
    rw [hdue, hy]
    rfl
  have hkeep : ∀ u k, getObj y u k = getObj s u k := fun u k => by rw [hy]; exact getObj_congr rfl u k
  have hfields : y = { s with
      dict := s.dict, out := {}
      count := { s.count with actions := s.count.actions.filter (fun a => decide (s.time.elapsed < a.at_)) } } := by
    rw [hy]
    rfl
  have hdict : applyCard a.action y = { y with dict := (applyCard a.action y).dict } := by
    unfold applyCard
    split
    · exact (snapshot_spec y).1
    · rfl
    · rfl
    · exact (clearCounters_spec y).1
  obtain ⟨z, hz⟩ : ∃ z, z = applyCard a.action y := ⟨_, rfl⟩
  rw [← hz] at hrun hdict
  refine answers_of_kept (exec_reportCardApply s) hrun (by rw [hdict, hfields]) (by rw [hdict, hfields])
    ⟨by rw [hdict, hfields], fun ha => ?_, fun ha => ?_, fun ha => ?_⟩
  · have hsnap : z = snapshot y := by rw [hz, ha]; rfl
    obtain ⟨-, hseq, hdev, htiles⟩ := snapshot_spec y
    rw [← hsnap] at hseq hdev htiles
    rw [hkeep] at hseq
    refine ⟨hseq, fun i hi => (hdev i hi).trans (by rw [hkeep]), fun t ht => ?_⟩
    obtain ⟨hstamp, hfixed, hcounter, hbytes⟩ := htiles t ht
    refine ⟨?_, ?_, fun i hi => (hcounter i hi).trans (by rw [hkeep]), fun p hp => (hbytes p hp).trans (by rw [hkeep])⟩
    · rw [hstamp, hfields]
    · rw [hfixed, hfields]
      rfl
  · have hset : z = setObj dev Obj.reportCardFrozen (3 - a.action) y := by
      rw [hz]
      rcases ha with ha | ha <;> rw [ha] <;> rfl
    have hbits : (3 - a.action) < 2 ^ objBits Obj.reportCardFrozen := by
      rcases ha with ha | ha <;> rw [ha] <;> decide
    have hothers := (ObjsOnly.set (K := fun u k => (u, k) ∈ [(dev, Obj.reportCardFrozen)]) (u := dev)
      (k := Obj.reportCardFrozen) (3 - a.action)
      (by decide) (by simp) y).otherObjects
    rw [hset]
    exact ⟨getObj_setObj_fits y hbits, fun u k hk hn => (hothers u k hk hn).trans (hkeep u k)⟩
  · have hclear : z = clearCounters y := by rw [hz, ha]; rfl
    obtain ⟨-, hover, hdev, htiles⟩ := clearCounters_spec y
    rw [hclear]
    exact ⟨hover, hdev, htiles⟩

/-- Settles O57: a load waits (`loadLater`), a tick counts (`tickUnit`), a card action waits (`addCard`) and is applied. -/
theorem countersAndReportCard : Obligations.CountersAndReportCard := by
  refine ⟨fun t i v s => ⟨fun h => ?_, fun h => ?_, ?_, ?_, fun hload hs hen hch hmode => answers_tickCounted hload hs hen hch hmode⟩,
    fun n cmd s hcmd => ?_, fun rising s => ⟨fun h => ?_, answers_snapPin⟩, fun s => ⟨fun h => ?_, fun a h => ?_⟩⟩
  · exact refuses_run (exec_counterSelectWrite t i v s) (if_pos h)
  · exact answers_loadLater (exec_counterSelectWrite t i v s) (if_neg (Bool.eq_false_iff.mp h))
  · exact answers_loadLater (exec_counterValueWrite t i v s) rfl
  · exact answers_loadLater (exec_counterFixedWrite t v s) rfl
  · simp only [List.mem_cons, Prod.mk.injEq, List.not_mem_nil, or_false] at hcmd
    rcases hcmd with ⟨rfl, rfl⟩ | ⟨rfl, rfl⟩ | ⟨rfl, rfl⟩ | ⟨rfl, rfl⟩
    · exact answers_card (exec_reportCardSnapshot s) (by decide)
    · exact answers_card (exec_reportCardFreeze s) (by decide)
    · exact answers_card (exec_reportCardThaw s) (by decide)
    · exact answers_card (exec_reportCardClear s) (by decide)
  · exact noEffect_run (exec_snapPinEdge rising s) (if_pos h)
  · refine noEffect_run (exec_reportCardApply s) ?_
    have hdue : (fresh s).count.actions.filter (fun a => decide (a.at_ ≤ (fresh s).time.elapsed)) = [] := h
    have hrest : s.count.actions.filter (fun a => decide (s.time.elapsed < a.at_)) = s.count.actions := by
      refine List.filter_eq_self.mpr fun a ha => ?_
      have hlate := List.filter_eq_nil_iff.mp h a ha
      simpa using hlate
    unfold cardApply
    rw [hdue]
    show cardsTaken (fresh s) = fresh s
    unfold cardsTaken
    rw [show (fresh s).count.actions.filter (fun a => decide ((fresh s).time.elapsed < a.at_)) = s.count.actions from hrest]
    rfl
  · obtain ⟨s', hexec, hfields, hsnap, hfrozen, hclear⟩ := answers_cardApply h
    refine ⟨s', hexec, hfields, fun ha => ?_, hfrozen, fun ha => ?_⟩
    · obtain ⟨hseq, hdev, htiles⟩ := hsnap ha
      refine ⟨hseq, hdev, fun t ht => ?_⟩
      obtain ⟨hstamp, hfixed, hcounter, hbytes⟩ := htiles t ht
      exact ⟨hstamp, hfixed, hcounter, hbytes⟩
    · obtain ⟨hover, hdev, htiles⟩ := hclear ha
      refine ⟨hover, hdev, fun t ht => ?_⟩
      obtain ⟨hoverflow, hvalues, hports⟩ := htiles t ht
      exact ⟨hoverflow, hvalues, hports⟩

end Sys2Proof.Machine

/-! ## Proofs: rights and unlocking -/

namespace Sys2Proof.Machine

open Sys2Proof

section
variable {node level scope : Nat} {proof : List Nat} {s : State}

/-! ### UNLOCK_BEGIN -/

theorem unlockBegin_nonce (h : lockedOut s node = false) (h1 : 1 ≤ level) (h3 : level ≤ 3) :
    ∃ n : Nonce, (unlockBegin node level scope s).1 = ⟨stOk, 0, leBytes 8 n.value⟩ ∧ n.node = node ∧ n.level = level ∧
      n.scope = scope ∧ n.expiry = s.time.elapsed + 1000000000 ∧
      (unlockBegin node level scope s).2.field.nonces = n :: s.field.nonces.filter (fun m => m.node ≠ node) := by
  unfold unlockBegin
  rw [if_neg (Bool.eq_false_iff.mp h), if_neg (by omega)]
  exact ⟨⟨node, level, scope, (draw s).1 % 2 ^ 64, s.time.elapsed + 1000000000⟩, rfl, rfl, rfl, rfl, rfl, rfl⟩

/-! ### UNLOCK_PROVE -/

/-- The state whose nonces of the node are used up. -/
def noncesUsed (node : Nat) (s : State) : State :=
  { s with field := { s.field with nonces := s.field.nonces.filter (fun m => m.node ≠ node) } }

/-- A wrong proof is counted and takes no rights. -/
theorem wrongProof_spec (node : Nat) (s : State) : (wrongProof node s).field.nonces = s.field.nonces ∧
    (wrongProof node s).field.grants = s.field.grants ∧
    getObj (wrongProof node s) dev Obj.unlockFailures = (getObj s dev Obj.unlockFailures + 1) % 2 ^ 32 := by
  have hcount : getObj (bump dev Obj.unlockFailures 1 s) dev Obj.unlockFailures = (getObj s dev Obj.unlockFailures + 1) % 2 ^ 32 :=
    getObj_setObj_same s dev Obj.unlockFailures _
  unfold wrongProof
  extract_lets s1 now l
  split
  · have hlog := side_addLog dev 0x0A 3 stOk node 0 { s1 with field := { s1.field with
      wrong := l.filter (fun e => e.1 ≠ node)
      locked := (node, now + 60000000000) :: s1.field.locked.filter (fun e => e.1 ≠ node) } }
    refine ⟨?_, ?_, (hlog.objs dev Obj.unlockFailures (by decide) (by decide)).trans ((getObj_congr rfl _ _).trans hcount)⟩ <;>
    · rw [hlog.fields]
      rfl
  · exact ⟨rfl, rfl, (getObj_congr rfl _ _).trans hcount⟩

theorem grantRights_nonces (n : Nonce) (s : State) : (grantRights n s).field.nonces = s.field.nonces := rfl

/-- The nonce in force that a node proves. -/
def nonceOf (s : State) (node : Nat) : Option Nonce :=
  s.field.nonces.find? (fun m => m.node = node && decide (s.time.elapsed ≤ m.expiry))

theorem nonceOf_node {n : Nonce} (h : nonceOf s node = some n) : n.node = node := by
  have hn := List.find?_some h
  simp only [Bool.and_eq_true, decide_eq_true_eq] at hn
  exact hn.1

theorem unlockProve_uses (h : lockedOut s node = false) :
    (unlockProve node proof s).2.field.nonces = s.field.nonces.filter (fun m => m.node ≠ node) := by
  unfold unlockProve
  rw [if_neg (Bool.eq_false_iff.mp h)]
  dsimp only
  split
  · exact (wrongProof_spec node (noncesUsed node s)).1
  · split
    · exact (wrongProof_spec node (noncesUsed node s)).1
    · split
      · rfl
      · exact grantRights_nonces _ _

theorem unlockProve_wrong {n : Nonce} (h : lockedOut s node = false) (hn : nonceOf s node = some n) (hp : proof ≠ proofOf s n) :
    unlockProve node proof s = (⟨stAccessDenied, 0, []⟩, wrongProof node (noncesUsed node s)) := by
  unfold nonceOf at hn
  unfold unlockProve
  rw [if_neg (Bool.eq_false_iff.mp h), hn]
  exact if_pos hp

theorem unlockProve_right {n : Nonce} (h : lockedOut s node = false) (hn : nonceOf s node = some n) (hp : proof = proofOf s n)
    (hroom : (s.field.grants.filter (fun g => decide (g.node ≠ node) && grantLive s g)).length < 16) :
    unlockProve node proof s = (⟨stOk, 0, []⟩, grantRights n (noncesUsed node s)) := by
  unfold nonceOf at hn
  unfold unlockProve
  rw [if_neg (Bool.eq_false_iff.mp h), hn]
  exact (if_neg (not_not.mpr hp)).trans (if_neg (Nat.not_le.mpr hroom))

/-- A new grant gives its node its level and scope while the lease is not of length 0. -/
theorem nodeWho_grantRights {n : Nonce} (hnode : n.node = node) (hlease : getObj s dev Obj.rightsLease ≠ 0) :
    nodeWho (grantRights n s) node = { level := n.level, scope := if 2 ≤ n.level then 0 else n.scope, src := node } := by
  have hlive : s.time.elapsed < s.time.elapsed + getObj s dev Obj.rightsLease * 1000000000 := by omega
  have hfirst : (decide (n.node = node) && grantLive (grantRights n s)
      ⟨n.node, n.level, if n.level ≥ 2 then 0 else n.scope, s.time.elapsed⟩) = true :=
    Bool.and_eq_true_iff.mpr ⟨decide_eq_true hnode, decide_eq_true hlive⟩
  have hfind : (grantRights n s).field.grants.find? (fun g => g.node = node && grantLive (grantRights n s) g) =
      some ⟨n.node, n.level, if n.level ≥ 2 then 0 else n.scope, s.time.elapsed⟩ := List.find?_cons_of_pos hfirst
  unfold nodeWho
  rw [hfind]

/-! ### LOGOUT and the end of a lease -/

theorem nodeWho_dropGrant (node : Nat) (s : State) : (nodeWho (dropGrant node s) node).level = 0 := by
  unfold nodeWho
  rw [List.find?_eq_none.mpr]
  intro g hg
  have hkept : g.node ≠ node := by simpa [dropGrant] using (List.mem_filter.mp hg).2
  simp [hkept]

end

theorem leaseOver_iff (node : Nat) (s : State) : (s.field.grants.any (fun g => g.node = node && !grantLive s g) = true) ↔
    ∃ g ∈ s.field.grants, g.node = node ∧ grantLive s g = false := by
  simp

/-- Settles O46: UNLOCK_BEGIN and UNLOCK_PROVE by their branches, and the ways a grant ends. -/
theorem rightsAndUnlocking : Obligations.RightsAndUnlocking := by
  refine ⟨fun node level scope s => ⟨fun h => if_pos h, fun h hlevel => ?_, unlockBegin_nonce⟩,
    fun node proof s => ⟨fun h => if_pos h, unlockProve_uses, fun n h hn => ⟨fun hp => ?_, fun hp hroom hlease => ?_⟩⟩,
    fun node s => ⟨nodeWho_dropGrant _ _, fun h => ?_, fun h => ?_⟩⟩
  · exact (if_neg (Bool.eq_false_iff.mp h)).trans (if_pos hlevel)
  · obtain ⟨-, hgrants, hcount⟩ := wrongProof_spec node (noncesUsed node s)
    rw [unlockProve_wrong h hn hp]
    exact ⟨rfl, hgrants, hcount⟩
  · rw [unlockProve_right h hn hp hroom]
    exact ⟨rfl, nodeWho_grantRights (s := noncesUsed node s) (nonceOf_node hn) hlease⟩
  · refine noEffect_run (exec_rightsLeaseExpiry node s) (if_neg fun hany => ?_)
    obtain ⟨g, hg, hnode, hover⟩ := (leaseOver_iff node.toNat (fresh s)).mp hany
    obtain hother | hlive := h g hg
    · exact hother hnode
    · exact absurd (hover.symm.trans hlive) Bool.false_ne_true
  · have hrun : leaseExpiry node.toNat (fresh s) = dropGrant node.toNat (fresh s) :=
      if_pos ((leaseOver_iff node.toNat (fresh s)).mpr h)
    exact answers_of_kept (exec_rightsLeaseExpiry node s) hrun rfl rfl ⟨rfl, rfl⟩

end Sys2Proof.Machine

/-! ## Proofs: Roll Call -/

namespace Sys2Proof.Machine

open Sys2Proof

/-! ### Frames that count -/

/-- The state in which a Roll Call frame is counted. -/
def rollCounted (s : State) : State := countEv dev 0x0100 0 1 (bump dev Obj.framesReceived 1 s)

/-- A Roll Call frame counts: it comes from the coordinator to node 0 in its form (R343). -/
structure RollForm (s : State) (op id : Nat) (l : List Nat) : Prop where
  busOff : s.field.busOff = false
  short : l.length ≤ 64
  opcode : hdOp (headerOf l) = op
  seg : idSeg id = 0
  kind : idKind id = 3
  src : idSrc id = getObj s dev Obj.coordinatorNode
  dest : idDest id = 0
  plain : plainHeader (headerOf l) = true
  len : hdLength (headerOf l) = rollLength op
  long : 8 + rollLength op ≤ l.length

theorem rollForm_of {s : State} {op id : Nat} {l : List Nat} (h : decide (s.field.busOff = false ∧ l.length ≤ 64 ∧
      hdOp (headerOf l) = op ∧ idSeg id = 0 ∧ idKind id = 3 ∧ idSrc id = getObj s dev Obj.coordinatorNode ∧ idDest id = 0 ∧
      plainHeader (headerOf l) = true ∧ hdLength (headerOf l) = rollLength op ∧ 8 + rollLength op ≤ l.length) = true) :
    RollForm s op id l := by
  obtain ⟨hoff, hshort, hop, hseg, hkind, hsrc, hdest, hplain, hlen, hlong⟩ := of_decide_eq_true h
  exact ⟨hoff, hshort, hop, hseg, hkind, hsrc, hdest, hplain, hlen, hlong⟩

/-- A frame of the form goes to its rule. -/
theorem RollForm.runs {s : State} {op id : Nat} {l : List Nat} (h : RollForm s op id l) (f : List Nat → State → State) :
    rollFrame op id l f s = f ((l.drop 8).take (hdLength (headerOf l))) (rollCounted s) := by
  have hlong := h.long
  unfold rollFrame
  dsimp only
  rw [if_neg (by simp [h.busOff, Nat.not_lt.mpr h.short, h.opcode, h.seg]; omega), if_neg (by rw [h.kind]; decide), if_neg, h.len]
  · rfl
  · simp [h.kind, h.src, h.dest, h.plain, h.len, Nat.not_lt.mpr h.long]

/-- The effect of a frame that counts, but for what it sends. -/
def RollCounts (s s' : State) (K : List (Nat × Nat)) (f : FieldS) : Prop := s'.field = f ∧
  getObj s' dev Obj.framesReceived = (getObj s dev Obj.framesReceived + 1) % 2 ^ 64 ∧
  OtherObjects s s' ((dev, Obj.framesReceived) :: K) ∧
  s' = { s with field := f, dict := s'.dict, count := { s.count with events := s'.count.events }, out := s'.out }

section
variable {s x : State} {K : List (Nat × Nat)} {f : FieldS}

theorem rollCounts_counted (s : State) : RollCounts s (rollCounted (fresh s)) [] s.field := by
  have hset := ObjsOnly.set (K := fun u k => (u, k) ∈ [(dev, Obj.framesReceived)]) (u := dev) (k := Obj.framesReceived)
    (getObj s dev Obj.framesReceived + 1) (by decide) (by simp) (fresh s)
  have hevents : ∀ y, countEv dev 0x0100 0 1 y = { y with count := { y.count with events := y.count.events ++ [⟨dev, 0x0100, 0, 1⟩] } } :=
    fun _ => rfl
  unfold rollCounted
  rw [hevents]
  exact ⟨rfl, getObj_setObj_same (fresh s) dev Obj.framesReceived _, hset.otherObjects, rfl⟩

theorem RollCounts.withField (h : RollCounts s x K f) (g : FieldS) : RollCounts s { x with field := g } K g := by
  obtain ⟨-, hcount, hothers, hrest⟩ := h
  refine ⟨rfl, hcount, hothers, ?_⟩
  generalize x.dict = d, x.count.events = e, x.out = o at hrest
  rw [hrest]

theorem RollCounts.withOut (h : RollCounts s x K f) (o : Out) : RollCounts s { x with out := o } K f := by
  obtain ⟨hfield, hcount, hothers, hrest⟩ := h
  refine ⟨hfield, hcount, hothers, ?_⟩
  generalize x.dict = d, x.count.events = e, x.out = o' at hrest
  rw [hrest]

theorem RollCounts.set (h : RollCounts s x K f) {k : Nat} (v : Nat) (hk : k < 2 ^ 24) (hne : k ≠ Obj.framesReceived) :
    RollCounts s (setObj dev k v x) (K ++ [(dev, k)]) f := by
  obtain ⟨hfield, hcount, hothers, hrest⟩ := h
  refine ⟨hfield, (getObj_setObj_obj x hne.symm (by decide) hk).trans hcount, fun u j hj hn => ?_, ?_⟩
  · have hin : (u, j) ∉ (dev, Obj.framesReceived) :: K := fun e => hn (by simp only [List.mem_cons, List.mem_append] at e ⊢; tauto)
    refine (getObj_setObj_other x fun e => hn ?_).trans (hothers u j hj hin)
    obtain ⟨rfl, rfl⟩ := okey_inj hj hk e
    simp
  · have hset : setObj dev k v x = { x with dict := (setObj dev k v x).dict } := rfl
    generalize (setObj dev k v x).dict = d' at hset
    generalize x.dict = d, x.count.events = e, x.out = o' at hrest
    rw [hset, hrest]

/-- A Roll Call frame sent. -/
def rollSent (s : State) (id src op : Nat) (b : List Nat) : List Frame :=
  [⟨frameId (idPrio id) 3 (getObj s dev Obj.coordinatorNode) src (idTag id) 0,
    padFrame (leBytes 8 (frameHeader b.length 0 0 0 0 op) ++ b)⟩]

/-- A Roll Call answer goes out and is counted. -/
theorem RollCounts.sends (h : RollCounts s x K f) (hout : x.out = {}) (hoff : f.busOff = false)
    (hcoord : getObj x dev Obj.coordinatorNode = getObj s dev Obj.coordinatorNode) (id op : Nat) (b : List Nat) :
    RollCounts s (sendRoll id op b x) (K ++ [(dev, Obj.framesSent)]) f ∧
    (sendRoll id op b x).out.frames = rollSent s id (nodeAddr x) op b ∧
    (∀ k, k < 2 ^ 24 → k ≠ Obj.framesSent → getObj (sendRoll id op b x) dev k = getObj x dev k) := by
  have hbus : x.field.busOff = false := by rw [h.1]; exact hoff
  obtain ⟨y, hy⟩ : ∃ y : State, y = { x with out := { x.out with frames := x.out.frames ++ rollSent s id (nodeAddr x) op b } } := ⟨_, rfl⟩
  have hsend : sendRoll id op b x = setObj dev Obj.framesSent (getObj y dev Obj.framesSent + 1) y := by
    unfold sendRoll sendFrame
    rw [if_neg (Bool.eq_false_iff.mp hbus), hy, hcoord]
    rfl
  have hyx : RollCounts s y K f := hy ▸ h.withOut _
  rw [hsend]
  refine ⟨hyx.set _ (by decide) (by decide), ?_, fun k hk hne => ?_⟩
  · rw [setObj, hy, hout]
    rfl
  · rw [getObj_setObj_obj y hne hk (by decide), hy]
    exact getObj_congr rfl _ _

end

/-! ### The frames -/

section
variable {id : BitVec 29} {frame : List Byte} {rollIn : Bool} {s : State}

theorem getObj_rollCounted {k : Nat} (hk : k < 2 ^ 24) (hne : k ≠ Obj.framesReceived) :
    getObj (rollCounted (fresh s)) dev k = getObj s dev k :=
  (getObj_congr rfl dev k).trans (getObj_setObj_obj (fresh s) hne hk (by decide))

theorem out_rollCounted (s : State) : (rollCounted (fresh s)).out = {} := rfl

/-- A command whose effect is known answers what the effect meets. -/
theorem answers_counts {cmd : Instr} {g : State → State} {y : State} {K : List (Nat × Nat)} {f : FieldS} {P : State → Prop}
    (hexec : exec cmd s = run g s) (hrun : g (fresh s) = y) (h : RollCounts s y K f) (hP : P y) :
    Answers cmd s (fun s' => RollCounts s s' K f ∧ P s') := by
  obtain ⟨hfield, hcount, hothers, hrest⟩ := h
  have hpend : y.pending = s.pending := by rw [hrest]
  have htime : y.time = s.time := by rw [hrest]
  exact answers_of_kept hexec hrun hpend htime ⟨⟨hfield, hcount, hothers, hrest⟩, hP⟩

theorem noEffect_busOff (h : s.field.busOff = true) (op : Nat) (g : List Nat → State → State) :
    rollFrame op id.toNat (byteNats frame) g (fresh s) = fresh s := if_pos (.inl h)

theorem answers_startFresh (h : RollForm s 0x20 id.toNat (byteNats frame))
    (hd : ((byteNats frame).drop 8).take (hdLength (headerOf (byteNats frame))) = [0]) :
    Answers (.startFresh id frame) s (fun s' => RollCounts s s' [(dev, Obj.nodeAddress)]
        { s.field with rollOut := false, claim := none, grants := [], nonces := [] } ∧ nodeAddr s' = 127 ∧ s'.out = {}) := by
  have hform : RollForm (fresh s) 0x20 id.toNat (byteNats frame) :=
    ⟨h.busOff, h.short, h.opcode, h.seg, h.kind, h.src, h.dest, h.plain, h.len, h.long⟩
  have hrun := (hform.runs (fun d s => if d = [0] then startFresh s else s)).trans (if_pos hd)
  have hcounts := ((rollCounts_counted s).withField
    { s.field with rollOut := false, claim := none, grants := [], nonces := [] }).set (k := Obj.nodeAddress) 127 (by decide) (by decide)
  exact answers_counts (exec_startFresh id frame s) hrun hcounts ⟨getObj_setObj_fits _ (by decide), rfl⟩

/-- A frame that has no effect but that it counts. -/
theorem answers_counted {cmd : Instr} {g : State → State} (hexec : exec cmd s = run g s) (hrun : g (fresh s) = rollCounted (fresh s)) :
    Answers cmd s (fun s' => RollCounts s s' [] s.field ∧ s'.out = {}) :=
  answers_counts hexec hrun (rollCounts_counted s) (out_rollCounted s)

/-- The state in which an OFFER is judged. -/
def offering (rollIn : Bool) (s : State) : State := { s with field := { s.field with rollIn := rollIn } }

theorem rollCounts_offering : RollCounts s (rollCounted (offering rollIn (fresh s))) [] { s.field with rollIn := rollIn } :=
  (rollCounts_counted s).withField { s.field with rollIn := rollIn }

theorem offer_run (h : RollForm s 0x21 id.toNat (byteNats frame)) {a : Nat}
    (ha : a = (((byteNats frame).drop 8).take (hdLength (headerOf (byteNats frame)))).getD 0 0) :
    (fun s => rollFrame 0x21 id.toNat (byteNats frame) (fun d s => offered id.toNat (d.getD 0 0) s)
      { s with field := { s.field with rollIn := rollIn } }) (fresh s) =
      offered id.toNat a (rollCounted (offering rollIn (fresh s))) := by
  have hform : RollForm (offering rollIn (fresh s)) 0x21 id.toNat (byteNats frame) :=
    ⟨h.busOff, h.short, h.opcode, h.seg, h.kind, h.src, h.dest, h.plain, h.len, h.long⟩
  rw [ha]
  exact hform.runs _

theorem coord_counted (y : State) (h : y.dict = (rollCounted (fresh s)).dict) :
    getObj y dev Obj.coordinatorNode = getObj s dev Obj.coordinatorNode :=
  (getObj_congr h _ _).trans (getObj_rollCounted (by decide) (by decide))

theorem nodeAddr_counted (y : State) (h : y.dict = (rollCounted (fresh s)).dict) : nodeAddr y = nodeAddr s :=
  (getObj_congr h _ _).trans (getObj_rollCounted (by decide) (by decide))

/-- An answer to an OFFER or a CONFIRM whose effect on the state of the field network is known. -/
theorem answers_sent {cmd : Instr} {g : State → State} {x : State} {K : List (Nat × Nat)} {f : FieldS} {src op : Nat} {b : List Nat}
    {P : State → Prop} (hexec : exec cmd s = run g s) (hrun : g (fresh s) = sendRoll id.toNat op b x) (h : RollCounts s x K f)
    (hout : x.out = {}) (hoff : f.busOff = false) (hcoord : getObj x dev Obj.coordinatorNode = getObj s dev Obj.coordinatorNode)
    (hsrc : nodeAddr x = src)
    (hP : ∀ y, (∀ k, k < 2 ^ 24 → k ≠ Obj.framesSent → getObj y dev k = getObj x dev k) → P y) :
    Answers cmd s (fun s' => RollCounts s s' (K ++ [(dev, Obj.framesSent)]) f ∧ P s' ∧ s'.out.frames = rollSent s id.toNat src op b) := by
  obtain ⟨hcounts, hframes, hkept⟩ := h.sends hout hoff hcoord id.toNat op b
  exact answers_counts hexec hrun hcounts ⟨hP _ hkept, hsrc ▸ hframes⟩

theorem offered_ok {a : Nat} (h1 : 1 ≤ a) (h2 : a ≤ 126) (y : State) : offered id.toNat a y =
    if nodeAddr y ≠ 127 then (if a = nodeAddr y then sendAck id.toNat 0 y else y)
    else if ¬ mayClaim y then y
    else if addressTaken y a then sendAck id.toNat 0 y
    else sendRoll id.toNat 0x22 (leBytes 8 Config.deviceSerial ++ [a])
      { y with field := { y.field with claim := some (a, y.time.elapsed + 10000000) } } := if_neg (by omega)

/-- The state in which an OFFER is judged, once its frame counts. -/
def offerSeen (rollIn : Bool) (s : State) : State := rollCounted (offering rollIn (fresh s))

theorem nodeAddr_offerSeen : nodeAddr (offerSeen rollIn s) = nodeAddr s := nodeAddr_counted _ rfl

theorem mayClaim_offerSeen : mayClaim (offerSeen rollIn s) =
    (decide (nodeAddr s = 127) && rollIn && !s.field.rollOut && (claimHeld s).isNone) := by
  have hclaim : claimHeld (offerSeen rollIn s) = claimHeld s := rfl
  unfold mayClaim
  rw [nodeAddr_offerSeen, hclaim]
  rfl

theorem addressTaken_counted {y : State} {a : Nat} (h : y.dict = (rollCounted (fresh s)).dict) :
    addressTaken y a = addressTaken s a := by
  unfold addressTaken
  rw [nodeAddr_counted y h, coord_counted y h]

/-- An OFFER to a device without an address, that may claim it, and one that may not. -/
theorem answers_offer_claims (h : RollForm s 0x21 id.toNat (byteNats frame)) {a : Nat}
    (ha : a = (((byteNats frame).drop 8).take (hdLength (headerOf (byteNats frame)))).getD 0 0) (h1 : 1 ≤ a) (h2 : a ≤ 126)
    (hnode : nodeAddr s = 127) (hin : rollIn = true) (hout : s.field.rollOut = false) (hclaim : claimHeld s = none) :
    (a ≠ getObj s dev Obj.coordinatorNode → Answers (.offer id frame rollIn) s (fun s' =>
      RollCounts s s' [(dev, Obj.framesSent)] { s.field with rollIn := true, claim := some (a, s.time.elapsed + 10000000) } ∧
      s'.out.frames = rollSent s id.toNat 127 0x22 (leBytes 8 Config.deviceSerial ++ [a]))) ∧
    (a = getObj s dev Obj.coordinatorNode → Answers (.offer id frame rollIn) s (fun s' =>
      RollCounts s s' [(dev, Obj.framesSent)] { s.field with rollIn := true } ∧ s'.out.frames = rollSent s id.toNat 127 0x24 [0])) := by
  subst hin
  have hmay : mayClaim (offerSeen true s) = true := by rw [mayClaim_offerSeen, hnode, hout, hclaim]; rfl
  have htaken : addressTaken (offerSeen true s) a = decide (a = getObj s dev Obj.coordinatorNode) := by
    rw [addressTaken_counted (s := s) (y := offerSeen true s) rfl]
    unfold addressTaken
    simp [hnode]
  have hrun := offer_run (rollIn := true) h ha
  rw [offered_ok h1 h2, ← offerSeen, if_neg (not_not.mpr (nodeAddr_offerSeen.trans hnode)), if_neg (not_not.mpr hmay), htaken] at hrun
  refine ⟨fun hne => ?_, fun heq => ?_⟩
  · rw [if_neg (by simpa using hne)] at hrun
    obtain ⟨s', hexec, hcounts, -, hsent⟩ := answers_sent (P := fun _ => True) (exec_offer id frame true s) hrun
      ((rollCounts_offering (rollIn := true)).withField
        { s.field with rollIn := true, claim := some (a, s.time.elapsed + 10000000) })
      rfl h.busOff (coord_counted _ rfl) ((nodeAddr_counted _ rfl).trans hnode) (fun _ _ => trivial)
    exact ⟨s', hexec, hcounts, hsent⟩
  · rw [if_pos (by simpa using heq)] at hrun
    obtain ⟨s', hexec, hcounts, -, hsent⟩ := answers_sent (P := fun _ => True) (exec_offer id frame true s) hrun
      rollCounts_offering rfl h.busOff (coord_counted _ rfl) (nodeAddr_offerSeen.trans hnode) (fun _ _ => trivial)
    exact ⟨s', hexec, hcounts, hsent⟩

theorem answers_offer_passes (h : RollForm s 0x21 id.toNat (byteNats frame)) {a : Nat}
    (ha : a = (((byteNats frame).drop 8).take (hdLength (headerOf (byteNats frame)))).getD 0 0)
    (hpass : offered id.toNat a (offerSeen rollIn s) = offerSeen rollIn s) : Answers (.offer id frame rollIn) s (fun s' =>
      RollCounts s s' [] { s.field with rollIn := rollIn } ∧ s'.out = {}) :=
  answers_counts (exec_offer id frame rollIn s) ((offer_run h ha).trans hpass) rollCounts_offering (out_rollCounted s)

theorem answers_offer_own (h : RollForm s 0x21 id.toNat (byteNats frame)) {a : Nat}
    (ha : a = (((byteNats frame).drop 8).take (hdLength (headerOf (byteNats frame)))).getD 0 0) (h1 : 1 ≤ a) (h2 : a ≤ 126)
    (hnode : nodeAddr s ≠ 127) (hown : a = nodeAddr s) : Answers (.offer id frame rollIn) s (fun s' =>
      RollCounts s s' [(dev, Obj.framesSent)] { s.field with rollIn := rollIn } ∧ s'.out.frames = rollSent s id.toNat a 0x24 [0]) := by
  have hrun := offer_run (rollIn := rollIn) h ha
  rw [offered_ok h1 h2, ← offerSeen, nodeAddr_offerSeen, if_pos hnode, if_pos hown] at hrun
  obtain ⟨s', hexec, hcounts, -, hsent⟩ := answers_sent (P := fun _ => True) (exec_offer id frame rollIn s) hrun
    rollCounts_offering rfl h.busOff (coord_counted _ rfl) (nodeAddr_offerSeen.trans hown.symm) (fun _ _ => trivial)
  exact ⟨s', hexec, hcounts, hsent⟩

/-- CONFIRM runs on the state in which its frame counts. -/
theorem confirm_run (h : RollForm s 0x23 id.toNat (byteNats frame)) {d : List Nat}
    (hd : d = ((byteNats frame).drop 8).take (hdLength (headerOf (byteNats frame)))) (h1 : 1 ≤ d.getD 8 0) (h2 : d.getD 8 0 ≤ 126) :
    rollFrame 0x23 id.toNat (byteNats frame) (fun d s => confirmed id.toNat (leNat (d.take 8)) (d.getD 8 0) s) (fresh s) =
      if leNat (d.take 8) = Config.deviceSerial % 2 ^ 64 then
        (if addressTaken s (d.getD 8 0) then sendAck id.toNat 0
            { rollCounted (fresh s) with field := { (rollCounted (fresh s)).field with claim := none } }
          else takeAddress id.toNat (d.getD 8 0) (rollCounted (fresh s)))
      else if nodeAddr s = d.getD 8 0 then sendAck id.toNat 0 (rollCounted (fresh s))
      else rollCounted (fresh s) := by
  have hform : RollForm (fresh s) 0x23 id.toNat (byteNats frame) :=
    ⟨h.busOff, h.short, h.opcode, h.seg, h.kind, h.src, h.dest, h.plain, h.len, h.long⟩
  rw [hform.runs, ← hd]
  unfold confirmed
  rw [if_neg (by omega), addressTaken_counted (s := s) rfl, nodeAddr_counted (s := s) _ rfl]

theorem answers_confirm_takes (h : RollForm s 0x23 id.toNat (byteNats frame)) {d : List Nat}
    (hd : d = ((byteNats frame).drop 8).take (hdLength (headerOf (byteNats frame)))) (h1 : 1 ≤ d.getD 8 0) (h2 : d.getD 8 0 ≤ 126)
    (hown : leNat (d.take 8) = Config.deviceSerial % 2 ^ 64) (hfree : addressTaken s (d.getD 8 0) = false) :
    Answers (.confirm id frame) s (fun s' =>
      RollCounts s s' ([(dev, Obj.nodeAddress), (dev, Obj.rollCallCount)] ++ [(dev, Obj.framesSent)])
        { s.field with rollOut := true, claim := none } ∧
      (nodeAddr s' = d.getD 8 0 ∧ getObj s' dev Obj.rollCallCount = (getObj s dev Obj.rollCallCount + 1) % 2 ^ 32) ∧
      s'.out.frames = rollSent s id.toNat (d.getD 8 0) 0x24 [d.getD 8 0]) := by
  have hrun := confirm_run h hd h1 h2
  rw [if_pos hown, if_neg (Bool.eq_false_iff.mp hfree)] at hrun
  generalize hc : d.getD 8 0 = c at *
  obtain ⟨x0, hx0⟩ : ∃ x : State, x = { rollCounted (fresh s) with field := { s.field with rollOut := true, claim := none } } := ⟨_, rfl⟩
  obtain ⟨x1, hx1⟩ : ∃ x, x = setObj dev Obj.nodeAddress c x0 := ⟨_, rfl⟩
  obtain ⟨x2, hx2⟩ : ∃ x, x = setObj dev Obj.rollCallCount (getObj x1 dev Obj.rollCallCount + 1) x1 := ⟨_, rfl⟩
  have hcounts : RollCounts s x2 ([] ++ [(dev, Obj.nodeAddress)] ++ [(dev, Obj.rollCallCount)])
      { s.field with rollOut := true, claim := none } := by
    rw [hx2, hx1, hx0]
    exact (((rollCounts_counted s).withField _).set _ (by decide) (by decide)).set _ (by decide) (by decide)
  have hkeep : ∀ k, k < 2 ^ 24 → k ≠ Obj.framesReceived → getObj x0 dev k = getObj s dev k := fun k hk hne => by
    rw [hx0]
    exact (getObj_congr rfl _ _).trans (getObj_rollCounted hk hne)
  have hnode : nodeAddr x2 = c := by
    unfold nodeAddr
    rw [hx2, getObj_setObj_obj _ (by decide) (by decide) (by decide), hx1]
    exact getObj_setObj_fits _ (Nat.lt_of_le_of_lt h2 (by decide))
  have hcount : getObj x2 dev Obj.rollCallCount = (getObj s dev Obj.rollCallCount + 1) % 2 ^ 32 := by
    rw [hx2, getObj_setObj_same, hx1, getObj_setObj_obj _ (by decide) (by decide) (by decide), hkeep _ (by decide) (by decide)]
    rfl
  have hcoord : getObj x2 dev Obj.coordinatorNode = getObj s dev Obj.coordinatorNode := by
    rw [hx2, getObj_setObj_obj _ (by decide) (by decide) (by decide), hx1,
      getObj_setObj_obj _ (by decide) (by decide) (by decide), hkeep _ (by decide) (by decide)]
  have hsends : takeAddress id.toNat c (rollCounted (fresh s)) = sendRoll id.toNat 0x24 [c] x2 := by
    rw [hx2, hx1, hx0]
    rfl
  refine answers_sent (exec_confirm id frame s) (hrun.trans hsends) hcounts (by rw [hx2, hx1, hx0]; rfl) h.busOff hcoord hnode
    (fun y hy => ⟨?_, (hy _ (by decide) (by decide)).trans hcount⟩)
  exact (hy _ (by decide) (by decide)).trans hnode

theorem answers_confirm_taken (h : RollForm s 0x23 id.toNat (byteNats frame)) {d : List Nat}
    (hd : d = ((byteNats frame).drop 8).take (hdLength (headerOf (byteNats frame)))) (h1 : 1 ≤ d.getD 8 0) (h2 : d.getD 8 0 ≤ 126)
    (hown : leNat (d.take 8) = Config.deviceSerial % 2 ^ 64) (htaken : addressTaken s (d.getD 8 0) = true) :
    Answers (.confirm id frame) s (fun s' => RollCounts s s' [(dev, Obj.framesSent)] { s.field with claim := none } ∧
      s'.out.frames = rollSent s id.toNat (nodeAddr s) 0x24 [0]) := by
  have hrun := confirm_run h hd h1 h2
  rw [if_pos hown, if_pos htaken] at hrun
  obtain ⟨s', hexec, hcounts, -, hsent⟩ := answers_sent (P := fun _ => True) (exec_confirm id frame s) hrun
    ((rollCounts_counted s).withField { s.field with claim := none })
    rfl h.busOff (coord_counted _ rfl) (nodeAddr_counted _ rfl) (fun _ _ => trivial)
  exact ⟨s', hexec, hcounts, hsent⟩

theorem answers_confirm_other (h : RollForm s 0x23 id.toNat (byteNats frame)) {d : List Nat}
    (hd : d = ((byteNats frame).drop 8).take (hdLength (headerOf (byteNats frame)))) (h1 : 1 ≤ d.getD 8 0) (h2 : d.getD 8 0 ≤ 126)
    (hown : leNat (d.take 8) ≠ Config.deviceSerial % 2 ^ 64) (hnode : nodeAddr s = d.getD 8 0) :
    Answers (.confirm id frame) s (fun s' => RollCounts s s' [(dev, Obj.framesSent)] s.field ∧
      s'.out.frames = rollSent s id.toNat (d.getD 8 0) 0x24 [0]) := by
  have hrun := confirm_run h hd h1 h2
  rw [if_neg hown, if_pos hnode] at hrun
  obtain ⟨s', hexec, hcounts, -, hsent⟩ := answers_sent (P := fun _ => True) (exec_confirm id frame s) hrun
    (rollCounts_counted s) rfl h.busOff (coord_counted _ rfl) ((nodeAddr_counted _ rfl).trans hnode) (fun _ _ => trivial)
  exact ⟨s', hexec, hcounts, hsent⟩

end

/-- Settles O48: each frame of Roll Call by its cases, and the lapse of a claim. -/
theorem rollCall : Obligations.RollCall := by
  intro id frame rollIn s
  refine ⟨fun h cmd hcmd => ?_, fun h => ⟨fun hd => answers_startFresh (rollForm_of h) hd, ?_⟩, fun h => ?_, fun h h1 h2 => ?_,
    fun h h1 h2 => ?_, fun h => ?_, fun hclaim hheld => ?_⟩
  · simp only [List.mem_cons, List.not_mem_nil, or_false] at hcmd
    rcases hcmd with rfl | rfl | rfl | rfl
    · exact noEffect_run (exec_startFresh id frame s) (noEffect_busOff h _ _)
    · exact noEffect_run (exec_startFill id frame s) (noEffect_busOff h _ _)
    · exact noEffect_run (exec_confirm id frame s) (noEffect_busOff h _ _)
    · exact noEffect_run (exec_rollCallEnd id frame s) (noEffect_busOff h _ _)
  · have hform : RollForm (fresh s) 0x20 id.toNat (byteNats frame) := rollForm_of (s := fresh s) h
    exact answers_counted (exec_startFill id frame s) (hform.runs _)
  · have hform : RollForm (fresh s) 0x25 id.toNat (byteNats frame) := rollForm_of (s := fresh s) h
    exact answers_counted (exec_rollCallEnd id frame s) (hform.runs _)
  · have hform := rollForm_of h
    refine ⟨fun hnode hin hout hheld hne => (answers_offer_claims hform rfl h1 h2 hnode hin hout hheld).1 hne,
      fun hnode hbarred => answers_offer_passes hform rfl ?_,
      fun hnode hin hout hheld heq => (answers_offer_claims hform rfl h1 h2 hnode hin hout hheld).2 heq,
      fun hnode hown => answers_offer_own hform rfl h1 h2 hnode hown, fun hnode hother => answers_offer_passes hform rfl ?_⟩
    · rw [offered_ok h1 h2, nodeAddr_offerSeen, if_neg (not_not.mpr hnode), if_pos]
      rw [mayClaim_offerSeen]
      rcases hbarred with hlow | hraised | hheld
      · simp [hlow]
      · simp [hraised]
      · simp [hheld]
    · rw [offered_ok h1 h2, nodeAddr_offerSeen, if_pos hnode, if_neg hother]
  · have hform := rollForm_of h
    refine ⟨fun hown hfree => ?_, fun hown htaken => answers_confirm_taken hform rfl h1 h2 hown htaken,
      fun hown hnode => ?_, fun hown hnode => answers_confirm_other hform rfl h1 h2 hown hnode⟩
    · obtain ⟨s', hexec, hcounts, ⟨hnode, hcount⟩, hsent⟩ := answers_confirm_takes hform rfl h1 h2 hown hfree
      exact ⟨s', hexec, hcounts, hnode, hcount, hsent⟩
    · refine answers_counted (exec_confirm id frame s) ((confirm_run hform rfl h1 h2).trans ?_)
      rw [if_neg hown, if_neg hnode]
  · refine noEffect_run (exec_claimLapse s) (if_neg ?_)
    rintro ⟨hsome, hnone⟩
    rcases h with hclaim | hheld
    · rw [show (fresh s).field.claim = none from hclaim] at hsome
      cases hsome
    · exact hheld (Option.isNone_iff_eq_none.mp hnone)
  · rw [exec_claimLapse, run_next]
    have hrun : claimLapse (fresh s) = { fresh s with field := { s.field with claim := none } } :=
      if_pos ⟨Option.isSome_iff_ne_none.mpr hclaim, Option.isNone_iff_eq_none.mpr hheld⟩
    rw [hrun]
    rfl

end Sys2Proof.Machine

/-! ## Proofs: requests of the field network -/

namespace Sys2Proof.Machine

open Sys2Proof

/-- A log entry joins the intake, or is counted as dropped (R403). -/
theorem addLog_spec (u source cause status d0 d1 : Nat) (s : State) :
    addLog u source cause status d0 d1 s = { s with
      dict := (addLog u source cause status d0 d1 s).dict
      count := { s.count with intake := (addLog u source cause status d0 d1 s).count.intake } } ∧
    OtherObjects s (addLog u source cause status d0 d1 s) [(u, logDropped u)] := by
  unfold addLog
  dsimp only
  split
  · exact ⟨rfl, (ObjsOnly.set (K := fun w k => (w, k) ∈ [(u, logDropped u)]) (u := u) (k := logDropped u)
      (getObj s u (logDropped u) + 1) (logDropped_lt u) (by simp) s).otherObjects⟩
  · exact ⟨rfl, otherObjects_none rfl _⟩

/-! ### Answers -/

/-- The frame of an answer that fits beside its header (R339). -/
def answerFrame (s : State) (id h : Nat) (a : Ans) : Frame :=
  ⟨frameId (idPrio id) 1 (idSrc id) (nodeAddr s) (idTag id) 0,
    padFrame (leBytes 8 (responseHeader h a.status (ansData a).length) ++ ansData a)⟩

/-- `y` is `s` with an answer given, and its frames sent and counted. -/
structure GaveAnswer (a : Ans) (s y : State) : Prop where
  status : y.out.status = a.status
  data : y.out.data = ansData a
  fields : y = { s with dict := y.dict, out := y.out }
  others : OtherObjects s y [(dev, Obj.framesSent)]

theorem gaveAnswer_give (a : Ans) (s : State) : GaveAnswer a s (giveAns a s) :=
  ⟨rfl, rfl, rfl, otherObjects_none rfl _⟩

theorem GaveAnswer.sendFrame {a : Ans} {s y : State} (h : GaveAnswer a s y) (id : Nat) (d : List Nat) :
    GaveAnswer a s (sendFrame id d y) := by
  unfold Machine.sendFrame
  split
  · exact h
  · have hset := ObjsOnly.set (K := fun u k => (u, k) ∈ [(dev, Obj.framesSent)]) (u := dev) (k := Obj.framesSent)
      (getObj y dev Obj.framesSent + 1) (by decide) (by simp) { y with out := { y.out with frames := y.out.frames ++ [⟨id, padFrame d⟩] } }
    have hrest : setObj dev Obj.framesSent (getObj y dev Obj.framesSent + 1)
        { y with out := { y.out with frames := y.out.frames ++ [⟨id, padFrame d⟩] } } = { s with
          dict := (setObj dev Obj.framesSent (getObj y dev Obj.framesSent + 1) y).dict
          out := { y.out with frames := y.out.frames ++ [⟨id, padFrame d⟩] } } := by
      rw [h.fields]
      rfl
    exact ⟨h.status, h.data, hrest, fun u k hk hn => (hset.objs u k hk hn).trans ((getObj_congr rfl u k).trans (h.others u k hk hn))⟩

theorem GaveAnswer.sendSegments {a : Ans} {s y : State} (h : GaveAnswer a s y) (id hd : Nat) (d : List Nat) :
    GaveAnswer a s (sendSegments id hd d y) := by
  unfold Machine.sendSegments
  dsimp only
  generalize (leBytes 8 hd ++ d.take 56) :: (segmentsOf d).drop 1 = l
  suffices hl : ∀ (l : List (List Nat)) (x : Nat × State), GaveAnswer a s x.2 →
      GaveAnswer a s (l.foldl (fun (x : Nat × State) seg => (x.1 + 1, Machine.sendFrame (id + x.1) seg x.2)) x).2 from hl l (0, y) h
  intro l
  induction l with
  | nil => exact fun _ hx => hx
  | cons seg l ih => exact fun x hx => ih _ (hx.sendFrame _ _)

theorem gaveAnswer_send (id h : Nat) (a : Ans) (s : State) : GaveAnswer a s (sendAnswer id h a s) := by
  unfold sendAnswer
  dsimp only
  split
  · exact gaveAnswer_give a s
  · exact (gaveAnswer_give a s).sendSegments _ _ _

/-- An answer whose data fit beside the header goes out as one frame. -/
theorem frames_sendAnswer {id h : Nat} {a : Ans} {s : State} (hdest : idDest id ≠ 0) (hbus : s.field.busOff = false)
    (hlen : (ansData a).length ≤ 56) : (sendAnswer id h a s).out.frames = s.out.frames ++ [answerFrame s id h a] := by
  have hsegs : (segmentsOf (ansData a)).drop 1 = [] := by
    unfold segmentsOf
    rw [List.drop_eq_nil_of_le hlen]
    rfl
  have hrun : sendAnswer id h a s = sendFrame (responseId (giveAns a s) id)
      (leBytes 8 (responseHeader h a.status (ansData a).length) ++ ansData a) (giveAns a s) := by
    unfold sendAnswer
    dsimp only
    rw [if_neg hdest]
    unfold sendSegments
    rw [hsegs, List.take_of_length_le hlen]
    simp only [List.foldl_cons, List.foldl_nil, Nat.add_zero]
  rw [hrun]
  unfold sendFrame
  rw [if_neg (show ¬ (giveAns a s).field.busOff = true from Bool.eq_false_iff.mp hbus)]
  rfl

/-! ### Whole requests (R339, R340) -/

/-- A request of a command's op reaches the device whole, as far as its first frame tells. -/
structure Arrives (s : State) (op id : Nat) (l : List Nat) : Prop where
  short : l.length ≤ 64
  long : 8 ≤ l.length
  kind : idKind id = 0
  seg : idSeg id = 0
  opcode : hdOp (headerOf l) = op
  bus : s.field.busOff = false
  addressed : nodeAddr s ≠ 127
  dest : idDest id = nodeAddr s
  node : nodeAddr s ≠ 0
  fresh : heldTrans s (idSrc id) (idTag id) = none
  few : (s.field.trans.filter (fun x => x.node = idSrc id)).length < 8

theorem nodeAddr_accepted (id : Nat) (s : State) : nodeAddr (accepted id s) = nodeAddr s :=
  (getObj_congr rfl dev Obj.nodeAddress).trans (getObj_setObj_obj s (by decide) (by decide) (by decide))

theorem heldTrans_accepted (id node tag : Nat) (s : State) : heldTrans (accepted id s) node tag = heldTrans s node tag := rfl

/-- The first frame of a request is counted and judged. -/
theorem Arrives.first {s : State} {op id : Nat} {l : List Nat} (h : Arrives s op id l) :
    requestFrame op id l s = if badHeader (headerOf l) then sendAnswer id (headerOf l) ⟨stBadFormat, 0, []⟩ (accepted id s)
      else firstSegment id l (accepted id s) := by
  have hgoes : requestFrame op id l s = firstSegment id l (accepted id s) := by
    unfold requestFrame
    rw [if_neg (by simp [h.bus, Nat.not_lt.mpr h.short, h.kind]), if_pos h.seg,
      if_neg (by simp [Nat.not_lt.mpr h.long, h.opcode, h.addressed, h.dest])]
  rw [hgoes]
  split
  · next hbad =>
    unfold firstSegment
    dsimp only
    rw [heldTrans_accepted, h.fresh]
    exact (if_neg (Nat.not_le.mpr h.few)).trans (if_pos hbad)
  · rfl

/-- A whole request that is no repetition is executed. -/
theorem Arrives.runs {s s1 : State} {op id : Nat} {l : List Nat} {a : Ans} (h : Arrives s op id l)
    (hgood : badHeader (headerOf l) = false) (hlen : hdLength (headerOf l) ≤ 56) (hwhole : hdLength (headerOf l) + 8 ≤ l.length)
    (hnew : ∀ x ∈ s.field.answered, x.node ≠ idSrc id ∨ x.tag ≠ idTag id ∨ x.header ≠ headerOf l ∨
      x.data ≠ (l.drop 8).take (hdLength (headerOf l)))
    (hrun : runRequest (idSrc id) (headerOf l) ((l.drop 8).take (hdLength (headerOf l))) (accepted id s) = (a, s1)) :
    requestFrame op id l s = keepAnswer id (headerOf l) ((l.drop 8).take (hdLength (headerOf l))) a
      (sendAnswer id (headerOf l) a s1) := by
  have hdest : idDest id ≠ 0 := by rw [h.dest]; exact h.node
  have hnone : (accepted id s).field.answered.find? (fun x => decide (x.node = idSrc id ∧ x.tag = idTag id ∧
      x.header = headerOf l ∧ x.data = (l.drop 8).take (hdLength (headerOf l)) ∧ (accepted id s).time.elapsed ≤ x.at_ + 100000000)) = none := by
    refine List.find?_eq_none.mpr fun x hx hsame => ?_
    obtain ⟨hnode, htag, hheader, hdata, -⟩ := of_decide_eq_true hsame
    rcases hnew x hx with hn | ht | hh | hd
    · exact hn hnode
    · exact ht htag
    · exact hh hheader
    · exact hd hdata
  have hfew : ¬ ((accepted id s).field.trans.filter (fun x => x.node = idSrc id)).length ≥ 8 := Nat.not_le.mpr h.few
  rw [h.first, if_neg (Bool.eq_false_iff.mp hgood)]
  unfold firstSegment
  dsimp only
  rw [heldTrans_accepted, h.fresh]
  dsimp only
  rw [if_neg hfew, if_neg (Bool.eq_false_iff.mp hgood), if_pos hlen,
    if_neg (by rw [List.length_drop]; omega)]
  unfold completeRequest
  rw [if_neg hdest, hnone, hrun]

section
variable {id : BitVec 29} {frame : List Byte} {op : Nat} {cmd : Instr} {s : State}

/-- The commands of the Gnonge ops. -/
theorem exec_request (h : (op, cmd) ∈ ([(1, .gnongeRead id frame), (2, .gnongeWrite id frame), (3, .describe id frame),
      (8, .unlockBegin id frame), (9, .unlockProve id frame), (10, .logout id frame)] : List (Nat × Instr))) :
    exec cmd s = run (requestFrame op id.toNat (byteNats frame)) s := by
  simp only [List.mem_cons, Prod.mk.injEq, List.not_mem_nil, or_false] at h
  rcases h with ⟨rfl, rfl⟩ | ⟨rfl, rfl⟩ | ⟨rfl, rfl⟩ | ⟨rfl, rfl⟩ | ⟨rfl, rfl⟩ | ⟨rfl, rfl⟩
  · exact exec_gnongeRead id frame s
  · exact exec_gnongeWrite id frame s
  · exact exec_describe id frame s
  · exact exec_unlockBegin id frame s
  · exact exec_unlockProve id frame s
  · exact exec_logout id frame s

theorem requestFrame_other (h : s.field.busOff = true ∨ idKind id.toNat ≠ 0 ∨ (idSeg id.toNat = 0 ∧
      (hdOp (headerOf (byteNats frame)) ≠ op ∨ nodeAddr s = 127 ∨ (idDest id.toNat ≠ nodeAddr s ∧ idDest id.toNat ≠ 0)))) :
    requestFrame op id.toNat (byteNats frame) s = s := by
  unfold requestFrame
  split
  · rfl
  · next hgoes =>
    simp only [not_or] at hgoes
    obtain ⟨hbus, -, hkind⟩ := hgoes
    rcases h with hoff | hother | ⟨hseg, hnot⟩
    · exact absurd hoff hbus
    · exact absurd hother hkind
    · rw [if_pos hseg, if_pos (.inr hnot)]

theorem sameWords_accepted (id : Nat) (s : State) : SameWords s (accepted id s) := sameWords_of rfl rfl rfl rfl

theorem GaveAnswer.sameWords {a : Ans} {x y : State} (h : GaveAnswer a x y) : SameWords x y := by
  refine sameWords_of ?_ ?_ ?_ ?_ <;> rw [h.fields]

theorem answers_badHeader (hexec : exec cmd s = run (requestFrame op id.toNat (byteNats frame)) s)
    (h : Arrives (fresh s) op id.toNat (byteNats frame)) (hbad : badHeader (headerOf (byteNats frame)) = true) :
    Answers cmd s (fun s' => s'.out.status = stBadFormat ∧
      s'.out.frames = [answerFrame s id.toNat (headerOf (byteNats frame)) ⟨stBadFormat, 0, []⟩] ∧
      OtherObjects s s' [(dev, Obj.framesReceived), (dev, Obj.framesSent)] ∧ SameMemory s s') := by
  have hgave := gaveAnswer_send id.toNat (headerOf (byteNats frame)) ⟨stBadFormat, 0, []⟩ (accepted id.toNat (fresh s))
  have hframes := frames_sendAnswer (id := id.toNat) (h := headerOf (byteNats frame)) (a := ⟨stBadFormat, 0, []⟩)
    (s := accepted id.toNat (fresh s)) (by rw [h.dest]; exact h.node) h.bus (by decide)
  have hset := ObjsOnly.set (K := fun u k => (u, k) ∈ [(dev, Obj.framesReceived), (dev, Obj.framesSent)]) (u := dev)
    (k := Obj.framesReceived) (getObj s dev Obj.framesReceived + 1) (by decide) (by simp) (fresh s)
  refine answers_effect hexec fun y hy => ?_
  rw [h.first, if_pos hbad] at hy
  rw [← hy] at hgave hframes
  refine ⟨hgave.status, hframes.trans ?_, fun u k hk hn => ?_, ((sameWords_accepted _ _).trans hgave.sameWords).sameMemory⟩
  · unfold answerFrame
    rw [nodeAddr_accepted]
    rfl
  · exact (hgave.others u k hk fun e => hn (by simp only [List.mem_singleton] at e; simp [e])).trans
      ((getObj_congr rfl u k).trans (hset.objs u k hk hn))

theorem answers_executed {a : Ans} {s1 : State} (hexec : exec cmd s = run (requestFrame op id.toNat (byteNats frame)) s)
    (h : Arrives (fresh s) op id.toNat (byteNats frame)) (hgood : badHeader (headerOf (byteNats frame)) = false)
    (hlen : hdLength (headerOf (byteNats frame)) ≤ 56) (hwhole : hdLength (headerOf (byteNats frame)) + 8 ≤ (byteNats frame).length)
    (hnew : ∀ x ∈ s.field.answered, x.node ≠ idSrc id.toNat ∨ x.tag ≠ idTag id.toNat ∨ x.header ≠ headerOf (byteNats frame) ∨
      x.data ≠ ((byteNats frame).drop 8).take (hdLength (headerOf (byteNats frame))))
    (hrun : runRequest (idSrc id.toNat) (headerOf (byteNats frame)) (((byteNats frame).drop 8).take (hdLength (headerOf (byteNats frame))))
      (accepted id.toNat (fresh s)) = (a, s1))
    (hbus : s1.field.busOff = false) (hnode : nodeAddr s1 = nodeAddr s) (hfits : (ansData a).length ≤ 56) :
    Answers cmd s (fun s' => s'.out.status = a.status ∧ s'.out.data = ansData a ∧
      s'.out.frames = s1.out.frames ++ [answerFrame s id.toNat (headerOf (byteNats frame)) a] ∧
      OtherObjects s1 s' [(dev, Obj.framesSent)] ∧ SameMemory s1 s' ∧
      s'.field.grants = s1.field.grants ∧ s'.field.nonces = s1.field.nonces) := by
  have hgave := gaveAnswer_send id.toNat (headerOf (byteNats frame)) a s1
  have hframes := frames_sendAnswer (id := id.toNat) (h := headerOf (byteNats frame)) (by rw [h.dest]; exact h.node) hbus hfits
  refine answers_effect hexec fun y hy => ?_
  rw [h.runs hgood hlen hwhole hnew hrun] at hy
  generalize sendAnswer id.toNat (headerOf (byteNats frame)) a s1 = z at hgave hframes hy
  have hfield : z.field = s1.field := by rw [hgave.fields]
  have hframe : answerFrame s1 id.toNat (headerOf (byteNats frame)) a = answerFrame s id.toNat (headerOf (byteNats frame)) a := by
    unfold answerFrame
    rw [hnode]
  rw [hy]
  refine ⟨hgave.status, hgave.data, hframes.trans (by rw [hframe]), fun u k hk hn => ?_, ?_, ?_, ?_⟩
  · exact (getObj_congr rfl u k).trans (hgave.others u k hk hn)
  · exact (hgave.sameWords.trans (sameWords_of rfl rfl rfl rfl)).sameMemory
  · show z.field.grants = _
    rw [hfield]
  · show z.field.nonces = _
    rw [hfield]

end

/-! ### Time limits, bus-off, conflicts and the heartbeat -/

section
variable {node tag : BitVec 8} {s : State}

theorem heldTrans_dropTrans (node tag : Nat) (s : State) : heldTrans (dropTrans node tag s) node tag = none := by
  refine List.find?_eq_none.mpr fun x hx hheld => ?_
  have hkept := (List.mem_filter.mp hx).2
  simp only [Bool.and_eq_true, decide_eq_true_eq] at hheld hkept
  exact hkept.elim (fun h => h hheld.1) (fun h => h hheld.2)

theorem heldTrans_names {x : Trans} (h : heldTrans s node.toNat tag.toNat = some x) : x.node = node.toNat ∧ x.tag = tag.toNat := by
  have hheld := List.find?_some h
  simpa only [Bool.and_eq_true, decide_eq_true_eq] using hheld

theorem answers_timeout {x : Trans} (h : heldTrans s node.toNat tag.toNat = some x) (hlate : x.lastAt + 10000000 < s.time.elapsed) :
    Answers (.transactionTimeout node tag) s (fun s' => s'.out.status = stTimeout ∧ heldTrans s' node.toNat tag.toNat = none ∧
      OtherObjects s s' [(dev, Obj.framesSent)] ∧ SameMemory s s') := by
  have hrun : transactionTimeout node.toNat tag.toNat (fresh s) = sendAnswer x.id x.header ⟨stTimeout, 0, []⟩
      (dropTrans node.toNat tag.toNat (fresh s)) := by
    obtain ⟨hnode, htag⟩ := heldTrans_names h
    unfold transactionTimeout
    rw [show heldTrans (fresh s) node.toNat tag.toNat = some x from h]
    refine (if_pos hlate).trans ?_
    unfold abandon
    rw [hnode, htag]
  have hgave := gaveAnswer_send x.id x.header ⟨stTimeout, 0, []⟩ (dropTrans node.toNat tag.toNat (fresh s))
  refine answers_effect (exec_transactionTimeout node tag s) fun y hy => ?_
  rw [hrun] at hy
  rw [← hy] at hgave
  have hfield : y.field = (dropTrans node.toNat tag.toNat (fresh s)).field := by rw [hgave.fields]
  refine ⟨hgave.status, ?_, fun u k hk hn => (hgave.others u k hk hn).trans (getObj_congr rfl u k),
    ((sameWords_of (s := s) (s' := dropTrans node.toNat tag.toNat (fresh s)) rfl rfl rfl rfl).trans hgave.sameWords).sameMemory⟩
  show y.field.trans.find? _ = none
  rw [hfield]
  exact heldTrans_dropTrans node.toNat tag.toNat (fresh s)

theorem canErrors_off (n : Nat) : (fld 16 2 2 + n % 2 ^ 16) % 2 ^ objBits Obj.canErrorCounters = fld 16 2 2 + n % 2 ^ 16 := by
  refine Nat.mod_eq_of_lt (Nat.lt_of_lt_of_eq (m := 2 ^ 32) ?_ (by decide))
  unfold fld
  omega

theorem answers_busOff (h : s.field.busOff = false) : Answers .busOff s (fun s' =>
    s'.field = { s.field with busOff := true, trans := [] } ∧
    getObj s' dev Obj.busOffEvents = (getObj s dev Obj.busOffEvents + 1) % 2 ^ 32 ∧
    bits (getObj s' dev Obj.canErrorCounters) 16 2 = 2 ∧
    OtherObjects s s' [(dev, Obj.busOffEvents), (dev, Obj.canErrorCounters)] ∧
    s' = { s with field := s'.field, dict := s'.dict, out := {} }) := by
  obtain ⟨x, hx⟩ : ∃ x : State, x = bump dev Obj.busOffEvents 1
    { fresh s with field := { s.field with busOff := true, trans := [] } } := ⟨_, rfl⟩
  have hrun : goBusOff (fresh s) = setObj dev Obj.canErrorCounters (fld 16 2 2 + getObj s dev Obj.canErrorCounters % 2 ^ 16) x := by
    rw [hx]
    exact if_neg (Bool.eq_false_iff.mp h)
  have hxf : x = { s with field := { s.field with busOff := true, trans := [] }, dict := x.dict, out := {} } := by rw [hx]; rfl
  have hothers : OtherObjects s x [(dev, Obj.busOffEvents), (dev, Obj.canErrorCounters)] := by
    rw [hx]
    exact (otherObjects_set (s := s) rfl (by decide)).mono (by simp)
  have hset := ObjsOnly.set (K := fun u k => (u, k) ∈ [(dev, Obj.busOffEvents), (dev, Obj.canErrorCounters)]) (u := dev)
    (k := Obj.canErrorCounters) (fld 16 2 2 + getObj s dev Obj.canErrorCounters % 2 ^ 16) (by decide) (by simp) x
  refine answers_of_kept (exec_busOff s) hrun (by rw [setObj, hxf]) (by rw [setObj, hxf])
    ⟨by rw [setObj, hxf], ?_, ?_, hothers.trans hset.otherObjects, by rw [setObj, hxf]⟩
  · rw [getObj_setObj_obj _ (by decide) (by decide) (by decide), hx]
    exact getObj_setObj_same _ _ _ _
  · rw [getObj_setObj_same, canErrors_off]
    unfold bits fld
    omega

theorem answers_busOffRecovery (h : s.field.busOff = true) : Answers .busOffRecovery s (fun s' =>
    s'.field = { s.field with busOff := false } ∧ getObj s' dev Obj.canErrorCounters = 0 ∧
    OtherObjects s s' [(dev, Obj.canErrorCounters)] ∧ s' = { s with field := s'.field, dict := s'.dict, out := {} }) := by
  have hrun : busOffRecovery (fresh s) = setObj dev Obj.canErrorCounters 0
      { fresh s with field := { s.field with busOff := false } } := if_pos h
  exact answers_of_kept (exec_busOffRecovery s) hrun rfl rfl ⟨rfl, getObj_setObj_fits _ (by decide),
    otherObjects_set (s := s) rfl (by decide), rfl⟩

theorem answers_nodeConflict (s : State) : Answers .nodeConflict s (fun s' =>
    getObj s' dev Obj.nodeConflicts = (getObj s dev Obj.nodeConflicts + 1) % 2 ^ 32 ∧
    OtherObjects s s' [(dev, Obj.nodeConflicts), (dev, Obj.deviceLogDropped)] ∧
    s' = { s with dict := s'.dict, count := s'.count, out := {} }) := by
  obtain ⟨x, hx⟩ : ∃ x : State, x = bump dev Obj.nodeConflicts 1 (fresh s) := ⟨_, rfl⟩
  obtain ⟨hfields, hothers⟩ := addLog_spec dev 0x0A 1 stOk (nodeAddr s) 0 x
  have hrun : nodeConflict (fresh s) = addLog dev 0x0A 1 stOk (nodeAddr s) 0 x := by rw [hx]; rfl
  generalize addLog dev 0x0A 1 stOk (nodeAddr s) 0 x = y at hfields hothers hrun
  have hxf : x = { s with dict := x.dict, out := {} } := by rw [hx]; rfl
  have hyf : y = { s with dict := y.dict, count := y.count, out := {} } := by
    have hall : y = { x with dict := y.dict, count := y.count } := by rw [hfields]
    rw [hall, hxf]
  have hxo : OtherObjects s x [(dev, Obj.nodeConflicts), (dev, Obj.deviceLogDropped)] := by
    rw [hx]
    exact (otherObjects_set (s := s) rfl (by decide)).mono (by simp)
  refine answers_of_kept (exec_nodeConflict s) hrun (by rw [hyf]) (by rw [hyf])
    ⟨?_, hxo.trans (hothers.mono (by simp [logDropped])), hyf⟩
  rw [hothers dev Obj.nodeConflicts (by decide) (by decide), hx]
  exact getObj_setObj_same _ _ _ _

theorem answers_heartbeat (hp : getObj s dev Obj.heartbeatPeriod * 1000000 ≠ 0) (hnode : nodeAddr s ≠ 127)
    (hdue : s.field.lastBeat + getObj s dev Obj.heartbeatPeriod * 1000000 ≤ s.time.elapsed) (hbus : s.field.busOff = false) :
    Answers .heartbeat s (fun s' => s'.field = { s.field with lastBeat := s.time.elapsed } ∧
      s'.out.frames = [⟨frameId (getObj s dev Obj.eventPriority) 2 0 (nodeAddr s) 0 0,
        padFrame (leBytes 8 (frameHeader 16 0 0 0 0 0x11) ++ beatData s)⟩] ∧
      OtherObjects s s' [(dev, Obj.framesSent)] ∧
      s' = { s with field := s'.field, dict := s'.dict, out := s'.out }) := by
  have hbeat : heartbeat (fresh s) = sendFrame (frameId (getObj s dev Obj.eventPriority) 2 0 (nodeAddr s) 0 0)
      (leBytes 8 (frameHeader 16 0 0 0 0 0x11) ++ beatData s)
      { fresh s with field := { s.field with lastBeat := s.time.elapsed } } :=
    if_neg (by rintro (h | h | h) <;> [exact hp h; exact hnode h; exact Nat.not_le.mpr h hdue])
  have hrun := hbeat.trans (if_neg (Bool.eq_false_iff.mp hbus))
  exact answers_of_kept (exec_heartbeat s) hrun rfl rfl ⟨rfl, rfl, otherObjects_set (s := s) rfl (by decide), rfl⟩

end

/-- Settles O45: a request's first frame by what it tells (`Arrives`), and the events of the protocol controller. -/
theorem fieldRequests : Obligations.FieldRequests := by
  refine ⟨fun id frame op cmd s hcmd => ?_, fun node tag s => ⟨fun h => ?_, fun x h => ⟨fun hsoon => ?_, answers_timeout h⟩⟩,
    fun s => ⟨fun h => ?_, fun h => ?_, answers_busOff, answers_busOffRecovery, answers_nodeConflict s, fun h => ?_, answers_heartbeat⟩⟩
  · have hexec := exec_request (s := s) hcmd
    dsimp only
    refine ⟨fun h => noEffect_run hexec (requestFrame_other h), fun h hbad => ?_, fun a s1 h hgood hlen hwhole hnew hrun hbus hnode hfits => ?_⟩
    · obtain ⟨hshort, hlong, hkind, hseg, hop, hbus, haddr, hdest, hnode, hheld, hfew⟩ := h
      exact answers_badHeader hexec ⟨hshort, hlong, hkind, hseg, hop, hbus, haddr, hdest, hnode, hheld, hfew⟩ hbad
    · obtain ⟨hshort, hlong, hkind, hseg, hop, hoff, haddr, hdest, hown, hheld, hfew⟩ := h
      exact answers_executed hexec ⟨hshort, hlong, hkind, hseg, hop, hoff, haddr, hdest, hown, hheld, hfew⟩ hgood hlen hwhole hnew
        hrun hbus hnode hfits
  · refine noEffect_run (exec_transactionTimeout node tag s) ?_
    unfold transactionTimeout
    rw [show heldTrans (fresh s) node.toNat tag.toNat = none from h]
  · refine noEffect_run (exec_transactionTimeout node tag s) ?_
    unfold transactionTimeout
    rw [show heldTrans (fresh s) node.toNat tag.toNat = some x from h]
    exact if_neg (Nat.not_lt.mpr hsoon)
  · exact noEffect_run (exec_busOff s) (if_pos h)
  · exact noEffect_run (exec_busOffRecovery s) (if_neg (Bool.eq_false_iff.mp h))
  · exact noEffect_run (exec_heartbeat s) (if_pos h)

end Sys2Proof.Machine

/-! ## Proofs: accesses to the dictionary -/

namespace Sys2Proof.Machine

open Sys2Proof

variable {s : State}

/-! ### Rows of the dictionary -/

theorem findIn_index {i b : Nat} {d : ObjDef} : ∀ l : List ObjDef, findIn i b l = some d → d.index = i
  | [] => by simp [findIn]
  | e :: l => by
    rw [findIn]
    split
    next h =>
      rintro ⟨⟩
      simp only [Bool.and_eq_true, beq_iff_eq] at h
      exact h.1.1
    next => exact findIn_index l

theorem findChunk_index {i b : Nat} {d : ObjDef} : ∀ cs, findChunk i b cs = some d → d.index = i
  | [] => by simp [findChunk]
  | (_, _, l) :: cs => by
    rw [findChunk]
    split
    · split
      next e he =>
        rintro ⟨⟩
        exact findIn_index l he
      next => exact findChunk_index cs
    · exact findChunk_index cs

theorem lookObj_index {u i b : Nat} {d : ObjDef} (h : lookObj s u i b = .obj d) : d.index = i := by
  unfold lookObj at h
  split at h
  · cases h
  split at h
  · cases h
  split at h
  next e he =>
    split at h
    · cases h
      exact findChunk_index _ he
    · cases h
  next => cases h

/-! ### What a write at one unit answers -/

section
variable {w : Who} {u i b : Nat} {l : List Nat} {d : ObjDef}

theorem writeAccess_unit (hu : u ≠ 0x7F) : writeAccess w u i b l s = writeAt w u i b l s := if_neg hu

theorem writeAt_missing (h : lookObj s u i b = .missing) : writeAt w u i b l (fresh s) = (⟨stDecodeError, 0, []⟩, fresh s) := by
  have h' : lookObj (freshAns (fresh s)) u i b = .missing := h
  unfold writeAt
  dsimp only
  rw [h']
  rfl

theorem writeAt_reserved (h : lookObj s u i b = .reserved) : writeAt w u i b l (fresh s) = (⟨stOk, 0, []⟩, fresh s) := by
  have h' : lookObj (freshAns (fresh s)) u i b = .reserved := h
  unfold writeAt
  dsimp only
  rw [h']
  rfl

theorem writeAt_away {h : Nat} (hd : lookObj s u i b = .obj d) (ha : awayHint s u d = some h) :
    writeAt w u i b l (fresh s) = (⟨stRetry, h, []⟩, fresh s) := by
  have hd' : lookObj (freshAns (fresh s)) u i b = .obj d := hd
  have ha' : awayHint (freshAns (fresh s)) u d = some h := ha
  unfold writeAt
  dsimp only
  rw [hd']
  dsimp only
  rw [ha']
  rfl

theorem writeAt_present (hd : lookObj s u i b = .obj d) (ha : awayHint s u d = none) :
    writeAt w u i b l (fresh s) =
      if (!d.acc.writable || decide (w.level < d.wrights) || scopeBars s (scopeOf w) u d b (leNat l)) = true then
        (⟨stAccessDenied, 0, []⟩, fresh s)
      else (ansOf (writeObj w.src (scopeOf w) u d b l (fresh s)), writeObj w.src (scopeOf w) u d b l (fresh s)) := by
  have hd' : lookObj (freshAns (fresh s)) u i b = .obj d := hd
  have ha' : awayHint (freshAns (fresh s)) u d = none := ha
  unfold writeAt
  dsimp only
  rw [hd']
  dsimp only
  rw [ha']
  refine if_congr ?_ rfl rfl
  simp only [Bool.or_eq_true, Bool.not_eq_true', decide_eq_true_eq, Bool.not_eq_true, or_assoc]
  rfl

theorem registerWrite_of {a : Ans} {x : State} (hu : u ≠ 0x7F) (h : writeAt w u i b l s = (a, x)) :
    registerWrite w u i b l s = giveAns a x := by
  unfold registerWrite
  rw [writeAccess_unit hu, h]

end

/-! ### REGISTER_WRITE -/

section
variable {unit : BitVec 8} {index : BitVec 16} {sub rights scope : BitVec 8} {data : List Byte} {d : ObjDef}

/-- The rights a REGISTER_WRITE is made with. -/
def asWho (rights scope : BitVec 8) : Who := { level := rights.toNat % 4, scope := scope.toNat }

theorem registerWrite_answers {y : State} {a : Ans} (hu : unit.toNat ≠ 0x7F)
    (h : writeAt (asWho rights scope) unit.toNat index.toNat sub.toNat (byteNats data) (fresh s) = (a, fresh s))
    (hy : giveAns a (fresh s) = y) :
    exec (.registerWrite unit index sub rights scope data) s = .next y := by
  refine exec_of_kept (exec_registerWrite unit index sub rights scope data s) ((registerWrite_of hu h).trans hy) ?_ ?_ <;>
    rw [← hy] <;> rfl

theorem registerWrite_missing (hu : unit.toNat ≠ 0x7F) (h : lookObj s unit.toNat index.toNat sub.toNat = .missing) :
    Refuses (.registerWrite unit index sub rights scope data) s stDecodeError :=
  registerWrite_answers hu (writeAt_missing h) rfl

theorem registerWrite_reserved (hu : unit.toNat ≠ 0x7F) (h : lookObj s unit.toNat index.toNat sub.toNat = .reserved) :
    NoEffect (.registerWrite unit index sub rights scope data) s :=
  registerWrite_answers hu (writeAt_reserved h) rfl

theorem registerWrite_away {h : Nat} (hu : unit.toNat ≠ 0x7F)
    (hd : lookObj s unit.toNat index.toNat sub.toNat = .obj d) (ha : awayHint s unit.toNat d = some h) :
    exec (.registerWrite unit index sub rights scope data) s =
      .next { s with out := { status := stRetry, hint := h, data := leBytes 4 h } } :=
  registerWrite_answers hu (writeAt_away hd ha) rfl

theorem registerWrite_barred (hu : unit.toNat ≠ 0x7F)
    (hd : lookObj s unit.toNat index.toNat sub.toNat = .obj d) (ha : awayHint s unit.toNat d = none)
    (hbar : (!d.acc.writable || decide ((asWho rights scope).level < d.wrights) ||
      scopeBars s (scopeOf (asWho rights scope)) unit.toNat d sub.toNat (leNat (byteNats data))) = true) :
    Refuses (.registerWrite unit index sub rights scope data) s stAccessDenied :=
  registerWrite_answers hu ((writeAt_present hd ha).trans (if_pos hbar)) rfl

/-- The effect of a write that its object takes is that of `writeObj`. -/
theorem registerWrite_allowed (hu : unit.toNat ≠ 0x7F)
    (hd : lookObj s unit.toNat index.toNat sub.toNat = .obj d) (ha : awayHint s unit.toNat d = none)
    (hbar : (!d.acc.writable || decide ((asWho rights scope).level < d.wrights) ||
      scopeBars s (scopeOf (asWho rights scope)) unit.toNat d sub.toNat (leNat (byteNats data))) = false)
    {y : State} (hy : writeObj 0 (scopeOf (asWho rights scope)) unit.toNat d sub.toNat (byteNats data) (fresh s) = y) :
    registerWrite (asWho rights scope) unit.toNat index.toNat sub.toNat (byteNats data) (fresh s) = giveAns (ansOf y) y := by
  refine registerWrite_of hu ((writeAt_present hd ha).trans ((if_neg (by rw [hbar]; decide)).trans ?_))
  rw [← hy]
  rfl

theorem registerWrite_refused (hu : unit.toNat ≠ 0x7F)
    (hd : lookObj s unit.toNat index.toNat sub.toNat = .obj d) (ha : awayHint s unit.toNat d = none)
    (hbar : (!d.acc.writable || decide ((asWho rights scope).level < d.wrights) ||
      scopeBars s (scopeOf (asWho rights scope)) unit.toNat d sub.toNat (leNat (byteNats data))) = false)
    (hy : writeObj 0 (scopeOf (asWho rights scope)) unit.toNat d sub.toNat (byteNats data) (fresh s) =
      answer stBadFormat (fresh s)) :
    Refuses (.registerWrite unit index sub rights scope data) s stBadFormat :=
  refuses_run (exec_registerWrite unit index sub rights scope data s) (registerWrite_allowed hu hd ha hbar hy)

end

section
variable {src scope u b : Nat} {l : List Nat} {d : ObjDef}

theorem writeObj_length (h : l.length ≠ d.len) : writeObj src scope u d b l s = answer stBadFormat s := if_pos h

theorem writeObj_plain (hlen : l.length = d.len) (hact : writeAction src scope u d.index b (leNat l) l s = none) :
    writeObj src scope u d b l s = storePlain u (d.index * 256 + b) d.acc (leNat l) s := by
  unfold writeObj
  dsimp only
  rw [if_neg (by simp [hlen]), hact]

theorem storePlain_refused {k v : Nat} {acc : Access}
    (h : inRange k (plainStored (k / 256) v) = false ∨ plainOk s (k / 256) (plainStored (k / 256) v) = false) :
    storePlain u k acc v s = answer stBadFormat s := by
  unfold storePlain
  exact if_pos (by simpa using h)

theorem storePlain_taken {k v : Nat} {acc : Access} (hr : inRange k (plainStored (k / 256) v) = true)
    (hp : plainOk s (k / 256) (plainStored (k / 256) v) = true) :
    storePlain u k acc v s = if acc = .rws then storeRws u k (plainStored (k / 256) v) s else
      storeObj u k (plainStored (k / 256) v) s := by
  unfold storePlain
  exact if_neg (by simp [hr, hp])

/-- What storing an object leaves, recorded or not. -/
structure StoresObj (u k v : Nat) (s y : State) : Prop where
  fields : ∃ D Q I, y = { s with dict := D, copy := { s.copy with queue := Q }, count := { s.count with intake := I }
                                 out := { s.out with status := stOk } }
  value : (u, k) ≠ (dev, Obj.deviceLogDropped) → getObj y u k = v % 2 ^ objBits k
  objs : OtherObjects s y [(u, k), (dev, Obj.deviceLogDropped)]

theorem storesObj_storeObj {k : Nat} (v : Nat) (hk : k < 2 ^ 24) : StoresObj u k v s (storeObj u k v s) where
  fields := ⟨(setObj u k v s).dict, _, _, rfl⟩
  value _ := getObj_setObj_same s u k v
  objs w j hj hn := otherObjects_set (u := u) (v := v) rfl hk w j hj fun e => hn (List.mem_cons_of_mem _ (by simp_all))

theorem storesObj_storeRws {k : Nat} (v : Nat) (hk : k < 2 ^ 24) : StoresObj u k v s (storeRws u k v s) := by
  obtain ⟨hf, ho⟩ := recordObj_frame u k v (storeObj u k v s)
  obtain ⟨y, hy⟩ : ∃ y, y = recordObj u k v (storeObj u k v s) := ⟨_, rfl⟩
  rw [← hy] at hf ho
  rw [storeRws, ← hy]
  refine ⟨⟨y.dict, y.copy.queue, y.count.intake, ?_⟩, fun h => (ho u k hk h).trans (getObj_setObj_same s u k v), ?_⟩
  · rw [hf]; rfl
  · intro w j hj hn
    simp only [List.mem_cons, List.not_mem_nil, or_false, not_or] at hn
    exact (ho w j hj hn.2).trans (otherObjects_set (u := u) (v := v) rfl hk w j hj (by simpa using hn.1))

end

section
variable {unit : BitVec 8} {index : BitVec 16} {sub rights scope : BitVec 8} {data : List Byte} {d : ObjDef}

theorem registerWrite_stores (hu : unit.toNat ≠ 0x7F)
    (hd : lookObj s unit.toNat index.toNat sub.toNat = .obj d) (ha : awayHint s unit.toNat d = none)
    (hbar : (!d.acc.writable || decide ((asWho rights scope).level < d.wrights) ||
      scopeBars s (scopeOf (asWho rights scope)) unit.toNat d sub.toNat (leNat (byteNats data))) = false)
    {y : State} {k v : Nat}
    (hy : writeObj 0 (scopeOf (asWho rights scope)) unit.toNat d sub.toNat (byteNats data) (fresh s) = y)
    (hst : StoresObj unit.toNat k v (fresh s) y) (hne : (unit.toNat, k) ≠ (dev, Obj.deviceLogDropped)) :
    Answers (.registerWrite unit index sub rights scope data) s (fun s' => s'.out = { status := stOk } ∧
      getObj s' unit.toNat k = v % 2 ^ objBits k ∧
      OtherObjects s s' [(unit.toNat, k), (dev, Obj.deviceLogDropped)] ∧ SameMemory s s') := by
  have hrun := registerWrite_allowed hu hd ha hbar hy
  obtain ⟨D, Q, I, hf⟩ := hst.fields
  refine answers_of_kept (exec_registerWrite unit index sub rights scope data s) hrun ?_ ?_ ⟨?_, hst.value hne, hst.objs, ?_⟩
  · rw [hf]; rfl
  · rw [hf]; rfl
  · rw [hf]; rfl
  · rw [hf]
    exact ⟨fun _ _ _ _ _ => rfl, fun _ => rfl, fun _ => rfl⟩

end

/-! ### The dictionary window -/

section
variable {t v rights : Nat} {a : Ans} {s1 : State}

/-- The window of tile `t` while its request runs. -/
def windowAsked (t v rights : Nat) (s : State) : State :=
  { s with window := fupd {} s.window t (fun x => { x with request := v, status := 0, rights := rights }) }

/-- The window of tile `t` with its request answered. -/
def windowShown (t v rights : Nat) (a : Ans) (s : State) : State :=
  { s with window := fupd {} s.window t (fun x => { x with
      request := v, rights := rights, status := fld 16 11 (ansData a).length + fld 8 8 a.status + 1
      data := windowFill x.data (ansData a) }) }

theorem windowRequest_of (h : windowDo (windowWho (windowAsked t v rights s) t rights) v
      (windowFill (getWindow (windowAsked t v rights s) t).data []) (windowAsked t v rights s) = (a, s1)) :
    windowRequest t v rights s = giveAns a (bump t Obj.windowTransactions 1 (windowShown t v rights a s1)) := by
  unfold windowRequest
  unfold windowAsked at h
  dsimp only
  rw [h]
  rfl

theorem take_windowFill (old new : List Nat) : (windowFill old new).take new.length = new :=
  List.take_left

theorem windowAnswer {cmd : Instr} {f : State → State} (hcmd : exec cmd s = run f s)
    (hrun : f (fresh s) = giveAns a (bump t Obj.windowTransactions 1 (windowShown t v rights a s1))) :
    Answers cmd s (fun s' => s'.out.status = a.status ∧ s'.out.data = ansData a ∧
      (getWindow s' t).status = fld 16 11 (ansData a).length + fld 8 8 a.status + 1 ∧
      (getWindow s' t).data.take (ansData a).length = ansData a ∧
      getObj s' t Obj.windowTransactions = (getObj s1 t Obj.windowTransactions + 1) % 2 ^ 64 ∧
      OtherObjects s1 s' [(t, Obj.windowTransactions)] ∧ SameMemory s1 s') := by
  have hw : fget ({} : WindowS) (windowShown t v rights a s1).window t = { fget ({} : WindowS) s1.window t with
      request := v, rights := rights, status := fld 16 11 (ansData a).length + fld 8 8 a.status + 1
      data := windowFill (fget ({} : WindowS) s1.window t).data (ansData a) } := by
    rw [windowShown, fget_fupd_same]
  refine answers_run hcmd ?_
  rw [hrun]
  refine ⟨rfl, rfl, congrArg WindowS.status hw, ?_, getObj_setObj_same _ _ _ _, ?_, ?_⟩
  · exact (congrArg (fun x : WindowS => x.data.take (ansData a).length) hw).trans (take_windowFill _ _)
  · exact otherObjects_set (s := s1) (u := t) (k := Obj.windowTransactions) rfl (by decide)
  · exact ⟨fun _ _ _ _ _ => rfl, fun _ => rfl, fun _ => rfl⟩

end

/-- The state in which the request of row `n` finds the window. -/
def windowReady (n : Nat) (t : TileN) (data : List Byte) (s : State) : State :=
  if n = 2 then windowPut t.val (byteNats data) (fresh s) else fresh s

theorem exec_window {t : TileN} {v : BitVec 64} {data : List Byte} {rights : BitVec 2} {n : Nat} {cmd : Instr}
    (h : (n, cmd) ∈ ([(1, .windowRead t v rights), (2, .windowWrite t v data rights), (3, .windowDescribe t v rights)] :
      List (Nat × Instr))) :
    ∃ f, exec cmd s = run f s ∧
      f (fresh s) = if opOf n v.toNat then windowRequest t.val v.toNat rights.toNat (windowReady n t data s) else fresh s := by
  simp only [List.mem_cons, Prod.mk.injEq, List.not_mem_nil, or_false] at h
  rcases h with ⟨rfl, rfl⟩ | ⟨rfl, rfl⟩ | ⟨rfl, rfl⟩
  · exact ⟨_, exec_windowRead t v rights s, rfl⟩
  · exact ⟨_, exec_windowWrite t v data rights s, rfl⟩
  · exact ⟨_, exec_windowDescribe t v rights s, rfl⟩

/-! ### Reads -/

section
variable {w : Who} {u i b : Nat} {d : ObjDef}

theorem readAccess_missing (hu : u ≠ 0x7F) (h : lookObj s u i b = .missing) :
    (readAccess s w u i b).status = stDecodeError := by
  simp only [readAccess, if_neg hu, readAt, h]

theorem describeAccess_missing (hu : u ≠ 0x7F) (h : lookObj s u i b = .missing) :
    (describeAccess s u i b).status = stDecodeError := by
  simp only [describeAccess, if_neg hu, describeAt, h]

theorem readAccess_reserved (hu : u ≠ 0x7F) (h : lookObj s u i b = .reserved) :
    readAccess s w u i b = ⟨stOk, 0, [0]⟩ := by
  simp only [readAccess, if_neg hu, readAt, h]

theorem readAccess_barred (hu : u ≠ 0x7F) (hd : lookObj s u i b = .obj d) (ha : awayHint s u d = none)
    (hr : d.acc.readable = false) : (readAccess s w u i b).status = stAccessDenied := by
  simp [readAccess, hu, readAt, hd, ha, hr]

theorem readAccess_value {v : Nat} (hu : u ≠ 0x7F) (hd : lookObj s u i b = .obj d) (ha : awayHint s u d = none)
    (hr : d.acc.readable = true) (hal : alienRead s (scopeOf w) u i b = false)
    (hv : readObj s u (i * 256 + b) = some v) : readAccess s w u i b = ⟨stOk, 0, leBytes d.len v⟩ := by
  simp [readAccess, hu, readAt, hd, ha, hr, hal, hv]

end

/-- Settles O47: an access is decided row by row; a stored object changes itself alone, beside the log's
count of dropped entries; the window makes the same access and shows what it answered. -/
theorem dictionaryAccess : Obligations.DictionaryAccess := by
  unfold Obligations.DictionaryAccess
  refine ⟨?_, ?_, ?_⟩
  · intro unit index sub rights scope data s u l w cmd hu
    refine ⟨registerWrite_missing hu, registerWrite_reserved hu, fun d hd => ⟨fun h => registerWrite_away hu hd,
      registerWrite_barred hu hd, fun ha hb hlen => registerWrite_refused hu hd ha hb (writeObj_length hlen),
      fun ha hb hlen hact => ⟨fun hbad => ?_, fun hr hp hne => ?_⟩⟩⟩
    · exact registerWrite_refused hu hd ha hb ((writeObj_plain hlen hact).trans (storePlain_refused hbad))
    · have hk : d.index * 256 + sub.toNat < 2 ^ 24 := by
        have hi := lookObj_index hd
        have := index.isLt
        have := sub.isLt
        omega
      have hw := (writeObj_plain hlen hact).trans (storePlain_taken (acc := d.acc) hr hp)
      by_cases hacc : d.acc = .rws
      · exact registerWrite_stores hu hd ha hb (hw.trans (if_pos hacc)) (storesObj_storeRws _ hk) hne
      · exact registerWrite_stores hu hd ha hb (hw.trans (if_neg hacc)) (storesObj_storeObj _ hk) hne
  · intro t v data rights n cmd s hmem q sd s0
    obtain ⟨f, hcmd, hf⟩ := exec_window (s := s) hmem
    refine ⟨fun hop => noEffect_run hcmd (hf.trans (if_neg (by rw [hop]; decide))), fun a s1 hop hdo hlen => ?_⟩
    exact windowAnswer hcmd (hf.trans ((if_pos hop).trans (windowRequest_of hdo)))
  · intro w u i b s hu
    exact ⟨fun h => ⟨readAccess_missing hu h, describeAccess_missing hu h⟩, readAccess_reserved hu, fun d hd ha =>
      ⟨readAccess_barred hu hd ha, fun v => readAccess_value hu hd ha⟩⟩

end Sys2Proof.Machine

/-! ## Proofs: a repair record committed where the count of pending records is wider than its object -/

namespace Sys2Proof.Machine

open Sys2Proof

/-- The record of a remap of tile 0 (kind 2). -/
def remapRecord : Record := { seq := 0, kind := 2, key := 0, length := 4, payload := 0 }

/-- The Copybook ready, with that record waiting, and 257 in RepairRecordsPending of tile 0: a number that no command
stores, since the object has 8 bits. -/
def widePending : State :=
  { copy := { queue := [remapRecord] }, dict := [(okey 0 Obj.repairRecordsPending, 257)] }

theorem widePending_ready : getObj widePending dev Obj.copybookState = 0 ∧ mgmtDown widePending = false ∧
    getObj widePending 0 Obj.repairRecordsPending = 257 := by decide +kernel

/-- The object keeps the low 8 bits of the count less one. -/
theorem programDone_widePending {s' : State} (h : exec (.copybookProgramDone true) widePending = .next s') :
    getObj s' 0 Obj.repairRecordsPending = 0 := by
  cases h
  decide +kernel

/-- Refutes O52: where RepairRecordsPending holds 257 (`widePending`, which nothing in the statement rules out), the commit
of a repair record leaves 0 in its 8 bits, and the statement has 256. -/
theorem not_copybookAppendsAndCompacts : ¬ Obligations.CopybookAppendsAndCompacts := by
  unfold Obligations.CopybookAppendsAndCompacts
  rintro ⟨hprogram, -⟩
  obtain ⟨-, happends⟩ := hprogram widePending
  obtain ⟨hready, hup, hcount⟩ := widePending_ready
  obtain ⟨⟨s', hexec, -, -, -, -, -, hpending⟩, -⟩ := happends remapRecord [] rfl hready hup
  have hstated : 0 = 256 :=
    calc 0 = getObj s' 0 Obj.repairRecordsPending := (programDone_widePending hexec).symm
      _ = getObj widePending 0 Obj.repairRecordsPending - 1 := hpending (.inl rfl)
      _ = 256 := by rw [hcount]
  exact absurd hstated (by decide)

end Sys2Proof.Machine

/-! ## Proofs: a request of the block map that names a pass beyond the pass table -/

namespace Sys2Proof.Machine

open Sys2Proof

/-- A read of the block map's own that is to take the pass tier of pass `p`: no command names a pass above 255. -/
def strayRequest (p : Nat) : Req :=
  { id := 0, requester := 0x60, orig := 0x60, source := 0, tag := 0, addr := 0, len := 32, write := false, passNo := some p }

/-- The request is the one piece of work behind the ingress FIFO of tile 0's block map. -/
def strayWork (p : Nat) (s : State) : State := mapWork 0 false [.req (strayRequest p)] s

/-- The pass whose PassNonConforming would be ResetInProgress. -/
def resetPass : Nat := Obj.resetInProgress - Obj.passNonConforming

/-- Tile 0 in a shallow reset that has lasted 30 µs, with that request waiting. -/
def resetOver : State :=
  strayWork resetPass { time := { elapsed := 30000 }, treset := [(0, { kind := 1, start := 0 })] }

theorem resetOver_ends : (getReset resetOver 0).kind ≠ 0 ∧
    (getReset resetOver 0).start + 30000 ≤ resetOver.time.elapsed ∧ (∀ c < 48, (getTrain resetOver 0 c).quiet = none) ∧
    ((getReset resetOver 0).kind = 2 → ∀ c < 48, chState resetOver 0 c = 2 ∨ chState resetOver 0 c = 4) := by
  decide +kernel

/-- The block map goes on when the reset ends, and the request that it sends is counted as nonconforming. -/
theorem tileResetEnd_resetOver {s' : State} (h : exec (.tileResetEnd 0) resetOver = .next s') :
    getObj s' 0 Obj.resetInProgress = 1 := by
  cases h
  decide +kernel

/-- Refutes O53: where a request that waits in the block map names a pass beyond the pass table (`resetOver`, which nothing
in the statement rules out), it is counted in the object that follows PassNonConforming by that number when the tile's
reset ends: in ResetInProgress, which the statement has 0. -/
theorem not_resetsWithinATile : ¬ Obligations.ResetsWithinATile := by
  unfold Obligations.ResetsWithinATile
  rintro ⟨-, hend, -⟩
  obtain ⟨-, hends⟩ := hend 0 resetOver
  obtain ⟨s', hexec, -, hzero, -⟩ := hends resetOver_ends
  exact absurd (hzero.symm.trans (tileResetEnd_resetOver hexec)) (by decide)

end Sys2Proof.Machine

/-! ## Proofs: a channel that is forced disabled while a stray request waits in the block map -/

namespace Sys2Proof.Machine

open Sys2Proof

/-- The pass whose PassNonConforming would be the ChannelState of channel 0. -/
def channelPass : Nat := Obj.channelState - Obj.passNonConforming

/-- The request of the block map that names that pass waits in tile 0. -/
def channelStray : State := strayWork channelPass {}

/-- The accesses of the channel fail, the block map goes on, and the request that it sends is counted as nonconforming. -/
theorem channelDisable_channelStray {s' : State} (h : exec (.channelDisableWrite 0 0 1) channelStray = .next s') :
    getObj s' 0 Obj.channelState = 5 := by
  cases h
  decide +kernel

/-- Refutes O16: where a request that waits in the block map names a pass beyond the pass table (`channelStray`, which
nothing in the statement rules out), it is counted in the object that follows PassNonConforming by that number when a
channel is forced disabled: in its ChannelState, which the statement has 4. -/
theorem not_repairAndMigration : ¬ Obligations.RepairAndMigration := by
  unfold Obligations.RepairAndMigration
  rintro ⟨⟨-, -, -, hdisable⟩, -⟩
  obtain ⟨-, -, hone⟩ := hdisable 0 0 1 channelStray
  obtain ⟨s', hexec, -, -, hstate, -⟩ := hone (by decide)
  exact absurd (hstate.symm.trans (channelDisable_channelStray hexec)) (by decide)

end Sys2Proof.Machine

/-! ## Proofs: a resume whose remembered weights lie at the end of an address space -/

namespace Sys2Proof.Machine

open Sys2Proof Sys2Proof.Tests

/-- A resume of the saved group, whose weights the array remembers at the last byte that a 40-bit address names. -/
def wrapped : State :=
  fetched 0 (2 + fld 150 2 3)
    (modArray 1 0 (fun x => { x with sources := [(0, slateAt (2 ^ 40 - 1)), (64, slateAt 64)] }) (saved 1))

/-- The tile and the array of the resume. -/
abbrev wrapTile : TileN := 1
abbrev wrapArray : EngineN := 0

/-- The save area of the array. -/
abbrev wrappedBase : Nat := getObj wrapped wrapTile.val (Obj.saveAreaBase + wrapArray.val)

/-- Its save header, as the statement reads it. -/
abbrev wrappedHeader : Nat := slateNat wrapped wrapTile.val wrappedBase 64

/-- The weight address that the header stands for, and the bytes of the weights. -/
abbrev wrappedWeights : Nat := sourceOf wrapped wrapTile.val wrapArray.val (bits wrappedHeader 448 40)
abbrev wrappedSize : Nat :=
  imgBytes (bits wrappedHeader 316 9) (bits wrappedHeader 308 8) (bits wrappedHeader 304 4) (bits wrappedHeader 295 2)

/-- The address of the STREAM descriptor that the header stands for. -/
abbrev wrappedStream : Nat := sourceOf wrapped wrapTile.val wrapArray.val (bits wrappedHeader 408 40)

theorem wrapped_issuable :
    Issuable wrapped wrapTile.val wrapArray.val { idx := 0, raw := 2 + fld 150 2 3 } [] := by
  unfold Issuable
  decide +kernel

theorem wrapped_idle : (getArray wrapped wrapTile.val wrapArray.val).fenced = false ∧
    (getArray wrapped wrapTile.val wrapArray.val).stream = none ∧ tripped wrapped = false ∧
    firstLoad wrapped wrapTile.val wrapArray.val = none ∧ (getArray wrapped wrapTile.val wrapArray.val).group = none ∧
    wrapped.sramErr = [] ∧ wrappedBase + 0x41000 ≤ slateSize ∧
    (getMover wrapped wrapTile.val (2 * wrapArray.val)).ops = [] ∧
    (getMover wrapped wrapTile.val (2 * wrapArray.val + 1)).ops = [] := by
  decide +kernel

theorem wrapped_valid : slateBad wrapped wrapTile.val wrappedBase 64 = false ∧ bits wrappedHeader 0 8 = 1 ∧
    slateBad wrapped wrapTile.val (wrappedBase + 0x1000) (512 * bits wrappedHeader 325 10) = false ∧
    bits wrappedHeader 376 32 ≠ 0 := by
  decide +kernel

theorem wrapped_sources : adSpace wrappedWeights = 2 ∧ adSpace wrappedStream = 2 ∧
    slateBad wrapped wrapTile.val (adLow wrappedWeights) wrappedSize = false ∧
    slateBad wrapped wrapTile.val (adLow wrappedStream) 64 = false ∧
    ∀ y ∈ (getEngine wrapped wrapTile.val wrapArray.val).prog, resuming y = false := by
  decide +kernel

/-- The bytes that follow that address in the Slate's own numbering are zero … -/
theorem wrapped_expected : slateNat wrapped wrapTile.val (adLow wrappedWeights) wrappedSize = 0 := by
  decide +kernel

/-- … and the resumed plane holds those at the start of the Slate, where the header lies. -/
theorem streamResume_wrapped {s' : State} (h : exec (.streamResume wrapTile wrapArray) wrapped = .next s') :
    (getArray s' wrapTile.val wrapArray.val).planeA.image ≠ 0 := by
  cases h
  decide +kernel

/-- Refutes O33: where the weight address that an array remembers lies at the end of the 40 bits an address carries
(`wrapped`, which nothing in the statement rules out), the requests that reload it go round to the start of the Slate,
and the resumed plane is not the image that the statement reads on. -/
theorem not_groupsDrainAndResume : ¬ Obligations.GroupsDrainAndResume := by
  unfold Obligations.GroupsDrainAndResume
  rintro ⟨-, hresume⟩
  obtain ⟨hfenced, hstream, htrip, hload, hgroup, hsram, hbase, hops, hops'⟩ := wrapped_idle
  have hvalid := wrapped_valid
  have hsources := wrapped_sources
  have hexpected := wrapped_expected
  unfold wrappedHeader wrappedBase at hvalid
  unfold wrappedSize wrappedWeights at hsources hexpected
  unfold wrappedStream at hsources
  unfold wrappedHeader wrappedBase at hsources hexpected
  obtain ⟨hheader, hstate, hrows, htotal⟩ := hvalid
  obtain ⟨hweights, hsdesc, hwbad, hsbad, hprog⟩ := hsources
  dsimp -proj only at hresume
  obtain ⟨-, -, -, hruns⟩ := hresume wrapTile wrapArray _ _ wrapped wrapped_issuable (by decide +kernel)
    (by decide +kernel) rfl hfenced hstream htrip hload hgroup hsram hbase hops hops'
  obtain ⟨s', hexec, -, himage, -⟩ := hruns hheader hstate hrows htotal hweights hsdesc hwbad hsbad hprog
  exact streamResume_wrapped hexec (himage.trans hexpected)

end Sys2Proof.Machine

/-! ## Proofs: raw estimates, slices, windows, marks and the estimator's fit -/

namespace Sys2Proof.Machine

open Sys2Proof

/-! ### Raw estimates (R310, R321) -/

/-- Charging shares changes the counters of partitions and queues alone. -/
theorem chargeShares_fields (t : Nat) (raw : List Nat) (parts queues : List (Nat × Nat)) (s : State) :
    chargeShares t raw parts queues s = { s with power := (chargeShares t raw parts queues s).power } := by
  unfold chargeShares
  split <;> rfl

theorem getPTile_chargeShares (t : Nat) (raw : List Nat) (parts queues : List (Nat × Nat)) (s : State) (u : Nat) :
    getPTile (chargeShares t raw parts queues s) u = getPTile s u := by rw [chargeShares_fields]; rfl

theorem getPTile_modPTile_same (t : Nat) (f : PowerTile → PowerTile) (s : State) :
    getPTile (modPTile t f s) t = f (getPTile s t) := by
  unfold getPTile modPTile
  rw [fget_fupd_same]

theorem answers_rawEstimate {t : TileN} {counts parts queues : List (Nat × Nat)} {s : State}
    (h : due s t.val 4 1000 = true) : Answers (.rawEstimate t counts parts queues) s (fun s' =>
      (getPTile s' t.val).parts = addParts (getPTile s t.val).parts (rawParts s t.val counts) ∧
      (getPTile s' t.val).winParts = (getPTile s t.val).winParts ∧
      s' = { s with ptile := s'.ptile, power := s'.power, last := s'.last, out := {} }) := by
  have hdue : due (fresh s) t.val 4 1000 = true := h
  obtain ⟨x, hx⟩ : ∃ x, x = modPTile t.val (fun p => { p with parts := addParts p.parts (rawParts s t.val counts) })
    (take t.val 4 (fresh s)) := ⟨_, rfl⟩
  have hrun : rawEstimate t.val counts parts queues (fresh s) = chargeShares t.val (rawParts s t.val counts) parts queues x := by
    rw [hx, rawEstimate, if_neg (by rw [hdue]; simp)]
    rfl
  have hptile : getPTile x t.val
      = { getPTile s t.val with parts := addParts (getPTile s t.val).parts (rawParts s t.val counts) } := by
    rw [hx, getPTile_modPTile_same]
    rfl
  rw [← getPTile_chargeShares t.val (rawParts s t.val counts) parts queues x] at hptile
  refine answers_of_kept (exec_rawEstimate t counts parts queues s) hrun ?_ ?_ ⟨by rw [hptile], by rw [hptile], ?_⟩
    <;> rw [chargeShares_fields, hx] <;> rfl

/-! ### Slices (R313, R320) -/

theorem fitFraction_within (limit other : Int) (full : Nat) : 50 ≤ fitFraction limit other full ∧ fitFraction limit other full ≤ 1000 := by
  unfold fitFraction
  split_ifs <;> omega

theorem peakFractions_within (budget : Int) (c l m r : Nat) :
    ∀ f ∈ [(peakFractions budget c l m r).1, (peakFractions budget c l m r).2.1, (peakFractions budget c l m r).2.2], 50 ≤ f ∧ f ≤ 1000 := by
  unfold peakFractions
  extract_lets a b
  have ha := fitFraction_within budget ((l + m + r : Nat) : Int) c
  have hb := fitFraction_within budget ((c * 50 / 1000 + m + r : Nat) : Int) l
  have hm := fitFraction_within budget ((c * 50 / 1000 + l * 50 / 1000 + r : Nat) : Int) m
  have h50 : 50 ≤ 50 ∧ 50 ≤ 1000 := by decide
  have h1000 : 50 ≤ 1000 ∧ 1000 ≤ 1000 := by decide
  split_ifs <;> simp only [List.forall_mem_cons, List.not_mem_nil, false_imp_iff, implies_true, and_true]
  · exact ⟨ha, h1000, h1000⟩
  · exact ⟨h50, hb, h1000⟩
  · exact ⟨h50, h50, hm⟩

/-- The tiles' accounts of a slice touch their own records alone. -/
theorem sliceTiles_fields (l : List Nat) (f : State → Nat → State) (hf : ∀ x t, f x t = { x with ptile := (f x t).ptile }) (s : State) :
    l.foldl f s = { s with ptile := (l.foldl f s).ptile } := by
  induction l generalizing s with
  | nil => rfl
  | cons t l ih =>
    rw [List.foldl_cons, ih (f s t), hf s t]

/-- The energy of a slice in pJ (R320). -/
def sliceEnergy (s : State) : Nat := sumOf ((List.range 66).map (railSlice s))

/-- Closing a slice's accounts. -/
structure SliceClosed (s x : State) : Prop where
  energy : getObj x dev Obj.deviceEnergy = (getObj s dev Obj.deviceEnergy + (s.power.carry + sliceEnergy s) / 1000000) % 2 ^ 64
  power : x.power = { s.power with
    carry := (s.power.carry + sliceEnergy s) % 1000000, windowEnergy := s.power.windowEnergy + sliceEnergy s }
  fields : x = { s with dict := x.dict, ptile := x.ptile, power := x.power, last := x.last }
  objs : ∀ u k, k < 2 ^ 24 → (u, k) ≠ (dev, Obj.deviceEnergy) → getObj x u k = getObj s u k

theorem deviceEnergy_bits : objBits Obj.deviceEnergy = 64 ∧ objBits Obj.peakSlicesLimited = 64 := by decide +kernel

theorem accountSlice_closed (s : State) : (accountSlice (take dev 5 s)).1 = sliceEnergy s ∧
    SliceClosed s (accountSlice (take dev 5 s)).2 := by
  have hrail : railSlice (take dev 5 s) = railSlice s := rfl
  unfold accountSlice
  rw [hrail]
  refine ⟨rfl, ?_⟩
  extract_lets e tot x
  have hx : x = { take dev 5 s with ptile := x.ptile } := sliceTiles_fields _ _ (fun y t => by dsimp only; split <;> rfl) _
  clear_value x
  have hdict : x.dict = s.dict := by rw [hx]; rfl
  have hpower : x.power = s.power := by rw [hx]; rfl
  have he : e = sliceEnergy s := rfl
  have htot : tot = s.power.carry + sliceEnergy s := rfl
  refine ⟨?_, ?_, ?_, fun u k hk hne => ?_⟩
  · rw [bump, getObj_setObj_same, deviceEnergy_bits.1, htot]
    exact congrArg (fun n => (n + _) % 2 ^ 64) (getObj_congr hdict _ _)
  · show { x.power with carry := tot % 1000000, windowEnergy := x.power.windowEnergy + e } = _
    rw [hpower, htot, he]
  · rw [hx]
    rfl
  · rw [bump, getObj_setObj_other _ fun h => hne (by obtain ⟨rfl, rfl⟩ := okey_inj hk (by decide) h; rfl)]
    exact getObj_congr hdict u k

/-- The decision that ends a slice: the fractions of the next one, whether it is limited, and the slices kept. -/
def sliceDecided (e : Nat) (f : Nat × Nat × Nat) (limited : Bool) (x : State) : State :=
  { x with power := { x.power with
      slices := (e :: x.power.slices).take 99, peakA := f.1, peakL := f.2.1, peakM := f.2.2, peakNow := x.power.peakNow || limited } }

/-- A slice ends with one of the two decisions of R313. -/
theorem powerSlice_cases {s : State} (h : due s dev 5 10000 = true) : ∃ x, SliceClosed s x ∧
    (powerSlice s = sliceDecided (sliceEnergy s) (1000, 1000, 1000) false x ∨
     ∃ f : Nat × Nat × Nat, (∀ g ∈ [f.1, f.2.1, f.2.2], 50 ≤ g ∧ g ≤ 1000) ∧
       powerSlice s = countEv dev 0x0101 0 1 (bump dev Obj.peakSlicesLimited 1 (sliceDecided (sliceEnergy s) f true x))) := by
  obtain ⟨henergy, hclosed⟩ := accountSlice_closed s
  obtain ⟨x, hx⟩ : ∃ x, x = (accountSlice (take dev 5 s)).2 := ⟨_, rfl⟩
  have hpair : accountSlice (take dev 5 s) = (sliceEnergy s, x) := by rw [← henergy, hx]
  refine ⟨x, hx ▸ hclosed, ?_⟩
  unfold powerSlice
  rw [if_neg (by rw [h]; simp), hpair]
  dsimp -zeta only
  extract_lets last lim budget tiles at_ c l m r passed f d y
  have hf : passed = true → f = peakFractions budget c l m r := fun hp => if_pos hp
  have hf' : passed = false → f = (1000, 1000, 1000) := fun hp => if_neg (by rw [hp]; exact Bool.false_ne_true)
  have hs2 : y = sliceDecided (sliceEnergy s) f passed x := rfl
  clear_value y f passed
  cases hp : passed with
  | false =>
    left
    rw [if_neg Bool.false_ne_true, hs2, hp, hf' hp]
  | true =>
    right
    refine ⟨f, ?_, ?_⟩
    · rw [hf hp]
      exact peakFractions_within budget c l m r
    · rw [if_pos rfl, hs2, hp]

theorem answers_powerSliceEnd {s : State} (h : due s dev 5 10000 = true) : Answers .powerSliceEnd s (fun s' =>
      getObj s' dev Obj.deviceEnergy = (getObj s dev Obj.deviceEnergy + (s.power.carry + sliceEnergy s) / 1000000) % 2 ^ 64 ∧
      s'.power.carry = (s.power.carry + sliceEnergy s) % 1000000 ∧ s'.power.windowEnergy = s.power.windowEnergy + sliceEnergy s ∧
      s'.power.slices = (sliceEnergy s :: s.power.slices).take 99 ∧
      ((s'.power.peakA = 1000 ∧ s'.power.peakL = 1000 ∧ s'.power.peakM = 1000 ∧
          getObj s' dev Obj.peakSlicesLimited = getObj s dev Obj.peakSlicesLimited) ∨
        (getObj s' dev Obj.peakSlicesLimited = (getObj s dev Obj.peakSlicesLimited + 1) % 2 ^ 64 ∧ s'.power.peakNow = true ∧
          ∀ f ∈ [s'.power.peakA, s'.power.peakL, s'.power.peakM], 50 ≤ f ∧ f ≤ 1000)) ∧
      OtherObjects s s' [(dev, Obj.deviceEnergy), (dev, Obj.peakSlicesLimited)] ∧ SameMemory s s') := by
  obtain ⟨x, ⟨henergy, hpower, hfields, hobjs⟩, hcases⟩ := powerSlice_cases (s := fresh s) h
  have hsum : sliceEnergy (fresh s) = sliceEnergy s := rfl
  rw [hsum] at henergy hpower hcases
  have hlim : getObj x dev Obj.peakSlicesLimited = getObj s dev Obj.peakSlicesLimited := hobjs _ _ (by decide) (by decide)
  have hslices : x.power.slices = s.power.slices := by rw [hpower]; rfl
  have hpend : x.pending = s.pending := by rw [hfields]; rfl
  have htime : x.time = s.time := by rw [hfields]; rfl
  have hwords : SameWords s x := by refine sameWords_of ?_ ?_ ?_ ?_ <;> rw [hfields] <;> rfl
  have hothers : ∀ u k, k < 2 ^ 24 → (u, k) ∉ [(dev, Obj.deviceEnergy), (dev, Obj.peakSlicesLimited)] → getObj x u k = getObj s u k :=
    fun u k hk hn => hobjs u k hk fun e => hn (by rw [e]; simp)
  obtain hrun | ⟨f, hwithin, hrun⟩ := hcases
  · refine answers_of_kept (exec_powerSliceEnd s) hrun hpend htime
      ⟨henergy, congrArg PowerDev.carry hpower, congrArg PowerDev.windowEnergy hpower,
        congrArg (fun l => (sliceEnergy s :: l).take 99) hslices,
        .inl ⟨rfl, rfl, rfl, hlim⟩, hothers, (hwords.trans (sameWords_of rfl rfl rfl rfl)).sameMemory⟩
  · obtain ⟨y, hy⟩ : ∃ y, y = sliceDecided (sliceEnergy s) f true x := ⟨_, rfl⟩
    rw [← hy] at hrun
    have hobj : ∀ u k, getObj (bump dev Obj.peakSlicesLimited 1 y) u k = getObj (setObj dev Obj.peakSlicesLimited
        (getObj x dev Obj.peakSlicesLimited + 1) x) u k := by rw [hy]; exact fun _ _ => rfl
    have hpow : y.power = { x.power with slices := (sliceEnergy s :: x.power.slices).take 99, peakA := f.1
                                         peakL := f.2.1, peakM := f.2.2, peakNow := x.power.peakNow || true } := by rw [hy]; rfl
    refine answers_of_kept (exec_powerSliceEnd s) hrun (by rw [← hpend, hy]; rfl) (by rw [← htime, hy]; rfl)
      ⟨?_, ?_, ?_, ?_, .inr ⟨?_, ?_, ?_⟩, fun u k hk hn => ?_, ?_⟩
    · refine (hobj _ _).trans ((getObj_setObj_obj x (by decide) (by decide) (by decide)).trans henergy)
    · show y.power.carry = _
      rw [hpow, hpower]
      rfl
    · show y.power.windowEnergy = _
      rw [hpow, hpower]
      rfl
    · show y.power.slices = _
      rw [hpow, hpower]
      rfl
    · refine (hobj _ _).trans ?_
      rw [getObj_setObj_same, deviceEnergy_bits.2, hlim]
    · show y.power.peakNow = _
      rw [hpow]
      exact Bool.or_true _
    · show ∀ g ∈ [y.power.peakA, y.power.peakL, y.power.peakM], _
      rw [hpow]
      exact hwithin
    · refine (hobj _ _).trans ((getObj_setObj_other x fun e => hn ?_).trans (hothers u k hk hn))
      obtain ⟨rfl, rfl⟩ := okey_inj hk (by decide) e
      simp
    · refine (hwords.trans ?_).sameMemory
      rw [hy]
      exact sameWords_of rfl rfl rfl rfl

/-! ### Windows (R310, R311, R314) -/

/-- What a window's accounts leave to the judgement and the cap that follow them. -/
structure WindowKept (s s' : State) : Prop where
  power : (s'.power.windowEnergy, s'.power.peakLast, s'.power.peakNow, s'.power.fitLeft)
    = (s.power.windowEnergy, s.power.peakLast, s.power.peakNow, s.power.fitLeft)
  tiles : ∀ t, ((getPTile s' t).lastWin, (getPTile s' t).winMeasured) = ((getPTile s t).lastWin, (getPTile s t).winMeasured)
  objs : ∀ u k, k = Obj.devicePowerMeasured ∨ k = Obj.tilePowerMeasured → getObj s' u k = getObj s u k
  words : SameWords s s'

namespace WindowKept
variable {a b c s : State}

theorem refl (s : State) : WindowKept s s := ⟨rfl, fun _ => rfl, fun _ _ _ => rfl, SameWords.refl s⟩

theorem trans (h : WindowKept a b) (h' : WindowKept b c) : WindowKept a c :=
  ⟨h'.power.trans h.power, fun t => (h'.tiles t).trans (h.tiles t), fun u k hk => (h'.objs u k hk).trans (h.objs u k hk),
    h.words.trans h'.words⟩

theorem side (h : Side a b) : WindowKept a b := by
  refine ⟨by rw [h.fields], fun t => by rw [h.fields]; rfl, fun u k hk => ?_, h.sameWords⟩
  obtain rfl | rfl := hk <;> exact h.objs u _ (by decide) (by decide)

theorem set {k : Nat} (u v : Nat) (hk : k < 2 ^ 24) (hn : k ≠ Obj.devicePowerMeasured ∧ k ≠ Obj.tilePowerMeasured) (s : State) :
    WindowKept s (setObj u k v s) := by
  refine ⟨rfl, fun _ => rfl, fun w j hj => getObj_setObj_obj s ?_ ?_ hk, sameWords_of rfl rfl rfl rfl⟩
  · obtain rfl | rfl := hj
    · exact hn.1.symm
    · exact hn.2.symm
  · obtain rfl | rfl := hj <;> decide

/-- An update of a tile's supply record that keeps its window. -/
theorem modPTile (t : Nat) {f : PowerTile → PowerTile} (hf : ∀ p, ((f p).lastWin, (f p).winMeasured) = (p.lastWin, p.winMeasured))
    (s : State) : WindowKept s (Machine.modPTile t f s) := by
  refine ⟨rfl, fun u => ?_, fun _ _ _ => rfl, sameWords_of rfl rfl rfl rfl⟩
  by_cases h : u = t
  · rw [h, getPTile_modPTile_same, hf]
  · unfold getPTile Machine.modPTile
    rw [fget_fupd_other _ _ _ _ h]

theorem ite (p : Prop) [Decidable p] (ha : WindowKept s a) (hb : WindowKept s b) : WindowKept s (if p then a else b) := by
  split
  · exact ha
  · exact hb

theorem foldl {α : Type} {f : State → α → State} (hf : ∀ x i, WindowKept x (f x i)) (l : List α) (s : State) :
    WindowKept s (l.foldl f s) := by
  induction l generalizing s with
  | nil => exact refl s
  | cons i l ih => exact (hf s i).trans (ih _)

theorem vidEmit (r w : Nat) (s : State) : WindowKept s (Machine.vidEmit r w s) := by
  unfold Machine.vidEmit
  refine ite _ (trans ?_ (modPTile r ?_ _)) ⟨rfl, fun _ => rfl, fun _ _ _ => rfl, sameWords_of rfl rfl rfl rfl⟩
  · exact ⟨rfl, fun _ => rfl, fun _ _ _ => rfl, sameWords_of rfl rfl rfl rfl⟩
  · exact fun _ => rfl

theorem vidSend (r w : Nat) (s : State) : WindowKept s (Machine.vidSend r w s) := by
  unfold Machine.vidSend
  exact ite _ ⟨rfl, fun _ => rfl, fun _ _ _ => rfl, sameWords_of rfl rfl rfl rfl⟩ (vidEmit r w s)

theorem advanceStep (t : Nat) (s : State) : WindowKept s (Machine.advanceStep t s) := by
  unfold Machine.advanceStep
  extract_lets x
  split
  · exact refl s
  · extract_lets _
    refine ite _ (modPTile t (by exact fun _ => rfl) s) (ite _ (refl s) ?_)
    exact ((modPTile t (by exact fun _ => rfl) s).trans (WindowKept.set t _ (by decide) (by decide) _)).trans (vidSend _ _ _)

theorem aimStep (t n : Nat) (s : State) : WindowKept s (Machine.aimStep t n s) :=
  (modPTile t (by exact fun _ => rfl) s).trans (advanceStep t _)

theorem applyCap (l : List CapT) (s : State) : WindowKept s (Machine.applyCap l s) := by
  refine foldl (fun x i => ?_) l s
  extract_lets y
  have hy : WindowKept x y := ite _ (refl x) (modPTile _ (by exact fun _ => rfl) x)
  exact ite _ hy (hy.trans (aimStep _ _ y))

theorem noteCap (l : List CapT) (total cap : Nat) (limited : Bool) (s : State) : WindowKept s (Machine.noteCap l total cap limited s) := by
  unfold Machine.noteCap
  extract_lets atMin atFloor old short x st
  have hx : WindowKept s x := (set _ _ (by decide) (by decide) s).trans (set _ _ (by decide) (by decide) _)
  refine ite _ (ite _ hx ?_) ((set _ _ (by decide) (by decide) s).trans (set _ _ (by decide) (by decide) _))
  exact ((hx.trans (set _ _ (by decide) (by decide) _)).trans (side (side_addLog _ _ _ _ _ _ _))).trans (side (side_ringAll _ _))

theorem enforceCap (s : State) : WindowKept s (Machine.enforceCap s) :=
  (applyCap _ s).trans (noteCap _ _ _ _ _)

/-- An update of the estimator's own state. -/
theorem estimator (agree : Nat) (fitted : Bool) (s : State) :
    WindowKept s { s with power := { s.power with agree := agree, fitted := fitted } } :=
  ⟨rfl, fun _ => rfl, fun _ _ _ => rfl, sameWords_of rfl rfl rfl rfl⟩

theorem staleMarks (s : State) : WindowKept s (Machine.staleMarks s) :=
  ⟨rfl, fun _ => rfl, fun _ _ _ => rfl, sameWords_of rfl rfl rfl rfl⟩

theorem judgeEstimator (m e : Nat) (s : State) : WindowKept s (Machine.judgeEstimator m e s) := by
  unfold Machine.judgeEstimator
  extract_lets d bad x st y p agree
  have hx : WindowKept s x := ite _ (set _ _ (by decide) (by decide) s) (set _ _ (by decide) (by decide) s)
  have hstale : WindowKept s y := (hx.trans (set _ _ (by decide) (by decide) x)).trans (set _ _ (by decide) (by decide) _)
  refine ite _ (ite _ ?_ hx) (ite _ ?_ (hx.trans (estimator agree x.power.fitted x)))
  · exact (((hstale.trans (estimator 0 false y)).trans (side (side_addLog _ _ _ _ _ _ _))).trans (side (side_ringAll _ _))).trans
      (staleMarks _)
  · exact (((hx.trans (estimator 0 x.power.fitted x)).trans (set _ _ (by decide) (by decide) _)).trans
      (set _ _ (by decide) (by decide) _)).trans (side (side_ringAll _ _))

end WindowKept

/-- What the end of a window reads of a tile, and what it puts there. -/
def windowOf (t : Nat) (s : State) : Nat × List Nat × Nat :=
  (getObj s t Obj.tilePowerMeasured, (getPTile s t).lastWin, (getPTile s t).winMeasured)
def windowMade (t : Nat) (s : State) : Nat × List Nat × Nat :=
  (winMw (getPTile s t).winMeasured % 2 ^ 32, (getPTile s t).winParts, 0)

theorem getPTile_modPTile_other {t u : Nat} (h : u ≠ t) (f : PowerTile → PowerTile) (s : State) :
    getPTile (modPTile t f s) u = getPTile s u := by
  unfold getPTile modPTile
  rw [fget_fupd_other _ _ _ _ h]

/-- Closing a tile's accounts of a window: its objects, then its record. -/
theorem accountTile_eq (t : Nat) (s : State) : ∃ x, ObjsOnly (fun u _ => u = t) s x ∧
    getObj x t Obj.tilePowerMeasured = winMw (getPTile s t).winMeasured % 2 ^ 32 ∧
    accountTile t s = modPTile t (fun p => { p with
      lastWin := p.winParts, winParts := [0, 0, 0, 0], winMeasured := 0, stepsInWindow := 0 }) x := by
  obtain ⟨y, hy⟩ : ∃ y, y = setObj t Obj.tilePowerMeasured (winMw (getPTile s t).winMeasured)
    (setObj t Obj.tilePowerEstimated (winMw (sumOf (getPTile s t).winParts * gainOf s t / (1000000 * 1000))) s) := ⟨_, rfl⟩
  have hset : ObjsOnly (fun u _ => u = t) s y := by
    rw [hy]
    exact (ObjsOnly.setUnit t _ (by decide) s).trans (ObjsOnly.setUnit t _ (by decide) _)
  have hmeasured : getObj y t Obj.tilePowerMeasured = winMw (getPTile s t).winMeasured % 2 ^ 32 := by
    rw [hy, getObj_setObj_same, show objBits Obj.tilePowerMeasured = 32 from by decide +kernel]
  unfold accountTile
  extract_lets a raw s1 s2 s3
  have hs2 : s2 = y := hy.symm
  have hs3 : s3 = if railLost s t then s2 else
    setObj t Obj.estimatorGain (nextGain (gainOf s t) (getPTile s t).winMeasured (sumOf (getPTile s t).winParts)) s2 := rfl
  clear_value s3 s2
  refine ⟨s3, ?_, ?_, rfl⟩ <;> rw [hs3, hs2] <;> split
  · exact hset
  · exact hset.trans (ObjsOnly.setUnit t _ (by decide) _)
  · exact hmeasured
  · rw [getObj_setObj_obj _ (by decide) (by decide) (by decide), hmeasured]

theorem windowOf_accountTile (t : Nat) (s : State) : windowOf t (accountTile t s) = windowMade t s := by
  obtain ⟨x, hx, hmeasured, h⟩ := accountTile_eq t s
  have hp : getPTile x t = getPTile s t := by rw [hx.fields]; rfl
  unfold windowOf windowMade
  rw [h, getPTile_modPTile_same, hp]
  exact congrArg (·, (getPTile s t).winParts, 0) hmeasured

theorem window_accountTile_other {t u : Nat} (h : t ≠ u) (s : State) :
    windowOf t (accountTile u s) = windowOf t s ∧ windowMade t (accountTile u s) = windowMade t s := by
  obtain ⟨x, hx, -, he⟩ := accountTile_eq u s
  have hp : getPTile x t = getPTile s t := by rw [hx.fields]; rfl
  have ho : getObj x t Obj.tilePowerMeasured = getObj s t Obj.tilePowerMeasured := hx.objs _ _ (by decide) h
  unfold windowOf windowMade
  rw [he, getPTile_modPTile_other h, hp]
  exact ⟨congrArg (·, _, _) ho, rfl⟩

theorem accountTile_fields (t : Nat) (s : State) :
    accountTile t s = { s with dict := (accountTile t s).dict, ptile := (accountTile t s).ptile } := by
  obtain ⟨x, hx, -, he⟩ := accountTile_eq t s
  rw [he, hx.fields]
  rfl

theorem forTiles_fields {f : Nat → State → State} (hf : ∀ t x, f t x = { x with dict := (f t x).dict, ptile := (f t x).ptile })
    (s : State) : forTiles f s = { s with dict := (forTiles f s).dict, ptile := (forTiles f s).ptile } := by
  unfold forTiles
  generalize List.range 64 = l
  induction l generalizing s with
  | nil => rfl
  | cons t l ih => rw [List.foldl_cons, ih (f t s), hf t s]

/-- The accounts of every tile, at the end of a window. -/
theorem forTiles_accountTile (s : State) {t : Nat} (ht : t < 64) : windowOf t (forTiles accountTile s) = windowMade t s :=
  foldl_range_puts (g := windowOf) (v := windowMade) (fun i x _ => windowOf_accountTile i x)
    (fun _ _ x _ _ h => (window_accountTile_other h x).1) (fun _ _ x _ _ h => (window_accountTile_other h x).2) s t ht

/-- A window's end: the tiles' accounts, the device's, the judgement and the cap. -/
theorem powerWindow_eq {s : State} (h : due s dev 6 1000000 = true) : ∃ e, WindowKept
    (let x := forTiles accountTile (take dev 6 s)
     { setObj dev Obj.devicePowerMeasured (winMw s.power.windowEnergy) (setObj dev Obj.devicePowerEstimated e x) with
        power := { x.power with
          windowEnergy := 0, peakLast := x.power.peakNow, peakNow := false
          fitLeft := x.power.fitLeft - b2n (firmwareRuns s) } }) (powerWindow s) := by
  unfold powerWindow
  rw [if_neg (by rw [h]; simp)]
  exact ⟨_, (WindowKept.judgeEstimator _ _ _).trans (WindowKept.enforceCap _)⟩

theorem answers_powerWindowEnd {s : State} (h : due s dev 6 1000000 = true) : Answers .powerWindowEnd s (fun s' =>
      getObj s' dev Obj.devicePowerMeasured = winMw s.power.windowEnergy % 2 ^ 32 ∧ s'.power.windowEnergy = 0 ∧
      s'.power.peakLast = s.power.peakNow ∧ s'.power.peakNow = false ∧ s'.power.fitLeft = s.power.fitLeft - b2n (firmwareRuns s) ∧
      (∀ t < 64, (getPTile s' t).lastWin = (getPTile s t).winParts ∧ (getPTile s' t).winMeasured = 0 ∧
        getObj s' t Obj.tilePowerMeasured = winMw (getPTile s t).winMeasured % 2 ^ 32) ∧ SameMemory s s') := by
  refine answers_effect (exec_powerWindowEnd s) fun y hy => ?_
  obtain ⟨e, hkept⟩ := powerWindow_eq (s := fresh s) h
  rw [← hy] at hkept
  obtain ⟨x, hx⟩ : ∃ x, x = forTiles accountTile (take dev 6 (fresh s)) := ⟨_, rfl⟩
  have htiles : ∀ t < 64, windowOf t x = windowMade t s := fun t ht => by rw [hx]; exact forTiles_accountTile _ ht
  have hfields : x = { take dev 6 (fresh s) with dict := x.dict, ptile := x.ptile } := by
    rw [hx]
    exact forTiles_fields accountTile_fields _
  rw [← hx] at hkept
  clear hx hy
  obtain ⟨hpower, hptile, hobjs, hwords⟩ := hkept
  have hp : x.power = s.power := by rw [hfields]; rfl
  simp only [Prod.mk.injEq] at hpower
  obtain ⟨henergy, hlast, hnow, hfit⟩ := hpower
  refine ⟨?_, henergy, hlast.trans (by rw [hp]), hnow, hfit.trans (by rw [hp]; rfl), fun t ht => ?_, ?_⟩
  · refine (hobjs dev _ (.inl rfl)).trans ?_
    show getObj (setObj dev Obj.devicePowerMeasured _ _) dev _ = _
    rw [getObj_setObj_same, show objBits Obj.devicePowerMeasured = 32 from by decide +kernel]
    rfl
  · have hw := htiles t ht
    have hq := hptile t
    unfold windowOf windowMade at hw
    simp only [Prod.mk.injEq] at hw hq
    obtain ⟨hmeasured, hlastWin, hzero⟩ := hw
    refine ⟨hq.1.trans hlastWin, hq.2.trans hzero, (hobjs t _ (.inr rfl)).trans (Eq.trans ?_ hmeasured)⟩
    show getObj (setObj dev Obj.devicePowerMeasured _ (setObj dev Obj.devicePowerEstimated _ x)) t _ = _
    rw [getObj_setObj_obj _ (by decide) (by decide) (by decide), getObj_setObj_obj _ (by decide) (by decide) (by decide)]
  · refine (SameWords.trans ?_ hwords).sameMemory
    refine sameWords_of ?_ ?_ ?_ ?_ <;> rw [hfields] <;> rfl

/-! ### Energy marks (R320) -/

theorem energyMarkResult_bits : ∀ m : Fin 8, objBits (Obj.energyMarkResult + m.val) = 256 := by decide +kernel

theorem energyMarkResult_lt (m : Fin 8) : Obj.energyMarkResult + m.val < 2 ^ 24 := by
  have hm := m.isLt
  simp only [Obj.energyMarkResult]
  omega

theorem answers_energyMarkClose {m : Fin 8} {s : State} (h : (fget ({} : Mark) s.mark m.val).opened = true) :
    Answers (.energyMarkClose m) s (fun s' => s'.out = { status := stOk } ∧
      getObj s' dev (Obj.energyMarkResult + m.val) = markResult s (fget ({} : Mark) s.mark m.val) % 2 ^ 256 ∧
      (fget ({} : Mark) s'.mark m.val).opened = false ∧ OtherObjects s s' [(dev, Obj.energyMarkResult + m.val)] ∧
      s' = { s with mark := s'.mark, dict := s'.dict, out := s'.out }) := by
  obtain ⟨y, hy⟩ : ∃ y, y = setObj dev (Obj.energyMarkResult + m.val) (markResult s (fget ({} : Mark) s.mark m.val))
    { s with mark := fset ({} : Mark) s.mark m.val ({} : Mark), out := {} } := ⟨_, rfl⟩
  have hrun : closeMark m.val (fresh s) = answer stOk y := by
    unfold closeMark
    rw [hy]
    exact if_neg (by rw [show (fget ({} : Mark) (fresh s).mark m.val).opened = true from h]; simp)
  have hset : ObjsOnly (fun u k => (u, k) ∈ [(dev, Obj.energyMarkResult + m.val)])
      { s with mark := fset ({} : Mark) s.mark m.val ({} : Mark), out := {} } y := by
    rw [hy]
    exact ObjsOnly.set _ (energyMarkResult_lt m) (by simp) _
  have hfields : y = { s with mark := fset ({} : Mark) s.mark m.val ({} : Mark), dict := y.dict, out := {} } := hset.fields
  have hmark : y.mark = fset ({} : Mark) s.mark m.val ({} : Mark) := by rw [hfields]
  refine answers_of_kept (exec_energyMarkClose m s) hrun (by rw [hfields]; rfl) (by rw [hfields]; rfl) ⟨?_, ?_, ?_, hset.otherObjects, ?_⟩
  · rw [hfields]
    rfl
  · rw [getObj_answer, hy, getObj_setObj_same, energyMarkResult_bits]
  · show (fget ({} : Mark) y.mark m.val).opened = false
    rw [hmark, fget_fset_same]
  · rw [hfields]
    rfl

/-! ### Attribution and the estimator's fit (R321, R392) -/

theorem answers_attributionMode {v : BitVec 8} {s : State} (h : v.toNat ≤ 1) :
    Answers (.attributionModeWrite v) s (fun s' => s'.out.status = stOk ∧
      getObj s' dev Obj.attributionMode = v.toNat ∧ s'.power = { s.power with partEnergy := [], queueEnergy := [] } ∧
      SameMemory s s') := by
  obtain ⟨x, hx⟩ : ∃ x, x = storeRws dev Obj.attributionMode v.toNat (fresh s) := ⟨_, rfl⟩
  have hrun : writeAttribution v.toNat (fresh s)
      = { x with power := { x.power with partEnergy := [], queueEnergy := [] } } := by
    rw [hx]
    exact if_neg (by omega)
  obtain ⟨hframe, hothers⟩ := recordObj_frame dev Obj.attributionMode v.toNat (storeObj dev Obj.attributionMode v.toNat (fresh s))
  have hfields : x = { fresh s with dict := x.dict, copy := x.copy, count := x.count, out := { status := stOk } } := by
    rw [hx, storeRws, hframe]
    rfl
  have hval : getObj x dev Obj.attributionMode = v.toNat := by
    rw [hx]
    refine (hothers dev _ (by decide) (by decide)).trans ?_
    exact (getObj_setObj_fits _ (by rw [show objBits Obj.attributionMode = 8 from by decide +kernel]; omega))
  have hpower : x.power = s.power := by rw [hfields]; rfl
  refine answers_of_kept (exec_attributionModeWrite v s) hrun (by rw [hfields]; rfl) (by rw [hfields]; rfl)
    ⟨by rw [hfields], hval, by rw [hpower], ?_⟩
  refine (sameWords_of ?_ ?_ ?_ ?_ : SameWords s _).sameMemory <;> rw [hfields] <;> rfl

theorem answers_estimatorRecalibrate {v : BitVec 8} {s : State} (h : v.toNat = 1) :
    Answers (.estimatorRecalibrate v) s (fun s' => s'.out = { status := stOk } ∧
      getObj s' dev Obj.estimatorState = 2 ∧ OtherObjects s s' [(dev, Obj.estimatorState)] ∧
      s' = { s with
        power := { s.power with fitLeft := getObj s dev Obj.estimatorFitWindows }, dict := s'.dict, out := s'.out }) := by
  have hrun : boolCommand v.toNat startFit (fresh s) = answer stOk (startFit (fresh s)) := by
    rw [h]
    rfl
  have hset := ObjsOnly.set (K := fun u k => (u, k) ∈ [(dev, Obj.estimatorState)]) (u := dev) (k := Obj.estimatorState) 2
    (by decide) (by simp) { fresh s with power := { s.power with fitLeft := getObj s dev Obj.estimatorFitWindows } }
  refine answers_of_kept (exec_estimatorRecalibrate v s) hrun rfl rfl ⟨rfl, ?_, hset.otherObjects, rfl⟩
  rw [getObj_answer, startFit, getObj_setObj_same, show objBits Obj.estimatorState = 8 from by decide +kernel]
  rfl

/-- A factor that the fit found, within its bounds (R392). -/
def fittedFactor (factors : List (Option Nat)) (i : Nat) : Option Nat := (factors.getD i none).map (fun v => max 500 (min 2000 v))

/-- The Copybook records of one group's factor, one for each tile. -/
def factorRecords (i v : Nat) (s : State) : State := forTiles (fun t s => pushRecord 0x09 (t * 1024 + i) 4 v s) s

theorem side_factorRecords (i v : Nat) (s : State) : Side s (factorRecords i v s) :=
  side_forTiles _ (fun _ _ => side_pushRecord _ _ _ _ _) s

/-- The store of one group's factor. -/
def storeFactor (factors : List (Option Nat)) (s : State) (i : Nat) : State :=
  match fittedFactor factors i with
  | some v => factorRecords i v { s with power := { s.power with fit := fset 1000 s.power.fit i v } }
  | none => s

theorem storeFactor_power (factors : List (Option Nat)) (s : State) (i : Nat) :
    (storeFactor factors s i).power = (match fittedFactor factors i with
      | some v => { s.power with fit := fset 1000 s.power.fit i v }
      | none => s.power) := by
  unfold storeFactor
  split
  · rw [(side_factorRecords _ _ _).fields]
  · rfl

theorem storeFactor_sameWords (factors : List (Option Nat)) (s : State) (i : Nat) : SameWords s (storeFactor factors s i) := by
  unfold storeFactor
  split
  · refine SameWords.trans ?_ (side_factorRecords _ _ _).sameWords
    exact sameWords_of rfl rfl rfl rfl
  · exact SameWords.refl s

theorem storeFactor_kept (factors : List (Option Nat)) (s : State) (i : Nat) :
    (storeFactor factors s i).pending = s.pending ∧ (storeFactor factors s i).time = s.time := by
  unfold storeFactor
  split
  · constructor <;> rw [(side_factorRecords _ _ _).fields]
  · exact ⟨rfl, rfl⟩

theorem fitFactor_storeFactor_same (factors : List (Option Nat)) (s : State) (i : Nat) :
    fitFactor (storeFactor factors s i) i = (fittedFactor factors i).getD (fitFactor s i) := by
  unfold fitFactor
  rw [storeFactor_power]
  cases fittedFactor factors i with
  | none => rfl
  | some v => exact fget_fset_same _ _ _ _

theorem fitFactor_storeFactor_other (factors : List (Option Nat)) (s : State) {i j : Nat} (h : i ≠ j) :
    fitFactor (storeFactor factors s j) i = fitFactor s i := by
  unfold fitFactor
  rw [storeFactor_power]
  cases fittedFactor factors j with
  | none => rfl
  | some v => exact fget_fset_other _ _ _ _ h

/-- The gains that a fit puts back. -/
def gainsBack (s : State) : State := forTiles (fun t s => setObj t Obj.estimatorGain 1000000 s) s

theorem estimatorGain_bits : objBits Obj.estimatorGain = 32 := by decide +kernel

theorem gainsBack_spec (s : State) : gainsBack s = { s with dict := (gainsBack s).dict } ∧
    ∀ t < 64, getObj (gainsBack s) t Obj.estimatorGain = 1000000 := by
  have hunit : ∀ u x, ObjsOnly (fun w _ => w = u) x (setObj u Obj.estimatorGain 1000000 x) :=
    fun u x => ObjsOnly.setUnit u _ (by decide) x
  refine ⟨(objsOnly_forTiles hunit s).fields, fun t ht => ?_⟩
  refine foldl_range_puts (f := fun s t => setObj t Obj.estimatorGain 1000000 s) (g := fun t x => getObj x t Obj.estimatorGain)
    (v := fun _ _ => 1000000) (fun i x _ => ?_) (fun i j x _ _ hne => ?_) (fun _ _ _ _ _ _ => rfl) s t ht
  · rw [getObj_setObj_same, estimatorGain_bits]
    rfl
  · exact (hunit j x).objs _ _ (by decide) hne

/-- What a fit that ends leaves (R392). -/
def fitEnded (factors : List (Option Nat)) (n : Nat) (s : State) : State :=
  let x := gainsBack ((List.range 5).foldl (storeFactor factors) s)
  setObj dev Obj.lastEstimatorFit n
    (setObj dev Obj.estimatorState 1 { x with power := { x.power with agree := 0, fitted := true } })

theorem fitDone_ends {factors : List (Option Nat)} {s : State} (h2 : getObj s dev Obj.estimatorState = 2)
    (h0 : s.power.fitLeft = 0) (hf : firmwareRuns s = true) : ∃ n, fitDone factors s = fitEnded factors n s := by
  have hgetD : ∀ i < 5, ((List.range 5).map (fun i => (factors.getD i none).map (fun v => max 500 (min 2000 v)))).getD i none
      = fittedFactor factors i := by
    intro i hi
    rw [List.getD_eq_getElem _ _ (by simpa using hi)]
    simp [fittedFactor]
  unfold fitDone
  rw [if_neg (by rw [hf]; simp [h2, h0])]
  extract_lets f kept x y
  have hx : x = (List.range 5).foldl (storeFactor factors) s := by
    refine List.foldl_ext _ _ _ fun z i hi => ?_
    unfold storeFactor
    rw [hgetD i (List.mem_range.mp hi)]
    rfl
  have hy : y = gainsBack x := rfl
  clear_value y kept
  rw [hx] at hy
  clear hx
  subst hy
  exact ⟨_, rfl⟩

/-- A property of a state that the storing of every factor keeps. -/
theorem storedFactors_keep {α : Type} {part : State → α} {factors : List (Option Nat)}
    (h : ∀ x i, part (storeFactor factors x i) = part x) (s : State) :
    part ((List.range 5).foldl (storeFactor factors) s) = part s := foldl_range_keeps (fun x i _ => h x i) s

theorem fitFactor_stored (factors : List (Option Nat)) (s : State) : ∀ g < 5,
    fitFactor ((List.range 5).foldl (storeFactor factors) s) g = (fittedFactor factors g).getD (fitFactor s g) :=
  foldl_range_puts (g := fun i x => fitFactor x i) (v := fun i x => (fittedFactor factors i).getD (fitFactor x i))
    (fun i x _ => fitFactor_storeFactor_same factors x i) (fun i j x _ _ h => fitFactor_storeFactor_other factors x h)
    (fun i j x _ _ h => by rw [fitFactor_storeFactor_other factors x h]) s

theorem sameWords_stored (factors : List (Option Nat)) (l : List Nat) (s : State) : SameWords s (l.foldl (storeFactor factors) s) := by
  induction l generalizing s with
  | nil => exact SameWords.refl s
  | cons i l ih => exact (storeFactor_sameWords factors s i).trans (ih _)

theorem answers_estimatorFitDone {factors : List (Option Nat)} {s : State} (h2 : getObj s dev Obj.estimatorState = 2)
    (h0 : s.power.fitLeft = 0) (hf : firmwareRuns s = true) : Answers (.estimatorFitDone factors) s (fun s' =>
      getObj s' dev Obj.estimatorState = 1 ∧ s'.power.fitted = true ∧ (∀ t < 64, getObj s' t Obj.estimatorGain = 1000000) ∧
      (∀ g < 5, fitFactor s' g = match factors.getD g none with
        | some f => max 500 (min 2000 f)
        | none => fitFactor s g) ∧ SameMemory s s') := by
  obtain ⟨n, hrun⟩ := fitDone_ends (factors := factors) (s := fresh s) h2 h0 hf
  obtain ⟨x, hx⟩ : ∃ x, x = (List.range 5).foldl (storeFactor factors) (fresh s) := ⟨_, rfl⟩
  have hpend : x.pending = s.pending := by
    rw [hx]; exact storedFactors_keep (fun x i => (storeFactor_kept factors x i).1) (fresh s)
  have htime : x.time = s.time := by
    rw [hx]; exact storedFactors_keep (fun x i => (storeFactor_kept factors x i).2) (fresh s)
  have hfit : ∀ g < 5, fitFactor x g = (fittedFactor factors g).getD (fitFactor s g) := by
    rw [hx]; exact fitFactor_stored factors (fresh s)
  have hwords : SameWords s x := by
    rw [hx]; exact (sameWords_of rfl rfl rfl rfl : SameWords s (fresh s)).trans (sameWords_stored factors _ _)
  obtain ⟨hfields, hgains⟩ := gainsBack_spec x
  unfold fitEnded at hrun
  rw [← hx] at hrun
  obtain ⟨y, hy⟩ : ∃ y, y = gainsBack x := ⟨_, rfl⟩
  rw [← hy] at hrun hfields hgains
  clear hx hy
  dsimp only at hrun
  refine answers_of_kept (exec_estimatorFitDone factors s) hrun (by rw [← hpend, hfields]; rfl) (by rw [← htime, hfields]; rfl)
    ⟨?_, rfl, fun t ht => ?_, fun g hg => ?_, ?_⟩
  · rw [getObj_setObj_obj _ (by decide) (by decide) (by decide), getObj_setObj_same,
      show objBits Obj.estimatorState = 8 from by decide +kernel]
    rfl
  · rw [getObj_setObj_obj _ (by decide) (by decide) (by decide), getObj_setObj_obj _ (by decide) (by decide) (by decide)]
    exact hgains t ht
  · refine Eq.trans ?_ ((hfit g hg).trans ?_)
    · show fget 1000 y.power.fit g = fget 1000 x.power.fit g
      rw [hfields]
    · unfold fittedFactor
      cases factors.getD g none <;> rfl
  · refine (hwords.trans (sameWords_of ?_ ?_ ?_ ?_)).sameMemory <;> rw [hfields] <;> rfl

/-- Settles O44: a raw estimate, a slice, a window, a mark and a fit, each by what its command changes. -/
theorem energyAndEstimates : Obligations.EnergyAndEstimates := by
  refine ⟨fun t counts parts queues s => ⟨fun h => ?_, answers_rawEstimate⟩,
    fun s => ⟨fun h => ?_, answers_powerSliceEnd, fun h => ?_, answers_powerWindowEnd⟩,
    fun m v s => ⟨fun hv h => ?_, fun hv h => ?_, fun hv => ?_, fun h => ?_, answers_energyMarkClose⟩,
    fun v s => ⟨fun h => ⟨?_, ?_⟩, answers_attributionMode, fun h => ?_, answers_estimatorRecalibrate⟩,
    fun factors s => ⟨fun h => ?_, answers_estimatorFitDone⟩⟩
  · exact noEffect_run (exec_rawEstimate t counts parts queues s) (if_pos (by rw [show due (fresh s) t.val 4 1000 = false from h]; simp))
  · exact noEffect_run (exec_powerSliceEnd s) (if_pos (by rw [show due (fresh s) dev 5 10000 = false from h]; simp))
  · exact noEffect_run (exec_powerWindowEnd s) (if_pos (by rw [show due (fresh s) dev 6 1000000 = false from h]; simp))
  · exact refuses_run (exec_energyMarkOpen m v s) ((if_neg hv).trans (if_pos h))
  · exact exec_of_kept (exec_energyMarkOpen m v s)
      ((if_neg hv).trans (if_neg (by rw [show (fget ({} : Mark) (fresh s).mark m.val).opened = false from h]; simp))) rfl rfl
  · rw [exec_energyMarkOpen, exec_energyMarkClose, run_next, run_next, writeMark, if_pos hv]
  · exact noEffect_run (exec_energyMarkClose m s) (if_pos (by rw [show (fget ({} : Mark) (fresh s).mark m.val).opened = false from h]; simp))
  · exact refuses_run (exec_attributionModeWrite v s) (if_pos h)
  · exact refuses_run (exec_estimatorRecalibrate v s) ((if_neg (by omega)).trans (if_neg (by omega)))
  · exact noEffect_run (exec_estimatorRecalibrate v s) (if_pos h)
  · refine noEffect_run (exec_estimatorFitDone factors s) (if_pos ?_)
    rw [Bool.not_eq_true]
    exact h

end Sys2Proof.Machine

/-! ## Proofs: Recess windows that open, calibrations and the application of trims -/

namespace Sys2Proof.Machine

open Sys2Proof

/-! ### The state of one channel -/

theorem getRecess_modRecess (t c : Nat) (f : RecessS → RecessS) (s : State) :
    getRecess (modRecess t c f s) t c = f (getRecess s t c) := fget_fupd_same _ _ _ _

theorem getCal_modCal (t c : Nat) (f : CalS → CalS) (s : State) : getCal (modCal t c f s) t c = f (getCal s t c) :=
  fget_fupd_same _ _ _ _

theorem sameWords_modCal (t c : Nat) (f : CalS → CalS) (s : State) : SameWords s (modCal t c f s) := sameWords_of rfl rfl rfl rfl

theorem sameWords_fresh (s : State) : SameWords s (fresh s) := sameWords_of rfl rfl rfl rfl

theorem getLayer_modCal (t c : Nat) (f : CalS → CalS) (s : State) (u k : Nat) : getLayer (modCal t c f s) u k = getLayer s u k := rfl

theorem getCal_congr {a b : State} (h : b.cal = a.cal) (t c : Nat) : getCal b t c = getCal a t c := by
  unfold getCal
  rw [h]

/-- The objects of a channel by their first key. -/
theorem chanKey_lt {k : Nat} (hk : k + 48 ≤ 2 ^ 24) (c : ChanN) : k + c.val < 2 ^ 24 := by
  have hc := c.isLt
  omega

/-! ### A window opens (R291, R292) -/

/-- A window of a period, open, before anything is sent in it. -/
def openedWindow (t c p n : Nat) (s : State) : State :=
  let x := getRecess s t c
  let cal := windowCal s t c
  let refs := recessRefs n + x.carried
  let s1 := modRecess t c (fun r => { r with
    next := s.time.elapsed + p, period := p, number := n, openAt := some s.time.elapsed, phase := 0, cal := cal
    refsLeft := if cal then 0 else refs, carried := if cal then refs else 0 }) s
  if cal then s1 else modCal t c (fun k => { k with skip := k.skip - 1 }) s1

theorem openWindow_eq (t c p : Nat) (s : State) : openWindow t c p s = recessStep t c
    (openedWindow t c (if p = 0 then (getRecess s t c).period else p) (if p = 0 then (getRecess s t c).number else 0) s) := rfl

theorem openedWindow_fields (t c p n : Nat) (s : State) : openedWindow t c p n s =
    { s with recess := (openedWindow t c p n s).recess, cal := (openedWindow t c p n s).cal } := by
  unfold openedWindow
  extract_lets x cal refs s1
  split <;> rfl

theorem getRecess_openedWindow (t c p n : Nat) (s : State) : getRecess (openedWindow t c p n s) t c =
    { getRecess s t c with
      next := s.time.elapsed + p, period := p, number := n, openAt := some s.time.elapsed, phase := 0, cal := windowCal s t c
      refsLeft := if windowCal s t c then 0 else recessRefs n + (getRecess s t c).carried
      carried := if windowCal s t c then recessRefs n + (getRecess s t c).carried else 0 } := by
  unfold openedWindow
  extract_lets x cal refs s1
  have hs1 : getRecess s1 t c = { getRecess s t c with
      next := s.time.elapsed + p, period := p, number := n, openAt := some s.time.elapsed, phase := 0, cal := cal
      refsLeft := if cal then 0 else refs, carried := if cal then refs else 0 } := getRecess_modRecess _ _ _ _
  clear_value s1
  refine Eq.trans ?_ hs1
  split <;> rfl

/-- What an opened window does first: PREA when the channel is quiet. -/
structure FirstStep (t c : Nat) (x y : State) : Prop where
  recess : getRecess y t c = { getRecess x t c with phase := if channelQuiet x t c then 1 else 0 }
  down : (getLayer y t c).down = (getLayer x t c).down ++ (if channelQuiet x t c then [{ word := opWord 4 0 0 }] else [])
  fields : y = { x with recess := y.recess, layer := y.layer, train := y.train }
  words : SameWords x y

theorem firstStep_recessStep {t c : Nat} {x : State} (hopen : (getRecess x t c).openAt.isNone = false)
    (hphase : (getRecess x t c).phase = 0) : FirstStep t c x (recessStep t c x) := by
  cases hq : channelQuiet x t c with
  | false =>
    have hrun : recessStep t c x = x := if_pos (.inr (by rw [hq]; exact Bool.false_ne_true))
    rw [hrun]
    refine ⟨?_, ?_, rfl, SameWords.refl x⟩
    · rw [hq]
      exact congrArg (fun p => { getRecess x t c with phase := p }) hphase
    · rw [hq]
      exact (List.append_nil _).symm
  | true =>
    obtain ⟨y, hy⟩ : ∃ y, y = sendDown t c { word := opWord 4 0 0 } x := ⟨_, rfl⟩
    have hrun : recessStep t c x = modRecess t c (fun r => { r with phase := 1 })
        (modTrain t c (fun k => { k with prea := false }) y) := by
      unfold recessStep
      rw [hy]
      exact (if_neg (by rw [hopen, hq]; simp)).trans (if_pos hphase)
    rw [hrun]
    refine ⟨?_, ?_, ?_, ?_⟩
    · rw [hq, getRecess_modRecess, hy]
      rfl
    · rw [hq]
      exact (congrArg LayerS.down (getLayer_of_layer (show _ = y.layer from rfl) t c)).trans (hy ▸ down_sendDown t c _ x)
    · rw [hy]
      rfl
    · refine (hy ▸ (windowed_down t c _ x).words : SameWords x y).trans (sameWords_of rfl rfl rfl rfl)

theorem answers_recessWindowOpen {t : TileN} {c : ChanN} {s : State} {p n : Nat}
    (hrun : recessOpen t.val c.val (fresh s) = recessStep t.val c.val (openedWindow t.val c.val p n (fresh s))) :
    Answers (.recessWindowOpen t c) s (fun s' => getRecess s' t.val c.val = { getRecess s t.val c.val with
        next := s.time.elapsed + p, period := p, number := n, openAt := some s.time.elapsed, cal := windowCal s t.val c.val
        phase := if channelQuiet s t.val c.val then 1 else 0
        refsLeft := if windowCal s t.val c.val then 0 else recessRefs n + (getRecess s t.val c.val).carried
        carried := if windowCal s t.val c.val then recessRefs n + (getRecess s t.val c.val).carried else 0 } ∧
      (getLayer s' t.val c.val).down = (getLayer s t.val c.val).down ++
        (if channelQuiet s t.val c.val then [{ word := opWord 4 0 0 }] else []) ∧
      SameMemory s s' ∧ s' = { s with recess := s'.recess, cal := s'.cal, layer := s'.layer, train := s'.train, out := {} }) := by
  have hx := getRecess_openedWindow t.val c.val p n (fresh s)
  have hfields := openedWindow_fields t.val c.val p n (fresh s)
  obtain ⟨x, hdef⟩ : ∃ x, x = openedWindow t.val c.val p n (fresh s) := ⟨_, rfl⟩
  rw [← hdef] at hrun hx hfields
  clear hdef
  have hquiet : channelQuiet x t.val c.val = channelQuiet s t.val c.val := by rw [hfields]; rfl
  obtain ⟨hrecess, hdown, hy, hwords⟩ := firstStep_recessStep (x := x) (t := t.val) (c := c.val) (by rw [hx]; rfl) (by rw [hx])
  obtain ⟨y, hydef⟩ : ∃ y, y = recessStep t.val c.val x := ⟨_, rfl⟩
  rw [← hydef] at hrun hrecess hdown hy hwords
  clear hydef
  rw [hquiet] at hrecess hdown
  have hlayer : getLayer x t.val c.val = getLayer s t.val c.val := getLayer_of_layer (by rw [hfields]; rfl) _ _
  refine answers_of_kept (exec_recessWindowOpen t c s) hrun (by rw [hy, hfields]; rfl) (by rw [hy, hfields]; rfl) ⟨?_, ?_, ?_, ?_⟩
  · rw [hrecess, hx]
    rfl
  · rw [hdown, hlayer]
  · refine (SameWords.trans (sameWords_of ?_ ?_ ?_ ?_) hwords).sameMemory <;> rw [hfields] <;> rfl
  · rw [hy, hfields]
    rfl

theorem recessPeriod_ne (s : State) (t : Nat) : recessPeriod s t ≠ 0 := by
  have hband : ∀ b, bandPeriod b ≠ 0 := fun b => by
    unfold bandPeriod
    split_ifs <;> decide
  exact hband _

/-- When no window opens, when the first of a period does, and when the next one does. -/
theorem recessOpen_cases {t c : Nat} {s : State} (x : RecessS) (hx : getRecess s t c = x) :
    ((x.openAt.isSome ∨ chState s t c = 4 ∨ getObj s dev Obj.bringupPhase = 1 ∨ getObj s dev Obj.bringupPhase = 2) →
      recessOpen t c s = s) ∧
    (¬ (x.openAt.isSome ∨ chState s t c = 4 ∨ getObj s dev Obj.bringupPhase = 1 ∨ getObj s dev Obj.bringupPhase = 2) →
      recessOpen t c s = if x.period ≠ recessPeriod s t ∧ s.time.timeBase % recessPeriod s t = recessOffset (recessPeriod s t) c then
          recessStep t c (openedWindow t c (recessPeriod s t) 0 s)
        else if x.period ≠ 0 ∧ x.next ≤ s.time.elapsed then recessStep t c (openedWindow t c x.period x.number s) else s) := by
  subst hx
  refine ⟨fun h => if_pos h, fun h => (if_neg h).trans ?_⟩
  rw [openWindow_eq, openWindow_eq, if_neg (recessPeriod_ne s t), if_neg (recessPeriod_ne s t), if_pos rfl, if_pos rfl]

/-! ### A calibration starts (R387) -/

theorem calState_bits : ∀ c : ChanN, objBits (Obj.calState + c.val) = 8 := by decide +kernel

theorem answers_calibrationStart {t : TileN} {c : ChanN} {s : State} (hstate : chState s t.val c.val = 2)
    (hstep : (getCal s t.val c.val).step = 0) (hdue : calDue s t.val c.val = true) :
    Answers (.calibrationStart t c) s (fun s' => getCal s' t.val c.val = { getCal s t.val c.val with
          step := 1, skip := 0, asked := false, runA := [], runB := [] } ∧ getObj s' t.val (Obj.calState + c.val) = 1 ∧
        OtherObjects s s' [(t.val, Obj.calState + c.val)] ∧ s' = { s with cal := s'.cal, dict := s'.dict, out := {} }) := by
  obtain ⟨x, hx⟩ : ∃ x, x = modCal t.val c.val (fun x => { x with step := 1, skip := 0, asked := false, runA := [], runB := [] }) (fresh s) :=
    ⟨_, rfl⟩
  have hrun : calStart t.val c.val (fresh s) = setObj t.val (Obj.calState + c.val) 1 x := by
    rw [hx]
    exact if_neg (by
      rw [show chState (fresh s) t.val c.val = 2 from hstate, show (getCal (fresh s) t.val c.val).step = 0 from hstep,
        show calDue (fresh s) t.val c.val = true from hdue]
      simp)
  have hset := ObjsOnly.set (K := fun u k => (u, k) ∈ [(t.val, Obj.calState + c.val)]) (u := t.val) (k := Obj.calState + c.val) 1
    (chanKey_lt (by decide) c) (by simp) x
  have hothers : OtherObjects s x [(t.val, Obj.calState + c.val)] := by rw [hx]; exact fun _ _ _ _ => rfl
  refine answers_of_kept (exec_calibrationStart t c s) hrun (by rw [hx]; rfl) (by rw [hx]; rfl)
    ⟨?_, ?_, fun u k hk hn => (hset.objs u k hk hn).trans (hothers u k hk hn), by rw [hx]; rfl⟩
  · rw [getCal_congr (show (setObj _ _ _ x).cal = x.cal from rfl), hx, getCal_modCal]
    rfl
  · rw [getObj_setObj_same, calState_bits]
    rfl

/-! ### A run ends (R388, R389) -/

/-- The width and place of the objects that a run's end writes. -/
theorem calKeys : ∀ c : ChanN,
    (sideKey (Obj.calState + c.val) = false ∧ sideKey (Obj.calSuspectCount + c.val) = false ∧
      sideKey (Obj.calCount + c.val) = false ∧ sideKey (Obj.recessWindows + c.val) = false ∧
      sideKey Obj.calSuspectChannels = false) ∧
    (objBits (Obj.calSuspectCount + c.val) = 32 ∧ objBits (Obj.calCount + c.val) = 32 ∧
      objBits (Obj.recessWindows + c.val) = 64 ∧ objBits Obj.calSuspectChannels = 64) := by decide +kernel

/-- What a channel's own part of the state reads as where the layer's trims are untouched. -/
theorem trimsInUse_congr {a b : State} {t c : Nat} (h1 : (getLayer b t c).trims = (getLayer a t c).trims)
    (h2 : (getLayer b t c).logicTrims = (getLayer a t c).logicTrims) : trimsInUse b t c = trimsInUse a t c := by
  unfold trimsInUse
  dsimp only
  rw [h1, h2]

/-- A window that closes: the count of windows goes on, and the calibration of the channel stays as it is. -/
structure WindowClosed (t c : Nat) (y z : State) : Prop where
  fields : z = { y with layer := z.layer, recess := z.recess, train := z.train, dict := z.dict }
  shut : (getRecess z t c).openAt = none
  counted : getObj z t (Obj.recessWindows + c) = (getObj y t (Obj.recessWindows + c) + 1) % 2 ^ 64
  objs : ∀ k, k < 2 ^ 24 → k / 256 ∉ [0x7014, 0x7015, 0x7016] → getObj z t k = getObj y t k
  trims : trimsInUse z t c = trimsInUse y t c
  words : SameWords y z

theorem windowClosed (t : Nat) (c : ChanN) (y : State) : WindowClosed t c.val y (closeWindow t c.val y) := by
  have hw := windowed_closeWindow (t := t) c.isLt y
  obtain ⟨d, p, hmine⟩ := hw.mine
  have hc := c.isLt
  have hkeys : Obj.recessWindows + c.val < 2 ^ 24 ∧ Obj.recessLongest + c.val < 2 ^ 24 ∧ Obj.recessExtended + c.val < 2 ^ 24 ∧
      Obj.recessWindows + c.val ≠ Obj.recessLongest + c.val ∧ Obj.recessWindows + c.val ≠ Obj.recessExtended + c.val := by
    simp only [Obj.recessWindows, Obj.recessLongest, Obj.recessExtended]
    omega
  obtain ⟨hkw, hkl, hke, hwl, hwe⟩ := hkeys
  obtain ⟨-, -, -, hbits, -⟩ := calKeys c
  refine ⟨hw.fields, ?_, ?_, fun k hk hn => hw.objs t k hk fun hmem => hn ?_, ?_, hw.words⟩
  · have hrecess : (closeWindow t c.val y).recess = (modRecess t c.val (fun r => { r with
      openAt := none, phase := 0, cal := false, number := (r.number + 1) % 128 }) y).recess := by
      unfold closeWindow
      dsimp only
      split <;> rfl
    unfold getRecess
    rw [hrecess]
    exact congrArg RecessS.openAt (getRecess_modRecess _ _ _ _)
  · unfold closeWindow
    extract_lets x len s1 s2 s3
    have hs2 : getObj s2 t (Obj.recessWindows + c.val) = (getObj y t (Obj.recessWindows + c.val) + 1) % 2 ^ 64 := by
      refine (getObj_setObj_same _ _ _ _).trans ?_
      rw [hbits]
      rfl
    have hs3 : getObj s3 t (Obj.recessWindows + c.val) = getObj s2 t (Obj.recessWindows + c.val) :=
      getObj_setObj_obj _ hwl hkw hkl
    clear_value s3 s2
    split
    · exact (getObj_setObj_obj _ hwe hkw hke).trans (hs3.trans hs2)
    · exact hs3.trans hs2
  · simp only [windowKeys, List.mem_cons, Prod.mk.injEq, true_and, List.not_mem_nil, or_false] at hmem
    simp only [Obj.recessWindows, Obj.recessLongest, Obj.recessExtended] at hmem
    simp only [List.mem_cons, List.not_mem_nil, or_false]
    omega
  · exact trimsInUse_congr (by rw [hmine]) (by rw [hmine])

/-- The state that a run's results are shown in, and that counts a third run. -/
def runShown (_ k : Nat) : Prop := k / 256 = 0x9014 ∨ k / 256 = 0x9016

/-- What a decision leaves alone. -/
structure Decided (t c : Nat) (s y : State) : Prop where
  pending : y.pending = s.pending
  time : y.time = s.time
  words : SameWords s y
  windows : getObj y t (Obj.recessWindows + c) = getObj s t (Obj.recessWindows + c)

/-- A run that fails (R389). -/
theorem failCal_spec (t : Nat) (c : ChanN) (s : State) : Decided t c.val s (failCal t c.val s) ∧
    (getCal (failCal t c.val s) t c.val).step = 0 ∧ getObj (failCal t c.val s) t (Obj.calState + c.val) = 2 ∧
    bit (getObj (failCal t c.val s) t Obj.calSuspectChannels) c.val = true ∧
    getObj (failCal t c.val s) t (Obj.calSuspectCount + c.val) = (getObj s t (Obj.calSuspectCount + c.val) + 1) % 2 ^ 32 := by
  obtain ⟨⟨hsState, hsCount, -, hsWindows, hsSuspect⟩, hbCount, -, -, hbSuspect⟩ := calKeys c
  have hc := c.isLt
  have hkeys : Obj.calState + c.val < 2 ^ 24 ∧ Obj.calSuspectCount + c.val < 2 ^ 24 ∧ Obj.recessWindows + c.val < 2 ^ 24 ∧
      Obj.calSuspectChannels < 2 ^ 24 ∧ Obj.calState + c.val ≠ Obj.calSuspectCount + c.val ∧
      Obj.calSuspectChannels ≠ Obj.calSuspectCount + c.val ∧ Obj.calSuspectChannels ≠ Obj.calState + c.val ∧
      Obj.recessWindows + c.val ≠ Obj.calSuspectCount + c.val ∧ Obj.recessWindows + c.val ≠ Obj.calState + c.val ∧
      Obj.recessWindows + c.val ≠ Obj.calSuspectChannels := by
    simp only [Obj.calState, Obj.calSuspectCount, Obj.recessWindows, Obj.calSuspectChannels]
    omega
  obtain ⟨hkState, hkCount, hkWindows, hkSuspect, h1, h2, h3, h4, h5, h6⟩ := hkeys
  have hcount : (Obj.calSuspectCount + c.val) ≠ Obj.calState + c.val ∧ (Obj.calSuspectCount + c.val) ≠ Obj.calSuspectChannels :=
    ⟨h1.symm, h2.symm⟩
  unfold failCal
  extract_lets s1 s2
  obtain ⟨x, hx⟩ : ∃ x, x = bump t (Obj.calSuspectCount + c.val) 1 s1 := ⟨_, rfl⟩
  have hs2 : Side x s2 := by rw [hx]; exact side_addLog _ _ _ _ _ _ _
  clear_value s2
  have hxs : x = { s with dict := x.dict } := by rw [hx]; rfl
  have hstate : getObj x t (Obj.calState + c.val) = 2 := by
    rw [hx, bump, getObj_setObj_obj _ h1 hkState hkCount]
    refine (getObj_setObj_same _ _ _ _).trans ?_
    rw [calState_bits]
    rfl
  have hsuspect : bit (getObj x t Obj.calSuspectChannels) c.val = true := by
    rw [hx, bump, getObj_setObj_obj _ h2 hkSuspect hkCount]
    refine (congrArg (bit · c.val) ((getObj_setObj_obj _ h3 hkSuspect hkState).trans (getObj_setObj_same _ _ _ _))).trans ?_
    rw [hbSuspect]
    exact (bit_mod_two_pow (by omega) _).trans (bit_setBit_same _ _)
  have hcounted : getObj x t (Obj.calSuspectCount + c.val) = (getObj s t (Obj.calSuspectCount + c.val) + 1) % 2 ^ 32 := by
    rw [hx, bump, getObj_setObj_same, hbCount]
    refine congrArg (fun n => (n + 1) % 2 ^ 32) ?_
    exact (getObj_setObj_obj _ hcount.1 hkCount hkState).trans (getObj_setObj_obj _ hcount.2 hkCount hkSuspect)
  have hwindows : getObj x t (Obj.recessWindows + c.val) = getObj s t (Obj.recessWindows + c.val) := by
    rw [hx, bump, getObj_setObj_obj _ h4 hkWindows hkCount]
    exact (getObj_setObj_obj _ h5 hkWindows hkState).trans (getObj_setObj_obj _ h6 hkWindows hkSuspect)
  clear_value s1
  obtain ⟨y, hy⟩ : ∃ y, y = modCal t c.val (fun x => { x with step := 0, suspectAt := some s.time.elapsed }) s2 := ⟨_, rfl⟩
  have hring := side_ring t 10 y
  rw [← hy]
  have hobj : ∀ k, k < 2 ^ 24 → sideKey k = false → getObj (ring t 10 y) t k = getObj x t k := fun k hk hs =>
    (hring.objs t k hk hs).trans ((getObj_congr (by rw [hy]; rfl) t k).trans (hs2.objs t k hk hs))
  have hcal : (getCal y t c.val).step = 0 := by rw [hy, getCal_modCal]
  refine ⟨⟨?_, ?_, ?_, (hobj _ hkWindows hsWindows).trans hwindows⟩, ?_, (hobj _ hkState hsState).trans hstate,
    (congrArg (bit · c.val) (hobj _ hkSuspect hsSuspect)).trans hsuspect, (hobj _ hkCount hsCount).trans hcounted⟩
  · rw [hring.fields, hy]
    show s2.pending = _
    rw [hs2.fields, hxs]
  · rw [hring.fields, hy]
    show s2.time = _
    rw [hs2.fields, hxs]
  · refine SameWords.trans ?_ hring.sameWords
    refine SameWords.trans (sameWords_of ?_ ?_ ?_ ?_ : SameWords s x) (hs2.sameWords.trans ?_)
    any_goals rw [hxs]
    rw [hy]
    exact sameWords_of rfl rfl rfl rfl
  · exact (congrArg CalS.step (getCal_congr (by rw [hring.fields]) t c.val)).trans hcal

/-- The objects of an accepted calibration, before its record is pushed. -/
def calStored (t c b : Nat) (s : State) : State :=
  let s1 := setObj t (Obj.calTrims + c) b (bump t (Obj.calCount + c) 1
    (setObj t (Obj.calLastTime + c) s.time.timeBase (setObj t (Obj.calState + c) 0 s)))
  setObj t Obj.calSuspectChannels (clearBit (getObj s1 t Obj.calSuspectChannels) c) s1

theorem calStored_spec (t : Nat) (c : ChanN) (b : Nat) (s : State) :
    getObj (calStored t c.val b s) t (Obj.calState + c.val) = 0 ∧
    bit (getObj (calStored t c.val b s) t Obj.calSuspectChannels) c.val = false ∧
    getObj (calStored t c.val b s) t (Obj.calCount + c.val) = (getObj s t (Obj.calCount + c.val) + 1) % 2 ^ 32 ∧
    getObj (calStored t c.val b s) t (Obj.recessWindows + c.val) = getObj s t (Obj.recessWindows + c.val) := by
  obtain ⟨-, -, hbCount, -, hbSuspect⟩ := calKeys c
  have hc := c.isLt
  have hkeys : Obj.calState + c.val < 2 ^ 24 ∧ Obj.calLastTime + c.val < 2 ^ 24 ∧ Obj.calCount + c.val < 2 ^ 24 ∧
      Obj.calTrims + c.val < 2 ^ 24 ∧ Obj.recessWindows + c.val < 2 ^ 24 ∧ Obj.calSuspectChannels < 2 ^ 24 := by
    simp only [Obj.calState, Obj.calCount, Obj.calLastTime, Obj.calTrims, Obj.recessWindows, Obj.calSuspectChannels]
    omega
  obtain ⟨hkState, hkTime, hkCount, hkTrims, hkWindows, hkSuspect⟩ := hkeys
  have hne : ∀ k ∈ [Obj.calState + c.val, Obj.calLastTime + c.val, Obj.calCount + c.val, Obj.calTrims + c.val, Obj.recessWindows + c.val],
      k ≠ Obj.calSuspectChannels := by
    simp only [List.mem_cons, List.not_mem_nil, or_false, Obj.calState, Obj.calCount, Obj.calLastTime, Obj.calTrims,
      Obj.recessWindows, Obj.calSuspectChannels]
    omega
  have hsc : Obj.calState + c.val ≠ Obj.calCount + c.val ∧ Obj.calState + c.val ≠ Obj.calLastTime + c.val ∧
      Obj.calState + c.val ≠ Obj.calTrims + c.val ∧ Obj.calCount + c.val ≠ Obj.calTrims + c.val ∧
      Obj.calCount + c.val ≠ Obj.calLastTime + c.val ∧ Obj.calCount + c.val ≠ Obj.calState + c.val := by
    simp only [Obj.calState, Obj.calCount, Obj.calLastTime, Obj.calTrims]
    omega
  have hw : Obj.recessWindows + c.val ≠ Obj.calCount + c.val ∧ Obj.recessWindows + c.val ≠ Obj.calLastTime + c.val ∧
      Obj.recessWindows + c.val ≠ Obj.calTrims + c.val ∧ Obj.recessWindows + c.val ≠ Obj.calState + c.val := by
    simp only [Obj.calState, Obj.calCount, Obj.calLastTime, Obj.calTrims, Obj.recessWindows]
    omega
  obtain ⟨hStateCount, hStateTime, hStateTrims, hCountTrims, hCountTime, hCountState⟩ := hsc
  obtain ⟨hwCount, hwTime, hwTrims, hwState⟩ := hw
  unfold calStored bump
  extract_lets s1
  have hstate : getObj s1 t (Obj.calState + c.val) = 0 := by
    refine (getObj_setObj_obj _ hStateTrims hkState hkTrims).trans ((getObj_setObj_obj _ hStateCount hkState hkCount).trans
      ((getObj_setObj_obj _ hStateTime hkState hkTime).trans ((getObj_setObj_same _ _ _ _).trans ?_)))
    exact Nat.zero_mod _
  have hcount : getObj s1 t (Obj.calCount + c.val) = (getObj s t (Obj.calCount + c.val) + 1) % 2 ^ 32 := by
    refine (getObj_setObj_obj _ hCountTrims hkCount hkTrims).trans ((getObj_setObj_same _ _ _ _).trans ?_)
    rw [hbCount]
    refine congrArg (fun n => (n + 1) % 2 ^ 32) ?_
    exact (getObj_setObj_obj _ hCountTime hkCount hkTime).trans (getObj_setObj_obj _ hCountState hkCount hkState)
  have hwindows : getObj s1 t (Obj.recessWindows + c.val) = getObj s t (Obj.recessWindows + c.val) :=
    (getObj_setObj_obj _ hwTrims hkWindows hkTrims).trans ((getObj_setObj_obj _ hwCount hkWindows hkCount).trans
      ((getObj_setObj_obj _ hwTime hkWindows hkTime).trans (getObj_setObj_obj _ hwState hkWindows hkState)))
  clear_value s1
  refine ⟨?_, ?_, ?_, ?_⟩
  · rw [getObj_setObj_obj _ (hne _ (by simp)) hkState hkSuspect, hstate]
  · rw [getObj_setObj_same, hbSuspect, bit_mod_two_pow (by omega), bit_clearBit_same]
  · rw [getObj_setObj_obj _ (hne _ (by simp)) hkCount hkSuspect, hcount]
  · rw [getObj_setObj_obj _ (hne _ (by simp)) hkWindows hkSuspect, hwindows]

/-- A full trim set that is put in use is the one in use. -/
theorem trimsInUse_applyTrims (t c : Nat) {v : List Nat} (h : v.length = 11) (s : State) :
    trimsInUse (applyTrims t c v s) t c = v := by
  obtain ⟨b, hb⟩ : ∃ b, b = v.drop 10 := ⟨_, rfl⟩
  have htake : (v.take 5 ++ b).take 5 = v.take 5 ∧ (v.take 5 ++ b).drop 5 = b := by
    have hlen : (v.take 5).length = 5 := by rw [List.length_take, h]; rfl
    exact ⟨by rw [List.take_append_of_le_length (by omega), List.take_of_length_le (by omega)],
      by rw [List.drop_append_of_le_length (by omega), List.drop_of_length_le (by omega), List.nil_append]⟩
  unfold trimsInUse applyTrims
  rw [getLayer_modLayer]
  dsimp only
  rw [← hb, htake.1, htake.2, hb, List.append_assoc]
  conv_rhs => rw [← List.take_append_drop 5 v, ← List.take_append_drop 5 (v.drop 5), List.drop_drop]

/-- An accepted calibration before its trims take effect. -/
def calJudged (t c b : Nat) (target : List Nat) (s : State) : State :=
  modCal t c (fun x => { x with
    step := 0, lastAt := s.time.elapsed, lastTemp := getInt s t Obj.columnDramMax, suspectAt := none
    target := target, lastStep := s.time.elapsed }) (pushRecord 0x04 (chanRecord t c) 24 b (calStored t c b s))

theorem acceptCal_eq (t c : Nat) (v : List Nat) (edge : Bool) (s : State) : ∃ b, acceptCal t c v edge s =
    if stepMode s t then applyTrims t c v (calJudged t c b [] s) else calJudged t c b v s := by
  refine ⟨trimSet s t v edge (bit (getObj s t (Obj.calTrims + c)) 65), ?_⟩
  unfold acceptCal calJudged calStored
  cases stepMode s t <;> simp only [if_true, if_false, Bool.false_eq_true]

theorem calStored_fields (t : Nat) (c : ChanN) (b : Nat) (s : State) :
    calStored t c.val b s = { s with dict := (calStored t c.val b s).dict } := by
  have hset : ∀ (k v : Nat) (x : State), k < 2 ^ 24 → ObjsOnly (fun u _ => u = t) x (setObj t k v x) :=
    fun k v x hk => ObjsOnly.setUnit t v hk x
  unfold calStored bump
  exact (((((hset (Obj.calState + c.val) 0 s (chanKey_lt (by decide) c)).trans
    (hset (Obj.calLastTime + c.val) _ _ (chanKey_lt (by decide) c))).trans
    (hset (Obj.calCount + c.val) _ _ (chanKey_lt (by decide) c))).trans
    (hset (Obj.calTrims + c.val) _ _ (chanKey_lt (by decide) c))).trans (hset Obj.calSuspectChannels _ _ (by decide))).fields

/-- What the decision to accept leaves (R389). -/
structure CalJudged (t : Nat) (c : ChanN) (target : List Nat) (s y : State) : Prop where
  decided : Decided t c.val s y
  step : (getCal y t c.val).step = 0
  target : (getCal y t c.val).target = target
  state : getObj y t (Obj.calState + c.val) = 0
  suspect : bit (getObj y t Obj.calSuspectChannels) c.val = false
  count : getObj y t (Obj.calCount + c.val) = (getObj s t (Obj.calCount + c.val) + 1) % 2 ^ 32
  layer : y.layer = s.layer

theorem calJudged_spec (t : Nat) (c : ChanN) (b : Nat) (target : List Nat) (s : State) :
    CalJudged t c target s (calJudged t c.val b target s) := by
  obtain ⟨⟨hsState, -, hsCount, hsWindows, hsSuspect⟩, -⟩ := calKeys c
  obtain ⟨hstate, hsuspect, hcount, hwindows⟩ := calStored_spec t c b s
  have hfields := calStored_fields t c b s
  unfold calJudged
  generalize hx : calStored t c.val b s = x at hstate hsuspect hcount hwindows hfields ⊢
  have hside : Side x (pushRecord 0x04 (chanRecord t c.val) 24 b x) := side_pushRecord _ _ _ _ _
  generalize pushRecord 0x04 (chanRecord t c.val) 24 b x = y at hside ⊢
  clear hx
  have hobj : ∀ k, k < 2 ^ 24 → sideKey k = false → getObj y t k = getObj x t k := fun k hk hs => hside.objs t k hk hs
  have hwords : SameWords s y := by
    refine SameWords.trans (sameWords_of ?_ ?_ ?_ ?_ : SameWords s x) hside.sameWords
    all_goals rw [hfields]
  have hkept : (y.layer = x.layer ∧ y.pending = x.pending ∧ y.time = x.time) ∧
      x.layer = s.layer ∧ x.pending = s.pending ∧ x.time = s.time := by
    constructor
    · rw [hside.fields]
      exact ⟨rfl, rfl, rfl⟩
    · rw [hfields]
      exact ⟨rfl, rfl, rfl⟩
  obtain ⟨⟨hlayer, hpend, htime⟩, hlayer', hpend', htime'⟩ := hkept
  refine ⟨⟨hpend.trans hpend', htime.trans htime', hwords.trans (sameWords_of rfl rfl rfl rfl), ?_⟩, ?_, ?_, ?_, ?_, ?_, hlayer.trans hlayer'⟩
  · exact (hobj _ (chanKey_lt (by decide) c) hsWindows).trans hwindows
  · exact congrArg CalS.step (getCal_modCal t c.val _ y)
  · exact congrArg CalS.target (getCal_modCal t c.val _ y)
  · exact (hobj _ (chanKey_lt (by decide) c) hsState).trans hstate
  · exact (congrArg (bit · c.val) (hobj _ (by decide) hsSuspect)).trans hsuspect
  · exact (hobj _ (chanKey_lt (by decide) c) hsCount).trans hcount

/-- An accepted calibration (R389, R390). -/
structure Accepted (t : Nat) (c : ChanN) (v : List Nat) (s y : State) : Prop where
  decided : Decided t c.val s y
  step : (getCal y t c.val).step = 0
  state : getObj y t (Obj.calState + c.val) = 0
  suspect : bit (getObj y t Obj.calSuspectChannels) c.val = false
  count : getObj y t (Obj.calCount + c.val) = (getObj s t (Obj.calCount + c.val) + 1) % 2 ^ 32
  atOnce : stepMode s t = true → trimsInUse y t c.val = v
  gradual : stepMode s t = false → (getCal y t c.val).target = v ∧ trimsInUse y t c.val = trimsInUse s t c.val

theorem acceptCal_spec (t : Nat) (c : ChanN) {v : List Nat} (hv : v.length = 11) (edge : Bool) (s : State) :
    Accepted t c v s (acceptCal t c.val v edge s) := by
  obtain ⟨b, h⟩ := acceptCal_eq t c.val v edge s
  rw [h]
  cases hm : stepMode s t with
  | true =>
    rw [if_pos rfl]
    obtain ⟨⟨hpend, htime, hwords, hwindows⟩, hstep, -, hstate, hsuspect, hcount, -⟩ := calJudged_spec t c b [] s
    generalize calJudged t c.val b [] s = y at *
    have hw : SameWords y (applyTrims t c.val v y) := by
      refine (calm_modLayer (K := fun _ => false) t c.val _ ?_ y).words
      exact fun _ => rfl
    exact ⟨⟨hpend, htime, hwords.trans hw, hwindows⟩, hstep, hstate, hsuspect, hcount,
      fun _ => trimsInUse_applyTrims t c.val hv y, fun e => absurd (hm.symm.trans e) (by decide)⟩
  | false =>
    rw [if_neg Bool.false_ne_true]
    obtain ⟨hdecided, hstep, htarget, hstate, hsuspect, hcount, hlayer⟩ := calJudged_spec t c b v s
    have hl := getLayer_of_layer hlayer t c.val
    exact ⟨hdecided, hstep, hstate, hsuspect, hcount, fun e => absurd (hm.symm.trans e) (by decide),
      fun _ => ⟨htarget, trimsInUse_congr (congrArg LayerS.trims hl) (congrArg LayerS.logicTrims hl)⟩⟩

/-- An accepted set names every trim. -/
theorem length_of_accept {x : CalS} {use v : List Nat} {run : List (Option Nat)} (h : judgeRun x use run = .accept v) :
    v.length = 11 := by
  unfold judgeRun at h
  split at h
  · dsimp only at h
    split_ifs at h
    all_goals
      cases h
      rw [List.length_map, List.length_range]
  · cases h

/-- A run that ended is judged in a state that shows its results, and its window then closes (R388). -/
theorem calRunEnd_judged {t : Nat} {c : ChanN} {trims : List (Option Nat)} {edge : Bool} {s : State}
    (hopen : (getRecess s t c.val).openAt ≠ none) (hcal : (getRecess s t c.val).cal = true) (hphase : (getRecess s t c.val).phase = 2)
    (hstep : (getCal s t c.val).step ≠ 0) (hstate : chState s t c.val = 2) (hhold : inHold s t = false) (htrip : tripped s = false) :
    ∃ x, ObjsOnly runShown s x ∧ calRunEnd t c.val trims edge s =
      closeWindow t c.val (decideRun t c.val ((List.range 11).map (fun i => trims.getD i none)) edge x) := by
  obtain ⟨use, huse⟩ : ∃ u, u = trimsInUse s t c.val := ⟨_, rfl⟩
  obtain ⟨r, hr⟩ : ∃ r, r = (List.range 11).map (fun i => trims.getD i none) := ⟨_, rfl⟩
  obtain ⟨x, hx⟩ : ∃ x, x = setObj t (Obj.calLastRun + c.val) (trimSet s t ((List.range 11).map (fun i => (r.getD i none).getD (use.getD i 0)))
    edge (bit (getObj s t (Obj.calTrims + c.val)) 65)) s := ⟨_, rfl⟩
  have hc := c.isLt
  have hset : ObjsOnly runShown s x := by
    rw [hx]
    refine ObjsOnly.set _ (chanKey_lt (by decide) c) (.inr ?_) s
    simp only [Obj.calLastRun]
    omega
  have hrun : calRunEnd t c.val trims edge s = closeWindow t c.val (decideRun t c.val r edge x) := by
    rw [hx, hr, huse]
    unfold calRunEnd
    refine (if_neg ?_).trans ((if_neg hstep).trans ((if_neg (not_not_intro hstate)).trans (if_neg ?_)))
    · rw [hcal, hphase, Option.isNone_iff_eq_none]
      simp [hopen]
    · rw [hhold, htrip]
      simp
  exact ⟨x, hset, by rw [hrun, hr]⟩

section
variable {t : Nat} {c : ChanN} {r : List (Option Nat)} {edge : Bool} {s : State}

/-- The state in which a last run is judged: it counts a third one. -/
def lastRun (t c : Nat) (s : State) : State := if (getCal s t c).step = 3 then bump t (Obj.calThirdRuns + c) 1 s else s

theorem objsOnly_lastRun (t : Nat) (c : ChanN) (s : State) : ObjsOnly runShown s (lastRun t c.val s) := by
  have hc := c.isLt
  unfold lastRun bump
  split
  · refine ObjsOnly.set _ (chanKey_lt (by decide) c) (.inl ?_) s
    simp only [Obj.calThirdRuns]
    omega
  · exact ObjsOnly.refl _ s

theorem decideRun_again (h : judgeRun (getCal s t c.val) (trimsInUse s t c.val) r = .again) :
    decideRun t c.val r edge s = modCal t c.val (fun k => { k with
      step := k.step + 1, skip := 1, runA := if k.step = 1 then r else k.runA, runB := if k.step = 2 then r else k.runB }) s := by
  unfold decideRun
  dsimp only
  rw [h]

theorem decideRun_fail (h : judgeRun (getCal s t c.val) (trimsInUse s t c.val) r = .fail) :
    decideRun t c.val r edge s = failCal t c.val (lastRun t c.val s) := by
  unfold decideRun
  dsimp only
  rw [h]
  rfl

theorem decideRun_accept {v : List Nat} (h : judgeRun (getCal s t c.val) (trimsInUse s t c.val) r = .accept v) :
    decideRun t c.val r edge s = acceptCal t c.val v edge (lastRun t c.val s) := by
  unfold decideRun
  dsimp only
  rw [h]
  rfl

/-- What showing a run's results leaves of the channel. -/
structure ShownOnly (t : Nat) (c : ChanN) (s x : State) : Prop where
  kept : Decided t c.val s x
  cal : getCal x t c.val = getCal s t c.val
  trims : trimsInUse x t c.val = trimsInUse s t c.val
  mode : stepMode x t = stepMode s t
  suspects : getObj x t (Obj.calSuspectCount + c.val) = getObj s t (Obj.calSuspectCount + c.val)
  count : getObj x t (Obj.calCount + c.val) = getObj s t (Obj.calCount + c.val)

theorem shownOnly {x : State} (h : ObjsOnly runShown s x) : ShownOnly t c s x := by
  have hc := c.isLt
  have hobj : ∀ u k, k < 2 ^ 24 → k / 256 ≠ 0x9014 → k / 256 ≠ 0x9016 → getObj x u k = getObj s u k :=
    fun u k hk h1 h2 => h.objs u k hk fun e => e.elim h1 h2
  have hidx : (Obj.recessWindows + c.val) / 256 = 0x7014 ∧ (Obj.calSuspectCount + c.val) / 256 = 0x9015 ∧
      (Obj.calCount + c.val) / 256 = 0x9012 := by
    simp only [Obj.recessWindows, Obj.calSuspectCount, Obj.calCount]
    omega
  obtain ⟨hw, hs, hn⟩ := hidx
  have hmode : getObj x t Obj.calApplyMode = getObj s t Obj.calApplyMode := hobj _ _ (by decide) (by decide) (by decide)
  have hslp : slp2 x = slp2 s := by
    rw [h.fields]
    rfl
  refine ⟨⟨by rw [h.fields], by rw [h.fields], h.sameWords, ?_⟩, ?_, ?_, ?_, ?_, ?_⟩
  · exact hobj _ _ (chanKey_lt (by decide) c) (by rw [hw]; decide) (by rw [hw]; decide)
  · rw [h.fields]
    rfl
  · rw [h.fields]
    rfl
  · unfold stepMode
    rw [hmode, hslp]
  · exact hobj _ _ (chanKey_lt (by decide) c) (by rw [hs]; decide) (by rw [hs]; decide)
  · exact hobj _ _ (chanKey_lt (by decide) c) (by rw [hn]; decide) (by rw [hn]; decide)

theorem Decided.trans {a b d : State} (h : Decided t c.val a b) (h' : Decided t c.val b d) : Decided t c.val a d :=
  ⟨h'.pending.trans h.pending, h'.time.trans h.time, h.words.trans h'.words, h'.windows.trans h.windows⟩

end

section
variable {t : TileN} {c : ChanN} {trims : List (Option Nat)} {edge : Bool} {s : State}

/-- A run's end: its window closes on what was decided. -/
theorem answers_runEnd {y : State} {P : State → Prop} (h : Decided t.val c.val (fresh s) y)
    (hrun : calRunEnd t.val c.val trims edge (fresh s) = closeWindow t.val c.val y)
    (hP : ∀ z, WindowClosed t.val c.val y z → P z) : Answers (.calibrationRunEnd t c trims edge) s (fun s' =>
      ((getRecess s' t.val c.val).openAt = none ∧
        getObj s' t.val (Obj.recessWindows + c.val) = (getObj s t.val (Obj.recessWindows + c.val) + 1) % 2 ^ 64 ∧ SameMemory s s') ∧
      P s') := by
  have hz := windowClosed t.val c y
  refine answers_of_kept (exec_calibrationRunEnd t c trims edge s) hrun ?_ ?_ ⟨⟨hz.shut, ?_, ?_⟩, hP _ hz⟩
  · rw [hz.fields]
    exact h.pending
  · rw [hz.fields]
    exact h.time
  · rw [hz.counted, h.windows]
    rfl
  · exact ((sameWords_fresh s).trans (h.words.trans hz.words)).sameMemory

/-- What a closing window leaves of a calibration. -/
theorem WindowClosed.kept {y z : State} (h : WindowClosed t.val c.val y z) : getCal z t.val c.val = getCal y t.val c.val ∧
    getObj z t.val (Obj.calState + c.val) = getObj y t.val (Obj.calState + c.val) ∧
    getObj z t.val (Obj.calSuspectCount + c.val) = getObj y t.val (Obj.calSuspectCount + c.val) ∧
    getObj z t.val (Obj.calCount + c.val) = getObj y t.val (Obj.calCount + c.val) ∧
    getObj z t.val Obj.calSuspectChannels = getObj y t.val Obj.calSuspectChannels := by
  have hc := c.isLt
  have hobj : ∀ k, k < 2 ^ 24 → 0x9000 ≤ k / 256 → getObj z t.val k = getObj y t.val k := by
    refine fun k hk hi => h.objs k hk ?_
    simp only [List.mem_cons, List.not_mem_nil, or_false]
    omega
  refine ⟨by rw [h.fields]; rfl, hobj _ (chanKey_lt (by decide) c) ?_, hobj _ (chanKey_lt (by decide) c) ?_,
    hobj _ (chanKey_lt (by decide) c) ?_, hobj _ (by decide) (by decide)⟩
  all_goals
    simp only [Obj.calState, Obj.calSuspectCount, Obj.calCount]
    omega

variable {r : List (Option Nat)} {x : State}
  (hjudged : calRunEnd t.val c.val trims edge (fresh s) = closeWindow t.val c.val (decideRun t.val c.val r edge x))
  (hshown : ObjsOnly runShown (fresh s) x)
include hjudged hshown

theorem answers_runAgain (h : judgeRun (getCal s t.val c.val) (trimsInUse s t.val c.val) r = .again) :
    Answers (.calibrationRunEnd t c trims edge) s (fun s' => ((getRecess s' t.val c.val).openAt = none ∧
        getObj s' t.val (Obj.recessWindows + c.val) = (getObj s t.val (Obj.recessWindows + c.val) + 1) % 2 ^ 64 ∧ SameMemory s s') ∧
      (getCal s' t.val c.val).step = (getCal s t.val c.val).step + 1 ∧ (getCal s' t.val c.val).skip = 1) := by
  obtain ⟨hkept, hcal, htrims, -⟩ := shownOnly (t := t.val) (c := c) hshown
  have hcal' : getCal x t.val c.val = getCal s t.val c.val := hcal
  rw [decideRun_again (by rw [hcal, htrims]; exact h)] at hjudged
  refine answers_runEnd ?_ hjudged fun z hz => ?_
  · exact ⟨hkept.pending, hkept.time, hkept.words.trans (sameWords_modCal _ _ _ x), hkept.windows⟩
  · rw [hz.kept.1, getCal_modCal, hcal']
    exact ⟨rfl, rfl⟩

theorem answers_runFail (h : judgeRun (getCal s t.val c.val) (trimsInUse s t.val c.val) r = .fail) :
    Answers (.calibrationRunEnd t c trims edge) s (fun s' => ((getRecess s' t.val c.val).openAt = none ∧
        getObj s' t.val (Obj.recessWindows + c.val) = (getObj s t.val (Obj.recessWindows + c.val) + 1) % 2 ^ 64 ∧ SameMemory s s') ∧
      (getCal s' t.val c.val).step = 0 ∧ getObj s' t.val (Obj.calState + c.val) = 2 ∧
        bit (getObj s' t.val Obj.calSuspectChannels) c.val = true ∧
        getObj s' t.val (Obj.calSuspectCount + c.val) = (getObj s t.val (Obj.calSuspectCount + c.val) + 1) % 2 ^ 32) := by
  obtain ⟨-, hcal, htrims, -⟩ := shownOnly (t := t.val) (c := c) hshown
  rw [decideRun_fail (by rw [hcal, htrims]; exact h)] at hjudged
  have hlast := shownOnly (t := t.val) (c := c) (hshown.trans (objsOnly_lastRun t.val c x))
  obtain ⟨hdecided, hstep, hstate, hsuspect, hcount⟩ := failCal_spec t.val c (lastRun t.val c.val x)
  refine answers_runEnd (hlast.kept.trans hdecided) hjudged fun z hz => ?_
  obtain ⟨kcal, kstate, kcount, -, ksuspect⟩ := hz.kept
  rw [kcal, kstate, kcount, ksuspect]
  exact ⟨hstep, hstate, hsuspect, hcount.trans (by rw [hlast.suspects]; rfl)⟩

theorem answers_runAccept {v : List Nat} (h : judgeRun (getCal s t.val c.val) (trimsInUse s t.val c.val) r = .accept v) :
    Answers (.calibrationRunEnd t c trims edge) s (fun s' => ((getRecess s' t.val c.val).openAt = none ∧
        getObj s' t.val (Obj.recessWindows + c.val) = (getObj s t.val (Obj.recessWindows + c.val) + 1) % 2 ^ 64 ∧ SameMemory s s') ∧
      (getCal s' t.val c.val).step = 0 ∧ getObj s' t.val (Obj.calState + c.val) = 0 ∧
        bit (getObj s' t.val Obj.calSuspectChannels) c.val = false ∧
        getObj s' t.val (Obj.calCount + c.val) = (getObj s t.val (Obj.calCount + c.val) + 1) % 2 ^ 32 ∧
        (stepMode s t.val = true → trimsInUse s' t.val c.val = v) ∧
        (stepMode s t.val = false → (getCal s' t.val c.val).target = v ∧
          trimsInUse s' t.val c.val = trimsInUse s t.val c.val)) := by
  obtain ⟨-, hcal, htrims, -⟩ := shownOnly (t := t.val) (c := c) hshown
  rw [decideRun_accept (by rw [hcal, htrims]; exact h)] at hjudged
  have hlast := shownOnly (t := t.val) (c := c) (hshown.trans (objsOnly_lastRun t.val c x))
  obtain ⟨hdecided, hstep, hstate, hsuspect, hcount, honce, hgradual⟩ := acceptCal_spec t.val c (length_of_accept h) edge (lastRun t.val c.val x)
  refine answers_runEnd (hlast.kept.trans hdecided) hjudged fun z hz => ?_
  obtain ⟨kcal, kstate, -, kcount, ksuspect⟩ := hz.kept
  rw [kcal, kstate, kcount, ksuspect, hz.trims]
  rw [hlast.mode] at honce hgradual
  rw [hlast.trims] at hgradual
  exact ⟨hstep, hstate, hsuspect, hcount.trans (by rw [hlast.count]; rfl), honce, hgradual⟩

end

/-! ### The gradual application (R390) -/

section
variable {t : TileN} {c : ChanN} {s : State}

/-- Words sent down one after another. -/
theorem down_sendDowns (t c : Nat) (l : List Down) (s : State) : ∃ y, l.foldl (fun s d => sendDown t c d s) s = y ∧
    getLayer y t c = { getLayer s t c with down := (getLayer s t c).down ++ l } ∧ y = { s with layer := y.layer } ∧ SameWords s y := by
  induction l generalizing s with
  | nil => exact ⟨s, rfl, by rw [List.append_nil], rfl, SameWords.refl s⟩
  | cons d l ih =>
    obtain ⟨y, hfold, hlayer, hfields, hwords⟩ := ih (sendDown t c d s)
    refine ⟨y, hfold, ?_, ?_, (windowed_down t c d s).words.trans hwords⟩
    · rw [hlayer, sendDown, getLayer_modLayer, List.append_assoc]
      rfl
    · rw [hfields]
      rfl

/-- One LSB of the logic-side trims towards their targets. -/
def logicStep (use target : List Nat) : List Nat :=
  (List.range 5).map (fun j => towards (use.getD (5 + j) 0) (target.getD (5 + j) 0))

theorem gradualStep_waits {x : CalS} {use : List Nat} (hx : getCal s t.val c.val = x) (huse : trimsInUse s t.val c.val = use)
    (h0 : x.target ≠ []) (hm : stepMode s t.val = false) (hne : use ≠ x.target) :
    (x.lastStep + 50000 ≤ s.time.elapsed → ∀ y, y = modCal t.val c.val (fun k => { k with lastStep := s.time.elapsed, layerDue := true })
        (modLayer t.val c.val (fun l => { l with logicTrims := logicStep use x.target }) s) →
      gradualStep t.val c.val s = if trimsFree s t.val c.val then
        (trimWords use x.target).foldl (fun s d => sendDown t.val c.val d s) (modCal t.val c.val (fun k => { k with layerDue := false }) y)
        else y) ∧
    (¬ x.lastStep + 50000 ≤ s.time.elapsed → gradualStep t.val c.val s = if (x.layerDue && trimsFree s t.val c.val) = true then
        (trimWords use x.target).foldl (fun s d => sendDown t.val c.val d s) (modCal t.val c.val (fun k => { k with layerDue := false }) s)
        else s) := by
  subst hx huse
  have hempty : (getCal s t.val c.val).target.isEmpty = false := by
    rw [← Bool.not_eq_true, List.isEmpty_iff]
    exact h0
  constructor
  · intro hdue y hy
    unfold gradualStep
    dsimp only
    rw [hempty, hm, if_neg Bool.false_ne_true, if_neg Bool.false_ne_true, if_neg hne, decide_eq_true hdue, if_pos rfl, hy]
    rfl
  · intro hdue
    unfold gradualStep
    dsimp only
    rw [hempty, hm, if_neg Bool.false_ne_true, if_neg Bool.false_ne_true, if_neg hne, decide_eq_false hdue, if_neg Bool.false_ne_true]
    rfl

/-- The commands of a channel after its layer-side trims were sent. -/
theorem answers_trimsSent {x : CalS} {l : List Down} {y : State} {P : State → Prop}
    (hy : y = { s with cal := y.cal, layer := y.layer, out := {} }) (hwords : SameWords s y) (hcal : getCal y t.val c.val = x)
    (hrun : gradualStep t.val c.val (fresh s) =
      l.foldl (fun s d => sendDown t.val c.val d s) (modCal t.val c.val (fun k => { k with layerDue := false }) y))
    (hP : ∀ z, getLayer z t.val c.val = { getLayer y t.val c.val with down := (getLayer y t.val c.val).down ++ l } →
      getCal z t.val c.val = { x with layerDue := false } → P z) :
    Answers (.gradualTrimStep t c) s (fun s' => P s' ∧ SameMemory s s' ∧ s' = { s with cal := s'.cal, layer := s'.layer, out := {} }) := by
  obtain ⟨z, hfold, hlayer, hfields, hsent⟩ := down_sendDowns t.val c.val l (modCal t.val c.val (fun k => { k with layerDue := false }) y)
  rw [hfold] at hrun
  have hz : z = { s with cal := z.cal, layer := z.layer, out := {} } := by
    rw [hfields, hy]
    rfl
  refine answers_of_kept (exec_gradualTrimStep t c s) hrun (by rw [hz]) (by rw [hz]) ⟨hP z hlayer ?_, ?_, hz⟩
  · have hz' : z.cal = (modCal t.val c.val (fun k => { k with layerDue := false }) y).cal := by rw [hfields]
    rw [getCal_congr hz', getCal_modCal, hcal]
  · exact (hwords.trans ((sameWords_modCal _ _ _ y).trans hsent)).sameMemory

theorem answers_trimsReached {x : CalS} (hx : getCal s t.val c.val = x) (h0 : x.target ≠ []) (hm : stepMode s t.val = false)
    (huse : trimsInUse s t.val c.val = x.target) : Answers (.gradualTrimStep t c) s (fun s' =>
      getCal s' t.val c.val = { x with target := [], layerDue := false } ∧
      SameMemory s s' ∧ s' = { s with cal := s'.cal, layer := s'.layer, out := {} }) := by
  subst hx
  have hempty : (getCal s t.val c.val).target.isEmpty = false := by
    rw [← Bool.not_eq_true, List.isEmpty_iff]
    exact h0
  have hrun : gradualStep t.val c.val (fresh s) = modCal t.val c.val (fun k => { k with target := [], layerDue := false }) (fresh s) := by
    unfold gradualStep
    refine (if_neg ?_).trans ((if_neg ?_).trans (if_pos huse))
    · rw [show (getCal (fresh s) t.val c.val).target.isEmpty = false from hempty]
      exact Bool.false_ne_true
    · rw [show stepMode (fresh s) t.val = false from hm]
      exact Bool.false_ne_true
  exact answers_of_kept (exec_gradualTrimStep t c s) hrun rfl rfl
    ⟨getCal_modCal _ _ _ _, ((sameWords_fresh s).trans (sameWords_modCal _ _ _ _)).sameMemory, rfl⟩

theorem noEffect_gradual {x : CalS} (hx : getCal s t.val c.val = x) (hm : stepMode s t.val = false)
    (hne : trimsInUse s t.val c.val ≠ x.target) (hdue : ¬ x.lastStep + 50000 ≤ s.time.elapsed)
    (h : x.layerDue = false ∨ trimsFree s t.val c.val = false) : NoEffect (.gradualTrimStep t c) s := by
  by_cases h0 : x.target = []
  · exact noEffect_run (exec_gradualTrimStep t c s) (if_pos (by
      rw [show getCal (fresh s) t.val c.val = x from hx, h0]
      rfl))
  · refine noEffect_run (exec_gradualTrimStep t c s) ?_
    refine ((gradualStep_waits (s := fresh s) hx rfl h0 hm hne).2 hdue).trans (if_neg ?_)
    rw [show trimsFree (fresh s) t.val c.val = trimsFree s t.val c.val from rfl, Bool.and_eq_true]
    exact fun e => h.elim (fun hl => Bool.false_ne_true (hl.symm.trans e.1)) (fun hf => Bool.false_ne_true (hf.symm.trans e.2))

theorem answers_trimsLate {x : CalS} (hx : getCal s t.val c.val = x) (h0 : x.target ≠ []) (hm : stepMode s t.val = false)
    (hne : trimsInUse s t.val c.val ≠ x.target) (hdue : ¬ x.lastStep + 50000 ≤ s.time.elapsed)
    (hlayer : x.layerDue = true) (hfree : trimsFree s t.val c.val = true) : Answers (.gradualTrimStep t c) s (fun s' =>
      ((getLayer s' t.val c.val).down = (getLayer s t.val c.val).down ++ trimWords (trimsInUse s t.val c.val) x.target ∧
        trimsInUse s' t.val c.val = trimsInUse s t.val c.val ∧ getCal s' t.val c.val = { x with layerDue := false }) ∧
      SameMemory s s' ∧ s' = { s with cal := s'.cal, layer := s'.layer, out := {} }) := by
  have hrun := ((gradualStep_waits (s := fresh s) hx rfl h0 hm hne).2 hdue).trans (if_pos (by
    rw [show trimsFree (fresh s) t.val c.val = true from hfree, hlayer]
    rfl))
  refine answers_trimsSent (y := fresh s) (x := x) rfl (sameWords_of rfl rfl rfl rfl) hx hrun fun z hz hcal => ⟨?_, ?_, hcal⟩
  · rw [hz]
    rfl
  · exact trimsInUse_congr (a := s) (by rw [hz]; rfl) (by rw [hz]; rfl)

theorem answers_trimsStep {x : CalS} (hx : getCal s t.val c.val = x) (h0 : x.target ≠ []) (hm : stepMode s t.val = false)
    (hne : trimsInUse s t.val c.val ≠ x.target) (hdue : x.lastStep + 50000 ≤ s.time.elapsed) :
    Answers (.gradualTrimStep t c) s (fun s' =>
      ((getLayer s' t.val c.val).logicTrims = logicStep (trimsInUse s t.val c.val) x.target ∧
        (getLayer s' t.val c.val).trims = (getLayer s t.val c.val).trims ∧
        (trimsFree s t.val c.val = true →
          (getLayer s' t.val c.val).down = (getLayer s t.val c.val).down ++ trimWords (trimsInUse s t.val c.val) x.target) ∧
        (trimsFree s t.val c.val = false → (getLayer s' t.val c.val).down = (getLayer s t.val c.val).down) ∧
        getCal s' t.val c.val = { x with lastStep := s.time.elapsed, layerDue := !trimsFree s t.val c.val }) ∧
      SameMemory s s' ∧ s' = { s with cal := s'.cal, layer := s'.layer, out := {} }) := by
  obtain ⟨y, hy⟩ : ∃ y, y = modCal t.val c.val (fun k => { k with lastStep := s.time.elapsed, layerDue := true })
    (modLayer t.val c.val (fun l => { l with logicTrims := logicStep (trimsInUse s t.val c.val) x.target }) (fresh s)) := ⟨_, rfl⟩
  have hrun := (gradualStep_waits (s := fresh s) hx rfl h0 hm hne).1 hdue y hy
  have hfields : y = { s with cal := y.cal, layer := y.layer, out := {} } := by rw [hy]; rfl
  have hcal : getCal y t.val c.val = { x with lastStep := s.time.elapsed, layerDue := true } := by
    rw [hy, getCal_modCal, ← hx]
    rfl
  have hlayer : getLayer y t.val c.val = { getLayer s t.val c.val with logicTrims := logicStep (trimsInUse s t.val c.val) x.target } := by
    rw [hy, getLayer_modCal, getLayer_modLayer]
    rfl
  have hwords : SameWords s y := by
    have hset := (calm_modLayer (K := fun _ => false) t.val c.val
      (fun l => { l with logicTrims := logicStep (trimsInUse s t.val c.val) x.target }) (fun _ => rfl) (fresh s)).words
    rw [hy]
    exact ((sameWords_fresh s).trans hset).trans (sameWords_modCal _ _ _ _)
  clear hy
  cases hfree : trimsFree s t.val c.val with
  | true =>
    refine answers_trimsSent hfields hwords hcal (hrun.trans (if_pos hfree)) fun z hz hzcal => ?_
    rw [hz, hlayer, hzcal]
    exact ⟨rfl, rfl, fun _ => rfl, fun e => absurd e (by decide), rfl⟩
  | false =>
    refine answers_of_kept (exec_gradualTrimStep t c s)
      (hrun.trans (if_neg (by rw [show trimsFree (fresh s) t.val c.val = false from hfree]; exact Bool.false_ne_true)))
      (by rw [hfields]) (by rw [hfields]) ⟨?_, hwords.sameMemory, hfields⟩
    rw [hlayer, hcal]
    exact ⟨rfl, rfl, fun e => absurd e (by decide), fun _ => rfl, rfl⟩

end

/-- Settles O42: a window that opens, a calibration that starts, a run that ends by its three decisions, and the steps of
an application. -/
theorem recessAndCalibration : Obligations.RecessAndCalibration := by
  refine ⟨fun t c s => ?_, fun t c s => ⟨fun h => ?_, answers_calibrationStart⟩, fun t c trims edge s => ⟨fun h => ?_, ?_⟩,
    fun t c s => ⟨fun h => ?_, fun h0 hm huse => ?_, fun hm hne hdue hwait => ?_, fun h0 hm hne hdue hlate hfree => ?_,
      fun h0 hm hne hdue => ?_⟩⟩
  · obtain ⟨hshut, hopens⟩ := recessOpen_cases (t := t.val) (c := c.val) (s := fresh s) _ rfl
    refine ⟨fun h => ?_, fun hmay hfirst => ?_, fun hmay hfirst hnext => ?_⟩
    · refine noEffect_run (exec_recessWindowOpen t c s) ?_
      by_cases hb : (getRecess (fresh s) t.val c.val).openAt.isSome ∨ chState (fresh s) t.val c.val = 4 ∨
          getObj (fresh s) dev Obj.bringupPhase = 1 ∨ getObj (fresh s) dev Obj.bringupPhase = 2
      · exact hshut hb
      · obtain hmay | ⟨hfirst, hnext⟩ := h
        · refine absurd ?_ (of_decide_eq_false hmay)
          rw [Option.isSome_iff_ne_none] at hb
          simp only [not_or, not_not] at hb
          exact hb
        · exact (hopens hb).trans ((if_neg (of_decide_eq_false hfirst)).trans (if_neg (of_decide_eq_false hnext)))
    all_goals
      have hb := of_decide_eq_true hmay
      have hb' : ¬ ((getRecess (fresh s) t.val c.val).openAt.isSome ∨ chState (fresh s) t.val c.val = 4 ∨
          getObj (fresh s) dev Obj.bringupPhase = 1 ∨ getObj (fresh s) dev Obj.bringupPhase = 2) := by
        rw [Option.isSome_iff_ne_none]
        simp only [not_or, not_not]
        exact hb
    · exact answers_recessWindowOpen ((hopens hb').trans (if_pos (of_decide_eq_true hfirst)))
    · exact answers_recessWindowOpen
        ((hopens hb').trans ((if_neg (of_decide_eq_false hfirst)).trans (if_pos (of_decide_eq_true hnext))))
  · refine noEffect_run (exec_calibrationStart t c s) (if_pos ?_)
    rw [Bool.not_eq_true]
    exact h
  · refine noEffect_run (exec_calibrationRunEnd t c trims edge s) (if_pos ?_)
    rw [Option.isNone_iff_eq_none, Bool.not_eq_true]
    exact h
  · intro hopen hcal hphase hstep hstate hhold htrip
    obtain ⟨x, hshown, hjudged⟩ := calRunEnd_judged (t := t.val) (c := c) (trims := trims) (edge := edge) (s := fresh s)
      hopen hcal hphase hstep hstate hhold htrip
    exact ⟨answers_runAgain hjudged hshown, answers_runFail hjudged hshown, fun v => answers_runAccept hjudged hshown⟩
  · refine noEffect_run (exec_gradualTrimStep t c s) (if_pos ?_)
    exact List.isEmpty_iff.mpr h
  · exact answers_trimsReached rfl h0 hm huse
  · exact noEffect_gradual rfl hm hne (of_decide_eq_false hdue) hwait
  · obtain ⟨s', hexec, ⟨hsent, huse, hcal⟩, honly⟩ := answers_trimsLate rfl h0 hm hne (of_decide_eq_false hdue) hlate hfree
    exact ⟨s', hexec, hsent, huse, hcal, honly⟩
  · obtain ⟨s', hexec, ⟨hlogic, htrims, hfree, hbusy, hcal⟩, honly⟩ := answers_trimsStep rfl h0 hm hne (of_decide_eq_true hdue)
    exact ⟨s', hexec, hlogic, htrims, hfree, hbusy, hcal, honly⟩

end Sys2Proof.Machine

/-! ## Proofs: mailboxes and doorbells -/

namespace Sys2Proof.Machine

open Sys2Proof

/-! ### Doorbells -/

/-- A command that has answered nothing answers OK. -/
theorem answer_stOk {x : State} (h : x.out = {}) : answer stOk x = x := by
  have hout : ({ x.out with status := stOk } : Out) = x.out := by rw [h]
  unfold answer
  rw [hout]

/-- The place of a side's doorbell registers. -/
def doorKey (t side : Nat) : Nat := doorTile t side * 4 + side

theorem bit_setBit (n b i : Nat) : bit (setBit n b) i = (bit n i || decide (i = b)) := by
  by_cases h : i = b
  · rw [h, bit_setBit_same, decide_eq_true rfl, Bool.or_true]
  · rw [bit_setBit_other h, decide_eq_false h, Bool.or_false]

theorem bit_maskOff (n m i : Nat) : bit (maskOff n m) i = (bit n i && !bit m i) := by
  rw [bit_eq_testBit, bit_eq_testBit, bit_eq_testBit, maskOff, Nat.testBit_xor, Nat.testBit_and]
  cases n.testBit i <;> cases m.testBit i <;> rfl

/-- A ring changes a doorbell and counts an event. -/
theorem ringDoor_fields (t side b : Nat) (s : State) : ringDoor t side b s = { s with
    door := (ringDoor t side b s).door
    count := { s.count with events := (ringDoor t side b s).count.events } } := by
  unfold ringDoor ringSide
  dsimp only
  split
  · unfold countEv
    split <;> rfl
  · rfl

theorem dict_ringDoor (t side b : Nat) (s : State) : (ringDoor t side b s).dict = s.dict := by rw [ringDoor_fields]

theorem door_ringDoor (t side b : Nat) (s : State) : (ringDoor t side b s).door =
    fupd {} s.door (doorKey t side) (fun d => { d with status := setBit d.status b }) := door_ringSide _ _ _ _

/-- What a doorbell bit reads after a ring. -/
theorem rung_ringDoor (t side b u r i : Nat) (s : State) : rung (ringDoor t side b s) u r i =
    (rung s u r i || (decide (i = b) && decide (doorKey u r = doorKey t side))) := by
  unfold rung getDoor
  rw [door_ringDoor]
  by_cases h : doorKey u r = doorKey t side
  · rw [decide_eq_true h, Bool.and_true, show doorTile u r * 4 + r = doorKey t side from h, fget_fupd_same, bit_setBit]
  · rw [decide_eq_false h, Bool.and_false, Bool.or_false, show doorTile u r * 4 + r = doorKey u r from rfl, fget_fupd_other _ _ _ _ h]

theorem rung_ringDoor_same (t side b : Nat) (s : State) : rung (ringDoor t side b s) t side b = true := by
  rw [rung_ringDoor, decide_eq_true rfl, decide_eq_true rfl, Bool.and_self, Bool.or_true]

theorem rung_congr {a b : State} (h : b.door = a.door) (u r i : Nat) : rung b u r i = rung a u r i := by
  unfold rung getDoor
  rw [h]

/-- A change of one direction of a pair. -/
theorem otherMail_modMail (t p d : Nat) (f : MDir → MDir) (s : State) : OtherMail s (modMail t p d f s) t p d :=
  fun _ hk => fget_fupd_other _ _ _ _ hk

theorem OtherMail.congr {s x y : State} {t p d : Nat} (h : OtherMail s x t p d) (hm : y.mail = x.mail) : OtherMail s y t p d :=
  fun k hk => by rw [hm, h k hk]

/-! ### Posting (R356, R360) -/

theorem mailWidths : ∀ p : Fin 8, objBits (Obj.mailboxPosted + p.val) = 64 ∧ objBits (Obj.mailboxWithdrawn + p.val) = 32 ∧
    objBits (Obj.staleAcks + p.val) = 32 ∧ objBits (Obj.mailboxTimeouts + p.val) = 32 := by decide +kernel

theorem mailKeys (p : Fin 8) : Obj.mailboxPosted + p.val < 2 ^ 24 ∧ Obj.mailboxWithdrawn + p.val < 2 ^ 24 ∧
    Obj.staleAcks + p.val < 2 ^ 24 ∧ Obj.mailboxTimeouts + p.val < 2 ^ 24 ∧
    Obj.mailboxPosted + p.val ≠ Obj.mailboxWithdrawn + p.val := by
  have hp := p.isLt
  simp only [Obj.mailboxPosted, Obj.mailboxWithdrawn, Obj.staleAcks, Obj.mailboxTimeouts]
  omega

/-- A direction changes and objects of `K` with it, before a doorbell rings. -/
structure Mailed (t p d : Nat) (K : List (Nat × Nat)) (m : MDir) (s x : State) : Prop where
  mine : getMail x t p d = m
  other : OtherMail s x t p d
  objs : OtherObjects s x K
  fields : x = { s with mail := x.mail, dict := x.dict }

theorem Mailed.refl (t p d : Nat) (s : State) : Mailed t p d [] (getMail s t p d) s s :=
  ⟨rfl, fun _ _ => rfl, fun _ _ _ _ => rfl, rfl⟩

theorem Mailed.modMail {t p d : Nat} {K : List (Nat × Nat)} {m : MDir} {s x : State} (h : Mailed t p d K m s x) (f : MDir → MDir) :
    Mailed t p d K (f m) s (Machine.modMail t p d f x) := by
  refine ⟨(getMail_modMail_same t p d f x).trans (congrArg f h.mine), fun k hk => ?_, h.objs, ?_⟩
  · exact (otherMail_modMail t p d f x k hk).trans (h.other k hk)
  · rw [h.fields]
    rfl

theorem Mailed.set {t p d : Nat} {K : List (Nat × Nat)} {m : MDir} {s x : State} (h : Mailed t p d K m s x) {k : Nat} (v : Nat)
    (hk : k < 2 ^ 24) : Mailed t p d ((t, k) :: K) m s (setObj t k v x) := by
  refine ⟨h.mine, h.other, fun u j hj hn => ?_, ?_⟩
  · refine (getObj_setObj_other x fun e => hn ?_).trans (h.objs u j hj fun hm => hn (List.mem_cons_of_mem _ hm))
    obtain ⟨rfl, rfl⟩ := okey_inj hj hk e
    exact List.mem_cons_self
  · rw [h.fields]
    rfl

section
variable {t : TileN} {p : PairN} {host : Bool} {s : State}

/-- A command that changes a direction and rings a doorbell. -/
theorem answers_mailed {cmd : Instr} {f : State → State} {d side b st : Nat} {K : List (Nat × Nat)} {m : MDir} {x : State}
    {P : State → Prop} (hcmd : exec cmd s = run f s) (hx : Mailed t.val p.val d K m (fresh s) x)
    (hrun : f (fresh s) = answer st (ringDoor t.val side b x))
    (hP : ∀ y, getMail y t.val p.val d = m → OtherMail s y t.val p.val d → OtherObjects s y K → rung y t.val side b = true →
      y.dict = x.dict → y = { s with
        mail := y.mail, door := y.door, dict := y.dict, count := { s.count with events := y.count.events }, out := { status := st } } →
      P y) : Answers cmd s P := by
  obtain ⟨y, hy⟩ : ∃ y, y = ringDoor t.val side b x := ⟨_, rfl⟩
  have hfields : y = { x with door := y.door, count := { x.count with events := y.count.events } } := by
    rw [hy]; exact ringDoor_fields _ _ _ _
  have hrung : rung y t.val side b = true := by rw [hy]; exact rung_ringDoor_same _ _ _ _
  have hmail : y.mail = x.mail := by rw [hfields]
  have hdict : y.dict = x.dict := by rw [hfields]
  rw [← hy] at hrun
  clear hy
  have hall : answer st y = { s with
      mail := y.mail, door := y.door, dict := y.dict, count := { s.count with events := y.count.events }, out := { status := st } } := by
    rw [hfields, hx.fields]
    rfl
  refine answers_of_kept hcmd hrun (by rw [hall]) (by rw [hall]) (hP _ ?_ ?_ ?_ hrung hdict hall)
  · exact (getMail_congr hmail _ _ _).trans hx.mine
  · exact hx.other.congr hmail
  · exact fun u k hk hn => (getObj_congr hdict u k).trans (hx.objs u k hk hn)

theorem answers_post {msg : BitVec 512} (d : Nat) (hd : d = if host then 0 else 1) (m : MDir) (hm : m = getMail s t.val p.val d) :
     (4 ≤ outstandingOf m → Answers (.sendPost t p host msg) s (fun s' =>
       getMail s' t.val p.val d = { m with staging := msg.toNat, lastStatus := stRetry } ∧ OtherMail s s' t.val p.val d ∧
       s' = { s with mail := s'.mail, out := { status := stRetry } })) ∧
     (outstandingOf m < 4 → receiverInReset s t.val (receiverSide p.val d) = false → Answers (.sendPost t p host msg) s (fun s' =>
       getMail s' t.val p.val d = { m with
         staging := msg.toNat, lastStatus := stOk, nextSeq := (m.nextSeq + 1) % 65536
         slots := m.slots ++ [⟨m.nextSeq, senderId s t.val (senderSide p.val d), msg.toNat, s.time.elapsed⟩] } ∧
       rung s' t.val (receiverSide p.val d) 0 = true ∧
       getObj s' t.val (Obj.mailboxPosted + p.val) = (getObj s t.val (Obj.mailboxPosted + p.val) + 1) % 2 ^ 64 ∧
       OtherObjects s s' [(t.val, Obj.mailboxPosted + p.val)] ∧ OtherMail s s' t.val p.val d ∧ s' = { s with
       mail := s'.mail, door := s'.door, dict := s'.dict, count := { s.count with events := s'.count.events }, out := { status := stOk } })) ∧
     (outstandingOf m < 4 → receiverInReset s t.val (receiverSide p.val d) = true → Answers (.sendPost t p host msg) s (fun s' =>
       getMail s' t.val p.val d = { m with
         staging := msg.toNat, lastStatus := stOk, nextSeq := (m.nextSeq + 1) % 65536
         acks := m.acks ++ [⟨m.nextSeq, 0, stReceiverReset⟩] } ∧
       rung s' t.val (senderSide p.val d) 1 = true ∧
       getObj s' t.val (Obj.mailboxPosted + p.val) = (getObj s t.val (Obj.mailboxPosted + p.val) + 1) % 2 ^ 64 ∧
       getObj s' t.val (Obj.mailboxWithdrawn + p.val) = (getObj s t.val (Obj.mailboxWithdrawn + p.val) + 1) % 2 ^ 32 ∧
       OtherObjects s s' [(t.val, Obj.mailboxPosted + p.val), (t.val, Obj.mailboxWithdrawn + p.val)] ∧
       OtherMail s s' t.val p.val d ∧ s' = { s with
       mail := s'.mail, door := s'.door, dict := s'.dict, count := { s.count with events := s'.count.events }, out := { status := stOk } })) := by
  subst hd hm
  obtain ⟨hwPosted, hwWithdrawn, -⟩ := mailWidths p
  obtain ⟨hkPosted, hkWithdrawn, -, -, hne⟩ := mailKeys p
  have hcmd := exec_sendPost t p host msg s
  generalize (if host then 0 else 1 : Nat) = d at hcmd ⊢
  refine ⟨fun h => ?_, fun h hup => ?_, fun h hreset => ?_⟩
  · have hm := (Mailed.refl t.val p.val d (fresh s)).modMail (fun m => { m with staging := msg.toNat, lastStatus := stRetry })
    exact answers_of_kept hcmd (if_pos h) rfl rfl ⟨hm.mine, hm.other, rfl⟩
  · have hx := ((Mailed.refl t.val p.val d (fresh s)).set (getObj s t.val (Obj.mailboxPosted + p.val) + 1) hkPosted).modMail (fun m => { m with
        staging := msg.toNat, lastStatus := stOk, nextSeq := (m.nextSeq + 1) % 65536
        slots := m.slots ++ [⟨(getMail s t.val p.val d).nextSeq, senderId s t.val (senderSide p.val d), msg.toNat, s.time.elapsed⟩] })
    refine answers_mailed (side := receiverSide p.val d) (b := 0) (st := stOk) hcmd hx ?_
      fun y hmine hother hobjs hrung hdict hfields => ⟨hmine, hrung, ?_, hobjs, hother, hfields⟩
    · unfold post
      refine (if_neg (show ¬ outstandingOf (getMail s t.val p.val d) ≥ 4 by omega)).trans (if_neg ?_)
      rw [show receiverInReset (fresh s) t.val (receiverSide p.val d) = false from hup]
      exact Bool.false_ne_true
    · refine (getObj_congr hdict _ _).trans ((getObj_setObj_same _ _ _ _).trans ?_)
      rw [hwPosted]
  · have hx := (((Mailed.refl t.val p.val d (fresh s)).set (getObj s t.val (Obj.mailboxPosted + p.val) + 1) hkPosted).modMail (fun m => { m with
        staging := msg.toNat, lastStatus := stOk, nextSeq := (m.nextSeq + 1) % 65536
        acks := m.acks ++ [⟨(getMail s t.val p.val d).nextSeq, 0, stReceiverReset⟩] })).set
      (getObj (setObj t.val (Obj.mailboxPosted + p.val) (getObj s t.val (Obj.mailboxPosted + p.val) + 1) (fresh s)) t.val
        (Obj.mailboxWithdrawn + p.val) + 1) hkWithdrawn
    refine answers_mailed (side := senderSide p.val d) (b := 1) (st := stOk) hcmd hx ?_
      fun y hmine hother hobjs hrung hdict hfields => ⟨hmine, hrung, ?_, ?_, fun u k hk hn => hobjs u k hk fun hm => hn ?_, hother, hfields⟩
    · unfold post
      exact (if_neg (show ¬ outstandingOf (getMail s t.val p.val d) ≥ 4 by omega)).trans (if_pos hreset)
    · refine (getObj_congr hdict _ _).trans ((getObj_setObj_obj _ hne hkPosted hkWithdrawn).trans ((getObj_setObj_same _ _ _ _).trans ?_))
      rw [hwPosted]
    · refine (getObj_congr hdict _ _).trans ((getObj_setObj_same _ _ _ _).trans ?_)
      rw [hwWithdrawn, getObj_setObj_obj _ hne.symm hkWithdrawn hkPosted]
      rfl
    · exact List.Perm.mem_iff (List.Perm.swap _ _ _) |>.mp hm

/-! ### Latching, taking and reading acknowledges (R354, R356, R361) -/

/-- A read of a mailbox register that changes its direction at most. -/
theorem answers_mailRead {cmd : Instr} {f : State → State} {d n : Nat} {m : MDir} {x : State} (hcmd : exec cmd s = run f s)
    (hx : Mailed t.val p.val d [] m (fresh s) x) (hd : x.dict = s.dict) (hrun : f (fresh s) = answerData (leBytes 8 n) x) :
    Answers cmd s (fun s' => s'.out.status = stOk ∧ s'.out.data = leBytes 8 n ∧ getMail s' t.val p.val d = m ∧
      OtherMail s s' t.val p.val d ∧ s' = { s with mail := s'.mail, out := s'.out }) := by
  have hall : answerData (leBytes 8 n) x = { s with mail := x.mail, out := { x.out with status := stOk, data := leBytes 8 n } } := by
    rw [hx.fields, ← hd]
    rfl
  exact answers_of_kept hcmd hrun (by rw [hall]) (by rw [hall]) ⟨rfl, rfl, hx.mine, hx.other, hall⟩

theorem answers_latch (d : Nat) (hd : d = if host then 1 else 0) (m : MDir) (hm : m = getMail s t.val p.val d) :
    (∀ x, m.latched = some x → Answers (.recvLatch t p host) s (fun s' => s'.out.status = stOk ∧ s'.out.data = leBytes 8 (latchValue x) ∧
      getMail s' t.val p.val d = m ∧ OtherMail s s' t.val p.val d ∧ s' = { s with mail := s'.mail, out := s'.out })) ∧
    (m.latched = none → m.slots = [] → Answers (.recvLatch t p host) s (fun s' => s'.out.status = stOk ∧ s'.out.data = leBytes 8 0 ∧
      getMail s' t.val p.val d = { m with recvLatch := 0 } ∧ OtherMail s s' t.val p.val d ∧ s' = { s with mail := s'.mail, out := s'.out })) ∧
    (∀ x r, m.latched = none → m.slots = x :: r → Answers (.recvLatch t p host) s (fun s' =>
      s'.out.status = stOk ∧ s'.out.data = leBytes 8 (latchValue x) ∧
      getMail s' t.val p.val d = { m with slots := r, latched := some x, recvSlot := x.data, recvLatch := latchValue x } ∧
      OtherMail s s' t.val p.val d ∧ s' = { s with mail := s'.mail, out := s'.out })) := by
  subst hd hm
  have hcmd := exec_recvLatch t p host s
  generalize (if host then 1 else 0 : Nat) = d at hcmd ⊢
  have hsame := Mailed.refl t.val p.val d (fresh s)
  refine ⟨fun x hx => answers_mailRead hcmd hsame rfl ?_, fun hnone hempty => answers_mailRead hcmd
    (hsame.modMail (fun m => { m with recvLatch := 0 })) rfl ?_, fun x r hnone hslots => answers_mailRead hcmd
    (hsame.modMail (fun m => { m with slots := r, latched := some x, recvSlot := x.data, recvLatch := latchValue x })) rfl ?_⟩
  · unfold latchMsg
    dsimp only
    rw [show (getMail (fresh s) t.val p.val d).latched = some x from hx]
  · unfold latchMsg
    dsimp only
    rw [show (getMail (fresh s) t.val p.val d).latched = none from hnone, show (getMail (fresh s) t.val p.val d).slots = [] from hempty]
  · unfold latchMsg
    dsimp only
    rw [show (getMail (fresh s) t.val p.val d).latched = none from hnone, show (getMail (fresh s) t.val p.val d).slots = x :: r from hslots]

theorem answers_ackRead (d : Nat) (hd : d = if host then 0 else 1) (m : MDir) (hm : m = getMail s t.val p.val d) :
    (m.acks = [] → Answers (.ackRead t p host) s (fun s' => s'.out.status = stOk ∧ s'.out.data = leBytes 8 0 ∧
      getMail s' t.val p.val d = { m with ackRead := 0 } ∧ OtherMail s s' t.val p.val d ∧ s' = { s with mail := s'.mail, out := s'.out })) ∧
    (∀ a r, m.acks = a :: r → Answers (.ackRead t p host) s (fun s' => s'.out.status = stOk ∧ s'.out.data = leBytes 8 (ackValue a) ∧
      getMail s' t.val p.val d = { m with acks := r, ackRead := ackValue a } ∧ OtherMail s s' t.val p.val d ∧
      s' = { s with mail := s'.mail, out := s'.out })) := by
  subst hd hm
  have hcmd := exec_ackRead t p host s
  generalize (if host then 0 else 1 : Nat) = d at hcmd ⊢
  have hsame := Mailed.refl t.val p.val d (fresh s)
  refine ⟨fun hempty => answers_mailRead hcmd (hsame.modMail (fun m => { m with ackRead := 0 })) rfl ?_,
    fun a r hacks => answers_mailRead hcmd (hsame.modMail (fun m => { m with acks := r, ackRead := ackValue a })) rfl ?_⟩
  · unfold popAck
    rw [show (getMail (fresh s) t.val p.val d).acks = [] from hempty]
  · unfold popAck
    rw [show (getMail (fresh s) t.val p.val d).acks = a :: r from hacks]

/-- The receiver's registers after a take; RecvSlot takes a free value. -/
def takenDir (s : State) (m : MDir) : MDir := { m with latched := none, recvLatch := 0, recvSlot := (draw s).1 % 2 ^ 512 }

theorem answers_take {v : BitVec 64} {x : Msg} (d : Nat) (hd : d = if host then 1 else 0) (m : MDir) (hm : m = getMail s t.val p.val d)
    (hx : m.latched = some x) : Answers (.recvTake t p host v) s (fun s' =>
      let m' := getMail s' t.val p.val d
      let stale := decide (x.sender % 64 ≠ epochOf s t.val (senderSide p.val d))
      m'.latched = none ∧ m'.recvLatch = 0 ∧ m'.slots = m.slots ∧ m'.nextSeq = m.nextSeq ∧ OtherMail s s' t.val p.val d ∧
      m'.acks = m.acks ++ (if stale then [] else [⟨x.seq, bits v.toNat 8 24, bits v.toNat 0 8⟩]) ∧
      (stale = false → rung s' t.val (senderSide p.val d) 1 = true ∧ s'.dict = s.dict) ∧
      (stale = true → getObj s' t.val (Obj.staleAcks + p.val) = (getObj s t.val (Obj.staleAcks + p.val) + 1) % 2 ^ 32 ∧
        OtherObjects s s' [(t.val, Obj.staleAcks + p.val)] ∧ s'.door = s.door) ∧ SameMemory s s') := by
  subst hd hm
  obtain ⟨-, -, hwidth, -⟩ := mailWidths p
  obtain ⟨-, -, hkey, -⟩ := mailKeys p
  have hcmd := exec_recvTake t p host v s
  generalize (if host then 1 else 0 : Nat) = d at hcmd hx ⊢
  obtain ⟨a, ha⟩ : ∃ a, a = (draw (fresh s)).2 := ⟨_, rfl⟩
  have hfree : a = { fresh s with free := a.free } := by rw [ha]; rfl
  have hmine : getMail a t.val p.val d = getMail s t.val p.val d := by rw [hfree]; rfl
  obtain ⟨y, hy⟩ : ∃ y, y = modMail t.val p.val d (takenDir (fresh s)) a := ⟨_, rfl⟩
  have htaken : Mailed t.val p.val d [] (takenDir (fresh s) (getMail s t.val p.val d)) a y := by
    rw [hy, ← hmine]
    exact (Mailed.refl t.val p.val d a).modMail _
  have hrun : takeMsg t.val p.val d v.toNat (fresh s) =
      if x.sender % 64 ≠ epochOf s t.val (senderSide p.val d) then answer stOk (bump t.val (Obj.staleAcks + p.val) 1 y)
      else answer stOk (ringDoor t.val (senderSide p.val d) 1
        (modMail t.val p.val d (fun m => { m with acks := m.acks ++ [⟨x.seq, bits v.toNat 8 24, bits v.toNat 0 8⟩] }) y)) := by
    unfold takeMsg
    rw [show (getMail (fresh s) t.val p.val d).latched = some x from hx, hy, ha]
    rfl
  have hother : OtherMail s y t.val p.val d := fun k hk => (htaken.other k hk).trans (by rw [hfree]; rfl)
  have hya : y = { fresh s with free := a.free, mail := y.mail, dict := y.dict } := by rw [htaken.fields, hfree]
  have hdict : y.dict = s.dict := by rw [hy, hfree]; rfl
  clear ha hy
  by_cases hstale : x.sender % 64 ≠ epochOf s t.val (senderSide p.val d)
  · rw [if_pos hstale] at hrun
    have hz := htaken.set (getObj y t.val (Obj.staleAcks + p.val) + 1) hkey
    refine answers_of_kept hcmd hrun (by rw [hya]; rfl) (by rw [hya]; rfl) ?_
    have hmail : getMail (answer stOk (bump t.val (Obj.staleAcks + p.val) 1 y)) t.val p.val d = takenDir (fresh s) (getMail s t.val p.val d) :=
      hz.mine
    refine ⟨by rw [hmail]; rfl, by rw [hmail]; rfl, by rw [hmail]; rfl, by rw [hmail]; rfl, hother, ?_, fun e => ?_,
      fun _ => ⟨?_, fun u k hk hn => ?_, by rw [hya]; rfl⟩, ?_⟩
    · rw [hmail, if_pos (decide_eq_true hstale)]
      exact (List.append_nil _).symm
    · exact absurd (decide_eq_true hstale) (by rw [e]; decide)
    · refine (getObj_setObj_same _ _ _ _).trans ?_
      rw [hwidth, getObj_congr hdict]
    · exact (hz.objs u k hk hn).trans (by rw [hfree]; rfl)
    · refine sameMemory_of ?_ ?_ ?_ ?_ <;> rw [hya] <;> rfl
  · rw [if_neg hstale] at hrun
    have hz := htaken.modMail (fun m => { m with acks := m.acks ++ [⟨x.seq, bits v.toNat 8 24, bits v.toNat 0 8⟩] })
    obtain ⟨w, hw⟩ : ∃ w, w = modMail t.val p.val d (fun m => { m with acks := m.acks ++ [⟨x.seq, bits v.toNat 8 24, bits v.toNat 0 8⟩] }) y :=
      ⟨_, rfl⟩
    rw [← hw] at hrun hz
    have hwf : w = { y with mail := w.mail } := by rw [hw]; rfl
    have hring := ringDoor_fields t.val (senderSide p.val d) 1 w
    have hrung := rung_ringDoor_same t.val (senderSide p.val d) 1 w
    generalize ringDoor t.val (senderSide p.val d) 1 w = q at hrun hring hrung
    have hq : q = { fresh s with free := a.free, mail := w.mail, dict := y.dict, door := q.door, count := q.count } := by
      rw [hring, hwf, hya]
    have hmail : getMail (answer stOk q) t.val p.val d = { takenDir (fresh s) (getMail s t.val p.val d) with
        acks := (getMail s t.val p.val d).acks ++ [⟨x.seq, bits v.toNat 8 24, bits v.toNat 0 8⟩] } :=
      (getMail_congr (show q.mail = w.mail by rw [hring]) _ _ _).trans hz.mine
    refine answers_of_kept hcmd hrun (by rw [hq]; rfl) (by rw [hq]; rfl) ⟨by rw [hmail]; rfl, by rw [hmail]; rfl, by rw [hmail]; rfl,
      by rw [hmail]; rfl, fun k hk => ?_, ?_, fun _ => ⟨hrung, ?_⟩, fun e => absurd (of_decide_eq_true e) hstale, ?_⟩
    · show fget ({} : MDir) q.mail k = _
      rw [hring]
      exact (hz.other k hk).trans (by rw [hfree]; rfl)
    · rw [hmail, decide_eq_false hstale]
      rfl
    · rw [hq]
      exact hdict
    · refine sameMemory_of ?_ ?_ ?_ ?_ <;> rw [hq] <;> rfl

/-! ### Time limits, clearing and the host's reset (R358, R360 to R362) -/

theorem answers_ackTimeout {x : Msg} {r : List Msg} (d : Nat) (hd : d = if host then 0 else 1) (m : MDir)
    (hm : m = getMail s t.val p.val d) (hslots : m.slots = x :: r) :
    (s.time.elapsed < x.post + getObj s t.val Obj.mailboxAckTimeout * 1000000 → NoEffect (.mailboxAckTimeout t p host) s) ∧
    (x.post + getObj s t.val Obj.mailboxAckTimeout * 1000000 ≤ s.time.elapsed → Answers (.mailboxAckTimeout t p host) s (fun s' =>
      getMail s' t.val p.val d = { m with slots := r, acks := m.acks ++ [⟨x.seq, 0, stTimeout⟩] } ∧
      rung s' t.val (senderSide p.val d) 1 = true ∧ OtherMail s s' t.val p.val d ∧
      getObj s' t.val (Obj.mailboxTimeouts + p.val) = (getObj s t.val (Obj.mailboxTimeouts + p.val) + 1) % 2 ^ 32 ∧
      OtherObjects s s' [(t.val, Obj.mailboxTimeouts + p.val)] ∧ SameMemory s s')) := by
  subst hd hm
  obtain ⟨-, -, -, hwidth⟩ := mailWidths p
  obtain ⟨-, -, -, hkey, -⟩ := mailKeys p
  have hcmd := exec_mailboxAckTimeout t p host s
  generalize (if host then 0 else 1 : Nat) = d at hcmd hslots ⊢
  have hfirst : (getMail (fresh s) t.val p.val d).slots = x :: r := hslots
  refine ⟨fun h => noEffect_run hcmd ?_, fun h => ?_⟩
  · unfold ackTimeout
    rw [hfirst]
    exact if_pos h
  · have hx := ((Mailed.refl t.val p.val d (fresh s)).modMail
      (fun m => { m with slots := r, acks := m.acks ++ [⟨x.seq, 0, stTimeout⟩] })).set
      (getObj s t.val (Obj.mailboxTimeouts + p.val) + 1) hkey
    refine answers_mailed (side := senderSide p.val d) (b := 1) (st := stOk) hcmd hx ?_
      fun y hmine hother hobjs hrung hdict hfields => ⟨hmine, hrung, hother, ?_, hobjs, ?_⟩
    · unfold ackTimeout
      rw [hfirst]
      refine (if_neg (Nat.not_lt.mpr h)).trans ?_
      obtain ⟨z, hz⟩ : ∃ z, z = setObj t.val (Obj.mailboxTimeouts + p.val) (getObj s t.val (Obj.mailboxTimeouts + p.val) + 1)
        (modMail t.val p.val d (fun m => { m with slots := r, acks := m.acks ++ [⟨x.seq, 0, stTimeout⟩] }) (fresh s)) := ⟨_, rfl⟩
      have hout : (ringDoor t.val (senderSide p.val d) 1 z).out = {} := by
        rw [ringDoor_fields, hz]
        rfl
      refine Eq.trans (b := ringDoor t.val (senderSide p.val d) 1 z) (by rw [hz]; rfl) ?_
      rw [← hz, answer_stOk hout]
    · refine (getObj_congr hdict _ _).trans ((getObj_setObj_same _ _ _ _).trans ?_)
      rw [hwidth]
    · refine sameMemory_of ?_ ?_ ?_ ?_ <;> rw [hfields]

/-- The messages of one direction withdrawn at its sender's reset: what it leaves, what it counts and what it rings. -/
theorem mailed_senderReset (d : Nat) (s : State) : ∃ x, senderReset t.val p.val d s = ringDoor t.val (senderSide p.val d) 1 x ∧
    Mailed t.val p.val d [(t.val, Obj.mailboxWithdrawn + p.val)]
      { getMail s t.val p.val d with slots := [], acks := handedBack (getMail s t.val p.val d) stResetWithdrawn } s x ∧
    getObj x t.val (Obj.mailboxWithdrawn + p.val) =
      (getObj s t.val (Obj.mailboxWithdrawn + p.val) + (getMail s t.val p.val d).slots.length) % 2 ^ 32 := by
  obtain ⟨-, hwidth, -⟩ := mailWidths p
  obtain ⟨-, hkey, -⟩ := mailKeys p
  refine ⟨_, rfl, ((Mailed.refl t.val p.val d s).modMail
    (fun m => { m with slots := [], acks := handedBack m stResetWithdrawn })).set _ hkey, ?_⟩
  refine (getObj_setObj_same _ _ _ _).trans ?_
  rw [hwidth]
  rfl

/-- The frame of a direction's change and a ring. -/
theorem Mailed.rings {d side b : Nat} {K : List (Nat × Nat)} {m : MDir} {a x : State} (h : Mailed t.val p.val d K m a x) :
    Relays (K.map (fun e => e.2 / 256)) a (ringDoor t.val side b x) := by
  refine ⟨?_, fun u k hk hn => ?_⟩
  · rw [ringDoor_fields, h.fields]
  · have hdict : (ringDoor t.val side b x).dict = x.dict := by rw [ringDoor_fields]
    exact (getObj_congr hdict u k).trans (h.objs u k hk fun hm => hn (List.mem_map.mpr ⟨_, hm, rfl⟩))

theorem answers_mailboxClear {v : BitVec 8} (h : v.toNat = 1) : Answers (.mailboxClear t p v) s (fun s' => s'.out.status = stOk ∧
    (∀ d < 2, getMail s' t.val p.val d = { getMail s t.val p.val d with
        slots := [], acks := handedBack (getMail s t.val p.val d) stResetWithdrawn } ∧ rung s' t.val (senderSide p.val d) 1 = true) ∧
    getObj s' t.val (Obj.mailboxWithdrawn + p.val) = (getObj s t.val (Obj.mailboxWithdrawn + p.val) +
      (getMail s t.val p.val 0).slots.length + (getMail s t.val p.val 1).slots.length) % 2 ^ 32 ∧
    OtherObjects s s' [(t.val, Obj.mailboxWithdrawn + p.val)] ∧ SameMemory s s') := by
  obtain ⟨x, hx, hdown, hcount⟩ := mailed_senderReset (t := t) (p := p) 0 (fresh s)
  obtain ⟨a, ha⟩ : ∃ a, a = ringDoor t.val (senderSide p.val 0) 1 x := ⟨_, rfl⟩
  obtain ⟨y, hy, hup, hcount'⟩ := mailed_senderReset (t := t) (p := p) 1 a
  obtain ⟨b, hb⟩ : ∃ b, b = ringDoor t.val (senderSide p.val 1) 1 y := ⟨_, rfl⟩
  have hrun : writeMailboxClear t.val p.val v.toNat (fresh s) = answer stOk b := by
    unfold writeMailboxClear
    rw [if_neg (by omega), if_neg (by omega), hx, ← ha, hy, ← hb]
  have hmail : a.mail = x.mail ∧ b.mail = y.mail := by
    rw [ha, hb]
    exact ⟨mail_ringDoor _ _ _ _, mail_ringDoor _ _ _ _⟩
  have hdict : a.dict = x.dict ∧ b.dict = y.dict := by
    rw [ha, hb]
    exact ⟨dict_ringDoor _ _ _ _, dict_ringDoor _ _ _ _⟩
  have hrung : rung a t.val (senderSide p.val 0) 1 = true ∧ rung b t.val (senderSide p.val 1) 1 = true := by
    rw [ha, hb]
    exact ⟨rung_ringDoor_same _ _ _ _, rung_ringDoor_same _ _ _ _⟩
  have hkept : rung b t.val (senderSide p.val 0) 1 = true := by
    rw [hb, rung_ringDoor, rung_congr (a := a) (by rw [hup.fields]), hrung.1]
    rfl
  have hframe : Relays [(Obj.mailboxWithdrawn + p.val) / 256] (fresh s) b := by
    rw [hb]
    exact (ha ▸ hdown.rings).trans hup.rings
  have hother : getMail a t.val p.val 1 = getMail s t.val p.val 1 :=
    (getMail_congr hmail.1 _ _ _).trans (hdown.other _ (by omega))
  have hfirst : getMail b t.val p.val 0 = { getMail s t.val p.val 0 with
      slots := [], acks := handedBack (getMail s t.val p.val 0) stResetWithdrawn } :=
    (getMail_congr hmail.2 _ _ _).trans ((hup.other _ (by omega)).trans ((getMail_congr hmail.1 _ _ _).trans hdown.mine))
  have hsecond : getMail b t.val p.val 1 = { getMail s t.val p.val 1 with
      slots := [], acks := handedBack (getMail s t.val p.val 1) stResetWithdrawn } := by
    rw [getMail_congr hmail.2, hup.mine, hother]
  refine answers_of_kept (exec_mailboxClear t p v s) hrun (by rw [hframe.fields]; rfl) (by rw [hframe.fields]; rfl)
    ⟨rfl, fun d hd => ?_, ?_, fun u k hk hn => ?_, (sameMemory_of rfl rfl rfl rfl).trans hframe.sameMemory⟩
  · obtain rfl | rfl : d = 0 ∨ d = 1 := by omega
    · exact ⟨hfirst, hkept⟩
    · exact ⟨hsecond, hrung.2⟩
  · refine (getObj_congr hdict.2 _ _).trans (hcount'.trans ?_)
    rw [getObj_congr hdict.1, hcount, hother, Nat.mod_add_mod]
    rfl
  · exact (getObj_congr hdict.2 _ _).trans ((hup.objs u k hk hn).trans ((getObj_congr hdict.1 _ _).trans (hdown.objs u k hk hn)))

end

theorem rung_mask_ringDoor (t side b u : Nat) (s : State) :
    (getDoor (ringDoor t side b s) u 0).mask = (getDoor s u 0).mask := by
  unfold getDoor
  rw [door_ringDoor]
  by_cases h : u * 4 + 0 = doorKey t side
  · rw [h, fget_fupd_same]
  · rw [fget_fupd_other _ _ _ _ h]

theorem mask_dirReset (gone : Nat → Bool) (t p d u : Nat) (s : State) :
    (getDoor (dirReset gone t p d s) u 0).mask = (getDoor s u 0).mask := by
  unfold dirReset
  split
  · exact rung_mask_ringDoor _ _ _ _ _
  · split
    · unfold receiverReset
      split
      · rfl
      · exact rung_mask_ringDoor _ _ _ _ _
    · rfl

theorem hostEpoch_bits : objBits Obj.hostEpoch = 8 := by decide +kernel

theorem answers_configPortReset (t : TileN) (s : State) : Answers (.configPortReset t) s (fun s' =>
    (∀ q < 8, SideWasReset s s' t.val q 0) ∧ getObj s' t.val Obj.hostEpoch = (getObj s t.val Obj.hostEpoch + 1) % 64 ∧
    (getDoor s' t.val 0).mask = 0xFFF ∧ SameMemory s s' ∧ s'.sched = s.sched ∧ s'.engine = s.engine) := by
  obtain ⟨x, hx⟩ : ∃ x, x = clearDoor t.val 0 (setObj t.val Obj.hostEpoch ((getObj s t.val Obj.hostEpoch + 1) % 64) (fresh s)) :=
    ⟨_, rfl⟩
  have hrun : hostSideReset t.val (fresh s) = pairsReset (fun x => x = 0) t.val x := by rw [hx]; rfl
  have hframe := relays_pairsReset (gone := fun x => x = 0) (t := t.val) x
  have hmail : ∀ q < 8, ∀ d < 2, getMail (pairsReset (fun x => x = 0) t.val x) t.val q d =
      dirAfter (fun x => x = 0) q d (getMail s t.val q d) := fun q hq d hd => by
    rw [getMail_pairsReset_same hq hd, hx]
    rfl
  have hmask : (getDoor (pairsReset (fun x => x = 0) t.val x) t.val 0).mask = (getDoor x t.val 0).mask :=
    foldl_range_keeps (part := fun y => (getDoor y t.val 0).mask)
      (fun y q _ => (mask_dirReset _ _ _ _ _ _).trans (mask_dirReset _ _ _ _ _ _)) x
  have hepoch : getObj x t.val Obj.hostEpoch = (getObj s t.val Obj.hostEpoch + 1) % 64 := by
    rw [hx]
    refine (getObj_setObj_same _ _ _ _).trans ?_
    rw [hostEpoch_bits]
    exact Nat.mod_eq_of_lt (by omega)
  have hfields : x = { fresh s with dict := x.dict, door := x.door } := by rw [hx]; rfl
  have hclear : (getDoor x t.val 0).mask = 0xFFF := by
    have hkey : doorTile t.val 0 * 4 + 0 = t.val * 4 + 0 := rfl
    rw [hx]
    unfold clearDoor getDoor modDoor
    rw [hkey, fget_fupd_same]
  obtain ⟨y, hy⟩ : ∃ y, y = pairsReset (fun x => x = 0) t.val x := ⟨_, rfl⟩
  rw [← hy] at hrun hframe hmail hmask
  clear hx hy
  refine answers_of_kept (exec_configPortReset t s) hrun (by rw [hframe.fields, hfields]; rfl) (by rw [hframe.fields, hfields]; rfl)
    ⟨fun q hq => ⟨?_, ?_⟩, ?_, hmask.trans hclear, ?_, by rw [hframe.fields, hfields]; rfl, by rw [hframe.fields, hfields]; rfl⟩
  · exact (hmail q hq 0 (by decide)).trans rfl
  · refine (hmail q hq 1 (by decide)).trans ?_
    have hfw : fwSide q ≠ 0 := by
      unfold fwSide
      split <;> decide
    exact (if_neg (by rw [decide_eq_true_eq]; exact hfw)).trans (if_pos rfl)
  · exact (hframe.objs _ _ (by decide) (by decide)).trans hepoch
  · exact SameMemory.trans (sameMemory_of (by rw [hfields]; rfl) (by rw [hfields]; rfl) (by rw [hfields]; rfl) (by rw [hfields]; rfl)) hframe.sameMemory

/-! ### Doorbells that are cleared and set (R357) -/

theorem rung_ite_ring (c : Bool) (t side b : Nat) (s : State) (u r i : Nat) :
    rung (if c = true then ringDoor t side b s else s) u r i =
      (rung s u r i || (c && decide (i = b) && decide (doorKey u r = doorKey t side))) := by
  cases c with
  | false => exact (Bool.or_false _).symm
  | true => exact (rung_ringDoor t side b u r i s).trans (by rw [Bool.true_and])

/-- Rings of one doorbell change that one and count events. -/
structure Rings (t side : Nat) (s y : State) : Prop where
  fields : y = { s with door := y.door, count := { s.count with events := y.count.events } }
  other : ∀ k, k ≠ doorKey t side → fget ({} : Door) y.door k = fget {} s.door k

theorem Rings.refl (t side : Nat) (s : State) : Rings t side s s := ⟨rfl, fun _ _ => rfl⟩

theorem Rings.trans {t side : Nat} {a b c : State} (h : Rings t side a b) (h' : Rings t side b c) : Rings t side a c :=
  ⟨by rw [h'.fields, h.fields], fun k hk => (h'.other k hk).trans (h.other k hk)⟩

theorem rings_ringDoor (t side b : Nat) (s : State) : Rings t side s (ringDoor t side b s) :=
  ⟨ringDoor_fields t side b s, fun k hk => by rw [door_ringDoor, fget_fupd_other _ _ _ _ hk]⟩

theorem rings_ite (c : Prop) [Decidable c] (t side b : Nat) (s : State) : Rings t side s (if c then ringDoor t side b s else s) := by
  split
  · exact rings_ringDoor t side b s
  · exact Rings.refl t side s

/-- Two sides share their doorbell registers only where side and tile agree, but for the management unit's one set. -/
theorem doorKey_eq {t u side r : Nat} (hs : side < 3) (hr : r < 3) :
    doorKey u r = doorKey t side ↔ r = side ∧ (side = 2 ∨ u = t) := by
  unfold doorKey doorTile
  split_ifs <;> omega

section
variable {t : TileN} {side : Fin 3}

theorem answers_doorbellClear (v : BitVec 32) (i : Nat) (s : State) : Answers (.doorbellClear t side v) s (fun s' =>
    rung s' t.val side.val i = ((rung s t.val side.val i && !bit v.toNat i) || (decide (i = 0) && unreadFor s t.val side.val)
      || (decide (i = 1) && unackedFor s t.val side.val)) ∧
    (∀ k, k ≠ doorTile t.val side.val * 4 + side.val → fget ({} : Door) s'.door k = fget {} s.door k) ∧
    s' = { s with door := s'.door, count := { s.count with events := s'.count.events }, out := {} }) := by
  obtain ⟨x, hx⟩ : ∃ x, x = modDoor (doorTile t.val side.val) side.val (fun d => { d with status := maskOff d.status v.toNat }) (fresh s) :=
    ⟨_, rfl⟩
  have hfields : x = { fresh s with door := x.door } := by rw [hx]; rfl
  have hcleared : rung x t.val side.val i = (rung s t.val side.val i && !bit v.toNat i) := by
    rw [hx]
    unfold rung getDoor modDoor
    rw [fget_fupd_same]
    exact bit_maskOff _ _ _
  have hothers : ∀ k, k ≠ doorKey t.val side.val → fget ({} : Door) x.door k = fget {} s.door k := fun k hk => by
    rw [hx, modDoor, fget_fupd_other _ _ _ _ (show k ≠ doorTile t.val side.val * 4 + side.val from hk)]
    rfl
  have hunread : unreadFor x t.val side.val = unreadFor s t.val side.val := by rw [hfields]; rfl
  have hunacked : unackedFor x t.val side.val = unackedFor s t.val side.val := by rw [hfields]; rfl
  obtain ⟨y, hy⟩ : ∃ y, y = if unreadFor x t.val side.val then ringDoor t.val side.val 0 x else x := ⟨_, rfl⟩
  have hxy : Rings t.val side.val x y := by rw [hy]; exact rings_ite _ _ _ _ _
  have hyacked : unackedFor y t.val side.val = unackedFor s t.val side.val := by rw [← hunacked, hxy.fields]; rfl
  have hyrung : rung y t.val side.val i = (rung x t.val side.val i || (unreadFor s t.val side.val && decide (i = 0))) := by
    rw [hy, rung_ite_ring, hunread, decide_eq_true rfl, Bool.and_true]
  obtain ⟨z, hz⟩ : ∃ z, z = if unackedFor y t.val side.val then ringDoor t.val side.val 1 y else y := ⟨_, rfl⟩
  have hyz : Rings t.val side.val y z := by rw [hz]; exact rings_ite _ _ _ _ _
  have hacks : unackedFor x t.val side.val = unackedFor y t.val side.val := by rw [hunacked, hyacked]
  have hlevel : levelBits t.val side.val x = z := by
    rw [hz, hy] at *
    unfold levelBits
    dsimp only
    rw [hacks]
  have hzrung : rung z t.val side.val i = (rung y t.val side.val i || (unackedFor s t.val side.val && decide (i = 1))) := by
    rw [hz, rung_ite_ring, hyacked, decide_eq_true rfl, Bool.and_true]
  have hall : z = { s with door := z.door, count := { s.count with events := z.count.events }, out := {} } := by
    rw [(hxy.trans hyz).fields, hfields]
    rfl
  refine answers_of_kept (exec_doorbellClear t side v s) (y := z) ?_ (by rw [hall]) (by rw [hall])
    ⟨?_, fun k hk => ((hxy.trans hyz).other k hk).trans (hothers k hk), hall⟩
  · rw [← hx, hlevel]
    exact answer_stOk (by rw [hall])
  · rw [hzrung, hyrung, hcleared, Bool.and_comm (unreadFor s t.val side.val), Bool.and_comm (unackedFor s t.val side.val)]

/-- What a software write to a side's doorbell rings (R357). -/
theorem ringBits_spec (t side v : Nat) (s : State) : Rings t side s (ringBits t side v s) ∧ ∀ u r i,
    rung (ringBits t side v s) u r i =
      (rung s u r i || (decide (16 ≤ i ∧ i < 32) && bit v i && decide (doorKey u r = doorKey t side))) := by
  suffices h : ∀ n ≤ 16, ∀ y, y = (List.range n).foldl (fun s i => if bit v (16 + i) then ringDoor t side (16 + i) s else s) s →
      Rings t side s y ∧ ∀ u r i, rung y u r i =
        (rung s u r i || (decide (16 ≤ i ∧ i < 16 + n) && bit v i && decide (doorKey u r = doorKey t side))) from h 16 le_rfl _ rfl
  intro n
  induction n with
  | zero =>
    intro _ y hy
    rw [show y = s from hy]
    refine ⟨Rings.refl t side s, fun u r i => ?_⟩
    rw [decide_eq_false (by omega), Bool.false_and, Bool.false_and, Bool.or_false]
  | succ n ih =>
    rintro hn y hy
    rw [List.range_succ, List.foldl_append] at hy
    obtain ⟨hrings, hrung⟩ := ih (by omega) _ rfl
    generalize (List.range n).foldl (fun s i => if bit v (16 + i) then ringDoor t side (16 + i) s else s) s = x at hy hrings hrung
    rw [List.foldl_cons, List.foldl_nil] at hy
    refine ⟨hrings.trans (hy ▸ rings_ite _ _ _ _ _), fun u r i => ?_⟩
    rw [hy, rung_ite_ring, hrung]
    by_cases h : i = 16 + n
    · rw [decide_eq_true h, decide_eq_false (show ¬ (16 ≤ i ∧ i < 16 + n) by omega),
        decide_eq_true (show 16 ≤ i ∧ i < 16 + (n + 1) by omega), h]
      simp
    · rw [decide_eq_false h, Bool.and_false, Bool.false_and, Bool.or_false]
      congr 4
      exact propext ⟨fun _ => by omega, fun _ => by omega⟩

/-- Rings change doorbells and count events. -/
def Bells (s y : State) : Prop := y = { s with door := y.door, count := { s.count with events := y.count.events } }

theorem Bells.trans {a b c : State} (h : Bells a b) (h' : Bells b c) : Bells a c := by
  unfold Bells at h h' ⊢
  rw [h', h]

theorem bells_ringBits (t side v : Nat) (s : State) : Bells s (ringBits t side v s) := (ringBits_spec t side v s).1.fields

theorem answers_doorbellSet (v : BitVec 64) {i : Nat} (hi : i < 32) (s : State) : Answers (.doorbellSet t side v) s (fun s' =>
    (∀ u r, r < 3 → rung s' u r i = (rung s u r i || (decide (16 ≤ i) && bit v.toNat i &&
      (if side.val = 0 then decide (r = 1 ∧ u = t.val) || decide (r = 2)
       else if side.val = 1 then decide (r = 0 ∧ u = t.val)
       else decide (r = 0 ∧ u = bits v.toNat 0 6))))) ∧
    s' = { s with door := s'.door, count := { s.count with events := s'.count.events }, out := {} }) := by
  obtain ⟨x, hx⟩ : ∃ x, x = if side.val = 0 then ringBits t.val 2 v.toNat (ringBits t.val 1 v.toNat (fresh s))
    else if side.val = 1 then ringBits t.val 0 v.toNat (fresh s) else ringBits (bits v.toNat 0 6) 0 v.toNat (fresh s) := ⟨_, rfl⟩
  have hwritten : decide (16 ≤ i ∧ i < 32) = decide (16 ≤ i) := by
    congr 1
    exact propext ⟨And.left, fun h => ⟨h, hi⟩⟩
  have hfields : Bells (fresh s) x := by
    rw [hx]
    split_ifs
    · exact (bells_ringBits _ _ _ _).trans (bells_ringBits _ _ _ _)
    · exact bells_ringBits _ _ _ _
    · exact bells_ringBits _ _ _ _
  have hall : x = { s with door := x.door, count := { s.count with events := x.count.events }, out := {} } := hfields
  refine answers_of_kept (exec_doorbellSet t side v s) (y := x) ?_ (by rw [hall]) (by rw [hall]) ⟨fun u r hr => ?_, hall⟩
  · rw [← hx]
    exact answer_stOk (by rw [hall])
  · have hring : ∀ w q y, rung (ringBits w q v.toNat y) u r i =
        (rung y u r i || (decide (16 ≤ i) && bit v.toNat i && decide (doorKey u r = doorKey w q))) := fun w q y => by
      rw [(ringBits_spec w q v.toNat y).2, hwritten]
    rw [hx]
    split_ifs with h0 h1
    · rw [hring, hring, Bool.or_assoc, ← Bool.and_or_distrib_left]
      simp only [doorKey_eq (show 1 < 3 by decide) hr, doorKey_eq (show 2 < 3 by decide) hr, true_or, and_true, Nat.reduceEqDiff, false_or]
      rfl
    · rw [hring]
      simp only [doorKey_eq (show 0 < 3 by decide) hr, false_or, OfNat.zero_ne_ofNat]
      rfl
    · rw [hring]
      simp only [doorKey_eq (show 0 < 3 by decide) hr, false_or, OfNat.zero_ne_ofNat]
      rfl

end

/-- Settles O50: posting, latching, taking and reading acknowledges by their cases; time limits, clearing and the host's
reset; and the doorbells bit by bit. -/
theorem mailboxesAndDoorbells : Obligations.MailboxesAndDoorbells := by
  refine ⟨⟨fun t p host msg s => answers_post _ rfl _ rfl, fun t p host v s => ?_, fun t p host s => ?_, fun t p v s => ?_⟩,
    fun t side v i s _ => answers_doorbellClear v i s, fun t side v i s hi => answers_doorbellSet v hi s⟩
  · obtain ⟨hheld, hempty, hnext⟩ := answers_latch (t := t) (p := p) (host := host) (s := s) _ rfl _ rfl
    refine ⟨hheld, hempty, hnext, fun h => ?_, fun x hx => answers_take _ rfl _ rfl hx⟩
    refine noEffect_run (exec_recvTake t p host v s) ?_
    unfold takeMsg
    rw [show (getMail (fresh s) t.val p.val (if host then 1 else 0)).latched = none from h]
    rfl
  · obtain ⟨hempty, hpop⟩ := answers_ackRead (t := t) (p := p) (host := host) (s := s) _ rfl _ rfl
    refine ⟨hempty, hpop, fun h => ?_, fun x r hx => answers_ackTimeout _ rfl _ rfl hx⟩
    refine noEffect_run (exec_mailboxAckTimeout t p host s) ?_
    unfold ackTimeout
    rw [show (getMail (fresh s) t.val p.val (if host then 0 else 1)).slots = [] from h]
  · refine ⟨fun h => refuses_run (exec_mailboxClear t p v s) (if_pos h), fun h => ?_, answers_mailboxClear, answers_configPortReset t s⟩
    exact noEffect_run (exec_mailboxClear t p v s) ((if_neg (by omega)).trans (if_pos h))

end Sys2Proof.Machine

/-! ## Proofs: the release, the regrant and the return of a pass -/

namespace Sys2Proof.Machine

open Sys2Proof

section
variable {t : TileN} {v : BitVec 8} {s : State}

/-! ### Release (R115, R119) -/

/-- Another pass after one was written. -/
theorem alikeButBound_setPass_other {u p k : Nat} (hk : k ≠ u * 256 + p) (x : Pass) (s : State) :
    AlikeButBound (fget {} (setPass u p x s).passes k) (fget {} s.passes k) := by
  unfold setPass
  rw [fget_fset_other _ _ _ _ hk]
  rfl

/-- A pass that is written before every live pass takes its bound. -/
theorem getPass_takeAllBounds {u p : Nat} {x : Pass} {s : State} (h : fwf (fun _ => ({} : Pass)) s.passes = true) :
    (∃ b, getPass (takeAllBounds (setPass u p x s)) u p = { x with computed := b }) ∧
    ∀ k, k ≠ u * 256 + p → AlikeButBound (fget {} (takeAllBounds (setPass u p x s)).passes k) (fget {} s.passes k) := by
  have hall := alikeButBound_takeAllBounds (fwf_setPass (t := u) (p := p) h x)
  refine ⟨?_, fun k hk => (hall k).trans (alikeButBound_setPass_other hk x s)⟩
  obtain ⟨b, hb⟩ := (hall (u * 256 + p)).eq
  exact ⟨b, hb.trans (congrArg (fun y : Pass => { y with computed := b }) (getPass_setPass_same u p x s))⟩

theorem answers_passRelease_waits (h0 : (getPass s t.val v.toNat).state ≠ 0)
    (hj : ∃ j ∈ getAdm s t.val, j.kind = 2 ∧ j.pass = v.toNat) : Answers (.passRelease t v) s (fun s' =>
      getAdm s' t.val = getAdm s t.val ++ [{ kind := 3, pass := v.toNat }] ∧
      s' = { s with adm := s'.adm, out := { status := stOk } }) := by
  have hany : (getAdm (fresh s) t.val).any (fun j => j.kind = 2 ∧ j.pass = v.toNat) = true := by
    obtain ⟨j, hmem, hkind⟩ := hj
    exact List.any_eq_true.mpr ⟨j, hmem, decide_eq_true hkind⟩
  exact answers_of_kept (exec_passRelease t v s) ((if_neg h0).trans (if_pos hany)) rfl rfl ⟨getAdm_setAdm _ _ _, rfl⟩

/-- What a release leaves of the passes (R115). -/
def Released (s s' : State) (t p : Nat) : Prop :=
  (∀ k, k ≠ t * 256 + p → AlikeButBound (fget {} s'.passes k) (fget {} s.passes k)) ∧
  ((getPass s t p).state = 4 → getPass s' t p = {}) ∧
  ((getPass s t p).state ≠ 4 → (getPass s t p).released = true → getPass s' t p = getPass s t p) ∧
  ((getPass s t p).state ≠ 4 → (getPass s t p).released = false → ∃ b, getPass s' t p =
    { getPass s t p with released := true, releasedAt := s.time.elapsed, computed := b })

theorem applyRelease_released (t p : Nat) (h : fwf (fun _ => ({} : Pass)) s.passes = true) :
    applyRelease t p s = { s with passes := (applyRelease t p s).passes } ∧ Released s (applyRelease t p s) t p := by
  unfold applyRelease Released
  dsimp only
  split_ifs with h4 hrel
  · exact ⟨rfl, fun k hk => alikeButBound_setPass_other hk _ s, fun _ => getPass_setPass_same _ _ _ _,
      fun e => absurd h4 e, fun e => absurd h4 e⟩
  · exact ⟨rfl, fun _ _ => rfl, fun e => absurd e h4, fun _ _ => rfl, fun _ e => absurd (e.symm.trans hrel) (by decide)⟩
  · obtain ⟨hmine, hother⟩ := getPass_takeAllBounds (u := t) (p := p)
      (x := { getPass s t p with released := true, releasedAt := s.time.elapsed }) h
    exact ⟨(takeAllBounds_fields _).trans rfl, hother, fun e => absurd e h4, fun _ e => absurd e hrel, fun _ _ => hmine⟩

theorem answers_passRelease (h0 : (getPass s t.val v.toNat).state ≠ 0)
    (hj : ∀ j ∈ getAdm s t.val, ¬ (j.kind = 2 ∧ j.pass = v.toNat)) (h : fwf (fun _ => ({} : Pass)) s.passes = true) :
    Answers (.passRelease t v) s (fun s' => s' = { s with passes := s'.passes, out := { status := stOk } } ∧
      Released s s' t.val v.toNat) := by
  have hnone : ¬ (getAdm (fresh s) t.val).any (fun j => j.kind = 2 ∧ j.pass = v.toNat) = true := by
    rw [List.any_eq_true]
    rintro ⟨j, hmem, hkind⟩
    exact hj j hmem (of_decide_eq_true hkind)
  obtain ⟨hfields, hreleased⟩ := applyRelease_released (s := fresh s) t.val v.toNat h
  have hall : answer stOk (applyRelease t.val v.toNat (fresh s)) =
      { s with passes := (applyRelease t.val v.toNat (fresh s)).passes, out := { status := stOk } } := by
    rw [hfields]
    rfl
  exact answers_of_kept (exec_passRelease t v s) ((if_neg h0).trans (if_neg hnone)) (by rw [hall]) (by rw [hall]) ⟨hall, hreleased⟩

/-! ### Regrant (R115) -/

/-- The job of a PassRegrant. -/
def regrantJob (s : State) (t p : Nat) : AdmJob := { kind := 2, terms := (getPass s t p).terms, pass := p }

/-- How a regrant is decided that finds its pass LAPSED. -/
theorem decideJob_regrant {a : FMap (List AdmJob)} {p : Nat} (h4 : (getPass s t.val p).state = 4) :
    (∀ d, decideAdmission s t.val (getPass s t.val p).terms false 0 false = .ok d →
      decideJob t.val (regrantJob s t.val p) 0 false (withAdm s a {}) = grantPass t.val p (getPass s t.val p).terms d (withAdm s a {})) ∧
    (∀ r x y, decideAdmission s t.val (getPass s t.val p).terms false 0 false = .refuse r x y →
      decideJob t.val (regrantJob s t.val p) 0 false (withAdm s a {}) = refuseAdm t.val r x y (withAdm s a {})) := by
  have hstate : (getPass (withAdm s a {}) t.val (regrantJob s t.val p).pass).state = 4 := h4
  have hjob : jobStatus (withAdm s a {}) t.val (regrantJob s t.val p) = none := if_pos (show 2 ≥ 2 from le_rfl)
  have hverdict : decideAdmission (withAdm s a {}) t.val (regrantJob s t.val p).terms ((regrantJob s t.val p).kind = 0) 0 false =
      decideAdmission s t.val (getPass s t.val p).terms false 0 false := decideAdmission_withAdm _ _ _ _ _ _ _ _
  constructor
  · intro d hd
    unfold decideJob
    rw [if_neg (show ¬ (regrantJob s t.val p).kind = 3 from (by decide : ¬ 2 = 3)), if_neg (fun e => e.2 hstate), hjob]
    simp only [hverdict, hd]
    exact (if_neg (show ¬ 2 = 1 by decide)).trans (if_pos rfl)
  · intro r x y hr
    unfold decideJob
    rw [if_neg (show ¬ (regrantJob s t.val p).kind = 3 from (by decide : ¬ 2 = 3)), if_neg (fun e => e.2 hstate), hjob]
    simp only [hverdict, hr]

/-- A regrant that finds the controller free and needs no other tile is decided at once. -/
theorem answers_regrant_decided (h4 : (getPass s t.val v.toNat).state = 4)
    (hnear : isFar t.val (getPass s t.val v.toNat).terms = false) (hidle : getAdm s t.val = []) {P : State → Prop}
    (hd : ∀ a, ∃ r, decideJob t.val (regrantJob s t.val v.toNat) 0 false (withAdm s a {}) = r ∧ r.adm = a ∧
      P (sameTime s (answer stOk r))) : Answers (.passRegrant t v) s P := by
  obtain ⟨a, htaken, -⟩ := jobTaken_fresh t.val (regrantJob s t.val v.toNat) s
  obtain ⟨r, hr, hadm, hp⟩ := hd a
  refine answers_run (exec_passRegrant t v s) ?_
  have hsubmit := submitAdm_decides (s := fresh s) (r := r) hidle (asksSource_near (s := setAdm t.val [regrantJob s t.val v.toNat] (fresh s)) hnear)
    (htaken ▸ hr) (htaken ▸ hadm)
  have hrun : regrantPass t.val v.toNat (fresh s) = answer stOk r :=
    (if_neg (not_not_intro h4)).trans (congrArg (answer stOk) hsubmit)
  rw [hrun]
  exact hp

/-- What a regrant shows: its answer, its pass with the bound it took, the other passes, and the result. -/
def Regranted (s s' : State) (t p d : Nat) : Prop := s'.out = { status := stOk } ∧
  (∃ b, getPass s' t p = { livePass s (grantedTerms (getPass s t p).terms d) d with computed := b }) ∧
  (∀ k, k ≠ t * 256 + p → AlikeButBound (fget {} s'.passes k) (fget {} s.passes k)) ∧
  getObj s' t Obj.passResult = passResult stOk 0 p d 0 0

/-- A regrant as the end of its command shows it. -/
theorem regranted_of {s z : State} {t p d : Nat} (hout : z.out = {})
    (hpass : ∃ b, getPass z t p = { livePass s (grantedTerms (getPass s t p).terms d) d with computed := b })
    (hothers : ∀ k, k ≠ t * 256 + p → AlikeButBound (fget {} z.passes k) (fget {} s.passes k))
    (hresult : getObj z t Obj.passResult = passResult stOk 0 p d 0 0) : Regranted s (sameTime s (answer stOk z)) t p d := by
  refine ⟨?_, hpass, hothers, hresult⟩
  show ({ z.out with status := stOk } : Out) = _
  rw [hout]

theorem answers_regrant_granted {d : Nat} (h4 : (getPass s t.val v.toNat).state = 4)
    (hnear : isFar t.val (getPass s t.val v.toNat).terms = false) (hidle : getAdm s t.val = [])
    (hd : decideAdmission s t.val (getPass s t.val v.toNat).terms false 0 false = .ok d)
    (hw : fwf (fun _ => ({} : Pass)) s.passes = true) :
    Answers (.passRegrant t v) s (fun s' => Regranted s s' t.val v.toNat d) := by
  refine answers_regrant_decided h4 hnear hidle fun a => ⟨_, (decideJob_regrant (a := a) h4).1 d hd, grantPass_adm _ _ _ _ _, ?_⟩
  obtain ⟨-, hout, -⟩ := grantPass_kept t.val v.toNat (getPass s t.val v.toNat).terms d (withAdm s a {})
  obtain ⟨hpass, hothers⟩ := getPass_grantPass (y := withAdm s a {}) (t := t.val) (p := v.toNat) (c := (getPass s t.val v.toNat).terms)
    (d := d) hw rfl rfl
  have hresult := getObj_grantPass_result t.val v.toNat (getPass s t.val v.toNat).terms d (withAdm s a {})
  exact regranted_of (hout.trans rfl) hpass hothers hresult

theorem answers_regrant_refused {r x y : Nat} (h4 : (getPass s t.val v.toNat).state = 4)
    (hnear : isFar t.val (getPass s t.val v.toNat).terms = false) (hidle : getAdm s t.val = [])
    (hd : decideAdmission s t.val (getPass s t.val v.toNat).terms false 0 false = .refuse r x y) :
    Answers (.passRegrant t v) s (fun s' => s'.passes = s.passes ∧
      getObj s' t.val Obj.passResult = passResult stRefusedAdmission r 0 0 x y) := by
  refine answers_regrant_decided h4 hnear hidle fun a => ⟨_, (decideJob_regrant (a := a) h4).2 r x y hd, rfl, ?_⟩
  obtain ⟨⟨-, hresult⟩, hpasses, -⟩ := passRefused_refuseAdm s t.val r x y a
  exact ⟨hpasses, hresult⟩

end

/-- Settles O25: a release by the state of its pass and the jobs before it, a regrant by its verdict, and the return to
LIVE by its condition. -/
theorem passLife : Obligations.PassLife := by
  refine ⟨fun t v s => ⟨fun h => ?_, answers_passRelease_waits, fun h0 hj h => answers_passRelease h0 hj h⟩,
    fun t v s => ⟨fun h => ?_, fun h4 hnear hidle => ⟨fun d hd hw => answers_regrant_granted h4 hnear hidle hd hw,
      fun r a b hd => answers_regrant_refused h4 hnear hidle hd⟩⟩, fun t p s => ⟨fun hstate hforce hrisk hclear => ?_, fun h => ?_⟩⟩
  · exact refuses_run (exec_passRelease t v s) (if_pos h)
  · exact refuses_run (exec_passRegrant t v s) (if_pos h)
  · exact exec_of_kept (exec_passReturnLive t p s) (if_pos ⟨hstate, hforce, hrisk, hclear⟩) rfl rfl
  · refine noEffect_run (exec_passReturnLive t p s) (if_neg ?_)
    rintro ⟨hstate, hforce, hrisk, hclear⟩
    obtain ⟨h2, h3⟩ | h | h | h := h
    · exact hstate.elim h2 h3
    · exact h hforce
    · exact h hrisk
    · exact absurd hclear (Nat.not_le.mpr h)

end Sys2Proof.Machine

/-! ## Proofs: range registers, queue samples and Timetables -/

namespace Sys2Proof.Machine

open Sys2Proof

section
variable {t : TileN} {s : State}

/-! ### Range registers (R122, R126, R130) -/

theorem rangeStored_fits (i : Fin 16) (v : Nat) : rangeStored v % 2 ^ objBits (Obj.rangeRegister + i.val) = rangeStored v := by
  have hbits : ∀ j : Fin 16, objBits (Obj.rangeRegister + j.val) = 128 := by decide +kernel
  rw [hbits i]
  unfold rangeStored bits
  exact Nat.mod_eq_of_lt (by have := Nat.mod_lt (v / 2 ^ 33) (Nat.two_pow_pos 83); omega)

/-- A check of a regulator changes nothing beside the objects and the times its budgets were passed. -/
theorem regCheck_rest (d : FMap Nat) (o : FMap Nat) (u r : Nat) (s : State) :
    { regCheck u r s with dict := d, overFrom := o } = { s with dict := d, overFrom := o } := by
  unfold regCheck
  dsimp only
  split_ifs <;> rfl

/-- A check of regulator `r` counts in the two objects of that regulator alone. -/
theorem getObj_regCheck {u r w k : Nat} (hr : r < 17) (hk : k < 2 ^ 24)
    (hentries : (w, k) ≠ (u, Obj.overBudgetEntries + r)) (htime : (w, k) ≠ (u, Obj.overBudgetTime + r)) (s : State) :
    getObj (regCheck u r s) w k = getObj s w k := by
  have hother : ∀ (j n : Nat) (x : State), j < 2 ^ 24 → (w, k) ≠ (u, j) → getObj (bump u j n x) w k = getObj x w k := by
    refine fun j n x hj hne => getObj_setObj_other x fun e => hne ?_
    obtain ⟨rfl, rfl⟩ := okey_inj hk hj e
    rfl
  have hlt : Obj.overBudgetEntries + r < 2 ^ 24 ∧ Obj.overBudgetTime + r < 2 ^ 24 := by
    simp only [Obj.overBudgetEntries, Obj.overBudgetTime]
    omega
  unfold regCheck
  dsimp only
  split_ifs
  · rfl
  · exact hother _ _ _ hlt.1 hentries
  · rfl
  · exact hother _ _ _ hlt.2 htime

/-- The objects in which the checks of a tile's regulators count. -/
def budgetObjs (t : Nat) : List (Nat × Nat) :=
  (List.range 17).map (fun r => (t, Obj.overBudgetEntries + r)) ++ (List.range 17).map (fun r => (t, Obj.overBudgetTime + r))

/-- What stands beside two fields stands in a frame of them. -/
theorem fields_of_rest {y : State} (h : ∀ d o, { y with dict := d, overFrom := o } = { s with dict := d, overFrom := o }) :
    y = { s with dict := y.dict, overFrom := y.overFrom } := h y.dict y.overFrom

theorem regCheckAll_fields (u : Nat) (s : State) :
    regCheckAll u s = { s with dict := (regCheckAll u s).dict, overFrom := (regCheckAll u s).overFrom } :=
  fields_of_rest fun d o => foldl_range_keeps (f := fun s r => regCheck u r s)
    (part := fun x : State => { x with dict := d, overFrom := o }) (fun x r _ => regCheck_rest d o u r x) s

theorem getObj_regCheckAll {u w k : Nat} (hk : k < 2 ^ 24) (hn : (w, k) ∉ budgetObjs u) (s : State) :
    getObj (regCheckAll u s) w k = getObj s w k := by
  refine foldl_range_keeps (f := fun s r => regCheck u r s) (part := fun x => getObj x w k)
    (fun x r hr => getObj_regCheck hr hk (fun e => hn ?_) (fun e => hn ?_) x) s
  · exact List.mem_append_left _ (List.mem_map.mpr ⟨r, List.mem_range.mpr hr, e.symm⟩)
  · exact List.mem_append_right _ (List.mem_map.mpr ⟨r, List.mem_range.mpr hr, e.symm⟩)

theorem rangeRegister_notBudget (i : Fin 16) (u : Nat) : (u, Obj.rangeRegister + i.val) ∉ budgetObjs u := by
  have hi := i.isLt
  simp only [budgetObjs, List.mem_append, List.mem_map, List.mem_range, Prod.mk.injEq, Obj.rangeRegister,
    Obj.overBudgetEntries, Obj.overBudgetTime]
  omega

theorem rangesHold_fresh (u : Nat) (s z : State) : rangesHold (fresh s) (fresh z) u = rangesHold s z u := rfl

theorem setObj_fresh (u k v : Nat) (s : State) : setObj u k v (fresh s) = fresh (setObj u k v s) := rfl

/-- A write that is stored, and has regulators checked, answers OK. -/
theorem answers_rechecked {cmd : Instr} {f : State → State} {z : State} (h : exec cmd s = run f s) (hrun : f (fresh s) = answer stOk z)
    (hz : z = { fresh s with dict := z.dict, overFrom := z.overFrom }) :
    Answers cmd s (fun s' => s'.out = { status := stOk } ∧ (∀ u k, getObj s' u k = getObj z u k) ∧
      s' = { s with dict := s'.dict, overFrom := s'.overFrom, out := s'.out }) := by
  have hall : answer stOk z = { s with dict := z.dict, overFrom := z.overFrom, out := { status := stOk } } := by
    rw [hz]
    rfl
  exact answers_of_kept h hrun (by rw [hall]) (by rw [hall]) ⟨by rw [hall], fun _ _ => rfl, by rw [hall]⟩

theorem answers_rangeRegister (i : Fin 16) (v : BitVec 128) (hgood : rangeBad v.toNat = false)
    (hhold : rangesHold s (setObj t.val (Obj.rangeRegister + i.val) (rangeStored v.toNat) s) t.val = true) :
    Answers (.rangeRegisterWrite t i v) s (fun s' => s'.out = { status := stOk } ∧
      getObj s' t.val (Obj.rangeRegister + i.val) = rangeStored v.toNat ∧
      OtherObjects s s' ((t.val, Obj.rangeRegister + i.val) :: budgetObjs t.val) ∧
      s' = { s with dict := s'.dict, overFrom := s'.overFrom, out := s'.out }) := by
  have hkey : Obj.rangeRegister + i.val < 2 ^ 24 := by
    have := i.isLt
    simp only [Obj.rangeRegister]
    omega
  obtain ⟨x, hx⟩ : ∃ x, x = setObj t.val (Obj.rangeRegister + i.val) (rangeStored v.toNat) (fresh s) := ⟨_, rfl⟩
  have hstored : ObjsOnly (fun u k => (u, k) = (t.val, Obj.rangeRegister + i.val)) (fresh s) x := by
    rw [hx]
    exact ObjsOnly.set (K := fun u k => (u, k) = (t.val, Obj.rangeRegister + i.val)) _ hkey rfl _
  have hvalue : getObj x t.val (Obj.rangeRegister + i.val) = rangeStored v.toNat := by
    rw [hx, getObj_setObj_same, rangeStored_fits]
  obtain ⟨z, hz⟩ : ∃ z, z = regCheckAll t.val x := ⟨_, rfl⟩
  have hchecked : z = { x with dict := z.dict, overFrom := z.overFrom } := by
    rw [hz]
    exact regCheckAll_fields t.val x
  have hrun : writeRange16 t.val i.val v.toNat (fresh s) = answer stOk z := by
    unfold writeRange16
    rw [if_neg (by rw [hgood]; exact Bool.false_ne_true), hz, hx]
    exact if_neg (not_not_intro ((rangesHold_fresh t.val s (setObj t.val (Obj.rangeRegister + i.val) (rangeStored v.toNat) s)).trans hhold))
  obtain ⟨s', hexec, hout, hsame, hfields⟩ := answers_rechecked (exec_rangeRegisterWrite t i v s) hrun (hchecked.trans (by rw [hstored.fields]))
  refine ⟨s', hexec, hout, ?_, fun u k hk hn => ?_, hfields⟩
  · rw [hsame, hz]
    exact (getObj_regCheckAll hkey (rangeRegister_notBudget i t.val) x).trans hvalue
  · obtain ⟨hne, hnot⟩ := not_or.mp (fun e => hn (List.mem_cons.mpr e))
    rw [hsame, hz]
    exact (getObj_regCheckAll hk hnot x).trans (hstored.objs u k hk hne)

/-! ### Queue samples (R137, R138) -/

/-- The objects that a sample of channel `c` writes. -/
def SampleKey (c : Nat) (_u k : Nat) : Prop := 0x3201 ≤ k / 256 ∧ k / 256 ≤ 0x320C ∧ k % 256 = c + 1

theorem objsOnly_recordSample {K : Nat → Nat → Prop} {u l m g : Nat} (v : Nat) (clear : Bool) (hl : l < 2 ^ 24 ∧ K u l)
    (hm : m < 2 ^ 24 ∧ K u m) (hg : g < 2 ^ 24 ∧ K u g) (s : State) : ObjsOnly K s (recordSample u l m g v clear s) := by
  have hlast := ObjsOnly.set v hl.1 hl.2 s
  unfold recordSample
  dsimp only
  split
  · exact (hlast.trans (ObjsOnly.set _ hg.1 hg.2 _)).trans (ObjsOnly.set _ hm.1 hm.2 _)
  · exact (hlast.trans (ObjsOnly.set _ hm.1 hm.2 _)).trans (ObjsOnly.set _ hg.1 hg.2 _)

theorem getObj_recordSample {u l m g : Nat} (v : Nat) (clear : Bool) (hl : l < 2 ^ 24) (hm : m < 2 ^ 24) (hg : g < 2 ^ 24)
    (hlm : l ≠ m) (hlg : l ≠ g) (hmg : m ≠ g) (s : State) : getObj (recordSample u l m g v clear s) u l = v % 2 ^ objBits l ∧
    (clear = true → getObj (recordSample u l m g v clear s) u m = 0 ∧ getObj (recordSample u l m g v clear s) u g = 0) := by
  unfold recordSample bump
  dsimp only
  split
  · rw [getObj_setObj_obj _ hlm hl hm, getObj_setObj_obj _ hlg hl hg, getObj_setObj_same, getObj_setObj_same,
      getObj_setObj_obj _ hmg.symm hg hm, getObj_setObj_same]
    exact ⟨rfl, fun _ => ⟨Nat.zero_mod _, Nat.zero_mod _⟩⟩
  · rename_i hclear
    rw [getObj_setObj_obj _ hlg hl hg, getObj_setObj_obj _ hlm hl hm, getObj_setObj_same]
    exact ⟨rfl, fun e => absurd e hclear⟩

theorem sampleKeys {c : Nat} (hc : c < 48) (u : Nat) {b : Nat}
    (hb : b % 256 = 1 ∧ 0x3201 ≤ b / 256 ∧ b / 256 ≤ 0x320C) : b + c < 2 ^ 24 ∧ SampleKey c u (b + c) := by
  unfold SampleKey
  omega

theorem objsOnly_sampleChannel {c : Nat} (hc : c < 48) (u : Nat) (clear : Bool) (s : State) :
    ObjsOnly (SampleKey c) s (sampleChannel u c clear s) := by
  have hrec : ∀ (l m g v : Nat) (x : State), l % 256 = 1 ∧ 0x3201 ≤ l / 256 ∧ l / 256 ≤ 0x320C →
      m % 256 = 1 ∧ 0x3201 ≤ m / 256 ∧ m / 256 ≤ 0x320C → g % 256 = 1 ∧ 0x3201 ≤ g / 256 ∧ g / 256 ≤ 0x320C →
      ObjsOnly (SampleKey c) x (recordSample u (l + c) (m + c) (g + c) v clear x) := fun l m g v x hl hm hg =>
    objsOnly_recordSample v clear (sampleKeys hc u hl) (sampleKeys hc u hm) (sampleKeys hc u hg) x
  unfold sampleChannel
  dsimp only
  refine ObjsOnly.trans ?_ (hrec _ _ _ _ _ (by decide) (by decide) (by decide))
  refine ObjsOnly.trans ?_ (hrec _ _ _ _ _ (by decide) (by decide) (by decide))
  refine ObjsOnly.trans ?_ (hrec _ _ _ _ _ (by decide) (by decide) (by decide))
  exact hrec _ _ _ _ _ (by decide) (by decide) (by decide)

/-- The three objects of one sample of channel `c`. -/
theorem sampleShows {c : Nat} (hc : c < 48) (u l m g v : Nat) (clear : Bool) (s : State)
    (hl : l % 256 = 1 ∧ l < 2 ^ 23) (hm : m % 256 = 1 ∧ m < 2 ^ 23) (hg : g % 256 = 1 ∧ g < 2 ^ 23) (hne : l ≠ m ∧ l ≠ g ∧ m ≠ g) :
    getObj (recordSample u (l + c) (m + c) (g + c) v clear s) u (l + c) = v % 2 ^ objBits (l + c) ∧
    (clear = true → getObj (recordSample u (l + c) (m + c) (g + c) v clear s) u (m + c) = 0 ∧
      getObj (recordSample u (l + c) (m + c) (g + c) v clear s) u (g + c) = 0) :=
  getObj_recordSample v clear (by omega) (by omega) (by omega) (by omega) (by omega) (by omega) s

/-- What a sample of channel `c` shows of its queues. -/
theorem sampleChannel_shows {c : Nat} (hc : c < 48) (u : Nat) (clear : Bool) (s : State) :
    getObj (sampleChannel u c clear s) u (Obj.readDepthLast + c) = (getQueue s u c).rq.length % 256 ∧
    getObj (sampleChannel u c clear s) u (Obj.writeDepthLast + c) = (getQueue s u c).wq.length % 256 ∧
    (clear = true → getObj (sampleChannel u c clear s) u (Obj.readDepthMax + c) = 0 ∧
      getObj (sampleChannel u c clear s) u (Obj.readDepthSum + c) = 0) := by
  have hbits : ∀ j : Fin 48, objBits (Obj.readDepthLast + j.val) = 8 ∧ objBits (Obj.writeDepthLast + j.val) = 8 := by decide +kernel
  obtain ⟨hread, hwrite⟩ := hbits ⟨c, hc⟩
  have hlast : ∀ (l m g v : Nat) (x : State), Obj.writeDepthLast ∉ [l, m, g] → l % 256 = 1 ∧ l < 2 ^ 23 → m % 256 = 1 ∧ m < 2 ^ 23 →
      g % 256 = 1 ∧ g < 2 ^ 23 → getObj (recordSample u (l + c) (m + c) (g + c) v clear x) u (Obj.writeDepthLast + c) =
        getObj x u (Obj.writeDepthLast + c) := by
    intro l m g v x hnot hl hm hg
    refine (objsOnly_recordSample (K := fun _ k => k ∈ [l + c, m + c, g + c]) v clear ⟨by omega, by simp⟩ ⟨by omega, by simp⟩
      ⟨by omega, by simp⟩ x).objs u _ (by simp only [Obj.writeDepthLast]; omega) fun e => hnot ?_
    simp only [List.mem_cons, List.not_mem_nil, or_false, Nat.add_right_cancel_iff] at e ⊢
    exact e
  unfold sampleChannel
  dsimp only
  have hw := fun x => (sampleShows hc u Obj.writeDepthLast Obj.writeDepthMax Obj.writeDepthSum (queueSample s (getQueue s u c).wq).1
    clear x (by decide) (by decide) (by decide) (by decide)).1
  have hr := fun x => sampleShows hc u Obj.readDepthLast Obj.readDepthMax Obj.readDepthSum (queueSample s (getQueue s u c).rq).1
    clear x (by decide) (by decide) (by decide) (by decide)
  refine ⟨?_, ?_, (hr _).2⟩
  · rw [(hr _).1, hread]
    rfl
  · rw [hlast _ _ _ _ _ (by decide) (by decide) (by decide) (by decide), hlast _ _ _ _ _ (by decide) (by decide) (by decide) (by decide),
      hw, hwrite]
    rfl

/-- The samples of a tile's queues. -/
def sampled (u : Nat) (clear : Bool) (s : State) : State := forChans (fun c s => sampleChannel u c clear s) s

/-- The objects of the samples of a tile. -/
def SampleIndex (_u k : Nat) : Prop := 0x3201 ≤ k / 256 ∧ k / 256 ≤ 0x320C

theorem objsOnly_sampled (u : Nat) (clear : Bool) (s : State) : ObjsOnly SampleIndex s (sampled u clear s) :=
  ObjsOnly.range (fun x _ hc => (objsOnly_sampleChannel hc u clear x).mono fun _ _ hk => ⟨hk.1, hk.2.1⟩) s

theorem getObj_sampleChannel_other {c d : Nat} (hd : d < 48) (u : Nat) (clear : Bool) (x : State) {b : Nat} (hne : c ≠ d)
    (hb : b % 256 = 1 ∧ b < 2 ^ 23) (hc : c < 48) : getObj (sampleChannel u d clear x) u (b + c) = getObj x u (b + c) :=
  (objsOnly_sampleChannel hd u clear x).objs u _ (by omega) fun hk => hne (by obtain ⟨-, -, hk⟩ := hk; omega)

theorem getQueue_sampleChannel {d : Nat} (hd : d < 48) (u c : Nat) (clear : Bool) (x : State) :
    getQueue (sampleChannel u d clear x) u c = getQueue x u c := by
  unfold getQueue
  rw [(objsOnly_sampleChannel hd u clear x).fields]

/-- What the samples of a tile show of its queues. -/
theorem sampled_shows (u : Nat) (clear : Bool) (s : State) : ∀ c < 48,
    getObj (sampled u clear s) u (Obj.readDepthLast + c) = (getQueue s u c).rq.length % 256 ∧
    getObj (sampled u clear s) u (Obj.writeDepthLast + c) = (getQueue s u c).wq.length % 256 ∧
    (clear = true → getObj (sampled u clear s) u (Obj.readDepthMax + c) = 0 ∧
      getObj (sampled u clear s) u (Obj.readDepthSum + c) = 0) := by
  have hlast := foldl_range_puts (f := fun s c => sampleChannel u c clear s) (n := 48)
    (g := fun c x => (getObj x u (Obj.readDepthLast + c), getObj x u (Obj.writeDepthLast + c)))
    (v := fun c x => ((getQueue x u c).rq.length % 256, (getQueue x u c).wq.length % 256))
    (fun c x hc => Prod.ext (sampleChannel_shows hc u clear x).1 (sampleChannel_shows hc u clear x).2.1)
    (fun c d x hc hd hne => Prod.ext (getObj_sampleChannel_other hd u clear x hne (by decide) hc)
      (getObj_sampleChannel_other hd u clear x hne (by decide) hc))
    (fun c d x _ hd _ => by rw [getQueue_sampleChannel hd]) s
  refine fun c hc => ⟨congrArg Prod.fst (hlast c hc), congrArg Prod.snd (hlast c hc), fun hclear => ?_⟩
  have hzero := foldl_range_puts (f := fun s c => sampleChannel u c clear s) (n := 48)
    (g := fun c x => (getObj x u (Obj.readDepthMax + c), getObj x u (Obj.readDepthSum + c))) (v := fun _ _ => (0, 0))
    (fun c x hc => Prod.ext ((sampleChannel_shows hc u clear x).2.2 hclear).1 ((sampleChannel_shows hc u clear x).2.2 hclear).2)
    (fun c d x hc hd hne => Prod.ext (getObj_sampleChannel_other hd u clear x hne (by decide) hc)
      (getObj_sampleChannel_other hd u clear x hne (by decide) hc))
    (fun _ _ _ _ _ _ => rfl) s c hc
  exact ⟨congrArg Prod.fst hzero, congrArg Prod.snd hzero⟩

/-- The state of a due sample when every queue was sampled. -/
def sampleTaken (u : Nat) (s : State) : State :=
  { sampled u (fget false s.sampleClear u) (take u 1 s) with
    sampleClear := fset false (sampled u (fget false s.sampleClear u) (take u 1 s)).sampleClear u false }

/-- The count of samples that follows a sample. -/
def samplesCounted (clear : Bool) (u : Nat) (s : State) : State :=
  if clear then setObj u Obj.sampleCount 0 s else bump u Obj.sampleCount 1 s

theorem sampleQueues_due (h : due s t.val 1 (getObj s t.val Obj.samplePeriod) = true) :
    sampleQueues t.val s = samplesCounted (fget false s.sampleClear t.val) t.val (sampleTaken t.val s) :=
  if_neg (not_not_intro h)

theorem samplesCounted_spec (clear : Bool) (u : Nat) (s : State) :
    ObjsOnly (fun w k => w = u ∧ k = Obj.sampleCount) s (samplesCounted clear u s) ∧
    getObj (samplesCounted clear u s) u Obj.sampleCount = (if clear then 0 else (getObj s u Obj.sampleCount + 1) % 2 ^ 64) := by
  have hbits : objBits Obj.sampleCount = 64 := by decide +kernel
  unfold samplesCounted bump
  split_ifs
  · exact ⟨ObjsOnly.set 0 (by decide) ⟨rfl, rfl⟩ s, (getObj_setObj_same s _ _ _).trans (Nat.zero_mod _)⟩
  · exact ⟨ObjsOnly.set _ (by decide) ⟨rfl, rfl⟩ s, (getObj_setObj_same s _ _ _).trans (by rw [hbits])⟩

/-- What a sample that is due leaves (R137, R138). -/
structure SampleTakes (s y : State) (u : Nat) : Prop where
  cleared : fget false y.sampleClear u = false
  fields : y = { s with dict := y.dict, last := y.last, sampleClear := y.sampleClear }
  count : getObj y u Obj.sampleCount = (if fget false s.sampleClear u then 0 else (getObj s u Obj.sampleCount + 1) % 2 ^ 64)
  shows : ∀ c < 48, getObj y u (Obj.readDepthLast + c) = (getQueue s u c).rq.length % 256 ∧
    getObj y u (Obj.writeDepthLast + c) = (getQueue s u c).wq.length % 256 ∧
    (fget false s.sampleClear u = true → getObj y u (Obj.readDepthMax + c) = 0 ∧ getObj y u (Obj.readDepthSum + c) = 0)

theorem sampleTakes_counted (u : Nat) (s : State) :
    SampleTakes s (samplesCounted (fget false s.sampleClear u) u (sampleTaken u s)) u := by
  have hframe := objsOnly_sampled u (fget false s.sampleClear u) (take u 1 s)
  have hshow := sampled_shows u (fget false s.sampleClear u) (take u 1 s)
  obtain ⟨hcount, hnow⟩ := samplesCounted_spec (fget false s.sampleClear u) u (sampleTaken u s)
  have htaken : sampleTaken u s = { sampled u (fget false s.sampleClear u) (take u 1 s) with
    sampleClear := fset false (sampled u (fget false s.sampleClear u) (take u 1 s)).sampleClear u false } := rfl
  revert hframe hshow hcount hnow htaken
  generalize hclear : fget false s.sampleClear u = clear
  generalize sampleTaken u s = x
  generalize samplesCounted clear u x = y
  generalize sampled u clear (take u 1 s) = z
  intro hframe hshow hcount hnow hx
  have hobj : ∀ k, k < 2 ^ 24 → k / 256 ≠ 0x320D → getObj y u k = getObj z u k := fun k hk hne =>
    (hcount.objs u k hk fun e => hne (by rw [e.2]; rfl)).trans (by rw [hx]; rfl)
  have hkeys : ∀ c b, c < 48 → b % 256 = 1 → b / 256 ≤ 0x320C → b + c < 2 ^ 24 ∧ (b + c) / 256 ≠ 0x320D := by omega
  have hget : ∀ c b, c < 48 → b % 256 = 1 → b / 256 ≤ 0x320C → getObj y u (b + c) = getObj z u (b + c) := fun c b hc hb hle =>
    hobj _ (hkeys c b hc hb hle).1 (hkeys c b hc hb hle).2
  have hold : getObj x u Obj.sampleCount = getObj s u Obj.sampleCount := by
    rw [hx]
    exact hframe.objs u _ (by decide) (fun e => absurd e.2 (by decide))
  refine ⟨?_, ?_, by rw [hnow, hold, hclear], fun c hc => ?_⟩
  · have hkept : y.sampleClear = x.sampleClear := by rw [hcount.fields]
    rw [hkept, hx]
    exact fget_fset_same false z.sampleClear u false
  · rw [hcount.fields, hx, hframe.fields]
    rfl
  · obtain ⟨hread, hwrite, hzero⟩ := hshow c hc
    rw [hget _ _ hc rfl (by decide), hget _ _ hc rfl (by decide), hget _ _ hc rfl (by decide), hget _ _ hc rfl (by decide), hclear]
    exact ⟨hread, hwrite, hzero⟩

theorem answers_queueSample (h : due s t.val 1 (getObj s t.val Obj.samplePeriod) = true) :
    Answers (.queueSample t) s (fun s' => fget false s'.sampleClear t.val = false ∧ SameMemory s s' ∧
      getObj s' t.val Obj.sampleCount =
        (if fget false s.sampleClear t.val then 0 else (getObj s t.val Obj.sampleCount + 1) % 2 ^ 64) ∧
      (∀ c < 48, getObj s' t.val (Obj.readDepthLast + c) = (getQueue s t.val c).rq.length % 256 ∧
        getObj s' t.val (Obj.writeDepthLast + c) = (getQueue s t.val c).wq.length % 256 ∧
        (fget false s.sampleClear t.val = true → getObj s' t.val (Obj.readDepthMax + c) = 0 ∧
          getObj s' t.val (Obj.readDepthSum + c) = 0)) ∧
      s' = { s with dict := s'.dict, last := s'.last, sampleClear := s'.sampleClear, out := {} }) := by
  have hrun := sampleQueues_due (s := fresh s) h
  have htakes := sampleTakes_counted t.val (fresh s)
  rw [← hrun] at htakes
  have hfields : sampleQueues t.val (fresh s) = { s with dict := (sampleQueues t.val (fresh s)).dict
                                                         last := (sampleQueues t.val (fresh s)).last
                                                         sampleClear := (sampleQueues t.val (fresh s)).sampleClear, out := {} } :=
    htakes.fields
  refine answers_of_kept (exec_queueSample t s) rfl (by rw [hfields]) (by rw [hfields])
    ⟨htakes.cleared, SameWords.sameMemory ?_, htakes.count, htakes.shows, hfields⟩
  exact sameWords_of (by rw [hfields]) (by rw [hfields]) (by rw [hfields]) (by rw [hfields])

/-- Settles O26: a range register is stored and the regulators are checked against it; a sample records every queue and
clears what SampleClear asked for; a token ends the wait of its stage. -/
theorem rangesSamplesAndTokens : Obligations.RangesSamplesAndTokens := by
  unfold Obligations.RangesSamplesAndTokens
  refine ⟨fun t i v s => ⟨fun h => refuses_run (exec_rangeRegisterWrite t i v s) (if_pos h), fun hgood hhold => ?_,
    answers_rangeRegister i v⟩, fun t v s => ?_, fun t s => ⟨fun h => ?_, answers_queueSample⟩, fun t target s => ?_⟩
  · refine refuses_run (exec_rangeRegisterWrite t i v s) ((if_neg (by rw [hgood]; exact Bool.false_ne_true)).trans (if_pos ?_))
    rw [setObj_fresh, rangesHold_fresh, hhold]
    exact Bool.false_ne_true
  · obtain ⟨hbad, hnone, hact⟩ := boolCommand_cases (exec_sampleClear t v s)
    exact ⟨fun h => (hact h).trans rfl, hnone, hbad⟩
  · exact noEffect_run (exec_queueSample t s) (if_pos (Bool.eq_false_iff.mp h))
  · rw [exec_tokenGrant]
    rfl

end

end Sys2Proof.Machine

/-! ## Proofs: Timetables are committed, start and change their gates -/

namespace Sys2Proof.Machine

open Sys2Proof

section
variable {t : TileN} {s : State}

/-! ### The gates of a list (R144) -/

theorem getTT_modTT (u : Nat) (f : TTState → TTState) (s : State) : getTT (modTT u f s) u = f (getTT s u) :=
  fget_fupd_same _ _ _ _

/-- The gates that a list in force sets do not depend on the gates set before. -/
theorem gateMask_congr {u : Nat} {y : State} (m : Nat) (htt : getTT y u = { getTT s u with mask := m }) (htime : y.time = s.time) :
    gateMask y u = gateMask s u := by
  have hforce : ttInForce y u = ttInForce s u := by
    unfold ttInForce
    rw [htt]
  unfold gateMask
  rw [hforce, htime]

theorem runningFrags_congr {y : State} (h : y.queue = s.queue) (u k : Nat) : runningFrags y u k = runningFrags s u k := by
  unfold runningFrags getQueue
  rw [h]

/-- The overruns of a tile whose gates were `mask`. -/
def gateOverruns (mask : Nat) (s : State) (u : Nat) : Nat :=
  sumOf (((List.range 8).filter (fun k => bit mask k && !bit (gateMask s u) k)).map (runningFrags s u))

/-- Fragments of the classes whose gate closes are counted. -/
def CountsOverruns (mask : Nat) (s s' : State) (u : Nat) : Prop :=
  getObj s' u Obj.gateOverruns = (getObj s u Obj.gateOverruns + gateOverruns mask s' u) % 2 ^ 32 ∧
  OtherObjects s s' [(u, Obj.gateOverruns)]

theorem noteGates_spec (u : Nat) (s : State) : noteGates u s = { s with dict := (noteGates u s).dict, tt := (noteGates u s).tt } ∧
    getTT (noteGates u s) u = { getTT s u with mask := gateMask s u } ∧ gateMask (noteGates u s) u = gateMask s u ∧
    CountsOverruns (getTT s u).mask s (noteGates u s) u := by
  have hbits : objBits Obj.gateOverruns = 32 := by decide +kernel
  obtain ⟨x, hx⟩ : ∃ x, x = modTT u (fun r => { r with mask := gateMask s u }) s := ⟨_, rfl⟩
  obtain ⟨y, hy⟩ : ∃ y, y = noteGates u s := ⟨_, rfl⟩
  have hrun : y = setObj u Obj.gateOverruns (getObj x u Obj.gateOverruns + gateOverruns (getTT s u).mask s u) x := by
    rw [hy, hx]
    rfl
  have hframe : ObjsOnly (fun w k => (w, k) ∈ [(u, Obj.gateOverruns)]) x y := by
    rw [hrun]
    exact ObjsOnly.set _ (by decide) (List.mem_singleton.mpr rfl) x
  have htt : getTT x u = { getTT s u with mask := gateMask s u } := by
    rw [hx]
    exact getTT_modTT _ _ _
  have hobj : ∀ k, getObj x u k = getObj s u k := fun k => by rw [hx]; rfl
  have hvalue : getObj y u Obj.gateOverruns = (getObj s u Obj.gateOverruns + gateOverruns (getTT s u).mask s u) % 2 ^ 32 := by
    rw [hrun, getObj_setObj_same, hbits, hobj]
  have hxs : x = { s with tt := x.tt } := by rw [hx]; rfl
  rw [← hy]
  clear hx hy hrun
  have hytt : getTT y u = { getTT s u with mask := gateMask s u } := by
    rw [← htt, hframe.fields]
    rfl
  have hyqueue : y.queue = s.queue := by rw [hframe.fields, hxs]
  have hytime : y.time = s.time := by rw [hframe.fields, hxs]
  have hmask := gateMask_congr _ hytt hytime
  have hover : gateOverruns (getTT s u).mask y u = gateOverruns (getTT s u).mask s u := by
    unfold gateOverruns
    rw [hmask, funext (runningFrags_congr hyqueue u)]
  refine ⟨by rw [hframe.fields, hxs], hytt, hmask, by rw [hvalue, hover], fun w k hk hn => ?_⟩
  exact (hframe.objs w k hk hn).trans (by rw [hxs]; rfl)

theorem answers_gateChange (h : ttInForce s t.val ≠ none) : Answers (.gateChange t) s (fun s' =>
    getTT s' t.val = { getTT s t.val with mask := gateMask s t.val } ∧ CountsOverruns (getTT s t.val).mask s s' t.val ∧
    s' = { s with dict := s'.dict, tt := s'.tt, out := {} }) := by
  have hrun : gateChange t.val (fresh s) = noteGates t.val (fresh s) := if_neg (fun e => h (Option.isNone_iff_eq_none.mp e))
  obtain ⟨hfields, htt, -, hover⟩ := noteGates_spec t.val (fresh s)
  have hall : noteGates t.val (fresh s) = { s with
      dict := (noteGates t.val (fresh s)).dict, tt := (noteGates t.val (fresh s)).tt, out := {} } := hfields
  exact answers_of_kept (exec_gateChange t s) hrun (by rw [hall]) (by rw [hall]) ⟨htt, hover, hall⟩

/-! ### The start of a list (R140) -/

/-- Effects on the queues of each channel leave all else. -/
theorem forChans_queue {f : Nat → State → State} (hf : ∀ c x, f c x = { x with queue := (f c x).queue }) (s : State) :
    forChans f s = { s with queue := (forChans f s).queue } := by
  have hrest : ∀ q, { forChans f s with queue := q } = { s with queue := q } := fun q => by
    unfold forChans
    exact foldl_range_keeps (f := fun x c => f c x) (part := fun x : State => { x with queue := q }) (fun x c _ => by rw [hf c x]) s
  revert hrest
  generalize forChans f s = y
  exact fun hrest => hrest y.queue

theorem exemptQueued_fields (u : Nat) (s : State) : exemptQueued u s = { s with queue := (exemptQueued u s).queue } := by
  unfold exemptQueued
  exact forChans_queue (fun _ _ => rfl) s

theorem answers_timetableStart {p : TTable} (hp : (getTT s t.val).pending = some p) (hdue : p.start ≤ s.time.timeBase) :
    Answers (.timetableStart t) s (fun s' =>
      getTT s' t.val = { running := some p, pending := none, gates := flag s t.val Obj.timetableEnable
                         mask := gateMask s' t.val } ∧
      CountsOverruns (getTT s t.val).mask s s' t.val ∧
      s' = { s with dict := s'.dict, tt := s'.tt, queue := s'.queue, out := {} }) := by
  obtain ⟨x, hx⟩ : ∃ x, x = modTT t.val (fun r => { r with
      running := some p, pending := none, gates := flag s t.val Obj.timetableEnable }) (fresh s) := ⟨_, rfl⟩
  have hrun : startTT t.val (fresh s) = noteGates t.val (exemptQueued t.val x) := by
    rw [hx]
    unfold startTT
    rw [show (getTT (fresh s) t.val).pending = some p from hp]
    exact if_neg (Nat.not_lt.mpr hdue)
  have htt : getTT x t.val = { running := some p, pending := none, gates := flag s t.val Obj.timetableEnable
                               mask := (getTT s t.val).mask } := by
    rw [hx]
    exact getTT_modTT _ _ _
  have hxs : x = { s with tt := x.tt, out := {} } := by rw [hx]; rfl
  have hexempt := exemptQueued_fields t.val x
  obtain ⟨hfields, hgates, hmask, hover, hobjs⟩ := noteGates_spec t.val (exemptQueued t.val x)
  revert hrun hexempt hfields hgates hmask hover hobjs
  clear hx
  generalize exemptQueued t.val x = z
  generalize noteGates t.val z = y
  intro hrun hz hfields hgates hmask hover hobjs
  have hztt : getTT z t.val = getTT x t.val := by rw [hz]; rfl
  have hzobj : ∀ u k, getObj z u k = getObj s u k := fun u k => by
    rw [hz, hxs]
    rfl
  rw [hztt, htt] at hover hgates
  have hall : y = { s with dict := y.dict, tt := y.tt, queue := z.queue, out := {} } := by
    rw [hfields, hz, hxs]
  refine answers_of_kept (exec_timetableStart t s) hrun (by rw [hall]) (by rw [hall]) ⟨by rw [hgates, hmask], ⟨?_, ?_⟩, ?_⟩
  · rw [hover, hzobj]
  · exact fun u k hk hn => (hobjs u k hk hn).trans (hzobj u k)
  · have hqueue : y.queue = z.queue := by rw [hfields]
    rw [hqueue]
    exact hall

/-! ### The commit of a list (R139, R140) -/

/-- The list is not one that a Timetable can take (R139). -/
def ttListBad (s : State) (u : Nat) : Bool :=
  decide (getObj s u Obj.timetableLength < 1 ∨ 64 < getObj s u Obj.timetableLength) || (adminList s u).any ttEntryBad ||
    decide (1000000000 < ttCycle (adminList s u))

/-- A live pass could not meet its bound under the list (R150). -/
def ttListFails (s : State) (u : Nat) : Bool :=
  flag s u Obj.timetableEnable && hasLive s u && !ttPassesOk s u (adminList s u)

/-- The state whose pending list is the admin list. -/
def ttPending (u : Nat) (s : State) : State :=
  modTT u (fun x => { x with
    pending := some ⟨adminList s u, ttStartAt s.time.timeBase (getObj s u Obj.timetableBase) (ttCycle (adminList s u))⟩ }) s

theorem commitTT_cases (u : Nat) (s : State) :
    (ttListBad s u = true → commitTT u s = setObj u Obj.timetableCommitResult stBadFormat s) ∧
    (ttListBad s u = false → ttListFails s u = true → commitTT u s = setObj u Obj.timetableCommitResult stRefusedAdmission s) ∧
    (ttListBad s u = false → ttListFails s u = false → commitTT u s = setObj u Obj.timetableCommitResult stOk
      (takeTileBounds u (if flag s u Obj.timetableEnable then some (adminList s u) else none) (ttPending u s))) := by
  have hbad : ttListBad s u = true ↔ getObj s u Obj.timetableLength < 1 ∨ getObj s u Obj.timetableLength > 64 ∨
      (adminList s u).any ttEntryBad ∨ ttCycle (adminList s u) > 1000000000 := by
    unfold ttListBad
    generalize adminList s u = l
    simp only [Bool.or_eq_true, decide_eq_true_eq, or_assoc, gt_iff_lt]
  have hfails : ttListFails s u = true ↔ flag s u Obj.timetableEnable ∧ hasLive s u ∧ ¬ ttPassesOk s u (adminList s u) := by
    unfold ttListFails
    generalize adminList s u = l
    simp only [Bool.and_eq_true, Bool.not_eq_true', Bool.not_eq_true, and_assoc]
  rw [← Bool.not_eq_true, ← Bool.not_eq_true, hbad, hfails]
  unfold commitTT
  dsimp -proj only
  exact ⟨fun h => if_pos h, fun h h' => (if_neg h).trans (if_pos h'), fun h h' => (if_neg h).trans (if_neg h')⟩

theorem ttListBad_fresh (s : State) (u : Nat) : ttListBad (fresh s) u = ttListBad s u := rfl

theorem ttListFails_fresh (s : State) (u : Nat) : ttListFails (fresh s) u = ttListFails s u := rfl

/-- A commit stores its result on a state that may have another Timetable and other bounds. -/
theorem answers_commit {cmd : Instr} {st : Nat} {y : State} (hst : st < 256)
    (hact : exec cmd s = run (fun x => answer stOk (commitTT t.val x)) s)
    (hrun : commitTT t.val (fresh s) = setObj t.val Obj.timetableCommitResult st y)
    (hy : y = { fresh s with tt := y.tt, passes := y.passes }) :
    Answers cmd s (fun s' => s'.out = { status := stOk } ∧ getObj s' t.val Obj.timetableCommitResult = st ∧
      OtherObjects s s' [(t.val, Obj.timetableCommitResult)] ∧ s'.tt = y.tt ∧ s'.passes = y.passes ∧
      s' = { s with dict := s'.dict, tt := s'.tt, passes := s'.passes, out := s'.out }) := by
  have hbits : objBits Obj.timetableCommitResult = 8 := by decide +kernel
  have hframe : ObjsOnly (fun w k => (w, k) ∈ [(t.val, Obj.timetableCommitResult)]) y
      (setObj t.val Obj.timetableCommitResult st y) := ObjsOnly.set _ (by decide) (List.mem_singleton.mpr rfl) y
  have hvalue : getObj (setObj t.val Obj.timetableCommitResult st y) t.val Obj.timetableCommitResult = st := by
    rw [getObj_setObj_same, hbits]
    exact Nat.mod_eq_of_lt hst
  revert hrun hframe hvalue
  generalize setObj t.val Obj.timetableCommitResult st y = z
  intro hrun hframe hvalue
  have hobj : ∀ u k, getObj y u k = getObj s u k := fun u k => by
    rw [hy]
    rfl
  have hall : answer stOk z = { s with dict := z.dict, tt := y.tt, passes := y.passes, out := { status := stOk } } := by
    rw [hframe.fields, hy]
    rfl
  refine answers_of_kept hact (congrArg (answer stOk) hrun) (by rw [hall]) (by rw [hall])
    ⟨by rw [hall], hvalue, fun u k hk hn => (hframe.objs u k hk hn).trans (hobj u k), by rw [hall], by rw [hall], by rw [hall]⟩

theorem answers_timetableCommit {v : BitVec 8} (hv : v.toNat = 1) :
    Answers (.timetableCommit t v) s (fun s' => s'.out = { status := stOk } ∧
      getObj s' t.val Obj.timetableCommitResult =
        (if ttListBad s t.val then stBadFormat else if ttListFails s t.val then stRefusedAdmission else stOk) ∧
      (ttListBad s t.val = true ∨ ttListFails s t.val = true → s'.tt = s.tt) ∧
      (ttListBad s t.val = false → ttListFails s t.val = false → getTT s' t.val = { getTT s t.val with
        pending := some ⟨adminList s t.val, ttStartAt s.time.timeBase (getObj s t.val Obj.timetableBase) (ttCycle (adminList s t.val))⟩ }) ∧
      OtherObjects s s' [(t.val, Obj.timetableCommitResult)] ∧
      (fwf (fun _ => ({} : Pass)) s.passes = true → ∀ k, AlikeButBound (fget ({} : Pass) s'.passes k) (fget {} s.passes k)) ∧
      s' = { s with dict := s'.dict, tt := s'.tt, passes := s'.passes, out := s'.out }) := by
  have hact := (boolCommand_cases (exec_timetableCommit t v s)).2.2 hv
  obtain ⟨hbad, hfails, hok⟩ := commitTT_cases t.val (fresh s)
  rw [ttListBad_fresh, ttListFails_fresh] at *
  by_cases hb : ttListBad s t.val = true
  · obtain ⟨s', hexec, hout, hresult, hother, htt, hpass, hfields⟩ := answers_commit (by decide) hact (hbad hb) rfl
    refine ⟨s', hexec, hout, hresult.trans (if_pos hb).symm, fun _ => htt, fun h => ?_, hother, fun _ k => by rw [hpass]; rfl, hfields⟩
    exact absurd hb (by rw [h]; exact Bool.false_ne_true)
  · have hb' := Bool.eq_false_iff.mpr hb
    by_cases hf : ttListFails s t.val = true
    · obtain ⟨s', hexec, hout, hresult, hother, htt, hpass, hfields⟩ := answers_commit (by decide) hact (hfails hb' hf) rfl
      refine ⟨s', hexec, hout, hresult.trans ((if_neg hb).trans (if_pos hf)).symm, fun _ => htt, fun _ h => ?_, hother,
        fun _ k => by rw [hpass]; rfl, hfields⟩
      exact absurd hf (by rw [h]; exact Bool.false_ne_true)
    · have hf' := Bool.eq_false_iff.mpr hf
      have hrun := hok hb' hf'
      revert hrun
      generalize (if flag (fresh s) t.val Obj.timetableEnable then some (adminList (fresh s) t.val) else none) = tt
      intro hrun
      have hbounds := takeTileBounds_fields t.val tt (ttPending t.val (fresh s))
      have halike := alikeButBound_takeTileBounds (s := ttPending t.val (fresh s)) (t := t.val) (tt := tt)
      revert hrun hbounds halike
      generalize takeTileBounds t.val tt (ttPending t.val (fresh s)) = y
      intro hrun hbounds halike
      have htaken : y.tt = (ttPending t.val (fresh s)).tt := by rw [hbounds]
      obtain ⟨s', hexec, hout, hresult, hother, htt, hpass, hfields⟩ := answers_commit (by decide) hact hrun (hbounds.trans (by rw [hbounds]; rfl))
      refine ⟨s', hexec, hout, hresult.trans ((if_neg hb).trans (if_neg hf)).symm, fun h => absurd h (not_or.mpr ⟨hb, hf⟩), fun _ _ => ?_,
        hother, fun h k => by rw [hpass]; exact halike h k, hfields⟩
      unfold getTT
      rw [htt, htaken]
      exact getTT_modTT _ _ _

/-- Settles O27: a commit puts the admin list behind the running one or tells why not; at its start, and where its entries
change, the gates follow the list and the fragments still running are counted. -/
theorem timetablesRun : Obligations.TimetablesRun := by
  unfold Obligations.TimetablesRun
  intro _
  refine ⟨fun t v s => ?_, fun t s => ⟨fun h => ?_, fun p hp => ⟨fun h => ?_, answers_timetableStart hp⟩⟩, fun t s => ⟨fun h => ?_, answers_gateChange⟩⟩
  · obtain ⟨hbad, hnone, -⟩ := boolCommand_cases (exec_timetableCommit t v s)
    exact ⟨answers_timetableCommit, hnone, hbad⟩
  · refine noEffect_run (exec_timetableStart t s) ?_
    unfold startTT
    rw [show (getTT (fresh s) t.val).pending = none from h]
  · refine noEffect_run (exec_timetableStart t s) ?_
    unfold startTT
    rw [show (getTT (fresh s) t.val).pending = some p from hp]
    exact if_pos h
  · exact noEffect_run (exec_gateChange t s) (if_pos (Option.isNone_iff_eq_none.mpr h))

end

end Sys2Proof.Machine

/-! ## Proofs: a request of the block map that goes on when bring-up ends -/

namespace Sys2Proof.Machine

open Sys2Proof

/-- The block map of a tile in reset does no more than feed its ingress when it is woken without work of its own. -/
theorem mapWake_inReset {s : State} {t : Nat} (hmap : getMap s t = {}) (hreset : inReset s t = true) : mapWake t s = feedMap t s := by
  have htake : jobsTake t s = s := by
    unfold jobsTake
    rw [hmap]
    rfl
  have hheld : wakeHeld t none s = s := if_pos (by unfold mapHalted; rw [hreset, Bool.or_true])
  have hpump : mapPump t 64 s = s := by
    rw [mapPump, hmap]
    exact ite_self _
  unfold mapWake mapWakeFor
  rw [htake, hheld, hpump]

/-- A fold whose steps before the last do nothing. -/
theorem foldl_range_last {α : Type} {f : α → Nat → α} {n : Nat} {s : α} (h : ∀ t < n, f s t = s) :
    (List.range (n + 1)).foldl f s = f s n := by
  rw [List.range_succ, List.foldl_append]
  refine congrArg (fun x => f x n) ?_
  induction n with
  | zero => rfl
  | succ n ih =>
    rw [List.range_succ, List.foldl_append, ih fun t ht => h t (Nat.lt_succ_of_lt ht)]
    exact h n (Nat.lt_succ_self n)

/-- Where every tile is in reset and none has work at its block map but the last, that one alone goes on. -/
theorem wakeAll_last {s : State} (hmap : s.map = []) (hreset : ∀ t < 64, inReset s t = true) (hquiet : ∀ t < 63, mapQuiet s t) :
    wakeAll s = feedMap 63 s := by
  have hnone : ∀ t, getMap s t = {} := fun t => by
    unfold getMap
    rw [hmap]
    rfl
  exact (foldl_range_last (n := 63) (f := fun s t => mapWake t s) fun t ht =>
    (mapWake_inReset (hnone t) (hreset t (by omega))).trans (feedMap_quiet (hquiet t ht))).trans
    (mapWake_inReset (hnone 63) (hreset 63 (by decide)))

/-- The number of a pass whose PassNonConforming in tile 63 would be BringupPhase. -/
def phasePass : Nat := 2 ^ 24 + Obj.bringupPhase - Obj.passNonConforming

/-- The last phase of bring-up: a request of the block map waits in tile 63; every tile is in reset and has a channel disabled. -/
def lastPhase : State :=
  mapWork 63 false [.req { strayRequest phasePass with addr := 63 * 2 ^ 34 }] (setObj dev Obj.bringupPhase 7
    { dict := (List.range 64).map (fun t => (okey t Obj.channelState, 4))
      treset := (List.range 64).map (fun t => (t, { kind := 1 })) })

/-- The device up, before the block maps go on. -/
def deviceUp (s : State) : State :=
  let warm := (List.range 64).all (fun t => (List.range 48).all (fun c =>
    decide (chState s t c = 4) || decide (getObj s t (Obj.channelBringupPath + c) = 1)))
  let s1 := setObj dev Obj.bringupPath (b2n warm)
    (setObj dev Obj.bringupTime (s.time.elapsed - s.resets.bringupStart) (setObj dev Obj.bringupPhase 0 s))
  let s2 := forTiles (fun t s =>
    setStackState t (resetEnds t ((List.range 4).foldl (fun s p => setObj t (Obj.portState + p) 1 s) s))) s1
  let edges := s2.count.pinEdges
  let s3 := { s2 with count := { s2.count with pinEdges := [] }, resets := { s2.resets with init := false } }
  let s3 := if (List.range 64).all (underTest s3) then s3
    else setObj dev Obj.stackTestState 0 { s3 with test := { s3.test with stack1838 := 0 } }
  forTiles (startMigrations 64) (edges.foldl (fun s e => snapEdge e s) s3)

theorem bringupDone_wakes (s : State) : bringupDone s = wakeAll (deviceUp s) := rfl

def lastUp : State := deviceUp (nextPhase 7 0 (fresh lastPhase))

/-- The request still waits when the device is up; it is then counted as nonconforming, in BringupPhase. -/
theorem lastUp_feeds : lastUp.map = [] ∧ lastUp.treset = lastPhase.treset ∧ lastUp.sched = lastPhase.sched ∧
    getObj (feedMap 63 lastUp) dev Obj.bringupPhase = 1 := by decide +kernel

theorem inReset_lastUp (t : Nat) (ht : t < 64) : inReset lastUp t = true := by
  have hall : ∀ u : Fin 64, inReset lastPhase u.val = true := by decide +kernel
  obtain ⟨-, htreset, -⟩ := lastUp_feeds
  unfold inReset getReset
  rw [htreset]
  exact hall ⟨t, ht⟩

theorem mapQuiet_lastUp (t : Nat) (ht : t < 63) : mapQuiet lastUp t := by
  have hall : ∀ u : Fin 63, getSched lastPhase u.val = {} := by decide +kernel
  obtain ⟨-, -, hsched, -⟩ := lastUp_feeds
  refine mapQuiet_congr hsched ?_
  unfold mapQuiet openReqs
  rw [hall ⟨t, ht⟩]
  exact ⟨rfl, rfl, fun r hr => absurd hr (List.not_mem_nil)⟩

theorem lastPhase_goes : getObj lastPhase dev Obj.bringupPhase = 7 ∧ tripped (fresh lastPhase) = false ∧
    ∀ t : Fin 64, inHold (fresh lastPhase) t.val = false := by decide +kernel

theorem notHeld_lastPhase : (List.range 64).any (inHold (fresh lastPhase)) = false := by
  obtain ⟨-, -, hhold⟩ := lastPhase_goes
  exact List.any_eq_false.mpr fun t ht => Bool.eq_false_iff.mp (hhold ⟨t, List.mem_range.mp ht⟩)

theorem phaseEnd_lastPhase : phaseEnd (fresh lastPhase) = feedMap 63 lastUp := by
  obtain ⟨hphase, htrip, -⟩ := lastPhase_goes
  have hnot : ¬ ((List.range 64).any (inHold (fresh lastPhase)) = true ∨
      (tripped (fresh lastPhase) = true ∧ 4 ≤ getObj (fresh lastPhase) dev Obj.bringupPhase ∧
        getObj (fresh lastPhase) dev Obj.bringupPhase ≤ 6)) := by
    rw [notHeld_lastPhase, htrip]
    simp
  unfold phaseEnd
  dsimp only
  rw [if_neg hnot, getObj_fresh, hphase]
  obtain ⟨hmap, -⟩ := lastUp_feeds
  exact (bringupDone_wakes _).trans (wakeAll_last hmap inReset_lastUp mapQuiet_lastUp)

theorem exec_next_inj {c : Instr} {s a b : State} (h : exec c s = .next a) (h' : exec c s = .next b) : a = b := by
  rw [h] at h'
  injection h'

theorem exec_bringupPhaseEnd_eq (s : State) : exec .bringupPhaseEnd s = .next (sameTime s (phaseEnd (fresh s))) := rfl

theorem bringupPhase_lastPhase {s' : State} (h : exec .bringupPhaseEnd lastPhase = .next s') :
    getObj s' dev Obj.bringupPhase = 1 := by
  have hexec : exec .bringupPhaseEnd lastPhase = .next (sameTime lastPhase (feedMap 63 lastUp)) := by
    rw [exec_bringupPhaseEnd_eq, phaseEnd_lastPhase]
  obtain ⟨-, -, -, hcounted⟩ := lastUp_feeds
  obtain rfl : s' = sameTime lastPhase (feedMap 63 lastUp) := exec_next_inj h hexec
  exact (getObj_sameTime _ _ _ _).trans hcounted

/-- Refutes O55: where a request that waits in a block map names a pass beyond the pass table (`lastPhase`), it is counted in
the object that follows PassNonConforming by that number when bring-up ends: in BringupPhase, which the statement has 0. -/
theorem not_powerOnWarmResetAndPhases : ¬ Obligations.PowerOnWarmResetAndPhases := by
  unfold Obligations.PowerOnWarmResetAndPhases
  rintro ⟨-, -, hphases⟩
  obtain ⟨hphase, -, -⟩ := lastPhase_goes
  obtain ⟨-, -, -, -, hlast⟩ := hphases lastPhase
  have hheld : ((List.range 64).any (inHold lastPhase) || (tripped lastPhase &&
      decide (4 ≤ getObj lastPhase dev Obj.bringupPhase ∧ getObj lastPhase dev Obj.bringupPhase ≤ 6))) = false := by
    rw [hphase]
    exact Bool.or_eq_false_iff.mpr ⟨notHeld_lastPhase, Bool.and_eq_false_imp.mpr fun _ => rfl⟩
  obtain ⟨s', hexec, ⟨hzero, -⟩, -⟩ := hlast hheld hphase
  exact absurd (hzero.symm.trans (bringupPhase_lastPhase hexec)) (by decide)

end Sys2Proof.Machine

/-! ## Proofs: what resets within a tile leave alone -/

namespace Sys2Proof.Machine

open Sys2Proof

/-! ### Frames of a reset's work -/

/-- What the work of a reset leaves of a channel's layer: its memory's form and its trims. -/
def LayerKept (l l' : LayerS) : Prop := l'.base = l.base ∧ l'.trims = l.trims ∧ l'.logicTrims = l.logicTrims

/-- The resets, the tests, the clock and the memory, all of which clearing work leaves alone. -/
def steady (s : State) := (s.pending, s.time, s.treset, s.resets, s.test, s.dram, s.slate, s.inkwell)

/-- `s'` differs from `s` in no word of memory, no trim, no reset and no test under way, and in no object outside `K`. -/
structure Tends (K : Nat → Nat → Prop) (s s' : State) : Prop where
  rest : steady s' = steady s
  layers : ∀ k, LayerKept (fget {} s.layer k) (fget {} s'.layer k)
  objs : ∀ u k, k < 2 ^ 24 → ¬ K u k → getObj s' u k = getObj s u k

/-- Nor in a pass or an engine. -/
structure Clears (K : Nat → Nat → Prop) (s s' : State) : Prop extends Tends K s s' where
  passes : s'.passes = s.passes
  engine : s'.engine = s.engine

section
variable {K : Nat → Nat → Prop} {a b c s : State}

theorem Tends.refl (K : Nat → Nat → Prop) (s : State) : Tends K s s := ⟨rfl, fun _ => ⟨rfl, rfl, rfl⟩, fun _ _ _ _ => rfl⟩

theorem Tends.trans (h : Tends K a b) (h' : Tends K b c) : Tends K a c := by
  refine ⟨h'.rest.trans h.rest, fun k => ?_, fun u k hk hn => (h'.objs u k hk hn).trans (h.objs u k hk hn)⟩
  obtain ⟨hbase, htrims, hlogic⟩ := h.layers k
  obtain ⟨hbase', htrims', hlogic'⟩ := h'.layers k
  exact ⟨hbase'.trans hbase, htrims'.trans htrims, hlogic'.trans hlogic⟩

theorem Tends.mono {K' : Nat → Nat → Prop} (h : Tends K a b) (hK : ∀ u k, K u k → K' u k) : Tends K' a b :=
  ⟨h.rest, h.layers, fun u k hk hn => h.objs u k hk fun e => hn (hK u k e)⟩

theorem Tends.sameWords (h : Tends K a b) : SameWords a b := by
  obtain ⟨-, -, -, -, -, hdram, hslate, hinkwell⟩ := by simpa only [steady, Prod.mk.injEq] using h.rest
  exact ⟨hdram, fun k => (h.layers k).1, hslate, hinkwell⟩

theorem Tends.time (h : Tends K a b) : b.time = a.time := by
  obtain ⟨-, htime, -⟩ := by simpa only [steady, Prod.mk.injEq] using h.rest
  exact htime

theorem Tends.treset (h : Tends K a b) : b.treset = a.treset := by
  obtain ⟨-, -, htreset, -⟩ := by simpa only [steady, Prod.mk.injEq] using h.rest
  exact htreset

theorem Tends.resets (h : Tends K a b) : b.resets = a.resets := by
  obtain ⟨-, -, -, hresets, -⟩ := by simpa only [steady, Prod.mk.injEq] using h.rest
  exact hresets

theorem Tends.test (h : Tends K a b) : b.test = a.test := by
  obtain ⟨-, -, -, -, htest, -⟩ := by simpa only [steady, Prod.mk.injEq] using h.rest
  exact htest

theorem Tends.pending (h : Tends K a b) : b.pending = a.pending := by
  obtain ⟨hpending, -⟩ := by simpa only [steady, Prod.mk.injEq] using h.rest
  exact hpending

theorem Tends.trimsInUse (h : Tends K a b) (t c : Nat) : trimsInUse b t c = trimsInUse a t c := by
  obtain ⟨-, htrims, hlogic⟩ := h.layers (chKey t c)
  exact trimsInUse_congr htrims hlogic

theorem Tends.after (h' : Tends K b c) (h : Tends K a b) : Tends K a c := h.trans h'

/-- What writes no object. -/
theorem tends_of (hdict : b.dict = a.dict) (hrest : steady b = steady a) (hlayer : b.layer = a.layer) : Tends K a b :=
  ⟨hrest, fun k => by rw [hlayer]; exact ⟨rfl, rfl, rfl⟩, fun u k _ _ => getObj_congr hdict u k⟩

theorem tends_setObj {u k : Nat} (hk : k < 2 ^ 24) (hK : K u k) (v : Nat) (s : State) : Tends K s (setObj u k v s) :=
  ⟨rfl, fun _ => ⟨rfl, rfl, rfl⟩, (ObjsOnly.set v hk hK s).objs⟩

theorem tends_foldl {α : Type} {f : State → α → State} {l : List α} (hf : ∀ x, ∀ i ∈ l, Tends K x (f x i)) (s : State) :
    Tends K s (l.foldl f s) := by
  induction l generalizing s with
  | nil => exact .refl K s
  | cons i l ih => exact (hf s i (by simp)).trans (ih (fun x j hj => hf x j (by simp [hj])) _)

theorem Relays.tends {L : List Nat} (h : Relays L a b) : Tends (fun _ k => k / 256 ∈ L) a b := by
  refine ⟨?_, fun k => ?_, h.objs⟩
  · rw [h.fields]
    rfl
  · rw [h.fields]
    exact ⟨rfl, rfl, rfl⟩

theorem Clears.refl (K : Nat → Nat → Prop) (s : State) : Clears K s s := ⟨.refl K s, rfl, rfl⟩

theorem Clears.trans (h : Clears K a b) (h' : Clears K b c) : Clears K a c :=
  ⟨h.toTends.trans h'.toTends, h'.passes.trans h.passes, h'.engine.trans h.engine⟩

theorem Clears.mono {K' : Nat → Nat → Prop} (h : Clears K a b) (hK : ∀ u k, K u k → K' u k) : Clears K' a b :=
  ⟨h.toTends.mono hK, h.passes, h.engine⟩

theorem Clears.after (h' : Clears K b c) (h : Clears K a b) : Clears K a c := h.trans h'

/-- What writes no object, no pass and no engine. -/
theorem clears_of (hdict : b.dict = a.dict) (hrest : steady b = steady a)
    (hparts : (b.layer, b.passes, b.engine) = (a.layer, a.passes, a.engine)) : Clears K a b := by
  simp only [Prod.mk.injEq] at hparts
  obtain ⟨hlayer, hpasses, hengine⟩ := hparts
  exact ⟨tends_of hdict hrest hlayer, hpasses, hengine⟩

theorem clears_setObj {u k : Nat} (hk : k < 2 ^ 24) (hK : K u k) (v : Nat) (s : State) : Clears K s (setObj u k v s) :=
  ⟨tends_setObj hk hK v s, rfl, rfl⟩

theorem clears_foldl {α : Type} {f : State → α → State} {l : List α} (hf : ∀ x, ∀ i ∈ l, Clears K x (f x i)) (s : State) :
    Clears K s (l.foldl f s) := by
  induction l generalizing s with
  | nil => exact .refl K s
  | cons i l ih => exact (hf s i (by simp)).trans (ih (fun x j hj => hf x j (by simp [hj])) _)

theorem clears_forChans {f : Nat → State → State} (hf : ∀ c x, Clears K x (f c x)) (s : State) : Clears K s (forChans f s) :=
  clears_foldl (fun x c _ => hf c x) s

theorem clears_ite (p : Prop) [Decidable p] (hb : Clears K a b) (hc : Clears K a c) : Clears K a (if p then b else c) := by
  split
  · exact hb
  · exact hc

theorem Relays.clears {L : List Nat} (h : Relays L a b) : Clears (fun _ k => k / 256 ∈ L) a b :=
  ⟨h.tends, by rw [h.fields], by rw [h.fields]⟩

end

/-! ### Queued work -/

section
variable {K : Nat → Nat → Prop} {t : Nat}

theorem clears_modReq (id : Nat) (f : Req → Req) (s : State) : Clears K s (modReq t id f s) := clears_of rfl rfl rfl

theorem clears_batchEnds (c : Nat) (s : State) : Clears K s (batchEnds t c s) :=
  clears_ite _ (clears_of rfl rfl rfl) (.refl K s)

theorem clears_mergeSettle (c i : Nat) (s : State) : Clears K s (mergeSettle t c i s) :=
  clears_ite _ (clears_of rfl rfl rfl) (.refl K s)

theorem clears_discardQueue (c : Nat) (p : Acc → Bool) (s : State) : Clears K s (discardQueue t c p s) := by
  unfold discardQueue
  dsimp only
  refine (clears_foldl (fun x i _ => clears_ite _ (clears_mergeSettle c i x) (.refl K x)) _).after ?_
  refine (clears_foldl (fun x a _ => clears_foldl (fun y id _ => clears_modReq id reqRetry y) x) _).after ?_
  exact (clears_batchEnds c _).after (clears_of rfl rfl rfl)

theorem clears_discardMerges (p : Merge → Bool) (s : State) : Clears K s (discardMerges t p s) :=
  clears_foldl (fun x i _ => clears_ite _ ((clears_of rfl rfl rfl : Clears K x (setMerge t i {} x)).trans
    (clears_foldl (fun y id _ => clears_modReq id reqRetry y) _)) (.refl K x)) s

theorem clears_discardWaiting (p : Req → Bool) (s : State) : Clears K s (discardWaiting t p s) := clears_of rfl rfl rfl

theorem clears_mapRefuse (r : Req) (st hint : Nat) (s : State) : Clears K s (mapRefuse t r st hint s) :=
  clears_ite _ (clears_of rfl rfl rfl) (clears_of rfl rfl rfl)

end

/-- Objects of some indices of unit `t`, and those that reports and withdrawn messages count in. -/
def TileKey (t : Nat) (L : List Nat) (u k : Nat) : Prop := k / 256 ∈ 0xA013 :: noticeIndices ∨ (u = t ∧ k / 256 ∈ L)

section
variable {t : Nat} {L : List Nat}

theorem TileKey.mono {M : List Nat} (hL : L ⊆ M) (u k : Nat) (h : TileKey t L u k) : TileKey t M u k :=
  h.imp id fun h => ⟨h.1, hL h.2⟩

theorem clears_tileObj {k : Nat} (hk : k < 2 ^ 24) (hL : k / 256 ∈ L) (v : Nat) (s : State) : Clears (TileKey t L) s (setObj t k v s) :=
  clears_setObj hk (.inr ⟨rfl, hL⟩) v s

theorem clears_relays {M : List Nat} {a b : State} (h : Relays M a b) (hM : M ⊆ 0xA013 :: noticeIndices) : Clears (TileKey t L) a b :=
  h.clears.mono fun _ _ hk => .inl (hM hk)

theorem clears_failHeld (p : MapReq → Bool) (st hint : Nat) (s : State) :
    Clears (TileKey t [0x503C]) s (failHeld t p st hint s) := by
  have hheld : ∀ l, Clears (TileKey t [0x503C]) s (setHeld t l s) := fun l =>
    (clears_tileObj (k := Obj.heldRequests) (L := [0x503C]) (by decide) (by decide) l.length
      (modMap t (fun m => { m with held := l }) s)).after (clears_of rfl rfl rfl)
  exact (clears_foldl (fun x r _ => clears_mapRefuse r.req st hint x) _).after (hheld _)

/-! ### Regulators (R127) -/

/-- The indices of what a regulator counts. -/
def regulatorIndices : List Nat := [0x3020, 0x3021, 0x3022, 0x3023]

theorem clears_regCheck {r : Nat} (hr : r < 17) (s : State) : Clears (TileKey t regulatorIndices) s (regCheck t r s) := by
  have hkeys : ∀ j : Fin 17, Obj.overBudgetEntries + j.val < 2 ^ 24 ∧ (Obj.overBudgetEntries + j.val) / 256 ∈ regulatorIndices ∧
      Obj.overBudgetTime + j.val < 2 ^ 24 ∧ (Obj.overBudgetTime + j.val) / 256 ∈ regulatorIndices := by decide
  have hmine := hkeys ⟨r, hr⟩
  dsimp only at hmine
  obtain ⟨hentries, hin, htime, hin'⟩ := hmine
  unfold regCheck
  dsimp only
  refine clears_ite _ (clears_ite _ (.refl _ s) ?_) (clears_ite _ (.refl _ s) ?_)
  · exact (clears_tileObj hentries hin _ _).after (clears_of rfl rfl rfl)
  · exact (clears_tileObj htime hin' _ _).after (clears_of rfl rfl rfl)

theorem clears_regSet {r : Nat} (hr : r < 17) (n : Nat) (s : State) : Clears (TileKey t regulatorIndices) s (regSet t r n s) := by
  have hkeys : ∀ j : Fin 17, Obj.regulatorOutstanding + j.val < 2 ^ 24 ∧ (Obj.regulatorOutstanding + j.val) / 256 ∈ regulatorIndices ∧
      Obj.regulatorPeak + j.val < 2 ^ 24 ∧ (Obj.regulatorPeak + j.val) / 256 ∈ regulatorIndices := by decide
  have hmine := hkeys ⟨r, hr⟩
  dsimp only at hmine
  obtain ⟨hcount, hin, hpeak, hin'⟩ := hmine
  exact ((clears_tileObj hcount hin n s).trans (clears_tileObj hpeak hin' _ _)).trans (clears_regCheck hr _)

theorem clears_uncount (p : Req → Bool) (s : State) : Clears (TileKey t regulatorIndices) s (uncount t p s) := by
  unfold uncount
  dsimp only
  exact (clears_foldl (fun x r hr => clears_regSet (List.mem_range.mp hr) _ x) _).after (clears_of rfl rfl rfl)

/-! ### The sequencer's side, and the record of a reset (R383) -/

theorem clears_sequencerSideReset (s : State) : Clears (TileKey t [0xA016]) s (sequencerSideReset t s) := by
  unfold sequencerSideReset
  dsimp only
  refine (clears_relays (relays_pairsReset _) (by decide)).after ?_
  exact (clears_tileObj (k := Obj.sequencerEpoch) (L := [0xA016]) (by decide) (by decide) _ s).trans (clears_of rfl rfl rfl)

theorem clears_noteReset {code : Nat} (hlow : 1 ≤ code) (hhigh : code ≤ 8) (s : State) :
    Clears (TileKey t [0x9827, 0x9828]) s (noteReset t code s) := by
  have hkey : Obj.resetCounts + (code - 1) < 2 ^ 24 ∧ (Obj.resetCounts + (code - 1)) / 256 = 0x9828 := by
    simp only [Obj.resetCounts]
    omega
  exact (clears_tileObj hkey.1 (by rw [hkey.2]; decide) _ s).trans (clears_tileObj (k := Obj.resetCause) (by decide) (by decide) _ _)

theorem clears_resetReaches {code : Nat} (hlow : 1 ≤ code) (hhigh : code ≤ 8) (s : State) :
    Clears (TileKey t [0x9827, 0x9828]) s (resetReaches t code s) :=
  (clears_noteReset hlow hhigh s).trans (clears_relays (relays_addLog _ _ _ _ _ _ _) (by decide))

/-! ### Engines (R175, R233) -/

/-- The indices of what an engine's reset clears. -/
def engineIndices : List Nat := [0x400E, 0x4301, 0x4304, 0x4305, 0x430E, 0x430F, 0x4320]

theorem abandonGroup_cases (t a : Nat) (s : State) : abandonGroup t a s = s ∨
    ∃ f g, abandonGroup t a s = bump t (Obj.abandonedGroups + a) 1 (modEngine t a f (modArray t a g s)) := by
  unfold abandonGroup
  dsimp only
  split
  · exact .inl rfl
  · exact .inr ⟨_, _, rfl⟩

theorem tends_abandonGroup {a : Nat} (ha : a < 4) (s : State) : Tends (TileKey t engineIndices) s (abandonGroup t a s) := by
  have hkeys : ∀ j : Fin 4, Obj.abandonedGroups + j.val < 2 ^ 24 ∧ (Obj.abandonedGroups + j.val) / 256 ∈ engineIndices := by decide
  have hmine := hkeys ⟨a, ha⟩
  dsimp only at hmine
  obtain ⟨hlt, hin⟩ := hmine
  obtain h | ⟨f, g, h⟩ := abandonGroup_cases t a s
  · rw [h]
    exact .refl _ s
  · rw [h]
    exact (tends_setObj hlt (.inr ⟨rfl, hin⟩) _ _).after (tends_of rfl rfl rfl)

theorem engine_abandonGroup (a : Nat) (s : State) : ∀ k, k ≠ t * 6 + a →
    fget {} (abandonGroup t a s).engine k = fget {} s.engine k := by
  obtain h | ⟨f, g, h⟩ := abandonGroup_cases t a s
  · rw [h]
    exact fun _ _ => rfl
  · rw [h]
    exact fun k hk => fget_fupd_other _ _ _ _ hk

/-- The array part of an engine's reset. -/
def arrayReset (t e : Nat) (s : State) : State := if e < 4 then resetArray t e s else s

theorem tends_arrayReset (e : Nat) (s : State) : Tends (TileKey t engineIndices) s (arrayReset t e s) := by
  unfold arrayReset
  split
  · exact (tends_abandonGroup ‹_› s).trans (tends_of rfl rfl rfl)
  · exact .refl _ s

theorem passes_arrayReset (e : Nat) (s : State) : (arrayReset t e s).passes = s.passes := by
  unfold arrayReset
  split
  · obtain h | ⟨f, g, h⟩ := abandonGroup_cases t e s <;>
    · unfold resetArray
      rw [h]
      rfl
  · rfl

theorem engine_arrayReset (e : Nat) (s : State) : ∀ k, k ≠ t * 6 + e →
    fget {} (arrayReset t e s).engine k = fget {} s.engine k := by
  unfold arrayReset
  split
  · exact engine_abandonGroup e s
  · exact fun _ _ => rfl

/-- The rest of an engine's reset: its operations and its objects. -/
def engineForgotten (t e : Nat) (s : State) : State :=
  let forget := fun (m : Nat) => modMover t m (fun x => { x with ops := [] })
  let z := fun (k : Nat) (s : State) => setObj t (k + e) 0 s
  setObj t (Obj.moverState + 2 * e) 0 (setObj t (Obj.moverState + (2 * e + 1)) 0
    (z Obj.engineHead (z Obj.engineTail (z Obj.completionProduced (z Obj.completionConsumed (z Obj.engineEnable
      (forget (2 * e) (forget (2 * e + 1) s))))))))

/-- The program of an engine gone. -/
def programGone (t e : Nat) (s : State) : State := { s with engine := fset {} s.engine (t * 6 + e) {} }

theorem resetEngine_eq (t e : Nat) (s : State) :
    resetEngine t e s = engineForgotten t e (programGone t e (arrayReset t e s)) := rfl

theorem clears_engineForgotten {e : Nat} (he : e < 6) (s : State) : Clears (TileKey t engineIndices) s (engineForgotten t e s) := by
  have hkeys : ∀ j : Fin 6, ∀ k ∈ [Obj.engineHead, Obj.engineTail, Obj.completionProduced, Obj.completionConsumed, Obj.engineEnable],
      k + j.val < 2 ^ 24 ∧ (k + j.val) / 256 ∈ engineIndices := by decide
  have hmovers : ∀ j : Fin 12, Obj.moverState + j.val < 2 ^ 24 ∧ (Obj.moverState + j.val) / 256 ∈ engineIndices := by decide
  have hzero : ∀ k ∈ [Obj.engineHead, Obj.engineTail, Obj.completionProduced, Obj.completionConsumed, Obj.engineEnable], ∀ x,
      Clears (TileKey t engineIndices) x (setObj t (k + e) 0 x) := fun k hk x =>
    clears_setObj (hkeys ⟨e, he⟩ k hk).1 (.inr ⟨rfl, (hkeys ⟨e, he⟩ k hk).2⟩) 0 x
  have hmover : ∀ j, j < 12 → ∀ x, Clears (TileKey t engineIndices) x (setObj t (Obj.moverState + j) 0 x) := fun j hj x =>
    clears_setObj (hmovers ⟨j, hj⟩).1 (.inr ⟨rfl, (hmovers ⟨j, hj⟩).2⟩) 0 x
  unfold engineForgotten
  dsimp only
  refine (hmover _ (by omega) _).after ((hmover _ (by omega) _).after ?_)
  refine (hzero _ (by simp) _).after ((hzero _ (by simp) _).after ((hzero _ (by simp) _).after ((hzero _ (by simp) _).after
    ((hzero _ (by simp) _).after ?_))))
  exact clears_of rfl rfl rfl

theorem tends_resetEngine {e : Nat} (he : e < 6) (s : State) : Tends (TileKey t engineIndices) s (resetEngine t e s) := by
  rw [resetEngine_eq]
  exact (clears_engineForgotten he _).toTends.after ((tends_arrayReset e s).trans (tends_of rfl rfl rfl))

theorem passes_resetEngine {e : Nat} (he : e < 6) (s : State) : (resetEngine t e s).passes = s.passes := by
  rw [resetEngine_eq]
  exact (clears_engineForgotten (t := t) he _).passes.trans (passes_arrayReset e s)

theorem engine_resetEngine {e : Nat} (he : e < 6) (s : State) : fget {} (resetEngine t e s).engine (t * 6 + e) = {} ∧
    ∀ k, k ≠ t * 6 + e → fget {} (resetEngine t e s).engine k = fget {} s.engine k := by
  have hkept := (clears_engineForgotten (t := t) he (programGone t e (arrayReset t e s))).engine
  rw [resetEngine_eq, hkept]
  exact ⟨fget_fset_same ({} : EngineS) _ _ {}, fun k hk =>
    (fget_fset_other ({} : EngineS) _ _ {} hk).trans (engine_arrayReset e s k hk)⟩

/-- The six engines of a tile in reset. -/
def resetEngines (t : Nat) (s : State) : State := (List.range 6).foldl (fun s e => resetEngine t e s) s

theorem tends_resetEngines (s : State) : Tends (TileKey t engineIndices) s (resetEngines t s) :=
  tends_foldl (fun x _ he => tends_resetEngine (List.mem_range.mp he) x) s

theorem passes_resetEngines (s : State) : (resetEngines t s).passes = s.passes := by
  unfold resetEngines
  exact foldl_range_keeps (part := fun x => x.passes) (fun x _ he => passes_resetEngine he x) s

theorem getEngine_resetEngines (s : State) : ∀ e < 6, getEngine (resetEngines t s) t e = {} := by
  unfold resetEngines
  exact foldl_range_puts (g := fun e x => getEngine x t e) (v := fun _ _ => {}) (fun _ x he => (engine_resetEngine he x).1)
    (fun i j x _ hj hne => (engine_resetEngine hj x).2 _ (by omega)) (fun _ _ _ _ _ _ => rfl) s

theorem engine_resetEngines {k : Nat} (hk : k / 6 ≠ t) (s : State) :
    fget {} (resetEngines t s).engine k = fget {} s.engine k := by
  unfold resetEngines
  exact foldl_range_keeps (part := fun x => fget ({} : EngineS) x.engine k)
    (fun x _ he => (engine_resetEngine he x).2 k (by omega)) s

end

end Sys2Proof.Machine

/-! ## Proofs: a partition reset in every tile -/

namespace Sys2Proof.Machine

open Sys2Proof

/-! ### Passes freed (R115, R384) -/

theorem mem_of_mem_fins {α : Type} {k : Nat} {v : α} {m : FMap α} {e : Nat × α} (h : e ∈ fins k v m) : e ∈ m ∨ e = (k, v) := by
  induction m with
  | nil => exact .inr (List.mem_singleton.mp h)
  | cons x m ih =>
    obtain ⟨k', v'⟩ := x
    unfold fins at h
    split_ifs at h
    · exact (List.mem_cons.mp h).symm
    · exact (List.mem_cons.mp h).symm.imp (List.mem_cons_of_mem _) id
    · rcases List.mem_cons.mp h with h | h
      · exact .inl (List.mem_cons.mpr (.inl h))
      · exact (ih h).imp (List.mem_cons_of_mem _) id

theorem mem_of_mem_fdel {α : Type} {k : Nat} {m : FMap α} {e : Nat × α} (h : e ∈ fdel k m) : e ∈ m ∧ e.1 ≠ k := by
  induction m with
  | nil => exact absurd h List.not_mem_nil
  | cons x m ih =>
    obtain ⟨k', v'⟩ := x
    unfold fdel at h
    split_ifs at h with hk
    · exact ⟨List.mem_cons_of_mem _ (ih h).1, (ih h).2⟩
    · rcases List.mem_cons.mp h with h | h
      · exact ⟨List.mem_cons.mpr (.inl h), by rw [h]; exact hk⟩
      · exact ⟨List.mem_cons_of_mem _ (ih h).1, (ih h).2⟩

theorem mem_of_mem_fset {α : Type} [DecidableEq α] {d v : α} {k : Nat} {m : FMap α} {e : Nat × α} (h : e ∈ fset d m k v) :
    e ∈ m ∨ e = (k, v) := by
  unfold fset at h
  split at h
  · exact .inl (mem_of_mem_fdel h).1
  · exact mem_of_mem_fins h

/-- Every pass of `m'` is one of `m` at the same key, with its state and its terms. -/
def Thinned (m m' : FMap Pass) : Prop :=
  ∀ e ∈ m', ∃ x ∈ m, x.1 = e.1 ∧ x.2.state = e.2.state ∧ x.2.terms = e.2.terms

theorem Thinned.refl (m : FMap Pass) : Thinned m m := fun e he => ⟨e, he, rfl, rfl, rfl⟩

theorem Thinned.trans {a b c : FMap Pass} (h : Thinned a b) (h' : Thinned b c) : Thinned a c := fun e he => by
  obtain ⟨x, hx, hkey, hstate, hterms⟩ := h' e he
  obtain ⟨y, hy, hkey', hstate', hterms'⟩ := h x hx
  exact ⟨y, hy, hkey'.trans hkey, hstate'.trans hstate, hterms'.trans hterms⟩

/-- Live passes that take their bounds stay what they are. -/
theorem thinned_takeAllBounds (s : State) : Thinned s.passes (takeAllBounds s).passes := by
  have hfold : ∀ (b : Nat × Nat × Pass → Nat) (l : List (Nat × Nat × Pass)) (x : State),
      (∀ e ∈ l, ∃ y ∈ s.passes, y.1 = e.1 * 256 + e.2.1 ∧ y.2 = e.2.2) → Thinned s.passes x.passes →
      Thinned s.passes (l.foldl (fun acc e => setPass e.1 e.2.1 { e.2.2 with computed := b e } acc) x).passes := by
    intro b l
    induction l with
    | nil => exact fun x _ hx => hx
    | cons e l ih =>
      refine fun x hl hx => ih _ (fun i hi => hl i (List.mem_cons_of_mem _ hi)) fun i hi => ?_
      rcases mem_of_mem_fset (d := ({} : Pass)) hi with hi | rfl
      · exact hx i hi
      · obtain ⟨y, hy, hkey, hpass⟩ := hl e List.mem_cons_self
        exact ⟨y, hy, hkey, by rw [hpass], by rw [hpass]⟩
  unfold takeAllBounds takeBounds
  refine hfold _ _ _ (fun e he => ?_) (.refl _)
  obtain ⟨y, hy, rfl⟩ := List.mem_map.mp he
  exact ⟨y, List.mem_of_mem_filter hy, by dsimp only; omega, rfl⟩

/-- No live pass of the tile is of the partition. -/
def NoPassOf (p t : Nat) (m : FMap Pass) : Prop := ∀ e ∈ m, e.1 / 256 = t → e.2.state ≠ 0 → cPartition e.2.terms ≠ p

theorem NoPassOf.thinned {p t : Nat} {m m' : FMap Pass} (h : NoPassOf p t m) (h' : Thinned m m') : NoPassOf p t m' :=
  fun e he ht hs => by
    obtain ⟨x, hx, hkey, hstate, hterms⟩ := h' e he
    rw [← hterms]
    exact h x hx (by rw [hkey]; exact ht) (by rw [hstate]; exact hs)

theorem NoPassOf.live {p t : Nat} {s : State} (h : NoPassOf p t s.passes) : ∀ e ∈ livePasses s t, cPartition e.2.terms ≠ p := by
  intro e he
  obtain ⟨x, hx, rfl⟩ := List.mem_map.mp he
  obtain ⟨hmem, hcond⟩ := List.mem_filter.mp hx
  obtain ⟨ht, hlive⟩ := of_decide_eq_true hcond
  unfold passLive at hlive
  have hstate := of_decide_eq_true hlive
  exact h x hmem ht (by omega)

/-- Freeing passes leaves the others. -/
theorem mem_freePasses {t : Nat} {l : List (Nat × Pass)} {e : Nat × Pass} (hl : ∀ x ∈ l, x.1 / 256 = t) : ∀ {s : State},
    e ∈ (l.foldl (fun s x => freePass t (x.1 % 256) s) s).passes → e ∈ s.passes ∧ ∀ x ∈ l, e.1 ≠ x.1 := by
  induction l with
  | nil => exact fun h => ⟨h, fun x hx => absurd hx List.not_mem_nil⟩
  | cons x l ih =>
    intro s h
    obtain ⟨hmem, hne⟩ := ih (fun y hy => hl y (List.mem_cons_of_mem _ hy)) h
    have hfree : (freePass t (x.1 % 256) s).passes = fdel (t * 256 + x.1 % 256) s.passes := by
      unfold freePass setPass fset
      dsimp only
      exact if_pos rfl
    rw [hfree] at hmem
    obtain ⟨hin, hkey⟩ := mem_of_mem_fdel hmem
    refine ⟨hin, fun y hy => ?_⟩
    rcases List.mem_cons.mp hy with rfl | hy
    · have hx := hl y List.mem_cons_self
      exact fun e' => hkey (by omega)
    · exact hne y hy

section
variable {t p : Nat}

theorem freePartition_fields (s : State) : freePartition t p s = { s with passes := (freePartition t p s).passes } := by
  have hfree : ∀ (l : List (Nat × Pass)) (x : State), l.foldl (fun s e => freePass t (e.1 % 256) s) x =
      { x with passes := (l.foldl (fun s e => freePass t (e.1 % 256) s) x).passes } := by
    intro l
    induction l with
    | nil => exact fun _ => rfl
    | cons e l ih => exact fun x => (ih _).trans rfl
  unfold freePartition
  dsimp only
  generalize s.passes.filter _ = l
  have hfields := hfree l s
  revert hfields
  generalize l.foldl (fun s e => freePass t (e.1 % 256) s) s = x
  intro hfields
  rw [takeAllBounds_fields x]
  rw [hfields]

theorem freePartition_passes (s : State) : Thinned s.passes (freePartition t p s).passes ∧
    NoPassOf p t (freePartition t p s).passes := by
  unfold freePartition
  dsimp only
  obtain ⟨l, hl⟩ : ∃ l, l = s.passes.filter (fun e => decide (e.1 / 256 = t ∧ e.2.state ≠ 0 ∧ cPartition e.2.terms = p)) := ⟨_, rfl⟩
  have hkeys : ∀ x ∈ l, x.1 / 256 = t := fun x hx => by
    rw [hl] at hx
    exact (of_decide_eq_true (List.mem_filter.mp hx).2).1
  rw [← hl]
  have hbounds := thinned_takeAllBounds (l.foldl (fun s e => freePass t (e.1 % 256) s) s)
  have hleft : Thinned s.passes (l.foldl (fun s e => freePass t (e.1 % 256) s) s).passes := fun e he =>
    ⟨e, (mem_freePasses hkeys he).1, rfl, rfl, rfl⟩
  refine ⟨hleft.trans hbounds, NoPassOf.thinned (fun e he ht hs hp => ?_) hbounds⟩
  obtain ⟨hmem, hne⟩ := mem_freePasses hkeys he
  exact hne e (by rw [hl]; exact List.mem_filter.mpr ⟨hmem, decide_eq_true ⟨ht, hs, hp⟩⟩) rfl

/-! ### Regulators of the partition (R127, R384) -/

theorem getSched_regSet (u r n : Nat) (s : State) : getSched (regSet u r n s) = getSched s := by
  have h := regCheck_rest (regSet u r n s).dict (regSet u r n s).overFrom u r
    (setObj u (Obj.regulatorPeak + r) (max (getObj (setObj u (Obj.regulatorOutstanding + r) n s) u (Obj.regulatorPeak + r)) n)
      (setObj u (Obj.regulatorOutstanding + r) n s))
  funext w
  unfold getSched
  exact congrArg (fun x : State => fget {} x.sched w) h

theorem regCount_regSet {r : Nat} (hr : r < 17) (n : Nat) (s : State) :
    regCount (regSet t r n s) t r = n % 2 ^ objBits (Obj.regulatorOutstanding + r) ∧
    ∀ i < 17, i ≠ r → regCount (regSet t r n s) t i = regCount s t i := by
  have hkeys : ∀ i < 17, Obj.regulatorOutstanding + i < 2 ^ 24 ∧ (t, Obj.regulatorOutstanding + i) ≠ (t, Obj.overBudgetEntries + r) ∧
      (t, Obj.regulatorOutstanding + i) ≠ (t, Obj.overBudgetTime + r) ∧ Obj.regulatorOutstanding + i ≠ Obj.regulatorPeak + r := by
    intro i hi
    simp only [Obj.regulatorOutstanding, Obj.overBudgetEntries, Obj.overBudgetTime, Obj.regulatorPeak, ne_eq, Prod.mk.injEq]
    omega
  have hpeak : Obj.regulatorPeak + r < 2 ^ 24 := by
    simp only [Obj.regulatorPeak]
    omega
  have hstep : ∀ i < 17, regCount (regSet t r n s) t i = getObj (setObj t (Obj.regulatorOutstanding + r) n s) t (Obj.regulatorOutstanding + i) := by
    intro i hi
    obtain ⟨hlt, hentries, htime, hother⟩ := hkeys i hi
    exact (getObj_regCheck hr hlt hentries htime _).trans (getObj_setObj_obj _ hother hlt hpeak)
  refine ⟨(hstep r hr).trans (getObj_setObj_same _ _ _ _), fun i hi hne => (hstep i hi).trans ?_⟩
  exact getObj_setObj_obj _ (by omega) (hkeys i hi).1 (hkeys r hr).1

/-- Once requests are uncounted, a regulator that counted none but those reads 0. -/
theorem regCount_uncount {q : Req → Bool} {s : State} {r : Nat} (hr : r < 17)
    (hall : ∀ x ∈ (getSched s t).reqs, x.counted = some r → q x = true) : regCount (uncount t q s) t r = 0 := by
  obtain ⟨x, hx⟩ : ∃ x, x = modSched t (fun x => { x with reqs := x.reqs.map (fun r => if q r then { r with counted := none } else r) }) s :=
    ⟨_, rfl⟩
  have hreqs : (getSched x t).reqs = (getSched s t).reqs.map (fun r => if q r then { r with counted := none } else r) := by
    rw [hx]
    exact openReqs_modSched t _ s
  have hnone : (getSched x t).reqs.filter (fun y => y.counted = some r) = [] := by
    rw [hreqs]
    refine List.filter_eq_nil_iff.mpr fun y hy hc => ?_
    obtain ⟨z, hz, rfl⟩ := List.mem_map.mp hy
    by_cases hq : q z = true
    · rw [if_pos hq] at hc
      exact absurd (of_decide_eq_true hc) (by simp)
    · rw [if_neg hq] at hc
      exact hq (hall z hz (of_decide_eq_true hc))
  have hfold := foldl_range_puts (f := fun s r => regSet t r ((getSched s t).reqs.filter (fun q => q.counted = some r)).length s) (n := 17)
    (g := fun r x => regCount x t r)
    (v := fun r x => ((getSched x t).reqs.filter (fun q => q.counted = some r)).length % 2 ^ objBits (Obj.regulatorOutstanding + r))
    (fun r x hr => (regCount_regSet hr _ x).1) (fun i j x hi hj hne => (regCount_regSet hj _ x).2 i hi hne)
    (fun i j x _ _ _ => by rw [getSched_regSet]) x r hr
  unfold uncount
  rw [← hx]
  refine hfold.trans ?_
  rw [hnone]
  exact Nat.zero_mod _

theorem rangeReg_of_objs {s s' : State} {t : Nat} (h : ∀ k, k / 256 = 0x3010 → k < 2 ^ 24 → getObj s' t k = getObj s t k) :
    ∀ i < 16, rangeReg s' t i = rangeReg s t i := fun i hi =>
  h _ (by simp only [Obj.rangeRegister]; omega) (by simp only [Obj.rangeRegister]; omega)

theorem regCount_partition {s : State} {r : Nat} (hr : r < 16) (hp : rrPart (rangeReg s t r) = p) :
    regCount (uncount t (countsIn s t p) s) t r = 0 := by
  refine regCount_uncount (by omega) fun x _ hx => ?_
  unfold countsIn
  rw [hx]
  exact Bool.or_eq_true_iff.mpr (.inr (decide_eq_true ⟨hr, hp⟩))

/-! ### What a partition reset does in one tile -/

/-- A request carries the partition. -/
def ofPartition (p : Nat) (r : Req) : Bool := decide (r.part = p ∧ r.orig ≠ 0x60)

/-- An access not yet issued belongs to such a request. -/
def partitionAcc (p t : Nat) (s : State) (a : Acc) : Bool :=
  decide (a.stage = 0) && a.reqs.any (fun i => (((getSched s t).reqs.filter (ofPartition p)).map (fun r => r.id)).contains i)

/-- The work of the partition discarded. -/
def partitionDiscarded (p t : Nat) (s : State) : State :=
  discardWaiting t (ofPartition p) (discardMerges t (fun m => decide (m.part = p))
    (forChans (fun c x => discardQueue t c (partitionAcc p t s) x) s))

/-- Its work discarded and its passes freed. -/
def partitionFreed (p t : Nat) (s : State) : State := freePartition t p (partitionDiscarded p t s)

/-- Its requests counted no more, and those held answered. -/
def partitionCounted (p t : Nat) (s : State) : State :=
  let s3 := uncount t (countsIn s t p) s
  failHeld t (fun r => decide ((getEntry s3 t r.entry).part = p)) stRetry 30000 s3

/-- The engines and the sequencer of a tile that the partition holds alone. -/
def partitionAlone (alone : Bool) (t : Nat) (s : State) : State :=
  if alone then sequencerSideReset t (resetEngines t s) else s

theorem partitionTile_eq (p t : Nat) (s : State) : partitionTile p t s =
    resetReaches t 3 (partitionAlone (holdsAlone s p t) t (partitionCounted p t (partitionFreed p t s))) := rfl

/-- The indices of what a partition reset writes in a tile. -/
def partitionIndices : List Nat := [0x503C, 0xA016, 0x9827, 0x9828] ++ regulatorIndices ++ engineIndices

theorem clears_partitionDiscarded {K : Nat → Nat → Prop} (s : State) : Clears K s (partitionDiscarded p t s) := by
  unfold partitionDiscarded
  exact (clears_discardWaiting _ _).after ((clears_discardMerges _ _).after
    (clears_forChans (fun c x => clears_discardQueue c _ x) s))

/-- What changes the passes alone. -/
theorem tends_passes {K : Nat → Nat → Prop} {x y : State} (h : y = { x with passes := y.passes }) :
    Tends K x y ∧ y.engine = x.engine := by
  have hdict : y.dict = x.dict := by rw [h]
  have hsteady : steady y = steady x := by
    rw [h]
    rfl
  have hlayer : y.layer = x.layer := by rw [h]
  have hengine : y.engine = x.engine := by rw [h]
  exact ⟨tends_of hdict hsteady hlayer, hengine⟩

theorem partitionFreed_clears {K : Nat → Nat → Prop} (s : State) : Tends K s (partitionFreed p t s) ∧
    (partitionFreed p t s).engine = s.engine ∧ Thinned s.passes (partitionFreed p t s).passes ∧
    NoPassOf p t (partitionFreed p t s).passes := by
  have hwork := clears_partitionDiscarded (K := K) (p := p) (t := t) s
  obtain ⟨hthin, hnone⟩ := freePartition_passes (t := t) (p := p) (partitionDiscarded p t s)
  have hfreed := tends_passes (K := K) (freePartition_fields (t := t) (p := p) (partitionDiscarded p t s))
  rw [hwork.passes] at hthin
  exact ⟨hwork.toTends.trans hfreed.1, hfreed.2.trans hwork.engine, hthin, hnone⟩

theorem partitionCounted_clears (s : State) : Clears (TileKey t (0x503C :: regulatorIndices)) s (partitionCounted p t s) ∧
    ∀ r < 16, rrPart (rangeReg s t r) = p → regCount (partitionCounted p t s) t r = 0 := by
  have hun := clears_uncount (t := t) (countsIn s t p) s
  have hheld := clears_failHeld (t := t) (fun r => decide ((getEntry (uncount t (countsIn s t p) s) t r.entry).part = p)) stRetry 30000
    (uncount t (countsIn s t p) s)
  refine ⟨(hun.mono (TileKey.mono (by decide))).trans (hheld.mono (TileKey.mono (by decide))), fun r hr hp => ?_⟩
  refine (hheld.objs t _ ?_ ?_).trans (regCount_partition hr hp)
  · simp only [Obj.regulatorOutstanding]
    omega
  · simp only [TileKey, Obj.regulatorOutstanding, noticeIndices, List.mem_cons, List.not_mem_nil, or_false, true_and]
    omega

theorem getObj_sequencerEpoch (s : State) :
    getObj (sequencerSideReset t s) t Obj.sequencerEpoch = (getObj s t Obj.sequencerEpoch + 1) % 64 := by
  have hbits : objBits Obj.sequencerEpoch = 8 := by decide +kernel
  unfold sequencerSideReset
  dsimp only
  refine ((relays_pairsReset _).objs t Obj.sequencerEpoch (by decide) (by decide)).trans ?_
  refine (getObj_setObj_same s t Obj.sequencerEpoch _).trans ?_
  rw [hbits]
  omega

theorem partitionAlone_clears (alone : Bool) (s : State) : Tends (TileKey t ([0xA016] ++ engineIndices)) s (partitionAlone alone t s) ∧
    (partitionAlone alone t s).passes = s.passes ∧
    (∀ k, k / 6 ≠ t → fget {} (partitionAlone alone t s).engine k = fget {} s.engine k) ∧
    (alone = true → (∀ e < 6, getEngine (partitionAlone alone t s) t e = {}) ∧
      getObj (partitionAlone alone t s) t Obj.sequencerEpoch = (getObj s t Obj.sequencerEpoch + 1) % 64) := by
  unfold partitionAlone
  split
  · have hengines := tends_resetEngines (t := t) s
    have hseq := clears_sequencerSideReset (t := t) (resetEngines t s)
    refine ⟨(hengines.mono (TileKey.mono (by decide))).trans (hseq.toTends.mono (TileKey.mono (by decide))),
      hseq.passes.trans (passes_resetEngines s), fun k hk => ?_, fun _ => ⟨fun e he => ?_, ?_⟩⟩
    · rw [hseq.engine]
      exact engine_resetEngines hk s
    · unfold getEngine
      rw [hseq.engine]
      exact getEngine_resetEngines s e he
    · rw [getObj_sequencerEpoch, hengines.objs t Obj.sequencerEpoch (by decide) (by simp only [TileKey, true_and]; decide)]
  · exact ⟨.refl _ s, rfl, fun _ _ => rfl, fun h => absurd h ‹_›⟩

theorem getObj_noteReset {code : Nat} (hlow : 1 ≤ code) (hhigh : code ≤ 8) (s : State) :
    getObj (resetReaches t code s) t Obj.resetCause = code ∧
    getObj (resetReaches t code s) t (Obj.resetCounts + (code - 1)) = (getObj s t (Obj.resetCounts + (code - 1)) + 1) % 2 ^ 32 := by
  have hcounts : ∀ i : Fin 8, objBits (Obj.resetCounts + i.val) = 32 ∧ Obj.resetCounts + i.val < 2 ^ 24 ∧
      (Obj.resetCounts + i.val) / 256 ∉ noticeIndices ∧ Obj.resetCounts + i.val ≠ Obj.resetCause := by decide +kernel
  have hcause : objBits Obj.resetCause = 8 := by decide +kernel
  have hmine := hcounts ⟨code - 1, by omega⟩
  dsimp only at hmine
  obtain ⟨hbits, hlt, hquiet, hne⟩ := hmine
  have hlog := relays_addLog t 0x0C 3 stOk code 0 (noteReset t code s)
  refine ⟨(hlog.objs t _ (by decide) (by decide)).trans ?_, (hlog.objs t _ hlt hquiet).trans ?_⟩
  · refine (getObj_setObj_same _ _ _ _).trans ?_
    rw [hcause]
    omega
  · refine (getObj_setObj_obj _ hne hlt (by decide)).trans ?_
    exact (getObj_setObj_same _ _ _ _).trans (by rw [hbits])

/-- What a partition reset leaves of a tile that no larger reset holds. -/
structure TileParted (p t : Nat) (s s' : State) : Prop where
  cause : getObj s' t Obj.resetCause = 3
  counted : getObj s' t (Obj.resetCounts + 2) = (getObj s t (Obj.resetCounts + 2) + 1) % 2 ^ 32
  passes : NoPassOf p t s'.passes
  regs : ∀ r < 16, rrPart (rangeReg s t r) = p → regCount s' t r = 0
  alone : holdsAlone s p t = true → (∀ e < 6, getEngine s' t e = {}) ∧
    getObj s' t Obj.sequencerEpoch = (getObj s t Obj.sequencerEpoch + 1) % 64

/-- What it does not touch: other tiles, but for reports and withdrawn messages. -/
structure TileOnly (t : Nat) (s s' : State) : Prop extends Tends (TileKey t partitionIndices) s s' where
  engines : ∀ k, k / 6 ≠ t → fget {} s'.engine k = fget {} s.engine k
  thinned : Thinned s.passes s'.passes

theorem partitionTile_spec (p t : Nat) (s : State) :
    TileOnly t s (partitionTile p t s) ∧ TileParted p t s (partitionTile p t s) := by
  rw [partitionTile_eq]
  generalize halone : holdsAlone s p t = alone
  obtain ⟨hfreed, hengine, hthin, hnone⟩ := partitionFreed_clears (t := t) (p := p) (K := TileKey t []) s
  revert hfreed hengine hthin hnone
  generalize partitionFreed p t s = a
  intro hfreed hengine hthin hnone
  obtain ⟨hcounted, hregs⟩ := partitionCounted_clears (t := t) (p := p) a
  revert hcounted hregs
  generalize partitionCounted p t a = b
  intro hcounted hregs
  obtain ⟨htends, hpasses, hengines, hgone⟩ := partitionAlone_clears (t := t) alone b
  revert htends hpasses hengines hgone
  generalize partitionAlone alone t b = c
  intro htends hpasses hengines hgone
  have hreaches := clears_resetReaches (t := t) (code := 3) (by decide) (by decide) c
  obtain ⟨hcause, hcount⟩ := getObj_noteReset (t := t) (code := 3) (by decide) (by decide) c
  revert hreaches hcause hcount
  generalize resetReaches t 3 c = d
  intro hreaches hcause hcount
  have hkept : ∀ k, k < 2 ^ 24 → ¬ TileKey t ((0x503C :: regulatorIndices) ++ ([0xA016] ++ engineIndices)) t k →
      getObj c t k = getObj s t k := fun k hk hn =>
    ((htends.objs t k hk fun e => hn (TileKey.mono (by decide) _ _ e)).trans (hcounted.objs t k hk fun e => hn (TileKey.mono (by decide) _ _ e))).trans
      (hfreed.objs t k hk fun e => hn (TileKey.mono (by decide) _ _ e))
  have hseq : getObj b t Obj.sequencerEpoch = getObj s t Obj.sequencerEpoch :=
    (hcounted.objs t _ (by decide) (by simp only [TileKey, true_and]; decide)).trans
      (hfreed.objs t _ (by decide) (by simp only [TileKey, true_and]; decide))
  have hranges : ∀ r < 16, rangeReg a t r = rangeReg s t r := rangeReg_of_objs fun k hk hlt =>
    hfreed.objs t k hlt (by simp only [TileKey, hk, true_and]; decide)
  refine ⟨⟨?_, fun k hk => ?_, ?_⟩, ⟨hcause, hcount.trans ?_, ?_, fun r hr hp => ?_, fun h => ?_⟩⟩
  · exact (((hfreed.mono (TileKey.mono (by decide))).trans (hcounted.toTends.mono (TileKey.mono (by decide)))).trans
      (htends.mono (TileKey.mono (by decide)))).trans (hreaches.toTends.mono (TileKey.mono (by decide)))
  · rw [hreaches.engine, hengines k hk, hcounted.engine, hengine]
  · rw [hreaches.passes, hpasses, hcounted.passes]
    exact hthin
  · rw [hkept (Obj.resetCounts + (3 - 1)) (by decide) (by simp only [TileKey, true_and]; decide)]
  · rw [hreaches.passes, hpasses, hcounted.passes]
    exact hnone
  · have hkey : Obj.regulatorOutstanding + r < 2 ^ 24 ∧ (Obj.regulatorOutstanding + r) / 256 = 0x3020 := by
      simp only [Obj.regulatorOutstanding]
      omega
    refine (hreaches.objs t _ hkey.1 ?_).trans ((htends.objs t _ hkey.1 ?_).trans (hregs r hr ((congrArg rrPart (hranges r hr)).trans hp)))
    · simp only [TileKey, hkey.2, true_and]
      decide
    · simp only [TileKey, hkey.2, true_and]
      decide
  · obtain ⟨hprog, hepoch⟩ := hgone (halone.symm.trans h)
    refine ⟨fun e he => ?_, ?_⟩
    · unfold getEngine
      rw [hreaches.engine]
      exact hprog e he
    · rw [hreaches.objs t Obj.sequencerEpoch (by decide) (by simp only [TileKey, true_and]; decide), hepoch, hseq]

/-! ### Every tile in turn -/

theorem TileOnly.refl (t : Nat) (s : State) : TileOnly t s s := ⟨.refl _ s, fun _ _ => rfl, .refl _⟩

theorem tileOnly_resetAbsorbed (s : State) : TileOnly t s (resetAbsorbed t 3 s) :=
  ⟨tends_setObj (by decide) (.inr ⟨rfl, by decide⟩) _ s, fun _ _ => rfl, .refl _⟩

/-- The partition reset of one tile, or its record where a larger reset holds the tile. -/
def partitionStep (p t : Nat) (s : State) : State := if inReset s t then resetAbsorbed t 3 s else partitionTile p t s

theorem tileOnly_partitionStep (p : Nat) (s : State) : TileOnly t s (partitionStep p t s) := by
  unfold partitionStep
  split
  · exact tileOnly_resetAbsorbed s
  · exact (partitionTile_spec p t s).1

/-- What the partition reset of tile `t` reads stands as it was. -/
structure TileSame (t : Nat) (s x : State) : Prop where
  treset : x.treset = s.treset
  objs : ∀ k, k < 2 ^ 24 → k / 256 ∉ 0xA013 :: noticeIndices → getObj x t k = getObj s t k
  tiles : ∀ k, k / 256 = 0x3030 → getObj x dev k = getObj s dev k

theorem TileSame.step {x : State} {u : Nat} (h : TileSame t s x) {y : State} (hy : TileOnly u x y) (hu : u < 64) (hne : u ≠ t) :
    TileSame t s y := by
  refine ⟨hy.treset.trans h.treset, fun k hk hn => (hy.objs t k hk ?_).trans (h.objs k hk hn), fun k hk => (hy.objs dev k ?_ ?_).trans (h.tiles k hk)⟩
  · exact not_or.mpr ⟨hn, fun e => hne e.1.symm⟩
  · omega
  · refine not_or.mpr ⟨by rw [hk]; decide, fun e => ?_⟩
    have := e.1
    unfold dev at this
    omega

theorem TileSame.inReset {x : State} (h : TileSame t s x) : inReset x t = inReset s t := by
  unfold Machine.inReset getReset
  rw [h.treset]

theorem TileSame.rangeReg {x : State} (h : TileSame t s x) : ∀ r < 16, rangeReg x t r = rangeReg s t r :=
  rangeReg_of_objs fun k hk hlt => h.objs k hlt (by rw [hk]; decide)

theorem TileSame.holdsAlone {x : State} (h : TileSame t s x) (hp : p ≤ 255) : holdsAlone x p t = holdsAlone s p t := by
  have hpart : ∀ i ≤ 255, inPartition x i t = inPartition s i t := fun i hi => by
    unfold inPartition
    split
    · rfl
    · rw [h.tiles _ (by simp only [Obj.partitionTiles]; omega)]
  unfold Machine.holdsAlone
  rw [hpart p hp]
  refine congrArg (inPartition s p t && ·) ?_
  rw [Bool.eq_iff_iff, List.all_eq_true, List.all_eq_true]
  exact forall₂_congr fun i hi => by rw [hpart (i + 1) (List.mem_range.mp hi)]

/-- What a partition reset leaves of a tile. -/
structure TileTold (p t : Nat) (s x : State) : Prop where
  counted : getObj x t (Obj.resetCounts + 2) = (getObj s t (Obj.resetCounts + 2) + 1) % 2 ^ 32
  parted : inReset s t = false → TileParted p t s x

theorem tileTold_partitionStep {x : State} (hp : p ≤ 255) (h : TileSame t s x) : TileTold p t s (partitionStep p t x) := by
  have hcount : getObj x t (Obj.resetCounts + 2) = getObj s t (Obj.resetCounts + 2) := h.objs _ (by decide) (by decide)
  have hbits : objBits (Obj.resetCounts + 2) = 32 := by decide +kernel
  unfold partitionStep
  rw [h.inReset]
  split_ifs with hr
  · refine ⟨(getObj_setObj_same _ _ _ _).trans ?_, fun e => absurd hr (by rw [e]; exact Bool.false_ne_true)⟩
    rw [hbits]
    exact congrArg (fun n => (n + 1) % 2 ^ 32) hcount
  · obtain ⟨-, hparted⟩ := partitionTile_spec p t x
    refine ⟨by rw [hparted.counted, hcount], fun _ => ⟨hparted.cause, by rw [hparted.counted, hcount], hparted.passes, fun r hr hrp => ?_, fun halone => ?_⟩⟩
    · exact hparted.regs r hr (by rw [h.rangeReg r hr]; exact hrp)
    · obtain ⟨hprog, hepoch⟩ := hparted.alone (by rw [h.holdsAlone hp]; exact halone)
      exact ⟨hprog, by rw [hepoch, h.objs _ (by decide) (by decide)]⟩

theorem TileTold.step {x y : State} {u : Nat} (h : TileTold p t s x) (hy : TileOnly u x y) (hne : u ≠ t) : TileTold p t s y := by
  have hobj : ∀ k, k < 2 ^ 24 → k / 256 ∉ 0xA013 :: noticeIndices → getObj y t k = getObj x t k := fun k hk hn =>
    hy.objs t k hk (not_or.mpr ⟨hn, fun e => hne e.1.symm⟩)
  refine ⟨by rw [hobj _ (by decide) (by decide), h.counted], fun hr => ?_⟩
  obtain ⟨hcause, hcounted, hpasses, hregs, halone⟩ := h.parted hr
  refine ⟨by rw [hobj _ (by decide) (by decide), hcause], by rw [hobj _ (by decide) (by decide), hcounted], hpasses.thinned hy.thinned,
    fun r hr hp => ?_, fun e => ?_⟩
  · refine (hobj _ ?_ ?_).trans (hregs r hr hp)
    · simp only [Obj.regulatorOutstanding]
      omega
    · have hkey : (Obj.regulatorOutstanding + r) / 256 = 0x3020 := by
        simp only [Obj.regulatorOutstanding]
        omega
      rw [hkey]
      decide
  · obtain ⟨hprog, hepoch⟩ := halone e
    exact ⟨fun i hi => (hy.engines _ (by omega)).trans (hprog i hi), by rw [hobj _ (by decide) (by decide), hepoch]⟩

end

/-- A property that step `i` of a fold brings about, where the steps before it keep what it needs and those after it the property. -/
theorem foldl_range_gains {f : State → Nat → State} {P Q : State → Prop} {n i : Nat} (hi : i < n)
    (hq : ∀ x j, j < n → j ≠ i → Q x → Q (f x j)) (hp : ∀ x, Q x → P (f x i)) (hk : ∀ x j, j < n → j ≠ i → P x → P (f x j))
    {s : State} (hs : Q s) : P ((List.range n).foldl f s) := by
  have hbefore : ∀ m ≤ i, Q ((List.range m).foldl f s) := by
    intro m
    induction m with
    | zero => exact fun _ => hs
    | succ m ih =>
      intro hm
      rw [List.range_succ, List.foldl_append]
      exact hq _ m (by omega) (by omega) (ih (by omega))
  have hafter : ∀ m, m < n → i ≤ m → P ((List.range (m + 1)).foldl f s) := by
    intro m
    induction m with
    | zero =>
      intro _ him
      obtain rfl : i = 0 := by omega
      exact hp _ hs
    | succ m ih =>
      intro hm him
      rw [List.range_succ, List.foldl_append]
      by_cases h : i = m + 1
      · subst h
        exact hp _ (hbefore _ le_rfl)
      · exact hk _ (m + 1) hm (Ne.symm h) (ih (by omega) (by omega))
  obtain ⟨m, rfl⟩ : ∃ m, n = m + 1 := ⟨n - 1, by omega⟩
  exact hafter m (Nat.lt_succ_self m) (by omega)

section
variable {p : Nat} {s : State}

/-- The partition reset of every tile. -/
def partitionTiles (p : Nat) (s : State) : State := forTiles (partitionStep p) s

theorem partitionTiles_eq (p : Nat) (s : State) :
    forTiles (fun t s => if inReset s t then resetAbsorbed t 3 s else partitionTile p t s) s = partitionTiles p s := rfl

theorem tileTold_partitionTiles (hp : p ≤ 255) {t : Nat} (ht : t < 64) : TileTold p t s (partitionTiles p s) := by
  unfold partitionTiles forTiles
  exact foldl_range_gains (Q := TileSame t s) ht (fun x j hj hne h => h.step (tileOnly_partitionStep p x) hj hne)
    (fun x h => tileTold_partitionStep hp h) (fun x j _ hne h => h.step (tileOnly_partitionStep p x) hne)
    ⟨rfl, fun _ _ _ => rfl, fun _ _ => rfl⟩

theorem tends_partitionTiles : Tends (fun _ k => k / 256 ∈ 0xA013 :: noticeIndices ++ partitionIndices) s (partitionTiles p s) := by
  unfold partitionTiles forTiles
  exact tends_foldl (fun x t _ => (tileOnly_partitionStep p x).toTends.mono fun u k hk => by
    rcases hk with hk | hk
    · exact List.mem_append_left _ hk
    · exact List.mem_append_right _ hk.2) s

/-! ### The command and its end -/

theorem writePartitionReset_up (h0 : p ≠ 0) (hp : p ≤ 255) (hnone : s.resets.partition = none) (hup : getObj s dev Obj.bringupPhase = 0) :
    writePartitionReset p s = answer stOk (setObj dev Obj.partitionResetState p
      { partitionTiles p s with resets := { (partitionTiles p s).resets with partition := some (p, s.time.elapsed) } }) := by
  unfold writePartitionReset
  rw [if_neg (by omega), if_neg (by rw [hnone]; exact Bool.false_ne_true), if_neg (not_not_intro hup),
    partitionTiles_eq]

theorem answers_partitionReset {v : BitVec 8} (h0 : v.toNat ≠ 0) (hnone : s.resets.partition = none)
    (hup : getObj s dev Obj.bringupPhase = 0) : Answers (.partitionReset v) s (fun s' => s'.out.status = stOk ∧
      getObj s' dev Obj.partitionResetState = v.toNat ∧ s'.resets.partition = some (v.toNat, s.time.elapsed) ∧ SameMemory s s' ∧
      ∀ t < 64, TileTold v.toNat t s s') := by
  have hv : v.toNat ≤ 255 := Nat.le_of_lt_succ v.isLt
  have hbits : objBits Obj.partitionResetState = 8 := by decide +kernel
  have hrun := writePartitionReset_up (s := fresh s) h0 hv hnone hup
  have htends := tends_partitionTiles (p := v.toNat) (s := fresh s)
  have htold := fun t ht => tileTold_partitionTiles (p := v.toNat) (s := fresh s) hv (t := t) ht
  revert hrun htends htold
  generalize partitionTiles v.toNat (fresh s) = x
  intro hrun htends htold
  obtain ⟨y, hy⟩ : ∃ y, y = setObj dev Obj.partitionResetState v.toNat
    { x with resets := { x.resets with partition := some (v.toNat, s.time.elapsed) } } := ⟨_, rfl⟩
  have hframe : ObjsOnly (fun u k => u = dev ∧ k = Obj.partitionResetState)
      { x with resets := { x.resets with partition := some (v.toNat, s.time.elapsed) } } y := by
    rw [hy]
    exact ObjsOnly.set _ (by decide) ⟨rfl, rfl⟩ _
  have hstate : getObj y dev Obj.partitionResetState = v.toNat := by
    rw [hy]
    exact (getObj_setObj_same _ _ _ _).trans (by rw [hbits]; exact Nat.mod_eq_of_lt v.isLt)
  have hrun' : writePartitionReset v.toNat (fresh s) = answer stOk y := by
    rw [hrun, hy]
    rfl
  clear hy hrun
  have hobjs : ∀ t < 64, ∀ k, k < 2 ^ 24 → getObj y t k = getObj x t k := fun t ht k hk =>
    hframe.objs t k hk fun e => by
      have := e.1
      unfold dev at this
      omega
  have hpasses : y.passes = x.passes := by rw [hframe.fields]
  have hengine : y.engine = x.engine := by rw [hframe.fields]
  refine answers_of_kept (exec_partitionReset v s) hrun' (hframe.fields ▸ htends.pending) (hframe.fields ▸ htends.time)
    ⟨rfl, hstate, ?_, SameWords.sameMemory ?_, fun t ht => ?_⟩
  · have hresets : y.resets = { x.resets with partition := some (v.toNat, s.time.elapsed) } := by rw [hframe.fields]
    exact congrArg (fun r => r.partition) hresets
  · obtain ⟨hdram, hbase, hslate, hinkwell⟩ := htends.sameWords
    have hy : SameWords x y := sameWords_of (by rw [hframe.fields]) (by rw [hframe.fields]) (by rw [hframe.fields]) (by rw [hframe.fields])
    exact ⟨hy.dram.trans hdram, fun k => (hy.base k).trans (hbase k), hy.slate.trans hslate, hy.inkwell.trans hinkwell⟩
  · obtain ⟨hcounted, hparted⟩ := htold t ht
    have hobj : ∀ k, k < 2 ^ 24 → getObj (answer stOk y) t k = getObj x t k := hobjs t ht
    refine ⟨by rw [hobj _ (by decide), hcounted, getObj_fresh], fun hr => ?_⟩
    obtain ⟨hcause, hcount, hnone, hregs, halone⟩ := hparted hr
    refine ⟨by rw [hobj _ (by decide), hcause], by rw [hobj _ (by decide), hcount, getObj_fresh], ?_, fun r hr hp => ?_, fun h => ?_⟩
    · rw [← hpasses] at hnone
      exact hnone
    · exact (hobj _ (by simp only [Obj.regulatorOutstanding]; omega)).trans (hregs r hr hp)
    · obtain ⟨hprog, hepoch⟩ := halone h
      refine ⟨fun e he => ?_, by rw [hobj _ (by decide), hepoch, getObj_fresh]⟩
      exact (congrArg (fun m => fget ({} : EngineS) m (t * 6 + e)) hengine).trans (hprog e he)

/-- A reset while bring-up runs is counted in every tile, and absorbed (R385). -/
theorem absorbedInAll (s : State) : ObjsOnly (fun _ k => k = Obj.resetCounts + 2) s (forTiles (fun t s => resetAbsorbed t 3 s) s) ∧
    ∀ t < 64, getObj (forTiles (fun t s => resetAbsorbed t 3 s) s) t (Obj.resetCounts + 2) =
      (getObj s t (Obj.resetCounts + 2) + 1) % 2 ^ 32 := by
  have hbits : objBits (Obj.resetCounts + 2) = 32 := by decide +kernel
  refine ⟨ObjsOnly.range (f := fun s t => resetAbsorbed t 3 s) (fun x t _ => ?_) s, fun t ht => ?_⟩
  · exact ObjsOnly.set (K := fun _ k => k = Obj.resetCounts + 2) (k := Obj.resetCounts + 2) _ (by decide) rfl x
  refine forTiles_at (h := fun t s => resetAbsorbed t 3 s) (part := fun x => getObj x t (Obj.resetCounts + 2)) (g := fun n => (n + 1) % 2 ^ 32) ht
    (fun x => ?_) (fun x u hu => ?_) s
  · exact (getObj_setObj_same _ _ _ _).trans (by rw [hbits])
  · exact getObj_setObj_other x fun e => hu (okey_inj (by decide) (by decide) e).1.symm

theorem answers_partitionReset_bringup {v : BitVec 8} (h0 : v.toNat ≠ 0) (hnone : s.resets.partition = none)
    (hup : getObj s dev Obj.bringupPhase ≠ 0) : Answers (.partitionReset v) s (fun s' =>
      (∀ t < 64, getObj s' t (Obj.resetCounts + 2) = (getObj s t (Obj.resetCounts + 2) + 1) % 2 ^ 32) ∧
      s' = { s with dict := s'.dict, out := {} }) := by
  have hv : v.toNat ≤ 255 := Nat.le_of_lt_succ v.isLt
  obtain ⟨hframe, hcounted⟩ := absorbedInAll (fresh s)
  have hrun : writePartitionReset v.toNat (fresh s) = answer stOk (forTiles (fun t s => resetAbsorbed t 3 s) (fresh s)) := by
    unfold writePartitionReset
    rw [if_neg (by omega), if_neg (by rw [show (fresh s).resets.partition = none from hnone]; exact Bool.false_ne_true),
      if_pos (show getObj (fresh s) dev Obj.bringupPhase ≠ 0 from hup)]
  revert hframe hcounted hrun
  generalize forTiles (fun t s => resetAbsorbed t 3 s) (fresh s) = x
  intro hframe hcounted hrun
  have hall : answer stOk x = { s with dict := x.dict, out := {} } := by
    rw [hframe.fields]
    rfl
  exact answers_of_kept (exec_partitionReset v s) hrun (by rw [hall]) (by rw [hall])
    ⟨fun t ht => by rw [getObj_answer, hcounted t ht, getObj_fresh], by rw [hall]⟩

/-- The end of a partition reset is noted in every tile (R384). -/
theorem answers_partitionResetEnd {st : Nat × Nat} (hst : s.resets.partition = some st) (hend : st.2 + 30000 ≤ s.time.elapsed) :
    Answers .partitionResetEnd s (fun s' => s'.resets = { s.resets with partition := none } ∧
      getObj s' dev Obj.partitionResetState = 0 ∧ (∀ t < 64, getObj s' t Obj.lastResetTime = s.time.timeBase % 2 ^ 64) ∧
      s' = { s with resets := s'.resets, dict := s'.dict, out := {} }) := by
  have hbits : objBits Obj.lastResetTime = 64 := by decide +kernel
  obtain ⟨x, hx⟩ : ∃ x, x = setObj dev Obj.partitionResetState 0
    { fresh s with resets := { s.resets with partition := none } } := ⟨_, rfl⟩
  have hrun : partitionResetEnd (fresh s) = forTiles resetEnds x := by
    unfold partitionResetEnd
    rw [show (fresh s).resets.partition = some st from hst, hx]
    exact if_neg (Nat.not_lt.mpr hend)
  have hxs : x = { s with resets := { s.resets with partition := none }, dict := x.dict, out := {} } := by rw [hx]; rfl
  have hzero : getObj x dev Obj.partitionResetState = 0 := by
    rw [hx]
    exact (getObj_setObj_same _ _ _ _).trans (Nat.zero_mod _)
  have hframe : ObjsOnly (fun _ k => k = Obj.lastResetTime) x (forTiles resetEnds x) :=
    ObjsOnly.range (f := fun s t => resetEnds t s) (fun y t _ =>
      ObjsOnly.set (K := fun _ k => k = Obj.lastResetTime) (k := Obj.lastResetTime) _ (by decide) rfl y) x
  have htimes : ∀ t < 64, getObj (forTiles resetEnds x) t Obj.lastResetTime = x.time.timeBase % 2 ^ 64 := by
    refine fun t ht => (Prod.ext_iff.mp (forTiles_at (h := resetEnds) (part := fun y => (getObj y t Obj.lastResetTime, y.time.timeBase))
      (g := fun e => (e.2 % 2 ^ 64, e.2)) ht (fun y => ?_) (fun y u hu => ?_) x)).1
    · exact Prod.ext ((getObj_setObj_same _ _ _ _).trans (by rw [hbits])) rfl
    · exact Prod.ext (getObj_setObj_other y fun e => hu (okey_inj (by decide) (by decide) e).1.symm) rfl
  revert hrun hframe htimes
  generalize forTiles resetEnds x = y
  intro hrun hframe htimes
  have hall : y = { s with resets := { s.resets with partition := none }, dict := y.dict, out := {} } := by
    rw [hframe.fields, hxs]
  have htime : x.time = s.time := by rw [hxs]
  refine answers_of_kept (exec_partitionResetEnd s) hrun (by rw [hall]) (by rw [hall])
    ⟨by rw [hall], (hframe.objs dev _ (by decide) (by decide)).trans hzero, fun t ht => by rw [htimes t ht, htime], ?_⟩
  rw [hall]

end

/-- Settles O54: the work of a partition reset in one tile changes nothing of another but reports, so that what it leaves of
each tile stands when the last has had its turn. -/
theorem partitionReset : Obligations.PartitionReset := by
  unfold Obligations.PartitionReset
  refine ⟨fun v s => ?_, fun s => ⟨fun h => ?_, fun st hst => answers_partitionResetEnd hst.1 hst.2⟩⟩
  · have hv : v.toNat ≤ 255 := Nat.le_of_lt_succ v.isLt
    refine ⟨fun h => refuses_run (exec_partitionReset v s) (if_pos (.inl h)), fun h0 h => ?_, answers_partitionReset_bringup,
      fun h0 hnone hup => ?_⟩
    · refine refuses_run (exec_partitionReset v s) ((if_neg (by omega)).trans (if_pos ?_))
      exact Option.isSome_iff_ne_none.mpr h
    · obtain ⟨s', hexec, hout, hstate, hrun, hmem, htold⟩ := answers_partitionReset h0 hnone hup
      refine ⟨s', hexec, hout, hstate, hrun, hmem, fun t ht => ⟨(htold t ht).counted, fun hr => ?_⟩⟩
      obtain ⟨hcause, -, hpasses, hregs, halone⟩ := (htold t ht).parted hr
      exact ⟨hcause, hpasses.live, hregs, halone⟩
  · refine noEffect_run (exec_partitionResetEnd s) ?_
    unfold partitionResetEnd
    cases hp : s.resets.partition with
    | none => rw [show (fresh s).resets.partition = none from hp]
    | some st =>
      rw [show (fresh s).resets.partition = some st from hp]
      exact if_pos (Nat.not_le.mp fun hle => h st ⟨hp, hle⟩)

end Sys2Proof.Machine

/-! ## Proofs: tile resets leave memory, trims and the tests under way alone -/

namespace Sys2Proof.Machine

open Sys2Proof

/-- The objects outside the indices of `L`. -/
def Outside (L : List Nat) (_u k : Nat) : Prop := k / 256 ∉ L

/-- TestAccessState and ChannelState, which what a shallow reset clears does not touch. -/
def testIndices : List Nat := [0xB030, 0x3820]

theorem not_testIndices_of_sideKey {k : Nat} (h : sideKey k = true) : k / 256 ∉ testIndices := by
  have hall : ∀ i ∈ testIndices, [0x2207, 0x2208, 0x2209, 0x2213, 0x2214, 0x2217, 0x6037, 0x6070, 0x1109, 0x1118, 0x8057, 0x8067].contains i
      = false := by decide
  exact fun e => absurd h (by unfold sideKey; rw [hall _ e]; exact Bool.false_ne_true)

theorem not_testIndices_of_poolKey {k : Nat} (h : poolKey k = true) : k / 256 ∉ testIndices := by
  have hall : ∀ i ∈ [Obj.freeBlocks, Obj.retiredBlocks, Obj.lastMapEvent], i / 256 ∉ testIndices := by decide
  exact hall k (List.contains_iff_mem.mp h)

section
variable {t : Nat} {a b s : State}

theorem Side.tends (h : Side a b) : Tends (Outside testIndices) a b := by
  refine ⟨?_, fun k => ?_, fun u k hk hn => h.objs u k hk ?_⟩
  · rw [h.fields]
    rfl
  · rw [h.fields]
    exact ⟨rfl, rfl, rfl⟩
  · exact Bool.eq_false_iff.mpr fun e => hn (not_testIndices_of_sideKey e)

theorem Pooled.tends (h : Pooled a b) : Tends (Outside testIndices) a b := by
  refine ⟨?_, fun k => ?_, fun u k hk hn => h.objs u k hk ?_ ?_⟩
  · rw [h.fields]
    rfl
  · rw [h.fields]
    exact ⟨rfl, rfl, rfl⟩
  · exact Bool.eq_false_iff.mpr fun e => hn (not_testIndices_of_poolKey e)
  · exact Bool.eq_false_iff.mpr fun e => hn (not_testIndices_of_sideKey e)

theorem tends_test {k : Nat} (hk : k < 2 ^ 24) (hL : k / 256 ∉ testIndices) (u v : Nat) (s : State) :
    Tends (Outside testIndices) s (setObj u k v s) := tends_setObj hk hL v s

theorem Clears.outside {L M : List Nat} (h : Clears (TileKey t M) a b) (hM : ∀ i ∈ L, i ∉ (0xA013 :: noticeIndices) ++ M) :
    Tends (Outside L) a b :=
  h.toTends.mono fun _ _ hk hin => hM _ hin (List.mem_append.mpr (hk.imp id fun e => e.2))

theorem tends_forChans {K : Nat → Nat → Prop} {f : Nat → State → State} (hf : ∀ c < 48, ∀ x, Tends K x (f c x)) (s : State) :
    Tends K s (forChans f s) := tends_foldl (fun x c hc => hf c (List.mem_range.mp hc) x) s

theorem tends_ite {K : Nat → Nat → Prop} {c : State} (p : Prop) [Decidable p] (hb : Tends K a b) (hc : Tends K a c) :
    Tends K a (if p then b else c) := by
  split
  · exact hb
  · exact hc

/-! ### Repairs and bounce copies (R59, R278) -/

theorem tends_logRepair (u cause status c b row : Nat) (s : State) : Tends (Outside testIndices) s (logRepair u cause status c b row s) :=
  (tends_test (k := Obj.lastRepairEvent) (by decide) (by decide) u _ s).trans (side_addLog _ _ _ _ _ _ _).tends

theorem tends_retireRowAt (c b row cause : Nat) (s : State) : Tends (Outside testIndices) s (retireRowAt t c b row cause s) := by
  have hprot : ∀ f x, Tends (Outside testIndices) x (modProt t f x) := fun _ _ => tends_of rfl rfl rfl
  unfold retireRowAt
  extract_lets s1 n e s2 s3 s4
  refine tends_ite _ (hprot _ s) (tends_ite _ ((hprot _ s).trans (hprot _ _)) (tends_ite _ ?_ ?_))
  · exact (tends_test (k := Obj.retireListFull) (by decide) (by decide) t _ _).after ((tends_logRepair _ _ _ _ _ _ _).after (hprot _ s))
  · have hlist : Tends (Outside testIndices) s s2 := tends_of rfl rfl rfl
    have hcount : Tends (Outside testIndices) s2 s3 := tends_test (by decide) (by decide) t _ s2
    have hpush : Tends (Outside testIndices) s3 s4 := (side_pushRepair _ _ _ _ _ _).tends
    exact (pooled_retireBlock t c b row _).tends.after ((side_ring _ _ _).tends.after ((tends_logRepair _ _ _ _ _ _ _).after
      ((hlist.trans hcount).trans hpush)))

theorem tends_retirePending (c b : Nat) (s : State) : Tends (Outside testIndices) s (retirePending t c b s) := by
  unfold retirePending
  dsimp only
  exact (tends_foldl (fun x e _ => tends_retireRowAt _ _ _ _ x) _).after (tends_of rfl rfl rfl)

theorem tends_dropBounces (c : Nat) (s : State) : Tends (Outside testIndices) s (dropBounces t c s) := by
  have hdrop : Tends (Outside testIndices) s (discardQueue t c ofBounce s) := (clears_discardQueue c ofBounce s).toTends
  unfold dropBounces
  dsimp only
  exact (tends_foldl (fun x e _ => tends_retirePending _ _ x) _).after (hdrop.trans (tends_of rfl rfl rfl))

/-! ### The scheduler of a tile (R92, R150) -/

theorem forgetClears_eq (t : Nat) (s : State) : ∃ f g, forgetClears t s =
    modSched t f (forChans (fun c x => modQueue t c g x) s) := ⟨_, _, rfl⟩

theorem tends_modSched (f : TileSched → TileSched) (s : State) : Tends (Outside testIndices) s (modSched t f s) := tends_of rfl rfl rfl

theorem tends_modQueue (c : Nat) (f : QueueS → QueueS) (s : State) : Tends (Outside testIndices) s (modQueue t c f s) := tends_of rfl rfl rfl

theorem tends_forgetClears (s : State) : Tends (Outside testIndices) s (forgetClears t s) := by
  obtain ⟨f, g, h⟩ := forgetClears_eq t s
  rw [h]
  exact (tends_modSched f _).after (tends_forChans (fun c _ x => tends_modQueue c g x) s)

theorem tends_restartClears (s : State) : Tends (Outside testIndices) s (restartClears t s) := by
  unfold restartClears
  extract_lets l
  refine Tends.after (tends_foldl (fun x e _ => ?_) _) (tends_forgetClears s)
  exact tends_of rfl rfl rfl

/-- The queues of every channel without copies and without work not issued. -/
def queuesCleared (t : Nat) (s : State) : State :=
  forChans (fun c s => discardQueue t c (unissued s) s) (forChans (dropBounces t) s)

/-- The rounds of every channel's queues begin anew. -/
def roundsCleared (t : Nat) (s : State) : State :=
  forChans (fun c s => setObj t (Obj.passTierRound + c) 0 (setObj t (Obj.bestEffortRound + c) 0
    (modQueue t c (fun q => { q with drrPass := {}, drrBest := {}, writeDir := false, served := 0 }) s))) s

/-- No page of a tile's queues is remembered. -/
def pagesForgotten (t : Nat) (s : State) : State := { s with page := fkeep (fun k => decide (k / 768 ≠ t)) s.page }

theorem clearScheduler_eq (t : Nat) (s : State) : clearScheduler t s =
    restartClears t (modSched t (fun x => { x with mapPass := {}, mapBest := {} }) (pagesForgotten t (roundsCleared t
      (discardWaiting t (fun _ => true) (discardMerges t (fun _ => true) (queuesCleared t s)))))) := rfl

theorem tends_queuesCleared (s : State) : Tends (Outside testIndices) s (queuesCleared t s) :=
  (tends_forChans (fun c _ x => (clears_discardQueue c _ x).toTends) _).after (tends_forChans (fun c _ x => tends_dropBounces c x) s)

theorem tends_roundsCleared (s : State) : Tends (Outside testIndices) s (roundsCleared t s) := by
  have hkeys : ∀ c : Fin 48, Obj.passTierRound + c.val < 2 ^ 24 ∧ (Obj.passTierRound + c.val) / 256 ∉ testIndices ∧
      Obj.bestEffortRound + c.val < 2 ^ 24 ∧ (Obj.bestEffortRound + c.val) / 256 ∉ testIndices := by decide
  refine tends_forChans (fun c hc x => ?_) s
  have hmine := hkeys ⟨c, hc⟩
  dsimp only at hmine
  obtain ⟨hpass, hin, hbest, hin'⟩ := hmine
  exact (tends_test hpass hin t 0 _).after ((tends_test hbest hin' t 0 _).after (tends_modQueue c _ x))

theorem tends_pagesForgotten (s : State) : Tends (Outside testIndices) s (pagesForgotten t s) := tends_of rfl rfl rfl

theorem tends_clearScheduler (s : State) : Tends (Outside testIndices) s (clearScheduler t s) := by
  rw [clearScheduler_eq]
  refine (tends_restartClears _).after ((tends_modSched _ _).after ((tends_pagesForgotten _).after ((tends_roundsCleared _).after ?_)))
  exact (clears_discardWaiting _ _).toTends.after ((clears_discardMerges _ _).toTends.after (tends_queuesCleared s))

theorem tends_clearAssembly (side : Nat → Option Sys2Proof.Side) (s : State) : Tends (Outside testIndices) s (clearAssembly t side s) := by
  unfold clearAssembly
  refine tends_foldl (fun x e _ => ?_) s
  split
  · exact .refl _ x
  · exact tends_of rfl rfl rfl

theorem tends_clearEngines (s : State) : Tends (Outside testIndices) s (clearEngines t s) := by
  have hkeys : ∀ i : Fin 64, Obj.semaphore + i.val < 2 ^ 24 ∧ (Obj.semaphore + i.val) / 256 ∉ testIndices := by decide
  have hengines : Tends (Outside testIndices) s (resetEngines t s) := (tends_resetEngines s).mono fun u k hk hin => by
    have hnot : ∀ i ∈ testIndices, i ∉ 0xA013 :: noticeIndices ∧ i ∉ engineIndices := by decide
    exact hk.elim (hnot _ hin).1 fun e => (hnot _ hin).2 e.2
  unfold clearEngines
  dsimp only
  refine (tends_foldl (fun x i hi => ?_) _).after hengines
  exact tends_test (hkeys ⟨i, List.mem_range.mp hi⟩).1 (hkeys ⟨i, List.mem_range.mp hi⟩).2 t 0 x

/-! ### Jobs of the block map (R258) -/

theorem tends_endJob (e : Nat) (s : State) : Tends (Outside testIndices) s (endJob t e s) := tends_of rfl rfl rfl

theorem tends_releasePending (e : Nat) (s : State) : Tends (Outside testIndices) s (releasePending t e s) := by
  unfold releasePending freeEntryOf
  refine tends_ite _ ?_ (.refl _ s)
  refine Tends.trans (b := setEntry t e {} (modMap t (fun m => { m with releases := m.releases.filter (fun x => x ≠ e) }) s))
    (tends_of rfl rfl rfl) ?_
  unfold dropEntry
  exact tends_ite _ (pooled_dropRef _ _ _ _).tends (tends_ite _ (tends_of rfl rfl rfl) (.refl _ _))

theorem tends_toClearing (p part : Nat) (s : State) : Tends (Outside testIndices) s (toClearing t p part s) := by
  unfold toClearing
  dsimp only
  refine tends_ite _ (tends_of rfl rfl rfl) ?_
  exact (pooled_dropRef _ _ _ _).tends.after (tends_of rfl rfl rfl)

theorem tends_spillBack (e st : Nat) (s : State) : Tends (Outside testIndices) s (spillBack t e st s) := by
  unfold spillBack
  extract_lets s1 s2 b
  have hend : Tends (Outside testIndices) s s1 := tends_endJob e s
  clear_value s1
  exact hend.trans (tends_of rfl rfl rfl)

theorem tends_dropJob (j : MapJob) (s : State) : Tends (Outside testIndices) s (dropJob t s j) := by
  unfold dropJob
  dsimp only
  refine (tends_releasePending _ _).after ?_
  split
  · exact tends_spillBack _ _ s
  · exact (tends_toClearing _ _ _).after (tends_endJob _ s)
  · exact tends_endJob _ s

theorem tends_clearMapJobs (s : State) : Tends (Outside testIndices) s (clearMapJobs t s) := by
  unfold clearMapJobs
  extract_lets s1
  have hjobs : Tends (Outside testIndices) s s1 := ((clears_failHeld _ _ _ _).outside (by decide)).after
    (tends_foldl (fun x j _ => tends_dropJob j x) s)
  clear_value s1
  exact (tends_foldl (fun x r _ => (clears_mapRefuse r.req stRetry 0 x).toTends) _).after (hjobs.trans (tends_of rfl rfl rfl))

/-! ### The whole of a tile reset -/

theorem tends_clearPasses (s : State) : Tends (Outside testIndices) s (clearPasses t s) := tends_of rfl rfl rfl

theorem tends_clearMigrations (s : State) : Tends (Outside testIndices) s (clearMigrations t s) := tends_of rfl rfl rfl

theorem tends_clearTile (s : State) : Tends (Outside testIndices) s (clearTile t s) := by
  unfold clearTile
  extract_lets s1 s2
  have hwork : Tends (Outside testIndices) s s1 := (tends_clearAssembly _ _).after (tends_clearScheduler s)
  have hengines : Tends (Outside testIndices) s1 s2 := ((clears_uncount _ _).outside (by decide)).after
    ((tends_clearPasses _).after (tends_clearEngines s1))
  exact ((clears_sequencerSideReset _).outside (by decide)).after
    ((tends_clearMigrations _).after ((tends_clearMapJobs s2).after (hwork.trans hengines)))

theorem tends_takeAllBounds (s : State) : Tends (Outside testIndices) s (takeAllBounds s) := (tends_passes (takeAllBounds_fields s)).1

theorem tends_sourceAway (away : Bool) (s : State) : Tends (Outside testIndices) s (sourceAway t away s) :=
  tends_foldl (fun x _ _ => (side_setForce _ _ _ _ x).tends) s

theorem tends_sendDown (c : Nat) (d : Down) (s : State) : Tends (Outside testIndices) s (sendDown t c d s) := by
  refine ⟨rfl, fun k => ?_, fun _ _ _ _ => rfl⟩
  unfold sendDown modLayer
  by_cases hk : k = chKey t c
  · subst hk
    dsimp only
    rw [fget_fupd_same]
    exact ⟨rfl, rfl, rfl⟩
  · dsimp only
    rw [fget_fupd_other _ _ _ _ hk]
    exact ⟨rfl, rfl, rfl⟩

theorem tends_modTrain (c : Nat) (f : TrainS → TrainS) (s : State) : Tends (Outside testIndices) s (modTrain t c f s) := tends_of rfl rfl rfl

theorem tends_quietStep (c : Nat) (s : State) : Tends (Outside testIndices) s (quietStep t c s) := by
  unfold quietStep
  dsimp only
  exact tends_ite _ ((tends_sendDown c _ _).after (tends_modTrain c _ _)) (.refl _ _)

theorem tends_quietChannel (c : Nat) (s : State) : Tends (Outside testIndices) s (quietChannel t c s) :=
  tends_ite _ (.refl _ s) ((tends_quietStep c _).after (tends_modTrain c _ s))

theorem tends_beginTraining {c : Nat} (hc : c < 48) (s : State) : Tends (Outside [0xB030]) s (beginTraining t c s) := by
  have hkeys : ∀ i : Fin 48, ∀ k ∈ [Obj.channelBringupPath, Obj.channelState, Obj.prbsRestarts],
      k + i.val < 2 ^ 24 ∧ (k + i.val) / 256 ∉ [0xB030] := by decide
  have hset : ∀ k ∈ [Obj.channelBringupPath, Obj.channelState, Obj.prbsRestarts], ∀ v x, Tends (Outside [0xB030]) x (setObj t (k + c) v x) :=
    fun k hk v x => tends_setObj (hkeys ⟨c, hc⟩ k hk).1 (hkeys ⟨c, hc⟩ k hk).2 v x
  unfold beginTraining
  dsimp only
  refine tends_ite _ (.refl _ s) ((hset _ (by simp) 0 _).after ?_)
  exact ((hset Obj.channelState (by simp) 1 s).trans (hset Obj.channelBringupPath (by simp) _ _)).trans (tends_of rfl rfl rfl)

/-- What a reset clears, and its record in the log and the passes' bounds. -/
def resetCleared (t kind : Nat) (s : State) : State := takeAllBounds (resetReaches t (3 + kind) (clearTile t s))

theorem tends_resetCleared {kind : Nat} (hk : kind = 1 ∨ kind = 2) (s : State) :
    Tends (Outside testIndices) s (resetCleared t kind s) :=
  (tends_takeAllBounds _).after (((clears_resetReaches (t := t) (code := 3 + kind) (by omega) (by omega) _).outside (by decide)).after
    (tends_clearTile s))

/-- The reset takes hold of the tile. -/
def resetHolds (t kind start : Nat) (s : State) : State := { s with treset := fset {} s.treset t { kind := kind, start := start } }

theorem getObj_resetHolds (t kind start : Nat) (s : State) (u k : Nat) : getObj (resetHolds t kind start s) u k = getObj s u k := rfl

theorem trimsInUse_resetHolds (t kind start : Nat) (s : State) (u c : Nat) :
    trimsInUse (resetHolds t kind start s) u c = trimsInUse s u c := rfl

theorem sameWords_resetHolds (t kind start : Nat) (s : State) : SameWords s (resetHolds t kind start s) :=
  ⟨rfl, fun _ => rfl, rfl, rfl⟩

theorem getReset_resetHolds (t kind start : Nat) (s : State) :
    fget {} (resetHolds t kind start s).treset t = { kind := kind, start := start } := fget_fset_same ({} : TileReset) _ _ _

theorem parts_resetHolds (t kind start : Nat) (s : State) : (resetHolds t kind start s).pending = s.pending ∧
    (resetHolds t kind start s).time = s.time ∧ (resetHolds t kind start s).test = s.test := ⟨rfl, rfl, rfl⟩

/-- The gateway away, the channels quiet, and with a deep reset in training. -/
def resetQuiet (t kind : Nat) (s : State) : State :=
  let s4 := forChans (quietChannel t) (sourceAway t true (setObj t Obj.resetInProgress (3 + kind) s))
  if kind = 2 then forChans (beginTraining t) s4 else s4

theorem startTileReset_eq (t kind : Nat) (s : State) :
    startTileReset t kind s = resetQuiet t kind (resetHolds t kind s.time.elapsed (resetCleared t kind s)) := rfl

/-- The objects that a reset of a kind leaves under test: a deep one sets the channels' states. -/
def keptIndices (kind : Nat) : List Nat := if kind = 2 then [0xB030] else testIndices

theorem tends_resetQuiet (kind : Nat) (s : State) : Tends (Outside (keptIndices kind)) s (resetQuiet t kind s) := by
  have hquiet : Tends (Outside testIndices) s (forChans (quietChannel t) (sourceAway t true (setObj t Obj.resetInProgress (3 + kind) s))) :=
    (tends_forChans (fun c _ x => tends_quietChannel c x) _).after ((tends_sourceAway true _).after
      (tends_test (by decide) (by decide) t _ s))
  unfold resetQuiet keptIndices
  dsimp only
  split
  · refine (tends_forChans (fun c hc x => tends_beginTraining hc x) _).after (hquiet.mono fun _ _ h e => h ?_)
    exact List.mem_cons.mpr (.inl (List.mem_singleton.mp e))
  · exact hquiet

/-- What the start of a tile reset leaves (R383). -/
structure ResetBegun (t kind : Nat) (s s' : State) : Prop where
  words : SameWords s s'
  pending : s'.pending = s.pending
  time : s'.time = s.time
  test : s'.test = s.test
  trims : ∀ u c, trimsInUse s' u c = trimsInUse s u c
  objs : ∀ u k, k < 2 ^ 24 → k / 256 ∈ keptIndices kind → getObj s' u k = getObj s u k
  reset : getReset s' t = { kind := kind, start := s.time.elapsed }

theorem resetBegun_startTileReset {kind : Nat} (hk : kind = 1 ∨ kind = 2) (s : State) :
    ResetBegun t kind s (startTileReset t kind s) := by
  have hclear := tends_resetCleared (t := t) hk s
  have hquiet := tends_resetQuiet (t := t) kind (resetHolds t kind s.time.elapsed (resetCleared t kind s))
  rw [startTileReset_eq]
  revert hclear hquiet
  generalize resetCleared t kind s = x
  generalize hy : resetQuiet t kind (resetHolds t kind s.time.elapsed x) = y
  intro hclear hquiet
  have hsub : ∀ k ∈ keptIndices kind, k ∈ testIndices := by
    obtain rfl | rfl := hk
    · exact fun _ h => h
    · decide
  obtain ⟨hpending, htime, htest⟩ := parts_resetHolds t kind s.time.elapsed x
  refine ⟨(hclear.sameWords.trans (sameWords_resetHolds t kind _ x)).trans hquiet.sameWords,
    hquiet.pending.trans (hpending.trans hclear.pending), hquiet.time.trans (htime.trans hclear.time),
    hquiet.test.trans (htest.trans hclear.test), fun u c => ?_, fun u k hlt hin => ?_, ?_⟩
  · rw [hquiet.trimsInUse, trimsInUse_resetHolds, hclear.trimsInUse]
  · rw [hquiet.objs u k hlt fun e => e hin, getObj_resetHolds, hclear.objs u k hlt fun e => e (hsub _ hin)]
  · unfold getReset
    rw [hquiet.treset, getReset_resetHolds]

end

end Sys2Proof.Machine

/-! ## Proofs: wrapper instructions, tiles under test and the stack's test chain -/

namespace Sys2Proof.Machine

open Sys2Proof

section
variable {t : Nat} {s : State}

/-! ### A reset that a wrapper asks for (R424) -/

/-- What the wrapper's work leaves alone, but for the tests and the resets. -/
structure WrapKept (L : List Nat) (s s' : State) : Prop where
  words : SameWords s s'
  pending : s'.pending = s.pending
  time : s'.time = s.time
  trims : ∀ u c, trimsInUse s' u c = trimsInUse s u c
  objs : ∀ u k, k < 2 ^ 24 → k / 256 ∈ L → getObj s' u k = getObj s u k

theorem WrapKept.refl (L : List Nat) (s : State) : WrapKept L s s := ⟨.refl s, rfl, rfl, fun _ _ => rfl, fun _ _ _ _ => rfl⟩

theorem WrapKept.trans {L : List Nat} {a b c : State} (h : WrapKept L a b) (h' : WrapKept L b c) : WrapKept L a c :=
  ⟨h.words.trans h'.words, h'.pending.trans h.pending, h'.time.trans h.time, fun u i => (h'.trims u i).trans (h.trims u i),
    fun u k hk hL => (h'.objs u k hk hL).trans (h.objs u k hk hL)⟩

theorem WrapKept.mono {L M : List Nat} {a b : State} (h : WrapKept L a b) (hM : M ⊆ L) : WrapKept M a b :=
  ⟨h.words, h.pending, h.time, h.trims, fun u k hk hin => h.objs u k hk (hM hin)⟩

theorem wrapKept_setObj {L : List Nat} {k : Nat} (hk : k < 2 ^ 24) (hL : k / 256 ∉ L) (u v : Nat) (s : State) :
    WrapKept L s (setObj u k v s) :=
  ⟨⟨rfl, fun _ => rfl, rfl, rfl⟩, rfl, rfl, fun _ _ => rfl, fun w j hj hin =>
    (ObjsOnly.set (K := fun _ k => k / 256 ∉ L) v hk hL s).objs w j hj (not_not_intro hin)⟩

/-- A tile reset that was asked for: it begins, or a larger one absorbs it. -/
structure ResetTaken (t kind : Nat) (s s' : State) : Prop extends WrapKept (keptIndices kind) s s' where
  test : s'.test = s.test
  reset : getReset s' t = if getObj s dev Obj.bringupPhase = 0 ∧ (getReset s t).kind < kind then
    { kind := kind, start := s.time.elapsed } else getReset s t

theorem resetTaken_tileReset {kind : Nat} (hk : kind = 1 ∨ kind = 2) (s : State) : ResetTaken t kind s (tileReset t kind s) := by
  have hkey : Obj.resetCounts + (3 + kind - 1) < 2 ^ 24 ∧ (Obj.resetCounts + (3 + kind - 1)) / 256 ∉ keptIndices kind := by
    obtain rfl | rfl := hk <;> decide
  unfold tileReset
  split_ifs with h
  · refine ⟨wrapKept_setObj hkey.1 hkey.2 _ _ s, rfl, (if_neg fun e => ?_).symm⟩
    exact h.elim (fun e' => e' e.1) (fun e' => absurd e.2 (Nat.not_lt.mpr e'))
  · obtain ⟨hup, hlow⟩ := not_or.mp h
    have hbegun := resetBegun_startTileReset (t := t) hk s
    refine ⟨⟨hbegun.words, hbegun.pending, hbegun.time, hbegun.trims, hbegun.objs⟩, hbegun.test, ?_⟩
    rw [hbegun.reset, if_pos ⟨not_not.mp hup, Nat.not_le.mp hlow⟩]

/-! ### A wrapper takes an instruction (R422) -/

/-- The instruction is in the wrapper. -/
def wirSet (t code : Nat) (s : State) : State := { s with test := { s.test with wir := fset 0 s.test.wir t code } }

/-- The stack's chain is bypassed where the device is up. -/
def chainLeft (s : State) : State := if getObj s dev Obj.bringupPhase = 0 then bypassStack s else s

theorem setWir_eq (t code : Nat) (s : State) : setWir t code s =
    if isTest code ∧ ¬ isTest (fget 0 s.test.wir t) then
      tileReset t 1 (setObj dev Obj.testAccessState (setBit (getObj s dev Obj.testAccessState) t) (wirSet t code s))
    else if ¬ isTest code ∧ isTest (fget 0 s.test.wir t) then
      tileReset t 2 (setObj dev Obj.testAccessState (clearBit (getObj s dev Obj.testAccessState) t) (chainLeft (wirSet t code s)))
    else wirSet t code s := rfl

/-- What a wrapper holds, and its tile is, once an instruction is taken; `L` names objects that stand. -/
structure WirTaken (L : List Nat) (t code : Nat) (s s' : State) : Prop extends WrapKept L s s' where
  wir : fget 0 s'.test.wir t = code
  captures : s'.test.captures = s.test.captures
  tokens : s'.test.tokens = s.test.tokens
  under : underTest s' t = if isTest code = isTest (fget 0 s.test.wir t) then underTest s t else isTest code
  reset : getReset s' t =
    if isTest code = true ∧ isTest (fget 0 s.test.wir t) = false ∧ getObj s dev Obj.bringupPhase = 0 ∧ (getReset s t).kind < 1 then
      { kind := 1, start := s.time.elapsed }
    else if isTest code = false ∧ isTest (fget 0 s.test.wir t) = true ∧ getObj s dev Obj.bringupPhase = 0 ∧ (getReset s t).kind < 2 then
      { kind := 2, start := s.time.elapsed }
    else getReset s t

theorem wrapKept_wirSet (L : List Nat) (t code : Nat) (s : State) : WrapKept L s (wirSet t code s) :=
  ⟨⟨rfl, fun _ => rfl, rfl, rfl⟩, rfl, rfl, fun _ _ => rfl, fun _ _ _ _ => rfl⟩

theorem wir_wirSet (t code : Nat) (s : State) : fget 0 (wirSet t code s).test.wir t = code := fget_fset_same 0 _ _ _

theorem underTest_setObj (t v : Nat) (ht : t < 64) (s : State) : underTest (setObj dev Obj.testAccessState v s) t = bit v t := by
  have hbits : objBits Obj.testAccessState = 64 := by decide +kernel
  unfold underTest
  rw [getObj_setObj_same, hbits]
  exact bit_mod_two_pow ht v

theorem chainLeft_kept (s : State) : WrapKept [0xB030, 0x3820, 0x9800] s (chainLeft s) ∧ (chainLeft s).test.wir = s.test.wir ∧
    (chainLeft s).test.captures = s.test.captures ∧ (chainLeft s).test.tokens = s.test.tokens ∧
    ∀ u, getReset (chainLeft s) u = getReset s u := by
  unfold chainLeft
  split
  · have hset : WrapKept [0xB030, 0x3820, 0x9800] s (bypassStack s) :=
      WrapKept.trans (b := { s with test := { s.test with stack1838 := 0 } })
        ⟨⟨rfl, fun _ => rfl, rfl, rfl⟩, rfl, rfl, fun _ _ => rfl, fun _ _ _ _ => rfl⟩
        (wrapKept_setObj (k := Obj.stackTestState) (by decide) (by decide) dev 0 _)
    exact ⟨hset, rfl, rfl, rfl, fun _ => rfl⟩
  · exact ⟨.refl _ s, rfl, rfl, rfl, fun _ => rfl⟩

/-- A wrapper whose tile goes under test or out of it takes the tile reset that goes with it. -/
theorem wirTaken_reset {code kind v : Nat} {x : State} (ht : t < 64) (hk : kind = 1 ∨ kind = 2)
    (hx : WrapKept [0x3820, 0x9800] s x) (hwir : fget 0 x.test.wir t = code) (hcaptures : x.test.captures = s.test.captures)
    (htokens : x.test.tokens = s.test.tokens) (hreset : getReset x t = getReset s t)
    (hbit : bit v t = isTest code) (hne : isTest code ≠ isTest (fget 0 s.test.wir t)) (hkind : kind = 1 ↔ isTest code = true) :
    WirTaken (if kind = 2 then [] else [0x3820]) t code s (tileReset t kind (setObj dev Obj.testAccessState v x)) := by
  obtain ⟨y, hy⟩ : ∃ y, y = setObj dev Obj.testAccessState v x := ⟨_, rfl⟩
  have hset : WrapKept [0x3820, 0x9800] x y := by
    rw [hy]
    exact wrapKept_setObj (by decide) (by decide) dev v x
  have hunder : underTest y t = isTest code := by
    rw [hy, underTest_setObj t v ht, hbit]
  have hparts : y.test = x.test ∧ getReset y t = getReset x t := by
    rw [hy]
    exact ⟨rfl, rfl⟩
  rw [← hy]
  clear hy
  have htaken := resetTaken_tileReset (t := t) hk y
  generalize tileReset t kind y = z at htaken
  have hxy := hx.trans hset
  have hphase : getObj y dev Obj.bringupPhase = getObj s dev Obj.bringupPhase := hxy.objs dev _ (by decide) (by decide)
  refine ⟨?_, ?_, ?_, ?_, ?_, ?_⟩
  · refine (hxy.mono ?_).trans (htaken.toWrapKept.mono ?_)
    · split <;> decide
    · obtain rfl | rfl := hk <;> decide
  · rw [htaken.test, hparts.1, hwir]
  · rw [htaken.test, hparts.1, hcaptures]
  · rw [htaken.test, hparts.1, htokens]
  · have hin : Obj.testAccessState / 256 ∈ keptIndices kind := by
      obtain rfl | rfl := hk <;> decide
    unfold underTest at hunder ⊢
    rw [htaken.objs dev _ (by decide) hin, hunder, if_neg hne]
  · rw [htaken.reset, hphase, hparts.2, hreset, hxy.time]
    obtain rfl | rfl := hk
    · have h1 : isTest code = true := hkind.mp rfl
      have h0 : isTest (fget 0 s.test.wir t) = false := by
        rw [h1] at hne
        exact Bool.eq_false_iff.mpr fun e => hne e.symm
      simp [h1, h0]
    · have h1 : isTest code = false := Bool.eq_false_iff.mpr fun e => absurd (hkind.mpr e) (by decide)
      have h0 : isTest (fget 0 s.test.wir t) = true := by
        rw [h1] at hne
        exact Bool.of_not_eq_false fun e => hne e.symm
      simp [h1, h0]

/-- The objects that stand where an instruction is taken: a test keeps the channels' states. -/
def wirIndices (code : Nat) : List Nat := if isTest code then [0x3820] else []

theorem wirTaken_setWir (ht : t < 64) (code : Nat) (s : State) : WirTaken (wirIndices code) t code s (setWir t code s) := by
  rw [setWir_eq]
  have hset := wrapKept_wirSet [0xB030, 0x3820, 0x9800] t code s
  split_ifs with henter hleave
  · obtain ⟨hnow, hwas⟩ := henter
    rw [show wirIndices code = [0x3820] from if_pos hnow]
    refine wirTaken_reset ht (.inl rfl) (hset.mono (by decide)) (wir_wirSet t code s) rfl rfl rfl ?_ ?_ ⟨fun _ => hnow, fun _ => rfl⟩
    · rw [bit_setBit_same, hnow]
    · rw [hnow]
      exact fun e => hwas e.symm
  · obtain ⟨hnow, hwas⟩ := hleave
    obtain ⟨hchain, hwir, hcaptures, htokens, hreset⟩ := chainLeft_kept (wirSet t code s)
    have hnow' := Bool.eq_false_iff.mpr hnow
    rw [show wirIndices code = [] from if_neg hnow]
    refine wirTaken_reset ht (.inr rfl) ((hset.trans hchain).mono (by decide)) (by rw [hwir, wir_wirSet]) hcaptures htokens (hreset t) ?_ ?_
      ⟨fun e => absurd e (by decide), fun e => absurd e hnow⟩
    · rw [bit_clearBit_same, hnow']
    · rw [hnow', hwas]
      exact Bool.false_ne_true
  · have hsame : isTest code = isTest (fget 0 s.test.wir t) := by
      rw [Bool.eq_iff_iff]
      exact ⟨fun e => not_not.mp fun e' => henter ⟨e, e'⟩, fun e => not_not.mp fun e' => hleave ⟨e', e⟩⟩
    refine ⟨hset.mono (by unfold wirIndices; split <;> decide), wir_wirSet t code s, rfl, rfl, (if_pos hsame).symm, ?_⟩
    rw [if_neg fun e => ?_, if_neg fun e => ?_]
    · rfl
    · exact absurd (hsame.trans e.2.1) (by rw [e.1]; decide)
    · exact absurd (hsame.trans e.2.1) (by rw [e.1]; decide)

end

/-! ### What each instruction does beyond (Table 17.7) -/

/-- Every instruction of a wrapper, by its code. -/
structure Instructed (t code : Nat) (s s' : State) : Prop where
  wir : fget 0 s'.test.wir t = code
  under : underTest s' t = if isTest code = isTest (fget 0 s.test.wir t) then underTest s t else isTest code
  reset : getReset s' t =
    if isTest code = true ∧ isTest (fget 0 s.test.wir t) = false ∧ decide (getObj s dev Obj.bringupPhase = 0) = true ∧
      (getReset s t).kind < 1 then { kind := 1, start := s.time.elapsed }
    else if isTest code = false ∧ isTest (fget 0 s.test.wir t) = true ∧ decide (getObj s dev Obj.bringupPhase = 0) = true ∧
      (getReset s t).kind < 2 then { kind := 2, start := s.time.elapsed }
    else getReset s t

section
variable {t code : Nat} {s y z : State} {L : List Nat}

/-- What an instruction leaves beyond the wrapper's own work keeps the wrapper, its tile and its reset. -/
theorem WirTaken.instructed (h : WirTaken L t code s y) (hwir : z.test.wir = y.test.wir)
    (hobj : getObj z dev Obj.testAccessState = getObj y dev Obj.testAccessState) (hreset : z.treset = y.treset) :
    Instructed t code s z := by
  refine ⟨by rw [hwir, h.wir], ?_, ?_⟩
  · have hunder := h.under
    unfold underTest at hunder ⊢
    rw [hobj, hunder]
  · have hr := h.reset
    unfold getReset at hr ⊢
    simp only [decide_eq_true_eq]
    rw [hreset, hr]

/-- An instruction that goes on from the wrapper's own work. -/
theorem answers_wrapped {cmd : Instr} {g : State → State} {P : State → Prop} (ht : t < 64)
    (hexec : exec cmd s = run (fun x => g (setWir t code x)) s)
    (hpending : ∀ y, (g y).pending = y.pending) (htime : ∀ y, (g y).time = y.time)
    (hP : ∀ y, WirTaken (wirIndices code) t code s y → P (g y)) : Answers cmd s P := by
  have htaken := wirTaken_setWir ht code (fresh s)
  refine answers_of_kept hexec rfl ((hpending _).trans htaken.pending) ((htime _).trans htaken.time) (hP _ ?_)
  have hfresh : WrapKept (wirIndices code) s (fresh s) :=
    ⟨⟨rfl, fun _ => rfl, rfl, rfl⟩, rfl, rfl, fun _ _ => rfl, fun _ _ _ _ => rfl⟩
  exact ⟨hfresh.trans htaken.toWrapKept, htaken.wir, htaken.captures, htaken.tokens,
    htaken.under, htaken.reset⟩

end

section
variable {s : State}

theorem answers_wsBypass (t : TileN) : Answers (.wsBypass t) s (fun s' => Instructed t.val 0 s s' ∧ SameMemory s s') :=
  answers_wrapped (g := fun y => y) t.isLt (exec_wsBypass t s) (fun _ => rfl) (fun _ => rfl) fun _ h =>
    ⟨h.instructed rfl rfl rfl, h.words.sameMemory⟩

theorem answers_wsExtest (t : TileN) : Answers (.wsExtest t) s (fun s' => Instructed t.val 1 s s' ∧ SameMemory s s' ∧
    fget 0 s'.test.captures t.val = fget 0 s.test.captures t.val + 1) := by
  refine answers_wrapped (code := 1) (g := fun y => { y with test := { y.test with
    captures := fset 0 y.test.captures t.val (fget 0 y.test.captures t.val + 1) } }) t.isLt (exec_wsExtest t s) (fun _ => rfl) (fun _ => rfl)
    fun y h => ⟨h.instructed rfl rfl rfl, h.words.sameMemory, ?_⟩
  rw [← h.captures]
  exact fget_fset_same 0 y.test.captures t.val (fget 0 y.test.captures t.val + 1)

theorem answers_wsIntest (t : TileN) : Answers (.wsIntest t) s (fun s' => Instructed t.val 2 s s' ∧ SameMemory s s' ∧
    fget 0 s'.test.tokens t.val = fget 0 s.test.tokens t.val + 1) := by
  refine answers_wrapped (code := 2) (g := fun y => { y with test := { y.test with
    tokens := fset 0 y.test.tokens t.val (fget 0 y.test.tokens t.val + 1) } }) t.isLt (exec_wsIntest t s) (fun _ => rfl) (fun _ => rfl)
    fun y h => ⟨h.instructed rfl rfl rfl, h.words.sameMemory, ?_⟩
  rw [← h.tokens]
  exact fget_fset_same 0 y.test.tokens t.val (fget 0 y.test.tokens t.val + 1)

theorem answers_pacer (t : TileN) (counts : List Nat) : Answers (.pacer t counts) s (fun s' => Instructed t.val 4 s s' ∧ SameMemory s s' ∧
    s'.out.status = stOk ∧ s'.out.data = counts.flatMap (leBytes 4)) :=
  answers_wrapped (code := 4) (g := fun y => answerData (counts.flatMap (leBytes 4))
    { y with test := { y.test with rings := fset [] y.test.rings t.val counts } }) t.isLt (exec_pacer t counts s) (fun _ => rfl)
    (fun _ => rfl) fun _ h => ⟨h.instructed rfl rfl rfl, h.words.sameMemory, rfl, rfl⟩

/-! ### MBIST (R422) -/

theorem fget_filter {α : Type} {d : α} {p : Nat × α → Bool} {k : Nat} (hp : ∀ v, p (k, v) = true) (m : FMap α) :
    fget d (m.filter p) k = fget d m k := by
  induction m with
  | nil => rfl
  | cons x m ih =>
    obtain ⟨k', v⟩ := x
    by_cases hk : k' = k
    · subst hk
      rw [List.filter_cons, if_pos (hp v)]
      unfold fget
      rw [if_pos rfl, if_pos rfl]
    · have hskip : fget d ((k', v) :: m) k = fget d m k := if_neg hk
      rw [hskip, List.filter_cons]
      split
      · exact (if_neg hk).trans ih
      · exact ih

theorem fget_append_left {α : Type} {d : α} {k : Nat} {m m' : FMap α} (h : ∀ e ∈ m', e.1 ≠ k) : fget d (m ++ m') k = fget d m k := by
  induction m with
  | nil =>
    induction m' with
    | nil => rfl
    | cons x m' ih =>
      exact (if_neg (h x List.mem_cons_self)).trans (ih fun e he => h e (List.mem_cons_of_mem _ he))
  | cons x m ih =>
    obtain ⟨k', v⟩ := x
    by_cases hk : k' = k
    · exact (if_pos hk).trans (if_pos hk).symm
    · exact (if_neg hk).trans (ih.trans (if_neg hk).symm)

theorem fget_append_right {α : Type} {d : α} {k : Nat} {m m' : FMap α} (h : ∀ e ∈ m, e.1 ≠ k) : fget d (m ++ m') k = fget d m' k := by
  induction m with
  | nil => rfl
  | cons x m ih => exact (if_neg (h x List.mem_cons_self)).trans (ih fun e he => h e (List.mem_cons_of_mem _ he))

/-- Keys outside the range that is overwritten keep their values. -/
theorem fget_overwrite_other {α : Type} [DecidableEq α] (d : α) {lo n k : Nat} (f : Nat → α) (m : FMap α) (hk : k < lo ∨ lo + n ≤ k) :
    fget d (overwrite d lo n f m) k = fget d m k := by
  have hnew : ∀ e ∈ ((List.range n).map (fun i => (lo + i, f i))).filter (fun e => decide (e.2 ≠ d)), lo ≤ e.1 ∧ e.1 < lo + n := by
    intro e he
    obtain ⟨i, hi, rfl⟩ := List.mem_map.mp (List.mem_of_mem_filter he)
    have := List.mem_range.mp hi
    dsimp only
    omega
  have hlow : ∀ e ∈ m.filter (fun e => decide (e.1 < lo)), e.1 < lo := fun e he => of_decide_eq_true (List.mem_filter.mp he).2
  have hhigh : ∀ e ∈ m.filter (fun e => decide (lo + n ≤ e.1)), lo + n ≤ e.1 := fun e he => of_decide_eq_true (List.mem_filter.mp he).2
  unfold overwrite
  dsimp only
  rcases hk with hk | hk
  · rw [fget_append_left fun e he => by have := hhigh e he; omega, fget_append_left fun e he => by have := hnew e he; omega]
    exact fget_filter (fun _ => decide_eq_true hk) m
  · rw [fget_append_right fun e he => ?_]
    · exact fget_filter (fun _ => decide_eq_true hk) m
    · rcases List.mem_append.mp he with he | he
      · have := hlow e he
        omega
      · have := hnew e he
        omega

theorem marchTest_parts (t : Nat) (s : State) : (marchTest t s).test.wir = s.test.wir ∧ (marchTest t s).dict = s.dict ∧
    (marchTest t s).treset = s.treset ∧ (marchTest t s).dram = s.dram ∧ (marchTest t s).layer = s.layer ∧
    (marchTest t s).pending = s.pending ∧ (marchTest t s).time = s.time ∧
    ∃ f, (marchTest t s).slate = overwrite 0 (t * 2 ^ 23) (2 ^ 23) f s.slate := ⟨rfl, rfl, rfl, rfl, rfl, rfl, rfl, _, rfl⟩

theorem answers_mbist (t : TileN) : Answers (.mbist t) s (fun s' => Instructed t.val 3 s s' ∧
    (∀ t' ch b row w, rawWord s' t' ch b row w = rawWord s t' ch b row w) ∧
    ∀ k, k / 2 ^ 23 ≠ t.val → fget 0 s'.slate k = fget 0 s.slate k) := by
  refine answers_wrapped (code := 3) (g := marchTest t.val) t.isLt (exec_mbist t s)
    (fun y => (marchTest_parts t.val y).2.2.2.2.2.1) (fun y => (marchTest_parts t.val y).2.2.2.2.2.2.1) fun y h => ?_
  obtain ⟨hwir, hdict, hreset, hdram, hlayer, -, -, f, hslate⟩ := marchTest_parts t.val y
  refine ⟨h.instructed hwir (getObj_congr hdict _ _) hreset, fun t' ch b row w => ?_, fun k hk => ?_⟩
  · obtain ⟨hwords, -, -⟩ := h.words.sameMemory
    rw [← hwords]
    exact rawWord_congr hdram (by rw [hlayer]) _ _ _ _ _
  · rw [hslate, fget_overwrite_other 0 f _ (by omega), h.words.slate]

/-! ### LANEPRBS (R379, R422) -/

/-- The link check of a channel begins, unless the channel is disabled. -/
def checkBegun (t c : Nat) (s : State) : State :=
  if chState s t c = 4 then s
  else setObj t (Obj.prbsBits + c) 0 (setObj t (Obj.prbsRestarts + c) 0 (setObj t (Obj.channelState + c) 1
    (modTrain t c (fun x => { x with step := 2, started := s.time.elapsed, group := none }) s)))

/-- What a link check's start may touch: three objects of the channel, and its training. -/
def CheckKey (t c u k : Nat) : Prop := u = t ∧ (k = Obj.prbsBits + c ∨ k = Obj.prbsRestarts + c ∨ k = Obj.channelState + c)

theorem checkKeys {c : Nat} (hc : c < 48) : Obj.prbsBits + c < 2 ^ 24 ∧ Obj.prbsRestarts + c < 2 ^ 24 ∧ Obj.channelState + c < 2 ^ 24 := by
  simp only [Obj.prbsBits, Obj.prbsRestarts, Obj.channelState]
  omega

theorem checkBegun_frame {c : Nat} (hc : c < 48) (t : Nat) (s : State) : checkBegun t c s =
      { s with dict := (checkBegun t c s).dict, train := (checkBegun t c s).train } ∧
    (∀ u k, k < 2 ^ 24 → ¬ CheckKey t c u k → getObj (checkBegun t c s) u k = getObj s u k) ∧
    (∀ k, k ≠ chKey t c → fget ({} : TrainS) (checkBegun t c s).train k = fget {} s.train k) := by
  obtain ⟨hbits, hrestarts, hstate⟩ := checkKeys hc
  unfold checkBegun
  split
  · exact ⟨rfl, fun _ _ _ _ => rfl, fun _ _ => rfl⟩
  · refine ⟨rfl, fun u k hk hn => ?_, fun k hk => fget_fupd_other ({} : TrainS) {} s.train
      (fun x => { x with step := 2, started := s.time.elapsed, group := none }) hk⟩
    have hne : ∀ j, j < 2 ^ 24 → (j = Obj.prbsBits + c ∨ j = Obj.prbsRestarts + c ∨ j = Obj.channelState + c) → okey u k ≠ okey t j :=
      fun j hj hin e => by
        obtain ⟨rfl, rfl⟩ := okey_inj hk hj e
        exact hn ⟨rfl, hin⟩
    rw [getObj_setObj_other _ (hne _ hbits (.inl rfl)), getObj_setObj_other _ (hne _ hrestarts (.inr (.inl rfl))),
      getObj_setObj_other _ (hne _ hstate (.inr (.inr rfl)))]
    rfl

/-- The link check of a channel has begun. -/
def Checking (t c : Nat) (s : State) : Prop :=
  chState s t c = 1 ∧ (getTrain s t c).step = 2 ∧ getObj s t (Obj.prbsBits + c) = 0

theorem checking_checkBegun {c : Nat} (hc : c < 48) (h : chState s t c ≠ 4) : Checking t c (checkBegun t c s) := by
  obtain ⟨hbits, hrestarts, hstate⟩ := checkKeys hc
  have hwidth : ∀ i : Fin 48, objBits (Obj.channelState + i.val) = 8 := by decide +kernel
  unfold checkBegun
  rw [if_neg h]
  refine ⟨?_, ?_, (getObj_setObj_same _ _ _ _).trans (Nat.zero_mod _)⟩
  · unfold chState
    rw [getObj_setObj_obj _ (by simp only [Obj.channelState, Obj.prbsBits]; omega) hstate hbits,
      getObj_setObj_obj _ (by simp only [Obj.channelState, Obj.prbsRestarts]; omega) hstate hrestarts, getObj_setObj_same, hwidth ⟨c, hc⟩]
    rfl
  · exact congrArg TrainS.step (fget_fupd_same ({} : TrainS) s.train (chKey t c)
      (fun x => { x with step := 2, started := s.time.elapsed, group := none }))

/-- The link checks of the channels of a mask. -/
def checksBegun (t mask : Nat) (s : State) : State := (List.range 48).foldl (fun s c => if bit mask c then checkBegun t c s else s) s

theorem checksBegun_eq (t mask : Nat) (s : State) : (onesOf 48 mask).foldl (fun s c =>
    if chState s t c = 4 then s
    else setObj t (Obj.prbsBits + c) 0 (setObj t (Obj.prbsRestarts + c) 0 (setObj t (Obj.channelState + c) 1
      (modTrain t c (fun x => { x with step := 2, started := s.time.elapsed, group := none }) s)))) s = checksBegun t mask s :=
  List.foldl_filter

theorem checksBegun_fields (t mask : Nat) (s : State) : ∀ d r, { checksBegun t mask s with dict := d, train := r } =
    { s with dict := d, train := r } := fun d r => by
  unfold checksBegun
  refine foldl_range_keeps (part := fun x : State => { x with dict := d, train := r }) (fun x c hc => ?_) s
  split
  · rw [(checkBegun_frame hc t x).1]
  · rfl

theorem checking_checksBegun {mask c : Nat} (hc : c < 48) (hbit : bit mask c = true) (h : chState s t c ≠ 4) :
    Checking t c (checksBegun t mask s) := by
  have hother : ∀ (x : State) (j : Nat), j < 48 → j ≠ c → ∀ k, (k = Obj.channelState + c ∨ k = Obj.prbsBits + c) →
      getObj (checkBegun t j x) t k = getObj x t k := by
    intro x j hj hne k hk
    obtain ⟨hbits, -, hstate⟩ := checkKeys hc
    refine (checkBegun_frame hj t x).2.1 t k ?_ fun e => ?_
    · rcases hk with rfl | rfl
      · exact hstate
      · exact hbits
    · have hin := e.2
      simp only [Obj.prbsBits, Obj.prbsRestarts, Obj.channelState] at hk hin
      omega
  have htrain : ∀ (x : State) (j : Nat), j < 48 → j ≠ c → getTrain (checkBegun t j x) t c = getTrain x t c := fun x j hj hne =>
    (checkBegun_frame hj t x).2.2 _ fun e => hne (by unfold chKey at e; omega)
  unfold checksBegun
  refine foldl_range_gains (P := Checking t c) (Q := fun x => chState x t c ≠ 4) hc (fun x j hj hne hx => ?_) (fun x hx => ?_)
    (fun x j hj hne hx => ?_) h
  · split
    · unfold chState at hx ⊢
      rw [hother x j hj hne _ (.inl rfl)]
      exact hx
    · exact hx
  · rw [if_pos hbit]
    exact checking_checkBegun hc hx
  · split
    · obtain ⟨hstate, hstep, hbits⟩ := hx
      unfold chState at hstate
      refine ⟨?_, ?_, ?_⟩
      · unfold chState
        rw [hother x j hj hne _ (.inl rfl), hstate]
      · rw [htrain x j hj hne, hstep]
      · rw [hother x j hj hne _ (.inr rfl), hbits]
    · exact hx

theorem testAccess_checksBegun (t mask : Nat) (s : State) :
    getObj (checksBegun t mask s) dev Obj.testAccessState = getObj s dev Obj.testAccessState := by
  unfold checksBegun
  refine foldl_range_keeps (part := fun x => getObj x dev Obj.testAccessState) (fun x c hc => ?_) s
  split
  · refine (checkBegun_frame hc t x).2.1 dev _ (by decide) fun e => ?_
    have hin := e.2
    simp only [Obj.testAccessState, Obj.prbsBits, Obj.prbsRestarts, Obj.channelState] at hin
    omega
  · rfl

theorem answers_laneprbs (t : TileN) (mask : BitVec 48) : Answers (.laneprbs t mask) s (fun s' => Instructed t.val 5 s s' ∧
    SameMemory s s' ∧ ∀ ch < 48, bit mask.toNat ch = true → chState s t.val ch ≠ 4 → Checking t.val ch s') := by
  have hexec : exec (.laneprbs t mask) s = run (fun x => checksBegun t.val mask.toNat (setWir t.val 5 x)) s := by
    rw [exec_laneprbs]
    exact congrArg (fun f => run f s) (funext fun x => checksBegun_eq t.val mask.toNat _)
  have hparts : ∀ y, (checksBegun t.val mask.toNat y).pending = y.pending ∧ (checksBegun t.val mask.toNat y).time = y.time ∧
      (checksBegun t.val mask.toNat y).test = y.test ∧ (checksBegun t.val mask.toNat y).treset = y.treset ∧
      SameWords y (checksBegun t.val mask.toNat y) := fun y => by
    have h := checksBegun_fields t.val mask.toNat y [] []
    generalize checksBegun t.val mask.toNat y = z at h
    exact ⟨congrArg (·.pending) h, congrArg (·.time) h, congrArg (·.test) h, congrArg (·.treset) h,
      sameWords_of (congrArg (·.dram) h) (congrArg (·.layer) h) (congrArg (·.slate) h) (congrArg (·.inkwell) h)⟩
  refine answers_wrapped (code := 5) t.isLt hexec (fun y => (hparts y).1) (fun y => (hparts y).2.1) fun y h => ?_
  obtain ⟨-, -, htest, hreset, hwords⟩ := hparts y
  refine ⟨h.instructed (by rw [htest]) (testAccess_checksBegun _ _ y) hreset, (h.words.trans hwords).sameMemory, fun ch hch hbit hs => ?_⟩
  refine checking_checksBegun hch hbit ?_
  have hkept : chState y t.val ch = chState s t.val ch := h.objs t.val _ (checkKeys hch).2.2 (by
    simp only [Obj.channelState]
    rw [show (0x382001 + ch) / 256 = 0x3820 by omega]
    decide)
  rw [hkept]
  exact hs

/-! ### TRIM (Table 2.6, R422) -/

theorem trimsInUse_applied (t c : Nat) (v : List Nat) (s : State) : trimsInUse (applyTrims t c v s) t c = v := by
  unfold trimsInUse applyTrims
  rw [getLayer_modLayer]
  dsimp only
  by_cases h : 5 ≤ v.length
  · have hlen : (v.take 5).length = 5 := by
      rw [List.length_take]
      omega
    rw [List.take_append_of_le_length (by omega), List.take_of_length_le (by omega), List.drop_append_of_le_length (by omega),
      List.drop_of_length_le (by omega : (v.take 5).length ≤ 5), List.nil_append]
    conv_rhs => rw [← List.take_append_drop 5 v, ← List.take_append_drop 5 (v.drop 5), List.drop_drop]
    rw [List.append_assoc]
  · rw [List.take_of_length_le (by omega : v.length ≤ 5), List.drop_of_length_le (by omega : v.length ≤ 10),
      List.drop_of_length_le (by omega : v.length ≤ 5), List.append_nil, List.take_of_length_le (by omega : v.length ≤ 5),
      List.drop_of_length_le (by omega : v.length ≤ 5)]
    simp

theorem applyTrims_parts (t c : Nat) (v : List Nat) (s : State) : SameWords s (applyTrims t c v s) := by
  refine ⟨rfl, fun k => ?_, rfl, rfl⟩
  unfold applyTrims modLayer
  by_cases hk : k = chKey t c
  · subst hk
    dsimp only
    rw [fget_fupd_same]
  · dsimp only
    rw [fget_fupd_other _ _ _ _ hk]

theorem answers_trim (t : TileN) (c : ChanN) (i : Fin 11) (write : Bool) (v : BitVec 8) :
    Answers (.trim t c i write v) s (fun s' => Instructed t.val 6 s s' ∧ SameMemory s s' ∧ s'.out.status = stOk ∧
      (write = false → s'.out.data = [(trimsInUse s t.val c.val).getD i.val 0]) ∧
      trimsInUse s' t.val c.val = if write then setNth (trimsInUse s t.val c.val) i.val (v.toNat % (if i.val = 10 then 32 else 64))
        else trimsInUse s t.val c.val) := by
  cases write with
  | true =>
    refine answers_wrapped (code := 6) (g := trimAccess t.val c.val i.val true v.toNat) t.isLt (exec_trim t c i true v s) (fun _ => rfl)
      (fun _ => rfl) fun y h => ⟨h.instructed rfl rfl rfl, (h.words.trans (applyTrims_parts _ _ _ y)).sameMemory, rfl,
        fun e => absurd e (by decide), ?_⟩
    rw [← h.trims]
    exact trimsInUse_applied _ _ _ y
  | false =>
    refine answers_wrapped (code := 6) (g := trimAccess t.val c.val i.val false v.toNat) t.isLt (exec_trim t c i false v s) (fun _ => rfl)
      (fun _ => rfl) fun y h => ⟨h.instructed rfl rfl rfl, h.words.sameMemory, rfl, fun _ => ?_, h.trims _ _⟩
    rw [← h.trims]
    rfl

/-! ### The stack's test chain (R423, R424) -/

theorem answers_stack1838 (code : BitVec 8) : Answers (.stack1838Instruction code) s (fun s' =>
    (code ≠ 0xFF ∧ ((∀ t < 64, underTest s t = true) ∨ getObj s dev Obj.bringupPhase ≠ 0) →
      s'.test.stack1838 = code.toNat + 1 ∧ getObj s' dev Obj.stackTestState = 1) ∧
    (¬ (code ≠ 0xFF ∧ ((∀ t < 64, underTest s t = true) ∨ getObj s dev Obj.bringupPhase ≠ 0)) →
      s'.test.stack1838 = 0 ∧ getObj s' dev Obj.stackTestState = 0) ∧
    OtherObjects s s' [(dev, Obj.stackTestState)] ∧
    s' = { s with test := { s.test with stack1838 := s'.test.stack1838 }, dict := s'.dict, out := {} }) := by
  have hbits : objBits Obj.stackTestState = 8 := by decide +kernel
  have hgoes : (code.toNat ≠ bypass1838 ∧ ((List.range 64).all (underTest (fresh s)) ∨ getObj (fresh s) dev Obj.bringupPhase ≠ 0)) ↔
      (code ≠ 0xFF ∧ ((∀ t < 64, underTest s t = true) ∨ getObj s dev Obj.bringupPhase ≠ 0)) := by
    refine and_congr (not_congr ⟨fun e => BitVec.eq_of_toNat_eq e, fun e => by rw [e]; rfl⟩) (or_congr ?_ Iff.rfl)
    rw [List.all_eq_true]
    exact ⟨fun h t ht => h t (List.mem_range.mpr ht), fun h t ht => h t (List.mem_range.mp ht)⟩
  have hset : ∀ v n, ObjsOnly (fun u k => (u, k) ∈ [(dev, Obj.stackTestState)]) { fresh s with test := { s.test with stack1838 := n } }
      (setObj dev Obj.stackTestState v { fresh s with test := { s.test with stack1838 := n } }) := fun v n =>
    ObjsOnly.set v (by decide) (List.mem_singleton.mpr rfl) _
  have hvalue : ∀ v n, getObj (setObj dev Obj.stackTestState v { fresh s with test := { s.test with stack1838 := n } }) dev
      Obj.stackTestState = v % 2 ^ 8 := fun v n => (getObj_setObj_same _ _ _ _).trans (by rw [hbits])
  by_cases h : code ≠ 0xFF ∧ ((∀ t < 64, underTest s t = true) ∨ getObj s dev Obj.bringupPhase ≠ 0)
  · have hrun : stackInstruction code.toNat (fresh s) =
        setObj dev Obj.stackTestState 1 { fresh s with test := { s.test with stack1838 := code.toNat + 1 } } := if_pos (hgoes.mpr h)
    exact answers_of_kept (exec_stack1838Instruction code s) hrun rfl rfl
      ⟨fun _ => ⟨rfl, hvalue _ _⟩, fun hn => absurd h hn, (hset _ _).otherObjects, rfl⟩
  · have hrun : stackInstruction code.toNat (fresh s) =
        setObj dev Obj.stackTestState 0 { fresh s with test := { s.test with stack1838 := 0 } } := if_neg fun e => h (hgoes.mp e)
    exact answers_of_kept (exec_stack1838Instruction code s) hrun rfl rfl
      ⟨fun hy => absurd hy h, fun _ => ⟨rfl, hvalue _ _⟩, (hset _ _).otherObjects, rfl⟩

end

/-- Settles O60: a wrapper keeps the instruction, asks for the tile reset that goes with it, which leaves memory and trims
alone, and goes on with what the instruction adds. -/
theorem testAccess : Obligations.TestAccess := by
  unfold Obligations.TestAccess
  refine ⟨fun t code cmd counts mask c i write v s hmem => ?_, fun code s => answers_stack1838 code⟩
  simp only [List.mem_cons, Prod.mk.injEq, List.not_mem_nil, or_false] at hmem
  rcases hmem with ⟨rfl, rfl⟩ | ⟨rfl, rfl⟩ | ⟨rfl, rfl⟩ | ⟨rfl, rfl⟩ | ⟨rfl, rfl⟩ | ⟨rfl, rfl⟩ | ⟨rfl, rfl⟩
  · obtain ⟨s', hexec, h, hsame⟩ := answers_wsBypass (s := s) t
    exact ⟨s', hexec, h.wir, h.under, h.reset, fun _ => hsame, fun e => absurd e (by decide), fun e => absurd e (by decide),
      fun e => absurd e (by decide), fun e => absurd e (by decide), fun e => absurd e (by decide), fun e => absurd e (by decide)⟩
  · obtain ⟨s', hexec, h, hsame, hcapture⟩ := answers_wsExtest (s := s) t
    exact ⟨s', hexec, h.wir, h.under, h.reset, fun _ => hsame, fun _ => hcapture, fun e => absurd e (by decide),
      fun e => absurd e (by decide), fun e => absurd e (by decide), fun e => absurd e (by decide), fun e => absurd e (by decide)⟩
  · obtain ⟨s', hexec, h, hsame, htoken⟩ := answers_wsIntest (s := s) t
    exact ⟨s', hexec, h.wir, h.under, h.reset, fun _ => hsame, fun e => absurd e (by decide), fun _ => htoken,
      fun e => absurd e (by decide), fun e => absurd e (by decide), fun e => absurd e (by decide), fun e => absurd e (by decide)⟩
  · obtain ⟨s', hexec, h, hwords, hslate⟩ := answers_mbist (s := s) t
    exact ⟨s', hexec, h.wir, h.under, h.reset, fun e => absurd rfl e, fun e => absurd e (by decide), fun e => absurd e (by decide),
      fun _ => ⟨hwords, hslate⟩, fun e => absurd e (by decide), fun e => absurd e (by decide), fun e => absurd e (by decide)⟩
  · obtain ⟨s', hexec, h, hsame, hstatus, hdata⟩ := answers_pacer (s := s) t counts
    exact ⟨s', hexec, h.wir, h.under, h.reset, fun _ => hsame, fun e => absurd e (by decide), fun e => absurd e (by decide),
      fun e => absurd e (by decide), fun _ => ⟨hstatus, hdata⟩, fun e => absurd e (by decide), fun e => absurd e (by decide)⟩
  · obtain ⟨s', hexec, h, hsame, hchecks⟩ := answers_laneprbs (s := s) t mask
    exact ⟨s', hexec, h.wir, h.under, h.reset, fun _ => hsame, fun e => absurd e (by decide), fun e => absurd e (by decide),
      fun e => absurd e (by decide), fun e => absurd e (by decide), fun _ => hchecks, fun e => absurd e (by decide)⟩
  · obtain ⟨s', hexec, h, hsame, hstatus, hdata, htrims⟩ := answers_trim (s := s) t c i write v
    exact ⟨s', hexec, h.wir, h.under, h.reset, fun _ => hsame, fun e => absurd e (by decide), fun e => absurd e (by decide),
      fun e => absurd e (by decide), fun e => absurd e (by decide), fun e => absurd e (by decide), fun _ => ⟨hstatus, hdata, htrims⟩⟩

end Sys2Proof.Machine

/-! ## Proofs: clearing fills of the block map enter the queues -/

namespace Sys2Proof.Machine

open Sys2Proof

/-! ### What the fills that clear blocks change as they enter (R70, R247) -/

/-- `s'` differs from `s` by work of the block map that has entered the queues: of the pool, only by the granules that
blocks in clearing have left. -/
structure Fed (s s' : State) : Prop where
  fields : s' = { s with
    dict := s'.dict, count := s'.count, queue := s'.queue, sched := s'.sched, merge := s'.merge, pool := s'.pool }
  objs : ∀ u k, k < 2 ^ 24 → k ≠ Obj.ingressStalls → getObj s' u k = getObj s u k
  pools : ∀ k, ∃ n, fget ({} : PoolD) s'.pool k = { fget ({} : PoolD) s.pool k with left := n }
  reqs : ∀ t, openReqs s' t = openReqs s t

theorem Fed.refl (s : State) : Fed s s := ⟨rfl, fun _ _ _ _ => rfl, fun k => ⟨(fget {} s.pool k).left, rfl⟩, fun _ => rfl⟩

theorem Fed.trans {a b c : State} (h : Fed a b) (h' : Fed b c) : Fed a c := by
  refine ⟨?_, fun u k hk hs => (h'.objs u k hk hs).trans (h.objs u k hk hs), fun k => ?_,
    fun t => (h'.reqs t).trans (h.reqs t)⟩
  · have e := h'.fields
    rw [h.fields] at e
    exact e
  · obtain ⟨n, hn⟩ := h.pools k
    obtain ⟨m, hm⟩ := h'.pools k
    exact ⟨m, by rw [hm, hn]⟩

/-- Chaining from the last step inwards. -/
theorem Fed.after {a b c : State} (h' : Fed b c) (h : Fed a b) : Fed a c := h.trans h'

section
variable {s s' : State} (h : Fed s s')
include h

theorem Fed.sameMemory : SameMemory s s' := by
  refine sameMemory_of ?_ ?_ ?_ ?_ <;> rw [h.fields]

theorem Fed.map : s'.map = s.map := by rw [h.fields]
theorem Fed.entry : s'.entry = s.entry := by rw [h.fields]
theorem Fed.way : s'.way = s.way := by rw [h.fields]
theorem Fed.queries : s'.queries = s.queries := by rw [h.fields]
theorem Fed.answers : s'.answers = s.answers := by rw [h.fields]

theorem Fed.refs (t p : Nat) : (getPool s' t p).refs = (getPool s t p).refs := by
  obtain ⟨n, hn⟩ := h.pools (t * 65536 + p)
  unfold getPool
  rw [hn]

theorem Fed.pstate (t p : Nat) : (getPool s' t p).pstate = (getPool s t p).pstate := by
  obtain ⟨n, hn⟩ := h.pools (t * 65536 + p)
  unfold getPool
  rw [hn]

end

/-- A step of the queues and the merge buffer, which changes neither the pool nor any object. -/
theorem fed_of {s s' : State} (hf : s' = { s with count := s'.count, queue := s'.queue, sched := s'.sched, merge := s'.merge })
    (hreqs : ∀ t, openReqs s' t = openReqs s t) : Fed s s' := by
  refine ⟨?_, fun u k _ _ => getObj_congr (by rw [hf]) u k, fun k => ⟨(fget {} s.pool k).left, ?_⟩, hreqs⟩ <;> rw [hf]

theorem fed_modQueue (t c : Nat) (f : QueueS → QueueS) (s : State) : Fed s (modQueue t c f s) := fed_of rfl fun _ => rfl

theorem fed_countEv (t e q n : Nat) (s : State) : Fed s (countEv t e q n s) := by
  unfold countEv
  split
  · exact .refl s
  · exact fed_of rfl fun _ => rfl

/-- A change of a tile's scheduler in anything but its open requests. -/
theorem fed_modSched (t : Nat) {f : TileSched → TileSched} (s : State)
    (hf : ∀ x, (f x).reqs = x.reqs := by exact fun _ => rfl) : Fed s (modSched t f s) := by
  refine fed_of rfl fun u => ?_
  unfold openReqs getSched modSched
  by_cases hu : u = t
  · rw [hu, fget_fupd_same, hf]
  · rw [fget_fupd_other _ _ _ _ hu]

theorem fed_bump_ingressStalls (t : Nat) (s : State) : Fed s (bump t Obj.ingressStalls 1 s) :=
  ⟨rfl, fun _ _ hk hs => getObj_setObj_obj s hs hk (by decide), fun k => ⟨(fget {} s.pool k).left, rfl⟩, fun _ => rfl⟩

/-- A block in clearing has other granules left. -/
theorem fed_setPool (t p n : Nat) (s : State) : Fed s (setPool t p { getPool s t p with left := n } s) := by
  refine ⟨rfl, fun _ _ _ _ => rfl, fun k => ?_, fun _ => rfl⟩
  by_cases hk : k = t * 65536 + p
  · refine ⟨n, ?_⟩
    rw [hk]
    exact fget_fset_same _ _ _ _
  · exact ⟨(fget {} s.pool k).left, fget_fset_other _ _ _ _ hk⟩

theorem fed_takeEntry (t c : Nat) (a : Acc) (s : State) : Fed s (takeEntry t c a s) := by
  unfold takeEntry
  dsimp only
  split
  · exact (fed_modQueue _ _ _ _).after (fed_modQueue _ _ _ s)
  · exact fed_modQueue _ _ _ s

theorem fed_mergeSettle (t c i : Nat) (s : State) : Fed s (mergeSettle t c i s) := by
  unfold mergeSettle
  split
  · exact fed_of rfl fun _ => rfl
  · exact .refl s

theorem fed_drainDeferred (fuel t c : Nat) (s : State) : Fed s (drainDeferred fuel t c s) := by
  induction fuel generalizing s with
  | zero => exact .refl s
  | succ fuel ih =>
    unfold drainDeferred
    split
    · exact .refl s
    · refine (ih _).after ?_
      split
      · exact (fed_mergeSettle _ _ _ _).after ((fed_takeEntry _ _ _ _).after (fed_modQueue _ _ _ s))
      · exact (fed_takeEntry _ _ _ _).after (fed_modQueue _ _ _ s)

/-- A fill that clears a granule of a block. -/
structure ClearFill (a : Acc) : Prop where
  fill : a.kind = .fill
  reqs : a.reqs = []
  job : ∃ p, a.job = .clear p

/-- In a disabled channel the fill is done as it enters (R60). -/
theorem fed_refuseAcc {a : Acc} (ha : ClearFill a) (t c : Nat) (s : State) : Fed s (refuseAcc t c a s) := by
  obtain ⟨-, hreqs, p, hjob⟩ := ha
  have hends : ∀ x, Fed x (batchEnds t c x) := fun x => by
    rw [batchEnds_fields]
    exact fed_of rfl fun _ => rfl
  unfold refuseAcc completeAcc jobStep
  dsimp only
  rw [hreqs, hjob]
  exact (fed_setPool t p _ _).after ((hends _).after (fed_modQueue _ _ _ s))

theorem fed_mapEnter {a : Acc} (ha : ClearFill a) (t c : Nat) (s : State) : Fed s (mapEnter t c a s) := by
  unfold mapEnter
  split
  · exact fed_refuseAcc ha t c s
  · rw [ha.fill]
    exact fed_takeEntry t c a s

/-! ### The ingress FIFO of a tile's best-effort block-map work -/

/-- The block map of a tile has no work at its ingress, but for fills that clear blocks. -/
structure Clearing (s : State) (t : Nat) : Prop where
  pass : (getSched s t).mapPass = {}
  head : (getSched s t).mapBest.head = none
  behind : ∀ i ∈ (getSched s t).mapBest.behind, ∃ c a, i = .acc c a ∧ ClearFill a
  reqs : ∀ r ∈ openReqs s t, r.requester ≠ 0x60

theorem clearing_of_mapQuiet {s : State} {t : Nat} (h : mapQuiet s t) : Clearing s t := by
  obtain ⟨hpass, hbest, hreqs⟩ := h
  refine ⟨hpass, by rw [hbest], fun i hi => ?_, hreqs⟩
  rw [hbest] at hi
  cases hi

theorem clearing_congr {s s' : State} {t : Nat} (h : s'.sched = s.sched) (hs : Clearing s t) : Clearing s' t := by
  have he : getSched s' t = getSched s t := by rw [getSched, getSched, h]
  obtain ⟨hpass, hhead, hbehind, hreqs⟩ := hs
  unfold openReqs at hreqs
  refine ⟨he ▸ hpass, he ▸ hhead, he ▸ hbehind, ?_⟩
  unfold openReqs
  rwa [he]

theorem clearing_queueFills {s : State} {t : Nat} (hs : Clearing s t) (p : Nat) : Clearing (queueFills t p s) t := by
  obtain ⟨hpass, hhead, hbehind, hreqs⟩ := hs
  unfold queueFills mapWork
  constructor
  · unfold getSched modSched at *
    rwa [fget_fupd_same]
  · unfold getSched modSched at *
    rwa [fget_fupd_same]
  · intro i hi
    unfold getSched modSched at *
    rw [fget_fupd_same] at hi
    rcases List.mem_append.mp hi with hi | hi
    · exact hbehind i hi
    · obtain ⟨k, -, rfl⟩ := List.mem_map.mp hi
      exact ⟨_, _, rfl, rfl, rfl, p, rfl⟩
  · unfold openReqs getSched modSched at *
    rwa [fget_fupd_same]

theorem Clearing.noneWaits {s : State} {t : Nat} (h : Clearing s t) (pass : Bool) :
    (getSched s t).reqs.find? (fun r => r.requester = 0x60 ∧ reqFifo r = pass ∧ r.waiting ≠ 0) = none :=
  List.find?_eq_none.mpr fun r hr hw => h.reqs r hr (by simpa using (of_decide_eq_true hw).1)

/-- A fill is taken from the FIFO. -/
theorem clearing_shorter {s : State} {t c : Nat} {a : Acc} {rest : List MapItem} (h : Clearing s t)
    (hs : (getSched s t).mapBest.behind = .acc c a :: rest) :
    Clearing (modSched t (fun x => { x with mapBest := ⟨none, rest⟩ }) s) t := by
  obtain ⟨hpass, -, hbehind, hreqs⟩ := h
  rw [hs] at hbehind
  constructor
  · unfold getSched modSched at *
    rwa [fget_fupd_same]
  · unfold getSched modSched
    rw [fget_fupd_same]
  · unfold getSched modSched
    rw [fget_fupd_same]
    exact fun i hi => hbehind i (List.mem_cons_of_mem _ hi)
  · unfold openReqs getSched modSched at *
    rwa [fget_fupd_same]

/-- The FIFOs of a tile's block map, and its open requests. -/
def mapIngress (s : State) (t : Nat) : MapFifo × MapFifo × List Req :=
  ((getSched s t).mapPass, (getSched s t).mapBest, (getSched s t).reqs)

theorem Clearing.same {s s' : State} {t : Nat} (h : Clearing s t) (he : mapIngress s' t = mapIngress s t) : Clearing s' t := by
  simp only [mapIngress, Prod.mk.injEq] at he
  obtain ⟨hpass, hbest, hreqs⟩ := he
  exact ⟨hpass.trans h.pass, by rw [hbest]; exact h.head, by rw [hbest]; exact h.behind,
    by unfold openReqs; rw [hreqs]; exact h.reqs⟩

theorem mapIngress_modQueue (t c : Nat) (f : QueueS → QueueS) (s : State) (u : Nat) :
    mapIngress (modQueue t c f s) u = mapIngress s u := rfl

theorem mapIngress_takeEntry (t c : Nat) (a : Acc) (s : State) (u : Nat) :
    mapIngress (takeEntry t c a s) u = mapIngress s u := by
  unfold takeEntry
  dsimp only
  split <;> rfl

theorem mapIngress_drainDeferred (fuel t c : Nat) (s : State) (u : Nat) :
    mapIngress (drainDeferred fuel t c s) u = mapIngress s u := by
  induction fuel generalizing s with
  | zero => rfl
  | succ fuel ih =>
    unfold drainDeferred
    split
    · rfl
    · rw [ih]
      split
      · unfold mergeSettle
        split
        · exact mapIngress_takeEntry _ _ _ _ u
        · exact mapIngress_takeEntry _ _ _ _ u
      · exact mapIngress_takeEntry _ _ _ _ u

theorem mapIngress_countEv (t e q n : Nat) (s : State) (u : Nat) : mapIngress (countEv t e q n s) u = mapIngress s u := by
  unfold countEv
  split <;> rfl

/-- A change of a tile's scheduler in neither. -/
theorem mapIngress_modSched (t : Nat) {f : TileSched → TileSched} (s : State) (u : Nat)
    (hf : ∀ x, ((f x).mapPass, (f x).mapBest, (f x).reqs) = (x.mapPass, x.mapBest, x.reqs) := by exact fun _ => rfl) :
    mapIngress (modSched t f s) u = mapIngress s u := by
  unfold mapIngress getSched modSched
  by_cases hu : u = t
  · rw [hu, fget_fupd_same, hf]
  · rw [fget_fupd_other _ _ _ _ hu]

theorem mapIngress_refuseAcc {a : Acc} (ha : ClearFill a) (t c : Nat) (s : State) (u : Nat) :
    mapIngress (refuseAcc t c a s) u = mapIngress s u := by
  obtain ⟨-, hreqs, p, hjob⟩ := ha
  unfold refuseAcc completeAcc jobStep
  dsimp only
  rw [hreqs, hjob]
  dsimp only [List.foldl_nil]
  rw [batchEnds_fields]
  rfl

theorem mapIngress_mapEnter {a : Acc} (ha : ClearFill a) (t c : Nat) (s : State) (u : Nat) :
    mapIngress (mapEnter t c a s) u = mapIngress s u := by
  unfold mapEnter
  split
  · exact mapIngress_refuseAcc ha t c s u
  · rw [ha.fill]
    exact mapIngress_takeEntry t c a s u

/-- A fill, with its numbers, as it is accepted (R70). -/
def fillAccepted (t c : Nat) (s : State) : State :=
  drainDeferred 64 t c (countEv t 0x0010 0x60 1 (newId t (newOrder t s).2).2)

theorem fed_fillAccepted (t c : Nat) (s : State) : Fed s (fillAccepted t c s) :=
  (fed_drainDeferred _ _ _ _).after ((fed_countEv _ _ _ _ _).after ((fed_modSched _ _).after (fed_modSched _ s)))

theorem mapIngress_fillAccepted (t c : Nat) (s : State) (u : Nat) : mapIngress (fillAccepted t c s) u = mapIngress s u := by
  unfold fillAccepted newId newOrder
  rw [mapIngress_drainDeferred, mapIngress_countEv, mapIngress_modSched, mapIngress_modSched]

/-- The fills enter one after the other, until one must wait (R70). -/
theorem fed_feedFifo {t : Nat} (fuel : Nat) {s : State} (h : Clearing s t) :
    Fed s (feedFifo t false (fun x => x.mapBest) (fun f x => { x with mapBest := f }) fuel s) := by
  induction fuel generalizing s with
  | zero => exact .refl s
  | succ fuel ih =>
    unfold feedFifo
    dsimp only
    rw [h.noneWaits, h.head]
    split
    · next heq => exact nomatch heq
    · next heq => exact nomatch heq
    · split
      · exact .refl s
      · next r rest hb =>
        obtain ⟨c, a, he, -⟩ := h.behind (.req r) (by rw [hb]; exact List.mem_cons_self)
        cases he
      · next c a rest hb =>
        obtain ⟨_, _, he, ha⟩ := h.behind (.acc c a) (by rw [hb]; exact List.mem_cons_self)
        cases he
        have hfed := fed_fillAccepted t c s
        have hsame : Clearing (fillAccepted t c s) t := h.same (mapIngress_fillAccepted t c s t)
        have hshort : (getSched (fillAccepted t c s) t).mapBest.behind = .acc c a :: rest := by
          have hbest : (getSched (fillAccepted t c s) t).mapBest = (getSched s t).mapBest :=
            congrArg (fun x => x.2.1) (mapIngress_fillAccepted t c s t)
          rw [hbest, hb]
        unfold fillAccepted at hfed hsame hshort
        have hin : ClearFill { a with
            id := (newId t (newOrder t s).2).1
            order := (newOrder t s).1
            frag := (newId t (newOrder t s).2).1 * 2
            stamp := s.time.timeBase } := ⟨ha.fill, ha.reqs, ha.job⟩
        split
        · refine (ih ((clearing_shorter hsame hshort).same (mapIngress_mapEnter hin _ _ _ _))).after ?_
          exact (fed_mapEnter hin _ _ _).after ((fed_modSched _ _).after hfed)
        · exact (fed_bump_ingressStalls _ _).after ((fed_modSched _ _).after hfed)

theorem fed_feedMap {s : State} {t : Nat} (h : Clearing s t) : Fed s (feedMap t s) := by
  have hpass : ∀ fuel, feedFifo t true (fun x => x.mapPass) (fun f x => { x with mapPass := f }) fuel s = s := by
    intro fuel
    cases fuel with
    | zero => rfl
    | succ fuel =>
      unfold feedFifo
      dsimp only
      rw [h.noneWaits, h.pass]
  unfold feedMap
  dsimp only
  rw [hpass]
  exact fed_feedFifo _ h

end Sys2Proof.Machine

/-! ## Proofs: a command of the block map, from its write to its result -/

namespace Sys2Proof.Machine

open Sys2Proof

/-! ### The tables, read and written -/

theorem getPool_setPool_same (t p : Nat) (d : PoolD) (s : State) : getPool (setPool t p d s) t p = d := fget_fset_same _ _ _ _

theorem getEntry_setEntry_same (t e : Nat) (x : Entry) (s : State) : getEntry (setEntry t e x s) t e = x :=
  fget_fset_same _ _ _ _

theorem getWay_setWay_same (t i : Nat) (w : Way) (s : State) : getWay (setWay t i w s) t i = w := fget_fset_same _ _ _ _

/-- An entry whose block has not moved stays with it (R256). -/
theorem moveAll_stays {s : State} {t e : Nat} (h : mustMove s t (getEntry s t e) = false) (n : Nat) : moveAll t e n s = s := by
  cases n with
  | zero => rfl
  | succ n =>
    unfold moveAll
    dsimp only
    rw [if_neg fun hm => Bool.false_ne_true (h.symm.trans hm.2)]

/-! ### The fields of a command written with its operation code (Table 9.5) -/

theorem bits_withMapOp (v : BitVec 256) {op lo n : Nat} (hop : op < 256) (hlo : 8 ≤ lo) :
    bits (withMapOp v op) lo n = bits v.toNat lo n := by
  have hdiv : withMapOp v op / 256 = v.toNat / 256 := by
    unfold withMapOp
    omega
  have hsplit : (2 : Nat) ^ lo = 256 * 2 ^ (lo - 8) := by
    rw [show (256 : Nat) = 2 ^ 8 by decide, ← Nat.pow_add, Nat.add_sub_cancel' hlo]
  unfold bits
  rw [hsplit, ← Nat.div_div_eq_div_mul, ← Nat.div_div_eq_div_mul, hdiv]

theorem mcOp_withMapOp (v : BitVec 256) {op : Nat} (hop : op < 256) : mcOp (withMapOp v op) = op := by
  unfold mcOp bits withMapOp
  omega

section
variable (v : BitVec 256) {op : Nat} (hop : op < 256)
include hop

theorem mcArg_withMapOp : mcArg (withMapOp v op) = mcArg v.toNat := bits_withMapOp v hop (by decide)
theorem mcTile_withMapOp : mcTile (withMapOp v op) = mcTile v.toNat := bits_withMapOp v hop (by decide)
theorem mcCount_withMapOp : mcCount (withMapOp v op) = mcCount v.toNat := bits_withMapOp v hop (by decide)
theorem mcPart_withMapOp : mcPart (withMapOp v op) = mcPart v.toNat := bits_withMapOp v hop (by decide)
theorem mcEntry_withMapOp : mcEntry (withMapOp v op) = mcEntry v.toNat := bits_withMapOp v hop (by decide)

theorem mcWrite_withMapOp : mcWrite (withMapOp v op) = mcWrite v.toNat := by
  have h := bits_withMapOp (n := 1) v hop (lo := 132) (by decide)
  unfold mcWrite bit
  unfold bits at h
  rw [pow_one] at h
  rw [h]

end

/-- A command for one entry names one (Table 9.6). -/
theorem mcCount_of_single {s : State} {t v : Nat} (hok : mcOk s t v = true) (hone : mcSingle (mcOp v) = true) :
    mcCount v = 1 := by
  simp only [mcOk, Bool.and_eq_true, Bool.or_eq_true, Bool.not_eq_true', decide_eq_true_eq] at hok
  obtain ⟨⟨⟨⟨⟨-, h⟩, -⟩, -⟩, -⟩, -⟩ := hok
  exact h.resolve_left (by simp [hone])

/-- The key of a command that names one is not 0 (R253). -/
theorem mcArg_of_key {s : State} {t v : Nat} (hok : mcOk s t v = true) (hkey : mcNamesKey (mcOp v) = true) : mcArg v ≠ 0 := by
  simp only [mcOk, Bool.and_eq_true, Bool.or_eq_true, Bool.not_eq_true', decide_eq_true_eq] at hok
  obtain ⟨⟨⟨-, h⟩, -⟩, -⟩ := hok
  exact h.resolve_left (by simp [hkey])

/-! ### A command of one record -/

/-- The records a command is for: of one that counts none, one (Table 9.6). -/
def mcRecords (v : Nat) : Nat := if mcNoCount (mcOp v) then 1 else mcCount v

section
variable {s y : State} {t v : Nat} {w : MapWait}

theorem mapOne_clean (hs : s.sramErr = []) (i : Nat) (hrel : mcOp v ≠ 3) (hmove : mcOp v ≠ 9) :
    mapOne t v i w s = mapOp t v i w s := by
  unfold mapOne opLost readSet
  simp [entryLost_clean hs, mapWords_clean hs, hrel, hmove]

theorem mapRun_loop (hok : mcOk s t w.raw = true) (halloc : mcOp w.raw ≠ 1) (hrec : mcRecords w.raw = 1) (hdone : w.done = 0) :
    mapRun t w s = mapLoop t w.raw 1 0 w.block w.detail w s := by
  unfold mcRecords at hrec
  unfold mapRun
  simp [hok, halloc, hrec, hdone]

theorem mapRun_ok {b d : Nat} (hok : mcOk s t w.raw = true) (halloc : mcOp w.raw ≠ 1) (hrec : mcRecords w.raw = 1)
    (hdone : w.done = 0) (hone : mapOne t w.raw 0 w s = (.ok b d, y)) : mapRun t w s = (.finish stOk 0 1 b d, y) := by
  rw [mapRun_loop hok halloc hrec hdone, mapLoop, hone]
  rfl

theorem mapRun_stop {st r : Nat} (hok : mcOk s t v = true) (halloc : mcOp v ≠ 1) (hrec : mcRecords v = 1)
    (hlist : mcOp v ≠ 13) (hone : mapOne t v 0 { raw := v } s = (.stop st r, y)) :
    mapRun t { raw := v } s = (.finish st r 0 0 0, y) := by
  rw [mapRun_loop (w := { raw := v }) hok halloc hrec rfl]
  dsimp only
  rw [mapLoop, hone]
  simp [mapStop, hlist]

theorem mapRun_waits {a : Bool} (hok : mcOk s t w.raw = true) (halloc : mcOp w.raw ≠ 1) (hrec : mcRecords w.raw = 1)
    (hdone : w.done = 0) (hone : mapOne t w.raw 0 w s = (.wait a, y)) :
    mapRun t w s = (.wait 0 a w.block w.detail, y) := by
  rw [mapRun_loop hok halloc hrec hdone, mapLoop, hone]

end

/-! ### The queue of commands (R245) -/

/-- No command of a tile waits or is in progress, outside Hold. -/
structure MapIdle (s : State) (t : Nat) : Prop where
  wait : (getMap s t).wait = none
  queue : (getMap s t).queue = []
  running : inHold s t = false

/-- Nothing that a command's progress is read from changes. -/
structure MapSame (s s' : State) : Prop where
  map : s'.map = s.map
  ptile : s'.ptile = s.ptile

theorem MapIdle.same {s s' : State} {t : Nat} (h : MapIdle s t) (he : MapSame s s') : MapIdle s' t := by
  obtain ⟨hwait, hqueue, hrun⟩ := h
  unfold getMap at hwait hqueue
  unfold inHold getPTile at hrun
  exact ⟨by rw [getMap, he.map]; exact hwait, by rw [getMap, he.map]; exact hqueue,
    by rw [inHold, getPTile, he.ptile]; exact hrun⟩

theorem mapPump_idle {s : State} {t : Nat} (h : MapIdle s t) (n : Nat) : mapPump t n s = s := by
  cases n with
  | zero => rfl
  | succ n =>
    rw [mapPump]
    simp [h.running, h.wait, h.queue]

theorem mapTry_finish {s y : State} {t st r n b d : Nat} {w : MapWait}
    (h : mapRun t w (modMap t (fun m => { m with wait := none }) s) = (.finish st r n b d, y)) :
    mapTry t w s = setMapResult t st r n b d y := by
  unfold mapTry
  rw [h]

theorem mapTry_wait {s y : State} {t i b d : Nat} {a : Bool} {w : MapWait}
    (h : mapRun t w (modMap t (fun m => { m with wait := none }) s) = (.wait i a b d, y)) : mapTry t w s =
      modMap t (fun m => { m with wait := some { raw := w.raw, done := i, asked := a, block := b, detail := d } }) y := by
  unfold mapTry
  rw [h]

theorem mapSame_setObj (u k v : Nat) (s : State) : MapSame s (setObj u k v s) := ⟨rfl, rfl⟩

theorem mapSame_setMapResult (t st r n b d : Nat) (s : State) : MapSame s (setMapResult t st r n b d s) :=
  mapSame_setObj _ _ _ s

/-- The command in progress ends. -/
theorem mapPump_ends {s y : State} {t st r n b d k : Nat} {w : MapWait} (hrun : inHold s t = false)
    (hwait : (getMap s t).wait = some w)
    (h : mapRun t w (modMap t (fun m => { m with wait := none }) s) = (.finish st r n b d, y)) (hy : MapIdle y t) :
    mapPump t (k + 1) s = setMapResult t st r n b d y := by
  have hidle := hy.same (mapSame_setMapResult t st r n b d y)
  rw [mapPump]
  simp [hrun, hwait, mapTry_finish h, hidle.wait, mapPump_idle hidle]

/-- The command in progress waits on. -/
theorem mapPump_waits {s y : State} {t k : Nat} {w : MapWait} (hrun : inHold s t = false)
    (hwait : (getMap s t).wait = some w) (h : mapTry t w s = y) (hy : (getMap y t).wait.isSome = true) :
    mapPump t (k + 1) s = y := by
  rw [mapPump]
  simp [hrun, hwait, h, hy]

/-! ### The command as it is taken up -/

/-- The command is taken from an idle tile's queue, and nothing of it has been done. -/
structure Begun (s z : State) (t : Nat) : Prop where
  fields : z = { s with map := z.map, out := {} }
  map : getMap z t = getMap s t

theorem begun_of {s z : State} {t : Nat} (hz : z = { s with map := z.map, out := {} })
    (f : MapS → MapS) (hf : f (getMap z t) = getMap s t) : Begun s (modMap t f z) t := by
  refine ⟨?_, (getMap_modMap t f z).trans hf⟩
  rw [hz]
  rfl

section
variable {s z : State} {t : Nat} (h : Begun s z t)
include h

theorem Begun.getObj (u k : Nat) : getObj z u k = Machine.getObj s u k := getObj_congr (by rw [h.fields]) u k
theorem Begun.sramErr (hs : s.sramErr = []) : z.sramErr = [] := by rw [h.fields]; exact hs

theorem Begun.mcOk (v : Nat) : mcOk z t v = Machine.mcOk s t v := by
  unfold Machine.mcOk blockBytes poolG
  rw [h.getObj]

theorem Begun.idle (hi : MapIdle s t) : MapIdle z t := by
  refine ⟨by rw [h.map]; exact hi.wait, by rw [h.map]; exact hi.queue, ?_⟩
  rw [inHold, getPTile, h.fields]
  exact hi.running

theorem Begun.clearing (hc : Clearing s t) : Clearing z t := clearing_congr (by rw [h.fields]) hc
theorem Begun.quiet (hc : mapQuiet s t) : mapQuiet z t := mapQuiet_congr (by rw [h.fields]) hc
theorem Begun.getEntry (e : Nat) : getEntry z t e = Machine.getEntry s t e := by rw [Machine.getEntry, h.fields]; rfl
theorem Begun.getPool (p : Nat) : getPool z t p = Machine.getPool s t p := by rw [Machine.getPool, h.fields]; rfl
theorem Begun.getWay (i : Nat) : getWay z t i = Machine.getWay s t i := by rw [Machine.getWay, h.fields]; rfl

theorem Begun.findKey (key part : Nat) : findKey z t key part = Machine.findKey s t key part := by
  unfold Machine.findKey
  simp only [h.getWay]

theorem Begun.mustMove (x : Entry) (hx : x.state = 1 ∨ x.state = 4) : mustMove z t x = Machine.mustMove s t x := by
  have hno : ¬ (x.state = 5 ∧ x.wasFar = true) := fun hf => by
    rcases hx with hx | hx <;> rw [hx] at hf <;> exact absurd hf.1 (by decide)
  unfold Machine.mustMove
  simp only [hno, if_false, h.getPool]

end

/-- A command written to an idle tile is taken up at once, as its only one. -/
theorem mapPump_takes {s : State} {t : Nat} (hi : MapIdle s t) (v k : Nat) : ∃ z, Begun s z t ∧
    (∀ st r n b d y, mapRun t { raw := v } z = (.finish st r n b d, y) → MapIdle y t →
      mapPump t (k + 1) (modMap t (fun m => { m with queue := m.queue ++ [v] }) (fresh s)) = setMapResult t st r n b d y) ∧
    (∀ a y, mapRun t { raw := v } z = (.wait 0 a 0 0, y) → mapPump t (k + 1)
      (modMap t (fun m => { m with queue := m.queue ++ [v] }) (fresh s)) =
        mapPump t k (modMap t (fun m => { m with wait := some { raw := v, asked := a } }) y)) := by
  have hmap : ∀ f, getMap (modMap t f (fresh s)) t = f (getMap s t) := fun f => getMap_modMap t f (fresh s)
  have hnext := mapPump_next (n := k) (s := modMap t (fun m => { m with queue := m.queue ++ [v] }) (fresh s)) (rest := [])
    hi.running ((congrArg MapS.wait (hmap _)).trans hi.wait) ((congrArg MapS.queue (hmap _)).trans (by rw [hi.queue]; rfl))
  refine ⟨modMap t (fun m => { m with wait := none }) (modMap t (fun m => { m with queue := [] })
    (modMap t (fun m => { m with queue := m.queue ++ [v] }) (fresh s))), begun_of rfl _ ?_, ?_, ?_⟩
  · rw [getMap_modMap, getMap_modMap]
    show { getMap s t with queue := [], wait := none } = getMap s t
    rw [← hi.queue, ← hi.wait]
  · intro st r n b d y hrun hy
    rw [hnext, mapTry_finish hrun, mapPump_idle (hy.same (mapSame_setMapResult _ _ _ _ _ _ _))]
  · intro a y hrun
    rw [hnext, mapTry_wait hrun]

end Sys2Proof.Machine

/-! ## Proofs: keys of the directory of prefixes -/

namespace Sys2Proof.Machine

open Sys2Proof

/-! ### A reference is dropped (R247) -/

theorem dropRef_fields (t p part : Nat) (s : State) : dropRef t p part s = { s with
    dict := (dropRef t p part s).dict, sched := (dropRef t p part s).sched, pool := (dropRef t p part s).pool } := by
  unfold dropRef
  dsimp only
  split
  · split <;> rfl
  · rfl

theorem getObj_dropRef {k : Nat} (t p part u : Nat) (s : State) (hk : k < 2 ^ 24) (hf : k ≠ Obj.freeBlocks) :
    getObj (dropRef t p part s) u k = getObj s u k := by
  unfold dropRef
  dsimp only
  split
  · split
    · rfl
    · exact getObj_setObj_obj _ hf hk (by decide)
  · rfl

theorem refs_dropRef (t p part : Nat) (s : State) : (getPool (dropRef t p part s) t p).refs = (getPool s t p).refs - 1 := by
  unfold dropRef
  dsimp only
  split
  · split <;> exact congrArg PoolD.refs (getPool_setPool_same _ _ _ s)
  · exact congrArg PoolD.refs (getPool_setPool_same _ _ _ s)

theorem clearing_setPool {s : State} {t : Nat} (h : Clearing s t) (u p : Nat) (d : PoolD) : Clearing (setPool u p d s) t :=
  clearing_congr (s := s) rfl h

theorem clearing_bump {s : State} {t : Nat} (h : Clearing s t) (u k n : Nat) : Clearing (bump u k n s) t :=
  clearing_congr (s := s) rfl h

theorem clearing_dropRef {s : State} {t : Nat} (h : Clearing s t) (p part : Nat) : Clearing (dropRef t p part s) t := by
  unfold dropRef
  dsimp only
  split
  · split
    · exact clearing_queueFills (clearing_setPool h _ _ _) p
    · exact clearing_bump (clearing_setPool h _ _ _) _ _ _
  · exact clearing_setPool h _ _ _

/-! ### What a command on the directory and the entries changes, to its end -/

/-- `y` differs from `z` by objects, counted events, the block map's tables, and clearing work only. -/
def Handled (z y : State) : Prop := y = { z with
  dict := y.dict, count := y.count, entry := y.entry, pool := y.pool, way := y.way, sched := y.sched
  sramErr := y.sramErr, queries := y.queries }

section
variable {z y : State} (h : Handled z y)
include h

theorem Handled.mapSame : MapSame z y := ⟨by rw [h], by rw [h]⟩

theorem Handled.sameMemory : SameMemory z y := by
  refine sameMemory_of ?_ ?_ ?_ ?_ <;> rw [h]

theorem Handled.trans {x : State} (h' : Handled y x) : Handled z x := by
  unfold Handled at *
  rw [h] at h'
  exact h'

theorem Handled.after {x : State} (h' : Handled x z) : Handled x y := h'.trans h

end

theorem Handled.refl (z : State) : Handled z z := rfl

theorem handled_dropRef (t p part : Nat) (s : State) : Handled s (dropRef t p part s) := by
  unfold Handled
  rw [dropRef_fields]

theorem handled_bump (u k n : Nat) (s : State) : Handled s (bump u k n s) := rfl

theorem handled_countEv (t e q n : Nat) (s : State) : Handled s (countEv t e q n s) := by
  unfold Handled
  rw [countEv_fields]

theorem handled_setPool (t p : Nat) (d : PoolD) (s : State) : Handled s (setPool t p d s) := rfl
theorem handled_setWay (t i : Nat) (w : Way) (s : State) : Handled s (setWay t i w s) := rfl
theorem handled_mapEntry (t e a b p v : Nat) (d : Bool) (s : State) : Handled s (mapEntry t e a b p v d s) := rfl

theorem storeWords_fields (t : Nat) (l : List Nat) (s : State) :
    storeWords t l s = { s with sramErr := (storeWords t l s).sramErr } := by
  unfold storeWords
  induction l generalizing s with
  | nil => rfl
  | cons w l ih =>
    rw [List.foldl_cons, ih]
    rfl

theorem handled_storeWords (t : Nat) (l : List Nat) (s : State) : Handled s (storeWords t l s) := by
  unfold Handled
  rw [storeWords_fields]

/-! ### The result of a command (Table 9.7) -/

theorem getObj_setMapResult_same (t r n b d : Nat) (s : State) : getObj (setMapResult t stOk r n b d s) t Obj.mapResult =
    fld 64 64 d + fld 48 16 n + fld 32 16 b + fld 8 8 r := by
  have hbits : objBits Obj.mapResult = 128 := by decide
  have hfit : fld 64 64 d + fld 48 16 n + fld 32 16 b + fld 8 8 r < 2 ^ objBits Obj.mapResult := by
    rw [hbits]
    unfold fld
    omega
  have hzero : fld 0 8 stOk = 0 := by decide
  unfold setMapResult
  rw [hzero, Nat.add_zero]
  exact getObj_setObj_fits s hfit

/-- The result of a command has been written, and the fills it may have caused have been accepted. -/
structure Ended (t r n b d : Nat) (y x : State) : Prop where
  result : getObj x t Obj.mapResult = fld 64 64 d + fld 48 16 n + fld 32 16 b + fld 8 8 r
  objs : ∀ u k, k < 2 ^ 24 → k ≠ Obj.ingressStalls → k ≠ Obj.mapResult → getObj x u k = getObj y u k
  map : x.map = y.map
  entry : x.entry = y.entry
  way : x.way = y.way
  queries : x.queries = y.queries
  answers : x.answers = y.answers
  refs : ∀ u p, (getPool x u p).refs = (getPool y u p).refs
  pool : mapQuiet y t → x.pool = y.pool
  sameMemory : SameMemory y x

/-- Only the dictionary of `w` is another than that of `y`, and of it only the result of a tile's command. -/
structure ResultIn (t r n b d : Nat) (y w : State) : Prop where
  fields : w = { y with dict := w.dict }
  word : getObj w t Obj.mapResult = fld 64 64 d + fld 48 16 n + fld 32 16 b + fld 8 8 r
  objs : ∀ u k, k < 2 ^ 24 → k ≠ Obj.mapResult → getObj w u k = getObj y u k

theorem dict_setObj (u k v : Nat) (s : State) : setObj u k v s = { s with dict := (setObj u k v s).dict } := rfl

theorem resultIn_setMapResult (t r n b d : Nat) (y : State) : ResultIn t r n b d y (setMapResult t stOk r n b d y) :=
  ⟨dict_setObj _ _ _ y, getObj_setMapResult_same t r n b d y, fun _ _ hk hr => getObj_setObj_obj y hr hk (by decide)⟩

theorem ended_of_fed {t r n b d : Nat} {y w x : State} (hw : ResultIn t r n b d y w) (h : Fed w x)
    (hq : mapQuiet w t → x = w) : Ended t r n b d y x where
  result := (h.objs _ _ (by decide) (by decide)).trans hw.word
  objs u k hk hs hr := (h.objs u k hk hs).trans (hw.objs u k hk hr)
  map := h.map.trans (by rw [hw.fields])
  entry := h.entry.trans (by rw [hw.fields])
  way := h.way.trans (by rw [hw.fields])
  queries := h.queries.trans (by rw [hw.fields])
  answers := h.answers.trans (by rw [hw.fields])
  refs u p := (h.refs u p).trans (by unfold getPool; rw [hw.fields])
  pool hy := by rw [hq (mapQuiet_congr (by rw [hw.fields]) hy), hw.fields]
  sameMemory := by
    refine SameMemory.trans (b := w) (sameMemory_of ?_ ?_ ?_ ?_) h.sameMemory <;> rw [hw.fields]

/-- Nothing of the block map of a tile is under way. -/
structure AtRest (s : State) (t : Nat) : Prop where
  idle : MapIdle s t
  quiet : mapQuiet s t
  clean : s.sramErr = []

/-- A command that ends as it is taken up. -/
theorem answers_ends {c : Instr} {s : State} {t v r n b d : Nat} {P : State → Prop}
    (hexec : exec c s = run (writeMapCommand t v) s) (hs : AtRest s t)
    (hrun : ∀ z, Begun s z t → z.sramErr = [] → mapQuiet z t → ∃ y, mapRun t { raw := v } z = (.finish stOk r n b d, y) ∧ Handled z y ∧
      Clearing y t ∧ ∀ x, x.out = { status := stOk } → SameMemory s x → Ended t r n b d y x → P x) : Answers c s P := by
  obtain ⟨z, hz, hends, -⟩ := mapPump_takes hs.idle v 63
  obtain ⟨y, hy, hhandled, hclear, hP⟩ := hrun z hz (hz.sramErr hs.clean) (hz.quiet hs.quiet)
  have hpump := hends _ _ _ _ _ _ hy ((hz.idle hs.idle).same hhandled.mapSame)
  have hstep : writeMapCommand t v (fresh s) = answer stOk (feedMap t (setMapResult t stOk r n b d y)) := by
    unfold writeMapCommand
    rw [hpump]
  have hword := resultIn_setMapResult t r n b d y
  generalize setMapResult t stOk r n b d y = w at hstep hword
  have hkept : w.out = {} ∧ w.pending = s.pending ∧ w.time = s.time := by
    rw [hword.fields, hhandled, hz.fields]
    exact ⟨rfl, rfl, rfl⟩
  have hfed : Fed w (feedMap t w) := fed_feedMap (clearing_congr (by rw [hword.fields]) hclear)
  have hended : Ended t r n b d y (feedMap t w) := ended_of_fed hword hfed feedMap_quiet
  have hmem : SameMemory s y := SameMemory.trans (b := z) (by rw [hz.fields]; exact sameMemory_of rfl rfl rfl rfl) hhandled.sameMemory
  generalize feedMap t w = x at hstep hended hfed
  have hout : x.out = {} := by
    rw [hfed.fields]
    exact hkept.1
  rw [answer_stOk hout] at hstep
  refine answers_of_kept hexec hstep ?_ ?_ (hP x hout (hmem.trans hended.sameMemory) hended)
  · rw [hfed.fields]
    exact hkept.2.1
  · rw [hfed.fields]
    exact hkept.2.2

end Sys2Proof.Machine

/-! ## Proofs: the commands of the directory of prefixes -/

namespace Sys2Proof.Machine

open Sys2Proof

/-! ### Hits and adoptions (R254) -/

theorem handled_hitWay (t i : Nat) (s : State) : Handled s (hitWay t i s) :=
  (handled_setWay _ _ _ _).after ((handled_countEv _ _ _ _ _).after (handled_bump _ _ _ s))

/-- A way is hit at this time once more. -/
def hitOnce (s : State) (w : Way) : Way := { w with lastHit := s.time.timeBase, hits := min (w.hits + 1) (2 ^ 32 - 1) }

theorem getWay_hitWay (t i : Nat) (s : State) : getWay (hitWay t i s) t i = hitOnce s (getWay s t i) :=
  fget_fset_same _ _ _ _

theorem getObj_hitWay (t i : Nat) (s : State) :
    getObj (hitWay t i s) t Obj.prefixHits = (getObj s t Obj.prefixHits + 1) % 2 ^ 64 := by
  have hbits : objBits Obj.prefixHits = 64 := by decide
  have hdict : (hitWay t i s).dict = (bump t Obj.prefixHits 1 s).dict := by
    unfold hitWay
    dsimp only
    rw [countEv_fields]
    rfl
  rw [getObj_congr hdict]
  refine (getObj_setObj_same _ _ _ _).trans ?_
  rw [hbits]

theorem hitWay_tables (t i : Nat) (s : State) : (hitWay t i s).entry = s.entry ∧ (hitWay t i s).pool = s.pool ∧
    (hitWay t i s).sched = s.sched := by
  unfold hitWay
  dsimp only
  rw [countEv_fields]
  exact ⟨rfl, rfl, rfl⟩

/-- The directory with one more reference to the block that way `i` holds, and the way hit. -/
def adoptedWay (t i : Nat) (s : State) : State :=
  let p := (getWay s t i).block
  hitWay t i (setPool t p { getPool s t p with refs := (getPool s t p).refs + 1 } s)

theorem handled_adoptedWay (t i : Nat) (s : State) : Handled s (adoptedWay t i s) :=
  (handled_hitWay _ _ _).after (handled_setPool _ _ _ s)

theorem adoptedWay_spec (t i : Nat) (s : State) : (adoptedWay t i s).entry = s.entry ∧
    (adoptedWay t i s).sched = s.sched ∧ getWay (adoptedWay t i s) t i = hitOnce s (getWay s t i) ∧
    getObj (adoptedWay t i s) t Obj.prefixHits = (getObj s t Obj.prefixHits + 1) % 2 ^ 64 ∧
    (getPool (adoptedWay t i s) t (getWay s t i).block).refs = (getPool s t (getWay s t i).block).refs + 1 := by
  unfold adoptedWay
  dsimp only
  obtain ⟨hentry, hpool, hsched⟩ := hitWay_tables t i (setPool t (getWay s t i).block
    { getPool s t (getWay s t i).block with refs := (getPool s t (getWay s t i).block).refs + 1 } s)
  refine ⟨hentry.trans rfl, hsched.trans rfl, getWay_hitWay _ _ _, getObj_hitWay _ _ _, ?_⟩
  unfold getPool at hpool ⊢
  rw [hpool]
  exact congrArg PoolD.refs (getPool_setPool_same _ _ _ s)

section
variable {s : State} (hs : s.sramErr = [])
include hs

/-- A hit adopts the block (R254). -/
theorem adoptHere_hit {u key part i : Nat} (hkey : findKey s u key part = some i)
    (hrefs : (getPool s u (getWay s u i).block).refs < 65535) : adoptHere u key part s =
      ({ src := u, dst := u, kind := 3, arg := key, part := part, ok := true, block := (getWay s u i).block },
        adoptedWay u i s) := by
  unfold adoptHere readSet
  simp [mapWords_clean hs, hkey, Nat.not_le.mpr hrefs, adoptedWay]

/-- A tile's own key is adopted into a FREE entry. -/
theorem adoptOne_here {t e key v i : Nat} {w : MapWait} (hzero : key ≠ 0) (hfree : (getEntry s t e).state = 0)
    (hkey : findKey s t key (mcPart v) = some i) (hrefs : (getPool s t (getWay s t i).block).refs < 65535) :
    adoptOne t e t key v w s =
      (.ok (getWay s t i).block 0, mapEntry t e 1 0 (getWay s t i).block v false (adoptedWay t i s)) := by
  unfold adoptOne
  simp [hzero, hfree, adoptHere_hit hs hkey hrefs]

omit hs in
theorem adoptOne_asks {t e u key v : Nat} (hzero : key ≠ 0) (hfree : (getEntry s t e).state = 0) (hfar : u ≠ t) (a : Bool) :
    adoptOne t e u key v { raw := v, asked := a } s = (.wait true,
      if a then s else ask { src := t, dst := u, kind := 3, arg := key, part := mcPart v } s) := by
  unfold adoptOne
  cases a <;> simp [hzero, hfree, hfar]

end

/-! ### One record of each command -/

section
variable {s : State} (hs : s.sramErr = []) {t v : Nat} {w : MapWait}
include hs

/-- PUBLISH into a free way (R253). -/
theorem mapOne_publish (hop : mcOp v = 9)
    (hstate : (getEntry s t (mcEntry v)).state = 1 ∨ (getEntry s t (mcEntry v)).state = 4)
    (hstays : mustMove s t (getEntry s t (mcEntry v)) = false)
    (hrefs : (getPool s t (getEntry s t (mcEntry v)).block).refs < 65535) :
    mapOne t v 0 w s = (.ok (getEntry s t (mcEntry v)).block 0,
      publish t (mcArg v) (mcPart v) (getEntry s t (mcEntry v)).block s) := by
  have hnot : ¬ ((getEntry s t (mcEntry v)).state ≠ 1 ∧ (getEntry s t (mcEntry v)).state ≠ 4) := by tauto
  unfold mapOne opLost
  simp [entryLost_clean hs, hop, moveAll_stays hstays, mapOp, hnot, Nat.not_le.mpr hrefs]

/-- An UNPUBLISH waits for an ADOPT of its key that is on its way (R258). -/
theorem mapOne_unpublish_waits (hop : mcOp v = 10) (hcoming : adoptComing s t (mcArg v) (mcPart v) = true) :
    mapOne t v 0 w s = (.wait false, s) := by
  rw [mapOne_clean hs 0 (by rw [hop]; decide) (by rw [hop]; decide)]
  unfold mapOp
  rw [hop]
  exact if_pos hcoming

theorem mapOne_unpublish_found {k : Nat} (hop : mcOp v = 10) (hcoming : adoptComing s t (mcArg v) (mcPart v) = false)
    (hkey : findKey s t (mcArg v) (mcPart v) = some k) : mapOne t v 0 w s = (.ok (getWay s t k).block 0, clearWay t k s) := by
  rw [mapOne_clean hs 0 (by rw [hop]; decide) (by rw [hop]; decide)]
  unfold mapOp
  rw [hop]
  dsimp only
  rw [hcoming, hkey]
  rfl

theorem mapOne_unpublish_missing (hop : mcOp v = 10) (hcoming : adoptComing s t (mcArg v) (mcPart v) = false)
    (hkey : findKey s t (mcArg v) (mcPart v) = none) : mapOne t v 0 w s = (.stop stOk 5, s) := by
  rw [mapOne_clean hs 0 (by rw [hop]; decide) (by rw [hop]; decide)]
  unfold mapOp
  rw [hop]
  dsimp only
  rw [hcoming, hkey]
  rfl

theorem mapOne_lookup_hit {k : Nat} (hop : mcOp v = 11) (hkey : findKey s t (mcArg v) (mcPart v) = some k) :
    mapOne t v 0 w s = (.ok (getWay s t k).block (fld 16 6 t + (getWay s t k).block), hitWay t k s) := by
  rw [mapOne_clean hs 0 (by rw [hop]; decide) (by rw [hop]; decide)]
  unfold mapOp
  rw [hop]
  dsimp only
  rw [hkey]
  rfl

theorem mapOne_lookup_miss (hop : mcOp v = 11) (hkey : findKey s t (mcArg v) (mcPart v) = none) :
    mapOne t v 0 w s = (.stop stOk 5, bump t Obj.prefixMisses 1 s) := by
  rw [mapOne_clean hs 0 (by rw [hop]; decide) (by rw [hop]; decide)]
  unfold mapOp
  rw [hop]
  dsimp only
  rw [hkey]
  rfl

theorem mapOne_adopt (hop : mcOp v = 12) :
    mapOne t v 0 w s = adoptOne t (mcEntry v) (mcTile v) (mcArg v) v w s := by
  rw [mapOne_clean hs 0 (by rw [hop]; decide) (by rw [hop]; decide)]
  unfold mapOp
  rw [hop]
  rfl

/-- The record of an ADOPTLIST, read from the Slate (R254). -/
theorem mapOne_adoptlist (hop : mcOp v = 13) (hgood : slateBad s t (mcArg v) 16 = false)
    (hzero : bits (slateNat s t (mcArg v) 16) 38 10 = 0 ∧ bits (slateNat s t (mcArg v) 16) 0 32 = 0) :
    mapOne t v 0 w s = adoptOne t (bits (slateNat s t (mcArg v) 16) 48 16) (bits (slateNat s t (mcArg v) 16) 32 6)
      (bits (slateNat s t (mcArg v) 16) 64 64) v w s := by
  obtain ⟨hreserved, hlow⟩ := hzero
  rw [mapOne_clean hs 0 (by rw [hop]; decide) (by rw [hop]; decide)]
  unfold mapOp
  simp [hop, slateStatus_clean hs hgood, slateScrub_clean hs, hreserved, hlow]

end

/-! ### What they leave -/

/-- PUBLISH of a new key into a free way of its set. -/
def publishedWay (t i key part p : Nat) (s : State) : State :=
  setPool t p { getPool s t p with refs := (getPool s t p).refs + 1, published := true, dirindex := i }
    (setWay t i { valid := true, key := key, lastHit := s.time.timeBase, part := part, block := p }
      (storeWords t (wayWords i) s))

theorem publish_free {s : State} {t i key part p : Nat} (hkey : findKey s t key part = none)
    (hway : (setSlots key).find? (fun i => !(getWay s t i).valid) = some i) :
    publish t key part p s = publishedWay t i key part p s := by
  unfold publish publishedWay
  dsimp only
  rw [hkey]
  dsimp only
  rw [hway]

theorem handled_publishedWay (t i key part p : Nat) (s : State) : Handled s (publishedWay t i key part p s) :=
  (handled_setPool _ _ _ _).after ((handled_setWay _ _ _ _).after (handled_storeWords _ _ s))

theorem way_setPool_setWay (t p i : Nat) (d : PoolD) (w : Way) (s : State) :
    (setPool t p d (setWay t i w s)).way = fset {} s.way (t * 16384 + i) w := rfl

theorem publishedWay_spec (t i key part p : Nat) (s : State) : (publishedWay t i key part p s).entry = s.entry ∧
    (publishedWay t i key part p s).sched = s.sched ∧
    getWay (publishedWay t i key part p s) t i =
      { valid := true, key := key, lastHit := s.time.timeBase, part := part, block := p } ∧
    (∀ k, k ≠ t * 16384 + i → fget ({} : Way) (publishedWay t i key part p s).way k = fget {} s.way k) ∧
    getPool (publishedWay t i key part p s) t p =
      { getPool s t p with refs := (getPool s t p).refs + 1, published := true, dirindex := i } := by
  obtain ⟨x, hx⟩ : ∃ x, x = storeWords t (wayWords i) s := ⟨_, rfl⟩
  have hfields : x = { s with sramErr := x.sramErr } := by rw [hx]; exact storeWords_fields t _ s
  unfold publishedWay
  rw [← hx]
  refine ⟨?_, ?_, ?_, fun k hk => ?_, getPool_setPool_same _ _ _ _⟩
  · exact (rfl : _ = x.entry).trans (by rw [hfields])
  · exact (rfl : _ = x.sched).trans (by rw [hfields])
  · rw [getWay, way_setPool_setWay, fget_fset_same]
  · have hway : x.way = s.way := by rw [hfields]
    rw [← hway, way_setPool_setWay, fget_fset_other _ _ _ _ hk]

theorem handled_clearWay (t i : Nat) (s : State) : Handled s (clearWay t i s) :=
  (handled_dropRef _ _ _ _).after ((handled_setPool _ _ _ _).after (handled_setWay _ _ _ s))

theorem clearing_setWay {s : State} {t : Nat} (h : Clearing s t) (i : Nat) (w : Way) : Clearing (setWay t i w s) t :=
  clearing_congr (s := s) rfl h

theorem clearWay_spec {s : State} {t : Nat} (h : Clearing s t) (i : Nat) : Clearing (clearWay t i s) t ∧
    getWay (clearWay t i s) t i = {} ∧ (clearWay t i s).entry = s.entry ∧
    (getPool (clearWay t i s) t (getWay s t i).block).refs = (getPool s t (getWay s t i).block).refs - 1 := by
  unfold clearWay
  dsimp only
  refine ⟨clearing_dropRef (clearing_setPool (clearing_setWay h _ _) _ _ _) _ _, ?_, ?_, ?_⟩
  · rw [getWay, dropRef_fields]
    exact getWay_setWay_same t i {} s
  · rw [dropRef_fields]
    rfl
  · rw [refs_dropRef, getPool_setPool_same]
    rfl

end Sys2Proof.Machine

/-! ## Proofs: PUBLISH, UNPUBLISH, LOOKUP, ADOPT and ADOPTLIST -/

namespace Sys2Proof.Machine

open Sys2Proof

section
variable {s z : State} {t : Nat} (h : Begun s z t)
include h

theorem Begun.time : z.time = s.time := by rw [h.fields]
theorem Begun.entry : z.entry = s.entry := by rw [h.fields]
theorem Begun.way : z.way = s.way := by rw [h.fields]
theorem Begun.pool : z.pool = s.pool := by rw [h.fields]
theorem Begun.queries : z.queries = s.queries := by rw [h.fields]

theorem Begun.adoptComing (key part : Nat) : adoptComing z t key part = Machine.adoptComing s t key part := by
  unfold Machine.adoptComing
  rw [h.queries]

end

/-- The command answers OK, and its result tells one record handled, or a reason why none. -/
def ResultIs (s : State) (t : Nat) (s' : State) (r n b d : Nat) : Prop := s'.out = { status := stOk } ∧ SameMemory s s' ∧
  getObj s' t Obj.mapResult = fld 64 64 d + fld 48 16 n + fld 32 16 b + fld 8 8 r

/-- A way has one more hit, and PrefixHits counts it. -/
def HitIs (s : State) (t : Nat) (s' : State) (k : Nat) : Prop := getWay s' t k = hitOnce s (getWay s t k) ∧
  getObj s' t Obj.prefixHits = (getObj s t Obj.prefixHits + 1) % 2 ^ 64

section
variable {s : State} {t : TileN} {v : BitVec 256} (hs : AtRest s t.val)
include hs

theorem answers_publish {i : Nat} (hok : mcOk s t.val (withMapOp v 9) = true)
    (hstate : (getEntry s t.val (mcEntry v.toNat)).state = 1 ∨ (getEntry s t.val (mcEntry v.toNat)).state = 4)
    (hstays : mustMove s t.val (getEntry s t.val (mcEntry v.toNat)) = false)
    (hrefs : (getPool s t.val (getEntry s t.val (mcEntry v.toNat)).block).refs < 65535)
    (hkey : findKey s t.val (mcArg v.toNat) (mcPart v.toNat) = none)
    (hway : (setSlots (mcArg v.toNat)).find? (fun i => !(getWay s t.val i).valid) = some i) :
    Answers (.publish t v) s (fun s' => ResultIs s t.val s' 0 1 (getEntry s t.val (mcEntry v.toNat)).block 0 ∧
      s'.entry = s.entry ∧ getWay s' t.val i = {
        valid := true, key := mcArg v.toNat, lastHit := s.time.timeBase, part := mcPart v.toNat
        block := (getEntry s t.val (mcEntry v.toNat)).block } ∧
      (∀ k, k ≠ t.val * 16384 + i → fget ({} : Way) s'.way k = fget {} s.way k) ∧
      getPool s' t.val (getEntry s t.val (mcEntry v.toNat)).block =
        { getPool s t.val (getEntry s t.val (mcEntry v.toNat)).block with
          refs := (getPool s t.val (getEntry s t.val (mcEntry v.toNat)).block).refs + 1
          published := true, dirindex := i }) := by
  have hop : mcOp (withMapOp v 9) = 9 := mcOp_withMapOp v (by decide)
  have hrec : mcRecords (withMapOp v 9) = 1 := by
    unfold mcRecords
    rw [hop]
    exact mcCount_of_single hok (by rw [hop]; rfl)
  refine answers_ends (r := 0) (n := 1) (b := (getEntry s t.val (mcEntry v.toNat)).block) (d := 0)
    (exec_publish t v s) hs fun z hz hclean hquiet =>
    ⟨publishedWay t.val i (mcArg v.toNat) (mcPart v.toNat) (getEntry s t.val (mcEntry v.toNat)).block z, ?_,
      handled_publishedWay _ _ _ _ _ _, ?_, fun x hout hmem hx => ?_⟩
  · have hone := mapOne_publish (s := z) (t := t.val) (v := withMapOp v 9) (w := { raw := withMapOp v 9 }) hclean hop
    rw [mcEntry_withMapOp v (by decide), mcArg_withMapOp v (by decide), mcPart_withMapOp v (by decide), hz.getEntry,
      hz.mustMove _ hstate, hz.getPool] at hone
    refine mapRun_ok (w := { raw := withMapOp v 9 }) (by rw [hz.mcOk]; exact hok) (by dsimp only; rw [hop]; decide) hrec rfl ?_
    rw [hone hstate hstays hrefs, publish_free (by rw [hz.findKey]; exact hkey) (by simp only [hz.getWay]; exact hway)]
  · obtain ⟨-, hsched, -⟩ := publishedWay_spec t.val i (mcArg v.toNat) (mcPart v.toNat)
      (getEntry s t.val (mcEntry v.toNat)).block z
    exact clearing_congr hsched (clearing_of_mapQuiet hquiet)
  · obtain ⟨hentry, hsched, hmine, hothers, hpool⟩ := publishedWay_spec t.val i (mcArg v.toNat) (mcPart v.toNat)
      (getEntry s t.val (mcEntry v.toNat)).block z
    refine ⟨⟨hout, hmem, hx.result⟩, hx.entry.trans (hentry.trans hz.entry), ?_, fun k hk => ?_, ?_⟩
    · rw [getWay, hx.way]
      exact hmine.trans (by rw [hz.time])
    · rw [hx.way, hothers k hk, hz.way]
    · rw [getPool, hx.pool (mapQuiet_congr hsched hquiet)]
      exact hpool.trans (by rw [hz.getPool])

theorem answers_unpublish_found {k : Nat} (hok : mcOk s t.val (withMapOp v 10) = true)
    (hcoming : adoptComing s t.val (mcArg v.toNat) (mcPart v.toNat) = false)
    (hkey : findKey s t.val (mcArg v.toNat) (mcPart v.toNat) = some k) :
    Answers (.unpublish t v) s (fun s' => ResultIs s t.val s' 0 1 (getWay s t.val k).block 0 ∧ getWay s' t.val k = {} ∧
      (getPool s' t.val (getWay s t.val k).block).refs = (getPool s t.val (getWay s t.val k).block).refs - 1 ∧
      s'.entry = s.entry) := by
  have hop : mcOp (withMapOp v 10) = 10 := mcOp_withMapOp v (by decide)
  have hrec : mcRecords (withMapOp v 10) = 1 := by
    unfold mcRecords
    rw [hop]
    rfl
  refine answers_ends (r := 0) (n := 1) (b := (getWay s t.val k).block) (d := 0) (exec_unpublish t v s) hs fun z hz hclean hquiet => ?_
  obtain ⟨hclear, hmine, hentry, hrefs⟩ := clearWay_spec (clearing_of_mapQuiet hquiet) k
  refine ⟨clearWay t.val k z, ?_, handled_clearWay _ _ _, hclear, fun x hout hmem hx => ?_⟩
  · have hone := mapOne_unpublish_found (s := z) (t := t.val) (v := withMapOp v 10) (w := { raw := withMapOp v 10 }) (k := k)
      hclean hop
    rw [mcArg_withMapOp v (by decide), mcPart_withMapOp v (by decide), hz.adoptComing, hz.findKey, hz.getWay] at hone
    exact mapRun_ok (w := { raw := withMapOp v 10 }) (by rw [hz.mcOk]; exact hok) (by dsimp only; rw [hop]; decide) hrec rfl
      (hone hcoming hkey)
  · refine ⟨⟨hout, hmem, hx.result⟩, ?_, ?_, hx.entry.trans (hentry.trans hz.entry)⟩
    · rw [getWay, hx.way]
      exact hmine
    · rw [hx.refs, ← hz.getWay, hrefs, hz.getPool]

theorem answers_unpublish_missing (hok : mcOk s t.val (withMapOp v 10) = true)
    (hcoming : adoptComing s t.val (mcArg v.toNat) (mcPart v.toNat) = false)
    (hkey : findKey s t.val (mcArg v.toNat) (mcPart v.toNat) = none) :
    Answers (.unpublish t v) s (fun s' => ResultIs s t.val s' 5 0 0 0 ∧ s'.way = s.way ∧ s'.pool = s.pool) := by
  have hop : mcOp (withMapOp v 10) = 10 := mcOp_withMapOp v (by decide)
  have hrec : mcRecords (withMapOp v 10) = 1 := by
    unfold mcRecords
    rw [hop]
    rfl
  refine answers_ends (r := 5) (n := 0) (b := 0) (d := 0) (exec_unpublish t v s) hs fun z hz hclean hquiet =>
    ⟨z, ?_, .refl z, clearing_of_mapQuiet hquiet, fun x hout hmem hx =>
      ⟨⟨hout, hmem, hx.result⟩, hx.way.trans hz.way, (hx.pool hquiet).trans hz.pool⟩⟩
  have hone := mapOne_unpublish_missing (s := z) (t := t.val) (v := withMapOp v 10) (w := { raw := withMapOp v 10 }) hclean hop
  rw [mcArg_withMapOp v (by decide), mcPart_withMapOp v (by decide), hz.adoptComing, hz.findKey] at hone
  exact mapRun_stop (by rw [hz.mcOk]; exact hok) (by rw [hop]; decide) hrec (by rw [hop]; decide) (hone hcoming hkey)

theorem answers_lookup_hit {k : Nat} (hok : mcOk s t.val (withMapOp v 11) = true)
    (hkey : findKey s t.val (mcArg v.toNat) (mcPart v.toNat) = some k) :
    Answers (.lookup t v) s (fun s' =>
      ResultIs s t.val s' 0 1 (getWay s t.val k).block (fld 16 6 t.val + (getWay s t.val k).block) ∧ HitIs s t.val s' k ∧
      s'.entry = s.entry ∧ s'.pool = s.pool) := by
  have hop : mcOp (withMapOp v 11) = 11 := mcOp_withMapOp v (by decide)
  have hrec : mcRecords (withMapOp v 11) = 1 := by
    unfold mcRecords
    rw [hop]
    rfl
  refine answers_ends (r := 0) (n := 1) (b := (getWay s t.val k).block) (d := fld 16 6 t.val + (getWay s t.val k).block)
    (exec_lookup t v s) hs fun z hz hclean hquiet => ?_
  obtain ⟨hentry, hpool, hsched⟩ := hitWay_tables t.val k z
  refine ⟨hitWay t.val k z, ?_, handled_hitWay _ _ _, clearing_congr hsched (clearing_of_mapQuiet hquiet), fun x hout hmem hx => ?_⟩
  · have hone := mapOne_lookup_hit (s := z) (t := t.val) (v := withMapOp v 11) (w := { raw := withMapOp v 11 }) (k := k)
      hclean hop
    rw [mcArg_withMapOp v (by decide), mcPart_withMapOp v (by decide), hz.findKey, hz.getWay] at hone
    exact mapRun_ok (w := { raw := withMapOp v 11 }) (by rw [hz.mcOk]; exact hok) (by dsimp only; rw [hop]; decide) hrec rfl
      (hone hkey)
  · refine ⟨⟨hout, hmem, hx.result⟩, ⟨?_, ?_⟩, hx.entry.trans (hentry.trans hz.entry),
      (hx.pool (mapQuiet_congr hsched hquiet)).trans (hpool.trans hz.pool)⟩
    · rw [getWay, hx.way]
      refine (getWay_hitWay t.val k z).trans ?_
      rw [hz.getWay, hitOnce, hz.time]
      rfl
    · rw [hx.objs _ _ (by decide) (by decide) (by decide), getObj_hitWay, hz.getObj]

theorem answers_lookup_miss (hok : mcOk s t.val (withMapOp v 11) = true)
    (hkey : findKey s t.val (mcArg v.toNat) (mcPart v.toNat) = none) :
    Answers (.lookup t v) s (fun s' => ResultIs s t.val s' 5 0 0 0 ∧ s'.way = s.way ∧ s'.pool = s.pool ∧
      getObj s' t.val Obj.prefixMisses = (getObj s t.val Obj.prefixMisses + 1) % 2 ^ 64) := by
  have hop : mcOp (withMapOp v 11) = 11 := mcOp_withMapOp v (by decide)
  have hrec : mcRecords (withMapOp v 11) = 1 := by
    unfold mcRecords
    rw [hop]
    rfl
  have hbits : objBits Obj.prefixMisses = 64 := by decide
  refine answers_ends (r := 5) (n := 0) (b := 0) (d := 0) (exec_lookup t v s) hs fun z hz hclean hquiet =>
    ⟨bump t.val Obj.prefixMisses 1 z, ?_, handled_bump _ _ _ _, clearing_bump (clearing_of_mapQuiet hquiet) _ _ _,
      fun x hout hmem hx => ⟨⟨hout, hmem, hx.result⟩, hx.way.trans hz.way, ?_, ?_⟩⟩
  · have hone := mapOne_lookup_miss (s := z) (t := t.val) (v := withMapOp v 11) (w := { raw := withMapOp v 11 }) hclean hop
    rw [mcArg_withMapOp v (by decide), mcPart_withMapOp v (by decide), hz.findKey] at hone
    exact mapRun_stop (by rw [hz.mcOk]; exact hok) (by rw [hop]; decide) hrec (by rw [hop]; decide) (hone hkey)
  · exact (hx.pool (mapQuiet_congr (s := z) rfl hquiet)).trans hz.pool
  · rw [hx.objs _ _ (by decide) (by decide) (by decide), ← hz.getObj]
    refine (getObj_setObj_same _ _ _ _).trans ?_
    rw [hbits]

/-- A command that adopts a key of its own tile's directory into a FREE entry. -/
theorem answers_adopts {c : Instr} {op e key k : Nat} (hop : op < 256) (hexec : exec c s = run (writeMapCommand t.val (withMapOp v op)) s)
    (hok : mcOk s t.val (withMapOp v op) = true) (halloc : op ≠ 1) (hrec : mcRecords (withMapOp v op) = 1)
    (hone : ∀ z, Begun s z t.val → z.sramErr = [] → mapOne t.val (withMapOp v op) 0 { raw := withMapOp v op } z =
      adoptOne t.val e t.val key (withMapOp v op) { raw := withMapOp v op } z) (hzero : key ≠ 0)
    (hfree : (getEntry s t.val e).state = 0) (hkey : findKey s t.val key (mcPart v.toNat) = some k)
    (hrefs : (getPool s t.val (getWay s t.val k).block).refs < 65535) :
    Answers c s (fun s' => ResultIs s t.val s' 0 1 (getWay s t.val k).block 0 ∧ HitIs s t.val s' k ∧
      getEntry s' t.val e = { getEntry s t.val e with
        state := 1, write := mcWrite v.toNat, busy := false, accessed := false, dirty := false, tile := 0
        part := mcPart v.toNat, block := (getWay s t.val k).block, wasPinned := false, wasFar := false } ∧
      (getPool s' t.val (getWay s t.val k).block).refs = (getPool s t.val (getWay s t.val k).block).refs + 1) := by
  refine answers_ends (r := 0) (n := 1) (b := (getWay s t.val k).block) (d := 0) hexec hs fun z hz hclean hquiet => ?_
  obtain ⟨hentry, hsched, hmine, hhits, hmore⟩ := adoptedWay_spec t.val k z
  refine ⟨mapEntry t.val e 1 0 (getWay s t.val k).block (withMapOp v op) false (adoptedWay t.val k z), ?_,
    (handled_mapEntry _ _ _ _ _ _ _ _).after (handled_adoptedWay _ _ z), ?_, fun x hout hmem hx => ?_⟩
  · have hadopt := adoptOne_here (s := z) (t := t.val) (e := e) (key := key) (v := withMapOp v op)
      (w := { raw := withMapOp v op }) (i := k) hclean hzero
    rw [hz.getEntry, hz.findKey, hz.getWay, hz.getPool, mcPart_withMapOp v hop] at hadopt
    refine mapRun_ok (w := { raw := withMapOp v op }) (by rw [hz.mcOk]; exact hok)
      (by dsimp only; rw [mcOp_withMapOp v hop]; exact halloc) hrec rfl ?_
    rw [hone z hz hclean, hadopt hfree hkey hrefs]
  · exact clearing_congr (s := adoptedWay t.val k z) rfl (clearing_congr hsched (clearing_of_mapQuiet hquiet))
  · have hbefore : getEntry (adoptedWay t.val k z) t.val e = getEntry s t.val e := by
      rw [getEntry, hentry, hz.entry]
      rfl
    refine ⟨⟨hout, hmem, hx.result⟩, ⟨?_, ?_⟩, ?_, ?_⟩
    · rw [getWay, hx.way]
      refine hmine.trans ?_
      rw [hz.getWay, hitOnce, hz.time]
      rfl
    · rw [hx.objs _ _ (by decide) (by decide) (by decide), ← hz.getObj]
      exact hhits
    · rw [getEntry, hx.entry]
      refine (getEntry_setEntry_same t.val e _ (adoptedWay t.val k z)).trans ?_
      rw [hbefore, mcWrite_withMapOp v hop, mcPart_withMapOp v hop]
    · rw [hx.refs, ← hz.getPool, ← hz.getWay]
      exact hmore

end

end Sys2Proof.Machine

/-! ## Proofs: commands on keys that wait, and the directory of prefixes -/

namespace Sys2Proof.Machine

open Sys2Proof

/-- The same state with other requests and commands of the block maps. -/
def otherMaps (s : State) (m : FMap MapS) : State := { s with map := m }

/-- A command that waits, and that comes to the same when it looks again. -/
theorem mapPump_rests {s : State} {t v k : Nat} {a : Bool} (hrun : inHold s t = false)
    (hagain : ∀ m, mapRun t { raw := v, asked := a } (otherMaps s m) = (.wait 0 a 0 0, otherMaps s m)) :
    ∃ m, mapPump t (k + 1) (modMap t (fun m => { m with wait := some { raw := v, asked := a } }) s) = otherMaps s m ∧
      (fget ({} : MapS) m t).wait = some { raw := v, asked := a } := by
  obtain ⟨y, hy⟩ : ∃ y, y = modMap t (fun m => { m with wait := some { raw := v, asked := a } }) s := ⟨_, rfl⟩
  have hwaits : (getMap y t).wait = some { raw := v, asked := a } := by rw [hy, getMap_modMap]
  have hheld : inHold y t = false := by
    rw [hy]
    exact hrun
  have htaken : modMap t (fun m => { m with wait := none }) y =
      otherMaps s (modMap t (fun m => { m with wait := none }) y).map := by
    rw [hy]
    rfl
  have htry := mapTry_wait (w := { raw := v, asked := a }) (by rw [htaken]; exact hagain _)
  rw [← hy, mapPump_waits hheld hwaits htry (by rw [getMap_modMap]; rfl)]
  exact ⟨_, rfl, congrArg MapS.wait (fget_fupd_same ({} : MapS) _ t _)⟩

/-- A command that waits as it is taken up. -/
theorem answers_rests {c : Instr} {s : State} {t v : Nat} {a : Bool} {P : State → Prop} (f : State → State)
    (hexec : exec c s = run (writeMapCommand t v) s) (hs : AtRest s t)
    (hf : ∀ z, f z = { z with queries := (f z).queries })
    (hfirst : ∀ z, Begun s z t → z.sramErr = [] → mapRun t { raw := v } z = (.wait 0 a 0 0, f z) ∧
      ∀ m, mapRun t { raw := v, asked := a } (otherMaps (f z) m) = (.wait 0 a 0 0, otherMaps (f z) m))
    (hP : ∀ z m, Begun s z t → (fget ({} : MapS) m t).wait = some { raw := v, asked := a } → P (otherMaps (f z) m)) :
    Answers c s P := by
  obtain ⟨z, hz, -, hwaits⟩ := mapPump_takes hs.idle v 63
  obtain ⟨hrun, hagain⟩ := hfirst z hz (hz.sramErr hs.clean)
  have hheld : inHold (f z) t = false := by
    rw [hf z]
    exact (hz.idle hs.idle).running
  obtain ⟨m, hpump, hm⟩ := mapPump_rests (k := 62) hheld hagain
  have hquiet : mapQuiet (otherMaps (f z) m) t := mapQuiet_congr (s := z) (by rw [hf z]; rfl) (hz.quiet hs.quiet)
  have hkept : (otherMaps (f z) m).out = {} ∧ (otherMaps (f z) m).pending = s.pending ∧
      (otherMaps (f z) m).time = s.time := by
    rw [hf z, hz.fields]
    exact ⟨rfl, rfl, rfl⟩
  obtain ⟨hout, hpend, htime⟩ := hkept
  refine answers_of_kept hexec ?_ hpend htime (hP z m hz hm)
  unfold writeMapCommand
  rw [hwaits a _ hrun, hpump, feedMap_quiet hquiet, answer_stOk hout]

section
variable {s : State} {t : TileN} {v : BitVec 256} (hs : AtRest s t.val)
include hs

theorem answers_unpublish_waits (hok : mcOk s t.val (withMapOp v 10) = true)
    (hcoming : adoptComing s t.val (mcArg v.toNat) (mcPart v.toNat) = true) :
    Answers (.unpublish t v) s (fun s' => s'.out = { status := stOk } ∧ s'.way = s.way ∧
      (getMap s' t.val).wait = some { raw := withMapOp v 10 }) := by
  have hop : mcOp (withMapOp v 10) = 10 := mcOp_withMapOp v (by decide)
  have hrec : mcRecords (withMapOp v 10) = 1 := by
    unfold mcRecords
    rw [hop]
    rfl
  have hwait : ∀ z, Begun s z t.val → z.sramErr = [] → ∀ m, mapRun t.val { raw := withMapOp v 10 } (otherMaps z m) =
      (.wait 0 false 0 0, otherMaps z m) := by
    intro z hz hclean m
    have hsame : mcOk (otherMaps z m) t.val (withMapOp v 10) = mcOk z t.val (withMapOp v 10) := rfl
    refine mapRun_waits (w := { raw := withMapOp v 10 }) (by rw [hsame, hz.mcOk]; exact hok)
      (by dsimp only; rw [hop]; decide) hrec rfl (mapOne_unpublish_waits (s := otherMaps z m) hclean hop ?_)
    rw [mcArg_withMapOp v (by decide), mcPart_withMapOp v (by decide)]
    exact (hz.adoptComing _ _).trans hcoming
  refine answers_rests (a := false) id (exec_unpublish t v s) hs (fun _ => rfl)
    (fun z hz hclean => ⟨hwait z hz hclean z.map, hwait z hz hclean⟩) fun z m hz hm => ?_
  refine ⟨?_, hz.way, hm⟩
  show z.out = _
  rw [hz.fields]

/-- An ADOPT of another tile's key asks that tile. -/
theorem answers_adopt_asks (hok : mcOk s t.val (withMapOp v 12) = true) (hfar : mcTile v.toNat ≠ t.val)
    (hfree : (getEntry s t.val (mcEntry v.toNat)).state = 0) :
    Answers (.adopt t v) s (fun s' => s'.out = { status := stOk } ∧ s'.entry = s.entry ∧
      s'.queries = s.queries ++
        [{ src := t.val, dst := mcTile v.toNat, kind := 3, arg := mcArg v.toNat, part := mcPart v.toNat }] ∧
      (getMap s' t.val).wait = some { raw := withMapOp v 12, done := 0, asked := true }) := by
  have hop : mcOp (withMapOp v 12) = 12 := mcOp_withMapOp v (by decide)
  have hrec : mcRecords (withMapOp v 12) = 1 := by
    unfold mcRecords
    rw [hop]
    exact mcCount_of_single hok (by rw [hop]; rfl)
  have hzero : mcArg v.toNat ≠ 0 := by
    rw [← mcArg_withMapOp v (op := 12) (by decide)]
    exact mcArg_of_key hok (by rw [hop]; rfl)
  have hone : ∀ y, y.sramErr = [] → y.entry = s.entry → ∀ a, mapOne t.val (withMapOp v 12) 0
      { raw := withMapOp v 12, asked := a } y = (.wait true, if a then y else ask
        { src := t.val, dst := mcTile v.toNat, kind := 3, arg := mcArg v.toNat, part := mcPart v.toNat } y) := by
    intro y hclean hentry a
    have hsame : getEntry y t.val (mcEntry v.toNat) = getEntry s t.val (mcEntry v.toNat) := by rw [getEntry, hentry]; rfl
    rw [mapOne_adopt hclean hop, mcEntry_withMapOp v (by decide), mcTile_withMapOp v (by decide),
      mcArg_withMapOp v (by decide), adoptOne_asks hzero (by rw [hsame]; exact hfree) hfar, mcPart_withMapOp v (by decide)]
  refine answers_rests (a := true) (ask
      { src := t.val, dst := mcTile v.toNat, kind := 3, arg := mcArg v.toNat, part := mcPart v.toNat })
    (exec_adopt t v s) hs (fun _ => rfl) (fun z hz hclean => ⟨?_, fun m => ?_⟩) fun z m hz hm => ⟨?_, ?_, ?_, hm⟩
  · exact mapRun_waits (w := { raw := withMapOp v 12 }) (by rw [hz.mcOk]; exact hok) (by dsimp only; rw [hop]; decide)
      hrec rfl (hone z hclean hz.entry false)
  · obtain ⟨y, hy⟩ : ∃ y, y = otherMaps (ask { src := t.val, dst := mcTile v.toNat, kind := 3, arg := mcArg v.toNat
                                               part := mcPart v.toNat } z) m := ⟨_, rfl⟩
    have hsame : mcOk y t.val (withMapOp v 12) = mcOk z t.val (withMapOp v 12) := by rw [hy]; rfl
    rw [← hy]
    exact mapRun_waits (w := { raw := withMapOp v 12, asked := true }) (by rw [hsame, hz.mcOk]; exact hok)
      (by dsimp only; rw [hop]; decide) hrec rfl
      (hone y (by rw [hy]; exact hclean) (by rw [hy]; exact hz.entry) true)
  · show z.out = _
    rw [hz.fields]
  · exact hz.entry
  · show z.queries ++ _ = _
    rw [hz.queries]

end

/-- Settles O38: a command on a key is taken up at once and handles one record, which either ends it, with its result, or
keeps it waiting; what it leaves of the directory, the pool and the entries is said for each operation. -/
theorem prefixDirectory : Obligations.PrefixDirectory := by
  unfold Obligations.PrefixDirectory
  intro t v s hwait hqueue hrun hquiet hclean
  have hs : AtRest s t.val := ⟨⟨hwait, hqueue, hrun⟩, hquiet, hclean⟩
  refine ⟨fun i hok hstate hstays hrefs hkey hway => answers_publish hs hok hstate hstays hrefs hkey hway,
    fun hok hcoming => answers_unpublish_waits hs hok hcoming,
    fun k hok hcoming hkey => answers_unpublish_found hs hok hcoming hkey,
    fun hok hcoming hkey => answers_unpublish_missing hs hok hcoming hkey,
    fun k hok hkey => answers_lookup_hit hs hok hkey, fun hok hkey => answers_lookup_miss hs hok hkey,
    fun k hok htile hfree hkey hrefs => ?_, fun hok hfar hfree => answers_adopt_asks hs hok hfar hfree,
    fun k hok hone hgood hreserved hlow htile hzero hfree hkey hrefs => ?_⟩
  · have hop : mcOp (withMapOp v 12) = 12 := mcOp_withMapOp v (by decide)
    have hnot : mcArg v.toNat ≠ 0 := by
      rw [← mcArg_withMapOp v (op := 12) (by decide)]
      exact mcArg_of_key hok (by rw [hop]; rfl)
    refine answers_adopts hs (by decide) (exec_adopt t v s) hok (by decide) ?_ (fun z hz hclean => ?_) hnot hfree hkey hrefs
    · unfold mcRecords
      rw [hop]
      exact mcCount_of_single hok (by rw [hop]; rfl)
    · rw [mapOne_adopt hclean hop, mcEntry_withMapOp v (by decide), mcTile_withMapOp v (by decide),
        mcArg_withMapOp v (by decide), htile]
  · have hop : mcOp (withMapOp v 13) = 13 := mcOp_withMapOp v (by decide)
    refine answers_adopts hs (by decide) (exec_adoptlist t v s) hok (by decide) ?_ (fun z hz hclean => ?_) hzero hfree hkey hrefs
    · unfold mcRecords
      rw [hop, mcCount_withMapOp v (by decide)]
      exact hone
    · have hbad : slateBad z t.val (mcArg v.toNat) 16 = false := by
        rw [hz.fields]
        exact hgood
      have hread : slateNat z t.val (mcArg v.toNat) 16 = slateNat s t.val (mcArg v.toNat) 16 := by
        rw [hz.fields]
        rfl
      have hrecord := mapOne_adoptlist (s := z) (t := t.val) (v := withMapOp v 13) (w := { raw := withMapOp v 13 }) hclean hop
      rw [mcArg_withMapOp v (by decide), hread] at hrecord
      rw [hrecord hbad ⟨hreserved, hlow⟩, htile]

end Sys2Proof.Machine

/-! ## Proofs: the block map wakes with nothing held -/

namespace Sys2Proof.Machine

open Sys2Proof

/-- Of an idle tile's block map no command looks again, in Hold or not. -/
theorem mapPump_none {s : State} {t : Nat} (hwait : (getMap s t).wait = none) (hqueue : (getMap s t).queue = []) (n : Nat) :
    mapPump t n s = s := by
  cases hrun : inHold s t with
  | false => exact mapPump_idle ⟨hwait, hqueue, hrun⟩ n
  | true =>
    cases n with
    | zero => rfl
    | succ n =>
      rw [mapPump]
      simp [hrun]

/-- The block map of a tile has no job, and nothing is held or waits. -/
structure Unneeded (s : State) (t : Nat) : Prop where
  jobs : (getMap s t).jobs = []
  held : (getMap s t).held = []
  wait : (getMap s t).wait = none
  queue : (getMap s t).queue = []

theorem unneeded_congr {s s' : State} {t : Nat} (h : getMap s' t = getMap s t) (hs : Unneeded s t) : Unneeded s' t := by
  obtain ⟨hjobs, hheld, hwait, hqueue⟩ := hs
  exact ⟨h ▸ hjobs, h ▸ hheld, h ▸ hwait, h ▸ hqueue⟩

/-- `w` differs from `s` by HeldRequests, and by how the requests held are written down. -/
structure Roused (t : Nat) (s w : State) : Prop where
  fields : w = { s with dict := w.dict, map := w.map }
  map : getMap w t = getMap s t
  objs : ∀ u k, k < 2 ^ 24 → k ≠ Obj.heldRequests → getObj w u k = getObj s u k

theorem fget_fupd_keep {α : Type} [DecidableEq α] (d : α) (m : FMap α) (k : Nat) (f : α → α) (h : f (fget d m k) = fget d m k)
    (j : Nat) : fget d (fupd d m k f) j = fget d m j := by
  by_cases hj : j = k
  · rw [hj, fget_fupd_same, h]
  · rw [fget_fupd_other _ _ _ _ hj]

theorem roused_setHeld {s : State} {t : Nat} (h : (getMap s t).held = []) : Roused t s (setHeld t [] s) where
  fields := rfl
  map := by
    refine (getMap_modMap t (fun m => { m with held := [] }) s).trans ?_
    rw [← h]
  objs _ _ hk hn := getObj_setObj_obj _ hn hk (by decide)

theorem mapWakeFor_unneeded {s : State} {t : Nat} (h : Unneeded s t) (e : Option Nat) :
    ∃ w, mapWakeFor t e s = feedMap t w ∧ Roused t s w := by
  have htake : jobsTake t s = s := by
    unfold jobsTake
    rw [h.jobs]
    rfl
  have hwake : ∃ w, wakeHeld t e s = w ∧ Roused t s w := by
    unfold wakeHeld
    split
    · exact ⟨s, rfl, rfl, rfl, fun _ _ _ _ => rfl⟩
    · dsimp only
      rw [h.held]
      exact ⟨_, rfl, roused_setHeld h.held⟩
  obtain ⟨w, hw, hroused⟩ := hwake
  have hstill := unneeded_congr hroused.map h
  refine ⟨w, ?_, hroused⟩
  unfold mapWakeFor
  rw [htake, hw, mapPump_none hstill.wait hstill.queue]

/-- What the block map leaves when it wakes for nothing, once the fills it has queued before have been accepted. -/
structure Woke (t : Nat) (s x : State) : Prop where
  kept : x.out = s.out ∧ x.pending = s.pending ∧ x.time = s.time
  objs : ∀ u k, k < 2 ^ 24 → k ≠ Obj.ingressStalls → k ≠ Obj.heldRequests → getObj x u k = getObj s u k
  map : getMap x t = getMap s t
  entry : x.entry = s.entry
  way : x.way = s.way
  queries : x.queries = s.queries
  answers : x.answers = s.answers
  pools : ∀ k, ∃ n, fget ({} : PoolD) x.pool k = { fget ({} : PoolD) s.pool k with left := n }
  pool : mapQuiet s t → x.pool = s.pool
  sameMemory : SameMemory s x

theorem Woke.refs {t : Nat} {s x : State} (h : Woke t s x) (u p : Nat) : (getPool x u p).refs = (getPool s u p).refs := by
  obtain ⟨n, hn⟩ := h.pools (u * 65536 + p)
  unfold getPool
  rw [hn]

theorem woke_mapWakeFor {s : State} {t : Nat} (h : Unneeded s t) (hc : Clearing s t) (e : Option Nat) :
    Woke t s (mapWakeFor t e s) := by
  obtain ⟨w, hwake, hw⟩ := mapWakeFor_unneeded h e
  have hsched : w.sched = s.sched := by rw [hw.fields]
  have hfed : Fed w (feedMap t w) := fed_feedMap (clearing_congr hsched hc)
  have hquiet : mapQuiet s t → feedMap t w = w := fun hq => feedMap_quiet (mapQuiet_congr hsched hq)
  rw [hwake]
  generalize feedMap t w = x at hfed hquiet
  constructor
  · rw [hfed.fields, hw.fields]
    exact ⟨rfl, rfl, rfl⟩
  · exact fun u k hk hs hn => (hfed.objs u k hk hs).trans (hw.objs u k hk hn)
  · rw [getMap, hfed.map]
    exact hw.map
  · rw [hfed.entry, hw.fields]
  · rw [hfed.way, hw.fields]
  · rw [hfed.queries, hw.fields]
  · rw [hfed.answers, hw.fields]
  · have hpool : w.pool = s.pool := by rw [hw.fields]
    rw [← hpool]
    exact hfed.pools
  · exact fun hq => by rw [hquiet hq, hw.fields]
  · refine SameMemory.trans (b := w) (sameMemory_of ?_ ?_ ?_ ?_) hfed.sameMemory <;> rw [hw.fields]

end Sys2Proof.Machine

/-! ## Proofs: queries between tiles and their answers -/

namespace Sys2Proof.Machine

open Sys2Proof

/-! ### A query is taken, and answered (R415) -/

/-- The oldest query for a tile is taken. -/
def queryTaken (t : Nat) (s : State) : State := { s with queries := removeFirst (fun x => x.dst = t) s.queries, out := {} }

/-- An answer goes out. -/
def bookSent (b : Book) (s : State) : State := { s with answers := s.answers ++ [b] }

section
variable {s : State} {t : TileN} {q : Book} (hq : s.queries.find? (fun q => q.dst = t.val) = some q)
include hq

theorem bookkeepingQuery_gateway (hk : q.kind = 4) : ∃ n, bookkeepingQuery t.val (fresh s) = bookSent
    { src := t.val, dst := q.src, kind := q.kind, arg := q.arg, part := q.part, ok := !tileGone s t.val, reason := n }
    (queryTaken t.val s) := by
  have hfind : (fresh s).queries.find? (fun q => q.dst = t.val) = some q := hq
  unfold bookkeepingQuery
  rw [hfind]
  dsimp only
  rw [if_pos hk]
  exact ⟨_, rfl⟩

theorem bookkeepingQuery_gone (hk : q.kind = 1 ∨ q.kind = 3) (hgone : tileGone s t.val = true) :
    bookkeepingQuery t.val (fresh s) = bookSent
      { src := t.val, dst := q.src, kind := q.kind, arg := q.arg, part := q.part, reason := 6 } (queryTaken t.val s) := by
  have hfind : (fresh s).queries.find? (fun q => q.dst = t.val) = some q := hq
  have hg : tileGone (fresh s) t.val = true := hgone
  unfold bookkeepingQuery
  rw [hfind]
  dsimp only
  rw [hg, if_neg (by omega), if_pos rfl, if_neg (by omega)]
  rfl

end

/-- A tile answers queries to its block map: it is there, runs, and has nothing else to do. -/
structure Answering (s : State) (t : Nat) (q : Book) : Prop where
  oldest : s.queries.find? (fun q => q.dst = t) = some q
  present : tileGone s t = false
  running : mapHalted s t = false
  clean : s.sramErr = []
  unneeded : Unneeded s t
  quiet : mapQuiet s t

theorem Answering.dst {s : State} {t : Nat} {q : Book} (h : Answering s t q) : q.dst = t := by
  have hdst := List.find?_some h.oldest
  simpa using hdst

section
variable {s : State} {t : TileN} {q : Book} (h : Answering s t.val q)
include h

theorem bookkeepingQuery_answers {b : Book} {y : State} (hk : q.kind ≠ 4)
    (hmap : mapQuery q (queryTaken t.val s) = (some b, y)) :
    bookkeepingQuery t.val (fresh s) = bookSent { b with kind := q.kind, arg := q.arg } y := by
  have hfind : (fresh s).queries.find? (fun q => q.dst = t.val) = some q := h.oldest
  have hg : tileGone (fresh s) t.val = false := h.present
  have hr : mapHalted (fresh s) t.val = false := h.running
  have htaken : { fresh s with queries := removeFirst (fun x => x.dst = t.val) (fresh s).queries } = queryTaken t.val s := rfl
  unfold bookkeepingQuery
  rw [hfind]
  dsimp only
  rw [if_neg hk, if_neg (by rw [hg]; decide), if_neg (by rw [hr]; decide), htaken, hmap]
  rfl

theorem bookkeepingQuery_drops {y : State} (hk : q.kind ≠ 4) (hmap : mapQuery q (queryTaken t.val s) = (none, y)) :
    bookkeepingQuery t.val (fresh s) = y := by
  have hfind : (fresh s).queries.find? (fun q => q.dst = t.val) = some q := h.oldest
  have hg : tileGone (fresh s) t.val = false := h.present
  have hr : mapHalted (fresh s) t.val = false := h.running
  have htaken : { fresh s with queries := removeFirst (fun x => x.dst = t.val) (fresh s).queries } = queryTaken t.val s := rfl
  unfold bookkeepingQuery
  rw [hfind]
  dsimp only
  rw [if_neg hk, if_neg (by rw [hg]; decide), if_neg (by rw [hr]; decide), htaken, hmap]

/-- A query that is answered: the answer goes out when the block map has woken. -/
theorem answers_query {b : Book} {y : State} {P : State → Prop} (hk : q.kind = 1 ∨ q.kind = 3)
    (hhere : (if q.kind = 1 then farMapHere t.val q.arg (queryTaken t.val s)
      else adoptHere t.val q.arg q.part (queryTaken t.val s)) = (b, y))
    (hy : Handled (queryTaken t.val s) y) (hsched : y.sched = s.sched)
    (hP : ∀ x, Woke t.val y x → SameMemory s x →
      P (bookSent { b with src := t.val, dst := q.src, kind := q.kind, arg := q.arg, part := q.part } x)) :
    Answers (.bookkeepingQuery t) s P := by
  have hneed : Unneeded y t.val := unneeded_congr (by rw [getMap, hy.mapSame.map]; rfl) h.unneeded
  have hwoke := woke_mapWakeFor hneed (clearing_congr hsched (clearing_of_mapQuiet h.quiet)) none
  have hmap : mapQuery q (queryTaken t.val s) =
      (some { b with src := t.val, dst := q.src, part := q.part }, mapWakeFor t.val none y) := by
    unfold mapQuery
    rw [h.dst]
    dsimp only
    rcases hk with hk | hk
    · rw [if_pos hk] at hhere ⊢
      rw [hhere]
      rfl
    · rw [if_neg (by omega)] at hhere ⊢
      rw [if_neg (by omega), hhere]
      rfl
  have hstep := bookkeepingQuery_answers h (by omega) hmap
  dsimp only at hstep
  generalize mapWakeFor t.val none y = x at hstep hwoke
  obtain ⟨-, hpend, htime⟩ := hwoke.kept
  have hmem : SameMemory s x := (SameMemory.trans (b := queryTaken t.val s) (sameMemory_of rfl rfl rfl rfl) hy.sameMemory).trans
    hwoke.sameMemory
  refine answers_of_kept (exec_bookkeepingQuery t s) hstep ?_ ?_ (hP x hwoke hmem)
  · exact hpend.trans (by rw [hy]; simp only [queryTaken])
  · exact htime.trans (by rw [hy]; simp only [queryTaken])

/-- A release drops a reference, and no answer goes out. -/
theorem answers_release {P : State → Prop} (hk : q.kind = 2) (hstate : (getPool s t.val q.arg).pstate ≠ 2)
    (hP : ∀ x, Woke t.val (dropRef t.val q.arg q.part (queryTaken t.val s)) x → SameMemory s x → P x) :
    Answers (.bookkeepingQuery t) s P := by
  have hfinal : finalBlock (queryTaken t.val s) t.val mapFuel q.arg = q.arg := by
    unfold finalBlock
    exact if_neg fun hm => hstate hm.1
  obtain ⟨y, hy⟩ : ∃ y, y = dropRef t.val q.arg q.part (queryTaken t.val s) := ⟨_, rfl⟩
  have hhandled : Handled (queryTaken t.val s) y := hy ▸ handled_dropRef _ _ _ _
  have hclear : Clearing y t.val := by
    rw [hy]
    exact clearing_dropRef (s := queryTaken t.val s) (clearing_congr (s := s) rfl (clearing_of_mapQuiet h.quiet)) _ _
  have hneed : Unneeded y t.val := unneeded_congr (by rw [getMap, hhandled.mapSame.map]; rfl) h.unneeded
  have hwoke := woke_mapWakeFor hneed hclear none
  have hmap : mapQuery q (queryTaken t.val s) = (none, mapWakeFor t.val none y) := by
    unfold mapQuery
    rw [h.dst]
    dsimp only
    rw [if_neg (by omega), if_pos hk, hfinal, ← hy]
    rfl
  have hstep := bookkeepingQuery_drops h (by omega) hmap
  rw [← hy] at hP
  generalize mapWakeFor t.val none y = x at hstep hwoke
  obtain ⟨-, hpend, htime⟩ := hwoke.kept
  have hmem : SameMemory s x := (SameMemory.trans (b := queryTaken t.val s) (sameMemory_of rfl rfl rfl rfl)
    hhandled.sameMemory).trans hwoke.sameMemory
  refine answers_of_kept (exec_bookkeepingQuery t s) hstep ?_ ?_ (hP x hwoke hmem)
  · exact hpend.trans (by rw [hhandled]; simp only [queryTaken])
  · exact htime.trans (by rw [hhandled]; simp only [queryTaken])

end

/-! ### What the tile of a block makes of a FARMAP (R242) -/

section
variable {s : State} (hs : s.sramErr = []) {t p : Nat} (hp : p < poolSize s t)
include hs hp

theorem farMapHere_ok (hstate : (getPool s t p).pstate = 1) (hrefs : (getPool s t p).refs < 65535) :
    farMapHere t p s = ({ src := t, dst := t, kind := 1, arg := p, block := p, ok := true },
      setPool t p { getPool s t p with refs := (getPool s t p).refs + 1 } s) := by
  unfold farMapHere
  simp [mapWords_clean hs, hstate, Nat.not_le.mpr hp, Nat.not_le.mpr hrefs]

theorem farMapHere_retired (hstate : (getPool s t p).pstate = 2) :
    farMapHere t p s = ({ src := t, dst := t, kind := 1, arg := p, block := p, reason := bookRetired }, s) := by
  unfold farMapHere
  simp [mapWords_clean hs, hstate, Nat.not_le.mpr hp]

end

/-! ### The answer reaches the FARMAP that waits (R415) -/

section
variable {s : State} {t : Nat} {w : MapWait} {b : Book}

theorem mapOne_farmap (hs : s.sramErr = []) (hop : mcOp w.raw = 6) (hans : w.ans = some b) (hok : b.ok = true)
    (hfree : (getEntry s t (mcEntry w.raw)).state = 0) :
    mapOne t w.raw 0 w s = (.ok b.block 0, mapEntry t (mcEntry w.raw) 2 (mcTile w.raw) b.block w.raw false s) := by
  rw [mapOne_clean hs 0 (by rw [hop]; decide) (by rw [hop]; decide)]
  unfold mapOp farRef mapReply
  simp [hop, hans, hok, hfree]

/-- The oldest answer for a tile is taken. -/
def bookTaken (t : Nat) (s : State) : State := { s with answers := removeFirst (fun x => x.dst = t) s.answers, out := {} }

theorem getMap_bookTaken (t u : Nat) (s : State) : getMap (bookTaken t s) u = getMap s u := rfl

/-- The answer of a tile is at the command of another that waits for it. -/
theorem bookkeepingAnswer_farmap {t : TileN} (hb : s.answers.find? (fun b => b.dst = t.val) = some b) (hk : b.kind = 1) :
    bookkeepingAnswer t.val (fresh s) = mapPump t.val 64 (modMap t.val (fun m => { m with wait := m.wait.map (fun w =>
      if w.asked then { w with ans := some b } else w) }) (bookTaken t.val s)) := by
  have hfind : (fresh s).answers.find? (fun b => b.dst = t.val) = some b := hb
  have hdst : b.dst = t.val := by
    have hdst := List.find?_some hb
    simpa using hdst
  unfold bookkeepingAnswer
  rw [hfind]
  dsimp only
  rw [if_neg (by omega)]
  unfold mapAnswer
  rw [hdst]
  rfl

/-- The FARMAP ends with the block mapped FAR. -/
theorem answers_farmap_ends {t : TileN} (hb : s.answers.find? (fun b => b.dst = t.val) = some b) (hk : b.kind = 1)
    (hok : b.ok = true) (hrun : inHold s t.val = false) (hw : (getMap s t.val).wait = some w)
    (hqueue : (getMap s t.val).queue = []) (hop : mcOp w.raw = 6) (hasked : w.asked = true) (hdone : w.done = 0)
    (hgood : mcOk s t.val w.raw = true) (hfree : (getEntry s t.val (mcEntry w.raw)).state = 0) (hs : s.sramErr = []) :
    Answers (.bookkeepingAnswer t) s (fun s' => s'.answers = removeFirst (fun x => x.dst = t.val) s.answers ∧
      (getMap s' t.val).wait = none ∧
      getEntry s' t.val (mcEntry w.raw) = { getEntry s t.val (mcEntry w.raw) with
        state := 2, write := mcWrite w.raw, busy := false, accessed := false, dirty := false, tile := mcTile w.raw
        part := mcPart w.raw, block := b.block, wasPinned := false, wasFar := false } ∧
      getObj s' t.val Obj.mapResult = fld 48 16 1 + fld 32 16 b.block ∧ SameMemory s s') := by
  have hstep := bookkeepingAnswer_farmap hb hk
  obtain ⟨x, hx⟩ : ∃ x, x = modMap t.val (fun m => { m with wait := m.wait.map (fun w =>
      if w.asked then { w with ans := some b } else w) }) (bookTaken t.val s) := ⟨_, rfl⟩
  have hfields : x = { s with answers := removeFirst (fun x => x.dst = t.val) s.answers, map := x.map, out := {} } := by
    rw [hx]
    rfl
  have hmap : getMap x t.val = { getMap s t.val with wait := some { w with ans := some b } } := by
    rw [hx, getMap_modMap, getMap_bookTaken, hw, Option.map_some, if_pos hasked]
  rw [← hx] at hstep
  have hrec : mcRecords w.raw = 1 := by
    unfold mcRecords
    rw [hop]
    exact mcCount_of_single hgood (by rw [hop]; rfl)
  obtain ⟨z, hz⟩ : ∃ z, z = modMap t.val (fun m => { m with wait := none }) x := ⟨_, rfl⟩
  have hzfields : z = { s with answers := removeFirst (fun x => x.dst = t.val) s.answers, map := z.map, out := {} } := by
    rw [hz, hfields]
    rfl
  have hzmap : (getMap z t.val).wait = none ∧ (getMap z t.val).queue = [] := by
    rw [hz, getMap_modMap, hmap]
    exact ⟨rfl, hqueue⟩
  have hentry : getEntry z t.val (mcEntry w.raw) = getEntry s t.val (mcEntry w.raw) := by
    rw [hzfields]
    rfl
  have hone := mapOne_farmap (s := z) (t := t.val) (w := { w with ans := some b }) (b := b) (by rw [hzfields]; exact hs) hop rfl
    hok (by rw [hentry]; exact hfree)
  have hzok : mcOk z t.val w.raw = mcOk s t.val w.raw := by
    unfold mcOk blockBytes poolG
    rw [getObj_congr (s := s) (s' := z) (by rw [hzfields])]
  have hend := mapRun_ok (w := { w with ans := some b }) (by rw [hzok]; exact hgood) (by rw [hop]; decide) hrec hdone hone
  have hzhold : inHold z t.val = false := by
    rw [hzfields]
    exact hrun
  have hidle : MapIdle (mapEntry t.val (mcEntry w.raw) 2 (mcTile w.raw) b.block w.raw false z) t.val :=
    MapIdle.same ⟨hzmap.1, hzmap.2, hzhold⟩ (handled_mapEntry _ _ _ _ _ _ _ z).mapSame
  have hxhold : inHold x t.val = false := by
    rw [hfields]
    exact hrun
  rw [hz] at hend hidle
  rw [mapPump_ends hxhold (congrArg MapS.wait hmap) hend hidle] at hstep
  rw [← hz] at hstep hidle
  have hmapped : getEntry (mapEntry t.val (mcEntry w.raw) 2 (mcTile w.raw) b.block w.raw false z) t.val (mcEntry w.raw) =
      { getEntry s t.val (mcEntry w.raw) with
        state := 2, write := mcWrite w.raw, busy := false, accessed := false, dirty := false, tile := mcTile w.raw
        part := mcPart w.raw, block := b.block, wasPinned := false, wasFar := false } := by
    refine (getEntry_setEntry_same t.val _ _ z).trans ?_
    rw [hentry]
  have hhandled := handled_mapEntry t.val (mcEntry w.raw) 2 (mcTile w.raw) b.block w.raw false z
  generalize mapEntry t.val (mcEntry w.raw) 2 (mcTile w.raw) b.block w.raw false z = y at hstep hidle hmapped hhandled
  have hans : y.answers = removeFirst (fun x => x.dst = t.val) s.answers := by rw [hhandled, hzfields]
  have hkept : y.out = {} ∧ y.pending = s.pending ∧ y.time = s.time := by
    rw [hhandled, hzfields]
    exact ⟨rfl, rfl, rfl⟩
  have hmem : SameMemory s y := SameMemory.trans (b := z) (by rw [hzfields]; exact sameMemory_of rfl rfl rfl rfl)
    hhandled.sameMemory
  have hword := resultIn_setMapResult t.val 0 1 b.block 0 y
  generalize setMapResult t.val stOk 0 1 b.block 0 y = r at hstep hword
  refine answers_of_kept (exec_bookkeepingAnswer t s) hstep ?_ ?_ ⟨?_, ?_, ?_, ?_, ?_⟩
  · rw [hword.fields]
    exact hkept.2.1
  · rw [hword.fields]
    exact hkept.2.2
  · rw [hword.fields]
    exact hans
  · rw [getMap, hword.fields]
    exact hidle.wait
  · rw [getEntry, hword.fields]
    exact hmapped
  · rw [hword.word]
    simp [fld]
  · refine hmem.trans (sameMemory_of ?_ ?_ ?_ ?_) <;> rw [hword.fields]

end

theorem queries_adoptedWay (t i : Nat) (s : State) : (adoptedWay t i s).queries = s.queries := by
  unfold adoptedWay hitWay
  dsimp only
  rw [countEv_fields]
  rfl

theorem answers_adoptedWay (t i : Nat) (s : State) : (adoptedWay t i s).answers = s.answers := by
  rw [handled_adoptedWay t i s]

/-- Settles O49: a query is taken and answered from the pool or the directory as they stand, and the block map, with nothing
held or waiting, changes nothing more but the granules that a freed block has left to clear; an answer lets the FARMAP that
waits handle its entry. -/
theorem bookkeepingBetweenTiles : Obligations.BookkeepingBetweenTiles := by
  unfold Obligations.BookkeepingBetweenTiles
  intro t s
  refine ⟨fun hnone => ?_, fun q hq => ⟨fun hk => ?_, fun hgone hk => ?_, fun hthere hrun hs hheld hwait hqueue hjobs hquiet => ?_⟩,
    fun hnone => ?_, fun b w hb hk hok hrun hw hqueue hop hasked hdone hgood hfree hs =>
      answers_farmap_ends hb hk hok hrun hw hqueue hop hasked hdone hgood hfree hs⟩
  · refine noEffect_run (exec_bookkeepingQuery t s) ?_
    have hfind : (fresh s).queries.find? (fun q => q.dst = t.val) = none := hnone
    unfold bookkeepingQuery
    rw [hfind]
  · obtain ⟨n, hstep⟩ := bookkeepingQuery_gateway hq hk
    exact answers_of_kept (exec_bookkeepingQuery t s) hstep rfl rfl
      ⟨⟨rfl, _, rfl, rfl, rfl, rfl, rfl, rfl⟩, rfl, sameMemory_of rfl rfl rfl rfl⟩
  · exact answers_of_kept (exec_bookkeepingQuery t s) (bookkeepingQuery_gone hq hk hgone) rfl rfl
      ⟨⟨rfl, _, rfl, rfl, rfl, rfl, rfl, rfl, rfl⟩, rfl, sameMemory_of rfl rfl rfl rfl⟩
  · have h : Answering s t.val q := ⟨hq, hthere, hrun, hs, ⟨hjobs, hheld, hwait, hqueue⟩, hquiet⟩
    refine ⟨fun hk hp hstate hrefs => ?_, fun hk hp hstate => ?_, fun k hk hkey hrefs => ?_, fun hk hstate => ?_⟩
    · refine answers_query h (.inl hk) ((if_pos hk).trans (farMapHere_ok (s := queryTaken t.val s) hs hp hstate hrefs))
        (handled_setPool _ _ _ _) rfl fun x hx hmem =>
          ⟨⟨hx.queries, _, congrArg (· ++ _) hx.answers, rfl, rfl, rfl, rfl, rfl, rfl⟩, ?_, hmem⟩
      · have hpool := hx.pool (mapQuiet_congr (s := s) rfl hquiet)
        refine (congrArg (fget ({} : PoolD) · _) hpool).trans ?_
        exact getPool_setPool_same _ _ _ (queryTaken t.val s)
    · refine answers_query h (.inl hk) ((if_pos hk).trans (farMapHere_retired (s := queryTaken t.val s) hs hp hstate))
        (.refl _) rfl fun x hx hmem =>
          ⟨⟨hx.queries, _, congrArg (· ++ _) hx.answers, rfl, rfl, rfl, rfl, rfl, rfl⟩, ?_⟩
      · exact hx.pool (mapQuiet_congr (s := s) rfl hquiet)
    · obtain ⟨-, hsched, -, -, hmore⟩ := adoptedWay_spec t.val k (queryTaken t.val s)
      have hhandled := handled_adoptedWay t.val k (queryTaken t.val s)
      refine answers_query h (.inr hk) ((if_neg (by omega)).trans (adoptHere_hit (s := queryTaken t.val s) hs hkey hrefs))
        hhandled hsched fun x hx hmem =>
          ⟨⟨hx.queries.trans (queries_adoptedWay _ _ _), _, congrArg (· ++ _) (hx.answers.trans (answers_adoptedWay _ _ _)),
            rfl, rfl, rfl, rfl, rfl, rfl⟩, ?_⟩
      · exact (hx.refs _ _).trans hmore
    · refine answers_release h hk (by omega) fun x hx hmem => ⟨?_, ?_, ?_, hmem⟩
      · refine hx.queries.trans ?_
        rw [dropRef_fields]
        rfl
      · refine hx.answers.trans ?_
        rw [dropRef_fields]
        rfl
      · exact (hx.refs _ _).trans (refs_dropRef _ _ _ _)
  · refine noEffect_run (exec_bookkeepingAnswer t s) ?_
    have hfind : (fresh s).answers.find? (fun b => b.dst = t.val) = none := hnone
    unfold bookkeepingAnswer
    rw [hfind]

end Sys2Proof.Machine

/-! ## Proofs: the last job of a block map ends -/

namespace Sys2Proof.Machine

open Sys2Proof

/-! ### The job, and its end -/

/-- The job of entry `e` is the only one of its tile's block map, and nothing is held or waits there. -/
structure LoneJob (s : State) (t e : Nat) (j : MapJob) : Prop where
  jobs : (getMap s t).jobs = [j]
  mine : j.entry = e
  held : (getMap s t).held = []
  wait : (getMap s t).wait = none
  queue : (getMap s t).queue = []
  releases : (getMap s t).releases = []
  quiet : mapQuiet s t

theorem LoneJob.jobOf {s : State} {t e : Nat} {j : MapJob} (h : LoneJob s t e j) : jobOf s t e = some j := by
  unfold Machine.jobOf
  rw [h.jobs, List.find?_cons_of_pos (by simp [h.mine])]

/-- What the end of a job is read from. -/
def endParts (s : State) := (s.pending, s.time, s.map, s.sched, s.entry)

/-- The job of entry `e` is over, the entry is `x`, and the block map has no work but to clear blocks. -/
structure Over (t e : Nat) (x : Entry) (s y : State) : Prop where
  pending : y.pending = s.pending
  time : y.time = s.time
  map : getMap y t = { getMap s t with jobs := [] }
  clearing : Clearing y t
  entry : getEntry y t e = x
  others : ∀ k, k ≠ t * 65536 + e → fget ({} : Entry) y.entry k = fget {} s.entry k

section
variable {t e : Nat} {x : Entry} {s y : State}

theorem Over.of_parts {c : State} (h : Over t e x c y) (hc : endParts c = endParts s) : Over t e x s y := by
  simp only [endParts, Prod.mk.injEq] at hc
  obtain ⟨hpend, htime, hmap, -, hentry⟩ := hc
  refine ⟨h.pending.trans hpend, h.time.trans htime, h.map.trans ?_, h.clearing, h.entry, fun k hk => ?_⟩
  · rw [getMap, hmap]
    rfl
  · rw [h.others k hk, hentry]

theorem Over.keep {z : State} (h : Over t e x s y) (hz : endParts z = endParts y) : Over t e x s z := by
  simp only [endParts, Prod.mk.injEq] at hz
  obtain ⟨hpend, htime, hmap, hsched, hentry⟩ := hz
  refine ⟨hpend.trans h.pending, htime.trans h.time, ?_, clearing_congr hsched h.clearing, ?_, fun k hk => ?_⟩
  · rw [getMap, hmap]
    exact h.map
  · rw [getEntry, hentry]
    exact h.entry
  · rw [hentry]
    exact h.others k hk

theorem Over.setEntry (h : Over t e x s y) (x' : Entry) : Over t e x' s (setEntry t e x' y) where
  pending := h.pending
  time := h.time
  map := h.map
  clearing := clearing_congr (s := y) rfl h.clearing
  entry := getEntry_setEntry_same _ _ _ _
  others k hk := (fget_fset_other ({} : Entry) {} y.entry _ hk).trans (h.others k hk)

theorem Over.setPool (h : Over t e x s y) (u p : Nat) (d : PoolD) : Over t e x s (setPool u p d y) := h.keep rfl

theorem Over.bump (h : Over t e x s y) (u k n : Nat) : Over t e x s (bump u k n y) := h.keep rfl

theorem endParts_countEv (t e q n : Nat) (s : State) : endParts (countEv t e q n s) = endParts s := by
  rw [countEv_fields]
  rfl

theorem Over.dropRef (h : Over t e x s y) (p part : Nat) : Over t e x s (dropRef t p part y) := by
  refine ⟨?_, ?_, ?_, clearing_dropRef h.clearing p part, ?_, fun k hk => ?_⟩
  · rw [dropRef_fields]
    exact h.pending
  · rw [dropRef_fields]
    exact h.time
  · rw [dropRef_fields]
    exact h.map
  · rw [dropRef_fields]
    exact h.entry
  · rw [dropRef_fields]
    exact h.others k hk

theorem Over.side {z : State} (h : Over t e x s y) (hz : Side y z) : Over t e x s z := by
  refine h.keep ?_
  rw [hz.fields]
  rfl

/-- The held requests are none, and stay so. -/
theorem Over.setHeld (h : Over t e x s y) (hheld : (getMap s t).held = []) : Over t e x s (setHeld t [] y) where
  pending := h.pending
  time := h.time
  map := by
    refine (getMap_modMap t (fun m => { m with held := [] }) y).trans ?_
    rw [h.map, ← hheld]
  clearing := clearing_congr (s := y) rfl h.clearing
  entry := h.entry
  others := h.others

theorem Over.releasePending (h : Over t e x s y) (hrel : (getMap s t).releases = []) (e' : Nat) :
    releasePending t e' y = y := by
  unfold Machine.releasePending
  rw [h.map]
  dsimp only
  rw [hrel]
  rfl

theorem Over.unneeded {j : MapJob} (h : Over t e x s y) (hj : LoneJob s t e j) : Unneeded y t := by
  obtain ⟨-, -, hheld, hwait, hqueue, -, -⟩ := hj
  constructor <;> rw [h.map]
  · exact hheld
  · exact hwait
  · exact hqueue

end

theorem over_endJob {s c : State} {t e : Nat} {j : MapJob} (h : LoneJob s t e j) (hc : endParts c = endParts s) :
    Over t e { getEntry s t e with busy := false } s (endJob t e c) := by
  have hparts := hc
  simp only [endParts, Prod.mk.injEq] at hparts
  obtain ⟨-, -, hmap, hsched, hentry⟩ := hparts
  have hbefore : getMap c t = getMap s t := by rw [getMap, hmap]; rfl
  have hentry' : getEntry c t e = getEntry s t e := by rw [getEntry, hentry]; rfl
  have hall : Over t e { getEntry c t e with busy := false } c (endJob t e c) := by
    refine ⟨rfl, rfl, ?_, clearing_congr (s := s) hsched (clearing_of_mapQuiet h.quiet), getEntry_setEntry_same _ _ _ _,
      fun k hk => fget_fset_other ({} : Entry) {} c.entry _ hk⟩
    refine (getMap_modMap t (fun m => { m with jobs := m.jobs.filter (fun j => j.entry ≠ e) }) c).trans ?_
    rw [hbefore, h.jobs, List.filter_cons_of_neg (by simp [h.mine])]
    rfl
  rw [hentry'] at hall
  exact hall.of_parts hc

/-- The entry of a job that has ended, and of every other: the statement's words for it. -/
def EntryOver (s s' : State) (t e : Nat) (x : Entry) : Prop := getEntry s' t e = x ∧ (getMap s' t).jobs = [] ∧
  ∀ k, k ≠ t * 65536 + e → fget ({} : Entry) s'.entry k = fget {} s.entry k

theorem entryOver_of {t e : Nat} {x : Entry} {s y z : State} (h : Over t e x s y) (hz : Woke t y z) : EntryOver s z t e x := by
  refine ⟨?_, ?_, fun k hk => ?_⟩
  · rw [getEntry, hz.entry]
    exact h.entry
  · rw [hz.map, h.map]
  · rw [hz.entry]
    exact h.others k hk

/-- An event at which the job ends, and the block map wakes. -/
theorem answers_over {c : Instr} {s y : State} {t e : Nat} {j : MapJob} {x : Entry} {f : State → State} {P : State → Prop}
    {en : Option Nat} (hexec : exec c s = run f s) (hj : LoneJob s t e j) (hy : Over t e x (fresh s) y)
    (hf : f (fresh s) = mapWakeFor t en y) (hP : ∀ z, Woke t y z → EntryOver s z t e x → P z) : Answers c s P := by
  have hj' : LoneJob (fresh s) t e j := ⟨hj.jobs, hj.mine, hj.held, hj.wait, hj.queue, hj.releases, hj.quiet⟩
  have hwoke := woke_mapWakeFor (hy.unneeded hj') hy.clearing en
  obtain ⟨-, hpend, htime⟩ := hwoke.kept
  exact answers_of_kept hexec hf (hpend.trans hy.pending) (htime.trans hy.time) (hP _ hwoke (entryOver_of (s := fresh s) hy hwoke))

/-! ### Blocks -/

theorem getPool_setPool_other {t p q : Nat} (d : PoolD) (s : State) (h : q ≠ p) :
    getPool (setPool t p d s) t q = getPool s t q :=
  fget_fset_other _ _ _ _ (fun he => h (Nat.add_left_cancel he))

theorem getPool_dropRef_other {t p q : Nat} (part : Nat) (s : State) (h : q ≠ p) :
    getPool (dropRef t p part s) t q = getPool s t q := by
  unfold dropRef
  dsimp only
  split
  · split <;> exact getPool_setPool_other _ s h
  · exact getPool_setPool_other _ s h

/-- A block that is not relocated stays what it is (R256). -/
theorem finalBlock_of_not_moved {s : State} {t p : Nat} (h : (getPool s t p).pstate ≠ 2 ∨ (getPool s t p).forward = false) :
    finalBlock s t mapFuel p = p := by
  have hno : ¬ ((getPool s t p).pstate = 2 ∧ (getPool s t p).forward = true) := by
    rintro ⟨hp, hf⟩
    rcases h with h | h
    · exact h hp
    · rw [hf] at h
      cases h
  unfold finalBlock
  dsimp only
  rw [if_neg hno]

/-- A block returned by a job that took it is out of use, or in clearing. -/
theorem refs_toClearing (t p part : Nat) (s : State) : (getPool (toClearing t p part s) t p).refs = 0 := by
  unfold toClearing
  dsimp only
  split
  · exact congrArg PoolD.refs (getPool_setPool_same _ _ _ s)
  · rw [refs_dropRef, getPool_setPool_same]
    rfl

/-! ### Objects of 64 bits that count -/

theorem getObj_bump_same {k : Nat} (u n : Nat) (s : State) (hk : objBits k = 64 := by decide) :
    getObj (bump u k n s) u k = (getObj s u k + n) % 2 ^ 64 := by
  refine (getObj_setObj_same _ _ _ _).trans ?_
  rw [hk]

theorem getObj_bump_obj {k j : Nat} (u n w : Nat) (s : State) (h : k ≠ j) (hk : k < 2 ^ 24 := by decide)
    (hj : j < 2 ^ 24 := by decide) : getObj (bump u j n s) w k = getObj s w k := getObj_setObj_obj s h hk hj

theorem getObj_countEv (t e q n : Nat) (s : State) (u k : Nat) : getObj (countEv t e q n s) u k = getObj s u k :=
  getObj_congr (by rw [countEv_fields]) u k

theorem getObj_setEntry (t e u k : Nat) (x : Entry) (s : State) : getObj (setEntry t e x s) u k = getObj s u k := rfl
theorem getObj_setPool (t p u k : Nat) (d : PoolD) (s : State) : getObj (setPool t p d s) u k = getObj s u k := rfl
theorem getObj_endJob (t e u k : Nat) (s : State) : getObj (endJob t e s) u k = getObj s u k := rfl
theorem getPool_setEntry (t e p : Nat) (x : Entry) (s : State) : getPool (setEntry t e x s) t p = getPool s t p := rfl
theorem getPool_bump (t u k n p : Nat) (s : State) : getPool (bump u k n s) t p = getPool s t p := rfl
theorem getPool_endJob (t e p : Nat) (s : State) : getPool (endJob t e s) t p = getPool s t p := rfl

theorem getPool_countEv (t e q n p : Nat) (s : State) : getPool (countEv t e q n s) t p = getPool s t p := by
  rw [countEv_fields]
  rfl

theorem sched_setPool (t p : Nat) (d : PoolD) (s : State) : (setPool t p d s).sched = s.sched := rfl
theorem sched_endJob (t e : Nat) (s : State) : (endJob t e s).sched = s.sched := rfl
theorem sched_setObj (u k v : Nat) (s : State) : (setObj u k v s).sched = s.sched := rfl
theorem pool_setObj (u k v : Nat) (s : State) : (setObj u k v s).pool = s.pool := rfl
theorem sched_modMap (t : Nat) (f : MapS → MapS) (s : State) : (modMap t f s).sched = s.sched := rfl
theorem sched_setEntry (t e : Nat) (x : Entry) (s : State) : (setEntry t e x s).sched = s.sched := rfl
theorem pool_modMap (t : Nat) (f : MapS → MapS) (s : State) : (modMap t f s).pool = s.pool := rfl
theorem pool_setEntry (t e : Nat) (x : Entry) (s : State) : (setEntry t e x s).pool = s.pool := rfl
theorem pool_endJob (t e : Nat) (s : State) : (endJob t e s).pool = s.pool := rfl
theorem Side.pool {s s' : State} (h : Side s s') : s'.pool = s.pool := by rw [h.fields]
theorem Side.sched {s s' : State} (h : Side s s') : s'.sched = s.sched := by rw [h.fields]

end Sys2Proof.Machine

/-! ## Proofs: copies, relocations, fills and spills end -/

namespace Sys2Proof.Machine

open Sys2Proof

/-! ### A copy-on-write (R248) -/

/-- What a copy-on-write counts (R248). -/
def cowCounted (t : Nat) (j : MapJob) (s : State) : State :=
  bump t Obj.cowBlocks 1 (bump t Obj.cowInBankRows j.rows (bump t Obj.cowBounceRows (poolG s t - j.rows)
    (countEv t 0x0041 0 (poolG s t) s)))

/-- The entry of a copy-on-write has become its own. -/
def cowEnded (t e : Nat) (j : MapJob) (p : Nat) (s : State) : State :=
  let b := endJob t e (cowCounted t j s)
  let x := getEntry b t e
  let d := dropRef t j.src x.part (setPool t p { getPool b t p with refs := 1 } b)
  setEntry t e { getEntry d t e with
    block := p, dirty := true, tile := 0, state := if x.state = 4 then 4 else 1 } d

section
variable {s : State} {t e p : Nat} {j : MapJob} (h : LoneJob s t e j)
include h

omit h in
theorem endParts_cowCounted (s : State) : endParts (cowCounted t j s) = endParts s := endParts_countEv t 0x0041 0 (poolG s t) s

theorem over_cowEnded : Over t e { getEntry s t e with
    block := p, dirty := true, tile := 0, busy := false, state := if (getEntry s t e).state = 4 then 4 else 1 } s
      (cowEnded t e j p s) := by
  have hend := over_endJob (c := cowCounted t j s) h (endParts_cowCounted s)
  unfold cowEnded
  dsimp only
  rw [hend.entry]
  have hdrop := (hend.setPool t p { getPool (endJob t e (cowCounted t j s)) t p with refs := 1 }).dropRef j.src
    (getEntry s t e).part
  rw [hdrop.entry]
  exact hdrop.setEntry _

omit h in
theorem cowEnded_pool (hne : p ≠ j.src) : (getPool (cowEnded t e j p s) t p).refs = 1 ∧
    (getPool (cowEnded t e j p s) t j.src).refs = (getPool s t j.src).refs - 1 := by
  have hpool : ∀ q, getPool (endJob t e (cowCounted t j s)) t q = getPool s t q := fun q => by
    unfold cowCounted
    rw [getPool_endJob, getPool_bump, getPool_bump, getPool_bump, getPool_countEv]
  unfold cowEnded
  dsimp only
  constructor
  · rw [getPool_setEntry, getPool_dropRef_other _ _ hne, getPool_setPool_same]
  · rw [getPool_setEntry, refs_dropRef, getPool_setPool_other _ _ (Ne.symm hne), hpool]

omit h in
theorem cowEnded_counts : getObj (cowEnded t e j p s) t Obj.cowBlocks = (getObj s t Obj.cowBlocks + 1) % 2 ^ 64 ∧
    getObj (cowEnded t e j p s) t Obj.cowInBankRows = (getObj s t Obj.cowInBankRows + j.rows) % 2 ^ 64 := by
  have hdict : ∀ k, k < 2 ^ 24 → k ≠ Obj.freeBlocks → getObj (cowEnded t e j p s) t k = getObj (cowCounted t j s) t k := by
    intro k hk hf
    unfold cowEnded
    dsimp only
    rw [getObj_setEntry, getObj_dropRef _ _ _ _ _ hk hf, getObj_setPool, getObj_endJob]
  rw [hdict _ (by decide) (by decide), hdict _ (by decide) (by decide)]
  unfold cowCounted
  constructor
  · rw [getObj_bump_same, getObj_bump_obj _ _ _ _ (by decide), getObj_bump_obj _ _ _ _ (by decide), getObj_countEv]
  · rw [getObj_bump_obj _ _ _ _ (by decide), getObj_bump_same, getObj_bump_obj _ _ _ _ (by decide), getObj_countEv]

theorem cowComplete_cow (hk : j.kind = .cow) (hfar : j.far = none) (hdst : j.dst = some p) (hleft : j.left = 0)
    (hne : p ≠ j.src) (hstays : (getPool s t j.src).pstate ≠ 2 ∨ (getPool s t j.src).forward = false) :
    cowComplete t e s = mapWakeFor t (some e) (cowEnded t e j p s) := by
  have hpool : getPool (endJob t e (cowCounted t j s)) t j.src = getPool s t j.src := by
    unfold cowCounted
    rw [getPool_endJob, getPool_bump, getPool_bump, getPool_bump, getPool_countEv]
  have hover : Over t e _ s (cowEnded t e j p s) := over_cowEnded h
  have hrel := hover.releasePending h.releases e
  have hfinal : finalBlock (setPool t p { getPool (endJob t e (cowCounted t j s)) t p with refs := 1 }
      (endJob t e (cowCounted t j s))) t mapFuel j.src = j.src := by
    refine finalBlock_of_not_moved ?_
    rw [getPool_setPool_other _ _ (Ne.symm hne), hpool]
    exact hstays
  unfold cowComplete
  rw [h.jobOf]
  dsimp only
  rw [hk, hdst]
  dsimp only
  rw [if_neg (by omega)]
  unfold finishCow
  dsimp only
  rw [hfar]
  dsimp only
  unfold cowCounted at hfinal
  rw [hfinal]
  unfold cowEnded cowCounted at hrel ⊢
  dsimp only at hrel ⊢
  rw [hrel]

/-! ### A relocation (R256) -/

omit h in
/-- A reference is dropped of a block that keeps others. -/
theorem dropRef_held {d : PoolD} {part : Nat} (hd : getPool s t p = d) (hrefs : d.refs - 1 ≠ 0) :
    dropRef t p part s = setPool t p { d with refs := d.refs - 1 } s := by
  unfold dropRef
  dsimp only
  rw [hd, if_neg fun hz => hrefs hz.1]

omit h in
/-- The old block of a relocation forwards to the new one, which has its references (R256). -/
def relocMoved (t : Nat) (j : MapJob) (p : Nat) (s : State) : State :=
  setPool t j.src { getPool s t j.src with refs := 0, forward := true, next := p }
    (setPool t p { getPool s t p with refs := (getPool s t j.src).refs + 1 } s)

omit h in
theorem getPool_relocMoved (hne : p ≠ j.src) :
    getPool (relocMoved t j p s) t j.src = { getPool s t j.src with refs := 0, forward := true, next := p } ∧
    getPool (relocMoved t j p s) t p = { getPool s t p with refs := (getPool s t j.src).refs + 1 } := by
  unfold relocMoved
  rw [getPool_setPool_same, getPool_setPool_other _ _ hne, getPool_setPool_same]
  exact ⟨rfl, rfl⟩

omit h in
theorem endParts_relocMoved : endParts (relocMoved t j p s) = endParts s := rfl

omit h in
/-- The new block of a relocation has taken the references of the old one, and the job is over. -/
def relocEnded (t e : Nat) (j : MapJob) (p : Nat) (s : State) : State :=
  dropRef t p (getEntry s t e).part (endJob t e (relocMoved t j p s))

theorem over_relocEnded : Over t e { getEntry s t e with busy := false } s (relocEnded t e j p s) :=
  (over_endJob (c := relocMoved t j p s) h endParts_relocMoved).dropRef p _

omit h in
theorem relocEnded_pool (hne : p ≠ j.src) (hrefs : 1 ≤ (getPool s t j.src).refs) :
    getPool (relocEnded t e j p s) t j.src = { getPool s t j.src with refs := 0, forward := true, next := p } ∧
    getPool (relocEnded t e j p s) t p = { getPool s t p with refs := (getPool s t j.src).refs } := by
  obtain ⟨hsrc, hdst⟩ := getPool_relocMoved (s := s) (t := t) hne
  unfold relocEnded
  constructor
  · rw [getPool_dropRef_other _ _ (Ne.symm hne), getPool_endJob, hsrc]
  · rw [dropRef_held ((getPool_endJob _ _ _ _).trans hdst) (by dsimp only; omega), getPool_setPool_same]
    rfl

omit h in
/-- No fill is queued where the references stay. -/
theorem relocEnded_sched (hne : p ≠ j.src) (hrefs : 1 ≤ (getPool s t j.src).refs) :
    (relocEnded t e j p s).sched = s.sched := by
  obtain ⟨-, hdst⟩ := getPool_relocMoved (s := s) (t := t) hne
  have hmoved : (relocMoved t j p s).sched = s.sched := rfl
  unfold relocEnded
  rw [dropRef_held ((getPool_endJob _ _ _ _).trans hdst) (by dsimp only; omega), sched_setPool, sched_endJob, hmoved]

theorem cowComplete_reloc (hk : j.kind = .reloc) (hdst : j.dst = some p) (hleft : j.left = 0) :
    cowComplete t e s = mapWakeFor t (some e) (relocEnded t e j p s) := by
  have hover : Over t e _ s (relocEnded t e j p s) := over_relocEnded h
  have hrel := hover.releasePending h.releases e
  unfold cowComplete
  rw [h.jobOf]
  dsimp only
  rw [hk, hdst]
  dsimp only
  rw [if_neg (by omega)]
  unfold relocEnds
  rw [h.jobOf]
  dsimp only
  rw [hk, hdst]
  dsimp only
  rw [if_pos hleft]
  unfold finishReloc
  dsimp only
  unfold relocEnded relocMoved at hrel ⊢
  rw [hrel]

/-! ### A fill (R251, R252) -/

omit h in
/-- The entry of a fill is NEAR and clean. -/
def fillEnded (t e p : Nat) (s : State) : State :=
  let b := endJob t e s
  let d := setPool t p { getPool b t p with refs := 1 } b
  countEv t 0x0042 0 1 (bump t Obj.fills 1 (setEntry t e { getEntry d t e with
    state := 1, dirty := false, block := p, tile := 0 } d))

theorem over_fillEnded : Over t e { getEntry s t e with state := 1, dirty := false, block := p, tile := 0, busy := false } s
    (fillEnded t e p s) := by
  have hend := (over_endJob (c := s) h rfl).setPool t p { getPool (endJob t e s) t p with refs := 1 }
  unfold fillEnded
  dsimp only
  rw [hend.entry]
  exact ((hend.setEntry _).bump t Obj.fills 1).keep (endParts_countEv _ _ _ _ _)

omit h in
theorem fillEnded_facts : (getPool (fillEnded t e p s) t p).refs = 1 ∧
    getObj (fillEnded t e p s) t Obj.fills = (getObj s t Obj.fills + 1) % 2 ^ 64 := by
  unfold fillEnded
  dsimp only
  constructor
  · rw [getPool_countEv, getPool_bump, getPool_setEntry, getPool_setPool_same]
  · rw [getObj_countEv, getObj_bump_same, getObj_setEntry, getObj_setPool, getObj_endJob]

theorem fillComplete_ends (st : Nat) (data : List Nat) (hk : j.kind = .fill) (hdst : j.dst = some p) (hready : j.ready = true)
    (hleft : j.left = 0) : fillComplete t e st data s = mapWakeFor t (some e) (fillEnded t e p s) := by
  have hover : Over t e _ s (fillEnded t e p s) := over_fillEnded h
  have hrel := hover.releasePending h.releases e
  unfold fillComplete
  rw [h.jobOf]
  dsimp only
  rw [hk, hdst]
  dsimp only
  rw [if_pos hready, if_pos hleft]
  unfold finishFill
  dsimp only
  unfold fillEnded at hrel ⊢
  dsimp only at hrel ⊢
  rw [hrel]

omit h in
/-- The failure of a job is told, with the entry and the time (R252). -/
theorem mapFailed_spec (t e st : Nat) (s : State) : ∃ ev, ev = fld 56 8 2 + fld 40 16 e + s.time.timeBase % 2 ^ 40 ∧
    Side (setObj t Obj.lastMapEvent ev s) (mapFailed t e st s) := by
  refine ⟨_, rfl, ?_⟩
  unfold mapFailed mapEvent
  exact (side_addLog _ _ _ _ _ _ _).trans (side_ring _ _ _)

omit h in
theorem getObj_mapFailed (t e st : Nat) (s : State) : getObj (mapFailed t e st s) t Obj.lastMapEvent =
    fld 56 8 2 + fld 40 16 e + s.time.timeBase % 2 ^ 40 := by
  have hbits : objBits Obj.lastMapEvent = 64 := by decide
  obtain ⟨ev, hev, hspec⟩ := mapFailed_spec t e st s
  rw [← hev]
  refine (hspec.objs t _ (by decide) (by decide)).trans (getObj_setObj_fits s ?_)
  rw [hbits, hev]
  unfold fld
  omega

omit h in
theorem mapFailed_tables (t e st : Nat) (s : State) :
    (mapFailed t e st s).pool = s.pool ∧ (mapFailed t e st s).sched = s.sched := by
  obtain ⟨ev, -, hspec⟩ := mapFailed_spec t e st s
  exact ⟨hspec.pool.trans (pool_setObj _ _ _ _), hspec.sched.trans (sched_setObj _ _ _ _)⟩

omit h in
theorem Over.mapFailed {x : Entry} {y : State} (hy : Over t e x s y) (st : Nat) : Over t e x s (mapFailed t e st y) := by
  obtain ⟨ev, -, hspec⟩ := mapFailed_spec t e st y
  exact Over.side (hy.keep (z := setObj t Obj.lastMapEvent ev y) rfl) hspec

omit h in
/-- A fill is undone, and its block returned. -/
def fillUndone (t e p st : Nat) (s : State) : State :=
  mapFailed t e st (setHeld t [] (toClearing t p (getEntry s t e).part (endJob t e s)))

omit h in
theorem Over.toClearing {x : Entry} {y : State} (hy : Over t e x s y) (p part : Nat) : Over t e x s (toClearing t p part y) := by
  unfold Machine.toClearing
  dsimp only
  split
  · exact hy.setPool _ _ _
  · exact (hy.setPool _ _ _).dropRef _ _

theorem over_fillUndone (st : Nat) : Over t e { getEntry s t e with busy := false } s (fillUndone t e p st s) :=
  (((over_endJob (c := s) h rfl).toClearing p (getEntry s t e).part).setHeld h.held).mapFailed st

omit h in
theorem fillUndone_facts (st : Nat) : (getPool (fillUndone t e p st s) t p).refs = 0 := by
  unfold fillUndone
  rw [getPool, (mapFailed_tables t e st _).1]
  exact refs_toClearing t p _ _

theorem getObj_fillUndone (st : Nat) : getObj (fillUndone t e p st s) t Obj.lastMapEvent =
    fld 56 8 2 + fld 40 16 e + s.time.timeBase % 2 ^ 40 := by
  have hbefore := ((over_endJob (c := s) h rfl).toClearing p (getEntry s t e).part).setHeld h.held
  unfold fillUndone
  rw [getObj_mapFailed, hbefore.time]

theorem undoFill_lone (st : Nat) : undoFill t e (some p) st s = mapWakeFor t none (fillUndone t e p st s) := by
  have hover : Over t e _ s (fillUndone t e p st s) := over_fillUndone h st
  have hrel := hover.releasePending h.releases e
  have hbefore := (over_endJob (c := s) h rfl).toClearing p (getEntry s t e).part
  have hheld : (getMap (toClearing t p (getEntry s t e).part (endJob t e s)) t).held = [] := by
    rw [hbefore.map]
    exact h.held
  unfold undoFill
  dsimp only
  unfold failHeld
  dsimp only
  rw [hheld]
  unfold fillUndone at hrel ⊢
  dsimp only [List.filter_nil, List.foldl_nil]
  rw [hrel]
  rfl

/-! ### A spill (R250, R252) -/

omit h in
/-- The entry of a spill is SPILLED, and its block released. -/
def spillEnded (t e : Nat) (s : State) : State :=
  let b := endJob t e s
  let x := getEntry b t e
  dropRef t x.block x.part (bump t Obj.spills 1 (setEntry t e { x with state := 3, dirty := false, block := 0 } b))

theorem over_spillEnded : Over t e { getEntry s t e with state := 3, dirty := false, block := 0, busy := false } s
    (spillEnded t e s) := by
  have hend := over_endJob (c := s) h rfl
  unfold spillEnded
  dsimp only
  rw [hend.entry]
  exact ((hend.setEntry _).bump t Obj.spills 1).dropRef _ _

theorem spillEnded_facts : (getPool (spillEnded t e s) t (getEntry s t e).block).refs =
      (getPool s t (getEntry s t e).block).refs - 1 ∧
    getObj (spillEnded t e s) t Obj.spills = (getObj s t Obj.spills + 1) % 2 ^ 64 := by
  have hend := over_endJob (c := s) h rfl
  unfold spillEnded
  dsimp only
  rw [hend.entry]
  constructor
  · rw [refs_dropRef, getPool_bump, getPool_setEntry, getPool_endJob]
  · rw [getObj_dropRef _ _ _ _ _ (by decide) (by decide), getObj_bump_same, getObj_setEntry, getObj_endJob]

theorem finishSpill_lone (hstays : mustMove s t { getEntry s t e with state := 1 } = false) :
    finishSpill t e s = spillEnded t e s := by
  have hover : Over t e _ s (spillEnded t e s) := over_spillEnded h
  have hrel := hover.releasePending h.releases e
  have hend := over_endJob (c := s) h rfl
  have hfinal : finalBlock (endJob t e s) t mapFuel (getEntry s t e).block = (getEntry s t e).block := by
    refine finalBlock_of_not_moved ?_
    rw [getPool_endJob]
    unfold mustMove at hstays
    by_cases hp : (getPool s t (getEntry s t e).block).pstate = 2
    · right
      simpa [hp] using hstays
    · exact .inl hp
  unfold finishSpill
  dsimp only
  unfold spillEnded at hrel ⊢
  dsimp only at hrel ⊢
  rw [hend.entry] at hrel ⊢
  dsimp only at hrel ⊢
  rw [hfinal, hrel]

omit h in
/-- A spill is undone: the entry stays NEAR and dirty. -/
def spillUndone (t e st : Nat) (s : State) : State := mapFailed t e st (spillBack t e st s)

omit h in
theorem Over.modMap {x : Entry} {y : State} (hy : Over t e x s y) (f : MapS → MapS) (hf : f (getMap y t) = getMap y t) :
    Over t e x s (modMap t f y) where
  pending := hy.pending
  time := hy.time
  map := (getMap_modMap t f y).trans (hf.trans hy.map)
  clearing := clearing_congr (s := y) rfl hy.clearing
  entry := hy.entry
  others := hy.others

omit h in
theorem pool_spillBack (st : Nat) : (spillBack t e st s).pool = s.pool := by
  unfold spillBack
  dsimp only
  rw [pool_modMap, pool_setEntry, pool_endJob]

omit h in
theorem sched_spillBack (st : Nat) : (spillBack t e st s).sched = s.sched := by
  unfold spillBack
  dsimp only
  rw [sched_modMap, sched_setEntry, sched_endJob]

theorem over_spillBack (st : Nat) : Over t e { getEntry s t e with state := 1, dirty := true, busy := false } s
    (spillBack t e st s) := by
  have hend := over_endJob (c := s) h rfl
  unfold spillBack
  dsimp only
  rw [hend.entry]
  refine (hend.setEntry _).modMap _ ?_
  rw [(hend.setEntry _).map]
  dsimp only
  rw [h.wait]
  rfl

theorem spillUndone_facts (st : Nat) :
    Over t e { getEntry s t e with state := 1, dirty := true, busy := false } s (spillUndone t e st s) ∧
    (spillUndone t e st s).pool = s.pool ∧ (spillUndone t e st s).sched = s.sched ∧
    getObj (spillUndone t e st s) t Obj.lastMapEvent = fld 56 8 2 + fld 40 16 e + s.time.timeBase % 2 ^ 40 := by
  have hback := over_spillBack h st
  refine ⟨hback.mapFailed st, ?_, ?_, ?_⟩
  · exact (mapFailed_tables t e st _).1.trans (pool_spillBack st)
  · exact (mapFailed_tables t e st _).2.trans (sched_spillBack st)
  · rw [spillUndone, getObj_mapFailed, hback.time]

theorem undoSpill_lone (st : Nat) : undoSpill t e st s = mapWakeFor t none (spillUndone t e st s) := by
  have hrel := (spillUndone_facts h st).1.releasePending h.releases e
  unfold undoSpill
  unfold spillUndone at hrel ⊢
  rw [hrel]
  rfl

end

end Sys2Proof.Machine

/-! ## Proofs: events of the block map's jobs, and blocks cleared -/

namespace Sys2Proof.Machine

open Sys2Proof

/-! ### Events that find nothing to end -/

section
variable {s : State} {t e : Nat}

theorem jobEvents_none (st : Nat) (data : List Nat) (h : jobOf s t e = none) : cowComplete t e s = s ∧
    fillComplete t e st data s = s ∧ spillComplete t e st s = s ∧ nextLevelTimeout t e s = s := by
  unfold cowComplete fillComplete spillComplete nextLevelTimeout
  rw [h]
  exact ⟨rfl, rfl, rfl, rfl⟩

variable {j : MapJob} (h : jobOf s t e = some j)
include h

theorem cowComplete_early (hj : j.kind = .fill ∨ j.kind = .spill ∨ j.dst = none ∨ j.left ≠ 0) : cowComplete t e s = s := by
  unfold cowComplete
  rw [h]
  dsimp only
  split
  · next hk hd =>
    rw [if_pos]
    rcases hj with hj | hj | hj | hj
    · rw [hk] at hj; cases hj
    · rw [hk] at hj; cases hj
    · rw [hd] at hj; cases hj
    · exact hj
  · next hk hd =>
    rw [if_pos]
    rcases hj with hj | hj | hj | hj
    · rw [hk] at hj; cases hj
    · rw [hk] at hj; cases hj
    · rw [hd] at hj; cases hj
    · exact hj
  · rfl

theorem fillComplete_early (st : Nat) (data : List Nat)
    (hj : j.kind ≠ .fill ∨ j.dst = none ∨ j.ready = true ∧ j.left ≠ 0) : fillComplete t e st data s = s := by
  unfold fillComplete
  rw [h]
  dsimp only
  split
  · next hk hd =>
    rcases hj with hj | hj | ⟨hready, hleft⟩
    · exact absurd hk hj
    · rw [hd] at hj; cases hj
    · rw [if_pos hready, if_neg hleft]
  · rfl

/-- Data that are not the block's are not taken. -/
theorem fillComplete_short {st : Nat} {data : List Nat} (hready : j.ready = false) (hst : st = stOk)
    (hlen : data.length ≠ blockBytes s t) : fillComplete t e st data s = s := by
  unfold fillComplete
  rw [h]
  dsimp only
  split
  · rw [if_neg (by rw [hready]; decide), if_neg (not_not.mpr hst), if_neg hlen]
  · rfl

theorem spillComplete_early {st : Nat} (hj : j.kind ≠ .spill ∨ st = stOk ∧ j.left ≠ 0) : spillComplete t e st s = s := by
  unfold spillComplete
  rw [h]
  dsimp only
  rcases hj with hj | ⟨hst, hleft⟩
  · rw [if_pos hj]
  · split
    · rfl
    · simp only [hst, ne_eq, not_true_eq_false, if_false]

theorem nextLevelTimeout_early (hj : s.time.elapsed - j.started < getObj s t Obj.nextLevelTimeout * 1000000 ∨ j.kind = .cow ∨
    j.kind = .reloc ∨ j.kind = .fill ∧ j.ready = true) : nextLevelTimeout t e s = s := by
  unfold nextLevelTimeout
  rw [h]
  dsimp only
  split
  · rfl
  · next hlate =>
    rcases hj with hj | hj | hj | ⟨hj, hready⟩
    · exact absurd hj hlate
    · rw [hj]
    · rw [hj]
    · rw [hj]
      dsimp only
      rw [if_neg fun hf => hf.2 hready]

theorem nextLevelTimeout_sending (hk : j.kind = .spill) (hleft : poolG s t ≤ j.left) : nextLevelTimeout t e s = s := by
  unfold nextLevelTimeout
  rw [h]
  dsimp only
  split
  · rfl
  · rw [hk]
    dsimp only
    rw [if_neg (Nat.not_lt.mpr hleft)]

/-! ### Events that end a fill or a spill, or undo it -/

theorem fillComplete_fails {p st : Nat} {data : List Nat} (hk : j.kind = .fill) (hdst : j.dst = some p) (hready : j.ready = false)
    (hst : st ≠ stOk) : fillComplete t e st data s = undoFill t e (some p) st s := by
  unfold fillComplete
  rw [h]
  dsimp only
  rw [hk, hdst]
  dsimp only
  rw [if_neg (by rw [hready]; decide), if_pos hst]

theorem nextLevelTimeout_fill {p : Nat} (hlate : getObj s t Obj.nextLevelTimeout * 1000000 ≤ s.time.elapsed - j.started)
    (hk : j.kind = .fill) (hdst : j.dst = some p) (hready : j.ready = false) :
    nextLevelTimeout t e s = undoFill t e (some p) stRetry s := by
  unfold nextLevelTimeout
  rw [h]
  dsimp only
  rw [if_neg (Nat.not_lt.mpr hlate), hk]
  dsimp only
  rw [hdst, if_pos ⟨rfl, by rw [hready]; decide⟩]

theorem nextLevelTimeout_spill (hlate : getObj s t Obj.nextLevelTimeout * 1000000 ≤ s.time.elapsed - j.started)
    (hk : j.kind = .spill) (hleft : j.left < poolG s t) : nextLevelTimeout t e s = undoSpill t e stRetry s := by
  unfold nextLevelTimeout
  rw [h]
  dsimp only
  rw [if_neg (Nat.not_lt.mpr hlate), hk]
  dsimp only
  rw [if_pos hleft]

theorem spillComplete_ends {st : Nat} (hk : j.kind = .spill) (hst : st = stOk) (hleft : j.left = 0) :
    spillComplete t e st s = mapWake t (finishSpill t e s) := by
  unfold spillComplete
  rw [h]
  dsimp only
  rw [if_neg (not_not.mpr hk), if_neg (not_not.mpr hst), if_pos hleft]

theorem spillComplete_fails {st : Nat} (hk : j.kind = .spill) (hst : st ≠ stOk) :
    spillComplete t e st s = undoSpill t e st s := by
  unfold spillComplete
  rw [h]
  dsimp only
  rw [if_neg (not_not.mpr hk), if_pos hst]

end

/-! ### The commands -/

theorem LoneJob.atFresh {s : State} {t e : Nat} {j : MapJob} (h : LoneJob s t e j) : LoneJob (fresh s) t e j :=
  ⟨h.jobs, h.mine, h.held, h.wait, h.queue, h.releases, h.quiet⟩

section
variable {s : State} {t : TileN} {en : BitVec 16} {j : MapJob} {p : Nat} (h : LoneJob s t.val en.toNat j)
include h

theorem answers_cowEnds (hk : j.kind = .cow) (hfar : j.far = none) (hdst : j.dst = some p) (hleft : j.left = 0)
    (hne : p ≠ j.src) (hstays : (getPool s t.val j.src).pstate ≠ 2 ∨ (getPool s t.val j.src).forward = false) :
    Answers (.copyOnWriteComplete t en) s (fun s' => EntryOver s s' t.val en.toNat { getEntry s t.val en.toNat with
        block := p, dirty := true, tile := 0, busy := false, state := if (getEntry s t.val en.toNat).state = 4 then 4 else 1 } ∧
      (getPool s' t.val p).refs = 1 ∧ (getPool s' t.val j.src).refs = (getPool s t.val j.src).refs - 1 ∧
      getObj s' t.val Obj.cowBlocks = (getObj s t.val Obj.cowBlocks + 1) % 2 ^ 64 ∧
      getObj s' t.val Obj.cowInBankRows = (getObj s t.val Obj.cowInBankRows + j.rows) % 2 ^ 64) := by
  refine answers_over (exec_copyOnWriteComplete t en s) h (over_cowEnded (p := p) h.atFresh)
    (cowComplete_cow h.atFresh hk hfar hdst hleft hne hstays) fun z hz hover => ?_
  obtain ⟨hnew, hold⟩ := cowEnded_pool (s := fresh s) (t := t.val) (e := en.toNat) hne
  obtain ⟨hblocks, hrows⟩ := cowEnded_counts (s := fresh s) (t := t.val) (e := en.toNat) (p := p) (j := j)
  exact ⟨hover, (hz.refs _ _).trans hnew, (hz.refs _ _).trans hold,
    (hz.objs _ _ (by decide) (by decide) (by decide)).trans hblocks,
    (hz.objs _ _ (by decide) (by decide) (by decide)).trans hrows⟩

theorem answers_relocEnds (hk : j.kind = .reloc) (hdst : j.dst = some p) (hleft : j.left = 0) (hne : p ≠ j.src)
    (hrefs : 1 ≤ (getPool s t.val j.src).refs) :
    Answers (.copyOnWriteComplete t en) s (fun s' =>
      EntryOver s s' t.val en.toNat { getEntry s t.val en.toNat with busy := false } ∧
      getPool s' t.val j.src = { getPool s t.val j.src with refs := 0, forward := true, next := p } ∧
      getPool s' t.val p = { getPool s t.val p with refs := (getPool s t.val j.src).refs }) := by
  refine answers_over (exec_copyOnWriteComplete t en s) h (over_relocEnded (p := p) h.atFresh)
    (cowComplete_reloc h.atFresh hk hdst hleft) fun z hz hover => ?_
  obtain ⟨hsrc, hnew⟩ := relocEnded_pool (s := fresh s) (t := t.val) (e := en.toNat) hne hrefs
  have hsched : (relocEnded t.val en.toNat j p (fresh s)).sched = s.sched := relocEnded_sched (s := fresh s) hne hrefs
  have hpool := hz.pool (mapQuiet_congr hsched h.quiet)
  refine ⟨hover, ?_, ?_⟩
  · rw [getPool, hpool]
    exact hsrc
  · rw [getPool, hpool]
    exact hnew

theorem answers_fillEnds {st : BitVec 8} {data : List Byte} (hk : j.kind = .fill) (hdst : j.dst = some p)
    (hready : j.ready = true) (hleft : j.left = 0) :
    Answers (.fillComplete t en st data) s (fun s' => EntryOver s s' t.val en.toNat { getEntry s t.val en.toNat with
        state := 1, dirty := false, block := p, tile := 0, busy := false } ∧
      (getPool s' t.val p).refs = 1 ∧ getObj s' t.val Obj.fills = (getObj s t.val Obj.fills + 1) % 2 ^ 64) := by
  refine answers_over (exec_fillComplete t en st data s) h (over_fillEnded (p := p) h.atFresh)
    (fillComplete_ends h.atFresh _ _ hk hdst hready hleft) fun z hz hover => ?_
  obtain ⟨hrefs, hfills⟩ := fillEnded_facts (s := fresh s) (t := t.val) (e := en.toNat) (p := p)
  exact ⟨hover, (hz.refs _ _).trans hrefs, (hz.objs _ _ (by decide) (by decide) (by decide)).trans hfills⟩

/-- A fill is undone, with its entry and its block as before it, and the failure told. -/
theorem answers_fillUndone {c : Instr} {f : State → State} (code st : Nat) (hexec : exec c s = run f s)
    (hf : f (fresh s) = undoFill t.val en.toNat (some p) code (fresh s)) (hst : st < 256) : Answers c s (fun s' =>
      EntryOver s s' t.val en.toNat { getEntry s t.val en.toNat with busy := false } ∧ (getPool s' t.val p).refs = 0 ∧
      getObj s' t.val Obj.lastMapEvent = fld 56 8 2 + fld 40 16 en.toNat + s.time.timeBase % 2 ^ 40 ∧ st < 256) := by
  refine answers_over hexec h (over_fillUndone (p := p) h.atFresh code)
    (hf.trans (undoFill_lone h.atFresh code)) fun z hz hover => ⟨hover, ?_, ?_, hst⟩
  · exact (hz.refs _ _).trans (fillUndone_facts code)
  · exact (hz.objs _ _ (by decide) (by decide) (by decide)).trans (getObj_fillUndone h.atFresh code)

theorem answers_spillEnds {st : BitVec 8} (hk : j.kind = .spill) (hst : st.toNat = stOk) (hleft : j.left = 0)
    (hstays : mustMove s t.val { getEntry s t.val en.toNat with state := 1 } = false) :
    Answers (.spillComplete t en st) s (fun s' => EntryOver s s' t.val en.toNat { getEntry s t.val en.toNat with
        state := 3, dirty := false, block := 0, busy := false } ∧
      (getPool s' t.val (getEntry s t.val en.toNat).block).refs = (getPool s t.val (getEntry s t.val en.toNat).block).refs - 1 ∧
      getObj s' t.val Obj.spills = (getObj s t.val Obj.spills + 1) % 2 ^ 64) := by
  have hf := (spillComplete_ends h.atFresh.jobOf hk hst hleft).trans
    (congrArg (mapWake t.val) (finishSpill_lone h.atFresh hstays))
  refine answers_over (exec_spillComplete t en st s) h (over_spillEnded h.atFresh) hf fun z hz hover => ?_
  obtain ⟨hrefs, hspills⟩ := spillEnded_facts h.atFresh
  exact ⟨hover, (hz.refs _ _).trans hrefs, (hz.objs _ _ (by decide) (by decide) (by decide)).trans hspills⟩

/-- A spill is undone: the entry stays NEAR and dirty, and the failure is told. -/
theorem answers_spillUndone {c : Instr} {f : State → State} (code : Nat) (hexec : exec c s = run f s)
    (hf : f (fresh s) = undoSpill t.val en.toNat code (fresh s)) : Answers c s (fun s' =>
      EntryOver s s' t.val en.toNat { getEntry s t.val en.toNat with state := 1, dirty := true, busy := false } ∧
      getObj s' t.val Obj.lastMapEvent = fld 56 8 2 + fld 40 16 en.toNat + s.time.timeBase % 2 ^ 40 ∧
      s'.pool = s.pool) := by
  obtain ⟨hover, hpool, hsched, hevent⟩ := spillUndone_facts h.atFresh code
  refine answers_over hexec h hover (hf.trans (undoSpill_lone h.atFresh code)) fun z hz hend => ⟨hend, ?_, ?_⟩
  · exact (hz.objs _ _ (by decide) (by decide) (by decide)).trans hevent
  · exact (hz.pool (mapQuiet_congr (s := s) hsched h.quiet)).trans hpool

end

/-! ### Blocks that clear (R247) -/

section
variable {s : State} {t p : Nat}

theorem clearComplete_early (h : poolSize s t ≤ p ∨ pstateOf s t p ≠ 3 ∨ 1 < (getPool s t p).left) : clearComplete t p s = s := by
  unfold clearComplete
  dsimp only
  exact if_pos h

variable (hp : p < poolSize s t) (hstate : pstateOf s t p = 3)
include hp hstate

theorem clearComplete_halted (hleft : (getPool s t p).left = 0) (hhalt : mapHalted s t = true) : clearComplete t p s = s := by
  unfold clearComplete
  dsimp only
  rw [if_neg (by omega), if_pos hleft, if_pos hhalt]

/-- The clearing of a block begins. -/
theorem clearComplete_begins (hleft : (getPool s t p).left = 0) (hrun : mapHalted s t = false) : clearComplete t p s =
    feedMap t (queueFills t p (setPool t p { getPool s t p with pstate := 3, left := poolG s t + 1 } s)) := by
  unfold clearComplete
  dsimp only
  rw [if_neg (by omega), if_pos hleft, if_neg (by rw [hrun]; decide)]

theorem clearComplete_ends (hleft : (getPool s t p).left = 1) : clearComplete t p s =
    mapWakeFor t none (bump t Obj.freeBlocks 1 (bump t Obj.blocksCleared 1 (setPool t p { pstate := 0 } s))) := by
  unfold clearComplete
  dsimp only
  rw [if_neg (by omega), if_neg (by omega)]
  rfl

end

end Sys2Proof.Machine

/-! ## Proofs: model switches and the pool's configuration -/

namespace Sys2Proof.Machine

open Sys2Proof

/-! ### Steps over a list of numbers -/

/-- What every step keeps, the fold keeps. -/
theorem foldl_keeps {β : Type} {f : State → Nat → State} {part : State → β} {l : List Nat}
    (hf : ∀ x, ∀ i ∈ l, part (f x i) = part x) (s : State) : part (l.foldl f s) = part s := by
  induction l generalizing s with
  | nil => rfl
  | cons a l ih =>
    exact (ih (fun x i hi => hf x i (List.mem_cons_of_mem _ hi)) _).trans (hf s a List.mem_cons_self)

/-- What the step of one number brings about, the other steps keep. -/
theorem foldl_brings {f : State → Nat → State} {P Q : State → Prop} {l : List Nat} {m : Nat} (hm : m ∈ l)
    (hkeeps : ∀ x, ∀ i ∈ l, P x → P (f x i)) (hbrings : ∀ x, P x → Q (f x m))
    (hstays : ∀ x, ∀ i ∈ l, i ≠ m → Q x → Q (f x i)) {s : State} (hs : P s) : Q (l.foldl f s) := by
  have hafter : ∀ (r : List Nat) x, (∀ i ∈ r, i ∈ l) → Q x → P x → Q (r.foldl f x) := by
    intro r
    induction r with
    | nil => exact fun x _ hx _ => hx
    | cons a r ih =>
      intro x hr hx hp
      have ha := hr a List.mem_cons_self
      refine ih _ (fun i hi => hr i (List.mem_cons_of_mem _ hi)) ?_ (hkeeps x a ha hp)
      by_cases hne : a = m
      · rw [hne]
        exact hbrings x hp
      · exact hstays x a ha hne hx
  have hbefore : ∀ (r : List Nat) x, (∀ i ∈ r, i ∈ l) → m ∈ r → P x → Q (r.foldl f x) := by
    intro r
    induction r with
    | nil => exact fun x _ hm _ => nomatch hm
    | cons a r ih =>
      intro x hr hmem hp
      have ha := hr a List.mem_cons_self
      have hrest : ∀ i ∈ r, i ∈ l := fun i hi => hr i (List.mem_cons_of_mem _ hi)
      rcases List.mem_cons.mp hmem with rfl | hmem
      · exact hafter r _ hrest (hbrings x hp) (hkeeps x m ha hp)
      · exact ih _ hrest hmem (hkeeps x a ha hp)
  exact hbefore l s (fun _ hi => hi) hm hs

theorem mem_onesOf {w n i : Nat} : i ∈ onesOf w n ↔ i < w ∧ bit n i = true := by
  unfold onesOf
  rw [List.mem_filter, List.mem_range]

/-! ### Requests of pre-emption (R173) -/

theorem preemptMask_fields (t mask : Nat) (s : State) :
    preemptMask t mask s = { s with array := (preemptMask t mask s).array } := by
  have hrest : ∀ a, { preemptMask t mask s with array := a } = { s with array := a } := fun a =>
    foldl_keeps (f := fun s a => requestPreempt t a s) (part := fun x : State => { x with array := a }) (fun _ _ _ => rfl) s
  generalize preemptMask t mask s = y at hrest
  exact hrest y.array

theorem getArray_modArray_other {t a b : Nat} (f : ArrayS → ArrayS) (s : State) (h : b ≠ a) :
    getArray (modArray t a f s) t b = getArray s t b := fget_fupd_other _ _ _ _ fun he => h (Nat.add_left_cancel he)

theorem requestPreempt_other {t a b : Nat} (s : State) (h : b ≠ a) :
    getArray (requestPreempt t a s) t b = getArray s t b := getArray_modArray_other _ s h

/-- An array of which pre-emption is requested: a fenced one takes no request, and a second one changes nothing. -/
def requested (now : Nat) (x : ArrayS) : ArrayS :=
  if x.fenced = false ∧ x.preempt = none then { x with preempt := some now } else x

theorem requested_again (now : Nat) (x : ArrayS) : requested now (requested now x) = requested now x := by
  by_cases h : x.fenced = false ∧ x.preempt = none
  · have hx : requested now x = { x with preempt := some now } := if_pos h
    rw [hx]
    exact if_neg fun hr => nomatch hr.2
  · have hx : requested now x = x := if_neg h
    rw [hx, hx]

theorem getArray_requestPreempt (t a : Nat) (s : State) :
    getArray (requestPreempt t a s) t a = requested s.time.elapsed (getArray s t a) := by
  unfold requestPreempt requested
  rw [getArray_modArray]
  cases hf : (getArray s t a).fenced <;> cases hp : (getArray s t a).preempt <;> simp

/-- Requests are raised for the arrays of a mask, and for no other. -/
theorem getArray_preemptMask {t a : Nat} (mask : Nat) (s : State) (ha : a < 4) : getArray (preemptMask t mask s) t a =
    if bit mask a then requested s.time.elapsed (getArray s t a) else getArray s t a := by
  unfold preemptMask
  split
  · next hbit =>
    refine foldl_brings (f := fun s a => requestPreempt t a s)
      (P := fun x => x.time = s.time ∧ (getArray x t a = getArray s t a ∨ getArray x t a = requested s.time.elapsed (getArray s t a)))
      (Q := fun x => getArray x t a = requested s.time.elapsed (getArray s t a)) (mem_onesOf.mpr ⟨ha, hbit⟩)
      (fun x i hi hx => ?_) (fun x hx => ?_) (fun x i hi hne hx => ?_) ⟨rfl, .inl rfl⟩
    · obtain ⟨htime, hx⟩ := hx
      refine ⟨htime, ?_⟩
      by_cases hne : i = a
      · subst hne
        right
        rw [getArray_requestPreempt, htime]
        rcases hx with hx | hx
        · rw [hx]
        · rw [hx, requested_again]
      · rw [requestPreempt_other x (Ne.symm hne)]
        exact hx
    · obtain ⟨htime, hx⟩ := hx
      rw [getArray_requestPreempt, htime]
      rcases hx with hx | hx
      · rw [hx]
      · rw [hx, requested_again]
    · rw [requestPreempt_other x (Ne.symm hne)]
      exact hx
  · next hbit =>
    refine foldl_keeps (f := fun s a => requestPreempt t a s) (part := fun x => getArray x t a) (fun x i hi => ?_) s
    obtain ⟨-, hone⟩ := mem_onesOf.mp hi
    exact requestPreempt_other x fun he => hbit (he ▸ hone)

/-! ### A model switch begins (R257) -/

section
variable {s : State} {t : TileN} {v : BitVec 512}

theorem answers_mapSwitch_malformed (h : switchOk v.toNat = false) : Answers (.mapSwitch t v) s (fun s' =>
    s'.out = { status := stBadFormat } ∧ getObj s' t.val Obj.mapSwitchResult = stBadFormat ∧ s'.map = s.map) := by
  have hstep : writeMapSwitch t.val v.toNat (fresh s) = answer stBadFormat (switchResult t.val stBadFormat (fresh s)) := by
    unfold writeMapSwitch
    rw [h]
    rfl
  refine answers_of_kept (exec_mapSwitch t v s) hstep rfl rfl ⟨rfl, ?_, rfl⟩
  rw [getObj_answer]
  exact getObj_setObj_fits (fresh s) (by decide)

variable (h : switchOk v.toNat = true)
include h

theorem refuses_mapSwitch_busy (hsw : (getMap s t.val).switching ≠ none) : Refuses (.mapSwitch t v) s stRetry := by
  refine refuses_run (exec_mapSwitch t v s) ?_
  have hsome : (getMap (fresh s) t.val).switching.isSome = true := Option.isSome_iff_ne_none.mpr hsw
  unfold writeMapSwitch
  rw [h, hsome]
  rfl

variable (hsw : (getMap s t.val).switching = none) (hrun : inHold s t.val = false)
include hsw hrun

theorem writeMapSwitch_begins : writeMapSwitch t.val v.toNat (fresh s) =
    switchBegin t.val v.toNat s.time.elapsed (fresh s) := by
  have hnone : (getMap (fresh s) t.val).switching.isSome = false := by
    rw [Option.isSome_eq_false_iff, Option.isNone_iff_eq_none]
    exact hsw
  have hhold : inHold (fresh s) t.val = false := hrun
  unfold writeMapSwitch
  rw [h, hnone, hhold]
  rfl

theorem answers_mapSwitch_taken (hhead : headersFree s t.val v.toNat = false) : Answers (.mapSwitch t v) s (fun s' =>
    s'.out = { status := stRetry } ∧ getObj s' t.val Obj.mapSwitchResult = stRetry) := by
  have hheads : headersFree (fresh s) t.val v.toNat = false := hhead
  have hstep : writeMapSwitch t.val v.toNat (fresh s) = answer stRetry (switchResult t.val stRetry
      (modMap t.val (fun m => { m with switching := none }) (fresh s))) := by
    rw [writeMapSwitch_begins h hsw hrun]
    unfold switchBegin
    rw [hheads]
    rfl
  refine answers_of_kept (exec_mapSwitch t v s) hstep rfl rfl ⟨rfl, ?_⟩
  rw [getObj_answer]
  exact getObj_setObj_fits _ (by decide)

theorem answers_mapSwitch_begins (hhead : headersFree s t.val v.toNat = true) : Answers (.mapSwitch t v) s (fun s' =>
    s'.out = { status := stOk } ∧ (getMap s' t.val).switching = some (v.toNat, s.time.elapsed, true) ∧
    (∀ a < 4, bit (msPreempt v.toNat) a = true → (getArray s t.val a).fenced = false →
      (getArray s' t.val a).preempt ≠ none) ∧ SameMemory s s') := by
  have hheads : headersFree (fresh s) t.val v.toNat = true := hhead
  obtain ⟨x, hx⟩ : ∃ x, x = modMap t.val (fun m => { m with switching := some (v.toNat, s.time.elapsed, true) }) (fresh s) :=
    ⟨_, rfl⟩
  have hstep : writeMapSwitch t.val v.toNat (fresh s) = answer stOk (preemptMask t.val (msPreempt v.toNat) x) := by
    rw [writeMapSwitch_begins h hsw hrun, hx]
    unfold switchBegin
    rw [hheads]
    rfl
  have hfields : x = { s with map := x.map, out := {} } := by
    rw [hx]
    rfl
  have hmap : (getMap x t.val).switching = some (v.toNat, s.time.elapsed, true) := by
    rw [hx, getMap_modMap]
  have hmask := preemptMask_fields t.val (msPreempt v.toNat) x
  have harrays := fun a ha => getArray_preemptMask (t := t.val) (a := a) (msPreempt v.toNat) x ha
  generalize preemptMask t.val (msPreempt v.toNat) x = y at hstep hmask harrays
  have hall : y = { s with map := x.map, array := y.array, out := {} } := by
    rw [hmask, hfields]
  have hout : y.out = {} := by rw [hall]
  rw [answer_stOk hout] at hstep
  refine answers_of_kept (exec_mapSwitch t v s) hstep (by rw [hall]) (by rw [hall]) ⟨hout, ?_, fun a ha hbit hfence => ?_, ?_⟩
  · rw [hmask]
    exact hmap
  · have hbefore : getArray x t.val a = getArray s t.val a := getArray_congr (by rw [hfields]) _ _
    rw [harrays a ha, if_pos hbit, hbefore]
    unfold requested
    split
    · exact Option.some_ne_none _
    · next hno => exact fun hp => hno ⟨hfence, hp⟩
  · refine sameMemory_of ?_ ?_ ?_ ?_ <;> rw [hall]

end

end Sys2Proof.Machine

/-! ## Proofs: a model switch takes effect, and the pool is configured -/

namespace Sys2Proof.Machine

open Sys2Proof

/-! ### The switch takes effect (R257) -/

/-- An engine's tail is advanced; one that has stopped for the switch leaves its stop. -/
def tailAdvanced (t v e : Nat) (s : State) : State :=
  let s' := setObj t (Obj.engineTail + e) (msTail v e) s
  if (getEngine s' t e).halt = 6 then leaveStop t e s' else s'

/-- The windows of the named channels are set, and what the pre-empted engines have fetched is dropped. -/
def windowsSet (t v : Nat) (s : State) : State :=
  (onesOf 12 (msChannels v)).foldl (fun s m => setObj t (Obj.mapWindow + m) (msWindow v) s) s

def switchDropped (t v : Nat) (s : State) : State := (onesOf 6 (msPreempt v)).foldl (fun s e => dropFetched t e s) s

def tailsAdvanced (t v : Nat) (s : State) : State := (onesOf 6 (msAdvance v)).foldl (fun s e => tailAdvanced t v e s) s

theorem switchNow_eq (t v start : Nat) (s : State) : switchNow t v start s =
    setObj t Obj.lastSwitchLatency (s.time.elapsed - start) (setObj t Obj.mapSwitchResult stOk
      (modMap t (fun m => { m with switching := none }) (tailsAdvanced t v (switchDropped t v (windowsSet t v s))))) := rfl

theorem engineParts_tailAdvanced (t v e : Nat) (s : State) : EngineParts s (tailAdvanced t v e s) := by
  unfold tailAdvanced
  dsimp only
  split
  · exact (engineParts_setObj _ _ _ s).trans (engineParts_leaveStop _ _ _)
  · exact engineParts_setObj _ _ _ s

theorem engineParts_foldl {f : State → Nat → State} (hf : ∀ x i, EngineParts x (f x i)) (l : List Nat) (s : State) :
    EngineParts s (l.foldl f s) := by
  induction l generalizing s with
  | nil => rfl
  | cons a l ih => exact (hf s a).trans (ih _)

theorem engineParts_switched (t v : Nat) (s : State) :
    EngineParts s (tailsAdvanced t v (switchDropped t v (windowsSet t v s))) := by
  refine EngineParts.trans (b := switchDropped t v (windowsSet t v s)) (EngineParts.trans (b := windowsSet t v s) ?_ ?_) ?_
  · exact engineParts_foldl (fun x m => engineParts_setObj _ _ _ x) _ s
  · exact engineParts_foldl (fun x e => engineParts_dropFetched _ _ x) _ _
  · exact engineParts_foldl (fun x e => engineParts_tailAdvanced _ _ _ x) _ _

/-- The objects of windows, heads, tails and channels are different ones. -/
theorem switchKeys : ∀ e < 6, (∀ m < 12, Obj.mapWindow + m ≠ Obj.engineTail + e ∧ Obj.mapWindow + m ≠ Obj.engineHead + e ∧
      Obj.mapWindow + m ≠ Obj.moverState + 2 * e ∧ Obj.mapWindow + m ≠ Obj.moverState + (2 * e + 1)) ∧
    (∀ a < 6, Obj.engineTail + a ≠ Obj.engineHead + e ∧ Obj.engineTail + a ≠ Obj.moverState + 2 * e ∧
      Obj.engineTail + a ≠ Obj.moverState + (2 * e + 1)) ∧
    Obj.engineTail + e < 2 ^ 24 ∧ Obj.engineHead + e < 2 ^ 24 ∧ Obj.moverState + 2 * e < 2 ^ 24 ∧
    Obj.moverState + (2 * e + 1) < 2 ^ 24 := by decide +kernel

theorem mapWindowKeys : ∀ m < 12, Obj.mapWindow + m < 2 ^ 24 ∧ objBits (Obj.mapWindow + m) = 64 ∧
    Obj.mapWindow + m ≠ Obj.lastSwitchLatency ∧ Obj.mapWindow + m ≠ Obj.mapSwitchResult := by decide +kernel

theorem tailKeys : ∀ e < 6, objBits (Obj.engineTail + e) = 32 ∧ Obj.engineTail + e ≠ Obj.lastSwitchLatency ∧
    Obj.engineTail + e ≠ Obj.mapSwitchResult := by decide +kernel

theorem getObj_leaveStop {t e k : Nat} (s : State) (he : e < 6) (hk : k < 2 ^ 24) (h0 : k ≠ Obj.moverState + 2 * e)
    (h1 : k ≠ Obj.moverState + (2 * e + 1)) : getObj (leaveStop t e s) t k = getObj s t k := by
  obtain ⟨-, -, -, -, hm0, hm1⟩ := switchKeys e he
  unfold leaveStop
  rw [getObj_setObj_obj _ h0 hk hm0, getObj_setObj_obj _ h1 hk hm1]
  rfl

theorem getObj_dropFetched {t e k : Nat} (s : State) (he : e < 6) (hk : k < 2 ^ 24) (h : k ≠ Obj.engineHead + e) :
    getObj (dropFetched t e s) t k = getObj s t k := by
  obtain ⟨-, -, -, hlt, -, -⟩ := switchKeys e he
  unfold dropFetched
  rw [getObj_setObj_obj _ h hk hlt]
  rfl

theorem getObj_tailAdvanced_other {t v e k : Nat} (s : State) (he : e < 6) (hk : k < 2 ^ 24) (h : k ≠ Obj.engineTail + e)
    (h0 : k ≠ Obj.moverState + 2 * e) (h1 : k ≠ Obj.moverState + (2 * e + 1)) :
    getObj (tailAdvanced t v e s) t k = getObj s t k := by
  obtain ⟨-, -, hlt, -, -, -⟩ := switchKeys e he
  unfold tailAdvanced
  dsimp only
  split
  · rw [getObj_leaveStop _ he hk h0 h1, getObj_setObj_obj _ h hk hlt]
  · rw [getObj_setObj_obj _ h hk hlt]

theorem getObj_tailAdvanced_same {t v e : Nat} (s : State) (he : e < 6) :
    getObj (tailAdvanced t v e s) t (Obj.engineTail + e) = msTail v e := by
  obtain ⟨-, htail, hlt, -, -, -⟩ := switchKeys e he
  obtain ⟨-, h0, h1⟩ := htail e he
  obtain ⟨hbits, -, -⟩ := tailKeys e he
  have hfit : msTail v e < 2 ^ objBits (Obj.engineTail + e) := by
    rw [hbits]
    exact (Nat.mod_lt _ (by decide)).trans (by decide)
  unfold tailAdvanced
  dsimp only
  split
  · rw [getObj_leaveStop _ he hlt h0 h1, getObj_setObj_fits _ hfit]
  · rw [getObj_setObj_fits _ hfit]

theorem getObj_windowsSet {t v m : Nat} (s : State) (hm : m < 12) : getObj (windowsSet t v s) t (Obj.mapWindow + m) =
    if bit (msChannels v) m then msWindow v else getObj s t (Obj.mapWindow + m) := by
  obtain ⟨hlt, hbits, -, -⟩ := mapWindowKeys m hm
  have hfit : msWindow v < 2 ^ objBits (Obj.mapWindow + m) := by
    rw [hbits]
    exact (Nat.mod_lt _ (by decide)).trans (by decide)
  have hother : ∀ x, ∀ i ∈ onesOf 12 (msChannels v), i ≠ m →
      getObj (setObj t (Obj.mapWindow + i) (msWindow v) x) t (Obj.mapWindow + m) = getObj x t (Obj.mapWindow + m) :=
    fun x i hi hne => getObj_setObj_obj x (by omega) hlt (mapWindowKeys i (mem_onesOf.mp hi).1).1
  unfold windowsSet
  split
  · next hbit =>
    exact foldl_brings (f := fun s m => setObj t (Obj.mapWindow + m) (msWindow v) s) (P := fun _ => True)
      (Q := fun x => getObj x t (Obj.mapWindow + m) = msWindow v) (mem_onesOf.mpr ⟨hm, hbit⟩) (fun _ _ _ _ => trivial)
      (fun x _ => getObj_setObj_fits x hfit) (fun x i hi hne hx => (hother x i hi hne).trans hx) trivial
  · next hbit =>
    exact foldl_keeps (f := fun s m => setObj t (Obj.mapWindow + m) (msWindow v) s)
      (part := fun x => getObj x t (Obj.mapWindow + m))
      (fun x i hi => hother x i hi fun he => hbit (he ▸ (mem_onesOf.mp hi).2)) s

/-- The windows as they are when the tails have been advanced. -/
theorem getObj_switched_window {t v m : Nat} (s : State) (hm : m < 12) :
    getObj (tailsAdvanced t v (switchDropped t v (windowsSet t v s))) t (Obj.mapWindow + m) =
      if bit (msChannels v) m then msWindow v else getObj s t (Obj.mapWindow + m) := by
  obtain ⟨hlt, -⟩ := mapWindowKeys m hm
  refine Eq.trans ?_ (getObj_windowsSet s hm)
  refine (foldl_keeps (f := fun s e => tailAdvanced t v e s) (part := fun x => getObj x t (Obj.mapWindow + m))
    (fun x e he => ?_) _).trans
    (foldl_keeps (f := fun s e => dropFetched t e s) (part := fun x => getObj x t (Obj.mapWindow + m)) (fun x e he => ?_) _)
  · have hlte := (mem_onesOf.mp he).1
    obtain ⟨htail, -, h0, h1⟩ := (switchKeys e hlte).1 m hm
    exact getObj_tailAdvanced_other x hlte hlt htail h0 h1
  · have hlte := (mem_onesOf.mp he).1
    exact getObj_dropFetched x hlte hlt ((switchKeys e hlte).1 m hm).2.1

theorem getObj_switched_tail {t v e : Nat} (s : State) (he : e < 6) (hbit : bit (msAdvance v) e = true) :
    getObj (tailsAdvanced t v s) t (Obj.engineTail + e) = msTail v e := by
  refine foldl_brings (f := fun s e => tailAdvanced t v e s) (P := fun _ => True)
    (Q := fun x => getObj x t (Obj.engineTail + e) = msTail v e) (mem_onesOf.mpr ⟨he, hbit⟩) (fun _ _ _ _ => trivial)
    (fun x _ => getObj_tailAdvanced_same x he) (fun x i hi hne hx => ?_) trivial
  have hlt := (mem_onesOf.mp hi).1
  obtain ⟨-, h0, h1⟩ := (switchKeys i hlt).2.1 e he
  exact (getObj_tailAdvanced_other x hlt (switchKeys e he).2.2.1 (by omega) h0 h1).trans hx

section
variable {s : State} {t : TileN} {w start : Nat} (hsw : (getMap s t.val).switching = some (w, start, true))
  (hrun : inHold s t.val = false)
include hsw hrun

theorem noEffect_mapSwitchApply (h : switchReady s t.val w = false) : NoEffect (.mapSwitchApply t) s := by
  refine noEffect_run (exec_mapSwitchApply t s) ?_
  have hsw' : (getMap (fresh s) t.val).switching = some (w, start, true) := hsw
  have hrun' : inHold (fresh s) t.val = false := hrun
  have hready : switchReady (fresh s) t.val w = false := h
  unfold switchApply
  rw [hsw', if_neg (by rw [hrun']; decide)]
  dsimp only
  rw [if_neg (by rw [hready]; decide)]

theorem answers_mapSwitchApply (h : switchReady s t.val w = true) : Answers (.mapSwitchApply t) s (fun s' =>
    (getMap s' t.val).switching = none ∧
    (∀ m < 12, getObj s' t.val (Obj.mapWindow + m) =
      if bit (msChannels w) m then msWindow w else getObj s t.val (Obj.mapWindow + m)) ∧
    (∀ e < 6, bit (msAdvance w) e = true → getObj s' t.val (Obj.engineTail + e) = msTail w e) ∧
    getObj s' t.val Obj.mapSwitchResult = stOk ∧ SameMemory s s') := by
  have hstep : switchApply t.val (fresh s) = switchNow t.val w start (fresh s) := by
    have hsw' : (getMap (fresh s) t.val).switching = some (w, start, true) := hsw
    have hrun' : inHold (fresh s) t.val = false := hrun
    have hready : switchReady (fresh s) t.val w = true := h
    unfold switchApply
    rw [hsw', if_neg (by rw [hrun']; decide)]
    dsimp only
    rw [if_pos hready]
  rw [switchNow_eq] at hstep
  have hparts := engineParts_switched t.val w (fresh s)
  have hwindows := fun m hm => getObj_switched_window (t := t.val) (v := w) (m := m) (fresh s) hm
  have htails := fun e he hbit => getObj_switched_tail (t := t.val) (v := w) (e := e)
    (switchDropped t.val w (windowsSet t.val w (fresh s))) he hbit
  generalize tailsAdvanced t.val w (switchDropped t.val w (windowsSet t.val w (fresh s))) = x at hstep hparts hwindows htails
  generalize (fresh s).time.elapsed - start = late at hstep
  obtain ⟨y, hy⟩ : ∃ y, y = modMap t.val (fun m => { m with switching := none }) x := ⟨_, rfl⟩
  have hobjs : ∀ k, k < 2 ^ 24 → k ≠ Obj.lastSwitchLatency → k ≠ Obj.mapSwitchResult →
      getObj (setObj t.val Obj.lastSwitchLatency late (setObj t.val Obj.mapSwitchResult stOk y)) t.val k = getObj x t.val k := by
    intro k hk h1 h2
    rw [getObj_setObj_obj _ h1 hk (by decide), getObj_setObj_obj _ h2 hk (by decide), hy]
    rfl
  have hresult : getObj (setObj t.val Obj.lastSwitchLatency late (setObj t.val Obj.mapSwitchResult stOk y)) t.val
      Obj.mapSwitchResult = stOk := by
    rw [getObj_setObj_obj _ (by decide) (by decide) (by decide)]
    exact getObj_setObj_fits y (by decide)
  have hmap : (getMap y t.val).switching = none := by rw [hy, getMap_modMap]
  have hfields : y = { s with engine := y.engine, mover := y.mover, dict := y.dict, map := y.map, out := {} } := by
    rw [hy, hparts]
    rfl
  rw [← hy] at hstep
  have hdict := dict_setObj t.val Obj.mapSwitchResult stOk y
  generalize setObj t.val Obj.mapSwitchResult stOk y = z at hstep hobjs hresult hdict
  have hdict' := dict_setObj t.val Obj.lastSwitchLatency late z
  generalize setObj t.val Obj.lastSwitchLatency late z = r at hstep hobjs hresult hdict'
  have hall : r = { s with engine := r.engine, mover := r.mover, dict := r.dict, map := y.map, out := {} } := by
    rw [hdict', hdict, hfields]
  refine answers_of_kept (exec_mapSwitchApply t s) hstep (by rw [hall]) (by rw [hall]) ⟨?_, fun m hm => ?_, fun e he hbit => ?_,
    hresult, ?_⟩
  · rw [getMap, hall]
    exact hmap
  · obtain ⟨hlt, -, h1, h2⟩ := mapWindowKeys m hm
    rw [hobjs _ hlt h1 h2, hwindows m hm]
    rfl
  · obtain ⟨-, h1, h2⟩ := tailKeys e he
    rw [hobjs _ (switchKeys e he).2.2.1 h1 h2, htails e he hbit]
  · refine sameMemory_of ?_ ?_ ?_ ?_ <;> rw [hall]

end

end Sys2Proof.Machine

/-! ## Proofs: events of the block map -/

namespace Sys2Proof.Machine

open Sys2Proof

/-! ### The pool's configuration (R235) -/

/-- The pool of a tile untouched but for the blocks of retired rows. -/
theorem refs_retired {t : Nat} (l : List Nat) (s : State) {p : Nat} (h : (getPool s t p).refs = 0) :
    (getPool (l.foldl (fun s p => setPool t p { pstate := 2 } s) s) t p).refs = 0 := by
  refine List.foldlRecOn (motive := fun x => (getPool x t p).refs = 0) l _ h fun x hx q _ => ?_
  by_cases hq : p = q
  · rw [hq, getPool_setPool_same]
  · rw [getPool_setPool_other _ _ hq]
    exact hx

theorem retired_fields {t : Nat} (l : List Nat) (s : State) : l.foldl (fun s p => setPool t p { pstate := 2 } s) s =
    { s with pool := (l.foldl (fun s p => setPool t p { pstate := 2 } s) s).pool } := by
  induction l generalizing s with
  | nil => rfl
  | cons p l ih =>
    rw [List.foldl_cons, ih]
    rfl

theorem poolSize_congr {s s' : State} {t : Nat} (hg : getObj s' t Obj.blockSize = getObj s t Obj.blockSize)
    (hb : getObj s' t Obj.poolBands = getObj s t Obj.poolBands) : poolSize s' t = poolSize s t := by
  unfold poolSize poolG
  rw [hg, hb]

/-- What the rebuilding of a pool leaves (R258). -/
theorem rebuildPool_spec (t : Nat) (s : State) : ∃ x n, rebuildPool t s =
      setObj t Obj.freeBlocks n (setObj t Obj.poolBlocks (poolSize s t) x) ∧
    x = { s with pool := x.pool, way := x.way, map := x.map } ∧ ∀ p < 65536, (getPool x t p).refs = 0 := by
  obtain ⟨y, hy⟩ : ∃ y, y = modMap t (fun m => { m with hand := 0, unlistedFree := !flag s t Obj.clearOnFree }) { s with
      pool := s.pool.filter (fun e => e.1 / 65536 ≠ t)
      way := s.way.filter (fun e => e.1 / 16384 ≠ t) } := ⟨_, rfl⟩
  have hfields : y = { s with pool := y.pool, way := y.way, map := y.map } := by
    rw [hy]
    rfl
  have hrefs : ∀ p < 65536, (getPool y t p).refs = 0 := by
    intro p hp
    have hpool : y.pool = s.pool.filter (fun e => e.1 / 65536 ≠ t) := by rw [hy]; rfl
    rw [getPool, hpool, fget_filter_out]
    intro v
    simp only [ne_eq, decide_not, Bool.not_eq_false', decide_eq_true_eq]
    omega
  unfold rebuildPool
  dsimp only
  rw [← hy]
  have hret := fun l => retired_fields (t := t) l y
  have hzero := fun l p hp => refs_retired (t := t) l y (p := p) (hrefs p hp)
  generalize (List.eraseDups _ : List Nat) = bad
  specialize hret bad
  specialize hzero bad
  generalize bad.foldl (fun s p => setPool t p { pstate := 2 } s) y = x at hret hzero
  have hall : x = { s with pool := x.pool, way := x.way, map := x.map } := by
    rw [hret, hfields]
  have hsize : poolSize x t = poolSize s t :=
    poolSize_congr (getObj_congr (by rw [hall]) _ _) (getObj_congr (by rw [hall]) _ _)
  rw [hsize]
  exact ⟨x, _, rfl, hall, hzero⟩

theorem forgetClears_fields (t : Nat) (s : State) : forgetClears t s = { s with
    queue := (forgetClears t s).queue, sched := (forgetClears t s).sched } := by
  unfold forgetClears
  extract_lets drop x
  obtain ⟨q, hq⟩ : ∃ q, x = { s with queue := q } := ⟨x.queue, forChans_queue (fun _ _ => rfl) s⟩
  clear_value x
  subst hq
  rfl

/-- The three objects of the pool's configuration. -/
theorem poolKeys : ∀ which < 3, poolObj which < 2 ^ 24 ∧ poolObj which ≠ Obj.freeBlocks ∧ poolObj which ≠ Obj.poolBlocks ∧
    (∀ v < 256, inRange (poolObj which) v = true → v < 2 ^ objBits (poolObj which)) ∧
    poolObj which ≠ Obj.deviceLogDropped := by decide +kernel

section
variable {t : TileN} {which : Fin 3} {v : BitVec 8} {s : State}

theorem refuses_poolConfig_range (h : inRange (poolObj which.val) v.toNat = false) :
    Refuses (.poolConfigWrite t which v) s stBadFormat := by
  refine refuses_run (exec_poolConfigWrite t which v s) ?_
  unfold writePoolConfig
  dsimp only
  rw [if_pos (by rw [h]; decide)]

variable (h : inRange (poolObj which.val) v.toNat = true)
include h

theorem refuses_poolConfig_busy (hbusy : s.entry.any (fun e => e.1 / 65536 = t.val ∧ e.2.state ≠ 0) = true) :
    Refuses (.poolConfigWrite t which v) s stRetry := by
  refine refuses_run (exec_poolConfigWrite t which v s) ?_
  have hbusy' : (fresh s).entry.any (fun e => e.1 / 65536 = t.val ∧ e.2.state ≠ 0) = true := hbusy
  unfold writePoolConfig
  dsimp only
  rw [if_neg (by rw [h]; decide), if_pos hbusy']

variable (hfree : s.entry.any (fun e => e.1 / 65536 = t.val ∧ e.2.state ≠ 0) = false)
include hfree

/-- The value as it stands in the objects, before it is judged by the bands. -/
theorem writePoolConfig_judged : writePoolConfig t.val which.val v.toNat (fresh s) =
    if 16 < getObj (setObj t.val (poolObj which.val) v.toNat s) t.val Obj.poolFirstBand +
      getObj (setObj t.val (poolObj which.val) v.toNat s) t.val Obj.poolBands then answer stBadFormat (fresh s)
    else rebuildPool t.val (forgetClears t.val (storeRws t.val (poolObj which.val) v.toNat (fresh s))) := by
  have hfree' : (fresh s).entry.any (fun e => e.1 / 65536 = t.val ∧ e.2.state ≠ 0) = false := hfree
  have hobj : ∀ k, getObj (setObj t.val (poolObj which.val) v.toNat (fresh s)) t.val k =
      getObj (setObj t.val (poolObj which.val) v.toNat s) t.val k := fun _ => rfl
  unfold writePoolConfig
  dsimp only
  rw [if_neg (by rw [h]; decide), if_neg (by rw [hfree']; decide), hobj, hobj]

theorem refuses_poolConfig_bands (hover : 16 < getObj (setObj t.val (poolObj which.val) v.toNat s) t.val Obj.poolFirstBand +
    getObj (setObj t.val (poolObj which.val) v.toNat s) t.val Obj.poolBands) :
    Refuses (.poolConfigWrite t which v) s stBadFormat :=
  refuses_run (exec_poolConfigWrite t which v s) ((writePoolConfig_judged h hfree).trans (if_pos hover))

theorem answers_poolConfig (hfits : getObj (setObj t.val (poolObj which.val) v.toNat s) t.val Obj.poolFirstBand +
    getObj (setObj t.val (poolObj which.val) v.toNat s) t.val Obj.poolBands ≤ 16) :
    Answers (.poolConfigWrite t which v) s (fun s' => s'.out.status = stOk ∧ getObj s' t.val (poolObj which.val) = v.toNat ∧
      getObj s' t.val Obj.poolBlocks = poolSize s' t.val % 2 ^ 32 ∧
      (∀ p < poolSize s' t.val, (getPool s' t.val p).refs = 0) ∧ SameMemory s s') := by
  obtain ⟨hlt, hnfree, hnblocks, hfit, hdrop⟩ := poolKeys which.val which.isLt
  have hbits : objBits Obj.poolBlocks = 32 := by decide
  have hstep := (writePoolConfig_judged h hfree).trans (if_neg (Nat.not_lt.mpr hfits))
  obtain ⟨hrec, hobjs⟩ := recordObj_frame t.val (poolObj which.val) v.toNat
    (storeObj t.val (poolObj which.val) v.toNat (fresh s))
  have hvalue : getObj (recordObj t.val (poolObj which.val) v.toNat (storeObj t.val (poolObj which.val) v.toNat (fresh s)))
      t.val (poolObj which.val) = v.toNat :=
    (hobjs _ _ hlt fun he => hdrop (congrArg Prod.snd he)).trans
      (getObj_setObj_fits (fresh s) (hfit _ v.isLt h))
  unfold storeRws at hstep
  generalize recordObj t.val (poolObj which.val) v.toNat (storeObj t.val (poolObj which.val) v.toNat (fresh s)) = x
    at hstep hrec hvalue
  have hstored : x = { s with dict := x.dict, copy := { s.copy with queue := x.copy.queue }
                              count := { s.count with intake := x.count.intake }, out := { status := stOk } } := by
    rw [hrec]
    rfl
  have hforget := forgetClears_fields t.val x
  generalize forgetClears t.val x = y at hstep hforget
  obtain ⟨z, n, hrebuilt, hfields, hrefs⟩ := rebuildPool_spec t.val y
  rw [hrebuilt] at hstep
  have hzobj : ∀ k, getObj z t.val k = getObj x t.val k := fun k => getObj_congr (by rw [hfields, hforget]) _ _
  have hsize : poolSize z t.val = poolSize y t.val := poolSize_congr (getObj_congr (by rw [hfields]) _ _)
    (getObj_congr (by rw [hfields]) _ _)
  have hkept : ∀ k, k < 2 ^ 24 → k ≠ Obj.freeBlocks → k ≠ Obj.poolBlocks →
      getObj (setObj t.val Obj.freeBlocks n (setObj t.val Obj.poolBlocks (poolSize y t.val) z)) t.val k = getObj z t.val k := by
    intro k hk h1 h2
    rw [getObj_setObj_obj _ h1 hk (by decide), getObj_setObj_obj _ h2 hk (by decide)]
  have hblocks : getObj (setObj t.val Obj.freeBlocks n (setObj t.val Obj.poolBlocks (poolSize y t.val) z)) t.val
      Obj.poolBlocks = poolSize y t.val % 2 ^ 32 := by
    rw [getObj_setObj_obj _ (by decide) (by decide) (by decide), getObj_setObj_same, hbits]
  have hrsize : poolSize (setObj t.val Obj.freeBlocks n (setObj t.val Obj.poolBlocks (poolSize y t.val) z)) t.val =
      poolSize y t.val :=
    (poolSize_congr (hkept _ (by decide) (by decide) (by decide)) (hkept _ (by decide) (by decide) (by decide))).trans hsize
  have hdict := dict_setObj t.val Obj.poolBlocks (poolSize y t.val) z
  generalize setObj t.val Obj.poolBlocks (poolSize y t.val) z = q at hstep hkept hblocks hrsize hdict
  have hdict' := dict_setObj t.val Obj.freeBlocks n q
  generalize setObj t.val Obj.freeBlocks n q = r at hstep hkept hblocks hrsize hdict'
  have hall : r = { z with dict := r.dict } := by rw [hdict', hdict]
  have hkeep : z.pending = s.pending ∧ z.time = s.time ∧ z.out.status = stOk ∧ SameMemory s z := by
    rw [hfields, hforget, hstored]
    exact ⟨rfl, rfl, rfl, sameMemory_of rfl rfl rfl rfl⟩
  obtain ⟨hpend, htime, hout, hmem⟩ := hkeep
  refine answers_of_kept (exec_poolConfigWrite t which v s) hstep (by rw [hall]; exact hpend) (by rw [hall]; exact htime)
    ⟨by rw [hall]; exact hout, ?_, ?_, fun p hp => ?_, hmem.trans ?_⟩
  · rw [hkept _ hlt hnfree hnblocks, hzobj, hvalue]
  · rw [hblocks, hrsize]
  · rw [getPool, hall]
    have hmax : poolSize r t.val ≤ 65536 := Nat.min_le_left _ _
    exact hrefs p (by omega)
  · refine sameMemory_of ?_ ?_ ?_ ?_ <;> rw [hall]

end

/-! ### A block is cleared (R247) -/

/-- A cleared block is free. -/
def blockFreed (t p : Nat) (s : State) : State :=
  bump t Obj.freeBlocks 1 (bump t Obj.blocksCleared 1 (setPool t p { pstate := 0 } s))

theorem blockFreed_facts (t p : Nat) (s : State) :
    getObj (blockFreed t p s) t Obj.freeBlocks = (getObj s t Obj.freeBlocks + 1) % 2 ^ 32 ∧
    getObj (blockFreed t p s) t Obj.blocksCleared = (getObj s t Obj.blocksCleared + 1) % 2 ^ 64 := by
  have hbits : objBits Obj.freeBlocks = 32 := by decide
  unfold blockFreed
  constructor
  · refine (getObj_setObj_same _ _ _ _).trans ?_
    rw [hbits, getObj_bump_obj _ _ _ _ (by decide), getObj_setPool]
  · rw [getObj_bump_obj _ _ _ _ (by decide), getObj_bump_same, getObj_setPool]

theorem blockFreed_fields (t p : Nat) (s : State) : blockFreed t p s = { s with
    dict := (blockFreed t p s).dict, pool := fset {} s.pool (t * 65536 + p) { pstate := 0 } } := by
  have hone := fun (k : Nat) (x : State) => dict_setObj t k (getObj x t k + 1) x
  unfold blockFreed bump
  rw [hone, hone]
  rfl

theorem answers_blockCleared {t : TileN} {blk : BitVec 16} {s : State} (hp : blk.toNat < poolSize s t.val)
    (hstate : pstateOf s t.val blk.toNat = 3) (hleft : (getPool s t.val blk.toNat).left = 1) (hneed : Unneeded s t.val)
    (hquiet : mapQuiet s t.val) : Answers (.blockClearComplete t blk) s (fun s' =>
      getPool s' t.val blk.toNat = { pstate := 0 } ∧
      (∀ k, k ≠ t.val * 65536 + blk.toNat → fget ({} : PoolD) s'.pool k = fget {} s.pool k) ∧
      getObj s' t.val Obj.freeBlocks = (getObj s t.val Obj.freeBlocks + 1) % 2 ^ 32 ∧
      getObj s' t.val Obj.blocksCleared = (getObj s t.val Obj.blocksCleared + 1) % 2 ^ 64 ∧ SameMemory s s') := by
  have hstep : clearComplete t.val blk.toNat (fresh s) = mapWakeFor t.val none (blockFreed t.val blk.toNat (fresh s)) :=
    clearComplete_ends (s := fresh s) hp hstate hleft
  have hfields := blockFreed_fields t.val blk.toNat (fresh s)
  obtain ⟨hfree, hcleared⟩ := blockFreed_facts t.val blk.toNat (fresh s)
  generalize blockFreed t.val blk.toNat (fresh s) = y at hstep hfields hfree hcleared
  have hpool : y.pool = fset {} s.pool (t.val * 65536 + blk.toNat) { pstate := 0 } := by
    rw [hfields]
    rfl
  have hsched : y.sched = s.sched := by
    rw [hfields]
    rfl
  have hwoke : Woke t.val y (mapWakeFor t.val none y) := by
    refine woke_mapWakeFor (unneeded_congr ?_ hneed) (clearing_congr hsched (clearing_of_mapQuiet hquiet)) none
    rw [getMap, hfields]
    rfl
  have hkept : y.pending = s.pending ∧ y.time = s.time ∧ SameMemory s y := by
    rw [hfields]
    exact ⟨rfl, rfl, sameMemory_of rfl rfl rfl rfl⟩
  obtain ⟨hpend, htime, hmem⟩ := hkept
  obtain ⟨-, hwpend, hwtime⟩ := hwoke.kept
  have hsame := hwoke.pool (mapQuiet_congr hsched hquiet)
  refine answers_of_kept (exec_blockClearComplete t blk s) hstep (hwpend.trans hpend) (hwtime.trans htime)
    ⟨?_, fun k hk => ?_, ?_, ?_, hmem.trans hwoke.sameMemory⟩
  · rw [getPool, hsame, hpool, fget_fset_same]
  · rw [hsame, hpool, fget_fset_other _ _ _ _ hk]
  · rw [hwoke.objs _ _ (by decide) (by decide) (by decide), hfree]
    rfl
  · rw [hwoke.objs _ _ (by decide) (by decide) (by decide), hcleared]
    rfl

/-! ### All together -/

/-- Settles O40: each event's job is over, its entry and its blocks as the statement says, and the block map, with nothing
held or waiting, wakes for nothing; a model switch and a configuration of the pool are judged, and then take effect as a
whole. -/
theorem blockMapEvents : Obligations.BlockMapEvents := by
  unfold Obligations.BlockMapEvents
  refine ⟨fun t en st data s => ⟨fun hnone => ?_, fun j hj => ⟨fun hc => ?_, fun hc => ?_, fun hc => ?_, fun hc => ?_⟩,
      fun j hjobs hmine hheld hwait hqueue hrel hquiet => ?_⟩,
    fun t blk s => ⟨fun hc => ?_, fun hp hstate hleft => ⟨fun hhalt => ?_, fun hrun hquiet => ?_⟩,
      fun hp hstate hleft hjobs hheld hwait hqueue hquiet => ?_⟩,
    fun t v s => ⟨answers_mapSwitch_malformed, refuses_mapSwitch_busy,
      fun hok hsw hrun => ⟨answers_mapSwitch_taken hok hsw hrun, answers_mapSwitch_begins hok hsw hrun⟩,
      fun start hsw hrun => ⟨noEffect_mapSwitchApply hsw hrun, answers_mapSwitchApply hsw hrun⟩⟩,
    fun t which v s => ⟨refuses_poolConfig_range, refuses_poolConfig_busy, refuses_poolConfig_bands, answers_poolConfig⟩⟩
  · obtain ⟨hcow, hfill, hspill, hlate⟩ := jobEvents_none (s := fresh s) st.toNat (byteNats data) hnone
    exact ⟨noEffect_run (exec_copyOnWriteComplete t en s) hcow, noEffect_run (exec_fillComplete t en st data s) hfill,
      noEffect_run (exec_spillComplete t en st s) hspill, noEffect_run (exec_nextLevelTimeout t en s) hlate⟩
  · exact noEffect_run (exec_copyOnWriteComplete t en s) (cowComplete_early (s := fresh s) hj hc)
  · exact noEffect_run (exec_fillComplete t en st data s) (fillComplete_early (s := fresh s) hj _ _ hc)
  · exact noEffect_run (exec_spillComplete t en st s) (spillComplete_early (s := fresh s) hj hc)
  · exact noEffect_run (exec_nextLevelTimeout t en s) (nextLevelTimeout_early (s := fresh s) hj hc)
  · have h : LoneJob s t.val en.toNat j := ⟨hjobs, hmine, hheld, hwait, hqueue, hrel, hquiet⟩
    have hj : jobOf (fresh s) t.val en.toNat = some j := h.atFresh.jobOf
    refine ⟨fun p hk hfar hdst hleft hne hstays => answers_cowEnds h hk hfar hdst hleft hne hstays,
      fun p hk hdst hleft hne hrefs => answers_relocEnds h hk hdst hleft hne hrefs,
      fun p hk hdst => ⟨fun hready hleft => answers_fillEnds h hk hdst hready hleft, fun hready hst => ?_,
        fun hready hst hlen => ?_, fun hready hlate => ?_⟩,
      fun hk => ⟨fun hst hleft hstays => answers_spillEnds h hk hst hleft hstays, fun hst => ?_, fun hlate hleft => ?_,
        fun hleft => ?_⟩⟩
    · exact answers_fillUndone h st.toNat st.toNat (exec_fillComplete t en st data s)
        (fillComplete_fails hj hk hdst hready hst) st.isLt
    · refine noEffect_run (exec_fillComplete t en st data s) (fillComplete_short hj hready hst ?_)
      unfold byteNats
      rw [List.length_map]
      exact hlen
    · exact answers_fillUndone h stRetry st.toNat (exec_nextLevelTimeout t en s)
        (nextLevelTimeout_fill hj hlate hk hdst hready) st.isLt
    · obtain ⟨s', hexec, hover, hevent, hpool⟩ := answers_spillUndone h st.toNat (exec_spillComplete t en st s)
        (spillComplete_fails hj hk hst)
      exact ⟨s', hexec, hover, ⟨hevent, st.isLt⟩, hpool⟩
    · obtain ⟨s', hexec, hover, -, hpool⟩ := answers_spillUndone h stRetry (exec_nextLevelTimeout t en s)
        (nextLevelTimeout_spill hj hlate hk hleft)
      exact ⟨s', hexec, hover, hpool⟩
    · exact noEffect_run (exec_nextLevelTimeout t en s) (nextLevelTimeout_sending hj hk hleft)
  · exact noEffect_run (exec_blockClearComplete t blk s) (clearComplete_early (s := fresh s) hc)
  · exact noEffect_run (exec_blockClearComplete t blk s) (clearComplete_halted (s := fresh s) hp hstate hleft hhalt)
  · have hstep := clearComplete_begins (s := fresh s) hp hstate hleft hrun
    have hclear : Clearing (fresh s) t.val := clearing_congr (s := s) rfl (clearing_of_mapQuiet hquiet)
    obtain ⟨x, hx⟩ : ∃ x, x = queueFills t.val blk.toNat (setPool t.val blk.toNat { getPool (fresh s) t.val blk.toNat with
        pstate := 3, left := poolG (fresh s) t.val + 1 } (fresh s)) := ⟨_, rfl⟩
    have hxclear : Clearing x t.val := hx ▸ clearing_queueFills (clearing_setPool hclear _ _ _) _
    have hxstate : (getPool x t.val blk.toNat).pstate = 3 := by
      rw [hx]
      exact congrArg PoolD.pstate (getPool_setPool_same _ _ _ (fresh s))
    have hxkept : x.pending = s.pending ∧ x.time = s.time ∧ x.entry = s.entry ∧ SameMemory s x := by
      rw [hx]
      exact ⟨rfl, rfl, rfl, sameMemory_of rfl rfl rfl rfl⟩
    obtain ⟨hpend, htime, hentry, hmem⟩ := hxkept
    rw [← hx] at hstep
    have hfed := fed_feedMap hxclear
    refine answers_of_kept (exec_blockClearComplete t blk s) hstep ?_ ?_ ⟨?_, hfed.entry.trans hentry, hmem.trans hfed.sameMemory⟩
    · rw [hfed.fields]
      exact hpend
    · rw [hfed.fields]
      exact htime
    · rw [hfed.pstate]
      exact hxstate
  · have hneed : Unneeded s t.val := ⟨hjobs, hheld, hwait, hqueue⟩
    exact answers_blockCleared hp hstate hleft hneed hquiet

end Sys2Proof.Machine

/-! ## Proofs: pre-emption is requested, and an array is saved -/

namespace Sys2Proof.Machine

open Sys2Proof

/-! ### Requests of pre-emption (R173, R228) -/

/-- The requests that a mask raises. -/
theorem getArray_preemptMask_eq {t a : Nat} (mask : Nat) (s : State) (ha : a < 4) : getArray (preemptMask t mask s) t a =
    if bit mask a ∧ (getArray s t a).fenced = false ∧ (getArray s t a).preempt = none then
      { getArray s t a with preempt := some s.time.elapsed } else getArray s t a := by
  rw [getArray_preemptMask mask s ha]
  unfold requested
  cases bit mask a
  · simp
  · simp

section
variable {t : TileN} {e : EngineN} {d : Desc} {rest : List Desc} {v : BitVec 8} {s : State}

theorem refuses_preemptRequest (h : 16 ≤ v.toNat) : Refuses (.preemptRequest t v) s stBadFormat := by
  refine refuses_run (exec_preemptRequest t v s) ?_
  rw [writePreempt, if_pos h]

theorem answers_preemptRequest (h : v.toNat < 16) : Answers (.preemptRequest t v) s (fun s' =>
    (∀ a < 4, getArray s' t.val a =
      if bit v.toNat a ∧ (getArray s t.val a).fenced = false ∧ (getArray s t.val a).preempt = none then
        { getArray s t.val a with preempt := some s.time.elapsed } else getArray s t.val a) ∧
    s' = { s with array := s'.array, out := { status := stOk } }) := by
  refine answers_run (exec_preemptRequest t v s) ?_
  rw [writePreempt, if_neg (by omega)]
  have hmask := preemptMask_fields t.val v.toNat (fresh s)
  have harrays := fun a ha => getArray_preemptMask_eq (t := t.val) (a := a) v.toNat (fresh s) ha
  generalize preemptMask t.val v.toNat (fresh s) = y at hmask harrays
  refine ⟨harrays, ?_⟩
  rw [hmask]
  rfl

/-- A PREEMPT of mode 1 that is issued. -/
theorem requestPoint_issued (hi : Issuable s t.val e.val d rest) (hd : d.started = false) (hop : dOp d.raw = 12)
    (hmode : peMode d.raw = true) : requestPoint t.val e.val (fresh s) = pushProg t.val e.val (ends stOk (begun s d))
      (preemptMask t.val (peMask d.raw) (taken s t.val e.val rest)) :=
  issueDesc_runs hi (by simp [hop, hmode]) hd rfl

theorem answers_requestPoint (hi : Issuable s t.val e.val d rest) (hd : d.started = false) (hop : dOp d.raw = 12)
    (hmode : peMode d.raw = true) : Answers (.preemptRequestPoint t e) s (fun s' =>
      (∀ a < 4, getArray s' t.val a =
        if bit (peMask d.raw) a ∧ (getArray s t.val a).fenced = false ∧ (getArray s t.val a).preempt = none then
          { getArray s t.val a with preempt := some s.time.elapsed } else getArray s t.val a) ∧
      Ran s s' t.val e.val rest (ends stOk (begun s d)) ∧ s' = { s with engine := s'.engine, array := s'.array, out := {} }) := by
  refine answers_run (exec_preemptRequestPoint t e s) ?_
  rw [requestPoint_issued hi hd hop hmode]
  have hmask := preemptMask_fields t.val (peMask d.raw) (taken s t.val e.val rest)
  have harrays := fun a ha => getArray_preemptMask_eq (t := t.val) (a := a) (peMask d.raw) (taken s t.val e.val rest) ha
  generalize preemptMask t.val (peMask d.raw) (taken s t.val e.val rest) = y at hmask harrays
  refine ⟨harrays, (ran_pushProg (by rw [hmask])).sameTime, ?_⟩
  rw [hmask]
  rfl

/-! ### EngineYield (R228) -/

theorem refuses_engineYield (h : 1 < v.toNat) : Refuses (.engineYield t e v) s stBadFormat := by
  refine refuses_run (exec_engineYield t e v s) ?_
  rw [writeYield, if_pos h]

theorem noEffect_engineYield (h : v.toNat = 0) : NoEffect (.engineYield t e v) s := by
  refine noEffect_run (exec_engineYield t e v s) ?_
  rw [writeYield, h, if_neg (by decide), if_neg (by decide)]
  rfl

theorem exec_engineYield_one (h : v.toNat = 1) : exec (.engineYield t e v) s = .next { s with
    engine := fset {} s.engine (t.val * 6 + e.val) { getEngine s t.val e.val with yield := true }
    out := { status := stOk } } := by
  have hwrite : writeYield t.val e.val v.toNat (fresh s) =
      answer stOk (modEngine t.val e.val (fun g => { g with yield := true }) (fresh s)) := by
    rw [writeYield, h, if_neg (by decide), if_pos rfl]
  rw [exec_engineYield]
  change (.next (sameTime s (writeYield t.val e.val v.toNat (fresh s))) : Res) = _
  rw [hwrite]
  dsimp only [sameTime, answer, modEngine, fresh, fupd, getEngine]

end

/-! ### The save header (Table 6.11) -/

theorem bits_mod_of_le {x lo n w : Nat} (h : lo + n ≤ w) : bits (x % 2 ^ w) lo n = bits x lo n := by
  unfold bits
  obtain ⟨k, rfl⟩ := Nat.exists_eq_add_of_le h
  rw [Nat.add_assoc, Nat.pow_add, Nat.mod_mul_right_div_self, Nat.pow_add, Nat.mod_mul_right_mod]

section
variable (s : State) (wsrc sdesc total next a0 saved : Nat) (p : Plane) (r init book state : Nat)

/-- The fields of a header between its next row and its state. -/
def headerMiddle (timeBase : Nat) : Nat :=
  a0 % 2 ^ 9 * 2 ^ 327 + saved % 2 ^ 10 * 2 ^ 317 + p.k % 2 ^ 9 * 2 ^ 308 + p.n % 2 ^ 8 * 2 ^ 300 + p.wfmt % 2 ^ 4 * 2 ^ 296 +
    stFmt r % 2 ^ 4 * 2 ^ 292 + init % 2 ^ 2 * 2 ^ 290 + b2n (stFused r) % 2 ^ 1 * 2 ^ 289 + stScheme r % 2 ^ 2 * 2 ^ 287 +
    stRecipe r % 2 ^ 3 * 2 ^ 284 + book % 2 ^ 128 * 2 ^ 120 + timeBase % 2 ^ 64 * 2 ^ 56

theorem headerMiddle_lt (timeBase : Nat) : headerMiddle a0 saved p r init book timeBase < 2 ^ 336 := by
  unfold headerMiddle
  omega

/-- A header by the fields that a resume reads first: its addresses, its rows, its next row, what lies between, and its
state. -/
theorem headerBits_split : headerBits s wsrc sdesc total next a0 saved p r init book state =
    (wsrc % 2 ^ 40 * 2 ^ 40 + sdesc % 2 ^ 40) * 2 ^ 408 + total % 2 ^ 32 * 2 ^ 376 + next % 2 ^ 32 * 2 ^ 344 +
      headerMiddle a0 saved p r init book s.time.timeBase * 2 ^ 8 + state % 2 ^ 8 := by
  unfold headerBits fld headerMiddle
  omega

theorem bits_headerBits_next :
    bits (headerBits s wsrc sdesc total next a0 saved p r init book state) 344 32 = next % 2 ^ 32 := by
  have hmid := headerMiddle_lt a0 saved p r init book s.time.timeBase
  rw [headerBits_split, bits]
  omega

theorem bits_headerBits_total :
    bits (headerBits s wsrc sdesc total next a0 saved p r init book state) 376 32 = total % 2 ^ 32 := by
  have hmid := headerMiddle_lt a0 saved p r init book s.time.timeBase
  rw [headerBits_split, bits]
  omega

theorem headerBits_mod :
    headerBits s wsrc sdesc total next a0 saved p r init book state % 2 ^ 8 = state % 2 ^ 8 := by
  rw [headerBits_split]
  omega

end

end Sys2Proof.Machine

/-! ## Proofs: an array is saved, and its engine stops pre-empted -/

namespace Sys2Proof.Machine

open Sys2Proof

/-! ### Rows written to a save area (R173) -/

theorem slateNat_outside {s y : State} {t off n : Nat}
    (h : ∀ i < n, fget 0 y.slate (t * 2 ^ 23 + off + i) = fget 0 s.slate (t * 2 ^ 23 + off + i)) :
    slateNat y t off n = slateNat s t off n := by
  unfold slateNat
  rw [List.map_congr_left fun i hi => h i (List.mem_range.mp hi)]

/-- Only the bytes of a range of the Slate, and marks, have changed. -/
structure SlateOnly (t off n : Nat) (s y : State) : Prop where
  fields : y = { s with slate := y.slate, slatePois := y.slatePois }
  bytes : ∀ k, k < t * 2 ^ 23 + off ∨ t * 2 ^ 23 + off + n ≤ k → fget 0 y.slate k = fget 0 s.slate k

theorem SlateOnly.refl (t off n : Nat) (s : State) : SlateOnly t off n s s := ⟨rfl, fun _ _ => rfl⟩

theorem SlateOnly.trans {t off n : Nat} {a b c : State} (h : SlateOnly t off n a b) (h' : SlateOnly t off n b c) :
    SlateOnly t off n a c :=
  ⟨by rw [h'.fields, h.fields], fun k hk => (h'.bytes k hk).trans (h.bytes k hk)⟩

theorem SlateOnly.within {t off n off' n' : Nat} {s y : State} (h : SlateOnly t off n s y) (hlo : off' ≤ off)
    (hhi : off + n ≤ off' + n') : SlateOnly t off' n' s y :=
  ⟨h.fields, fun k hk => h.bytes k (by omega)⟩

theorem SlateOnly.sramErr {t off n : Nat} {s y : State} (h : SlateOnly t off n s y) : y.sramErr = s.sramErr := by
  rw [h.fields]

theorem SlateOnly.slateNat {t off n : Nat} {s y : State} (h : SlateOnly t off n s y) {lo k : Nat}
    (hout : lo + k ≤ off ∨ off + n ≤ lo) : slateNat y t lo k = slateNat s t lo k :=
  slateNat_outside fun i hi => h.bytes _ (by omega)

theorem slateOnly_slateWrite {s : State} (h : s.sramErr = []) (t off n data bad : Nat) :
    SlateOnly t off n s (slateWrite t off n data bad s) := by
  have hfields := slateWrite_fields h t off n data bad
  refine ⟨by rw [hfields], fun k hk => ?_⟩
  rw [hfields]
  exact fget_slateBytes_other data s hk

/-- One row more of a save. -/
def saveRow (t a base a0 i : Nat) (acc : Bool × State) : Bool × State :=
  (acc.1 || (readInk t a (a0 + i) acc.2).1.isSome,
    slateWrite t (base + 0x1000 + i * 512) 512 (packCodes 32 (inkRow (readInk t a (a0 + i) acc.2).2 t a (a0 + i)))
      (badRowBytes (inkBadWords acc.2 t a (a0 + i))) (readInk t a (a0 + i) acc.2).2)

theorem saveRows_succ (t a base a0 n : Nat) (s : State) :
    saveRows t a base a0 (n + 1) s = saveRow t a base a0 n (saveRows t a base a0 n s) := by
  unfold saveRows
  rw [List.range_succ, List.foldl_append]
  rfl

theorem saveRow_clean {s : State} (h : s.sramErr = []) (t a base a0 i : Nat) :
    saveRow t a base a0 i (false, s) = (false, slateWrite t (base + 0x1000 + i * 512) 512
      (packCodes 32 (inkRow s t a (a0 + i))) (badRowBytes (inkBadWords s t a (a0 + i))) s) := by
  unfold saveRow
  rw [readInk_clean h]
  rfl

/-- Where no word has changed, each row is written as the Inkwell holds it, and none is bad. -/
theorem saveRows_clean {s : State} (h : s.sramErr = []) (t a base a0 n : Nat) :
    (saveRows t a base a0 n s).1 = false ∧ SlateOnly t (base + 0x1000) (512 * n) s (saveRows t a base a0 n s).2 ∧
    ∀ i < n, slateNat (saveRows t a base a0 n s).2 t (base + 0x1000 + i * 512) 512 =
      packCodes 32 (inkRow s t a (a0 + i)) % 2 ^ 4096 := by
  induction n with
  | zero => exact ⟨rfl, .refl _ _ _ s, fun i hi => absurd hi (Nat.not_lt_zero i)⟩
  | succ n ih =>
    obtain ⟨hbad, hsame, hrows⟩ := ih
    rw [saveRows_succ]
    obtain ⟨y, hy⟩ : ∃ y, y = (saveRows t a base a0 n s).2 := ⟨_, rfl⟩
    rw [← hy] at hsame hrows
    have hacc : saveRows t a base a0 n s = (false, y) := by rw [hy, ← hbad]
    have hclean : y.sramErr = [] := hsame.sramErr.trans h
    have hwrite := slateOnly_slateWrite hclean t (base + 0x1000 + n * 512) 512 (packCodes 32 (inkRow y t a (a0 + n)))
      (badRowBytes (inkBadWords y t a (a0 + n)))
    rw [hacc, saveRow_clean hclean]
    refine ⟨rfl, (hsame.within (by omega) (by omega)).trans (hwrite.within (by omega) (by omega)), fun i hi => ?_⟩
    rcases Nat.lt_succ_iff_lt_or_eq.mp hi with hlt | rfl
    · exact (hwrite.slateNat (.inl (by omega))).trans (hrows i hlt)
    · have hink : y.inkwell = s.inkwell := by rw [hsame.fields]
      rw [← inkRow_congr hink]
      exact slateNat_slateWrite hclean _ _ _ _ _

/-! ### The save area of an array (R173) -/

/-- The header that a save leaves, and what of the array's group the area holds. -/
structure AreaSaved (t a base : Nat) (s y : State) : Prop where
  state : slateNat y t base 1 = 1
  rows : ∀ g, (getArray s t a).group = some g → g.fused = false → ∀ i < min 512 (groupRows g.recipe g.m),
    slateNat y t (base + 0x1000 + i * 512) 512 = packCodes 32 (inkRow s t a (g.a0 + i)) % 2 ^ 4096
  place : ∀ g st, (getArray s t a).group = some g → (getArray s t a).stream = some st →
    bits (slateNat y t base 64) 344 32 = st.next % 2 ^ 32 ∧ bits (slateNat y t base 64) 376 32 = g.m % 2 ^ 32
  bytes : ∀ k, k < t * 2 ^ 23 + base ∨ t * 2 ^ 23 + base + 0x41000 ≤ k → fget 0 y.slate k = fget 0 s.slate k
  fields : y = { s with slate := y.slate, slatePois := y.slatePois, array := y.array }

/-- The first byte of a range, by the range. -/
theorem slateNat_one (s : State) (t off n : Nat) : slateNat s t off 1 = slateNat s t off (n + 1) % 2 ^ 8 := by
  rw [slateNat_succ, slateNat_succ, slateNat_zero]
  omega

theorem slateNat_header {s : State} (h : s.sramErr = []) (t base x : Nat) :
    slateNat (slateWrite t base 64 x 0 s) t base 64 = x % 2 ^ 512 ∧
    slateNat (slateWrite t base 64 x 0 s) t base 1 = x % 2 ^ 8 := by
  have hwhole := slateNat_slateWrite h t base 64 x 0
  refine ⟨hwhole, ?_⟩
  rw [slateNat_one _ _ _ 63, hwhole]
  exact Nat.mod_mod_of_dvd x (pow_dvd_pow 2 (by decide))

/-- The row that a save names next is that of the STREAM in progress. -/
theorem streamOf_next {x : ArrayS} {st : StreamRun} (h : x.stream = some st) (g : Group) : (streamOf x g).2.2 = st.next := by
  rw [streamOf, h]

theorem AreaSaved.modArray {t a base : Nat} {s y : State} (h : AreaSaved t a base s y) (u i : Nat) (f : ArrayS → ArrayS) :
    AreaSaved t a base s (modArray u i f y) :=
  ⟨h.state, h.rows, h.place, h.bytes, by rw [h.fields]; rfl⟩

/-- A header written before any rows, or over the first bytes of an area that holds the rows. -/
theorem areaSaved_header {s y : State} (h : s.sramErr = []) {t a base x : Nat} (hsame : SlateOnly t (base + 0x1000) 0x40000 s y)
    (hstate : x % 2 ^ 8 = 1)
    (hrows : ∀ g, (getArray s t a).group = some g → g.fused = false → ∀ i < min 512 (groupRows g.recipe g.m),
      slateNat y t (base + 0x1000 + i * 512) 512 = packCodes 32 (inkRow s t a (g.a0 + i)) % 2 ^ 4096)
    (hplace : ∀ g st, (getArray s t a).group = some g → (getArray s t a).stream = some st →
      bits x 344 32 = st.next % 2 ^ 32 ∧ bits x 376 32 = g.m % 2 ^ 32) :
    AreaSaved t a base s (slateWrite t base 64 x 0 y) := by
  have hclean : y.sramErr = [] := hsame.sramErr.trans h
  have hwrite := slateOnly_slateWrite hclean t base 64 x 0
  have hall : SlateOnly t base 0x41000 s (slateWrite t base 64 x 0 y) :=
    (hsame.within (Nat.le_add_right _ _) (Nat.le_of_eq (Nat.add_assoc base 0x1000 0x40000))).trans
      (hwrite.within (Nat.le_refl _) (Nat.add_le_add_left (by decide) _))
  obtain ⟨hwhole, hbyte⟩ := slateNat_header hclean t base x
  refine ⟨hbyte.trans hstate, fun g hg hf i hi => ?_, fun g st hg hst => ?_, fun k hk => ?_, ?_⟩
  · rw [hwrite.slateNat (lo := base + 0x1000 + i * 512) (k := 512) (.inr (by omega))]
    exact hrows g hg hf i hi
  · rw [hwhole, bits_mod_of_le (by decide), bits_mod_of_le (by decide)]
    exact hplace g st hg hst
  · exact hall.bytes k hk
  · rw [hwrite.fields, hsame.fields]

theorem areaSaved_saveGroup {s : State} (h : s.sramErr = []) {t a : Nat} (base : Nat) {g : Group}
    (hg : (getArray s t a).group = some g) : AreaSaved t a base s (saveGroup t a base g s) := by
  obtain ⟨hbad, hsame, hrows⟩ :=
    saveRows_clean h t a base g.a0 (if g.fused then 0 else min 512 (groupRows g.recipe g.m))
  have hmax : (if g.fused then 0 else min 512 (groupRows g.recipe g.m)) ≤ 512 := by
    split
    · exact Nat.zero_le _
    · exact Nat.min_le_left _ _
  unfold saveGroup noteSource
  dsimp only
  rw [hbad]
  apply AreaSaved.modArray
  apply AreaSaved.modArray
  apply AreaSaved.modArray
  refine areaSaved_header h (hsame.within (Nat.le_refl _) (by omega)) (headerBits_mod _ _ _ _ _ _ _ _ _ _ _ _)
    (fun g' hg' hf => ?_) (fun g' st hg' hst => ?_)
  · cases hg.symm.trans hg'
    rw [hf, if_neg Bool.false_ne_true] at hrows ⊢
    exact hrows
  · cases hg.symm.trans hg'
    rw [bits_headerBits_next, bits_headerBits_total, streamOf_next hst]
    exact ⟨rfl, rfl⟩

theorem areaSaved_noGroup {s : State} (h : s.sramErr = []) {t a : Nat} (base : Nat) (hg : (getArray s t a).group = none) :
    AreaSaved t a base s (slateWrite t base 64 (headerBits s 0 0 0 0 0 0 {} 0 0 0 1) 0 s) := by
  refine areaSaved_header h (.refl _ _ _ s) (headerBits_mod _ _ _ _ _ _ _ _ _ _ _ _) (fun g hg' => ?_) (fun g st hg' => ?_)
  all_goals exact absurd (hg.symm.trans hg') nofun

end Sys2Proof.Machine

/-! ## Proofs: an engine stops once its array is saved -/

namespace Sys2Proof.Machine

open Sys2Proof

/-! ### What a save leaves (R173) -/

/-- The descriptor of a STREAM that a save ends. -/
def cutShort (x : ArrayS) (l : List Desc) : List Desc :=
  updFirst (fun d => x.stream.isSome ∧ dOp d.raw = 2 ∧ ¬ d.ended) (fun d =>
    { d with ended := true, status := stPreempted, count := match x.stream with | some st => st.next | none => 0 }) l

/-- An array without a group, planes or request. -/
def emptied (x : ArrayS) : ArrayS :=
  { x with group := none, stream := none, planeA := {}, planeB := {}, lastB := false, preempt := none, loads := []
           badLoad := false }

/-- The end of a save whose area is written: the STREAM ends, the array is empty, and the save is counted. -/
def savedAway (t a latency : Nat) (x : ArrayS) (y : State) : State :=
  setObj t (Obj.lastPreemptLatency + a) latency (bump t (Obj.preemptions + a) 1
    (modArray t a emptied (modEngine t a (fun g => { g with prog := cutShort x g.prog }) y)))

section
variable {t a latency : Nat} {x : ArrayS} {y : State}

theorem getArray_savedAway : getArray (savedAway t a latency x y) t a = emptied (getArray y t a) :=
  getArray_modArray t a _ _

theorem engine_savedAway :
    (savedAway t a latency x y).engine = (modEngine t a (fun g => { g with prog := cutShort x g.prog }) y).engine := rfl

theorem getEngine_savedAway : getEngine (savedAway t a latency x y) t a =
    { getEngine y t a with prog := cutShort x (getEngine y t a).prog } := by
  rw [getEngine_congr engine_savedAway]
  exact getEngine_modEngine t a _ y

theorem memories_savedAway : (savedAway t a latency x y).slate = y.slate ∧ (savedAway t a latency x y).inkwell = y.inkwell ∧
    (savedAway t a latency x y).dram = y.dram := ⟨rfl, rfl, rfl⟩

theorem preemption_keys {a : Nat} (ha : a < 4) : Obj.preemptions + a < 2 ^ 24 ∧
    stopKey (Obj.preemptions + a) = false ∧ sideKey (Obj.preemptions + a) = false ∧
    objBits (Obj.preemptions + a) = 32 ∧ Obj.lastPreemptLatency + a < 2 ^ 24 :=
  (by decide +kernel : ∀ a < 4, Obj.preemptions + a < 2 ^ 24 ∧
    stopKey (Obj.preemptions + a) = false ∧ sideKey (Obj.preemptions + a) = false ∧
    objBits (Obj.preemptions + a) = 32 ∧ Obj.lastPreemptLatency + a < 2 ^ 24) a ha

theorem getObj_preemptions_savedAway (ha : a < 4) : getObj (savedAway t a latency x y) t (Obj.preemptions + a) =
    (getObj y t (Obj.preemptions + a) + 1) % 2 ^ 32 := by
  obtain ⟨hk, -, -, hbits, hl⟩ := preemption_keys ha
  have hne : Obj.preemptions + a ≠ Obj.lastPreemptLatency + a := fun e => absurd (Nat.add_right_cancel e) (by decide)
  rw [savedAway, getObj_setObj_obj _ hne hk hl, bump, getObj_setObj_same, hbits]
  rfl

theorem saveArray_noGroup {s : State} (h : (getArray s t a).group = none) : ∃ latency, saveArray t a s =
    savedAway t a latency (getArray s t a) (slateWrite t (getObj s t (Obj.saveAreaBase + a)) 64
      (headerBits s 0 0 0 0 0 0 {} 0 0 0 1) 0 s) := by
  unfold saveArray
  dsimp only
  rw [h]
  exact ⟨_, rfl⟩

theorem saveArray_group {s : State} {g : Group} (h : (getArray s t a).group = some g) : ∃ latency, saveArray t a s =
    savedAway t a latency (getArray s t a) (saveGroup t a (getObj s t (Obj.saveAreaBase + a)) g s) := by
  unfold saveArray
  dsimp only
  rw [h]
  exact ⟨_, rfl⟩

end

/-- Without changed words, a save writes the array's area, and ends. -/
theorem saveArray_clean {s : State} (h : s.sramErr = []) (t a : Nat) : ∃ latency y,
    AreaSaved t a (getObj s t (Obj.saveAreaBase + a)) s y ∧ saveArray t a s = savedAway t a latency (getArray s t a) y := by
  cases hg : (getArray s t a).group with
  | none =>
    obtain ⟨latency, heq⟩ := saveArray_noGroup hg
    exact ⟨latency, _, areaSaved_noGroup h _ hg, heq⟩
  | some g =>
    obtain ⟨latency, heq⟩ := saveArray_group hg
    exact ⟨latency, _, areaSaved_saveGroup h _ hg, heq⟩

/-! ### PREEMPT_SAVE_DONE (R173) -/

/-- An engine stops, if it does, and nothing but engines and what reports a stop changes. -/
structure Halts (s y : State) : Prop extends Stops s y where
  same : y.array = s.array ∧ y.slate = s.slate ∧ y.inkwell = s.inkwell ∧ y.dram = s.dram

theorem Halts.refl (s : State) : Halts s s := ⟨.refl s, rfl, rfl, rfl, rfl⟩

theorem halts_haltEngine {e : Nat} (he : e < 6) (t st idx status : Nat) (s : State) :
    Halts s (haltEngine t e st idx status s) := by
  refine ⟨stops_haltEngine he t st idx status s, ?_⟩
  by_cases h : (getEngine s t e).halt ≠ 0 ∧ ¬ (st = 4 ∧ ((getEngine s t e).halt = 3 ∨ (getEngine s t e).halt = 6))
  · rw [haltEngine, if_pos h]
    exact ⟨rfl, rfl, rfl, rfl⟩
  · rw [(haltEngine_enters h idx status).fields]
    exact ⟨rfl, rfl, rfl, rfl⟩

theorem halts_settle {e : Nat} (he : e < 6) (t : Nat) (s : State) : Halts s (settle t e s) := by
  unfold settle
  dsimp only
  split
  · exact halts_haltEngine he _ _ _ _ s
  · exact .refl s

theorem halts_settleLater {e : Nat} (he : e < 6) (t st idx status : Nat) (s : State) :
    Halts s (settle t e (stopLater t e st idx status s)) := by
  have hsettle := halts_settle he t (stopLater t e st idx status s)
  exact ⟨(stops_stopLater t e st idx status s).trans hsettle.toStops, hsettle.same⟩

theorem otherSlate_of_bytes {s y : State} {t off n : Nat} (hoff : off + n ≤ slateSize)
    (h : ∀ k, k < t * 2 ^ 23 + off ∨ t * 2 ^ 23 + off + n ≤ k → fget 0 y.slate k = fget 0 s.slate k) :
    OtherSlate s y t (fun o => off ≤ o ∧ o < off + n) := by
  intro u o ho hout
  refine h _ ?_
  have hsize : slateSize = 2 ^ 23 := rfl
  rcases Nat.lt_trichotomy u t with hlt | rfl | hgt
  · have := Nat.mul_le_mul_right (2 ^ 23) (Nat.succ_le_of_lt hlt)
    omega
  · omega
  · have := Nat.mul_le_mul_right (2 ^ 23) (Nat.succ_le_of_lt hgt)
    omega

theorem preemptSaveDone_waits {s : State} {t a : Nat} (h : canSave s t a = false) : preemptSaveDone t a s = s := by
  unfold preemptSaveDone
  rw [h]
  exact if_pos Bool.false_ne_true

theorem preemptSaveDone_saves {s : State} {t a : Nat} (ha : a < 4) (h : canSave s t a = true) :
    Halts (saveArray t a s) (preemptSaveDone t a s) := by
  unfold preemptSaveDone
  rw [h, if_neg (not_not_intro rfl)]
  dsimp only
  split
  · exact .refl _
  · exact halts_settleLater (by omega) _ _ _ _ _

theorem answers_preemptSaveDone {t : TileN} {a : ArrayN} {s : State} (h : canSave s t.val a.val = true)
    (hclean : s.sramErr = []) {base : Nat} (hbase : base = getObj s t.val (Obj.saveAreaBase + a.val))
    (hfits : base + 0x41000 ≤ slateSize) {x : ArrayS} (hx : x = getArray s t.val a.val) :
    Answers (.preemptSaveDone t a) s (fun s' => slateNat s' t.val base 1 = 1 ∧
      (∀ g, x.group = some g → g.fused = false → ∀ i < min 512 (groupRows g.recipe g.m),
        slateNat s' t.val (base + 0x1000 + i * 512) 512 =
          packCodes 32 (inkRow s t.val a.val (g.a0 + i)) % 2 ^ 4096) ∧
      (∀ g st, x.group = some g → x.stream = some st →
        bits (slateNat s' t.val base 64) 344 32 = st.next % 2 ^ 32 ∧
        bits (slateNat s' t.val base 64) 376 32 = g.m % 2 ^ 32 ∧
        (getEngine s' t.val a.val).prog = updFirst (fun d => x.stream.isSome ∧ dOp d.raw = 2 ∧ ¬ d.ended)
          (fun d => { d with ended := true, status := stPreempted, count := st.next }) (getEngine s t.val a.val).prog) ∧
      (getArray s' t.val a.val).group = none ∧ (getArray s' t.val a.val).stream = none ∧
      (getArray s' t.val a.val).preempt = none ∧ (getArray s' t.val a.val).planeA = {} ∧
      (getArray s' t.val a.val).planeB = {} ∧
      getObj s' t.val (Obj.preemptions + a.val) = (getObj s t.val (Obj.preemptions + a.val) + 1) % 2 ^ 32 ∧
      s'.inkwell = s.inkwell ∧ s'.dram = s.dram ∧
      OtherSlate s s' t.val (fun o => base ≤ o ∧ o < base + 0x41000)) := by
  subst hx hbase
  refine answers_effect (exec_preemptSaveDone t a s) fun z hz => ?_
  obtain ⟨latency, y, harea, hsave⟩ := saveArray_clean (s := fresh s) hclean t.val a.val
  have hhalts : Halts (savedAway t.val a.val latency (getArray s t.val a.val) y) z := by
    have hsaved : saveArray t.val a.val (fresh s) = savedAway t.val a.val latency (getArray s t.val a.val) y := hsave
    rw [hz, ← hsaved]
    exact preemptSaveDone_saves a.isLt h
  obtain ⟨hkey, hstop, hside, -⟩ := preemption_keys a.isLt
  obtain ⟨harray, hslate, hink, hdram⟩ := hhalts.same
  have hprog : (getEngine (sameTime s z) t.val a.val).prog =
      cutShort (getArray s t.val a.val) (getEngine y t.val a.val).prog := by
    rw [getEngine_sameTime, hhalts.prog, getEngine_savedAway]
  have hempty : getArray (sameTime s z) t.val a.val = emptied (getArray y t.val a.val) := by
    rw [getArray_sameTime, getArray_congr harray, getArray_savedAway]
  have hnat : ∀ off n, slateNat (sameTime s z) t.val off n = slateNat y t.val off n :=
    fun off n => slateNat_congr (s := y) (s' := sameTime s z) hslate t.val off n
  have hcount : getObj (sameTime s z) t.val (Obj.preemptions + a.val) =
      (getObj y t.val (Obj.preemptions + a.val) + 1) % 2 ^ 32 :=
    (hhalts.objs _ _ hkey hstop hside).trans (getObj_preemptions_savedAway a.isLt)
  have hy := harea.fields
  have hengine : y.engine = s.engine := by rw [hy]; rfl
  have hdict : y.dict = s.dict := by rw [hy]; rfl
  refine ⟨(hnat _ _).trans harea.state, fun g hg hf i hi => (hnat _ _).trans (harea.rows g hg hf i hi),
    fun g st hg hst => ?_, ?_⟩
  · obtain ⟨hnext, htotal⟩ := harea.place g st hg hst
    refine ⟨(congrArg (bits · 344 32) (hnat _ _)).trans hnext, (congrArg (bits · 376 32) (hnat _ _)).trans htotal, ?_⟩
    rw [hprog, getEngine_congr hengine, cutShort, hst]
  · rw [hempty, hcount, getObj_congr hdict]
    refine ⟨rfl, rfl, rfl, rfl, rfl, rfl, ?_, ?_, ?_⟩
    · exact hink.trans (by rw [hy]; rfl)
    · exact hdram.trans (by rw [hy]; rfl)
    · refine otherSlate_of_bytes hfits fun k hk => ?_
      exact (congrArg (fget 0 · k) hslate).trans (harea.bytes k hk)

/-! ### A PREEMPT point of mode 0 (R228) -/

theorem rereads_inkReadWord (t w : Nat) (s : State) : Rereads s (inkReadWord t w s) := by
  have hread : Rereads s (sramRead t sramInkwell w false s) :=
    ⟨by rw [readWord_read t sramInkwell w false s], (calm_sramRead t sramInkwell w false s).objs⟩
  unfold inkReadWord
  dsimp only
  split
  · exact hread
  · exact hread.same rfl rfl

theorem engine_readInk (t a row : Nat) (s : State) : (readInk t a row s).2.engine = s.engine := by
  have hscrub : (inkScrub t a row s).engine = s.engine := by
    unfold inkScrub
    generalize inkChanged s t a row = l
    induction l generalizing s with
    | nil => rfl
    | cons w l ih => exact (ih _).trans (rereads_inkReadWord t w s).engine
  unfold readInk
  dsimp only
  split
  · exact hscrub
  · exact hscrub

theorem engine_slateWrite (t off n data bad : Nat) (s : State) : (slateWrite t off n data bad s).engine = s.engine := by
  rw [slateWrite, slateMark_fields, slateBytes_fields]
  exact (rereads_slateTouch t off n s).engine

theorem engine_saveRows (t a base a0 n : Nat) (s : State) : (saveRows t a base a0 n s).2.engine = s.engine := by
  induction n with
  | zero => rfl
  | succ n ih =>
    rw [saveRows_succ, saveRow]
    exact (engine_slateWrite _ _ _ _ _ _).trans ((engine_readInk _ _ _ _).trans ih)

theorem engine_modArray (t a : Nat) (f : ArrayS → ArrayS) (s : State) : (modArray t a f s).engine = s.engine := rfl

theorem engine_saveGroup (t a base : Nat) (g : Group) (s : State) : (saveGroup t a base g s).engine = s.engine := by
  unfold saveGroup noteSource
  dsimp only
  rw [engine_modArray, engine_modArray, engine_modArray, engine_slateWrite, engine_saveRows]

/-- Whatever its words hold, a save ends the STREAM and empties the array. -/
theorem saveArray_ends (t a : Nat) (s : State) : ∃ latency y, y.engine = s.engine ∧
    saveArray t a s = savedAway t a latency (getArray s t a) y := by
  cases hg : (getArray s t a).group with
  | none =>
    obtain ⟨latency, heq⟩ := saveArray_noGroup hg
    exact ⟨latency, _, engine_slateWrite _ _ _ _ _ _, heq⟩
  | some g =>
    obtain ⟨latency, heq⟩ := saveArray_group hg
    exact ⟨latency, _, engine_saveGroup _ _ _ _ _, heq⟩

/-- What a pending PREEMPT point does once its descriptor is taken. -/
def yielded (t e : Nat) (s : State) : State :=
  let s1 := modEngine t e (fun g => { g with yield := false }) s
  if e < 4 ∧ ((getArray s1 t e).group.isSome ∨ (getArray s1 t e).preempt.isSome) then saveArray t e s1 else s1

theorem getEngine_yielded (t e : Nat) (s : State) : ∃ l, getEngine (yielded t e s) t e =
    { getEngine s t e with yield := false, prog := l } := by
  unfold yielded
  dsimp only
  split
  · obtain ⟨latency, y, hy, hsave⟩ := saveArray_ends t e (modEngine t e (fun g => { g with yield := false }) s)
    rw [hsave, getEngine_savedAway, getEngine_congr hy, getEngine_modEngine]
    exact ⟨_, rfl⟩
  · exact ⟨(getEngine s t e).prog, getEngine_modEngine t e _ s⟩

theorem getArray_yielded {t e : Nat} (he : e < 4) (s : State) :
    (getArray (yielded t e s) t e).group = none ∧ (getArray (yielded t e s) t e).preempt = none := by
  unfold yielded
  dsimp only
  split
  · obtain ⟨latency, y, -, hsave⟩ := saveArray_ends t e (modEngine t e (fun g => { g with yield := false }) s)
    rw [hsave, getArray_savedAway]
    exact ⟨rfl, rfl⟩
  next h =>
    simp only [he, true_and, not_or, Bool.not_eq_true, Option.isSome_eq_false_iff, Option.isNone_iff_eq_none] at h
    exact h

section
variable {t : TileN} {e : EngineN} {d : Desc} {rest : List Desc} {s : State}

theorem yieldPending_taken (s : State) (t e : Nat) (rest : List Desc) :
    yieldPending (taken s t e rest) t e = yieldPending s t e := by
  unfold yieldPending
  rw [getEngine_taken, getArray_taken]

variable (hi : Issuable s t.val e.val d rest) (hd : d.started = false) (hop : dOp d.raw = 12) (hmode : peMode d.raw = false)
include hi hd hop hmode

theorem answers_yieldPoint_idle (h : yieldPending s t.val e.val = false) : Answers (.preemptYieldPoint t e) s (fun s' =>
    Ran s s' t.val e.val rest (ends stOk (begun s d)) ∧ s' = { s with engine := s'.engine, out := {} }) := by
  refine answers_run (exec_preemptYieldPoint t e s) ?_
  have hrun : yieldPoint t.val e.val (fresh s) =
      pushProg t.val e.val (ends stOk (begun s d)) (taken s t.val e.val rest) := by
    refine issueDesc_runs hi (by simp [hop, hmode]) hd ?_
    rw [yieldPending_taken, h]
    exact if_pos Bool.false_ne_true
  rw [hrun]
  exact ⟨(ran_pushProg rfl).sameTime, rfl⟩

theorem answers_yieldPoint_pending (h : yieldPending s t.val e.val = true) : Answers (.preemptYieldPoint t e) s (fun s' =>
    (getEngine s' t.val e.val).ready = rest ∧ (getEngine s' t.val e.val).yield = false ∧
    (∃ l, (getEngine s' t.val e.val).prog = l ++ [ends stPreempted (begun s d)]) ∧
    (e.val < 4 → (getArray s' t.val e.val).group = none ∧ (getArray s' t.val e.val).preempt = none)) := by
  refine answers_run (exec_preemptYieldPoint t e s) ?_
  have hrun : yieldPoint t.val e.val (fresh s) =
      pushProg t.val e.val (ends stPreempted (begun s d)) (yielded t.val e.val (taken s t.val e.val rest)) := by
    refine issueDesc_runs hi (by simp [hop, hmode]) hd ?_
    rw [yieldPending_taken, h, if_neg (not_not_intro rfl)]
    rfl
  obtain ⟨l, hengine⟩ := getEngine_yielded t.val e.val (taken s t.val e.val rest)
  rw [getEngine_taken] at hengine
  rw [hrun, getEngine_sameTime, getArray_sameTime, getEngine_pushProg, getArray_pushProg, hengine]
  exact ⟨rfl, rfl, ⟨l, rfl⟩, fun he => getArray_yielded he _⟩

end

/-- Settles O35: the requests of a mask, the PREEMPT points, and the save of an array. -/
theorem preemptionSaves : Obligations.PreemptionSaves := by
  unfold Obligations.PreemptionSaves
  refine ⟨fun t e d rest v s => ⟨refuses_preemptRequest, answers_preemptRequest, answers_requestPoint, refuses_engineYield,
    noEffect_engineYield, exec_engineYield_one, fun hi hd hop hmode =>
      ⟨answers_yieldPoint_idle hi hd hop hmode, answers_yieldPoint_pending hi hd hop hmode⟩⟩, fun t a s => ⟨fun h => ?_, ?_⟩⟩
  · exact noEffect_run (exec_preemptSaveDone t a s) (preemptSaveDone_waits h)
  · exact fun h hclean hbase => answers_preemptSaveDone h hclean rfl hbase rfl

end Sys2Proof.Machine

/-! ## Proofs: what an open request waits for -/

namespace Sys2Proof.Machine

open Sys2Proof

/-! ### Steps of the ingress that let every request wait as it waits (R69, R70) -/

/-- A request by its number and what it waits for. -/
def waitKey (r : Req) : Nat × Nat := (r.id, r.waiting)

/-- The open requests stay, and each waits for what it waited for. -/
def Stays (s s' : State) : Prop := ∀ t, (openReqs s' t).map waitKey = (openReqs s t).map waitKey

theorem Stays.refl (s : State) : Stays s s := fun _ => rfl

theorem Stays.trans {a b c : State} (h : Stays a b) (h' : Stays b c) : Stays a c := fun t => (h' t).trans (h t)

/-- Chaining from the last step inwards. -/
theorem Stays.after {a b c : State} (h' : Stays b c) (h : Stays a b) : Stays a c := h.trans h'

theorem stays_of {s s' : State} (h : s'.sched = s.sched) : Stays s s' := fun t => congrArg _ (openReqs_congr h t)

theorem stays_foldl {α : Type} {f : State → α → State} (hf : ∀ s a, Stays s (f s a)) (l : List α) (s : State) :
    Stays s (l.foldl f s) := by
  induction l generalizing s with
  | nil => exact .refl s
  | cons a l ih => exact (hf s a).trans (ih _)

theorem stays_modSched {t : Nat} {f : TileSched → TileSched} (hf : ∀ x, (f x).reqs.map waitKey = x.reqs.map waitKey)
    (s : State) : Stays s (modSched t f s) := by
  intro u
  unfold openReqs getSched modSched
  by_cases h : u = t
  · subst h
    rw [fget_fupd_same, hf]
  · rw [fget_fupd_other _ _ _ _ h]

theorem stays_newId (t : Nat) (s : State) : Stays s (newId t s).2 :=
  stays_modSched (f := fun x => { x with nextId := x.nextId + 1 }) (fun _ => rfl) s

theorem stays_modReq (t id : Nat) {f : Req → Req} (s : State)
    (hf : ∀ r, waitKey (f r) = waitKey r := by exact fun _ => rfl) : Stays s (modReq t id f s) := by
  refine stays_modSched (fun x => ?_) s
  rw [List.map_map]
  refine List.map_congr_left fun r _ => ?_
  change waitKey (if r.id = id then f r else r) = waitKey r
  split
  · exact hf r
  · rfl

theorem stays_modQueue (t c : Nat) (f : QueueS → QueueS) (s : State) : Stays s (modQueue t c f s) := stays_of rfl
theorem stays_setMerge (t i : Nat) (m : Merge) (s : State) : Stays s (setMerge t i m s) := stays_of rfl
theorem stays_bump (u k n : Nat) (s : State) : Stays s (bump u k n s) := stays_of rfl

theorem stays_completeAcc (t c : Nat) (a : Acc) (st data bad : Nat) (s : State) :
    Stays s (completeAcc t c a st data bad s) := by
  have hbatch : ∀ x, Stays x (batchEnds t c x) := fun x => stays_of (by rw [batchEnds_fields])
  have hjob : ∀ x, Stays x (jobStep t a x) := fun x => by
    unfold jobStep
    split <;> exact stays_of rfl
  have hreqs : ∀ x, Stays x (a.reqs.foldl (fun x id => modReq t id (reqTake a st data bad) x) x) := fun x =>
    stays_foldl (fun y id => stays_modReq t id y) _ x
  exact (stays_modQueue t c _ s).trans ((hreqs _).trans ((hbatch _).trans (hjob _)))

theorem stays_supersede (t c b row sector mask : Nat) (s : State) : Stays s (supersede t c b row sector mask s) := by
  unfold supersede
  dsimp only
  split
  · exact stays_modQueue _ _ _ s
  · exact (stays_bump _ _ _ _).after (stays_modQueue _ _ _ s)

theorem stays_supersedeBy (t c : Nat) (a : Acc) (s : State) : Stays s (supersedeBy t c a s) := by
  unfold supersedeBy
  dsimp only
  split
  · split
    · exact (stays_supersede _ _ _ _ _ _ _).after (stays_supersede _ _ _ _ _ _ s)
    · exact stays_supersede _ _ _ _ _ _ s
  · exact stays_supersede _ _ _ _ _ _ s
  · exact .refl s

theorem stays_enqueue (t c : Nat) (a : Acc) (s : State) : Stays s (enqueue t c a s) :=
  (stays_modQueue _ _ _ _).after ((stays_newId t _).after (stays_supersedeBy t c a s))

/-! ### The merge buffer (R90) -/

theorem stays_mergeSettle (t c i : Nat) (s : State) : Stays s (mergeSettle t c i s) := by
  unfold mergeSettle
  split
  · exact stays_setMerge _ _ _ s
  · exact .refl s

theorem stays_enterDirect (t c : Nat) (a : Acc) (s : State) : Stays s (enterDirect t c a s) := by
  unfold enterDirect takeEntry
  dsimp only
  split
  · split
    · exact (stays_modQueue _ _ _ _).after (stays_modQueue _ _ _ s)
    · exact stays_modQueue _ _ _ s
  · exact stays_modQueue _ _ _ s

theorem stays_flushOne (t c : Nat) (a : Acc) (s : State) : Stays s (flushOne t c a s) := by
  unfold flushOne
  split
  · exact stays_completeAcc _ _ _ _ _ _ s
  · exact (stays_enterDirect _ _ _ _).after ((stays_newId t _).after (stays_supersedeBy t c a s))

theorem stays_flushMerge (t i rule : Nat) (s : State) : Stays s (flushMerge t i rule s) := by
  have hcount : ∀ x, Stays x (countEv t 0x0015 rule 1 x) := fun x => stays_of (by rw [countEv_fields])
  unfold flushMerge
  dsimp only
  split
  · exact .refl s
  · exact (stays_mergeSettle _ _ _ _).after ((stays_foldl (fun x a => stays_flushOne _ _ a x) _ _).after
      ((hcount _).after ((stays_bump _ _ _ _).after ((stays_foldl (fun x id => stays_modReq t id x) _ _).after
        ((stays_setMerge _ _ _ _).after (stays_newId t s))))))

theorem stays_flushWhere (t rule : Nat) (p : Merge → Bool) (s : State) : Stays s (flushWhere t rule p s) :=
  stays_foldl (fun x (e : Nat × Merge) => stays_flushMerge t e.1 rule x) _ s

/-! ### Held words that are read (Table 10.4) -/

theorem sched_heldFound (t : Nat) (err : FMap Nat) (p : Nat) (s : State) : (heldFound t err p s).sched = s.sched := by
  induction err generalizing s with
  | nil => rfl
  | cons e err ih =>
    obtain ⟨i, m⟩ := e
    unfold heldFound
    dsimp only
    refine (ih _).trans ?_
    split
    · exact (readWord_corrected _ _ _ _ _).aside.sched
    · exact (books_uncorrectable _ _ _ _).aside.sched
    · rfl

/-- Requests with a word found uncorrectable take that status. -/
theorem stays_worsen (t st : Nat) (ids : List Nat) (s : State) : Stays s
    (ids.foldl (fun s id => modReq t id (fun r => { r with status := worse r.status st }) s) s) :=
  stays_foldl (fun x id => stays_modReq t id x) ids s

theorem stays_readHeld (t c : Nat) (a : Acc) (s : State) : Stays s (readHeld t c a s).2 := by
  have hfound : Stays s (heldFound t a.err a.pois s) := stays_of (sched_heldFound _ _ _ s)
  unfold readHeld
  split
  · exact .refl s
  · dsimp only
    split
    · exact (stays_modQueue _ _ _ _).after hfound
    · exact (stays_worsen _ _ _ _).after ((stays_modQueue _ _ _ _).after hfound)

theorem stays_readSources (t c : Nat) (a : Acc) (s : State) : Stays s (readSources t c a s) := by
  refine stays_foldl (fun x w => ?_) _ s
  split
  · exact stays_readHeld _ _ _ x
  · exact .refl x

theorem stays_readMerge (t k : Nat) (a : Acc) (m : Merge) (s : State) : Stays s (readMerge t k a m s).2 := by
  unfold readMerge
  split
  · exact .refl s
  · dsimp only
    split
    · exact stays_of (sched_heldFound _ _ _ s)
    · exact (stays_worsen _ _ _ _).after (stays_of (sched_heldFound _ _ _ s))

theorem stays_enterMerge (t : Nat) (r : Req) (a : Acc) (s : State) : Stays s (enterMerge t r a s) := by
  unfold enterMerge
  dsimp only
  split
  · split
    · exact (stays_flushMerge _ _ _ _).after ((stays_setMerge _ _ _ _).after ((stays_readMerge _ _ _ _ _).after
        ((stays_modReq _ _ _).after (stays_flushWhere _ _ _ s))))
    · exact (stays_setMerge _ _ _ _).after ((stays_readMerge _ _ _ _ _).after
        ((stays_modReq _ _ _).after (stays_flushWhere _ _ _ s)))
  · exact (stays_bump _ _ _ _).after ((stays_setMerge _ _ _ _).after
      ((stays_modReq _ _ _).after (stays_flushWhere _ _ _ s)))

/-! ### A request enters the queues, or waits (R70) -/

theorem stays_queueOne (t c : Nat) (r : Req) (a : Acc) (s : State) : Stays s (queueOne t c r a s) := by
  unfold queueOne
  split
  · exact stays_completeAcc _ _ _ _ _ _ s
  · split
    · exact stays_enterMerge _ _ _ s
    · split
      · exact (stays_completeAcc _ _ _ _ _ _ _).after ((stays_modReq _ _ _).after
          ((stays_bump _ _ _ _).after (stays_readSources _ _ _ s)))
      · exact stays_enqueue _ _ _ s

/-- The open requests of a number wait for one thing. -/
def WaitsFor (s : State) (t id w : Nat) : Prop := ∀ x ∈ openReqs s t, x.id = id → x.waiting = w

theorem Stays.waitsFor {s s' : State} {t id w : Nat} (h : Stays s s') (hw : WaitsFor s t id w) : WaitsFor s' t id w := by
  intro x hx hid
  have hmem : waitKey x ∈ (openReqs s t).map waitKey := h t ▸ List.mem_map_of_mem hx
  obtain ⟨y, hy, heq⟩ := List.mem_map.mp hmem
  obtain ⟨hyid, hywait⟩ := Prod.mk.inj heq
  exact hywait ▸ hw y hy (hyid.trans hid)

theorem waitsFor_modReq (t id : Nat) {w : Nat} {f : Req → Req} (s : State) (hf : ∀ r, (f r).waiting = w) :
    WaitsFor (modReq t id f s) t id w := by
  intro x hx hxid
  rw [openReqs_modReq] at hx
  obtain ⟨y, -, rfl⟩ := List.mem_map.mp hx
  by_cases hy : y.id = id
  · rw [if_pos hy]
    exact hf y
  · rw [if_neg hy] at hxid
    exact absurd hxid hy

theorem waitsFor_waitReq (t : Nat) (r : Req) (why : Nat) (met : List Nat) (s : State) :
    WaitsFor (waitReq t r why met s) t r.id why := by
  unfold waitReq
  dsimp only
  split
  · exact waitsFor_modReq _ _ _ fun _ => rfl
  · exact waitsFor_modReq _ _ s fun _ => rfl

/-- A request whose turn it is is queued, or waits for entries, or for merges ahead of it. -/
theorem queueReq_waitsFor (t : Nat) (r : Req) (s : State) :
    ∃ w, (w = 0 ∨ w = 1 ∨ w = 3) ∧ WaitsFor (queueReq t r s) t r.id w := by
  unfold queueReq
  dsimp only
  split
  · exact ⟨3, .inr (.inr rfl), waitsFor_waitReq _ _ _ _ _⟩
  · split
    · exact ⟨0, .inl rfl, (stays_foldl (fun x (e : Nat × Acc) => stays_queueOne _ e.1 _ e.2 x) _ _).waitsFor
        (waitsFor_modReq _ _ _ fun _ => rfl)⟩
    · exact ⟨1, .inr (.inl rfl), waitsFor_waitReq _ _ _ _ _⟩

/-! ### A read with room meets nothing that waits (R70) -/

theorem accesses_read {r : Req} (h : r.write = false) {e : Nat × Acc} (he : e ∈ accesses r) : e.2.kind = .read := by
  unfold accesses at he
  simp only [List.mem_flatten, List.mem_map] at he
  obtain ⟨l, ⟨f, -, rfl⟩, hmem⟩ := he
  obtain ⟨p, -, rfl⟩ := List.mem_map.mp hmem
  simp [mkAcc, h]

theorem not_mergeable_read {s : State} {t : Nat} {a : Acc} (h : a.kind = .read) : mergeable s t a = false := by
  unfold mergeable
  rw [h]
  exact Bool.and_false _

theorem mergeOf_none {s : State} (h : s.merge = []) (t : Nat) : mergeOf s t = [] := by
  unfold mergeOf
  rw [h]
  rfl

theorem mergeHazards_none {s : State} (h : s.merge = []) (t : Nat) (r : Req) (a : Acc) : mergeHazards t r a s = s := by
  unfold mergeHazards flushWhere
  rw [mergeOf_none h]
  rfl

theorem drainDeferred_none {s : State} {t c : Nat} (h : (getQueue s t c).deferred.filter (entryRoom s t c) = []) (fuel : Nat) :
    drainDeferred fuel t c s = s := by
  cases fuel with
  | zero => rfl
  | succ fuel =>
    unfold drainDeferred
    rw [h]
    rfl

theorem foldl_id {α : Type} {f : State → α → State} {l : List α} {s : State} (h : ∀ a ∈ l, f s a = s) : l.foldl f s = s := by
  induction l with
  | nil => rfl
  | cons a l ih =>
    rw [List.foldl_cons, h a List.mem_cons_self]
    exact ih fun b hb => h b (List.mem_cons_of_mem a hb)

theorem mergeRoom_reads {s : State} {t : Nat} {r : Req} {l : List (Nat × Acc)} (h : ∀ e ∈ l, e.2.kind = .read) (fuel : Nat) :
    mergeRoom t r l (fuel + 1) s = (true, s) := by
  have hnone : ∀ p : Nat × Acc → Bool, ∀ q : Nat × Acc → Bool,
      l.filter (fun e => p e && mergeable s t e.2 && q e) = [] := fun p q =>
    List.filter_eq_nil_iff.mpr fun e he => by simp [not_mergeable_read (h e he)]
  unfold mergeRoom
  dsimp only
  rw [hnone (fun e => decide (chState s t e.1 ≠ 4)) (fun e => !(mergeOf s t).any (fun m => mergeMine r e.2 m.2))]
  exact if_pos (Nat.zero_le _)

/-- The accesses of a request, each marked where its request met a merge entry. -/
def metAccesses (r : Req) : List (Nat × Acc) :=
  (accesses r).map (fun e => (e.1, { e.2 with noFwd := r.met.contains e.2.off }))

theorem metAccesses_read {r : Req} (h : r.write = false) : ∀ e ∈ metAccesses r, e.2.kind = .read := by
  intro e he
  obtain ⟨e0, he0, rfl⟩ := List.mem_map.mp he
  exact accesses_read (e := e0) h he0

/-- A read whose accesses all find entries, with nothing held back before it, is queued at once. -/
theorem queueReq_read {s : State} {t : Nat} {r : Req} (hread : r.write = false) (hmerge : s.merge = [])
    (hdef : ∀ c, (getQueue s t c).deferred = []) (hroom : roomForAll s t (metAccesses r) = true) :
    WaitsFor (queueReq t r s) t r.id 0 := by
  have hmet : ∀ p : Nat × Acc → Bool,
      r.met ++ ((accesses r).filter (fun e => p e && (mergeOf s t).any (fun m => mergeMeets r e.2 m.2))).map (fun e => e.2.off) =
        r.met := by
    intro p
    rw [mergeOf_none hmerge]
    simp
  have hs1 : (metAccesses r).foldl (fun s e => drainDeferred 64 t e.1
      (if mergeable s t e.2 then s else mergeHazards t r e.2 s)) s = s := by
    refine foldl_id fun e he => ?_
    rw [not_mergeable_read (metAccesses_read hread e he), if_neg Bool.false_ne_true, mergeHazards_none hmerge]
    exact drainDeferred_none (by rw [hdef]; rfl) 64
  have hbehind : mergeBehind s t r (metAccesses r) = false := by
    unfold mergeBehind
    rw [List.any_eq_false]
    intro e he
    simp [not_mergeable_read (metAccesses_read hread e he)]
  have hl : (accesses r).map (fun e => (e.1, { e.2 with noFwd := r.met.contains e.2.off })) = metAccesses r := rfl
  unfold queueReq
  dsimp only
  rw [hmet (fun e => e.2.kind == .read), hl, hs1, hbehind, if_neg Bool.false_ne_true,
    mergeRoom_reads (metAccesses_read hread) 32]
  dsimp only
  rw [hroom, Bool.and_true, if_pos rfl]
  exact (stays_foldl (fun x (e : Nat × Acc) => stays_queueOne _ e.1 _ e.2 x) _ _).waitsFor
    (waitsFor_modReq _ _ _ fun _ => rfl)

end Sys2Proof.Machine

/-! ## Proofs: waiting requests, barriers and deferred work go on -/

namespace Sys2Proof.Machine

open Sys2Proof

/-! ### Work that waits outside the queues (R429) -/

theorem minBy_mem {α : Type} {key : α → Nat} {l : List α} {a : α} (h : minBy key l = some a) : a ∈ l := by
  induction l generalizing a with
  | nil => simp [minBy] at h
  | cons x l ih =>
    unfold minBy at h
    cases hl : minBy key l with
    | none =>
      rw [hl] at h
      cases h
      exact List.mem_cons_self
    | some b =>
      rw [hl] at h
      dsimp only at h
      split at h
      · cases h
        exact List.mem_cons_of_mem _ (ih hl)
      · cases h
        exact List.mem_cons_self

theorem length_removeFirst {α : Type} {p : α → Bool} {l : List α} {a : α} (ha : a ∈ l) (hp : p a = true) :
    (removeFirst p l).length + 1 = l.length := by
  induction l with
  | nil => cases ha
  | cons x l ih =>
    unfold removeFirst
    by_cases hx : p x = true
    · rw [if_pos hx, List.length_cons]
    · rw [if_neg hx, List.length_cons, List.length_cons]
      rcases List.mem_cons.mp ha with rfl | hl
      · exact absurd hp hx
      · rw [ih hl]

theorem mem_of_mem_removeFirst {α : Type} {p : α → Bool} {l : List α} {a : α} (h : a ∈ removeFirst p l) : a ∈ l := by
  induction l with
  | nil => exact h
  | cons x l ih =>
    unfold removeFirst at h
    split at h
    · exact List.mem_cons_of_mem _ h
    · rcases List.mem_cons.mp h with rfl | hl
      · exact List.mem_cons_self
      · exact List.mem_cons_of_mem _ (ih hl)

/-- Waiting work of a channel has taken entries of its write queue: nothing else of the two lists changes, and no object. -/
structure Drained (t c : Nat) (s s' : State) : Prop where
  dict : s'.dict = s.dict
  lists : ∃ l, (getQueue s' t c).wq = (getQueue s t c).wq ++ l ∧ (∀ a ∈ l, a ∈ (getQueue s t c).deferred) ∧
    (getQueue s' t c).deferred.length + l.length = (getQueue s t c).deferred.length ∧
    ∀ a ∈ (getQueue s' t c).deferred, a ∈ (getQueue s t c).deferred

theorem Drained.refl (t c : Nat) (s : State) : Drained t c s s :=
  ⟨rfl, [], (List.append_nil _).symm, fun _ h => absurd h List.not_mem_nil, rfl, fun _ h => h⟩

theorem Drained.trans {t c : Nat} {x y z : State} (h : Drained t c x y) (h' : Drained t c y z) : Drained t c x z := by
  obtain ⟨l, hwq, hfrom, hlen, hsub⟩ := h.lists
  obtain ⟨l', hwq', hfrom', hlen', hsub'⟩ := h'.lists
  refine ⟨h'.dict.trans h.dict, l ++ l', ?_, fun a ha => ?_, ?_, fun a ha => hsub a (hsub' a ha)⟩
  · rw [hwq', hwq, List.append_assoc]
  · rcases List.mem_append.mp ha with hl | hl
    · exact hfrom a hl
    · exact hsub a (hfrom' a hl)
  · rw [List.length_append]
    omega

theorem Drained.mem {t c : Nat} {s s' : State} (h : Drained t c s s') {a : Acc} (ha : a ∈ (getQueue s t c).wq) :
    a ∈ (getQueue s' t c).wq := by
  obtain ⟨l, hwq, -⟩ := h.lists
  rw [hwq]
  exact List.mem_append_left l ha

theorem dict_takeEntry (t c : Nat) (a : Acc) (s : State) : (takeEntry t c a s).dict = s.dict := by
  unfold takeEntry
  dsimp only
  split <;> rfl

theorem lists_modQueue {f : QueueS → QueueS} (hf : ∀ q, (f q).wq = q.wq ∧ (f q).deferred = q.deferred) (t r c : Nat) (s : State) :
    (getQueue (modQueue t r f s) t c).wq = (getQueue s t c).wq ∧
    (getQueue (modQueue t r f s) t c).deferred = (getQueue s t c).deferred := by
  by_cases h : t * 48 + c = t * 48 + r
  · obtain rfl : c = r := Nat.add_left_cancel h
    rw [getQueue_modQueue]
    exact hf _
  · have hother : getQueue (modQueue t r f s) t c = getQueue s t c := fget_fupd_other _ _ _ _ h
    rw [hother]
    exact ⟨rfl, rfl⟩

/-- The entry that an access takes in the queue of its channel; a copy's read enters another list (R68). -/
theorem lists_takeEntry (t c : Nat) (a : Acc) (s : State) :
    (getQueue (takeEntry t c a s) t c).wq = (getQueue s t c).wq ++ [a] ∧
    (getQueue (takeEntry t c a s) t c).deferred = (getQueue s t c).deferred := by
  unfold takeEntry
  dsimp only
  split
  next r b _ =>
    obtain ⟨hwq, hdef⟩ := lists_modQueue (f := fun q => { q with rq := q.rq ++ [b] }) (fun _ => ⟨rfl, rfl⟩) t r c
      (modQueue t c (fun q => { q with wq := q.wq ++ [a] }) s)
    rw [hwq, hdef, getQueue_modQueue]
    exact ⟨rfl, rfl⟩
  · rw [getQueue_modQueue]
    exact ⟨rfl, rfl⟩

/-- The first step of deferred work: the access takes its entries, and the merge entry it came from is settled. -/
def drained (t c : Nat) (a : Acc) (s : State) : State :=
  let s1 := takeEntry t c a (modQueue t c (fun q => { q with deferred := removeFirst (fun x => x.id = a.id) q.deferred }) s)
  match a.slot with
  | some i => mergeSettle t c i s1
  | none => s1

theorem drained_keeps (t c : Nat) (a : Acc) (s : State) :
    (drained t c a s).dict = s.dict ∧ (drained t c a s).queue =
      (takeEntry t c a (modQueue t c (fun q => { q with deferred := removeFirst (fun x => x.id = a.id) q.deferred }) s)).queue := by
  have hsettle : ∀ i x, (mergeSettle t c i x).dict = x.dict ∧ (mergeSettle t c i x).queue = x.queue := by
    intro i x
    unfold mergeSettle
    split <;> exact ⟨rfl, rfl⟩
  unfold drained
  dsimp only
  split
  · exact ⟨(hsettle _ _).1.trans (dict_takeEntry _ _ _ _), (hsettle _ _).2⟩
  · exact ⟨dict_takeEntry _ _ _ _, rfl⟩

theorem wq_drained (t c : Nat) (a : Acc) (s : State) : (getQueue (drained t c a s) t c).wq = (getQueue s t c).wq ++ [a] := by
  obtain ⟨-, hqueue⟩ := drained_keeps t c a s
  rw [getQueue_congr hqueue, (lists_takeEntry _ _ _ _).1, getQueue_modQueue]

theorem drained_spec {t c : Nat} {a : Acc} {s : State} (ha : a ∈ (getQueue s t c).deferred) :
    Drained t c s (drained t c a s) := by
  obtain ⟨hdict, hqueue⟩ := drained_keeps t c a s
  have hdef : (getQueue (drained t c a s) t c).deferred =
      removeFirst (fun x => x.id = a.id) (getQueue s t c).deferred := by
    rw [getQueue_congr hqueue, (lists_takeEntry _ _ _ _).2, getQueue_modQueue]
  refine ⟨hdict, [a], wq_drained t c a s, fun b hb => ?_, ?_, fun b hb => ?_⟩
  · rw [List.mem_singleton.mp hb]
    exact ha
  · rw [hdef]
    exact length_removeFirst ha (decide_eq_true rfl)
  · rw [hdef] at hb
    exact mem_of_mem_removeFirst hb

/-- The oldest deferred access that can have its entries. -/
abbrev oldestFit (s : State) (t c : Nat) : Option Acc :=
  minBy (fun a => a.order) ((getQueue s t c).deferred.filter (entryRoom s t c))

theorem drainDeferred_stops {s : State} {t c : Nat} (h : oldestFit s t c = none) (fuel : Nat) :
    drainDeferred (fuel + 1) t c s = s := by
  unfold oldestFit at h
  unfold drainDeferred
  rw [h]

theorem drainDeferred_takes {s : State} {t c : Nat} {a : Acc} (h : oldestFit s t c = some a) (fuel : Nat) :
    drainDeferred (fuel + 1) t c s = drainDeferred fuel t c (drained t c a s) := by
  unfold oldestFit at h
  rw [drainDeferred, h]
  rfl

theorem drainDeferred_drained (fuel t c : Nat) (s : State) : Drained t c s (drainDeferred fuel t c s) := by
  induction fuel generalizing s with
  | zero => exact .refl t c s
  | succ fuel ih =>
    cases h : oldestFit s t c with
    | none =>
      rw [drainDeferred_stops h]
      exact .refl t c s
    | some a =>
      rw [drainDeferred_takes h]
      exact (drained_spec (List.mem_filter.mp (minBy_mem h)).1).trans (ih _)

theorem oldestFit_taken {s : State} {t c : Nat} {a : Acc} (h : oldestFit s t c = some a) (fuel : Nat) :
    a ∈ (getQueue (drainDeferred (fuel + 1) t c s) t c).wq := by
  rw [drainDeferred_takes h]
  refine (drainDeferred_drained fuel t c _).mem ?_
  rw [wq_drained]
  exact List.mem_append_right _ List.mem_cons_self

section
variable {t : TileN} {c : ChanN} {write : Bool} {s : State}

theorem noEffect_deferredWorkEntry_read (hw : write = false) (h : ∀ a ∈ (getQueue s t.val c.val).deferred, a.job ≠ .migrate) :
    NoEffect (.deferredWorkEntry t c write) s := by
  refine noEffect_run (exec_deferredWorkEntry t c write s) ?_
  have hnone : (getQueue (fresh s) t.val c.val).deferred.any (fun a => a.job == .migrate) = false :=
    List.any_eq_false.mpr fun a ha => by simpa using h a ha
  unfold deferredEntry
  rw [hnone, hw]
  exact if_neg (by decide)

theorem noEffect_deferredWorkEntry_full (h : (getQueue s t.val c.val).deferred.filter (entryRoom s t.val c.val) = []) :
    NoEffect (.deferredWorkEntry t c write) s := by
  refine noEffect_run (exec_deferredWorkEntry t c write s) ?_
  unfold deferredEntry
  split
  · exact drainDeferred_none (s := fresh s) h 64
  · rfl

theorem answers_deferredWorkEntry (h : write = true ∨ ∃ a ∈ (getQueue s t.val c.val).deferred, a.job = .migrate) :
    Answers (.deferredWorkEntry t c write) s (fun s' => SameMemory s s' ∧ s'.dict = s.dict ∧
      (∃ l, (getQueue s' t.val c.val).wq = (getQueue s t.val c.val).wq ++ l ∧
        (∀ a ∈ l, a ∈ (getQueue s t.val c.val).deferred) ∧
        (getQueue s' t.val c.val).deferred.length + l.length = (getQueue s t.val c.val).deferred.length) ∧
      (∀ a, minBy (fun a => a.order) ((getQueue s t.val c.val).deferred.filter (entryRoom s t.val c.val)) = some a →
        a ∈ (getQueue s' t.val c.val).wq)) := by
  refine answers_run (exec_deferredWorkEntry t c write s) ?_
  have hruns : deferredEntry t.val c.val write (fresh s) = drainDeferred 64 t.val c.val (fresh s) := by
    refine if_pos (h.imp id fun hm => ?_)
    obtain ⟨a, ha, hjob⟩ := hm
    exact List.any_eq_true.mpr ⟨a, ha, by simp [hjob]⟩
  rw [hruns]
  obtain ⟨hdict, l, hwq, hfrom, hlen, -⟩ := drainDeferred_drained 64 t.val c.val (fresh s)
  have hmem := (queued_drainDeferred 64 t.val c.val (fresh s)).memory
  exact ⟨hmem, hdict, ⟨l, hwq, hfrom, hlen⟩, fun a ha => oldestFit_taken (s := fresh s) ha 63⟩

end

/-! ### Barriers (R85) -/

section
variable {t : TileN} {q : BitVec 8} {s : State}

/-- The barrier of a requester that waits for its earlier requests. -/
abbrev waitingBarrier (s : State) (t q : Nat) : Option Req :=
  (openReqs s t).find? (fun r => r.requester = q ∧ r.waiting = 2)

theorem noEffect_barrierRelease_none (h : waitingBarrier s t.val q.toNat = none) : NoEffect (.barrierRelease t q) s := by
  refine noEffect_run (exec_barrierRelease t q s) ?_
  unfold barrierRelease
  rw [show (getSched (fresh s) t.val).reqs.find? _ = none from h]

variable {r : Req} (hr : waitingBarrier s t.val q.toNat = some r)
include hr

theorem barrierRelease_some : barrierRelease t.val q.toNat (fresh s) =
    if earlierOpen s t.val r then fresh s else goOn t.val r (fresh s) := by
  unfold barrierRelease
  rw [show (getSched (fresh s) t.val).reqs.find? _ = some r from hr]
  rfl

theorem noEffect_barrierRelease_waits (h : earlierOpen s t.val r = true) : NoEffect (.barrierRelease t q) s := by
  refine noEffect_run (exec_barrierRelease t q s) ?_
  rw [barrierRelease_some hr, if_pos h]

theorem answers_barrierRelease_near (h : earlierOpen s t.val r = false) (hnear : addrTile r.addr = t.val) :
    Answers (.barrierRelease t q) s (fun s' => SameMemory s s' ∧
      (openReqs s' t.val).map reqKey = (openReqs s t.val).map reqKey ∧
      ∀ x ∈ openReqs s' t.val, x.id = r.id → x.waiting = 0 ∨ x.waiting = 1 ∨ x.waiting = 3) := by
  refine answers_run (exec_barrierRelease t q s) ?_
  rw [barrierRelease_some hr, h, if_neg Bool.false_ne_true, goOn_near hnear]
  have hqueued := queued_queueReq t.val r (fresh s)
  obtain ⟨w, hw, hwaits⟩ := queueReq_waitsFor t.val r (fresh s)
  refine ⟨hqueued.memory, hqueued.keys t.val, fun x hx hid => ?_⟩
  rw [hwaits x hx hid]
  exact hw

theorem answers_barrierRelease_far (h : earlierOpen s t.val r = false) (hfar : addrTile r.addr ≠ t.val) :
    Answers (.barrierRelease t q) s (fun s' => SameMemory s s' ∧
      openReqs s' t.val = (openReqs s t.val).filter (fun x => x.id ≠ r.id) ∧
      ∃ x, s'.farReqs = s.farReqs ++ [x] ∧ x.src = t.val ∧ x.dst = addrTile r.addr ∧ x.tag = r.tag ∧
        x.addr = r.addr ∧ x.len = r.len ∧ x.write = r.write ∧ x.barrier = r.barrier) := by
  refine answers_run (exec_barrierRelease t q s) ?_
  rw [barrierRelease_some hr, h, if_neg Bool.false_ne_true, goOn_far hfar]
  obtain ⟨hingress, hsent, hsched⟩ := sendFar_spec t.val r (closeReq t.val r.id (fresh s))
  refine ⟨(ingress_modSched t.val _ (fresh s)).memory.trans hingress.memory, ?_, ?_⟩
  · exact (openReqs_congr hsched t.val).trans (openReqs_modSched _ _ _)
  · exact ⟨sentReq t.val r, hsent, rfl, rfl, rfl, rfl, rfl, rfl, rfl⟩

end

end Sys2Proof.Machine

/-! ## Proofs: requests and work of the block map that wait at the heads of their FIFOs -/

namespace Sys2Proof.Machine

open Sys2Proof

/-! ### The head of a requester's FIFO (R70) -/

section
variable {t : TileN} {q : BitVec 8} {passFifo : Bool} {s : State}

/-- The request that waits at the head of a FIFO. -/
abbrev waitingHead (s : State) (t q : Nat) (passFifo : Bool) : Option Req :=
  (openReqs s t).find? (fun r => r.requester = q ∧ reqFifo r = passFifo ∧ (r.waiting = 1 ∨ r.waiting = 3))

variable (hq : q.toNat ≠ 0x60)
include hq

theorem stallRelease_some {r : Req} (h : waitingHead s t.val q.toNat passFifo = some r) :
    stallRelease t.val q.toNat passFifo (fresh s) = queueReq t.val r (fresh s) := by
  unfold stallRelease
  rw [if_neg hq, show (getSched (fresh s) t.val).reqs.find? _ = some r from h]

theorem noEffect_stallRelease (h : waitingHead s t.val q.toNat passFifo = none) :
    NoEffect (.ingressStallRelease t q passFifo) s := by
  refine noEffect_run (exec_ingressStallRelease t q passFifo s) ?_
  unfold stallRelease
  rw [if_neg hq, show (getSched (fresh s) t.val).reqs.find? _ = none from h]

theorem answers_stallRelease {r : Req} (h : waitingHead s t.val q.toNat passFifo = some r) :
    Answers (.ingressStallRelease t q passFifo) s (fun s' => SameMemory s s' ∧
      (openReqs s' t.val).map reqKey = (openReqs s t.val).map reqKey ∧
      (r.write = false → s.merge = [] → (∀ c, (getQueue s t.val c).deferred = []) →
        roomForAll s t.val ((accesses r).map (fun e => (e.1, { e.2 with noFwd := r.met.contains e.2.off }))) = true →
        ∀ x ∈ openReqs s' t.val, x.id = r.id → x.waiting = 0)) := by
  refine answers_run (exec_ingressStallRelease t q passFifo s) ?_
  rw [stallRelease_some hq h]
  have hqueued := queued_queueReq t.val r (fresh s)
  exact ⟨hqueued.memory, hqueued.keys t.val, fun hread hmerge hdef hroom =>
    queueReq_read (s := fresh s) hread hmerge hdef hroom⟩

end

/-! ### The FIFOs of the block map (R70) -/

/-- No request of the block map is open in the tile. -/
abbrev NoMapReqs (s : State) (t : Nat) : Prop := ∀ r ∈ openReqs s t, r.requester ≠ 0x60

theorem find_mapReq {s : State} {t : Nat} (h : NoMapReqs s t) (pass : Bool) :
    (getSched s t).reqs.find? (fun r => r.requester = 0x60 ∧ reqFifo r = pass ∧ r.waiting ≠ 0) = none :=
  List.find?_eq_none.mpr fun r hr hw => h r hr (by simpa using (of_decide_eq_true hw).1)

section
variable {s : State} {t : Nat} {pass : Bool} {get : TileSched → MapFifo} {put : MapFifo → TileSched → TileSched}
variable (hreqs : NoMapReqs s t)
include hreqs

theorem feedFifo_empty (hget : get (getSched s t) = {}) (fuel : Nat) : feedFifo t pass get put fuel s = s := by
  cases fuel with
  | zero => rfl
  | succ fuel =>
    unfold feedFifo
    dsimp only
    rw [find_mapReq hreqs, hget]

variable {c : Nat} {a : Acc} (hget : get (getSched s t) = { head := some (c, a), behind := [] })
  (hdef : (getQueue s t c).deferred = [])
include hget hdef

theorem feedFifo_waits (h : mapReady s t c a = false) (fuel : Nat) : feedFifo t pass get put (fuel + 1) s = s := by
  unfold feedFifo
  dsimp only
  rw [find_mapReq hreqs, hget]
  dsimp only
  rw [drainDeferred_none (by rw [hdef]; rfl), h]
  rfl

theorem feedFifo_enters (h : mapReady s t c a = true) (fuel : Nat) : feedFifo t pass get put (fuel + 1) s =
    feedFifo t pass get put fuel (mapEnter t c a (modSched t (put {}) s)) := by
  rw [feedFifo]
  dsimp only
  rw [find_mapReq hreqs, hget]
  dsimp only
  rw [drainDeferred_none (by rw [hdef]; rfl), h]
  rfl

end

/-- A copy or fill of the block map on a channel in use, which reads no row of another channel. -/
structure PlainWork (s : State) (t c : Nat) (a : Acc) : Prop where
  channel : chState s t c ≠ 4
  plain : ∀ r b row, a.kind ≠ .bounceWrite r b row

theorem PlainWork.mapReady {s : State} {t c : Nat} {a : Acc} (h : PlainWork s t c a) : mapReady s t c a = entryRoom s t c a := by
  unfold Machine.mapReady
  rw [decide_eq_false h.channel]
  split
  next r b row hk => exact absurd hk (h.plain r b row)
  · rfl

theorem PlainWork.takeEntry {s : State} {t c : Nat} {a : Acc} (h : PlainWork s t c a) (x : State) :
    takeEntry t c a x = modQueue t c (fun q => { q with wq := q.wq ++ [a] }) x := by
  have htwin : bounceTwin c a = none := by
    unfold bounceTwin
    split
    next r b row hk => exact absurd hk (h.plain r b row)
    · rfl
  unfold Machine.takeEntry
  dsimp only
  rw [htwin]

theorem PlainWork.mapEnter {s : State} {t c : Nat} {a : Acc} (h : PlainWork s t c a) {x : State} (hx : x.dict = s.dict) :
    mapEnter t c a x = modQueue t c (fun q => { q with wq := q.wq ++ [a] }) x := by
  have hchan : chState x t c ≠ 4 := by
    rw [chState, getObj_congr hx]
    exact h.channel
  unfold Machine.mapEnter
  rw [if_neg hchan]
  split
  next r b row hk => exact absurd hk (h.plain r b row)
  · exact h.takeEntry x

theorem getSched_modSched (t : Nat) (f : TileSched → TileSched) (s : State) :
    getSched (modSched t f s) t = f (getSched s t) := by
  unfold getSched modSched
  rw [fget_fupd_same]

section
variable {t : TileN} {passFifo : Bool} {s : State}

theorem noEffect_feedMap (h : feedMap t.val (fresh s) = fresh s) : NoEffect (.ingressStallRelease t 0x60 passFifo) s :=
  noEffect_run (exec_ingressStallRelease t 0x60 passFifo s) h

variable (hreqs : NoMapReqs s t.val) (hpass : (getSched s t.val).mapPass = {})
include hreqs hpass

theorem feedMap_best : feedMap t.val (fresh s) = feedFifo t.val false (fun x => x.mapBest) (fun f x => { x with mapBest := f })
    ((getSched s t.val).mapBest.behind.length + 2) (fresh s) := by
  unfold feedMap
  dsimp only
  rw [feedFifo_empty (s := fresh s) hreqs hpass]
  rfl

theorem noEffect_feedMap_idle (h : (getSched s t.val).mapBest = {}) : NoEffect (.ingressStallRelease t 0x60 passFifo) s := by
  refine noEffect_feedMap ?_
  rw [feedMap_best hreqs hpass]
  exact feedFifo_empty (s := fresh s) hreqs h _

variable {c : Nat} {a : Acc} (hbest : (getSched s t.val).mapBest = { head := some (c, a), behind := [] })
  (hdef : (getQueue s t.val c).deferred = []) (hwork : PlainWork s t.val c a)
include hbest hdef hwork

theorem noEffect_feedMap_full (h : entryRoom s t.val c a = false) : NoEffect (.ingressStallRelease t 0x60 passFifo) s := by
  refine noEffect_feedMap ?_
  rw [feedMap_best hreqs hpass]
  exact feedFifo_waits (s := fresh s) hreqs hbest hdef (hwork.mapReady.trans h) _

theorem answers_feedMap_enters (h : entryRoom s t.val c a = true) : Answers (.ingressStallRelease t 0x60 passFifo) s (fun s' =>
    SameMemory s s' ∧ getQueue s' t.val c = { getQueue s t.val c with wq := (getQueue s t.val c).wq ++ [a] } ∧
    (getSched s' t.val).mapBest = {} ∧ s' = { s with queue := s'.queue, sched := s'.sched, out := {} }) := by
  obtain ⟨z, hz⟩ : ∃ z, z = modQueue t.val c (fun q => { q with wq := q.wq ++ [a] })
    (modSched t.val (fun y => { y with mapBest := {} }) (fresh s)) := ⟨_, rfl⟩
  have hzsched : getSched z t.val = { getSched s t.val with mapBest := {} } := by
    rw [hz]
    exact getSched_modSched t.val (fun y => { y with mapBest := {} }) (fresh s)
  have hzqueue : getQueue z t.val c = { getQueue s t.val c with wq := (getQueue s t.val c).wq ++ [a] } := by
    rw [hz, getQueue_modQueue]
    rfl
  have hzreqs : NoMapReqs z t.val := by
    intro r hr
    rw [openReqs, hzsched] at hr
    exact hreqs r hr
  have hfeed : feedMap t.val (fresh s) = z := by
    rw [feedMap_best hreqs hpass, feedFifo_enters (s := fresh s) hreqs hbest hdef (hwork.mapReady.trans h),
      hwork.mapEnter (x := modSched t.val (fun y => { y with mapBest := {} }) (fresh s)) rfl, ← hz]
    exact feedFifo_empty hzreqs (by rw [hzsched]) _
  refine answers_run (exec_ingressStallRelease t 0x60 passFifo s) ?_
  rw [show stallRelease t.val (0x60 : BitVec 8).toNat passFifo (fresh s) = z from hfeed]
  refine ⟨?_, hzqueue, congrArg (fun x => x.mapBest) hzsched, ?_⟩
  · rw [hz]
    exact sameMemory_of rfl rfl rfl rfl
  · rw [hz]
    rfl

end

/-- Settles O22: the head of a FIFO, the work of the block map, the barriers, and the deferred work. -/
theorem waitingWorkGoesOn : Obligations.WaitingWorkGoesOn := by
  unfold Obligations.WaitingWorkGoesOn
  refine ⟨fun t q passFifo s hq => ⟨noEffect_stallRelease hq, fun r => answers_stallRelease hq⟩,
    fun t passFifo s hreqs hpass => ⟨noEffect_feedMap_idle hreqs hpass, fun c a hbest hdef hchan hkind => ?_⟩,
    fun t q s => noEffect_barrierRelease_none,
    fun t q r s hr => ⟨noEffect_barrierRelease_waits hr, answers_barrierRelease_near hr, answers_barrierRelease_far hr⟩,
    fun t c write s => ⟨noEffect_deferredWorkEntry_read, noEffect_deferredWorkEntry_full, answers_deferredWorkEntry⟩⟩
  exact ⟨noEffect_feedMap_full hreqs hpass hbest hdef ⟨hchan, hkind⟩,
    answers_feedMap_enters hreqs hpass hbest hdef ⟨hchan, hkind⟩⟩

end Sys2Proof.Machine

/-! ## Proofs: reports of rails, and the voltage-ID interface -/

namespace Sys2Proof.Machine

open Sys2Proof

/-! ### Rails (R305, R420) -/

@[simp] theorem getRail_modRail_same (r : Nat) (f : RailS → RailS) (s : State) :
    getRail (modRail r f s) r = f (getRail s r) := by
  unfold getRail modRail
  rw [fget_fupd_same]

theorem bits_lt (n lo len : Nat) : bits n lo len < 2 ^ len := Nat.mod_lt _ (Nat.two_pow_pos len)

theorem bit_clearBit_other {i j : Nat} (h : j ≠ i) (n : Nat) : bit (clearBit n i) j = bit n j := by
  cases hb : bit n i with
  | false => rw [clearBit, hb, if_neg Bool.false_ne_true]
  | true =>
    rw [clearBit_eq_flipBit hb, bit_eq_testBit, bit_eq_testBit, flipBit_eq_xor, Nat.testBit_xor, Nat.testBit_two_pow_of_ne h.symm,
      Bool.xor_false]

theorem railReport_keys {r : Nat} (h : r < 66) : Obj.railVoltage + r < 2 ^ 24 ∧ Obj.railCurrent + r < 2 ^ 24 ∧
    12 ≤ objBits (Obj.railVoltage + r) ∧ 24 ≤ objBits (Obj.railCurrent + r) :=
  (by decide +kernel : ∀ r < 66, Obj.railVoltage + r < 2 ^ 24 ∧ Obj.railCurrent + r < 2 ^ 24 ∧
    12 ≤ objBits (Obj.railVoltage + r) ∧ 24 ≤ objBits (Obj.railCurrent + r)) r h

/-- RailTelemetryLost has a bit for each rail. -/
theorem telemetryLost_bits : 66 ≤ objBits Obj.railTelemetryLost := by decide +kernel

theorem railLost_set {r : Nat} (h : r < 66) (v : Nat) (s : State) :
    railLost (setObj dev Obj.railTelemetryLost v s) r = bit v r := by
  unfold railLost
  rw [getObj_setObj_same, bit_mod_two_pow (Nat.lt_of_lt_of_le h telemetryLost_bits)]

/-- The objects that a report of a rail stores, before its telemetry is back. -/
def railStored (r mv ma : Nat) (s : State) : State :=
  bump dev Obj.vidReports 1 (setObj dev (Obj.railVoltage + r) mv (setObj dev (Obj.railCurrent + r) ma s))

/-- A report of a rail, by the parts it stores. -/
def railReported (r mv ma : Nat) (s : State) : State :=
  setObj dev Obj.railTelemetryLost (clearBit (getObj (railStored r mv ma s) dev Obj.railTelemetryLost) r)
    (modRail r (fun x => { x with last := s.time.elapsed, mv := mv, ma := ma }) (railStored r mv ma s))

section
variable {r mv ma : Nat} {s : State} (h : r < 66)
include h

/-- The stored objects of a rail are apart from each other and from the interface's own. -/
theorem rail_distinct : Obj.railVoltage + r ≠ Obj.railCurrent + r ∧ Obj.vidReports ≠ Obj.railVoltage + r ∧
    Obj.vidReports ≠ Obj.railCurrent + r ∧ Obj.railTelemetryLost ≠ Obj.railVoltage + r ∧
    Obj.railTelemetryLost ≠ Obj.railCurrent + r := by
  simp only [Obj.railVoltage, Obj.railCurrent, Obj.vidReports, Obj.railTelemetryLost]
  omega

theorem getObj_railStored_other {u k : Nat} (hk : k < 2 ^ 24) (hv : k ≠ Obj.railVoltage + r ∨ u ≠ dev)
    (hc : k ≠ Obj.railCurrent + r ∨ u ≠ dev) (hn : k ≠ Obj.vidReports ∨ u ≠ dev) :
    getObj (railStored r mv ma s) u k = getObj s u k := by
  obtain ⟨hkv, hkc, -⟩ := railReport_keys h
  have hset : ∀ {j v : Nat} (x : State), j < 2 ^ 24 → (k ≠ j ∨ u ≠ dev) → getObj (setObj dev j v x) u k = getObj x u k := by
    intro j v x hj hne
    rcases hne with hne | hne
    · exact getObj_setObj_obj x hne hk hj
    · exact getObj_setObj_unit x hne hk hj
  rw [railStored, bump, hset _ (by decide) hn, hset _ hkv hv, hset _ hkc hc]

theorem getObj_railReported :
    getObj (railReported r mv ma s) dev (Obj.railVoltage + r) = mv % 2 ^ objBits (Obj.railVoltage + r) ∧
    getObj (railReported r mv ma s) dev (Obj.railCurrent + r) = ma % 2 ^ objBits (Obj.railCurrent + r) ∧
    getObj (railReported r mv ma s) dev Obj.vidReports = (getObj s dev Obj.vidReports + 1) % 2 ^ 64 := by
  obtain ⟨hkv, hkc, -⟩ := railReport_keys h
  obtain ⟨hvc, hnv, hnc, hlv, hlc⟩ := rail_distinct h
  have hlast : ∀ {k : Nat}, k < 2 ^ 24 → k ≠ Obj.railTelemetryLost →
      getObj (railReported r mv ma s) dev k = getObj (railStored r mv ma s) dev k := fun hk hne =>
    (getObj_setObj_obj _ hne hk (by decide)).trans (getObj_congr rfl dev _)
  rw [hlast hkv hlv.symm, hlast hkc hlc.symm, hlast (by decide) (by decide), railStored]
  refine ⟨?_, ?_, ?_⟩
  · rw [getObj_bump_obj _ _ _ _ hnv.symm hkv, getObj_setObj_same]
  · rw [getObj_bump_obj _ _ _ _ hnc.symm hkc, getObj_setObj_obj _ hvc.symm hkc hkv, getObj_setObj_same]
  · rw [getObj_bump_same _ _ _ (by decide +kernel), getObj_setObj_obj _ hnv (by decide) hkv,
      getObj_setObj_obj _ hnc (by decide) hkc]

theorem railLost_railReported (q : Nat) (hq : q < 66) :
    railLost (railReported r mv ma s) q = if q = r then false else railLost s q := by
  obtain ⟨-, -, -, hlv, hlc⟩ := rail_distinct h
  rw [railReported, railLost_set hq, getObj_railStored_other h (by decide) (.inl hlv) (.inl hlc) (.inl (by decide))]
  split
  next heq => rw [heq, bit_clearBit_same]
  next hne => exact bit_clearBit_other hne _

theorem otherObjects_railReported : OtherObjects s (railReported r mv ma s)
    [(dev, Obj.railVoltage + r), (dev, Obj.railCurrent + r), (dev, Obj.vidReports), (dev, Obj.railTelemetryLost)] := by
  intro u k hk hn
  simp only [List.mem_cons, Prod.mk.injEq, List.not_mem_nil, or_false, not_or] at hn
  obtain ⟨hv, hc, hr, ht⟩ := hn
  have hapart : ∀ {j : Nat}, ¬ (u = dev ∧ k = j) → k ≠ j ∨ u ≠ dev := fun hne => by
    by_cases hu : u = dev
    · exact .inl fun hkj => hne ⟨hu, hkj⟩
    · exact .inr hu
  have hlast : getObj (railReported r mv ma s) u k = getObj (railStored r mv ma s) u k := by
    rcases hapart ht with hne | hne
    · exact (getObj_setObj_obj _ hne hk (by decide)).trans (getObj_congr rfl u k)
    · exact (getObj_setObj_unit _ hne hk (by decide)).trans (getObj_congr rfl u k)
  rw [hlast]
  exact getObj_railStored_other h hk (hapart hv) (hapart hc) (hapart hr)

end

theorem railReported_fields (r mv ma : Nat) (s : State) : railReported r mv ma s =
    { s with rail := (railReported r mv ma s).rail, dict := (railReported r mv ma s).dict } := rfl

theorem getRail_railReported (r mv ma : Nat) (s : State) : getRail (railReported r mv ma s) r =
    { getRail s r with last := s.time.elapsed, mv := mv, ma := ma } := by
  have hset : getRail (railReported r mv ma s) r =
      getRail (modRail r (fun x => { x with last := s.time.elapsed, mv := mv, ma := ma }) (railStored r mv ma s)) r := rfl
  rw [hset, getRail_modRail_same]
  rfl

section
variable {w : BitVec 48} {s : State}

theorem noEffect_railReport (h : 66 ≤ bits w.toNat 41 7) : NoEffect (.railReport w) s := by
  refine noEffect_run (exec_railReport w s) ?_
  exact if_pos h

theorem answers_railReport {r : Nat} (hr : r = bits w.toNat 41 7) (h : r < 66) : Answers (.railReport w) s (fun s' =>
    getObj s' dev (Obj.railVoltage + r) = bits w.toNat 29 12 ∧ getObj s' dev (Obj.railCurrent + r) = bits w.toNat 5 24 ∧
    getObj s' dev Obj.vidReports = (getObj s dev Obj.vidReports + 1) % 2 ^ 64 ∧ railLost s' r = false ∧
    (∀ q < 66, q ≠ r → railLost s' q = railLost s q) ∧
    getRail s' r = { getRail s r with last := s.time.elapsed, mv := bits w.toNat 29 12, ma := bits w.toNat 5 24 } ∧
    OtherObjects s s' [(dev, Obj.railVoltage + r), (dev, Obj.railCurrent + r), (dev, Obj.vidReports),
      (dev, Obj.railTelemetryLost)] ∧ s' = { s with rail := s'.rail, dict := s'.dict, out := {} }) := by
  refine answers_run (exec_railReport w s) ?_
  have hrun : railReport w.toNat (fresh s) = railReported r (bits w.toNat 29 12) (bits w.toNat 5 24) (fresh s) := by
    subst hr
    exact if_neg (by omega)
  rw [hrun]
  obtain ⟨hvoltage, hcurrent, hreports⟩ :=
    getObj_railReported (mv := bits w.toNat 29 12) (ma := bits w.toNat 5 24) (s := fresh s) h
  have hlost := railLost_railReported (mv := bits w.toNat 29 12) (ma := bits w.toNat 5 24) (s := fresh s) h
  have hother := otherObjects_railReported (mv := bits w.toNat 29 12) (ma := bits w.toNat 5 24) (s := fresh s) h
  have hrail := getRail_railReported r (bits w.toNat 29 12) (bits w.toNat 5 24) (fresh s)
  have hfields := railReported_fields r (bits w.toNat 29 12) (bits w.toNat 5 24) (fresh s)
  obtain ⟨-, -, hbv, hbc⟩ := railReport_keys h
  rw [Nat.mod_eq_of_lt (Nat.lt_of_lt_of_le (bits_lt _ _ _) (Nat.pow_le_pow_right (by decide) hbv))] at hvoltage
  rw [Nat.mod_eq_of_lt (Nat.lt_of_lt_of_le (bits_lt _ _ _) (Nat.pow_le_pow_right (by decide) hbc))] at hcurrent
  generalize railReported r (bits w.toNat 29 12) (bits w.toNat 5 24) (fresh s) = y at *
  refine ⟨hvoltage, hcurrent, hreports, (hlost r h).trans (if_pos rfl), fun q hq hne => (hlost q hq).trans (if_neg hne),
    hrail, hother, ?_⟩
  rw [hfields]
  rfl

end

end Sys2Proof.Machine

/-! ## Proofs: telemetry lost, commands of the interface, settled steps and hints -/

namespace Sys2Proof.Machine

open Sys2Proof

/-! ### Telemetry lost (R312) -/

theorem fget_mapValues {α : Type} [DecidableEq α] {d : α} (f : α → α) (hf : f d = d) (m : FMap α) (k : Nat) :
    fget d (m.map (fun e => (e.1, f e.2))) k = f (fget d m k) := by
  induction m with
  | nil => exact hf.symm
  | cons e m ih =>
    change (if e.1 = k then f e.2 else fget d (m.map (fun e => (e.1, f e.2))) k) = f (if e.1 = k then e.2 else fget d m k)
    by_cases hk : e.1 = k
    · rw [if_pos hk, if_pos hk]
    · rw [if_neg hk, if_neg hk, ih]

/-- An open mark takes the stale bit. -/
def staleMark (x : Mark) : Mark := if x.opened then { x with stale := true } else x

theorem fget_staleMarks (s : State) (m : Nat) :
    fget ({} : Mark) (staleMarks s).mark m = staleMark (fget ({} : Mark) s.mark m) :=
  fget_mapValues staleMark rfl s.mark m

/-- The registers of a supply event of a rail whose telemetry is lost. -/
def telemetryGone (r : Nat) (s : State) : State :=
  setObj dev Obj.lastSupplyEvent (supplyEvent s 3 r (getRail s r).mv)
    (setObj dev Obj.railTelemetryLost (setBit (getObj s dev Obj.railTelemetryLost) r) s)

theorem supplyEvent_congr {s s' : State} (h : s'.time = s.time) (cause rail mv : Nat) :
    supplyEvent s' cause rail mv = supplyEvent s cause rail mv := by
  unfold supplyEvent
  rw [h]

theorem getRail_congr {s s' : State} (h : s'.rail = s.rail) (r : Nat) : getRail s' r = getRail s r := by
  unfold getRail
  rw [h]

theorem lastSupplyEvent_bits : objBits Obj.lastSupplyEvent = 64 := by decide +kernel

theorem telemetryGone_kept (r : Nat) (s : State) :
    (telemetryGone r s).mark = s.mark ∧ SameMemory s (telemetryGone r s) := by
  have hset : ∀ (u k v : Nat) (x : State), (setObj u k v x).mark = x.mark ∧ SameMemory x (setObj u k v x) :=
    fun _ _ _ _ => ⟨rfl, sameMemory_of rfl rfl rfl rfl⟩
  obtain ⟨hm, hw⟩ := hset dev Obj.railTelemetryLost (setBit (getObj s dev Obj.railTelemetryLost) r) s
  unfold telemetryGone
  generalize setObj dev Obj.railTelemetryLost (setBit (getObj s dev Obj.railTelemetryLost) r) s = y at *
  obtain ⟨hm', hw'⟩ := hset dev Obj.lastSupplyEvent (supplyEvent s 3 r (getRail s r).mv) y
  exact ⟨hm'.trans hm, hw.trans hw'⟩

theorem railLost_telemetryGone {r : Nat} (h : r < 66) (s : State) : railLost (telemetryGone r s) r = true := by
  have hset : getObj (telemetryGone r s) dev Obj.railTelemetryLost = getObj (setObj dev Obj.railTelemetryLost
      (setBit (getObj s dev Obj.railTelemetryLost) r) s) dev Obj.railTelemetryLost :=
    getObj_setObj_obj _ (by decide) (by decide) (by decide)
  have hlost := railLost_set h (setBit (getObj s dev Obj.railTelemetryLost) r) s
  unfold railLost at hlost ⊢
  rw [hset, hlost, bit_setBit_same]

theorem getObj_telemetryGone (r : Nat) (s : State) : getObj (telemetryGone r s) dev Obj.lastSupplyEvent =
    supplyEvent s 3 r (getRail s r).mv % 2 ^ 64 := by
  rw [telemetryGone, getObj_setObj_same, lastSupplyEvent_bits]

theorem telemetryLost_runs {s : State} {r : Nat} (hlost : railLost s r = false)
    (hlate : (getRail s r).last + 100000 ≤ s.time.elapsed) : telemetryLost r s =
      staleMarks (ringAll 5 (addLog dev 0x08 3 stOk (supplyEvent s 3 r (getRail s r).mv) 0 (telemetryGone r s))) := by
  refine if_neg ?_
  rintro (h | h)
  · exact Bool.false_ne_true (hlost.symm.trans h)
  · exact absurd h (Nat.not_lt.mpr hlate)

/-- What the loss of a rail's telemetry leaves (R312). -/
theorem telemetryLost_spec {s : State} {r : Nat} (hr : r < 66) (hlost : railLost s r = false)
    (hlate : (getRail s r).last + 100000 ≤ s.time.elapsed) : railLost (telemetryLost r s) r = true ∧
      getObj (telemetryLost r s) dev Obj.lastSupplyEvent = supplyEvent s 3 r (getRail s r).mv % 2 ^ 64 ∧
      (∀ m, fget ({} : Mark) (telemetryLost r s).mark m = staleMark (fget ({} : Mark) s.mark m)) ∧
      SameMemory s (telemetryLost r s) := by
  rw [telemetryLost_runs hlost hlate, ← getObj_telemetryGone]
  obtain ⟨hmark, hmem⟩ := telemetryGone_kept r s
  have hbit := railLost_telemetryGone hr s
  generalize supplyEvent s 3 r (getRail s r).mv = e
  generalize telemetryGone r s = x at *
  have hside := (side_addLog dev 0x08 3 stOk e 0 x).trans (side_ringAll 5 _)
  generalize ringAll 5 (addLog dev 0x08 3 stOk e 0 x) = y at hside
  have hdict : ∀ u k, getObj (staleMarks y) u k = getObj y u k := fun u k => getObj_congr rfl u k
  refine ⟨?_, ?_, fun m => ?_, ?_⟩
  · rw [railLost, hdict, hside.objs dev Obj.railTelemetryLost (by decide) (by decide)]
    exact hbit
  · rw [hdict, hside.objs dev Obj.lastSupplyEvent (by decide) (by decide)]
  · rw [fget_staleMarks, ← hmark, hside.fields]
  · exact (hmem.trans (hside.calm (K := fun _ => false)).words.sameMemory).trans (sameMemory_of rfl rfl rfl rfl)

section
variable {rail : RailN} {s : State}

theorem noEffect_railTelemetryLost (h : railLost s rail.val = true ∨ s.time.elapsed < (getRail s rail.val).last + 100000) :
    NoEffect (.railTelemetryLost rail) s :=
  noEffect_run (exec_railTelemetryLost rail s) (if_pos h)

theorem answers_railTelemetryLost (hlost : railLost s rail.val = false)
    (hlate : (getRail s rail.val).last + 100000 ≤ s.time.elapsed) : Answers (.railTelemetryLost rail) s (fun s' =>
      railLost s' rail.val = true ∧
      getObj s' dev Obj.lastSupplyEvent = supplyEvent s 3 rail.val (getRail s rail.val).mv % 2 ^ 64 ∧
      (∀ m, (fget ({} : Mark) s.mark m).opened = true →
        fget ({} : Mark) s'.mark m = { fget ({} : Mark) s.mark m with stale := true }) ∧ SameMemory s s') := by
  refine answers_run (exec_railTelemetryLost rail s) ?_
  obtain ⟨hbit, hevent, hmarks, hmem⟩ := telemetryLost_spec (s := fresh s) rail.isLt hlost hlate
  generalize telemetryLost rail.val (fresh s) = y at *
  refine ⟨hbit, hevent, fun m hm => ?_, hmem⟩
  exact (hmarks m).trans (if_pos hm)

/-! ### The voltage-ID interface (R419) -/

/-- A command word that is put on the interface and sets no step waits for nothing else. -/
theorem vidEmit_plain {r w : Nat} (h : bits w 12 5 ≠ 1) (s : State) : vidEmit r w s =
    modRail r (fun x => { x with outstanding := some w }) { s with out := { s.out with vid := s.out.vid ++ [w] } } := if_neg h

/-- Putting a command word on the interface changes its rail, the settling time of a step, and the output. -/
theorem vidEmit_fields (r w : Nat) (s : State) : ∃ pt, vidEmit r w s = { s with
    rail := fupd {} s.rail r (fun x => { x with outstanding := some w })
    ptile := pt
    out := { s.out with vid := s.out.vid ++ [w] } } := by
  unfold vidEmit
  dsimp only
  split
  · exact ⟨_, rfl⟩
  · exact ⟨s.ptile, rfl⟩

theorem noEffect_vidCommandAck (h : (getRail s rail.val).outstanding = none) : NoEffect (.vidCommandAck rail) s := by
  refine noEffect_run (exec_vidCommandAck rail s) ?_
  have h' : (getRail (fresh s) rail.val).outstanding = none := h
  rw [vidAck, h']

/-- The interface after a command was taken, and before the next one is put out. -/
def vidTaken (r : Nat) (s : State) : State :=
  bump dev Obj.vidCommands 1 (modRail r (fun x => { x with outstanding := none, queued := x.queued.drop 1 }) s)

theorem vidAck_done {r o : Nat} (h : (getRail s r).outstanding = some o) (hq : (getRail s r).queued = []) :
    vidAck r s = vidTaken r s := by
  rw [vidAck, h, hq]
  rfl

theorem vidAck_next {r o w : Nat} {l : List Nat} (h : (getRail s r).outstanding = some o) (hq : (getRail s r).queued = w :: l) :
    vidAck r s = vidEmit r w (vidTaken r s) := by
  rw [vidAck, h, hq]
  rfl

theorem getRail_vidTaken (r : Nat) (s : State) :
    getRail (vidTaken r s) r = { getRail s r with outstanding := none, queued := (getRail s r).queued.drop 1 } :=
  getRail_modRail_same r (fun x => { x with outstanding := none, queued := x.queued.drop 1 }) s

theorem getObj_vidTaken (r : Nat) (s : State) :
    getObj (vidTaken r s) dev Obj.vidCommands = (getObj s dev Obj.vidCommands + 1) % 2 ^ 64 := by
  rw [vidTaken, getObj_bump_same _ _ _ (by decide +kernel)]
  rfl

theorem otherObjects_vidTaken (r : Nat) (s : State) : OtherObjects s (vidTaken r s) [(dev, Obj.vidCommands)] :=
  otherObjects_set (s := s) (v := getObj s dev Obj.vidCommands + 1) rfl (by decide)

theorem answers_vidCommandAck {o : Nat} (h : (getRail s rail.val).outstanding = some o) : Answers (.vidCommandAck rail) s (fun s' =>
    getObj s' dev Obj.vidCommands = (getObj s dev Obj.vidCommands + 1) % 2 ^ 64 ∧
    s'.out.vid = (getRail s rail.val).queued.take 1 ∧
    getRail s' rail.val = { getRail s rail.val with
      outstanding := (getRail s rail.val).queued.head?, queued := (getRail s rail.val).queued.drop 1 } ∧
    OtherObjects s s' [(dev, Obj.vidCommands)] ∧
    s' = { s with rail := s'.rail, ptile := s'.ptile, dict := s'.dict, out := s'.out }) := by
  refine answers_run (exec_vidCommandAck rail s) ?_
  have hcount := getObj_vidTaken rail.val (fresh s)
  have hother := otherObjects_vidTaken rail.val (fresh s)
  have hrail := getRail_vidTaken rail.val (fresh s)
  have hfields : vidTaken rail.val (fresh s) = { s with
      rail := (vidTaken rail.val (fresh s)).rail, dict := (vidTaken rail.val (fresh s)).dict, out := {} } := rfl
  cases hq : (getRail s rail.val).queued with
  | nil =>
    rw [vidAck_done (s := fresh s) h hq]
    generalize vidTaken rail.val (fresh s) = y at *
    refine ⟨hcount, by rw [hfields]; rfl, hrail.trans ?_, hother, by rw [hfields]; rfl⟩
    change { getRail s rail.val with outstanding := none, queued := (getRail s rail.val).queued.drop 1 } = _
    rw [hq]
    rfl
  | cons w l =>
    rw [vidAck_next (s := fresh s) h hq]
    obtain ⟨pt, hemit⟩ := vidEmit_fields rail.val w (vidTaken rail.val (fresh s))
    rw [hemit]
    generalize vidTaken rail.val (fresh s) = y at *
    have hdict : ∀ u k, getObj (sameTime s { y with
        rail := fupd {} y.rail rail.val (fun x => { x with outstanding := some w })
        ptile := pt
        out := { y.out with vid := y.out.vid ++ [w] } }) u k = getObj y u k := fun u k => getObj_congr rfl u k
    refine ⟨(hdict _ _).trans hcount, by rw [hfields]; rfl, ?_, fun u k hk hn => (hdict u k).trans (hother u k hk hn), ?_⟩
    · refine (getRail_modRail_same rail.val (fun x => { x with outstanding := some w }) y).trans ?_
      rw [hrail]
      change { getRail s rail.val with outstanding := some w, queued := (getRail s rail.val).queued.drop 1 } = _
      rw [hq]
      rfl
    · rw [hfields]
      rfl

end

end Sys2Proof.Machine

/-! ## Proofs: voltage steps settle, and hints are sent -/

namespace Sys2Proof.Machine

open Sys2Proof

/-! ### Command words (R419) -/

theorem bits_vidWord {rail kind value : Nat} (hr : rail < 128) (hk : kind < 32) :
    bits (vidWord rail kind value) 12 5 = kind ∧ bits (vidWord rail kind value) 17 7 = rail := by
  unfold vidWord bits fld
  omega

theorem dict_vidSend (r w : Nat) (s : State) : (vidSend r w s).dict = s.dict := by
  unfold vidSend
  split
  · rfl
  · obtain ⟨pt, hemit⟩ := vidEmit_fields r w s
    rw [hemit]

theorem vidSend_waits {r : Nat} {s : State} (h : (getRail s r).outstanding ≠ none) (w : Nat) :
    vidSend r w s = modRail r (fun x => { x with queued := x.queued ++ [w] }) s :=
  if_pos (Option.isSome_iff_ne_none.mpr h)

theorem vidSend_emits {r : Nat} {s : State} (h : (getRail s r).outstanding = none) (w : Nat) :
    vidSend r w s = vidEmit r w s := by
  rw [vidSend, h]
  exact if_neg Bool.false_ne_true

/-! ### Power of a tile through the steps of its voltage (R306) -/

/-- When a step of a tile settled last is not changed by sending commands. -/
theorem stepSince_vidSend (r w : Nat) (s : State) (t : Nat) :
    (getPTile (vidSend r w s) t).stepSince = (getPTile s t).stepSince := by
  have hmod : ∀ (f : PowerTile → PowerTile) (x : State), (∀ p, (f p).stepSince = p.stepSince) →
      (getPTile (modPTile r f x) t).stepSince = (getPTile x t).stepSince := by
    intro f x hf
    by_cases h : t = r
    · rw [h, getPTile_modPTile_same, hf]
    · rw [getPTile_modPTile_other h]
  unfold vidSend
  split
  · rfl
  · unfold vidEmit
    dsimp only
    split
    · exact hmod _ _ fun _ => rfl
    · rfl

/-- What sending a tile's next step leaves alone. -/
structure Advanced (t : Nat) (s s' : State) : Prop where
  objs : ∀ u k, k < 2 ^ 24 → (u, k) ≠ (t, Obj.voltageSteps) → getObj s' u k = getObj s u k
  words : SameWords s s'
  since : (getPTile s' t).stepSince = (getPTile s t).stepSince

theorem Advanced.refl (t : Nat) (s : State) : Advanced t s s := ⟨fun _ _ _ _ => rfl, SameWords.refl s, rfl⟩

theorem Advanced.trans {t : Nat} {a b c : State} (h : Advanced t a b) (h' : Advanced t b c) : Advanced t a c :=
  ⟨fun u k hk hn => (h'.objs u k hk hn).trans (h.objs u k hk hn), h.words.trans h'.words, h'.since.trans h.since⟩

theorem advanced_modPTile {t : Nat} {f : PowerTile → PowerTile} (hf : ∀ p, (f p).stepSince = p.stepSince) (s : State) :
    Advanced t s (modPTile t f s) :=
  ⟨fun _ _ _ _ => rfl, sameWords_of rfl rfl rfl rfl, by rw [getPTile_modPTile_same, hf]⟩

theorem advanced_bump (t : Nat) (s : State) : Advanced t s (bump t Obj.voltageSteps 1 s) := by
  refine ⟨fun u k hk hn => ?_, sameWords_of rfl rfl rfl rfl, rfl⟩
  refine getObj_setObj_other s fun e => hn ?_
  obtain ⟨hu, hk'⟩ := okey_inj hk (by decide) e
  rw [hu, hk']

theorem advanced_vidSend (t r w : Nat) (s : State) : Advanced t s (vidSend r w s) :=
  ⟨fun u k _ _ => getObj_congr (dict_vidSend r w s) u k, (calm_vidSend (K := fun _ => true) r w s).words,
    stepSince_vidSend r w s t⟩

theorem advanced_advanceStep (t : Nat) (s : State) : Advanced t s (advanceStep t s) := by
  unfold advanceStep
  dsimp only
  split
  · exact .refl t s
  · split
    · exact advanced_modPTile (by exact fun _ => rfl) s
    · split
      · exact .refl t s
      · exact ((advanced_modPTile (by exact fun _ => rfl) s).trans (advanced_bump t _)).trans (advanced_vidSend t t _ _)

theorem advanceStep_none {t : Nat} {s : State} (h : (getPTile s t).target = none) : advanceStep t s = s := by
  rw [advanceStep, h]

/-- A step of a tile is in force. -/
def stepTaken (t n : Nat) (s : State) : State :=
  modPTile t (fun p => { p with settling := none, stepSince := s.time.elapsed }) (setObj t Obj.voltageStep n s)

theorem getPTile_stepTaken (t n : Nat) (s : State) :
    getPTile (stepTaken t n s) t = { getPTile s t with settling := none, stepSince := s.time.elapsed } := by
  rw [stepTaken, getPTile_modPTile_same]
  rfl

theorem voltageStep_bits : objBits Obj.voltageStep = 8 := by decide +kernel

theorem getObj_stepTaken (t n : Nat) (s : State) : getObj (stepTaken t n s) t Obj.voltageStep = n % 2 ^ 8 := by
  have hset : getObj (stepTaken t n s) t Obj.voltageStep = getObj (setObj t Obj.voltageStep n s) t Obj.voltageStep :=
    getObj_congr rfl _ _
  rw [hset, getObj_setObj_same, voltageStep_bits]

theorem otherObjects_stepTaken (t n : Nat) (s : State) : OtherObjects s (stepTaken t n s) [(t, Obj.voltageStep)] :=
  otherObjects_set (s := s) (v := n) rfl (by decide)

section
variable {t : TileN} {s : State}

theorem noEffect_stepSettled_none (h : (getPTile s t.val).settling = none) : NoEffect (.voltageStepSettled t) s := by
  refine noEffect_run (exec_voltageStepSettled t s) ?_
  have h' : (getPTile (fresh s) t.val).settling = none := h
  rw [stepSettled, h']

variable {a n d : Nat}

theorem stepSettled_early {s : State} {t : Nat} (h : (getPTile s t).settling = some (a, n, d)) (hd : s.time.elapsed < d) :
    stepSettled t s = s := by
  rw [stepSettled, h]
  exact if_pos (.inl hd)

theorem stepSettled_done {s : State} {t : Nat} (h : (getPTile s t).settling = some (a, n, d)) (hd : d ≤ s.time.elapsed)
    (hq : (getRail s t).queued = []) : stepSettled t s = advanceStep t (stepTaken t n s) := by
  rw [stepSettled, h, hq]
  refine if_neg ?_
  rintro (hlt | hany)
  · exact absurd hlt (Nat.not_lt.mpr hd)
  · exact absurd hany Bool.false_ne_true

variable (h : (getPTile s t.val).settling = some (a, n, d))
include h

theorem noEffect_stepSettled_early (hd : s.time.elapsed < d) : NoEffect (.voltageStepSettled t) s :=
  noEffect_run (exec_voltageStepSettled t s) (stepSettled_early (s := fresh s) h hd)

theorem answers_stepSettled (hd : d ≤ s.time.elapsed) (hq : (getRail s t.val).queued = []) :
    Answers (.voltageStepSettled t) s (fun s' =>
      getObj s' t.val Obj.voltageStep = n % 2 ^ 8 ∧ (getPTile s' t.val).stepSince = s.time.elapsed ∧
      ((getPTile s t.val).target = none → (getPTile s' t.val).settling = none) ∧
      OtherObjects s s' [(t.val, Obj.voltageStep), (t.val, Obj.voltageSteps)] ∧ SameMemory s s') := by
  refine answers_run (exec_voltageStepSettled t s) ?_
  rw [stepSettled_done (s := fresh s) h hd hq]
  have hstep := getObj_stepTaken t.val n (fresh s)
  have htile := getPTile_stepTaken t.val n (fresh s)
  have hother := otherObjects_stepTaken t.val n (fresh s)
  have hwords : SameMemory s (stepTaken t.val n (fresh s)) := sameMemory_of rfl rfl rfl rfl
  generalize stepTaken t.val n (fresh s) = y at *
  have hadv := advanced_advanceStep t.val y
  have hidle : (getPTile y t.val).target = none → advanceStep t.val y = y := advanceStep_none
  generalize advanceStep t.val y = z at hadv hidle
  refine ⟨(hadv.objs _ _ (by decide) (by simp)).trans hstep, ?_, fun hnone => ?_, fun u k hk hn => ?_,
    hwords.trans hadv.words.sameMemory⟩
  · have hsince := hadv.since
    rw [htile] at hsince
    exact hsince
  · have htarget : (getPTile y t.val).target = none := by
      rw [htile]
      exact hnone
    have hz : getPTile (sameTime s z) t.val = getPTile y t.val := by
      rw [hidle htarget]
      rfl
    rw [hz, htile]
  · simp only [List.mem_cons, List.not_mem_nil, or_false, not_or] at hn
    obtain ⟨hstep', hsteps⟩ := hn
    exact (hadv.objs u k hk hsteps).trans (hother u k hk (by simpa using hstep'))

end

/-! ### Hints (R317) -/

section
variable {t : TileN} {i : Fin 8} {s : State}

theorem noEffect_hintLoadNotice_none (h : (getPTile s t.val).hints[i.val]? = none) : NoEffect (.hintLoadNotice t i) s := by
  refine noEffect_run (exec_hintLoadNotice t i s) ?_
  have h' : (getPTile (fresh s) t.val).hints[i.val]? = none := h
  rw [hintNotice, h']

variable {hint : HintS} (h : (getPTile s t.val).hints[i.val]? = some hint)
include h

theorem noEffect_hintLoadNotice_early
    (hearly : hint.noticed = true ∨ s.time.elapsed + getObj s dev Obj.voltageStepSettle < hint.start) :
    NoEffect (.hintLoadNotice t i) s := by
  refine noEffect_run (exec_hintLoadNotice t i s) ?_
  have h' : (getPTile (fresh s) t.val).hints[i.val]? = some hint := h
  rw [hintNotice, h']
  exact if_pos hearly

omit h in
/-- A tile whose regulator has been told of a hint. -/
def hintTold (t i : Nat) (hint : HintS) (s : State) : State :=
  modPTile t (fun p => { p with hints := setNth p.hints i { hint with noticed := true } }) s

omit h in
theorem hintNotice_sends {s : State} {t i : Nat} (h : (getPTile s t).hints[i]? = some hint) (hnew : hint.noticed = false)
    (hdue : hint.start ≤ s.time.elapsed + getObj s dev Obj.voltageStepSettle) :
    ∃ v, hintNotice t i s = vidSend t (vidWord t 2 v) (hintTold t i hint s) := by
  rw [hintNotice, h]
  refine ⟨_, if_neg ?_⟩
  rintro (hold | hearly)
  · exact Bool.false_ne_true (hnew.symm.trans hold)
  · exact absurd hearly (Nat.not_lt.mpr hdue)

theorem answers_hintLoadNotice (hnew : hint.noticed = false)
    (hdue : hint.start ≤ s.time.elapsed + getObj s dev Obj.voltageStepSettle) : Answers (.hintLoadNotice t i) s (fun s' =>
      (getPTile s' t.val).hints = setNth (getPTile s t.val).hints i.val { hint with noticed := true } ∧
      ((getRail s t.val).outstanding = none →
        ∃ w, s'.out.vid = [w] ∧ (getRail s' t.val).outstanding = some w ∧ bits w 12 5 = 2 ∧ bits w 17 7 = t.val) ∧
      ((getRail s t.val).outstanding ≠ none →
        ∃ w, (getRail s' t.val).queued = (getRail s t.val).queued ++ [w] ∧ bits w 12 5 = 2 ∧ s'.out.vid = []) ∧
      s'.dict = s.dict ∧ SameMemory s s') := by
  obtain ⟨v, hsend⟩ := hintNotice_sends (s := fresh s) h hnew hdue
  refine answers_run (exec_hintLoadNotice t i s) ?_
  rw [hsend]
  obtain ⟨hkind, hrail⟩ := bits_vidWord (rail := t.val) (kind := 2) (value := v) (by omega) (by decide)
  have htold : getPTile (hintTold t.val i.val hint (fresh s)) t.val = { getPTile s t.val with
      hints := setNth (getPTile s t.val).hints i.val { hint with noticed := true } } := getPTile_modPTile_same _ _ _
  have hfields : hintTold t.val i.val hint (fresh s) = { s with
      ptile := (hintTold t.val i.val hint (fresh s)).ptile, out := {} } := rfl
  generalize vidWord t.val 2 v = w at *
  generalize hintTold t.val i.val hint (fresh s) = y at *
  have hyrail : getRail y t.val = getRail s t.val := getRail_congr (by rw [hfields]) _
  have hmem : SameMemory s y := by
    rw [hfields]
    exact sameMemory_of rfl rfl rfl rfl
  have hdict : y.dict = s.dict := by rw [hfields]
  have hout : y.out.vid = [] := by rw [hfields]
  cases ho : (getRail s t.val).outstanding with
  | none =>
    have hemit : vidSend t.val w y =
        modRail t.val (fun x => { x with outstanding := some w }) { y with out := { y.out with vid := y.out.vid ++ [w] } } := by
      rw [vidSend_emits (by rw [hyrail, ho]), vidEmit_plain (by rw [hkind]; decide)]
    rw [hemit, hout]
    refine ⟨congrArg (·.hints) htold, fun _ => ⟨w, rfl, ?_, hkind, hrail⟩, fun hne => absurd rfl hne, hdict, hmem⟩
    exact congrArg (·.outstanding) (getRail_modRail_same t.val (fun x => { x with outstanding := some w }) _)
  | some o =>
    rw [vidSend_waits (by rw [hyrail, ho]; nofun)]
    refine ⟨congrArg (·.hints) htold, fun hne => absurd hne (Option.some_ne_none o), fun _ => ⟨w, ?_, hkind, hout⟩, hdict, hmem⟩
    rw [← hyrail]
    exact congrArg (·.queued) (getRail_modRail_same t.val (fun x => { x with queued := x.queued ++ [w] }) y)

end

end Sys2Proof.Machine

/-! ## Proofs: the supply crosses its levels -/

namespace Sys2Proof.Machine

open Sys2Proof

/-! ### A tile enters Hold (R318, R319) -/

theorem side_holdPass (u p : Nat) (s : State) : Side s (holdPass u p s) := by
  unfold holdPass
  split
  · exact side_setForce _ _ _ _ s
  · split
    · exact side_setForce _ _ _ _ s
    · exact .refl s

theorem side_holdPasses (t : Nat) (s : State) : Side s (holdPasses t s) :=
  (side_foldl _ (fun x (e : Nat × Pass) => side_holdPass t e.1 x) _ s).trans
    (side_foldl _ (fun x (e : Nat × Nat × Pass) => side_holdPass e.1 e.2.1 x) _ _)

/-- Rails, tiles' power, the time and memory are as before, and the objects of Hold. -/
structure HoldKept (s s' : State) : Prop where
  parts : s'.rail = s.rail ∧ s'.ptile = s.ptile ∧ s'.time = s.time
  objs : ∀ u k, k = Obj.holdState ∨ k = Obj.holdEvents ∨ k = Obj.supplyResets → getObj s' u k = getObj s u k
  memory : SameMemory s s'

theorem HoldKept.refl (s : State) : HoldKept s s := ⟨⟨rfl, rfl, rfl⟩, fun _ _ _ => rfl, sameMemory_of rfl rfl rfl rfl⟩

theorem HoldKept.trans {a b c : State} (h : HoldKept a b) (h' : HoldKept b c) : HoldKept a c := by
  obtain ⟨hrail, htile, htime⟩ := h.parts
  obtain ⟨hrail', htile', htime'⟩ := h'.parts
  exact ⟨⟨hrail'.trans hrail, htile'.trans htile, htime'.trans htime⟩,
    fun u k hk => (h'.objs u k hk).trans (h.objs u k hk), h.memory.trans h'.memory⟩

/-- The objects of Hold are none of those that reporting, flushes and supply events write. -/
theorem holdObj_apart {k : Nat} (h : k = Obj.holdState ∨ k = Obj.holdEvents ∨ k = Obj.supplyResets) :
    k < 2 ^ 24 ∧ sideKey k = false ∧ k ≠ Obj.lastSupplyEvent ∧ k / 256 ≠ Obj.writeBacksSuperseded / 256 ∧ k ≠ flushObj 4 := by
  rcases h with rfl | rfl | rfl <;> decide

theorem Side.holdKept {s s' : State} (h : Side s s') : HoldKept s s' := by
  refine ⟨?_, fun u k hk => ?_, (h.calm (K := fun _ => false)).words.sameMemory⟩
  · rw [h.fields]
    exact ⟨rfl, rfl, rfl⟩
  · obtain ⟨hlt, hside, -⟩ := holdObj_apart hk
    exact h.objs u k hlt hside

theorem Flushes.holdKept {s s' : State} (h : Flushes 4 s s') : HoldKept s s' := by
  refine ⟨?_, fun u k hk => ?_, h.sameMemory⟩
  · rw [h.fields]
    exact ⟨rfl, rfl, rfl⟩
  · obtain ⟨hlt, -, -, hwb, hflush⟩ := holdObj_apart hk
    exact h.objs u k hlt hwb hflush

theorem holdKept_withholdTile (t : Nat) (s : State) : HoldKept s (withholdTile t s) :=
  ⟨⟨rfl, rfl, rfl⟩, fun _ _ _ => rfl, sameMemory_of rfl rfl rfl rfl⟩

theorem holdKept_supplyEvent (v : Nat) (s : State) : HoldKept s (setObj dev Obj.lastSupplyEvent v s) := by
  refine ⟨⟨rfl, rfl, rfl⟩, fun u k hk => ?_, sameMemory_of rfl rfl rfl rfl⟩
  obtain ⟨hlt, -, hne, -⟩ := holdObj_apart hk
  exact getObj_setObj_obj s hne hlt (by decide)

/-- What tells of a tile that has entered Hold, and keeps its requests and passes back. -/
theorem holdKept_told (t e : Nat) (s : State) : HoldKept s (holdPasses t (flushWhere t 4 (fun _ => true)
    (withholdTile t (ring t 5 (addLog t 0x08 1 stHold e 0 (setObj dev Obj.lastSupplyEvent e s)))))) :=
  (holdKept_supplyEvent e s).trans <| (((side_addLog _ _ _ _ _ _ _).trans (side_ring _ _ _)).holdKept).trans <|
    (holdKept_withholdTile t _).trans <| (flushes_flushWhere _ _ _ _).holdKept.trans (side_holdPasses t _).holdKept

/-- The registers of a tile that enters Hold. -/
def holdBegun (t rail mv : Nat) (s : State) : State :=
  bump t Obj.holdEvents 1 (setObj t Obj.holdState 1
    (modPTile t (fun p => { p with hold := true, holdFrom := s.time.elapsed, holdLow := mv, holdRail := rail }) s))

theorem enterHold_again {t : Nat} {s : State} (h : inHold s t = true) (rail mv : Nat) :
    HoldKept (modPTile t (fun p => { p with holdLow := min p.holdLow mv }) s) (enterHold t rail mv s) := by
  have hhold : (getPTile s t).hold = true := h
  rw [enterHold, if_pos hhold]
  exact (side_holdPasses t _).holdKept

theorem enterHold_new {t : Nat} {s : State} (h : inHold s t = false) (rail mv : Nat) :
    HoldKept (holdBegun t rail mv s) (enterHold t rail mv s) := by
  have hnot : ¬ (getPTile s t).hold = true := fun hold => Bool.false_ne_true (h.symm.trans hold)
  rw [enterHold, if_neg hnot]
  exact holdKept_told t _ _

/-- What Hold changes of a tile: its power, and the objects that show it. -/
def holdPart (t : Nat) (s : State) : PowerTile × Nat × Nat × Nat :=
  (getPTile s t, getObj s t Obj.holdState, getObj s t Obj.holdEvents, s.time.elapsed)

/-- A tile that enters Hold, or whose dip deepens. -/
def holdTaken (rail mv : Nat) (x : PowerTile × Nat × Nat × Nat) : PowerTile × Nat × Nat × Nat :=
  if x.1.hold then ({ x.1 with holdLow := min x.1.holdLow mv }, x.2)
  else ({ x.1 with hold := true, holdFrom := x.2.2.2, holdLow := mv, holdRail := rail }, 1, (x.2.2.1 + 1) % 2 ^ 32, x.2.2.2)

theorem HoldKept.holdPart {s s' : State} (h : HoldKept s s') (t : Nat) : holdPart t s' = holdPart t s := by
  obtain ⟨-, htile, htime⟩ := h.parts
  unfold Machine.holdPart getPTile
  rw [htile, htime, h.objs t _ (.inl rfl), h.objs t _ (.inr (.inl rfl))]

theorem hold_bits : objBits Obj.holdState = 8 ∧ objBits Obj.holdEvents = 32 ∧ objBits Obj.supplyResets = 32 := by
  decide +kernel

theorem getPTile_setObj (u k v : Nat) (s : State) (t : Nat) : getPTile (setObj u k v s) t = getPTile s t := rfl

theorem holdPart_holdBegun (t rail mv : Nat) (s : State) : holdPart t (holdBegun t rail mv s) =
    ({ getPTile s t with hold := true, holdFrom := s.time.elapsed, holdLow := mv, holdRail := rail }, 1,
      (getObj s t Obj.holdEvents + 1) % 2 ^ 32, s.time.elapsed) := by
  obtain ⟨hstate, hevents, -⟩ := hold_bits
  have htile : getPTile (holdBegun t rail mv s) t =
      { getPTile s t with hold := true, holdFrom := s.time.elapsed, holdLow := mv, holdRail := rail } := by
    rw [holdBegun, bump, getPTile_setObj, getPTile_setObj, getPTile_modPTile_same]
  have hst : getObj (holdBegun t rail mv s) t Obj.holdState = 1 := by
    rw [holdBegun, getObj_bump_obj _ _ _ _ (by decide), getObj_setObj_same, hstate]
    rfl
  have hev : getObj (holdBegun t rail mv s) t Obj.holdEvents = (getObj s t Obj.holdEvents + 1) % 2 ^ 32 := by
    rw [holdBegun, bump, getObj_setObj_same, hevents, getObj_setObj_obj _ (by decide) (by decide) (by decide)]
    rfl
  unfold holdPart
  rw [htile, hst, hev]
  rfl

theorem holdPart_modPTile_other {t u : Nat} (h : u ≠ t) (f : PowerTile → PowerTile) (s : State) :
    holdPart u (modPTile t f s) = holdPart u s := by
  unfold holdPart
  rw [getPTile_modPTile_other h]
  rfl

theorem holdPart_holdBegun_other {t u : Nat} (h : u ≠ t) (rail mv : Nat) (s : State) :
    holdPart u (holdBegun t rail mv s) = holdPart u s := by
  have hobj : ∀ k, k < 2 ^ 24 → getObj (holdBegun t rail mv s) u k = getObj s u k := fun k hk => by
    rw [holdBegun, bump, getObj_setObj_unit _ h hk (by decide), getObj_setObj_unit _ h hk (by decide)]
    rfl
  have htile : getPTile (holdBegun t rail mv s) u = getPTile s u := by
    rw [holdBegun, bump, getPTile_setObj, getPTile_setObj, getPTile_modPTile_other h]
  unfold holdPart
  rw [htile, hobj _ (by decide), hobj _ (by decide)]
  rfl

theorem holdPart_enterHold (t rail mv : Nat) (s : State) : holdPart t (enterHold t rail mv s) = holdTaken rail mv (holdPart t s) := by
  cases h : inHold s t with
  | true =>
    rw [(enterHold_again h rail mv).holdPart, holdTaken]
    refine Eq.trans ?_ (if_pos h).symm
    unfold holdPart
    rw [getPTile_modPTile_same]
    rfl
  | false =>
    have hnot : ¬ (holdPart t s).1.hold = true := fun hold => Bool.false_ne_true (h.symm.trans hold)
    rw [(enterHold_new h rail mv).holdPart, holdPart_holdBegun, holdTaken, if_neg hnot]
    rfl

theorem holdPart_enterHold_other {t u : Nat} (hne : u ≠ t) (rail mv : Nat) (s : State) :
    holdPart u (enterHold t rail mv s) = holdPart u s := by
  cases h : inHold s t with
  | true => rw [(enterHold_again h rail mv).holdPart, holdPart_modPTile_other hne]
  | false => rw [(enterHold_new h rail mv).holdPart, holdPart_holdBegun_other hne]

/-- Entering Hold changes no rail, no word of memory and no count of supply resets. -/
structure Crossed (s s' : State) : Prop where
  rail : s'.rail = s.rail
  resets : getObj s' dev Obj.supplyResets = getObj s dev Obj.supplyResets
  memory : SameMemory s s'

theorem Crossed.refl (s : State) : Crossed s s := ⟨rfl, rfl, sameMemory_of rfl rfl rfl rfl⟩

theorem Crossed.trans {a b c : State} (h : Crossed a b) (h' : Crossed b c) : Crossed a c :=
  ⟨h'.rail.trans h.rail, h'.resets.trans h.resets, h.memory.trans h'.memory⟩

theorem HoldKept.crossed {s s' : State} (h : HoldKept s s') : Crossed s s' :=
  ⟨h.parts.1, h.objs dev _ (.inr (.inr rfl)), h.memory⟩

theorem crossed_modPTile (t : Nat) (f : PowerTile → PowerTile) (s : State) : Crossed s (modPTile t f s) :=
  ⟨rfl, rfl, sameMemory_of rfl rfl rfl rfl⟩

theorem crossed_setObj {k : Nat} (hk : k < 2 ^ 24) (h : Obj.supplyResets ≠ k) (u v : Nat) (s : State) :
    Crossed s (setObj u k v s) :=
  ⟨rfl, getObj_setObj_obj s h (by decide) hk, sameMemory_of rfl rfl rfl rfl⟩

theorem crossed_enterHold (t rail mv : Nat) (s : State) : Crossed s (enterHold t rail mv s) := by
  cases h : inHold s t with
  | true => exact (crossed_modPTile t _ s).trans (enterHold_again h rail mv).crossed
  | false =>
    refine Crossed.trans ?_ (enterHold_new h rail mv).crossed
    exact ((crossed_modPTile t _ s).trans (crossed_setObj (by decide) (by decide) _ _ _)).trans
      (crossed_setObj (by decide) (by decide) _ _ _)

/-! ### The crossing of the warning level (R318) -/

theorem inHold_of_holdPart {s s' : State} {t rail mv : Nat} (h : holdPart t s' = holdTaken rail mv (holdPart t s)) :
    inHold s' t = true ∧ (inHold s t = false → getObj s' t Obj.holdState = 1 ∧ (getPTile s' t).holdFrom = s.time.elapsed ∧
      getObj s' t Obj.holdEvents = (getObj s t Obj.holdEvents + 1) % 2 ^ 32) := by
  cases hin : inHold s t with
  | true =>
    have htaken := h.trans (if_pos hin)
    obtain ⟨htile, -⟩ := Prod.mk.inj htaken
    refine ⟨?_, fun hf => absurd hf.symm Bool.false_ne_true⟩
    rw [inHold, htile]
    exact hin
  | false =>
    have hnot : ¬ (holdPart t s).1.hold = true := fun hold => Bool.false_ne_true (hin.symm.trans hold)
    have htaken := h.trans (if_neg hnot)
    obtain ⟨htile, hrest⟩ := Prod.mk.inj htaken
    obtain ⟨hstate, hrest⟩ := Prod.mk.inj hrest
    obtain ⟨hevents, -⟩ := Prod.mk.inj hrest
    refine ⟨?_, fun _ => ⟨hstate, ?_, hevents⟩⟩
    · rw [inHold, htile]
    · rw [htile]
      rfl

theorem crossed_forTiles {f : Nat → State → State} (hf : ∀ t x, Crossed x (f t x)) (s : State) : Crossed s (forTiles f s) := by
  unfold forTiles
  generalize List.range 64 = l
  induction l generalizing s with
  | nil => exact .refl s
  | cons t l ih => exact (hf t s).trans (ih _)

/-- The rail that a crossing has found low. -/
def railLow (r : Nat) (s : State) : State := modRail r (fun x => { x with lowAt := some s.time.elapsed }) s

theorem getRail_railLow (r : Nat) (s : State) : (getRail (railLow r s) r).lowAt = some s.time.elapsed := by
  rw [railLow, getRail_modRail_same]

/-- The tiles that a rail takes into Hold: its own, or all. -/
def tilesHeld (r mv : Nat) (s : State) : State :=
  if r < 64 then enterHold r r mv s else forTiles (fun t s => enterHold t r mv s) s

theorem crossed_tilesHeld (r mv : Nat) (s : State) : Crossed s (tilesHeld r mv s) := by
  unfold tilesHeld
  split
  · exact crossed_enterHold r r mv s
  · exact crossed_forTiles (fun t x => crossed_enterHold t r mv x) s

theorem holdPart_tilesHeld {t r : Nat} (ht : t < 64) (h : t = r ∨ 64 ≤ r) (mv : Nat) (s : State) :
    holdPart t (tilesHeld r mv s) = holdTaken r mv (holdPart t s) := by
  unfold tilesHeld
  split
  next hr =>
    obtain rfl : t = r := h.resolve_right (Nat.not_le.mpr hr)
    exact holdPart_enterHold t t mv s
  · exact forTiles_at ht (fun x => holdPart_enterHold t r mv x) (fun x u hu => holdPart_enterHold_other hu.symm r mv x) s

theorem holdPart_tilesHeld_other {t r : Nat} (h : t ≠ r) (hr : r < 64) (mv : Nat) (s : State) :
    holdPart t (tilesHeld r mv s) = holdPart t s := by
  rw [tilesHeld, if_pos hr]
  exact holdPart_enterHold_other h r mv s

section
variable {rail : RailN} {mv : Nat} {s : State}

theorem noEffect_supplyWarningCrossing (h : belowLevel s rail.val mv 940 = false) :
    NoEffect (.supplyWarningCrossing rail mv) s := by
  refine noEffect_run (exec_supplyWarningCrossing rail mv s) ?_
  have h' : ¬ belowLevel (fresh s) rail.val mv 940 = true := fun hb => Bool.false_ne_true (h.symm.trans hb)
  exact if_pos h'

theorem answers_supplyWarningCrossing (h : belowLevel s rail.val mv 940 = true) :
    Answers (.supplyWarningCrossing rail mv) s (fun s' =>
      (∀ t < 64, (t = rail.val ∨ 64 ≤ rail.val) → inHold s' t = true ∧ (inHold s t = false → getObj s' t Obj.holdState = 1 ∧
        (getPTile s' t).holdFrom = s.time.elapsed ∧
        getObj s' t Obj.holdEvents = (getObj s t Obj.holdEvents + 1) % 2 ^ 32)) ∧
      (∀ t < 64, t ≠ rail.val → rail.val < 64 → inHold s' t = inHold s t) ∧
      (getRail s' rail.val).lowAt = some s.time.elapsed ∧ SameMemory s s') := by
  refine answers_run (exec_supplyWarningCrossing rail mv s) ?_
  have hrun : warningCrossing rail.val mv (fresh s) = tilesHeld rail.val mv (railLow rail.val (fresh s)) := by
    refine if_neg (not_not_intro ?_)
    exact h
  rw [hrun]
  have hlow := getRail_railLow rail.val (fresh s)
  have hpart : ∀ t, holdPart t (railLow rail.val (fresh s)) = holdPart t s := fun _ => rfl
  have hmem : SameMemory s (railLow rail.val (fresh s)) := sameMemory_of rfl rfl rfl rfl
  generalize railLow rail.val (fresh s) = y at *
  have hcrossed := crossed_tilesHeld rail.val mv y
  have hown : ∀ t < 64, (t = rail.val ∨ 64 ≤ rail.val) →
      holdPart t (tilesHeld rail.val mv y) = holdTaken rail.val mv (holdPart t s) :=
    fun t ht hr => (holdPart_tilesHeld ht hr mv y).trans (by rw [hpart])
  have hother : ∀ t < 64, t ≠ rail.val → rail.val < 64 → holdPart t (tilesHeld rail.val mv y) = holdPart t s :=
    fun t _ hne hr => (holdPart_tilesHeld_other hne hr mv y).trans (hpart t)
  generalize tilesHeld rail.val mv y = z at hcrossed hown hother
  refine ⟨fun t ht hr => inHold_of_holdPart (s' := z) (hown t ht hr), fun t ht hne hr => ?_, ?_, hmem.trans hcrossed.memory⟩
  · exact congrArg (fun p => p.1.hold) (hother t ht hne hr)
  · exact (congrArg (·.lowAt) (getRail_congr hcrossed.rail rail.val)).trans hlow

/-! ### The crossing of the reset level (R318) -/

theorem noEffect_supplyResetCrossing (h : belowLevel s rail.val mv 880 = false) (hr : rail.val < 64) :
    NoEffect (.supplyResetCrossing rail mv) s := by
  refine noEffect_run (exec_supplyResetCrossing rail mv s hr) ?_
  have h' : ¬ belowLevel (fresh s) rail.val mv 880 = true := fun hb => Bool.false_ne_true (h.symm.trans hb)
  exact if_pos h'

/-- A tile that is to be reset once its rail is clear: what asks for it, and what counts it. -/
def resetAsked (r : Nat) (s : State) : State :=
  bump dev Obj.supplyResets 1 (modPTile r (fun p => { p with deferredReset := true }) s)

theorem getObj_resetAsked (r : Nat) (s : State) :
    getObj (resetAsked r s) dev Obj.supplyResets = (getObj s dev Obj.supplyResets + 1) % 2 ^ 32 := by
  obtain ⟨-, -, hbits⟩ := hold_bits
  rw [resetAsked, bump, getObj_setObj_same, hbits]
  rfl

theorem getPTile_resetAsked (r : Nat) (s : State) :
    getPTile (resetAsked r s) r = { getPTile s r with deferredReset := true } := by
  rw [resetAsked, bump, getPTile_setObj, getPTile_modPTile_same]

theorem resetCrossing_tile {s : State} {r mv : Nat} (h : belowLevel s r mv 880 = true) (hr : r < 64) :
    HoldKept (resetAsked r (enterHold r r mv (railLow r s))) (resetCrossing r mv s) := by
  have hrun : ∃ e, resetCrossing r mv s = budget 8 (addLog r 0x08 2 stOk e 0
      (setObj dev Obj.lastSupplyEvent e (resetAsked r (enterHold r r mv (railLow r s))))) :=
    ⟨_, (if_neg (not_not_intro h)).trans (if_neg (Nat.not_le.mpr hr))⟩
  obtain ⟨e, he⟩ := hrun
  rw [he]
  exact (holdKept_supplyEvent e _).trans ((side_addLog _ _ _ _ _ _ _).trans (side_budget 8 _ (by decide))).holdKept

theorem answers_supplyResetCrossing (h : belowLevel s rail.val mv 880 = true) (hr : rail.val < 64) :
    Answers (.supplyResetCrossing rail mv) s (fun s' =>
      (getPTile s' rail.val).deferredReset = true ∧ inHold s' rail.val = true ∧
      getObj s' dev Obj.supplyResets = (getObj s dev Obj.supplyResets + 1) % 2 ^ 32 ∧ SameMemory s s') := by
  refine answers_run (exec_supplyResetCrossing rail mv s hr) ?_
  have hkept := resetCrossing_tile (s := fresh s) h hr
  generalize resetCrossing rail.val mv (fresh s) = z at hkept
  have hcrossed := crossed_enterHold rail.val rail.val mv (railLow rail.val (fresh s))
  have hresets : getObj (railLow rail.val (fresh s)) dev Obj.supplyResets = getObj s dev Obj.supplyResets :=
    getObj_congr rfl dev _
  have hlow : SameMemory s (railLow rail.val (fresh s)) := sameMemory_of rfl rfl rfl rfl
  have hheld := (inHold_of_holdPart (holdPart_enterHold rail.val rail.val mv (railLow rail.val (fresh s)))).1
  generalize enterHold rail.val rail.val mv (railLow rail.val (fresh s)) = y at *
  have htile : getPTile z rail.val = { getPTile y rail.val with deferredReset := true } := by
    refine Eq.trans ?_ (getPTile_resetAsked rail.val y)
    rw [getPTile, hkept.parts.2.1]
    rfl
  have hcount : getObj z dev Obj.supplyResets = (getObj s dev Obj.supplyResets + 1) % 2 ^ 32 := by
    rw [hkept.objs dev _ (.inr (.inr rfl)), getObj_resetAsked, hcrossed.resets, hresets]
  have hasked : SameMemory y (resetAsked rail.val y) := sameMemory_of rfl rfl rfl rfl
  refine ⟨congrArg (·.deferredReset) htile, (congrArg (·.hold) htile).trans hheld, hcount, ?_⟩
  exact ((hlow.trans hcrossed.memory).trans hasked).trans hkept.memory

end

end Sys2Proof.Machine

/-! ## Proofs: Hold ends, and the power mode is written -/

namespace Sys2Proof.Machine

open Sys2Proof

/-! ### HOLD_EXIT (R319) -/

/-- The registers of a tile that leaves Hold. -/
def holdLeft (t : Nat) (s : State) : State :=
  bump t Obj.holdTime (s.time.elapsed - (getPTile s t).holdFrom) (setObj t Obj.holdLongest
    (max (getObj s t Obj.holdLongest) (s.time.elapsed - (getPTile s t).holdFrom))
    (setObj t Obj.holdState 0 (modPTile t (fun p => { p with hold := false, holdLow := 0, holdRail := 0 }) s)))

theorem leftHold_bits : objBits Obj.holdTime = 64 ∧ objBits Obj.holdLongest = 32 := by decide +kernel

theorem getPTile_holdLeft (t : Nat) (s : State) :
    getPTile (holdLeft t s) t = { getPTile s t with hold := false, holdLow := 0, holdRail := 0 } := by
  rw [holdLeft, bump, getPTile_setObj, getPTile_setObj, getPTile_setObj, getPTile_modPTile_same]

theorem getObj_modPTile (t : Nat) (f : PowerTile → PowerTile) (s : State) (u k : Nat) :
    getObj (modPTile t f s) u k = getObj s u k := rfl

theorem getObj_holdLeft (t : Nat) (s : State) :
    getObj (holdLeft t s) t Obj.holdState = 0 ∧
    getObj (holdLeft t s) t Obj.holdTime =
      (getObj s t Obj.holdTime + (s.time.elapsed - (getPTile s t).holdFrom)) % 2 ^ 64 ∧
    getObj (holdLeft t s) t Obj.holdLongest =
      max (getObj s t Obj.holdLongest) (s.time.elapsed - (getPTile s t).holdFrom) % 2 ^ 32 := by
  obtain ⟨htime, hlongest⟩ := leftHold_bits
  unfold holdLeft
  refine ⟨?_, ?_, ?_⟩
  · rw [getObj_bump_obj _ _ _ _ (by decide), getObj_setObj_obj _ (by decide) (by decide) (by decide), getObj_setObj_same,
      Nat.zero_mod]
  · rw [getObj_bump_same _ _ _ htime, getObj_setObj_obj _ (by decide) (by decide) (by decide),
      getObj_setObj_obj _ (by decide) (by decide) (by decide), getObj_modPTile]
  · rw [getObj_bump_obj _ _ _ _ (by decide), getObj_setObj_same, hlongest]

/-- What leaving Hold, and the work that goes on then, keep of a tile. -/
structure LeftKept (t : Nat) (s s' : State) : Prop where
  tile : getPTile s' t = getPTile s t
  objs : ∀ k, k = Obj.holdState ∨ k = Obj.holdTime ∨ k = Obj.holdLongest → getObj s' t k = getObj s t k
  memory : SameMemory s s'

theorem leftObj_apart {k : Nat} (h : k = Obj.holdState ∨ k = Obj.holdTime ∨ k = Obj.holdLongest) :
    k < 2 ^ 24 ∧ sideKey k = false ∧ k ≠ Obj.heldRequests := by
  rcases h with rfl | rfl | rfl <;> decide

theorem LeftKept.trans {t : Nat} {a b c : State} (h : LeftKept t a b) (h' : LeftKept t b c) : LeftKept t a c :=
  ⟨h'.tile.trans h.tile, fun k hk => (h'.objs k hk).trans (h.objs k hk), h.memory.trans h'.memory⟩

theorem Side.leftKept {s s' : State} (h : Side s s') (t : Nat) : LeftKept t s s' := by
  refine ⟨?_, fun k hk => ?_, (h.calm (K := fun _ => false)).words.sameMemory⟩
  · rw [h.fields]
    rfl
  · obtain ⟨hlt, hside, -⟩ := leftObj_apart hk
    exact h.objs t k hlt hside

theorem Roused.leftKept {t : Nat} {s w : State} (h : Roused t s w) : LeftKept t s w := by
  refine ⟨?_, fun k hk => ?_, ?_⟩
  · rw [h.fields]
    rfl
  · obtain ⟨hlt, -, hne⟩ := leftObj_apart hk
    exact h.objs t k hlt hne
  · rw [h.fields]
    exact sameMemory_of rfl rfl rfl rfl

theorem startMigrations_none {s : State} {t : Nat} (h : (getProt s t).queue = []) (n : Nat) : startMigrations n t s = s := by
  cases n with
  | zero => rfl
  | succ n =>
    unfold startMigrations
    rw [h]
    exact ite_self s

/-- With no step aimed at and no migration waiting, a tile that leaves Hold has its passes go on. -/
theorem leaveHold_quiet {s : State} {t : Nat} (htarget : (getPTile s t).target = none) (hprot : (getProt s t).queue = []) :
    leaveHold t s = holdPasses t (holdLeft t s) := by
  have hside := side_holdPasses t (holdLeft t s)
  have hrun : leaveHold t s = advanceStep t (startMigrations 64 t (holdPasses t (holdLeft t s))) := rfl
  have hleft := getPTile_holdLeft t s
  have hprot' : (getProt (holdLeft t s) t).queue = [] := hprot
  rw [hrun]
  generalize holdLeft t s = y at *
  have hqueue : (getProt (holdPasses t y) t).queue = [] := by
    rw [hside.fields]
    exact hprot'
  have hnone : (getPTile (holdPasses t y) t).target = none := by
    rw [(hside.leftKept t).tile, hleft]
    exact htarget
  rw [startMigrations_none hqueue, advanceStep_none hnone]

theorem switchApply_none {s : State} {t : Nat} (h : (getMap s t).switching = none) : switchApply t s = s := by
  unfold switchApply
  rw [h]
  exact ite_self s

section
variable {t : TileN} {s : State}

theorem noEffect_holdExit_running (h : inHold s t.val = false) : NoEffect (.holdExit t) s := by
  refine noEffect_run (exec_holdExit t s) ?_
  have h' : ¬ inHold (fresh s) t.val = true := fun hb => Bool.false_ne_true (h.symm.trans hb)
  exact if_pos h'

/-- Without a reset that waits, Hold ends once every rail that applies is clear. -/
theorem holdExit_plain {s : State} {t : Nat} (h : inHold s t = true) (hd : (getPTile s t).deferredReset = false) :
    holdExit t s = if (railsOf t).all (railClear s) = true then switchApply t (mapWake t (leaveHold t s)) else s := by
  unfold holdExit
  rw [h, hd]
  simp only [not_true_eq_false, if_false, Bool.false_eq_true, false_and, hd, not_false_eq_true, and_true]

theorem noEffect_holdExit_low (hd : (getPTile s t.val).deferredReset = false)
    (hlow : (railsOf t.val).all (railClear s) = false) : NoEffect (.holdExit t) s := by
  cases h : inHold s t.val with
  | false => exact noEffect_holdExit_running h
  | true =>
    refine noEffect_run (exec_holdExit t s) ((holdExit_plain (s := fresh s) h hd).trans (if_neg ?_))
    exact fun hb => Bool.false_ne_true (hlow.symm.trans hb)

theorem answers_holdExit (h : inHold s t.val = true) (hd : (getPTile s t.val).deferredReset = false)
    (hclear : (railsOf t.val).all (railClear s) = true) (htarget : (getPTile s t.val).target = none)
    (hprot : (getProt s t.val).queue = []) (hmap : Unneeded s t.val) (hquiet : mapQuiet s t.val)
    (hswitch : (getMap s t.val).switching = none) : Answers (.holdExit t) s (fun s' =>
      inHold s' t.val = false ∧ getObj s' t.val Obj.holdState = 0 ∧
      getObj s' t.val Obj.holdTime =
        (getObj s t.val Obj.holdTime + (s.time.elapsed - (getPTile s t.val).holdFrom)) % 2 ^ 64 ∧
      getObj s' t.val Obj.holdLongest =
        max (getObj s t.val Obj.holdLongest) (s.time.elapsed - (getPTile s t.val).holdFrom) % 2 ^ 32 ∧
      SameMemory s s') := by
  refine answers_run (exec_holdExit t s) ?_
  have hrun : holdExit t.val (fresh s) =
      switchApply t.val (mapWakeFor t.val none (holdPasses t.val (holdLeft t.val (fresh s)))) := by
    rw [holdExit_plain (s := fresh s) h hd, leaveHold_quiet (s := fresh s) htarget hprot]
    exact if_pos hclear
  obtain ⟨hstate, htime, hlongest⟩ := getObj_holdLeft t.val (fresh s)
  have htile := getPTile_holdLeft t.val (fresh s)
  have hside := side_holdPasses t.val (holdLeft t.val (fresh s))
  have hmem : SameMemory s (holdLeft t.val (fresh s)) := sameMemory_of rfl rfl rfl rfl
  have hmap0 : getMap (holdLeft t.val (fresh s)) t.val = getMap s t.val := rfl
  have hsched0 : (holdLeft t.val (fresh s)).sched = s.sched := rfl
  rw [hrun]
  generalize holdLeft t.val (fresh s) = y at *
  have hmap1 : getMap (holdPasses t.val y) t.val = getMap s t.val := by
    rw [hside.fields]
    exact hmap0
  have hsched1 : (holdPasses t.val y).sched = s.sched := by
    rw [hside.fields]
    exact hsched0
  have hkept1 := hside.leftKept t.val
  generalize holdPasses t.val y = x at *
  obtain ⟨w, hwake, hroused⟩ := mapWakeFor_unneeded (unneeded_congr hmap1 hmap) none
  have hsched2 : w.sched = s.sched := by
    rw [hroused.fields]
    exact hsched1
  have hsame : mapWakeFor t.val none x = w := hwake.trans (feedMap_quiet (mapQuiet_congr hsched2 hquiet))
  have hend : switchApply t.val w = w := switchApply_none (by rw [hroused.map, hmap1, hswitch])
  rw [hsame, hend]
  have hkept := hkept1.trans hroused.leftKept
  refine ⟨?_, (hkept.objs _ (.inl rfl)).trans hstate, (hkept.objs _ (.inr (.inl rfl))).trans htime,
    (hkept.objs _ (.inr (.inr rfl))).trans hlongest, hmem.trans hkept.memory⟩
  exact (congrArg (·.hold) hkept.tile).trans (congrArg (·.hold) htile)

end

end Sys2Proof.Machine

/-! ## Proofs: the power mode and the fixed steps -/

namespace Sys2Proof.Machine

open Sys2Proof

/-! ### PowerMode and FixedStep (R309) -/

theorem status_vidSend (r w : Nat) (s : State) : (vidSend r w s).out.status = s.out.status := by
  unfold vidSend
  split
  · rfl
  · obtain ⟨pt, hemit⟩ := vidEmit_fields r w s
    rw [hemit]

theorem status_advanceStep (t : Nat) (s : State) : (advanceStep t s).out.status = s.out.status := by
  unfold advanceStep
  dsimp only
  split
  · rfl
  · split
    · rfl
    · split
      · rfl
      · exact status_vidSend _ _ _

theorem status_aimStep (t n : Nat) (s : State) : (aimStep t n s).out.status = s.out.status := status_advanceStep t _

theorem status_forTiles {f : Nat → State → State} (hf : ∀ t x, (f t x).out.status = x.out.status) (s : State) :
    (forTiles f s).out.status = s.out.status := by
  unfold forTiles
  generalize List.range 64 = l
  induction l generalizing s with
  | nil => rfl
  | cons t l ih => exact (ih _).trans (hf t s)

theorem calm_holdFixed (s : State) : Calm (· == Obj.voltageSteps) s (holdFixed s) := by
  unfold holdFixed
  exact calm_forTiles _ (fun u x => calm_aimStep u (getObj x u Obj.fixedStep) x) s

theorem status_holdFixed (s : State) : (holdFixed s).out.status = s.out.status := by
  unfold holdFixed
  exact status_forTiles (fun u x => status_aimStep u (getObj x u Obj.fixedStep) x) s

theorem powerMode_bits : objBits Obj.powerMode = 8 ∧ objBits Obj.fixedStep = 8 := by decide +kernel

/-- An RWS object of 8 bits that is stored before steps are sent. -/
structure ModeStored (u k v : Nat) (s s' : State) : Prop where
  status : s'.out.status = stOk
  value : getObj s' u k = v
  memory : SameMemory s s'

theorem modeStored_storeRws {u k v : Nat} (hk : k < 2 ^ 24) (hside : sideKey k = false) (hv : v < 2 ^ objBits k) (s : State) :
    ModeStored u k v s (storeRws u k v s) := by
  have h := side_storeRws u k v s
  have hmem : SameMemory s (storeObj u k v s) := sameMemory_of rfl rfl rfl rfl
  refine ⟨h.status, ?_, hmem.trans (h.calm (K := fun _ => false)).words.sameMemory⟩
  exact (h.objs u k hk hside).trans (getObj_setObj_fits s hv)

theorem ModeStored.steps {u k v : Nat} {s y z : State} (h : ModeStored u k v s y) (hk : k < 2 ^ 24) (hside : sideKey k = false)
    (hne : k ≠ Obj.voltageSteps) (hcalm : Calm (· == Obj.voltageSteps) y z) (hstatus : z.out.status = y.out.status) :
    ModeStored u k v s z :=
  ⟨hstatus.trans h.status, (hcalm.objs u k hk (by simpa using hne) hside).trans h.value, h.memory.trans hcalm.words.sameMemory⟩

section
variable {t : TileN} {v : BitVec 8} {s : State}

theorem exec_powerMode : exec (.powerModeWrite t false v) s = run (writePowerMode v.toNat) s := exec_powerModeWrite t false v s

theorem exec_fixedStep : exec (.powerModeWrite t true v) s = run (writeFixedStep t.val v.toNat) s := exec_powerModeWrite t true v s

theorem refuses_powerMode_format (h : 1 < v.toNat) : Refuses (.powerModeWrite t false v) s stBadFormat :=
  refuses_run exec_powerMode (if_pos h)

theorem writesRws_powerMode (h : v.toNat = 0) : WritesRws (.powerModeWrite t false v) s dev Obj.powerMode 0 := by
  refine writesRws_run exec_powerMode ?_ (by decide) (by decide) (Nat.two_pow_pos _)
  rw [writePowerMode, h, if_neg (by decide), if_neg (by simp)]
  exact if_neg (by decide)

theorem refuses_powerMode_floor (h : v.toNat = 1) (hfloor : belowFloor s (fun u => getObj s u Obj.fixedStep) = true) :
    Refuses (.powerModeWrite t false v) s stRetry := by
  refine refuses_run exec_powerMode ?_
  rw [writePowerMode, h, if_neg (by decide)]
  exact if_pos ⟨rfl, hfloor⟩

theorem answers_powerMode (h : v.toNat = 1) (hfloor : belowFloor s (fun u => getObj s u Obj.fixedStep) = false) :
    Answers (.powerModeWrite t false v) s (fun s' =>
      s'.out.status = stOk ∧ getObj s' dev Obj.powerMode = 1 ∧ SameMemory s s') := by
  have hrun : writePowerMode v.toNat (fresh s) = holdFixed (storeRws dev Obj.powerMode 1 (fresh s)) := by
    have hnot : ¬ (1 = 1 ∧ belowFloor (fresh s) (fun u => getObj (fresh s) u Obj.fixedStep) = true) := fun hb =>
      Bool.false_ne_true (hfloor.symm.trans hb.2)
    rw [writePowerMode, h, if_neg (by decide), if_neg hnot]
    exact if_pos rfl
  refine answers_run exec_powerMode ?_
  rw [hrun]
  have hstored := modeStored_storeRws (u := dev) (k := Obj.powerMode) (v := 1) (by decide) (by decide)
    (by rw [powerMode_bits.1]; decide) (fresh s)
  generalize storeRws dev Obj.powerMode 1 (fresh s) = y at *
  obtain ⟨hstatus, hvalue, hmem⟩ := hstored.steps (z := holdFixed y) (by decide) (by decide) (by decide)
    (calm_holdFixed y) (status_holdFixed y)
  generalize holdFixed y = z at hstatus hvalue hmem
  exact ⟨hstatus, hvalue, hmem⟩

theorem refuses_fixedStep_format (h : 28 < v.toNat) : Refuses (.powerModeWrite t true v) s stBadFormat :=
  refuses_run exec_fixedStep (if_pos h)

variable (h : v.toNat ≤ 28)
include h

theorem fixedStep_fits : v.toNat < 2 ^ objBits Obj.fixedStep := by
  rw [powerMode_bits.2]
  omega

theorem writesRws_fixedStep (hmode : getObj s dev Obj.powerMode ≠ 1) :
    WritesRws (.powerModeWrite t true v) s t.val Obj.fixedStep v.toNat := by
  refine writesRws_run exec_fixedStep ?_ (by decide) (by simp) (fixedStep_fits h)
  have hmode' : getObj (fresh s) dev Obj.powerMode ≠ 1 := hmode
  rw [writeFixedStep, if_neg (by omega), if_neg fun hb => hmode' hb.1]
  exact if_neg hmode'

variable (hmode : getObj s dev Obj.powerMode = 1)
include hmode

theorem refuses_fixedStep_floor
    (hfloor : belowFloor s (fun u => if u = t.val then v.toNat else getObj s u Obj.fixedStep) = true) :
    Refuses (.powerModeWrite t true v) s stRetry := by
  refine refuses_run exec_fixedStep ?_
  rw [writeFixedStep, if_neg (by omega)]
  exact if_pos ⟨hmode, hfloor⟩

theorem answers_fixedStep
    (hfloor : belowFloor s (fun u => if u = t.val then v.toNat else getObj s u Obj.fixedStep) = false) :
    Answers (.powerModeWrite t true v) s (fun s' =>
      s'.out.status = stOk ∧ getObj s' t.val Obj.fixedStep = v.toNat ∧ SameMemory s s') := by
  have hrun : writeFixedStep t.val v.toNat (fresh s) =
      aimStep t.val v.toNat (storeRws t.val Obj.fixedStep v.toNat (fresh s)) := by
    have hmode' : getObj (fresh s) dev Obj.powerMode = 1 := hmode
    have hnot : ¬ (getObj (fresh s) dev Obj.powerMode = 1 ∧
        belowFloor (fresh s) (fun u => if u = t.val then v.toNat else getObj (fresh s) u Obj.fixedStep) = true) := fun hb =>
      Bool.false_ne_true (hfloor.symm.trans hb.2)
    rw [writeFixedStep, if_neg (by omega), if_neg hnot]
    exact if_pos hmode'
  refine answers_run exec_fixedStep ?_
  rw [hrun]
  have hstored := modeStored_storeRws (u := t.val) (k := Obj.fixedStep) (by decide) (by decide) (fixedStep_fits h) (fresh s)
  generalize storeRws t.val Obj.fixedStep v.toNat (fresh s) = y at *
  obtain ⟨hstatus, hvalue, hmem⟩ := hstored.steps (z := aimStep t.val v.toNat y) (by decide) (by decide) (by decide)
    (calm_aimStep _ _ y) (status_aimStep _ _ y)
  exact ⟨hstatus, hvalue, hmem⟩

end

/-- A supply that falls below the reset level of VAON or VSTK is a power-on (R318). -/
theorem exec_supplyResetCrossing_powerOn {rail : RailN} {mv : Nat} {s : State} (h : belowLevel s rail.val mv 880 = true)
    (hr : 64 ≤ rail.val) : exec (.supplyResetCrossing rail mv) s = exec .powerOnReset s := by
  have hrun : resetCrossing rail.val mv (fresh s) = powerOn (fresh s) :=
    (if_neg (not_not_intro h)).trans (if_pos hr)
  rw [exec_supplyResetCrossing_device rail mv s (Nat.not_lt.mpr hr), exec_powerOnReset, runTime, runTime, hrun]

/-- Settles O43: rail reports, the interface, settled steps, hints, the crossings, the end of Hold and the power mode. -/
theorem railsStepsAndHold : Obligations.RailsStepsAndHold := by
  unfold Obligations.RailsStepsAndHold
  refine ⟨fun w s => ⟨noEffect_railReport, answers_railReport rfl⟩,
    fun rail s => ⟨noEffect_railTelemetryLost, answers_railTelemetryLost, noEffect_vidCommandAck,
      fun o => answers_vidCommandAck⟩,
    fun t s => ⟨noEffect_stepSettled_none, fun a n d h => ⟨noEffect_stepSettled_early h, answers_stepSettled h⟩⟩,
    fun t i s => ⟨noEffect_hintLoadNotice_none, fun hint h =>
      ⟨noEffect_hintLoadNotice_early h, answers_hintLoadNotice h⟩⟩,
    fun rail mv s => ⟨noEffect_supplyWarningCrossing, fun h _ => answers_supplyWarningCrossing h,
      noEffect_supplyResetCrossing, fun h hr _ => answers_supplyResetCrossing h hr, exec_supplyResetCrossing_powerOn⟩,
    fun t s => ⟨noEffect_holdExit_running, noEffect_holdExit_low, ?_⟩,
    fun t v s => ⟨refuses_powerMode_format, writesRws_powerMode, fun h =>
      ⟨refuses_powerMode_floor h, answers_powerMode h⟩, refuses_fixedStep_format, writesRws_fixedStep, fun h hmode =>
      ⟨refuses_fixedStep_floor h hmode, answers_fixedStep h hmode⟩⟩⟩
  intro h hd hclear htarget hprot hheld hwait hqueue hjobs hquiet hswitch
  exact answers_holdExit h hd hclear htarget hprot ⟨hjobs, hheld, hwait, hqueue⟩ hquiet hswitch

end Sys2Proof.Machine

/-! ## Proofs: the elements of a row of a VOP -/

namespace Sys2Proof.Machine

open Sys2Proof

/-! ### Free values drawn one for each element (R171) -/

/-- What the elements of a list give with the free values from the `k`th on. -/
def drawn {α : Type} (g : Nat → α → Nat) : List α → Nat → List Nat
  | [], _ => []
  | a :: l, k => g (Config.freeValue k) a :: drawn g l (k + 1)

theorem length_drawn {α : Type} (g : Nat → α → Nat) (l : List α) (k : Nat) : (drawn g l k).length = l.length := by
  induction l generalizing k with
  | nil => rfl
  | cons a l ih => exact congrArg (· + 1) (ih (k + 1))

/-- Elements that each draw a value leave the state but for the number of values drawn. -/
theorem foldl_draw {α : Type} (g : Nat → α → Nat) (l : List α) (acc : List Nat) (s : State) :
    l.foldl (fun (acc : List Nat × State) a => (acc.1 ++ [g (draw acc.2).1 a], (draw acc.2).2)) (acc, s) =
      (acc ++ drawn g l s.free, { s with free := s.free + l.length }) := by
  induction l generalizing acc s with
  | nil => rw [List.foldl_nil, drawn, List.append_nil]; rfl
  | cons a l ih =>
    rw [List.foldl_cons, ih]
    refine Prod.ext ?_ ?_
    · exact List.append_assoc acc [_] _
    · change { s with free := s.free + 1 + l.length } = { s with free := s.free + (l.length + 1) }
      rw [Nat.add_assoc, Nat.add_comm 1]

theorem expRow_eq (two : Bool) (l : List Nat) (s : State) : expRow two l s =
    (drawn (fun v c => expCode two v c) l s.free, { s with free := s.free + l.length }) :=
  foldl_draw (fun v c => expCode two v c) l [] s

/-- An element of SMFIN under a running state. -/
def finCode (st v x : Nat) : Nat := f32Div (expOf false v (f32Diff x (bits st 0 32))) (bits st 32 32)

theorem softFin_eq (st : Nat) (l : List Nat) (s : State) : softFin st l s =
    if bits st 32 32 = 0 then (l.map (fun _ => 0), s)
    else (drawn (finCode st) l s.free, { s with free := s.free + l.length }) := by
  unfold softFin
  split
  · rfl
  · exact foldl_draw (finCode st) l [] s

theorem topBytes_eq (t r i : Nat) (s : State) : topBytes t r i s =
    (packCodes 64 ((topRow (voK r) (vopRow s t r i)).map (fun p => fld 32 32 p.2 + canonical p.1) ++
        drawn (fun v _ => v % 2 ^ 64) (List.range (voK r - (topRow (voK r) (vopRow s t r i)).length)) s.free),
      { s with free := s.free + (voK r - (topRow (voK r) (vopRow s t r i)).length) }) := by
  unfold topBytes
  dsimp only
  have hfold := foldl_draw (fun v (_ : Nat) => v % 2 ^ 64) (List.range (voK r - (topRow (voK r) (vopRow s t r i)).length)) [] s
  rw [List.length_range] at hfold
  rw [hfold]
  rfl

/-! ### The parts of the state that a row depends on -/

/-- The Slate, the Inkwells and the free values to come are the same. -/
structure SameData (s s' : State) : Prop where
  slate : s'.slate = s.slate
  inkwell : s'.inkwell = s.inkwell
  free : s'.free = s.free

section
variable {s s' : State} (h : SameData s s') (t r i : Nat)
include h

theorem slateRow_congr (base stride fmt n : Nat) : slateRow s' t base stride fmt n i = slateRow s t base stride fmt n i := by
  unfold slateRow
  dsimp only
  rw [slateNat_congr h.slate]

theorem vopRow_congr : vopRow s' t r i = vopRow s t r i := by
  unfold vopRow
  rw [inkRow_congr h.inkwell, slateRow_congr h]

theorem vopResults_congr : (vopResults t r i s').1 = (vopResults t r i s).1 := by
  have h2 : vopRow2 s' t r i = vopRow2 s t r i := slateRow_congr h t i _ _ _ _
  have h3 : vopRow3 s' t r i = vopRow3 s t r i := slateRow_congr h t i _ _ _ _
  unfold vopResults
  rw [vopRow_congr h, h2, h3, slateNat_congr h.slate]
  dsimp only
  split
  · rw [expRow_eq, expRow_eq, h.free]
  · rw [expRow_eq, expRow_eq, h.free]
  · rfl
  · rfl
  · rfl
  · rfl
  · rw [softFin_eq, softFin_eq, h.free]
    split <;> rfl

theorem topBytes_congr : (topBytes t r i s').1 = (topBytes t r i s).1 := by
  rw [topBytes_eq, topBytes_eq, vopRow_congr h, h.free]

end

/-! ### The lengths of rows (Table 8.9) -/

theorem length_slateRow (s : State) (t base stride fmt n i : Nat) : (slateRow s t base stride fmt n i).length = n := by
  unfold slateRow unpackCodes
  dsimp only
  rw [List.length_map, List.length_map, List.length_range]

theorem length_vopRow {s : State} {t r : Nat} (hlen : voKind r = 1 → voLen r ≤ 128) (i : Nat) :
    (vopRow s t r i).length = voLen r := by
  unfold vopRow
  split
  next hk =>
    have hmax := hlen hk
    rw [List.length_take, inkRow, List.length_map, List.length_range]
    omega
  · exact length_slateRow _ _ _ _ _ _ _

/-- A VOP that gives elements gives as many as its output row holds. -/
theorem length_vopResults {s : State} {t r : Nat} (hlen : voKind r = 1 → voLen r ≤ 128)
    (hcode : 1 ≤ voCode r ∧ voCode r ≤ 9 ∧ voCode r ≠ 7 ∧ voCode r ≠ 8) (i : Nat) :
    (vopResults t r i s).1.length = voOutLen r := by
  have hrow := length_vopRow (s := s) (t := t) hlen i
  have h2 : (vopRow2 s t r i).length = voLen r := length_slateRow _ _ _ _ _ _ _
  have h3 : (vopRow3 s t r i).length = voLen r := length_slateRow _ _ _ _ _ _ _
  unfold vopResults voOutLen
  dsimp only
  split
  next hc => rw [expRow_eq, length_drawn, hrow, hc]; rfl
  next hc => rw [expRow_eq, length_drawn, hrow, hc]; rfl
  next hc => rw [hc]; rfl
  next hc => rw [List.length_map, List.length_zip, hrow, h2, hc, Nat.min_self]; rfl
  next hc => rw [hc]; rfl
  next hc =>
    have hsize : ∀ (a b : List Nat), a.length = voLen r → b.length = voLen r →
        (((vopRow s t r i).zip (a.zip b)).map (fun p => f32Fma p.2.1 p.1 p.2.2)).length = voLen r := by
      intro a b ha hb
      rw [List.length_map, List.length_zip, List.length_zip, ha, hb, hrow, Nat.min_self, Nat.min_self]
    rw [hc]
    refine (hsize _ _ ?_ ?_).trans (by rfl)
    · split
      · exact h2
      · rw [List.length_map, hrow]
    · split
      · exact h3
      · rw [List.length_map, hrow]
  next h1 h2 h3 h4 h5 h6 =>
    have hne : voCode r ≠ 1 ∧ voCode r ≠ 2 ∧ voCode r ≠ 3 ∧ voCode r ≠ 4 ∧ voCode r ≠ 5 ∧ voCode r ≠ 6 :=
      ⟨h1, h2, h3, h4, h5, h6⟩
    have hlast : voCode r = 9 := by omega
    rw [softFin_eq, hlast]
    refine Eq.trans ?_ hrow
    split
    · exact List.length_map _
    · exact length_drawn _ _ _

end Sys2Proof.Machine

/-! ## Proofs: a VOP runs row by row -/

namespace Sys2Proof.Machine

open Sys2Proof

/-! ### Bad words that a write leaves (R88) -/

/-- No word of the Slate stands poisoned that did not before. -/
def FewerBad (s s' : State) : Prop := ∀ k, fget false s'.slatePois k = true → fget false s.slatePois k = true

theorem FewerBad.trans {a b c : State} (h : FewerBad a b) (h' : FewerBad b c) : FewerBad a c := fun k hk => h k (h' k hk)

theorem FewerBad.slateBad {s s' : State} (h : FewerBad s s') {t off n : Nat} (hb : slateBad s t off n = false) :
    slateBad s' t off n = false := by
  unfold Machine.slateBad at hb ⊢
  rw [List.any_eq_false] at hb ⊢
  exact fun i hi hbad => hb i hi (h _ hbad)

/-- A write of good bytes leaves no word poisoned that was not. -/
theorem fewerBad_slateMark (t off n : Nat) (s : State) : FewerBad s (slateMark t off n 0 s) := by
  unfold slateMark
  generalize List.range _ = l
  induction l generalizing s with
  | nil => exact fun _ hk => hk
  | cons i l ih =>
    refine FewerBad.trans (b := _) (fun k hk => ?_) (ih _)
    dsimp only at hk
    by_cases h : k = t * 2 ^ 20 + (off / 8 + i)
    · rw [h, fget_fset_same, Nat.zero_div, Nat.zero_mod, decide_eq_false (fun h0 => h0 rfl), Bool.false_or] at hk
      rw [h]
      exact (Bool.and_eq_true_iff.mp hk).1
    · rwa [fget_fset_other _ _ _ _ h] at hk

theorem fewerBad_slateWrite {s : State} (h : s.sramErr = []) (t off n data : Nat) :
    FewerBad s (slateWrite t off n data 0 s) := by
  intro k hk
  rw [slateWrite, slateTouch_clean h] at hk
  have hmark := fewerBad_slateMark t off n (slateBytes t off n data s) k hk
  rwa [slateBytes_fields] at hmark

/-! ### Rows that read no bad word (R280) -/

/-- Without changed words, no element of an Inkwell is poisoned. -/
theorem vopInkBad_clean {s : State} (h : s.sramErr = []) (t r i j : Nat) : vopInkBad s t r i j = false := by
  unfold vopInkBad sramPoisoned
  rw [h]
  exact Bool.and_false _

theorem vopBad_inputs {s : State} {t r i : Nat} (h : vopBad s t r i = false) {x : Nat × Nat} (hx : x ∈ vopInputs r i) :
    slateBad s t x.1 x.2 = false := by
  have hinputs := (Bool.or_eq_false_iff.mp h).1
  exact Bool.eq_false_iff.mpr (List.any_eq_false.mp hinputs x hx)

theorem vopBad_congr {s s' : State} (hs' : s'.sramErr = []) (h : FewerBad s s') {t r i : Nat}
    (hb : vopBad s t r i = false) : vopBad s' t r i = false := by
  unfold vopBad
  refine Bool.or_eq_false_iff.mpr ⟨List.any_eq_false.mpr fun x hx => ?_, List.any_eq_false.mpr fun j _ => ?_⟩
  · exact Bool.eq_false_iff.mp (h.slateBad (vopBad_inputs hb hx))
  · exact Bool.eq_false_iff.mp (vopInkBad_clean hs' t r i j)

/-- The place of an element in its row. -/
theorem elem_in_row {n w j : Nat} (h : j < n) : j * w / 8 + ((j * w + w + 7) / 8 - j * w / 8) ≤ elemBytes n w := by
  have hle : (j + 1) * w ≤ n * w := Nat.mul_le_mul_right w h
  rw [Nat.add_mul, Nat.one_mul] at hle
  unfold elemBytes ceilDiv
  rw [if_neg (by decide)]
  omega

theorem vopElemBad_clean {s : State} (hs : s.sramErr = []) {t r i j : Nat} (hj : j < voLen r)
    (h : vopBad s t r i = false) : vopElemBad s t r i j = false := by
  have hpart : ∀ base, (base + i * voSstride r, elemBytes (voLen r) (fmtBits (vopFmt r))) ∈ vopInputs r i →
      slateBad s t (base + i * voSstride r + j * fmtBits (vopFmt r) / 8)
        ((j * fmtBits (vopFmt r) + fmtBits (vopFmt r) + 7) / 8 - j * fmtBits (vopFmt r) / 8) = false := fun base hmem =>
    slateBad_part (vopBad_inputs h hmem) (elem_in_row hj)
  have hcase : ∀ (b : Bool) (x : Bool), (b = true → x = false) → (b && x) = false := by
    intro b x hx
    cases b with
    | false => rfl
    | true => exact hx rfl
  unfold vopElemBad
  dsimp only
  rw [vopInkBad_clean hs, Bool.or_false, Bool.or_eq_false_iff, Bool.or_eq_false_iff]
  refine ⟨⟨hcase _ _ fun hk => hpart _ ?_, hcase _ _ fun hu => hpart _ ?_⟩, hcase _ _ fun hu => hpart _ ?_⟩
  · simp [vopInputs, of_decide_eq_true hk]
  · simp [vopInputs, hu]
  · simp [vopInputs, hu]

/-- What a row of TOPK or SMACC gives depends on no bad word. -/
theorem vopOutBad_clean {s : State} (hs : s.sramErr = []) {t r i : Nat} (hop : voCode r = 7 ∨ voCode r = 8)
    (h : vopBad s t r i = false) : vopOutBad s t r i 0 = false := by
  have hall : [3, 5, 7, 8].contains (voCode r) = true := by
    rcases hop with hc | hc <;> rw [hc] <;> rfl
  have helem : (List.range (voLen r)).any (vopElemBad s t r i) = false :=
    List.any_eq_false.mpr fun j hj => Bool.eq_false_iff.mp (vopElemBad_clean hs (List.mem_range.mp hj) h)
  unfold vopOutBad
  rw [hall, if_pos rfl, helem, Bool.or_false]
  cases hu : vopUsesState r with
  | false => rfl
  | true => exact vopBad_inputs h (x := (voState r + 8 * i, 8)) (by simp [vopInputs, hu])

/-! ### One row -/

/-- Where the result of a row goes, and how many bytes it takes. -/
def vopPlace (r i : Nat) : Nat × Nat :=
  if voCode r = 8 then (voState r + 8 * i, 8)
  else (voDst r + i * voDstride r, if voCode r = 7 then 8 * voK r else rowBytes (voOutLen r) (voOfmt r) (voOscheme r))

/-- The bytes of a row's result. -/
def vopData (t r i : Nat) (s : State) : Nat :=
  if voCode r = 7 then (topBytes t r i s).1
  else if voCode r = 8 then softAcc (slateNat s t (voState r + 8 * i) 8) (vopRow s t r i)
  else (outRow 0xC (voOfmt r) (voCtrl r) (voOscheme r) {} (vopResults t r i s).1).1

/-- The elements that a row gives. -/
def vopGives (r : Nat) : Nat := if voCode r = 7 then voK r else voOutLen r

/-- What the issue of a VOP has checked of its descriptor. -/
structure VopForm (r : Nat) : Prop where
  code : 1 ≤ voCode r ∧ voCode r ≤ 9
  ink : voKind r = 1 → voLen r ≤ 128

theorem vopResults_state (t r i : Nat) (s : State) : ∃ k, (vopResults t r i s).2 = { s with free := k } := by
  unfold vopResults
  dsimp only
  split
  · rw [expRow_eq]; exact ⟨_, rfl⟩
  · rw [expRow_eq]; exact ⟨_, rfl⟩
  · exact ⟨s.free, rfl⟩
  · exact ⟨s.free, rfl⟩
  · exact ⟨s.free, rfl⟩
  · exact ⟨s.free, rfl⟩
  · rw [softFin_eq]
    split
    · exact ⟨s.free, rfl⟩
    · exact ⟨_, rfl⟩

/-- A row gives its elements and writes its result, good bytes where it reads no bad word. -/
theorem vopStep_eq {r : Nat} (hr : VopForm r) {s : State} (hs : s.sramErr = []) (t i : Nat) : ∃ c bad k,
    vopStep t r i s = (vopGives r, c, slateWrite t (vopPlace r i).1 (vopPlace r i).2 (vopData t r i s) bad { s with free := k }) ∧
    (vopBad s t r i = false → bad = 0) := by
  obtain ⟨hlo, hhi⟩ := hr.code
  unfold vopStep vopPlace vopData vopGives
  dsimp only
  by_cases h7 : voCode r = 7
  · have h8 : voCode r ≠ 8 := by omega
    rw [if_pos h7, if_pos h7, if_neg h8, if_pos h7, if_pos h7]
    obtain ⟨k, hk⟩ : ∃ k, (topBytes t r i s).2 = { s with free := k } := by
      rw [topBytes_eq]
      exact ⟨_, rfl⟩
    rw [hk]
    refine ⟨_, _, k, rfl, fun hb => ?_⟩
    exact if_neg (Bool.eq_false_iff.mp (vopOutBad_clean hs (.inl h7) hb))
  · rw [if_neg h7, if_neg h7, if_neg h7, if_neg h7]
    by_cases h8 : voCode r = 8
    · have hout : voOutLen r = 0 := by rw [voOutLen, h8]; rfl
      rw [if_pos h8, if_pos h8, if_pos h8, hout]
      refine ⟨_, _, s.free, rfl, fun hb => ?_⟩
      exact if_neg (Bool.eq_false_iff.mp (vopOutBad_clean hs (.inr h8) hb))
    · have hlen := length_vopResults (s := s) (t := t) hr.ink ⟨hlo, hhi, h7, h8⟩ i
      obtain ⟨k, hk⟩ := vopResults_state t r i s
      rw [if_neg h8, if_neg h8, if_neg h8, hlen, hk]
      refine ⟨_, _, k, rfl, fun hb => ?_⟩
      exact if_neg (Bool.eq_false_iff.mp hb)

theorem vopRead_clean {s : State} (h : s.sramErr = []) (t r i : Nat) : vopRead t r i s = s := by
  have hscrub : (vopInputs r i).foldl (fun s e => slateScrub t e.1 e.2 s) s = s :=
    foldl_id fun e _ => slateScrub_clean h t e.1 e.2
  unfold vopRead
  dsimp only
  rw [hscrub, readInk_clean h]
  exact ite_self s

end Sys2Proof.Machine

/-! ## Proofs: vector operations -/

namespace Sys2Proof.Machine

open Sys2Proof

/-! ### The rows of a VOP in order -/

/-- Only bytes of the places of some rows have changed, marks, and the number of values drawn. -/
structure RowsOnly (t r : Nat) (l : List Nat) (s y : State) : Prop where
  fields : y = { s with slate := y.slate, slatePois := y.slatePois, free := y.free }
  bytes : ∀ k, (∀ i ∈ l, k < t * 2 ^ 23 + (vopPlace r i).1 ∨ t * 2 ^ 23 + (vopPlace r i).1 + (vopPlace r i).2 ≤ k) →
    fget 0 y.slate k = fget 0 s.slate k

theorem RowsOnly.refl (t r : Nat) (s : State) : RowsOnly t r [] s s := ⟨rfl, fun _ _ => rfl⟩

theorem RowsOnly.cons {t r i : Nat} {l : List Nat} {s x y : State} (h : RowsOnly t r [i] s x) (h' : RowsOnly t r l x y) :
    RowsOnly t r (i :: l) s y := by
  refine ⟨by rw [h'.fields, h.fields], fun k hk => ?_⟩
  refine (h'.bytes k fun j hj => hk j (List.mem_cons_of_mem i hj)).trans (h.bytes k fun j hj => ?_)
  rw [List.mem_singleton.mp hj]
  exact hk i List.mem_cons_self

theorem RowsOnly.sramErr {t r : Nat} {l : List Nat} {s y : State} (h : RowsOnly t r l s y) : y.sramErr = s.sramErr := by
  rw [h.fields]

/-- A row is read, its result written, and its elements and flags are taken together with those before. -/
theorem vopRows_cons {r : Nat} (hr : VopForm r) {s : State} (hs : s.sramErr = []) (t i : Nat) (l : List Nat) (n : Nat)
    (c : FlagCount) (bad : Bool) : ∃ c1 x, RowsOnly t r [i] s x ∧ (vopBad s t r i = false → FewerBad s x) ∧
      slateNat x t (vopPlace r i).1 (vopPlace r i).2 = vopData t r i s % 2 ^ (8 * (vopPlace r i).2) ∧
      vopRows t r (i :: l) n c bad s = vopRows t r l (n + vopGives r) c1 (bad || vopBad s t r i) x := by
  obtain ⟨c1, b, k, hstep, hgood⟩ := vopStep_eq hr hs t i
  have hfree : ({ s with free := k } : State).sramErr = [] := hs
  have hwrite := slateOnly_slateWrite hfree t (vopPlace r i).1 (vopPlace r i).2 (vopData t r i s) b
  refine ⟨sumFlags c c1, slateWrite t (vopPlace r i).1 (vopPlace r i).2 (vopData t r i s) b { s with free := k },
    ⟨?_, fun j hj => ?_⟩, fun hb => ?_, slateNat_slateWrite hfree _ _ _ _ _, ?_⟩
  · rw [hwrite.fields]
  · exact hwrite.bytes j (hj i List.mem_cons_self)
  · rw [hgood hb]
    exact fewerBad_slateWrite hfree _ _ _ _
  · rw [vopRows]
    dsimp only
    rw [vopRead_clean hs, hstep]

/-- What the rows of a VOP do. -/
structure RowsDone (t r : Nat) (l : List Nat) (n : Nat) (bad : Bool) (s : State) (x : Nat × FlagCount × Bool × State) : Prop where
  count : x.1 = n + l.length * vopGives r
  rows : RowsOnly t r l s x.2.2.2
  stays : bad = true → x.2.2.1 = true
  good : bad = false → (∀ i ∈ l, vopBad s t r i = false) → x.2.2.1 = false

theorem vopRows_done {r : Nat} (hr : VopForm r) (t : Nat) (l : List Nat) (n : Nat) (c : FlagCount) (bad : Bool) (s : State)
    (hs : s.sramErr = []) : RowsDone t r l n bad s (vopRows t r l n c bad s) := by
  induction l generalizing n c bad s with
  | nil => exact ⟨by simp [vopRows], .refl t r s, fun h => h, fun h _ => h⟩
  | cons i l ih =>
    obtain ⟨c1, x, hrow, hfewer, -, heq⟩ := vopRows_cons hr hs t i l n c bad
    have hx : x.sramErr = [] := hrow.sramErr.trans hs
    obtain ⟨hcount, hrows, hstays, hgood⟩ := ih (n + vopGives r) c1 (bad || vopBad s t r i) x hx
    rw [heq]
    refine ⟨?_, hrow.cons hrows, fun hb => hstays (by rw [hb, Bool.true_or]), fun hb hall => ?_⟩
    · rw [hcount, List.length_cons, Nat.add_mul, Nat.one_mul]
      omega
    · have hi := hall i List.mem_cons_self
      refine hgood (by rw [hb, hi]; rfl) fun j hj => ?_
      exact vopBad_congr hx (hfewer hi) (hall j (List.mem_cons_of_mem i hj))

/-- The first row decides of a bad word. -/
theorem vopRows_firstBad {r : Nat} (hr : VopForm r) (t : Nat) {s : State} (hs : s.sramErr = []) (hrows : 1 ≤ voRows r)
    (hbad : vopBad s t r 0 = true) : (vopRows t r (List.range (voRows r)) 0 {} false s).2.2.1 = true := by
  obtain ⟨m, hm⟩ := Nat.exists_eq_add_of_le' hrows
  rw [hm, List.range_succ_eq_map]
  obtain ⟨c1, x, hrow, -, -, heq⟩ := vopRows_cons hr hs t 0 ((List.range m).map Nat.succ) 0 {} false
  rw [heq]
  exact (vopRows_done hr t _ _ _ _ x (hrow.sramErr.trans hs)).stays (by rw [hbad]; rfl)

/-- The result of a VOP of one row. -/
theorem vopRows_one {r : Nat} (hr : VopForm r) (t : Nat) {s : State} (hs : s.sramErr = []) (hrows : voRows r = 1) :
    slateNat (vopRows t r (List.range (voRows r)) 0 {} false s).2.2.2 t (vopPlace r 0).1 (vopPlace r 0).2 =
      vopData t r 0 s % 2 ^ (8 * (vopPlace r 0).2) := by
  obtain ⟨c1, x, -, -, hdata, heq⟩ := vopRows_cons hr hs t 0 [] 0 {} false
  rw [hrows, show List.range 1 = [0] from rfl, heq]
  exact hdata

/-! ### The places of rows in the Slate -/

/-- The rows of a VOP lie in the Slate. -/
def PlacesFit (r : Nat) : Prop := ∀ i < voRows r, (vopPlace r i).1 + (vopPlace r i).2 ≤ slateSize

theorem rowsFit_row {base rows stride n i : Nat} (h : rowsFit base rows stride n = true) (hi : i < rows) :
    base + i * stride + n ≤ slateSize := by
  have hfit := (of_decide_eq_true h).resolve_left (by omega)
  have hle : i * stride ≤ (rows - 1) * stride := Nat.mul_le_mul_right stride (by omega)
  omega

theorem vopForm_of_ok {s : State} {t r : Nat} (h : vopOk s t r = true) : VopForm r ∧ PlacesFit r := by
  unfold vopOk at h
  simp only [Bool.and_eq_true, decide_eq_true_eq] at h
  obtain ⟨⟨⟨⟨⟨⟨⟨⟨⟨⟨hcode, -⟩, -⟩, -⟩, -⟩, hsrc⟩, htop⟩, hout⟩, hstate⟩, -⟩, -⟩ := h
  refine ⟨⟨hcode, fun hk => ?_⟩, fun i hi => ?_⟩
  · rw [if_pos hk, Bool.and_eq_true, decide_eq_true_eq] at hsrc
    exact hsrc.1.1
  · unfold vopPlace
    by_cases h8 : voCode r = 8
    · rw [if_pos (.inl h8), decide_eq_true_eq] at hstate
      rw [if_pos h8]
      dsimp only
      omega
    · rw [if_neg h8] at hout ⊢
      by_cases h7 : voCode r = 7
      · rw [if_pos h7, Bool.and_eq_true] at htop
        rw [if_pos h7]
        exact rowsFit_row htop.2 hi
      · rw [if_neg h7, Bool.and_eq_true] at hout
        rw [if_neg h7]
        exact rowsFit_row hout.2 hi

/-- Bytes outside the rows of a VOP, in this tile or another. -/
theorem RowsOnly.otherSlate {t r : Nat} {s y : State} (h : RowsOnly t r (List.range (voRows r)) s y) (hfit : PlacesFit r) :
    OtherSlate s y t (fun o => ∃ i < voRows r, (vopPlace r i).1 ≤ o ∧ o < (vopPlace r i).1 + (vopPlace r i).2) := by
  intro u o ho hout
  refine h.bytes _ fun i hi => ?_
  have hi' := List.mem_range.mp hi
  have hend := hfit i hi'
  have hsize : slateSize = 2 ^ 23 := rfl
  rcases Nat.lt_trichotomy u t with hlt | rfl | hgt
  · have := Nat.mul_le_mul_right (2 ^ 23) (Nat.succ_le_of_lt hlt)
    omega
  · have hnot : ¬ ((vopPlace r i).1 ≤ o ∧ o < (vopPlace r i).1 + (vopPlace r i).2) := fun hin =>
      hout.resolve_left (fun hne => hne rfl) ⟨i, hi', hin⟩
    omega
  · have := Nat.mul_le_mul_right (2 ^ 23) (Nat.succ_le_of_lt hgt)
    omega

end Sys2Proof.Machine

/-! ## Proofs: vector operations are issued -/

namespace Sys2Proof.Machine

open Sys2Proof

/-! ### What a VOP leaves beside its rows (R171, R201) -/

theorem flagBits_lt (c : FlagCount) : flagBits c < 8 := by
  unfold flagBits
  split <;> split <;> split <;> decide

/-- The counts of conversion flags (Table 7.8). -/
abbrev flagCounts (t : Nat) : List (Nat × Nat) :=
  [(t, Obj.conversionInvalid), (t, Obj.conversionOverflows), (t, Obj.conversionUnderflows)]

theorem otherObjects_bump {u k : Nat} (n : Nat) (s : State) (hk : k < 2 ^ 24 := by decide) :
    OtherObjects s (bump u k n s) [(u, k)] :=
  otherObjects_set (s := s) (v := getObj s u k + n) rfl hk

theorem otherObjects_countFlags (t : Nat) (c : FlagCount) (s : State) : OtherObjects s (countFlags t c s) (flagCounts t) := by
  have hunf := (otherObjects_bump (u := t) (k := Obj.conversionUnderflows) c.unf s).mono (K' := flagCounts t) (by simp)
  have hovf := fun x => (otherObjects_bump (u := t) (k := Obj.conversionOverflows) c.ovf x).mono (K' := flagCounts t) (by simp)
  have hinv := fun x => (otherObjects_bump (u := t) (k := Obj.conversionInvalid) c.inv x).mono (K' := flagCounts t) (by simp)
  exact (hunf.trans (hovf _)).trans (hinv _)

theorem countFlags_fields (t : Nat) (c : FlagCount) (s : State) :
    countFlags t c s = { s with dict := (countFlags t c s).dict } := rfl

/-- The rows of a VOP counted, and the token of the vector unit withheld where its fraction asks for it. -/
def vopCounted (t n frac : Nat) (c : FlagCount) (y : State) : State :=
  meterToken t vectorToken frac (countEv t 0x0023 0 n (countFlags t c y))

theorem vopCounted_spec (t n frac : Nat) (c : FlagCount) (y : State) :
    (vopCounted t n frac c y) = { y with
      dict := (vopCounted t n frac c y).dict, count := (vopCounted t n frac c y).count
      withheld := (vopCounted t n frac c y).withheld } ∧ OtherObjects y (vopCounted t n frac c y) (flagCounts t) := by
  have hflags := countFlags_fields t c y
  have hobjs := otherObjects_countFlags t c y
  unfold vopCounted
  generalize countFlags t c y = x at *
  have hcount := countEv_fields t 0x0023 0 n x
  generalize countEv t 0x0023 0 n x = w at *
  have hmeter := meterToken_fields t vectorToken frac w
  generalize meterToken t vectorToken frac w = z at *
  have hdict : z.dict = x.dict := by rw [hmeter, hcount]
  exact ⟨by rw [hmeter, hcount, hflags], fun u k hk hn => (getObj_congr hdict u k).trans (hobjs u k hk hn)⟩

/-! ### The issue of a VOP (R222) -/

section
variable {t : TileN} {e : EngineN} {faults : List (BitVec 8)} {d : Desc} {rest : List Desc} {s : State}

/-- The descriptor of a VOP that has run. -/
def vopEnded (st n : Nat) (c : FlagCount) (d : Desc) : Desc :=
  { d with ended := true, status := st, count := n, flags := d.flags ||| flagBits c }

/-- What a VOP that has run its rows leaves: its descriptor, its rows, and counts. -/
theorem vop_ran {y z : State} {d' : Desc} {n frac : Nat} {c : FlagCount} {l : List Nat}
    (hrows : RowsOnly t.val d.raw l (taken s t.val e.val rest) y)
    (hz : z = sameTime s (pushProg t.val e.val d' (vopCounted t.val n frac c y))) : Ran s z t.val e.val rest d' ∧
      z.slate = y.slate ∧ OtherObjects s z (flagCounts t.val) ∧ z = { s with
        engine := z.engine, dict := z.dict, count := z.count, slate := z.slate, slatePois := z.slatePois
        free := z.free, withheld := z.withheld, out := {} } := by
  subst hz
  obtain ⟨hfields, hobjs⟩ := vopCounted_spec t.val n frac c y
  generalize vopCounted t.val n frac c y = x at *
  have hy := hrows.fields
  have hengine : x.engine = (taken s t.val e.val rest).engine := by rw [hfields, hy]
  have hdict : y.dict = s.dict := by rw [hy]; rfl
  refine ⟨(ran_pushProg hengine).sameTime, ?_, fun u k hk hn => ?_, ?_⟩
  · change x.slate = y.slate
    rw [hfields]
  · exact ((getObj_congr rfl u k).trans (hobjs u k hk hn)).trans (getObj_congr hdict u k)
  · rw [hfields, hy]
    rfl

theorem isVop {op : Nat} (hop : dOp d.raw = 4) (hcode : voCode d.raw = op) :
    (fun r => decide (dOp r = 4 ∧ voCode r = op)) d.raw = true := by simp [hop, hcode]

theorem vopOk_of_issuable (hi : Issuable s t.val e.val d rest) (hop : dOp d.raw = 4) : vopOk s t.val d.raw = true := by
  obtain ⟨-, -, hok⟩ := hi
  unfold descOk at hok
  rw [hop] at hok
  exact (Bool.and_eq_true_iff.mp hok).2

variable (hi : Issuable s t.val e.val d rest) (hop : dOp d.raw = 4) {op : Nat} (hcode : voCode d.raw = op)
include hi hop hcode

theorem vop_waits (h : tokenHeld s t.val vectorToken = true) : vop t.val e.val op faults (fresh s) = fresh s :=
  issueDesc_waits hi (isVop hop hcode) fun _ => if_pos h

theorem vop_starts (hd : d.started = false) (h : tokenHeld s t.val vectorToken = false) :
    vop t.val e.val op faults (fresh s) =
      let x := vopStart t.val (byteNats faults) (begun s d) (taken s t.val e.val rest)
      pushProg t.val e.val x.1 (meterToken t.val vectorToken (computeFraction (taken s t.val e.val rest) t.val) x.2) :=
  issueDesc_runs hi (isVop hop hcode) hd (if_neg (Bool.eq_false_iff.mp h))

/-- Without residue mismatches, a VOP that is issued runs its rows. -/
theorem vop_runs (hd : d.started = false) (h : tokenHeld s t.val vectorToken = false)
    (hfaults : ∀ f ∈ byteNats faults, f ≠ 0x10 ∧ f ≠ 0x11) :
    vop t.val e.val op faults (fresh s) =
      let x := vopRows t.val d.raw (List.range (voRows d.raw)) 0 {} false (taken s t.val e.val rest)
      pushProg t.val e.val (vopEnded (if x.2.2.1 then stPoisoned else stOk) x.1 x.2.1 (begun s d))
        (vopCounted t.val x.1 (computeFraction (taken s t.val e.val rest) t.val) x.2.1 x.2.2.2) := by
  have hnone : (byteNats faults).filter (fun p => p = 0x10 ∨ p = 0x11) = [] :=
    List.filter_eq_nil_iff.mpr fun f hf => by simpa using hfaults f hf
  rw [vop_starts hi hop hcode hd h, vopStart, hnone]
  rfl

end

end Sys2Proof.Machine

/-! ## Proofs: the commands of the vector unit -/

namespace Sys2Proof.Machine

open Sys2Proof

/-! ### A residue mismatch that is not the first (R172) -/

theorem vectorResidueFaults_bits : objBits Obj.vectorResidueFaults = 32 := by decide +kernel

theorem vopFault_spec (t point : Nat) (s : State) : (vopFault t point s).engine = s.engine ∧
    SameMemory s (vopFault t point s) ∧ getObj (vopFault t point s) t Obj.vectorResidueFaults =
      (getObj s t Obj.vectorResidueFaults + 1) % 2 ^ 32 := by
  have hbump : ∀ x : State, getObj (bump t Obj.vectorResidueFaults 1 x) t Obj.vectorResidueFaults =
      (getObj x t Obj.vectorResidueFaults + 1) % 2 ^ 32 := fun x => by
    rw [bump, getObj_setObj_same, vectorResidueFaults_bits]
  have hfields : ∀ x : State, (bump t Obj.vectorResidueFaults 1 x).engine = x.engine ∧
      SameMemory x (bump t Obj.vectorResidueFaults 1 x) := fun x => ⟨rfl, sameMemory_of rfl rfl rfl rfl⟩
  obtain ⟨x, hx⟩ : ∃ x, x = ({ s with vfault := fset 0 s.vfault t (s.time.elapsed + 1) } : State) := ⟨_, rfl⟩
  have hxengine : x.engine = s.engine := by rw [hx]
  have hxmem : SameMemory s x := by
    rw [hx]
    exact sameMemory_of rfl rfl rfl rfl
  have hxobj : getObj x t Obj.vectorResidueFaults = getObj s t Obj.vectorResidueFaults := getObj_congr (by rw [hx]) _ _
  obtain ⟨hengine, hmem⟩ := hfields x
  have hcount := hbump x
  unfold vopFault
  rw [← hx]
  generalize residueBits s point 0 = detail
  generalize bump t Obj.vectorResidueFaults 1 x = y at *
  have hside := side_addLog t 0x03 1 stResidueFault detail 3 y
  generalize addLog t 0x03 1 stResidueFault detail 3 y = z at hside
  refine ⟨?_, (hxmem.trans hmem).trans (hside.calm (K := fun _ => false)).words.sameMemory, ?_⟩
  · rw [hside.fields]
    exact hengine.trans hxengine
  · rw [hside.objs t _ (by decide) (by decide), hcount, hxobj]

section
variable {t : TileN} {e : EngineN} {faults : List (BitVec 8)} {d : Desc} {rest : List Desc} {s : State}
variable (hi : Issuable s t.val e.val d rest) (hop : dOp d.raw = 4) {op : Nat} (hcode : voCode d.raw = op)
  (hd : d.started = false) (htoken : tokenHeld s t.val vectorToken = false)
include hi hop hcode hd htoken

theorem vop_fails {p : Nat} {more : List Nat} (hf : byteNats faults = p :: more) (hp : p = 0x10 ∨ p = 0x11)
    (hold : vopTransient s t.val = false) : vop t.val e.val op faults (fresh s) =
      pushProg t.val e.val (vopFailed p (begun s d)) (meterToken t.val vectorToken
        (computeFraction (taken s t.val e.val rest) t.val) (vopFault t.val p (taken s t.val e.val rest))) := by
  have hfilter : (byteNats faults).filter (fun p => p = 0x10 ∨ p = 0x11) =
      p :: more.filter (fun p => p = 0x10 ∨ p = 0x11) := by
    rw [hf]
    exact List.filter_cons_of_pos (decide_eq_true hp)
  have hold' : ¬ vopTransient (taken s t.val e.val rest) t.val = true := Bool.eq_false_iff.mp hold
  rw [vop_starts hi hop hcode hd htoken, vopStart, hfilter]
  dsimp only
  rw [if_neg hold']

variable {cmd : Instr} (hcmd : exec cmd s = run (vop t.val e.val op faults) s)
include hcmd

theorem answers_vop_fails {p : Nat} {more : List Nat} (hf : byteNats faults = p :: more) (hp : p = 0x10 ∨ p = 0x11)
    (hold : vopTransient s t.val = false) : Answers cmd s (fun s' =>
      Ran s s' t.val e.val rest (vopFailed p (begun s d)) ∧ SameMemory s s' ∧
      getObj s' t.val Obj.vectorResidueFaults = (getObj s t.val Obj.vectorResidueFaults + 1) % 2 ^ 32) := by
  refine answers_run hcmd ?_
  rw [vop_fails hi hop hcode hd htoken hf hp hold]
  obtain ⟨hengine, hmem, hcount⟩ := vopFault_spec t.val p (taken s t.val e.val rest)
  have htaken : SameMemory s (taken s t.val e.val rest) := sameMemory_of rfl rfl rfl rfl
  generalize vopFault t.val p (taken s t.val e.val rest) = y at *
  have hmeter := meterToken_fields t.val vectorToken (computeFraction (taken s t.val e.val rest) t.val) y
  generalize meterToken t.val vectorToken (computeFraction (taken s t.val e.val rest) t.val) y = z at *
  have hz : SameMemory y z := by
    rw [hmeter]
    exact sameMemory_of rfl rfl rfl rfl
  refine ⟨(ran_pushProg (by rw [hmeter, hengine])).sameTime, (htaken.trans hmem).trans hz, ?_⟩
  exact (getObj_congr (s := y) (by rw [hmeter]; rfl) _ _).trans hcount

/-! ### A VOP that runs (R171, R280) -/

/-- What a VOP that runs leaves, by what its rows give. -/
structure VopLeft (s s' : State) (t e : Nat) (rest : List Desc) (d : Desc) (x : Nat × FlagCount × Bool × State) : Prop where
  ran : Ran s s' t e rest (vopEnded (if x.2.2.1 then stPoisoned else stOk) x.1 x.2.1 (begun s d))
  slate : s'.slate = x.2.2.2.slate
  bytes : OtherSlate s s' t
    (fun o => ∃ i < voRows d.raw, (vopPlace d.raw i).1 ≤ o ∧ o < (vopPlace d.raw i).1 + (vopPlace d.raw i).2)
  objs : OtherObjects s s' (flagCounts t)
  fields : s' = { s with
    engine := s'.engine, dict := s'.dict, count := s'.count, slate := s'.slate, slatePois := s'.slatePois
    free := s'.free, withheld := s'.withheld, out := {} }

theorem answers_vop_runs (hs : s.sramErr = []) (hfaults : ∀ f ∈ byteNats faults, f ≠ 0x10 ∧ f ≠ 0x11) :
    Answers cmd s (fun s' => VopLeft s s' t.val e.val rest d
      (vopRows t.val d.raw (List.range (voRows d.raw)) 0 {} false (taken s t.val e.val rest))) := by
  obtain ⟨hform, hfit⟩ := vopForm_of_ok (vopOk_of_issuable hi hop)
  have hrows := (vopRows_done hform t.val (List.range (voRows d.raw)) 0 {} false (taken s t.val e.val rest) hs).rows
  refine answers_run hcmd ?_
  rw [vop_runs hi hop hcode hd htoken hfaults]
  dsimp only
  generalize vopRows t.val d.raw (List.range (voRows d.raw)) 0 {} false (taken s t.val e.val rest) = x at *
  obtain ⟨z, hz⟩ : ∃ z, z = sameTime s (pushProg t.val e.val
    (vopEnded (if x.2.2.1 then stPoisoned else stOk) x.1 x.2.1 (begun s d))
    (vopCounted t.val x.1 (computeFraction (taken s t.val e.val rest) t.val) x.2.1 x.2.2.2)) := ⟨_, rfl⟩
  rw [← hz]
  obtain ⟨hran, hslate, hobjs, hfields⟩ := vop_ran hrows hz
  refine ⟨hran, hslate, fun u o ho hout => ?_, hobjs, hfields⟩
  rw [hslate]
  exact hrows.otherSlate hfit u o ho hout

end

/-- The bytes that a VOP writes, as its statement says them. -/
abbrev VopWritten (r op o : Nat) : Prop :=
  if op = 8 then voState r ≤ o ∧ o < voState r + 8 * voRows r
  else ∃ i < voRows r, voDst r + i * voDstride r ≤ o ∧
    o < voDst r + i * voDstride r + (if op = 7 then 8 * voK r else rowBytes (voOutLen r) (voOfmt r) (voOscheme r))

theorem vopWritten_of_place {r op o : Nat} (hcode : voCode r = op)
    (h : ∃ i < voRows r, (vopPlace r i).1 ≤ o ∧ o < (vopPlace r i).1 + (vopPlace r i).2) : VopWritten r op o := by
  obtain ⟨i, hi, hlo, hhi⟩ := h
  unfold VopWritten
  unfold vopPlace at hlo hhi
  rw [hcode] at hlo hhi
  by_cases h8 : op = 8
  · rw [if_pos h8] at hlo hhi ⊢
    dsimp only at hlo hhi
    omega
  · rw [if_neg h8] at hlo hhi ⊢
    exact ⟨i, hi, hlo, hhi⟩

section
variable {t : TileN} {e : EngineN} {faults : List (BitVec 8)} {d : Desc} {rest : List Desc} {s : State} {op : Nat}

theorem VopLeft.written {s' : State} {x : Nat × FlagCount × Bool × State} {t e : Nat} (h : VopLeft s s' t e rest d x)
    (hcode : voCode d.raw = op) : OtherSlate s s' t (VopWritten d.raw op) :=
  fun u o ho hout => h.bytes u o ho (hout.imp id fun hn hin => hn (vopWritten_of_place hcode hin))

/-- A VOP on a bad first row completes POISONED. -/
theorem vopLeft_bad {s' : State} {t e : Nat} (hform : VopForm d.raw) (hs : s.sramErr = []) (hrows : 1 ≤ voRows d.raw)
    (hbad : vopBad s t d.raw 0 = true)
    (h : VopLeft s s' t e rest d (vopRows t d.raw (List.range (voRows d.raw)) 0 {} false (taken s t e rest))) :
    ∃ fl n, Ran s s' t e rest { begun s d with
      ended := true, status := stPoisoned, flags := d.flags ||| fl, count := n } := by
  have hran := h.ran
  rw [vopRows_firstBad hform t (s := taken s t e rest) hs hrows hbad, if_pos rfl] at hran
  exact ⟨_, _, hran⟩

/-- A VOP on good rows completes OK, and counts the elements it gives. -/
theorem vopLeft_good {s' : State} {t e : Nat} (hform : VopForm d.raw) (hs : s.sramErr = [])
    (hgood : ∀ i < voRows d.raw, vopBad s t d.raw i = false)
    (h : VopLeft s s' t e rest d (vopRows t d.raw (List.range (voRows d.raw)) 0 {} false (taken s t e rest))) :
    ∃ fl, fl < 8 ∧ Ran s s' t e rest { begun s d with
      ended := true, status := stOk, flags := d.flags ||| fl, count := voRows d.raw * vopGives d.raw } := by
  have hdone := vopRows_done hform t (List.range (voRows d.raw)) 0 {} false (taken s t e rest) hs
  have hran := h.ran
  rw [hdone.good rfl (fun i hi => hgood i (List.mem_range.mp hi)), if_neg Bool.false_ne_true, hdone.count, List.length_range,
    Nat.zero_add] at hran
  exact ⟨_, flagBits_lt _, hran⟩

/-- The result of a VOP of one row. -/
theorem vopLeft_data {s' : State} {t e : Nat} (hform : VopForm d.raw) (hs : s.sramErr = []) (hrows : voRows d.raw = 1)
    (h : VopLeft s s' t e rest d (vopRows t d.raw (List.range (voRows d.raw)) 0 {} false (taken s t e rest))) :
    slateNat s' t (vopPlace d.raw 0).1 (vopPlace d.raw 0).2 = vopData t d.raw 0 s % 2 ^ (8 * (vopPlace d.raw 0).2) := by
  have hsame : SameData s (taken s t e rest) := ⟨rfl, rfl, rfl⟩
  have hdata : vopData t d.raw 0 (taken s t e rest) = vopData t d.raw 0 s := by
    unfold vopData
    rw [topBytes_congr hsame, vopResults_congr hsame, vopRow_congr hsame, slateNat_congr hsame.slate]
  rw [slateNat_congr h.slate, vopRows_one hform t (s := taken s t e rest) hs hrows, hdata]

/-- Each command of the vector unit issues a VOP of its code. -/
theorem exec_vop {cmd : Instr} (h : (op, cmd) ∈ ([(1, .exp t e faults), (2, .exp2 t e faults), (3, .max t e faults),
    (4, .max2 t e faults), (5, .sum t e faults), (6, .scale t e faults), (7, .topk t e faults), (8, .smacc t e faults),
    (9, .smfin t e faults)] : List (Nat × Instr))) : exec cmd s = run (vop t.val e.val op faults) s := by
  simp only [List.mem_cons, Prod.mk.injEq, List.not_mem_nil, or_false] at h
  rcases h with ⟨rfl, rfl⟩ | ⟨rfl, rfl⟩ | ⟨rfl, rfl⟩ | ⟨rfl, rfl⟩ | ⟨rfl, rfl⟩ | ⟨rfl, rfl⟩ | ⟨rfl, rfl⟩ | ⟨rfl, rfl⟩ | ⟨rfl, rfl⟩
  · exact exec_exp t e faults s
  · exact exec_exp2 t e faults s
  · exact exec_max t e faults s
  · exact exec_max2 t e faults s
  · exact exec_sum t e faults s
  · exact exec_scale t e faults s
  · exact exec_topk t e faults s
  · exact exec_smacc t e faults s
  · exact exec_smfin t e faults s

end

/-- The places and the data of a VOP of one row, by its code (R171, R172). -/
theorem vopRow_cases {r op t : Nat} {s s' : State} (hcode : voCode r = op)
    (h : slateNat s' t (vopPlace r 0).1 (vopPlace r 0).2 = vopData t r 0 s % 2 ^ (8 * (vopPlace r 0).2)) :
    (op = 8 → slateNat s' t (voState r) 8 = softAcc (slateNat s t (voState r) 8) (vopRow s t r 0) % 2 ^ 64) ∧
    (op = 7 → slateNat s' t (voDst r) (8 * voK r) = (topBytes t r 0 s).1 % 2 ^ (8 * (8 * voK r))) ∧
    (op ≠ 7 → op ≠ 8 → slateNat s' t (voDst r) (if op = 7 then 8 * voK r else rowBytes (voOutLen r) (voOfmt r) (voOscheme r)) =
      (outRow 0xC (voOfmt r) (voCtrl r) (voOscheme r) {} (vopResults t r 0 s).1).1 %
        2 ^ (8 * (if op = 7 then 8 * voK r else rowBytes (voOutLen r) (voOfmt r) (voOscheme r)))) := by
  unfold vopPlace vopData at h
  rw [hcode] at h
  refine ⟨fun h8 => ?_, fun h7 => ?_, fun h7 h8 => ?_⟩
  · rw [if_pos h8, if_neg (by omega), if_pos h8] at h
    exact h
  · rw [if_neg (by omega), if_pos h7, if_pos h7, Nat.zero_mul, Nat.add_zero] at h
    exact h
  · rw [if_neg h8, if_neg h7, if_neg h7, if_neg h8, Nat.zero_mul, Nat.add_zero] at h
    rw [if_neg h7]
    exact h

/-- Settles O29: by whether the vector unit has its token, then by residue mismatches and by bad words. -/
theorem vectorOperations : Obligations.VectorOperations := by
  unfold Obligations.VectorOperations
  intro t e faults d rest s cmd op hi hop hcode hs hd hmem
  have hcmd := exec_vop (s := s) hmem
  obtain ⟨hform, -⟩ := vopForm_of_ok (vopOk_of_issuable hi hop)
  have hgives : vopGives d.raw = if op = 7 then voK d.raw else voOutLen d.raw := by rw [vopGives, hcode]
  refine ⟨fun h => noEffect_run hcmd (vop_waits hi hop hcode h), fun hclean hgood => ?_, fun hclean hbad hrows => ?_,
    fun p more hf hp hold htoken => answers_vop_fails hi hop hcode hd htoken hcmd hf hp hold⟩
  · obtain ⟨htoken, hfaults⟩ := hclean
    refine (answers_vop_runs hi hop hcode hd htoken hcmd hs hfaults).imp fun s' h => ?_
    have hended := vopLeft_good hform hs hgood h
    rw [hgives] at hended
    have hdata := fun h1 => vopRow_cases hcode (vopLeft_data hform hs h1 h)
    exact ⟨hended, h.written hcode, fun h1 => (hdata h1).1, fun h1 => (hdata h1).2.1, fun h1 => (hdata h1).2.2, h.objs, h.fields⟩
  · obtain ⟨htoken, hfaults⟩ := hclean
    refine (answers_vop_runs hi hop hcode hd htoken hcmd hs hfaults).imp fun s' h => ?_
    exact ⟨vopLeft_bad hform hs hrows hbad h, h.written hcode, h.objs, h.fields⟩

end Sys2Proof.Machine

/-! ## Proofs: steps of a mover transfer within the Slate -/

namespace Sys2Proof.Machine

open Sys2Proof

/-! ### A transfer in progress on its channel (R208, R223) -/

/-- What a COPY or CONVERT of fields `r` needs to run on channel `m` of engine `e`: nothing else on the channel, and
SRAM words as they were stored. -/
structure MoveClear (s : State) (t e m r : Nat) : Prop where
  op : dOp r = 6 ∨ dOp r = 7
  engine : m / 2 = e
  side : b2n (dMoverB r) = m % 2
  alone : ∀ x ∈ (getEngine s t e).prog, onChannel m x = false
  clean : s.sramErr = []

/-- The tags of a list of requests rise, below `n`: each names one request. -/
def TagsRise (ops : List MoverOp) (n : Nat) : Prop :=
  ops.Pairwise (fun a b => a.tag < b.tag) ∧ ∀ o ∈ ops, o.tag < n

/-- The state `y` that a transfer between ranges of the Slate runs through, from the state `s` of its issue: its
descriptor and the requests of its channel. -/
structure Moving (s : State) (t e m : Nat) (rest : List Desc) (d : Desc) (l : List MoverOp) (y : State) : Prop where
  ran : Ran s y t e rest d
  ops : (getMover y t m).ops = l
  tags : TagsRise l (getMover y t m).nextTag
  transfers : ∀ o ∈ l, opTransfer o = true
  running : moverShut y t = false
  frame : y = { s with
    engine := y.engine, mover := y.mover, dict := y.dict, count := y.count
    slate := y.slate, slatePois := y.slatePois, out := {} }

/-- A step that leaves the Slate and every object alone. -/
structure Quiet (y y' : State) : Prop where
  slate : y'.slate = y.slate
  pois : y'.slatePois = y.slatePois
  dict : y'.dict = y.dict

theorem Quiet.refl (y : State) : Quiet y y := ⟨rfl, rfl, rfl⟩

theorem Quiet.trans {a b c : State} (h : Quiet a b) (h' : Quiet b c) : Quiet a c :=
  ⟨h'.slate.trans h.slate, h'.pois.trans h.pois, h'.dict.trans h.dict⟩

theorem Quiet.slateNat {y y' : State} (h : Quiet y y') (t off n : Nat) : slateNat y' t off n = slateNat y t off n :=
  slateNat_congr h.slate t off n

theorem Quiet.slateBad {y y' : State} (h : Quiet y y') (t off n : Nat) : slateBad y' t off n = slateBad y t off n := by
  unfold Machine.slateBad
  rw [h.pois]

section
variable {s : State} {t e m : Nat} {rest : List Desc} {d : Desc} {ops : List MoverOp} {y : State}

theorem MoveClear.onChannel (hc : MoveClear s t e m d.raw) (hd : d.ended = false) : onChannel m d = true := by
  have huses : usesMover (dOp d.raw) = true := by rcases hc.op with h | h <;> rw [h] <;> rfl
  simp [Machine.onChannel, huses, hd, hc.side]

theorem MoveClear.transferOf (hc : MoveClear s t e m d.raw) (h : Ran s y t e rest d) :
    transferOf y t m = if d.ended then none else some d := by
  rw [Machine.transferOf, hc.engine, h.prog, find?_append_last hc.alone]
  cases hd : d.ended
  · rw [if_pos (hc.onChannel hd)]
    rfl
  · simp [Machine.onChannel, hd]

theorem MoveClear.ran_upd (hc : MoveClear s t e m d.raw) (h : Ran s y t e rest d) (hd : d.ended = false)
    (f : Desc → Desc) : Ran s (updTransfer t m f y) t e rest (f d) := by
  obtain ⟨hengine, hother⟩ := h
  rw [updTransfer, hc.engine]
  refine ⟨?_, fun k hk => (fget_engine_modEngine hk _ y).trans (hother k hk)⟩
  rw [updProg, getEngine_modEngine, hengine]
  dsimp only
  rw [updFirst_append f hc.alone (hc.onChannel hd)]

theorem Moving.sramErr (h : Moving s t e m rest d ops y) (hc : MoveClear s t e m d.raw) : y.sramErr = [] := by
  rw [h.frame]
  exact hc.clean

theorem Moving.transferOps (h : Moving s t e m rest d ops y) : transferOps y t m = ops := by
  rw [Machine.transferOps, h.ops]
  exact List.filter_eq_self.mpr h.transfers

theorem Moving.canSend (h : Moving s t e m rest d ops y) {o : MoverOp} (ho : adSpace o.addr = 2) :
    canSend y t m o = true := by
  rw [Machine.canSend, h.running]
  simp [ho]

/-! ### What a step changes -/

theorem quiet_updTransfer (t m : Nat) (f : Desc → Desc) (y : State) : Quiet y (updTransfer t m f y) := ⟨rfl, rfl, rfl⟩

theorem quiet_modMover (t m : Nat) (f : MoverS → MoverS) (y : State) : Quiet y (modMover t m f y) := ⟨rfl, rfl, rfl⟩

/-- The descriptor in progress is changed. -/
theorem Moving.upd (h : Moving s t e m rest d ops y) (hc : MoveClear s t e m d.raw) (hd : d.ended = false)
    (f : Desc → Desc) : Moving s t e m rest (f d) ops (updTransfer t m f y) := by
  refine ⟨hc.ran_upd h.ran hd f, h.ops, h.tags, h.transfers, h.running, ?_⟩
  rw [h.frame]
  rfl

/-- The requests of the channel are changed. -/
theorem Moving.mod (h : Moving s t e m rest d ops y) (f : MoverS → MoverS) {ops' : List MoverOp}
    (hops : (f (getMover y t m)).ops = ops') (htags : TagsRise ops' (f (getMover y t m)).nextTag)
    (htransfers : ∀ o ∈ ops', opTransfer o = true) : Moving s t e m rest d ops' (modMover t m f y) := by
  refine ⟨h.ran, ?_, ?_, htransfers, h.running, ?_⟩
  · rw [getMover_modMover, hops]
  · rw [getMover_modMover]
    exact htags
  · rw [h.frame]
    rfl

/-- A request is put behind the others. -/
theorem Moving.addOp (h : Moving s t e m rest d ops y) {o : MoverOp} (ho : opTransfer o = true) :
    Moving s t e m rest d (ops ++ [{ o with tag := (getMover y t m).nextTag }]) (addOp t m o y) := by
  obtain ⟨hrise, hbelow⟩ := h.tags
  refine h.mod (fun x => { ops := x.ops ++ [{ o with tag := x.nextTag }], nextTag := x.nextTag + 1 }) ?_ ⟨?_, ?_⟩ ?_
  · dsimp only
    rw [h.ops]
  · exact List.pairwise_append.mpr ⟨hrise, List.pairwise_singleton _ _, fun a ha b hb => by
      rw [List.mem_singleton.mp hb]
      exact hbelow a ha⟩
  · intro a ha
    rcases List.mem_append.mp ha with hold | hnew
    · exact Nat.lt_succ_of_lt (hbelow a hold)
    · rw [List.mem_singleton.mp hnew]
      exact Nat.lt_succ_self _
  · intro a ha
    rcases List.mem_append.mp ha with hold | hnew
    · exact h.transfers a hold
    · rw [List.mem_singleton.mp hnew]
      exact ho

/-- Where tags rise, a request is the only one of its tag. -/
theorem map_tag {l l' : List MoverOp} {o : MoverOp} {n : Nat} (h : TagsRise (l ++ o :: l') n) (f : MoverOp → MoverOp) :
    (l ++ o :: l').map (fun x => if x.tag = o.tag then f x else x) = l ++ f o :: l' := by
  obtain ⟨-, hcons, hcross⟩ := List.pairwise_append.mp h.1
  have hl : ∀ x ∈ l, x.tag ≠ o.tag := fun x hx => Nat.ne_of_lt (hcross x hx o (by simp))
  have hl' : ∀ x ∈ l', x.tag ≠ o.tag := fun x hx => Nat.ne_of_gt (List.rel_of_pairwise_cons hcons hx)
  have hold : l.map (fun x => if x.tag = o.tag then f x else x) = l :=
    (List.map_congr_left fun x hx => if_neg (hl x hx)).trans (List.map_id' l)
  have hnew : l'.map (fun x => if x.tag = o.tag then f x else x) = l' :=
    (List.map_congr_left fun x hx => if_neg (hl' x hx)).trans (List.map_id' l')
  rw [List.map_append, List.map_cons, if_pos rfl, hold, hnew]

theorem TagsRise.replace {l l' : List MoverOp} {o o' : MoverOp} {n : Nat} (h : TagsRise (l ++ o :: l') n)
    (htag : o'.tag = o.tag) : TagsRise (l ++ o' :: l') n := by
  obtain ⟨hrise, hbelow⟩ := h
  have hmap : (l ++ o' :: l').map MoverOp.tag = (l ++ o :: l').map MoverOp.tag := by simp [htag]
  have hrise' : ((l ++ o' :: l').map MoverOp.tag).Pairwise (· < ·) := hmap ▸ List.pairwise_map.mpr hrise
  refine ⟨List.pairwise_map.mp hrise', fun x hx => ?_⟩
  have hmem : x.tag ∈ (l ++ o :: l').map MoverOp.tag := hmap ▸ List.mem_map_of_mem hx
  obtain ⟨z, hz, hzx⟩ := List.mem_map.mp hmem
  exact hzx ▸ hbelow z hz

theorem TagsRise.sublist {l l' : List MoverOp} {n : Nat} (h : TagsRise l n) (hsub : l'.Sublist l) : TagsRise l' n :=
  ⟨h.1.sublist hsub, fun o ho => h.2 o (hsub.subset ho)⟩

/-- One request of the channel is changed, by its tag. -/
theorem Moving.modOp {l l' : List MoverOp} {o : MoverOp} (h : Moving s t e m rest d (l ++ o :: l') y)
    {f : MoverOp → MoverOp} (htag : (f o).tag = o.tag) (huse : opTransfer (f o) = true) :
    Moving s t e m rest d (l ++ f o :: l') (modOp t m o.tag f y) := by
  refine h.mod (fun x => { x with ops := x.ops.map (fun x => if x.tag = o.tag then f x else x) }) ?_
    (h.tags.replace htag) fun x hx => ?_
  · dsimp only
    rw [h.ops, map_tag h.tags]
  · rcases List.mem_append.mp hx with hold | hnew
    · exact h.transfers x (List.mem_append_left _ hold)
    · rcases List.mem_cons.mp hnew with rfl | hlast
      · exact huse
      · exact h.transfers x (by simp [hlast])

/-- Requests are dropped. -/
theorem Moving.dropOps (h : Moving s t e m rest d ops y) (p : MoverOp → Bool) :
    Moving s t e m rest d (ops.filter (fun o => !p o)) (dropOps t m p y) :=
  h.mod (fun x => { x with ops := x.ops.filter (fun o => !p o) }) (by dsimp only; rw [h.ops])
    (h.tags.sublist List.filter_sublist) fun o ho => h.transfers o (List.mem_of_mem_filter ho)

/-- The first request is dropped, by its tag. -/
theorem Moving.dropHead {o : MoverOp} (h : Moving s t e m rest d (o :: ops) y) :
    Moving s t e m rest d ops (Machine.dropOps t m (fun x => decide (x.tag = o.tag)) y) := by
  have hrest : ops.filter (fun x => !decide (x.tag = o.tag)) = ops :=
    List.filter_eq_self.mpr fun x hx => by
      have := List.rel_of_pairwise_cons h.tags.1 hx
      simp
      omega
  have hdrop := h.dropOps (fun x => decide (x.tag = o.tag))
  rwa [List.filter_cons_of_neg (by simp), hrest] at hdrop

/-! ### The step of a channel (R223) -/

/-- What was read is used, by the operation. -/
def takeStep (t m : Nat) (d : Desc) (y : State) : Option State :=
  if dOp d.raw = 7 then convertTake t m d y else copyTake t m d y

/-- A write that has its response. -/
def opWritten (o : MoverOp) : Bool := o.use == .dst && opDone o

section
variable (h : Moving s t e m rest d ops y) (hc : MoveClear s t e m d.raw) (hd : d.ended = false)
include h hc hd

theorem moverStep_wrote {o : MoverOp} (ho : ops.find? opWritten = some o) :
    moverStep t m y = some (wroteOp t m d o y) := by
  have hop : dOp d.raw ≠ 1 := by rcases hc.op with h | h <;> rw [h] <;> decide
  have hfind : ops.find? (fun o => o.use == .dst && opDone o) = some o := ho
  simp only [moverStep, hc.transferOf h.ran, hd, Bool.false_eq_true, if_false, hop, h.transferOps, hfind]

theorem moverStep_takes {y' : State} (hw : ∀ o ∈ ops, opWritten o = false) (ht : takeStep t m d y = some y') :
    moverStep t m y = some y' := by
  have hop : dOp d.raw ≠ 1 := by rcases hc.op with h | h <;> rw [h] <;> decide
  have hfind : ops.find? (fun o => o.use == .dst && opDone o) = none :=
    List.find?_eq_none.mpr fun o ho => by rw [← opWritten, hw o ho]; exact Bool.false_ne_true
  have htake : (if dOp d.raw = 7 then convertTake t m d y else copyTake t m d y) = some y' := ht
  simp only [moverStep, hc.transferOf h.ran, hd, Bool.false_eq_true, if_false, hop, h.transferOps, hfind, htake]

theorem moverStep_sends {y' : State} (hw : ∀ o ∈ ops, opWritten o = false) (ht : takeStep t m d y = none)
    (hsend : sendStep t m y = some y') : moverStep t m y = some y' := by
  have hop : dOp d.raw ≠ 1 := by rcases hc.op with h | h <;> rw [h] <;> decide
  have hfind : ops.find? (fun o => o.use == .dst && opDone o) = none :=
    List.find?_eq_none.mpr fun o ho => by rw [← opWritten, hw o ho]; exact Bool.false_ne_true
  have htake : (if dOp d.raw = 7 then convertTake t m d y else copyTake t m d y) = none := ht
  simp only [moverStep, hc.transferOf h.ran, hd, Bool.false_eq_true, if_false, hop, h.transferOps, hfind, htake, hsend]

theorem moverStep_reads {y' : State} (hw : ∀ o ∈ ops, opWritten o = false) (ht : takeStep t m d y = none)
    (hsend : sendStep t m y = none) (hnext : nextRead t m d y = some y') : moverStep t m y = some y' := by
  have hop : dOp d.raw ≠ 1 := by rcases hc.op with h | h <;> rw [h] <;> decide
  have hfind : ops.find? (fun o => o.use == .dst && opDone o) = none :=
    List.find?_eq_none.mpr fun o ho => by rw [← opWritten, hw o ho]; exact Bool.false_ne_true
  have htake : (if dOp d.raw = 7 then convertTake t m d y else copyTake t m d y) = none := ht
  simp only [moverStep, hc.transferOf h.ran, hd, Bool.false_eq_true, if_false, hop, h.transferOps, hfind, htake, hsend,
    hnext]

end

/-- With no request left and none to make, the transfer ends. -/
theorem moverStep_ends (h : Moving s t e m rest d [] y) (hc : MoveClear s t e m d.raw) (hd : d.ended = false)
    (hnext : nextRead t m d y = none) : moverStep t m y = some (endTransfer t m id y) := by
  have hop : dOp d.raw ≠ 1 := by rcases hc.op with h | h <;> rw [h] <;> decide
  have hsend : sendStep t m y = none := by simp [sendStep, h.ops, outstanding]
  have htake : (if dOp d.raw = 7 then convertTake t m d y else copyTake t m d y) = none := by
    simp [convertTake, copyTake, h.transferOps]
  simp only [moverStep, hc.transferOf h.ran, hd, Bool.false_eq_true, if_false, hop, h.transferOps, List.find?_nil, htake,
    hsend, hnext, if_true]

theorem moverStep_ended (h : Ran s y t e rest d) (hc : MoveClear s t e m d.raw) (hd : d.ended = true) :
    moverStep t m y = none := by
  simp only [moverStep, hc.transferOf h, hd, if_true]

/-! ### Steps of the pump, counted -/

/-- `n` steps of the pump take `y` to `y'`. -/
def Pumps (t m n : Nat) (y y' : State) : Prop :=
  ∀ fuel, pumpLoop (moverStep t m) (n + fuel) y = pumpLoop (moverStep t m) fuel y'

theorem Pumps.refl (t m : Nat) (y : State) : Pumps t m 0 y y := fun fuel => by rw [Nat.zero_add]

theorem Pumps.trans {n n' : Nat} {a b c : State} (h : Pumps t m n a b) (h' : Pumps t m n' b c) :
    Pumps t m (n + n') a c := fun fuel => by rw [Nat.add_assoc, h, h']

theorem Pumps.step {y' : State} (h : moverStep t m y = some y') : Pumps t m 1 y y' := fun fuel => by
  rw [Nat.add_comm, pumpLoop_next h]

end

end Sys2Proof.Machine

/-! ## Proofs: requests of a transfer reach the Slate -/

namespace Sys2Proof.Machine

open Sys2Proof

section
variable {s : State} {t e m : Nat} {rest : List Desc} {d : Desc} {y : State}

/-! ### A response with OK reaches its request -/

theorem find?_tag {l l' : List MoverOp} {o : MoverOp} {n : Nat} (h : TagsRise (l ++ o :: l') n) :
    (l ++ o :: l').find? (fun x => decide (x.tag = o.tag)) = some o := by
  obtain ⟨-, -, hcross⟩ := List.pairwise_append.mp h.1
  have hnone : l.find? (fun x => decide (x.tag = o.tag)) = none := List.find?_eq_none.mpr fun x hx => by
    have := hcross x hx o (by simp)
    simp
    omega
  rw [List.find?_append, hnone, Option.none_or, List.find?_cons_of_pos (by simp)]

theorem Moving.arrive {l l' : List MoverOp} {o : MoverOp} (h : Moving s t e m rest d (l ++ o :: l') y)
    (hc : MoveClear s t e m d.raw) (hd : d.ended = false) {x : Reply} (o' : MoverOp) (htag : x.tag = o.tag)
    (hst : x.status = stOk) (hfill : x.fill = false) :
    Moving s t e m rest d (l ++ answered x o :: l') (arriveTransfer t m o' x y) ∧
    Quiet y (arriveTransfer t m o' x y) := by
  have hdone := h.modOp (f := answered x) rfl (h.transfers o (by simp))
  have hup := hdone.upd hc hd (fun d' => { d' with filled := d'.filled || x.fill })
  have heq : arriveTransfer t m o' x y = updTransfer t m (fun d' => { d' with filled := d'.filled || x.fill })
      (Machine.modOp t m o.tag (answered x) y) := by
    rw [arriveTransfer, takeOp_ok hst, htag]
    change (match (getMover (updTransfer t m (fun d' => { d' with filled := d'.filled || x.fill })
      (Machine.modOp t m o.tag (answered x) y)) t m).ops.find? (fun z => decide (z.tag = (answered x o).tag)) with
      | none => _
      | some z => _) = _
    rw [hup.ops, find?_tag hup.tags]
    exact if_pos (.inr rfl)
  rw [heq]
  exact ⟨by simpa only [hfill, Bool.or_false] using hup, (quiet_modMover _ _ _ _).trans (quiet_updTransfer _ _ _ _)⟩

/-! ### Requests that leave (R152, R217) -/

/-- A request that reads the Slate, as its data are there. -/
def readDone (y : State) (t : Nat) (o : MoverOp) : MoverOp :=
  { o with
    at_ := .done stOk, sends := o.sends + 1, data := slateNat y t (adLow o.addr) o.len
    pois := slatePoisMask y t (adLow o.addr) o.len }

/-- A request that writes the Slate, as it is done. -/
def storeDone (o : MoverOp) : MoverOp := { o with at_ := .done stOk, sends := o.sends + 1 }

theorem outstanding_none {l : List MoverOp} (hl : (getMover y t m).ops = l)
    (h : ∀ o ∈ l, opOut o = false ∧ opRetry o = false) : outstanding (getMover y t m) = 0 := by
  rw [outstanding, hl, List.length_eq_zero_iff, List.filter_eq_nil_iff]
  intro o ho
  simp [(h o ho).1, (h o ho).2]

/-- Each request is unsent or has its response. -/
def Settled (l : List MoverOp) : Prop := ∀ o ∈ l, opOut o = false ∧ opRetry o = false

theorem settled_done {l : List MoverOp} (h : ∀ o ∈ l, o.at_ = .done stOk) : Settled l := fun o ho => by
  simp [opOut, opRetry, h o ho]

/-- No request is sent where each has its response. -/
theorem sendStep_none {l : List MoverOp} (hl : (getMover y t m).ops = l) (h : ∀ o ∈ l, o.at_ = .done stOk) :
    sendStep t m y = none := by
  have hnone : ∀ w, l.find? (fun o => opTransfer o && opUnsent o && (o.use == .dst) == w) = none := fun w =>
    List.find?_eq_none.mpr fun o ho => by simp [opUnsent, h o ho]
  have hout := outstanding_none hl (settled_done h)
  unfold sendStep
  dsimp only
  rw [if_neg (by omega), hl, hnone, hnone]
  rfl

/-- Of reads that have their responses but the last, that one is sent. -/
theorem sendStep_read {l : List MoverOp} {o : MoverOp} (hl : (getMover y t m).ops = l ++ [o])
    (h : ∀ x ∈ l, x.at_ = .done stOk) (ho : opTransfer o = true) (hat : o.at_ = .unsent) (huse : (o.use == .dst) = false)
    (hcan : canSend y t m o = true) : sendStep t m y = some (sendTransfer t m o y) := by
  have hold : ∀ w, l.find? (fun o => opTransfer o && opUnsent o && (o.use == .dst) == w) = none := fun w =>
    List.find?_eq_none.mpr fun x hx => by simp [opUnsent, h x hx]
  have hw : (l ++ [o]).find? (fun o => opTransfer o && opUnsent o && (o.use == .dst) == true) = none := by
    rw [List.find?_append, hold, Option.none_or, List.find?_cons_of_neg (by simp [huse]), List.find?_nil]
  have hr : (l ++ [o]).find? (fun o => opTransfer o && opUnsent o && (o.use == .dst) == false) = some o := by
    rw [List.find?_append, hold, Option.none_or, List.find?_cons_of_pos (by simp [huse, ho, opUnsent, hat])]
  have hout := outstanding_none hl fun x hx => by
    rcases List.mem_append.mp hx with hx | hx
    · exact settled_done h x hx
    · rw [List.mem_singleton.mp hx]
      simp [opOut, opRetry, hat]
  unfold sendStep
  dsimp only
  rw [if_neg (by omega), hl, hw, hr, Option.filter_some_pos hcan]
  rfl

/-- Of unsent writes the first is sent. -/
theorem sendStep_write {l : List MoverOp} {o : MoverOp} (hl : (getMover y t m).ops = o :: l)
    (h : ∀ x ∈ o :: l, x.at_ = .unsent) (huse : o.use = .dst) (hcan : canSend y t m o = true) :
    sendStep t m y = some (sendTransfer t m o y) := by
  have ho : opTransfer o = true := by rw [opTransfer, huse]
  have hw : (o :: l).find? (fun o => opTransfer o && opUnsent o && (o.use == .dst) == true) = some o :=
    List.find?_cons_of_pos (by simp [huse, ho, opUnsent, h o])
  have hout := outstanding_none hl fun x hx => by simp [opOut, opRetry, h x hx]
  unfold sendStep
  dsimp only
  rw [if_neg (by omega), hl, hw, Option.filter_some_pos hcan]

/-- A read of good words of the Slate is answered at once. -/
theorem sendOp_readSlate {o : MoverOp} (huse : o.use ≠ .barrier) (hspace : adSpace o.addr = 2) (hw : o.write = false)
    (hs : y.sramErr = []) (hgood : slateBad y t (adLow o.addr) o.len = false) :
    sendOp t m o y = (some (slateReply y t o), opSent t m o y) := by
  have hop : slateOp t o (opSent t m o y) = (slateReply y t o, opSent t m o y) := by
    have hclean : (opSent t m o y).sramErr = [] := hs
    have hstatus : slateStatus (opSent t m o y) t (adLow o.addr) o.len = stOk := slateStatus_clean hclean hgood
    rw [slateOp, hw, if_neg Bool.false_ne_true, hstatus, slateScrub_clean hclean]
    rfl
  rw [sendOp, if_neg huse, if_pos hspace]
  change (some (slateOp t o (opSent t m o y)).1, (slateOp t o (opSent t m o y)).2) = _
  rw [hop]

/-- A write of the Slate is done at once. -/
theorem sendOp_writeSlate {o : MoverOp} (huse : o.use ≠ .barrier) (hspace : adSpace o.addr = 2) (hw : o.write = true) :
    sendOp t m o y = (some { tag := o.tag, status := stOk, write := true },
      slateWrite t (adLow o.addr) o.len o.data o.pois (opSent t m o y)) := by
  rw [sendOp, if_neg huse, if_pos hspace]
  change (some (slateOp t o (opSent t m o y)).1, (slateOp t o (opSent t m o y)).2) = _
  rw [slateOp, hw]
  rfl

/-- The read that is sent last has its data at once. -/
theorem Moving.sendsRead {l : List MoverOp} {o : MoverOp} (h : Moving s t e m rest d (l ++ [o]) y)
    (hc : MoveClear s t e m d.raw) (hd : d.ended = false) (hl : ∀ x ∈ l, x.at_ = .done stOk)
    (hat : o.at_ = .unsent) (huse : (o.use == .dst) = false) (hw : o.write = false) (hspace : adSpace o.addr = 2)
    (hgood : slateBad y t (adLow o.addr) o.len = false) :
    ∃ y', sendStep t m y = some y' ∧ Moving s t e m rest d (l ++ [readDone y t o]) y' ∧ Quiet y y' := by
  have ho := h.transfers o (by simp)
  have hbar : o.use ≠ .barrier := fun heq => by simp [opTransfer, heq] at ho
  have hout := h.modOp (f := fun o => { o with at_ := .out, sends := o.sends + 1 }) rfl ho
  obtain ⟨harrived, hquiet⟩ := hout.arrive hc hd (x := slateReply y t o) o rfl rfl rfl
  refine ⟨_, sendStep_read h.ops hl ho hat huse (h.canSend hspace), ?_⟩
  rw [sendTransfer, sendOp_readSlate hbar hspace hw (h.sramErr hc) hgood]
  dsimp only
  have hdone : answered (slateReply y t o) { o with at_ := .out, sends := o.sends + 1 } = readDone y t o := by
    simp [answered, readDone, hw, slateReply]
  rw [hdone] at harrived
  exact ⟨harrived, (quiet_modMover _ _ _ y).trans hquiet⟩

/-- Of the Slate only the bytes of a range have changed, and no word more is poisoned. -/
structure Wrote (t off n : Nat) (y y' : State) : Prop where
  bytes : ∀ k, k < t * 2 ^ 23 + off ∨ t * 2 ^ 23 + off + n ≤ k → fget 0 y'.slate k = fget 0 y.slate k
  good : FewerBad y y'

theorem Wrote.trans {off n : Nat} {a b c : State} (h : Wrote t off n a b) (h' : Wrote t off n b c) : Wrote t off n a c :=
  ⟨fun k hk => (h'.bytes k hk).trans (h.bytes k hk), h.good.trans h'.good⟩

theorem Wrote.within {off n off' n' : Nat} {a b : State} (h : Wrote t off n a b) (hlo : off' ≤ off)
    (hhi : off + n ≤ off' + n') : Wrote t off' n' a b := ⟨fun k hk => h.bytes k (by omega), h.good⟩

theorem Wrote.slateNat {off n lo k : Nat} {a b : State} (h : Wrote t off n a b) (hout : lo + k ≤ off ∨ off + n ≤ lo) :
    slateNat b t lo k = slateNat a t lo k := slateNat_outside fun i hi => h.bytes _ (by omega)

theorem Quiet.wrote {a b : State} (h : Quiet a b) (off n : Nat) : Wrote t off n a b :=
  ⟨fun k _ => by rw [h.slate], fun k hk => by rwa [← h.pois]⟩

theorem Moving.store {l : List MoverOp} (h : Moving s t e m rest d l y) (hs : y.sramErr = []) (off n data : Nat) :
    Moving s t e m rest d l (slateWrite t off n data 0 y) ∧ Wrote t off n y (slateWrite t off n data 0 y) ∧
      (slateWrite t off n data 0 y).dict = y.dict := by
  have honly := slateOnly_slateWrite hs t off n data 0
  have hgood := fewerBad_slateWrite hs t off n data
  generalize slateWrite t off n data 0 y = z at *
  obtain ⟨hz, hbytes⟩ := honly
  refine ⟨⟨h.ran.congr (by rw [hz]), ?_, ?_, h.transfers, ?_, ?_⟩, ⟨hbytes, hgood⟩, by rw [hz]⟩
  · rw [getMover_congr (s := y) (by rw [hz]), h.ops]
  · rw [getMover_congr (s := y) (by rw [hz])]
    exact h.tags
  · rw [hz]
    exact h.running
  · rw [hz, h.frame]

/-- The write that is sent is done at once. -/
theorem Moving.sendsWrite {l : List MoverOp} {o : MoverOp} (h : Moving s t e m rest d (o :: l) y)
    (hc : MoveClear s t e m d.raw) (hd : d.ended = false) (hat : ∀ x ∈ o :: l, x.at_ = .unsent)
    (huse : o.use = .dst) (hw : o.write = true) (hspace : adSpace o.addr = 2) (hpois : o.pois = 0) :
    ∃ y', sendStep t m y = some y' ∧ Moving s t e m rest d (storeDone o :: l) y' ∧ y'.dict = y.dict ∧
      Wrote t (adLow o.addr) o.len y y' ∧ slateNat y' t (adLow o.addr) o.len = o.data % 2 ^ (8 * o.len) := by
  have ho : opTransfer o = true := h.transfers o (by simp)
  have hbar : o.use ≠ .barrier := by rw [huse]; decide
  have hout := Moving.modOp (l := []) h (f := fun o => { o with at_ := .out, sends := o.sends + 1 }) rfl ho
  have hquiet : Quiet y (opSent t m o y) := quiet_modMover _ _ _ _
  change Moving s t e m rest d _ (opSent t m o y) at hout
  refine ⟨_, sendStep_write h.ops hat huse (h.canSend hspace), ?_⟩
  rw [sendTransfer, sendOp_writeSlate hbar hspace hw, hpois]
  dsimp only
  generalize opSent t m o y = z at *
  obtain ⟨hstored, hwrote, hdict⟩ := hout.store (hout.sramErr hc) (adLow o.addr) o.len o.data
  have hdata := slateNat_slateWrite (hout.sramErr hc) t (adLow o.addr) o.len o.data 0
  generalize slateWrite t (adLow o.addr) o.len o.data 0 z = w at *
  obtain ⟨harrived, hlast⟩ := Moving.arrive (l := []) hstored hc hd
    (x := { tag := o.tag, status := stOk, write := true }) o rfl rfl rfl
  have hdone : answered { tag := o.tag, status := stOk, write := true } { o with at_ := .out, sends := o.sends + 1 } =
      storeDone o := by
    simp [answered, storeDone, hw]
  rw [hdone] at harrived
  exact ⟨harrived, hlast.dict.trans (hdict.trans hquiet.dict),
    ((hquiet.wrote _ _).trans hwrote).trans (hlast.wrote _ _), (hlast.slateNat _ _ _).trans hdata⟩

end

end Sys2Proof.Machine

/-! ## Proofs: a transfer writes a range of the Slate -/

namespace Sys2Proof.Machine

open Sys2Proof

/-! ### The requests that write a range (R223) -/

/-- A request, not yet sent, that writes the bytes of `data` from `lo` on to the Slate, `base` bytes further on. -/
structure PutAt (base data lo : Nat) (o : MoverOp) : Prop where
  use : o.use = .dst
  write : o.write = true
  unsent : o.at_ = .unsent
  space : adSpace o.addr = 2
  low : adLow o.addr = base + lo
  data : o.data = bits data (8 * lo) (8 * o.len)
  pois : o.pois = 0

/-- Requests that write the bytes of `data` from `lo` to `hi`, in order. -/
def Puts (base data hi : Nat) : Nat → List MoverOp → Prop
  | lo, [] => lo = hi
  | lo, o :: l => PutAt base data lo o ∧ Puts base data hi (lo + o.len) l

theorem Puts.le {base data hi lo : Nat} {l : List MoverOp} (h : Puts base data hi lo l) : lo ≤ hi := by
  induction l generalizing lo with
  | nil => exact Nat.le_of_eq h
  | cons o l ih => exact Nat.le_trans (Nat.le_add_right _ _) (ih h.2)

/-- Requests that are not yet sent, all of them writes. -/
def Unsent (l : List MoverOp) : Prop := ∀ o ∈ l, o.use = .dst ∧ o.at_ = .unsent

theorem Puts.unsent {base data hi lo : Nat} {l : List MoverOp} (h : Puts base data hi lo l) : Unsent l := by
  induction l generalizing lo with
  | nil => exact fun o ho => absurd ho (by simp)
  | cons o l ih =>
    obtain ⟨hput, hrest⟩ := h
    intro x hx
    rcases List.mem_cons.mp hx with rfl | hx
    · exact ⟨hput.use, hput.unsent⟩
    · exact ih hrest x hx

theorem Unsent.append {l l' : List MoverOp} (h : Unsent l) (h' : Unsent l') : Unsent (l ++ l') := fun o ho =>
  (List.mem_append.mp ho).elim (h o) (h' o)

theorem bits_of_zero (lo n : Nat) : bits 0 lo n = 0 := by
  rw [bits, Nat.zero_div, Nat.zero_mod]

/-- The request for one cut of a range that is written. -/
def cutOp (d : Desc) (data bad detail : Nat) (x : Nat × Nat × Nat) : MoverOp :=
  { tag := 0, use := .dst, addr := x.1, len := x.2.2, write := true, pass := dPass d.raw
    data := bits data (8 * x.2.1) (8 * x.2.2), pois := bits bad x.2.1 x.2.2
    detail := if dOp d.raw = 5 then detail else detail + x.2.1 }

/-- The 2,048-byte blocks that a range meets. -/
def blocksMet (off n : Nat) : Nat := if n = 0 then 0 else (off + n + 2047) / 2048 - off / 2048

theorem blocksMet_le (off n : Nat) : blocksMet off n ≤ n / 2048 + 2 := by
  unfold blocksMet
  split <;> omega

theorem blocksMet_succ {off n : Nat} (hn : 0 < n) :
    blocksMet (off + min n (2048 - off % 2048)) (n - min n (2048 - off % 2048)) + 1 ≤ blocksMet off n := by
  unfold blocksMet
  split <;> rw [if_neg (by omega)] <;> omega

section
variable {s : State} {t e m : Nat} {rest : List Desc} {d0 : Desc}

theorem Moving.cuts (d : Desc) (data detail base : Nat) (z : State) (fuel : Nat) {addr off n : Nat}
    {ops : List MoverOp} {y : State} (h : Moving s t e m rest d0 ops y) (hfuel : n < fuel) (hspace : adSpace addr = 2)
    (hlow : adLow addr = base + off) (hrange : adLow addr + n ≤ slateSize) :
    ∃ l, Moving s t e m rest d0 (ops ++ l) ((cutRange z (dPass d.raw) fuel addr off n).foldl
        (fun y x => Machine.addOp t m (cutOp d data 0 detail x) y) y) ∧
      Quiet y ((cutRange z (dPass d.raw) fuel addr off n).foldl (fun y x => Machine.addOp t m (cutOp d data 0 detail x) y) y) ∧
      Puts base data (off + n) off l ∧ l.length ≤ blocksMet (adLow addr) n := by
  induction fuel generalizing addr off n ops y with
  | zero => exact absurd hfuel (Nat.not_lt_zero n)
  | succ fuel ih =>
    rcases Nat.eq_zero_or_pos n with rfl | hn
    · exact ⟨[], by rw [List.append_nil]; exact h, .refl y, rfl, Nat.zero_le _⟩
    · have hk := requestLen_slate (s := z) (po := dPass d.raw) hspace hn
      have hsize : slateSize = 2 ^ 23 := rfl
      have hnext : adLow (adPlus addr (requestLen z (dPass d.raw) addr n)) =
          base + (off + requestLen z (dPass d.raw) addr n) := by
        rw [adLow_adPlus (by omega), hlow, Nat.add_assoc]
      rw [cutRange, if_neg (by omega)]
      dsimp only
      obtain ⟨l, hmoving, hquiet, hputs, hlen⟩ := ih
        (h.addOp (o := cutOp d data 0 detail (addr, off, requestLen z (dPass d.raw) addr n)) rfl)
        (addr := adPlus addr (requestLen z (dPass d.raw) addr n)) (off := off + requestLen z (dPass d.raw) addr n)
        (n := n - requestLen z (dPass d.raw) addr n) (by omega) ((adSpace_adPlus _ _).trans hspace) hnext (by omega)
      have hblocks := blocksMet_succ (off := adLow addr) hn
      rw [List.append_assoc, List.singleton_append] at hmoving
      refine ⟨_, hmoving, (quiet_modMover _ _ _ y).trans hquiet, ⟨?_, ?_⟩, ?_⟩
      · exact ⟨rfl, rfl, rfl, hspace, hlow, rfl, bits_of_zero _ _⟩
      · have hend : off + requestLen z (dPass d.raw) addr n + (n - requestLen z (dPass d.raw) addr n) = off + n := by omega
        rw [hend] at hputs
        exact hputs
      · rw [hnext, ← Nat.add_assoc, ← hlow, hk] at hlen
        exact Nat.le_trans (Nat.succ_le_succ hlen) hblocks

/-- The requests that write good data to a range of the Slate are put behind the others. -/
theorem Moving.makeWrites {ops : List MoverOp} {y : State} (h : Moving s t e m rest d0 ops y) (d : Desc) {addr n : Nat}
    (data detail : Nat) (hspace : adSpace addr = 2) (hrange : adLow addr + n ≤ slateSize) :
    ∃ l, Moving s t e m rest d0 (ops ++ l) (makeWrites t m d addr n data 0 detail y) ∧
      Quiet y (Machine.makeWrites t m d addr n data 0 detail y) ∧
      Puts (adLow addr) data n 0 l ∧ l.length ≤ n / 2048 + 2 := by
  obtain ⟨l, hmoving, hquiet, hputs, hlen⟩ := h.cuts d data detail (adLow addr) y (n + 1) (off := 0)
    (Nat.lt_succ_self n) hspace rfl hrange
  rw [Nat.zero_add] at hputs
  exact ⟨l, hmoving, hquiet, hputs, Nat.le_trans hlen (blocksMet_le _ _)⟩

end

/-! ### Bytes counted (R208) -/

/-- Bytes more of a mover channel, and no other object changed. -/
structure BytesMoved (t m n : Nat) (y y' : State) : Prop where
  objs : OtherObjects y y' [(t, Obj.moverBytes + m)]
  bytes : n = 0 ∧ getObj y' t (Obj.moverBytes + m) = getObj y t (Obj.moverBytes + m) ∨
    getObj y' t (Obj.moverBytes + m) = (getObj y t (Obj.moverBytes + m) + n) % 2 ^ 64

theorem BytesMoved.trans {t m n n' : Nat} {a b c : State} (h : BytesMoved t m n a b) (h' : BytesMoved t m n' b c) :
    BytesMoved t m (n + n') a c := by
  refine ⟨h.objs.trans h'.objs, ?_⟩
  rcases h.bytes with ⟨hn, h0⟩ | h1 <;> rcases h'.bytes with ⟨hn', h0'⟩ | h1'
  · exact .inl ⟨by omega, h0'.trans h0⟩
  · exact .inr (by rw [h1', h0, hn, Nat.zero_add])
  · exact .inr (by rw [h0', h1, hn', Nat.add_zero])
  · exact .inr (by rw [h1', h1, Nat.mod_add_mod, Nat.add_assoc])

theorem Quiet.moved {y y' : State} (h : Quiet y y') (t m : Nat) : BytesMoved t m 0 y y' :=
  ⟨otherObjects_none h.dict _, .inl ⟨rfl, getObj_congr h.dict _ _⟩⟩

theorem bytesMoved_of_dict {t m : Nat} {y y' : State} (h : y'.dict = y.dict) : BytesMoved t m 0 y y' :=
  ⟨otherObjects_none h _, .inl ⟨rfl, getObj_congr h _ _⟩⟩

theorem bytesMoved_countMoved {t m n : Nat} (hm : m < 12) (y : State) : BytesMoved t m n y (countMoved t m n y) := by
  obtain ⟨hlt, hbits, -⟩ := moverBytes_key hm
  have hobjs := otherObjects_bump (u := t) n y hlt
  have hbytes : getObj (bump t (Obj.moverBytes + m) n y) t (Obj.moverBytes + m) =
      (getObj y t (Obj.moverBytes + m) + n) % 2 ^ 64 := by rw [bump, getObj_setObj_same, hbits]
  unfold countMoved
  generalize bump t (Obj.moverBytes + m) n y = z at *
  have hdict : (countEv t 0x0031 m n z).dict = z.dict := by rw [countEv_fields]
  exact ⟨fun u k hk hn => (getObj_congr hdict u k).trans (hobjs u k hk hn), .inr ((getObj_congr hdict _ _).trans hbytes)⟩

theorem key_above {t m u k : Nat} (hm : m < 12) (hk : 0x500000 ≤ k) : (u, k) ∉ (t, Obj.moverBytes + m) :: flagCounts t := by
  simp only [List.mem_cons, List.not_mem_nil, or_false, Prod.mk.injEq, Obj.moverBytes, Obj.conversionInvalid,
    Obj.conversionOverflows, Obj.conversionUnderflows]
  omega

theorem countMoved_fields (t m n : Nat) (y : State) :
    countMoved t m n y = { y with dict := (countMoved t m n y).dict, count := (countMoved t m n y).count } := by
  unfold countMoved
  rw [countEv_fields]
  rfl

/-- Where only counts of a mover channel and of conversions have changed, it goes on. -/
theorem moverShut_counts {t m : Nat} (hm : m < 12) {y y' : State}
    (h : OtherObjects y y' ((t, Obj.moverBytes + m) :: flagCounts t)) (hptile : y'.ptile = y.ptile)
    (hreset : y'.treset = y.treset) : moverShut y' t = moverShut y t := by
  have htrip : getObj y' dev Obj.tripState = getObj y dev Obj.tripState :=
    h dev _ (by decide) (key_above hm (by decide))
  have hphase : getObj y' dev Obj.bringupPhase = getObj y dev Obj.bringupPhase :=
    h dev _ (by decide) (key_above hm (by decide))
  have htripped : tripped y' = tripped y := by rw [tripped, tripped, htrip]
  have hstarting : starting y' = starting y := by rw [starting, starting, hphase]
  have hhold : inHold y' t = inHold y t := by rw [inHold, inHold, getPTile, getPTile, hptile]
  have hin : inReset y' t = inReset y t := by rw [inReset, inReset, getReset, getReset, hreset]
  rw [moverShut, moverShut, htripped, hstarting, hhold, hin]

section
variable {s : State} {t e m : Nat} {rest : List Desc} {d : Desc} {ops : List MoverOp} {y : State}

/-- Counts of the channel and of conversions do not touch a transfer. -/
theorem Moving.counted {z : State} (h : Moving s t e m rest d ops y) (hm : m < 12)
    (hfields : z = { y with dict := z.dict, count := z.count })
    (hobjs : OtherObjects y z ((t, Obj.moverBytes + m) :: flagCounts t)) : Moving s t e m rest d ops z := by
  refine ⟨h.ran.congr (by rw [hfields]), ?_, ?_, h.transfers, ?_, by rw [hfields, h.frame]⟩
  · rw [getMover_congr (s := y) (by rw [hfields]), h.ops]
  · rw [getMover_congr (s := y) (by rw [hfields])]
    exact h.tags
  · rw [moverShut_counts hm hobjs (by rw [hfields]) (by rw [hfields])]
    exact h.running

theorem Moving.countMoved (h : Moving s t e m rest d ops y) (hm : m < 12) (n : Nat) :
    Moving s t e m rest d ops (countMoved t m n y) :=
  h.counted hm (countMoved_fields t m n y) ((bytesMoved_countMoved hm y).objs.mono (by simp))

/-! ### Writes are sent and done with, one after the other (R223) -/

/-- Bytes that a write counts: those of a COPY, when they are written. -/
def countedBy (r n : Nat) : Nat := if dOp r = 7 then 0 else n

/-- A write that is done is dropped, and the bytes of a COPY count. -/
theorem Moving.wrote {o : MoverOp} (h : Moving s t e m rest d (storeDone o :: ops) y) (hc : MoveClear s t e m d.raw)
    (hd : d.ended = false) (hm : m < 12) :
    Moving s t e m rest { d with count := d.count + countedBy d.raw o.len } ops (wroteOp t m d (storeDone o) y) ∧
    BytesMoved t m (countedBy d.raw o.len) y (wroteOp t m d (storeDone o) y) ∧
    (wroteOp t m d (storeDone o) y).slate = y.slate ∧ (wroteOp t m d (storeDone o) y).slatePois = y.slatePois := by
  have hdrop := h.dropHead
  have hquiet : Quiet y (Machine.dropOps t m (fun x => decide (x.tag = (storeDone o).tag)) y) := quiet_modMover _ _ _ y
  rw [wroteOp]
  generalize Machine.dropOps t m (fun x => decide (x.tag = (storeDone o).tag)) y = z at *
  by_cases h7 : dOp d.raw = 7
  · rw [if_pos (.inl h7), countedBy, if_pos h7]
    exact ⟨hdrop, hquiet.moved t m, hquiet.slate, hquiet.pois⟩
  · have hok : ¬ (dOp d.raw = 7 ∨ ¬ (opStatus (storeDone o) = stOk ∨ badData (opStatus (storeDone o)) = true)) :=
      fun hbad => hbad.elim h7 fun hst => hst (.inl rfl)
    rw [if_neg hok, countedBy, if_neg h7]
    have hup := (hdrop.upd hc hd (fun d' => { d' with count := d'.count + o.len })).countMoved hm o.len
    have hmoved := bytesMoved_countMoved (t := t) (n := o.len) hm
      (updTransfer t m (fun d' => { d' with count := d'.count + o.len }) z)
    have hfields := countMoved_fields t m o.len (updTransfer t m (fun d' => { d' with count := d'.count + o.len }) z)
    have hup' := quiet_updTransfer t m (fun d' => { d' with count := d'.count + o.len }) z
    refine ⟨hup, ?_, ?_, ?_⟩
    · have := ((hquiet.trans hup').moved t m).trans hmoved
      rwa [Nat.zero_add] at this
    · exact (congrArg State.slate hfields).trans (hup'.slate.trans hquiet.slate)
    · exact (congrArg State.slatePois hfields).trans (hup'.pois.trans hquiet.pois)

theorem takeStep_unsent (h : Moving s t e m rest d ops y) (hops : ∀ o ∈ ops, o.use = .dst) : takeStep t m d y = none := by
  have hnone : ops.find? opSource = none := List.find?_eq_none.mpr fun o ho => by simp [opSource, hops o ho]
  unfold takeStep
  split
  · simp only [convertTake, h.transferOps, hnone]
  · simp only [copyTake, h.transferOps, hnone]

/-- One write is sent and, done, counted. -/
theorem Moving.write {o : MoverOp} {base data lo : Nat} (h : Moving s t e m rest d (o :: ops) y)
    (hc : MoveClear s t e m d.raw) (hd : d.ended = false) (hm : m < 12) (hput : PutAt base data lo o) (hops : Unsent ops) :
    ∃ y', Pumps t m 2 y y' ∧ Moving s t e m rest { d with count := d.count + countedBy d.raw o.len } ops y' ∧
      BytesMoved t m (countedBy d.raw o.len) y y' ∧ Wrote t (base + lo) o.len y y' ∧
      slateNat y' t (base + lo) o.len = bits data (8 * lo) (8 * o.len) := by
  have huses : ∀ x ∈ o :: ops, x.use = .dst := fun x hx =>
    (List.mem_cons.mp hx).elim (fun heq => heq ▸ hput.use) fun hx => (hops x hx).1
  have hunsent : ∀ x ∈ o :: ops, x.at_ = .unsent := fun x hx =>
    (List.mem_cons.mp hx).elim (fun heq => heq ▸ hput.unsent) fun hx => (hops x hx).2
  obtain ⟨y1, hsend, h1, hdict, hwrote, hdata⟩ := h.sendsWrite hc hd hunsent hput.use hput.write hput.space hput.pois
  have hstep1 : moverStep t m y = some y1 := moverStep_sends h hc hd
    (fun x hx => by simp [opWritten, opDone, hunsent x hx]) (takeStep_unsent h huses) hsend
  have hfirst : (storeDone o :: ops).find? opWritten = some (storeDone o) :=
    List.find?_cons_of_pos (by simp [opWritten, opDone, storeDone, hput.use])
  have hstep2 := moverStep_wrote h1 hc hd hfirst
  obtain ⟨h2, hmoved, hslate, hpois⟩ := h1.wrote hc hd hm
  refine ⟨_, (Pumps.step hstep1).trans (Pumps.step hstep2), h2, ?_, ?_, ?_⟩
  · have := (bytesMoved_of_dict hdict).trans hmoved
    rwa [Nat.zero_add] at this
  · rw [← hput.low]
    exact hwrote.trans ⟨fun k _ => by rw [hslate], fun k hk => by rwa [← hpois]⟩
  · rw [slateNat_congr hslate, ← hput.low, hdata, hput.data, bits, Nat.mod_mod]

theorem bits_join (x lo n k : Nat) :
    bits x (8 * lo) (8 * n) + bits x (8 * (lo + n)) (8 * k) * 2 ^ (8 * n) = bits x (8 * lo) (8 * (n + k)) := by
  rw [bits, bits, bits, Nat.mul_add 8 lo n, Nat.mul_add 8 n k, Nat.pow_add, ← Nat.div_div_eq_div_mul, Nat.pow_add,
    Nat.mod_mul, Nat.mul_comm (2 ^ (8 * n))]

/-- All of a range's writes are sent and done with; the requests behind them stay. -/
theorem Moving.writes {base data hi : Nat} (l : List MoverOp) {lo : Nat} (h : Moving s t e m rest d (l ++ ops) y)
    (hc : MoveClear s t e m d.raw) (hd : d.ended = false) (hm : m < 12) (hputs : Puts base data hi lo l)
    (hops : Unsent ops) :
    ∃ y', Pumps t m (2 * l.length) y y' ∧
      Moving s t e m rest { d with count := d.count + countedBy d.raw (hi - lo) } ops y' ∧
      BytesMoved t m (countedBy d.raw (hi - lo)) y y' ∧ Wrote t (base + lo) (hi - lo) y y' ∧
      slateNat y' t (base + lo) (hi - lo) = bits data (8 * lo) (8 * (hi - lo)) := by
  induction l generalizing lo d y with
  | nil =>
    have hlo : lo = hi := hputs
    have hzero : countedBy d.raw (hi - lo) = 0 := by rw [hlo, Nat.sub_self, countedBy, ite_self]
    rw [hzero, hlo, Nat.sub_self]
    refine ⟨y, .refl t m y, h, (Quiet.refl y).moved t m, (Quiet.refl y).wrote _ _, ?_⟩
    rw [slateNat_zero, bits, Nat.mul_zero, Nat.pow_zero, Nat.mod_one]
  | cons o l ih =>
    obtain ⟨hput, hrest⟩ := hputs
    have hle := hrest.le
    obtain ⟨y1, hpump1, h1, hmoved1, hwrote1, hdata1⟩ := h.write hc hd hm hput (hrest.unsent.append hops)
    obtain ⟨y2, hpump2, h2, hmoved2, hwrote2, hdata2⟩ := ih h1 hc hd hrest
    have hcount : countedBy d.raw o.len + countedBy d.raw (hi - (lo + o.len)) = countedBy d.raw (hi - lo) := by
      unfold countedBy
      split
      · rfl
      · omega
    have hcut : hi - lo = o.len + (hi - (lo + o.len)) := by omega
    rw [← Nat.add_assoc] at hwrote2 hdata2
    refine ⟨y2, ?_, ?_, ?_, ?_, ?_⟩
    · have := hpump1.trans hpump2
      rwa [show 2 + 2 * l.length = 2 * (o :: l).length by rw [List.length_cons]; omega] at this
    · rw [← hcount, ← Nat.add_assoc]
      exact h2
    · rw [← hcount]
      exact hmoved1.trans hmoved2
    · exact (hwrote1.within (Nat.le_refl _) (by omega)).trans (hwrote2.within (by omega) (by omega))
    · rw [hcut, slateNat_add, hwrote2.slateNat (.inl (Nat.le_refl _)), hdata1, hdata2, bits_join]

end

end Sys2Proof.Machine

/-! ## Proofs: a COPY of one row within the Slate -/

namespace Sys2Proof.Machine

open Sys2Proof

/-! ### A read is made and sent (R223) -/

theorem slatePoisMask_good {y : State} {t off n : Nat} (h : slateBad y t off n = false) : slatePoisMask y t off n = 0 := by
  have hword : ∀ i < n, fget false y.slatePois (t * 2 ^ 20 + (off + i) / 8) = false := fun i hi => by
    have hpart := slateBad_part h (lo := i) (n := 1) (by omega)
    have hin : 0 < (off + i + 1 + 7) / 8 - (off + i) / 8 := by omega
    have hfirst := List.any_eq_false.mp hpart 0 (List.mem_range.mpr hin)
    rw [Nat.add_zero] at hfirst
    exact Bool.eq_false_iff.mpr hfirst
  unfold slatePoisMask
  have hfold : ∀ l : List Nat, (∀ i ∈ l, i < n) → l.foldl (fun m i =>
      if fget false y.slatePois (t * 2 ^ 20 + (off + i) / 8) then m + 2 ^ i else m) 0 = 0 := fun l hl => by
    induction l with
    | nil => rfl
    | cons i l ih =>
      rw [List.foldl_cons, hword i (hl i (by simp)), if_neg Bool.false_ne_true]
      exact ih fun j hj => hl j (by simp [hj])
  exact hfold _ fun i hi => List.mem_range.mp hi

/-- Reads that have their data, all of one row. -/
def AllRead (l : List MoverOp) : Prop := ∀ o ∈ l, opSource o = true ∧ o.unit = 0 ∧ o.at_ = .done stOk

theorem AllRead.nil : AllRead [] := fun o ho => absurd ho (by simp)

theorem not_dst_of_source {o : MoverOp} (h : opSource o = true) : (o.use == .dst) = false := by
  rw [beq_eq_false_iff_ne]
  intro heq
  simp [opSource, heq] at h

theorem opTransfer_of_source {o : MoverOp} (h : opSource o = true) : opTransfer o = true := by
  unfold opSource at h
  unfold opTransfer
  split at h <;> simp_all

/-- A request that reads good words of the Slate, not yet sent. -/
structure ReadsSlate (y : State) (t : Nat) (o : MoverOp) : Prop where
  source : opSource o = true
  unit : o.unit = 0
  unsent : o.at_ = .unsent
  read : o.write = false
  space : adSpace o.addr = 2
  good : slateBad y t (adLow o.addr) o.len = false

section
variable {s : State} {t e m : Nat} {rest : List Desc} {d : Desc} {ops : List MoverOp} {y : State}

/-- Nothing is taken while a read of the row waits. -/
theorem takeStep_waiting {o : MoverOp} (h : Moving s t e m rest d (ops ++ [o]) y) (hops : AllRead ops)
    (hsource : opSource o = true) (hunit : o.unit = 0) (hundone : opDone o = false) (hone : ops = [] ∨ dOp d.raw = 7) :
    takeStep t m d y = none := by
  have hall : ∀ x ∈ ops ++ [o], opSource x = true ∧ x.unit = 0 := fun x hx =>
    (List.mem_append.mp hx).elim (fun hx => ⟨(hops x hx).1, (hops x hx).2.1⟩)
      (fun hx => by rw [List.mem_singleton.mp hx]; exact ⟨hsource, hunit⟩)
  unfold takeStep
  split
  · obtain ⟨x, hx⟩ : ∃ x, (ops ++ [o]).find? opSource = some x := by
      rw [← Option.isSome_iff_exists, List.find?_isSome]
      exact ⟨o, by simp, hsource⟩
    have hxunit : x.unit = 0 := (hall x (List.mem_of_find?_eq_some hx)).2
    have hmine : (ops ++ [o]).filter (fun z => opSource z && decide (z.unit = x.unit)) = ops ++ [o] :=
      List.filter_eq_self.mpr fun z hz => by simp [hall z hz, hxunit]
    simp only [convertTake, h.transferOps, hx, hmine]
    rw [if_pos]
    simp [hundone]
  · next h7 =>
    have hnil : ops = [] := hone.resolve_right h7
    subst hnil
    simp [copyTake, h.transferOps, hsource, hundone]

/-- A read is made, leaves, and has its data at once. -/
theorem Moving.read (h : Moving s t e m rest d ops y) (hc : MoveClear s t e m d.raw) (hd : d.ended = false)
    (hops : AllRead ops) (hone : ops = [] ∨ dOp d.raw = 7) (htake : takeStep t m d y = none) {o : MoverOp} {f : Desc → Desc}
    (hnext : nextRead t m d y = some (Machine.addOp t m o (updTransfer t m f y))) (ho : ReadsSlate y t o)
    (hf : (f d).raw = d.raw) (hfd : (f d).ended = false) :
    ∃ y' tag, Pumps t m 2 y y' ∧ Moving s t e m rest (f d) (ops ++ [readDone y t { o with tag := tag }]) y' ∧ Quiet y y' := by
  have hdone : ∀ x ∈ ops, x.at_ = .done stOk := fun x hx => (hops x hx).2.2
  have hold : ∀ x ∈ ops, opWritten x = false := fun x hx => by
    rw [opWritten, not_dst_of_source (hops x hx).1, Bool.false_and]
  have hstep1 := moverStep_reads h hc hd hold htake (sendStep_none h.ops hdone) hnext
  have hup := h.upd hc hd f
  have h1 := hup.addOp (opTransfer_of_source ho.source)
  have hquiet1 : Quiet y (Machine.addOp t m o (updTransfer t m f y)) :=
    (quiet_updTransfer t m f y).trans (quiet_modMover t m _ (updTransfer t m f y))
  generalize Machine.addOp t m o (updTransfer t m f y) = y1 at *
  generalize (getMover (updTransfer t m f y) t m).nextTag = tag at h1
  rw [← hf] at hc hone
  have hgood : slateBad y1 t (adLow o.addr) o.len = false := (hquiet1.slateBad _ _ _).trans ho.good
  obtain ⟨y2, hsend, h2, hquiet2⟩ := h1.sendsRead hc hfd hdone ho.unsent (not_dst_of_source ho.source) ho.read ho.space hgood
  have hundone : opDone { o with tag := tag } = false := by simp [opDone, ho.unsent]
  have hstep2 := moverStep_sends h1 hc hfd (fun x hx => (List.mem_append.mp hx).elim (hold x)
      fun hx => by rw [List.mem_singleton.mp hx, opWritten, hundone, Bool.and_false])
    (takeStep_waiting h1 hops ho.source ho.unit hundone hone) hsend
  refine ⟨y2, tag, (Pumps.step hstep1).trans (Pumps.step hstep2), ?_, hquiet1.trans hquiet2⟩
  have hsame : readDone y1 t { o with tag := tag } = readDone y t { o with tag := tag } := by
    rw [readDone, readDone, hquiet1.slateNat, slatePoisMask_good hgood, slatePoisMask_good ho.good]
  rwa [hsame] at h2

theorem slateNat_lt (y : State) (t off n : Nat) : slateNat y t off n < 2 ^ (8 * n) := by
  induction n generalizing off with
  | zero => exact Nat.one_pos
  | succ n ih =>
    have hrest := ih (off + 1)
    rw [slateNat_succ, Nat.mul_succ, Nat.pow_add]
    omega

/-! ### A COPY of one row, request by request (R224) -/

/-- A COPY of one row from the Slate to the Slate that passes its checks. -/
structure CopyRow (s : State) (t r : Nat) : Prop where
  op : dOp r = 6
  source : adSpace (cpSrc r) = 2
  dest : adSpace (cpDst r) = 2
  rows : cpRows r = 1
  len : 1 ≤ cpLen r
  sourceRange : adLow (cpSrc r) + cpLen r ≤ slateSize
  destRange : adLow (cpDst r) + cpLen r ≤ slateSize
  apart : adLow (cpSrc r) + cpLen r ≤ adLow (cpDst r) ∨ adLow (cpDst r) + cpLen r ≤ adLow (cpSrc r)
  good : slateBad s t (adLow (cpSrc r)) (cpLen r) = false

/-- The descriptor of a COPY of one row of which `off` bytes are read and `got` written. -/
def copying (b : Desc) (off got : Nat) : Desc :=
  if off < cpLen b.raw then { b with off := off, count := got } else { b with pos := 1, count := got }

/-- A descriptor as it begins: nothing read, written or met. -/
structure Untouched (b : Desc) : Prop where
  ended : b.ended = false
  pos : b.pos = 0
  off : b.off = 0
  count : b.count = 0
  cut : b.cut = 0
  closing : b.closing = false

theorem copying_raw (b : Desc) (off got : Nat) : (copying b off got).raw = b.raw := by
  unfold copying
  split <;> rfl

theorem copying_ended {b : Desc} (hb : Untouched b) (off got : Nat) : (copying b off got).ended = false := by
  unfold copying
  split <;> exact hb.ended

theorem copying_cut {b : Desc} (hb : Untouched b) (off got : Nat) : (copying b off got).cut = 0 := by
  unfold copying
  split <;> exact hb.cut

theorem copying_count (b : Desc) (off got n : Nat) :
    { copying b off got with count := (copying b off got).count + n } = copying b off (got + n) := by
  unfold copying
  split <;> rfl

/-- Bytes of the request made `off` bytes into a range of `n` bytes of the Slate. -/
def chunkAt (base n off : Nat) : Nat := min (n - off) (2048 - (base + off) % 2048)

theorem chunkAt_le {base n off : Nat} (h : off ≤ n) : off + chunkAt base n off ≤ n := by
  unfold chunkAt
  omega

/-- The request `off` bytes into a range of the Slate: where it reads, and its bytes. -/
theorem requestLen_chunk {z : State} {po : Option Nat} {addr n off : Nat} (hspace : adSpace addr = 2) (hoff : off < n)
    (hrange : adLow addr + n ≤ slateSize) :
    adLow (adPlus addr off) = adLow addr + off ∧
      requestLen z po (adPlus addr off) (n - off) = chunkAt (adLow addr) n off := by
  have hsize : slateSize = 2 ^ 23 := rfl
  have hlow : adLow (adPlus addr off) = adLow addr + off := adLow_adPlus (by omega)
  exact ⟨hlow, by rw [requestLen_slate ((adSpace_adPlus _ _).trans hspace) (by omega), hlow, chunkAt]⟩

/-- The read of a COPY's row from `off` on. -/
def copyRead (r off : Nat) : MoverOp :=
  { tag := 0, use := .src, unit := 0, off := off, addr := adPlus (cpSrc r) off
    len := chunkAt (adLow (cpSrc r)) (cpLen r) off, pass := dPass r, detail := off }

/-- What a read of a COPY's row does to its descriptor. -/
def copyMoves (r off : Nat) (d : Desc) : Desc :=
  if d.off + chunkAt (adLow (cpSrc r)) (cpLen r) off ≥ cpLen r then { d with pos := d.pos + 1, off := 0 }
  else { d with off := d.off + chunkAt (adLow (cpSrc r)) (cpLen r) off }

theorem copyMoves_copying {b : Desc} (hb : Untouched b) {off got : Nat} (hoff : off < cpLen b.raw) :
    copyMoves b.raw off (copying b off got) =
      copying b (off + chunkAt (adLow (cpSrc b.raw)) (cpLen b.raw) off) got := by
  rw [copyMoves, copying, if_pos hoff, copying]
  dsimp only
  by_cases hend : off + chunkAt (adLow (cpSrc b.raw)) (cpLen b.raw) off < cpLen b.raw
  · rw [if_neg (by omega), if_pos hend]
  · rw [if_pos (by omega), if_neg hend, hb.pos, hb.off]

section
variable {b : Desc} (hc : MoveClear s t e m b.raw) (hrow : CopyRow s t b.raw) (hb : Untouched b)
include hc hrow hb

omit hc in
theorem nextRead_copying {off : Nat} (hoff : off < cpLen b.raw) (h : Moving s t e m rest (copying b off off) [] y) :
    nextRead t m (copying b off off) y =
      some (addOp t m (copyRead b.raw off) (updTransfer t m (copyMoves b.raw off) y)) := by
  obtain ⟨-, hlen⟩ := requestLen_chunk (z := y) (po := dPass b.raw) hrow.source hoff hrow.sourceRange
  have hd : copying b off off = { b with off := off, count := off } := if_pos hoff
  have hclosing : ¬ (b.closing = true ∨ ((transferOps y t m).filter (fun o => !opDone o)).length ≥ 64) := by
    rw [h.transferOps, hb.closing]
    simp
  rw [nextRead, hd]
  dsimp only
  rw [if_neg hclosing, if_neg (by rw [hrow.op]; decide), if_pos hrow.op, copyNext]
  dsimp only
  rw [if_neg (by rw [hb.pos, hrow.rows]; decide), hb.pos, Nat.zero_mul, Nat.zero_mul, Nat.zero_add, hlen]
  rfl

omit hc hb in
/-- What was read is put into requests that write it. -/
theorem copyTake_reads {off : Nat} {o : MoverOp} {d : Desc} (h : Moving s t e m rest d [o] y) (hraw : d.raw = b.raw)
    (hcut : d.cut = 0) (hdone : o.at_ = .done stOk) (hsource : opSource o = true) (hunit : o.unit = 0) (ho : o.off = off)
    (hpois : o.pois = 0) (hle : off + o.len ≤ cpLen b.raw) :
    ∃ y' l, takeStep t m d y = some y' ∧ Moving s t e m rest d l y' ∧ Quiet y y' ∧
      Puts (adLow (cpDst b.raw) + off) o.data o.len 0 l ∧ l.length ≤ o.len / 2048 + 2 := by
  have hop : dOp d.raw = 6 := by rw [hraw]; exact hrow.op
  have hsize : slateSize = 2 ^ 23 := rfl
  have hdest := hrow.destRange
  have haddr : copyDst d.raw o = adPlus (cpDst b.raw) off := by
    rw [copyDst, if_neg (by rw [hop]; decide), hunit, ho, Nat.zero_mul, Nat.zero_add, hraw]
  have hlow : adLow (adPlus (cpDst b.raw) off) = adLow (cpDst b.raw) + off := adLow_adPlus (by omega)
  have hdrop := h.dropHead
  obtain ⟨l, hmoving, hquiet, hputs, hlen⟩ := hdrop.makeWrites d o.data o.detail
    ((adSpace_adPlus (cpDst b.raw) off).trans hrow.dest) (n := o.len) (by rw [hlow]; omega)
  rw [hlow] at hputs
  refine ⟨_, l, ?_, hmoving, (quiet_modMover t m _ y).trans hquiet, hputs, hlen⟩
  have hok : badData (opStatus o) = false := by rw [opStatus, hdone]; rfl
  have hopdone : opDone o = true := by rw [opDone, hdone]
  rw [takeStep, if_neg (by rw [hop]; decide)]
  simp only [copyTake, h.transferOps, List.find?_cons_of_pos hsource]
  rw [if_neg (not_not_intro hopdone), if_neg (not_not_intro hcut), haddr, hpois, hok, if_neg Bool.false_ne_true]

/-- A request's bytes are read and written in their place. -/
theorem copy_chunk (hm : m < 12) {off : Nat} (hoff : off < cpLen b.raw) (h : Moving s t e m rest (copying b off off) [] y)
    (hgood : slateBad y t (adLow (cpSrc b.raw)) (cpLen b.raw) = false) :
    ∃ y' n, let k := chunkAt (adLow (cpSrc b.raw)) (cpLen b.raw) off
      n ≤ 9 ∧ Pumps t m n y y' ∧ Moving s t e m rest (copying b (off + k) (off + k)) [] y' ∧ BytesMoved t m k y y' ∧
      Wrote t (adLow (cpDst b.raw) + off) k y y' ∧
      slateNat y' t (adLow (cpDst b.raw) + off) k = slateNat y t (adLow (cpSrc b.raw) + off) k := by
  obtain ⟨k, hk⟩ : ∃ k, k = chunkAt (adLow (cpSrc b.raw)) (cpLen b.raw) off := ⟨_, rfl⟩
  have hle := chunkAt_le (base := adLow (cpSrc b.raw)) (Nat.le_of_lt hoff)
  have hk2048 : chunkAt (adLow (cpSrc b.raw)) (cpLen b.raw) off ≤ 2048 := by unfold chunkAt; omega
  obtain ⟨hlow, -⟩ := requestLen_chunk (z := y) (po := none) hrow.source hoff hrow.sourceRange
  have hclear : ∀ off got, MoveClear s t e m (copying b off got).raw := fun off got => by rw [copying_raw]; exact hc
  have htake : takeStep t m (copying b off off) y = none := takeStep_unsent h fun o ho => absurd ho (by simp)
  have hpart : slateBad y t (adLow (copyRead b.raw off).addr) (copyRead b.raw off).len = false := by
    rw [copyRead]
    dsimp only
    rw [hlow]
    exact slateBad_part hgood hle
  have hread : ReadsSlate y t (copyRead b.raw off) :=
    ⟨rfl, rfl, rfl, rfl, (adSpace_adPlus _ _).trans hrow.source, hpart⟩
  have hmoves := copyMoves_copying (got := off) hb hoff
  rw [← hk] at hle hk2048 hmoves ⊢
  obtain ⟨y1, tag, hpump1, h1, hquiet1⟩ := h.read (hclear _ _) (copying_ended hb _ _) .nil (.inl rfl) htake
    (nextRead_copying hrow hb hoff h) hread (by rw [hmoves, copying_raw, copying_raw]) (by rw [hmoves]; exact copying_ended hb _ _)
  rw [hmoves, List.nil_append] at h1
  have hlen : (readDone y t { copyRead b.raw off with tag := tag }).len = k := hk.symm
  have hdata : (readDone y t { copyRead b.raw off with tag := tag }).data = slateNat y t (adLow (cpSrc b.raw) + off) k := by
    rw [← hlow, hk]
    rfl
  have hpois : (readDone y t { copyRead b.raw off with tag := tag }).pois = 0 := slatePoisMask_good hpart
  obtain ⟨y2, l, htakes, h2, hquiet2, hputs, hcount⟩ := copyTake_reads hrow (off := off) h1 (copying_raw _ _ _)
    (copying_cut hb _ _) rfl rfl rfl rfl hpois (by rw [hlen]; exact hle)
  have hstep := moverStep_takes h1 (hclear _ _) (copying_ended hb _ _)
    (fun x hx => by rw [List.mem_singleton.mp hx]; rfl) htakes
  rw [hlen, hdata] at hputs
  rw [hlen] at hcount
  rw [← List.append_nil l] at h2
  obtain ⟨y3, hpump3, h3, hmoved, hwrote, hslate⟩ := h2.writes l (hclear _ _) (copying_ended hb _ _) hm hputs
    fun o ho => absurd ho (by simp)
  have hcounted : countedBy (copying b (off + k) off).raw k = k := by
    rw [countedBy, copying_raw, hrow.op, if_neg (by decide)]
  rw [Nat.sub_zero, hcounted] at hmoved
  rw [Nat.sub_zero, hcounted, copying_count] at h3
  rw [Nat.sub_zero, Nat.add_zero] at hwrote hslate
  have hquiet := hquiet1.trans hquiet2
  refine ⟨y3, 2 + 1 + 2 * l.length, by omega, (hpump1.trans (Pumps.step hstep)).trans hpump3, h3, ?_,
    (hquiet.wrote _ _).trans hwrote, ?_⟩
  · have := (hquiet.moved t m).trans hmoved
    rwa [Nat.zero_add] at this
  · rw [hslate, bits, Nat.mul_zero, Nat.pow_zero, Nat.div_one, Nat.mod_eq_of_lt (slateNat_lt _ _ _ _)]

/-- A COPY goes on to the end of its row. -/
theorem copy_row (hm : m < 12) (c : Nat) {off : Nat} (hoff : off ≤ cpLen b.raw)
    (hblocks : blocksMet (adLow (cpSrc b.raw) + off) (cpLen b.raw - off) ≤ c)
    (h : Moving s t e m rest (copying b off off) [] y)
    (hgood : slateBad y t (adLow (cpSrc b.raw)) (cpLen b.raw) = false) :
    ∃ y' n, n ≤ 9 * c ∧ Pumps t m n y y' ∧ Moving s t e m rest (copying b (cpLen b.raw) (cpLen b.raw)) [] y' ∧
      BytesMoved t m (cpLen b.raw - off) y y' ∧ Wrote t (adLow (cpDst b.raw) + off) (cpLen b.raw - off) y y' ∧
      slateNat y' t (adLow (cpDst b.raw) + off) (cpLen b.raw - off) =
        slateNat y t (adLow (cpSrc b.raw) + off) (cpLen b.raw - off) := by
  induction c generalizing off y with
  | zero =>
    have hend : off = cpLen b.raw := by
      unfold blocksMet at hblocks
      split at hblocks <;> omega
    subst hend
    rw [Nat.sub_self]
    exact ⟨y, 0, Nat.zero_le _, .refl t m y, h, (Quiet.refl y).moved t m, (Quiet.refl y).wrote _ _, rfl⟩
  | succ c ih =>
    rcases Nat.lt_or_ge off (cpLen b.raw) with hlt | hge
    · obtain ⟨y1, n1, hn1, hpump1, h1, hmoved1, hwrote1, hdata1⟩ := copy_chunk hc hrow hb hm hlt h hgood
      have hle := chunkAt_le (base := adLow (cpSrc b.raw)) hoff
      have hnext := blocksMet_succ (off := adLow (cpSrc b.raw) + off) (n := cpLen b.raw - off) (by omega)
      change blocksMet (adLow (cpSrc b.raw) + off + chunkAt (adLow (cpSrc b.raw)) (cpLen b.raw) off)
        (cpLen b.raw - off - chunkAt (adLow (cpSrc b.raw)) (cpLen b.raw) off) + 1 ≤ _ at hnext
      generalize chunkAt (adLow (cpSrc b.raw)) (cpLen b.raw) off = k at *
      have happart := hrow.apart
      obtain ⟨y2, n2, hn2, hpump2, h2, hmoved2, hwrote2, hdata2⟩ := ih hle
        (by rw [← Nat.add_assoc, ← Nat.sub_sub]; omega) h1 (hwrote1.good.slateBad hgood)
      have hcut : cpLen b.raw - off = k + (cpLen b.raw - (off + k)) := by omega
      rw [← Nat.add_assoc, ← Nat.add_assoc] at hdata2
      rw [← Nat.add_assoc] at hwrote2
      refine ⟨y2, n1 + n2, by omega, hpump1.trans hpump2, h2, ?_, ?_, ?_⟩
      · rw [hcut]
        exact hmoved1.trans hmoved2
      · exact (hwrote1.within (Nat.le_refl _) (by omega)).trans (hwrote2.within (by omega) (by omega))
      · rw [hcut, slateNat_add, slateNat_add, hwrote2.slateNat (.inl (Nat.le_refl _)), hdata1, hdata2,
          hwrote1.slateNat (by omega)]
    · have hend : off = cpLen b.raw := by omega
      subst hend
      rw [Nat.sub_self]
      exact ⟨y, 0, Nat.zero_le _, .refl t m y, h, (Quiet.refl y).moved t m, (Quiet.refl y).wrote _ _, rfl⟩

end

end

end Sys2Proof.Machine

/-! ## Proofs: a mover transfer from its issue to its end -/

namespace Sys2Proof.Machine

open Sys2Proof

/-! ### The end of a transfer -/

/-- A descriptor whose transfer is at its end. -/
def moverEnded (d : Desc) : Desc := { d with ended := true, data := 0, bad := 0 }

section
variable {s : State} {t e m : Nat} {rest : List Desc} {d : Desc} {y : State}

/-- A transfer with nothing left to do ends. -/
theorem Moving.ends (h : Moving s t e m rest d [] y) (hc : MoveClear s t e m d.raw) (hd : d.ended = false)
    (hnext : nextRead t m d y = none) :
    ∃ y', Pumps t m 1 y y' ∧ Moving s t e m rest (moverEnded d) [] y' ∧ Quiet y y' :=
  ⟨_, Pumps.step (moverStep_ends h hc hd hnext),
    h.upd hc hd (fun d' => { id d' with ended := true, data := 0, bad := 0 }), quiet_updTransfer t m _ y⟩

/-- The pump comes to rest at the end of its transfer. -/
theorem moverPump_ends {y' : State} {n : Nat} (hpump : Pumps t m n y y') (hn : n ≤ 1048576)
    (h : Moving s t e m rest d [] y') (hc : MoveClear s t e m d.raw) (hd : d.ended = true) : moverPump t m y = y' := by
  rw [moverPump, ← Nat.add_sub_cancel' hn, hpump, pumpLoop_rest (moverStep_ended h.ran hc hd)]

/-! ### The channels of an engine, one after the other -/

/-- The transfer of a kind on one channel goes on. -/
def channelGoes (t : Nat) (p : Nat → Bool) (m : Nat) (y : State) : State :=
  match transferOf y t m with
  | some d => if p d.raw then moverPump t m y else y
  | none => y

theorem transfer_eq (t e : Nat) (p : Nat → Bool) (s : State) :
    transfer t e p s = channelGoes t p (2 * e + 1) (channelGoes t p (2 * e) (issueDesc t e p (fun d s =>
      some (d, if dOp d.raw = 5 then slateScrub t (gaList d.raw) (8 * gaCount d.raw) s else s)) s)) := rfl

theorem channelGoes_runs {p : Nat → Bool} (h : Ran s y t e rest d) (hc : MoveClear s t e m d.raw) (hd : d.ended = false)
    (hp : p d.raw = true) : channelGoes t p m y = moverPump t m y := by
  have hof : transferOf y t m = some d := by
    rw [hc.transferOf h, hd]
    rfl
  rw [channelGoes, hof]
  exact if_pos hp

/-- No transfer of the kind is in progress on the engine's other channel. -/
theorem channelGoes_other {p : Nat → Bool} {m' : Nat} (h : Ran s y t e rest d) (hc : MoveClear s t e m d.raw)
    (hfirst : ∀ x ∈ (getEngine s t e).prog, p x.raw = false ∨ x.ended = true) (he : m' / 2 = e) (hm : m' % 2 ≠ m % 2) :
    channelGoes t p m' y = y := by
  have hkind : ∀ x, transferOf y t m' = some x → p x.raw = false := by
    intro x hx
    rw [transferOf, he, h.prog] at hx
    have hon := List.find?_some hx
    simp only [Machine.onChannel, Bool.and_eq_true, Bool.not_eq_true', decide_eq_true_eq] at hon
    obtain ⟨⟨-, hended⟩, hside⟩ := hon
    rcases List.mem_append.mp (List.mem_of_find?_eq_some hx) with hold | hnew
    · exact (hfirst x hold).resolve_right (by rw [hended]; exact Bool.false_ne_true)
    · rw [List.mem_singleton.mp hnew, hc.side] at hside
      exact absurd hside.symm hm
  unfold channelGoes
  split
  · next x hx => exact if_neg (by rw [hkind x hx]; exact Bool.false_ne_true)
  · rfl

/-! ### The command -/

theorem moving_issued (hops : (getMover s t m).ops = []) (hshut : moverShut s t = false) :
    Moving s t e m rest (begun s d) [] (pushProg t e (begun s d) (taken s t e rest)) where
  ran := ran_pushProg rfl
  ops := hops
  tags := ⟨List.Pairwise.nil, fun o ho => absurd ho (by simp)⟩
  transfers := fun o ho => absurd ho (by simp)
  running := hshut
  frame := by
    dsimp only [pushProg, taken, modEngine]

/-- A transfer that its channel's pump takes to its end when it is issued ends with the command. -/
theorem transfer_runs {p : Nat → Bool} {d' : Desc} {y' : State} {n : Nat} (hi : Issuable s t e d rest)
    (hp : p d.raw = true) (hstarted : d.started = false) (hfive : dOp d.raw ≠ 5) (hended : d.ended = false)
    (hc : MoveClear s t e (moverOf e d.raw) d.raw)
    (hfirst : ∀ x ∈ (getEngine s t e).prog, p x.raw = false ∨ x.ended = true)
    (hops : (getMover s t (moverOf e d.raw)).ops = []) (hshut : moverShut s t = false)
    (hpump : Pumps t (moverOf e d.raw) n (pushProg t e (begun s d) (taken s t e rest)) y') (hn : n ≤ 1048576)
    (h : Moving s t e (moverOf e d.raw) rest d' [] y') (hraw : d'.raw = d.raw) (hd' : d'.ended = true) :
    transfer t e p (fresh s) = y' := by
  have hplain : dOp (begun s d).raw ≠ 5 := hfive
  have hissue := issueDesc_runs (d' := begun s d) (s' := taken s t e rest) (f := fun d s =>
    some (d, if dOp d.raw = 5 then slateScrub t (gaList d.raw) (8 * gaCount d.raw) s else s)) hi hp hstarted
    (by rw [if_neg hplain])
  have h0 := moving_issued (e := e) (rest := rest) (d := d) hops hshut
  have hc' : MoveClear s t e (moverOf e d.raw) d'.raw := hraw ▸ hc
  have hrest := moverPump_ends hpump hn h hc' hd'
  have hruns := channelGoes_runs (p := p) h0.ran hc hended hp
  have hmod := moverOf_mod e d.raw
  rw [transfer_eq, hissue]
  generalize pushProg t e (begun s d) (taken s t e rest) = y at *
  generalize hm : moverOf e d.raw = m at *
  cases hb : dMoverB d.raw
  · have hside : m = 2 * e := by rw [← hm, moverOf, hb]; rfl
    rw [← hside, hruns, hrest, channelGoes_other h.ran hc' hfirst (by omega) (by omega)]
  · have hside : m = 2 * e + 1 := by rw [← hm, moverOf, hb]; rfl
    rw [channelGoes_other (m' := 2 * e) h0.ran hc hfirst (by omega) (by omega), ← hside, hruns, hrest]

end

end Sys2Proof.Machine

/-! ## Proofs: the command COPY -/

namespace Sys2Proof.Machine

open Sys2Proof

/-! ### What the checks say (R216, R224) -/

theorem apart_of_overlaps {src sstride slen dst dstride dlen : Nat}
    (h : overlaps src sstride slen dst dstride dlen 1 = false) (hspace : adSpace src = adSpace dst) (hs : 0 < slen)
    (hd : 0 < dlen) : adLow src + slen ≤ adLow dst ∨ adLow dst + dlen ≤ adLow src := by
  rw [overlaps, decide_eq_true hspace, decide_eq_true ⟨hs, hd⟩, Bool.true_and, Bool.true_and] at h
  have hfirst := List.any_eq_false.mp h 0 (by decide)
  dsimp only at hfirst
  rw [Nat.zero_mul, Nat.add_zero, Nat.sub_self, Nat.zero_min, ite_self, Nat.zero_mul, Nat.add_zero] at hfirst
  by_cases hge : adLow dst ≥ adLow src + slen
  · exact .inl hge
  · rw [if_neg hge, decide_eq_true_eq] at hfirst
    exact .inr (Nat.le_of_not_lt hfirst)

theorem range_of_adRange {a n : Nat} (h : adRange a n = true) (hspace : adSpace a = 2) : adLow a + n ≤ slateSize := by
  simp only [adRange, hspace, if_true, Bool.and_eq_true, decide_eq_true_eq] at h
  exact h.2

section
variable {s : State} {t e : Nat} {d : Desc} {rest : List Desc}

theorem moveClear_of_issuable (hcan : canIssue s t e d = true) (hop : dOp d.raw = 6 ∨ dOp d.raw = 7)
    (hs : s.sramErr = []) : MoveClear s t e (moverOf e d.raw) d.raw :=
  { op := hop, engine := moverOf_div _ _, side := (moverOf_mod _ _).symm
    alone := channelFree_of_canIssue hcan (by rcases hop with h | h <;> rw [h] <;> rfl), clean := hs }

theorem untouched_begun (hd : d = mkDesc s t e d.idx d.raw) : Untouched (begun s d) := by
  rw [hd]
  exact ⟨rfl, rfl, rfl, rfl, rfl, rfl⟩

theorem copyRow_of_descOk {r : Nat} (h : descOk s t e r = true) (hop : dOp r = 6) (hsource : adSpace (cpSrc r) = 2)
    (hdest : adSpace (cpDst r) = 2) (hrows : cpRows r = 1) (hgood : slateBad s t (adLow (cpSrc r)) (cpLen r) = false) :
    CopyRow s t r := by
  have hok : copyOk r = true := by
    simp only [descOk, hop, Bool.and_eq_true] at h
    exact h.2
  simp only [copyOk, hrows, Nat.sub_self, Nat.zero_mul, Nat.zero_add, Bool.and_eq_true, decide_eq_true_eq,
    Bool.not_eq_true'] at hok
  obtain ⟨⟨⟨⟨-, -, hlen⟩, hsrc⟩, hdst⟩, hover⟩ := hok
  exact ⟨hop, hsource, hdest, hrows, hlen, range_of_adRange hsrc hsource, range_of_adRange hdst hdest,
    apart_of_overlaps hover (hsource.trans hdest.symm) hlen hlen, hgood⟩

/-! ### The command -/

/-- What a transfer within the Slate leaves that ran to its end: its descriptor, `n` bytes counted on its channel, and
beside the Slate nothing but that and the counts of `K`. -/
structure Transferred (s : State) (t e m : Nat) (rest : List Desc) (d : Desc) (n : Nat) (K : List (Nat × Nat))
    (y : State) : Prop where
  ran : Ran s y t e rest d
  moved : getObj y t (Obj.moverBytes + m) = (getObj s t (Obj.moverBytes + m) + n) % 2 ^ 64
  ops : (getMover y t m).ops = []
  objs : OtherObjects s y ((t, Obj.moverBytes + m) :: K)
  frame : y = { s with
    engine := y.engine, mover := y.mover, dict := y.dict, count := y.count
    slate := y.slate, slatePois := y.slatePois, out := {} }

theorem transferred_of {m n : Nat} {y : State} (h : Moving s t e m rest d [] y) (hmoved : BytesMoved t m n s y) (hn : n ≠ 0) :
    Transferred s t e m rest d n [] y :=
  ⟨h.ran, hmoved.bytes.resolve_left fun h0 => hn h0.1, h.ops, hmoved.objs, h.frame⟩

/-- With its row read, a COPY makes no further read. -/
theorem nextRead_copied {b : Desc} {m : Nat} {y : State} (hb : Untouched b) (hop : dOp b.raw = 6) (hrows : cpRows b.raw = 1)
    (h : Moving s t e m rest (copying b (cpLen b.raw) (cpLen b.raw)) [] y) :
    nextRead t m (copying b (cpLen b.raw) (cpLen b.raw)) y = none := by
  have hd : copying b (cpLen b.raw) (cpLen b.raw) = { b with pos := 1, count := cpLen b.raw } := if_neg (Nat.lt_irrefl _)
  have hclosing : ¬ (b.closing = true ∨ ((transferOps y t m).filter (fun o => !opDone o)).length ≥ 64) := by
    rw [h.transferOps, hb.closing]
    simp
  rw [nextRead, hd]
  dsimp only
  rw [if_neg hclosing, if_neg (by rw [hop]; decide), if_pos hop, copyNext]
  dsimp only
  rw [if_pos (Nat.le_of_eq hrows)]

theorem moverEnded_copying (hd : d = mkDesc s t e d.idx d.raw) :
    moverEnded (copying (begun s d) (cpLen d.raw) (cpLen d.raw)) =
      { begun s d with ended := true, pos := 1, count := cpLen d.raw } := by
  have hraw : (begun s d).raw = d.raw := rfl
  rw [copying, hraw, if_neg (Nat.lt_irrefl _), hd]
  rfl

/-- A COPY of one row from the Slate to the Slate runs to its end at its issue (R224). -/
theorem copy_transfers (he : e < 6) (hi : Issuable s t e d rest) (hd : d = mkDesc s t e d.idx d.raw)
    (htrip : tripped s = false) (hs : s.sramErr = []) (hops : (getMover s t (moverOf e d.raw)).ops = [])
    (hfirst : ∀ x ∈ (getEngine s t e).prog, dOp x.raw ≠ dOp d.raw ∨ x.ended = true) (hrow : CopyRow s t d.raw) :
    ∃ y, transfer t e (fun r => dOp r = 6) (fresh s) = y ∧
      Transferred s t e (moverOf e d.raw) rest { begun s d with ended := true, pos := 1, count := cpLen d.raw }
        (cpLen d.raw) [] y ∧
      Wrote t (adLow (cpDst d.raw)) (cpLen d.raw) s y ∧
      slateNat y t (adLow (cpDst d.raw)) (cpLen d.raw) = slateNat s t (adLow (cpSrc d.raw)) (cpLen d.raw) := by
  obtain ⟨hready, hcan, hok⟩ := hi
  have hc := moveClear_of_issuable hcan (.inl hrow.op) hs
  have hshut := moverShut_of_canIssue hcan htrip
  have h0 := moving_issued (e := e) (rest := rest) (d := d) hops hshut
  have hb := untouched_begun hd
  have hstart : copying (begun s d) 0 0 = begun s d := by
    have hlen : 0 < cpLen (begun s d).raw := hrow.len
    rw [copying, if_pos hlen, hd]
    rfl
  have hq0 : Quiet s (pushProg t e (begun s d) (taken s t e rest)) := ⟨rfl, rfl, rfl⟩
  have hm := moverOf_lt he d.raw
  have hstarted : d.started = false := by rw [hd]; rfl
  have hended : d.ended = false := by rw [hd]; rfl
  have hall := fun y' n d' => transfer_runs (y' := y') (n := n) (d' := d') (p := fun r => decide (dOp r = 6))
    ⟨hready, hcan, hok⟩ (decide_eq_true hrow.op) hstarted (by rw [hrow.op]; decide) hended hc
    (fun x hx => (hfirst x hx).imp_left fun hne => decide_eq_false (hrow.op ▸ hne)) hops hshut
  generalize pushProg t e (begun s d) (taken s t e rest) = y0 at *
  rw [← hstart] at h0
  have hblocks := blocksMet_le (adLow (cpSrc d.raw) + 0) (cpLen d.raw - 0)
  obtain ⟨y1, n, hn, hpump, h1, hmoved, hwrote, hdata⟩ := copy_row (b := begun s d) hc hrow hb hm
    _ (Nat.zero_le _) hblocks h0 ((hq0.slateBad _ _ _).trans hrow.good)
  have hclear : MoveClear s t e (moverOf e d.raw) (copying (begun s d) (cpLen d.raw) (cpLen d.raw)).raw := by
    rw [copying_raw]
    exact hc
  have hnext : nextRead t (moverOf e d.raw) (copying (begun s d) (cpLen d.raw) (cpLen d.raw)) y1 = none :=
    nextRead_copied hb hrow.op hrow.rows h1
  obtain ⟨y2, hpump2, h2, hquiet⟩ := h1.ends hclear (copying_ended hb _ _) hnext
  have hsize := hrow.destRange
  refine ⟨y2, hall y2 _ _ (hpump.trans hpump2) ?_ h2 (copying_raw _ _ _) rfl, ?_, ?_, ?_⟩
  · have hlen : cpLen d.raw ≤ 2 ^ 23 := Nat.le_trans (Nat.le_add_left _ _) hsize
    omega
  · rw [← moverEnded_copying hd]
    refine transferred_of h2 ?_ (Nat.ne_of_gt hrow.len)
    have := ((hq0.moved t _).trans hmoved).trans (hquiet.moved t _)
    rwa [Nat.zero_add] at this
  · exact ((hq0.wrote _ _).trans hwrote).trans (hquiet.wrote _ _)
  · exact (hquiet.slateNat _ _ _).trans (hdata.trans (hq0.slateNat _ _ _))

end

end Sys2Proof.Machine

/-! ## Proofs: a CONVERT reads its sources -/

namespace Sys2Proof.Machine

open Sys2Proof

/-! ### What was read of a range (R203, R223) -/

/-- A read that has the bytes of a range of the Slate from `lo` on. -/
structure GotAt (s : State) (t : Nat) (u : OpUse) (base lo : Nat) (o : MoverOp) : Prop where
  use : o.use = u
  unit : o.unit = 0
  off : o.off = lo
  data : o.data = slateNat s t (base + lo) o.len
  pois : o.pois = 0
  done : o.at_ = .done stOk

/-- Reads that have the bytes of a range of the Slate from `lo` to `hi`, in order. -/
def Got (s : State) (t : Nat) (u : OpUse) (base hi : Nat) : Nat → List MoverOp → Prop
  | lo, [] => lo = hi
  | lo, o :: l => GotAt s t u base lo o ∧ Got s t u base hi (lo + o.len) l

section
variable {s : State} {t : Nat} {u : OpUse} {base : Nat}

theorem Got.concat {lo hi : Nat} {l : List MoverOp} {o : MoverOp} (h : Got s t u base hi lo l) (ho : GotAt s t u base hi o) :
    Got s t u base (hi + o.len) lo (l ++ [o]) := by
  induction l generalizing lo with
  | nil =>
    have hlo : lo = hi := h
    subst hlo
    exact ⟨ho, rfl⟩
  | cons x l ih => exact ⟨h.1, ih h.2⟩

theorem Got.forall {lo hi : Nat} {l : List MoverOp} (h : Got s t u base hi lo l) :
    ∀ o ∈ l, o.use = u ∧ o.unit = 0 ∧ o.at_ = .done stOk := by
  induction l generalizing lo with
  | nil => exact fun o ho => absurd ho (by simp)
  | cons x l ih =>
    intro o ho
    rcases List.mem_cons.mp ho with rfl | ho
    · exact ⟨h.1.use, h.1.unit, h.1.done⟩
    · exact ih h.2 o ho

/-- The uses of reads. -/
def SourceUse (u : OpUse) : Prop := u = .src ∨ u = .aux ∨ u = .book

theorem SourceUse.source (hu : SourceUse u) {o : MoverOp} (ho : o.use = u) : opSource o = true := by
  rcases hu with rfl | rfl | rfl <;> simp [opSource, ho]

theorem Got.allRead {lo hi : Nat} {l : List MoverOp} (h : Got s t u base hi lo l) (hu : SourceUse u) : AllRead l :=
  fun o ho => ⟨hu.source (h.forall o ho).1, (h.forall o ho).2⟩

theorem AllRead.append {l l' : List MoverOp} (h : AllRead l) (h' : AllRead l') : AllRead (l ++ l') := fun o ho =>
  (List.mem_append.mp ho).elim (h o) (h' o)

/-- What a list of good reads gives, gathered. -/
theorem foldl_gather {lo hi : Nat} {l : List MoverOp} (h : Got s t u base hi lo l) :
    l.foldl (fun g o =>
      if g.halted ∨ o.off ≠ g.len ∨ ¬ opDone o then g
      else { len := g.len + o.len, data := g.data + o.data * 2 ^ (8 * o.off), bad := g.bad + o.pois * 2 ^ o.off
             halted := badData (opStatus o) }) ({ len := lo, data := slateNat s t base lo } : Gathered) =
      { len := hi, data := slateNat s t base hi } := by
  induction l generalizing lo with
  | nil =>
    have hlo : lo = hi := h
    rw [hlo]
    rfl
  | cons o l ih =>
    obtain ⟨ho, hrest⟩ := h
    have hdone : opDone o = true := by rw [opDone, ho.done]
    have hok : badData (opStatus o) = false := by rw [opStatus, ho.done]; rfl
    have hgo : ¬ ((false : Bool) = true ∨ o.off ≠ lo ∨ ¬ opDone o = true) := by simp [ho.off, hdone]
    rw [List.foldl_cons]
    dsimp only
    rw [if_neg hgo, hok, ho.data, ho.pois, ho.off, Nat.zero_mul, ← slateNat_add]
    exact ih hrest

theorem gatherRow_got {n : Nat} {l : List MoverOp} (h : Got s t u base n 0 l) :
    gatherRow l = { len := n, data := slateNat s t base n } := foldl_gather h

theorem foldl_section {lo hi : Nat} {l : List MoverOp} (h : Got s t u base hi lo l) :
    l.foldl (fun n o => n + o.data * 2 ^ (8 * o.off)) (slateNat s t base lo) = slateNat s t base hi := by
  induction l generalizing lo with
  | nil =>
    have hlo : lo = hi := h
    rw [hlo]
    rfl
  | cons o l ih =>
    obtain ⟨ho, hrest⟩ := h
    rw [List.foldl_cons, ho.data, ho.off, ← slateNat_add]
    exact ih hrest

end

/-! ### A range is read, request by request -/

/-- The read of a range from `off` on. -/
def rangeRead (u : OpUse) (addr n r off detail : Nat) : MoverOp :=
  { tag := 0, use := u, unit := 0, off := off, addr := adPlus addr off, len := chunkAt (adLow addr) n off, pass := dPass r
    detail := detail }

/-- While its descriptor stands as `D off`, a CONVERT reads a range of the Slate from `off` on and takes nothing. -/
structure ReadsRange (s : State) (t e m : Nat) (rest : List Desc) (u : OpUse) (addr n : Nat) (D : Nat → Desc) (r : Nat) :
    Prop where
  source : SourceUse u
  raw : ∀ off, (D off).raw = r
  running : ∀ off, (D off).ended = false
  space : adSpace addr = 2
  range : adLow addr + n ≤ slateSize
  good : slateBad s t (adLow addr) n = false
  waits : ∀ off l y, off < n → Moving s t e m rest (D off) l y → AllRead l → (∀ o ∈ l, u ≠ .book → o.use ≠ .book) →
    takeStep t m (D off) y = none
  next : ∀ off l y, off < n → Moving s t e m rest (D off) l y → AllRead l → ∃ f detail,
    nextRead t m (D off) y = some (addOp t m (rangeRead u addr n r off detail) (updTransfer t m f y)) ∧
      f (D off) = D (off + chunkAt (adLow addr) n off)

section
variable {s : State} {t e m : Nat} {rest : List Desc} {u : OpUse} {addr n r : Nat} {D : Nat → Desc}

/-- One request more of the range is read. -/
theorem ReadsRange.one (hr : ReadsRange s t e m rest u addr n D r) (hop : dOp r = 7) (hc : MoveClear s t e m r) {off : Nat}
    (hoff : off < n) {l : List MoverOp} {y : State} (h : Moving s t e m rest (D off) l y) (hl : AllRead l)
    (hbook : ∀ o ∈ l, u ≠ .book → o.use ≠ .book) (hq : Quiet s y) :
    ∃ y' o, Pumps t m 2 y y' ∧ Moving s t e m rest (D (off + chunkAt (adLow addr) n off)) (l ++ [o]) y' ∧ Quiet y y' ∧
      GotAt s t u (adLow addr) off o ∧ o.len = chunkAt (adLow addr) n off := by
  obtain ⟨f, detail, hnext, hf⟩ := hr.next off l y hoff h hl
  obtain ⟨hlow, -⟩ := requestLen_chunk (z := y) (po := none) hr.space hoff hr.range
  have hgood : slateBad y t (adLow (rangeRead u addr n r off detail).addr) (rangeRead u addr n r off detail).len = false := by
    rw [hq.slateBad, rangeRead]
    dsimp only
    rw [hlow]
    exact slateBad_part hr.good (chunkAt_le (Nat.le_of_lt hoff))
  have hread : ReadsSlate y t (rangeRead u addr n r off detail) :=
    ⟨hr.source.source rfl, rfl, rfl, rfl, (adSpace_adPlus _ _).trans hr.space, hgood⟩
  have hclear : MoveClear s t e m (D off).raw := by rw [hr.raw]; exact hc
  obtain ⟨y', tag, hpump, hmoving, hquiet⟩ := h.read hclear (hr.running off) hl (.inr (by rw [hr.raw]; exact hop))
    (hr.waits off l y hoff h hl hbook) hnext hread (by rw [hf, hr.raw, hr.raw]) (by rw [hf]; exact hr.running _)
  rw [hf] at hmoving
  refine ⟨y', _, hpump, hmoving, hquiet, ⟨rfl, rfl, rfl, ?_, slatePoisMask_good hgood, rfl⟩, rfl⟩
  rw [← hlow, ← hq.slateNat]
  rfl

/-- The whole range is read. -/
theorem ReadsRange.run (hr : ReadsRange s t e m rest u addr n D r) (hop : dOp r = 7) (hc : MoveClear s t e m r) (c : Nat)
    {off : Nat} (hoff : off ≤ n) (hblocks : blocksMet (adLow addr + off) (n - off) ≤ c) {l0 l : List MoverOp} {y : State}
    (h : Moving s t e m rest (D off) (l0 ++ l) y) (hl0 : AllRead l0) (hbook : ∀ o ∈ l0, u ≠ .book → o.use ≠ .book)
    (hgot : Got s t u (adLow addr) off 0 l) (hq : Quiet s y) :
    ∃ y' k l', k ≤ 2 * c ∧ Pumps t m k y y' ∧ Moving s t e m rest (D n) (l0 ++ l') y' ∧ Quiet s y' ∧
      Got s t u (adLow addr) n 0 l' := by
  induction c generalizing off l y with
  | zero =>
    have hend : off = n := by
      unfold blocksMet at hblocks
      split at hblocks <;> omega
    subst hend
    exact ⟨y, 0, l, Nat.zero_le _, .refl t m y, h, hq, hgot⟩
  | succ c ih =>
    rcases Nat.lt_or_ge off n with hlt | hge
    · have hall : ∀ o ∈ l0 ++ l, u ≠ .book → o.use ≠ .book := fun o ho hu =>
        (List.mem_append.mp ho).elim (fun ho => hbook o ho hu) fun ho => by rw [(hgot.forall o ho).1]; exact hu
      obtain ⟨y1, o, hpump1, h1, hquiet, ho, hlen⟩ := hr.one hop hc hlt h (hl0.append (hgot.allRead hr.source)) hall hq
      have hle := chunkAt_le (base := adLow addr) hoff
      have hnext := blocksMet_succ (off := adLow addr + off) (n := n - off) (by omega)
      change blocksMet (adLow addr + off + chunkAt (adLow addr) n off) (n - off - chunkAt (adLow addr) n off) + 1 ≤ _ at hnext
      have hgot1 := hgot.concat ho
      rw [hlen] at hgot1
      rw [List.append_assoc] at h1
      obtain ⟨y2, k, l', hk, hpump2, h2, hq2, hgot2⟩ := ih hle (by rw [← Nat.add_assoc, ← Nat.sub_sub]; omega) h1 hgot1
        (hq.trans hquiet)
      exact ⟨y2, 2 + k, l', by omega, hpump1.trans hpump2, h2, hq2, hgot2⟩
    · have hend : off = n := by omega
      subst hend
      exact ⟨y, 0, l, Nat.zero_le _, .refl t m y, h, hq, hgot⟩

end

end Sys2Proof.Machine

/-! ## Proofs: a CONVERT of one row, from its codebook section to its row -/

namespace Sys2Proof.Machine

open Sys2Proof

/-! ### Nothing is taken while a row or section is read (R199, R203) -/

section
variable {s : State} {t e m : Nat} {rest : List Desc} {d : Desc} {ops : List MoverOp} {y : State}

theorem AllRead.mine {o : MoverOp} (hl : AllRead ops) (ho : o ∈ ops) :
    ops.filter (fun x => opSource x && decide (x.unit = o.unit)) = ops ∧
    (ops.any fun x => !opDone x) = false ∧ ops.filter (fun x => !(opSource x && decide (x.unit = o.unit))) = [] := by
  have hunit : ∀ x ∈ ops, (opSource x && decide (x.unit = o.unit)) = true := fun x hx => by
    simp [(hl x hx).1, (hl x hx).2.1, (hl o ho).2.1]
  refine ⟨List.filter_eq_self.mpr hunit, List.any_eq_false.mpr fun x hx => ?_, List.filter_eq_nil_iff.mpr fun x hx => ?_⟩
  · simp [opDone, (hl x hx).2.2]
  · simp [hunit x hx]

/-- Where all that was read has its data, the first of it says what is taken. -/
theorem takeStep_read {o : MoverOp} (h : Moving s t e m rest d (o :: ops) y) (hl : AllRead (o :: ops)) (hop : dOp d.raw = 7)
    (hcut : d.cut = 0) (hclosing : d.closing = false) :
    takeStep t m d y =
      if o.use == .book then if d.off < 32 then none else some (cvBookDone t m (o :: ops) y)
      else if 0 < d.pos then
        some (cvRow t m 0 (o :: ops) d (dropOps t m (fun x => opSource x && decide (x.unit = o.unit)) y))
      else none := by
  obtain ⟨hmine, hdone, -⟩ := hl.mine (o := o) (by simp)
  have hfirst : (o :: ops).find? opSource = some o := List.find?_cons_of_pos (hl o (by simp)).1
  have hunit := (hl o (by simp)).2.1
  rw [takeStep, if_pos hop]
  simp only [convertTake, h.transferOps, hfirst, hmine]
  rw [hdone, if_neg Bool.false_ne_true, if_neg (not_not_intro hcut), hclosing, if_neg Bool.false_ne_true, hunit]
  simp only [Bool.false_eq_true, false_or]

theorem takeStep_waits (h : Moving s t e m rest d ops y) (hl : AllRead ops) (hop : dOp d.raw = 7) (hcut : d.cut = 0)
    (hclosing : d.closing = false) (hpos : d.pos = 0) (hbook : ∀ o ∈ ops, o.use = .book → d.off < 32) :
    takeStep t m d y = none := by
  cases ops with
  | nil => exact takeStep_unsent h fun o ho => absurd ho (by simp)
  | cons o l =>
    rw [takeStep_read h hl hop hcut hclosing, hpos]
    split
    · next huse => exact if_pos (hbook o (by simp) (by simpa using huse))
    · rfl

theorem reads_allowed (h : Moving s t e m rest d ops y) (hl : AllRead ops) (hclosing : d.closing = false) :
    ¬ (d.closing = true ∨ ((transferOps y t m).filter (fun o => !opDone o)).length ≥ 64) := by
  have hnone : ops.filter (fun o => !opDone o) = [] := List.filter_eq_nil_iff.mpr fun o ho => by simp [opDone, (hl o ho).2.2]
  rw [h.transferOps, hnone, hclosing]
  simp

end

/-! ### A CONVERT of one row (R203) -/

/-- A CONVERT of one row within the Slate that passes its checks. -/
structure ConvertRow (s : State) (t r : Nat) : Prop where
  op : dOp r = 7
  rows : cvRows r = 1
  count : 1 ≤ cvCount r
  bits : 0 < fmtBits (cvIfmt r)
  source : adSpace (cvSrc r) = 2
  sourceRange : adLow (cvSrc r) + cvInBytes r ≤ slateSize
  sourceGood : slateBad s t (adLow (cvSrc r)) (cvInBytes r) = false
  dest : adSpace (cvDst r) = 2
  destRange : adLow (cvDst r) + cvOutBytes r ≤ slateSize
  aux : cvVariant r ≠ 0 ∨ cvBook r = true → adSpace (cvAux r) = 2
  second : 2 ≤ cvVariant r → adLow (cvAux r) + cvInBytes r ≤ slateSize ∧
    slateBad s t (adLow (cvAux r)) (cvInBytes r) = false
  low : cvVariant r = 1 → adLow (cvAux r) + cvOutBytes r ≤ slateSize ∧
    (adLow (cvDst r) + cvOutBytes r ≤ adLow (cvAux r) ∨ adLow (cvAux r) + cvOutBytes r ≤ adLow (cvDst r))
  book : cvBook r = true → adLow (cvAux r) + 32 ≤ slateSize ∧ slateBad s t (adLow (cvAux r)) 32 = false ∧
    bookOk (slateNat s t (adLow (cvAux r)) 32) = true

theorem elemBytes_pos {n w : Nat} (hn : 0 < n) (hw : 0 < w) : n * w ≤ 8 * elemBytes n w ∧ 0 < elemBytes n w := by
  have hpos : 0 < n * w := Nat.mul_pos hn hw
  unfold elemBytes ceilDiv
  rw [if_neg (by decide)]
  omega

theorem cvInBytes_eq (r : Nat) : cvInBytes r = elemBytes (cvCount r) (fmtBits (cvIfmt r)) := Nat.add_zero _

theorem ConvertRow.inBytes {s : State} {t r : Nat} (h : ConvertRow s t r) :
    0 < cvInBytes r ∧ wholeElems r (cvInBytes r) = cvCount r := by
  obtain ⟨hbits, hpos⟩ := elemBytes_pos h.count h.bits
  rw [← cvInBytes_eq] at hbits hpos
  have hmax : max 1 (fmtBits (cvIfmt r)) = fmtBits (cvIfmt r) := Nat.max_eq_right h.bits
  have hfull : cvCount r ≤ 8 * cvInBytes r / max 1 (fmtBits (cvIfmt r)) := by
    rw [hmax]
    exact (Nat.le_div_iff_mul_le h.bits).mpr hbits
  refine ⟨hpos, ?_⟩
  rw [wholeElems, Nat.min_eq_left hfull]
  exact if_pos (.inl rfl)

/-- The descriptor of a CONVERT of one row, of which `off` bytes of its sources are read. -/
def converting (b : Desc) (off : Nat) : Desc :=
  if off < cvInBytes b.raw * cvSources b.raw then { b with off := off } else { b with pos := 1 }

theorem converting_raw (b : Desc) (off : Nat) : (converting b off).raw = b.raw := by
  unfold converting
  split <;> rfl

theorem converting_ended {b : Desc} (hb : Untouched b) (off : Nat) : (converting b off).ended = false := by
  unfold converting
  split <;> exact hb.ended

/-- What a read of `k` bytes does to the descriptor of a row of `n` bytes. -/
def rowMoves (n k : Nat) (d : Desc) : Desc :=
  if d.off + k ≥ n then { d with pos := d.pos + 1, off := 0 } else { d with off := d.off + k }

theorem converting_moves {b : Desc} (hb : Untouched b) (k : Nat) {off : Nat}
    (hoff : off < cvInBytes b.raw * cvSources b.raw) :
    rowMoves (cvInBytes b.raw * cvSources b.raw) k (converting b off) = converting b (off + k) := by
  rw [rowMoves, converting, if_pos hoff, converting]
  dsimp only
  by_cases hend : off + k < cvInBytes b.raw * cvSources b.raw
  · rw [if_neg (by omega), if_pos hend]
  · rw [if_pos (by omega), if_neg hend, hb.pos, hb.off]

section
variable {s : State} {t e m : Nat} {rest : List Desc} {b : Desc}

/-! ### The reads of its sources -/

theorem first_unit {l : List MoverOp} (hl : AllRead l) : (((l.find? opSource).map (·.unit)).getD 0) = 0 := by
  cases hfind : l.find? opSource with
  | none => rfl
  | some o => exact (hl o (List.mem_of_find?_eq_some hfind)).2.1

/-- The next read of a CONVERT's row: of its first source, or of its second. -/
theorem nextRead_converting (hrow : ConvertRow s t b.raw) (hb : Untouched b) (htaking : b.taking = cvBook b.raw) {off : Nat}
    (hoff : off < cvInBytes b.raw * cvSources b.raw) {l : List MoverOp} {y : State}
    (h : Moving s t e m rest (converting b off) l y) (hl : AllRead l) :
    nextRead t m (converting b off) y =
      let second := cvInBytes b.raw ≤ off
      let off' := if second then off - cvInBytes b.raw else off
      let a := adPlus (if second then cvAux b.raw else cvSrc b.raw) off'
      some (makeRead t m (cvInBytes b.raw * cvSources b.raw)
        { tag := 0, use := if second then .aux else .src, unit := 0, off := off', addr := a
          len := requestLen y (dPass b.raw) a (cvInBytes b.raw - off'), pass := dPass b.raw, detail := off' } y) := by
  have hd : converting b off = { b with off := off } := if_pos hoff
  have hallowed := reads_allowed h hl (by rw [hd]; exact hb.closing)
  have hbooked : cvBooked { b with off := off } = true := by
    rw [cvBooked]
    dsimp only
    rw [htaking, Bool.or_not_self]
  rw [hd] at hallowed
  rw [nextRead, hd, if_neg hallowed]
  dsimp only
  rw [hrow.op, if_neg (by decide), if_neg (by decide), convertNext, if_neg (not_not_intro hbooked)]
  dsimp only
  rw [h.transferOps, hb.pos, first_unit hl, hrow.rows, if_neg (by decide)]
  simp only [Nat.zero_mul, Nat.zero_add]

/-- While a row is read, its first source. -/
theorem readsRange_src (hrow : ConvertRow s t b.raw) (hb : Untouched b) (htaking : b.taking = cvBook b.raw) :
    ReadsRange s t e m rest .src (cvSrc b.raw) (cvInBytes b.raw) (converting b) b.raw where
  source := .inl rfl
  raw := converting_raw b
  running := converting_ended hb
  space := hrow.source
  range := hrow.sourceRange
  good := hrow.sourceGood
  waits off l y hoff h hl hbook := by
    have hlt : off < cvInBytes b.raw * cvSources b.raw := by unfold cvSources; split <;> omega
    have hd : converting b off = { b with off := off } := if_pos hlt
    rw [hd] at h ⊢
    exact takeStep_waits h hl hrow.op hb.cut hb.closing hb.pos fun o ho huse => absurd huse (hbook o ho (by decide))
  next off l y hoff h hl := by
    have hlt : off < cvInBytes b.raw * cvSources b.raw := by unfold cvSources; split <;> omega
    have hfirst : ¬ cvInBytes b.raw ≤ off := by omega
    obtain ⟨-, hlen⟩ := requestLen_chunk (z := y) (po := dPass b.raw) hrow.source hoff hrow.sourceRange
    refine ⟨_, off, ?_, converting_moves hb (chunkAt (adLow (cvSrc b.raw)) (cvInBytes b.raw) off) hlt⟩
    rw [nextRead_converting hrow hb htaking hlt h hl]
    dsimp only
    simp only [if_neg hfirst]
    rw [hlen]
    rfl

/-- Then its second source, of a pair. -/
theorem readsRange_aux (hrow : ConvertRow s t b.raw) (hb : Untouched b) (htaking : b.taking = cvBook b.raw)
    (hpair : 2 ≤ cvVariant b.raw) :
    ReadsRange s t e m rest .aux (cvAux b.raw) (cvInBytes b.raw) (fun off => converting b (cvInBytes b.raw + off)) b.raw where
  source := .inr (.inl rfl)
  raw _ := converting_raw b _
  running _ := converting_ended hb _
  space := hrow.aux (.inl (by omega))
  range := (hrow.second hpair).1
  good := (hrow.second hpair).2
  waits off l y hoff h hl hbook := by
    have hlt : cvInBytes b.raw + off < cvInBytes b.raw * cvSources b.raw := by rw [cvSources, if_pos hpair]; omega
    have hd : converting b (cvInBytes b.raw + off) = { b with off := cvInBytes b.raw + off } := if_pos hlt
    rw [hd] at h ⊢
    exact takeStep_waits h hl hrow.op hb.cut hb.closing hb.pos fun o ho huse => absurd huse (hbook o ho (by decide))
  next off l y hoff h hl := by
    have hlt : cvInBytes b.raw + off < cvInBytes b.raw * cvSources b.raw := by rw [cvSources, if_pos hpair]; omega
    have hsecond : cvInBytes b.raw ≤ cvInBytes b.raw + off := Nat.le_add_right _ _
    obtain ⟨-, hlen⟩ := requestLen_chunk (z := y) (po := dPass b.raw) (hrow.aux (.inl (by omega))) hoff (hrow.second hpair).1
    refine ⟨_, off, ?_, (converting_moves hb (chunkAt (adLow (cvAux b.raw)) (cvInBytes b.raw) off) hlt).trans
      (congrArg _ (Nat.add_assoc _ _ _))⟩
    rw [nextRead_converting hrow hb htaking hlt h hl]
    dsimp only
    simp only [if_pos hsecond, Nat.add_sub_cancel_left]
    rw [hlen]
    rfl

/-- The codebook section of a CONVERT is read first (R199). -/
theorem readsRange_book (hrow : ConvertRow s t b.raw) (hb : Untouched b) (htaking : b.taking = false)
    (hbook : cvBook b.raw = true) :
    ReadsRange s t e m rest .book (cvAux b.raw) 32 (fun off => { b with off := off }) b.raw where
  source := .inr (.inr rfl)
  raw _ := rfl
  running _ := hb.ended
  space := hrow.aux (.inr hbook)
  range := (hrow.book hbook).1
  good := (hrow.book hbook).2.1
  waits off l y hoff h hl _ := takeStep_waits h hl hrow.op hb.cut hb.closing hb.pos fun _ _ _ => hoff
  next off l y hoff h hl := by
    obtain ⟨-, hlen⟩ := requestLen_chunk (z := y) (po := dPass b.raw) (hrow.aux (.inr hbook)) hoff (hrow.book hbook).1
    have hallowed := reads_allowed h hl hb.closing
    have hbooked : ¬ cvBooked { b with off := off } = true := by
      rw [cvBooked]
      dsimp only
      rw [htaking, hbook]
      decide
    refine ⟨fun d => { d with off := d.off + chunkAt (adLow (cvAux b.raw)) 32 off }, off, ?_, rfl⟩
    rw [nextRead, if_neg hallowed]
    dsimp only
    rw [hrow.op, if_neg (by decide), if_neg (by decide), convertNext, if_pos hbooked]
    dsimp only
    rw [if_neg (by omega), hlen]
    rfl

/-! ### The whole row and the whole section -/

/-- Bytes and data of a row's second source, which only a pair has (R203). -/
def secondLen (r : Nat) : Nat := if 2 ≤ cvVariant r then cvInBytes r else 0
def secondData (s : State) (t r : Nat) : Nat := if 2 ≤ cvVariant r then slateNat s t (adLow (cvAux r)) (cvInBytes r) else 0

/-- The sources of a row, read. -/
structure RowRead (s : State) (t r : Nat) (l : List MoverOp) : Prop where
  first : gatherRow (l.filter (fun o => o.use == .src)) =
    { len := cvInBytes r, data := slateNat s t (adLow (cvSrc r)) (cvInBytes r) }
  second : gatherRow (l.filter (fun o => o.use == .aux)) = { len := secondLen r, data := secondData s t r }
  uses : ∀ o ∈ l, o.use ≠ .book
  all : AllRead l
  some : l ≠ []

theorem Got.filter_same {u : OpUse} {base hi lo : Nat} {l : List MoverOp} (h : Got s t u base hi lo l) :
    l.filter (fun o => o.use == u) = l := List.filter_eq_self.mpr fun o ho => by simp [(h.forall o ho).1]

theorem Got.filter_other {u v : OpUse} {base hi lo : Nat} {l : List MoverOp} (h : Got s t u base hi lo l) (hv : u ≠ v) :
    l.filter (fun o => o.use == v) = [] := List.filter_eq_nil_iff.mpr fun o ho => by simp [(h.forall o ho).1, hv]

theorem Got.ne_nil {u : OpUse} {base hi : Nat} {l : List MoverOp} (h : Got s t u base hi 0 l) (hpos : 0 < hi) : l ≠ [] := by
  rintro rfl
  exact absurd h (Nat.ne_of_lt hpos)

theorem rowRead_one {r : Nat} {l : List MoverOp} (h : Got s t .src (adLow (cvSrc r)) (cvInBytes r) 0 l)
    (hn : 0 < cvInBytes r) (hv : ¬ 2 ≤ cvVariant r) : RowRead s t r l where
  first := by rw [h.filter_same, gatherRow_got h]
  second := by rw [h.filter_other (by decide), secondLen, secondData, if_neg hv, if_neg hv]; rfl
  uses o ho := by rw [(h.forall o ho).1]; decide
  all := h.allRead (.inl rfl)
  some := h.ne_nil hn

theorem rowRead_two {r : Nat} {l l' : List MoverOp} (h : Got s t .src (adLow (cvSrc r)) (cvInBytes r) 0 l)
    (h' : Got s t .aux (adLow (cvAux r)) (cvInBytes r) 0 l') (hn : 0 < cvInBytes r) (hv : 2 ≤ cvVariant r) :
    RowRead s t r (l ++ l') where
  first := by rw [List.filter_append, h.filter_same, h'.filter_other (by decide), List.append_nil, gatherRow_got h]
  second := by rw [List.filter_append, h.filter_other (by decide), h'.filter_same, List.nil_append, gatherRow_got h', secondLen,
    secondData, if_pos hv, if_pos hv]
  uses o ho := (List.mem_append.mp ho).elim (fun ho => by rw [(h.forall o ho).1]; decide)
    fun ho => by rw [(h'.forall o ho).1]; decide
  all := (h.allRead (.inl rfl)).append (h'.allRead (.inr (.inl rfl)))
  some hnil := h.ne_nil hn (List.append_eq_nil_iff.mp hnil).1

/-- All of a row is read. -/
theorem convert_reads (hc : MoveClear s t e m b.raw) (hrow : ConvertRow s t b.raw) (hb : Untouched b)
    (htaking : b.taking = cvBook b.raw) {y : State} (h : Moving s t e m rest b [] y) (hq : Quiet s y) :
    ∃ y' k l, k ≤ 4 * (cvInBytes b.raw / 2048 + 2) ∧ Pumps t m k y y' ∧ Moving s t e m rest { b with pos := 1 } l y' ∧
      Quiet s y' ∧ RowRead s t b.raw l := by
  obtain ⟨hn, -⟩ := hrow.inBytes
  have hall : 0 < cvInBytes b.raw * cvSources b.raw := Nat.mul_pos hn (by unfold cvSources; split <;> decide)
  have hstart : converting b 0 = b := by
    rw [converting, if_pos hall, ← hb.off]
  rw [← hstart] at h
  obtain ⟨y1, k1, l1, hk1, hpump1, h1, hq1, hgot1⟩ := (readsRange_src hrow hb htaking).run hrow.op hc _ (Nat.zero_le _)
    (blocksMet_le _ _) (l0 := []) (l := []) h .nil (fun o ho => absurd ho (by simp)) rfl hq
  rw [List.nil_append] at h1
  by_cases hpair : 2 ≤ cvVariant b.raw
  · have htwo : cvSources b.raw = 2 := if_pos hpair
    have hfirst : ∀ o ∈ l1, OpUse.aux ≠ .book → o.use ≠ .book := fun o ho _ => by rw [(hgot1.forall o ho).1]; decide
    obtain ⟨y2, k2, l2, hk2, hpump2, h2, hq2, hgot2⟩ := (readsRange_aux hrow hb htaking hpair).run hrow.op hc _
      (Nat.zero_le _) (blocksMet_le _ _) (l0 := l1) (l := []) (by rw [List.append_nil]; exact h1)
      (hgot1.allRead (.inl rfl)) hfirst rfl hq1
    have hend : converting b (cvInBytes b.raw + cvInBytes b.raw) = { b with pos := 1 } := if_neg (by rw [htwo]; omega)
    rw [hend] at h2
    exact ⟨y2, k1 + k2, l1 ++ l2, by omega, hpump1.trans hpump2, h2, hq2, rowRead_two hgot1 hgot2 hn hpair⟩
  · have hone : cvSources b.raw = 1 := if_neg hpair
    have hend : converting b (cvInBytes b.raw) = { b with pos := 1 } := if_neg (by rw [hone]; omega)
    rw [hend] at h1
    exact ⟨y1, k1, l1, by omega, hpump1, h1, hq1, rowRead_one hgot1 hn hpair⟩

/-- The codebook section is read and taken, and the rows come next (R199, R205). -/
theorem convert_books (hc : MoveClear s t e m b.raw) (hrow : ConvertRow s t b.raw) (hb : Untouched b)
    (htaking : b.taking = false) (hbook : cvBook b.raw = true) {y : State} (h : Moving s t e m rest b [] y) (hq : Quiet s y) :
    ∃ y' k, k ≤ 9 ∧ Pumps t m k y y' ∧
      Moving s t e m rest { b with data := slateNat s t (adLow (cvAux b.raw)) 32, taking := true } [] y' ∧ Quiet s y' := by
  have hstart : { b with off := 0 } = b := by rw [← hb.off]
  rw [← hstart] at h
  obtain ⟨y1, k, l, hk, hpump, h1, hq1, hgot⟩ := (readsRange_book hrow hb htaking hbook).run hrow.op hc _
    (Nat.zero_le _) (blocksMet_le _ _) (l0 := []) (l := []) h .nil (fun o ho => absurd ho (by simp)) rfl hq
  rw [List.nil_append] at h1
  have hread := hgot.allRead (.inr (.inr rfl))
  obtain ⟨o, l, rfl⟩ := List.exists_cons_of_ne_nil (hgot.ne_nil (by decide))
  have htakes := takeStep_read h1 hread hrow.op hb.cut hb.closing
  have huse : (o.use == .book) = true := by simp [(hgot.forall o (by simp)).1]
  have hsection : (o :: l).foldl (fun n o => n + o.data * 2 ^ (8 * o.off)) 0 = slateNat s t (adLow (cvAux b.raw)) 32 :=
    foldl_section hgot
  have hdrop := h1.dropOps (fun o => o.use == .book)
  have hnone : (o :: l).filter (fun o => !(o.use == .book)) = [] :=
    List.filter_eq_nil_iff.mpr fun x hx => by simp [(hgot.forall x hx).1]
  rw [hnone] at hdrop
  have hquiet : Quiet y1 (dropOps t m (fun o => o.use == .book) y1) := quiet_modMover t m _ y1
  rw [huse, if_pos rfl, if_neg (Nat.lt_irrefl 32), cvBookDone] at htakes
  dsimp only at htakes
  rw [hsection, if_pos (hrow.book hbook).2.2] at htakes
  have hstep := moverStep_takes h1 hc hb.ended (fun x hx => by rw [opWritten, (hgot.forall x hx).1]; rfl) htakes
  have hup := hdrop.upd hc hb.ended
    (fun d => { d with data := slateNat s t (adLow (cvAux b.raw)) 32, taking := true, off := 0 })
  refine ⟨_, k + 1, by omega, hpump.trans (Pumps.step hstep), ?_, (hq1.trans hquiet).trans (quiet_updTransfer t m _ _)⟩
  have hdesc : ({ b with data := slateNat s t (adLow (cvAux b.raw)) 32, taking := true, off := 0 } : Desc) =
      { b with data := slateNat s t (adLow (cvAux b.raw)) 32, taking := true } := by rw [← hb.off]
  exact hdesc ▸ hup

end

end Sys2Proof.Machine

/-! ## Proofs: a CONVERT of one row is converted and written -/

namespace Sys2Proof.Machine

open Sys2Proof

/-! ### The row as it is converted (R199, R202, R203) -/

/-- The output of a whole row, from what its sources gave and the codebook taken. -/
def rowOut (s : State) (t : Nat) (d : Desc) : Nat × Nat × FlagCount :=
  cvOutput d.raw (if cvBook d.raw then bookOf d.data else {}) (cvCount d.raw)
    (slateNat s t (adLow (cvSrc d.raw)) (cvInBytes d.raw)) (secondData s t d.raw)

/-- The descriptor of a CONVERT whose row is converted. -/
def rowCounted (s : State) (t : Nat) (d : Desc) : Desc :=
  { d with count := d.count + cvCount d.raw, flags := d.flags ||| flagBits (rowOut s t d).2.2 }

/-- A row's elements, bytes and flags counted. -/
def rowBooked (s : State) (t m : Nat) (d : Desc) (y : State) : State :=
  updTransfer t m (fun d' => { d' with
      count := d'.count + cvCount d.raw, flags := d'.flags ||| flagBits (rowOut s t d).2.2, cut := d'.cut })
    (countFlags t (rowOut s t d).2.2 (countMoved t m (cvInBytes d.raw + secondLen d.raw) y))

/-- A whole row of good data is written to its outputs. -/
def rowWrites (s : State) (t m : Nat) (d : Desc) (y : State) : State :=
  let y1 := makeWrites t m d (adPlus (cvDst d.raw) 0) (cvOutBytes d.raw) (rowOut s t d).1 0 0 y
  if cvVariant d.raw ≠ 1 then y1
  else makeWrites t m d (adPlus (cvAux d.raw) 0) (cvOutBytes d.raw) (rowOut s t d).2.1 0 0 y1

theorem cvWrites_whole (t m : Nat) (d : Desc) (base data : Nat) (y : State) :
    cvWrites t m 0 (cvCount d.raw) d base data 0 y = makeWrites t m d (adPlus base 0) (cvOutBytes d.raw) data 0 0 y := by
  rw [cvWrites]
  dsimp only
  rw [if_pos rfl, Nat.zero_mul, Nat.zero_mul]

section
variable {s : State} {t e m : Nat} {rest : List Desc} {d : Desc} {l : List MoverOp} {y : State}

theorem wholeElems_row (hrow : ConvertRow s t d.raw) :
    wholeElems d.raw (if decide (cvSources d.raw = 2) = true then min (cvInBytes d.raw) (secondLen d.raw)
      else cvInBytes d.raw) = cvCount d.raw := by
  obtain ⟨-, hwhole⟩ := hrow.inBytes
  by_cases hpair : 2 ≤ cvVariant d.raw
  · rw [secondLen, if_pos hpair, Nat.min_self, ite_self, hwhole]
  · have hone : cvSources d.raw = 1 := if_neg hpair
    rw [hone, if_neg (by decide), hwhole]

theorem cvRow_eq (hrow : ConvertRow s t d.raw) (hl : RowRead s t d.raw l) :
    cvRow t m 0 l d y = rowWrites s t m d (rowBooked s t m d y) := by
  have hcount : ¬ cvCount d.raw = 0 := Nat.ne_of_gt hrow.count
  rw [cvRow, hl.first, hl.second]
  dsimp only
  rw [wholeElems_row hrow]
  simp only [if_neg hcount, Nat.or_self, if_true, Bool.or_self, Bool.false_eq_true, if_false]
  simp only [cvWrites_whole, hcount, false_or]
  rfl

/-! ### What is counted -/

theorem key_notFlag {t m : Nat} (hm : m < 12) : (t, Obj.moverBytes + m) ∉ flagCounts t := by
  simp only [List.mem_cons, List.not_mem_nil, or_false, Prod.mk.injEq, Obj.moverBytes, Obj.conversionInvalid,
    Obj.conversionOverflows, Obj.conversionUnderflows]
  omega

/-- Bytes more of a mover channel; beside it the counts of conversion flags alone have changed. -/
structure RowMoved (t m n : Nat) (y y' : State) : Prop where
  objs : OtherObjects y y' ((t, Obj.moverBytes + m) :: flagCounts t)
  bytes : getObj y' t (Obj.moverBytes + m) = (getObj y t (Obj.moverBytes + m) + n) % 2 ^ 64

theorem RowMoved.quiet {m n : Nat} {y y' y'' : State} (h : RowMoved t m n y y') (h' : BytesMoved t m 0 y' y'') :
    RowMoved t m n y y'' := by
  refine ⟨h.objs.trans (h'.objs.mono (by simp)), ?_⟩
  rcases h'.bytes with ⟨-, hsame⟩ | hmod
  · exact hsame.trans h.bytes
  · rw [hmod, h.bytes, Nat.add_zero, Nat.mod_mod]

theorem Quiet.rowMoved {m n : Nat} {y y' y'' : State} (h : Quiet y y') (h' : RowMoved t m n y' y'') :
    RowMoved t m n y y'' :=
  ⟨(otherObjects_none h.dict _).trans h'.objs, by rw [h'.bytes, getObj_congr h.dict]⟩

/-- A row's counts leave the Slate and the requests alone. -/
theorem Moving.rowBooked (h : Moving s t e m rest d l y) (hrow : ConvertRow s t d.raw) (hc : MoveClear s t e m d.raw)
    (hd : d.ended = false) (hm : m < 12) :
    Moving s t e m rest (rowCounted s t d) l (rowBooked s t m d y) ∧
    RowMoved t m (cvInBytes d.raw + secondLen d.raw) y (Machine.rowBooked s t m d y) ∧
    (Machine.rowBooked s t m d y).slate = y.slate ∧ (Machine.rowBooked s t m d y).slatePois = y.slatePois := by
  unfold Machine.rowBooked
  have hmoving := h.countMoved hm (cvInBytes d.raw + secondLen d.raw)
  have hmoved := bytesMoved_countMoved (t := t) (n := cvInBytes d.raw + secondLen d.raw) hm y
  have hfields := countMoved_fields t m (cvInBytes d.raw + secondLen d.raw) y
  have hbytes := hmoved.bytes.resolve_left fun h0 => absurd hrow.inBytes.1 (by omega)
  generalize Machine.countMoved t m (cvInBytes d.raw + secondLen d.raw) y = y1 at *
  have hflags := countFlags_fields t (rowOut s t d).2.2 y1
  have hobjs := otherObjects_countFlags t (rowOut s t d).2.2 y1
  generalize countFlags t (rowOut s t d).2.2 y1 = y2 at *
  have hcounted := hmoving.counted (z := y2) hm (by rw [hflags]) (hobjs.mono (by simp))
  have hup := hcounted.upd hc hd (fun d' => { d' with
      count := d'.count + cvCount d.raw, flags := d'.flags ||| flagBits (rowOut s t d).2.2, cut := d'.cut })
  have hquiet := quiet_updTransfer t m (fun d' => { d' with
      count := d'.count + cvCount d.raw, flags := d'.flags ||| flagBits (rowOut s t d).2.2, cut := d'.cut }) y2
  refine ⟨hup, ⟨?_, ?_⟩, ?_, ?_⟩
  · exact ((hmoved.objs.mono (by simp)).trans (hobjs.mono (by simp))).trans (otherObjects_none hquiet.dict _)
  · exact (getObj_congr hquiet.dict _ _).trans
      ((hobjs t _ (moverBytes_key hm).1 (key_notFlag hm)).trans hbytes)
  · rw [hquiet.slate, hflags, hfields]
  · rw [hquiet.pois, hflags, hfields]

/-! ### The outputs of the row -/

theorem bits_low (x n : Nat) : bits x (8 * 0) n = x % 2 ^ n := by
  rw [Nat.mul_zero, bits, Nat.pow_zero, Nat.div_one]

/-- The bytes of a row's outputs. -/
def RowBytes (r o : Nat) : Prop := (adLow (cvDst r) ≤ o ∧ o < adLow (cvDst r) + cvOutBytes r) ∨
  (cvVariant r = 1 ∧ adLow (cvAux r) ≤ o ∧ o < adLow (cvAux r) + cvOutBytes r)

/-- The outputs of a row lie in the Slate, and nothing else of it has changed. -/
structure RowWritten (s : State) (t : Nat) (d : Desc) (y y' : State) : Prop where
  first : slateNat y' t (adLow (cvDst d.raw)) (cvOutBytes d.raw) = (rowOut s t d).1 % 2 ^ (8 * cvOutBytes d.raw)
  low : cvVariant d.raw = 1 →
    slateNat y' t (adLow (cvAux d.raw)) (cvOutBytes d.raw) = (rowOut s t d).2.1 % 2 ^ (8 * cvOutBytes d.raw)
  other : OtherSlate y y' t (RowBytes d.raw)

theorem OtherSlate.trans {K : Nat → Prop} {a b c : State} (h : OtherSlate a b t K) (h' : OtherSlate b c t K) :
    OtherSlate a c t K := fun u o ho hn => (h' u o ho hn).trans (h u o ho hn)

theorem OtherSlate.mono {K K' : Nat → Prop} {a b : State} (h : OtherSlate a b t K) (hK : ∀ o, K o → K' o) :
    OtherSlate a b t K' := fun u o ho hn => h u o ho (hn.imp_right fun hn hk => hn (hK o hk))

theorem Wrote.otherSlate {off n : Nat} {a b : State} (h : Wrote t off n a b) (hrange : off + n ≤ slateSize) :
    OtherSlate a b t (fun o => off ≤ o ∧ o < off + n) := otherSlate_of_bytes hrange h.bytes

theorem adPlus_zero {a : Nat} : adSpace (adPlus a 0) = adSpace a ∧ adLow (adPlus a 0) = adLow a := by
  have hlt : adLow a < 2 ^ 40 := Nat.mod_lt _ (by decide)
  exact ⟨adSpace_adPlus a 0, adLow_adPlus hlt⟩

/-- The requests that write an output row are put behind the others. -/
theorem Moving.outputs (h : Moving s t e m rest d l y) (d0 : Desc) {addr n : Nat} (data : Nat) (hspace : adSpace addr = 2)
    (hrange : adLow addr + n ≤ slateSize) :
    ∃ l', Moving s t e m rest d (l ++ l') (Machine.makeWrites t m d0 (adPlus addr 0) n data 0 0 y) ∧
      Quiet y (Machine.makeWrites t m d0 (adPlus addr 0) n data 0 0 y) ∧
      Puts (adLow addr) data n 0 l' ∧ l'.length ≤ n / 2048 + 2 := by
  obtain ⟨hspace0, hlow0⟩ := adPlus_zero (a := addr)
  have hputs := h.makeWrites d0 data 0 (hspace0.trans hspace) (n := n) (by rw [hlow0]; exact hrange)
  rwa [hlow0] at hputs

/-- The requests of an output row are done. -/
theorem Moving.outputDone {base data n : Nat} {l' : List MoverOp} (h : Moving s t e m rest d (l' ++ l) y)
    (hc : MoveClear s t e m d.raw) (hop : dOp d.raw = 7) (hd : d.ended = false) (hm : m < 12) (hputs : Puts base data n 0 l')
    (hl : Unsent l) :
    ∃ y', Pumps t m (2 * l'.length) y y' ∧ Moving s t e m rest d l y' ∧ BytesMoved t m 0 y y' ∧ Wrote t base n y y' ∧
      slateNat y' t base n = data % 2 ^ (8 * n) := by
  have hwrites := h.writes l' hc hd hm hputs hl
  have hzero : countedBy d.raw n = 0 := if_pos hop
  rwa [Nat.sub_zero, hzero, Nat.add_zero, bits_low] at hwrites

/-- A row's outputs are put into requests, and these are done. -/
theorem Moving.rowWrites {d0 : Desc} (h : Moving s t e m rest d [] y) (hrow : ConvertRow s t d0.raw) (hraw : d.raw = d0.raw)
    (hc : MoveClear s t e m d0.raw) (hd : d.ended = false) (hm : m < 12) :
    ∃ y' k, k ≤ 4 * (cvOutBytes d0.raw / 2048 + 2) ∧ Pumps t m k (rowWrites s t m d0 y) y' ∧ Moving s t e m rest d [] y' ∧
      BytesMoved t m 0 y y' ∧ RowWritten s t d0 y y' := by
  rw [← hraw] at hc
  have hop : dOp d.raw = 7 := hraw ▸ hrow.op
  obtain ⟨l1, h1, hquiet1, hputs1, hlen1⟩ := h.outputs d0 (rowOut s t d0).1 hrow.dest hrow.destRange
  rw [List.nil_append] at h1
  rw [Machine.rowWrites]
  generalize Machine.makeWrites t m d0 (adPlus (cvDst d0.raw) 0) (cvOutBytes d0.raw) (rowOut s t d0).1 0 0 y = y1 at *
  by_cases hv : cvVariant d0.raw = 1
  · obtain ⟨hrange, hapart⟩ := hrow.low hv
    obtain ⟨l2, h2, hquiet2, hputs2, hlen2⟩ := h1.outputs d0 (rowOut s t d0).2.1 (hrow.aux (.inl (by rw [hv]; decide))) hrange
    rw [if_neg (not_not_intro hv)]
    generalize Machine.makeWrites t m d0 (adPlus (cvAux d0.raw) 0) (cvOutBytes d0.raw) (rowOut s t d0).2.1 0 0 y1 = y2 at *
    obtain ⟨y3, hpump3, h3, hmoved3, hwrote3, hdata3⟩ := h2.outputDone hc hop hd hm hputs1 hputs2.unsent
    rw [← List.append_nil l2] at h3
    obtain ⟨y4, hpump4, h4, hmoved4, hwrote4, hdata4⟩ := h3.outputDone hc hop hd hm hputs2 fun o ho => absurd ho (by simp)
    have hquiet := hquiet1.trans hquiet2
    have hdst := ((hquiet.wrote _ _).trans hwrote3).otherSlate hrow.destRange
    refine ⟨y4, _, ?_, hpump3.trans hpump4, h4, (hquiet.moved t m).trans (hmoved3.trans hmoved4), ?_, fun _ => hdata4, ?_⟩
    · omega
    · rw [hwrote4.slateNat hapart, hdata3]
    · exact (hdst.mono fun o ho => .inl ho).trans ((hwrote4.otherSlate hrange).mono fun o ho => .inr ⟨hv, ho⟩)
  · rw [if_pos hv]
    rw [← List.append_nil l1] at h1
    obtain ⟨y3, hpump3, h3, hmoved3, hwrote3, hdata3⟩ := h1.outputDone hc hop hd hm hputs1 fun o ho => absurd ho (by simp)
    refine ⟨y3, _, ?_, hpump3, h3, (hquiet1.moved t m).trans hmoved3, hdata3, fun h1 => absurd h1 hv, ?_⟩
    · omega
    · exact (((hquiet1.wrote _ _).trans hwrote3).otherSlate hrow.destRange).mono fun o ho => .inl ho

/-! ### The row, from its data to its outputs -/

/-- A row that is read is converted, and its outputs are written. -/
theorem convert_outputs (h : Moving s t e m rest d l y) (hrow : ConvertRow s t d.raw) (hl : RowRead s t d.raw l)
    (hc : MoveClear s t e m d.raw) (hd : d.ended = false) (hcut : d.cut = 0) (hclosing : d.closing = false)
    (hpos : d.pos = 1) (hm : m < 12) :
    ∃ y' k, k ≤ 4 * (cvOutBytes d.raw / 2048 + 2) + 1 ∧ Pumps t m k y y' ∧
      Moving s t e m rest (rowCounted s t d) [] y' ∧ RowMoved t m (cvInBytes d.raw + secondLen d.raw) y y' ∧
      RowWritten s t d y y' := by
  obtain ⟨o, l, rfl⟩ := List.exists_cons_of_ne_nil hl.some
  have huse : ¬ (o.use == .book) = true := by simpa using hl.uses o (by simp)
  have htakes := takeStep_read h hl.all hrow.op hcut hclosing
  rw [if_neg huse, if_pos (by rw [hpos]; decide), cvRow_eq hrow hl] at htakes
  have hstep := moverStep_takes h hc hd (fun x hx => by rw [opWritten, not_dst_of_source (hl.all x hx).1]; rfl) htakes
  obtain ⟨-, -, hnone⟩ := hl.all.mine (o := o) (by simp)
  have hdrop := h.dropOps (fun x => opSource x && decide (x.unit = o.unit))
  rw [hnone] at hdrop
  have hquiet : Quiet y (dropOps t m (fun x => opSource x && decide (x.unit = o.unit)) y) := quiet_modMover t m _ y
  generalize dropOps t m (fun x => opSource x && decide (x.unit = o.unit)) y = z at *
  obtain ⟨hbooked, hmoved, hslate, hpois⟩ := hdrop.rowBooked hrow hc hd hm
  obtain ⟨y', k, hk, hpump, hdone, hquietly, hwritten⟩ := hbooked.rowWrites (d0 := d) hrow rfl hc hd hm
  refine ⟨y', 1 + k, by omega, (Pumps.step hstep).trans hpump, hdone, hquiet.rowMoved (hmoved.quiet hquietly),
    hwritten.first, hwritten.low, ?_⟩
  have hsame : OtherSlate y (rowBooked s t m d z) t (RowBytes d.raw) := fun u o _ _ => by rw [hslate, hquiet.slate]
  exact hsame.trans hwritten.other

/-- With its row converted, a CONVERT makes no further read. -/
theorem nextRead_converted (h : Moving s t e m rest d [] y) (hrow : ConvertRow s t d.raw) (hclosing : d.closing = false)
    (hbooked : cvBooked d = true) (hpos : d.pos = 1) : nextRead t m d y = none := by
  have hallowed := reads_allowed h .nil hclosing
  rw [nextRead, if_neg hallowed]
  rw [hrow.op, if_neg (by decide), if_neg (by decide), convertNext, if_neg (not_not_intro hbooked)]
  dsimp only
  rw [if_pos (.inl (by rw [hpos, hrow.rows]))]

end

/-! ### A CONVERT from its issue to its end -/

section
variable {s : State} {t e m : Nat} {rest : List Desc} {b : Desc} {y : State}

/-- The descriptor of a CONVERT whose codebook section, if it has one, is taken. -/
def sectioned (s : State) (t : Nat) (b : Desc) : Desc :=
  if cvBook b.raw then { b with data := slateNat s t (adLow (cvAux b.raw)) 32, taking := true } else b

theorem sectioned_raw (s : State) (t : Nat) (b : Desc) : (sectioned s t b).raw = b.raw := by
  unfold sectioned
  split <;> rfl

theorem sectioned_taking (s : State) (t : Nat) {b : Desc} (htaking : b.taking = false) :
    (sectioned s t b).taking = cvBook b.raw := by
  unfold sectioned
  split
  · next h => exact h.symm
  · next h => rw [htaking, Bool.eq_false_iff.mpr h]

theorem sectioned_untouched (s : State) (t : Nat) {b : Desc} (hb : Untouched b) : Untouched (sectioned s t b) := by
  unfold sectioned
  split
  · exact ⟨hb.ended, hb.pos, hb.off, hb.count, hb.cut, hb.closing⟩
  · exact hb

/-- A CONVERT of one row runs to its end. -/
theorem convert_runs (h : Moving s t e m rest b [] y) (hq : Quiet s y) (hc : MoveClear s t e m b.raw)
    (hrow : ConvertRow s t b.raw) (hb : Untouched b) (htaking : b.taking = false) (hm : m < 12) :
    ∃ y' k, k ≤ 1048576 ∧ Pumps t m k y y' ∧
      Moving s t e m rest (moverEnded (rowCounted s t { sectioned s t b with pos := 1 })) [] y' ∧
      RowMoved t m (cvInBytes b.raw + secondLen b.raw) s y' ∧ RowWritten s t { sectioned s t b with pos := 1 } s y' := by
  have hraw := sectioned_raw s t b
  have hbook : ∃ y1 k1, k1 ≤ 9 ∧ Pumps t m k1 y y1 ∧ Moving s t e m rest (sectioned s t b) [] y1 ∧ Quiet s y1 := by
    unfold sectioned
    split
    · next hbk => exact convert_books hc hrow hb htaking hbk h hq
    · exact ⟨y, 0, by decide, .refl t m y, h, hq⟩
  obtain ⟨y1, k1, hk1, hpump1, h1, hq1⟩ := hbook
  have hb' := sectioned_untouched s t hb
  have htaken := sectioned_taking s t htaking
  rw [← hraw] at hc hrow htaken ⊢
  generalize sectioned s t b = b' at *
  obtain ⟨y2, k2, l, hk2, hpump2, h2, hq2, hl⟩ := convert_reads hc hrow hb' htaken h1 hq1
  obtain ⟨y3, k3, hk3, hpump3, h3, hmoved, hwritten⟩ := convert_outputs h2 hrow hl hc hb'.ended hb'.cut hb'.closing rfl hm
  have hbooked : cvBooked (rowCounted s t { b' with pos := 1 }) = true := by
    change (b'.taking || !cvBook b'.raw) = true
    rw [htaken, Bool.or_not_self]
  obtain ⟨y4, hpump4, h4, hq4⟩ := h3.ends hc hb'.ended (nextRead_converted h3 hrow hb'.closing hbooked rfl)
  have hsize : slateSize = 2 ^ 23 := rfl
  have hin := hrow.sourceRange
  have hout := hrow.destRange
  refine ⟨y4, k1 + k2 + k3 + 1, ?_, ((hpump1.trans hpump2).trans hpump3).trans hpump4, h4,
    hq2.rowMoved (hmoved.quiet (hq4.moved t m)), ?_, fun hv => ?_, ?_⟩
  · dsimp only at hk3
    omega
  · exact (hq4.slateNat _ _ _).trans hwritten.first
  · exact (hq4.slateNat _ _ _).trans (hwritten.low hv)
  · intro u o ho hn
    rw [hq4.slate, ← hq2.slate]
    exact hwritten.other u o ho hn

end

end Sys2Proof.Machine

/-! ## Proofs: transfers within the Slate -/

namespace Sys2Proof.Machine

open Sys2Proof

/-! ### What the checks of a CONVERT say (R202, R203, R216) -/

theorem fmtBits_pos_of_convOk {sf df : Nat} (h : convOk sf df = true) : 0 < fmtBits sf := by
  have hvalid : ¬ (sf = 0 ∨ df = 0 ∨ sf > 15 ∨ df > 15) := fun hbad => by
    rw [convOk, if_pos hbad] at h
    exact Bool.false_ne_true h
  exact (by decide : ∀ f < 16, f ≠ 0 → 0 < fmtBits f) sf (by omega) (by omega)

theorem convOk_of_outOk {sf df scheme : Nat} (h : outOk sf df scheme = true) : convOk sf df = true := by
  simp only [outOk, Bool.and_eq_true] at h
  exact h.1.1.2

theorem fmtBits_pos_of_cvFormatsOk {r : Nat} (h : cvFormatsOk r = true) : 0 < fmtBits (cvIfmt r) := by
  rw [cvFormatsOk] at h
  split at h
  · simp only [decide_eq_true_eq] at h
    rw [h.1]
    decide
  · split at h
    · simp only [Bool.and_eq_true] at h
      exact fmtBits_pos_of_convOk (convOk_of_outOk h.1.2)
    · split at h
      · simp only [Bool.and_eq_true] at h
        exact fmtBits_pos_of_convOk h.1
      · exact fmtBits_pos_of_convOk (convOk_of_outOk h)

theorem convertRow_of_descOk {s : State} {t e r : Nat} (h : descOk s t e r = true) (hop : dOp r = 7)
    (hsource : adSpace (cvSrc r) = 2) (hdest : adSpace (cvDst r) = 2) (hrows : cvRows r = 1)
    (haux : cvVariant r ≠ 0 ∨ cvBook r = true → adSpace (cvAux r) = 2)
    (hgood : slateBad s t (adLow (cvSrc r)) (cvInBytes r) = false)
    (hsecond : 2 ≤ cvVariant r → slateBad s t (adLow (cvAux r)) (cvInBytes r) = false)
    (hbook : cvBook r = true → slateBad s t (adLow (cvAux r)) 32 = false ∧
      bookOk (slateNat s t (adLow (cvAux r)) 32) = true)
    (hlow : cvVariant r = 1 → adLow (cvDst r) + cvOutBytes r ≤ adLow (cvAux r) ∨
      adLow (cvAux r) + cvOutBytes r ≤ adLow (cvDst r)) : ConvertRow s t r := by
  have hok : convertOk r = true := by
    simp only [descOk, hop, Bool.and_eq_true] at h
    exact h.2
  simp only [convertOk, hrows, Nat.sub_self, Nat.zero_mul, Nat.zero_add, Bool.and_eq_true, decide_eq_true_eq] at hok
  obtain ⟨⟨⟨⟨⟨⟨⟨⟨⟨-, hformats⟩, -, hcount⟩, -⟩, hsrc⟩, hdst⟩, hthird⟩, -⟩, -⟩, -⟩ := hok
  refine ⟨hop, hrows, hcount, fmtBits_pos_of_cvFormatsOk hformats, hsource, range_of_adRange hsrc hsource, hgood, hdest,
    range_of_adRange hdst hdest, haux, fun hv => ⟨?_, hsecond hv⟩, fun hv => ⟨?_, hlow hv⟩, fun hb => ⟨?_, hbook hb⟩⟩
  · rw [if_neg (by omega), if_pos hv] at hthird
    exact range_of_adRange hthird (haux (.inl (by omega)))
  · rw [if_pos hv] at hthird
    exact range_of_adRange hthird (haux (.inl (by omega)))
  · have hv : cvVariant r = 0 := by
      simp only [cvBook, Bool.and_eq_true, decide_eq_true_eq] at hb
      exact hb.1
    rw [if_neg (by omega), if_neg (by omega), if_pos hb] at hthird
    exact range_of_adRange hthird (haux (.inr hb))

/-! ### The output and the record of a CONVERT -/

/-- The second source counts in the output of a pair alone. -/
theorem cvOutput_second (s : State) (t r n x : Nat) (book : CodeBook) :
    cvOutput r book n x (secondData s t r) = cvOutput r book n x (slateNat s t (adLow (cvAux r)) (cvInBytes r)) := by
  by_cases hpair : 2 ≤ cvVariant r
  · rw [secondData, if_pos hpair]
  · unfold cvOutput
    dsimp only
    rw [if_neg (show ¬ cvVariant r ≥ 2 from hpair), if_neg (show ¬ cvVariant r ≥ 2 from hpair)]

theorem inBytes_sources (r : Nat) : cvInBytes r + secondLen r = cvInBytes r * cvSources r := by
  unfold secondLen cvSources
  split
  · omega
  · omega

section
variable {s : State} {t e : Nat} {d : Desc} {rest : List Desc}

/-- The output of the one row of a CONVERT. -/
def convertOut (s : State) (t r : Nat) : Nat × Nat × FlagCount :=
  cvOutput r (if cvBook r then bookOf (slateNat s t (adLow (cvAux r)) 32) else {}) (cvCount r)
    (slateNat s t (adLow (cvSrc r)) (cvInBytes r)) (slateNat s t (adLow (cvAux r)) (cvInBytes r))

theorem rowOut_sectioned (b : Desc) : rowOut s t { sectioned s t b with pos := 1 } = convertOut s t b.raw := by
  have hraw := sectioned_raw s t b
  have hbook : (if cvBook b.raw then bookOf (sectioned s t b).data else {}) =
      if cvBook b.raw then bookOf (slateNat s t (adLow (cvAux b.raw)) 32) else {} := by
    by_cases hb : cvBook b.raw = true
    · rw [if_pos hb, if_pos hb, sectioned, if_pos hb]
    · rw [if_neg hb, if_neg hb]
  rw [rowOut]
  dsimp only
  rw [hraw, hbook, cvOutput_second, convertOut]

/-- The descriptor of a CONVERT of one row that ended. -/
def converted (s : State) (t : Nat) (d : Desc) : Desc :=
  { begun s d with
    ended := true, pos := 1, taking := cvBook d.raw, count := cvCount d.raw, flags := flagBits (convertOut s t d.raw).2.2 }

theorem moverEnded_rowCounted (hd : d = mkDesc s t e d.idx d.raw) :
    moverEnded (rowCounted s t { sectioned s t (begun s d) with pos := 1 }) = converted s t d := by
  rw [rowCounted, rowOut_sectioned, converted]
  have hraw : (begun s d).raw = d.raw := rfl
  rw [hraw]
  generalize flagBits (convertOut s t d.raw).2.2 = flags
  unfold sectioned
  rw [hraw]
  cases cvBook d.raw
  · rw [if_neg Bool.false_ne_true, hd]
    simp [moverEnded, begun, mkDesc]
  · rw [if_pos rfl, hd]
    simp [moverEnded, begun, mkDesc]

/-! ### The command -/

/-- A CONVERT of one row within the Slate runs to its end at its issue (R203). -/
theorem convert_transfers (he : e < 6) (hi : Issuable s t e d rest) (hd : d = mkDesc s t e d.idx d.raw)
    (htrip : tripped s = false) (hs : s.sramErr = []) (hops : (getMover s t (moverOf e d.raw)).ops = [])
    (hfirst : ∀ x ∈ (getEngine s t e).prog, dOp x.raw ≠ dOp d.raw ∨ x.ended = true) (hrow : ConvertRow s t d.raw) :
    ∃ y, convert t e (cvVariant d.raw) (fresh s) = y ∧
      Transferred s t e (moverOf e d.raw) rest (converted s t d) (cvInBytes d.raw * cvSources d.raw) (flagCounts t) y ∧
      slateNat y t (adLow (cvDst d.raw)) (cvOutBytes d.raw) = (convertOut s t d.raw).1 % 2 ^ (8 * cvOutBytes d.raw) ∧
      (cvVariant d.raw = 1 → slateNat y t (adLow (cvAux d.raw)) (cvOutBytes d.raw) =
        (convertOut s t d.raw).2.1 % 2 ^ (8 * cvOutBytes d.raw)) ∧ OtherSlate s y t (RowBytes d.raw) := by
  obtain ⟨hready, hcan, hok⟩ := hi
  have hc := moveClear_of_issuable hcan (.inr hrow.op) hs
  have hshut := moverShut_of_canIssue hcan htrip
  have h0 := moving_issued (e := e) (rest := rest) (d := d) hops hshut
  have hq0 : Quiet s (pushProg t e (begun s d) (taken s t e rest)) := ⟨rfl, rfl, rfl⟩
  have hstarted : d.started = false := by rw [hd]; rfl
  have hended : d.ended = false := by rw [hd]; rfl
  have htaking : (begun s d).taking = false := by rw [hd]; rfl
  have hall := fun y' n d' => transfer_runs (y' := y') (n := n) (d' := d')
    (p := fun r => decide (dOp r = 7 ∧ cvVariant r = cvVariant d.raw))
    ⟨hready, hcan, hok⟩ (decide_eq_true ⟨hrow.op, rfl⟩) hstarted (by rw [hrow.op]; decide) hended hc
    (fun x hx => (hfirst x hx).imp_left fun hne => decide_eq_false fun hp => hne (hp.1.trans hrow.op.symm)) hops hshut
  generalize pushProg t e (begun s d) (taken s t e rest) = y0 at *
  obtain ⟨y, k, hk, hpump, hmoving, hmoved, hwritten⟩ :=
    convert_runs h0 hq0 hc hrow (untouched_begun hd) htaking (moverOf_lt he d.raw)
  have hraw : (sectioned s t (begun s d)).raw = d.raw := sectioned_raw s t (begun s d)
  have hout := rowOut_sectioned (s := s) (t := t) (begun s d)
  obtain ⟨hdst, hlow, hother⟩ := hwritten
  rw [hout] at hdst hlow
  dsimp only at hdst hlow hother
  rw [hraw] at hdst hlow hother
  refine ⟨y, hall y k _ hpump hk hmoving hraw rfl, ?_, hdst, hlow, hother⟩
  rw [← moverEnded_rowCounted hd, ← inBytes_sources]
  exact ⟨hmoving.ran, hmoved.bytes, hmoving.ops, hmoved.objs, hmoving.frame⟩

/-- Settles O31: the pump of its channel runs a COPY (`copy_transfers`) and a CONVERT (`convert_transfers`) of one row
from its issue to its end, request by request: the reads of a range have its bytes (`ReadsRange.run`, `copy_row`), and the
requests cut from an output leave it in its place (`Moving.writes`). -/
theorem slateTransfers : Obligations.SlateTransfers := by
  intro t e d rest s hi hd htrip hs hops hfirst r Bytes
  obtain ⟨hready, hcan, hok⟩ := hi
  refine ⟨?_, ?_⟩
  · intro hop hsource hdest hrows hgood
    have hrow := copyRow_of_descOk hok hop hsource hdest hrows hgood
    obtain ⟨y, hy, ⟨hran, hmoved, hleft, hobjs, hframe⟩, hwrote, hdata⟩ :=
      copy_transfers e.isLt ⟨hready, hcan, hok⟩ hd htrip hs hops hfirst hrow
    refine answers_run (exec_copy t e s) ?_
    rw [hy]
    exact ⟨hran.sameTime, hdata, hwrote.otherSlate hrow.destRange, hmoved, hleft, hobjs, by rw [hframe]; rfl⟩
  · intro hop hsource hdest hrows haux hgood hsecond hbook hlow out cmd hcmd
    have hrow := convertRow_of_descOk hok hop hsource hdest hrows haux hgood hsecond hbook hlow
    obtain ⟨y, hy, ⟨hran, hmoved, hleft, hobjs, hframe⟩, hdst, haux', hother⟩ :=
      convert_transfers e.isLt ⟨hready, hcan, hok⟩ hd htrip hs hops hfirst hrow
    have hexec : exec cmd s = run (convert t.val e.val (cvVariant r)) s := by
      simp only [List.mem_cons, List.not_mem_nil, or_false, Prod.mk.injEq] at hcmd
      rcases hcmd with ⟨hv, rfl⟩ | ⟨hv, rfl⟩ | ⟨hv, rfl⟩ | ⟨hv, rfl⟩ <;> rw [hv]
      · exact exec_convert t e s
      · exact exec_convertSplit t e s
      · exact exec_convertPairAdd t e s
      · exact exec_convertPairSubtract t e s
    refine answers_run hexec ?_
    rw [hy]
    exact ⟨hran.sameTime, hdst, haux', hother, hmoved, hleft, hobjs, by rw [hframe]; rfl⟩

end

end Sys2Proof.Machine
